-- ==== Sys2Proof/Word.lean ====
section
/-! DEFINITION. The words of the Ziltar architecture: 64-bit scalars, 32-bit instruction words and bytes (00_scope.md R7, R8). -/

namespace Sys2Proof

/-- A scalar register, an address or a CSR value (R67). -/
abbrev Word := BitVec 64

/-- An instruction word (R38). -/
abbrev IWord := BitVec 32

/-- One byte of memory. -/
abbrev Byte := BitVec 8

/-- A vector register at full grant (R126). -/
abbrev VReg := BitVec 8192

/-- A mask register (R129). -/
abbrev KReg := BitVec 2048

/-- The six sticky arithmetic flags of `fflags`: NX, UF, OF, DZ, NV, SAT from bit 0 (R79). -/
abbrev Flags := BitVec 6

/-- A number read as an address or a word. -/
def word (n : Nat) : Word := BitVec.ofNat 64 n

end Sys2Proof
end

