-- ==== Sys2Proof/Types.lean ====
section
/-! DEFINITION. The small fixed sets of names the manual uses everywhere: element types (R11), scopes (R10), rounding modes (R116), wait outcomes (R12), fault codes (R104). -/

namespace Sys2Proof

/-- The element types of R11, in code order. -/
inductive ElTy
  | i8 | i16 | i32 | i64 | z8 | z16 | z32 | z64 | f32 | bf16
  | f16 | e4m3 | e5m2 | e2m1 | mx8a | mx8b | mx4 | tb8 | tb4 | e8m0
deriving DecidableEq, Repr

/-- The code of an element type (R11). -/
def ElTy.code : ElTy → Nat
  | .i8 => 0 | .i16 => 1 | .i32 => 2 | .i64 => 3 | .z8 => 4 | .z16 => 5 | .z32 => 6 | .z64 => 7
  | .f32 => 8 | .bf16 => 9 | .f16 => 10 | .e4m3 => 11 | .e5m2 => 12 | .e2m1 => 13 | .mx8a => 14
  | .mx8b => 15 | .mx4 => 16 | .tb8 => 17 | .tb4 => 18 | .e8m0 => 19

/-- The element type a code names; codes 20 to 31 name none (R11). -/
def ElTy.ofCode : Nat → Option ElTy
  | 0 => some .i8 | 1 => some .i16 | 2 => some .i32 | 3 => some .i64 | 4 => some .z8
  | 5 => some .z16 | 6 => some .z32 | 7 => some .z64 | 8 => some .f32 | 9 => some .bf16
  | 10 => some .f16 | 11 => some .e4m3 | 12 => some .e5m2 | 13 => some .e2m1 | 14 => some .mx8a
  | 15 => some .mx8b | 16 => some .mx4 | 17 => some .tb8 | 18 => some .tb4 | 19 => some .e8m0
  | _ => none

/-- The scopes of R10, smallest first. -/
inductive Scope
  | strand | core | quad | cluster | die | pkg | sys | fab
deriving DecidableEq, Repr

/-- The code of a scope (R10). -/
def Scope.code : Scope → Nat
  | .strand => 0 | .core => 1 | .quad => 2 | .cluster => 3 | .die => 4 | .pkg => 5 | .sys => 6 | .fab => 7

/-- The scope a 3-bit code names. -/
def Scope.ofCode : Nat → Scope
  | 0 => .strand | 1 => .core | 2 => .quad | 3 => .cluster | 4 => .die | 5 => .pkg | 6 => .sys | _ => .fab

/-- The rounding modes of R116; `dyn` is resolved against `frm` before any rounding. -/
inductive Rnd
  | rne | rtz | rdn | rup | rna | efb
deriving DecidableEq, Repr

/-- The code of a rounding mode in `frm` (R79, R116). -/
def Rnd.code : Rnd → Nat
  | .rne => 0 | .rtz => 1 | .rdn => 2 | .rup => 3 | .rna => 4 | .efb => 5

/-- The rounding mode a `frm` code names; 6 and 7 are not accepted (R79). -/
def Rnd.ofCode : Nat → Option Rnd
  | 0 => some .rne | 1 => some .rtz | 2 => some .rdn | 3 => some .rup | 4 => some .rna | 5 => some .efb
  | _ => none

/-- The outcomes of a wait (R12). -/
inductive WaitOutcome
  | met | expired | late | mended | excused | pastOnEntry | void | stale
deriving DecidableEq, Repr

/-- The code of a wait outcome (R12). -/
def WaitOutcome.code : WaitOutcome → Nat
  | .met => 0 | .expired => 1 | .late => 2 | .mended => 3 | .excused => 4 | .pastOnEntry => 5 | .void => 6
  | .stale => 7

/-- The fault codes of R104. -/
inductive FaultCode
  | illegalInstruction | illegalOperand | misaligned | loopOverflow | loopUnderflow | noLanes
  | regWaitExpired | regEmptyTrap | watermarkExpired | matrixWaitExpired
  | pageNotPresent | pageProtection | firstTouchPoolEmpty | nearBounds | kindForbidden | memoryExhausted
  | poisonConsumed | uncorrectableEcc
  | handleVoid | handleMismatch | handleStale | handleRegion | lineageFull
  | barOverrun | hostAtomicUnsupported | hostProxyExpired | budgetOverrun | ringVoid | ringDescriptor
  | copyDescriptor | copyFault | fabricUnreachable | fabricPoison | tdiLeftRun | keyRevoked
  | breakpoint | step | queueLost | svc
deriving DecidableEq, Repr

/-- The number of a fault code (R104). -/
def FaultCode.num : FaultCode → Nat
  | .illegalInstruction => 0x01 | .illegalOperand => 0x02 | .misaligned => 0x03 | .loopOverflow => 0x04
  | .loopUnderflow => 0x05 | .noLanes => 0x06 | .regWaitExpired => 0x08 | .regEmptyTrap => 0x09
  | .watermarkExpired => 0x0A | .matrixWaitExpired => 0x0B | .pageNotPresent => 0x10 | .pageProtection => 0x11
  | .firstTouchPoolEmpty => 0x12 | .nearBounds => 0x13 | .kindForbidden => 0x14 | .memoryExhausted => 0x15
  | .poisonConsumed => 0x18 | .uncorrectableEcc => 0x19 | .handleVoid => 0x20 | .handleMismatch => 0x21
  | .handleStale => 0x22 | .handleRegion => 0x23 | .lineageFull => 0x24 | .barOverrun => 0x28
  | .hostAtomicUnsupported => 0x2A | .hostProxyExpired => 0x2B | .budgetOverrun => 0x30 | .ringVoid => 0x31
  | .ringDescriptor => 0x32 | .copyDescriptor => 0x38 | .copyFault => 0x39 | .fabricUnreachable => 0x40
  | .fabricPoison => 0x41 | .tdiLeftRun => 0x48 | .keyRevoked => 0x49 | .breakpoint => 0x50 | .step => 0x51
  | .queueLost => 0x58 | .svc => 0x60

end Sys2Proof
end

