-- ==== Sys2Proof/Machine/Float.lean ====
section
/-! DEFINITION. Exact arithmetic and rounding (04_formats.md R107 to R125): values of elements, `round()`, and the correctly rounded operations of the vector unit. -/

namespace Sys2Proof.Machine

/-- The exact value of an element: NaN, an infinity, or (-1)^neg * m * 2^e. -/
inductive FVal
  | nan
  | inf (neg : Bool)
  | fin (neg : Bool) (m : Nat) (e : Int)
deriving DecidableEq, Repr

/-- The layout of a floating format (R108): `F` fraction bits, `bias`, the code of the largest finite magnitude, and which special codes it has. -/
structure FFmt where
  width : Nat
  F : Nat
  bias : Nat
  maxCode : Nat
  hasInf : Bool
  hasNan : Bool
  nanCode : Nat
deriving DecidableEq, Repr

/-- The formats of R108; the other types have no floating format of their own. -/
def fmtOf : ElTy → Option FFmt
  | .f32 => some ⟨32, 23, 127, 0x7F7FFFFF, true, true, 0x7FC00000⟩
  | .bf16 => some ⟨16, 7, 127, 0x7F7F, true, true, 0x7FC0⟩
  | .f16 => some ⟨16, 10, 15, 0x7BFF, true, true, 0x7E00⟩
  | .e4m3 => some ⟨8, 3, 7, 0x7E, false, true, 0x7F⟩
  | .e5m2 => some ⟨8, 2, 15, 0x7B, true, true, 0x7E⟩
  | .e2m1 => some ⟨4, 1, 1, 0x7, false, false, 0⟩
  | _ => none

/-- The E3M3 magnitude of `.tb8` (R112). -/
def fmtTb8 : FFmt := ⟨7, 3, 3, 0x3F, false, false, 0⟩

/-- The integer magnitude 0 to 3 of `.tb4` (R112), as a format whose spacing is 1 throughout. -/
def fmtTb4 : FFmt := ⟨3, 1, 0, 3, false, false, 0⟩

/-- `.f32`. -/
def fmtF32 : FFmt := ⟨32, 23, 127, 0x7F7FFFFF, true, true, 0x7FC00000⟩

/-- The position of the sign bit of a format. -/
def FFmt.signBit (f : FFmt) : Nat := f.width - 1

def flagNX : Flags := 1
def flagUF : Flags := 2
def flagOF : Flags := 4
def flagDZ : Flags := 8
def flagNV : Flags := 16
def flagSAT : Flags := 32

/-- The magnitude a magnitude code stands for (R108). -/
def decodeMag (f : FFmt) (code : Nat) : Nat × Int :=
  let e := code / 2 ^ f.F
  let frac := code % 2 ^ f.F
  if e = 0 then (frac, 1 - (f.bias : Int) - f.F)
  else (2 ^ f.F + frac, (e : Int) - f.bias - f.F)

/-- The exact value of a code of a format (R108, R109). -/
def decodeF (f : FFmt) (code : Nat) : FVal :=
  let neg := decide ((code / 2 ^ f.signBit) % 2 = 1)
  let mag := code % 2 ^ f.signBit
  if mag ≤ f.maxCode then let (m, e) := decodeMag f mag; .fin neg m e
  else if f.hasInf && decide (mag = f.maxCode + 1) then .inf neg
  else .nan

/-- floor(log2 n) for n above 0. -/
def ilog2 (n : Nat) : Nat := Nat.log2 n

/-- Whether a truncated magnitude is rounded up: `q` the quotient kept, `r` the remainder out of `2^sh`. -/
def roundUp (m : Rnd) (neg : Bool) (q r d : Nat) : Bool :=
  if r = 0 then false
  else match m with
    | .rne | .efb => decide (2 * r > d) || (decide (2 * r = d) && decide (q % 2 = 1))
    | .rtz => false
    | .rdn => neg
    | .rup => !neg
    | .rna => decide (2 * r ≥ d)

/-- A magnitude m * 2^e rounded to a format's spacing with no upper exponent limit: the magnitude code and whether it is inexact. -/
def roundMag (f : FFmt) (m : Rnd) (neg : Bool) (man : Nat) (e : Int) : Nat × Bool :=
  if man = 0 then (0, false)
  else
    let emin : Int := 1 - (f.bias : Int) - f.F
    let q : Int := max ((ilog2 man : Int) + e - f.F) emin
    let base : Nat := (q - emin).toNat * 2 ^ f.F
    if q ≤ e then (base + man * 2 ^ (e - q).toNat, false)
    else
      let d := 2 ^ (q - e).toNat
      let k := man / d
      let r := man % d
      (base + (if roundUp m neg k r d then k + 1 else k), decide (r ≠ 0))

/-- A sign put on a magnitude code. -/
def withSign (f : FFmt) (neg : Bool) (mag : Nat) : Nat := if neg then 2 ^ f.signBit + mag else mag

/-- `overflow(t, m, s)` of R117. -/
def overflowCode (t : ElTy) (f : FFmt) (m : Rnd) (neg : Bool) : Nat :=
  match t with
  | .e4m3 => f.nanCode
  | .e5m2 => withSign f neg (f.maxCode + 1)
  | _ =>
    let toInf : Bool := match m with
      | .rne | .rna | .efb => true
      | .rtz => false
      | .rdn => neg
      | .rup => !neg
    withSign f neg (if toInf then f.maxCode + 1 else f.maxCode)

/-- `round(x, t, m)` of R117 for a floating type: the code and the flags. -/
def roundF (t : ElTy) (f : FFmt) (m : Rnd) (x : FVal) : Nat × Flags :=
  match x with
  | .nan => (f.nanCode, 0)
  | .inf neg => if f.hasInf then (withSign f neg (f.maxCode + 1), 0) else (f.nanCode, 0)
  | .fin neg man e =>
    let (c, nx) := roundMag f m neg man e
    if c > f.maxCode then (overflowCode t f m neg, flagOF ||| flagNX)
    else
      (withSign f neg c,
        (if nx then flagNX else 0) ||| (if nx && decide (c < 2 ^ f.F) then flagUF else 0))

/-- `round(x, t, m)` for any type of R108; types without a format of their own give 0. -/
def roundTo (t : ElTy) (m : Rnd) (x : FVal) : Nat × Flags :=
  match fmtOf t with
  | some f => roundF t f m x
  | none => (0, 0)

/-- The exact value of an `.e8m0` code (R110). -/
def decodeE8m0 (code : Nat) : FVal :=
  if code = 0xFF then .nan else .fin false 1 ((code : Int) - 127)

/-- Aligns two finite magnitudes to one exponent. -/
def alignExp (m1 : Nat) (e1 : Int) (m2 : Nat) (e2 : Int) : Nat × Nat × Int :=
  let e := min e1 e2
  (m1 * 2 ^ (e1 - e).toNat, m2 * 2 ^ (e2 - e).toNat, e)

/-- A signed integer times 2^e as a value; `nz` is the sign a zero takes. -/
def ofSigned (z : Int) (e : Int) (nz : Bool) : FVal :=
  if z = 0 then .fin nz 0 0 else .fin (decide (z < 0)) z.natAbs e

/-- The signed magnitude of a finite value. -/
def signedMan (neg : Bool) (m : Nat) : Int := if neg then -(m : Int) else m

/-- The exact sum (R117): the value and NV where it is invalid; an exact zero from unlike signs is +0, or -0 under rdn. -/
def addF (m : Rnd) : FVal → FVal → FVal × Flags
  | .nan, _ => (.nan, 0)
  | _, .nan => (.nan, 0)
  | .inf a, .inf b => if a = b then (.inf a, 0) else (.nan, flagNV)
  | .inf a, _ => (.inf a, 0)
  | _, .inf b => (.inf b, 0)
  | .fin n1 m1 e1, .fin n2 m2 e2 =>
    let (a, b, e) := alignExp m1 e1 m2 e2
    let z := signedMan n1 a + signedMan n2 b
    let nz := if m1 = 0 ∧ m2 = 0 ∧ n1 = n2 then n1 else decide (m = .rdn)
    (ofSigned z e nz, 0)

/-- Negation of a value. -/
def negF : FVal → FVal
  | .nan => .nan
  | .inf n => .inf (!n)
  | .fin n m e => .fin (!n) m e

/-- The exact product (R117). -/
def mulF : FVal → FVal → FVal × Flags
  | .nan, _ => (.nan, 0)
  | _, .nan => (.nan, 0)
  | .inf a, .inf b => (.inf (a != b), 0)
  | .inf a, .fin b m _ => if m = 0 then (.nan, flagNV) else (.inf (a != b), 0)
  | .fin a m _, .inf b => if m = 0 then (.nan, flagNV) else (.inf (a != b), 0)
  | .fin n1 m1 e1, .fin n2 m2 e2 => (.fin (n1 != n2) (m1 * m2) (e1 + e2), 0)

/-- A quotient of naturals kept to at least 64 significant bits, with a last bit that says a remainder was left. -/
def quotSticky (a b : Nat) : Nat × Int :=
  let k := 64 + ilog2 b + 1
  let n := a * 2 ^ k
  (2 * (n / b) + (if n % b = 0 then 0 else 1), -((k : Int) + 1))

/-- The quotient (R117): 0/0 and inf/inf are invalid, a finite non-zero value over zero sets DZ. -/
def divF : FVal → FVal → FVal × Flags
  | .nan, _ => (.nan, 0)
  | _, .nan => (.nan, 0)
  | .inf _, .inf _ => (.nan, flagNV)
  | .inf a, .fin b _ _ => (.inf (a != b), 0)
  | .fin a _ _, .inf b => (.fin (a != b) 0 0, 0)
  | .fin n1 m1 e1, .fin n2 m2 e2 =>
    if m2 = 0 then (if m1 = 0 then (.nan, flagNV) else (.inf (n1 != n2), flagDZ))
    else if m1 = 0 then (.fin (n1 != n2) 0 0, 0)
    else
      let (q, e) := quotSticky m1 m2
      (.fin (n1 != n2) q (e + e1 - e2), 0)

/-- The integer square root, bit by bit from bit `k - 1` down. -/
def isqrtBits (n : Nat) : Nat → Nat → Nat
  | 0, acc => acc
  | k + 1, acc =>
    let t := acc + 2 ^ k
    isqrtBits n k (if t * t ≤ n then t else acc)

/-- floor(sqrt n). -/
def isqrt (n : Nat) : Nat := isqrtBits n (ilog2 n / 2 + 1) 0

/-- The square root (R117, R118). -/
def sqrtF : FVal → FVal × Flags
  | .nan => (.nan, 0)
  | .inf false => (.inf false, 0)
  | .inf true => (.nan, flagNV)
  | .fin n m e =>
    if m = 0 then (.fin n 0 0, 0)
    else if n then (.nan, flagNV)
    else
      let odd := (e % 2).toNat
      let big := m * 2 ^ (128 + odd)
      let r := isqrt big
      (.fin false (2 * r + (if r * r = big then 0 else 1)) ((e - odd - 128) / 2 - 1), 0)

/-- The reciprocal (R118). -/
def rcpF (x : FVal) : FVal × Flags := divF (.fin false 1 0) x

/-- The reciprocal square root (R118). -/
def rsqrtF : FVal → FVal × Flags
  | .nan => (.nan, 0)
  | .inf false => (.fin false 0 0, 0)
  | .inf true => (.nan, flagNV)
  | .fin n m e =>
    if m = 0 then (.inf n, flagDZ)
    else if n then (.nan, flagNV)
    else
      let odd := (e % 2).toNat
      let d := m * 2 ^ odd
      let k := 128 + 2 * (ilog2 d + 1)
      let r := isqrt (2 ^ k / d)
      (.fin false (2 * r + (if r * r * d = 2 ^ k then 0 else 1)) (-((e - odd) / 2) - (k / 2 : Nat) - 1), 0)

/-- ln 2 as a fixed-point number with 320 fraction bits. Log 11 (DEDUCED). -/
def ln2Fix : Nat := 0xb17217f7d1cf79abc9e3b39803f2f6af40f343267298b62d8a0d175b8baafa2be7b876206debac98

/-- The Taylor sum of e^y for a fixed-point y with 320 fraction bits: `t` is the term reached, `k` its number. Log 11 (DEDUCED). -/
def expTaylor (y : Nat) : Nat → Nat → Nat → Nat → Nat
  | 0, _, _, acc => acc
  | fuel + 1, k, t, acc =>
    let t' := t * y / 2 ^ 320 / k
    expTaylor y fuel (k + 1) t' (acc + t')

/-- 2^x (R118): exact for an integer x; otherwise a 320-bit value with a last bit that says it is not exact. Log 11 (DEDUCED). -/
def exp2F : FVal → FVal × Flags
  | .nan => (.nan, 0)
  | .inf false => (.inf false, 0)
  | .inf true => (.fin false 0 0, 0)
  | .fin n m e =>
    if m = 0 then (.fin false 1 0, 0)
    else if (ilog2 m : Int) + e ≥ 12 then (.fin false 1 (if n then -4096 else 4096), 0)
    else
      -- x as a signed fixed-point number with 320 fraction bits; every bit of an f32 input is kept
      let fx : Int := if e ≥ -320 then signedMan n (m * 2 ^ (e + 320).toNat) else 0
      let ip : Int := fx / (2 ^ 320 : Nat)
      let fp : Nat := (fx % (2 ^ 320 : Nat)).toNat
      if fp = 0 then (.fin false 1 ip, 0)
      else
        let y := fp * ln2Fix / 2 ^ 320
        let v := expTaylor y 80 1 (2 ^ 320) (2 ^ 320)
        (.fin false (2 * v + 1) (ip - 321), 0)

/-- Strict order of two values, -0 equal to +0; false with a NaN (R142). -/
def ltF : FVal → FVal → Bool
  | .nan, _ => false
  | _, .nan => false
  | .inf a, .inf b => a && !b
  | .inf a, .fin _ _ _ => a
  | .fin _ _ _, .inf b => !b
  | .fin n1 m1 e1, .fin n2 m2 e2 =>
    let (a, b, _) := alignExp m1 e1 m2 e2
    decide (signedMan n1 a < signedMan n2 b)

/-- Equality of two values, -0 equal to +0; false with a NaN (R142). -/
def eqF : FVal → FVal → Bool
  | .nan, _ => false
  | _, .nan => false
  | .inf a, .inf b => a == b
  | .inf _, .fin _ _ _ => false
  | .fin _ _ _, .inf _ => false
  | .fin n1 m1 e1, .fin n2 m2 e2 =>
    let (a, b, _) := alignExp m1 e1 m2 e2
    decide (signedMan n1 a = signedMan n2 b)

/-- The sign of a value, that of a zero included. -/
def signF : FVal → Bool
  | .nan => false
  | .inf n => n
  | .fin n _ _ => n

/-- The smaller of two values: a NaN gives NaN, -0 counts as less than +0 (R118). -/
def minF (a b : FVal) : FVal :=
  if a = .nan ∨ b = .nan then .nan
  else if ltF a b then a
  else if ltF b a then b
  else if signF a then a else b

/-- The larger of two values (R118). -/
def maxF (a b : FVal) : FVal :=
  if a = .nan ∨ b = .nan then .nan
  else if ltF a b then b
  else if ltF b a then a
  else if signF a then b else a

end Sys2Proof.Machine
end

