-- ==== Sys2Proof/Machine/Formats.lean ====
section
/-! DEFINITION. Element types: widths, classes, values, conversions (R107, R121, R127, R137) and the block formats (R111 to R115). -/

namespace Sys2Proof.Machine

/-- The element width in bits (R127). -/
def widthOf : ElTy → Nat
  | .i8 | .z8 | .e4m3 | .e5m2 | .e8m0 | .mx8a | .mx8b | .tb8 => 8
  | .i16 | .z16 | .bf16 | .f16 => 16
  | .i32 | .z32 | .f32 => 32
  | .i64 | .z64 => 64
  | .e2m1 | .mx4 | .tb4 => 4

/-- Class I of R137: the integers. -/
def isInt (t : ElTy) : Bool := decide (t.code ≤ 7)
/-- A signed integer type. -/
def isSigned (t : ElTy) : Bool := decide (t.code ≤ 3)
/-- Class F of R137: `.f32`, `.bf16`, `.f16`. -/
def isF (t : ElTy) : Bool := decide (8 ≤ t.code ∧ t.code ≤ 10)
/-- Class E of R137: `.e4m3`, `.e5m2`, `.e8m0`. -/
def isE : ElTy → Bool
  | .e4m3 | .e5m2 | .e8m0 => true
  | _ => false
/-- The block types (R111). -/
def isBlock (t : ElTy) : Bool := decide (14 ≤ t.code ∧ t.code ≤ 18)
/-- The twin-scale types (R112). -/
def isTwin : ElTy → Bool
  | .tb8 | .tb4 => true
  | _ => false

/-- Reads a w-bit number as signed. -/
def toSigned (w n : Nat) : Int :=
  let x := n % 2 ^ w
  if 2 * x ≥ 2 ^ w then (x : Int) - 2 ^ w else x

/-- The low w bits of an integer. -/
def wrapInt (w : Nat) (z : Int) : Nat := (z % (2 ^ w : Nat)).toNat

/-- The integer an element of an integer type stands for. -/
def intVal (t : ElTy) (c : Nat) : Int := if isSigned t then toSigned (widthOf t) c else (c % 2 ^ widthOf t : Nat)

/-- The smallest value of an integer type (R107). -/
def intMin (t : ElTy) : Int := if isSigned t then -(2 ^ (widthOf t - 1) : Nat) else 0
/-- The largest value of an integer type (R107). -/
def intMax (t : ElTy) : Int :=
  if isSigned t then ((2 ^ (widthOf t - 1) : Nat) : Int) - 1 else ((2 ^ widthOf t : Nat) : Int) - 1

/-- The exact value of an element that is not of a block type (R107, R108, R110). -/
def elemVal (t : ElTy) (c : Nat) : FVal :=
  match fmtOf t with
  | some f => decodeF f c
  | none =>
    if t = .e8m0 then decodeE8m0 (c % 256)
    else ofSigned (intVal t c) 0 false

/-- A finite magnitude rounded to an integer under m (R121): the magnitude and whether it is inexact. -/
def roundNat (m : Rnd) (neg : Bool) (man : Nat) (e : Int) : Nat × Bool :=
  if e ≥ 0 then (man * 2 ^ e.toNat, false)
  else
    let d := 2 ^ (-e).toNat
    let k := man / d
    let r := man % d
    (if roundUp m neg k r d then k + 1 else k, decide (r ≠ 0))

/-- Rounds to `.e8m0` (R121). -/
def roundE8m0 (m : Rnd) (sat : Bool) (x : FVal) : Nat × Flags :=
  match x with
  | .nan => (0xFF, flagNV)
  | .inf true => (0xFF, flagNV)
  | .inf false => if sat then (0xFE, flagSAT) else (0xFF, 0)
  | .fin neg man e =>
    if man = 0 ∨ neg then (0xFF, flagNV)
    else
      let l := ilog2 man
      let q : Int := (l : Int) + e
      let d := 2 ^ l
      let r := man % d
      let nx := decide (r ≠ 0)
      let up : Bool := match m with
        | .rne | .efb => decide (2 * r > d) || (decide (2 * r = d) && decide ((q + 127) % 2 = 1))
        | .rtz | .rdn => false
        | .rup => nx
        | .rna => decide (2 * r ≥ d) && nx
      let q' := if up then q + 1 else q
      if q < -127 then (0, flagUF ||| flagNX)
      else if q' > 127 then (if sat then (0xFE, flagSAT) else (0xFF, flagOF ||| flagNX))
      else ((q' + 127).toNat, if nx then flagNX else 0)

/-- Whether a finite magnitude lies above a format's largest finite value. Log 19 (DEDUCED). -/
def aboveMax (f : FFmt) (man : Nat) (e : Int) : Bool :=
  let (mm, me) := decodeMag f f.maxCode
  let (a, b, _) := alignExp man e mm me
  decide (a > b)

/-- The saturating conversion to a floating format (R121): a result or an input above the largest finite value clamps and sets SAT alone. Log 19 (DEDUCED). -/
def satF (t : ElTy) (f : FFmt) (m : Rnd) (x : FVal) : Nat × Flags :=
  match x with
  | .nan => if f.hasNan then (f.nanCode, 0) else (0, flagNV)
  | .inf neg => (withSign f neg f.maxCode, flagSAT)
  | .fin neg man e =>
    let (c, _) := roundMag f m neg man e
    if c > f.maxCode ∨ aboveMax f man e then (withSign f neg f.maxCode, flagSAT)
    else roundF t f m x

/-- The conversion of a float to an integer type (R121). -/
def floatToInt (t : ElTy) (m : Rnd) (sat : Bool) (x : FVal) : Nat × Flags :=
  let w := widthOf t
  let bad : Nat := if isSigned t then 2 ^ (w - 1) else 2 ^ w - 1
  match x with
  | .nan => if sat then (0, flagNV) else (bad, flagNV)
  | .inf neg => if sat then (wrapInt w (if neg then intMin t else intMax t), flagSAT) else (bad, flagNV)
  | .fin neg man e =>
    let (k, nx) := roundNat m neg man e
    let z := signedMan neg k
    if z < intMin t then (if sat then (wrapInt w (intMin t), flagSAT) else (bad, flagNV))
    else if z > intMax t then (if sat then (wrapInt w (intMax t), flagSAT) else (bad, flagNV))
    else (wrapInt w z, if nx then flagNX else 0)

/-- The conversion of an integer to an integer type (R107): a wider type takes the value extended as its source type has it; a narrower one the low bits, or the clamped value for `vcvt.sat`. Between types of one width, of which R107 says nothing, `vcvt.sat` clamps and `vcvt` keeps the bits. Log 63 (DESIGN CHOICE). -/
def intToInt (s t : ElTy) (sat : Bool) (c : Nat) : Nat × Flags :=
  let z := intVal s c
  let w := widthOf t
  if sat && decide (w ≤ widthOf s) then
    if z < intMin t then (wrapInt w (intMin t), flagSAT)
    else if z > intMax t then (wrapInt w (intMax t), flagSAT)
    else (wrapInt w z, 0)
  else (wrapInt w z, 0)

/-- `convert` on a value (R121), for every destination that is not an integer fed by an integer. -/
def convertVal (t : ElTy) (m : Rnd) (sat : Bool) (x : FVal) : Nat × Flags :=
  match fmtOf t with
  | some f => if sat then satF t f m x else roundF t f m x
  | none => if t = .e8m0 then roundE8m0 m sat x else floatToInt t m sat x

/-- `convert(x, t, m, sat)` of an element of type s (R121). -/
def convertEl (s t : ElTy) (m : Rnd) (sat : Bool) (c : Nat) : Nat × Flags :=
  if isInt s && isInt t then intToInt s t sat c else convertVal t m sat (elemVal s c)

/-- The efb chain of R120 over the active elements in order: (results, residual, flags). Inactive elements give none. -/
def efbChain (s t : ElTy) (sat : Bool) : List (Bool × Nat) → FVal → List (Option Nat) × FVal × Flags
  | [], e => ([], e, 0)
  | (act, c) :: rest, e =>
    if act then
      let x := elemVal s c
      let step : Nat × Flags × FVal :=
        match x with
        | .fin _ _ _ =>
          let z := (addF .rne x e).1
          let (y, fl) := convertVal t .rne sat z
          let e' : FVal :=
            match elemVal t y with
            | .fin n m k =>
              let d := (addF .rne z (negF (.fin n m k))).1
              match decodeF fmtF32 (roundF .f32 fmtF32 .rne d).1 with
              | .inf _ => .fin false 0 0
              | e => e
            | _ => .fin false 0 0
          (y, fl, e')
        | _ => let (y, fl) := convertVal t .rne sat x; (y, fl, .fin false 0 0)
      let (ys, e'', fls) := efbChain s t sat rest step.2.2
      (some step.1 :: ys, e'', step.2.1 ||| fls)
    else
      let (ys, e'', fls) := efbChain s t sat rest e
      (none :: ys, e'', fls)

/-! Block formats. -/

/-- The element format of a block type: for the twin-scale types, that of the magnitude. -/
def blockFmt : ElTy → FFmt
  | .mx8a => ⟨8, 3, 7, 0x7E, false, true, 0x7F⟩
  | .mx8b => ⟨8, 2, 15, 0x7B, true, true, 0x7E⟩
  | .mx4 => ⟨4, 1, 1, 0x7, false, false, 0⟩
  | .tb8 => fmtTb8
  | _ => fmtTb4

/-- E_el of R113. -/
def blockEel : ElTy → Int
  | .mx8a => 8 | .mx8b => 15 | .mx4 => 2 | .tb8 => 4 | _ => 1

/-- Scale bytes of one block (R111). -/
def scaleBytes (t : ElTy) : Nat := if isTwin t then 2 else 1

/-- Element bytes of one block (R111). -/
def blockElemBytes (t : ElTy) : Nat := if widthOf t = 4 then 16 else 32

/-- The value of an element of a block with scales x0 (the only one of an MX block) and x1 (R111, R112). -/
def blockVal (t : ElTy) (x0 x1 c : Nat) : FVal :=
  if x0 = 0xFF ∨ (isTwin t ∧ x1 = 0xFF) then .nan
  else if isTwin t then
    let w := widthOf t
    let neg := decide ((c / 2 ^ (w - 1)) % 2 = 1)
    let x := if (c / 2 ^ (w - 2)) % 2 = 1 then x1 else x0
    let (m, e) := decodeMag (blockFmt t) (c % 2 ^ (w - 2))
    .fin neg m (e + x - 127)
  else
    match decodeF (blockFmt t) c with
    | .fin n m e => .fin n m (e + x0 - 127)
    | v => v

/-- floor(log2 m*2^e) for m above 0. -/
def flog2 (m : Nat) (e : Int) : Int := (ilog2 m : Int) + e

/-- `scale(a)` of R113 for a = m*2^e. -/
def scaleOf (t : ElTy) (m : Nat) (e : Int) : Nat :=
  if m = 0 then 0 else (max (flog2 m e - blockEel t) (-127) + 127).toNat

/-- One element encoded under one scale (R113): magnitude code, flags, and whether it was clamped. Log 19 (DEDUCED). -/
def encodeUnder (t : ElTy) (m : Rnd) (x : Nat) (neg : Bool) (man : Nat) (e : Int) : Nat × Flags × Bool :=
  let f := blockFmt t
  let e' := e - ((x : Int) - 127)
  let (c, nx) := roundMag f m neg man e'
  if c > f.maxCode ∨ aboveMax f man e' then (f.maxCode, flagSAT, true)
  else
    (c, (if nx then flagNX else 0) ||| (if nx && decide (c < 2 ^ f.F) && decide (t ≠ .tb4) then flagUF else 0), false)

/-- The absolute error of a magnitude code under a scale, as a magnitude m*2^e. -/
def encodeErr (t : ElTy) (x c man : Nat) (e : Int) : Nat × Int :=
  let (cm, ce) := decodeMag (blockFmt t) c
  let (a, b, k) := alignExp man e cm (ce + x - 127)
  (if a ≥ b then a - b else b - a, k)

/-- Order of two magnitudes m*2^e. -/
def magLt (a b : Nat × Int) : Bool := let (p, q, _) := alignExp a.1 a.2 b.1 b.2; decide (p < q)

/-- The largest of the magnitudes of a list of finite values. -/
def amax (l : List FVal) : Nat × Int :=
  l.foldl (fun acc v => match v with
    | .fin _ m e => if magLt acc (m, e) then (m, e) else acc
    | _ => acc) (0, 0)

/-- Whether a value is not finite. -/
def notFinite : FVal → Bool
  | .fin _ _ _ => false
  | _ => true

/-- A packed block: the scales and, for each element given, its code; with the flags (R113). `none` elements are inactive. -/
structure Packed where
  x0 : Nat
  x1 : Nat
  codes : List (Option Nat)
  flags : Flags
deriving DecidableEq, Repr

/-- Packs one block under a mode (R113). -/
def packBlock (t : ElTy) (m : Rnd) (els : List (Option FVal)) : Packed :=
  let act := els.filterMap id
  if act.any notFinite then ⟨0xFF, 0xFF, els.map (fun o => o.map (fun _ => 0)), 0⟩
  else
    let am := amax act
    let x1 := scaleOf t am.1 am.2
    let w := widthOf t
    if isTwin t then
      let cap : Nat × Int := if t = .tb4 then (3, -2) else (30, -2)
      let small := act.filter (fun v => match v with
        | .fin n mm e =>
          let (c, _, _) := encodeUnder t m x1 n mm e
          !(magLt cap (decodeMag (blockFmt t) c))
        | _ => false)
      let sm := amax small
      let x0 := if sm.1 = 0 then x1 else scaleOf t sm.1 sm.2
      let enc : FVal → Nat × Flags := fun v => match v with
        | .fin n mm e =>
          let (c0, f0, _) := encodeUnder t m x0 n mm e
          let (c1, f1, _) := encodeUnder t m x1 n mm e
          let pick0 := magLt (encodeErr t x0 c0 mm e) (encodeErr t x1 c1 mm e)
          let s : Nat := if n then 2 ^ (w - 1) else 0
          if pick0 then (s + c0, f0) else (s + 2 ^ (w - 2) + c1, f1)
        | _ => (0, 0)
      ⟨x0, x1, els.map (fun o => o.map (fun v => (enc v).1)), act.foldl (fun fl v => fl ||| (enc v).2) 0⟩
    else
      let enc : FVal → Nat × Flags := fun v => match v with
        | .fin n mm e =>
          let (c, f, _) := encodeUnder t m x1 n mm e
          (withSign (blockFmt t) n c, f)
        | _ => (0, 0)
      ⟨x1, x1, els.map (fun o => o.map (fun v => (enc v).1)), act.foldl (fun fl v => fl ||| (enc v).2) 0⟩

/-- The code an inactive element of a stored block takes (R160): sign 0, magnitude 0, selector 1 for twin-scale types. -/
def zeroCode (t : ElTy) : Nat := if isTwin t then 2 ^ (widthOf t - 2) else 0

/-! Matrix types (R177) and the row sum (R125). -/

/-- The width class of a matrix type: 1 for 16-bit, 2 for 8-bit, 3 for 4-bit; 0 for a type the matrix unit does not take. -/
def mclass : ElTy → Nat
  | .bf16 | .f16 => 1
  | .e4m3 | .e5m2 | .i8 | .mx8a | .mx8b | .tb8 => 2
  | .mx4 | .tb4 => 3
  | _ => 0

/-- K of a class (R177). -/
def mclassK : Nat → Nat
  | 1 => 128
  | 2 => 256
  | _ => 512

/-- The bytes of a row of n elements: element bytes, then scale bytes (R177). -/
def rowBytes (t : ElTy) (n : Nat) : Nat :=
  n * widthOf t / 8 + (if isBlock t then n / 32 * scaleBytes t else 0)

/-- Element i of a row of n elements held as a number, little-endian (R177). -/
def rowVal (t : ElTy) (n row i : Nat) : FVal :=
  let w := widthOf t
  let c := row / 2 ^ (i * w) % 2 ^ w
  if isBlock t then
    let base := n * w / 8
    let byteAt := fun k => row / 2 ^ (8 * (base + k)) % 256
    if isTwin t then blockVal t (byteAt (2 * (i / 32))) (byteAt (2 * (i / 32) + 1)) c
    else blockVal t (byteAt (i / 32)) 0 c
  else elemVal t c

/-- An infinity or a NaN found among the products of a row (R125). -/
inductive RowSpecial
  | none
  | nan
  | inf (neg : Bool)
deriving DecidableEq, Repr

/-- Joins the special cases of R125 over products. -/
def RowSpecial.join : RowSpecial → RowSpecial → RowSpecial
  | .nan, _ => .nan
  | _, .nan => .nan
  | .none, x => x
  | x, .none => x
  | .inf a, .inf b => if a = b then .inf a else .nan

/-- The special case one product brings. -/
def specialOf : FVal → RowSpecial
  | .nan => .nan
  | .inf n => .inf n
  | .fin _ _ _ => .none

/-- The floating row sum before accumulation, as an FP32 code (R125). -/
def rowSumF (ps : List FVal) : Nat :=
  match ps.foldl (fun (a : RowSpecial) p => a.join (specialOf p)) RowSpecial.none with
  | .nan => 0x7FC00000
  | .inf n => if n then 0xFF800000 else 0x7F800000
  | .none =>
    let nz := ps.filterMap (fun p => match p with
      | .fin n m e => if m = 0 then none else some (n, m, e)
      | _ => none)
    match nz with
    | [] => 0
    | p :: rest =>
      let e := rest.foldl (fun a q => max a (flog2 q.2.1 q.2.2)) (flog2 p.2.1 p.2.2)
      let u := e - 47
      let t : (Bool × Nat × Int) → Int := fun q =>
        if q.2.2 ≥ u then signedMan q.1 (q.2.1 * 2 ^ (q.2.2 - u).toNat)
        else signedMan q.1 q.2.1 / (2 ^ (u - q.2.2).toNat : Nat)
      let total := nz.foldl (fun a q => a + t q) 0
      (roundF .f32 fmtF32 .rne (ofSigned total u false)).1

/-- Accumulates an FP32 row sum into an FP32 value: `round(acc + s, f32, rne)` (R125). -/
def accF32 (acc s : Nat) : Nat := (roundF .f32 fmtF32 .rne (addF .rne (decodeF fmtF32 acc) (decodeF fmtF32 s)).1).1

end Sys2Proof.Machine
end

