-- ==== Sys2Proof/Machine/Elements.lean ====
section
/-! DEFINITION. Vector and mask registers as sequences of elements, and the element-wise arithmetic of the vector unit (R123, R124, R126, R129, R141, R142, R145). -/

namespace Sys2Proof.Machine

/-- Element i of width w of a register (R126). -/
def elemAt (w : Nat) (v : VReg) (i : Nat) : Nat := v.toNat / 2 ^ (i * w) % 2 ^ w

/-- The first n elements of width w of a register. -/
def elemsOf (w n : Nat) (v : VReg) : List Nat := (List.range n).map (elemAt w v)

/-- Packs elements of width w, the first lowest. -/
def packEls (w : Nat) : List Nat → Nat
  | [] => 0
  | x :: xs => x % 2 ^ w + packEls w xs * 2 ^ w

/-- A register whose first elements are the list and whose bits above them are those of `old`. -/
def putEls (w : Nat) (old : VReg) (els : List Nat) : VReg :=
  let k := els.length * w
  BitVec.ofNat 8192 (packEls w els + old.toNat / 2 ^ k * 2 ^ k)

/-- Whether position i is active: below n, and selected by the mask where there is one (R129). -/
def active (km : Option KReg) (n i : Nat) : Bool :=
  decide (i < n) && (match km with
    | none => true
    | some k => k.getLsbD i)

/-- The active positions below n, in rising order. -/
def activeList (km : Option KReg) (n : Nat) : List Nat := (List.range n).filter (active km n)

/-- A destination written at its active positions: `f i` gives the new element and its flags (R129, R130, R122). -/
def writeActive (w n : Nat) (km : Option KReg) (old : VReg) (f : Nat → Nat × Flags) : VReg × Flags :=
  let rs := (List.range n).map (fun i => if active km n i then f i else (elemAt w old i, (0 : Flags)))
  (putEls w old (rs.map Prod.fst), rs.foldl (fun acc r => acc ||| r.2) 0)

/-- Packs bits, the first lowest. -/
def packBits (bs : List Bool) : Nat := packEls 1 (bs.map (fun b => if b then 1 else 0))

/-- A mask destination (R129): active positions take `f i`, other positions below n keep their bit, positions at or above n are 0. -/
def writeMask (n : Nat) (km : Option KReg) (old : KReg) (f : Nat → Bool) : KReg :=
  BitVec.ofNat 2048 (packBits ((List.range n).map (fun i => if active km n i then f i else old.getLsbD i)))

/-- The flags a result of `round` or an exact operation raises together. -/
def roundWith (t : ElTy) (m : Rnd) (r : FVal × Flags) : Nat × Flags :=
  let (c, f) := roundTo t m r.1
  (c, f ||| r.2)

/-! Element operations at a type: operands and results are element codes. Integers wrap modulo 2^w and raise no flag (R107). -/

def addEl (t : ElTy) (m : Rnd) (a b : Nat) : Nat × Flags :=
  if isF t then roundWith t m (addF m (elemVal t a) (elemVal t b)) else (wrapInt (widthOf t) ((a : Int) + b), 0)

def subEl (t : ElTy) (m : Rnd) (a b : Nat) : Nat × Flags :=
  if isF t then roundWith t m (addF m (elemVal t a) (negF (elemVal t b)))
  else (wrapInt (widthOf t) ((a : Int) - b), 0)

def mulEl (t : ElTy) (m : Rnd) (a b : Nat) : Nat × Flags :=
  if isF t then roundWith t m (mulF (elemVal t a) (elemVal t b)) else (wrapInt (widthOf t) ((a : Int) * b), 0)

/-- d + a*b, one rounding for floats (R118, R141). -/
def macEl (t : ElTy) (m : Rnd) (d a b : Nat) : Nat × Flags :=
  if isF t then
    let p := mulF (elemVal t a) (elemVal t b)
    let r := addF m (elemVal t d) p.1
    roundWith t m (r.1, r.2 ||| p.2)
  else (wrapInt (widthOf t) ((d : Int) + (a : Int) * b), 0)

/-- d - a*b, one rounding for floats (R118, R141). -/
def nmacEl (t : ElTy) (m : Rnd) (d a b : Nat) : Nat × Flags :=
  if isF t then
    let p := mulF (elemVal t a) (elemVal t b)
    let r := addF m (elemVal t d) (negF p.1)
    roundWith t m (r.1, r.2 ||| p.2)
  else (wrapInt (widthOf t) ((d : Int) - (a : Int) * b), 0)

/-- The smaller element; a NaN gives the canonical NaN (R118). -/
def minEl (t : ElTy) (a b : Nat) : Nat × Flags :=
  if isF t then (roundTo t .rne (minF (elemVal t a) (elemVal t b)))
  else if intVal t a ≤ intVal t b then (a, 0) else (b, 0)

/-- The larger element (R118). -/
def maxEl (t : ElTy) (a b : Nat) : Nat × Flags :=
  if isF t then (roundTo t .rne (maxF (elemVal t a) (elemVal t b)))
  else if intVal t a ≥ intVal t b then (a, 0) else (b, 0)

/-- The quotient toward zero with the corners of R92 at width w: by zero all ones, and the overflowing division gives the dividend. -/
def divInt (w : Nat) (signed : Bool) (a b : Nat) : Nat :=
  if b % 2 ^ w = 0 then 2 ^ w - 1
  else if signed then wrapInt w ((toSigned w a).tdiv (toSigned w b))
  else (a % 2 ^ w) / (b % 2 ^ w)

/-- The remainder that goes with `divInt`: by zero it is the dividend (R92). -/
def remInt (w : Nat) (signed : Bool) (a b : Nat) : Nat :=
  if b % 2 ^ w = 0 then a % 2 ^ w
  else if signed then wrapInt w ((toSigned w a).tmod (toSigned w b))
  else (a % 2 ^ w) % (b % 2 ^ w)

def divEl (t : ElTy) (m : Rnd) (a b : Nat) : Nat × Flags :=
  if isF t then roundWith t m (divF (elemVal t a) (elemVal t b))
  else (divInt (widthOf t) (isSigned t) a b, 0)

/-- High w bits of the 2w-bit product, signed or unsigned (R141). -/
def mulhEl (t : ElTy) (signed : Bool) (a b : Nat) : Nat × Flags :=
  let w := widthOf t
  let p : Int := if signed then toSigned w a * toSigned w b else ((a % 2 ^ w : Nat) : Int) * (b % 2 ^ w : Nat)
  (wrapInt w (p / (2 ^ w : Nat)), 0)

def andEl (a b : Nat) : Nat × Flags := (a &&& b, 0)
def orEl (a b : Nat) : Nat × Flags := (a ||| b, 0)
def xorEl (a b : Nat) : Nat × Flags := (a ^^^ b, 0)

/-- Shifts use the low log2(w) bits of the amount (R107). -/
def sllEl (t : ElTy) (a b : Nat) : Nat × Flags := (a * 2 ^ (b % widthOf t) % 2 ^ widthOf t, 0)
def srlEl (t : ElTy) (a b : Nat) : Nat × Flags := (a / 2 ^ (b % widthOf t), 0)
/-- The fill is bit w - 1, for z types too (R141). -/
def sraEl (t : ElTy) (a b : Nat) : Nat × Flags :=
  (wrapInt (widthOf t) (toSigned (widthOf t) a / (2 ^ (b % widthOf t) : Nat)), 0)

/-- |a|: sign bit cleared for floats, the most negative i value maps to itself, a z value is itself (R118, R141). -/
def absEl (t : ElTy) (a : Nat) : Nat × Flags :=
  let w := widthOf t
  if isF t then (a % 2 ^ (w - 1), 0)
  else if isSigned t then (wrapInt w (toSigned w a).natAbs, 0) else (a, 0)

/-- -a: sign bit flipped for floats (R118, R141). -/
def negEl (t : ElTy) (a : Nat) : Nat × Flags :=
  let w := widthOf t
  if isF t then (a ^^^ 2 ^ (w - 1), 0) else (wrapInt w (-(a : Int)), 0)

def sqrtEl (t : ElTy) (m : Rnd) (a : Nat) : Nat × Flags := roundWith t m (sqrtF (elemVal t a))
def rcpEl (t : ElTy) (m : Rnd) (a : Nat) : Nat × Flags := roundWith t m (rcpF (elemVal t a))
def rsqrtEl (t : ElTy) (m : Rnd) (a : Nat) : Nat × Flags := roundWith t m (rsqrtF (elemVal t a))
def exp2El (t : ElTy) (m : Rnd) (a : Nat) : Nat × Flags := roundWith t m (exp2F (elemVal t a))

/-! Relations (R142). -/

def isNanEl (t : ElTy) (a : Nat) : Bool := decide (elemVal t a = .nan)
def eqEl (t : ElTy) (a b : Nat) : Bool :=
  if isF t then eqF (elemVal t a) (elemVal t b) else decide (a = b)
def ltEl (t : ElTy) (a b : Nat) : Bool :=
  if isF t then ltF (elemVal t a) (elemVal t b) else decide (intVal t a < intVal t b)
def leEl (t : ElTy) (a b : Nat) : Bool := ltEl t a b || eqEl t a b

/-! Reductions (R123) and scans (R124). -/

/-- One level of the tree: neighbours combine where both are active, else the active one passes through. -/
def treeLevel (f : Nat → Nat → Nat × Flags) : List (Option Nat) → List (Option Nat) × Flags
  | some a :: some b :: rest =>
    let (c, fl) := f a b
    let (cs, fls) := treeLevel f rest
    (some c :: cs, fl ||| fls)
  | some a :: none :: rest => let (cs, fls) := treeLevel f rest; (some a :: cs, fls)
  | none :: some b :: rest => let (cs, fls) := treeLevel f rest; (some b :: cs, fls)
  | none :: none :: rest => let (cs, fls) := treeLevel f rest; (none :: cs, fls)
  | [a] => ([a], 0)
  | [] => ([], 0)

/-- The root of the pairwise tree over element positions: `levels` rounds of pairing (R123). -/
def treeReduce (f : Nat → Nat → Nat × Flags) : Nat → List (Option Nat) → Option Nat × Flags
  | 0, l => (l.head?.join, 0)
  | n + 1, l =>
    let (l', fl) := treeLevel f l
    let (r, fls) := treeReduce f n l'
    (r, fl ||| fls)

/-- The leaves of a reduction: active elements, mapped by `g`. -/
def leaves (w n : Nat) (km : Option KReg) (v : VReg) (g : Nat → Nat) : List (Option Nat) :=
  (List.range n).map (fun i => if active km n i then some (g (elemAt w v i)) else none)

/-- Levels enough for every register: 2,048 positions. -/
def treeLevels : Nat := 11

/-- The running values of a scan over active elements (R124): inclusive or exclusive results, with the flags of exactly the additions performed. -/
def scanEls (t : ElTy) (m : Rnd) (incl : Bool) : List (Option Nat) → Option Nat → List (Option Nat) × Flags
  | [], _ => ([], 0)
  | none :: rest, run => let (ys, fls) := scanEls t m incl rest run; (none :: ys, fls)
  | some x :: rest, run =>
    if incl then
      let (s, fl) := addEl t m (run.getD 0) x
      let (ys, fls) := scanEls t m incl rest (some s)
      (some s :: ys, fl ||| fls)
    else
      let more := rest.any Option.isSome
      let (s, fl) := if more then addEl t m (run.getD 0) x else (0, 0)
      let (ys, fls) := scanEls t m incl rest (some s)
      (some (run.getD 0) :: ys, fl ||| fls)

/-- -infinity or the smallest value of a type: `vrmax` of nothing (R123). -/
def leastCode (t : ElTy) : Nat :=
  match fmtOf t with
  | some f => withSign f true (f.maxCode + 1)
  | none => wrapInt (widthOf t) (intMin t)

/-- +infinity or the largest value of a type: `vrmin` of nothing (R123). -/
def greatestCode (t : ElTy) : Nat :=
  match fmtOf t with
  | some f => f.maxCode + 1
  | none => wrapInt (widthOf t) (intMax t)

/-- A scalar result of a type: sign-extended for i types, zero-extended for the others (R145, R146). -/
def extendScalar (t : ElTy) (c : Nat) : Word :=
  if isSigned t then BitVec.ofInt 64 (toSigned (widthOf t) c) else BitVec.ofNat 64 (c % 2 ^ widthOf t)

/-- The accumulating type of `vrsumw` (R146). -/
def wideTy : ElTy → ElTy
  | .i8 | .i16 | .i32 => .i64
  | .z8 | .z16 | .z32 => .z64
  | _ => .f32

/-- An element widened exactly to the accumulating type of `vrsumw`. -/
def widenEl (t : ElTy) (c : Nat) : Nat :=
  if isInt t then wrapInt 64 (intVal t c) else (roundTo .f32 .rne (elemVal t c)).1

/-- The number of active positions below i. -/
def activeBelow (km : Option KReg) (n i : Nat) : Nat := ((List.range i).filter (active km n)).length

/-- Register at position j, 0 at or above n (R145). -/
def atOr0 (w n : Nat) (v : VReg) (j : Nat) : Nat := if j < n then elemAt w v j else 0

end Sys2Proof.Machine
end

