-- ==== Sys2Proof/Config.lean ====
section
/-! DEFINITION. What an implementation fixes and the free values: constants with no body, of which nothing can be proved but what holds for every value. -/

namespace Sys2Proof.Config

/-- Which member of the set C of R268 a racing load returns, and which word a stale fetch issues (R91): a number for each use of the counter of State. Log 8, 46, 52, 55 (DESIGN CHOICE). -/
opaque freeChoice : Nat → Nat

/-- A byte of HBM last written under key `wkey` as a read under key `rkey` at place `loc` returns it: the stored ciphertext decrypted under another key (R397). Log 10 (DEDUCED). -/
opaque wrongKey : (loc rkey wkey : Nat) → Byte → Byte

/-- SM3 of a byte string (R338, R354). Log 13 (DESIGN CHOICE). -/
opaque sm3 : List Byte → Nat

/-- Whether an SM2 signature (r, s as 64 bytes) over a digest is one of the Nirholt firmware key (R338). Log 13 (DESIGN CHOICE). -/
opaque sm2Good : (digest : Nat) → (sig : List Byte) → Bool

/-- What the SPDM responder answers beyond the measurements: certificates, digests, challenge and session messages, by request and session (R344). Log 13 (DESIGN CHOICE). -/
opaque spdmAnswer : (request session : Nat) → List Nat

/-- Measurements 1 and 3: the boot ROM version and the cyan image digest (R344). Log 13 (DESIGN CHOICE). -/
opaque bootRomVersion : Nat
opaque cyanDigest : Nat

/-- The minimum security version fused in the package (R338). Log 13 (DESIGN CHOICE). -/
opaque fusedMinVersion : Nat

/-- Bytes that the firmware reserves at the top of each die's linear range (R315, R316). Log 50 (DESIGN CHOICE). -/
opaque fwReserve : Nat

/-- The packages of the pod whose slice has a number, in ascending order (R354). Log 61 (DESIGN CHOICE). -/
opaque podSlice : Nat → List Nat

/-- Switch hops to another package (R375, R386). Log 55 (DESIGN CHOICE). -/
opaque hops : Nat → Nat

/-- The entropy value of a path of a peer's table (R373). Log 55 (DESIGN CHOICE). -/
opaque entropy : (peer path : Nat) → BitVec 16

/-- A smoothed round trip once a sample, in units of 16 ns, is taken in (R374). Log 55 (DESIGN CHOICE). -/
opaque smoothRtt : BitVec 16 → (sample : Nat) → BitVec 16

/-- The MAC address of an Ethernet port and of the port its next hop is, and the 802.1Q tag of its frames, if they have one (R358). Log 14 (DESIGN CHOICE). -/
opaque portMac : Nat → BitVec 48
opaque hopMac : Nat → BitVec 48
opaque vlanTag : Nat → Option (BitVec 16)

end Sys2Proof.Config
end

