-- ==== Sys2Proof/Events.lean ====
section
/-! DEFINITION. What reaches the package from its surroundings: packets and control-class messages of the fabric, frames, Ultra Ethernet packets, host messages. These are the operands of the events of the opcode table. -/

namespace Sys2Proof

/-- A Tsueratis packet (R359): the fields of the 48-byte header and the data. `len` is LEN: the data bytes, or for a read request the bytes asked for. Log 26 (DEDUCED). `rl`, `unit` and `part` are no fields of the header: what is known of the store, atomic or part of a chunk it carries: that a release published it or that it carries `rl` (R267), how large each of its locations is (R263), and the stream element it begins with (R284). Log 24 (DESIGN CHOICE). -/
structure Packet where
  kind : Nat
  flags : BitVec 8
  len : Nat
  dpkg : Nat
  spkg : Nat
  eseq : BitVec 32
  keyid : Nat
  op : Nat
  scope : Scope
  addr : Word
  job : BitVec 32
  chunk : Nat
  map : Word
  data : List Byte
  rl : Bool
  unit : Nat
  part : Nat
deriving DecidableEq, Repr

/-- A cause of a slate wave (R389): package, strand identity, PC, fault code and gtime of the trigger. -/
structure Cause where
  pkg : Nat
  sid : BitVec 32
  pc : Word
  code : Nat
  gtime : Word
deriving DecidableEq, Repr

/-- What control-class flits carry (R354, R357, R385, R386, R392). -/
inductive Ctl
  | accept (pkg : Nat) (job : BitVec 32) (digest : Nat) (gtime : Word)
  | gang (job : BitVec 32)
  /-- a package's stop value at a gang pre-emption, and from when it can resume (R73, R329) -/
  | gangStop (pkg : Nat) (job : BitVec 32) (stop : Word)
  | gangReady (pkg : Nat) (job : BitVec 32) (at_ : Word)
  | wave (job : BitVec 32) (cause : Cause)
  | frozen (pkg : Nat) (job : BitVec 32) (stop : Word) (cause : Cause)
  | resume (job : BitVec 32) (tr : Word) (stop : Word)
  | step (job : BitVec 32) (sid : BitVec 32)
  | dump (job : BitVec 32) (sid : BitVec 32) (addr : Word)
  /-- a forwarded step or dump is over -/
  | done (job : BitVec 32) (sid : BitVec 32)
  /-- a forwarded step or dump names no strand of the job (R385) -/
  | bad (job : BitVec 32) (sid : BitVec 32)
  | fail (job : BitVec 32) (code : Nat)
deriving DecidableEq, Repr

/-- A flit as the receiver of a link sees it (R356, R357): the fields of the link-layer field, the packet it ends or the control message or time it carries, and whether its CRC is good after correction. Log 14 (DESIGN CHOICE). -/
structure Flit where
  ty : Nat
  lseq : BitVec 12
  lack : BitVec 12
  cred : BitVec 8
  vc : BitVec 4
  crcGood : Bool
  packet : Option Packet
  ctl : Option Ctl
  time : Word
deriving DecidableEq, Repr

/-- An Ethernet frame on a Tsueratis port (R358): its addresses, its 802.1Q tag if it has one, its EtherType, whether its FCS is good, the payload length in bytes and its flits. Log 14 (DESIGN CHOICE). -/
structure Frame where
  dst : BitVec 48
  src : BitVec 48
  tag : Option (BitVec 16)
  etype : BitVec 16
  fcsGood : Bool
  bytes : Nat
  flits : List Flit
deriving DecidableEq, Repr

/-- The delivery mode of an Ultra Ethernet packet (R378, R383). -/
inductive UeMode
  | rud | rod | rudi | uud
deriving DecidableEq, Repr

/-- An Ultra Ethernet packet (R380): a write into a region, a read of one, the reply to a read, an ack, or the report that a command's packet failed. `tag` is the initiator's own name of the packet, `psn` its number among those of its mode from its sender, by which ROD keeps them in order; `unit`: the size of its elements (R263); `bad`: its data carry poison (R175). -/
inductive UePacket
  | write (peer : Nat) (job : BitVec 32) (region off : Nat) (mode : UeMode) (reduce : Nat) (mapped : Bool) (tag psn unit : Nat) (bad : Bool) (data : List Byte)
  | read (peer : Nat) (job : BitVec 32) (region off len tag : Nat)
  | readReply (peer tag : Nat) (bad : Bool) (data : List Byte)
  | ack (peer tag : Nat)
  | failed (peer tag : Nat) (code : FaultCode)
deriving DecidableEq, Repr

/-- What comes from the host with a point of its own order: how many writes it has ordered before (its own to device memory, for an answer; those posted to its memory that it has read, for a write) (R275). Log 24 (DESIGN CHOICE). -/
structure FromHost (α : Type) where
  what : α
  mark : Nat
deriving DecidableEq, Repr

/-- What a completer answers to an AtomicOp (R340, R341). -/
inductive HostAtomicReply
  | success (old : Word)
  | unsupported
deriving DecidableEq, Repr

/-- An SPDM request (R344), with what the responder needs of it. -/
inductive SpdmRequest
  | getVersion | getCapabilities | negotiateAlgorithms | getDigests | getCertificate | challenge
  | getMeasurements (index : Nat)
  | keyExchange (session : Nat)
  | finish (session : Nat)
  | keyUpdate (session : Nat)
  | heartbeat (session : Nat)
  | endSession (session : Nat)
deriving DecidableEq, Repr

/-- What the paging service is given for one record (R302): the frames a pool is refilled with, and the bytes of a page that a DMA read brought. -/
structure PageSupply where
  frames : List Nat
  data : List Byte
deriving DecidableEq, Repr

/-- Where the matrix unit meets an uncorrectable error of its own (R175): in its active or shadow plane, or in a row of a tile. -/
inductive MatErr
  | active
  | shadow
  | row (tile row : Nat)
deriving DecidableEq, Repr

/-- Where an uncorrectable or corrected error is found outside the matrix unit (R173, R306, R307): in a memory word, in the hold buffer of a copy of this package, or in that of a part held here for a chunk of a peer's copy. -/
inductive ErrPlace
  | word (loc : Nat)
  | hold (copy : Nat)
  | part (pkg : Nat) (job : BitVec 32) (chunk : Nat)
deriving DecidableEq, Repr

/-- What an entry of a launch or page event asks of a translation (R293). -/
inductive AccKind
  | fetch | load | store | atomic | copySrc | copyDst | matrixLoad | matrixStore | vecLoad | vecStore | vamo | format
deriving DecidableEq, Repr

end Sys2Proof
end

