-- ==== Sys2Proof/Machine/SMap.lean ====
section
/-! DEFINITION. Sparse maps: sorted lists of (key, value) pairs in one canonical form. Memory and every table of the machine that is indexed by a number is one of these. -/

namespace Sys2Proof.Machine

/-- A sparse map from numbers: keys strictly rising, no entry equal to what an unlisted key reads as. -/
abbrev SMap (α : Type) := List (Nat × α)

/-- What key `k` holds; `d` for a key that is not listed. -/
def SMap.get {α : Type} (d : α) : SMap α → Nat → α
  | [], _ => d
  | (j, v) :: m, k => if j = k then v else SMap.get d m k

/-- The map without key `k`. -/
def SMap.erase {α : Type} : SMap α → Nat → SMap α
  | [], _ => []
  | (j, v) :: m, k => if j = k then SMap.erase m k else (j, v) :: SMap.erase m k

/-- Puts `(k, v)` before the first larger key. -/
def SMap.put {α : Type} : SMap α → Nat → α → SMap α
  | [], k, v => [(k, v)]
  | (j, w) :: m, k, v => if k < j then (k, v) :: (j, w) :: m else (j, w) :: SMap.put m k v

/-- Writes `v` at `k`; the value an unlisted key reads as removes the entry. -/
def SMap.set {α : Type} [DecidableEq α] (d : α) (m : SMap α) (k : Nat) (v : α) : SMap α :=
  if v = d then m.erase k else (m.erase k).put k v

/-- Keys strictly rising, every one above `lo`, and no entry equal to `d`. -/
def SMap.wfFrom {α : Type} [DecidableEq α] (d : α) : Nat → SMap α → Bool
  | _, [] => true
  | lo, (j, v) :: m => decide (lo ≤ j) && decide (v ≠ d) && SMap.wfFrom d (j + 1) m

/-- The canonical form. -/
def SMap.wf {α : Type} [DecidableEq α] (d : α) (m : SMap α) : Bool := SMap.wfFrom d 0 m

/-- Writes a list of values at consecutive keys from `k`. -/
def SMap.setList {α : Type} [DecidableEq α] (d : α) : SMap α → Nat → List α → SMap α
  | m, _, [] => m
  | m, k, v :: vs => SMap.setList d (m.set d k v) (k + 1) vs

/-- The values at `n` consecutive keys from `k`. -/
def SMap.getList {α : Type} (d : α) (m : SMap α) (k : Nat) : Nat → List α
  | 0 => []
  | n + 1 => m.get d k :: SMap.getList d m (k + 1) n

/-- The map after what stood at n keys from `src` has gone to those from `dst`, in place of what stood there. -/
def SMap.move {α : Type} [DecidableEq α] (d : α) (m : SMap α) (dst src n : Nat) : SMap α :=
  let inside (k : Nat) : Bool := decide (src ≤ k ∧ k < src + n)
  (m.filter fun p => inside p.1).foldl (fun a p => a.set d (dst + (p.1 - src)) p.2)
    (m.filter fun p => !inside p.1 && !decide (dst ≤ p.1 ∧ p.1 < dst + n))

/-- The keys that are listed, in rising order. -/
def SMap.keys {α : Type} (m : SMap α) : List Nat := m.map Prod.fst

end Sys2Proof.Machine
end

