-- ==== Sys2Proof/Machine/StrandState.lean ====
section
/-! DEFINITION. What a strand holds (03_strand.md R67, R78, R79), its pending wait (R74, R87) and its pending stores (08_ordering.md R264). -/

namespace Sys2Proof.Machine

/-- One level of the loop stack (R82). -/
structure LoopLvl where
  count : Word
  index : Word
  start : Word
  stop : Word
deriving DecidableEq, Repr

/-- A scalar register that holds a delivery token as an engine wrote it: reading it acquires these writes at this scope (R197). -/
structure TokMark where
  scope : Scope
  writes : Nat
deriving DecidableEq, Repr

/-- A copy descriptor as captured (R194). -/
structure Desc where
  src : Word
  dst : Word
  ext : List Nat
  str : List Int
  esize : Nat
  reduce : Nat
  flags : BitVec 16
  map : Word
  tag : Word
deriving DecidableEq, Repr

/-- The stream binding of a vector register (R191): port, pattern, strip size in bytes, prefetch depth and the next strip to read. -/
structure StreamBind where
  port : Nat
  desc : Desc
  strip : Nat
  depth : Nat
  next : Nat
  /-- the point of the home order at which it was bound (R191) -/
  since : Nat
deriving DecidableEq, Repr

/-- A bound barrier register (R216): the object by cluster and number, party, phase, and whether it arrived since the binding. -/
structure BReg where
  cluster : Nat
  obj : Nat
  party : Nat
  phase : BitVec 32
  since : Bool
deriving DecidableEq, Repr

/-- A bound ring register (R231, R235): the ring by the place of its slot 0, the role, and the physical slots of its live claim, voided claim and take. -/
structure GReg where
  ring : Nat
  role : Nat
  claim : Option Nat
  voided : Option Nat
  take : Option Nat
deriving DecidableEq, Repr

/-- A bound watermark register (R260). -/
structure WReg where
  obj : Word
  base : Word
  len : Word
deriving DecidableEq, Repr

/-- A pending store (R264): one location, with the guard tag it carries (R225): the lock's place and the generation. The elements and the scales of a block that are one location (R274) are two of these with one number `seg`. -/
structure Pend where
  va : Word
  loc : Nat
  n : Nat
  val : Nat
  tag : Option (Nat × BitVec 32)
  seg : Option Nat
deriving DecidableEq, Repr

/-- A guard table entry (R224): the lock's place, its guard and the generation under which the strand holds it. -/
structure Guard where
  lock : Nat
  /-- the lock's address, by which its page is translated again after a shoot-down (R304) -/
  va : Word
  base : Word
  len : Word
  gen : BitVec 32
deriving DecidableEq, Repr

/-- A touched element of one lane group's copy of an accumulation window (R166, R167). -/
structure WinEl where
  group : Nat
  off : Nat
  val : Nat
deriving DecidableEq, Repr

/-- What a wait is for. The first group are the deadline waits of R77, decided at an object's home; the second the bounded waits with no deadline operand of R87, and the waits that only hold an instruction back. Log 25 (DESIGN CHOICE). Log 29 (DEDUCED). -/
inductive WaitObj
  | barrier (cluster obj : Nat) (phase : BitVec 32)
  | lock (loc : Nat) (va : Word)
  | ringGet (g : BitVec 2)
  | ringTake (g : BitVec 2)
  | mailbox (loc : Nat) (hd : BitVec 4)
  | queue (cluster q : Nat)
  | timeline (loc : Nat) (va : Word) (n : Word)
  | chunks (loc : Nat) (va : Word) (mask : Word)
  | frecv (loc : Nat) (va : Word)
  | sleep (til : Word)
  | svc (rec : Nat)
  | reg (r : BitVec 5)
  | matQueue
  | port (p : Nat)
  | watermark (elem : Nat) (span : List (Word × Nat))
  | proxyQueue
  | proxyReply (seq : Nat)
  | atomicReply (req : Nat)
  | remote (req : Nat)
  | fabricAck
  | mstDrain
  | vecDrain
  /-- an `mrd` of the strand stands in the vector queue (R185) -/
  | mrdDrain
  /-- the reply to a remote poll is there: the instruction issues again with its deadline -/
  | polled
deriving DecidableEq, Repr

/-- Whether a wait is one for an empty register (R71). -/
def WaitObj.isReg : WaitObj → Bool
  | .reg _ => true
  | _ => false

/-- A fault as it is detected (R105, R202, R299): the code, whether it is informational, replay pending or a malformed table, the strand, PC, address, access kind and scope, tag, chunks, whether a 512 MiB leaf was found, and the element of a vector memory instruction, for `ffx` (R131). -/
structure FaultRec where
  code : FaultCode
  info : Bool
  replay : Bool
  malformed : Bool
  sid : BitVec 32
  pc : Word
  va : Word
  kind : Nat
  scope : Nat
  tag : Word
  chunkLow : Nat
  chunkCount : Nat
  big : Bool
  elem : Option Nat
  /-- when it was detected, for a record that is posted later (R202) -/
  at_ : Option Word
deriving DecidableEq, Repr

/-- A pending wait (R67): what it waits for, its destination, its clamped deadline or bound (none: no bound), whether its deadline had passed at entry (R74), and the fault that ends a bounded wait (R71, R170, R181, R190, R342). Log 28 (DESIGN CHOICE). -/
structure Wait where
  obj : WaitObj
  kind : Nat
  sd : BitVec 5
  bound : Option Word
  past : Bool
  /-- the order in which waits reached their homes (R211, R224) -/
  arr : Nat
  expiry : Option FaultRec
deriving DecidableEq, Repr

/-- Where a strand stands with the scheduler: ready to issue, stopped by the stop policy, held or parked or frozen with a fault record (R301, R324), or placed and not yet started (R313). -/
inductive RunSt
  | ready
  | stopped
  | held (rec : Nat) (since : Word)
  | parked (rec : Nat)
  | frozen (rec : Option Nat)
  | placed
deriving DecidableEq, Repr

/-- A pre-emption request on a strand (R87, R88): a spent budget, a higher priority, or the whole job. -/
inductive PreReq
  | budget
  | priority
  | gang
  | stop
deriving DecidableEq, Repr

/-- A scalar result the vector unit has still to deliver (R134). -/
structure VecDone where
  reg : BitVec 5
  val : Word
deriving DecidableEq, Repr

/-- An object whose home has taken up a release and decides it when the stores on their way are placed: nothing that reaches the home later overtakes it (R217, R226, R235, R264). Log 45 (DEDUCED). -/
inductive Resv
  | lock (loc : Nat)
  | bar (cluster obj : Nat)
  /-- room for a record in a job's task queue of a cluster, kept for a `jdec` whose swap of the counter is on its way (R254) -/
  | taskq (job cluster : Nat)
  /-- a chain whose header lies in a peer's or the host's memory, for a `capp` that reads and writes it there (R205) -/
  | chain (loc : Nat)
  /-- a word of a peer's or the host's memory that a compare-and-swap on its way is to change: its place, the release made before it, and the value it is to find there -/
  | swap (loc rel old : Nat)
deriving DecidableEq, Repr

/-- Whether what is held open is a lock. -/
def Resv.isLock : Resv → Bool
  | .lock _ => true
  | _ => false

/-- Whether it is a swap under way elsewhere, which a servicer may still answer (R343). -/
def Resv.isSwap : Resv → Bool
  | .swap _ _ _ => true
  | _ => false

/-- A strand: the resumable state of R67 with what R225, R166 and R264 add to it. Log 28, 62 (DESIGN CHOICE). -/
structure Strand where
  /-- the model's own name of the strand, which a saved strand keeps while another runs in its slot -/
  uid : Nat
  sid : BitVec 32
  pc : Word
  loops : List LoopLvl
  sregs : Vector Word 32
  full : BitVec 32
  marks : SMap (Option TokMark)
  vregs : Vector VReg 32
  streams : SMap (Option StreamBind)
  kregs : Vector KReg 24
  hregs : Vector (Option (BitVec 32)) 16
  bregs : Vector (Option BReg) 8
  gregs : Vector (Option GReg) 4
  wregs : Vector (Option WReg) 4
  dlDef : Word
  dlMax : Word
  wst : Word
  wabs : Word
  fetrap : BitVec 32
  lvc : Vector Word 8
  job : BitVec 32
  vty : ElTy
  grant : BitVec 16
  vslip : BitVec 4
  ffx : BitVec 16
  efr : BitVec 32
  frm : Rnd
  fflags : Flags
  acw : Word
  tbud : Word
  tcap : Word
  trec : Word
  maint : Bool
  mlease : Bool
  wait : Option Wait
  run : RunSt
  /-- saved by a pre-emption: it occupies no slot (R87, R257, R328) -/
  away : Bool
  window : List WinEl
  guards : List Guard
  locks : List Nat
  pend : List Pend
  hb : Nat
  /-- writes that single load elements have acquired past a watermark (R261, R266): the strand's next acquire and its releases take them in -/
  soon : Nat
  obs : List Nat
  buf : SMap (Option Byte)
  /-- places of elements that their homes in other packages refused to the vector load being issued, with the code (R153, R156, R363) -/
  refused : SMap (Option FaultCode)
  out : List Nat
  vq : List VecDone
  pre : Option PreReq
  preAge : Nat
  task : Bool
  brkDone : Bool
  /-- a task that has its slot and its record and has still to read the record (R252) -/
  starting : Bool
  /-- the elements of the `vamo` at `pc` still to be performed when it issues again (R165); none: all -/
  vamoTodo : Option (List Nat)
  /-- the objects whose homes hold their decisions open for a release under way (R225, R226), and what an instruction has under way elsewhere -/
  resv : List Resv
  /-- what the strand was sure of when it last executed `ifence`: what its fetches are sure to see (R91, R103) -/
  ifHb : Nat
  /-- `jtime` at which the poll under way of an object of another package was sent (R74) -/
  polledAt : Word
  /-- the lock of a peer whose holder the strand waits to be, by its place, and the order in which it came to it (R211, R224) -/
  seek : Option (Nat × Nat)
  /-- old values of host and peer atomics of the instruction being issued, by request (R288, R343) -/
  replies : SMap (Option Word)
deriving DecidableEq, Repr

/-- Every element of R67 at zero: what hardware sets before a start (R68), and what an idle slot holds at reset. Log 4 (DESIGN CHOICE). -/
def Strand.zero : Strand where
  uid := 0
  sid := 0
  pc := 0
  loops := []
  sregs := Vector.replicate 32 0
  full := BitVec.allOnes 32
  marks := []
  vregs := Vector.replicate 32 0
  streams := []
  kregs := Vector.replicate 24 0
  hregs := Vector.replicate 16 none
  bregs := Vector.replicate 8 none
  gregs := Vector.replicate 4 none
  wregs := Vector.replicate 4 none
  dlDef := 0
  dlMax := 0
  wst := 0
  wabs := 0
  fetrap := 0
  lvc := Vector.replicate 8 0
  job := 0
  vty := .i8
  grant := 0
  vslip := 0
  ffx := 0
  efr := 0
  frm := .rne
  fflags := 0
  acw := 0
  tbud := 0
  tcap := 0
  trec := 0
  maint := false
  mlease := false
  wait := none
  run := .placed
  away := false
  window := []
  guards := []
  locks := []
  pend := []
  hb := 0
  soon := 0
  obs := []
  buf := []
  refused := []
  out := []
  vq := []
  pre := none
  preAge := 0
  task := false
  brkDone := false
  starting := false
  vamoTodo := none
  resv := []
  ifHb := 0
  polledAt := 0
  seek := none
  replies := []

/-- A record that stands for no strand: it occupies no slot and issues nothing. -/
def Strand.idle : Strand := { Strand.zero with away := true, run := .stopped }

end Sys2Proof.Machine
end

