-- ==== Sys2Proof/Machine/CoreState.lean ====
section
/-! DEFINITION. What a core holds beside its strands (06_core_matrix.md): the matrix unit, the streamer's ports and the copies they perform. -/

namespace Sys2Proof.Machine

/-- A weight plane (R176, R177): its type (none before any load), its weight rows as little-endian numbers, whether it holds a poisoned weight, and whether it has met an uncorrectable error of its own (R175). -/
structure Plane where
  ty : Option ElTy
  rows : List Nat
  poison : Bool
  ecc : Bool
deriving DecidableEq, Repr

/-- The tag of a tile (R178). -/
inductive TileTag
  | f | i | z
deriving DecidableEq, Repr

/-- An accumulator tile (R178): 128 rows of 128 32-bit values; the final, poison and uncorrectable-error bit of each row (R175). Log 37 (DEDUCED). -/
structure Tile where
  tag : TileTag
  rows : SMap (BitVec 4096)
  final : BitVec 128
  poison : BitVec 128
  ecc : BitVec 128
deriving DecidableEq, Repr

/-- A row of bytes read for the matrix unit, and whether a poisoned word was among them. -/
structure MRow where
  bytes : Nat
  poison : Bool
deriving DecidableEq, Repr

/-- Where a piece of a row of an `mst` goes: the row, the address, the place it translates to with its key, its bytes, and whether it lies in a live Sable region. -/
structure MDest where
  row : Nat
  va : Word
  loc : Nat
  key : Nat
  n : Nat
  sable : Bool
deriving DecidableEq, Repr

/-- What an instruction that waits for rows keeps (R181, R188): the bound of that wait, and the strand as it stood before the instruction, which a fault of it gives back. Log 29 (DESIGN CHOICE). -/
structure RowWait where
  bound : Word
  back : Strand
deriving DecidableEq, Repr

/-- The operation of a matrix queue entry (R179), with what it read or translated at issue. An `mrd` stands here as well, though it waits in the vector queue: for its place in the order. -/
inductive MOp
  | mld (ty : ElTy) (rows : List MRow)
  | mswap
  | mstr (ty : ElTy) (tile : Nat) (acc : Bool) (rows : List MRow)
  | mzero (tile : Nat)
  | mst (ty : ElTy) (tile : Nat) (dests : List MDest) (wait : RowWait)
  | mrd (tile row col : Nat) (d : BitVec 5) (wait : RowWait)
deriving DecidableEq, Repr

/-- An entry of the matrix queue (R179): the strand's uid, its PC, the operation and how many of its rows are done. -/
structure MEntry where
  uid : Nat
  pc : Word
  op : MOp
  done : Nat
deriving DecidableEq, Repr

/-- The matrix unit (R176 to R179). -/
structure Matrix where
  act : Plane
  shadow : Plane
  tiles : Vector Tile 4
  queue : List MEntry
deriving DecidableEq, Repr

/-- Entries that the matrix queue itself holds (R179): an `mrd` stands in the vector queue. -/
def Matrix.used (m : Matrix) : Nat :=
  (m.queue.filter fun e => match e.op with
    | .mrd _ _ _ _ _ => false
    | _ => true).length

/-- Entries of the matrix queue (R179). -/
def matQueueCap : Nat := 16

/-- A plane of type none (R176). -/
def Plane.empty : Plane := ⟨none, [], false, false⟩
/-- A scrubbed tile (R176): tag Z, every bit zero, every row final. -/
def Tile.zero : Tile := ⟨.z, [], BitVec.allOnes 128, 0, 0⟩
/-- The scrubbed matrix unit (R176). -/
def Matrix.scrubbed : Matrix :=
  ⟨Plane.empty, Plane.empty, Vector.replicate 4 Tile.zero, []⟩

/-- What stands in a port's command queue (R190, R191): a copy by its number, or a stream binding of a fabric port that waits its turn. -/
inductive PortCmd
  | copy (id : Nat)
  | bind (uid : Nat) (vd : BitVec 5)
deriving DecidableEq, Repr

/-- A streamer port (R190 to R193): its queue, the command it runs, the stream register bound to it, the strips prefetched, bytes fetched for the next strip, and a fault met while prefetching (code and first unreadable address). -/
structure Port where
  queue : List PortCmd
  running : Option Nat
  bound : Option (Nat × BitVec 5)
  active : Bool
  strips : List Nat
  buf : SMap (Option Byte)
  fault : Option (FaultCode × Word)
deriving DecidableEq, Repr

/-- Commands a port's queue holds beside the one that runs (R190). -/
def portQueueCap : Nat := 8

/-- A free port. -/
def Port.free : Port := ⟨[], none, none, false, [], [], none⟩

/-- The engine that performs a copy or a command: a streamer port, an Ochre engine of a die, or the Indigo engine. -/
inductive Engine
  | port (core p : Nat)
  | ochre (die n : Nat)
  | indigo
  | ue
deriving DecidableEq, Repr

/-- Where a copy stands: queued, running, waiting for service with a replay pending, or serviced and to be replayed (R190, R202). -/
inductive CopySt
  | queued | running | faulted | replayQueued
deriving DecidableEq, Repr

/-- The far side of an Ultra Ethernet command (R383): the peer, its region, the mode, whether it reads, and whether a write is placed into the region's map. -/
structure UeSide where
  peer : Nat
  region : Nat
  mode : UeMode
  reads : Bool
  mapped : Bool
deriving DecidableEq, Repr

/-- A part of a chunk that goes to one home: its chunk, first element and count of elements, the key and place they go to, and whether that lies in a live Sable region (R240, R284). -/
structure Part where
  chunk : Nat
  elem : Nat
  n : Nat
  key : Nat
  loc : Nat
  sable : Bool
deriving DecidableEq, Repr

/-- A copy (R194 to R202, R367): who issued it and what happens before it, its descriptor, direction, destination packages, pattern of a fill, path policy and far side, its token registers; the chunks in place and those whose source is read, the source bytes held (by place as fetched, by stream position as read) and those that carry poison; the writes it made, its requests under way by chunk; its fault, whether that is final, its record, the pages serviced; and which tokens are done. -/
structure Copy where
  id : Nat
  eng : Engine
  uid : Nat
  sid : BitVec 32
  job : BitVec 32
  pc : Word
  hb : Nat
  desc : Desc
  rev : Bool
  dests : List Nat
  fill : Option Word
  policy : Word
  ue : Option UeSide
  sd : BitVec 5
  sb : BitVec 5
  st : CopySt
  done : List Nat
  read : List Nat
  buf : SMap (Option Byte)
  bad : SMap Bool
  writes : Nat
  out : List (Nat × Nat)
  fault : Option FaultRec
  final : Bool
  recNo : Nat
  served : List Nat
  relDone : Bool
  delDone : Bool
  replaying : Bool
  chain : Option Nat
  /-- parts of chunks that wait for their chunk's bit (R284) -/
  hold : List Part
  /-- chunks whose bit is still to be set: the key and place of the map word (R284) -/
  bits : List (Nat × Nat × Nat)
  /-- chunks abandoned: an access of theirs failed on its way (R284) -/
  lost : List Nat
  /-- its fault is being counted from the words of a map elsewhere (R309) -/
  counting : Bool
  /-- a word of that map could not be fetched -/
  mapLost : Bool
  /-- the path to each peer of a command that takes one path (R377) -/
  paths : List (Nat × Nat)
deriving DecidableEq, Repr

/-- A core's entry of the core lease table (R326, R330). -/
structure Lease where
  job : Option (BitVec 32)
  next : Option (BitVec 32)
  key : Nat
  scrubbed : Bool
deriving DecidableEq, Repr

/-- A core beside its strands. What its instruction cache may hold is kept with its strands (R91: `Strand.ifHb`); `errors` counts corrected and uncorrectable words (R173). -/
structure Core where
  matrix : Matrix
  ports : Vector Port 16
  errors : Nat
  lease : Lease
  grants : Vector (BitVec 16) 4
  retired : Bool
  laneRetired : BitVec 16
deriving DecidableEq, Repr

/-- A core as a package reset leaves it. Log 4 (DESIGN CHOICE). -/
def Core.reset : Core :=
  ⟨Matrix.scrubbed, Vector.replicate 16 Port.free, 0, ⟨none, none, 0, false⟩, Vector.replicate 4 0, false, 0⟩

end Sys2Proof.Machine
end

