-- ==== Sys2Proof/Machine/ClusterState.lean ====
section
/-! DEFINITION. What a cluster holds (07_cluster.md): barrier objects, stage rings, the lineage table, task queues and work-queues; and what a die holds (10_die.md). -/

namespace Sys2Proof.Machine

/-- A closed phase of a barrier object as recorded (R215, R220). -/
structure Closed where
  phase : BitVec 32
  absent : BitVec 64
  met : Bool
  /-- the releases counted in the phase, in every object of the tree -/
  rels : List Nat
deriving DecidableEq, Repr

/-- A waiter of a barrier object is a strand whose wait names it; the object itself holds this (R215). `rels` are the releases counted in the open phase and `earlyRels` those held for the next (R220). -/
structure Barrier where
  config : Bool
  count : Nat
  parent : Option (BitVec 32)
  index : Nat
  flags : BitVec 32
  members : BitVec 64
  readmit : BitVec 64
  phase : BitVec 32
  arrived : BitVec 64
  early : BitVec 64
  dl : Option Word
  dlNext : Option Word
  closed : List Closed
  rels : List Nat
  earlyRels : List Nat
  job : BitVec 32
deriving DecidableEq, Repr

/-- An object that nothing has configured (R215). -/
def Barrier.zero : Barrier := ⟨false, 0, none, 0, 0, 0, 0, 0, 0, 0, none, none, [], [], [], 0⟩

/-- The states of a ring slot (R233). -/
inductive SlotSt
  | free | claimed | filled | taken | void | voidTaken
deriving DecidableEq, Repr

/-- The code of a slot state (R233). -/
def SlotSt.code : SlotSt → Nat
  | .free => 0 | .claimed => 1 | .filled => 2 | .taken => 3 | .void => 4 | .voidTaken => 5

/-- A stage ring at the ring controllers (R230, R231): its identity is the place of slot 0. -/
structure Ring where
  cluster : Nat
  base : Nat
  ssize : Nat
  depth : Nat
  lead : Nat
  barrier : Nat
  voidFault : Bool
  stage : Nat
  slots : List SlotSt
  rels : SMap (Option Nat)
  bindings : Nat
deriving DecidableEq, Repr

/-- A tile descriptor (R239), extents outermost first. -/
structure TileDesc where
  base : Word
  ty : ElTy
  scope : Scope
  ext : List Nat
  str : List Nat
deriving DecidableEq, Repr

/-- What made a lineage entry (R241): a root, or the split of a parent half on an axis at an offset. -/
inductive Origin
  | root
  | split (entry half axis off : Nat)
deriving DecidableEq, Repr

/-- A lineage entry (R241). `tile` is the root's descriptor and `pages` the runs of its region as `hnew` found them: address, place and length (R243); the two generations outlive the entry's use (R395). -/
structure LinEntry where
  used : Bool
  origin : Origin
  tile : Option TileDesc
  pages : List (Word × Nat × Nat)
  depth : Nat
  creator : BitVec 32
  job : BitVec 32
  gen0 : BitVec 16
  gen1 : BitVec 16
deriving DecidableEq, Repr

/-- A free entry with both generations 0 (R395). -/
def LinEntry.zero : LinEntry := ⟨false, .root, none, [], 0, 0, 0, 0, 0⟩

/-- A record address waiting in a task queue, with the releases its start acquires and whether a `jdec` spawned it (R252, R254). -/
structure TaskItem where
  addr : Word
  rels : List Nat
  byJdec : Bool
  /-- a pre-empted task that waits here for its own slot (R257), by its uid -/
  resume : Option Nat
deriving DecidableEq, Repr

/-- A task queue of one job in one cluster (R252, R259), with the pre-empted tasks that wait for their slots (R257). -/
structure TaskQ where
  items : List TaskItem
  lost : Bool
deriving DecidableEq, Repr

/-- An item of a work-queue with the release of its `qpush` (R258). -/
structure QItem where
  val : Word
  rel : Nat
deriving DecidableEq, Repr

/-- A work-queue (R258, R259). -/
structure WorkQ where
  items : List QItem
  lost : Bool
deriving DecidableEq, Repr

/-- A cluster. Barrier objects, lineage entries and work-queues by number; task queues by job. -/
structure Cluster where
  barriers : SMap Barrier
  lineage : SMap LinEntry
  taskq : SMap TaskQ
  workq : SMap WorkQ
  retired : Bool
deriving DecidableEq, Repr

/-- A cluster as a reset leaves it. -/
def Cluster.reset : Cluster := ⟨[], [], [], [], false⟩

/-- A translation cached by a TLB (R295): the cluster, the core for a first-level TLB (none: the cluster's own), the root and page it is tagged with, the leaf, and whether it was cached with D set (R294). -/
structure TlbEntry where
  cluster : Nat
  core : Option Nat
  root : Nat
  page : Nat
  big : Bool
  leaf : Word
  dirty : Bool
deriving DecidableEq, Repr

/-- A pointer entry in a die's walk cache (R295): the root, the levels still below it and the part of the address that selects it, and the node it leads to. -/
structure WalkPtr where
  root : Nat
  left : Nat
  part : Nat
  node : Nat
deriving DecidableEq, Repr

/-- A chunk claimed at a map's home with its writes in hold buffers (R284): the map's place, the chunk, and the claimant. -/
structure Claim where
  map : Nat
  chunk : Nat
  copy : Nat
deriving DecidableEq, Repr

/-- A line of a die's error log (R306). -/
structure ErrLine where
  unit : Nat
  loc : Nat
  fatal : Bool
deriving DecidableEq, Repr

/-- A die (R282, R296, R305, R306, R348). -/
structure Die where
  pool : List Nat
  poolLow : Bool
  errlog : List ErrLine
  retiredSlices : List Nat
  capacity : Nat
  clock : Nat
  /-- the walk cache, latest first (R295) -/
  walks : List WalkPtr
deriving DecidableEq, Repr

/-- Bytes of HBM of one die with nothing retired: three stacks of 64 GiB (R3, R282). -/
def dieCapacity : Nat := 3 * 64 * 2 ^ 30

/-- A die as a reset leaves it: the nominal clock of 1,250 MHz (R2). Log 4 (DESIGN CHOICE). -/
def Die.reset : Die := ⟨[], false, [], [], dieCapacity, 1250, []⟩

end Sys2Proof.Machine
end

