-- ==== Sys2Proof/Machine/PackageState.lean ====
section
/-! DEFINITION. What the package holds (12_package.md, 14_fabric.md): jobs, the home order of writes, the host link, the fabric and the registers of BAR0. -/

namespace Sys2Proof.Machine

/-- A write in home order (R268): its number, which the two parts of a block segment share (R278); the place, width and values after and before; the size of each of its locations (R263: a copy's run has one for each stream element); the releases that have published it (R264, R267); and the strand whose store it is, by its uid. -/
structure WriteRec where
  idx : Nat
  loc : Nat
  n : Nat
  val : Nat
  prev : Nat
  unit : Nat
  rels : List Nat
  by_ : Option Nat
deriving DecidableEq, Repr

/-- A release event (R265): who made it, its scope, and the writes that happen before its acquirers. Log 62 (DESIGN CHOICE). -/
structure RelRec where
  id : Nat
  by_ : BitVec 32
  host : Bool
  scope : Scope
  writes : Nat
deriving DecidableEq, Repr

/-- The fault policy of a job (R311). -/
inductive Policy
  | stop | freeze | continue_
deriving DecidableEq, Repr

/-- A level of the work hierarchy (R312). -/
structure Level where
  fstride : Nat
  count : Nat
  scope : Scope
  domain : Nat
deriving DecidableEq, Repr

/-- A launch record (R310 to R312) as taken; `bytes` is the 256-byte record as a number, for its digest (R354). -/
structure Launch where
  job : BitVec 32
  key : Nat
  base : Nat
  cap : Nat
  root : Nat
  fq : Nat
  entry : Word
  arg : Word
  grants : List (BitVec 16)
  mslot : Nat
  mnone : Bool
  lslot : Nat
  policy : Policy
  maint : Bool
  dldef : Word
  dlmax : Word
  tcap : Word
  levels : List Level
  bytes : Nat
deriving DecidableEq, Repr

/-- The journal states of R320. -/
inductive JState
  | accepted | started | completed | failed | cancelled
deriving DecidableEq, Repr

/-- The code of a journal state (R320). -/
def JState.code : JState → Nat
  | .accepted => 1 | .started => 2 | .completed => 3 | .failed => 4 | .cancelled => 5

/-- A final state (R321). -/
def JState.final : JState → Bool
  | .accepted | .started => false
  | _ => true

/-- Where a job stands in a slate wave (R390). -/
inductive SlateSt
  | running | frozen | stepping | resuming
deriving DecidableEq, Repr

/-- The slate wave as this package holds it for a job (R386 to R392). -/
structure Slate where
  st : SlateSt
  first : Option Cause
  final : Bool
  locals : List Cause
  lcount : Nat
  frozenAt : Word
  stop : Word
  reports : List (Nat × Word)
  wave : Option Cause
  resumeAt : Option Word
  resumeStop : Word
  /-- the strand whose one instruction a step has still to issue (R391) -/
  stepSid : Option (BitVec 32)
deriving DecidableEq, Repr

/-- No wave (R390 resets). -/
def Slate.none : Slate := ⟨.running, Option.none, false, [], 0, 0, 0, [], Option.none, Option.none, 0, Option.none⟩

/-- A core's saved memory and matrix unit (R328): the bytes of its scratchpad and vault share that are not 0, by place, its poisoned words, and the home order of those places with the writes made in live Sable regions there (R268, R269). Log 49 (DEDUCED). -/
structure SavedCore where
  core : Nat
  matrix : Matrix
  bytes : List (Nat × Byte)
  poison : List Nat
  hist : List WriteRec
  sable : List WriteRec
deriving DecidableEq, Repr

/-- The objects of a saved job at cluster homes (R328): its barrier objects by cluster and number, its rings, and the lineage tables of the clusters it held alone. Log 49 (DEDUCED). -/
structure SavedObjs where
  bars : List (Nat × Nat × Barrier)
  rings : List Ring
  lineage : List (Nat × SMap LinEntry)
deriving DecidableEq, Repr

/-- Where a gang pre-emption of a job stands (R328, R329); `held`: a request that came during the slate wave (R89, R331). -/
inductive GangSt
  | none
  | held
  | requested
  | saved (cores : List SavedCore) (objs : SavedObjs)
  | resuming (at_ : Word)
deriving DecidableEq, Repr

/-- A registered region (R379, R383). -/
structure Region where
  id : Nat
  base : Word
  len : Nat
  map : Word
  canWrite : Bool
  canRead : Bool
deriving DecidableEq, Repr

/-- A fault record held while the queue is full (R298), as its 64 bytes, with the service block of an `svc` (R100). -/
structure HeldRec where
  bytes : List Byte
  svc : List Byte
deriving DecidableEq, Repr

/-- A core of a placement (R313): the slots whose launched strands run there, and the indices at the levels above strand, innermost first. -/
structure Placement where
  core : Nat
  slots : List Nat
  lvc : List Nat
deriving DecidableEq, Repr

/-- A job accepted on this package. -/
structure Job where
  id : BitVec 32
  seq : Nat
  rec_ : Launch
  state : JState
  code : Nat
  jval : Word
  jrun : Bool
  jfrom : Word
  eff : Nat
  waitSince : Option Word
  servedAt : Option Nat
  cores : List Nat
  places : List Placement
  bindable : List Nat
  started : Nat
  stopReq : Option (JState × Nat)
  gang : GangSt
  w0 : Nat
  held : List HeldRec
  bigRecs : List Nat
  slate : Slate
  multi : Bool
  accepts : List (Nat × Nat × Word)
  startAt : Option Word
  /-- the earliest common start a resume leaves to a launch frozen before it (R393) -/
  notBefore : Word
  /-- its `jtime` has started (R73) -/
  timed : Bool
  regions : List Region
  /-- the `jtime` at which each package of the slice stopped for a gang pre-emption (R73) -/
  gangStops : List (Nat × Word)
  /-- from when each package of the slice can go on after it (R329, R354) -/
  gangReady : List (Nat × Word)
deriving DecidableEq, Repr

/-- A command taken and accepted, with its payload of 448 bytes as a number (R317). -/
structure Cmd where
  seq : Nat
  kind : Nat
  cookie : Word
  payload : Nat
  taccept : Word
  /-- what a forwarded step or dump waits for, and what a shoot-down has still to settle -/
  busy : Bool
deriving DecidableEq, Repr

/-- A key slot (R347). -/
structure KeySlot where
  installed : Bool
  revoked : Bool
  tdi : Nat
deriving DecidableEq, Repr

/-- A proxy request posted and not answered (R342): its number, the strand and element it is for, its reply index. -/
structure ProxyReq where
  seq : Nat
  uid : Nat
  elem : Nat
  index : Nat
deriving DecidableEq, Repr

/-- What a request to the host or a peer is for: an instruction of a strand, a copy, a stream's strip, an engine command. -/
inductive Asker
  | strand (uid : Nat)
  | copy (id : Nat)
  | port (core p : Nat)
  | chain (hdr : Nat)
deriving DecidableEq, Repr

/-- A DMA read, or an AtomicOp with its operand and compare value, sent to the host and not completed (R339, R340). -/
structure HostReq where
  id : Nat
  who : Asker
  addr : Nat
  n : Nat
  fn : Option Nat
  opnd : Word
  cmp : Word
  elem : Nat
  dropped : Bool
deriving DecidableEq, Repr

/-- A write sent to host memory, in order (R264), and whether its data carry poison (R175). -/
structure HostWriteOut where
  addr : Nat
  data : List Byte
  poison : Bool
deriving DecidableEq, Repr

/-- A packet sent to a peer and not acked (R361). -/
structure Unacked where
  pkt : Packet
  who : Option Asker
  elem : Nat
  sends : Nat
  at_ : Word
  path : Nat
  /-- the guard tag of the store it carries (R225) -/
  tag : Option (Nat × BitVec 32)
deriving DecidableEq, Repr

/-- A path table entry (R374); `retx` are the times of the retransmissions on it, `seen` the time of the last ack or probe. -/
structure PathEntry where
  entropy : BitVec 16
  rtt : BitVec 16
  ecn : BitVec 8
  retx : List Word
  seen : Word
  avoid : Bool
  pin : Bool
  valid : Bool
deriving DecidableEq, Repr

/-- What the package keeps about a peer (R361, R373): `turn` is the path taken last, for the rotation of R376. -/
structure Peer where
  hasTable : Bool
  paths : List PathEntry
  hops : Nat
  eseq : BitVec 32
  unacked : List Unacked
  placed : List (BitVec 32)
  replies : List (BitVec 32 × Packet)
  turn : Nat
deriving DecidableEq, Repr

/-- A peer with which nothing was exchanged. -/
def Peer.zero : Peer := ⟨false, [], 0, 0, [], [], [], 16⟩

/-- A link of a Tsueratis port (R357, R360): whether it is down; the `LSEQ` of the last flit sent and of the last received in order; the flits sent and not acked, the replays without progress; whether it discards until a replay comes; the frames put on the wire, in order; and when the last time flit went (R355). Log 53 (DEDUCED). -/
structure Link where
  down : Bool
  lseq : BitVec 12
  lack : BitVec 12
  replay : List Flit
  replays : Nat
  discarding : Bool
  wire : List Frame
  timeAt : Word
  /-- how many of the port's frames have left it, and when its rate limiter lets the next one go (R335) -/
  emitted : Nat
  openAt : Word
deriving DecidableEq, Repr

/-- A link at reset. -/
def Link.zero : Link := ⟨false, 0, 0, [], 0, false, [], 0, 0, 0⟩

/-- A packet delivery context (R379): its peer and mode, and the number of the next packet sent and of the next one awaited, by which ROD keeps its packets in order (R378, R380). -/
structure UeContext where
  peer : Nat
  mode : UeMode
  sent : Nat
  next : Nat
deriving DecidableEq, Repr

/-- A packet the endpoint has sent (R378, R379): the scale-out port and the path it took, and when. -/
structure UeSent where
  port : Nat
  path : Nat
  at_ : Word
  pkt : UePacket
deriving DecidableEq, Repr

/-- A multicast chunk held for a destination, since when, and whether a nack has called for a unicast resend that the slate wave holds back (R368, R388). -/
structure Branch where
  pkg : Nat
  copy : Nat
  chunk : Nat
  since : Word
  nacked : Bool
deriving DecidableEq, Repr

/-- What a multicast copy knows of one destination (R369): the chunks committed there, the failure the branch has met, if it has met one, and the number of the record it has posted. -/
structure McDest where
  copy : Nat
  pkg : Nat
  done : List Nat
  fault : Option FaultRec
  failed : Option Nat
deriving DecidableEq, Repr

/-- A command appended to a chain (R205): its record's address, place and key, its 64 bytes where the record lies with a peer or the host, its number, and the strand and `capp` that appended it, with what happens before it. Log 44 (DEDUCED). -/
structure ChainCmd where
  va : Word
  recLoc : Nat
  key : Nat
  rec_ : Option Nat
  seq : Nat
  uid : Nat
  sid : BitVec 32
  pc : Word
  hb : Nat
deriving DecidableEq, Repr

/-- A chain whose engine has been notified (R204 to R206): the header's place, the job, the engine's class and field, the timeline's address, the commands waiting, the one running, whether its effects are done and the fault it ends with, the writes of every command so far, the bytes fetched for it and the request it waits for (R382). -/
structure Chain where
  hdr : Nat
  job : BitVec 32
  cls : Nat
  field : BitVec 32
  timeline : Word
  todo : List ChainCmd
  cur : Option ChainCmd
  done : Bool
  fault : Option FaultRec
  writes : Nat
  buf : SMap (Option Byte)
  waiting : Option Nat
  /-- the running command's status: none until it is written, false while a peer has not acked it, true once it is there (R206) -/
  status : Option Bool
deriving DecidableEq, Repr

/-- The registers of BAR0 (R336, R353, R390). -/
structure Bar0 where
  state : Nat
  reject : Nat
  imgdb : Word
  cmddb : Word
  dmawin : SMap Word
  dmalock : Word
  portlim : SMap Word
  pwrcap : Word
  fabid : Word
  fabetype : Word
  sljob : Word
deriving DecidableEq, Repr

/-- The package outside its dies and jobs. Log 1 (DESIGN CHOICE). -/
structure Pkg where
  bar : Bar0
  /-- the last command number taken; the control block's `taken` (R315) counts the commands taken from slots -/
  lastCmd : Nat
  cmds : List Cmd
  keys : SMap KeySlot
  tdiRun : BitVec 64
  /-- TDIs that have left RUN and whose jobs are still being stopped (R346) -/
  leaving : List Nat
  /-- entries that the paging service has cleared to move their pages, with what they held (R302) -/
  moving : List (Nat × Word)
  sessions : List (Nat × Nat)
  imgDigest : Nat
  fatal : Bool
  halted : Bool
  power : Nat
  cobaltErrAt : Option Word
  /-- until when the Cobalt core, and a cyan core, perform no duties (R333, R334) -/
  cobaltPaused : Option Word
  cyanPaused : List (Nat × Word)
  unsupported : List Nat
  proxies : List ProxyReq
  hostReqs : List HostReq
  hostOut : List HostWriteOut
  msix : List Nat
  hostRead : List Byte
  spdmOut : List (List Nat)
  copies : List Copy
  chains : List Chain
  peers : SMap Peer
  links : SMap Link
  branches : List Branch
  mcast : List McDest
  pktOut : List Packet
  /-- how many packets and control messages the links have taken -/
  sentPkts : Nat
  sentCtl : Nat
  ctlOut : List Ctl
  arrived : List Packet
  /-- parts of chunks of peers' copies, held until their bit is set (R284) -/
  heldParts : List Packet
  ctlIn : List Ctl
  ueOut : List UeSent
  /-- packet delivery contexts in use (R379), and UUD packets discarded (R378) -/
  contexts : List UeContext
  uudCount : Nat
  lockLost : Option Word
  nextCopy : Nat
  nextReq : Nat
  retiredPorts : List Nat
  retiredCyan : BitVec 8
deriving DecidableEq, Repr

/-- The registers of BAR0 at reset, before the boot ROM has run (R336, R337). -/
def Bar0.reset : Bar0 := ⟨0, 0, 0, 0, [], 0, [], 5600, 0, 0, 0⟩

/-- The package at reset. Log 4 (DESIGN CHOICE). -/
def Pkg.reset : Pkg where
  bar := Bar0.reset
  lastCmd := 0
  cmds := []
  keys := []
  tdiRun := 0
  leaving := []
  moving := []
  sessions := []
  imgDigest := 0
  fatal := false
  halted := false
  power := 0
  cobaltErrAt := none
  cobaltPaused := none
  cyanPaused := []
  unsupported := []
  proxies := []
  hostReqs := []
  hostOut := []
  msix := []
  hostRead := []
  spdmOut := []
  copies := []
  chains := []
  peers := []
  links := []
  branches := []
  mcast := []
  pktOut := []
  sentPkts := 0
  sentCtl := 0
  ctlOut := []
  arrived := []
  heldParts := []
  ctlIn := []
  ueOut := []
  contexts := []
  uudCount := 0
  lockLost := none
  nextCopy := 0
  nextReq := 0
  retiredPorts := []
  retiredCyan := 0

end Sys2Proof.Machine
end

