-- ==== Sys2Proof/Syntax.lean ====
section
/-! DEFINITION. Syntax: one constructor for each row of the opcode table. The first kind are the instructions with a word (R38 to R60), whose operands are the fields of the word; the second kind are the events of the package, whose operands are what the surroundings bring. -/

namespace Sys2Proof

/-- The steps of the package: instructions and events. Field names of instructions: d the destination field, a, b the source fields, k the governing mask (or the mask number of `strip`), i the immediate, t, y, s type codes or a scope, x a tile. -/
inductive Instr
  /-- R92: Writes sa + sb modulo 2^64 to sd. -/
  | add (d a b : BitVec 5)
  /-- R92: Shifts sa left by sb[5:0]. -/
  | sll (d a b : BitVec 5)
  /-- R92: Writes 1 if sa < sb signed, else 0. -/
  | slt (d a b : BitVec 5)
  /-- R92: Writes 1 if sa < sb unsigned, else 0. -/
  | sltz (d a b : BitVec 5)
  /-- R92: Bitwise exclusive OR of sa and sb. -/
  | xor (d a b : BitVec 5)
  /-- R92: Shifts sa right logically by sb[5:0]. -/
  | srl (d a b : BitVec 5)
  /-- R92: Bitwise OR of sa and sb. -/
  | or (d a b : BitVec 5)
  /-- R92: Bitwise AND of sa and sb. -/
  | and (d a b : BitVec 5)
  /-- R92: Writes sa - sb modulo 2^64. -/
  | sub (d a b : BitVec 5)
  /-- R92: Shifts sa right arithmetically by sb[5:0]. -/
  | sra (d a b : BitVec 5)
  /-- R92: Writes the low 64 bits of sa × sb. -/
  | mul (d a b : BitVec 5)
  /-- R92: Writes the high 64 bits of the signed product. -/
  | mulh (d a b : BitVec 5)
  /-- R92: Writes the high 64 bits of the unsigned product. -/
  | mulhz (d a b : BitVec 5)
  /-- R92: Signed quotient toward zero, with the zero and overflow corners. -/
  | div (d a b : BitVec 5)
  /-- R92: Unsigned quotient, all ones on division by zero. -/
  | divz (d a b : BitVec 5)
  /-- R92: Signed remainder whose sign follows sa. -/
  | rem (d a b : BitVec 5)
  /-- R92: Unsigned remainder. -/
  | remz (d a b : BitVec 5)
  /-- R92: Signed minimum of sa and sb. -/
  | min (d a b : BitVec 5)
  /-- R92: Signed maximum of sa and sb. -/
  | max (d a b : BitVec 5)
  /-- R92: Unsigned minimum of sa and sb. -/
  | minz (d a b : BitVec 5)
  /-- R92: Unsigned maximum of sa and sb. -/
  | maxz (d a b : BitVec 5)
  /-- R92: Counts leading zeros of sa, 64 for zero. -/
  | clz (d a : BitVec 5)
  /-- R92: Counts trailing zeros of sa, 64 for zero. -/
  | ctz (d a : BitVec 5)
  /-- R92: Counts set bits of sa. -/
  | popc (d a : BitVec 5)
  /-- R92: Reverses the eight bytes of sa. -/
  | bswap (d a : BitVec 5)
  /-- R93: Adds the sign-extended immediate to sa. -/
  | addi (d a : BitVec 5) (i : BitVec 12)
  /-- R93: Shifts sa left by imm12[5:0]. -/
  | slli (d a : BitVec 5) (h : BitVec 6)
  /-- R93: Signed compare of sa with the immediate. -/
  | slti (d a : BitVec 5) (i : BitVec 12)
  /-- R93: Unsigned compare of sa with the sign-extended immediate. -/
  | sltiz (d a : BitVec 5) (i : BitVec 12)
  /-- R93: Exclusive OR with the immediate. -/
  | xori (d a : BitVec 5) (i : BitVec 12)
  /-- R93: Logical right shift by imm12[5:0]. -/
  | srli (d a : BitVec 5) (h : BitVec 6)
  /-- R93: Arithmetic right shift by imm12[5:0]. -/
  | srai (d a : BitVec 5) (h : BitVec 6)
  /-- R93: OR with the immediate. -/
  | ori (d a : BitVec 5) (i : BitVec 12)
  /-- R93: AND with the immediate. -/
  | andi (d a : BitVec 5) (i : BitVec 12)
  /-- R94: Loads a byte, sign-extended, after the checks of R94. -/
  | ldB (d a : BitVec 5) (i : BitVec 12)
  /-- R94: Loads 2 bytes, sign-extended. -/
  | ldH (d a : BitVec 5) (i : BitVec 12)
  /-- R94: Loads 4 bytes, sign-extended. -/
  | ldW (d a : BitVec 5) (i : BitVec 12)
  /-- R94: Loads 8 bytes. -/
  | ldD (d a : BitVec 5) (i : BitVec 12)
  /-- R94: Loads a byte, zero-extended. -/
  | ldBz (d a : BitVec 5) (i : BitVec 12)
  /-- R94: Loads 2 bytes, zero-extended. -/
  | ldHz (d a : BitVec 5) (i : BitVec 12)
  /-- R94: Loads 4 bytes, zero-extended. -/
  | ldWz (d a : BitVec 5) (i : BitVec 12)
  /-- R94: Stores the low byte of sb as a pending store. -/
  | stB (a b : BitVec 5) (i : BitVec 12)
  /-- R94: Stores the low 2 bytes of sb. -/
  | stH (a b : BitVec 5) (i : BitVec 12)
  /-- R94: Stores the low 4 bytes of sb. -/
  | stW (a b : BitVec 5) (i : BitVec 12)
  /-- R94: Stores 8 bytes of sb. -/
  | stD (a b : BitVec 5) (i : BitVec 12)
  /-- R96: Branches when sa = sb. -/
  | beq (a b : BitVec 5) (i : BitVec 12)
  /-- R96: Branches when sa ≠ sb. -/
  | bne (a b : BitVec 5) (i : BitVec 12)
  /-- R96: Branches when sa < sb signed. -/
  | blt (a b : BitVec 5) (i : BitVec 12)
  /-- R96: Branches when sa ≥ sb signed. -/
  | bge (a b : BitVec 5) (i : BitVec 12)
  /-- R96: Branches when sa < sb unsigned. -/
  | bltz (a b : BitVec 5) (i : BitVec 12)
  /-- R96: Branches when sa ≥ sb unsigned. -/
  | bgez (a b : BitVec 5) (i : BitVec 12)
  /-- R97: Writes pc + 4 to sd and jumps pc-relative. -/
  | jal (d : BitVec 5) (i : BitVec 20)
  /-- R97: Jumps to sa + offset with bits 1:0 cleared, linking pc + 4. -/
  | jalr (d a : BitVec 5) (i : BitVec 12)
  /-- R97: Writes sext(imm20) × 4096 to sd. -/
  | lui (d : BitVec 5) (i : BitVec 20)
  /-- R97: Writes pc + sext(imm20) × 4096 to sd. -/
  | aupc (d : BitVec 5) (i : BitVec 20)
  /-- R82: Pushes a loop level with the count in sa, or skips the body for zero. -/
  | loop (a : BitVec 5) (i : BitVec 12)
  /-- R82: Pushes a loop level with an immediate count. -/
  | loopi (n : BitVec 10) (i : BitVec 12)
  /-- R85: Writes the index of the loop level depth places out. -/
  | lidx (d : BitVec 5) (e : BitVec 3)
  /-- R85: Pops the innermost loop level and continues after its end. -/
  | lbrk
  /-- R85: Runs end-of-body processing for the innermost level. -/
  | lnext
  /-- R100: Posts a service record with s4 to s11 and waits for the host runtime. -/
  | svc
  /-- R101: Posts a BREAKPOINT record and starts the slate wave. -/
  | brk
  /-- R102: A pre-emption point, otherwise no effect. -/
  | yield
  /-- R103: Drains the vector queue and invalidates the core's instruction cache. -/
  | ifence
  /-- R98: Reads a CSR into sd, waiting for queued writers where R81 says. -/
  | getc (d : BitVec 5) (c : BitVec 12)
  /-- R98: Writes sa to a CSR under the limits of R79. -/
  | setc (a : BitVec 5) (c : BitVec 12)
  /-- R98: Reads a CSR and writes sa to it in one step. -/
  | swapc (d a : BitVec 5) (c : BitVec 12)
  /-- R99: Waits until jtime reaches sa. -/
  | sleep (a : BitVec 5)
  /-- R286: Atomic 32-bit add at the home. -/
  | amoaddW (d a b : BitVec 5) (s : BitVec 3) (r q : BitVec 1)
  /-- R286: Atomic 64-bit add at the home. -/
  | amoaddD (d a b : BitVec 5) (s : BitVec 3) (r q : BitVec 1)
  /-- R286: Atomic 32-bit swap. -/
  | amoswapW (d a b : BitVec 5) (s : BitVec 3) (r q : BitVec 1)
  /-- R286: Atomic 64-bit swap. -/
  | amoswapD (d a b : BitVec 5) (s : BitVec 3) (r q : BitVec 1)
  /-- R286: Atomic AND. -/
  | amoandD (d a b : BitVec 5) (s : BitVec 3) (r q : BitVec 1)
  /-- R286: Atomic OR. -/
  | amoorD (d a b : BitVec 5) (s : BitVec 3) (r q : BitVec 1)
  /-- R286: Atomic XOR. -/
  | amoxorD (d a b : BitVec 5) (s : BitVec 3) (r q : BitVec 1)
  /-- R286: Atomic signed minimum. -/
  | amominD (d a b : BitVec 5) (s : BitVec 3) (r q : BitVec 1)
  /-- R286: Atomic signed maximum. -/
  | amomaxD (d a b : BitVec 5) (s : BitVec 3) (r q : BitVec 1)
  /-- R286: Atomic unsigned minimum. -/
  | amominzD (d a b : BitVec 5) (s : BitVec 3) (r q : BitVec 1)
  /-- R286: Atomic unsigned maximum. -/
  | amomaxzD (d a b : BitVec 5) (s : BitVec 3) (r q : BitVec 1)
  /-- R286: Atomic compare-and-swap with the compare value in sd. -/
  | amocasD (d a b : BitVec 5) (s : BitVec 3) (r q : BitVec 1)
  /-- R286: Atomic FP32 add rounded rne. -/
  | amofaddS (d a b : BitVec 5) (s : BitVec 3) (r q : BitVec 1)
  /-- R286: Atomic FP32 maximum. -/
  | amofmaxS (d a b : BitVec 5) (s : BitVec 3) (r q : BitVec 1)
  /-- R138: Writes the old vty to sd and sets a new element type. -/
  | vtype (d t : BitVec 5)
  /-- R140: Writes min(sa, N) and a mask of that many low elements. -/
  | strip (d a k : BitVec 5)
  /-- R139: Writes N at the current vty. -/
  | vlmax (d : BitVec 5)
  /-- R166: Opens an accumulation window with one private copy per lane group. -/
  | wopen (a b : BitVec 5)
  /-- R168: Adds each lane group's copy into memory in ascending order and closes the window. -/
  | wmerge (a : BitVec 5)
  /-- R141: Element-wise add. -/
  | vadd (d a b k : BitVec 5)
  /-- R141: Element-wise subtract. -/
  | vsub (d a b k : BitVec 5)
  /-- R141: Element-wise multiply. -/
  | vmul (d a b k : BitVec 5)
  /-- R141: d + a × b with one rounding. -/
  | vmac (d a b k : BitVec 5)
  /-- R141: d − a × b with one rounding. -/
  | vnmac (d a b k : BitVec 5)
  /-- R141: Element-wise minimum. -/
  | vmin (d a b k : BitVec 5)
  /-- R141: Element-wise maximum. -/
  | vmax (d a b k : BitVec 5)
  /-- R141: Element-wise divide. -/
  | vdiv (d a b k : BitVec 5)
  /-- R141: Element-wise AND. -/
  | vand (d a b k : BitVec 5)
  /-- R141: Element-wise OR. -/
  | vor (d a b k : BitVec 5)
  /-- R141: Element-wise XOR. -/
  | vxor (d a b k : BitVec 5)
  /-- R141: Element-wise left shift. -/
  | vsll (d a b k : BitVec 5)
  /-- R141: Element-wise logical right shift. -/
  | vsrl (d a b k : BitVec 5)
  /-- R141: Element-wise arithmetic right shift. -/
  | vsra (d a b k : BitVec 5)
  /-- R141: High half of the signed product. -/
  | vmulh (d a b k : BitVec 5)
  /-- R141: High half of the unsigned product. -/
  | vmulhz (d a b k : BitVec 5)
  /-- R141: Element-wise absolute value. -/
  | vabs (d a k : BitVec 5)
  /-- R141: Element-wise negation. -/
  | vneg (d a k : BitVec 5)
  /-- R141: Correctly rounded square root. -/
  | vsqrt (d a k : BitVec 5)
  /-- R141: Correctly rounded reciprocal. -/
  | vrcp (d a k : BitVec 5)
  /-- R141: Correctly rounded reciprocal square root. -/
  | vrsqrt (d a k : BitVec 5)
  /-- R141: Correctly rounded 2^a. -/
  | vexp2 (d a k : BitVec 5)
  /-- R141: Bit copy of elements. -/
  | vmov (d a k : BitVec 5)
  /-- R141: Adds a scalar to each element. -/
  | vaddS (d a b k : BitVec 5)
  /-- R141: Subtracts a scalar from each element. -/
  | vsubS (d a b k : BitVec 5)
  /-- R141: Multiplies each element by a scalar. -/
  | vmulS (d a b k : BitVec 5)
  /-- R141: d + a × scalar with one rounding. -/
  | vmacS (d a b k : BitVec 5)
  /-- R141: d − a × scalar with one rounding. -/
  | vnmacS (d a b k : BitVec 5)
  /-- R141: Minimum with a scalar. -/
  | vminS (d a b k : BitVec 5)
  /-- R141: Maximum with a scalar. -/
  | vmaxS (d a b k : BitVec 5)
  /-- R141: Divides each element by a scalar. -/
  | vdivS (d a b k : BitVec 5)
  /-- R141: AND with a scalar. -/
  | vandS (d a b k : BitVec 5)
  /-- R141: OR with a scalar. -/
  | vorS (d a b k : BitVec 5)
  /-- R141: XOR with a scalar. -/
  | vxorS (d a b k : BitVec 5)
  /-- R141: Left shift by a scalar. -/
  | vsllS (d a b k : BitVec 5)
  /-- R141: Logical right shift by a scalar. -/
  | vsrlS (d a b k : BitVec 5)
  /-- R141: Arithmetic right shift by a scalar. -/
  | vsraS (d a b k : BitVec 5)
  /-- R141: High half of the signed product with a scalar. -/
  | vmulhS (d a b k : BitVec 5)
  /-- R141: High half of the unsigned product with a scalar. -/
  | vmulhzS (d a b k : BitVec 5)
  /-- R142: Mask of a = b. -/
  | vceq (d a b k : BitVec 5)
  /-- R142: Mask of a ≠ b. -/
  | vcne (d a b k : BitVec 5)
  /-- R142: Mask of a < b. -/
  | vclt (d a b k : BitVec 5)
  /-- R142: Mask of a ≤ b. -/
  | vcle (d a b k : BitVec 5)
  /-- R142: Mask of a < b with bit patterns unsigned. -/
  | vcltz (d a b k : BitVec 5)
  /-- R142: Mask of a ≤ b with bit patterns unsigned. -/
  | vclez (d a b k : BitVec 5)
  /-- R142: Mask of a or b NaN. -/
  | vcun (d a b k : BitVec 5)
  /-- R142: Mask of a = scalar. -/
  | vceqS (d a b k : BitVec 5)
  /-- R142: Mask of a ≠ scalar. -/
  | vcneS (d a b k : BitVec 5)
  /-- R142: Mask of a < scalar. -/
  | vcltS (d a b k : BitVec 5)
  /-- R142: Mask of a ≤ scalar. -/
  | vcleS (d a b k : BitVec 5)
  /-- R142: Mask of a > scalar. -/
  | vcgtS (d a b k : BitVec 5)
  /-- R142: Mask of a ≥ scalar. -/
  | vcgeS (d a b k : BitVec 5)
  /-- R143: Mask AND. -/
  | kand (d a b k : BitVec 5)
  /-- R143: Mask OR. -/
  | kor (d a b k : BitVec 5)
  /-- R143: Mask XOR. -/
  | kxor (d a b k : BitVec 5)
  /-- R143: Mask ka AND NOT kb. -/
  | kandn (d a b k : BitVec 5)
  /-- R143: Mask NOT. -/
  | knot (d a k : BitVec 5)
  /-- R143: Mask of sa + i < sb, signed. -/
  | kwhile (d a b : BitVec 5)
  /-- R143: Sets active mask positions. -/
  | kset (d k : BitVec 5)
  /-- R143: Clears active mask positions. -/
  | kclr (d k : BitVec 5)
  /-- R144: Counts set active mask positions into sd. -/
  | kcnt (d a k : BitVec 5)
  /-- R144: Writes the lowest set active position, or all ones. -/
  | kfirst (d a k : BitVec 5)
  /-- R145: Broadcasts the low bits of sa. -/
  | vbcast (d a k : BitVec 5)
  /-- R145: Slides elements up by n. -/
  | vslup (d a b k : BitVec 5)
  /-- R145: Slides elements down by n. -/
  | vsldn (d a b k : BitVec 5)
  /-- R145: Gathers va by indices in vb. -/
  | vperm (d a b k : BitVec 5)
  /-- R145: Interleaves low halves. -/
  | vzipl (d a b k : BitVec 5)
  /-- R145: Interleaves high halves. -/
  | vziph (d a b k : BitVec 5)
  /-- R145: Takes even elements. -/
  | vunzpe (d a b k : BitVec 5)
  /-- R145: Takes odd elements. -/
  | vunzpo (d a b k : BitVec 5)
  /-- R145: Packs active elements to the bottom. -/
  | vcmprs (d a k : BitVec 5)
  /-- R145: Expands elements to active positions. -/
  | vexpnd (d a k : BitVec 5)
  /-- R145: Extracts element n into sd. -/
  | vext (d a b : BitVec 5)
  /-- R145: Inserts sa at element n. -/
  | vins (d a b : BitVec 5)
  /-- R145: Writes the count of active positions below each position. -/
  | viota (d k : BitVec 5)
  /-- R145: Reverses element order. -/
  | vrev (d a k : BitVec 5)
  /-- R146: Tree sum of active elements into sd. -/
  | vrsum (d a k : BitVec 5)
  /-- R146: Tree maximum into sd. -/
  | vrmax (d a k : BitVec 5)
  /-- R146: Tree minimum into sd. -/
  | vrmin (d a k : BitVec 5)
  /-- R146: Tree AND into sd. -/
  | vrand (d a k : BitVec 5)
  /-- R146: Tree OR into sd. -/
  | vror (d a k : BitVec 5)
  /-- R147: Inclusive running sum over active elements. -/
  | vscan (d a k : BitVec 5)
  /-- R147: Exclusive running sum over active elements. -/
  | vscanx (d a k : BitVec 5)
  /-- R146: Widening tree sum into sd. -/
  | vrsumw (d a k : BitVec 5)
  /-- R148: Converts elements from the source type to vty. -/
  | vcvt (d a k s : BitVec 5) (r : BitVec 3)
  /-- R148: Saturating conversion to vty. -/
  | vcvtSat (d a k s : BitVec 5) (r : BitVec 3)
  /-- R149: Packs elements into block format with scales in vd + 1. -/
  | vpack (d a k s : BitVec 5) (r : BitVec 3)
  /-- R149: Decodes block elements and scales to vty. -/
  | vunpk (d a k s : BitVec 5)
  /-- R152: Unit-stride vector load. -/
  | vld (d a k o : BitVec 5)
  /-- R152: Strided vector load. -/
  | vlds (d a b k : BitVec 5)
  /-- R152: Indexed vector load. -/
  | vldx (d a b k : BitVec 5)
  /-- R156: First-fault load that stops at the first failing element. -/
  | vldff (d a k o : BitVec 5)
  /-- R157: Segment load of N fields per element, N = f5 − 2. -/
  | vldseg (d a n k t : BitVec 5)
  /-- R159: Decoding load from a format-tagged page. -/
  | vldf (d a k o : BitVec 5)
  /-- R161: Raw block load of codes and scales. -/
  | vldb (d a k o : BitVec 5)
  /-- R163: Unit-stride vector store. -/
  | vst (d a k o : BitVec 5)
  /-- R163: Strided vector store. -/
  | vsts (d a b k : BitVec 5)
  /-- R163: Indexed vector store. -/
  | vstx (d a b k : BitVec 5)
  /-- R157: Segment store of N fields per element, N = f5 − 2. -/
  | vstseg (d a n k t : BitVec 5)
  /-- R160: Packing store to a format-tagged page. -/
  | vstf (d a k o : BitVec 5)
  /-- R167: Adds elements into the lane group's window copy. -/
  | vstxa (d a b k : BitVec 5)
  /-- R165: Vector atomic add at each element's home. -/
  | vamo (d a b k : BitVec 5)
  /-- R182: Queues a load of the shadow weight plane. -/
  | mld (a b y : BitVec 5)
  /-- R183: Queues an exchange of active and shadow planes. -/
  | mswap
  /-- R184: Queues streaming activation rows past the active plane into a tile. -/
  | mstr (x : BitVec 2) (a b : BitVec 5) (c : BitVec 1) (y : BitVec 5)
  /-- R185: Reads two tile rows into a vector register once final. -/
  | mrd (d : BitVec 5) (x : BitVec 2) (a : BitVec 5)
  /-- R186: Queues zeroing a tile and tagging it Z. -/
  | mzero (x : BitVec 2)
  /-- R187: Queues storing a tile's rows to memory with conversion. -/
  | mst (x : BitVec 2) (a b y : BitVec 5)
  /-- R196: Checks a descriptor and queues a copy patterned at the source. -/
  | cpy (d a b : BitVec 5) (p : BitVec 4)
  /-- R196: Queues a copy patterned at the destination. -/
  | cpyr (d a b : BitVec 5) (p : BitVec 4)
  /-- R203: Waits until the masked chunk-map bits are set. -/
  | cwait (d a b : BitVec 5) (w : BitVec 7)
  /-- R191: Binds a stream register to a strided pattern on a port. -/
  | sbind (d a : BitVec 5) (e : BitVec 3) (p : BitVec 4)
  /-- R192: Unbinds a stream register and frees its port. -/
  | sunbind (d : BitVec 5)
  /-- R207: Waits until a timeline counter reaches n. -/
  | tlwait (d a b : BitVec 5)
  /-- R205: Appends a command record to an engine chain. -/
  | capp (d a b : BitVec 5)
  /-- R208: Reads a stream port's status. -/
  | cstat (d a : BitVec 5)
  /-- R218: Arrives at the bound barrier without waiting. -/
  | barr (d a : BitVec 5)
  /-- R219: Waits for closure of the phase of the latest arrival. -/
  | bwait (d a b : BitVec 5)
  /-- R219: Arrives and waits for the phase's closure. -/
  | bsync (d a b : BitVec 5)
  /-- R224: Waits with a deadline to take a lock. -/
  | acq (d a b : BitVec 5)
  /-- R226: Releases a lock or finds it STALE. -/
  | rel (d a : BitVec 5)
  /-- R227: Takes over a lock if holder and generation are unchanged. -/
  | mend (d a b : BitVec 5)
  /-- R229: An acquire event at the named scope. -/
  | pacq (s : BitVec 3)
  /-- R229: A release event at the named scope. -/
  | prel (s : BitVec 3)
  /-- R229: A release then an acquire as one event. -/
  | pfull (s : BitVec 3)
  /-- R216: Binds a barrier register, configuring the object if needed. -/
  | bbind (d a : BitVec 5)
  /-- R221: Removes parties from a barrier's member set. -/
  | bdrop (d a : BitVec 5)
  /-- R222: Reads a barrier object's state. -/
  | bstat (d a : BitVec 5)
  /-- R260: Binds a watermark register to an object and region. -/
  | wmbind (d a b : BitVec 5)
  /-- R262: Releases and raises a watermark. -/
  | wmpub (a b : BitVec 5)
  /-- R262: Reads a bound watermark's value. -/
  | wmrd (d a : BitVec 5)
  /-- R231: Binds a ring register, creating the ring at first binding. -/
  | rbind (d a : BitVec 5)
  /-- R234: Waits to claim the slot in window slot lead. -/
  | rget (d a b : BitVec 5)
  /-- R235: Publishes the claimed slot as filled. -/
  | rput (a : BitVec 5)
  /-- R234: Waits to take window slot 0 when filled or void. -/
  | rtake (d a b : BitVec 5)
  /-- R235: Frees the taken slot after its reads complete. -/
  | rdone (a : BitVec 5)
  /-- R237: Reads a ring's state. -/
  | rstat (d a : BitVec 5)
  /-- R238: Unbinds a ring register, freeing claims and takes. -/
  | runbind (a : BitVec 5)
  /-- R243: Claims a Sable tile region and makes its root handle. -/
  | hnew (d a : BitVec 5)
  /-- R244: Splits a handle into two halves along an axis. -/
  | hsplit (d a b c : BitVec 5)
  /-- R248: Rejoins two sibling halves once their writes are performed. -/
  | hjoin (d a b : BitVec 5)
  /-- R246: Moves a half into a mailbox slot. -/
  | hsend (a b : BitVec 5)
  /-- R247: Waits with a deadline for a half in a mailbox. -/
  | hrecv (d a b : BitVec 5)
  /-- R250: Writes the address of the half's first element. -/
  | haddr (d a : BitVec 5)
  /-- R250: Frees a root handle and returns the region to ordinary memory. -/
  | hfree (a : BitVec 5)
  /-- R250: Reads a handle register's information. -/
  | hinfo (d a : BitVec 5)
  /-- R249: Takes back a half whose holder the program declared absent. -/
  | hreclaim (d a : BitVec 5)
  /-- R253: Appends a continuation record to the cluster's task queue. -/
  | spawn (a : BitVec 5)
  /-- R255: Ends the task or strand after its checks, releasing at pkg. -/
  | tend
  /-- R254: Decrements a join counter, spawning the record at zero. -/
  | jdec (a : BitVec 5)
  /-- R258: Appends an item to a data work-queue. -/
  | qpush (a b : BitVec 5)
  /-- R258: Waits with a deadline to pop a work-queue item. -/
  | qpop (d a b : BitVec 5)
  /-- R256: Reads the strand's task status. -/
  | tself (d : BitVec 5)
  /-- R371: Releases at fab and writes a payload into a fabric mailbox slot. -/
  | fsend (d a b : BitVec 5)
  /-- R372: Waits with a deadline for a fabric mailbox message. -/
  | frecv (d a b : BitVec 5)
  /-- R374: Reads one entry of a peer's path table. -/
  | fpath (d a b : BitVec 5)
  /-- R375: Reads a peer's path summary. -/
  | fprobe (d a : BitVec 5)
  /-- R63: The front end issues a word that decodes to no instruction and faults ILLEGAL_INSTRUCTION precisely. -/
  | illegalWordIssue (w : IWord)
  /-- R90: The word at pc would issue but its fetch failed, faulting PAGE_NOT_PRESENT, PAGE_PROTECTION or KIND_FORBIDDEN with access kind 1. -/
  | fetchProblem
  /-- R165: A home's report of a vamo sub-operation, faulting at the last report. -/
  | vamoReport (sid : BitVec 32) (elem : Nat) (code : Option FaultCode)
  /-- R189: The matrix unit finishes loading the shadow plane. -/
  | mldComplete (core : Nat)
  /-- R179: The planes exchange once earlier mld and mstr work allows. -/
  | mswapPerformed (core : Nat)
  /-- R179: A streamed row's sums are written to the tile and the row becomes final. -/
  | mstrRowFinal (core : Nat) (err : Option MatErr)
  /-- R186: The tile is zeroed once earlier work on it is done. -/
  | mzeroPerformed (core : Nat)
  /-- R187: A final tile row is converted and written to memory. -/
  | mstRowWrite (core : Nat)
  /-- R185: vd is written 2 cycles after both rows are final. -/
  | mrdWrite (sid : BitVec 32)
  /-- R181: A full-queue or row wait passes dl.def and faults MATRIX_WAIT_EXPIRED. -/
  | matrixWaitExpired (sid : BitVec 32)
  /-- R190: A port falls free and starts the command at the head of its queue. -/
  | portDispatch (core port : Nat)
  /-- R190: An issue waiting on a full port queue passes dl.def and faults COPY_FAULT. -/
  | portQueueWaitExpired (sid : BitVec 32)
  /-- R199: A copy performs one chunk, skipping it if its map bit is set. -/
  | copyChunk (id chunk : Nat)
  /-- R197: The copy has read every source byte and fills its release token. -/
  | releaseTokenWrite (id : Nat)
  /-- R197: Every destination byte is performed and the delivery token is filled. -/
  | deliveryTokenWrite (id : Nat)
  /-- R309: Once started chunks settle, the port posts the copy's fault record and writes the delivery token. -/
  | copyFaultPost (id : Nat)
  /-- R202: A serviced chunk-mapped copy re-runs on its port over clear chunks. -/
  | copyReplay (id : Nat)
  /-- R191: A stream port delivers a prefetched strip. -/
  | streamStripDeliver (core port : Nat)
  /-- R204: Copy-port chain command op 1, a copy as cpy. -/
  | chainCopy (hdr : Nat)
  /-- R204: Copy-port chain command op 2, a copy as cpyr. -/
  | chainCopyr (hdr : Nat)
  /-- R204: Copy-port chain command op 3 with no effect. -/
  | chainMark (hdr : Nat)
  /-- R206: An engine finishes command n and writes n to the timeline counter. -/
  | chainCommandComplete (hdr : Nat)
  /-- R305: Ochre op 1, a copy as cpy. -/
  | ochreCopy (hdr : Nat)
  /-- R305: Ochre op 2, a copy as cpyr. -/
  | ochreCopyr (hdr : Nat)
  /-- R305: Ochre op 3 with no effect. -/
  | ochreMark (hdr : Nat)
  /-- R305: Ochre op 4 fills memory with an 8-byte pattern. -/
  | ochreFill (hdr : Nat)
  /-- R382: Indigo op 1, a fabric-port copy as cpy with a path policy. -/
  | indigoCopy (hdr : Nat)
  /-- R382: Indigo op 2, a copy as cpyr. -/
  | indigoCopyr (hdr : Nat)
  /-- R382: Indigo op 3 with no effect. -/
  | indigoMark (hdr : Nat)
  /-- R382: Indigo op 4 holds the chain until a counter reaches n. -/
  | indigoWait (hdr : Nat)
  /-- R382: The waited counter reaches n and the chain proceeds. -/
  | indigoWaitMet (hdr : Nat)
  /-- R382: The wait's deadline passes and the command fails with COPY_FAULT. -/
  | indigoWaitExpired (hdr : Nat)
  /-- R382: Indigo op 5 performs a releasing amoadd.d at fab. -/
  | indigoSignal (hdr : Nat)
  /-- R382: Indigo op 6 replaces a peer's PIN and AVOID bits. -/
  | indigoPathSet (hdr : Nat)
  /-- R383: Ultra Ethernet op 1 writes into a peer's registered region. -/
  | ueWrite (hdr : Nat)
  /-- R383: Ultra Ethernet op 2 reads from a peer's region. -/
  | ueRead (hdr : Nat)
  /-- R383: Ultra Ethernet op 3 registers a region. -/
  | ueRegisterRegion (hdr : Nat)
  /-- R383: Ultra Ethernet op 4 with no effect. -/
  | ueMark (hdr : Nat)
  /-- R380: An Ultra Ethernet packet arrives and its chunks commit into the region map. -/
  | uePacket (pkt : UePacket)
  /-- R170: A watermark stall passes dl.def and faults WATERMARK_EXPIRED. -/
  | watermarkExpired (sid : BitVec 32)
  /-- R220: jtime passes the phase's earliest deadline and the phase closes EXPIRED. -/
  | barrierDeadlineClose (cluster obj : Nat)
  /-- R71: A wait on an empty register passes dl.def and faults REG_WAIT_EXPIRED. -/
  | regWaitExpired (sid : BitVec 32)
  /-- R74: jtime passes a wait's clamped deadline and the home decides EXPIRED. -/
  | waitExpired (sid : BitVec 32)
  /-- R99: jtime reaches a sleep's target and the sleep ends MET. -/
  | sleepMet (sid : BitVec 32)
  /-- R100: An svc not serviced within dl.def continues with EXPIRED. -/
  | svcExpired (sid : BitVec 32)
  /-- R87: A pending pre-emption takes effect at a pre-emption point and saves the strand. -/
  | preempt (sid : BitVec 32)
  /-- R88: A strand reaches no pre-emption point within 65,536 cycles of a request. -/
  | budgetOverrun (sid : BitVec 32)
  /-- R327: tbud reaches 0 and the scheduler pre-empts or refills. -/
  | tbudExhausted (sid : BitVec 32)
  /-- R252: An idle leased slot pops a record and starts the task. -/
  | taskStart (core slot : Nat)
  /-- R257: A pre-empted task resumes on its slot with tbud refilled. -/
  | taskResume (core slot : Nat)
  /-- R325: Each ms of waiting raises a job's effective priority up to CAP. -/
  | priorityAging (job : BitVec 32)
  /-- R326: A next job is bound to a core once the current job's work there has ended. -/
  | coreBind (core : Nat) (job : BitVec 32)
  /-- R328: A higher-priority waiting job pre-empts and saves a running job. -/
  | gangPreempt (job : BitVec 32)
  /-- R329: A pre-empted job is restored on its cores and restarts at a common gtime. -/
  | gangResume (job : BitVec 32)
  /-- R330: A commanded scrub zeroes a core's state and sets SCRUBBED. -/
  | coreScrub (core : Nat)
  /-- R321: All work of a launch has ended and its journal state becomes completed. -/
  | jobComplete (job : BitVec 32)
  /-- R323: A stopping strand reaching no pre-emption point within 65,536 cycles is stopped at its next boundary. -/
  | jobStopForce (sid : BitVec 32)
  /-- R319: The device takes the next committed command from its slot. -/
  | commandTake
  /-- R310: Command kind 1 accepts a launch record for scheduling. -/
  | launch (seq : Nat)
  /-- R303: Shoot-down op 1 drops translations of a page range. -/
  | shootdownPageRange (seq : Nat)
  /-- R303: Shoot-down op 2 drops every translation of one root. -/
  | shootdownRoot (seq : Nat)
  /-- R304: Once requests using old translations settle, seq is written to ack. -/
  | shootdownAck (seq : Nat)
  /-- R323: Command kind 3 ends a job as cancelled. -/
  | cancel (seq : Nat)
  /-- R385: Debugger op 1 starts the slate wave for a job. -/
  | debugFreeze (seq : Nat)
  /-- R391: Debugger op 2 runs one instruction of a frozen strand. -/
  | debugStep (seq : Nat)
  /-- R392: Debugger op 3 announces a resume of a frozen job. -/
  | debugResume (seq : Nat)
  /-- R385: Debugger op 4 writes a 512-byte strand image to the host. -/
  | debugDump (seq : Nat)
  /-- R347: Command kind 5 invalidates a key and ends jobs under it. -/
  | keyInvalidate (seq : Nat)
  /-- R294: A walker resolves a TLB miss through the table, setting A and D. -/
  | pageWalk (cluster : Nat) (job : BitVec 32) (va : Word) (kind : AccKind)
  /-- R296: The Cobalt core refills a die's free-page pool. -/
  | poolRefill (die : Nat) (frames : List Nat)
  /-- R298: A held fault is posted when tail frees space in the ring. -/
  | faultQueueSpace (job : BitVec 32)
  /-- R301: Tail passing records resumes held, frozen and parked strands and replays copies. -/
  | tailAdvance (job : BitVec 32) (tail : Word)
  /-- R301: A hold for the paging service lasting past dl.max counts as declined. -/
  | holdExpired (sid : BitVec 32)
  /-- R302: The Cobalt paging service allocates, migrates or refills and marks a record. -/
  | pagingService (job : BitVec 32) (rec : Nat) (entry : Nat) (val : Word) (supply : PageSupply) (decline : Bool)
  /-- R306: The patrol scrubber reads words, correcting or poisoning them. -/
  | patrolScrub (at_ : ErrPlace) (bad : Bool)
  /-- R259: An uncorrectable error loses a task or work queue and posts QUEUE_LOST. -/
  | queueLost (cluster : Nat) (job : BitVec 32) (queue : Option Nat)
  /-- R333: An uncorrectable error resets a cyan core and reloads it. -/
  | cyanReload (n : Nat)
  /-- R334: An uncorrectable error resets the Cobalt core from its image. -/
  | cobaltReset
  /-- R337: Reset runs the boot ROM, trains HBM, retires units and awaits an image. -/
  | packageReset (slices : List Nat) (lanes : List Nat) (cores : List Nat) (clusters : List Nat) (ports : List Nat) (cyans : List Nat)
  /-- R337: Writing the image length starts verification of the staged image. -/
  | imgdbWrite (len : Word)
  /-- R337: The firmware finishes initialisation and sets STATE 4. -/
  | bootReady (frames : List Nat)
  /-- R335: Writing 1 locks DMAWIN and PORTLIM until reset. -/
  | dmalockWrite (val : Word)
  /-- R353: Writing LOCK fixes FABID and FABETYPE until reset. -/
  | fabidLock (val : Word)
  /-- R336: A host write to a BAR0 or control-block register with no behaviour of its own. -/
  | registerWrite (off : Nat) (val : Word)
  /-- R275: A host CXL.mem write completes at its home. -/
  | hostWrite (off : Nat) (data : FromHost (List Byte)) (tdi : Option Nat)
  /-- R275: A host CXL.mem read returns the value latest in home order. -/
  | hostRead (off n : Nat) (tdi : Option Nat)
  /-- R341: An AtomicOp completion arrives, success or Unsupported Request. -/
  | hostAtomicCompletion (req : Nat) (reply : FromHost HostAtomicReply)
  /-- R342: A host proxy reply with matching seq completes the atomic. -/
  | proxyReply (index : FromHost Nat)
  /-- R342: A wait on a full proxy queue passes dl.def and faults HOST_PROXY_EXPIRED. -/
  | proxyQueueExpired (sid : BitVec 32)
  /-- R343: No proxy reply within dl.def faults HOST_PROXY_EXPIRED. -/
  | proxyReplyExpired (sid : BitVec 32)
  /-- R344: An SPDM request message is answered by the responder. -/
  | spdmRequest (req : SpdmRequest)
  /-- R347: A vendor-defined SPDM message installs a tenant key. -/
  | spdmKeyInstall (session tdi key : Nat)
  /-- R346: A TDI leaving RUN stops the tenant's jobs and invalidates its keys. -/
  | tdiLeaveRun (tdi : Nat)
  /-- R348: A die at 95 °C or above lowers its clock by 25 MHz. -/
  | thermalStep (die temp : Nat)
  /-- R348: The 10 ms average power is held at or below PWRCAP. -/
  | powerClamp (watts : Nat)
  /-- R358: A Tsueratis frame is received and its flits checked. -/
  | frameReceive (port : Nat) (frame : Frame)
  /-- R355: A time flit steers gtime. -/
  | timeFlit (port : Nat) (time : Word)
  /-- R355: An IEEE 1588 message is timestamped and steers gtime. -/
  | ptpMessage (port : Nat) (time : Word) (locked : Bool)
  /-- R355: No time lock for 10 ms fails multi-package launches. -/
  | ptpLockLoss
  /-- R360: A retry request makes the sender replay from the next flit. -/
  | retryRequest (port : Nat) (lseq : BitVec 12)
  /-- R360: 16 replays without progress declare the link down. -/
  | linkDown (port : Nat)
  /-- R362: A stomp flit makes the packet be discarded. -/
  | stomp (port : Nat) (spkg : Nat) (eseq : BitVec 32)
  /-- R359: A peer read request is checked and answered. -/
  | readRequest (pkt : Packet)
  /-- R359: A read reply completes a peer load. -/
  | readReply (pkt : Packet)
  /-- R359: A peer write packet is placed after its checks. -/
  | writeRequest (pkt : Packet)
  /-- R359: A peer atomic is performed at the home slice. -/
  | atomicRequest (pkt : Packet)
  /-- R359: An atomic reply returns the old value. -/
  | atomicReply (pkt : Packet)
  /-- R359: A chunk write commits by chunk map at the destination. -/
  | chunkWrite (pkt : Packet)
  /-- R368: A multicast chunk is replicated and committed per destination map. -/
  | multicastChunkWrite (pkt : Packet)
  /-- R359: A fabric mailbox message is written at its home. -/
  | message (pkt : Packet)
  /-- R359: A message reply returns the slot result to fsend. -/
  | messageReply (pkt : Packet)
  /-- R361: An ack retires an end-to-end sequence number. -/
  | ack (pkt : Packet)
  /-- R368: A nack makes the source resend a branch by unicast. -/
  | nack (pkt : Packet)
  /-- R366: A combined fetch-and-add is performed as one home step. -/
  | combinedAtomic (pkt : Packet)
  /-- R366: A combined reply is split toward its members. -/
  | combinedReply (pkt : Packet)
  /-- R361: A packet unacked for 20 µs is retransmitted. -/
  | e2eRetransmit (pkg : Nat) (eseq : BitVec 32)
  /-- R368: A branch not accepting within 100 µs drops its copy and nacks. -/
  | multicastBranchTimeout (copy chunk pkg : Nat)
  /-- R373: Every 100 µs the engine probes paths and updates the table. -/
  | pathProbe (peer path : Nat) (rtt ecn : Nat)
  /-- R354: A package's acceptance with the record digest reaches the slice. -/
  | launchAcceptAnnounce (pkg : Nat) (job : BitVec 32) (digest : Nat) (time : Word)
  /-- R354: The slice not all accepted within 1 ms fails the launch. -/
  | launchAgreeTimeout (job : BitVec 32)
  /-- R354: At S every package starts the job with jtime 0. -/
  | multiJobStart (job : BitVec 32)
  /-- R354: A gang pre-emption request arrives on the control class. -/
  | gangPreemptRequest (job : BitVec 32)
  /-- R386: The wave reaches a package, freezing the job and stopping jtime. -/
  | slateWaveArrive (job : BitVec 32) (cause : Cause)
  /-- R386: A package's stop jtime and cause arrive on the control class. -/
  | frozenReport (pkg : Nat) (job : BitVec 32) (stop : Word) (cause : Cause)
  /-- R389: 8 µs after freezing with all reported, the first cause becomes final. -/
  | firstCauseFinal (job : BitVec 32)
  /-- R392: A resume announcement unpauses receivers, engines and queues. -/
  | resumeAnnounce (job : BitVec 32) (tr stop : Word)
  /-- R392: At T_r + 10 µs jtime is set to the stop value and strands restart. -/
  | slateRestart (job : BitVec 32)
  /-- R393: A package not frozen within 100 µs fails the job FABRIC_UNREACHABLE. -/
  | slateFreezeTimeout (job : BitVec 32)
  /-- R134: A queued vector instruction completes in the vector unit, filling its scalar destination or raising its deferred fault. -/
  | vectorQueueCompletion (sid : BitVec 32)
  /-- R346: A PCIe completion for a device DMA read of host memory arrives on the host link. -/
  | dmaReadCompletion (req : Nat) (data : FromHost (List Byte))
  /-- R345: A TDI is moved into RUN by the host through TDISP, allowing launches under its key ID. -/
  | tdiEnterRun (tdi key : Nat)
deriving DecidableEq, Repr

end Sys2Proof
end

