-- ==== Sys2Proof/Machine/State.lean ====
section
/-! DEFINITION. The state of the machine: one package of the manual with everything in it, and the agenda that says which of its agents moves next. -/

namespace Sys2Proof.Machine

/-- Why the machine stops. -/
inductive Fault
  /-- Raised by `step` when a strand would issue on a package that R348 has halted at 105 °C: the manual says the package halts, and gives nothing that happens after it but a reset. Safe: nothing more is claimed of a halted package. -/
  | packageHalted
deriving DecidableEq, Repr

/-- Why a step has no meaning. -/
inductive Refusal
  /-- An instruction that the model does not give a meaning: raised by an arm of `exec` alone. Safe: the machine stops where the hardware goes on. -/
  | notModelled (mnemonic : String)
deriving DecidableEq, Repr

/-- One move of the package: a strand's front end issues, an event of the opcode table happens, or time passes (nanoseconds of gtime, and arithmetic-clock cycles in that time). Log 1, 3 (DESIGN CHOICE). -/
inductive Move
  | strand (sid : BitVec 32)
  | event (i : Instr)
  | elapse (ns : Nat) (cycles : Nat)
deriving DecidableEq, Repr

/-- The package. `cur` is the strand whose front end moves when the agenda is empty; `rest` are the other strands that occupy slots and those a pre-emption saved. `ticket` numbers strands and waits in the order they came. Memory is keyed by place (see Ops): local HBM, scratchpads and vaults in one map of bytes. Log 1, 62 (DESIGN CHOICE). -/
structure State where
  cur : Strand
  rest : List Strand
  agenda : List Move
  gtime : Word
  free : Nat
  ticket : Nat
  mem : SMap Byte
  keyRuns : List (Nat × Nat × Nat)
  poison : SMap Bool
  /-- the writes made through handles of live Sable regions, latest first, with no place in home order yet (R240, R250) -/
  sable : List WriteRec
  hist : List WriteRec
  /-- writes sent to the memory of the host and of peers, latest first, with the releases that have published them (R264, R267) -/
  far : List WriteRec
  nextW : Nat
  rels : List RelRec
  nextRel : Nat
  pfulls : List (Scope × Nat)
  lockRels : SMap (List Nat)
  /-- the raises of each watermark, latest first: the value and the release of the `wmpub` (R261) -/
  markRels : SMap (List (Nat × Nat))
  joinRels : SMap (List Nat)
  tlRels : SMap (List (Nat × Nat))
  chunkMasks : List (Nat × Nat × Nat × Scope × BitVec 32)
  /-- writes placed for a peer package's strands, which its releases order (R267, R276) -/
  peerWrites : SMap Nat
  claims : List Claim
  cores : SMap Core
  clusters : SMap Cluster
  rings : List Ring
  dies : SMap Die
  tlb : List TlbEntry
  jobs : List Job
  pkg : Pkg
deriving DecidableEq, Repr

/-- What a byte of memory that nothing has written reads as: the boot zeroes every scratchpad, vault and HBM byte (R337). Log 6 (DESIGN CHOICE). -/
def memDefault : Byte := 0

/-- The canonical form of memory: places strictly rising and no entry equal to what an unlisted place reads as. Log 6 (DESIGN CHOICE). -/
abbrev Memory.wf (m : SMap Byte) : Bool := m.wf memDefault

/-- The package at reset, before the boot ROM has run (R337): no strand started, nothing listed in memory. Log 4 (DESIGN CHOICE). -/
def State.reset : State where
  cur := Strand.idle
  rest := []
  agenda := []
  gtime := 0
  free := 0
  ticket := 1
  mem := []
  keyRuns := []
  poison := []
  sable := []
  hist := []
  far := []
  nextW := 0
  rels := []
  nextRel := 0
  pfulls := []
  lockRels := []
  markRels := []
  joinRels := []
  tlRels := []
  chunkMasks := []
  peerWrites := []
  claims := []
  cores := []
  clusters := []
  rings := []
  dies := []
  tlb := []
  jobs := []
  pkg := Pkg.reset

end Sys2Proof.Machine
end

