-- ==== Sys2Proof/Machine/Base.lean ====
section
/-! DEFINITION. Named reads and writes of the parts of the state: strands and their registers, cores, clusters, jobs, identities (R67, R73, R80, R209). -/

namespace Sys2Proof.Machine

/-! Strand identities (R80) and the numbers of units. -/

def sidPkg (sid : BitVec 32) : Nat := sid.toNat / 2 ^ 22
def sidDie (sid : BitVec 32) : Nat := sid.toNat / 2 ^ 20 % 4
def sidCluster (sid : BitVec 32) : Nat := sid.toNat / 2 ^ 17 % 8
def sidCore (sid : BitVec 32) : Nat := sid.toNat / 2 ^ 11 % 64
def sidSlot (sid : BitVec 32) : Nat := sid.toNat / 2 ^ 9 % 4
/-- The cluster's number in the package: five clusters a die. -/
def clusterOf (sid : BitVec 32) : Nat := sidDie sid * 5 + sidCluster sid
/-- The core's number in the package: 48 cores a cluster. -/
def coreOf (sid : BitVec 32) : Nat := clusterOf sid * 48 + sidCore sid
/-- The identity of a slot of a core of package `p`. -/
def mkSid (p core slot : Nat) : BitVec 32 :=
  BitVec.ofNat 32 (p * 2 ^ 22 + core / 240 * 2 ^ 20 + core / 48 % 5 * 2 ^ 17 + core % 48 * 2 ^ 11 + slot * 2 ^ 9)

/-- Whether two strands lie in one unit of a scope (R10). -/
def sameUnit (sc : Scope) (a b : BitVec 32) : Bool :=
  let d (k : Nat) : Bool := decide (a.toNat / 2 ^ k = b.toNat / 2 ^ k)
  match sc with
  | .strand => d 9
  | .core => d 11
  | .quad => d 13
  | .cluster => d 17
  | .die => d 20
  | .pkg | .sys => d 22
  | .fab => true

/-! Registers of a strand. -/

/-- A scalar register; `s0` reads as 0 (R67). -/
def Strand.getS (t : Strand) (r : BitVec 5) : Word := if r = 0 then 0 else t.sregs.get r.toFin

/-- Writes a scalar register: it is full, holds no token, and a write to `s0` is discarded (R67, R70, R197). -/
def Strand.setS (t : Strand) (r : BitVec 5) (v : Word) : Strand :=
  if r = 0 then t
  else { t with
    sregs := t.sregs.set r.toNat v r.isLt
    full := t.full ||| (1#32 <<< r.toNat)
    marks := t.marks.set none r.toNat none }

/-- Whether a scalar register is full; `s0` always is (R67). -/
def Strand.isFull (t : Strand) (r : BitVec 5) : Bool := decide (r = 0) || t.full.getLsbD r.toNat

/-- Marks a scalar register empty; `s0` stays full (R70). -/
def Strand.markEmpty (t : Strand) (r : BitVec 5) : Strand :=
  if r = 0 then t
  else { t with full := t.full &&& ~~~(1#32 <<< r.toNat), marks := t.marks.set none r.toNat none }

def Strand.getV (t : Strand) (r : BitVec 5) : VReg := t.vregs.get r.toFin
def Strand.setV (t : Strand) (r : BitVec 5) (v : VReg) : Strand := { t with vregs := t.vregs.set r.toNat v r.isLt }

/-- A mask register; numbers above 23 name none and read 0 (R61). -/
def Strand.getK (t : Strand) (r : BitVec 5) : KReg := t.kregs.toList.getD r.toNat 0
def Strand.setK (t : Strand) (r : BitVec 5) (v : KReg) : Strand := { t with kregs := t.kregs.setIfInBounds r.toNat v }

def Strand.getH (t : Strand) (r : BitVec 5) : Option (BitVec 32) := t.hregs.get (r.setWidth 4).toFin
def Strand.setH (t : Strand) (r : BitVec 5) (v : Option (BitVec 32)) : Strand :=
  { t with hregs := t.hregs.set (r.setWidth 4).toNat v (r.setWidth 4).isLt }

def Strand.getB (t : Strand) (r : BitVec 5) : Option BReg := t.bregs.get (r.setWidth 3).toFin
def Strand.setB (t : Strand) (r : BitVec 5) (v : Option BReg) : Strand :=
  { t with bregs := t.bregs.set (r.setWidth 3).toNat v (r.setWidth 3).isLt }

def Strand.getG (t : Strand) (r : BitVec 5) : Option GReg := t.gregs.get (r.setWidth 2).toFin
def Strand.setG (t : Strand) (r : BitVec 5) (v : Option GReg) : Strand :=
  { t with gregs := t.gregs.set (r.setWidth 2).toNat v (r.setWidth 2).isLt }

def Strand.getW (t : Strand) (r : BitVec 5) : Option WReg := t.wregs.get (r.setWidth 2).toFin
def Strand.setW (t : Strand) (r : BitVec 5) (v : Option WReg) : Strand :=
  { t with wregs := t.wregs.set (r.setWidth 2).toNat v (r.setWidth 2).isLt }

/-- Lane groups held: the bits set in `lanes.GRANT` (R79, R126). -/
def Strand.laneCount (t : Strand) : Nat := ((List.range 16).filter (fun j => t.grant.getLsbD j)).length

/-- L, the length of a vector register in bits (R126). -/
def Strand.vbits (t : Strand) : Nat := 512 * t.laneCount

/-! Parts of the state. -/

def State.onCur (s : State) (f : Strand → Strand) : State := { s with cur := f s.cur }

/-- The strand with a uid. -/
def State.byUid? (s : State) (u : Nat) : Option Strand :=
  if s.cur.uid = u then some s.cur else s.rest.find? (fun t => decide (t.uid = u))

/-- Changes the strand with a uid. -/
def State.onUid (s : State) (u : Nat) (f : Strand → Strand) : State :=
  if s.cur.uid = u then { s with cur := f s.cur }
  else { s with rest := s.rest.map (fun t => if t.uid = u then f t else t) }

/-- The strand that occupies the slot an identity names. -/
def State.strand? (s : State) (sid : BitVec 32) : Option Strand :=
  if s.cur.sid = sid ∧ s.cur.away = false then some s.cur
  else s.rest.find? (fun t => decide (t.sid = sid) && !t.away)

/-- Changes the strand that occupies the slot an identity names. -/
def State.onStrand (s : State) (sid : BitVec 32) (f : Strand → Strand) : State :=
  match s.strand? sid with
  | some t => s.onUid t.uid f
  | none => s

/-- Runs an operation on the current strand for another strand: it is made current while the operation runs. -/
def State.asUid (s : State) (u : Nat) (f : State → State) : State :=
  if s.cur.uid = u then f s
  else
    match s.rest.find? (fun t => decide (t.uid = u)) with
    | none => s
    | some t =>
      let home := s.cur.uid
      let s1 := f { s with cur := t, rest := s.cur :: s.rest.filter (fun r => decide (r.uid ≠ u)) }
      match s1.rest.find? (fun r => decide (r.uid = home)) with
      | some c =>
        let others := s1.rest.filter (fun r => decide (r.uid ≠ home))
        { s1 with cur := c, rest := if s1.cur.job = 0 then others else s1.cur :: others }
      | none => s1

/-- Makes the strand that occupies a slot the current one. -/
def State.switchTo (s : State) (sid : BitVec 32) : State :=
  match s.strand? sid with
  | none => s
  | some t =>
    if t.uid = s.cur.uid then s
    else { s with cur := t, rest := (if s.cur.job = 0 then [] else [s.cur]) ++ s.rest.filter (fun r => decide (r.uid ≠ t.uid)) }

/-- Every strand, those a pre-emption saved among them. -/
def State.strands (s : State) : List Strand := s.cur :: s.rest

/-- Changes every strand. -/
def State.mapStrands (s : State) (f : Strand → Strand) : State := { s with cur := f s.cur, rest := s.rest.map f }

def State.core (s : State) (k : Nat) : Core := s.cores.get Core.reset k
def State.setCore (s : State) (k : Nat) (c : Core) : State := { s with cores := s.cores.set Core.reset k c }
def State.onCore (s : State) (k : Nat) (f : Core → Core) : State := s.setCore k (f (s.core k))

/-- The port with a number of a core. -/
def State.portOf (s : State) (core p : Nat) : Port := (s.core core).ports.toList.getD p Port.free
def State.onPort (s : State) (core p : Nat) (f : Port → Port) : State :=
  s.onCore core fun c => { c with ports := c.ports.setIfInBounds p (f (c.ports.toList.getD p Port.free)) }
def State.cluster (s : State) (k : Nat) : Cluster := s.clusters.get Cluster.reset k
def State.setCluster (s : State) (k : Nat) (c : Cluster) : State := { s with clusters := s.clusters.set Cluster.reset k c }
def State.onCluster (s : State) (k : Nat) (f : Cluster → Cluster) : State := s.setCluster k (f (s.cluster k))
def State.die (s : State) (k : Nat) : Die := s.dies.get Die.reset k
def State.setDie (s : State) (k : Nat) (c : Die) : State := { s with dies := s.dies.set Die.reset k c }
def State.onDie (s : State) (k : Nat) (f : Die → Die) : State := s.setDie k (f (s.die k))

def State.onPkg (s : State) (f : Pkg → Pkg) : State := { s with pkg := f s.pkg }

def State.job? (s : State) (id : BitVec 32) : Option Job := s.jobs.find? (fun j => decide (j.id = id ∧ j.state.final = false))
def State.onJob (s : State) (id : BitVec 32) (f : Job → Job) : State :=
  { s with jobs := s.jobs.map (fun j => if j.id = id ∧ j.state.final = false then f j else j) }

/-- `jtime` of a job at a gtime (R73). -/
def Job.jtime (j : Job) (g : Word) : Word := if j.jrun then j.jval + (g - j.jfrom) else j.jval

/-- `jtime` of a job by its number; 0 for none. -/
def State.jtimeOf (s : State) (id : BitVec 32) : Word :=
  match s.job? id with
  | some j => j.jtime s.gtime
  | none => 0

/-- `jtime` as the current strand reads it. -/
def State.jtime (s : State) : Word := s.jtimeOf s.cur.job

/-- A job whose strands do not issue: frozen by the slate wave, or stopped as a gang (R73, R387). -/
def Job.halted (j : Job) : Bool :=
  decide (j.slate.st ≠ .running) || (match j.gang with
    | .none => false
    | .held => false
    | .requested => false
    | _ => true)

/-- This package's number (R353). -/
def State.pkgNo (s : State) : Nat := s.pkg.bar.fabid.toNat % 1024

/-- Whether one of a pair of cyan cores performs the pair's duties (R332, R333, R349). -/
def State.cyanUp (s : State) (a : Nat) : Bool :=
  [a, a + 1].any fun n => !s.pkg.retiredCyan.getLsbD n && !s.pkg.cyanPaused.any fun x => decide (x.1 = n ∧ s.gtime.toNat < x.2.toNat)

/-- Whether a key is installed and has not been invalidated (R347). -/
def State.keyLive (s : State) (k : Nat) : Bool :=
  let e := s.pkg.keys.get ⟨false, false, 0⟩ k
  e.installed && !e.revoked

/-- The core and slot of the current strand. -/
def State.curCore (s : State) : Nat := coreOf s.cur.sid
def State.curCluster (s : State) : Nat := clusterOf s.cur.sid

/-- The host is signalled with an MSI-X vector (R323). -/
def State.signal (s : State) (v : Nat) : State := s.onPkg fun p => { p with msix := p.msix ++ [v] }

end Sys2Proof.Machine
end

