-- ==== Sys2Proof/Machine/Order.lean ====
section
/-! DEFINITION. Memory at home and the phase rules (08_ordering.md R263 to R277): places, reads and writes in home order, what a load may return, release and acquire events. -/

namespace Sys2Proof.Machine

/-! Places. A place is a number: below 2^40 a physical address of local HBM (R282); then the scratchpads, the vaults, host bus addresses and the HBM of peers. -/

def scratchLoc (core off : Nat) : Nat := 2 ^ 44 + core * 2 ^ 21 + off
/-- Vault q of a cluster by the cluster's number; 12 vaults a cluster (R209). Log 6 (DESIGN CHOICE). -/
def vaultLoc (cluster q off : Nat) : Nat := 2 ^ 45 + (cluster * 12 + q) * 2 ^ 24 + off
def hostLoc (bus : Nat) : Nat := 2 ^ 64 + bus
def peerLoc (pkg pa : Nat) : Nat := 2 ^ 80 + pkg * 2 ^ 48 + pa

def isHbm (loc : Nat) : Bool := decide (loc < 2 ^ 40)
def isNearLoc (loc : Nat) : Bool := decide (2 ^ 44 ≤ loc ∧ loc < 2 ^ 46)
def isHostLoc (loc : Nat) : Bool := decide (2 ^ 64 ≤ loc ∧ loc < 2 ^ 80)
def isPeerLoc (loc : Nat) : Bool := decide (2 ^ 80 ≤ loc)
/-- A place whose bytes this package holds. -/
def isHere (loc : Nat) : Bool := decide (loc < 2 ^ 46)

/-! Bytes and numbers, little-endian (R8). -/

def bytesOfNat : Nat → Nat → List Byte
  | 0, _ => []
  | n + 1, v => BitVec.ofNat 8 v :: bytesOfNat n (v / 256)

def natOfBytes : List Byte → Nat
  | [] => 0
  | b :: bs => b.toNat + 256 * natOfBytes bs

/-- n bytes from a place, as they stand last in home order. -/
def State.bytesAt (s : State) (loc n : Nat) : List Byte := s.mem.getList memDefault loc n

/-- The same as a number. -/
def State.peek (s : State) (loc n : Nat) : Nat := natOfBytes (s.bytesAt loc n)

/-- The key under which a byte of HBM was last written (R397); key 0 from the boot. Log 10 (DEDUCED). -/
def State.keyAt (s : State) (loc : Nat) : Nat :=
  match s.keyRuns.find? (fun r => decide (r.1 ≤ loc ∧ loc < r.1 + r.2.1)) with
  | some r => r.2.2
  | none => 0

/-- Bytes read from a place under a key: under another key than the write's they are unpredictable (R397). Near memory carries no key. Log 10 (DEDUCED). -/
def State.decrypt (s : State) (key loc : Nat) : List Byte → List Byte
  | [] => []
  | b :: bs =>
    let k := s.keyAt loc
    (if isHbm loc && decide (k ≠ key) then Config.wrongKey loc key k b else b) :: s.decrypt key (loc + 1) bs

/-- The value of n bytes last in home order, read under a key. -/
def State.peekKey (s : State) (key loc n : Nat) : Nat := natOfBytes (s.decrypt key loc (s.bytesAt loc n))

/-- Whether a byte range meets a poisoned 8-byte word (R173, R306). -/
def State.poisoned (s : State) (loc n : Nat) : Bool :=
  (List.range ((loc + n - 1) / 8 - loc / 8 + 1)).any (fun i => s.poison.get false (loc / 8 + i))

/-- Marks words of a range poisoned or clean. -/
def State.setPoison (s : State) (loc n : Nat) (v : Bool) : State :=
  { s with poison := (List.range ((loc + n - 1) / 8 - loc / 8 + 1)).foldl (fun m i => m.set false (loc / 8 + i) v) s.poison }

/-- Whether a physical address lies in installed local HBM (R282). -/
def State.paOk (s : State) (pa : Nat) : Bool := decide (pa < 2 ^ 40) && decide (pa % 2 ^ 38 < (s.die (pa / 2 ^ 38)).capacity)

/-- Whether n bytes from a physical address lie in installed local HBM (R282). -/
def State.paFits (s : State) (pa n : Nat) : Bool := s.paOk pa && s.paOk (pa + n - 1)

/-- The die and the unit of a place of a vault or of HBM: a vault by its number in the package, or a pseudo-channel of the die (R282, R306). Log 56 (DESIGN CHOICE). -/
def State.errUnit (s : State) (loc : Nat) : Option (Nat × Nat) :=
  if isHbm loc then
    let d := loc / 2 ^ 38
    let live := (List.range 288).filter fun i => !(s.die d).retiredSlices.contains i
    if s.paOk loc then some (d, 2 * live.getD (loc % 2 ^ 38 / 1024 % live.length) 0 + loc / 512 % 2) else none
  else if 2 ^ 45 ≤ loc ∧ loc < vaultLoc 20 0 0 then some ((loc - 2 ^ 45) / 2 ^ 24 / 60, (loc - 2 ^ 45) / 2 ^ 24)
  else none

/-- The core whose scratchpad holds a place. -/
def coreOfLoc (loc : Nat) : Option Nat :=
  if 2 ^ 44 ≤ loc ∧ loc < scratchLoc 960 0 then some ((loc - 2 ^ 44) / 2 ^ 21) else none

/-- An error met in the word that holds a place is logged: by the core for its scratchpad (R173), by the die for a vault or HBM (R306). -/
def State.logError (s : State) (loc : Nat) (bad : Bool) : State :=
  match s.errUnit loc with
  | some (d, unit) => s.onDie d fun x => { x with errlog := x.errlog ++ [⟨unit, loc / 8 * 8, bad⟩] }
  | none => match coreOfLoc loc with
    | some c => s.onCore c fun k => { k with errors := k.errors + 1 }
    | none => s

/-- A write meets the poisoned words it replaces in part: it is a read-modify-write there, and each is logged (R174). -/
def State.notePartial (s : State) (loc n : Nat) : State :=
  (List.range ((loc + n - 1) / 8 - loc / 8 + 1)).foldl (fun (a : State) i =>
    let w := loc / 8 + i
    if a.poison.get false w && !decide (loc ≤ 8 * w ∧ 8 * w + 8 ≤ loc + n) then a.logError (8 * w) true else a) s

/-- The poison marks after a write: an aligned 8-byte word written whole becomes clean, any other word keeps its mark (R173, R174). -/
def State.cleanWhole (s : State) (loc n : Nat) : State :=
  { s with poison := (List.range (n / 8)).foldl (fun m i => if loc % 8 = 0 then m.set false (loc / 8 + i) false else m) s.poison }

/-- Puts bytes into memory with their key, with no place in home order: what a scrub, a restore or the device's own structures do. -/
def State.poke (s : State) (key loc : Nat) (bs : List Byte) : State :=
  { s with
    mem := SMap.setList memDefault s.mem loc bs
    keyRuns := if isHbm loc && (List.range bs.length).any (fun i => decide (s.keyAt (loc + i) ≠ key))
      then (loc, bs.length, key) :: s.keyRuns else s.keyRuns }

/-- A write performed at its home: it takes its place in the home order (R268), under a number of its own or, as the second part of a block segment, under that of the write just made (R278). -/
def State.writeHome (s : State) (key loc n v unit : Nat) (rels : List Nat) (by_ : Option Nat) (join : Bool) : State :=
  let w : WriteRec := ⟨if join then s.nextW - 1 else s.nextW, loc, n, v % 256 ^ n, s.peek loc n, unit, rels, by_⟩
  let s1 := ((s.poke key loc (bytesOfNat n v)).cleanWhole loc n).notePartial loc n
  { s1 with hist := w :: s.hist, nextW := if join then s.nextW else s.nextW + 1 }

/-- A write of one location, made by no strand's store. -/
def State.homeWrite (s : State) (key loc n v : Nat) (rel : Option Nat) : State := s.writeHome key loc n v n rel.toList none false

/-! What a load may return (R268). -/

def overlaps (loc n loc' n' : Nat) : Bool := decide (loc < loc' + n' ∧ loc' < loc + n)

/-- Whether a write reaches a place. -/
def WriteRec.covers (w : WriteRec) (a : Nat) : Bool := decide (w.loc ≤ a ∧ a < w.loc + w.n)

/-- Which of its locations a write reaches a place with (R263). -/
def WriteRec.unitAt (w : WriteRec) (a : Nat) : Nat := (a - w.loc) / w.unit

/-- A byte that a load is to return: its place, what stands there at a point of the home order, and the byte chosen, once there is one. -/
structure LoadByte where
  addr : Nat
  cur : Byte
  got : Option Byte
deriving DecidableEq, Repr

/-- A byte's choice falls on what stands there. -/
def LoadByte.take (x : LoadByte) : LoadByte := { x with got := some (x.got.getD x.cur) }

/-- A byte as it stood before a write. -/
def LoadByte.before (w : WriteRec) (x : LoadByte) : LoadByte :=
  if w.covers x.addr then { x with cur := BitVec.ofNat 8 (w.prev / 256 ^ (x.addr - w.loc)) } else x

/-- Whether a write is one of those a byte may still come from. -/
def LoadByte.meets (w : WriteRec) (x : LoadByte) : Bool := x.got.isNone && w.covers x.addr

/-- Whether a write happens before a strand's loads: one it has acquired or made, or one from before its job started. -/
def knownTo (w0 hb : Nat) (w : WriteRec) : Bool := decide (w.idx < w0) || hb.testBit w.idx

/-- The choice of a load among the members of C (R263, R268), from the last write in home order back: each location of a racing write is taken whole or passed over whole, for all the bytes it still meets; a write the reader knows settles its bytes; what no write settles is what stood there before. Both parts of a block segment's write share one choice (`last`). Answers the bytes, the releases observed, and the free counter after it. Log 8 (DESIGN CHOICE). -/
def phaseWalk (known : WriteRec → Bool) : List WriteRec → (last : Option (Nat × Bool)) → (free : Nat) → List LoadByte → List Byte × List Nat × Nat
  | [], _, free, xs => (xs.map (·.take.cur), [], free)
  | w :: ws, last, free, xs =>
    if !xs.any (LoadByte.meets w) then phaseWalk known ws last free xs
    else if known w then
      let (b, r, f) := phaseWalk known ws last free (xs.map fun x => if x.meets w then x.take else x)
      (b, w.rels ++ r, f)
    else
      let units := ((xs.filter (LoadByte.meets w)).map fun x => w.unitAt x.addr).eraseDups
      let joined := last.filter fun l => decide (l.1 = w.idx)
      let yes (u : Nat) : Bool := match joined with
        | some l => l.2
        | none => decide (Config.freeChoice (free + units.idxOf u) % 2 = 0)
      let (b, r, f) := phaseWalk known ws (some (w.idx, yes (units.headD 0))) (if joined.isSome then free else free + units.length)
        (xs.map fun x => if x.meets w && yes (w.unitAt x.addr) then x.take else x.before w)
      (b, (if units.any yes then w.rels else []) ++ r, f)

/-- A byte as home order has it last: without the writes made in live Sable regions, which have no place there yet (R240, R272). -/
def State.publicByte (s : State) (a : Nat) : Byte :=
  s.sable.foldl (fun b w => if w.covers a then BitVec.ofNat 8 (w.prev / 256 ^ (a - w.loc)) else b) (s.mem.get memDefault a)

/-- A load of places from home order. Log 8 (DESIGN CHOICE). -/
def State.phaseLoad (s : State) (known : WriteRec → Bool) (places : List Nat) : List Byte × List Nat × Nat :=
  phaseWalk known s.hist none s.free (places.map fun a => ⟨a, s.publicByte a, none⟩)

/-- The bytes of a range with a strand's pending stores laid over them (R268, own view). -/
def overlayPend (loc : Nat) (bs : List Byte) : List Pend → List Byte
  | [] => bs
  | p :: ps =>
    overlayPend loc (bs.zipIdx.map (fun q =>
      let a := loc + q.2
      if p.loc ≤ a ∧ a < p.loc + p.n then BitVec.ofNat 8 (p.val / 256 ^ (a - p.loc)) else q.1)) ps

/-- The write number at the start of the current strand's job (R268). -/
def State.jobStart (s : State) (id : BitVec 32) : Nat :=
  match s.job? id with
  | some j => j.w0
  | none => 0

/-- A load of the current strand of places of this package, as one location: the bytes before its own pending stores (R268). -/
def State.loadPlaces (s : State) (places : List Nat) : List Byte × State :=
  let (bs, rs, f) := s.phaseLoad (knownTo (s.jobStart s.cur.job) s.cur.hb) places
  (bs, { s with free := f, cur := { s.cur with obs := rs ++ s.cur.obs } })

/-- Bytes loaded from a place, under a key, with the strand's own pending stores over them (R268, R397). -/
def State.ownView (s : State) (key loc : Nat) (bs : List Byte) : Nat := natOfBytes (overlayPend loc (s.decrypt key loc bs) s.cur.pend)

/-- The places of a range. -/
def placesOf (loc n : Nat) : List Nat := (List.range n).map (loc + ·)

/-- A load of the current strand from a place of this package, under a key (R268, R397). Log 8 (DESIGN CHOICE). -/
def State.loadHere (s : State) (key loc n : Nat) : Nat × State :=
  let (bs, s1) := s.loadPlaces (placesOf loc n)
  (s.ownView key loc bs, s1)

/-- A load of the current strand, byte by byte: what a location of one byte each returns (R274). -/
def State.loadBytes (s : State) (key : Nat) : (n loc : Nat) → Nat × State
  | 0, _ => (0, s)
  | n + 1, loc =>
    let (v, s1) := s.loadHere key loc 1
    let (r, s2) := s1.loadBytes key n (loc + 1)
    (v + 256 * r, s2)

/-- A load of the current strand of a block segment: its elements and its scales are one location (R274, R278). Log 8 (DESIGN CHOICE). -/
def State.loadSeg (s : State) (key el en sl sn : Nat) : Nat × Nat × State :=
  let (bs, s1) := s.loadPlaces (placesOf el en ++ placesOf sl sn)
  (s.ownView key el (bs.take en), s.ownView key sl (bs.drop en), s1)

/-! Releases and acquires (R265 to R267). -/

/-- Whether a release pairs with an acquire of strand `sid` at scope `sa` (R267); the host lies within sys and fab alone (R275). Log 20 (DEDUCED). -/
def pairs (r : RelRec) (sa : Scope) (sid : BitVec 32) : Bool :=
  if r.host then decide (sa = .sys ∨ sa = .fab)
  else sameUnit r.scope r.by_ sid && sameUnit sa sid r.by_

/-- What a strand acquires from a list of releases at a scope: the writes that happen before the acquire. Log 20 (DEDUCED). -/
def State.acquired (s : State) (sid : BitVec 32) (sa : Scope) (rs : List Nat) (hb : Nat) : Nat :=
  (s.rels.filter (fun r => rs.contains r.id && pairs r sa sid)).foldl (fun m r => m ||| r.writes) hb

/-- What happens before the events a strand has performed: what its loads are sure of, and what single elements have acquired past a watermark, which the strand's next acquire and its releases take in (R266, R267). -/
def Strand.past (t : Strand) : Nat := t.hb ||| t.soon

/-- An acquire event of the current strand (R266): through the releases given and through those whose values it has observed. Log 20 (DEDUCED). -/
def State.acquire (s : State) (sa : Scope) (rs : List Nat) : State :=
  { s with cur := { s.cur with hb := s.acquired s.cur.sid sa (rs ++ s.cur.obs) s.cur.past, obs := [], soon := 0 } }

/-- Records a release event of a strand that has published its stores: its number, for the objects it is made through. Log 62 (DESIGN CHOICE). -/
def State.recordRelease (s : State) (sid : BitVec 32) (scope : Scope) (writes : Nat) : Nat × State :=
  (s.nextRel, { s with rels := ⟨s.nextRel, sid, false, scope, writes⟩ :: s.rels, nextRel := s.nextRel + 1 })

/-- The scope of a recorded release. -/
def State.relScope (s : State) (r : Nat) : Option Scope := (s.rels.find? fun x => decide (x.id = r)).map (·.scope)

/-- A release publishes the stores of its strand that narrower releases have published before it: they are its as well (R264). -/
def State.widen (s : State) (uid rel : Nat) (scope : Scope) : State :=
  let wider (w : WriteRec) : WriteRec :=
    if w.by_ = some uid ∧ w.rels.all (fun r => ((s.relScope r).map Scope.code).getD 7 < scope.code) then { w with rels := rel :: w.rels } else w
  { s with hist := s.hist.map wider, far := s.far.map wider }

/-- The releases whose values a place holds last: those that published the last write to each of its bytes (R267). -/
def State.lastRel (s : State) (loc n : Nat) : List Nat :=
  ((List.range n).flatMap fun i => ((s.hist.find? fun w => w.covers (loc + i)).map (·.rels)).getD []).eraseDups

/-- A write has been sent to the host's or a peer's memory (R264). -/
def State.noteFar (s : State) (loc n v : Nat) (rels : List Nat) (by_ : Option Nat) : State :=
  { s with far := ⟨0, loc, n, v % 256 ^ n, 0, n, rels, by_⟩ :: s.far }

/-- Whether bytes read at a place are those that a write sent there has left (R267). -/
def WriteRec.gave (w : WriteRec) (loc : Nat) (bs : List Byte) : Bool :=
  bs.zipIdx.any (fun x => w.covers (loc + x.2)) &&
  bs.zipIdx.all fun x => !w.covers (loc + x.2) || decide (x.1 = BitVec.ofNat 8 (w.val / 256 ^ (loc + x.2 - w.loc)))

/-- The releases whose values bytes read in the host's or a peer's memory are: those of the writes sent there that the bytes agree with (R267). Log 24 (DESIGN CHOICE). -/
def State.farRels (s : State) (loc : Nat) (bs : List Byte) : List Nat :=
  ((s.far.filter fun w => w.gave loc bs).flatMap (·.rels)).eraseDups

/-- The current strand has read bytes in the host's or a peer's memory: it observes the releases whose values they are (R267). -/
def State.heardFar (s : State) (loc : Nat) (bs : List Byte) : State :=
  { s with cur := { s.cur with obs := s.farRels loc bs ++ s.cur.obs } }

/-- The host's first k releases, as a party of the device observes them in what the host wrote after them (R275). -/
def State.hostRels (s : State) (k : Nat) : List Nat :=
  if k = 0 then [] else (((s.rels.filter (·.host)).reverse[k - 1]?).map (·.id)).toList

/-- The smallest scope that holds a strand and a place (R212). -/
def scopeOfLoc (sid : BitVec 32) (loc : Nat) : Scope :=
  if isHostLoc loc then .sys
  else if isPeerLoc loc then .fab
  else if 2 ^ 45 ≤ loc then
    let v := (loc - 2 ^ 45) / 2 ^ 24
    if v / 12 = clusterOf sid then (if v % 12 = sidCore sid / 4 then .quad else .cluster)
    else if v / 60 = sidDie sid then .die else .pkg
  else if 2 ^ 44 ≤ loc then
    let c := (loc - 2 ^ 44) / 2 ^ 21
    if c = coreOf sid then .core
    else if c / 4 = coreOf sid / 4 then .quad
    else if c / 48 = clusterOf sid then .cluster
    else if c / 240 = sidDie sid then .die else .pkg
  else if loc / 2 ^ 38 = sidDie sid then .die else .pkg

end Sys2Proof.Machine
end

