-- ==== Sys2Proof/Machine/Translate.lean ====
section
/-! DEFINITION. From an address to a place (R94, R209, R232, R240, R279, R280, R289 to R297): near windows, the partition, the page tree, first touch, Sable regions. -/

namespace Sys2Proof.Machine

/-- A check that failed: the fault code, whether the walk met a malformed table (record flag bit 2), and whether it found a 512 MiB leaf (R300). -/
structure Fail where
  code : FaultCode
  malformed : Bool
  big : Bool
deriving DecidableEq, Repr

def fail (c : FaultCode) : Fail := ⟨c, false, false⟩

/-- What an access needs of a leaf (R293): permissions, and the page kinds another rule forbids it. -/
structure Need where
  r : Bool
  w : Bool
  x : Bool
  localOnly : Bool
  noHost : Bool
  noPeer : Bool
  /-- an access to formatted blocks, for which a reserved geometry is a protection fault (R114, R158) -/
  fmt : Bool
deriving DecidableEq, Repr

def needOf : AccKind → Need
  | .fetch => ⟨false, false, true, true, false, false, false⟩
  | .load | .copySrc | .vecLoad => ⟨true, false, false, false, false, false, false⟩
  | .store | .copyDst | .vecStore => ⟨false, true, false, false, false, false, false⟩
  | .atomic | .vamo => ⟨true, true, false, false, false, false, false⟩
  | .matrixLoad => ⟨true, false, false, true, false, false, false⟩
  | .matrixStore => ⟨false, true, false, true, false, false, false⟩
  | .format => ⟨true, false, false, true, false, false, true⟩

/-! Page table entries (R290, R291). -/

def eV (e : Word) : Bool := e.getLsbD 0
def eR (e : Word) : Bool := e.getLsbD 1
def eW (e : Word) : Bool := e.getLsbD 2
def eX (e : Word) : Bool := e.getLsbD 3
def eRWX (e : Word) : Nat := e.toNat / 2 % 8
def eZ (e : Word) : Bool := e.getLsbD 6
def eH (e : Word) : Bool := e.getLsbD 7
def eKind (e : Word) : Nat := e.toNat / 2 ^ 8 % 4
def eFmt (e : Word) : Nat := e.toNat / 2 ^ 10 % 16
def eGeom (e : Word) : Nat := e.toNat / 2 ^ 14 % 4
def eFrame (e : Word) : Nat := e.toNat / 2 ^ 18 % 2 ^ 34
def eKey (e : Word) : Nat := e.toNat / 2 ^ 52

/-- Whether a leaf's fields other than its frame and geometry are well formed (R291, R292). -/
def leafFields (e : Word) : Bool := decide (e.toNat / 2 ^ 16 % 4 = 0) && decide (eFmt e ≤ 5)

/-- Whether a leaf is well formed but for its geometry: all its bytes in the die's capacity, where it is local (R292). -/
def State.leafShape (s : State) (e : Word) (big : Bool) : Bool :=
  leafFields e && (!big || decide (eFrame e % 2 ^ 11 = 0)) &&
  (decide (eKind e ≠ 0) || s.paFits (eFrame e * 2 ^ 18) (if big then 2 ^ 29 else 2 ^ 18))

/-- What a walk finds (R292): a valid leaf or a first-touch entry with its address, a leaf well formed but for a reserved geometry, nothing, or a malformed table. -/
inductive Walk
  | leaf (at_ : Nat) (e : Word) (big : Bool)
  | touch (at_ : Nat) (e : Word)
  | badGeom (e : Word) (big : Bool)
  | absent
  | malformed
  | ecc
deriving DecidableEq, Repr

/-- An entry of the page tree, read at its home under key 0. -/
def State.entryAt (s : State) (node idx : Nat) : Word := BitVec.ofNat 64 (s.peekKey 0 (node + 8 * idx) 8)

/-- What a walk makes of a leaf. -/
def State.leafWalk (s : State) (at_ : Nat) (e : Word) (big : Bool) : Walk :=
  if !s.leafShape e big then .malformed
  else if eGeom e ≤ 1 then .leaf at_ e big
  else .badGeom e big

/-- The part of an address that selects the entry of a node with some levels still below it (R289). -/
def walkIdx (va : Nat) : (left : Nat) → Nat
  | 3 => va / 2 ^ 51 % 32
  | 2 => va / 2 ^ 40 % 2 ^ 11
  | 1 => va / 2 ^ 29 % 2 ^ 11
  | _ => va / 2 ^ 18 % 2 ^ 11

/-- The node a pointer entry leads to, where it is well formed: 16 KiB of local HBM (R290, R292). -/
def State.nextNode (s : State) (e : Word) : Option Nat :=
  let next := e.toNat / 2 ^ 14 % 2 ^ 38 * 2 ^ 14
  if e.toNat / 2 ^ 52 = 0 ∧ e.toNat / 2 ^ 4 % 2 ^ 10 = 0 ∧ s.paFits next (2 ^ 14) then some next else none

/-- The walk from a node at a level: 0 to 3 levels still below it (R289 to R292). Log 59 (DEDUCED). -/
def State.walkFrom (s : State) (va : Nat) : (left node : Nat) → Walk
  | left, node =>
    let idx := walkIdx va left
    let at_ := node + 8 * idx
    let e := s.entryAt node idx
    if s.poisoned at_ 8 then .ecc
    else if !eV e then
      (match left with
       | 0 => if !eZ e then .absent else if leafFields e && decide (eGeom e ≤ 1) then .touch at_ e else .malformed
       | _ => .absent)
    else match left with
      | 0 => if eRWX e = 0 then .malformed else s.leafWalk at_ e false
      | l + 1 =>
        if eRWX e = 0 then
          match s.nextNode e with
          | some next => s.walkFrom va l next
          | none => .malformed
        else if l = 0 then s.leafWalk at_ e true
        else .malformed

/-- The part of an address above what a node with some levels below it resolves. -/
def walkPart (va left : Nat) : Nat := va / 2 ^ (29 + 11 * left)

/-- The deepest pointer of a die's walk cache on the way to an address (R295). -/
def State.walkFind (s : State) (die root va : Nat) : Option WalkPtr :=
  [0, 1, 2].findSome? fun left => (s.die die).walks.find? fun p => decide (p.root = root ∧ p.left = left ∧ p.part = walkPart va left)

/-- The walk of a page tree by a die's walkers: from the deepest pointer their cache holds, else from the root (R289, R295). Log 12 (DESIGN CHOICE). -/
def State.walk (s : State) (die root va : Nat) : Walk :=
  match s.walkFind die root va with
  | some p => s.walkFrom va p.left p.node
  | none => s.walkFrom va 3 root

/-- The pointers a walk from a node follows. -/
def State.walkPath (s : State) (root va : Nat) : (left node : Nat) → List WalkPtr
  | 0, _ => []
  | l + 1, node =>
    let e := s.entryAt node (walkIdx va (l + 1))
    match (if eV e && decide (eRWX e = 0) then s.nextNode e else none) with
    | some next => ⟨root, l, walkPart va l, next⟩ :: s.walkPath root va l next
    | none => []

/-- A walk that ends in a translation leaves its pointers in the walk cache of 512 (R295). Log 12 (DESIGN CHOICE). -/
def State.walkAdd (s : State) (die root va : Nat) : State :=
  let path := match s.walkFind die root va with
    | some p => s.walkPath root va p.left p.node
    | none => s.walkPath root va 3 root
  if path = [] then s
  else s.onDie die fun d => { d with walks := (path.reverse ++ d.walks.filter fun p => !path.any fun q => decide (p.root = q.root ∧ p.left = q.left ∧ p.part = q.part)).take 512 }

/-- The checks of R293 on a leaf, for a job's tenant key. -/
def State.leafCheck (s : State) (n : Need) (key : Nat) (e : Word) (big : Bool) : Option Fail :=
  let f (c : FaultCode) : Option Fail := some ⟨c, false, big⟩
  if (n.r && !eR e) || (n.w && !eW e) || (n.x && !eX e) then f .pageProtection
  else if eKind e = 3 || (n.localOnly && decide (eKind e ≠ 0)) || (n.noHost && decide (eKind e = 2)) ||
      (n.noPeer && decide (eKind e = 1)) then f .kindForbidden
  else if eKind e = 0 ∧ eKey e ≠ key then f .pageProtection
  else if eKind e ≠ 1 ∧ (s.pkg.keys.get ⟨false, false, 0⟩ (eKey e)).revoked then f .keyRevoked
  else none

/-- The place an address has through a leaf (R291). -/
def leafLoc (e : Word) (big : Bool) (va : Nat) : Nat :=
  let off := if big then va % 2 ^ 29 else va % 2 ^ 18
  let fr := eFrame e
  match eKind e with
  | 1 => peerLoc (fr / 2 ^ 24 % 2 ^ 10) (fr % 2 ^ 24 * 2 ^ 18 + off)
  | 2 => hostLoc (fr * 2 ^ 18 + off)
  | _ => fr * 2 ^ 18 + off

/-- The page a TLB entry is tagged with. -/
def pageOf (big : Bool) (va : Nat) : Nat := if big then va / 2 ^ 29 else va / 2 ^ 18

/-- A translation cached where a core finds it, its own first-level TLB before its cluster's, that serves the access: for a write one cached with D (R294, R295). Log 12 (DESIGN CHOICE). -/
def State.tlbFind (s : State) (cl : Nat) (core : Option Nat) (root va : Nat) (write : Bool) : Option TlbEntry :=
  let f (c : Option Nat) := s.tlb.find? fun t =>
    decide (t.cluster = cl ∧ t.core = c ∧ t.root = root ∧ t.page = pageOf t.big va) && (!write || t.dirty)
  if core.isSome then (f core).or (f none) else f none

/-- Caches a translation in one TLB, of 128 entries in a core and 4,096 in a cluster, dropping the oldest past that (R295). Log 12 (DESIGN CHOICE). -/
def State.tlbPut (s : State) (t : TlbEntry) : State :=
  let same (u : TlbEntry) : Bool := decide (u.cluster = t.cluster ∧ u.core = t.core)
  let others := s.tlb.filter (fun u => !(same u && decide (u.root = t.root ∧ u.page = t.page ∧ u.big = t.big)))
  let drop := (others.filter same).drop (if t.core.isSome then 127 else 4095)
  { s with tlb := t :: others.filter (fun u => !drop.contains u) }

/-- Caches a translation for a core and its cluster (R295). -/
def State.tlbAdd (s : State) (t : TlbEntry) : State :=
  let s1 := s.tlbPut { t with core := none }
  if t.core.isSome then s1.tlbPut t else s1

/-- The walker sets A, and D before a write, with an indivisible OR at the entry's home (R294). -/
def State.setAD (s : State) (at_ : Nat) (e : Word) (write : Bool) : Word × State :=
  let e' := e ||| 0x10#64 ||| (if write then 0x20#64 else 0)
  (e', if e' = e then s else s.homeWrite 0 at_ 8 e'.toNat none)

/-- Zeroes a frame under a key: it has no history (R296). Log 21 (DESIGN CHOICE). -/
def State.zeroRange (s : State) (key f n : Nat) : State :=
  { s with
    mem := s.mem.filter (fun p => !decide (f ≤ p.1 ∧ p.1 < f + n))
    poison := s.poison.filter (fun p => !decide (f ≤ 8 * p.1 ∧ 8 * p.1 < f + n))
    hist := s.hist.filter (fun w => !decide (f ≤ w.loc ∧ w.loc < f + n))
    keyRuns := (f, n, key) :: s.keyRuns }

/-- Zeroes a frame of 256 KiB (R296). -/
def State.zeroFrame (s : State) (key f : Nat) : State := s.zeroRange key f (2 ^ 18)

/-- First touch (R296): takes a frame of the walking die's pool, zeroes it and installs it. The read, the fill and the CAS are one step here, so the CAS never fails. Log 21 (DESIGN CHOICE). -/
def State.firstTouch (s : State) (die at_ : Nat) (e : Word) (write : Bool) : Option (Word × State) :=
  match (s.die die).pool with
  | [] => none
  | f :: pool =>
    let s1 := s.onDie die fun d => { d with pool := pool, poolLow := d.poolLow || decide (pool.length < 1024) }
    let s2 := s1.zeroFrame (eKey e) f
    let base := (e &&& ~~~(0x000FFFFFFFFC0060#64))
    let e' := base ||| BitVec.ofNat 64 (f / 2 ^ 18 * 2 ^ 18) ||| 0x11#64 ||| (if write then 0x20#64 else 0)
    some (e', s2.homeWrite 0 at_ 8 e'.toNat none)

/-- Where an address leads: the place, the leaf for a translated address (none for a near one), whether it is a load of a void slot, whether it lies in a live Sable region, and whether its leaf maps 512 MiB. -/
structure Hit where
  loc : Nat
  leaf : Option Word
  void : Bool
  sable : Bool
  big : Bool
deriving DecidableEq, Repr

/-- A check that fails once the leaf is found: its record is of the leaf's page (R300). -/
def Hit.fail (h : Hit) (c : FaultCode) : Fail := ⟨c, false, h.big⟩

/-- The key an access through a hit uses: the leaf's (R397). -/
def Hit.key (h : Hit) : Nat := match h.leaf with
  | some e => eKey e
  | none => 0

/-- The translation of a global address for a job, by the TLBs of a core (none: a unit of the cluster beside its cores) and its cluster, and its die's walkers (R289 to R297). Log 12 (DESIGN CHOICE), 31 (DEDUCED). -/
def State.translate (s : State) (cl : Nat) (core : Option Nat) (root key : Nat) (n : Need) (va : Nat) : State × Except Fail Hit :=
  match s.tlbFind cl core root va n.w with
  | some t =>
    (match s.leafCheck n key t.leaf t.big with
     | some f => (s, .error f)
     | none => (if t.core = core then s else s.tlbPut { t with core := core }, .ok ⟨leafLoc t.leaf t.big va, some t.leaf, false, false, t.big⟩))
  | none =>
    match s.walk (cl / 5) root va with
    | .absent => (s, .error (fail .pageNotPresent))
    | .malformed => (s, .error ⟨.pageNotPresent, true, false⟩)
    | .badGeom e big =>
      (s, .error (if n.fmt then (s.leafCheck n key e big).getD ⟨.pageProtection, false, big⟩ else ⟨.pageNotPresent, true, false⟩))
    | .ecc => (s, .error (fail .uncorrectableEcc))
    | .leaf at_ e big =>
      (match s.leafCheck n key e big with
       | some f => (s, .error f)
       | none =>
         let (e', s1) := s.setAD at_ e n.w
         ((s1.walkAdd (cl / 5) root va).tlbAdd ⟨cl, core, root, pageOf big va, big, e', n.w⟩, .ok ⟨leafLoc e' big va, some e', false, false, big⟩))
    | .touch at_ e =>
      if eKind e ≠ 0 then (s, .error ⟨.pageNotPresent, true, false⟩)
      else
        match s.leafCheck n key e false with
        | some f => (s, .error f)
        | none =>
          match s.firstTouch (cl / 5) at_ e n.w with
          | none => (s, .error (fail .firstTouchPoolEmpty))
          | some (e', s1) =>
            ((s1.walkAdd (cl / 5) root va).tlbAdd ⟨cl, core, root, va / 2 ^ 18, false, e', n.w⟩, .ok ⟨leafLoc e' false va, some e', false, false, false⟩)

/-! Near addresses (R209, R279, R280) and ring windows (R232). -/

/-- Whether a core is bound to a job (R280, R326). -/
def State.coreHas (s : State) (core : Nat) (job : BitVec 32) : Bool :=
  decide ((s.core core).lease.job = some job)

/-- Whether a near place lies in a job's partition (R280): the scratchpads of its cores and their vault shares. -/
def State.inPartition (s : State) (job : BitVec 32) (loc : Nat) : Bool :=
  if loc < 2 ^ 45 then s.coreHas ((loc - 2 ^ 44) / 2 ^ 21) job
  else
    let v := (loc - 2 ^ 45) / 2 ^ 24
    let k := (loc - 2 ^ 45) % 2 ^ 24 / 2 ^ 22
    s.coreHas (v / 12 * 48 + v % 12 * 4 + k) job

/-- The place a window address names, ring windows apart; none when it is outside every window (R279). -/
def windowLoc (sid : BitVec 32) (va : Word) : Option Nat :=
  let top := va.toNat / 2 ^ 56
  let off := va.toNat % 2 ^ 56
  let cl := clusterOf sid
  match top with
  | 0xF0 => if off < 2 ^ 21 then some (scratchLoc (coreOf sid) off) else none
  | 0xF1 => if off < 48 * 2 ^ 21 then some (scratchLoc (cl * 48 + off / 2 ^ 21) (off % 2 ^ 21)) else none
  | 0xF2 => if off < 12 * 2 ^ 24 then some (vaultLoc cl (off / 2 ^ 24) (off % 2 ^ 24)) else none
  | 0xF3 => if off < 60 * 2 ^ 24 then some (vaultLoc (sidDie sid * 5) (off / 2 ^ 24) (off % 2 ^ 24)) else none
  | _ => none

def isNear (va : Word) : Bool := decide (0xF000000000000000 ≤ va.toNat)
def isUnused (va : Word) : Bool := decide (0x0100000000000000 ≤ va.toNat ∧ va.toNat < 0xF000000000000000)
def isRingWin (va : Word) : Bool := decide (va.toNat / 2 ^ 56 = 0xF4)

/-- The ring with an identity. -/
def State.ring? (s : State) (id : Nat) : Option Ring := s.rings.find? (fun r => decide (r.base = id))
def State.onRing (s : State) (id : Nat) (f : Ring → Ring) : State :=
  { s with rings := s.rings.map (fun r => if r.base = id then f r else r) }

/-- The physical slot window slot j maps to (R232). -/
def Ring.slotAt (r : Ring) (j : Nat) : Nat := (r.stage + j) % r.depth
def Ring.slotState (r : Ring) (p : Nat) : SlotSt := r.slots.getD p .free
def Ring.setSlot (r : Ring) (p : Nat) (v : SlotSt) : Ring := { r with slots := r.slots.set p v }

/-- An access through a ring window (R232): the place and whether it loads a void slot, or the fault. -/
def State.ringAccess (s : State) (t : Strand) (va : Word) (n : Nat) (write : Bool) : Except FaultCode (Nat × Bool) :=
  let off := va.toNat % 2 ^ 56
  if off ≥ 4 * 2 ^ 18 then .error .nearBounds
  else
    match t.getG (BitVec.ofNat 5 (off / 2 ^ 18)) with
    | none => .error .nearBounds
    | some g =>
      match s.ring? g.ring with
      | none => .error .nearBounds
      | some r =>
        let o := off % 2 ^ 18
        let j := o / r.ssize
        let inSlot := o % r.ssize
        if r.ssize = 0 ∨ j ≥ r.depth ∨ inSlot + n > r.ssize then .error .nearBounds
        else
          let p := r.slotAt j
          let loc := r.base + p * r.ssize + inSlot
          if g.claim = some p ∧ j = r.lead then .ok (loc, false)
          else if g.take = some p ∧ j = 0 ∧ !write then
            (if r.slotState p = .voidTaken then (if r.voidFault then .error .ringVoid else .ok (loc, true))
             else .ok (loc, false))
          else .error .nearBounds

/-! Sable regions (R239 to R241). -/

def hCluster (h : BitVec 32) : Nat := h.toNat / 2 ^ 29
def hEntry (h : BitVec 32) : Nat := h.toNat / 2 ^ 19 % 2 ^ 10
def hGen (h : BitVec 32) : BitVec 16 := (h.extractLsb' 3 16)
def hHalf (h : BitVec 32) : Nat := h.toNat / 4 % 2
def mkHandle (cl entry : Nat) (gen : BitVec 16) (half : Nat) : BitVec 32 :=
  BitVec.ofNat 32 (cl * 2 ^ 29 + entry * 2 ^ 19 + gen.toNat * 8 + half * 4)

def LinEntry.gen (e : LinEntry) (half : Nat) : BitVec 16 := if half = 0 then e.gen0 else e.gen1

/-- A lineage entry of a cluster of a die. -/
def State.lin (s : State) (cl entry : Nat) : LinEntry := (s.cluster cl).lineage.get LinEntry.zero entry
def State.setLin (s : State) (cl entry : Nat) (e : LinEntry) : State :=
  s.onCluster cl fun c => { c with lineage := c.lineage.set LinEntry.zero entry e }

/-- The lineage entry a handle of a strand names: the table is that of the handle's cluster on the strand's die. -/
def State.linOf (s : State) (die : Nat) (h : BitVec 32) : LinEntry := s.lin (die * 5 + hCluster h) (hEntry h)

/-- A live handle (R241). -/
def State.handleLive (s : State) (die : Nat) (h : BitVec 32) : Bool :=
  let e := s.linOf die h
  e.used && decide (e.gen (hHalf h) = hGen h)

/-- A half of an entry: its tile, the runs of the root's region, and the half-open index ranges [lo, hi), outermost first. -/
structure Half where
  tile : TileDesc
  pages : List (Word × Nat × Nat)
  ranges : List (Nat × Nat)
deriving DecidableEq, Repr

/-- The half an entry describes; none for a broken lineage. `fuel` bounds the depth (R241, R244). -/
def State.halfRange (s : State) (cl : Nat) : (fuel entry half : Nat) → Option Half
  | 0, _, _ => none
  | fuel + 1, entry, half =>
    let e := s.lin cl entry
    match e.origin with
    | .root => e.tile.map (fun t => ⟨t, e.pages, t.ext.map (fun x => (0, x))⟩)
    | .split pe ph axis off =>
      match s.halfRange cl fuel pe ph with
      | none => none
      | some x =>
        let r := x.ranges.getD axis (0, 0)
        let cut := r.1 + off
        some { x with ranges := x.ranges.set axis (if half = 0 then (r.1, cut) else (cut, r.2)) }

/-- The half a handle names. -/
def State.handleRange (s : State) (die : Nat) (h : BitVec 32) : Option Half :=
  s.halfRange (die * 5 + hCluster h) 8 (hEntry h) (hHalf h)

/-- Element size in bytes of a tile type. -/
def tileEsize (t : TileDesc) : Nat := match t.ty with
  | .i8 | .z8 | .e4m3 | .e5m2 | .e8m0 => 1
  | .i16 | .z16 | .bf16 | .f16 => 2
  | .i64 | .z64 => 8
  | _ => 4

/-- The strides of every dimension of a tile, the innermost being the element size. -/
def tileStrides (t : TileDesc) : List Nat := t.str ++ [tileEsize t]

/-- Whether an offset from the base is a byte of an element with every index in its range; strides nest, so each index is a quotient (R239). -/
def coversOff : List (Nat × Nat) → List Nat → Nat → Nat → Bool
  | [], _, es, off => decide (off < es)
  | r :: rs, st :: sts, es, off =>
    let i := if st = 0 then 0 else off / st
    decide (r.1 ≤ i ∧ i < r.2) && coversOff rs sts es (off - i * st)
  | _ :: _, [], _, _ => false

/-- The live roots of every lineage table of the package: cluster, entry number and entry. -/
def State.roots (s : State) : List (Nat × Nat × LinEntry) :=
  s.clusters.flatMap fun c =>
    (c.2.lineage.filter fun p => p.2.used && decide (p.2.origin = .root)).map fun p => (c.1, p.1, p.2)

/-- A canonical address for comparing near addresses that name one memory through several windows: the place for a near address. -/
def canonVa (sid : BitVec 32) (va : Word) : Nat :=
  match windowLoc sid va with
  | some loc => 2 ^ 100 + loc
  | none => va.toNat

/-- The address the byte at a place has in a list of runs. -/
def vaIn (pages : List (Word × Nat × Nat)) (loc : Nat) : Option Word :=
  (pages.find? fun r => decide (r.2.1 ≤ loc ∧ loc < r.2.1 + r.2.2)).map fun r => r.1 + BitVec.ofNat 64 (loc - r.2.1)

/-- Whether the byte at a place lies in a root's region, by whatever address, job or die it is reached (R240, R243). Log 40 (DEDUCED). -/
def rootCovers (e : LinEntry) (loc : Nat) : Bool := (vaIn e.pages loc).isSome

/-- Whether a half covers the byte at a place (R240). -/
def Half.covers (x : Half) (loc : Nat) : Bool :=
  match vaIn x.pages loc with
  | some va => coversOff x.ranges (tileStrides x.tile) (tileEsize x.tile) (va - x.tile.base).toNat
  | none => false

/-- Whether a handle of a strand covers a byte: through its entry, where that is in use (R240). -/
def State.handleCovers (s : State) (t : Strand) (h : BitVec 32) (loc : Nat) : Bool :=
  match s.handleRange (sidDie t.sid) h with
  | none => false
  | some x => (s.linOf (sidDie t.sid) h).used && x.covers loc

/-- The Sable check of a byte range (R94 step 5, R240): whether it lies in a live region, or the fault. -/
def State.sableCheck (s : State) (t : Strand) (loc n : Nat) : Except FaultCode Bool :=
  let rts := s.roots
  if rts = [] then .ok false
  else
    let bytes := (List.range n).filter (fun i => rts.any (fun r => rootCovers r.2.2 (loc + i)))
    if bytes = [] then .ok false
    else
      let hs := t.hregs.toList.filterMap id
      let liveOk := fun i => hs.any (fun h => s.handleLive (sidDie t.sid) h && s.handleCovers t h (loc + i))
      let staleOk := fun i => hs.any (fun h => !s.handleLive (sidDie t.sid) h && s.handleCovers t h (loc + i))
      match bytes.find? (fun i => !liveOk i) with
      | none => .ok true
      | some i => if staleOk i then .error .handleStale else .error .handleRegion

/-- Root and key of a job's translations. -/
def State.jobRoot (s : State) (id : BitVec 32) : Nat × Nat :=
  match s.job? id with
  | some j => (j.rec_.root, j.rec_.key)
  | none => (0, 0)

/-- Whether a host bus range lies within an enabled allow-window (R335, R336). -/
def State.dmaOk (s : State) (bus n : Nat) : Bool :=
  (List.range 32).any fun i =>
    let b := s.pkg.bar.dmawin.get 0 (2 * i)
    let l := s.pkg.bar.dmawin.get 0 (2 * i + 1)
    b.getLsbD 0 && decide (b.toNat / 4096 * 4096 ≤ bus ∧ bus + n ≤ l.toNat + 1)

/-- What the package refuses of a translated place before any request leaves it: a host access outside the allow-windows (R335), a peer access while FABETYPE is 0 (R353). -/
def State.exitOk (s : State) (loc n : Nat) : Option FaultCode :=
  if isHostLoc loc then (if s.dmaOk (loc - 2 ^ 64) n then none else some .kindForbidden)
  else if isPeerLoc loc then (if s.pkg.bar.fabetype.toNat % 2 ^ 16 = 0 then some .fabricUnreachable else none)
  else none

/-- Where a pending store stands whose translation a shoot-down dropped: nowhere, until its page is translated again (R304). -/
def stalePlace (va : Word) : Nat := 2 ^ 128 + va.toNat

/-- The address whose place is to be found again, of a stale place. -/
def staleVa (x : Nat) : Option Word := if x < stalePlace 0 then none else some (word (x - stalePlace 0))

/-- Where a stale place stands once its page is known to lead to another; any other place is as it is. -/
def freshPlace (va : Word) (loc x : Nat) : Nat :=
  if stalePlace 0 ≤ x ∧ (x - stalePlace 0) / 2 ^ 18 = va.toNat / 2 ^ 18 then loc - va.toNat % 2 ^ 18 + (x - stalePlace 0) % 2 ^ 18 else x

/-- Renames the places of a strand's pending stores and of the locks in its guard table and tags. -/
def Strand.renamed (t : Strand) (f : Nat → Nat) : Strand := { t with
  pend := t.pend.map fun p => { p with loc := f p.loc, tag := p.tag.map fun x => (f x.1, x.2) }
  guards := t.guards.map fun g => { g with lock := f g.lock }
  locks := t.locks.map f }

/-- A strand's page leads to a place: so do its pending stores there, and the locks it holds there, that had lost their translation (R304). -/
def Strand.replaced (t : Strand) (va : Word) (loc : Nat) : Strand := t.renamed (freshPlace va loc)

/-- From an address to a place for a strand: steps 2 to 4 of R94, with the windows of R232 where they are allowed. -/
def State.place (s : State) (t : Strand) (va : Word) (n : Nat) (nd : Need) (ringOk : Bool) : State × Except Fail Hit :=
  if isUnused va then (s, .error (fail .pageNotPresent))
  else if isNear va then
    if nd.x then (s, .error (fail .kindForbidden))
    else if isRingWin va then
      (if ringOk then
        match s.ringAccess t va n nd.w with
        | .error c => (s, .error (fail c))
        | .ok (loc, v) => (s, .ok ⟨loc, none, v, false, false⟩)
       else (s, .error (fail .nearBounds)))
    else
      match windowLoc t.sid va with
      | none => (s, .error (fail .nearBounds))
      | some loc => if s.inPartition t.job loc then (s, .ok ⟨loc, none, false, false, false⟩) else (s, .error (fail .nearBounds))
  else
    let (root, key) := s.jobRoot t.job
    match s.translate (clusterOf t.sid) (some (coreOf t.sid)) root key nd va.toNat with
    | (s1, .error f) => (s1, .error f)
    | (s1, .ok h) =>
      match s1.exitOk h.loc n with
      | some c => (s1, .error (h.fail c))
      | none => (if t.uid = s1.cur.uid then s1.onCur fun t => t.replaced va h.loc else s1, .ok h)

/-- Steps 2 to 5 of R94 on a range of bytes: the address, translation, Sable bytes. -/
def State.reach (s : State) (t : Strand) (va : Word) (n : Nat) (nd : Need) : State × Except Fail Hit :=
  match s.place t va n nd true with
  | (s1, .error f) => (s1, .error f)
  | (s1, .ok h) =>
    match s1.sableCheck t h.loc n with
    | .error c => (s1, .error (h.fail c))
    | .ok sb => (s1, .ok { h with sable := sb })

/-- The checks of R94 on one access, in their order: alignment, the address, translation, Sable bytes, poison for a load. -/
def State.check (s : State) (t : Strand) (va : Word) (n : Nat) (nd : Need) : State × Except Fail Hit :=
  if va.toNat % n ≠ 0 then (s, .error (fail .misaligned))
  else
    match s.reach t va n nd with
    | (s1, .error f) => (s1, .error f)
    | (s1, .ok h) =>
      if nd.r && isHere h.loc && !h.void && s1.poisoned h.loc n then (s1, .error (h.fail .poisonConsumed))
      else (s1, .ok h)

end Sys2Proof.Machine
end

