-- ==== Sys2Proof/Machine/Record.lean ====
section
/-! DEFINITION. What the device writes for the host to read: the control block and the journal in the command window (R315, R316, R320), and fault records with their merging (R298 to R300, R105). -/

namespace Sys2Proof.Machine

/-! The HDM range (R316). -/

/-- W: the bytes of the command window and the journal (R316). -/
def winBytes : Nat := 0x4100000

/-- The die that backs the window: the highest with capacity for it (R316). -/
def State.winDie (s : State) : Nat :=
  match (List.range 4).reverse.find? (fun d => decide (winBytes ≤ (s.die d).capacity)) with
  | some d => d
  | none => 3

/-- Bytes of a die's linear range, the window's excepted (R316). -/
def State.linBytes (s : State) (d : Nat) : Nat :=
  if d = s.winDie then (s.die d).capacity - winBytes else (s.die d).capacity

/-- The linear part of the map: the die and offset of byte x counted over dies d onward (R316). -/
def State.linPa (s : State) : (fuel d x : Nat) → Option Nat
  | 0, _, _ => none
  | fuel + 1, d, x => if x < s.linBytes d then some (d * 2 ^ 38 + x) else s.linPa fuel (d + 1) (x - s.linBytes d)

/-- `hdm_to_pa` (R316); none past the range. -/
def State.hdmPa (s : State) (h : Nat) : Option Nat :=
  if h < winBytes then some (s.winDie * 2 ^ 38 + ((s.die s.winDie).capacity - winBytes + h))
  else s.linPa 4 0 (h - winBytes)

/-- The place of an offset of the command window or the journal. -/
def State.winPa (s : State) (h : Nat) : Nat :=
  s.winDie * 2 ^ 38 + ((s.die s.winDie).capacity - winBytes + h)

/-- A read of the device's own structures, under key 0 (R397). -/
def State.devGet (s : State) (loc n : Nat) : Nat := if isHbm loc then s.peekKey 0 loc n else 0

/-- A write of the device's own structures, under key 0, in home order (R397, R283). -/
def State.devPut (s : State) (loc n v : Nat) : State := if isHbm loc then s.homeWrite 0 loc n v none else s

/-- A field of the control block (R315). -/
def State.ctlGet (s : State) (off : Nat) : Nat := s.devGet (s.winPa (0x2000000 + off)) 8
def State.ctlPut (s : State) (off v : Nat) : State := s.devPut (s.winPa (0x2000000 + off)) 8 v

/-! The journal (R320). -/

/-- The place of journal entry n. -/
def State.journalPa (s : State) (n : Nat) : Nat := s.winPa (0x4000000 + (n - 1) % 16384 * 64)

/-- A journal line (R320). -/
structure JournalLine where
  seq : Nat
  kind : Nat
  state : JState
  reason : Nat
  job : BitVec 32
  taccept : Word
  tstate : Word
  cookie : Word
  code : Nat
  detail : Nat
deriving DecidableEq, Repr

/-- The 64 bytes of a journal line as a number (R320). -/
def JournalLine.toNat (l : JournalLine) : Nat :=
  natOfBytes (bytesOfNat 8 l.seq ++ bytesOfNat 2 l.kind ++ bytesOfNat 1 l.state.code ++ bytesOfNat 1 l.reason ++
    bytesOfNat 4 l.job.toNat ++ bytesOfNat 8 l.taccept.toNat ++ bytesOfNat 8 l.tstate.toNat ++
    bytesOfNat 8 l.cookie.toNat ++ bytesOfNat 8 l.code ++ bytesOfNat 8 l.detail ++ bytesOfNat 8 0)

/-- Writes a journal line as one 64-byte line, keeps `jhead` the highest, and signals MSI-X vector 0 (R320, R323). -/
def State.journalPut (s : State) (l : JournalLine) : State :=
  let s1 := s.devPut (s.journalPa l.seq) 64 l.toNat
  let s2 := if s1.ctlGet 0x08 < l.seq then s1.ctlPut 0x08 l.seq else s1
  s2.signal 0

/-- Moves the entry of a command to a new state: tstate, code and detail with it (R320, R321). -/
def State.journalMove (s : State) (n : Nat) (st : JState) (code detail : Nat) : State :=
  let old := s.devGet (s.journalPa n) 64
  let at_ (o k : Nat) : Nat := old / 256 ^ o % 256 ^ k
  s.journalPut ⟨at_ 0 8, at_ 8 2, st, at_ 11 1, BitVec.ofNat 32 (at_ 12 4), BitVec.ofNat 64 (at_ 16 8), s.gtime,
    BitVec.ofNat 64 (at_ 32 8), code, detail⟩

/-! Fault records (R298 to R300). -/

/-- The 64 bytes of a record (R299). -/
def FaultRec.bytes (r : FaultRec) (job : BitVec 32) (g : Word) : List Byte :=
  bytesOfNat 1 r.code.num ++
  bytesOfNat 1 ((if r.info then 1 else 0) + (if r.replay then 2 else 0) + (if r.malformed then 4 else 0)) ++
  bytesOfNat 2 0 ++ bytesOfNat 4 job.toNat ++ bytesOfNat 4 r.sid.toNat ++ bytesOfNat 4 0 ++ bytesOfNat 8 r.pc.toNat ++
  bytesOfNat 8 r.va.toNat ++ bytesOfNat 8 (r.kind + r.scope * 256) ++ bytesOfNat 8 r.tag.toNat ++
  bytesOfNat 4 r.chunkLow ++ bytesOfNat 4 r.chunkCount ++ bytesOfNat 8 g.toNat

/-! The fault-queue header (R298). -/

def State.fqBase (s : State) (j : Job) : Nat := s.devGet j.rec_.fq 8
def State.fqCap (s : State) (j : Job) : Nat := s.devGet (j.rec_.fq + 8) 8
def State.fqHead (s : State) (j : Job) : Nat := s.devGet (j.rec_.fq + 16) 8
def State.fqTail (s : State) (j : Job) : Nat := s.devGet (j.rec_.fq + 24) 8
def State.fqPaging (s : State) (j : Job) : Bool := decide (s.devGet (j.rec_.fq + 32) 8 % 2 = 1)
def State.fqSvc (s : State) (j : Job) : Nat := s.devGet (j.rec_.fq + 40) 8

/-- The place of record k. -/
def State.recPa (s : State) (j : Job) (k : Nat) : Nat := s.fqBase j + k % s.fqCap j * 64
/-- The flags of record k. -/
def State.recFlags (s : State) (j : Job) (k : Nat) : Nat := s.devGet (s.recPa j k + 1) 1
/-- The servicer's mark: flags bit 7, and bit 6 for a declined record. -/
def State.recMarked (s : State) (j : Job) (k : Nat) : Bool := (BitVec.ofNat 8 (s.recFlags j k)).getLsbD 7
def State.recDeclined (s : State) (j : Job) (k : Nat) : Bool := (BitVec.ofNat 8 (s.recFlags j k)).getLsbD 6

/-- Whether record k takes a merge of a fault (R300). -/
def State.mergesInto (s : State) (j : Job) (r : FaultRec) (k : Nat) : Bool :=
  let va := s.devGet (s.recPa j k + 24) 8
  let bothBig := r.big && j.bigRecs.contains k
  !s.recMarked j k && decide (s.recFlags j k % 2 = 0) && decide (s.devGet (s.recPa j k) 1 = r.code.num) &&
  (if bothBig then decide (va / 2 ^ 29 = r.va.toNat / 2 ^ 29) else decide (va / 2 ^ 18 = r.va.toNat / 2 ^ 18))

/-- Records that concern one strand's own request and are never merged (R300). -/
def FaultRec.single (r : FaultRec) : Bool := r.info || decide (r.code = .hostProxyExpired)

/-- The record a fault merges into: the lowest between tail and head that takes it (R300). -/
def State.mergeTarget (s : State) (j : Job) (r : FaultRec) : Option Nat :=
  if r.single then none
  else ((List.range (s.fqHead j - s.fqTail j)).map (· + s.fqTail j)).find? (s.mergesInto j r)

/-- Puts a record into the ring: the service block of an `svc` first, the 64 bytes, head, MSI-X vector 1 (R100, R298, R323). -/
def State.ringPut (s : State) (j : Job) (bytes svc : List Byte) : State :=
  let k := s.fqHead j
  let s1 := if svc = [] then s else s.devPut (s.fqSvc j + k % s.fqCap j * 64) 64 (natOfBytes svc)
  ((s1.devPut (s.recPa j k) 64 (natOfBytes bytes)).devPut (j.rec_.fq + 16) 8 (k + 1)).signal 1

/-- Posts a fault of a job: merged, put into the ring, or held in the die while the ring is full (R298, R300). Answers the record's number. -/
def State.postRecord (s : State) (j : Job) (r : FaultRec) (svc : List Byte) : Nat × State :=
  match s.mergeTarget j r with
  | some k =>
    let c := s.devGet (s.recPa j k + 2) 2
    (k, s.devPut (s.recPa j k + 2) 2 (Nat.min 0xFFFF (c + 1)))
  | none =>
    let k := s.fqHead j + j.held.length
    let s1 := if r.big then s.onJob j.id fun j => { j with bigRecs := k :: j.bigRecs } else s
    let bytes := r.bytes j.id (r.at_.getD s.gtime)
    if s.fqHead j - s.fqTail j < s.fqCap j ∧ j.held = [] then (k, s1.ringPut j bytes svc)
    else (k, s1.onJob j.id fun j => { j with held := j.held ++ [⟨bytes, svc⟩] })

end Sys2Proof.Machine
end

