-- ==== Sys2Proof/Machine/JobOps.lean ====
section
/-! DEFINITION. What ends a job and what the slate wave does to it as a whole (R321, R323, R386 to R390): the operations that faults, commands and the scheduler share. -/

namespace Sys2Proof.Machine

/-- Runs an operation of the current strand for each of a list of strands. -/
def State.forUids (s : State) (us : List Nat) (f : State → State) : State :=
  us.foldl (fun a u => a.asUid u f) s

/-- The strands of a job. -/
def State.jobUids (s : State) (id : BitVec 32) : List Nat :=
  (s.strands.filter (fun t => decide (t.job = id) && decide (t.job ≠ 0))).map (·.uid)

/-- Those of them that occupy slots. -/
def State.slotUids (s : State) (id : BitVec 32) : List Nat :=
  (s.strands.filter (fun t => decide (t.job = id) && decide (t.job ≠ 0) && !t.away)).map (·.uid)

/-! Rings let go (R238). -/

/-- Unbinds one ring register of the current strand: a live claim and a take leave their slots free, a voided claim leaves its slot void; the ring goes with its last binding (R238). -/
def State.unbindRing (s : State) (g : BitVec 5) : State :=
  match s.cur.getG g with
  | none => s
  | some b =>
    let s1 := s.onRing b.ring fun r =>
      let r1 := match b.claim with
        | some p => r.setSlot p .free
        | none => r
      let r2 := match b.take with
        | some p => r1.setSlot p .free
        | none => r1
      { r2 with bindings := r2.bindings - 1 }
    { s1 with
      rings := s1.rings.filter (fun r => !decide (r.base = b.ring ∧ r.bindings = 0))
      cur := s1.cur.setG g none }

/-- Unbinds every ring register of the current strand. -/
def State.unbindRings (s : State) : State := [0, 1, 2, 3].foldl (fun a g => a.unbindRing g) s

/-! Ports let go (R192, R193). -/

/-- Frees a port of its binding. -/
def Port.unbind (p : Port) : Port := { p with bound := none, active := false, strips := [], buf := [], fault := none }

/-- What a port has asked of the host or of peers answers to no one: its binding is gone (R192, R346). -/
def State.dropPortAsks (s : State) (core p : Nat) : State :=
  let w := Asker.port core p
  s.onPkg fun g => { g with
    hostReqs := g.hostReqs.map fun r => if r.who = w then { r with dropped := true } else r
    peers := g.peers.map fun q => (q.1, { q.2 with unacked := q.2.unacked.map fun x => if x.who = some w then { x with who := none } else x }) }

/-- The ports of its core that are bound to the current strand. -/
def State.ownPorts (s : State) : List Nat :=
  (List.range 16).filter fun p => match ((s.core s.curCore).ports.toList.getD p Port.free).bound with
    | some (u, _) => decide (u = s.cur.uid)
    | none => false

/-- Frees the streamer ports bound to the current strand and takes its bindings out of their queues. -/
def State.freePorts (s : State) : State :=
  (s.ownPorts.foldl (fun (a : State) p => a.dropPortAsks s.curCore p) s).onCore s.curCore fun c => { c with ports := c.ports.map (fun p =>
    let q := p.queue.filter (fun x => match x with
      | .bind u _ => decide (u ≠ s.cur.uid)
      | .copy _ => true)
    match p.bound with
    | some (u, _) => if u = s.cur.uid then { p.unbind with queue := q }
                     else { p with queue := q }
    | none => { p with queue := q }) }

/-- What the current strand has asked of the host or of peers answers to no one: what comes later is dropped (R343, R346). -/
def State.dropAsks (s : State) : State :=
  let u := s.cur.uid
  s.onPkg fun p => { p with
    proxies := p.proxies.filter fun q => decide (q.uid ≠ u)
    hostReqs := p.hostReqs.map fun r => if r.who = .strand u then { r with dropped := true } else r
    peers := p.peers.map fun q => (q.1, { q.2 with unacked := q.2.unacked.map fun x => if x.who = some (.strand u) then { x with who := none } else x }) }

/-- The current strand leaves its slot: its rings and ports are let go and nothing of it stays (R68, R255, R323). -/
def State.vacate (s : State) : State := { s.unbindRings.freePorts.dropAsks with cur := Strand.idle }

/-! Ending a job (R321, R323). -/

/-- Copies of a job: their numbers. -/
def State.jobCopies (s : State) (id : BitVec 32) : List Nat :=
  (s.pkg.copies.filter (fun c => decide (c.job = id))).map (·.id)

/-- Abandons a job's copies and chains; chunk maps keep the bits set, claims are released (R284, R323). -/
def State.dropCopies (s : State) (id : BitVec 32) : State :=
  let ids := s.jobCopies id
  { s with
    claims := s.claims.filter (fun c => !ids.contains c.copy)
    cores := s.cores.map (fun p => (p.1, { p.2 with ports := p.2.ports.map (fun q =>
      { q with
        queue := q.queue.filter (fun x => match x with
          | .copy i => !ids.contains i
          | .bind _ _ => true)
        running := match q.running with
          | some i => if ids.contains i then none else some i
          | none => none }) }))
    pkg := { s.pkg with
      copies := s.pkg.copies.filter (fun c => decide (c.job ≠ id))
      chains := s.pkg.chains.filter (fun c => decide (c.job ≠ id))
      hostReqs := s.pkg.hostReqs.map (fun r => match r.who with
        | .copy i => if ids.contains i then { r with dropped := true } else r
        | _ => r) } }

/-- Frees the lineage entries a job still holds, with both generations raised, and its task queues; what was written in its regions is what memory holds. Log 22 (DEDUCED). -/
def State.dropLineage (s : State) (id : BitVec 32) : State :=
  let pages := (s.roots.filter fun r => decide (r.2.2.job = id)).flatMap fun r => r.2.2.pages
  { s with
    sable := s.sable.filter fun w => !pages.any fun r => overlaps w.loc w.n r.2.1 r.2.2
    clusters := s.clusters.map (fun p => (p.1, { p.2 with
      lineage := p.2.lineage.map (fun e =>
        if e.2.used && decide (e.2.job = id) then (e.1, { e.2 with used := false, gen0 := e.2.gen0 + 1, gen1 := e.2.gen1 + 1 })
        else e)
      taskq := p.2.taskq.filter (fun q => decide (q.1 ≠ id.toNat)) })) }

/-- Frees the cores bound to a job (R326). -/
def State.freeCores (s : State) (id : BitVec 32) : State :=
  { s with cores := s.cores.map (fun p =>
      if p.2.lease.job = some id then (p.1, { p.2 with
        lease := { p.2.lease with job := none }
        matrix := { p.2.matrix with queue := [] } })
      else p) }

/-- Ends a job: strands leave their slots, pending stores go with them, copies and chains are abandoned, its cores fall free, and the journal takes the final state (R321, R323). Log 22 (DEDUCED). -/
def State.endJob (s : State) (id : BitVec 32) (st : JState) (code : Nat) : State :=
  match s.job? id with
  | none => s
  | some j =>
    let s1 := s.forUids (s.jobUids id) State.vacate
    let s2 := ((s1.dropCopies id).dropLineage id).freeCores id
    let s3 := s2.onJob id fun j => { j with state := st, code := code, jrun := false, jval := j.jtime s.gtime, gang := .none, held := [], bindable := [], cores := [] }
    s3.journalMove j.seq st code j.started

/-- A request reaches a strand: the bound of one that is pending already goes on (R88). -/
def Strand.request (t : Strand) (p : PreReq) : Strand := { t with pre := some p, preAge := if t.pre.isSome then t.preAge else 0 }

/-- Requests that a job end, as a stop asks of every strand; a job none of whose strands occupies a slot ends at once (R323). -/
def State.requestStop (s : State) (id : BitVec 32) (st : JState) (code : Nat) : State :=
  match s.job? id with
  | none => s
  | some j =>
    if s.slotUids id = [] then s.endJob id (j.stopReq.getD (st, code)).1 (j.stopReq.getD (st, code)).2
    else if j.stopReq.isSome then s
    else
      (s.onJob id fun j => { j with stopReq := some (st, code), bindable := [] }).mapStrands fun t =>
        if t.job = id then t.request .stop else t

/-- Ends a job from outside it (R323, R331, R347): at once while nothing of it runs, since it is saved or frozen; else its strands are asked to stop. A stop asked for before keeps its cause. -/
def State.killJob (s : State) (id : BitVec 32) (st : JState) (code : Nat) : State :=
  match s.job? id with
  | none => s
  | some j =>
    let still := decide (j.slate.st ≠ .running) || (match j.gang with
      | .saved _ _ => true
      | .resuming _ => true
      | _ => false)
    let c := j.stopReq.getD (st, code)
    if still then s.endJob id c.1 c.2 else s.requestStop id st code

/-- Ends a job whose stop was asked for once no strand of it is left (R323). -/
def State.endIfStopped (s : State) (id : BitVec 32) : State :=
  match s.job? id with
  | none => s
  | some j =>
    match j.stopReq with
    | none => s
    | some (st, code) => if s.slotUids id = [] then s.endJob id st code else s

/-! The slate wave (R386 to R390). -/

/-- Whether one cause comes before another: earliest gtime, then lowest package, then lowest strand identity (R389). -/
def causeBefore (a b : Cause) : Bool :=
  if a.gtime ≠ b.gtime then decide (a.gtime.toNat < b.gtime.toNat)
  else if a.pkg ≠ b.pkg then decide (a.pkg < b.pkg)
  else decide (a.sid.toNat < b.sid.toNat)

/-- Adds a cause to the local list: the first 16 are held, the count saturates at 255 (R389, R390). -/
def Slate.addLocal (l : Slate) (c : Cause) : Slate :=
  { l with locals := if l.locals.length < 16 then l.locals ++ [c] else l.locals, lcount := Nat.min 255 (l.lcount + 1) }

/-- A cause competes for first cause; the one that loses joins the local list when it arose on this package (R389). -/
def Slate.compete (l : Slate) (here : Nat) (c : Cause) : Slate :=
  match l.first with
  | .none => { l with first := some c }
  | .some f =>
    if f = c then l
    else if causeBefore c f then
      let l1 := { l with first := some c }
      if f.pkg = here then l1.addLocal f else l1
    else if c.pkg = here then l.addLocal c else l

/-- Tells the other packages of a job's slice, where it has others (R354, R386). -/
def State.tell (s : State) (j : Job) (c : Ctl) : State :=
  if j.multi then s.onPkg fun p => { p with ctlOut := p.ctlOut ++ [c] } else s

/-- A trigger of the slate wave on this package (R384): the cause is taken and the wave sets out; on a package already freezing or frozen it only competes (R393). -/
def State.trigger (s : State) (id : BitVec 32) (c : Cause) : State :=
  match s.job? id with
  | none => s
  | some j =>
    let s1 := s.onJob id fun j => { j with slate := j.slate.compete s.pkgNo c }
    if j.slate.st = .running ∧ j.slate.wave = none then
      (s1.onJob id fun j => { j with slate := { j.slate with wave := some c } }).tell j (.wave id c)
    else s1

/-- A fault or `brk` during the freeze joins the local list (R389). -/
def State.noteLocal (s : State) (id : BitVec 32) (c : Cause) : State :=
  s.onJob id fun j => if j.slate.st = .running then j else { j with slate := j.slate.addLocal c }

/-- The wave has reached this package at a gtime: the job is frozen, its `jtime` stands, and the stop value and the frozen state are reported to the slice (R73, R386). A launch that has not started takes its common start after the resume (R393). -/
def State.freezeJob (s : State) (id : BitVec 32) (c : Cause) (at_ : Word) : State :=
  match s.job? id with
  | none => s
  | some j =>
    if j.slate.st ≠ .running then s.onJob id fun j => { j with slate := j.slate.compete s.pkgNo c }
    else
      let stop := j.jtime at_
      let s1 := s.onJob id fun j => { j with
        jval := stop, jrun := false, startAt := if j.timed then j.startAt else none
        slate := { (j.slate.compete s.pkgNo c) with st := .frozen, frozenAt := at_, stop := stop, wave := none, reports := (s.pkgNo, stop) :: j.slate.reports } }
      s1.tell j (.frozen s.pkgNo id stop c)

end Sys2Proof.Machine
end

