-- ==== Sys2Proof/Machine/Paths.lean ====
section
/-! DEFINITION. Path tables (14_fabric.md R373, R374, R376, R377): what an entry says, how a table starts and which path a transfer takes. -/

namespace Sys2Proof.Machine

/-- Whether a path has had neither an ack nor a probe for 1 ms (R374). -/
def PathEntry.down (p : PathEntry) (g : Word) : Bool := decide (1000000 ≤ (g - p.seen).toNat)

/-- A path that is `VALID` and not `DOWN` (R374, R375). -/
def PathEntry.up (p : PathEntry) (g : Word) : Bool := p.valid && !p.down g

/-- An entry of a path table that describes no path. -/
def PathEntry.none : PathEntry := ⟨0, 0, 0, [], 0, false, false, false⟩

/-- Changes a path of a peer's table, of 16 entries (R373). -/
def Peer.onPath (q : Peer) (k : Nat) (f : PathEntry → PathEntry) : Peer :=
  let ps := q.paths ++ List.replicate (16 - q.paths.length) PathEntry.none
  { q with paths := ps.set k (f (ps.getD k PathEntry.none)) }

/-- The table of a peer, which the first traffic exchanged with it starts: 16 paths that have just been heard of (R373). Log 55 (DESIGN CHOICE). -/
def Peer.begin (q : Peer) (key : Nat) (g : Word) : Peer :=
  if q.hasTable then q
  else { q with
    hasTable := true
    hops := if 2 ^ 20 ≤ key then 0 else Config.hops key
    paths := (List.range 16).map fun i => ⟨Config.entropy key i, 0, 0, [], g, false, false, true⟩ }

/-- An ack of what was sent on a path: it is up, and its round trip takes the sample in (R373, R374). Log 55 (DESIGN CHOICE). -/
def PathEntry.heard (p : PathEntry) (g sent : Word) : PathEntry := { p with seen := g, rtt := Config.smoothRtt p.rtt ((g - sent).toNat / 16) }

/-- Whether a path of a table is eligible under a policy word; `avoid` is false once the avoid conditions are dropped (R376). -/
def pathEligible (ps : List PathEntry) (g policy : Word) (avoid : Bool) (k : Nat) (p : PathEntry) : Bool :=
  p.up g && (decide (policy.toNat % 2 ^ 16 = 0) || policy.getLsbD k) &&
  (!avoid || (!policy.getLsbD (16 + k) && !p.avoid)) && (p.pin || !ps.any (·.pin))

/-- The eligible paths of a table, the avoid conditions dropped where they leave none (R376). -/
def eligiblePaths (ps : List PathEntry) (g policy : Word) : List (PathEntry × Nat) :=
  let f (avoid : Bool) := ps.zipIdx.filter fun x => pathEligible ps g policy avoid x.2 x.1
  if (f true).isEmpty then f false else f true

/-- What a path costs (R376). -/
def PathEntry.cost (p : PathEntry) : Nat := p.rtt.toNat + 16 * p.ecn.toNat

/-- The path taken among eligible ones: the least cost, and among ties the next in path order after the one taken last (R376). -/
def pickPath (xs : List (PathEntry × Nat)) (last : Nat) : Option Nat :=
  match (xs.map fun x => x.1.cost).min? with
  | none => none
  | some m =>
    let ties := (xs.filter fun x => decide (x.1.cost = m)).map (·.2)
    (ties.find? fun k => decide (last < k)).or ties.head?

/-- Requests that a reply answers: reads, atomics, messages (R361). -/
def replyBearing (kind : Nat) : Bool := decide (kind = 1 ∨ kind = 4 ∨ kind = 8)

/-- Reply-bearing requests sent to a peer and not answered; one still held back has been sent 0 times (R361). -/
def Peer.asking (q : Peer) : Nat := (q.unacked.filter fun u => decide (u.sends ≠ 0) && replyBearing u.pkt.kind).length

end Sys2Proof.Machine
end

