-- ==== Sys2Proof/Machine/Ops.lean ====
section
/-! DEFINITION. The operations the instructions share: completing an instruction (R83, R84), taking a fault (R105, R106, R301) and stopping at a pre-emption point (R87), register waits (R71), wait results (R74, R76), release events (R264, R265), requests to peers and the host, and loads and stores of one element (R94, R95). All act on the current strand. -/

namespace Sys2Proof.Machine

/-- What `exec` answers. -/
abbrev Result := Host.Outcome State Fault Refusal

/-! Completing an instruction. Loop levels stand innermost first. -/

/-- End-of-body processing (R83): the next pc, the levels, and whether it is an iteration boundary. -/
def endOfBody (pc : Word) : List LoopLvl → Word × List LoopLvl × Bool
  | [] => (pc + 4, [], false)
  | l :: ls =>
    if pc = l.stop then
      (if l.index.toNat + 1 < l.count.toNat then (l.start, { l with index := l.index + 1 } :: ls, true)
       else endOfBody pc ls)
    else (pc + 4, l :: ls, false)

/-- The levels a transfer of control leaves on the stack: a level whose body does not hold the target goes, with every level inside it (R84). -/
def popOutside (target : Word) : List LoopLvl → List LoopLvl
  | [] => []
  | l :: ls =>
    let r := popOutside target ls
    if r.length < ls.length then r
    else if l.start.toNat ≤ target.toNat ∧ target.toNat ≤ l.stop.toNat then l :: ls
    else ls

/-- What an instruction leaves behind when it is over: no pending wait, no bytes fetched for it. -/
def Strand.clear (t : Strand) : Strand := { t with wait := none, buf := [], refused := [], replies := [], vamoTodo := none, resv := [], seek := none }

/-- Appends the marker of a saved task to its job's queue: it resumes after the records that wait now (R257). -/
def State.queueSaved (s : State) : State :=
  s.onCluster s.curCluster fun c =>
    let q := c.taskq.get ⟨[], false⟩ s.cur.job.toNat
    { c with taskq := c.taskq.set ⟨[], false⟩ s.cur.job.toNat { q with items := q.items ++ [⟨0, [], false, some s.cur.uid⟩] } }

/-- The pending pre-emption request of the current strand takes effect (R87, R257, R323, R328): a stop ends the strand, a gang pre-emption or a task's own pre-emption saves it. -/
def State.preemptNow (s : State) : State :=
  match s.cur.pre with
  | none => s
  | some .stop =>
    let id := s.cur.job
    s.vacate.endIfStopped id
  | some .gang => s.freePorts.onCur fun t => { t with pre := none, preAge := 0, away := true }
  | some .budget | some .priority =>
    if s.cur.task then s.queueSaved.freePorts.onCur fun t => { t with pre := none, preAge := 0, away := true }
    else s.onCur fun t => { t with pre := none, preAge := 0 }

/-- Whether the job of the current strand stands in a slate wave (R89, R387). -/
def State.curFrozen (s : State) : Bool :=
  match s.job? s.cur.job with
  | some j => decide (j.slate.st ≠ .running)
  | none => false

/-- The cycles within which a requested strand must reach a pre-emption point (R88). -/
def preemptBound : Nat := 65536

/-- Whether a pre-emption point still meets a strand's pending request: past the bound the strand faults at its next instruction instead, and one that is to stop stops there (R88, R323). -/
def Strand.preInTime (t : Strand) : Bool := decide (t.pre = some .stop) || decide (t.preAge < preemptBound)

/-- A pre-emption point of the current strand (R87, R88, R89). -/
def State.preemptPoint (s : State) : State := if s.cur.pre.isSome && s.cur.preInTime && !s.curFrozen then s.preemptNow else s

/-- The current instruction has completed without a transfer of control (R83). -/
def State.retire (s : State) : State :=
  let r := endOfBody s.cur.pc s.cur.loops
  let s1 := s.onCur fun t => { t.clear with pc := r.1, loops := r.2.1 }
  if r.2.2 then s1.preemptPoint else s1

/-- The current instruction has transferred control to `target` (R84). -/
def State.jump (s : State) (target : Word) : State :=
  s.onCur fun t => { t.clear with pc := target, loops := popOutside target t.loops }

/-! Taking a fault. -/

/-- The record of a fault of the current strand (R105). -/
def State.faultRec (s : State) (f : Fail) (va : Word) (kind scope : Nat) : FaultRec :=
  ⟨f.code, false, false, f.malformed, s.cur.sid, s.cur.pc, va, kind, scope, 0, 0, 0, f.big, none, none⟩

/-- The current strand ends its job as a fault under policy stop does (R323): the job is to end failed, and the strand itself stops. -/
def State.stopJob (s : State) (id : BitVec 32) (code : Nat) : State :=
  let s1 := s.requestStop id .failed code
  if s1.cur.job = id then s1.vacate.endIfStopped id else s1

/-- The job's policy applied to a strand fault with record k (R301 step 3, R323, R324, R384): stop ends the job failed, freeze starts the slate wave, continue parks the strand. `KEY_REVOKED` ends the job whatever the policy (R324, R347). A fault of a single step leaves the strand at the instruction (R391). -/
def State.applyPolicy (s : State) (j : Job) (k : Nat) (code : Nat) (pc : Word) : State :=
  let c : Cause := ⟨s.pkgNo, s.cur.sid, pc, code, s.gtime⟩
  let s1 := s.noteLocal j.id c
  if code = FaultCode.keyRevoked.num then s1.stopJob j.id code
  else if j.slate.st = .stepping then s1.onCur fun t => { t with run := .frozen (some k) }
  else match j.rec_.policy with
    | .stop => s1.stopJob j.id code
    | .freeze =>
      let s2 := s1.onCur fun t => { t with run := .frozen (some k) }
      if j.slate.st = .running then s2.trigger j.id c else s2
    | .continue_ => s1.onCur fun t => { t with run := .parked k }

/-- Whether the paging service will service a record with a code (R301 step 1). -/
def State.paged (s : State) (j : Job) (c : FaultCode) : Bool :=
  decide (c = .firstTouchPoolEmpty) || (decide (c = .pageNotPresent) && s.fqPaging j)

/-- Taking an exception: the ONE operation by which a strand-level fault is taken (R106, R301 steps 2 and 3). The instruction performs nothing; the record is posted (R105, R299), and a vector memory instruction leaves its element in `ffx` (R131); a fault the paging service will serve holds the strand at the instruction; any other takes the job's policy. -/
def State.takeFault (s : State) (r : FaultRec) : State :=
  match s.job? s.cur.job with
  | none => s
  | some j =>
    let (k, s1) := s.postRecord j r []
    let s2 := s1.onCur fun t => { t with
      wait := none, buf := [], refused := [], replies := [], resv := t.resv.filter Resv.isSwap, seek := none
      ffx := (r.elem.map (BitVec.ofNat 16)).getD t.ffx }
    if s.paged j r.code then
      (s2.noteLocal j.id ⟨s.pkgNo, s.cur.sid, r.pc, r.code.num, s.gtime⟩).onCur fun t => { t with run := .held k (j.jtime s.gtime) }
    else s2.applyPolicy j k r.code.num r.pc

/-- The return from an exception: the current strand issues again at its faulting instruction (R106, R301 step 5). -/
def State.resumeFault (s : State) : State := s.onCur fun t => { t with run := .ready }

/-- A fault with a code alone. -/
def State.faultCode (s : State) (c : FaultCode) (va : Word) (kind scope : Nat) : State :=
  s.takeFault (s.faultRec (fail c) va kind scope)

/-! Waits. -/

/-- Whether a wait is a load's stall at a watermark (R170). -/
def WaitObj.isMark : WaitObj → Bool
  | .watermark _ _ => true
  | _ => false

/-- The bound of a wait that has no deadline operand: the one it started with, or `jtime` + `dl.def` (R71, R87). A load's stall at its watermarks is one wait, whichever of its elements it stands at (R170). -/
def State.boundFor (s : State) (o : WaitObj) : Word :=
  match s.cur.wait with
  | some w => if w.obj = o ∨ w.obj = .polled ∨ (w.obj.isMark && o.isMark) then w.bound.getD (s.jtime + s.cur.dlDef) else s.jtime + s.cur.dlDef
  | none => s.jtime + s.cur.dlDef

/-- Whether an `mst` of the current strand stands in the matrix queue: its rows are not yet stores (R180). -/
def State.mstQueued (s : State) : Bool :=
  (s.core s.curCore).matrix.queue.any fun e => decide (e.uid = s.cur.uid) && (match e.op with
    | .mst _ _ _ _ => true
    | _ => false)

/-- Whether an `mrd` of the current strand waits in the vector queue (R185). -/
def State.mrdQueued (s : State) : Bool :=
  (s.core s.curCore).matrix.queue.any fun e => decide (e.uid = s.cur.uid) && (match e.op with
    | .mrd _ _ _ _ _ => true
    | _ => false)

/-- Whether rows that an `mst` of the current strand has still to write reach bytes of a range (R180). -/
def State.mstMeets (s : State) (loc n : Nat) : Bool :=
  (s.core s.curCore).matrix.queue.any fun e => decide (e.uid = s.cur.uid) && (match e.op with
    | .mst _ _ dests _ => dests.any fun d => decide (e.done ≤ d.row) && overlaps d.loc d.n loc n
    | _ => false)

/-- The current instruction waits for an object; a wait that goes on keeps its place in the order. -/
def State.waitOn (s : State) (o : WaitObj) (kind : Nat) (sd : BitVec 5) (bound : Option Word) (past : Bool) (expiry : Option FaultRec) : State :=
  match s.cur.wait with
  | some w =>
    if w.obj = o then s.onCur fun t => { t with wait := some ⟨o, kind, sd, bound, past, w.arr, expiry⟩ }
    else { s with cur := { s.cur with wait := some ⟨o, kind, sd, bound, past, s.ticket, expiry⟩ }, ticket := s.ticket + 1 }
  | none => { s with cur := { s.cur with wait := some ⟨o, kind, sd, bound, past, s.ticket, expiry⟩ }, ticket := s.ticket + 1 }

/-- The current instruction is held back until something is done, with no bound; it then issues again. -/
def State.holdOn (s : State) (o : WaitObj) : State := s.waitOn o 0 0 none false none

/-- Goes on once no `mst` of the strand stands in the matrix queue: what the strand's memory accesses read and write comes after its rows (R180). Log 29 (DESIGN CHOICE). -/
def State.afterMst (s : State) (k : State → State) : State := if s.mstQueued then s.holdOn .mstDrain else k s

/-- A bounded wait that issues its instruction again: until the bound, then the fault given (R71, R170, R181, R190). -/
def State.boundedWait (s : State) (o : WaitObj) (r : FaultRec) : State :=
  let b := s.boundFor o
  if b.toNat ≤ s.jtime.toNat then s.takeFault r else (s.onCur fun t => { t with buf := [] }).waitOn o 0 0 (some b) false (some r)

/-- A wait on an empty register (R71). Log 58 (DEDUCED). -/
def State.regWait (s : State) (r : BitVec 5) : State :=
  if s.cur.fetrap.getLsbD r.toNat then s.faultCode .regEmptyTrap (r.setWidth 64) 5 0
  else s.boundedWait (.reg r) (s.faultRec (fail .regWaitExpired) (r.setWidth 64) 5 0)

/-- Reading a register that holds a delivery token acquires the copy's writes at its delivery scope (R197). -/
def State.readTok (s : State) (r : BitVec 5) : State :=
  match s.cur.marks.get none r.toNat with
  | none => s
  | some m => (s.acquire m.scope []).onCur fun t => { t with hb := t.hb ||| m.writes }

/-- Issue: every register the instruction names is full, or it waits for the first that is empty (R71); tokens among the sources are acquired. Log 58 (DEDUCED). -/
def State.issue (s : State) (srcs dsts : List (BitVec 5)) (k : State → State) : State :=
  match (srcs ++ dsts).find? (fun r => !s.cur.isFull r) with
  | some r => s.regWait r
  | none => k (srcs.foldl State.readTok s)

/-- `wst` as a wait writes it (R76). -/
def mkWst (kind : Nat) (phase : BitVec 32) (o : WaitOutcome) : Word :=
  BitVec.ofNat 64 (kind * 2 ^ 48 + phase.toNat * 2 ^ 16 + o.code)

/-- `finish` of R74: `wst` and `wabs` together, the destination, and the instruction completes. -/
def State.finish (s : State) (kind : Nat) (phase : BitVec 32) (o : WaitOutcome) (wabs : Word) (d : BitVec 5) (v : Word) : State :=
  (s.onCur fun t => { t with wst := mkWst kind phase o, wabs := wabs }.setS d v).retire

/-- `clamp_dl` (R74). -/
def State.clampDl (s : State) (d : Word) : Word :=
  let m := s.jtime + s.cur.dlMax
  if d.toNat ≤ m.toNat then d else m

/-! Requests that leave the package (R264, R339, R359, R361). -/

/-- The identity of a request to a peer: package and ESEQ in one number. -/
def peerReq (pkg : Nat) (eseq : BitVec 32) : Nat := 2 ^ 64 + pkg * 2 ^ 32 + eseq.toNat

/-- What this package keeps about a peer. -/
def State.peer (s : State) (p : Nat) : Peer := s.pkg.peers.get Peer.zero p
def State.setPeer (s : State) (p : Nat) (v : Peer) : State := s.onPkg fun g => { g with peers := g.peers.set Peer.zero p v }

/-- The policy word of whoever sends to a peer, and the path its command keeps there (R376, R377). What is no engine's transfer has no policy. -/
def State.policyOf (s : State) (who : Option Asker) (peer : Nat) : Word × Option Nat :=
  match who with
  | some (.copy id) =>
    (match s.pkg.copies.find? fun c => decide (c.id = id) with
     | some c => (c.policy, if c.policy.getLsbD 32 then none else (c.paths.find? fun x => decide (x.1 = peer)).map (·.2))
     | none => (0, none))
  | _ => (0, none)

/-- The path a packet takes to a peer, and the peer's table after that: transfers of engines rotate among ties (R376). A command that takes one path keeps it (R377). -/
def State.takePath (s : State) (key : Nat) (who : Option Asker) : Nat × State :=
  let q := (s.peer key).begin key s.gtime
  let (policy, kept) := s.policyOf who key
  let path := kept.getD ((pickPath (eligiblePaths q.paths s.gtime policy) (if who.isSome then q.turn else 16)).getD 0)
  match who with
  | some (.copy id) =>
    let s1 := s.setPeer key { q with turn := path }
    (path, s1.onPkg fun g => { g with copies := g.copies.map fun c =>
      if c.id = id ∧ (c.policy.getLsbD 32) = false ∧ kept = none then { c with paths := (key, path) :: c.paths } else c })
  | _ => (path, s.setPeer key q)

/-- Sends a packet to a peer under its next ESEQ and keeps it until it is acked. A request that a reply answers is held back while 1,024 of them have no answer (R361). -/
def State.sendPacket (s : State) (p : Packet) (who : Option Asker) (elem : Nat) (tag : Option (Nat × BitVec 32) := none) : Nat × State :=
  let (path, s0) := s.takePath p.dpkg who
  let q := s0.peer p.dpkg
  let p1 := { p with eseq := q.eseq, spkg := s.pkgNo }
  let held := replyBearing p.kind && decide (1024 ≤ q.asking)
  let s1 := s0.setPeer p.dpkg { q with eseq := q.eseq + 1, unacked := q.unacked ++ [⟨p1, who, elem, if held then 0 else 1, s.gtime, path, tag⟩] }
  (peerReq p.dpkg q.eseq, if held then s1 else s1.onPkg fun g => { g with pktOut := g.pktOut ++ [p1] })

/-- The package and the physical address a peer place names. -/
def peerPkg (loc : Nat) : Nat := (loc - 2 ^ 80) / 2 ^ 48
def peerPa (loc : Nat) : Nat := (loc - 2 ^ 80) % 2 ^ 48

/-- A packet of the current strand's job to a peer place (R359). -/
def State.mkPacket (s : State) (kind loc n key op : Nat) (sc : Scope) (data : List Byte) : Packet :=
  ⟨kind, 0, n, peerPkg loc, s.pkgNo, 0, key, op, sc, word (peerPa loc), s.cur.job, 0, 0, data, false, 1, 0⟩

/-- The kind of a wait for the value of a watermark elsewhere: the load's stall goes on, with its bound (R170). -/
def markKind : Nat := 255

/-- What a wait that asks a peer or the host keeps of the wait it goes on with: its kind, destination, bound and whether its deadline had passed. A load's stall keeps its bound while it asks for a watermark (`mark`), and is over once it asks for its elements (R170). -/
def Strand.kept (t : Strand) (mark : Bool) : Nat × BitVec 5 × Option Word × Bool :=
  match t.wait with
  | some ⟨.watermark _ _, _, _, b, _, _, _⟩ => if mark then (markKind, 0, b, false) else (0, 0, none, false)
  | some ⟨.polled, k, d, b, p, _, _⟩ => if k = markKind && !mark then (0, 0, none, false) else (k, d, b, p)
  | _ => (0, 0, none, false)

/-- Asks for bytes of a peer or the host that element `elem` of the current instruction reads; it waits until they are there, or for the fault the peer finds, whose record is `r` but for the code (R364, R339, R363); a record of `WATERMARK_EXPIRED` says that a watermark is asked for. A request under way is not sent again. Log 25 (DESIGN CHOICE). -/
def State.askRemote (s : State) (loc n key elem : Nat) (r : FaultRec) : State :=
  match s.cur.wait with
  | some ⟨.remote _, _, _, _, _, _, _⟩ => s
  | _ =>
    let (k, d, b, past) := s.cur.kept (decide (r.code = .watermarkExpired))
    if isHostLoc loc then
      let id := s.pkg.nextReq
      let s1 := s.onPkg fun p => { p with nextReq := id + 1, hostReqs := p.hostReqs ++ [⟨id, .strand s.cur.uid, loc - 2 ^ 64, n, none, 0, 0, elem, false⟩] }
      s1.waitOn (.remote id) k d b past (some r)
    else
      let (id, s1) := s.sendPacket (s.mkPacket 1 loc n key 0 .fab []) (some (.strand s.cur.uid)) elem
      s1.waitOn (.remote id) k d b past (some r)

/-! Release events (R264, R265, R225). -/

/-- The key of the current strand's job. -/
def State.curKey (s : State) : Nat := (s.jobRoot s.cur.job).2

/-- Fetched bytes of a remote range, where all are there. -/
def fetched (buf : SMap (Option Byte)) (loc : Nat) : Nat → Option (List Byte)
  | 0 => some []
  | n + 1 =>
    match buf.get none loc, fetched buf (loc + 1) n with
    | some b, some bs => some (b :: bs)
    | _, _ => none

/-- Whether a pending store is to be published: it has no tag, or its lock's generation still equals the tag (R225). The generation of a lock in a peer's memory is the one just fetched. -/
def State.tagLive (s : State) (p : Pend) : Bool :=
  match p.tag with
  | none => true
  | some (lock, g) =>
    if isHere lock then decide (BitVec.ofNat 32 (s.peekKey s.curKey (lock + 4) 4) = g)
    else decide ((fetched s.cur.buf (lock + 4) 4).map (fun b => BitVec.ofNat 32 (natOfBytes b)) = some g)

/-- A lock of a peer whose generation the publication of some stores has still to ask for, with the store that is tagged under it. -/
def State.genNeeded (s : State) (ps : List Pend) : Option (Pend × Nat) :=
  ps.findSome? fun p => match p.tag with
    | some (lock, _) => if isHere lock || (fetched s.cur.buf (lock + 4) 4).isSome then none else some (p, lock)
    | none => none

/-- Translates again the addresses of locks that stores are tagged under and whose places a shoot-down has dropped; or the failure, with the store's address (R304). -/
def State.findLocks (s : State) : List Pend → State × Option (Fail × Word)
  | [] => (s, none)
  | p :: ps =>
    match p.tag with
    | none => s.findLocks ps
    | some (lock, _) =>
      match staleVa lock with
      | none => s.findLocks ps
      | some va => match s.place s.cur va 4 (needOf .load) false with
        | (s1, .error f) => (s1, some (f, p.va))
        | (s1, .ok _) => s1.findLocks ps

/-- Goes on once the generations of the locks that stores are tagged under are known (R225, R304). -/
def State.withGens (s : State) (pick : Pend → Bool) (k : State → State) : State :=
  match s.findLocks (s.cur.pend.filter pick) with
  | (s1, some (f, va)) => s1.takeFault (s1.faultRec f va 3 0)
  | (s1, none) => match s1.genNeeded (s1.cur.pend.filter pick) with
    | some (p, lock) => s1.askRemote (lock + 4) 4 s1.curKey 0 (s1.faultRec (fail .fabricUnreachable) p.va 3 0)
    | none => k s1

/-- Where each store that is to be published goes: a global address is translated again, and a fault found then is the release's, with the store's address (R304). -/
def State.placeAll (s : State) : List Pend → State × Except (Fail × Word) (List (Pend × Nat × Nat))
  | [] => (s, .ok [])
  | p :: ps =>
    if !s.tagLive p then s.placeAll ps
    else if isNear p.va then
      match s.placeAll ps with
      | (s1, .ok l) => (s1, .ok ((p, p.loc, 0) :: l))
      | r => r
    else
      match s.place s.cur p.va p.n (needOf .store) false with
      | (s1, .error f) => (s1, .error (f, p.va))
      | (s1, .ok h) =>
        match s1.placeAll ps with
        | (s2, .ok l) => (s2, .ok ((p, h.loc, h.key) :: l))
        | r => r

/-- Performs one published store at its home, or sends it on its way (R264, R276); `rel` is the release that publishes it, if one does and is complete with it, and `rl` says whether one does; `join`: it is the second part of the block segment just performed (R278). -/
def State.publishOne (s : State) (rel : Option Nat) (rl join : Bool) (x : Pend × Nat × Nat) : State :=
  let (p, loc, key) := x
  if isHere loc then
    let i := if join then s.nextW - 1 else s.nextW
    (s.writeHome key loc p.n p.val p.n rel.toList (some s.cur.uid) join).onCur fun t => { t with hb := t.hb ||| 2 ^ i }
  else if isHostLoc loc then
    (s.onPkg fun g => { g with hostOut := g.hostOut ++ [⟨loc - 2 ^ 64, bytesOfNat p.n p.val, false⟩] }).noteFar loc p.n p.val rel.toList (some s.cur.uid)
  else
    let (id, s1) := s.sendPacket { s.mkPacket 3 loc p.n key 0 .fab (bytesOfNat p.n p.val) with rl := rl, unit := p.n } (some (.strand s.cur.uid)) p.va.toNat p.tag
    (s1.noteFar loc p.n p.val [] (some s.cur.uid)).onCur fun t => { t with out := id :: t.out }

/-- Performs published stores in their order; the two parts of a block segment follow one another (R278). -/
def State.publishAll (s : State) (rel : Option Nat) (rl : Bool) (last : Option Nat) : List (Pend × Nat × Nat) → State
  | [] => s
  | x :: xs => (s.publishOne rel rl (x.1.seg.isSome && decide (x.1.seg = last)) x).publishAll rel rl x.1.seg xs

/-- Of stores to be published in order, those to peers that are sent now: of several to one 64-byte line the first alone, so that they are placed in the order the strand issued them (R362). -/
def flagFar : (lines : List Nat) → List (Pend × Nat × Nat) → List ((Pend × Nat × Nat) × Bool)
  | _, [] => []
  | lines, x :: xs =>
    let (a, b) := (x.2.1 / 64, (x.2.1 + x.1.n - 1) / 64)
    if isPeerLoc x.2.1 then (x, !lines.contains a && !lines.contains b) :: flagFar (a :: b :: lines) xs else (x, false) :: flagFar lines xs

/-- Sends the stores to peers that may be sent now (`rl`: a release publishes them) and waits for their acks; the others stay pending, with `rest`. -/
def State.sendFar (s : State) (rl : Bool) (l : List (Pend × Nat × Nat)) (rest : List Pend) : State :=
  let fl := flagFar [] l
  (((s.publishAll none rl none ((fl.filter (·.2)).map (·.1))).onCur fun t => { t with pend := (fl.filter (!·.2)).map (·.1.1) ++ rest }).holdOn .fabricAck)

/-- The locks of this package that tagged stores on their way to peers go by, with those that are held open already: their generations stand still until the stores are placed (R225). -/
def State.tagLocks (s : State) (l : List (Pend × Nat × Nat)) : List Resv :=
  ((l.filterMap fun x => if isPeerLoc x.2.1 then x.1.tag.map fun t => Resv.lock t.1 else none) ++ s.cur.resv.filter Resv.isLock).eraseDups

/-- A release event of the current strand at a scope (R264, R265): every earlier store is published, tagged ones by R225. Stores to peers are sent first; when they are placed, those that stay here and at the host are published, the event is recorded, and `k` decides it, in one step. Meanwhile the objects of the release, and the locks whose tags the stores sent carry, are held open (`Resv`). Log 45 (DEDUCED). -/
def State.withRelease (s : State) (scope : Scope) (resv : List Resv) (k : Nat → State → State) : State :=
  if s.mstQueued then s.holdOn .mstDrain
  else s.withGens (fun _ => true) fun s =>
    match s.placeAll s.cur.pend with
    | (s1, .error (f, va)) => s1.takeFault (s1.faultRec f va 3 0)
    | (s1, .ok l) =>
      let held := s1.tagLocks l ++ resv
      if l.any fun x => isPeerLoc x.2.1 then (s1.sendFar true l []).onCur fun t => { t with resv := held }
      else if s1.cur.out ≠ [] then (s1.onCur fun t => { t with resv := held }).holdOn .fabricAck
      else
        let s2 := (s1.publishAll (some s1.nextRel) true none l).onCur fun t => { t with pend := [], resv := [] }
        let (id, s3) := s2.recordRelease s2.cur.sid scope s2.cur.past
        k id (s3.widen s3.cur.uid id scope)

/-- Publishes those pending stores of the current strand that a test picks, tagged ones by R225, and goes on; no release event (R270). Of a block segment both parts go together (R278). -/
def State.publishIf (s : State) (pick : Pend → Bool) (k : State → State) : State :=
  let picks (p : Pend) : Bool := pick p || (p.seg.isSome && s.cur.pend.any fun q => decide (q.seg = p.seg) && pick q)
  let mine := s.cur.pend.filter picks
  let go (s : State) : State :=
    if s.cur.out = [] then k (s.onCur fun t => { t with resv := t.resv.filter fun r => !r.isLock }) else s.holdOn .fabricAck
  if mine = [] then go s
  else s.withGens picks fun s =>
    match s.placeAll (s.cur.pend.filter picks) with
    | (s1, .error (f, va)) => s1.takeFault (s1.faultRec f va 3 0)
    | (s1, .ok l) =>
      let rest := s1.cur.pend.filter fun p => !picks p
      if l.any fun x => isPeerLoc x.2.1 then (s1.sendFar false l rest).onCur fun t => { t with resv := s1.tagLocks l ++ t.resv.filter fun r => !r.isLock }
      else go ((s1.publishAll none false none l).onCur fun t => { t with pend := rest })

/-- Publishes the pending stores to the bytes of one location (R270). -/
def State.publishAt (s : State) (loc n : Nat) (k : State → State) : State := s.publishIf (fun p => overlaps p.loc p.n loc n) k

/-! Loads and stores of one element (R94, R95, R240, R261). -/

/-- What loading an element gives: a value (and whether a void ring slot gave it), a failed check, bytes to be asked for (those of an element, or of a watermark over it), or a watermark stall. -/
inductive ElRes
  | ok (v : Nat) (void : Bool)
  | bad (f : Fail)
  | need (loc n key : Nat) (mark : Bool)
  | stall
deriving DecidableEq, Repr

/-- The code of the record a load's question to a peer or the host carries: of a watermark (R170), or of an element. -/
def askCode (mark : Bool) : FaultCode := if mark then .watermarkExpired else .fabricUnreachable

/-- The watermark registers whose region holds an element (R261). -/
def Strand.marksOver (t : Strand) (va : Word) (n : Nat) : List WReg :=
  (t.wregs.toList.filterMap id).filter fun w => decide (w.base.toNat ≤ va.toNat ∧ va.toNat + n ≤ w.base.toNat + w.len.toNat)

/-- Where a watermark object lies and its key, translated as a load of it; none when it cannot be read. -/
def State.markPlace (s : State) (w : WReg) : Option (Nat × Nat) :=
  match s.place s.cur w.obj 8 (needOf .load) false with
  | (_, .ok h) => some (h.loc, h.key)
  | (_, .error _) => none

/-- The raises of a watermark that stand behind its value: none of them where it has been lowered since the last (R261). -/
def standing (v : Nat) (l : List (Nat × Nat)) : List (Nat × Nat) := if (l.head?.any fun x => decide (v < x.1)) then [] else l

/-- The release of the `wmpub` that raised a watermark to cover what an element needs of it: the earliest raise that reaches so far (R261). -/
def coveringRaise (need : Nat) (l : List (Nat × Nat)) : List Nat := ((l.reverse.find? fun x => decide (need ≤ x.1)).map (·.2)).toList

/-- The value of a watermark object as the current strand has it: at its home, or as just fetched. -/
def State.markValue (s : State) (loc key : Nat) : Nat := if isHere loc then s.peekKey key loc 8 else ((fetched s.cur.buf loc 8).map natOfBytes).getD 0

/-- Whether an element may proceed past every watermark over it (R261). Past one whose object cannot be translated or read no element proceeds: the load stalls until `WATERMARK_EXPIRED`. Log 63 (DESIGN CHOICE). -/
def State.passes (s : State) (va : Word) (n : Nat) : Bool :=
  (s.cur.marksOver va n).all fun w =>
    match s.markPlace w with
    | some (loc, key) => decide (va.toNat + n - w.base.toNat ≤ s.markValue loc key)
    | none => false

/-- What an element that passes its watermarks is sure of beside what the strand is: the stores published with the raises that cover it (R261, R266). -/
def State.markAcquired (s : State) (va : Word) (n : Nat) : Nat :=
  (s.cur.marksOver va n).foldl (fun m w =>
    match s.markPlace w with
    | some (loc, key) =>
      s.acquired s.cur.sid (scopeOfLoc s.cur.sid loc) (coveringRaise (va.toNat + n - w.base.toNat) (standing (s.markValue loc key) (s.markRels.get [] loc))) m
    | none => m) 0

/-- Runs a load of an element with what its watermarks add, for that element alone: the strand's next acquire and its releases take it in (R261, R266). -/
def State.markedLoad {α : Type} (s : State) (va : Word) (n : Nat) (f : State → α × State) : α × State :=
  let m := s.markAcquired va n
  let (a, s1) := f (s.onCur fun t => { t with hb := t.hb ||| m })
  (a, s1.onCur fun t => { t with hb := s.cur.hb, soon := t.soon ||| m })

/-- A watermark of a peer or the host over an element whose value has still to be asked for. -/
def State.markNeeded (s : State) (va : Word) (n : Nat) : Option (Nat × Nat) :=
  (s.cur.marksOver va n).findSome? fun w => match s.markPlace w with
    | some (loc, key) => if isHere loc || (fetched s.cur.buf loc 8).isSome then none else some (loc, key)
    | none => none

/-- Loads one element: the checks of R94, watermarks, and the value (R268); Sable bytes are read as they stand (R240, R272). Poison of an element is found before its watermark is asked. Log 63 (DESIGN CHOICE). -/
def State.loadEl (s : State) (va : Word) (n : Nat) (kind : AccKind) : State × ElRes :=
  match s.check s.cur va n (needOf kind) with
  | (s1, .error f) => (s1, .bad f)
  | (s1, .ok h) =>
    match s1.markNeeded va n with
    | some (loc, key) => (s1, (s1.cur.refused.get none loc).elim (.need loc 8 key true) fun c => .bad (fail c))
    | none =>
    if !s1.passes va n then (s1, .stall)
    else
      if h.void then (s1, .ok 0 true)
      else if isHere h.loc then
        if h.sable then (s1, .ok (s1.peekKey h.key h.loc n) false)
        else
          let (v, s2) := s1.markedLoad va n fun s => s.loadHere h.key h.loc n
          (s2, .ok v false)
      else
        match fetched s1.cur.buf h.loc n with
        | some bs => (s1.heardFar h.loc bs, .ok (natOfBytes (overlayPend h.loc bs s1.cur.pend)) false)
        | none => (s1, (s1.cur.refused.get none h.loc).elim (.need h.loc n h.key false) fun c => .bad (fail c))

/-- The tag a store carries: the guard of a lock the strand holds that covers its bytes, named by their address or, through another window on the same near memory, by their place (R225); where the guards of two held locks overlap, the lock entered last. Log 63 (DESIGN CHOICE). -/
def State.tagFor (s : State) (va : Word) (loc : Nat) : Option (Nat × BitVec 32) :=
  (s.cur.guards.find? fun g =>
    let a := if isNearLoc loc then 2 ^ 100 + loc else canonVa s.cur.sid va
    let b := canonVa s.cur.sid g.base
    decide (b ≤ a ∧ a < b + g.len.toNat)).map fun g => (g.lock, g.gen)

/-- A write to Sable bytes, with the size of each of its locations: performed at once, and kept for the `hfree` that gives the region back, under its number among those kept; the second part of a block segment shares that of the first (R240, R250, R274). -/
def State.sableWrite (s : State) (key loc n v unit : Nat) (join : Bool) : State :=
  let i := (s.sable.head?.map (·.idx)).getD 0
  let w : WriteRec := ⟨if join then i else i + 1, loc, n, v % 256 ^ n, s.peek loc n, unit, [], none⟩
  { ((s.poke key loc (bytesOfNat n v)).cleanWhole loc n).notePartial loc n with sable := w :: s.sable }

/-- A store through a place already checked: pending (R264), or performed at once when it lies in a live Sable region (R240). -/
def State.keepStore (s : State) (va : Word) (h : Hit) (n v : Nat) : State :=
  if h.sable then s.sableWrite h.key h.loc n v n false
  else s.onCur fun t => { t with pend := t.pend ++ [⟨va, h.loc, n, v % 256 ^ n, s.tagFor va h.loc, none⟩] }

/-- Stores n bytes one by one, each a location of its own (R274). -/
def State.keepBytes (s : State) (va : Word) (h : Hit) : (n v : Nat) → State
  | 0, _ => s
  | n + 1, v => (s.keepStore va h 1 (v % 256)).keepBytes (va + 1) { h with loc := h.loc + 1 } n (v / 256)

/-- Stores the two parts of a block segment as one location (R274): pending under one number. Sable bytes are written at once (R240). -/
def State.keepSeg (s : State) (va : Word) (h : Hit) (n v : Nat) (va2 : Word) (h2 : Hit) (n2 v2 : Nat) : State :=
  if h.sable && h2.sable then (s.sableWrite h.key h.loc n v n false).sableWrite h2.key h2.loc n2 v2 n2 true
  else if h.sable || h2.sable then (s.keepStore va h n v).keepStore va2 h2 n2 v2
  else { s with
    ticket := s.ticket + 1
    cur := { s.cur with pend := s.cur.pend ++
      [⟨va, h.loc, n, v % 256 ^ n, s.tagFor va h.loc, some s.ticket⟩, ⟨va2, h2.loc, n2, v2 % 256 ^ n2, s.tagFor va2 h2.loc, some s.ticket⟩] } }

/-- Stores one element: checked, then pending (R264), or performed at once when it lies in a live Sable region (R240). -/
def State.storeEl (s : State) (va : Word) (n v : Nat) (kind : AccKind) : State × Option Fail :=
  match s.check s.cur va n (needOf kind) with
  | (s1, .error f) => (s1, some f)
  | (s1, .ok h) => (s1.keepStore va h n v, none)

/-- `wst.VOIDREAD` (R76). -/
def Strand.setVoidRead (t : Strand) : Strand := { t with wst := t.wst ||| 0x100#64 }

/-- Goes on with an access of n bytes once the rows that an earlier `mst` of the strand has still to write there are out (R180). Log 29 (DESIGN CHOICE). -/
def State.clearOfMst (s : State) (va : Word) (n : Nat) (kind : AccKind) (k : State → State) : State :=
  if s.mstQueued && (match (s.check s.cur va n (needOf kind)).2 with
    | .ok h => s.mstMeets h.loc n
    | .error _ => false) then s.holdOn .mstDrain
  else k s

/-- A scalar load (R94). -/
def State.loadScalar (s : State) (d a : BitVec 5) (off : Word) (n : Nat) (ext : Nat → Word) : State :=
  s.issue [a] [d] fun s =>
    let va := s.cur.getS a + off
    s.clearOfMst va n .load fun s =>
    match s.loadEl va n .load with
    | (s1, .ok v void) => (s1.onCur fun t => (if void then t.setVoidRead else t).setS d (ext v)).retire
    | (s1, .bad f) => s1.takeFault (s1.faultRec f va 2 0)
    | (s1, .need loc n key mark) => s1.askRemote loc n key 0 (s1.faultRec (fail (askCode mark)) va 2 0)
    | (s1, .stall) => s1.boundedWait (.watermark 0 [(va, n)]) (s1.faultRec (fail .watermarkExpired) va 2 0)

/-- A scalar store (R94). -/
def State.storeScalar (s : State) (a b : BitVec 5) (off : Word) (n : Nat) : State :=
  s.issue [a, b] [] fun s =>
    let va := s.cur.getS a + off
    s.clearOfMst va n .store fun s =>
    match s.storeEl va n (s.cur.getS b).toNat .store with
    | (s1, some f) => s1.takeFault (s1.faultRec f va 3 0)
    | (s1, none) => s1.retire

end Sys2Proof.Machine
end

