-- ==== Sys2Proof/Machine/Operands.lean ====
section
/-! DEFINITION. Operand forms: immediates and targets (R39), scalar operands of vector instructions, governing masks (R129), stream registers as sources (R171). -/

namespace Sys2Proof.Machine

/-! Immediates (R39, R93). -/

/-- imm12, sign-extended. -/
def imm12 (i : BitVec 12) : Word := i.signExtend 64
/-- imm20 × 4,096, sign-extended (`lui`, `aupc`). -/
def immU (i : BitVec 20) : Word := i.signExtend 64 <<< 12
/-- The target of a branch: pc + sext(imm12) × 4. -/
def branchTarget (pc : Word) (i : BitVec 12) : Word := pc + (i.signExtend 64 <<< 2)
/-- The target of `jal`: pc + sext(imm20) × 4. -/
def jalTarget (pc : Word) (i : BitVec 20) : Word := pc + (i.signExtend 64 <<< 2)
/-- The target of `jalr`: sa + sext(imm12) with bits 1:0 cleared. -/
def jalrTarget (a : Word) (i : BitVec 12) : Word := (a + i.signExtend 64) &&& ~~~3#64

/-- The offset of `vld` and its kin: off ÷ 64 as a signed 5-bit value (R29). -/
def off5 (o : BitVec 5) : Word := o.signExtend 64 <<< 6

/-! Loads' extensions (R94). -/

def sext8 (v : Nat) : Word := (BitVec.ofNat 8 v).signExtend 64
def sext16 (v : Nat) : Word := (BitVec.ofNat 16 v).signExtend 64
def sext32 (v : Nat) : Word := (BitVec.ofNat 32 v).signExtend 64

/-! Vector operands. -/

/-- N(t) at a grant of g lane groups (R127). -/
def countAt (g : Nat) (t : ElTy) : Nat := 512 * g / widthOf t

/-- N at the strand's `vty` and grant (R127). -/
def Strand.n (t : Strand) : Nat := countAt t.laneCount t.vty

/-- The governing mask a km field names; none is unmasked (R129). -/
def Strand.mask (t : Strand) (km : BitVec 5) : Option KReg := if km = 31 then none else some (t.getK km)

/-- The stream binding of a vector register: v24 to v31 may have one (R191). -/
def Strand.stream (t : Strand) (v : BitVec 5) : Option StreamBind := t.streams.get none v.toNat

/-- Whether any of the registers is a bound stream register (R62). -/
def Strand.anyStream (t : Strand) (vs : List (BitVec 5)) : Bool := vs.any (fun v => (t.stream v).isSome)

end Sys2Proof.Machine
end

