-- ==== Sys2Proof/Machine/Flags.lean ====
section
/-! DEFINITION. The sticky arithmetic flags, the rounding mode and the control registers that hold them (R79, R81, R122). -/

namespace Sys2Proof.Machine

/-- Raises flags: `fflags` is sticky (R122). -/
def Strand.raise (t : Strand) (f : Flags) : Strand := { t with fflags := t.fflags ||| f }

/-- The rounding mode a 3-bit field of an instruction gives: 0 to 5 its own, 6 that of `frm` (R53, R116). -/
def Strand.rnd (t : Strand) (r : BitVec 3) : Rnd :=
  match Rnd.ofCode r.toNat with
  | some m => m
  | none => t.frm

/-- The value of a CSR (R78, R79); an index the map does not list reads 0 (it never decodes). -/
def State.csrGet (s : State) (c : BitVec 12) : Word :=
  let t := s.cur
  match c.toNat with
  | 0x000 => s.jtime
  | 0x001 => s.gtime
  | 0x002 => t.dlDef
  | 0x003 => t.dlMax
  | 0x004 => t.wst
  | 0x005 => t.wabs
  | 0x006 => t.fetrap.setWidth 64
  | 0x010 => t.sid.setWidth 64
  | 0x011 => t.lvc.get 0
  | 0x012 => t.lvc.get 1
  | 0x013 => t.lvc.get 2
  | 0x014 => t.lvc.get 3
  | 0x015 => t.lvc.get 4
  | 0x016 => t.lvc.get 5
  | 0x017 => t.lvc.get 6
  | 0x018 => t.lvc.get 7
  | 0x019 => t.job.setWidth 64
  | 0x020 => word t.vty.code
  | 0x021 => t.grant.setWidth 64 ||| word (t.laneCount * 2 ^ 16)
  | 0x022 => t.vslip.setWidth 64
  | 0x023 => t.ffx.setWidth 64
  | 0x024 => t.efr.setWidth 64
  | 0x025 => word t.frm.code
  | 0x026 => t.fflags.setWidth 64
  | 0x027 => t.acw
  | 0x030 => t.tbud
  | 0x031 => t.tcap
  | 0x032 => t.trec
  | 0x040 => word ((if t.maint then 1 else 0) + (if t.mlease then 256 else 0))
  | 0x041 => word t.loops.length
  | _ => 0

/-- A write of a CSR: the strand after it, or nothing where a reserved bit is 1 or a field does not accept the value (R79). Writes of `dl.def` and `tbud` are clamped. -/
def Strand.csrSet (t : Strand) (c : BitVec 12) (v : Word) : Option Strand :=
  match c.toNat with
  | 0x002 => some { t with dlDef := if v.toNat ≤ t.dlMax.toNat then v else t.dlMax }
  | 0x006 => if v.toNat < 2 ^ 32 then some { t with fetrap := v.setWidth 32 &&& ~~~1#32 } else none
  | 0x020 => (ElTy.ofCode v.toNat).map (fun e => { t with vty := e })
  | 0x022 => if v.toNat < 16 then some { t with vslip := v.setWidth 4 } else none
  | 0x023 => if v.toNat < 2 ^ 16 then some { t with ffx := v.setWidth 16 } else none
  | 0x024 => if v.toNat < 2 ^ 32 then some { t with efr := v.setWidth 32 } else none
  | 0x025 => (Rnd.ofCode v.toNat).map (fun m => { t with frm := m })
  | 0x026 => if v.toNat < 64 then some { t with fflags := v.setWidth 6 } else none
  | 0x030 => some { t with tbud := if v.toNat ≤ t.tcap.toNat then v else t.tcap }
  | _ => none

/-- The CSRs whose access waits for the strand's queued vector work (R81). -/
def csrDrains (c : BitVec 12) : Bool :=
  decide (c.toNat = 0x023 ∨ c.toNat = 0x024 ∨ c.toNat = 0x026 ∨ c.toNat = 0x027 ∨ c.toNat = 0x004)

/-- Waits until every queued vector instruction of the strand has completed (R81, R103). Log 7 (DEDUCED). -/
def State.drained (s : State) (k : State → State) : State :=
  if s.cur.vq ≠ [] then s.holdOn .vecDrain else if s.mrdQueued then s.holdOn .mrdDrain else k s

end Sys2Proof.Machine
end

