-- ==== Sys2Proof/Machine/Vector.lean ====
section
/-! DEFINITION. What every vector instruction does at its issue and at its end (R126 to R137, R171, R191): scalar operands, strips of stream registers, the issue and lane checks, the scalar destination the vector unit fills. -/

namespace Sys2Proof.Machine

/-! The classes of types of R137. -/

def tyIF (t : ElTy) : Bool := isInt t || isF t
def tyIFE (t : ElTy) : Bool := isInt t || isF t || isE t
def tyAll (_ : ElTy) : Bool := true
/-- `vldx`, `vstx`, `vstxa`, `vamo`, `wopen`: codes 2, 3, 6, 7 and `.f32`. -/
def tyWide : ElTy → Bool
  | .i32 | .i64 | .z32 | .z64 | .f32 => true
  | _ => false
/-- `vrsumw`: codes 0 to 2 and 4 to 6, `.bf16`, `.f16`. -/
def tySumw : ElTy → Bool
  | .i8 | .i16 | .i32 | .z8 | .z16 | .z32 | .bf16 | .f16 => true
  | _ => false

/-- What a strand must hold for an instruction to issue: a type the instruction takes, and for one that rounds under `frm` at a floating type no efb (R79, R137, R141). -/
def Strand.takes (t : Strand) (ty : ElTy → Bool) (rounds : Bool) : Bool :=
  ty t.vty && !(rounds && isF t.vty && decide (t.frm = .efb))

/-! Strips of bound stream registers (R171, R191, R193). -/

/-- The port that serves a bound stream register of the current strand; one whose binding still waits in its port's queue has no strips (R191). -/
def State.streamPort (s : State) (v : BitVec 5) (b : StreamBind) : Port :=
  let p := s.portOf s.curCore b.port
  if p.active && decide (p.bound = some (s.cur.uid, v)) then p else Port.free

/-- The next strip of a register that names a bound stream register is not there yet. -/
def State.stripMissing (s : State) (v : BitVec 5) : Bool :=
  match s.cur.stream v with
  | none => false
  | some b => (s.streamPort v b).strips.isEmpty

/-- The strip of a source register, laid out as `vld` would load it. -/
def State.takeStrip (s : State) (v : BitVec 5) : State :=
  match s.cur.stream v with
  | none => s
  | some b => match (s.streamPort v b).strips with
    | [] => s
    | x :: _ => s.onCur fun t => t.setV v (BitVec.ofNat 8192 x)

/-- A source strip is missing: the port's fault is this instruction's, and the port may then try the strip again; else a register wait of access kind 5 (R171, R193). -/
def State.stripWait (s : State) (v : BitVec 5) : State :=
  match s.cur.stream v with
  | none => s
  | some b => match (s.streamPort v b).fault with
    | some (c, va) => (s.onPort s.curCore b.port fun p => { p with fault := none }).faultCode c va 6 0
    | none => s.boundedWait (.port b.port) (s.faultRec (fail .regWaitExpired) (v.setWidth 64) 5 0)

/-- Goes on with the source strips in their registers, or waits for the first that is missing. -/
def State.strips (s : State) (vs : List (BitVec 5)) (k : State → State) : State :=
  match vs.find? s.stripMissing with
  | some v => s.stripWait v
  | none => k (vs.foldl State.takeStrip s)

/-- One strip of a bound stream register is consumed. -/
def State.eatStrip (s : State) (v : BitVec 5) : State :=
  match s.cur.stream v with
  | none => s
  | some b => (s.onPort s.curCore b.port fun p => { p with strips := p.strips.tail }).onCur fun t =>
      { t with streams := t.streams.set none v.toNat (some { b with next := b.next + 1 }) }

/-- A vector instruction completes: one strip of each stream register it names as a source is consumed (R171). -/
def State.vdone (s : State) (vs : List (BitVec 5)) : State := (vs.eraseDups.foldl State.eatStrip s).retire

/-- The issue of a vector instruction: scalar operands (R71), source strips (R171), issue checks (R62, R137), lanes (R128), in the order of R106; the vector unit takes it up behind the strand's `mrd`s (R133, R179). Log 7, 32 (DEDUCED). -/
def State.vissue (s : State) (srcs dsts vsrcs vdsts : List (BitVec 5)) (ok : Strand → Bool) (k : State → State) : State :=
  s.issue srcs dsts fun s => s.strips vsrcs fun s =>
    if s.cur.anyStream vdsts || !ok s.cur then s.faultCode .illegalOperand 0 0 0
    else if s.cur.laneCount = 0 then s.faultCode .noLanes 0 0 0
    else if s.mrdQueued then s.holdOn .mrdDrain
    else k s

/-- A scalar result of the vector unit: the destination is marked empty now and filled when the queue gets there (R134). Log 7 (DEDUCED). -/
def State.vscalar (s : State) (d : BitVec 5) (v : Word) : State :=
  s.onCur fun t => { t.markEmpty d with vq := t.vq ++ [⟨d, v⟩] }

/-- A vector destination written at its active positions by `f old i`, with the flags raised (R122, R129, R130). -/
def Strand.putActive (t : Strand) (d k : BitVec 5) (f : VReg → Nat → Nat × Flags) : Strand :=
  let old := t.getV d
  let r := writeActive (widthOf t.vty) t.n (t.mask k) old (f old)
  (t.setV d r.1).raise r.2

/-- The low w bits of a scalar register as an element of `vty` (R141). -/
def Strand.scalarEl (t : Strand) (b : BitVec 5) : Nat := (t.getS b).toNat % 2 ^ widthOf t.vty

end Sys2Proof.Machine
end

