-- ==== Sys2Proof/Machine/VConfig.lean ====
section
/-! DEFINITION. VCFG (R138 to R140, R166, R168): the element type, strips, accumulation windows. -/

namespace Sys2Proof.Machine

/-- `vtype`: the old code to sd, then the new type (R138). -/
def execVtype (d t : BitVec 5) (s : State) : Result :=
  .next (s.issue [] [d] fun s =>
    match ElTy.ofCode t.toNat with
    | none => s.faultCode .illegalOperand 0 0 0
    | some e => (s.onCur fun t => { t.setS d (word t.vty.code) with vty := e }).retire)

/-- `vlmax`: N, which is 0 on a control strand (R128, R139). -/
def execVlmax (d : BitVec 5) (s : State) : Result :=
  .next (s.issue [] [d] fun s => (s.onCur fun t => t.setS d (word t.n)).retire)

/-- A mask whose bits 0 to c - 1 are 1. -/
def firstBits (c : Nat) : KReg := BitVec.ofNat 2048 (2 ^ c - 1)

/-- `strip`: sd := min(sa, N), and a mask of that many bits (R140). -/
def execStrip (d a k : BitVec 5) (s : State) : Result :=
  .next (s.vissue [a] [d] [] [] (fun t => t.takes tyAll false) fun s =>
    let c := Nat.min (s.cur.getS a).toNat s.cur.n
    (s.onCur fun t => (t.setS d (word c)).setK k (firstBits c)).retire)

/-- `acw` of an open window (R79). -/
def mkAcw (off len : Nat) (ty : ElTy) : Word := word (off + len * 2 ^ 22 + ty.code * 2 ^ 44 + 2 ^ 63)
def acwOpen (a : Word) : Bool := a.getLsbD 63
def acwBase (a : Word) : Nat := a.toNat % 2 ^ 22
def acwLen (a : Word) : Nat := a.toNat / 2 ^ 22 % 2 ^ 22
def acwType (a : Word) : Option ElTy := ElTy.ofCode (a.toNat / 2 ^ 44 % 32)
/-- Base of the own-scratchpad window. -/
def ownBase : Word := 0xF000000000000000#64

/-- `wopen`: opens an accumulation window; every lane group's copy is untouched (R166). -/
def execWopen (a b : BitVec 5) (s : State) : Result :=
  .next (s.vissue [a, b] [] [] [] (fun t => t.takes tyWide false) fun s =>
    let va := s.cur.getS a
    let len := (s.cur.getS b).toNat
    let off := va.toNat % 2 ^ 56
    if va.toNat / 2 ^ 56 = 0xF0 ∧ off % 64 = 0 ∧ len % 64 = 0 ∧ 64 ≤ len ∧ len ≤ 16384 ∧ off + len ≤ 2 ^ 21 ∧
        acwOpen s.cur.acw = false then
      (s.onCur fun t => { t with acw := mkAcw off len t.vty, window := [] }).retire
    else s.faultCode .illegalOperand 0 0 0)

/-- Puts the first addend of a copy element into its place in the order of group and offset (R168). -/
def winInsert (e : WinEl) : List WinEl → List WinEl
  | [] => [e]
  | x :: xs => if x.group < e.group ∨ (x.group = e.group ∧ x.off < e.off) then x :: winInsert e xs else e :: x :: xs

/-- Adds to an element of a lane group's copy (R167). The rules give no value an untouched element starts from: the model stores the first addend as it is, not +0 plus it, which differs for −0, and raises no flag. The flags of an `.f32` sum are the instruction's (R117, R122). Log 63 (DESIGN CHOICE). -/
def winAdd (ty : ElTy) (g off v : Nat) (l : List WinEl) : List WinEl × Flags :=
  let here (x : WinEl) : Bool := decide (x.group = g ∧ x.off = off)
  match l.find? here with
  | some x =>
    let r := addEl ty .rne x.val v
    (l.map fun x => if here x then { x with val := r.1 } else x, r.2)
  | none => (winInsert ⟨g, off, v⟩ l, 0)

/-- Merges touched elements in order: memory := round(memory + copy, rne), or the wrapped sum (R168). The first element whose access fails names the fault, and nothing is then performed. Log 33 (DEDUCED). -/
def State.mergeAll (s : State) (ty : ElTy) : List WinEl → State × Option (Fail × Word)
  | [] => (s, none)
  | x :: xs =>
    let va := ownBase + word x.off
    let n := widthOf ty / 8
    match s.check s.cur va n (needOf .vamo) with
    | (_, .error f) => (s, some (f, va))
    | (s1, .ok h) =>
      let (m, s2) := if h.sable then (s1.peekKey h.key h.loc n, s1) else s1.loadHere h.key h.loc n
      match s2.storeEl va n (addEl ty .rne m x.val).1 .vecStore with
      | (s3, none) => s3.mergeAll ty xs
      | (_, some f) => (s, some (f, va))

/-- `wmerge`: adds the touched elements into memory and closes the window (R168). Log 33 (DEDUCED). -/
def execWmerge (a : BitVec 5) (s : State) : Result :=
  .next (s.vissue [a] [] [] [] (fun _ => true) fun s => s.afterMst fun s =>
    if acwOpen s.cur.acw && decide (s.cur.getS a = ownBase + word (acwBase s.cur.acw)) then
      match acwType s.cur.acw with
      | none => s.faultCode .illegalOperand 0 0 0
      | some ty =>
        match s.mergeAll ty s.cur.window with
        | (s1, none) => (s1.onCur fun t => { t with acw := 0, window := [] }).retire
        | (_, some (f, va)) => s.takeFault (s.faultRec f va 7 0)
    else s.faultCode .illegalOperand 0 0 0)

end Sys2Proof.Machine
end

