-- ==== Sys2Proof/Machine/VConvert.lean ====
section
/-! DEFINITION. VCVT: conversions between types, packing and unpacking of blocks (R113, R115, R119 to R121, R148 to R151). -/

namespace Sys2Proof.Machine

/-- Whether `vcvt` (`sat` false) or `vcvt.sat` takes a pair of types under a mode (R119, R151). -/
def cvtOk (sat : Bool) (src dst : ElTy) (m : Rnd) : Bool :=
  !isBlock src && !isBlock dst && (sat || decide (dst ≠ .e2m1)) &&
  (decide (m ≠ .efb) || (decide (8 ≤ dst.code) && decide (dst ≠ .e8m0)))

/-- The residual of an efb chain as a value, and back (R79, R120). -/
def residual (r : BitVec 32) : FVal := decodeF fmtF32 r.toNat
def residualBits (x : FVal) : BitVec 32 := BitVec.ofNat 32 (roundF .f32 fmtF32 .rne x).1

/-- The effect of a conversion on the strand (R120, R121, R148). -/
def Strand.convert (t : Strand) (sat : Bool) (d a k : BitVec 5) (src : ElTy) (m : Rnd) : Strand :=
  let ws := widthOf src
  let wt := widthOf t.vty
  let p := t.vbits / Nat.max ws wt
  let va := t.getV a
  let old := t.getV d
  if m = .efb then
    let r := efbChain src t.vty sat ((List.range p).map fun i => (active (t.mask k) p i, elemAt ws va i)) (residual t.efr)
    let els := (List.range p).map fun i => (r.1.getD i none).getD (elemAt wt old i)
    { ((t.setV d (putEls wt old els)).raise r.2.2) with efr := residualBits r.2.1 }
  else
    let r := writeActive wt p (t.mask k) old fun i => convertEl src t.vty m sat (elemAt ws va i)
    (t.setV d r.1).raise r.2

/-- `vcvt` and `vcvt.sat` share their issue. -/
def State.vconv (s : State) (sat : Bool) (d a k sc : BitVec 5) (r : BitVec 3) : State :=
  match ElTy.ofCode sc.toNat with
  | none => s.faultCode .illegalOperand 0 0 0
  | some src => s.vissue [] [] [a] [d] (fun t => cvtOk sat src t.vty (t.rnd r)) fun s =>
      (s.onCur fun t => t.convert sat d a k src (t.rnd r)).vdone [a]

/-- `vcvt` (R121, R148). -/
def execVcvt (d a k sc : BitVec 5) (r : BitVec 3) (s : State) : Result := .next (s.vconv false d a k sc r)

/-- `vcvt.sat` (R121, R148). -/
def execVcvtSat (d a k sc : BitVec 5) (r : BitVec 3) (s : State) : Result := .next (s.vconv true d a k sc r)

/-- The scale bytes of block j in the second register (R115). -/
def scaleAt (ty : ElTy) (sv : VReg) (j : Nat) : Nat × Nat :=
  if isTwin ty then (elemAt 8 sv (2 * j), elemAt 8 sv (2 * j + 1)) else (elemAt 8 sv j, elemAt 8 sv j)

/-- The scale bytes of the blocks of a register pair, `none` keeping the old ones (R115). -/
def putScales (ty : ElTy) (old : VReg) (blocks : List (Option (Nat × Nat))) : VReg :=
  putEls 8 old (blocks.zipIdx.flatMap fun b =>
    let was := scaleAt ty old b.2
    let x := b.1.getD was
    if isTwin ty then [x.1, x.2] else [x.1])

/-- `vpack` on the strand (R113, R115, R149). -/
def Strand.pack (t : Strand) (d a k : BitVec 5) (src : ElTy) (m : Rnd) : Strand :=
  let ws := widthOf src
  let wt := widthOf t.vty
  let p := t.vbits / ws
  let va := t.getV a
  let old := t.getV d
  let blocks : List (Option Packed) := (List.range ((p + 31) / 32)).map fun j =>
    let els := (List.range 32).map fun i =>
      if active (t.mask k) p (32 * j + i) then some (elemVal src (elemAt ws va (32 * j + i))) else none
    if els.any Option.isSome then some (packBlock t.vty m els) else none
  let codes := blocks.zipIdx.flatMap fun b => (List.range 32).map fun i =>
    match b.1 with
    | some q => (q.codes.getD i none).getD (elemAt wt old (32 * b.2 + i))
    | none => elemAt wt old (32 * b.2 + i)
  let fl := blocks.foldl (fun f b => match b with
    | some q => f ||| q.flags
    | none => f) 0
  let t1 := t.setV d (putEls wt old codes)
  (t1.setV (d + 1) (putScales t.vty (t1.getV (d + 1)) (blocks.map fun b => b.map fun q => (q.x0, q.x1)))).raise fl

/-- `vpack`: elements to vd, scales to vd + 1, neither a bound stream register (R149 to R151). -/
def execVpack (d a k sc : BitVec 5) (r : BitVec 3) (s : State) : Result :=
  .next (match ElTy.ofCode sc.toNat with
  | none => s.faultCode .illegalOperand 0 0 0
  | some src => s.vissue [] [] [a] [d, d + 1] (fun t => isF src && isBlock t.vty && decide (t.rnd r ≠ .efb)) fun s =>
      (s.onCur fun t => t.pack d a k src (t.rnd r)).vdone [a])

/-- `vunpk`: elements from va and scales from va + 1, rounded to `vty` with rne (R115, R149 to R151). -/
def execVunpk (d a k sc : BitVec 5) (s : State) : Result :=
  .next (match ElTy.ofCode sc.toNat with
  | none => s.faultCode .illegalOperand 0 0 0
  | some src => s.vissue [] [] [a] [d, a + 1] (fun t => isBlock src && isF t.vty) fun s =>
      (s.onCur fun t =>
        let va := t.getV a
        let sv := t.getV (a + 1)
        t.putActive d k fun _ i =>
          let x := scaleAt src sv (i / 32)
          roundTo t.vty .rne (blockVal src x.1 x.2 (elemAt (widthOf src) va i))).vdone [a])

end Sys2Proof.Machine
end

