-- ==== Sys2Proof/Machine/VMemory.lean ====
section
/-! DEFINITION. Vector loads and stores (R152 to R164), formatted pages (R158 to R162), scatters into an accumulation window (R167). -/

namespace Sys2Proof.Machine

/-- One access of a vector instruction: element i, field j of it, its address. -/
structure VAcc where
  i : Nat
  j : Nat
  va : Word
deriving DecidableEq, Repr

/-- Where a sequence of element loads stops: done, at a failed check, for bytes of a peer or the host, at a watermark. -/
inductive VStop
  | done
  | bad (i : Nat) (va : Word) (f : Fail)
  | need (i : Nat) (va : Word) (loc n key : Nat) (mark : Bool)
  | stall (i : Nat) (va : Word) (span : List (Word × Nat))
deriving DecidableEq, Repr

/-- What a sequence of loads gives: the values by element and field, whether a void slot was read, where it stopped. -/
structure VGot where
  vals : List (Nat × Nat × Nat)
  void : Bool
  stop : VStop
deriving DecidableEq, Repr

/-- The checks of the elements behind one that fails, which are made before its fault is raised (R154). -/
def State.checkRest (s : State) (n : Nat) (xs : List VAcc) : State := xs.foldl (fun a x => (a.check a.cur x.va n (needOf .vecLoad)).1) s

/-- Loads accesses in order up to the first that does not pass (R153); the checks of those behind it are made as well where `rest` says so (R154). -/
def State.loadSeq (s : State) (n : Nat) (rest : Bool) : List VAcc → State × VGot
  | [] => (s, ⟨[], false, .done⟩)
  | x :: xs =>
    match s.loadEl x.va n .vecLoad with
    | (s1, .ok v void) =>
      let r := s1.loadSeq n rest xs
      (r.1, ⟨(x.i, x.j, v) :: r.2.vals, void || r.2.void, r.2.stop⟩)
    | (s1, .bad f) => (if rest then s1.checkRest n xs else s1, ⟨[], false, .bad x.i x.va f⟩)
    | (s1, .need loc m key mark) => (s1, ⟨[], false, .need x.i x.va loc m key mark⟩)
    | (s1, .stall) => (s1, ⟨[], false, .stall x.i x.va [(x.va, n)]⟩)

/-- Stores accesses in order, `f i j` the value of field j of element i, up to the first that fails. -/
def State.storeSeq (s : State) (n : Nat) (f : Nat → Nat → Nat) : List VAcc → State × Option (Nat × Word × Fail)
  | [] => (s, none)
  | x :: xs =>
    match s.storeEl x.va n (f x.i x.j) .vecStore with
    | (s1, none) => s1.storeSeq n f xs
    | (s1, some e) => (s1, some (x.i, x.va, e))

/-- The state after accesses that come to nothing: what the strand has seen is what it had seen (R95). -/
def State.keepView (s1 s : State) : State := s1.onCur fun t => { t with obs := s.cur.obs, hb := s.cur.hb, soon := s.cur.soon }

/-- A vector memory fault at element i (R131, R153). For a check on the start address alone, of which the rules name no element, i is 0. Log 63 (DESIGN CHOICE). -/
def State.vecFault (s : State) (i : Nat) (va : Word) (f : Fail) (kind : Nat) : State :=
  s.takeFault { s.faultRec f va kind 0 with elem := some i }

/-- A vector load that stopped short of its end, its earlier loads come to nothing (R154, R170). -/
def State.vecStop (s1 s : State) (st : VStop) (k : State) : State :=
  match st with
  | .done => k
  | .bad i va f => (s1.keepView s).vecFault i va f 6
  | .need i va loc n key mark => (s1.keepView s).askRemote loc n key i { s1.faultRec (fail (askCode mark)) va 6 0 with elem := some i }
  | .stall i va span => (s1.keepView s).boundedWait (.watermark i span) { s1.faultRec (fail .watermarkExpired) va 6 0 with elem := some i }

/-- The value loaded for a field of an element. -/
def VGot.get? (g : VGot) (i j : Nat) : Option Nat :=
  (g.vals.find? (fun x => decide (x.1 = i ∧ x.2.1 = j))).map (·.2.2)

/-- The accesses of the active elements, in order. -/
def Strand.accs (t : Strand) (k : BitVec 5) (f : Nat → Word) : List VAcc :=
  (activeList (t.mask k) t.n).map fun i => ⟨i, 0, f i⟩

/-- `VOIDREAD` where a void slot was read (R155). -/
def Strand.noteVoid (t : Strand) (v : Bool) : Strand := if v then t.setVoidRead else t

/-- A vector load at addresses `f i` (R152 to R155). -/
def State.vload (s : State) (d k : BitVec 5) (ss vs : List (BitVec 5)) (ty : ElTy → Bool) (f : Strand → Nat → Word) : State :=
  s.vissue ss [] vs [d] (fun t => t.takes ty false) fun s => s.afterMst fun s =>
    let w := widthOf s.cur.vty
    let (s1, g) := s.loadSeq (w / 8) true (s.cur.accs k (f s.cur))
    s1.vecStop s g.stop ((s1.onCur fun t =>
      (t.putActive d k fun old i => ((g.get? i 0).getD (elemAt w old i), 0)).noteVoid g.void).vdone vs)

/-- sa + off + i × w/8 (R152). -/
def Strand.unitAddr (t : Strand) (a o : BitVec 5) (i : Nat) : Word := t.getS a + off5 o + word (i * (widthOf t.vty / 8))
/-- sa + i × sb (R152). -/
def Strand.strideAddr (t : Strand) (a b : BitVec 5) (i : Nat) : Word := t.getS a + word i * t.getS b
/-- sa + vb[i], unsigned at w (R152). -/
def Strand.indexAddr (t : Strand) (a b : BitVec 5) (i : Nat) : Word := t.getS a + word (elemAt (widthOf t.vty) (t.getV b) i)

/-- `vld` (R152). -/
def execVld (d a k o : BitVec 5) (s : State) : Result := .next (s.vload d k [a] [] tyIFE fun t i => t.unitAddr a o i)
/-- `vlds` (R152). -/
def execVlds (d a b k : BitVec 5) (s : State) : Result := .next (s.vload d k [a, b] [] tyIFE fun t i => t.strideAddr a b i)
/-- `vldx` (R152). -/
def execVldx (d a b k : BitVec 5) (s : State) : Result := .next (s.vload d k [a] [b] tyWide fun t i => t.indexAddr a b i)

/-- `vldff`: as `vld`, but a failure past the lowest active element only ends the load there (R156). -/
def execVldff (d a k o : BitVec 5) (s : State) : Result :=
  .next (s.vissue [a] [] [] [d] (fun t => t.takes tyIFE false) fun s => s.afterMst fun s =>
    let w := widthOf s.cur.vty
    let (s1, g) := s.loadSeq (w / 8) false (s.cur.accs k (s.cur.unitAddr a o))
    let put (x : Nat) : State := (s1.onCur fun t =>
      { (t.putActive d k fun old i => ((g.get? i 0).getD (elemAt w old i), 0)).noteVoid g.void with ffx := BitVec.ofNat 16 x }).retire
    match g.stop with
    | .bad i va f => if g.vals = [] then (s1.keepView s).vecFault i va f 6 else put i
    | st => s1.vecStop s st (put s.cur.n))

/-- A vector store at addresses `f i`: exactly the active elements below the first that faults are written (R163, R164). Log 34 (DEDUCED). -/
def State.vstore (s : State) (d k : BitVec 5) (ss vs : List (BitVec 5)) (ty : ElTy → Bool) (f : Strand → Nat → Word) : State :=
  s.vissue ss [] (d :: vs) [] (fun t => t.takes ty false) fun s => s.afterMst fun s =>
    let w := widthOf s.cur.vty
    match s.storeSeq (w / 8) (fun i _ => elemAt w (s.cur.getV d) i) (s.cur.accs k (f s.cur)) with
    | (s1, none) => s1.vdone (d :: vs)
    | (s1, some (i, va, e)) => s1.vecFault i va e 7

/-- `vst` (R152, R163). -/
def execVst (d a k o : BitVec 5) (s : State) : Result := .next (s.vstore d k [a] [] tyIFE fun t i => t.unitAddr a o i)
/-- `vsts` (R152, R163). -/
def execVsts (d a b k : BitVec 5) (s : State) : Result := .next (s.vstore d k [a, b] [] tyIFE fun t i => t.strideAddr a b i)
/-- `vstx` (R152, R163). -/
def execVstx (d a b k : BitVec 5) (s : State) : Result := .next (s.vstore d k [a] [b] tyWide fun t i => t.indexAddr a b i)

/-! Segments (R157). -/

/-- The types fields and elements of segments may have. -/
def tySeg (t : ElTy) : Bool := isInt t || isF t || decide (t = .e4m3 ∨ t = .e5m2)

/-- A pair of a field type and `vty` that is accepted (R157). -/
def Strand.segOk (t : Strand) (f : ElTy) : Bool :=
  tySeg f && tySeg t.vty && decide (isInt f = isInt t.vty) && (isInt f || decide (t.frm ≠ .efb))

/-- A conversion between a field type and `vty` (R157). -/
def segConv (src dst : ElTy) (m : Rnd) (c : Nat) : Nat × Flags :=
  if isInt src then intToInt src dst false c else roundTo dst m (elemVal src c)

/-- The accesses of the fields of the active elements (R152): n fields of bytes `fb`. -/
def Strand.segAccs (t : Strand) (a k : BitVec 5) (n fb : Nat) : List VAcc :=
  (activeList (t.mask k) t.n).flatMap fun i => (List.range n).map fun j => ⟨i, j, t.getS a + word ((i * n + j) * fb)⟩

/-- The vector registers of a segment form. -/
def segRegs (d : BitVec 5) (n : Nat) : List (BitVec 5) := (List.range n).map fun j => d + BitVec.ofNat 5 j

/-- Writes one register of a segment load from the values loaded, with its flags. -/
def Strand.putField (t : Strand) (d k : BitVec 5) (f : ElTy) (g : VGot) (j : Nat) : Strand :=
  t.putActive (d + BitVec.ofNat 5 j) k fun old i =>
    match g.get? i j with
    | some c => segConv f t.vty t.frm c
    | none => (elemAt (widthOf t.vty) old i, 0)

/-- `vldsegN.f` (R157); the field holds N + 2. -/
def execVldseg (d a n k t : BitVec 5) (s : State) : Result :=
  .next (match ElTy.ofCode t.toNat with
  | none => s.faultCode .illegalOperand 0 0 0
  | some f =>
    let cnt := n.toNat - 2
    s.vissue [a] [] [] (segRegs d cnt) (fun t => t.segOk f) fun s => s.afterMst fun s =>
      let fb := widthOf f / 8
      let (s1, g) := s.loadSeq fb true (s.cur.segAccs a k cnt fb)
      s1.vecStop s g.stop ((s1.onCur fun t =>
        ((List.range cnt).foldl (fun t j => t.putField d k f g j) t).noteVoid g.void).retire))

/-- `vstsegN.f` (R157, R163, R164). Log 34 (DEDUCED). -/
def execVstseg (d a n k t : BitVec 5) (s : State) : Result :=
  .next (match ElTy.ofCode t.toNat with
  | none => s.faultCode .illegalOperand 0 0 0
  | some f =>
    let cnt := n.toNat - 2
    s.vissue [a] [] (segRegs d cnt) [] (fun t => t.segOk f) fun s => s.afterMst fun s =>
      let fb := widthOf f / 8
      let w := widthOf s.cur.vty
      let conv (i j : Nat) : Nat × Flags := segConv s.cur.vty f s.cur.frm (elemAt w (s.cur.getV (d + BitVec.ofNat 5 j)) i)
      let accs := s.cur.segAccs a k cnt fb
      match s.storeSeq fb (fun i j => (conv i j).1) accs with
      | (s1, none) => (s1.onCur fun t => t.raise (accs.foldl (fun fl x => fl ||| (conv x.i x.j).2) 0)).vdone (segRegs d cnt)
      | (_, some (i, va, e)) => (s.storeSeq fb (fun i j => (conv i j).1) (accs.filter (fun x => decide (x.i < i)))).1.vecFault i va e 7)

/-! Formatted pages (R158 to R162). -/

/-- The block type a page's format tag names (R291). -/
def fmtTy (e : Word) : Option ElTy := if eFmt e = 0 then none else if eFmt e ≤ 5 then ElTy.ofCode (13 + eFmt e) else none

/-- Logical elements for each byte of a logical address. -/
def perByte (t : ElTy) : Nat := if widthOf t = 4 then 2 else 1

/-- Offsets of block b's element bytes and scale bytes within its unit, for a geometry (R114). Log 30 (DEDUCED). -/
def blockAt (t : ElTy) (geom b : Nat) : Nat × Nat :=
  let eb := blockElemBytes t
  let sb := scaleBytes t
  if geom = 0 then
    let g := b / 16 * (16 * (eb + sb))
    (g + b % 16 * eb, g + 16 * eb + b % 16 * sb)
  else (b * eb, (if eb = 32 then 4096 * 32 else 8192 * 16) + b * sb)

/-- A block a formatted access meets: its type, and the addresses, places and key of its element bytes and scale bytes. -/
structure Blk where
  ty : ElTy
  eva : Word
  sva : Word
  eh : Hit
  sh : Hit
deriving DecidableEq, Repr

/-- What a format access needs of a leaf (R293). -/
def needFmt (write : Bool) : Need := ⟨!write, write, false, true, false, false, true⟩

/-- The logical address of element e0 + i of a formatted access that starts at an address (R158). -/
def fmtAddr (start : Word) (per i : Nat) : Word :=
  let u0 := start.toNat % 2 ^ 18
  start - word u0 + word ((u0 * per + i) / per)

/-- The checks of one element of a formatted access, in the order of R158. `want` is the type `vldb` asks for. Log 31 (DEDUCED). -/
def State.fmtCheck (s : State) (start : Word) (i : Nat) (write : Bool) (want : Option ElTy) (per : Nat) : State × Except Fail Blk :=
  let u0 := start.toNat % 2 ^ 18
  let u := (u0 * per + i) / per
  match s.place s.cur (fmtAddr start per i) 1 (needFmt write) false with
  | (s1, .error f) => (s1, .error f)
  | (s1, .ok h) =>
    let e := h.leaf.getD 0
    match fmtTy e with
    | none => (s1, .error (h.fail .pageProtection))
    | some ty =>
      if eGeom e ≥ 2 ∨ (want.isSome ∧ want ≠ some ty) then (s1, .error (h.fail .pageProtection))
      else if u ≥ 0x20000 then (s1, .error (h.fail .pageProtection))
      else
        let (eo, so) := blockAt ty (eGeom e) ((u0 * per + i) / 32)
        let base := start - word u0
        let eb := blockElemBytes ty
        let sb := scaleBytes ty
        let el := h.loc - u + eo
        let sl := h.loc - u + so
        match s1.sableCheck s1.cur el eb, s1.sableCheck s1.cur sl sb with
        | .error c, _ => (s1, .error (h.fail c))
        | _, .error c => (s1, .error (h.fail c))
        | .ok x, .ok y =>
          if s1.poisoned el eb || s1.poisoned sl sb then (s1, .error (h.fail .poisonConsumed))
          else (s1, .ok ⟨ty, base + word eo, base + word so, { h with loc := el, sable := x }, { h with loc := sl, sable := y }⟩)

/-- The elements for each byte of the page a formatted access starts on: by its tag; 1 where it has none or does not translate, for which the rules name no type. Log 63 (DESIGN CHOICE). -/
def State.fmtPer (s : State) (start : Word) (write : Bool) : Nat :=
  match s.place s.cur start 1 (needFmt write) false with
  | (_, .ok h) => ((fmtTy (h.leaf.getD 0)).map perByte).getD 1
  | (_, .error _) => 1

/-- The bytes of a block's elements and scales as the strand loads them: one location in service mode, a location of each byte in maintenance mode (R162, R274, R278); Sable bytes as they stand (R240). Log 30 (DEDUCED). -/
def State.readBlk (s : State) (b : Blk) : (Nat × Nat) × State :=
  let en := blockElemBytes b.ty
  let sn := scaleBytes b.ty
  let part (s : State) (h : Hit) (n : Nat) : Nat × State := if h.sable then (s.peekKey h.key h.loc n, s) else s.loadBytes h.key n h.loc
  if s.cur.maint || b.eh.sable || b.sh.sable then
    let (v, s1) := part s b.eh en
    let (x, s2) := part s1 b.sh sn
    ((v, x), s2)
  else
    let (v, x, s1) := s.loadSeg b.eh.key b.eh.loc en b.sh.loc sn
    ((v, x), s1)

/-- What a formatted access gathers of an element: its block and the block's bytes. -/
structure FEl where
  i : Nat
  blk : Blk
  els : Nat
  scs : Nat
deriving DecidableEq, Repr

/-- A watermark of another package over a block, whose value has still to be asked for. -/
def State.blkMarkNeeded (s : State) (b : Blk) : Option (Nat × Nat) :=
  (s.markNeeded b.eva (blockElemBytes b.ty)).or (s.markNeeded b.sva (scaleBytes b.ty))

/-- The checks of the elements of a formatted load behind one that fails (R154). -/
def State.fmtRest (s : State) (start : Word) (want : Option ElTy) (per : Nat) (is : List Nat) : State :=
  is.foldl (fun a i => (a.fmtCheck start i false want per).1) s

/-- Loads the blocks of the active elements in order; a block is read once. Where an element fails, the checks of those behind it are made as well (R154). Against a watermark stand the bytes the access reads: the block's element bytes and its scale bytes, whole (R158, R170, R261). Log 63 (DESIGN CHOICE). -/
def State.fmtLoad (s : State) (start : Word) (want : Option ElTy) (per : Nat) (seen : List FEl) : List Nat → State × List FEl × VStop
  | [] => (s, seen, .done)
  | i :: is =>
    let va := fmtAddr start per i
    match s.fmtCheck start i false want per with
    | (s1, .error f) => (s1.fmtRest start want per is, seen, .bad i va f)
    | (s1, .ok b) =>
      match s1.blkMarkNeeded b with
      | some (loc, key) =>
        match s1.cur.refused.get none loc with
        | none => (s1, seen, .need i va loc 8 key true)
        | some c => (s1.fmtRest start want per is, seen, .bad i va (fail c))
      | none =>
        if !(s1.passes b.eva (blockElemBytes b.ty) && s1.passes b.sva (scaleBytes b.ty)) then (s1, seen, .stall i va [(b.eva, blockElemBytes b.ty), (b.sva, scaleBytes b.ty)])
        else
          match seen.find? (fun x => decide (x.i / 32 = i / 32)) with
          | some x => s1.fmtLoad start want per (seen ++ [{ x with i := i }]) is
          | none =>
            let (vx, s2) := s1.markedLoad b.eva (blockElemBytes b.ty) fun s => s.markedLoad b.sva (scaleBytes b.ty) fun s => s.readBlk b
            s2.fmtLoad start want per (seen ++ [⟨i, b, vx.1, vx.2⟩]) is

/-- The checks on the start address of a formatted access (R158): near, then E_0 a multiple of 32. -/
def fmtStart (start : Word) (per : Nat) : Option Fail :=
  if isNear start then some (fail .kindForbidden)
  else if start.toNat % 2 ^ 18 * per % 32 ≠ 0 then some (fail .misaligned)
  else none

/-- The scales of a block from its scale bytes. -/
def scalePair (t : ElTy) (x : Nat) : Nat × Nat := if isTwin t then (x % 256, x / 256 % 256) else (x % 256, x % 256)

/-- `vldf`: the values of the blocks' elements, rounded to `vty` with rne (R158, R159). -/
def execVldf (d a k o : BitVec 5) (s : State) : Result :=
  .next (s.vissue [a] [] [] [d] (fun t => t.takes isF false) fun s => s.afterMst fun s =>
    let start := s.cur.getS a + off5 o
    let per := s.fmtPer start false
    match fmtStart start per with
    | some f => s.vecFault 0 start f 6
    | none =>
      let (s1, els, st) := s.fmtLoad start none per [] (activeList (s.cur.mask k) s.cur.n)
      s1.vecStop s st ((s1.onCur fun t => t.putActive d k fun old i =>
        match els.find? (fun x => decide (x.i = i)) with
        | some x =>
          let sc := scalePair x.blk.ty x.scs
          roundTo t.vty .rne (blockVal x.blk.ty sc.1 sc.2 (x.els / 2 ^ (i % 32 * widthOf x.blk.ty) % 2 ^ widthOf x.blk.ty))
        | none => (elemAt (widthOf t.vty) old i, 0)).retire))

/-- `vldb`: blocks copied raw, element codes to vd and scales to vd + 1 (R158, R161). E_0 and the elements' addresses are formed with the elements per byte of `vty`, also on a page whose tag has another width or that has none, where every element faults. Log 63 (DESIGN CHOICE). -/
def execVldb (d a k o : BitVec 5) (s : State) : Result :=
  .next (s.vissue [a] [] [] [d, d + 1] (fun t => t.takes isBlock false) fun s => s.afterMst fun s =>
    let start := s.cur.getS a + off5 o
    let ty := s.cur.vty
    let per := perByte ty
    match fmtStart start per with
    | some f => s.vecFault 0 start f 6
    | none =>
      let (s1, els, st) := s.fmtLoad start (some ty) per [] (activeList (s.cur.mask k) s.cur.n)
      s1.vecStop s st ((s1.onCur fun t =>
        let w := widthOf ty
        let t1 := t.putActive d k fun old i =>
          match els.find? (fun x => decide (x.i = i)) with
          | some x => (x.els / 2 ^ (i % 32 * w) % 2 ^ w, 0)
          | none => (elemAt w old i, 0)
        let blocks := (List.range ((t.n + 31) / 32)).map fun j =>
          (els.find? (fun x => decide (x.i / 32 = j))).map fun x => scalePair ty x.scs
        t1.setV (d + 1) (putScales ty (t1.getV (d + 1)) blocks)).retire))

/-- Checks the active elements of a formatted store in order: the blocks met, or the first failure. -/
def State.fmtStoreCheck (s : State) (start : Word) (per : Nat) (seen : List (Nat × Blk)) : List Nat → State × List (Nat × Blk) × Option (Nat × Fail)
  | [] => (s, seen, none)
  | i :: is =>
    match s.fmtCheck start i true none per with
    | (s1, .error f) => (s1, seen, some (i, f))
    | (s1, .ok b) => s1.fmtStoreCheck start per (if seen.any (fun x => decide (x.1 = i / 32)) then seen else seen ++ [(i / 32, b)]) is

/-- Packs and stores one block from the active elements of vd, zero codes for the others (R113, R160): one location in service mode, its bytes one by one in maintenance mode (R274, R278). Log 30 (DEDUCED). -/
def State.storeBlk (s : State) (d k : BitVec 5) (j : Nat) (b : Blk) : State × Flags :=
  let t := s.cur
  let els := (List.range 32).map fun i =>
    if active (t.mask k) t.n (32 * j + i) then some (elemVal t.vty (elemAt (widthOf t.vty) (t.getV d) (32 * j + i))) else none
  let p := packBlock b.ty t.frm els
  let codes := p.codes.map fun c => c.getD (zeroCode b.ty)
  let scs := if isTwin b.ty then p.x0 + p.x1 * 256 else p.x0
  let en := blockElemBytes b.ty
  let sn := scaleBytes b.ty
  let v := packEls (widthOf b.ty) codes
  (if t.maint then (s.keepBytes b.eva b.eh en v).keepBytes b.sva b.sh sn scs
   else s.keepSeg b.eva b.eh en v b.sva b.sh sn scs, p.flags)

/-- `vstf`: packs the active elements into the page's block type; a fault writes exactly the blocks below its block (R158, R160). -/
def execVstf (d a k o : BitVec 5) (s : State) : Result :=
  .next (s.vissue [a] [] [d] [] (fun t => t.takes isF true) fun s => s.afterMst fun s =>
    let start := s.cur.getS a + off5 o
    let per := s.fmtPer start true
    match fmtStart start per with
    | some f => s.vecFault 0 start f 7
    | none =>
      let (s1, blks, bad) := s.fmtStoreCheck start per [] (activeList (s.cur.mask k) s.cur.n)
      let go (bs : List (Nat × Blk)) : State × Flags := bs.foldl (fun x b =>
        let r := x.1.storeBlk d k b.1 b.2
        (r.1, x.2 ||| r.2)) (s1, 0)
      match bad with
      | none =>
        let r := go blks
        (r.1.onCur fun t => t.raise r.2).vdone [d]
      | some (i, f) => (go (blks.filter (fun b => decide (b.1 < i / 32)))).1.vecFault (i / 32 * 32) (fmtAddr start per i) f 7)

/-! Accumulation windows (R167). -/

/-- The check of one element of `vstxa`: alignment, then the window (R167). -/
def Strand.winCheck (t : Strand) (va : Word) (n : Nat) : Option Fail :=
  let off := va.toNat - ownBase.toNat
  if va.toNat % n ≠ 0 then some (fail .misaligned)
  else if ownBase.toNat ≤ va.toNat ∧ acwBase t.acw ≤ off ∧ off + n ≤ acwBase t.acw + acwLen t.acw then none
  else some (fail .nearBounds)

/-- Adds accesses into the copies of their lane groups in order, up to the first that fails, with the flags `fl` of the sums before them. -/
def Strand.winSeq (t : Strand) (d : BitVec 5) (fl : Flags) : List VAcc → Strand × Flags × Option (Nat × Word × Fail)
  | [] => (t, fl, none)
  | x :: xs =>
    let w := widthOf t.vty
    match t.winCheck x.va (w / 8) with
    | some f => (t, fl, some (x.i, x.va, f))
    | none =>
      let r := winAdd t.vty (x.i * w / 512) (x.va.toNat - ownBase.toNat) (elemAt w (t.getV d) x.i) t.window
      ({ t with window := r.1 }).winSeq d (fl ||| r.2) xs

/-- `vstxa`: adds active elements into the open window (R167) and raises the flags of the sums (R122); a fault leaves the elements below it added (R164). -/
def execVstxa (d a b k : BitVec 5) (s : State) : Result :=
  .next (s.vissue [a] [] [d, b] [] (fun t => t.takes tyWide false) fun s =>
    if acwOpen s.cur.acw && decide (acwType s.cur.acw = some s.cur.vty) then
      match s.cur.winSeq d 0 (s.cur.accs k (s.cur.indexAddr a b)) with
      | (t, fl, none) => (s.onCur fun _ => t.raise fl).vdone [d, b]
      | (t, _, some (i, va, f)) => (s.onCur fun _ => t).vecFault i va f 7
    else s.faultCode .illegalOperand 0 0 0)

end Sys2Proof.Machine
end

