-- ==== Sys2Proof/Machine/Objects.lean ====
section
/-! DEFINITION. The objects of a cluster at their homes (R211 to R258): barrier trees and their closure, ring rotation, lock words, mailbox slots, queues. -/

namespace Sys2Proof.Machine

/-! The matrix queue as a wait for rows sees it (R179, R181, R188). -/

/-- Whether a queued entry has still to write row i of a tile. -/
def MEntry.writesRow (e : MEntry) (t i : Nat) : Bool :=
  match e.op with
  | .mstr _ u _ rows => decide (u = t ∧ e.done ≤ i ∧ i < rows.length)
  | .mzero u => decide (u = t)
  | _ => false

/-- Whether row i of a tile is as every entry of a list leaves it (R179 rule 5). -/
def rowReady (q : List MEntry) (t i : Nat) : Bool := !q.any fun e => e.writesRow t i

/-- The rows a row wait is for that are not ready, the lowest first (R181). -/
def rowsMissing (q : List MEntry) (t : Nat) (rows : List Nat) : Option Nat := rows.find? fun i => !rowReady q t i

/-- What an entry waits for: the wait, the tile and the rows it has still to see final (R181). -/
def MEntry.awaits (e : MEntry) : Option (RowWait × Nat × List Nat) :=
  match e.op with
  | .mst _ t _ w => some (w, t, (List.range 128).drop e.done)
  | .mrd t r _ _ w => some (w, t, [r, r + 1])
  | _ => none

/-- The first entry of a strand that waits for a row that is not final, with its wait and the number of the lowest such row as a fault record has it (R181); `pre` are the entries before. -/
def rowAwaited (uid : Nat) (pre : List MEntry) : List MEntry → Option (MEntry × RowWait × Nat)
  | [] => none
  | e :: es =>
    match (if e.uid = uid then e.awaits else none).bind fun a => (rowsMissing pre a.2.1 a.2.2).map fun row => (e, a.1, a.2.1 * 128 + row) with
    | some r => some r
    | none => rowAwaited uid (pre ++ [e]) es

/-- The same for a strand on its core. -/
def State.rowAwaited (s : State) (t : Strand) : Option (MEntry × RowWait × Nat) := Machine.rowAwaited t.uid [] (s.core (coreOf t.sid)).matrix.queue

/-- Drops an entry of the current strand from its core's queue, and every later entry of the strand (R188). -/
def State.dropEntry (s : State) (e : MEntry) : State :=
  s.onCore s.curCore fun c =>
    let q := c.matrix.queue
    { c with matrix := { c.matrix with
        queue := q.takeWhile (fun x => decide (x ≠ e)) ++ (q.dropWhile fun x => decide (x ≠ e)).filter fun x => decide (x.uid ≠ s.cur.uid) } }

/-- The registers and pending stores of a strand as they stood before an instruction, which a fault of it gives back; what reached other parties stays, and so do registers that were empty and that the outside has filled since (R135, R188). Log 29 (DESIGN CHOICE). -/
def Strand.rollBack (t b : Strand) : Strand := { t with
  pc := b.pc, loops := b.loops
  sregs := Vector.ofFn fun i => if b.full.getLsbD i.val then b.sregs[i] else t.sregs[i]
  full := b.full ||| t.full
  marks := (List.range 32).foldl (fun m r => m.set none r ((if b.full.getLsbD r then b else t).marks.get none r)) []
  vregs := b.vregs, kregs := b.kregs, wregs := b.wregs, dlDef := b.dlDef, dlMax := b.dlMax, wst := b.wst, wabs := b.wabs
  fetrap := b.fetrap, vty := b.vty, vslip := b.vslip, ffx := b.ffx, efr := b.efr, frm := b.frm, fflags := b.fflags
  acw := b.acw, window := b.window, pend := t.pend.filter b.pend.contains, vq := t.vq.filter b.vq.contains
  wait := none, buf := [], refused := [], replies := [], vamoTodo := none, brkDone := false }

/-- A queued `mst` or `mrd` of the current strand faults: the strand stands again before it, and its later entries are discarded (R135, R188). -/
def State.entryFault (s : State) (e : MEntry) (w : RowWait) (c : FaultCode) (va : Word) : State :=
  ((s.dropEntry e).dropAsks.onCur fun t => t.rollBack w.back).faultCode c va 10 0

/-! Barrier objects (R214 to R222). An object is named by its cluster in the package and its number. -/

def barCluster (id : BitVec 32) : Nat := clusterOf id
def barObj (id : BitVec 32) : Nat := id.toNat % 256
/-- The identity of an object of this package (R214). -/
def State.barId (s : State) (c o : Nat) : BitVec 32 :=
  BitVec.ofNat 32 (s.pkgNo * 2 ^ 22 + c / 5 * 2 ^ 20 + c % 5 * 2 ^ 17 + o)

def State.bar (s : State) (c o : Nat) : Barrier := (s.cluster c).barriers.get Barrier.zero o
def State.setBar (s : State) (c o : Nat) (b : Barrier) : State :=
  s.onCluster c fun k => { k with barriers := k.barriers.set Barrier.zero o b }

/-- Clusters with a core bound to a job. -/
def State.boundClusters (s : State) (job : BitVec 32) : List Nat :=
  ((s.cores.filter (fun p => decide (p.2.lease.job = some job))).map (fun p => p.1 / 48)).eraseDups

/-- Every configured object of the package. -/
def State.allBars (s : State) : List (Nat × Nat × Barrier) :=
  s.clusters.flatMap fun p => (p.2.barriers.filter (fun q => q.2.config)).map fun q => (p.1, q.1, q.2)

/-- Configured objects whose parent is an object. -/
def State.childBars (s : State) (c o : Nat) : List (Nat × Nat × Barrier) :=
  s.allBars.filter fun x => decide (x.2.2.parent = some (s.barId c o))

/-- The root above an object: its cluster and number, and whether it is configured and has no parent (R215, R220). -/
def State.barRoot (s : State) : (fuel c o : Nat) → Nat × Nat × Bool
  | 0, c, o => (c, o, false)
  | fuel + 1, c, o =>
    let b := s.bar c o
    if !b.config then (c, o, false)
    else match b.parent with
      | none => (c, o, true)
      | some p => s.barRoot fuel (barCluster p) (barObj p)

/-- The objects of the tree below an object, itself first. -/
def State.barTree (s : State) : (fuel c o : Nat) → List (Nat × Nat)
  | 0, c, o => [(c, o)]
  | fuel + 1, c, o => (c, o) :: (s.childBars c o).flatMap fun x => s.barTree fuel x.1 x.2.1

/-- The objects of a package, 256 in each of 20 clusters (R214): no tree is deeper. -/
def treeFuel : Nat := 5120

/-- Parties arrived at an object in the open phase, complete children among them (R217, R220). -/
def State.barArrived (s : State) : (fuel c o : Nat) → BitVec 64
  | 0, c, o => (s.bar c o).arrived
  | fuel + 1, c, o =>
    (s.childBars c o).foldl (fun (m : BitVec 64) (x : Nat × Nat × Barrier) =>
      let e := s.barArrived fuel x.1 x.2.1
      if x.2.2.members ≠ 0 ∧ e &&& x.2.2.members = x.2.2.members then m ||| (1#64 <<< x.2.2.index) else m)
      (s.bar c o).arrived

/-- Whether an object is complete for the open phase: an empty member set never is (R217, R221). -/
def State.barComplete (s : State) (c o : Nat) : Bool :=
  let b := s.bar c o
  decide (b.members ≠ 0) && decide (s.barArrived treeFuel c o &&& b.members = b.members)

/-- The smaller of two deadlines. -/
def minDl : Option Word → Option Word → Option Word
  | none, b => b
  | a, none => a
  | some a, some b => if a.toNat ≤ b.toNat then some a else some b

/-- The earliest deadline supplied in the open phase anywhere in a tree (R220). -/
def State.treeDl (s : State) (t : List (Nat × Nat)) : Option Word :=
  t.foldl (fun d x => minDl d (s.bar x.1 x.2).dl) none

/-- Rotates a ring: an owed slot not filled becomes void, the stage moves on (R236). -/
def Ring.rotate (r : Ring) : Ring :=
  let owed := (r.stage + r.lead) % r.depth
  let r1 := if r.slotState owed = .free ∨ r.slotState owed = .claimed then r.setSlot owed .void else r
  { r1 with stage := (r.stage + 1) % r.depth }

/-- A claim on the slot that closure made void becomes a voided claim in every register that holds it (R235, R236). -/
def Strand.voidClaim (t : Strand) (ring p : Nat) : Strand :=
  { t with gregs := t.gregs.map (fun g => g.map (fun x =>
      if x.ring = ring ∧ x.claim = some p then { x with claim := none, voided := some p } else x)) }

/-- Rotates every ring bound to an object (R236). -/
def State.rotateRings (s : State) (c o : Nat) : State :=
  let rs := s.rings.filter (fun r => decide (r.barrier = o ∧ r.cluster = c))
  let s1 := rs.foldl (fun (a : State) (r : Ring) => a.mapStrands (fun t => t.voidClaim r.base ((r.stage + r.lead) % r.depth))) s
  { s1 with rings := s1.rings.map (fun r => if r.barrier = o ∧ r.cluster = c then r.rotate else r) }

/-- Closes the open phase of one object, with the tree's result and releases (R220). Log 60 (DEDUCED). -/
def State.closeObj (s : State) (ok : Bool) (rels : List Nat) (arr : BitVec 64) (c o : Nat) : State :=
  let b := s.bar c o
  let rec_ : Closed := ⟨b.phase, b.members &&& ~~~arr, ok, rels⟩
  let m := b.members ||| b.readmit
  (s.rotateRings c o).setBar c o { b with
    closed := (rec_ :: b.closed).take 4, phase := b.phase + 1, members := m, readmit := 0,
    arrived := b.early &&& m, early := 0, dl := b.dlNext, dlNext := none, rels := b.earlyRels, earlyRels := [] }

/-- `close_phase` (R220): one indivisible step of the root's home. -/
def State.closePhase (s : State) (c o : Nat) : State :=
  let t := s.barTree treeFuel c o
  let ok := t.all fun x => s.barComplete x.1 x.2
  let rels := t.flatMap fun x => (s.bar x.1 x.2).rels
  t.foldl (fun (a : State) x => a.closeObj ok rels (s.barArrived treeFuel x.1 x.2) x.1 x.2) s

/-- The `jtime` of the job an object belongs to. -/
def State.barTime (s : State) (c o : Nat) : Word := s.jtimeOf (s.bar c o).job

/-- Whether a strand's release through an object has been taken up and is not decided yet. Log 45 (DEDUCED). -/
def State.reserved (s : State) (r : Resv) : Bool := s.strands.any fun t => t.resv.contains r

/-- Whether an arrival or an `rput` at an object of a tree has been taken up whose release is not complete: its home holds the decision open, and with it the phase (R217, R235). Log 45 (DEDUCED). -/
def State.treeHeld (s : State) (t : List (Nat × Nat)) : Bool :=
  s.strands.any fun x => x.resv.any fun r => match r with
    | .bar c o => t.contains (c, o)
    | _ => false

/-- Whether a root's open phase has come to its end: complete everywhere, or past its earliest deadline (R220). -/
def State.phaseOver (s : State) (c o : Nat) : Bool :=
  let t := s.barTree treeFuel c o
  (t.all fun x => s.barComplete x.1 x.2) ||
  (match s.treeDl t with
   | some d => decide (d.toNat < (s.barTime c o).toNat)
   | none => false)

/-- Whether a root's open phase is to close now (R220): its end has come, and no arrival that came before it has still to be decided. Log 45 (DEDUCED). -/
def State.closeDue (s : State) (c o : Nat) : Bool := !s.treeHeld (s.barTree treeFuel c o) && s.phaseOver c o

/-- Whether the phase of an object's tree is over and stays open for arrivals that came before its end: what comes to the object now comes after it (R217, R220). Log 45 (DEDUCED). -/
def State.phaseShut (s : State) (c o : Nat) : Bool :=
  let (rc, ro, ok) := s.barRoot treeFuel c o
  ok && s.treeHeld (s.barTree treeFuel rc ro) && s.phaseOver rc ro

/-- Closes the phase of a root as long as it is due: at most the phase with early arrivals follows (R220). -/
def State.closeWhile (s : State) (c o : Nat) : Nat → State
  | 0 => s
  | fuel + 1 => if s.closeDue c o then (s.closePhase c o).closeWhile c o fuel else s

/-- Decides closure of the tree an object belongs to; no phase closes under a root that is not configured (R215, R220). -/
def State.settleBar (s : State) (c o : Nat) : State :=
  let (rc, ro, ok) := s.barRoot treeFuel c o
  if ok then s.closeWhile rc ro 3 else s

/-- The scope of a barrier object: the smallest that holds every object of its tree (R212). -/
def State.barScope (s : State) (c o : Nat) : Scope :=
  let (rc, ro, _) := s.barRoot treeFuel c o
  let t := s.barTree treeFuel rc ro
  if t.all (fun x => decide (x.1 = c)) && decide (rc = c) then .cluster
  else if t.all (fun x => decide (x.1 / 5 = c / 5)) && decide (rc / 5 = c / 5) then .die
  else .pkg

/-- Phase comparison (R217): (q − P) mod 2^32 as a signed number. -/
def phaseDiff (q p : BitVec 32) : Int := (q - p).toInt

/-- What an arrival comes to (R217). -/
inductive Arrival
  | excused | late (abs : BitVec 64) | counted (early : Bool) | overrun
deriving DecidableEq, Repr

/-- The absentee set of a closed phase as an arrival or a wait that comes late finds it: all ones past the last four (R217, R219). -/
def Barrier.absOf (b : Barrier) (q : BitVec 32) : BitVec 64 :=
  match b.closed.find? (fun c => decide (c.phase = q)) with
  | some c => c.absent
  | none => BitVec.allOnes 64

/-- `arrive`'s decision (R217). Log 60 (DEDUCED). -/
def Barrier.classify (b : Barrier) (i : Nat) (q : BitVec 32) : Arrival :=
  if !b.members.getLsbD i then .excused
  else
    let d := phaseDiff q b.phase
    if d < 0 then .late (b.absOf q)
    else if d = 0 then .counted false
    else if d = 1 then .counted true
    else .overrun

/-- Counts an arrival with the release it made, and decides closure (R217, R220). -/
def State.countArrival (s : State) (c o i : Nat) (early : Bool) (rel : Nat) : State :=
  let b := s.bar c o
  let bit := 1#64 <<< i
  (s.setBar c o (if early then { b with early := b.early ||| bit, earlyRels := rel :: b.earlyRels }
                 else { b with arrived := b.arrived ||| bit, rels := rel :: b.rels })).settleBar c o

/-! Words of objects in memory, read and written at their homes as atomics are (R270). -/

/-- A write of the current strand performed at its home at once: its own later loads know it (R270). -/
def State.atomicPut (s : State) (key loc n v : Nat) (rel : Option Nat) : State :=
  let i := s.nextW
  (s.homeWrite key loc n v rel).onCur fun t => { t with hb := t.hb ||| 2 ^ i }

/-- A field of an object of the current strand's job. -/
def State.objGet (s : State) (loc n : Nat) : Nat := s.peekKey (if isHbm loc then s.curKey else 0) loc n
def State.objPut (s : State) (loc n v : Nat) (rel : Option Nat) : State := s.atomicPut (if isHbm loc then s.curKey else 0) loc n v rel

/-! Locks (R223). -/

def State.lockHolder (s : State) (loc : Nat) : BitVec 32 := BitVec.ofNat 32 (s.objGet loc 4)
def State.lockGen (s : State) (loc : Nat) : BitVec 32 := BitVec.ofNat 32 (s.objGet (loc + 4) 4)
def State.lockBase (s : State) (loc : Nat) : Word := word (s.objGet (loc + 8) 8)
def State.lockLen (s : State) (loc : Nat) : Word := word (s.objGet (loc + 16) 8)

/-- The holder's identity as a wait reports it: bit 0 clear (R224). -/
def holderId (h : BitVec 32) : Word := (h &&& ~~~1#32).setWidth 64

/-- The current strand takes a lock: holder and generation in one step, and its guard table (R224, R227). The generation it holds. -/
def State.lockTake (s : State) (loc : Nat) (va : Word) : BitVec 32 × State :=
  let g := s.lockGen loc + 1
  let s1 := s.objPut loc 8 ((s.cur.sid ||| 1#32).toNat + g.toNat * 2 ^ 32) none
  let base := s.lockBase loc
  let len := s.lockLen loc
  (g, s1.onCur fun t => { t with
    guards := if len = 0 then t.guards else ⟨loc, va, base, len, g⟩ :: t.guards.filter (fun x => decide (x.lock ≠ loc))
    locks := loc :: t.locks.filter (fun x => decide (x ≠ loc)) })

/-! Rings (R230 to R237). -/

/-- The absentee set of the latest closed phase of a ring's barrier (R234); 0 while no phase has closed. Log 63 (DESIGN CHOICE). -/
def State.ringAbs (s : State) (r : Ring) : Word :=
  match (s.bar r.cluster r.barrier).closed with
  | c :: _ => c.absent
  | [] => 0

/-- The open phase of a ring's barrier (R234). -/
def State.ringPhase (s : State) (r : Ring) : BitVec 32 := (s.bar r.cluster r.barrier).phase

/-! Handle mailboxes (R245) and fabric mailboxes (R370). -/

/-- Slot k of a handle mailbox. -/
def State.hslot (s : State) (loc k : Nat) : Word := word (s.objGet (loc + 8 * k) 8)
def slotSid (v : Word) : BitVec 32 := BitVec.ofNat 32 (v.toNat / 2 ^ 41 * 2 ^ 9)
def slotExpect (v : Word) : Bool := v.getLsbD 33
def slotFull (v : Word) : Bool := v.getLsbD 32
def slotHandle (v : Word) : BitVec 32 := v.setWidth 32

/-- The root of a lineage entry: the tile and who created it; the walk up is bounded by the depth (R241). -/
def State.rootOf (s : State) (cl : Nat) : (fuel entry : Nat) → LinEntry
  | 0, entry => s.lin cl entry
  | fuel + 1, entry =>
    match (s.lin cl entry).origin with
    | .root => s.lin cl entry
    | .split p _ _ _ => s.rootOf cl fuel p

/-- Whether writes admitted through handles have still to be made in bytes of a half: rows of a queued `mst` of any strand, and parts a copy holds for a chunk (R246 to R250, R284, R394). -/
def State.halfBusy (s : State) (cl entry half : Nat) : Bool :=
  match s.halfRange cl 8 entry half with
  | none => false
  | some x =>
    (s.cores.any fun c => c.2.matrix.queue.any fun e => match e.op with
      | .mst _ _ dests _ => dests.any fun d => d.sable && decide (e.done ≤ d.row) && x.covers d.loc
      | _ => false) ||
    s.pkg.copies.any fun c => c.hold.any fun p => p.sable && (List.range p.n).any fun i => x.covers (p.loc + i * c.desc.esize)

/-- Whether a slot is eligible for the current strand (R247). -/
def State.slotEligible (s : State) (v : Word) : Bool :=
  slotFull v &&
  (!s.handleLive (sidDie s.cur.sid) (slotHandle v) ||
   (let r := s.rootOf (sidDie s.cur.sid * 5 + hCluster (slotHandle v)) 8 (hEntry (slotHandle v))
    match r.tile with
    | some t => sameUnit t.scope r.creator s.cur.sid
    | none => false))

/-- Word at +16k + 8 of a fabric mailbox, its control word (R370). -/
def State.fctl (s : State) (loc k : Nat) : Word := word (s.objGet (loc + 16 * k + 8) 8)
def State.fpay (s : State) (loc k : Nat) : Word := word (s.objGet (loc + 16 * k) 8)

/-! Queues (R252, R258). -/

/-- The key of a job's work-queue among those of a cluster (R258). Log 23 (DEDUCED). -/
def workKey (job : BitVec 32) (q : Nat) : Nat := job.toNat * 64 + q
def State.workQ (s : State) (c q : Nat) : WorkQ := (s.cluster c).workq.get ⟨[], false⟩ q
def State.setWorkQ (s : State) (c q : Nat) (v : WorkQ) : State :=
  s.onCluster c fun k => { k with workq := k.workq.set ⟨[], false⟩ q v }
def State.taskQ (s : State) (c : Nat) (job : BitVec 32) : TaskQ := (s.cluster c).taskq.get ⟨[], false⟩ job.toNat
def State.setTaskQ (s : State) (c : Nat) (job : BitVec 32) (v : TaskQ) : State :=
  s.onCluster c fun k => { k with taskq := k.taskq.set ⟨[], false⟩ job.toNat v }

/-- Records waiting in a task queue, the markers of saved tasks apart (R256). -/
def TaskQ.records (q : TaskQ) : Nat := (q.items.filter (fun i => i.resume.isNone)).length

end Sys2Proof.Machine
end

