-- ==== Sys2Proof/Machine/Requests.lean ====
section
/-! DEFINITION. Atomics that leave the package (R288, R340 to R343, R359): AtomicOps on the host link, the host proxy, and what a strand whose operations are on their way has heard of them. -/

namespace Sys2Proof.Machine

/-- The fault code a number names (R104). -/
def codeOfNum (n : Nat) : Option FaultCode :=
  [FaultCode.illegalInstruction, .illegalOperand, .misaligned, .loopOverflow, .loopUnderflow, .noLanes, .regWaitExpired,
    .regEmptyTrap, .watermarkExpired, .matrixWaitExpired, .pageNotPresent, .pageProtection, .firstTouchPoolEmpty,
    .nearBounds, .kindForbidden, .memoryExhausted, .poisonConsumed, .uncorrectableEcc, .handleVoid, .handleMismatch,
    .handleStale, .handleRegion, .lineageFull, .barOverrun, .hostAtomicUnsupported, .hostProxyExpired, .budgetOverrun,
    .ringVoid, .ringDescriptor, .copyDescriptor, .copyFault, .fabricUnreachable, .fabricPoison, .tdiLeftRun, .keyRevoked,
    .breakpoint, .step, .queueLost, .svc].find? fun c => decide (c.num = n)

/-! The proxy queue (R315, R342). -/

def State.pxBase (s : State) : Nat := s.ctlGet 0x10
def State.pxCap (s : State) : Nat := s.ctlGet 0x18
def State.pxHead (s : State) : Nat := s.ctlGet 0x20
def State.pxTail (s : State) : Nat := s.ctlGet 0x28
def State.pxFull (s : State) : Bool := decide (s.pxCap ≤ s.pxHead - s.pxTail)

/-- The lowest reply index no request that waits for a reply has. Log 35 (DEDUCED). -/
def State.pxIndex (s : State) : Nat :=
  ((List.range 4096).find? fun i => !s.pkg.proxies.any fun p => decide (p.index = i)).getD 0

/-- Posts a proxy request for an element of the current strand's atomic: 64 bytes by DMA, the head, MSI-X vector 2 (R342). Its number. -/
def State.postProxy (s : State) (fn n bus elem : Nat) (v c : Word) : Nat × State :=
  let seq := s.pxHead
  let i := s.pxIndex
  let bytes := bytesOfNat 8 seq ++ [BitVec.ofNat 8 fn, BitVec.ofNat 8 n] ++ bytesOfNat 6 0 ++ bytesOfNat 8 bus ++
    bytesOfNat 8 v.toNat ++ bytesOfNat 8 c.toNat ++ bytesOfNat 8 s.cur.sid.toNat ++ bytesOfNat 8 i ++ bytesOfNat 8 s.gtime.toNat
  let s1 := s.onPkg fun p => { p with
    hostOut := p.hostOut ++ [⟨s.pxBase + seq % s.pxCap * 64, bytes, false⟩]
    proxies := p.proxies ++ [⟨seq, s.cur.uid, elem, i⟩] }
  (seq, (s1.ctlPut 0x20 (seq + 1)).signal 2)

/-! Routing of an atomic on a host page (R288, R341). -/

/-- Whether an ATOM function is a PCIe AtomicOp (R340). -/
def nativeFn (fn : Nat) : Bool := decide (fn ≤ 3 ∨ fn = 11)

/-- The page an access was translated through, as the table of R341 holds it. -/
def State.hostPage (s : State) (va : Word) (loc : Nat) : Nat :=
  match s.tlbFind s.curCluster (some s.curCore) (s.jobRoot s.cur.job).1 va.toNat false with
  | some t => if t.big then 2 * ((loc - 2 ^ 64) / 2 ^ 29) + 1 else 2 * ((loc - 2 ^ 64) / 2 ^ 18)
  | none => 2 * ((loc - 2 ^ 64) / 2 ^ 18)

/-- Whether a host bus address lies on a page of the table. -/
def Pkg.pageListed (p : Pkg) (bus : Nat) : Bool := p.unsupported.contains (2 * (bus / 2 ^ 18)) || p.unsupported.contains (2 * (bus / 2 ^ 29) + 1)

/-- Adds a page to the table of 512, the oldest making room (R341). Log 35 (DEDUCED). -/
def Pkg.listPage (p : Pkg) (page : Nat) : Pkg := { p with unsupported := (page :: p.unsupported.filter (fun x => decide (x ≠ page))).take 512 }

/-- What an atomic on the host or a peer comes to at its sending. -/
inductive Sent
  | req (id : Nat)
  | proxied (seq : Nat)
  | full
  | unsupported
  | shut
deriving DecidableEq, Repr

/-- Sends an element of the current strand's atomic on a host place (R341, R342). While the cyan cores of the proxy do not perform their duties, no request is posted, as with a full queue (R332, R333); a request outside the allow-windows is refused (R335). -/
def State.sendHost (s : State) (fn n elem : Nat) (h : Hit) (v c : Word) : Sent × State :=
  let bus := h.loc - 2 ^ 64
  if nativeFn fn && !s.pkg.pageListed bus then
    let id := s.pkg.nextReq
    (.req id, s.onPkg fun p => { p with nextReq := id + 1, hostReqs := p.hostReqs ++ [⟨id, .strand s.cur.uid, bus, n, some fn, v, c, elem, false⟩] })
  else if eH (h.leaf.getD 0) && decide (s.pxCap ≠ 0) then
    if s.pxFull || !s.cyanUp 4 then (.full, s)
    else if !s.dmaOk (s.pxBase + s.pxHead % s.pxCap * 64) 64 then (.shut, s)
    else
      let (seq, s1) := s.postProxy fn n bus elem v (if fn = 11 then c else 0)
      (.proxied seq, s1)
  else (.unsupported, s)

/-- Sends an element of the current strand's atomic to a peer: the operand, and for a CAS the compare value after it (R359, R364). -/
def State.sendPeer (s : State) (fn n elem : Nat) (h : Hit) (sc : Scope) (rl : Bool) (v c : Word) : Nat × State :=
  let data := bytesOfNat n v.toNat ++ (if fn = 11 then bytesOfNat n c.toNat else [])
  s.sendPacket { s.mkPacket 4 h.loc data.length h.key fn sc data with rl := rl } (some (.strand s.cur.uid)) elem

/-! A `vamo` whose elements are on their way (R165). -/

/-- Whether an element's operation of a strand has not reported (R165). -/
def State.outstandingEl (s : State) (uid elem : Nat) : Bool :=
  s.pkg.hostReqs.any (fun r => decide (r.who = .strand uid ∧ r.elem = elem) && r.fn.isSome) ||
  s.pkg.proxies.any (fun p => decide (p.uid = uid ∧ p.elem = elem)) ||
  s.pkg.peers.any (fun q => q.2.unacked.any fun u => decide (u.who = some (.strand uid) ∧ u.elem = elem ∧ u.pkt.kind = 4))

/-- Whether any operation of a strand has not reported. -/
def State.outstanding (s : State) (uid : Nat) : Bool :=
  s.pkg.hostReqs.any (fun r => decide (r.who = .strand uid) && r.fn.isSome) ||
  s.pkg.proxies.any (fun p => decide (p.uid = uid)) ||
  s.pkg.peers.any (fun q => q.2.unacked.any fun u => decide (u.who = some (.strand uid) ∧ u.pkt.kind = 4))

/-- Takes an element's operation of a strand off the books. -/
def State.dropOutstanding (s : State) (uid elem : Nat) : State :=
  s.onPkg fun p => { p with
    hostReqs := p.hostReqs.filter (fun r => !(decide (r.who = .strand uid ∧ r.elem = elem) && r.fn.isSome))
    proxies := p.proxies.filter (fun q => !decide (q.uid = uid ∧ q.elem = elem))
    peers := p.peers.map (fun q => (q.1, { q.2 with unacked := q.2.unacked.map (fun u =>
      if u.who = some (.strand uid) ∧ u.elem = elem ∧ u.pkt.kind = 4 then { u with who := none } else u) })) }

/-- A report on an element reaches the current strand: performed, or the code (and proxy number) it failed with; when nothing more is awaited the instruction issues again, to retire, go on or fault (R165). -/
def State.vamoReport (s : State) (elem : Nat) (bad : Option Word) : State :=
  let s1 := (s.dropOutstanding s.cur.uid elem).onCur fun t => match bad with
    | none => { t with vamoTodo := t.vamoTodo.map fun l => l.filter (fun x => decide (x ≠ elem)) }
    | some c => { t with replies := t.replies.set none elem (some c) }
  if s1.outstanding s1.cur.uid then s1 else s1.onCur fun t => { t with wait := none }

/-- A failure as `replies` holds it: the code, and a proxy number where there is one. -/
def badReply (c : FaultCode) (seq : Option Nat) : Word := word (c.num + (match seq with
  | some q => 2 ^ 8 * (q + 1)
  | none => 0))

/-- The bound of a `vamo` that waits for proxies has come: those count as not performed (R343). -/
def State.vamoExpire (s : State) : State :=
  (s.pkg.proxies.filter (fun p => decide (p.uid = s.cur.uid))).foldl
    (fun a p => a.vamoReport p.elem (some (badReply .hostProxyExpired (some p.seq)))) s

/-- What a strand's wait becomes when what it asked for is there: it issues again, and keeps the deadline of a wait it goes on with. -/
def Strand.answered (t : Strand) : Strand :=
  { t with wait := match t.wait with
    | some w => if w.kind = 0 then none else some { w with obj := .polled, expiry := none }
    | none => none }

/-- An old value reaches the current strand's scalar atomic: it issues again and completes (R288, R343). -/
def State.atomReply (s : State) (old : Word) : State :=
  s.onCur fun t => { t with replies := t.replies.set none 0 (some old) }.answered

/-- What an operation of a strand that leaves the package answers, by element: an old value or the code it failed with. -/
def State.opReply (s : State) (uid elem : Nat) (r : Word ⊕ Word) : State :=
  s.asUid uid fun s =>
    if s.cur.vamoTodo.isSome then
      s.vamoReport elem (match r with
        | .inl _ => none
        | .inr c => some c)
    else match r with
      | .inl old => s.atomReply old
      | .inr c => match s.cur.wait, codeOfNum (c.toNat % 256) with
        | some w, some code => (match w.expiry with
          | some f => s.takeFault { f with code := code }
          | none => s)
        | _, _ => s

end Sys2Proof.Machine
end

