-- ==== Sys2Proof/Machine/Waits.lean ====
section
/-! DEFINITION. Deadline waits (R74): what "met" means for each object and what the wait then returns, what it returns when its deadline has passed, and the homes' decisions in the order the waits reached them. -/

namespace Sys2Proof.Machine

/-- The translated address of the object a home decides a wait by (R304). -/
def WaitObj.va : WaitObj → Option Word
  | .lock _ va | .timeline _ va _ | .chunks _ va _ | .frecv _ va => some va
  | _ => none

/-- Whether a wait is one that its object's home decides: its instruction does not issue again. -/
def WaitObj.atHome : WaitObj → Bool
  | .barrier _ _ _ | .lock _ _ | .ringGet _ | .ringTake _ | .mailbox _ _ | .queue _ _ | .timeline _ _ _ | .chunks _ _ _
  | .frecv _ _ | .sleep _ | .svc _ => true
  | _ => false

/-- Completion of a barrier wait (R219, R220): the recorded result and set of its phase; a phase older than the last four, or one its subtree never closed, is `LATE` with all ones. -/
def State.finishBarrier (s : State) (w : Wait) (c o : Nat) (q : BitVec 32) : State :=
  match (s.bar c o).closed.find? (fun x => decide (x.phase = q)) with
  | none => s.finish 1 q .late (BitVec.allOnes 64) w.sd (BitVec.allOnes 64)
  | some x =>
    let out : WaitOutcome := if x.met then .met else if w.past then .pastOnEntry else .expired
    (s.acquire (s.barScope c o) x.rels).finish 1 q out x.absent w.sd x.absent

/-- The chunks of a map that stand in a mask, with the writes and delivery scope of the copy that placed each (R203). -/
def State.chunkAcquire (s : State) (loc : Nat) (mask : Word) : State :=
  let cs := s.chunkMasks.filter (fun c => decide (loc = c.1 + 8 * (c.2.1 / 64)) && mask.getLsbD (c.2.1 % 64))
  cs.foldl (fun (a : State) c =>
    let (_, _, w, sc, by_) := c
    let a1 := a.acquire sc []
    if sameUnit sc by_ a.cur.sid then a1.onCur fun t => { t with hb := t.hb ||| w } else a1) s

/-- The acquire of a `tlwait` that ends `MET` for n: the effects of the commands numbered n or below, and the event itself (R22, R266). -/
def State.tlAcquire (s : State) (loc : Nat) (n : Word) : State :=
  let mine := (s.tlRels.get [] loc).filter fun p => decide (p.1 ≤ n.toNat)
  (s.acquire (scopeOfLoc s.cur.sid loc) []).onCur fun t => { t with hb := mine.foldl (fun m p => m ||| p.2) t.hb }

/-- A live identity in a mailbox slot whose half has writes not performed yet: a wait it meets ends `MET` only after them (R247). -/
def State.slotBusy (s : State) (v : Word) : Bool :=
  s.handleLive (sidDie s.cur.sid) (slotHandle v) &&
    s.halfBusy (sidDie s.cur.sid * 5 + hCluster (slotHandle v)) (hEntry (slotHandle v)) (hHalf (slotHandle v))

/-- The lowest slot of a list of numbers that satisfies a test. -/
def lowest (n : Nat) (f : Nat → Bool) : Option Nat := (List.range n).find? f

/-- The decision of the home of the current strand's wait: the state after it where the condition holds (R74). -/
def State.homeDecide (s : State) (w : Wait) : Option State :=
  match w.obj with
  | .barrier c o q => if phaseDiff q (s.bar c o).phase < 0 then some (s.finishBarrier w c o q) else none
  | .lock loc va =>
    if s.lockHolder loc = 0 then
      let (g, s1) := s.lockTake loc va
      some ((s1.acquire (scopeOfLoc s.cur.sid loc) ((s.lockRels.get [] loc).take 1 ++ s.lastRel loc 4)).finish 2 g .met 0 w.sd 0)
    else none
  | .ringGet g =>
    (match s.cur.getG (g.setWidth 5) with
     | none => none
     | some b =>
       match s.ring? b.ring with
       | none => none
       | some r =>
         let p := r.slotAt r.lead
         if r.slotState p = .free then
           let s1 := s.onRing r.base fun r => r.setSlot p .claimed
           some ((s1.onCur fun t => t.setG (g.setWidth 5) (some { b with claim := some p, voided := none })).finish 3 (s.ringPhase r) .met 0 w.sd 0)
         else none)
  | .ringTake g =>
    (match s.cur.getG (g.setWidth 5) with
     | none => none
     | some b =>
       match s.ring? b.ring with
       | none => none
       | some r =>
         let p := r.slotAt 0
         let take (st : SlotSt) : State :=
           (s.onRing r.base fun r => r.setSlot p st).onCur fun t => t.setG (g.setWidth 5) (some { b with take := some p })
         if r.slotState p = .filled then
           some (((take .taken).acquire .cluster ((r.rels.get none p).toList)).finish 3 (s.ringPhase r) .met 0 w.sd 0)
         else if r.slotState p = .void then some ((take .voidTaken).finish 3 (s.ringPhase r) .void 0 w.sd 0)
         else none)
  | .mailbox loc hd =>
    (match lowest 8 (fun k => s.slotEligible (s.hslot loc k)) with
     | none => none
     | some k =>
       let v := s.hslot loc k
       if s.slotBusy v then none else
       let s1 := s.objPut (loc + 8 * k) 8 0 none
       let from_ : Word := (slotSid v).setWidth 64
       if s.handleLive (sidDie s.cur.sid) (slotHandle v) then
         some (((s1.onCur fun t => t.setH (hd.setWidth 5) (some (slotHandle v))).acquire (scopeOfLoc s.cur.sid loc) []).finish 4 0 .met from_ 0 0)
       else some (s1.finish 4 0 .stale from_ 0 0))
  | .queue c q =>
    if (s.workQ c q).lost then some (s.faultCode .queueLost 0 0 0) else
    (match (s.workQ c q).items with
     | [] => none
     | i :: is => some (((s.setWorkQ c q { s.workQ c q with items := is }).acquire .die [i.rel]).finish 5 0 .met 0 w.sd i.val))
  | .timeline loc _ n =>
    let v := word (s.objGet loc 8)
    if n.toNat ≤ v.toNat then
      some ((s.tlAcquire loc n).finish 6 0 .met v w.sd v)
    else none
  | .chunks loc _ mask =>
    let miss := mask &&& ~~~word (s.objGet loc 8)
    if miss = 0 then some ((s.chunkAcquire loc mask).finish 7 0 .met 0 w.sd 0) else none
  | .frecv loc _ =>
    (match lowest 4 (fun k => slotFull (s.fctl loc k)) with
     | none => none
     | some k =>
       let v := s.fpay loc k
       let from_ := word ((s.fctl loc k).toNat % 2 ^ 32 / 2 ^ 22)
       let seen := s.lastRel (loc + 16 * k) 16
       let s1 := (s.objPut (loc + 16 * k) 16 0 none).onCur fun t => { t with obs := seen ++ t.obs }
       some (s1.finish 8 0 .met from_ w.sd v))
  | .sleep til => if til.toNat ≤ s.jtime.toNat ∧ til.toNat ≤ (w.bound.getD til).toNat then some (s.finish 9 0 .met 0 0 0) else none
  | .svc _ =>
    (match s.cur.replies.get none 8 with
     | none => none
     | some o =>
       let load (a : State) (i : Nat) : State := match a.cur.replies.get none i with
         | some v => a.onCur fun t => t.setS (BitVec.ofNat 5 (4 + i)) v
         | none => a
       some (((List.range 8).foldl load s).finish 10 0 (if o = 0 then .met else .expired) 0 0 0))
  | _ => none

/-- What a wait returns whose condition is false at its decision: `EXPIRED`, or `PAST_ON_ENTRY` for one whose deadline had passed when it entered (R74). -/
def State.lapse (s : State) (w : Wait) : State :=
  let out : WaitOutcome := if w.past then .pastOnEntry else .expired
  match w.obj with
  | .barrier c o q =>
    let a := (s.bar c o).members &&& ~~~s.barArrived treeFuel c o
    (s.acquire (s.barScope c o) []).finish 1 q out a w.sd a
  | .lock loc _ => s.finish 2 (s.lockGen loc) out (holderId (s.lockHolder loc)) w.sd (holderId (s.lockHolder loc))
  | .ringGet g | .ringTake g =>
    (match s.cur.getG (g.setWidth 5) with
     | none => s
     | some b =>
       match s.ring? b.ring with
       | none => s
       | some r => s.finish 3 (s.ringPhase r) out (s.ringAbs r) w.sd (s.ringAbs r))
  | .mailbox loc _ =>
    let a : Word := match lowest 8 (fun k => slotExpect (s.hslot loc k) && !slotFull (s.hslot loc k)) with
      | some k => (slotSid (s.hslot loc k)).setWidth 64
      | none => 0
    s.finish 4 0 out a 0 0
  | .queue _ _ => s.finish 5 0 out 0 w.sd 0
  | .timeline loc _ _ => s.finish 6 0 out (word (s.objGet loc 8)) w.sd (word (s.objGet loc 8))
  | .chunks loc _ mask =>
    let miss := mask &&& ~~~word (s.objGet loc 8)
    s.finish 7 0 out miss w.sd miss
  | .frecv loc _ =>
    let a : Word := match lowest 4 (fun k => slotExpect (s.fctl loc k) && !slotFull (s.fctl loc k)) with
      | some k => word ((s.fctl loc k).toNat % 2 ^ 32 / 2 ^ 22)
      | none => BitVec.allOnes 64
    s.finish 8 0 out a w.sd 0
  | .sleep _ => s.finish 9 0 .expired 0 0 0
  | .svc _ => (s.onCur fun t => t.setS 4 (BitVec.allOnes 64)).finish 10 0 .expired 0 0 0
  | _ => s

/-- A condition that holds and whose outcome `MET` waits for writes still to be performed (R247): the wait does not lapse. -/
def State.metHeld (s : State) (w : Wait) : Bool :=
  match w.obj with
  | .mailbox loc _ => (List.range 8).any fun k => s.slotEligible (s.hslot loc k)
  | _ => false

/-- The deadline of a wait that is entered, or of one that goes on: of the instruction issued again with its deadline (R74). -/
def State.pollDl (s : State) (d : Word) : Word × Bool :=
  match s.cur.wait with
  | some ⟨.polled, _, _, some b, p, _, _⟩ => (b, p)
  | _ => (s.clampDl d, decide (d.toNat ≤ s.jtime.toNat))

/-- Entering a deadline wait (R74): the deadline is clamped and kept; the condition is polled once, and a deadline already passed ends the wait. A wait that goes on after a shoot-down (R304) may find that its deadline has passed meanwhile. -/
def State.deadlineWait (s : State) (o : WaitObj) (kind : Nat) (sd : BitVec 5) (d : Word) : State :=
  let (b, past) := s.pollDl d
  let s1 := s.waitOn o kind sd (some b) past none
  match s1.cur.wait with
  | none => s1
  | some w =>
    if !past && decide (b.toNat < s.jtime.toNat) then s1.lapse w
    else match s1.homeDecide w with
      | some s2 => s2
      | none => if past && !s1.metHeld w then s1.lapse w else s1

/-- Whether a strand may move: its job runs on this package, or a gang pre-emption has stopped its clock and the strand has still to come to a pre-emption point (R73, R328, R387). Log 27 (DEDUCED). -/
def State.jobRuns (s : State) (t : Strand) : Bool :=
  match s.job? t.job with
  | some j => !j.halted && (j.jrun || decide (j.gang = .requested))
  | none => false

/-- Whether a wait's bound ends it where it stands: a wait for the answer to a request keeps its deadline for the decision made when the answer is there. -/
def Wait.timed (w : Wait) : Bool :=
  match w.obj with
  | .remote _ => decide (w.kind = markKind)
  | .polled => false
  | .atomicReply _ => decide (w.kind = 0)
  | _ => true

/-- Whether a strand's bound has passed: a deadline is inclusive (R74), and so is the bound of a `sleep` that `dl.max` clamped: R99 has it return at the bound, R74 only past it, and the model ends it past it. Log 63 (DESIGN CHOICE). A wait that faults at its bound may do so as soon as the bound is reached (`boundCome`), and here at the latest (R71). -/
def State.overdueAt (s : State) (t : Strand) (w : Wait) : Bool :=
  match w.bound with
  | none => false
  | some b => w.timed && decide (b.toNat < (s.jtimeOf t.job).toNat)

/-- The current strand collects its home's decision, if one is due and its deadline has not passed unmet (R74, R75). -/
def State.collect (s : State) : State :=
  match s.cur.wait with
  | none => s
  | some w =>
    if w.obj.atHome && s.jobRuns s.cur && (!s.overdueAt s.cur w || (match w.obj with
        | .barrier _ _ _ => true
        | .sleep _ => true
        | .svc _ => true
        | .mailbox _ _ => true
        | _ => false)) then
      (s.homeDecide w).getD s
    else s

/-- Whether the bound of the current strand's wait has come: for a deadline once `jtime` has passed it, for a wait that faults at its bound as soon as it is reached (R71, R74). -/
def State.boundCome (s : State) (w : Wait) : Bool :=
  match w.bound with
  | none => false
  | some b =>
    if !w.timed then false
    else if w.obj.atHome then decide (b.toNat < (s.jtimeOf s.cur.job).toNat) else decide (b.toNat ≤ (s.jtimeOf s.cur.job).toNat)

/-- Whether a barrier's waits end by its own closure and not one by one: its root is configured (R215, R220). -/
def State.closesByPhase (s : State) (o : WaitObj) : Bool :=
  match o with
  | .barrier c b _ => (s.barRoot treeFuel c b).2.2
  | _ => false

/-- The bound of the current strand's wait has come with its condition false: a deadline wait returns, a bounded wait faults (R71, R74, R170, R343). -/
def State.expireNow (s : State) (w : Wait) : State :=
  if w.obj.atHome then s.lapse w
  else match w.expiry with
    | none => s
    | some r =>
      if s.cur.vamoTodo.isSome && decide (w.obj = .atomicReply 0) then s.vamoExpire else
      let s1 := match w.obj with
        | .proxyReply q => s.onPkg fun p => { p with proxies := p.proxies.filter (fun x => decide (x.seq ≠ q)) }
        | _ => s
      s1.takeFault r

/-- Whether what a wait without a deadline operand is for is there, so that the instruction issues again and no bound that comes later ends it (R71, R170, R181, R190, R342): the write and the bound at one `jtime` resolve in favour of the write. -/
def State.nowMet (s : State) (w : Wait) : Bool :=
  match w.obj with
  | .reg r => s.cur.isFull r
  | .matQueue => decide ((s.core s.curCore).matrix.used < matQueueCap)
  | .port p =>
    let q := s.portOf s.curCore p
    if w.expiry.map (·.code) = some .copyFault then decide (q.queue.length < portQueueCap) else q.active && decide (q.bound.map (·.1) = some s.cur.uid) && (!q.strips.isEmpty || q.fault.isSome)
  | .watermark _ span => span.all fun x => s.passes x.1 x.2
  | .proxyQueue => !s.pxFull && s.cyanUp 4
  | _ => false

/-- The wait for rows of a strand's queued `mst` or `mrd` that has come to its bound; `late`: it is past it (R181). -/
def State.rowExpired (s : State) (t : Strand) (late : Bool) : Option (MEntry × RowWait × Nat) :=
  (s.rowAwaited t).filter fun r => s.jobRuns t && decide (r.2.1.bound.toNat + (if late then 1 else 0) ≤ (s.jtimeOf t.job).toNat)

/-- The current strand's row wait faults where it has come to its bound: the record names the lowest row not final (R181). -/
def State.expireRows (s : State) (late : Bool) : State :=
  match s.rowExpired s.cur late with
  | some r => s.entryFault r.1 r.2.1 .matrixWaitExpired (word r.2.2)
  | none => s

/-- Expiry of the current strand's wait, where it is of the class given and its bound has come: a condition that holds is decided first (R71, R74). -/
def State.expire (s : State) (cls : Wait → Bool) : State :=
  match s.cur.wait with
  | none => s
  | some w =>
    if cls w && s.jobRuns s.cur && s.boundCome w && !s.closesByPhase w.obj && !s.nowMet w && !s.metHeld w then
      match w.obj with
      | .sleep til => if til.toNat ≤ (w.bound.getD til).toNat then s.finish 9 0 .met 0 0 0 else s.expireNow w
      | _ => s.expireNow w
    else s

/-- Whether a wait is a point at which a pre-emption takes its strand (R87): a deadline wait, a register wait, a bounded wait, and the hold of an instruction behind rows that an `mst` or an `mrd` of its strand waits for: the strand is saved at that instruction, and the entry stays queued (R181). Log 29 (DESIGN CHOICE). An instruction that is only held back, or waits for an answer with no bound, is at none. -/
def Wait.isPoint (w : Wait) : Bool :=
  w.obj.atHome || (match w.obj with
    | .reg _ | .matQueue | .mstDrain | .mrdDrain | .port _ | .watermark _ _ | .proxyQueue | .proxyReply _ => true
    | .remote _ | .polled => decide (w.kind ≠ 0)
    | .atomicReply _ => decide (w.kind ≠ 0) || w.bound.isSome
    | _ => false)

/-- Whether a strand stands where a pre-emption may take it: inside a wait, held or parked (R87). -/
def Strand.atPoint (t : Strand) : Bool :=
  !t.away && ((t.wait.map Wait.isPoint).getD false || (match t.run with
    | .held _ _ => true
    | .parked _ => true
    | _ => false))

/-- A pending pre-emption takes effect where the strand stands, but a fault that meets it there comes first (R87, R89). -/
def State.preemptHere (s : State) : State :=
  match s.cur.wait with
  | some w => if w.expiry.isSome && s.jobRuns s.cur && s.boundCome w && !s.nowMet w then s.expireNow w else s.preemptNow
  | none => s.preemptNow

/-- The task queue of the current strand's job in its cluster. -/
def State.myTaskQ (s : State) : TaskQ := s.taskQ s.curCluster s.cur.job

/-- Whether a spent budget is to be dealt with now (R88, R327). -/
def State.budgetDue (s : State) (t : Strand) : Bool :=
  decide (t.tbud = 0) && t.pre.isNone && !t.away && s.jobRuns t &&
  (decide (t.tcap ≠ 0) || (t.task && decide (0 < (s.taskQ (clusterOf t.sid) t.job).records)))

/-- A spent budget of the current strand: a task makes way where a record of its job waits, anything else is refilled (R88, R327). -/
def State.budgetSpent (s : State) : State :=
  if s.cur.task && decide (0 < s.myTaskQ.records) then s.onCur fun t => t.request .budget
  else s.onCur fun t => { t with tbud := t.tcap }

/-- What has come due for the current strand and no later move may overtake: a pre-emption at a point it stands at (R87), a spent budget (R88), a bound passed (R74), a hold past `dl.max` (R301). -/
def State.strandDue (s : State) (t : Strand) : Bool :=
  (t.pre.isSome && t.atPoint && t.preInTime && (match s.job? t.job with
    | some j => decide (j.slate.st = .running)
    | none => false)) ||
  s.budgetDue t || (s.rowExpired t true).isSome ||
  (s.jobRuns t &&
    ((match t.wait with
      | some w => s.overdueAt t w && !s.closesByPhase w.obj && (w.obj.atHome || !t.away)
      | none => false) ||
     (match t.run with
      | .held _ since => decide (t.dlMax.toNat < (s.jtimeOf t.job - since).toNat)
      | _ => false)))

/-- A held strand's record counts as declined: it takes the job's policy with the record's code (R301 steps 2 and 6). -/
def State.declineHold (s : State) : State :=
  match s.cur.run, s.job? s.cur.job with
  | .held k _, some j => s.applyPolicy j k (s.devGet (s.recPa j k) 1) s.cur.pc
  | _, _ => s

/-- Settles what has come due for the current strand. -/
def State.settleCur (s : State) : State :=
  let s := (if s.budgetDue s.cur then s.budgetSpent else s).expireRows true
  if !s.strandDue s.cur then s
  else if s.cur.pre.isSome && s.cur.atPoint && s.cur.preInTime && !s.curFrozen then s.preemptHere
  else match s.cur.run with
    | .held _ since =>
      if s.cur.dlMax.toNat < (s.jtimeOf s.cur.job - since).toNat then s.declineHold else s.expire (fun _ => true)
    | _ => s.expire (fun _ => true)

/-- A wave that its bound no longer lets wait, and that bound: 500 ns after a trigger on this package, 2 µs and 250 ns for each switch hop after one elsewhere (R386). -/
def State.waveDue (s : State) (j : Job) : Option (Cause × Nat) :=
  let due (c : Cause) (n : Nat) : Option (Cause × Nat) := if c.gtime.toNat + n < s.gtime.toNat then some (c, c.gtime.toNat + n) else none
  if j.state.final || decide (j.slate.st ≠ .running) then none
  else match j.slate.wave with
    | some c => if c.pkg = s.pkgNo then due c 500 else none
    | none => if !j.multi then none else s.pkg.ctlIn.findSome? fun m => match m with
      | .wave id c => if id = j.id then due c (2000 + 250 * Config.hops c.pkg) else none
      | _ => none

/-- The roots of barrier trees whose open phase is past its deadline (R220). -/
def State.barsDue (s : State) : List (Nat × Nat) :=
  (s.allBars.filter (fun x => (s.barRoot treeFuel x.1 x.2.1).2.2 && decide (x.2.2.parent = none) && s.closeDue x.1 x.2.1)).map
    fun x => (x.1, x.2.1)

/-- Whether anything has come due that the next move may not overtake. -/
def State.overdue (s : State) : Bool :=
  s.strands.any s.strandDue || s.jobs.any (fun j => (s.waveDue j).isSome) || !s.barsDue.isEmpty

/-- Settles everything that has come due: the wave, closures, then each strand. -/
def State.settleAll (s : State) : State :=
  let s1 := s.jobs.foldl (fun a j => match s.waveDue j with
    | some (c, t) => a.freezeJob j.id c (word t)
    | none => a) s
  let s2 := (s1.barsDue.foldl (fun a x => a.settleBar x.1 x.2) s1)
  s2.forUids (s2.strands.map (·.uid)) State.settleCur

/-- The state in which the next move finds the package. Log 2 (DESIGN CHOICE). -/
def State.settled (s : State) : State := if s.overdue then s.settleAll else s

/-- Inserts a waiter by its order of arrival. Log 28 (DESIGN CHOICE). -/
def insertArr (x : Nat × Nat) : List (Nat × Nat) → List (Nat × Nat)
  | [] => [x]
  | y :: ys => if x.1 < y.1 then x :: y :: ys else y :: insertArr x ys

/-- The strands that wait, in the order their waits reached the homes: order and uid. -/
def State.waiters (s : State) : List (Nat × Nat) :=
  s.strands.foldl (fun l t => match t.wait with
    | some w => if w.obj.atHome then insertArr (w.arr, t.uid) l else l
    | none => l) []

/-- Every home decides the waits on its objects, in the order they reached it (R211, R224, R258). Log 2 (DESIGN CHOICE). -/
def State.poll (s : State) : State := s.waiters.foldl (fun a x => a.asUid x.2 State.collect) s

end Sys2Proof.Machine
end

