-- ==== Sys2Proof/Machine/Atomic.lean ====
section
/-! DEFINITION. Atomics (R270, R286 to R288, R340 to R343) and the vector atomic `vamo` (R165). -/

namespace Sys2Proof.Machine

/-- Whether any byte of a range lies in a live Sable region (R240, R287). -/
def State.sableAny (s : State) (loc n : Nat) : Bool :=
  (List.range n).any fun i => s.roots.any fun r => rootCovers r.2.2 (loc + i)

/-- The home finds the word of an atomic poisoned (R287 step 5). -/
def State.atomPoison (s : State) (h : Hit) (n : Nat) : Bool := isHere h.loc && s.poisoned h.loc n

/-- The checks of an atomic, in the order of R287. A pending store of the strand to the location is published before its home looks for poison: where there is one, that test comes after its publication. -/
def State.atomCheck (s : State) (va : Word) (n : Nat) (kind : AccKind) : State × Except Fail Hit :=
  if va.toNat % n ≠ 0 then (s, .error (fail .misaligned))
  else
    match s.place s.cur va n (needOf kind) false with
    | (s1, .error f) => (s1, .error f)
    | (s1, .ok h) =>
      if s1.sableAny h.loc n then (s1, .error (h.fail .handleRegion))
      else if s1.atomPoison h n && !s1.cur.pend.any (fun p => overlaps p.loc p.n h.loc n) then (s1, .error (h.fail .poisonConsumed))
      else (s1, .ok h)

/-- The new value of each ATOM function: n bytes, the old value, the operand and the compare value (R286). -/
def amoNew (fn n old v c : Nat) : Nat :=
  match fn with
  | 0 | 1 => (old + v) % 256 ^ n
  | 2 | 3 => v
  | 4 => old &&& v
  | 5 => old ||| v
  | 6 => old ^^^ v
  | 7 => if toSigned 64 old ≤ toSigned 64 v then old else v
  | 8 => if toSigned 64 old ≤ toSigned 64 v then v else old
  | 9 => if old ≤ v then old else v
  | 10 => if old ≤ v then v else old
  | 11 => if old = c then v else old
  | 12 => (addEl .f32 .rne old v).1
  | _ => (maxEl .f32 old v).1

/-- An atomic performed at a home of this package, in one step of its order: the old value is returned, and the release whose value it read is observed (R267, R270). -/
def State.atomHere (s : State) (h : Hit) (fn n v c : Nat) (rel : Option Nat) : Nat × State :=
  let old := s.peekKey h.key h.loc n
  let seen := s.lastRel h.loc n
  let s1 := s.atomicPut h.key h.loc n (amoNew fn n old v c) rel
  (old, s1.onCur fun t => { t with obs := seen ++ t.obs })

/-- The end of an atomic: sd, then the acquire of its `aq` part (R286). -/
def State.amoEnd (s : State) (d : BitVec 5) (v : Word) (aq : Bool) (sc : Scope) : State :=
  let s1 := s.onCur fun t => t.setS d v
  (if aq then s1.acquire sc [] else s1).retire

/-- Sends an atomic of the current instruction on its way to the host or a peer's home: it waits for the old value, for room in the proxy queue, or faults (R288, R341, R342, R364). -/
def State.sendAtom (s : State) (fn n : Nat) (va : Word) (h : Hit) (v c : Nat) (sc : Scope) (rl : Bool) : State :=
  let r := s.faultRec (fail .fabricUnreachable) va 4 sc.code
  if isHostLoc h.loc then
    match s.sendHost fn n 0 h (word v) (word c) with
    | (.req id, s1) => s1.waitOn (.atomicReply id) 0 0 none false (some { r with code := .hostAtomicUnsupported })
    | (.proxied seq, s1) =>
      s1.waitOn (.proxyReply seq) 0 0 (some (s.jtime + s.cur.dlDef)) false (some { r with code := .hostProxyExpired, tag := word seq })
    | (.full, s1) => s1.boundedWait .proxyQueue { r with code := .hostProxyExpired, tag := BitVec.allOnes 64 }
    | (.unsupported, s1) => s1.takeFault { r with code := .hostAtomicUnsupported }
    | (.shut, s1) => s1.takeFault { r with code := .kindForbidden }
  else
    let (id, s1) := s.sendPeer fn n 0 h sc rl (word v) (word c)
    s1.waitOn (.atomicReply id) 0 0 none false (some r)

/-- The atomic itself, once its release is complete: at home, at the host, or at a peer's home (R286, R288, R364). -/
def State.amoGo (s : State) (fn n : Nat) (d : BitVec 5) (va : Word) (h : Hit) (v c : Nat) (sc : Scope) (aq : Bool)
    (rel : Option Nat) (ext : Nat → Word) : State :=
  s.publishAt h.loc n fun s =>
    if s.atomPoison h n then s.takeFault (s.faultRec (h.fail .poisonConsumed) va 4 sc.code)
    else if isHere h.loc then
      let (old, s1) := s.atomHere h fn n v c rel
      s1.amoEnd d (ext old) aq sc
    else s.sendAtom fn n va h v c sc rel.isSome

/-- The current strand's atomic in the host's or a peer's memory has answered: the release whose value it found is observed, and what it wrote is known there as its own release's, if it carries `rl` (R267). Log 24 (DESIGN CHOICE). -/
def State.atomFar (s : State) (va : Word) (n fn old v c : Nat) (rl : Bool) : State :=
  match (s.place s.cur va n (needOf .atomic) false).2 with
  | .error _ => s
  | .ok h =>
    if isHere h.loc then s
    else
      let mine := if rl then ((s.rels.find? fun r => !r.host && decide (r.by_ = s.cur.sid)).map (·.id)).toList else []
      (s.heardFar h.loc (bytesOfNat n old)).noteFar h.loc n (amoNew fn n old v c) mine (some s.cur.uid)

/-- An ATOM instruction (R286, R287): the checks, the release of its `rl` part, the atomic, the acquire of its `aq` part. A reply that is there completes it without sending it again (R343). -/
def State.amo (s : State) (fn n : Nat) (d a b : BitVec 5) (sc : BitVec 3) (rl aq : BitVec 1) (ext : Nat → Word) : State :=
  s.issue (if fn = 11 then [a, b, d] else [a, b]) [d] fun s =>
    let scope := Scope.ofCode sc.toNat
    let va := s.cur.getS a
    match s.cur.replies.get none 0 with
    | some old =>
      (s.atomFar va n fn (old.toNat % 256 ^ n) ((s.cur.getS b).toNat % 256 ^ n) (s.cur.getS d).toNat (decide (rl = 1))).amoEnd
        d (ext (old.toNat % 256 ^ n)) (decide (aq = 1)) scope
    | none =>
      match s.atomCheck va n .atomic with
      | (s1, .error f) => s1.takeFault (s1.faultRec f va 4 scope.code)
      | (s1, .ok h) =>
        if s1.mstMeets h.loc n then s1.holdOn .mstDrain else
        let v := (s.cur.getS b).toNat % 256 ^ n
        let c := (s.cur.getS d).toNat
        let go (rel : Option Nat) (s : State) : State := s.amoGo fn n d va h v c scope (decide (aq = 1)) rel ext
        if rl = 1 then s1.withRelease scope [] fun id s => go (some id) s else go none s1

/-- `amoadd.w`: the location takes old + v, 4 bytes (R286). -/
def execAmoaddW (d a b : BitVec 5) (sc : BitVec 3) (rl aq : BitVec 1) (s : State) : Result := .next (s.amo 0 4 d a b sc rl aq sext32)
/-- `amoadd.d`: the location takes old + v (R286). -/
def execAmoaddD (d a b : BitVec 5) (sc : BitVec 3) (rl aq : BitVec 1) (s : State) : Result := .next (s.amo 1 8 d a b sc rl aq word)
/-- `amoswap.w`: the location takes v, 4 bytes (R286). -/
def execAmoswapW (d a b : BitVec 5) (sc : BitVec 3) (rl aq : BitVec 1) (s : State) : Result := .next (s.amo 2 4 d a b sc rl aq sext32)
/-- `amoswap.d`: the location takes v (R286). -/
def execAmoswapD (d a b : BitVec 5) (sc : BitVec 3) (rl aq : BitVec 1) (s : State) : Result := .next (s.amo 3 8 d a b sc rl aq word)
/-- `amoand.d`: the location takes old AND v (R286). -/
def execAmoandD (d a b : BitVec 5) (sc : BitVec 3) (rl aq : BitVec 1) (s : State) : Result := .next (s.amo 4 8 d a b sc rl aq word)
/-- `amoor.d`: the location takes old OR v (R286). -/
def execAmoorD (d a b : BitVec 5) (sc : BitVec 3) (rl aq : BitVec 1) (s : State) : Result := .next (s.amo 5 8 d a b sc rl aq word)
/-- `amoxor.d`: the location takes old XOR v (R286). -/
def execAmoxorD (d a b : BitVec 5) (sc : BitVec 3) (rl aq : BitVec 1) (s : State) : Result := .next (s.amo 6 8 d a b sc rl aq word)
/-- `amomin.d`: the location takes the smaller, signed (R286). -/
def execAmominD (d a b : BitVec 5) (sc : BitVec 3) (rl aq : BitVec 1) (s : State) : Result := .next (s.amo 7 8 d a b sc rl aq word)
/-- `amomax.d`: the location takes the larger, signed (R286). -/
def execAmomaxD (d a b : BitVec 5) (sc : BitVec 3) (rl aq : BitVec 1) (s : State) : Result := .next (s.amo 8 8 d a b sc rl aq word)
/-- `amominz.d`: the location takes the smaller, unsigned (R286). -/
def execAmominzD (d a b : BitVec 5) (sc : BitVec 3) (rl aq : BitVec 1) (s : State) : Result := .next (s.amo 9 8 d a b sc rl aq word)
/-- `amomaxz.d`: the location takes the larger, unsigned (R286). -/
def execAmomaxzD (d a b : BitVec 5) (sc : BitVec 3) (rl aq : BitVec 1) (s : State) : Result := .next (s.amo 10 8 d a b sc rl aq word)
/-- `amocas.d`: the location takes v where old = sd (R286). -/
def execAmocasD (d a b : BitVec 5) (sc : BitVec 3) (rl aq : BitVec 1) (s : State) : Result := .next (s.amo 11 8 d a b sc rl aq word)
/-- `amofadd.s`: the location takes the f32 sum, rounded to nearest even (R286). -/
def execAmofaddS (d a b : BitVec 5) (sc : BitVec 3) (rl aq : BitVec 1) (s : State) : Result := .next (s.amo 12 4 d a b sc rl aq word)
/-- `amofmax.s`: the location takes the larger f32 (R286). -/
def execAmofmaxS (d a b : BitVec 5) (sc : BitVec 3) (rl aq : BitVec 1) (s : State) : Result := .next (s.amo 13 4 d a b sc rl aq word)

/-! `vamo` (R165). -/

/-- The scope of an element's operation, by where it goes (R165). -/
def vamoScope (loc : Nat) : Scope := if isHostLoc loc then .sys else if isPeerLoc loc then .fab else .pkg

/-- Performs or sends the elements of a `vamo` in ascending order. An address fault ends the pass there (R164); an element whose home finds its word poisoned, and one that cannot be sent, is a failure of its own, which ends nothing; one that finds the proxy queue full stays to be sent. Log 36 (DEDUCED). -/
def State.vamoSeq (s : State) (d : BitVec 5) : List VAcc → State × Option (Nat × Word × Fail)
  | [] => (s, none)
  | x :: xs =>
    let w := widthOf s.cur.vty
    let n := w / 8
    let failed (s : State) (c : FaultCode) : State := s.onCur fun t => { t with replies := t.replies.set none x.i (some (badReply c none)) }
    match s.atomCheck x.va n .vamo with
    | (s1, .error f) => if f.code = .poisonConsumed then (failed s1 f.code).vamoSeq d xs else (s1, some (x.i, x.va, f))
    | (s1, .ok h) =>
      let v := elemAt w (s1.cur.getV d) x.i
      let fn := if s1.cur.vty = .f32 then 12 else if n = 4 then 0 else 1
      let done (s : State) : State := s.onCur fun t => { t with vamoTodo := t.vamoTodo.map fun l => l.filter (fun i => decide (i ≠ x.i)) }
      if s1.atomPoison h n then (failed s1 .poisonConsumed).vamoSeq d xs
      else if isHere h.loc then (done (s1.atomHere h fn n v 0 none).2).vamoSeq d xs
      else if isHostLoc h.loc then
        match s1.sendHost fn n x.i h (word v) 0 with
        | (.unsupported, s2) => (failed s2 .hostAtomicUnsupported).vamoSeq d xs
        | (.shut, s2) => (failed s2 .kindForbidden).vamoSeq d xs
        | (_, s2) => s2.vamoSeq d xs
      else (s1.sendPeer fn n x.i h .fab false (word v) 0).2.vamoSeq d xs

/-- The places of the elements up to the first whose address fails its checks. -/
def State.vamoPlaces (s : State) (n : Nat) : List VAcc → List Nat
  | [] => []
  | x :: xs => match s.atomCheck x.va n .vamo with
    | (s1, .ok h) => h.loc :: s1.vamoPlaces n xs
    | (s1, .error f) => if f.code = .poisonConsumed then s1.vamoPlaces n xs else []

/-- The lowest element whose operation a home refused, with its code and proxy number. -/
def Strand.vamoBad (t : Strand) : Option (FaultCode × Option Nat) :=
  match t.replies with
  | [] => none
  | (_, some v) :: _ => (codeOfNum (v.toNat % 256)).map fun c => (c, if v.toNat / 256 = 0 then none else some (v.toNat / 256 - 1))
  | (_, none) :: _ => none

/-- The pass over a `vamo`'s elements is over: it waits for reports, faults at the lowest element not performed, goes on when the proxy queue has room, or retires (R165). Its fault records carry scope 0: R105 wants the scope of an atomic, and a `vamo` names none for the instruction (log 63, DESIGN CHOICE). Log 36 (DEDUCED). -/
def State.vamoAfter (s : State) (d a b : BitVec 5) : State :=
  let todo := s.cur.vamoTodo.getD []
  let va := s.cur.indexAddr a b (todo.headD 0)
  let r : FaultRec := { s.faultRec (fail .fabricUnreachable) va 4 0 with elem := some (todo.headD 0) }
  if s.outstanding s.cur.uid then
    s.waitOn (.atomicReply 0) 0 0 (if s.pkg.proxies.any (fun p => decide (p.uid = s.cur.uid)) then some (s.jtime + s.cur.dlDef) else none)
      false (some { r with code := .hostProxyExpired })
  else if todo = [] then (s.onCur fun t => { t with vamoTodo := none }).vdone [d, b]
  else
    match s.cur.vamoBad with
    | some (c, q) =>
      s.takeFault { r with code := c, tag := (match q with
        | some seq => word seq
        | none => if c = .hostProxyExpired then BitVec.allOnes 64 else 0) }
    | none => s.boundedWait .proxyQueue { r with code := .hostProxyExpired, tag := BitVec.allOnes 64 }

/-- `vamo`: adds each active element at its home; only the elements not yet performed when it issues again (R165). Neither a release nor an acquire. Log 36 (DEDUCED). The strand's own pending stores to the elements' places are published first (R270); where one of them fails its re-translation (R304) or its home refuses it, the rules say nothing of the `vamo`: it faults with that store's address and access kind 3, performs no element and leaves `ffx`. Log 63 (DESIGN CHOICE). -/
def execVamo (d a b k : BitVec 5) (s : State) : Result :=
  .next (s.vissue [a] [] [d, b] [] (fun t => t.takes tyWide false) fun s => s.afterMst fun s =>
    if s.cur.vamoTodo.isSome && (s.outstanding s.cur.uid || s.cur.replies ≠ []) then s.vamoAfter d a b
    else
      let all := s.cur.accs k (s.cur.indexAddr a b)
      let accs := match s.cur.vamoTodo with
        | some l => all.filter (fun x => l.contains x.i)
        | none => all
      let s0 := s.onCur fun t => { t with vamoTodo := some (accs.map (·.i)) }
      let n := widthOf s.cur.vty / 8
      let locs := s0.vamoPlaces n accs
      s0.publishIf (fun p => locs.any fun l => overlaps p.loc p.n l n) fun s0 => match s0.vamoSeq d accs with
      | (s1, none) => s1.vamoAfter d a b
      | (s1, some (i, va, f)) =>
        if s1.outstanding s1.cur.uid || s1.cur.replies ≠ [] then
          (s1.onCur fun t => { t with replies := t.replies.set none i (some (badReply f.code none)) }).vamoAfter d a b
        else s1.vecFault i va f 4)

/-- VAMO_REPORT: a home's report of an element of a `vamo` reaches its strand (R165). -/
def execVamoReport (sid : BitVec 32) (elem : Nat) (code : Option FaultCode) (s : State) : Result :=
  .next (match s.strand? sid with
  | none => s
  | some t =>
    if t.vamoTodo.isSome && s.outstandingEl t.uid elem then
      s.opReply t.uid elem (match code with
        | none => .inl 0
        | some c => .inr (badReply c none))
    else s)

end Sys2Proof.Machine
end

