-- ==== Sys2Proof/Machine/Sync.lean ====
section
/-! DEFINITION. Barriers, locks, fences and watermarks (07_cluster.md R214 to R229, R260 to R262). -/

namespace Sys2Proof.Machine

/-! Records of 8-byte words in memory (R216, R243, R260). -/

/-- Reads n words of a record, each as `ld.d` reads, watermarks apart: the words as one little-endian number. -/
def State.recWords (s : State) (va : Word) : Nat → State × ElRes
  | 0 => (s, .ok 0 false)
  | n + 1 =>
    match s.recWords va n with
    | (s1, .ok v void) =>
      let a := va + word (8 * n)
      (match s1.check s1.cur a 8 (needOf .load) with
       | (s2, .error f) => (s2, .bad f)
       | (s2, .ok h) =>
         if h.void then (s2, .ok v true)
         else if isHere h.loc then
           if h.sable then (s2, .ok (v + 2 ^ (64 * n) * s2.peekKey h.key h.loc 8) void)
           else
             let (x, s3) := s2.loadHere h.key h.loc 8
             (s3, .ok (v + 2 ^ (64 * n) * x) void)
         else
           match fetched s2.cur.buf h.loc 8 with
           | some bs => (s2.heardFar h.loc bs, .ok (v + 2 ^ (64 * n) * natOfBytes (overlayPend h.loc bs s2.cur.pend)) void)
           | none => (s2, .need h.loc 8 h.key false))
    | r => r

/-- Reads a record of n words aligned to a number of bytes, and goes on with it; a fault carries the record's address (R216). Log 59 (DEDUCED). -/
def State.readRec (s : State) (va : Word) (align n : Nat) (k : Nat → State → State) : State :=
  if va.toNat % align ≠ 0 then s.faultCode .misaligned va 2 0
  else s.afterMst fun s =>
    match s.recWords va n with
    | (s1, .ok v void) => k v (if void then s1.onCur Strand.setVoidRead else s1)
    | (s1, .bad f) => s1.takeFault (s1.faultRec f va 2 0)
    | (s1, .need loc m key _) => s1.askRemote loc m key 0 (s1.faultRec (fail .fabricUnreachable) va 2 0)
    | (s1, .stall) => s1

/-- A field of a record: k bytes at an offset. -/
def recField (v off k : Nat) : Nat := v / 256 ^ off % 256 ^ k

/-! Barriers. -/

/-- Whether a barrier ID names an object of a cluster bound to the current strand's job, reserved bits zero (R214, R216). Log 16 (DEDUCED). -/
def State.barIdOk (s : State) (id : BitVec 32) : Bool :=
  decide (id.toNat / 2 ^ 8 % 2 ^ 9 = 0) && decide (sidPkg id = s.pkgNo) && decide (sidCluster id < 5) &&
  (s.boundClusters s.cur.job).contains (barCluster id)

/-- The limits of step 2 of R216 on a record read as a number. -/
def State.barRecOk (s : State) (v : Nat) : Bool :=
  let id := BitVec.ofNat 32 v
  let parent := BitVec.ofNat 32 (recField v 8 4)
  let flags := recField v 12 4
  decide (recField v 6 2 = 0) && decide (flags / 2 % 2 ^ 7 = 0) && decide (flags / 2 ^ 14 = 0) &&
  decide (1 ≤ recField v 5 1 ∧ recField v 5 1 ≤ 64) &&
  decide (recField v 4 1 < recField v 5 1 ∨ recField v 4 1 = 0xFF) && s.barIdOk id &&
  (decide (flags % 2 = 0) || (s.barIdOk parent && decide (parent ≠ id)))

/-- Puts a subtree at a phase: what was counted or held for earlier phases is discarded, and what was held for that phase is counted in it (R215). -/
def State.rephase (s : State) (p : BitVec 32) (t : List (Nat × Nat)) : State :=
  t.foldl (fun (a : State) x =>
    let b := a.bar x.1 x.2
    if b.phase = p then a
    else
      let next := decide (p = b.phase + 1)
      a.setBar x.1 x.2 { b with
        phase := p, arrived := if next then b.early &&& b.members else 0, early := 0, dl := if next then b.dlNext else none, dlNext := none
        rels := if next then b.earlyRels else [], earlyRels := [] }) s

/-- Configures an object from a record (R215, R216): its phase is that of a configured parent, else 0, and the objects already below it take that phase. -/
def State.configure (s : State) (c o v : Nat) : State :=
  let flags := recField v 12 4
  let parent := if flags % 2 = 1 then some (BitVec.ofNat 32 (recField v 8 4)) else none
  let p : BitVec 32 := match parent with
    | none => 0
    | some q => if (s.bar (barCluster q) (barObj q)).config then (s.bar (barCluster q) (barObj q)).phase else 0
  let t := s.barTree treeFuel c o
  let b : Barrier := { Barrier.zero with
    config := true, count := recField v 5 1, parent := parent, index := flags / 2 ^ 8 % 64, flags := BitVec.ofNat 32 flags,
    members := BitVec.ofNat 64 (2 ^ recField v 5 1 - 1), phase := p, job := s.cur.job }
  ((s.setBar c o b).rephase p t).settleBar c o

/-- Whether a configured object agrees with a record: count, parent and flags (R216). -/
def Barrier.agrees (b : Barrier) (v : Nat) : Bool :=
  decide (b.count = recField v 5 1) && decide (b.flags = BitVec.ofNat 32 (recField v 12 4)) &&
  (decide (recField v 12 4 % 2 = 0) || decide (b.parent = some (BitVec.ofNat 32 (recField v 8 4))))

/-- Binds a barrier register of the current strand to an object as a party; a dropped party is admitted again after the open phase (R216). -/
def State.bindBar (s : State) (n : BitVec 5) (c o party : Nat) : State :=
  if party = 0xFF then s.onCur fun t => t.setB n none
  else
    let b := s.bar c o
    let s1 := if b.members.getLsbD party then s else s.setBar c o { b with readmit := b.readmit ||| (1#64 <<< party) }
    s1.onCur fun t => t.setB n (some ⟨c, o, party, b.phase, false⟩)

/-- `bbind`: reads the configuration record at sa, configures the object where nothing has, and binds bN (R216). Log 16 (DEDUCED). -/
def execBbind (d a : BitVec 5) (s : State) : Result :=
  .next (s.issue [a] [] fun s => s.readRec (s.cur.getS a) 16 2 fun v s =>
    if !s.barRecOk v then s.faultCode .illegalOperand 0 0 0
    else
      let id := BitVec.ofNat 32 v
      let c := barCluster id
      let o := barObj id
      let party := recField v 4 1
      if (s.bar c o).config then
        if (s.bar c o).agrees v then (s.bindBar d c o party).retire else s.faultCode .illegalOperand 0 0 0
      else if s.treeHeld (s.barTree treeFuel c o) then s.holdOn .fabricAck
      else ((s.configure c o v).bindBar d c o party).retire)

/-- An arrival of the current strand through bN, decided at the object's home in one step (R217, R218): a late or excused one ends the instruction; a counted one is a release, and the instruction goes on with the register as it stood. -/
def State.arrive (s : State) (d n : BitVec 5) (k : BReg → State → State) : State :=
  match s.cur.getB n with
  | none => s.faultCode .illegalOperand 0 0 0
  | some r =>
    let b := s.bar r.cluster r.obj
    if s.phaseShut r.cluster r.obj && !s.cur.resv.contains (.bar r.cluster r.obj) then s.holdOn .fabricAck else
    match b.classify r.party r.phase with
    | .excused => (s.onCur fun t => t.setB n (some { r with phase := b.phase })).finish 1 b.phase .excused 0 d 0
    | .late abs => (s.onCur fun t => t.setB n (some { r with phase := b.phase })).finish 1 r.phase .late abs d abs
    | .overrun => s.faultCode .barOverrun 0 0 0
    | .counted early =>
      s.withRelease (s.barScope r.cluster r.obj) [.bar r.cluster r.obj] fun id s =>
        k r ((s.countArrival r.cluster r.obj r.party early id).onCur fun t => t.setB n (some { r with phase := r.phase + 1, since := true }))

/-- Supplies a deadline to an object for a phase, and decides closure (R219, R220). -/
def State.supplyDl (s : State) (c o : Nat) (q : BitVec 32) (e : Word) : State :=
  let b := s.bar c o
  let b1 := if q = b.phase then { b with dl := minDl b.dl (some e) } else { b with dlNext := minDl b.dlNext (some e) }
  (s.setBar c o b1).settleBar c o

/-- Waits for the closure of phase q of an object (R219, R220): a closed phase answers at once; else the clamped deadline is supplied to the home, which also ends the wait. Under a root that is not configured no phase closes, and a deadline already passed ends the wait alone. Log 60 (DEDUCED). -/
def State.waitBar (s : State) (d : BitVec 5) (c o : Nat) (q : BitVec 32) (dl : Word) : State :=
  if phaseDiff q (s.bar c o).phase < 0 then s.finishBarrier ⟨.barrier c o q, 1, d, none, false, 0, none⟩ c o q
  else
    let past := decide (dl.toNat ≤ s.jtime.toNat)
    let e := s.clampDl dl
    let s1 := (s.waitOn (.barrier c o q) 1 d (some e) past none).supplyDl c o q e
    match s1.cur.wait with
    | none => s1
    | some w =>
      match s1.homeDecide w with
      | some s2 => s2
      | none => if past && !(s1.barRoot treeFuel c o).2.2 then s1.lapse w else s1

/-- `barr`: arrives and does not wait (R218). -/
def execBarr (d a : BitVec 5) (s : State) : Result :=
  .next (s.issue [] [d] fun s => s.arrive d a fun r s => s.finish 1 r.phase .met 0 d 0)

/-- `bwait`: waits for the closure of the phase of the latest counted arrival (R219). -/
def execBwait (d a b : BitVec 5) (s : State) : Result :=
  .next (s.issue [b] [d] fun s =>
    match s.cur.getB a with
    | none => s.faultCode .illegalOperand 0 0 0
    | some r =>
      if !r.since then s.faultCode .illegalOperand 0 0 0
      else s.waitBar d r.cluster r.obj (r.phase - 1) (s.cur.getS b))

/-- `bsync`: `barr` and then `bwait` on the phase just arrived in (R219). -/
def execBsync (d a b : BitVec 5) (s : State) : Result :=
  .next (s.issue [b] [d] fun s => s.arrive d a fun r s => s.waitBar d r.cluster r.obj r.phase (s.cur.getS b))

/-- `bdrop`: removes the parties of sa from the member set, from the open phase onward (R221). -/
def execBdrop (d a : BitVec 5) (s : State) : Result :=
  .next (s.issue [a] [] fun s =>
    match s.cur.getB d with
    | none => s.faultCode .illegalOperand 0 0 0
    | some r =>
      let b := s.bar r.cluster r.obj
      let m := ~~~(s.cur.getS a &&& b.members)
      if s.reserved (.bar r.cluster r.obj) then s.holdOn .fabricAck
      else ((s.setBar r.cluster r.obj { b with members := b.members &&& m, arrived := b.arrived &&& m, early := b.early &&& m }).settleBar
        r.cluster r.obj).retire)

/-- Set bits of a set of parties. -/
def parties (m : BitVec 64) : Nat := ((List.range 64).filter (fun i => m.getLsbD i)).length

/-- What `bstat` reads of bN (R222). -/
def State.barStat (s : State) (r : BReg) : Word :=
  let b := s.bar r.cluster r.obj
  word (2 ^ 54 + r.party * 2 ^ 48 + (if b.config then 2 ^ 47 else 0) +
    parties (s.barArrived treeFuel r.cluster r.obj &&& b.members) * 2 ^ 40 + parties b.members * 2 ^ 33 + b.phase.toNat)

/-- `bstat`: the object's state at its home; 0 for an unbound bN (R222). -/
def execBstat (d a : BitVec 5) (s : State) : Result :=
  .next (s.issue [] [d] fun s =>
    (s.onCur fun t => t.setS d (match s.cur.getB a with
      | none => 0
      | some r => s.barStat r)).retire)

/-- BARRIER_DEADLINE_CLOSE: `jtime` has passed the earliest deadline of a root's open phase, and the phase closes (R220). -/
def execBarrierDeadlineClose (cluster obj : Nat) (s : State) : Result :=
  .next (let b := s.bar cluster obj
    let runs := match s.job? b.job with
      | some j => !j.halted && j.jrun
      | none => false
    if b.config && decide (b.parent = none) && runs && s.closeDue cluster obj then s.settleBar cluster obj else s)

/-! Locks. -/

/-- The scope a lock at an address has (R212, R223), whatever else is wrong with the access; 0 where the address leads nowhere. Log 59 (DEDUCED). -/
def State.lockScope (s : State) (va : Word) : Nat :=
  match (s.place s.cur va 1 { needOf .atomic with r := false, w := false } false).2 with
  | .ok h => (scopeOfLoc s.cur.sid h.loc).code
  | .error _ => 0

/-- The checks of R223 on a lock address, steps 1 to 5. -/
def State.lockCheck (s : State) (va : Word) : State × Except Fail Hit :=
  if va.toNat % 32 ≠ 0 then (s, .error (fail .misaligned))
  else
    match s.place s.cur va 32 { needOf .atomic with noHost := true } false with
    | (s1, .error f) => (s1, .error f)
    | (s1, .ok h) =>
      if s1.sableAny h.loc 32 then (s1, .error (h.fail .handleRegion))
      else if isHere h.loc && s1.poisoned h.loc 32 then (s1, .error (h.fail .poisonConsumed))
      else (s1, .ok h)

/-- The guard's limits and the reserved field of a lock's 32 bytes (R223). -/
def lockOk (v : Nat) : Bool :=
  decide (recField v 8 8 % 64 = 0) && decide (recField v 16 8 % 64 = 0 ∧ recField v 16 8 ≤ 2 ^ 32) && decide (recField v 24 8 = 0)

/-- A fault of a lock instruction: access kind 4, the lock's scope and address (R223). Log 59 (DEDUCED). -/
def State.lockFault (s : State) (c : FaultCode) (va : Word) (h : Hit) : State :=
  s.takeFault (s.faultRec (h.fail c) va 4 (scopeOfLoc s.cur.sid h.loc).code)

/-- The lock at sa, checked by R223: the instruction goes on with its place and its 32 bytes. A lock of a peer is asked for. -/
def State.withLock (s : State) (va : Word) (k : Hit → Nat → State → State) : State :=
  match s.lockCheck va with
  | (s1, .error f) => s1.takeFault (s1.faultRec f va 4 (s.lockScope va))
  | (s1, .ok h) =>
    let go (v : Nat) : State := if lockOk v then k h v s1 else s1.lockFault .illegalOperand va h
    if isHere h.loc then go (s1.peekKey h.key h.loc 32)
    else
      match fetched s1.cur.buf h.loc 32 with
      | some bs => go (natOfBytes bs)
      | none => s1.askRemote h.loc 32 h.key 0 (s1.faultRec (fail .fabricUnreachable) va 4 Scope.fab.code)

def lkHolder (v : Nat) : BitVec 32 := BitVec.ofNat 32 v
def lkGen (v : Nat) : BitVec 32 := BitVec.ofNat 32 (recField v 4 4)
def lkLen (v : Nat) : Nat := recField v 16 8
/-- What the current strand writes as a holder (R223). -/
def State.me (s : State) : BitVec 32 := s.cur.sid ||| 1#32
/-- Holder and generation as the 8 bytes a lock begins with. -/
def lkHead (h g : BitVec 32) : Word := word (h.toNat + g.toNat * 2 ^ 32)

/-- The current strand enters a lock in its guard table under a generation (R224, R227). Log 38 (DEDUCED). -/
def State.enterGuard (s : State) (loc v : Nat) (va : Word) (g : BitVec 32) : State :=
  s.onCur fun t => { t with
    guards := if lkLen v = 0 then t.guards
      else ⟨loc, va, word (recField v 8 8), word (lkLen v), g⟩ :: t.guards.filter (fun x => decide (x.lock ≠ loc))
    locks := loc :: t.locks.filter (fun x => decide (x ≠ loc)) }

/-- A compare-and-swap of the head of a peer's lock is sent; the instruction goes on when the old head is there (`Strand.swapped`). -/
def State.lockSwap (s : State) (h : Hit) (va old new : Word) (rl : Bool) (rel kind : Nat) (d : BitVec 5) (bound : Option Word) (past : Bool) : State :=
  let (id, s1) := s.sendPeer 11 8 0 h .fab rl new old
  (s1.onCur fun t => { t with resv := .swap h.loc rel old.toNat :: t.resv }).waitOn (.atomicReply id) kind d bound past
    (some (s1.faultRec (fail .fabricUnreachable) va 4 Scope.fab.code))

/-- A swap of a lock of a peer that has been answered: the lock's place, the release made before it, the head it was to find, and the head it found. The instruction ends by it, whatever has become of its page meanwhile. -/
structure Swapped where
  loc : Nat
  rel : Nat
  want : Word
  found : Word
deriving DecidableEq, Repr

/-- Whether the swap was made. -/
def Swapped.made (w : Swapped) : Bool := decide (w.found = w.want)
/-- The holder and the generation it found. -/
def Swapped.holder (w : Swapped) : BitVec 32 := w.found.setWidth 32
def Swapped.gen (w : Swapped) : BitVec 32 := BitVec.ofNat 32 (w.found.toNat / 2 ^ 32)

/-- The swap of the current instruction that has been answered. -/
def Strand.swapped (t : Strand) : Option Swapped :=
  match t.resv.findSome? (fun r => match r with
    | .swap l i o => some (l, i, o)
    | _ => none), t.replies.get none 0 with
  | some (l, i, o), some v => some ⟨l, i, word o, v⟩
  | _, _ => none

/-- The 32 bytes fetched of a peer's lock. -/
def Strand.lockBytes (t : Strand) (loc : Nat) : Nat := ((fetched t.buf loc 32).map natOfBytes).getD 0

/-- Entry into a wait whose object another package may hold: its deadline is clamped before anything is asked for (R74). A wait of that kind that stands already goes on. -/
def State.enterPoll (s : State) (kind : Nat) (sd : BitVec 5) (d : Word) : State :=
  if s.cur.wait.any fun w => decide (w.kind = kind) && !w.obj.isReg then s
  else (s.onCur fun t => { t with polledAt := s.jtime }).waitOn .polled kind sd (some (s.clampDl d)) (decide (d.toNat ≤ s.jtime.toNat)) none

/-- Asks again for the bytes a wait on another package's object is decided by, or ends it: its deadline had passed at entry, or had passed when the answer that finds the condition false was asked for (R74). Log 25 (DESIGN CHOICE). -/
def State.pollAgain (s : State) (kind : Nat) (d : BitVec 5) (dl : Word × Bool) (ask : State → State) (ends : WaitOutcome → State) : State :=
  if dl.2 then ends .pastOnEntry
  else if dl.1.toNat < s.cur.polledAt.toNat then ends .expired
  else ask ((s.onCur fun t => { t with buf := [], replies := [], resv := [], polledAt := s.jtime }).waitOn .polled kind d (some dl.1) dl.2 none)

/-- The current strand's place in the order of those of this package that wait for a peer's lock (R211, R224). -/
def State.enterSeek (s : State) (loc : Nat) : State :=
  match s.cur.seek with
  | some (l, _) => if l = loc then s else { s with cur := { s.cur with seek := some (loc, s.ticket) }, ticket := s.ticket + 1 }
  | none => { s with cur := { s.cur with seek := some (loc, s.ticket) }, ticket := s.ticket + 1 }

/-- Whether no strand that may ask for the lock came to it earlier (R211, R224). -/
def State.seekTurn (s : State) : Bool :=
  match s.cur.seek with
  | none => true
  | some (loc, n) => s.rest.all fun t => t.away || decide (t.run ≠ .ready) || (match t.seek with
    | some (l, m) => decide (l ≠ loc) || decide (n < m)
    | none => true)

/-- What `acq` asks of a peer about its lock. -/
def State.askLock (s : State) (va : Word) (h : Hit) : State := s.askRemote h.loc 32 h.key 0 (s.faultRec (fail .fabricUnreachable) va 4 Scope.fab.code)

/-- `acq` of a lock in a peer's memory: taken by a compare-and-swap of its head where it is free and no strand of this package came to it earlier, else asked for again until the deadline (R211, R224). Log 25 (DESIGN CHOICE). -/
def State.acqPeer (s : State) (d : BitVec 5) (va : Word) (h : Hit) (v : Nat) (dl : Word × Bool) : State :=
  let s := s.enterSeek h.loc
  if lkHolder v = 0 ∧ s.seekTurn = true then s.lockSwap h va (lkHead 0 (lkGen v)) (lkHead s.me (lkGen v + 1)) false 0 2 d (some dl.1) dl.2
  else s.pollAgain 2 d dl (fun s => s.askLock va h) fun o => s.finish 2 (lkGen v) o (holderId (lkHolder v)) d (holderId (lkHolder v))

/-- The end of an `acq` whose swap of a peer's lock has been answered: it holds the lock, or it asks again until its deadline (R224). -/
def State.acqSwapped (s : State) (d : BitVec 5) (va : Word) (w : Swapped) (dl : Word × Bool) : State :=
  if w.made then
    let g := w.gen + 1
    ((s.enterGuard w.loc (s.cur.lockBytes w.loc) va g).acquire .fab ((s.lockRels.get [] w.loc).take 1)).finish 2 g .met 0 d 0
  else s.pollAgain 2 d dl id fun o => s.finish 2 w.gen o (holderId w.holder) d (holderId w.holder)

/-- `acq`: waits, with deadline sb, to take the lock at sa (R224). -/
def execAcq (d a b : BitVec 5) (s : State) : Result :=
  .next (s.issue [a, b] [d] fun s =>
    match s.cur.swapped with
    | some w => s.acqSwapped d (s.cur.getS a) w (s.pollDl (s.cur.getS b))
    | none =>
    let va := s.cur.getS a
    (s.enterPoll 2 d (s.cur.getS b)).withLock va fun h v s =>
      if lkHolder v = s.me then s.lockFault .illegalOperand va h
      else if lkLen v ≠ 0 ∧ s.cur.guards.length ≥ 4 then s.lockFault .illegalOperand va h
      else if isHere h.loc then s.deadlineWait (.lock h.loc va) 2 d (s.cur.getS b)
      else s.acqPeer d va h v (s.pollDl (s.cur.getS b)))

/-- The current strand no longer holds a lock. -/
def State.leaveGuard (s : State) (loc : Nat) : State :=
  s.onCur fun t => { t with
    guards := t.guards.filter (fun x => decide (x.lock ≠ loc))
    locks := t.locks.filter (fun x => decide (x ≠ loc)) }

/-- A `rel` that finds another holder: the lock's tagged stores are discarded (R226). -/
def State.relStale (s : State) (d : BitVec 5) (loc : Nat) (holder gen : BitVec 32) : State :=
  let s1 := (s.leaveGuard loc).onCur fun t => { t with pend := t.pend.filter fun p => match p.tag with
    | some (l, _) => decide (l ≠ loc)
    | none => true }
  s1.finish 2 gen .stale (holderId holder) d 7

/-- A `rel` that has released: the lock is free; its release joins those made through the lock, latest first: the next taker acquires it, a mender all of them (R226, R267, R273). -/
def State.relMet (s : State) (d : BitVec 5) (loc : Nat) (gen : BitVec 32) (id : Nat) : State :=
  { s.leaveGuard loc with lockRels := s.lockRels.set [] loc (id :: s.lockRels.get [] loc) }.finish 2 gen .met 0 d 0

/-- `rel`: releases the lock at sa, or finds it `STALE` (R226). For a lock in a peer's memory the stores are published first, while the strand still holds the lock, and its head is swapped then; `mend`s of this package wait for that. Log 25 (DESIGN CHOICE). -/
def execRel (d a : BitVec 5) (s : State) : Result :=
  .next (s.issue [a] [d] fun s =>
    match s.cur.swapped with
    | some w => if w.made then s.relMet d w.loc w.gen w.rel else s.relStale d w.loc w.holder w.gen
    | none =>
    let va := s.cur.getS a
    s.withLock va fun h v s =>
      let sc := scopeOfLoc s.cur.sid h.loc
      if lkHolder v ≠ s.me then s.relStale d h.loc (lkHolder v) (lkGen v)
      else s.withRelease sc [.lock h.loc] fun id s =>
        if isHere h.loc then (s.atomicPut h.key h.loc 4 0 (some id)).relMet d h.loc (lkGen v) id
        else (s.onCur fun t => { t with resv := [.lock h.loc] }).lockSwap h va (lkHead s.me (lkGen v)) (lkHead 0 (lkGen v)) true id 0 d none false)

/-- A `mend` that finds the lock moved on (R227). -/
def State.mendStale (s : State) (d : BitVec 5) (holder gen : BitVec 32) : State :=
  s.finish 2 gen .stale (holderId holder) d (holderId holder)

/-- A `mend` that has taken the lock from a holder (R227, R273). Log 38 (DEDUCED). -/
def State.mendMet (s : State) (d : BitVec 5) (va : Word) (loc v : Nat) (g : BitVec 32) : State :=
  ((s.enterGuard loc v va g).acquire (scopeOfLoc s.cur.sid loc) (s.lockRels.get [] loc)).finish 2 g .mended
    (holderId (lkHolder v)) d (holderId (lkHolder v))

/-- `mend`: takes over the lock at sa where holder and generation are those an expired `acq` returned (R227). Log 59 (DEDUCED). -/
def execMend (d a b : BitVec 5) (s : State) : Result :=
  .next (s.issue [a, b, d] [d] fun s =>
    match s.cur.swapped with
    | some w => if w.made then s.mendMet d (s.cur.getS a) w.loc (s.cur.lockBytes w.loc) (w.gen + 1) else s.mendStale d w.holder w.gen
    | none =>
    let va := s.cur.getS a
    s.withLock va fun h v s =>
      let gen := s.cur.getS b
      if gen.toNat ≥ 2 ^ 32 then s.lockFault .illegalOperand va h
      else if (s.cur.getS d ||| 1#64) = (lkHolder v).setWidth 64 ∧ gen = (lkGen v).setWidth 64 then
        let g := lkGen v + 1
        if s.reserved (.lock h.loc) then (s.onCur fun t => { t with buf := [] }).holdOn .fabricAck
        else if isHere h.loc then ((s.onCur fun t => { t with obs := s.lastRel h.loc 4 ++ t.obs }).atomicPut h.key h.loc 8 (lkHead s.me g).toNat none).mendMet d va h.loc v g
        else s.lockSwap h va (lkHead (lkHolder v) (lkGen v)) (lkHead s.me g) false 0 0 d none false
      else s.mendStale d (lkHolder v) (lkGen v))

/-! Fences (R229). -/

/-- `pacq`: an acquire event at the scope (R229). -/
def execPacq (sc : BitVec 3) (s : State) : Result :=
  .next (s.issue [] [] fun s => (s.acquire (Scope.ofCode sc.toNat) []).retire)

/-- `prel`: a release event at the scope (R229). Log 45 (DEDUCED). -/
def execPrel (sc : BitVec 3) (s : State) : Result :=
  .next (s.issue [] [] fun s => s.withRelease (Scope.ofCode sc.toNat) [] fun _ s => s.retire)

/-- `pfull`: a release and then an acquire as one event, which takes its place in the total order of the scope's `pfull` events (R229, R267). Log 45 (DEDUCED). -/
def execPfull (sc : BitVec 3) (s : State) : Result :=
  .next (s.issue [] [] fun s =>
    let scope := Scope.ofCode sc.toNat
    s.withRelease scope [] fun id s =>
      let earlier := (s.pfulls.filter (fun p => decide (p.1 = scope))).map (·.2)
      let s1 := s.acquire scope earlier
      { s1 with pfulls := (scope, id) :: s1.pfulls }.retire)

/-! Watermarks. -/

/-- `wmbind`: binds wN to the object at sa and the region of the record at sb; a length of 0 unbinds it (R260). -/
def execWmbind (d a b : BitVec 5) (s : State) : Result :=
  .next (s.issue [a, b] [] fun s =>
    let obj := s.cur.getS a
    if obj.toNat % 8 ≠ 0 then s.faultCode .misaligned obj 2 0
    else s.readRec (s.cur.getS b) 16 2 fun v s =>
      let base := recField v 0 8
      let len := recField v 8 8
      if base + len > 2 ^ 64 then s.faultCode .illegalOperand 0 0 0
      else (s.onCur fun t => t.setW d (if len = 0 then none else some ⟨obj, word base, word len⟩)).retire)

/-- A watermark that stood at a value has been raised with a release: raises made before it was last lowered stand no longer (R261). -/
def State.noteRaise (s : State) (loc was v rel : Nat) : State :=
  { s with markRels := s.markRels.set [] loc ((v, rel) :: standing was (s.markRels.get [] loc)) }

/-- `wmpub`: releases at the watermark's scope and then raises the object at sa to sb, if it is lower (R262). At a peer or the host the raise is an unsigned atomic maximum. Log 39 (DEDUCED). -/
def execWmpub (a b : BitVec 5) (s : State) : Result :=
  .next (s.issue [a, b] [] fun s =>
    let va := s.cur.getS a
    let v := s.cur.getS b
    match s.cur.replies.get none 0 with
    | some _ => s.retire
    | none =>
      match s.atomCheck va 8 .atomic with
      | (s1, .error f) => s1.takeFault (s1.faultRec f va 4 0)
      | (s1, .ok h) =>
        let scope := scopeOfLoc s1.cur.sid h.loc
        s1.withRelease scope [] fun id s =>
          if s.atomPoison h 8 then s.takeFault (s.faultRec (h.fail .poisonConsumed) va 4 0)
          else if isHere h.loc then
            let was := s.peekKey h.key h.loc 8
            if was < v.toNat then ((s.atomicPut h.key h.loc 8 v.toNat (some id)).noteRaise h.loc was v.toNat id).retire
            else s.retire
          else (s.noteRaise h.loc v.toNat v.toNat id).amoGo 10 8 0 va h v.toNat 0 scope false (some id) word)

/-- `wmrd`: the bound watermark's current value, read at its home; not an acquire (R262). -/
def execWmrd (d a : BitVec 5) (s : State) : Result :=
  .next (s.issue [] [d] fun s =>
    match s.cur.getW a with
    | none => s.faultCode .illegalOperand 0 0 0
    | some w =>
      match s.check s.cur w.obj 8 (needOf .load) with
      | (s1, .error f) => s1.takeFault (s1.faultRec f w.obj 2 0)
      | (s1, .ok h) =>
        let go (v : Nat) : State := (s1.onCur fun t => t.setS d (word v)).retire
        if isHere h.loc then go (s1.peekKey h.key h.loc 8)
        else
          match fetched s1.cur.buf h.loc 8 with
          | some bs => go (natOfBytes bs)
          | none => s1.askRemote h.loc 8 h.key 0 (s1.faultRec (fail .fabricUnreachable) w.obj 2 0))

end Sys2Proof.Machine
end

