-- ==== Sys2Proof/Machine/RingInstr.lean ====
section
/-! DEFINITION. Stage rings (07_cluster.md R230 to R238). -/

namespace Sys2Proof.Machine

/-- The cluster whose memory holds a near place. -/
def nearCluster (loc : Nat) : Nat := if loc < 2 ^ 45 then (loc - 2 ^ 44) / 2 ^ 21 / 48 else (loc - 2 ^ 45) / 2 ^ 24 / 12

/-- Bytes of the scratchpad or vault that holds a near place, from the place on. -/
def nearLeft (loc : Nat) : Nat :=
  if loc < 2 ^ 45 then 2 ^ 21 - (loc - 2 ^ 44) % 2 ^ 21 else 2 ^ 24 - (loc - 2 ^ 45) % 2 ^ 24

/-- The ring a descriptor describes for the current strand, with its role; none where a field breaks its limits, a reserved byte is not 0, or slots leave the partition (R230, R231). -/
def State.ringOf (s : State) (v : Nat) : Option (Ring × Nat) :=
  let ssize := recField v 8 4
  let depth := recField v 12 2
  let role := recField v 14 1
  let lead := recField v 15 1
  let bid := BitVec.ofNat 32 (recField v 16 4)
  let void := recField v 20 1
  let bytes := depth * ssize
  match windowLoc s.cur.sid (word (recField v 0 8)) with
  | none => none
  | some loc =>
    if nearCluster loc = s.curCluster ∧ recField v 0 8 % 64 = 0 ∧ ssize % 64 = 0 ∧ 64 ≤ ssize ∧ 2 ≤ depth ∧ depth ≤ 16 ∧
        bytes ≤ 2 ^ 18 ∧ bytes ≤ nearLeft loc ∧ 1 ≤ role ∧ role ≤ 3 ∧ 1 ≤ lead ∧ lead < depth ∧
        bid.toNat / 2 ^ 8 % 2 ^ 9 = 0 ∧ sidPkg bid = s.pkgNo ∧ sidCluster bid < 5 ∧ barCluster bid = s.curCluster ∧
        void ≤ 1 ∧ recField v 21 11 = 0 ∧ s.inPartition s.cur.job loc = true ∧ s.inPartition s.cur.job (loc + bytes - 1) = true then
      some (⟨s.curCluster, loc, ssize, depth, lead, barObj bid, decide (void = 1), 0, List.replicate depth .free, [], 0⟩, role)
    else none

/-- Whether two rings agree in every field of a descriptor but the role (R231). -/
def Ring.agrees (a b : Ring) : Bool :=
  decide (a.ssize = b.ssize ∧ a.depth = b.depth ∧ a.lead = b.lead ∧ a.barrier = b.barrier ∧ a.voidFault = b.voidFault)

/-- Binds gN to a ring, made at its first binding; none for a mismatch or a 65th ring of the cluster (R231). -/
def State.bindRing (s : State) (g : BitVec 5) (r : Ring) (role : Nat) : Option State :=
  let bind (s : State) : State :=
    (s.onRing r.base fun x => { x with bindings := x.bindings + 1 }).onCur fun t => t.setG g (some ⟨r.base, role, none, none, none⟩)
  match s.ring? r.base with
  | some x => if x.agrees r then some (bind s) else none
  | none =>
    if (s.rings.filter (fun x => decide (x.cluster = r.cluster))).length ≥ 64 then none
    else some (bind { s with rings := r :: s.rings })

/-- `rbind`: reads the descriptor at sa and binds gN; a bound gN is unbound first (R231). -/
def execRbind (d a : BitVec 5) (s : State) : Result :=
  .next (s.issue [a] [] fun s => s.readRec (s.cur.getS a) 32 4 fun v s =>
    match s.ringOf v with
    | none => s.faultCode .ringDescriptor 0 0 0
    | some (r, role) =>
      match (s.unbindRing d).bindRing d r role with
      | none => s.faultCode .ringDescriptor 0 0 0
      | some s1 => s1.retire)

/-- `rget`: waits for the slot in window slot `lead` to be free, and claims it; a voided claim is dropped first (R234, R235). -/
def execRget (d a b : BitVec 5) (s : State) : Result :=
  .next (s.issue [b] [d] fun s =>
    match s.cur.getG a with
    | none => s.faultCode .illegalOperand 0 0 0
    | some g =>
      if g.role = 2 ∨ g.claim.isSome then s.faultCode .illegalOperand 0 0 0
      else (s.onCur fun t => t.setG a (some { g with voided := none })).deadlineWait (.ringGet (a.setWidth 2)) 3 d (s.cur.getS b))

/-- `rtake`: waits for the slot in window slot 0 to be filled or void, and takes it (R234). -/
def execRtake (d a b : BitVec 5) (s : State) : Result :=
  .next (s.issue [b] [d] fun s =>
    match s.cur.getG a with
    | none => s.faultCode .illegalOperand 0 0 0
    | some g =>
      if g.role = 1 ∨ g.take.isSome then s.faultCode .illegalOperand 0 0 0
      else s.deadlineWait (.ringTake (a.setWidth 2)) 3 d (s.cur.getS b))

/-- `rput`: a release at cluster scope that fills the claimed slot; a voided claim is dropped and nothing is released (R235). -/
def execRput (a : BitVec 5) (s : State) : Result :=
  .next (s.issue [] [] fun s =>
    match s.cur.getG a with
    | none => s.faultCode .illegalOperand 0 0 0
    | some g =>
      let bars := ((s.ring? g.ring).map fun r => (r.cluster, r.barrier)).toList
      if bars.any (fun b => s.phaseShut b.1 b.2 && !s.cur.resv.contains (.bar b.1 b.2)) then s.holdOn .fabricAck else
      match g.claim, g.voided with
      | some p, _ => s.withRelease .cluster (bars.map fun b => .bar b.1 b.2) fun id s =>
          ((s.onRing g.ring fun r => { r.setSlot p .filled with rels := r.rels.set none p (some id) }).onCur fun t =>
            t.setG a (some { g with claim := none })).retire
      | none, some _ => (s.onCur fun t => t.setG a (some { g with voided := none })).retire
      | none, none => s.faultCode .illegalOperand 0 0 0)

/-- `rdone`: the taken slot is free; what the strand's earlier loads and `mld`s read of it is read at their issue (R235). -/
def execRdone (a : BitVec 5) (s : State) : Result :=
  .next (s.issue [] [] fun s =>
    match s.cur.getG a with
    | none => s.faultCode .illegalOperand 0 0 0
    | some g =>
      match g.take with
      | none => s.faultCode .illegalOperand 0 0 0
      | some p => ((s.onRing g.ring fun r => r.setSlot p .free).onCur fun t => t.setG a (some { g with take := none })).retire)

/-- What `rstat` reads of a bound gN (R237). -/
def ringStat (g : GReg) (r : Ring) : Word :=
  let c := match g.claim with
    | some p => some p
    | none => g.voided
  word (2 ^ 62 + g.take.getD 0 * 2 ^ 58 + c.getD 0 * 2 ^ 54 + (if g.take.isSome then 2 ^ 53 else 0) + (if c.isSome then 2 ^ 52 else 0) +
    ((List.range r.depth).map (fun p => (r.slotState p).code * 2 ^ (3 * p + 4))).sum + r.stage)

/-- `rstat`: the ring's state; 0 for an unbound gN (R237). -/
def execRstat (d a : BitVec 5) (s : State) : Result :=
  .next (s.issue [] [d] fun s =>
    let v : Word := match s.cur.getG a with
      | none => 0
      | some g => match s.ring? g.ring with
        | none => 0
        | some r => ringStat g r
    (s.onCur fun t => t.setS d v).retire)

/-- `runbind`: unbinds gN; no effect on an unbound one (R238). -/
def execRunbind (a : BitVec 5) (s : State) : Result := .next (s.issue [] [] fun s => (s.unbindRing a).retire)

end Sys2Proof.Machine
end

