-- ==== Sys2Proof/Machine/HandleInstr.lean ====
section
/-! DEFINITION. Sable tiles (07_cluster.md R239 to R250, R394, R395). -/

namespace Sys2Proof.Machine

/-! Handle operands (R242). -/

/-- The cluster of the package whose table holds a handle's entry. -/
def State.hTable (s : State) (h : BitVec 32) : Nat := sidDie s.cur.sid * 5 + hCluster h

/-- Whether a handle of the current strand is live. -/
def State.live (s : State) (h : BitVec 32) : Bool := s.handleLive (sidDie s.cur.sid) h

/-- The handle checks of R242 on source registers, in order: a void one, a stale one, then a destination that is neither void nor a source. The instruction goes on with the identities. Log 40 (DEDUCED). -/
def State.handles (s : State) (srcs dsts : List (BitVec 5)) (k : List (BitVec 32) → State → State) : State :=
  let hs := srcs.filterMap s.cur.getH
  if hs.length < srcs.length then s.faultCode .handleVoid 0 0 0
  else if hs.any (fun h => !s.live h) then s.faultCode .handleStale 0 0 0
  else if dsts.any (fun d => (s.cur.getH d).isSome && !srcs.any (fun r => decide (r.setWidth 4 = d.setWidth 4))) then
    s.faultCode .illegalOperand 0 0 0
  else k hs s

/-- The lowest-numbered free entry of a table (R395). -/
def State.freeEntry (s : State) (cl : Nat) : Option Nat := (List.range 1024).find? fun i => !(s.lin cl i).used

/-- Takes an entry: both halves carry the larger of its generations (R395). The generation. -/
def State.takeEntry (s : State) (cl i : Nat) (o : Origin) (tile : Option TileDesc) (pages : List (Word × Nat × Nat)) (depth : Nat) : BitVec 16 × State :=
  let e := s.lin cl i
  let g := if e.gen0.toNat ≤ e.gen1.toNat then e.gen1 else e.gen0
  (g, s.setLin cl i ⟨true, o, tile, pages, depth, s.cur.sid, s.cur.job, g, g⟩)

/-- Frees an entry: both generations are incremented (R248, R395). -/
def State.freeLin (s : State) (cl i : Nat) : State :=
  let e := s.lin cl i
  s.setLin cl i { e with used := false, gen0 := e.gen0 + 1, gen1 := e.gen1 + 1 }

/-! `hnew` (R239, R243). -/

/-- Whether strides nest from the innermost out: extents and strides innermost first, with the bytes a stride must hold (R239). -/
def nests (es : Nat) : (need : Nat) → (exts strs : List Nat) → Bool
  | _, _, [] => true
  | need, e :: exts, st :: strs => decide (0 < st ∧ st % es = 0 ∧ need ≤ st) && nests es (e * st) exts strs
  | _, [], _ :: _ => false

/-- The tile a 48-byte descriptor describes; none where a field breaks its limits (R239). -/
def tileOf (v : Nat) : Option TileDesc :=
  let code := recField v 8 1
  let exts := [recField v 16 4, recField v 20 4, recField v 24 4, recField v 28 4]
  let strs := [recField v 32 4, recField v 36 4, recField v 40 4]
  let ext := exts.takeWhile (· ≠ 0)
  let r := ext.length
  match ElTy.ofCode code with
  | none => none
  | some ty =>
    let t : TileDesc := ⟨word (recField v 0 8), ty, Scope.ofCode (recField v 9 1), ext, strs.take (r - 1)⟩
    let es := tileEsize t
    let inner := ext.reverse
    if (code ≤ 12 ∨ code = 19) ∧ recField v 9 1 ≤ 4 ∧ recField v 10 6 = 0 ∧ recField v 44 4 = 0 ∧ 1 ≤ r ∧
        (exts.drop r).all (· = 0) ∧ (strs.drop (r - 1)).all (· = 0) ∧ recField v 0 8 % es = 0 ∧
        nests es (inner.headD 0 * es) (inner.drop 1) t.str.reverse then some t
    else none

/-- The offsets of a tile's rows, ascending: extents and strides of the dimensions outside the innermost. -/
def rowOffs : (exts strs : List Nat) → List Nat
  | e :: exts, st :: strs => (List.range e).flatMap fun i => (rowOffs exts strs).map (· + i * st)
  | _, _ => [0]

/-- A run of bytes cut where pages begin: address and length. -/
def pieces : (fuel va n : Nat) → List (Nat × Nat)
  | 0, _, _ => []
  | fuel + 1, va, n =>
    let m := 2 ^ 18 - va % 2 ^ 18
    if n ≤ m then [(va, n)] else (va, m) :: pieces fuel (va + m) (n - m)

/-- The runs of a tile's region, each within a page, ascending. -/
def TileDesc.runs (t : TileDesc) : List (Nat × Nat) :=
  let row := t.ext.getLastD 0 * tileEsize t
  (rowOffs t.ext.dropLast t.str).flatMap fun o => pieces (row / 2 ^ 18 + 2) (t.base.toNat + o) row

/-- Checks the pages of a region in turn, as loads that no peer or host page may answer (R243): the places of its runs, or the fault with the address that met it. -/
def State.placeRuns (s : State) : List (Nat × Nat) → State × Except (Fail × Word) (List (Word × Nat × Nat))
  | [] => (s, .ok [])
  | (a, n) :: rs =>
    match s.place s.cur (word a) n { needOf .load with localOnly := true } false with
    | (s1, .error f) => (s1, .error (f, word a))
    | (s1, .ok h) =>
      match s1.placeRuns rs with
      | (s2, .ok l) => (s2, .ok ((word a, h.loc, n) :: l))
      | r => r

/-- Whether a byte of a run lies in a live Sable region of any lineage table of the die (R243). -/
def State.runTaken (s : State) (x : Word × Nat × Nat) : Bool :=
  (s.roots.filter fun r => decide (r.1 / 5 = sidDie s.cur.sid)).any fun r => (List.range x.2.2).any fun i => rootCovers r.2.2 (x.2.1 + i)

/-- `hnew`: claims the tile described at sa and makes its root handle (R243). Log 40 (DEDUCED). -/
def execHnew (d a : BitVec 5) (s : State) : Result :=
  .next (s.issue [a] [] fun s => s.handles [] [d] fun _ s => s.readRec (s.cur.getS a) 16 6 fun v s =>
    match tileOf v with
    | none => s.faultCode .illegalOperand 0 0 0
    | some t =>
      match s.placeRuns t.runs with
      | (s1, .error (f, va)) => s1.takeFault (s1.faultRec f va 2 0)
      | (s1, .ok l) =>
        if l.any s1.runTaken then s1.faultCode .handleRegion 0 0 0
        else
          match s1.freeEntry s1.curCluster with
          | none => s1.faultCode .lineageFull 0 0 0
          | some i =>
            s1.publishIf (fun p => l.any fun x => overlaps p.loc p.n x.2.1 x.2.2) fun s =>
              let (g, s2) := s.takeEntry s.curCluster i .root (some t) l 0
              (s2.onCur fun u => u.setH d (some (mkHandle (sidCluster s.cur.sid) i g 0))).retire)

/-! Splitting and rejoining. -/

/-- `hsplit`: the half in ha becomes hd and hb, split along an axis at an offset (R244). Log 40 (DEDUCED). -/
def execHsplit (d a b c : BitVec 5) (s : State) : Result :=
  .next (s.issue [c] [] fun s => s.handles [a] [d, b] fun hs s =>
    let h := hs.headD 0
    let cl := s.hTable h
    let v := s.cur.getS c
    let axis := v.toNat / 2 ^ 62
    let off := v.toNat % 2 ^ 32
    let ranges := ((s.handleRange (sidDie s.cur.sid) h).map (·.ranges)).getD []
    let r := ranges.getD axis (0, 0)
    let depth := (s.lin cl (hEntry h)).depth
    if ranges.length ≤ axis ∨ off = 0 ∨ r.2 - r.1 ≤ off ∨ v.toNat / 2 ^ 32 % 2 ^ 30 ≠ 0 ∨ d.setWidth 4 = b.setWidth 4 then
      s.faultCode .illegalOperand 0 0 0
    else if 6 ≤ depth then s.faultCode .illegalOperand 0 0 0
    else
      match s.freeEntry cl with
      | none => s.faultCode .lineageFull 0 0 0
      | some i =>
        let (g, s1) := s.takeEntry cl i (.split (hEntry h) (hHalf h) axis off) none [] (depth + 1)
        (s1.onCur fun t => ((t.setH a none).setH d (some (mkHandle (hCluster h) i g 0))).setH b (some (mkHandle (hCluster h) i g 1))).retire)

/-- `hjoin`: rejoins two halves of one split once every write through them is performed (R248). Log 40 (DEDUCED). -/
def execHjoin (d a b : BitVec 5) (s : State) : Result :=
  .next (s.issue [] [] fun s => s.handles [a, b] [d] fun hs s =>
    let h := hs.headD 0
    let h2 := hs.getD 1 0
    let cl := s.hTable h
    if a.setWidth 4 = b.setWidth 4 ∨ hCluster h ≠ hCluster h2 ∨ hEntry h ≠ hEntry h2 ∨ hHalf h = hHalf h2 then
      s.faultCode .handleMismatch 0 0 0
    else
      match (s.lin cl (hEntry h)).origin with
      | .root => s.faultCode .handleMismatch 0 0 0
      | .split p half _ _ =>
        if s.halfBusy cl p half then s.holdOn .mstDrain
        else
          let joined := mkHandle (hCluster h) p ((s.lin cl p).gen half) half
          (((s.freeLin cl (hEntry h)).onCur fun t => ((t.setH a none).setH b none).setH d (some joined))).retire)

/-! Moving a half (R245 to R247). -/

/-- The mailbox at an address: aligned to 64, in a near window of the partition (R246). The record of an address fault has access kind 2 for `hrecv`, 3 for `hsend`, and the mailbox address. Log 63 (DESIGN CHOICE). -/
def State.withMailbox (s : State) (va : Word) (write : Bool) (k : Nat → State → State) : State :=
  let kind := if write then 3 else 2
  if va.toNat % 64 ≠ 0 then s.faultCode .misaligned va kind 0
  else if !isNear va then s.faultCode .kindForbidden va kind 0
  else
    match s.place s.cur va 64 (needOf .load) false with
    | (s1, .error f) => s1.takeFault (s1.faultRec f va kind 0)
    | (s1, .ok h) => if s1.sableAny h.loc 64 then s1.faultCode .handleRegion va kind 0 else k h.loc s1

/-- A full slot of a mailbox as a sender writes it (R245). -/
def slotOf (sid h : BitVec 32) : Word := word (sid.toNat / 2 ^ 9 * 2 ^ 41 + 2 ^ 32 + h.toNat)

/-- `hsend`: moves the half in ha to the lowest slot that takes it (R246). -/
def execHsend (a b : BitVec 5) (s : State) : Result :=
  .next (s.issue [b] [] fun s => s.handles [a] [] fun hs s => s.withMailbox (s.cur.getS b) true fun loc s =>
    let h := hs.headD 0
    let takes (k : Nat) : Bool :=
      let v := s.hslot loc k
      !slotFull v && (!slotExpect v || decide (slotSid v = s.cur.sid))
    match lowest 8 takes, s.handleRange (sidDie s.cur.sid) h with
    | some k, some x =>
      if x.tile.scope = .strand then s.faultCode .illegalOperand 0 0 0
      else ((s.objPut (loc + 8 * k) 8 (slotOf s.cur.sid h).toNat none).onCur fun t => t.setH a none).retire
    | _, _ => s.faultCode .illegalOperand 0 0 0)

/-- `hrecv`: waits, with deadline sb, for a half in the mailbox at sa (R247). -/
def execHrecv (d a b : BitVec 5) (s : State) : Result :=
  .next (s.issue [a, b] [] fun s => s.handles [] [d] fun _ s => s.withMailbox (s.cur.getS a) false fun loc s =>
    s.deadlineWait (.mailbox loc (d.setWidth 4)) 4 0 (s.cur.getS b))

/-! Taking back, freeing, reading (R249, R250). -/

/-- The entries below a half of an entry, whatever their depth. -/
def State.below (s : State) (cl : Nat) : (fuel entry : Nat) → (half : Option Nat) → List Nat
  | 0, _, _ => []
  | fuel + 1, entry, half =>
    let kids := (s.cluster cl).lineage.filter fun p => p.2.used && (match p.2.origin with
      | .split e h _ _ => decide (e = entry) && (half.map (fun x => decide (x = h))).getD true
      | .root => false)
    kids.flatMap fun p => p.1 :: s.below cl fuel p.1 none

/-- Whether the current strand holds a live handle to a half. -/
def State.holdsHalf (s : State) (cluster entry half : Nat) : Bool :=
  (s.cur.hregs.toList.filterMap id).any fun h =>
    decide (hCluster h = cluster ∧ hEntry h = entry ∧ hHalf h = half) && s.live h

/-- `hreclaim`: takes back the half sa names, with everything split from it (R249). Log 40 (DEDUCED). Bits of sa outside an identity, 63:32 and 1:0, are ignored. Log 63 (DESIGN CHOICE). -/
def execHreclaim (d a : BitVec 5) (s : State) : Result :=
  .next (s.issue [a] [] fun s => s.handles [] [d] fun _ s =>
    let h := (s.cur.getS a).setWidth 32
    let c := hCluster h
    let i := hEntry h
    let half := hHalf h
    let cl := s.hTable h
    let e := s.lin cl i
    if !s.holdsHalf c i (1 - half) || s.holdsHalf c i half || decide (e.origin = .root) then s.faultCode .handleMismatch 0 0 0
    else if hGen h ≠ e.gen half then s.faultCode .handleStale 0 0 0
    else if s.halfBusy cl i half then s.holdOn .mstDrain
    else
      let s1 := (s.below cl 8 i (some half)).foldl (fun (a : State) j => a.freeLin cl j) s
      let g := e.gen half + 1
      let s2 := s1.setLin cl i (if half = 0 then { e with gen0 := g } else { e with gen1 := g })
      (s2.onCur fun t => t.setH d (some (mkHandle c i g half))).retire)

/-- `haddr`: the address of the half's element with all indices 0 (R250). -/
def execHaddr (d a : BitVec 5) (s : State) : Result :=
  .next (s.issue [] [d] fun s => s.handles [a] [] fun hs s =>
    let v : Word := match s.handleRange (sidDie s.cur.sid) (hs.headD 0) with
      | none => 0
      | some x => x.tile.base + word ((x.ranges.zip (tileStrides x.tile)).map (fun p => p.1.1 * p.2)).sum
    (s.onCur fun t => t.setS d v).retire)

/-- The writes made through handles of a region enter home order, in the order they were made, the two parts of a block segment under one number, as writes of the strand that frees it, which all of them happen before (R250). -/
def State.ageSable (s : State) (pages : List (Word × Nat × Nat)) : State :=
  let mine (w : WriteRec) : Bool := pages.any fun r => overlaps w.loc w.n r.2.1 r.2.2
  let old := s.sable.filter mine
  let nums := (old.map (·.idx)).reverse.eraseDups
  { s with
    sable := s.sable.filter fun w => !mine w
    hist := (old.map fun w => { w with idx := s.nextW + nums.idxOf w.idx }) ++ s.hist
    nextW := s.nextW + nums.length
    cur := { s.cur with hb := s.cur.hb ||| (2 ^ nums.length - 1) * 2 ^ s.nextW } }

/-- `hfree`: gives the region of a live root back to ordinary memory; ha becomes void (R250, R395). -/
def execHfree (a : BitVec 5) (s : State) : Result :=
  .next (s.issue [] [] fun s => s.handles [a] [] fun hs s =>
    let h := hs.headD 0
    let cl := s.hTable h
    let e := s.lin cl (hEntry h)
    if e.depth ≠ 0 then s.faultCode .handleMismatch 0 0 0
    else if s.halfBusy cl (hEntry h) 0 then s.holdOn .mstDrain
    else (((s.ageSable e.pages).freeLin cl (hEntry h)).onCur fun t => t.setH a none).retire)

/-- `hinfo`: what is known of a handle register; it never faults on its handle (R250). Log 59 (DEDUCED). -/
def execHinfo (d a : BitVec 5) (s : State) : Result :=
  .next (s.issue [] [d] fun s =>
    let v : Nat := match s.cur.getH a with
      | none => 2 ^ 35
      | some h =>
        let e := s.lin (s.hTable h) (hEntry h)
        let axis := match e.origin with
          | .root => 0
          | .split _ _ x _ => x
        h.toNat + (if s.live h then 0 else 2 ^ 36) + (if e.used then e.depth * 2 ^ 32 + axis * 2 ^ 37 else 0)
    (s.onCur fun t => t.setS d (word v)).retire)

end Sys2Proof.Machine
end

