-- ==== Sys2Proof/Machine/TaskInstr.lean ====
section
/-! DEFINITION. Tasks and work-queues (07_cluster.md R251 to R259): the TASK instructions. -/

namespace Sys2Proof.Machine

/-- Records and items a queue holds at most (R252, R258). -/
def queueCap : Nat := 65536

/-- Room in the current strand's task queue kept for records whose `jdec`s of other strands are on their way (R254). -/
def State.roomKept (s : State) : Nat :=
  (s.rest.filter fun t => t.resv.contains (.taskq s.cur.job.toNat s.curCluster)).length

/-- Whether a record may be appended to the current strand's task queue, or the fault (R253, R259). -/
def State.spawnOk (s : State) : Option FaultCode :=
  if s.myTaskQ.lost then some .queueLost
  else if queueCap ≤ s.myTaskQ.records + s.roomKept then some .illegalOperand
  else none

/-- Appends a record to the current strand's task queue with the releases its start acquires. -/
def State.spawnRec (s : State) (va : Word) (rels : List Nat) (byJdec : Bool) : State :=
  s.setTaskQ s.curCluster s.cur.job { s.myTaskQ with items := s.myTaskQ.items ++ [⟨va, rels, byJdec, none⟩] }

/-- `spawn`: a release at cluster scope that appends the record's address (R253). -/
def execSpawn (a : BitVec 5) (s : State) : Result :=
  .next (s.issue [a] [] fun s =>
    let va := s.cur.getS a
    if va.toNat % 64 ≠ 0 then s.faultCode .misaligned va 0 0
    else
      match s.spawnOk with
      | some c => s.faultCode c 0 0 0
      | none => s.withRelease .cluster [] fun id s => (s.spawnRec va [id] false).retire)

/-- The end of a `jdec` that has taken the counter from a value: at 0 the record is spawned, with every `jdec` on it before (R254, R267). -/
def State.jdecEnd (s : State) (va : Word) (loc id old : Nat) : State :=
  let rels := id :: s.joinRels.get [] loc
  if old = 1 then ({ s with joinRels := s.joinRels.set [] loc [] }.spawnRec va rels true).retire
  else { s with joinRels := s.joinRels.set [] loc rels }.retire

/-- What keeps a `jdec` from taking the counter down from a value: the counter is 0, or it would spawn into a full or lost queue (R254). -/
def State.jdecBad (s : State) (old : Nat) : Option FaultCode :=
  if old = 0 then some .illegalOperand else if old = 1 then s.spawnOk else none

/-- `jdec` of a counter in a peer's or the host's memory goes down by a compare-and-swap, sent once the release is made and the room for the record is kept (R254). -/
def State.jdecFar (s : State) (cva : Word) (h : Hit) : State :=
  match fetched s.cur.buf h.loc 8 with
  | none => s.askRemote h.loc 8 h.key 0 (s.faultRec (fail .fabricUnreachable) cva 4 0)
  | some bs =>
    let old := natOfBytes bs
    match s.jdecBad old with
    | some c => s.faultCode c 0 0 0
    | none => s.withRelease .pkg [] fun id s =>
        (s.onCur fun t => { t with
          resv := .swap h.loc id old :: if old = 1 then [.taskq t.job.toNat (clusterOf t.sid)] else [] }).sendAtom 11 8 cva h (old - 1) old .pkg false

/-- `jdec`: a release at pkg, then 1 off the join counter at its home; at 0 the record is spawned (R254). A swap of a counter elsewhere that has been answered decides it, whatever has become of the counter's page meanwhile. -/
def execJdec (a : BitVec 5) (s : State) : Result :=
  .next (s.issue [a] [] fun s =>
    let va := s.cur.getS a
    let cva := va + 16
    match s.cur.swapped with
    | some w =>
      if w.made then s.jdecEnd va w.loc w.rel w.want.toNat else s.onCur fun t => { t with replies := [], buf := [], resv := [] }
    | none =>
    if va.toNat % 64 ≠ 0 then s.faultCode .misaligned va 4 0
    else
      match s.atomCheck cva 8 .atomic with
      | (s1, .error f) => s1.takeFault (s1.faultRec f cva 4 0)
      | (s1, .ok h) =>
        if isHere h.loc then
          match s1.jdecBad (natOfBytes (overlayPend h.loc (s1.decrypt h.key h.loc (s1.bytesAt h.loc 8)) s1.cur.pend)) with
          | some c => s1.faultCode c 0 0 0
          | none => s1.withRelease .pkg [] fun id s =>
            let old := s.peekKey h.key h.loc 8
            if s.atomPoison h 8 then s.takeFault (s.faultRec (h.fail .poisonConsumed) cva 4 0)
            else match s.jdecBad old with
            | some c => s.faultCode c 0 0 0
            | none => (s.atomicPut h.key h.loc 8 (old - 1) (some id)).jdecEnd va h.loc id old
        else s1.jdecFar cva h)

/-- Whether a strand may not end yet: a window is open, a handle is live, or it holds a lock (R255 step 2). -/
def State.endBlocked (s : State) : Bool :=
  acwOpen s.cur.acw || (s.cur.hregs.toList.filterMap id).any s.live || !s.cur.locks.isEmpty

/-- Step 3 of R255: rings, barrier and watermark registers are unbound before the release of step 4. -/
def State.unbindObjs (s : State) : State :=
  s.unbindRings.onCur fun t => { t with bregs := Vector.replicate 8 none, wregs := Vector.replicate 4 none }

/-- The current strand has ended: its rings, barrier and watermark registers are unbound, and its slot is free (R255). -/
def State.endStrand (s : State) : State :=
  let id := s.cur.job
  s.vacate.endIfStopped id

/-- `tend`: ends the task or launched strand once every register is full, with a release at pkg (R69, R255). Log 58 (DEDUCED). -/
def execTend (s : State) : Result :=
  .next (s.issue [] ((List.range 32).map (BitVec.ofNat 5)) fun s =>
    if s.endBlocked then s.faultCode .illegalOperand 0 0 0
    else if s.mrdQueued then s.holdOn .mrdDrain
    else s.afterMst fun s => s.unbindObjs.withRelease .pkg [] fun _ s => s.endStrand)

/-- `tself`: whether it is a task, the job's effective priority, and the records waiting (R256). -/
def execTself (d : BitVec 5) (s : State) : Result :=
  .next (s.issue [] [d] fun s =>
    let eff := match s.job? s.cur.job with
      | some j => j.eff
      | none => 0
    (s.onCur fun t => t.setS d (word ((if t.task then 2 ^ 63 else 0) + eff * 2 ^ 32 + s.myTaskQ.records))).retire)

/-- The work-queue a value names: its cluster in the package and its key there, each job having 64 of its own in a cluster, empty when it is bound (R258); none outside the value's fields, or for a cluster not bound to the job or retired. Log 23 (DEDUCED). -/
def State.workQOf (s : State) (v : Word) : Option (Nat × Nat) :=
  let c := sidDie s.cur.sid * 5 + v.toNat / 64 % 8
  if v.toNat < 2 ^ 9 ∧ v.toNat / 64 % 8 < 5 ∧ (s.boundClusters s.cur.job).contains c = true ∧ (s.cluster c).retired = false then
    some (c, workKey s.cur.job (v.toNat % 64))
  else none

/-- `qpush`: a release at die scope that appends sb to queue sa (R258). -/
def execQpush (a b : BitVec 5) (s : State) : Result :=
  .next (s.issue [a, b] [] fun s =>
    match s.workQOf (s.cur.getS a) with
    | none => s.faultCode .illegalOperand 0 0 0
    | some (c, q) =>
      if (s.workQ c q).lost then s.faultCode .queueLost 0 0 0
      else if queueCap ≤ (s.workQ c q).items.length then s.faultCode .illegalOperand 0 0 0
      else s.withRelease .die [] fun id s =>
        (s.setWorkQ c q { s.workQ c q with items := (s.workQ c q).items ++ [⟨s.cur.getS b, id⟩] }).retire)

/-- `qpop`: waits, with deadline sb, for an item of queue sa (R258). -/
def execQpop (d a b : BitVec 5) (s : State) : Result :=
  .next (s.issue [a, b] [d] fun s =>
    match s.workQOf (s.cur.getS a) with
    | none => s.faultCode .illegalOperand 0 0 0
    | some (c, q) =>
      if (s.workQ c q).lost then s.faultCode .queueLost 0 0 0
      else s.deadlineWait (.queue c q) 5 d (s.cur.getS b))

end Sys2Proof.Machine
end

