-- ==== Sys2Proof/Machine/CopyEngine.lean ====
section
/-! DEFINITION. Copies as the engines perform them (R194 to R202, R271, R284, R309, R367 to R369): the descriptor and its pattern, reading and writing a chunk, its commit, tokens, faults and the end of a copy. -/

namespace Sys2Proof.Machine

/-! The descriptor and the pattern (R194, R195). -/

/-- A signed 32-bit field. -/
def recInt (v off : Nat) : Int := (BitVec.ofNat 32 (recField v off 4)).toInt

/-- The descriptor in 64 bytes; extents of 0 past the first count as 1 (R194). -/
def descOf (v : Nat) : Desc where
  src := word (recField v 0 8)
  dst := word (recField v 8 8)
  ext := [recField v 16 4, Nat.max 1 (recField v 20 4), Nat.max 1 (recField v 24 4), Nat.max 1 (recField v 28 4)]
  str := [recInt v 32, recInt v 36, recInt v 40]
  esize := recField v 44 1
  reduce := recField v 45 1
  flags := BitVec.ofNat 16 (recField v 46 2)
  map := word (recField v 48 8)
  tag := word (recField v 56 8)

/-- Length of the stream in bytes. -/
def Desc.len (d : Desc) : Nat := d.ext.foldl (· * ·) 1 * d.esize
def Desc.chunks (d : Desc) : Nat := (d.len + 511) / 512
def Desc.chunkLen (d : Desc) (j : Nat) : Nat := Nat.min 512 (d.len - 512 * j)
def Desc.mapped (d : Desc) : Bool := d.flags.getLsbD 0
def Desc.multicast (d : Desc) : Bool := d.flags.getLsbD 1
def Desc.scope (d : Desc) : Scope := Scope.ofCode (d.flags.toNat / 4 % 8)

/-- The address of stream element e on the patterned side (R195). -/
def Desc.pat (d : Desc) (base : Word) (e : Nat) : Word :=
  let x (i : Nat) : Nat := d.ext.getD i 1
  let r := e / x 0
  let q := r / x 1
  let off : Int := (e % x 0 : Nat) * (d.esize : Int) + (r % x 1 : Nat) * d.str.getD 0 0 + (q % x 2 : Nat) * d.str.getD 1 0 + (q / x 2 : Nat) * d.str.getD 2 0
  base + BitVec.ofInt 64 off

/-- Source and destination of stream element e (R195): `cpyr` patterns the destination. -/
def Desc.elem (d : Desc) (rev : Bool) (e : Nat) : Word × Word :=
  if rev then (d.src + word (e * d.esize), d.pat d.dst e) else (d.pat d.src e, d.dst + word (e * d.esize))

/-- The stream elements of chunk j. -/
def Desc.elems (d : Desc) (j : Nat) : List Nat :=
  (List.range (d.chunkLen j / d.esize)).map (512 * j / d.esize + ·)

/-- The element size of each reduce op (R196). -/
def redSize : Nat → Nat
  | 1 | 3 | 5 => 4
  | 2 => 2
  | _ => 8

/-- The defects of R196 that `COPY_DESCRIPTOR` answers; `mcast`: whether the port is a fabric port. -/
def Desc.bad (d : Desc) (mcast : Bool) : Bool :=
  !(decide (d.esize = 1 ∨ d.esize = 2 ∨ d.esize = 4 ∨ d.esize = 8)) || decide (5 < d.reduce) ||
  (decide (d.reduce ≠ 0) && (decide (redSize d.reduce ≠ d.esize) || !d.mapped)) || decide (32 ≤ d.flags.toNat) ||
  (d.multicast && !mcast) || decide (d.src.toNat % d.esize ≠ 0 ∨ d.dst.toNat % d.esize ≠ 0) ||
  d.str.any (fun x => decide (x % (d.esize : Int) ≠ 0)) || decide (2 ^ 40 ≤ d.len) ||
  decide (d.map.toNat % 8 ≠ 0) || (d.mapped && decide (2 ^ 22 < d.len))

/-- Whether every stream element of a pattern has bytes of its own, as the strides show: each is no shorter than what lies inside it (R195). -/
def Desc.distinct (d : Desc) : Bool :=
  let x (i : Nat) : Nat := d.ext.getD i 1
  let st (i : Nat) : Nat := (d.str.getD i 0).natAbs
  let a := x 0 * d.esize
  let b := a + (x 1 - 1) * st 0
  let c := b + (x 2 - 1) * st 1
  decide ((x 1 ≤ 1 ∨ a ≤ st 0) ∧ (x 2 ≤ 1 ∨ b ≤ st 1) ∧ (x 3 ≤ 1 ∨ c ≤ st 2))

/-- A reduction at the element's home, rounded to nearest even, with no flags (R199). -/
def redOp (op old x : Nat) : Nat :=
  match op with
  | 1 => (addEl .f32 .rne old x).1
  | 2 => (addEl .bf16 .rne old x).1
  | 3 => (old + x) % 2 ^ 32
  | 4 => (old + x) % 2 ^ 64
  | 5 => (maxEl .f32 old x).1
  | _ => x

/-! Copies in the package. -/

def State.copy? (s : State) (id : Nat) : Option Copy := s.pkg.copies.find? fun c => decide (c.id = id)
def State.onCopy (s : State) (id : Nat) (f : Copy → Copy) : State :=
  s.onPkg fun p => { p with copies := p.copies.map fun c => if c.id = id then f c else c }

/-- Whether the engines perform a job's work: it is live and no slate wave holds it (R387, R392). -/
def State.engineRuns (s : State) (job : BitVec 32) : Bool :=
  match s.job? job with
  | some j => decide (j.slate.st = .running ∨ j.slate.st = .resuming)
  | none => false

/-- The strand under whose identity and handles a copy accesses memory; one that has ended holds no handles (R198). -/
def State.copyStrand (s : State) (uid : Nat) (sid job : BitVec 32) : Strand :=
  match s.byUid? uid with
  | some t => t
  | none => { Strand.idle with sid := sid, job := job }

def State.strandOf (s : State) (c : Copy) : Strand := s.copyStrand c.uid c.sid c.job

/-- Whether an engine reaches peer pages: the ports 4 to 11 do not (R190). -/
def Engine.peers : Engine → Bool
  | .port _ p => decide (12 ≤ p)
  | .ue => false
  | _ => true

/-- An access of a copy: a ring window is forbidden (R232); then steps 2 to 5 of R94. -/
def State.engReach (s : State) (t : Strand) (va : Word) (n : Nat) (nd : Need) : State × Except Fail Hit :=
  if isRingWin va then (s, .error (fail .kindForbidden)) else s.reach t va n nd

/-- Needs of a copy's side: a multicast source is local, and so is what the issuing package writes as one of its destinations (R367). -/
def Copy.need (c : Copy) (k : AccKind) : Need :=
  let nd := needOf k
  { nd with noPeer := !c.eng.peers, localOnly := c.desc.multicast || decide (c.eng = .ue) }

/-! Paths (R376, R377). -/

/-- Whether a transfer under a policy has an eligible path to a peer (R376); the first traffic with a peer starts its table (R373). Log 46 (DESIGN CHOICE). -/
def State.pathOk (s : State) (peer : Nat) (policy : Word) : Bool :=
  !(s.peer peer).hasTable || !(eligiblePaths (s.peer peer).paths s.gtime policy).isEmpty

/-- An access of a copy, and a path to the peer it leads to (R376). -/
def State.copyReach (s : State) (c : Copy) (t : Strand) (va : Word) (n : Nat) (k : AccKind) : State × Except (Fail × Word) Hit :=
  match s.engReach t va n (c.need k) with
  | (s1, .error f) => (s1, .error (f, va))
  | (s1, .ok h) =>
    if isPeerLoc h.loc && !s1.pathOk (peerPkg h.loc) c.policy then (s1, .error (h.fail .fabricUnreachable, va)) else (s1, .ok h)

/-! Bytes asked for from peers and the host. -/

/-- Whether bytes at a place are already asked for by someone. -/
def State.asked (s : State) (who : Asker) (loc : Nat) : Bool :=
  s.pkg.hostReqs.any (fun r => decide (r.who = who) && r.fn.isNone && decide (2 ^ 64 + r.addr ≤ loc ∧ loc < 2 ^ 64 + r.addr + r.n)) ||
  s.pkg.peers.any (fun q => q.2.unacked.any fun u => decide (u.who = some who ∧ u.pkt.kind = 1) &&
    decide (peerLoc u.pkt.dpkg u.pkt.addr.toNat ≤ loc ∧ loc < peerLoc u.pkt.dpkg u.pkt.addr.toNat + u.pkt.len))

/-- Asks for bytes that an engine needs at an address (R339, R359, R365); a request under way is not sent again. -/
def State.askFor (s : State) (who : Asker) (job : BitVec 32) (va : Word) (loc n key : Nat) : State :=
  if s.asked who loc then s
  else if isHostLoc loc then
    s.onPkg fun p => { p with nextReq := p.nextReq + 1, hostReqs := p.hostReqs ++ [⟨p.nextReq, who, loc - 2 ^ 64, n, none, 0, 0, va.toNat, false⟩] }
  else (s.sendPacket { s.mkPacket 1 loc n key 0 .fab [] with job := job } (some who) va.toNat).2

/-- The bytes of the addresses that follow one another from the first of a list, within a page. -/
def runBytes (es : Nat) : List Word → Nat
  | a :: b :: l => if b = a + word es ∧ a.toNat / 2 ^ 18 = b.toNat / 2 ^ 18 then es + runBytes es (b :: l) else es
  | _ => es

/-! Reading a chunk. -/

/-- Where a stream byte is held in a copy's buffer. -/
def streamKey (i : Nat) : Nat := 2 ^ 96 + i

/-- Bytes of this package as an engine reads them: values that followed what it is sure of: the writes before a point of home order, and those that happen before it (R191, R198, R268). Log 15 (DESIGN CHOICE). -/
def State.engineLoad (s : State) (w0 hb key loc n : Nat) : List Byte × State :=
  let (bs, _, f) := s.phaseLoad (knownTo w0 hb) (placesOf loc n)
  (s.decrypt key loc bs, { s with free := f })

/-- Reads the elements of a chunk from their sources: into the buffer, or asked for. Answers whether all are there, or the first failure with its address. -/
def State.readElems (s : State) (id : Nat) (t : Strand) : (elems : List Nat) → State × Except (Fail × Word) Bool
  | [] => (s, .ok true)
  | e :: es =>
    match s.copy? id with
    | none => (s, .ok false)
    | some c =>
      let d := c.desc
      let va := (d.elem c.rev e).1
      match s.copyReach c t va d.esize .copySrc with
      | (s1, .error e) => (s1, .error e)
      | (s1, .ok h) =>
        let got : Option (List Byte × Bool × State) :=
          if isHere h.loc then
            let p := s1.poisoned h.loc d.esize
            if h.sable then some (s1.decrypt h.key h.loc (s1.bytesAt h.loc d.esize), p, s1)
            else
              let (bs, s2) := s1.engineLoad (s1.jobStart c.job) (c.hb ||| c.writes) h.key h.loc d.esize
              some (bs, p, s2)
          else (fetched c.buf h.loc d.esize).map fun bs => (bs, c.bad.get false h.loc, s1)
        match got with
        | some (bs, p, s2) =>
          let k := streamKey (e * d.esize)
          (s2.onCopy id fun c => { c with
            buf := bs.zipIdx.foldl (fun m x => m.set none (k + x.2) (some x.1)) c.buf
            bad := bs.zipIdx.foldl (fun m x => m.set false (k + x.2) p) c.bad }).readElems id t es
        | none =>
          let s2 := s1.askFor (.copy id) c.job va h.loc (runBytes d.esize ((e :: es).map fun x => (d.elem c.rev x).1)) h.key
          match s2.readElems id t es with
          | (s3, .ok _) => (s3, .ok false)
          | r => r

/-! Writing at homes of this package (R174, R175, R271). -/

/-- Poisons the words of those bytes of a run that carry poison. -/
def State.markBad (s : State) (loc : Nat) (bad : List Bool) : State :=
  bad.zipIdx.foldl (fun (a : State) x => if x.1 then a.setPoison (loc + x.2) 1 true else a) s

/-- An engine write of bytes, one location to each element (R263): the writes it made, as a set of numbers. -/
def State.engineWrite (s : State) (key loc unit : Nat) (sable : Bool) (bs : List Byte) (bad : List Bool) : Nat × State :=
  let n := bs.length
  if sable then (0, (s.sableWrite key loc n (natOfBytes bs) unit false).markBad loc bad)
  else (2 ^ s.nextW, (s.writeHome key loc n (natOfBytes bs) unit [] none false).markBad loc bad)

/-- A reduction of one element at its home: a poisoned word, on either side, leaves it poisoned (R175, R199). Log 43 (DEDUCED). -/
def State.engineReduce (s : State) (op key loc n : Nat) (sable : Bool) (x : Nat) (bad : Bool) : Nat × State :=
  let p := bad || s.poisoned loc n
  let v := redOp op (s.peekKey key loc n) x
  s.engineWrite key loc n sable (bytesOfNat n v) (List.replicate n p)

/-- Where the bytes of an element of a chunk go. -/
structure Dest where
  elem : Nat
  va : Word
  hit : Hit
deriving DecidableEq, Repr

/-- Checks the destinations of a chunk's elements (R202). -/
def State.destElems (s : State) (c : Copy) (t : Strand) : (elems : List Nat) → State × Except (Fail × Word) (List Dest)
  | [] => (s, .ok [])
  | e :: es =>
    let va := (c.desc.elem c.rev e).2
    match s.copyReach c t va c.desc.esize .copyDst with
    | (s1, .error e) => (s1, .error e)
    | (s1, .ok h) =>
      match s1.destElems c t es with
      | (s2, .ok l) => (s2, .ok (⟨e, va, h⟩ :: l))
      | r => r

/-- Elements that a later element of the same chunk replaces at another's home are not sent there: the last writes remain (R199). -/
def lastOnly : List Dest → List Dest
  | [] => []
  | d :: ds => if !isHere d.hit.loc && ds.any (fun x => decide (x.hit.loc = d.hit.loc)) then lastOnly ds else d :: lastOnly ds

/-- Destinations of a chunk that follow one another at one home, gathered in parts. Log 43 (DEDUCED). -/
def partsOf (es j : Nat) : List Dest → List Part
  | [] => []
  | d :: ds =>
    let one : Part := ⟨j, d.elem, 1, d.hit.key, d.hit.loc, d.hit.sable⟩
    match partsOf es j ds with
    | x :: xs =>
      if x.loc = d.hit.loc + es ∧ x.key = d.hit.key ∧ x.sable = d.hit.sable ∧ x.elem = d.elem + 1 ∧ x.loc % 2 ^ 18 ≠ 0 then
        { one with n := x.n + 1 } :: xs
      else one :: x :: xs
    | [] => [one]

/-- The stream bytes a copy holds from a position, and which carry poison. -/
def Copy.held (c : Copy) (pos n : Nat) : List Byte × List Bool :=
  ((List.range n).map fun i => (c.buf.get none (streamKey (pos + i))).getD 0, (List.range n).map fun i => c.bad.get false (streamKey (pos + i)))

/-- Writes a part at its home in this package, or reduces into it element by element. -/
def State.writePart (s : State) (c : Copy) (x : Part) : Nat × State :=
  let es := c.desc.esize
  if c.desc.reduce = 0 then
    let (bs, bad) := c.held (x.elem * es) (x.n * es)
    s.engineWrite x.key x.loc es x.sable bs bad
  else
    (List.range x.n).foldl (fun (a : Nat × State) i =>
      let (bs, bad) := c.held ((x.elem + i) * es) es
      let (w, s1) := a.2.engineReduce c.desc.reduce x.key (x.loc + i * es) es x.sable (natOfBytes bs) (bad.any id)
      (a.1 ||| w, s1)) (0, s)

/-! Where a chunk's map bit is, and its commit (R199, R284). -/

/-- The place of the map word of chunk j. -/
def State.mapPlace (s : State) (c : Copy) (t : Strand) (j : Nat) : State × Except (Fail × Word) Hit :=
  let va := c.desc.map + word (8 * (j / 64))
  match s.engReach t va 8 (c.need .copyDst) with
  | (s1, .error f) => (s1, .error (f, va))
  | (s1, .ok h) => if isHere h.loc && s1.poisoned h.loc 8 then (s1, .error (h.fail .uncorrectableEcc, va)) else (s1, .ok h)

/-- Whether a chunk of a map here is claimed by another application: one that finds it so waits (R284). -/
def State.claimed (s : State) (map j : Nat) (copy : Option Nat) : Bool :=
  s.claims.any fun x => decide (x.map = map ∧ x.chunk = j) && decide (copy ≠ some x.copy)

/-- Sets a chunk's bit at a map of this package, for the writes of the chunk alone, which take the place of what the bit stood for when it was set before: `cwait` acquires them at the delivery scope (R199, R203, R271). The number of the write that sets it, as a set. -/
def State.setBit (s : State) (key loc j writes : Nat) (sc : Scope) (by_ : BitVec 32) : Nat × State :=
  let v := s.peekKey key loc 8 ||| 2 ^ (j % 64)
  let s1 := s.homeWrite key loc 8 v none
  (2 ^ s.nextW, { s1 with chunkMasks := (loc - 8 * (j / 64), j, writes, sc, by_) :: s1.chunkMasks.filter fun c => decide (c.1 ≠ loc - 8 * (j / 64) ∨ c.2.1 ≠ j) })

def State.bitSet (s : State) (key loc j : Nat) : Bool := (s.peekKey key loc 8).testBit (j % 64)

/-- Chunk j of a copy is in place. -/
def State.chunkDone (s : State) (id j : Nat) : State :=
  s.onCopy id fun c => { c with done := if c.done.contains j then c.done else j :: c.done }

/-- The bytes of the chunks in place. -/
def Copy.bytesDone (c : Copy) : Nat := (c.done.map c.desc.chunkLen).sum

/-- Makes a chunk read and in place because its bit is set (R199). -/
def State.skipChunk (s : State) (id j : Nat) : State :=
  (s.chunkDone id j).onCopy id fun c => { c with read := if c.read.contains j then c.read else j :: c.read }

/-! Tokens (R197). -/

/-- Writes a token of a copy into its strand, wherever that is; with the writes an acquire through it adds, for a delivery token. -/
def State.fillToken (s : State) (uid : Nat) (r : BitVec 5) (v : Word) (m : Option TokMark) : State :=
  if r = 0 then s
  else s.onUid uid fun t => let t1 := t.setS r v
    { t1 with marks := t1.marks.set none r.toNat m }

/-- A token: STATUS and BYTES (R197). Log 42 (DEDUCED). -/
def tokenOf (status bytes : Nat) : Word := word (status * 2 ^ 40 + bytes % 2 ^ 40)

/-! The end of a copy. -/

/-- Takes a copy off its port (R190, R202). -/
def State.leavePort (s : State) (c : Copy) : State :=
  match c.eng with
  | .port core p => s.onPort core p fun q => if q.running = some c.id then { q with running := none } else q
  | _ => s

/-- A copy is over: its port is free, its claims are gone, and a chain command it performed has its effects (R190, R206). -/
def State.copyOver (s : State) (c : Copy) (f : Option FaultRec) : State :=
  let s1 := { s.leavePort c with claims := s.claims.filter fun x => decide (x.copy ≠ c.id) }
  s1.onPkg fun p => { p with
    copies := p.copies.filter fun x => decide (x.id ≠ c.id)
    mcast := p.mcast.filter fun x => decide (x.copy ≠ c.id)
    branches := p.branches.filter fun x => decide (x.copy ≠ c.id)
    chains := p.chains.map fun h => if c.chain = some h.hdr then { h with done := true, fault := f, writes := h.writes ||| c.writes } else h }

/-- Whether every chunk is in place and nothing of it is under way. -/
def Copy.complete (c : Copy) : Bool := (List.range c.desc.chunks).all c.done.contains && c.out.isEmpty

/-- The branches of a multicast copy (R369). -/
def State.branchesOf (s : State) (id : Nat) : List McDest := s.pkg.mcast.filter fun x => decide (x.copy = id)

/-- Ends a copy that has nothing left to do: both tokens are done and every chunk is in place. A multicast copy with a failed branch leaves its port and waits for service (R202, R369). -/
def State.copySettle (s : State) (id : Nat) : State :=
  match s.copy? id with
  | none => s
  | some c =>
    if c.complete && c.relDone && c.delDone && c.fault.isNone then
      (if (s.branchesOf id).any (fun x => x.failed.isSome) then (s.leavePort c).onCopy id fun c => { c with st := .faulted }
       else s.copyOver c none)
    else s

/-! Faults (R202, R309). -/

/-- The record of a fault of a copy. -/
def Copy.faultRec (c : Copy) (f : Fail) (va : Word) (kind : Nat) : FaultRec :=
  ⟨f.code, false, false, f.malformed, c.sid, c.pc, va, kind, c.desc.scope.code, c.desc.tag, 0, 0, f.big, none, none⟩

/-- Whether an uncorrectable error that an access met lies in the word of a copy's map itself, not in a table on the way to it (R307). -/
def State.mapBroken (s : State) (c : Copy) (f : Fail) (va : Word) : Bool :=
  decide (f.code = .uncorrectableEcc) && c.desc.mapped &&
    decide (c.desc.map.toNat ≤ va.toNat ∧ va.toNat < c.desc.map.toNat + 8 * ((c.desc.chunks + 63) / 64)) &&
    (match (s.engReach (s.strandOf c) va 8 (c.need .copyDst)).2 with
     | .ok h => !isHere h.loc || s.poisoned h.loc 8
     | .error _ => false)

/-- The cause a fault record stands for on its strand's package (R389). -/
def FaultRec.cause (r : FaultRec) : Cause := ⟨sidPkg r.sid, r.sid, r.pc, r.code.num, r.at_.getD 0⟩

/-- A fault of a running copy, with the time of its detection: it starts no new chunk, and during a freeze it joins the local list (R389). An uncorrectable error in its map ends it (R202, R307). -/
def State.copyFault (s : State) (id : Nat) (f : Fail) (va : Word) (kind : Nat) : State :=
  match s.copy? id with
  | none => s
  | some c =>
    if c.fault.isSome then s
    else
      let r := { c.faultRec f va kind with at_ := some s.gtime }
      let broken := s.mapBroken c f va
      (s.noteLocal c.job r.cause).onCopy id fun c => { c with fault := some r, final := broken }

/-- A page as a serviced fault names it: of 512 MiB where the fault found such a leaf (R202, R300). -/
def FaultRec.page (r : FaultRec) : Nat := if r.big then 2 * (r.va.toNat / 2 ^ 29) + 1 else 2 * (r.va.toNat / 2 ^ 18)

/-- Whether a fault lies in a page already serviced for its copy (R202). -/
def FaultRec.servedIn (r : FaultRec) (pages : List Nat) : Bool :=
  pages.any fun p => if p % 2 = 1 then decide (r.va.toNat / 2 ^ 29 = p / 2)
    else decide (r.va.toNat / 2 ^ 18 = p / 2) || (r.big && decide (r.va.toNat / 2 ^ 29 = p / 2 / 2 ^ 11))

/-! Sending a chunk away (R284, R359). Log 64 (DESIGN CHOICE). -/

/-- Sends a packet for chunk j of a copy. -/
def State.sendChunk (s : State) (c : Copy) (j : Nat) (p : Packet) : State :=
  let (r, s1) := s.sendPacket { p with job := c.job } (some (.copy c.id)) j
  s1.onCopy c.id fun c => { c with out := (j, r) :: c.out }

/-- Sends a part to a peer: a plain write for a copy with no map; a chunk write with the map word where the bit is set with it; one with no map word where the peer is to hold the part until it is told the chunk's bit is set (R284, R359). -/
def State.sendPart (s : State) (c : Copy) (x : Part) (map : Option Nat) : State :=
  let es := c.desc.esize
  let (bs, bad) := c.held (x.elem * es) (x.n * es)
  let kind := if c.desc.mapped then 6 else 3
  let p := s.mkPacket kind x.loc bs.length x.key (if kind = 6 then c.desc.reduce else 0) c.desc.scope bs
  s.sendChunk c x.chunk { p with
    chunk := (if kind = 6 then x.chunk else 0), map := word ((map.map peerPa).getD 0), flags := (if bad.any id then 1 else 0), unit := es, part := x.elem }

/-- Tells a peer that a part it holds is to be performed, or dropped (R284). -/
def State.freePart (s : State) (c : Copy) (x : Part) (drop : Bool) : State :=
  let p := s.mkPacket 6 x.loc 0 x.key 0 c.desc.scope []
  let q : Packet := { p with chunk := x.chunk, flags := (if drop then 1 else 0), part := x.elem }
  if drop then (s.sendPacket { q with job := c.job } none 0).2 else s.sendChunk c x.chunk q

/-- The bytes a part puts into host memory, and which carry poison: a reduction is made on the bytes just read (R199). Log 43 (DEDUCED). -/
def Copy.hostBytes (c : Copy) (x : Part) : List Byte × List Bool :=
  let es := c.desc.esize
  if c.desc.reduce = 0 then c.held (x.elem * es) (x.n * es)
  else
    ((List.range x.n).flatMap fun i =>
      let old := ((fetched c.buf (x.loc + i * es) es).map natOfBytes).getD 0
      bytesOfNat es (redOp c.desc.reduce old (natOfBytes (c.held ((x.elem + i) * es) es).1)),
     (List.range (x.n * es)).map fun i => (c.held (x.elem * es) (x.n * es)).2.getD i false || c.bad.get false (x.loc + i))

/-- Posts a part to host memory: a later part of the copy that reduces there starts from it (R199, R264). -/
def State.postPart (s : State) (c : Copy) (x : Part) : State :=
  let c := (s.copy? c.id).getD c
  let (bs, bad) := c.hostBytes x
  (s.onPkg fun p => { p with hostOut := p.hostOut ++ [⟨x.loc - 2 ^ 64, bs, bad.any id⟩] }).onCopy c.id fun c => { c with
    buf := bs.zipIdx.foldl (fun m y => m.set none (x.loc + y.2) (some y.1)) c.buf
    bad := bad.zipIdx.foldl (fun m y => m.set false (x.loc + y.2) y.1) c.bad }

/-- Performs a part of a chunk whose bit is set: at its home here; posted to the host; told to the peer that holds it. -/
def State.performPart (s : State) (c : Copy) (x : Part) : Nat × State :=
  if isHere x.loc then s.writePart c x
  else if isHostLoc x.loc then (0, s.postPart c x)
  else (0, s.freePart c x false)

/-- Performs every part held of chunk j: the writes made here. -/
def State.performHeld (s : State) (c : Copy) (j : Nat) : Nat × State :=
  let (w, s1) := (c.hold.filter fun x => decide (x.chunk = j)).foldl (fun (a : Nat × State) x =>
    let (w, b) := a.2.performPart c x
    (a.1 ||| w, b)) (0, s)
  (w, s1.onCopy c.id fun c => { c with writes := c.writes ||| w, hold := c.hold.filter fun x => decide (x.chunk ≠ j) })

/-- Drops every part held of chunk j (R284). -/
def State.dropHeld (s : State) (c : Copy) (j : Nat) : State :=
  ((c.hold.filter fun x => decide (x.chunk = j ∧ isPeerLoc x.loc = true)).foldl (fun (a : State) x => a.freePart c x true) s).onCopy c.id fun c =>
    { c with hold := c.hold.filter fun x => decide (x.chunk ≠ j) }

/-- Whether something of chunk j of a copy is under way. -/
def Copy.busy (c : Copy) (j : Nat) : Bool := c.out.any fun o => decide (o.1 = j)

/-- Sends the setting of a chunk's bit to a map that lies elsewhere: a chunk write with no data to a peer's, a compare-and-swap to the host's. -/
def State.sendBit (s : State) (c : Copy) (j key loc : Nat) : State :=
  if isHostLoc loc then
    let old := ((fetched c.buf loc 8).map natOfBytes).getD 0
    let id := s.pkg.nextReq
    (s.onPkg fun p => { p with nextReq := id + 1, hostReqs := p.hostReqs ++ [⟨id, .copy c.id, loc - 2 ^ 64, 8, some 11, word (old ||| 2 ^ (j % 64)), word old, j, false⟩] }).onCopy
      c.id fun c => { c with out := (j, id) :: c.out }
  else
    let p := s.mkPacket 6 loc 0 key 0 c.desc.scope []
    s.sendChunk c j { p with chunk := j, map := word (peerPa loc) }

/-- A map elsewhere has taken the bit of chunk j: what `cwait` acquires through it (R203, R271). -/
def State.noteBit (s : State) (loc j writes : Nat) (c : Copy) : State :=
  { s with chunkMasks := (loc - 8 * (j / 64), j, writes, c.desc.scope, c.sid) :: s.chunkMasks.filter fun c => decide (c.1 ≠ loc - 8 * (j / 64) ∨ c.2.1 ≠ j) }

/-- Whether a word of a map elsewhere is being changed for chunks of which this package holds parts: what it holds is performed in the step in which the answer is taken, and what was read of the word meanwhile is handed on after that (R199, R271). Log 64 (DESIGN CHOICE). -/
def State.bitOut (s : State) (loc n : Nat) : Bool :=
  s.pkg.hostReqs.any (fun r => r.fn.isSome && (match r.who with
    | .copy _ => overlaps (2 ^ 64 + r.addr) 8 loc n
    | _ => false)) ||
  s.pkg.peers.any fun q => q.2.unacked.any fun u => (match u.who with
    | some (.copy _) => decide (u.pkt.kind = 6 ∧ u.pkt.map ≠ 0 ∧ u.pkt.data = []) && overlaps (peerLoc u.pkt.dpkg u.pkt.map.toNat) 8 loc n
    | _ => false)

/-- Whether bytes here belong to parts held for a chunk whose bit elsewhere is being set: no other party reads them before they are performed or dropped (R199). Log 64 (DESIGN CHOICE). -/
def State.partOut (s : State) (loc n : Nat) : Bool :=
  s.pkg.copies.any fun c => c.hold.any fun x =>
    c.out.any (fun o => decide (o.1 = x.chunk)) && !c.bits.any (fun b => decide (b.1 = x.chunk)) && overlaps x.loc (x.n * c.desc.esize) loc n

/-- Takes a request of a copy off those under way. -/
def State.copyReply (s : State) (id req : Nat) : State := s.onCopy id fun c => { c with out := c.out.filter fun o => decide (o.2 ≠ req) }

/-- A claimed bit of a map here is set, in one step with the writes held for its chunk; one found set discards them (R199, R284). -/
def State.claimMet (s : State) (c : Copy) (j key loc : Nat) : State :=
  let s0 := { s with claims := s.claims.filter fun x => !decide (x.copy = c.id ∧ x.chunk = j) }
  if s0.bitSet key loc j then s0.dropHeld c j
  else
    let (w, s1) := s0.performHeld c j
    let (b, s2) := s1.setBit key loc j w c.desc.scope c.sid
    s2.onCopy c.id fun c => { c with writes := c.writes ||| b }

/-- Nothing of chunk j is under way: its bit is set next, and with it everything held for it is performed; then it is in place (R284). -/
def State.commitChunk (s : State) (id j : Nat) : State :=
  match s.copy? id with
  | none => s
  | some c =>
    if c.busy j || c.lost.contains j then s
    else match c.bits.find? (fun b => decide (b.1 = j)) with
      | none => (s.chunkDone id j).copySettle id
      | some (_, key, loc) =>
        let s1 := s.onCopy id fun c => { c with bits := c.bits.filter fun b => decide (b.1 ≠ j) }
        if isHere loc then
          let s2 := s1.claimMet c j key loc
          (match s2.copy? id with
           | some c2 => if c2.busy j then s2 else (s2.chunkDone id j).copySettle id
           | none => s2)
        else s1.sendBit c j key loc

/-- The home of a map elsewhere has answered: the bit was clear, and what is held for its chunk is performed; or it was set, and that is discarded (R284). -/
def State.bitTaken (s : State) (id j loc : Nat) (wasSet : Bool) : State :=
  match s.copy? id with
  | none => s
  | some c =>
    (if wasSet then s.dropHeld c j
     else
       let (w, s1) := s.performHeld c j
       s1.noteBit loc j w c).commitChunk id j

/-- A host compare-and-swap of a map word of a copy has answered: it is sent again where the word had changed and the bit is clear in it. -/
def State.bitReply (s : State) (r : HostReq) (id : Nat) (old : Word) : State :=
  let s1 := s.copyReply id r.id
  let loc := 2 ^ 64 + r.addr
  if old = r.cmp then s1.bitTaken id r.elem loc false
  else if old.getLsbD (r.elem % 64) then s1.bitTaken id r.elem loc true
  else
    let n := s1.pkg.nextReq
    (s1.onPkg fun p => { p with nextReq := n + 1, hostReqs := p.hostReqs ++ [{ r with id := n, opnd := old ||| 1#64 <<< (r.elem % 64), cmp := old }] }).onCopy
      id fun c => { c with out := (r.elem, n) :: c.out }

/-- Chunk j is abandoned: its claim is released and what is held for it is dropped (R284). -/
def State.abandonChunk (s : State) (id j : Nat) : State :=
  match s.copy? id with
  | none => s
  | some c =>
    { (s.dropHeld c j) with claims := s.claims.filter fun x => !decide (x.copy = id ∧ x.chunk = j) }.onCopy id fun c => { c with
      lost := j :: c.lost, bits := c.bits.filter fun b => decide (b.1 ≠ j) }

/-! Multicast chunks (R367 to R369). -/

/-- The stretches of a chunk's destination that lie at addresses that follow one another, as a remote package finds them: first element and count. -/
def stretches (d : Desc) (rev : Bool) : List Nat → List (Nat × Nat)
  | [] => []
  | e :: es =>
    match stretches d rev es with
    | (x, n) :: rest => if (d.elem rev x).2 = (d.elem rev e).2 + word d.esize then (e, n + 1) :: rest else (e, 1) :: (x, n) :: rest
    | [] => [(e, 1)]

/-- A packet of a multicast chunk to one destination: some of its elements, or none; with the map word where the bit is to be set with it. -/
def State.mcPacket (s : State) (c : Copy) (j pkg : Nat) (unicast : Bool) (x : Nat × Nat) (map : Bool) : Packet :=
  let es := c.desc.esize
  let n := x.2 * es
  let (bs, bad) := c.held (x.1 * es) n
  ⟨7, (if bad.any id then 1 else 0) ||| (if unicast then 2 else 0), n, pkg, s.pkgNo, 0, (s.jobRoot c.job).2, c.desc.reduce,
    c.desc.scope, (c.desc.elem c.rev x.1).2, c.job, j, if map then c.desc.map + word (8 * (j / 64)) else 0, bs, false, es, x.1⟩

/-- Sends a multicast chunk to one destination: in one packet where its destination is contiguous; otherwise in parts that the destination holds, the bit following them (R284, R367, R368). -/
def State.sendMc (s : State) (c : Copy) (j pkg : Nat) (unicast : Bool) : State :=
  let s1 := match stretches c.desc c.rev (c.desc.elems j) with
    | [x] => s.sendChunk c j (s.mcPacket c j pkg unicast x true)
    | xs => xs.foldl (fun (a : State) x => a.sendChunk c j (a.mcPacket c j pkg unicast x false)) s
  s1.onPkg fun g => { g with branches := ⟨pkg, c.id, j, s.gtime, false⟩ :: g.branches }

/-- Whether parts of a multicast chunk to one destination await their acks. -/
def State.mcWaiting (s : State) (id j pkg : Nat) : Bool :=
  (s.peer pkg).unacked.any fun u => decide (u.who = some (.copy id) ∧ u.elem = j ∧ u.pkt.kind = 7)

/-- Chunks of a multicast copy in place at every destination whose branch has not failed (R369). -/
def State.mcRecount (s : State) (id : Nat) : State :=
  let live := (s.branchesOf id).filter fun x => x.failed.isNone
  s.onCopy id fun c => { c with done := (List.range c.desc.chunks).filter fun j => live.all fun x => x.done.contains j }

/-- Chunk j is committed at a destination of a multicast copy (R369). -/
def State.mcCommitted (s : State) (id j pkg : Nat) : State :=
  let mark (x : McDest) : McDest := if x.copy = id ∧ x.pkg = pkg ∧ x.done.contains j = false then { x with done := j :: x.done } else x
  let s1 := s.onPkg fun p => { p with
    mcast := p.mcast.map mark, branches := p.branches.filter fun b => !decide (b.copy = id ∧ b.chunk = j ∧ b.pkg = pkg) }
  (s1.mcRecount id).copySettle id

/-- The record of the end of a copy or branch that will not be replayed (R202). -/
def FaultRec.last (r : FaultRec) : FaultRec := { r with code := .copyFault, replay := false }

/-- Posts a record of an engine for a job; its number (R301 step 3: it takes no policy). -/
def State.postFor (s : State) (job : BitVec 32) (r : FaultRec) : Nat × State :=
  match s.job? job with
  | some j => s.postRecord j r []
  | none => (0, s)

/-- The stream bytes a copy has read from its source, before a replay as well (R197). Log 42 (DEDUCED). -/
def Copy.bytesRead (c : Copy) : Nat :=
  (c.buf.filter fun x => decide (2 ^ 96 ≤ x.1 ∧ x.1 < 2 ^ 96 + c.desc.len) && x.2.isSome).length

/-- The chunks in place at a destination of a multicast copy: here by the bits of this package's own map, elsewhere those the copy has heard of (R309). -/
def State.branchDone (s : State) (c : Copy) (x : McDest) : List Nat :=
  if x.pkg = s.pkgNo then
    (List.range c.desc.chunks).filter fun j => x.done.contains j || (match s.mapPlace c (s.strandOf c) j with
      | (s1, .ok m) => s1.bitSet m.key m.loc j
      | _ => false)
  else x.done

/-- Whether packets of a branch are still under way. -/
def State.branchBusy (s : State) (id pkg : Nat) : Bool := (s.peer pkg).unacked.any fun u => decide (u.who = some (.copy id) ∧ u.pkt.kind = 7)

/-- Drops a branch that has ended in final failure; the copy is over with its last branch (R202, R369). -/
def State.mcDrop (s : State) (c : Copy) (pkg : Nat) (r : FaultRec) : State :=
  let s1 := (s.postFor c.job r.last).2.onPkg fun p => { p with mcast := p.mcast.filter fun x => !decide (x.copy = c.id ∧ x.pkg = pkg) }
  if s1.branchesOf c.id = [] then
    (if c.relDone then s1 else s1.fillToken c.uid c.sb (tokenOf FaultCode.copyFault.num c.bytesRead) none).copyOver c (some r.last)
  else (s1.mcRecount c.id).copySettle c.id

/-- Changes a branch of a multicast copy. -/
def State.onBranch (s : State) (id pkg : Nat) (f : McDest → McDest) : State :=
  s.onPkg fun p => { p with mcast := p.mcast.map fun y => if y.copy = id ∧ y.pkg = pkg then f y else y }

/-- A branch of a multicast copy has met a failure: it starts no new chunk there, and the others run on (R369). -/
def State.mcFail (s : State) (id j pkg : Nat) (f : Fail) : State :=
  match s.copy? id with
  | some c =>
    let r := { c.faultRec f (c.desc.elem c.rev (512 * j / c.desc.esize)).2 9 with at_ := some s.gtime }
    if (s.branchesOf id).any fun x => decide (x.pkg = pkg) && x.failed.isNone && x.fault.isNone then
      (s.noteLocal c.job r.cause).onBranch id pkg fun x => { x with fault := some r }
    else s
  | none => s

/-- A failed branch whose started chunks have settled posts its record, and the delivery token is written in the same step (R309, R369); on a page already serviced for it, or by an uncorrectable error in its map, the branch ends in final failure (R202, R307). -/
def State.mcPost (s : State) (c : Copy) (x : McDest) (r0 : FaultRec) : State :=
  let set := s.branchDone c x
  let clear := (List.range c.desc.chunks).filter fun i => !set.contains i
  let r := { r0 with replay := true, chunkLow := clear.headD 0, chunkCount := clear.length }
  if r.servedIn c.served || (decide (r.code = .uncorrectableEcc) && (decide (x.pkg ≠ s.pkgNo) || s.mapBroken c ⟨r.code, false, false⟩ (c.desc.map + word (8 * (clear.headD 0 / 64))))) then s.mcDrop c x.pkg r
  else
    let (k, s1) := s.postFor c.job r
    let all := (List.range c.desc.chunks).filter fun i => (s.branchesOf c.id).all fun y => (s.branchDone c y).contains i
    let s2 := if c.delDone then s1
      else s1.fillToken c.uid c.sd (tokenOf r.code.num (all.map c.desc.chunkLen).sum) (some ⟨c.desc.scope, c.writes⟩)
    ((((s2.onBranch c.id x.pkg fun y => { y with fault := some r, failed := some k }).onCopy c.id fun c => { c with delDone := true }).mcRecount c.id).copySettle c.id)

/-- Posts the failures of a multicast copy's branches whose packets have all been answered. -/
def State.mcPostAll (s : State) (id : Nat) : State :=
  (s.branchesOf id).foldl (fun (a : State) x => match a.copy? id, x.fault with
    | some c, some r => if x.failed.isNone && !a.branchBusy id x.pkg then a.mcPost c x r else a
    | _, _ => a) s

/-! Performing a chunk. -/

/-- Whether source and destination of a copy overlap in a scratchpad, a vault or the same virtual range (R201). -/
def Copy.overlaps (c : Copy) : Bool :=
  let d := c.desc
  let lo (a b : Int) : Int := if a ≤ b then a else b
  let offs := (d.ext.zip ((d.esize : Int) :: d.str)).map fun x => ((x.1 : Int) - 1) * x.2
  let low := offs.foldl (fun a x => a + lo 0 x) 0
  let high := offs.foldl (fun a x => a + (if x ≤ 0 then 0 else x)) (d.esize : Int)
  let canon (w : Word) : Int := (canonVa c.sid w : Nat)
  let (p, q) := if c.rev then (canon d.dst, canon d.src) else (canon d.src, canon d.dst)
  c.fill.isNone && c.ue.isNone && decide (0 < d.len ∧ p + low < q + (d.len : Int) ∧ q < p + high)

/-- Commits chunk j of a multicast copy at the issuing package, by its own tables and map (R367, R368). -/
def State.mcLocal (s : State) (c : Copy) (t : Strand) (j : Nat) : State :=
  match s.mapPlace c t j with
  | (s1, .error (f, _)) => s1.mcFail c.id j s1.pkgNo f
  | (s1, .ok m) =>
    if s1.bitSet m.key m.loc j then s1.mcCommitted c.id j s1.pkgNo
    else if s1.claimed (m.loc - 8 * (j / 64)) j none then s1
    else
      match s1.destElems c t (c.desc.elems j) with
      | (s2, .error (f, _)) => s2.mcFail c.id j s2.pkgNo f
      | (s2, .ok ds) =>
        let (w, s3) := (partsOf c.desc.esize j ds).foldl (fun (a : Nat × State) x =>
          let (w, b) := a.2.writePart c x
          (a.1 ||| w, b)) (0, s2)
        let (b, s4) := s3.setBit m.key m.loc j w c.desc.scope c.sid
        (s4.onCopy c.id fun c => { c with writes := c.writes ||| w ||| b }).mcCommitted c.id j s4.pkgNo

/-- The parts of a chunk of a copy with no map go to their homes at once. -/
def State.writeParts (s : State) (c : Copy) (j : Nat) (xs : List Part) : State :=
  let (w, s1) := xs.foldl (fun (a : Nat × State) x =>
    if isPeerLoc x.loc then (a.1, a.2.sendPart c x none)
    else
      let (w, b) := a.2.performPart c x
      (a.1 ||| w, b)) (0, s)
  (s1.onCopy c.id fun c => { c with writes := c.writes ||| w }).commitChunk c.id j

/-- The parts of a chunk with a map: one part at the home of its map word goes there with the bit; otherwise its map's home claims the bit if that is here, every part is held, those of peers by the peers, and the bit is set once they are (R199, R284). Log 64 (DESIGN CHOICE). -/
def State.holdParts (s : State) (c : Copy) (j : Nat) (xs : List Part) (m : Hit) : State :=
  let whole := match xs with
    | [x] => isPeerLoc m.loc && isPeerLoc x.loc && decide (peerPkg x.loc = peerPkg m.loc)
    | _ => false
  if whole then xs.foldl (fun (a : State) x => a.sendPart c x (some m.loc)) s
  else
    let s1 := (if isHere m.loc then { s with claims := ⟨m.loc - 8 * (j / 64), j, c.id⟩ :: s.claims } else s).onCopy c.id fun c => { c with
      hold := c.hold ++ xs, bits := (j, m.key, m.loc) :: c.bits }
    ((xs.filter fun x => isPeerLoc x.loc).foldl (fun (a : State) x => a.sendPart c x none) s1).commitChunk c.id j

/-- Writes chunk j, read before, at its homes (R199, R284): what a reduction at the host starts from is asked for first. -/
def State.writeChunk (s : State) (c : Copy) (t : Strand) (j : Nat) (map : Option Hit) : State :=
  match s.destElems c t (c.desc.elems j) with
  | (s1, .error (f, va)) => s1.copyFault c.id f va 9
  | (s1, .ok ds) =>
    let xs := partsOf c.desc.esize j (if c.desc.reduce = 0 then lastOnly ds else ds)
    match xs.find? fun x => isHostLoc x.loc && decide (c.desc.reduce ≠ 0) && (fetched c.buf x.loc (x.n * c.desc.esize)).isNone with
    | some x => s1.askFor (.copy c.id) c.job (c.desc.elem c.rev x.elem).2 x.loc (x.n * c.desc.esize) x.key
    | none => match map with
      | none => s1.writeParts c j xs
      | some m => s1.holdParts c j xs m

/-- The Ethernet ports of the scale-out side: 8 after the 18 of Tsueratis (R4). Log 14 (DESIGN CHOICE). -/
def uePorts : List Nat := (List.range 8).map (18 + ·)

/-- A scale-out port that is not retired: the lowest. -/
def State.uePort (s : State) : Option Nat := uePorts.find? fun p => !s.pkg.retiredPorts.contains p

/-- The peer an endpoint's packet comes from or goes to. -/
def uePeer : UePacket → Nat
  | .write p _ _ _ _ _ _ _ _ _ _ _ | .read p _ _ _ _ _ | .readReply p _ _ _ | .ack p _ | .failed p _ _ => p

/-- The delivery context a packet needs: a peer and a mode; answers use that of what they answer (R379, R383). -/
def ueContext : UePacket → Option (Nat × UeMode)
  | .write p _ _ _ m _ _ _ _ _ _ _ => some (p, m)
  | .read p _ _ _ _ _ => some (p, .rud)
  | _ => none

/-- Whether the endpoint can take a packet: its peer and its context are within their limits (R379). -/
def State.ueRoom (s : State) (p : UePacket) : Bool :=
  decide (uePeer p < 4096) && (match ueContext p with
    | some c => s.pkg.contexts.any (fun x => decide ((x.peer, x.mode) = c)) || decide (s.pkg.contexts.length < 16384)
    | none => true)

/-- The context of a packet, where one is open. -/
def State.ueCtx (s : State) (p : UePacket) : Option UeContext :=
  (ueContext p).bind fun c => s.pkg.contexts.find? fun x => decide ((x.peer, x.mode) = c)

/-- Opens the context of a packet. -/
def State.ueOpen (s : State) (p : UePacket) : State :=
  match ueContext p with
  | some c => if (s.ueCtx p).isSome then s else s.onPkg fun g => { g with contexts := ⟨c.1, c.2, 0, 0⟩ :: g.contexts }
  | none => s

/-- Changes the context of a packet. -/
def State.onCtx (s : State) (p : UePacket) (f : UeContext → UeContext) : State :=
  s.onPkg fun g => { g with contexts := g.contexts.map fun x => if ueContext p = some (x.peer, x.mode) then f x else x }

/-- Sends a packet of the endpoint on a scale-out port and a path of its peer (R373, R378). -/
def State.uePut (s : State) (p : UePacket) (who : Option Asker) : State :=
  match s.uePort with
  | none => s
  | some port =>
    let (path, s1) := (s.ueOpen p).takePath (2 ^ 20 + uePeer p) who
    s1.onPkg fun g => { g with ueOut := g.ueOut ++ [⟨port, path, s.gtime, p⟩] }

/-- Sends a packet of an Ultra Ethernet command for chunk j of its copy under a new tag; without a port, a context or a path the peer is unreachable (R376, R379, R383). -/
def State.ueRequest (s : State) (c : Copy) (j : Nat) (pkt : Nat → UePacket) (va : Word) (kind : Nat) : State :=
  let tag := s.pkg.nextReq
  if s.uePort.isNone || !s.ueRoom (pkt tag) || !s.pathOk (2 ^ 20 + uePeer (pkt tag)) c.policy then s.copyFault c.id (fail .fabricUnreachable) va kind
  else
    let s1 := (s.onPkg fun p => { p with nextReq := tag + 1 }).uePut (pkt tag) (some (.copy c.id))
    s1.onCopy c.id fun c => { c with out := (j, tag) :: c.out }

/-- Sends chunk j of an Ultra Ethernet write to the peer's region (R380, R383). -/
def State.ueSend (s : State) (c : Copy) (u : UeSide) (j : Nat) : State :=
  let (bs, bad) := c.held (512 * j) (c.desc.chunkLen j)
  let pkt (psn tag : Nat) : UePacket := .write u.peer c.job u.region (c.desc.dst.toNat + 512 * j) u.mode c.desc.reduce u.mapped tag psn c.desc.esize (bad.any id) bs
  let psn := ((s.ueCtx (pkt 0 0)).map (·.sent)).getD 0
  (s.ueRequest c j (pkt psn) (c.desc.dst + word (512 * j)) 9).onCtx (pkt 0 0) fun x => if s.uePort.isSome then { x with sent := psn + 1 } else x

/-- Asks the peer's region for chunk j of an Ultra Ethernet read, once (R383). -/
def State.ueAsk (s : State) (c : Copy) (u : UeSide) (j : Nat) : State :=
  if c.out.any (fun o => decide (o.1 = j)) then s
  else s.ueRequest c j (fun tag => .read u.peer c.job u.region (c.desc.src.toNat + 512 * j) (c.desc.chunkLen j) tag) (c.desc.src + word (512 * j)) 8

/-- The source bytes of chunk j: read, held already, or asked for; whether they are there. A fill has its pattern. Log 15 (DESIGN CHOICE). -/
def State.readChunk (s : State) (c : Copy) (t : Strand) (j : Nat) : State × Except (Fail × Word) Bool :=
  if c.read.contains j then (s, .ok true)
  else match c.fill, c.ue with
    | some v, _ =>
      (s.onCopy c.id fun c => { c with buf := (List.range (c.desc.chunkLen j)).foldl (fun m i =>
        m.set none (streamKey (512 * j + i)) (some (BitVec.ofNat 8 (v.toNat / 256 ^ (i % 8))))) c.buf }, .ok true)
    | none, some u => if u.reads then (s.ueAsk c u j, .ok false) else s.readElems c.id t (c.desc.elems j)
    | none, none => s.readElems c.id t (c.desc.elems j)

/-- Whether chunk j must wait for chunks before it: elements of several chunks may land on the same bytes, and act in stream order (R199); and ROD sends its packets in order (R378). -/
def Copy.waitsTurn (c : Copy) (j : Nat) : Bool :=
  (c.rev && !c.desc.distinct && !(List.range j).all c.done.contains) ||
  ((c.ue.any fun u => decide (u.mode = .rod) && !u.reads) && !(List.range j).all fun i => c.busy i || c.done.contains i)

/-- The part of a chunk after its source is read: an overlapping copy writes nothing before every chunk is read (R201), and one whose destinations repeat writes its chunks in order (R199). Log 15 (DESIGN CHOICE). -/
def State.chunkWrite (s : State) (id j : Nat) (t : Strand) (map : Option Hit) : State :=
  match s.copy? id with
  | none => s
  | some c =>
    if c.overlaps && !(List.range c.desc.chunks).all (fun i => c.read.contains i || c.done.contains i) || c.waitsTurn j then s
    else match c.ue with
      | some u => if u.reads then s.writeChunk c t j map else s.ueSend c u j
      | none =>
        if c.desc.multicast then
          ((s.branchesOf id).filter fun x => x.failed.isNone && x.fault.isNone && !x.done.contains j).foldl (fun (a : State) x =>
            if x.pkg = s.pkgNo then a.mcLocal c t j
            else if a.pathOk x.pkg c.policy then a.sendMc c j x.pkg false
            else a.mcFail c.id j x.pkg (fail .fabricUnreachable)) (s.mcRecount id)
        else s.writeChunk c t j map

/-- `perform_chunk` (R199): a chunk whose bit is set is skipped, the word of a map elsewhere being fetched for that; a claimed one waits for its claimant (R284). Log 15 (DESIGN CHOICE). -/
def State.performChunk (s : State) (c : Copy) (j : Nat) : State :=
  let t := s.strandOf c
  let go (s : State) (map : Option Hit) : State :=
    match s.readChunk c t j with
    | (s1, .error (f, va)) => s1.copyFault c.id f va 8
    | (s1, .ok false) => s1
    | (s1, .ok true) =>
      (s1.onCopy c.id fun c => { c with read := if c.read.contains j then c.read else j :: c.read }).chunkWrite c.id j t map
  if !c.desc.mapped || c.desc.multicast || (match c.ue with
      | some u => !u.reads
      | none => false) then go s none
  else
    match s.mapPlace c t j with
    | (s1, .error (f, va)) => s1.copyFault c.id f va 9
    | (s1, .ok m) =>
      if isHere m.loc then
        if s1.bitSet m.key m.loc j then (s1.skipChunk c.id j).copySettle c.id
        else if s1.claimed (m.loc - 8 * (j / 64)) j none then s1
        else go s1 (some m)
      else match fetched c.buf m.loc 8 with
        | none => s1.askFor (.copy c.id) c.job (c.desc.map + word (8 * (j / 64))) m.loc 8 m.key
        | some bs =>
          if c.bad.get false m.loc then s1.copyFault c.id (fail .uncorrectableEcc) (c.desc.map + word (8 * (j / 64))) 9
          else if (natOfBytes bs).testBit (j % 64) then (s1.skipChunk c.id j).copySettle c.id else go s1 (some m)

/-! Faults posted, service and final failure (R202, R301, R309). -/

/-- Whether the chunks of a copy are committed by bits of a map that its own package names. -/
def Copy.byMap (c : Copy) : Bool :=
  c.desc.mapped && !c.desc.multicast && (match c.ue with
    | some u => u.reads
    | none => true)

/-- The chunks in place as a fault finds them: by the bits of the map, here or as just fetched, or by what the copy knows where there is none or a word of it cannot be had (R309). -/
def State.inPlace (s : State) (c : Copy) : List Nat :=
  if !c.byMap then c.done
  else
    let t := s.strandOf c
    (List.range c.desc.chunks).filter fun j =>
      match s.mapPlace c t j with
      | (s1, .ok m) =>
        if isHere m.loc then s1.bitSet m.key m.loc j
        else match fetched c.buf m.loc 8 with
          | some bs => (natOfBytes bs).testBit (j % 64)
          | none => c.done.contains j
      | (_, .error _) => c.done.contains j

/-- Asks for the words of a map elsewhere that are not there yet, for the counts of a fault record (R309); whether all are. -/
def State.askWords (s : State) (c : Copy) (t : Strand) : Nat → State × Bool
  | 0 => (s, true)
  | w + 1 =>
    let (s1, r) := s.askWords c t w
    match s1.mapPlace c t (64 * w) with
    | (s2, .ok m) =>
      if isHere m.loc || (fetched c.buf m.loc 8).isSome then (s2, r)
      else (s2.askFor (.copy c.id) c.job (c.desc.map + word (8 * w)) m.loc 8 m.key, false)
    | (s2, .error _) => (s2, r)

/-- A copy ends in final failure: a `COPY_FAULT` record with the fields of its fault, the release token, and no more (R202, R206). -/
def State.copyFinal (s : State) (c : Copy) (r : FaultRec) : State :=
  ((s.postFor c.job r.last).2.fillToken c.uid c.sb (tokenOf FaultCode.copyFault.num c.bytesRead) none).copyOver c (some r.last)

/-- Posts the fault of a copy whose started chunks have settled, in one step with its delivery token (R202, R309): without a chunk map the copy is over; with one it leaves its port and waits for service; a replay that faults on a page already serviced, or a broken map, ends in final failure. -/
def State.postCopyFault (s : State) (c : Copy) (f : FaultRec) : State :=
  let set := s.inPlace c
  let clear := (List.range c.desc.chunks).filter fun j => !set.contains j
  let bytes := (set.map c.desc.chunkLen).sum
  let r := { f with chunkLow := clear.headD 0, chunkCount := clear.length }
  let tok := tokenOf f.code.num bytes
  let mark := some ⟨c.desc.scope, c.writes⟩
  if c.replaying && f.servedIn c.served then s.copyFinal c r
  else
    let r1 := { r with replay := c.desc.mapped && !c.final }
    let (k, s1) := s.postFor c.job r1
    let s2 := if c.delDone then s1 else s1.fillToken c.uid c.sd tok mark
    if !c.desc.mapped then
      (if c.relDone then s2 else s2.fillToken c.uid c.sb (tokenOf f.code.num c.bytesRead) none).copyOver c (some r1)
    else if c.final then s2.copyFinal c r
    else
      ((s2.leavePort c).onCopy c.id fun c => { c with st := .faulted, recNo := k, delDone := true, fault := some r1 })

/-- The tail has passed the record of a failed branch: it replays its clear chunks, or is dropped where the record was declined (R369). -/
def State.branchPassed (s : State) (declined : Bool) (x : McDest) : State :=
  match s.copy? x.copy with
  | none => s
  | some c =>
    match x.fault with
    | none => s
    | some r =>
      if declined then s.mcDrop c x.pkg r
      else
        ((s.onBranch x.copy x.pkg fun y => { y with fault := none, failed := none }).onCopy c.id fun c =>
          { c with st := if c.st = .faulted then .replayQueued else c.st, served := r.page :: c.served }).mcRecount c.id

/-- The tail has passed the record of a fault of a copy: it is to be replayed, or ends in final failure where the record was declined (R301 steps 5 and 6). -/
def State.copyPassed (s : State) (k : Nat) (declined : Bool) (c : Copy) : State :=
  match c.fault with
  | some r =>
    if c.st = .faulted ∧ c.recNo = k then
      (if declined then s.copyFinal c r
       else s.onCopy c.id fun c => { c with st := .replayQueued, served := r.page :: c.served })
    else s
  | none => s

/-- The tail of the fault queue has passed record k of a job: what becomes of its copies. -/
def State.copiesPassed (s : State) (job : BitVec 32) (k : Nat) (declined : Bool) : State :=
  let mine := s.pkg.copies.filter fun c => decide (c.job = job)
  let s1 := mine.foldl (fun a c => a.copyPassed k declined c) s
  let failed := s1.pkg.mcast.filter fun x => decide (x.failed = some k) && mine.any fun c => decide (c.id = x.copy)
  failed.foldl (fun a x => a.branchPassed declined x) s1

end Sys2Proof.Machine
end

