-- ==== Sys2Proof/Machine/CopyInstr.lean ====
section
/-! DEFINITION. Copies, streams and waits on their chunks (06_core_matrix.md R190 to R203, R207, R208): the COPY instructions, `capp` apart, and the events of the streamer's ports. -/

namespace Sys2Proof.Machine

/-! Issuing a copy. -/

/-- The packages of the slice a job runs on: those whose acceptances started it (R354). -/
def State.sliceOf (s : State) (job : BitVec 32) : List Nat :=
  match s.job? job with
  | some j => if j.multi then j.accepts.map (·.1) else [s.pkgNo]
  | none => []

/-- The packages a package set of 128 bytes names. -/
def setBits (v : Nat) : List Nat := (List.range 1024).filter fun p => v.testBit p

/-- The defects of a multicast copy (R367). -/
def State.mcastBad (s : State) (job : BitVec 32) (d : Desc) (dests : List Nat) : Bool :=
  dests.isEmpty || !dests.all (s.sliceOf job).contains || !d.mapped || decide (d.scope ≠ .fab)

/-- A new copy, queued and not started. -/
def Copy.fresh (id : Nat) (eng : Engine) (uid : Nat) (sid job : BitVec 32) (pc : Word) (hb : Nat) (d : Desc) (rev : Bool)
    (dests : List Nat) (sd sb : BitVec 5) : Copy :=
  ⟨id, eng, uid, sid, job, pc, hb, d, rev, dests, none, 0x100000000, none, sd, sb, .queued, [], [], [], [], 0, [], none, false, 0, [],
    false, false, false, none, [], [], [], false, false, []⟩

/-- Adds a copy to the package, with a branch for each destination. -/
def State.addCopy (s : State) (c : Copy) : State :=
  s.onPkg fun p => { p with nextCopy := c.id + 1, copies := p.copies ++ [c], mcast := p.mcast ++ c.dests.map fun d => ⟨c.id, d, [], none, none⟩ }

/-- The command queue of a port is full: the issue waits, bounded by `dl.def` (R190). -/
def State.queueWait (s : State) (p : Nat) : State := s.boundedWait (.port p) (s.faultRec (fail .copyFault) 0 8 0)

/-- Queues a copy of the current strand on a port: its release is made, its descriptor captured, its token registers marked empty (R196, R265). The release is made here, the first point at which the copy may read its source (R198). Log 42 (DEDUCED). On a fabric port that is bound, which accepts nothing else until it is unbound (R191), the copy waits in the queue behind the binding; the rules do not say what its issue does. Log 63 (DESIGN CHOICE). -/
def State.queueCopy (s : State) (rev : Bool) (d b : BitVec 5) (p : Nat) (desc : Desc) (dests : List Nat) : State :=
  if portQueueCap ≤ (s.portOf s.curCore p).queue.length then s.queueWait p
  else s.withRelease desc.scope [] fun _ s =>
    let c := Copy.fresh s.pkg.nextCopy (.port s.curCore p) s.cur.uid s.cur.sid s.cur.job s.cur.pc s.cur.past desc rev dests d b
    (((s.addCopy c).onPort s.curCore p fun q => { q with queue := q.queue ++ [.copy c.id] }).onCur fun t => (t.markEmpty d).markEmpty b).retire

/-- `cpy` and `cpyr` (R196, R367). -/
def State.issueCopy (s : State) (rev : Bool) (d a b : BitVec 5) (p : Nat) : State :=
  s.issue [a] [d, b] fun s =>
    let va := s.cur.getS a
    s.readRec va 64 8 fun v s =>
      let desc := descOf v
      if desc.bad (decide (12 ≤ p)) then s.faultCode .copyDescriptor 0 0 0
      else if desc.multicast then
        s.readRec (va + 64) 64 16 fun m s =>
          let dests := setBits m
          if s.mcastBad s.cur.job desc dests then s.faultCode .copyDescriptor 0 0 0
          else s.queueCopy rev d b p desc dests
      else s.queueCopy rev d b p desc []

/-- `cpy`: a copy whose source is patterned (R195, R196). -/
def execCpy (d a b : BitVec 5) (p : BitVec 4) (s : State) : Result := .next (s.issueCopy false d a b p.toNat)

/-- `cpyr`: a copy whose destination is patterned (R195, R196). -/
def execCpyr (d a b : BitVec 5) (p : BitVec 4) (s : State) : Result := .next (s.issueCopy true d a b p.toNat)

/-! Waits on words (R203, R207). -/

/-- A wait on the word at an address that is decided by its value: here at its home; for a word of a peer or the host, as often as it is asked for, until it is met or its deadline is past (R74). -/
def State.wordWait (s : State) (va : Word) (kind : Nat) (d : BitVec 5) (dl : Word) (obj : Nat → Word → WaitObj)
    (met : Nat → Word → Option (State → State)) (out : Word → Word) : State :=
  match s.check s.cur va 8 (needOf .load) with
  | (s1, .error f) => s1.takeFault (s1.faultRec f va 2 0)
  | (s1, .ok h) =>
    if isHere h.loc then s1.deadlineWait (obj h.loc va) kind d dl
    else
      let ask (s : State) : State := s.askRemote h.loc 8 h.key 0 (s.faultRec (fail .fabricUnreachable) va 2 0)
      match fetched s1.cur.buf h.loc 8 with
      | none =>
        let dl1 := s1.pollDl dl
        ask (s1.waitOn .polled kind d (some dl1.1) dl1.2 none)
      | some bs =>
        let v := word (natOfBytes bs)
        match met h.loc v with
        | some f => (f s1).finish kind 0 .met (out v) d (out v)
        | none => s1.pollAgain kind d (s1.pollDl dl) ask fun o => s1.finish kind 0 o (out v) d (out v)

/-- `cwait`: waits for the chunks of the mask in sd (R203). -/
def execCwait (d a b : BitVec 5) (w : BitVec 7) (s : State) : Result :=
  .next (s.issue [a, b, d] [d] fun s =>
    let mask := s.cur.getS d
    let miss (v : Word) : Word := mask &&& ~~~v
    s.wordWait (s.cur.getS a + word (8 * w.toNat)) 7 d (s.cur.getS b) (fun loc va => .chunks loc va mask)
      (fun loc v => if miss v = 0 then some (fun s => s.chunkAcquire loc mask) else none) miss)

/-- `tlwait`: waits until the counter at sa has reached the value in sd (R207). -/
def execTlwait (d a b : BitVec 5) (s : State) : Result :=
  .next (s.issue [a, b, d] [d] fun s =>
    let n := s.cur.getS d
    s.wordWait (s.cur.getS a) 6 d (s.cur.getS b) (fun loc va => .timeline loc va n)
      (fun loc v => if n.toNat ≤ v.toNat then some (fun s => s.tlAcquire loc n) else none) fun v => v)

/-! Streams (R191, R192). -/

/-- Unbinds a stream register of the current strand: its strips are discarded, its port is free, it holds 0 (R192). Log 41 (DEDUCED). -/
def State.unbindStream (s : State) (d : BitVec 5) : State :=
  match s.cur.stream d with
  | none => s
  | some b =>
    let s1 := if (s.portOf s.curCore b.port).bound = some (s.cur.uid, d) then s.dropPortAsks s.curCore b.port else s
    (s1.onPort s.curCore b.port fun p =>
      let p1 := { p with queue := p.queue.filter fun x => decide (x ≠ .bind s.cur.uid d) }
      if p.bound = some (s.cur.uid, d) then p1.unbind else p1).onCur fun t =>
        { t.setV d 0 with streams := t.streams.set none d.toNat none }

/-- Binds a stream register of the current strand: a vector port at once, a fabric port when the binding reaches the head of its queue (R191). Log 41 (DEDUCED). -/
def State.bindStream (s : State) (d : BitVec 5) (b : StreamBind) : State :=
  let s1 := s.onPort s.curCore b.port fun p =>
    if b.port < 4 then { p with bound := some (s.cur.uid, d), active := true } else { p with queue := p.queue ++ [.bind s.cur.uid d] }
  s1.onCur fun t => { t with streams := t.streams.set none d.toNat (some b) }

/-- The fields of a descriptor that `sbind` wants at 0 (R191). -/
def Desc.patternOnly (d : Desc) : Bool := decide (d.dst = 0 ∧ d.reduce = 0 ∧ d.flags = 0 ∧ d.map = 0 ∧ d.tag = 0)

/-- `sbind`: binds a stream register to the pattern of the descriptor at sa (R191). A binding that still waits in a fabric port's queue does not make the port bound for another `sbind`, on which R191 is silent. Log 41 (DEDUCED), 63 (DESIGN CHOICE). -/
def execSbind (d a : BitVec 5) (e : BitVec 3) (p : BitVec 4) (s : State) : Result :=
  .next (s.issue [a] [] fun s =>
    let port := p.toNat
    let free := s.unbindStream d
    if decide (4 ≤ port ∧ port < 12) || (free.portOf free.curCore port).bound.isSome then s.faultCode .illegalOperand 0 0 0
    else s.readRec (s.cur.getS a) 64 8 fun v s =>
      let desc := descOf v
      if desc.bad false || !desc.patternOnly then s.faultCode .copyDescriptor 0 0 0
      else
        let s1 := s.unbindStream d
        if 4 ≤ port ∧ portQueueCap ≤ (s1.portOf s1.curCore port).queue.length then s.queueWait port
        else (s1.bindStream d ⟨port, desc, s1.cur.vbits / 8, e.toNat + 1, 0, s1.nextW⟩).retire)

/-- `sunbind`: unbinds a stream register; no effect on one that is not bound (R192). -/
def execSunbind (d : BitVec 5) (s : State) : Result := .next (s.issue [] [] fun s => (s.unbindStream d).retire)

/-! Port status (R208). -/

/-- What `cstat` reads of a port of the current strand's core. -/
def State.portStat (s : State) (p : Nat) : Word :=
  let q := s.portOf s.curCore p
  let head : Option Copy := match q.running, q.queue with
    | some id, _ => s.copy? id
    | none, .copy id :: _ => s.copy? id
    | none, _ => none
  let replay := s.pkg.copies.any fun c => decide (c.eng = .port s.curCore p ∧ (c.st = .faulted ∨ c.st = .replayQueued))
  let bit (b : Bool) (k : Nat) : Nat := if b then 2 ^ k else 0
  word ((match head with
    | some c => c.desc.tag.toNat % 2 ^ 16 * 2 ^ 48 + c.bytesDone * 2 ^ 8
    | none => 0) + bit q.bound.isSome 6 + bit replay 5 + bit q.running.isSome 4 + q.queue.length)

/-- `cstat`: the status of port sa (R208). -/
def execCstat (d a : BitVec 5) (s : State) : Result :=
  .next (s.issue [a] [d] fun s =>
    let p := (s.cur.getS a).toNat
    if 16 ≤ p then s.faultCode .illegalOperand 0 0 0 else (s.onCur fun t => t.setS d (s.portStat p)).retire)

/-! Events of the ports. -/

/-- Whether a copy is to be replayed on a port before any command not yet started (R202). -/
def State.replayWaits (s : State) (e : Engine) : Bool := s.pkg.copies.any fun c => decide (c.eng = e ∧ c.st = .replayQueued)

/-- PORT_DISPATCH: a free port starts the command at the head of its queue (R190, R191). -/
def execPortDispatch (core port : Nat) (s : State) : Result :=
  .next (let q := s.portOf core port
    if q.running.isSome || q.bound.isSome || s.replayWaits (.port core port) then s
    else match q.queue with
      | [] => s
      | .copy id :: rest =>
        (match s.copy? id with
         | none => s.onPort core port fun q => { q with queue := rest }
         | some c =>
           if !s.engineRuns c.job then s
           else (s.onPort core port fun q => { q with queue := rest, running := some id }).onCopy id fun c => { c with st := .running })
      | .bind uid d :: rest => s.onPort core port fun q => { q with queue := rest, bound := some (uid, d), active := true })

/-- Whether a copy is being performed. -/
def State.copyRuns (s : State) (c : Copy) : Bool := decide (c.st = .running) && c.fault.isNone && s.engineRuns c.job

/-- COPY_CHUNK: a copy performs one chunk, in any order (R199). Log 15 (DESIGN CHOICE). -/
def execCopyChunk (id chunk : Nat) (s : State) : Result :=
  .next (match s.copy? id with
    | none => s
    | some c =>
      if s.copyRuns c && decide (chunk < c.desc.chunks) && !(c.done.contains chunk && c.read.contains chunk) && !c.busy chunk then
        s.performChunk c chunk
      else s)

/-- RELEASE_TOKEN_WRITE: every source byte is read; a replay gives the full length (R197, R202). Log 42 (DEDUCED). -/
def execReleaseTokenWrite (id : Nat) (s : State) : Result :=
  .next (match s.copy? id with
    | none => s
    | some c =>
      if s.copyRuns c && !c.relDone && (List.range c.desc.chunks).all c.read.contains then
        ((s.fillToken c.uid c.sb (tokenOf 0 (if c.replaying then c.desc.len else c.bytesRead)) none).onCopy id fun c =>
          { c with relDone := true }).copySettle id
      else s)

/-- DELIVERY_TOKEN_WRITE: every destination byte is performed; never before the release token (R197). -/
def execDeliveryTokenWrite (id : Nat) (s : State) : Result :=
  .next (match s.copy? id with
    | none => s
    | some c =>
      if s.copyRuns c && c.complete && c.relDone && !c.delDone then
        ((s.fillToken c.uid c.sd (tokenOf 0 c.bytesDone) (some ⟨c.desc.scope, c.writes⟩)).onCopy id fun c =>
          { c with delDone := true }).copySettle id
      else s)

/-- A faulted copy whose chunks have settled begins to count: what it had fetched of a map elsewhere is stale (R309). -/
def Copy.count (c : Copy) : Copy := { c with counting := true, buf := c.buf.filter fun x => decide (2 ^ 96 ≤ x.1) }

/-- COPY_FAULT_POST: once its started chunks have settled, and the words of a map elsewhere are fetched, a faulted copy posts its record and writes its delivery token in one step; what was held for chunks not committed is dropped (R202, R284, R309); so does each branch of a multicast copy that has failed (R369). Not while a slate wave holds the job (R276, R387). -/
def execCopyFaultPost (id : Nat) (s : State) : Result :=
  .next (match s.copy? id with
    | none => s
    | some c =>
      if !s.engineRuns c.job then s else
      match c.fault with
      | some f =>
        if c.st = .running ∧ c.out = [] then
          let c1 := if c.counting then c else c.count
          let s1 := s.onCopy id fun _ => c1
          let (s2, there) := if c1.byMap && !c1.mapLost then s1.askWords c1 (s1.strandOf c1) ((c1.desc.chunks + 63) / 64) else (s1, true)
          if there then
            let s3 := ((c1.hold.map (·.chunk)).eraseDups.foldl (fun (a : State) j => a.dropHeld c1 j) s2).onCopy id fun c => { c with
              bits := [], counting := false, mapLost := false }
            { s3 with claims := s3.claims.filter fun x => decide (x.copy ≠ id) }.postCopyFault c1 f
          else s2
        else s
      | none => s.mcPostAll id)

/-- Whether the engine of a copy may take it up again. -/
def State.engineFree (s : State) (e : Engine) : Bool :=
  match e with
  | .port core p => (s.portOf core p).running.isNone && (s.portOf core p).bound.isNone
  | _ => true

/-- A copy taken up again after service: only the chunks whose bits are clear are performed; sources held for an overlapping or a multicast copy stay held, and what had been read before counts as read for the release token (R197, R201, R202, R369). -/
def Copy.again (c : Copy) : Copy :=
  let keep := c.overlaps || c.desc.multicast
  { c with
    st := .running, fault := none, replaying := true, out := [], lost := []
    done := if c.desc.multicast then c.done else []
    read := if keep then c.read else []
    buf := c.buf.filter fun x => decide (2 ^ 96 ≤ x.1)
    bad := if keep then c.bad else [] }

/-- COPY_REPLAY: a serviced copy re-runs on its port (R202). -/
def execCopyReplay (id : Nat) (s : State) : Result :=
  .next (match s.copy? id with
    | none => s
    | some c =>
      if c.st = .replayQueued ∧ s.engineRuns c.job = true ∧ s.engineFree c.eng = true then
        (match c.eng with
         | .port core p => s.onPort core p fun q => { q with running := some id }
         | _ => s).onCopy id Copy.again
      else s)

/-! Strips (R191, R193, R365). -/

/-- What fetching a strip gives: its bytes, bytes asked for, or the fault and address at which the port stops. -/
inductive StripRes
  | ok (bs : List Byte)
  | ask
  | bad (c : FaultCode) (va : Word)
deriving DecidableEq, Repr

/-- Needs of a stream's source: a vector port reaches no peer page (R365). -/
def stripNeed (port : Nat) : Need := { needOf .copySrc with noPeer := decide (port < 4) }

/-- Bytes of the elements of a strip, as the strand's own loads would find them: its pending stores are laid over them (R191). -/
def State.stripBytes (s : State) (core port : Nat) (t : Strand) (d : Desc) (since : Nat) : (elems : List Nat) → State × StripRes
  | [] => (s, .ok [])
  | e :: es =>
    let va := d.pat d.src e
    if d.len ≤ e * d.esize then (s, .ok (List.replicate ((es.length + 1) * d.esize) 0))
    else
      match s.engReach t va d.esize (stripNeed port) with
      | (s1, .error f) => (s1, .bad f.code va)
      | (s1, .ok h) =>
        let rest (s : State) (bs : List Byte) : State × StripRes :=
          match s.stripBytes core port t d since es with
          | (s2, .ok l) => (s2, .ok (bs ++ l))
          | r => r
        if isHere h.loc then
          if s1.poisoned h.loc d.esize then (s1, .bad .poisonConsumed va)
          else if h.sable then rest s1 (s1.decrypt h.key h.loc (s1.bytesAt h.loc d.esize))
          else
            let (bs, s2) := s1.engineLoad since t.hb h.key h.loc d.esize
            rest s2 (overlayPend h.loc bs t.pend)
        else
          match fetched (s1.portOf core port).buf h.loc d.esize with
          | some bs => rest s1 (overlayPend h.loc bs t.pend)
          | none =>
            let n := Nat.min 1024 (runBytes d.esize (((e :: es).filter fun x => decide (x * d.esize < d.len)).map fun x => d.pat d.src x))
            (s1.askFor (.port core port) t.job va h.loc n h.key, .ask)

/-- The elements of the next strip a port fetches. -/
def StreamBind.elems (b : StreamBind) (held : Nat) : List Nat :=
  (List.range (b.strip / b.desc.esize)).map ((b.next + held) * b.strip / b.desc.esize + ·)

/-- STREAM_STRIP_DELIVER: a bound port delivers the next strip, up to its depth ahead of the reads; at a fault it stops there (R191, R193). -/
def execStreamStripDeliver (core port : Nat) (s : State) : Result :=
  .next (let q := s.portOf core port
    match q.bound with
    | none => s
    | some (uid, vd) =>
      match s.byUid? uid with
      | none => s
      | some t =>
        match t.stream vd with
        | none => s
        | some b =>
          if !q.active || q.fault.isSome || decide (b.depth ≤ q.strips.length) || !s.engineRuns t.job then s
          else
            match s.stripBytes core port t b.desc b.since (b.elems q.strips.length) with
            | (s1, .ok bs) => s1.onPort core port fun q => { q with strips := q.strips ++ [natOfBytes bs], buf := [] }
            | (s1, .ask) => s1
            | (s1, .bad c va) => s1.onPort core port fun q => { q with fault := some (c, va), buf := [] })

end Sys2Proof.Machine
end

