-- ==== Sys2Proof/Machine/ChainInstr.lean ====
section
/-! DEFINITION. Engine chains and timelines (R204 to R206) with the engines' commands: copy ports (R204), Ochre (R305), Indigo (R382), the Ultra Ethernet endpoint (R378 to R383). -/

namespace Sys2Proof.Machine

/-! `capp` (R205). -/

/-- The engine classes of a chain (R204). -/
def engClass (field : Nat) : Nat := field % 256

/-- Whether an engine field names an engine of this package that the job may use (R204, R205): a core bound to it for the copy ports, a die's Ochre engine, the package's Indigo engine or Ultra Ethernet endpoint. -/
def State.engineOk (s : State) (job : BitVec 32) (field : BitVec 32) : Bool :=
  decide (sidPkg field = s.pkgNo) &&
  (match engClass field.toNat with
   | 0 => decide (sidCluster field < 5 ∧ sidCore field < 48) && s.coreHas (coreOf field) job
   | 1 | 2 | 3 => true
   | _ => false)

/-- Bytes of an object at a checked place as the current strand sees them; none while they have to be asked for. -/
def State.objView (s : State) (h : Hit) (n : Nat) : Option Nat :=
  let bs := if isHere h.loc then some (s.decrypt h.key h.loc (s.bytesAt h.loc n)) else fetched s.cur.buf h.loc n
  bs.map fun b => natOfBytes (overlayPend h.loc b s.cur.pend)

/-- Writes a field of an object of the current strand: at its home here, or on its way to a peer or the host; a peer acks it. -/
def State.putField (s : State) (loc key n v : Nat) : State :=
  if isHere loc then s.atomicPut key loc n v none
  else if isHostLoc loc then s.onPkg fun p => { p with hostOut := p.hostOut ++ [⟨loc - 2 ^ 64, bytesOfNat n v, false⟩] }
  else
    let (r, s1) := s.sendPacket (s.mkPacket 3 loc n key 0 .fab (bytesOfNat n v)) (some (.strand s.cur.uid)) 0
    s1.onCur fun t => { t with out := r :: t.out }

/-- The chain at a header's place, as its engine holds it: a new one where it has not been notified before. -/
def State.chainAt (s : State) (loc : Nat) : Chain :=
  (s.pkg.chains.find? fun c => decide (c.hdr = loc)).getD ⟨loc, s.cur.job, 0, 0, 0, [], none, false, none, 0, [], none, none⟩

/-- Notifies the engine of a command (R205). -/
def State.notifyEngine (s : State) (loc hdr : Nat) (cmd : ChainCmd) : State :=
  let c := s.chainAt loc
  let c1 := { c with
    job := s.cur.job, cls := engClass (recField hdr 24 4), field := BitVec.ofNat 32 (recField hdr 24 4)
    timeline := word (recField hdr 16 8), todo := c.todo ++ [cmd] }
  s.onPkg fun p => { p with chains := c1 :: p.chains.filter fun x => decide (x.hdr ≠ loc) }

/-- The step of `capp` at the header's home (R205): the number given, the record, the link of the last record, the header, the engine. -/
def State.append (s : State) (rec_ : Word) (h rh : Hit) (th : Option Hit) (hdr : Nat) (body : Option Nat) : State :=
  let n := recField hdr 8 8 + 1
  let s1 := s.putField (h.loc + 8) h.key 8 n
  let s2 := (s1.putField rh.loc rh.key 8 0).putField (rh.loc + 56) rh.key 8 n
  let s3 := match th with
    | some t => s2.putField t.loc t.key 8 rec_.toNat
    | none => s2
  (s3.putField h.loc h.key 8 rec_.toNat).notifyEngine h.loc hdr
    ⟨rec_, rh.loc, rh.key, body, n % 2 ^ 64, s.cur.uid, s.cur.sid, s.cur.pc, s.cur.past⟩

/-- The access checks of `capp` on header and record, as for `ld.d` and `st.d` (R205): the places, or the fault with its address and access kind. Log 44 (DEDUCED). -/
def State.chainPlaces (s : State) (hdr rec_ : Word) : State × Except (Fail × Word × Nat) (Hit × Hit) :=
  if hdr.toNat % 32 ≠ 0 then (s, .error (fail .misaligned, hdr, 2))
  else if rec_.toNat % 64 ≠ 0 then (s, .error (fail .misaligned, rec_, 3))
  else match s.check s.cur hdr 32 (needOf .load) with
    | (s1, .error f) => (s1, .error (f, hdr, 2))
    | (s1, .ok _) => match s1.check s1.cur hdr 32 (needOf .store) with
      | (s2, .error f) => (s2, .error (f, hdr, 3))
      | (s2, .ok h) => match s2.check s2.cur rec_ 64 (needOf .store) with
        | (s3, .error f) => (s3, .error (f, rec_, 3))
        | (s3, .ok rh) => (s3, .ok (h, rh))

/-- Where the link of a chain's last record is written, if there is one (R205). -/
def State.tailPlace (s : State) (hdr : Nat) : State × Except (Fail × Word) (Option Hit) :=
  let va := word (recField hdr 0 8)
  if va = 0 then (s, .ok none)
  else match s.check s.cur va 8 (needOf .store) with
    | (s1, .error f) => (s1, .error (f, va))
    | (s1, .ok h) => (s1, .ok (some h))

/-- Whether another strand is appending to the chain whose header lies at a place of a peer or the host (R205). -/
def State.appending (s : State) (loc : Nat) : Bool := s.strands.any fun t => decide (t.uid ≠ s.cur.uid) && t.resv.contains (.chain loc)

/-- The current strand appends to the chain at a place: no other strand of the package does so meanwhile where the header has to be read and written elsewhere, and every chain's engine is of the package of its `capp`s (R205). Log 44 (DEDUCED). -/
def State.oneAppend (s : State) (loc : Nat) (k : State → State) : State :=
  if isHere loc then k s
  else if s.appending loc then s.holdOn .fabricAck
  else k (s.onCur fun t => { t with resv := [.chain loc] })

/-- What a `capp` ends with: its number in sd, once the fields it wrote at a peer are there. -/
def State.appended (s : State) (d : BitVec 5) (n : Word) (resv : List Resv) : State :=
  if s.cur.out = [] then (s.onCur fun t => t.setS d n).retire
  else (s.onCur fun t => { t with replies := t.replies.set none 1 (some n), resv := resv }).holdOn .fabricAck

/-- `capp` with its places known. -/
def State.cappAt (s : State) (d : BitVec 5) (hdrVa recVa : Word) (h rh : Hit) : State :=
  match s.objView h 32, (if isHere rh.loc then some 0 else s.objView rh 64) with
  | none, _ => s.askRemote h.loc 32 h.key 0 (s.faultRec (fail .fabricUnreachable) hdrVa 2 0)
  | some _, none => s.askRemote rh.loc 64 rh.key 0 (s.faultRec (fail .fabricUnreachable) recVa 2 0)
  | some v, some body =>
    if !s.engineOk s.cur.job (BitVec.ofNat 32 (recField v 24 4)) then s.faultCode .copyDescriptor 0 0 0
    else match s.tailPlace v with
      | (s1, .error (f, va)) => s1.takeFault (s1.faultRec f va 3 0)
      | (s1, .ok th) =>
        let resv : List Resv := if isHere h.loc then [] else [.chain h.loc]
        s1.withRelease (scopeOfLoc s1.cur.sid h.loc) resv fun _ s =>
          let v := (s.objView h 32).getD v
          (s.append recVa h rh th v (if isHere rh.loc then none else some body)).appended d (word (recField v 8 8 + 1)) resv

/-- `capp`: a release at the header's scope that appends the record at sb to the chain at sa (R205). Log 44 (DEDUCED). -/
def execCapp (d a b : BitVec 5) (s : State) : Result :=
  .next (s.issue [a, b] [d] fun s =>
    match s.cur.replies.get none 1 with
    | some n => s.appended d n s.cur.resv
    | none =>
      let hdrVa := s.cur.getS a
      let recVa := s.cur.getS b
      match s.chainPlaces hdrVa recVa with
      | (s1, .error (f, va, kind)) => s1.takeFault (s1.faultRec f va kind 0)
      | (s1, .ok (h, rh)) => s1.oneAppend h.loc fun s => s.cappAt d hdrVa recVa h rh)

/-! The engine's side (R206). -/

def State.chain? (s : State) (hdr : Nat) : Option Chain := s.pkg.chains.find? fun c => decide (c.hdr = hdr)
def State.onChain (s : State) (hdr : Nat) (f : Chain → Chain) : State :=
  s.onPkg fun p => { p with chains := p.chains.map fun c => if c.hdr = hdr then f c else c }

/-- Where a command's record stands: by its address as it is translated now, or where it was appended (R304). -/
def State.recPlace (s : State) (job : BitVec 32) (c : ChainCmd) : Nat × Nat :=
  match (s.engReach (s.copyStrand c.uid c.sid job) c.va 64 { needOf .copyDst with w := false }).2 with
  | .ok h => (h.loc, h.key)
  | .error _ => (c.recLoc, c.key)

/-- The 64 bytes of a command's record, as its engine reads them. -/
def State.recOf (s : State) (job : BitVec 32) (c : ChainCmd) : Nat := c.rec_.getD (s.peekKey (s.recPlace job c).2 (s.recPlace job c).1 64)
def recOp (v : Nat) : Nat := recField v 8 2
def recArg (v i : Nat) : Word := word (recField v (16 + 8 * i) 8)

/-- Whether an engine class accepts an opcode (R204, R305, R382, R383). -/
def opAccepted (cls op : Nat) : Bool :=
  match cls with
  | 0 => decide (1 ≤ op ∧ op ≤ 3)
  | 1 => decide (1 ≤ op ∧ op ≤ 4)
  | 2 => decide (1 ≤ op ∧ op ≤ 6)
  | _ => decide (1 ≤ op ∧ op ≤ 4)

/-- The strand under whose identity a command accesses memory. -/
def State.cmdStrand (s : State) (c : Chain) (cmd : ChainCmd) : Strand := s.copyStrand cmd.uid cmd.sid c.job

/-- The record of a failed command (R202, R206). -/
def ChainCmd.fault (cmd : ChainCmd) (f : Fail) (va : Word) (kind : Nat) (tag : Word) : FaultRec :=
  ⟨f.code, false, false, f.malformed, cmd.sid, cmd.pc, va, kind, 0, tag, 0, 0, f.big, none, none⟩

/-- The next command of a chain is the one running. -/
def State.takeCmd (s : State) (c : Chain) (cmd : ChainCmd) : State :=
  s.onChain c.hdr fun c => { c with todo := c.todo.tail, cur := some cmd, done := false, fault := none, waiting := none, status := none, buf := [] }

/-- The running command of a chain has all its effects. -/
def State.cmdDone (s : State) (hdr : Nat) (f : Option FaultRec) : State := s.onChain hdr fun c => { c with done := true, fault := f }

/-- The running command of a chain ends in final failure: its record is posted (R206), and during a freeze it joins the local list (R389). -/
def State.cmdFail (s : State) (c : Chain) (r : FaultRec) : State :=
  ((s.noteLocal c.job { r with at_ := some s.gtime }.cause).postFor c.job r).2.cmdDone c.hdr (some r)

/-- Runs the next command of a chain whose engine is of a class, where it carries an opcode and the job's engines run. -/
def State.onNext (s : State) (hdr cls op : Nat) (k : Chain → ChainCmd → Nat → State → State) : State :=
  match s.chain? hdr with
  | none => s
  | some c =>
    match c.cur, c.todo with
    | none, cmd :: _ =>
      let v := s.recOf c.job cmd
      if c.cls = cls ∧ recOp v = op ∧ s.engineRuns c.job = true then k c cmd v s else s
    | _, _ => s

/-- Runs a move of the running command of a chain of a class with an opcode. -/
def State.onRunning (s : State) (hdr cls op : Nat) (k : Chain → ChainCmd → Nat → State → State) : State :=
  match s.chain? hdr with
  | none => s
  | some c =>
    match c.cur with
    | some cmd =>
      let v := s.recOf c.job cmd
      if c.cls = cls ∧ recOp v = op ∧ c.done = false ∧ s.engineRuns c.job = true then k c cmd v s else s
    | none => s

/-- Reads n bytes for a command from one place, n a power of two or 64: there, asked for, or failed. -/
def State.cmdRead (s : State) (c : Chain) (cmd : ChainCmd) (va : Word) (n : Nat) : State × Except Fail (Option Nat) :=
  if va.toNat % n ≠ 0 then (s, .error (fail .misaligned))
  else match s.engReach (s.cmdStrand c cmd) va n (needOf .copySrc) with
    | (s1, .error f) => (s1, .error f)
    | (s1, .ok h) =>
      if isHere h.loc then
        if s1.poisoned h.loc n then (s1, .error (h.fail .poisonConsumed))
        else
          let (bs, s2) := s1.engineLoad (s1.jobStart c.job) (cmd.hb ||| c.writes) h.key h.loc n
          (s2, .ok (some (natOfBytes bs)))
      else match fetched c.buf h.loc n with
        | some bs => (s1, .ok (some (natOfBytes bs)))
        | none => (s1.askFor (.chain c.hdr) c.job va h.loc n h.key, .ok none)

/-- The descriptor a command names, and for a multicast copy its package set: the command goes on with them, fails, or waits for them (R204, R367). -/
def State.withDesc (s : State) (c : Chain) (cmd : ChainCmd) (va : Word) (mcast : Bool) (k : Desc → List Nat → State → State) : State :=
  match s.cmdRead c cmd va 64 with
  | (s1, .error f) => (s1.takeCmd c cmd).cmdFail c (cmd.fault f va 8 0)
  | (s1, .ok none) => s1
  | (s1, .ok (some v)) =>
    let d := descOf v
    if d.bad mcast then (s1.takeCmd c cmd).cmdFail c { cmd.fault (fail .copyDescriptor) 0 0 d.tag with scope := d.scope.code }
    else if d.multicast then
      match s1.cmdRead c cmd (va + 64) 64 with
      | (s2, .error f) => (s2.takeCmd c cmd).cmdFail c { cmd.fault f (va + 64) 8 d.tag with scope := d.scope.code }
      | (s2, .ok none) => s2
      | (s2, .ok (some lo)) =>
        match s2.cmdRead c cmd (va + 128) 64 with
        | (s3, .error f) => (s3.takeCmd c cmd).cmdFail c { cmd.fault f (va + 128) 8 d.tag with scope := d.scope.code }
        | (s3, .ok none) => s3
        | (s3, .ok (some hi)) =>
          let dests := setBits (lo + hi * 2 ^ 512)
          if s3.mcastBad c.job d dests then (s3.takeCmd c cmd).cmdFail c { cmd.fault (fail .copyDescriptor) 0 0 d.tag with scope := d.scope.code }
          else k d dests s3
    else k d [] s1

/-- The copy of a chain command: it has no tokens and reads after the stores before its `capp` and the commands before it (R205, R206). -/
def State.cmdCopy (s : State) (c : Chain) (cmd : ChainCmd) (eng : Engine) (d : Desc) (rev : Bool) (dests : List Nat) : Copy :=
  { Copy.fresh s.pkg.nextCopy eng cmd.uid cmd.sid c.job cmd.pc (cmd.hb ||| c.writes) d rev dests 0 0 with chain := some c.hdr }

/-- Queues the copy of a command on a port of a core, where its queue has room (R190). -/
def State.portCmd (s : State) (c : Chain) (cmd : ChainCmd) (core p : Nat) (q : Copy) : State :=
  if portQueueCap ≤ (s.portOf core p).queue.length then s
  else ((s.takeCmd c cmd).addCopy q).onPort core p fun r => { r with queue := r.queue ++ [.copy q.id] }

/-- Starts the copy of a command on an engine that is no port. -/
def State.engineCmd (s : State) (c : Chain) (cmd : ChainCmd) (q : Copy) : State := (s.takeCmd c cmd).addCopy { q with st := .running }

/-- A copy command of a copy-port or Indigo chain: on the port of the engine's core that `arg1` names (R204, R382). -/
def State.portCopy (s : State) (hdr cls op low : Nat) (rev : Bool) (policy : Nat → Word) : State :=
  s.onNext hdr cls op fun c cmd v s =>
    let p := (recArg v 1).toNat % 16
    let core := coreOf c.field
    let bad (s : State) : State := (s.takeCmd c cmd).cmdFail c (cmd.fault (fail .copyDescriptor) 0 0 0)
    if p < low || !s.coreHas core c.job then bad s
    else s.withDesc c cmd (recArg v 0) (decide (12 ≤ p)) fun d dests s =>
      s.portCmd c cmd core p { s.cmdCopy c cmd (.port core p) d rev dests with policy := policy v }

/-- A mark: no effect (R204). -/
def State.markCmd (s : State) (hdr cls op : Nat) : State := s.onNext hdr cls op fun c cmd _ s => (s.takeCmd c cmd).cmdDone c.hdr none

/-! Copy-port commands (R204). -/

/-- The path policy of copies that carry none (R377). -/
def freePolicy (_ : Nat) : Word := 0x100000000

/-- CHAIN_COPY: op 1 of a copy-port chain, as `cpy` (R204). -/
def execChainCopy (hdr : Nat) (s : State) : Result := .next (s.portCopy hdr 0 1 4 false freePolicy)

/-- CHAIN_COPYR: op 2, as `cpyr` (R204). -/
def execChainCopyr (hdr : Nat) (s : State) : Result := .next (s.portCopy hdr 0 2 4 true freePolicy)

/-- CHAIN_MARK: op 3, no effect (R204). -/
def execChainMark (hdr : Nat) (s : State) : Result := .next (s.markCmd hdr 0 3)

/-! Completion (R206). -/

/-- An engine write of n bytes; the writes it made (R271). -/
def State.enginePut (s : State) (job : BitVec 32) (loc key n v : Nat) : Nat × State :=
  if isHere loc then s.engineWrite key loc n false (bytesOfNat n v) []
  else if isHostLoc loc then (0, s.onPkg fun p => { p with hostOut := p.hostOut ++ [⟨loc - 2 ^ 64, bytesOfNat n v, false⟩] })
  else (0, (s.sendPacket { s.mkPacket 3 loc n key 0 .fab (bytesOfNat n v) with job := job } none 0).2)

/-- Adds writes to those of a chain's commands so far. -/
def State.chainWrote (s : State) (hdr w : Nat) : State := s.onChain hdr fun c => { c with writes := c.writes ||| w }

/-- The status of a command is written in its record, or sent to the peer of it, which acks it (R206): the writes made, once it is there. -/
def State.putStatus (s : State) (c : Chain) (cmd : ChainCmd) : Option Nat × State :=
  let (loc, key) := s.recPlace c.job cmd
  let v := (c.fault.map fun f => f.code.num).getD 0
  if !isPeerLoc loc then
    let (w, s1) := s.enginePut c.job (loc + 10) key 2 v
    (some w, s1)
  else match c.status with
    | some true => (some 0, s)
    | some false => (none, s)
    | none =>
      let (_, s1) := s.sendPacket { s.mkPacket 3 (loc + 10) 2 key 0 .fab (bytesOfNat 2 v) with job := c.job, unit := 2 } (some (.chain c.hdr)) 0
      (none, s1.onChain c.hdr fun c => { c with status := some false })

/-- The running command of a chain is over: its status, then, once that is in place, its number in the timeline counter, whose acquirers learn every effect of the commands so far, the status among them (R22, R206). A timeline that cannot be reached holds the chain. -/
def State.finishCmd (s : State) (c : Chain) (cmd : ChainCmd) : State :=
  match s.engReach (s.cmdStrand c cmd) c.timeline 8 (needOf .copyDst) with
  | (_, .error _) => s
  | (s1, .ok h) =>
    match s1.putStatus c cmd with
    | (none, s2) => s2
    | (some w, s2) =>
      let (_, s3) := s2.enginePut c.job h.loc h.key 8 cmd.seq
      { s3 with tlRels := s3.tlRels.set [] h.loc ((cmd.seq, c.writes ||| w) :: s3.tlRels.get [] h.loc) }.onChain c.hdr fun c =>
        { c with cur := none, done := false, fault := none, waiting := none, status := none, buf := [], writes := c.writes ||| w }

/-- CHAIN_COMMAND_COMPLETE: the running command has its effects, or the next one carries an opcode its engine does not accept (R206); which code a copy-port chain ends with there no rule says, and it is `COPY_DESCRIPTOR` as for the other engines. Log 63 (DESIGN CHOICE). -/
def execChainCommandComplete (hdr : Nat) (s : State) : Result :=
  .next (match s.chain? hdr with
    | none => s
    | some c =>
      if !s.engineRuns c.job then s
      else match c.cur, c.todo with
        | some cmd, _ => if c.done then s.finishCmd c cmd else s
        | none, cmd :: _ =>
          if opAccepted c.cls (recOp (s.recOf c.job cmd)) then s
          else
            let s1 := (s.takeCmd c cmd).cmdFail c (cmd.fault (fail .copyDescriptor) 0 0 0)
            (match s1.chain? hdr with
             | some c1 => s1.finishCmd c1 cmd
             | none => s1)
        | none, [] => s)

/-! Ochre (R305). -/

/-- The Ochre engine a chain's field names. -/
def ochreOf (field : BitVec 32) : Engine := .ochre (sidDie field) (field.toNat / 256 % 2)

/-- A copy command of an Ochre chain (R305). -/
def State.ochreCmd (s : State) (hdr op : Nat) (rev : Bool) : State :=
  s.onNext hdr 1 op fun c cmd v s =>
    if recArg v 1 ≠ 0 then (s.takeCmd c cmd).cmdFail c (cmd.fault (fail .copyDescriptor) 0 0 0)
    else s.withDesc c cmd (recArg v 0) false fun d dests s => s.engineCmd c cmd (s.cmdCopy c cmd (ochreOf c.field) d rev dests)

/-- OCHRE_COPY: op 1, as `cpy` (R305). -/
def execOchreCopy (hdr : Nat) (s : State) : Result := .next (s.ochreCmd hdr 1 false)

/-- OCHRE_COPYR: op 2, as `cpyr` (R305). -/
def execOchreCopyr (hdr : Nat) (s : State) : Result := .next (s.ochreCmd hdr 2 true)

/-- OCHRE_MARK: op 3, no effect (R305). -/
def execOchreMark (hdr : Nat) (s : State) : Result := .next (s.markCmd hdr 1 3)

/-- The descriptor of a fill: dwords from a destination (R305). -/
def fillDesc (dst len : Word) : Desc := ⟨0, dst, [len.toNat / 8, 1, 1, 1], [0, 0, 0], 8, 0, 0, 0, 0⟩

/-- OCHRE_FILL: op 4 fills memory with an 8-byte pattern, with no chunk map (R305). -/
def execOchreFill (hdr : Nat) (s : State) : Result :=
  .next (s.onNext hdr 1 4 fun c cmd v s =>
    let dst := recArg v 0
    let len := recArg v 1
    if dst.toNat % 8 ≠ 0 ∨ len.toNat % 8 ≠ 0 then (s.takeCmd c cmd).cmdFail c (cmd.fault (fail .copyDescriptor) 0 0 0)
    else s.engineCmd c cmd { s.cmdCopy c cmd (ochreOf c.field) (fillDesc dst len) false [] with fill := some (recArg v 2) })

/-! Indigo (R382). -/

/-- INDIGO_COPY: op 1, a copy on a fabric port under a path policy (R377, R382). -/
def execIndigoCopy (hdr : Nat) (s : State) : Result := .next (s.portCopy hdr 2 1 12 false fun v => recArg v 2)

/-- INDIGO_COPYR: op 2, as `cpyr` (R382). -/
def execIndigoCopyr (hdr : Nat) (s : State) : Result := .next (s.portCopy hdr 2 2 12 true fun v => recArg v 2)

/-- INDIGO_MARK: op 3, no effect (R382). -/
def execIndigoMark (hdr : Nat) (s : State) : Result := .next (s.markCmd hdr 2 3)

/-- The place of a counter or word an Indigo command names, on a local or peer page (R382). -/
def State.indigoPlace (s : State) (c : Chain) (cmd : ChainCmd) (va : Word) (k : AccKind) : State × Except Fail Hit :=
  if va.toNat % 8 ≠ 0 then (s, .error (fail .misaligned))
  else match s.engReach (s.cmdStrand c cmd) va 8 { needOf k with noHost := true } with
    | (s1, .error f) => (s1, .error f)
    | (s1, .ok h) => if isHere h.loc && s1.poisoned h.loc 8 then (s1, .error (h.fail .poisonConsumed)) else (s1, .ok h)

/-- INDIGO_WAIT: op 4 holds the chain until a counter has reached n (R382). -/
def execIndigoWait (hdr : Nat) (s : State) : Result := .next (s.onNext hdr 2 4 fun c cmd _ s => s.takeCmd c cmd)

/-- Whether the deadline of an Indigo wait has passed (R382). -/
def State.indigoLate (s : State) (job : BitVec 32) (v : Nat) : Bool := decide ((recArg v 2).toNat < (s.jtimeOf job).toNat)

/-- INDIGO_WAIT_MET: the counter has reached n by the deadline and the chain goes on; a peer's counter is asked for, again and again (R382). -/
def execIndigoWaitMet (hdr : Nat) (s : State) : Result :=
  .next (s.onRunning hdr 2 4 fun c cmd v s =>
    let va := recArg v 0
    let n := recArg v 1
    if s.indigoLate c.job v then s else match s.indigoPlace c cmd va .load with
    | (s1, .error f) => s1.cmdFail c (cmd.fault f va 8 0)
    | (s1, .ok h) =>
      if isHere h.loc then (if n.toNat ≤ s1.peekKey h.key h.loc 8 then s1.cmdDone hdr none else s1)
      else match fetched c.buf h.loc 8 with
        | none => s1.askFor (.chain hdr) c.job va h.loc 8 h.key
        | some bs =>
          let s2 := s1.onChain hdr fun c => { c with buf := [] }
          if n.toNat ≤ natOfBytes bs then s2.cmdDone hdr none else s2)

/-- An Indigo wait whose deadline has passed ends in final failure with `COPY_FAULT` (R382). -/
def State.indigoEnd (s : State) (hdr : Nat) : State :=
  s.onRunning hdr 2 4 fun c cmd v s => if s.indigoLate c.job v then s.cmdFail c (cmd.fault (fail .copyFault) (recArg v 0) 8 0) else s

/-- The Indigo waits that have come to their deadlines. -/
def State.indigoDue (s : State) : State := s.pkg.chains.foldl (fun (a : State) c => a.indigoEnd c.hdr) s

/-- INDIGO_WAIT_EXPIRED: the deadline has passed (R382). -/
def execIndigoWaitExpired (hdr : Nat) (s : State) : Result := .next (s.indigoEnd hdr)

/-- INDIGO_SIGNAL: op 5 adds a value to an 8-byte word at scope fab after every effect of earlier commands, as an atomic carrying `rl` does (R382). -/
def execIndigoSignal (hdr : Nat) (s : State) : Result :=
  .next (s.onNext hdr 2 5 fun c cmd v s =>
    let va := recArg v 0
    match s.indigoPlace c cmd va .atomic with
    | (s1, .error f) => (s1.takeCmd c cmd).cmdFail c (cmd.fault f va 4 0)
    | (s1, .ok h) =>
      let s2 := s1.takeCmd c cmd
      if isHere h.loc then
        let (id, s3) := s2.recordRelease cmd.sid .fab (cmd.hb ||| c.writes)
        ((s3.homeWrite h.key h.loc 8 ((s3.peekKey h.key h.loc 8 + (recArg v 1).toNat) % 2 ^ 64) (some id)).chainWrote hdr (2 ^ s3.nextW)).cmdDone hdr none
      else
        let (r, s3) := s2.sendPacket { s2.mkPacket 4 h.loc 8 h.key 1 .fab (bytesOfNat 8 (recArg v 1).toNat) with job := c.job, rl := true } (some (.chain hdr)) 0
        s3.onChain hdr fun c => { c with waiting := some r })

/-- A peer ID with no reserved bit set: the key of its table (R373). -/
def peerKey (id : Word) : Option Nat :=
  if 2 ^ 32 ≤ id.toNat ∨ id.toNat / 2 ^ 12 % 2 ^ 19 ≠ 0 then none
  else if id.getLsbD 31 then some (2 ^ 20 + id.toNat % 2 ^ 12)
  else some (id.toNat % 2 ^ 12)

/-- INDIGO_PATH_SET: op 6 replaces the PIN and AVOID bits of a peer's table (R382). -/
def execIndigoPathSet (hdr : Nat) (s : State) : Result :=
  .next (s.onNext hdr 2 6 fun c cmd v s =>
    match peerKey (recArg v 0) with
    | none => (s.takeCmd c cmd).cmdFail c (cmd.fault (fail .copyDescriptor) 0 0 0)
    | some k =>
      let p := s.peer k
      let set (x : PathEntry × Nat) : PathEntry := { x.1 with pin := (recArg v 1).getLsbD x.2, avoid := (recArg v 2).getLsbD x.2 }
      ((s.takeCmd c cmd).setPeer k { p with paths := p.paths.zipIdx.map set }).cmdDone hdr none)

/-! The Ultra Ethernet endpoint (R378 to R383). -/

/-- The delivery mode of a write command; UUD is not supported (R378, R383). -/
def ueModeOf (n : Nat) : Option UeMode :=
  match n with
  | 0 => some .rud
  | 1 => some .rod
  | 2 => some .rudi
  | _ => none

/-- Peer index and region ID of `arg1`, its other bits zero (R383). -/
def ueFar (a : Word) : Option (Nat × Nat) :=
  if a.toNat / 2 ^ 32 = 0 ∧ a.toNat / 2 ^ 12 % 16 = 0 then some (a.toNat % 2 ^ 12, a.toNat / 2 ^ 16) else none

/-- The defects of the descriptor of a write: a map of its own, a reduction under RUDI, a mapped offset that is no multiple of 512 (R380, R383). -/
def ueWriteBad (d : Desc) (m : UeMode) : Bool :=
  decide (d.map ≠ 0) || (decide (d.reduce ≠ 0) && decide (m = .rudi)) || (d.mapped && decide (d.dst.toNat % 512 ≠ 0))

/-- UE_WRITE: op 1 writes into a peer's registered region (R383). -/
def execUeWrite (hdr : Nat) (s : State) : Result :=
  .next (s.onNext hdr 3 1 fun c cmd v s =>
    let bad (s : State) : State := (s.takeCmd c cmd).cmdFail c (cmd.fault (fail .copyDescriptor) 0 0 0)
    match ueFar (recArg v 1), ueModeOf ((recArg v 3).toNat % 4) with
    | some (peer, region), some m =>
      s.withDesc c cmd (recArg v 0) false fun d _ s =>
        if ueWriteBad d m then bad s
        else s.engineCmd c cmd { s.cmdCopy c cmd .ue d false [] with policy := recArg v 2, ue := some ⟨peer, region, m, false, d.mapped⟩ }
    | _, _ => bad s)

/-- UE_READ: op 2 reads from a peer's region (R383). -/
def execUeRead (hdr : Nat) (s : State) : Result :=
  .next (s.onNext hdr 3 2 fun c cmd v s =>
    match ueFar (recArg v 1) with
    | some (peer, region) =>
      s.withDesc c cmd (recArg v 0) false fun d _ s =>
        s.engineCmd c cmd { s.cmdCopy c cmd .ue d true [] with policy := recArg v 2, ue := some ⟨peer, region, .rud, true, d.mapped⟩ }
    | none => (s.takeCmd c cmd).cmdFail c (cmd.fault (fail .copyDescriptor) 0 0 0))

/-- UE_REGISTER_REGION: op 3 registers a region of the job (R379, R383). -/
def execUeRegisterRegion (hdr : Nat) (s : State) : Result :=
  .next (s.onNext hdr 3 3 fun c cmd v s =>
    let id := (recArg v 0).toNat
    if 1024 ≤ id ∨ (recArg v 1).toNat % 512 ≠ 0 ∨ (recArg v 2).toNat % 512 ≠ 0 ∨ (recArg v 3).toNat % 8 ≠ 0 then
      (s.takeCmd c cmd).cmdFail c (cmd.fault (fail .copyDescriptor) 0 0 0)
    else
      let r : Region := ⟨id, recArg v 1, (recArg v 2).toNat, recArg v 3, (recArg v 4).getLsbD 0, (recArg v 4).getLsbD 1⟩
      ((s.takeCmd c cmd).onJob c.job fun j => { j with regions := r :: j.regions.filter fun x => decide (x.id ≠ id) }).cmdDone hdr none)

/-- UE_MARK: op 4, no effect (R383). -/
def execUeMark (hdr : Nat) (s : State) : Result := .next (s.markCmd hdr 3 4)

/-! Packets of the endpoint (R380, R383). -/

/-- The identity under which the endpoint reaches a job's memory. -/
def State.jobStrand (s : State) (job : BitVec 32) : Strand :=
  { Strand.idle with sid := mkSid s.pkgNo (((s.job? job).bind fun j => j.cores.head?).getD 0) 0, job := job }

/-- Answers with a packet of the endpoint. -/
def State.ueReply (s : State) (p : UePacket) : State := s.uePut p none

/-- A region of a job that allows an access of n bytes at an offset (R379, R383). -/
def State.regionFor (s : State) (job : BitVec 32) (id off n : Nat) (write : Bool) : Option Region :=
  (s.job? job).bind fun j => j.regions.find? fun r =>
    decide (r.id = id ∧ off + n ≤ r.len) && (if write then r.canWrite else r.canRead)

/-- Where bytes of a region lie, a page at a time where they cross one: place, first byte and count. Nothing is written before all are found (R284). -/
def State.uePlaces (s : State) (t : Strand) (va : Word) (len : Nat) (k : AccKind) : State × Except Fail (List (Hit × Nat × Nat)) :=
  let nd : Need := { needOf k with localOnly := true }
  let n := Nat.min len (2 ^ 18 - va.toNat % 2 ^ 18)
  match s.engReach t va n nd with
  | (s1, .error f) => (s1, .error f)
  | (s1, .ok h) =>
    if n < len then
      match s1.engReach t (va + word n) (len - n) nd with
      | (s2, .error f) => (s2, .error f)
      | (s2, .ok h2) => (s2, .ok [(h, 0, n), (h2, n, len - n)])
    else (s1, .ok [(h, 0, n)])

/-- Writes bytes of a packet into a region, or reduces them element by element; poison goes with them (R175). -/
def State.uePlace (s : State) (t : Strand) (va : Word) (op unit : Nat) (bad : Bool) (bs : List Byte) : State × Except Fail Nat :=
  match s.uePlaces t va bs.length .copyDst with
  | (s1, .error f) => (s1, .error f)
  | (s1, .ok ps) =>
    let (w, s2) := ps.foldl (fun (a : Nat × State) (h, i, n) =>
      let part := (bs.drop i).take n
      if op = 0 then
        let (w, b) := a.2.engineWrite h.key h.loc unit h.sable part (List.replicate n bad)
        (a.1 ||| w, b)
      else
        let es := redSize op
        (List.range (n / es)).foldl (fun (a : Nat × State) i =>
          let (w, b) := a.2.engineReduce op h.key (h.loc + i * es) es h.sable (natOfBytes ((part.drop (i * es)).take es)) bad
          (a.1 ||| w, b)) a) (0, s1)
    (s2, .ok w)

/-- The map word of a chunk of a region; a broken one stops the write (R307). -/
def State.ueMap (s : State) (t : Strand) (r : Region) (j : Nat) : State × Except Fail Hit :=
  match s.engReach t (r.map + word (8 * (j / 64))) 8 { needOf .copyDst with localOnly := true } with
  | (s1, .error f) => (s1, .error f)
  | (s1, .ok m) => if s1.poisoned m.loc 8 then (s1, .error (m.fail .uncorrectableEcc)) else (s1, .ok m)

/-- A chunk of a packet that goes into a region's map: committed once, a second arrival is discarded (R284, R380). -/
def State.ueChunk (s : State) (t : Strand) (r : Region) (off op unit : Nat) (bad : Bool) (bs : List Byte) : State × Option Fail :=
  let j := off / 512
  match s.ueMap t r j with
  | (s1, .error f) => (s1, some f)
  | (s1, .ok m) =>
    if s1.bitSet m.key m.loc j then (s1, none)
    else match s1.uePlace t (r.base + word off) op unit bad bs with
      | (s2, .error f) => (s2, some f)
      | (s2, .ok w) => ((s2.setBit m.key m.loc j w .fab t.sid).2, none)

/-- Whether a chunk of n bytes at an offset of a region is claimed by another application: the packet waits (R284). -/
def State.ueClaimed (s : State) (t : Strand) (r : Region) (off n : Nat) : Bool :=
  (List.range ((n + 511) / 512)).any fun i =>
    let j := off / 512 + i
    match (s.ueMap t r j).2 with
    | .ok m => s.claimed (m.loc - 8 * (j / 64)) j none
    | .error _ => false

/-- The chunks of a packet, one after another, up to the first that fails. -/
def State.ueChunks (s : State) (t : Strand) (r : Region) (op unit : Nat) (bad : Bool) : (fuel off : Nat) → List Byte → State × Option Fail
  | 0, _, _ => (s, none)
  | fuel + 1, off, bs =>
    if bs = [] then (s, none)
    else match s.ueChunk t r off op unit bad (bs.take 512) with
      | (s1, none) => s1.ueChunks t r op unit bad fuel (off + 512) (bs.drop 512)
      | x => x

/-- The copy of an Ultra Ethernet command that a packet's tag belongs to, and the chunk. -/
def State.ueOwner (s : State) (tag : Nat) : Option (Copy × Nat) :=
  s.pkg.copies.findSome? fun c =>
    if c.eng = .ue then (c.out.find? fun o => decide (o.2 = tag)).map fun o => (c, o.1) else none

/-- The packet with a tag is no longer under way. -/
def Copy.settleReq (c : Copy) (tag : Nat) : Copy := { c with out := c.out.filter fun o => decide (o.2 ≠ tag) }

/-- Bytes of a region, and whether any of them carries poison (R175). -/
def State.ueFetch (s : State) (t : Strand) (va : Word) (len : Nat) : State × Except Fail (List Byte × Bool) :=
  match s.uePlaces t va len .copySrc with
  | (s1, .error f) => (s1, .error f)
  | (s1, .ok ps) => (s1, .ok (ps.flatMap fun (h, _, n) => s1.decrypt h.key h.loc (s1.bytesAt h.loc n), ps.any fun (h, _, n) => s1.poisoned h.loc n))

/-- Whether a request of a peer passes the security of the endpoint: each tenant key is a domain of its own, and that of the job's key must stand (R347, R378). -/
def State.ueSecure (s : State) (job : BitVec 32) : Bool :=
  match s.job? job with
  | some j => s.keyLive j.rec_.key
  | none => true

/-- What the endpoint discards: UUD packets, those past its limits, those longer than 4,096 bytes of payload, and those of a domain whose key has gone (R378, R379). -/
def State.ueDrops (s : State) (pkt : UePacket) : Bool :=
  s.uePort.isNone || !s.ueRoom pkt || (match pkt with
    | .write _ job _ _ mode _ _ _ _ _ _ data => decide (mode = .uud) || decide (4096 < data.length) || !s.ueSecure job
    | .read _ job _ _ len _ => decide (4096 < len) || !s.ueSecure job
    | _ => false)

/-- A packet of a peer reaches the endpoint: a request opens its context and the peer's table; an answer is an ack of the path its packet took (R373, R379). -/
def State.ueHeard (s : State) (pkt : UePacket) : State :=
  let key := 2 ^ 20 + uePeer pkt
  let s1 := (s.ueOpen pkt).setPeer key ((s.peer key).begin key s.gtime)
  let heard (tag : Nat) : State :=
    match s1.pkg.ueOut.find? fun x => decide (uePeer x.pkt = uePeer pkt) && (match x.pkt with
        | .write _ _ _ _ _ _ _ t _ _ _ _ => decide (t = tag)
        | .read _ _ _ _ _ t => decide (t = tag)
        | _ => false) with
    | some x => s1.setPeer key ((s1.peer key).onPath x.path fun e => e.heard s.gtime x.at_)
    | none => s1
  match pkt with
  | .readReply _ tag _ _ | .ack _ tag | .failed _ tag _ => heard tag
  | _ => s1

/-- What a packet that the endpoint takes does (R378 to R383). -/
def State.ueTake (s : State) (pkt : UePacket) : State :=
  match pkt with
    | .write peer job region off mode op mapped tag _ unit bad data =>
      let t := s.jobStrand job
      match s.regionFor job region off data.length true with
      | none => s.ueReply (.failed peer tag .pageProtection)
      | some r =>
        if (op ≠ 0 ∧ mode = .rudi) ∨ (op ≠ 0 ∧ mapped = false) then s.ueReply (.failed peer tag .copyDescriptor)
        else if mapped then
          (if r.map = 0 ∨ off % 512 ≠ 0 then s.ueReply (.failed peer tag .pageProtection)
           else match s.ueChunks t r op unit bad 8 off data with
             | (s1, none) => s1.ueReply (.ack peer tag)
             | (s1, some f) => s1.ueReply (.failed peer tag f.code))
        else match s.uePlace t (r.base + word off) 0 unit bad data with
          | (s1, .ok _) => s1.ueReply (.ack peer tag)
          | (s1, .error f) => s1.ueReply (.failed peer tag f.code)
    | .read peer job region off len tag =>
      (match s.regionFor job region off len false with
       | none => s.ueReply (.failed peer tag .pageProtection)
       | some r =>
         match s.ueFetch (s.jobStrand job) (r.base + word off) len with
         | (s1, .error f) => s1.ueReply (.failed peer tag f.code)
         | (s1, .ok (bs, bad)) => s1.ueReply (.readReply peer tag bad bs))
    | .readReply _ tag bad data =>
      (match s.ueOwner tag with
       | none => s
       | some (c, j) =>
         s.onCopy c.id fun c => { c.settleReq tag with
           buf := data.zipIdx.foldl (fun m x => m.set none (streamKey (512 * j + x.2)) (some x.1)) c.buf
           bad := data.zipIdx.foldl (fun m x => m.set false (streamKey (512 * j + x.2)) bad) c.bad
           read := if c.read.contains j then c.read else j :: c.read })
    | .ack _ tag =>
      (match s.ueOwner tag with
       | none => s
       | some (c, j) => (s.onCopy c.id fun c => c.settleReq tag).commitChunk c.id j)
    | .failed _ tag code =>
      (match s.ueOwner tag with
       | none => s
       | some (c, j) =>
         let reads := match c.ue with
           | some u => u.reads
           | none => false
         let va := (if reads then c.desc.src else c.desc.dst) + word (512 * j)
         ((s.onCopy c.id fun c => c.settleReq tag).copyFault c.id (fail code) va (if reads then 8 else 9)).onCopy c.id fun x =>
           { x with final := x.final || (c.fault.isNone && decide (code = .uncorrectableEcc)) })

/-- Whether a packet must wait: a chunk of it is claimed (R284), or ROD has not had the packets before it (R378, R380). -/
def State.ueHolds (s : State) (pkt : UePacket) : Bool :=
  match pkt with
  | .write _ job region off mode _ mapped _ psn _ _ data =>
    (decide (mode = .rod) && decide (psn ≠ ((s.ueCtx pkt).map (·.next)).getD 0)) ||
    (mapped && (match s.regionFor job region off data.length true with
      | some r => decide (r.map ≠ 0 ∧ off % 512 = 0) && s.ueClaimed (s.jobStrand job) r off data.length
      | none => false))
  | _ => false

/-- UE_PACKET: a packet arrives at the endpoint: a write or a read of a region here, or what a peer answers to a command's packet (R378 to R383). -/
def execUePacket (pkt : UePacket) (s : State) : Result :=
  .next (if s.ueDrops pkt then
      (match pkt with
       | .write _ _ _ _ .uud _ _ _ _ _ _ _ => s.onPkg fun g => { g with uudCount := g.uudCount + 1 }
       | _ => s)
    else if s.ueHolds pkt then s
    else ((s.ueHeard pkt).onCtx pkt fun c => { c with next := c.next + 1 }).ueTake pkt)

end Sys2Proof.Machine
end

