-- ==== Sys2Proof/Machine/FabricInstr.lean ====
section
/-! DEFINITION. The FAB instructions (14_fabric.md R370 to R375): fabric mailboxes and path tables. -/

namespace Sys2Proof.Machine

/-- The checks of a mailbox at a 64-byte address, in the order of R371. -/
def State.boxCheck (s : State) (va : Word) (nd : Need) : State × Except Fail Hit :=
  if va.toNat % 64 ≠ 0 then (s, .error (fail .misaligned))
  else match s.place s.cur va 64 nd false with
    | (s1, .error f) => (s1, .error f)
    | (s1, .ok h) =>
      if s1.sableAny h.loc 64 then (s1, .error (h.fail .handleRegion))
      else if isHere h.loc && s1.poisoned h.loc 64 then (s1, .error (h.fail .poisonConsumed))
      else (s1, .ok h)

/-- Whether a slot takes a message of a package (R371). -/
def slotTakes (ctl : Word) (pkg : Nat) : Bool := !slotFull ctl && (!slotExpect ctl || decide (ctl.toNat % 2 ^ 32 / 2 ^ 22 = pkg))

/-- A message written at its mailbox's home in one step: the slot, or all ones where none takes it (R371). -/
def State.boxPut (s : State) (key loc : Nat) (v : Word) (sid : BitVec 32) (rel : Option Nat) : Word × State :=
  let ctl (k : Nat) : Word := word (s.peekKey key (loc + 16 * k + 8) 8)
  match lowest 4 (fun k => slotTakes (ctl k) (sidPkg sid)) with
  | some k => (word k, s.homeWrite key (loc + 16 * k) 16 (v.toNat + (sid.toNat + 2 ^ 32) * 2 ^ 64) rel)
  | none => (BitVec.allOnes 64, s)

/-- What a message packet carries after its header: the payload and the sender's identity (R359, R371). -/
def messageData (v : Word) (sid : BitVec 32) : List Byte := bytesOfNat 8 v.toNat ++ bytesOfNat 4 sid.toNat

/-- `fsend`: a release at fab, then the message to the mailbox at sa (R371). -/
def execFsend (d a b : BitVec 5) (s : State) : Result :=
  .next (s.issue [a, b] [d] fun s =>
    match s.cur.replies.get none 0 with
    | some r => (s.onCur fun t => t.setS d r).retire
    | none =>
      let va := s.cur.getS a
      let v := s.cur.getS b
      match s.boxCheck va { needOf .atomic with noHost := true } with
      | (s1, .error f) => s1.takeFault (s1.faultRec f va 4 Scope.fab.code)
      | (s1, .ok h) => s1.withRelease .fab [] fun id s =>
        if isHere h.loc then
          let i := s.nextW
          let (r, s2) := s.boxPut h.key h.loc v s.cur.sid (some id)
          (s2.onCur fun t => { t with hb := if r = BitVec.allOnes 64 then t.hb else t.hb ||| 2 ^ i }.setS d r).retire
        else
          let p := s.mkPacket 8 h.loc 12 h.key 0 .fab (messageData v s.cur.sid)
          let (req, s2) := s.sendPacket p (some (.strand s.cur.uid)) 0
          s2.waitOn (.atomicReply req) 0 0 none false (some (s2.faultRec (fail .fabricUnreachable) va 4 Scope.fab.code)))

/-- `frecv`: waits, with deadline sb, for a message in the mailbox at sa (R372). -/
def execFrecv (d a b : BitVec 5) (s : State) : Result :=
  .next (s.issue [a, b] [d] fun s =>
    let va := s.cur.getS a
    match s.boxCheck va { needOf .atomic with localOnly := true } with
    | (s1, .error f) => s1.takeFault (s1.faultRec f va 4 0)
    | (s1, .ok h) => s1.deadlineWait (.frecv h.loc va) 8 d (s1.cur.getS b))

/-! Paths (R373 to R375). -/

/-- Retransmissions on a path in the last 1 ms, saturating (R374). -/
def PathEntry.recent (p : PathEntry) (g : Word) : Nat := Nat.min 255 (p.retx.filter fun t => decide ((g - t).toNat < 1000000)).length

/-- A path table entry as software reads it (R374). -/
def PathEntry.word (p : PathEntry) (g : Word) : Word :=
  Sys2Proof.word (p.entropy.toNat * 2 ^ 48 + p.rtt.toNat * 2 ^ 32 + p.ecn.toNat * 2 ^ 24 + p.recent g * 2 ^ 16 +
    (if p.down g then 8 else 0) + (if p.avoid then 4 else 0) + (if p.pin then 2 else 0) + (if p.valid then 1 else 0))

/-- `fpath`: entry sb of the path table of peer sa; 0 for a peer without a table (R374). -/
def execFpath (d a b : BitVec 5) (s : State) : Result :=
  .next (s.issue [a, b] [d] fun s =>
    let k := (s.cur.getS b).toNat
    match peerKey (s.cur.getS a) with
    | none => s.faultCode .illegalOperand 0 0 0
    | some p =>
      if 16 ≤ k then s.faultCode .illegalOperand 0 0 0
      else
        let v : Word := match (s.peer p).paths[k]? with
          | some e => if (s.peer p).hasTable then e.word s.gtime else 0
          | none => 0
        (s.onCur fun t => t.setS d v).retire)

/-- Packets to a peer that await an ack: those of Tsueratis, or the endpoint's (R375). -/
def State.unackedTo (s : State) (key : Nat) : Nat :=
  if 2 ^ 20 ≤ key then
    (s.pkg.copies.map fun c => match c.ue with
      | some u => if u.peer = key - 2 ^ 20 then c.out.length else 0
      | none => 0).sum
  else ((s.peer key).unacked.filter fun u => decide (u.sends ≠ 0)).length

/-- `fprobe`: the summary of peer sa (R375). With no path up, the least round trip is a value the manual does not give. Log 46 (DESIGN CHOICE). -/
def execFprobe (d a : BitVec 5) (s : State) : Result :=
  .next (s.issue [a] [d] fun s =>
    match peerKey (s.cur.getS a) with
    | none => s.faultCode .illegalOperand 0 0 0
    | some key =>
      let p := s.peer key
      let live := p.paths.filter fun e => e.up s.gtime
      let ue := decide (2 ^ 20 ≤ key)
      let rtt := match (live.map fun e => e.rtt.toNat).min? with
        | some x => x
        | none => if p.hasTable then Config.freeChoice s.free % 2 ^ 16 else 0
      let v : Word := word (rtt * 2 ^ 48 + (if ue then 0 else p.hops % 2 ^ 8) * 2 ^ 40 + live.length * 2 ^ 32 +
        Nat.min 0xFFFF (s.unackedTo key) * 2 ^ 16 + (if !ue && (s.sliceOf s.cur.job).contains key then 2 else 0) +
        (if live.isEmpty then 0 else 1))
      ({ s with free := s.free + 1 }.onCur fun t => t.setS d v).retire)

end Sys2Proof.Machine
end

