-- ==== Sys2Proof/WellFormed.lean ====
section
/-! DEFINITION. Operand limits (R45, R46, R53 to R57, R61): which terms of Instr are instructions the device accepts. A word whose term breaks one faults `ILLEGAL_OPERAND` (R63). -/

namespace Sys2Proof

/-- A governing-mask field: a mask number 0 to 23, or 31 for unmasked (R61). -/
def kmOk (k : BitVec 5) : Bool := decide (k.toNat < 24 ∨ k.toNat = 31)

/-- A field that names a mask register (R61). -/
def kOk (k : BitVec 5) : Bool := decide (k.toNat < 24)

/-- A type code (R11, R61). -/
def tyOk (t : BitVec 5) : Bool := decide (t.toNat < 20)

/-- A rounding code: 7 is unassigned (R53). Log 18 (DEDUCED). -/
def rndOk (r : BitVec 3) : Bool := decide (r.toNat ≤ 6)

/-- A segment form: f5 is 4 to 10 for N of 2 to 8, and vd to vd + N - 1 exist (R54). -/
def segOk (n d : BitVec 5) : Bool :=
  decide (4 ≤ n.toNat ∧ n.toNat ≤ 10 ∧ d.toNat + (n.toNat - 2) ≤ 32)

/-- A field of a register class with fewer than 32 registers (R57 to R59, R61). -/
def below (n : Nat) (r : BitVec 5) : Bool := decide (r.toNat < n)

/-- A stream register: v24 to v31 (R56). -/
def streamOk (d : BitVec 5) : Bool := decide (24 ≤ d.toNat)

/-- A weight or activation type of the matrix unit (R55, R177). -/
def matTyOk (y : BitVec 5) : Bool :=
  match ElTy.ofCode y.toNat with
  | some .bf16 | some .f16 | some .e4m3 | some .e5m2 | some .i8 | some .mx8a | some .mx8b | some .tb8
  | some .mx4 | some .tb4 => true
  | _ => false

/-- The CSR indices of the CSR map (R78). -/
def csrListed (c : BitVec 12) : Bool :=
  let n := c.toNat
  decide (n ≤ 0x006 ∨ (0x010 ≤ n ∧ n ≤ 0x019) ∨ (0x020 ≤ n ∧ n ≤ 0x027) ∨ (0x030 ≤ n ∧ n ≤ 0x032) ∨
    n = 0x040 ∨ n = 0x041)

/-- The CSRs that `setc` and `swapc` may name (R78): the read/write ones. -/
def csrWritable (c : BitVec 12) : Bool :=
  let n := c.toNat
  decide (n = 0x002 ∨ n = 0x006 ∨ n = 0x020 ∨ (0x022 ≤ n ∧ n ≤ 0x026) ∨ n = 0x030)

/-- Whether every operand field lies within its limits. Events carry no fields of a word and have none. Log 57 (DEDUCED). -/
def Instr.wf : Instr → Bool
  | .add _ _ _ => true
  | .sll _ _ _ => true
  | .slt _ _ _ => true
  | .sltz _ _ _ => true
  | .xor _ _ _ => true
  | .srl _ _ _ => true
  | .or _ _ _ => true
  | .and _ _ _ => true
  | .sub _ _ _ => true
  | .sra _ _ _ => true
  | .mul _ _ _ => true
  | .mulh _ _ _ => true
  | .mulhz _ _ _ => true
  | .div _ _ _ => true
  | .divz _ _ _ => true
  | .rem _ _ _ => true
  | .remz _ _ _ => true
  | .min _ _ _ => true
  | .max _ _ _ => true
  | .minz _ _ _ => true
  | .maxz _ _ _ => true
  | .clz _ _ => true
  | .ctz _ _ => true
  | .popc _ _ => true
  | .bswap _ _ => true
  | .addi _ _ _ => true
  | .slli _ _ _ => true
  | .slti _ _ _ => true
  | .sltiz _ _ _ => true
  | .xori _ _ _ => true
  | .srli _ _ _ => true
  | .srai _ _ _ => true
  | .ori _ _ _ => true
  | .andi _ _ _ => true
  | .ldB _ _ _ => true
  | .ldH _ _ _ => true
  | .ldW _ _ _ => true
  | .ldD _ _ _ => true
  | .ldBz _ _ _ => true
  | .ldHz _ _ _ => true
  | .ldWz _ _ _ => true
  | .stB _ _ _ => true
  | .stH _ _ _ => true
  | .stW _ _ _ => true
  | .stD _ _ _ => true
  | .beq _ _ _ => true
  | .bne _ _ _ => true
  | .blt _ _ _ => true
  | .bge _ _ _ => true
  | .bltz _ _ _ => true
  | .bgez _ _ _ => true
  | .jal _ _ => true
  | .jalr _ _ _ => true
  | .lui _ _ => true
  | .aupc _ _ => true
  | .loop _ i => decide (i ≠ 0)
  | .loopi n i => decide (i ≠ 0) && decide (n ≠ 0)
  | .lidx _ e => decide (e.toNat ≤ 5)
  | .lbrk => true
  | .lnext => true
  | .svc => true
  | .brk => true
  | .yield => true
  | .ifence => true
  | .getc _ c => csrListed c
  | .setc _ c => csrWritable c
  | .swapc _ _ c => csrWritable c
  | .sleep _ => true
  | .amoaddW _ _ _ _ _ _ => true
  | .amoaddD _ _ _ _ _ _ => true
  | .amoswapW _ _ _ _ _ _ => true
  | .amoswapD _ _ _ _ _ _ => true
  | .amoandD _ _ _ _ _ _ => true
  | .amoorD _ _ _ _ _ _ => true
  | .amoxorD _ _ _ _ _ _ => true
  | .amominD _ _ _ _ _ _ => true
  | .amomaxD _ _ _ _ _ _ => true
  | .amominzD _ _ _ _ _ _ => true
  | .amomaxzD _ _ _ _ _ _ => true
  | .amocasD _ _ _ _ _ _ => true
  | .amofaddS _ _ _ _ _ _ => true
  | .amofmaxS _ _ _ _ _ _ => true
  | .vtype _ t => tyOk t
  | .strip _ _ k => kOk k
  | .vlmax _ => true
  | .wopen _ _ => true
  | .wmerge _ => true
  | .vadd _ _ _ k => kmOk k
  | .vsub _ _ _ k => kmOk k
  | .vmul _ _ _ k => kmOk k
  | .vmac _ _ _ k => kmOk k
  | .vnmac _ _ _ k => kmOk k
  | .vmin _ _ _ k => kmOk k
  | .vmax _ _ _ k => kmOk k
  | .vdiv _ _ _ k => kmOk k
  | .vand _ _ _ k => kmOk k
  | .vor _ _ _ k => kmOk k
  | .vxor _ _ _ k => kmOk k
  | .vsll _ _ _ k => kmOk k
  | .vsrl _ _ _ k => kmOk k
  | .vsra _ _ _ k => kmOk k
  | .vmulh _ _ _ k => kmOk k
  | .vmulhz _ _ _ k => kmOk k
  | .vabs _ _ k => kmOk k
  | .vneg _ _ k => kmOk k
  | .vsqrt _ _ k => kmOk k
  | .vrcp _ _ k => kmOk k
  | .vrsqrt _ _ k => kmOk k
  | .vexp2 _ _ k => kmOk k
  | .vmov _ _ k => kmOk k
  | .vaddS _ _ _ k => kmOk k
  | .vsubS _ _ _ k => kmOk k
  | .vmulS _ _ _ k => kmOk k
  | .vmacS _ _ _ k => kmOk k
  | .vnmacS _ _ _ k => kmOk k
  | .vminS _ _ _ k => kmOk k
  | .vmaxS _ _ _ k => kmOk k
  | .vdivS _ _ _ k => kmOk k
  | .vandS _ _ _ k => kmOk k
  | .vorS _ _ _ k => kmOk k
  | .vxorS _ _ _ k => kmOk k
  | .vsllS _ _ _ k => kmOk k
  | .vsrlS _ _ _ k => kmOk k
  | .vsraS _ _ _ k => kmOk k
  | .vmulhS _ _ _ k => kmOk k
  | .vmulhzS _ _ _ k => kmOk k
  | .vceq d _ _ k => kmOk k && kOk d
  | .vcne d _ _ k => kmOk k && kOk d
  | .vclt d _ _ k => kmOk k && kOk d
  | .vcle d _ _ k => kmOk k && kOk d
  | .vcltz d _ _ k => kmOk k && kOk d
  | .vclez d _ _ k => kmOk k && kOk d
  | .vcun d _ _ k => kmOk k && kOk d
  | .vceqS d _ _ k => kmOk k && kOk d
  | .vcneS d _ _ k => kmOk k && kOk d
  | .vcltS d _ _ k => kmOk k && kOk d
  | .vcleS d _ _ k => kmOk k && kOk d
  | .vcgtS d _ _ k => kmOk k && kOk d
  | .vcgeS d _ _ k => kmOk k && kOk d
  | .kand d a b k => kmOk k && kOk d && kOk a && kOk b
  | .kor d a b k => kmOk k && kOk d && kOk a && kOk b
  | .kxor d a b k => kmOk k && kOk d && kOk a && kOk b
  | .kandn d a b k => kmOk k && kOk d && kOk a && kOk b
  | .knot d a k => kmOk k && kOk d && kOk a
  | .kwhile d _ _ => kOk d
  | .kset d k => kmOk k && kOk d
  | .kclr d k => kmOk k && kOk d
  | .kcnt _ a k => kmOk k && kOk a
  | .kfirst _ a k => kmOk k && kOk a
  | .vbcast _ _ k => kmOk k
  | .vslup _ _ _ k => kmOk k
  | .vsldn _ _ _ k => kmOk k
  | .vperm _ _ _ k => kmOk k
  | .vzipl _ _ _ k => kmOk k
  | .vziph _ _ _ k => kmOk k
  | .vunzpe _ _ _ k => kmOk k
  | .vunzpo _ _ _ k => kmOk k
  | .vcmprs _ _ k => kmOk k
  | .vexpnd _ _ k => kmOk k
  | .vext _ _ _ => true
  | .vins _ _ _ => true
  | .viota _ k => kmOk k
  | .vrev _ _ k => kmOk k
  | .vrsum _ _ k => kmOk k
  | .vrmax _ _ k => kmOk k
  | .vrmin _ _ k => kmOk k
  | .vrand _ _ k => kmOk k
  | .vror _ _ k => kmOk k
  | .vscan _ _ k => kmOk k
  | .vscanx _ _ k => kmOk k
  | .vrsumw _ _ k => kmOk k
  | .vcvt _ _ k s r => kmOk k && tyOk s && rndOk r
  | .vcvtSat _ _ k s r => kmOk k && tyOk s && rndOk r
  | .vpack d _ k s r => kmOk k && tyOk s && rndOk r && decide (d.toNat ≤ 30)
  | .vunpk _ a k s => kmOk k && tyOk s && decide (a.toNat ≤ 30)
  | .vld _ _ k _ => kmOk k
  | .vlds _ _ _ k => kmOk k
  | .vldx _ _ _ k => kmOk k
  | .vldff _ _ k _ => kmOk k
  | .vldseg d _ n k t => kmOk k && segOk n d && tyOk t
  | .vldf _ _ k _ => kmOk k
  | .vldb d _ k _ => kmOk k && decide (d.toNat ≤ 30)
  | .vst _ _ k _ => kmOk k
  | .vsts _ _ _ k => kmOk k
  | .vstx _ _ _ k => kmOk k
  | .vstseg d _ n k t => kmOk k && segOk n d && tyOk t
  | .vstf _ _ k _ => kmOk k
  | .vstxa _ _ _ k => kmOk k
  | .vamo _ _ _ k => kmOk k
  | .vamoReport _ _ _ => true
  | .mld _ _ y => matTyOk y
  | .mswap => true
  | .mstr _ _ _ _ y => matTyOk y
  | .mrd _ _ _ => true
  | .mzero _ => true
  | .mst _ _ _ y => tyOk y
  | .mldComplete _ => true
  | .mswapPerformed _ => true
  | .mstrRowFinal _ _ => true
  | .mzeroPerformed _ => true
  | .mstRowWrite _ => true
  | .mrdWrite _ => true
  | .matrixWaitExpired _ => true
  | .cpy d _ b p => decide (4 ≤ p.toNat) && decide (d ≠ b ∨ d = 0)
  | .cpyr d _ b p => decide (4 ≤ p.toNat) && decide (d ≠ b ∨ d = 0)
  | .cwait _ _ _ _ => true
  | .sbind d _ _ p => streamOk d && decide (p.toNat ≤ 3 ∨ 12 ≤ p.toNat)
  | .sunbind d => streamOk d
  | .tlwait _ _ _ => true
  | .capp _ _ _ => true
  | .cstat _ _ => true
  | .portDispatch _ _ => true
  | .portQueueWaitExpired _ => true
  | .copyChunk _ _ => true
  | .releaseTokenWrite _ => true
  | .deliveryTokenWrite _ => true
  | .copyFaultPost _ => true
  | .copyReplay _ => true
  | .streamStripDeliver _ _ => true
  | .chainCopy _ => true
  | .chainCopyr _ => true
  | .chainMark _ => true
  | .chainCommandComplete _ => true
  | .ochreCopy _ => true
  | .ochreCopyr _ => true
  | .ochreMark _ => true
  | .ochreFill _ => true
  | .indigoCopy _ => true
  | .indigoCopyr _ => true
  | .indigoMark _ => true
  | .indigoWait _ => true
  | .indigoWaitMet _ => true
  | .indigoWaitExpired _ => true
  | .indigoSignal _ => true
  | .indigoPathSet _ => true
  | .ueWrite _ => true
  | .ueRead _ => true
  | .ueRegisterRegion _ => true
  | .ueMark _ => true
  | .uePacket _ => true
  | .barr _ a => below 8 a
  | .bwait _ a _ => below 8 a
  | .bsync _ a _ => below 8 a
  | .acq _ _ _ => true
  | .rel _ _ => true
  | .mend _ _ _ => true
  | .pacq _ => true
  | .prel _ => true
  | .pfull _ => true
  | .bbind d _ => below 8 d
  | .bdrop d _ => below 8 d
  | .bstat _ a => below 8 a
  | .wmbind d _ _ => below 4 d
  | .wmpub _ _ => true
  | .wmrd _ a => below 4 a
  | .watermarkExpired _ => true
  | .barrierDeadlineClose _ _ => true
  | .rbind d _ => below 4 d
  | .rget _ a _ => below 4 a
  | .rput a => below 4 a
  | .rtake _ a _ => below 4 a
  | .rdone a => below 4 a
  | .rstat _ a => below 4 a
  | .runbind a => below 4 a
  | .hnew d _ => below 16 d
  | .hsplit d a b _ => below 16 d && below 16 b && below 16 a
  | .hjoin d a b => below 16 d && below 16 b && below 16 a
  | .hsend a _ => below 16 a
  | .hrecv d _ _ => below 16 d
  | .haddr _ a => below 16 a
  | .hfree a => below 16 a
  | .hinfo _ a => below 16 a
  | .hreclaim d _ => below 16 d
  | .spawn _ => true
  | .tend => true
  | .jdec _ => true
  | .qpush _ _ => true
  | .qpop _ _ _ => true
  | .tself _ => true
  | .fsend _ _ _ => true
  | .frecv _ _ _ => true
  | .fpath _ _ _ => true
  | .fprobe _ _ => true
  | .regWaitExpired _ => true
  | .waitExpired _ => true
  | .sleepMet _ => true
  | .svcExpired _ => true
  | .preempt _ => true
  | .budgetOverrun _ => true
  | .tbudExhausted _ => true
  | .taskStart _ _ => true
  | .taskResume _ _ => true
  | .priorityAging _ => true
  | .coreBind _ _ => true
  | .gangPreempt _ => true
  | .gangResume _ => true
  | .coreScrub _ => true
  | .jobComplete _ => true
  | .jobStopForce _ => true
  | .commandTake => true
  | .launch _ => true
  | .shootdownPageRange _ => true
  | .shootdownRoot _ => true
  | .shootdownAck _ => true
  | .cancel _ => true
  | .debugFreeze _ => true
  | .debugStep _ => true
  | .debugResume _ => true
  | .debugDump _ => true
  | .keyInvalidate _ => true
  | .pageWalk _ _ _ _ => true
  | .poolRefill _ _ => true
  | .faultQueueSpace _ => true
  | .tailAdvance _ _ => true
  | .holdExpired _ => true
  | .pagingService _ _ _ _ _ _ => true
  | .patrolScrub _ _ => true
  | .queueLost _ _ _ => true
  | .cyanReload _ => true
  | .cobaltReset => true
  | .packageReset _ _ _ _ _ _ => true
  | .imgdbWrite _ => true
  | .bootReady _ => true
  | .dmalockWrite _ => true
  | .fabidLock _ => true
  | .registerWrite _ _ => true
  | .hostWrite _ _ _ => true
  | .hostRead _ _ _ => true
  | .hostAtomicCompletion _ _ => true
  | .proxyReply _ => true
  | .proxyQueueExpired _ => true
  | .proxyReplyExpired _ => true
  | .spdmRequest _ => true
  | .spdmKeyInstall _ _ _ => true
  | .tdiLeaveRun _ => true
  | .thermalStep _ _ => true
  | .powerClamp _ => true
  | .frameReceive _ _ => true
  | .timeFlit _ _ => true
  | .ptpMessage _ _ _ => true
  | .ptpLockLoss => true
  | .retryRequest _ _ => true
  | .linkDown _ => true
  | .stomp _ _ _ => true
  | .readRequest _ => true
  | .readReply _ => true
  | .writeRequest _ => true
  | .atomicRequest _ => true
  | .atomicReply _ => true
  | .chunkWrite _ => true
  | .multicastChunkWrite _ => true
  | .message _ => true
  | .messageReply _ => true
  | .ack _ => true
  | .nack _ => true
  | .combinedAtomic _ => true
  | .combinedReply _ => true
  | .e2eRetransmit _ _ => true
  | .multicastBranchTimeout _ _ _ => true
  | .pathProbe _ _ _ _ => true
  | .launchAcceptAnnounce _ _ _ _ => true
  | .launchAgreeTimeout _ => true
  | .multiJobStart _ => true
  | .gangPreemptRequest _ => true
  | .slateWaveArrive _ _ => true
  | .frozenReport _ _ _ _ => true
  | .firstCauseFinal _ => true
  | .resumeAnnounce _ _ _ => true
  | .slateRestart _ => true
  | .slateFreezeTimeout _ => true
  | .illegalWordIssue _ => true
  | .fetchProblem => true
  | .vectorQueueCompletion _ => true
  | .dmaReadCompletion _ _ => true
  | .tdiEnterRun _ _ => true

end Sys2Proof
end

