-- ==== Sys2Proof/Decode.lean ====
section
/-! DEFINITION. The decoder (02_encoding.md R38 to R63) and the encoder. A word is cut into the fields of R38; a row of the opcode map answers when every bit it fixes, reserved fields among them, has its value (R63); operand limits are then those of WellFormed. -/

namespace Sys2Proof

/-- `len` bits of a word from bit `lo`. -/
def bits (w : IWord) (lo len : Nat) : BitVec len := w.extractLsb' lo len

/-- Group LD, major 0x03 (R43). -/
def decodeLd (w : IWord) : Option Instr :=
  if bits w 12 3 = 0x0#3 then some (.ldB (bits w 7 5) (bits w 15 5) (bits w 20 12))
  else
  if bits w 12 3 = 0x1#3 then some (.ldH (bits w 7 5) (bits w 15 5) (bits w 20 12))
  else
  if bits w 12 3 = 0x2#3 then some (.ldW (bits w 7 5) (bits w 15 5) (bits w 20 12))
  else
  if bits w 12 3 = 0x3#3 then some (.ldD (bits w 7 5) (bits w 15 5) (bits w 20 12))
  else
  if bits w 12 3 = 0x4#3 then some (.ldBz (bits w 7 5) (bits w 15 5) (bits w 20 12))
  else
  if bits w 12 3 = 0x5#3 then some (.ldHz (bits w 7 5) (bits w 15 5) (bits w 20 12))
  else
  if bits w 12 3 = 0x6#3 then some (.ldWz (bits w 7 5) (bits w 15 5) (bits w 20 12))
  else
  none

/-- Group VLD, major 0x07 (R54). -/
def decodeVld (w : IWord) : Option Instr :=
  if bits w 27 5 = 0x0#5 then some (.vld (bits w 7 5) (bits w 17 5) (bits w 12 5) (bits w 22 5))
  else
  if bits w 27 5 = 0x1#5 then some (.vlds (bits w 7 5) (bits w 17 5) (bits w 22 5) (bits w 12 5))
  else
  if bits w 27 5 = 0x2#5 then some (.vldx (bits w 7 5) (bits w 17 5) (bits w 22 5) (bits w 12 5))
  else
  if bits w 27 5 = 0x3#5 then some (.vldff (bits w 7 5) (bits w 17 5) (bits w 12 5) (bits w 22 5))
  else
  if 0x4#5 ≤ bits w 27 5 ∧ bits w 27 5 ≤ 0xA#5 then some (.vldseg (bits w 7 5) (bits w 17 5) (bits w 27 5) (bits w 12 5) (bits w 22 5))
  else
  if bits w 27 5 = 0xB#5 then some (.vldf (bits w 7 5) (bits w 17 5) (bits w 12 5) (bits w 22 5))
  else
  if bits w 27 5 = 0xC#5 then some (.vldb (bits w 7 5) (bits w 17 5) (bits w 12 5) (bits w 22 5))
  else
  none

/-- Group MAT, major 0x0B (R55). Log 17 (DEDUCED). -/
def decodeMat (w : IWord) : Option Instr :=
  if bits w 30 2 = 0x0#2 ∧ bits w 12 3 = 0x0#3 ∧ bits w 7 5 = 0x0#5 then some (.mld (bits w 15 5) (bits w 20 5) (bits w 25 5))
  else
  if bits w 25 7 = 0x0#7 ∧ bits w 20 5 = 0x0#5 ∧ bits w 15 5 = 0x0#5 ∧ bits w 12 3 = 0x1#3 ∧ bits w 7 5 = 0x0#5 then some .mswap
  else
  if bits w 31 1 = 0x0#1 ∧ bits w 12 3 = 0x2#3 ∧ bits w 9 3 = 0x0#3 then some (.mstr (bits w 7 2) (bits w 15 5) (bits w 20 5) (bits w 30 1) (bits w 25 5))
  else
  if bits w 25 7 = 0x0#7 ∧ bits w 22 3 = 0x0#3 ∧ bits w 12 3 = 0x3#3 then some (.mrd (bits w 7 5) (bits w 20 2) (bits w 15 5))
  else
  if bits w 25 7 = 0x0#7 ∧ bits w 20 5 = 0x0#5 ∧ bits w 15 5 = 0x0#5 ∧ bits w 12 3 = 0x4#3 ∧ bits w 9 3 = 0x0#3 then some (.mzero (bits w 7 2))
  else
  if bits w 30 2 = 0x0#2 ∧ bits w 12 3 = 0x5#3 ∧ bits w 9 3 = 0x0#3 then some (.mst (bits w 7 2) (bits w 15 5) (bits w 20 5) (bits w 25 5))
  else
  none

/-- Group OPI, major 0x13 (R42). -/
def decodeOpi (w : IWord) : Option Instr :=
  if bits w 12 3 = 0x0#3 then some (.addi (bits w 7 5) (bits w 15 5) (bits w 20 12))
  else
  if bits w 26 6 = 0x0#6 ∧ bits w 12 3 = 0x1#3 then some (.slli (bits w 7 5) (bits w 15 5) (bits w 20 6))
  else
  if bits w 12 3 = 0x2#3 then some (.slti (bits w 7 5) (bits w 15 5) (bits w 20 12))
  else
  if bits w 12 3 = 0x3#3 then some (.sltiz (bits w 7 5) (bits w 15 5) (bits w 20 12))
  else
  if bits w 12 3 = 0x4#3 then some (.xori (bits w 7 5) (bits w 15 5) (bits w 20 12))
  else
  if bits w 26 6 = 0x0#6 ∧ bits w 12 3 = 0x5#3 then some (.srli (bits w 7 5) (bits w 15 5) (bits w 20 6))
  else
  if bits w 26 6 = 0x10#6 ∧ bits w 12 3 = 0x5#3 then some (.srai (bits w 7 5) (bits w 15 5) (bits w 20 6))
  else
  if bits w 12 3 = 0x6#3 then some (.ori (bits w 7 5) (bits w 15 5) (bits w 20 12))
  else
  if bits w 12 3 = 0x7#3 then some (.andi (bits w 7 5) (bits w 15 5) (bits w 20 12))
  else
  none

/-- Group AUPC, major 0x17 (R44). -/
def decodeAupc (w : IWord) : Option Instr :=
  some (.aupc (bits w 7 5) (bits w 12 20))

/-- Group COPY, major 0x1B (R56). -/
def decodeCopy (w : IWord) : Option Instr :=
  if bits w 29 3 = 0x0#3 ∧ bits w 12 3 = 0x0#3 then some (.cpy (bits w 7 5) (bits w 15 5) (bits w 20 5) (bits w 25 4))
  else
  if bits w 29 3 = 0x0#3 ∧ bits w 12 3 = 0x1#3 then some (.cpyr (bits w 7 5) (bits w 15 5) (bits w 20 5) (bits w 25 4))
  else
  if bits w 12 3 = 0x2#3 then some (.cwait (bits w 7 5) (bits w 15 5) (bits w 20 5) (bits w 25 7))
  else
  if bits w 20 5 = 0x0#5 ∧ bits w 12 3 = 0x3#3 then some (.sbind (bits w 7 5) (bits w 15 5) (bits w 29 3) (bits w 25 4))
  else
  if bits w 25 7 = 0x0#7 ∧ bits w 20 5 = 0x0#5 ∧ bits w 15 5 = 0x0#5 ∧ bits w 12 3 = 0x4#3 then some (.sunbind (bits w 7 5))
  else
  if bits w 25 7 = 0x0#7 ∧ bits w 12 3 = 0x5#3 then some (.tlwait (bits w 7 5) (bits w 15 5) (bits w 20 5))
  else
  if bits w 25 7 = 0x0#7 ∧ bits w 12 3 = 0x6#3 then some (.capp (bits w 7 5) (bits w 15 5) (bits w 20 5))
  else
  if bits w 25 7 = 0x0#7 ∧ bits w 20 5 = 0x0#5 ∧ bits w 12 3 = 0x7#3 then some (.cstat (bits w 7 5) (bits w 15 5))
  else
  none

/-- Group ST, major 0x23 (R43). -/
def decodeSt (w : IWord) : Option Instr :=
  if bits w 12 3 = 0x0#3 then some (.stB (bits w 15 5) (bits w 20 5) (bits w 25 7 ++ bits w 7 5))
  else
  if bits w 12 3 = 0x1#3 then some (.stH (bits w 15 5) (bits w 20 5) (bits w 25 7 ++ bits w 7 5))
  else
  if bits w 12 3 = 0x2#3 then some (.stW (bits w 15 5) (bits w 20 5) (bits w 25 7 ++ bits w 7 5))
  else
  if bits w 12 3 = 0x3#3 then some (.stD (bits w 15 5) (bits w 20 5) (bits w 25 7 ++ bits w 7 5))
  else
  none

/-- Group VST, major 0x27 (R54). -/
def decodeVst (w : IWord) : Option Instr :=
  if bits w 27 5 = 0x0#5 then some (.vst (bits w 7 5) (bits w 17 5) (bits w 12 5) (bits w 22 5))
  else
  if bits w 27 5 = 0x1#5 then some (.vsts (bits w 7 5) (bits w 17 5) (bits w 22 5) (bits w 12 5))
  else
  if bits w 27 5 = 0x2#5 then some (.vstx (bits w 7 5) (bits w 17 5) (bits w 22 5) (bits w 12 5))
  else
  if 0x4#5 ≤ bits w 27 5 ∧ bits w 27 5 ≤ 0xA#5 then some (.vstseg (bits w 7 5) (bits w 17 5) (bits w 27 5) (bits w 12 5) (bits w 22 5))
  else
  if bits w 27 5 = 0xB#5 then some (.vstf (bits w 7 5) (bits w 17 5) (bits w 12 5) (bits w 22 5))
  else
  if bits w 27 5 = 0xC#5 then some (.vstxa (bits w 7 5) (bits w 17 5) (bits w 22 5) (bits w 12 5))
  else
  if bits w 27 5 = 0xD#5 then some (.vamo (bits w 7 5) (bits w 17 5) (bits w 22 5) (bits w 12 5))
  else
  none

/-- Group SYNC, major 0x2B (R57). -/
def decodeSync (w : IWord) : Option Instr :=
  if bits w 25 7 = 0x0#7 ∧ bits w 20 5 = 0x0#5 ∧ bits w 12 3 = 0x0#3 then some (.barr (bits w 7 5) (bits w 15 5))
  else
  if bits w 25 7 = 0x0#7 ∧ bits w 12 3 = 0x1#3 then some (.bwait (bits w 7 5) (bits w 15 5) (bits w 20 5))
  else
  if bits w 25 7 = 0x0#7 ∧ bits w 12 3 = 0x2#3 then some (.bsync (bits w 7 5) (bits w 15 5) (bits w 20 5))
  else
  if bits w 25 7 = 0x0#7 ∧ bits w 12 3 = 0x3#3 then some (.acq (bits w 7 5) (bits w 15 5) (bits w 20 5))
  else
  if bits w 25 7 = 0x0#7 ∧ bits w 20 5 = 0x0#5 ∧ bits w 12 3 = 0x4#3 then some (.rel (bits w 7 5) (bits w 15 5))
  else
  if bits w 25 7 = 0x0#7 ∧ bits w 12 3 = 0x5#3 then some (.mend (bits w 7 5) (bits w 15 5) (bits w 20 5))
  else
  if bits w 28 4 = 0x0#4 ∧ bits w 20 5 = 0x0#5 ∧ bits w 15 5 = 0x0#5 ∧ bits w 12 3 = 0x6#3 ∧ bits w 7 5 = 0x0#5 then some (.pacq (bits w 25 3))
  else
  if bits w 28 4 = 0x1#4 ∧ bits w 20 5 = 0x0#5 ∧ bits w 15 5 = 0x0#5 ∧ bits w 12 3 = 0x6#3 ∧ bits w 7 5 = 0x0#5 then some (.prel (bits w 25 3))
  else
  if bits w 28 4 = 0x2#4 ∧ bits w 20 5 = 0x0#5 ∧ bits w 15 5 = 0x0#5 ∧ bits w 12 3 = 0x6#3 ∧ bits w 7 5 = 0x0#5 then some (.pfull (bits w 25 3))
  else
  if bits w 25 7 = 0x0#7 ∧ bits w 20 5 = 0x0#5 ∧ bits w 12 3 = 0x7#3 then some (.bbind (bits w 7 5) (bits w 15 5))
  else
  if bits w 25 7 = 0x1#7 ∧ bits w 20 5 = 0x0#5 ∧ bits w 12 3 = 0x7#3 then some (.bdrop (bits w 7 5) (bits w 15 5))
  else
  if bits w 25 7 = 0x2#7 ∧ bits w 20 5 = 0x0#5 ∧ bits w 12 3 = 0x7#3 then some (.bstat (bits w 7 5) (bits w 15 5))
  else
  if bits w 25 7 = 0x3#7 ∧ bits w 12 3 = 0x7#3 then some (.wmbind (bits w 7 5) (bits w 15 5) (bits w 20 5))
  else
  if bits w 25 7 = 0x4#7 ∧ bits w 12 3 = 0x7#3 ∧ bits w 7 5 = 0x0#5 then some (.wmpub (bits w 15 5) (bits w 20 5))
  else
  if bits w 25 7 = 0x5#7 ∧ bits w 20 5 = 0x0#5 ∧ bits w 12 3 = 0x7#3 then some (.wmrd (bits w 7 5) (bits w 15 5))
  else
  none

/-- Group ATOM, major 0x2F (R47). -/
def decodeAtom (w : IWord) : Option Instr :=
  if bits w 27 5 = 0x0#5 then some (.amoaddW (bits w 7 5) (bits w 15 5) (bits w 20 5) (bits w 12 3) (bits w 25 1) (bits w 26 1))
  else
  if bits w 27 5 = 0x1#5 then some (.amoaddD (bits w 7 5) (bits w 15 5) (bits w 20 5) (bits w 12 3) (bits w 25 1) (bits w 26 1))
  else
  if bits w 27 5 = 0x2#5 then some (.amoswapW (bits w 7 5) (bits w 15 5) (bits w 20 5) (bits w 12 3) (bits w 25 1) (bits w 26 1))
  else
  if bits w 27 5 = 0x3#5 then some (.amoswapD (bits w 7 5) (bits w 15 5) (bits w 20 5) (bits w 12 3) (bits w 25 1) (bits w 26 1))
  else
  if bits w 27 5 = 0x4#5 then some (.amoandD (bits w 7 5) (bits w 15 5) (bits w 20 5) (bits w 12 3) (bits w 25 1) (bits w 26 1))
  else
  if bits w 27 5 = 0x5#5 then some (.amoorD (bits w 7 5) (bits w 15 5) (bits w 20 5) (bits w 12 3) (bits w 25 1) (bits w 26 1))
  else
  if bits w 27 5 = 0x6#5 then some (.amoxorD (bits w 7 5) (bits w 15 5) (bits w 20 5) (bits w 12 3) (bits w 25 1) (bits w 26 1))
  else
  if bits w 27 5 = 0x7#5 then some (.amominD (bits w 7 5) (bits w 15 5) (bits w 20 5) (bits w 12 3) (bits w 25 1) (bits w 26 1))
  else
  if bits w 27 5 = 0x8#5 then some (.amomaxD (bits w 7 5) (bits w 15 5) (bits w 20 5) (bits w 12 3) (bits w 25 1) (bits w 26 1))
  else
  if bits w 27 5 = 0x9#5 then some (.amominzD (bits w 7 5) (bits w 15 5) (bits w 20 5) (bits w 12 3) (bits w 25 1) (bits w 26 1))
  else
  if bits w 27 5 = 0xA#5 then some (.amomaxzD (bits w 7 5) (bits w 15 5) (bits w 20 5) (bits w 12 3) (bits w 25 1) (bits w 26 1))
  else
  if bits w 27 5 = 0xB#5 then some (.amocasD (bits w 7 5) (bits w 15 5) (bits w 20 5) (bits w 12 3) (bits w 25 1) (bits w 26 1))
  else
  if bits w 27 5 = 0xC#5 then some (.amofaddS (bits w 7 5) (bits w 15 5) (bits w 20 5) (bits w 12 3) (bits w 25 1) (bits w 26 1))
  else
  if bits w 27 5 = 0xD#5 then some (.amofmaxS (bits w 7 5) (bits w 15 5) (bits w 20 5) (bits w 12 3) (bits w 25 1) (bits w 26 1))
  else
  none

/-- Group OP, major 0x33 (R41). -/
def decodeOp (w : IWord) : Option Instr :=
  if bits w 25 7 = 0x0#7 ∧ bits w 12 3 = 0x0#3 then some (.add (bits w 7 5) (bits w 15 5) (bits w 20 5))
  else
  if bits w 25 7 = 0x0#7 ∧ bits w 12 3 = 0x1#3 then some (.sll (bits w 7 5) (bits w 15 5) (bits w 20 5))
  else
  if bits w 25 7 = 0x0#7 ∧ bits w 12 3 = 0x2#3 then some (.slt (bits w 7 5) (bits w 15 5) (bits w 20 5))
  else
  if bits w 25 7 = 0x0#7 ∧ bits w 12 3 = 0x3#3 then some (.sltz (bits w 7 5) (bits w 15 5) (bits w 20 5))
  else
  if bits w 25 7 = 0x0#7 ∧ bits w 12 3 = 0x4#3 then some (.xor (bits w 7 5) (bits w 15 5) (bits w 20 5))
  else
  if bits w 25 7 = 0x0#7 ∧ bits w 12 3 = 0x5#3 then some (.srl (bits w 7 5) (bits w 15 5) (bits w 20 5))
  else
  if bits w 25 7 = 0x0#7 ∧ bits w 12 3 = 0x6#3 then some (.or (bits w 7 5) (bits w 15 5) (bits w 20 5))
  else
  if bits w 25 7 = 0x0#7 ∧ bits w 12 3 = 0x7#3 then some (.and (bits w 7 5) (bits w 15 5) (bits w 20 5))
  else
  if bits w 25 7 = 0x20#7 ∧ bits w 12 3 = 0x0#3 then some (.sub (bits w 7 5) (bits w 15 5) (bits w 20 5))
  else
  if bits w 25 7 = 0x20#7 ∧ bits w 12 3 = 0x5#3 then some (.sra (bits w 7 5) (bits w 15 5) (bits w 20 5))
  else
  if bits w 25 7 = 0x1#7 ∧ bits w 12 3 = 0x0#3 then some (.mul (bits w 7 5) (bits w 15 5) (bits w 20 5))
  else
  if bits w 25 7 = 0x1#7 ∧ bits w 12 3 = 0x1#3 then some (.mulh (bits w 7 5) (bits w 15 5) (bits w 20 5))
  else
  if bits w 25 7 = 0x1#7 ∧ bits w 12 3 = 0x3#3 then some (.mulhz (bits w 7 5) (bits w 15 5) (bits w 20 5))
  else
  if bits w 25 7 = 0x1#7 ∧ bits w 12 3 = 0x4#3 then some (.div (bits w 7 5) (bits w 15 5) (bits w 20 5))
  else
  if bits w 25 7 = 0x1#7 ∧ bits w 12 3 = 0x5#3 then some (.divz (bits w 7 5) (bits w 15 5) (bits w 20 5))
  else
  if bits w 25 7 = 0x1#7 ∧ bits w 12 3 = 0x6#3 then some (.rem (bits w 7 5) (bits w 15 5) (bits w 20 5))
  else
  if bits w 25 7 = 0x1#7 ∧ bits w 12 3 = 0x7#3 then some (.remz (bits w 7 5) (bits w 15 5) (bits w 20 5))
  else
  if bits w 25 7 = 0x5#7 ∧ bits w 12 3 = 0x0#3 then some (.min (bits w 7 5) (bits w 15 5) (bits w 20 5))
  else
  if bits w 25 7 = 0x5#7 ∧ bits w 12 3 = 0x1#3 then some (.max (bits w 7 5) (bits w 15 5) (bits w 20 5))
  else
  if bits w 25 7 = 0x5#7 ∧ bits w 12 3 = 0x2#3 then some (.minz (bits w 7 5) (bits w 15 5) (bits w 20 5))
  else
  if bits w 25 7 = 0x5#7 ∧ bits w 12 3 = 0x3#3 then some (.maxz (bits w 7 5) (bits w 15 5) (bits w 20 5))
  else
  if bits w 25 7 = 0x5#7 ∧ bits w 20 5 = 0x0#5 ∧ bits w 12 3 = 0x4#3 then some (.clz (bits w 7 5) (bits w 15 5))
  else
  if bits w 25 7 = 0x5#7 ∧ bits w 20 5 = 0x0#5 ∧ bits w 12 3 = 0x5#3 then some (.ctz (bits w 7 5) (bits w 15 5))
  else
  if bits w 25 7 = 0x5#7 ∧ bits w 20 5 = 0x0#5 ∧ bits w 12 3 = 0x6#3 then some (.popc (bits w 7 5) (bits w 15 5))
  else
  if bits w 25 7 = 0x5#7 ∧ bits w 20 5 = 0x0#5 ∧ bits w 12 3 = 0x7#3 then some (.bswap (bits w 7 5) (bits w 15 5))
  else
  none

/-- Group LUI, major 0x37 (R44). -/
def decodeLui (w : IWord) : Option Instr :=
  some (.lui (bits w 7 5) (bits w 12 20))

/-- Group RING, major 0x3B (R58). -/
def decodeRing (w : IWord) : Option Instr :=
  if bits w 25 7 = 0x0#7 ∧ bits w 20 5 = 0x0#5 ∧ bits w 12 3 = 0x0#3 then some (.rbind (bits w 7 5) (bits w 15 5))
  else
  if bits w 25 7 = 0x0#7 ∧ bits w 12 3 = 0x1#3 then some (.rget (bits w 7 5) (bits w 15 5) (bits w 20 5))
  else
  if bits w 25 7 = 0x0#7 ∧ bits w 20 5 = 0x0#5 ∧ bits w 12 3 = 0x2#3 ∧ bits w 7 5 = 0x0#5 then some (.rput (bits w 15 5))
  else
  if bits w 25 7 = 0x0#7 ∧ bits w 12 3 = 0x3#3 then some (.rtake (bits w 7 5) (bits w 15 5) (bits w 20 5))
  else
  if bits w 25 7 = 0x0#7 ∧ bits w 20 5 = 0x0#5 ∧ bits w 12 3 = 0x4#3 ∧ bits w 7 5 = 0x0#5 then some (.rdone (bits w 15 5))
  else
  if bits w 25 7 = 0x0#7 ∧ bits w 20 5 = 0x0#5 ∧ bits w 12 3 = 0x5#3 then some (.rstat (bits w 7 5) (bits w 15 5))
  else
  if bits w 25 7 = 0x0#7 ∧ bits w 20 5 = 0x0#5 ∧ bits w 12 3 = 0x6#3 ∧ bits w 7 5 = 0x0#5 then some (.runbind (bits w 15 5))
  else
  none

/-- Group HNDL, major 0x3F (R59). -/
def decodeHndl (w : IWord) : Option Instr :=
  if bits w 25 7 = 0x0#7 ∧ bits w 20 5 = 0x0#5 ∧ bits w 12 3 = 0x0#3 then some (.hnew (bits w 7 5) (bits w 15 5))
  else
  if bits w 25 2 = 0x0#2 ∧ bits w 12 3 = 0x1#3 then some (.hsplit (bits w 7 5) (bits w 15 5) (bits w 20 5) (bits w 27 5))
  else
  if bits w 25 7 = 0x0#7 ∧ bits w 12 3 = 0x2#3 then some (.hjoin (bits w 7 5) (bits w 15 5) (bits w 20 5))
  else
  if bits w 25 7 = 0x0#7 ∧ bits w 12 3 = 0x3#3 ∧ bits w 7 5 = 0x0#5 then some (.hsend (bits w 15 5) (bits w 20 5))
  else
  if bits w 25 7 = 0x0#7 ∧ bits w 12 3 = 0x4#3 then some (.hrecv (bits w 7 5) (bits w 15 5) (bits w 20 5))
  else
  if bits w 25 7 = 0x0#7 ∧ bits w 20 5 = 0x0#5 ∧ bits w 12 3 = 0x5#3 then some (.haddr (bits w 7 5) (bits w 15 5))
  else
  if bits w 25 7 = 0x0#7 ∧ bits w 20 5 = 0x0#5 ∧ bits w 12 3 = 0x6#3 ∧ bits w 7 5 = 0x0#5 then some (.hfree (bits w 15 5))
  else
  if bits w 25 7 = 0x1#7 ∧ bits w 20 5 = 0x0#5 ∧ bits w 12 3 = 0x6#3 then some (.hinfo (bits w 7 5) (bits w 15 5))
  else
  if bits w 25 7 = 0x0#7 ∧ bits w 20 5 = 0x0#5 ∧ bits w 12 3 = 0x7#3 then some (.hreclaim (bits w 7 5) (bits w 15 5))
  else
  none

/-- Group VMASK, major 0x47 (R50). -/
def decodeVmask (w : IWord) : Option Instr :=
  if bits w 27 5 = 0x0#5 then some (.vceq (bits w 7 5) (bits w 17 5) (bits w 22 5) (bits w 12 5))
  else
  if bits w 27 5 = 0x1#5 then some (.vcne (bits w 7 5) (bits w 17 5) (bits w 22 5) (bits w 12 5))
  else
  if bits w 27 5 = 0x2#5 then some (.vclt (bits w 7 5) (bits w 17 5) (bits w 22 5) (bits w 12 5))
  else
  if bits w 27 5 = 0x3#5 then some (.vcle (bits w 7 5) (bits w 17 5) (bits w 22 5) (bits w 12 5))
  else
  if bits w 27 5 = 0x4#5 then some (.vcltz (bits w 7 5) (bits w 17 5) (bits w 22 5) (bits w 12 5))
  else
  if bits w 27 5 = 0x5#5 then some (.vclez (bits w 7 5) (bits w 17 5) (bits w 22 5) (bits w 12 5))
  else
  if bits w 27 5 = 0x6#5 then some (.vcun (bits w 7 5) (bits w 17 5) (bits w 22 5) (bits w 12 5))
  else
  if bits w 27 5 = 0x8#5 then some (.vceqS (bits w 7 5) (bits w 17 5) (bits w 22 5) (bits w 12 5))
  else
  if bits w 27 5 = 0x9#5 then some (.vcneS (bits w 7 5) (bits w 17 5) (bits w 22 5) (bits w 12 5))
  else
  if bits w 27 5 = 0xA#5 then some (.vcltS (bits w 7 5) (bits w 17 5) (bits w 22 5) (bits w 12 5))
  else
  if bits w 27 5 = 0xB#5 then some (.vcleS (bits w 7 5) (bits w 17 5) (bits w 22 5) (bits w 12 5))
  else
  if bits w 27 5 = 0xC#5 then some (.vcgtS (bits w 7 5) (bits w 17 5) (bits w 22 5) (bits w 12 5))
  else
  if bits w 27 5 = 0xD#5 then some (.vcgeS (bits w 7 5) (bits w 17 5) (bits w 22 5) (bits w 12 5))
  else
  if bits w 27 5 = 0x10#5 then some (.kand (bits w 7 5) (bits w 17 5) (bits w 22 5) (bits w 12 5))
  else
  if bits w 27 5 = 0x11#5 then some (.kor (bits w 7 5) (bits w 17 5) (bits w 22 5) (bits w 12 5))
  else
  if bits w 27 5 = 0x12#5 then some (.kxor (bits w 7 5) (bits w 17 5) (bits w 22 5) (bits w 12 5))
  else
  if bits w 27 5 = 0x13#5 then some (.kandn (bits w 7 5) (bits w 17 5) (bits w 22 5) (bits w 12 5))
  else
  if bits w 27 5 = 0x14#5 ∧ bits w 22 5 = 0x0#5 then some (.knot (bits w 7 5) (bits w 17 5) (bits w 12 5))
  else
  if bits w 27 5 = 0x15#5 ∧ bits w 12 5 = 0x1F#5 then some (.kwhile (bits w 7 5) (bits w 17 5) (bits w 22 5))
  else
  if bits w 27 5 = 0x16#5 ∧ bits w 22 5 = 0x0#5 ∧ bits w 17 5 = 0x0#5 then some (.kset (bits w 7 5) (bits w 12 5))
  else
  if bits w 27 5 = 0x17#5 ∧ bits w 22 5 = 0x0#5 ∧ bits w 17 5 = 0x0#5 then some (.kclr (bits w 7 5) (bits w 12 5))
  else
  if bits w 27 5 = 0x18#5 ∧ bits w 22 5 = 0x0#5 then some (.kcnt (bits w 7 5) (bits w 17 5) (bits w 12 5))
  else
  if bits w 27 5 = 0x19#5 ∧ bits w 22 5 = 0x0#5 then some (.kfirst (bits w 7 5) (bits w 17 5) (bits w 12 5))
  else
  none

/-- Group VPERM, major 0x4B (R51). -/
def decodeVperm (w : IWord) : Option Instr :=
  if bits w 27 5 = 0x0#5 ∧ bits w 22 5 = 0x0#5 then some (.vbcast (bits w 7 5) (bits w 17 5) (bits w 12 5))
  else
  if bits w 27 5 = 0x1#5 then some (.vslup (bits w 7 5) (bits w 17 5) (bits w 22 5) (bits w 12 5))
  else
  if bits w 27 5 = 0x2#5 then some (.vsldn (bits w 7 5) (bits w 17 5) (bits w 22 5) (bits w 12 5))
  else
  if bits w 27 5 = 0x3#5 then some (.vperm (bits w 7 5) (bits w 17 5) (bits w 22 5) (bits w 12 5))
  else
  if bits w 27 5 = 0x4#5 then some (.vzipl (bits w 7 5) (bits w 17 5) (bits w 22 5) (bits w 12 5))
  else
  if bits w 27 5 = 0x5#5 then some (.vziph (bits w 7 5) (bits w 17 5) (bits w 22 5) (bits w 12 5))
  else
  if bits w 27 5 = 0x6#5 then some (.vunzpe (bits w 7 5) (bits w 17 5) (bits w 22 5) (bits w 12 5))
  else
  if bits w 27 5 = 0x7#5 then some (.vunzpo (bits w 7 5) (bits w 17 5) (bits w 22 5) (bits w 12 5))
  else
  if bits w 27 5 = 0x8#5 ∧ bits w 22 5 = 0x0#5 then some (.vcmprs (bits w 7 5) (bits w 17 5) (bits w 12 5))
  else
  if bits w 27 5 = 0x9#5 ∧ bits w 22 5 = 0x0#5 then some (.vexpnd (bits w 7 5) (bits w 17 5) (bits w 12 5))
  else
  if bits w 27 5 = 0xA#5 ∧ bits w 12 5 = 0x1F#5 then some (.vext (bits w 7 5) (bits w 17 5) (bits w 22 5))
  else
  if bits w 27 5 = 0xB#5 ∧ bits w 12 5 = 0x1F#5 then some (.vins (bits w 7 5) (bits w 17 5) (bits w 22 5))
  else
  if bits w 27 5 = 0xC#5 ∧ bits w 22 5 = 0x0#5 ∧ bits w 17 5 = 0x0#5 then some (.viota (bits w 7 5) (bits w 12 5))
  else
  if bits w 27 5 = 0xD#5 ∧ bits w 22 5 = 0x0#5 then some (.vrev (bits w 7 5) (bits w 17 5) (bits w 12 5))
  else
  none

/-- Group VRED, major 0x4F (R52). -/
def decodeVred (w : IWord) : Option Instr :=
  if bits w 27 5 = 0x0#5 ∧ bits w 22 5 = 0x0#5 then some (.vrsum (bits w 7 5) (bits w 17 5) (bits w 12 5))
  else
  if bits w 27 5 = 0x1#5 ∧ bits w 22 5 = 0x0#5 then some (.vrmax (bits w 7 5) (bits w 17 5) (bits w 12 5))
  else
  if bits w 27 5 = 0x2#5 ∧ bits w 22 5 = 0x0#5 then some (.vrmin (bits w 7 5) (bits w 17 5) (bits w 12 5))
  else
  if bits w 27 5 = 0x3#5 ∧ bits w 22 5 = 0x0#5 then some (.vrand (bits w 7 5) (bits w 17 5) (bits w 12 5))
  else
  if bits w 27 5 = 0x4#5 ∧ bits w 22 5 = 0x0#5 then some (.vror (bits w 7 5) (bits w 17 5) (bits w 12 5))
  else
  if bits w 27 5 = 0x5#5 ∧ bits w 22 5 = 0x0#5 then some (.vscan (bits w 7 5) (bits w 17 5) (bits w 12 5))
  else
  if bits w 27 5 = 0x6#5 ∧ bits w 22 5 = 0x0#5 then some (.vscanx (bits w 7 5) (bits w 17 5) (bits w 12 5))
  else
  if bits w 27 5 = 0x7#5 ∧ bits w 22 5 = 0x0#5 then some (.vrsumw (bits w 7 5) (bits w 17 5) (bits w 12 5))
  else
  none

/-- Group VCVT, major 0x53 (R53). -/
def decodeVcvt (w : IWord) : Option Instr :=
  if bits w 30 2 = 0x0#2 ∧ bits w 27 3 ≠ 0x7#3 then some (.vcvt (bits w 7 5) (bits w 17 5) (bits w 12 5) (bits w 22 5) (bits w 27 3))
  else
  if bits w 30 2 = 0x1#2 ∧ bits w 27 3 ≠ 0x7#3 then some (.vcvtSat (bits w 7 5) (bits w 17 5) (bits w 12 5) (bits w 22 5) (bits w 27 3))
  else
  if bits w 30 2 = 0x2#2 ∧ bits w 27 3 ≠ 0x7#3 then some (.vpack (bits w 7 5) (bits w 17 5) (bits w 12 5) (bits w 22 5) (bits w 27 3))
  else
  if bits w 30 2 = 0x3#2 ∧ bits w 27 3 ≠ 0x7#3 then some (.vunpk (bits w 7 5) (bits w 17 5) (bits w 12 5) (bits w 22 5))
  else
  none

/-- Group VARI, major 0x57 (R49). -/
def decodeVari (w : IWord) : Option Instr :=
  if bits w 27 5 = 0x0#5 then some (.vadd (bits w 7 5) (bits w 17 5) (bits w 22 5) (bits w 12 5))
  else
  if bits w 27 5 = 0x1#5 then some (.vsub (bits w 7 5) (bits w 17 5) (bits w 22 5) (bits w 12 5))
  else
  if bits w 27 5 = 0x2#5 then some (.vmul (bits w 7 5) (bits w 17 5) (bits w 22 5) (bits w 12 5))
  else
  if bits w 27 5 = 0x3#5 then some (.vmac (bits w 7 5) (bits w 17 5) (bits w 22 5) (bits w 12 5))
  else
  if bits w 27 5 = 0x4#5 then some (.vnmac (bits w 7 5) (bits w 17 5) (bits w 22 5) (bits w 12 5))
  else
  if bits w 27 5 = 0x5#5 then some (.vmin (bits w 7 5) (bits w 17 5) (bits w 22 5) (bits w 12 5))
  else
  if bits w 27 5 = 0x6#5 then some (.vmax (bits w 7 5) (bits w 17 5) (bits w 22 5) (bits w 12 5))
  else
  if bits w 27 5 = 0x7#5 then some (.vdiv (bits w 7 5) (bits w 17 5) (bits w 22 5) (bits w 12 5))
  else
  if bits w 27 5 = 0x8#5 then some (.vand (bits w 7 5) (bits w 17 5) (bits w 22 5) (bits w 12 5))
  else
  if bits w 27 5 = 0x9#5 then some (.vor (bits w 7 5) (bits w 17 5) (bits w 22 5) (bits w 12 5))
  else
  if bits w 27 5 = 0xA#5 then some (.vxor (bits w 7 5) (bits w 17 5) (bits w 22 5) (bits w 12 5))
  else
  if bits w 27 5 = 0xB#5 then some (.vsll (bits w 7 5) (bits w 17 5) (bits w 22 5) (bits w 12 5))
  else
  if bits w 27 5 = 0xC#5 then some (.vsrl (bits w 7 5) (bits w 17 5) (bits w 22 5) (bits w 12 5))
  else
  if bits w 27 5 = 0xD#5 then some (.vsra (bits w 7 5) (bits w 17 5) (bits w 22 5) (bits w 12 5))
  else
  if bits w 27 5 = 0xE#5 then some (.vmulh (bits w 7 5) (bits w 17 5) (bits w 22 5) (bits w 12 5))
  else
  if bits w 27 5 = 0xF#5 then some (.vmulhz (bits w 7 5) (bits w 17 5) (bits w 22 5) (bits w 12 5))
  else
  if bits w 27 5 = 0x10#5 ∧ bits w 22 5 = 0x0#5 then some (.vabs (bits w 7 5) (bits w 17 5) (bits w 12 5))
  else
  if bits w 27 5 = 0x11#5 ∧ bits w 22 5 = 0x0#5 then some (.vneg (bits w 7 5) (bits w 17 5) (bits w 12 5))
  else
  if bits w 27 5 = 0x12#5 ∧ bits w 22 5 = 0x0#5 then some (.vsqrt (bits w 7 5) (bits w 17 5) (bits w 12 5))
  else
  if bits w 27 5 = 0x13#5 ∧ bits w 22 5 = 0x0#5 then some (.vrcp (bits w 7 5) (bits w 17 5) (bits w 12 5))
  else
  if bits w 27 5 = 0x14#5 ∧ bits w 22 5 = 0x0#5 then some (.vrsqrt (bits w 7 5) (bits w 17 5) (bits w 12 5))
  else
  if bits w 27 5 = 0x15#5 ∧ bits w 22 5 = 0x0#5 then some (.vexp2 (bits w 7 5) (bits w 17 5) (bits w 12 5))
  else
  if bits w 27 5 = 0x16#5 ∧ bits w 22 5 = 0x0#5 then some (.vmov (bits w 7 5) (bits w 17 5) (bits w 12 5))
  else
  none

/-- Group LOOP, major 0x5B (R45). -/
def decodeLoop (w : IWord) : Option Instr :=
  if bits w 12 3 = 0x0#3 ∧ bits w 7 5 = 0x0#5 then some (.loop (bits w 15 5) (bits w 20 12))
  else
  if bits w 12 3 = 0x1#3 then some (.loopi (bits w 7 5 ++ bits w 15 5) (bits w 20 12))
  else
  if bits w 23 9 = 0x0#9 ∧ bits w 15 5 = 0x0#5 ∧ bits w 12 3 = 0x2#3 then some (.lidx (bits w 7 5) (bits w 20 3))
  else
  if bits w 20 12 = 0x0#12 ∧ bits w 15 5 = 0x0#5 ∧ bits w 12 3 = 0x3#3 ∧ bits w 7 5 = 0x0#5 then some .lbrk
  else
  if bits w 20 12 = 0x0#12 ∧ bits w 15 5 = 0x0#5 ∧ bits w 12 3 = 0x4#3 ∧ bits w 7 5 = 0x0#5 then some .lnext
  else
  none

/-- Group VCFG, major 0x5F (R48). -/
def decodeVcfg (w : IWord) : Option Instr :=
  if bits w 25 7 = 0x0#7 ∧ bits w 15 5 = 0x0#5 ∧ bits w 12 3 = 0x0#3 then some (.vtype (bits w 7 5) (bits w 20 5))
  else
  if bits w 25 7 = 0x0#7 ∧ bits w 12 3 = 0x1#3 then some (.strip (bits w 7 5) (bits w 15 5) (bits w 20 5))
  else
  if bits w 25 7 = 0x0#7 ∧ bits w 20 5 = 0x0#5 ∧ bits w 15 5 = 0x0#5 ∧ bits w 12 3 = 0x2#3 then some (.vlmax (bits w 7 5))
  else
  if bits w 25 7 = 0x0#7 ∧ bits w 12 3 = 0x3#3 ∧ bits w 7 5 = 0x0#5 then some (.wopen (bits w 15 5) (bits w 20 5))
  else
  if bits w 25 7 = 0x0#7 ∧ bits w 20 5 = 0x0#5 ∧ bits w 12 3 = 0x4#3 ∧ bits w 7 5 = 0x0#5 then some (.wmerge (bits w 15 5))
  else
  none

/-- Group BR, major 0x63 (R44). -/
def decodeBr (w : IWord) : Option Instr :=
  if bits w 12 3 = 0x0#3 then some (.beq (bits w 15 5) (bits w 20 5) (bits w 25 7 ++ bits w 7 5))
  else
  if bits w 12 3 = 0x1#3 then some (.bne (bits w 15 5) (bits w 20 5) (bits w 25 7 ++ bits w 7 5))
  else
  if bits w 12 3 = 0x4#3 then some (.blt (bits w 15 5) (bits w 20 5) (bits w 25 7 ++ bits w 7 5))
  else
  if bits w 12 3 = 0x5#3 then some (.bge (bits w 15 5) (bits w 20 5) (bits w 25 7 ++ bits w 7 5))
  else
  if bits w 12 3 = 0x6#3 then some (.bltz (bits w 15 5) (bits w 20 5) (bits w 25 7 ++ bits w 7 5))
  else
  if bits w 12 3 = 0x7#3 then some (.bgez (bits w 15 5) (bits w 20 5) (bits w 25 7 ++ bits w 7 5))
  else
  none

/-- Group JALR, major 0x67 (R44). -/
def decodeJalr (w : IWord) : Option Instr :=
  if bits w 12 3 = 0x0#3 then some (.jalr (bits w 7 5) (bits w 15 5) (bits w 20 12))
  else
  none

/-- Group FAB, major 0x6B (R60). -/
def decodeFab (w : IWord) : Option Instr :=
  if bits w 25 7 = 0x0#7 ∧ bits w 12 3 = 0x0#3 then some (.fsend (bits w 7 5) (bits w 15 5) (bits w 20 5))
  else
  if bits w 25 7 = 0x0#7 ∧ bits w 12 3 = 0x1#3 then some (.frecv (bits w 7 5) (bits w 15 5) (bits w 20 5))
  else
  if bits w 25 7 = 0x0#7 ∧ bits w 12 3 = 0x2#3 then some (.fpath (bits w 7 5) (bits w 15 5) (bits w 20 5))
  else
  if bits w 25 7 = 0x0#7 ∧ bits w 20 5 = 0x0#5 ∧ bits w 12 3 = 0x3#3 then some (.fprobe (bits w 7 5) (bits w 15 5))
  else
  none

/-- Group JAL, major 0x6F (R44). -/
def decodeJal (w : IWord) : Option Instr :=
  some (.jal (bits w 7 5) (bits w 12 20))

/-- Group SYS, major 0x73 (R46). -/
def decodeSys (w : IWord) : Option Instr :=
  if bits w 20 12 = 0x0#12 ∧ bits w 15 5 = 0x0#5 ∧ bits w 12 3 = 0x0#3 ∧ bits w 7 5 = 0x0#5 then some .svc
  else
  if bits w 20 12 = 0x1#12 ∧ bits w 15 5 = 0x0#5 ∧ bits w 12 3 = 0x0#3 ∧ bits w 7 5 = 0x0#5 then some .brk
  else
  if bits w 20 12 = 0x2#12 ∧ bits w 15 5 = 0x0#5 ∧ bits w 12 3 = 0x0#3 ∧ bits w 7 5 = 0x0#5 then some .yield
  else
  if bits w 20 12 = 0x3#12 ∧ bits w 15 5 = 0x0#5 ∧ bits w 12 3 = 0x0#3 ∧ bits w 7 5 = 0x0#5 then some .ifence
  else
  if bits w 15 5 = 0x0#5 ∧ bits w 12 3 = 0x1#3 then some (.getc (bits w 7 5) (bits w 20 12))
  else
  if bits w 12 3 = 0x2#3 ∧ bits w 7 5 = 0x0#5 then some (.setc (bits w 15 5) (bits w 20 12))
  else
  if bits w 12 3 = 0x3#3 then some (.swapc (bits w 7 5) (bits w 15 5) (bits w 20 12))
  else
  if bits w 20 12 = 0x0#12 ∧ bits w 12 3 = 0x4#3 ∧ bits w 7 5 = 0x0#5 then some (.sleep (bits w 15 5))
  else
  none

/-- Group VARS, major 0x77 (R49). -/
def decodeVars (w : IWord) : Option Instr :=
  if bits w 27 5 = 0x0#5 then some (.vaddS (bits w 7 5) (bits w 17 5) (bits w 22 5) (bits w 12 5))
  else
  if bits w 27 5 = 0x1#5 then some (.vsubS (bits w 7 5) (bits w 17 5) (bits w 22 5) (bits w 12 5))
  else
  if bits w 27 5 = 0x2#5 then some (.vmulS (bits w 7 5) (bits w 17 5) (bits w 22 5) (bits w 12 5))
  else
  if bits w 27 5 = 0x3#5 then some (.vmacS (bits w 7 5) (bits w 17 5) (bits w 22 5) (bits w 12 5))
  else
  if bits w 27 5 = 0x4#5 then some (.vnmacS (bits w 7 5) (bits w 17 5) (bits w 22 5) (bits w 12 5))
  else
  if bits w 27 5 = 0x5#5 then some (.vminS (bits w 7 5) (bits w 17 5) (bits w 22 5) (bits w 12 5))
  else
  if bits w 27 5 = 0x6#5 then some (.vmaxS (bits w 7 5) (bits w 17 5) (bits w 22 5) (bits w 12 5))
  else
  if bits w 27 5 = 0x7#5 then some (.vdivS (bits w 7 5) (bits w 17 5) (bits w 22 5) (bits w 12 5))
  else
  if bits w 27 5 = 0x8#5 then some (.vandS (bits w 7 5) (bits w 17 5) (bits w 22 5) (bits w 12 5))
  else
  if bits w 27 5 = 0x9#5 then some (.vorS (bits w 7 5) (bits w 17 5) (bits w 22 5) (bits w 12 5))
  else
  if bits w 27 5 = 0xA#5 then some (.vxorS (bits w 7 5) (bits w 17 5) (bits w 22 5) (bits w 12 5))
  else
  if bits w 27 5 = 0xB#5 then some (.vsllS (bits w 7 5) (bits w 17 5) (bits w 22 5) (bits w 12 5))
  else
  if bits w 27 5 = 0xC#5 then some (.vsrlS (bits w 7 5) (bits w 17 5) (bits w 22 5) (bits w 12 5))
  else
  if bits w 27 5 = 0xD#5 then some (.vsraS (bits w 7 5) (bits w 17 5) (bits w 22 5) (bits w 12 5))
  else
  if bits w 27 5 = 0xE#5 then some (.vmulhS (bits w 7 5) (bits w 17 5) (bits w 22 5) (bits w 12 5))
  else
  if bits w 27 5 = 0xF#5 then some (.vmulhzS (bits w 7 5) (bits w 17 5) (bits w 22 5) (bits w 12 5))
  else
  none

/-- Group TASK, major 0x7B (R60). -/
def decodeTask (w : IWord) : Option Instr :=
  if bits w 25 7 = 0x0#7 ∧ bits w 20 5 = 0x0#5 ∧ bits w 12 3 = 0x0#3 ∧ bits w 7 5 = 0x0#5 then some (.spawn (bits w 15 5))
  else
  if bits w 25 7 = 0x0#7 ∧ bits w 20 5 = 0x0#5 ∧ bits w 15 5 = 0x0#5 ∧ bits w 12 3 = 0x1#3 ∧ bits w 7 5 = 0x0#5 then some .tend
  else
  if bits w 25 7 = 0x0#7 ∧ bits w 20 5 = 0x0#5 ∧ bits w 12 3 = 0x2#3 ∧ bits w 7 5 = 0x0#5 then some (.jdec (bits w 15 5))
  else
  if bits w 25 7 = 0x0#7 ∧ bits w 12 3 = 0x3#3 ∧ bits w 7 5 = 0x0#5 then some (.qpush (bits w 15 5) (bits w 20 5))
  else
  if bits w 25 7 = 0x0#7 ∧ bits w 12 3 = 0x4#3 then some (.qpop (bits w 7 5) (bits w 15 5) (bits w 20 5))
  else
  if bits w 25 7 = 0x0#7 ∧ bits w 20 5 = 0x0#5 ∧ bits w 15 5 = 0x0#5 ∧ bits w 12 3 = 0x5#3 then some (.tself (bits w 7 5))
  else
  none

/-- The instruction a word stands for before operand limits are tested; none for a word that is no instruction (R40, R63). -/
def decodeRaw (w : IWord) : Option Instr :=
  let op := bits w 0 7
  if op = 0x3#7 then decodeLd w
  else
  if op = 0x7#7 then decodeVld w
  else
  if op = 0xB#7 then decodeMat w
  else
  if op = 0x13#7 then decodeOpi w
  else
  if op = 0x17#7 then decodeAupc w
  else
  if op = 0x1B#7 then decodeCopy w
  else
  if op = 0x23#7 then decodeSt w
  else
  if op = 0x27#7 then decodeVst w
  else
  if op = 0x2B#7 then decodeSync w
  else
  if op = 0x2F#7 then decodeAtom w
  else
  if op = 0x33#7 then decodeOp w
  else
  if op = 0x37#7 then decodeLui w
  else
  if op = 0x3B#7 then decodeRing w
  else
  if op = 0x3F#7 then decodeHndl w
  else
  if op = 0x47#7 then decodeVmask w
  else
  if op = 0x4B#7 then decodeVperm w
  else
  if op = 0x4F#7 then decodeVred w
  else
  if op = 0x53#7 then decodeVcvt w
  else
  if op = 0x57#7 then decodeVari w
  else
  if op = 0x5B#7 then decodeLoop w
  else
  if op = 0x5F#7 then decodeVcfg w
  else
  if op = 0x63#7 then decodeBr w
  else
  if op = 0x67#7 then decodeJalr w
  else
  if op = 0x6B#7 then decodeFab w
  else
  if op = 0x6F#7 then decodeJal w
  else
  if op = 0x73#7 then decodeSys w
  else
  if op = 0x77#7 then decodeVars w
  else
  if op = 0x7B#7 then decodeTask w
  else
  none

/-- What the front end makes of a word (R63). -/
inductive Decoded
  | ok (i : Instr)
  | illegalInstruction
  | illegalOperand
deriving DecidableEq, Repr

/-- A `vunpk` word whose rounding field is not 0, which is an operand limit (R53). Log 18 (DEDUCED). -/
def badUnpkRnd (w : IWord) : Bool :=
  decide (bits w 0 7 = 0x53#7 ∧ bits w 30 2 = 0x3#2 ∧ bits w 27 3 ≠ 0x0#3)

/-- `decode(w)` of R63: the first test that fails decides. Log 18, 57 (DEDUCED). -/
def decode (w : IWord) : Decoded :=
  if w = 0 ∨ w = 0xFFFFFFFF#32 ∨ bits w 0 2 ≠ 3#2 then .illegalInstruction
  else
    match decodeRaw w with
    | none => .illegalInstruction
    | some i => if badUnpkRnd w then .illegalOperand else if i.wf then .ok i else .illegalOperand

/-- A word from its four bytes in memory, the first lowest (R8). -/
def wordOfBytes (b0 b1 b2 b3 : Byte) : IWord := b3 ++ b2 ++ b1 ++ b0

/-- The decoder on bytes: the first word is decoded and the rest left; too few bytes give nothing. -/
def decodeBytes : List Byte → Option (Decoded × List Byte)
  | b0 :: b1 :: b2 :: b3 :: rest => some (decode (wordOfBytes b0 b1 b2 b3), rest)
  | _ => none

/-- The host's question: the instruction the decoder reads from a word given as a number. -/
def decodeTableWord (_nbits w : Nat) : Option Instr :=
  let v := BitVec.ofNat 32 w
  match decodeBytes [bits v 0 8, bits v 8 8, bits v 16 8, bits v 24 8] with
  | some (.ok i, _) => some i
  | _ => none

/-- The word of an instruction (R38 to R60); an event has none. Log 17 (DEDUCED). -/
def encode : Instr → Option IWord
  | .add d a b => some (0x0#7 ++ b ++ a ++ 0x0#3 ++ d ++ 0x33#7)
  | .sll d a b => some (0x0#7 ++ b ++ a ++ 0x1#3 ++ d ++ 0x33#7)
  | .slt d a b => some (0x0#7 ++ b ++ a ++ 0x2#3 ++ d ++ 0x33#7)
  | .sltz d a b => some (0x0#7 ++ b ++ a ++ 0x3#3 ++ d ++ 0x33#7)
  | .xor d a b => some (0x0#7 ++ b ++ a ++ 0x4#3 ++ d ++ 0x33#7)
  | .srl d a b => some (0x0#7 ++ b ++ a ++ 0x5#3 ++ d ++ 0x33#7)
  | .or d a b => some (0x0#7 ++ b ++ a ++ 0x6#3 ++ d ++ 0x33#7)
  | .and d a b => some (0x0#7 ++ b ++ a ++ 0x7#3 ++ d ++ 0x33#7)
  | .sub d a b => some (0x20#7 ++ b ++ a ++ 0x0#3 ++ d ++ 0x33#7)
  | .sra d a b => some (0x20#7 ++ b ++ a ++ 0x5#3 ++ d ++ 0x33#7)
  | .mul d a b => some (0x1#7 ++ b ++ a ++ 0x0#3 ++ d ++ 0x33#7)
  | .mulh d a b => some (0x1#7 ++ b ++ a ++ 0x1#3 ++ d ++ 0x33#7)
  | .mulhz d a b => some (0x1#7 ++ b ++ a ++ 0x3#3 ++ d ++ 0x33#7)
  | .div d a b => some (0x1#7 ++ b ++ a ++ 0x4#3 ++ d ++ 0x33#7)
  | .divz d a b => some (0x1#7 ++ b ++ a ++ 0x5#3 ++ d ++ 0x33#7)
  | .rem d a b => some (0x1#7 ++ b ++ a ++ 0x6#3 ++ d ++ 0x33#7)
  | .remz d a b => some (0x1#7 ++ b ++ a ++ 0x7#3 ++ d ++ 0x33#7)
  | .min d a b => some (0x5#7 ++ b ++ a ++ 0x0#3 ++ d ++ 0x33#7)
  | .max d a b => some (0x5#7 ++ b ++ a ++ 0x1#3 ++ d ++ 0x33#7)
  | .minz d a b => some (0x5#7 ++ b ++ a ++ 0x2#3 ++ d ++ 0x33#7)
  | .maxz d a b => some (0x5#7 ++ b ++ a ++ 0x3#3 ++ d ++ 0x33#7)
  | .clz d a => some (0x5#7 ++ 0x0#5 ++ a ++ 0x4#3 ++ d ++ 0x33#7)
  | .ctz d a => some (0x5#7 ++ 0x0#5 ++ a ++ 0x5#3 ++ d ++ 0x33#7)
  | .popc d a => some (0x5#7 ++ 0x0#5 ++ a ++ 0x6#3 ++ d ++ 0x33#7)
  | .bswap d a => some (0x5#7 ++ 0x0#5 ++ a ++ 0x7#3 ++ d ++ 0x33#7)
  | .addi d a i => some (i ++ a ++ 0x0#3 ++ d ++ 0x13#7)
  | .slli d a h => some (0x0#6 ++ h ++ a ++ 0x1#3 ++ d ++ 0x13#7)
  | .slti d a i => some (i ++ a ++ 0x2#3 ++ d ++ 0x13#7)
  | .sltiz d a i => some (i ++ a ++ 0x3#3 ++ d ++ 0x13#7)
  | .xori d a i => some (i ++ a ++ 0x4#3 ++ d ++ 0x13#7)
  | .srli d a h => some (0x0#6 ++ h ++ a ++ 0x5#3 ++ d ++ 0x13#7)
  | .srai d a h => some (0x10#6 ++ h ++ a ++ 0x5#3 ++ d ++ 0x13#7)
  | .ori d a i => some (i ++ a ++ 0x6#3 ++ d ++ 0x13#7)
  | .andi d a i => some (i ++ a ++ 0x7#3 ++ d ++ 0x13#7)
  | .ldB d a i => some (i ++ a ++ 0x0#3 ++ d ++ 0x3#7)
  | .ldH d a i => some (i ++ a ++ 0x1#3 ++ d ++ 0x3#7)
  | .ldW d a i => some (i ++ a ++ 0x2#3 ++ d ++ 0x3#7)
  | .ldD d a i => some (i ++ a ++ 0x3#3 ++ d ++ 0x3#7)
  | .ldBz d a i => some (i ++ a ++ 0x4#3 ++ d ++ 0x3#7)
  | .ldHz d a i => some (i ++ a ++ 0x5#3 ++ d ++ 0x3#7)
  | .ldWz d a i => some (i ++ a ++ 0x6#3 ++ d ++ 0x3#7)
  | .stB a b i => some ((i.extractLsb' 5 7) ++ b ++ a ++ 0x0#3 ++ (i.extractLsb' 0 5) ++ 0x23#7)
  | .stH a b i => some ((i.extractLsb' 5 7) ++ b ++ a ++ 0x1#3 ++ (i.extractLsb' 0 5) ++ 0x23#7)
  | .stW a b i => some ((i.extractLsb' 5 7) ++ b ++ a ++ 0x2#3 ++ (i.extractLsb' 0 5) ++ 0x23#7)
  | .stD a b i => some ((i.extractLsb' 5 7) ++ b ++ a ++ 0x3#3 ++ (i.extractLsb' 0 5) ++ 0x23#7)
  | .beq a b i => some ((i.extractLsb' 5 7) ++ b ++ a ++ 0x0#3 ++ (i.extractLsb' 0 5) ++ 0x63#7)
  | .bne a b i => some ((i.extractLsb' 5 7) ++ b ++ a ++ 0x1#3 ++ (i.extractLsb' 0 5) ++ 0x63#7)
  | .blt a b i => some ((i.extractLsb' 5 7) ++ b ++ a ++ 0x4#3 ++ (i.extractLsb' 0 5) ++ 0x63#7)
  | .bge a b i => some ((i.extractLsb' 5 7) ++ b ++ a ++ 0x5#3 ++ (i.extractLsb' 0 5) ++ 0x63#7)
  | .bltz a b i => some ((i.extractLsb' 5 7) ++ b ++ a ++ 0x6#3 ++ (i.extractLsb' 0 5) ++ 0x63#7)
  | .bgez a b i => some ((i.extractLsb' 5 7) ++ b ++ a ++ 0x7#3 ++ (i.extractLsb' 0 5) ++ 0x63#7)
  | .jal d i => some (i ++ d ++ 0x6F#7)
  | .jalr d a i => some (i ++ a ++ 0x0#3 ++ d ++ 0x67#7)
  | .lui d i => some (i ++ d ++ 0x37#7)
  | .aupc d i => some (i ++ d ++ 0x17#7)
  | .loop a i => some (i ++ a ++ 0x0#3 ++ 0x0#5 ++ 0x5B#7)
  | .loopi n i => some (i ++ (n.extractLsb' 0 5) ++ 0x1#3 ++ (n.extractLsb' 5 5) ++ 0x5B#7)
  | .lidx d e => some (0x0#9 ++ e ++ 0x0#5 ++ 0x2#3 ++ d ++ 0x5B#7)
  | .lbrk => some (0x0#12 ++ 0x0#5 ++ 0x3#3 ++ 0x0#5 ++ 0x5B#7)
  | .lnext => some (0x0#12 ++ 0x0#5 ++ 0x4#3 ++ 0x0#5 ++ 0x5B#7)
  | .svc => some (0x0#12 ++ 0x0#5 ++ 0x0#3 ++ 0x0#5 ++ 0x73#7)
  | .brk => some (0x1#12 ++ 0x0#5 ++ 0x0#3 ++ 0x0#5 ++ 0x73#7)
  | .yield => some (0x2#12 ++ 0x0#5 ++ 0x0#3 ++ 0x0#5 ++ 0x73#7)
  | .ifence => some (0x3#12 ++ 0x0#5 ++ 0x0#3 ++ 0x0#5 ++ 0x73#7)
  | .getc d c => some (c ++ 0x0#5 ++ 0x1#3 ++ d ++ 0x73#7)
  | .setc a c => some (c ++ a ++ 0x2#3 ++ 0x0#5 ++ 0x73#7)
  | .swapc d a c => some (c ++ a ++ 0x3#3 ++ d ++ 0x73#7)
  | .sleep a => some (0x0#12 ++ a ++ 0x4#3 ++ 0x0#5 ++ 0x73#7)
  | .amoaddW d a b s r q => some (0x0#5 ++ q ++ r ++ b ++ a ++ s ++ d ++ 0x2F#7)
  | .amoaddD d a b s r q => some (0x1#5 ++ q ++ r ++ b ++ a ++ s ++ d ++ 0x2F#7)
  | .amoswapW d a b s r q => some (0x2#5 ++ q ++ r ++ b ++ a ++ s ++ d ++ 0x2F#7)
  | .amoswapD d a b s r q => some (0x3#5 ++ q ++ r ++ b ++ a ++ s ++ d ++ 0x2F#7)
  | .amoandD d a b s r q => some (0x4#5 ++ q ++ r ++ b ++ a ++ s ++ d ++ 0x2F#7)
  | .amoorD d a b s r q => some (0x5#5 ++ q ++ r ++ b ++ a ++ s ++ d ++ 0x2F#7)
  | .amoxorD d a b s r q => some (0x6#5 ++ q ++ r ++ b ++ a ++ s ++ d ++ 0x2F#7)
  | .amominD d a b s r q => some (0x7#5 ++ q ++ r ++ b ++ a ++ s ++ d ++ 0x2F#7)
  | .amomaxD d a b s r q => some (0x8#5 ++ q ++ r ++ b ++ a ++ s ++ d ++ 0x2F#7)
  | .amominzD d a b s r q => some (0x9#5 ++ q ++ r ++ b ++ a ++ s ++ d ++ 0x2F#7)
  | .amomaxzD d a b s r q => some (0xA#5 ++ q ++ r ++ b ++ a ++ s ++ d ++ 0x2F#7)
  | .amocasD d a b s r q => some (0xB#5 ++ q ++ r ++ b ++ a ++ s ++ d ++ 0x2F#7)
  | .amofaddS d a b s r q => some (0xC#5 ++ q ++ r ++ b ++ a ++ s ++ d ++ 0x2F#7)
  | .amofmaxS d a b s r q => some (0xD#5 ++ q ++ r ++ b ++ a ++ s ++ d ++ 0x2F#7)
  | .vtype d t => some (0x0#7 ++ t ++ 0x0#5 ++ 0x0#3 ++ d ++ 0x5F#7)
  | .strip d a k => some (0x0#7 ++ k ++ a ++ 0x1#3 ++ d ++ 0x5F#7)
  | .vlmax d => some (0x0#7 ++ 0x0#5 ++ 0x0#5 ++ 0x2#3 ++ d ++ 0x5F#7)
  | .wopen a b => some (0x0#7 ++ b ++ a ++ 0x3#3 ++ 0x0#5 ++ 0x5F#7)
  | .wmerge a => some (0x0#7 ++ 0x0#5 ++ a ++ 0x4#3 ++ 0x0#5 ++ 0x5F#7)
  | .vadd d a b k => some (0x0#5 ++ b ++ a ++ k ++ d ++ 0x57#7)
  | .vsub d a b k => some (0x1#5 ++ b ++ a ++ k ++ d ++ 0x57#7)
  | .vmul d a b k => some (0x2#5 ++ b ++ a ++ k ++ d ++ 0x57#7)
  | .vmac d a b k => some (0x3#5 ++ b ++ a ++ k ++ d ++ 0x57#7)
  | .vnmac d a b k => some (0x4#5 ++ b ++ a ++ k ++ d ++ 0x57#7)
  | .vmin d a b k => some (0x5#5 ++ b ++ a ++ k ++ d ++ 0x57#7)
  | .vmax d a b k => some (0x6#5 ++ b ++ a ++ k ++ d ++ 0x57#7)
  | .vdiv d a b k => some (0x7#5 ++ b ++ a ++ k ++ d ++ 0x57#7)
  | .vand d a b k => some (0x8#5 ++ b ++ a ++ k ++ d ++ 0x57#7)
  | .vor d a b k => some (0x9#5 ++ b ++ a ++ k ++ d ++ 0x57#7)
  | .vxor d a b k => some (0xA#5 ++ b ++ a ++ k ++ d ++ 0x57#7)
  | .vsll d a b k => some (0xB#5 ++ b ++ a ++ k ++ d ++ 0x57#7)
  | .vsrl d a b k => some (0xC#5 ++ b ++ a ++ k ++ d ++ 0x57#7)
  | .vsra d a b k => some (0xD#5 ++ b ++ a ++ k ++ d ++ 0x57#7)
  | .vmulh d a b k => some (0xE#5 ++ b ++ a ++ k ++ d ++ 0x57#7)
  | .vmulhz d a b k => some (0xF#5 ++ b ++ a ++ k ++ d ++ 0x57#7)
  | .vabs d a k => some (0x10#5 ++ 0x0#5 ++ a ++ k ++ d ++ 0x57#7)
  | .vneg d a k => some (0x11#5 ++ 0x0#5 ++ a ++ k ++ d ++ 0x57#7)
  | .vsqrt d a k => some (0x12#5 ++ 0x0#5 ++ a ++ k ++ d ++ 0x57#7)
  | .vrcp d a k => some (0x13#5 ++ 0x0#5 ++ a ++ k ++ d ++ 0x57#7)
  | .vrsqrt d a k => some (0x14#5 ++ 0x0#5 ++ a ++ k ++ d ++ 0x57#7)
  | .vexp2 d a k => some (0x15#5 ++ 0x0#5 ++ a ++ k ++ d ++ 0x57#7)
  | .vmov d a k => some (0x16#5 ++ 0x0#5 ++ a ++ k ++ d ++ 0x57#7)
  | .vaddS d a b k => some (0x0#5 ++ b ++ a ++ k ++ d ++ 0x77#7)
  | .vsubS d a b k => some (0x1#5 ++ b ++ a ++ k ++ d ++ 0x77#7)
  | .vmulS d a b k => some (0x2#5 ++ b ++ a ++ k ++ d ++ 0x77#7)
  | .vmacS d a b k => some (0x3#5 ++ b ++ a ++ k ++ d ++ 0x77#7)
  | .vnmacS d a b k => some (0x4#5 ++ b ++ a ++ k ++ d ++ 0x77#7)
  | .vminS d a b k => some (0x5#5 ++ b ++ a ++ k ++ d ++ 0x77#7)
  | .vmaxS d a b k => some (0x6#5 ++ b ++ a ++ k ++ d ++ 0x77#7)
  | .vdivS d a b k => some (0x7#5 ++ b ++ a ++ k ++ d ++ 0x77#7)
  | .vandS d a b k => some (0x8#5 ++ b ++ a ++ k ++ d ++ 0x77#7)
  | .vorS d a b k => some (0x9#5 ++ b ++ a ++ k ++ d ++ 0x77#7)
  | .vxorS d a b k => some (0xA#5 ++ b ++ a ++ k ++ d ++ 0x77#7)
  | .vsllS d a b k => some (0xB#5 ++ b ++ a ++ k ++ d ++ 0x77#7)
  | .vsrlS d a b k => some (0xC#5 ++ b ++ a ++ k ++ d ++ 0x77#7)
  | .vsraS d a b k => some (0xD#5 ++ b ++ a ++ k ++ d ++ 0x77#7)
  | .vmulhS d a b k => some (0xE#5 ++ b ++ a ++ k ++ d ++ 0x77#7)
  | .vmulhzS d a b k => some (0xF#5 ++ b ++ a ++ k ++ d ++ 0x77#7)
  | .vceq d a b k => some (0x0#5 ++ b ++ a ++ k ++ d ++ 0x47#7)
  | .vcne d a b k => some (0x1#5 ++ b ++ a ++ k ++ d ++ 0x47#7)
  | .vclt d a b k => some (0x2#5 ++ b ++ a ++ k ++ d ++ 0x47#7)
  | .vcle d a b k => some (0x3#5 ++ b ++ a ++ k ++ d ++ 0x47#7)
  | .vcltz d a b k => some (0x4#5 ++ b ++ a ++ k ++ d ++ 0x47#7)
  | .vclez d a b k => some (0x5#5 ++ b ++ a ++ k ++ d ++ 0x47#7)
  | .vcun d a b k => some (0x6#5 ++ b ++ a ++ k ++ d ++ 0x47#7)
  | .vceqS d a b k => some (0x8#5 ++ b ++ a ++ k ++ d ++ 0x47#7)
  | .vcneS d a b k => some (0x9#5 ++ b ++ a ++ k ++ d ++ 0x47#7)
  | .vcltS d a b k => some (0xA#5 ++ b ++ a ++ k ++ d ++ 0x47#7)
  | .vcleS d a b k => some (0xB#5 ++ b ++ a ++ k ++ d ++ 0x47#7)
  | .vcgtS d a b k => some (0xC#5 ++ b ++ a ++ k ++ d ++ 0x47#7)
  | .vcgeS d a b k => some (0xD#5 ++ b ++ a ++ k ++ d ++ 0x47#7)
  | .kand d a b k => some (0x10#5 ++ b ++ a ++ k ++ d ++ 0x47#7)
  | .kor d a b k => some (0x11#5 ++ b ++ a ++ k ++ d ++ 0x47#7)
  | .kxor d a b k => some (0x12#5 ++ b ++ a ++ k ++ d ++ 0x47#7)
  | .kandn d a b k => some (0x13#5 ++ b ++ a ++ k ++ d ++ 0x47#7)
  | .knot d a k => some (0x14#5 ++ 0x0#5 ++ a ++ k ++ d ++ 0x47#7)
  | .kwhile d a b => some (0x15#5 ++ b ++ a ++ 0x1F#5 ++ d ++ 0x47#7)
  | .kset d k => some (0x16#5 ++ 0x0#5 ++ 0x0#5 ++ k ++ d ++ 0x47#7)
  | .kclr d k => some (0x17#5 ++ 0x0#5 ++ 0x0#5 ++ k ++ d ++ 0x47#7)
  | .kcnt d a k => some (0x18#5 ++ 0x0#5 ++ a ++ k ++ d ++ 0x47#7)
  | .kfirst d a k => some (0x19#5 ++ 0x0#5 ++ a ++ k ++ d ++ 0x47#7)
  | .vbcast d a k => some (0x0#5 ++ 0x0#5 ++ a ++ k ++ d ++ 0x4B#7)
  | .vslup d a b k => some (0x1#5 ++ b ++ a ++ k ++ d ++ 0x4B#7)
  | .vsldn d a b k => some (0x2#5 ++ b ++ a ++ k ++ d ++ 0x4B#7)
  | .vperm d a b k => some (0x3#5 ++ b ++ a ++ k ++ d ++ 0x4B#7)
  | .vzipl d a b k => some (0x4#5 ++ b ++ a ++ k ++ d ++ 0x4B#7)
  | .vziph d a b k => some (0x5#5 ++ b ++ a ++ k ++ d ++ 0x4B#7)
  | .vunzpe d a b k => some (0x6#5 ++ b ++ a ++ k ++ d ++ 0x4B#7)
  | .vunzpo d a b k => some (0x7#5 ++ b ++ a ++ k ++ d ++ 0x4B#7)
  | .vcmprs d a k => some (0x8#5 ++ 0x0#5 ++ a ++ k ++ d ++ 0x4B#7)
  | .vexpnd d a k => some (0x9#5 ++ 0x0#5 ++ a ++ k ++ d ++ 0x4B#7)
  | .vext d a b => some (0xA#5 ++ b ++ a ++ 0x1F#5 ++ d ++ 0x4B#7)
  | .vins d a b => some (0xB#5 ++ b ++ a ++ 0x1F#5 ++ d ++ 0x4B#7)
  | .viota d k => some (0xC#5 ++ 0x0#5 ++ 0x0#5 ++ k ++ d ++ 0x4B#7)
  | .vrev d a k => some (0xD#5 ++ 0x0#5 ++ a ++ k ++ d ++ 0x4B#7)
  | .vrsum d a k => some (0x0#5 ++ 0x0#5 ++ a ++ k ++ d ++ 0x4F#7)
  | .vrmax d a k => some (0x1#5 ++ 0x0#5 ++ a ++ k ++ d ++ 0x4F#7)
  | .vrmin d a k => some (0x2#5 ++ 0x0#5 ++ a ++ k ++ d ++ 0x4F#7)
  | .vrand d a k => some (0x3#5 ++ 0x0#5 ++ a ++ k ++ d ++ 0x4F#7)
  | .vror d a k => some (0x4#5 ++ 0x0#5 ++ a ++ k ++ d ++ 0x4F#7)
  | .vscan d a k => some (0x5#5 ++ 0x0#5 ++ a ++ k ++ d ++ 0x4F#7)
  | .vscanx d a k => some (0x6#5 ++ 0x0#5 ++ a ++ k ++ d ++ 0x4F#7)
  | .vrsumw d a k => some (0x7#5 ++ 0x0#5 ++ a ++ k ++ d ++ 0x4F#7)
  | .vcvt d a k s r => some (0x0#2 ++ r ++ s ++ a ++ k ++ d ++ 0x53#7)
  | .vcvtSat d a k s r => some (0x1#2 ++ r ++ s ++ a ++ k ++ d ++ 0x53#7)
  | .vpack d a k s r => some (0x2#2 ++ r ++ s ++ a ++ k ++ d ++ 0x53#7)
  | .vunpk d a k s => some (0x3#2 ++ 0x0#3 ++ s ++ a ++ k ++ d ++ 0x53#7)
  | .vld d a k o => some (0x0#5 ++ o ++ a ++ k ++ d ++ 0x7#7)
  | .vlds d a b k => some (0x1#5 ++ b ++ a ++ k ++ d ++ 0x7#7)
  | .vldx d a b k => some (0x2#5 ++ b ++ a ++ k ++ d ++ 0x7#7)
  | .vldff d a k o => some (0x3#5 ++ o ++ a ++ k ++ d ++ 0x7#7)
  | .vldseg d a n k t => some (n ++ t ++ a ++ k ++ d ++ 0x7#7)
  | .vldf d a k o => some (0xB#5 ++ o ++ a ++ k ++ d ++ 0x7#7)
  | .vldb d a k o => some (0xC#5 ++ o ++ a ++ k ++ d ++ 0x7#7)
  | .vst d a k o => some (0x0#5 ++ o ++ a ++ k ++ d ++ 0x27#7)
  | .vsts d a b k => some (0x1#5 ++ b ++ a ++ k ++ d ++ 0x27#7)
  | .vstx d a b k => some (0x2#5 ++ b ++ a ++ k ++ d ++ 0x27#7)
  | .vstseg d a n k t => some (n ++ t ++ a ++ k ++ d ++ 0x27#7)
  | .vstf d a k o => some (0xB#5 ++ o ++ a ++ k ++ d ++ 0x27#7)
  | .vstxa d a b k => some (0xC#5 ++ b ++ a ++ k ++ d ++ 0x27#7)
  | .vamo d a b k => some (0xD#5 ++ b ++ a ++ k ++ d ++ 0x27#7)
  | .mld a b y => some (0x0#2 ++ y ++ b ++ a ++ 0x0#3 ++ 0x0#5 ++ 0xB#7)
  | .mswap => some (0x0#7 ++ 0x0#5 ++ 0x0#5 ++ 0x1#3 ++ 0x0#5 ++ 0xB#7)
  | .mstr x a b c y => some (0x0#1 ++ c ++ y ++ b ++ a ++ 0x2#3 ++ 0x0#3 ++ x ++ 0xB#7)
  | .mrd d x a => some (0x0#7 ++ 0x0#3 ++ x ++ a ++ 0x3#3 ++ d ++ 0xB#7)
  | .mzero x => some (0x0#7 ++ 0x0#5 ++ 0x0#5 ++ 0x4#3 ++ 0x0#3 ++ x ++ 0xB#7)
  | .mst x a b y => some (0x0#2 ++ y ++ b ++ a ++ 0x5#3 ++ 0x0#3 ++ x ++ 0xB#7)
  | .cpy d a b p => some (0x0#3 ++ p ++ b ++ a ++ 0x0#3 ++ d ++ 0x1B#7)
  | .cpyr d a b p => some (0x0#3 ++ p ++ b ++ a ++ 0x1#3 ++ d ++ 0x1B#7)
  | .cwait d a b w => some (w ++ b ++ a ++ 0x2#3 ++ d ++ 0x1B#7)
  | .sbind d a e p => some (e ++ p ++ 0x0#5 ++ a ++ 0x3#3 ++ d ++ 0x1B#7)
  | .sunbind d => some (0x0#7 ++ 0x0#5 ++ 0x0#5 ++ 0x4#3 ++ d ++ 0x1B#7)
  | .tlwait d a b => some (0x0#7 ++ b ++ a ++ 0x5#3 ++ d ++ 0x1B#7)
  | .capp d a b => some (0x0#7 ++ b ++ a ++ 0x6#3 ++ d ++ 0x1B#7)
  | .cstat d a => some (0x0#7 ++ 0x0#5 ++ a ++ 0x7#3 ++ d ++ 0x1B#7)
  | .barr d a => some (0x0#7 ++ 0x0#5 ++ a ++ 0x0#3 ++ d ++ 0x2B#7)
  | .bwait d a b => some (0x0#7 ++ b ++ a ++ 0x1#3 ++ d ++ 0x2B#7)
  | .bsync d a b => some (0x0#7 ++ b ++ a ++ 0x2#3 ++ d ++ 0x2B#7)
  | .acq d a b => some (0x0#7 ++ b ++ a ++ 0x3#3 ++ d ++ 0x2B#7)
  | .rel d a => some (0x0#7 ++ 0x0#5 ++ a ++ 0x4#3 ++ d ++ 0x2B#7)
  | .mend d a b => some (0x0#7 ++ b ++ a ++ 0x5#3 ++ d ++ 0x2B#7)
  | .pacq s => some (0x0#4 ++ s ++ 0x0#5 ++ 0x0#5 ++ 0x6#3 ++ 0x0#5 ++ 0x2B#7)
  | .prel s => some (0x1#4 ++ s ++ 0x0#5 ++ 0x0#5 ++ 0x6#3 ++ 0x0#5 ++ 0x2B#7)
  | .pfull s => some (0x2#4 ++ s ++ 0x0#5 ++ 0x0#5 ++ 0x6#3 ++ 0x0#5 ++ 0x2B#7)
  | .bbind d a => some (0x0#7 ++ 0x0#5 ++ a ++ 0x7#3 ++ d ++ 0x2B#7)
  | .bdrop d a => some (0x1#7 ++ 0x0#5 ++ a ++ 0x7#3 ++ d ++ 0x2B#7)
  | .bstat d a => some (0x2#7 ++ 0x0#5 ++ a ++ 0x7#3 ++ d ++ 0x2B#7)
  | .wmbind d a b => some (0x3#7 ++ b ++ a ++ 0x7#3 ++ d ++ 0x2B#7)
  | .wmpub a b => some (0x4#7 ++ b ++ a ++ 0x7#3 ++ 0x0#5 ++ 0x2B#7)
  | .wmrd d a => some (0x5#7 ++ 0x0#5 ++ a ++ 0x7#3 ++ d ++ 0x2B#7)
  | .rbind d a => some (0x0#7 ++ 0x0#5 ++ a ++ 0x0#3 ++ d ++ 0x3B#7)
  | .rget d a b => some (0x0#7 ++ b ++ a ++ 0x1#3 ++ d ++ 0x3B#7)
  | .rput a => some (0x0#7 ++ 0x0#5 ++ a ++ 0x2#3 ++ 0x0#5 ++ 0x3B#7)
  | .rtake d a b => some (0x0#7 ++ b ++ a ++ 0x3#3 ++ d ++ 0x3B#7)
  | .rdone a => some (0x0#7 ++ 0x0#5 ++ a ++ 0x4#3 ++ 0x0#5 ++ 0x3B#7)
  | .rstat d a => some (0x0#7 ++ 0x0#5 ++ a ++ 0x5#3 ++ d ++ 0x3B#7)
  | .runbind a => some (0x0#7 ++ 0x0#5 ++ a ++ 0x6#3 ++ 0x0#5 ++ 0x3B#7)
  | .hnew d a => some (0x0#7 ++ 0x0#5 ++ a ++ 0x0#3 ++ d ++ 0x3F#7)
  | .hsplit d a b c => some (c ++ 0x0#2 ++ b ++ a ++ 0x1#3 ++ d ++ 0x3F#7)
  | .hjoin d a b => some (0x0#7 ++ b ++ a ++ 0x2#3 ++ d ++ 0x3F#7)
  | .hsend a b => some (0x0#7 ++ b ++ a ++ 0x3#3 ++ 0x0#5 ++ 0x3F#7)
  | .hrecv d a b => some (0x0#7 ++ b ++ a ++ 0x4#3 ++ d ++ 0x3F#7)
  | .haddr d a => some (0x0#7 ++ 0x0#5 ++ a ++ 0x5#3 ++ d ++ 0x3F#7)
  | .hfree a => some (0x0#7 ++ 0x0#5 ++ a ++ 0x6#3 ++ 0x0#5 ++ 0x3F#7)
  | .hinfo d a => some (0x1#7 ++ 0x0#5 ++ a ++ 0x6#3 ++ d ++ 0x3F#7)
  | .hreclaim d a => some (0x0#7 ++ 0x0#5 ++ a ++ 0x7#3 ++ d ++ 0x3F#7)
  | .spawn a => some (0x0#7 ++ 0x0#5 ++ a ++ 0x0#3 ++ 0x0#5 ++ 0x7B#7)
  | .tend => some (0x0#7 ++ 0x0#5 ++ 0x0#5 ++ 0x1#3 ++ 0x0#5 ++ 0x7B#7)
  | .jdec a => some (0x0#7 ++ 0x0#5 ++ a ++ 0x2#3 ++ 0x0#5 ++ 0x7B#7)
  | .qpush a b => some (0x0#7 ++ b ++ a ++ 0x3#3 ++ 0x0#5 ++ 0x7B#7)
  | .qpop d a b => some (0x0#7 ++ b ++ a ++ 0x4#3 ++ d ++ 0x7B#7)
  | .tself d => some (0x0#7 ++ 0x0#5 ++ 0x0#5 ++ 0x5#3 ++ d ++ 0x7B#7)
  | .fsend d a b => some (0x0#7 ++ b ++ a ++ 0x0#3 ++ d ++ 0x6B#7)
  | .frecv d a b => some (0x0#7 ++ b ++ a ++ 0x1#3 ++ d ++ 0x6B#7)
  | .fpath d a b => some (0x0#7 ++ b ++ a ++ 0x2#3 ++ d ++ 0x6B#7)
  | .fprobe d a => some (0x0#7 ++ 0x0#5 ++ a ++ 0x3#3 ++ d ++ 0x6B#7)
  | .vamoReport _ _ _ => none
  | .mldComplete _ => none
  | .mswapPerformed _ => none
  | .mstrRowFinal _ _ => none
  | .mzeroPerformed _ => none
  | .mstRowWrite _ => none
  | .mrdWrite _ => none
  | .matrixWaitExpired _ => none
  | .portDispatch _ _ => none
  | .portQueueWaitExpired _ => none
  | .copyChunk _ _ => none
  | .releaseTokenWrite _ => none
  | .deliveryTokenWrite _ => none
  | .copyFaultPost _ => none
  | .copyReplay _ => none
  | .streamStripDeliver _ _ => none
  | .chainCopy _ => none
  | .chainCopyr _ => none
  | .chainMark _ => none
  | .chainCommandComplete _ => none
  | .ochreCopy _ => none
  | .ochreCopyr _ => none
  | .ochreMark _ => none
  | .ochreFill _ => none
  | .indigoCopy _ => none
  | .indigoCopyr _ => none
  | .indigoMark _ => none
  | .indigoWait _ => none
  | .indigoWaitMet _ => none
  | .indigoWaitExpired _ => none
  | .indigoSignal _ => none
  | .indigoPathSet _ => none
  | .ueWrite _ => none
  | .ueRead _ => none
  | .ueRegisterRegion _ => none
  | .ueMark _ => none
  | .uePacket _ => none
  | .watermarkExpired _ => none
  | .barrierDeadlineClose _ _ => none
  | .regWaitExpired _ => none
  | .waitExpired _ => none
  | .sleepMet _ => none
  | .svcExpired _ => none
  | .preempt _ => none
  | .budgetOverrun _ => none
  | .tbudExhausted _ => none
  | .taskStart _ _ => none
  | .taskResume _ _ => none
  | .priorityAging _ => none
  | .coreBind _ _ => none
  | .gangPreempt _ => none
  | .gangResume _ => none
  | .coreScrub _ => none
  | .jobComplete _ => none
  | .jobStopForce _ => none
  | .commandTake => none
  | .launch _ => none
  | .shootdownPageRange _ => none
  | .shootdownRoot _ => none
  | .shootdownAck _ => none
  | .cancel _ => none
  | .debugFreeze _ => none
  | .debugStep _ => none
  | .debugResume _ => none
  | .debugDump _ => none
  | .keyInvalidate _ => none
  | .pageWalk _ _ _ _ => none
  | .poolRefill _ _ => none
  | .faultQueueSpace _ => none
  | .tailAdvance _ _ => none
  | .holdExpired _ => none
  | .pagingService _ _ _ _ _ _ => none
  | .patrolScrub _ _ => none
  | .queueLost _ _ _ => none
  | .cyanReload _ => none
  | .cobaltReset => none
  | .packageReset _ _ _ _ _ _ => none
  | .imgdbWrite _ => none
  | .bootReady _ => none
  | .dmalockWrite _ => none
  | .fabidLock _ => none
  | .registerWrite _ _ => none
  | .hostWrite _ _ _ => none
  | .hostRead _ _ _ => none
  | .hostAtomicCompletion _ _ => none
  | .proxyReply _ => none
  | .proxyQueueExpired _ => none
  | .proxyReplyExpired _ => none
  | .spdmRequest _ => none
  | .spdmKeyInstall _ _ _ => none
  | .tdiLeaveRun _ => none
  | .thermalStep _ _ => none
  | .powerClamp _ => none
  | .frameReceive _ _ => none
  | .timeFlit _ _ => none
  | .ptpMessage _ _ _ => none
  | .ptpLockLoss => none
  | .retryRequest _ _ => none
  | .linkDown _ => none
  | .stomp _ _ _ => none
  | .readRequest _ => none
  | .readReply _ => none
  | .writeRequest _ => none
  | .atomicRequest _ => none
  | .atomicReply _ => none
  | .chunkWrite _ => none
  | .multicastChunkWrite _ => none
  | .message _ => none
  | .messageReply _ => none
  | .ack _ => none
  | .nack _ => none
  | .combinedAtomic _ => none
  | .combinedReply _ => none
  | .e2eRetransmit _ _ => none
  | .multicastBranchTimeout _ _ _ => none
  | .pathProbe _ _ _ _ => none
  | .launchAcceptAnnounce _ _ _ _ => none
  | .launchAgreeTimeout _ => none
  | .multiJobStart _ => none
  | .gangPreemptRequest _ => none
  | .slateWaveArrive _ _ => none
  | .frozenReport _ _ _ _ => none
  | .firstCauseFinal _ => none
  | .resumeAnnounce _ _ _ => none
  | .slateRestart _ => none
  | .slateFreezeTimeout _ => none
  | .illegalWordIssue _ => none
  | .fetchProblem => none
  | .vectorQueueCompletion _ => none
  | .dmaReadCompletion _ _ => none
  | .tdiEnterRun _ _ => none

end Sys2Proof
end

