-- ==== Sys2Proof/Machine/Fetch.lean ====
section
/-! DEFINITION. Fetch (R90, R91), what a word that is no instruction does (R63, R64), and the passing of time (R6, R73, R88). -/

namespace Sys2Proof.Machine

/-- Which writes a fetch is sure to see: those from before the job, and those the strand had acquired, or made and released, when it last executed `ifence` (R91). Log 9 (DESIGN CHOICE). -/
def fetchKnown (w0 ifHb : Nat) (w : WriteRec) : Bool := knownTo w0 ifHb w

/-- The word at `pc`, or the fetch problem found when it would issue (R90). Without the steps of R91 a word that was stored may be the old or the new one, the strand's own unreleased store among them. Log 9 (DESIGN CHOICE). -/
def State.fetch (s : State) : State × Except Fail IWord :=
  match s.place s.cur s.cur.pc 4 (needOf .fetch) false with
  | (s1, .error f) => (s1, .error f)
  | (s1, .ok h) =>
    let (bs, _, f) := s1.phaseLoad (fetchKnown (s1.jobStart s1.cur.job) s1.cur.ifHb) (placesOf h.loc 4)
    let out := s1.decrypt h.key h.loc bs
    if s1.cur.pend.any fun p => overlaps p.loc p.n h.loc 4 then
      let own := decide (Config.freeChoice f % 2 = 1)
      ({ s1 with free := f + 1 }, .ok (BitVec.ofNat 32 (natOfBytes (if own then overlayPend h.loc out s1.cur.pend else out))))
    else ({ s1 with free := f }, .ok (BitVec.ofNat 32 (natOfBytes out)))

/-- FETCH_PROBLEM: the fetch problem of the word at `pc` is reported (R90): access kind 1, address `pc`. -/
def execFetchProblem (s : State) : Result :=
  match s.fetch with
  | (s1, .error f) => .next (s1.takeFault (s1.faultRec f s.cur.pc 1 0))
  | (_, .ok _) => .next s

/-- ILLEGAL_WORD_ISSUE: a word that is no instruction, or whose operands lie outside their limits, faults at its issue with the word in the address field (R63, R64). -/
def execIllegalWordIssue (w : IWord) (s : State) : Result :=
  match decode w with
  | .ok _ => .next s
  | .illegalInstruction => .next (s.faultCode .illegalInstruction (w.setWidth 64) 0 0)
  | .illegalOperand => .next (s.faultCode .illegalOperand (w.setWidth 64) 0 0)

/-- Whether a step of a frozen job lets a strand issue one instruction (R391). -/
def State.stepIssue (s : State) (t : Strand) : Bool :=
  match s.job? t.job with
  | some j => decide (j.slate.st = .stepping ∧ j.slate.stepSid = some t.sid)
  | none => false

/-- Whether a strand is in the middle of an instruction: what it asked for has come, a release of it is in progress, or elements are under way. -/
def Strand.midway (t : Strand) : Bool :=
  (decide (t.buf ≠ [] ∨ t.refused ≠ [] ∨ t.replies ≠ [] ∨ t.out ≠ [] ∨ t.resv ≠ []) || t.vamoTodo.isSome) && (match t.wait with
    | none => true
    | some w => decide (w.obj = .fabricAck))

/-- Whether a strand of a frozen job goes on with an instruction it had issued, a release event in progress among them: that completes (R387). -/
def State.completes (s : State) (t : Strand) : Bool :=
  t.midway && (match s.job? t.job with
    | some j => decide (j.slate.st ≠ .running) && (match j.gang with
      | .none | .held | .requested => true
      | _ => false)
    | none => false)

/-- Whether a strand's front end may issue: it occupies its slot, is ready, its job runs or steps it or it completes what it has issued, no home has its wait, and it has not stopped at a `brk` (R101, R106, R387, R391). -/
def State.canIssue (s : State) (t : Strand) : Bool :=
  !t.away && decide (t.run = .ready) && !t.brkDone && !t.starting && (s.jobRuns t || s.stepIssue t || s.completes t) &&
  (match t.wait with
   | some w => !w.obj.atHome && (match w.obj with
      | .remote _ => false
      | .proxyReply _ => false
      | .atomicReply _ => false
      | _ => true)
   | none => true)

/-- Whether what a strand issues next is an instruction it has not begun: nothing has been asked for it, and no other agent holds a part of it. -/
def Strand.fresh (t : Strand) : Bool :=
  decide (t.buf = []) && decide (t.replies = []) && t.vamoTodo.isNone && (match t.wait with
    | none => true
    | some w => decide (w.obj = .fabricAck ∨ w.obj = .mstDrain ∨ w.obj = .mrdDrain ∨ w.obj = .vecDrain))

/-- Whether the current strand stands at its next instruction, which it may not issue any more: a request has gone unmet for its 65,536 cycles (R88, R323). -/
def State.overrunDue (s : State) : Bool :=
  s.cur.pre.isSome && decide (preemptBound ≤ s.cur.preAge) && s.cur.fresh && decide (s.cur.run = .ready) && !s.cur.away && s.jobRuns s.cur

/-- A strand that has come to no pre-emption point in time: a stopping one is stopped here, any other faults `BUDGET_OVERRUN` with `tbud` in the address field (R88, R105, R323). -/
def State.overrun (s : State) : State :=
  if s.cur.pre = some .stop then s.preemptNow else s.faultCode .budgetOverrun s.cur.tbud 0 0

/-- Cycles taken off a budget. -/
def subBudget (b : Word) (n : Nat) : Word := word (b.toNat - n)

/-- Time passes (R6, R73, R88): gtime moves on, and with it every running job's `jtime`; a strand that occupies its slot is charged the cycles unless it is parked or its job is being stopped, and a pending request ages by them. Log 3 (DESIGN CHOICE). -/
def State.elapse (s : State) (ns cycles : Nat) : State :=
  let s1 := { s with gtime := s.gtime + word ns }
  s1.mapStrands fun t =>
    if t.away || !s.jobRuns t then t
    else
      let still := (match t.run with
        | .parked _ => true
        | _ => false) || (match s.job? t.job with
        | some j => !j.jrun
        | none => true)
      { t with
        tbud := if still then t.tbud else subBudget t.tbud cycles
        preAge := if t.pre.isSome then t.preAge + cycles else t.preAge }

end Sys2Proof.Machine
end

