-- ==== Sys2Proof/Machine/Expiry.lean ====
section
/-! DEFINITION. The events by which a wait ends at its bound, a hold lapses, a pre-emption takes effect or a budget runs out (03_strand.md R71, R74, R87, R88; R99, R100, R170, R190, R301, R327, R342, R343). -/

namespace Sys2Proof.Machine

/-- Runs an operation for the strand that occupies a slot, as the current strand. -/
def State.forSid (s : State) (sid : BitVec 32) (f : State → State) : State :=
  match s.strand? sid with
  | none => s
  | some t => s.asUid t.uid f

/-- The fault a wait ends with, if it ends with one. -/
def Wait.code (w : Wait) : Option FaultCode := w.expiry.map (·.code)

/-- PORT_QUEUE_WAIT_EXPIRED: an issue that waits for room in a port's queue has come to its bound (R190). -/
def execPortQueueWaitExpired (sid : BitVec 32) (s : State) : Result :=
  .next (s.forSid sid fun s => s.expire fun w => decide (w.code = some .copyFault))

/-- WATERMARK_EXPIRED: a watermark stall has come to its bound (R170). -/
def execWatermarkExpired (sid : BitVec 32) (s : State) : Result :=
  .next (s.forSid sid fun s => s.expire fun w => decide (w.code = some .watermarkExpired))

/-- REG_WAIT_EXPIRED: a wait for a register or a strip has come to its bound (R71, R171). -/
def execRegWaitExpired (sid : BitVec 32) (s : State) : Result :=
  .next (s.forSid sid fun s => s.expire fun w => decide (w.code = some .regWaitExpired))

/-- WAIT_EXPIRED: `jtime` has passed the clamped deadline of a wait; its home decides, and a condition that holds comes first (R74, R75). -/
def execWaitExpired (sid : BitVec 32) (s : State) : Result :=
  .next (s.forSid sid fun s => s.expire fun w => w.obj.atHome && (match w.obj with
    | .svc _ => false
    | .sleep _ => false
    | _ => true))

/-- SLEEP_MET: `jtime` has reached the target of a `sleep` (R99). -/
def execSleepMet (sid : BitVec 32) (s : State) : Result :=
  .next (s.forSid sid fun s => match s.cur.wait with
    | some w => (match w.obj with
      | .sleep _ => s.collect
      | _ => s)
    | none => s)

/-- SVC_EXPIRED: an `svc` has not been serviced within `dl.def` (R100). -/
def execSvcExpired (sid : BitVec 32) (s : State) : Result :=
  .next (s.forSid sid fun s => s.expire fun w => match w.obj with
    | .svc _ => true
    | _ => false)

/-- PROXY_QUEUE_EXPIRED: a wait for room in the proxy queue has come to its bound (R342). -/
def execProxyQueueExpired (sid : BitVec 32) (s : State) : Result :=
  .next (s.forSid sid fun s => s.expire fun w => decide (w.obj = .proxyQueue))

/-- PROXY_REPLY_EXPIRED: no reply of the host proxy has come within `dl.def` (R343). -/
def execProxyReplyExpired (sid : BitVec 32) (s : State) : Result :=
  .next (s.forSid sid fun s => s.expire fun w => match w.obj with
    | .proxyReply _ => true
    | .atomicReply _ => decide (w.code = some .hostProxyExpired)
    | _ => false)

/-- HOLD_EXPIRED: a hold for the paging service has lasted past `dl.max`: it counts as declined (R301). -/
def execHoldExpired (sid : BitVec 32) (s : State) : Result :=
  .next (s.forSid sid fun s => match s.cur.run with
    | .held _ since =>
      if s.jobRuns s.cur && decide (s.cur.dlMax.toNat < (s.jtimeOf s.cur.job - since).toNat) then s.declineHold else s
    | _ => s)

/-- PREEMPT: a pending pre-emption takes effect at a point where the strand stands (R87); not during the slate wave (R89). -/
def execPreempt (sid : BitVec 32) (s : State) : Result :=
  .next (s.forSid sid fun s => if s.cur.pre.isSome && s.cur.atPoint && s.cur.preInTime && !s.curFrozen then s.preemptHere else s)

/-- BUDGET_OVERRUN: a strand has reached no pre-emption point within 65,536 cycles of a request; it faults at the instruction it would issue next (R88). -/
def execBudgetOverrun (sid : BitVec 32) (s : State) : Result :=
  .next (s.forSid sid fun s => if s.cur.pre ≠ some .stop ∧ s.overrunDue = true then s.overrun else s)

/-- JOB_STOP_FORCE: a stopping strand that has reached no pre-emption point within 65,536 cycles is stopped at its next instruction boundary (R323). -/
def execJobStopForce (sid : BitVec 32) (s : State) : Result :=
  .next (s.forSid sid fun s =>
    if s.cur.pre = some .stop ∧ s.overrunDue = true then s.overrun else s)

/-- TBUD_EXHAUSTED: a spent budget: a task makes way where a record of its job waits, anything else is refilled (R88, R327). -/
def execTbudExhausted (sid : BitVec 32) (s : State) : Result :=
  .next (s.forSid sid fun s =>
    if s.cur.tbud ≠ 0 ∨ s.cur.pre.isSome = true ∨ s.jobRuns s.cur = false then s else s.budgetSpent)

end Sys2Proof.Machine
end

