-- ==== Sys2Proof/Machine/Sched.lean ====
section
/-! DEFINITION. The scheduler (12_package.md R312, R313, R325 to R331; 07_cluster.md R252, R257): placing a work hierarchy, binding cores, starting strands and tasks, gang pre-emption, scrubs, the end of a launch. -/

namespace Sys2Proof.Machine

/-- Whether the Cobalt core performs its duties: not while it is being reset, nor once the package is fatal (R332, R334). -/
def State.cobaltUp (s : State) : Bool :=
  !s.pkg.fatal && (match s.pkg.cobaltPaused with
    | none => true
    | some t => decide (t.toNat ≤ s.gtime.toNat))

/-- The packages of this package's slice (R354). Log 61 (DESIGN CHOICE). -/
def State.slice (s : State) : List Nat := Config.podSlice (s.pkg.bar.fabid.toNat / 2 ^ 16 % 16)

/-! Placement (R312, R313). -/

/-- Cores of the package. -/
def coreCount : Nat := 960

/-- A core that is not retired (R308). -/
def State.coreActive (s : State) (c : Nat) : Bool := decide (c < coreCount) && !(s.core c).retired && !(s.cluster (c / 48)).retired

/-- Cores in an instance of a domain (R312). -/
def domainCores : Nat → Nat
  | 0 | 1 | 2 => 1
  | 3 => 4
  | 4 => 48
  | 5 => 240
  | _ => 960

/-- Whole cores in a unit of a scope (R10): none in a strand's. -/
def scopeCores : Scope → Nat
  | .strand => 0
  | .core => 1
  | .quad => 4
  | .cluster => 48
  | .die => 240
  | _ => 960

/-- The first of a list of choices that succeeds. -/
def firstSome {α β : Type} (f : α → Option β) : List α → Option β
  | [] => none
  | x :: xs => match f x with
    | some y => some y
    | none => firstSome f xs

/-- The first n instances that place, each with its index as the next coordinate of its cores. -/
def takeInstances (f : Nat → Option (List Placement)) : (n i : Nat) → List Nat → Option (List Placement)
  | 0, _, _ => some []
  | _ + 1, _, [] => none
  | n + 1, i, x :: xs =>
    match f x with
    | some ps => (takeInstances f n (i + 1) xs).map fun rest => ps.map (fun p => { p with lvc := p.lvc ++ [i] }) ++ rest
    | none => takeInstances f (n + 1) i xs

/-- The lowest instance of the package's own levels of a launch: every active core of it is bound, the lowest runs the launched strand (R313); `ok` says which active cores may be used. -/
def placeLowest (active ok : Nat → Bool) (slot lo size : Nat) : Option (List Placement) :=
  match ((List.range size).map (lo + ·)).filter active with
  | [] => none
  | c :: cs => if ok c && cs.all ok then some (⟨c, [slot], []⟩ :: cs.map fun x => ⟨x, [], []⟩) else none

/-- Places levels, outermost first, in a unit of cores: instances in ascending order, all within one unit of the level's scope (R313). Log 48 (DESIGN CHOICE). -/
def placeLevels (active ok : Nat → Bool) (slot : Nat) : List Level → (lo size : Nat) → Option (List Placement)
  | [], lo, size => placeLowest active ok slot lo size
  | lv :: rest, lo, size =>
    if lv.domain = 1 then
      if 4 < lv.count ∨ (lv.scope = .strand ∧ 1 < lv.count) then none
      else (((List.range size).map (lo + ·)).find? fun c => active c && ok c).map fun c => [⟨c, List.range lv.count, []⟩]
    else
      let k := domainCores lv.domain
      let u := Nat.min size (scopeCores lv.scope)
      if u < k then none
      else firstSome (fun i => takeInstances (fun j => placeLevels active ok slot rest j k) lv.count 0
        ((List.range (u / k)).map fun j => lo + i * u + j * k)) (List.range (size / u))

/-- The levels of a launch that lie within a package, outermost first. -/
def Launch.inner (l : Launch) : List Level := (l.levels.filter fun v => decide (v.domain ≤ 5)).reverse

/-- The level below a slice or a pod that no level of domain package divides: its instances lie under the one slice or pod (R313). -/
def Launch.across (l : Launch) : Option Level :=
  if l.levels.any (fun v => decide (v.domain = 6)) || !l.levels.any (fun v => decide (7 ≤ v.domain)) then none else l.inner.head?

/-- Active instances of a domain on this package (R313). -/
def State.instances (s : State) (domain : Nat) : Nat :=
  if domain = 1 then 4
  else ((List.range (coreCount / domainCores domain)).filter fun i => (List.range (domainCores domain)).any fun c => s.coreActive (i * domainCores domain + c)).length

/-- Of the instances of a level that lies under a slice or a pod at once, those that this package takes as the k-th: the first and their count. Of a scope within a package all lie on the lowest; else the packages are filled in turn. Log 48 (DESIGN CHOICE). -/
def State.share (s : State) (v : Level) (k : Nat) : Nat × Nat :=
  if v.domain = 1 ∨ v.scope ≠ .fab then (0, if k = 0 then v.count else 0)
  else (k * s.instances v.domain, Nat.min (s.instances v.domain) (v.count - k * s.instances v.domain))

/-- A placement of a launch on this package's cores, the k-th of its slice, if there is one (R313). -/
def State.placeOn (s : State) (l : Launch) (k : Nat) (ok : Nat → Bool) : Option (List Placement) :=
  match l.across with
  | none => placeLevels s.coreActive ok l.lslot l.inner 0 coreCount
  | some v =>
    let (first, n) := s.share v k
    if n = 0 then some []
    else (placeLevels s.coreActive ok l.lslot ({ v with count := n } :: l.inner.tail) 0 coreCount).map fun ps =>
      ps.map fun p => { p with lvc := p.lvc.dropLast ++ [p.lvc.getLastD 0 + first] }

/-- Whether the hierarchy can be placed on the active units (R313, R314). -/
def State.placeable (s : State) (l : Launch) : Bool :=
  (s.placeOn l 0 fun _ => true).isSome && (match l.across with
    | some v => decide (v.domain = 1) || decide (v.scope ≠ .fab) || decide (v.count ≤ s.slice.length * s.instances v.domain)
    | none => true)

/-- A core no job is bound to. -/
def State.coreFree (s : State) (c : Nat) : Bool := (s.core c).lease.job.isNone

/-- Where this package stands among those of the slice that accepted (R354). -/
def State.pkgIndex (s : State) (j : Job) : Nat := (j.accepts.filter fun a => decide (a.1 < s.pkgNo)).length

/-- Whether a launch runs one strand for a whole pod slice or pod (R313). -/
def Launch.wide (l : Launch) : Bool := (l.levels.head?).any fun v => decide (7 ≤ v.domain)

/-- A job's placement: the one it has begun to take, else one on free cores, else one on active cores (R313, R325); a package past the count of its level of domain package takes none, and the one strand of a launch whose level 0 is a slice or a pod runs on the slice's lowest package. Log 48 (DESIGN CHOICE). -/
def State.placementOf (s : State) (j : Job) : List Placement :=
  if j.places ≠ [] then j.places
  else if j.rec_.levels.any fun v => decide (v.domain = 6 ∧ v.count ≤ s.pkgIndex j) then []
  else
    let ps := match s.placeOn j.rec_ (s.pkgIndex j) s.coreFree with
      | some ps => ps
      | none => (s.placeOn j.rec_ (s.pkgIndex j) fun _ => true).getD []
    if j.rec_.wide && decide (s.pkgIndex j ≠ 0) then ps.map fun p => { p with slots := [] } else ps

/-! Strands (R68, R313). -/

/-- The coordinates of a strand in a slot: its index at a level of domain strand, those of its core, and those of its package (R313). -/
def State.coords (s : State) (j : Job) (p : Placement) (slot : Nat) : List Nat :=
  (if j.rec_.levels.any fun v => decide (v.domain = 1) then [slot] else []) ++ p.lvc ++
    ((j.rec_.levels.filter fun v => decide (6 ≤ v.domain)).map fun v => if v.domain = 6 then s.pkgIndex j else 0)

/-- The frame pointer of a strand: the argument and its strides (R313). -/
def framePtr (l : Launch) (cs : List Nat) : Word :=
  l.arg + word ((l.levels.zip cs).foldl (fun a x => a + x.2 * x.1.fstride) 0)

/-- The grant of a slot of a core: the launch's, without retired lane groups (R311, R313). -/
def State.grantOf (s : State) (core slot : Nat) : BitVec 16 := ((s.core core).grants.toList.getD slot 0) &&& ~~~(s.core core).laneRetired

/-- What every start sets besides zero (R68). -/
def State.newStrand (s : State) (j : Job) (core slot : Nat) (cs : List Nat) : Strand :=
  { Strand.zero with
    uid := s.ticket, sid := mkSid s.pkgNo core slot, job := j.id, grant := s.grantOf core slot
    lvc := Vector.ofFn fun i => word (cs.getD i.val 0)
    dlDef := j.rec_.dldef, dlMax := j.rec_.dlmax, tcap := j.rec_.tcap, tbud := j.rec_.tcap
    maint := j.rec_.maint, mlease := !j.rec_.mnone && decide (slot = j.rec_.mslot), run := .ready }

/-- Puts a new strand into its slot. -/
def State.addStrand (s : State) (t : Strand) : State :=
  if s.cur.job = 0 then { s with cur := t, ticket := s.ticket + 1 } else { s with rest := t :: s.rest, ticket := s.ticket + 1 }

/-- Starts the launched strand of a slot (R68, R313). -/
def State.startLaunched (s : State) (j : Job) (p : Placement) (slot : Nat) : State :=
  let cs := s.coords j p slot
  let t := s.newStrand j p.core slot cs
  s.addStrand (({ t with pc := j.rec_.entry }.setS 2 (framePtr j.rec_ cs)).setS 3 j.rec_.arg)

/-! Waiting jobs (R325). -/

/-- A job that has work and no core: not yet started, or saved by a gang pre-emption. -/
def Job.waiting (j : Job) : Bool := !j.state.final && decide (j.cores = []) && j.stopReq.isNone && j.waitSince.isSome

/-- A waiting job becomes waiting anew: it returns to `BASE` (R325, R329). -/
def State.toWait (s : State) (id : BitVec 32) : State :=
  s.onJob id fun j => { j with eff := j.rec_.base, waitSince := some s.gtime }

/-- A job's effective priority at a gtime: a waiting job's rises by one each millisecond up to `CAP`, a running job keeps its own (R325). -/
def Job.effNow (j : Job) (g : Word) : Nat :=
  if !j.waiting then j.eff
  else match j.waitSince with
    | some w => Nat.min j.rec_.cap (j.rec_.base + (g - w).toNat / 1000000)
    | none => j.eff

/-- Whether one waiting job is served before another at a gtime (R325). -/
def Job.servedBefore (a b : Job) (g : Word) : Bool :=
  if a.effNow g ≠ b.effNow g then decide (b.effNow g < a.effNow g)
  else match a.servedAt, b.servedAt with
    | none, some _ => true
    | some _, none => false
    | some x, some y => decide (x < y)
    | none, none => decide (a.seq < b.seq)

/-- Whether a job may be bound on this package now: accepted by its slice (R354), and no stop, wave or gang pre-emption on it. -/
def Job.mayBind (j : Job) : Bool :=
  !j.state.final && j.stopReq.isNone && decide (j.gang = .none) && decide (j.slate.st = .running) &&
  (!j.multi || j.jrun)

/-- The cores of a job's placement it has still to be bound to; a job that holds no core and has task records in a queue wants those of its placement in that cluster again (R325). Log 48 (DESIGN CHOICE). -/
def State.wants (s : State) (j : Job) : List Nat :=
  if j.places ≠ [] then
    j.bindable ++ (if j.cores = [] then (j.places.map (·.core)).filter fun c => !j.bindable.contains c && decide ((s.taskQ (c / 48) j.id).records ≠ 0) else [])
  else (s.placementOf j).map (·.core)

/-- Whether a waiting job may be given a core: one it wants, or one it goes back to after a gang pre-emption (R325, R329). -/
def State.awaits (s : State) (x : Job) (core : Nat) : Bool :=
  x.waiting && (match x.gang with
    | .saved cs _ => decide (x.slate.st = .running) && cs.any fun c => decide (c.core = core)
    | _ => x.mayBind && (s.wants x).contains core)

/-- Whether a job's work on a core has ended: no strand of it there or saved there, no task waiting in the cluster, the matrix queue drained (R326). A copy of it may still run on a port. -/
def State.coreEnded (s : State) (core : Nat) (k : BitVec 32) : Bool :=
  let j := s.job? k
  !s.strands.any (fun t => decide (t.job = k ∧ coreOf t.sid = core)) && decide ((s.core core).matrix.queue = []) &&
  decide ((s.taskQ (core / 48) k).items = []) &&
  (match j with
   | some j => !j.bindable.contains core && decide (j.gang = .none)
   | none => true)

/-- PRIORITY_AGING: each millisecond of waiting raises a waiting job by one, up to `CAP` (R325). -/
def execPriorityAging (job : BitVec 32) (s : State) : Result :=
  .next (s.onJob job fun j => { j with eff := j.effNow s.gtime })

/-! Binding a core (R326, R330). -/

/-- Whether the fault-queue header of a job is well formed (R298, R314). -/
def State.fqOk (s : State) (j : Job) : Bool :=
  let cap := s.fqCap j
  decide (s.fqBase j % 64 = 0) && s.paOk (s.fqBase j) && decide (16 ≤ cap ∧ cap ≤ 65536) && (List.range 17).any (fun k => decide (cap = 2 ^ k)) &&
  decide (s.fqSvc j % 64 = 0) && decide (s.devGet (j.rec_.fq + 32) 8 < 2)

/-- The part of a core's job that leaves it: the job that has no core left and has work waits again (R325). -/
def State.leaveCore (s : State) (core : Nat) : State :=
  match (s.core core).lease.job with
  | none => s
  | some k =>
    let s1 := s.onJob k fun j => { j with cores := j.cores.filter fun c => decide (c ≠ core) }
    match s1.job? k with
    | some j => if j.cores = [] then s1.toWait k else s1
    | none => s1

/-- The objects of a cluster as a job finds them when its first core there is bound: none of its own, and those of other live jobs as they are (R215, R258). A lineage table no other core of the cluster is bound to a live job for starts anew, but for entries of live jobs (R395). Log 23 (DEDUCED). -/
def State.freshCluster (s : State) (cl core : Nat) (job : BitVec 32) : State :=
  if s.cores.any fun c => decide (c.1 / 48 = cl ∧ c.2.lease.job = some job) then s
  else
    let stays (id : BitVec 32) : Bool := decide (id ≠ job) && (s.job? id).isSome
    let shared := s.cores.any fun c => decide (c.1 / 48 = cl ∧ c.1 ≠ core) && (c.2.lease.job.any stays)
    s.onCluster cl fun c => { c with
      barriers := c.barriers.filter fun b => stays b.2.job
      lineage := if shared then c.lineage else c.lineage.filter fun e => e.2.used && stays e.2.job
      workq := c.workq.filter fun q => stays (BitVec.ofNat 32 (q.1 / 64)) }

/-- A job with one more core (R325, R326): its first binding fixes its placement and its effective priority, and starts its `jtime` where it has not started. -/
def Job.bound (x : Job) (ps : List Placement) (core ticket nextW : Nat) (g : Word) : Job :=
  { x with
    places := ps
    bindable := (if x.places = [] then ps.map Placement.core else x.bindable).filter fun c => decide (c ≠ core)
    cores := x.cores ++ [core], waitSince := none
    eff := x.effNow g
    servedAt := if x.cores = [] then some ticket else x.servedAt
    w0 := if x.state = .accepted ∧ x.cores = [] then nextW else x.w0
    timed := true, jrun := true, jval := if x.timed then x.jval else 0, jfrom := if x.jrun then x.jfrom else g }

/-- Starts the launched strands of a core; a launch is started with its first strand (R313, R321), and on a package that runs none of them with its first core. Log 48 (DESIGN CHOICE). -/
def State.startCore (s : State) (j : Job) (p : Placement) : State :=
  let s1 := p.slots.foldl (fun (a : State) slot => a.startLaunched j p slot) s
  let n := j.started + p.slots.length
  let s2 := s1.onJob j.id fun x => { x with started := n }
  if j.state = .accepted ∧ (p.slots ≠ [] ∨ j.places.all (fun q => q.slots.isEmpty) = true) then (s2.onJob j.id fun x => { x with state := .started }).journalMove j.seq .started 0 n else s2

/-- Binds a core to a job and starts the strands it launches there, where they have not started before (R176, R313, R326). -/
def State.bindCore (s : State) (core : Nat) (j : Job) : State :=
  let ps := s.placementOf j
  let s1 := (s.leaveCore core).freshCluster (core / 48) core j.id
  let l := j.rec_
  let s2 := s1.onCore core fun c => { c with
    matrix := Matrix.scrubbed
    lease := ⟨some j.id, none, l.key, false⟩
    grants := Vector.ofFn fun i => l.grants.getD i.val 0 }
  let s3 := { s2 with ticket := s2.ticket + 1 }.onJob j.id fun x => x.bound ps core s2.ticket s2.nextW s2.gtime
  match s3.job? j.id, ps.find? (fun p => decide (p.core = core)) with
  | some j1, some p => if j.places ≠ [] && !j.bindable.contains core then s3 else s3.startCore j1 p
  | _, _ => s3

/-- CORE_BIND: a core is bound to a job once the current job's work there has ended: the waiting job served first gets it, and is the core's next job while it waits for that; a key other than the core's wants a scrubbed core (R325, R326, R330). A malformed fault-queue header ends the job (R314). -/
def execCoreBind (core : Nat) (job : BitVec 32) (s : State) : Result :=
  .next (match s.job? job with
    | none => s
    | some j =>
      let l := (s.core core).lease
      let free := match l.job with
        | none => true
        | some k => decide (k ≠ job) && s.coreEnded core k
      let better := s.jobs.any fun x => decide (x.id ≠ job) && x.servedBefore j s.gtime && s.awaits x core
      if !s.cobaltUp || !j.mayBind || !s.coreActive core || better || !(s.wants j).contains core || decide (l.job = some job) then s
      else if !free then s.onCore core fun c => { c with lease := { c.lease with next := some job } }
      else if decide (l.key ≠ j.rec_.key) && !l.scrubbed then s
      else if !s.fqOk j then s.requestStop job .failed FaultCode.pageNotPresent.num
      else s.bindCore core j)

/-! Tasks (R252, R257). -/

/-- The first item of a task queue that a slot may serve: a record, or the marker of a task saved from that slot (R257). -/
def State.nextItem (s : State) (q : TaskQ) (sid : BitVec 32) : Option TaskItem :=
  q.items.find? fun i => match i.resume with
    | none => true
    | some u => match s.byUid? u with
      | some t => decide (t.sid = sid)
      | none => false

/-- Binds the stream ports of a resumed strand again: the same numbers, prefetch from the position saved (R193). The rules do not say what becomes of a binding or a command of another strand that has taken the port meanwhile: the resumed binding takes its place and is active at once. Log 63 (DESIGN CHOICE). -/
def State.rebindPorts (s : State) (t : Strand) : State :=
  t.streams.foldl (fun (a : State) x => match x.2 with
    | some b => a.onPort (coreOf t.sid) b.port fun p => { p.unbind with bound := some (t.uid, BitVec.ofNat 5 x.1), active := true }
    | none => a) s

/-- The task of the current strand reads its record's code and frame, after its start's acquire, and starts (R68, R252). A fault found there is the task's, and it reads again when it resumes. Log 47 (DEDUCED). A code that is no multiple of 4 is taken as it stands. Log 63 (DESIGN CHOICE). -/
def State.readRecord (s : State) : State :=
  let va := s.cur.trec
  match s.recWords va 2 with
  | (s1, .ok v _) =>
    s1.onCur fun t => { t with starting := false, wait := none, buf := [], pc := word (recField v 0 8) }.setS 2 (word (recField v 8 8))
  | (s1, .bad f) => s1.takeFault (s1.faultRec f va 2 0)
  | (s1, .need loc n key _) => s1.askRemote loc n key 0 (s1.faultRec (fail .fabricUnreachable) va 2 0)
  | (s1, .stall) => s1

/-- Pops a record into an idle slot of a core: the strand is set up and acquires what the record carries (R68, R252, R254). Log 47 (DEDUCED). -/
def State.popTask (s : State) (j : Job) (core slot : Nat) (i : TaskItem) : State :=
  let cl := core / 48
  let q := s.taskQ cl j.id
  let s1 := s.setTaskQ cl j.id { q with items := q.items.erase i }
  let cs := match j.places.find? fun p => decide (p.core = core) with
    | some p => s1.coords j p slot
    | none => []
  let t := { s1.newStrand j core slot cs with task := true, starting := true, trec := i.addr }.setS 3 i.addr
  (s1.addStrand t).asUid t.uid fun s => (s.acquire (if i.byJdec then .pkg else .cluster) i.rels).readRecord

/-- Whether the slots of a core serve a job's tasks now. -/
def State.serves (s : State) (core : Nat) (j : Job) : Bool :=
  decide ((s.core core).lease.job = some j.id) && !j.halted && j.jrun && j.stopReq.isNone && decide (j.gang = .none)

/-- TASK_START: an idle slot leased to a job pops the oldest record of its cluster's queue and starts the task; a task that has still to read its record reads it (R252). Log 47 (DEDUCED). -/
def execTaskStart (core slot : Nat) (s : State) : Result :=
  .next (match (s.core core).lease.job.bind s.job? with
    | none => s
    | some j =>
      let sid := mkSid s.pkgNo core slot
      if 4 ≤ slot ∨ s.serves core j = false then s
      else match s.strand? sid with
        | some t =>
          if t.starting && decide (t.run = .ready) && (match t.wait with
              | some w => decide (w.obj = .polled)
              | none => true) then s.asUid t.uid State.readRecord
          else s
        | none =>
          match s.nextItem (s.taskQ (core / 48) j.id) sid with
          | some i => if i.resume.isNone then s.popTask j core slot i else s
          | none => s)

/-- TASK_RESUME: a pre-empted task resumes on its own slot, its budget full, after the records that waited when it was saved (R257). -/
def execTaskResume (core slot : Nat) (s : State) : Result :=
  .next (match (s.core core).lease.job.bind s.job? with
    | none => s
    | some j =>
      let sid := mkSid s.pkgNo core slot
      if s.serves core j = false ∨ (s.strand? sid).isSome = true then s
      else
        let cl := core / 48
        let q := s.taskQ cl j.id
        match s.nextItem q sid with
        | some i =>
          (match i.resume.bind s.byUid? with
           | some t =>
             let s1 := s.setTaskQ cl j.id { q with items := q.items.erase i }
             (s1.onUid t.uid fun t => { t with away := false, tbud := t.tcap }).rebindPorts t
           | none => s)
        | none => s)

/-! Gang pre-emption (R328, R329). -/

/-- Whether a waiting job can be placed on free cores (R328). -/
def State.fitsFree (s : State) (j : Job) : Bool :=
  match j.gang with
  | .saved cs _ => cs.all fun c => s.coreFree c.core
  | _ => if j.places ≠ [] then j.bindable.all s.coreFree else (s.placeOn j.rec_ (s.pkgIndex j) s.coreFree).isSome

/-- The request reaches every core of a job: its `jtime` stops here, which the slice is told, and every strand is to stop at its next pre-emption point (R73, R328). During the slate wave it is held (R89, R331). -/
def State.gangRequest (s : State) (id : BitVec 32) : State :=
  match s.job? id with
  | none => s
  | some j =>
    if (j.gang ≠ .none ∧ j.gang ≠ .held) ∨ (j.cores = [] ∧ (j.multi = false ∨ j.timed = false)) then s
    else if j.slate.st ≠ .running then s.onJob id fun j => { j with gang := .held }
    else
      let stop := j.jtime s.gtime
      let s1 := (s.onJob id fun j => { j with gang := .requested, jval := stop, jrun := false, gangStops := (s.pkgNo, stop) :: j.gangStops }).mapStrands fun t =>
        if t.job = id ∧ t.pre ≠ some .stop then t.request .gang else t
      s1.tell j (.gangStop s.pkgNo id stop)

/-- Whether a running job is the one to be pre-empted: lowest effective priority, ties to the one accepted latest (R328). -/
def State.isVictim (s : State) (k : Job) : Bool :=
  decide (k.cores ≠ []) && decide (k.gang = .none) &&
  s.jobs.all fun x => x.state.final || decide (x.cores = []) || decide (k.eff < x.eff) || (decide (k.eff = x.eff) && decide (x.seq ≤ k.seq))

/-- Whether everything a save waits for has come: strands saved, queues drained, copies and chains run to completion but for copies that wait for service (R328). -/
def State.gangQuiet (s : State) (k : Job) : Bool :=
  s.strands.all (fun t => decide (t.job ≠ k.id) || (t.away && t.vq.isEmpty)) &&
  k.cores.all (fun c => decide ((s.core c).matrix.queue = [])) &&
  s.pkg.copies.all (fun c => decide (c.job ≠ k.id) || decide (c.st = .faulted)) &&
  s.pkg.chains.all (fun c => decide (c.job ≠ k.id) || (c.cur.isNone && c.todo.isEmpty) || s.pkg.copies.any fun x => decide (x.chain = some c.hdr ∧ x.st = .faulted))

/-- Places of a core's scratchpad and vault share (R280). -/
def ownPlace (core loc : Nat) : Bool :=
  let sp := scratchLoc core 0
  let sh := vaultLoc (core / 48) (core % 48 / 4) (core % 4 * 2 ^ 22)
  decide ((sp ≤ loc ∧ loc < sp + 2 ^ 21) ∨ (sh ≤ loc ∧ loc < sh + 2 ^ 22))

/-- What a save keeps of a core (R328). -/
def State.saveCore (s : State) (c : Nat) : SavedCore :=
  ⟨c, (s.core c).matrix, s.mem.filter fun p => ownPlace c p.1, (s.poison.filter fun p => ownPlace c (8 * p.1)).map (·.1),
    s.hist.filter fun w => ownPlace c w.loc, s.sable.filter fun w => ownPlace c w.loc⟩

/-- Zeroes a core's scratchpad and vault share: nothing is left of what was written there (R330). -/
def State.zeroCore (s : State) (c : Nat) : State :=
  { s with
    mem := s.mem.filter fun p => !ownPlace c p.1
    poison := s.poison.filter fun p => !ownPlace c (8 * p.1)
    hist := s.hist.filter fun w => !ownPlace c w.loc
    sable := s.sable.filter fun w => !ownPlace c w.loc }

/-- Puts a core's saved memory, with its home order, and matrix unit back, and its lease (R269, R329). -/
def State.restoreCore (s : State) (j : Job) (c : SavedCore) : State :=
  let z := s.zeroCore c.core
  let s1 := c.bytes.foldl (fun (a : State) p => { a with mem := a.mem.set memDefault p.1 p.2 }) z
  let s2 := { s1 with
    poison := c.poison.foldl (fun m w => m.set false w true) s1.poison
    hist := c.hist ++ s1.hist, sable := c.sable ++ s1.sable }
  s2.onCore c.core fun k => { k with
    matrix := c.matrix, lease := ⟨some j.id, none, j.rec_.key, false⟩
    grants := Vector.ofFn fun i => j.rec_.grants.getD i.val 0 }

/-- The rings to which a strand of a job is bound. -/
def State.jobRings (s : State) (id : BitVec 32) : List Ring :=
  s.rings.filter fun r => s.strands.any fun t => decide (t.job = id) && t.gregs.toList.any fun g => match g with
    | some b => decide (b.ring = r.base)
    | none => false

/-- The objects a save takes with the job (R328). Log 49 (DEDUCED). -/
def State.saveObjs (s : State) (k : Job) : SavedObjs :=
  let alone := (s.boundClusters k.id).filter fun cl => s.cores.all fun c => decide (c.1 / 48 ≠ cl) || decide (c.2.lease.job = some k.id) || c.2.lease.job.isNone
  ⟨s.allBars.filter fun b => decide (b.2.2.job = k.id), s.jobRings k.id, alone.map fun cl => (cl, (s.cluster cl).lineage)⟩

/-- A job whose strands have all stopped is saved, and its cores are free (R328). It waits at `BASE`. -/
def State.gangSave (s : State) (k : Job) : State :=
  let objs := s.saveObjs k
  let cores := k.cores.map s.saveCore
  let s1 := objs.bars.foldl (fun (a : State) b => a.setBar b.1 b.2.1 Barrier.zero) s
  let s2 := objs.lineage.foldl (fun (a : State) q => a.onCluster q.1 fun c => { c with lineage := [] }) s1
  let s3 := { s2 with rings := s2.rings.filter fun r => !objs.rings.contains r }
  ((s3.freeCores k.id).onJob k.id fun j => { j with gang := .saved cores objs, cores := [] }).toWait k.id

/-- GANG_PREEMPT: a waiting job of strictly higher effective priority that does not fit on free cores pre-empts a running job: first the request, and once it is quiet its save (R328). -/
def execGangPreempt (job : BitVec 32) (s : State) : Result :=
  .next (match s.job? job with
    | none => s
    | some k =>
      match k.gang with
      | .requested => if s.gangQuiet k then s.gangSave k else s
      | .none =>
        if s.cobaltUp && s.isVictim k && s.jobs.any (fun x => x.waiting && decide (k.eff < x.effNow s.gtime) && !s.fitsFree x) then
          let s1 := s.gangRequest job
          s1.tell k (.gang job)
        else s
      | _ => s)

/-- What another package of the slice says of a gang pre-emption of a job: the request, its stop value, or from when it can go on (R73, R329, R354). -/
def Ctl.ofGang (id : BitVec 32) : Ctl → Bool
  | .gang k => decide (k = id)
  | .gangStop _ k _ => decide (k = id)
  | .gangReady _ k _ => decide (k = id)
  | _ => false

/-- GANG_PREEMPT_REQUEST: a word of another package of the slice on a gang pre-emption reaches this one: the request, a stop value, or that the package is restored (R73, R328, R329, R354). -/
def execGangPreemptRequest (job : BitVec 32) (s : State) : Result :=
  .next (match s.pkg.ctlIn.find? (Ctl.ofGang job) with
    | none => s
    | some c =>
      if !s.cyanUp 2 then s
      else
        let s1 := s.onPkg fun p => { p with ctlIn := p.ctlIn.erase c }
        match c with
        | .gangStop p _ stop => s1.onJob job fun j => { j with gangStops := (p, stop) :: j.gangStops }
        | .gangReady p _ t => s1.onJob job fun j => { j with gangReady := (p, t) :: j.gangReady }
        | _ => match s1.job? job with
          | some k => if k.multi then s1.gangRequest job else s1
          | none => s1)

/-- Strands of a job that a gang pre-emption saved: those not waiting in a task queue for their slots. -/
def State.gangStrands (s : State) (id : BitVec 32) : List Strand :=
  let queued := s.clusters.flatMap fun c => (c.2.taskq.get ⟨[], false⟩ id.toNat).items.filterMap (·.resume)
  s.strands.filter fun t => decide (t.job = id) && t.away && !queued.contains t.uid

/-- A saved job goes back to its cores and slots (R329). Log 49 (DEDUCED). -/
def State.gangRestore (s : State) (j : Job) (cores : List SavedCore) (objs : SavedObjs) : State :=
  let s1 := cores.foldl (fun (a : State) c => a.restoreCore j c) s
  let s2 := objs.bars.foldl (fun (a : State) b => a.setBar b.1 b.2.1 b.2.2) s1
  let s3 := objs.lineage.foldl (fun (a : State) q => a.onCluster q.1 fun c => { c with lineage := q.2 }) s2
  let s4 := { s3 with rings := s3.rings ++ objs.rings }
  let ts := s4.gangStrands j.id
  let s5 := ts.foldl (fun (a : State) t => (a.onUid t.uid fun t => { t with away := false, pre := none }).rebindPorts t) s4
  let at_ := s.gtime + 10000
  let s6 := { s5 with ticket := s5.ticket + 1 }.onJob j.id fun j => { j with
    gang := .resuming at_, cores := cores.map SavedCore.core, eff := j.effNow s.gtime
    waitSince := if cores = [] then j.waitSince else none
    servedAt := some s5.ticket, gangReady := (s.pkgNo, at_) :: j.gangReady }
  s6.tell j (.gangReady s.pkgNo j.id at_)

/-- The packages that run a job: its slice's, or this one (R354). -/
def State.jobPkgs (s : State) (j : Job) : List Nat := if j.multi then s.slice else [s.pkgNo]

/-- The common gtime at which a saved job goes on: the latest from which every package of its slice can, once all have said (R73, R329, R354). -/
def State.gangStart (s : State) (j : Job) : Option Nat :=
  if (s.jobPkgs j).all fun p => j.gangReady.any fun r => decide (r.1 = p) then some ((j.gangReady.map fun r => r.2.toNat).foldl Nat.max 0) else none

/-- GANG_RESUME: a saved job is restored when its cores are free and it is served first; at the common gtime of its slice, 10 µs after the last core is restored, its `jtime` goes on from the largest stop value (R73, R329, R354). -/
def execGangResume (job : BitVec 32) (s : State) : Result :=
  .next (match s.job? job with
    | none => s
    | some j =>
      match j.gang with
      | .saved cores objs =>
        let ready := cores.all fun c => s.coreFree c.core && (decide ((s.core c.core).lease.key = j.rec_.key) || (s.core c.core).lease.scrubbed)
        let better := s.jobs.any fun x => decide (x.id ≠ job) && x.servedBefore j s.gtime && cores.any fun d => s.awaits x d.core
        if s.cobaltUp && ready && !better && j.stopReq.isNone && decide (j.slate.st = .running) then s.gangRestore j cores objs else s
      | .resuming _ =>
        (match s.gangStart j with
         | some t =>
           if t ≤ s.gtime.toNat ∧ j.slate.st = .running then s.onJob job fun j => { j with
             gang := .none, jrun := true, jfrom := word t, jval := word ((j.gangStops.map fun r => r.2.toNat).foldl Nat.max 0)
             gangStops := [], gangReady := [] }
           else s
         | none => s)
      | _ => s)

/-- Whether a core may be scrubbed: no job is bound to it, or the work of the one that is has ended there and the next waits (R326, R330). -/
def State.scrubbable (s : State) (core : Nat) : Bool :=
  match (s.core core).lease.job with
  | none => true
  | some k => (s.core core).lease.next.isSome && s.coreEnded core k

/-- CORE_SCRUB: the Cobalt core commands a scrub of a core at rest: its memory, matrix unit, slots and window buffers are zero (R330). -/
def execCoreScrub (core : Nat) (s : State) : Result :=
  .next (if !s.scrubbable core || !s.cobaltUp then s
  else (s.zeroCore core).onCore core fun c => { c with matrix := Matrix.scrubbed, lease := { c.lease with scrubbed := true } })

/-! The end of a launch (R321, R323). -/

/-- Whether all work of a job has ended: no strand, none to be placed, no record, no copy, no chain (R321). -/
def State.allEnded (s : State) (j : Job) : Bool :=
  decide (s.jobUids j.id = []) && j.bindable.isEmpty && decide (j.places ≠ []) && decide (j.gang = .none) &&
  s.clusters.all (fun c => decide ((c.2.taskq.get ⟨[], false⟩ j.id.toNat).items = [])) &&
  s.pkg.copies.all (fun c => decide (c.job ≠ j.id)) && s.pkg.chains.all fun c => decide (c.job ≠ j.id) || (c.cur.isNone && c.todo.isEmpty)

/-- JOB_COMPLETE: every launched strand and task of a job has ended, its copies and chains have finished: its launch is completed (R321). -/
def execJobComplete (job : BitVec 32) (s : State) : Result :=
  .next (match s.job? job with
    | none => s
    | some j => if j.state = .started ∧ s.allEnded j = true then s.endJob job .completed 0 else s)

end Sys2Proof.Machine
end

