-- ==== Sys2Proof/Machine/Command.lean ====
section
/-! DEFINITION. The command window (12_package.md R310 to R321): taking and validating commands, launches, shoot-downs (R303, R304), cancels, key invalidation (R347). -/

namespace Sys2Proof.Machine

/-! The launch record (R310 to R312). -/

/-- A level entry (R312). -/
def levelOf (v : Nat) : Level := ⟨v / 2 ^ 32, v / 2 ^ 16 % 2 ^ 16, Scope.ofCode (v / 2 ^ 8 % 8), v % 2 ^ 8⟩

/-- The eight level entries of a launch record. -/
def levelWords (p : Nat) : List Nat := (List.range 8).map fun i => recField p (80 + 8 * i) 8

/-- The level entries in use: those before the first of domain none (R313). -/
def usedLevels (p : Nat) : List Nat := (levelWords p).takeWhile fun v => decide (v % 2 ^ 8 ≠ 0)

/-- The fault policy a code names; code 3 is not accepted. -/
def policyOf : Nat → Policy
  | 0 => .stop | 1 => .freeze | _ => .continue_

/-- A launch record read from its bytes (R310, R311). -/
def launchOf (p : Nat) : Launch where
  job := BitVec.ofNat 32 (recField p 0 4)
  key := recField p 4 2 % 2 ^ 12
  base := recField p 6 1 % 32
  cap := recField p 7 1 % 32
  root := recField p 8 8
  fq := recField p 16 8
  entry := word (recField p 24 8)
  arg := word (recField p 32 8)
  grants := (List.range 4).map fun j => BitVec.ofNat 16 (recField p (40 + 2 * j) 2)
  mslot := recField p 48 1 % 4
  mnone := decide (recField p 48 1 / 4 % 2 = 1)
  lslot := recField p 48 1 / 16 % 4
  policy := policyOf (recField p 49 1 % 4)
  maint := decide (recField p 49 1 / 16 % 4 = 1)
  dldef := word (recField p 56 8)
  dlmax := word (recField p 64 8)
  tcap := word (recField p 72 8)
  levels := (usedLevels p).map levelOf
  bytes := p % 2 ^ 2048

/-- A multi-package launch (R354). -/
def Launch.multi (l : Launch) : Bool := l.levels.any fun v => decide (6 ≤ v.domain)

/-- Reserved fields of a launch record that are not zero (R310 to R312). -/
def launchReserved (p : Nat) : Bool :=
  let m := recField p 48 1
  let q := recField p 49 1
  decide (recField p 4 2 / 2 ^ 12 ≠ 0 ∨ recField p 6 1 / 32 ≠ 0 ∨ recField p 7 1 / 32 ≠ 0 ∨ recField p 50 6 ≠ 0 ∨
    m / 8 % 2 ≠ 0 ∨ m / 64 ≠ 0 ∨ q / 4 % 4 ≠ 0 ∨ q / 64 ≠ 0 ∨ recField p 144 112 ≠ 0) ||
  (levelWords p).any fun v => decide (v / 2 ^ 11 % 32 ≠ 0)

/-- Whether two of a list of grants share a lane group. -/
def grantsOverlap : List (BitVec 16) → Bool
  | [] => false
  | g :: gs => gs.any (fun h => decide (g &&& h ≠ 0)) || grantsOverlap gs

/-- Fields of a launch record outside their limits (R310 to R312, R314). -/
def State.launchLimits (s : State) (p : Nat) : Bool :=
  let l := launchOf p
  decide (l.job = 0 ∨ l.key = 0 ∨ l.cap < l.base ∨ l.root % 2 ^ 14 ≠ 0 ∨ l.fq % 64 ≠ 0 ∨ l.entry.toNat % 4 ≠ 0 ∨
    recField p 49 1 % 4 = 3 ∨ 2 ≤ recField p 49 1 / 16 % 4 ∨ l.dlmax.toNat < l.dldef.toNat ∨ l.dlmax = 0 ∨
    2 ^ 36 < l.dlmax.toNat ∨ l.tcap = 0 ∨ 2 ^ 40 < l.tcap.toNat) ||
  !s.paOk l.root || !s.paOk l.fq || grantsOverlap l.grants ||
  (levelWords p).any (fun v => decide (9 ≤ v % 2 ^ 8)) || (l.levels.any fun v => decide (v.count = 0))

/-- The rises of a list of domains, innermost first (R313). -/
def risesStrictly : List Nat → Bool
  | a :: b :: l => decide (a < b) && risesStrictly (b :: l)
  | _ => true

/-- Whether the levels have the shape of R313. -/
def levelShape (p : Nat) : Bool :=
  let used := usedLevels p
  !used.isEmpty && ((levelWords p).drop used.length).all (fun v => decide (v = 0)) && risesStrictly (used.map (· % 2 ^ 8))

/-- Whether every package of the pod shares this package's slice (R354). -/
def State.onePodSlice (s : State) : Bool :=
  (List.range 16).all fun k => decide (k = s.pkg.bar.fabid.toNat / 2 ^ 16 % 16) || (Config.podSlice k).isEmpty

/-- Whether a level above the package can be placed (R312, R313, R354): packages of the slice; one slice; one pod. -/
def State.outerOk (s : State) (v : Level) : Bool :=
  match v.domain with
  | 6 => decide (v.count ≤ s.slice.length) && (decide (v.scope = .fab) || (decide (v.count = 1) && decide (v.scope = .pkg ∨ v.scope = .sys)))
  | 7 => decide (v.count = 1 ∧ v.scope = .fab)
  | 8 => decide (v.count = 1 ∧ v.scope = .fab) && s.onePodSlice
  | _ => true

/-- Whether the package has held no lock to the reference for 10 ms (R355). -/
def State.lockLong (s : State) : Bool :=
  match s.pkg.lockLost with
  | some t => decide (t.toNat + 10000000 ≤ s.gtime.toNat)
  | none => false

/-- Whether a launch can be placed (R313, R314, R354, R355). -/
def State.placementOk (s : State) (p : Nat) : Bool :=
  let l := launchOf p
  levelShape p && l.levels.all s.outerOk && s.placeable l && !(l.multi && s.lockLong)

/-! Validation (R314). -/

/-- Whether a key is installed and its TDI is in RUN (R345). -/
def State.keyOk (s : State) (k : Nat) : Bool :=
  let e := s.pkg.keys.get ⟨false, false, 0⟩ k
  s.keyLive k && decide (e.tdi < 64) && s.pkg.tdiRun.getLsbD e.tdi

/-- A launch taken and not yet with the scheduler. -/
def Cmd.launches (c : Cmd) (id : BitVec 32) : Bool := decide (c.kind = 1 ∧ recField c.payload 0 4 = id.toNat)

/-- Whether a job is live on this package: its journal state is not final (R310). -/
def State.jobLive (s : State) (id : BitVec 32) : Bool := (s.job? id).isSome || s.pkg.cmds.any fun c => c.launches id

/-- Whether a job stands frozen by the slate wave. -/
def State.frozenJob (s : State) (id : BitVec 32) : Bool :=
  match s.job? id with
  | some j => decide (j.slate.st = .frozen ∨ j.slate.st = .stepping)
  | none => false

/-- Whether a debugger request may name a strand: one of the job in a slot here, or a strand of another package of its slice (R385). -/
def State.strandKnown (s : State) (id sid : BitVec 32) : Bool :=
  if sidPkg sid = s.pkgNo then
    match s.strand? sid with
    | some t => decide (t.job = id)
    | none => false
  else match s.job? id with
    | some j => j.multi && s.slice.contains (sidPkg sid)
    | none => false

/-- Validation of a debugger request (R385). -/
def State.debugReason (s : State) (p : Nat) : Nat :=
  let id := BitVec.ofNat 32 (recField p 0 4)
  let op := recField p 4 1
  let addr := recField p 16 8
  if op = 0 ∨ 4 < op then 3
  else if !s.jobLive id then 4
  else if op = 1 then 0
  else if !s.frozenJob id then 3
  else if op = 3 then 0
  else if !s.strandKnown id (BitVec.ofNat 32 (recField p 8 4)) then 3
  else if op = 4 ∧ (addr % 64 ≠ 0 ∨ s.dmaOk addr 512 = false) then 3
  else 0

/-- Reserved bytes of a payload that are not zero, by kind (R303, R318, R385). -/
def payloadReserved (kind p : Nat) : Bool :=
  match kind with
  | 1 => launchReserved p
  | 2 => decide (recField p 1 7 ≠ 0 ∨ recField p 48 16 ≠ 0)
  | 3 => decide (recField p 4 444 ≠ 0)
  | 4 => decide (recField p 5 3 ≠ 0 ∨ recField p 12 4 ≠ 0 ∨ recField p 24 424 ≠ 0)
  | _ => decide (recField p 2 446 ≠ 0)

/-- The reason a command fails validation with; 0: it is accepted (R314). `res`: a reserved field of its slot is not zero. Log 50 (DESIGN CHOICE). -/
def State.validate (s : State) (kind p : Nat) (res : Bool) : Nat :=
  if kind = 0 ∨ 5 < kind then 1
  else if res || payloadReserved kind p then 2
  else match kind with
    | 1 =>
      if s.launchLimits p then 3
      else if s.jobLive (BitVec.ofNat 32 (recField p 0 4)) then 7
      else if !s.keyOk (launchOf p).key then 5
      else if !s.placementOk p then 6
      else 0
    | 2 => if (recField p 0 1 ≠ 1 ∧ recField p 0 1 ≠ 2) ∨ recField p 8 8 % 2 ^ 14 ≠ 0 ∨ recField p 16 8 % 2 ^ 18 ≠ 0 ∨ recField p 40 8 % 8 ≠ 0 then 3 else 0
    | 3 => if s.jobLive (BitVec.ofNat 32 (recField p 0 4)) then 0 else 4
    | 4 => s.debugReason p
    | _ => if recField p 0 2 = 0 ∨ 4095 < recField p 0 2 then 3 else if s.keyLive (recField p 0 2) then 0 else 5

/-! Taking a command (R319, R320). -/

/-- The place of the slot of command n (R317). -/
def State.slotLoc (s : State) (n : Nat) : Nat := s.winPa ((n - 1) % 65536 * 512)

/-- Whether the journal entry that command n overwrites is in a final state. -/
def State.entryFree (s : State) (n : Nat) : Bool := decide (n ≤ 16384) || decide (3 ≤ s.devGet (s.journalPa n + 10) 1)

/-- The job a command names; 0 for none. -/
def cmdJob (kind p : Nat) : BitVec 32 := if kind = 1 ∨ kind = 3 ∨ kind = 4 then BitVec.ofNat 32 (recField p 0 4) else 0

/-- The digest of a launch record (R354). -/
def Launch.digest (l : Launch) : Nat := Config.sm3 (bytesOfNat 256 l.bytes)

/-- Takes command n from its slot: the commit word is cleared, `taken` counts it, and it is journalled as accepted or failed (R314, R319). -/
def State.takeSlot (s : State) (n loc v : Nat) : State :=
  let kind := recField v 0 2
  let p := recField v 64 448
  let cookie := word (recField v 8 8)
  let reason := s.validate kind p (decide (recField v 2 2 ≠ 0 ∨ recField v 16 48 ≠ 0))
  let s1 := ((s.devPut loc 8 0).ctlPut 0 (s.ctlGet 0 + 1)).onPkg fun g => { g with lastCmd := n }
  let st : JState := if reason = 0 then .accepted else .failed
  let s2 := s1.journalPut ⟨n, kind, st, reason, cmdJob kind p, s.gtime, s.gtime, cookie, 0, 0⟩
  if reason ≠ 0 then s2
  else
    let l := launchOf p
    s2.onPkg fun g => { g with
      cmds := g.cmds ++ [⟨n, kind, cookie, p, s.gtime, false⟩]
      ctlOut := if kind = 1 ∧ l.multi = true then g.ctlOut ++ [.accept s.pkgNo l.job l.digest s.gtime] else g.ctlOut }

/-- COMMAND_TAKE: the device takes the next command when its slot carries its number and the entry it overwrites is final; a later command found there fails the awaited one (R319). -/
def execCommandTake (s : State) : Result :=
  let n := s.pkg.lastCmd + 1
  let loc := s.slotLoc n
  let v := s.devGet loc 512
  let ahead := (recField v 4 4 + 2 ^ 32 - n % 2 ^ 32) % 2 ^ 32
  .next (if s.pkg.bar.state ≠ 4 ∨ s.cyanUp 0 = false ∨ recField v 0 8 = 0 then s
  else if ahead = 0 then (if s.entryFree n then s.takeSlot n loc v else s)
  else if ahead < 2 ^ 31 then (s.onPkg fun g => { g with lastCmd := n }).journalPut ⟨n, 0, .failed, 8, 0, s.gtime, s.gtime, 0, 0, 0⟩
  else s)

/-! Commands handed on (R318, R321, R331). -/

/-- An accepted command of a kind, once no earlier launch, and no earlier command for the same job, waits to be begun (R319, R331); none while both cores that hand commands on are down (R332, R333). -/
def State.cmd? (s : State) (seq kind : Nat) : Option Cmd :=
  if !s.cyanUp 0 then none else match s.pkg.cmds.find? fun c => decide (c.seq = seq ∧ c.kind = kind) with
  | none => none
  | some c =>
    if s.pkg.cmds.any fun d => decide (d.seq < seq) && !d.busy && (decide (d.kind = 1) || decide (cmdJob d.kind d.payload = cmdJob c.kind c.payload ∧ d.kind ≠ 2 ∧ d.kind ≠ 5)) then none
    else some c

/-- Takes a command off the package's list. -/
def State.dropCmd (s : State) (seq : Nat) : State := s.onPkg fun g => { g with cmds := g.cmds.filter fun c => decide (c.seq ≠ seq) }

/-- A command goes from accepted to a final state (R321). -/
def State.endCmd (s : State) (c : Cmd) (st : JState) (detail : Nat) : State := (s.dropCmd c.seq).journalMove c.seq st 0 detail

/-- Marks a command as begun. -/
def State.beginCmd (s : State) (seq : Nat) : State :=
  s.onPkg fun g => { g with cmds := g.cmds.map fun c => if c.seq = seq then { c with busy := true } else c }

/-- A job as its launch is handed to the scheduler: accepted, waiting since it was taken (R325). -/
def Job.fresh (c : Cmd) (l : Launch) (accepts : List (Nat × Nat × Word)) : Job where
  id := l.job
  seq := c.seq
  rec_ := l
  state := .accepted
  code := 0
  jval := 0
  jrun := false
  jfrom := 0
  eff := l.base
  waitSince := some c.taccept
  servedAt := none
  cores := []
  places := []
  bindable := []
  started := 0
  stopReq := none
  gang := .none
  w0 := 0
  held := []
  bigRecs := []
  slate := Slate.none
  multi := l.multi
  accepts := accepts
  startAt := none
  notBefore := 0
  timed := false
  regions := []
  gangStops := []
  gangReady := []

/-- Acceptances of a launch that came before it was handed over here. -/
def State.earlyAccepts (s : State) (id : BitVec 32) : List (Nat × Nat × Word) :=
  if s.cyanUp 2 then
    s.pkg.ctlIn.filterMap fun c => match c with
      | .accept p k d t => if k = id then some (p, d, t) else none
      | _ => none
  else []

/-- An accepted command ends failed with a reason of R314. -/
def State.journalReject (s : State) (n reason : Nat) : State :=
  let old := s.devGet (s.journalPa n) 64
  let at_ (o k : Nat) : Nat := old / 256 ^ o % 256 ^ k
  s.journalPut ⟨at_ 0 8, at_ 8 2, .failed, reason, BitVec.ofNat 32 (at_ 12 4), word (at_ 16 8), s.gtime, word (at_ 32 8), 0, 0⟩

/-- A launch that has not started ends failed with a reason of R314. -/
def State.rejectLaunch (s : State) (id : BitVec 32) (reason : Nat) : State :=
  match s.job? id with
  | none => s
  | some j => (s.onJob id fun j => { j with state := .failed, waitSince := none }).journalReject j.seq reason

/-- Whether a multi-package launch has not started. -/
def Job.pending (j : Job) : Bool := j.multi && !j.timed && !j.state.final

/-- A launch whose record some package of the slice took differently fails on every package (R354). -/
def State.checkDigests (s : State) (id : BitVec 32) : State :=
  match s.job? id with
  | none => s
  | some j => if j.pending && j.accepts.any (fun a => decide (a.2.1 ≠ j.rec_.digest)) then s.rejectLaunch id 9 else s

/-- LAUNCH: an accepted launch is handed to the scheduler, and its job waits (R310, R325); acceptances of other packages that came before are checked with it (R354). -/
def execLaunch (seq : Nat) (s : State) : Result :=
  .next (match s.cmd? seq 1 with
    | none => s
    | some c =>
      if !s.cobaltUp then s
      else
        let l := launchOf c.payload
        let mine := (s.pkgNo, l.digest, c.taccept) :: (if l.multi then s.earlyAccepts l.job else [])
        let s1 := (s.dropCmd seq).onPkg fun g => { g with ctlIn := g.ctlIn.filter fun m => match m with
          | .accept _ k _ _ => decide (k ≠ l.job) || !s.cyanUp 2
          | _ => true }
        { s1 with jobs := s1.jobs ++ [Job.fresh c l mine] }.checkDigests l.job)

/-- CANCEL: the job ends as cancelled (R323, R331). -/
def execCancel (seq : Nat) (s : State) : Result :=
  .next (match s.cmd? seq 3 with
    | none => s
    | some c => (s.endCmd c .completed 0).killJob (cmdJob 3 c.payload) .cancelled 0)

/-! Shoot-downs (R303, R304). -/

/-- Whether a cached translation is named by a shoot-down of a page range (R303). -/
def TlbEntry.named (t : TlbEntry) (root va count : Nat) : Bool :=
  let lo := if t.big then t.page * 2 ^ 29 else t.page * 2 ^ 18
  let size := if t.big then 2 ^ 29 else 2 ^ 18
  decide (t.root = root ∧ lo < va + count * 2 ^ 18 ∧ va < lo + size)

/-- Jobs under a page-table root. -/
def State.rootJobs (s : State) (root : Nat) : List (BitVec 32) :=
  (s.jobs.filter fun j => decide (j.rec_.root = root) && !j.state.final).map (·.id)

/-- A wait on an object of a named page is abandoned: its instruction issues again, translates anew and keeps its deadline (R304). -/
def Wait.renamed (w : Wait) (named : Word → Bool) : Wait :=
  if (w.obj.va.map fun va => !isNear va && named va).getD false then { w with obj := .polled } else w

/-- A place whose page is named by a shoot-down, known by an address in it: the translation is gone (R304). -/
def staleIf (named : Word → Bool) (va : Word) (loc : Nat) : Nat := if !isNear va && named va then stalePlace va else loc

/-- The places of the locks a strand holds in named pages lose their translation, in its guard table and in the tags of its stores (R225, R304). -/
def Strand.dropLocks (t : Strand) (named : Word → Bool) : Strand :=
  t.renamed fun x => match t.guards.find? fun g => decide (g.lock = x) with
    | some g => staleIf named g.va x
    | none => x

/-- Pending stores of a root's jobs to named pages lose their translation, and so do waits on objects and the locks held there (R304). -/
def State.abandon (s : State) (root : Nat) (named : Word → Bool) : State :=
  let js := s.rootJobs root
  s.mapStrands fun t =>
    if js.contains t.job then
      let t1 := t.dropLocks named
      { t1 with
        pend := t1.pend.map fun p => { p with loc := staleIf named p.va p.loc }
        wait := t.wait.map fun w => w.renamed named }
    else t

/-- Whether a cached pointer leads to translations a page range names (R303). -/
def WalkPtr.named (p : WalkPtr) (root va count : Nat) : Bool :=
  let size := 2 ^ (29 + 11 * p.left)
  decide (p.root = root ∧ p.part * size < va + count * 2 ^ 18 ∧ va < (p.part + 1) * size)

/-- Drops cached translations and pointers from every TLB and walk cache of the package (R303). -/
def State.dropCached (s : State) (entry : TlbEntry → Bool) (ptr : WalkPtr → Bool) : State :=
  (List.range 4).foldl (fun (a : State) d => a.onDie d fun x => { x with walks := x.walks.filter fun p => !ptr p })
    { s with tlb := s.tlb.filter fun t => !entry t }

/-- SHOOTDOWN_PAGE_RANGE: the translations of a range of pages are dropped (R303). -/
def execShootdownPageRange (seq : Nat) (s : State) : Result :=
  .next (match s.cmd? seq 2 with
    | none => s
    | some c =>
      let root := recField c.payload 8 8
      let va := recField c.payload 16 8
      let n := recField c.payload 24 8
      if c.busy ∨ recField c.payload 0 1 ≠ 1 then s
      else
        let dropped := s.tlb.filter fun t => t.named root va n
        let named (w : Word) : Bool := decide (va ≤ w.toNat ∧ w.toNat < va + n * 2 ^ 18) ||
          dropped.any fun t => t.big && decide (w.toNat / 2 ^ 29 = t.page)
        ((s.dropCached (fun t => t.named root va n) fun p => p.named root va n).abandon root named).beginCmd seq)

/-- SHOOTDOWN_ROOT: every translation of one root is dropped (R303). -/
def execShootdownRoot (seq : Nat) (s : State) : Result :=
  .next (match s.cmd? seq 2 with
    | none => s
    | some c =>
      let root := recField c.payload 8 8
      if c.busy ∨ recField c.payload 0 1 ≠ 2 then s
      else ((s.dropCached (fun t => decide (t.root = root)) fun p => decide (p.root = root)).abandon root fun _ => true).beginCmd seq)

/-- The job of whoever asks the host or a peer. -/
def State.askerJob (s : State) : Asker → BitVec 32
  | .strand u => match s.byUid? u with
    | some t => t.job
    | none => 0
  | .copy id => match s.copy? id with
    | some c => c.job
    | none => 0
  | .port core p => match ((s.core core).ports.toList.getD p Port.free).bound with
    | some (u, _) => (match s.byUid? u with
      | some t => t.job
      | none => 0)
    | none => 0
  | .chain hdr => match s.pkg.chains.find? fun h => decide (h.hdr = hdr) with
    | some h => h.job
    | none => 0

/-- Whether a request that obtained a translation of one of a list of jobs is still on its way (R304). -/
def State.underWay (s : State) (js : List (BitVec 32)) : Bool :=
  s.pkg.copies.any (fun c => js.contains c.job && !(c.out.isEmpty && c.hold.isEmpty)) ||
  s.pkg.hostReqs.any (fun r => js.contains (s.askerJob r.who)) ||
  s.pkg.proxies.any (fun p => js.contains (s.askerJob (.strand p.uid))) ||
  s.pkg.peers.any (fun q => q.2.unacked.any fun u => match u.who with
    | some w => js.contains (s.askerJob w)
    | none => false) ||
  s.cores.any fun c => c.2.matrix.queue.any fun e => (match e.op with
    | .mst _ _ _ _ => true
    | _ => false) && (match s.byUid? e.uid with
      | some t => js.contains t.job
      | none => false)

/-- SHOOTDOWN_ACK: with nothing left under way that obtained an old translation, seq is written to ack (R304, R321). -/
def execShootdownAck (seq : Nat) (s : State) : Result :=
  .next (match s.cmd? seq 2 with
    | none => s
    | some c =>
      if !c.busy || s.underWay (s.rootJobs (recField c.payload 8 8)) then s
      else
        let n := recField c.payload 32 8
        (s.devPut (recField c.payload 40 8) 8 n).endCmd c .completed n)

/-! Keys (R347). -/

/-- A key stops being valid, and every job under it ends: with `KEY_REVOKED`, or `TDI_LEFT_RUN` where it is pre-empted (R331, R347). -/
def State.revokeKey (s : State) (k : Nat) (code : FaultCode) : State :=
  let s1 := s.onPkg fun g => { g with keys := g.keys.set ⟨false, false, 0⟩ k { g.keys.get ⟨false, false, 0⟩ k with revoked := true } }
  let mine := s1.jobs.filter fun j => decide (j.rec_.key = k) && !j.state.final
  mine.foldl (fun (a : State) j => a.killJob j.id .failed (match j.gang with
    | .saved _ _ => FaultCode.tdiLeftRun.num
    | _ => code.num)) s1

/-- KEY_INVALIDATE: a key-invalidate command (R318, R347). -/
def execKeyInvalidate (seq : Nat) (s : State) : Result :=
  .next (match s.cmd? seq 5 with
    | none => s
    | some c => (s.endCmd c .completed 0).revokeKey (recField c.payload 0 2) .keyRevoked)

end Sys2Proof.Machine
end

