-- ==== Sys2Proof/Machine/SlateEvents.lean ====
section
/-! DEFINITION. The slate wave and the debugger (14_fabric.md R384 to R393; 05_core_vector.md R134): the wave's arrival, reports, the first cause, resume and restart, single steps and dumps. -/

namespace Sys2Proof.Machine

/-- Takes a control message that has arrived, if it has and a cyan core performs that duty (R332, R333). -/
def State.takeCtl (s : State) (c : Ctl) : Option State :=
  if s.cyanUp 2 && s.pkg.ctlIn.contains c then some (s.onPkg fun g => { g with ctlIn := g.ctlIn.erase c }) else none

def State.onSlate (s : State) (id : BitVec 32) (f : Slate → Slate) : State := s.onJob id fun j => { j with slate := f j.slate }

/-! Resume and restart (R392). -/

/-- Sends a multicast chunk to one destination again, by unicast, in place of the copy that was dropped on the way (R368). -/
def State.resendBranch (s : State) (id j pkg : Nat) : State :=
  match s.copy? id with
  | none => s
  | some c =>
    let lost (u : Unacked) : Bool := decide (u.who = some (.copy id) ∧ u.elem = j ∧ u.pkt.kind = 7)
    let ids := ((s.peer pkg).unacked.filter lost).map fun u => peerReq pkg u.pkt.eseq
    let s1 := s.setPeer pkg { s.peer pkg with unacked := (s.peer pkg).unacked.filter fun u => !lost u }
    let s2 := s1.onCopy id fun c => { c with out := c.out.filter fun o => !ids.contains o.2 }
    (s2.sendMc c j pkg true).onPkg fun g => { g with branches := g.branches.filter fun b => !decide (b.copy = id ∧ b.chunk = j ∧ b.pkg = pkg) }

/-- The end-to-end timers of a job stood while it was frozen (R388). -/
def Unacked.shift (u : Unacked) (id : BitVec 32) (since now : Word) : Unacked :=
  if u.pkt.job = id then { u with at_ := u.at_ + (now - (if u.at_.toNat < since.toNat then since else u.at_)) } else u

/-- A resume reaches this package: receivers, engines and queues go on, resends held back go out, and the restart stands 10 µs after T_r (R388, R392). -/
def State.resumeJob (s : State) (id : BitVec 32) (tr stop : Word) : State :=
  match s.job? id with
  | none => s
  | some j =>
    if j.slate.st ≠ .frozen then s
    else
      let s1 := s.onSlate id fun l => { l with st := .resuming, resumeAt := some (tr + 10000), resumeStop := stop }
      let s2 := s1.onPkg fun g => { g with peers := g.peers.map fun q => (q.1, { q.2 with unacked := q.2.unacked.map fun u => u.shift id j.slate.frozenAt s.gtime }) }
      (s2.pkg.branches.filter fun b => b.nacked && (s2.jobCopies id).contains b.copy).foldl (fun (a : State) b => a.resendBranch b.copy b.chunk b.pkg) s2

/-- A strand that stopped at a `brk` goes on after it (R101). -/
def State.passBrk (s : State) : State := if s.cur.brkDone then (s.onCur fun t => { t with brkDone := false }).retire else s

/-- The strands of a job collect what homes decided while it stood, in the order their waits reached them (R392). Log 27 (DEDUCED). -/
def State.collectAll (s : State) (id : BitVec 32) : State :=
  s.waiters.foldl (fun (a : State) x => a.asUid x.2 fun s =>
    match s.cur.wait with
    | some w => if s.cur.job = id ∧ s.cur.away = false then (s.homeDecide w).getD s else s
    | none => s) s

/-- A gang pre-emption request that the slate wave held back takes effect (R331). -/
def State.heldRequest (s : State) (id : BitVec 32) : State :=
  match s.job? id with
  | some j => if j.gang = .held then s.gangRequest id else s
  | none => s

/-- The restart of a job at a gtime: `jtime` stands at the stop value, and every strand goes on (R392). A job whose `jtime` had not started starts no clock, and its common start comes after this (R393). Log 27 (DEDUCED). -/
def State.restart (s : State) (id : BitVec 32) (at_ stop : Word) : State :=
  let s0 := s.collectAll id
  let s1 := s0.onJob id fun j => { j with
    slate := Slate.none
    jval := stop, jfrom := at_, jrun := j.timed && decide (j.gang = .none ∨ j.gang = .held)
    notBefore := if j.timed then j.notBefore else at_ }
  let s2 := (s1.forUids (s1.slotUids id) State.passBrk).heldRequest id
  (s2.pkg.cmds.filter fun c => decide (c.kind = 4 ∧ recField c.payload 4 1 = 3 ∧ cmdJob 4 c.payload = id) && c.busy).foldl
    (fun (a : State) c => a.endCmd c .completed 0) s2

/-- The restart that is due for a job at this gtime, if one is. -/
def State.restartDue (s : State) (id : BitVec 32) : State :=
  match s.job? id with
  | none => s
  | some j =>
    match j.slate.resumeAt with
    | some t => if j.slate.st = .resuming ∧ t.toNat ≤ s.gtime.toNat then s.restart id t j.slate.resumeStop else s
    | none => s

/-- SLATE_RESTART: at T_r + 10 µs (R392). -/
def execSlateRestart (job : BitVec 32) (s : State) : Result := .next (s.restartDue job)

/-- RESUME_ANNOUNCE: a resume announced by another package of the slice (R392); it stands until a step under way here is over. -/
def execResumeAnnounce (job : BitVec 32) (tr stop : Word) (s : State) : Result :=
  .next (if (s.job? job).any fun j => decide (j.slate.st = .stepping) then s else match s.takeCtl (.resume job tr stop) with
    | none => s
    | some s1 => s1.resumeJob job tr stop)

/-! The wave (R386, R389, R393). -/

/-- SLATE_WAVE_ARRIVE: the wave reaches this package, from a trigger here or from another package of the slice; a package already frozen only takes its cause (R386, R389, R393). -/
def execSlateWaveArrive (job : BitVec 32) (cause : Cause) (s : State) : Result :=
  .next (match s.job? job with
    | none => s
    | some j =>
      if j.slate.wave = some cause then s.freezeJob job cause s.gtime
      else match s.takeCtl (.wave job cause) with
        | none => s
        | some s1 => if j.multi then (s1.restartDue job).freezeJob job cause s.gtime else s1)

/-- FROZEN_REPORT: another package reports its stop value and a cause (R386, R389). -/
def execFrozenReport (pkg : Nat) (job : BitVec 32) (stop : Word) (cause : Cause) (s : State) : Result :=
  .next (match s.takeCtl (.frozen pkg job stop cause) with
    | none => s
    | some s1 => s1.onSlate job fun l =>
      let l1 := l.compete s.pkgNo cause
      { l1 with reports := if l1.reports.any (fun r => decide (r.1 = pkg)) then l1.reports else (pkg, stop) :: l1.reports })

/-- Whether every package of the slice has reported frozen (R389). -/
def State.allFrozen (s : State) (j : Job) : Bool := (s.jobPkgs j).all fun p => j.slate.reports.any fun r => decide (r.1 = p)

/-- FIRST_CAUSE_FINAL: 8 µs after this package froze, with every package frozen, the first cause is final; MSI-X vector 3 (R389). -/
def execFirstCauseFinal (job : BitVec 32) (s : State) : Result :=
  .next (match s.job? job with
    | none => s
    | some j =>
      if (j.slate.st = .frozen ∨ j.slate.st = .stepping) ∧ j.slate.final = false ∧ j.slate.frozenAt.toNat + 8000 ≤ s.gtime.toNat ∧ s.allFrozen j = true then
        (s.onSlate job fun l => { l with final := true }).signal 3
      else s)

/-- SLATE_FREEZE_TIMEOUT: a package of the slice has not frozen within 100 µs of the trigger, or has said so: the job ends failed with `FABRIC_UNREACHABLE` on every package (R393). -/
def execSlateFreezeTimeout (job : BitVec 32) (s : State) : Result :=
  let code := FaultCode.fabricUnreachable.num
  .next (match s.takeCtl (.fail job code) with
    | some s1 => if (s.job? job).any (·.multi) then s1.killJob job .failed code else s1
    | none =>
      match s.job? job with
      | none => s
      | some j =>
        match j.slate.first with
        | none => s
        | some c =>
          if j.multi && !s.allFrozen j && !j.slate.final && decide (c.gtime.toNat + 100000 ≤ s.gtime.toNat) then
            (s.tell j (.fail job code)).killJob job .failed code
          else s)

/-! Queued vector work (R134). -/

/-- VECTOR_QUEUE_COMPLETION: the oldest scalar result that the vector unit owes a strand is delivered (R134). Log 7 (DEDUCED). -/
def execVectorQueueCompletion (sid : BitVec 32) (s : State) : Result :=
  .next (match s.strands.find? fun t => decide (t.sid = sid) && !t.vq.isEmpty with
    | none => s
    | some t => s.onUid t.uid fun t => match t.vq with
      | [] => t
      | x :: xs => { t with vq := xs }.setS x.reg x.val)

/-! The debugger (R385, R391, R392). -/

/-- A debugger command of an op. -/
def State.debugCmd? (s : State) (seq op : Nat) : Option Cmd :=
  match s.cmd? seq 4 with
  | some c => if recField c.payload 4 1 = op then some c else none
  | none => none

/-- The cause of a debugger freeze (R389). -/
def State.debugCause (s : State) : Cause := ⟨s.pkgNo, BitVec.ofNat 32 (s.pkgNo * 2 ^ 22), 0, FaultCode.breakpoint.num, s.gtime⟩

/-- A job with nothing in a slot that a wave would have to stop, or one that a gang pre-emption holds: it is marked frozen at once (R393). -/
def State.stands (s : State) (j : Job) : Bool :=
  decide (s.slotUids j.id = []) || (match j.gang with
    | .saved _ _ | .resuming _ => true
    | _ => false)

/-- DEBUG_FREEZE: starts the slate wave for a job, and completes when the package is frozen (R385, R393). -/
def execDebugFreeze (seq : Nat) (s : State) : Result :=
  .next (match s.debugCmd? seq 1 with
    | none => s
    | some c =>
      let id := cmdJob 4 c.payload
      match s.job? id with
      | none => s.endCmd c .failed 0
      | some j =>
        if j.slate.st = .frozen ∨ j.slate.st = .stepping then s.endCmd c .completed 0
        else if j.slate.st = .resuming ∨ c.busy = true then s
        else
          let s1 := s.trigger id s.debugCause
          if s.stands j then (s1.freezeJob id s.debugCause s.gtime).endCmd c .completed 0 else s1.beginCmd seq)

/-- Whether a strand identity names a strand of a job in a slot here. -/
def State.holdsStrand (s : State) (id sid : BitVec 32) : Bool := (s.strand? sid).any fun t => decide (t.job = id)

/-- The step of a strand begins: a wait collects its home's decision; any other instruction may issue once (R391). -/
def State.stepBegin (s : State) (id sid : BitVec 32) : State :=
  match s.strand? sid with
  | none => s
  | some t =>
    let home := match t.wait with
      | some w => w.obj.atHome
      | none => false
    if t.job ≠ id then s
    else if home || t.starting then
      (s.onSlate id fun l => { l with st := .stepping, stepSid := none }).asUid t.uid fun s => match s.cur.wait with
        | some w => (s.homeDecide w).getD s
        | none => s
    else
      (s.onSlate id fun l => { l with st := .stepping, stepSid := some sid }).onUid t.uid fun t => { t with run := .ready, brkDone := false }

/-- Whether the wait a stepped instruction stands in is only for work under way, after which it issues again. -/
def WaitObj.retries : WaitObj → Bool
  | .polled | .matQueue | .mstDrain | .mrdDrain | .vecDrain | .fabricAck => true
  | _ => false

/-- Whether it waits for an answer to a request. -/
def WaitObj.asks : WaitObj → Bool
  | .remote _ | .atomicReply _ | .proxyReply _ => true
  | _ => false

/-- A step goes on, or is over: then its record is posted and the job stands frozen again (R391). Answers whether it is over. Log 51 (DEDUCED). -/
def State.stepOn (s : State) (id sid : BitVec 32) : Bool × State :=
  match s.job? id with
  | none => (true, s)
  | some j =>
    if j.slate.st ≠ .stepping then (true, s)
    else if j.slate.stepSid.isSome then (false, s)
    else
      let rest := s.onSlate id fun l => { l with st := .frozen, stepSid := none }
      let record (s : State) (pc : Word) : State :=
        (s.postRecord j ⟨.step, true, false, false, sid, pc, 0, 0, 0, 0, 0, 0, false, none, none⟩ []).2
      match s.strand? sid with
      | none => (true, { record rest (word (Config.freeChoice s.free)) with free := s.free + 1 })
      | some t =>
        let busy := !t.vq.isEmpty || (s.core (coreOf sid)).matrix.queue.any fun e => decide (e.uid = t.uid)
        match t.wait with
        | some w =>
          if w.obj.asks then (false, s)
          else if w.obj.retries && decide (t.run = .ready) then (false, s.onSlate id fun l => { l with stepSid := some sid })
          else if busy then (false, s) else (true, record rest t.pc)
        | none => if busy then (false, s) else (true, record rest t.pc)

/-- What another package has answered to a step or dump forwarded to it: it is over, or names no strand there, which is reason 3 (R385). -/
def State.farAnswer (s : State) (c : Cmd) (id sid : BitVec 32) : State :=
  match s.takeCtl (.done id sid) with
  | some s1 => s1.endCmd c .completed 0
  | none => match s.takeCtl (.bad id sid) with
    | some s1 => (s1.dropCmd c.seq).journalReject c.seq 3
    | none => s

/-- DEBUG_STEP: one instruction of one strand of a frozen job, here or at the package that holds the strand; number 0 is a step another package has asked for (R385, R391). Log 51 (DEDUCED). -/
def execDebugStep (seq : Nat) (s : State) : Result :=
  let asked := s.pkg.ctlIn.findSome? fun m => match m with
    | .step id sid => if sidPkg sid = s.pkgNo ∧ s.cyanUp 2 = true then some (id, sid) else none
    | _ => none
  .next (if seq = 0 then
    match asked with
    | none => s
    | some (id, sid) =>
      match s.job? id with
      | none => (s.takeCtl (.step id sid)).getD s
      | some j =>
        if !s.holdsStrand id sid && decide (j.slate.st = .frozen) then ((s.takeCtl (.step id sid)).getD s).tell j (.bad id sid)
        else if j.slate.st = .frozen then s.stepBegin id sid
        else
          match s.stepOn id sid with
          | (false, s1) => s1
          | (true, s1) => ((s1.takeCtl (.step id sid)).getD s1).tell j (.done id sid)
  else match s.debugCmd? seq 2 with
    | none => s
    | some c =>
      let id := cmdJob 4 c.payload
      let sid := BitVec.ofNat 32 (recField c.payload 8 4)
      match s.job? id with
      | none => s.endCmd c .failed 0
      | some j =>
        if sidPkg sid ≠ s.pkgNo then
          (if !c.busy then (s.tell j (.step id sid)).beginCmd seq
          else s.farAnswer c id sid)
        else if !c.busy then (if j.slate.st = .frozen then (s.stepBegin id sid).beginCmd seq else s)
        else
          match s.stepOn id sid with
          | (false, s1) => s1
          | (true, s1) => s1.endCmd c .completed 0)

/-- DEBUG_RESUME: held until the first cause is final; then it is announced to the slice with T_r and the largest stop value, and completes at the restart (R392, R393). -/
def execDebugResume (seq : Nat) (s : State) : Result :=
  .next (match s.debugCmd? seq 3 with
    | none => s
    | some c =>
      let id := cmdJob 4 c.payload
      match s.job? id with
      | none => s.endCmd c .failed 0
      | some j =>
        if j.slate.st ≠ .frozen ∨ j.slate.final = false then s
        else
          let stop := word ((j.slate.reports.map fun r => r.2.toNat).foldl Nat.max 0)
          ((s.tell j (.resume id s.gtime stop)).resumeJob id s.gtime stop).beginCmd seq)

/-- The kind of the wait a strand stands in, as `wst` codes it; 0 for none. -/
def Strand.waitKind (t : Strand) : Nat :=
  match t.wait with
  | some w => if w.obj.atHome || w.obj.asks || decide (w.obj = .polled) then w.kind % 16 else 0
  | none => 0

/-- The six levels of a loop stack, outermost first, with zeros past its depth (R385). -/
def levelBytes (loops : List LoopLvl) : List Byte :=
  (List.range 6).flatMap fun i => match loops.reverse[i]? with
    | some l => bytesOfNat 8 l.count.toNat ++ bytesOfNat 8 l.index.toNat ++ bytesOfNat 8 l.start.toNat ++ bytesOfNat 8 l.stop.toNat
    | none => bytesOfNat 32 0

/-- The 512-byte image of a strand (R385). Log 51 (DEDUCED). -/
def Strand.image (t : Strand) : List Byte :=
  bytesOfNat 8 t.pc.toNat ++ bytesOfNat 8 t.full.toNat ++
  ((List.range 32).flatMap fun i => bytesOfNat 8 (t.getS (BitVec.ofNat 5 i)).toNat) ++
  bytesOfNat 8 t.loops.length ++ levelBytes t.loops ++ bytesOfNat 8 t.wst.toNat ++ bytesOfNat 8 t.wabs.toNat ++
  bytesOfNat 8 t.waitKind ++ bytesOfNat 8 (if t.waitKind = 0 then 0 else ((t.wait.bind (·.bound)).getD 0).toNat) ++ bytesOfNat 8 0

/-- Writes the image of a strand to host memory (R385). -/
def State.dump (s : State) (sid : BitVec 32) (addr : Nat) : State :=
  match s.strand? sid with
  | some t => if !s.dmaOk addr 512 then s else s.onPkg fun g => { g with hostOut := g.hostOut ++ [⟨addr, t.image, false⟩] }
  | none => s

/-- DEBUG_DUMP: writes the image of a strand of a frozen job to the host, here or at the package that holds it; number 0 is a dump another package has asked for (R385). Log 51 (DEDUCED). -/
def execDebugDump (seq : Nat) (s : State) : Result :=
  let asked := s.pkg.ctlIn.findSome? fun m => match m with
    | .dump id sid a => if sidPkg sid = s.pkgNo ∧ s.cyanUp 2 = true then some (id, sid, a) else none
    | _ => none
  .next (if seq = 0 then
    match asked with
    | none => s
    | some (id, sid, a) =>
      let s1 := (s.takeCtl (.dump id sid a)).getD s
      match s.job? id with
      | some j => if !s.frozenJob id then s1
        else if s.holdsStrand id sid then (s1.dump sid a.toNat).tell j (.done id sid)
        else s1.tell j (.bad id sid)
      | none => s1
  else match s.debugCmd? seq 4 with
    | none => s
    | some c =>
      let id := cmdJob 4 c.payload
      let sid := BitVec.ofNat 32 (recField c.payload 8 4)
      let addr := recField c.payload 16 8
      match s.job? id with
      | none => s.endCmd c .failed 0
      | some j =>
        if sidPkg sid ≠ s.pkgNo then
          (if !c.busy then (s.tell j (.dump id sid (word addr))).beginCmd seq
          else s.farAnswer c id sid)
        else if s.frozenJob id then (s.dump sid addr).endCmd c .completed 0 else s.endCmd c .failed 0)

end Sys2Proof.Machine
end

