-- ==== Sys2Proof/Machine/Paging.lean ====
section
/-! DEFINITION. Servicing faults and keeping memory (10_die.md R294 to R302, R306; 07_cluster.md R259): walks, free-page pools, the fault queue's tail, the Cobalt paging service, patrol scrubs, lost queues. -/

namespace Sys2Proof.Machine

/-! Walks and pools (R294 to R297). -/

/-- PAGE_WALK: a walker of a die resolves a page for an access of a job whose strands run in the cluster: A and D, first touch, the cached translation (R294 to R296). An access that fails its checks leaves no trace. -/
def execPageWalk (cluster : Nat) (job : BitVec 32) (va : Word) (kind : AccKind) (s : State) : Result :=
  .next (match s.job? job with
    | none => s
    | some j =>
      if isUnused va || isNear va || !(s.boundClusters job).contains cluster then s
      else match s.translate cluster none j.rec_.root j.rec_.key (needOf kind) va.toNat with
        | (s1, .ok _) => s1
        | (_, .error _) => s)

/-- Whether a frame of a die may stand in its pool: 256 KiB of its linear range below the firmware's reserve (R296, R316). Log 50 (DESIGN CHOICE). -/
def State.frameOk (s : State) (d f : Nat) : Bool :=
  decide (f % 2 ^ 18 = 0 ∧ f / 2 ^ 38 = d ∧ f % 2 ^ 38 + 2 ^ 18 + Config.fwReserve ≤ s.linBytes d)

/-- The entries of a node, by index, with a byte that is not 0: nothing else in it can be valid. -/
def State.nodeEntries (s : State) (node count : Nat) : List Nat :=
  ((s.mem.filter fun p => decide (node ≤ p.1 ∧ p.1 < node + 8 * count)).map fun p => (p.1 - node) / 8).eraseDups

/-- Whether a node at a level maps a byte of a range of local HBM (R289 to R291). -/
def State.nodeMaps (s : State) (f n : Nat) : (left node : Nat) → Bool
  | left, node => (s.nodeEntries node (if left = 3 then 32 else 2 ^ 11)).any fun i =>
    let e := s.entryAt node i
    let covers (size : Nat) : Bool := decide (eKind e = 0) && overlaps (eFrame e * 2 ^ 18) size f n
    eV e && (match left with
      | 0 => decide (eRWX e ≠ 0) && covers (2 ^ 18)
      | l + 1 =>
        if eRWX e = 0 then (match s.nextNode e with
          | some next => s.nodeMaps f n l next
          | none => false)
        else decide (l = 0) && covers (2 ^ 29))

/-- Whether a mapping of a live job holds a byte of a range of local HBM (R296, R302). -/
def State.mapped (s : State) (f n : Nat) : Bool := s.jobs.any fun j => !j.state.final && s.nodeMaps f n 3 j.rec_.root

/-- Adds frames that no mapping holds to a die's pool, up to its 65,536 (R296). -/
def State.refill (s : State) (d : Nat) (frames : List Nat) : State :=
  let fs := frames.eraseDups.filter fun f => s.frameOk d f && !(s.die d).pool.contains f && !s.mapped f (2 ^ 18)
  s.onDie d fun x =>
    let pool := (x.pool ++ fs).take 65536
    { x with pool := pool, poolLow := decide (pool.length < 1024) }

/-- POOL_REFILL: the Cobalt core refills a die's pool with frames that no mapping holds (R296). -/
def execPoolRefill (die : Nat) (frames : List Nat) (s : State) : Result :=
  .next (if die < 4 ∧ s.cobaltUp = true ∧ s.pkg.bar.state = 4 then s.refill die frames else s)

/-! The fault queue (R298, R301). -/

/-- FAULT_QUEUE_SPACE: the first held record of a job is posted once the ring has room (R298). -/
def execFaultQueueSpace (job : BitVec 32) (s : State) : Result :=
  .next (match s.job? job with
    | none => s
    | some j =>
      match j.held with
      | [] => s
      | h :: hs =>
        if s.fqHead j - s.fqTail j < s.fqCap j then (s.ringPut j h.bytes h.svc).onJob job fun x => { x with held := hs } else s)

/-- What service does to a strand that stands in record k, or waits for it as an `svc` (R100, R301, R343): the strand is current. -/
def State.passStrand (s : State) (j : Job) (k : Nat) (declined : Bool) : State :=
  match s.cur.wait, s.cur.run with
  | some w, _ =>
    if w.obj = .svc k then
      let block := s.devGet (s.fqSvc j + k % s.fqCap j * 64) 64
      let vals : SMap (Option Word) := if declined then [(0, some (BitVec.ofInt 64 (-2)))]
        else (List.range 8).map fun i => (i, some (word (block / 2 ^ (64 * i))))
      s.onCur fun t => { t with replies := vals ++ [(8, some (if declined then 1 else 0))] }
    else s
  | none, .held r _ =>
    if r ≠ k then s else if declined then s.declineHold else s.resumeFault
  | none, run =>
    if (run = .parked k ∨ run = .frozen (some k)) ∧ declined = false then
      let tag := s.devGet (s.recPa j k + 40) 8
      if s.devGet (s.recPa j k) 1 = FaultCode.hostProxyExpired.num ∧ tag ≠ 2 ^ 64 - 1 then
        (s.onCur fun t => match t.vamoTodo with
          | some l => { t with vamoTodo := some (l.filter fun e => decide (e ≠ t.ffx.toNat)) }
          | none => { t with replies := t.replies.set none 0 (some (word (s.devGet (s.recPa j k + 48) 8))) }).resumeFault
      else s.resumeFault
    else s

/-- The tail has passed record k: every strand in it, and every copy (R301 steps 5 to 7). -/
def State.passRecord (s : State) (id : BitVec 32) (k : Nat) : State :=
  match s.job? id with
  | none => s
  | some j =>
    let declined := !s.recMarked j k || s.recDeclined j k
    let s1 := s.forUids (s.jobUids id) fun s => s.passStrand j k declined
    s1.copiesPassed id k declined

/-- Advances a job's tail; a value below it or above head changes nothing (R301 step 4). -/
def State.advance (s : State) (id : BitVec 32) (tail : Nat) : State :=
  match s.job? id with
  | none => s
  | some j =>
    let old := s.fqTail j
    if tail ≤ old ∨ s.fqHead j < tail then s
    else ((List.range (tail - old)).map (· + old)).foldl (fun (a : State) k => a.passRecord id k) (s.devPut (j.rec_.fq + 24) 8 tail)

/-- TAIL_ADVANCE: a servicer advances a job's tail (R301). -/
def execTailAdvance (job : BitVec 32) (tail : Word) (s : State) : Result := .next (s.advance job tail.toNat)

/-! The Cobalt paging service (R302). -/

/-- Marks a record serviced, or declined, and advances tail to the lowest record still unmarked (R301 step 4). -/
def State.markRecord (s : State) (id : BitVec 32) (k : Nat) (decline : Bool) : State :=
  match s.job? id with
  | none => s
  | some j =>
    let s1 := s.devPut (s.recPa j k + 1) 1 (s.recFlags j k % 64 + (if decline then 0xC0 else 0x80))
    let tail := s1.fqTail j
    let open_ := ((List.range (s1.fqHead j - tail)).map (· + tail)).find? fun i => !s1.recMarked j i
    s1.advance id (open_.getD (s1.fqHead j))

/-- A place after n bytes of memory have moved. -/
def movedTo (dst src n x : Nat) : Nat := if src ≤ x ∧ x < src + n then dst + (x - src) else x

/-- Everything that is known by a place of n bytes of memory, after they have moved: regions, the history of releases and acquires, held locks, chains (R302). -/
def State.renamePlaces (s : State) (dst src n : Nat) : State :=
  let f := movedTo dst src n
  let s1 := { s with
    clusters := s.clusters.map fun (c : Nat × Cluster) => (c.1, { c.2 with lineage := c.2.lineage.map fun (e : Nat × LinEntry) => (e.1, { e.2 with pages := e.2.pages.map fun (r : Word × Nat × Nat) => (r.1, f r.2.1, r.2.2) }) })
    sable := s.sable.map fun (w : WriteRec) => { w with loc := f w.loc }
    hist := s.hist.map fun (w : WriteRec) => { w with loc := f w.loc }
    lockRels := s.lockRels.move [] dst src n
    markRels := s.markRels.move [] dst src n
    joinRels := s.joinRels.move [] dst src n
    tlRels := s.tlRels.move [] dst src n
    chunkMasks := s.chunkMasks.map fun (c : Nat × Nat × Nat × Scope × BitVec 32) => (f c.1, c.2)
    pkg := { s.pkg with chains := s.pkg.chains.map fun (c : Chain) => { c with
      hdr := f c.hdr, todo := c.todo.map fun (m : ChainCmd) => { m with recLoc := f m.recLoc }, cur := c.cur.map fun (m : ChainCmd) => { m with recLoc := f m.recLoc } } } }
  s1.mapStrands fun t => t.renamed f

/-- Moves n bytes of memory to another frame, poison and their place in home order with them, under the keys of the entries (R302). -/
def State.moveFrame (s : State) (key dst src n : Nat) : State :=
  let bytes := s.mem.filter fun p => decide (src ≤ p.1 ∧ p.1 < src + n)
  let bad := s.poison.filter fun p => decide (src ≤ 8 * p.1 ∧ 8 * p.1 < src + n)
  let s1 := s.zeroRange key dst n
  let s2 := bytes.foldl (fun (a : State) p => { a with mem := a.mem.set memDefault (dst + (p.1 - src)) p.2 }) s1
  let s3 := { s2 with poison := bad.foldl (fun (m : SMap Bool) (p : Nat × Bool) => m.set false (dst / 8 + (p.1 - src / 8)) true) s2.poison }
  s3.renamePlaces dst src n

/-- Fills n bytes of a frame with those of a page that stood elsewhere; bytes that `data` does not reach are 0 (R302). -/
def State.fillFrame (s : State) (key dst n : Nat) (data : List Byte) : State :=
  (data.take n).zipIdx.foldl (fun (a : State) x => a.poke key (dst + x.2) [x.1]) (s.zeroRange key dst n)

/-- Sends n bytes of memory to a page of a peer, 512 at a time, poison with them (R302, R305). -/
def State.sendFrame (s : State) (job : BitVec 32) (key dst was src n : Nat) : State :=
  (List.range (n / 512)).foldl (fun (a : State) i =>
    let at_ := src + 512 * i
    (a.sendPacket { a.mkPacket 3 (dst + 512 * i) 512 key 0 .fab (a.decrypt was at_ (a.bytesAt at_ 512)) with
      job := job, unit := 8, flags := if a.poisoned at_ 512 then 1 else 0 } none 0).2) s

/-- Moves a page of n bytes from where its old entry says to where the new one does: between frames of this package's HBM; from elsewhere, its bytes being in `data`; to the host by DMA; or to a peer (R302, R339). Log 65 (DEDUCED). -/
def State.movePage (s : State) (job : BitVec 32) (old val : Word) (n : Nat) (data : List Byte) : State :=
  let dst := eFrame val * 2 ^ 18
  let src := eFrame old * 2 ^ 18
  if eKind val = 0 then
    (if eKind old = 0 then (if dst = src then s else s.moveFrame (eKey val) dst src n) else s.fillFrame (eKey val) dst n data)
  else if eKind old ≠ 0 then s
  else if eKind val = 2 then
    s.onPkg fun g => { g with hostOut := g.hostOut ++ [⟨dst, s.decrypt (eKey old) src (s.bytesAt src n), s.poisoned src n⟩] }
  else if eKind val = 1 then s.sendFrame job (eKey val) (leafLoc val (decide (n = 2 ^ 29)) 0) (eKey old) src n
  else s

/-- Whether a page's bytes may be moved to where an entry says: a host page only within the allow-windows (R335). -/
def State.moveOk (s : State) (e : Word) (n : Nat) : Bool := !(eV e && decide (eKind e = 2)) || s.dmaOk (eFrame e * 2 ^ 18) n

/-- The entries that can be a page's own: of its node, and for a page of 512 MiB of the node above; each with its size (R289). -/
def State.leafEntries (s : State) (root va : Nat) : List (Nat × Nat) :=
  ((s.walkPath root va 3 root).filter fun p => decide (p.left ≤ 1)).map fun p =>
    (p.node + 8 * walkIdx va p.left, if p.left = 0 then 2 ^ 18 else 2 ^ 29)

/-- Whether an entry may be written for a page: one that is not valid, or maps nothing here, or maps whole frames of the linear range that no other mapping, no pool and no firmware reserve holds (R302). -/
def State.frameFree (s : State) (val : Word) (size : Nat) : Bool :=
  let f := eFrame val * 2 ^ 18
  !eV val || decide (eKind val ≠ 0) ||
    (decide (f % size = 0 ∧ f % 2 ^ 38 + size + Config.fwReserve ≤ s.linBytes (f / 2 ^ 38) ∧ f / 2 ^ 38 < 4) && !s.mapped f size &&
      !(s.die (f / 2 ^ 38)).pool.any fun x => overlaps x (2 ^ 18) f size)

/-- The service's work on one entry (R302): answers whether it is done, so that the record is marked. A valid entry whose page is to go to another frame is first cleared and invalidated, and the page moves once nothing that obtained the old translation is under way (R304); a page that was mapped nowhere takes what `data` brings. Log 65 (DEDUCED). -/
def State.serviceEntry (s : State) (job : BitVec 32) (root va entry : Nat) (val : Word) (data : List Byte) : Bool × State :=
  match (s.leafEntries root va).find? fun x => decide (x.1 = entry) with
  | none => (false, s)
  | some (_, size) =>
    let base := va / size * size
    let old := s.entryAt entry 0
    let drop (a : State) : State :=
      (a.dropCached (fun t => t.named root base (size / 2 ^ 18)) fun p => p.named root base (size / 2 ^ 18)).abandon root fun w => decide (w.toNat / size = va / size)
    if eV old && decide (¬ (eV val = true ∧ eKind val = eKind old ∧ eFrame val = eFrame old)) then
      (false, ((drop s).devPut entry 8 (old &&& ~~~1#64).toNat).onPkg fun g => { g with moving := (entry, old) :: g.moving })
    else if eV old then (true, (drop s).devPut entry 8 val.toNat)
    else if !s.frameFree val size then (false, s)
    else match s.pkg.moving.find? fun x => decide (x.1 = entry) with
      | none =>
        let s1 := if eV val && decide (eKind val = 0) && !data.isEmpty then (drop s).fillFrame (eKey val) (eFrame val * 2 ^ 18) size data else drop s
        (true, s1.devPut entry 8 val.toNat)
      | some (_, was) =>
        if s.underWay (s.rootJobs root) || !s.moveOk was size || !s.moveOk val size then (false, s)
        else (true, ((s.movePage job was val size data).devPut entry 8 val.toNat).onPkg fun g => { g with moving := g.moving.filter fun x => decide (x.1 ≠ entry) })

/-- The service has no frame to give: a `MEMORY_EXHAUSTED` record, and the job ends (R302, R323). -/
def State.exhausted (s : State) (j : Job) (k : Nat) : State :=
  let r : FaultRec := ⟨.memoryExhausted, false, false, false, BitVec.ofNat 32 (s.devGet (s.recPa j k + 8) 4), word (s.devGet (s.recPa j k + 16) 8),
    word (s.devGet (s.recPa j k + 24) 8), 0, 0, 0, 0, 0, false, none, none⟩
  (s.postRecord j r []).2.killJob j.id .failed FaultCode.memoryExhausted.num

/-- PAGING_SERVICE: the Cobalt paging service services a record of code 0x12, or of 0x10 where the header asks for it: refills the pool or writes the page's entry, with `supply.data` what a DMA read of the page gave, and marks the record; or declines it; or finds itself without a frame (R301, R302). A declined 0x12, and a declined 0x10 with `val` not 0, stand for the last. Log 50 (DESIGN CHOICE). -/
def execPagingService (job : BitVec 32) (rec_ entry : Nat) (val : Word) (supply : PageSupply) (decline : Bool) (s : State) : Result :=
  .next (match s.job? job with
    | none => s
    | some j =>
      let code := s.devGet (s.recPa j rec_) 1
      let pool := decide (code = FaultCode.firstTouchPoolEmpty.num)
      let mine := pool || (decide (code = FaultCode.pageNotPresent.num) && s.fqPaging j)
      if !s.cobaltUp || !mine || s.recMarked j rec_ || decide (rec_ < s.fqTail j ∨ s.fqHead j ≤ rec_) then s
      else if decline && (pool || decide (val ≠ 0)) then s.exhausted j rec_
      else if decline then s.markRecord job rec_ true
      else if pool then (s.refill (sidDie (BitVec.ofNat 32 (s.devGet (s.recPa j rec_ + 8) 4))) supply.frames).markRecord job rec_ false
      else match s.serviceEntry job j.rec_.root (s.devGet (s.recPa j rec_ + 24) 8) entry val supply.data with
        | (true, s1) => s1.markRecord job rec_ false
        | (false, s1) => s1)

/-! Errors (R259, R306). -/

/-- An error in what a copy holds ends it in final failure: its held chunks are abandoned (R284, R307). -/
def State.holdBroken (s : State) (id : Nat) : State :=
  match s.copy? id with
  | none => s
  | some c =>
    match c.hold with
    | [] => s
    | x :: _ =>
      (((c.hold.map (·.chunk)).eraseDups.foldl (fun (a : State) j => a.abandonChunk id j) s).copyFault id (fail .uncorrectableEcc)
        (c.desc.elem c.rev x.elem).2 9).onCopy id fun c => { c with final := true }

/-- PATROL_SCRUB: the scrubber finds an error in a word of a vault or of HBM, corrects it or poisons the word, and logs it (R306). With a place of a scratchpad the event stands for the read that finds the error, which the core counts (R173); with a hold buffer, for an uncorrectable error there, which ends the copy (R307). Log 56 (DESIGN CHOICE). -/
def execPatrolScrub (at_ : ErrPlace) (bad : Bool) (s : State) : Result :=
  .next (match at_ with
    | .word loc =>
      if (s.errUnit loc).isNone && (coreOfLoc loc).isNone then s
      else if bad then (s.logError loc bad).setPoison (loc / 8 * 8) 8 true else s.logError loc bad
    | .hold id => if bad then s.holdBroken id else s
    | .part pkg job j =>
      if bad then s.onPkg fun g => { g with heldParts := g.heldParts.map fun x =>
        if x.spkg = pkg ∧ x.job = job ∧ x.chunk = j then { x with flags := x.flags ||| 0x40 } else x }
      else s)

/-- QUEUE_LOST: the queue unit finds an uncorrectable error in a task queue (none) or a work-queue of a job bound to its cluster: what stood in it is gone, its job gets a record, and every `qpop` waiting on it ends (R259). Tasks that were saved are not in the queue's memory and stay. The record of a lost task queue, which has no queue value, carries its cluster and queue number 0. Log 63 (DESIGN CHOICE). -/
def execQueueLost (cluster : Nat) (job : BitVec 32) (queue : Option Nat) (s : State) : Result :=
  .next (match s.job? job with
    | none => s
    | some j =>
      if 20 ≤ cluster ∨ (s.boundClusters job).contains cluster = false then s
      else
        let value := cluster % 5 * 64 + queue.getD 0
        let s1 := match queue with
          | some q => s.setWorkQ cluster (workKey job (q % 64)) ⟨[], true⟩
          | none =>
            let t := s.taskQ cluster job
            s.setTaskQ cluster job ⟨t.items.filter fun i => i.resume.isSome, true⟩
        (s1.postRecord j ⟨.queueLost, false, false, false, 0, 0, word value, 0, 0, 0, 0, 0, false, none, none⟩ []).2)

end Sys2Proof.Machine
end

