-- ==== Sys2Proof/Machine/Boot.lean ====
section
/-! DEFINITION. Boot, resets, registers and the host's memory accesses (12_package.md R315, R316, R332 to R338, R348, R349; 14_fabric.md R353, R390; 08_ordering.md R275; R397). -/

namespace Sys2Proof.Machine

/-! Firmware cores (R333, R334). -/

/-- CYAN_RELOAD: an uncorrectable error resets a cyan core and the Cobalt core reloads it; its duties pause for at most 50 µs, how long is free (R332, R333). Log 52 (DESIGN CHOICE). -/
def execCyanReload (n : Nat) (s : State) : Result :=
  .next (if 6 ≤ n ∨ s.cobaltUp = false then s
  else
    let til := s.gtime + word (Config.freeChoice s.free % 50001)
    { s with free := s.free + 1 }.onPkg fun g => { g with cyanPaused := (n, til) :: g.cyanPaused.filter fun x => decide (x.1 ≠ n) })

/-- A command not yet begun fails with a fault code: its job ends before it starts. -/
def State.failLaunches (s : State) (which : Launch → Bool) (code : Nat) : State :=
  (s.pkg.cmds.filter fun c => decide (c.kind = 1) && which (launchOf c.payload)).foldl
    (fun (a : State) c => (a.dropCmd c.seq).journalMove c.seq .failed code 0) s

/-- COBALT_RESET: an uncorrectable error resets the Cobalt core, whose duties pause for up to 2 ms; a second within 1 s is fatal, and every job ends failed (R334). Log 52 (DESIGN CHOICE). -/
def execCobaltReset (s : State) : Result :=
  let again := match s.pkg.cobaltErrAt with
    | some t => decide ((s.gtime - t).toNat < 1000000000)
    | none => false
  let til := s.gtime + word (Config.freeChoice s.free % 2000001)
  let s1 := { s with free := s.free + 1 }.onPkg fun g => { g with cobaltErrAt := some s.gtime, cobaltPaused := some til }
  .next (if again then
    let code := FaultCode.uncorrectableEcc.num
    let s2 := s1.onPkg fun g => { g with fatal := true, bar := { g.bar with state := 6 } }
    (s2.jobs.foldl (fun (a : State) j => a.endJob j.id .failed code) s2).failLaunches (fun _ => true) code
  else s1)

/-! Reset (R308, R337, R349). -/

/-- A die with home slices retired: each takes its share of the capacity (R282, R308). -/
def Die.retire (d : Die) (slices : List Nat) : Die :=
  let r := (slices.filter fun x => decide (x < 288)).eraseDups
  { d with retiredSlices := r, capacity := dieCapacity * (288 - r.length) / 288 }

/-- Whether the error log of a die names a home slice of it (R306, R308). -/
def Die.sliceLogged (d : Die) (i : Nat) : Bool := d.errlog.any fun e => isHbm e.loc && decide (e.unit / 2 = i)

/-- Whether an error log names a vault of a cluster (R306, R308). -/
def State.vaultLogged (s : State) (c : Nat) : Bool := (List.range 4).any fun d => (s.die d).errlog.any fun e => !isHbm e.loc && decide (e.unit / 12 = c)

/-- PACKAGE_RESET: the boot ROM starts, and units are retired as the error log says (R308, R337, R349): of home slices, 288 a die, cores and clusters those that the event names and an error is logged for; lane groups, 16 a core, ports and cyan cores as the event names them; what was retired before stays so. Nothing else that was held stays, but the error logs; time goes on. Log 56 (DESIGN CHOICE). -/
def execPackageReset (slices lanes cores clusters ports cyans : List Nat) (s : State) : Result :=
  let r := { State.reset with agenda := s.agenda, gtime := s.gtime, free := s.free, ticket := s.ticket }
  let s1 := (List.range 4).foldl (fun (a : State) d => a.onDie d fun x =>
    { x.retire ((s.die d).retiredSlices ++ ((slices.filter fun i => decide (i / 288 = d)).map (· % 288)).filter (s.die d).sliceLogged) with
      errlog := (s.die d).errlog }) r
  let s2 := (List.range coreCount).foldl (fun (a : State) i =>
    let c := s.core i
    let named := (lanes.filter fun l => decide (l / 16 = i)).foldl (fun (m : BitVec 16) l => m ||| (1#16 <<< (l % 16))) c.laneRetired
    let gone := c.retired || (cores.contains i && decide (0 < c.errors))
    if named = 0 ∧ gone = false ∧ c.errors = 0 then a else a.onCore i fun x => { x with laneRetired := named, retired := gone, errors := c.errors }) s1
  let s3 := (List.range 20).foldl (fun (a : State) i =>
    if (s.cluster i).retired || (clusters.contains i && s.vaultLogged i) then a.onCluster i fun x => { x with retired := true } else a) s2
  .next (s3.onPkg fun g => { g with
    retiredPorts := (s.pkg.retiredPorts ++ ports.filter fun p => decide (p < 26)).eraseDups
    retiredCyan := (cyans.filter fun p => decide (p < 6)).foldl (fun m p => m ||| (1#8 <<< p)) s.pkg.retiredCyan })

/-! The image (R337, R338). -/

/-- IMGDB_WRITE: the length of a staged image starts its verification (R337). -/
def execImgdbWrite (len : Word) (s : State) : Result :=
  .next (if s.pkg.bar.state = 1 ∨ s.pkg.bar.state = 5 then
    s.onPkg fun g => { g with bar := { g.bar with state := 2, reject := 0, imgdb := len } }
  else s)

/-- Bytes of the staged image. -/
def State.imageBytes (s : State) (off n : Nat) : List Byte := bytesOfNat n (s.devGet (s.winPa (0x2100000 + off)) n)

/-- The rejection code of the staged image; 0: it is good. Header, length, signature, digest and version are checked in that order (R338). Log 13 (DESIGN CHOICE). -/
def State.imageReject (s : State) : Nat :=
  let h := natOfBytes (s.imageBytes 0 256)
  let len := recField h 8 8
  if recField h 0 4 ≠ 0x4E485846 ∨ recField h 112 144 ≠ 0 then 5
  else if len < 256 ∨ 31 * 2 ^ 20 < len ∨ len ≠ s.pkg.bar.imgdb.toNat then 4
  else if !Config.sm2Good (Config.sm3 (s.imageBytes 0 48)) (s.imageBytes 48 64) then 1
  else if Config.sm3 (s.imageBytes 256 (len - 256)) ≠ recField h 16 32 then 2
  else if recField h 4 4 < Config.fusedMinVersion then 3
  else 0

/-- Whether a place lies in the command slots, which hold commands committed before the boot is over (R315, R337). -/
def State.inSlots (s : State) (loc : Nat) : Bool := decide (s.winPa 0 ≤ loc ∧ loc < s.winPa 0x2000000)

/-- The firmware zeroes every scratchpad, vault and HBM byte but the command slots (R337). -/
def State.zeroAll (s : State) : State :=
  { s with
    mem := s.mem.filter fun p => s.inSlots p.1
    poison := []
    keyRuns := []
    hist := s.hist.filter fun w => s.inSlots w.loc
    sable := [] }.dropCached (fun _ => true) fun _ => true

/-- The word `retire` of the control block: lane groups, clusters and Ethernet ports retired, by count (R315). -/
def State.retireWord (s : State) : Nat :=
  let groups (c : Core) : Nat := ((List.range 16).filter fun i => c.laneRetired.getLsbD i).length
  let lanes := (s.cores.map fun c => groups c.2).sum
  let clusters := (s.clusters.filter fun c => c.2.retired).length
  lanes % 2 ^ 20 + clusters % 2 ^ 8 * 2 ^ 32 + s.pkg.retiredPorts.length % 2 ^ 8 * 2 ^ 40

/-- The firmware writes the control block (R315, R349). -/
def State.writeControl (s : State) : State :=
  let cores := ((List.range coreCount).filter fun c => !s.coreActive c).length
  let s1 := ((s.ctlPut 0x30 s.retireWord).ctlPut 0x38 cores).ctlPut 0x60 Config.fwReserve
  (List.range 4).foldl (fun (a : State) d => a.ctlPut (0x40 + 8 * d) (s.die d).capacity) s1

/-- Whether some pair of cyan cores is retired whole (R349). -/
def State.pairGone (s : State) : Bool := [0, 2, 4].any fun p => s.pkg.retiredCyan.getLsbD p && s.pkg.retiredCyan.getLsbD (p + 1)

/-- BOOT_READY: the boot goes on by a stage: the boot ROM is done and awaits an image; a staged image is verified, and accepted or rejected; or the firmware initialises the package, fills the pools with the frames given, and is ready (R337, R349). -/
def execBootReady (frames : List Nat) (s : State) : Result :=
  let set (a : State) (st rej : Nat) : State := a.onPkg fun g => { g with bar := { g.bar with state := st, reject := rej } }
  .next (if s.pkg.bar.state = 0 then set s 1 0
  else if s.pkg.bar.state = 2 then
    let r := s.imageReject
    if r ≠ 0 then set s 5 r
    else (set s 3 0).onPkg fun g => { g with imgDigest := natOfBytes (s.imageBytes 16 32) }
  else if s.pkg.bar.state = 3 ∧ s.pairGone = false then
    let s1 := (List.range 4).foldl (fun (a : State) d => (a.onDie d fun x => { x with pool := [] }).refill d frames) s.zeroAll
    set s1.writeControl 4 0
  else s)

/-! Registers (R335, R336, R353, R390). -/

/-- DMALOCK_WRITE: writing 1 locks the allow-windows and the port limits until reset (R335, R336). -/
def execDmalockWrite (val : Word) (s : State) : Result :=
  .next (if val.getLsbD 0 then s.onPkg fun g => { g with bar := { g.bar with dmalock := 1 } } else s)

/-- `FABID.LOCK` (R353). -/
def Bar0.fabLocked (b : Bar0) : Bool := b.fabid.getLsbD 63

/-- A write of `FABID`: reserved bits stay 0; ignored while it is locked (R353). -/
def Bar0.setFabid (b : Bar0) (v : Word) : Bar0 := if b.fabLocked then b else { b with fabid := v &&& 0x80000000000F03FF#64 }

/-- FABID_LOCK: a write of `FABID` with `LOCK` fixes `FABID` and `FABETYPE` until reset (R353). -/
def execFabidLock (val : Word) (s : State) : Result :=
  .next (if val.getLsbD 63 then s.onPkg fun g => { g with bar := g.bar.setFabid val } else s)

/-- A write of a BAR0 register by its offset (R336, R353, R390); what is read-only, reserved or has an event of its own keeps its value, and so does a power cap outside its limits. -/
def Bar0.write (b : Bar0) (off : Nat) (v : Word) : Bar0 :=
  if off = 0x10 then { b with cmddb := v }
  else if 0x100 ≤ off ∧ off < 0x300 ∧ off % 8 = 0 then (if b.dmalock = 0 then { b with dmawin := b.dmawin.set 0 ((off - 0x100) / 8) v } else b)
  else if 0x400 ≤ off ∧ off < 0x400 + 26 * 16 ∧ off % 8 = 0 then (if b.dmalock = 0 then { b with portlim := b.portlim.set 0 ((off - 0x400) / 8) v } else b)
  else if off = 0x600 then (if 1000 ≤ v.toNat ∧ v.toNat ≤ 5600 then { b with pwrcap := v } else b)
  else if off = 0x700 then b.setFabid v
  else if off = 0x708 then (if b.fabLocked then b else { b with fabetype := v &&& 0xFFFF#64 })
  else if off = 0x800 then { b with sljob := v &&& 0xFFFFFFFF#64 }
  else b

/-- Where the control block stands beside BAR0 among the offsets of REGISTER_WRITE: its window offset. -/
def ctlOff : Nat := 0x2000000

/-- REGISTER_WRITE: a host write to a register of BAR0, or to a field of the control block that the host writes: `pxbase`, `pxcap`, `pxtail` (R315, R336). -/
def execRegisterWrite (off : Nat) (val : Word) (s : State) : Result :=
  .next (if off = ctlOff + 0x10 ∨ off = ctlOff + 0x18 ∨ off = ctlOff + 0x28 then s.ctlPut (off - ctlOff) val.toNat
  else s.onPkg fun g => { g with bar := g.bar.write off val })

/-- The state code of `SLSTAT` (R390). -/
def SlateSt.code : SlateSt → Nat
  | .running => 0 | .frozen => 1 | .stepping => 2 | .resuming => 3

/-- The `FCAUSE` layout of a cause (R390). -/
def causeWord (c : Cause) : Word := word (c.code % 2 ^ 8 * 2 ^ 32 + c.sid.toNat)

/-- The three words of a cause as BAR0 shows them. -/
def causeWords (c : Cause) : List Word := [causeWord c, c.pc, c.gtime]

/-- A register of BAR0 as the host reads it (R336, R353, R390). -/
def State.barRead (s : State) (off : Nat) : Word :=
  let b := s.pkg.bar
  let l := match s.job? (BitVec.ofNat 32 b.sljob.toNat) with
    | some j => j.slate
    | none => Slate.none
  let first (i : Nat) : Word := match l.first with
    | some c => (causeWords c).getD i 0
    | none => 0
  if off = 0 then word (b.reject * 2 ^ 8 + b.state)
  else if off = 0x08 then b.imgdb
  else if off = 0x10 then b.cmddb
  else if 0x100 ≤ off ∧ off < 0x300 then b.dmawin.get 0 ((off - 0x100) / 8)
  else if off = 0x300 then b.dmalock
  else if 0x400 ≤ off ∧ off < 0x400 + 26 * 16 then b.portlim.get 0 ((off - 0x400) / 8)
  else if off = 0x600 then b.pwrcap
  else if off = 0x700 then b.fabid
  else if off = 0x708 then b.fabetype
  else if off = 0x800 then b.sljob
  else if off = 0x808 then word (l.lcount * 2 ^ 40 + (if l.final then 4 else 0) + l.st.code)
  else if 0x810 ≤ off ∧ off < 0x828 then first ((off - 0x810) / 8)
  else if 0x828 ≤ off ∧ off < 0x828 + 16 * 24 then
    (match l.locals[(off - 0x828) / 24]? with
     | some c => (causeWords c).getD ((off - 0x828) % 24 / 8) 0
     | none => 0)
  else 0

/-! The host's accesses to device memory (R275, R315, R316, R397). -/

/-- Whether host reads of an HDM offset return 0 and writes are discarded: the reserved part of the window, and the firmware's reserve (R315, R316). -/
def State.hdmShut (s : State) (off : Nat) : Bool :=
  decide (0x2011000 ≤ off ∧ off < 0x2100000) ||
  (decide (winBytes ≤ off) && (match s.hdmPa off with
    | some pa => decide (s.linBytes (pa / 2 ^ 38) ≤ pa % 2 ^ 38 + Config.fwReserve)
    | none => true))

/-- The key of a host access: that of its TDI, in RUN and holding one, else key 0 (R397). -/
def State.hostKey (s : State) (tdi : Option Nat) : Nat :=
  match tdi with
  | none => 0
  | some t =>
    if t < 64 ∧ s.pkg.tdiRun.getLsbD t = true then
      match s.pkg.keys.find? fun k => k.2.installed && !k.2.revoked && decide (k.2.tdi = t) with
      | some k => k.1
      | none => 0
    else 0

/-- The writes a host release publishes so far: every earlier host write, whatever the host orders, and what the host has observed (R275). Log 63 (DESIGN CHOICE). -/
def State.hostMask (s : State) : Nat :=
  match s.rels.find? fun r => r.host with
  | some r => r.writes
  | none => 0

/-- Records what a later host write publishes. -/
def State.hostRel (s : State) (writes : Nat) : Nat × State :=
  (s.nextRel, { s with rels := ⟨s.nextRel, 0, true, .sys, writes⟩ :: s.rels, nextRel := s.nextRel + 1 })

/-- One host write within a 64-byte line: performed at its home, and published by whatever later host write a party of the device observes (R275). -/
def State.hostPut (s : State) (key off : Nat) (bs : List Byte) : State :=
  match s.hdmPa off with
  | none => s
  | some pa =>
    if s.hdmShut off || bs.isEmpty then s
    else
      let (id, s1) := s.hostRel (s.hostMask ||| 2 ^ s.nextW)
      s1.homeWrite key pa bs.length (natOfBytes bs) (some id)

/-- Splits bytes at 64-byte lines from an offset. -/
def lines : (fuel off : Nat) → List Byte → List (Nat × List Byte)
  | 0, _, _ => []
  | _ + 1, _, [] => []
  | fuel + 1, off, bs =>
    let n := 64 - off % 64
    (off, bs.take n) :: lines fuel (off + n) (bs.drop n)

/-- The writes that releases at sys or fab publish, those the host observes (R275). -/
def State.hostObserves (s : State) (rels : List Nat) : Nat :=
  (s.rels.filter fun r => rels.contains r.id && !r.host && decide (r.scope = .sys ∨ r.scope = .fab)).foldl (fun m r => m ||| r.writes) 0

/-- What the host observes in the first of the writes posted to its memory, which it has read (R264, R275). -/
def State.hostHeard (s : State) (seen : Nat) : Nat :=
  s.hostObserves (((s.far.filter fun w => isHostLoc w.loc).reverse.take seen).flatMap (·.rels))

/-- HOST_WRITE: a CXL.mem write of the host (R275, R397). The mark of the data: how many of the writes posted to its memory the host has read by then. Log 24 (DESIGN CHOICE). -/
def execHostWrite (off : Nat) (data : FromHost (List Byte)) (tdi : Option Nat) (s : State) : Result :=
  let key := s.hostKey tdi
  let heard := s.hostHeard data.mark
  let s1 := if heard = 0 then s else (s.hostRel (s.hostMask ||| heard)).2
  .next ((lines (data.what.length + 1) off data.what).foldl (fun (a : State) x => a.hostPut key x.1 x.2) s1)

/-- The bytes of a host read within a line: what home order has last (R272, R275). -/
def State.hostGet (s : State) (key off n : Nat) : List Byte :=
  match s.hdmPa off with
  | none => bytesOfNat n 0
  | some pa => if s.hdmShut off then bytesOfNat n 0 else s.decrypt key pa ((placesOf pa n).map s.publicByte)

/-- What the host observes in a line (R275). -/
def State.hostSees (s : State) (off n : Nat) : Nat :=
  match s.hdmPa off with
  | none => 0
  | some pa => s.hostObserves (s.lastRel pa n)

/-- Whether a host read meets bytes of parts held for a chunk whose bit is being set elsewhere: it waits for them (R199). -/
def State.hostWaits (s : State) (off n : Nat) : Bool :=
  match s.hdmPa off with
  | none => false
  | some pa => s.partOut pa n

/-- HOST_READ: a CXL.mem read of the host returns what is latest in the home order; what it observes goes before its later writes (R275, R397). -/
def execHostRead (off n : Nat) (tdi : Option Nat) (s : State) : Result :=
  let key := s.hostKey tdi
  let ls := lines (n + 1) off (List.replicate n 0)
  let seen := ls.foldl (fun m x => m ||| s.hostSees x.1 x.2.length) 0
  let s1 := s.onPkg fun g => { g with hostRead := ls.flatMap fun x => s.hostGet key x.1 x.2.length }
  .next (if ls.any (fun x => s.hostWaits x.1 x.2.length) then s else if seen = 0 then s1 else (s1.hostRel (s1.hostMask ||| seen)).2)

/-! Power and heat (R348). -/

/-- THERMAL_STEP: a die reads a temperature: at 95 °C or above every die's clock goes down by 25 MHz; at 105 °C the package halts with a fatal error (R348). -/
def execThermalStep (_die temp : Nat) (s : State) : Result :=
  .next (if 105 ≤ temp then s.onPkg fun g => { g with halted := true, fatal := true }
  else if 95 ≤ temp then (List.range 4).foldl (fun (a : State) d => a.onDie d fun x => { x with clock := x.clock - 25 }) s
  else s)

/-- POWER_CLAMP: the 10 ms average of the power is held at or below `PWRCAP` (R348). -/
def execPowerClamp (watts : Nat) (s : State) : Result :=
  .next (s.onPkg fun g => { g with power := Nat.min watts g.bar.pwrcap.toNat })

end Sys2Proof.Machine
end

