-- ==== Sys2Proof/Machine/Control.lean ====
section
/-! DEFINITION. Control transfer (R96, R97) and the hardware loop stack (R82 to R86). -/

namespace Sys2Proof.Machine

/-- A conditional branch (R96): taken, control goes to the target (R84); not taken, the instruction completes (R83). -/
def State.branch (s : State) (a b : BitVec 5) (i : BitVec 12) (test : Word → Word → Bool) : State :=
  s.issue [a, b] [] fun s =>
    if test (s.cur.getS a) (s.cur.getS b) then s.jump (branchTarget s.cur.pc i) else s.retire

/-- `beq`: taken when sa = sb (R96). -/
def execBeq (a b : BitVec 5) (i : BitVec 12) (s : State) : Result := .next (s.branch a b i fun x y => decide (x = y))
/-- `bne`: taken when sa ≠ sb (R96). -/
def execBne (a b : BitVec 5) (i : BitVec 12) (s : State) : Result := .next (s.branch a b i fun x y => decide (x ≠ y))
/-- `blt`: taken when sa < sb, signed (R96). -/
def execBlt (a b : BitVec 5) (i : BitVec 12) (s : State) : Result := .next (s.branch a b i BitVec.slt)
/-- `bge`: taken when sa ≥ sb, signed (R96). -/
def execBge (a b : BitVec 5) (i : BitVec 12) (s : State) : Result := .next (s.branch a b i fun x y => !x.slt y)
/-- `bltz`: taken when sa < sb, unsigned (R96). -/
def execBltz (a b : BitVec 5) (i : BitVec 12) (s : State) : Result := .next (s.branch a b i BitVec.ult)
/-- `bgez`: taken when sa ≥ sb, unsigned (R96). -/
def execBgez (a b : BitVec 5) (i : BitVec 12) (s : State) : Result := .next (s.branch a b i fun x y => !x.ult y)

/-- `jal`: sd := pc + 4, then pc := the target (R39, R97). -/
def execJal (d : BitVec 5) (i : BitVec 20) (s : State) : Result :=
  .next (s.issue [] [d] fun s =>
    (s.onCur fun t => t.setS d (t.pc + 4)).jump (jalTarget s.cur.pc i))

/-- `jalr`: the target is formed from sa before sd is written (R39, R97). -/
def execJalr (d a : BitVec 5) (i : BitVec 12) (s : State) : Result :=
  .next (s.issue [a] [d] fun s =>
    (s.onCur fun t => t.setS d (t.pc + 4)).jump (jalrTarget (s.cur.getS a) i))

/-! Hardware loops. -/

/-- A fault of the loop stack: the depth stands in the address field (R105). -/
def State.loopFault (s : State) (c : FaultCode) : State := s.faultCode c (word s.cur.loops.length) 0 0

/-- `loop_push` (R82, R86). R105 does not say whether the `ILLEGAL_OPERAND` of a body that does not nest is a loop fault, with the depth in its address field; the model puts 0 there. Log 63 (DESIGN CHOICE). -/
def State.loopPush (s : State) (count : Word) (i : BitVec 12) : State :=
  let pc := s.cur.pc
  let last := pc + word (4 * i.toNat)
  if count = 0 then s.onCur fun t => { t.clear with pc := last + 4 }
  else if s.cur.loops.length = 6 then s.loopFault .loopOverflow
  else if (match s.cur.loops with
      | l :: _ => decide (l.stop.toNat < last.toNat)
      | [] => false) then s.faultCode .illegalOperand 0 0 0
  else s.onCur fun t => { t.clear with pc := pc + 4, loops := ⟨count, 0, pc + 4, last⟩ :: t.loops }

/-- `loop`: the count is sa, unsigned (R82). -/
def execLoop (a : BitVec 5) (i : BitVec 12) (s : State) : Result :=
  .next (s.issue [a] [] fun s => s.loopPush (s.cur.getS a) i)

/-- `loopi`: the count is the immediate (R82). -/
def execLoopi (n : BitVec 10) (i : BitVec 12) (s : State) : Result :=
  .next (s.issue [] [] fun s => s.loopPush (n.setWidth 64) i)

/-- `lidx`: the index of a level, counted from the innermost (R85). -/
def execLidx (d : BitVec 5) (e : BitVec 3) (s : State) : Result :=
  .next (s.issue [] [d] fun s =>
    match s.cur.loops[e.toNat]? with
    | none => s.loopFault .loopUnderflow
    | some l => (s.onCur fun t => t.setS d l.index).retire)

/-- `lbrk`: the innermost level goes and execution continues at its end + 4 (R85). -/
def execLbrk (s : State) : Result :=
  .next (s.issue [] [] fun s =>
    match s.cur.loops with
    | [] => s.loopFault .loopUnderflow
    | l :: ls => s.onCur fun t => { t.clear with pc := l.stop + 4, loops := ls })

/-- `lnext`: as if the innermost level's last instruction had just completed (R85). -/
def execLnext (s : State) : Result :=
  .next (s.issue [] [] fun s =>
    match s.cur.loops with
    | [] => s.loopFault .loopUnderflow
    | l :: ls =>
      let r := endOfBody l.stop (l :: ls)
      let s1 := s.onCur fun t => { t.clear with pc := r.1, loops := r.2.1 }
      if r.2.2 then s1.preemptPoint else s1)

end Sys2Proof.Machine
end

