-- ==== Sys2Proof/Machine/HostLink.lean ====
section
/-! DEFINITION. The host link (12_package.md R339 to R347): completions of DMA reads and AtomicOps, proxy replies, SPDM, tenant keys, TDIs in and out of RUN. -/

namespace Sys2Proof.Machine

/-! Completions (R339 to R343). -/

/-- Takes a request to the host off the package's list. -/
def State.dropReq (s : State) (id : Nat) : State := s.onPkg fun g => { g with hostReqs := g.hostReqs.filter fun r => decide (r.id ≠ id) }

/-- Bytes fetched for whoever asked: put where it will look for them; a strand then issues again (R339, R359). -/
def State.deliver (s : State) (who : Asker) (loc : Nat) (data : List Byte) : State :=
  let put (m : SMap (Option Byte)) : SMap (Option Byte) := data.zipIdx.foldl (fun m x => m.set none (loc + x.2) (some x.1)) m
  match who with
  | .strand u => s.onUid u fun t => { t with buf := put t.buf }.answered
  | .copy id => s.onCopy id fun c => { c with buf := put c.buf }
  | .port core p => s.onPort core p fun q => { q with buf := put q.buf }
  | .chain hdr => s.onChain hdr fun c => { c with buf := put c.buf }

/-- A strand hears a value of host memory that the host has ordered after its first writes to device memory: it observes what those publish (R275). Log 24 (DESIGN CHOICE). -/
def State.hearHost (s : State) (who : Asker) (after : Nat) : State :=
  match who with
  | .strand u => s.onUid u fun t => { t with obs := s.hostRels after ++ t.obs }
  | _ => s

/-- DMA_READ_COMPLETION: the data of a DMA read of host memory arrives; that of a tenant that has left is dropped (R339, R346). The mark of the data: how many of its writes to device memory the host has ordered before what is read (R275). A word of a chunk map that is being changed meanwhile is handed on after that (R199). -/
def execDmaReadCompletion (req : Nat) (data : FromHost (List Byte)) (s : State) : Result :=
  .next (match s.pkg.hostReqs.find? fun r => decide (r.id = req) && r.fn.isNone with
    | none => s
    | some r =>
      if r.dropped then s.dropReq req
      else if data.what.length ≠ r.n ∨ s.bitOut (2 ^ 64 + r.addr) r.n = true then s
      else ((s.dropReq req).hearHost r.who data.mark).deliver r.who (2 ^ 64 + r.addr) data.what)

/-- The page of a host bus address as the table of R341 holds it: the one a cached translation leads to. -/
def State.busPage (s : State) (bus : Nat) : Nat :=
  let big := s.tlb.any fun t => t.big && decide (eKind t.leaf = 2 ∧ eFrame t.leaf * 2 ^ 18 / 2 ^ 29 = bus / 2 ^ 29)
  if big then 2 * (bus / 2 ^ 29) + 1 else 2 * (bus / 2 ^ 18)

/-- An AtomicOp of the current strand was refused: a scalar atomic issues again and finds its page in the table; an element of a `vamo` does so once nothing else of it is under way (R341). -/
def State.atomAgain (s : State) : State :=
  if s.cur.vamoTodo.isSome && s.outstanding s.cur.uid then s else s.onCur fun t => { t with wait := none }

/-- HOST_ATOMIC_COMPLETION: an AtomicOp completes with the old value, or its page joins the atomics-unsupported table (R340, R341). The mark: as for a DMA read. -/
def execHostAtomicCompletion (req : Nat) (reply : FromHost HostAtomicReply) (s : State) : Result :=
  .next (match s.pkg.hostReqs.find? fun r => decide (r.id = req) && r.fn.isSome with
    | none => s
    | some r =>
      let s1 := s.dropReq req
      match reply.what with
      | .success old =>
        if r.dropped then s1
        else (match r.who with
          | .strand u => (s1.hearHost r.who reply.mark).opReply u r.elem (.inl old)
          | .copy id => s1.bitReply r id old
          | _ => s1)
      | .unsupported =>
        let s2 := s1.onPkg fun g => g.listPage (s1.busPage r.addr)
        if r.dropped then s2
        else (match r.who with
          | .strand u => s2.asUid u State.atomAgain
          | .copy id =>
            let va := match s2.copy? id with
              | some c => c.desc.map + word (8 * (r.elem / 64))
              | none => 0
            (s2.onCopy id fun c => { c with out := c.out.filter fun o => decide (o.2 ≠ req) }).copyFault id (fail .hostAtomicUnsupported) va 9
          | _ => s2))

/-- PROXY_REPLY: the reply at an index of the reply area is accepted where its seq is that of the request that waits for it (R342, R343); not while both cores of the host proxy are down (R332, R333). The mark: as for a DMA read. -/
def execProxyReply (index : FromHost Nat) (s : State) : Result :=
  let loc := s.winPa (0x2001000 + 16 * index.what)
  .next (if !s.cyanUp 4 then s else match s.pkg.proxies.find? fun p => decide (p.index = index.what ∧ index.what < 4096 ∧ p.seq = s.devGet loc 8) with
    | none => s
    | some p =>
      ((s.onPkg fun g => { g with proxies := g.proxies.filter fun q => decide (q.seq ≠ p.seq) }).hearHost (.strand p.uid) index.mark).opReply p.uid p.elem (.inl (word (s.devGet (loc + 8) 8))))

/-! SPDM and TDIs (R344 to R347). -/

/-- The number under which the responder's free answers know a request. -/
def spdmCode : SpdmRequest → Nat × Nat
  | .getVersion => (0, 0) | .getCapabilities => (1, 0) | .negotiateAlgorithms => (2, 0) | .getDigests => (3, 0)
  | .getCertificate => (4, 0) | .challenge => (5, 0) | .getMeasurements i => (6, i) | .keyExchange n => (7, n)
  | .finish n => (8, n) | .keyUpdate n => (9, n) | .heartbeat n => (10, n) | .endSession n => (11, n)

/-- A measurement (R344). -/
def State.measurement (s : State) : Nat → List Nat
  | 1 => [Config.bootRomVersion]
  | 2 => [s.pkg.imgDigest]
  | 3 => [Config.cyanDigest]
  | 4 => [Config.fusedMinVersion]
  | 5 => [s.retireWord]
  | _ => []

/-- What a session is: opened by a key exchange (0), established (1), or bound to a TDI (2 and the TDI). Log 54 (DEDUCED). -/
def Pkg.session (g : Pkg) (n : Nat) : Option Nat := (g.sessions.find? fun x => decide (x.1 = n)).map (·.2)
def Pkg.setSession (g : Pkg) (n v : Nat) : Pkg := { g with sessions := (n, v) :: g.sessions.filter fun x => decide (x.1 ≠ n) }

/-- Revokes every key of a TDI whose jobs have been stopped (R346). -/
def State.dropTdi (s : State) (tdi : Nat) : State :=
  s.onPkg fun g => { g with
    leaving := g.leaving.filter fun x => decide (x ≠ tdi)
    keys := g.keys.map fun k => if k.2.tdi = tdi ∧ k.2.installed = true then (k.1, { k.2 with revoked := true }) else k }

/-- Whether a key belongs to a TDI. -/
def State.keyOfTdi (s : State) (tdi key : Nat) : Bool := decide ((s.pkg.keys.get ⟨false, false, 0⟩ key).tdi = tdi) && (s.pkg.keys.get ⟨false, false, 0⟩ key).installed

/-- The jobs of a TDI that has left RUN are all stopped, which discarded their DMA: its keys are invalidated (R346). -/
def State.leaveOn (s : State) : State :=
  (s.pkg.leaving.filter fun t => !s.jobs.any fun j => s.keyOfTdi t j.rec_.key && !j.state.final).foldl (fun (a : State) t => a.dropTdi t) s

/-- Launches accepted and not yet handed over become jobs that wait, so that what stops a tenant's jobs stops them with a record each (R310, R346). -/
def State.adoptLaunches (s : State) (which : Launch → Bool) : State :=
  (s.pkg.cmds.filter fun c => decide (c.kind = 1) && which (launchOf c.payload)).foldl
    (fun (a : State) c => { a.dropCmd c.seq with jobs := a.jobs ++ [Job.fresh c (launchOf c.payload) []] }) s

/-- A TDI leaves RUN, or its session ends: the tenant's jobs are stopped, one record each; their DMA goes with them, and the keys are invalidated after that (R346). -/
def State.leaveRun (s : State) (tdi : Nat) : State :=
  let code := FaultCode.tdiLeftRun
  let s := s.adoptLaunches fun l => s.keyOfTdi tdi l.key
  let mine := s.jobs.filter fun j => s.keyOfTdi tdi j.rec_.key && !j.state.final
  let s0 := s.onPkg fun g => { g with tdiRun := g.tdiRun &&& ~~~(1#64 <<< tdi), leaving := tdi :: g.leaving }
  let s1 := mine.foldl (fun (a : State) j => (a.postRecord j ⟨code, false, false, false, 0, 0, 0, 0, 0, 0, 0, 0, false, none, none⟩ []).2.killJob j.id .failed code.num) s0
  s1.leaveOn

/-- SPDM_REQUEST: the responder, which is the Cobalt core's work, answers (R332); measurements are those of R344, everything else an answer of its own keys. The end of a TDI's session is the TDI's leaving (R344, R346). Log 54 (DEDUCED). -/
def execSpdmRequest (req : SpdmRequest) (s : State) : Result :=
  let answer : List Nat := match req with
    | .getMeasurements i => s.measurement i
    | r => Config.spdmAnswer (spdmCode r).1 (spdmCode r).2
  let s1 := s.onPkg fun g => { g with spdmOut := g.spdmOut ++ [answer] }
  .next (if !s.cobaltUp then s else match req with
    | .keyExchange n => s1.onPkg fun g => g.setSession n 0
    | .finish n => s1.onPkg fun g => if g.session n = some 0 then g.setSession n 1 else g
    | .endSession n =>
      let s2 := s1.onPkg fun g => { g with sessions := g.sessions.filter fun x => decide (x.1 ≠ n) }
      (match s.pkg.session n with
       | some v => if 2 ≤ v then s2.leaveRun (v - 2) else s2
       | none => s2)
    | _ => s1)

/-- SPDM_KEY_INSTALL: a tenant key is installed inside the secure session of the TDI that owns it. A key that takes the place of an invalidated one is another key: what was written under the old one stays ciphertext, and cores last written under it want a scrub (R331, R345, R347). Log 54 (DEDUCED). -/
def execSpdmKeyInstall (session tdi key : Nat) (s : State) : Result :=
  let e := s.pkg.keys.get ⟨false, false, 0⟩ key
  let open_ := decide (s.pkg.session session = some 1 ∨ s.pkg.session session = some (2 + tdi))
  .next (if !s.cobaltUp || !open_ || decide (64 ≤ tdi ∨ key = 0 ∨ 4095 < key) || (e.installed && decide (e.tdi ≠ tdi)) then s
  else
    let s0 := if e.installed then { s with cores := s.cores.map fun c => if c.2.lease.key = key then (c.1, { c.2 with lease := { c.2.lease with key := 4096 + key } }) else c } else s
    let s1 := if e.installed then { s0 with keyRuns := s.keyRuns.map fun r => if r.2.2 = key then (r.1, r.2.1, 4096 + key) else r } else s0
    s1.onPkg fun g => { g.setSession session (2 + tdi) with keys := g.keys.set ⟨false, false, 0⟩ key ⟨true, false, tdi⟩ })

/-- TDI_ENTER_RUN: the host moves a TDI into RUN, and launches under its key ID are allowed (R345). Log 54 (DEDUCED). -/
def execTdiEnterRun (tdi key : Nat) (s : State) : Result :=
  let e := s.pkg.keys.get ⟨false, false, 0⟩ key
  .next (if 64 ≤ tdi ∨ (e.installed = true ∧ e.tdi ≠ tdi) ∨ s.pkg.leaving.contains tdi = true then s else s.onPkg fun g => { g with tdiRun := g.tdiRun ||| (1#64 <<< tdi) })

/-- TDI_LEAVE_RUN (R346). Log 54 (DEDUCED). -/
def execTdiLeaveRun (tdi : Nat) (s : State) : Result :=
  .next (if tdi < 64 ∧ s.pkg.tdiRun.getLsbD tdi = true then s.leaveRun tdi else s)

end Sys2Proof.Machine
end

