-- ==== Sys2Proof/Machine/Link.lean ====
section
/-! DEFINITION. The links of the fabric (14_fabric.md R355 to R360, R362): flits and frames, link-level retry, stomps, the steering of gtime. -/

namespace Sys2Proof.Machine

def State.link (s : State) (p : Nat) : Link := s.pkg.links.get Link.zero p
def State.setLink (s : State) (p : Nat) (l : Link) : State := s.onPkg fun g => { g with links := g.links.set Link.zero p l }
def State.onLink (s : State) (p : Nat) (f : Link → Link) : State := s.setLink p (f (s.link p))

/-! Sending (R356, R359, R360). -/

/-- Flits a packet takes: 236 bytes each for its header of 48 and its data (R356, R359). -/
def flitCount (p : Packet) : Nat := (48 + p.data.length + 235) / 236

/-- A flit of a type, before its link gives it a number. -/
def flitOf (ty vc : Nat) (p : Option Packet) (c : Option Ctl) : Flit := ⟨ty, 0, 0, 0, BitVec.ofNat 4 vc, true, p, c, 0⟩

/-- The flits of a packet: its last carries it whole (R357, R362). -/
def flitsOf (p : Packet) : List Flit :=
  let n := flitCount p
  if n ≤ 1 then [flitOf 4 0 (some p) none]
  else flitOf 1 0 none none :: (List.replicate (n - 2) (flitOf 2 0 none none) ++ [flitOf 3 0 (some p) none])

/-- A frame of a port around whole flits (R358). Log 14 (DESIGN CHOICE). -/
def State.frameOf (s : State) (p : Nat) (fs : List Flit) : Frame :=
  ⟨Config.hopMac p, Config.portMac p, Config.vlanTag p, s.pkg.bar.fabetype.setWidth 16, true, 256 * fs.length, fs⟩

/-- Flits in frames of at most 8 (R358). -/
def framesOf (mk : List Flit → Frame) : (fuel : Nat) → List Flit → List Frame
  | 0, _ => []
  | _ + 1, [] => []
  | n + 1, fs => mk (fs.take 8) :: framesOf mk n (fs.drop 8)

/-- Puts flits on the wire. -/
def Link.put (l : Link) (mk : List Flit → Frame) (fs : List Flit) : Link := { l with wire := l.wire ++ framesOf mk fs.length fs }

/-- A link takes flits under its next `LSEQ`s and keeps them until they are acked: the flits as numbered (R357, R360). -/
def Link.number (l : Link) : List Flit → List Flit × Link
  | [] => ([], l)
  | f :: fs =>
    let g := { f with lseq := l.lseq + 1, lack := l.lack }
    let (gs, m) := Link.number { l with lseq := l.lseq + 1, replay := l.replay ++ [g] } fs
    (g :: gs, m)

/-- A link sends flits in frames of their own. -/
def Link.send (l : Link) (mk : List Flit → Frame) (fs : List Flit) : Link :=
  let (gs, m) := l.number fs
  m.put mk gs

/-- Flits a replay buffer holds (R360). -/
def replayCap : Nat := 1024

/-- Sends groups of flits while the replay buffer has room for a whole group: the link and how many groups went. -/
def Link.sendAll (l : Link) (mk : List Flit → Frame) : List (List Flit) → Link × Nat
  | [] => (l, 0)
  | fs :: rest =>
    if l.replay.length + fs.length ≤ replayCap then
      let (m, n) := (l.send mk fs).sendAll mk rest
      (m, n + 1)
    else (l, 0)

/-- Ports of the scale-up side: Tsueratis runs on 18 of the 26 Ethernet ports (R4). Log 14 (DESIGN CHOICE). -/
def suPorts : Nat := 18

/-- Whether an Ethernet port carries Tsueratis traffic now: it is one of the scale-up side, not retired, and its link is up (R4, R349, R360). -/
def State.portUp (s : State) (p : Nat) : Bool := decide (p < suPorts) && !s.pkg.retiredPorts.contains p && !(s.link p).down

/-- A port that sends: the lowest with a link that is up and not retired. -/
def State.sendPort (s : State) : Option Nat := (List.range suPorts).find? s.portUp

/-- Every link that is up sends a time flit once a microsecond, with the gtime of its sending (R355). -/
def State.timeFlits (s : State) : State :=
  ((List.range suPorts).filter fun p => s.portUp p && decide ((s.link p).replay.length < replayCap) && decide (1000 ≤ (s.gtime - (s.link p).timeAt).toNat)).foldl
    (fun (a : State) p => a.onLink p fun l => { l.send (s.frameOf p) [{ flitOf 6 0 none none with time := s.gtime }] with timeAt := s.gtime }) s

/-! Combining (R366). -/

/-- A member of a combined request or reply: package, `ESEQ`, and the operand or old value (R366). -/
structure Member where
  pkg : Nat
  eseq : BitVec 32
  val : Nat
deriving DecidableEq, Repr

/-- The members a combined packet lists, 16 bytes each (R366). -/
def members : (fuel : Nat) → List Byte → List Member
  | 0, _ => []
  | fuel + 1, bs =>
    if bs.length < 16 then []
    else ⟨natOfBytes (bs.take 2), BitVec.ofNat 32 (natOfBytes ((bs.drop 4).take 4)), natOfBytes ((bs.drop 8).take 8)⟩ :: members fuel (bs.drop 16)

/-- The bytes of a member. -/
def Member.bytes (m : Member) : List Byte := bytesOfNat 2 m.pkg ++ bytesOfNat 2 0 ++ bytesOfNat 4 m.eseq.toNat ++ bytesOfNat 8 m.val

/-- What a fetch-and-add that waits to be sent lists as a combined request: itself, or its members (R366). -/
def addMembers (p : Packet) : List Member :=
  if p.kind = 12 then members 64 p.data else [⟨p.spkg, p.eseq, natOfBytes p.data⟩]

/-- Whether a fetch-and-add combines with one that waits: same destination, address, width, key and job, and at most 64 members (R366). -/
def combines (q p : Packet) : Bool :=
  decide ((q.kind = 4 ∨ q.kind = 12) ∧ p.kind = 4 ∧ p.op < 2 ∧ q.op = p.op ∧ q.dpkg = p.dpkg ∧ q.addr = p.addr ∧ q.keyid = p.keyid ∧ q.job = p.job ∧
    (addMembers q).length < 64)

/-- The two as one combined request, the earlier's members first (R366). -/
def merged (q p : Packet) : Packet :=
  let data := (addMembers q ++ addMembers p).flatMap Member.bytes
  { q with kind := 12, len := data.length, data := data }

/-- A packet joins those that wait to be sent: into the first it combines with, while at most 8,192 combined requests are held; else behind them (R366). -/
def joinAdd (held : Nat) (p : Packet) : List Packet → List Packet
  | [] => [p]
  | q :: qs => if combines q p && (decide (q.kind = 12) || decide (held < 8192)) then merged q p :: qs else q :: joinAdd held p qs

/-- The packets that wait to be sent, with the fetch-and-adds among them combined (R366). -/
def combineAdds (ps : List Packet) : List Packet :=
  ps.foldl (fun acc p => joinAdd (acc.filter fun q => decide (q.kind = 12)).length p acc) []

/-- What the package has to send goes on its way: control messages before packets, fetch-and-adds combined (R357, R366). Nothing is sent while Tsueratis is disabled (R353). Log 2 (DESIGN CHOICE). Log 53 (DEDUCED). -/
def State.sendOut (s : State) : State :=
  let ctl := s.pkg.ctlOut.drop s.pkg.sentCtl
  let pkts := combineAdds (s.pkg.pktOut.drop s.pkg.sentPkts)
  if ctl.isEmpty && pkts.isEmpty then s
  else match s.sendPort with
    | none => s
    | some p =>
      let mk := s.frameOf p
      let (l1, n) := (s.link p).sendAll mk (ctl.map fun c => [flitOf 7 7 none (some c)])
      let (l2, k) := if n < ctl.length then (l1, 0) else l1.sendAll mk (pkts.map flitsOf)
      (s.setLink p l2).onPkg fun g => { g with
        sentCtl := g.sentCtl + n, sentPkts := g.sentPkts + k, pktOut := g.pktOut.take g.sentPkts ++ pkts }

/-! The emission rate limiter (R335, R381). Log 53 (DEDUCED). -/

/-- Bytes of a packet of the endpoint: those of its payload. -/
def ueBytes : UePacket → Nat
  | .write _ _ _ _ _ _ _ _ _ _ _ data | .readReply _ _ _ data => data.length
  | _ => 0

/-- The bytes of each frame a port has been given to send, in order: an endpoint's packet is a frame. -/
def State.framesFor (s : State) (p : Nat) : List Nat :=
  if p < suPorts then (s.link p).wire.map (·.bytes) else (s.pkg.ueOut.filter fun x => decide (x.port = p)).map fun x => ueBytes x.pkt

/-- How many nanoseconds a limit of k a second asks for n. -/
def perSecond (k : Word) (n : Nat) : Nat := if k = 0 then 0 else (n * 1000000000 + k.toNat - 1) / k.toNat

/-- A port sends its frames in order; after each the limits of `PORTLIM` keep it shut for as long as its bytes and the frame take (R335, R336). -/
def State.emit (s : State) (p : Nat) (l : Link) : List Nat → Link
  | [] => l
  | n :: ns =>
    if s.gtime.toNat < l.openAt.toNat then l
    else
      let gap := Nat.max (perSecond (s.pkg.bar.portlim.get 0 (2 * p)) n) (perSecond (s.pkg.bar.portlim.get 0 (2 * p + 1)) 1)
      s.emit p { l with emitted := l.emitted + 1, openAt := s.gtime + word gap } ns

/-- What ports have been given to send leaves them as their limiters allow; the rest waits (R335). -/
def State.emitAll (s : State) : State :=
  (List.range 26).foldl (fun (a : State) p =>
    match (a.framesFor p).drop (a.link p).emitted with
    | [] => a
    | ns => a.setLink p (a.emit p (a.link p) ns)) s

/-- What the links do after a move: time flits, what the package has to send, and the frames their limiters let go (R335, R355, R357). -/
def State.handOver (s : State) : State := (if s.pkg.bar.fabetype = 0 then s else s.timeFlits.sendOut).emitAll

/-! Retry (R360). -/

/-- Whether a link sequence number is at or before another, modulo 4,096. -/
def lseqLe (a b : BitVec 12) : Bool := decide ((b - a).toNat < 2048)

/-- The other end has received up to a number: those flits need no replay, and that is progress. -/
def Link.acked (l : Link) (k : BitVec 12) : Link :=
  let r := l.replay.filter fun f => !lseqLe f.lseq k
  { l with replay := r, replays := if r.length < l.replay.length then 0 else l.replays }

/-- The link is declared down: what it held is lost (R360). -/
def Link.fell (l : Link) : Link := { l with down := true, replay := [] }

/-- The sender replays from the flit after the one named; asked again after 16 replays without progress, it declares the link down (R360). -/
def Link.replayFrom (l : Link) (mk : List Flit → Frame) (k : BitVec 12) : Link :=
  let m := l.acked k
  if 16 ≤ m.replays then m.fell else { m.put mk m.replay with replays := m.replays + 1 }

/-- The receiver asks for a replay after the last good flit, and discards until it comes (R360). -/
def Link.ask (l : Link) (mk : List Flit → Frame) : Link :=
  if l.discarding then l else { l.put mk [{ flitOf 8 7 none none with lack := l.lack }] with discarding := true }

/-- RETRY_REQUEST: the sender of a link replays from the next flit (R360). -/
def execRetryRequest (port : Nat) (lseq : BitVec 12) (s : State) : Result :=
  .next (if s.portUp port then s.onLink port fun l => l.replayFrom (s.frameOf port) lseq else s)

/-- LINK_DOWN: 16 replays without progress: the link is down, what it held is lost, and traffic takes other ports (R360). -/
def execLinkDown (port : Nat) (s : State) : Result :=
  .next (if 16 ≤ (s.link port).replays then s.onLink port Link.fell else s)

/-! Time (R355). -/

/-- gtime is steered to a reference: it never goes back (R6, R355). -/
def State.steer (s : State) (time : Word) : State := if s.gtime.toNat < time.toNat then { s with gtime := time } else s

/-- TIME_FLIT: a neighbour's gtime at its transmit timestamp (R355). -/
def execTimeFlit (port : Nat) (time : Word) (s : State) : Result :=
  .next (if s.portUp port then s.steer time else s)

/-- PTP_MESSAGE: an IEEE 1588 message steers gtime; `locked` says whether the package holds lock to the reference (R355). -/
def execPtpMessage (port : Nat) (time : Word) (locked : Bool) (s : State) : Result :=
  .next (if 26 ≤ port ∨ s.pkg.retiredPorts.contains port = true then s
  else (s.steer time).onPkg fun g => { g with lockLost := if locked then none else some (g.lockLost.getD s.gtime) })

/-! Receiving (R357, R358, R360, R362). -/

/-- The next flit of a link is received in order. -/
def Link.took (l : Link) : Link := { l with lack := l.lack + 1, discarding := false }

/-- What a flit received in order brings: a packet whose last flit it is, a control message, a time; a stomp brings nothing (R357, R362). Log 53 (DEDUCED). -/
def State.flitIn (s : State) (f : Flit) : State :=
  match f.ty with
  | 3 | 4 => (match f.packet with
    | some p => if p.dpkg = s.pkgNo ∧ 1 ≤ p.kind ∧ p.kind ≤ 13 then s.onPkg fun g => { g with arrived := g.arrived ++ [p] } else s
    | none => s)
  | 6 => s.steer f.time
  | 7 => (match f.ctl with
    | some c => s.onPkg fun g => { g with ctlIn := g.ctlIn ++ [c] }
    | none => s)
  | _ => s

/-- A flit as the receiver of a link takes it: a bad CRC or a gap asks for a replay; a flit seen before is not delivered again (R357, R360). -/
def State.takeFlit (s : State) (port : Nat) (f : Flit) : State :=
  if !f.crcGood then s.onLink port fun l => l.ask (s.frameOf port)
  else if 9 ≤ f.ty then s
  else if f.ty = 8 then s.onLink port fun l => l.replayFrom (s.frameOf port) f.lack
  else
    let s1 := s.onLink port fun l => l.acked f.lack
    let l := s1.link port
    if f.ty = 0 then s1
    else if f.lseq = l.lack + 1 then (s1.onLink port Link.took).flitIn f
    else if lseqLe f.lseq l.lack then s1
    else s1.onLink port fun l => l.ask (s.frameOf port)

/-- FRAME_RECEIVE: a frame of the Tsueratis EtherType is taken flit by flit; one that is not a whole number of flits, 1 to 8, is discarded; one whose FCS fails has lost its flits (R358). Log 14 (DESIGN CHOICE). -/
def execFrameReceive (port : Nat) (frame : Frame) (s : State) : Result :=
  .next (if s.portUp port = false ∨ s.pkg.bar.fabetype = 0 ∨
      frame.etype ≠ s.pkg.bar.fabetype.setWidth 16 ∨ frame.bytes ≠ 256 * frame.flits.length ∨ frame.flits.length = 0 ∨ 8 < frame.flits.length then s
  else if !frame.fcsGood then s.onLink port fun l => l.ask (s.frameOf port)
  else frame.flits.foldl (fun (a : State) f => a.takeFlit port f) s)

/-- STOMP: the next flit of a link is a stomp: the packet it ends is discarded, and nothing of it is placed (R362). Log 53 (DEDUCED). -/
def execStomp (port spkg : Nat) (eseq : BitVec 32) (s : State) : Result :=
  .next (if s.portUp port = false ∨ s.pkg.arrived.any (fun p => decide (p.spkg = spkg ∧ p.eseq = eseq)) = true then s
  else s.onLink port Link.took)

end Sys2Proof.Machine
end

