-- ==== Sys2Proof/Machine/Fabric.lean ====
section
/-! DEFINITION. Packets between packages (14_fabric.md R359, R361, R363 to R369, R371): what arrives is checked and performed here as a home, and what answers this package's own requests; retransmission; path probes. -/

namespace Sys2Proof.Machine

/-- Takes a packet that has arrived, if it has and is of a kind. -/
def State.takePacket (s : State) (p : Packet) (kind : Nat) : Option State :=
  if p.kind = kind ∧ s.pkg.arrived.contains p = true then some (s.onPkg fun g => { g with arrived := g.arrived.erase p }) else none

/-! Answers (R359, R361). -/

/-- A packet that answers another, under that one's `ESEQ`. Log 35 (DEDUCED). -/
def State.answerTo (s : State) (p : Packet) (kind op : Nat) (flags : BitVec 8) (data : List Byte) : Packet :=
  ⟨kind, flags, data.length, p.spkg, s.pkgNo, p.eseq, p.keyid, op, p.scope, p.addr, p.job, p.chunk, p.map, data, false, 1, 0⟩

def State.putPacket (s : State) (p : Packet) : State := s.onPkg fun g => { g with pktOut := g.pktOut ++ [p] }

/-- Acks a packet that was placed, and notes its `ESEQ` as performed (R361). -/
def State.ackTo (s : State) (p : Packet) : State :=
  let q := s.peer p.spkg
  (s.setPeer p.spkg { q.begin p.spkg s.gtime with placed := p.eseq :: q.placed }).putPacket (s.answerTo p 10 0 0 [])

/-- Keeps a reply for a source among those to its last 1,024 requests (R361). -/
def State.keepReply (s : State) (src : Nat) (eseq : BitVec 32) (r : Packet) : State :=
  let q := s.peer src
  s.setPeer src { q.begin src s.gtime with placed := eseq :: q.placed, replies := ((eseq, r) :: q.replies).take 1024 }

/-- Replies to a request, and keeps the reply (R361). -/
def State.replyTo (s : State) (p : Packet) (kind : Nat) (flags : BitVec 8) (data : List Byte) : State :=
  let r := s.answerTo p kind 0 flags data
  (s.keepReply p.spkg p.eseq r).putPacket r

/-- Answers a packet that sets a chunk's bit alone with whether the bit was set: its sender performs or drops what else it holds by that; a duplicate is told the same (R284, R361). Log 64 (DESIGN CHOICE). -/
def State.tellBit (s : State) (p : Packet) (wasSet : Bool) : State :=
  let r := s.answerTo p 10 0 0 [if wasSet then 1 else 0]
  (s.keepReply p.spkg p.eseq r).putPacket r

/-- The code a nack carries: 0 for a branch that was dropped (R368). -/
def State.nackTo (s : State) (p : Packet) (c : FaultCode) : State :=
  let r := s.answerTo p 11 c.num 0 []
  (s.keepReply p.spkg p.eseq r).putPacket r

/-- A packet of a kind is performed at most once: a duplicate is answered from the reply cache, or acked again (R361). -/
def State.serveOnce (s : State) (p : Packet) (kind : Nat) (f : State → State) : State :=
  match s.takePacket p kind with
  | none => s
  | some s1 =>
    let q := s1.peer p.spkg
    match q.replies.find? fun r => decide (r.1 = p.eseq) with
    | some r => s1.putPacket r.2
    | none => if q.placed.contains p.eseq then s1.putPacket (s1.answerTo p 10 0 0 []) else f s1

/-! The checks at the home (R363). -/

/-- Whether bytes of HBM lie in a live Sable region (R239, R363). -/
def State.sableAt (s : State) (loc n : Nat) : Bool :=
  s.roots.any fun r => (List.range n).any fun i => rootCovers r.2.2 (loc + i)

/-- Whether a package's request under a job's number reaches the job here: a launch of one slice that runs on both (R363). -/
def State.reaches (s : State) (id : BitVec 32) (src : Nat) : Option Job :=
  match s.job? id with
  | some j => if j.multi && (s.sliceOf id).contains src then some j else none
  | none => none

/-- The first check that fails for a request on n bytes at its address (R363); poison aside. -/
def State.peerCheck (s : State) (src : Nat) (p : Packet) (addr n : Nat) : Option FaultCode :=
  match s.reaches p.job src with
  | none => some .fabricUnreachable
  | some j =>
    if !s.paOk addr || !s.paOk (addr + n - 1) then some .fabricUnreachable
    else if !s.keyLive p.keyid then some .keyRevoked
    else if p.keyid ≠ j.rec_.key then some .pageProtection
    else if s.sableAt addr n then some .handleRegion
    else none

/-! Requests performed here (R359, R364, R366, R368, R371). -/

/-- The writes a peer has placed here: a release of it publishes them (R267, R276). Log 24 (DEDUCED). -/
def State.peerMask (s : State) (src : Nat) : Nat := s.peerWrites.get 0 src
def State.notePeer (s : State) (src w : Nat) : State := { s with peerWrites := s.peerWrites.set 0 src (s.peerMask src ||| w) }

/-- The release of a peer's strand that an atomic or a message of it carries (R265, R267). Log 24 (DEDUCED). -/
def State.peerRelease (s : State) (sid : BitVec 32) (scope : Scope) : Nat × State := s.recordRelease sid scope (s.peerMask (sidPkg sid))

/-- The identity under which a peer's unnamed strand acts. -/
def pkgSid (pkg : Nat) : BitVec 32 := BitVec.ofNat 32 (pkg * 2 ^ 22)

/-- Whether a word here is kept from the requests of peers for a moment: a lock held open for a `rel` that waits for its acks (R226, R228). -/
def State.lockOpen (s : State) (loc n : Nat) : Bool :=
  s.strands.any fun t => t.resv.any fun r => match r with
    | .lock l => overlaps l 32 loc n
    | _ => false

/-- What a peer's atomic or store publishes here if it carries a release: every write its package has placed before, and itself (R265, R267, R364). Log 24 (DEDUCED). -/
def State.peerPublishes (s : State) (src : Nat) (rl : Bool) (scope : Scope) : Option Nat × State :=
  if rl then
    let (id, s1) := s.recordRelease (pkgSid src) scope (s.peerMask src ||| 2 ^ s.nextW)
    (some id, s1)
  else (none, s)

/-- READ_REQUEST: the bytes asked for, with their poison, or a refusal (R359, R363, R364); bytes of a part held for a chunk whose bit is being set elsewhere wait for it (R199). Log 26 (DEDUCED). -/
def execReadRequest (pkt : Packet) (s : State) : Result :=
  .next (if s.partOut pkt.addr.toNat pkt.len then s else s.serveOnce pkt 1 fun s =>
    let a := pkt.addr.toNat
    match s.peerCheck pkt.spkg pkt a pkt.len with
    | some c => s.nackTo pkt c
    | none => s.replyTo pkt 2 (if s.poisoned a pkt.len then 1 else 0) (s.decrypt pkt.keyid a (s.bytesAt a pkt.len)))

/-- WRITE_REQUEST: a peer's store is placed (R359, R362, R363). -/
def execWriteRequest (pkt : Packet) (s : State) : Result :=
  .next (s.serveOnce pkt 3 fun s =>
    let a := pkt.addr.toNat
    let n := pkt.data.length
    match s.peerCheck pkt.spkg pkt a n with
    | some c => s.nackTo pkt c
    | none =>
      let (id, s1) := s.peerPublishes pkt.spkg pkt.rl pkt.scope
      let s2 := s1.writeHome pkt.keyid a n (natOfBytes pkt.data) (Nat.max 1 pkt.unit) id.toList none false
      let s3 := if pkt.flags.getLsbD 0 then s2.setPoison a n true else s2
      (s3.notePeer pkt.spkg (2 ^ s.nextW)).ackTo pkt)

/-- One atomic of a peer at its home: the old value (R270, R364); one that carries `rl` is a release (R265). -/
def State.peerAtomic (s : State) (src : Nat) (rl : Bool) (scope : Scope) (key a fn n v c : Nat) : Nat × State :=
  let old := s.peekKey key a n
  let (id, s1) := s.peerPublishes src rl scope
  (old, (s1.homeWrite key a n (amoNew fn n old v c) id).notePeer src (2 ^ s.nextW))

/-- Whether an atomic of a peer waits: its word is of a lock held open, or of a part held for a chunk whose bit is being set elsewhere (R199, R228). -/
def State.atomWaits (s : State) (a n : Nat) : Bool := s.lockOpen a n || s.partOut a n

/-- ATOMIC_REQUEST: a peer's atomic is performed at the home slice (R359, R364). Log 35 (DEDUCED). -/
def execAtomicRequest (pkt : Packet) (s : State) : Result :=
  .next (if s.atomWaits pkt.addr.toNat 8 then s else s.serveOnce pkt 4 fun s =>
    let a := pkt.addr.toNat
    let n := if pkt.op = 11 then pkt.data.length / 2 else pkt.data.length
    match s.peerCheck pkt.spkg pkt a n with
    | some c => s.nackTo pkt c
    | none =>
      if s.poisoned a n then s.nackTo pkt .fabricPoison
      else
        let (old, s1) := s.peerAtomic pkt.spkg pkt.rl pkt.scope pkt.keyid a pkt.op n (natOfBytes (pkt.data.take n)) (natOfBytes (pkt.data.drop n))
        s1.replyTo pkt 5 0 (bytesOfNat n old))

/-- The data of a chunk write at its home: written, one location to each element, or reduced element by element; the writes made (R199, R263). -/
def State.placeChunk (s : State) (p : Packet) (key loc : Nat) : Nat × State :=
  let bad := p.flags.getLsbD 0
  if p.op = 0 then s.engineWrite key loc (Nat.max 1 p.unit) false p.data (if bad then List.replicate p.data.length true else [])
  else
    let es := redSize p.op
    (List.range (p.data.length / es)).foldl (fun (a : Nat × State) i =>
      let (w, b) := a.2.engineReduce p.op key (loc + i * es) es false (natOfBytes ((p.data.drop (i * es)).take es)) bad
      (a.1 ||| w, b)) (0, s)

/-- Whether two packets are parts of one chunk of a peer's copy. -/
def sameChunk (p q : Packet) : Bool := decide (p.kind = q.kind ∧ p.spkg = q.spkg ∧ p.job = q.job ∧ p.chunk = q.chunk)

/-- The parts held of the chunk a packet belongs to, in the order they were sent. -/
def State.heldOf (s : State) (p : Packet) : List Packet := s.pkg.heldParts.filter (sameChunk p)

/-- Forgets held parts. -/
def State.forget (s : State) (f : Packet → Bool) : State := s.onPkg fun g => { g with heldParts := g.heldParts.filter fun x => !f x }

/-- Whether two packets are the same part of one chunk of a peer's copy: several parts of a reduction may go to one address (R199). -/
def samePart (p q : Packet) : Bool := sameChunk p q && decide (p.addr = q.addr ∧ p.part = q.part)

/-- Holds a part; one sent again takes the place of the part it was sent for. -/
def State.holdPart (s : State) (p : Packet) : State :=
  (s.forget (samePart p)).onPkg fun g => { g with heldParts := g.heldParts ++ [p] }

/-- Whether an error has been found in a held part (R307). -/
def brokenPart (p : Packet) : Bool := p.flags.getLsbD 6

/-- Whether an error has been found in what is held for the chunk a packet commits, which ends its copy (R307). -/
def State.heldBroken (s : State) (p : Packet) : Bool := (s.heldOf p).any brokenPart

/-- Performs parts of chunk writes at their homes here: the writes made. -/
def State.placeParts (s : State) (ps : List Packet) : Nat × State :=
  ps.foldl (fun (a : Nat × State) p =>
    let (w, b) := a.2.placeChunk p p.keyid p.addr.toNat
    (a.1 ||| w, b.notePeer p.spkg w)) (0, s)

/-- A chunk write with no map word (R284): a part to hold; without data, the word that a held part is to be performed, or dropped. Log 64 (DESIGN CHOICE). -/
def State.partArrives (s : State) (pkt : Packet) : State :=
  if pkt.data ≠ [] then s.holdPart pkt
  else
    let s1 := s.forget (samePart pkt)
    if pkt.flags.getLsbD 0 then s1 else (s1.placeParts (s.pkg.heldParts.filter (samePart pkt))).2

/-- A chunk write with a map word: applied once by its bit, in one step with the parts held of its chunk and the setting of the bit; one that finds the bit set is discarded (R199, R284). -/
def State.chunkArrives (s : State) (pkt : Packet) : State :=
  let m := pkt.map.toNat
  let was := s.bitSet pkt.keyid m pkt.chunk
  let s1 := s.forget (sameChunk pkt)
  let s2 := if was then s1
    else
      let (w, s2) := s1.placeParts (s.heldOf pkt ++ if pkt.data = [] then [] else [pkt])
      (s2.setBit pkt.keyid m pkt.chunk w pkt.scope (pkgSid pkt.spkg)).2
  if pkt.data = [] then s2.tellBit pkt was else s2.ackTo pkt

/-- CHUNK_WRITE: a chunk of a peer's copy, or a part of one (R199, R284, R307, R359); one whose chunk another application has claimed waits for that (R284). -/
def execChunkWrite (pkt : Packet) (s : State) : Result :=
  .next (if pkt.map ≠ 0 ∧ s.claimed (pkt.map.toNat - 8 * (pkt.chunk / 64)) pkt.chunk none = true then s else s.serveOnce pkt 6 fun s =>
    let a := pkt.addr.toNat
    let m := pkt.map.toNat
    let bad := match s.peerCheck pkt.spkg pkt a (Nat.max 1 pkt.data.length) with
      | some c => some c
      | none => if m = 0 then none else s.peerCheck pkt.spkg pkt m 8
    match bad with
    | some c => s.nackTo pkt c
    | none =>
      if m = 0 then (if pkt.data = [] ∧ s.heldBroken pkt = true then (s.forget (sameChunk pkt)).nackTo pkt .uncorrectableEcc else (s.partArrives pkt).ackTo pkt)
      else if s.poisoned m 8 || s.heldBroken pkt then (s.forget (sameChunk pkt)).nackTo pkt .uncorrectableEcc
      else s.chunkArrives pkt)

/-- The first failure among the parts of a multicast chunk by this package's own tables: none is written before all are found (R284, R367). -/
def State.mcChecked (s : State) (t : Strand) : List Packet → State × Option Fail
  | [] => (s, none)
  | p :: ps => match s.uePlaces t p.addr p.data.length .copyDst with
    | (s1, .error f) => (s1, some f)
    | (s1, .ok _) => s1.mcChecked t ps

/-- Performs parts of a multicast chunk whose places have been found: the writes made (R367). -/
def State.mcParts (s : State) (t : Strand) (ps : List Packet) : Nat × State :=
  ps.foldl (fun (a : Nat × State) p => match a.2.uePlace t p.addr p.op (Nat.max 1 p.unit) (p.flags.getLsbD 0) p.data with
    | (b, .ok w) => (a.1 ||| w, b.notePeer p.spkg w)
    | (b, .error _) => (a.1, b)) (0, s)

/-- A multicast chunk with its map word: applied once by this package's own map (R367, R368). -/
def State.mcArrives (s : State) (t : Strand) (pkt : Packet) : State :=
  match s.engReach t pkt.map 8 { needOf .copyDst with localOnly := true } with
  | (s1, .error f) => s1.nackTo pkt f.code
  | (s1, .ok m) =>
    if s1.poisoned m.loc 8 || s1.heldBroken pkt then (s1.forget (sameChunk pkt)).nackTo pkt .uncorrectableEcc
    else
      let s2 := s1.forget (sameChunk pkt)
      if s1.bitSet m.key m.loc pkt.chunk then s2.ackTo pkt
      else
        let ps := s1.heldOf pkt ++ if pkt.data = [] then [] else [pkt]
        match s2.mcChecked t ps with
        | (s3, some f) => s3.nackTo pkt f.code
        | (s3, none) =>
          let (w, s4) := s3.mcParts t ps
          (s4.setBit m.key m.loc pkt.chunk w pkt.scope (pkgSid pkt.spkg)).2.ackTo pkt

/-- Whether the chunk of a multicast packet is claimed by another application on this package's map (R284). -/
def State.mcClaimed (s : State) (pkt : Packet) : Bool :=
  decide (pkt.map ≠ 0) && (match (s.engReach (s.jobStrand pkt.job) pkt.map 8 { needOf .copyDst with localOnly := true }).2 with
    | .ok m => s.claimed (m.loc - 8 * (pkt.chunk / 64)) pkt.chunk none
    | .error _ => false)

/-- MULTICAST_CHUNK_WRITE: a chunk of a multicast copy, or a part of one with no map word, which is held: this package translates destination and map by its own tables (R367, R368); a claimed chunk waits (R284). -/
def execMulticastChunkWrite (pkt : Packet) (s : State) : Result :=
  .next (if s.mcClaimed pkt then s else s.serveOnce pkt 7 fun s =>
    match s.reaches pkt.job pkt.spkg with
    | none => s.nackTo pkt .fabricUnreachable
    | some j =>
      if !s.keyLive pkt.keyid then s.nackTo pkt .keyRevoked
      else if pkt.keyid ≠ j.rec_.key then s.nackTo pkt .pageProtection
      else if pkt.map = 0 then (s.holdPart pkt).ackTo pkt
      else s.mcArrives (s.jobStrand pkt.job) pkt)

/-- MESSAGE: a message is written at its mailbox's home (R359, R371). -/
def execMessage (pkt : Packet) (s : State) : Result :=
  .next (s.serveOnce pkt 8 fun s =>
    let a := pkt.addr.toNat
    match s.peerCheck pkt.spkg pkt a 64 with
    | some c => s.nackTo pkt c
    | none =>
      if s.poisoned a 64 then s.nackTo pkt .fabricPoison
      else
        let sid := BitVec.ofNat 32 (natOfBytes (pkt.data.drop 8))
        let (id, s1) := s.peerRelease sid .fab
        let (r, s2) := s1.boxPut pkt.keyid a (word (natOfBytes (pkt.data.take 8))) sid (some id)
        s2.replyTo pkt 9 0 (bytesOfNat 8 r.toNat))

/-- Performs the members of a combined request in list order, each reply kept under the member's own package and `ESEQ`; one performed before is answered with what it got then (R361, R366). -/
def State.combine (s : State) (p : Packet) (n : Nat) : List Member → List Member × State
  | [] => ([], s)
  | m :: ms =>
    let (old, s1) : Nat × State :=
      match (s.peer m.pkg).replies.find? fun r => decide (r.1 = m.eseq) with
      | some r => (natOfBytes r.2.data, s)
      | none =>
        let (old, s1) := s.peerAtomic m.pkg p.rl p.scope p.keyid p.addr.toNat p.op n (m.val % 256 ^ n) 0
        let alone : Packet := { p with kind := 4, spkg := m.pkg, eseq := m.eseq }
        (old, s1.keepReply m.pkg m.eseq (s1.answerTo alone 5 0 0 (bytesOfNat n old)))
    let (rest, s2) := s1.combine p n ms
    (⟨m.pkg, m.eseq, old⟩ :: rest, s2)

/-- COMBINED_ATOMIC: combined fetch-and-adds are performed in list order, as one step of the home order (R366). -/
def execCombinedAtomic (pkt : Packet) (s : State) : Result :=
  .next (if s.atomWaits pkt.addr.toNat 8 then s else match s.takePacket pkt 12 with
    | none => s
    | some s =>
      let ms := members 64 pkt.data
      let n := if pkt.op = 0 then 4 else 8
      let a := pkt.addr.toNat
      let bad := ms.findSome? fun m => s.peerCheck m.pkg pkt a n
      match bad with
      | some c => s.putPacket (s.answerTo pkt 11 c.num 0 [])
      | none =>
        if 1 < pkt.op then s
        else if s.poisoned a n then s.putPacket (s.answerTo pkt 11 FaultCode.fabricPoison.num 0 [])
        else
          let (olds, s1) := s.combine pkt n ms
          s1.putPacket (s1.answerTo pkt 13 pkt.op 0 (olds.flatMap Member.bytes)))

/-! Answers to this package's requests (R359, R361). -/

/-- The request to a package under an `ESEQ` that awaits its answer. -/
def State.unackedOf (s : State) (pkg : Nat) (eseq : BitVec 32) : Option Unacked := (s.peer pkg).unacked.find? fun u => decide (u.pkt.eseq = eseq)

/-- Sends the first request held back for a peer, once it may go (R361). -/
def State.sendHeld (s : State) (pkg : Nat) : State :=
  let q := s.peer pkg
  if 1024 ≤ q.asking then s
  else match q.unacked.find? fun u => decide (u.sends = 0) with
    | none => s
    | some u => (s.setPeer pkg { q with unacked := q.unacked.map fun x => if x.pkt.eseq = u.pkt.eseq then { x with sends := 1, at_ := s.gtime } else x }).putPacket u.pkt

/-- A request has been answered: it is off the list, the table takes the ack in, and one held back may go (R361, R373). -/
def State.retireReq (s : State) (pkg : Nat) (u : Unacked) : State :=
  let q := s.peer pkg
  let q1 := { q with unacked := q.unacked.filter fun x => decide (x.pkt.eseq ≠ u.pkt.eseq) }
  (s.setPeer pkg (q1.onPath u.path fun e => e.heard s.gtime u.at_)).sendHeld pkg

/-- Runs an answer of a kind to a request of certain kinds. -/
def State.onAnswer (s : State) (p : Packet) (kind : Nat) (reqs : List Nat) (k : Unacked → State → State) : State :=
  match s.takePacket p kind with
  | none => s
  | some s1 =>
    match s1.unackedOf p.spkg p.eseq with
    | none => s1
    | some u => if reqs.contains u.pkt.kind then k u (s1.retireReq p.spkg u) else s1

/-- A command of a chain fails by what a peer or the fabric answers. -/
def State.chainFail (s : State) (hdr : Nat) (c : FaultCode) (va : Word) : State :=
  match s.chain? hdr with
  | none => s
  | some h =>
    match h.cur, h.todo with
    | some cmd, _ => s.cmdFail h (cmd.fault (fail c) va 8 0)
    | none, cmd :: _ => (s.takeCmd h cmd).cmdFail h (cmd.fault (fail c) va 8 0)
    | none, [] => s

/-- A peer has refused bytes a copy asked for: a source, kind 8; the word of its map, or what a reduction starts from, kind 9; a poisoned map word ends the copy (R202, R307). -/
def State.readRefused (s : State) (x : Copy) (c : FaultCode) (va : Word) (p : Packet) : State :=
  let ofMap := x.desc.mapped && decide (x.desc.map.toNat ≤ va.toNat ∧ va.toNat < x.desc.map.toNat + 8 * ((x.desc.chunks + 63) / 64)) && decide (p.len = 8)
  if ofMap then s.copyFault x.id (fail (if c = .fabricPoison then .uncorrectableEcc else c)) va 9 else s.copyFault x.id (fail c) va 8

/-- A request of this package has failed with a code: the instruction, copy, stream or command it is for learns of it (R202, R304, R361, R363, R369). -/
def State.reqFailed (s : State) (u : Unacked) (c : FaultCode) : State :=
  let req := peerReq u.pkt.dpkg u.pkt.eseq
  match u.who with
  | none => s
  | some (.strand uid) =>
    if u.pkt.kind = 3 then
      s.asUid uid fun s =>
        let va := word u.elem
        let back : Pend := ⟨va, peerLoc u.pkt.dpkg u.pkt.addr.toNat, u.pkt.data.length, natOfBytes u.pkt.data, u.tag, none⟩
        (s.onCur fun t => { t with out := t.out.filter fun x => decide (x ≠ req), pend := back :: t.pend }).takeFault (s.faultRec (fail c) va 3 0)
    else if u.pkt.kind = 1 then s.asUid uid fun s => match s.cur.wait.bind (·.expiry) with
      | some f =>
        -- a vector load is issued again and meets the refusal at its element, which may be past the first (R153, R156)
        if f.kind = 6 then s.onCur fun t => { t with wait := none, refused := t.refused.set none (peerLoc u.pkt.dpkg u.pkt.addr.toNat) (some c) }
        else s.takeFault { f with code := c }
      | none => s
    else s.opReply uid u.elem (.inr (badReply c none))
  | some (.copy id) =>
    let s1 := s.copyReply id req
    if u.pkt.kind = 1 then
      (match s1.copy? id with
       | some x => if x.counting then s1.onCopy id fun x => { x with mapLost := true } else s1.readRefused x c (word u.elem) u.pkt
       | none => s1)
    else if u.pkt.kind = 7 then s1.mcFail id u.elem u.pkt.dpkg (fail c)
    else match s1.copy? id with
      | some x =>
        let va := if u.pkt.map ≠ 0 ∧ c = .uncorrectableEcc then x.desc.map + word (8 * (u.elem / 64)) else (x.desc.elem x.rev (512 * u.elem / x.desc.esize)).2
        (s1.abandonChunk id u.elem).copyFault id (fail c) va 9
      | none => s1
  | some (.port core p) => s.onPort core p fun q => { q with fault := some (c, word u.elem), buf := [] }
  | some (.chain hdr) =>
    -- a status that cannot be written at its record's home does not hold the chain (R206)
    if u.pkt.kind = 3 then s.onChain hdr fun c => { c with status := some true } else s.chainFail hdr c (word u.elem)

/-- READ_REPLY: the bytes of a peer read reach whoever asked; poisoned ones fault a load, a stream and a command, and go on with a copy (R359, R363); a word of a map that is being changed meanwhile is handed on after that (R199). -/
def execReadReply (pkt : Packet) (s : State) : Result :=
  .next (if (match s.unackedOf pkt.spkg pkt.eseq with
      | some u => s.bitOut (peerLoc pkt.spkg u.pkt.addr.toNat) u.pkt.len
      | none => false) then s else s.onAnswer pkt 2 [1] fun u s =>
    let loc := peerLoc pkt.spkg u.pkt.addr.toNat
    match u.who with
    | none => s
    | some who =>
      if pkt.flags.getLsbD 0 then
        match who with
        | .copy id => (s.deliver who loc pkt.data).onCopy id fun c => { c with bad := (List.range pkt.data.length).foldl (fun m i => m.set false (loc + i) true) c.bad }
        | _ => s.reqFailed u .fabricPoison
      else s.deliver who loc pkt.data)

/-- ATOMIC_REPLY: the old value of a peer atomic (R359). -/
def execAtomicReply (pkt : Packet) (s : State) : Result :=
  .next (s.onAnswer pkt 5 [4] fun u s =>
    let req := peerReq u.pkt.dpkg u.pkt.eseq
    match u.who with
    | some (.strand uid) => s.opReply uid u.elem (.inl (word (natOfBytes pkt.data)))
    | some (.copy id) => s.copyReply id req
    | some (.chain hdr) => s.cmdDone hdr none
    | _ => s)

/-- MESSAGE_REPLY: the slot an `fsend` found, or all ones (R359, R371). -/
def execMessageReply (pkt : Packet) (s : State) : Result :=
  .next (s.onAnswer pkt 9 [8] fun u s => match u.who with
    | some (.strand uid) => s.opReply uid u.elem (.inl (word (natOfBytes pkt.data)))
    | _ => s)

/-- A packet of a multicast chunk is placed: the parts of one are followed by its map word once all are there; with that, it is committed at the destination (R284, R369). -/
def State.mcAcked (s : State) (c : Copy) (p : Packet) : State :=
  if p.map ≠ 0 then s.mcCommitted c.id p.chunk p.dpkg
  else if s.mcWaiting c.id p.chunk p.dpkg then s
  else s.sendChunk c p.chunk (s.mcPacket c p.chunk p.dpkg (p.flags.getLsbD 1) (512 * p.chunk / c.desc.esize, 0) true)

/-- ACK: a write is placed: a release waits for one less; a chunk is in place at its destination (R361, R369, R276). -/
def execAck (pkt : Packet) (s : State) : Result :=
  .next (s.onAnswer pkt 10 [3, 6, 7] fun u s =>
    let req := peerReq u.pkt.dpkg u.pkt.eseq
    match u.who with
    | some (.strand uid) => s.onUid uid fun t => { t with out := t.out.filter fun x => decide (x ≠ req) }
    | some (.copy id) =>
      let s1 := s.copyReply id req
      (match s1.copy? id with
       | none => s1
       | some c =>
         if u.pkt.kind = 7 then s1.mcAcked c u.pkt
         else if u.pkt.map = 0 then s1.commitChunk id u.elem
         else if u.pkt.data = [] then s1.bitTaken id u.elem (peerLoc pkt.spkg u.pkt.map.toNat) (pkt.data = [1])
         else (s1.noteBit (peerLoc pkt.spkg u.pkt.map.toNat) u.elem 0 c).commitChunk id u.elem)
    | some (.chain hdr) => s.onChain hdr fun c => { c with status := some true }
    | _ => s)

/-- A branch of a multicast chunk was dropped on the way: it is sent again by unicast, or after the freeze (R368, R388). -/
def State.branchDropped (s : State) (id j pkg : Nat) : State :=
  match s.copy? id with
  | none => s
  | some c =>
    if s.engineRuns c.job then s.resendBranch id j pkg
    else s.onPkg fun g => { g with branches := ⟨pkg, id, j, s.gtime, true⟩ :: g.branches.filter fun b => !decide (b.copy = id ∧ b.chunk = j ∧ b.pkg = pkg) }

/-- NACK: a stage dropped a multicast branch (code 0), or the home refused the request with a fault code (R363, R368). -/
def execNack (pkt : Packet) (s : State) : Result :=
  .next (if pkt.op = 0 then
    match s.takePacket pkt 11 with
    | none => s
    | some s1 =>
      match s1.unackedOf pkt.spkg pkt.eseq with
      | none => s1
      | some u => match u.who with
        | some (.copy id) => if u.pkt.kind = 7 then s1.branchDropped id u.elem pkt.spkg else s1
        | _ => s1
  else s.onAnswer pkt 11 [1, 3, 4, 6, 7, 8] fun u s => match codeOfNum pkt.op with
    | some c => s.reqFailed u c
    | none => s)

/-- COMBINED_REPLY: each member of this package gets its old value (R366). -/
def execCombinedReply (pkt : Packet) (s : State) : Result :=
  .next (match s.takePacket pkt 13 with
    | none => s
    | some s1 =>
      ((members 64 pkt.data).filter fun m => decide (m.pkg = s1.pkgNo)).foldl (fun (a : State) m =>
        match a.unackedOf pkt.spkg m.eseq with
        | none => a
        | some u =>
          if u.pkt.kind ≠ 4 then a
          else match u.who with
            | some (.strand uid) => (a.retireReq pkt.spkg u).opReply uid u.elem (.inl (word m.val))
            | some (.chain hdr) => (a.retireReq pkt.spkg u).cmdDone hdr none
            | _ => a.retireReq pkt.spkg u) s1)

/-! Retransmission and branches (R361, R368). -/

/-- The path a retransmission takes: another eligible one where there is one (R376). -/
def State.nextPath (s : State) (pkg : Nat) (u : Unacked) : Nat :=
  let xs := eligiblePaths (s.peer pkg).paths s.gtime (s.policyOf u.who pkg).1
  (pickPath (xs.filter fun x => decide (x.2 ≠ u.path)) u.path).getD u.path

/-- A request is given up: it is off the list, and one held back may go (R361). -/
def State.giveUp (s : State) (pkg : Nat) (u : Unacked) : State :=
  let q := s.peer pkg
  let left := q.unacked.filter fun x => decide (x.pkt.eseq ≠ u.pkt.eseq)
  (s.setPeer pkg { q with unacked := left }).sendHeld pkg

/-- E2E_RETRANSMIT: a packet not acked for 20 µs is sent again, 8 times at most, and then its request fails with `FABRIC_UNREACHABLE`; a frozen job's timers stand (R361, R388). -/
def execE2eRetransmit (pkg : Nat) (eseq : BitVec 32) (s : State) : Result :=
  .next (match s.unackedOf pkg eseq with
    | none => s
    | some u =>
      let held := (s.job? u.pkt.job).isSome && !s.engineRuns u.pkt.job
      if held ∨ u.sends = 0 ∨ s.gtime.toNat < u.at_.toNat + 20000 then s
      else if 8 ≤ u.sends then (s.giveUp pkg u).reqFailed u .fabricUnreachable
      else
        let q := s.peer pkg
        let u1 := { u with sends := u.sends + 1, at_ := s.gtime, path := s.nextPath pkg u }
        let q1 : Peer := { q with unacked := q.unacked.map fun (x : Unacked) => if x.pkt.eseq = eseq then u1 else x }
        (s.setPeer pkg (q1.onPath u.path fun e => { e with retx := (s.gtime :: e.retx).take 256 })).putPacket u.pkt)

/-- MULTICAST_BRANCH_TIMEOUT: a branch that could not accept its copy within 100 µs drops it, and the chunk goes to that destination by unicast (R368). -/
def execMulticastBranchTimeout (copy chunk pkg : Nat) (s : State) : Result :=
  .next (if s.pkg.branches.any fun b => decide (b.copy = copy ∧ b.chunk = chunk ∧ b.pkg = pkg ∧ b.since.toNat + 100000 ≤ s.gtime.toNat) && !b.nacked then
    s.branchDropped copy chunk pkg
  else s)

/-- PATH_PROBE: a probe of a path of a peer the package has exchanged traffic with: its smoothed round trip and congestion marks; a round trip of 0 stands for a probe that had no answer (R373, R374). Log 55 (DESIGN CHOICE). -/
def execPathProbe (peer path rtt ecn : Nat) (s : State) : Result :=
  .next (if 16 ≤ path ∨ (s.peer peer).hasTable = false ∨ rtt = 0 then s
  else s.setPeer peer ((s.peer peer).onPath path fun x => { x with
    rtt := BitVec.ofNat 16 (Nat.min 0xFFFF rtt), ecn := BitVec.ofNat 8 (Nat.min 0xFF ecn), seen := s.gtime, valid := true }))

/-! Launches of a slice (R354, R355). -/

/-- LAUNCH_ACCEPT_ANNOUNCE: another package of the slice has accepted a launch, under the digest of its record (R354). -/
def execLaunchAcceptAnnounce (pkg : Nat) (job : BitVec 32) (digest : Nat) (time : Word) (s : State) : Result :=
  .next (match s.job? job with
    | none => s
    | some j =>
      if !j.multi then s
      else match s.takeCtl (.accept pkg job digest time) with
        | none => s
        | some s1 =>
          (s1.onJob job fun j => { j with accepts := if j.accepts.any (fun a => decide (a.1 = pkg)) then j.accepts else j.accepts ++ [(pkg, digest, time)] }).checkDigests job)

/-- Whether every package of the slice has accepted a launch within 1 ms of the first (R354). -/
def State.agreed (s : State) (j : Job) : Bool :=
  let times := j.accepts.map fun a => a.2.2.toNat
  let first := (times.min?).getD 0
  s.slice.all (fun p => j.accepts.any fun a => decide (a.1 = p)) && times.all fun t => decide (t ≤ first + 1000000)

/-- LAUNCH_AGREE_TIMEOUT: the slice has not all accepted within 1 ms of the first acceptance; digests that differ are answered first (R354). -/
def execLaunchAgreeTimeout (job : BitVec 32) (s : State) : Result :=
  .next (
    let s1 := s.checkDigests job
    match s1.job? job with
    | none => s1
    | some j =>
      let first := ((j.accepts.map fun a => a.2.2.toNat).min?).getD 0
      if j.pending && j.startAt.isNone && !s.agreed j && decide (first + 1000000 < s.gtime.toNat) then s1.rejectLaunch job 6 else s1)

/-- MULTI_JOB_START: with the slice agreed, the common start S is 20 µs after the latest acceptance; at S the job starts with `jtime` 0 (R73, R354). A launch frozen before its start takes S after the resume (R393). -/
def execMultiJobStart (job : BitVec 32) (s : State) : Result :=
  .next (match s.job? job with
    | none => s
    | some j =>
      let s1 := s.checkDigests job
      if j.pending && s.lockLong then s.rejectLaunch job 6
      else if !j.pending || (s1.job? job).isNone || decide (j.slate.st ≠ .running) || decide (j.slate.wave ≠ none) then s1
      else match j.startAt with
        | none =>
          if s.agreed j then
            let latest := (j.accepts.map fun a => a.2.2.toNat).foldl Nat.max j.notBefore.toNat
            s1.onJob job fun j => { j with startAt := some (word (latest + 20000)) }
          else s1
        | some t =>
          if t.toNat ≤ s.gtime.toNat then s1.onJob job fun j => { j with timed := true, jrun := true, jval := 0, jfrom := t } else s1)

/-- PTP_LOCK_LOSS: a package without lock to the reference for 10 ms fails every multi-package launch that has not started (R355). -/
def execPtpLockLoss (s : State) : Result :=
  .next (if s.lockLong then
    (s.jobs.filter Job.pending).foldl (fun (a : State) j => a.rejectLaunch j.id 6) s
  else s.onPkg fun g => { g with lockLost := some (g.lockLost.getD s.gtime) })

end Sys2Proof.Machine
end

