-- ==== Sys2Proof/Machine/LoadStore.lean ====
section
/-! DEFINITION. Scalar loads and stores (R94, R95). -/

namespace Sys2Proof.Machine

/-- `ld.b`: 1 byte at sa + sext(imm12) (R94). -/
def execLdB (d a : BitVec 5) (i : BitVec 12) (s : State) : Result := .next (s.loadScalar d a (imm12 i) 1 sext8)
/-- `ld.h`: 2 bytes at sa + sext(imm12) (R94). -/
def execLdH (d a : BitVec 5) (i : BitVec 12) (s : State) : Result := .next (s.loadScalar d a (imm12 i) 2 sext16)
/-- `ld.w`: 4 bytes at sa + sext(imm12) (R94). -/
def execLdW (d a : BitVec 5) (i : BitVec 12) (s : State) : Result := .next (s.loadScalar d a (imm12 i) 4 sext32)
/-- `ld.d`: 8 bytes at sa + sext(imm12) (R94). -/
def execLdD (d a : BitVec 5) (i : BitVec 12) (s : State) : Result := .next (s.loadScalar d a (imm12 i) 8 word)
/-- `ld.bz`: 1 byte at sa + sext(imm12) (R94). -/
def execLdBz (d a : BitVec 5) (i : BitVec 12) (s : State) : Result := .next (s.loadScalar d a (imm12 i) 1 word)
/-- `ld.hz`: 2 bytes at sa + sext(imm12) (R94). -/
def execLdHz (d a : BitVec 5) (i : BitVec 12) (s : State) : Result := .next (s.loadScalar d a (imm12 i) 2 word)
/-- `ld.wz`: 4 bytes at sa + sext(imm12) (R94). -/
def execLdWz (d a : BitVec 5) (i : BitVec 12) (s : State) : Result := .next (s.loadScalar d a (imm12 i) 4 word)
/-- `st.b`: the low 1 byte of sb to sa + sext(imm12) (R94). -/
def execStB (a b : BitVec 5) (i : BitVec 12) (s : State) : Result := .next (s.storeScalar a b (imm12 i) 1)
/-- `st.h`: the low 2 bytes of sb to sa + sext(imm12) (R94). -/
def execStH (a b : BitVec 5) (i : BitVec 12) (s : State) : Result := .next (s.storeScalar a b (imm12 i) 2)
/-- `st.w`: the low 4 bytes of sb to sa + sext(imm12) (R94). -/
def execStW (a b : BitVec 5) (i : BitVec 12) (s : State) : Result := .next (s.storeScalar a b (imm12 i) 4)
/-- `st.d`: the low 8 bytes of sb to sa + sext(imm12) (R94). -/
def execStD (a b : BitVec 5) (i : BitVec 12) (s : State) : Result := .next (s.storeScalar a b (imm12 i) 8)

end Sys2Proof.Machine
end

