-- ==== Sys2Proof/Machine/MatrixUnit.lean ====
section
/-! DEFINITION. The matrix unit: the MAT instructions (R182 to R187) and what the unit performs from its queue (R175, R179). -/

namespace Sys2Proof.Machine

/-! The queue in program order (R178, R179, R184). -/

/-- The tag a streamed pass leaves (R178). -/
def passTag (ty : ElTy) (acc : Bool) (old : TileTag) : TileTag :=
  if acc && decide (old ≠ .z) then old else if ty = .i8 then .i else .f

def Matrix.tile (m : Matrix) (t : Nat) : Tile := m.tiles.toList.getD t Tile.zero
def Matrix.setTile (m : Matrix) (t : Nat) (v : Tile) : Matrix := { m with tiles := m.tiles.setIfInBounds t v }

/-- The tag of a tile in program order: every queued entry counts as performed (R178). -/
def Matrix.tagOf (m : Matrix) (t : Nat) : TileTag :=
  m.queue.foldl (fun g e => match e.op with
    | .mstr ty u acc _ => if u = t then passTag ty acc g else g
    | .mzero u => if u = t then .z else g
    | _ => g) (m.tile t).tag

/-- The types of the active and shadow planes in program order (R184). -/
def Matrix.planned (m : Matrix) : Option ElTy × Option ElTy :=
  m.queue.foldl (fun p e => match e.op with
    | .mld ty _ => (p.1, some ty)
    | .mswap => (p.2, p.1)
    | _ => p) (m.act.ty, m.shadow.ty)

def State.matrix (s : State) (core : Nat) : Matrix := (s.core core).matrix
def State.onMatrix (s : State) (core : Nat) (f : Matrix → Matrix) : State := s.onCore core fun c => { c with matrix := f c.matrix }

/-! The instructions. -/

/-- The issue of a MAT instruction: scalar sources, issue checks, lanes for `mrd`, the lease (R106, R176). -/
def State.matIssue (s : State) (srcs : List (BitVec 5)) (ok : State → Bool) (lanes : Bool) (k : State → State) : State :=
  s.issue srcs [] fun s =>
    if !ok s then s.faultCode .illegalOperand 0 0 0
    else if lanes && decide (s.cur.laneCount = 0) then s.faultCode .noLanes 0 0 0
    else if !s.cur.mlease then s.faultCode .illegalOperand 0 0 0
    else k s

/-- Puts an entry into the queue, or waits while it holds 16 (R179, R181). -/
def State.matPut (s : State) (op : MOp) (k : State → State) : State :=
  if (s.matrix s.curCore).used < matQueueCap then
    k (s.onMatrix s.curCore fun m => { m with queue := m.queue ++ [⟨s.cur.uid, s.cur.pc, op, 0⟩] })
  else s.boundedWait .matQueue (s.faultRec (fail .matrixWaitExpired) (BitVec.allOnes 64) 10 0)

/-- The pieces of a row that lie on one 256 KiB page each. -/
def rowPieces (va : Word) (n : Nat) : List (Word × Nat) :=
  let first := Nat.min n (2 ^ 18 - va.toNat % 2 ^ 18)
  if first < n then [(va, first), (va + word first, n - first)] else [(va, n)]

/-- Checks the pieces of rows in order (R94 with no alignment beyond 4, access kind 10): the hits, or the first that fails. -/
def State.reachAll (s : State) (nd : Need) : List (Nat × Word × Nat) → State × Except (Fail × Word) (List (Nat × Word × Nat × Hit))
  | [] => (s, .ok [])
  | (i, va, n) :: xs =>
    match s.reach s.cur va n nd with
    | (s1, .error f) => (s1, .error (f, va))
    | (s1, .ok h) =>
      match s1.reachAll nd xs with
      | (s2, .ok l) => (s2, .ok ((i, va, n, h) :: l))
      | r => r

/-- The pieces of `count` rows of n bytes at a pitch. -/
def rowsAt (base : Word) (pitch count n : Nat) : List (Nat × Word × Nat) :=
  (List.range count).flatMap fun i => (rowPieces (base + word (i * pitch)) n).map fun p => (i, p.1, p.2)

/-- Reads a piece word by word as the strand's loads (R180), with the poison its words carry (R175). -/
def State.readPiece (s : State) (h : Hit) : (words off : Nat) → State × List Byte
  | 0, _ => (s, [])
  | w + 1, off =>
    let (v, s1) := if h.void then (0, s) else if h.sable then (s.peekKey h.key (h.loc + off) 4, s) else s.loadHere h.key (h.loc + off) 4
    let (s2, bs) := s1.readPiece h w (off + 4)
    (s2, bytesOfNat 4 v ++ bs)

/-- Reads rows from their checked pieces. -/
def State.readRows (s : State) (count : Nat) (l : List (Nat × Word × Nat × Hit)) : State × List MRow :=
  (List.range count).foldl (fun a i =>
    let ps := l.filter fun x => decide (x.1 = i)
    let r := ps.foldl (fun (b : State × List Byte × Bool) x =>
      let (h, n) := (x.2.2.2, x.2.2.1)
      let (s1, bs) := b.1.readPiece h (n / 4) 0
      ((if h.void then s1.onCur Strand.setVoidRead else s1), b.2.1 ++ bs, b.2.2 || (!h.void && s1.poisoned h.loc n))) (a.1, [], false)
    (r.1, a.2 ++ [⟨natOfBytes r.2.1, r.2.2⟩])) (s, [])

/-- Goes on with a read of rows once an earlier `mst` of the strand has written what they meet (R180). -/
def State.clearOfRows (s : State) (l : List (Nat × Word × Nat × Hit)) (k : State → State) : State :=
  if s.mstQueued && l.any (fun x => s.mstMeets x.2.2.2.loc x.2.2.1) then s.holdOn .mstDrain else k s

/-- `mld`: checks and reads K weight rows and queues them for the shadow plane (R182). -/
def execMld (a b y : BitVec 5) (s : State) : Result :=
  .next (match ElTy.ofCode y.toNat with
  | none => s.faultCode .illegalOperand 0 0 0
  | some ty => s.matIssue [a, b] (fun s =>
      decide (mclass ty ≠ 0 ∧ rowBytes ty 128 ≤ (s.cur.getS b).toNat ∧ (s.cur.getS b).toNat < 2 ^ 32)) false fun s =>
    let va := s.cur.getS a
    let p := (s.cur.getS b).toNat
    if va.toNat % 4 ≠ 0 ∨ p % 4 ≠ 0 then s.faultCode .misaligned va 10 0
    else
      let k := mclassK (mclass ty)
      match s.reachAll (needOf .matrixLoad) (rowsAt va p k (rowBytes ty 128)) with
      | (s1, .error (f, x)) => s1.takeFault (s1.faultRec f x 10 0)
      | (s1, .ok l) =>
        s1.clearOfRows l fun s1 =>
        let (s2, rows) := s1.readRows k l
        s2.matPut (.mld ty rows) State.retire)

/-- `mswap`: queued; never faults past its lease (R183). -/
def execMswap (s : State) : Result := .next (s.matIssue [] (fun _ => true) false fun s => s.matPut .mswap State.retire)

/-- The operand checks of `mstr` (R178, R184). -/
def State.mstrOk (s : State) (ty : ElTy) (t : Nat) (acc : Bool) (p : Word) : Bool :=
  let n := p.toNat % 2 ^ 16
  let pitch := p.toNat / 2 ^ 16 % 2 ^ 32
  let c := mclass ty
  let m := s.matrix s.curCore
  decide (c ≠ 0 ∧ p.toNat / 2 ^ 48 = 0 ∧ 1 ≤ n ∧ n ≤ 128 ∧ rowBytes ty (mclassK c) ≤ pitch) &&
  (match m.planned.1 with
   | some pt => decide (mclass pt = c ∧ ((pt = .i8) ↔ (ty = .i8)))
   | none => false) &&
  (!acc || (match m.tagOf t with
   | .f => decide (ty ≠ .i8)
   | .i => decide (ty = .i8)
   | .z => true))

/-- The first row of an `mstr` that is not wholly inside the own scratchpad window (R184). -/
def mstrRow (rows : List (Nat × Word × Nat)) : Option (FaultCode × Word) :=
  match rows.find? fun r => decide (r.2.1.toNat / 2 ^ 56 ≠ 0xF0 ∨ 2 ^ 21 < r.2.1.toNat % 2 ^ 56 + r.2.2) with
  | some r => some (if r.2.1.toNat / 2 ^ 56 ≠ 0xF0 then .kindForbidden else .nearBounds, r.2.1)
  | none => none

/-- `mstr`: streams n activation rows from the own scratchpad past the active plane into a tile (R184). Log 59 (DEDUCED). -/
def execMstr (x : BitVec 2) (a b : BitVec 5) (c : BitVec 1) (y : BitVec 5) (s : State) : Result :=
  .next (match ElTy.ofCode y.toNat with
  | none => s.faultCode .illegalOperand 0 0 0
  | some ty =>
    let acc := decide (c = 1)
    s.matIssue [a, b] (fun s => s.mstrOk ty x.toNat acc (s.cur.getS b)) false fun s =>
      let va := s.cur.getS a
      let p := s.cur.getS b
      let n := p.toNat % 2 ^ 16
      let pitch := p.toNat / 2 ^ 16 % 2 ^ 32
      let bytes := rowBytes ty (mclassK (mclass ty))
      if va.toNat % 4 ≠ 0 ∨ pitch % 4 ≠ 0 then s.faultCode .misaligned va 10 0
      else
        match mstrRow ((List.range n).map fun i => (i, va + word (i * pitch), bytes)) with
        | some (f, w) => s.faultCode f w 10 0
        | none =>
          match s.reachAll (needOf .matrixLoad) (rowsAt va pitch n bytes) with
          | (s1, .error (f, w)) => s1.takeFault (s1.faultRec f w 10 0)
          | (s1, .ok l) =>
            s1.clearOfRows l fun s1 =>
            let (s2, rows) := s1.readRows n l
            s2.matPut (.mstr ty x.toNat acc rows) fun s =>
              (s.onMatrix s.curCore fun m =>
                let t := m.tile x.toNat
                m.setTile x.toNat { t with final := t.final &&& ~~~(BitVec.ofNat 128 (2 ^ n - 1)) }).retire)

/-- The fault a poisoned row gives its reader (R175). Log 37 (DEDUCED). -/
def Tile.rowFault (t : Tile) (i : Nat) : Option FaultCode :=
  if t.ecc.getLsbD i then some .uncorrectableEcc else if t.poison.getLsbD i then some .poisonConsumed else none

/-- Column j of the two rows from r on (R185). -/
def Tile.at (t : Tile) (r j : Nat) : Nat := (t.rows.get 0 (r + j / 128)).toNat / 2 ^ (32 * (j % 128)) % 2 ^ 32

/-- What `mrd` writes once its rows are final: values to vd as 32-bit patterns (R185). -/
def Strand.mrdPut (t : Strand) (m : Matrix) (d : BitVec 5) (tile r c : Nat) : Strand :=
  t.setV d (putEls 32 (t.getV d) ((List.range (t.vbits / 32)).map fun i =>
    if c + i < 256 then (m.tile tile).at r (c + i) else elemAt 32 (t.getV d) i))

/-- The fault of the first of two rows that has one (R175). -/
def Matrix.rowsFault (m : Matrix) (t r : Nat) : Option FaultCode := ([r, r + 1].filterMap (m.tile t).rowFault).head?

/-- The wait for rows of an instruction that issues now (R181). -/
def State.rowWait (s : State) : RowWait := ⟨s.jtime + s.cur.dlDef, s.cur⟩

/-- The operand of `mrd` (R185): the row, even and at most 126, and the column. -/
def mrdOk (x : Word) : Bool := decide (x.toNat / 2 ^ 24 = 0 ∧ x.toNat % 2 = 0 ∧ x.toNat % 2 ^ 16 ≤ 126)

/-- Puts an `mrd` into the vector queue; it counts among no 16 (R179). -/
def State.queueMrd (s : State) (op : MOp) : State := s.onMatrix s.curCore fun m => { m with queue := m.queue ++ [⟨s.cur.uid, s.cur.pc, op, 0⟩] }

/-- `mrd`: rows r and r + 1 of a tile to a vector register once both are final (R185). One that has to wait does so in the vector queue, behind the strand's earlier ones, and the front end goes on (R19, R179). Log 29 (DESIGN CHOICE). -/
def execMrd (d : BitVec 5) (x : BitVec 2) (a : BitVec 5) (s : State) : Result :=
  .next (s.matIssue [a] (fun s => !s.cur.anyStream [d] && mrdOk (s.cur.getS a)) true fun s =>
    let v := (s.cur.getS a).toNat
    let r := v % 2 ^ 16
    let m := s.matrix s.curCore
    if (rowsMissing m.queue x.toNat [r, r + 1]).isSome || s.mrdQueued then (s.queueMrd (.mrd x.toNat r (v / 2 ^ 16) d s.rowWait)).retire
    else match m.rowsFault x.toNat r with
      | some f => s.faultCode f 0 10 0
      | none => (s.onCur fun t => t.mrdPut m d x.toNat r (v / 2 ^ 16)).retire)

/-- `mzero`: queued (R186). -/
def execMzero (x : BitVec 2) (s : State) : Result :=
  .next (s.matIssue [] (fun _ => true) false fun s => s.matPut (.mzero x.toNat) State.retire)

/-- The types `mst` takes for a tag (R187). -/
def mstTakes (g : TileTag) (ty : ElTy) : Bool :=
  match g with
  | .f => isF ty
  | .i => decide (ty = .i32)
  | .z => isF ty || decide (ty = .i32)

/-- `mst`: checks and translates 128 rows and is queued; the unit writes each row as soon as it is final, and the front end goes on (R19, R187). Log 29 (DESIGN CHOICE). -/
def execMst (x : BitVec 2) (a b y : BitVec 5) (s : State) : Result :=
  .next (match ElTy.ofCode y.toNat with
  | none => s.faultCode .illegalOperand 0 0 0
  | some ty => s.matIssue [a, b] (fun s =>
      let p := (s.cur.getS b).toNat
      mstTakes ((s.matrix s.curCore).tagOf x.toNat) ty && decide (16 * widthOf ty ≤ p ∧ p < 2 ^ 32)) false fun s =>
    let va := s.cur.getS a
    let p := (s.cur.getS b).toNat
    let es := widthOf ty / 8
    if va.toNat % es ≠ 0 ∨ p % es ≠ 0 then s.faultCode .misaligned va 10 0
    else
      match s.reachAll (needOf .matrixStore) (rowsAt va p 128 (128 * es)) with
      | (s1, .error (f, w)) => s1.takeFault (s1.faultRec f w 10 0)
      | (s1, .ok l) =>
        s1.matPut (.mst ty x.toNat (l.map fun q => ⟨q.1, q.2.1, q.2.2.2.loc, q.2.2.2.key, q.2.2.1, q.2.2.2.sable⟩) s1.rowWait) State.retire)

/-! What the unit performs (R179). -/

/-- The first entry of a queue that a test picks, given the entries before it, with the entries before it and after it. -/
def pickWith (f : List MEntry → MEntry → Bool) : List MEntry → List MEntry → Option (List MEntry × MEntry × List MEntry)
  | _, [] => none
  | pre, e :: es => if f pre e then some (pre, e, es) else pickWith f (pre ++ [e]) es

/-- The same by the entry alone. -/
def pick (f : MEntry → Bool) : List MEntry → List MEntry → Option (List MEntry × MEntry × List MEntry) := pickWith fun _ e => f e

def MOp.isMld : MOp → Bool
  | .mld _ _ => true
  | _ => false
def MOp.isSwap : MOp → Bool
  | .mswap => true
  | _ => false
def MOp.isMstr : MOp → Bool
  | .mstr _ _ _ _ => true
  | _ => false
def MOp.isMzero : MOp → Bool
  | .mzero _ => true
  | _ => false
/-- MLD_COMPLETE: the first queued `mld` with no swap before it fills the shadow plane (R179 rule 1, R182). -/
def execMldComplete (core : Nat) (s : State) : Result :=
  .next (match pick (fun e => e.op.isMld) [] (s.matrix core).queue with
  | some (pre, ⟨_, _, .mld ty rows, _⟩, post) =>
    if pre.any (fun e => e.op.isSwap) then s
    else s.onMatrix core fun m => { m with
      shadow := ⟨some ty, rows.map (·.bytes), rows.any (·.poison), false⟩, queue := pre ++ post }
  | _ => s)

/-- MSWAP_PERFORMED: the first queued swap, with no load or pass before it, exchanges the planes (R179 rule 2, R183). -/
def execMswapPerformed (core : Nat) (s : State) : Result :=
  .next (match pick (fun e => e.op.isSwap) [] (s.matrix core).queue with
  | some (pre, _, post) =>
    if pre.any (fun e => e.op.isMld || e.op.isMstr) then s
    else s.onMatrix core fun m => { m with act := m.shadow, shadow := m.act, queue := pre ++ post }
  | none => s)

/-- The row of sums of one activation row (R125, R184). -/
def sumRow (p : Plane) (ty : ElTy) (acc : Bool) (row : Nat) (old : BitVec 4096) : BitVec 4096 :=
  let pt := p.ty.getD .bf16
  let k := mclassK (mclass ty)
  let col (c : Nat) : Nat :=
    let o : Nat := old.toNat / 2 ^ (32 * c) % 2 ^ 32
    if ty = .i8 then
      let sum := (List.range k).foldl (fun (z : Int) i =>
        z + toSigned 8 (row / 2 ^ (8 * i) % 256) * toSigned 8 (p.rows.getD i 0 / 2 ^ (8 * c) % 256)) 0
      wrapInt 32 (if acc then (o : Int) + sum else sum)
    else
      let sum := rowSumF ((List.range k).map fun i => (mulF (rowVal ty k row i) (rowVal pt 128 (p.rows.getD i 0) c)).1)
      if acc then accF32 o sum else sum
  BitVec.ofNat 4096 (packEls 32 ((List.range 128).map col))

/-- An uncorrectable error of the matrix unit's own, in a plane or a row of a tile, marks it (R175). Log 37 (DEDUCED). -/
def Matrix.meetErr (m : Matrix) : MatErr → Matrix
  | .active => { m with act := { m.act with ecc := true } }
  | .shadow => { m with shadow := { m.shadow with ecc := true } }
  | .row t i => m.setTile t { m.tile t with ecc := (m.tile t).ecc ||| 1#128 <<< i }

/-- MSTR_ROW_FINAL: the first queued pass, with no swap before it, writes its next row, unless an earlier `mzero`, `mst` or `mrd` of that row stands before it; the row takes the poison of its sources, and the error of the active plane (R175, R179 rule 3, R184). An error of the unit's own that the event names is met first, in whatever plane or row it is, a pass or none. Log 37 (DEDUCED). -/
def execMstrRowFinal (core : Nat) (err : Option MatErr) (s : State) : Result :=
  let s := match err with
    | some e => s.onMatrix core fun m => m.meetErr e
    | none => s
  .next (match pick (fun e => e.op.isMstr) [] (s.matrix core).queue with
  | some (pre, ⟨u, pc, .mstr ty t acc rows, i⟩, post) =>
    let blocks (e : MEntry) : Bool := match e.op with
      | .mswap => true
      | .mzero v => decide (v = t)
      | .mst _ v _ _ => decide (v = t ∧ e.done ≤ i)
      | .mrd v r _ _ _ => decide (v = t ∧ (r = i ∨ r + 1 = i))
      | _ => false
    if pre.any blocks then s
    else s.onMatrix core fun m =>
      let tl := m.tile t
      let row := rows.getD i ⟨0, false⟩
      let bit := 1#128 <<< i
      let tl1 : Tile := { tl with
        tag := passTag ty acc tl.tag
        rows := tl.rows.set 0 i (sumRow m.act ty acc row.bytes (tl.rows.get 0 i))
        final := if rowReady (pre ++ post) t i then tl.final ||| bit else tl.final
        poison := if row.poison || m.act.poison then tl.poison ||| bit else if acc then tl.poison else tl.poison &&& ~~~bit
        ecc := if m.act.ecc then tl.ecc ||| bit else if acc then tl.ecc else tl.ecc &&& ~~~bit }
      (m.setTile t tl1) |> fun m => { m with
        queue := if i + 1 < rows.length then pre ++ ⟨u, pc, .mstr ty t acc rows, i + 1⟩ :: post else pre ++ post }
  | _ => s)

/-- Whether an `mzero` may be performed behind some entries: no pass into its tile and no `mst` or `mrd` of it is among them (R179 rule 4). -/
def mzeroFree (pre : List MEntry) (e : MEntry) : Bool :=
  match e.op with
  | .mzero t => !pre.any fun x => match x.op with
    | .mstr _ v _ _ => decide (v = t)
    | .mst _ v _ _ => decide (v = t)
    | .mrd v _ _ _ _ => decide (v = t)
    | _ => false
  | _ => false

/-- MZERO_PERFORMED: the first queued `mzero` that may be performed zeroes its tile (R179 rule 4, R186). -/
def execMzeroPerformed (core : Nat) (s : State) : Result :=
  .next (match pickWith mzeroFree [] (s.matrix core).queue with
  | some (pre, ⟨_, _, .mzero t, _⟩, post) => s.onMatrix core fun m => { m.setTile t Tile.zero with queue := pre ++ post }
  | _ => s)

/-- The values of row i of a tile as `mst` writes them (R187). -/
def mstVals (ty : ElTy) (row : BitVec 4096) : List Nat :=
  (List.range 128).map fun c =>
    let v := row.toNat / 2 ^ (32 * c) % 2 ^ 32
    if ty = .i32 then v else (roundTo ty .rne (decodeF fmtF32 v)).1

/-- Stores the values of one row of the current strand's `mst` through its pieces, one location a value (R180, R187, R263). -/
def State.mstRow (s : State) (ty : ElTy) (dests : List MDest) (row : BitVec 4096) : State :=
  let es := widthOf ty / 8
  let vals := mstVals ty row
  (dests.foldl (fun (a : State × Nat) d =>
    let cnt := d.n / es
    ((List.range cnt).foldl (fun s q =>
      let v := vals.getD (a.2 + q) 0
      if d.sable then s.sableWrite d.key (d.loc + q * es) es v es false
      else s.keepStore (d.va + word (q * es)) ⟨d.loc + q * es, none, false, false, false⟩ es v) a.1, a.2 + cnt)) (s, 0)).1

/-- Whether an `mst` finds its next row final behind some entries (R179 rule 5). -/
def mstReady (pre : List MEntry) (e : MEntry) : Bool :=
  match e.op with
  | .mst _ t _ _ => rowReady pre t e.done
  | _ => false

/-- An entry once a row of an `mst` of its strand has become stores: a fault of that `mst`, or of a later instruction, leaves them (R187, R188). -/
def MEntry.noted (e : MEntry) (uid : Nat) (new : List Pend) : MEntry :=
  let f (w : RowWait) : RowWait := { w with back := { w.back with pend := w.back.pend ++ new } }
  if e.uid = uid then
    match e.op with
    | .mst ty t dests w => { e with op := .mst ty t dests (f w) }
    | .mrd t r c d w => { e with op := .mrd t r c d (f w) }
    | _ => e
  else e

/-- The stores that a strand has more than it had. -/
def State.newPend (s1 s : State) (uid : Nat) : List Pend :=
  let n := (((s.byUid? uid).map (·.pend)).getD []).length
  (((s1.byUid? uid).map (·.pend)).getD []).drop n

/-- MST_ROW_WRITE: the first queued `mst` whose next row is final writes it, or meets its poison, which is its fault; the last row ends it (R175, R179 rule 5, R187, R188). -/
def execMstRowWrite (core : Nat) (s : State) : Result :=
  .next (match pickWith mstReady [] (s.matrix core).queue with
  | some (pre, ⟨u, pc, .mst ty t dests w, i⟩, post) =>
      let tl := (s.matrix core).tile t
      match tl.rowFault i with
      | some f => s.asUid u fun s => s.entryFault ⟨u, pc, .mst ty t dests w, i⟩ w f 0
      | none =>
        let s1 := s.asUid u fun s => s.mstRow ty (dests.filter fun d => decide (d.row = i)) (tl.rows.get 0 i)
        let left := if i + 1 < 128 then ⟨u, pc, .mst ty t dests w, i + 1⟩ :: post else post
        s1.onMatrix core fun m => { m with queue := pre ++ left.map fun e => e.noted u (s1.newPend s u) }
  | _ => s)

/-- MRD_WRITE: the first queued `mrd` of a strand, whose rows are final, writes its register, or meets the poison of one of them, which is its fault (R175, R179 rule 5, R185, R188). -/
def execMrdWrite (sid : BitVec 32) (s : State) : Result :=
  .next (match s.strand? sid with
  | none => s
  | some st =>
    let core := coreOf st.sid
    let mine (_ : List MEntry) (e : MEntry) : Bool := decide (e.uid = st.uid) && (match e.op with
      | .mrd _ _ _ _ _ => true
      | _ => false)
    match pickWith mine [] (s.matrix core).queue with
    | some (pre, ⟨u, pc, .mrd t r c d w, i⟩, post) =>
      let m := s.matrix core
      if !(rowReady pre t r && rowReady pre t (r + 1)) then s
      else match m.rowsFault t r with
        | some f => s.asUid u fun s => s.entryFault ⟨u, pc, .mrd t r c d w, i⟩ w f 0
        | none => (s.onUid u fun x => x.mrdPut m d t r c).onMatrix core fun m => { m with queue := pre ++ post }
    | _ => s)

/-- MATRIX_WAIT_EXPIRED: a wait for the matrix queue or for a row has come to its bound (R181). -/
def execMatrixWaitExpired (sid : BitVec 32) (s : State) : Result :=
  .next (match s.strand? sid with
  | none => s
  | some t => s.asUid t.uid fun s =>
    if (s.rowExpired s.cur false).isSome then s.expireRows false
    else s.expire fun w => decide (w.obj = .matQueue))

end Sys2Proof.Machine
end

