-- ==== Sys2Proof/Machine/Scalar.lean ====
section
/-! DEFINITION. Scalar arithmetic: OP and OPI (R92, R93), `lui` and `aupc` (R39, R97). -/

namespace Sys2Proof.Machine

/-- Two registers to one: nothing else is written (R92). -/
def State.alu (s : State) (d a b : BitVec 5) (f : Word → Word → Word) : State :=
  s.issue [a, b] [d] fun s => (s.onCur fun t => t.setS d (f (t.getS a) (t.getS b))).retire

/-- One register to one. -/
def State.alu1 (s : State) (d a : BitVec 5) (f : Word → Word) : State :=
  s.issue [a] [d] fun s => (s.onCur fun t => t.setS d (f (t.getS a))).retire

/-- A value of the pc to one register. -/
def State.alu0 (s : State) (d : BitVec 5) (f : Word → Word) : State :=
  s.issue [] [d] fun s => (s.onCur fun t => t.setS d (f t.pc)).retire

/-! The operations of R92 on 64-bit values. -/

def bit01 (b : Bool) : Word := if b then 1 else 0
/-- Shift counts are sb[5:0]. -/
def sh6 (b : Word) : Nat := b.toNat % 64
def opSll (a b : Word) : Word := a <<< sh6 b
def opSrl (a b : Word) : Word := a >>> sh6 b
def opSra (a b : Word) : Word := a.sshiftRight (sh6 b)
def opSlt (a b : Word) : Word := bit01 (a.slt b)
def opSltz (a b : Word) : Word := bit01 (a.ult b)
def opMin (a b : Word) : Word := if a.slt b then a else b
def opMax (a b : Word) : Word := if a.slt b then b else a
def opMinz (a b : Word) : Word := if a.ult b then a else b
def opMaxz (a b : Word) : Word := if a.ult b then b else a
def opMulh (a b : Word) : Word := BitVec.ofInt 64 (a.toInt * b.toInt / 2 ^ 64)
def opMulhz (a b : Word) : Word := BitVec.ofNat 64 (a.toNat * b.toNat / 2 ^ 64)
/-- Division by zero gives all ones; the overflowing division gives its dividend (R92). -/
def opDiv (a b : Word) : Word := if b = 0 then BitVec.allOnes 64 else BitVec.ofInt 64 (a.toInt.tdiv b.toInt)
def opDivz (a b : Word) : Word := if b = 0 then BitVec.allOnes 64 else BitVec.ofNat 64 (a.toNat / b.toNat)
/-- Remainder by zero gives sa; the sign follows sa (R92). -/
def opRem (a b : Word) : Word := if b = 0 then a else BitVec.ofInt 64 (a.toInt.tmod b.toInt)
def opRemz (a b : Word) : Word := if b = 0 then a else BitVec.ofNat 64 (a.toNat % b.toNat)
/-- Leading zeros of the low n bits. -/
def leadZeros (a : Word) : Nat → Nat
  | 0 => 0
  | n + 1 => if a.getLsbD n then 0 else leadZeros a n + 1
/-- Trailing zeros from bit i, n bits left. -/
def trailZeros (a : Word) : (n i : Nat) → Nat
  | 0, _ => 0
  | n + 1, i => if a.getLsbD i then 0 else trailZeros a n (i + 1) + 1
def opClz (a : Word) : Word := word (leadZeros a 64)
def opCtz (a : Word) : Word := word (trailZeros a 64 0)
def opPopc (a : Word) : Word := word (((List.range 64).filter (fun i => a.getLsbD i)).length)
def opBswap (a : Word) : Word := word (natOfBytes (bytesOfNat 8 a.toNat).reverse)

/-! OP (R92). -/

/-- `add` (R92). -/
def execAdd (d a b : BitVec 5) (s : State) : Result := .next (s.alu d a b (· + ·))
/-- `sll` (R92). -/
def execSll (d a b : BitVec 5) (s : State) : Result := .next (s.alu d a b opSll)
/-- `slt` (R92). -/
def execSlt (d a b : BitVec 5) (s : State) : Result := .next (s.alu d a b opSlt)
/-- `sltz` (R92). -/
def execSltz (d a b : BitVec 5) (s : State) : Result := .next (s.alu d a b opSltz)
/-- `xor` (R92). -/
def execXor (d a b : BitVec 5) (s : State) : Result := .next (s.alu d a b (· ^^^ ·))
/-- `srl` (R92). -/
def execSrl (d a b : BitVec 5) (s : State) : Result := .next (s.alu d a b opSrl)
/-- `or` (R92). -/
def execOr (d a b : BitVec 5) (s : State) : Result := .next (s.alu d a b (· ||| ·))
/-- `and` (R92). -/
def execAnd (d a b : BitVec 5) (s : State) : Result := .next (s.alu d a b (· &&& ·))
/-- `sub` (R92). -/
def execSub (d a b : BitVec 5) (s : State) : Result := .next (s.alu d a b (· - ·))
/-- `sra` (R92). -/
def execSra (d a b : BitVec 5) (s : State) : Result := .next (s.alu d a b opSra)
/-- `mul` (R92). -/
def execMul (d a b : BitVec 5) (s : State) : Result := .next (s.alu d a b (· * ·))
/-- `mulh` (R92). -/
def execMulh (d a b : BitVec 5) (s : State) : Result := .next (s.alu d a b opMulh)
/-- `mulhz` (R92). -/
def execMulhz (d a b : BitVec 5) (s : State) : Result := .next (s.alu d a b opMulhz)
/-- `div` (R92). -/
def execDiv (d a b : BitVec 5) (s : State) : Result := .next (s.alu d a b opDiv)
/-- `divz` (R92). -/
def execDivz (d a b : BitVec 5) (s : State) : Result := .next (s.alu d a b opDivz)
/-- `rem` (R92). -/
def execRem (d a b : BitVec 5) (s : State) : Result := .next (s.alu d a b opRem)
/-- `remz` (R92). -/
def execRemz (d a b : BitVec 5) (s : State) : Result := .next (s.alu d a b opRemz)
/-- `min` (R92). -/
def execMin (d a b : BitVec 5) (s : State) : Result := .next (s.alu d a b opMin)
/-- `max` (R92). -/
def execMax (d a b : BitVec 5) (s : State) : Result := .next (s.alu d a b opMax)
/-- `minz` (R92). -/
def execMinz (d a b : BitVec 5) (s : State) : Result := .next (s.alu d a b opMinz)
/-- `maxz` (R92). -/
def execMaxz (d a b : BitVec 5) (s : State) : Result := .next (s.alu d a b opMaxz)
/-- `clz` (R92). -/
def execClz (d a : BitVec 5) (s : State) : Result := .next (s.alu1 d a opClz)
/-- `ctz` (R92). -/
def execCtz (d a : BitVec 5) (s : State) : Result := .next (s.alu1 d a opCtz)
/-- `popc` (R92). -/
def execPopc (d a : BitVec 5) (s : State) : Result := .next (s.alu1 d a opPopc)
/-- `bswap` (R92). -/
def execBswap (d a : BitVec 5) (s : State) : Result := .next (s.alu1 d a opBswap)

/-! OPI (R93): the sign-extended immediate in place of sb. -/

/-- `addi` (R93). -/
def execAddi (d a : BitVec 5) (i : BitVec 12) (s : State) : Result := .next (s.alu1 d a (· + imm12 i))
/-- `slti` (R93). -/
def execSlti (d a : BitVec 5) (i : BitVec 12) (s : State) : Result := .next (s.alu1 d a (opSlt · (imm12 i)))
/-- `sltiz` (R93). -/
def execSltiz (d a : BitVec 5) (i : BitVec 12) (s : State) : Result := .next (s.alu1 d a (opSltz · (imm12 i)))
/-- `xori` (R93). -/
def execXori (d a : BitVec 5) (i : BitVec 12) (s : State) : Result := .next (s.alu1 d a (· ^^^ imm12 i))
/-- `ori` (R93). -/
def execOri (d a : BitVec 5) (i : BitVec 12) (s : State) : Result := .next (s.alu1 d a (· ||| imm12 i))
/-- `andi` (R93). -/
def execAndi (d a : BitVec 5) (i : BitVec 12) (s : State) : Result := .next (s.alu1 d a (· &&& imm12 i))
/-- `slli`: by imm12[5:0] (R93). -/
def execSlli (d a : BitVec 5) (h : BitVec 6) (s : State) : Result := .next (s.alu1 d a (· <<< h.toNat))
/-- `srli`: by imm12[5:0] (R93). -/
def execSrli (d a : BitVec 5) (h : BitVec 6) (s : State) : Result := .next (s.alu1 d a (· >>> h.toNat))
/-- `srai`: by imm12[5:0] (R93). -/
def execSrai (d a : BitVec 5) (h : BitVec 6) (s : State) : Result := .next (s.alu1 d a (BitVec.sshiftRight · h.toNat))

/-- `lui`: sext(imm20) × 4,096 (R39). -/
def execLui (d : BitVec 5) (i : BitVec 20) (s : State) : Result := .next (s.alu0 d fun _ => immU i)
/-- `aupc`: pc + sext(imm20) × 4,096 (R39). -/
def execAupc (d : BitVec 5) (i : BitVec 20) (s : State) : Result := .next (s.alu0 d fun pc => pc + immU i)

end Sys2Proof.Machine
end

