-- ==== Sys2Proof/Machine/System.lean ====
section
/-! DEFINITION. The SYS instructions (R98 to R103). -/

namespace Sys2Proof.Machine

/-- `getc`: the CSR's value to sd (R98); some wait for queued vector work (R81). -/
def execGetc (d : BitVec 5) (c : BitVec 12) (s : State) : Result :=
  .next (s.issue [] [d] fun s =>
    let go (s : State) : State := (s.onCur fun t => t.setS d (s.csrGet c)).retire
    if csrDrains c then s.drained go else go s)

/-- `setc`: sa to the CSR, under the limits of R79 (R98). -/
def execSetc (a : BitVec 5) (c : BitVec 12) (s : State) : Result :=
  .next (s.issue [a] [] fun s =>
    let go (s : State) : State :=
      match s.cur.csrSet c (s.cur.getS a) with
      | none => s.faultCode .illegalOperand 0 0 0
      | some t => (s.onCur fun _ => t).retire
    if csrDrains c then s.drained go else go s)

/-- `swapc`: the old value is read, then sa is written, in one step; sa is read before sd is written (R98). -/
def execSwapc (d a : BitVec 5) (c : BitVec 12) (s : State) : Result :=
  .next (s.issue [a] [d] fun s =>
    let go (s : State) : State :=
      let old := s.csrGet c
      match s.cur.csrSet c (s.cur.getS a) with
      | none => s.faultCode .illegalOperand 0 0 0
      | some t => (s.onCur fun _ => t.setS d old).retire
    if csrDrains c then s.drained go else go s)

/-- `sleep`: the wait of R74 whose condition is `jtime` ≥ sa and whose deadline is sa (R99). -/
def execSleep (a : BitVec 5) (s : State) : Result :=
  .next (s.issue [a] [] fun s => s.deadlineWait (.sleep (s.cur.getS a)) 9 0 (s.cur.getS a))

/-- The registers `svc` hands over and takes back: s4 to s11 (R100). -/
def svcRegs : List (BitVec 5) := [4, 5, 6, 7, 8, 9, 10, 11]

/-- `svc`: the service block and the record are written and the strand waits, bounded by `dl.def`; with no service area it goes on at once (R100). -/
def execSvc (s : State) : Result :=
  .next (s.issue svcRegs [] fun s =>
    match s.job? s.cur.job with
    | none => s
    | some j =>
      if s.fqSvc j = 0 then (s.onCur fun t => t.setS 4 (BitVec.allOnes 64)).finish 10 0 .pastOnEntry 0 0 0
      else
        let r : FaultRec := { s.faultRec (fail .svc) (s.cur.getS 4) 0 0 with info := true }
        let (k, s1) := s.postRecord j r (svcRegs.flatMap fun r => bytesOfNat 8 (s.cur.getS r).toNat)
        s1.waitOn (.svc k) 10 0 (some (s.jtime + s.cur.dlDef)) false none)

/-- `brk`: a `BREAKPOINT` record and the slate wave, whatever the policy; the strand stops at the `brk` and goes on at `brk` + 4 when the job resumes (R101). As a single step of a frozen job it starts no new wave and the strand stands at `brk` + 4 (R391). -/
def execBrk (s : State) : Result :=
  .next (s.issue [] [] fun s =>
    match s.job? s.cur.job with
    | none => s
    | some j =>
      let r : FaultRec := { s.faultRec (fail .breakpoint) 0 0 0 with info := true }
      let s1 := (s.postRecord j r []).2
      let c : Cause := ⟨s.pkgNo, s.cur.sid, s.cur.pc, FaultCode.breakpoint.num, s.gtime⟩
      if j.slate.st = .running then (s1.trigger j.id c).onCur fun t => { t with brkDone := true }
      else (s1.noteLocal j.id c).retire)

/-- `yield`: a pre-emption point, and nothing else (R102). -/
def execYield (s : State) : Result := .next (s.issue [] [] fun s => s.retire.preemptPoint)

/-- `ifence`: once the vector queue has drained the core's instruction cache is empty (R103): what the strand is sure of now, its fetches are sure to see from now on (R91). Log 9 (DESIGN CHOICE). -/
def execIfence (s : State) : Result :=
  .next (s.issue [] [] fun s => s.drained fun s =>
    (s.onCur fun t => { t with ifHb := t.hb }).retire)

end Sys2Proof.Machine
end

