-- ==== Sys2Proof/Machine/VArith.lean ====
section
/-! DEFINITION. VARI and VARS: element arithmetic (R141). -/

namespace Sys2Proof.Machine

/-- An element operation: the type, the rounding mode, the old destination element and the two sources give the element and its flags. -/
abbrev ElOp := ElTy → Rnd → Nat → Nat → Nat → Nat × Flags

/-- A VARI instruction of two sources (R141). -/
def State.vbin (s : State) (d a b k : BitVec 5) (ty : ElTy → Bool) (rounds : Bool) (f : ElOp) : State :=
  s.vissue [] [] [a, b] [d] (fun t => t.takes ty rounds) fun s =>
    (s.onCur fun t =>
      let w := widthOf t.vty
      let va := t.getV a
      let vb := t.getV b
      t.putActive d k fun old i => f t.vty t.frm (elemAt w old i) (elemAt w va i) (elemAt w vb i)).vdone [a, b]

/-- A VARS instruction: the second source is the low w bits of a scalar register (R141). -/
def State.vbinS (s : State) (d a b k : BitVec 5) (ty : ElTy → Bool) (rounds : Bool) (f : ElOp) : State :=
  s.vissue [b] [] [a] [d] (fun t => t.takes ty rounds) fun s =>
    (s.onCur fun t =>
      let w := widthOf t.vty
      let va := t.getV a
      t.putActive d k fun old i => f t.vty t.frm (elemAt w old i) (elemAt w va i) (t.scalarEl b)).vdone [a]

/-- A VARI instruction of one source (R141). -/
def State.vun (s : State) (d a k : BitVec 5) (ty : ElTy → Bool) (rounds : Bool) (f : ElTy → Rnd → Nat → Nat × Flags) : State :=
  s.vissue [] [] [a] [d] (fun t => t.takes ty rounds) fun s =>
    (s.onCur fun t =>
      let w := widthOf t.vty
      let va := t.getV a
      t.putActive d k fun _ i => f t.vty t.frm (elemAt w va i)).vdone [a]

/-- The element operation of `vadd`. -/
def addOp : ElOp := fun t m _ a b => addEl t m a b
/-- The element operation of `vsub`. -/
def subOp : ElOp := fun t m _ a b => subEl t m a b
/-- The element operation of `vmul`. -/
def mulOp : ElOp := fun t m _ a b => mulEl t m a b
/-- The element operation of `vmac`. -/
def macOp : ElOp := fun t m d a b => macEl t m d a b
/-- The element operation of `vnmac`. -/
def nmacOp : ElOp := fun t m d a b => nmacEl t m d a b
/-- The element operation of `vmin`. -/
def minOp : ElOp := fun t _ _ a b => minEl t a b
/-- The element operation of `vmax`. -/
def maxOp : ElOp := fun t _ _ a b => maxEl t a b
/-- The element operation of `vdiv`. -/
def divOp : ElOp := fun t m _ a b => divEl t m a b
/-- The element operation of `vand`. -/
def andOp : ElOp := fun _ _ _ a b => andEl a b
/-- The element operation of `vor`. -/
def orOp : ElOp := fun _ _ _ a b => orEl a b
/-- The element operation of `vxor`. -/
def xorOp : ElOp := fun _ _ _ a b => xorEl a b
/-- The element operation of `vsll`. -/
def sllOp : ElOp := fun t _ _ a b => sllEl t a b
/-- The element operation of `vsrl`. -/
def srlOp : ElOp := fun t _ _ a b => srlEl t a b
/-- The element operation of `vsra`. -/
def sraOp : ElOp := fun t _ _ a b => sraEl t a b
/-- The element operation of `vmulh`. -/
def mulhOp : ElOp := fun t _ _ a b => mulhEl t true a b
/-- The element operation of `vmulhz`. -/
def mulhzOp : ElOp := fun t _ _ a b => mulhEl t false a b

/-- `vadd`: vd := va + vb (R141). -/
def execVadd (d a b k : BitVec 5) (s : State) : Result := .next (s.vbin d a b k tyIF true addOp)
/-- `vadd.s`: the same with the low bits of sb (R141). -/
def execVaddS (d a b k : BitVec 5) (s : State) : Result := .next (s.vbinS d a b k tyIF true addOp)
/-- `vsub`: vd := va − vb (R141). -/
def execVsub (d a b k : BitVec 5) (s : State) : Result := .next (s.vbin d a b k tyIF true subOp)
/-- `vsub.s`: the same with the low bits of sb (R141). -/
def execVsubS (d a b k : BitVec 5) (s : State) : Result := .next (s.vbinS d a b k tyIF true subOp)
/-- `vmul`: vd := va × vb (R141). -/
def execVmul (d a b k : BitVec 5) (s : State) : Result := .next (s.vbin d a b k tyIF true mulOp)
/-- `vmul.s`: the same with the low bits of sb (R141). -/
def execVmulS (d a b k : BitVec 5) (s : State) : Result := .next (s.vbinS d a b k tyIF true mulOp)
/-- `vmac`: vd := vd + va × vb, rounded once (R141). -/
def execVmac (d a b k : BitVec 5) (s : State) : Result := .next (s.vbin d a b k tyIF true macOp)
/-- `vmac.s`: the same with the low bits of sb (R141). -/
def execVmacS (d a b k : BitVec 5) (s : State) : Result := .next (s.vbinS d a b k tyIF true macOp)
/-- `vnmac`: vd := vd − va × vb, rounded once (R141). -/
def execVnmac (d a b k : BitVec 5) (s : State) : Result := .next (s.vbin d a b k tyIF true nmacOp)
/-- `vnmac.s`: the same with the low bits of sb (R141). -/
def execVnmacS (d a b k : BitVec 5) (s : State) : Result := .next (s.vbinS d a b k tyIF true nmacOp)
/-- `vmin`: the smaller (R141). -/
def execVmin (d a b k : BitVec 5) (s : State) : Result := .next (s.vbin d a b k tyIF false minOp)
/-- `vmin.s`: the same with the low bits of sb (R141). -/
def execVminS (d a b k : BitVec 5) (s : State) : Result := .next (s.vbinS d a b k tyIF false minOp)
/-- `vmax`: the larger (R141). -/
def execVmax (d a b k : BitVec 5) (s : State) : Result := .next (s.vbin d a b k tyIF false maxOp)
/-- `vmax.s`: the same with the low bits of sb (R141). -/
def execVmaxS (d a b k : BitVec 5) (s : State) : Result := .next (s.vbinS d a b k tyIF false maxOp)
/-- `vdiv`: vd := va ÷ vb (R141). -/
def execVdiv (d a b k : BitVec 5) (s : State) : Result := .next (s.vbin d a b k tyIF true divOp)
/-- `vdiv.s`: the same with the low bits of sb (R141). -/
def execVdivS (d a b k : BitVec 5) (s : State) : Result := .next (s.vbinS d a b k tyIF true divOp)
/-- `vand`: bitwise and (R141). -/
def execVand (d a b k : BitVec 5) (s : State) : Result := .next (s.vbin d a b k isInt false andOp)
/-- `vand.s`: the same with the low bits of sb (R141). -/
def execVandS (d a b k : BitVec 5) (s : State) : Result := .next (s.vbinS d a b k isInt false andOp)
/-- `vor`: bitwise or (R141). -/
def execVor (d a b k : BitVec 5) (s : State) : Result := .next (s.vbin d a b k isInt false orOp)
/-- `vor.s`: the same with the low bits of sb (R141). -/
def execVorS (d a b k : BitVec 5) (s : State) : Result := .next (s.vbinS d a b k isInt false orOp)
/-- `vxor`: bitwise exclusive or (R141). -/
def execVxor (d a b k : BitVec 5) (s : State) : Result := .next (s.vbin d a b k isInt false xorOp)
/-- `vxor.s`: the same with the low bits of sb (R141). -/
def execVxorS (d a b k : BitVec 5) (s : State) : Result := .next (s.vbinS d a b k isInt false xorOp)
/-- `vsll`: shift left (R141). -/
def execVsll (d a b k : BitVec 5) (s : State) : Result := .next (s.vbin d a b k isInt false sllOp)
/-- `vsll.s`: the same with the low bits of sb (R141). -/
def execVsllS (d a b k : BitVec 5) (s : State) : Result := .next (s.vbinS d a b k isInt false sllOp)
/-- `vsrl`: shift right (R141). -/
def execVsrl (d a b k : BitVec 5) (s : State) : Result := .next (s.vbin d a b k isInt false srlOp)
/-- `vsrl.s`: the same with the low bits of sb (R141). -/
def execVsrlS (d a b k : BitVec 5) (s : State) : Result := .next (s.vbinS d a b k isInt false srlOp)
/-- `vsra`: shift right, filling with bit w − 1 (R141). -/
def execVsra (d a b k : BitVec 5) (s : State) : Result := .next (s.vbin d a b k isInt false sraOp)
/-- `vsra.s`: the same with the low bits of sb (R141). -/
def execVsraS (d a b k : BitVec 5) (s : State) : Result := .next (s.vbinS d a b k isInt false sraOp)
/-- `vmulh`: high half of the signed product (R141). -/
def execVmulh (d a b k : BitVec 5) (s : State) : Result := .next (s.vbin d a b k isInt false mulhOp)
/-- `vmulh.s`: the same with the low bits of sb (R141). -/
def execVmulhS (d a b k : BitVec 5) (s : State) : Result := .next (s.vbinS d a b k isInt false mulhOp)
/-- `vmulhz`: high half of the unsigned product (R141). -/
def execVmulhz (d a b k : BitVec 5) (s : State) : Result := .next (s.vbin d a b k isInt false mulhzOp)
/-- `vmulhz.s`: the same with the low bits of sb (R141). -/
def execVmulhzS (d a b k : BitVec 5) (s : State) : Result := .next (s.vbinS d a b k isInt false mulhzOp)
/-- `vabs`: the magnitude (R118, R141). -/
def execVabs (d a k : BitVec 5) (s : State) : Result := .next (s.vun d a k tyIF false fun t _ a => absEl t a)
/-- `vneg`: the negation (R118, R141). -/
def execVneg (d a k : BitVec 5) (s : State) : Result := .next (s.vun d a k tyIF false fun t _ a => negEl t a)
/-- `vsqrt`: the square root (R118, R141). -/
def execVsqrt (d a k : BitVec 5) (s : State) : Result := .next (s.vun d a k isF true fun t m a => sqrtEl t m a)
/-- `vrcp`: 1/a (R118, R141). -/
def execVrcp (d a k : BitVec 5) (s : State) : Result := .next (s.vun d a k isF true fun t m a => rcpEl t m a)
/-- `vrsqrt`: 1/√a (R118, R141). -/
def execVrsqrt (d a k : BitVec 5) (s : State) : Result := .next (s.vun d a k isF true fun t m a => rsqrtEl t m a)
/-- `vexp2`: 2^a (R118, R141). -/
def execVexp2 (d a k : BitVec 5) (s : State) : Result := .next (s.vun d a k isF true fun t m a => exp2El t m a)
/-- `vmov`: a bit copy, no flags (R118, R141). -/
def execVmov (d a k : BitVec 5) (s : State) : Result := .next (s.vun d a k tyIFE false fun _ _ a => (a, 0))

end Sys2Proof.Machine
end

