-- ==== Sys2Proof/Machine/VMask.lean ====
section
/-! DEFINITION. VMASK: comparisons, mask logic, counts (R142 to R144). -/

namespace Sys2Proof.Machine

/-- A relation between two elements of a type. -/
abbrev ElRel := ElTy → Nat → Nat → Bool

/-- A compare of two vector registers (R142). -/
def State.vcmp (s : State) (d a b k : BitVec 5) (ty : ElTy → Bool) (f : ElRel) : State :=
  s.vissue [] [] [a, b] [] (fun t => t.takes ty false) fun s =>
    (s.onCur fun t =>
      let w := widthOf t.vty
      t.setK d (writeMask t.n (t.mask k) (t.getK d) fun i => f t.vty (elemAt w (t.getV a) i) (elemAt w (t.getV b) i))).vdone [a, b]

/-- A compare with the low w bits of a scalar register (R142). -/
def State.vcmpS (s : State) (d a b k : BitVec 5) (f : ElRel) : State :=
  s.vissue [b] [] [a] [] (fun t => t.takes tyIF false) fun s =>
    (s.onCur fun t =>
      let w := widthOf t.vty
      t.setK d (writeMask t.n (t.mask k) (t.getK d) fun i => f t.vty (elemAt w (t.getV a) i) (t.scalarEl b))).vdone [a]

/-- A mask-logic instruction: every position below N gets a bit from the masks (R143). -/
def State.klog (s : State) (d k : BitVec 5) (f : Strand → Nat → Bool) : State :=
  s.vissue [] [] [] [] (fun t => t.takes tyAll false) fun s =>
    (s.onCur fun t => t.setK d (writeMask t.n (t.mask k) (t.getK d) (f t))).retire

/-- `vceq`: a = b (R142). -/
def execVceq (d a b k : BitVec 5) (s : State) : Result := .next (s.vcmp d a b k tyIF (fun t x y => eqEl t x y))
/-- `vcne`: a ≠ b, true with a NaN (R142). -/
def execVcne (d a b k : BitVec 5) (s : State) : Result := .next (s.vcmp d a b k tyIF (fun t x y => !eqEl t x y))
/-- `vclt`: a < b (R142). -/
def execVclt (d a b k : BitVec 5) (s : State) : Result := .next (s.vcmp d a b k tyIF (ltEl))
/-- `vcle`: a ≤ b (R142). -/
def execVcle (d a b k : BitVec 5) (s : State) : Result := .next (s.vcmp d a b k tyIF (leEl))
/-- `vcltz`: a < b, both bit patterns unsigned (R142). -/
def execVcltz (d a b k : BitVec 5) (s : State) : Result := .next (s.vcmp d a b k isInt (fun _ x y => decide (x < y)))
/-- `vclez`: a ≤ b, both bit patterns unsigned (R142). -/
def execVclez (d a b k : BitVec 5) (s : State) : Result := .next (s.vcmp d a b k isInt (fun _ x y => decide (x ≤ y)))
/-- `vcun`: a or b is NaN (R142). -/
def execVcun (d a b k : BitVec 5) (s : State) : Result := .next (s.vcmp d a b k isF (fun t x y => isNanEl t x || isNanEl t y))
/-- `vceq.s`: a = b (R142). -/
def execVceqS (d a b k : BitVec 5) (s : State) : Result := .next (s.vcmpS d a b k (fun t x y => eqEl t x y))
/-- `vcne.s`: a ≠ b (R142). -/
def execVcneS (d a b k : BitVec 5) (s : State) : Result := .next (s.vcmpS d a b k (fun t x y => !eqEl t x y))
/-- `vclt.s`: a < b (R142). -/
def execVcltS (d a b k : BitVec 5) (s : State) : Result := .next (s.vcmpS d a b k (ltEl))
/-- `vcle.s`: a ≤ b (R142). -/
def execVcleS (d a b k : BitVec 5) (s : State) : Result := .next (s.vcmpS d a b k (leEl))
/-- `vcgt.s`: a > b (R142). -/
def execVcgtS (d a b k : BitVec 5) (s : State) : Result := .next (s.vcmpS d a b k (fun t x y => ltEl t y x))
/-- `vcge.s`: a ≥ b (R142). -/
def execVcgeS (d a b k : BitVec 5) (s : State) : Result := .next (s.vcmpS d a b k (fun t x y => leEl t y x))
/-- `kand`: ka AND kb (R143). -/
def execKand (d a b k : BitVec 5) (s : State) : Result := .next (s.klog d k fun t i => (t.getK a).getLsbD i && (t.getK b).getLsbD i)
/-- `kor`: ka OR kb (R143). -/
def execKor (d a b k : BitVec 5) (s : State) : Result := .next (s.klog d k fun t i => (t.getK a).getLsbD i || (t.getK b).getLsbD i)
/-- `kxor`: ka XOR kb (R143). -/
def execKxor (d a b k : BitVec 5) (s : State) : Result := .next (s.klog d k fun t i => ((t.getK a).getLsbD i ^^ (t.getK b).getLsbD i))
/-- `kandn`: ka AND NOT kb (R143). -/
def execKandn (d a b k : BitVec 5) (s : State) : Result := .next (s.klog d k fun t i => (t.getK a).getLsbD i && !(t.getK b).getLsbD i)
/-- `knot`: NOT ka (R143). -/
def execKnot (d a k : BitVec 5) (s : State) : Result := .next (s.klog d k fun t i => !(t.getK a).getLsbD i)
/-- `kset`: 1 (R143). -/
def execKset (d k : BitVec 5) (s : State) : Result := .next (s.klog d k fun _ _ => true)
/-- `kclr`: 0 (R143). -/
def execKclr (d k : BitVec 5) (s : State) : Result := .next (s.klog d k fun _ _ => false)

/-- `kwhile`: for i < N, sa + i < sb, read signed with the sum formed exactly (R143). -/
def execKwhile (d a b : BitVec 5) (s : State) : Result :=
  .next (s.vissue [a, b] [] [] [] (fun t => t.takes tyAll false) fun s =>
    (s.onCur fun t => t.setK d (writeMask t.n none (t.getK d) fun i => decide ((t.getS a).toInt + i < (t.getS b).toInt))).retire)

/-- The active positions at which a mask is 1 (R144). -/
def Strand.hits (t : Strand) (a k : BitVec 5) : List Nat := (activeList (t.mask k) t.n).filter fun i => (t.getK a).getLsbD i

/-- `kcnt`: how many active positions of ka are 1 (R144). -/
def execKcnt (d a k : BitVec 5) (s : State) : Result :=
  .next (s.vissue [] [d] [] [] (fun t => t.takes tyAll false) fun s =>
    (s.vscalar d (word (s.cur.hits a k).length)).retire)

/-- `kfirst`: the lowest active position at which ka is 1, or all ones (R144). -/
def execKfirst (d a k : BitVec 5) (s : State) : Result :=
  .next (s.vissue [] [d] [] [] (fun t => t.takes tyAll false) fun s =>
    (s.vscalar d (match s.cur.hits a k with
      | i :: _ => word i
      | [] => BitVec.allOnes 64)).retire)

end Sys2Proof.Machine
end

