-- ==== Sys2Proof/Machine/VPerm.lean ====
section
/-! DEFINITION. VPERM: moving elements (R145). The permutes move bit patterns and raise no flag. -/

namespace Sys2Proof.Machine

/-- A permute whose active positions take `f t i` (R145): `ss` are its scalar sources, `vs` its vector sources. -/
def State.vmove (s : State) (d k : BitVec 5) (ss vs : List (BitVec 5)) (f : Strand → Nat → Nat) : State :=
  s.vissue ss [] vs [d] (fun t => t.takes tyIFE false) fun s =>
    (s.onCur fun t => t.putActive d k fun _ i => (f t i, 0)).vdone vs

/-- x[j] of a register at `vty`, 0 at or above N. -/
def Strand.elOr0 (t : Strand) (a : BitVec 5) (j : Nat) : Nat := atOr0 (widthOf t.vty) t.n (t.getV a) j

/-- `vbcast`: the low w bits of sa (R145). -/
def execVbcast (d a k : BitVec 5) (s : State) : Result := .next (s.vmove d k [a] [] fun t _ => t.scalarEl a)

/-- `vslup`: va[i − n] where i ≥ n, else 0 (R145). -/
def execVslup (d a b k : BitVec 5) (s : State) : Result :=
  .next (s.vmove d k [b] [a] fun t i => if (t.getS b).toNat ≤ i then t.elOr0 a (i - (t.getS b).toNat) else 0)

/-- `vsldn`: va[i + n] (R145). -/
def execVsldn (d a b k : BitVec 5) (s : State) : Result :=
  .next (s.vmove d k [b] [a] fun t i => t.elOr0 a (i + (t.getS b).toNat))

/-- `vperm`: va[vb[i]] (R145). -/
def execVperm (d a b k : BitVec 5) (s : State) : Result := .next (s.vmove d k [] [a, b] fun t i => t.elOr0 a (t.elOr0 b i))

/-- Interleaves two registers from a source index on (R145). -/
def Strand.zipAt (t : Strand) (a b : BitVec 5) (base i : Nat) : Nat :=
  if i % 2 = 0 then t.elOr0 a (base + i / 2) else t.elOr0 b (base + (i - 1) / 2)

/-- `vzipl`: the lower halves interleaved (R145). -/
def execVzipl (d a b k : BitVec 5) (s : State) : Result := .next (s.vmove d k [] [a, b] fun t i => t.zipAt a b 0 i)

/-- `vziph`: the upper halves interleaved (R145). -/
def execVziph (d a b k : BitVec 5) (s : State) : Result := .next (s.vmove d k [] [a, b] fun t i => t.zipAt a b (t.n / 2) i)

/-- Every second element of two registers from an odd or even start (R145). -/
def Strand.unzipAt (t : Strand) (a b : BitVec 5) (odd i : Nat) : Nat :=
  if i < t.n / 2 then t.elOr0 a (2 * i + odd) else t.elOr0 b (2 * (i - t.n / 2) + odd)

/-- `vunzpe`: the even elements of va, then of vb (R145). -/
def execVunzpe (d a b k : BitVec 5) (s : State) : Result := .next (s.vmove d k [] [a, b] fun t i => t.unzipAt a b 0 i)

/-- `vunzpo`: the odd elements of va, then of vb (R145). -/
def execVunzpo (d a b k : BitVec 5) (s : State) : Result := .next (s.vmove d k [] [a, b] fun t i => t.unzipAt a b 1 i)

/-- `vcmprs`: the active elements packed in ascending order, zeros above them; every position is written (R145). -/
def execVcmprs (d a k : BitVec 5) (s : State) : Result :=
  .next (s.vissue [] [] [a] [d] (fun t => t.takes tyIFE false) fun s =>
    (s.onCur fun t =>
      let w := widthOf t.vty
      let els := (activeList (t.mask k) t.n).map (elemAt w (t.getV a))
      t.setV d (putEls w (t.getV d) (els ++ List.replicate (t.n - els.length) 0))).vdone [a])

/-- `vexpnd`: va[j], j the number of active positions below i (R145). -/
def execVexpnd (d a k : BitVec 5) (s : State) : Result :=
  .next (s.vmove d k [] [a] fun t i => t.elOr0 a (activeBelow (t.mask k) t.n i))

/-- `viota`: the number of active positions below i, modulo 2^w (R145). -/
def execViota (d k : BitVec 5) (s : State) : Result :=
  .next (s.vmove d k [] [] fun t i => activeBelow (t.mask k) t.n i % 2 ^ widthOf t.vty)

/-- `vrev`: va[N − 1 − i] (R145). -/
def execVrev (d a k : BitVec 5) (s : State) : Result := .next (s.vmove d k [] [a] fun t i => t.elOr0 a (t.n - 1 - i))

/-- Whether the element number a scalar register holds lies below N: an issue check of `vext` and `vins` (R145). Log 32 (DEDUCED). -/
def Strand.numOk (t : Strand) (b : BitVec 5) : Bool := t.takes tyIFE false && decide ((t.getS b).toNat < t.n)

/-- `vext`: va[n] to sd, sign-extended for i types (R145); the vector unit fills sd (R134). -/
def execVext (d a b : BitVec 5) (s : State) : Result :=
  .next (s.vissue [b] [d] [a] [] (fun t => t.numOk b) fun s =>
    (s.vscalar d (extendScalar s.cur.vty (s.cur.elOr0 a (s.cur.getS b).toNat))).vdone [a])

/-- `vins`: the low w bits of sa to vd[n] (R145). -/
def execVins (d a b : BitVec 5) (s : State) : Result :=
  .next (s.vissue [a, b] [] [] [d] (fun t => t.numOk b) fun s =>
    (s.onCur fun t => t.putActive d 31 fun old i =>
      (if i = (t.getS b).toNat then t.scalarEl a else elemAt (widthOf t.vty) old i, 0)).retire)

end Sys2Proof.Machine
end

