-- ==== Sys2Proof/Machine/VReduce.lean ====
section
/-! DEFINITION. VRED: reductions by the tree of R123 and scans by R124 (R146, R147). -/

namespace Sys2Proof.Machine

/-- A reduction: leaves mapped by `g`, combined by `f`; `e` is the result of nothing active; the result is of type `ty` (R123, R146). -/
def Strand.reduce (t : Strand) (a k : BitVec 5) (ty : ElTy) (g : Nat → Nat) (f : Nat → Nat → Nat × Flags) (e : Nat) : Word × Flags :=
  let r := treeReduce f treeLevels (leaves (widthOf t.vty) t.n (t.mask k) (t.getV a) g)
  (extendScalar ty (r.1.getD e), r.2)

/-- A reduction instruction: the vector unit fills sd (R134). -/
def State.vred (s : State) (d a : BitVec 5) (ty : ElTy → Bool) (rounds : Bool) (f : Strand → Word × Flags) : State :=
  s.vissue [] [d] [a] [] (fun t => t.takes ty rounds) fun s =>
    let r := f s.cur
    ((s.onCur fun t => t.raise r.2).vscalar d r.1).vdone [a]

/-- `vrsum`: the sum, +0 of nothing (R123, R146). -/
def execVrsum (d a k : BitVec 5) (s : State) : Result :=
  .next (s.vred d a tyIF true fun t => t.reduce a k t.vty id (addEl t.vty t.frm) 0)

/-- `vrmax`: the largest (R118, R123, R146). -/
def execVrmax (d a k : BitVec 5) (s : State) : Result :=
  .next (s.vred d a tyIF false fun t => t.reduce a k t.vty id (maxEl t.vty) (leastCode t.vty))

/-- `vrmin`: the smallest (R118, R123, R146). -/
def execVrmin (d a k : BitVec 5) (s : State) : Result :=
  .next (s.vred d a tyIF false fun t => t.reduce a k t.vty id (minEl t.vty) (greatestCode t.vty))

/-- `vrand`: bitwise and, all ones of nothing (R123, R146). -/
def execVrand (d a k : BitVec 5) (s : State) : Result :=
  .next (s.vred d a isInt false fun t => t.reduce a k t.vty id andEl (2 ^ widthOf t.vty - 1))

/-- `vror`: bitwise or, 0 of nothing (R123, R146). -/
def execVror (d a k : BitVec 5) (s : State) : Result :=
  .next (s.vred d a isInt false fun t => t.reduce a k t.vty id orEl 0)

/-- `vrsumw`: every leaf widened exactly, then summed at the wider type (R146). -/
def execVrsumw (d a k : BitVec 5) (s : State) : Result :=
  .next (s.vred d a tySumw true fun t => t.reduce a k (wideTy t.vty) (widenEl t.vty) (addEl (wideTy t.vty) t.frm) 0)

/-- A scan over the active elements; the other positions keep their value (R124, R147). -/
def State.vscanBy (s : State) (d a k : BitVec 5) (incl : Bool) : State :=
  s.vissue [] [] [a] [d] (fun t => t.takes tyIF true) fun s =>
    (s.onCur fun t =>
      let r := scanEls t.vty t.frm incl (leaves (widthOf t.vty) t.n (t.mask k) (t.getV a) id) none
      (t.putActive d k fun old i => ((r.1.getD i none).getD (elemAt (widthOf t.vty) old i), 0)).raise r.2).vdone [a]

/-- `vscan`: running sums with each element in (R124, R147). -/
def execVscan (d a k : BitVec 5) (s : State) : Result := .next (s.vscanBy d a k true)

/-- `vscanx`: running sums before each element (R124, R147). -/
def execVscanx (d a k : BitVec 5) (s : State) : Result := .next (s.vscanBy d a k false)

end Sys2Proof.Machine
end

