-- ==== Sys2Proof/Machine/Dispatch.lean ====
section
/-! DEFINITION. The meaning of every row of the opcode table, one arm each. -/

namespace Sys2Proof.Machine

def exec (i : Instr) (s : State) : Host.Outcome State Fault Refusal :=
  match i with
  | .add d a b => Sys2Proof.Machine.execAdd d a b s
  | .sll d a b => Sys2Proof.Machine.execSll d a b s
  | .slt d a b => Sys2Proof.Machine.execSlt d a b s
  | .sltz d a b => Sys2Proof.Machine.execSltz d a b s
  | .xor d a b => Sys2Proof.Machine.execXor d a b s
  | .srl d a b => Sys2Proof.Machine.execSrl d a b s
  | .or d a b => Sys2Proof.Machine.execOr d a b s
  | .and d a b => Sys2Proof.Machine.execAnd d a b s
  | .sub d a b => Sys2Proof.Machine.execSub d a b s
  | .sra d a b => Sys2Proof.Machine.execSra d a b s
  | .mul d a b => Sys2Proof.Machine.execMul d a b s
  | .mulh d a b => Sys2Proof.Machine.execMulh d a b s
  | .mulhz d a b => Sys2Proof.Machine.execMulhz d a b s
  | .div d a b => Sys2Proof.Machine.execDiv d a b s
  | .divz d a b => Sys2Proof.Machine.execDivz d a b s
  | .rem d a b => Sys2Proof.Machine.execRem d a b s
  | .remz d a b => Sys2Proof.Machine.execRemz d a b s
  | .min d a b => Sys2Proof.Machine.execMin d a b s
  | .max d a b => Sys2Proof.Machine.execMax d a b s
  | .minz d a b => Sys2Proof.Machine.execMinz d a b s
  | .maxz d a b => Sys2Proof.Machine.execMaxz d a b s
  | .clz d a => Sys2Proof.Machine.execClz d a s
  | .ctz d a => Sys2Proof.Machine.execCtz d a s
  | .popc d a => Sys2Proof.Machine.execPopc d a s
  | .bswap d a => Sys2Proof.Machine.execBswap d a s
  | .addi d a imm => Sys2Proof.Machine.execAddi d a imm s
  | .slli d a h => Sys2Proof.Machine.execSlli d a h s
  | .slti d a imm => Sys2Proof.Machine.execSlti d a imm s
  | .sltiz d a imm => Sys2Proof.Machine.execSltiz d a imm s
  | .xori d a imm => Sys2Proof.Machine.execXori d a imm s
  | .srli d a h => Sys2Proof.Machine.execSrli d a h s
  | .srai d a h => Sys2Proof.Machine.execSrai d a h s
  | .ori d a imm => Sys2Proof.Machine.execOri d a imm s
  | .andi d a imm => Sys2Proof.Machine.execAndi d a imm s
  | .ldB d a imm => Sys2Proof.Machine.execLdB d a imm s
  | .ldH d a imm => Sys2Proof.Machine.execLdH d a imm s
  | .ldW d a imm => Sys2Proof.Machine.execLdW d a imm s
  | .ldD d a imm => Sys2Proof.Machine.execLdD d a imm s
  | .ldBz d a imm => Sys2Proof.Machine.execLdBz d a imm s
  | .ldHz d a imm => Sys2Proof.Machine.execLdHz d a imm s
  | .ldWz d a imm => Sys2Proof.Machine.execLdWz d a imm s
  | .stB a b imm => Sys2Proof.Machine.execStB a b imm s
  | .stH a b imm => Sys2Proof.Machine.execStH a b imm s
  | .stW a b imm => Sys2Proof.Machine.execStW a b imm s
  | .stD a b imm => Sys2Proof.Machine.execStD a b imm s
  | .beq a b imm => Sys2Proof.Machine.execBeq a b imm s
  | .bne a b imm => Sys2Proof.Machine.execBne a b imm s
  | .blt a b imm => Sys2Proof.Machine.execBlt a b imm s
  | .bge a b imm => Sys2Proof.Machine.execBge a b imm s
  | .bltz a b imm => Sys2Proof.Machine.execBltz a b imm s
  | .bgez a b imm => Sys2Proof.Machine.execBgez a b imm s
  | .jal d imm => Sys2Proof.Machine.execJal d imm s
  | .jalr d a imm => Sys2Proof.Machine.execJalr d a imm s
  | .lui d imm => Sys2Proof.Machine.execLui d imm s
  | .aupc d imm => Sys2Proof.Machine.execAupc d imm s
  | .loop a imm => Sys2Proof.Machine.execLoop a imm s
  | .loopi n imm => Sys2Proof.Machine.execLoopi n imm s
  | .lidx d e => Sys2Proof.Machine.execLidx d e s
  | .lbrk => Sys2Proof.Machine.execLbrk s
  | .lnext => Sys2Proof.Machine.execLnext s
  | .svc => Sys2Proof.Machine.execSvc s
  | .brk => Sys2Proof.Machine.execBrk s
  | .yield => Sys2Proof.Machine.execYield s
  | .ifence => Sys2Proof.Machine.execIfence s
  | .getc d c => Sys2Proof.Machine.execGetc d c s
  | .setc a c => Sys2Proof.Machine.execSetc a c s
  | .swapc d a c => Sys2Proof.Machine.execSwapc d a c s
  | .sleep a => Sys2Proof.Machine.execSleep a s
  | .amoaddW d a b src r q => Sys2Proof.Machine.execAmoaddW d a b src r q s
  | .amoaddD d a b src r q => Sys2Proof.Machine.execAmoaddD d a b src r q s
  | .amoswapW d a b src r q => Sys2Proof.Machine.execAmoswapW d a b src r q s
  | .amoswapD d a b src r q => Sys2Proof.Machine.execAmoswapD d a b src r q s
  | .amoandD d a b src r q => Sys2Proof.Machine.execAmoandD d a b src r q s
  | .amoorD d a b src r q => Sys2Proof.Machine.execAmoorD d a b src r q s
  | .amoxorD d a b src r q => Sys2Proof.Machine.execAmoxorD d a b src r q s
  | .amominD d a b src r q => Sys2Proof.Machine.execAmominD d a b src r q s
  | .amomaxD d a b src r q => Sys2Proof.Machine.execAmomaxD d a b src r q s
  | .amominzD d a b src r q => Sys2Proof.Machine.execAmominzD d a b src r q s
  | .amomaxzD d a b src r q => Sys2Proof.Machine.execAmomaxzD d a b src r q s
  | .amocasD d a b src r q => Sys2Proof.Machine.execAmocasD d a b src r q s
  | .amofaddS d a b src r q => Sys2Proof.Machine.execAmofaddS d a b src r q s
  | .amofmaxS d a b src r q => Sys2Proof.Machine.execAmofmaxS d a b src r q s
  | .vtype d t => Sys2Proof.Machine.execVtype d t s
  | .strip d a k => Sys2Proof.Machine.execStrip d a k s
  | .vlmax d => Sys2Proof.Machine.execVlmax d s
  | .wopen a b => Sys2Proof.Machine.execWopen a b s
  | .wmerge a => Sys2Proof.Machine.execWmerge a s
  | .vadd d a b k => Sys2Proof.Machine.execVadd d a b k s
  | .vsub d a b k => Sys2Proof.Machine.execVsub d a b k s
  | .vmul d a b k => Sys2Proof.Machine.execVmul d a b k s
  | .vmac d a b k => Sys2Proof.Machine.execVmac d a b k s
  | .vnmac d a b k => Sys2Proof.Machine.execVnmac d a b k s
  | .vmin d a b k => Sys2Proof.Machine.execVmin d a b k s
  | .vmax d a b k => Sys2Proof.Machine.execVmax d a b k s
  | .vdiv d a b k => Sys2Proof.Machine.execVdiv d a b k s
  | .vand d a b k => Sys2Proof.Machine.execVand d a b k s
  | .vor d a b k => Sys2Proof.Machine.execVor d a b k s
  | .vxor d a b k => Sys2Proof.Machine.execVxor d a b k s
  | .vsll d a b k => Sys2Proof.Machine.execVsll d a b k s
  | .vsrl d a b k => Sys2Proof.Machine.execVsrl d a b k s
  | .vsra d a b k => Sys2Proof.Machine.execVsra d a b k s
  | .vmulh d a b k => Sys2Proof.Machine.execVmulh d a b k s
  | .vmulhz d a b k => Sys2Proof.Machine.execVmulhz d a b k s
  | .vabs d a k => Sys2Proof.Machine.execVabs d a k s
  | .vneg d a k => Sys2Proof.Machine.execVneg d a k s
  | .vsqrt d a k => Sys2Proof.Machine.execVsqrt d a k s
  | .vrcp d a k => Sys2Proof.Machine.execVrcp d a k s
  | .vrsqrt d a k => Sys2Proof.Machine.execVrsqrt d a k s
  | .vexp2 d a k => Sys2Proof.Machine.execVexp2 d a k s
  | .vmov d a k => Sys2Proof.Machine.execVmov d a k s
  | .vaddS d a b k => Sys2Proof.Machine.execVaddS d a b k s
  | .vsubS d a b k => Sys2Proof.Machine.execVsubS d a b k s
  | .vmulS d a b k => Sys2Proof.Machine.execVmulS d a b k s
  | .vmacS d a b k => Sys2Proof.Machine.execVmacS d a b k s
  | .vnmacS d a b k => Sys2Proof.Machine.execVnmacS d a b k s
  | .vminS d a b k => Sys2Proof.Machine.execVminS d a b k s
  | .vmaxS d a b k => Sys2Proof.Machine.execVmaxS d a b k s
  | .vdivS d a b k => Sys2Proof.Machine.execVdivS d a b k s
  | .vandS d a b k => Sys2Proof.Machine.execVandS d a b k s
  | .vorS d a b k => Sys2Proof.Machine.execVorS d a b k s
  | .vxorS d a b k => Sys2Proof.Machine.execVxorS d a b k s
  | .vsllS d a b k => Sys2Proof.Machine.execVsllS d a b k s
  | .vsrlS d a b k => Sys2Proof.Machine.execVsrlS d a b k s
  | .vsraS d a b k => Sys2Proof.Machine.execVsraS d a b k s
  | .vmulhS d a b k => Sys2Proof.Machine.execVmulhS d a b k s
  | .vmulhzS d a b k => Sys2Proof.Machine.execVmulhzS d a b k s
  | .vceq d a b k => Sys2Proof.Machine.execVceq d a b k s
  | .vcne d a b k => Sys2Proof.Machine.execVcne d a b k s
  | .vclt d a b k => Sys2Proof.Machine.execVclt d a b k s
  | .vcle d a b k => Sys2Proof.Machine.execVcle d a b k s
  | .vcltz d a b k => Sys2Proof.Machine.execVcltz d a b k s
  | .vclez d a b k => Sys2Proof.Machine.execVclez d a b k s
  | .vcun d a b k => Sys2Proof.Machine.execVcun d a b k s
  | .vceqS d a b k => Sys2Proof.Machine.execVceqS d a b k s
  | .vcneS d a b k => Sys2Proof.Machine.execVcneS d a b k s
  | .vcltS d a b k => Sys2Proof.Machine.execVcltS d a b k s
  | .vcleS d a b k => Sys2Proof.Machine.execVcleS d a b k s
  | .vcgtS d a b k => Sys2Proof.Machine.execVcgtS d a b k s
  | .vcgeS d a b k => Sys2Proof.Machine.execVcgeS d a b k s
  | .kand d a b k => Sys2Proof.Machine.execKand d a b k s
  | .kor d a b k => Sys2Proof.Machine.execKor d a b k s
  | .kxor d a b k => Sys2Proof.Machine.execKxor d a b k s
  | .kandn d a b k => Sys2Proof.Machine.execKandn d a b k s
  | .knot d a k => Sys2Proof.Machine.execKnot d a k s
  | .kwhile d a b => Sys2Proof.Machine.execKwhile d a b s
  | .kset d k => Sys2Proof.Machine.execKset d k s
  | .kclr d k => Sys2Proof.Machine.execKclr d k s
  | .kcnt d a k => Sys2Proof.Machine.execKcnt d a k s
  | .kfirst d a k => Sys2Proof.Machine.execKfirst d a k s
  | .vbcast d a k => Sys2Proof.Machine.execVbcast d a k s
  | .vslup d a b k => Sys2Proof.Machine.execVslup d a b k s
  | .vsldn d a b k => Sys2Proof.Machine.execVsldn d a b k s
  | .vperm d a b k => Sys2Proof.Machine.execVperm d a b k s
  | .vzipl d a b k => Sys2Proof.Machine.execVzipl d a b k s
  | .vziph d a b k => Sys2Proof.Machine.execVziph d a b k s
  | .vunzpe d a b k => Sys2Proof.Machine.execVunzpe d a b k s
  | .vunzpo d a b k => Sys2Proof.Machine.execVunzpo d a b k s
  | .vcmprs d a k => Sys2Proof.Machine.execVcmprs d a k s
  | .vexpnd d a k => Sys2Proof.Machine.execVexpnd d a k s
  | .vext d a b => Sys2Proof.Machine.execVext d a b s
  | .vins d a b => Sys2Proof.Machine.execVins d a b s
  | .viota d k => Sys2Proof.Machine.execViota d k s
  | .vrev d a k => Sys2Proof.Machine.execVrev d a k s
  | .vrsum d a k => Sys2Proof.Machine.execVrsum d a k s
  | .vrmax d a k => Sys2Proof.Machine.execVrmax d a k s
  | .vrmin d a k => Sys2Proof.Machine.execVrmin d a k s
  | .vrand d a k => Sys2Proof.Machine.execVrand d a k s
  | .vror d a k => Sys2Proof.Machine.execVror d a k s
  | .vscan d a k => Sys2Proof.Machine.execVscan d a k s
  | .vscanx d a k => Sys2Proof.Machine.execVscanx d a k s
  | .vrsumw d a k => Sys2Proof.Machine.execVrsumw d a k s
  | .vcvt d a k src r => Sys2Proof.Machine.execVcvt d a k src r s
  | .vcvtSat d a k src r => Sys2Proof.Machine.execVcvtSat d a k src r s
  | .vpack d a k src r => Sys2Proof.Machine.execVpack d a k src r s
  | .vunpk d a k src => Sys2Proof.Machine.execVunpk d a k src s
  | .vld d a k o => Sys2Proof.Machine.execVld d a k o s
  | .vlds d a b k => Sys2Proof.Machine.execVlds d a b k s
  | .vldx d a b k => Sys2Proof.Machine.execVldx d a b k s
  | .vldff d a k o => Sys2Proof.Machine.execVldff d a k o s
  | .vldseg d a n k t => Sys2Proof.Machine.execVldseg d a n k t s
  | .vldf d a k o => Sys2Proof.Machine.execVldf d a k o s
  | .vldb d a k o => Sys2Proof.Machine.execVldb d a k o s
  | .vst d a k o => Sys2Proof.Machine.execVst d a k o s
  | .vsts d a b k => Sys2Proof.Machine.execVsts d a b k s
  | .vstx d a b k => Sys2Proof.Machine.execVstx d a b k s
  | .vstseg d a n k t => Sys2Proof.Machine.execVstseg d a n k t s
  | .vstf d a k o => Sys2Proof.Machine.execVstf d a k o s
  | .vstxa d a b k => Sys2Proof.Machine.execVstxa d a b k s
  | .vamo d a b k => Sys2Proof.Machine.execVamo d a b k s
  | .mld a b y => Sys2Proof.Machine.execMld a b y s
  | .mswap => Sys2Proof.Machine.execMswap s
  | .mstr x a b c y => Sys2Proof.Machine.execMstr x a b c y s
  | .mrd d x a => Sys2Proof.Machine.execMrd d x a s
  | .mzero x => Sys2Proof.Machine.execMzero x s
  | .mst x a b y => Sys2Proof.Machine.execMst x a b y s
  | .cpy d a b p => Sys2Proof.Machine.execCpy d a b p s
  | .cpyr d a b p => Sys2Proof.Machine.execCpyr d a b p s
  | .cwait d a b w => Sys2Proof.Machine.execCwait d a b w s
  | .sbind d a e p => Sys2Proof.Machine.execSbind d a e p s
  | .sunbind d => Sys2Proof.Machine.execSunbind d s
  | .tlwait d a b => Sys2Proof.Machine.execTlwait d a b s
  | .capp d a b => Sys2Proof.Machine.execCapp d a b s
  | .cstat d a => Sys2Proof.Machine.execCstat d a s
  | .barr d a => Sys2Proof.Machine.execBarr d a s
  | .bwait d a b => Sys2Proof.Machine.execBwait d a b s
  | .bsync d a b => Sys2Proof.Machine.execBsync d a b s
  | .acq d a b => Sys2Proof.Machine.execAcq d a b s
  | .rel d a => Sys2Proof.Machine.execRel d a s
  | .mend d a b => Sys2Proof.Machine.execMend d a b s
  | .pacq src => Sys2Proof.Machine.execPacq src s
  | .prel src => Sys2Proof.Machine.execPrel src s
  | .pfull src => Sys2Proof.Machine.execPfull src s
  | .bbind d a => Sys2Proof.Machine.execBbind d a s
  | .bdrop d a => Sys2Proof.Machine.execBdrop d a s
  | .bstat d a => Sys2Proof.Machine.execBstat d a s
  | .wmbind d a b => Sys2Proof.Machine.execWmbind d a b s
  | .wmpub a b => Sys2Proof.Machine.execWmpub a b s
  | .wmrd d a => Sys2Proof.Machine.execWmrd d a s
  | .rbind d a => Sys2Proof.Machine.execRbind d a s
  | .rget d a b => Sys2Proof.Machine.execRget d a b s
  | .rput a => Sys2Proof.Machine.execRput a s
  | .rtake d a b => Sys2Proof.Machine.execRtake d a b s
  | .rdone a => Sys2Proof.Machine.execRdone a s
  | .rstat d a => Sys2Proof.Machine.execRstat d a s
  | .runbind a => Sys2Proof.Machine.execRunbind a s
  | .hnew d a => Sys2Proof.Machine.execHnew d a s
  | .hsplit d a b c => Sys2Proof.Machine.execHsplit d a b c s
  | .hjoin d a b => Sys2Proof.Machine.execHjoin d a b s
  | .hsend a b => Sys2Proof.Machine.execHsend a b s
  | .hrecv d a b => Sys2Proof.Machine.execHrecv d a b s
  | .haddr d a => Sys2Proof.Machine.execHaddr d a s
  | .hfree a => Sys2Proof.Machine.execHfree a s
  | .hinfo d a => Sys2Proof.Machine.execHinfo d a s
  | .hreclaim d a => Sys2Proof.Machine.execHreclaim d a s
  | .spawn a => Sys2Proof.Machine.execSpawn a s
  | .tend => Sys2Proof.Machine.execTend s
  | .jdec a => Sys2Proof.Machine.execJdec a s
  | .qpush a b => Sys2Proof.Machine.execQpush a b s
  | .qpop d a b => Sys2Proof.Machine.execQpop d a b s
  | .tself d => Sys2Proof.Machine.execTself d s
  | .fsend d a b => Sys2Proof.Machine.execFsend d a b s
  | .frecv d a b => Sys2Proof.Machine.execFrecv d a b s
  | .fpath d a b => Sys2Proof.Machine.execFpath d a b s
  | .fprobe d a => Sys2Proof.Machine.execFprobe d a s
  | .illegalWordIssue w => Sys2Proof.Machine.execIllegalWordIssue w s
  | .fetchProblem => Sys2Proof.Machine.execFetchProblem s
  | .vamoReport sid elem code => Sys2Proof.Machine.execVamoReport sid elem code s
  | .mldComplete core => Sys2Proof.Machine.execMldComplete core s
  | .mswapPerformed core => Sys2Proof.Machine.execMswapPerformed core s
  | .mstrRowFinal core err => Sys2Proof.Machine.execMstrRowFinal core err s
  | .mzeroPerformed core => Sys2Proof.Machine.execMzeroPerformed core s
  | .mstRowWrite core => Sys2Proof.Machine.execMstRowWrite core s
  | .mrdWrite sid => Sys2Proof.Machine.execMrdWrite sid s
  | .matrixWaitExpired sid => Sys2Proof.Machine.execMatrixWaitExpired sid s
  | .portDispatch core port => Sys2Proof.Machine.execPortDispatch core port s
  | .portQueueWaitExpired sid => Sys2Proof.Machine.execPortQueueWaitExpired sid s
  | .copyChunk id chunk => Sys2Proof.Machine.execCopyChunk id chunk s
  | .releaseTokenWrite id => Sys2Proof.Machine.execReleaseTokenWrite id s
  | .deliveryTokenWrite id => Sys2Proof.Machine.execDeliveryTokenWrite id s
  | .copyFaultPost id => Sys2Proof.Machine.execCopyFaultPost id s
  | .copyReplay id => Sys2Proof.Machine.execCopyReplay id s
  | .streamStripDeliver core port => Sys2Proof.Machine.execStreamStripDeliver core port s
  | .chainCopy hdr => Sys2Proof.Machine.execChainCopy hdr s
  | .chainCopyr hdr => Sys2Proof.Machine.execChainCopyr hdr s
  | .chainMark hdr => Sys2Proof.Machine.execChainMark hdr s
  | .chainCommandComplete hdr => Sys2Proof.Machine.execChainCommandComplete hdr s
  | .ochreCopy hdr => Sys2Proof.Machine.execOchreCopy hdr s
  | .ochreCopyr hdr => Sys2Proof.Machine.execOchreCopyr hdr s
  | .ochreMark hdr => Sys2Proof.Machine.execOchreMark hdr s
  | .ochreFill hdr => Sys2Proof.Machine.execOchreFill hdr s
  | .indigoCopy hdr => Sys2Proof.Machine.execIndigoCopy hdr s
  | .indigoCopyr hdr => Sys2Proof.Machine.execIndigoCopyr hdr s
  | .indigoMark hdr => Sys2Proof.Machine.execIndigoMark hdr s
  | .indigoWait hdr => Sys2Proof.Machine.execIndigoWait hdr s
  | .indigoWaitMet hdr => Sys2Proof.Machine.execIndigoWaitMet hdr s
  | .indigoWaitExpired hdr => Sys2Proof.Machine.execIndigoWaitExpired hdr s
  | .indigoSignal hdr => Sys2Proof.Machine.execIndigoSignal hdr s
  | .indigoPathSet hdr => Sys2Proof.Machine.execIndigoPathSet hdr s
  | .ueWrite hdr => Sys2Proof.Machine.execUeWrite hdr s
  | .ueRead hdr => Sys2Proof.Machine.execUeRead hdr s
  | .ueRegisterRegion hdr => Sys2Proof.Machine.execUeRegisterRegion hdr s
  | .ueMark hdr => Sys2Proof.Machine.execUeMark hdr s
  | .uePacket pkt => Sys2Proof.Machine.execUePacket pkt s
  | .watermarkExpired sid => Sys2Proof.Machine.execWatermarkExpired sid s
  | .barrierDeadlineClose cluster obj => Sys2Proof.Machine.execBarrierDeadlineClose cluster obj s
  | .regWaitExpired sid => Sys2Proof.Machine.execRegWaitExpired sid s
  | .waitExpired sid => Sys2Proof.Machine.execWaitExpired sid s
  | .sleepMet sid => Sys2Proof.Machine.execSleepMet sid s
  | .svcExpired sid => Sys2Proof.Machine.execSvcExpired sid s
  | .preempt sid => Sys2Proof.Machine.execPreempt sid s
  | .budgetOverrun sid => Sys2Proof.Machine.execBudgetOverrun sid s
  | .tbudExhausted sid => Sys2Proof.Machine.execTbudExhausted sid s
  | .taskStart core slot => Sys2Proof.Machine.execTaskStart core slot s
  | .taskResume core slot => Sys2Proof.Machine.execTaskResume core slot s
  | .priorityAging job => Sys2Proof.Machine.execPriorityAging job s
  | .coreBind core job => Sys2Proof.Machine.execCoreBind core job s
  | .gangPreempt job => Sys2Proof.Machine.execGangPreempt job s
  | .gangResume job => Sys2Proof.Machine.execGangResume job s
  | .coreScrub core => Sys2Proof.Machine.execCoreScrub core s
  | .jobComplete job => Sys2Proof.Machine.execJobComplete job s
  | .jobStopForce sid => Sys2Proof.Machine.execJobStopForce sid s
  | .commandTake => Sys2Proof.Machine.execCommandTake s
  | .launch seq => Sys2Proof.Machine.execLaunch seq s
  | .shootdownPageRange seq => Sys2Proof.Machine.execShootdownPageRange seq s
  | .shootdownRoot seq => Sys2Proof.Machine.execShootdownRoot seq s
  | .shootdownAck seq => Sys2Proof.Machine.execShootdownAck seq s
  | .cancel seq => Sys2Proof.Machine.execCancel seq s
  | .debugFreeze seq => Sys2Proof.Machine.execDebugFreeze seq s
  | .debugStep seq => Sys2Proof.Machine.execDebugStep seq s
  | .debugResume seq => Sys2Proof.Machine.execDebugResume seq s
  | .debugDump seq => Sys2Proof.Machine.execDebugDump seq s
  | .keyInvalidate seq => Sys2Proof.Machine.execKeyInvalidate seq s
  | .pageWalk cluster job va kind => Sys2Proof.Machine.execPageWalk cluster job va kind s
  | .poolRefill die frames => Sys2Proof.Machine.execPoolRefill die frames s
  | .faultQueueSpace job => Sys2Proof.Machine.execFaultQueueSpace job s
  | .tailAdvance job tail => Sys2Proof.Machine.execTailAdvance job tail s
  | .holdExpired sid => Sys2Proof.Machine.execHoldExpired sid s
  | .pagingService job rec entry val supply decline => Sys2Proof.Machine.execPagingService job rec entry val supply decline s
  | .patrolScrub at_ bad => Sys2Proof.Machine.execPatrolScrub at_ bad s
  | .queueLost cluster job queue => Sys2Proof.Machine.execQueueLost cluster job queue s
  | .cyanReload n => Sys2Proof.Machine.execCyanReload n s
  | .cobaltReset => Sys2Proof.Machine.execCobaltReset s
  | .packageReset slices lanes cores clusters ports cyans => Sys2Proof.Machine.execPackageReset slices lanes cores clusters ports cyans s
  | .imgdbWrite len => Sys2Proof.Machine.execImgdbWrite len s
  | .bootReady frames => Sys2Proof.Machine.execBootReady frames s
  | .dmalockWrite val => Sys2Proof.Machine.execDmalockWrite val s
  | .fabidLock val => Sys2Proof.Machine.execFabidLock val s
  | .registerWrite off val => Sys2Proof.Machine.execRegisterWrite off val s
  | .hostWrite off data tdi => Sys2Proof.Machine.execHostWrite off data tdi s
  | .hostRead off n tdi => Sys2Proof.Machine.execHostRead off n tdi s
  | .hostAtomicCompletion req reply => Sys2Proof.Machine.execHostAtomicCompletion req reply s
  | .proxyReply index => Sys2Proof.Machine.execProxyReply index s
  | .proxyQueueExpired sid => Sys2Proof.Machine.execProxyQueueExpired sid s
  | .proxyReplyExpired sid => Sys2Proof.Machine.execProxyReplyExpired sid s
  | .spdmRequest req => Sys2Proof.Machine.execSpdmRequest req s
  | .spdmKeyInstall session tdi key => Sys2Proof.Machine.execSpdmKeyInstall session tdi key s
  | .tdiLeaveRun tdi => Sys2Proof.Machine.execTdiLeaveRun tdi s
  | .thermalStep die temp => Sys2Proof.Machine.execThermalStep die temp s
  | .powerClamp watts => Sys2Proof.Machine.execPowerClamp watts s
  | .frameReceive port frame => Sys2Proof.Machine.execFrameReceive port frame s
  | .timeFlit port time => Sys2Proof.Machine.execTimeFlit port time s
  | .ptpMessage port time locked => Sys2Proof.Machine.execPtpMessage port time locked s
  | .ptpLockLoss => Sys2Proof.Machine.execPtpLockLoss s
  | .retryRequest port lseq => Sys2Proof.Machine.execRetryRequest port lseq s
  | .linkDown port => Sys2Proof.Machine.execLinkDown port s
  | .stomp port spkg eseq => Sys2Proof.Machine.execStomp port spkg eseq s
  | .readRequest pkt => Sys2Proof.Machine.execReadRequest pkt s
  | .readReply pkt => Sys2Proof.Machine.execReadReply pkt s
  | .writeRequest pkt => Sys2Proof.Machine.execWriteRequest pkt s
  | .atomicRequest pkt => Sys2Proof.Machine.execAtomicRequest pkt s
  | .atomicReply pkt => Sys2Proof.Machine.execAtomicReply pkt s
  | .chunkWrite pkt => Sys2Proof.Machine.execChunkWrite pkt s
  | .multicastChunkWrite pkt => Sys2Proof.Machine.execMulticastChunkWrite pkt s
  | .message pkt => Sys2Proof.Machine.execMessage pkt s
  | .messageReply pkt => Sys2Proof.Machine.execMessageReply pkt s
  | .ack pkt => Sys2Proof.Machine.execAck pkt s
  | .nack pkt => Sys2Proof.Machine.execNack pkt s
  | .combinedAtomic pkt => Sys2Proof.Machine.execCombinedAtomic pkt s
  | .combinedReply pkt => Sys2Proof.Machine.execCombinedReply pkt s
  | .e2eRetransmit pkg eseq => Sys2Proof.Machine.execE2eRetransmit pkg eseq s
  | .multicastBranchTimeout copy chunk pkg => Sys2Proof.Machine.execMulticastBranchTimeout copy chunk pkg s
  | .pathProbe peer path rtt ecn => Sys2Proof.Machine.execPathProbe peer path rtt ecn s
  | .launchAcceptAnnounce pkg job digest time => Sys2Proof.Machine.execLaunchAcceptAnnounce pkg job digest time s
  | .launchAgreeTimeout job => Sys2Proof.Machine.execLaunchAgreeTimeout job s
  | .multiJobStart job => Sys2Proof.Machine.execMultiJobStart job s
  | .gangPreemptRequest job => Sys2Proof.Machine.execGangPreemptRequest job s
  | .slateWaveArrive job cause => Sys2Proof.Machine.execSlateWaveArrive job cause s
  | .frozenReport pkg job stop cause => Sys2Proof.Machine.execFrozenReport pkg job stop cause s
  | .firstCauseFinal job => Sys2Proof.Machine.execFirstCauseFinal job s
  | .resumeAnnounce job tr stop => Sys2Proof.Machine.execResumeAnnounce job tr stop s
  | .slateRestart job => Sys2Proof.Machine.execSlateRestart job s
  | .slateFreezeTimeout job => Sys2Proof.Machine.execSlateFreezeTimeout job s
  | .vectorQueueCompletion sid => Sys2Proof.Machine.execVectorQueueCompletion sid s
  | .dmaReadCompletion req data => Sys2Proof.Machine.execDmaReadCompletion req data s
  | .tdiEnterRun tdi key => Sys2Proof.Machine.execTdiEnterRun tdi key s

end Sys2Proof.Machine
end

