-- ==== Sys2Proof/Machine/Issue.lean ====
section
/-! DEFINITION. What a step does: the current strand's issue, the move at the head of the agenda, what follows every move, and where a word is placed for the next step to fetch it (R63, R74, R90, R211). -/

namespace Sys2Proof.Machine

/-- The homes decide after what a move has done (R211), Indigo waits that have come to their deadlines end (R382), and what was sent is handed to the links (R358); nothing follows on a package that has halted (R348). -/
def afterMove (r : Result) : Result :=
  match r with
  | .next s => .next (if s.pkg.halted then s else s.poll.leaveOn.indigoDue.handOver)
  | .fault f => .fault f
  | .refused x => .refused x

/-- A step of the current strand's job has had its one issue (R391). -/
def State.stepTaken (s : State) : State :=
  if s.stepIssue s.cur then s.onJob s.cur.job fun j => { j with slate := { j.slate with stepSid := none } } else s

/-- The current strand's front end issues, where it may: the word at its pc, a fetch problem, or a word that is no instruction (R63, R90); a request unmet for too long comes first (R88). -/
def State.issueCur (s : State) : Result :=
  if s.pkg.halted then .fault .packageHalted
  else if !s.canIssue s.cur then .next s
  else if s.overrunDue then .next s.overrun
  else
    match s.stepTaken.fetch with
    | (s1, .error _) => execFetchProblem s1
    | (s1, .ok w) =>
      match decode w with
      | .ok i => exec i s1
      | _ => execIllegalWordIssue w s1

/-- Events by which something that has come due is decided: what is due is not settled before them. Log 2 (DESIGN CHOICE). -/
def Instr.decides : Instr → Bool
  | .waitExpired _ | .regWaitExpired _ | .matrixWaitExpired _ | .watermarkExpired _ | .portQueueWaitExpired _
  | .proxyQueueExpired _ | .proxyReplyExpired _ | .svcExpired _ | .sleepMet _ | .barrierDeadlineClose _ _
  | .preempt _ | .slateWaveArrive _ _ | .holdExpired _ => true
  | _ => false

/-- Whether an event may stand in the agenda: the front end's own two rows and the instructions come about only through an issue. -/
def Instr.isEvent (i : Instr) : Bool :=
  match i with
  | .illegalWordIssue _ | .fetchProblem => false
  | i => (encode i).isNone

/-- A move of a package that runs. Log 2 (DESIGN CHOICE). -/
def State.liveMove (s : State) : Move → Result
  | .strand sid => (s.settled.switchTo sid).issueCur
  | .event i => if Instr.isEvent i then exec i (if Instr.decides i then s else s.settled) else .next s
  | .elapse ns cycles => .next (s.settled.elapse ns cycles)

/-- A move of a package that has halted (R348): no strand issues, nothing but a reset happens, and only gtime goes on. -/
def State.haltedMove (s : State) : Move → Result
  | .strand _ => .fault .packageHalted
  | .event i => match i with
    | .packageReset _ _ _ _ _ _ => exec i s
    | _ => .next s
  | .elapse ns _ => .next { s with gtime := s.gtime + word ns }

/-- One move of the agenda. Log 2 (DESIGN CHOICE). -/
def State.move (s : State) (m : Move) : Result := if s.pkg.halted then s.haltedMove m else s.liveMove m

/-! An instruction placed where the next step fetches it. -/

/-- A job with one strand on core 0, ready to issue at `codeVa`: what a boot, a launch and its start leave (R313, R337), with the page tables and the fault queue the driver places (R289, R298). -/
def codeVa : Word := 0x100000000#64

def demoLaunch : Launch where
  job := 1
  key := 5
  base := 0
  cap := 31
  root := 0x100000
  fq := 0x200000
  entry := codeVa
  arg := 0
  grants := [0xFFFF, 0, 0, 0]
  mslot := 0
  mnone := false
  lslot := 0
  policy := .stop
  maint := false
  dldef := 100000
  dlmax := 1000000
  tcap := 1048576
  levels := [⟨0, 1, .core, 2⟩]
  bytes := 0

def demoJob (s : State) : Job where
  id := 1
  seq := 1
  rec_ := demoLaunch
  state := .started
  code := 0
  jval := 0
  jrun := true
  jfrom := s.gtime
  eff := 0
  waitSince := none
  servedAt := none
  cores := [0]
  places := [⟨0, [0], [0]⟩]
  bindable := []
  started := 1
  stopReq := none
  gang := .none
  w0 := s.nextW
  held := []
  bigRecs := []
  slate := Slate.none
  multi := false
  accepts := []
  startAt := none
  notBefore := 0
  timed := true
  regions := []
  gangStops := []
  gangReady := []

def demoStrand (s : State) : Strand := { Strand.zero with
  uid := s.ticket, sid := mkSid s.pkgNo 0 0, pc := codeVa, job := 1, grant := 0xFFFF, mlease := true,
  dlDef := 100000, dlMax := 1000000, tbud := 1048576, tcap := 1048576, run := .ready }

/-- Page tables for `codeVa` (R289 to R291) and a fault-queue header (R298), at places of local HBM under key 0; the code page's frame is 0x400000. Log 5 (DESIGN CHOICE). -/
def demoTables (s : State) : State :=
  let p (a : State) (loc v : Nat) : State := a.poke 0 loc (bytesOfNat 8 v)
  [(0x100000, 0x104001), (0x104000, 0x108001), (0x108040, 0x10C001), (0x10C000, 0x005000000040003F),
   (0x200000, 0x201000), (0x200008, 16), (0x200010, 0), (0x200018, 0)].foldl (fun a x => p a x.1 x.2) s

/-- The package with that job running and its strand current. Log 5 (DESIGN CHOICE). -/
def State.running (s : State) : State :=
  let s1 := demoTables s
  let s2 := s1.onCore 0 fun c => { c with lease := ⟨some 1, none, 5, false⟩, grants := #v[0xFFFF, 0, 0, 0] }
  { s2 with cur := demoStrand s, ticket := s.ticket + 1, jobs := demoJob s :: s.jobs, agenda := [] }

/-- Puts the word at a place under a key, with no past. -/
def State.putWord (s : State) (key loc : Nat) (w : Nat) : State :=
  { s.poke key loc (bytesOfNat 4 w) with hist := s.hist.filter (fun x => !overlaps x.loc x.n loc 4), agenda := [] }

end Sys2Proof.Machine
end

