-- ==== Sys2Proof/Machine/Step.lean ====
section
/-! DEFINITION. One step of the package: with an empty agenda the current strand's front end issues the word at its pc; otherwise the move at the head of the agenda is made. What has come due is settled first (R74, R87, R220), and every home decides its waits afterwards (R211). -/

namespace Sys2Proof.Machine

/-- One step of the machine. Log 2 (DESIGN CHOICE). -/
def step (s : State) : Host.Outcome State Fault Refusal :=
  match s.agenda with
  | [] => afterMove s.settled.issueCur
  | m :: ms => afterMove ({ s with agenda := ms }.move m)

/-- The state with an instruction word where `step` fetches its next instruction: at the current strand's pc where it may issue and fetch, else in a job started for it. Log 5 (DESIGN CHOICE). -/
def State.withFetchWord (s : State) (_nbits w : Nat) : State :=
  let at_ (s : State) : Option (Nat × Nat) :=
    match s.place s.cur s.cur.pc 4 (needOf .fetch) false with
    | (_, .ok h) => some (h.key, h.loc)
    | (_, .error _) => none
  if s.canIssue s.cur then
    match at_ s with
    | some (key, loc) => s.putWord key loc w
    | none => s.running.putWord 5 0x400000 w
  else s.running.putWord 5 0x400000 w

end Sys2Proof.Machine
end

