-- ==== Sys2Proof/Claims/Base.lean ====
section
/-! DEFINITION. The words the statements about single instructions are made of: when the registers an instruction names are full, what completing it leaves of pc and loop stack, and what it leaves alone. -/

namespace Sys2Proof.Claims

open Sys2Proof.Machine

/-- Every register an instruction names is full (R71), and no pre-emption is pending that would take effect at an iteration boundary (R87). -/
structure Ready (s : State) (named : List (BitVec 5)) : Prop where
  full : ∀ r ∈ named, s.cur.isFull r = true
  calm : s.cur.pre = none

/-- What completing an instruction in program order makes of the pc and the loop stack (R83). -/
structure Stepped (s t : State) : Prop where
  pc : t.cur.pc = (endOfBody s.cur.pc s.cur.loops).1
  loops : t.cur.loops = (endOfBody s.cur.pc s.cur.loops).2.1

/-- The state with the current strand's scalar registers, tokens and what reading tokens acquires, pc, loop stack and leftovers of a wait as in `t`: everything a scalar instruction may write. -/
def scalarPart (s t : State) : State :=
  { s with cur := { s.cur with
      sregs := t.cur.sregs, full := t.cur.full, marks := t.cur.marks, hb := t.cur.hb, soon := t.cur.soon, obs := t.cur.obs
      pc := t.cur.pc, loops := t.cur.loops, wait := none, buf := [], refused := [], replies := [], vamoTodo := none, resv := [], seek := none } }

/-- Only the scalar registers listed have changed, and beside them nothing but what `scalarPart` names: no flag, no CSR, no vector, mask, handle or other register, no byte of memory. -/
structure OnlyScalars (s t : State) (ds : List (BitVec 5)) : Prop where
  regs : ∀ r, r ∉ ds → t.cur.getS r = s.cur.getS r ∧ t.cur.isFull r = s.cur.isFull r
  rest : t = scalarPart s t

/-- A register reads what was written to it; `s0` reads 0 (R67). -/
def Holds (t : State) (d : BitVec 5) (v : Word) : Prop := t.cur.getS d = (if d = 0 then 0 else v) ∧ t.cur.isFull d = true

/-! Scalar arithmetic (R92, R93, R39). -/

/-- What R92, R93 and R39 say a scalar arithmetic instruction writes: destination, sources and value. -/
def scalarResult (i : Instr) (t : Strand) : Option (BitVec 5 × List (BitVec 5) × Word) :=
  let x (r : BitVec 5) : Word := t.getS r
  let sh (r : BitVec 5) : Nat := ((t.getS r).extractLsb' 0 6).toNat
  let flag (p : Bool) : Word := if p then 1#64 else 0#64
  match i with
  | .add d a b => some (d, [a, b], x a + x b)
  | .sub d a b => some (d, [a, b], x a - x b)
  | .sll d a b => some (d, [a, b], x a <<< sh b)
  | .srl d a b => some (d, [a, b], x a >>> sh b)
  | .sra d a b => some (d, [a, b], (x a).sshiftRight (sh b))
  | .slt d a b => some (d, [a, b], flag (decide ((x a).toInt < (x b).toInt)))
  | .sltz d a b => some (d, [a, b], flag (decide ((x a).toNat < (x b).toNat)))
  | .xor d a b => some (d, [a, b], x a ^^^ x b)
  | .or d a b => some (d, [a, b], x a ||| x b)
  | .and d a b => some (d, [a, b], x a &&& x b)
  | .mul d a b => some (d, [a, b], BitVec.ofNat 64 ((x a).toNat * (x b).toNat))
  | .mulh d a b => some (d, [a, b], BitVec.ofInt 64 ((x a).toInt * (x b).toInt / 2 ^ 64))
  | .mulhz d a b => some (d, [a, b], BitVec.ofNat 64 ((x a).toNat * (x b).toNat / 2 ^ 64))
  | .div d a b => some (d, [a, b], if x b = 0 then BitVec.allOnes 64 else BitVec.ofInt 64 ((x a).toInt.tdiv (x b).toInt))
  | .divz d a b => some (d, [a, b], if x b = 0 then BitVec.allOnes 64 else BitVec.ofNat 64 ((x a).toNat / (x b).toNat))
  | .rem d a b => some (d, [a, b], if x b = 0 then x a else BitVec.ofInt 64 ((x a).toInt.tmod (x b).toInt))
  | .remz d a b => some (d, [a, b], if x b = 0 then x a else BitVec.ofNat 64 ((x a).toNat % (x b).toNat))
  | .min d a b => some (d, [a, b], if (x a).toInt ≤ (x b).toInt then x a else x b)
  | .max d a b => some (d, [a, b], if (x a).toInt ≤ (x b).toInt then x b else x a)
  | .minz d a b => some (d, [a, b], if (x a).toNat ≤ (x b).toNat then x a else x b)
  | .maxz d a b => some (d, [a, b], if (x a).toNat ≤ (x b).toNat then x b else x a)
  | .addi d a i => some (d, [a], x a + i.signExtend 64)
  | .slti d a i => some (d, [a], flag (decide ((x a).toInt < (i.signExtend 64).toInt)))
  | .sltiz d a i => some (d, [a], flag (decide ((x a).toNat < (i.signExtend 64).toNat)))
  | .xori d a i => some (d, [a], x a ^^^ i.signExtend 64)
  | .ori d a i => some (d, [a], x a ||| i.signExtend 64)
  | .andi d a i => some (d, [a], x a &&& i.signExtend 64)
  | .slli d a h => some (d, [a], x a <<< h.toNat)
  | .srli d a h => some (d, [a], x a >>> h.toNat)
  | .srai d a h => some (d, [a], (x a).sshiftRight h.toNat)
  | .lui d i => some (d, [], BitVec.ofInt 64 (i.toInt * 4096))
  | .aupc d i => some (d, [], t.pc + BitVec.ofInt 64 (i.toInt * 4096))
  | _ => none

/-- The bits of a word, lowest first. -/
def bitsOf (v : Word) : List Bool := (List.range 64).map v.getLsbD

/-- What R92 says a counting or byte-reversing instruction writes: zeros above the highest one, zeros below the lowest one, ones, and the bytes in the other order. -/
def countResult (i : Instr) (t : Strand) : Option (BitVec 5 × BitVec 5 × Word) :=
  match i with
  | .clz d a => some (d, a, BitVec.ofNat 64 ((bitsOf (t.getS a)).reverse.takeWhile (· = false)).length)
  | .ctz d a => some (d, a, BitVec.ofNat 64 ((bitsOf (t.getS a)).takeWhile (· = false)).length)
  | .popc d a => some (d, a, BitVec.ofNat 64 ((bitsOf (t.getS a)).count true))
  | .bswap d a =>
    let v := t.getS a
    some (d, a, v.extractLsb' 0 8 ++ v.extractLsb' 8 8 ++ v.extractLsb' 16 8 ++ v.extractLsb' 24 8 ++
      v.extractLsb' 32 8 ++ v.extractLsb' 40 8 ++ v.extractLsb' 48 8 ++ v.extractLsb' 56 8)
  | _ => none

end Sys2Proof.Claims
end

