-- ==== Sys2Proof/Claims/Control.lean ====
section
/-! DEFINITION. What the rules say of control transfer, hardware loops and CSRs, for the statements about them. -/

namespace Sys2Proof.Claims

open Sys2Proof.Machine

/-- The state after the tokens among an instruction's sources have been read (R197). -/
def readAll (s : State) (srcs : List (BitVec 5)) : State := srcs.foldl State.readTok s

/-- The conditional branches: the registers compared, the offset and the test of R96. -/
def branchTest (i : Instr) (t : Strand) : Option (BitVec 5 × BitVec 5 × BitVec 12 × Bool) :=
  let x (r : BitVec 5) : Word := t.getS r
  match i with
  | .beq a b o => some (a, b, o, decide (x a = x b))
  | .bne a b o => some (a, b, o, decide (x a ≠ x b))
  | .blt a b o => some (a, b, o, decide ((x a).toInt < (x b).toInt))
  | .bge a b o => some (a, b, o, decide ((x b).toInt ≤ (x a).toInt))
  | .bltz a b o => some (a, b, o, decide ((x a).toNat < (x b).toNat))
  | .bgez a b o => some (a, b, o, decide ((x b).toNat ≤ (x a).toNat))
  | _ => none

/-- The levels a transfer to a target leaves (R84): from the outermost in, up to the first whose body does not hold the target. Levels stand innermost first. -/
def keptLevels (target : Word) (ls : List LoopLvl) : List LoopLvl :=
  (ls.reverse.takeWhile fun l => decide (l.start.toNat ≤ target.toNat ∧ target.toNat ≤ l.stop.toNat)).reverse

/-- Control has gone to a target (R84). -/
structure Jumped (s t : State) (target : Word) : Prop where
  pc : t.cur.pc = target
  loops : t.cur.loops = keptLevels target s.cur.loops

/-- The instructions that push a loop level: the registers read, the count and n12 (R82). -/
def loopCount (i : Instr) (t : Strand) : Option (List (BitVec 5) × Word × BitVec 12) :=
  match i with
  | .loop a n => some ([a], t.getS a, n)
  | .loopi c n => some ([], c.setWidth 64, n)
  | _ => none

/-- The CSR map of R78 with the fields of R79, as `getc` reads it. -/
def csrMap (s : State) : List (Nat × Word) :=
  let t := s.cur
  [(0x000, s.jtime), (0x001, s.gtime), (0x002, t.dlDef), (0x003, t.dlMax), (0x004, t.wst), (0x005, t.wabs),
   (0x006, t.fetrap.setWidth 64), (0x010, t.sid.setWidth 64)] ++
  ((List.range 8).map fun i => (0x011 + i, t.lvc.toList.getD i 0)) ++
  [(0x019, t.job.setWidth 64), (0x020, BitVec.ofNat 64 t.vty.code),
   (0x021, t.grant.setWidth 64 + BitVec.ofNat 64 (t.laneCount * 65536)), (0x022, t.vslip.setWidth 64),
   (0x023, t.ffx.setWidth 64), (0x024, t.efr.setWidth 64), (0x025, BitVec.ofNat 64 t.frm.code),
   (0x026, t.fflags.setWidth 64), (0x027, t.acw), (0x030, t.tbud), (0x031, t.tcap), (0x032, t.trec),
   (0x040, (if t.maint then 1#64 else 0#64) + (if t.mlease then 256#64 else 0#64)), (0x041, BitVec.ofNat 64 t.loops.length)]

/-- A strand's read/write CSRs. -/
def csrsOf (t : Strand) : Word × BitVec 32 × ElTy × BitVec 4 × BitVec 16 × BitVec 32 × Rnd × Flags × Word :=
  (t.dlDef, t.fetrap, t.vty, t.vslip, t.ffx, t.efr, t.frm, t.fflags, t.tbud)

/-- What a write of a CSR that R79 accepts leaves in the read/write CSRs; nothing where it is refused. -/
def csrWrite (t : Strand) (c : Nat) (v : Word) : Option (Word × BitVec 32 × ElTy × BitVec 4 × BitVec 16 × BitVec 32 × Rnd × Flags × Word) :=
  let n := v.toNat
  let r := csrsOf t
  if c = 0x002 then some { r with fst := if n ≤ t.dlMax.toNat then v else t.dlMax }
  else if c = 0x006 then (if n < 2 ^ 32 then some (r.1, BitVec.ofNat 32 (n / 2 * 2), r.2.2) else none)
  else if c = 0x020 then (ElTy.ofCode n).map fun e => (r.1, r.2.1, e, r.2.2.2)
  else if c = 0x022 then (if n < 16 then some (r.1, r.2.1, r.2.2.1, BitVec.ofNat 4 n, r.2.2.2.2) else none)
  else if c = 0x023 then (if n < 2 ^ 16 then some (r.1, r.2.1, r.2.2.1, r.2.2.2.1, BitVec.ofNat 16 n, r.2.2.2.2.2) else none)
  else if c = 0x024 then (if n < 2 ^ 32 then some (r.1, r.2.1, r.2.2.1, r.2.2.2.1, r.2.2.2.2.1, BitVec.ofNat 32 n, r.2.2.2.2.2.2) else none)
  else if c = 0x025 then (Rnd.ofCode n).map fun m => (r.1, r.2.1, r.2.2.1, r.2.2.2.1, r.2.2.2.2.1, r.2.2.2.2.2.1, m, r.2.2.2.2.2.2.2)
  else if c = 0x026 then (if n < 64 then some (r.1, r.2.1, r.2.2.1, r.2.2.2.1, r.2.2.2.2.1, r.2.2.2.2.2.1, r.2.2.2.2.2.2.1, BitVec.ofNat 6 n, r.2.2.2.2.2.2.2.2) else none)
  else if c = 0x030 then some (r.1, r.2.1, r.2.2.1, r.2.2.2.1, r.2.2.2.2.1, r.2.2.2.2.2.1, r.2.2.2.2.2.2.1, r.2.2.2.2.2.2.2.1, if n ≤ t.tcap.toNat then v else t.tcap)
  else none

/-- The current strand with its read/write CSRs taken from another: what a CSR write may change beside `scalarPart`. -/
def withCsrs (t u : Strand) : Strand :=
  { t with dlDef := u.dlDef, fetrap := u.fetrap, vty := u.vty, vslip := u.vslip, ffx := u.ffx, efr := u.efr, frm := u.frm, fflags := u.fflags, tbud := u.tbud }

/-- Nothing but the read/write CSRs, the scalar registers listed and what `scalarPart` names has changed. -/
structure OnlyCsrs (s t : State) (ds : List (BitVec 5)) : Prop where
  regs : ∀ r, r ∉ ds → t.cur.getS r = s.cur.getS r ∧ t.cur.isFull r = s.cur.isFull r
  rest : t = scalarPart { s with cur := withCsrs s.cur t.cur } t

end Sys2Proof.Claims
end

