-- ==== Sys2Proof/Claims/Memory.lean ====
section
/-! DEFINITION. What the rules say of loads, stores, atomics, waits and faults of one strand, for the statements about them. -/

namespace Sys2Proof.Claims

open Sys2Proof.Machine

/-- The state with `scalarPart` and what a wait writes (R74, R76) taken from `t`. -/
def waitPart (s t : State) : State :=
  { scalarPart s t with ticket := t.ticket, cur := { (scalarPart s t).cur with wst := t.cur.wst, wabs := t.cur.wabs } }

/-- Nothing but the scalar registers listed, `wst`, `wabs` and what `scalarPart` names has changed. -/
structure OnlyWaited (s t : State) (ds : List (BitVec 5)) : Prop where
  regs : ∀ r, r ∉ ds → t.cur.getS r = s.cur.getS r ∧ t.cur.isFull r = s.cur.isFull r
  rest : t = waitPart s t

/-- `wst` as R76 lays it out: outcome code in bits 7:0, VOIDREAD in bit 8, the phase in bits 47:16, the kind in bits 55:48. -/
def wstFields (v : Word) : Nat × Bool × BitVec 32 × Nat :=
  (v.toNat % 2 ^ 8, v.getLsbD 8, v.extractLsb' 16 32, v.toNat / 2 ^ 48 % 2 ^ 8)

/-- The place in the strand's own scratchpad that an address of window 0xF0 names (R279). -/
def ownLoc (s : State) (va : Word) : Nat := scratchLoc (coreOf s.cur.sid) (va.toNat % 2 ^ 56)

/-- An aligned access of n bytes to the strand's own scratchpad that R94 has no objection to: the core is bound to the strand's job (R280), no Sable region is live there and no write of one is left (R240, R272), no word is poisoned (R173), no queued `mst` of the strand is to write there (R180). -/
structure OwnAccess (s : State) (va : Word) (n : Nat) : Prop where
  size : n = 1 ∨ n = 2 ∨ n = 4 ∨ n = 8
  window : va.toNat / 2 ^ 56 = 0xF0
  range : va.toNat % 2 ^ 56 < 2 ^ 21
  aligned : va.toNat % n = 0
  lease : (s.core (coreOf s.cur.sid)).lease.job = some s.cur.job
  plain : s.roots = []
  written : ∀ w ∈ s.sable, overlaps w.loc w.n (ownLoc s va) n = false
  clean : s.poisoned (ownLoc s va) n = false
  apart : s.mstMeets (ownLoc s va) n = false

/-- No write to a range is unknown to the strand: each happens before its loads (R268). -/
def AllKnown (s : State) (loc n : Nat) : Prop :=
  ∀ w ∈ s.hist, overlaps w.loc w.n loc n = true → knownTo (s.jobStart s.cur.job) s.cur.hb w = true

/-- The scalar loads: destination, address register, offset, size and whether the value is sign-extended (R94). -/
def loadForm (i : Instr) : Option (BitVec 5 × BitVec 5 × BitVec 12 × Nat × Bool) :=
  match i with
  | .ldB d a o => some (d, a, o, 1, true)
  | .ldH d a o => some (d, a, o, 2, true)
  | .ldW d a o => some (d, a, o, 4, true)
  | .ldD d a o => some (d, a, o, 8, false)
  | .ldBz d a o => some (d, a, o, 1, false)
  | .ldHz d a o => some (d, a, o, 2, false)
  | .ldWz d a o => some (d, a, o, 4, false)
  | _ => none

/-- A number of n bytes as a word, sign- or zero-extended. -/
def extended (n : Nat) (sgn : Bool) (v : Nat) : Word :=
  if sgn ∧ 2 ^ (8 * n - 1) ≤ v then BitVec.ofInt 64 (Int.ofNat v - 2 ^ (8 * n)) else BitVec.ofNat 64 v

/-- The scalar stores: address register, data register, offset and size (R94). -/
def storeForm (i : Instr) : Option (BitVec 5 × BitVec 5 × BitVec 12 × Nat) :=
  match i with
  | .stB a b o => some (a, b, o, 1)
  | .stH a b o => some (a, b, o, 2)
  | .stW a b o => some (a, b, o, 4)
  | .stD a b o => some (a, b, o, 8)
  | _ => none

/-- An atomic's fields: destination, address, operand, scope, `rl`, `aq`. -/
structure AmoForm where
  d : BitVec 5
  a : BitVec 5
  b : BitVec 5
  sc : BitVec 3
  rl : BitVec 1
  aq : BitVec 1

/-- The signed value of 64 bits. -/
def signed64 (v : Nat) : Int := (BitVec.ofNat 64 v).toInt

/-- The atomics of R286: fields, size, whether the old value is sign-extended, and the new value from the old, the operand and sd. The f32 forms take the model's f32 addition and maximum. -/
def amoForm (i : Instr) : Option (AmoForm × Nat × Bool × (Nat → Nat → Nat → Nat)) :=
  match i with
  | .amoaddW d a b sc rl aq => some (⟨d, a, b, sc, rl, aq⟩, 4, true, fun old v _ => (old + v) % 2 ^ 32)
  | .amoaddD d a b sc rl aq => some (⟨d, a, b, sc, rl, aq⟩, 8, false, fun old v _ => (old + v) % 2 ^ 64)
  | .amoswapW d a b sc rl aq => some (⟨d, a, b, sc, rl, aq⟩, 4, true, fun _ v _ => v)
  | .amoswapD d a b sc rl aq => some (⟨d, a, b, sc, rl, aq⟩, 8, false, fun _ v _ => v)
  | .amoandD d a b sc rl aq => some (⟨d, a, b, sc, rl, aq⟩, 8, false, fun old v _ => old &&& v)
  | .amoorD d a b sc rl aq => some (⟨d, a, b, sc, rl, aq⟩, 8, false, fun old v _ => old ||| v)
  | .amoxorD d a b sc rl aq => some (⟨d, a, b, sc, rl, aq⟩, 8, false, fun old v _ => old ^^^ v)
  | .amominD d a b sc rl aq => some (⟨d, a, b, sc, rl, aq⟩, 8, false, fun old v _ => if signed64 v < signed64 old then v else old)
  | .amomaxD d a b sc rl aq => some (⟨d, a, b, sc, rl, aq⟩, 8, false, fun old v _ => if signed64 old < signed64 v then v else old)
  | .amominzD d a b sc rl aq => some (⟨d, a, b, sc, rl, aq⟩, 8, false, fun old v _ => Nat.min old v)
  | .amomaxzD d a b sc rl aq => some (⟨d, a, b, sc, rl, aq⟩, 8, false, fun old v _ => Nat.max old v)
  | .amocasD d a b sc rl aq => some (⟨d, a, b, sc, rl, aq⟩, 8, false, fun old v c => if old = c then v else old)
  | .amofaddS d a b sc rl aq => some (⟨d, a, b, sc, rl, aq⟩, 4, false, fun old v _ => (addEl .f32 .rne old v).1)
  | .amofmaxS d a b sc rl aq => some (⟨d, a, b, sc, rl, aq⟩, 4, false, fun old v _ => (maxEl .f32 old v).1)
  | _ => none

/-- An atomic's strand has nothing of its own in the way: no reply waits for it, no pending store meets the bytes and none is on its way to a peer; with `rl`, no store is pending at all and no `mst` is queued (R264, R270, R343). -/
structure AmoCalm (s : State) (loc n : Nat) (rl : BitVec 1) : Prop where
  fresh : s.cur.replies = []
  apart : ∀ p ∈ s.cur.pend, overlaps p.loc p.n loc n = false
  settled : s.cur.out = []
  published : rl = 1 → s.cur.pend = [] ∧ s.mstQueued = false

/-- What an atomic may change beside `scalarPart`: memory and its history, and, with `rl`, the releases. -/
def amoPart (s t : State) : State :=
  { scalarPart s t with mem := t.mem, hist := t.hist, far := t.far, nextW := t.nextW, poison := t.poison, rels := t.rels, nextRel := t.nextRel }

/-- The record of a fault of the current strand as R105 fills it: code, strand, pc, address, kind and scope. -/
def plainRec (s : State) (c : FaultCode) (va : Word) (kind scope : Nat) : FaultRec :=
  ⟨c, false, false, false, s.cur.sid, s.cur.pc, va, kind, scope, 0, 0, 0, false, none, none⟩

/-- The record's ring has room and no record of the job merges with it (R298, R300). -/
structure RingRoom (s : State) (j : Job) (r : FaultRec) : Prop where
  apart : s.mergeTarget j r = none
  room : s.fqHead j - s.fqTail j < s.fqCap j
  none_held : j.held = []

/-- A fault of the current strand whose record gets its own place in the ring, and which leaves the strand in its slot: served by the paging service, or under policy freeze or continue (R298, R301, R324). -/
structure Postable (s : State) (j : Job) (r : FaultRec) : Prop where
  job : s.job? s.cur.job = some j
  ring : RingRoom s j r
  plain : r.big = false
  runs : j.slate.st = .running
  key : r.code ≠ .keyRevoked
  stays : s.paged j r.code = false → j.rec_.policy ≠ .stop

/-- The record stands in the ring and nothing else in memory has changed; the strand stands at the faulting instruction with its registers as before it, held, frozen or parked as R301 and R324 say; `ffx` names the element a vector instruction failed at (R131). -/
structure FaultTaken (s t : State) (j : Job) (r : FaultRec) : Prop where
  mem : t.mem = (s.ringPut j (r.bytes j.id s.gtime) []).mem
  cur : t.cur = { s.cur with
    wait := none, buf := [], refused := [], replies := [], resv := s.cur.resv.filter Resv.isSwap, seek := none, ffx := (r.elem.map (BitVec.ofNat 16)).getD s.cur.ffx
    run := (if s.paged j r.code then .held (s.fqHead j) s.jtime else if j.rec_.policy = .freeze then .frozen (some (s.fqHead j)) else .parked (s.fqHead j)) }

/-- The current strand has taken a fault (R106). -/
def Faulted (s t : State) (r : FaultRec) : Prop := t = s.takeFault r ∧ ∀ j, Postable s j r → FaultTaken s t j r

end Sys2Proof.Claims
end

