-- ==== Sys2Proof/Claims/Vector.lean ====
section
/-! DEFINITION. What the rules say of the vector unit, for the statements about it. -/

namespace Sys2Proof.Claims

open Sys2Proof.Machine

/-- A vector instruction may issue: its scalar registers are full (R71), the strand holds a lane group (R128), no `mrd` of it waits in the vector queue (R179), and none of its vector registers is a bound stream register (R191). -/
structure VReady (s : State) (scal : List (BitVec 5)) (vecs : List (BitVec 5)) : Prop where
  ready : Ready s scal
  lanes : s.cur.laneCount ≠ 0
  grant : s.cur.laneCount ≤ 16
  rows : s.mrdQueued = false
  unbound : ∀ v ∈ vecs, s.cur.stream v = none

/-- Scalar registers as they were. -/
def SameScalars (s t : State) (ds : List (BitVec 5)) : Prop :=
  ∀ r, r ∉ ds → t.cur.getS r = s.cur.getS r ∧ t.cur.isFull r = s.cur.isFull r

/-- Only the vector registers listed and the sticky flags have changed, beside what `scalarPart` names (and of that no scalar register). -/
structure OnlyVectors (s t : State) (vs : List (BitVec 5)) : Prop where
  scalars : SameScalars s t []
  vecs : ∀ v, v ∉ vs → t.cur.getV v = s.cur.getV v
  rest : t = { scalarPart s t with cur := { (scalarPart s t).cur with vregs := t.cur.vregs, fflags := t.cur.fflags } }

/-- Only the mask registers listed have changed, beside what `scalarPart` names (and of that only the scalar registers listed). -/
structure OnlyMasks (s t : State) (ks ds : List (BitVec 5)) : Prop where
  scalars : SameScalars s t ds
  masks : ∀ k, k ∉ ks → t.cur.getK k = s.cur.getK k
  rest : t = { scalarPart s t with cur := { (scalarPart s t).cur with kregs := t.cur.kregs } }

/-- A vector destination as R129 and R130 give it: an active position takes its result, every other position below n and every bit above them stays. -/
def Elementwise (w n : Nat) (on : Nat → Bool) (old new : VReg) (f : Nat → Nat) : Prop :=
  (∀ i, i < n → elemAt w new i = if on i then f i % 2 ^ w else elemAt w old i) ∧
  new.toNat / 2 ^ (n * w) = old.toNat / 2 ^ (n * w)

/-- Active positions under a km field, over all positions below N (R129). -/
def on (t : Strand) (k : BitVec 5) (i : Nat) : Bool := decide (i < t.n) && (decide (k = 31) || (t.getK k).getLsbD i)

/-- Flags raised over positions together (R122). -/
def flagsOver (n : Nat) (on : Nat → Bool) (f : Nat → Flags) : Flags := ((List.range n).filter on).foldl (fun a i => a ||| f i) 0

/-- A vector arithmetic form: destination, first and second source, mask, whether the second source is a scalar register, the types taken, whether it rounds under `frm` at a floating type, and the result at a type and mode from d, a and b (R141). -/
structure VForm where
  d : BitVec 5
  a : BitVec 5
  b : BitVec 5
  k : BitVec 5
  scal : Bool
  types : ElTy → Bool
  rounds : Bool
  el : ElTy → Rnd → Nat → Nat → Nat → Nat × Flags

/-- The types with an integer or a floating code (R137). -/
def intOrFloat (t : ElTy) : Bool := isInt t || isF t
/-- All but the block types. -/
def notBlock (t : ElTy) : Bool := isInt t || isF t || isE t

/-- VARI and VARS (R141). The element operations on floats are those of R117 and R118; an integer's are stated by themselves. -/
def vForm (i : Instr) : Option VForm :=
  match i with
  | .vadd d a b k => some ⟨d, a, b, k, false, intOrFloat, true, fun t m _ x y => addEl t m x y⟩
  | .vsub d a b k => some ⟨d, a, b, k, false, intOrFloat, true, fun t m _ x y => subEl t m x y⟩
  | .vmul d a b k => some ⟨d, a, b, k, false, intOrFloat, true, fun t m _ x y => mulEl t m x y⟩
  | .vmac d a b k => some ⟨d, a, b, k, false, intOrFloat, true, fun t m o x y => macEl t m o x y⟩
  | .vnmac d a b k => some ⟨d, a, b, k, false, intOrFloat, true, fun t m o x y => nmacEl t m o x y⟩
  | .vmin d a b k => some ⟨d, a, b, k, false, intOrFloat, false, fun t _ _ x y => minEl t x y⟩
  | .vmax d a b k => some ⟨d, a, b, k, false, intOrFloat, false, fun t _ _ x y => maxEl t x y⟩
  | .vdiv d a b k => some ⟨d, a, b, k, false, intOrFloat, true, fun t m _ x y => divEl t m x y⟩
  | .vand d a b k => some ⟨d, a, b, k, false, isInt, false, fun _ _ _ x y => (x &&& y, 0)⟩
  | .vor d a b k => some ⟨d, a, b, k, false, isInt, false, fun _ _ _ x y => (x ||| y, 0)⟩
  | .vxor d a b k => some ⟨d, a, b, k, false, isInt, false, fun _ _ _ x y => (x ^^^ y, 0)⟩
  | .vsll d a b k => some ⟨d, a, b, k, false, isInt, false, fun t _ _ x y => (x * 2 ^ (y % widthOf t), 0)⟩
  | .vsrl d a b k => some ⟨d, a, b, k, false, isInt, false, fun t _ _ x y => (x / 2 ^ (y % widthOf t), 0)⟩
  | .vsra d a b k => some ⟨d, a, b, k, false, isInt, false, fun t _ _ x y => sraEl t x y⟩
  | .vmulh d a b k => some ⟨d, a, b, k, false, isInt, false, fun t _ _ x y => mulhEl t true x y⟩
  | .vmulhz d a b k => some ⟨d, a, b, k, false, isInt, false, fun t _ _ x y => (x * y / 2 ^ widthOf t, 0)⟩
  | .vaddS d a b k => some ⟨d, a, b, k, true, intOrFloat, true, fun t m _ x y => addEl t m x y⟩
  | .vsubS d a b k => some ⟨d, a, b, k, true, intOrFloat, true, fun t m _ x y => subEl t m x y⟩
  | .vmulS d a b k => some ⟨d, a, b, k, true, intOrFloat, true, fun t m _ x y => mulEl t m x y⟩
  | .vmacS d a b k => some ⟨d, a, b, k, true, intOrFloat, true, fun t m o x y => macEl t m o x y⟩
  | .vnmacS d a b k => some ⟨d, a, b, k, true, intOrFloat, true, fun t m o x y => nmacEl t m o x y⟩
  | .vminS d a b k => some ⟨d, a, b, k, true, intOrFloat, false, fun t _ _ x y => minEl t x y⟩
  | .vmaxS d a b k => some ⟨d, a, b, k, true, intOrFloat, false, fun t _ _ x y => maxEl t x y⟩
  | .vdivS d a b k => some ⟨d, a, b, k, true, intOrFloat, true, fun t m _ x y => divEl t m x y⟩
  | .vandS d a b k => some ⟨d, a, b, k, true, isInt, false, fun _ _ _ x y => (x &&& y, 0)⟩
  | .vorS d a b k => some ⟨d, a, b, k, true, isInt, false, fun _ _ _ x y => (x ||| y, 0)⟩
  | .vxorS d a b k => some ⟨d, a, b, k, true, isInt, false, fun _ _ _ x y => (x ^^^ y, 0)⟩
  | .vsllS d a b k => some ⟨d, a, b, k, true, isInt, false, fun t _ _ x y => (x * 2 ^ (y % widthOf t), 0)⟩
  | .vsrlS d a b k => some ⟨d, a, b, k, true, isInt, false, fun t _ _ x y => (x / 2 ^ (y % widthOf t), 0)⟩
  | .vsraS d a b k => some ⟨d, a, b, k, true, isInt, false, fun t _ _ x y => sraEl t x y⟩
  | .vmulhS d a b k => some ⟨d, a, b, k, true, isInt, false, fun t _ _ x y => mulhEl t true x y⟩
  | .vmulhzS d a b k => some ⟨d, a, b, k, true, isInt, false, fun t _ _ x y => (x * y / 2 ^ widthOf t, 0)⟩
  | .vabs d a k => some ⟨d, a, a, k, false, intOrFloat, false, fun t _ _ x _ => absEl t x⟩
  | .vneg d a k => some ⟨d, a, a, k, false, intOrFloat, false, fun t _ _ x _ => negEl t x⟩
  | .vsqrt d a k => some ⟨d, a, a, k, false, isF, true, fun t m _ x _ => sqrtEl t m x⟩
  | .vrcp d a k => some ⟨d, a, a, k, false, isF, true, fun t m _ x _ => rcpEl t m x⟩
  | .vrsqrt d a k => some ⟨d, a, a, k, false, isF, true, fun t m _ x _ => rsqrtEl t m x⟩
  | .vexp2 d a k => some ⟨d, a, a, k, false, isF, true, fun t m _ x _ => exp2El t m x⟩
  | .vmov d a k => some ⟨d, a, a, k, false, notBlock, false, fun _ _ _ x _ => (x, 0)⟩
  | _ => none

/-- The value of a w-bit code as a two's-complement number. -/
def signedAt (w c : Nat) : Int := if 2 ^ (w - 1) ≤ c then (c : Int) - 2 ^ w else c

/-- The value of an integer element: signed for i types, unsigned for z types. -/
def elInt (t : ElTy) (c : Nat) : Int := if isSigned t then signedAt (widthOf t) c else c

/-- An integer modulo 2^w. -/
def wrapped (w : Nat) (x : Int) : Nat := (x % (2 ^ w : Nat)).toNat

/-- The compares of R142: destination, sources, mask, whether the second source is a scalar register, the types, and the relation. -/
def cmpForm (i : Instr) : Option (BitVec 5 × BitVec 5 × BitVec 5 × BitVec 5 × Bool × (ElTy → Bool) × (ElTy → Nat → Nat → Bool)) :=
  let eq (t : ElTy) (x y : Nat) : Bool := if isF t then eqF (elemVal t x) (elemVal t y) else decide (x = y)
  let lt (t : ElTy) (x y : Nat) : Bool := if isF t then ltF (elemVal t x) (elemVal t y) else decide (elInt t x < elInt t y)
  let le (t : ElTy) (x y : Nat) : Bool := lt t x y || eq t x y
  match i with
  | .vceq d a b k => some (d, a, b, k, false, intOrFloat, eq)
  | .vcne d a b k => some (d, a, b, k, false, intOrFloat, fun t x y => !eq t x y)
  | .vclt d a b k => some (d, a, b, k, false, intOrFloat, lt)
  | .vcle d a b k => some (d, a, b, k, false, intOrFloat, le)
  | .vcltz d a b k => some (d, a, b, k, false, isInt, fun _ x y => decide (x < y))
  | .vclez d a b k => some (d, a, b, k, false, isInt, fun _ x y => decide (x ≤ y))
  | .vcun d a b k => some (d, a, b, k, false, isF, fun t x y => decide (elemVal t x = .nan ∨ elemVal t y = .nan))
  | .vceqS d a b k => some (d, a, b, k, true, intOrFloat, eq)
  | .vcneS d a b k => some (d, a, b, k, true, intOrFloat, fun t x y => !eq t x y)
  | .vcltS d a b k => some (d, a, b, k, true, intOrFloat, lt)
  | .vcleS d a b k => some (d, a, b, k, true, intOrFloat, le)
  | .vcgtS d a b k => some (d, a, b, k, true, intOrFloat, fun t x y => lt t y x)
  | .vcgeS d a b k => some (d, a, b, k, true, intOrFloat, fun t x y => le t y x)
  | _ => none

/-- The mask-logic instructions of R143: destination, governing mask, scalar sources, and the bit at a position. -/
def maskForm (i : Instr) (t : Strand) : Option (BitVec 5 × BitVec 5 × List (BitVec 5) × (Nat → Bool)) :=
  let bit (r : BitVec 5) (i : Nat) : Bool := (t.getK r).getLsbD i
  match i with
  | .kand d a b k => some (d, k, [], fun i => bit a i && bit b i)
  | .kor d a b k => some (d, k, [], fun i => bit a i || bit b i)
  | .kxor d a b k => some (d, k, [], fun i => bit a i != bit b i)
  | .kandn d a b k => some (d, k, [], fun i => bit a i && !bit b i)
  | .knot d a k => some (d, k, [], fun i => !bit a i)
  | .kset d k => some (d, k, [], fun _ => true)
  | .kclr d k => some (d, k, [], fun _ => false)
  | .kwhile d a b => some (d, 31, [a, b], fun i => decide ((t.getS a).toInt + i < (t.getS b).toInt))
  | _ => none

/-- A permute: destination, mask, scalar sources, vector sources, and the result at a position (R145). -/
def permForm (i : Instr) (t : Strand) : Option (BitVec 5 × BitVec 5 × List (BitVec 5) × List (BitVec 5) × (Nat → Nat)) :=
  let n := t.n
  let w := widthOf t.vty
  let x (v : BitVec 5) (j : Nat) : Nat := if j < n then elemAt w (t.getV v) j else 0
  let num (r : BitVec 5) : Nat := (t.getS r).toNat
  let below (k : BitVec 5) (i : Nat) : Nat := ((List.range i).filter (on t k)).length
  match i with
  | .vbcast d a k => some (d, k, [a], [], fun _ => num a % 2 ^ w)
  | .vslup d a b k => some (d, k, [b], [a], fun i => if num b ≤ i then x a (i - num b) else 0)
  | .vsldn d a b k => some (d, k, [b], [a], fun i => x a (i + num b))
  | .vperm d a b k => some (d, k, [], [a, b], fun i => x a (x b i))
  | .vzipl d a b k => some (d, k, [], [a, b], fun i => if i % 2 = 0 then x a (i / 2) else x b ((i - 1) / 2))
  | .vziph d a b k => some (d, k, [], [a, b], fun i => if i % 2 = 0 then x a (i / 2 + n / 2) else x b ((i - 1) / 2 + n / 2))
  | .vunzpe d a b k => some (d, k, [], [a, b], fun i => if i < n / 2 then x a (2 * i) else x b (2 * (i - n / 2)))
  | .vunzpo d a b k => some (d, k, [], [a, b], fun i => if i < n / 2 then x a (2 * i + 1) else x b (2 * (i - n / 2) + 1))
  | .vexpnd d a k => some (d, k, [], [a], fun i => x a (below k i))
  | .viota d k => some (d, k, [], [], fun i => below k i)
  | .vrev d a k => some (d, k, [], [a], fun i => x a (n - 1 - i))
  | .vcmprs d a k => some (d, 31, [], [a], fun i => (((List.range n).filter (on t k)).map (x a)).getD i 0)
  | _ => none

/-- A result for a scalar register: sign-extended for i types, zero-extended otherwise (R145, R146). -/
def toScalar (t : ElTy) (c : Nat) : Word :=
  let x := c % 2 ^ widthOf t
  if isSigned t then BitVec.ofInt 64 (signedAt (widthOf t) x) else BitVec.ofNat 64 x

/-- A reduction: destination, source, mask, the types, whether it rounds, the type of the result, the leaf of an element, how two combine, and the result of nothing (R123, R146). -/
structure RedForm where
  d : BitVec 5
  a : BitVec 5
  k : BitVec 5
  types : ElTy → Bool
  rounds : Bool
  ty : ElTy
  leaf : Nat → Nat
  join : Nat → Nat → Nat × Flags
  none_ : Nat

/-- The reductions of R146. -/
def redForm (i : Instr) (t : Strand) : Option RedForm :=
  let y := t.vty
  match i with
  | .vrsum d a k => some ⟨d, a, k, intOrFloat, true, y, id, addEl y t.frm, 0⟩
  | .vrmax d a k => some ⟨d, a, k, intOrFloat, false, y, id, maxEl y, leastCode y⟩
  | .vrmin d a k => some ⟨d, a, k, intOrFloat, false, y, id, minEl y, greatestCode y⟩
  | .vrand d a k => some ⟨d, a, k, isInt, false, y, id, fun x z => (x &&& z, 0), 2 ^ widthOf y - 1⟩
  | .vror d a k => some ⟨d, a, k, isInt, false, y, id, fun x z => (x ||| z, 0), 0⟩
  | .vrsumw d a k => some ⟨d, a, k, tySumw, true, wideTy y, widenEl y, addEl (wideTy y) t.frm, 0⟩
  | _ => none

/-- The pairwise tree of R123 over element positions: the whole below 2^levels splits in the middle; a side with nothing active lets the other pass. -/
def treeOf (join : Nat → Nat → Nat × Flags) (leaf : Nat → Option Nat) : (levels from_ : Nat) → Option Nat × Flags
  | 0, i => (leaf i, 0)
  | l + 1, i =>
    let a := treeOf join leaf l i
    let b := treeOf join leaf l (i + 2 ^ l)
    match a.1, b.1 with
    | some x, some z => (some (join x z).1, a.2 ||| b.2 ||| (join x z).2)
    | some x, none => (some x, a.2 ||| b.2)
    | none, z => (z, a.2 ||| b.2)

/-- What a vector scalar result leaves: the destination empty, the value queued for the vector unit to deliver (R134); nothing where it is `s0`. -/
structure Queued (s t : State) (d : BitVec 5) (v : Word) : Prop where
  empty : d ≠ 0 → t.cur.isFull d = false
  queue : t.cur.vq = s.cur.vq ++ [⟨d, v⟩]
  scalars : SameScalars s t [d]
  rest : t = { scalarPart s t with cur := { (scalarPart s t).cur with vq := t.cur.vq, fflags := t.cur.fflags } }

/-- The vector loads of R152: destination, mask, scalar and vector sources, types and the address of an element. -/
def vloadForm (i : Instr) (t : Strand) : Option (BitVec 5 × BitVec 5 × List (BitVec 5) × List (BitVec 5) × (ElTy → Bool) × (Nat → Word)) :=
  let w := widthOf t.vty
  match i with
  | .vld d a k o | .vldff d a k o => some (d, k, [a], [], notBlock, fun i => t.getS a + BitVec.ofInt 64 (o.toInt * 64) + BitVec.ofNat 64 (i * (w / 8)))
  | .vlds d a b k => some (d, k, [a, b], [], notBlock, fun i => t.getS a + BitVec.ofNat 64 i * t.getS b)
  | .vldx d a b k => some (d, k, [a], [b], tyWide, fun i => t.getS a + BitVec.ofNat 64 (elemAt w (t.getV b) i))
  | _ => none

/-- The vector stores of R152: data register, mask, scalar and vector sources, types and the address of an element. -/
def vstoreForm (i : Instr) (t : Strand) : Option (BitVec 5 × BitVec 5 × List (BitVec 5) × List (BitVec 5) × (ElTy → Bool) × (Nat → Word)) :=
  let w := widthOf t.vty
  match i with
  | .vst d a k o => some (d, k, [a], [], notBlock, fun i => t.getS a + BitVec.ofInt 64 (o.toInt * 64) + BitVec.ofNat 64 (i * (w / 8)))
  | .vsts d a b k => some (d, k, [a, b], [], notBlock, fun i => t.getS a + BitVec.ofNat 64 i * t.getS b)
  | .vstx d a b k => some (d, k, [a], [b], tyWide, fun i => t.getS a + BitVec.ofNat 64 (elemAt w (t.getV b) i))
  | _ => none

/-- What an aligned own-scratchpad load of n bytes reads with some stores of the strand pending: the value last in home order with those stores over it (R268). -/
def ownWith (s : State) (ps : List Pend) (va : Word) (n : Nat) : Nat := natOfBytes (overlayPend (ownLoc s va) (s.bytesAt (ownLoc s va) n) ps)

/-- The same with the stores that are pending now. -/
def ownValue (s : State) (va : Word) (n : Nat) : Nat := ownWith s s.cur.pend va n

/-- A store the strand has made and not yet published (R264), with the tag of the guard over it (R225). -/
def pendOf (s : State) (va : Word) (n v : Nat) : Pend := ⟨va, ownLoc s va, n, v % 2 ^ (8 * n), s.tagFor va (ownLoc s va), none⟩

/-- No watermark register is bound. -/
def NoMarks (s : State) : Prop := s.cur.wregs = Vector.replicate 4 none

/-! Accumulation windows (R79, R166 to R168). -/

/-- An element of a lane group's copy of the window, by its offset in the scratchpad; none while it is untouched. -/
def winCell (l : List WinEl) (g off : Nat) : Option Nat := (l.find? fun x => decide (x.group = g ∧ x.off = off)).map (·.val)

/-- A copy element after an addend: the wrapped or rounded sum (R167); the first addend is stored as it is (log 63). -/
def added (ty : ElTy) (c : Option Nat) (v : Nat) : Option Nat := some (match c with
  | none => v
  | some x => (addEl ty .rne x v).1)

/-- The flags that an addend to a copy element raises (R122, R167). -/
def addedFlags (ty : ElTy) (c : Option Nat) (v : Nat) : Flags := match c with
  | none => 0
  | some x => (addEl ty .rne x v).2

/-- The touched elements stand in ascending order of lane group and address, each once (R168). -/
def InOrder (l : List WinEl) : Prop := l.Pairwise fun x y => x.group < y.group ∨ (x.group = y.group ∧ x.off < y.off)

/-- The address of an offset in the strand's own scratchpad. -/
def ownVa (off : Nat) : Word := BitVec.ofNat 64 (0xF0 * 2 ^ 56 + off)

/-- The strand's pending stores after a merge of touched elements, one after the other: each adds to what its place then reads (R168). -/
def mergedStores (s : State) (ty : ElTy) : List WinEl → List Pend → List Pend
  | [], ps => ps
  | x :: xs, ps =>
    let n := widthOf ty / 8
    mergedStores s ty xs (ps ++ [pendOf s (ownVa x.off) n (addEl ty .rne (ownWith s ps (ownVa x.off) n) x.val).1])

/-! Conversions (R113, R115, R120, R148, R149). -/

/-- One step of the residual chain of R120 on a source code: the result's code, the flags it raises, and the residual after it. -/
def efbStep (src dst : ElTy) (sat : Bool) (e : FVal) (c : Nat) : Nat × Flags × FVal :=
  let zero : FVal := .fin false 0 0
  let x := elemVal src c
  if notFinite x then ((convertVal dst .rne sat x).1, (convertVal dst .rne sat x).2, zero)
  else
    let z := (addF .rne x e).1
    let y := convertVal dst .rne sat z
    if notFinite (elemVal dst y.1) then (y.1, y.2, zero)
    else
      let r := decodeF fmtF32 (roundF .f32 fmtF32 .rne (addF .rne z (negF (elemVal dst y.1))).1).1
      (y.1, y.2, match r with
        | .inf _ => zero
        | v => v)

/-- The residual before a position of a chain that starts from the value of `efr` (R120): positions masked off are skipped. -/
def residualAt (src dst : ElTy) (sat : Bool) (lit : Nat → Bool) (code : Nat → Nat) (efr : BitVec 32) : Nat → FVal
  | 0 => decodeF fmtF32 efr.toNat
  | i + 1 => let e := residualAt src dst sat lit code efr i
    if lit i then (efbStep src dst sat e (code i)).2.2 else e

/-- The values of a block's active elements for packing (R113, R149): element i of block j. -/
def blockEls (ty : ElTy) (lit : Nat → Bool) (code : Nat → Nat) (j : Nat) : List (Option FVal) :=
  (List.range 32).map fun i => if lit (32 * j + i) then some (elemVal ty (code (32 * j + i))) else none

/-- Whether a block has an active element. -/
def blockLit (lit : Nat → Bool) (j : Nat) : Bool := (List.range 32).any fun i => lit (32 * j + i)

/-! Pages of blocks (R114, R158, R291, R293). -/

/-- Offsets of block b's element bytes and scale bytes within its 256 KiB unit (R114): in groups of 16 blocks for geometry 0, in two planes for geometry 1. -/
def blockSpot (ty : ElTy) (geom b : Nat) : Nat × Nat :=
  let eb := if widthOf ty = 4 then 16 else 32
  let sb := if isTwin ty then 2 else 1
  let all := if widthOf ty = 4 then 8192 else 4096
  if geom = 0 then (b / 16 * (16 * (eb + sb)) + b % 16 * eb, b / 16 * (16 * (eb + sb)) + 16 * eb + b % 16 * sb)
  else (b * eb, all * eb + b * sb)

/-- The page of an address is one of blocks of a type in local HBM; the strand's core has its translation, which permits the access under the job's key (R293, R295). -/
structure BlockPage (s : State) (va : Word) (write : Bool) (u : TlbEntry) (ty : ElTy) : Prop where
  global : va.toNat < 2 ^ 56
  cached : ∀ x, x / 2 ^ 18 = va.toNat / 2 ^ 18 → s.tlbFind (clusterOf s.cur.sid) (some (coreOf s.cur.sid)) (s.jobRoot s.cur.job).1 x write = some u
  own : u.core = some (coreOf s.cur.sid)
  kind : u.leaf.extractLsb' 8 2 = 0
  may : u.leaf.getLsbD (if write then 2 else 1) = true
  key : (u.leaf.extractLsb' 52 12).toNat = (s.jobRoot s.cur.job).2
  live : (s.pkg.keys.get ⟨false, false, 0⟩ (u.leaf.extractLsb' 52 12).toNat).revoked = false
  tag : 0 < (u.leaf.extractLsb' 10 4).toNat ∧ (u.leaf.extractLsb' 10 4).toNat ≤ 5 ∧ ElTy.ofCode (13 + (u.leaf.extractLsb' 10 4).toNat) = some ty
  geom : (u.leaf.extractLsb' 14 2).toNat ≤ 1

/-- The place of byte 0 of the 256 KiB unit that an address lies in, through a leaf. -/
def unitLoc (u : TlbEntry) (va : Word) : Nat :=
  (u.leaf.extractLsb' 18 34).toNat * 2 ^ 18 + (if u.big then va.toNat % 2 ^ 29 / 2 ^ 18 * 2 ^ 18 else 0)

/-- The block that element i of a formatted access meets: the address and the place of its element bytes, and of its scale bytes (R158). -/
structure BlockOf where
  eva : Word
  el : Nat
  sva : Word
  sl : Nat

/-- The number of the block in its unit: the access starts at logical element u, or 2u for 4-bit types. -/
def blockOf (u : TlbEntry) (ty : ElTy) (start : Word) (i : Nat) : BlockOf :=
  let u0 := start.toNat % 2 ^ 18
  let spot := blockSpot ty (u.leaf.extractLsb' 14 2).toNat ((u0 * (if widthOf ty = 4 then 2 else 1) + i) / 32)
  ⟨start - BitVec.ofNat 64 u0 + BitVec.ofNat 64 spot.1, unitLoc u start + spot.1, start - BitVec.ofNat 64 u0 + BitVec.ofNat 64 spot.2, unitLoc u start + spot.2⟩

/-- A formatted access from a start address has every active element in the logical view, and R158 has no objection to their blocks. -/
structure BlocksOk (s : State) (start : Word) (u : TlbEntry) (ty : ElTy) (lit : List Nat) : Prop where
  even : start.toNat % 2 ^ 18 * (if widthOf ty = 4 then 2 else 1) % 32 = 0
  view : ∀ i ∈ lit, start.toNat % 2 ^ 18 * (if widthOf ty = 4 then 2 else 1) + i < 0x20000 * (if widthOf ty = 4 then 2 else 1)
  plain : s.roots = []
  written : ∀ w ∈ s.sable, ∀ i ∈ lit, overlaps w.loc w.n (blockOf u ty start i).el (if widthOf ty = 4 then 16 else 32) = false ∧ overlaps w.loc w.n (blockOf u ty start i).sl (if isTwin ty then 2 else 1) = false
  pend : s.cur.pend = []
  guards : ∀ g ∈ s.cur.guards, staleVa g.lock = none
  locks : ∀ l ∈ s.cur.locks, staleVa l = none
  clean : ∀ i ∈ lit, s.poisoned (blockOf u ty start i).el (if widthOf ty = 4 then 16 else 32) = false ∧ s.poisoned (blockOf u ty start i).sl (if isTwin ty then 2 else 1) = false

/-- Every write to the blocks that the active elements meet is known to the strand (R268). -/
def BlocksKnown (s : State) (start : Word) (u : TlbEntry) (ty : ElTy) (lit : List Nat) : Prop :=
  ∀ i ∈ lit, AllKnown s (blockOf u ty start i).el (if widthOf ty = 4 then 16 else 32) ∧ AllKnown s (blockOf u ty start i).sl (if isTwin ty then 2 else 1)

/-- Element i of a formatted load, as its block stands in memory: its code and the scales X0 and X1 (R111, R112, R114). -/
def blockElem (s : State) (start : Word) (u : TlbEntry) (ty : ElTy) (i : Nat) : Nat × Nat × Nat :=
  let b := blockOf u ty start i
  let key := (s.jobRoot s.cur.job).2
  let els := s.peekKey key b.el (if widthOf ty = 4 then 16 else 32)
  let scs := s.peekKey key b.sl (if isTwin ty then 2 else 1)
  (els / 2 ^ (i % 32 * widthOf ty) % 2 ^ widthOf ty, scs % 256, if isTwin ty then scs / 256 else scs % 256)

end Sys2Proof.Claims
end

