-- ==== Sys2Proof/Claims/Units.lean ====
section
/-! DEFINITION. What the rules say of the units beside the front end: the matrix unit, the streamers and copy engines, and what their events leave alone. -/

namespace Sys2Proof.Claims

open Sys2Proof.Machine

/-- Nothing outside the cores has changed, and of the cores only one. -/
structure OnlyCore (s t : State) (c : Nat) : Prop where
  rest : t = { s with cores := t.cores }
  others : ∀ k, k ≠ c → t.core k = s.core k

/-- Nothing outside the clusters has changed, and of the clusters only one. -/
structure OnlyCluster (s t : State) (c : Nat) : Prop where
  rest : t = { s with clusters := t.clusters }
  others : ∀ k, k ≠ c → t.cluster k = s.cluster k

/-- A MAT instruction may issue: registers full, the job holds the core's matrix lease (R176), the queue has room (R179). -/
structure MReady (s : State) (srcs : List (BitVec 5)) : Prop where
  ready : Ready s srcs
  lease : s.cur.mlease = true
  room : (s.core s.curCore).matrix.used < 16

/-- The entry an instruction of the current strand puts into the matrix queue. -/
def entryOf (s : State) (op : MOp) : MEntry := ⟨s.cur.uid, s.cur.pc, op, 0⟩

/-- The state with one more entry in the matrix queue of the current strand's core. -/
def queued (s : State) (op : MOp) : State :=
  s.onCore s.curCore fun c => { c with matrix := { c.matrix with queue := c.matrix.queue ++ [entryOf s op] } }

/-- An instruction that only queues work for the matrix unit has completed in order. -/
structure Enqueued (s t : State) (op : MOp) : Prop where
  matrix : (t.core s.curCore).matrix = { (s.core s.curCore).matrix with queue := (s.core s.curCore).matrix.queue ++ [entryOf s op] }
  others : ∀ k, k ≠ s.curCore → t.core k = s.core k
  rest : OnlyScalars { s with cores := t.cores } t []
  order : Stepped s t

/-- A column of a tile row: 32 bits. -/
def column (row : BitVec 4096) (c : Nat) : Nat := row.toNat / 2 ^ (32 * c) % 2 ^ 32

/-- A row of a tile. -/
def tileRow (m : Matrix) (t i : Nat) : BitVec 4096 := (m.tile t).rows.get 0 i

/-- The values `mst` stores of a tile row at a type (R187): for `.i32` the bits as they are, for a floating type each value rounded to it, to nearest. -/
def storedRow (ty : ElTy) (row : BitVec 4096) : List Nat :=
  (List.range 128).map fun c => if ty = .i32 then column row c else (roundTo ty .rne (decodeF fmtF32 (column row c))).1

/-- The pending stores that values of some size make at the pieces of a row, one piece after the other (R187, R180). -/
def pieceStores (s : State) (size : Nat) : List MDest → List Nat → List Pend
  | [], _ => []
  | d :: ds, vs => ((List.range (d.n / size)).map fun q =>
      ⟨d.va + BitVec.ofNat 64 (q * size), d.loc + q * size, size, vs.getD q 0 % 256 ^ size, s.tagFor (d.va + BitVec.ofNat 64 (q * size)) (d.loc + q * size), none⟩) ++
      pieceStores s size ds (vs.drop (d.n / size))

/-- A record of n words is aligned and read whole at an address: its value and the state after the read (R216). -/
structure ReadsRec (s : State) (va : Word) (align n v : Nat) (u : State) : Prop where
  calm : s.mstQueued = false
  aligned : va.toNat % align = 0
  got : s.recWords va n = (u, .ok v false)

/-- A release of the current strand has nothing to wait for: no store is pending, none is on its way, no `mst` is queued (R264, R265). -/
structure ReleaseCalm (s : State) : Prop where
  pend : s.cur.pend = []
  out : s.cur.out = []
  mst : s.mstQueued = false

/-- A deadline wait's word lies in the strand's own scratchpad and its time arithmetic does not wrap (R74). -/
structure WordCalm (s : State) (va : Word) : Prop where
  word : OwnAccess s va 8
  fresh : s.cur.wait = none
  time : s.jtime.toNat + s.cur.dlMax.toNat < 2 ^ 64

/-- The bound of a wait with a deadline operand (R74): the deadline, or jtime + dl.max where that is less. -/
def clamped (s : State) (d : Word) : Word := if d.toNat ≤ s.jtime.toNat + s.cur.dlMax.toNat then d else s.jtime + s.cur.dlMax

/-- The current strand waits for an object until a bound and nothing else of it, nor memory, has changed. -/
structure WaitsFor (s t : State) (o : WaitObj) (bound : Option Word) : Prop where
  wait : ∃ w, t.cur.wait = some w ∧ w.obj = o ∧ w.bound = bound
  pc : t.cur.pc = s.cur.pc
  loops : t.cur.loops = s.cur.loops
  regs : t.cur.sregs = s.cur.sregs
  full : t.cur.full = s.cur.full
  mem : t.mem = s.mem

/-- A wait that ends at once leaves its outcome code, its kind, `wabs` and its destination, and nothing else (R74, R76). -/
structure Ended (s t : State) (kind : Nat) (phase : BitVec 32) (code : Nat) (wabs : Word) (d : BitVec 5) (v : Word) : Prop where
  wst : wstFields t.cur.wst = (code, false, phase, kind)
  wabs : t.cur.wabs = wabs
  dest : Holds t d v
  rest : OnlyWaited s t [d]
  order : Stepped s t

/-- The next command of a chain is one that its engine accepts now (R206). -/
structure NextCmd (s : State) (hdr cls op : Nat) (c : Chain) (cmd : ChainCmd) : Prop where
  chain : s.chain? hdr = some c
  free : c.cur = none
  first : c.todo.head? = some cmd
  cls : c.cls = cls
  op : recOp (s.recOf c.job cmd) = op
  runs : s.engineRuns c.job = true

/-- The command a chain runs (R206). -/
structure RunsCmd (s : State) (hdr cls op : Nat) (c : Chain) (cmd : ChainCmd) : Prop where
  chain : s.chain? hdr = some c
  now : c.cur = some cmd
  cls : c.cls = cls
  op : recOp (s.recOf c.job cmd) = op
  busy : c.done = false
  runs : s.engineRuns c.job = true

/-- A descriptor a command names, read whole, without a defect and not multicast (R196, R204). -/
structure PlainDesc (s : State) (c : Chain) (cmd : ChainCmd) (va : Word) (mcast : Bool) (u : State) (d : Desc) : Prop where
  got : ∃ v, s.cmdRead c cmd va 64 = (u, .ok (some v)) ∧ d = descOf v
  good : d.bad mcast = false
  single : d.multicast = false

/-- A chain whose engine has taken its next command (R206). -/
def taken (c : Chain) (cmd : ChainCmd) : Chain := { c with todo := c.todo.tail, cur := some cmd, done := false, fault := none, waiting := none, status := none, buf := [] }

/-- A chain whose command has its effects as soon as it is taken. -/
def marked (c : Chain) (cmd : ChainCmd) : Chain := { taken c cmd with done := true }

/-- Of the package's chains only one has changed: it has taken its next command, which has its effects. -/
structure MarkDone (s t : State) (hdr : Nat) (c : Chain) (cmd : ChainCmd) : Prop where
  chain : t.chain? hdr = some (marked c cmd)
  rest : t = { s with pkg := { s.pkg with chains := t.pkg.chains } }

/-- A copy a chain command starts (R204): the engine, the descriptor, the direction and the policy it runs under. -/
structure StartedCopy (s t : State) (hdr : Nat) (c : Chain) (cmd : ChainCmd) (eng : Engine) (d : Desc) (rev : Bool) (policy : Word) (x : Copy) : Prop where
  added : t.pkg.copies = s.pkg.copies ++ [x]
  id : x.id = s.pkg.nextCopy
  eng : x.eng = eng
  desc : x.desc = d
  rev : x.rev = rev
  policy : x.policy = policy
  chain : x.chain = some hdr
  owner : x.uid = cmd.uid ∧ x.sid = cmd.sid ∧ x.job = c.job
  taken : t.chain? hdr = some (taken c cmd)
  mem : t.mem = s.mem
  cur : t.cur = s.cur

end Sys2Proof.Claims
end

