-- ==== Sys2Proof/Claims/Objects.lean ====
section
/-! DEFINITION. What the rules say of objects that strands share, barriers, locks, watermarks, rings, handles, queues and mailboxes, and of waits that come to their end, for the statements about them. -/

namespace Sys2Proof.Claims

open Sys2Proof.Machine

/-- Writes once a release of the current strand is recorded: of the strand's own, those that so far only narrower releases have published are this one's too (R264). -/
def republished (s : State) (rel : Nat) (sc : Scope) (l : List WriteRec) : List WriteRec :=
  l.map fun w => if w.by_ = some s.cur.uid ∧ (∀ r ∈ w.rels, ((s.relScope r).map Scope.code).getD 7 < sc.code) then { w with rels := rel :: w.rels } else w

/-- A release event of the current strand that has nothing to publish: it is recorded with its number, its scope and the writes before it (R264, R265). -/
def releasedAt (s : State) (sc : Scope) : State :=
  let t := { s with rels := ⟨s.nextRel, s.cur.sid, false, sc, s.cur.past⟩ :: s.rels, nextRel := s.nextRel + 1, cur := { s.cur with resv := [] } }
  { t with hist := republished t s.nextRel sc t.hist, far := republished t s.nextRel sc t.far }

/-- A pending store is still to be published: it carries no tag, or its lock's generation word still is the tag's (R225). -/
def stillGuarded (s : State) (p : Pend) : Bool :=
  match p.tag with
  | none => true
  | some (k, g) => decide (BitVec.ofNat 32 (s.peek (k + 4) 4) = g)

/-- The pending stores that a release of the current strand publishes, oldest first, each with its place and the key it is written by: a near store at the place it was issued for, another where its address translates now; and nothing holds the release (R225, R264, R285). -/
structure PendsAt (s : State) (l : List (Pend × Nat × Nat)) : Prop where
  all : l.map (·.1) = s.cur.pend.filter (stillGuarded s)
  here : ∀ x ∈ l, isHere x.2.1 = true
  near : ∀ x ∈ l, isNear x.1.va = true → x.2.1 = x.1.loc ∧ x.2.2 = 0
  mapped : ∀ x ∈ l, isNear x.1.va = false → ∃ h, s.place s.cur x.1.va x.1.n (needOf .store) false = (s, .ok h) ∧ h.loc = x.2.1 ∧ h.key = x.2.2
  locks : ∀ p ∈ s.cur.pend, ∀ k g, p.tag = some (k, g) → isHere k = true ∧ isHbm k = false ∧ staleVa k = none
  acks : s.cur.out = []
  rows : s.mstQueued = false

/-- A byte of memory after stores have been laid over it in their order. -/
def laidOver (l : List (Pend × Nat × Nat)) (x : Nat) (b : Byte) : Byte :=
  l.foldl (fun b y => if y.2.1 ≤ x ∧ x < y.2.1 + y.1.n then BitVec.ofNat 8 (y.1.val / 256 ^ (x - y.2.1)) else b) b

/-- A lock that a lock instruction reaches in near memory of this package, with its 32 bytes as R223 wants them. -/
structure LockAt (s : State) (va : Word) (u : State) (h : Hit) (v : Nat) : Prop where
  got : s.lockCheck va = (u, .ok h)
  here : isHere h.loc = true
  near : isHbm h.loc = false
  plain : h.leaf = none
  bytes : u.peek h.loc 32 = v
  fields : lockOk v = true

/-- Holder, generation, guard base and guard length of a lock's 32 bytes (R223). -/
def lockFields (v : Nat) : BitVec 32 × BitVec 32 × Nat × Nat :=
  (BitVec.ofNat 32 v, BitVec.ofNat 32 (v / 2 ^ 32), v / 2 ^ 64 % 2 ^ 64, v / 2 ^ 128 % 2 ^ 64)

/-- A configured barrier object that stands alone: it has no parent and no child, turns no ring, and no arrival at it is on its way (R216, R220, R231). -/
structure Lone (s : State) (c o : Nat) : Prop where
  config : (s.bar c o).config = true
  root : (s.bar c o).parent = none
  leaf : s.childBars c o = []
  rings : ∀ r ∈ s.rings, ¬ (r.barrier = o ∧ r.cluster = c)
  free : ∀ x ∈ s.strands, Resv.bar c o ∉ x.resv

/-- Every member of an object has arrived in its open phase (R217). -/
def phaseFull (b : Barrier) : Prop := b.members ≠ 0 ∧ b.arrived &&& b.members = b.members

/-- Nothing closes an object's open phase yet: a member is missing, and no deadline supplied for it has passed (R220). -/
structure StaysOpen (s : State) (b : Barrier) : Prop where
  missing : ¬ phaseFull b
  time : ∀ d, b.dl = some d → (s.jtimeOf b.job).toNat ≤ d.toNat

/-- An object that stands alone, once its open phase has closed (R220, R221): the phase is recorded, the next one opens with the arrivals and the deadline that came early, and readmitted parties are members. -/
def closedAs (b : Barrier) (met : Bool) (absent : BitVec 64) : Barrier :=
  let m := b.members ||| b.readmit
  { b with
    closed := (⟨b.phase, absent, met, b.rels⟩ :: b.closed).take 4, phase := b.phase + 1, members := m, readmit := 0
    arrived := b.early &&& m, early := 0, dl := b.dlNext, dlNext := none, rels := b.earlyRels, earlyRels := [] }

/-- An object as a configuration record without a parent makes it, for a job (R216). -/
def configuredAs (v : Nat) (job : BitVec 32) : Barrier :=
  { Barrier.zero with
    config := true, count := v / 2 ^ 40 % 2 ^ 8, flags := BitVec.ofNat 32 (v / 2 ^ 96 % 2 ^ 32), index := v / 2 ^ 104 % 64
    members := BitVec.ofNat 64 (2 ^ (v / 2 ^ 40 % 2 ^ 8) - 1), job := job }

/-- The current strand's wait has come to its bound with its job running and what it waits for not there (R71, R74, R247), and the move is not a barrier closure's (R220). -/
structure Due (s : State) (w : Wait) : Prop where
  wait : s.cur.wait = some w
  here : s.cur.away = false
  runs : s.jobRuns s.cur = true
  come : s.boundCome w = true
  own : s.closesByPhase w.obj = false
  unmet : s.nowMet w = false
  free : s.metHeld w = false

/-- The current strand stands in its slot and its job runs. -/
structure InSlot (s : State) : Prop where
  here : s.cur.away = false
  runs : s.jobRuns s.cur = true

/-- A strand once cycles have passed (R88): of one in its slot whose job runs, `tbud` has gone down by them, not below 0, but while it is parked or its job's time stands still; and a request pending on it is older by them. -/
def agedBy (s : State) (cycles : Nat) (x : Strand) : Strand :=
  if x.away = true ∨ s.jobRuns x = false then x
  else { x with
    tbud := if (match x.run with | .parked _ => true | _ => false) = true ∨ (s.job? x.job).all (fun j => !j.jrun) = true then x.tbud else BitVec.ofNat 64 (x.tbud.toNat - cycles)
    preAge := if x.pre = none then x.preAge else x.preAge + cycles }

/-- A bound ring register of the current strand and its ring (R231). -/
structure BoundRing (s : State) (a : BitVec 5) (g : GReg) (r : Ring) : Prop where
  reg : s.cur.getG a = some g
  ring : s.ring? g.ring = some r
  base : r.base = g.ring

/-- Nothing but the rings, the ring registers, the releases and which of them published a write, and the scalar registers and wait results of `waitPart` has changed. -/
structure OnlyRings (s t : State) (a : BitVec 5) (ds : List (BitVec 5)) : Prop where
  regs : SameScalars s t ds
  others : ∀ b, BitVec.setWidth 2 b ≠ BitVec.setWidth 2 a → t.cur.getG b = s.cur.getG b
  rest : t = { waitPart s t with
    rings := t.rings, rels := t.rels, nextRel := t.nextRel, hist := t.hist, far := t.far
    cur := { (waitPart s t).cur with gregs := t.cur.gregs } }

/-- Of a lineage table only the entries listed have changed; nothing else outside the strand has (R241, R395). -/
structure OnlyEntries (s t : State) (cl : Nat) (es : List Nat) : Prop where
  entries : ∀ i, i ∉ es → t.lin cl i = s.lin cl i
  table : t.cluster cl = { s.cluster cl with lineage := (t.cluster cl).lineage }
  others : ∀ k, k ≠ cl → t.cluster k = s.cluster k

/-- Nothing but the handle registers listed, the clusters and what `scalarPart` names (and of that no scalar register) has changed. -/
structure OnlyHandles (s t : State) (hs : List (BitVec 5)) : Prop where
  regs : SameScalars s t []
  others : ∀ b : BitVec 5, (∀ h ∈ hs, b.setWidth 4 ≠ h.setWidth 4) → t.cur.getH b = s.cur.getH b
  rest : t = { scalarPart s t with clusters := t.clusters, cur := { (scalarPart s t).cur with hregs := t.cur.hregs } }

/-- A handle register holds a live handle (R242). -/
def LiveIn (s : State) (a : BitVec 5) (h : BitVec 32) : Prop := s.cur.getH a = some h ∧ s.live h = true

/-- A handle register may be a destination: it is void, or it is one of the sources (R242). -/
def MayTake (s : State) (srcs : List (BitVec 5)) (d : BitVec 5) : Prop :=
  s.cur.getH d = none ∨ ∃ a ∈ srcs, a.setWidth 4 = d.setWidth 4

/-- A lineage entry freed: unused, both generations raised (R248, R395). -/
def freed (e : LinEntry) : LinEntry := { e with used := false, gen0 := e.gen0 + 1, gen1 := e.gen1 + 1 }

/-- The generation an entry is taken with: the larger of its two (R395). -/
def takenGen (e : LinEntry) : BitVec 16 := if e.gen0.toNat ≤ e.gen1.toNat then e.gen1 else e.gen0

/-- A mailbox in near memory that an instruction reaches (R245, R246). -/
structure MailAt (s : State) (va : Word) (u : State) (h : Hit) : Prop where
  aligned : va.toNat % 64 = 0
  near : isNear va = true
  got : s.place s.cur va 64 (needOf .load) false = (u, .ok h)
  plain : u.sableAny h.loc 64 = false
  here : isHbm h.loc = false
  calm : u.cur.pre = none

/-- A fabric mailbox, or a join counter, in near memory of this package. -/
structure NearHit (u : State) (h : Hit) : Prop where
  here : isHere h.loc = true
  near : isHbm h.loc = false
  key : h.key = 0
  calm : u.cur.pre = none

/-- A release of the current strand at a scope is the newest. -/
def Released (s t : State) (sc : Scope) : Prop := ∃ w, t.rels = ⟨s.nextRel, s.cur.sid, false, sc, w⟩ :: s.rels

end Sys2Proof.Claims
end

