-- ==== Sys2Proof/Claims/Package.lean ====
section
/-! DEFINITION. What the rules say of the package's own events, scheduling, commands, paging, boot, the host link and the fabric, for the statements about them. -/

namespace Sys2Proof.Claims

open Sys2Proof.Machine

/-- Only the registers of BAR0 have changed. -/
def OnlyBar (s t : State) : Prop := t = { s with pkg := { s.pkg with bar := t.pkg.bar } }

/-- Only the package's own record, jobs, strands, cores and clusters apart, has changed. -/
def OnlyPkg (s t : State) : Prop := t = { s with pkg := t.pkg }

/-- Only the jobs have changed. -/
def OnlyJobs (s t : State) : Prop := t = { s with jobs := t.jobs }

/-- A core may be bound to a job now (R325, R326): the Cobalt core is up, the job may be bound and wants the core, no job served before it does, and it is not bound there already. -/
structure Binds (s : State) (core : Nat) (job : BitVec 32) (j : Job) : Prop where
  live : s.job? job = some j
  up : s.cobaltUp = true
  may : j.mayBind = true
  active : s.coreActive core = true
  wants : (s.wants j).contains core = true
  first : ∀ x ∈ s.jobs, x.id ≠ job → x.servedBefore j s.gtime = true → s.awaits x core = false
  new : (s.core core).lease.job ≠ some job

/-- A slot that serves a job's tasks and holds no strand (R252). -/
structure IdleSlot (s : State) (core slot : Nat) (j : Job) : Prop where
  lease : (s.core core).lease.job = some j.id
  live : s.job? j.id = some j
  serves : s.serves core j = true
  empty : s.strand? (mkSid s.pkgNo core slot) = none
  slot : slot < 4

/-- The command slot the device looks at next (R319). -/
def nextSlot (s : State) : Nat := s.devGet (s.slotLoc (s.pkg.lastCmd + 1)) 512

/-- The reason a command slot's command fails validation with (R314). -/
def reasonOf (s : State) (v : Nat) : Nat :=
  s.validate (recField v 0 2) (recField v 64 448) (decide (recField v 2 2 ≠ 0 ∨ recField v 16 48 ≠ 0))

/-- A debugger command of an op for a job that is live here (R385). -/
structure Debugs (s : State) (seq op : Nat) (c : Cmd) (j : Job) : Prop where
  cmd : s.debugCmd? seq op = some c
  live : s.job? (cmdJob 4 c.payload) = some j

/-- R319: a job has been told to stop: where a strand of it stands in a slot and nothing holds it, its strands are asked to stop at their next points; where none does, or it is frozen, it has ended as the state and code say. -/
structure Stopped (s t : State) (job : BitVec 32) (j : Job) (st : JState) (code : Nat) : Prop where
  asked : j.slate.st = .running → (∃ x ∈ s.strands, x.job = job ∧ x.away = false) →
    (∃ k, t.job? job = some k ∧ k.stopReq = some (st, code) ∧ k.bindable = []) ∧ ∀ x ∈ s.strands, x.job = job → { x with pre := some .stop, preAge := if x.pre = none then 0 else x.preAge } ∈ t.strands
  ended : (j.slate.st ≠ .running ∨ ∀ x ∈ s.strands, x.job = job → x.away = true) → t.job? job = none ∧ ∃ x ∈ t.jobs, x.id = job ∧ x.state = st ∧ x.code = code

/-- A record of a job's fault queue that the paging service may mark (R298, R302): it stands in the ring, unmarked, an older one is still open, and the ring and its header lie apart. -/
structure ToService (s : State) (job : BitVec 32) (j : Job) (k : Nat) : Prop where
  live : s.job? job = some j
  up : s.cobaltUp = true
  unmarked : s.recMarked j k = false
  inside : s.fqTail j < k ∧ k < s.fqHead j ∧ s.fqHead j ≤ s.fqTail j + s.fqCap j
  older : s.recMarked j (s.fqTail j) = false
  apart : s.fqBase j + s.fqCap j * 64 ≤ j.rec_.fq ∨ j.rec_.fq + 48 ≤ s.fqBase j
  ring : s.fqBase j + s.fqCap j * 64 ≤ 2 ^ 40

/-- The state without a packet that has arrived. -/
def withoutPkt (s : State) (p : Packet) : State := s.onPkg fun g => { g with arrived := g.arrived.erase p }

/-- A packet of a kind has arrived, and its home has not seen it before (R361). -/
structure FirstSeen (s : State) (p : Packet) (kind : Nat) : Prop where
  kind : p.kind = kind
  here : s.pkg.arrived.contains p = true
  reply : (s.peer p.spkg).replies.find? (fun r => decide (r.1 = p.eseq)) = none
  ack : (s.peer p.spkg).placed.contains p.eseq = false

/-- A packet of a kind has arrived that answers a request of this package of one of some kinds (R361). -/
structure Answers (s : State) (p : Packet) (kind : Nat) (reqs : List Nat) (u : Unacked) : Prop where
  kind : p.kind = kind
  here : s.pkg.arrived.contains p = true
  asked : s.unackedOf p.spkg p.eseq = some u
  fits : u.pkt.kind ∈ reqs

/-- The state once the request a packet answers is off the list. -/
def answeredBy (s : State) (p : Packet) (u : Unacked) : State := (withoutPkt s p).retireReq p.spkg u

/-- The package answers a packet with one more packet: of a kind, with an op, flags and data (R359). -/
def AnswersWith (s t : State) (p : Packet) (kind op : Nat) (flags : BitVec 8) (data : List Byte) : Prop :=
  t.pkg.pktOut = s.pkg.pktOut ++ [⟨kind, flags, data.length, p.spkg, s.pkgNo, p.eseq, p.keyid, op, p.scope, p.addr, p.job, p.chunk, p.map, data, false, 1, 0⟩]

/-- A chunk of a multicast copy goes to one destination again, by unicast, and no branch holds it any more (R368). -/
def Resent (s t : State) (c : Copy) (chunk pkg : Nat) : Prop :=
  (∀ b ∈ t.pkg.branches, ¬ (b.copy = c.id ∧ b.chunk = chunk ∧ b.pkg = pkg)) ∧ t.mem = s.mem ∧ t.cur = s.cur ∧
  ∃ ps, t.pkg.pktOut = s.pkg.pktOut ++ ps ∧ (c.desc.elems chunk ≠ [] → ps ≠ []) ∧ ∀ q ∈ ps, q.kind = 7 ∧ q.dpkg = pkg ∧ q.chunk = chunk ∧ q.flags.getLsbD 1 = true

/-- A chunk of a frozen job that a branch dropped waits for the restart (R368, R388). -/
def BranchHeld (s t : State) (id chunk pkg : Nat) : Prop :=
  t.pkg.branches = ⟨pkg, id, chunk, s.gtime, true⟩ :: s.pkg.branches.filter (fun b => !decide (b.copy = id ∧ b.chunk = chunk ∧ b.pkg = pkg)) ∧ t.mem = s.mem ∧ t.cur = s.cur

/-- Every byte outside a range reads as before. -/
def SameOutside (s t : State) (loc n : Nat) : Prop := ∀ x, x < loc ∨ loc + n ≤ x → t.mem.get memDefault x = s.mem.get memDefault x

/-- A link that takes what is sent to it: its port is one of the 18 that carry Tsueratis (R4; log entry 14), and is not retired. -/
structure LinkUp (s : State) (p : Nat) : Prop where
  port : p < 18
  kept : s.pkg.retiredPorts.contains p = false
  up : (s.link p).down = false

/-- Of the links only one has changed. -/
structure OnlyLink (s t : State) (p : Nat) : Prop where
  rest : t = { s with pkg := { s.pkg with links := t.pkg.links } }
  others : ∀ k, k ≠ p → t.link k = s.link k

/-- A launch of more than one package that has not started and whose packages agree (R354). -/
structure Pending (s : State) (job : BitVec 32) (j : Job) : Prop where
  live : s.job? job = some j
  pending : j.pending = true
  same : ∀ a ∈ j.accepts, a.2.1 = j.rec_.digest
  runs : j.slate.st = .running ∧ j.slate.wave = none

end Sys2Proof.Claims
end

