-- ==== Sys2Proof/Claims/Machine.lean ====
section
/-! DEFINITION. What the rules say of translation, memory, fetch and the step itself, for the statements about them. -/

namespace Sys2Proof.Claims

open Sys2Proof.Machine

/-! The page tree (R289 to R293). -/

/-- The entry at a place is a pointer to a node in local HBM (R290): V is 1, `NEXT` names the node, the rest is 0. -/
structure PointsTo (s : State) (at_ next : Nat) : Prop where
  value : s.peekKey 0 at_ 8 = next + 1
  aligned : next % 2 ^ 14 = 0
  inside : s.paFits next (2 ^ 14) = true
  clean : s.poisoned at_ 8 = false

/-- The tree leads an address to its L2 entry at a place (R289). -/
def LeadsL2 (s : State) (root va at_ : Nat) : Prop :=
  ∃ n1 n2, PointsTo s (root + 8 * (va / 2 ^ 51 % 32)) n1 ∧ PointsTo s (n1 + 8 * (va / 2 ^ 40 % 2048)) n2 ∧
    at_ = n2 + 8 * (va / 2 ^ 29 % 2048) ∧ s.poisoned at_ 8 = false

/-- The tree leads an address to its L3 entry at a place (R289). -/
def LeadsL3 (s : State) (root va at_ : Nat) : Prop :=
  ∃ at2 n3, LeadsL2 s root va at2 ∧ PointsTo s at2 n3 ∧ at_ = n3 + 8 * (va / 2 ^ 18 % 2048) ∧ s.poisoned at_ 8 = false

/-- An entry's fields are well formed for a leaf of local HBM (R291, R292): reserved bits 0, a known geometry and format. -/
structure LocalLeaf (e : Word) : Prop where
  reserved : e.extractLsb' 16 2 = 0
  geom : (e.extractLsb' 14 2).toNat ≤ 1
  fmt : (e.extractLsb' 10 4).toNat ≤ 5
  kind : e.extractLsb' 8 2 = 0

/-- A leaf of local HBM whose page of some size lies in installed memory, valid, with some permission. -/
structure ValidLeaf (s : State) (e : Word) (size : Nat) : Prop extends LocalLeaf e where
  v : e.getLsbD 0 = true
  rwx : e.extractLsb' 1 3 ≠ 0
  frame : s.paFits ((e.extractLsb' 18 34).toNat * 2 ^ 18) size = true

/-- Every permission an access needs, the leaf has (R293 step 1). -/
def Permits (n : Need) (e : Word) : Prop :=
  (n.r = true → e.getLsbD 1 = true) ∧ (n.w = true → e.getLsbD 2 = true) ∧ (n.x = true → e.getLsbD 3 = true)

/-- The tenant key of a leaf is the job's and has not been invalidated (R293 steps 3 and 4). -/
structure KeyFits (s : State) (key : Nat) (e : Word) : Prop where
  same : (e.extractLsb' 52 12).toNat = key
  live : (s.pkg.keys.get ⟨false, false, 0⟩ key).revoked = false

/-- What the walker makes of a leaf it caches: A is set, and D for a write (R294). -/
def touched (n : Need) (e : Word) : Word := e ||| 0x10#64 ||| (if n.w then 0x20#64 else 0)

/-- Neither the TLBs of a core and its cluster nor the walk cache of the die know anything on the way to an address (R295). -/
structure Unknown (s : State) (cl : Nat) (core : Option Nat) (root va : Nat) (write : Bool) : Prop where
  tlb : s.tlbFind cl core root va write = none
  walks : s.walkFind (cl / 5) root va = none

/-- Only the page table entry at a place, and what is cached of it, has changed; the entry now reads as given and the TLB answers with it (R294, R295). -/
structure Cached (s t : State) (cl : Nat) (core : Option Nat) (root va at_ : Nat) (big : Bool) (e : Word) (write : Bool) : Prop where
  entry : t.peekKey 0 at_ 8 = e.toNat
  others : ∀ x, x < at_ ∨ at_ + 8 ≤ x → t.mem.get memDefault x = s.mem.get memDefault x
  tlb : t.tlbFind cl core root va write = some ⟨cl, core, root, if big then va / 2 ^ 29 else va / 2 ^ 18, big, e, write⟩
  regs : t.cur = s.cur ∧ t.rest = s.rest ∧ t.jobs = s.jobs ∧ t.pkg = s.pkg

/-! Places and values of memory (R8, R268, R397). -/

/-- A write of a run of bytes under a key at its home: it reads back as its value under that key, is the latest in the home order, and leaves every other byte and its key as they were; beside memory only the records of errors may change (R174). -/
structure Written (s t : State) (key loc n v : Nat) : Prop where
  value : t.peek loc n = v % 256 ^ n
  under : t.peekKey key loc n = v % 256 ^ n
  order : ∃ w, t.hist = w :: s.hist ∧ w.idx = s.nextW ∧ w.loc = loc ∧ w.n = n ∧ w.val = v % 256 ^ n ∧ t.nextW = s.nextW + 1
  others : ∀ x, x < loc ∨ loc + n ≤ x → t.mem.get memDefault x = s.mem.get memDefault x ∧ t.keyAt x = s.keyAt x
  rest : t = { s with mem := t.mem, keyRuns := t.keyRuns, poison := t.poison, hist := t.hist, nextW := t.nextW, cores := t.cores, dies := t.dies }

/-- The front end of the current strand issues next: nothing stands before it on the agenda, the package runs, and the strand may issue once what has come due is settled, no request having gone unmet for too long (R88). -/
structure Issues (s : State) : Prop where
  first : s.agenda = []
  runs : s.settled.pkg.halted = false
  may : s.settled.canIssue s.settled.cur = true
  timely : s.settled.overrunDue = false

end Sys2Proof.Claims
end

