-- ==== Sys2Proof/Certificates/Slice0/Obligations.lean ====
section
/-! DEFINITION. The statements about the machine that the provers prove. -/

open Sys2Proof Sys2Proof.Machine Sys2Proof.Claims

/-- R92, R93, R39: every OP, OPI, `lui` and `aupc` instruction completes, writes the value the rule gives and writes nothing else. R92: `clz`, `ctz`, `popc` and `bswap` complete, write the count or the reversed bytes and nothing else. -/
def Obligations.Scalar : Prop :=
  (∀ s i d srcs v, scalarResult i s.cur = some (d, srcs, v) → Ready s (d :: srcs) →
     ∃ t, exec i s = .next t ∧ Holds t d v ∧ OnlyScalars s t [d] ∧ Stepped s t) ∧
  (∀ s i d a v, countResult i s.cur = some (d, a, v) → Ready s [d, a] →
     ∃ t, exec i s = .next t ∧ Holds t d v ∧ OnlyScalars s t [d] ∧ Stepped s t)

/-- R96, R84, R39: a conditional branch completes; taken, control goes to pc + sext(imm12) × 4 and the levels that do not hold the target go; not taken, it completes in order. It writes no register. R97, R84, R39: `jal` and `jalr` write pc + 4 to their destination and go to their target, which `jalr` forms from its source before the destination is written. -/
def Obligations.Transfers : Prop :=
  (∀ s i a b o taken, branchTest i s.cur = some (a, b, o, taken) → Ready s [a, b] →
     ∃ t, exec i s = .next t ∧ OnlyScalars s t [] ∧
       (if taken then Jumped s t (s.cur.pc + BitVec.ofInt 64 (o.toInt * 4)) else Stepped s t)) ∧
  ((∀ s d o, Ready s [d] → ∃ t, exec (.jal d o) s = .next t ∧ Holds t d (s.cur.pc + 4) ∧ OnlyScalars s t [d] ∧
     Jumped s t (s.cur.pc + BitVec.ofInt 64 (o.toInt * 4))) ∧
   (∀ s d a o, Ready s [d, a] → ∃ t, exec (.jalr d a o) s = .next t ∧ Holds t d (s.cur.pc + 4) ∧ OnlyScalars s t [d] ∧
     Jumped s t ((s.cur.getS a + BitVec.ofInt 64 o.toInt) &&& ~~~3#64)))

/-- R82, R86: `loop` and `loopi`: a count of 0 skips the body; a proper push puts one level of index 0 on the stack and goes to the body; a seventh level and an improperly nested one fault and push nothing; that the record of the improperly nested one has address 0 is the model's choice (log 63). R85: `lidx` writes the index of a level, `lbrk` leaves the innermost loop, `lnext` ends the innermost iteration; with too few levels each faults `LOOP_UNDERFLOW`. R83: end-of-body processing: an inner level that has iterations left starts the next one; levels that are done go, the next one out being tested at the same instruction; else pc + 4. -/
def Obligations.Loops : Prop :=
  (∀ s i srcs c n, loopCount i s.cur = some (srcs, c, n) → Ready s srcs →
     let last := s.cur.pc + BitVec.ofNat 64 (4 * n.toNat)
     let nested := ∀ l ∈ s.cur.loops.head?, last.toNat ≤ l.stop.toNat
     (c = 0 → ∃ t, exec i s = .next t ∧ OnlyScalars s t [] ∧ t.cur.pc = last + 4 ∧ t.cur.loops = s.cur.loops) ∧
     (c ≠ 0 → s.cur.loops.length < 6 → nested → ∃ t, exec i s = .next t ∧ OnlyScalars s t [] ∧ t.cur.pc = s.cur.pc + 4 ∧
       t.cur.loops = ⟨c, 0, s.cur.pc + 4, last⟩ :: s.cur.loops) ∧
     (c ≠ 0 → s.cur.loops.length = 6 → exec i s = .next ((readAll s srcs).faultCode .loopOverflow 6 0 0)) ∧
     (c ≠ 0 → s.cur.loops.length < 6 → ¬ nested → exec i s = .next ((readAll s srcs).faultCode .illegalOperand 0 0 0))) ∧
  ((∀ s d e l, Ready s [d] → s.cur.loops[BitVec.toNat (w := 3) e]? = some l →
     ∃ t, exec (.lidx d e) s = .next t ∧ Holds t d l.index ∧ OnlyScalars s t [d] ∧ Stepped s t) ∧
   (∀ s l ls, Ready s [] → s.cur.loops = l :: ls →
     ∃ t, exec .lbrk s = .next t ∧ OnlyScalars s t [] ∧ t.cur.pc = l.stop + 4 ∧ t.cur.loops = ls) ∧
   (∀ s l ls, Ready s [] → s.cur.loops = l :: ls →
     ∃ t, exec .lnext s = .next t ∧ OnlyScalars s t [] ∧ (t.cur.pc, t.cur.loops) = ((endOfBody l.stop (l :: ls)).1, (endOfBody l.stop (l :: ls)).2.1)) ∧
   (∀ s d e, Ready s [d] → s.cur.loops.length ≤ BitVec.toNat (w := 3) e →
     exec (.lidx d e) s = .next (s.faultCode .loopUnderflow (BitVec.ofNat 64 s.cur.loops.length) 0 0)) ∧
   (∀ s, s.cur.loops = [] → exec .lbrk s = .next (s.faultCode .loopUnderflow 0 0 0) ∧ exec .lnext s = .next (s.faultCode .loopUnderflow 0 0 0))) ∧
  (∀ (pc : Word) (l : LoopLvl) (ls : List LoopLvl),
     (endOfBody pc []).1 = pc + 4 ∧
     (pc ≠ l.stop → endOfBody pc (l :: ls) = (pc + 4, l :: ls, false)) ∧
     (pc = l.stop → l.index.toNat + 1 < l.count.toNat →
       endOfBody pc (l :: ls) = (l.start, ⟨l.count, l.index + 1, l.start, l.stop⟩ :: ls, true)) ∧
     (pc = l.stop → l.count.toNat ≤ l.index.toNat + 1 → endOfBody pc (l :: ls) = endOfBody pc ls))

/-- R78, R79, R98: `getc` of every CSR of the map writes its value to the destination and nothing else, once the vector work it waits for is done (R81). R79, R98: `setc` and `swapc` write what R79 accepts, `dl.def` and `tbud` clamped, `swapc` with the old value in its destination; what R79 refuses faults `ILLEGAL_OPERAND` and writes nothing. -/
def Obligations.Csrs : Prop :=
  (∀ s d c v, (BitVec.toNat (w := 12) c, v) ∈ csrMap s → Ready s [d] → s.cur.vq = [] → s.mrdQueued = false →
     ∃ t, exec (.getc d c) s = .next t ∧ Holds t d v ∧ OnlyScalars s t [d] ∧ Stepped s t) ∧
  (∀ s a d c, Ready s [d, a] → s.cur.vq = [] → s.mrdQueued = false →
     (∀ r, csrWrite s.cur (BitVec.toNat (w := 12) c) (s.cur.getS a) = some r →
       (∃ t, exec (.setc a c) s = .next t ∧ csrsOf t.cur = r ∧ OnlyCsrs s t [] ∧ Stepped s t) ∧
       (∃ t, exec (.swapc d a c) s = .next t ∧ csrsOf t.cur = r ∧ OnlyCsrs s t [d] ∧ Stepped s t ∧
         (∀ v, (BitVec.toNat (w := 12) c, v) ∈ csrMap s → Holds t d v))) ∧
     (csrWrite s.cur (BitVec.toNat (w := 12) c) (s.cur.getS a) = none →
       exec (.setc a c) s = .next ((readAll s [a]).faultCode .illegalOperand 0 0 0) ∧
       exec (.swapc d a c) s = .next ((readAll s [a]).faultCode .illegalOperand 0 0 0)))

/-- R102, R87: `yield` completes in order and changes nothing else where no request is pending; with a request pending in time (R88) and the job not frozen, the request takes effect at yield + 4. R103: once the vector queue is empty and holds no `mrd`, `ifence` completes and changes nothing but what the strand's fetches are sure to see from then on, which is what its loads are sure to see (log 9); while it is not, the strand waits and its pc stays. R99, R74: a `sleep` whose time has come ends `MET` with `wabs` 0 and no wait; another waits until its deadline, clamped to jtime + dl.max, and writes nothing yet. -/
def Obligations.FrontEndPauses : Prop :=
  ((∀ s, Ready s [] → ∃ t, exec .yield s = .next t ∧ OnlyScalars s t [] ∧ Stepped s t) ∧
   (∀ s p, s.cur.pre = some p → s.cur.loops = [] → s.curFrozen = false → s.cur.preInTime = true → exec .yield s = .next s.retire.preemptNow)) ∧
  ((∀ s, Ready s [] → s.cur.vq = [] → s.mrdQueued = false → ∃ t, exec .ifence s = .next t ∧ t.cur.ifHb = s.cur.hb ∧ Stepped s t ∧
     OnlyScalars { s with cur := { s.cur with ifHb := t.cur.ifHb } } t []) ∧
   (∀ s, Ready s [] → s.cur.vq ≠ [] → s.cur.wait = none →
     ∃ t w, exec .ifence s = .next t ∧ t.cur.wait = some w ∧ w.obj = .vecDrain ∧ w.bound = none ∧ t.cur.pc = s.cur.pc ∧ t.cores = s.cores ∧ t.mem = s.mem)) ∧
  (∀ s a, Ready s [a] → s.cur.wait = none → s.jtime.toNat + s.cur.dlMax.toNat < 2 ^ 64 →
     ((s.cur.getS a).toNat ≤ s.jtime.toNat →
       ∃ t, exec (.sleep a) s = .next t ∧ wstFields t.cur.wst = (0, false, 0, 9) ∧ t.cur.wabs = 0 ∧ OnlyWaited s t [] ∧ Stepped s t) ∧
     (s.jtime.toNat < (s.cur.getS a).toNat →
       ∃ t w, exec (.sleep a) s = .next t ∧ t.cur.wait = some w ∧ w.obj = .sleep (s.cur.getS a) ∧
         w.bound = some (if (s.cur.getS a).toNat ≤ s.jtime.toNat + s.cur.dlMax.toNat then s.cur.getS a else s.jtime + s.cur.dlMax) ∧
         t.cur.pc = s.cur.pc ∧ t.cur.sregs = s.cur.sregs ∧ t.mem = s.mem))

/-- R100: `svc` with no service area goes on at once with s4 all ones and `PAST_ON_ENTRY`; with one, and room in the ring, the block s4 to s11 and an informational record are put into it, and the strand waits for the runtime until `dl.def`. R101: `brk` posts an informational `BREAKPOINT` record and starts the slate wave whatever the policy; the strand stands at the `brk`, and no register or flag changes. -/
def Obligations.ServiceAndBreakpoint : Prop :=
  (∀ s j, s.job? s.cur.job = some j → Ready s [4, 5, 6, 7, 8, 9, 10, 11] →
     let regs : List (BitVec 5) := [4, 5, 6, 7, 8, 9, 10, 11]
     (s.fqSvc j = 0 → ∃ t, exec .svc s = .next t ∧ Holds t 4 (BitVec.allOnes 64) ∧ wstFields t.cur.wst = (5, false, 0, 10) ∧
       OnlyWaited s t [4] ∧ Stepped s t) ∧
     (s.fqSvc j ≠ 0 → s.cur.wait = none → s.fqHead j - s.fqTail j < s.fqCap j → j.held = [] →
       let r := { plainRec s .svc (s.cur.getS 4) 0 0 with info := true }
       let block := regs.flatMap fun r => bytesOfNat 8 (s.cur.getS r).toNat
       ∃ t w, exec .svc s = .next t ∧ t.mem = (s.ringPut j (r.bytes j.id s.gtime) block).mem ∧ t.pkg.msix = (s.ringPut j (r.bytes j.id s.gtime) block).pkg.msix ∧
         t.cur.wait = some w ∧ w.obj = .svc (s.fqHead j) ∧ w.bound = some (s.jtime + s.cur.dlDef) ∧ t.cur.pc = s.cur.pc ∧ t.cur.sregs = s.cur.sregs)) ∧
  (∀ s j, s.job? s.cur.job = some j → Ready s [] → j.slate.st = .running → j.slate.wave = none →
     s.fqHead j - s.fqTail j < s.fqCap j → j.held = [] →
       let r := { plainRec s .breakpoint 0 0 0 with info := true }
       ∃ t j', exec .brk s = .next t ∧ t.mem = (s.ringPut j (r.bytes j.id s.gtime) []).mem ∧ t.job? s.cur.job = some j' ∧
         j'.slate.wave = some ⟨s.pkgNo, s.cur.sid, s.cur.pc, 0x50, s.gtime⟩ ∧ t.cur = { s.cur with brkDone := true })

/-- R94, R95, R268: a load from the strand's own scratchpad completes. Where every write to the bytes is known to the strand, it reads the value last in home order with the strand's own pending stores laid over it, extended as its name says, and writes nothing else. R94, R95, R264: a store to the strand's own scratchpad completes: its low bytes join the strand's pending stores, with the tag of the guard that covers them, and no byte of memory changes yet. R94, R106: a load or store whose address is no multiple of its size faults `MISALIGNED`, with the address, and performs nothing. -/
def Obligations.LoadsAndStores : Prop :=
  (∀ s i d a o n sgn, loadForm i = some (d, a, o, n, sgn) → Ready s [a, d] →
     let va := s.cur.getS a + BitVec.ofInt 64 o.toInt
     OwnAccess s va n → s.cur.wregs = Vector.replicate 4 none → AllKnown s (ownLoc s va) n →
       ∃ t, exec i s = .next t ∧ Holds t d (extended n sgn (natOfBytes (overlayPend (ownLoc s va) (s.bytesAt (ownLoc s va) n) s.cur.pend))) ∧
         OnlyScalars s t [d] ∧ Stepped s t) ∧
  (∀ s i a b o n, storeForm i = some (a, b, o, n) → Ready s [a, b] →
     let va := s.cur.getS a + BitVec.ofInt 64 o.toInt
     OwnAccess s va n →
       ∃ t, exec i s = .next t ∧ t.cur.pend = s.cur.pend ++ [⟨va, ownLoc s va, n, (s.cur.getS b).toNat % 2 ^ (8 * n), s.tagFor va (ownLoc s va), none⟩] ∧
         OnlyScalars { s with cur := { s.cur with pend := t.cur.pend } } t [] ∧ Stepped s t) ∧
  ((∀ s i d a o n sgn, loadForm i = some (d, a, o, n, sgn) → Ready s [a, d] →
     let va := s.cur.getS a + BitVec.ofInt 64 o.toInt
     va.toNat % n ≠ 0 → exec i s = .next ((readAll s [a]).takeFault (plainRec s .misaligned va 2 0))) ∧
   (∀ s i a b o n, storeForm i = some (a, b, o, n) → Ready s [a, b] →
     let va := s.cur.getS a + BitVec.ofInt 64 o.toInt
     va.toNat % n ≠ 0 → exec i s = .next ((readAll s [a, b]).takeFault (plainRec s .misaligned va 3 0))))

/-- R286, R270: an atomic on the strand's own scratchpad completes: the old value goes to its destination, the new value to the bytes and to no other byte, in one step; with `rl` a release event at its scope is recorded before it. -/
def Obligations.Atomics : Prop :=
  ∀ s i f n sgn new, amoForm i = some (f, n, sgn, new) → Ready s [f.a, f.b, f.d] →
    let va := s.cur.getS f.a
    let loc := ownLoc s va
    let old := s.peek loc n
    OwnAccess s va n → AmoCalm s loc n f.rl →
      ∃ t, exec i s = .next t ∧ Holds t f.d (extended n sgn old) ∧
        t.bytesAt loc n = bytesOfNat n (new old ((s.cur.getS f.b).toNat % 2 ^ (8 * n)) (s.cur.getS f.d).toNat) ∧
        (∀ a, a < loc ∨ loc + n ≤ a → t.mem.get memDefault a = s.mem.get memDefault a) ∧
        (f.rl = 1 → ∃ w, t.rels = ⟨s.nextRel, s.cur.sid, false, Scope.ofCode f.sc.toNat, w⟩ :: s.rels) ∧ (f.rl ≠ 1 → t.rels = s.rels) ∧
        (∀ r, r ≠ f.d → t.cur.getS r = s.cur.getS r) ∧ t = amoPart s t ∧ Stepped s t

/-- R106, R301, R324: taking a fault, for a record that gets its own place in the ring: the record is put there and the strand stands at the faulting instruction with its registers as before it: held where the paging service will serve the record, frozen under policy freeze, parked under policy continue. R323, R324: a fault under policy stop asks every strand of the job to end, with the fault's code, and the faulting strand leaves its slot at once. R63, R64, R90: a word that decodes to no instruction faults `ILLEGAL_INSTRUCTION`, one with an operand outside its limits `ILLEGAL_OPERAND`, each with the word in the address field; a fetch problem faults with access kind 1 and the pc as address. -/
def Obligations.TakingFaults : Prop :=
  (∀ (s : State) (j : Job) (r : FaultRec), Postable s j r →
     let t := s.takeFault r
     FaultTaken s t j r ∧ (s.paged j r.code = false → j.rec_.policy = .freeze → j.slate.wave = none →
       ∃ j', t.job? s.cur.job = some j' ∧ j'.slate.wave = some ⟨s.pkgNo, s.cur.sid, r.pc, r.code.num, s.gtime⟩)) ∧
  (∀ (s : State) (j : Job) (r : FaultRec), s.job? s.cur.job = some j → RingRoom s j r → r.big = false → j.slate.st = .running → s.paged j r.code = false →
     j.rec_.policy = .stop → j.stopReq = none → (∃ t ∈ s.rest, t.job = s.cur.job ∧ t.away = false ∧ t.uid ≠ s.cur.uid) → s.cur.job ≠ 0 → s.cur.away = false →
       let t := s.takeFault r
       t.cur = Strand.idle ∧ (∃ j', t.job? s.cur.job = some j' ∧ j'.stopReq = some (.failed, r.code.num)) ∧
         ∀ u ∈ t.rest, u.job = s.cur.job → u.pre = some .stop) ∧
  ((∀ (s : State) w, decode w = .illegalInstruction → ∃ t, exec (.illegalWordIssue w) s = .next t ∧ Faulted s t (plainRec s .illegalInstruction (BitVec.setWidth 64 w) 0 0)) ∧
   (∀ (s : State) w, decode w = .illegalOperand → ∃ t, exec (.illegalWordIssue w) s = .next t ∧ Faulted s t (plainRec s .illegalOperand (BitVec.setWidth 64 w) 0 0)) ∧
   (∀ (s u : State) f, s.fetch = (u, .error f) → ∃ t, exec .fetchProblem s = .next t ∧ Faulted u t (u.faultRec f s.cur.pc 1 0)))

/-- R105, R299: the 64 bytes of a fault record. R298, R323: a record put into the ring stands at head mod cap, head goes up by one, the host is signalled with vector 1, and no other byte changes. -/
def Obligations.FaultRecords : Prop :=
  (∀ (r : FaultRec) (job : BitVec 32) (g : Word),
     let b := r.bytes job g
     let field (o n : Nat) : Nat := natOfBytes ((b.drop o).take n)
     b.length = 64 ∧ field 0 1 = r.code.num % 256 ∧ field 2 2 = 0 ∧ field 4 4 = job.toNat ∧ field 8 4 = r.sid.toNat ∧ field 16 8 = r.pc.toNat ∧
       field 24 8 = r.va.toNat ∧ field 32 8 = (r.kind + r.scope * 256) % 2 ^ 64 ∧ field 40 8 = r.tag.toNat ∧ field 56 8 = g.toNat ∧
       field 1 1 = (if r.info then 1 else 0) + (if r.replay then 2 else 0) + (if r.malformed then 4 else 0)) ∧
  (∀ (s : State) (j : Job) (bytes : List Byte), bytes.length = 64 →
     let at_ := s.recPa j (s.fqHead j)
     let head := j.rec_.fq + 16
     at_ + 64 ≤ 2 ^ 40 → head + 8 ≤ 2 ^ 40 → (at_ + 64 ≤ head ∨ head + 8 ≤ at_) →
       let t := s.ringPut j bytes []
       t.bytesAt at_ 64 = bytes ∧ t.fqHead j = (s.fqHead j + 1) % 2 ^ 64 ∧ t.pkg.msix = s.pkg.msix ++ [1] ∧
         ∀ a, (a < at_ ∨ at_ + 64 ≤ a) → (a < head ∨ head + 8 ≤ a) → t.mem.get memDefault a = s.mem.get memDefault a)

/-- R138, R139, R140, R128: `vtype` writes the old type's code and takes the new one; `vlmax` writes N, 0 with no lane group; `strip` writes min(sa, N) and a mask of that many ones. -/
def Obligations.VectorConfig : Prop :=
  (∀ s d c e, ElTy.ofCode (BitVec.toNat (w := 5) c) = some e → Ready s [d] →
    ∃ t, exec (.vtype d c) s = .next t ∧ Holds t d (BitVec.ofNat 64 s.cur.vty.code) ∧ t.cur.vty = e ∧
      OnlyScalars { s with cur := { s.cur with vty := e } } t [d] ∧ Stepped s t) ∧
  (∀ s d, Ready s [d] → ∃ t, exec (.vlmax d) s = .next t ∧
    Holds t d (BitVec.ofNat 64 (512 * s.cur.laneCount / widthOf s.cur.vty)) ∧ OnlyScalars s t [d] ∧ Stepped s t) ∧
  (∀ s d a k, BitVec.toNat (w := 5) k < 24 → VReady s [a, d] [] →
    let c := Nat.min (s.cur.getS a).toNat (512 * s.cur.laneCount / widthOf s.cur.vty)
    ∃ t, exec (.strip d a k) s = .next t ∧ Holds t d (BitVec.ofNat 64 c) ∧ (∀ i, i < 2048 → ((t.cur.getK k).getLsbD i = decide (i < c))) ∧
      OnlyMasks s t [k] [d] ∧ Stepped s t) ∧
  (∀ s d a k, Ready s [a, d] → s.cur.laneCount = 0 →
    exec (.strip d a k) s = .next ((readAll s [a]).faultCode .noLanes 0 0 0))

/-- R166, R79: `wopen` opens an accumulation window of the strand's scratchpad where base and length obey R166: `acw` describes it and no element is touched; otherwise `ILLEGAL_OPERAND`. R167: `vstxa` at the window's type, with every active address in the window and aligned, completes: each lane group's copy takes its own elements, those of one place in ascending element order, the flags of the additions are raised together (R122), and nothing else changes; the touched elements stay in ascending order of group and address; without an open window of `vty` it faults `ILLEGAL_OPERAND`. R168: `wmerge` of the base of the open window, whose touched elements stand in that order, completes where every one of them may be read and written: it makes a store of memory plus copy for each of them, in the order of group and address, the strand's own earlier stores included, closes the window and discards the copies; with another address or no window open it faults `ILLEGAL_OPERAND`. That an untouched copy element takes its first addend as it is, is the model's choice (log 63). -/
def Obligations.AccumulationWindow : Prop :=
  (∀ s a b, VReady s [a, b] [] →
     let off := (s.cur.getS a).toNat % 2 ^ 56
     let len := (s.cur.getS b).toNat
     let fits := tyWide s.cur.vty = true ∧ (s.cur.getS a).toNat / 2 ^ 56 = 0xF0 ∧ off % 64 = 0 ∧ len % 64 = 0 ∧ 64 ≤ len ∧ len ≤ 16384 ∧ off + len ≤ 2 ^ 21 ∧ s.cur.acw.getLsbD 63 = false
     (fits → ∃ t, exec (.wopen a b) s = .next t ∧ t.cur.acw = BitVec.ofNat 64 (off + len * 2 ^ 22 + s.cur.vty.code * 2 ^ 44 + 2 ^ 63) ∧
       t.cur.window = [] ∧ OnlyScalars { s with cur := { s.cur with acw := t.cur.acw, window := [] } } t [] ∧ Stepped s t) ∧
     (¬ fits → exec (.wopen a b) s = .next ((readAll s [a, b]).faultCode .illegalOperand 0 0 0))) ∧
  (∀ s d a b k, VReady s [a] [d, b] →
     let w := widthOf s.cur.vty
     let base := s.cur.acw.toNat % 2 ^ 22
     let len := s.cur.acw.toNat / 2 ^ 22 % 2 ^ 22
     let ours := tyWide s.cur.vty = true ∧ s.cur.acw.getLsbD 63 = true ∧ ElTy.ofCode (s.cur.acw.toNat / 2 ^ 44 % 32) = some s.cur.vty
     let addr (i : Nat) : Word := s.cur.getS a + BitVec.ofNat 64 (elemAt w (s.cur.getV b) i)
     let off (i : Nat) : Nat := (addr i).toNat % 2 ^ 56
     let lit := (List.range s.cur.n).filter (on s.cur k)
     let sum (l : List Nat) (g x : Nat) : Option Nat := (l.filter fun i => decide (i * w / 512 = g ∧ off i = x)).foldl
       (fun c i => added s.cur.vty c (elemAt w (s.cur.getV d) i)) (winCell s.cur.window g x)
     (ours → (∀ i ∈ lit, (addr i).toNat / 2 ^ 56 = 0xF0 ∧ off i % (w / 8) = 0 ∧ base ≤ off i ∧ off i + w / 8 ≤ base + len) →
       ∃ t, exec (.vstxa d a b k) s = .next t ∧
         (∀ g x, winCell t.cur.window g x = sum lit g x) ∧ (InOrder s.cur.window → InOrder t.cur.window) ∧
         t.cur.fflags = lit.foldl (fun f i => f ||| addedFlags s.cur.vty (sum (lit.filter fun j => decide (j < i)) (i * w / 512) (off i)) (elemAt w (s.cur.getV d) i)) s.cur.fflags ∧
         OnlyScalars { s with cur := { s.cur with window := t.cur.window, fflags := t.cur.fflags } } t [] ∧ Stepped s t) ∧
     (¬ ours → exec (.vstxa d a b k) s = .next ((readAll s [a]).faultCode .illegalOperand 0 0 0))) ∧
  (∀ s a ty, VReady s [a] [] → s.mstQueued = false → ElTy.ofCode (s.cur.acw.toNat / 2 ^ 44 % 32) = some ty → tyWide ty = true → InOrder s.cur.window →
     let ours := s.cur.acw.getLsbD 63 = true ∧ s.cur.getS a = ownVa (s.cur.acw.toNat % 2 ^ 22)
     (ours → (∀ x ∈ s.cur.window, OwnAccess s (ownVa x.off) (widthOf ty / 8) ∧ AllKnown s (ownLoc s (ownVa x.off)) (widthOf ty / 8)) →
       ∃ t, exec (.wmerge a) s = .next t ∧ t.cur.pend = mergedStores s ty s.cur.window s.cur.pend ∧ t.cur.acw = 0 ∧ t.cur.window = [] ∧
         OnlyScalars { s with cur := { s.cur with acw := 0, window := [], pend := t.cur.pend } } t [] ∧ Stepped s t) ∧
     (¬ ours → exec (.wmerge a) s = .next ((readAll s [a]).faultCode .illegalOperand 0 0 0)))

/-- R141, R129, R130, R122: every VARI and VARS instruction completes: each active element takes its result, every other bit of the destination stays, the flags of the active elements are raised together, and nothing else changes. R141, R107, R92: the integer results of the element operations, modulo 2^w and without flags: sums, differences, products, multiply-adds, the smaller and larger, quotients with their corners, shifts that fill with bit w − 1, high halves, magnitudes and negations. -/
def Obligations.VectorArithmetic : Prop :=
  (∀ s i f, vForm i = some f → VReady s (if f.scal then [f.b] else []) (f.d :: f.a :: if f.scal then [] else [f.b]) →
     f.types s.cur.vty = true → ¬ (f.rounds = true ∧ isF s.cur.vty = true ∧ s.cur.frm = .efb) →
       let w := widthOf s.cur.vty
       let n := s.cur.n
       let y (j : Nat) : Nat := if f.scal then (s.cur.getS f.b).toNat % 2 ^ w else elemAt w (s.cur.getV f.b) j
       let r (j : Nat) : Nat × Flags := f.el s.cur.vty s.cur.frm (elemAt w (s.cur.getV f.d) j) (elemAt w (s.cur.getV f.a) j) (y j)
       ∃ t, exec i s = .next t ∧ Elementwise w n (on s.cur f.k) (s.cur.getV f.d) (t.cur.getV f.d) (fun j => (r j).1) ∧
         t.cur.fflags = s.cur.fflags ||| flagsOver n (on s.cur f.k) (fun j => (r j).2) ∧ OnlyVectors s t [f.d] ∧ Stepped s t) ∧
  (∀ ty m d a b, isInt ty = true →
     let w := widthOf ty
     let v := elInt ty
     d < 2 ^ w → a < 2 ^ w → b < 2 ^ w →
       addEl ty m a b = (wrapped w (v a + v b), 0) ∧ subEl ty m a b = (wrapped w (v a - v b), 0) ∧ mulEl ty m a b = (wrapped w (v a * v b), 0) ∧
       macEl ty m d a b = (wrapped w (v d + v a * v b), 0) ∧ nmacEl ty m d a b = (wrapped w (v d - v a * v b), 0) ∧
       minEl ty a b = (if v b < v a then b else a, 0) ∧ maxEl ty a b = (if v a < v b then b else a, 0) ∧
       divEl ty m a b = (if b = 0 then 2 ^ w - 1 else wrapped w ((v a).tdiv (v b)), 0) ∧
       sraEl ty a b = (wrapped w (signedAt w a / (2 ^ (b % w) : Nat)), 0) ∧
       mulhEl ty true a b = (wrapped w (signedAt w a * signedAt w b / (2 ^ w : Nat)), 0) ∧
       absEl ty a = (wrapped w (v a).natAbs, 0) ∧ negEl ty a = (wrapped w (- v a), 0))

/-- R142, R129: every compare completes: each active bit of the destination takes the relation, the other bits below N stay, bits at and above N are 0, and nothing else changes. R143, R129: every mask-logic instruction completes and writes its bit at each active position, keeps the others below N and clears those above. R144, R134: `kcnt` and `kfirst` complete: the destination is empty and the count, or the lowest position (all ones for none), stands in the vector queue; VECTOR_QUEUE_COMPLETION then delivers the oldest result. -/
def Obligations.Masks : Prop :=
  (∀ s i d a b k scal types rel, cmpForm i = some (d, a, b, k, scal, types, rel) → BitVec.toNat (w := 5) d < 24 →
     VReady s (if scal then [b] else []) (a :: if scal then [] else [b]) → types s.cur.vty = true →
       let w := widthOf s.cur.vty
       let y (j : Nat) : Nat := if scal then (s.cur.getS b).toNat % 2 ^ w else elemAt w (s.cur.getV b) j
       ∃ t, exec i s = .next t ∧ OnlyMasks s t [d] [] ∧ Stepped s t ∧ ∀ j, j < 2048 → (t.cur.getK d).getLsbD j =
         (if on s.cur k j then rel s.cur.vty (elemAt w (s.cur.getV a) j) (y j) else decide (j < s.cur.n) && (s.cur.getK d).getLsbD j)) ∧
  (∀ s i d k srcs bit, maskForm i s.cur = some (d, k, srcs, bit) → BitVec.toNat (w := 5) d < 24 → VReady s srcs [] →
     ∃ t, exec i s = .next t ∧ OnlyMasks s t [d] [] ∧ Stepped s t ∧ ∀ j, j < 2048 → (t.cur.getK d).getLsbD j =
       (if on s.cur k j then bit j else decide (j < s.cur.n) && (s.cur.getK d).getLsbD j)) ∧
  ((∀ s d a k, VReady s [d] [] → s.cur.pre = none →
     let hits := (List.range s.cur.n).filter fun i => on s.cur k i && (s.cur.getK a).getLsbD i
     (∃ t, exec (.kcnt d a k) s = .next t ∧ Queued s t d (BitVec.ofNat 64 hits.length) ∧ t.cur.fflags = s.cur.fflags ∧ Stepped s t) ∧
     (∃ t, exec (.kfirst d a k) s = .next t ∧ Queued s t d (match hits with
       | i :: _ => BitVec.ofNat 64 i
       | [] => BitVec.allOnes 64) ∧ t.cur.fflags = s.cur.fflags ∧ Stepped s t)) ∧
   (∀ s d v q, s.cur.vq = ⟨d, v⟩ :: q → s.cur.away = false →
     ∃ t, exec (.vectorQueueCompletion s.cur.sid) s = .next t ∧ Holds t d v ∧ t.cur.vq = q ∧
       (∀ r, r ≠ d → t.cur.getS r = s.cur.getS r) ∧ t.cur.pc = s.cur.pc ∧ t.mem = s.mem))

/-- R145, R129: every permute completes: each active element takes the element the form names, 0 where that lies at or above N; no flag is raised and nothing else changes. R145: `vext` queues element n for its scalar register, `vins` writes one element and leaves the others; an n at or above N faults `ILLEGAL_OPERAND`. -/
def Obligations.Permutes : Prop :=
  (∀ s i d k srcs vecs f, permForm i s.cur = some (d, k, srcs, vecs, f) → VReady s srcs (d :: vecs) → notBlock s.cur.vty = true →
     ∃ t, exec i s = .next t ∧ Elementwise (widthOf s.cur.vty) s.cur.n (on s.cur k) (s.cur.getV d) (t.cur.getV d) f ∧
       t.cur.fflags = s.cur.fflags ∧ OnlyVectors s t [d] ∧ Stepped s t) ∧
  (∀ s d a b, notBlock s.cur.vty = true →
     let w := widthOf s.cur.vty
     let n := (s.cur.getS b).toNat
     (VReady s [b, d] [a] → n < s.cur.n → ∃ t, exec (.vext d a b) s = .next t ∧ Queued s t d (toScalar s.cur.vty (elemAt w (s.cur.getV a) n)) ∧ t.cur.fflags = s.cur.fflags ∧ Stepped s t) ∧
     (VReady s [a, b] [d] → n < s.cur.n → ∃ t, exec (.vins d a b) s = .next t ∧
       Elementwise w s.cur.n (fun i => decide (i = n)) (s.cur.getV d) (t.cur.getV d) (fun _ => (s.cur.getS a).toNat) ∧ t.cur.fflags = s.cur.fflags ∧ OnlyVectors s t [d] ∧ Stepped s t) ∧
     (VReady s [b, d] [a] → s.cur.n ≤ n → exec (.vext d a b) s = .next ((readAll s [b]).faultCode .illegalOperand 0 0 0)) ∧
     (VReady s [a, b] [d] → s.cur.n ≤ n → exec (.vins d a b) s = .next ((readAll s [a, b]).faultCode .illegalOperand 0 0 0)))

/-- R123, R146: every reduction completes: the active elements are combined by the pairwise tree over element positions, in that order and no other, and the result is queued for its scalar register, extended by its type. R124, R147: at an integer type `vscan` gives each active position the wrapped sum of the active elements up to it, `vscanx` of those below it; the other positions stay. -/
def Obligations.ReductionsAndScans : Prop :=
  (∀ s i f, redForm i s.cur = some f → VReady s [f.d] [f.a] → f.types s.cur.vty = true → ¬ (f.rounds = true ∧ isF s.cur.vty = true ∧ s.cur.frm = .efb) →
     let r := treeOf f.join (fun j => if on s.cur f.k j then some (f.leaf (elemAt (widthOf s.cur.vty) (s.cur.getV f.a) j)) else none) 11 0
     ∃ t, exec i s = .next t ∧ Queued s t f.d (toScalar f.ty (r.1.getD f.none_)) ∧ t.cur.fflags = s.cur.fflags ||| r.2 ∧ Stepped s t) ∧
  (∀ s d a k, VReady s [] [d, a] → isInt s.cur.vty = true →
     let w := widthOf s.cur.vty
     let n := s.cur.n
     let sum (j : Nat) : Nat := (((List.range j).filter (on s.cur k)).map (elemAt w (s.cur.getV a))).sum
     (∃ t, exec (.vscan d a k) s = .next t ∧ Elementwise w n (on s.cur k) (s.cur.getV d) (t.cur.getV d) (fun j => sum (j + 1)) ∧
       t.cur.fflags = s.cur.fflags ∧ OnlyVectors s t [d] ∧ Stepped s t) ∧
     (∃ t, exec (.vscanx d a k) s = .next t ∧ Elementwise w n (on s.cur k) (s.cur.getV d) (t.cur.getV d) sum ∧
       t.cur.fflags = s.cur.fflags ∧ OnlyVectors s t [d] ∧ Stepped s t))

/-- R148, R121: `vcvt` and `vcvt.sat` of a pair the rules accept complete: positions below P = L / max(w(s), w(t)) are converted one by one, positions at and above P stay. R120: under efb they run the residual chain over the active positions in ascending order: each adds the residual before it, and the residual after the last is left in `efr`. R149, R115: `vunpk` completes: each active position takes the value of its block's element with the block's scales, rounded once. R149, R115, R160: `vpack` completes: each block with an active element is packed, its codes go to the active positions of vd and its scales to vd + 1, everything else of the two registers stays; a block with a NaN or an infinity has scales 0xFF, codes 0 and no flag (R113). Pairs that the rules do not accept fault. -/
def Obligations.Conversions : Prop :=
  (∀ s sat d a k sc r src, ElTy.ofCode (BitVec.toNat (w := 5) sc) = some src → VReady s [] [d, a] → cvtOk sat src s.cur.vty (s.cur.rnd r) = true →
     let i := if sat then Instr.vcvtSat d a k sc r else Instr.vcvt d a k sc r
     let ws := widthOf src
     let wt := widthOf s.cur.vty
     let p := 512 * s.cur.laneCount / Nat.max ws wt
     let lit (j : Nat) : Bool := decide (j < p) && (decide (k = 31) || (s.cur.getK k).getLsbD j)
     let code (j : Nat) : Nat := elemAt ws (s.cur.getV a) j
     let c (j : Nat) : Nat × Flags := convertEl src s.cur.vty (s.cur.rnd r) sat (code j)
     let e (j : Nat) : FVal := residualAt src s.cur.vty sat lit code s.cur.efr j
     let x (j : Nat) : Nat × Flags × FVal := efbStep src s.cur.vty sat (e j) (code j)
     (s.cur.rnd r ≠ .efb → ∃ t, exec i s = .next t ∧ Elementwise wt p lit (s.cur.getV d) (t.cur.getV d) (fun j => (c j).1) ∧
       t.cur.fflags = s.cur.fflags ||| flagsOver p lit (fun j => (c j).2) ∧ OnlyVectors s t [d] ∧ Stepped s t) ∧
     (s.cur.rnd r = .efb → ∃ t, exec i s = .next t ∧ Elementwise wt p lit (s.cur.getV d) (t.cur.getV d) (fun j => (x j).1) ∧
       t.cur.efr = BitVec.ofNat 32 (roundF .f32 fmtF32 .rne (e p)).1 ∧
       t.cur.fflags = s.cur.fflags ||| flagsOver p lit (fun j => (x j).2.1) ∧
       OnlyVectors { s with cur := { s.cur with efr := t.cur.efr } } t [d] ∧ Stepped s t)) ∧
  (∀ s sat d a k sc r src, ElTy.ofCode (BitVec.toNat (w := 5) sc) = some src → VReady s [] [d, a] → cvtOk sat src s.cur.vty (s.cur.rnd r) = false →
     exec (if sat then Instr.vcvtSat d a k sc r else Instr.vcvt d a k sc r) s = .next (s.faultCode .illegalOperand 0 0 0)) ∧
  (∀ s d a k sc src, ElTy.ofCode (BitVec.toNat (w := 5) sc) = some src → VReady s [] [d, a, a + 1] →
     let scale (j : Nat) : Nat × Nat := if isTwin src then (elemAt 8 (s.cur.getV (a + 1)) (2 * j), elemAt 8 (s.cur.getV (a + 1)) (2 * j + 1))
       else (elemAt 8 (s.cur.getV (a + 1)) j, elemAt 8 (s.cur.getV (a + 1)) j)
     let c (i : Nat) : Nat × Flags := roundTo s.cur.vty .rne (blockVal src (scale (i / 32)).1 (scale (i / 32)).2 (elemAt (widthOf src) (s.cur.getV a) i))
     (isBlock src = true → isF s.cur.vty = true →
       ∃ t, exec (.vunpk d a k sc) s = .next t ∧ Elementwise (widthOf s.cur.vty) s.cur.n (on s.cur k) (s.cur.getV d) (t.cur.getV d) (fun j => (c j).1) ∧
         t.cur.fflags = s.cur.fflags ||| flagsOver s.cur.n (on s.cur k) (fun j => (c j).2) ∧ OnlyVectors s t [d] ∧ Stepped s t) ∧
     (¬ (isBlock src = true ∧ isF s.cur.vty = true) → exec (.vunpk d a k sc) s = .next (s.faultCode .illegalOperand 0 0 0))) ∧
  (∀ s d a k sc r src, ElTy.ofCode (BitVec.toNat (w := 5) sc) = some src → VReady s [] [d, d + 1, a] →
     let wt := widthOf s.cur.vty
     let p := 512 * s.cur.laneCount / widthOf src
     let blocks := (p + 31) / 32
     let per := if isTwin s.cur.vty then 2 else 1
     let lit (j : Nat) : Bool := decide (j < p) && (decide (k = 31) || (s.cur.getK k).getLsbD j)
     let q (j : Nat) : Packed := packBlock s.cur.vty (s.cur.rnd r) (blockEls src lit (elemAt (widthOf src) (s.cur.getV a)) j)
     (isF src = true → isBlock s.cur.vty = true → s.cur.rnd r ≠ .efb →
       ∃ t, exec (.vpack d a k sc r) s = .next t ∧
         Elementwise wt (32 * blocks) lit (s.cur.getV d) (t.cur.getV d) (fun i => ((q (i / 32)).codes.getD (i % 32) none).getD 0) ∧
         Elementwise 8 (per * blocks) (fun x => blockLit lit (x / per)) (s.cur.getV (d + 1)) (t.cur.getV (d + 1))
           (fun x => if x % per = 0 then (q (x / per)).x0 else (q (x / per)).x1) ∧
         t.cur.fflags = s.cur.fflags ||| flagsOver blocks (blockLit lit) (fun j => (q j).flags) ∧ OnlyVectors s t [d, d + 1] ∧ Stepped s t) ∧
     (¬ (isF src = true ∧ isBlock s.cur.vty = true ∧ s.cur.rnd r ≠ .efb) → exec (.vpack d a k sc r) s = .next (s.faultCode .illegalOperand 0 0 0))) ∧
  (∀ ty m els, (∃ v, some v ∈ els ∧ notFinite v = true) →
     packBlock ty m els = ⟨0xFF, 0xFF, els.map fun o => o.map fun _ => 0, 0⟩)

/-- R152, R153, R155, R156: a vector load whose active elements all lie in the strand's own scratchpad completes: each active position takes the value its address reads, the others stay; `vldff` also writes N to `ffx`. R157: a segment load whose fields all lie in the strand's own scratchpad completes: register d + j takes field j of each active element, converted to `vty`. -/
def Obligations.VectorLoads : Prop :=
  (∀ s i d k srcs vecs types addr, vloadForm i s.cur = some (d, k, srcs, vecs, types, addr) → VReady s srcs (d :: vecs) → s.mstQueued = false → types s.cur.vty = true → NoMarks s →
     let w := widthOf s.cur.vty
     let first := match i with
       | .vldff _ _ _ _ => true
       | _ => false
     (∀ j, on s.cur k j = true → OwnAccess s (addr j) (w / 8) ∧ AllKnown s (ownLoc s (addr j)) (w / 8)) →
       ∃ t, exec i s = .next t ∧ Elementwise w s.cur.n (on s.cur k) (s.cur.getV d) (t.cur.getV d) (fun j => ownValue s (addr j) (w / 8)) ∧
         t.cur.ffx = (if first then BitVec.ofNat 16 s.cur.n else s.cur.ffx) ∧ t.cur.fflags = s.cur.fflags ∧
         OnlyVectors { s with cur := { s.cur with ffx := t.cur.ffx } } t [d] ∧ Stepped s t) ∧
  (∀ s d a n k c f, ElTy.ofCode (BitVec.toNat (w := 5) c) = some f → s.cur.segOk f = true → NoMarks s → s.mstQueued = false →
     let cnt := BitVec.toNat (w := 5) n - 2
     let fb := widthOf f / 8
     let reg (j : Nat) : BitVec 5 := d + BitVec.ofNat 5 j
     let addr (i j : Nat) : Word := s.cur.getS a + BitVec.ofNat 64 ((i * cnt + j) * fb)
     d.toNat + cnt ≤ 32 → VReady s [a] ((List.range cnt).map reg) →
     (∀ i j, on s.cur k i = true → j < cnt → OwnAccess s (addr i j) fb ∧ AllKnown s (ownLoc s (addr i j)) fb) →
       let x (j i : Nat) : Nat × Flags := segConv f s.cur.vty s.cur.frm (ownValue s (addr i j) fb)
       ∃ t, exec (.vldseg d a n k c) s = .next t ∧
         (∀ j, j < cnt → Elementwise (widthOf s.cur.vty) s.cur.n (on s.cur k) (s.cur.getV (reg j)) (t.cur.getV (reg j)) (fun i => (x j i).1)) ∧
         t.cur.fflags = (List.range cnt).foldl (fun a j => a ||| flagsOver s.cur.n (on s.cur k) (fun i => (x j i).2)) s.cur.fflags ∧
         OnlyVectors s t ((List.range cnt).map reg) ∧ Stepped s t)

/-- R152, R163, R157: a vector or segment store whose active elements all lie in the strand's own scratchpad completes: they join the strand's pending stores in ascending order and no byte of memory changes yet. -/
def Obligations.VectorStores : Prop :=
  (∀ s i d k srcs vecs types addr, vstoreForm i s.cur = some (d, k, srcs, vecs, types, addr) → VReady s srcs (d :: vecs) → s.mstQueued = false → types s.cur.vty = true →
    let w := widthOf s.cur.vty
    let lit := (List.range s.cur.n).filter (on s.cur k)
    (∀ j ∈ lit, OwnAccess s (addr j) (w / 8)) →
      ∃ t, exec i s = .next t ∧ t.cur.pend = s.cur.pend ++ lit.map (fun j => pendOf s (addr j) (w / 8) (elemAt w (s.cur.getV d) j)) ∧
        OnlyScalars { s with cur := { s.cur with pend := t.cur.pend } } t [] ∧ Stepped s t) ∧
  (∀ s d a n k c f, ElTy.ofCode (BitVec.toNat (w := 5) c) = some f → s.cur.segOk f = true → s.mstQueued = false →
    let cnt := BitVec.toNat (w := 5) n - 2
    let fb := widthOf f / 8
    let reg (j : Nat) : BitVec 5 := d + BitVec.ofNat 5 j
    let addr (x : Nat × Nat) : Word := s.cur.getS a + BitVec.ofNat 64 ((x.1 * cnt + x.2) * fb)
    let places := ((List.range s.cur.n).filter (on s.cur k)).flatMap fun i => (List.range cnt).map fun j => (i, j)
    let x (p : Nat × Nat) : Nat × Flags := segConv s.cur.vty f s.cur.frm (elemAt (widthOf s.cur.vty) (s.cur.getV (reg p.2)) p.1)
    VReady s [a] ((List.range cnt).map reg) → (∀ p ∈ places, OwnAccess s (addr p) fb) →
      ∃ t, exec (.vstseg d a n k c) s = .next t ∧ t.cur.pend = s.cur.pend ++ places.map (fun p => pendOf s (addr p) fb (x p).1) ∧
        t.cur.fflags = places.foldl (fun a p => a ||| (x p).2) s.cur.fflags ∧
        OnlyScalars { s with cur := { s.cur with pend := t.cur.pend, fflags := t.cur.fflags } } t [] ∧ Stepped s t)

/-- R158, R114: formatted accesses to a page of blocks that the core has translated complete where every active element lies in the logical view and its block may be accessed. R159: `vldf` gives each active position its element's value with its block's scales, rounded to `vty` with rne. R161: `vldb`, at the page's type, gives each active position its raw code, and vd + 1 the scales of each block with an active position. R160, R162, R274: `vstf` packs each block with an active element, zero codes for its other elements, and makes it a pending store: of elements and scales as one in service mode, byte by byte in maintenance mode; no byte of memory changes yet. R165, R286: a `vamo` whose active elements all lie in the strand's own scratchpad completes: every place has taken the elements that name it, one after the other in ascending order, no other byte changes, and no register does. -/
def Obligations.FormattedAndAtomics : Prop :=
  (∀ s d a k o u ty, VReady s [a] [d] → s.mstQueued = false → NoMarks s → isF s.cur.vty = true →
     let start := s.cur.getS a + BitVec.ofInt 64 (BitVec.toInt (n := 5) o * 64)
     let lit := (List.range s.cur.n).filter (on s.cur k)
     let c (i : Nat) : Nat × Flags := let x := blockElem s start u ty i
       roundTo s.cur.vty .rne (blockVal ty x.2.1 x.2.2 x.1)
     BlockPage s start false u ty → BlocksOk s start u ty lit → BlocksKnown s start u ty lit →
       ∃ t, exec (.vldf d a k o) s = .next t ∧ Elementwise (widthOf s.cur.vty) s.cur.n (on s.cur k) (s.cur.getV d) (t.cur.getV d) (fun i => (c i).1) ∧
         t.cur.fflags = s.cur.fflags ||| flagsOver s.cur.n (on s.cur k) (fun i => (c i).2) ∧ OnlyVectors s t [d] ∧ Stepped s t) ∧
  (∀ s d a k o u, VReady s [a] [d, d + 1] → s.mstQueued = false → NoMarks s → isBlock s.cur.vty = true →
     let ty := s.cur.vty
     let start := s.cur.getS a + BitVec.ofInt 64 (BitVec.toInt (n := 5) o * 64)
     let lit := (List.range s.cur.n).filter (on s.cur k)
     let per := if isTwin ty then 2 else 1
     let scales (j : Nat) : Nat × Nat := (blockElem s start u ty (32 * j)).2
     BlockPage s start false u ty → BlocksOk s start u ty lit → BlocksKnown s start u ty lit →
       ∃ t, exec (.vldb d a k o) s = .next t ∧
         Elementwise (widthOf ty) s.cur.n (on s.cur k) (s.cur.getV d) (t.cur.getV d) (fun i => (blockElem s start u ty i).1) ∧
         Elementwise 8 (per * (s.cur.n / 32)) (fun x => blockLit (on s.cur k) (x / per)) (s.cur.getV (d + 1)) (t.cur.getV (d + 1))
           (fun x => if x % per = 0 then (scales (x / per)).1 else (scales (x / per)).2) ∧
         t.cur.fflags = s.cur.fflags ∧ OnlyVectors s t [d, d + 1] ∧ Stepped s t) ∧
  (∀ s d a k o u ty, VReady s [a] [d] → s.mstQueued = false → isF s.cur.vty = true → s.cur.frm ≠ .efb →
     let start := s.cur.getS a + BitVec.ofInt 64 (BitVec.toInt (n := 5) o * 64)
     let lit := (List.range s.cur.n).filter (on s.cur k)
     let met := (List.range ((s.cur.n + 31) / 32)).filter (blockLit (on s.cur k))
     let q (j : Nat) : Packed := packBlock ty s.cur.frm (blockEls s.cur.vty (on s.cur k) (elemAt (widthOf s.cur.vty) (s.cur.getV d)) j)
     let none0 := if isTwin ty then 2 ^ (widthOf ty - 2) else 0
     let els (j : Nat) : Nat := packEls (widthOf ty) ((q j).codes.map fun c => c.getD none0)
     let scs (j : Nat) : Nat := if isTwin ty then (q j).x0 + (q j).x1 * 256 else (q j).x0
     let en := if widthOf ty = 4 then 16 else 32
     let sn := if isTwin ty then 2 else 1
     let whole (va : Word) (loc n v : Nat) (x : Nat) : Pend := ⟨va, loc, n, v, s.tagFor va loc, some x⟩
     let bytes (va : Word) (loc n v : Nat) : List Pend := (List.range n).map fun i =>
       ⟨va + BitVec.ofNat 64 i, loc + i, 1, v / 256 ^ i % 256, s.tagFor (va + BitVec.ofNat 64 i) (loc + i), none⟩
     BlockPage s start true u ty → BlocksOk s start u ty lit →
       ∃ t, exec (.vstf d a k o) s = .next t ∧
         (s.cur.maint = false → t.ticket = s.ticket + met.length ∧ t.cur.pend = met.zipIdx.flatMap fun m =>
           let b := blockOf u ty start (32 * m.1)
           [whole b.eva b.el en (els m.1) (s.ticket + m.2), whole b.sva b.sl sn (scs m.1) (s.ticket + m.2)]) ∧
         (s.cur.maint = true → t.ticket = s.ticket ∧ t.cur.pend = met.flatMap fun j =>
           let b := blockOf u ty start (32 * j)
           bytes b.eva b.el en (els j) ++ bytes b.sva b.sl sn (scs j)) ∧
         t.cur.fflags = s.cur.fflags ||| flagsOver ((s.cur.n + 31) / 32) (blockLit (on s.cur k)) (fun j => (q j).flags) ∧
         OnlyScalars { s with ticket := t.ticket, cur := { s.cur with pend := t.cur.pend, fflags := t.cur.fflags } } t [] ∧ Stepped s t) ∧
  (∀ s d a b k, VReady s [a] [d, b] → s.mstQueued = false → tyWide s.cur.vty = true →
     let w := widthOf s.cur.vty
     let n := w / 8
     let addr (i : Nat) : Word := s.cur.getS a + BitVec.ofNat 64 (elemAt w (s.cur.getV b) i)
     let lit := (List.range s.cur.n).filter (on s.cur k)
     let hits (loc : Nat) : List Nat := lit.filter fun i => decide (ownLoc s (addr i) = loc)
     (∀ i ∈ lit, OwnAccess s (addr i) n ∧ ∀ p ∈ s.cur.pend, overlaps p.loc p.n (ownLoc s (addr i)) n = false) →
     s.cur.out = [] → s.cur.vamoTodo = none → s.outstanding s.cur.uid = false →
       ∃ t, exec (.vamo d a b k) s = .next t ∧
         (∀ loc, hits loc ≠ [] → t.peek loc n = (hits loc).foldl (fun x i => (addEl s.cur.vty .rne x (elemAt w (s.cur.getV d) i)).1) (s.peek loc n)) ∧
         (∀ x, (∀ i ∈ lit, x < ownLoc s (addr i) ∨ ownLoc s (addr i) + n ≤ x) → t.mem.get memDefault x = s.mem.get memDefault x) ∧
         SameScalars s t [] ∧ t.cur.vregs = s.cur.vregs ∧ t.cur.fflags = s.cur.fflags ∧ t.rels = s.rels ∧ Stepped s t)

/-- R182 to R187, R179: MAT instructions whose checks pass complete by queueing their work in program order, and the front end goes on (R19): `mswap` and `mzero` at once, `mld` and `mstr` with the rows they have read, `mstr` clearing the final bits of its rows, `mst` with the places of its rows. R185, R175: `mrd` of an even row r with both rows final and no poison completes: element i of vd takes column c + i of rows r and r + 1 taken as one row of 256 columns, elements past it stay; an `mrd` whose rows are not final completes with its destination to come, and MRD_WRITE then gives it the same values and changes nothing else. That a waiting `mrd` or `mst` keeps the registers of its issue, to which a fault of its own takes the strand back, is the model's choice (log 29). -/
def Obligations.MatrixIssue : Prop :=
  ((∀ s, MReady s [] → ∃ t, exec .mswap s = .next t ∧ Enqueued s t .mswap) ∧
   (∀ s x, MReady s [] → ∃ t, exec (.mzero x) s = .next t ∧ Enqueued s t (.mzero (BitVec.toNat (w := 2) x))) ∧
   (∀ s a b y ty u l v rows, ElTy.ofCode (BitVec.toNat (w := 5) y) = some ty → MReady s [a, b] → mclass ty ≠ 0 →
     rowBytes ty 128 ≤ (s.cur.getS b).toNat → (s.cur.getS b).toNat < 2 ^ 32 → (s.cur.getS a).toNat % 4 = 0 → (s.cur.getS b).toNat % 4 = 0 →
     (readAll s [a, b]).reachAll (needOf .matrixLoad) (rowsAt (s.cur.getS a) (s.cur.getS b).toNat (mclassK (mclass ty)) (rowBytes ty 128)) = (u, .ok l) →
     u.mstQueued = false → u.readRows (mclassK (mclass ty)) l = (v, rows) → (v.core v.curCore).matrix.used < 16 →
       exec (.mld a b y) s = .next (queued v (.mld ty rows)).retire) ∧
   (∀ s x a b c y ty u l v rows, ElTy.ofCode (BitVec.toNat (w := 5) y) = some ty → MReady s [a, b] →
     (readAll s [a, b]).mstrOk ty (BitVec.toNat (w := 2) x) (decide (c = 1#1)) (s.cur.getS b) = true →
     let n := (s.cur.getS b).toNat % 2 ^ 16
     let pitch := (s.cur.getS b).toNat / 2 ^ 16 % 2 ^ 32
     let bytes := rowBytes ty (mclassK (mclass ty))
     (s.cur.getS a).toNat % 4 = 0 → pitch % 4 = 0 →
     (∀ i, i < n → (s.cur.getS a + BitVec.ofNat 64 (i * pitch)).toNat / 2 ^ 56 = 0xF0 ∧ (s.cur.getS a + BitVec.ofNat 64 (i * pitch)).toNat % 2 ^ 56 + bytes ≤ 2 ^ 21) →
     (readAll s [a, b]).reachAll (needOf .matrixLoad) (rowsAt (s.cur.getS a) pitch n bytes) = (u, .ok l) → u.mstQueued = false → u.readRows n l = (v, rows) →
     (v.core v.curCore).matrix.used < 16 →
       ∃ t, exec (.mstr x a b c y) s = .next t ∧ t.mem = v.mem ∧ Stepped v t ∧
         (t.core v.curCore).matrix.queue = (v.core v.curCore).matrix.queue ++ [entryOf v (.mstr ty x.toNat (decide (c = 1#1)) rows)] ∧
         ((t.core v.curCore).matrix.tile x.toNat).final = ((v.core v.curCore).matrix.tile x.toNat).final &&& ~~~(BitVec.ofNat 128 (2 ^ n - 1)) ∧
         ∀ k, k ≠ x.toNat → (t.core v.curCore).matrix.tile k = (v.core v.curCore).matrix.tile k) ∧
   (∀ s x a b y ty u l, ElTy.ofCode (BitVec.toNat (w := 5) y) = some ty → MReady s [a, b] →
     mstTakes ((s.core s.curCore).matrix.tagOf (BitVec.toNat (w := 2) x)) ty = true →
     16 * widthOf ty ≤ (s.cur.getS b).toNat → (s.cur.getS b).toNat < 2 ^ 32 → (s.cur.getS a).toNat % (widthOf ty / 8) = 0 → (s.cur.getS b).toNat % (widthOf ty / 8) = 0 →
     (readAll s [a, b]).reachAll (needOf .matrixStore) (rowsAt (s.cur.getS a) (s.cur.getS b).toNat 128 (128 * (widthOf ty / 8))) = (u, .ok l) →
     (u.core u.curCore).matrix.used < 16 →
       exec (.mst x a b y) s = .next (queued u (.mst ty x.toNat (l.map fun q => ⟨q.1, q.2.1, q.2.2.2.loc, q.2.2.2.key, q.2.2.1, q.2.2.2.sable⟩) ⟨u.jtime + u.cur.dlDef, u.cur⟩)).retire)) ∧
  ((∀ s d x a, Ready s [a] → s.cur.mlease = true → s.cur.stream d = none → s.cur.laneCount ≠ 0 → s.cur.laneCount ≤ 16 →
     let v := (s.cur.getS a).toNat
     let r := v % 2 ^ 16
     let c := v / 2 ^ 16
     let m := (s.core s.curCore).matrix
     v < 2 ^ 24 → r % 2 = 0 → r ≤ 126 →
     (rowsMissing m.queue (BitVec.toNat (w := 2) x) [r, r + 1] = none → s.mrdQueued = false → (m.tile x.toNat).poison = 0 → (m.tile x.toNat).ecc = 0 →
       ∃ t, exec (.mrd d x a) s = .next t ∧ Elementwise 32 (16 * s.cur.laneCount) (fun i => decide (c + i < 256)) (s.cur.getV d) (t.cur.getV d)
         (fun i => column (tileRow m x.toNat (r + (c + i) / 128)) ((c + i) % 128)) ∧ t.cur.fflags = s.cur.fflags ∧ OnlyVectors s t [d] ∧ Stepped s t) ∧
     (rowsMissing m.queue (BitVec.toNat (w := 2) x) [r, r + 1] ≠ none ∨ s.mrdQueued = true →
       ∃ t, exec (.mrd d x a) s = .next t ∧ Enqueued s t (.mrd x.toNat r c d ⟨s.jtime + s.cur.dlDef, (readAll s [a]).cur⟩))) ∧
   (∀ s x r c d w pc n pre post, s.cur.away = false → s.cur.laneCount ≤ 16 →
     let k := coreOf s.cur.sid
     let m := (s.core k).matrix
     m.queue = pre ++ ⟨s.cur.uid, pc, .mrd x r c d w, n⟩ :: post → (∀ e ∈ pre, e.uid = s.cur.uid → ∀ t r c d w, e.op ≠ .mrd t r c d w) → rowReady pre x r = true → rowReady pre x (r + 1) = true →
     (m.tile x).poison = 0 → (m.tile x).ecc = 0 →
       ∃ t, exec (.mrdWrite s.cur.sid) s = .next t ∧ Elementwise 32 (16 * s.cur.laneCount) (fun i => decide (c + i < 256)) (s.cur.getV d) (t.cur.getV d)
         (fun i => column (tileRow m x (r + (c + i) / 128)) ((c + i) % 128)) ∧ (∀ v, v ≠ d → t.cur.getV v = s.cur.getV v) ∧
         t.core k = { s.core k with matrix := { m with queue := pre ++ post } } ∧ OnlyCore { s with cur := { s.cur with vregs := t.cur.vregs } } t k))

/-- R179, R182, R183, R186: the matrix unit's own events, for work at the head of the queue: MLD_COMPLETE fills the shadow plane, MSWAP_PERFORMED exchanges the planes, MZERO_PERFORMED scrubs the tile; each takes its entry out and changes nothing else. R179, R184, R125, R175: MSTR_ROW_FINAL of the pass at the head of the queue writes its next row and no other: for i8 each column is the sum of the products of signed bytes, with the old column where the pass accumulates, modulo 2^32; a row whose source is poisoned is marked so. That a pass that accumulates into a marked row leaves the mark, and that an uncorrectable error met in a plane marks the rows made of it, is read from R175 (log 37, DEDUCED). R179, R187, R180: MST_ROW_WRITE of the `mst` at the head of the queue: the row's values join the pending stores of the strand that issued it, as a store that a later fault of a waiting `mst` or `mrd` of it leaves (log 29); the last row takes the entry out. -/
def Obligations.MatrixUnit : Prop :=
  (∀ s c u pc n post,
     let m := (s.core c).matrix
     (∀ ty rows, m.queue = ⟨u, pc, .mld ty rows, n⟩ :: post → ∃ t, exec (.mldComplete c) s = .next t ∧ OnlyCore s t c ∧
       t.core c = { s.core c with matrix := { m with shadow := ⟨some ty, rows.map (·.bytes), rows.any (·.poison), false⟩, queue := post } }) ∧
     (m.queue = ⟨u, pc, .mswap, n⟩ :: post → ∃ t, exec (.mswapPerformed c) s = .next t ∧ OnlyCore s t c ∧
       t.core c = { s.core c with matrix := { m with act := m.shadow, shadow := m.act, queue := post } }) ∧
     (∀ x, m.queue = ⟨u, pc, .mzero x, n⟩ :: post → x < 4 → ∃ t, exec (.mzeroPerformed c) s = .next t ∧ OnlyCore s t c ∧
       (t.core c).matrix.queue = post ∧ (t.core c).matrix.tile x = ⟨.z, [], BitVec.allOnes 128, 0, 0⟩ ∧
       (t.core c).matrix.act = m.act ∧ (t.core c).matrix.shadow = m.shadow ∧ ∀ k, k ≠ x → (t.core c).matrix.tile k = m.tile k)) ∧
  (∀ s c u pc ty x acc rows n post row,
     let m := (s.core c).matrix
     m.queue = ⟨u, pc, .mstr ty x acc rows, n⟩ :: post → x < 4 → n < 128 → rows[n]? = some row →
       ∃ t, exec (.mstrRowFinal c none) s = .next t ∧ OnlyCore s t c ∧
         let m' := (t.core c).matrix
         m'.act = m.act ∧ m'.shadow = m.shadow ∧ (∀ k, k ≠ x → m'.tile k = m.tile k) ∧ (∀ i, i ≠ n → tileRow m' x i = tileRow m x i) ∧
         (m'.tile x).tag = passTag ty acc (m.tile x).tag ∧
         m'.queue = (if n + 1 < rows.length then ⟨u, pc, .mstr ty x acc rows, n + 1⟩ :: post else post) ∧
         (ty = .i8 → ∀ j, j < 128 → column (tileRow m' x n) j = wrapped 32 ((if acc then (column (tileRow m x n) j : Int) else 0) +
           (List.range (mclassK (mclass .i8))).foldl (fun (z : Int) i => z + signedAt 8 (row.bytes / 2 ^ (8 * i) % 256) * signedAt 8 (m.act.rows.getD i 0 / 2 ^ (8 * j) % 256)) 0)) ∧
         (ty ≠ .i8 → tileRow m' x n = sumRow m.act ty acc row.bytes (tileRow m x n)) ∧
         (m'.tile x).poison.getLsbD n = (row.poison || m.act.poison || (acc && (m.tile x).poison.getLsbD n)) ∧
         (m'.tile x).ecc.getLsbD n = (m.act.ecc || (acc && (m.tile x).ecc.getLsbD n)) ∧
         (rowReady post x n = true → (m'.tile x).final.getLsbD n = true) ∧
         (∃ u, exec (.mstrRowFinal c (some .active)) s = .next u ∧ OnlyCore s u c ∧ ((u.core c).matrix.tile x).ecc.getLsbD n = true)) ∧
  (∀ s c pc ty x dests w n post,
     let m := (s.core c).matrix
     let row := dests.filter fun d => decide (d.row = n)
     let stores := pieceStores s (widthOf ty / 8) row (storedRow ty (tileRow m x n))
     m.queue = ⟨s.cur.uid, pc, .mst ty x dests w, n⟩ :: post → (m.tile x).poison.getLsbD n = false → (m.tile x).ecc.getLsbD n = false →
     (∀ d ∈ row, d.sable = false) →
       ∃ t, exec (.mstRowWrite c) s = .next t ∧ t.cur = { s.cur with pend := s.cur.pend ++ stores } ∧ OnlyCore { s with cur := t.cur } t c ∧
         t.core c = { s.core c with matrix := { m with queue :=
           (if n + 1 < 128 then ⟨s.cur.uid, pc, .mst ty x dests w, n + 1⟩ :: post else post).map fun e => e.noted s.cur.uid stores } })

/-- R196, R197, R265: `cpy` and `cpyr` of a plain descriptor to a port with no stream binding complete: a release event is made, the descriptor is captured in a copy queued on the port, both token registers are empty, and nothing moves yet; a defective descriptor faults `COPY_DESCRIPTOR`. R203, R74, R76: `cwait` on a chunk map in the strand's own scratchpad: with every chunk of the mask in place it ends `MET` with 0; with its deadline past and chunks missing it ends `PAST_ON_ENTRY` with the missing chunks in sd and `wabs`; otherwise it waits. R207, R74: `tlwait` on a counter in the strand's own scratchpad: at or past the value in sd it ends `MET`, short of it with the deadline past it ends `PAST_ON_ENTRY`, both with the counter in sd and `wabs`; otherwise it waits. -/
def Obligations.CopyAndWait : Prop :=
  (∀ s rev d a b p v u, Ready s [a, d, b] → ReadsRec (readAll s [a]) (s.cur.getS a) 64 8 v u →
     let i := if rev = true then Instr.cpyr d a b p else Instr.cpy d a b p
     let port := BitVec.toNat (w := 4) p
     ((descOf v).bad (decide (12 ≤ port)) = false → (descOf v).multicast = false → (u.portOf u.curCore port).queue.length < 8 →
       (u.portOf u.curCore port).bound = none → (∀ q ∈ (u.portOf u.curCore port).queue, ∃ k, q = .copy k) → ReleaseCalm u →
       ∃ t c, exec i s = .next t ∧ t.pkg.copies = u.pkg.copies ++ [c] ∧ c.id = u.pkg.nextCopy ∧ c.desc = descOf v ∧ c.rev = rev ∧ c.st = .queued ∧
         c.eng = .port u.curCore port ∧ c.sd = d ∧ c.sb = b ∧ c.uid = u.cur.uid ∧ c.job = u.cur.job ∧
         (t.portOf u.curCore port).queue = (u.portOf u.curCore port).queue ++ [.copy c.id] ∧ (∃ w, t.rels = ⟨u.nextRel, u.cur.sid, false, (descOf v).scope, w⟩ :: u.rels) ∧
         (∀ r, t.cur.isFull r = (u.cur.isFull r && !(decide (r ≠ 0) && (decide (r = d) || decide (r = b))))) ∧
         (∀ r, t.cur.getS r = u.cur.getS r) ∧ t.mem = u.mem ∧ Stepped u t) ∧
     ((descOf v).bad (decide (12 ≤ port)) = true → exec i s = .next (u.faultCode .copyDescriptor 0 0 0))) ∧
  (∀ s d a b w, Ready s [a, b, d] →
     let va := s.cur.getS a + BitVec.ofNat 64 (8 * BitVec.toNat (w := 7) w)
     let miss := s.cur.getS d &&& ~~~BitVec.ofNat 64 (s.peek (ownLoc s va) 8)
     let dl := s.cur.getS b
     WordCalm s va →
       (miss = 0 → ∃ t, exec (.cwait d a b w) s = .next t ∧ Ended s t 7 0 0 0 d 0) ∧
       (miss ≠ 0 → dl.toNat ≤ s.jtime.toNat → ∃ t, exec (.cwait d a b w) s = .next t ∧ Ended s t 7 0 5 miss d miss) ∧
       (miss ≠ 0 → s.jtime.toNat < dl.toNat → ∃ t, exec (.cwait d a b w) s = .next t ∧ WaitsFor s t (.chunks (ownLoc s va) va (s.cur.getS d)) (some (clamped s dl)))) ∧
  (∀ s d a b, Ready s [a, b, d] →
     let va := s.cur.getS a
     let v := BitVec.ofNat 64 (s.peek (ownLoc s va) 8)
     let n := s.cur.getS d
     let dl := s.cur.getS b
     WordCalm s va →
       (n.toNat ≤ v.toNat → ∃ t, exec (.tlwait d a b) s = .next t ∧ Ended s t 6 0 0 v d v) ∧
       (v.toNat < n.toNat → dl.toNat ≤ s.jtime.toNat → ∃ t, exec (.tlwait d a b) s = .next t ∧ Ended s t 6 0 5 v d v) ∧
       (v.toNat < n.toNat → s.jtime.toNat < dl.toNat → ∃ t, exec (.tlwait d a b) s = .next t ∧ WaitsFor s t (.timeline (ownLoc s va) va n) (some (clamped s dl))))

/-- R208: `cstat` writes the status of a port of the strand's core: queue length, whether it runs, whether a copy from it awaits replay, whether it is bound, and tag and bytes in place of the command at its head; a port number above 15 faults. R191, R192: `sbind` of an unbound register to a free vector port with a good pattern binds both and completes; `sunbind` frees the port, discards its strips and leaves the register 0; on a register that is not bound it has no effect. R190, R191, R193, R202: what a port does: PORT_DISPATCH starts the copy or binding at the head of a free port's queue; STREAM_STRIP_DELIVER puts the next strip into a bound port: its elements, where they lie in the strand's own scratchpad and no write since the binding is unknown to the strand, and zeros past the end of the stream; COPY_REPLAY takes up a serviced copy again, only its clear chunks. -/
def Obligations.PortsAndStreams : Prop :=
  (∀ s d a, Ready s [a, d] →
     let p := (s.cur.getS a).toNat
     let q := s.portOf s.curCore p
     let head : Option Copy := match q.running, q.queue.head? with
       | some id, _ | none, some (.copy id) => s.copy? id
       | _, _ => none
     (p < 16 → q.queue.length < 16 → (∀ c, head = some c → (c.done.map c.desc.chunkLen).sum < 2 ^ 40) → ∃ t v, exec (.cstat d a) s = .next t ∧ Holds t d v ∧ OnlyScalars s t [d] ∧ Stepped s t ∧
       v.toNat % 16 = q.queue.length ∧ v.getLsbD 4 = q.running.isSome ∧ v.getLsbD 6 = q.bound.isSome ∧
       (v.getLsbD 5 = true ↔ ∃ c ∈ s.pkg.copies, c.eng = .port s.curCore p ∧ (c.st = .faulted ∨ c.st = .replayQueued)) ∧
       v.toNat / 2 ^ 8 % 2 ^ 40 = (match head with
         | some c => (c.done.map c.desc.chunkLen).sum
         | none => 0) ∧
       v.toNat / 2 ^ 48 = (match head with
         | some c => c.desc.tag.toNat % 2 ^ 16
         | none => 0)) ∧
     (16 ≤ p → exec (.cstat d a) s = .next ((readAll s [a]).faultCode .illegalOperand 0 0 0))) ∧
  ((∀ s d a e p v u, Ready s [a] → s.cur.stream d = none → BitVec.toNat (w := 4) p < 4 → (s.portOf s.curCore p.toNat).bound = none →
     ReadsRec (readAll s [a]) (s.cur.getS a) 64 8 v u → u.cores = s.cores → u.cur.stream d = none → u.curCore = s.curCore → (descOf v).bad false = false → (descOf v).patternOnly = true →
       ∃ t, exec (.sbind d a e p) s = .next t ∧ t.cur.stream d = some ⟨p.toNat, descOf v, u.cur.vbits / 8, BitVec.toNat (w := 3) e + 1, 0, u.nextW⟩ ∧
         (t.portOf s.curCore p.toNat).bound = some (u.cur.uid, d) ∧ t.mem = u.mem ∧ t.cur.sregs = u.cur.sregs ∧ t.cur.vregs = u.cur.vregs ∧ Stepped u t) ∧
   (∀ s d b, Ready s [] → s.cur.stream d = some b → b.port < 16 → (s.portOf s.curCore b.port).bound = some (s.cur.uid, d) →
     ∃ t, exec (.sunbind d) s = .next t ∧ t.cur.stream d = none ∧ t.cur.getV d = 0 ∧ (t.portOf s.curCore b.port).bound = none ∧
       (t.portOf s.curCore b.port).strips = [] ∧ t.mem = s.mem ∧ (∀ r, r ≠ d → t.cur.getV r = s.cur.getV r) ∧ Stepped s t) ∧
   (∀ s d, Ready s [] → s.cur.stream d = none → ∃ t, exec (.sunbind d) s = .next t ∧ OnlyScalars s t [] ∧ Stepped s t)) ∧
  ((∀ s c p id k rest, (s.portOf c p).running = none → (s.portOf c p).bound = none → s.replayWaits (.port c p) = false → (s.portOf c p).queue = .copy id :: rest →
     s.copy? id = some k → s.engineRuns k.job = true → p < 16 →
       ∃ t, exec (.portDispatch c p) s = .next t ∧ (t.portOf c p).queue = rest ∧ (t.portOf c p).running = some id ∧
         t.copy? id = some { k with st := .running } ∧ t.mem = s.mem ∧ t.cur = s.cur) ∧
   (∀ s c p u v rest, (s.portOf c p).running = none → (s.portOf c p).bound = none → s.replayWaits (.port c p) = false → (s.portOf c p).queue = .bind u v :: rest → p < 16 →
     ∃ t, exec (.portDispatch c p) s = .next t ∧ OnlyCore s t c ∧ (t.portOf c p).queue = rest ∧ (t.portOf c p).bound = some (u, v) ∧ (t.portOf c p).active = true) ∧
   (∀ s c p v b, (s.portOf c p).bound = some (s.cur.uid, v) → s.cur.stream v = some b → (s.portOf c p).active = true → (s.portOf c p).fault = none →
     (s.portOf c p).strips.length < b.depth → s.engineRuns s.cur.job = true → p < 16 →
     let size := b.desc.esize
     let strip := (List.range (b.strip / size)).map fun i => (b.next + (s.portOf c p).strips.length) * b.strip / size + i
     let addr (e : Nat) : Word := b.desc.pat b.desc.src e
     let bytes (e : Nat) : List Byte := if b.desc.len ≤ e * size then List.replicate size 0
       else overlayPend (ownLoc s (addr e)) (s.bytesAt (ownLoc s (addr e)) size) s.cur.pend
     (∀ e ∈ strip, e * size < b.desc.len → OwnAccess s (addr e) size ∧
       ∀ w ∈ s.hist, overlaps w.loc w.n (ownLoc s (addr e)) size = true → knownTo b.since s.cur.hb w = true) →
       ∃ t, exec (.streamStripDeliver c p) s = .next t ∧ OnlyCore s t c ∧
         t.portOf c p = { s.portOf c p with strips := (s.portOf c p).strips ++ [natOfBytes (strip.flatMap bytes)], buf := [] }) ∧
   (∀ s id k c p, s.copy? id = some k → k.st = .replayQueued → k.eng = .port c p → s.engineRuns k.job = true → (s.portOf c p).running = none → (s.portOf c p).bound = none → p < 16 →
     ∃ t, exec (.copyReplay id) s = .next t ∧ t.copy? id = some k.again ∧ (t.portOf c p).running = some id ∧ t.mem = s.mem ∧ t.cur = s.cur))

/-- R199, R195: COPY_CHUNK of a copy of one row of dwords within the issuing strand's own scratchpad, source and destination apart: every byte of the chunk stands at its destination, and no other byte of memory has changed. R197, R202, R309: the tokens: the release token comes once every source byte is read, the delivery token once every chunk is in place and the release token is out, each with its number of bytes; a faulted copy without a map, whose started chunks have settled, posts its record with the chunks that are missing and the time of its detection, writes the code into both tokens and is over; that its release token counts the bytes read is read from R202 (log 42, DEDUCED). -/
def Obligations.CopyEngine : Prop :=
  (∀ s id c k, s.copy? id = some c → s.copyRuns c = true → c.uid = s.cur.uid → c.job = s.cur.job → c.sid = s.cur.sid → c.desc.esize = 8 → c.desc.ext = [k, 1, 1, 1] → c.desc.str = [0, 0, 0] →
     c.desc.reduce = 0 → c.desc.flags = 0 → c.rev = false → c.fill = none → c.ue = none → c.done = [] → c.read = [] → c.out = [] → c.hold = [] → c.bits = [] → c.lost = [] → 0 < k → k ≤ 64 →
     (∀ x ∈ s.claims, x.copy ≠ id) →
     let src := ownLoc s c.desc.src
     let dst := ownLoc s c.desc.dst
     (∀ i, i < k → OwnAccess s (c.desc.src + BitVec.ofNat 64 (8 * i)) 8 ∧ OwnAccess s (c.desc.dst + BitVec.ofNat 64 (8 * i)) 8) →
     (src + 8 * k ≤ dst ∨ dst + 8 * k ≤ src) →
     (∀ w ∈ s.hist, overlaps w.loc w.n src (8 * k) = true → knownTo (s.jobStart c.job) (c.hb ||| c.writes) w = true) →
       ∃ t, exec (.copyChunk id 0) s = .next t ∧ (∀ x, x < 8 * k → t.mem.get memDefault (dst + x) = s.mem.get memDefault (src + x)) ∧
         (∀ x, x < dst ∨ dst + 8 * k ≤ x → t.mem.get memDefault x = s.mem.get memDefault x) ∧ t.cur = s.cur) ∧
  ((∀ s id c, s.copy? id = some c → s.copyRuns c = true → c.relDone = false → (∀ j, j < c.desc.chunks → c.read.contains j = true) → c.uid = s.cur.uid → c.replaying = false →
     ∃ t, exec (.releaseTokenWrite id) s = .next t ∧ t.cur.getS c.sb = (if c.sb = 0 then 0 else BitVec.ofNat 64 (c.bytesRead % 2 ^ 40)) ∧ t.cur.isFull c.sb = true ∧
       (∀ r, r ≠ c.sb → t.cur.getS r = s.cur.getS r) ∧ t.mem = s.mem ∧ t.cur.pc = s.cur.pc) ∧
   (∀ s id c, s.copy? id = some c → s.copyRuns c = true → c.complete = true → c.relDone = true → c.delDone = false → c.uid = s.cur.uid →
     ∃ t, exec (.deliveryTokenWrite id) s = .next t ∧ t.cur.getS c.sd = (if c.sd = 0 then 0 else BitVec.ofNat 64 (c.bytesDone % 2 ^ 40)) ∧ t.cur.isFull c.sd = true ∧
       (∀ r, r ≠ c.sd → t.cur.getS r = s.cur.getS r) ∧ t.mem = s.mem ∧ t.cur.pc = s.cur.pc ∧ (t.copy? id = none ∨ ∃ x ∈ s.branchesOf id, x.failed ≠ none)) ∧
   (∀ s id c f j, s.copy? id = some c → c.fault = some f → c.st = .running → c.out = [] → c.hold = [] → c.desc.mapped = false → c.replaying = false →
     c.relDone = false → c.delDone = false → c.uid = s.cur.uid → s.job? c.job = some j → s.engineRuns c.job = true →
     let clear := (List.range c.desc.chunks).filter fun k => !c.done.contains k
     let r : FaultRec := { f with chunkLow := clear.headD 0, chunkCount := clear.length, replay := false }
     let token (bytes : Nat) : Word := BitVec.ofNat 64 (f.code.num * 2 ^ 40 + bytes % 2 ^ 40)
     RingRoom s j r → r.big = false →
       ∃ t, exec (.copyFaultPost id) s = .next t ∧ t.mem = (s.ringPut j (r.bytes j.id (f.at_.getD s.gtime)) []).mem ∧ t.copy? id = none ∧
         (c.sb ≠ 0 → t.cur.getS c.sb = token c.bytesRead ∧ t.cur.isFull c.sb = true) ∧
         (c.sd ≠ 0 → c.sd ≠ c.sb → t.cur.getS c.sd = token ((c.done.map c.desc.chunkLen).sum) ∧ t.cur.isFull c.sd = true) ∧
         (∀ x, x ≠ c.sd → x ≠ c.sb → t.cur.getS x = s.cur.getS x) ∧ t.cur.pc = s.cur.pc))

/-- R205: `capp` of the first record of an empty chain of this package, header and record apart: sd takes the command's number, the header's counter and tail and the record's link and number are written, the engine is notified of the command, and no other byte changes; a chain whose engine the job may not use faults `COPY_DESCRIPTOR`. R206: a command whose effects are done writes its status and then its number into the timeline counter, and the chain is free for the next; an acquirer of that number sees the command's writes, the status among them. -/
def Obligations.Chains : Prop :=
  (∀ s d a b u h rh v, Ready s [a, b, d] → (readAll s [a, b]).chainPlaces (s.cur.getS a) (s.cur.getS b) = (u, .ok (h, rh)) → s.cur.replies = [] →
     isHere h.loc = true → isHere rh.loc = true → u.objView h 32 = some v →
     let n := recField v 8 8 + 1
     let ok := u.engineOk u.cur.job (BitVec.ofNat 32 (recField v 24 4))
     (ok = true → recField v 0 8 = 0 → ReleaseCalm u → (h.loc + 32 ≤ rh.loc ∨ rh.loc + 64 ≤ h.loc) →
       ∃ t c, exec (.capp d a b) s = .next t ∧ Holds t d (BitVec.ofNat 64 n) ∧
         t.bytesAt h.loc 8 = bytesOfNat 8 (s.cur.getS b).toNat ∧ t.bytesAt (h.loc + 8) 8 = bytesOfNat 8 n ∧
         t.bytesAt rh.loc 8 = bytesOfNat 8 0 ∧ t.bytesAt (rh.loc + 56) 8 = bytesOfNat 8 n ∧
         (∀ x, (x < h.loc ∨ h.loc + 16 ≤ x) → (x < rh.loc ∨ rh.loc + 8 ≤ x) → (x < rh.loc + 56 ∨ rh.loc + 64 ≤ x) → t.mem.get memDefault x = u.mem.get memDefault x) ∧
         t.chain? h.loc = some c ∧ c.job = u.cur.job ∧ c.timeline = BitVec.ofNat 64 (recField v 16 8) ∧
         (∃ cmd, c.todo.getLast? = some cmd ∧ cmd.recLoc = rh.loc ∧ cmd.seq = n % 2 ^ 64 ∧ cmd.sid = u.cur.sid) ∧
         (∃ w, t.rels = ⟨u.nextRel, u.cur.sid, false, scopeOfLoc u.cur.sid h.loc, w⟩ :: u.rels) ∧ Stepped u t) ∧
     (ok = false → exec (.capp d a b) s = .next (u.faultCode .copyDescriptor 0 0 0))) ∧
  (∀ (s : State) (c : Chain) (cmd : ChainCmd) (u : State) (h : Hit), s.chain? c.hdr = some c → s.engineRuns c.job = true → c.cur = some cmd → c.done = true → s.engReach (s.cmdStrand c cmd) c.timeline 8 (needOf .copyDst) = (u, .ok h) → u.pkg.chains = s.pkg.chains →
     let at_ := (u.recPlace c.job cmd).1
     isHere h.loc = true → isHere (at_ + 10) = true → isPeerLoc at_ = false → (at_ + 12 ≤ h.loc ∨ h.loc + 8 ≤ at_ + 10) →
       ∃ t, exec (.chainCommandComplete c.hdr) s = .next t ∧ t.bytesAt (at_ + 10) 2 = bytesOfNat 2 ((c.fault.map fun f => f.code.num).getD 0) ∧ t.bytesAt h.loc 8 = bytesOfNat 8 cmd.seq ∧
         (∀ x, (x < at_ + 10 ∨ at_ + 12 ≤ x) → (x < h.loc ∨ h.loc + 8 ≤ x) → t.mem.get memDefault x = u.mem.get memDefault x) ∧
         t.chain? c.hdr = some { c with cur := none, done := false, fault := none, waiting := none, status := none, buf := [], writes := c.writes ||| 2 ^ u.nextW } ∧
         t.tlRels.get [] h.loc = (cmd.seq, c.writes ||| 2 ^ u.nextW) :: u.tlRels.get [] h.loc ∧ t.cur = u.cur)

/-- R204, R305, R382, R383: the commands that have no effect and those whose effect is at once: marks; `INDIGO_PATH_SET`, which replaces the PIN and AVOID bits of a peer's table; `UE_REGISTER_REGION`, which registers a region of the job. R204, R305, R382, R383: the commands that copy: each starts a copy by its engine with the descriptor its record names, taken by the identity of the strand that appended it: on a port of the engine's core, by a die's Ochre engine, by the Ultra Ethernet endpoint; `OCHRE_FILL` a copy of a pattern. R382: `INDIGO_WAIT` holds its chain; the wait is over once the counter, here in this package, has reached its value by the deadline, and fails with `COPY_FAULT` once its deadline has passed; `INDIGO_SIGNAL` adds to a word of this package in one step, as a release at scope fab. -/
def Obligations.ChainCommands : Prop :=
  ((∀ (s : State) (hdr : Nat) (c : Chain) (cmd : ChainCmd), NextCmd s hdr 0 3 c cmd → ∃ t, exec (.chainMark hdr) s = .next t ∧ MarkDone s t hdr c cmd) ∧
   (∀ (s : State) (hdr : Nat) (c : Chain) (cmd : ChainCmd), NextCmd s hdr 1 3 c cmd → ∃ t, exec (.ochreMark hdr) s = .next t ∧ MarkDone s t hdr c cmd) ∧
   (∀ (s : State) (hdr : Nat) (c : Chain) (cmd : ChainCmd), NextCmd s hdr 2 3 c cmd → ∃ t, exec (.indigoMark hdr) s = .next t ∧ MarkDone s t hdr c cmd) ∧
   (∀ (s : State) (hdr : Nat) (c : Chain) (cmd : ChainCmd), NextCmd s hdr 3 4 c cmd → ∃ t, exec (.ueMark hdr) s = .next t ∧ MarkDone s t hdr c cmd) ∧
   (∀ (s : State) (hdr : Nat) (c : Chain) (cmd : ChainCmd) k, NextCmd s hdr 2 6 c cmd → peerKey (recArg (s.recOf c.job cmd) 0) = some k →
     ∃ t, exec (.indigoPathSet hdr) s = .next t ∧ t.chain? hdr = some (marked c cmd) ∧
       (∀ (i : Nat) (p : PathEntry), (s.peer k).paths[i]? = some p → (t.peer k).paths[i]? = some { p with pin := (recArg (s.recOf c.job cmd) 1).getLsbD i, avoid := (recArg (s.recOf c.job cmd) 2).getLsbD i }) ∧
       t.mem = s.mem ∧ t.cur = s.cur) ∧
   (∀ (s : State) (hdr : Nat) (c : Chain) (cmd : ChainCmd) j, NextCmd s hdr 3 3 c cmd → s.job? c.job = some j →
     let arg (i : Nat) : Word := recArg (s.recOf c.job cmd) i
     (arg 0).toNat < 1024 → (arg 1).toNat % 512 = 0 → (arg 2).toNat % 512 = 0 → (arg 3).toNat % 8 = 0 →
       ∃ t j', exec (.ueRegisterRegion hdr) s = .next t ∧ t.job? c.job = some j' ∧
         j'.regions.head? = some ⟨(arg 0).toNat, arg 1, (arg 2).toNat, arg 3, (arg 4).getLsbD 0, (arg 4).getLsbD 1⟩ ∧
         t.chain? hdr = some (marked c cmd) ∧ t.mem = s.mem ∧ t.cur = s.cur)) ∧
  ((∀ (s : State) (hdr : Nat) (c : Chain) (cmd : ChainCmd) u d rev, NextCmd s hdr 0 (if rev then 2 else 1) c cmd →
     let p := (recArg (s.recOf c.job cmd) 1).toNat % 16
     4 ≤ p → s.coreHas (coreOf c.field) c.job = true → PlainDesc s c cmd (recArg (s.recOf c.job cmd) 0) (decide (12 ≤ p)) u d →
     u.chain? hdr = some c → (u.portOf (coreOf c.field) p).queue.length < 8 →
       ∃ t x, exec (if rev = true then .chainCopyr hdr else .chainCopy hdr) s = .next t ∧ StartedCopy u t hdr c cmd (.port (coreOf c.field) p) d rev 0x100000000 x ∧
         (t.portOf (coreOf c.field) p).queue = (u.portOf (coreOf c.field) p).queue ++ [.copy x.id] ∧ x.st = .queued) ∧
   (∀ (s : State) (hdr : Nat) (c : Chain) (cmd : ChainCmd) u d rev, NextCmd s hdr 2 (if rev then 2 else 1) c cmd →
     let p := (recArg (s.recOf c.job cmd) 1).toNat % 16
     12 ≤ p → s.coreHas (coreOf c.field) c.job = true → PlainDesc s c cmd (recArg (s.recOf c.job cmd) 0) true u d →
     u.chain? hdr = some c → (u.portOf (coreOf c.field) p).queue.length < 8 →
       ∃ t x, exec (if rev = true then .indigoCopyr hdr else .indigoCopy hdr) s = .next t ∧ StartedCopy u t hdr c cmd (.port (coreOf c.field) p) d rev (recArg (s.recOf c.job cmd) 2) x ∧
         (t.portOf (coreOf c.field) p).queue = (u.portOf (coreOf c.field) p).queue ++ [.copy x.id] ∧ x.st = .queued) ∧
   (∀ (s : State) (hdr : Nat) (c : Chain) (cmd : ChainCmd) u d rev, NextCmd s hdr 1 (if rev then 2 else 1) c cmd → recArg (s.recOf c.job cmd) 1 = 0 → PlainDesc s c cmd (recArg (s.recOf c.job cmd) 0) false u d → u.chain? hdr = some c →
     ∃ t x, exec (if rev = true then .ochreCopyr hdr else .ochreCopy hdr) s = .next t ∧
       StartedCopy u t hdr c cmd (.ochre (sidDie c.field) (c.field.toNat / 256 % 2)) d rev 0x100000000 x ∧ x.st = .running) ∧
   (∀ (s : State) (hdr : Nat) (c : Chain) (cmd : ChainCmd), NextCmd s hdr 1 4 c cmd →
     let dst := recArg (s.recOf c.job cmd) 0
     let len := recArg (s.recOf c.job cmd) 1
     dst.toNat % 8 = 0 → len.toNat % 8 = 0 →
       ∃ t x d, exec (.ochreFill hdr) s = .next t ∧ StartedCopy s t hdr c cmd (.ochre (sidDie c.field) (c.field.toNat / 256 % 2)) d false 0x100000000 x ∧
         d.dst = dst ∧ d.len = len.toNat ∧ d.mapped = false ∧ x.fill = some (recArg (s.recOf c.job cmd) 2) ∧ x.st = .running) ∧
   (∀ (s : State) (hdr : Nat) (c : Chain) (cmd : ChainCmd) u d peer region m, NextCmd s hdr 3 1 c cmd → ueFar (recArg (s.recOf c.job cmd) 1) = some (peer, region) → ueModeOf ((recArg (s.recOf c.job cmd) 3).toNat % 4) = some m →
     PlainDesc s c cmd (recArg (s.recOf c.job cmd) 0) false u d → ueWriteBad d m = false → u.chain? hdr = some c →
       ∃ t x, exec (.ueWrite hdr) s = .next t ∧ StartedCopy u t hdr c cmd .ue d false (recArg (s.recOf c.job cmd) 2) x ∧ x.ue = some ⟨peer, region, m, false, d.mapped⟩ ∧ x.st = .running) ∧
   (∀ (s : State) (hdr : Nat) (c : Chain) (cmd : ChainCmd) u d peer region, NextCmd s hdr 3 2 c cmd → ueFar (recArg (s.recOf c.job cmd) 1) = some (peer, region) → PlainDesc s c cmd (recArg (s.recOf c.job cmd) 0) false u d → u.chain? hdr = some c →
     ∃ t x, exec (.ueRead hdr) s = .next t ∧ StartedCopy u t hdr c cmd .ue d true (recArg (s.recOf c.job cmd) 2) x ∧ x.ue = some ⟨peer, region, .rud, true, d.mapped⟩ ∧ x.st = .running)) ∧
  ((∀ (s : State) (hdr : Nat) (c : Chain) (cmd : ChainCmd), NextCmd s hdr 2 4 c cmd → ∃ t, exec (.indigoWait hdr) s = .next t ∧ t.chain? hdr = some (taken c cmd) ∧ t.mem = s.mem ∧ t.cur = s.cur) ∧
   (∀ (s : State) (hdr : Nat) (c : Chain) (cmd : ChainCmd) u h, RunsCmd s hdr 2 4 c cmd → s.indigoPlace c cmd (recArg (s.recOf c.job cmd) 0) .load = (u, .ok h) → isHere h.loc = true → u.chain? hdr = some c →
     (s.jtimeOf c.job).toNat ≤ (recArg (s.recOf c.job cmd) 2).toNat →
     ((recArg (s.recOf c.job cmd) 1).toNat ≤ u.peekKey h.key h.loc 8 → ∃ t, exec (.indigoWaitMet hdr) s = .next t ∧ t.chain? hdr = some { c with done := true, fault := none } ∧ t.mem = u.mem) ∧
     (u.peekKey h.key h.loc 8 < (recArg (s.recOf c.job cmd) 1).toNat → exec (.indigoWaitMet hdr) s = .next u)) ∧
   (∀ (s : State) (hdr : Nat) (c : Chain) (cmd : ChainCmd) j, RunsCmd s hdr 2 4 c cmd → (recArg (s.recOf c.job cmd) 2).toNat < (s.jtimeOf c.job).toNat → s.job? c.job = some j →
     let r : FaultRec := ⟨.copyFault, false, false, false, cmd.sid, cmd.pc, recArg (s.recOf c.job cmd) 0, 8, 0, 0, 0, 0, false, none, none⟩
     RingRoom s j r → ∃ t, exec (.indigoWaitExpired hdr) s = .next t ∧ t.mem = (s.ringPut j (r.bytes j.id s.gtime) []).mem ∧
       t.chain? hdr = some { c with done := true, fault := some r } ∧ t.cur = s.cur) ∧
   (∀ (s : State) (hdr : Nat) (c : Chain) (cmd : ChainCmd) u h, NextCmd s hdr 2 5 c cmd → s.indigoPlace c cmd (recArg (s.recOf c.job cmd) 0) .atomic = (u, .ok h) → isHere h.loc = true → u.chain? hdr = some c →
     ∃ t, exec (.indigoSignal hdr) s = .next t ∧
       t.bytesAt h.loc 8 = bytesOfNat 8 ((u.peekKey h.key h.loc 8 + (recArg (s.recOf c.job cmd) 1).toNat) % 2 ^ 64) ∧
       (∀ x, x < h.loc ∨ h.loc + 8 ≤ x → t.mem.get memDefault x = u.mem.get memDefault x) ∧
       t.rels = ⟨u.nextRel, cmd.sid, false, .fab, cmd.hb ||| c.writes⟩ :: u.rels ∧ t.chain? hdr = some { marked c cmd with writes := c.writes ||| 2 ^ u.nextW } ∧ t.cur = u.cur))

/-- R380, R383: what the Ultra Ethernet endpoint does with packets it takes: a write or read of a region that the job has not registered so is answered with a failure; a write is placed and acknowledged; a read is answered with the region's bytes and their poison (R175); a peer's acknowledgement settles the chunk it belongs to; under ROD only the next packet of its context is taken. R378, R379: an unordered write is discarded and counted, a request of more than 4,096 bytes is discarded. -/
def Obligations.UePackets : Prop :=
  (∀ s peer job region off m op mapped tag psn unit bad data,
    let p := UePacket.write peer job region off m op mapped tag psn unit bad data
    s.ueDrops p = false → s.ueHolds p = false → s.regionFor job region off data.length true = none →
      ∃ t x, exec (.uePacket p) s = .next t ∧ t.pkg.ueOut = s.pkg.ueOut ++ [x] ∧ x.pkt = .failed peer tag .pageProtection ∧ t.mem = s.mem) ∧
  (∀ s peer job region off m tag psn unit bad data r u w,
    let p := UePacket.write peer job region off m 0 false tag psn unit bad data
    let h := (s.ueHeard p).onCtx p fun c => { c with next := c.next + 1 }
    s.ueDrops p = false → s.ueHolds p = false → s.regionFor job region off data.length true = some r →
    h.uePlace (h.jobStrand job) (r.base + BitVec.ofNat 64 off) 0 unit bad data = (u, .ok w) → u.pkg = h.pkg →
      ∃ t x, exec (.uePacket p) s = .next t ∧ t.pkg.ueOut = s.pkg.ueOut ++ [x] ∧ x.pkt = .ack peer tag ∧ t.mem = u.mem) ∧
  (∀ s peer job region off len tag r u bs bad,
    let p := UePacket.read peer job region off len tag
    let h := (s.ueHeard p).onCtx p fun c => { c with next := c.next + 1 }
    s.ueDrops p = false → s.regionFor job region off len false = some r →
    h.ueFetch (h.jobStrand job) (r.base + BitVec.ofNat 64 off) len = (u, .ok (bs, bad)) → u.pkg = h.pkg →
      ∃ t x, exec (.uePacket p) s = .next t ∧ t.pkg.ueOut = s.pkg.ueOut ++ [x] ∧ x.pkt = .readReply peer tag bad bs ∧ t.mem = u.mem) ∧
  (∀ s peer tag c j, s.ueDrops (.ack peer tag) = false → s.ueOwner tag = some (c, j) → s.copy? c.id = some c → c.out = [(j, tag)] → c.bits = [] → c.lost = [] →
    ∃ t, exec (.uePacket (.ack peer tag)) s = .next t ∧ t.mem = s.mem ∧ t.cur = s.cur ∧ ∀ k, t.copy? c.id = some k → k.out = [] ∧ k.done.contains j = true) ∧
  (∀ s peer job region off op mapped tag psn unit bad data,
    let p := UePacket.write peer job region off .rod op mapped tag psn unit bad data
    s.ueDrops p = false → psn ≠ ((s.ueCtx p).map (·.next)).getD 0 → exec (.uePacket p) s = .next s) ∧
  (∀ s peer job region off op mapped tag psn unit bad data,
    ∃ t, exec (.uePacket (.write peer job region off .uud op mapped tag psn unit bad data)) s = .next t ∧ t = { s with pkg := { s.pkg with uudCount := s.pkg.uudCount + 1 } }) ∧
  (∀ s peer job region off len tag, 4096 < len → exec (.uePacket (.read peer job region off len tag)) s = .next s)

/-- R216, R221, R222, R215: `bbind` reads its record: it configures an object that nothing has, binds to one that agrees and faults on any other; `bdrop` takes members out of the member set; `bstat` reads the object, 0 for an unbound register. R217, R218, R219: an arrival through a bound register: excused for a dropped party, late for a closed phase, both at once and without a release; counted for the open or the next phase, as a release: `barr` completes with it, `bsync` goes on to wait for that phase; a third arrival faults `BAR_OVERRUN`; an unbound register `ILLEGAL_OPERAND`. -/
def Obligations.BarrierObjects : Prop :=
  ((∀ s d a v u, Ready s [a] → ReadsRec (readAll s [a]) (s.cur.getS a) 16 2 v u →
     let id := BitVec.ofNat 32 v
     let b := u.bar (barCluster id) (barObj id)
     let party := v / 2 ^ 32 % 2 ^ 8
     (u.barRecOk v = true → b.config = false → u.treeHeld (u.barTree treeFuel (barCluster id) (barObj id)) = false → exec (.bbind d a) s = .next ((u.configure (barCluster id) (barObj id) v).bindBar d (barCluster id) (barObj id) party).retire) ∧
     (u.barRecOk v = true → b.config = false → v / 2 ^ 96 % 2 = 0 → u.childBars (barCluster id) (barObj id) = [] → (∀ x ∈ u.strands, Resv.bar (barCluster id) (barObj id) ∉ x.resv) →
       ∃ t, exec (.bbind d a) s = .next t ∧ t.bar (barCluster id) (barObj id) = configuredAs v u.cur.job ∧
         t.cur.getB d = (if party = 0xFF then none else some ⟨barCluster id, barObj id, party, 0, false⟩) ∧ t.mem = u.mem ∧ t.cur.sregs = u.cur.sregs ∧ Stepped u t) ∧
     (u.barRecOk v = true → b.config = true → b.agrees v = true → party ≠ 0xFF → b.members.getLsbD party = true →
       ∃ t, exec (.bbind d a) s = .next t ∧ t.cur.getB d = some ⟨barCluster id, barObj id, party, b.phase, false⟩ ∧ t.clusters = u.clusters ∧ t.mem = u.mem ∧ t.cur.sregs = u.cur.sregs ∧ Stepped u t) ∧
     (u.barRecOk v = false ∨ (b.config = true ∧ b.agrees v = false) → exec (.bbind d a) s = .next (u.faultCode .illegalOperand 0 0 0))) ∧
   (∀ s d a r, Ready s [a] → s.cur.getB d = some r →
     let b := s.bar r.cluster r.obj
     let m := ~~~(s.cur.getS a &&& b.members)
     let b' := { b with members := b.members &&& m, arrived := b.arrived &&& m, early := b.early &&& m }
     ((∀ x ∈ s.strands, Resv.bar r.cluster r.obj ∉ x.resv) → exec (.bdrop d a) s = .next ((((readAll s [a]).setBar r.cluster r.obj b').settleBar r.cluster r.obj).retire)) ∧
     (Lone s r.cluster r.obj → ∃ t, exec (.bdrop d a) s = .next t ∧ t.mem = s.mem ∧ t.rels = s.rels ∧ t.cur.sregs = s.cur.sregs ∧ t.cur.getB d = some r ∧ Stepped s t ∧
       (StaysOpen s b' → t.bar r.cluster r.obj = b') ∧
       (phaseFull b' → StaysOpen s (closedAs b' true 0) → t.bar r.cluster r.obj = closedAs b' true 0))) ∧
   (∀ s d a, Ready s [d] → ∃ t v, exec (.bstat d a) s = .next t ∧ Holds t d v ∧ OnlyScalars s t [d] ∧ Stepped s t ∧
     (s.cur.getB a = none → v = 0) ∧ (∀ r, s.cur.getB a = some r → r.party < 64 → v.getLsbD 54 = true ∧ v.extractLsb' 48 6 = BitVec.ofNat 6 r.party ∧
       v.getLsbD 47 = (s.bar r.cluster r.obj).config ∧ v.extractLsb' 0 32 = (s.bar r.cluster r.obj).phase))) ∧
  (∀ s sync d a b r, Ready s [b, d] → readAll s [b] = s → s.cur.getB a = some r → s.phaseShut r.cluster r.obj = false →
     let i := if sync = true then Instr.bsync d a b else Instr.barr d a
     let o := s.bar r.cluster r.obj
     (o.members.getLsbD r.party = false → ∃ t, exec i s = .next t ∧ wstFields t.cur.wst = (4, false, o.phase, 1) ∧ t.cur.wabs = 0 ∧ Holds t d 0 ∧
       t.cur.getB a = some { r with phase := o.phase } ∧ t.rels = s.rels ∧ t.clusters = s.clusters ∧ Stepped s t) ∧
     (o.members.getLsbD r.party = true → (r.phase - o.phase).toInt < 0 → ∃ t, exec i s = .next t ∧ wstFields t.cur.wst = (2, false, r.phase, 1) ∧
       t.cur.wabs = o.absOf r.phase ∧ Holds t d (o.absOf r.phase) ∧ t.cur.getB a = some { r with phase := o.phase } ∧ t.rels = s.rels ∧ t.clusters = s.clusters ∧ Stepped s t) ∧
     (o.members.getLsbD r.party = true → ((r.phase - o.phase).toInt = 0 ∨ (r.phase - o.phase).toInt = 1) → ReleaseCalm s →
       let u := ((releasedAt s (s.barScope r.cluster r.obj)).countArrival r.cluster r.obj r.party (decide ((r.phase - o.phase).toInt = 1)) s.nextRel).onCur
         fun t => t.setB a (some { r with phase := r.phase + 1, since := true })
       exec i s = .next (if sync = true then u.waitBar d r.cluster r.obj r.phase (u.cur.getS b) else u.finish 1 r.phase .met 0 d 0)) ∧
     (o.members.getLsbD r.party = true → ((r.phase - o.phase).toInt = 0 ∨ (r.phase - o.phase).toInt = 1) → ReleaseCalm s → Lone s r.cluster r.obj → o.job = s.cur.job →
       s.cur.wait = none → s.jtime.toNat + s.cur.dlMax.toNat < 2 ^ 64 →
       let bit : BitVec 64 := 1#64 <<< r.party
       let e := clamped s (s.cur.getS b)
       let o' := if (r.phase - o.phase).toInt = 1 then { o with early := o.early ||| bit, earlyRels := s.nextRel :: o.earlyRels } else { o with arrived := o.arrived ||| bit, rels := s.nextRel :: o.rels }
       let asked := if (r.phase - o.phase).toInt = 1 then { o' with dlNext := minDl o'.dlNext (some e) } else { o' with dl := minDl o'.dl (some e) }
       let full := closedAs o' true 0
       let now (t : State) (k : Barrier) : Prop := t.bar r.cluster r.obj = k ∧ t.cur.getB a = some { r with phase := r.phase + 1, since := true } ∧ Released s t .cluster ∧ t.mem = s.mem
       (StaysOpen s o' → ∃ t, exec (.barr d a) s = .next t ∧ now t o' ∧ wstFields t.cur.wst = (0, false, r.phase, 1) ∧ t.cur.wabs = 0 ∧ Holds t d 0 ∧ Stepped s t) ∧
       (phaseFull o' → StaysOpen s full → ∃ t, exec (.barr d a) s = .next t ∧ now t full ∧ wstFields t.cur.wst = (0, false, r.phase, 1) ∧ t.cur.wabs = 0 ∧ Holds t d 0 ∧ Stepped s t) ∧
       (StaysOpen s o' → s.jtime.toNat < (s.cur.getS b).toNat → ∃ t, exec (.bsync d a b) s = .next t ∧ now t asked ∧ WaitsFor s t (.barrier r.cluster r.obj r.phase) (some e)) ∧
       (phaseFull o' → (r.phase - o.phase).toInt = 0 → StaysOpen s full →
         ∃ t, exec (.bsync d a b) s = .next t ∧ now t full ∧ wstFields t.cur.wst = (0, false, r.phase, 1) ∧ t.cur.wabs = 0 ∧ Holds t d 0 ∧ Stepped s t)) ∧
     (o.members.getLsbD r.party = true → 1 < (r.phase - o.phase).toInt → exec i s = .next (s.faultCode .barOverrun 0 0 0)) ∧
     (∀ c, s.cur.getB c = none → exec (if sync = true then .bsync d c b else .barr d c) s = .next (s.faultCode .illegalOperand 0 0 0)))

/-- R219, R220, R74: `bwait` for a phase that has closed returns the recorded absentees, `MET` or `EXPIRED` as the closure was; without an arrival since the binding it faults; for an open phase it supplies its deadline and waits. R220: closure of a barrier of one object whose members have all arrived: the phase number goes up by one, the closed phase is recorded as met with no absentee and its releases, and the next phase starts with those that arrived early; BARRIER_DEADLINE_CLOSE closes the phase of an object whose deadline has passed as expired, with the members that are missing. -/
def Obligations.BarrierPhases : Prop :=
  (∀ s d a b r, Ready s [b, d] → s.cur.getB a = some r →
     let o := s.bar r.cluster r.obj
     let q := r.phase - 1
     (∀ x, r.since = true → (q - o.phase).toInt < 0 → o.closed.find? (fun x => decide (x.phase = q)) = some x →
       ∃ t, exec (.bwait d a b) s = .next t ∧ Ended s t 1 q (if x.met then 0 else 1) x.absent d x.absent) ∧
     (r.since = false → exec (.bwait d a b) s = .next ((readAll s [b]).faultCode .illegalOperand 0 0 0)) ∧
     (r.since = true → 0 ≤ (q - o.phase).toInt → exec (.bwait d a b) s = .next ((readAll s [b]).waitBar d r.cluster r.obj q (s.cur.getS b)))) ∧
  ((∀ (s : State) (c o : Nat), Lone s c o → phaseFull (s.bar c o) → StaysOpen s (closedAs (s.bar c o) true 0) → (s.settleBar c o).bar c o = closedAs (s.bar c o) true 0) ∧
   (∀ (s : State) (c o : Nat) (j : Job) d,
     let b := s.bar c o
     let absent := b.members &&& ~~~b.arrived
     Lone s c o → s.job? b.job = some j → j.halted = false → j.jrun = true → b.dl = some d → d.toNat < (s.jtimeOf b.job).toNat → ¬ phaseFull b → StaysOpen s (closedAs b false absent) →
       ∃ t, exec (.barrierDeadlineClose c o) s = .next t ∧ t.bar c o = closedAs b false absent ∧ t.mem = s.mem ∧ t.cur = s.cur))

/-- R224, R74, R76: `acq` of a free lock in near memory takes it in one step: the holder word is the strand's, the generation goes up by one, the strand's guard table has it, and the wait ends `MET`; of a lock another holds it ends `PAST_ON_ENTRY` with that holder once its deadline is past, and waits before. R225, R226, R227, R223: `rel` by the holder publishes the strand's pending stores, of the guarded ones only those whose lock's generation is still their tag's, frees the lock as a release event and ends `MET`; by another it discards the strand's stores tagged with this lock, ends `STALE` with the holder and writes nothing to memory; `mend` with the holder and generation that stand takes the lock over and ends `MENDED`; with others it ends `STALE`. -/
def Obligations.Locks : Prop :=
  (∀ s d a b u h v, Ready s [a, b, d] → s.cur.wait = none → s.cur.replies = [] → s.jtime.toNat + s.cur.dlMax.toNat < 2 ^ 64 →
     LockAt ((readAll s [a, b]).enterPoll 2 d (s.cur.getS b)) (s.cur.getS a) u h v →
     let holder := (lockFields v).1
     let gen := (lockFields v).2.1
     let len := (lockFields v).2.2.2
     let dl := u.cur.getS b
     holder ≠ u.cur.sid ||| 1#32 → (len ≠ 0 → u.cur.guards.length < 4) →
     (holder = 0 → ∃ t, exec (.acq d a b) s = .next t ∧ t.bytesAt h.loc 8 = bytesOfNat 4 (u.cur.sid ||| 1#32).toNat ++ bytesOfNat 4 (gen + 1).toNat ∧
       (∀ x, x < h.loc ∨ h.loc + 8 ≤ x → t.mem.get memDefault x = u.mem.get memDefault x) ∧ h.loc ∈ t.cur.locks ∧ (len ≠ 0 → ∃ g ∈ t.cur.guards, g.lock = h.loc ∧ g.gen = gen + 1) ∧
       wstFields t.cur.wst = (0, false, gen + 1, 2) ∧ t.cur.wabs = 0 ∧ Holds t d 0 ∧ Stepped u t) ∧
     (holder ≠ 0 → dl.toNat ≤ s.jtime.toNat → ∃ t, exec (.acq d a b) s = .next t ∧ Ended u t 2 gen 5 ((holder &&& ~~~1#32).setWidth 64) d ((holder &&& ~~~1#32).setWidth 64)) ∧
     (holder ≠ 0 → s.jtime.toNat < dl.toNat → ∃ t, exec (.acq d a b) s = .next t ∧ WaitsFor u t (.lock h.loc (s.cur.getS a)) (some (clamped s dl)))) ∧
  ((∀ s d a u h v, Ready s [a, d] → s.cur.replies = [] → LockAt (readAll s [a]) (s.cur.getS a) u h v →
     let holder := (lockFields v).1
     let gen := (lockFields v).2.1
     (holder = u.cur.sid ||| 1#32 → ∀ l, PendsAt u l → ∃ t, exec (.rel d a) s = .next t ∧ t.bytesAt h.loc 4 = [0, 0, 0, 0] ∧
       (∀ x, x < h.loc ∨ h.loc + 4 ≤ x → t.mem.get memDefault x = laidOver l x (u.mem.get memDefault x)) ∧ t.cur.pend = [] ∧ h.loc ∉ t.cur.locks ∧ (∀ g ∈ t.cur.guards, g.lock ≠ h.loc) ∧
       (∃ w, t.rels = ⟨u.nextRel, u.cur.sid, false, scopeOfLoc u.cur.sid h.loc, w⟩ :: u.rels) ∧ t.lockRels.get [] h.loc = u.nextRel :: u.lockRels.get [] h.loc ∧
       wstFields t.cur.wst = (0, false, gen, 2) ∧ Holds t d 0 ∧ Stepped u t) ∧
     (holder ≠ u.cur.sid ||| 1#32 → ∃ t, exec (.rel d a) s = .next t ∧ t.mem = u.mem ∧ t.rels = u.rels ∧ h.loc ∉ t.cur.locks ∧
       t.cur.pend = u.cur.pend.filter (fun p => decide (p.tag.map Prod.fst ≠ some h.loc)) ∧ wstFields t.cur.wst = (7, false, gen, 2) ∧ t.cur.wabs = (holder &&& ~~~1#32).setWidth 64 ∧ Holds t d 7 ∧ Stepped u t)) ∧
   (∀ s d a b u h v, Ready s [a, b, d] → LockAt (readAll s [a, b, d]) (s.cur.getS a) u h v → s.cur.replies = [] → (s.cur.getS b).toNat < 2 ^ 32 →
     let holder := (lockFields v).1
     let gen := (lockFields v).2.1
     let same := (s.cur.getS d ||| 1#64) = holder.setWidth 64 ∧ s.cur.getS b = gen.setWidth 64
     (same → (∀ x ∈ u.strands, Resv.lock h.loc ∉ x.resv) → ∃ t, exec (.mend d a b) s = .next t ∧ t.bytesAt h.loc 8 = bytesOfNat 4 (u.cur.sid ||| 1#32).toNat ++ bytesOfNat 4 (gen + 1).toNat ∧
       (∀ x, x < h.loc ∨ h.loc + 8 ≤ x → t.mem.get memDefault x = u.mem.get memDefault x) ∧ h.loc ∈ t.cur.locks ∧
       wstFields t.cur.wst = (3, false, gen + 1, 2) ∧ Holds t d ((holder &&& ~~~1#32).setWidth 64) ∧ Stepped u t) ∧
     (¬ same → ∃ t, exec (.mend d a b) s = .next t ∧ Ended u t 2 gen 7 ((holder &&& ~~~1#32).setWidth 64) d ((holder &&& ~~~1#32).setWidth 64))))

/-- R229, R264, R265, R266, R267: `prel` publishes the strand's pending stores, however many, in their order and each at its place (R225: a guarded one only where its lock's generation is still its tag's), and makes a release event at the scope that every write before it and each of these is before; `pacq` acquires what the strand has observed: of each release observed that the scope pairs with, the writes before it happen before the strand's next reads; `pfull` does both as one event and acquires the earlier `pfull` events of its scope as well. That an acquire uses up what the strand had observed is the model's choice (log 20, DEDUCED). R260, R262: `wmbind` binds a watermark register to an object and a region, a length of 0 unbinds it; `wmpub` raises an object in the strand's own scratchpad, never lowers it, as a release; `wmrd` reads the bound object. -/
def Obligations.FencesAndWatermarks : Prop :=
  ((∀ s sc l, Ready s [] → PendsAt s l → ∃ t, exec (.prel sc) s = .next t ∧ (∀ x, t.mem.get memDefault x = laidOver l x (s.mem.get memDefault x)) ∧
       t.cur.pend = [] ∧ SameScalars s t [] ∧ t.cur.obs = s.cur.obs ∧ t.rels = ⟨s.nextRel, s.cur.sid, false, Scope.ofCode (BitVec.toNat (w := 3) sc), s.cur.past ||| (2 ^ t.nextW - 2 ^ s.nextW)⟩ :: s.rels ∧ Stepped s t) ∧
   (∀ s sc, Ready s [] → ReleaseCalm s → exec (.prel sc) s = .next (releasedAt s (Scope.ofCode (BitVec.toNat (w := 3) sc))).retire) ∧
   (∀ s sc, Ready s [] → ∃ t, exec (.pacq sc) s = .next t ∧ OnlyScalars s t [] ∧ Stepped s t ∧ t.cur.obs = [] ∧
     ∀ r ∈ s.rels, r.id ∈ s.cur.obs → pairs r (Scope.ofCode (BitVec.toNat (w := 3) sc)) s.cur.sid = true → r.writes &&& t.cur.hb = r.writes) ∧
   (∀ s sc l, Ready s [] → PendsAt s l → ∃ t, exec (.pfull sc) s = .next t ∧ (∀ x, t.mem.get memDefault x = laidOver l x (s.mem.get memDefault x)) ∧
     t.cur.pend = [] ∧ SameScalars s t [] ∧ t.cur.obs = [] ∧ t.rels = ⟨s.nextRel, s.cur.sid, false, Scope.ofCode (BitVec.toNat (w := 3) sc), s.cur.past ||| (2 ^ t.nextW - 2 ^ s.nextW)⟩ :: s.rels ∧
     t.pfulls = (Scope.ofCode sc.toNat, s.nextRel) :: s.pfulls ∧ Stepped s t ∧
     ∀ r ∈ s.rels, (r.id ∈ s.cur.obs ∨ (Scope.ofCode (BitVec.toNat (w := 3) sc), r.id) ∈ s.pfulls) → pairs r (Scope.ofCode (BitVec.toNat (w := 3) sc)) s.cur.sid = true → r.writes &&& t.cur.hb = r.writes)) ∧
  ((∀ s d a b v u, Ready s [a, b] → (s.cur.getS a).toNat % 8 = 0 → ReadsRec (readAll s [a, b]) (s.cur.getS b) 16 2 v u → v % 2 ^ 64 + v / 2 ^ 64 % 2 ^ 64 ≤ 2 ^ 64 →
     ∃ t, exec (.wmbind d a b) s = .next t ∧ t.cur.getW d = (if v / 2 ^ 64 % 2 ^ 64 = 0 then none else some ⟨s.cur.getS a, BitVec.ofNat 64 (v % 2 ^ 64), BitVec.ofNat 64 (v / 2 ^ 64 % 2 ^ 64)⟩) ∧
       t.mem = u.mem ∧ t.cur.sregs = u.cur.sregs ∧ Stepped u t) ∧
   (∀ s a b, Ready s [a, b] → OwnAccess s (s.cur.getS a) 8 → ReleaseCalm s → s.cur.replies = [] →
     let loc := ownLoc s (s.cur.getS a)
     ∃ t, exec (.wmpub a b) s = .next t ∧ t.peek loc 8 = Nat.max (s.peek loc 8) (s.cur.getS b).toNat ∧ (∀ x, x < loc ∨ loc + 8 ≤ x → t.mem.get memDefault x = s.mem.get memDefault x) ∧
       (∃ w, t.rels = ⟨s.nextRel, s.cur.sid, false, scopeOfLoc s.cur.sid loc, w⟩ :: s.rels) ∧ SameScalars s t [] ∧ Stepped s t) ∧
   (∀ s d a w, Ready s [d] → s.cur.getW a = some w → OwnAccess s w.obj 8 →
     ∃ t, exec (.wmrd d a) s = .next t ∧ Holds t d (BitVec.ofNat 64 (s.peek (ownLoc s w.obj) 8)) ∧ OnlyScalars s t [d] ∧ Stepped s t) ∧
   (∀ s d a, Ready s [d] → s.cur.getW a = none → exec (.wmrd d a) s = .next (s.faultCode .illegalOperand 0 0 0)))

/-- R71, R74, R76, R99, R100, R170, R181, R190, R234, R247, R258, R342, R343: a wait that has come to its bound ends by its own event: a wait that faults at its bound takes its fault; a deadline wait whose condition is false at its home returns from there with what its rule puts into its destination and `wabs` (`acq` the holder, `rget` and `rtake` the absentees of the latest closed phase, `hrecv` and `frecv` the party the lowest empty slot expects, `qpop` 0, `tlwait` the counter, `cwait` the chunks missing) and `EXPIRED`, or `PAST_ON_ENTRY` where its deadline was past when it began; a `sleep` whose time has come ends `MET`. That `rget` and `rtake` give 0 before any phase has closed is the model's choice (log 63, DESIGN CHOICE). -/
def Obligations.WaitsExpire : Prop :=
  (∀ s w r p, Due s w → w.obj = .port p → w.expiry = some r → r.code = .copyFault → ∃ t, exec (.portQueueWaitExpired s.cur.sid) s = .next t ∧ Faulted s t r) ∧
  (∀ s w r e span, Due s w → w.obj = .watermark e span → w.expiry = some r → r.code = .watermarkExpired → ∃ t, exec (.watermarkExpired s.cur.sid) s = .next t ∧ Faulted s t r) ∧
  (∀ s w r x, Due s w → w.obj = .reg x → w.expiry = some r → r.code = .regWaitExpired → ∃ t, exec (.regWaitExpired s.cur.sid) s = .next t ∧ Faulted s t r) ∧
  (∀ s w r, Due s w → w.obj = .matQueue → w.expiry = some r → s.rowExpired s.cur false = none → ∃ t, exec (.matrixWaitExpired s.cur.sid) s = .next t ∧ Faulted s t r) ∧
  (∀ s w r, Due s w → w.obj = .proxyQueue → w.expiry = some r → ∃ t, exec (.proxyQueueExpired s.cur.sid) s = .next t ∧ Faulted s t r) ∧
  (∀ s w r q, Due s w → w.obj = .proxyReply q → w.expiry = some r →
    ∃ t, exec (.proxyReplyExpired s.cur.sid) s = .next t ∧ Faulted { s with pkg := { s.pkg with proxies := s.pkg.proxies.filter (fun x => decide (x.seq ≠ q)) } } t r) ∧
  (∀ s w loc va mask, Due s w → w.obj = .chunks loc va mask →
    let miss := mask &&& ~~~BitVec.ofNat 64 (s.objGet loc 8)
    ∃ t, exec (.waitExpired s.cur.sid) s = .next t ∧ Ended s t 7 0 (if w.past then 5 else 1) miss w.sd miss) ∧
  (∀ s w g b r, Due s w → w.obj = .ringGet g ∨ w.obj = .ringTake g → s.cur.getG (BitVec.setWidth 5 g) = some b → s.ring? b.ring = some r →
    let absent := (((s.bar r.cluster r.barrier).closed.head?).map (·.absent)).getD 0
    ∃ t, exec (.waitExpired s.cur.sid) s = .next t ∧ Ended s t 3 (s.bar r.cluster r.barrier).phase (if w.past then 5 else 1) absent w.sd absent) ∧
  (∀ s w loc va, Due s w → w.obj = .lock loc va →
    let holder := (BitVec.ofNat 32 (s.objGet loc 4) &&& ~~~1#32).setWidth 64
    ∃ t, exec (.waitExpired s.cur.sid) s = .next t ∧ Ended s t 2 (BitVec.ofNat 32 (s.objGet (loc + 4) 4)) (if w.past then 5 else 1) holder w.sd holder) ∧
  (∀ s w loc hd, Due s w → w.obj = .mailbox loc hd →
    let wanted := ((lowest 8 fun k => slotExpect (s.hslot loc k) && !slotFull (s.hslot loc k)).map fun k => (slotSid (s.hslot loc k)).setWidth 64).getD 0
    ∃ t, exec (.waitExpired s.cur.sid) s = .next t ∧ wstFields t.cur.wst = ((if w.past then 5 else 1), false, 0, 4) ∧ t.cur.wabs = wanted ∧ OnlyWaited s t [] ∧ Stepped s t) ∧
  (∀ s w c q, Due s w → w.obj = .queue c q → ∃ t, exec (.waitExpired s.cur.sid) s = .next t ∧ Ended s t 5 0 (if w.past then 5 else 1) 0 w.sd 0) ∧
  (∀ s w loc va n, Due s w → w.obj = .timeline loc va n →
    let v := BitVec.ofNat 64 (s.objGet loc 8)
    ∃ t, exec (.waitExpired s.cur.sid) s = .next t ∧ Ended s t 6 0 (if w.past then 5 else 1) v w.sd v) ∧
  (∀ s w loc va, Due s w → w.obj = .frecv loc va →
    let wanted := ((lowest 4 fun k => slotExpect (s.fctl loc k) && !slotFull (s.fctl loc k)).map fun k => BitVec.ofNat 64 ((s.fctl loc k).toNat % 2 ^ 32 / 2 ^ 22)).getD (BitVec.allOnes 64)
    ∃ t, exec (.waitExpired s.cur.sid) s = .next t ∧ Ended s t 8 0 (if w.past then 5 else 1) wanted w.sd 0) ∧
  (∀ s w x, InSlot s → s.cur.wait = some w → w.obj = .sleep x → w.bound = some x → x.toNat ≤ s.jtime.toNat →
    ∃ t, exec (.sleepMet s.cur.sid) s = .next t ∧ wstFields t.cur.wst = (0, false, 0, 9) ∧ t.cur.wabs = 0 ∧ OnlyWaited s t [] ∧ Stepped s t) ∧
  (∀ s w k, Due s w → w.obj = .svc k → ∃ t, exec (.svcExpired s.cur.sid) s = .next t ∧ Holds t 4 (BitVec.allOnes 64) ∧ wstFields t.cur.wst = (1, false, 0, 10) ∧
    t.cur.wabs = 0 ∧ OnlyWaited s t [4] ∧ Stepped s t)

/-- R87: PREEMPT takes effect at a point where the strand stands: for a request of priority or of a budget a launched strand goes on and a task leaves its slot with its registers kept, for a gang pre-emption either leaves it so, for a stop it leaves for good; R89: not in a slate wave, and a wait that has come to its bound takes its fault first. R88, R323, R105: a strand that has reached no such point within 65,536 cycles faults `BUDGET_OVERRUN`, with `tbud` in the address field, or leaves its slot where its job stops. R327: a spent budget makes a task give way where another record waits and is refilled otherwise. R63, R88: time passes by nanoseconds of `gtime` and cycles of the arithmetic clock (that what has come due is decided first is log 2, DESIGN CHOICE): `tbud` of every strand that occupies a slot of a running job goes down by the cycles, never below 0, but of a parked strand and while the job's time stands still; the age of a pending request goes up by them; nothing else changes. R301, R324: a hold past dl.max is declined, and the job's policy applies. -/
def Obligations.Preemption : Prop :=
  ((∀ s p, s.cur.away = false → s.cur.pre = some p → (p = .stop ∨ s.cur.preAge < 65536) → s.cur.atPoint = true → s.curFrozen = false → (∀ w, s.cur.wait = some w → s.boundCome w = false) →
      (p = .priority ∨ p = .budget → s.cur.task = false → ∃ t, exec (.preempt s.cur.sid) s = .next t ∧ t = { s with cur := { s.cur with pre := none, preAge := 0 } }) ∧
      (p = .priority ∨ p = .budget → s.cur.task = true → ∃ t, exec (.preempt s.cur.sid) s = .next t ∧ t.cur = { s.cur with pre := none, preAge := 0, away := true } ∧ t.rest = s.rest ∧ t.mem = s.mem) ∧
      (p = .gang → ∃ t, exec (.preempt s.cur.sid) s = .next t ∧ t.cur = { s.cur with pre := none, preAge := 0, away := true } ∧ t.rest = s.rest ∧ t.mem = s.mem) ∧
      (p = .stop → (∃ x ∈ s.rest, x.job = s.cur.job ∧ x.away = false) → s.cur.job ≠ 0 → ∃ t, exec (.preempt s.cur.sid) s = .next t ∧ t.cur = Strand.idle ∧ t.mem = s.mem ∧ t.jobs = s.jobs)) ∧
   (∀ s, s.cur.away = false → s.curFrozen = true → exec (.preempt s.cur.sid) s = .next s) ∧
   (∀ s w r p, Due s w → w.obj = .matQueue → w.expiry = some r → s.cur.pre = some p → (p = .stop ∨ s.cur.preAge < 65536) → s.cur.run = .ready → s.curFrozen = false → ∃ t, exec (.preempt s.cur.sid) s = .next t ∧ Faulted s t r)) ∧
  (∀ s p, InSlot s → s.cur.pre = some p → 65536 ≤ s.cur.preAge → s.cur.fresh = true → s.cur.run = .ready →
    (p ≠ .stop → ∃ t, exec (.budgetOverrun s.cur.sid) s = .next t ∧ Faulted s t (plainRec s .budgetOverrun s.cur.tbud 0 0)) ∧
    (p = .stop → (∃ x ∈ s.rest, x.job = s.cur.job ∧ x.away = false) → s.cur.job ≠ 0 →
      ∃ t, exec (.jobStopForce s.cur.sid) s = .next t ∧ t.cur = Strand.idle ∧ t.mem = s.mem ∧ t.jobs = s.jobs)) ∧
  (∀ s, InSlot s → s.cur.tbud = 0 → s.cur.pre = none → s.cur.task = true → 0 < s.myTaskQ.records →
    exec (.tbudExhausted s.cur.sid) s = .next { s with cur := { s.cur with pre := some .budget, preAge := 0 } }) ∧
  (∀ s, InSlot s → s.cur.tbud = 0 → s.cur.pre = none → (s.cur.task = false ∨ s.myTaskQ.records = 0) →
    exec (.tbudExhausted s.cur.sid) s = .next { s with cur := { s.cur with tbud := s.cur.tcap } }) ∧
  ((∀ (s : State) ns cycles, s.pkg.halted = false → ∃ t, s.move (.elapse ns cycles) = .next t ∧ t.gtime = s.settled.gtime + BitVec.ofNat 64 ns ∧
      t.cur = agedBy s.settled cycles s.settled.cur ∧ t.rest = s.settled.rest.map (agedBy s.settled cycles) ∧
      t = { s.settled with gtime := t.gtime, cur := t.cur, rest := t.rest }) ∧
   (∀ (s : State) ns cycles, s.pkg.halted = true → s.move (.elapse ns cycles) = .next { s with gtime := s.gtime + BitVec.ofNat 64 ns })) ∧
  (∀ s k since j, InSlot s → s.cur.run = .held k since → s.cur.dlMax.toNat < (s.jtime - since).toNat → s.job? s.cur.job = some j → j.slate.st = .running →
    s.devGet (s.recPa j k) 1 ≠ FaultCode.keyRevoked.num →
      (j.rec_.policy = .freeze → ∃ t, exec (.holdExpired s.cur.sid) s = .next t ∧ t.cur = { s.cur with run := .frozen (some k) } ∧ t.mem = s.mem) ∧
      (j.rec_.policy = .continue_ → ∃ t, exec (.holdExpired s.cur.sid) s = .next t ∧ t.cur = { s.cur with run := .parked k } ∧ t.mem = s.mem) ∧
      (j.rec_.policy = .stop → j.stopReq = none → (∃ x ∈ s.rest, x.job = s.cur.job ∧ x.away = false) → s.cur.job ≠ 0 →
        ∃ t, exec (.holdExpired s.cur.sid) s = .next t ∧ t.cur = Strand.idle ∧ t.mem = s.mem))

/-- R231, R233, R234, R235, R237, R238: stage rings through a bound register: `rget` claims the slot at the lead where it is free, `rput` fills the claimed slot as a release and drops a voided claim without one, `rtake` takes a filled slot at window slot 0, `rdone` frees it; each faults where the register is unbound or does not stand so: `rget` of a consumer or with a live claim, `rtake` of a producer or with a take, `rput` with neither claim, `rdone` with no take; `rstat` of an unbound register reads 0; `runbind` of an unbound register does nothing, of a bound one it frees the slots of a live claim and of a take, leaves every other slot, and with the last binding the ring goes; `rbind` binds to the ring its descriptor gives. -/
def Obligations.StageRings : Prop :=
  (∀ s d a b g r, Ready s [b, d] → BoundRing s a g r → BitVec.toNat a < 4 → g.role ≠ 2 → g.claim = none → s.cur.wait = none → s.jtime.toNat + s.cur.dlMax.toNat < 2 ^ 64 → r.slotState (r.slotAt r.lead) = .free → r.slotAt r.lead < r.slots.length →
    ∃ t r', exec (.rget d a b) s = .next t ∧ t.cur.getG a = some { g with claim := some (r.slotAt r.lead), voided := none } ∧ t.ring? g.ring = some r' ∧
      r'.slotState (r.slotAt r.lead) = .claimed ∧ wstFields t.cur.wst = (0, false, s.ringPhase r, 3) ∧ t.cur.wabs = 0 ∧ Holds t d 0 ∧ OnlyRings s t a [d] ∧ Stepped s t) ∧
  (∀ s a g r p, Ready s [] → BoundRing s a g r → BitVec.toNat (w := 5) a < 4 → g.claim = some p → p < r.slots.length → ReleaseCalm s → s.phaseShut r.cluster r.barrier = false →
    ∃ t r', exec (.rput a) s = .next t ∧ t.cur.getG a = some { g with claim := none } ∧ t.ring? g.ring = some r' ∧ r'.slotState p = .filled ∧ r'.rels.get none p = some s.nextRel ∧
      (∃ w, t.rels = ⟨s.nextRel, s.cur.sid, false, .cluster, w⟩ :: s.rels) ∧ OnlyRings s t a [] ∧ Stepped s t) ∧
  (∀ s d a b g r, Ready s [b, d] → BoundRing s a g r → BitVec.toNat a < 4 → g.role ≠ 1 → g.take = none → s.cur.wait = none → s.jtime.toNat + s.cur.dlMax.toNat < 2 ^ 64 → r.slotState (r.slotAt 0) = .filled →
    ∃ t r', exec (.rtake d a b) s = .next t ∧ t.cur.getG a = some { g with take := some (r.slotAt 0) } ∧ t.ring? g.ring = some r' ∧ r'.slotState (r.slotAt 0) = .taken ∧
      wstFields t.cur.wst = (0, false, s.ringPhase r, 3) ∧ Holds t d 0 ∧ OnlyRings s t a [d] ∧ Stepped s t) ∧
  (∀ s a g r p, Ready s [] → BoundRing s a g r → BitVec.toNat (w := 5) a < 4 → g.take = some p → p < r.slots.length →
    ∃ t r', exec (.rdone a) s = .next t ∧ t.cur.getG a = some { g with take := none } ∧ t.ring? g.ring = some r' ∧ r'.slotState p = .free ∧ OnlyRings s t a [] ∧ Stepped s t) ∧
  (∀ s a g r p, Ready s [] → BoundRing s a g r → BitVec.toNat (w := 5) a < 4 → g.claim = none → g.voided = some p → s.phaseShut r.cluster r.barrier = false →
    ∃ t, exec (.rput a) s = .next t ∧ t.cur.getG a = some { g with voided := none } ∧ t.rings = s.rings ∧ t.rels = s.rels ∧ OnlyRings s t a [] ∧ Stepped s t) ∧
  (∀ s a g, Ready s [] → s.cur.getG a = some g → (g.claim = none → g.voided = none → (∀ r, s.ring? g.ring = some r → s.phaseShut r.cluster r.barrier = false) → exec (.rput a) s = .next (s.faultCode .illegalOperand 0 0 0)) ∧
    (g.take = none → exec (.rdone a) s = .next (s.faultCode .illegalOperand 0 0 0))) ∧
  (∀ s d a b g, Ready s [b, d] → s.cur.getG a = some g → (g.role = 2 ∨ g.claim.isSome = true → exec (.rget d a b) s = .next ((readAll s [b]).faultCode .illegalOperand 0 0 0)) ∧
    (g.role = 1 ∨ g.take.isSome = true → exec (.rtake d a b) s = .next ((readAll s [b]).faultCode .illegalOperand 0 0 0))) ∧
  (∀ s d a b, Ready s [b, d] → s.cur.getG a = none → exec (.rget d a b) s = .next ((readAll s [b]).faultCode .illegalOperand 0 0 0) ∧ exec (.rtake d a b) s = .next ((readAll s [b]).faultCode .illegalOperand 0 0 0) ∧
    exec (.rput a) s = .next (s.faultCode .illegalOperand 0 0 0) ∧ exec (.rdone a) s = .next (s.faultCode .illegalOperand 0 0 0)) ∧
  (∀ s d a, Ready s [d] → s.cur.getG a = none → ∃ t, exec (.rstat d a) s = .next t ∧ Holds t d 0 ∧ OnlyScalars s t [d] ∧ Stepped s t) ∧
  (∀ s d a g r, Ready s [d] → BoundRing s a g r → ∃ t, exec (.rstat d a) s = .next t ∧ Holds t d (ringStat g r) ∧ OnlyScalars s t [d] ∧ Stepped s t) ∧
  (∀ s a, Ready s [] → s.cur.getG a = none → exec (.runbind a) s = .next s.retire) ∧
  (∀ s a g r, Ready s [] → BoundRing s a g r → BitVec.toNat (w := 5) a < 4 → (∀ x ∈ s.rings, x.base = g.ring → x = r) → 0 < r.bindings →
    ∃ t, exec (.runbind a) s = .next t ∧ t.cur.getG a = none ∧ t.rels = s.rels ∧ (∀ b, b ≠ g.ring → t.ring? b = s.ring? b) ∧ (r.bindings = 1 → t.ring? g.ring = none) ∧
      (r.bindings ≠ 1 → ∃ r', t.ring? g.ring = some r' ∧ r' = { r with bindings := r.bindings - 1, slots := r'.slots } ∧ r'.slots.length = r.slots.length ∧
        ∀ p, p < r.slots.length → r'.slotState p = if g.claim = some p ∨ g.take = some p then .free else r.slotState p) ∧ OnlyRings s t a [] ∧ Stepped s t) ∧
  (∀ s d a v u r role w, Ready s [a] → ReadsRec (readAll s [a]) (s.cur.getS a) 32 4 v u → u.ringOf v = some (r, role) → (u.unbindRing d).bindRing d r role = some w →
    exec (.rbind d a) s = .next w.retire ∧ w.cur.getG d = some ⟨r.base, role, none, none, none⟩)

/-- R239, R241, R242, R243, R244, R248, R249, R250, R395: `hnew` makes a root handle of a tile that meets no other; `hsplit` gives two halves and voids its source; `hjoin` puts two halves of one split together again; `hreclaim` takes a half back under the next generation and frees what was split from it; `hfree` frees a root's entry; `haddr` writes the address of the half's first element, `hinfo` the identity, depth, staleness and axis of the split of a register's handle, or VOID for a void register, and nothing else. R245, R246, R247: `hsend` moves a live handle to the lowest slot of a mailbox that takes it and voids its register; `hrecv` moves the handle of the lowest eligible slot into its register and frees the slot, or waits until its deadline. -/
def Obligations.HandlesAndMail : Prop :=
  ((∀ s d a v u t l w i, Ready s [a] → s.cur.getH d = none → ReadsRec (readAll s [a]) (s.cur.getS a) 16 6 v u → tileOf v = some t → u.placeRuns t.runs = (w, .ok l) → l.any w.runTaken = false →
     w.freeEntry w.curCluster = some i → w.cur.pend = [] → w.cur.out = [] → w.cur.pre = none →
       let g := takenGen (w.lin w.curCluster i)
       ∃ x, exec (.hnew d a) s = .next x ∧ x.cur.getH d = some (mkHandle (sidCluster w.cur.sid) i g 0) ∧
         x.lin w.curCluster i = ⟨true, .root, some t, l, 0, w.cur.sid, w.cur.job, g, g⟩ ∧ OnlyEntries w x w.curCluster [i] ∧ OnlyHandles w x [d] ∧ Stepped w x) ∧
   (∀ s d a b c h x axis off i, Ready s [c] → LiveIn s a h → MayTake s [a] d → MayTake s [a] b → d.setWidth 4 ≠ b.setWidth 4 → s.handleRange (sidDie s.cur.sid) h = some x →
     (s.cur.getS c).toNat = axis * 2 ^ 62 + off → off < 2 ^ 32 → off ≠ 0 → axis < x.ranges.length → off < (x.ranges.getD axis (0, 0)).2 - (x.ranges.getD axis (0, 0)).1 →
     (s.lin (s.hTable h) (hEntry h)).depth < 6 → s.freeEntry (s.hTable h) = some i →
       let g := takenGen (s.lin (s.hTable h) i)
       ∃ t, exec (.hsplit d a b c) s = .next t ∧ t.cur.getH d = some (mkHandle (hCluster h) i g 0) ∧ t.cur.getH b = some (mkHandle (hCluster h) i g 1) ∧
         (d.setWidth 4 ≠ a.setWidth 4 → b.setWidth 4 ≠ a.setWidth 4 → t.cur.getH a = none) ∧
         t.lin (s.hTable h) i = ⟨true, .split (hEntry h) (hHalf h) axis off, none, [], (s.lin (s.hTable h) (hEntry h)).depth + 1, s.cur.sid, s.cur.job, g, g⟩ ∧
         OnlyEntries s t (s.hTable h) [i] ∧ OnlyHandles s t [d, a, b] ∧ Stepped s t) ∧
   (∀ s d a b h k p half axis off, Ready s [] → LiveIn s a h → LiveIn s b k → MayTake s [a, b] d → a.setWidth 4 ≠ b.setWidth 4 → hCluster h = hCluster k → hEntry h = hEntry k → hHalf h ≠ hHalf k →
     (s.lin (s.hTable h) (hEntry h)).origin = .split p half axis off → s.halfBusy (s.hTable h) p half = false →
       ∃ t, exec (.hjoin d a b) s = .next t ∧ t.cur.getH d = some (mkHandle (hCluster h) p ((s.lin (s.hTable h) p).gen half) half) ∧
         (d.setWidth 4 ≠ a.setWidth 4 → t.cur.getH a = none) ∧ (d.setWidth 4 ≠ b.setWidth 4 → t.cur.getH b = none) ∧
         t.lin (s.hTable h) (hEntry h) = freed (s.lin (s.hTable h) (hEntry h)) ∧ OnlyEntries s t (s.hTable h) [hEntry h] ∧ OnlyHandles s t [d, a, b] ∧ Stepped s t) ∧
   (∀ s d a, Ready s [a] → s.cur.getH d = none →
     let h := (s.cur.getS a).setWidth 32
     let e := s.lin (s.hTable h) (hEntry h)
     s.holdsHalf (hCluster h) (hEntry h) (1 - hHalf h) = true → s.holdsHalf (hCluster h) (hEntry h) (hHalf h) = false → e.origin ≠ .root → hGen h = e.gen (hHalf h) →
     s.halfBusy (s.hTable h) (hEntry h) (hHalf h) = false →
       ∃ t, exec (.hreclaim d a) s = .next t ∧ t.cur.getH d = some (mkHandle (hCluster h) (hEntry h) (e.gen (hHalf h) + 1) (hHalf h)) ∧
         (t.lin (s.hTable h) (hEntry h)).gen (hHalf h) = e.gen (hHalf h) + 1 ∧
         (∀ j ∈ s.below (s.hTable h) 8 (hEntry h) (some (hHalf h)), j ≠ hEntry h → (t.lin (s.hTable h) j).used = false) ∧ OnlyHandles s t [d] ∧ Stepped s t) ∧
   (∀ s a h, Ready s [] → LiveIn s a h → (s.lin (s.hTable h) (hEntry h)).depth = 0 → s.halfBusy (s.hTable h) (hEntry h) 0 = false →
     ∃ t, exec (.hfree a) s = .next t ∧ t.cur.getH a = none ∧ t.lin (s.hTable h) (hEntry h) = freed (s.lin (s.hTable h) (hEntry h)) ∧ OnlyEntries s t (s.hTable h) [hEntry h] ∧
       t.mem = s.mem ∧ t.cur.sregs = s.cur.sregs ∧ Stepped s t) ∧
   (∀ s a h, Ready s [] → LiveIn s a h → (s.lin (s.hTable h) (hEntry h)).depth ≠ 0 → exec (.hfree a) s = .next (s.faultCode .handleMismatch 0 0 0)) ∧
   (∀ s d a h x, Ready s [d] → LiveIn s a h → s.handleRange (sidDie s.cur.sid) h = some x →
     ∃ t, exec (.haddr d a) s = .next t ∧ Holds t d (x.tile.base + BitVec.ofNat 64 ((x.ranges.zip (tileStrides x.tile)).map fun p => p.1.1 * p.2).sum) ∧ OnlyScalars s t [d] ∧ Stepped s t) ∧
   (∀ s d a, Ready s [d] → s.cur.getH a = none → ∃ t, exec (.hinfo d a) s = .next t ∧ Holds t d (BitVec.ofNat 64 (2 ^ 35)) ∧ OnlyScalars s t [d] ∧ Stepped s t) ∧
   (∀ s d a h axis, Ready s [d] → s.cur.getH a = some h → (s.lin (s.hTable h) (hEntry h)).used = true → (s.lin (s.hTable h) (hEntry h)).depth ≤ 6 →
     ((s.lin (s.hTable h) (hEntry h)).origin = .root ∧ axis = 0 ∨ ∃ e half off, (s.lin (s.hTable h) (hEntry h)).origin = .split e half axis off) → axis < 4 →
     ∃ t, exec (.hinfo d a) s = .next t ∧
       Holds t d (BitVec.ofNat 64 (h.toNat + (s.lin (s.hTable h) (hEntry h)).depth * 2 ^ 32 + (if s.handleLive (sidDie s.cur.sid) h then 0 else 2 ^ 36) + axis * 2 ^ 37)) ∧ OnlyScalars s t [d] ∧ Stepped s t)) ∧
  ((∀ s a b h u hit k x, Ready s [b] → LiveIn s a h → MailAt (readAll s [b]) (s.cur.getS b) u hit →
     lowest 8 (fun k => !slotFull (u.hslot hit.loc k) && (!slotExpect (u.hslot hit.loc k) || decide (slotSid (u.hslot hit.loc k) = s.cur.sid))) = some k →
     u.handleRange (sidDie s.cur.sid) h = some x → x.tile.scope ≠ .strand → isHere hit.loc = true →
       ∃ t, exec (.hsend a b) s = .next t ∧ t.cur.getH a = none ∧ t.bytesAt (hit.loc + 8 * k) 8 = bytesOfNat 8 (h.toNat + 2 ^ 32 + s.cur.sid.toNat / 2 ^ 9 * 2 ^ 41) ∧
         (∀ y, y < hit.loc + 8 * k ∨ hit.loc + 8 * k + 8 ≤ y → t.mem.get memDefault y = u.mem.get memDefault y) ∧ t.cur.sregs = s.cur.sregs ∧ Stepped s t) ∧
   (∀ s d a b u hit k, Ready s [a, b] → s.cur.getH d = none → MailAt (readAll s [a, b]) (s.cur.getS a) u hit → isHere hit.loc = true → u.cur.wait = none → u.jtime.toNat + u.cur.dlMax.toNat < 2 ^ 64 →
     lowest 8 (fun k => u.slotEligible (u.hslot hit.loc k)) = some k →
     let v := u.hslot hit.loc k
     let table := sidDie u.cur.sid * 5 + hCluster (slotHandle v)
     u.handleLive (sidDie u.cur.sid) (slotHandle v) = true → u.halfBusy table (hEntry (slotHandle v)) (hHalf (slotHandle v)) = false →
       ∃ t, exec (.hrecv d a b) s = .next t ∧ t.cur.getH d = some (slotHandle v) ∧ t.bytesAt (hit.loc + 8 * k) 8 = bytesOfNat 8 0 ∧
         (∀ y, y < hit.loc + 8 * k ∨ hit.loc + 8 * k + 8 ≤ y → t.mem.get memDefault y = u.mem.get memDefault y) ∧
         wstFields t.cur.wst = (0, false, 0, 4) ∧ t.cur.wabs = (slotSid v).setWidth 64 ∧ t.cur.sregs = s.cur.sregs ∧ Stepped s t) ∧
   (∀ s d a b u hit, Ready s [a, b] → s.cur.getH d = none → MailAt (readAll s [a, b]) (s.cur.getS a) u hit → isHere hit.loc = true → u.cur.wait = none → u.jtime.toNat + u.cur.dlMax.toNat < 2 ^ 64 →
     lowest 8 (fun k => u.slotEligible (u.hslot hit.loc k)) = none → u.jtime.toNat < (s.cur.getS b).toNat →
       ∃ t, exec (.hrecv d a b) s = .next t ∧ WaitsFor u t (.mailbox hit.loc (d.setWidth 4)) (some (u.clampDl (s.cur.getS b)))))

/-- R252, R253, R254, R255, R256, R258: `spawn` releases and appends a record; `jdec` takes its counter down by 1 as a release, spawns at 0 and faults on a counter of 0; `tend` with nothing open ends the strand, and faults otherwise; `tself` reads; `qpush` releases and appends, `qpop` takes the oldest item or waits. -/
def Obligations.Tasks : Prop :=
  (∀ s a, Ready s [a] → (s.cur.getS a).toNat % 64 = 0 → s.myTaskQ.lost = false → s.myTaskQ.records + s.roomKept < 65536 → ReleaseCalm s →
    ∃ t, exec (.spawn a) s = .next t ∧ t.myTaskQ = { s.myTaskQ with items := s.myTaskQ.items ++ [⟨s.cur.getS a, [s.nextRel], false, none⟩] } ∧
      Released s t .cluster ∧ t.mem = s.mem ∧ SameScalars s t [] ∧ Stepped s t) ∧
  (∀ s a, Ready s [a] → (s.cur.getS a).toNat % 64 = 0 → s.myTaskQ.lost = true → exec (.spawn a) s = .next ((readAll s [a]).faultCode .queueLost 0 0 0)) ∧
  (∀ s a u h, Ready s [a] → s.cur.replies = [] → (s.cur.getS a).toNat % 64 = 0 → (readAll s [a]).atomCheck (s.cur.getS a + 16) 8 .atomic = (u, .ok h) → NearHit u h → ReleaseCalm u →
    (u.peek h.loc 8 = 0 → exec (.jdec a) s = .next (u.faultCode .illegalOperand 0 0 0)) ∧
    (1 < u.peek h.loc 8 → ∃ t, exec (.jdec a) s = .next t ∧ t.peek h.loc 8 = u.peek h.loc 8 - 1 ∧ t.myTaskQ = u.myTaskQ ∧ Released u t .pkg ∧
      (∀ x, x < h.loc ∨ h.loc + 8 ≤ x → t.mem.get memDefault x = u.mem.get memDefault x) ∧ SameScalars u t [] ∧ Stepped u t) ∧
    (u.peek h.loc 8 = 1 → u.spawnOk = none → ∃ t, exec (.jdec a) s = .next t ∧ t.peek h.loc 8 = 0 ∧ Released u t .pkg ∧
      (∃ rels, t.myTaskQ = { u.myTaskQ with items := u.myTaskQ.items ++ [⟨s.cur.getS a, rels, true, none⟩] } ∧ u.nextRel ∈ rels) ∧ SameScalars u t [] ∧ Stepped u t)) ∧
  (∀ s, Ready s [] → (∀ r, s.cur.isFull r = true) → s.endBlocked = true → exec .tend s = .next (s.faultCode .illegalOperand 0 0 0)) ∧
  (∀ s, Ready s [] → (∀ r, s.cur.isFull r = true) → s.endBlocked = false → s.mrdQueued = false → ReleaseCalm s → (∀ j, s.job? s.cur.job = some j → j.stopReq = none) →
    ∃ t, exec .tend s = .next t ∧ t.cur = Strand.idle ∧ t.mem = s.mem ∧ Released s t .pkg) ∧
  (∀ s d j, Ready s [d] → s.job? s.cur.job = some j → ∃ t, exec (.tself d) s = .next t ∧
    Holds t d (BitVec.ofNat 64 ((if s.cur.task then 2 ^ 63 else 0) + j.eff * 2 ^ 32 + s.myTaskQ.records)) ∧ OnlyScalars s t [d] ∧ Stepped s t) ∧
  (∀ s a b c q, Ready s [a, b] → s.workQOf (s.cur.getS a) = some (c, q) → (s.workQ c q).lost = false → (s.workQ c q).items.length < 65536 → ReleaseCalm s →
    ∃ t, exec (.qpush a b) s = .next t ∧ t.workQ c q = { s.workQ c q with items := (s.workQ c q).items ++ [⟨s.cur.getS b, s.nextRel⟩] } ∧
      Released s t .die ∧ t.mem = s.mem ∧ SameScalars s t [] ∧ Stepped s t) ∧
  (∀ s d a b c q i is, Ready s [a, b, d] → s.cur.wait = none → s.jtime.toNat + s.cur.dlMax.toNat < 2 ^ 64 → s.workQOf (s.cur.getS a) = some (c, q) → (s.workQ c q).lost = false → (s.workQ c q).items = i :: is →
    ∃ t, exec (.qpop d a b) s = .next t ∧ (t.workQ c q).items = is ∧ wstFields t.cur.wst = (0, false, 0, 5) ∧ t.cur.wabs = 0 ∧ Holds t d i.val ∧
      t.mem = s.mem ∧ SameScalars s t [d] ∧ Stepped s t) ∧
  (∀ s d a b c q, Ready s [a, b, d] → s.cur.wait = none → s.jtime.toNat + s.cur.dlMax.toNat < 2 ^ 64 → s.workQOf (s.cur.getS a) = some (c, q) → (s.workQ c q).lost = false → (s.workQ c q).items = [] → s.jtime.toNat < (s.cur.getS b).toNat →
    ∃ t, exec (.qpop d a b) s = .next t ∧ WaitsFor s t (.queue c q) (some (s.clampDl (s.cur.getS b))))

/-- R370, R371, R372, R374, R375: `fsend` releases at fab and writes the lowest slot of a mailbox here that takes the message, or writes all ones to sd; `frecv` takes the message of the lowest full slot or waits; `fpath` reads a path entry, 0 without a table, and faults past entry 15; `fprobe` writes the summary of a Tsueratis peer. -/
def Obligations.FabricMail : Prop :=
  (∀ s d a b u h, Ready s [a, b, d] → s.cur.replies = [] → (readAll s [a, b]).boxCheck (s.cur.getS a) { needOf .atomic with noHost := true } = (u, .ok h) → NearHit u h → ReleaseCalm u →
    let takes (k : Nat) : Bool := slotTakes (BitVec.ofNat 64 (u.peek (h.loc + 16 * k + 8) 8)) (sidPkg u.cur.sid)
    (∀ k, lowest 4 takes = some k → ∃ t, exec (.fsend d a b) s = .next t ∧ Holds t d (BitVec.ofNat 64 k) ∧ Released u t .fab ∧
      t.bytesAt (h.loc + 16 * k) 16 = bytesOfNat 16 ((s.cur.getS b).toNat + (u.cur.sid.toNat + 2 ^ 32) * 2 ^ 64) ∧
      (∀ x, x < h.loc + 16 * k ∨ h.loc + 16 * k + 16 ≤ x → t.mem.get memDefault x = u.mem.get memDefault x) ∧ SameScalars u t [d] ∧ Stepped u t) ∧
    (lowest 4 takes = none → ∃ t, exec (.fsend d a b) s = .next t ∧ Holds t d (BitVec.allOnes 64) ∧ Released u t .fab ∧ t.mem = u.mem ∧ SameScalars u t [d] ∧ Stepped u t)) ∧
  (∀ s d a b u h, Ready s [a, b, d] → (readAll s [a, b]).boxCheck (s.cur.getS a) { needOf .atomic with localOnly := true } = (u, .ok h) → NearHit u h → u.cur.wait = none → u.jtime.toNat + u.cur.dlMax.toNat < 2 ^ 64 →
    (∀ k, lowest 4 (fun k => slotFull (u.fctl h.loc k)) = some k → ∃ t, exec (.frecv d a b) s = .next t ∧ Holds t d (BitVec.ofNat 64 (u.peek (h.loc + 16 * k) 8)) ∧
      wstFields t.cur.wst = (0, false, 0, 8) ∧ t.cur.wabs = BitVec.ofNat 64 ((u.fctl h.loc k).toNat % 2 ^ 32 / 2 ^ 22) ∧ t.bytesAt (h.loc + 16 * k) 16 = bytesOfNat 16 0 ∧
      (∀ x, x < h.loc + 16 * k ∨ h.loc + 16 * k + 16 ≤ x → t.mem.get memDefault x = u.mem.get memDefault x) ∧ SameScalars u t [d] ∧ Stepped u t) ∧
    (lowest 4 (fun k => slotFull (u.fctl h.loc k)) = none → u.jtime.toNat < (u.cur.getS b).toNat →
      ∃ t, exec (.frecv d a b) s = .next t ∧ WaitsFor u t (.frecv h.loc (s.cur.getS a)) (some (u.clampDl (u.cur.getS b))))) ∧
  (∀ s d a b p e, Ready s [a, b, d] → peerKey (s.cur.getS a) = some p → (s.cur.getS b).toNat < 16 → (s.peer p).hasTable = true → (s.peer p).paths[(s.cur.getS b).toNat]? = some e →
    ∃ t, exec (.fpath d a b) s = .next t ∧ Holds t d (e.word s.gtime) ∧ OnlyScalars s t [d] ∧ Stepped s t) ∧
  (∀ s d a b p, Ready s [a, b, d] → peerKey (s.cur.getS a) = some p → (s.cur.getS b).toNat < 16 → (s.peer p).hasTable = false →
    ∃ t, exec (.fpath d a b) s = .next t ∧ Holds t d 0 ∧ OnlyScalars s t [d] ∧ Stepped s t) ∧
  (∀ s d a b, Ready s [a, b, d] → (peerKey (s.cur.getS a) = none ∨ 16 ≤ (s.cur.getS b).toNat) → exec (.fpath d a b) s = .next ((readAll s [a, b]).faultCode .illegalOperand 0 0 0)) ∧
  (∀ s d a p m, Ready s [a, d] → peerKey (s.cur.getS a) = some p → p < 2 ^ 20 →
    let up := (s.peer p).paths.filter fun e => e.valid && decide ((s.gtime - e.seen).toNat < 1000000)
    (up.map fun e => e.rtt.toNat).min? = some m →
    ∃ t, exec (.fprobe d a) s = .next t ∧
      Holds t d (BitVec.ofNat 64 (m * 2 ^ 48 + (s.peer p).hops % 2 ^ 8 * 2 ^ 40 + up.length * 2 ^ 32 + Nat.min 0xFFFF ((s.peer p).unacked.filter fun u => decide (u.sends ≠ 0)).length * 2 ^ 16 +
        (if (s.sliceOf s.cur.job).contains p then 2 else 0) + 1)) ∧ OnlyScalars { s with free := s.free + 1 } t [d] ∧ Stepped s t) ∧
  (∀ s d a, Ready s [a, d] → peerKey (s.cur.getS a) = none → exec (.fprobe d a) s = .next ((readAll s [a]).faultCode .illegalOperand 0 0 0))

/-- R68, R252, R257, R313, R325, R326, R330: what a launched strand starts with; the job served first gets a core that is free and scrubbed or under its key, with its lease, its grants and a cleared matrix unit, its `jtime` goes on or starts, and the strands placed there start, or it is the core's next job while the core is held (which cores a job is placed on is the model's choice, log 48, DESIGN CHOICE); an idle slot starts the oldest record's task, and a saved task resumes on its own slot with its budget full; each millisecond of waiting raises a job's priority up to its cap; a scrub zeroes a free core. -/
def Obligations.Scheduling : Prop :=
  (∀ (s : State) (j : Job) (p : Placement) slot, s.cur.job = 0 → let t := (s.startLaunched j p slot).cur
    t.sid = mkSid s.pkgNo p.core slot ∧ t.job = j.id ∧ t.pc = j.rec_.entry ∧ t.getS 3 = j.rec_.arg ∧ t.getS 2 = framePtr j.rec_ (s.coords j p slot) ∧
    (∀ r, r ≠ 2 → r ≠ 3 → t.getS r = 0) ∧ (∀ r, t.isFull r = true) ∧ (∀ v, t.getV v = 0) ∧ (∀ k, t.getK k = 0) ∧ (∀ h, t.getH h = none) ∧ t.loops = [] ∧
    t.dlDef = j.rec_.dldef ∧ t.dlMax = j.rec_.dlmax ∧ t.tbud = j.rec_.tcap ∧ t.run = .ready ∧ t.wait = none ∧ t.pend = []) ∧
  (∀ (s : State) (core : Nat) (job : BitVec 32) (j : Job), Binds s core job j → (s.core core).lease.job = none → ((s.core core).lease.key = j.rec_.key ∨ (s.core core).lease.scrubbed = true) → s.fqOk j = true →
    job ≠ 0 → ∃ t k, exec (.coreBind core job) s = .next t ∧ (t.core core).lease = ⟨some job, none, j.rec_.key, false⟩ ∧ (t.core core).matrix = Matrix.scrubbed ∧
      (∀ i, i < 6 → (t.core core).grants.toList.getD i 0 = j.rec_.grants.getD i 0) ∧ (∀ c, c ≠ core → t.core c = s.core c) ∧
      t.job? job = some k ∧ k.cores = j.cores ++ [core] ∧ core ∉ k.bindable ∧ k.waitSince = none ∧ k.eff = j.effNow s.gtime ∧ k.jrun = true ∧
      k.jfrom = (if j.jrun then j.jfrom else s.gtime) ∧ k.jval = (if j.timed then j.jval else 0) ∧ (∀ x ∈ s.jobs, x.id ≠ job → x ∈ t.jobs) ∧
      (j.places = [] ∨ core ∈ j.bindable → ∀ p, (s.placementOf j).find? (fun p => decide (p.core = core)) = some p → ∀ slot ∈ p.slots,
        ∃ x ∈ t.strands, x.sid = mkSid s.pkgNo core slot ∧ x.job = job ∧ x.pc = j.rec_.entry ∧ x.getS 3 = j.rec_.arg ∧ x.task = false ∧ x.run = .ready)) ∧
  (∀ (s : State) (core : Nat) (job : BitVec 32) (j : Job) k, Binds s core job j → (s.core core).lease.job = some k → s.coreEnded core k = false →
    ∃ t, exec (.coreBind core job) s = .next t ∧ (t.core core).lease = { (s.core core).lease with next := some job } ∧ OnlyCore s t core) ∧
  (∀ (s : State) (core : Nat) (slot : Nat) (j : Job) i, IdleSlot s core slot j → s.nextItem (s.taskQ (core / 48) j.id) (mkSid s.pkgNo core slot) = some i → i.resume = none →
    let sid := mkSid s.pkgNo core slot
    let q := s.taskQ (core / 48) j.id
    let loc := scratchLoc core (i.addr.toNat % 2 ^ 56)
    core < 240 → (∀ x ∈ s.strands, x.uid ≠ s.ticket) → s.roots = [] →
    i.addr.toNat / 2 ^ 56 = 0xF0 → i.addr.toNat % 2 ^ 56 + 16 ≤ 2 ^ 21 → i.addr.toNat % 8 = 0 → s.poisoned loc 16 = false →
    (∀ w ∈ s.hist, overlaps w.loc w.n loc 16 = true → knownTo (s.jobStart j.id) (s.acquired sid (if i.byJdec then .pkg else .cluster) i.rels 0) w = true) →
      ∃ t x, exec (.taskStart core slot) s = .next t ∧ t.byUid? s.ticket = some x ∧ x.sid = sid ∧ x.job = j.id ∧ x.task = true ∧ x.trec = i.addr ∧ x.run = .ready ∧
        x.pc = BitVec.ofNat 64 (natOfBytes (s.bytesAt loc 8)) ∧ x.getS 2 = BitVec.ofNat 64 (natOfBytes (s.bytesAt (loc + 8) 8)) ∧ x.getS 3 = i.addr ∧
        t.taskQ (core / 48) j.id = { q with items := q.items.erase i } ∧ t.mem = s.mem) ∧
  (∀ (s : State) (core : Nat) (slot : Nat) (j : Job) i u t, IdleSlot s core slot j → s.nextItem (s.taskQ (core / 48) j.id) (mkSid s.pkgNo core slot) = some i → i.resume = some u → s.byUid? u = some t → t.uid = u → s.cur.uid ≠ u →
    ∃ w x, exec (.taskResume core slot) s = .next w ∧ w.byUid? u = some x ∧ x = { t with away := false, tbud := t.tcap } ∧ w.mem = s.mem) ∧
  (∀ (s : State) (job : BitVec 32) (j : Job) w, s.job? job = some j → j.waiting = true → j.waitSince = some w →
    ∃ t, exec (.priorityAging job) s = .next t ∧ t.job? job = some { j with eff := Nat.min j.rec_.cap (j.rec_.base + (s.gtime - w).toNat / 1000000) } ∧ OnlyJobs s t) ∧
  (∀ (s : State) (core : Nat), s.coreFree core = true → s.cobaltUp = true →
    ∃ t, exec (.coreScrub core) s = .next t ∧ (t.core core).matrix = Matrix.scrubbed ∧ (t.core core).lease.scrubbed = true ∧
      (∀ x, t.mem.get memDefault x = if ownPlace core x then 0 else s.mem.get memDefault x) ∧ (∀ k, k ≠ core → t.core k = s.core k) ∧ t.cur = s.cur) ∧
  (∀ (s : State) (core : Nat), s.coreFree core = false → exec (.coreScrub core) s = .next s)

/-- R321, R323, R328, R329, R73: a gang pre-emption of a running job is first asked for, here or by another package: the job's `jtime` stops and its strands are to leave; once the job is quiet it is saved and its cores are free; a saved job is restored on its own cores once all are free: the leases, the matrix state, every byte of scratchpad and vault share, the barriers, rings and lineage entries, and its strands in their slots; it can go on 10 µs later, says so to the other packages, and goes on from the largest `jtime` it stopped at, at the latest of the times its packages can go on; a launch whose work has all ended is completed, and its job is live no more. -/
def Obligations.GangsAndEnds : Prop :=
  (∀ (s : State) (job : BitVec 32) (k : Job), s.job? job = some k → k.gang = .requested → s.gangQuiet k = true →
    ∃ t k', exec (.gangPreempt job) s = .next t ∧ t.job? job = some k' ∧ k'.cores = [] ∧ k'.waitSince = some s.gtime ∧ (∃ cores objs, k'.gang = .saved cores objs ∧ cores.map (·.core) = k.cores) ∧
      (∀ c, (s.core c).lease.job = some job → (t.core c).lease.job = none) ∧ t.mem = s.mem) ∧
  (∀ (s : State) (job : BitVec 32) (k : Job), s.job? job = some k → k.gang = .none → k.slate.st = .running → k.cores ≠ [] →
    let asked (t : State) : Prop := ∃ j, t.job? job = some j ∧ j.gang = .requested ∧ j.jrun = false ∧ j.jval = k.jtime s.gtime ∧ (∀ x ∈ t.strands, x.job = job → x.pre = some .gang ∨ x.pre = some .stop) ∧ t.mem = s.mem
    asked (s.gangRequest job) ∧
    (s.cobaltUp = true → s.isVictim k = true → (∃ x ∈ s.jobs, x.waiting = true ∧ k.eff < x.effNow s.gtime ∧ s.fitsFree x = false) →
      ∃ t, exec (.gangPreempt job) s = .next t ∧ asked t ∧ (k.multi = true → (.gang job) ∈ t.pkg.ctlOut)) ∧
    (s.pkg.ctlIn.find? (Ctl.ofGang job) = some (.gang job) → s.cyanUp 2 = true → k.multi = true →
      ∃ t, exec (.gangPreemptRequest job) s = .next t ∧ asked t ∧ t.pkg.ctlIn = s.pkg.ctlIn.erase (.gang job))) ∧
  (∀ (s : State) (job : BitVec 32) (j : Job) (cores : List SavedCore) (objs : SavedObjs), s.job? job = some j → j.gang = .saved cores objs → s.cobaltUp = true → j.stopReq = none → j.slate.st = .running →
    (∀ x ∈ s.jobs, x.id ≠ job → x.servedBefore j s.gtime = true → ∀ c ∈ cores, s.awaits x c.core = false) →
    (∀ c ∈ cores, c.core < 240 ∧ s.coreFree c.core = true ∧ ((s.core c.core).lease.key = j.rec_.key ∨ (s.core c.core).lease.scrubbed = true)) → (cores.map (·.core)).Nodup → (objs.bars.map fun b => (b.1, b.2.1)).Nodup → (objs.lineage.map (·.1)).Nodup →
      ∃ t k, exec (.gangResume job) s = .next t ∧
        (∀ c ∈ cores, (t.core c.core).matrix = c.matrix ∧ (t.core c.core).lease = ⟨some job, none, j.rec_.key, false⟩ ∧ (∀ w ∈ c.hist, ownPlace c.core w.loc = true → w ∈ t.hist) ∧ (∀ w ∈ c.sable, ownPlace c.core w.loc = true → w ∈ t.sable) ∧
          ((c.bytes.map Prod.fst).Nodup → (∀ d ∈ cores, ∀ p ∈ d.bytes, ownPlace d.core p.1 = true) → ∀ x, ownPlace c.core x = true → t.mem.get memDefault x = ((c.bytes.find? fun p => decide (p.1 = x)).map Prod.snd).getD 0)) ∧
        (∀ x, (∀ c ∈ cores, ownPlace c.core x = false) → (∀ c ∈ cores, ∀ p ∈ c.bytes, p.1 ≠ x) → t.mem.get memDefault x = s.mem.get memDefault x) ∧
        (∀ b ∈ objs.bars, t.bar b.1 b.2.1 = b.2.2) ∧ (∀ q ∈ objs.lineage, (t.cluster q.1).lineage = q.2) ∧ t.rings = s.rings ++ objs.rings ∧
        (∀ x ∈ s.strands, x.job = job → x.away = true → (∀ c ∈ s.clusters, ∀ i ∈ (c.2.taskq.get ⟨[], false⟩ job.toNat).items, i.resume ≠ some x.uid) → { x with away := false, pre := none } ∈ t.strands) ∧
        (∀ x ∈ s.strands, x.job ≠ job → (∀ y ∈ s.strands, y.job = job → y.uid ≠ x.uid) → x ∈ t.strands) ∧
        t.job? job = some k ∧ k.gang = .resuming (s.gtime + 10000) ∧ k.cores = cores.map (·.core) ∧ (s.pkgNo, s.gtime + 10000) ∈ k.gangReady ∧ (j.multi = true → .gangReady s.pkgNo job (s.gtime + 10000) ∈ t.pkg.ctlOut)) ∧
  (∀ (s : State) (job : BitVec 32) (j : Job) at_, s.job? job = some j → j.gang = .resuming at_ → j.slate.st = .running → (∀ p ∈ s.jobPkgs j, ∃ r ∈ j.gangReady, r.1 = p) →
    let start := (j.gangReady.map fun r => r.2.toNat).foldl Nat.max 0
    start ≤ s.gtime.toNat →
      ∃ t, exec (.gangResume job) s = .next t ∧ OnlyJobs s t ∧ t.job? job = some { j with
        gang := .none, jrun := true, jfrom := BitVec.ofNat 64 start, jval := BitVec.ofNat 64 ((j.gangStops.map fun r => r.2.toNat).foldl Nat.max 0), gangStops := [], gangReady := [] }) ∧
  (∀ (s : State) (job : BitVec 32) (j : Job), s.job? job = some j → j.state = .started → s.allEnded j = true →
    ∃ t, exec (.jobComplete job) s = .next t ∧ t.job? job = none ∧ (∃ x ∈ t.jobs, x.id = job ∧ x.state = .completed))

/-- R310, R314, R319, R323, R331: the device takes the command its next slot carries, and accepts it or fails it with its reason; an accepted launch goes to the scheduler as a waiting job; a cancel asks the strands of its job to stop, or, where none runs, ends it cancelled. R303, R304, R347: a shoot-down drops exactly the cached translations it names, and is acknowledged once nothing under way used an old one; a key-invalidate revokes its key. -/
def Obligations.Commands : Prop :=
  ((∀ (s : State), s.pkg.bar.state = 4 → s.cyanUp 0 = true → recField (nextSlot s) 0 8 ≠ 0 → recField (nextSlot s) 4 4 = (s.pkg.lastCmd + 1) % 2 ^ 32 → s.entryFree (s.pkg.lastCmd + 1) = true →
     ∃ t, exec .commandTake s = .next t ∧ t.pkg.lastCmd = s.pkg.lastCmd + 1 ∧ (reasonOf s (nextSlot s) ≠ 0 → t.pkg.cmds = s.pkg.cmds) ∧
       (reasonOf s (nextSlot s) = 0 → t.pkg.cmds = s.pkg.cmds ++
         [⟨s.pkg.lastCmd + 1, recField (nextSlot s) 0 2, BitVec.ofNat 64 (recField (nextSlot s) 8 8), recField (nextSlot s) 64 448, s.gtime, false⟩])) ∧
   (∀ (s : State), s.pkg.bar.state ≠ 4 → exec .commandTake s = .next s) ∧
   (∀ (s : State) (seq : Nat) c, s.cmd? seq 1 = some c → s.cobaltUp = true → s.job? (launchOf c.payload).job = none → (∀ a ∈ s.earlyAccepts (launchOf c.payload).job, a.2.1 = (launchOf c.payload).digest) →
     ∃ t x, exec (.launch seq) s = .next t ∧ t.jobs = s.jobs ++ [x] ∧ x.id = BitVec.ofNat 32 (recField c.payload 0 4) ∧ x.seq = c.seq ∧ x.state = .accepted ∧ x.rec_ = launchOf c.payload ∧
       x.eff = x.rec_.base ∧ x.waitSince = some c.taccept ∧ x.cores = [] ∧ x.jrun = false ∧ (∀ y ∈ t.pkg.cmds, y.seq ≠ seq) ∧ t.mem = s.mem) ∧
   (∀ (s : State) (seq : Nat) c (job : BitVec 32) (j : Job), s.cmd? seq 3 = some c → job = cmdJob 3 c.payload → job ≠ 0 → s.job? job = some j → j.stopReq = none → j.gang = .none →
     ∃ t, exec (.cancel seq) s = .next t ∧ (∀ y ∈ t.pkg.cmds, y.seq ≠ seq) ∧ Stopped s t job j .cancelled 0)) ∧
  ((∀ (s : State) (seq : Nat) c, s.cmd? seq 2 = some c → c.busy = false → recField c.payload 0 1 = 1 →
     ∃ t, exec (.shootdownPageRange seq) s = .next t ∧
       t.tlb = s.tlb.filter (fun e => !e.named (recField c.payload 8 8) (recField c.payload 16 8) (recField c.payload 24 8)) ∧ t.mem = s.mem ∧ t.jobs = s.jobs) ∧
   (∀ (s : State) (seq : Nat) c, s.cmd? seq 2 = some c → c.busy = false → recField c.payload 0 1 = 2 →
     ∃ t, exec (.shootdownRoot seq) s = .next t ∧ t.tlb = s.tlb.filter (fun e => decide (e.root ≠ recField c.payload 8 8)) ∧ t.mem = s.mem ∧ t.jobs = s.jobs) ∧
   (∀ (s : State) (seq : Nat) c (a : Nat), s.cmd? seq 2 = some c → c.busy = true → s.underWay (s.rootJobs (recField c.payload 8 8)) = false → a = recField c.payload 40 8 → isHbm a = true →
     (a + 8 ≤ s.journalPa c.seq ∨ s.journalPa c.seq + 64 ≤ a) → (a + 8 ≤ s.winPa 0x2000008 ∨ s.winPa 0x2000008 + 8 ≤ a) →
     ∃ t, exec (.shootdownAck seq) s = .next t ∧ t.bytesAt a 8 = bytesOfNat 8 (recField c.payload 32 8) ∧ (∀ y ∈ t.pkg.cmds, y.seq ≠ seq) ∧ t.jobs = s.jobs ∧ t.cur = s.cur ∧ t.tlb = s.tlb) ∧
   (∀ (s : State) (seq : Nat) c, s.cmd? seq 2 = some c → s.underWay (s.rootJobs (recField c.payload 8 8)) = true → exec (.shootdownAck seq) s = .next s) ∧
   (∀ (s : State) (seq : Nat) c, s.cmd? seq 5 = some c → ∃ t, exec (.keyInvalidate seq) s = .next t ∧ t.keyLive (recField c.payload 0 2) = false))

/-- R385, R386, R389, R391, R392, R393: the wave freezes a job where it arrives, its `jtime` standing; reports gather; 8 µs after, with every package frozen, the first cause is final; the debugger freezes, steps, resumes and dumps; the restart stands at T_r + 10 µs; a slice that does not freeze in 100 µs fails. -/
def Obligations.SlateWave : Prop :=
  (∀ (s : State) (job : BitVec 32) (j : Job) c, s.job? job = some j → j.slate.st = .running → (j.slate.wave = some c ∨ (j.multi = true ∧ s.cyanUp 2 = true ∧ s.pkg.ctlIn.contains (.wave job c) = true)) →
    ∃ t x, exec (.slateWaveArrive job c) s = .next t ∧ t.job? job = some x ∧ x.slate.st = .frozen ∧ x.jrun = false ∧ x.jval = j.jtime s.gtime ∧ x.slate.stop = j.jtime s.gtime ∧
      x.slate.frozenAt = s.gtime ∧ x.slate.wave = none ∧ (j.multi = true → .frozen s.pkgNo job (j.jtime s.gtime) c ∈ t.pkg.ctlOut) ∧ t.mem = s.mem ∧ t.cur = s.cur) ∧
  (∀ (s : State) pkg (job : BitVec 32) (stop : Word) c, s.cyanUp 2 = true → s.pkg.ctlIn.contains (.frozen pkg job stop c) = true →
    ∃ t, exec (.frozenReport pkg job stop c) s = .next t ∧ t.pkg = { s.pkg with ctlIn := s.pkg.ctlIn.erase (.frozen pkg job stop c) } ∧ (∀ j, t.job? job = some j → j.slate.reports.any (fun r => decide (r.1 = pkg)) = true) ∧ t.cur = s.cur) ∧
  (∀ (s : State) (job : BitVec 32) (j : Job), s.job? job = some j → j.slate.st = .frozen → j.slate.final = false → j.slate.frozenAt.toNat + 8000 ≤ s.gtime.toNat → s.allFrozen j = true →
    ∃ t, exec (.firstCauseFinal job) s = .next t ∧ t.job? job = some { j with slate := { j.slate with final := true } } ∧ t.pkg.msix = s.pkg.msix ++ [3]) ∧
  (∀ (s : State) (seq : Nat) c (j : Job), Debugs s seq 1 c j → j.slate.st = .frozen → ∃ t, exec (.debugFreeze seq) s = .next t ∧ (∀ y ∈ t.pkg.cmds, y.seq ≠ seq) ∧ t.jobs = s.jobs ∧ t.cur = s.cur) ∧
  (∀ (s : State) (seq : Nat) c (job : BitVec 32) (j : Job), Debugs s seq 1 c j → job = cmdJob 4 c.payload → j.slate.st = .running → c.busy = false → s.stands j = false →
    let cause : Cause := ⟨s.pkgNo, BitVec.ofNat 32 (s.pkgNo * 2 ^ 22), 0, 0x50, s.gtime⟩
    ∃ t x, exec (.debugFreeze seq) s = .next t ∧ t.job? job = some x ∧ x.slate.st = .running ∧ x.slate.wave = some (j.slate.wave.getD cause) ∧
      (j.multi = true → j.slate.wave = none → .wave job cause ∈ t.pkg.ctlOut) ∧ (∀ y ∈ t.pkg.cmds, y.seq = seq → y.busy = true) ∧ t.cur = s.cur) ∧
  (∀ (s : State) (seq : Nat) c (job : BitVec 32) (j : Job) (sid : BitVec 32) (x : Strand), seq ≠ 0 → Debugs s seq 2 c j → job = cmdJob 4 c.payload → sid = BitVec.ofNat 32 (recField c.payload 8 4) → sidPkg sid = s.pkgNo →
    c.busy = false → j.slate.st = .frozen → s.strand? sid = some x → x.job = job → x.starting = false → (∀ w, x.wait = some w → w.obj.atHome = false) → (∀ y ∈ s.strands, y.uid = x.uid → y = x) →
    ∃ t, exec (.debugStep seq) s = .next t ∧ t.job? job = some { j with slate := { j.slate with st := .stepping, stepSid := some sid } } ∧
      t.strand? sid = some { x with run := .ready, brkDone := false } ∧ (∀ y ∈ t.pkg.cmds, y.seq = seq → y.busy = true) ∧ t.mem = s.mem) ∧
  (∀ (s : State) (seq : Nat) c (job : BitVec 32) (j : Job), Debugs s seq 3 c j → job = cmdJob 4 c.payload → j.slate.st = .frozen → j.slate.final = true →
    let stop := BitVec.ofNat 64 ((j.slate.reports.map fun r => r.2.toNat).foldl Nat.max 0)
    ∃ t, exec (.debugResume seq) s = .next t ∧ t.job? job = some { j with slate := { j.slate with st := .resuming, resumeAt := some (s.gtime + 10000), resumeStop := stop } } ∧
      (j.multi = true → .resume job s.gtime stop ∈ t.pkg.ctlOut) ∧ (∀ y ∈ t.pkg.cmds, y.seq = seq → y.busy = true) ∧ t.cur = s.cur) ∧
  (∀ (s : State) (seq : Nat) c (j : Job) t, seq ≠ 0 → Debugs s seq 4 c j → sidPkg (BitVec.ofNat 32 (recField c.payload 8 4)) = s.pkgNo → j.slate.st = .frozen → s.strand? (BitVec.ofNat 32 (recField c.payload 8 4)) = some t →
    s.dmaOk (recField c.payload 16 8) 512 = true →
    ∃ w, exec (.debugDump seq) s = .next w ∧ w.pkg.hostOut = s.pkg.hostOut ++ [⟨recField c.payload 16 8, t.image, false⟩] ∧ t.image.length = 512) ∧
  (∀ (s : State) (job : BitVec 32) (j : Job) (tr : Word) (stop : Word), s.job? job = some j → j.slate.st = .frozen → s.cyanUp 2 = true → s.pkg.ctlIn.contains (.resume job tr stop) = true →
    ∃ t, exec (.resumeAnnounce job tr stop) s = .next t ∧ t.job? job = some { j with slate := { j.slate with st := .resuming, resumeAt := some (tr + 10000), resumeStop := stop } } ∧
      t.pkg.ctlIn = s.pkg.ctlIn.erase (.resume job tr stop) ∧ t.cur = s.cur) ∧
  (∀ (s : State) (job : BitVec 32) (j : Job) (tr : Word), s.job? job = some j → j.slate.st = .resuming → j.slate.resumeAt = some tr → tr.toNat ≤ s.gtime.toNat → j.gang = .none →
    (∀ x ∈ s.strands, x.brkDone = true → x.pre = none) → (∀ x ∈ s.strands, x.job = job → ∀ w, x.wait = some w → w.obj.atHome = false) →
    ∃ t, exec (.slateRestart job) s = .next t ∧ t.job? job = some { j with
      slate := Slate.none, jval := j.slate.resumeStop, jfrom := tr, jrun := j.timed, notBefore := if j.timed then j.notBefore else tr }) ∧
  (∀ (s : State) (job : BitVec 32) (j : Job) c, s.job? job = some j → job ≠ 0 → j.stopReq = none → j.gang = .none → s.takeCtl (.fail job 0x40) = none → j.slate.first = some c → j.multi = true →
    s.allFrozen j = false → j.slate.final = false → c.gtime.toNat + 100000 ≤ s.gtime.toNat →
    ∃ t, exec (.slateFreezeTimeout job) s = .next t ∧ .fail job 0x40 ∈ t.pkg.ctlOut ∧ Stopped s t job j .failed 0x40)

/-- R106, R294, R296, R298, R301, R302: a prefetched walk caches an allowed leaf and one that fails leaves no trace; a pool takes free frames of its die up to its limit; a held record is posted once there is room; a tail that moves past a serviced record lets the strand that stands in it issue again at its instruction, and one outside the ring does nothing; the paging service refills a pool or installs a page's entry, and marks the record; of an entry that is valid it first clears V and drops every cached translation of the page (what the service does, and when, is the model's choice where R302 leaves it: logs 50 and 65). R173, R259, R306: the scrubber logs the error it finds and poisons a word it cannot correct (that it takes scratchpads in, where the error is counted at the core, is log 56, DESIGN CHOICE); a lost queue keeps no item and is marked lost. -/
def Obligations.PagingAndErrors : Prop :=
  ((∀ (s : State) (c : Nat) (job : BitVec 32) (j : Job) va kind (at_ : Nat) (e : Word), s.job? job = some j → isUnused va = false → isNear va = false → (s.boundClusters job).contains c = true →
     Unknown s c none j.rec_.root (BitVec.toNat va) (needOf kind).w → LeadsL3 s j.rec_.root (BitVec.toNat va) at_ → s.peekKey 0 at_ 8 = e.toNat → ValidLeaf s e (2 ^ 18) → Permits (needOf kind) e → KeyFits s j.rec_.key e →
     ∃ t, exec (.pageWalk c job va kind) s = .next t ∧ Cached s t c none j.rec_.root (BitVec.toNat va) at_ false (touched (needOf kind) e) (needOf kind).w) ∧
   (∀ (s : State) (c : Nat) (job : BitVec 32) (j : Job) va kind f, s.job? job = some j → (s.translate c none j.rec_.root j.rec_.key (needOf kind) (BitVec.toNat va)).2 = .error f → exec (.pageWalk c job va kind) s = .next s) ∧
   (∀ (s : State) d frames, d < 4 → s.cobaltUp = true → s.pkg.bar.state = 4 →
     ∃ t, exec (.poolRefill d frames) s = .next t ∧ (t.die d).pool.length ≤ 65536 ∧ (∀ f ∈ (t.die d).pool, f ∈ (s.die d).pool ∨ (f ∈ frames ∧ s.frameOk d f = true)) ∧
       ((s.die d).pool.length ≤ 65536 → ∀ f ∈ (s.die d).pool, f ∈ (t.die d).pool) ∧ (∀ k, k ≠ d → t.die k = s.die k) ∧ t = { s with dies := t.dies } ∧
       ((s.die d).pool.length + frames.length ≤ 65536 → ∀ f ∈ frames, s.frameOk d f = true → s.mapped f (2 ^ 18) = false → f ∈ (t.die d).pool)) ∧
   (∀ (s : State) (job : BitVec 32) (j : Job) h hs, s.job? job = some j → j.held = h :: hs → s.fqHead j - s.fqTail j < s.fqCap j →
     ∃ t, exec (.faultQueueSpace job) s = .next t ∧ t.job? job = some { j with held := hs } ∧ t.mem = (s.ringPut j h.bytes h.svc).mem) ∧
   (∀ (s : State) (job : BitVec 32) (j : Job) tail, s.job? job = some j → (BitVec.toNat tail ≤ s.fqTail j ∨ s.fqHead j < BitVec.toNat tail) → exec (.tailAdvance job tail) s = .next s) ∧
   (∀ (s u : State) (job : BitVec 32) (j : Job) k since tail, s.job? job = some j → s.cur.job = job → job ≠ 0 → s.cur.wait = none → s.cur.run = .held k since → s.rest = [] → s.pkg.copies = [] → s.pkg.mcast = [] →
     s.fqTail j = k → k < s.fqHead j → BitVec.toNat tail = k + 1 → u = s.devPut (j.rec_.fq + 24) 8 (k + 1) → u.recMarked j k = true → u.recDeclined j k = false →
     ∃ t, exec (.tailAdvance job tail) s = .next t ∧ t.cur = { s.cur with run := .ready } ∧ t.mem = u.mem ∧ t.pkg = s.pkg) ∧
   (∀ (s : State) (job : BitVec 32) (j : Job) k e v supply, ToService s job j k → s.devGet (s.recPa j k) 1 = 0x12 → let d := sidDie (BitVec.ofNat 32 (s.devGet (s.recPa j k + 8) 4))
     ∃ t, exec (.pagingService job k e v supply false) s = .next t ∧ t.recMarked j k = true ∧ t.recDeclined j k = false ∧ t.fqTail j = s.fqTail j ∧ t.jobs = s.jobs ∧
       (d < 4 → (s.die d).pool.length + supply.frames.length ≤ 65536 → ∀ f ∈ supply.frames, s.frameOk d f = true → s.mapped f (2 ^ 18) = false → f ∈ (t.die d).pool)) ∧
   (∀ (s : State) (job : BitVec 32) (j : Job) k (e size : Nat) v supply, ToService s job j k → s.devGet (s.recPa j k) 1 = 0x10 → s.fqPaging j = true →
     (s.leafEntries j.rec_.root (s.devGet (s.recPa j k + 24) 8)).find? (fun x => decide (x.1 = e)) = some (e, size) → s.peekKey 0 e 8 % 2 = 0 → s.frameFree v size = true → (∀ x ∈ s.pkg.moving, x.1 ≠ e) →
     isHbm e = true → (e + 8 ≤ s.fqBase j ∨ s.fqBase j + s.fqCap j * 64 ≤ e) → (e + 8 ≤ j.rec_.fq ∨ j.rec_.fq + 48 ≤ e) →
     let f := eFrame v * 2 ^ 18
     (supply.data = [] ∨ ((f + size ≤ s.fqBase j ∨ s.fqBase j + s.fqCap j * 64 ≤ f) ∧ (f + size ≤ j.rec_.fq ∨ j.rec_.fq + 48 ≤ f))) →
     ∃ t, exec (.pagingService job k e v supply false) s = .next t ∧ t.recMarked j k = true ∧ t.recDeclined j k = false ∧ t.peekKey 0 e 8 = BitVec.toNat v ∧ t.jobs = s.jobs) ∧
   (∀ (s : State) (job : BitVec 32) (j : Job) k (e size : Nat) v supply, ToService s job j k → s.devGet (s.recPa j k) 1 = 0x10 → s.fqPaging j = true →
     (s.leafEntries j.rec_.root (s.devGet (s.recPa j k + 24) 8)).find? (fun x => decide (x.1 = e)) = some (e, size) → isHbm e = true →
     let old := s.entryAt e 0
     eV old = true → ¬ (eV v = true ∧ eKind v = eKind old ∧ eFrame v = eFrame old) →
     ∃ t, exec (.pagingService job k e v supply false) s = .next t ∧ t.peekKey 0 e 8 = (old &&& ~~~1#64).toNat ∧ (e, old) ∈ t.pkg.moving ∧
       (∀ x, x < e ∨ e + 8 ≤ x → t.mem.get memDefault x = s.mem.get memDefault x) ∧ t.jobs = s.jobs) ∧
   (∀ (s : State) (job : BitVec 32) k e v frames d, s.cobaltUp = false → exec (.pagingService job k e v frames d) s = .next s)) ∧
  ((∀ (s : State) loc bad d unit, s.errUnit loc = some (d, unit) →
     ∃ t, exec (.patrolScrub (.word loc) bad) s = .next t ∧ (t.die d).errlog = (s.die d).errlog ++ [⟨unit, loc / 8 * 8, bad⟩] ∧ t.mem = s.mem ∧
       (bad = true → t.poisoned (loc / 8 * 8) 8 = true) ∧ (bad = false → t.poison = s.poison)) ∧
   (∀ (s : State) loc bad c, s.errUnit loc = none → coreOfLoc loc = some c →
     ∃ t, exec (.patrolScrub (.word loc) bad) s = .next t ∧ (t.core c).errors = (s.core c).errors + 1 ∧ t.mem = s.mem ∧ (bad = true → t.poisoned (loc / 8 * 8) 8 = true)) ∧
   (∀ (s : State) c (job : BitVec 32) (j : Job) q, s.job? job = some j → c < 20 → (s.boundClusters job).contains c = true →
     ∃ t, exec (.queueLost c job (some q)) s = .next t ∧ t.workQ c (workKey job (q % 64)) = ⟨[], true⟩ ∧ (∀ k, k ≠ workKey job (q % 64) → t.workQ c k = s.workQ c k)) ∧
   (∀ (s : State) c (job : BitVec 32) (j : Job), s.job? job = some j → c < 20 → (s.boundClusters job).contains c = true →
     ∃ t, exec (.queueLost c job none) s = .next t ∧ t.taskQ c job = ⟨(s.taskQ c job).items.filter (fun i => i.resume.isSome), true⟩))

/-- R308, R315, R333, R334, R337, R349: a reset leaves nothing but time, the error logs and what is retired, and of the units named to it retires those that have a logged error (memory that reads 0 after it, and the reset values of leases, pools and BAR registers that the spec does not give, are the model's choice: logs 4 and 6, DESIGN CHOICE); the boot ROM brings the device from state 0 to state 1; the length of an image starts its check, a good image is accepted and a bad one rejected; the firmware zeroes memory but the command slots and is ready; a cyan core's reload and the Cobalt core's reset pause their duties for a bounded time, a second Cobalt error within 1 s is fatal. -/
def Obligations.ResetAndBoot : Prop :=
  (∀ (s : State) slices lanes cores clusters ports cyans,
    ∃ t, exec (.packageReset slices lanes cores clusters ports cyans) s = .next t ∧ t.cur = Strand.idle ∧ t.rest = [] ∧ t.jobs = [] ∧ t.mem = [] ∧ t.poison = [] ∧ t.tlb = [] ∧ t.rings = [] ∧
      t.pkg.bar = Bar0.reset ∧ t.pkg.keys = [] ∧ t.pkg.tdiRun = 0 ∧ t.pkg.copies = [] ∧ t.gtime = s.gtime ∧
      (∀ c, c < 960 → (t.core c).matrix = Matrix.scrubbed ∧ (t.core c).lease = ⟨none, none, 0, false⟩ ∧ (t.core c).errors = (s.core c).errors ∧
        (t.core c).retired = ((s.core c).retired || (cores.contains c && decide (0 < (s.core c).errors)))) ∧
      (∀ c, c < 20 → (t.cluster c).retired = ((s.cluster c).retired || (clusters.contains c && s.vaultLogged c))) ∧
      (∀ d, d < 4 → (t.die d).errlog = (s.die d).errlog ∧ (t.die d).pool = [] ∧
        ∀ i, i < 288 → (i ∈ (t.die d).retiredSlices ↔ i ∈ (s.die d).retiredSlices ∨ (288 * d + i ∈ slices ∧ (s.die d).sliceLogged i = true)))) ∧
  (∀ (s : State) frames, s.pkg.bar.state = 0 → ∃ t, exec (.bootReady frames) s = .next t ∧ t.pkg.bar = { s.pkg.bar with state := 1, reject := 0 } ∧ OnlyBar s t) ∧
  (∀ (s : State) len, (s.pkg.bar.state = 1 ∨ s.pkg.bar.state = 5) →
    ∃ t, exec (.imgdbWrite len) s = .next t ∧ t.pkg.bar = { s.pkg.bar with state := 2, reject := 0, imgdb := len } ∧ OnlyBar s t) ∧
  (∀ (s : State) len, s.pkg.bar.state ≠ 1 → s.pkg.bar.state ≠ 5 → exec (.imgdbWrite len) s = .next s) ∧
  (∀ (s : State) frames, s.pkg.bar.state = 2 → s.imageReject = 0 → ∃ t, exec (.bootReady frames) s = .next t ∧ t.pkg.bar = { s.pkg.bar with state := 3, reject := 0 } ∧ t.mem = s.mem) ∧
  (∀ (s : State) frames, s.pkg.bar.state = 2 → s.imageReject ≠ 0 → ∃ t, exec (.bootReady frames) s = .next t ∧ t.pkg.bar = { s.pkg.bar with state := 5, reject := s.imageReject } ∧ OnlyBar s t) ∧
  (∀ (s : State) frames, s.pkg.bar.state = 3 → s.pairGone = false →
    ∃ t, exec (.bootReady frames) s = .next t ∧ t.pkg.bar = { s.pkg.bar with state := 4, reject := 0 } ∧ t.tlb = [] ∧ t.poison = [] ∧
      (∀ x, s.inSlots x = true → t.mem.get memDefault x = s.mem.get memDefault x) ∧
      (∀ x, x < s.winPa 0 ∨ s.winPa 0x2000068 ≤ x → t.mem.get memDefault x = 0)) ∧
  (∀ (s : State) n, n < 6 → s.cobaltUp = true → ∃ t til, exec (.cyanReload n) s = .next t ∧ (n, til) ∈ t.pkg.cyanPaused ∧ (til - s.gtime).toNat ≤ 50000 ∧ OnlyPkg { s with free := s.free + 1 } t) ∧
  (∀ (s : State), (∀ t, s.pkg.cobaltErrAt = some t → 1000000000 ≤ (s.gtime - t).toNat) →
    ∃ t til, exec .cobaltReset s = .next t ∧ t.pkg.cobaltPaused = some til ∧ (til - s.gtime).toNat ≤ 2000000 ∧ t.pkg.cobaltErrAt = some s.gtime ∧ t.jobs = s.jobs ∧ t.pkg.fatal = s.pkg.fatal) ∧
  (∀ (s : State) e, s.pkg.cobaltErrAt = some e → (s.gtime - e).toNat < 1000000000 →
    ∃ t, exec .cobaltReset s = .next t ∧ t.pkg.fatal = true ∧ t.pkg.bar.state = 6 ∧ ∀ j ∈ t.jobs, j.state.final = true)

/-- R315, R335, R336, R348, R353: `DMALOCK` shuts the allow-windows and the port limits, `FABID.LOCK` shuts `FABID` and `FABETYPE`; a power cap outside its limits is not taken; power is held at the cap, and heat slows the clocks and halts the package at 105 °C. -/
def Obligations.Registers : Prop :=
  (∀ (s : State) val, BitVec.getLsbD val 0 = true → ∃ t, exec (.dmalockWrite val) s = .next t ∧ t.pkg.bar = { s.pkg.bar with dmalock := 1 } ∧ OnlyBar s t) ∧
  (∀ (s : State) val, BitVec.getLsbD val 0 = false → exec (.dmalockWrite val) s = .next s) ∧
  (∀ (s : State) off val, s.pkg.bar.dmalock ≠ 0 → 0x100 ≤ off → off < 0x5A0 → exec (.registerWrite off val) s = .next s) ∧
  (∀ (s : State) i val, s.pkg.bar.dmalock = 0 → i < 64 → ∃ t, exec (.registerWrite (0x100 + 8 * i) val) s = .next t ∧ t.pkg.bar.dmawin.get 0 i = val ∧
    (∀ k, k ≠ i → t.pkg.bar.dmawin.get 0 k = s.pkg.bar.dmawin.get 0 k) ∧ OnlyBar s t) ∧
  (∀ (s : State) val, ∃ t, exec (.registerWrite 0x600 val) s = .next t ∧ OnlyBar s t ∧
    t.pkg.bar.pwrcap = if 1000 ≤ BitVec.toNat val ∧ BitVec.toNat val ≤ 5600 then val else s.pkg.bar.pwrcap) ∧
  (∀ (s : State) val, BitVec.getLsbD val 63 = true → s.pkg.bar.fabLocked = false →
    ∃ t, exec (.fabidLock val) s = .next t ∧ t.pkg.bar = { s.pkg.bar with fabid := val &&& 0x80000000000F03FF#64 } ∧ OnlyBar s t) ∧
  (∀ (s : State) val, s.pkg.bar.fabLocked = true → exec (.fabidLock val) s = .next s ∧ exec (.registerWrite 0x700 val) s = .next s ∧ exec (.registerWrite 0x708 val) s = .next s) ∧
  (∀ (s : State) watts, ∃ t, exec (.powerClamp watts) s = .next t ∧ t = { s with pkg := { s.pkg with power := Nat.min watts s.pkg.bar.pwrcap.toNat } }) ∧
  (∀ (s : State) d temp, 105 ≤ temp → ∃ t, exec (.thermalStep d temp) s = .next t ∧ t = { s with pkg := { s.pkg with halted := true, fatal := true } }) ∧
  (∀ (s : State) d temp, 95 ≤ temp → temp < 105 → ∃ t, exec (.thermalStep d temp) s = .next t ∧ (∀ k, k < 4 → t.die k = { s.die k with clock := (s.die k).clock - 25 }) ∧ t = { s with dies := t.dies }) ∧
  (∀ (s : State) d temp, temp < 95 → exec (.thermalStep d temp) s = .next s)

/-- R275, R315, R316, R397: a host write within a line puts its bytes at their home and changes no other; where the map is shut it changes nothing; a host read returns what is latest at the home, of a byte that a live Sable region's writes have touched what was there before them (R272). R165, R288, R339, R340, R341, R342, R343: the answers of the host to what the current strand asked: read data stand where the instruction looks for them, an AtomicOp's or a proxy's old value is its reply, a page that refuses AtomicOps is listed; an element of a `vamo` is reported done. -/
def Obligations.HostMemoryAndAnswers : Prop :=
  ((∀ (s : State) off data tdi seen pa, data ≠ [] → off % 64 + data.length ≤ 64 → s.hdmPa off = some pa → s.hdmShut off = false →
     ∃ t, exec (.hostWrite off ⟨data, seen⟩ tdi) s = .next t ∧ t.bytesAt pa data.length = data ∧ SameOutside s t pa data.length ∧ t.cur = s.cur ∧ t.jobs = s.jobs ∧ t.pkg = s.pkg) ∧
   (∀ (s : State) off data tdi seen, off % 64 + data.length ≤ 64 → s.hdmShut off = true →
     ∃ t, exec (.hostWrite off ⟨data, seen⟩ tdi) s = .next t ∧ t.mem = s.mem ∧ t.hist = s.hist ∧ t.cur = s.cur ∧ t.jobs = s.jobs ∧ t.pkg = s.pkg) ∧
   (∀ (s : State) off n tdi pa, 0 < n → off % 64 + n ≤ 64 → s.hdmPa off = some pa → s.hdmShut off = false → s.hostWaits off n = false →
     ∃ t, exec (.hostRead off n tdi) s = .next t ∧ t.pkg.hostRead = s.decrypt (s.hostKey tdi) pa ((placesOf pa n).map s.publicByte) ∧ t.mem = s.mem ∧ t.cur = s.cur) ∧
   (∀ (s : State) x, (∀ w ∈ s.sable, w.covers x = false) → s.publicByte x = s.mem.get memDefault x) ∧
   (∀ (s : State) off n tdi, 0 < n → off % 64 + n ≤ 64 → s.hdmShut off = true → s.hostWaits off n = false →
     ∃ t, exec (.hostRead off n tdi) s = .next t ∧ t.pkg.hostRead = bytesOfNat n 0 ∧ t.mem = s.mem)) ∧
  ((∀ (s : State) req data after r, s.pkg.hostReqs.find? (fun r => decide (r.id = req) && r.fn.isNone) = some r → r.dropped = false → data.length = r.n → r.who = .strand s.cur.uid → s.bitOut (2 ^ 64 + r.addr) r.n = false →
     ∃ t, exec (.dmaReadCompletion req ⟨data, after⟩) s = .next t ∧ (∀ i, i < data.length → t.cur.buf.get none (2 ^ 64 + r.addr + i) = data[i]?) ∧ (∀ x ∈ t.pkg.hostReqs, x.id ≠ req) ∧
       t.cur.sregs = s.cur.sregs ∧ t.mem = s.mem) ∧
   (∀ (s : State) req data after r, s.pkg.hostReqs.find? (fun r => decide (r.id = req) && r.fn.isNone) = some r → r.dropped = true → exec (.dmaReadCompletion req ⟨data, after⟩) s = .next (s.dropReq req)) ∧
   (∀ (s : State) req old after r, s.pkg.hostReqs.find? (fun r => decide (r.id = req) && r.fn.isSome) = some r → r.dropped = false → r.who = .strand s.cur.uid → s.cur.vamoTodo = none →
     ∃ t, exec (.hostAtomicCompletion req ⟨.success old, after⟩) s = .next t ∧ t.cur.replies.get none 0 = some old ∧ t.mem = s.mem ∧ t.cur.sregs = s.cur.sregs) ∧
   (∀ (s : State) req after r, s.pkg.hostReqs.find? (fun r => decide (r.id = req) && r.fn.isSome) = some r → r.who = .strand s.cur.uid →
     ∃ t, exec (.hostAtomicCompletion req ⟨.unsupported, after⟩) s = .next t ∧ t.pkg.pageListed r.addr = true ∧ t.mem = s.mem) ∧
   (∀ (s : State) index after p, index < 4096 → s.cyanUp 4 = true → s.pkg.proxies.find? (fun p => decide (p.index = index ∧ index < 4096 ∧ p.seq = s.devGet (s.winPa (0x2001000 + 16 * index)) 8)) = some p → p.uid = s.cur.uid → s.cur.vamoTodo = none →
     ∃ t, exec (.proxyReply ⟨index, after⟩) s = .next t ∧ t.cur.replies.get none 0 = some (BitVec.ofNat 64 (s.devGet (s.winPa (0x2001000 + 16 * index) + 8) 8)) ∧ (∀ q ∈ t.pkg.proxies, q.seq ≠ p.seq) ∧ t.mem = s.mem) ∧
   (∀ (s : State) index after, (∀ p ∈ s.pkg.proxies, p.index = index → p.seq ≠ s.devGet (s.winPa (0x2001000 + 16 * index)) 8) → exec (.proxyReply ⟨index, after⟩) s = .next s) ∧
   (∀ (s : State) elem l, s.cur.away = false → s.cur.vamoTodo = some l → s.outstandingEl s.cur.uid elem = true →
     ∃ t, exec (.vamoReport s.cur.sid elem none) s = .next t ∧ t.cur.vamoTodo = some (l.filter fun x => decide (x ≠ elem)) ∧ t.outstandingEl s.cur.uid elem = false ∧ t.mem = s.mem) ∧
   (∀ (s : State) elem code, s.cur.away = false → s.outstandingEl s.cur.uid elem = false → exec (.vamoReport s.cur.sid elem code) s = .next s))

/-- R344, R345, R346, R347: measurements are answered; a session is opened, established, and bound to its TDI by a key; a key of another TDI's slot is not taken; none of this while the Cobalt core resets (R334); a TDI enters RUN; when it leaves, its jobs, with the launches not yet handed on, are told to stop, and once none of them is live its keys are revoked (that a session is bound to its TDI by the first key, and that the jobs have stopped before the keys go, is how the model reads R345 to R347: log 54, DEDUCED). -/
def Obligations.Security : Prop :=
  (∀ (s : State) i, s.cobaltUp = true → exec (.spdmRequest (.getMeasurements i)) s = .next { s with pkg := { s.pkg with spdmOut := s.pkg.spdmOut ++ [s.measurement i] } }) ∧
  (∀ (s : State) req, s.cobaltUp = false → exec (.spdmRequest req) s = .next s) ∧
  (∀ (s : State) n, s.cobaltUp = true → ∃ t, exec (.spdmRequest (.keyExchange n)) s = .next t ∧ t.pkg.session n = some 0 ∧ OnlyPkg s t) ∧
  (∀ (s : State) n, s.cobaltUp = true → s.pkg.session n = some 0 → ∃ t, exec (.spdmRequest (.finish n)) s = .next t ∧ t.pkg.session n = some 1 ∧ OnlyPkg s t) ∧
  (∀ (s : State) n tdi key, s.cobaltUp = true → (s.pkg.session n = some 1 ∨ s.pkg.session n = some (2 + tdi)) → tdi < 64 → 0 < key → key ≤ 4095 →
    ((s.pkg.keys.get ⟨false, false, 0⟩ key).installed = false ∨ (s.pkg.keys.get ⟨false, false, 0⟩ key).tdi = tdi) →
    ∃ t, exec (.spdmKeyInstall n tdi key) s = .next t ∧ t.pkg.keys.get ⟨false, false, 0⟩ key = ⟨true, false, tdi⟩ ∧ t.pkg.session n = some (2 + tdi) ∧
      (∀ k, k ≠ key → t.pkg.keys.get ⟨false, false, 0⟩ k = s.pkg.keys.get ⟨false, false, 0⟩ k) ∧ t.mem = s.mem ∧ t.jobs = s.jobs) ∧
  (∀ (s : State) n tdi key, s.pkg.session n ≠ some 1 → s.pkg.session n ≠ some (2 + tdi) → exec (.spdmKeyInstall n tdi key) s = .next s) ∧
  (∀ (s : State) n tdi key, (s.pkg.keys.get ⟨false, false, 0⟩ key).installed = true → (s.pkg.keys.get ⟨false, false, 0⟩ key).tdi ≠ tdi → exec (.spdmKeyInstall n tdi key) s = .next s) ∧
  (∀ (s : State) tdi key, tdi < 64 → s.pkg.leaving.contains tdi = false → ((s.pkg.keys.get ⟨false, false, 0⟩ key).installed = false ∨ (s.pkg.keys.get ⟨false, false, 0⟩ key).tdi = tdi) →
    exec (.tdiEnterRun tdi key) s = .next { s with pkg := { s.pkg with tdiRun := s.pkg.tdiRun ||| (1#64 <<< tdi) } }) ∧
  (∀ (s : State) tdi, tdi < 64 → s.pkg.tdiRun.getLsbD tdi = true →
    ∃ t, exec (.tdiLeaveRun tdi) s = .next t ∧ t.pkg.tdiRun = s.pkg.tdiRun &&& ~~~(1#64 <<< tdi) ∧
      (let held := (s.adoptLaunches fun l => s.keyOfTdi tdi l.key).jobs;
        (∀ x ∈ held, ∀ y ∈ held, x.id = y.id → x.state.final = false → y.state.final = false → x = y) →
        ∀ j ∈ t.jobs, j.state.final = false → s.keyOfTdi tdi j.rec_.key = true → j.stopReq.isSome = true) ∧
      ((∀ j ∈ t.jobs, j.state.final = false → s.keyOfTdi tdi j.rec_.key = false) → ∀ k ∈ t.pkg.keys, k.2.tdi = tdi → k.2.installed = true → k.2.revoked = true)) ∧
  (∀ (s : State) tdi, s.pkg.tdiRun.getLsbD tdi = false → exec (.tdiLeaveRun tdi) s = .next s)

/-- R4, R6, R349, R355, R357, R358, R360, R362: a frame of the Tsueratis EtherType is taken flit by flit: a flit in order brings its packet, one seen before brings nothing, a gap or a bad check asks for a replay; other frames are discarded; a retry replays in frames of at most 8 flits, a retired port does nothing, 16 replays without progress take a link down, a stomp brings nothing; time never goes back. The numbering of flits, the taking of a frame flit by flit and the stomp's number are as the model reads R358 to R362 (log 53, DEDUCED). -/
def Obligations.Links : Prop :=
  (∀ (s : State) p (fr : Frame) f pk, LinkUp s p → s.pkg.bar.fabetype ≠ 0 → fr.etype = s.pkg.bar.fabetype.setWidth 16 → fr.bytes = 256 → fr.flits = [f] → fr.fcsGood = true →
    f.crcGood = true → f.ty = 4 → f.packet = some pk → pk.dpkg = s.pkgNo → 1 ≤ pk.kind → pk.kind ≤ 13 →
    (f.lseq = (s.link p).lack + 1 → ∃ t, exec (.frameReceive p fr) s = .next t ∧ t.pkg.arrived = s.pkg.arrived ++ [pk] ∧ (t.link p).lack = f.lseq) ∧
    (lseqLe f.lseq (s.link p).lack = true → f.lseq ≠ (s.link p).lack + 1 → ∃ t, exec (.frameReceive p fr) s = .next t ∧ t.pkg.arrived = s.pkg.arrived ∧ OnlyLink s t p) ∧
    (lseqLe f.lseq (s.link p).lack = false → f.lseq ≠ (s.link p).lack + 1 → ∃ t, exec (.frameReceive p fr) s = .next t ∧ t.pkg.arrived = s.pkg.arrived ∧ (t.link p).discarding = true ∧ OnlyLink s t p)) ∧
  (∀ (s : State) p (fr : Frame), LinkUp s p → s.pkg.bar.fabetype ≠ 0 → fr.etype = s.pkg.bar.fabetype.setWidth 16 → fr.bytes = 256 * fr.flits.length → fr.flits.length ≠ 0 → fr.flits.length ≤ 8 → fr.fcsGood = false →
    ∃ t, exec (.frameReceive p fr) s = .next t ∧ (t.link p).discarding = true ∧ t.pkg.arrived = s.pkg.arrived ∧ OnlyLink s t p) ∧
  (∀ (s : State) p (fr : Frame), (fr.etype ≠ s.pkg.bar.fabetype.setWidth 16 ∨ s.pkg.bar.fabetype = 0) → exec (.frameReceive p fr) s = .next s) ∧
  (∀ (s : State) p time, LinkUp s p → exec (.timeFlit p time) s = .next { s with gtime := if s.gtime.toNat < BitVec.toNat time then time else s.gtime }) ∧
  (∀ (s : State) p time locked, p < 26 → s.pkg.retiredPorts.contains p = false → ∃ t, exec (.ptpMessage p time locked) s = .next t ∧ t.gtime = (if s.gtime.toNat < BitVec.toNat time then time else s.gtime) ∧
    (locked = true → t.pkg.lockLost = none) ∧ (locked = false → t.pkg.lockLost = some (s.pkg.lockLost.getD s.gtime)) ∧ t.mem = s.mem) ∧
  (∀ (s : State) p k, LinkUp s p → 16 ≤ ((s.link p).acked k).replays → ∃ t, exec (.retryRequest p k) s = .next t ∧ (t.link p).down = true ∧ (t.link p).replay = [] ∧ (t.link p).wire = (s.link p).wire ∧ OnlyLink s t p) ∧
  (∀ (s : State) p k, LinkUp s p → ((s.link p).acked k).replays < 16 → let kept := (s.link p).replay.filter fun f => !lseqLe f.lseq k
    ∃ t fs, exec (.retryRequest p k) s = .next t ∧ (t.link p).replay = kept ∧ (t.link p).wire = (s.link p).wire ++ fs ∧ fs.flatMap (·.flits) = kept ∧
      (∀ fr ∈ fs, fr.flits.length ≤ 8 ∧ fr.bytes = 256 * fr.flits.length ∧ fr.etype = s.pkg.bar.fabetype.setWidth 16 ∧ fr.fcsGood = true) ∧ OnlyLink s t p) ∧
  (∀ (s : State) p k fr time seq locked, s.pkg.retiredPorts.contains p = true → exec (.retryRequest p k) s = .next s ∧ exec (.frameReceive p fr) s = .next s ∧ exec (.timeFlit p time) s = .next s ∧
    exec (.stomp p k.toNat seq) s = .next s ∧ exec (.ptpMessage p time locked) s = .next s) ∧
  (∀ (s : State) p, 16 ≤ (s.link p).replays → ∃ t, exec (.linkDown p) s = .next t ∧ (t.link p).down = true ∧ (t.link p).replay = [] ∧ OnlyLink s t p) ∧
  (∀ (s : State) p, (s.link p).replays < 16 → exec (.linkDown p) s = .next s) ∧
  (∀ (s : State) p spkg eseq, LinkUp s p → s.pkg.arrived.any (fun x => decide (x.spkg = spkg ∧ x.eseq = eseq)) = false →
    ∃ t, exec (.stomp p spkg eseq) s = .next t ∧ (t.link p).lack = (s.link p).lack + 1 ∧ t.pkg.arrived = s.pkg.arrived ∧ OnlyLink s t p)

/-- R270, R359, R361, R363, R364, R366, R371: a request of a peer is performed at its home once, and answered: reads with the bytes, writes and chunks with an ack, atomics with the old value, a message with its slot; one that fails a check is answered with the code and performs nothing; a duplicate is answered from what was kept. The layout of a read's LEN (log 26) and of an atomic's data (log 35), and what a chunk packet with map field 0 and one without data stand for (log 64, DESIGN CHOICE), are the model's choice; while a home holds a lock for a release, a claim or a part that is not yet performed, the request waits (R228, R284). -/
def Obligations.HomeRequests : Prop :=
  (∀ (s : State) p, FirstSeen s p 1 → s.partOut p.addr.toNat p.len = false → (withoutPkt s p).peerCheck p.spkg p p.addr.toNat p.len = none →
    ∃ t, exec (.readRequest p) s = .next t ∧ AnswersWith s t p 2 0 (if s.poisoned p.addr.toNat p.len then 1 else 0) (s.decrypt p.keyid p.addr.toNat (s.bytesAt p.addr.toNat p.len)) ∧ t.mem = s.mem) ∧
  (∀ (s : State) p c, FirstSeen s p 1 → s.partOut p.addr.toNat p.len = false → (withoutPkt s p).peerCheck p.spkg p p.addr.toNat p.len = some c →
    ∃ t, exec (.readRequest p) s = .next t ∧ AnswersWith s t p 11 c.num 0 [] ∧ t.mem = s.mem) ∧
  (∀ (s : State) p, FirstSeen s p 3 → (withoutPkt s p).peerCheck p.spkg p p.addr.toNat p.data.length = none →
    ∃ t, exec (.writeRequest p) s = .next t ∧ AnswersWith s t p 10 0 0 [] ∧ t.bytesAt p.addr.toNat p.data.length = p.data ∧ SameOutside s t p.addr.toNat p.data.length ∧ t.cur = s.cur) ∧
  (∀ (s : State) p c, FirstSeen s p 3 → (withoutPkt s p).peerCheck p.spkg p p.addr.toNat p.data.length = some c →
    ∃ t, exec (.writeRequest p) s = .next t ∧ AnswersWith s t p 11 c.num 0 [] ∧ t.mem = s.mem) ∧
  (∀ (s : State) p, FirstSeen s p 4 → s.atomWaits p.addr.toNat 8 = false → let n := if p.op = 11 then p.data.length / 2 else p.data.length
    (withoutPkt s p).peerCheck p.spkg p p.addr.toNat n = none → s.poisoned p.addr.toNat n = false →
    let old := s.peekKey p.keyid p.addr.toNat n
    ∃ t, exec (.atomicRequest p) s = .next t ∧ AnswersWith s t p 5 0 0 (bytesOfNat n old) ∧ SameOutside s t p.addr.toNat n ∧
      t.bytesAt p.addr.toNat n = bytesOfNat n (amoNew p.op n old (natOfBytes (p.data.take n)) (natOfBytes (p.data.drop n)))) ∧
  (∀ (s : State) p, FirstSeen s p 6 → (withoutPkt s p).peerCheck p.spkg p p.addr.toNat (Nat.max 1 p.data.length) = none → p.map = 0 → p.data ≠ [] →
    ∃ t, exec (.chunkWrite p) s = .next t ∧ AnswersWith s t p 10 0 0 [] ∧ p ∈ t.pkg.heldParts ∧ t.mem = s.mem) ∧
  (∀ (s : State) p, FirstSeen s p 6 → (withoutPkt s p).peerCheck p.spkg p p.addr.toNat (Nat.max 1 p.data.length) = none → (withoutPkt s p).peerCheck p.spkg p p.map.toNat 8 = none → p.map ≠ 0 →
    s.claimed (p.map.toNat - 8 * (p.chunk / 64)) p.chunk none = false → s.poisoned p.map.toNat 8 = false → s.bitSet p.keyid p.map.toNat p.chunk = false → s.heldOf p = [] → p.op = 0 →
    ∃ t, exec (.chunkWrite p) s = .next t ∧ AnswersWith s t p 10 0 0 (if p.data = [] then [0] else []) ∧ t.bitSet p.keyid p.map.toNat p.chunk = true ∧
      (p.addr.toNat + p.data.length ≤ p.map.toNat ∨ p.map.toNat + 8 ≤ p.addr.toNat → t.bytesAt p.addr.toNat p.data.length = p.data) ∧
      (∀ x, x < p.addr.toNat ∨ p.addr.toNat + p.data.length ≤ x → x < p.map.toNat ∨ p.map.toNat + 8 ≤ x → t.mem.get memDefault x = s.mem.get memDefault x)) ∧
  (∀ (s : State) p, FirstSeen s p 6 → (withoutPkt s p).peerCheck p.spkg p p.addr.toNat (Nat.max 1 p.data.length) = none → (withoutPkt s p).peerCheck p.spkg p p.map.toNat 8 = none → p.map ≠ 0 →
    s.claimed (p.map.toNat - 8 * (p.chunk / 64)) p.chunk none = false → s.poisoned p.map.toNat 8 = false → s.heldBroken p = false → s.bitSet p.keyid p.map.toNat p.chunk = true →
    ∃ t, exec (.chunkWrite p) s = .next t ∧ AnswersWith s t p 10 0 0 (if p.data = [] then [1] else []) ∧ t.mem = s.mem) ∧
  (∀ (s u v : State) p j m ps, FirstSeen s p 7 → s.mcClaimed p = false → (withoutPkt s p).reaches p.job p.spkg = some j → (withoutPkt s p).keyLive p.keyid = true → p.keyid = j.rec_.key → p.map ≠ 0 → p.data ≠ [] → p.flags.getLsbD 0 = false →
    (withoutPkt s p).engReach ((withoutPkt s p).jobStrand p.job) p.map 8 { needOf .copyDst with localOnly := true } = (u, .ok m) → u.poisoned m.loc 8 = false → u.bitSet m.key m.loc p.chunk = false → u.heldOf p = [] →
    (u.forget (sameChunk p)).uePlaces ((withoutPkt s p).jobStrand p.job) p.addr p.data.length .copyDst = (v, .ok ps) →
    ∃ t, exec (.multicastChunkWrite p) s = .next t ∧ t.bitSet m.key m.loc p.chunk = true ∧ AnswersWith v t p 10 0 0 []) ∧
  (∀ (s : State) p, FirstSeen s p 7 → s.mcClaimed p = false → (withoutPkt s p).reaches p.job p.spkg = none → ∃ t, exec (.multicastChunkWrite p) s = .next t ∧ AnswersWith s t p 11 FaultCode.fabricUnreachable.num 0 [] ∧ t.mem = s.mem) ∧
  (∀ (s : State) p k, FirstSeen s p 8 → (withoutPkt s p).peerCheck p.spkg p p.addr.toNat 64 = none → s.poisoned p.addr.toNat 64 = false →
    let sid := BitVec.ofNat 32 (natOfBytes (p.data.drop 8))
    lowest 4 (fun k => slotTakes (BitVec.ofNat 64 (s.peekKey p.keyid (p.addr.toNat + 16 * k + 8) 8)) (sidPkg sid)) = some k →
    ∃ t, exec (.message p) s = .next t ∧ AnswersWith s t p 9 0 0 (bytesOfNat 8 k) ∧ SameOutside s t (p.addr.toNat + 16 * k) 16 ∧
      t.bytesAt (p.addr.toNat + 16 * k) 16 = bytesOfNat 16 (natOfBytes (p.data.take 8) % 2 ^ 64 + (sid.toNat + 2 ^ 32) * 2 ^ 64)) ∧
  (∀ (s : State) p m, p.kind = 12 → s.atomWaits p.addr.toNat 8 = false → s.pkg.arrived.contains p = true → members 64 p.data = [m] → p.op ≤ 1 → let n := if p.op = 0 then 4 else 8
    (withoutPkt s p).peerCheck m.pkg p p.addr.toNat n = none → s.poisoned p.addr.toNat n = false → (s.peer m.pkg).replies.find? (fun r => decide (r.1 = m.eseq)) = none →
    let old := s.peekKey p.keyid p.addr.toNat n
    ∃ t, exec (.combinedAtomic p) s = .next t ∧ AnswersWith s t p 13 p.op 0 (Member.bytes ⟨m.pkg, m.eseq, old⟩) ∧ SameOutside s t p.addr.toNat n ∧
      t.bytesAt p.addr.toNat n = bytesOfNat n (amoNew p.op n old (m.val % 256 ^ n) 0)) ∧
  (∀ (s : State) p r, p.kind = 1 → s.partOut p.addr.toNat p.len = false → s.pkg.arrived.contains p = true → (s.peer p.spkg).replies.find? (fun r => decide (r.1 = p.eseq)) = some r →
    ∃ t, exec (.readRequest p) s = .next t ∧ t.pkg.pktOut = s.pkg.pktOut ++ [r.2] ∧ t.mem = s.mem)

/-- R264, R276, R359, R361, R363, R366, R368, R373, R374: an answer takes its request off the list and reaches who asked: read bytes, an old value, a slot, an ack; a refusal fails the request with its code; an unanswered packet is sent again, and after 8 sends fails; a branch held too long or nacked is dropped and its chunk goes by unicast, after the restart where its job is frozen; a probe writes its path's entry, which is down once nothing is heard for 1 ms (that a probe replaces the entry's round-trip time and mark count as they are, unsmoothed, and that a probe of time 0 leaves it, is log 55, DESIGN CHOICE). -/
def Obligations.PeerAnswers : Prop :=
  (∀ (s : State) p u, Answers s p 2 [1] u → u.who = some (.strand s.cur.uid) → s.bitOut (peerLoc p.spkg u.pkt.addr.toNat) u.pkt.len = false → p.flags.getLsbD 0 = false →
    ∃ t, exec (.readReply p) s = .next t ∧ (∀ i, i < p.data.length → t.cur.buf.get none (peerLoc p.spkg u.pkt.addr.toNat + i) = p.data[i]?) ∧ t.cur.sregs = s.cur.sregs ∧ t.mem = s.mem) ∧
  (∀ (s : State) p u, Answers s p 2 [1] u → u.who = some (.strand s.cur.uid) → s.bitOut (peerLoc p.spkg u.pkt.addr.toNat) u.pkt.len = false → p.flags.getLsbD 0 = true → exec (.readReply p) s = .next ((answeredBy s p u).reqFailed u .fabricPoison)) ∧
  (∀ (s : State) p u, Answers s p 5 [4] u → u.who = some (.strand s.cur.uid) → s.cur.vamoTodo = none →
    ∃ t, exec (.atomicReply p) s = .next t ∧ t.cur.replies.get none 0 = some (BitVec.ofNat 64 (natOfBytes p.data)) ∧ t.cur.sregs = s.cur.sregs ∧ t.mem = s.mem) ∧
  (∀ (s : State) p u, Answers s p 9 [8] u → u.who = some (.strand s.cur.uid) → s.cur.vamoTodo = none →
    ∃ t, exec (.messageReply p) s = .next t ∧ t.cur.replies.get none 0 = some (BitVec.ofNat 64 (natOfBytes p.data)) ∧ t.cur.sregs = s.cur.sregs ∧ t.mem = s.mem) ∧
  (∀ (s : State) p u, Answers s p 10 [3, 6, 7] u → u.who = some (.strand s.cur.uid) →
    ∃ t, exec (.ack p) s = .next t ∧ t.cur = { s.cur with out := s.cur.out.filter fun x => decide (x ≠ peerReq u.pkt.dpkg u.pkt.eseq) } ∧ t.unackedOf p.spkg p.eseq = none ∧ t.mem = s.mem) ∧
  (∀ (s : State) p u c, Answers s p 11 [1, 3, 4, 6, 7, 8] u → p.op ≠ 0 → codeOfNum p.op = some c → exec (.nack p) s = .next ((answeredBy s p u).reqFailed u c)) ∧
  (∀ (s : State) p u c (w : Wait) (f : FaultRec), Answers s p 11 [1, 4] u → p.op ≠ 0 → codeOfNum p.op = some c → u.who = some (.strand s.cur.uid) → s.cur.wait = some w → w.expiry = some f → s.cur.vamoTodo = none →
    (u.pkt.kind = 4 ∨ f.kind ≠ 6) → ∃ t, exec (.nack p) s = .next t ∧ Faulted (answeredBy s p u) t { f with code := c }) ∧
  (∀ (s : State) p u c (w : Wait) (f : FaultRec), Answers s p 11 [1] u → p.op ≠ 0 → codeOfNum p.op = some c → u.who = some (.strand s.cur.uid) → s.cur.wait = some w → w.expiry = some f → f.kind = 6 →
    ∃ t, exec (.nack p) s = .next t ∧ t.cur = { s.cur with wait := none, refused := s.cur.refused.set none (peerLoc u.pkt.dpkg u.pkt.addr.toNat) (some c) } ∧ t.mem = s.mem) ∧
  (∀ (s : State) p u (cp : Copy), p.kind = 11 → p.op = 0 → s.pkg.arrived.contains p = true → s.unackedOf p.spkg p.eseq = some u → u.pkt.kind = 7 → u.who = some (.copy cp.id) → s.copy? cp.id = some cp →
    ∃ t, exec (.nack p) s = .next t ∧ (s.engineRuns cp.job = true → Resent s t cp u.elem p.spkg) ∧ (s.engineRuns cp.job = false → BranchHeld s t cp.id u.elem p.spkg)) ∧
  (∀ (s : State) p u m, p.kind = 13 → s.pkg.arrived.contains p = true → (members 64 p.data).filter (fun m => decide (m.pkg = s.pkgNo)) = [m] → s.unackedOf p.spkg m.eseq = some u → u.pkt.kind = 4 →
    u.who = some (.strand s.cur.uid) → s.cur.vamoTodo = none →
    ∃ t, exec (.combinedReply p) s = .next t ∧ t.cur.replies.get none 0 = some (BitVec.ofNat 64 m.val) ∧ t.mem = s.mem) ∧
  (∀ (s : State) pkg eseq u, s.unackedOf pkg eseq = some u → s.job? u.pkt.job = none → u.at_.toNat + 20000 ≤ s.gtime.toNat →
    (u.sends = 0 → exec (.e2eRetransmit pkg eseq) s = .next s) ∧
    (0 < u.sends → u.sends < 8 → ∃ t, exec (.e2eRetransmit pkg eseq) s = .next t ∧ t.pkg.pktOut = s.pkg.pktOut ++ [u.pkt] ∧ t.unackedOf pkg eseq = some { u with sends := u.sends + 1, at_ := s.gtime, path := s.nextPath pkg u } ∧
      t.mem = s.mem ∧ t.cur = s.cur) ∧
    (8 ≤ u.sends → exec (.e2eRetransmit pkg eseq) s = .next ((s.giveUp pkg u).reqFailed u .fabricUnreachable))) ∧
  (∀ (s : State) pkg eseq u, s.unackedOf pkg eseq = some u → s.gtime.toNat < u.at_.toNat + 20000 → exec (.e2eRetransmit pkg eseq) s = .next s) ∧
  (∀ (s : State) (cp : Copy) k p b, s.copy? cp.id = some cp → b ∈ s.pkg.branches → b.copy = cp.id → b.chunk = k → b.pkg = p → b.nacked = false → b.since.toNat + 100000 ≤ s.gtime.toNat →
    ∃ t, exec (.multicastBranchTimeout cp.id k p) s = .next t ∧ (s.engineRuns cp.job = true → Resent s t cp k p) ∧ (s.engineRuns cp.job = false → BranchHeld s t cp.id k p)) ∧
  (∀ (s : State) p k rtt ecn, k < 16 → (s.peer p).hasTable = true → rtt ≠ 0 →
    ∃ t e, exec (.pathProbe p k rtt ecn) s = .next t ∧ (t.peer p).paths[k]? = some e ∧ e.rtt = BitVec.ofNat 16 (Nat.min 0xFFFF rtt) ∧ e.ecn = BitVec.ofNat 8 (Nat.min 0xFF ecn) ∧ e.valid = true ∧
      (∀ g, e.down g = decide (1000000 ≤ (g - s.gtime).toNat)) ∧ t.mem = s.mem ∧ t.cur = s.cur) ∧
  (∀ (s : State) p k ecn, exec (.pathProbe p k 0 ecn) s = .next s)

/-- R73, R354, R355, R393: an acceptance of another package is noted, one with another digest fails the launch with reason 9, too few within 1 ms with reason 6, and so does the loss of lock for 10 ms; the common start is 20 µs after the latest acceptance, and at it `jtime` starts at 0. -/
def Obligations.SliceLaunches : Prop :=
  (∀ (s : State) pkg (job : BitVec 32) (j : Job) digest time, s.job? job = some j → j.multi = true → s.cyanUp 2 = true → s.pkg.ctlIn.contains (.accept pkg job digest time) = true → (∀ a ∈ j.accepts, a.1 ≠ pkg ∧ a.2.1 = j.rec_.digest) → digest = j.rec_.digest →
    ∃ t, exec (.launchAcceptAnnounce pkg job digest time) s = .next t ∧ t.job? job = some { j with accepts := j.accepts ++ [(pkg, digest, time)] } ∧ t.mem = s.mem) ∧
  (∀ (s : State) pkg (job : BitVec 32) (j : Job) digest time, s.job? job = some j → j.pending = true → s.cyanUp 2 = true → s.pkg.ctlIn.contains (.accept pkg job digest time) = true → (∀ a ∈ j.accepts, a.1 ≠ pkg) → digest ≠ j.rec_.digest →
    ∃ t, exec (.launchAcceptAnnounce pkg job digest time) s = .next t ∧ t.job? job = none) ∧
  (∀ (s : State) (job : BitVec 32) (j : Job), s.job? job = some j → j.pending = true → j.startAt = none → s.agreed j = false → ((j.accepts.map fun a => a.2.2.toNat).min?).getD 0 + 1000000 < s.gtime.toNat →
    ∃ t, exec (.launchAgreeTimeout job) s = .next t ∧ t.job? job = none) ∧
  (∀ (s : State) (job : BitVec 32) (j : Job), Pending s job j → s.lockLong = false → j.startAt = none → s.agreed j = true →
    ∃ t, exec (.multiJobStart job) s = .next t ∧ OnlyJobs s t ∧ t.job? job = some { j with startAt := some (BitVec.ofNat 64 ((j.accepts.map fun a => a.2.2.toNat).foldl Nat.max j.notBefore.toNat + 20000)) }) ∧
  (∀ (s : State) (job : BitVec 32) (j : Job) at_, Pending s job j → s.lockLong = false → j.startAt = some at_ → at_.toNat ≤ s.gtime.toNat →
    ∃ t, exec (.multiJobStart job) s = .next t ∧ OnlyJobs s t ∧ t.job? job = some { j with timed := true, jrun := true, jval := 0, jfrom := at_ }) ∧
  (∀ (s : State) (job : BitVec 32) (j : Job) at_, Pending s job j → s.lockLong = false → j.startAt = some at_ → s.gtime.toNat < at_.toNat → exec (.multiJobStart job) s = .next s) ∧
  (∀ (s : State) (job : BitVec 32) (j : Job), s.job? job = some j → j.pending = true → s.lockLong = true → ∃ t, exec (.multiJobStart job) s = .next t ∧ t.job? job = none) ∧
  (∀ (s : State), s.lockLong = true → ∃ t, exec .ptpLockLoss s = .next t ∧ ∀ j ∈ t.jobs, j.pending = false) ∧
  (∀ (s : State), s.lockLong = false → ∃ t, exec .ptpLockLoss s = .next t ∧ t = { s with pkg := { s.pkg with lockLost := some (s.pkg.lockLost.getD s.gtime) } })

/-- R289 to R296: translation where neither the TLBs, of entries that serve the access, nor the walk cache hold anything on the way: an allowed leaf gives its place, and its A bit (and D for a write) is set before it is cached; an absent page, a lacking permission, another key and an invalidated key fault and set nothing; a malformed entry says so; a first touch takes a frame of the die's pool, zeroes it under the entry's key and installs it; a cached leaf answers without a walk. -/
def Obligations.Translation : Prop :=
  (∀ (s : State) (cl : Nat) (core : Option Nat) (root key : Nat) (n : Need) (va at_ : Nat) (e : Word), Unknown s cl core root va n.w → LeadsL3 s root va at_ →
    s.peekKey 0 at_ 8 = e.toNat →
    (ValidLeaf s e (2 ^ 18) → Permits n e → KeyFits s key e →
      ∃ t, s.translate cl core root key n va = (t, .ok ⟨(e.extractLsb' 18 34).toNat * 2 ^ 18 + va % 2 ^ 18, some (touched n e), false, false, false⟩) ∧
        Cached s t cl core root va at_ false (touched n e) n.w) ∧
    (e.getLsbD 0 = false → e.getLsbD 6 = false → s.translate cl core root key n va = (s, .error ⟨.pageNotPresent, false, false⟩)) ∧
    (e.getLsbD 0 = true → e.extractLsb' 1 3 = 0 → s.translate cl core root key n va = (s, .error ⟨.pageNotPresent, true, false⟩)) ∧
    (ValidLeaf s e (2 ^ 18) → ¬ Permits n e → s.translate cl core root key n va = (s, .error ⟨.pageProtection, false, false⟩)) ∧
    (ValidLeaf s e (2 ^ 18) → Permits n e → (e.extractLsb' 52 12).toNat ≠ key → s.translate cl core root key n va = (s, .error ⟨.pageProtection, false, false⟩)) ∧
    (ValidLeaf s e (2 ^ 18) → Permits n e → (e.extractLsb' 52 12).toNat = key → (s.pkg.keys.get ⟨false, false, 0⟩ key).revoked = true →
      s.translate cl core root key n va = (s, .error ⟨.keyRevoked, false, false⟩)) ∧
    (e.getLsbD 0 = false → e.getLsbD 6 = true → LocalLeaf e → Permits n e → KeyFits s key e →
      (∀ f pool, (s.die (cl / 5)).pool = f :: pool → f % 2 ^ 18 = 0 → f < 2 ^ 40 → at_ + 8 ≤ f ∨ f + 2 ^ 18 ≤ at_ →
        ∃ t e', s.translate cl core root key n va = (t, .ok ⟨f + va % 2 ^ 18, some e', false, false, false⟩) ∧ t.peekKey 0 at_ 8 = e'.toNat ∧
          e'.getLsbD 0 = true ∧ e'.getLsbD 6 = false ∧ e'.getLsbD 4 = true ∧ e'.getLsbD 5 = n.w ∧
          (e'.extractLsb' 18 34).toNat * 2 ^ 18 = f ∧ e'.extractLsb' 52 12 = e.extractLsb' 52 12 ∧ e'.extractLsb' 1 3 = e.extractLsb' 1 3 ∧
          (t.die (cl / 5)).pool = pool ∧
          (∀ x, f ≤ x → x < f + 2 ^ 18 → t.mem.get memDefault x = 0 ∧ t.keyAt x = key) ∧
          (∀ x, (x < f ∨ f + 2 ^ 18 ≤ x) → (x < at_ ∨ at_ + 8 ≤ x) → t.mem.get memDefault x = s.mem.get memDefault x)) ∧
      ((s.die (cl / 5)).pool = [] → s.translate cl core root key n va = (s, .error ⟨.firstTouchPoolEmpty, false, false⟩)))) ∧
  (∀ (s : State) (cl : Nat) (core : Option Nat) (root key : Nat) (n : Need) (va at_ : Nat) (e : Word), Unknown s cl core root va n.w → LeadsL2 s root va at_ →
    s.peekKey 0 at_ 8 = e.toNat → ValidLeaf s e (2 ^ 29) → (e.extractLsb' 18 11) = 0 → Permits n e → KeyFits s key e →
      ∃ t, s.translate cl core root key n va = (t, .ok ⟨(e.extractLsb' 18 34).toNat * 2 ^ 18 + va % 2 ^ 29, some (touched n e), false, false, true⟩) ∧
        Cached s t cl core root va at_ true (touched n e) n.w) ∧
  (∀ (s : State) (cl : Nat) (core : Option Nat) (root key : Nat) (n : Need) (va : Nat) (u : TlbEntry), s.tlbFind cl core root va n.w = some u →
    u.leaf.extractLsb' 8 2 = 0 → Permits n u.leaf → KeyFits s key u.leaf →
      ∃ t, s.translate cl core root key n va =
        (t, .ok ⟨(u.leaf.extractLsb' 18 34).toNat * 2 ^ 18 + (if u.big then va % 2 ^ 29 else va % 2 ^ 18), some u.leaf, false, false, u.big⟩) ∧
        t = { s with tlb := t.tlb } ∧ (u.core = core → t = s))

/-- R8, R173, R174, R268, R397: a write at its home reads back under its key, is the latest in the home order and leaves every other byte as it was; it cleans an aligned 8-byte word it writes whole and leaves the poison of a word it writes in part, which it logs where that word is poisoned; a write of whole words logs nothing; a page zeroed under a key has zeros and that key, and nothing else changes. -/
def Obligations.MemoryWrites : Prop :=
  (∀ (s : State) (key loc n v : Nat) rel, Written s (s.homeWrite key loc n v rel) key loc n v) ∧
  (∀ (s : State) (key loc v : Nat) rel, loc % 8 = 0 → (s.homeWrite key loc 8 v rel).poisoned loc 8 = false) ∧
  (∀ (s : State) (key loc n v : Nat) rel, n < 8 → (s.homeWrite key loc n v rel).poison = s.poison) ∧
  (∀ (s : State) (key loc n v : Nat) rel, 0 < n → loc % 8 = 0 → n % 8 = 0 → (s.homeWrite key loc n v rel).cores = s.cores ∧ (s.homeWrite key loc n v rel).dies = s.dies) ∧
  (∀ (s : State) (key loc n v : Nat) rel d unit, 0 < n → n < 8 → loc % 8 + n ≤ 8 → s.poisoned loc n = true → s.errUnit loc = some (d, unit) →
    ((s.homeWrite key loc n v rel).die d).errlog = (s.die d).errlog ++ [⟨unit, loc / 8 * 8, true⟩]) ∧
  (∀ (s : State) (key f x : Nat), (s.zeroFrame key f).mem.get memDefault x = (if f ≤ x ∧ x < f + 2 ^ 18 then 0 else s.mem.get memDefault x) ∧
    (f ≤ x → x < f + 2 ^ 18 → (s.zeroFrame key f).keyAt x = key))

/-- R63, R64, R90: a step of the current strand runs the instruction that the word at its pc decodes to, and the word is the four bytes at the place its pc leads to; a word that is no instruction and a pc that cannot be fetched are taken by their own rows; a strand whose request has gone unmet for too long is stopped or faults instead (R88); a strand that may not issue moves nothing but what is due; an event on the agenda happens; a halted package stops, and of events only its reset still happens (R348). What a step adds around `exec`, and its order, is the model's choice (log 2, DESIGN CHOICE): the moves of the agenda, the settling of what has come due before an issue, and `afterMove` behind every move, in which the homes decide their waits, Indigo waits end and the links take what was sent. -/
def Obligations.StepRunsDecoded : Prop :=
  (∀ (s u : State) w i, Issues s → s.settled.stepTaken.fetch = (u, .ok w) → decode w = .ok i → step s = afterMove (exec i u)) ∧
  (∀ (s u : State) w, Issues s → s.settled.stepTaken.fetch = (u, .ok w) → (∀ i, decode w ≠ .ok i) →
    step s = afterMove (exec (.illegalWordIssue w) u)) ∧
  (∀ (s u : State) f, Issues s → s.settled.stepTaken.fetch = (u, .error f) → step s = afterMove (exec .fetchProblem u)) ∧
  (∀ (s u : State) h, s.place s.cur s.cur.pc 4 (needOf .fetch) false = (u, .ok h) →
    (∀ w ∈ u.hist, overlaps w.loc w.n h.loc 4 = false) → (∀ p ∈ u.cur.pend, overlaps p.loc p.n h.loc 4 = false) →
      s.fetch = (u, .ok (BitVec.ofNat 32 (u.peekKey h.key h.loc 4)))) ∧
  (∀ t, afterMove (.next t) = .next (if t.pkg.halted then t else t.poll.leaveOn.indigoDue.handOver)) ∧
  (∀ s, s.agenda = [] → s.settled.pkg.halted = true → step s = .fault .packageHalted) ∧
  (∀ s, s.agenda = [] → s.settled.pkg.halted = false → s.settled.canIssue s.settled.cur = false → step s = .next s.settled.poll.leaveOn.indigoDue.handOver) ∧
  (∀ s, s.agenda = [] → s.settled.pkg.halted = false → s.settled.canIssue s.settled.cur = true → s.settled.overrunDue = true →
    step s = afterMove (.next s.settled.overrun)) ∧
  (∀ (s : State) i ms, s.agenda = .event i :: ms → s.pkg.halted = false → Instr.isEvent i = true →
    step s = afterMove (exec i (if Instr.decides i then { s with agenda := ms } else State.settled { s with agenda := ms }))) ∧
  (∀ (s : State) slices lanes cores clusters ports cyans ms, s.agenda = .event (.packageReset slices lanes cores clusters ports cyans) :: ms → s.pkg.halted = true →
    step s = afterMove (exec (.packageReset slices lanes cores clusters ports cyans) { s with agenda := ms }))

/-- R38 to R63: decoding the word of a well-formed instruction gives the instruction back, every operand at every value its field admits. -/
def Obligations.DecodeEncode : Prop :=
  ∀ i w, i.wf = true → encode i = some w → decode w = .ok i

/-- R38 to R63: a word that decodes is the word of the instruction it decodes to, and that instruction keeps the operand limits: no bit of a word goes unread, and no two words are one instruction. -/
def Obligations.EncodeDecode : Prop :=
  ∀ w i, decode w = .ok i → i.wf = true ∧ encode i = some w

/-- R53, R63, R65 and the assembled loop after R65: the words that the manual writes out decode to the instructions it gives beside them; a word whose bits 1:0 are not 11 and the two words of equal bits are no instruction. -/
def Obligations.DecodeWords : Prop :=
  decode 0x00000A17 = .ok (.aupc 20 0) ∧ decode 0x010A3A03 = .ok (.ldD 20 20 16) ∧ decode 0x0004803B = .ok (.rbind 0 9) ∧
  decode 0x0000306F = .ok (.jal 0 3) ∧ decode 0x0080005F = .ok (.vtype 0 8) ∧ decode 0x00121C5F = .ok (.strip 24 4 1) ∧
  decode 0x00141087 = .ok (.vld 1 10 1 0) ∧ decode 0x008211D7 = .ok (.vadd 3 1 2 1) ∧ decode 0x001811A7 = .ok (.vst 3 12 1 0) ∧
  decode 0x002C1C93 = .ok (.slli 25 24 2) ∧ decode 0x01950533 = .ok (.add 10 10 25) ∧ decode 0x41820233 = .ok (.sub 4 4 24) ∧
  decode 0xFE021B63 = .ok (.bne 4 0 (-10)) ∧ decode 0x2A021153 = .ok (.vcvt 2 1 1 8 5) ∧
  decode 0x00001000 = .illegalInstruction ∧ decode 0 = .illegalInstruction ∧ decode 0xFFFFFFFF = .illegalInstruction

/-- R336 and the model's reset (log entries 4 and 6): BAR0 holds its reset values, the state is 0 and the boot ROM has not run; no strand, job or mapping exists, every place of memory reads 0 and memory has its canonical form; with nothing on the agenda it stays so. -/
def Obligations.ResetState : Prop :=
  State.reset.pkg.bar.state = 0 ∧ State.reset.pkg.bar.reject = 0 ∧ State.reset.pkg.bar.dmalock = 0 ∧ State.reset.jobs = [] ∧ State.reset.rest = [] ∧
  State.reset.cur.away = true ∧ State.reset.tlb = [] ∧ (∀ x, State.reset.mem.get memDefault x = 0) ∧ State.reset.MemOk ∧
  step State.reset = .next State.reset

/-- R8, R268: memory is bytes, each place holding the latest value of its home order: a step that makes a next state keeps memory in its canonical form: addresses rise and no listed byte is what an unlisted address reads as. The form and the value of an unlisted byte are the model's choice (log entry 6). -/
def Obligations.MemoryForm : Prop :=
  ∀ s t, State.MemOk s → step s = .next t → State.MemOk t

/-- R63, R90, R348: every step makes a next state, but where the package has stopped for good: no word, no event and no message ends a run. -/
def Obligations.OnlyStop : Prop :=
  ∀ s, (∃ t, step s = .next t) ∨ (step s = .fault .packageHalted ∧
    let u := { s with agenda := s.agenda.tail }
    u.pkg.halted = true ∨ u.settled.pkg.halted = true)
end

