-- ==== Sys2Proof/Laws/SMap.lean ====
section
/-! SUPPORT. Laws of sparse maps: read after write, and the canonical form is kept. -/

namespace Sys2Proof.Machine

variable {α : Type}

theorem SMap.get_erase_self (d : α) (m : SMap α) (k : Nat) : (m.erase k).get d k = d := by
  induction m with
  | nil => rfl
  | cons p m ih =>
    obtain ⟨j, v⟩ := p
    by_cases h : j = k <;> simp [SMap.erase, SMap.get, h, ih]

theorem SMap.get_erase_ne (d : α) (m : SMap α) {k k' : Nat} (h : k' ≠ k) :
    (m.erase k).get d k' = m.get d k' := by
  induction m with
  | nil => rfl
  | cons p m ih =>
    obtain ⟨j, v⟩ := p
    by_cases hj : j = k
    · subst hj
      simp [SMap.erase, SMap.get, ih, Ne.symm h]
    · simp [SMap.erase, SMap.get, hj, ih]

theorem SMap.get_put_ne (d : α) (m : SMap α) {k k' : Nat} (v : α) (h : k' ≠ k) :
    (m.put k v).get d k' = m.get d k' := by
  induction m with
  | nil => simp [SMap.put, SMap.get, Ne.symm h]
  | cons p m ih =>
    obtain ⟨j, w⟩ := p
    by_cases hj : k < j
    · simp [SMap.put, SMap.get, hj, Ne.symm h]
    · simp [SMap.put, SMap.get, hj, ih]

theorem SMap.get_put_erase (d : α) (m : SMap α) (k : Nat) (v : α) :
    ((m.erase k).put k v).get d k = v := by
  induction m with
  | nil => simp [SMap.erase, SMap.put, SMap.get]
  | cons p m ih =>
    obtain ⟨j, w⟩ := p
    by_cases hj : j = k
    · simp [SMap.erase, hj, ih]
    · by_cases hl : k < j
      · simp [SMap.erase, SMap.put, SMap.get, hj, hl]
      · simp [SMap.erase, SMap.put, SMap.get, hj, hl, ih]

/-- A read after a write to the same key gives the value written. -/
@[simp] theorem SMap.get_set_self [DecidableEq α] (d : α) (m : SMap α) (k : Nat) (v : α) :
    (m.set d k v).get d k = v := by
  unfold SMap.set
  split
  · next h => rw [SMap.get_erase_self, h]
  · exact SMap.get_put_erase d m k v

/-- A write leaves every other key alone. -/
theorem SMap.get_set_ne [DecidableEq α] (d : α) (m : SMap α) {k k' : Nat} (v : α) (h : k' ≠ k) :
    (m.set d k v).get d k' = m.get d k' := by
  unfold SMap.set
  split
  · exact SMap.get_erase_ne d m h
  · rw [SMap.get_put_ne d _ v h, SMap.get_erase_ne d m h]

theorem SMap.wfFrom_mono [DecidableEq α] (d : α) {m : SMap α} {lo lo' : Nat} (h : lo' ≤ lo)
    (hm : SMap.wfFrom d lo m = true) : SMap.wfFrom d lo' m = true := by
  cases m with
  | nil => rfl
  | cons p m =>
    obtain ⟨j, v⟩ := p
    simp only [SMap.wfFrom, Bool.and_eq_true, decide_eq_true_eq] at hm ⊢
    exact ⟨⟨Nat.le_trans h hm.1.1, hm.1.2⟩, hm.2⟩

theorem SMap.wfFrom_erase [DecidableEq α] (d : α) {m : SMap α} {lo : Nat} (k : Nat)
    (hm : SMap.wfFrom d lo m = true) : SMap.wfFrom d lo (m.erase k) = true := by
  induction m generalizing lo with
  | nil => rfl
  | cons p m ih =>
    obtain ⟨j, v⟩ := p
    simp only [SMap.wfFrom, Bool.and_eq_true, decide_eq_true_eq] at hm
    have hr := ih hm.2
    by_cases hj : j = k
    · simp only [SMap.erase, hj, if_true]
      exact SMap.wfFrom_mono d (by omega) (hj ▸ hr)
    · simp only [SMap.erase, hj, if_false, SMap.wfFrom, Bool.and_eq_true, decide_eq_true_eq]
      exact ⟨hm.1, hr⟩

theorem SMap.erase_of_lt [DecidableEq α] (d : α) {m : SMap α} {k : Nat}
    (hm : SMap.wfFrom d (k + 1) m = true) : m.erase k = m := by
  induction m with
  | nil => rfl
  | cons p m ih =>
    obtain ⟨j, v⟩ := p
    simp only [SMap.wfFrom, Bool.and_eq_true, decide_eq_true_eq] at hm
    have hj : j ≠ k := by omega
    simp only [SMap.erase, hj, if_false]
    rw [ih (SMap.wfFrom_mono d (by omega) hm.2)]

theorem SMap.wfFrom_put_erase [DecidableEq α] (d : α) {m : SMap α} {lo k : Nat} {v : α}
    (hv : v ≠ d) (hk : lo ≤ k) (hm : SMap.wfFrom d lo m = true) :
    SMap.wfFrom d lo ((m.erase k).put k v) = true := by
  induction m generalizing lo with
  | nil => simp [SMap.erase, SMap.put, SMap.wfFrom, hv, hk]
  | cons p m ih =>
    obtain ⟨j, w⟩ := p
    simp only [SMap.wfFrom, Bool.and_eq_true, decide_eq_true_eq] at hm
    by_cases hj : j = k
    · simp only [SMap.erase, hj, if_true]
      exact ih hk (SMap.wfFrom_mono d (by omega) hm.2)
    · by_cases hl : k < j
      · simp only [SMap.erase, hj, if_false, SMap.put, hl, if_true, SMap.wfFrom, Bool.and_eq_true,
          decide_eq_true_eq]
        exact ⟨⟨hk, hv⟩, ⟨⟨by omega, hm.1.2⟩, SMap.wfFrom_erase d k hm.2⟩⟩
      · simp only [SMap.erase, hj, if_false, SMap.put, hl, SMap.wfFrom, Bool.and_eq_true,
          decide_eq_true_eq]
        exact ⟨hm.1, ih (by omega) hm.2⟩

/-- Every write keeps the canonical form. -/
theorem SMap.wf_set [DecidableEq α] (d : α) {m : SMap α} (k : Nat) (v : α)
    (hm : m.wf d = true) : (m.set d k v).wf d = true := by
  unfold SMap.set
  split
  · exact SMap.wfFrom_erase d k hm
  · next h => exact SMap.wfFrom_put_erase d h (Nat.zero_le k) hm

/-- Writing a run of values keeps the canonical form. -/
theorem SMap.wf_setList [DecidableEq α] (d : α) {m : SMap α} (k : Nat) (vs : List α)
    (hm : m.wf d = true) : (SMap.setList d m k vs).wf d = true := by
  induction vs generalizing m k with
  | nil => exact hm
  | cons v vs ih => exact ih (k + 1) (SMap.wf_set d k v hm)

/-- A key outside the run written keeps its value. -/
theorem SMap.get_setList_of_out [DecidableEq α] (d : α) (m : SMap α) (k : Nat) (vs : List α) (k' : Nat)
    (h : k' < k ∨ k + vs.length ≤ k') : (SMap.setList d m k vs).get d k' = m.get d k' := by
  induction vs generalizing m k with
  | nil => rfl
  | cons v vs ih =>
    simp only [List.length_cons] at h
    rw [SMap.setList, ih _ _ (by omega), SMap.get_set_ne d m v (by omega)]

end Sys2Proof.Machine
end

