-- ==== Sys2Proof/Laws/State.lean ====
section
/-! SUPPORT. One lemma per field per update: what the named updates of the state and of a strand leave alone, each by definition, so that no proof unfolds a record update. -/

namespace Sys2Proof.Machine

/-! `State.onCur` -/
@[simp] theorem State.onCur_rest (s : State) (f : Strand → Strand) : (s.onCur f).rest = s.rest := rfl
@[simp] theorem State.onCur_agenda (s : State) (f : Strand → Strand) : (s.onCur f).agenda = s.agenda := rfl
@[simp] theorem State.onCur_gtime (s : State) (f : Strand → Strand) : (s.onCur f).gtime = s.gtime := rfl
@[simp] theorem State.onCur_free (s : State) (f : Strand → Strand) : (s.onCur f).free = s.free := rfl
@[simp] theorem State.onCur_ticket (s : State) (f : Strand → Strand) : (s.onCur f).ticket = s.ticket := rfl
@[simp] theorem State.onCur_mem (s : State) (f : Strand → Strand) : (s.onCur f).mem = s.mem := rfl
@[simp] theorem State.onCur_keyRuns (s : State) (f : Strand → Strand) : (s.onCur f).keyRuns = s.keyRuns := rfl
@[simp] theorem State.onCur_poison (s : State) (f : Strand → Strand) : (s.onCur f).poison = s.poison := rfl
@[simp] theorem State.onCur_sable (s : State) (f : Strand → Strand) : (s.onCur f).sable = s.sable := rfl
@[simp] theorem State.onCur_hist (s : State) (f : Strand → Strand) : (s.onCur f).hist = s.hist := rfl
@[simp] theorem State.onCur_nextW (s : State) (f : Strand → Strand) : (s.onCur f).nextW = s.nextW := rfl
@[simp] theorem State.onCur_rels (s : State) (f : Strand → Strand) : (s.onCur f).rels = s.rels := rfl
@[simp] theorem State.onCur_nextRel (s : State) (f : Strand → Strand) : (s.onCur f).nextRel = s.nextRel := rfl
@[simp] theorem State.onCur_pfulls (s : State) (f : Strand → Strand) : (s.onCur f).pfulls = s.pfulls := rfl
@[simp] theorem State.onCur_lockRels (s : State) (f : Strand → Strand) : (s.onCur f).lockRels = s.lockRels := rfl
@[simp] theorem State.onCur_far (s : State) (f : Strand → Strand) : (s.onCur f).far = s.far := rfl
@[simp] theorem State.onCur_markRels (s : State) (f : Strand → Strand) : (s.onCur f).markRels = s.markRels := rfl
@[simp] theorem State.onCur_joinRels (s : State) (f : Strand → Strand) : (s.onCur f).joinRels = s.joinRels := rfl
@[simp] theorem State.onCur_tlRels (s : State) (f : Strand → Strand) : (s.onCur f).tlRels = s.tlRels := rfl
@[simp] theorem State.onCur_chunkMasks (s : State) (f : Strand → Strand) : (s.onCur f).chunkMasks = s.chunkMasks := rfl
@[simp] theorem State.onCur_peerWrites (s : State) (f : Strand → Strand) : (s.onCur f).peerWrites = s.peerWrites := rfl
@[simp] theorem State.onCur_claims (s : State) (f : Strand → Strand) : (s.onCur f).claims = s.claims := rfl
@[simp] theorem State.onCur_cores (s : State) (f : Strand → Strand) : (s.onCur f).cores = s.cores := rfl
@[simp] theorem State.onCur_clusters (s : State) (f : Strand → Strand) : (s.onCur f).clusters = s.clusters := rfl
@[simp] theorem State.onCur_rings (s : State) (f : Strand → Strand) : (s.onCur f).rings = s.rings := rfl
@[simp] theorem State.onCur_dies (s : State) (f : Strand → Strand) : (s.onCur f).dies = s.dies := rfl
@[simp] theorem State.onCur_tlb (s : State) (f : Strand → Strand) : (s.onCur f).tlb = s.tlb := rfl
@[simp] theorem State.onCur_jobs (s : State) (f : Strand → Strand) : (s.onCur f).jobs = s.jobs := rfl
@[simp] theorem State.onCur_pkg (s : State) (f : Strand → Strand) : (s.onCur f).pkg = s.pkg := rfl

/-! `State.onPkg` -/
@[simp] theorem State.onPkg_cur (s : State) (f : Pkg → Pkg) : (s.onPkg f).cur = s.cur := rfl
@[simp] theorem State.onPkg_rest (s : State) (f : Pkg → Pkg) : (s.onPkg f).rest = s.rest := rfl
@[simp] theorem State.onPkg_agenda (s : State) (f : Pkg → Pkg) : (s.onPkg f).agenda = s.agenda := rfl
@[simp] theorem State.onPkg_gtime (s : State) (f : Pkg → Pkg) : (s.onPkg f).gtime = s.gtime := rfl
@[simp] theorem State.onPkg_free (s : State) (f : Pkg → Pkg) : (s.onPkg f).free = s.free := rfl
@[simp] theorem State.onPkg_ticket (s : State) (f : Pkg → Pkg) : (s.onPkg f).ticket = s.ticket := rfl
@[simp] theorem State.onPkg_mem (s : State) (f : Pkg → Pkg) : (s.onPkg f).mem = s.mem := rfl
@[simp] theorem State.onPkg_keyRuns (s : State) (f : Pkg → Pkg) : (s.onPkg f).keyRuns = s.keyRuns := rfl
@[simp] theorem State.onPkg_poison (s : State) (f : Pkg → Pkg) : (s.onPkg f).poison = s.poison := rfl
@[simp] theorem State.onPkg_sable (s : State) (f : Pkg → Pkg) : (s.onPkg f).sable = s.sable := rfl
@[simp] theorem State.onPkg_hist (s : State) (f : Pkg → Pkg) : (s.onPkg f).hist = s.hist := rfl
@[simp] theorem State.onPkg_nextW (s : State) (f : Pkg → Pkg) : (s.onPkg f).nextW = s.nextW := rfl
@[simp] theorem State.onPkg_rels (s : State) (f : Pkg → Pkg) : (s.onPkg f).rels = s.rels := rfl
@[simp] theorem State.onPkg_nextRel (s : State) (f : Pkg → Pkg) : (s.onPkg f).nextRel = s.nextRel := rfl
@[simp] theorem State.onPkg_pfulls (s : State) (f : Pkg → Pkg) : (s.onPkg f).pfulls = s.pfulls := rfl
@[simp] theorem State.onPkg_lockRels (s : State) (f : Pkg → Pkg) : (s.onPkg f).lockRels = s.lockRels := rfl
@[simp] theorem State.onPkg_far (s : State) (f : Pkg → Pkg) : (s.onPkg f).far = s.far := rfl
@[simp] theorem State.onPkg_markRels (s : State) (f : Pkg → Pkg) : (s.onPkg f).markRels = s.markRels := rfl
@[simp] theorem State.onPkg_joinRels (s : State) (f : Pkg → Pkg) : (s.onPkg f).joinRels = s.joinRels := rfl
@[simp] theorem State.onPkg_tlRels (s : State) (f : Pkg → Pkg) : (s.onPkg f).tlRels = s.tlRels := rfl
@[simp] theorem State.onPkg_chunkMasks (s : State) (f : Pkg → Pkg) : (s.onPkg f).chunkMasks = s.chunkMasks := rfl
@[simp] theorem State.onPkg_peerWrites (s : State) (f : Pkg → Pkg) : (s.onPkg f).peerWrites = s.peerWrites := rfl
@[simp] theorem State.onPkg_claims (s : State) (f : Pkg → Pkg) : (s.onPkg f).claims = s.claims := rfl
@[simp] theorem State.onPkg_cores (s : State) (f : Pkg → Pkg) : (s.onPkg f).cores = s.cores := rfl
@[simp] theorem State.onPkg_clusters (s : State) (f : Pkg → Pkg) : (s.onPkg f).clusters = s.clusters := rfl
@[simp] theorem State.onPkg_rings (s : State) (f : Pkg → Pkg) : (s.onPkg f).rings = s.rings := rfl
@[simp] theorem State.onPkg_dies (s : State) (f : Pkg → Pkg) : (s.onPkg f).dies = s.dies := rfl
@[simp] theorem State.onPkg_tlb (s : State) (f : Pkg → Pkg) : (s.onPkg f).tlb = s.tlb := rfl
@[simp] theorem State.onPkg_jobs (s : State) (f : Pkg → Pkg) : (s.onPkg f).jobs = s.jobs := rfl

/-! `State.onCore` -/
@[simp] theorem State.onCore_cur (s : State) (k : Nat) (f : Core → Core) : (s.onCore k f).cur = s.cur := rfl
@[simp] theorem State.onCore_rest (s : State) (k : Nat) (f : Core → Core) : (s.onCore k f).rest = s.rest := rfl
@[simp] theorem State.onCore_agenda (s : State) (k : Nat) (f : Core → Core) : (s.onCore k f).agenda = s.agenda := rfl
@[simp] theorem State.onCore_gtime (s : State) (k : Nat) (f : Core → Core) : (s.onCore k f).gtime = s.gtime := rfl
@[simp] theorem State.onCore_free (s : State) (k : Nat) (f : Core → Core) : (s.onCore k f).free = s.free := rfl
@[simp] theorem State.onCore_ticket (s : State) (k : Nat) (f : Core → Core) : (s.onCore k f).ticket = s.ticket := rfl
@[simp] theorem State.onCore_mem (s : State) (k : Nat) (f : Core → Core) : (s.onCore k f).mem = s.mem := rfl
@[simp] theorem State.onCore_keyRuns (s : State) (k : Nat) (f : Core → Core) : (s.onCore k f).keyRuns = s.keyRuns := rfl
@[simp] theorem State.onCore_poison (s : State) (k : Nat) (f : Core → Core) : (s.onCore k f).poison = s.poison := rfl
@[simp] theorem State.onCore_sable (s : State) (k : Nat) (f : Core → Core) : (s.onCore k f).sable = s.sable := rfl
@[simp] theorem State.onCore_hist (s : State) (k : Nat) (f : Core → Core) : (s.onCore k f).hist = s.hist := rfl
@[simp] theorem State.onCore_nextW (s : State) (k : Nat) (f : Core → Core) : (s.onCore k f).nextW = s.nextW := rfl
@[simp] theorem State.onCore_rels (s : State) (k : Nat) (f : Core → Core) : (s.onCore k f).rels = s.rels := rfl
@[simp] theorem State.onCore_nextRel (s : State) (k : Nat) (f : Core → Core) : (s.onCore k f).nextRel = s.nextRel := rfl
@[simp] theorem State.onCore_pfulls (s : State) (k : Nat) (f : Core → Core) : (s.onCore k f).pfulls = s.pfulls := rfl
@[simp] theorem State.onCore_lockRels (s : State) (k : Nat) (f : Core → Core) : (s.onCore k f).lockRels = s.lockRels := rfl
@[simp] theorem State.onCore_far (s : State) (k : Nat) (f : Core → Core) : (s.onCore k f).far = s.far := rfl
@[simp] theorem State.onCore_markRels (s : State) (k : Nat) (f : Core → Core) : (s.onCore k f).markRels = s.markRels := rfl
@[simp] theorem State.onCore_joinRels (s : State) (k : Nat) (f : Core → Core) : (s.onCore k f).joinRels = s.joinRels := rfl
@[simp] theorem State.onCore_tlRels (s : State) (k : Nat) (f : Core → Core) : (s.onCore k f).tlRels = s.tlRels := rfl
@[simp] theorem State.onCore_chunkMasks (s : State) (k : Nat) (f : Core → Core) : (s.onCore k f).chunkMasks = s.chunkMasks := rfl
@[simp] theorem State.onCore_peerWrites (s : State) (k : Nat) (f : Core → Core) : (s.onCore k f).peerWrites = s.peerWrites := rfl
@[simp] theorem State.onCore_claims (s : State) (k : Nat) (f : Core → Core) : (s.onCore k f).claims = s.claims := rfl
@[simp] theorem State.onCore_clusters (s : State) (k : Nat) (f : Core → Core) : (s.onCore k f).clusters = s.clusters := rfl
@[simp] theorem State.onCore_rings (s : State) (k : Nat) (f : Core → Core) : (s.onCore k f).rings = s.rings := rfl
@[simp] theorem State.onCore_dies (s : State) (k : Nat) (f : Core → Core) : (s.onCore k f).dies = s.dies := rfl
@[simp] theorem State.onCore_tlb (s : State) (k : Nat) (f : Core → Core) : (s.onCore k f).tlb = s.tlb := rfl
@[simp] theorem State.onCore_jobs (s : State) (k : Nat) (f : Core → Core) : (s.onCore k f).jobs = s.jobs := rfl
@[simp] theorem State.onCore_pkg (s : State) (k : Nat) (f : Core → Core) : (s.onCore k f).pkg = s.pkg := rfl

/-! `State.setCore` -/
@[simp] theorem State.setCore_cur (s : State) (k : Nat) (f : Core) : (s.setCore k f).cur = s.cur := rfl
@[simp] theorem State.setCore_rest (s : State) (k : Nat) (f : Core) : (s.setCore k f).rest = s.rest := rfl
@[simp] theorem State.setCore_agenda (s : State) (k : Nat) (f : Core) : (s.setCore k f).agenda = s.agenda := rfl
@[simp] theorem State.setCore_gtime (s : State) (k : Nat) (f : Core) : (s.setCore k f).gtime = s.gtime := rfl
@[simp] theorem State.setCore_free (s : State) (k : Nat) (f : Core) : (s.setCore k f).free = s.free := rfl
@[simp] theorem State.setCore_ticket (s : State) (k : Nat) (f : Core) : (s.setCore k f).ticket = s.ticket := rfl
@[simp] theorem State.setCore_mem (s : State) (k : Nat) (f : Core) : (s.setCore k f).mem = s.mem := rfl
@[simp] theorem State.setCore_keyRuns (s : State) (k : Nat) (f : Core) : (s.setCore k f).keyRuns = s.keyRuns := rfl
@[simp] theorem State.setCore_poison (s : State) (k : Nat) (f : Core) : (s.setCore k f).poison = s.poison := rfl
@[simp] theorem State.setCore_sable (s : State) (k : Nat) (f : Core) : (s.setCore k f).sable = s.sable := rfl
@[simp] theorem State.setCore_hist (s : State) (k : Nat) (f : Core) : (s.setCore k f).hist = s.hist := rfl
@[simp] theorem State.setCore_nextW (s : State) (k : Nat) (f : Core) : (s.setCore k f).nextW = s.nextW := rfl
@[simp] theorem State.setCore_rels (s : State) (k : Nat) (f : Core) : (s.setCore k f).rels = s.rels := rfl
@[simp] theorem State.setCore_nextRel (s : State) (k : Nat) (f : Core) : (s.setCore k f).nextRel = s.nextRel := rfl
@[simp] theorem State.setCore_pfulls (s : State) (k : Nat) (f : Core) : (s.setCore k f).pfulls = s.pfulls := rfl
@[simp] theorem State.setCore_lockRels (s : State) (k : Nat) (f : Core) : (s.setCore k f).lockRels = s.lockRels := rfl
@[simp] theorem State.setCore_far (s : State) (k : Nat) (f : Core) : (s.setCore k f).far = s.far := rfl
@[simp] theorem State.setCore_markRels (s : State) (k : Nat) (f : Core) : (s.setCore k f).markRels = s.markRels := rfl
@[simp] theorem State.setCore_joinRels (s : State) (k : Nat) (f : Core) : (s.setCore k f).joinRels = s.joinRels := rfl
@[simp] theorem State.setCore_tlRels (s : State) (k : Nat) (f : Core) : (s.setCore k f).tlRels = s.tlRels := rfl
@[simp] theorem State.setCore_chunkMasks (s : State) (k : Nat) (f : Core) : (s.setCore k f).chunkMasks = s.chunkMasks := rfl
@[simp] theorem State.setCore_peerWrites (s : State) (k : Nat) (f : Core) : (s.setCore k f).peerWrites = s.peerWrites := rfl
@[simp] theorem State.setCore_claims (s : State) (k : Nat) (f : Core) : (s.setCore k f).claims = s.claims := rfl
@[simp] theorem State.setCore_clusters (s : State) (k : Nat) (f : Core) : (s.setCore k f).clusters = s.clusters := rfl
@[simp] theorem State.setCore_rings (s : State) (k : Nat) (f : Core) : (s.setCore k f).rings = s.rings := rfl
@[simp] theorem State.setCore_dies (s : State) (k : Nat) (f : Core) : (s.setCore k f).dies = s.dies := rfl
@[simp] theorem State.setCore_tlb (s : State) (k : Nat) (f : Core) : (s.setCore k f).tlb = s.tlb := rfl
@[simp] theorem State.setCore_jobs (s : State) (k : Nat) (f : Core) : (s.setCore k f).jobs = s.jobs := rfl
@[simp] theorem State.setCore_pkg (s : State) (k : Nat) (f : Core) : (s.setCore k f).pkg = s.pkg := rfl

/-! `State.onCluster` -/
@[simp] theorem State.onCluster_cur (s : State) (k : Nat) (f : Cluster → Cluster) : (s.onCluster k f).cur = s.cur := rfl
@[simp] theorem State.onCluster_rest (s : State) (k : Nat) (f : Cluster → Cluster) : (s.onCluster k f).rest = s.rest := rfl
@[simp] theorem State.onCluster_agenda (s : State) (k : Nat) (f : Cluster → Cluster) : (s.onCluster k f).agenda = s.agenda := rfl
@[simp] theorem State.onCluster_gtime (s : State) (k : Nat) (f : Cluster → Cluster) : (s.onCluster k f).gtime = s.gtime := rfl
@[simp] theorem State.onCluster_free (s : State) (k : Nat) (f : Cluster → Cluster) : (s.onCluster k f).free = s.free := rfl
@[simp] theorem State.onCluster_ticket (s : State) (k : Nat) (f : Cluster → Cluster) : (s.onCluster k f).ticket = s.ticket := rfl
@[simp] theorem State.onCluster_mem (s : State) (k : Nat) (f : Cluster → Cluster) : (s.onCluster k f).mem = s.mem := rfl
@[simp] theorem State.onCluster_keyRuns (s : State) (k : Nat) (f : Cluster → Cluster) : (s.onCluster k f).keyRuns = s.keyRuns := rfl
@[simp] theorem State.onCluster_poison (s : State) (k : Nat) (f : Cluster → Cluster) : (s.onCluster k f).poison = s.poison := rfl
@[simp] theorem State.onCluster_sable (s : State) (k : Nat) (f : Cluster → Cluster) : (s.onCluster k f).sable = s.sable := rfl
@[simp] theorem State.onCluster_hist (s : State) (k : Nat) (f : Cluster → Cluster) : (s.onCluster k f).hist = s.hist := rfl
@[simp] theorem State.onCluster_nextW (s : State) (k : Nat) (f : Cluster → Cluster) : (s.onCluster k f).nextW = s.nextW := rfl
@[simp] theorem State.onCluster_rels (s : State) (k : Nat) (f : Cluster → Cluster) : (s.onCluster k f).rels = s.rels := rfl
@[simp] theorem State.onCluster_nextRel (s : State) (k : Nat) (f : Cluster → Cluster) : (s.onCluster k f).nextRel = s.nextRel := rfl
@[simp] theorem State.onCluster_pfulls (s : State) (k : Nat) (f : Cluster → Cluster) : (s.onCluster k f).pfulls = s.pfulls := rfl
@[simp] theorem State.onCluster_lockRels (s : State) (k : Nat) (f : Cluster → Cluster) : (s.onCluster k f).lockRels = s.lockRels := rfl
@[simp] theorem State.onCluster_far (s : State) (k : Nat) (f : Cluster → Cluster) : (s.onCluster k f).far = s.far := rfl
@[simp] theorem State.onCluster_markRels (s : State) (k : Nat) (f : Cluster → Cluster) : (s.onCluster k f).markRels = s.markRels := rfl
@[simp] theorem State.onCluster_joinRels (s : State) (k : Nat) (f : Cluster → Cluster) : (s.onCluster k f).joinRels = s.joinRels := rfl
@[simp] theorem State.onCluster_tlRels (s : State) (k : Nat) (f : Cluster → Cluster) : (s.onCluster k f).tlRels = s.tlRels := rfl
@[simp] theorem State.onCluster_chunkMasks (s : State) (k : Nat) (f : Cluster → Cluster) : (s.onCluster k f).chunkMasks = s.chunkMasks := rfl
@[simp] theorem State.onCluster_peerWrites (s : State) (k : Nat) (f : Cluster → Cluster) : (s.onCluster k f).peerWrites = s.peerWrites := rfl
@[simp] theorem State.onCluster_claims (s : State) (k : Nat) (f : Cluster → Cluster) : (s.onCluster k f).claims = s.claims := rfl
@[simp] theorem State.onCluster_cores (s : State) (k : Nat) (f : Cluster → Cluster) : (s.onCluster k f).cores = s.cores := rfl
@[simp] theorem State.onCluster_rings (s : State) (k : Nat) (f : Cluster → Cluster) : (s.onCluster k f).rings = s.rings := rfl
@[simp] theorem State.onCluster_dies (s : State) (k : Nat) (f : Cluster → Cluster) : (s.onCluster k f).dies = s.dies := rfl
@[simp] theorem State.onCluster_tlb (s : State) (k : Nat) (f : Cluster → Cluster) : (s.onCluster k f).tlb = s.tlb := rfl
@[simp] theorem State.onCluster_jobs (s : State) (k : Nat) (f : Cluster → Cluster) : (s.onCluster k f).jobs = s.jobs := rfl
@[simp] theorem State.onCluster_pkg (s : State) (k : Nat) (f : Cluster → Cluster) : (s.onCluster k f).pkg = s.pkg := rfl

/-! `State.setCluster` -/
@[simp] theorem State.setCluster_cur (s : State) (k : Nat) (f : Cluster) : (s.setCluster k f).cur = s.cur := rfl
@[simp] theorem State.setCluster_rest (s : State) (k : Nat) (f : Cluster) : (s.setCluster k f).rest = s.rest := rfl
@[simp] theorem State.setCluster_agenda (s : State) (k : Nat) (f : Cluster) : (s.setCluster k f).agenda = s.agenda := rfl
@[simp] theorem State.setCluster_gtime (s : State) (k : Nat) (f : Cluster) : (s.setCluster k f).gtime = s.gtime := rfl
@[simp] theorem State.setCluster_free (s : State) (k : Nat) (f : Cluster) : (s.setCluster k f).free = s.free := rfl
@[simp] theorem State.setCluster_ticket (s : State) (k : Nat) (f : Cluster) : (s.setCluster k f).ticket = s.ticket := rfl
@[simp] theorem State.setCluster_mem (s : State) (k : Nat) (f : Cluster) : (s.setCluster k f).mem = s.mem := rfl
@[simp] theorem State.setCluster_keyRuns (s : State) (k : Nat) (f : Cluster) : (s.setCluster k f).keyRuns = s.keyRuns := rfl
@[simp] theorem State.setCluster_poison (s : State) (k : Nat) (f : Cluster) : (s.setCluster k f).poison = s.poison := rfl
@[simp] theorem State.setCluster_sable (s : State) (k : Nat) (f : Cluster) : (s.setCluster k f).sable = s.sable := rfl
@[simp] theorem State.setCluster_hist (s : State) (k : Nat) (f : Cluster) : (s.setCluster k f).hist = s.hist := rfl
@[simp] theorem State.setCluster_nextW (s : State) (k : Nat) (f : Cluster) : (s.setCluster k f).nextW = s.nextW := rfl
@[simp] theorem State.setCluster_rels (s : State) (k : Nat) (f : Cluster) : (s.setCluster k f).rels = s.rels := rfl
@[simp] theorem State.setCluster_nextRel (s : State) (k : Nat) (f : Cluster) : (s.setCluster k f).nextRel = s.nextRel := rfl
@[simp] theorem State.setCluster_pfulls (s : State) (k : Nat) (f : Cluster) : (s.setCluster k f).pfulls = s.pfulls := rfl
@[simp] theorem State.setCluster_lockRels (s : State) (k : Nat) (f : Cluster) : (s.setCluster k f).lockRels = s.lockRels := rfl
@[simp] theorem State.setCluster_far (s : State) (k : Nat) (f : Cluster) : (s.setCluster k f).far = s.far := rfl
@[simp] theorem State.setCluster_markRels (s : State) (k : Nat) (f : Cluster) : (s.setCluster k f).markRels = s.markRels := rfl
@[simp] theorem State.setCluster_joinRels (s : State) (k : Nat) (f : Cluster) : (s.setCluster k f).joinRels = s.joinRels := rfl
@[simp] theorem State.setCluster_tlRels (s : State) (k : Nat) (f : Cluster) : (s.setCluster k f).tlRels = s.tlRels := rfl
@[simp] theorem State.setCluster_chunkMasks (s : State) (k : Nat) (f : Cluster) : (s.setCluster k f).chunkMasks = s.chunkMasks := rfl
@[simp] theorem State.setCluster_peerWrites (s : State) (k : Nat) (f : Cluster) : (s.setCluster k f).peerWrites = s.peerWrites := rfl
@[simp] theorem State.setCluster_claims (s : State) (k : Nat) (f : Cluster) : (s.setCluster k f).claims = s.claims := rfl
@[simp] theorem State.setCluster_cores (s : State) (k : Nat) (f : Cluster) : (s.setCluster k f).cores = s.cores := rfl
@[simp] theorem State.setCluster_rings (s : State) (k : Nat) (f : Cluster) : (s.setCluster k f).rings = s.rings := rfl
@[simp] theorem State.setCluster_dies (s : State) (k : Nat) (f : Cluster) : (s.setCluster k f).dies = s.dies := rfl
@[simp] theorem State.setCluster_tlb (s : State) (k : Nat) (f : Cluster) : (s.setCluster k f).tlb = s.tlb := rfl
@[simp] theorem State.setCluster_jobs (s : State) (k : Nat) (f : Cluster) : (s.setCluster k f).jobs = s.jobs := rfl
@[simp] theorem State.setCluster_pkg (s : State) (k : Nat) (f : Cluster) : (s.setCluster k f).pkg = s.pkg := rfl

/-! `State.onDie` -/
@[simp] theorem State.onDie_cur (s : State) (k : Nat) (f : Die → Die) : (s.onDie k f).cur = s.cur := rfl
@[simp] theorem State.onDie_rest (s : State) (k : Nat) (f : Die → Die) : (s.onDie k f).rest = s.rest := rfl
@[simp] theorem State.onDie_agenda (s : State) (k : Nat) (f : Die → Die) : (s.onDie k f).agenda = s.agenda := rfl
@[simp] theorem State.onDie_gtime (s : State) (k : Nat) (f : Die → Die) : (s.onDie k f).gtime = s.gtime := rfl
@[simp] theorem State.onDie_free (s : State) (k : Nat) (f : Die → Die) : (s.onDie k f).free = s.free := rfl
@[simp] theorem State.onDie_ticket (s : State) (k : Nat) (f : Die → Die) : (s.onDie k f).ticket = s.ticket := rfl
@[simp] theorem State.onDie_mem (s : State) (k : Nat) (f : Die → Die) : (s.onDie k f).mem = s.mem := rfl
@[simp] theorem State.onDie_keyRuns (s : State) (k : Nat) (f : Die → Die) : (s.onDie k f).keyRuns = s.keyRuns := rfl
@[simp] theorem State.onDie_poison (s : State) (k : Nat) (f : Die → Die) : (s.onDie k f).poison = s.poison := rfl
@[simp] theorem State.onDie_sable (s : State) (k : Nat) (f : Die → Die) : (s.onDie k f).sable = s.sable := rfl
@[simp] theorem State.onDie_hist (s : State) (k : Nat) (f : Die → Die) : (s.onDie k f).hist = s.hist := rfl
@[simp] theorem State.onDie_nextW (s : State) (k : Nat) (f : Die → Die) : (s.onDie k f).nextW = s.nextW := rfl
@[simp] theorem State.onDie_rels (s : State) (k : Nat) (f : Die → Die) : (s.onDie k f).rels = s.rels := rfl
@[simp] theorem State.onDie_nextRel (s : State) (k : Nat) (f : Die → Die) : (s.onDie k f).nextRel = s.nextRel := rfl
@[simp] theorem State.onDie_pfulls (s : State) (k : Nat) (f : Die → Die) : (s.onDie k f).pfulls = s.pfulls := rfl
@[simp] theorem State.onDie_lockRels (s : State) (k : Nat) (f : Die → Die) : (s.onDie k f).lockRels = s.lockRels := rfl
@[simp] theorem State.onDie_far (s : State) (k : Nat) (f : Die → Die) : (s.onDie k f).far = s.far := rfl
@[simp] theorem State.onDie_markRels (s : State) (k : Nat) (f : Die → Die) : (s.onDie k f).markRels = s.markRels := rfl
@[simp] theorem State.onDie_joinRels (s : State) (k : Nat) (f : Die → Die) : (s.onDie k f).joinRels = s.joinRels := rfl
@[simp] theorem State.onDie_tlRels (s : State) (k : Nat) (f : Die → Die) : (s.onDie k f).tlRels = s.tlRels := rfl
@[simp] theorem State.onDie_chunkMasks (s : State) (k : Nat) (f : Die → Die) : (s.onDie k f).chunkMasks = s.chunkMasks := rfl
@[simp] theorem State.onDie_peerWrites (s : State) (k : Nat) (f : Die → Die) : (s.onDie k f).peerWrites = s.peerWrites := rfl
@[simp] theorem State.onDie_claims (s : State) (k : Nat) (f : Die → Die) : (s.onDie k f).claims = s.claims := rfl
@[simp] theorem State.onDie_cores (s : State) (k : Nat) (f : Die → Die) : (s.onDie k f).cores = s.cores := rfl
@[simp] theorem State.onDie_clusters (s : State) (k : Nat) (f : Die → Die) : (s.onDie k f).clusters = s.clusters := rfl
@[simp] theorem State.onDie_rings (s : State) (k : Nat) (f : Die → Die) : (s.onDie k f).rings = s.rings := rfl
@[simp] theorem State.onDie_tlb (s : State) (k : Nat) (f : Die → Die) : (s.onDie k f).tlb = s.tlb := rfl
@[simp] theorem State.onDie_jobs (s : State) (k : Nat) (f : Die → Die) : (s.onDie k f).jobs = s.jobs := rfl
@[simp] theorem State.onDie_pkg (s : State) (k : Nat) (f : Die → Die) : (s.onDie k f).pkg = s.pkg := rfl

/-! `State.setDie` -/
@[simp] theorem State.setDie_cur (s : State) (k : Nat) (f : Die) : (s.setDie k f).cur = s.cur := rfl
@[simp] theorem State.setDie_rest (s : State) (k : Nat) (f : Die) : (s.setDie k f).rest = s.rest := rfl
@[simp] theorem State.setDie_agenda (s : State) (k : Nat) (f : Die) : (s.setDie k f).agenda = s.agenda := rfl
@[simp] theorem State.setDie_gtime (s : State) (k : Nat) (f : Die) : (s.setDie k f).gtime = s.gtime := rfl
@[simp] theorem State.setDie_free (s : State) (k : Nat) (f : Die) : (s.setDie k f).free = s.free := rfl
@[simp] theorem State.setDie_ticket (s : State) (k : Nat) (f : Die) : (s.setDie k f).ticket = s.ticket := rfl
@[simp] theorem State.setDie_mem (s : State) (k : Nat) (f : Die) : (s.setDie k f).mem = s.mem := rfl
@[simp] theorem State.setDie_keyRuns (s : State) (k : Nat) (f : Die) : (s.setDie k f).keyRuns = s.keyRuns := rfl
@[simp] theorem State.setDie_poison (s : State) (k : Nat) (f : Die) : (s.setDie k f).poison = s.poison := rfl
@[simp] theorem State.setDie_sable (s : State) (k : Nat) (f : Die) : (s.setDie k f).sable = s.sable := rfl
@[simp] theorem State.setDie_hist (s : State) (k : Nat) (f : Die) : (s.setDie k f).hist = s.hist := rfl
@[simp] theorem State.setDie_nextW (s : State) (k : Nat) (f : Die) : (s.setDie k f).nextW = s.nextW := rfl
@[simp] theorem State.setDie_rels (s : State) (k : Nat) (f : Die) : (s.setDie k f).rels = s.rels := rfl
@[simp] theorem State.setDie_nextRel (s : State) (k : Nat) (f : Die) : (s.setDie k f).nextRel = s.nextRel := rfl
@[simp] theorem State.setDie_pfulls (s : State) (k : Nat) (f : Die) : (s.setDie k f).pfulls = s.pfulls := rfl
@[simp] theorem State.setDie_lockRels (s : State) (k : Nat) (f : Die) : (s.setDie k f).lockRels = s.lockRels := rfl
@[simp] theorem State.setDie_far (s : State) (k : Nat) (f : Die) : (s.setDie k f).far = s.far := rfl
@[simp] theorem State.setDie_markRels (s : State) (k : Nat) (f : Die) : (s.setDie k f).markRels = s.markRels := rfl
@[simp] theorem State.setDie_joinRels (s : State) (k : Nat) (f : Die) : (s.setDie k f).joinRels = s.joinRels := rfl
@[simp] theorem State.setDie_tlRels (s : State) (k : Nat) (f : Die) : (s.setDie k f).tlRels = s.tlRels := rfl
@[simp] theorem State.setDie_chunkMasks (s : State) (k : Nat) (f : Die) : (s.setDie k f).chunkMasks = s.chunkMasks := rfl
@[simp] theorem State.setDie_peerWrites (s : State) (k : Nat) (f : Die) : (s.setDie k f).peerWrites = s.peerWrites := rfl
@[simp] theorem State.setDie_claims (s : State) (k : Nat) (f : Die) : (s.setDie k f).claims = s.claims := rfl
@[simp] theorem State.setDie_cores (s : State) (k : Nat) (f : Die) : (s.setDie k f).cores = s.cores := rfl
@[simp] theorem State.setDie_clusters (s : State) (k : Nat) (f : Die) : (s.setDie k f).clusters = s.clusters := rfl
@[simp] theorem State.setDie_rings (s : State) (k : Nat) (f : Die) : (s.setDie k f).rings = s.rings := rfl
@[simp] theorem State.setDie_tlb (s : State) (k : Nat) (f : Die) : (s.setDie k f).tlb = s.tlb := rfl
@[simp] theorem State.setDie_jobs (s : State) (k : Nat) (f : Die) : (s.setDie k f).jobs = s.jobs := rfl
@[simp] theorem State.setDie_pkg (s : State) (k : Nat) (f : Die) : (s.setDie k f).pkg = s.pkg := rfl

/-! `State.onJob` -/
@[simp] theorem State.onJob_cur (s : State) (k : BitVec 32) (f : Job → Job) : (s.onJob k f).cur = s.cur := rfl
@[simp] theorem State.onJob_rest (s : State) (k : BitVec 32) (f : Job → Job) : (s.onJob k f).rest = s.rest := rfl
@[simp] theorem State.onJob_agenda (s : State) (k : BitVec 32) (f : Job → Job) : (s.onJob k f).agenda = s.agenda := rfl
@[simp] theorem State.onJob_gtime (s : State) (k : BitVec 32) (f : Job → Job) : (s.onJob k f).gtime = s.gtime := rfl
@[simp] theorem State.onJob_free (s : State) (k : BitVec 32) (f : Job → Job) : (s.onJob k f).free = s.free := rfl
@[simp] theorem State.onJob_ticket (s : State) (k : BitVec 32) (f : Job → Job) : (s.onJob k f).ticket = s.ticket := rfl
@[simp] theorem State.onJob_mem (s : State) (k : BitVec 32) (f : Job → Job) : (s.onJob k f).mem = s.mem := rfl
@[simp] theorem State.onJob_keyRuns (s : State) (k : BitVec 32) (f : Job → Job) : (s.onJob k f).keyRuns = s.keyRuns := rfl
@[simp] theorem State.onJob_poison (s : State) (k : BitVec 32) (f : Job → Job) : (s.onJob k f).poison = s.poison := rfl
@[simp] theorem State.onJob_sable (s : State) (k : BitVec 32) (f : Job → Job) : (s.onJob k f).sable = s.sable := rfl
@[simp] theorem State.onJob_hist (s : State) (k : BitVec 32) (f : Job → Job) : (s.onJob k f).hist = s.hist := rfl
@[simp] theorem State.onJob_nextW (s : State) (k : BitVec 32) (f : Job → Job) : (s.onJob k f).nextW = s.nextW := rfl
@[simp] theorem State.onJob_rels (s : State) (k : BitVec 32) (f : Job → Job) : (s.onJob k f).rels = s.rels := rfl
@[simp] theorem State.onJob_nextRel (s : State) (k : BitVec 32) (f : Job → Job) : (s.onJob k f).nextRel = s.nextRel := rfl
@[simp] theorem State.onJob_pfulls (s : State) (k : BitVec 32) (f : Job → Job) : (s.onJob k f).pfulls = s.pfulls := rfl
@[simp] theorem State.onJob_lockRels (s : State) (k : BitVec 32) (f : Job → Job) : (s.onJob k f).lockRels = s.lockRels := rfl
@[simp] theorem State.onJob_far (s : State) (k : BitVec 32) (f : Job → Job) : (s.onJob k f).far = s.far := rfl
@[simp] theorem State.onJob_markRels (s : State) (k : BitVec 32) (f : Job → Job) : (s.onJob k f).markRels = s.markRels := rfl
@[simp] theorem State.onJob_joinRels (s : State) (k : BitVec 32) (f : Job → Job) : (s.onJob k f).joinRels = s.joinRels := rfl
@[simp] theorem State.onJob_tlRels (s : State) (k : BitVec 32) (f : Job → Job) : (s.onJob k f).tlRels = s.tlRels := rfl
@[simp] theorem State.onJob_chunkMasks (s : State) (k : BitVec 32) (f : Job → Job) : (s.onJob k f).chunkMasks = s.chunkMasks := rfl
@[simp] theorem State.onJob_peerWrites (s : State) (k : BitVec 32) (f : Job → Job) : (s.onJob k f).peerWrites = s.peerWrites := rfl
@[simp] theorem State.onJob_claims (s : State) (k : BitVec 32) (f : Job → Job) : (s.onJob k f).claims = s.claims := rfl
@[simp] theorem State.onJob_cores (s : State) (k : BitVec 32) (f : Job → Job) : (s.onJob k f).cores = s.cores := rfl
@[simp] theorem State.onJob_clusters (s : State) (k : BitVec 32) (f : Job → Job) : (s.onJob k f).clusters = s.clusters := rfl
@[simp] theorem State.onJob_rings (s : State) (k : BitVec 32) (f : Job → Job) : (s.onJob k f).rings = s.rings := rfl
@[simp] theorem State.onJob_dies (s : State) (k : BitVec 32) (f : Job → Job) : (s.onJob k f).dies = s.dies := rfl
@[simp] theorem State.onJob_tlb (s : State) (k : BitVec 32) (f : Job → Job) : (s.onJob k f).tlb = s.tlb := rfl
@[simp] theorem State.onJob_pkg (s : State) (k : BitVec 32) (f : Job → Job) : (s.onJob k f).pkg = s.pkg := rfl

/-! `State.mapStrands` -/
@[simp] theorem State.mapStrands_agenda (s : State) (f : Strand → Strand) : (s.mapStrands f).agenda = s.agenda := rfl
@[simp] theorem State.mapStrands_gtime (s : State) (f : Strand → Strand) : (s.mapStrands f).gtime = s.gtime := rfl
@[simp] theorem State.mapStrands_free (s : State) (f : Strand → Strand) : (s.mapStrands f).free = s.free := rfl
@[simp] theorem State.mapStrands_ticket (s : State) (f : Strand → Strand) : (s.mapStrands f).ticket = s.ticket := rfl
@[simp] theorem State.mapStrands_mem (s : State) (f : Strand → Strand) : (s.mapStrands f).mem = s.mem := rfl
@[simp] theorem State.mapStrands_keyRuns (s : State) (f : Strand → Strand) : (s.mapStrands f).keyRuns = s.keyRuns := rfl
@[simp] theorem State.mapStrands_poison (s : State) (f : Strand → Strand) : (s.mapStrands f).poison = s.poison := rfl
@[simp] theorem State.mapStrands_sable (s : State) (f : Strand → Strand) : (s.mapStrands f).sable = s.sable := rfl
@[simp] theorem State.mapStrands_hist (s : State) (f : Strand → Strand) : (s.mapStrands f).hist = s.hist := rfl
@[simp] theorem State.mapStrands_nextW (s : State) (f : Strand → Strand) : (s.mapStrands f).nextW = s.nextW := rfl
@[simp] theorem State.mapStrands_rels (s : State) (f : Strand → Strand) : (s.mapStrands f).rels = s.rels := rfl
@[simp] theorem State.mapStrands_nextRel (s : State) (f : Strand → Strand) : (s.mapStrands f).nextRel = s.nextRel := rfl
@[simp] theorem State.mapStrands_pfulls (s : State) (f : Strand → Strand) : (s.mapStrands f).pfulls = s.pfulls := rfl
@[simp] theorem State.mapStrands_lockRels (s : State) (f : Strand → Strand) : (s.mapStrands f).lockRels = s.lockRels := rfl
@[simp] theorem State.mapStrands_far (s : State) (f : Strand → Strand) : (s.mapStrands f).far = s.far := rfl
@[simp] theorem State.mapStrands_markRels (s : State) (f : Strand → Strand) : (s.mapStrands f).markRels = s.markRels := rfl
@[simp] theorem State.mapStrands_joinRels (s : State) (f : Strand → Strand) : (s.mapStrands f).joinRels = s.joinRels := rfl
@[simp] theorem State.mapStrands_tlRels (s : State) (f : Strand → Strand) : (s.mapStrands f).tlRels = s.tlRels := rfl
@[simp] theorem State.mapStrands_chunkMasks (s : State) (f : Strand → Strand) : (s.mapStrands f).chunkMasks = s.chunkMasks := rfl
@[simp] theorem State.mapStrands_peerWrites (s : State) (f : Strand → Strand) : (s.mapStrands f).peerWrites = s.peerWrites := rfl
@[simp] theorem State.mapStrands_claims (s : State) (f : Strand → Strand) : (s.mapStrands f).claims = s.claims := rfl
@[simp] theorem State.mapStrands_cores (s : State) (f : Strand → Strand) : (s.mapStrands f).cores = s.cores := rfl
@[simp] theorem State.mapStrands_clusters (s : State) (f : Strand → Strand) : (s.mapStrands f).clusters = s.clusters := rfl
@[simp] theorem State.mapStrands_rings (s : State) (f : Strand → Strand) : (s.mapStrands f).rings = s.rings := rfl
@[simp] theorem State.mapStrands_dies (s : State) (f : Strand → Strand) : (s.mapStrands f).dies = s.dies := rfl
@[simp] theorem State.mapStrands_tlb (s : State) (f : Strand → Strand) : (s.mapStrands f).tlb = s.tlb := rfl
@[simp] theorem State.mapStrands_jobs (s : State) (f : Strand → Strand) : (s.mapStrands f).jobs = s.jobs := rfl
@[simp] theorem State.mapStrands_pkg (s : State) (f : Strand → Strand) : (s.mapStrands f).pkg = s.pkg := rfl

/-! `State.poke` -/
@[simp] theorem State.poke_cur (s : State) (k l : Nat) (f : List Byte) : (s.poke k l f).cur = s.cur := rfl
@[simp] theorem State.poke_rest (s : State) (k l : Nat) (f : List Byte) : (s.poke k l f).rest = s.rest := rfl
@[simp] theorem State.poke_agenda (s : State) (k l : Nat) (f : List Byte) : (s.poke k l f).agenda = s.agenda := rfl
@[simp] theorem State.poke_gtime (s : State) (k l : Nat) (f : List Byte) : (s.poke k l f).gtime = s.gtime := rfl
@[simp] theorem State.poke_free (s : State) (k l : Nat) (f : List Byte) : (s.poke k l f).free = s.free := rfl
@[simp] theorem State.poke_ticket (s : State) (k l : Nat) (f : List Byte) : (s.poke k l f).ticket = s.ticket := rfl
@[simp] theorem State.poke_poison (s : State) (k l : Nat) (f : List Byte) : (s.poke k l f).poison = s.poison := rfl
@[simp] theorem State.poke_sable (s : State) (k l : Nat) (f : List Byte) : (s.poke k l f).sable = s.sable := rfl
@[simp] theorem State.poke_hist (s : State) (k l : Nat) (f : List Byte) : (s.poke k l f).hist = s.hist := rfl
@[simp] theorem State.poke_nextW (s : State) (k l : Nat) (f : List Byte) : (s.poke k l f).nextW = s.nextW := rfl
@[simp] theorem State.poke_rels (s : State) (k l : Nat) (f : List Byte) : (s.poke k l f).rels = s.rels := rfl
@[simp] theorem State.poke_nextRel (s : State) (k l : Nat) (f : List Byte) : (s.poke k l f).nextRel = s.nextRel := rfl
@[simp] theorem State.poke_pfulls (s : State) (k l : Nat) (f : List Byte) : (s.poke k l f).pfulls = s.pfulls := rfl
@[simp] theorem State.poke_lockRels (s : State) (k l : Nat) (f : List Byte) : (s.poke k l f).lockRels = s.lockRels := rfl
@[simp] theorem State.poke_far (s : State) (k l : Nat) (f : List Byte) : (s.poke k l f).far = s.far := rfl
@[simp] theorem State.poke_markRels (s : State) (k l : Nat) (f : List Byte) : (s.poke k l f).markRels = s.markRels := rfl
@[simp] theorem State.poke_joinRels (s : State) (k l : Nat) (f : List Byte) : (s.poke k l f).joinRels = s.joinRels := rfl
@[simp] theorem State.poke_tlRels (s : State) (k l : Nat) (f : List Byte) : (s.poke k l f).tlRels = s.tlRels := rfl
@[simp] theorem State.poke_chunkMasks (s : State) (k l : Nat) (f : List Byte) : (s.poke k l f).chunkMasks = s.chunkMasks := rfl
@[simp] theorem State.poke_peerWrites (s : State) (k l : Nat) (f : List Byte) : (s.poke k l f).peerWrites = s.peerWrites := rfl
@[simp] theorem State.poke_claims (s : State) (k l : Nat) (f : List Byte) : (s.poke k l f).claims = s.claims := rfl
@[simp] theorem State.poke_cores (s : State) (k l : Nat) (f : List Byte) : (s.poke k l f).cores = s.cores := rfl
@[simp] theorem State.poke_clusters (s : State) (k l : Nat) (f : List Byte) : (s.poke k l f).clusters = s.clusters := rfl
@[simp] theorem State.poke_rings (s : State) (k l : Nat) (f : List Byte) : (s.poke k l f).rings = s.rings := rfl
@[simp] theorem State.poke_dies (s : State) (k l : Nat) (f : List Byte) : (s.poke k l f).dies = s.dies := rfl
@[simp] theorem State.poke_tlb (s : State) (k l : Nat) (f : List Byte) : (s.poke k l f).tlb = s.tlb := rfl
@[simp] theorem State.poke_jobs (s : State) (k l : Nat) (f : List Byte) : (s.poke k l f).jobs = s.jobs := rfl
@[simp] theorem State.poke_pkg (s : State) (k l : Nat) (f : List Byte) : (s.poke k l f).pkg = s.pkg := rfl

/-! `State.acquire` -/
@[simp] theorem State.acquire_rest (s : State) (k : Scope) (f : List Nat) : (s.acquire k f).rest = s.rest := rfl
@[simp] theorem State.acquire_agenda (s : State) (k : Scope) (f : List Nat) : (s.acquire k f).agenda = s.agenda := rfl
@[simp] theorem State.acquire_gtime (s : State) (k : Scope) (f : List Nat) : (s.acquire k f).gtime = s.gtime := rfl
@[simp] theorem State.acquire_free (s : State) (k : Scope) (f : List Nat) : (s.acquire k f).free = s.free := rfl
@[simp] theorem State.acquire_ticket (s : State) (k : Scope) (f : List Nat) : (s.acquire k f).ticket = s.ticket := rfl
@[simp] theorem State.acquire_mem (s : State) (k : Scope) (f : List Nat) : (s.acquire k f).mem = s.mem := rfl
@[simp] theorem State.acquire_keyRuns (s : State) (k : Scope) (f : List Nat) : (s.acquire k f).keyRuns = s.keyRuns := rfl
@[simp] theorem State.acquire_poison (s : State) (k : Scope) (f : List Nat) : (s.acquire k f).poison = s.poison := rfl
@[simp] theorem State.acquire_sable (s : State) (k : Scope) (f : List Nat) : (s.acquire k f).sable = s.sable := rfl
@[simp] theorem State.acquire_hist (s : State) (k : Scope) (f : List Nat) : (s.acquire k f).hist = s.hist := rfl
@[simp] theorem State.acquire_nextW (s : State) (k : Scope) (f : List Nat) : (s.acquire k f).nextW = s.nextW := rfl
@[simp] theorem State.acquire_rels (s : State) (k : Scope) (f : List Nat) : (s.acquire k f).rels = s.rels := rfl
@[simp] theorem State.acquire_nextRel (s : State) (k : Scope) (f : List Nat) : (s.acquire k f).nextRel = s.nextRel := rfl
@[simp] theorem State.acquire_pfulls (s : State) (k : Scope) (f : List Nat) : (s.acquire k f).pfulls = s.pfulls := rfl
@[simp] theorem State.acquire_lockRels (s : State) (k : Scope) (f : List Nat) : (s.acquire k f).lockRels = s.lockRels := rfl
@[simp] theorem State.acquire_far (s : State) (k : Scope) (f : List Nat) : (s.acquire k f).far = s.far := rfl
@[simp] theorem State.acquire_markRels (s : State) (k : Scope) (f : List Nat) : (s.acquire k f).markRels = s.markRels := rfl
@[simp] theorem State.acquire_joinRels (s : State) (k : Scope) (f : List Nat) : (s.acquire k f).joinRels = s.joinRels := rfl
@[simp] theorem State.acquire_tlRels (s : State) (k : Scope) (f : List Nat) : (s.acquire k f).tlRels = s.tlRels := rfl
@[simp] theorem State.acquire_chunkMasks (s : State) (k : Scope) (f : List Nat) : (s.acquire k f).chunkMasks = s.chunkMasks := rfl
@[simp] theorem State.acquire_peerWrites (s : State) (k : Scope) (f : List Nat) : (s.acquire k f).peerWrites = s.peerWrites := rfl
@[simp] theorem State.acquire_claims (s : State) (k : Scope) (f : List Nat) : (s.acquire k f).claims = s.claims := rfl
@[simp] theorem State.acquire_cores (s : State) (k : Scope) (f : List Nat) : (s.acquire k f).cores = s.cores := rfl
@[simp] theorem State.acquire_clusters (s : State) (k : Scope) (f : List Nat) : (s.acquire k f).clusters = s.clusters := rfl
@[simp] theorem State.acquire_rings (s : State) (k : Scope) (f : List Nat) : (s.acquire k f).rings = s.rings := rfl
@[simp] theorem State.acquire_dies (s : State) (k : Scope) (f : List Nat) : (s.acquire k f).dies = s.dies := rfl
@[simp] theorem State.acquire_tlb (s : State) (k : Scope) (f : List Nat) : (s.acquire k f).tlb = s.tlb := rfl
@[simp] theorem State.acquire_jobs (s : State) (k : Scope) (f : List Nat) : (s.acquire k f).jobs = s.jobs := rfl
@[simp] theorem State.acquire_pkg (s : State) (k : Scope) (f : List Nat) : (s.acquire k f).pkg = s.pkg := rfl

/-! `State.setPoison` -/
@[simp] theorem State.setPoison_cur (s : State) (k l : Nat) (f : Bool) : (s.setPoison k l f).cur = s.cur := rfl
@[simp] theorem State.setPoison_rest (s : State) (k l : Nat) (f : Bool) : (s.setPoison k l f).rest = s.rest := rfl
@[simp] theorem State.setPoison_agenda (s : State) (k l : Nat) (f : Bool) : (s.setPoison k l f).agenda = s.agenda := rfl
@[simp] theorem State.setPoison_gtime (s : State) (k l : Nat) (f : Bool) : (s.setPoison k l f).gtime = s.gtime := rfl
@[simp] theorem State.setPoison_free (s : State) (k l : Nat) (f : Bool) : (s.setPoison k l f).free = s.free := rfl
@[simp] theorem State.setPoison_ticket (s : State) (k l : Nat) (f : Bool) : (s.setPoison k l f).ticket = s.ticket := rfl
@[simp] theorem State.setPoison_mem (s : State) (k l : Nat) (f : Bool) : (s.setPoison k l f).mem = s.mem := rfl
@[simp] theorem State.setPoison_keyRuns (s : State) (k l : Nat) (f : Bool) : (s.setPoison k l f).keyRuns = s.keyRuns := rfl
@[simp] theorem State.setPoison_sable (s : State) (k l : Nat) (f : Bool) : (s.setPoison k l f).sable = s.sable := rfl
@[simp] theorem State.setPoison_hist (s : State) (k l : Nat) (f : Bool) : (s.setPoison k l f).hist = s.hist := rfl
@[simp] theorem State.setPoison_nextW (s : State) (k l : Nat) (f : Bool) : (s.setPoison k l f).nextW = s.nextW := rfl
@[simp] theorem State.setPoison_rels (s : State) (k l : Nat) (f : Bool) : (s.setPoison k l f).rels = s.rels := rfl
@[simp] theorem State.setPoison_nextRel (s : State) (k l : Nat) (f : Bool) : (s.setPoison k l f).nextRel = s.nextRel := rfl
@[simp] theorem State.setPoison_pfulls (s : State) (k l : Nat) (f : Bool) : (s.setPoison k l f).pfulls = s.pfulls := rfl
@[simp] theorem State.setPoison_lockRels (s : State) (k l : Nat) (f : Bool) : (s.setPoison k l f).lockRels = s.lockRels := rfl
@[simp] theorem State.setPoison_far (s : State) (k l : Nat) (f : Bool) : (s.setPoison k l f).far = s.far := rfl
@[simp] theorem State.setPoison_markRels (s : State) (k l : Nat) (f : Bool) : (s.setPoison k l f).markRels = s.markRels := rfl
@[simp] theorem State.setPoison_joinRels (s : State) (k l : Nat) (f : Bool) : (s.setPoison k l f).joinRels = s.joinRels := rfl
@[simp] theorem State.setPoison_tlRels (s : State) (k l : Nat) (f : Bool) : (s.setPoison k l f).tlRels = s.tlRels := rfl
@[simp] theorem State.setPoison_chunkMasks (s : State) (k l : Nat) (f : Bool) : (s.setPoison k l f).chunkMasks = s.chunkMasks := rfl
@[simp] theorem State.setPoison_peerWrites (s : State) (k l : Nat) (f : Bool) : (s.setPoison k l f).peerWrites = s.peerWrites := rfl
@[simp] theorem State.setPoison_claims (s : State) (k l : Nat) (f : Bool) : (s.setPoison k l f).claims = s.claims := rfl
@[simp] theorem State.setPoison_cores (s : State) (k l : Nat) (f : Bool) : (s.setPoison k l f).cores = s.cores := rfl
@[simp] theorem State.setPoison_clusters (s : State) (k l : Nat) (f : Bool) : (s.setPoison k l f).clusters = s.clusters := rfl
@[simp] theorem State.setPoison_rings (s : State) (k l : Nat) (f : Bool) : (s.setPoison k l f).rings = s.rings := rfl
@[simp] theorem State.setPoison_dies (s : State) (k l : Nat) (f : Bool) : (s.setPoison k l f).dies = s.dies := rfl
@[simp] theorem State.setPoison_tlb (s : State) (k l : Nat) (f : Bool) : (s.setPoison k l f).tlb = s.tlb := rfl
@[simp] theorem State.setPoison_jobs (s : State) (k l : Nat) (f : Bool) : (s.setPoison k l f).jobs = s.jobs := rfl
@[simp] theorem State.setPoison_pkg (s : State) (k l : Nat) (f : Bool) : (s.setPoison k l f).pkg = s.pkg := rfl

/-! `State.cleanWhole` -/
@[simp] theorem State.cleanWhole_cur (s : State) (k l : Nat) : (s.cleanWhole k l).cur = s.cur := rfl
@[simp] theorem State.cleanWhole_rest (s : State) (k l : Nat) : (s.cleanWhole k l).rest = s.rest := rfl
@[simp] theorem State.cleanWhole_agenda (s : State) (k l : Nat) : (s.cleanWhole k l).agenda = s.agenda := rfl
@[simp] theorem State.cleanWhole_gtime (s : State) (k l : Nat) : (s.cleanWhole k l).gtime = s.gtime := rfl
@[simp] theorem State.cleanWhole_free (s : State) (k l : Nat) : (s.cleanWhole k l).free = s.free := rfl
@[simp] theorem State.cleanWhole_ticket (s : State) (k l : Nat) : (s.cleanWhole k l).ticket = s.ticket := rfl
@[simp] theorem State.cleanWhole_mem (s : State) (k l : Nat) : (s.cleanWhole k l).mem = s.mem := rfl
@[simp] theorem State.cleanWhole_keyRuns (s : State) (k l : Nat) : (s.cleanWhole k l).keyRuns = s.keyRuns := rfl
@[simp] theorem State.cleanWhole_sable (s : State) (k l : Nat) : (s.cleanWhole k l).sable = s.sable := rfl
@[simp] theorem State.cleanWhole_hist (s : State) (k l : Nat) : (s.cleanWhole k l).hist = s.hist := rfl
@[simp] theorem State.cleanWhole_nextW (s : State) (k l : Nat) : (s.cleanWhole k l).nextW = s.nextW := rfl
@[simp] theorem State.cleanWhole_rels (s : State) (k l : Nat) : (s.cleanWhole k l).rels = s.rels := rfl
@[simp] theorem State.cleanWhole_nextRel (s : State) (k l : Nat) : (s.cleanWhole k l).nextRel = s.nextRel := rfl
@[simp] theorem State.cleanWhole_pfulls (s : State) (k l : Nat) : (s.cleanWhole k l).pfulls = s.pfulls := rfl
@[simp] theorem State.cleanWhole_lockRels (s : State) (k l : Nat) : (s.cleanWhole k l).lockRels = s.lockRels := rfl
@[simp] theorem State.cleanWhole_far (s : State) (k l : Nat) : (s.cleanWhole k l).far = s.far := rfl
@[simp] theorem State.cleanWhole_markRels (s : State) (k l : Nat) : (s.cleanWhole k l).markRels = s.markRels := rfl
@[simp] theorem State.cleanWhole_joinRels (s : State) (k l : Nat) : (s.cleanWhole k l).joinRels = s.joinRels := rfl
@[simp] theorem State.cleanWhole_tlRels (s : State) (k l : Nat) : (s.cleanWhole k l).tlRels = s.tlRels := rfl
@[simp] theorem State.cleanWhole_chunkMasks (s : State) (k l : Nat) : (s.cleanWhole k l).chunkMasks = s.chunkMasks := rfl
@[simp] theorem State.cleanWhole_peerWrites (s : State) (k l : Nat) : (s.cleanWhole k l).peerWrites = s.peerWrites := rfl
@[simp] theorem State.cleanWhole_claims (s : State) (k l : Nat) : (s.cleanWhole k l).claims = s.claims := rfl
@[simp] theorem State.cleanWhole_cores (s : State) (k l : Nat) : (s.cleanWhole k l).cores = s.cores := rfl
@[simp] theorem State.cleanWhole_clusters (s : State) (k l : Nat) : (s.cleanWhole k l).clusters = s.clusters := rfl
@[simp] theorem State.cleanWhole_rings (s : State) (k l : Nat) : (s.cleanWhole k l).rings = s.rings := rfl
@[simp] theorem State.cleanWhole_dies (s : State) (k l : Nat) : (s.cleanWhole k l).dies = s.dies := rfl
@[simp] theorem State.cleanWhole_tlb (s : State) (k l : Nat) : (s.cleanWhole k l).tlb = s.tlb := rfl
@[simp] theorem State.cleanWhole_jobs (s : State) (k l : Nat) : (s.cleanWhole k l).jobs = s.jobs := rfl
@[simp] theorem State.cleanWhole_pkg (s : State) (k l : Nat) : (s.cleanWhole k l).pkg = s.pkg := rfl

/-- A left fold keeps what each of its steps keeps. -/
theorem foldl_keep {α β γ : Type} (g : β → γ) (f : β → α → β) (h : ∀ b a, g (f b a) = g b) (l : List α) (b : β) : g (l.foldl f b) = g b := by
  induction l generalizing b with
  | nil => rfl
  | cons a l ih => exact (ih _).trans (h b a)

/-! `State.logError` -/
@[simp] theorem State.logError_cur (s : State) (k : Nat) (b : Bool) : (s.logError k b).cur = s.cur := by unfold State.logError; repeat (first | rfl | split)
@[simp] theorem State.logError_rest (s : State) (k : Nat) (b : Bool) : (s.logError k b).rest = s.rest := by unfold State.logError; repeat (first | rfl | split)
@[simp] theorem State.logError_agenda (s : State) (k : Nat) (b : Bool) : (s.logError k b).agenda = s.agenda := by unfold State.logError; repeat (first | rfl | split)
@[simp] theorem State.logError_gtime (s : State) (k : Nat) (b : Bool) : (s.logError k b).gtime = s.gtime := by unfold State.logError; repeat (first | rfl | split)
@[simp] theorem State.logError_free (s : State) (k : Nat) (b : Bool) : (s.logError k b).free = s.free := by unfold State.logError; repeat (first | rfl | split)
@[simp] theorem State.logError_ticket (s : State) (k : Nat) (b : Bool) : (s.logError k b).ticket = s.ticket := by unfold State.logError; repeat (first | rfl | split)
@[simp] theorem State.logError_mem (s : State) (k : Nat) (b : Bool) : (s.logError k b).mem = s.mem := by unfold State.logError; repeat (first | rfl | split)
@[simp] theorem State.logError_keyRuns (s : State) (k : Nat) (b : Bool) : (s.logError k b).keyRuns = s.keyRuns := by unfold State.logError; repeat (first | rfl | split)
@[simp] theorem State.logError_poison (s : State) (k : Nat) (b : Bool) : (s.logError k b).poison = s.poison := by unfold State.logError; repeat (first | rfl | split)
@[simp] theorem State.logError_sable (s : State) (k : Nat) (b : Bool) : (s.logError k b).sable = s.sable := by unfold State.logError; repeat (first | rfl | split)
@[simp] theorem State.logError_hist (s : State) (k : Nat) (b : Bool) : (s.logError k b).hist = s.hist := by unfold State.logError; repeat (first | rfl | split)
@[simp] theorem State.logError_nextW (s : State) (k : Nat) (b : Bool) : (s.logError k b).nextW = s.nextW := by unfold State.logError; repeat (first | rfl | split)
@[simp] theorem State.logError_rels (s : State) (k : Nat) (b : Bool) : (s.logError k b).rels = s.rels := by unfold State.logError; repeat (first | rfl | split)
@[simp] theorem State.logError_nextRel (s : State) (k : Nat) (b : Bool) : (s.logError k b).nextRel = s.nextRel := by unfold State.logError; repeat (first | rfl | split)
@[simp] theorem State.logError_pfulls (s : State) (k : Nat) (b : Bool) : (s.logError k b).pfulls = s.pfulls := by unfold State.logError; repeat (first | rfl | split)
@[simp] theorem State.logError_lockRels (s : State) (k : Nat) (b : Bool) : (s.logError k b).lockRels = s.lockRels := by unfold State.logError; repeat (first | rfl | split)
@[simp] theorem State.logError_far (s : State) (k : Nat) (b : Bool) : (s.logError k b).far = s.far := by unfold State.logError; repeat (first | rfl | split)
@[simp] theorem State.logError_markRels (s : State) (k : Nat) (b : Bool) : (s.logError k b).markRels = s.markRels := by unfold State.logError; repeat (first | rfl | split)
@[simp] theorem State.logError_joinRels (s : State) (k : Nat) (b : Bool) : (s.logError k b).joinRels = s.joinRels := by unfold State.logError; repeat (first | rfl | split)
@[simp] theorem State.logError_tlRels (s : State) (k : Nat) (b : Bool) : (s.logError k b).tlRels = s.tlRels := by unfold State.logError; repeat (first | rfl | split)
@[simp] theorem State.logError_chunkMasks (s : State) (k : Nat) (b : Bool) : (s.logError k b).chunkMasks = s.chunkMasks := by unfold State.logError; repeat (first | rfl | split)
@[simp] theorem State.logError_peerWrites (s : State) (k : Nat) (b : Bool) : (s.logError k b).peerWrites = s.peerWrites := by unfold State.logError; repeat (first | rfl | split)
@[simp] theorem State.logError_claims (s : State) (k : Nat) (b : Bool) : (s.logError k b).claims = s.claims := by unfold State.logError; repeat (first | rfl | split)
@[simp] theorem State.logError_clusters (s : State) (k : Nat) (b : Bool) : (s.logError k b).clusters = s.clusters := by unfold State.logError; repeat (first | rfl | split)
@[simp] theorem State.logError_rings (s : State) (k : Nat) (b : Bool) : (s.logError k b).rings = s.rings := by unfold State.logError; repeat (first | rfl | split)
@[simp] theorem State.logError_tlb (s : State) (k : Nat) (b : Bool) : (s.logError k b).tlb = s.tlb := by unfold State.logError; repeat (first | rfl | split)
@[simp] theorem State.logError_jobs (s : State) (k : Nat) (b : Bool) : (s.logError k b).jobs = s.jobs := by unfold State.logError; repeat (first | rfl | split)
@[simp] theorem State.logError_pkg (s : State) (k : Nat) (b : Bool) : (s.logError k b).pkg = s.pkg := by unfold State.logError; repeat (first | rfl | split)

/-! `State.notePartial` -/
@[simp] theorem State.notePartial_cur (s : State) (k n : Nat) : (s.notePartial k n).cur = s.cur := foldl_keep State.cur _ (fun _ _ => by dsimp only; split <;> simp) _ _
@[simp] theorem State.notePartial_rest (s : State) (k n : Nat) : (s.notePartial k n).rest = s.rest := foldl_keep State.rest _ (fun _ _ => by dsimp only; split <;> simp) _ _
@[simp] theorem State.notePartial_agenda (s : State) (k n : Nat) : (s.notePartial k n).agenda = s.agenda := foldl_keep State.agenda _ (fun _ _ => by dsimp only; split <;> simp) _ _
@[simp] theorem State.notePartial_gtime (s : State) (k n : Nat) : (s.notePartial k n).gtime = s.gtime := foldl_keep State.gtime _ (fun _ _ => by dsimp only; split <;> simp) _ _
@[simp] theorem State.notePartial_free (s : State) (k n : Nat) : (s.notePartial k n).free = s.free := foldl_keep State.free _ (fun _ _ => by dsimp only; split <;> simp) _ _
@[simp] theorem State.notePartial_ticket (s : State) (k n : Nat) : (s.notePartial k n).ticket = s.ticket := foldl_keep State.ticket _ (fun _ _ => by dsimp only; split <;> simp) _ _
@[simp] theorem State.notePartial_mem (s : State) (k n : Nat) : (s.notePartial k n).mem = s.mem := foldl_keep State.mem _ (fun _ _ => by dsimp only; split <;> simp) _ _
@[simp] theorem State.notePartial_keyRuns (s : State) (k n : Nat) : (s.notePartial k n).keyRuns = s.keyRuns := foldl_keep State.keyRuns _ (fun _ _ => by dsimp only; split <;> simp) _ _
@[simp] theorem State.notePartial_poison (s : State) (k n : Nat) : (s.notePartial k n).poison = s.poison := foldl_keep State.poison _ (fun _ _ => by dsimp only; split <;> simp) _ _
@[simp] theorem State.notePartial_sable (s : State) (k n : Nat) : (s.notePartial k n).sable = s.sable := foldl_keep State.sable _ (fun _ _ => by dsimp only; split <;> simp) _ _
@[simp] theorem State.notePartial_hist (s : State) (k n : Nat) : (s.notePartial k n).hist = s.hist := foldl_keep State.hist _ (fun _ _ => by dsimp only; split <;> simp) _ _
@[simp] theorem State.notePartial_nextW (s : State) (k n : Nat) : (s.notePartial k n).nextW = s.nextW := foldl_keep State.nextW _ (fun _ _ => by dsimp only; split <;> simp) _ _
@[simp] theorem State.notePartial_rels (s : State) (k n : Nat) : (s.notePartial k n).rels = s.rels := foldl_keep State.rels _ (fun _ _ => by dsimp only; split <;> simp) _ _
@[simp] theorem State.notePartial_nextRel (s : State) (k n : Nat) : (s.notePartial k n).nextRel = s.nextRel := foldl_keep State.nextRel _ (fun _ _ => by dsimp only; split <;> simp) _ _
@[simp] theorem State.notePartial_pfulls (s : State) (k n : Nat) : (s.notePartial k n).pfulls = s.pfulls := foldl_keep State.pfulls _ (fun _ _ => by dsimp only; split <;> simp) _ _
@[simp] theorem State.notePartial_lockRels (s : State) (k n : Nat) : (s.notePartial k n).lockRels = s.lockRels := foldl_keep State.lockRels _ (fun _ _ => by dsimp only; split <;> simp) _ _
@[simp] theorem State.notePartial_far (s : State) (k n : Nat) : (s.notePartial k n).far = s.far := foldl_keep State.far _ (fun _ _ => by dsimp only; split <;> simp) _ _
@[simp] theorem State.notePartial_markRels (s : State) (k n : Nat) : (s.notePartial k n).markRels = s.markRels := foldl_keep State.markRels _ (fun _ _ => by dsimp only; split <;> simp) _ _
@[simp] theorem State.notePartial_joinRels (s : State) (k n : Nat) : (s.notePartial k n).joinRels = s.joinRels := foldl_keep State.joinRels _ (fun _ _ => by dsimp only; split <;> simp) _ _
@[simp] theorem State.notePartial_tlRels (s : State) (k n : Nat) : (s.notePartial k n).tlRels = s.tlRels := foldl_keep State.tlRels _ (fun _ _ => by dsimp only; split <;> simp) _ _
@[simp] theorem State.notePartial_chunkMasks (s : State) (k n : Nat) : (s.notePartial k n).chunkMasks = s.chunkMasks := foldl_keep State.chunkMasks _ (fun _ _ => by dsimp only; split <;> simp) _ _
@[simp] theorem State.notePartial_peerWrites (s : State) (k n : Nat) : (s.notePartial k n).peerWrites = s.peerWrites := foldl_keep State.peerWrites _ (fun _ _ => by dsimp only; split <;> simp) _ _
@[simp] theorem State.notePartial_claims (s : State) (k n : Nat) : (s.notePartial k n).claims = s.claims := foldl_keep State.claims _ (fun _ _ => by dsimp only; split <;> simp) _ _
@[simp] theorem State.notePartial_clusters (s : State) (k n : Nat) : (s.notePartial k n).clusters = s.clusters := foldl_keep State.clusters _ (fun _ _ => by dsimp only; split <;> simp) _ _
@[simp] theorem State.notePartial_rings (s : State) (k n : Nat) : (s.notePartial k n).rings = s.rings := foldl_keep State.rings _ (fun _ _ => by dsimp only; split <;> simp) _ _
@[simp] theorem State.notePartial_tlb (s : State) (k n : Nat) : (s.notePartial k n).tlb = s.tlb := foldl_keep State.tlb _ (fun _ _ => by dsimp only; split <;> simp) _ _
@[simp] theorem State.notePartial_jobs (s : State) (k n : Nat) : (s.notePartial k n).jobs = s.jobs := foldl_keep State.jobs _ (fun _ _ => by dsimp only; split <;> simp) _ _
@[simp] theorem State.notePartial_pkg (s : State) (k n : Nat) : (s.notePartial k n).pkg = s.pkg := foldl_keep State.pkg _ (fun _ _ => by dsimp only; split <;> simp) _ _

/-- A write that replaces no poisoned word in part logs nothing (R174). -/
theorem State.notePartial_clean (s : State) (k n : Nat) (h : ∀ w, s.poison.get false w = true → (k ≤ 8 * w ∧ 8 * w + 8 ≤ k + n)) : s.notePartial k n = s := by
  unfold State.notePartial
  have : ∀ (l : List Nat), l.foldl (fun (a : State) i =>
    let w := k / 8 + i
    if a.poison.get false w && !decide (k ≤ 8 * w ∧ 8 * w + 8 ≤ k + n) then a.logError (8 * w) true else a) s = s := by
    intro l
    induction l with
    | nil => rfl
    | cons i l ih =>
      rw [List.foldl_cons]
      have hb : (s.poison.get false (k / 8 + i) && !decide (k ≤ 8 * (k / 8 + i) ∧ 8 * (k / 8 + i) + 8 ≤ k + n)) = false := by
        cases hp : s.poison.get false (k / 8 + i)
        · rfl
        · simp [h _ hp]
      simp only [hb]
      exact ih
  exact this _

/-! `State.writeHome` -/
@[simp] theorem State.writeHome_cur (s : State) (a k l m u : Nat) (r : List Nat) (b : Option Nat) (j : Bool) : (s.writeHome a k l m u r b j).cur = s.cur := by simp [State.writeHome]
@[simp] theorem State.writeHome_rest (s : State) (a k l m u : Nat) (r : List Nat) (b : Option Nat) (j : Bool) : (s.writeHome a k l m u r b j).rest = s.rest := by simp [State.writeHome]
@[simp] theorem State.writeHome_agenda (s : State) (a k l m u : Nat) (r : List Nat) (b : Option Nat) (j : Bool) : (s.writeHome a k l m u r b j).agenda = s.agenda := by simp [State.writeHome]
@[simp] theorem State.writeHome_gtime (s : State) (a k l m u : Nat) (r : List Nat) (b : Option Nat) (j : Bool) : (s.writeHome a k l m u r b j).gtime = s.gtime := by simp [State.writeHome]
@[simp] theorem State.writeHome_free (s : State) (a k l m u : Nat) (r : List Nat) (b : Option Nat) (j : Bool) : (s.writeHome a k l m u r b j).free = s.free := by simp [State.writeHome]
@[simp] theorem State.writeHome_ticket (s : State) (a k l m u : Nat) (r : List Nat) (b : Option Nat) (j : Bool) : (s.writeHome a k l m u r b j).ticket = s.ticket := by simp [State.writeHome]
@[simp] theorem State.writeHome_sable (s : State) (a k l m u : Nat) (r : List Nat) (b : Option Nat) (j : Bool) : (s.writeHome a k l m u r b j).sable = s.sable := by simp [State.writeHome]
@[simp] theorem State.writeHome_rels (s : State) (a k l m u : Nat) (r : List Nat) (b : Option Nat) (j : Bool) : (s.writeHome a k l m u r b j).rels = s.rels := by simp [State.writeHome]
@[simp] theorem State.writeHome_nextRel (s : State) (a k l m u : Nat) (r : List Nat) (b : Option Nat) (j : Bool) : (s.writeHome a k l m u r b j).nextRel = s.nextRel := by simp [State.writeHome]
@[simp] theorem State.writeHome_pfulls (s : State) (a k l m u : Nat) (r : List Nat) (b : Option Nat) (j : Bool) : (s.writeHome a k l m u r b j).pfulls = s.pfulls := by simp [State.writeHome]
@[simp] theorem State.writeHome_lockRels (s : State) (a k l m u : Nat) (r : List Nat) (b : Option Nat) (j : Bool) : (s.writeHome a k l m u r b j).lockRels = s.lockRels := by simp [State.writeHome]
@[simp] theorem State.writeHome_far (s : State) (a k l m u : Nat) (r : List Nat) (b : Option Nat) (j : Bool) : (s.writeHome a k l m u r b j).far = s.far := by simp [State.writeHome]
@[simp] theorem State.writeHome_markRels (s : State) (a k l m u : Nat) (r : List Nat) (b : Option Nat) (j : Bool) : (s.writeHome a k l m u r b j).markRels = s.markRels := by simp [State.writeHome]
@[simp] theorem State.writeHome_joinRels (s : State) (a k l m u : Nat) (r : List Nat) (b : Option Nat) (j : Bool) : (s.writeHome a k l m u r b j).joinRels = s.joinRels := by simp [State.writeHome]
@[simp] theorem State.writeHome_tlRels (s : State) (a k l m u : Nat) (r : List Nat) (b : Option Nat) (j : Bool) : (s.writeHome a k l m u r b j).tlRels = s.tlRels := by simp [State.writeHome]
@[simp] theorem State.writeHome_chunkMasks (s : State) (a k l m u : Nat) (r : List Nat) (b : Option Nat) (j : Bool) : (s.writeHome a k l m u r b j).chunkMasks = s.chunkMasks := by simp [State.writeHome]
@[simp] theorem State.writeHome_peerWrites (s : State) (a k l m u : Nat) (r : List Nat) (b : Option Nat) (j : Bool) : (s.writeHome a k l m u r b j).peerWrites = s.peerWrites := by simp [State.writeHome]
@[simp] theorem State.writeHome_claims (s : State) (a k l m u : Nat) (r : List Nat) (b : Option Nat) (j : Bool) : (s.writeHome a k l m u r b j).claims = s.claims := by simp [State.writeHome]
@[simp] theorem State.writeHome_clusters (s : State) (a k l m u : Nat) (r : List Nat) (b : Option Nat) (j : Bool) : (s.writeHome a k l m u r b j).clusters = s.clusters := by simp [State.writeHome]
@[simp] theorem State.writeHome_rings (s : State) (a k l m u : Nat) (r : List Nat) (b : Option Nat) (j : Bool) : (s.writeHome a k l m u r b j).rings = s.rings := by simp [State.writeHome]
@[simp] theorem State.writeHome_tlb (s : State) (a k l m u : Nat) (r : List Nat) (b : Option Nat) (j : Bool) : (s.writeHome a k l m u r b j).tlb = s.tlb := by simp [State.writeHome]
@[simp] theorem State.writeHome_jobs (s : State) (a k l m u : Nat) (r : List Nat) (b : Option Nat) (j : Bool) : (s.writeHome a k l m u r b j).jobs = s.jobs := by simp [State.writeHome]
@[simp] theorem State.writeHome_pkg (s : State) (a k l m u : Nat) (r : List Nat) (b : Option Nat) (j : Bool) : (s.writeHome a k l m u r b j).pkg = s.pkg := by simp [State.writeHome]

/-! `State.homeWrite` -/
@[simp] theorem State.homeWrite_cur (s : State) (a k l m : Nat) (f : Option Nat) : (s.homeWrite a k l m f).cur = s.cur := State.writeHome_cur ..
@[simp] theorem State.homeWrite_rest (s : State) (a k l m : Nat) (f : Option Nat) : (s.homeWrite a k l m f).rest = s.rest := State.writeHome_rest ..
@[simp] theorem State.homeWrite_agenda (s : State) (a k l m : Nat) (f : Option Nat) : (s.homeWrite a k l m f).agenda = s.agenda := State.writeHome_agenda ..
@[simp] theorem State.homeWrite_gtime (s : State) (a k l m : Nat) (f : Option Nat) : (s.homeWrite a k l m f).gtime = s.gtime := State.writeHome_gtime ..
@[simp] theorem State.homeWrite_free (s : State) (a k l m : Nat) (f : Option Nat) : (s.homeWrite a k l m f).free = s.free := State.writeHome_free ..
@[simp] theorem State.homeWrite_ticket (s : State) (a k l m : Nat) (f : Option Nat) : (s.homeWrite a k l m f).ticket = s.ticket := State.writeHome_ticket ..
@[simp] theorem State.homeWrite_sable (s : State) (a k l m : Nat) (f : Option Nat) : (s.homeWrite a k l m f).sable = s.sable := State.writeHome_sable ..
@[simp] theorem State.homeWrite_rels (s : State) (a k l m : Nat) (f : Option Nat) : (s.homeWrite a k l m f).rels = s.rels := State.writeHome_rels ..
@[simp] theorem State.homeWrite_nextRel (s : State) (a k l m : Nat) (f : Option Nat) : (s.homeWrite a k l m f).nextRel = s.nextRel := State.writeHome_nextRel ..
@[simp] theorem State.homeWrite_pfulls (s : State) (a k l m : Nat) (f : Option Nat) : (s.homeWrite a k l m f).pfulls = s.pfulls := State.writeHome_pfulls ..
@[simp] theorem State.homeWrite_lockRels (s : State) (a k l m : Nat) (f : Option Nat) : (s.homeWrite a k l m f).lockRels = s.lockRels := State.writeHome_lockRels ..
@[simp] theorem State.homeWrite_far (s : State) (a k l m : Nat) (f : Option Nat) : (s.homeWrite a k l m f).far = s.far := State.writeHome_far ..
@[simp] theorem State.homeWrite_markRels (s : State) (a k l m : Nat) (f : Option Nat) : (s.homeWrite a k l m f).markRels = s.markRels := State.writeHome_markRels ..
@[simp] theorem State.homeWrite_joinRels (s : State) (a k l m : Nat) (f : Option Nat) : (s.homeWrite a k l m f).joinRels = s.joinRels := State.writeHome_joinRels ..
@[simp] theorem State.homeWrite_tlRels (s : State) (a k l m : Nat) (f : Option Nat) : (s.homeWrite a k l m f).tlRels = s.tlRels := State.writeHome_tlRels ..
@[simp] theorem State.homeWrite_chunkMasks (s : State) (a k l m : Nat) (f : Option Nat) : (s.homeWrite a k l m f).chunkMasks = s.chunkMasks := State.writeHome_chunkMasks ..
@[simp] theorem State.homeWrite_peerWrites (s : State) (a k l m : Nat) (f : Option Nat) : (s.homeWrite a k l m f).peerWrites = s.peerWrites := State.writeHome_peerWrites ..
@[simp] theorem State.homeWrite_claims (s : State) (a k l m : Nat) (f : Option Nat) : (s.homeWrite a k l m f).claims = s.claims := State.writeHome_claims ..
@[simp] theorem State.homeWrite_clusters (s : State) (a k l m : Nat) (f : Option Nat) : (s.homeWrite a k l m f).clusters = s.clusters := State.writeHome_clusters ..
@[simp] theorem State.homeWrite_rings (s : State) (a k l m : Nat) (f : Option Nat) : (s.homeWrite a k l m f).rings = s.rings := State.writeHome_rings ..
@[simp] theorem State.homeWrite_tlb (s : State) (a k l m : Nat) (f : Option Nat) : (s.homeWrite a k l m f).tlb = s.tlb := State.writeHome_tlb ..
@[simp] theorem State.homeWrite_jobs (s : State) (a k l m : Nat) (f : Option Nat) : (s.homeWrite a k l m f).jobs = s.jobs := State.writeHome_jobs ..
@[simp] theorem State.homeWrite_pkg (s : State) (a k l m : Nat) (f : Option Nat) : (s.homeWrite a k l m f).pkg = s.pkg := State.writeHome_pkg ..

@[simp] theorem State.onCur_cur (s : State) (f : Strand → Strand) : (s.onCur f).cur = f s.cur := rfl
@[simp] theorem State.onPkg_pkg (s : State) (f : Pkg → Pkg) : (s.onPkg f).pkg = f s.pkg := rfl
@[simp] theorem State.mapStrands_cur (s : State) (f : Strand → Strand) : (s.mapStrands f).cur = f s.cur := rfl

/-! `Strand.setV` -/
@[simp] theorem Strand.setV_uid (t : Strand) (r : BitVec 5) (v : VReg) : (t.setV r v).uid = t.uid := rfl
@[simp] theorem Strand.setV_sid (t : Strand) (r : BitVec 5) (v : VReg) : (t.setV r v).sid = t.sid := rfl
@[simp] theorem Strand.setV_pc (t : Strand) (r : BitVec 5) (v : VReg) : (t.setV r v).pc = t.pc := rfl
@[simp] theorem Strand.setV_loops (t : Strand) (r : BitVec 5) (v : VReg) : (t.setV r v).loops = t.loops := rfl
@[simp] theorem Strand.setV_sregs (t : Strand) (r : BitVec 5) (v : VReg) : (t.setV r v).sregs = t.sregs := rfl
@[simp] theorem Strand.setV_full (t : Strand) (r : BitVec 5) (v : VReg) : (t.setV r v).full = t.full := rfl
@[simp] theorem Strand.setV_marks (t : Strand) (r : BitVec 5) (v : VReg) : (t.setV r v).marks = t.marks := rfl
@[simp] theorem Strand.setV_streams (t : Strand) (r : BitVec 5) (v : VReg) : (t.setV r v).streams = t.streams := rfl
@[simp] theorem Strand.setV_kregs (t : Strand) (r : BitVec 5) (v : VReg) : (t.setV r v).kregs = t.kregs := rfl
@[simp] theorem Strand.setV_hregs (t : Strand) (r : BitVec 5) (v : VReg) : (t.setV r v).hregs = t.hregs := rfl
@[simp] theorem Strand.setV_bregs (t : Strand) (r : BitVec 5) (v : VReg) : (t.setV r v).bregs = t.bregs := rfl
@[simp] theorem Strand.setV_gregs (t : Strand) (r : BitVec 5) (v : VReg) : (t.setV r v).gregs = t.gregs := rfl
@[simp] theorem Strand.setV_wregs (t : Strand) (r : BitVec 5) (v : VReg) : (t.setV r v).wregs = t.wregs := rfl
@[simp] theorem Strand.setV_dlDef (t : Strand) (r : BitVec 5) (v : VReg) : (t.setV r v).dlDef = t.dlDef := rfl
@[simp] theorem Strand.setV_dlMax (t : Strand) (r : BitVec 5) (v : VReg) : (t.setV r v).dlMax = t.dlMax := rfl
@[simp] theorem Strand.setV_wst (t : Strand) (r : BitVec 5) (v : VReg) : (t.setV r v).wst = t.wst := rfl
@[simp] theorem Strand.setV_wabs (t : Strand) (r : BitVec 5) (v : VReg) : (t.setV r v).wabs = t.wabs := rfl
@[simp] theorem Strand.setV_fetrap (t : Strand) (r : BitVec 5) (v : VReg) : (t.setV r v).fetrap = t.fetrap := rfl
@[simp] theorem Strand.setV_lvc (t : Strand) (r : BitVec 5) (v : VReg) : (t.setV r v).lvc = t.lvc := rfl
@[simp] theorem Strand.setV_job (t : Strand) (r : BitVec 5) (v : VReg) : (t.setV r v).job = t.job := rfl
@[simp] theorem Strand.setV_vty (t : Strand) (r : BitVec 5) (v : VReg) : (t.setV r v).vty = t.vty := rfl
@[simp] theorem Strand.setV_grant (t : Strand) (r : BitVec 5) (v : VReg) : (t.setV r v).grant = t.grant := rfl
@[simp] theorem Strand.setV_vslip (t : Strand) (r : BitVec 5) (v : VReg) : (t.setV r v).vslip = t.vslip := rfl
@[simp] theorem Strand.setV_ffx (t : Strand) (r : BitVec 5) (v : VReg) : (t.setV r v).ffx = t.ffx := rfl
@[simp] theorem Strand.setV_efr (t : Strand) (r : BitVec 5) (v : VReg) : (t.setV r v).efr = t.efr := rfl
@[simp] theorem Strand.setV_frm (t : Strand) (r : BitVec 5) (v : VReg) : (t.setV r v).frm = t.frm := rfl
@[simp] theorem Strand.setV_fflags (t : Strand) (r : BitVec 5) (v : VReg) : (t.setV r v).fflags = t.fflags := rfl
@[simp] theorem Strand.setV_acw (t : Strand) (r : BitVec 5) (v : VReg) : (t.setV r v).acw = t.acw := rfl
@[simp] theorem Strand.setV_tbud (t : Strand) (r : BitVec 5) (v : VReg) : (t.setV r v).tbud = t.tbud := rfl
@[simp] theorem Strand.setV_tcap (t : Strand) (r : BitVec 5) (v : VReg) : (t.setV r v).tcap = t.tcap := rfl
@[simp] theorem Strand.setV_trec (t : Strand) (r : BitVec 5) (v : VReg) : (t.setV r v).trec = t.trec := rfl
@[simp] theorem Strand.setV_maint (t : Strand) (r : BitVec 5) (v : VReg) : (t.setV r v).maint = t.maint := rfl
@[simp] theorem Strand.setV_mlease (t : Strand) (r : BitVec 5) (v : VReg) : (t.setV r v).mlease = t.mlease := rfl
@[simp] theorem Strand.setV_wait (t : Strand) (r : BitVec 5) (v : VReg) : (t.setV r v).wait = t.wait := rfl
@[simp] theorem Strand.setV_run (t : Strand) (r : BitVec 5) (v : VReg) : (t.setV r v).run = t.run := rfl
@[simp] theorem Strand.setV_away (t : Strand) (r : BitVec 5) (v : VReg) : (t.setV r v).away = t.away := rfl
@[simp] theorem Strand.setV_window (t : Strand) (r : BitVec 5) (v : VReg) : (t.setV r v).window = t.window := rfl
@[simp] theorem Strand.setV_guards (t : Strand) (r : BitVec 5) (v : VReg) : (t.setV r v).guards = t.guards := rfl
@[simp] theorem Strand.setV_locks (t : Strand) (r : BitVec 5) (v : VReg) : (t.setV r v).locks = t.locks := rfl
@[simp] theorem Strand.setV_pend (t : Strand) (r : BitVec 5) (v : VReg) : (t.setV r v).pend = t.pend := rfl
@[simp] theorem Strand.setV_hb (t : Strand) (r : BitVec 5) (v : VReg) : (t.setV r v).hb = t.hb := rfl
@[simp] theorem Strand.setV_obs (t : Strand) (r : BitVec 5) (v : VReg) : (t.setV r v).obs = t.obs := rfl
@[simp] theorem Strand.setV_buf (t : Strand) (r : BitVec 5) (v : VReg) : (t.setV r v).buf = t.buf := rfl
@[simp] theorem Strand.setV_out (t : Strand) (r : BitVec 5) (v : VReg) : (t.setV r v).out = t.out := rfl
@[simp] theorem Strand.setV_vq (t : Strand) (r : BitVec 5) (v : VReg) : (t.setV r v).vq = t.vq := rfl
@[simp] theorem Strand.setV_pre (t : Strand) (r : BitVec 5) (v : VReg) : (t.setV r v).pre = t.pre := rfl
@[simp] theorem Strand.setV_preAge (t : Strand) (r : BitVec 5) (v : VReg) : (t.setV r v).preAge = t.preAge := rfl
@[simp] theorem Strand.setV_task (t : Strand) (r : BitVec 5) (v : VReg) : (t.setV r v).task = t.task := rfl
@[simp] theorem Strand.setV_brkDone (t : Strand) (r : BitVec 5) (v : VReg) : (t.setV r v).brkDone = t.brkDone := rfl
@[simp] theorem Strand.setV_starting (t : Strand) (r : BitVec 5) (v : VReg) : (t.setV r v).starting = t.starting := rfl
@[simp] theorem Strand.setV_vamoTodo (t : Strand) (r : BitVec 5) (v : VReg) : (t.setV r v).vamoTodo = t.vamoTodo := rfl
@[simp] theorem Strand.setV_replies (t : Strand) (r : BitVec 5) (v : VReg) : (t.setV r v).replies = t.replies := rfl

/-! `Strand.setK` -/
@[simp] theorem Strand.setK_uid (t : Strand) (r : BitVec 5) (v : KReg) : (t.setK r v).uid = t.uid := rfl
@[simp] theorem Strand.setK_sid (t : Strand) (r : BitVec 5) (v : KReg) : (t.setK r v).sid = t.sid := rfl
@[simp] theorem Strand.setK_pc (t : Strand) (r : BitVec 5) (v : KReg) : (t.setK r v).pc = t.pc := rfl
@[simp] theorem Strand.setK_loops (t : Strand) (r : BitVec 5) (v : KReg) : (t.setK r v).loops = t.loops := rfl
@[simp] theorem Strand.setK_sregs (t : Strand) (r : BitVec 5) (v : KReg) : (t.setK r v).sregs = t.sregs := rfl
@[simp] theorem Strand.setK_full (t : Strand) (r : BitVec 5) (v : KReg) : (t.setK r v).full = t.full := rfl
@[simp] theorem Strand.setK_marks (t : Strand) (r : BitVec 5) (v : KReg) : (t.setK r v).marks = t.marks := rfl
@[simp] theorem Strand.setK_vregs (t : Strand) (r : BitVec 5) (v : KReg) : (t.setK r v).vregs = t.vregs := rfl
@[simp] theorem Strand.setK_streams (t : Strand) (r : BitVec 5) (v : KReg) : (t.setK r v).streams = t.streams := rfl
@[simp] theorem Strand.setK_hregs (t : Strand) (r : BitVec 5) (v : KReg) : (t.setK r v).hregs = t.hregs := rfl
@[simp] theorem Strand.setK_bregs (t : Strand) (r : BitVec 5) (v : KReg) : (t.setK r v).bregs = t.bregs := rfl
@[simp] theorem Strand.setK_gregs (t : Strand) (r : BitVec 5) (v : KReg) : (t.setK r v).gregs = t.gregs := rfl
@[simp] theorem Strand.setK_wregs (t : Strand) (r : BitVec 5) (v : KReg) : (t.setK r v).wregs = t.wregs := rfl
@[simp] theorem Strand.setK_dlDef (t : Strand) (r : BitVec 5) (v : KReg) : (t.setK r v).dlDef = t.dlDef := rfl
@[simp] theorem Strand.setK_dlMax (t : Strand) (r : BitVec 5) (v : KReg) : (t.setK r v).dlMax = t.dlMax := rfl
@[simp] theorem Strand.setK_wst (t : Strand) (r : BitVec 5) (v : KReg) : (t.setK r v).wst = t.wst := rfl
@[simp] theorem Strand.setK_wabs (t : Strand) (r : BitVec 5) (v : KReg) : (t.setK r v).wabs = t.wabs := rfl
@[simp] theorem Strand.setK_fetrap (t : Strand) (r : BitVec 5) (v : KReg) : (t.setK r v).fetrap = t.fetrap := rfl
@[simp] theorem Strand.setK_lvc (t : Strand) (r : BitVec 5) (v : KReg) : (t.setK r v).lvc = t.lvc := rfl
@[simp] theorem Strand.setK_job (t : Strand) (r : BitVec 5) (v : KReg) : (t.setK r v).job = t.job := rfl
@[simp] theorem Strand.setK_vty (t : Strand) (r : BitVec 5) (v : KReg) : (t.setK r v).vty = t.vty := rfl
@[simp] theorem Strand.setK_grant (t : Strand) (r : BitVec 5) (v : KReg) : (t.setK r v).grant = t.grant := rfl
@[simp] theorem Strand.setK_vslip (t : Strand) (r : BitVec 5) (v : KReg) : (t.setK r v).vslip = t.vslip := rfl
@[simp] theorem Strand.setK_ffx (t : Strand) (r : BitVec 5) (v : KReg) : (t.setK r v).ffx = t.ffx := rfl
@[simp] theorem Strand.setK_efr (t : Strand) (r : BitVec 5) (v : KReg) : (t.setK r v).efr = t.efr := rfl
@[simp] theorem Strand.setK_frm (t : Strand) (r : BitVec 5) (v : KReg) : (t.setK r v).frm = t.frm := rfl
@[simp] theorem Strand.setK_fflags (t : Strand) (r : BitVec 5) (v : KReg) : (t.setK r v).fflags = t.fflags := rfl
@[simp] theorem Strand.setK_acw (t : Strand) (r : BitVec 5) (v : KReg) : (t.setK r v).acw = t.acw := rfl
@[simp] theorem Strand.setK_tbud (t : Strand) (r : BitVec 5) (v : KReg) : (t.setK r v).tbud = t.tbud := rfl
@[simp] theorem Strand.setK_tcap (t : Strand) (r : BitVec 5) (v : KReg) : (t.setK r v).tcap = t.tcap := rfl
@[simp] theorem Strand.setK_trec (t : Strand) (r : BitVec 5) (v : KReg) : (t.setK r v).trec = t.trec := rfl
@[simp] theorem Strand.setK_maint (t : Strand) (r : BitVec 5) (v : KReg) : (t.setK r v).maint = t.maint := rfl
@[simp] theorem Strand.setK_mlease (t : Strand) (r : BitVec 5) (v : KReg) : (t.setK r v).mlease = t.mlease := rfl
@[simp] theorem Strand.setK_wait (t : Strand) (r : BitVec 5) (v : KReg) : (t.setK r v).wait = t.wait := rfl
@[simp] theorem Strand.setK_run (t : Strand) (r : BitVec 5) (v : KReg) : (t.setK r v).run = t.run := rfl
@[simp] theorem Strand.setK_away (t : Strand) (r : BitVec 5) (v : KReg) : (t.setK r v).away = t.away := rfl
@[simp] theorem Strand.setK_window (t : Strand) (r : BitVec 5) (v : KReg) : (t.setK r v).window = t.window := rfl
@[simp] theorem Strand.setK_guards (t : Strand) (r : BitVec 5) (v : KReg) : (t.setK r v).guards = t.guards := rfl
@[simp] theorem Strand.setK_locks (t : Strand) (r : BitVec 5) (v : KReg) : (t.setK r v).locks = t.locks := rfl
@[simp] theorem Strand.setK_pend (t : Strand) (r : BitVec 5) (v : KReg) : (t.setK r v).pend = t.pend := rfl
@[simp] theorem Strand.setK_hb (t : Strand) (r : BitVec 5) (v : KReg) : (t.setK r v).hb = t.hb := rfl
@[simp] theorem Strand.setK_obs (t : Strand) (r : BitVec 5) (v : KReg) : (t.setK r v).obs = t.obs := rfl
@[simp] theorem Strand.setK_buf (t : Strand) (r : BitVec 5) (v : KReg) : (t.setK r v).buf = t.buf := rfl
@[simp] theorem Strand.setK_out (t : Strand) (r : BitVec 5) (v : KReg) : (t.setK r v).out = t.out := rfl
@[simp] theorem Strand.setK_vq (t : Strand) (r : BitVec 5) (v : KReg) : (t.setK r v).vq = t.vq := rfl
@[simp] theorem Strand.setK_pre (t : Strand) (r : BitVec 5) (v : KReg) : (t.setK r v).pre = t.pre := rfl
@[simp] theorem Strand.setK_preAge (t : Strand) (r : BitVec 5) (v : KReg) : (t.setK r v).preAge = t.preAge := rfl
@[simp] theorem Strand.setK_task (t : Strand) (r : BitVec 5) (v : KReg) : (t.setK r v).task = t.task := rfl
@[simp] theorem Strand.setK_brkDone (t : Strand) (r : BitVec 5) (v : KReg) : (t.setK r v).brkDone = t.brkDone := rfl
@[simp] theorem Strand.setK_starting (t : Strand) (r : BitVec 5) (v : KReg) : (t.setK r v).starting = t.starting := rfl
@[simp] theorem Strand.setK_vamoTodo (t : Strand) (r : BitVec 5) (v : KReg) : (t.setK r v).vamoTodo = t.vamoTodo := rfl
@[simp] theorem Strand.setK_replies (t : Strand) (r : BitVec 5) (v : KReg) : (t.setK r v).replies = t.replies := rfl

/-! `Strand.setH` -/
@[simp] theorem Strand.setH_uid (t : Strand) (r : BitVec 5) (v : Option (BitVec 32)) : (t.setH r v).uid = t.uid := rfl
@[simp] theorem Strand.setH_sid (t : Strand) (r : BitVec 5) (v : Option (BitVec 32)) : (t.setH r v).sid = t.sid := rfl
@[simp] theorem Strand.setH_pc (t : Strand) (r : BitVec 5) (v : Option (BitVec 32)) : (t.setH r v).pc = t.pc := rfl
@[simp] theorem Strand.setH_loops (t : Strand) (r : BitVec 5) (v : Option (BitVec 32)) : (t.setH r v).loops = t.loops := rfl
@[simp] theorem Strand.setH_sregs (t : Strand) (r : BitVec 5) (v : Option (BitVec 32)) : (t.setH r v).sregs = t.sregs := rfl
@[simp] theorem Strand.setH_full (t : Strand) (r : BitVec 5) (v : Option (BitVec 32)) : (t.setH r v).full = t.full := rfl
@[simp] theorem Strand.setH_marks (t : Strand) (r : BitVec 5) (v : Option (BitVec 32)) : (t.setH r v).marks = t.marks := rfl
@[simp] theorem Strand.setH_vregs (t : Strand) (r : BitVec 5) (v : Option (BitVec 32)) : (t.setH r v).vregs = t.vregs := rfl
@[simp] theorem Strand.setH_streams (t : Strand) (r : BitVec 5) (v : Option (BitVec 32)) : (t.setH r v).streams = t.streams := rfl
@[simp] theorem Strand.setH_kregs (t : Strand) (r : BitVec 5) (v : Option (BitVec 32)) : (t.setH r v).kregs = t.kregs := rfl
@[simp] theorem Strand.setH_bregs (t : Strand) (r : BitVec 5) (v : Option (BitVec 32)) : (t.setH r v).bregs = t.bregs := rfl
@[simp] theorem Strand.setH_gregs (t : Strand) (r : BitVec 5) (v : Option (BitVec 32)) : (t.setH r v).gregs = t.gregs := rfl
@[simp] theorem Strand.setH_wregs (t : Strand) (r : BitVec 5) (v : Option (BitVec 32)) : (t.setH r v).wregs = t.wregs := rfl
@[simp] theorem Strand.setH_dlDef (t : Strand) (r : BitVec 5) (v : Option (BitVec 32)) : (t.setH r v).dlDef = t.dlDef := rfl
@[simp] theorem Strand.setH_dlMax (t : Strand) (r : BitVec 5) (v : Option (BitVec 32)) : (t.setH r v).dlMax = t.dlMax := rfl
@[simp] theorem Strand.setH_wst (t : Strand) (r : BitVec 5) (v : Option (BitVec 32)) : (t.setH r v).wst = t.wst := rfl
@[simp] theorem Strand.setH_wabs (t : Strand) (r : BitVec 5) (v : Option (BitVec 32)) : (t.setH r v).wabs = t.wabs := rfl
@[simp] theorem Strand.setH_fetrap (t : Strand) (r : BitVec 5) (v : Option (BitVec 32)) : (t.setH r v).fetrap = t.fetrap := rfl
@[simp] theorem Strand.setH_lvc (t : Strand) (r : BitVec 5) (v : Option (BitVec 32)) : (t.setH r v).lvc = t.lvc := rfl
@[simp] theorem Strand.setH_job (t : Strand) (r : BitVec 5) (v : Option (BitVec 32)) : (t.setH r v).job = t.job := rfl
@[simp] theorem Strand.setH_vty (t : Strand) (r : BitVec 5) (v : Option (BitVec 32)) : (t.setH r v).vty = t.vty := rfl
@[simp] theorem Strand.setH_grant (t : Strand) (r : BitVec 5) (v : Option (BitVec 32)) : (t.setH r v).grant = t.grant := rfl
@[simp] theorem Strand.setH_vslip (t : Strand) (r : BitVec 5) (v : Option (BitVec 32)) : (t.setH r v).vslip = t.vslip := rfl
@[simp] theorem Strand.setH_ffx (t : Strand) (r : BitVec 5) (v : Option (BitVec 32)) : (t.setH r v).ffx = t.ffx := rfl
@[simp] theorem Strand.setH_efr (t : Strand) (r : BitVec 5) (v : Option (BitVec 32)) : (t.setH r v).efr = t.efr := rfl
@[simp] theorem Strand.setH_frm (t : Strand) (r : BitVec 5) (v : Option (BitVec 32)) : (t.setH r v).frm = t.frm := rfl
@[simp] theorem Strand.setH_fflags (t : Strand) (r : BitVec 5) (v : Option (BitVec 32)) : (t.setH r v).fflags = t.fflags := rfl
@[simp] theorem Strand.setH_acw (t : Strand) (r : BitVec 5) (v : Option (BitVec 32)) : (t.setH r v).acw = t.acw := rfl
@[simp] theorem Strand.setH_tbud (t : Strand) (r : BitVec 5) (v : Option (BitVec 32)) : (t.setH r v).tbud = t.tbud := rfl
@[simp] theorem Strand.setH_tcap (t : Strand) (r : BitVec 5) (v : Option (BitVec 32)) : (t.setH r v).tcap = t.tcap := rfl
@[simp] theorem Strand.setH_trec (t : Strand) (r : BitVec 5) (v : Option (BitVec 32)) : (t.setH r v).trec = t.trec := rfl
@[simp] theorem Strand.setH_maint (t : Strand) (r : BitVec 5) (v : Option (BitVec 32)) : (t.setH r v).maint = t.maint := rfl
@[simp] theorem Strand.setH_mlease (t : Strand) (r : BitVec 5) (v : Option (BitVec 32)) : (t.setH r v).mlease = t.mlease := rfl
@[simp] theorem Strand.setH_wait (t : Strand) (r : BitVec 5) (v : Option (BitVec 32)) : (t.setH r v).wait = t.wait := rfl
@[simp] theorem Strand.setH_run (t : Strand) (r : BitVec 5) (v : Option (BitVec 32)) : (t.setH r v).run = t.run := rfl
@[simp] theorem Strand.setH_away (t : Strand) (r : BitVec 5) (v : Option (BitVec 32)) : (t.setH r v).away = t.away := rfl
@[simp] theorem Strand.setH_window (t : Strand) (r : BitVec 5) (v : Option (BitVec 32)) : (t.setH r v).window = t.window := rfl
@[simp] theorem Strand.setH_guards (t : Strand) (r : BitVec 5) (v : Option (BitVec 32)) : (t.setH r v).guards = t.guards := rfl
@[simp] theorem Strand.setH_locks (t : Strand) (r : BitVec 5) (v : Option (BitVec 32)) : (t.setH r v).locks = t.locks := rfl
@[simp] theorem Strand.setH_pend (t : Strand) (r : BitVec 5) (v : Option (BitVec 32)) : (t.setH r v).pend = t.pend := rfl
@[simp] theorem Strand.setH_hb (t : Strand) (r : BitVec 5) (v : Option (BitVec 32)) : (t.setH r v).hb = t.hb := rfl
@[simp] theorem Strand.setH_obs (t : Strand) (r : BitVec 5) (v : Option (BitVec 32)) : (t.setH r v).obs = t.obs := rfl
@[simp] theorem Strand.setH_buf (t : Strand) (r : BitVec 5) (v : Option (BitVec 32)) : (t.setH r v).buf = t.buf := rfl
@[simp] theorem Strand.setH_out (t : Strand) (r : BitVec 5) (v : Option (BitVec 32)) : (t.setH r v).out = t.out := rfl
@[simp] theorem Strand.setH_vq (t : Strand) (r : BitVec 5) (v : Option (BitVec 32)) : (t.setH r v).vq = t.vq := rfl
@[simp] theorem Strand.setH_pre (t : Strand) (r : BitVec 5) (v : Option (BitVec 32)) : (t.setH r v).pre = t.pre := rfl
@[simp] theorem Strand.setH_preAge (t : Strand) (r : BitVec 5) (v : Option (BitVec 32)) : (t.setH r v).preAge = t.preAge := rfl
@[simp] theorem Strand.setH_task (t : Strand) (r : BitVec 5) (v : Option (BitVec 32)) : (t.setH r v).task = t.task := rfl
@[simp] theorem Strand.setH_brkDone (t : Strand) (r : BitVec 5) (v : Option (BitVec 32)) : (t.setH r v).brkDone = t.brkDone := rfl
@[simp] theorem Strand.setH_starting (t : Strand) (r : BitVec 5) (v : Option (BitVec 32)) : (t.setH r v).starting = t.starting := rfl
@[simp] theorem Strand.setH_vamoTodo (t : Strand) (r : BitVec 5) (v : Option (BitVec 32)) : (t.setH r v).vamoTodo = t.vamoTodo := rfl
@[simp] theorem Strand.setH_replies (t : Strand) (r : BitVec 5) (v : Option (BitVec 32)) : (t.setH r v).replies = t.replies := rfl

/-! `Strand.setB` -/
@[simp] theorem Strand.setB_uid (t : Strand) (r : BitVec 5) (v : Option BReg) : (t.setB r v).uid = t.uid := rfl
@[simp] theorem Strand.setB_sid (t : Strand) (r : BitVec 5) (v : Option BReg) : (t.setB r v).sid = t.sid := rfl
@[simp] theorem Strand.setB_pc (t : Strand) (r : BitVec 5) (v : Option BReg) : (t.setB r v).pc = t.pc := rfl
@[simp] theorem Strand.setB_loops (t : Strand) (r : BitVec 5) (v : Option BReg) : (t.setB r v).loops = t.loops := rfl
@[simp] theorem Strand.setB_sregs (t : Strand) (r : BitVec 5) (v : Option BReg) : (t.setB r v).sregs = t.sregs := rfl
@[simp] theorem Strand.setB_full (t : Strand) (r : BitVec 5) (v : Option BReg) : (t.setB r v).full = t.full := rfl
@[simp] theorem Strand.setB_marks (t : Strand) (r : BitVec 5) (v : Option BReg) : (t.setB r v).marks = t.marks := rfl
@[simp] theorem Strand.setB_vregs (t : Strand) (r : BitVec 5) (v : Option BReg) : (t.setB r v).vregs = t.vregs := rfl
@[simp] theorem Strand.setB_streams (t : Strand) (r : BitVec 5) (v : Option BReg) : (t.setB r v).streams = t.streams := rfl
@[simp] theorem Strand.setB_kregs (t : Strand) (r : BitVec 5) (v : Option BReg) : (t.setB r v).kregs = t.kregs := rfl
@[simp] theorem Strand.setB_hregs (t : Strand) (r : BitVec 5) (v : Option BReg) : (t.setB r v).hregs = t.hregs := rfl
@[simp] theorem Strand.setB_gregs (t : Strand) (r : BitVec 5) (v : Option BReg) : (t.setB r v).gregs = t.gregs := rfl
@[simp] theorem Strand.setB_wregs (t : Strand) (r : BitVec 5) (v : Option BReg) : (t.setB r v).wregs = t.wregs := rfl
@[simp] theorem Strand.setB_dlDef (t : Strand) (r : BitVec 5) (v : Option BReg) : (t.setB r v).dlDef = t.dlDef := rfl
@[simp] theorem Strand.setB_dlMax (t : Strand) (r : BitVec 5) (v : Option BReg) : (t.setB r v).dlMax = t.dlMax := rfl
@[simp] theorem Strand.setB_wst (t : Strand) (r : BitVec 5) (v : Option BReg) : (t.setB r v).wst = t.wst := rfl
@[simp] theorem Strand.setB_wabs (t : Strand) (r : BitVec 5) (v : Option BReg) : (t.setB r v).wabs = t.wabs := rfl
@[simp] theorem Strand.setB_fetrap (t : Strand) (r : BitVec 5) (v : Option BReg) : (t.setB r v).fetrap = t.fetrap := rfl
@[simp] theorem Strand.setB_lvc (t : Strand) (r : BitVec 5) (v : Option BReg) : (t.setB r v).lvc = t.lvc := rfl
@[simp] theorem Strand.setB_job (t : Strand) (r : BitVec 5) (v : Option BReg) : (t.setB r v).job = t.job := rfl
@[simp] theorem Strand.setB_vty (t : Strand) (r : BitVec 5) (v : Option BReg) : (t.setB r v).vty = t.vty := rfl
@[simp] theorem Strand.setB_grant (t : Strand) (r : BitVec 5) (v : Option BReg) : (t.setB r v).grant = t.grant := rfl
@[simp] theorem Strand.setB_vslip (t : Strand) (r : BitVec 5) (v : Option BReg) : (t.setB r v).vslip = t.vslip := rfl
@[simp] theorem Strand.setB_ffx (t : Strand) (r : BitVec 5) (v : Option BReg) : (t.setB r v).ffx = t.ffx := rfl
@[simp] theorem Strand.setB_efr (t : Strand) (r : BitVec 5) (v : Option BReg) : (t.setB r v).efr = t.efr := rfl
@[simp] theorem Strand.setB_frm (t : Strand) (r : BitVec 5) (v : Option BReg) : (t.setB r v).frm = t.frm := rfl
@[simp] theorem Strand.setB_fflags (t : Strand) (r : BitVec 5) (v : Option BReg) : (t.setB r v).fflags = t.fflags := rfl
@[simp] theorem Strand.setB_acw (t : Strand) (r : BitVec 5) (v : Option BReg) : (t.setB r v).acw = t.acw := rfl
@[simp] theorem Strand.setB_tbud (t : Strand) (r : BitVec 5) (v : Option BReg) : (t.setB r v).tbud = t.tbud := rfl
@[simp] theorem Strand.setB_tcap (t : Strand) (r : BitVec 5) (v : Option BReg) : (t.setB r v).tcap = t.tcap := rfl
@[simp] theorem Strand.setB_trec (t : Strand) (r : BitVec 5) (v : Option BReg) : (t.setB r v).trec = t.trec := rfl
@[simp] theorem Strand.setB_maint (t : Strand) (r : BitVec 5) (v : Option BReg) : (t.setB r v).maint = t.maint := rfl
@[simp] theorem Strand.setB_mlease (t : Strand) (r : BitVec 5) (v : Option BReg) : (t.setB r v).mlease = t.mlease := rfl
@[simp] theorem Strand.setB_wait (t : Strand) (r : BitVec 5) (v : Option BReg) : (t.setB r v).wait = t.wait := rfl
@[simp] theorem Strand.setB_run (t : Strand) (r : BitVec 5) (v : Option BReg) : (t.setB r v).run = t.run := rfl
@[simp] theorem Strand.setB_away (t : Strand) (r : BitVec 5) (v : Option BReg) : (t.setB r v).away = t.away := rfl
@[simp] theorem Strand.setB_window (t : Strand) (r : BitVec 5) (v : Option BReg) : (t.setB r v).window = t.window := rfl
@[simp] theorem Strand.setB_guards (t : Strand) (r : BitVec 5) (v : Option BReg) : (t.setB r v).guards = t.guards := rfl
@[simp] theorem Strand.setB_locks (t : Strand) (r : BitVec 5) (v : Option BReg) : (t.setB r v).locks = t.locks := rfl
@[simp] theorem Strand.setB_pend (t : Strand) (r : BitVec 5) (v : Option BReg) : (t.setB r v).pend = t.pend := rfl
@[simp] theorem Strand.setB_hb (t : Strand) (r : BitVec 5) (v : Option BReg) : (t.setB r v).hb = t.hb := rfl
@[simp] theorem Strand.setB_obs (t : Strand) (r : BitVec 5) (v : Option BReg) : (t.setB r v).obs = t.obs := rfl
@[simp] theorem Strand.setB_buf (t : Strand) (r : BitVec 5) (v : Option BReg) : (t.setB r v).buf = t.buf := rfl
@[simp] theorem Strand.setB_out (t : Strand) (r : BitVec 5) (v : Option BReg) : (t.setB r v).out = t.out := rfl
@[simp] theorem Strand.setB_vq (t : Strand) (r : BitVec 5) (v : Option BReg) : (t.setB r v).vq = t.vq := rfl
@[simp] theorem Strand.setB_pre (t : Strand) (r : BitVec 5) (v : Option BReg) : (t.setB r v).pre = t.pre := rfl
@[simp] theorem Strand.setB_preAge (t : Strand) (r : BitVec 5) (v : Option BReg) : (t.setB r v).preAge = t.preAge := rfl
@[simp] theorem Strand.setB_task (t : Strand) (r : BitVec 5) (v : Option BReg) : (t.setB r v).task = t.task := rfl
@[simp] theorem Strand.setB_brkDone (t : Strand) (r : BitVec 5) (v : Option BReg) : (t.setB r v).brkDone = t.brkDone := rfl
@[simp] theorem Strand.setB_starting (t : Strand) (r : BitVec 5) (v : Option BReg) : (t.setB r v).starting = t.starting := rfl
@[simp] theorem Strand.setB_vamoTodo (t : Strand) (r : BitVec 5) (v : Option BReg) : (t.setB r v).vamoTodo = t.vamoTodo := rfl
@[simp] theorem Strand.setB_replies (t : Strand) (r : BitVec 5) (v : Option BReg) : (t.setB r v).replies = t.replies := rfl

/-! `Strand.setG` -/
@[simp] theorem Strand.setG_uid (t : Strand) (r : BitVec 5) (v : Option GReg) : (t.setG r v).uid = t.uid := rfl
@[simp] theorem Strand.setG_sid (t : Strand) (r : BitVec 5) (v : Option GReg) : (t.setG r v).sid = t.sid := rfl
@[simp] theorem Strand.setG_pc (t : Strand) (r : BitVec 5) (v : Option GReg) : (t.setG r v).pc = t.pc := rfl
@[simp] theorem Strand.setG_loops (t : Strand) (r : BitVec 5) (v : Option GReg) : (t.setG r v).loops = t.loops := rfl
@[simp] theorem Strand.setG_sregs (t : Strand) (r : BitVec 5) (v : Option GReg) : (t.setG r v).sregs = t.sregs := rfl
@[simp] theorem Strand.setG_full (t : Strand) (r : BitVec 5) (v : Option GReg) : (t.setG r v).full = t.full := rfl
@[simp] theorem Strand.setG_marks (t : Strand) (r : BitVec 5) (v : Option GReg) : (t.setG r v).marks = t.marks := rfl
@[simp] theorem Strand.setG_vregs (t : Strand) (r : BitVec 5) (v : Option GReg) : (t.setG r v).vregs = t.vregs := rfl
@[simp] theorem Strand.setG_streams (t : Strand) (r : BitVec 5) (v : Option GReg) : (t.setG r v).streams = t.streams := rfl
@[simp] theorem Strand.setG_kregs (t : Strand) (r : BitVec 5) (v : Option GReg) : (t.setG r v).kregs = t.kregs := rfl
@[simp] theorem Strand.setG_hregs (t : Strand) (r : BitVec 5) (v : Option GReg) : (t.setG r v).hregs = t.hregs := rfl
@[simp] theorem Strand.setG_bregs (t : Strand) (r : BitVec 5) (v : Option GReg) : (t.setG r v).bregs = t.bregs := rfl
@[simp] theorem Strand.setG_wregs (t : Strand) (r : BitVec 5) (v : Option GReg) : (t.setG r v).wregs = t.wregs := rfl
@[simp] theorem Strand.setG_dlDef (t : Strand) (r : BitVec 5) (v : Option GReg) : (t.setG r v).dlDef = t.dlDef := rfl
@[simp] theorem Strand.setG_dlMax (t : Strand) (r : BitVec 5) (v : Option GReg) : (t.setG r v).dlMax = t.dlMax := rfl
@[simp] theorem Strand.setG_wst (t : Strand) (r : BitVec 5) (v : Option GReg) : (t.setG r v).wst = t.wst := rfl
@[simp] theorem Strand.setG_wabs (t : Strand) (r : BitVec 5) (v : Option GReg) : (t.setG r v).wabs = t.wabs := rfl
@[simp] theorem Strand.setG_fetrap (t : Strand) (r : BitVec 5) (v : Option GReg) : (t.setG r v).fetrap = t.fetrap := rfl
@[simp] theorem Strand.setG_lvc (t : Strand) (r : BitVec 5) (v : Option GReg) : (t.setG r v).lvc = t.lvc := rfl
@[simp] theorem Strand.setG_job (t : Strand) (r : BitVec 5) (v : Option GReg) : (t.setG r v).job = t.job := rfl
@[simp] theorem Strand.setG_vty (t : Strand) (r : BitVec 5) (v : Option GReg) : (t.setG r v).vty = t.vty := rfl
@[simp] theorem Strand.setG_grant (t : Strand) (r : BitVec 5) (v : Option GReg) : (t.setG r v).grant = t.grant := rfl
@[simp] theorem Strand.setG_vslip (t : Strand) (r : BitVec 5) (v : Option GReg) : (t.setG r v).vslip = t.vslip := rfl
@[simp] theorem Strand.setG_ffx (t : Strand) (r : BitVec 5) (v : Option GReg) : (t.setG r v).ffx = t.ffx := rfl
@[simp] theorem Strand.setG_efr (t : Strand) (r : BitVec 5) (v : Option GReg) : (t.setG r v).efr = t.efr := rfl
@[simp] theorem Strand.setG_frm (t : Strand) (r : BitVec 5) (v : Option GReg) : (t.setG r v).frm = t.frm := rfl
@[simp] theorem Strand.setG_fflags (t : Strand) (r : BitVec 5) (v : Option GReg) : (t.setG r v).fflags = t.fflags := rfl
@[simp] theorem Strand.setG_acw (t : Strand) (r : BitVec 5) (v : Option GReg) : (t.setG r v).acw = t.acw := rfl
@[simp] theorem Strand.setG_tbud (t : Strand) (r : BitVec 5) (v : Option GReg) : (t.setG r v).tbud = t.tbud := rfl
@[simp] theorem Strand.setG_tcap (t : Strand) (r : BitVec 5) (v : Option GReg) : (t.setG r v).tcap = t.tcap := rfl
@[simp] theorem Strand.setG_trec (t : Strand) (r : BitVec 5) (v : Option GReg) : (t.setG r v).trec = t.trec := rfl
@[simp] theorem Strand.setG_maint (t : Strand) (r : BitVec 5) (v : Option GReg) : (t.setG r v).maint = t.maint := rfl
@[simp] theorem Strand.setG_mlease (t : Strand) (r : BitVec 5) (v : Option GReg) : (t.setG r v).mlease = t.mlease := rfl
@[simp] theorem Strand.setG_wait (t : Strand) (r : BitVec 5) (v : Option GReg) : (t.setG r v).wait = t.wait := rfl
@[simp] theorem Strand.setG_run (t : Strand) (r : BitVec 5) (v : Option GReg) : (t.setG r v).run = t.run := rfl
@[simp] theorem Strand.setG_away (t : Strand) (r : BitVec 5) (v : Option GReg) : (t.setG r v).away = t.away := rfl
@[simp] theorem Strand.setG_window (t : Strand) (r : BitVec 5) (v : Option GReg) : (t.setG r v).window = t.window := rfl
@[simp] theorem Strand.setG_guards (t : Strand) (r : BitVec 5) (v : Option GReg) : (t.setG r v).guards = t.guards := rfl
@[simp] theorem Strand.setG_locks (t : Strand) (r : BitVec 5) (v : Option GReg) : (t.setG r v).locks = t.locks := rfl
@[simp] theorem Strand.setG_pend (t : Strand) (r : BitVec 5) (v : Option GReg) : (t.setG r v).pend = t.pend := rfl
@[simp] theorem Strand.setG_hb (t : Strand) (r : BitVec 5) (v : Option GReg) : (t.setG r v).hb = t.hb := rfl
@[simp] theorem Strand.setG_obs (t : Strand) (r : BitVec 5) (v : Option GReg) : (t.setG r v).obs = t.obs := rfl
@[simp] theorem Strand.setG_buf (t : Strand) (r : BitVec 5) (v : Option GReg) : (t.setG r v).buf = t.buf := rfl
@[simp] theorem Strand.setG_out (t : Strand) (r : BitVec 5) (v : Option GReg) : (t.setG r v).out = t.out := rfl
@[simp] theorem Strand.setG_vq (t : Strand) (r : BitVec 5) (v : Option GReg) : (t.setG r v).vq = t.vq := rfl
@[simp] theorem Strand.setG_pre (t : Strand) (r : BitVec 5) (v : Option GReg) : (t.setG r v).pre = t.pre := rfl
@[simp] theorem Strand.setG_preAge (t : Strand) (r : BitVec 5) (v : Option GReg) : (t.setG r v).preAge = t.preAge := rfl
@[simp] theorem Strand.setG_task (t : Strand) (r : BitVec 5) (v : Option GReg) : (t.setG r v).task = t.task := rfl
@[simp] theorem Strand.setG_brkDone (t : Strand) (r : BitVec 5) (v : Option GReg) : (t.setG r v).brkDone = t.brkDone := rfl
@[simp] theorem Strand.setG_starting (t : Strand) (r : BitVec 5) (v : Option GReg) : (t.setG r v).starting = t.starting := rfl
@[simp] theorem Strand.setG_vamoTodo (t : Strand) (r : BitVec 5) (v : Option GReg) : (t.setG r v).vamoTodo = t.vamoTodo := rfl
@[simp] theorem Strand.setG_replies (t : Strand) (r : BitVec 5) (v : Option GReg) : (t.setG r v).replies = t.replies := rfl

/-! `Strand.setW` -/
@[simp] theorem Strand.setW_uid (t : Strand) (r : BitVec 5) (v : Option WReg) : (t.setW r v).uid = t.uid := rfl
@[simp] theorem Strand.setW_sid (t : Strand) (r : BitVec 5) (v : Option WReg) : (t.setW r v).sid = t.sid := rfl
@[simp] theorem Strand.setW_pc (t : Strand) (r : BitVec 5) (v : Option WReg) : (t.setW r v).pc = t.pc := rfl
@[simp] theorem Strand.setW_loops (t : Strand) (r : BitVec 5) (v : Option WReg) : (t.setW r v).loops = t.loops := rfl
@[simp] theorem Strand.setW_sregs (t : Strand) (r : BitVec 5) (v : Option WReg) : (t.setW r v).sregs = t.sregs := rfl
@[simp] theorem Strand.setW_full (t : Strand) (r : BitVec 5) (v : Option WReg) : (t.setW r v).full = t.full := rfl
@[simp] theorem Strand.setW_marks (t : Strand) (r : BitVec 5) (v : Option WReg) : (t.setW r v).marks = t.marks := rfl
@[simp] theorem Strand.setW_vregs (t : Strand) (r : BitVec 5) (v : Option WReg) : (t.setW r v).vregs = t.vregs := rfl
@[simp] theorem Strand.setW_streams (t : Strand) (r : BitVec 5) (v : Option WReg) : (t.setW r v).streams = t.streams := rfl
@[simp] theorem Strand.setW_kregs (t : Strand) (r : BitVec 5) (v : Option WReg) : (t.setW r v).kregs = t.kregs := rfl
@[simp] theorem Strand.setW_hregs (t : Strand) (r : BitVec 5) (v : Option WReg) : (t.setW r v).hregs = t.hregs := rfl
@[simp] theorem Strand.setW_bregs (t : Strand) (r : BitVec 5) (v : Option WReg) : (t.setW r v).bregs = t.bregs := rfl
@[simp] theorem Strand.setW_gregs (t : Strand) (r : BitVec 5) (v : Option WReg) : (t.setW r v).gregs = t.gregs := rfl
@[simp] theorem Strand.setW_dlDef (t : Strand) (r : BitVec 5) (v : Option WReg) : (t.setW r v).dlDef = t.dlDef := rfl
@[simp] theorem Strand.setW_dlMax (t : Strand) (r : BitVec 5) (v : Option WReg) : (t.setW r v).dlMax = t.dlMax := rfl
@[simp] theorem Strand.setW_wst (t : Strand) (r : BitVec 5) (v : Option WReg) : (t.setW r v).wst = t.wst := rfl
@[simp] theorem Strand.setW_wabs (t : Strand) (r : BitVec 5) (v : Option WReg) : (t.setW r v).wabs = t.wabs := rfl
@[simp] theorem Strand.setW_fetrap (t : Strand) (r : BitVec 5) (v : Option WReg) : (t.setW r v).fetrap = t.fetrap := rfl
@[simp] theorem Strand.setW_lvc (t : Strand) (r : BitVec 5) (v : Option WReg) : (t.setW r v).lvc = t.lvc := rfl
@[simp] theorem Strand.setW_job (t : Strand) (r : BitVec 5) (v : Option WReg) : (t.setW r v).job = t.job := rfl
@[simp] theorem Strand.setW_vty (t : Strand) (r : BitVec 5) (v : Option WReg) : (t.setW r v).vty = t.vty := rfl
@[simp] theorem Strand.setW_grant (t : Strand) (r : BitVec 5) (v : Option WReg) : (t.setW r v).grant = t.grant := rfl
@[simp] theorem Strand.setW_vslip (t : Strand) (r : BitVec 5) (v : Option WReg) : (t.setW r v).vslip = t.vslip := rfl
@[simp] theorem Strand.setW_ffx (t : Strand) (r : BitVec 5) (v : Option WReg) : (t.setW r v).ffx = t.ffx := rfl
@[simp] theorem Strand.setW_efr (t : Strand) (r : BitVec 5) (v : Option WReg) : (t.setW r v).efr = t.efr := rfl
@[simp] theorem Strand.setW_frm (t : Strand) (r : BitVec 5) (v : Option WReg) : (t.setW r v).frm = t.frm := rfl
@[simp] theorem Strand.setW_fflags (t : Strand) (r : BitVec 5) (v : Option WReg) : (t.setW r v).fflags = t.fflags := rfl
@[simp] theorem Strand.setW_acw (t : Strand) (r : BitVec 5) (v : Option WReg) : (t.setW r v).acw = t.acw := rfl
@[simp] theorem Strand.setW_tbud (t : Strand) (r : BitVec 5) (v : Option WReg) : (t.setW r v).tbud = t.tbud := rfl
@[simp] theorem Strand.setW_tcap (t : Strand) (r : BitVec 5) (v : Option WReg) : (t.setW r v).tcap = t.tcap := rfl
@[simp] theorem Strand.setW_trec (t : Strand) (r : BitVec 5) (v : Option WReg) : (t.setW r v).trec = t.trec := rfl
@[simp] theorem Strand.setW_maint (t : Strand) (r : BitVec 5) (v : Option WReg) : (t.setW r v).maint = t.maint := rfl
@[simp] theorem Strand.setW_mlease (t : Strand) (r : BitVec 5) (v : Option WReg) : (t.setW r v).mlease = t.mlease := rfl
@[simp] theorem Strand.setW_wait (t : Strand) (r : BitVec 5) (v : Option WReg) : (t.setW r v).wait = t.wait := rfl
@[simp] theorem Strand.setW_run (t : Strand) (r : BitVec 5) (v : Option WReg) : (t.setW r v).run = t.run := rfl
@[simp] theorem Strand.setW_away (t : Strand) (r : BitVec 5) (v : Option WReg) : (t.setW r v).away = t.away := rfl
@[simp] theorem Strand.setW_window (t : Strand) (r : BitVec 5) (v : Option WReg) : (t.setW r v).window = t.window := rfl
@[simp] theorem Strand.setW_guards (t : Strand) (r : BitVec 5) (v : Option WReg) : (t.setW r v).guards = t.guards := rfl
@[simp] theorem Strand.setW_locks (t : Strand) (r : BitVec 5) (v : Option WReg) : (t.setW r v).locks = t.locks := rfl
@[simp] theorem Strand.setW_pend (t : Strand) (r : BitVec 5) (v : Option WReg) : (t.setW r v).pend = t.pend := rfl
@[simp] theorem Strand.setW_hb (t : Strand) (r : BitVec 5) (v : Option WReg) : (t.setW r v).hb = t.hb := rfl
@[simp] theorem Strand.setW_obs (t : Strand) (r : BitVec 5) (v : Option WReg) : (t.setW r v).obs = t.obs := rfl
@[simp] theorem Strand.setW_buf (t : Strand) (r : BitVec 5) (v : Option WReg) : (t.setW r v).buf = t.buf := rfl
@[simp] theorem Strand.setW_out (t : Strand) (r : BitVec 5) (v : Option WReg) : (t.setW r v).out = t.out := rfl
@[simp] theorem Strand.setW_vq (t : Strand) (r : BitVec 5) (v : Option WReg) : (t.setW r v).vq = t.vq := rfl
@[simp] theorem Strand.setW_pre (t : Strand) (r : BitVec 5) (v : Option WReg) : (t.setW r v).pre = t.pre := rfl
@[simp] theorem Strand.setW_preAge (t : Strand) (r : BitVec 5) (v : Option WReg) : (t.setW r v).preAge = t.preAge := rfl
@[simp] theorem Strand.setW_task (t : Strand) (r : BitVec 5) (v : Option WReg) : (t.setW r v).task = t.task := rfl
@[simp] theorem Strand.setW_brkDone (t : Strand) (r : BitVec 5) (v : Option WReg) : (t.setW r v).brkDone = t.brkDone := rfl
@[simp] theorem Strand.setW_starting (t : Strand) (r : BitVec 5) (v : Option WReg) : (t.setW r v).starting = t.starting := rfl
@[simp] theorem Strand.setW_vamoTodo (t : Strand) (r : BitVec 5) (v : Option WReg) : (t.setW r v).vamoTodo = t.vamoTodo := rfl
@[simp] theorem Strand.setW_replies (t : Strand) (r : BitVec 5) (v : Option WReg) : (t.setW r v).replies = t.replies := rfl

/-! `Strand.setS` and `Strand.markEmpty` -/
@[simp] theorem Strand.setS_uid (t : Strand) (r : BitVec 5) (v : Word) : (t.setS r v).uid = t.uid := by unfold Strand.setS; split <;> rfl
@[simp] theorem Strand.setS_sid (t : Strand) (r : BitVec 5) (v : Word) : (t.setS r v).sid = t.sid := by unfold Strand.setS; split <;> rfl
@[simp] theorem Strand.setS_pc (t : Strand) (r : BitVec 5) (v : Word) : (t.setS r v).pc = t.pc := by unfold Strand.setS; split <;> rfl
@[simp] theorem Strand.setS_loops (t : Strand) (r : BitVec 5) (v : Word) : (t.setS r v).loops = t.loops := by unfold Strand.setS; split <;> rfl
@[simp] theorem Strand.setS_vregs (t : Strand) (r : BitVec 5) (v : Word) : (t.setS r v).vregs = t.vregs := by unfold Strand.setS; split <;> rfl
@[simp] theorem Strand.setS_streams (t : Strand) (r : BitVec 5) (v : Word) : (t.setS r v).streams = t.streams := by unfold Strand.setS; split <;> rfl
@[simp] theorem Strand.setS_kregs (t : Strand) (r : BitVec 5) (v : Word) : (t.setS r v).kregs = t.kregs := by unfold Strand.setS; split <;> rfl
@[simp] theorem Strand.setS_hregs (t : Strand) (r : BitVec 5) (v : Word) : (t.setS r v).hregs = t.hregs := by unfold Strand.setS; split <;> rfl
@[simp] theorem Strand.setS_bregs (t : Strand) (r : BitVec 5) (v : Word) : (t.setS r v).bregs = t.bregs := by unfold Strand.setS; split <;> rfl
@[simp] theorem Strand.setS_gregs (t : Strand) (r : BitVec 5) (v : Word) : (t.setS r v).gregs = t.gregs := by unfold Strand.setS; split <;> rfl
@[simp] theorem Strand.setS_wregs (t : Strand) (r : BitVec 5) (v : Word) : (t.setS r v).wregs = t.wregs := by unfold Strand.setS; split <;> rfl
@[simp] theorem Strand.setS_dlDef (t : Strand) (r : BitVec 5) (v : Word) : (t.setS r v).dlDef = t.dlDef := by unfold Strand.setS; split <;> rfl
@[simp] theorem Strand.setS_dlMax (t : Strand) (r : BitVec 5) (v : Word) : (t.setS r v).dlMax = t.dlMax := by unfold Strand.setS; split <;> rfl
@[simp] theorem Strand.setS_wst (t : Strand) (r : BitVec 5) (v : Word) : (t.setS r v).wst = t.wst := by unfold Strand.setS; split <;> rfl
@[simp] theorem Strand.setS_wabs (t : Strand) (r : BitVec 5) (v : Word) : (t.setS r v).wabs = t.wabs := by unfold Strand.setS; split <;> rfl
@[simp] theorem Strand.setS_fetrap (t : Strand) (r : BitVec 5) (v : Word) : (t.setS r v).fetrap = t.fetrap := by unfold Strand.setS; split <;> rfl
@[simp] theorem Strand.setS_lvc (t : Strand) (r : BitVec 5) (v : Word) : (t.setS r v).lvc = t.lvc := by unfold Strand.setS; split <;> rfl
@[simp] theorem Strand.setS_job (t : Strand) (r : BitVec 5) (v : Word) : (t.setS r v).job = t.job := by unfold Strand.setS; split <;> rfl
@[simp] theorem Strand.setS_vty (t : Strand) (r : BitVec 5) (v : Word) : (t.setS r v).vty = t.vty := by unfold Strand.setS; split <;> rfl
@[simp] theorem Strand.setS_grant (t : Strand) (r : BitVec 5) (v : Word) : (t.setS r v).grant = t.grant := by unfold Strand.setS; split <;> rfl
@[simp] theorem Strand.setS_vslip (t : Strand) (r : BitVec 5) (v : Word) : (t.setS r v).vslip = t.vslip := by unfold Strand.setS; split <;> rfl
@[simp] theorem Strand.setS_ffx (t : Strand) (r : BitVec 5) (v : Word) : (t.setS r v).ffx = t.ffx := by unfold Strand.setS; split <;> rfl
@[simp] theorem Strand.setS_efr (t : Strand) (r : BitVec 5) (v : Word) : (t.setS r v).efr = t.efr := by unfold Strand.setS; split <;> rfl
@[simp] theorem Strand.setS_frm (t : Strand) (r : BitVec 5) (v : Word) : (t.setS r v).frm = t.frm := by unfold Strand.setS; split <;> rfl
@[simp] theorem Strand.setS_fflags (t : Strand) (r : BitVec 5) (v : Word) : (t.setS r v).fflags = t.fflags := by unfold Strand.setS; split <;> rfl
@[simp] theorem Strand.setS_acw (t : Strand) (r : BitVec 5) (v : Word) : (t.setS r v).acw = t.acw := by unfold Strand.setS; split <;> rfl
@[simp] theorem Strand.setS_tbud (t : Strand) (r : BitVec 5) (v : Word) : (t.setS r v).tbud = t.tbud := by unfold Strand.setS; split <;> rfl
@[simp] theorem Strand.setS_tcap (t : Strand) (r : BitVec 5) (v : Word) : (t.setS r v).tcap = t.tcap := by unfold Strand.setS; split <;> rfl
@[simp] theorem Strand.setS_trec (t : Strand) (r : BitVec 5) (v : Word) : (t.setS r v).trec = t.trec := by unfold Strand.setS; split <;> rfl
@[simp] theorem Strand.setS_maint (t : Strand) (r : BitVec 5) (v : Word) : (t.setS r v).maint = t.maint := by unfold Strand.setS; split <;> rfl
@[simp] theorem Strand.setS_mlease (t : Strand) (r : BitVec 5) (v : Word) : (t.setS r v).mlease = t.mlease := by unfold Strand.setS; split <;> rfl
@[simp] theorem Strand.setS_wait (t : Strand) (r : BitVec 5) (v : Word) : (t.setS r v).wait = t.wait := by unfold Strand.setS; split <;> rfl
@[simp] theorem Strand.setS_run (t : Strand) (r : BitVec 5) (v : Word) : (t.setS r v).run = t.run := by unfold Strand.setS; split <;> rfl
@[simp] theorem Strand.setS_away (t : Strand) (r : BitVec 5) (v : Word) : (t.setS r v).away = t.away := by unfold Strand.setS; split <;> rfl
@[simp] theorem Strand.setS_window (t : Strand) (r : BitVec 5) (v : Word) : (t.setS r v).window = t.window := by unfold Strand.setS; split <;> rfl
@[simp] theorem Strand.setS_guards (t : Strand) (r : BitVec 5) (v : Word) : (t.setS r v).guards = t.guards := by unfold Strand.setS; split <;> rfl
@[simp] theorem Strand.setS_locks (t : Strand) (r : BitVec 5) (v : Word) : (t.setS r v).locks = t.locks := by unfold Strand.setS; split <;> rfl
@[simp] theorem Strand.setS_pend (t : Strand) (r : BitVec 5) (v : Word) : (t.setS r v).pend = t.pend := by unfold Strand.setS; split <;> rfl
@[simp] theorem Strand.setS_hb (t : Strand) (r : BitVec 5) (v : Word) : (t.setS r v).hb = t.hb := by unfold Strand.setS; split <;> rfl
@[simp] theorem Strand.setS_obs (t : Strand) (r : BitVec 5) (v : Word) : (t.setS r v).obs = t.obs := by unfold Strand.setS; split <;> rfl
@[simp] theorem Strand.setS_buf (t : Strand) (r : BitVec 5) (v : Word) : (t.setS r v).buf = t.buf := by unfold Strand.setS; split <;> rfl
@[simp] theorem Strand.setS_out (t : Strand) (r : BitVec 5) (v : Word) : (t.setS r v).out = t.out := by unfold Strand.setS; split <;> rfl
@[simp] theorem Strand.setS_vq (t : Strand) (r : BitVec 5) (v : Word) : (t.setS r v).vq = t.vq := by unfold Strand.setS; split <;> rfl
@[simp] theorem Strand.setS_pre (t : Strand) (r : BitVec 5) (v : Word) : (t.setS r v).pre = t.pre := by unfold Strand.setS; split <;> rfl
@[simp] theorem Strand.setS_preAge (t : Strand) (r : BitVec 5) (v : Word) : (t.setS r v).preAge = t.preAge := by unfold Strand.setS; split <;> rfl
@[simp] theorem Strand.setS_task (t : Strand) (r : BitVec 5) (v : Word) : (t.setS r v).task = t.task := by unfold Strand.setS; split <;> rfl
@[simp] theorem Strand.setS_brkDone (t : Strand) (r : BitVec 5) (v : Word) : (t.setS r v).brkDone = t.brkDone := by unfold Strand.setS; split <;> rfl
@[simp] theorem Strand.setS_starting (t : Strand) (r : BitVec 5) (v : Word) : (t.setS r v).starting = t.starting := by unfold Strand.setS; split <;> rfl
@[simp] theorem Strand.setS_vamoTodo (t : Strand) (r : BitVec 5) (v : Word) : (t.setS r v).vamoTodo = t.vamoTodo := by unfold Strand.setS; split <;> rfl
@[simp] theorem Strand.setS_replies (t : Strand) (r : BitVec 5) (v : Word) : (t.setS r v).replies = t.replies := by unfold Strand.setS; split <;> rfl

@[simp] theorem Strand.markEmpty_uid (t : Strand) (r : BitVec 5) : (t.markEmpty r).uid = t.uid := by unfold Strand.markEmpty; split <;> rfl
@[simp] theorem Strand.markEmpty_sid (t : Strand) (r : BitVec 5) : (t.markEmpty r).sid = t.sid := by unfold Strand.markEmpty; split <;> rfl
@[simp] theorem Strand.markEmpty_pc (t : Strand) (r : BitVec 5) : (t.markEmpty r).pc = t.pc := by unfold Strand.markEmpty; split <;> rfl
@[simp] theorem Strand.markEmpty_loops (t : Strand) (r : BitVec 5) : (t.markEmpty r).loops = t.loops := by unfold Strand.markEmpty; split <;> rfl
@[simp] theorem Strand.markEmpty_sregs (t : Strand) (r : BitVec 5) : (t.markEmpty r).sregs = t.sregs := by unfold Strand.markEmpty; split <;> rfl
@[simp] theorem Strand.markEmpty_vregs (t : Strand) (r : BitVec 5) : (t.markEmpty r).vregs = t.vregs := by unfold Strand.markEmpty; split <;> rfl
@[simp] theorem Strand.markEmpty_streams (t : Strand) (r : BitVec 5) : (t.markEmpty r).streams = t.streams := by unfold Strand.markEmpty; split <;> rfl
@[simp] theorem Strand.markEmpty_kregs (t : Strand) (r : BitVec 5) : (t.markEmpty r).kregs = t.kregs := by unfold Strand.markEmpty; split <;> rfl
@[simp] theorem Strand.markEmpty_hregs (t : Strand) (r : BitVec 5) : (t.markEmpty r).hregs = t.hregs := by unfold Strand.markEmpty; split <;> rfl
@[simp] theorem Strand.markEmpty_bregs (t : Strand) (r : BitVec 5) : (t.markEmpty r).bregs = t.bregs := by unfold Strand.markEmpty; split <;> rfl
@[simp] theorem Strand.markEmpty_gregs (t : Strand) (r : BitVec 5) : (t.markEmpty r).gregs = t.gregs := by unfold Strand.markEmpty; split <;> rfl
@[simp] theorem Strand.markEmpty_wregs (t : Strand) (r : BitVec 5) : (t.markEmpty r).wregs = t.wregs := by unfold Strand.markEmpty; split <;> rfl
@[simp] theorem Strand.markEmpty_dlDef (t : Strand) (r : BitVec 5) : (t.markEmpty r).dlDef = t.dlDef := by unfold Strand.markEmpty; split <;> rfl
@[simp] theorem Strand.markEmpty_dlMax (t : Strand) (r : BitVec 5) : (t.markEmpty r).dlMax = t.dlMax := by unfold Strand.markEmpty; split <;> rfl
@[simp] theorem Strand.markEmpty_wst (t : Strand) (r : BitVec 5) : (t.markEmpty r).wst = t.wst := by unfold Strand.markEmpty; split <;> rfl
@[simp] theorem Strand.markEmpty_wabs (t : Strand) (r : BitVec 5) : (t.markEmpty r).wabs = t.wabs := by unfold Strand.markEmpty; split <;> rfl
@[simp] theorem Strand.markEmpty_fetrap (t : Strand) (r : BitVec 5) : (t.markEmpty r).fetrap = t.fetrap := by unfold Strand.markEmpty; split <;> rfl
@[simp] theorem Strand.markEmpty_lvc (t : Strand) (r : BitVec 5) : (t.markEmpty r).lvc = t.lvc := by unfold Strand.markEmpty; split <;> rfl
@[simp] theorem Strand.markEmpty_job (t : Strand) (r : BitVec 5) : (t.markEmpty r).job = t.job := by unfold Strand.markEmpty; split <;> rfl
@[simp] theorem Strand.markEmpty_vty (t : Strand) (r : BitVec 5) : (t.markEmpty r).vty = t.vty := by unfold Strand.markEmpty; split <;> rfl
@[simp] theorem Strand.markEmpty_grant (t : Strand) (r : BitVec 5) : (t.markEmpty r).grant = t.grant := by unfold Strand.markEmpty; split <;> rfl
@[simp] theorem Strand.markEmpty_vslip (t : Strand) (r : BitVec 5) : (t.markEmpty r).vslip = t.vslip := by unfold Strand.markEmpty; split <;> rfl
@[simp] theorem Strand.markEmpty_ffx (t : Strand) (r : BitVec 5) : (t.markEmpty r).ffx = t.ffx := by unfold Strand.markEmpty; split <;> rfl
@[simp] theorem Strand.markEmpty_efr (t : Strand) (r : BitVec 5) : (t.markEmpty r).efr = t.efr := by unfold Strand.markEmpty; split <;> rfl
@[simp] theorem Strand.markEmpty_frm (t : Strand) (r : BitVec 5) : (t.markEmpty r).frm = t.frm := by unfold Strand.markEmpty; split <;> rfl
@[simp] theorem Strand.markEmpty_fflags (t : Strand) (r : BitVec 5) : (t.markEmpty r).fflags = t.fflags := by unfold Strand.markEmpty; split <;> rfl
@[simp] theorem Strand.markEmpty_acw (t : Strand) (r : BitVec 5) : (t.markEmpty r).acw = t.acw := by unfold Strand.markEmpty; split <;> rfl
@[simp] theorem Strand.markEmpty_tbud (t : Strand) (r : BitVec 5) : (t.markEmpty r).tbud = t.tbud := by unfold Strand.markEmpty; split <;> rfl
@[simp] theorem Strand.markEmpty_tcap (t : Strand) (r : BitVec 5) : (t.markEmpty r).tcap = t.tcap := by unfold Strand.markEmpty; split <;> rfl
@[simp] theorem Strand.markEmpty_trec (t : Strand) (r : BitVec 5) : (t.markEmpty r).trec = t.trec := by unfold Strand.markEmpty; split <;> rfl
@[simp] theorem Strand.markEmpty_maint (t : Strand) (r : BitVec 5) : (t.markEmpty r).maint = t.maint := by unfold Strand.markEmpty; split <;> rfl
@[simp] theorem Strand.markEmpty_mlease (t : Strand) (r : BitVec 5) : (t.markEmpty r).mlease = t.mlease := by unfold Strand.markEmpty; split <;> rfl
@[simp] theorem Strand.markEmpty_wait (t : Strand) (r : BitVec 5) : (t.markEmpty r).wait = t.wait := by unfold Strand.markEmpty; split <;> rfl
@[simp] theorem Strand.markEmpty_run (t : Strand) (r : BitVec 5) : (t.markEmpty r).run = t.run := by unfold Strand.markEmpty; split <;> rfl
@[simp] theorem Strand.markEmpty_away (t : Strand) (r : BitVec 5) : (t.markEmpty r).away = t.away := by unfold Strand.markEmpty; split <;> rfl
@[simp] theorem Strand.markEmpty_window (t : Strand) (r : BitVec 5) : (t.markEmpty r).window = t.window := by unfold Strand.markEmpty; split <;> rfl
@[simp] theorem Strand.markEmpty_guards (t : Strand) (r : BitVec 5) : (t.markEmpty r).guards = t.guards := by unfold Strand.markEmpty; split <;> rfl
@[simp] theorem Strand.markEmpty_locks (t : Strand) (r : BitVec 5) : (t.markEmpty r).locks = t.locks := by unfold Strand.markEmpty; split <;> rfl
@[simp] theorem Strand.markEmpty_pend (t : Strand) (r : BitVec 5) : (t.markEmpty r).pend = t.pend := by unfold Strand.markEmpty; split <;> rfl
@[simp] theorem Strand.markEmpty_hb (t : Strand) (r : BitVec 5) : (t.markEmpty r).hb = t.hb := by unfold Strand.markEmpty; split <;> rfl
@[simp] theorem Strand.markEmpty_obs (t : Strand) (r : BitVec 5) : (t.markEmpty r).obs = t.obs := by unfold Strand.markEmpty; split <;> rfl
@[simp] theorem Strand.markEmpty_buf (t : Strand) (r : BitVec 5) : (t.markEmpty r).buf = t.buf := by unfold Strand.markEmpty; split <;> rfl
@[simp] theorem Strand.markEmpty_out (t : Strand) (r : BitVec 5) : (t.markEmpty r).out = t.out := by unfold Strand.markEmpty; split <;> rfl
@[simp] theorem Strand.markEmpty_vq (t : Strand) (r : BitVec 5) : (t.markEmpty r).vq = t.vq := by unfold Strand.markEmpty; split <;> rfl
@[simp] theorem Strand.markEmpty_pre (t : Strand) (r : BitVec 5) : (t.markEmpty r).pre = t.pre := by unfold Strand.markEmpty; split <;> rfl
@[simp] theorem Strand.markEmpty_preAge (t : Strand) (r : BitVec 5) : (t.markEmpty r).preAge = t.preAge := by unfold Strand.markEmpty; split <;> rfl
@[simp] theorem Strand.markEmpty_task (t : Strand) (r : BitVec 5) : (t.markEmpty r).task = t.task := by unfold Strand.markEmpty; split <;> rfl
@[simp] theorem Strand.markEmpty_brkDone (t : Strand) (r : BitVec 5) : (t.markEmpty r).brkDone = t.brkDone := by unfold Strand.markEmpty; split <;> rfl
@[simp] theorem Strand.markEmpty_starting (t : Strand) (r : BitVec 5) : (t.markEmpty r).starting = t.starting := by unfold Strand.markEmpty; split <;> rfl
@[simp] theorem Strand.markEmpty_vamoTodo (t : Strand) (r : BitVec 5) : (t.markEmpty r).vamoTodo = t.vamoTodo := by unfold Strand.markEmpty; split <;> rfl
@[simp] theorem Strand.markEmpty_replies (t : Strand) (r : BitVec 5) : (t.markEmpty r).replies = t.replies := by unfold Strand.markEmpty; split <;> rfl

end Sys2Proof.Machine
end

