-- ==== Sys2Proof/Laws/Memory.lean ====
section
/-! SUPPORT. Memory keeps its canonical form, and what leaves it alone: the operations on memory, translation and the shared operations of instructions. -/

namespace Sys2Proof.Machine

set_option linter.unusedTactic false
set_option linter.unreachableTactic false

theorem SMap.wfFrom_filter {α : Type} [DecidableEq α] (d : α) (p : Nat × α → Bool) {m : SMap α} {lo : Nat}
    (hm : SMap.wfFrom d lo m = true) : SMap.wfFrom d lo (List.filter p m) = true := by
  induction m generalizing lo with
  | nil => rfl
  | cons q m ih =>
    obtain ⟨j, v⟩ := q
    simp only [SMap.wfFrom, Bool.and_eq_true, decide_eq_true_eq] at hm
    rw [List.filter_cons]
    split
    · simp only [SMap.wfFrom, Bool.and_eq_true, decide_eq_true_eq]
      exact ⟨hm.1, ih hm.2⟩
    · exact SMap.wfFrom_mono d (by omega) (ih hm.2)

/-- Taking entries out keeps the canonical form. -/
theorem SMap.wf_filter {α : Type} [DecidableEq α] (d : α) (p : Nat × α → Bool) {m : SMap α} (hm : m.wf d = true) :
    SMap.wf d (List.filter p m) = true := SMap.wfFrom_filter d p hm

theorem State.memOk_def (s : State) : s.MemOk ↔ SMap.wf memDefault s.mem = true := Iff.rfl

theorem State.memOk_of_mem {s t : State} (e : t.mem = s.mem) (h : s.MemOk) : t.MemOk := by rw [State.memOk_def, e]; exact h

theorem foldl_mem {α : Type} (f : State → α → State) (h : ∀ a x, (f a x).mem = a.mem) (l : List α) (s : State) :
    (l.foldl f s).mem = s.mem := by
  induction l generalizing s with
  | nil => rfl
  | cons x l ih => rw [List.foldl_cons, ih, h]

theorem foldl_wf {α : Type} (f : State → α → State) (h : ∀ (a : State) x, State.MemOk a → State.MemOk (f a x))
    (l : List α) (s : State) (hs : State.MemOk s) : State.MemOk (l.foldl f s) := by
  induction l generalizing s with
  | nil => exact hs
  | cons x l ih => exact ih _ (h s x hs)

theorem foldr_wf {α : Type} (f : α → State → State) (h : ∀ (a : State) x, State.MemOk a → State.MemOk (f x a))
    (l : List α) (s : State) (hs : State.MemOk s) : State.MemOk (l.foldr f s) := by
  induction l with
  | nil => exact hs
  | cons x l ih => exact h _ x ih

theorem foldl2_wf {α β : Type} (f : β × State → α → β × State)
    (h : ∀ (a : β × State) x, State.MemOk a.2 → State.MemOk (f a x).2)
    (l : List α) (s : β × State) (hs : State.MemOk s.2) : State.MemOk (l.foldl f s).2 := by
  induction l generalizing s with
  | nil => exact hs
  | cons x l ih => exact ih _ (h s x hs)

theorem foldl1_wf {α β : Type} (f : State × β → α → State × β)
    (h : ∀ (a : State × β) x, State.MemOk a.1 → State.MemOk (f a x).1)
    (l : List α) (s : State × β) (hs : State.MemOk s.1) : State.MemOk (l.foldl f s).1 := by
  induction l generalizing s with
  | nil => exact hs
  | cons x l ih => exact ih _ (h s x hs)

def svcLoad (a : State) (i : Nat) : State := match a.cur.replies.get none i with
  | some v => a.onCur fun t => t.setS (BitVec.ofNat 5 (4 + i)) v
  | none => a

theorem svcLoad_mem (a : State) (i : Nat) : (svcLoad a i).mem = a.mem := by
  unfold svcLoad
  split <;> rfl

theorem ite_wf {c : Prop} [Decidable c] {a b : State} (ha : a.MemOk) (hb : b.MemOk) : (if c then a else b).MemOk := by
  split
  · exact ha
  · exact hb

theorem State.signal_mem (s : State) a1 : (State.signal s a1).mem = s.mem := by unfold State.signal; rfl

theorem State.asUid_mem (s : State) a1 a2 (h2 : ∀ (y0 : State), (a2 y0).mem = y0.mem) : (State.asUid s a1 a2).mem = s.mem := by unfold State.asUid; grind (splits := 30)

theorem State.onUid_mem (s : State) a1 a2 : (State.onUid s a1 a2).mem = s.mem := by unfold State.onUid; grind (splits := 30)

theorem State.onStrand_mem (s : State) a1 a2 : (State.onStrand s a1 a2).mem = s.mem := by unfold State.onStrand; grind (splits := 30) [State.onUid_mem]

theorem State.switchTo_mem (s : State) a1 : (State.switchTo s a1).mem = s.mem := by unfold State.switchTo; grind (splits := 30)

theorem State.asUid_wf (s : State) a1 a2 (h2 : ∀ (y0 : State), State.MemOk y0 → State.MemOk (a2 y0)) : State.MemOk s → State.MemOk (State.asUid s a1 a2) := by unfold State.asUid; grind (splits := 30) [State.memOk_def]

theorem State.poke_wf (s : State) (key loc : Nat) (bs : List Byte) : State.MemOk s → State.MemOk (s.poke key loc bs) :=
  fun h => SMap.wf_setList memDefault loc bs h

theorem State.loadHere_mem (s : State) (key loc n : Nat) : (s.loadHere key loc n).2.mem = s.mem := rfl

theorem State.recordRelease_mem (s : State) a1 a2 a3 : (State.recordRelease s a1 a2 a3).2.mem = s.mem := by unfold State.recordRelease; rfl

theorem State.writeHome_wf (s : State) a1 a2 a3 a4 a5 a6 a7 a8 : State.MemOk s → State.MemOk (State.writeHome s a1 a2 a3 a4 a5 a6 a7 a8) := by
  intro h
  unfold State.writeHome
  refine State.memOk_of_mem (State.notePartial_mem _ _ _) (State.memOk_of_mem (State.cleanWhole_mem _ _ _) (State.poke_wf _ _ _ _ h))

theorem State.homeWrite_wf (s : State) a1 a2 a3 a4 a5 : State.MemOk s → State.MemOk (State.homeWrite s a1 a2 a3 a4 a5) := State.writeHome_wf s _ _ _ _ _ _ _ _

theorem State.zeroFrame_wf (s : State) (key f : Nat) : State.MemOk s → State.MemOk (s.zeroFrame key f) :=
  fun h => SMap.wf_filter memDefault _ h

theorem State.onRing_mem (s : State) a1 a2 : (State.onRing s a1 a2).mem = s.mem := by unfold State.onRing; rfl

theorem State.tlbPut_mem (s : State) a1 : (State.tlbPut s a1).mem = s.mem := by unfold State.tlbPut; rfl

theorem State.tlbAdd_mem (s : State) a1 : (State.tlbAdd s a1).mem = s.mem := by unfold State.tlbAdd; grind (splits := 30) [State.tlbPut_mem]

theorem State.walkAdd_mem (s : State) a1 a2 a3 : (State.walkAdd s a1 a2 a3).mem = s.mem := by unfold State.walkAdd; grind (splits := 30) [State.onDie_mem]

theorem State.setLin_mem (s : State) a1 a2 a3 : (State.setLin s a1 a2 a3).mem = s.mem := by unfold State.setLin; rfl

theorem State.setAD_wf (s : State) a1 a2 a3 : State.MemOk s → State.MemOk (State.setAD s a1 a2 a3).2 := by unfold State.setAD; grind (splits := 30) [State.memOk_def, State.homeWrite_wf]

theorem State.firstTouch_wf (s : State) a1 a2 a3 a4 : State.MemOk s → ∀ r, State.firstTouch s a1 a2 a3 a4 = some r → State.MemOk r.2 := by unfold State.firstTouch; grind (splits := 30) [State.memOk_def, State.zeroFrame_wf, State.homeWrite_wf, State.onDie_mem]

theorem State.translate_wf (s : State) a1 a2 a3 a4 a5 a6 : State.MemOk s → State.MemOk (State.translate s a1 a2 a3 a4 a5 a6).1 := by
  intro h
  unfold State.translate
  dsimp only
  repeat' split
  all_goals first
    | exact h
    | exact State.memOk_of_mem (State.tlbPut_mem _ _) h
    | exact State.memOk_of_mem (State.tlbAdd_mem _ _) (State.memOk_of_mem (State.walkAdd_mem _ _ _ _) (State.setAD_wf _ _ _ _ h))
    | (refine State.memOk_of_mem (State.tlbAdd_mem _ _) (State.memOk_of_mem (State.walkAdd_mem _ _ _ _) ?_); rename_i hf; exact State.firstTouch_wf _ _ _ _ _ h _ hf)

theorem State.place_wf (s : State) a1 a2 a3 a4 a5 : State.MemOk s → State.MemOk (State.place s a1 a2 a3 a4 a5).1 := by unfold State.place; grind (splits := 30) [State.memOk_def, State.translate_wf, State.onCur_mem]

theorem State.reach_wf (s : State) a1 a2 a3 a4 : State.MemOk s → State.MemOk (State.reach s a1 a2 a3 a4).1 := by unfold State.reach; grind (splits := 30) [State.memOk_def, State.place_wf]

theorem State.check_wf (s : State) a1 a2 a3 a4 : State.MemOk s → State.MemOk (State.check s a1 a2 a3 a4).1 := by unfold State.check; grind (splits := 30) [State.memOk_def, State.reach_wf]

theorem State.devPut_wf (s : State) a1 a2 a3 : State.MemOk s → State.MemOk (State.devPut s a1 a2 a3) := by unfold State.devPut; grind (splits := 30) [State.memOk_def, State.homeWrite_wf]

theorem State.ctlPut_wf (s : State) a1 a2 : State.MemOk s → State.MemOk (State.ctlPut s a1 a2) := by unfold State.ctlPut; grind (splits := 30) [State.memOk_def, State.devPut_wf]

theorem State.journalPut_wf (s : State) a1 : State.MemOk s → State.MemOk (State.journalPut s a1) := by
  intro h
  unfold State.journalPut
  dsimp only
  refine State.memOk_of_mem (State.signal_mem _ _) ?_
  split
  · exact State.ctlPut_wf _ _ _ (State.devPut_wf _ _ _ _ h)
  · exact State.devPut_wf _ _ _ _ h

theorem State.journalMove_wf (s : State) a1 a2 a3 a4 : State.MemOk s → State.MemOk (State.journalMove s a1 a2 a3 a4) := by unfold State.journalMove; grind (splits := 30) [State.memOk_def, State.journalPut_wf]

theorem State.ringPut_wf (s : State) a1 a2 a3 : State.MemOk s → State.MemOk (State.ringPut s a1 a2 a3) := by unfold State.ringPut; grind (splits := 30) [State.memOk_def, State.devPut_wf, State.signal_mem]

theorem State.postRecord_wf (s : State) a1 a2 a3 : State.MemOk s → State.MemOk (State.postRecord s a1 a2 a3).2 := by unfold State.postRecord; grind (splits := 30) [State.memOk_def, State.onJob_mem, State.ringPut_wf, State.devPut_wf]

theorem State.dropPortAsks_mem (s : State) a1 a2 : (State.dropPortAsks s a1 a2).mem = s.mem := by unfold State.dropPortAsks; rfl

theorem State.freePorts_mem (s : State) : (State.freePorts s).mem = s.mem := by unfold State.freePorts; (try dsimp only); repeat' (first | rfl | (apply foldl_mem; intro _ _) | split); all_goals (try grind (splits := 30) [State.onCore_mem, State.dropPortAsks_mem])

theorem State.freeCores_mem (s : State) a1 : (State.freeCores s a1).mem = s.mem := by unfold State.freeCores; rfl

theorem State.dropCopies_mem (s : State) a1 : (State.dropCopies s a1).mem = s.mem := by unfold State.dropCopies; rfl

theorem State.dropLineage_mem (s : State) a1 : (State.dropLineage s a1).mem = s.mem := by unfold State.dropLineage; rfl

theorem State.unbindRing_mem (s : State) a1 : (State.unbindRing s a1).mem = s.mem := by unfold State.unbindRing; grind (splits := 30) [State.onRing_mem]

theorem State.unbindRings_mem (s : State) : (State.unbindRings s).mem = s.mem := by unfold State.unbindRings; grind (splits := 30) [State.unbindRing_mem]

theorem State.dropAsks_mem (s : State) : (State.dropAsks s).mem = s.mem := by unfold State.dropAsks; rfl

theorem State.vacate_mem (s : State) : (State.vacate s).mem = s.mem := by unfold State.vacate; grind (splits := 30) [State.freePorts_mem, State.unbindRings_mem, State.dropAsks_mem]

theorem State.noteLocal_mem (s : State) a1 a2 : (State.noteLocal s a1 a2).mem = s.mem := by unfold State.noteLocal; rfl

theorem State.tell_mem (s : State) a1 a2 : (State.tell s a1 a2).mem = s.mem := by unfold State.tell; grind (splits := 30) [State.onPkg_mem]

theorem State.trigger_mem (s : State) a1 a2 : (State.trigger s a1 a2).mem = s.mem := by unfold State.trigger; grind (splits := 30) [State.onJob_mem, State.tell_mem]

theorem State.freezeJob_mem (s : State) a1 a2 a3 : (State.freezeJob s a1 a2 a3).mem = s.mem := by unfold State.freezeJob; grind (splits := 30) [State.onJob_mem, State.tell_mem]

theorem State.forUids_wf (s : State) a1 a2 (h2 : ∀ (y0 : State), State.MemOk y0 → State.MemOk (a2 y0)) : State.MemOk s → State.MemOk (State.forUids s a1 a2) := by unfold State.forUids; intro h; (try dsimp only); repeat' (first | assumption | apply foldl_wf | apply foldr_wf | apply foldl1_wf | apply foldl2_wf | apply State.asUid_wf | split | intro _); all_goals (try grind (splits := 30) [State.memOk_def, State.asUid_mem, State.asUid_wf])

theorem State.endJob_wf (s : State) a1 a2 a3 : State.MemOk s → State.MemOk (State.endJob s a1 a2 a3) := by unfold State.endJob; grind (splits := 30) [State.memOk_def, State.onJob_mem, State.freeCores_mem, State.journalMove_wf, State.dropCopies_mem, State.forUids_wf, State.dropLineage_mem, State.vacate_mem]

theorem State.endIfStopped_wf (s : State) a1 : State.MemOk s → State.MemOk (State.endIfStopped s a1) := by unfold State.endIfStopped; grind (splits := 30) [State.memOk_def, State.endJob_wf]

theorem State.requestStop_wf (s : State) a1 a2 a3 : State.MemOk s → State.MemOk (State.requestStop s a1 a2 a3) := by unfold State.requestStop; grind (splits := 30) [State.memOk_def, State.onJob_mem, State.mapStrands_mem, State.endJob_wf]

theorem State.killJob_wf (s : State) a1 a2 a3 : State.MemOk s → State.MemOk (State.killJob s a1 a2 a3) := by unfold State.killJob; grind (splits := 30) [State.memOk_def, State.requestStop_wf, State.endJob_wf]

theorem State.setPeer_mem (s : State) a1 a2 : (State.setPeer s a1 a2).mem = s.mem := by unfold State.setPeer; rfl

theorem State.queueSaved_mem (s : State) : (State.queueSaved s).mem = s.mem := by unfold State.queueSaved; rfl

theorem State.waitOn_mem (s : State) a1 a2 a3 a4 a5 a6 : (State.waitOn s a1 a2 a3 a4 a5 a6).mem = s.mem := by unfold State.waitOn; grind (splits := 30) [State.onCur_mem]

theorem State.readTok_mem (s : State) a1 : (State.readTok s a1).mem = s.mem := by unfold State.readTok; grind (splits := 30) [State.acquire_mem, State.onCur_mem]

theorem State.takePath_mem (s : State) a1 a2 : (State.takePath s a1 a2).2.mem = s.mem := by unfold State.takePath; grind (splits := 30) [State.setPeer_mem, State.onPkg_mem]

theorem State.sendPacket_mem (s : State) a1 a2 a3 a4 : (State.sendPacket s a1 a2 a3 a4).2.mem = s.mem := by unfold State.sendPacket; grind (splits := 30) [State.takePath_mem, State.setPeer_mem, State.onPkg_mem]

theorem State.askRemote_mem (s : State) a1 a2 a3 a4 a5 : (State.askRemote s a1 a2 a3 a4 a5).mem = s.mem := by unfold State.askRemote; grind (splits := 30) [State.waitOn_mem, State.sendPacket_mem, State.onPkg_mem]

theorem State.holdOn_mem (s : State) a1 : (State.holdOn s a1).mem = s.mem := by unfold State.holdOn; grind (splits := 30) [State.waitOn_mem]

theorem State.resumeFault_mem (s : State) : (State.resumeFault s).mem = s.mem := by unfold State.resumeFault; rfl

theorem State.jump_mem (s : State) a1 : (State.jump s a1).mem = s.mem := by unfold State.jump; rfl

theorem State.placeAll_wf (s : State) a1 : State.MemOk s → State.MemOk (State.placeAll s a1).1 := by fun_induction State.placeAll s a1 <;> grind (splits := 30) [State.memOk_def, State.place_wf]

theorem State.noteFar_mem (s : State) a1 a2 a3 a4 a5 : (State.noteFar s a1 a2 a3 a4 a5).mem = s.mem := by unfold State.noteFar; rfl

theorem State.publishOne_wf (s : State) a1 a2 a3 a4 : State.MemOk s → State.MemOk (State.publishOne s a1 a2 a3 a4) := by
  intro h
  unfold State.publishOne
  dsimp only
  split
  · with_reducible refine State.memOk_of_mem (State.onCur_mem _ _) ?_
    with_reducible exact State.writeHome_wf _ _ _ _ _ _ _ _ _ h
  split
  · with_reducible refine State.memOk_of_mem (State.noteFar_mem _ _ _ _ _ _) ?_
    with_reducible exact State.memOk_of_mem (State.onPkg_mem _ _) h
  · with_reducible refine State.memOk_of_mem (State.onCur_mem _ _) ?_
    with_reducible refine State.memOk_of_mem (State.noteFar_mem _ _ _ _ _ _) ?_
    with_reducible exact State.memOk_of_mem (State.sendPacket_mem _ _ _ _ _) h

theorem State.publishAll_wf (s : State) a1 a2 a3 a4 : State.MemOk s → State.MemOk (State.publishAll s a1 a2 a3 a4) := by fun_induction State.publishAll s a1 a2 a3 a4 <;> grind (splits := 30) [State.memOk_def, State.publishOne_wf]

theorem State.sendFar_wf (s : State) a1 a2 a3 : State.MemOk s → State.MemOk (State.sendFar s a1 a2 a3) := by unfold State.sendFar; grind (splits := 30) [State.memOk_def, State.holdOn_mem, State.onCur_mem, State.publishAll_wf]

theorem State.widen_mem (s : State) a1 a2 a3 : (State.widen s a1 a2 a3).mem = s.mem := by unfold State.widen; rfl

theorem State.sableWrite_wf (s : State) a1 a2 a3 a4 a5 a6 : State.MemOk s → State.MemOk (State.sableWrite s a1 a2 a3 a4 a5 a6) := by unfold State.sableWrite; grind (splits := 30) [State.memOk_def, State.notePartial_mem, State.cleanWhole_mem, State.poke_wf]

theorem State.keepStore_wf (s : State) a1 a2 a3 a4 : State.MemOk s → State.MemOk (State.keepStore s a1 a2 a3 a4) := by unfold State.keepStore; grind (splits := 30) [State.memOk_def, State.sableWrite_wf, State.onCur_mem]

theorem State.keepBytes_wf (s : State) a1 a2 a3 a4 : State.MemOk s → State.MemOk (State.keepBytes s a1 a2 a3 a4) := by fun_induction State.keepBytes s a1 a2 a3 a4 <;> grind (splits := 30) [State.memOk_def, State.keepStore_wf]

theorem State.markedLoad_wf {α : Type} (s : State) a1 a2 (a3 : State → α × State) (h3 : ∀ (y0 : State), State.MemOk y0 → State.MemOk (a3 y0).2) : State.MemOk s → State.MemOk (State.markedLoad s a1 a2 a3).2 :=
  fun h => State.memOk_of_mem (State.onCur_mem _ _) (h3 _ (State.memOk_of_mem (State.onCur_mem _ _) h))

theorem State.loadEl_wf (s : State) a1 a2 a3 : State.MemOk s → State.MemOk (State.loadEl s a1 a2 a3).1 := by
  intro h
  unfold State.loadEl
  dsimp only
  have hc := State.check_wf s s.cur a1 a2 (needOf a3) h
  repeat' split
  all_goals rename_i he
  all_goals (try (simp only [*] at hc))
  all_goals first
    | exact hc
    | exact State.markedLoad_wf _ _ _ _ (fun y hy => State.memOk_of_mem (State.loadHere_mem _ _ _ _) hy) hc

theorem State.storeEl_wf (s : State) a1 a2 a3 a4 : State.MemOk s → State.MemOk (State.storeEl s a1 a2 a3 a4).1 := by unfold State.storeEl; grind (splits := 30) [State.memOk_def, State.keepStore_wf, State.check_wf]

theorem State.preemptNow_wf (s : State) : State.MemOk s → State.MemOk (State.preemptNow s) := by unfold State.preemptNow; grind (splits := 30) [State.memOk_def, State.freePorts_mem, State.queueSaved_mem, State.endIfStopped_wf, State.vacate_mem, State.onCur_mem]

theorem State.preemptPoint_wf (s : State) : State.MemOk s → State.MemOk (State.preemptPoint s) := by unfold State.preemptPoint; grind (splits := 30) [State.memOk_def, State.preemptNow_wf]

theorem State.retire_wf (s : State) : State.MemOk s → State.MemOk (State.retire s) := by unfold State.retire; grind (splits := 30) [State.memOk_def, State.preemptPoint_wf, State.onCur_mem]

theorem State.stopJob_wf (s : State) a1 a2 : State.MemOk s → State.MemOk (State.stopJob s a1 a2) := by unfold State.stopJob; grind (splits := 30) [State.memOk_def, State.requestStop_wf, State.endIfStopped_wf, State.vacate_mem]

theorem State.applyPolicy_wf (s : State) a1 a2 a3 a4 : State.MemOk s → State.MemOk (State.applyPolicy s a1 a2 a3 a4) := by unfold State.applyPolicy; grind (splits := 30) [State.memOk_def, State.noteLocal_mem, State.stopJob_wf, State.trigger_mem, State.onCur_mem]

theorem State.takeFault_wf (s : State) a1 : State.MemOk s → State.MemOk (State.takeFault s a1) := by unfold State.takeFault; grind (splits := 30) [State.memOk_def, State.postRecord_wf, State.onCur_mem, State.noteLocal_mem, State.applyPolicy_wf]

theorem State.faultCode_wf (s : State) a1 a2 a3 a4 : State.MemOk s → State.MemOk (State.faultCode s a1 a2 a3 a4) := by unfold State.faultCode; grind (splits := 30) [State.memOk_def, State.takeFault_wf]

theorem State.boundedWait_wf (s : State) a1 a2 : State.MemOk s → State.MemOk (State.boundedWait s a1 a2) := by unfold State.boundedWait; grind (splits := 30) [State.memOk_def, State.takeFault_wf, State.waitOn_mem, State.onCur_mem]

theorem State.regWait_wf (s : State) a1 : State.MemOk s → State.MemOk (State.regWait s a1) := by unfold State.regWait; grind (splits := 30) [State.memOk_def, State.faultCode_wf, State.boundedWait_wf]

theorem State.finish_wf (s : State) a1 a2 a3 a4 a5 a6 : State.MemOk s → State.MemOk (State.finish s a1 a2 a3 a4 a5 a6) := by unfold State.finish; grind (splits := 30) [State.memOk_def, State.retire_wf, State.onCur_mem]

theorem readToks_wf (rs : List (BitVec 5)) (s : State) (h : s.MemOk) : (rs.foldl State.readTok s).MemOk :=
  foldl_wf _ (fun _ _ ha => State.memOk_of_mem (State.readTok_mem _ _) ha) rs s h

theorem State.issue_wf (s : State) a1 a2 a3 (h3 : ∀ (y0 : State), State.MemOk y0 → State.MemOk (a3 y0)) : State.MemOk s → State.MemOk (State.issue s a1 a2 a3) := by
  intro h
  unfold State.issue
  split
  · exact State.regWait_wf _ _ h
  · exact h3 _ (readToks_wf _ _ h)

theorem State.findLocks_wf (s : State) a1 : State.MemOk s → State.MemOk (State.findLocks s a1).1 := by
  intro h
  induction a1 generalizing s with
  | nil => exact h
  | cons p ps ih =>
    rw [State.findLocks]
    split
    · exact ih s h
    · split
      · exact ih s h
      · split
        all_goals rename_i hp; have hw := congrArg (fun r => r.1.MemOk) hp
        · exact hw ▸ State.place_wf s s.cur _ _ _ _ h
        · exact ih _ (hw ▸ State.place_wf s s.cur _ _ _ _ h)

theorem State.withGens_wf (s : State) a1 a2 (h2 : ∀ (y0 : State), State.MemOk y0 → State.MemOk (a2 y0)) : State.MemOk s → State.MemOk (State.withGens s a1 a2) := by
  intro h
  unfold State.withGens
  have := State.findLocks_wf s (List.filter a1 s.cur.pend) h
  split
  · rename_i hp; rw [hp] at this; exact State.takeFault_wf _ _ this
  · rename_i hp; rw [hp] at this
    split
    · exact State.memOk_of_mem (State.askRemote_mem _ _ _ _ _ _) this
    · exact h2 _ this

theorem State.withRelease_wf (s : State) a1 a2 a3 (h3 : ∀ y0 (y1 : State), State.MemOk y1 → State.MemOk (a3 y0 y1)) : State.MemOk s → State.MemOk (State.withRelease s a1 a2 a3) := by unfold State.withRelease; grind (splits := 30) [State.memOk_def, State.holdOn_mem, State.withGens_wf, State.placeAll_wf, State.takeFault_wf, State.onCur_mem, State.sendFar_wf, State.publishAll_wf, State.recordRelease_mem, State.widen_mem]

theorem State.publishIf_wf (s : State) a1 a2 (h2 : ∀ (y0 : State), State.MemOk y0 → State.MemOk (a2 y0)) : State.MemOk s → State.MemOk (State.publishIf s a1 a2) := by unfold State.publishIf; grind (splits := 30) [State.memOk_def, State.onCur_mem, State.holdOn_mem, State.withGens_wf, State.placeAll_wf, State.takeFault_wf, State.sendFar_wf, State.publishAll_wf]

theorem State.publishAt_wf (s : State) a1 a2 a3 (h3 : ∀ (y0 : State), State.MemOk y0 → State.MemOk (a3 y0)) : State.MemOk s → State.MemOk (State.publishAt s a1 a2 a3) := by unfold State.publishAt; grind (splits := 30) [State.memOk_def, State.publishIf_wf]

theorem State.clearOfMst_wf (s : State) a1 a2 a3 a4 (h4 : ∀ (y0 : State), State.MemOk y0 → State.MemOk (a4 y0)) : State.MemOk s → State.MemOk (State.clearOfMst s a1 a2 a3 a4) := by unfold State.clearOfMst; grind (splits := 30) [State.memOk_def, State.holdOn_mem]

theorem State.loadScalar_wf (s : State) a1 a2 a3 a4 a5 : State.MemOk s → State.MemOk (State.loadScalar s a1 a2 a3 a4 a5) := by
  unfold State.loadScalar
  apply State.issue_wf
  intro y hy
  apply State.clearOfMst_wf _ _ _ _ _ _ hy
  grind (splits := 30) [State.memOk_def, State.retire_wf, State.takeFault_wf, State.askRemote_mem, State.boundedWait_wf, State.loadEl_wf, State.onCur_mem]

theorem State.storeScalar_wf (s : State) a1 a2 a3 a4 : State.MemOk s → State.MemOk (State.storeScalar s a1 a2 a3 a4) := by
  unfold State.storeScalar
  apply State.issue_wf
  intro y hy
  apply State.clearOfMst_wf _ _ _ _ _ _ hy
  grind (splits := 30) [State.memOk_def, State.retire_wf, State.takeFault_wf, State.storeEl_wf]

/-- The state after reset has memory in its canonical form. -/
theorem reset_memOk : State.reset.MemOk := rfl

/-- n bytes of a number are n. -/
@[simp] theorem bytesOfNat_length (n v : Nat) : (bytesOfNat n v).length = n := by
  induction n generalizing v with
  | zero => rfl
  | succ n ih => simp [bytesOfNat, ih]

/-- A write at its home leaves every byte outside its range. -/
theorem State.homeWrite_other (s : State) (key loc n v : Nat) (rel : Option Nat) (x : Nat) (h : x < loc ∨ loc + n ≤ x) :
    (s.homeWrite key loc n v rel).mem.get memDefault x = s.mem.get memDefault x := by
  have e : (s.homeWrite key loc n v rel).mem = s.mem.setList memDefault loc (bytesOfNat n v) := by
    show (((s.poke key loc (bytesOfNat n v)).cleanWhole loc n).notePartial loc n).mem = _
    simp [State.poke]
  rw [e]
  exact SMap.get_setList_of_out memDefault s.mem loc _ x (by rw [bytesOfNat_length]; exact h)

end Sys2Proof.Machine
end

