-- ==== Sys2Proof/Laws/MemoryVector.lean ====
section
/-! SUPPORT. What vector loads, stores and conversions do to memory: nothing, or its canonical form is kept. -/

namespace Sys2Proof.Machine

set_option linter.unusedTactic false
set_option linter.unreachableTactic false

theorem State.drained_mem (s : State) a1 (h1 : ∀ (y0 : State), (a1 y0).mem = y0.mem) : (State.drained s a1).mem = s.mem := by unfold State.drained; grind (splits := 30) [State.holdOn_mem]

theorem State.drained_wf (s : State) a1 (h1 : ∀ (y0 : State), State.MemOk y0 → State.MemOk (a1 y0)) : State.MemOk s → State.MemOk (State.drained s a1) := by unfold State.drained; grind (splits := 30) [State.memOk_def, State.holdOn_mem]

theorem State.takeStrip_mem (s : State) a1 : (State.takeStrip s a1).mem = s.mem := by unfold State.takeStrip; grind (splits := 30) [State.onCur_mem]

theorem State.onPort_mem (s : State) a1 a2 a3 : (State.onPort s a1 a2 a3).mem = s.mem := by unfold State.onPort; rfl

theorem State.eatStrip_mem (s : State) a1 : (State.eatStrip s a1).mem = s.mem := by unfold State.eatStrip; grind (splits := 30) [State.onPort_mem, State.onCur_mem]

theorem State.vscalar_mem (s : State) a1 a2 : (State.vscalar s a1 a2).mem = s.mem := by unfold State.vscalar; rfl

theorem State.stripWait_wf (s : State) a1 : State.MemOk s → State.MemOk (State.stripWait s a1) := by unfold State.stripWait; grind (splits := 30) [State.memOk_def, State.onPort_mem, State.faultCode_wf, State.boundedWait_wf]

theorem State.vdone_wf (s : State) a1 : State.MemOk s → State.MemOk (State.vdone s a1) := by unfold State.vdone; ((intro h; try dsimp only); (repeat' (first | assumption | with_reducible refine State.memOk_of_mem (State.eatStrip_mem _ _) ?_ | with_reducible apply State.retire_wf | with_reducible apply foldl_wf | with_reducible apply foldr_wf | with_reducible apply foldl1_wf | with_reducible apply foldl2_wf | split | (intro _; try dsimp only))); all_goals (try grind (splits := 30) [State.memOk_def, State.eatStrip_mem, State.retire_wf]))

theorem takeStrips_wf (vs : List (BitVec 5)) (s : State) (h : s.MemOk) : (vs.foldl State.takeStrip s).MemOk :=
  foldl_wf _ (fun _ _ ha => State.memOk_of_mem (State.takeStrip_mem _ _) ha) vs s h

theorem State.strips_wf (s : State) a1 a2 (h2 : ∀ (y0 : State), State.MemOk y0 → State.MemOk (a2 y0)) : State.MemOk s → State.MemOk (State.strips s a1 a2) := by
  intro h
  unfold State.strips
  split
  · exact State.stripWait_wf _ _ h
  · exact h2 _ (takeStrips_wf _ _ h)

theorem State.vissue_wf (s : State) a1 a2 a3 a4 a5 a6 (h6 : ∀ (y0 : State), State.MemOk y0 → State.MemOk (a6 y0)) : State.MemOk s → State.MemOk (State.vissue s a1 a2 a3 a4 a5 a6) := by unfold State.vissue; grind (splits := 30) [State.memOk_def, State.issue_wf, State.strips_wf, State.faultCode_wf, State.holdOn_mem]

theorem State.mergeAll_wf (s : State) a1 a2 : State.MemOk s → State.MemOk (State.mergeAll s a1 a2).1 := by fun_induction State.mergeAll s a1 a2 <;> grind (splits := 30) [State.memOk_def, State.check_wf, State.loadHere_mem, State.storeEl_wf]

theorem execWopen_wf a0 a1 (s : State) : State.MemOk s → ∀ t, execWopen a0 a1 s = Host.Outcome.next t → State.MemOk t := by unfold execWopen; grind (splits := 30) [State.memOk_def, State.retire_wf, State.faultCode_wf, State.onCur_mem, State.vissue_wf]

theorem execVtype_wf a0 a1 (s : State) : State.MemOk s → ∀ t, execVtype a0 a1 s = Host.Outcome.next t → State.MemOk t := by unfold execVtype; grind (splits := 30) [State.memOk_def, State.retire_wf, State.issue_wf, State.faultCode_wf, State.onCur_mem]

theorem State.afterMst_wf (s : State) a1 (h1 : ∀ (y0 : State), State.MemOk y0 → State.MemOk (a1 y0)) : State.MemOk s → State.MemOk (State.afterMst s a1) := by unfold State.afterMst; grind (splits := 30) [State.memOk_def, State.holdOn_mem]

theorem execWmerge_wf a0 (s : State) : State.MemOk s → ∀ t, execWmerge a0 s = Host.Outcome.next t → State.MemOk t := by
  intro h t ht
  unfold execWmerge at ht
  cases ht
  refine State.vissue_wf _ _ _ _ _ _ _ (fun y hy => State.afterMst_wf _ _ (fun z hz => ?_) hy) h
  grind (splits := 30) [State.memOk_def, State.retire_wf, State.takeFault_wf, State.faultCode_wf, State.mergeAll_wf, State.onCur_mem]

theorem execVlmax_wf a0 (s : State) : State.MemOk s → ∀ t, execVlmax a0 s = Host.Outcome.next t → State.MemOk t := by unfold execVlmax; grind (splits := 30) [State.memOk_def, State.retire_wf, State.issue_wf, State.onCur_mem]

theorem execStrip_wf a0 a1 a2 (s : State) : State.MemOk s → ∀ t, execStrip a0 a1 a2 s = Host.Outcome.next t → State.MemOk t := by unfold execStrip; grind (splits := 30) [State.memOk_def, State.retire_wf, State.onCur_mem, State.vissue_wf]

theorem State.vconv_wf (s : State) a1 a2 a3 a4 a5 a6 : State.MemOk s → State.MemOk (State.vconv s a1 a2 a3 a4 a5 a6) := by unfold State.vconv; grind (splits := 30) [State.memOk_def, State.faultCode_wf, State.vdone_wf, State.onCur_mem, State.vissue_wf]

theorem execVcvt_wf a0 a1 a2 a3 a4 (s : State) : State.MemOk s → ∀ t, execVcvt a0 a1 a2 a3 a4 s = Host.Outcome.next t → State.MemOk t := by unfold execVcvt; grind (splits := 30) [State.memOk_def, State.vconv_wf]

theorem execVunpk_wf a0 a1 a2 a3 (s : State) : State.MemOk s → ∀ t, execVunpk a0 a1 a2 a3 s = Host.Outcome.next t → State.MemOk t := by unfold execVunpk; grind (splits := 30) [State.memOk_def, State.faultCode_wf, State.vdone_wf, State.onCur_mem, State.vissue_wf]

theorem execVpack_wf a0 a1 a2 a3 a4 (s : State) : State.MemOk s → ∀ t, execVpack a0 a1 a2 a3 a4 s = Host.Outcome.next t → State.MemOk t := by unfold execVpack; grind (splits := 30) [State.memOk_def, State.faultCode_wf, State.vdone_wf, State.onCur_mem, State.vissue_wf]

theorem execVcvtSat_wf a0 a1 a2 a3 a4 (s : State) : State.MemOk s → ∀ t, execVcvtSat a0 a1 a2 a3 a4 s = Host.Outcome.next t → State.MemOk t := by unfold execVcvtSat; grind (splits := 30) [State.memOk_def, State.vconv_wf]

theorem State.loadBytes_mem (s : State) (key n loc : Nat) : (State.loadBytes s key n loc).2.mem = s.mem := by
  induction n generalizing s loc with
  | zero => rfl
  | succ n ih => exact (ih (s.loadHere key loc 1).2 _).trans (State.loadHere_mem s key loc 1)

theorem State.loadPlaces_mem (s : State) a1 : (State.loadPlaces s a1).2.mem = s.mem := by unfold State.loadPlaces; rfl

theorem State.loadSeg_mem (s : State) a1 a2 a3 a4 a5 : (State.loadSeg s a1 a2 a3 a4 a5).2.2.mem = s.mem := by unfold State.loadSeg; rfl

theorem State.readBlk_mem (s : State) a1 : (State.readBlk s a1).2.mem = s.mem := by unfold State.readBlk; grind (splits := 30) [State.loadBytes_mem, State.loadSeg_mem]

theorem State.keepView_mem (s : State) (a1 : State) (h1 : a1.mem = s.mem) : (State.keepView s a1).mem = s.mem := by unfold State.keepView; rfl

theorem State.fmtCheck_wf (s : State) a1 a2 a3 a4 a5 : State.MemOk s → State.MemOk (State.fmtCheck s a1 a2 a3 a4 a5).1 := by unfold State.fmtCheck; grind (splits := 30) [State.memOk_def, State.place_wf]

theorem State.fmtStoreCheck_wf (s : State) a1 a2 a3 a4 : State.MemOk s → State.MemOk (State.fmtStoreCheck s a1 a2 a3 a4).1 := by fun_induction State.fmtStoreCheck s a1 a2 a3 a4 <;> grind (splits := 30) [State.memOk_def, State.fmtCheck_wf]

theorem State.keepSeg_wf (s : State) a1 a2 a3 a4 a5 a6 a7 a8 : State.MemOk s → State.MemOk (State.keepSeg s a1 a2 a3 a4 a5 a6 a7 a8) := by unfold State.keepSeg; grind (splits := 30) [State.memOk_def, State.sableWrite_wf, State.keepStore_wf]

theorem State.storeBlk_wf (s : State) a1 a2 a3 a4 : State.MemOk s → State.MemOk (State.storeBlk s a1 a2 a3 a4).1 := by unfold State.storeBlk; grind (splits := 30) [State.memOk_def, State.keepBytes_wf, State.keepSeg_wf]

theorem State.checkRest_wf (s : State) a1 a2 : State.MemOk s → State.MemOk (State.checkRest s a1 a2) := by
  intro h
  unfold State.checkRest
  exact foldl_wf _ (fun _ _ ha => State.check_wf _ _ _ _ _ ha) _ _ h

theorem State.fmtRest_wf (s : State) a1 a2 a3 a4 : State.MemOk s → State.MemOk (State.fmtRest s a1 a2 a3 a4) := by
  intro h
  unfold State.fmtRest
  exact foldl_wf _ (fun _ _ ha => State.fmtCheck_wf _ _ _ _ _ _ ha) _ _ h

theorem State.fmtLoad_wf (s : State) a1 a2 a3 a4 a5 : State.MemOk s → State.MemOk (State.fmtLoad s a1 a2 a3 a4 a5).1 := by
  have hr (y : State) (hy : y.MemOk) (b : Blk) : (y.markedLoad b.eva (blockElemBytes b.ty) fun s => s.markedLoad b.sva (scaleBytes b.ty) fun s => s.readBlk b).2.MemOk :=
    State.markedLoad_wf _ _ _ _ (fun _ h1 => State.markedLoad_wf _ _ _ _ (fun _ h2 => State.memOk_of_mem (State.readBlk_mem _ _) h2) h1) hy
  fun_induction State.fmtLoad s a1 a2 a3 a4 a5 <;> grind (splits := 30) [State.memOk_def, State.fmtCheck_wf, State.fmtRest_wf]

theorem State.storeSeq_wf (s : State) a1 a2 a3 : State.MemOk s → State.MemOk (State.storeSeq s a1 a2 a3).1 := by fun_induction State.storeSeq s a1 a2 a3 <;> grind (splits := 30) [State.memOk_def, State.storeEl_wf]

theorem State.loadSeq_wf (s : State) a1 a2 a3 : State.MemOk s → State.MemOk (State.loadSeq s a1 a2 a3).1 := by fun_induction State.loadSeq s a1 a2 a3 <;> grind (splits := 30) [State.memOk_def, State.loadEl_wf, State.checkRest_wf]

theorem State.vecFault_wf (s : State) a1 a2 a3 a4 : State.MemOk s → State.MemOk (State.vecFault s a1 a2 a3 a4) := by unfold State.vecFault; grind (splits := 30) [State.memOk_def, State.takeFault_wf, State.onCur_mem]

theorem State.vecStop_wf (s : State) (a1 : State) a2 (a3 : State) (h1 : State.MemOk a1) (h3 : State.MemOk a3) : State.MemOk s → State.MemOk (State.vecStop s a1 a2 a3) := by unfold State.vecStop; ((intro h; try dsimp only); (repeat' (first | assumption | with_reducible apply State.vecFault_wf | with_reducible refine State.memOk_of_mem (State.askRemote_mem _ _ _ _ _ _) ?_ | with_reducible refine State.memOk_of_mem (State.keepView_mem _ _) ?_ | with_reducible apply State.boundedWait_wf | split | (intro _; try dsimp only))); all_goals (try grind (splits := 30) [State.memOk_def, State.vecFault_wf, State.askRemote_mem, State.keepView_mem, State.boundedWait_wf]))

theorem execVstf_wf a0 a1 a2 a3 (s : State) : State.MemOk s → ∀ t, execVstf a0 a1 a2 a3 s = Host.Outcome.next t → State.MemOk t := by
  intro h t ht
  unfold execVstf at ht
  cases ht
  refine State.vissue_wf _ _ _ _ _ _ _ (fun y hy => State.afterMst_wf _ _ (fun z hz => ?_) hy) h
  have hgo (u : State) (hu : u.MemOk) (bs : List (Nat × Blk)) : (bs.foldl (fun x b => ((x.1.storeBlk a0 a2 b.1 b.2).1, x.2 ||| (x.1.storeBlk a0 a2 b.1 b.2).2)) (u, (0 : Flags))).1.MemOk :=
    foldl1_wf (fun x (b : Nat × Blk) => ((x.1.storeBlk a0 a2 b.1 b.2).1, x.2 ||| (x.1.storeBlk a0 a2 b.1 b.2).2)) (fun _ _ hx => State.storeBlk_wf _ _ _ _ _ hx) bs _ hu
  have hc (p : Word) (q : Nat) (l : List Nat) : (z.fmtStoreCheck p q [] l).1.MemOk := State.fmtStoreCheck_wf _ _ _ _ _ hz
  dsimp only
  split
  · exact State.vecFault_wf _ _ _ _ _ hz
  · split
    · exact State.vdone_wf _ _ (State.memOk_of_mem (State.onCur_mem _ _) (hgo _ (hc _ _ _) _))
    · exact State.vecFault_wf _ _ _ _ _ (hgo _ (hc _ _ _) _)

theorem execVldf_wf a0 a1 a2 a3 (s : State) : State.MemOk s → ∀ t, execVldf a0 a1 a2 a3 s = Host.Outcome.next t → State.MemOk t := by
  intro h t ht
  unfold execVldf at ht
  cases ht
  refine State.vissue_wf _ _ _ _ _ _ _ (fun y hy => State.afterMst_wf _ _ (fun z hz => ?_) hy) h
  grind (splits := 30) [State.memOk_def, State.retire_wf, State.vecFault_wf, State.fmtLoad_wf, State.vecStop_wf, State.onCur_mem]

theorem State.vstore_wf (s : State) a1 a2 a3 a4 a5 a6 : State.MemOk s → State.MemOk (State.vstore s a1 a2 a3 a4 a5 a6) := by
  intro h
  unfold State.vstore
  refine State.vissue_wf _ _ _ _ _ _ _ (fun y hy => State.afterMst_wf _ _ (fun z hz => ?_) hy) h
  grind (splits := 30) [State.memOk_def, State.storeSeq_wf, State.vecFault_wf, State.vdone_wf]

theorem execVsts_wf a0 a1 a2 a3 (s : State) : State.MemOk s → ∀ t, execVsts a0 a1 a2 a3 s = Host.Outcome.next t → State.MemOk t := by unfold execVsts; grind (splits := 30) [State.memOk_def, State.vstore_wf]

theorem State.vload_wf (s : State) a1 a2 a3 a4 a5 a6 : State.MemOk s → State.MemOk (State.vload s a1 a2 a3 a4 a5 a6) := by
  intro h
  unfold State.vload
  refine State.vissue_wf _ _ _ _ _ _ _ (fun y hy => State.afterMst_wf _ _ (fun z hz => ?_) hy) h
  grind (splits := 30) [State.memOk_def, State.loadSeq_wf, State.vdone_wf, State.vecStop_wf, State.onCur_mem]

theorem execVlds_wf a0 a1 a2 a3 (s : State) : State.MemOk s → ∀ t, execVlds a0 a1 a2 a3 s = Host.Outcome.next t → State.MemOk t := by unfold execVlds; grind (splits := 30) [State.memOk_def, State.vload_wf]

theorem execVldseg_wf a0 a1 a2 a3 a4 (s : State) : State.MemOk s → ∀ t, execVldseg a0 a1 a2 a3 a4 s = Host.Outcome.next t → State.MemOk t := by
  intro h t ht
  unfold execVldseg at ht
  split at ht
  · cases ht; exact State.faultCode_wf _ _ _ _ _ h
  cases ht
  refine State.vissue_wf _ _ _ _ _ _ _ (fun y hy => State.afterMst_wf _ _ (fun z hz => ?_) hy) h
  grind (splits := 30) [State.memOk_def, State.retire_wf, State.loadSeq_wf, State.vecStop_wf, State.onCur_mem]

theorem execVldx_wf a0 a1 a2 a3 (s : State) : State.MemOk s → ∀ t, execVldx a0 a1 a2 a3 s = Host.Outcome.next t → State.MemOk t := by unfold execVldx; grind (splits := 30) [State.memOk_def, State.vload_wf]

theorem execVldb_wf a0 a1 a2 a3 (s : State) : State.MemOk s → ∀ t, execVldb a0 a1 a2 a3 s = Host.Outcome.next t → State.MemOk t := by
  intro h t ht
  unfold execVldb at ht
  cases ht
  refine State.vissue_wf _ _ _ _ _ _ _ (fun y hy => State.afterMst_wf _ _ (fun z hz => ?_) hy) h
  grind (splits := 30) [State.memOk_def, State.retire_wf, State.vecFault_wf, State.fmtLoad_wf, State.vecStop_wf, State.onCur_mem]

theorem execVstx_wf a0 a1 a2 a3 (s : State) : State.MemOk s → ∀ t, execVstx a0 a1 a2 a3 s = Host.Outcome.next t → State.MemOk t := by unfold execVstx; grind (splits := 30) [State.memOk_def, State.vstore_wf]

theorem execVstxa_wf a0 a1 a2 a3 (s : State) : State.MemOk s → ∀ t, execVstxa a0 a1 a2 a3 s = Host.Outcome.next t → State.MemOk t := by unfold execVstxa; grind (splits := 30) [State.memOk_def, State.vecFault_wf, State.faultCode_wf, State.vdone_wf, State.onCur_mem, State.vissue_wf]

theorem execVst_wf a0 a1 a2 a3 (s : State) : State.MemOk s → ∀ t, execVst a0 a1 a2 a3 s = Host.Outcome.next t → State.MemOk t := by unfold execVst; grind (splits := 30) [State.memOk_def, State.vstore_wf]

theorem execVld_wf a0 a1 a2 a3 (s : State) : State.MemOk s → ∀ t, execVld a0 a1 a2 a3 s = Host.Outcome.next t → State.MemOk t := by unfold execVld; grind (splits := 30) [State.memOk_def, State.vload_wf]

theorem execVstseg_wf a0 a1 a2 a3 a4 (s : State) : State.MemOk s → ∀ t, execVstseg a0 a1 a2 a3 a4 s = Host.Outcome.next t → State.MemOk t := by
  intro h t ht
  unfold execVstseg at ht
  split at ht
  · cases ht; exact State.faultCode_wf _ _ _ _ _ h
  cases ht
  refine State.vissue_wf _ _ _ _ _ _ _ (fun y hy => State.afterMst_wf _ _ (fun z hz => ?_) hy) h
  grind (splits := 30) [State.memOk_def, State.storeSeq_wf, State.vecFault_wf, State.vdone_wf, State.onCur_mem]

theorem execVldff_wf a0 a1 a2 a3 (s : State) : State.MemOk s → ∀ t, execVldff a0 a1 a2 a3 s = Host.Outcome.next t → State.MemOk t := by
  intro h t ht
  unfold execVldff at ht
  cases ht
  refine State.vissue_wf _ _ _ _ _ _ _ (fun z hz => State.afterMst_wf _ _ (fun y hy => ?_) hz) h
  have h1 := State.loadSeq_wf y (widthOf y.cur.vty / 8) false (y.cur.accs a2 (y.cur.unitAddr a1 a3)) hy
  dsimp only
  split
  · split
    · exact State.vecFault_wf _ _ _ _ _ (State.memOk_of_mem (s := (y.loadSeq (widthOf y.cur.vty / 8) false (y.cur.accs a2 (y.cur.unitAddr a1 a3))).1) rfl h1)
    · exact State.retire_wf _ (State.memOk_of_mem (State.onCur_mem _ _) h1)
  · exact State.vecStop_wf _ _ _ _ hy (State.retire_wf _ (State.memOk_of_mem (State.onCur_mem _ _) h1)) h1

end Sys2Proof.Machine
end

