-- ==== Sys2Proof/Laws/MemorySync.lean ====
section
/-! SUPPORT. What barriers, locks, rings, handles, tasks and atomics do to memory: nothing, or its canonical form is kept. -/

namespace Sys2Proof.Machine

set_option linter.unusedTactic false
set_option linter.unreachableTactic false

theorem State.setBar_mem (s : State) a1 a2 a3 : (State.setBar s a1 a2 a3).mem = s.mem := by unfold State.setBar; rfl

theorem State.setWorkQ_mem (s : State) a1 a2 a3 : (State.setWorkQ s a1 a2 a3).mem = s.mem := by unfold State.setWorkQ; rfl



theorem State.setTaskQ_mem (s : State) a1 a2 a3 : (State.setTaskQ s a1 a2 a3).mem = s.mem := by unfold State.setTaskQ; rfl

theorem State.rotateRings_wf (s : State) a1 a2 : State.MemOk s → State.MemOk (State.rotateRings s a1 a2) := by unfold State.rotateRings; intro h; (try dsimp only); repeat' (first | assumption | apply foldl_wf | apply foldr_wf | apply foldl1_wf | apply foldl2_wf | split | intro _); all_goals (try grind (splits := 30) [State.memOk_def, State.mapStrands_mem])

theorem State.closeObj_wf (s : State) a1 a2 a3 a4 a5 : State.MemOk s → State.MemOk (State.closeObj s a1 a2 a3 a4 a5) := by unfold State.closeObj; grind (splits := 30) [State.memOk_def, State.rotateRings_wf, State.setBar_mem]

theorem State.closePhase_wf (s : State) a1 a2 : State.MemOk s → State.MemOk (State.closePhase s a1 a2) := by unfold State.closePhase; intro h; (try dsimp only); repeat' (first | assumption | apply foldl_wf | apply foldr_wf | apply foldl1_wf | apply foldl2_wf | split | intro _); all_goals (try grind (splits := 30) [State.memOk_def, State.closeObj_wf])

theorem State.closeWhile_wf (s : State) a1 a2 a3 : State.MemOk s → State.MemOk (State.closeWhile s a1 a2 a3) := by fun_induction State.closeWhile s a1 a2 a3 <;> grind (splits := 30) [State.memOk_def, State.closePhase_wf]

theorem State.settleBar_wf (s : State) a1 a2 : State.MemOk s → State.MemOk (State.settleBar s a1 a2) := by unfold State.settleBar; grind (splits := 30) [State.memOk_def, State.closeWhile_wf]

theorem State.atomicPut_wf (s : State) a1 a2 a3 a4 a5 : State.MemOk s → State.MemOk (State.atomicPut s a1 a2 a3 a4 a5) := by unfold State.atomicPut; grind (splits := 30) [State.memOk_def, State.homeWrite_wf, State.onCur_mem]

theorem State.objPut_wf (s : State) a1 a2 a3 a4 : State.MemOk s → State.MemOk (State.objPut s a1 a2 a3 a4) := by unfold State.objPut; grind (splits := 30) [State.memOk_def, State.atomicPut_wf]

theorem State.lockTake_wf (s : State) a1 a2 : State.MemOk s → State.MemOk (State.lockTake s a1 a2).2 := by unfold State.lockTake; grind (splits := 30) [State.memOk_def, State.objPut_wf, State.onCur_mem]

theorem State.countArrival_wf (s : State) a1 a2 a3 a4 a5 : State.MemOk s → State.MemOk (State.countArrival s a1 a2 a3 a4 a5) := by unfold State.countArrival; grind (splits := 30) [State.memOk_def, State.settleBar_wf, State.setBar_mem]

theorem State.sendPeer_mem (s : State) a1 a2 a3 a4 a5 a6 a7 a8 : (State.sendPeer s a1 a2 a3 a4 a5 a6 a7 a8).2.mem = s.mem := by unfold State.sendPeer; grind (splits := 30) [State.sendPacket_mem]

theorem State.dropOutstanding_mem (s : State) a1 a2 : (State.dropOutstanding s a1 a2).mem = s.mem := by unfold State.dropOutstanding; rfl

theorem State.vamoReport_mem (s : State) a1 a2 : (State.vamoReport s a1 a2).mem = s.mem := by unfold State.vamoReport; grind (splits := 30) [State.dropOutstanding_mem, State.onCur_mem]

theorem State.atomReply_mem (s : State) a1 : (State.atomReply s a1).mem = s.mem := by unfold State.atomReply; rfl

theorem State.postProxy_wf (s : State) a1 a2 a3 a4 a5 a6 : State.MemOk s → State.MemOk (State.postProxy s a1 a2 a3 a4 a5 a6).2 := by unfold State.postProxy; grind (splits := 30) [State.memOk_def, State.onPkg_mem, State.signal_mem, State.ctlPut_wf]

theorem State.sendHost_wf (s : State) a1 a2 a3 a4 a5 a6 : State.MemOk s → State.MemOk (State.sendHost s a1 a2 a3 a4 a5 a6).2 := by
  intro h
  unfold State.sendHost
  dsimp only
  generalize a4.loc - 2 ^ 64 = bus
  split
  · exact h
  · split
    · split
      · exact h
      · split
        · exact h
        · exact State.postProxy_wf s a1 a2 bus a3 a5 (if a1 = 11 then a6 else 0) h
    · exact h

theorem State.vamoExpire_wf (s : State) : State.MemOk s → State.MemOk (State.vamoExpire s) := by unfold State.vamoExpire; intro h; (try dsimp only); repeat' (first | assumption | apply foldl_wf | apply foldr_wf | apply foldl1_wf | apply foldl2_wf | split | intro _); all_goals (try grind (splits := 30) [State.memOk_def, State.vamoReport_mem])

theorem State.opReply_wf (s : State) a1 a2 a3 : State.MemOk s → State.MemOk (State.opReply s a1 a2 a3) := by unfold State.opReply; grind (splits := 30) [State.memOk_def, State.takeFault_wf, State.asUid_mem, State.asUid_wf, State.vamoReport_mem, State.atomReply_mem]

theorem State.tlAcquire_mem (s : State) a1 a2 : (State.tlAcquire s a1 a2).mem = s.mem := by unfold State.tlAcquire; rfl

theorem State.chunkAcquire_wf (s : State) a1 a2 : State.MemOk s → State.MemOk (State.chunkAcquire s a1 a2) := by unfold State.chunkAcquire; intro h; (try dsimp only); repeat' (first | assumption | apply foldl_wf | apply foldr_wf | apply foldl1_wf | apply foldl2_wf | split | intro _); all_goals (try grind (splits := 30) [State.memOk_def, State.acquire_mem, State.onCur_mem])

theorem State.lapse_wf (s : State) a1 : State.MemOk s → State.MemOk (State.lapse s a1) := by unfold State.lapse; grind (splits := 30) [State.memOk_def, State.acquire_mem, State.finish_wf, State.onCur_mem]

theorem State.finishBarrier_wf (s : State) a1 a2 a3 a4 : State.MemOk s → State.MemOk (State.finishBarrier s a1 a2 a3 a4) := by unfold State.finishBarrier; grind (splits := 30) [State.memOk_def, State.acquire_mem, State.finish_wf]

theorem State.expireNow_wf (s : State) a1 : State.MemOk s → State.MemOk (State.expireNow s a1) := by unfold State.expireNow; grind (splits := 30) [State.memOk_def, State.lapse_wf, State.vamoExpire_wf, State.onPkg_mem, State.takeFault_wf]

theorem State.expire_wf (s : State) a1 : State.MemOk s → State.MemOk (State.expire s a1) := by unfold State.expire; grind (splits := 30) [State.memOk_def, State.expireNow_wf, State.finish_wf]

theorem State.declineHold_wf (s : State) : State.MemOk s → State.MemOk (State.declineHold s) := by unfold State.declineHold; grind (splits := 30) [State.memOk_def, State.applyPolicy_wf]

theorem State.budgetSpent_mem (s : State) : (State.budgetSpent s).mem = s.mem := by unfold State.budgetSpent; grind (splits := 30) [State.onCur_mem]

theorem State.preemptHere_wf (s : State) : State.MemOk s → State.MemOk (State.preemptHere s) := by unfold State.preemptHere; grind (splits := 30) [State.memOk_def, State.expireNow_wf, State.preemptNow_wf]

theorem State.dropEntry_mem (s : State) a1 : (State.dropEntry s a1).mem = s.mem := by unfold State.dropEntry; rfl

theorem State.entryFault_wf (s : State) a1 a2 a3 a4 : State.MemOk s → State.MemOk (State.entryFault s a1 a2 a3 a4) := by unfold State.entryFault; grind (splits := 30) [State.memOk_def, State.faultCode_wf, State.onCur_mem, State.dropAsks_mem, State.dropEntry_mem]

theorem State.expireRows_wf (s : State) a1 : State.MemOk s → State.MemOk (State.expireRows s a1) := by unfold State.expireRows; grind (splits := 30) [State.memOk_def, State.entryFault_wf]

theorem State.settleCur_wf (s : State) : State.MemOk s → State.MemOk (State.settleCur s) := by unfold State.settleCur; grind (splits := 30) [State.memOk_def, State.expireRows_wf, State.budgetSpent_mem, State.preemptHere_wf, State.declineHold_wf, State.expire_wf]

theorem State.settleAll_wf (s : State) : State.MemOk s → State.MemOk (State.settleAll s) := by unfold State.settleAll; ((intro h; try dsimp only); (repeat' (first | assumption | with_reducible apply State.settleBar_wf | with_reducible apply State.settleCur_wf | with_reducible refine State.memOk_of_mem (State.freezeJob_mem _ _ _) ?_ | with_reducible apply foldl_wf | with_reducible apply foldr_wf | with_reducible apply foldl1_wf | with_reducible apply foldl2_wf | with_reducible apply State.forUids_wf | split | (intro _; try dsimp only))); all_goals (try grind (splits := 30) [State.memOk_def, State.settleBar_wf, State.settleCur_wf, State.forUids_wf, State.freezeJob_mem]))

theorem State.settled_wf (s : State) : State.MemOk s → State.MemOk (State.settled s) := by unfold State.settled; grind (splits := 30) [State.memOk_def, State.settleAll_wf]


theorem State.homeDecide_wf (s : State) a1 : State.MemOk s → ∀ r, State.homeDecide s a1 = some r → State.MemOk r := by
  intro h r hr
  unfold State.homeDecide at hr
  split at hr
  case h_11 =>
    split at hr
    · cases hr
    · next o _ =>
      have hl := State.memOk_of_mem (foldl_mem svcLoad svcLoad_mem (List.range 8) s) h
      have := Option.some.inj hr
      subst this
      exact State.finish_wf _ _ _ _ _ _ _ hl
  all_goals grind [State.memOk_def, State.acquire_mem, State.setWorkQ_mem, State.tlAcquire_mem, State.faultCode_wf, State.objPut_wf, State.onRing_mem, State.finish_wf, State.finishBarrier_wf, State.chunkAcquire_wf, State.lockTake_wf, State.onCur_mem]

theorem decided_wf (s : State) (w : Wait) (h : s.MemOk) : ((s.homeDecide w).getD s).MemOk := by
  cases hd : s.homeDecide w with
  | none => exact h
  | some r => exact State.homeDecide_wf s w h r hd

theorem State.deadlineWait_wf (s : State) a1 a2 a3 a4 : State.MemOk s → State.MemOk (State.deadlineWait s a1 a2 a3 a4) := by
  intro h
  unfold State.deadlineWait
  dsimp only
  have h1 := State.memOk_of_mem (State.waitOn_mem s a1 a2 a3 (some (s.pollDl a4).1) (s.pollDl a4).2 none) h
  split
  · exact h1
  · next w _ =>
    split
    · exact State.lapse_wf _ _ h1
    · split
      · next hd => exact State.homeDecide_wf _ w h1 _ hd
      · split
        · exact State.lapse_wf _ _ h1
        · exact h1

theorem State.collect_wf (s : State) : State.MemOk s → State.MemOk (State.collect s) := by
  intro h
  unfold State.collect
  split
  · exact h
  · exact ite_wf (decided_wf _ _ h) h

theorem State.poll_wf (s : State) : State.MemOk s → State.MemOk (State.poll s) := by unfold State.poll; intro h; (try dsimp only); repeat' (first | assumption | apply foldl_wf | apply foldr_wf | apply foldl1_wf | apply foldl2_wf | apply State.asUid_wf | split | intro _); all_goals (try grind (splits := 30) [State.memOk_def, State.asUid_mem, State.asUid_wf, State.collect_wf])

theorem State.atomCheck_wf (s : State) a1 a2 a3 : State.MemOk s → State.MemOk (State.atomCheck s a1 a2 a3).1 := by unfold State.atomCheck; grind (splits := 30) [State.memOk_def, State.place_wf]

theorem State.atomHere_wf (s : State) a1 a2 a3 a4 a5 a6 : State.MemOk s → State.MemOk (State.atomHere s a1 a2 a3 a4 a5 a6).2 := by unfold State.atomHere; grind (splits := 30) [State.memOk_def, State.atomicPut_wf, State.onCur_mem]

theorem State.vamoSeq_wf (s : State) a1 a2 : State.MemOk s → State.MemOk (State.vamoSeq s a1 a2).1 := by
  fun_induction State.vamoSeq s a1 a2 <;> grind (splits := 30) [State.memOk_def, State.sendPeer_mem, State.atomCheck_wf, State.sendHost_wf, State.atomHere_wf, State.onCur_mem]

theorem State.sendAtom_wf (s : State) a1 a2 a3 a4 a5 a6 a7 a8 : State.MemOk s → State.MemOk (State.sendAtom s a1 a2 a3 a4 a5 a6 a7 a8) := by unfold State.sendAtom; grind (splits := 30) [State.memOk_def, State.sendHost_wf, State.waitOn_mem, State.boundedWait_wf, State.takeFault_wf, State.sendPeer_mem]

theorem State.amoEnd_wf (s : State) a1 a2 a3 a4 : State.MemOk s → State.MemOk (State.amoEnd s a1 a2 a3 a4) := by unfold State.amoEnd; grind (splits := 30) [State.memOk_def, State.acquire_mem, State.retire_wf, State.onCur_mem]

theorem execVamoReport_wf a0 a1 a2 (s : State) : State.MemOk s → ∀ t, execVamoReport a0 a1 a2 s = Host.Outcome.next t → State.MemOk t := by unfold execVamoReport; grind (splits := 30) [State.memOk_def, State.opReply_wf]

theorem State.vamoAfter_wf (s : State) a1 a2 a3 : State.MemOk s → State.MemOk (State.vamoAfter s a1 a2 a3) := by unfold State.vamoAfter; grind (splits := 30) [State.memOk_def, State.takeFault_wf, State.waitOn_mem, State.vdone_wf, State.boundedWait_wf, State.onCur_mem]

theorem State.amoGo_wf (s : State) a1 a2 a3 a4 a5 a6 a7 a8 a9 a10 a11 : State.MemOk s → State.MemOk (State.amoGo s a1 a2 a3 a4 a5 a6 a7 a8 a9 a10 a11) := by unfold State.amoGo; grind (splits := 30) [State.memOk_def, State.publishAt_wf, State.takeFault_wf, State.atomHere_wf, State.amoEnd_wf, State.sendAtom_wf]

theorem State.heardFar_mem (s : State) a1 a2 : (State.heardFar s a1 a2).mem = s.mem := by unfold State.heardFar; rfl

theorem State.atomFar_mem (s : State) a1 a2 a3 a4 a5 a6 a7 : (State.atomFar s a1 a2 a3 a4 a5 a6 a7).mem = s.mem := by unfold State.atomFar; grind (splits := 30) [State.place_wf, State.noteFar_mem, State.heardFar_mem]

theorem State.amo_wf (s : State) a1 a2 a3 a4 a5 a6 a7 a8 a9 : State.MemOk s → State.MemOk (State.amo s a1 a2 a3 a4 a5 a6 a7 a8 a9) := by unfold State.amo; grind (splits := 30) [State.memOk_def, State.issue_wf, State.amoEnd_wf, State.atomFar_mem, State.atomCheck_wf, State.takeFault_wf, State.holdOn_mem, State.amoGo_wf, State.withRelease_wf]

theorem execAmoaddW_wf a0 a1 a2 a3 a4 a5 (s : State) : State.MemOk s → ∀ t, execAmoaddW a0 a1 a2 a3 a4 a5 s = Host.Outcome.next t → State.MemOk t := by unfold execAmoaddW; grind (splits := 30) [State.memOk_def, State.amo_wf]

theorem execAmominzD_wf a0 a1 a2 a3 a4 a5 (s : State) : State.MemOk s → ∀ t, execAmominzD a0 a1 a2 a3 a4 a5 s = Host.Outcome.next t → State.MemOk t := by unfold execAmominzD; grind (splits := 30) [State.memOk_def, State.amo_wf]

theorem execAmomaxzD_wf a0 a1 a2 a3 a4 a5 (s : State) : State.MemOk s → ∀ t, execAmomaxzD a0 a1 a2 a3 a4 a5 s = Host.Outcome.next t → State.MemOk t := by unfold execAmomaxzD; grind (splits := 30) [State.memOk_def, State.amo_wf]

theorem execAmoandD_wf a0 a1 a2 a3 a4 a5 (s : State) : State.MemOk s → ∀ t, execAmoandD a0 a1 a2 a3 a4 a5 s = Host.Outcome.next t → State.MemOk t := by unfold execAmoandD; grind (splits := 30) [State.memOk_def, State.amo_wf]

theorem execAmoxorD_wf a0 a1 a2 a3 a4 a5 (s : State) : State.MemOk s → ∀ t, execAmoxorD a0 a1 a2 a3 a4 a5 s = Host.Outcome.next t → State.MemOk t := by unfold execAmoxorD; grind (splits := 30) [State.memOk_def, State.amo_wf]

theorem execAmofaddS_wf a0 a1 a2 a3 a4 a5 (s : State) : State.MemOk s → ∀ t, execAmofaddS a0 a1 a2 a3 a4 a5 s = Host.Outcome.next t → State.MemOk t := by unfold execAmofaddS; grind (splits := 30) [State.memOk_def, State.amo_wf]

theorem execAmoswapD_wf a0 a1 a2 a3 a4 a5 (s : State) : State.MemOk s → ∀ t, execAmoswapD a0 a1 a2 a3 a4 a5 s = Host.Outcome.next t → State.MemOk t := by unfold execAmoswapD; grind (splits := 30) [State.memOk_def, State.amo_wf]

theorem execVamo_wf a0 a1 a2 a3 (s : State) : State.MemOk s → ∀ t, execVamo a0 a1 a2 a3 s = Host.Outcome.next t → State.MemOk t := by unfold execVamo; grind (splits := 30) [State.memOk_def, State.vissue_wf, State.afterMst_wf, State.vamoAfter_wf, State.onCur_mem, State.publishIf_wf, State.vamoSeq_wf, State.vecFault_wf]

theorem execAmoswapW_wf a0 a1 a2 a3 a4 a5 (s : State) : State.MemOk s → ∀ t, execAmoswapW a0 a1 a2 a3 a4 a5 s = Host.Outcome.next t → State.MemOk t := by unfold execAmoswapW; grind (splits := 30) [State.memOk_def, State.amo_wf]

theorem execAmofmaxS_wf a0 a1 a2 a3 a4 a5 (s : State) : State.MemOk s → ∀ t, execAmofmaxS a0 a1 a2 a3 a4 a5 s = Host.Outcome.next t → State.MemOk t := by unfold execAmofmaxS; grind (splits := 30) [State.memOk_def, State.amo_wf]

theorem execAmomaxD_wf a0 a1 a2 a3 a4 a5 (s : State) : State.MemOk s → ∀ t, execAmomaxD a0 a1 a2 a3 a4 a5 s = Host.Outcome.next t → State.MemOk t := by unfold execAmomaxD; grind (splits := 30) [State.memOk_def, State.amo_wf]

theorem execAmoorD_wf a0 a1 a2 a3 a4 a5 (s : State) : State.MemOk s → ∀ t, execAmoorD a0 a1 a2 a3 a4 a5 s = Host.Outcome.next t → State.MemOk t := by unfold execAmoorD; grind (splits := 30) [State.memOk_def, State.amo_wf]

theorem execAmoaddD_wf a0 a1 a2 a3 a4 a5 (s : State) : State.MemOk s → ∀ t, execAmoaddD a0 a1 a2 a3 a4 a5 s = Host.Outcome.next t → State.MemOk t := by unfold execAmoaddD; grind (splits := 30) [State.memOk_def, State.amo_wf]

theorem execAmominD_wf a0 a1 a2 a3 a4 a5 (s : State) : State.MemOk s → ∀ t, execAmominD a0 a1 a2 a3 a4 a5 s = Host.Outcome.next t → State.MemOk t := by unfold execAmominD; grind (splits := 30) [State.memOk_def, State.amo_wf]

theorem execAmocasD_wf a0 a1 a2 a3 a4 a5 (s : State) : State.MemOk s → ∀ t, execAmocasD a0 a1 a2 a3 a4 a5 s = Host.Outcome.next t → State.MemOk t := by unfold execAmocasD; grind (splits := 30) [State.memOk_def, State.amo_wf]

theorem State.lockSwap_mem (s : State) a1 a2 a3 a4 a5 a6 a7 a8 a9 a10 : (State.lockSwap s a1 a2 a3 a4 a5 a6 a7 a8 a9 a10).mem = s.mem := by unfold State.lockSwap; grind (splits := 30) [State.sendPeer_mem, State.waitOn_mem, State.onCur_mem]

theorem State.pollAgain_mem (s : State) a1 a2 a3 a4 a5 (h4 : ∀ (y0 : State), (a4 y0).mem = y0.mem) (h5 : ∀ y0, (a5 y0).mem = s.mem) : (State.pollAgain s a1 a2 a3 a4 a5).mem = s.mem := by unfold State.pollAgain; grind (splits := 30) [State.waitOn_mem, State.onCur_mem]

theorem State.enterGuard_mem (s : State) a1 a2 a3 a4 : (State.enterGuard s a1 a2 a3 a4).mem = s.mem := by unfold State.enterGuard; rfl

theorem State.bindBar_mem (s : State) a1 a2 a3 a4 : (State.bindBar s a1 a2 a3 a4).mem = s.mem := by unfold State.bindBar; grind (splits := 30) [State.setBar_mem, State.onCur_mem]

theorem State.leaveGuard_mem (s : State) a1 : (State.leaveGuard s a1).mem = s.mem := by unfold State.leaveGuard; rfl

theorem State.rephase_wf (s : State) a1 a2 : State.MemOk s → State.MemOk (State.rephase s a1 a2) := by unfold State.rephase; intro h; (try dsimp only); repeat' (first | assumption | apply foldl_wf | apply foldr_wf | apply foldl1_wf | apply foldl2_wf | split | intro _); all_goals (try grind (splits := 30) [State.memOk_def, State.setBar_mem])

theorem State.configure_wf (s : State) a1 a2 a3 : State.MemOk s → State.MemOk (State.configure s a1 a2 a3) := by unfold State.configure; grind (splits := 30) [State.memOk_def, State.settleBar_wf, State.rephase_wf, State.setBar_mem]

theorem State.recWords_wf (s : State) a1 a2 : State.MemOk s → State.MemOk (State.recWords s a1 a2).1 := by fun_induction State.recWords s a1 a2 <;> grind (splits := 30) [State.memOk_def, State.check_wf, State.loadHere_mem, State.heardFar_mem]

theorem State.lockCheck_wf (s : State) a1 : State.MemOk s → State.MemOk (State.lockCheck s a1).1 := by unfold State.lockCheck; grind (splits := 30) [State.memOk_def, State.place_wf]

theorem State.supplyDl_wf (s : State) a1 a2 a3 a4 : State.MemOk s → State.MemOk (State.supplyDl s a1 a2 a3 a4) := by unfold State.supplyDl; grind (splits := 30) [State.memOk_def, State.settleBar_wf, State.setBar_mem]

theorem execBarrierDeadlineClose_wf a0 a1 (s : State) : State.MemOk s → ∀ t, execBarrierDeadlineClose a0 a1 s = Host.Outcome.next t → State.MemOk t := by unfold execBarrierDeadlineClose; grind (splits := 30) [State.memOk_def, State.settleBar_wf]

theorem State.lockSwap_wf (s : State) a1 a2 a3 a4 a5 a6 a7 a8 a9 a10 : State.MemOk s → State.MemOk (State.lockSwap s a1 a2 a3 a4 a5 a6 a7 a8 a9 a10) := by unfold State.lockSwap; grind (splits := 30) [State.memOk_def, State.sendPeer_mem, State.waitOn_mem, State.onCur_mem]

theorem State.pollAgain_wf (s : State) a1 a2 a3 a4 a5 (h4 : ∀ (y0 : State), State.MemOk y0 → State.MemOk (a4 y0)) (h5 : ∀ y0, State.MemOk (a5 y0)) : State.MemOk s → State.MemOk (State.pollAgain s a1 a2 a3 a4 a5) := by unfold State.pollAgain; grind (splits := 30) [State.memOk_def, State.waitOn_mem, State.onCur_mem]

theorem State.enterSeek_mem (s : State) a1 : (State.enterSeek s a1).mem = s.mem := by unfold State.enterSeek; grind (splits := 30) []

theorem State.askLock_mem (s : State) a1 a2 : (State.askLock s a1 a2).mem = s.mem := by unfold State.askLock; grind (splits := 30) [State.askRemote_mem]

theorem State.acqPeer_wf (s : State) a1 a2 a3 a4 a5 : State.MemOk s → State.MemOk (State.acqPeer s a1 a2 a3 a4 a5) := by unfold State.acqPeer; grind (splits := 30) [State.memOk_def, State.enterSeek_mem, State.lockSwap_mem, State.lockSwap_wf, State.pollAgain_mem, State.pollAgain_wf, State.askLock_mem, State.finish_wf]

theorem State.readRec_wf (s : State) a1 a2 a3 a4 (h4 : ∀ y0 (y1 : State), State.MemOk y1 → State.MemOk (a4 y0 y1)) : State.MemOk s → State.MemOk (State.readRec s a1 a2 a3 a4) := by unfold State.readRec; grind (splits := 30) [State.memOk_def, State.faultCode_wf, State.afterMst_wf, State.recWords_wf, State.onCur_mem, State.takeFault_wf, State.askRemote_mem]

theorem State.lockFault_wf (s : State) a1 a2 a3 : State.MemOk s → State.MemOk (State.lockFault s a1 a2 a3) := by unfold State.lockFault; grind (splits := 30) [State.memOk_def, State.takeFault_wf]

theorem State.withLock_wf (s : State) a1 a2 (h2 : ∀ y0 y1 (y2 : State), State.MemOk y2 → State.MemOk (a2 y0 y1 y2)) : State.MemOk s → State.MemOk (State.withLock s a1 a2) := by unfold State.withLock; grind (splits := 30) [State.memOk_def, State.takeFault_wf, State.lockCheck_wf, State.lockFault_wf, State.askRemote_mem]

theorem State.relMet_wf (s : State) a1 a2 a3 a4 : State.MemOk s → State.MemOk (State.relMet s a1 a2 a3 a4) := by unfold State.relMet; grind (splits := 30) [State.memOk_def, State.leaveGuard_mem, State.finish_wf]

theorem State.relStale_wf (s : State) a1 a2 a3 a4 : State.MemOk s → State.MemOk (State.relStale s a1 a2 a3 a4) := by unfold State.relStale; grind (splits := 30) [State.memOk_def, State.leaveGuard_mem, State.finish_wf, State.onCur_mem]

theorem State.mendStale_wf (s : State) a1 a2 a3 : State.MemOk s → State.MemOk (State.mendStale s a1 a2 a3) := by unfold State.mendStale; grind (splits := 30) [State.memOk_def, State.finish_wf]

theorem State.mendMet_wf (s : State) a1 a2 a3 a4 a5 : State.MemOk s → State.MemOk (State.mendMet s a1 a2 a3 a4 a5) := by unfold State.mendMet; grind (splits := 30) [State.memOk_def, State.finish_wf, State.acquire_mem, State.enterGuard_mem]

theorem execPfull_wf a0 (s : State) : State.MemOk s → ∀ t, execPfull a0 s = Host.Outcome.next t → State.MemOk t := by unfold execPfull; grind (splits := 30) [State.memOk_def, State.acquire_mem, State.retire_wf, State.issue_wf, State.withRelease_wf]

theorem execWmbind_wf a0 a1 a2 (s : State) : State.MemOk s → ∀ t, execWmbind a0 a1 a2 s = Host.Outcome.next t → State.MemOk t := by unfold execWmbind; grind (splits := 30) [State.memOk_def, State.retire_wf, State.issue_wf, State.readRec_wf, State.faultCode_wf, State.onCur_mem]

theorem execPrel_wf a0 (s : State) : State.MemOk s → ∀ t, execPrel a0 s = Host.Outcome.next t → State.MemOk t := by unfold execPrel; grind (splits := 30) [State.memOk_def, State.retire_wf, State.issue_wf, State.withRelease_wf]

theorem State.waitBar_wf (s : State) a1 a2 a3 a4 a5 : State.MemOk s → State.MemOk (State.waitBar s a1 a2 a3 a4 a5) := by unfold State.waitBar; grind (splits := 30) [State.memOk_def, State.waitOn_mem, State.lapse_wf, State.homeDecide_wf, State.supplyDl_wf, State.finishBarrier_wf]

theorem execBwait_wf a0 a1 a2 (s : State) : State.MemOk s → ∀ t, execBwait a0 a1 a2 s = Host.Outcome.next t → State.MemOk t := by unfold execBwait; grind (splits := 30) [State.memOk_def, State.issue_wf, State.faultCode_wf, State.waitBar_wf]

theorem execBbind_wf a0 a1 (s : State) : State.MemOk s → ∀ t, execBbind a0 a1 s = Host.Outcome.next t → State.MemOk t := by unfold execBbind; grind (splits := 30) [State.memOk_def, State.issue_wf, State.readRec_wf, State.faultCode_wf, State.retire_wf, State.bindBar_mem, State.holdOn_mem, State.configure_wf]

theorem State.noteRaise_mem (s : State) a1 a2 a3 a4 : (State.noteRaise s a1 a2 a3 a4).mem = s.mem := by unfold State.noteRaise; rfl

theorem execWmpub_wf a0 a1 (s : State) : State.MemOk s → ∀ t, execWmpub a0 a1 s = Host.Outcome.next t → State.MemOk t := by unfold execWmpub; grind (splits := 30) [State.memOk_def, State.issue_wf, State.retire_wf, State.atomCheck_wf, State.takeFault_wf, State.withRelease_wf, State.noteRaise_mem, State.atomicPut_wf, State.amoGo_wf]

theorem execRel_wf a0 a1 (s : State) : State.MemOk s → ∀ t, execRel a0 a1 s = Host.Outcome.next t → State.MemOk t := by unfold execRel; grind (splits := 30) [State.memOk_def, State.issue_wf, State.relMet_wf, State.relStale_wf, State.withLock_wf, State.withRelease_wf, State.atomicPut_wf, State.lockSwap_mem, State.lockSwap_wf, State.onCur_mem]

theorem execWmrd_wf a0 a1 (s : State) : State.MemOk s → ∀ t, execWmrd a0 a1 s = Host.Outcome.next t → State.MemOk t := by unfold execWmrd; intro h t ht; cases ht; (try dsimp only); repeat' (first | assumption | apply State.issue_wf | split | intro _); all_goals (try grind (splits := 30) [State.memOk_def, State.retire_wf, State.takeFault_wf, State.issue_wf, State.faultCode_wf, State.askRemote_mem, State.check_wf, State.onCur_mem])

theorem execMend_wf a0 a1 a2 (s : State) : State.MemOk s → ∀ t, execMend a0 a1 a2 s = Host.Outcome.next t → State.MemOk t := by unfold execMend; grind (splits := 30) [State.memOk_def, State.issue_wf, State.mendMet_wf, State.mendStale_wf, State.withLock_wf, State.lockFault_wf, State.holdOn_mem, State.onCur_mem, State.atomicPut_wf, State.lockSwap_mem, State.lockSwap_wf]

theorem execPacq_wf a0 (s : State) : State.MemOk s → ∀ t, execPacq a0 s = Host.Outcome.next t → State.MemOk t := by unfold execPacq; grind (splits := 30) [State.memOk_def, State.acquire_mem, State.retire_wf, State.issue_wf]

theorem State.arrive_wf (s : State) a1 a2 a3 (h3 : ∀ y0 (y1 : State), State.MemOk y1 → State.MemOk (a3 y0 y1)) : State.MemOk s → State.MemOk (State.arrive s a1 a2 a3) := by unfold State.arrive; grind (splits := 30) [State.memOk_def, State.faultCode_wf, State.holdOn_mem, State.finish_wf, State.onCur_mem, State.withRelease_wf, State.countArrival_wf]

theorem execBarr_wf a0 a1 (s : State) : State.MemOk s → ∀ t, execBarr a0 a1 s = Host.Outcome.next t → State.MemOk t := by unfold execBarr; grind (splits := 30) [State.memOk_def, State.issue_wf, State.finish_wf, State.arrive_wf]

theorem execBstat_wf a0 a1 (s : State) : State.MemOk s → ∀ t, execBstat a0 a1 s = Host.Outcome.next t → State.MemOk t := by unfold execBstat; grind (splits := 30) [State.memOk_def, State.retire_wf, State.issue_wf, State.onCur_mem]

theorem execBsync_wf a0 a1 a2 (s : State) : State.MemOk s → ∀ t, execBsync a0 a1 a2 s = Host.Outcome.next t → State.MemOk t := by unfold execBsync; grind (splits := 30) [State.memOk_def, State.issue_wf, State.waitBar_wf, State.arrive_wf]

theorem execBdrop_wf a0 a1 (s : State) : State.MemOk s → ∀ t, execBdrop a0 a1 s = Host.Outcome.next t → State.MemOk t := by unfold execBdrop; grind (splits := 30) [State.memOk_def, State.issue_wf, State.faultCode_wf, State.holdOn_mem, State.retire_wf, State.settleBar_wf, State.setBar_mem]

theorem State.enterPoll_mem (s : State) a1 a2 a3 : (State.enterPoll s a1 a2 a3).mem = s.mem := by unfold State.enterPoll; grind (splits := 30) [State.waitOn_mem, State.onCur_mem]

theorem State.acqSwapped_wf (s : State) a1 a2 a3 a4 : State.MemOk s → State.MemOk (State.acqSwapped s a1 a2 a3 a4) := by unfold State.acqSwapped; grind (splits := 30) [State.memOk_def, State.finish_wf, State.acquire_mem, State.enterGuard_mem, State.pollAgain_mem, State.pollAgain_wf]

theorem execAcq_wf a0 a1 a2 (s : State) : State.MemOk s → ∀ t, execAcq a0 a1 a2 s = Host.Outcome.next t → State.MemOk t := by unfold execAcq; grind (splits := 30) [State.memOk_def, State.issue_wf, State.acqSwapped_wf, State.withLock_wf, State.enterPoll_mem, State.lockFault_wf, State.deadlineWait_wf, State.acqPeer_wf]

theorem State.bindRing_mem (s : State) a1 a2 a3 : ∀ r, State.bindRing s a1 a2 a3 = some r → r.mem = s.mem := by unfold State.bindRing; grind (splits := 30) [State.onRing_mem, State.onCur_mem]

theorem execRbind_wf a0 a1 (s : State) : State.MemOk s → ∀ t, execRbind a0 a1 s = Host.Outcome.next t → State.MemOk t := by unfold execRbind; intro h t ht; cases ht; (try dsimp only); repeat' (first | assumption | apply State.issue_wf | apply State.readRec_wf | split | intro _); all_goals (try grind (splits := 30) [State.memOk_def, State.retire_wf, State.issue_wf, State.readRec_wf, State.faultCode_wf, State.unbindRing_mem, State.bindRing_mem])

theorem execRstat_wf a0 a1 (s : State) : State.MemOk s → ∀ t, execRstat a0 a1 s = Host.Outcome.next t → State.MemOk t := by unfold execRstat; grind (splits := 30) [State.memOk_def, State.retire_wf, State.issue_wf, State.onCur_mem]

theorem execRunbind_wf a0 (s : State) : State.MemOk s → ∀ t, execRunbind a0 s = Host.Outcome.next t → State.MemOk t := by unfold execRunbind; grind (splits := 30) [State.memOk_def, State.retire_wf, State.issue_wf, State.unbindRing_mem]

theorem execRdone_wf a0 (s : State) : State.MemOk s → ∀ t, execRdone a0 s = Host.Outcome.next t → State.MemOk t := by unfold execRdone; grind (splits := 30) [State.memOk_def, State.retire_wf, State.issue_wf, State.faultCode_wf, State.onRing_mem, State.onCur_mem]

theorem execRput_wf a0 (s : State) : State.MemOk s → ∀ t, execRput a0 s = Host.Outcome.next t → State.MemOk t := by unfold execRput; grind (splits := 30) [State.memOk_def, State.issue_wf, State.faultCode_wf, State.holdOn_mem, State.withRelease_wf, State.retire_wf, State.onCur_mem, State.onRing_mem]

theorem execRget_wf a0 a1 a2 (s : State) : State.MemOk s → ∀ t, execRget a0 a1 a2 s = Host.Outcome.next t → State.MemOk t := by unfold execRget; grind (splits := 30) [State.memOk_def, State.issue_wf, State.deadlineWait_wf, State.faultCode_wf, State.onCur_mem]

theorem execRtake_wf a0 a1 a2 (s : State) : State.MemOk s → ∀ t, execRtake a0 a1 a2 s = Host.Outcome.next t → State.MemOk t := by unfold execRtake; grind (splits := 30) [State.memOk_def, State.issue_wf, State.deadlineWait_wf, State.faultCode_wf]

theorem State.ageSable_mem (s : State) a1 : (State.ageSable s a1).mem = s.mem := by unfold State.ageSable; rfl

theorem State.freeLin_mem (s : State) a1 a2 : (State.freeLin s a1 a2).mem = s.mem := by unfold State.freeLin; rfl

theorem State.takeEntry_mem (s : State) a1 a2 a3 a4 a5 a6 : (State.takeEntry s a1 a2 a3 a4 a5 a6).2.mem = s.mem := by unfold State.takeEntry; rfl

theorem State.placeRuns_wf (s : State) a1 : State.MemOk s → State.MemOk (State.placeRuns s a1).1 := by fun_induction State.placeRuns s a1 <;> grind (splits := 30) [State.memOk_def, State.place_wf]

theorem State.handles_wf (s : State) a1 a2 a3 (h3 : ∀ y0 (y1 : State), State.MemOk y1 → State.MemOk (a3 y0 y1)) : State.MemOk s → State.MemOk (State.handles s a1 a2 a3) := by unfold State.handles; grind (splits := 30) [State.memOk_def, State.faultCode_wf]

theorem State.withMailbox_wf (s : State) a1 a2 a3 (h3 : ∀ y0 (y1 : State), State.MemOk y1 → State.MemOk (a3 y0 y1)) : State.MemOk s → State.MemOk (State.withMailbox s a1 a2 a3) := by unfold State.withMailbox; grind (splits := 30) [State.memOk_def, State.takeFault_wf, State.place_wf, State.faultCode_wf]

theorem execHsend_wf a0 a1 (s : State) : State.MemOk s → ∀ t, execHsend a0 a1 s = Host.Outcome.next t → State.MemOk t := by unfold execHsend; grind (splits := 30) [State.memOk_def, State.handles_wf, State.retire_wf, State.issue_wf, State.faultCode_wf, State.objPut_wf, State.withMailbox_wf, State.onCur_mem]

theorem execHaddr_wf a0 a1 (s : State) : State.MemOk s → ∀ t, execHaddr a0 a1 s = Host.Outcome.next t → State.MemOk t := by unfold execHaddr; grind (splits := 30) [State.memOk_def, State.handles_wf, State.retire_wf, State.issue_wf, State.onCur_mem]

theorem execHfree_wf a0 (s : State) : State.MemOk s → ∀ t, execHfree a0 s = Host.Outcome.next t → State.MemOk t := by unfold execHfree; grind (splits := 30) [State.memOk_def, State.ageSable_mem, State.handles_wf, State.retire_wf, State.issue_wf, State.freeLin_mem, State.faultCode_wf, State.holdOn_mem, State.onCur_mem]

theorem execHsplit_wf a0 a1 a2 a3 (s : State) : State.MemOk s → ∀ t, execHsplit a0 a1 a2 a3 s = Host.Outcome.next t → State.MemOk t := by unfold execHsplit; grind (splits := 30) [State.memOk_def, State.issue_wf, State.handles_wf, State.faultCode_wf, State.takeEntry_mem, State.retire_wf, State.onCur_mem]

theorem execHreclaim_wf a0 a1 (s : State) : State.MemOk s → ∀ t, execHreclaim a0 a1 s = Host.Outcome.next t → State.MemOk t := by unfold execHreclaim; ((intro h t ht; cases ht; try dsimp only); (repeat' (first | assumption | with_reducible refine State.memOk_of_mem (State.setLin_mem _ _ _ _) ?_ | with_reducible apply State.retire_wf | with_reducible refine State.memOk_of_mem (State.freeLin_mem _ _ _) ?_ | with_reducible apply State.faultCode_wf | with_reducible refine State.memOk_of_mem (State.holdOn_mem _ _) ?_ | with_reducible refine State.memOk_of_mem (State.onCur_mem _ _) ?_ | with_reducible apply foldl_wf | with_reducible apply foldr_wf | with_reducible apply foldl1_wf | with_reducible apply foldl2_wf | with_reducible apply State.handles_wf | with_reducible apply State.issue_wf | split | (intro _; try dsimp only))); all_goals (try grind (splits := 30) [State.memOk_def, State.setLin_mem, State.handles_wf, State.retire_wf, State.issue_wf, State.freeLin_mem, State.faultCode_wf, State.holdOn_mem, State.onCur_mem]))

theorem execHinfo_wf a0 a1 (s : State) : State.MemOk s → ∀ t, execHinfo a0 a1 s = Host.Outcome.next t → State.MemOk t := by unfold execHinfo; grind (splits := 30) [State.memOk_def, State.retire_wf, State.issue_wf, State.onCur_mem]

theorem execHjoin_wf a0 a1 a2 (s : State) : State.MemOk s → ∀ t, execHjoin a0 a1 a2 s = Host.Outcome.next t → State.MemOk t := by unfold execHjoin; grind (splits := 30) [State.memOk_def, State.handles_wf, State.retire_wf, State.issue_wf, State.freeLin_mem, State.faultCode_wf, State.holdOn_mem, State.onCur_mem]

theorem execHnew_wf a0 a1 (s : State) : State.MemOk s → ∀ t, execHnew a0 a1 s = Host.Outcome.next t → State.MemOk t := by unfold execHnew; intro h t ht; cases ht; (try dsimp only); repeat' (first | assumption | apply State.handles_wf | apply State.issue_wf | apply State.readRec_wf | apply State.publishIf_wf | split | intro _); all_goals (try grind (splits := 30) [State.memOk_def, State.handles_wf, State.retire_wf, State.takeFault_wf, State.takeEntry_mem, State.issue_wf, State.readRec_wf, State.placeRuns_wf, State.faultCode_wf, State.publishIf_wf, State.onCur_mem])

theorem execHrecv_wf a0 a1 a2 (s : State) : State.MemOk s → ∀ t, execHrecv a0 a1 a2 s = Host.Outcome.next t → State.MemOk t := by unfold execHrecv; grind (splits := 30) [State.memOk_def, State.handles_wf, State.issue_wf, State.deadlineWait_wf, State.withMailbox_wf]

theorem State.spawnRec_mem (s : State) a1 a2 a3 : (State.spawnRec s a1 a2 a3).mem = s.mem := by unfold State.spawnRec; rfl

theorem State.jdecEnd_wf (s : State) a1 a2 a3 a4 : State.MemOk s → State.MemOk (State.jdecEnd s a1 a2 a3 a4) := by unfold State.jdecEnd; grind (splits := 30) [State.memOk_def, State.retire_wf, State.spawnRec_mem]

theorem State.endStrand_wf (s : State) : State.MemOk s → State.MemOk (State.endStrand s) := by unfold State.endStrand; grind (splits := 30) [State.memOk_def, State.endIfStopped_wf, State.vacate_mem]

theorem execSpawn_wf a0 (s : State) : State.MemOk s → ∀ t, execSpawn a0 s = Host.Outcome.next t → State.MemOk t := by unfold execSpawn; grind (splits := 30) [State.memOk_def, State.retire_wf, State.issue_wf, State.spawnRec_mem, State.faultCode_wf, State.withRelease_wf]

theorem State.jdecFar_wf (s : State) a1 a2 : State.MemOk s → State.MemOk (State.jdecFar s a1 a2) := by unfold State.jdecFar; grind (splits := 30) [State.memOk_def, State.askRemote_mem, State.faultCode_wf, State.withRelease_wf, State.sendAtom_wf, State.onCur_mem]


theorem execJdec_wf a0 (s : State) : State.MemOk s → ∀ t, execJdec a0 s = Host.Outcome.next t → State.MemOk t := by unfold execJdec; intro h t ht; cases ht; (try dsimp only); repeat' (first | assumption | apply State.issue_wf | apply State.withRelease_wf | split | intro _); all_goals (try grind (splits := 30) [State.memOk_def, State.sendAtom_wf, State.jdecFar_wf, State.takeFault_wf, State.jdecEnd_wf, State.issue_wf, State.faultCode_wf, State.askRemote_mem, State.atomicPut_wf, State.atomCheck_wf, State.withRelease_wf, State.onCur_mem])

theorem State.unbindObjs_mem (s : State) : (State.unbindObjs s).mem = s.mem := by unfold State.unbindObjs; grind (splits := 30) [State.onCur_mem, State.unbindRings_mem]

theorem execTend_wf (s : State) : State.MemOk s → ∀ t, execTend s = Host.Outcome.next t → State.MemOk t := by unfold execTend; grind (splits := 30) [State.memOk_def, State.issue_wf, State.faultCode_wf, State.holdOn_mem, State.afterMst_wf, State.withRelease_wf, State.unbindObjs_mem, State.endStrand_wf]

theorem execQpush_wf a0 a1 (s : State) : State.MemOk s → ∀ t, execQpush a0 a1 s = Host.Outcome.next t → State.MemOk t := by unfold execQpush; grind (splits := 30) [State.memOk_def, State.retire_wf, State.setWorkQ_mem, State.issue_wf, State.faultCode_wf, State.withRelease_wf]

theorem execTself_wf a0 (s : State) : State.MemOk s → ∀ t, execTself a0 s = Host.Outcome.next t → State.MemOk t := by unfold execTself; grind (splits := 30) [State.memOk_def, State.retire_wf, State.issue_wf, State.onCur_mem]

theorem execQpop_wf a0 a1 a2 (s : State) : State.MemOk s → ∀ t, execQpop a0 a1 a2 s = Host.Outcome.next t → State.MemOk t := by unfold execQpop; grind (splits := 30) [State.memOk_def, State.issue_wf, State.deadlineWait_wf, State.faultCode_wf]

end Sys2Proof.Machine
end

