-- ==== Sys2Proof/Laws/MemoryCopy.lean ====
section
/-! SUPPORT. What copies, chains and fabric mailboxes do to memory: nothing, or its canonical form is kept. -/

namespace Sys2Proof.Machine

set_option linter.unusedTactic false
set_option linter.unreachableTactic false

theorem State.engineLoad_mem (s : State) a1 a2 a3 a4 a5 : (State.engineLoad s a1 a2 a3 a4 a5).2.mem = s.mem := by unfold State.engineLoad; rfl

theorem State.askFor_mem (s : State) a1 a2 a3 a4 a5 a6 : (State.askFor s a1 a2 a3 a4 a5 a6).mem = s.mem := by unfold State.askFor; grind (splits := 30) [State.sendPacket_mem, State.onPkg_mem]

theorem State.onCopy_mem (s : State) a1 a2 : (State.onCopy s a1 a2).mem = s.mem := by unfold State.onCopy; rfl

theorem State.chunkDone_mem (s : State) a1 a2 : (State.chunkDone s a1 a2).mem = s.mem := by unfold State.chunkDone; rfl

theorem State.leavePort_mem (s : State) a1 : (State.leavePort s a1).mem = s.mem := by unfold State.leavePort; grind (splits := 30) [State.onPort_mem]

theorem State.copyOver_mem (s : State) a1 a2 : (State.copyOver s a1 a2).mem = s.mem := by unfold State.copyOver; grind (splits := 30) [State.leavePort_mem, State.onPkg_mem]

theorem State.copySettle_mem (s : State) a1 : (State.copySettle s a1).mem = s.mem := by unfold State.copySettle; grind (splits := 30) [State.copyOver_mem, State.onCopy_mem, State.leavePort_mem]

theorem State.noteBit_mem (s : State) a1 a2 a3 a4 : (State.noteBit s a1 a2 a3 a4).mem = s.mem := by unfold State.noteBit; rfl

theorem State.copyFault_mem (s : State) a1 a2 a3 a4 : (State.copyFault s a1 a2 a3 a4).mem = s.mem := by unfold State.copyFault; grind (splits := 30) [State.onCopy_mem, State.noteLocal_mem]

theorem State.fillToken_mem (s : State) a1 a2 a3 a4 : (State.fillToken s a1 a2 a3 a4).mem = s.mem := by unfold State.fillToken; grind (splits := 30) [State.onUid_mem]

theorem State.mcRecount_mem (s : State) a1 : (State.mcRecount s a1).mem = s.mem := by unfold State.mcRecount; rfl

theorem State.ueOpen_mem (s : State) a1 : (State.ueOpen s a1).mem = s.mem := by unfold State.ueOpen; grind (splits := 30) [State.onPkg_mem]

theorem State.uePut_mem (s : State) a1 a2 : (State.uePut s a1 a2).mem = s.mem := by unfold State.uePut; grind (splits := 30) [State.takePath_mem, State.ueOpen_mem, State.onPkg_mem]

theorem State.ueRequest_mem (s : State) a1 a2 a3 a4 a5 : (State.ueRequest s a1 a2 a3 a4 a5).mem = s.mem := by unfold State.ueRequest; grind (splits := 30) [State.copyFault_mem, State.uePut_mem, State.onPkg_mem, State.onCopy_mem]

theorem State.ueAsk_mem (s : State) a1 a2 a3 : (State.ueAsk s a1 a2 a3).mem = s.mem := by unfold State.ueAsk; grind (splits := 30) [State.ueRequest_mem]

theorem State.skipChunk_mem (s : State) a1 a2 : (State.skipChunk s a1 a2).mem = s.mem := by unfold State.skipChunk; rfl

theorem State.onCtx_mem (s : State) a1 a2 : (State.onCtx s a1 a2).mem = s.mem := by unfold State.onCtx; rfl

theorem State.ueSend_mem (s : State) a1 a2 a3 : (State.ueSend s a1 a2 a3).mem = s.mem := by unfold State.ueSend; grind (splits := 30) [State.onCtx_mem, State.ueRequest_mem]

theorem State.sendChunk_mem (s : State) a1 a2 a3 : (State.sendChunk s a1 a2 a3).mem = s.mem := by unfold State.sendChunk; grind (splits := 30) [State.sendPacket_mem, State.onCopy_mem]

theorem State.sendBit_mem (s : State) a1 a2 a3 a4 : (State.sendBit s a1 a2 a3 a4).mem = s.mem := by unfold State.sendBit; grind (splits := 30) [State.onCopy_mem, State.onPkg_mem, State.sendChunk_mem]

theorem State.sendMc_mem (s : State) a1 a2 a3 a4 : (State.sendMc s a1 a2 a3 a4).mem = s.mem := by unfold State.sendMc; (try dsimp only); repeat' (first | rfl | (apply foldl_mem; intro _ _) | split); all_goals (try grind (splits := 30) [State.sendChunk_mem, State.onPkg_mem])

theorem State.mcCommitted_mem (s : State) a1 a2 a3 : (State.mcCommitted s a1 a2 a3).mem = s.mem := by unfold State.mcCommitted; grind (splits := 30) [State.copySettle_mem, State.mcRecount_mem, State.onPkg_mem]

theorem State.postFor_wf (s : State) a1 a2 : State.MemOk s → State.MemOk (State.postFor s a1 a2).2 := by unfold State.postFor; grind (splits := 30) [State.memOk_def, State.postRecord_wf]

theorem State.engReach_wf (s : State) a1 a2 a3 a4 : State.MemOk s → State.MemOk (State.engReach s a1 a2 a3 a4).1 := by unfold State.engReach; grind (splits := 30) [State.memOk_def, State.reach_wf]

theorem State.setBit_wf (s : State) a1 a2 a3 a4 a5 a6 : State.MemOk s → State.MemOk (State.setBit s a1 a2 a3 a4 a5 a6).2 := by unfold State.setBit; grind (splits := 30) [State.memOk_def, State.homeWrite_wf]

theorem State.markBad_wf (s : State) a1 a2 : State.MemOk s → State.MemOk (State.markBad s a1 a2) := by unfold State.markBad; intro h; (try dsimp only); repeat' (first | assumption | apply foldl_wf | apply foldr_wf | apply foldl1_wf | apply foldl2_wf | split | intro _); all_goals (try grind (splits := 30) [State.memOk_def, State.setPoison_mem])

theorem State.engineWrite_wf (s : State) a1 a2 a3 a4 a5 a6 : State.MemOk s → State.MemOk (State.engineWrite s a1 a2 a3 a4 a5 a6).2 := by unfold State.engineWrite; grind (splits := 30) [State.memOk_def, State.markBad_wf, State.sableWrite_wf, State.writeHome_wf]

theorem State.engineReduce_wf (s : State) a1 a2 a3 a4 a5 a6 a7 : State.MemOk s → State.MemOk (State.engineReduce s a1 a2 a3 a4 a5 a6 a7).2 := by unfold State.engineReduce; grind (splits := 30) [State.memOk_def, State.engineWrite_wf]

theorem State.freePart_mem (s : State) a1 a2 a3 : (State.freePart s a1 a2 a3).mem = s.mem := by unfold State.freePart; grind (splits := 30) [State.sendPacket_mem, State.sendChunk_mem]

theorem State.dropHeld_mem (s : State) a1 a2 : (State.dropHeld s a1 a2).mem = s.mem := by unfold State.dropHeld; (try dsimp only); repeat' (first | rfl | (apply foldl_mem; intro _ _) | split); all_goals (try grind (splits := 30) [State.onCopy_mem, State.freePart_mem])

theorem State.writePart_wf (s : State) a1 a2 : State.MemOk s → State.MemOk (State.writePart s a1 a2).2 := by unfold State.writePart; intro h; (try dsimp only); repeat' (first | assumption | apply foldl_wf | apply foldr_wf | apply foldl1_wf | apply foldl2_wf | split | intro _); all_goals (try grind (splits := 30) [State.memOk_def, State.engineWrite_wf, State.engineReduce_wf])

theorem State.postPart_mem (s : State) a1 a2 : (State.postPart s a1 a2).mem = s.mem := by unfold State.postPart; rfl

theorem State.performPart_wf (s : State) a1 a2 : State.MemOk s → State.MemOk (State.performPart s a1 a2).2 := by unfold State.performPart; grind (splits := 30) [State.memOk_def, State.writePart_wf, State.postPart_mem, State.freePart_mem]

theorem State.performHeld_wf (s : State) a1 a2 : State.MemOk s → State.MemOk (State.performHeld s a1 a2).2 := by unfold State.performHeld; intro h; (try dsimp only); repeat' (first | assumption | apply foldl_wf | apply foldr_wf | apply foldl1_wf | apply foldl2_wf | split | intro _); all_goals (try grind (splits := 30) [State.memOk_def, State.performPart_wf, State.onCopy_mem])

theorem State.claimMet_wf (s : State) a1 a2 a3 a4 : State.MemOk s → State.MemOk (State.claimMet s a1 a2 a3 a4) := by unfold State.claimMet; grind (splits := 30) [State.memOk_def, State.dropHeld_mem, State.performHeld_wf, State.setBit_wf, State.onCopy_mem]

theorem State.commitChunk_wf (s : State) a1 a2 : State.MemOk s → State.MemOk (State.commitChunk s a1 a2) := by unfold State.commitChunk; grind (splits := 30) [State.memOk_def, State.copySettle_mem, State.chunkDone_mem, State.onCopy_mem, State.claimMet_wf, State.sendBit_mem]

theorem State.copyReply_mem (s : State) a1 a2 : (State.copyReply s a1 a2).mem = s.mem := by unfold State.copyReply; rfl

theorem State.bitTaken_wf (s : State) a1 a2 a3 a4 : State.MemOk s → State.MemOk (State.bitTaken s a1 a2 a3 a4) := by unfold State.bitTaken; grind (splits := 30) [State.memOk_def, State.commitChunk_wf, State.dropHeld_mem, State.performHeld_wf, State.noteBit_mem]

theorem State.bitReply_wf (s : State) a1 a2 a3 : State.MemOk s → State.MemOk (State.bitReply s a1 a2 a3) := by unfold State.bitReply; grind (splits := 30) [State.memOk_def, State.copyReply_mem, State.bitTaken_wf, State.onCopy_mem, State.onPkg_mem]

theorem State.copyFinal_wf (s : State) a1 a2 : State.MemOk s → State.MemOk (State.copyFinal s a1 a2) := by unfold State.copyFinal; grind (splits := 30) [State.memOk_def, State.postFor_wf, State.copyOver_mem, State.fillToken_mem]

theorem State.copyPassed_wf (s : State) a1 a2 a3 : State.MemOk s → State.MemOk (State.copyPassed s a1 a2 a3) := by unfold State.copyPassed; grind (splits := 30) [State.memOk_def, State.onCopy_mem, State.copyFinal_wf]

theorem State.mcDrop_wf (s : State) a1 a2 a3 : State.MemOk s → State.MemOk (State.mcDrop s a1 a2 a3) := by unfold State.mcDrop; grind (splits := 30) [State.memOk_def, State.postFor_wf, State.copySettle_mem, State.copyOver_mem, State.mcRecount_mem, State.onPkg_mem, State.fillToken_mem]

theorem State.onBranch_mem (s : State) a1 a2 a3 : (State.onBranch s a1 a2 a3).mem = s.mem := by unfold State.onBranch; rfl

theorem State.branchPassed_wf (s : State) a1 a2 : State.MemOk s → State.MemOk (State.branchPassed s a1 a2) := by unfold State.branchPassed; grind (splits := 30) [State.memOk_def, State.mcDrop_wf, State.mcRecount_mem, State.onCopy_mem, State.onBranch_mem]

theorem State.copiesPassed_wf (s : State) a1 a2 a3 : State.MemOk s → State.MemOk (State.copiesPassed s a1 a2 a3) := by unfold State.copiesPassed; intro h; (try dsimp only); repeat' (first | assumption | apply foldl_wf | apply foldr_wf | apply foldl1_wf | apply foldl2_wf | split | intro _); all_goals (try grind (splits := 30) [State.memOk_def, State.copyPassed_wf, State.branchPassed_wf])

theorem State.copyReach_wf (s : State) a1 a2 a3 a4 a5 : State.MemOk s → State.MemOk (State.copyReach s a1 a2 a3 a4 a5).1 := by unfold State.copyReach; grind (splits := 30) [State.memOk_def, State.engReach_wf]

theorem State.destElems_wf (s : State) a1 a2 a3 : State.MemOk s → State.MemOk (State.destElems s a1 a2 a3).1 := by fun_induction State.destElems s a1 a2 a3 <;> grind (splits := 30) [State.memOk_def, State.copyReach_wf]

theorem State.mcFail_wf (s : State) a1 a2 a3 a4 : State.MemOk s → State.MemOk (State.mcFail s a1 a2 a3 a4) := by unfold State.mcFail; grind (splits := 30) [State.memOk_def, State.onBranch_mem, State.noteLocal_mem]

theorem State.mapPlace_wf (s : State) a1 a2 a3 : State.MemOk s → State.MemOk (State.mapPlace s a1 a2 a3).1 := by unfold State.mapPlace; grind (splits := 30) [State.memOk_def, State.engReach_wf]

theorem State.postCopyFault_wf (s : State) a1 a2 : State.MemOk s → State.MemOk (State.postCopyFault s a1 a2) := by unfold State.postCopyFault; grind (splits := 30) [State.memOk_def, State.postFor_wf, State.copyOver_mem, State.onCopy_mem, State.leavePort_mem, State.fillToken_mem, State.copyFinal_wf]

theorem State.sendPart_mem (s : State) a1 a2 a3 : (State.sendPart s a1 a2 a3).mem = s.mem := by unfold State.sendPart; grind (splits := 30) [State.sendChunk_mem]

theorem State.writeParts_wf (s : State) a1 a2 a3 : State.MemOk s → State.MemOk (State.writeParts s a1 a2 a3) := by unfold State.writeParts; (intro h; try dsimp only); (repeat' (first | assumption | with_reducible refine State.memOk_of_mem (State.sendPart_mem _ _ _ _) ?_ | with_reducible apply State.commitChunk_wf | with_reducible refine State.memOk_of_mem (State.onCopy_mem _ _ _) ?_ | with_reducible apply foldl_wf | with_reducible apply foldr_wf | with_reducible apply foldl1_wf | with_reducible apply foldl2_wf | split | (intro _; try dsimp only))); all_goals (try grind (splits := 30) [State.memOk_def, State.sendPart_mem, State.performPart_wf, State.commitChunk_wf, State.onCopy_mem])

theorem State.holdParts_wf (s : State) a1 a2 a3 a4 : State.MemOk s → State.MemOk (State.holdParts s a1 a2 a3 a4) := by unfold State.holdParts; (intro h; try dsimp only); (repeat' (first | assumption | with_reducible refine State.memOk_of_mem (State.sendPart_mem _ _ _ _) ?_ | with_reducible refine State.memOk_of_mem (State.onCopy_mem _ _ _) ?_ | with_reducible apply State.commitChunk_wf | with_reducible apply foldl_wf | with_reducible apply foldr_wf | with_reducible apply foldl1_wf | with_reducible apply foldl2_wf | split | (intro _; try dsimp only))); all_goals (try grind (splits := 30) [State.memOk_def, State.sendPart_mem, State.onCopy_mem, State.commitChunk_wf])

theorem State.writeChunk_wf (s : State) a1 a2 a3 a4 : State.MemOk s → State.MemOk (State.writeChunk s a1 a2 a3 a4) := by unfold State.writeChunk; grind (splits := 30) [State.memOk_def, State.destElems_wf, State.copyFault_mem, State.askFor_mem, State.writeParts_wf, State.holdParts_wf]

theorem State.mcLocal_wf (s : State) a1 a2 a3 : State.MemOk s → State.MemOk (State.mcLocal s a1 a2 a3) := by
  intro h
  unfold State.mcLocal
  dsimp only
  have hm := State.mapPlace_wf s a1 a2 a3 h
  split
  · next he => rw [he] at hm; exact State.mcFail_wf _ _ _ _ _ hm
  · next s1 m he =>
    rw [he] at hm
    split
    · exact State.memOk_of_mem (State.mcCommitted_mem _ _ _ _) hm
    · split
      · exact hm
      · have hd := State.destElems_wf s1 a1 a2 (a1.desc.elems a3) hm
        split
        · next he => rw [he] at hd; exact State.mcFail_wf _ _ _ _ _ hd
        · next he =>
          rw [he] at hd
          refine State.memOk_of_mem (State.mcCommitted_mem _ _ _ _) (State.memOk_of_mem (State.onCopy_mem _ _ _) (State.setBit_wf _ _ _ _ _ _ _ ?_))
          exact foldl2_wf (fun (a : Nat × State) x => (a.1 ||| (a.2.writePart a1 x).1, (a.2.writePart a1 x).2))
            (fun a x ha => State.writePart_wf a.2 a1 x ha) _ (0, _) hd

theorem State.chunkWrite_wf (s : State) a1 a2 a3 a4 : State.MemOk s → State.MemOk (State.chunkWrite s a1 a2 a3 a4) := by unfold State.chunkWrite; intro h; (try dsimp only); repeat' (first | assumption | apply foldl_wf | apply foldr_wf | apply foldl1_wf | apply foldl2_wf | split | intro _); all_goals (try grind (splits := 30) [State.memOk_def, State.ueSend_mem, State.writeChunk_wf, State.mcRecount_mem, State.sendMc_mem, State.mcLocal_wf, State.mcFail_wf])

theorem State.readElems_wf (s : State) a1 a2 a3 : State.MemOk s → State.MemOk (State.readElems s a1 a2 a3).1 := by
  induction a3 generalizing s with
  | nil => exact fun h => h
  | cons e es ih =>
    intro h
    unfold State.readElems
    split
    · exact h
    · next c _ =>
      dsimp only
      have h0 := State.copyReach_wf s c a2 (c.desc.elem c.rev e).1 c.desc.esize .copySrc h
      split
      · next he => rw [he] at h0; exact h0
      · next s1 hh he =>
        rw [he] at h0
        have hg : ∀ x : List Byte × Bool × State, (if isHere hh.loc = true then
              if hh.sable = true then some (s1.decrypt hh.key hh.loc (s1.bytesAt hh.loc c.desc.esize), s1.poisoned hh.loc c.desc.esize, s1)
              else some ((s1.engineLoad (s1.jobStart c.job) (c.hb ||| c.writes) hh.key hh.loc c.desc.esize).1, s1.poisoned hh.loc c.desc.esize, (s1.engineLoad (s1.jobStart c.job) (c.hb ||| c.writes) hh.key hh.loc c.desc.esize).2)
            else (fetched c.buf hh.loc c.desc.esize).map fun bs => (bs, c.bad.get false hh.loc, s1)) = some x → x.2.2.MemOk := by
          intro x hx
          split at hx
          · split at hx
            · cases hx; exact h0
            · cases hx; exact State.memOk_of_mem (State.engineLoad_mem s1 (s1.jobStart c.job) (c.hb ||| c.writes) hh.key hh.loc c.desc.esize) h0
          · simp only [Option.map_eq_some_iff] at hx
            obtain ⟨b, _, rfl⟩ := hx
            exact h0
        split
        · next hx => exact ih _ (State.memOk_of_mem (State.onCopy_mem _ _ _) (hg _ hx))
        · have h1 := ih (s1.askFor (.copy a1) c.job (c.desc.elem c.rev e).1 hh.loc (runBytes c.desc.esize ((e :: es).map fun x => (c.desc.elem c.rev x).1)) hh.key)
            (State.memOk_of_mem (State.askFor_mem _ _ _ _ _ _ _) h0)
          split
          · next he => rw [he] at h1; exact h1
          · exact h1

theorem State.readChunk_wf (s : State) a1 a2 a3 : State.MemOk s → State.MemOk (State.readChunk s a1 a2 a3).1 := by unfold State.readChunk; grind (splits := 30) [State.memOk_def, State.onCopy_mem, State.ueAsk_mem, State.readElems_wf]

theorem State.performChunk_wf (s : State) a1 a2 : State.MemOk s → State.MemOk (State.performChunk s a1 a2) := by unfold State.performChunk; grind (splits := 30) [State.memOk_def, State.readChunk_wf, State.copySettle_mem, State.skipChunk_mem, State.askFor_mem, State.onCopy_mem, State.chunkWrite_wf, State.copyFault_mem, State.mapPlace_wf]

theorem State.addCopy_mem (s : State) a1 : (State.addCopy s a1).mem = s.mem := by unfold State.addCopy; rfl

theorem State.bindStream_mem (s : State) a1 a2 : (State.bindStream s a1 a2).mem = s.mem := by unfold State.bindStream; rfl

theorem State.unbindStream_mem (s : State) a1 : (State.unbindStream s a1).mem = s.mem := by unfold State.unbindStream; grind (splits := 30) [State.dropPortAsks_mem, State.onCur_mem, State.onPort_mem]

theorem execPortDispatch_mem a0 a1 (s : State) : ∀ t, execPortDispatch a0 a1 s = Host.Outcome.next t → t.mem = s.mem := by unfold execPortDispatch; grind (splits := 30) [State.onCopy_mem, State.onPort_mem]

theorem execDeliveryTokenWrite_mem a0 (s : State) : ∀ t, execDeliveryTokenWrite a0 s = Host.Outcome.next t → t.mem = s.mem := by unfold execDeliveryTokenWrite; grind (splits := 30) [State.copySettle_mem, State.onCopy_mem, State.fillToken_mem]

theorem execReleaseTokenWrite_mem a0 (s : State) : ∀ t, execReleaseTokenWrite a0 s = Host.Outcome.next t → t.mem = s.mem := by unfold execReleaseTokenWrite; grind (splits := 30) [State.copySettle_mem, State.onCopy_mem, State.fillToken_mem]

theorem execCopyReplay_mem a0 (s : State) : ∀ t, execCopyReplay a0 s = Host.Outcome.next t → t.mem = s.mem := by unfold execCopyReplay; grind (splits := 30) [State.onCopy_mem, State.onPort_mem]

theorem State.stripBytes_wf (s : State) a1 a2 a3 a4 a5 a6 : State.MemOk s → State.MemOk (State.stripBytes s a1 a2 a3 a4 a5 a6).1 := by
  induction a6 generalizing s with
  | nil => exact fun h => h
  | cons e es ih =>
    intro h
    have ih' : ∀ x : State, x.MemOk → ∀ (y : State) z, x.stripBytes a1 a2 a3 a4 a5 es = (y, z) → y.MemOk := fun x hx y z he => by
      have := ih x hx; rw [he] at this; exact this
    unfold State.stripBytes
    grind (splits := 30) [State.memOk_def, State.askFor_mem, State.engReach_wf, State.engineLoad_mem]

theorem State.askWords_wf (s : State) a1 a2 a3 : State.MemOk s → State.MemOk (State.askWords s a1 a2 a3).1 := by
  intro h
  induction a3 with
  | zero => exact h
  | succ w ih =>
    unfold State.askWords
    dsimp only
    have hm := State.mapPlace_wf _ a1 a2 (64 * w) ih
    split
    · next he =>
      rw [he] at hm
      split
      · exact hm
      · exact State.memOk_of_mem (State.askFor_mem _ _ _ _ _ _ _) hm
    · next he => rw [he] at hm; exact hm

theorem State.mcPost_wf (s : State) a1 a2 a3 : State.MemOk s → State.MemOk (State.mcPost s a1 a2 a3) := by unfold State.mcPost; grind (splits := 30) [State.memOk_def, State.mcDrop_wf, State.postFor_wf, State.fillToken_mem, State.copySettle_mem, State.mcRecount_mem, State.onCopy_mem, State.onBranch_mem]

theorem State.mcPostAll_wf (s : State) a1 : State.MemOk s → State.MemOk (State.mcPostAll s a1) := by unfold State.mcPostAll; intro h; (try dsimp only); repeat' (first | assumption | apply foldl_wf | apply foldr_wf | apply foldl1_wf | apply foldl2_wf | split | intro _); all_goals (try grind (splits := 30) [State.memOk_def, State.mcPost_wf])

theorem execCopyFaultPost_wf a0 (s : State) : State.MemOk s → ∀ t, execCopyFaultPost a0 s = Host.Outcome.next t → State.MemOk t := by unfold execCopyFaultPost; (intro h t ht; cases ht; try dsimp only); (repeat' (first | assumption | with_reducible refine State.memOk_of_mem (State.onCopy_mem _ _ _) ?_ | with_reducible refine State.memOk_of_mem (State.dropHeld_mem _ _ _) ?_ | with_reducible apply State.postCopyFault_wf | with_reducible apply State.mcPostAll_wf | with_reducible apply foldl_wf | with_reducible apply foldr_wf | with_reducible apply foldl1_wf | with_reducible apply foldl2_wf | split | (intro _; try dsimp only))); all_goals (try grind (splits := 30) [State.memOk_def, State.onCopy_mem, State.askWords_wf, State.dropHeld_mem, State.postCopyFault_wf, State.mcPostAll_wf])

theorem State.queueWait_wf (s : State) a1 : State.MemOk s → State.MemOk (State.queueWait s a1) := by unfold State.queueWait; grind (splits := 30) [State.memOk_def, State.boundedWait_wf]

theorem execStreamStripDeliver_wf a0 a1 (s : State) : State.MemOk s → ∀ t, execStreamStripDeliver a0 a1 s = Host.Outcome.next t → State.MemOk t := by unfold execStreamStripDeliver; intro h t ht; cases ht; (try dsimp only); repeat' (first | assumption | apply foldl_wf | apply foldr_wf | apply foldl1_wf | apply foldl2_wf | split | intro _); all_goals (try grind (splits := 30) [State.memOk_def, State.stripBytes_wf, State.onPort_mem])

theorem State.queueCopy_wf (s : State) a1 a2 a3 a4 a5 a6 : State.MemOk s → State.MemOk (State.queueCopy s a1 a2 a3 a4 a5 a6) := by unfold State.queueCopy; grind (splits := 30) [State.memOk_def, State.retire_wf, State.queueWait_wf, State.onPort_mem, State.addCopy_mem, State.withRelease_wf, State.onCur_mem]

theorem State.issueCopy_wf (s : State) a1 a2 a3 a4 a5 : State.MemOk s → State.MemOk (State.issueCopy s a1 a2 a3 a4 a5) := by unfold State.issueCopy; grind (splits := 30) [State.memOk_def, State.issue_wf, State.readRec_wf, State.faultCode_wf, State.queueCopy_wf]

theorem execCpy_wf a0 a1 a2 a3 (s : State) : State.MemOk s → ∀ t, execCpy a0 a1 a2 a3 s = Host.Outcome.next t → State.MemOk t := by unfold execCpy; grind (splits := 30) [State.memOk_def, State.issueCopy_wf]

theorem execSbind_wf a0 a1 a2 a3 (s : State) : State.MemOk s → ∀ t, execSbind a0 a1 a2 a3 s = Host.Outcome.next t → State.MemOk t := by unfold execSbind; grind (splits := 30) [State.memOk_def, State.bindStream_mem, State.retire_wf, State.issue_wf, State.readRec_wf, State.queueWait_wf, State.faultCode_wf, State.unbindStream_mem]

theorem execCpyr_wf a0 a1 a2 a3 (s : State) : State.MemOk s → ∀ t, execCpyr a0 a1 a2 a3 s = Host.Outcome.next t → State.MemOk t := by unfold execCpyr; grind (splits := 30) [State.memOk_def, State.issueCopy_wf]

theorem execCopyChunk_wf a0 a1 (s : State) : State.MemOk s → ∀ t, execCopyChunk a0 a1 s = Host.Outcome.next t → State.MemOk t := by unfold execCopyChunk; grind (splits := 30) [State.memOk_def, State.performChunk_wf]

theorem execCstat_wf a0 a1 (s : State) : State.MemOk s → ∀ t, execCstat a0 a1 s = Host.Outcome.next t → State.MemOk t := by unfold execCstat; grind (splits := 30) [State.memOk_def, State.retire_wf, State.issue_wf, State.faultCode_wf, State.onCur_mem]

theorem execSunbind_wf a0 (s : State) : State.MemOk s → ∀ t, execSunbind a0 s = Host.Outcome.next t → State.MemOk t := by unfold execSunbind; grind (splits := 30) [State.memOk_def, State.retire_wf, State.issue_wf, State.unbindStream_mem]

theorem State.wordWait_wf (s : State) a1 a2 a3 a4 a5 (a6 : Nat → Word → Option (State → State)) a7
    (h6 : ∀ l v f, a6 l v = some f → ∀ y : State, State.MemOk y → State.MemOk (f y)) : State.MemOk s → State.MemOk (State.wordWait s a1 a2 a3 a4 a5 a6 a7) := by
  intro h
  unfold State.wordWait
  have h0 := State.check_wf s s.cur a1 8 (needOf .load) h
  split
  · next he => rw [he] at h0; exact State.takeFault_wf _ _ h0
  · next s1 hh he =>
    rw [he] at h0
    split
    · exact State.deadlineWait_wf _ _ _ _ _ h0
    · dsimp only
      split
      · exact State.memOk_of_mem (State.askRemote_mem _ _ _ _ _ _) (State.memOk_of_mem (State.waitOn_mem _ _ _ _ _ _ _) h0)
      · split
        · next f hf => exact State.finish_wf _ _ _ _ _ _ _ (h6 _ _ f hf _ h0)
        · exact State.pollAgain_wf _ _ _ _ _ _ (fun y hy => State.memOk_of_mem (State.askRemote_mem _ _ _ _ _ _) hy) (fun o => State.finish_wf _ _ _ _ _ _ _ h0) h0

theorem execTlwait_wf a0 a1 a2 (s : State) : State.MemOk s → ∀ t, execTlwait a0 a1 a2 s = Host.Outcome.next t → State.MemOk t := by
  intro h t ht
  unfold execTlwait at ht
  cases ht
  refine State.issue_wf _ _ _ _ (fun y hy => ?_) h
  refine State.wordWait_wf _ _ _ _ _ _ _ _ (fun l v f hf z hz => ?_) hy
  split at hf
  · cases hf; exact State.memOk_of_mem (State.tlAcquire_mem _ _ _) hz
  · cases hf

theorem execCwait_wf a0 a1 a2 a3 (s : State) : State.MemOk s → ∀ t, execCwait a0 a1 a2 a3 s = Host.Outcome.next t → State.MemOk t := by
  intro h t ht
  unfold execCwait at ht
  cases ht
  refine State.issue_wf _ _ _ _ (fun y hy => ?_) h
  refine State.wordWait_wf _ _ _ _ _ _ _ _ (fun l v f hf z hz => ?_) hy
  split at hf
  · cases hf; exact State.chunkAcquire_wf _ _ _ hz
  · cases hf

theorem State.onChain_mem (s : State) a1 a2 : (State.onChain s a1 a2).mem = s.mem := by unfold State.onChain; rfl

theorem State.cmdDone_mem (s : State) a1 a2 : (State.cmdDone s a1 a2).mem = s.mem := by unfold State.cmdDone; rfl

theorem State.takeCmd_mem (s : State) a1 a2 : (State.takeCmd s a1 a2).mem = s.mem := by unfold State.takeCmd; rfl

theorem State.onNext_mem (s : State) a1 a2 a3 a4 (h4 : ∀ y0 y1 y2 (y3 : State), (a4 y0 y1 y2 y3).mem = y3.mem) : (State.onNext s a1 a2 a3 a4).mem = s.mem := by unfold State.onNext; grind (splits := 30)

theorem State.portCmd_mem (s : State) a1 a2 a3 a4 a5 : (State.portCmd s a1 a2 a3 a4 a5).mem = s.mem := by unfold State.portCmd; grind (splits := 30) [State.onPort_mem, State.takeCmd_mem, State.addCopy_mem]

theorem State.engineCmd_mem (s : State) a1 a2 a3 : (State.engineCmd s a1 a2 a3).mem = s.mem := by unfold State.engineCmd; rfl

theorem State.onRunning_mem (s : State) a1 a2 a3 a4 (h4 : ∀ y0 y1 y2 (y3 : State), (a4 y0 y1 y2 y3).mem = y3.mem) : (State.onRunning s a1 a2 a3 a4).mem = s.mem := by unfold State.onRunning; grind (splits := 30)

theorem State.ueReply_mem (s : State) a1 : (State.ueReply s a1).mem = s.mem := by unfold State.ueReply; grind (splits := 30) [State.uePut_mem]

theorem State.notifyEngine_mem (s : State) a1 a2 a3 : (State.notifyEngine s a1 a2 a3).mem = s.mem := by unfold State.notifyEngine; rfl

theorem State.markCmd_mem (s : State) a1 a2 a3 : (State.markCmd s a1 a2 a3).mem = s.mem := by unfold State.markCmd; grind (splits := 30) [State.cmdDone_mem, State.takeCmd_mem, State.onNext_mem]

theorem execIndigoMark_mem a0 (s : State) : ∀ t, execIndigoMark a0 s = Host.Outcome.next t → t.mem = s.mem := by unfold execIndigoMark; grind (splits := 30) [State.markCmd_mem]

theorem State.cmdFail_wf (s : State) a1 a2 : State.MemOk s → State.MemOk (State.cmdFail s a1 a2) := by unfold State.cmdFail; grind (splits := 30) [State.memOk_def, State.cmdDone_mem, State.postFor_wf, State.noteLocal_mem]

theorem State.cmdRead_wf (s : State) a1 a2 a3 a4 : State.MemOk s → State.MemOk (State.cmdRead s a1 a2 a3 a4).1 := by unfold State.cmdRead; grind (splits := 30) [State.memOk_def, State.askFor_mem, State.engReach_wf, State.engineLoad_mem]

theorem execChainMark_mem a0 (s : State) : ∀ t, execChainMark a0 s = Host.Outcome.next t → t.mem = s.mem := by unfold execChainMark; grind (splits := 30) [State.markCmd_mem]

theorem State.indigoPlace_wf (s : State) a1 a2 a3 a4 : State.MemOk s → State.MemOk (State.indigoPlace s a1 a2 a3 a4).1 := by unfold State.indigoPlace; grind (splits := 30) [State.memOk_def, State.engReach_wf]

theorem execUeMark_mem a0 (s : State) : ∀ t, execUeMark a0 s = Host.Outcome.next t → t.mem = s.mem := by unfold execUeMark; grind (splits := 30) [State.markCmd_mem]

theorem State.enginePut_wf (s : State) a1 a2 a3 a4 a5 : State.MemOk s → State.MemOk (State.enginePut s a1 a2 a3 a4 a5).2 := by unfold State.enginePut; grind (splits := 30) [State.memOk_def, State.engineWrite_wf, State.onPkg_mem, State.sendPacket_mem]

theorem State.putStatus_wf (s : State) a1 a2 : State.MemOk s → State.MemOk (State.putStatus s a1 a2).2 := by unfold State.putStatus; grind (splits := 30) [State.memOk_def, State.enginePut_wf, State.sendPacket_mem, State.onChain_mem]

theorem State.finishCmd_wf (s : State) a1 a2 : State.MemOk s → State.MemOk (State.finishCmd s a1 a2) := by unfold State.finishCmd; grind (splits := 30) [State.memOk_def, State.engReach_wf, State.putStatus_wf, State.enginePut_wf, State.onChain_mem]

theorem execChainCommandComplete_wf a0 (s : State) : State.MemOk s → ∀ t, execChainCommandComplete a0 s = Host.Outcome.next t → State.MemOk t := by unfold execChainCommandComplete; grind (splits := 30) [State.memOk_def, State.cmdFail_wf, State.takeCmd_mem, State.finishCmd_wf]

theorem State.uePlaces_wf (s : State) a1 a2 a3 a4 : State.MemOk s → State.MemOk (State.uePlaces s a1 a2 a3 a4).1 := by unfold State.uePlaces; grind (splits := 30) [State.memOk_def, State.engReach_wf]

theorem State.uePlace_wf (s : State) a1 a2 a3 a4 a5 a6 : State.MemOk s → State.MemOk (State.uePlace s a1 a2 a3 a4 a5 a6).1 := by unfold State.uePlace; intro h; (try dsimp only); repeat' (first | assumption | apply foldl_wf | apply foldr_wf | apply foldl1_wf | apply foldl2_wf | split | intro _); all_goals (try grind (splits := 30) [State.memOk_def, State.uePlaces_wf, State.engineWrite_wf, State.engineReduce_wf])

theorem State.ueMap_wf (s : State) a1 a2 a3 : State.MemOk s → State.MemOk (State.ueMap s a1 a2 a3).1 := by unfold State.ueMap; grind (splits := 30) [State.memOk_def, State.engReach_wf]

theorem State.ueChunk_wf (s : State) a1 a2 a3 a4 a5 a6 a7 : State.MemOk s → State.MemOk (State.ueChunk s a1 a2 a3 a4 a5 a6 a7).1 := by unfold State.ueChunk; grind (splits := 30) [State.memOk_def, State.ueMap_wf, State.uePlace_wf, State.setBit_wf]

theorem State.ueChunks_wf (s : State) a1 a2 a3 a4 a5 a6 a7 a8 : State.MemOk s → State.MemOk (State.ueChunks s a1 a2 a3 a4 a5 a6 a7 a8).1 := by
  induction a6 generalizing s a7 a8 with
  | zero => exact fun h => h
  | succ n ih =>
    intro h
    unfold State.ueChunks
    grind (splits := 30) [State.memOk_def, State.ueChunk_wf]

theorem State.ueFetch_wf (s : State) a1 a2 a3 : State.MemOk s → State.MemOk (State.ueFetch s a1 a2 a3).1 := by unfold State.ueFetch; grind (splits := 30) [State.memOk_def, State.uePlaces_wf]

theorem State.ueTake_wf (s : State) a1 : State.MemOk s → State.MemOk (State.ueTake s a1) := by unfold State.ueTake; grind (splits := 30) [State.memOk_def, State.ueReply_mem, State.ueChunks_wf, State.uePlace_wf, State.ueFetch_wf, State.onCopy_mem, State.commitChunk_wf, State.copyFault_mem]

theorem State.ueHeard_mem (s : State) a1 : (State.ueHeard s a1).mem = s.mem := by unfold State.ueHeard; grind (splits := 30) [State.setPeer_mem, State.ueOpen_mem]

theorem execUePacket_wf a0 (s : State) : State.MemOk s → ∀ t, execUePacket a0 s = Host.Outcome.next t → State.MemOk t := by unfold execUePacket; grind (splits := 30) [State.memOk_def, State.onPkg_mem, State.ueTake_wf, State.onCtx_mem, State.ueHeard_mem]

theorem execIndigoWait_mem a0 (s : State) : ∀ t, execIndigoWait a0 s = Host.Outcome.next t → t.mem = s.mem := by unfold execIndigoWait; grind (splits := 30) [State.takeCmd_mem, State.onNext_mem]

theorem execOchreMark_mem a0 (s : State) : ∀ t, execOchreMark a0 s = Host.Outcome.next t → t.mem = s.mem := by unfold execOchreMark; grind (splits := 30) [State.markCmd_mem]

theorem State.tailPlace_wf (s : State) a1 : State.MemOk s → State.MemOk (State.tailPlace s a1).1 := by unfold State.tailPlace; grind (splits := 30) [State.memOk_def, State.check_wf]

theorem State.putField_wf (s : State) a1 a2 a3 a4 : State.MemOk s → State.MemOk (State.putField s a1 a2 a3 a4) := by unfold State.putField; grind (splits := 30) [State.memOk_def, State.atomicPut_wf, State.onPkg_mem, State.sendPacket_mem, State.onCur_mem]

theorem State.append_wf (s : State) a1 a2 a3 a4 a5 a6 : State.MemOk s → State.MemOk (State.append s a1 a2 a3 a4 a5 a6) := by unfold State.append; grind (splits := 30) [State.memOk_def, State.notifyEngine_mem, State.putField_wf]

theorem State.chainPlaces_wf (s : State) a1 a2 : State.MemOk s → State.MemOk (State.chainPlaces s a1 a2).1 := by unfold State.chainPlaces; grind (splits := 30) [State.memOk_def, State.check_wf]

theorem State.onNext_wf (s : State) a1 a2 a3 a4 (h4 : ∀ y0 y1 y2 (y3 : State), State.MemOk y3 → State.MemOk (a4 y0 y1 y2 y3)) : State.MemOk s → State.MemOk (State.onNext s a1 a2 a3 a4) := by unfold State.onNext; grind (splits := 30) [State.memOk_def]

theorem State.onRunning_wf (s : State) a1 a2 a3 a4 (h4 : ∀ y0 y1 y2 (y3 : State), State.MemOk y3 → State.MemOk (a4 y0 y1 y2 y3)) : State.MemOk s → State.MemOk (State.onRunning s a1 a2 a3 a4) := by unfold State.onRunning; grind (splits := 30) [State.memOk_def]

theorem execIndigoWaitMet_wf a0 (s : State) : State.MemOk s → ∀ t, execIndigoWaitMet a0 s = Host.Outcome.next t → State.MemOk t := by unfold execIndigoWaitMet; grind (splits := 30) [State.memOk_def, State.cmdFail_wf, State.askFor_mem, State.cmdDone_mem, State.onChain_mem, State.onRunning_mem, State.onRunning_wf, State.indigoPlace_wf]

theorem State.indigoEnd_wf (s : State) a1 : State.MemOk s → State.MemOk (State.indigoEnd s a1) := by unfold State.indigoEnd; grind (splits := 30) [State.memOk_def, State.onRunning_mem, State.onRunning_wf, State.cmdFail_wf]

theorem execIndigoWaitExpired_wf a0 (s : State) : State.MemOk s → ∀ t, execIndigoWaitExpired a0 s = Host.Outcome.next t → State.MemOk t := by unfold execIndigoWaitExpired; grind (splits := 30) [State.memOk_def, State.indigoEnd_wf]

theorem execIndigoPathSet_wf a0 (s : State) : State.MemOk s → ∀ t, execIndigoPathSet a0 s = Host.Outcome.next t → State.MemOk t := by unfold execIndigoPathSet; grind (splits := 30) [State.memOk_def, State.cmdFail_wf, State.cmdDone_mem, State.takeCmd_mem, State.setPeer_mem, State.onNext_mem, State.onNext_wf]

theorem State.chainWrote_mem (s : State) a1 a2 : (State.chainWrote s a1 a2).mem = s.mem := by unfold State.chainWrote; rfl

theorem execIndigoSignal_wf a0 (s : State) : State.MemOk s → ∀ t, execIndigoSignal a0 s = Host.Outcome.next t → State.MemOk t := by unfold execIndigoSignal; grind (splits := 30) [State.memOk_def, State.onNext_mem, State.onNext_wf, State.indigoPlace_wf, State.cmdFail_wf, State.takeCmd_mem, State.recordRelease_mem, State.cmdDone_mem, State.chainWrote_mem, State.homeWrite_wf, State.sendPacket_mem, State.onChain_mem]

theorem execOchreFill_wf a0 (s : State) : State.MemOk s → ∀ t, execOchreFill a0 s = Host.Outcome.next t → State.MemOk t := by unfold execOchreFill; grind (splits := 30) [State.memOk_def, State.cmdFail_wf, State.engineCmd_mem, State.takeCmd_mem, State.onNext_mem, State.onNext_wf]

theorem execUeRegisterRegion_wf a0 (s : State) : State.MemOk s → ∀ t, execUeRegisterRegion a0 s = Host.Outcome.next t → State.MemOk t := by unfold execUeRegisterRegion; grind (splits := 30) [State.memOk_def, State.onJob_mem, State.cmdFail_wf, State.cmdDone_mem, State.takeCmd_mem, State.onNext_mem, State.onNext_wf]

theorem State.withDesc_wf (s : State) a1 a2 a3 a4 a5 (h5 : ∀ y0 y1 (y2 : State), State.MemOk y2 → State.MemOk (a5 y0 y1 y2)) : State.MemOk s → State.MemOk (State.withDesc s a1 a2 a3 a4 a5) := by
  intro h
  have fl : ∀ (x : State) (r : FaultRec), x.MemOk → ((x.takeCmd a1 a2).cmdFail a1 r).MemOk := fun x r hx =>
    State.cmdFail_wf _ _ _ (State.memOk_of_mem (State.takeCmd_mem _ _ _) hx)
  unfold State.withDesc
  have h0 := State.cmdRead_wf s a1 a2 a3 64 h
  split
  · next he => rw [he] at h0; exact fl _ _ h0
  · next he => rw [he] at h0; exact h0
  · next s1 v he =>
    rw [he] at h0
    dsimp only
    split
    · exact fl _ _ h0
    · split
      · have h1 := State.cmdRead_wf s1 a1 a2 (a3 + 64) 64 h0
        split
        · next he => rw [he] at h1; exact fl _ _ h1
        · next he => rw [he] at h1; exact h1
        · next s2 lo he =>
          rw [he] at h1
          have h2 := State.cmdRead_wf s2 a1 a2 (a3 + 128) 64 h1
          split
          · next he => rw [he] at h2; exact fl _ _ h2
          · next he => rw [he] at h2; exact h2
          · next he =>
            rw [he] at h2
            split
            · exact fl _ _ h2
            · exact h5 _ _ _ h2
      · exact h5 _ _ _ h0

theorem State.portCopy_wf (s : State) a1 a2 a3 a4 a5 a6 : State.MemOk s → State.MemOk (State.portCopy s a1 a2 a3 a4 a5 a6) := by unfold State.portCopy; grind (splits := 30) [State.memOk_def, State.cmdFail_wf, State.portCmd_mem, State.takeCmd_mem, State.withDesc_wf, State.onNext_mem, State.onNext_wf]

theorem execIndigoCopyr_wf a0 (s : State) : State.MemOk s → ∀ t, execIndigoCopyr a0 s = Host.Outcome.next t → State.MemOk t := by unfold execIndigoCopyr; grind (splits := 30) [State.memOk_def, State.portCopy_wf]

theorem State.ochreCmd_wf (s : State) a1 a2 a3 : State.MemOk s → State.MemOk (State.ochreCmd s a1 a2 a3) := by unfold State.ochreCmd; grind (splits := 30) [State.memOk_def, State.cmdFail_wf, State.engineCmd_mem, State.takeCmd_mem, State.withDesc_wf, State.onNext_mem, State.onNext_wf]

theorem execOchreCopyr_wf a0 (s : State) : State.MemOk s → ∀ t, execOchreCopyr a0 s = Host.Outcome.next t → State.MemOk t := by unfold execOchreCopyr; grind (splits := 30) [State.memOk_def, State.ochreCmd_wf]

theorem execUeWrite_wf a0 (s : State) : State.MemOk s → ∀ t, execUeWrite a0 s = Host.Outcome.next t → State.MemOk t := by unfold execUeWrite; grind (splits := 30) [State.memOk_def, State.cmdFail_wf, State.engineCmd_mem, State.takeCmd_mem, State.withDesc_wf, State.onNext_mem, State.onNext_wf]

theorem execIndigoCopy_wf a0 (s : State) : State.MemOk s → ∀ t, execIndigoCopy a0 s = Host.Outcome.next t → State.MemOk t := by unfold execIndigoCopy; grind (splits := 30) [State.memOk_def, State.portCopy_wf]

theorem execChainCopyr_wf a0 (s : State) : State.MemOk s → ∀ t, execChainCopyr a0 s = Host.Outcome.next t → State.MemOk t := by unfold execChainCopyr; grind (splits := 30) [State.memOk_def, State.portCopy_wf]

theorem execUeRead_wf a0 (s : State) : State.MemOk s → ∀ t, execUeRead a0 s = Host.Outcome.next t → State.MemOk t := by unfold execUeRead; grind (splits := 30) [State.memOk_def, State.cmdFail_wf, State.engineCmd_mem, State.takeCmd_mem, State.withDesc_wf, State.onNext_mem, State.onNext_wf]

theorem execOchreCopy_wf a0 (s : State) : State.MemOk s → ∀ t, execOchreCopy a0 s = Host.Outcome.next t → State.MemOk t := by unfold execOchreCopy; grind (splits := 30) [State.memOk_def, State.ochreCmd_wf]

theorem execChainCopy_wf a0 (s : State) : State.MemOk s → ∀ t, execChainCopy a0 s = Host.Outcome.next t → State.MemOk t := by unfold execChainCopy; grind (splits := 30) [State.memOk_def, State.portCopy_wf]

theorem State.appended_wf (s : State) a1 a2 a3 : State.MemOk s → State.MemOk (State.appended s a1 a2 a3) := by unfold State.appended; grind (splits := 30) [State.memOk_def, State.retire_wf, State.onCur_mem, State.holdOn_mem]

theorem State.oneAppend_wf (s : State) a1 a2 (h2 : ∀ (y0 : State), State.MemOk y0 → State.MemOk (a2 y0)) : State.MemOk s → State.MemOk (State.oneAppend s a1 a2) := by unfold State.oneAppend; grind (splits := 30) [State.memOk_def, State.holdOn_mem, State.onCur_mem]

theorem State.cappAt_wf (s : State) a1 a2 a3 a4 a5 : State.MemOk s → State.MemOk (State.cappAt s a1 a2 a3 a4 a5) := by unfold State.cappAt; grind (splits := 30) [State.memOk_def, State.askRemote_mem, State.faultCode_wf, State.tailPlace_wf, State.takeFault_wf, State.withRelease_wf, State.appended_wf, State.append_wf]

theorem execCapp_wf a0 a1 a2 (s : State) : State.MemOk s → ∀ t, execCapp a0 a1 a2 s = Host.Outcome.next t → State.MemOk t := by
  intro h t ht
  cases ht
  refine State.issue_wf _ _ _ _ (fun y hy => ?_) h
  split
  · exact State.appended_wf _ _ _ _ hy
  · have hc := State.chainPlaces_wf y (y.cur.getS a1) (y.cur.getS a2) hy
    dsimp only
    split
    · next he => rw [he] at hc; exact State.takeFault_wf _ _ hc
    · next he => rw [he] at hc; exact State.oneAppend_wf _ _ _ (fun z hz => State.cappAt_wf z _ _ _ _ _ hz) hc

theorem State.boxCheck_wf (s : State) a1 a2 : State.MemOk s → State.MemOk (State.boxCheck s a1 a2).1 := by unfold State.boxCheck; grind (splits := 30) [State.memOk_def, State.place_wf]

theorem State.boxPut_wf (s : State) a1 a2 a3 a4 a5 : State.MemOk s → State.MemOk (State.boxPut s a1 a2 a3 a4 a5).2 := by unfold State.boxPut; grind (splits := 30) [State.memOk_def, State.homeWrite_wf]

theorem execFpath_wf a0 a1 a2 (s : State) : State.MemOk s → ∀ t, execFpath a0 a1 a2 s = Host.Outcome.next t → State.MemOk t := by unfold execFpath; grind (splits := 30) [State.memOk_def, State.retire_wf, State.issue_wf, State.faultCode_wf, State.onCur_mem]

theorem execFsend_wf a0 a1 a2 (s : State) : State.MemOk s → ∀ t, execFsend a0 a1 a2 s = Host.Outcome.next t → State.MemOk t := by unfold execFsend; grind (splits := 30) [State.memOk_def, State.retire_wf, State.takeFault_wf, State.waitOn_mem, State.issue_wf, State.boxPut_wf, State.sendPacket_mem, State.boxCheck_wf, State.withRelease_wf, State.onCur_mem]

theorem execFprobe_wf a0 a1 (s : State) : State.MemOk s → ∀ t, execFprobe a0 a1 s = Host.Outcome.next t → State.MemOk t := by unfold execFprobe; grind (splits := 30) [State.memOk_def, State.retire_wf, State.issue_wf, State.faultCode_wf, State.onCur_mem]

theorem execFrecv_wf a0 a1 a2 (s : State) : State.MemOk s → ∀ t, execFrecv a0 a1 a2 s = Host.Outcome.next t → State.MemOk t := by unfold execFrecv; grind (splits := 30) [State.memOk_def, State.takeFault_wf, State.issue_wf, State.deadlineWait_wf, State.boxCheck_wf]

end Sys2Proof.Machine
end

