-- ==== Sys2Proof/Laws/MemoryPackage.lean ====
section
/-! SUPPORT. What expiry, scheduling, commands, the slate wave, paging and boot do to memory: nothing, or its canonical form is kept. -/

namespace Sys2Proof.Machine

set_option linter.unusedTactic false
set_option linter.unreachableTactic false

theorem State.forSid_mem (s : State) a1 a2 (h2 : ∀ (y0 : State), (a2 y0).mem = y0.mem) : (State.forSid s a1 a2).mem = s.mem := by unfold State.forSid; grind (splits := 30) [State.asUid_mem]

theorem execTbudExhausted_mem a0 (s : State) : ∀ t, execTbudExhausted a0 s = Host.Outcome.next t → t.mem = s.mem := by unfold execTbudExhausted; grind (splits := 30) [State.forSid_mem, State.budgetSpent_mem]

theorem State.forSid_wf (s : State) a1 a2 (h2 : ∀ (y0 : State), State.MemOk y0 → State.MemOk (a2 y0)) : State.MemOk s → State.MemOk (State.forSid s a1 a2) := by unfold State.forSid; grind (splits := 30) [State.memOk_def, State.asUid_mem, State.asUid_wf]

theorem execWaitExpired_wf a0 (s : State) : State.MemOk s → ∀ t, execWaitExpired a0 s = Host.Outcome.next t → State.MemOk t := by unfold execWaitExpired; grind (splits := 30) [State.memOk_def, State.expire_wf, State.forSid_mem, State.forSid_wf]

theorem execPortQueueWaitExpired_wf a0 (s : State) : State.MemOk s → ∀ t, execPortQueueWaitExpired a0 s = Host.Outcome.next t → State.MemOk t := by unfold execPortQueueWaitExpired; grind (splits := 30) [State.memOk_def, State.expire_wf, State.forSid_mem, State.forSid_wf]

theorem execRegWaitExpired_wf a0 (s : State) : State.MemOk s → ∀ t, execRegWaitExpired a0 s = Host.Outcome.next t → State.MemOk t := by unfold execRegWaitExpired; grind (splits := 30) [State.memOk_def, State.expire_wf, State.forSid_mem, State.forSid_wf]

theorem execWatermarkExpired_wf a0 (s : State) : State.MemOk s → ∀ t, execWatermarkExpired a0 s = Host.Outcome.next t → State.MemOk t := by unfold execWatermarkExpired; grind (splits := 30) [State.memOk_def, State.expire_wf, State.forSid_mem, State.forSid_wf]

theorem State.overrun_wf (s : State) : State.MemOk s → State.MemOk (State.overrun s) := by unfold State.overrun; grind (splits := 30) [State.memOk_def, State.preemptNow_wf, State.faultCode_wf]

theorem execBudgetOverrun_wf a0 (s : State) : State.MemOk s → ∀ t, execBudgetOverrun a0 s = Host.Outcome.next t → State.MemOk t := by unfold execBudgetOverrun; grind (splits := 30) [State.memOk_def, State.forSid_mem, State.forSid_wf, State.overrun_wf]

theorem execProxyQueueExpired_wf a0 (s : State) : State.MemOk s → ∀ t, execProxyQueueExpired a0 s = Host.Outcome.next t → State.MemOk t := by unfold execProxyQueueExpired; grind (splits := 30) [State.memOk_def, State.expire_wf, State.forSid_mem, State.forSid_wf]

theorem execPreempt_wf a0 (s : State) : State.MemOk s → ∀ t, execPreempt a0 s = Host.Outcome.next t → State.MemOk t := by unfold execPreempt; grind (splits := 30) [State.memOk_def, State.forSid_mem, State.forSid_wf, State.preemptHere_wf]

theorem execHoldExpired_wf a0 (s : State) : State.MemOk s → ∀ t, execHoldExpired a0 s = Host.Outcome.next t → State.MemOk t := by unfold execHoldExpired; grind (splits := 30) [State.memOk_def, State.forSid_mem, State.forSid_wf, State.declineHold_wf]

theorem execSvcExpired_wf a0 (s : State) : State.MemOk s → ∀ t, execSvcExpired a0 s = Host.Outcome.next t → State.MemOk t := by unfold execSvcExpired; grind (splits := 30) [State.memOk_def, State.expire_wf, State.forSid_mem, State.forSid_wf]

theorem execProxyReplyExpired_wf a0 (s : State) : State.MemOk s → ∀ t, execProxyReplyExpired a0 s = Host.Outcome.next t → State.MemOk t := by unfold execProxyReplyExpired; grind (splits := 30) [State.memOk_def, State.expire_wf, State.forSid_mem, State.forSid_wf]

theorem execJobStopForce_wf a0 (s : State) : State.MemOk s → ∀ t, execJobStopForce a0 s = Host.Outcome.next t → State.MemOk t := by unfold execJobStopForce; grind (splits := 30) [State.memOk_def, State.forSid_mem, State.forSid_wf, State.overrun_wf]

theorem execSleepMet_wf a0 (s : State) : State.MemOk s → ∀ t, execSleepMet a0 s = Host.Outcome.next t → State.MemOk t := by unfold execSleepMet; grind (splits := 30) [State.memOk_def, State.forSid_mem, State.forSid_wf, State.collect_wf]

theorem State.zeroCore_wf (s : State) (c : Nat) : State.MemOk s → State.MemOk (s.zeroCore c) := fun h => SMap.wf_filter memDefault _ h

theorem State.restoreCore_wf (s : State) (j : Job) (c : SavedCore) : State.MemOk s → State.MemOk (s.restoreCore j c) := by
  intro h
  refine foldl_wf _ (fun a x ha => ?_) c.bytes _ (s.zeroCore_wf c.core h)
  exact SMap.wf_set memDefault (m := a.mem) _ _ ha

theorem State.addStrand_mem (s : State) a1 : (State.addStrand s a1).mem = s.mem := by unfold State.addStrand; grind (splits := 30)

theorem State.startLaunched_mem (s : State) a1 a2 a3 : (State.startLaunched s a1 a2 a3).mem = s.mem := by unfold State.startLaunched; grind (splits := 30) [State.addStrand_mem]

theorem State.toWait_mem (s : State) a1 : (State.toWait s a1).mem = s.mem := by unfold State.toWait; rfl

theorem State.leaveCore_mem (s : State) a1 : (State.leaveCore s a1).mem = s.mem := by unfold State.leaveCore; grind (splits := 30) [State.onJob_mem, State.toWait_mem]

theorem State.freshCluster_mem (s : State) a1 a2 a3 : (State.freshCluster s a1 a2 a3).mem = s.mem := by unfold State.freshCluster; grind (splits := 30) [State.onCluster_mem]

theorem execPriorityAging_mem a0 (s : State) : ∀ t, execPriorityAging a0 s = Host.Outcome.next t → t.mem = s.mem := by unfold execPriorityAging; grind (splits := 30) [State.onJob_mem]

theorem State.gangRequest_mem (s : State) a1 : (State.gangRequest s a1).mem = s.mem := by unfold State.gangRequest; grind (splits := 30) [State.onJob_mem, State.mapStrands_mem, State.tell_mem]

theorem execGangPreemptRequest_mem a0 (s : State) : ∀ t, execGangPreemptRequest a0 s = Host.Outcome.next t → t.mem = s.mem := by unfold execGangPreemptRequest; grind (splits := 30) [State.onPkg_mem, State.onJob_mem, State.gangRequest_mem]

theorem execCoreScrub_wf a0 (s : State) : State.MemOk s → ∀ t, execCoreScrub a0 s = Host.Outcome.next t → State.MemOk t := by unfold execCoreScrub; grind (splits := 30) [State.memOk_def, State.zeroCore_wf, State.onCore_mem]

theorem State.gangSave_wf (s : State) a1 : State.MemOk s → State.MemOk (State.gangSave s a1) := by
  intro h
  unfold State.gangSave
  dsimp only
  refine State.memOk_of_mem (State.toWait_mem _ _) (State.memOk_of_mem (State.onJob_mem _ _ _) (State.memOk_of_mem (State.freeCores_mem _ _) ?_))
  refine State.memOk_of_mem rfl (foldl_wf _ (fun a x ha => State.memOk_of_mem (State.onCluster_mem _ _ _) ha) _ _ (foldl_wf _ (fun a x ha => State.memOk_of_mem (State.setBar_mem _ _ _ _) ha) _ _ h))

theorem execGangPreempt_wf a0 (s : State) : State.MemOk s → ∀ t, execGangPreempt a0 s = Host.Outcome.next t → State.MemOk t := by unfold execGangPreempt; grind (splits := 30) [State.memOk_def, State.gangSave_wf, State.gangRequest_mem, State.tell_mem]

theorem State.rebindPorts_wf (s : State) a1 : State.MemOk s → State.MemOk (State.rebindPorts s a1) := by unfold State.rebindPorts; intro h; (try dsimp only); repeat' (first | assumption | apply foldl_wf | apply foldr_wf | apply foldl1_wf | apply foldl2_wf | split | intro _); all_goals (try grind (splits := 30) [State.memOk_def, State.onPort_mem])

theorem execTaskResume_wf a0 a1 (s : State) : State.MemOk s → ∀ t, execTaskResume a0 a1 s = Host.Outcome.next t → State.MemOk t := by unfold execTaskResume; grind (splits := 30) [State.memOk_def, State.rebindPorts_wf, State.onUid_mem, State.setTaskQ_mem]

theorem State.gangRestore_wf (s : State) a1 a2 a3 : State.MemOk s → State.MemOk (State.gangRestore s a1 a2 a3) := by
  intro h
  unfold State.gangRestore
  dsimp only
  refine State.memOk_of_mem (State.tell_mem _ _ _) (State.memOk_of_mem (State.onJob_mem _ _ _) ?_)
  refine foldl_wf _ (fun a x ha => State.rebindPorts_wf _ _ (State.memOk_of_mem (State.onUid_mem _ _ _) ha)) _ _ ?_
  refine foldl_wf _ (fun a x ha => State.memOk_of_mem (State.onCluster_mem _ _ _) ha) _ _ ?_
  refine foldl_wf _ (fun a x ha => State.memOk_of_mem (State.setBar_mem _ _ _ _) ha) _ _ ?_
  exact foldl_wf _ (fun a x ha => State.restoreCore_wf _ _ _ ha) _ _ h

theorem execGangResume_wf a0 (s : State) : State.MemOk s → ∀ t, execGangResume a0 s = Host.Outcome.next t → State.MemOk t := by unfold execGangResume; grind (splits := 30) [State.memOk_def, State.onJob_mem, State.gangRestore_wf]

theorem execJobComplete_wf a0 (s : State) : State.MemOk s → ∀ t, execJobComplete a0 s = Host.Outcome.next t → State.MemOk t := by unfold execJobComplete; grind (splits := 30) [State.memOk_def, State.endJob_wf]

theorem State.readRecord_wf (s : State) : State.MemOk s → State.MemOk (State.readRecord s) := by unfold State.readRecord; grind (splits := 30) [State.memOk_def, State.takeFault_wf, State.recWords_wf, State.askRemote_mem, State.onCur_mem]

theorem State.popTask_wf (s : State) a1 a2 a3 a4 : State.MemOk s → State.MemOk (State.popTask s a1 a2 a3 a4) := by unfold State.popTask; grind (splits := 30) [State.memOk_def, State.acquire_mem, State.asUid_mem, State.asUid_wf, State.addStrand_mem, State.setTaskQ_mem, State.readRecord_wf]

theorem execTaskStart_wf a0 a1 (s : State) : State.MemOk s → ∀ t, execTaskStart a0 a1 s = Host.Outcome.next t → State.MemOk t := by unfold execTaskStart; grind (splits := 30) [State.memOk_def, State.popTask_wf, State.asUid_mem, State.asUid_wf, State.readRecord_wf]

theorem State.startCore_wf (s : State) a1 a2 : State.MemOk s → State.MemOk (State.startCore s a1 a2) := by unfold State.startCore; ((intro h; try dsimp only); (repeat' (first | assumption | with_reducible refine State.memOk_of_mem (State.onJob_mem _ _ _) ?_ | with_reducible refine State.memOk_of_mem (State.startLaunched_mem _ _ _ _) ?_ | with_reducible apply State.journalMove_wf | with_reducible apply foldl_wf | with_reducible apply foldr_wf | with_reducible apply foldl1_wf | with_reducible apply foldl2_wf | split | (intro _; try dsimp only))); all_goals (try grind (splits := 30) [State.memOk_def, State.onJob_mem, State.startLaunched_mem, State.journalMove_wf]))

theorem State.bindCore_wf (s : State) a1 a2 : State.MemOk s → State.MemOk (State.bindCore s a1 a2) := by unfold State.bindCore; grind (splits := 30) [State.memOk_def, State.freshCluster_mem, State.leaveCore_mem, State.onCore_mem, State.onJob_mem, State.startCore_wf]

theorem execCoreBind_wf a0 a1 (s : State) : State.MemOk s → ∀ t, execCoreBind a0 a1 s = Host.Outcome.next t → State.MemOk t := by unfold execCoreBind; grind (splits := 30) [State.memOk_def, State.bindCore_wf, State.requestStop_wf, State.onCore_mem]

theorem State.beginCmd_mem (s : State) a1 : (State.beginCmd s a1).mem = s.mem := by unfold State.beginCmd; rfl

theorem State.dropCmd_mem (s : State) a1 : (State.dropCmd s a1).mem = s.mem := by unfold State.dropCmd; rfl

theorem State.abandon_mem (s : State) a1 a2 : (State.abandon s a1 a2).mem = s.mem := by unfold State.abandon; rfl

theorem State.dropCached_mem (s : State) a1 a2 : (State.dropCached s a1 a2).mem = s.mem := by
  unfold State.dropCached
  exact foldl_mem _ (fun _ _ => State.onDie_mem _ _ _) _ _

theorem execShootdownPageRange_mem a0 (s : State) : ∀ t, execShootdownPageRange a0 s = Host.Outcome.next t → t.mem = s.mem := by unfold execShootdownPageRange; grind (splits := 30) [State.beginCmd_mem, State.abandon_mem, State.dropCached_mem]

theorem State.journalReject_wf (s : State) a1 a2 : State.MemOk s → State.MemOk (State.journalReject s a1 a2) := by unfold State.journalReject; grind (splits := 30) [State.memOk_def, State.journalPut_wf]

theorem State.rejectLaunch_wf (s : State) a1 a2 : State.MemOk s → State.MemOk (State.rejectLaunch s a1 a2) := by unfold State.rejectLaunch; grind (splits := 30) [State.memOk_def, State.journalReject_wf, State.onJob_mem]

theorem State.checkDigests_wf (s : State) a1 : State.MemOk s → State.MemOk (State.checkDigests s a1) := by unfold State.checkDigests; grind (splits := 30) [State.memOk_def, State.rejectLaunch_wf]

theorem execLaunch_wf a0 (s : State) : State.MemOk s → ∀ t, execLaunch a0 s = Host.Outcome.next t → State.MemOk t := by unfold execLaunch; grind (splits := 30) [State.memOk_def, State.dropCmd_mem, State.onPkg_mem, State.checkDigests_wf]

theorem execShootdownRoot_mem a0 (s : State) : ∀ t, execShootdownRoot a0 s = Host.Outcome.next t → t.mem = s.mem := by unfold execShootdownRoot; grind (splits := 30) [State.beginCmd_mem, State.abandon_mem, State.dropCached_mem]

theorem State.endCmd_wf (s : State) a1 a2 a3 : State.MemOk s → State.MemOk (State.endCmd s a1 a2 a3) := by unfold State.endCmd; grind (splits := 30) [State.memOk_def, State.dropCmd_mem, State.journalMove_wf]

theorem execShootdownAck_wf a0 (s : State) : State.MemOk s → ∀ t, execShootdownAck a0 s = Host.Outcome.next t → State.MemOk t := by unfold execShootdownAck; grind (splits := 30) [State.memOk_def, State.endCmd_wf, State.devPut_wf]

theorem State.takeSlot_wf (s : State) a1 a2 a3 : State.MemOk s → State.MemOk (State.takeSlot s a1 a2 a3) := by unfold State.takeSlot; grind (splits := 30) [State.memOk_def, State.onPkg_mem, State.devPut_wf, State.ctlPut_wf, State.journalPut_wf]

theorem execCancel_wf a0 (s : State) : State.MemOk s → ∀ t, execCancel a0 s = Host.Outcome.next t → State.MemOk t := by unfold execCancel; grind (splits := 30) [State.memOk_def, State.killJob_wf, State.endCmd_wf]

theorem State.revokeKey_wf (s : State) a1 a2 : State.MemOk s → State.MemOk (State.revokeKey s a1 a2) := by unfold State.revokeKey; intro h; (try dsimp only); repeat' (first | assumption | apply foldl_wf | apply foldr_wf | apply foldl1_wf | apply foldl2_wf | split | intro _); all_goals (try grind (splits := 30) [State.memOk_def, State.killJob_wf, State.onPkg_mem])

theorem execKeyInvalidate_wf a0 (s : State) : State.MemOk s → ∀ t, execKeyInvalidate a0 s = Host.Outcome.next t → State.MemOk t := by unfold execKeyInvalidate; grind (splits := 30) [State.memOk_def, State.revokeKey_wf, State.endCmd_wf]

theorem execCommandTake_wf (s : State) : State.MemOk s → ∀ t, execCommandTake s = Host.Outcome.next t → State.MemOk t := by
  intro h t ht
  unfold execCommandTake at ht
  cases ht
  split
  · exact h
  · split
    · split
      · exact State.takeSlot_wf _ _ _ _ h
      · exact h
    · split
      · exact State.journalPut_wf _ _ (State.memOk_of_mem (State.onPkg_mem _ _) h)
      · exact h

theorem State.takeCtl_mem (s : State) a1 : ∀ r, State.takeCtl s a1 = some r → r.mem = s.mem := by unfold State.takeCtl; grind (splits := 30) [State.onPkg_mem]

theorem State.dump_mem (s : State) a1 a2 : (State.dump s a1 a2).mem = s.mem := by unfold State.dump; grind (splits := 30) [State.onPkg_mem]

theorem State.onSlate_mem (s : State) a1 a2 : (State.onSlate s a1 a2).mem = s.mem := by unfold State.onSlate; rfl

theorem execFrozenReport_mem a0 a1 a2 a3 (s : State) : ∀ t, execFrozenReport a0 a1 a2 a3 s = Host.Outcome.next t → t.mem = s.mem := by unfold execFrozenReport; grind (splits := 30) [State.onSlate_mem, State.takeCtl_mem]

theorem State.resendBranch_mem (s : State) a1 a2 a3 : (State.resendBranch s a1 a2 a3).mem = s.mem := by unfold State.resendBranch; grind (splits := 30) [State.onCopy_mem, State.sendMc_mem, State.setPeer_mem, State.onPkg_mem]

theorem execVectorQueueCompletion_mem a0 (s : State) : ∀ t, execVectorQueueCompletion a0 s = Host.Outcome.next t → t.mem = s.mem := by unfold execVectorQueueCompletion; grind (splits := 30) [State.onUid_mem]

theorem execFirstCauseFinal_mem a0 (s : State) : ∀ t, execFirstCauseFinal a0 s = Host.Outcome.next t → t.mem = s.mem := by unfold execFirstCauseFinal; grind (splits := 30) [State.onSlate_mem, State.signal_mem]

theorem execDebugFreeze_wf a0 (s : State) : State.MemOk s → ∀ t, execDebugFreeze a0 s = Host.Outcome.next t → State.MemOk t := by unfold execDebugFreeze; grind (splits := 30) [State.memOk_def, State.beginCmd_mem, State.trigger_mem, State.endCmd_wf, State.freezeJob_mem]

theorem State.stepOn_wf (s : State) a1 a2 : State.MemOk s → State.MemOk (State.stepOn s a1 a2).2 := by unfold State.stepOn; grind (splits := 30) [State.memOk_def, State.onSlate_mem, State.postRecord_wf]

theorem State.resumeJob_wf (s : State) a1 a2 a3 : State.MemOk s → State.MemOk (State.resumeJob s a1 a2 a3) := by unfold State.resumeJob; intro h; (try dsimp only); repeat' (first | assumption | apply foldl_wf | apply foldr_wf | apply foldl1_wf | apply foldl2_wf | split | intro _); all_goals (try grind (splits := 30) [State.memOk_def, State.onSlate_mem, State.resendBranch_mem, State.onPkg_mem])

theorem execDebugResume_wf a0 (s : State) : State.MemOk s → ∀ t, execDebugResume a0 s = Host.Outcome.next t → State.MemOk t := by unfold execDebugResume; grind (splits := 30) [State.memOk_def, State.beginCmd_mem, State.endCmd_wf, State.tell_mem, State.resumeJob_wf]

theorem execResumeAnnounce_wf a0 a1 a2 (s : State) : State.MemOk s → ∀ t, execResumeAnnounce a0 a1 a2 s = Host.Outcome.next t → State.MemOk t := by unfold execResumeAnnounce; grind (splits := 30) [State.memOk_def, State.resumeJob_wf, State.takeCtl_mem]

theorem execSlateFreezeTimeout_wf a0 (s : State) : State.MemOk s → ∀ t, execSlateFreezeTimeout a0 s = Host.Outcome.next t → State.MemOk t := by unfold execSlateFreezeTimeout; grind (splits := 30) [State.memOk_def, State.killJob_wf, State.tell_mem, State.takeCtl_mem]

theorem State.passBrk_wf (s : State) : State.MemOk s → State.MemOk (State.passBrk s) := by unfold State.passBrk; grind (splits := 30) [State.memOk_def, State.retire_wf, State.onCur_mem]

theorem State.farAnswer_wf (s : State) a1 a2 a3 : State.MemOk s → State.MemOk (State.farAnswer s a1 a2 a3) := by
  intro h
  unfold State.farAnswer
  split
  · next hm => exact State.endCmd_wf _ _ _ _ (State.memOk_of_mem (State.takeCtl_mem _ _ _ hm) h)
  · split
    · next hm => exact State.journalReject_wf _ _ _ (State.memOk_of_mem (State.dropCmd_mem _ _) (State.memOk_of_mem (State.takeCtl_mem _ _ _ hm) h))
    · exact h

theorem execDebugDump_wf a0 (s : State) : State.MemOk s → ∀ t, execDebugDump a0 s = Host.Outcome.next t → State.MemOk t := by
  intro h t ht
  have ht2 : ∀ m, ((s.takeCtl m).getD s).MemOk := by
    intro m
    cases hm : s.takeCtl m with
    | none => exact h
    | some r => exact State.memOk_of_mem (State.takeCtl_mem _ _ _ hm) h
  unfold execDebugDump at ht
  cases ht
  dsimp only
  repeat' split
  all_goals first
    | exact h
    | exact ht2 _
    | exact State.memOk_of_mem (State.tell_mem _ _ _) (State.memOk_of_mem (State.dump_mem _ _ _) (ht2 _))
    | exact State.endCmd_wf _ _ _ _ (State.memOk_of_mem (State.dump_mem _ _ _) h)
    | exact State.endCmd_wf _ _ _ _ h
    | (rename_i hm; exact State.endCmd_wf _ _ _ _ (State.memOk_of_mem (State.takeCtl_mem _ _ _ hm) h))
    | exact State.memOk_of_mem (State.beginCmd_mem _ _) (State.memOk_of_mem (State.tell_mem _ _ _) h)
    | exact State.memOk_of_mem (State.tell_mem _ _ _) (State.memOk_of_mem (State.beginCmd_mem _ _) h)
    | exact State.memOk_of_mem (State.tell_mem _ _ _) (ht2 _)
    | exact State.farAnswer_wf _ _ _ _ h

theorem State.collectAll_wf (s : State) a1 : State.MemOk s → State.MemOk (State.collectAll s a1) := by
  intro h
  unfold State.collectAll
  refine foldl_wf _ (fun a x ha => State.asUid_wf _ _ _ (fun y hy => ?_) ha) _ _ h
  split
  · split
    · exact decided_wf _ _ hy
    · exact hy
  · exact hy

theorem State.stepBegin_wf (s : State) a1 a2 : State.MemOk s → State.MemOk (State.stepBegin s a1 a2) := by
  intro h
  unfold State.stepBegin
  split
  · exact h
  · dsimp only
    split
    · exact h
    · refine ite_wf (State.asUid_wf _ _ _ (fun y hy => ?_) (State.memOk_of_mem (State.onSlate_mem _ _ _) h))
        (State.memOk_of_mem (State.onUid_mem _ _ _) (State.memOk_of_mem (State.onSlate_mem _ _ _) h))
      split
      · exact decided_wf _ _ hy
      · exact hy

theorem State.heldRequest_mem (s : State) a1 : (State.heldRequest s a1).mem = s.mem := by unfold State.heldRequest; grind (splits := 30) [State.gangRequest_mem]

theorem State.restart_wf (s : State) a1 a2 a3 : State.MemOk s → State.MemOk (State.restart s a1 a2 a3) := by unfold State.restart; intro h; (try dsimp only); repeat' (first | assumption | apply foldl_wf | apply foldr_wf | apply foldl1_wf | apply foldl2_wf | split | intro _); all_goals (try grind (splits := 30) [State.memOk_def, State.collectAll_wf, State.onJob_mem, State.heldRequest_mem, State.forUids_wf, State.passBrk_wf, State.endCmd_wf])

theorem State.restartDue_wf (s : State) a1 : State.MemOk s → State.MemOk (State.restartDue s a1) := by unfold State.restartDue; grind (splits := 30) [State.memOk_def, State.restart_wf]

theorem execSlateRestart_wf a0 (s : State) : State.MemOk s → ∀ t, execSlateRestart a0 s = Host.Outcome.next t → State.MemOk t := by unfold execSlateRestart; grind (splits := 30) [State.memOk_def, State.restartDue_wf]

theorem execSlateWaveArrive_wf a0 a1 (s : State) : State.MemOk s → ∀ t, execSlateWaveArrive a0 a1 s = Host.Outcome.next t → State.MemOk t := by unfold execSlateWaveArrive; grind (splits := 30) [State.memOk_def, State.restartDue_wf, State.freezeJob_mem, State.takeCtl_mem]

theorem taken_wf (s : State) (m : Ctl) (h : s.MemOk) : ((s.takeCtl m).getD s).MemOk := by
  cases hm : s.takeCtl m with
  | none => exact h
  | some r => exact State.memOk_of_mem (State.takeCtl_mem _ _ _ hm) h

theorem execDebugStep_wf a0 (s : State) : State.MemOk s → ∀ t, execDebugStep a0 s = Host.Outcome.next t → State.MemOk t := by
  intro h t ht
  unfold execDebugStep at ht
  cases ht
  refine ite_wf ?_ ?_
  · split
    · exact h
    · next id sid _ =>
      split
      · exact taken_wf _ _ h
      · refine ite_wf (State.memOk_of_mem (State.tell_mem _ _ _) (taken_wf _ _ h)) (ite_wf (State.stepBegin_wf _ _ _ h) ?_)
        have h1 := State.stepOn_wf s id sid h
        split
        · next he => rw [he] at h1; exact h1
        · next he => rw [he] at h1; exact State.memOk_of_mem (State.tell_mem _ _ _) (taken_wf _ _ h1)
  · split
    · exact h
    · next c _ =>
      dsimp only
      split
      · exact State.endCmd_wf _ _ _ _ h
      · refine ite_wf (ite_wf (State.memOk_of_mem (State.beginCmd_mem _ _) (State.memOk_of_mem (State.tell_mem _ _ _) h)) ?_) (ite_wf (ite_wf ?_ h) ?_)
        · exact State.farAnswer_wf _ _ _ _ h
        · exact State.memOk_of_mem (State.beginCmd_mem _ _) (State.stepBegin_wf _ _ _ h)
        · have h1 := State.stepOn_wf s (cmdJob 4 c.payload) (BitVec.ofNat 32 (recField c.payload 8 4)) h
          split
          · next he => rw [he] at h1; exact h1
          · next he => rw [he] at h1; exact State.endCmd_wf _ _ _ _ h1

theorem State.zeroRange_wf (s : State) a1 a2 a3 : State.MemOk s → State.MemOk (State.zeroRange s a1 a2 a3) := fun h => SMap.wf_filter memDefault _ h

theorem State.renamePlaces_mem (s : State) a1 a2 a3 : (State.renamePlaces s a1 a2 a3).mem = s.mem := by unfold State.renamePlaces; rfl

theorem State.moveFrame_wf (s : State) (key dst src n : Nat) : State.MemOk s → State.MemOk (s.moveFrame key dst src n) := by
  intro h
  refine foldl_wf _ (fun a x ha => ?_) _ _ (s.zeroRange_wf key dst n h)
  exact SMap.wf_set memDefault (m := a.mem) _ _ ha

theorem State.refill_mem (s : State) a1 a2 : (State.refill s a1 a2).mem = s.mem := by unfold State.refill; rfl

theorem execPoolRefill_mem a0 a1 (s : State) : ∀ t, execPoolRefill a0 a1 s = Host.Outcome.next t → t.mem = s.mem := by unfold execPoolRefill; grind (splits := 30) [State.refill_mem]

theorem State.abandonChunk_wf (s : State) a1 a2 : State.MemOk s → State.MemOk (State.abandonChunk s a1 a2) := by unfold State.abandonChunk; grind (splits := 30) [State.memOk_def, State.dropHeld_mem, State.onCopy_mem]

theorem State.holdBroken_wf (s : State) a1 : State.MemOk s → State.MemOk (State.holdBroken s a1) := by
  intro h
  unfold State.holdBroken
  split
  · exact h
  · split
    · exact h
    · exact State.memOk_of_mem (State.onCopy_mem _ _ _) (State.memOk_of_mem (State.copyFault_mem _ _ _ _ _)
        (foldl_wf _ (fun a x ha => State.abandonChunk_wf a _ _ ha) _ _ h))

theorem execPatrolScrub_wf a0 a1 (s : State) : State.MemOk s → ∀ t, execPatrolScrub a0 a1 s = Host.Outcome.next t → State.MemOk t := by unfold execPatrolScrub; grind (splits := 30) [State.memOk_def, State.setPoison_mem, State.logError_mem, State.holdBroken_wf, State.onPkg_mem]

theorem execFaultQueueSpace_wf a0 (s : State) : State.MemOk s → ∀ t, execFaultQueueSpace a0 s = Host.Outcome.next t → State.MemOk t := by unfold execFaultQueueSpace; grind (splits := 30) [State.memOk_def, State.onJob_mem, State.ringPut_wf]

theorem execQueueLost_wf a0 a1 a2 (s : State) : State.MemOk s → ∀ t, execQueueLost a0 a1 a2 s = Host.Outcome.next t → State.MemOk t := by unfold execQueueLost; grind (splits := 30) [State.memOk_def, State.setWorkQ_mem, State.postRecord_wf, State.setTaskQ_mem]

theorem execPageWalk_wf a0 a1 a2 a3 (s : State) : State.MemOk s → ∀ t, execPageWalk a0 a1 a2 a3 s = Host.Outcome.next t → State.MemOk t := by unfold execPageWalk; grind (splits := 30) [State.memOk_def, State.translate_wf]

theorem State.passStrand_wf (s : State) a1 a2 a3 : State.MemOk s → State.MemOk (State.passStrand s a1 a2 a3) := by unfold State.passStrand; grind (splits := 30) [State.memOk_def, State.resumeFault_mem, State.onCur_mem, State.declineHold_wf]

theorem State.passRecord_wf (s : State) a1 a2 : State.MemOk s → State.MemOk (State.passRecord s a1 a2) := by unfold State.passRecord; grind (splits := 30) [State.memOk_def, State.copiesPassed_wf, State.forUids_wf, State.passStrand_wf]

theorem State.advance_wf (s : State) a1 a2 : State.MemOk s → State.MemOk (State.advance s a1 a2) := by unfold State.advance; intro h; (try dsimp only); repeat' (first | assumption | apply foldl_wf | apply foldr_wf | apply foldl1_wf | apply foldl2_wf | split | intro _); all_goals (try grind (splits := 30) [State.memOk_def, State.passRecord_wf, State.devPut_wf])

theorem State.markRecord_wf (s : State) a1 a2 a3 : State.MemOk s → State.MemOk (State.markRecord s a1 a2 a3) := by unfold State.markRecord; grind (splits := 30) [State.memOk_def, State.devPut_wf, State.advance_wf]

theorem State.exhausted_wf (s : State) a1 a2 : State.MemOk s → State.MemOk (State.exhausted s a1 a2) := by unfold State.exhausted; grind (splits := 30) [State.memOk_def, State.killJob_wf, State.postRecord_wf]

theorem State.fillFrame_wf (s : State) a1 a2 a3 a4 : State.MemOk s → State.MemOk (State.fillFrame s a1 a2 a3 a4) := by unfold State.fillFrame; intro h; (try dsimp only); repeat' (first | assumption | apply foldl_wf | apply foldr_wf | apply foldl1_wf | apply foldl2_wf | split | intro _); all_goals (try grind (splits := 30) [State.memOk_def, State.poke_wf, State.zeroRange_wf])

theorem State.sendFrame_mem (s : State) a1 a2 a3 a4 a5 a6 : (State.sendFrame s a1 a2 a3 a4 a5 a6).mem = s.mem := by unfold State.sendFrame; (try dsimp only); repeat' (first | rfl | (apply foldl_mem; intro _ _) | split); all_goals (try grind (splits := 30) [State.sendPacket_mem])

theorem State.movePage_wf (s : State) a1 a2 a3 a4 a5 : State.MemOk s → State.MemOk (State.movePage s a1 a2 a3 a4 a5) := by unfold State.movePage; grind (splits := 30) [State.memOk_def, State.moveFrame_wf, State.fillFrame_wf, State.onPkg_mem, State.sendFrame_mem]

theorem State.serviceEntry_wf (s : State) a1 a2 a3 a4 a5 a6 : State.MemOk s → State.MemOk (State.serviceEntry s a1 a2 a3 a4 a5 a6).2 := by unfold State.serviceEntry; grind (splits := 30) [State.memOk_def, State.abandon_mem, State.dropCached_mem, State.onPkg_mem, State.devPut_wf, State.fillFrame_wf, State.movePage_wf]

theorem execPagingService_wf a0 a1 a2 a3 a4 a5 (s : State) : State.MemOk s → ∀ t, execPagingService a0 a1 a2 a3 a4 a5 s = Host.Outcome.next t → State.MemOk t := by unfold execPagingService; grind (splits := 30) [State.memOk_def, State.exhausted_wf, State.markRecord_wf, State.refill_mem, State.serviceEntry_wf]

theorem execTailAdvance_wf a0 a1 (s : State) : State.MemOk s → ∀ t, execTailAdvance a0 a1 s = Host.Outcome.next t → State.MemOk t := by unfold execTailAdvance; grind (splits := 30) [State.memOk_def, State.advance_wf]

theorem State.zeroAll_wf (s : State) : State.MemOk s → State.MemOk s.zeroAll := fun h => SMap.wf_filter memDefault _ h

theorem execFabidLock_mem a0 (s : State) : ∀ t, execFabidLock a0 s = Host.Outcome.next t → t.mem = s.mem := by unfold execFabidLock; grind (splits := 30) [State.onPkg_mem]

theorem execImgdbWrite_mem a0 (s : State) : ∀ t, execImgdbWrite a0 s = Host.Outcome.next t → t.mem = s.mem := by unfold execImgdbWrite; grind (splits := 30) [State.onPkg_mem]

theorem State.hostRel_mem (s : State) a1 : (State.hostRel s a1).2.mem = s.mem := by unfold State.hostRel; rfl

theorem execHostRead_mem a0 a1 a2 (s : State) : ∀ t, execHostRead a0 a1 a2 s = Host.Outcome.next t → t.mem = s.mem := by unfold execHostRead; grind (splits := 30) [State.hostRel_mem, State.onPkg_mem]

theorem execCyanReload_mem a0 (s : State) : ∀ t, execCyanReload a0 s = Host.Outcome.next t → t.mem = s.mem := by unfold execCyanReload; grind (splits := 30) [State.onPkg_mem]

theorem execPowerClamp_mem a0 (s : State) : ∀ t, execPowerClamp a0 s = Host.Outcome.next t → t.mem = s.mem := by unfold execPowerClamp; grind (splits := 30) [State.onPkg_mem]

theorem execDmalockWrite_mem a0 (s : State) : ∀ t, execDmalockWrite a0 s = Host.Outcome.next t → t.mem = s.mem := by unfold execDmalockWrite; grind (splits := 30) [State.onPkg_mem]

theorem execPackageReset_wf a0 a1 a2 a3 a4 a5 (s : State) : State.MemOk s → ∀ t, execPackageReset a0 a1 a2 a3 a4 a5 s = Host.Outcome.next t → State.MemOk t := by
  intro h t ht
  unfold execPackageReset at ht
  cases ht
  refine State.memOk_of_mem (State.onPkg_mem _ _) ?_
  refine foldl_wf _ (fun a x ha => ?_) _ _ (foldl_wf _ (fun a x ha => ?_) _ _ (foldl_wf _ (fun a x ha => ?_) _ _ rfl))
  all_goals (try dsimp only); (try split) <;> exact ha

theorem execThermalStep_wf a0 a1 (s : State) : State.MemOk s → ∀ t, execThermalStep a0 a1 s = Host.Outcome.next t → State.MemOk t := by
  intro h t ht
  cases ht
  split
  · exact h
  · split
    · refine foldl_wf _ (fun a x ha => ?_) _ _ h
      exact ha
    · exact h

theorem State.failLaunches_wf (s : State) a1 a2 : State.MemOk s → State.MemOk (State.failLaunches s a1 a2) := by unfold State.failLaunches; intro h; (try dsimp only); repeat' (first | assumption | apply foldl_wf | apply foldr_wf | apply foldl1_wf | apply foldl2_wf | split | intro _); all_goals (try grind (splits := 30) [State.memOk_def, State.dropCmd_mem, State.journalMove_wf])

theorem State.hostPut_wf (s : State) a1 a2 a3 : State.MemOk s → State.MemOk (State.hostPut s a1 a2 a3) := by unfold State.hostPut; grind (splits := 30) [State.memOk_def, State.hostRel_mem, State.homeWrite_wf]

theorem execHostWrite_wf a0 a1 a2 (s : State) : State.MemOk s → ∀ t, execHostWrite a0 a1 a2 s = Host.Outcome.next t → State.MemOk t := by unfold execHostWrite; intro h t ht; cases ht; (try dsimp only); repeat' (first | assumption | apply foldl_wf | apply foldr_wf | apply foldl1_wf | apply foldl2_wf | split | intro _); all_goals (try grind (splits := 30) [State.memOk_def, State.hostRel_mem, State.hostPut_wf])

theorem execRegisterWrite_wf a0 a1 (s : State) : State.MemOk s → ∀ t, execRegisterWrite a0 a1 s = Host.Outcome.next t → State.MemOk t := by unfold execRegisterWrite; grind (splits := 30) [State.memOk_def, State.onPkg_mem, State.ctlPut_wf]

theorem State.writeControl_wf (s : State) : State.MemOk s → State.MemOk (State.writeControl s) := by
  intro h
  unfold State.writeControl
  dsimp only
  refine foldl_wf _ (fun a x ha => ?_) _ _ ?_
  · exact State.ctlPut_wf _ _ _ ha
  · exact State.ctlPut_wf _ _ _ (State.ctlPut_wf _ _ _ (State.ctlPut_wf _ _ _ h))

theorem execCobaltReset_wf (s : State) : State.MemOk s → ∀ t, execCobaltReset s = Host.Outcome.next t → State.MemOk t := by unfold execCobaltReset; ((intro h t ht; cases ht; try dsimp only); (repeat' (first | assumption | with_reducible apply State.failLaunches_wf | with_reducible refine State.memOk_of_mem (State.onPkg_mem _ _) ?_ | with_reducible apply State.endJob_wf | with_reducible apply foldl_wf | with_reducible apply foldr_wf | with_reducible apply foldl1_wf | with_reducible apply foldl2_wf | split | (intro _; try dsimp only))); all_goals (try grind (splits := 30) [State.memOk_def, State.failLaunches_wf, State.onPkg_mem, State.endJob_wf]))

theorem execBootReady_wf a0 (s : State) : State.MemOk s → ∀ t, execBootReady a0 s = Host.Outcome.next t → State.MemOk t := by
  intro h t ht
  unfold execBootReady at ht
  cases ht
  dsimp only
  split
  · exact State.memOk_of_mem (State.onPkg_mem _ _) h
  · split
    · split
      · exact State.memOk_of_mem (State.onPkg_mem _ _) h
      · exact State.memOk_of_mem (State.onPkg_mem _ _) (State.memOk_of_mem (State.onPkg_mem _ _) h)
    · split
      · refine State.memOk_of_mem (State.onPkg_mem _ _) (State.writeControl_wf _ ?_)
        exact foldl_wf _ (fun a x ha => State.memOk_of_mem (State.refill_mem _ _ _) (State.memOk_of_mem (State.onDie_mem _ _ _) ha)) _ _ (State.zeroAll_wf _ h)
      · exact h

end Sys2Proof.Machine
end

