-- ==== Sys2Proof/Laws/MemoryFabric.lean ====
section
/-! SUPPORT. What the links, the host, peers, the matrix unit and the scalar instructions do to memory: nothing, or its canonical form is kept. -/

namespace Sys2Proof.Machine

set_option linter.unusedTactic false
set_option linter.unreachableTactic false

theorem State.loopFault_wf (s : State) a1 : State.MemOk s → State.MemOk (State.loopFault s a1) := by unfold State.loopFault; grind (splits := 30) [State.memOk_def, State.faultCode_wf]

theorem State.loopPush_wf (s : State) a1 a2 : State.MemOk s → State.MemOk (State.loopPush s a1 a2) := by unfold State.loopPush; grind (splits := 30) [State.memOk_def, State.loopFault_wf, State.faultCode_wf, State.onCur_mem]

theorem execLoop_wf a0 a1 (s : State) : State.MemOk s → ∀ t, execLoop a0 a1 s = Host.Outcome.next t → State.MemOk t := by unfold execLoop; grind (splits := 30) [State.memOk_def, State.issue_wf, State.loopPush_wf]

theorem execLnext_wf (s : State) : State.MemOk s → ∀ t, execLnext s = Host.Outcome.next t → State.MemOk t := by unfold execLnext; grind (splits := 30) [State.memOk_def, State.issue_wf, State.loopFault_wf, State.preemptPoint_wf, State.onCur_mem]

theorem State.branch_wf (s : State) a1 a2 a3 a4 : State.MemOk s → State.MemOk (State.branch s a1 a2 a3 a4) := by unfold State.branch; grind (splits := 30) [State.memOk_def, State.retire_wf, State.issue_wf, State.jump_mem]

theorem execBlt_wf a0 a1 a2 (s : State) : State.MemOk s → ∀ t, execBlt a0 a1 a2 s = Host.Outcome.next t → State.MemOk t := by unfold execBlt; grind (splits := 30) [State.memOk_def, State.branch_wf]

theorem execBge_wf a0 a1 a2 (s : State) : State.MemOk s → ∀ t, execBge a0 a1 a2 s = Host.Outcome.next t → State.MemOk t := by unfold execBge; grind (splits := 30) [State.memOk_def, State.branch_wf]

theorem execBltz_wf a0 a1 a2 (s : State) : State.MemOk s → ∀ t, execBltz a0 a1 a2 s = Host.Outcome.next t → State.MemOk t := by unfold execBltz; grind (splits := 30) [State.memOk_def, State.branch_wf]

theorem execLidx_wf a0 a1 (s : State) : State.MemOk s → ∀ t, execLidx a0 a1 s = Host.Outcome.next t → State.MemOk t := by unfold execLidx; grind (splits := 30) [State.memOk_def, State.retire_wf, State.issue_wf, State.loopFault_wf, State.onCur_mem]

theorem execLbrk_wf (s : State) : State.MemOk s → ∀ t, execLbrk s = Host.Outcome.next t → State.MemOk t := by unfold execLbrk; grind (splits := 30) [State.memOk_def, State.issue_wf, State.loopFault_wf, State.onCur_mem]

theorem execBne_wf a0 a1 a2 (s : State) : State.MemOk s → ∀ t, execBne a0 a1 a2 s = Host.Outcome.next t → State.MemOk t := by unfold execBne; grind (splits := 30) [State.memOk_def, State.branch_wf]

theorem execBgez_wf a0 a1 a2 (s : State) : State.MemOk s → ∀ t, execBgez a0 a1 a2 s = Host.Outcome.next t → State.MemOk t := by unfold execBgez; grind (splits := 30) [State.memOk_def, State.branch_wf]

theorem execBeq_wf a0 a1 a2 (s : State) : State.MemOk s → ∀ t, execBeq a0 a1 a2 s = Host.Outcome.next t → State.MemOk t := by unfold execBeq; grind (splits := 30) [State.memOk_def, State.branch_wf]

theorem execJal_wf a0 a1 (s : State) : State.MemOk s → ∀ t, execJal a0 a1 s = Host.Outcome.next t → State.MemOk t := by unfold execJal; grind (splits := 30) [State.memOk_def, State.issue_wf, State.jump_mem, State.onCur_mem]

theorem execLoopi_wf a0 a1 (s : State) : State.MemOk s → ∀ t, execLoopi a0 a1 s = Host.Outcome.next t → State.MemOk t := by unfold execLoopi; grind (splits := 30) [State.memOk_def, State.issue_wf, State.loopPush_wf]

theorem execJalr_wf a0 a1 a2 (s : State) : State.MemOk s → ∀ t, execJalr a0 a1 a2 s = Host.Outcome.next t → State.MemOk t := by unfold execJalr; grind (splits := 30) [State.memOk_def, State.issue_wf, State.jump_mem, State.onCur_mem]

theorem State.atomAgain_mem (s : State) : (State.atomAgain s).mem = s.mem := by unfold State.atomAgain; grind (splits := 30) [State.onCur_mem]

theorem State.dropReq_mem (s : State) a1 : (State.dropReq s a1).mem = s.mem := by unfold State.dropReq; rfl

theorem State.dropTdi_mem (s : State) a1 : (State.dropTdi s a1).mem = s.mem := by unfold State.dropTdi; rfl

theorem State.deliver_mem (s : State) a1 a2 a3 : (State.deliver s a1 a2 a3).mem = s.mem := by unfold State.deliver; grind (splits := 30) [State.onUid_mem, State.onCopy_mem, State.onPort_mem, State.onChain_mem]

theorem execTdiEnterRun_mem a0 a1 (s : State) : ∀ t, execTdiEnterRun a0 a1 s = Host.Outcome.next t → t.mem = s.mem := by unfold execTdiEnterRun; grind (splits := 30) [State.onPkg_mem]

theorem State.hearHost_mem (s : State) a1 a2 : (State.hearHost s a1 a2).mem = s.mem := by unfold State.hearHost; grind (splits := 30) [State.onUid_mem]

theorem execDmaReadCompletion_mem a0 a1 (s : State) : ∀ t, execDmaReadCompletion a0 a1 s = Host.Outcome.next t → t.mem = s.mem := by unfold execDmaReadCompletion; grind (splits := 30) [State.dropReq_mem, State.deliver_mem, State.hearHost_mem]

theorem execSpdmKeyInstall_mem a0 a1 a2 (s : State) : ∀ t, execSpdmKeyInstall a0 a1 a2 s = Host.Outcome.next t → t.mem = s.mem := by unfold execSpdmKeyInstall; grind (splits := 30) [State.onPkg_mem]

theorem execProxyReply_wf a0 (s : State) : State.MemOk s → ∀ t, execProxyReply a0 s = Host.Outcome.next t → State.MemOk t := by unfold execProxyReply; grind (splits := 30) [State.memOk_def, State.opReply_wf, State.hearHost_mem, State.onPkg_mem]

theorem execHostAtomicCompletion_wf a0 a1 (s : State) : State.MemOk s → ∀ t, execHostAtomicCompletion a0 a1 s = Host.Outcome.next t → State.MemOk t := by unfold execHostAtomicCompletion; grind (splits := 30) [State.memOk_def, State.dropReq_mem, State.opReply_wf, State.hearHost_mem, State.bitReply_wf, State.onPkg_mem, State.asUid_mem, State.asUid_wf, State.atomAgain_mem, State.copyFault_mem, State.onCopy_mem]

theorem State.leaveOn_mem (s : State) : (State.leaveOn s).mem = s.mem := by unfold State.leaveOn; (try dsimp only); repeat' (first | rfl | (apply foldl_mem; intro _ _) | split); all_goals (try grind (splits := 30) [State.dropTdi_mem])

theorem State.adoptLaunches_mem (s : State) a1 : (State.adoptLaunches s a1).mem = s.mem := by unfold State.adoptLaunches; (try dsimp only); repeat' (first | rfl | (apply foldl_mem; intro _ _) | split); all_goals (try grind (splits := 30) [State.dropCmd_mem])

theorem State.leaveRun_wf (s : State) a1 : State.MemOk s → State.MemOk (State.leaveRun s a1) := by unfold State.leaveRun; intro h; (try dsimp only); repeat' (first | assumption | apply foldl_wf | apply foldr_wf | apply foldl1_wf | apply foldl2_wf | split | intro _); all_goals (try grind (splits := 30) [State.memOk_def, State.adoptLaunches_mem, State.onPkg_mem, State.killJob_wf, State.postRecord_wf, State.leaveOn_mem])

theorem execSpdmRequest_wf a0 (s : State) : State.MemOk s → ∀ t, execSpdmRequest a0 s = Host.Outcome.next t → State.MemOk t := by unfold execSpdmRequest; grind (splits := 30) [State.memOk_def, State.leaveRun_wf, State.onPkg_mem]

theorem execTdiLeaveRun_wf a0 (s : State) : State.MemOk s → ∀ t, execTdiLeaveRun a0 s = Host.Outcome.next t → State.MemOk t := by unfold execTdiLeaveRun; grind (splits := 30) [State.memOk_def, State.leaveRun_wf]

theorem State.setLink_mem (s : State) a1 a2 : (State.setLink s a1 a2).mem = s.mem := by unfold State.setLink; rfl

theorem State.onLink_mem (s : State) a1 a2 : (State.onLink s a1 a2).mem = s.mem := by unfold State.onLink; rfl

theorem execLinkDown_mem a0 (s : State) : ∀ t, execLinkDown a0 s = Host.Outcome.next t → t.mem = s.mem := by unfold execLinkDown; grind (splits := 30) [State.onLink_mem]

theorem execStomp_mem a0 a1 a2 (s : State) : ∀ t, execStomp a0 a1 a2 s = Host.Outcome.next t → t.mem = s.mem := by unfold execStomp; grind (splits := 30) [State.onLink_mem]

theorem State.steer_mem (s : State) a1 : (State.steer s a1).mem = s.mem := by unfold State.steer; grind (splits := 30)

theorem State.flitIn_mem (s : State) a1 : (State.flitIn s a1).mem = s.mem := by unfold State.flitIn; grind (splits := 30) [State.onPkg_mem, State.steer_mem]

theorem State.takeFlit_mem (s : State) a1 a2 : (State.takeFlit s a1 a2).mem = s.mem := by unfold State.takeFlit; grind (splits := 30) [State.onLink_mem, State.flitIn_mem]

theorem execPtpMessage_mem a0 a1 a2 (s : State) : ∀ t, execPtpMessage a0 a1 a2 s = Host.Outcome.next t → t.mem = s.mem := by unfold execPtpMessage; grind (splits := 30) [State.onPkg_mem, State.steer_mem]

theorem execTimeFlit_mem a0 a1 (s : State) : ∀ t, execTimeFlit a0 a1 s = Host.Outcome.next t → t.mem = s.mem := by unfold execTimeFlit; grind (splits := 30) [State.steer_mem]

theorem execRetryRequest_mem a0 a1 (s : State) : ∀ t, execRetryRequest a0 a1 s = Host.Outcome.next t → t.mem = s.mem := by unfold execRetryRequest; grind (splits := 30) [State.onLink_mem]

theorem State.sendOut_mem (s : State) : (State.sendOut s).mem = s.mem := by unfold State.sendOut; grind (splits := 30) [State.onPkg_mem, State.setLink_mem]

theorem State.timeFlits_mem (s : State) : (State.timeFlits s).mem = s.mem := by unfold State.timeFlits; (try dsimp only); repeat' (first | rfl | (apply foldl_mem; intro _ _) | split); all_goals (try grind (splits := 30) [State.onLink_mem])

theorem State.emitAll_mem (s : State) : (State.emitAll s).mem = s.mem := by
  unfold State.emitAll
  exact foldl_mem _ (fun a x => by split <;> rfl) _ s

theorem State.emitAll_wf (s : State) : State.MemOk s → State.MemOk (State.emitAll s) := State.memOk_of_mem (State.emitAll_mem s)

theorem State.handOver_wf (s : State) : State.MemOk s → State.MemOk (State.handOver s) := by unfold State.handOver; grind (splits := 30) [State.memOk_def, State.emitAll_wf, State.sendOut_mem, State.timeFlits_mem]

theorem execFrameReceive_wf a0 a1 (s : State) : State.MemOk s → ∀ t, execFrameReceive a0 a1 s = Host.Outcome.next t → State.MemOk t := by unfold execFrameReceive; intro h t ht; cases ht; (try dsimp only); repeat' (first | assumption | apply foldl_wf | apply foldr_wf | apply foldl1_wf | apply foldl2_wf | split | intro _); all_goals (try grind (splits := 30) [State.memOk_def, State.onLink_mem, State.takeFlit_mem])

theorem State.putPacket_mem (s : State) a1 : (State.putPacket s a1).mem = s.mem := by unfold State.putPacket; rfl

theorem State.keepReply_mem (s : State) a1 a2 a3 : (State.keepReply s a1 a2 a3).mem = s.mem := by unfold State.keepReply; rfl

theorem State.replyTo_mem (s : State) a1 a2 a3 a4 : (State.replyTo s a1 a2 a3 a4).mem = s.mem := by unfold State.replyTo; rfl

theorem State.takePacket_mem (s : State) a1 a2 : ∀ r, State.takePacket s a1 a2 = some r → r.mem = s.mem := by unfold State.takePacket; grind (splits := 30) [State.onPkg_mem]

theorem State.serveOnce_mem (s : State) a1 a2 a3 (h3 : ∀ (y0 : State), (a3 y0).mem = y0.mem) : (State.serveOnce s a1 a2 a3).mem = s.mem := by unfold State.serveOnce; grind (splits := 30) [State.takePacket_mem, State.putPacket_mem]

theorem State.nackTo_mem (s : State) a1 a2 : (State.nackTo s a1 a2).mem = s.mem := by unfold State.nackTo; rfl

theorem State.ackTo_mem (s : State) a1 : (State.ackTo s a1).mem = s.mem := by unfold State.ackTo; rfl

theorem State.notePeer_mem (s : State) a1 a2 : (State.notePeer s a1 a2).mem = s.mem := by unfold State.notePeer; rfl

theorem State.sendHeld_mem (s : State) a1 : (State.sendHeld s a1).mem = s.mem := by unfold State.sendHeld; grind (splits := 30) [State.putPacket_mem, State.setPeer_mem]

theorem State.retireReq_mem (s : State) a1 a2 : (State.retireReq s a1 a2).mem = s.mem := by unfold State.retireReq; grind (splits := 30) [State.sendHeld_mem, State.setPeer_mem]

theorem State.onAnswer_mem (s : State) a1 a2 a3 a4 (h4 : ∀ y0 (y1 : State), (a4 y0 y1).mem = y1.mem) : (State.onAnswer s a1 a2 a3 a4).mem = s.mem := by unfold State.onAnswer; grind (splits := 30) [State.retireReq_mem, State.takePacket_mem]

theorem State.branchDropped_mem (s : State) a1 a2 a3 : (State.branchDropped s a1 a2 a3).mem = s.mem := by unfold State.branchDropped; grind (splits := 30) [State.resendBranch_mem, State.onPkg_mem]

theorem execMulticastBranchTimeout_mem a0 a1 a2 (s : State) : ∀ t, execMulticastBranchTimeout a0 a1 a2 s = Host.Outcome.next t → t.mem = s.mem := by unfold execMulticastBranchTimeout; grind (splits := 30) [State.branchDropped_mem]

theorem State.peerRelease_mem (s : State) a1 a2 : (State.peerRelease s a1 a2).2.mem = s.mem := by unfold State.peerRelease; rfl

theorem execPathProbe_mem a0 a1 a2 a3 (s : State) : ∀ t, execPathProbe a0 a1 a2 a3 s = Host.Outcome.next t → t.mem = s.mem := by unfold execPathProbe; grind (splits := 30) [State.setPeer_mem]

theorem execReadRequest_mem a0 (s : State) : ∀ t, execReadRequest a0 s = Host.Outcome.next t → t.mem = s.mem := by unfold execReadRequest; grind (splits := 30) [State.replyTo_mem, State.serveOnce_mem, State.nackTo_mem]

theorem State.placeChunk_wf (s : State) a1 a2 a3 : State.MemOk s → State.MemOk (State.placeChunk s a1 a2 a3).2 := by
  intro h
  unfold State.placeChunk
  dsimp only
  split
  · exact State.engineWrite_wf _ _ _ _ _ _ _ h
  · refine foldl2_wf _ (fun a x ha => ?_) _ _ ?_
    · exact State.engineReduce_wf _ _ _ _ _ _ _ _ ha
    · exact h

theorem execLaunchAgreeTimeout_wf a0 (s : State) : State.MemOk s → ∀ t, execLaunchAgreeTimeout a0 s = Host.Outcome.next t → State.MemOk t := by unfold execLaunchAgreeTimeout; grind (splits := 30) [State.memOk_def, State.checkDigests_wf, State.rejectLaunch_wf]

theorem execLaunchAcceptAnnounce_wf a0 a1 a2 a3 (s : State) : State.MemOk s → ∀ t, execLaunchAcceptAnnounce a0 a1 a2 a3 s = Host.Outcome.next t → State.MemOk t := by unfold execLaunchAcceptAnnounce; grind (splits := 30) [State.memOk_def, State.onJob_mem, State.checkDigests_wf, State.takeCtl_mem]

theorem State.peerPublishes_mem (s : State) a1 a2 a3 : (State.peerPublishes s a1 a2 a3).2.mem = s.mem := by unfold State.peerPublishes; grind (splits := 30) [State.recordRelease_mem]

theorem State.peerAtomic_wf (s : State) a1 a2 a3 a4 a5 a6 a7 a8 a9 : State.MemOk s → State.MemOk (State.peerAtomic s a1 a2 a3 a4 a5 a6 a7 a8 a9).2 := by unfold State.peerAtomic; grind (splits := 30) [State.memOk_def, State.peerPublishes_mem, State.notePeer_mem, State.homeWrite_wf]

theorem State.chainFail_wf (s : State) a1 a2 a3 : State.MemOk s → State.MemOk (State.chainFail s a1 a2 a3) := by unfold State.chainFail; grind (splits := 30) [State.memOk_def, State.cmdFail_wf, State.takeCmd_mem]

theorem execMultiJobStart_wf a0 (s : State) : State.MemOk s → ∀ t, execMultiJobStart a0 s = Host.Outcome.next t → State.MemOk t := by unfold execMultiJobStart; grind (splits := 30) [State.memOk_def, State.checkDigests_wf, State.rejectLaunch_wf, State.onJob_mem]

theorem State.combine_wf (s : State) a1 a2 a3 : State.MemOk s → State.MemOk (State.combine s a1 a2 a3).2 := by
  induction a3 generalizing s with
  | nil => exact fun h => h
  | cons m ms ih =>
    intro h
    unfold State.combine
    refine ih _ ?_
    split
    · exact h
    · exact State.memOk_of_mem (State.keepReply_mem _ _ _ _) (State.peerAtomic_wf _ _ _ _ _ _ _ _ _ _ h)

theorem execCombinedAtomic_wf a0 (s : State) : State.MemOk s → ∀ t, execCombinedAtomic a0 s = Host.Outcome.next t → State.MemOk t := by unfold execCombinedAtomic; grind (splits := 30) [State.memOk_def, State.combine_wf, State.takePacket_mem, State.putPacket_mem]

theorem execPtpLockLoss_wf (s : State) : State.MemOk s → ∀ t, execPtpLockLoss s = Host.Outcome.next t → State.MemOk t := by unfold execPtpLockLoss; intro h t ht; cases ht; (try dsimp only); repeat' (first | assumption | apply foldl_wf | apply foldr_wf | apply foldl1_wf | apply foldl2_wf | split | intro _); all_goals (try grind (splits := 30) [State.memOk_def, State.rejectLaunch_wf, State.onPkg_mem])

theorem State.serveOnce_wf (s : State) a1 a2 a3 (h3 : ∀ (y0 : State), State.MemOk y0 → State.MemOk (a3 y0)) : State.MemOk s → State.MemOk (State.serveOnce s a1 a2 a3) := by unfold State.serveOnce; grind (splits := 30) [State.memOk_def, State.takePacket_mem, State.putPacket_mem]

theorem State.forget_mem (s : State) a1 : (State.forget s a1).mem = s.mem := by unfold State.forget; rfl

theorem State.holdPart_mem (s : State) a1 : (State.holdPart s a1).mem = s.mem := by unfold State.holdPart; rfl

theorem State.placeParts_wf (s : State) a1 : State.MemOk s → State.MemOk (State.placeParts s a1).2 := by unfold State.placeParts; intro h; (try dsimp only); repeat' (first | assumption | apply foldl_wf | apply foldr_wf | apply foldl1_wf | apply foldl2_wf | split | intro _); all_goals (try grind (splits := 30) [State.memOk_def, State.placeChunk_wf, State.notePeer_mem])

theorem State.partArrives_wf (s : State) a1 : State.MemOk s → State.MemOk (State.partArrives s a1) := by unfold State.partArrives; grind (splits := 30) [State.memOk_def, State.holdPart_mem, State.forget_mem, State.placeParts_wf]

theorem State.tellBit_mem (s : State) a1 a2 : (State.tellBit s a1 a2).mem = s.mem := by unfold State.tellBit; rfl

theorem State.chunkArrives_wf (s : State) a1 : State.MemOk s → State.MemOk (State.chunkArrives s a1) := by
  intro h
  unfold State.chunkArrives
  dsimp only
  have h1 := State.memOk_of_mem (State.forget_mem s (sameChunk a1)) h
  have h2 (l : List Packet) := State.setBit_wf (State.placeParts (s.forget (sameChunk a1)) l).2 a1.keyid a1.map.toNat a1.chunk
    (State.placeParts (s.forget (sameChunk a1)) l).1 a1.scope (pkgSid a1.spkg) (State.placeParts_wf _ _ h1)
  split
  · exact State.memOk_of_mem (State.tellBit_mem _ _ _) (ite_wf h1 (h2 _))
  · exact State.memOk_of_mem (State.ackTo_mem _ _) (ite_wf h1 (h2 _))

theorem execChunkWrite_wf a0 (s : State) : State.MemOk s → ∀ t, execChunkWrite a0 s = Host.Outcome.next t → State.MemOk t := by unfold execChunkWrite; grind (splits := 30) [State.memOk_def, State.serveOnce_mem, State.serveOnce_wf, State.nackTo_mem, State.forget_mem, State.ackTo_mem, State.partArrives_wf, State.chunkArrives_wf]

theorem execWriteRequest_wf a0 (s : State) : State.MemOk s → ∀ t, execWriteRequest a0 s = Host.Outcome.next t → State.MemOk t := by unfold execWriteRequest; grind (splits := 30) [State.memOk_def, State.serveOnce_mem, State.serveOnce_wf, State.nackTo_mem, State.peerPublishes_mem, State.writeHome_wf, State.setPoison_mem, State.ackTo_mem, State.notePeer_mem]

theorem State.onAnswer_wf (s : State) a1 a2 a3 a4 (h4 : ∀ y0 (y1 : State), State.MemOk y1 → State.MemOk (a4 y0 y1)) : State.MemOk s → State.MemOk (State.onAnswer s a1 a2 a3 a4) := by unfold State.onAnswer; grind (splits := 30) [State.memOk_def, State.retireReq_mem, State.takePacket_mem]

theorem execMessageReply_wf a0 (s : State) : State.MemOk s → ∀ t, execMessageReply a0 s = Host.Outcome.next t → State.MemOk t := by unfold execMessageReply; grind (splits := 30) [State.memOk_def, State.opReply_wf, State.onAnswer_mem, State.onAnswer_wf]

theorem execAtomicRequest_wf a0 (s : State) : State.MemOk s → ∀ t, execAtomicRequest a0 s = Host.Outcome.next t → State.MemOk t := by unfold execAtomicRequest; grind (splits := 30) [State.memOk_def, State.serveOnce_mem, State.serveOnce_wf, State.nackTo_mem, State.peerAtomic_wf, State.replyTo_mem]

theorem State.readRefused_mem (s : State) a1 a2 a3 a4 : (State.readRefused s a1 a2 a3 a4).mem = s.mem := by unfold State.readRefused; grind (splits := 30) [State.copyFault_mem]

theorem State.reqFailed_wf (s : State) a1 a2 : State.MemOk s → State.MemOk (State.reqFailed s a1 a2) := by unfold State.reqFailed; (intro h; try dsimp only); (repeat' (first | assumption | with_reducible apply State.asUid_wf | with_reducible apply State.takeFault_wf | with_reducible refine State.memOk_of_mem (State.onCur_mem _ _) ?_ | with_reducible apply State.opReply_wf | with_reducible refine State.memOk_of_mem (State.copyReply_mem _ _ _) ?_ | with_reducible refine State.memOk_of_mem (State.onCopy_mem _ _ _) ?_ | with_reducible refine State.memOk_of_mem (State.readRefused_mem _ _ _ _ _) ?_ | with_reducible apply State.mcFail_wf | with_reducible refine State.memOk_of_mem (State.copyFault_mem _ _ _ _ _) ?_ | with_reducible apply State.abandonChunk_wf | with_reducible refine State.memOk_of_mem (State.onPort_mem _ _ _ _) ?_ | with_reducible apply State.chainFail_wf | with_reducible apply foldl_wf | with_reducible apply foldr_wf | with_reducible apply foldl1_wf | with_reducible apply foldl2_wf | split | (intro _; try dsimp only))); all_goals (try grind (splits := 30) [State.memOk_def, State.asUid_mem, State.asUid_wf, State.takeFault_wf, State.onCur_mem, State.opReply_wf, State.copyReply_mem, State.onCopy_mem, State.readRefused_mem, State.mcFail_wf, State.copyFault_mem, State.abandonChunk_wf, State.onPort_mem, State.chainFail_wf])

theorem execReadReply_wf a0 (s : State) : State.MemOk s → ∀ t, execReadReply a0 s = Host.Outcome.next t → State.MemOk t := by unfold execReadReply; grind (splits := 30) [State.memOk_def, State.onCopy_mem, State.onAnswer_mem, State.onAnswer_wf, State.reqFailed_wf, State.deliver_mem]

theorem State.mcParts_wf (s : State) a1 a2 : State.MemOk s → State.MemOk (State.mcParts s a1 a2).2 := by unfold State.mcParts; intro h; (try dsimp only); repeat' (first | assumption | apply foldl_wf | apply foldr_wf | apply foldl1_wf | apply foldl2_wf | split | intro _); all_goals (try grind (splits := 30) [State.memOk_def, State.uePlace_wf, State.notePeer_mem])

theorem State.mcChecked_wf (s : State) a1 a2 : State.MemOk s → State.MemOk (State.mcChecked s a1 a2).1 := by
  induction a2 generalizing s with
  | nil => exact fun h => h
  | cons p ps ih =>
    intro h
    have hu := State.uePlaces_wf s a1 p.addr p.data.length .copyDst h
    unfold State.mcChecked
    split
    · next he => rw [he] at hu; exact hu
    · next he => rw [he] at hu; exact ih _ hu

theorem State.mcArrives_wf (s : State) a1 a2 : State.MemOk s → State.MemOk (State.mcArrives s a1 a2) := by unfold State.mcArrives; grind (splits := 30) [State.memOk_def, State.engReach_wf, State.nackTo_mem, State.forget_mem, State.ackTo_mem, State.mcChecked_wf, State.mcParts_wf, State.setBit_wf]

theorem execMulticastChunkWrite_wf a0 (s : State) : State.MemOk s → ∀ t, execMulticastChunkWrite a0 s = Host.Outcome.next t → State.MemOk t := by unfold execMulticastChunkWrite; grind (splits := 30) [State.memOk_def, State.serveOnce_mem, State.serveOnce_wf, State.nackTo_mem, State.ackTo_mem, State.holdPart_mem, State.mcArrives_wf]

theorem State.mcAcked_mem (s : State) a1 a2 : (State.mcAcked s a1 a2).mem = s.mem := by unfold State.mcAcked; grind (splits := 30) [State.mcCommitted_mem, State.sendChunk_mem]

theorem execAck_wf a0 (s : State) : State.MemOk s → ∀ t, execAck a0 s = Host.Outcome.next t → State.MemOk t := by unfold execAck; grind (splits := 30) [State.memOk_def, State.onAnswer_mem, State.onAnswer_wf, State.onUid_mem, State.copyReply_mem, State.mcAcked_mem, State.commitChunk_wf, State.bitTaken_wf, State.noteBit_mem, State.onChain_mem]

theorem execMessage_wf a0 (s : State) : State.MemOk s → ∀ t, execMessage a0 s = Host.Outcome.next t → State.MemOk t := by unfold execMessage; grind (splits := 30) [State.memOk_def, State.replyTo_mem, State.boxPut_wf, State.peerRelease_mem, State.serveOnce_mem, State.serveOnce_wf, State.nackTo_mem]

theorem execCombinedReply_wf a0 (s : State) : State.MemOk s → ∀ t, execCombinedReply a0 s = Host.Outcome.next t → State.MemOk t := by unfold execCombinedReply; intro h t ht; cases ht; (try dsimp only); repeat' (first | assumption | apply foldl_wf | apply foldr_wf | apply foldl1_wf | apply foldl2_wf | split | intro _); all_goals (try grind (splits := 30) [State.memOk_def, State.opReply_wf, State.cmdDone_mem, State.retireReq_mem, State.takePacket_mem])

theorem execAtomicReply_wf a0 (s : State) : State.MemOk s → ∀ t, execAtomicReply a0 s = Host.Outcome.next t → State.MemOk t := by unfold execAtomicReply; (intro h t ht; cases ht; try dsimp only); (repeat' (first | assumption | with_reducible apply State.onAnswer_wf | with_reducible apply State.opReply_wf | with_reducible refine State.memOk_of_mem (State.copyReply_mem _ _ _) ?_ | with_reducible refine State.memOk_of_mem (State.cmdDone_mem _ _ _) ?_ | with_reducible apply foldl_wf | with_reducible apply foldr_wf | with_reducible apply foldl1_wf | with_reducible apply foldl2_wf | split | (intro _; try dsimp only))); all_goals (try grind (splits := 30) [State.memOk_def, State.onAnswer_mem, State.onAnswer_wf, State.opReply_wf, State.copyReply_mem, State.cmdDone_mem])

theorem State.giveUp_mem (s : State) a1 a2 : (State.giveUp s a1 a2).mem = s.mem := by unfold State.giveUp; grind (splits := 30) [State.sendHeld_mem, State.setPeer_mem]

theorem execE2eRetransmit_wf a0 a1 (s : State) : State.MemOk s → ∀ t, execE2eRetransmit a0 a1 s = Host.Outcome.next t → State.MemOk t := by unfold execE2eRetransmit; grind (splits := 30) [State.memOk_def, State.reqFailed_wf, State.giveUp_mem, State.putPacket_mem, State.setPeer_mem]

theorem execNack_wf a0 (s : State) : State.MemOk s → ∀ t, execNack a0 s = Host.Outcome.next t → State.MemOk t := by unfold execNack; grind (splits := 30) [State.memOk_def, State.branchDropped_mem, State.onAnswer_mem, State.onAnswer_wf, State.reqFailed_wf, State.takePacket_mem]

theorem State.elapse_mem (s : State) a1 a2 : (State.elapse s a1 a2).mem = s.mem := by unfold State.elapse; rfl

theorem State.fetch_wf (s : State) : State.MemOk s → State.MemOk (State.fetch s).1 := by unfold State.fetch; grind (splits := 30) [State.memOk_def, State.place_wf]

theorem execFetchProblem_wf (s : State) : State.MemOk s → ∀ t, execFetchProblem s = Host.Outcome.next t → State.MemOk t := by unfold execFetchProblem; grind (splits := 30) [State.memOk_def, State.takeFault_wf, State.fetch_wf]

theorem execIllegalWordIssue_wf a0 (s : State) : State.MemOk s → ∀ t, execIllegalWordIssue a0 s = Host.Outcome.next t → State.MemOk t := by unfold execIllegalWordIssue; grind (splits := 30) [State.memOk_def, State.faultCode_wf]

theorem execLdH_wf a0 a1 a2 (s : State) : State.MemOk s → ∀ t, execLdH a0 a1 a2 s = Host.Outcome.next t → State.MemOk t := by unfold execLdH; grind (splits := 30) [State.memOk_def, State.loadScalar_wf]

theorem execLdBz_wf a0 a1 a2 (s : State) : State.MemOk s → ∀ t, execLdBz a0 a1 a2 s = Host.Outcome.next t → State.MemOk t := by unfold execLdBz; grind (splits := 30) [State.memOk_def, State.loadScalar_wf]

theorem execStD_wf a0 a1 a2 (s : State) : State.MemOk s → ∀ t, execStD a0 a1 a2 s = Host.Outcome.next t → State.MemOk t := by unfold execStD; grind (splits := 30) [State.memOk_def, State.storeScalar_wf]

theorem execStH_wf a0 a1 a2 (s : State) : State.MemOk s → ∀ t, execStH a0 a1 a2 s = Host.Outcome.next t → State.MemOk t := by unfold execStH; grind (splits := 30) [State.memOk_def, State.storeScalar_wf]

theorem execLdD_wf a0 a1 a2 (s : State) : State.MemOk s → ∀ t, execLdD a0 a1 a2 s = Host.Outcome.next t → State.MemOk t := by unfold execLdD; grind (splits := 30) [State.memOk_def, State.loadScalar_wf]

theorem execLdWz_wf a0 a1 a2 (s : State) : State.MemOk s → ∀ t, execLdWz a0 a1 a2 s = Host.Outcome.next t → State.MemOk t := by unfold execLdWz; grind (splits := 30) [State.memOk_def, State.loadScalar_wf]

theorem execLdB_wf a0 a1 a2 (s : State) : State.MemOk s → ∀ t, execLdB a0 a1 a2 s = Host.Outcome.next t → State.MemOk t := by unfold execLdB; grind (splits := 30) [State.memOk_def, State.loadScalar_wf]

theorem execStW_wf a0 a1 a2 (s : State) : State.MemOk s → ∀ t, execStW a0 a1 a2 s = Host.Outcome.next t → State.MemOk t := by unfold execStW; grind (splits := 30) [State.memOk_def, State.storeScalar_wf]

theorem execLdW_wf a0 a1 a2 (s : State) : State.MemOk s → ∀ t, execLdW a0 a1 a2 s = Host.Outcome.next t → State.MemOk t := by unfold execLdW; grind (splits := 30) [State.memOk_def, State.loadScalar_wf]

theorem execLdHz_wf a0 a1 a2 (s : State) : State.MemOk s → ∀ t, execLdHz a0 a1 a2 s = Host.Outcome.next t → State.MemOk t := by unfold execLdHz; grind (splits := 30) [State.memOk_def, State.loadScalar_wf]

theorem execStB_wf a0 a1 a2 (s : State) : State.MemOk s → ∀ t, execStB a0 a1 a2 s = Host.Outcome.next t → State.MemOk t := by unfold execStB; grind (splits := 30) [State.memOk_def, State.storeScalar_wf]

theorem State.onMatrix_mem (s : State) a1 a2 : (State.onMatrix s a1 a2).mem = s.mem := by unfold State.onMatrix; rfl

theorem execMldComplete_mem a0 (s : State) : ∀ t, execMldComplete a0 s = Host.Outcome.next t → t.mem = s.mem := by unfold execMldComplete; grind (splits := 30) [State.onMatrix_mem]

theorem execMswapPerformed_mem a0 (s : State) : ∀ t, execMswapPerformed a0 s = Host.Outcome.next t → t.mem = s.mem := by unfold execMswapPerformed; grind (splits := 30) [State.onMatrix_mem]

theorem State.readPiece_mem (s : State) a1 a2 a3 : (State.readPiece s a1 a2 a3).1.mem = s.mem := by fun_induction State.readPiece s a1 a2 a3 <;> grind (splits := 30) [State.loadHere_mem]

theorem execMstrRowFinal_mem a0 a1 (s : State) : ∀ t, execMstrRowFinal a0 a1 s = Host.Outcome.next t → t.mem = s.mem := by unfold execMstrRowFinal; grind (splits := 30) [State.onMatrix_mem]

theorem execMzeroPerformed_mem a0 (s : State) : ∀ t, execMzeroPerformed a0 s = Host.Outcome.next t → t.mem = s.mem := by unfold execMzeroPerformed; grind (splits := 30) [State.onMatrix_mem]

theorem State.reachAll_wf (s : State) a1 a2 : State.MemOk s → State.MemOk (State.reachAll s a1 a2).1 := by fun_induction State.reachAll s a1 a2 <;> grind (splits := 30) [State.memOk_def, State.reach_wf]

theorem State.readRows_wf (s : State) a1 a2 : State.MemOk s → State.MemOk (State.readRows s a1 a2).1 := by
  intro h
  unfold State.readRows
  refine foldl1_wf _ (fun a x ha => ?_) _ _ h
  dsimp only
  refine foldl1_wf _ (fun b y hb => ?_) _ _ ha
  dsimp only
  have := State.readPiece_mem b.1 y.2.2.2 (y.2.2.1 / 4) 0
  split
  · exact State.memOk_of_mem (State.onCur_mem _ _) (State.memOk_of_mem this hb)
  · exact State.memOk_of_mem this hb

theorem State.mstRow_wf (s : State) a1 a2 a3 : State.MemOk s → State.MemOk (State.mstRow s a1 a2 a3) := by unfold State.mstRow; intro h; (try dsimp only); repeat' (first | assumption | apply foldl_wf | apply foldr_wf | apply foldl1_wf | apply foldl2_wf | split | intro _); all_goals (try grind (splits := 30) [State.memOk_def, State.sableWrite_wf, State.keepStore_wf])

theorem State.matPut_wf (s : State) a1 a2 (h2 : ∀ (y0 : State), State.MemOk y0 → State.MemOk (a2 y0)) : State.MemOk s → State.MemOk (State.matPut s a1 a2) := by unfold State.matPut; grind (splits := 30) [State.memOk_def, State.boundedWait_wf, State.onMatrix_mem]

theorem execMrdWrite_wf a0 (s : State) : State.MemOk s → ∀ t, execMrdWrite a0 s = Host.Outcome.next t → State.MemOk t := by unfold execMrdWrite; grind (splits := 30) [State.memOk_def, State.asUid_mem, State.asUid_wf, State.entryFault_wf, State.onMatrix_mem, State.onUid_mem]

theorem execMstRowWrite_wf a0 (s : State) : State.MemOk s → ∀ t, execMstRowWrite a0 s = Host.Outcome.next t → State.MemOk t := by unfold execMstRowWrite; grind (splits := 30) [State.memOk_def, State.asUid_mem, State.asUid_wf, State.entryFault_wf, State.mstRow_wf, State.onMatrix_mem]

theorem execMatrixWaitExpired_wf a0 (s : State) : State.MemOk s → ∀ t, execMatrixWaitExpired a0 s = Host.Outcome.next t → State.MemOk t := by unfold execMatrixWaitExpired; grind (splits := 30) [State.memOk_def, State.asUid_mem, State.asUid_wf, State.expireRows_wf, State.expire_wf]

theorem State.matIssue_wf (s : State) a1 a2 a3 a4 (h4 : ∀ (y0 : State), State.MemOk y0 → State.MemOk (a4 y0)) : State.MemOk s → State.MemOk (State.matIssue s a1 a2 a3 a4) := by unfold State.matIssue; grind (splits := 30) [State.memOk_def, State.issue_wf, State.faultCode_wf]

theorem execMzero_wf a0 (s : State) : State.MemOk s → ∀ t, execMzero a0 s = Host.Outcome.next t → State.MemOk t := by unfold execMzero; grind (splits := 30) [State.memOk_def, State.retire_wf, State.matPut_wf, State.matIssue_wf]

theorem execMst_wf a0 a1 a2 a3 (s : State) : State.MemOk s → ∀ t, execMst a0 a1 a2 a3 s = Host.Outcome.next t → State.MemOk t := by unfold execMst; grind (splits := 30) [State.memOk_def, State.faultCode_wf, State.matIssue_wf, State.reachAll_wf, State.takeFault_wf, State.matPut_wf, State.retire_wf]

theorem State.queueMrd_mem (s : State) a1 : (State.queueMrd s a1).mem = s.mem := by unfold State.queueMrd; rfl

theorem execMrd_wf a0 a1 a2 (s : State) : State.MemOk s → ∀ t, execMrd a0 a1 a2 s = Host.Outcome.next t → State.MemOk t := by unfold execMrd; grind (splits := 30) [State.memOk_def, State.matIssue_wf, State.retire_wf, State.queueMrd_mem, State.faultCode_wf, State.onCur_mem]

theorem State.clearOfRows_mem (s : State) a1 a2 (h2 : ∀ (y0 : State), (a2 y0).mem = y0.mem) : (State.clearOfRows s a1 a2).mem = s.mem := by unfold State.clearOfRows; grind (splits := 30) [State.holdOn_mem]

theorem State.reachAll_gives {y s1 : State} {need : Need} {rows : List (Nat × Word × Nat)}
    {r : Except (Fail × Word) (List (Nat × Word × Nat × Hit))} (he : y.reachAll need rows = (s1, r)) (hy : y.MemOk) : s1.MemOk := by
  have := State.reachAll_wf y need rows hy
  rwa [he] at this

theorem State.clearOfRows_wf (s : State) a1 a2 (h2 : ∀ (y : State), State.MemOk y → State.MemOk (a2 y)) :
    State.MemOk s → State.MemOk (State.clearOfRows s a1 a2) := by
  unfold State.clearOfRows
  grind (splits := 30) [State.memOk_def, State.holdOn_mem]

theorem execMld_wf a0 a1 a2 (s : State) : State.MemOk s → ∀ t, execMld a0 a1 a2 s = Host.Outcome.next t → State.MemOk t := by
  unfold execMld
  intro h t ht
  cases ht
  split
  · exact State.faultCode_wf _ _ _ _ _ h
  · refine State.matIssue_wf _ _ _ _ _ (fun y hy => ?_) h
    dsimp only
    split
    · exact State.faultCode_wf _ _ _ _ _ hy
    · have hr := fun need rows => State.reachAll_wf y need rows hy
      split
      · next he => exact State.takeFault_wf _ _ (State.reachAll_gives he hy)
      · next he =>
        exact State.clearOfRows_wf _ _ _ (fun z hz => State.matPut_wf _ _ _ (fun _ hx => State.retire_wf _ hx) (State.readRows_wf _ _ _ hz)) (State.reachAll_gives he hy)

theorem execMstr_wf a0 a1 a2 a3 a4 (s : State) : State.MemOk s → ∀ t, execMstr a0 a1 a2 a3 a4 s = Host.Outcome.next t → State.MemOk t := by
  unfold execMstr
  intro h t ht
  cases ht
  split
  · exact State.faultCode_wf _ _ _ _ _ h
  · refine State.matIssue_wf _ _ _ _ _ (fun y hy => ?_) h
    dsimp only
    split
    · exact State.faultCode_wf _ _ _ _ _ hy
    · split
      · exact State.faultCode_wf _ _ _ _ _ hy
      · have hr := fun need rows => State.reachAll_wf y need rows hy
        split
        · next he => exact State.takeFault_wf _ _ (State.reachAll_gives he hy)
        · next he =>
          exact State.clearOfRows_wf _ _ _ (fun z hz => State.matPut_wf _ _ _
            (fun x hx => State.retire_wf _ (State.memOk_of_mem (State.onMatrix_mem _ _ _) hx)) (State.readRows_wf _ _ _ hz)) (State.reachAll_gives he hy)

theorem execMswap_wf (s : State) : State.MemOk s → ∀ t, execMswap s = Host.Outcome.next t → State.MemOk t := by unfold execMswap; grind (splits := 30) [State.memOk_def, State.retire_wf, State.matPut_wf, State.matIssue_wf]

theorem State.alu_wf (s : State) a1 a2 a3 a4 : State.MemOk s → State.MemOk (State.alu s a1 a2 a3 a4) := by unfold State.alu; grind (splits := 30) [State.memOk_def, State.retire_wf, State.issue_wf, State.onCur_mem]

theorem execDiv_wf a0 a1 a2 (s : State) : State.MemOk s → ∀ t, execDiv a0 a1 a2 s = Host.Outcome.next t → State.MemOk t := by unfold execDiv; grind (splits := 30) [State.memOk_def, State.alu_wf]

theorem execSra_wf a0 a1 a2 (s : State) : State.MemOk s → ∀ t, execSra a0 a1 a2 s = Host.Outcome.next t → State.MemOk t := by unfold execSra; grind (splits := 30) [State.memOk_def, State.alu_wf]

theorem execAnd_wf a0 a1 a2 (s : State) : State.MemOk s → ∀ t, execAnd a0 a1 a2 s = Host.Outcome.next t → State.MemOk t := by unfold execAnd; grind (splits := 30) [State.memOk_def, State.alu_wf]

theorem execMaxz_wf a0 a1 a2 (s : State) : State.MemOk s → ∀ t, execMaxz a0 a1 a2 s = Host.Outcome.next t → State.MemOk t := by unfold execMaxz; grind (splits := 30) [State.memOk_def, State.alu_wf]

theorem State.alu1_wf (s : State) a1 a2 a3 : State.MemOk s → State.MemOk (State.alu1 s a1 a2 a3) := by unfold State.alu1; grind (splits := 30) [State.memOk_def, State.retire_wf, State.issue_wf, State.onCur_mem]

theorem execBswap_wf a0 a1 (s : State) : State.MemOk s → ∀ t, execBswap a0 a1 s = Host.Outcome.next t → State.MemOk t := by unfold execBswap; grind (splits := 30) [State.memOk_def, State.alu1_wf]

theorem execXori_wf a0 a1 a2 (s : State) : State.MemOk s → ∀ t, execXori a0 a1 a2 s = Host.Outcome.next t → State.MemOk t := by unfold execXori; grind (splits := 30) [State.memOk_def, State.alu1_wf]

theorem execAdd_wf a0 a1 a2 (s : State) : State.MemOk s → ∀ t, execAdd a0 a1 a2 s = Host.Outcome.next t → State.MemOk t := by unfold execAdd; grind (splits := 30) [State.memOk_def, State.alu_wf]

theorem execSrl_wf a0 a1 a2 (s : State) : State.MemOk s → ∀ t, execSrl a0 a1 a2 s = Host.Outcome.next t → State.MemOk t := by unfold execSrl; grind (splits := 30) [State.memOk_def, State.alu_wf]

theorem execOr_wf a0 a1 a2 (s : State) : State.MemOk s → ∀ t, execOr a0 a1 a2 s = Host.Outcome.next t → State.MemOk t := by unfold execOr; grind (splits := 30) [State.memOk_def, State.alu_wf]

theorem execSlt_wf a0 a1 a2 (s : State) : State.MemOk s → ∀ t, execSlt a0 a1 a2 s = Host.Outcome.next t → State.MemOk t := by unfold execSlt; grind (splits := 30) [State.memOk_def, State.alu_wf]

theorem execSlli_wf a0 a1 a2 (s : State) : State.MemOk s → ∀ t, execSlli a0 a1 a2 s = Host.Outcome.next t → State.MemOk t := by unfold execSlli; grind (splits := 30) [State.memOk_def, State.alu1_wf]

theorem execSltz_wf a0 a1 a2 (s : State) : State.MemOk s → ∀ t, execSltz a0 a1 a2 s = Host.Outcome.next t → State.MemOk t := by unfold execSltz; grind (splits := 30) [State.memOk_def, State.alu_wf]

theorem execRem_wf a0 a1 a2 (s : State) : State.MemOk s → ∀ t, execRem a0 a1 a2 s = Host.Outcome.next t → State.MemOk t := by unfold execRem; grind (splits := 30) [State.memOk_def, State.alu_wf]

theorem execXor_wf a0 a1 a2 (s : State) : State.MemOk s → ∀ t, execXor a0 a1 a2 s = Host.Outcome.next t → State.MemOk t := by unfold execXor; grind (splits := 30) [State.memOk_def, State.alu_wf]

theorem execMin_wf a0 a1 a2 (s : State) : State.MemOk s → ∀ t, execMin a0 a1 a2 s = Host.Outcome.next t → State.MemOk t := by unfold execMin; grind (splits := 30) [State.memOk_def, State.alu_wf]

theorem execRemz_wf a0 a1 a2 (s : State) : State.MemOk s → ∀ t, execRemz a0 a1 a2 s = Host.Outcome.next t → State.MemOk t := by unfold execRemz; grind (splits := 30) [State.memOk_def, State.alu_wf]

theorem execPopc_wf a0 a1 (s : State) : State.MemOk s → ∀ t, execPopc a0 a1 s = Host.Outcome.next t → State.MemOk t := by unfold execPopc; grind (splits := 30) [State.memOk_def, State.alu1_wf]

theorem execSltiz_wf a0 a1 a2 (s : State) : State.MemOk s → ∀ t, execSltiz a0 a1 a2 s = Host.Outcome.next t → State.MemOk t := by unfold execSltiz; grind (splits := 30) [State.memOk_def, State.alu1_wf]

theorem execSrli_wf a0 a1 a2 (s : State) : State.MemOk s → ∀ t, execSrli a0 a1 a2 s = Host.Outcome.next t → State.MemOk t := by unfold execSrli; grind (splits := 30) [State.memOk_def, State.alu1_wf]

theorem State.alu0_wf (s : State) a1 a2 : State.MemOk s → State.MemOk (State.alu0 s a1 a2) := by unfold State.alu0; grind (splits := 30) [State.memOk_def, State.retire_wf, State.issue_wf, State.onCur_mem]

theorem execAupc_wf a0 a1 (s : State) : State.MemOk s → ∀ t, execAupc a0 a1 s = Host.Outcome.next t → State.MemOk t := by unfold execAupc; grind (splits := 30) [State.memOk_def, State.alu0_wf]

theorem execMax_wf a0 a1 a2 (s : State) : State.MemOk s → ∀ t, execMax a0 a1 a2 s = Host.Outcome.next t → State.MemOk t := by unfold execMax; grind (splits := 30) [State.memOk_def, State.alu_wf]

theorem execSll_wf a0 a1 a2 (s : State) : State.MemOk s → ∀ t, execSll a0 a1 a2 s = Host.Outcome.next t → State.MemOk t := by unfold execSll; grind (splits := 30) [State.memOk_def, State.alu_wf]

theorem execSlti_wf a0 a1 a2 (s : State) : State.MemOk s → ∀ t, execSlti a0 a1 a2 s = Host.Outcome.next t → State.MemOk t := by unfold execSlti; grind (splits := 30) [State.memOk_def, State.alu1_wf]

theorem execMul_wf a0 a1 a2 (s : State) : State.MemOk s → ∀ t, execMul a0 a1 a2 s = Host.Outcome.next t → State.MemOk t := by unfold execMul; grind (splits := 30) [State.memOk_def, State.alu_wf]

theorem execMinz_wf a0 a1 a2 (s : State) : State.MemOk s → ∀ t, execMinz a0 a1 a2 s = Host.Outcome.next t → State.MemOk t := by unfold execMinz; grind (splits := 30) [State.memOk_def, State.alu_wf]

theorem execMulh_wf a0 a1 a2 (s : State) : State.MemOk s → ∀ t, execMulh a0 a1 a2 s = Host.Outcome.next t → State.MemOk t := by unfold execMulh; grind (splits := 30) [State.memOk_def, State.alu_wf]

theorem execSrai_wf a0 a1 a2 (s : State) : State.MemOk s → ∀ t, execSrai a0 a1 a2 s = Host.Outcome.next t → State.MemOk t := by unfold execSrai; grind (splits := 30) [State.memOk_def, State.alu1_wf]

theorem execMulhz_wf a0 a1 a2 (s : State) : State.MemOk s → ∀ t, execMulhz a0 a1 a2 s = Host.Outcome.next t → State.MemOk t := by unfold execMulhz; grind (splits := 30) [State.memOk_def, State.alu_wf]

theorem execCtz_wf a0 a1 (s : State) : State.MemOk s → ∀ t, execCtz a0 a1 s = Host.Outcome.next t → State.MemOk t := by unfold execCtz; grind (splits := 30) [State.memOk_def, State.alu1_wf]

theorem execDivz_wf a0 a1 a2 (s : State) : State.MemOk s → ∀ t, execDivz a0 a1 a2 s = Host.Outcome.next t → State.MemOk t := by unfold execDivz; grind (splits := 30) [State.memOk_def, State.alu_wf]

theorem execAndi_wf a0 a1 a2 (s : State) : State.MemOk s → ∀ t, execAndi a0 a1 a2 s = Host.Outcome.next t → State.MemOk t := by unfold execAndi; grind (splits := 30) [State.memOk_def, State.alu1_wf]

theorem execLui_wf a0 a1 (s : State) : State.MemOk s → ∀ t, execLui a0 a1 s = Host.Outcome.next t → State.MemOk t := by unfold execLui; grind (splits := 30) [State.memOk_def, State.alu0_wf]

theorem execAddi_wf a0 a1 a2 (s : State) : State.MemOk s → ∀ t, execAddi a0 a1 a2 s = Host.Outcome.next t → State.MemOk t := by unfold execAddi; grind (splits := 30) [State.memOk_def, State.alu1_wf]

theorem execSub_wf a0 a1 a2 (s : State) : State.MemOk s → ∀ t, execSub a0 a1 a2 s = Host.Outcome.next t → State.MemOk t := by unfold execSub; grind (splits := 30) [State.memOk_def, State.alu_wf]

theorem execClz_wf a0 a1 (s : State) : State.MemOk s → ∀ t, execClz a0 a1 s = Host.Outcome.next t → State.MemOk t := by unfold execClz; grind (splits := 30) [State.memOk_def, State.alu1_wf]

theorem execOri_wf a0 a1 a2 (s : State) : State.MemOk s → ∀ t, execOri a0 a1 a2 s = Host.Outcome.next t → State.MemOk t := by unfold execOri; grind (splits := 30) [State.memOk_def, State.alu1_wf]

theorem execYield_wf (s : State) : State.MemOk s → ∀ t, execYield s = Host.Outcome.next t → State.MemOk t := by unfold execYield; grind (splits := 30) [State.memOk_def, State.retire_wf, State.issue_wf, State.preemptPoint_wf]

theorem execSvc_wf (s : State) : State.MemOk s → ∀ t, execSvc s = Host.Outcome.next t → State.MemOk t := by unfold execSvc; grind (splits := 30) [State.memOk_def, State.waitOn_mem, State.issue_wf, State.postRecord_wf, State.finish_wf, State.onCur_mem]

theorem execGetc_wf a0 a1 (s : State) : State.MemOk s → ∀ t, execGetc a0 a1 s = Host.Outcome.next t → State.MemOk t := by unfold execGetc; grind (splits := 30) [State.memOk_def, State.retire_wf, State.issue_wf, State.onCur_mem, State.drained_mem, State.drained_wf]

theorem execIfence_wf (s : State) : State.MemOk s → ∀ t, execIfence s = Host.Outcome.next t → State.MemOk t := by unfold execIfence; grind (splits := 30) [State.memOk_def, State.issue_wf, State.drained_mem, State.drained_wf, State.retire_wf, State.onCur_mem]

theorem execBrk_wf (s : State) : State.MemOk s → ∀ t, execBrk s = Host.Outcome.next t → State.MemOk t := by unfold execBrk; grind (splits := 30) [State.memOk_def, State.retire_wf, State.noteLocal_mem, State.issue_wf, State.trigger_mem, State.postRecord_wf, State.onCur_mem]

theorem execSwapc_wf a0 a1 a2 (s : State) : State.MemOk s → ∀ t, execSwapc a0 a1 a2 s = Host.Outcome.next t → State.MemOk t := by unfold execSwapc; grind (splits := 30) [State.memOk_def, State.retire_wf, State.issue_wf, State.faultCode_wf, State.onCur_mem, State.drained_mem, State.drained_wf]

theorem execSetc_wf a0 a1 (s : State) : State.MemOk s → ∀ t, execSetc a0 a1 s = Host.Outcome.next t → State.MemOk t := by unfold execSetc; grind (splits := 30) [State.memOk_def, State.retire_wf, State.issue_wf, State.faultCode_wf, State.onCur_mem, State.drained_mem, State.drained_wf]

theorem execSleep_wf a0 (s : State) : State.MemOk s → ∀ t, execSleep a0 s = Host.Outcome.next t → State.MemOk t := by unfold execSleep; grind (splits := 30) [State.memOk_def, State.issue_wf, State.deadlineWait_wf]

end Sys2Proof.Machine
end

