-- ==== Sys2Proof/Laws/MemoryIssue.lean ====
section
/-! SUPPORT. What vector arithmetic, masks, permutes and an issue do to memory: nothing, or its canonical form is kept. -/

namespace Sys2Proof.Machine

set_option linter.unusedTactic false
set_option linter.unreachableTactic false

theorem State.vbin_wf (s : State) a1 a2 a3 a4 a5 a6 a7 : State.MemOk s → State.MemOk (State.vbin s a1 a2 a3 a4 a5 a6 a7) := by unfold State.vbin; grind (splits := 30) [State.memOk_def, State.vdone_wf, State.onCur_mem, State.vissue_wf]

theorem execVnmac_wf a0 a1 a2 a3 (s : State) : State.MemOk s → ∀ t, execVnmac a0 a1 a2 a3 s = Host.Outcome.next t → State.MemOk t := by unfold execVnmac; grind (splits := 30) [State.memOk_def, State.vbin_wf]

theorem State.vun_wf (s : State) a1 a2 a3 a4 a5 a6 : State.MemOk s → State.MemOk (State.vun s a1 a2 a3 a4 a5 a6) := by unfold State.vun; grind (splits := 30) [State.memOk_def, State.vdone_wf, State.onCur_mem, State.vissue_wf]

theorem execVneg_wf a0 a1 a2 (s : State) : State.MemOk s → ∀ t, execVneg a0 a1 a2 s = Host.Outcome.next t → State.MemOk t := by unfold execVneg; grind (splits := 30) [State.memOk_def, State.vun_wf]

theorem State.vbinS_wf (s : State) a1 a2 a3 a4 a5 a6 a7 : State.MemOk s → State.MemOk (State.vbinS s a1 a2 a3 a4 a5 a6 a7) := by unfold State.vbinS; grind (splits := 30) [State.memOk_def, State.vdone_wf, State.onCur_mem, State.vissue_wf]

theorem execVsubS_wf a0 a1 a2 a3 (s : State) : State.MemOk s → ∀ t, execVsubS a0 a1 a2 a3 s = Host.Outcome.next t → State.MemOk t := by unfold execVsubS; grind (splits := 30) [State.memOk_def, State.vbinS_wf]

theorem execVmul_wf a0 a1 a2 a3 (s : State) : State.MemOk s → ∀ t, execVmul a0 a1 a2 a3 s = Host.Outcome.next t → State.MemOk t := by unfold execVmul; grind (splits := 30) [State.memOk_def, State.vbin_wf]

theorem execVsraS_wf a0 a1 a2 a3 (s : State) : State.MemOk s → ∀ t, execVsraS a0 a1 a2 a3 s = Host.Outcome.next t → State.MemOk t := by unfold execVsraS; grind (splits := 30) [State.memOk_def, State.vbinS_wf]

theorem execVnmacS_wf a0 a1 a2 a3 (s : State) : State.MemOk s → ∀ t, execVnmacS a0 a1 a2 a3 s = Host.Outcome.next t → State.MemOk t := by unfold execVnmacS; grind (splits := 30) [State.memOk_def, State.vbinS_wf]

theorem execVsra_wf a0 a1 a2 a3 (s : State) : State.MemOk s → ∀ t, execVsra a0 a1 a2 a3 s = Host.Outcome.next t → State.MemOk t := by unfold execVsra; grind (splits := 30) [State.memOk_def, State.vbin_wf]

theorem execVsllS_wf a0 a1 a2 a3 (s : State) : State.MemOk s → ∀ t, execVsllS a0 a1 a2 a3 s = Host.Outcome.next t → State.MemOk t := by unfold execVsllS; grind (splits := 30) [State.memOk_def, State.vbinS_wf]

theorem execVorS_wf a0 a1 a2 a3 (s : State) : State.MemOk s → ∀ t, execVorS a0 a1 a2 a3 s = Host.Outcome.next t → State.MemOk t := by unfold execVorS; grind (splits := 30) [State.memOk_def, State.vbinS_wf]

theorem execVmin_wf a0 a1 a2 a3 (s : State) : State.MemOk s → ∀ t, execVmin a0 a1 a2 a3 s = Host.Outcome.next t → State.MemOk t := by unfold execVmin; grind (splits := 30) [State.memOk_def, State.vbin_wf]

theorem execVdivS_wf a0 a1 a2 a3 (s : State) : State.MemOk s → ∀ t, execVdivS a0 a1 a2 a3 s = Host.Outcome.next t → State.MemOk t := by unfold execVdivS; grind (splits := 30) [State.memOk_def, State.vbinS_wf]

theorem execVmulhz_wf a0 a1 a2 a3 (s : State) : State.MemOk s → ∀ t, execVmulhz a0 a1 a2 a3 s = Host.Outcome.next t → State.MemOk t := by unfold execVmulhz; grind (splits := 30) [State.memOk_def, State.vbin_wf]

theorem execVmax_wf a0 a1 a2 a3 (s : State) : State.MemOk s → ∀ t, execVmax a0 a1 a2 a3 s = Host.Outcome.next t → State.MemOk t := by unfold execVmax; grind (splits := 30) [State.memOk_def, State.vbin_wf]

theorem execVsrlS_wf a0 a1 a2 a3 (s : State) : State.MemOk s → ∀ t, execVsrlS a0 a1 a2 a3 s = Host.Outcome.next t → State.MemOk t := by unfold execVsrlS; grind (splits := 30) [State.memOk_def, State.vbinS_wf]

theorem execVsub_wf a0 a1 a2 a3 (s : State) : State.MemOk s → ∀ t, execVsub a0 a1 a2 a3 s = Host.Outcome.next t → State.MemOk t := by unfold execVsub; grind (splits := 30) [State.memOk_def, State.vbin_wf]

theorem execVmacS_wf a0 a1 a2 a3 (s : State) : State.MemOk s → ∀ t, execVmacS a0 a1 a2 a3 s = Host.Outcome.next t → State.MemOk t := by unfold execVmacS; grind (splits := 30) [State.memOk_def, State.vbinS_wf]

theorem execVand_wf a0 a1 a2 a3 (s : State) : State.MemOk s → ∀ t, execVand a0 a1 a2 a3 s = Host.Outcome.next t → State.MemOk t := by unfold execVand; grind (splits := 30) [State.memOk_def, State.vbin_wf]

theorem execVmulS_wf a0 a1 a2 a3 (s : State) : State.MemOk s → ∀ t, execVmulS a0 a1 a2 a3 s = Host.Outcome.next t → State.MemOk t := by unfold execVmulS; grind (splits := 30) [State.memOk_def, State.vbinS_wf]

theorem execVrcp_wf a0 a1 a2 (s : State) : State.MemOk s → ∀ t, execVrcp a0 a1 a2 s = Host.Outcome.next t → State.MemOk t := by unfold execVrcp; grind (splits := 30) [State.memOk_def, State.vun_wf]

theorem execVmulhS_wf a0 a1 a2 a3 (s : State) : State.MemOk s → ∀ t, execVmulhS a0 a1 a2 a3 s = Host.Outcome.next t → State.MemOk t := by unfold execVmulhS; grind (splits := 30) [State.memOk_def, State.vbinS_wf]

theorem execVadd_wf a0 a1 a2 a3 (s : State) : State.MemOk s → ∀ t, execVadd a0 a1 a2 a3 s = Host.Outcome.next t → State.MemOk t := by unfold execVadd; grind (splits := 30) [State.memOk_def, State.vbin_wf]

theorem execVrsqrt_wf a0 a1 a2 (s : State) : State.MemOk s → ∀ t, execVrsqrt a0 a1 a2 s = Host.Outcome.next t → State.MemOk t := by unfold execVrsqrt; grind (splits := 30) [State.memOk_def, State.vun_wf]

theorem execVandS_wf a0 a1 a2 a3 (s : State) : State.MemOk s → ∀ t, execVandS a0 a1 a2 a3 s = Host.Outcome.next t → State.MemOk t := by unfold execVandS; grind (splits := 30) [State.memOk_def, State.vbinS_wf]

theorem execVmulh_wf a0 a1 a2 a3 (s : State) : State.MemOk s → ∀ t, execVmulh a0 a1 a2 a3 s = Host.Outcome.next t → State.MemOk t := by unfold execVmulh; grind (splits := 30) [State.memOk_def, State.vbin_wf]

theorem execVxor_wf a0 a1 a2 a3 (s : State) : State.MemOk s → ∀ t, execVxor a0 a1 a2 a3 s = Host.Outcome.next t → State.MemOk t := by unfold execVxor; grind (splits := 30) [State.memOk_def, State.vbin_wf]

theorem execVaddS_wf a0 a1 a2 a3 (s : State) : State.MemOk s → ∀ t, execVaddS a0 a1 a2 a3 s = Host.Outcome.next t → State.MemOk t := by unfold execVaddS; grind (splits := 30) [State.memOk_def, State.vbinS_wf]

theorem execVdiv_wf a0 a1 a2 a3 (s : State) : State.MemOk s → ∀ t, execVdiv a0 a1 a2 a3 s = Host.Outcome.next t → State.MemOk t := by unfold execVdiv; grind (splits := 30) [State.memOk_def, State.vbin_wf]

theorem execVabs_wf a0 a1 a2 (s : State) : State.MemOk s → ∀ t, execVabs a0 a1 a2 s = Host.Outcome.next t → State.MemOk t := by unfold execVabs; grind (splits := 30) [State.memOk_def, State.vun_wf]

theorem execVmaxS_wf a0 a1 a2 a3 (s : State) : State.MemOk s → ∀ t, execVmaxS a0 a1 a2 a3 s = Host.Outcome.next t → State.MemOk t := by unfold execVmaxS; grind (splits := 30) [State.memOk_def, State.vbinS_wf]

theorem execVxorS_wf a0 a1 a2 a3 (s : State) : State.MemOk s → ∀ t, execVxorS a0 a1 a2 a3 s = Host.Outcome.next t → State.MemOk t := by unfold execVxorS; grind (splits := 30) [State.memOk_def, State.vbinS_wf]

theorem execVmac_wf a0 a1 a2 a3 (s : State) : State.MemOk s → ∀ t, execVmac a0 a1 a2 a3 s = Host.Outcome.next t → State.MemOk t := by unfold execVmac; grind (splits := 30) [State.memOk_def, State.vbin_wf]

theorem execVmulhzS_wf a0 a1 a2 a3 (s : State) : State.MemOk s → ∀ t, execVmulhzS a0 a1 a2 a3 s = Host.Outcome.next t → State.MemOk t := by unfold execVmulhzS; grind (splits := 30) [State.memOk_def, State.vbinS_wf]

theorem execVsll_wf a0 a1 a2 a3 (s : State) : State.MemOk s → ∀ t, execVsll a0 a1 a2 a3 s = Host.Outcome.next t → State.MemOk t := by unfold execVsll; grind (splits := 30) [State.memOk_def, State.vbin_wf]

theorem execVsqrt_wf a0 a1 a2 (s : State) : State.MemOk s → ∀ t, execVsqrt a0 a1 a2 s = Host.Outcome.next t → State.MemOk t := by unfold execVsqrt; grind (splits := 30) [State.memOk_def, State.vun_wf]

theorem execVmov_wf a0 a1 a2 (s : State) : State.MemOk s → ∀ t, execVmov a0 a1 a2 s = Host.Outcome.next t → State.MemOk t := by unfold execVmov; grind (splits := 30) [State.memOk_def, State.vun_wf]

theorem execVexp2_wf a0 a1 a2 (s : State) : State.MemOk s → ∀ t, execVexp2 a0 a1 a2 s = Host.Outcome.next t → State.MemOk t := by unfold execVexp2; grind (splits := 30) [State.memOk_def, State.vun_wf]

theorem execVsrl_wf a0 a1 a2 a3 (s : State) : State.MemOk s → ∀ t, execVsrl a0 a1 a2 a3 s = Host.Outcome.next t → State.MemOk t := by unfold execVsrl; grind (splits := 30) [State.memOk_def, State.vbin_wf]

theorem execVminS_wf a0 a1 a2 a3 (s : State) : State.MemOk s → ∀ t, execVminS a0 a1 a2 a3 s = Host.Outcome.next t → State.MemOk t := by unfold execVminS; grind (splits := 30) [State.memOk_def, State.vbinS_wf]

theorem execVor_wf a0 a1 a2 a3 (s : State) : State.MemOk s → ∀ t, execVor a0 a1 a2 a3 s = Host.Outcome.next t → State.MemOk t := by unfold execVor; grind (splits := 30) [State.memOk_def, State.vbin_wf]

theorem State.klog_wf (s : State) a1 a2 a3 : State.MemOk s → State.MemOk (State.klog s a1 a2 a3) := by unfold State.klog; grind (splits := 30) [State.memOk_def, State.retire_wf, State.onCur_mem, State.vissue_wf]

theorem execKset_wf a0 a1 (s : State) : State.MemOk s → ∀ t, execKset a0 a1 s = Host.Outcome.next t → State.MemOk t := by unfold execKset; grind (splits := 30) [State.memOk_def, State.klog_wf]

theorem State.vcmpS_wf (s : State) a1 a2 a3 a4 a5 : State.MemOk s → State.MemOk (State.vcmpS s a1 a2 a3 a4 a5) := by unfold State.vcmpS; grind (splits := 30) [State.memOk_def, State.vdone_wf, State.onCur_mem, State.vissue_wf]

theorem execVceqS_wf a0 a1 a2 a3 (s : State) : State.MemOk s → ∀ t, execVceqS a0 a1 a2 a3 s = Host.Outcome.next t → State.MemOk t := by unfold execVceqS; grind (splits := 30) [State.memOk_def, State.vcmpS_wf]

theorem execKclr_wf a0 a1 (s : State) : State.MemOk s → ∀ t, execKclr a0 a1 s = Host.Outcome.next t → State.MemOk t := by unfold execKclr; grind (splits := 30) [State.memOk_def, State.klog_wf]

theorem execKcnt_wf a0 a1 a2 (s : State) : State.MemOk s → ∀ t, execKcnt a0 a1 a2 s = Host.Outcome.next t → State.MemOk t := by unfold execKcnt; grind (splits := 30) [State.memOk_def, State.retire_wf, State.vissue_wf, State.vscalar_mem]

theorem State.vcmp_wf (s : State) a1 a2 a3 a4 a5 a6 : State.MemOk s → State.MemOk (State.vcmp s a1 a2 a3 a4 a5 a6) := by unfold State.vcmp; grind (splits := 30) [State.memOk_def, State.vdone_wf, State.onCur_mem, State.vissue_wf]

theorem execVcle_wf a0 a1 a2 a3 (s : State) : State.MemOk s → ∀ t, execVcle a0 a1 a2 a3 s = Host.Outcome.next t → State.MemOk t := by unfold execVcle; grind (splits := 30) [State.memOk_def, State.vcmp_wf]

theorem execVceq_wf a0 a1 a2 a3 (s : State) : State.MemOk s → ∀ t, execVceq a0 a1 a2 a3 s = Host.Outcome.next t → State.MemOk t := by unfold execVceq; grind (splits := 30) [State.memOk_def, State.vcmp_wf]

theorem execKxor_wf a0 a1 a2 a3 (s : State) : State.MemOk s → ∀ t, execKxor a0 a1 a2 a3 s = Host.Outcome.next t → State.MemOk t := by unfold execKxor; grind (splits := 30) [State.memOk_def, State.klog_wf]

theorem execVcltz_wf a0 a1 a2 a3 (s : State) : State.MemOk s → ∀ t, execVcltz a0 a1 a2 a3 s = Host.Outcome.next t → State.MemOk t := by unfold execVcltz; grind (splits := 30) [State.memOk_def, State.vcmp_wf]

theorem execVcgtS_wf a0 a1 a2 a3 (s : State) : State.MemOk s → ∀ t, execVcgtS a0 a1 a2 a3 s = Host.Outcome.next t → State.MemOk t := by unfold execVcgtS; grind (splits := 30) [State.memOk_def, State.vcmpS_wf]

theorem execVclez_wf a0 a1 a2 a3 (s : State) : State.MemOk s → ∀ t, execVclez a0 a1 a2 a3 s = Host.Outcome.next t → State.MemOk t := by unfold execVclez; grind (splits := 30) [State.memOk_def, State.vcmp_wf]

theorem execVcltS_wf a0 a1 a2 a3 (s : State) : State.MemOk s → ∀ t, execVcltS a0 a1 a2 a3 s = Host.Outcome.next t → State.MemOk t := by unfold execVcltS; grind (splits := 30) [State.memOk_def, State.vcmpS_wf]

theorem execKnot_wf a0 a1 a2 (s : State) : State.MemOk s → ∀ t, execKnot a0 a1 a2 s = Host.Outcome.next t → State.MemOk t := by unfold execKnot; grind (splits := 30) [State.memOk_def, State.klog_wf]

theorem execVcleS_wf a0 a1 a2 a3 (s : State) : State.MemOk s → ∀ t, execVcleS a0 a1 a2 a3 s = Host.Outcome.next t → State.MemOk t := by unfold execVcleS; grind (splits := 30) [State.memOk_def, State.vcmpS_wf]

theorem execKandn_wf a0 a1 a2 a3 (s : State) : State.MemOk s → ∀ t, execKandn a0 a1 a2 a3 s = Host.Outcome.next t → State.MemOk t := by unfold execKandn; grind (splits := 30) [State.memOk_def, State.klog_wf]

theorem execVcneS_wf a0 a1 a2 a3 (s : State) : State.MemOk s → ∀ t, execVcneS a0 a1 a2 a3 s = Host.Outcome.next t → State.MemOk t := by unfold execVcneS; grind (splits := 30) [State.memOk_def, State.vcmpS_wf]

theorem execVclt_wf a0 a1 a2 a3 (s : State) : State.MemOk s → ∀ t, execVclt a0 a1 a2 a3 s = Host.Outcome.next t → State.MemOk t := by unfold execVclt; grind (splits := 30) [State.memOk_def, State.vcmp_wf]

theorem execVcne_wf a0 a1 a2 a3 (s : State) : State.MemOk s → ∀ t, execVcne a0 a1 a2 a3 s = Host.Outcome.next t → State.MemOk t := by unfold execVcne; grind (splits := 30) [State.memOk_def, State.vcmp_wf]

theorem execKor_wf a0 a1 a2 a3 (s : State) : State.MemOk s → ∀ t, execKor a0 a1 a2 a3 s = Host.Outcome.next t → State.MemOk t := by unfold execKor; grind (splits := 30) [State.memOk_def, State.klog_wf]

theorem execKwhile_wf a0 a1 a2 (s : State) : State.MemOk s → ∀ t, execKwhile a0 a1 a2 s = Host.Outcome.next t → State.MemOk t := by unfold execKwhile; grind (splits := 30) [State.memOk_def, State.retire_wf, State.onCur_mem, State.vissue_wf]

theorem execVcgeS_wf a0 a1 a2 a3 (s : State) : State.MemOk s → ∀ t, execVcgeS a0 a1 a2 a3 s = Host.Outcome.next t → State.MemOk t := by unfold execVcgeS; grind (splits := 30) [State.memOk_def, State.vcmpS_wf]

theorem execKand_wf a0 a1 a2 a3 (s : State) : State.MemOk s → ∀ t, execKand a0 a1 a2 a3 s = Host.Outcome.next t → State.MemOk t := by unfold execKand; grind (splits := 30) [State.memOk_def, State.klog_wf]

theorem execKfirst_wf a0 a1 a2 (s : State) : State.MemOk s → ∀ t, execKfirst a0 a1 a2 s = Host.Outcome.next t → State.MemOk t := by unfold execKfirst; grind (splits := 30) [State.memOk_def, State.retire_wf, State.vissue_wf, State.vscalar_mem]

theorem execVcun_wf a0 a1 a2 a3 (s : State) : State.MemOk s → ∀ t, execVcun a0 a1 a2 a3 s = Host.Outcome.next t → State.MemOk t := by unfold execVcun; grind (splits := 30) [State.memOk_def, State.vcmp_wf]

theorem State.vmove_wf (s : State) a1 a2 a3 a4 a5 : State.MemOk s → State.MemOk (State.vmove s a1 a2 a3 a4 a5) := by unfold State.vmove; grind (splits := 30) [State.memOk_def, State.vdone_wf, State.onCur_mem, State.vissue_wf]

theorem execVsldn_wf a0 a1 a2 a3 (s : State) : State.MemOk s → ∀ t, execVsldn a0 a1 a2 a3 s = Host.Outcome.next t → State.MemOk t := by unfold execVsldn; grind (splits := 30) [State.memOk_def, State.vmove_wf]

theorem execVzipl_wf a0 a1 a2 a3 (s : State) : State.MemOk s → ∀ t, execVzipl a0 a1 a2 a3 s = Host.Outcome.next t → State.MemOk t := by unfold execVzipl; grind (splits := 30) [State.memOk_def, State.vmove_wf]

theorem execVrev_wf a0 a1 a2 (s : State) : State.MemOk s → ∀ t, execVrev a0 a1 a2 s = Host.Outcome.next t → State.MemOk t := by unfold execVrev; grind (splits := 30) [State.memOk_def, State.vmove_wf]

theorem execVziph_wf a0 a1 a2 a3 (s : State) : State.MemOk s → ∀ t, execVziph a0 a1 a2 a3 s = Host.Outcome.next t → State.MemOk t := by unfold execVziph; grind (splits := 30) [State.memOk_def, State.vmove_wf]

theorem execVcmprs_wf a0 a1 a2 (s : State) : State.MemOk s → ∀ t, execVcmprs a0 a1 a2 s = Host.Outcome.next t → State.MemOk t := by unfold execVcmprs; grind (splits := 30) [State.memOk_def, State.vdone_wf, State.onCur_mem, State.vissue_wf]

theorem execVexpnd_wf a0 a1 a2 (s : State) : State.MemOk s → ∀ t, execVexpnd a0 a1 a2 s = Host.Outcome.next t → State.MemOk t := by unfold execVexpnd; grind (splits := 30) [State.memOk_def, State.vmove_wf]

theorem execVbcast_wf a0 a1 a2 (s : State) : State.MemOk s → ∀ t, execVbcast a0 a1 a2 s = Host.Outcome.next t → State.MemOk t := by unfold execVbcast; grind (splits := 30) [State.memOk_def, State.vmove_wf]

theorem execVslup_wf a0 a1 a2 a3 (s : State) : State.MemOk s → ∀ t, execVslup a0 a1 a2 a3 s = Host.Outcome.next t → State.MemOk t := by unfold execVslup; grind (splits := 30) [State.memOk_def, State.vmove_wf]

theorem execVext_wf a0 a1 a2 (s : State) : State.MemOk s → ∀ t, execVext a0 a1 a2 s = Host.Outcome.next t → State.MemOk t := by unfold execVext; grind (splits := 30) [State.memOk_def, State.vdone_wf, State.vissue_wf, State.vscalar_mem]

theorem execViota_wf a0 a1 (s : State) : State.MemOk s → ∀ t, execViota a0 a1 s = Host.Outcome.next t → State.MemOk t := by unfold execViota; grind (splits := 30) [State.memOk_def, State.vmove_wf]

theorem execVperm_wf a0 a1 a2 a3 (s : State) : State.MemOk s → ∀ t, execVperm a0 a1 a2 a3 s = Host.Outcome.next t → State.MemOk t := by unfold execVperm; grind (splits := 30) [State.memOk_def, State.vmove_wf]

theorem execVunzpe_wf a0 a1 a2 a3 (s : State) : State.MemOk s → ∀ t, execVunzpe a0 a1 a2 a3 s = Host.Outcome.next t → State.MemOk t := by unfold execVunzpe; grind (splits := 30) [State.memOk_def, State.vmove_wf]

theorem execVunzpo_wf a0 a1 a2 a3 (s : State) : State.MemOk s → ∀ t, execVunzpo a0 a1 a2 a3 s = Host.Outcome.next t → State.MemOk t := by unfold execVunzpo; grind (splits := 30) [State.memOk_def, State.vmove_wf]

theorem execVins_wf a0 a1 a2 (s : State) : State.MemOk s → ∀ t, execVins a0 a1 a2 s = Host.Outcome.next t → State.MemOk t := by unfold execVins; grind (splits := 30) [State.memOk_def, State.retire_wf, State.onCur_mem, State.vissue_wf]

theorem State.vred_wf (s : State) a1 a2 a3 a4 a5 : State.MemOk s → State.MemOk (State.vred s a1 a2 a3 a4 a5) := by unfold State.vred; grind (splits := 30) [State.memOk_def, State.vdone_wf, State.onCur_mem, State.vissue_wf, State.vscalar_mem]

theorem execVror_wf a0 a1 a2 (s : State) : State.MemOk s → ∀ t, execVror a0 a1 a2 s = Host.Outcome.next t → State.MemOk t := by unfold execVror; grind (splits := 30) [State.memOk_def, State.vred_wf]

theorem execVrsum_wf a0 a1 a2 (s : State) : State.MemOk s → ∀ t, execVrsum a0 a1 a2 s = Host.Outcome.next t → State.MemOk t := by unfold execVrsum; grind (splits := 30) [State.memOk_def, State.vred_wf]

theorem State.vscanBy_wf (s : State) a1 a2 a3 a4 : State.MemOk s → State.MemOk (State.vscanBy s a1 a2 a3 a4) := by unfold State.vscanBy; grind (splits := 30) [State.memOk_def, State.vdone_wf, State.onCur_mem, State.vissue_wf]

theorem execVscanx_wf a0 a1 a2 (s : State) : State.MemOk s → ∀ t, execVscanx a0 a1 a2 s = Host.Outcome.next t → State.MemOk t := by unfold execVscanx; grind (splits := 30) [State.memOk_def, State.vscanBy_wf]

theorem execVrsumw_wf a0 a1 a2 (s : State) : State.MemOk s → ∀ t, execVrsumw a0 a1 a2 s = Host.Outcome.next t → State.MemOk t := by unfold execVrsumw; grind (splits := 30) [State.memOk_def, State.vred_wf]

theorem execVrmax_wf a0 a1 a2 (s : State) : State.MemOk s → ∀ t, execVrmax a0 a1 a2 s = Host.Outcome.next t → State.MemOk t := by unfold execVrmax; grind (splits := 30) [State.memOk_def, State.vred_wf]

theorem execVrmin_wf a0 a1 a2 (s : State) : State.MemOk s → ∀ t, execVrmin a0 a1 a2 s = Host.Outcome.next t → State.MemOk t := by unfold execVrmin; grind (splits := 30) [State.memOk_def, State.vred_wf]

theorem execVrand_wf a0 a1 a2 (s : State) : State.MemOk s → ∀ t, execVrand a0 a1 a2 s = Host.Outcome.next t → State.MemOk t := by unfold execVrand; grind (splits := 30) [State.memOk_def, State.vred_wf]

theorem execVscan_wf a0 a1 a2 (s : State) : State.MemOk s → ∀ t, execVscan a0 a1 a2 s = Host.Outcome.next t → State.MemOk t := by unfold execVscan; grind (splits := 30) [State.memOk_def, State.vscanBy_wf]

theorem State.stepTaken_mem (s : State) : (State.stepTaken s).mem = s.mem := by unfold State.stepTaken; grind (splits := 30) [State.onJob_mem]

theorem State.putWord_wf (s : State) a1 a2 a3 : State.MemOk s → State.MemOk (State.putWord s a1 a2 a3) := by unfold State.putWord; grind (splits := 30) [State.memOk_def, State.poke_wf]

theorem demoTables_wf (s : State) : State.MemOk s → State.MemOk (demoTables s) := by
  intro h
  exact foldl_wf _ (fun a x ha => State.poke_wf _ _ _ _ ha) _ _ h

theorem State.running_wf (s : State) : State.MemOk s → State.MemOk (State.running s) := by unfold State.running; grind (splits := 30) [State.memOk_def, demoTables_wf, State.onCore_mem]

theorem State.withFetchWord_wf (s : State) a1 a2 : State.MemOk s → State.MemOk (State.withFetchWord s a1 a2) := by unfold State.withFetchWord; grind (splits := 30) [State.memOk_def, State.running_wf, State.place_wf, State.putWord_wf]

end Sys2Proof.Machine
end

