-- ==== Sys2Proof/Laws/PerInstr.lean ====
section
/-! SUPPORT. Decode and encode agree, instruction by instruction: what `encode` writes, `decode` reads back. -/

namespace Sys2Proof.Laws

/-- A field above the lower part of a concatenation lies in its upper part. -/
theorem cutHi {n m lo len : Nat} (x : BitVec n) (y : BitVec m) (h : m ≤ lo) :
    BitVec.extractLsb' lo len (x ++ y) = BitVec.extractLsb' (lo - m) len x := BitVec.extractLsb'_append_eq_of_le h

/-- A field below the upper part of a concatenation lies in its lower part. -/
theorem cutLo {n m lo len : Nat} (x : BitVec n) (y : BitVec m) (h : lo + len ≤ m) :
    BitVec.extractLsb' lo len (x ++ y) = BitVec.extractLsb' lo len y := BitVec.extractLsb'_append_eq_of_add_le h

/-- A field that is the whole. -/
theorem cutAll {n : Nat} (x : BitVec n) : BitVec.extractLsb' 0 n x = x := BitVec.extractLsb'_eq_self

/-- The two parts of a split immediate, put together. -/
theorem joinHiLo {n m : Nat} (x : BitVec (n + m)) : x.extractLsb' m n ++ x.extractLsb' 0 m = x := by
  apply BitVec.eq_of_getLsbD_eq
  intro i hi
  by_cases h : i < m
  · simp [BitVec.getLsbD_append, h]
  · have : i - m < n := by omega
    have e : m + (i - m) = i := by omega
    simp [BitVec.getLsbD_append, h, this, e]

/-- A word whose group decodes to a well-formed instruction decodes to it. -/
theorem decode_of (w : IWord) (i : Instr) (op : BitVec 7) (f : bits w 0 7 = op) (h3 : op.extractLsb' 0 2 = 3#2) (h1 : op ≠ 0x7F#7)
    (hr : decodeRaw w = some i) (hu : badUnpkRnd w = false) (hw : i.wf = true) : decode w = .ok i := by
  have b2 : bits w 0 2 = 3#2 := by
    rw [← h3, ← f]
    simp only [bits]
    apply BitVec.eq_of_getLsbD_eq
    intro i hi
    have : i < 7 := by omega
    simp [hi, this]
  have z : w ≠ 0 := by
    intro e; subst e; revert b2; decide
  have o : w ≠ 0xFFFFFFFF#32 := by
    intro e; subst e; apply h1; rw [← f]; decide
  simp only [decode, z, o, b2, ne_eq, not_true_eq_false, or_self, if_false, hr, hu, hw, if_true, Bool.false_eq_true]

/-- Only words of the conversion group have the rounding limit of `vunpk`. -/
theorem unpk_no {w : IWord} {op : BitVec 7} (f : bits w 0 7 = op) (h : op ≠ 0x53#7) : badUnpkRnd w = false := by
  simp [badUnpkRnd, f, h]

theorem raw_Ld {w : IWord} (f : bits w 0 7 = 0x3#7) : decodeRaw w = decodeLd w := by simp [decodeRaw, f]
theorem raw_Vld {w : IWord} (f : bits w 0 7 = 0x7#7) : decodeRaw w = decodeVld w := by simp [decodeRaw, f]
theorem raw_Mat {w : IWord} (f : bits w 0 7 = 0xB#7) : decodeRaw w = decodeMat w := by simp [decodeRaw, f]
theorem raw_Opi {w : IWord} (f : bits w 0 7 = 0x13#7) : decodeRaw w = decodeOpi w := by simp [decodeRaw, f]
theorem raw_Aupc {w : IWord} (f : bits w 0 7 = 0x17#7) : decodeRaw w = decodeAupc w := by simp [decodeRaw, f]
theorem raw_Copy {w : IWord} (f : bits w 0 7 = 0x1B#7) : decodeRaw w = decodeCopy w := by simp [decodeRaw, f]
theorem raw_St {w : IWord} (f : bits w 0 7 = 0x23#7) : decodeRaw w = decodeSt w := by simp [decodeRaw, f]
theorem raw_Vst {w : IWord} (f : bits w 0 7 = 0x27#7) : decodeRaw w = decodeVst w := by simp [decodeRaw, f]
theorem raw_Sync {w : IWord} (f : bits w 0 7 = 0x2B#7) : decodeRaw w = decodeSync w := by simp [decodeRaw, f]
theorem raw_Atom {w : IWord} (f : bits w 0 7 = 0x2F#7) : decodeRaw w = decodeAtom w := by simp [decodeRaw, f]
theorem raw_Op {w : IWord} (f : bits w 0 7 = 0x33#7) : decodeRaw w = decodeOp w := by simp [decodeRaw, f]
theorem raw_Lui {w : IWord} (f : bits w 0 7 = 0x37#7) : decodeRaw w = decodeLui w := by simp [decodeRaw, f]
theorem raw_Ring {w : IWord} (f : bits w 0 7 = 0x3B#7) : decodeRaw w = decodeRing w := by simp [decodeRaw, f]
theorem raw_Hndl {w : IWord} (f : bits w 0 7 = 0x3F#7) : decodeRaw w = decodeHndl w := by simp [decodeRaw, f]
theorem raw_Vmask {w : IWord} (f : bits w 0 7 = 0x47#7) : decodeRaw w = decodeVmask w := by simp [decodeRaw, f]
theorem raw_Vperm {w : IWord} (f : bits w 0 7 = 0x4B#7) : decodeRaw w = decodeVperm w := by simp [decodeRaw, f]
theorem raw_Vred {w : IWord} (f : bits w 0 7 = 0x4F#7) : decodeRaw w = decodeVred w := by simp [decodeRaw, f]
theorem raw_Vcvt {w : IWord} (f : bits w 0 7 = 0x53#7) : decodeRaw w = decodeVcvt w := by simp [decodeRaw, f]
theorem raw_Vari {w : IWord} (f : bits w 0 7 = 0x57#7) : decodeRaw w = decodeVari w := by simp [decodeRaw, f]
theorem raw_Loop {w : IWord} (f : bits w 0 7 = 0x5B#7) : decodeRaw w = decodeLoop w := by simp [decodeRaw, f]
theorem raw_Vcfg {w : IWord} (f : bits w 0 7 = 0x5F#7) : decodeRaw w = decodeVcfg w := by simp [decodeRaw, f]
theorem raw_Br {w : IWord} (f : bits w 0 7 = 0x63#7) : decodeRaw w = decodeBr w := by simp [decodeRaw, f]
theorem raw_Jalr {w : IWord} (f : bits w 0 7 = 0x67#7) : decodeRaw w = decodeJalr w := by simp [decodeRaw, f]
theorem raw_Fab {w : IWord} (f : bits w 0 7 = 0x6B#7) : decodeRaw w = decodeFab w := by simp [decodeRaw, f]
theorem raw_Jal {w : IWord} (f : bits w 0 7 = 0x6F#7) : decodeRaw w = decodeJal w := by simp [decodeRaw, f]
theorem raw_Sys {w : IWord} (f : bits w 0 7 = 0x73#7) : decodeRaw w = decodeSys w := by simp [decodeRaw, f]
theorem raw_Vars {w : IWord} (f : bits w 0 7 = 0x77#7) : decodeRaw w = decodeVars w := by simp [decodeRaw, f]
theorem raw_Task {w : IWord} (f : bits w 0 7 = 0x7B#7) : decodeRaw w = decodeTask w := by simp [decodeRaw, f]

namespace RoundTrip

/-- Decoding what encodes a well-formed instruction gives it back (R38 to R63). -/
def Statement (i : Instr) : Prop := ∀ w, i.wf = true → encode i = some w → decode w = .ok i

/-- An event has no word. -/
theorem of_event {i : Instr} (h : encode i = none) : Statement i := fun _ _ e => by rw [h] at e; cases e

theorem add (d : BitVec 5) (a : BitVec 5) (b : BitVec 5) : Statement (.add d a b) := by
  intro w hw e
  replace e := Option.some.inj e
  have f0 : bits w 0 7 = 0x33#7 := e ▸ ((cutLo _ _ (by decide)).trans (cutAll _))
  have f7 : bits w 7 5 = d := e ▸ ((cutHi _ _ (by decide)).trans ((cutLo _ _ (by decide)).trans (cutAll _)))
  have f12 : bits w 12 3 = 0x0#3 := e ▸ ((cutHi _ _ (by decide)).trans ((cutHi _ _ (by decide)).trans ((cutLo _ _ (by decide)).trans (cutAll _))))
  have f15 : bits w 15 5 = a := e ▸ ((cutHi _ _ (by decide)).trans ((cutHi _ _ (by decide)).trans ((cutHi _ _ (by decide)).trans ((cutLo _ _ (by decide)).trans (cutAll _)))))
  have f20 : bits w 20 5 = b := e ▸ ((cutHi _ _ (by decide)).trans ((cutHi _ _ (by decide)).trans ((cutHi _ _ (by decide)).trans ((cutHi _ _ (by decide)).trans ((cutLo _ _ (by decide)).trans (cutAll _))))))
  have f25 : bits w 25 7 = 0x0#7 := e ▸ ((cutHi _ _ (by decide)).trans ((cutHi _ _ (by decide)).trans ((cutHi _ _ (by decide)).trans ((cutHi _ _ (by decide)).trans ((cutHi _ _ (by decide)).trans (cutAll _))))))
  refine decode_of w _ 0x33#7 f0 (by decide) (by decide) ?_ (unpk_no f0 (by decide)) hw
  rw [raw_Op f0]
  simp [decodeOp, f7, f12, f15, f20, f25]

theorem sll (d : BitVec 5) (a : BitVec 5) (b : BitVec 5) : Statement (.sll d a b) := by
  intro w hw e
  replace e := Option.some.inj e
  have f0 : bits w 0 7 = 0x33#7 := e ▸ ((cutLo _ _ (by decide)).trans (cutAll _))
  have f7 : bits w 7 5 = d := e ▸ ((cutHi _ _ (by decide)).trans ((cutLo _ _ (by decide)).trans (cutAll _)))
  have f12 : bits w 12 3 = 0x1#3 := e ▸ ((cutHi _ _ (by decide)).trans ((cutHi _ _ (by decide)).trans ((cutLo _ _ (by decide)).trans (cutAll _))))
  have f15 : bits w 15 5 = a := e ▸ ((cutHi _ _ (by decide)).trans ((cutHi _ _ (by decide)).trans ((cutHi _ _ (by decide)).trans ((cutLo _ _ (by decide)).trans (cutAll _)))))
  have f20 : bits w 20 5 = b := e ▸ ((cutHi _ _ (by decide)).trans ((cutHi _ _ (by decide)).trans ((cutHi _ _ (by decide)).trans ((cutHi _ _ (by decide)).trans ((cutLo _ _ (by decide)).trans (cutAll _))))))
  have f25 : bits w 25 7 = 0x0#7 := e ▸ ((cutHi _ _ (by decide)).trans ((cutHi _ _ (by decide)).trans ((cutHi _ _ (by decide)).trans ((cutHi _ _ (by decide)).trans ((cutHi _ _ (by decide)).trans (cutAll _))))))
  refine decode_of w _ 0x33#7 f0 (by decide) (by decide) ?_ (unpk_no f0 (by decide)) hw
  rw [raw_Op f0]
  simp [decodeOp, f7, f12, f15, f20, f25]

theorem slt (d : BitVec 5) (a : BitVec 5) (b : BitVec 5) : Statement (.slt d a b) := by
  intro w hw e
  replace e := Option.some.inj e
  have f0 : bits w 0 7 = 0x33#7 := e ▸ ((cutLo _ _ (by decide)).trans (cutAll _))
  have f7 : bits w 7 5 = d := e ▸ ((cutHi _ _ (by decide)).trans ((cutLo _ _ (by decide)).trans (cutAll _)))
  have f12 : bits w 12 3 = 0x2#3 := e ▸ ((cutHi _ _ (by decide)).trans ((cutHi _ _ (by decide)).trans ((cutLo _ _ (by decide)).trans (cutAll _))))
  have f15 : bits w 15 5 = a := e ▸ ((cutHi _ _ (by decide)).trans ((cutHi _ _ (by decide)).trans ((cutHi _ _ (by decide)).trans ((cutLo _ _ (by decide)).trans (cutAll _)))))
  have f20 : bits w 20 5 = b := e ▸ ((cutHi _ _ (by decide)).trans ((cutHi _ _ (by decide)).trans ((cutHi _ _ (by decide)).trans ((cutHi _ _ (by decide)).trans ((cutLo _ _ (by decide)).trans (cutAll _))))))
  have f25 : bits w 25 7 = 0x0#7 := e ▸ ((cutHi _ _ (by decide)).trans ((cutHi _ _ (by decide)).trans ((cutHi _ _ (by decide)).trans ((cutHi _ _ (by decide)).trans ((cutHi _ _ (by decide)).trans (cutAll _))))))
  refine decode_of w _ 0x33#7 f0 (by decide) (by decide) ?_ (unpk_no f0 (by decide)) hw
  rw [raw_Op f0]
  simp [decodeOp, f7, f12, f15, f20, f25]

theorem sltz (d : BitVec 5) (a : BitVec 5) (b : BitVec 5) : Statement (.sltz d a b) := by
  intro w hw e
  replace e := Option.some.inj e
  have f0 : bits w 0 7 = 0x33#7 := e ▸ ((cutLo _ _ (by decide)).trans (cutAll _))
  have f7 : bits w 7 5 = d := e ▸ ((cutHi _ _ (by decide)).trans ((cutLo _ _ (by decide)).trans (cutAll _)))
  have f12 : bits w 12 3 = 0x3#3 := e ▸ ((cutHi _ _ (by decide)).trans ((cutHi _ _ (by decide)).trans ((cutLo _ _ (by decide)).trans (cutAll _))))
  have f15 : bits w 15 5 = a := e ▸ ((cutHi _ _ (by decide)).trans ((cutHi _ _ (by decide)).trans ((cutHi _ _ (by decide)).trans ((cutLo _ _ (by decide)).trans (cutAll _)))))
  have f20 : bits w 20 5 = b := e ▸ ((cutHi _ _ (by decide)).trans ((cutHi _ _ (by decide)).trans ((cutHi _ _ (by decide)).trans ((cutHi _ _ (by decide)).trans ((cutLo _ _ (by decide)).trans (cutAll _))))))
  have f25 : bits w 25 7 = 0x0#7 := e ▸ ((cutHi _ _ (by decide)).trans ((cutHi _ _ (by decide)).trans ((cutHi _ _ (by decide)).trans ((cutHi _ _ (by decide)).trans ((cutHi _ _ (by decide)).trans (cutAll _))))))
  refine decode_of w _ 0x33#7 f0 (by decide) (by decide) ?_ (unpk_no f0 (by decide)) hw
  rw [raw_Op f0]
  simp [decodeOp, f7, f12, f15, f20, f25]

theorem xor (d : BitVec 5) (a : BitVec 5) (b : BitVec 5) : Statement (.xor d a b) := by
  intro w hw e
  replace e := Option.some.inj e
  have f0 : bits w 0 7 = 0x33#7 := e ▸ ((cutLo _ _ (by decide)).trans (cutAll _))
  have f7 : bits w 7 5 = d := e ▸ ((cutHi _ _ (by decide)).trans ((cutLo _ _ (by decide)).trans (cutAll _)))
  have f12 : bits w 12 3 = 0x4#3 := e ▸ ((cutHi _ _ (by decide)).trans ((cutHi _ _ (by decide)).trans ((cutLo _ _ (by decide)).trans (cutAll _))))
  have f15 : bits w 15 5 = a := e ▸ ((cutHi _ _ (by decide)).trans ((cutHi _ _ (by decide)).trans ((cutHi _ _ (by decide)).trans ((cutLo _ _ (by decide)).trans (cutAll _)))))
  have f20 : bits w 20 5 = b := e ▸ ((cutHi _ _ (by decide)).trans ((cutHi _ _ (by decide)).trans ((cutHi _ _ (by decide)).trans ((cutHi _ _ (by decide)).trans ((cutLo _ _ (by decide)).trans (cutAll _))))))
  have f25 : bits w 25 7 = 0x0#7 := e ▸ ((cutHi _ _ (by decide)).trans ((cutHi _ _ (by decide)).trans ((cutHi _ _ (by decide)).trans ((cutHi _ _ (by decide)).trans ((cutHi _ _ (by decide)).trans (cutAll _))))))
  refine decode_of w _ 0x33#7 f0 (by decide) (by decide) ?_ (unpk_no f0 (by decide)) hw
  rw [raw_Op f0]
  simp [decodeOp, f7, f12, f15, f20, f25]

theorem srl (d : BitVec 5) (a : BitVec 5) (b : BitVec 5) : Statement (.srl d a b) := by
  intro w hw e
  replace e := Option.some.inj e
  have f0 : bits w 0 7 = 0x33#7 := e ▸ ((cutLo _ _ (by decide)).trans (cutAll _))
  have f7 : bits w 7 5 = d := e ▸ ((cutHi _ _ (by decide)).trans ((cutLo _ _ (by decide)).trans (cutAll _)))
  have f12 : bits w 12 3 = 0x5#3 := e ▸ ((cutHi _ _ (by decide)).trans ((cutHi _ _ (by decide)).trans ((cutLo _ _ (by decide)).trans (cutAll _))))
  have f15 : bits w 15 5 = a := e ▸ ((cutHi _ _ (by decide)).trans ((cutHi _ _ (by decide)).trans ((cutHi _ _ (by decide)).trans ((cutLo _ _ (by decide)).trans (cutAll _)))))
  have f20 : bits w 20 5 = b := e ▸ ((cutHi _ _ (by decide)).trans ((cutHi _ _ (by decide)).trans ((cutHi _ _ (by decide)).trans ((cutHi _ _ (by decide)).trans ((cutLo _ _ (by decide)).trans (cutAll _))))))
  have f25 : bits w 25 7 = 0x0#7 := e ▸ ((cutHi _ _ (by decide)).trans ((cutHi _ _ (by decide)).trans ((cutHi _ _ (by decide)).trans ((cutHi _ _ (by decide)).trans ((cutHi _ _ (by decide)).trans (cutAll _))))))
  refine decode_of w _ 0x33#7 f0 (by decide) (by decide) ?_ (unpk_no f0 (by decide)) hw
  rw [raw_Op f0]
  simp [decodeOp, f7, f12, f15, f20, f25]

theorem or (d : BitVec 5) (a : BitVec 5) (b : BitVec 5) : Statement (.or d a b) := by
  intro w hw e
  replace e := Option.some.inj e
  have f0 : bits w 0 7 = 0x33#7 := e ▸ ((cutLo _ _ (by decide)).trans (cutAll _))
  have f7 : bits w 7 5 = d := e ▸ ((cutHi _ _ (by decide)).trans ((cutLo _ _ (by decide)).trans (cutAll _)))
  have f12 : bits w 12 3 = 0x6#3 := e ▸ ((cutHi _ _ (by decide)).trans ((cutHi _ _ (by decide)).trans ((cutLo _ _ (by decide)).trans (cutAll _))))
  have f15 : bits w 15 5 = a := e ▸ ((cutHi _ _ (by decide)).trans ((cutHi _ _ (by decide)).trans ((cutHi _ _ (by decide)).trans ((cutLo _ _ (by decide)).trans (cutAll _)))))
  have f20 : bits w 20 5 = b := e ▸ ((cutHi _ _ (by decide)).trans ((cutHi _ _ (by decide)).trans ((cutHi _ _ (by decide)).trans ((cutHi _ _ (by decide)).trans ((cutLo _ _ (by decide)).trans (cutAll _))))))
  have f25 : bits w 25 7 = 0x0#7 := e ▸ ((cutHi _ _ (by decide)).trans ((cutHi _ _ (by decide)).trans ((cutHi _ _ (by decide)).trans ((cutHi _ _ (by decide)).trans ((cutHi _ _ (by decide)).trans (cutAll _))))))
  refine decode_of w _ 0x33#7 f0 (by decide) (by decide) ?_ (unpk_no f0 (by decide)) hw
  rw [raw_Op f0]
  simp [decodeOp, f7, f12, f15, f20, f25]

theorem and (d : BitVec 5) (a : BitVec 5) (b : BitVec 5) : Statement (.and d a b) := by
  intro w hw e
  replace e := Option.some.inj e
  have f0 : bits w 0 7 = 0x33#7 := e ▸ ((cutLo _ _ (by decide)).trans (cutAll _))
  have f7 : bits w 7 5 = d := e ▸ ((cutHi _ _ (by decide)).trans ((cutLo _ _ (by decide)).trans (cutAll _)))
  have f12 : bits w 12 3 = 0x7#3 := e ▸ ((cutHi _ _ (by decide)).trans ((cutHi _ _ (by decide)).trans ((cutLo _ _ (by decide)).trans (cutAll _))))
  have f15 : bits w 15 5 = a := e ▸ ((cutHi _ _ (by decide)).trans ((cutHi _ _ (by decide)).trans ((cutHi _ _ (by decide)).trans ((cutLo _ _ (by decide)).trans (cutAll _)))))
  have f20 : bits w 20 5 = b := e ▸ ((cutHi _ _ (by decide)).trans ((cutHi _ _ (by decide)).trans ((cutHi _ _ (by decide)).trans ((cutHi _ _ (by decide)).trans ((cutLo _ _ (by decide)).trans (cutAll _))))))
  have f25 : bits w 25 7 = 0x0#7 := e ▸ ((cutHi _ _ (by decide)).trans ((cutHi _ _ (by decide)).trans ((cutHi _ _ (by decide)).trans ((cutHi _ _ (by decide)).trans ((cutHi _ _ (by decide)).trans (cutAll _))))))
  refine decode_of w _ 0x33#7 f0 (by decide) (by decide) ?_ (unpk_no f0 (by decide)) hw
  rw [raw_Op f0]
  simp [decodeOp, f7, f12, f15, f20, f25]

theorem sub (d : BitVec 5) (a : BitVec 5) (b : BitVec 5) : Statement (.sub d a b) := by
  intro w hw e
  replace e := Option.some.inj e
  have f0 : bits w 0 7 = 0x33#7 := e ▸ ((cutLo _ _ (by decide)).trans (cutAll _))
  have f7 : bits w 7 5 = d := e ▸ ((cutHi _ _ (by decide)).trans ((cutLo _ _ (by decide)).trans (cutAll _)))
  have f12 : bits w 12 3 = 0x0#3 := e ▸ ((cutHi _ _ (by decide)).trans ((cutHi _ _ (by decide)).trans ((cutLo _ _ (by decide)).trans (cutAll _))))
  have f15 : bits w 15 5 = a := e ▸ ((cutHi _ _ (by decide)).trans ((cutHi _ _ (by decide)).trans ((cutHi _ _ (by decide)).trans ((cutLo _ _ (by decide)).trans (cutAll _)))))
  have f20 : bits w 20 5 = b := e ▸ ((cutHi _ _ (by decide)).trans ((cutHi _ _ (by decide)).trans ((cutHi _ _ (by decide)).trans ((cutHi _ _ (by decide)).trans ((cutLo _ _ (by decide)).trans (cutAll _))))))
  have f25 : bits w 25 7 = 0x20#7 := e ▸ ((cutHi _ _ (by decide)).trans ((cutHi _ _ (by decide)).trans ((cutHi _ _ (by decide)).trans ((cutHi _ _ (by decide)).trans ((cutHi _ _ (by decide)).trans (cutAll _))))))
  refine decode_of w _ 0x33#7 f0 (by decide) (by decide) ?_ (unpk_no f0 (by decide)) hw
  rw [raw_Op f0]
  simp [decodeOp, f7, f12, f15, f20, f25]

theorem sra (d : BitVec 5) (a : BitVec 5) (b : BitVec 5) : Statement (.sra d a b) := by
  intro w hw e
  replace e := Option.some.inj e
  have f0 : bits w 0 7 = 0x33#7 := e ▸ ((cutLo _ _ (by decide)).trans (cutAll _))
  have f7 : bits w 7 5 = d := e ▸ ((cutHi _ _ (by decide)).trans ((cutLo _ _ (by decide)).trans (cutAll _)))
  have f12 : bits w 12 3 = 0x5#3 := e ▸ ((cutHi _ _ (by decide)).trans ((cutHi _ _ (by decide)).trans ((cutLo _ _ (by decide)).trans (cutAll _))))
  have f15 : bits w 15 5 = a := e ▸ ((cutHi _ _ (by decide)).trans ((cutHi _ _ (by decide)).trans ((cutHi _ _ (by decide)).trans ((cutLo _ _ (by decide)).trans (cutAll _)))))
  have f20 : bits w 20 5 = b := e ▸ ((cutHi _ _ (by decide)).trans ((cutHi _ _ (by decide)).trans ((cutHi _ _ (by decide)).trans ((cutHi _ _ (by decide)).trans ((cutLo _ _ (by decide)).trans (cutAll _))))))
  have f25 : bits w 25 7 = 0x20#7 := e ▸ ((cutHi _ _ (by decide)).trans ((cutHi _ _ (by decide)).trans ((cutHi _ _ (by decide)).trans ((cutHi _ _ (by decide)).trans ((cutHi _ _ (by decide)).trans (cutAll _))))))
  refine decode_of w _ 0x33#7 f0 (by decide) (by decide) ?_ (unpk_no f0 (by decide)) hw
  rw [raw_Op f0]
  simp [decodeOp, f7, f12, f15, f20, f25]

theorem mul (d : BitVec 5) (a : BitVec 5) (b : BitVec 5) : Statement (.mul d a b) := by
  intro w hw e
  replace e := Option.some.inj e
  have f0 : bits w 0 7 = 0x33#7 := e ▸ ((cutLo _ _ (by decide)).trans (cutAll _))
  have f7 : bits w 7 5 = d := e ▸ ((cutHi _ _ (by decide)).trans ((cutLo _ _ (by decide)).trans (cutAll _)))
  have f12 : bits w 12 3 = 0x0#3 := e ▸ ((cutHi _ _ (by decide)).trans ((cutHi _ _ (by decide)).trans ((cutLo _ _ (by decide)).trans (cutAll _))))
  have f15 : bits w 15 5 = a := e ▸ ((cutHi _ _ (by decide)).trans ((cutHi _ _ (by decide)).trans ((cutHi _ _ (by decide)).trans ((cutLo _ _ (by decide)).trans (cutAll _)))))
  have f20 : bits w 20 5 = b := e ▸ ((cutHi _ _ (by decide)).trans ((cutHi _ _ (by decide)).trans ((cutHi _ _ (by decide)).trans ((cutHi _ _ (by decide)).trans ((cutLo _ _ (by decide)).trans (cutAll _))))))
  have f25 : bits w 25 7 = 0x1#7 := e ▸ ((cutHi _ _ (by decide)).trans ((cutHi _ _ (by decide)).trans ((cutHi _ _ (by decide)).trans ((cutHi _ _ (by decide)).trans ((cutHi _ _ (by decide)).trans (cutAll _))))))
  refine decode_of w _ 0x33#7 f0 (by decide) (by decide) ?_ (unpk_no f0 (by decide)) hw
  rw [raw_Op f0]
  simp [decodeOp, f7, f12, f15, f20, f25]

theorem mulh (d : BitVec 5) (a : BitVec 5) (b : BitVec 5) : Statement (.mulh d a b) := by
  intro w hw e
  replace e := Option.some.inj e
  have f0 : bits w 0 7 = 0x33#7 := e ▸ ((cutLo _ _ (by decide)).trans (cutAll _))
  have f7 : bits w 7 5 = d := e ▸ ((cutHi _ _ (by decide)).trans ((cutLo _ _ (by decide)).trans (cutAll _)))
  have f12 : bits w 12 3 = 0x1#3 := e ▸ ((cutHi _ _ (by decide)).trans ((cutHi _ _ (by decide)).trans ((cutLo _ _ (by decide)).trans (cutAll _))))
  have f15 : bits w 15 5 = a := e ▸ ((cutHi _ _ (by decide)).trans ((cutHi _ _ (by decide)).trans ((cutHi _ _ (by decide)).trans ((cutLo _ _ (by decide)).trans (cutAll _)))))
  have f20 : bits w 20 5 = b := e ▸ ((cutHi _ _ (by decide)).trans ((cutHi _ _ (by decide)).trans ((cutHi _ _ (by decide)).trans ((cutHi _ _ (by decide)).trans ((cutLo _ _ (by decide)).trans (cutAll _))))))
  have f25 : bits w 25 7 = 0x1#7 := e ▸ ((cutHi _ _ (by decide)).trans ((cutHi _ _ (by decide)).trans ((cutHi _ _ (by decide)).trans ((cutHi _ _ (by decide)).trans ((cutHi _ _ (by decide)).trans (cutAll _))))))
  refine decode_of w _ 0x33#7 f0 (by decide) (by decide) ?_ (unpk_no f0 (by decide)) hw
  rw [raw_Op f0]
  simp [decodeOp, f7, f12, f15, f20, f25]

theorem mulhz (d : BitVec 5) (a : BitVec 5) (b : BitVec 5) : Statement (.mulhz d a b) := by
  intro w hw e
  replace e := Option.some.inj e
  have f0 : bits w 0 7 = 0x33#7 := e ▸ ((cutLo _ _ (by decide)).trans (cutAll _))
  have f7 : bits w 7 5 = d := e ▸ ((cutHi _ _ (by decide)).trans ((cutLo _ _ (by decide)).trans (cutAll _)))
  have f12 : bits w 12 3 = 0x3#3 := e ▸ ((cutHi _ _ (by decide)).trans ((cutHi _ _ (by decide)).trans ((cutLo _ _ (by decide)).trans (cutAll _))))
  have f15 : bits w 15 5 = a := e ▸ ((cutHi _ _ (by decide)).trans ((cutHi _ _ (by decide)).trans ((cutHi _ _ (by decide)).trans ((cutLo _ _ (by decide)).trans (cutAll _)))))
  have f20 : bits w 20 5 = b := e ▸ ((cutHi _ _ (by decide)).trans ((cutHi _ _ (by decide)).trans ((cutHi _ _ (by decide)).trans ((cutHi _ _ (by decide)).trans ((cutLo _ _ (by decide)).trans (cutAll _))))))
  have f25 : bits w 25 7 = 0x1#7 := e ▸ ((cutHi _ _ (by decide)).trans ((cutHi _ _ (by decide)).trans ((cutHi _ _ (by decide)).trans ((cutHi _ _ (by decide)).trans ((cutHi _ _ (by decide)).trans (cutAll _))))))
  refine decode_of w _ 0x33#7 f0 (by decide) (by decide) ?_ (unpk_no f0 (by decide)) hw
  rw [raw_Op f0]
  simp [decodeOp, f7, f12, f15, f20, f25]

theorem div (d : BitVec 5) (a : BitVec 5) (b : BitVec 5) : Statement (.div d a b) := by
  intro w hw e
  replace e := Option.some.inj e
  have f0 : bits w 0 7 = 0x33#7 := e ▸ ((cutLo _ _ (by decide)).trans (cutAll _))
  have f7 : bits w 7 5 = d := e ▸ ((cutHi _ _ (by decide)).trans ((cutLo _ _ (by decide)).trans (cutAll _)))
  have f12 : bits w 12 3 = 0x4#3 := e ▸ ((cutHi _ _ (by decide)).trans ((cutHi _ _ (by decide)).trans ((cutLo _ _ (by decide)).trans (cutAll _))))
  have f15 : bits w 15 5 = a := e ▸ ((cutHi _ _ (by decide)).trans ((cutHi _ _ (by decide)).trans ((cutHi _ _ (by decide)).trans ((cutLo _ _ (by decide)).trans (cutAll _)))))
  have f20 : bits w 20 5 = b := e ▸ ((cutHi _ _ (by decide)).trans ((cutHi _ _ (by decide)).trans ((cutHi _ _ (by decide)).trans ((cutHi _ _ (by decide)).trans ((cutLo _ _ (by decide)).trans (cutAll _))))))
  have f25 : bits w 25 7 = 0x1#7 := e ▸ ((cutHi _ _ (by decide)).trans ((cutHi _ _ (by decide)).trans ((cutHi _ _ (by decide)).trans ((cutHi _ _ (by decide)).trans ((cutHi _ _ (by decide)).trans (cutAll _))))))
  refine decode_of w _ 0x33#7 f0 (by decide) (by decide) ?_ (unpk_no f0 (by decide)) hw
  rw [raw_Op f0]
  simp [decodeOp, f7, f12, f15, f20, f25]

theorem divz (d : BitVec 5) (a : BitVec 5) (b : BitVec 5) : Statement (.divz d a b) := by
  intro w hw e
  replace e := Option.some.inj e
  have f0 : bits w 0 7 = 0x33#7 := e ▸ ((cutLo _ _ (by decide)).trans (cutAll _))
  have f7 : bits w 7 5 = d := e ▸ ((cutHi _ _ (by decide)).trans ((cutLo _ _ (by decide)).trans (cutAll _)))
  have f12 : bits w 12 3 = 0x5#3 := e ▸ ((cutHi _ _ (by decide)).trans ((cutHi _ _ (by decide)).trans ((cutLo _ _ (by decide)).trans (cutAll _))))
  have f15 : bits w 15 5 = a := e ▸ ((cutHi _ _ (by decide)).trans ((cutHi _ _ (by decide)).trans ((cutHi _ _ (by decide)).trans ((cutLo _ _ (by decide)).trans (cutAll _)))))
  have f20 : bits w 20 5 = b := e ▸ ((cutHi _ _ (by decide)).trans ((cutHi _ _ (by decide)).trans ((cutHi _ _ (by decide)).trans ((cutHi _ _ (by decide)).trans ((cutLo _ _ (by decide)).trans (cutAll _))))))
  have f25 : bits w 25 7 = 0x1#7 := e ▸ ((cutHi _ _ (by decide)).trans ((cutHi _ _ (by decide)).trans ((cutHi _ _ (by decide)).trans ((cutHi _ _ (by decide)).trans ((cutHi _ _ (by decide)).trans (cutAll _))))))
  refine decode_of w _ 0x33#7 f0 (by decide) (by decide) ?_ (unpk_no f0 (by decide)) hw
  rw [raw_Op f0]
  simp [decodeOp, f7, f12, f15, f20, f25]

theorem rem (d : BitVec 5) (a : BitVec 5) (b : BitVec 5) : Statement (.rem d a b) := by
  intro w hw e
  replace e := Option.some.inj e
  have f0 : bits w 0 7 = 0x33#7 := e ▸ ((cutLo _ _ (by decide)).trans (cutAll _))
  have f7 : bits w 7 5 = d := e ▸ ((cutHi _ _ (by decide)).trans ((cutLo _ _ (by decide)).trans (cutAll _)))
  have f12 : bits w 12 3 = 0x6#3 := e ▸ ((cutHi _ _ (by decide)).trans ((cutHi _ _ (by decide)).trans ((cutLo _ _ (by decide)).trans (cutAll _))))
  have f15 : bits w 15 5 = a := e ▸ ((cutHi _ _ (by decide)).trans ((cutHi _ _ (by decide)).trans ((cutHi _ _ (by decide)).trans ((cutLo _ _ (by decide)).trans (cutAll _)))))
  have f20 : bits w 20 5 = b := e ▸ ((cutHi _ _ (by decide)).trans ((cutHi _ _ (by decide)).trans ((cutHi _ _ (by decide)).trans ((cutHi _ _ (by decide)).trans ((cutLo _ _ (by decide)).trans (cutAll _))))))
  have f25 : bits w 25 7 = 0x1#7 := e ▸ ((cutHi _ _ (by decide)).trans ((cutHi _ _ (by decide)).trans ((cutHi _ _ (by decide)).trans ((cutHi _ _ (by decide)).trans ((cutHi _ _ (by decide)).trans (cutAll _))))))
  refine decode_of w _ 0x33#7 f0 (by decide) (by decide) ?_ (unpk_no f0 (by decide)) hw
  rw [raw_Op f0]
  simp [decodeOp, f7, f12, f15, f20, f25]

theorem remz (d : BitVec 5) (a : BitVec 5) (b : BitVec 5) : Statement (.remz d a b) := by
  intro w hw e
  replace e := Option.some.inj e
  have f0 : bits w 0 7 = 0x33#7 := e ▸ ((cutLo _ _ (by decide)).trans (cutAll _))
  have f7 : bits w 7 5 = d := e ▸ ((cutHi _ _ (by decide)).trans ((cutLo _ _ (by decide)).trans (cutAll _)))
  have f12 : bits w 12 3 = 0x7#3 := e ▸ ((cutHi _ _ (by decide)).trans ((cutHi _ _ (by decide)).trans ((cutLo _ _ (by decide)).trans (cutAll _))))
  have f15 : bits w 15 5 = a := e ▸ ((cutHi _ _ (by decide)).trans ((cutHi _ _ (by decide)).trans ((cutHi _ _ (by decide)).trans ((cutLo _ _ (by decide)).trans (cutAll _)))))
  have f20 : bits w 20 5 = b := e ▸ ((cutHi _ _ (by decide)).trans ((cutHi _ _ (by decide)).trans ((cutHi _ _ (by decide)).trans ((cutHi _ _ (by decide)).trans ((cutLo _ _ (by decide)).trans (cutAll _))))))
  have f25 : bits w 25 7 = 0x1#7 := e ▸ ((cutHi _ _ (by decide)).trans ((cutHi _ _ (by decide)).trans ((cutHi _ _ (by decide)).trans ((cutHi _ _ (by decide)).trans ((cutHi _ _ (by decide)).trans (cutAll _))))))
  refine decode_of w _ 0x33#7 f0 (by decide) (by decide) ?_ (unpk_no f0 (by decide)) hw
  rw [raw_Op f0]
  simp [decodeOp, f7, f12, f15, f20, f25]

theorem min (d : BitVec 5) (a : BitVec 5) (b : BitVec 5) : Statement (.min d a b) := by
  intro w hw e
  replace e := Option.some.inj e
  have f0 : bits w 0 7 = 0x33#7 := e ▸ ((cutLo _ _ (by decide)).trans (cutAll _))
  have f7 : bits w 7 5 = d := e ▸ ((cutHi _ _ (by decide)).trans ((cutLo _ _ (by decide)).trans (cutAll _)))
  have f12 : bits w 12 3 = 0x0#3 := e ▸ ((cutHi _ _ (by decide)).trans ((cutHi _ _ (by decide)).trans ((cutLo _ _ (by decide)).trans (cutAll _))))
  have f15 : bits w 15 5 = a := e ▸ ((cutHi _ _ (by decide)).trans ((cutHi _ _ (by decide)).trans ((cutHi _ _ (by decide)).trans ((cutLo _ _ (by decide)).trans (cutAll _)))))
  have f20 : bits w 20 5 = b := e ▸ ((cutHi _ _ (by decide)).trans ((cutHi _ _ (by decide)).trans ((cutHi _ _ (by decide)).trans ((cutHi _ _ (by decide)).trans ((cutLo _ _ (by decide)).trans (cutAll _))))))
  have f25 : bits w 25 7 = 0x5#7 := e ▸ ((cutHi _ _ (by decide)).trans ((cutHi _ _ (by decide)).trans ((cutHi _ _ (by decide)).trans ((cutHi _ _ (by decide)).trans ((cutHi _ _ (by decide)).trans (cutAll _))))))
  refine decode_of w _ 0x33#7 f0 (by decide) (by decide) ?_ (unpk_no f0 (by decide)) hw
  rw [raw_Op f0]
  simp [decodeOp, f7, f12, f15, f20, f25]

theorem max (d : BitVec 5) (a : BitVec 5) (b : BitVec 5) : Statement (.max d a b) := by
  intro w hw e
  replace e := Option.some.inj e
  have f0 : bits w 0 7 = 0x33#7 := e ▸ ((cutLo _ _ (by decide)).trans (cutAll _))
  have f7 : bits w 7 5 = d := e ▸ ((cutHi _ _ (by decide)).trans ((cutLo _ _ (by decide)).trans (cutAll _)))
  have f12 : bits w 12 3 = 0x1#3 := e ▸ ((cutHi _ _ (by decide)).trans ((cutHi _ _ (by decide)).trans ((cutLo _ _ (by decide)).trans (cutAll _))))
  have f15 : bits w 15 5 = a := e ▸ ((cutHi _ _ (by decide)).trans ((cutHi _ _ (by decide)).trans ((cutHi _ _ (by decide)).trans ((cutLo _ _ (by decide)).trans (cutAll _)))))
  have f20 : bits w 20 5 = b := e ▸ ((cutHi _ _ (by decide)).trans ((cutHi _ _ (by decide)).trans ((cutHi _ _ (by decide)).trans ((cutHi _ _ (by decide)).trans ((cutLo _ _ (by decide)).trans (cutAll _))))))
  have f25 : bits w 25 7 = 0x5#7 := e ▸ ((cutHi _ _ (by decide)).trans ((cutHi _ _ (by decide)).trans ((cutHi _ _ (by decide)).trans ((cutHi _ _ (by decide)).trans ((cutHi _ _ (by decide)).trans (cutAll _))))))
  refine decode_of w _ 0x33#7 f0 (by decide) (by decide) ?_ (unpk_no f0 (by decide)) hw
  rw [raw_Op f0]
  simp [decodeOp, f7, f12, f15, f20, f25]

theorem minz (d : BitVec 5) (a : BitVec 5) (b : BitVec 5) : Statement (.minz d a b) := by
  intro w hw e
  replace e := Option.some.inj e
  have f0 : bits w 0 7 = 0x33#7 := e ▸ ((cutLo _ _ (by decide)).trans (cutAll _))
  have f7 : bits w 7 5 = d := e ▸ ((cutHi _ _ (by decide)).trans ((cutLo _ _ (by decide)).trans (cutAll _)))
  have f12 : bits w 12 3 = 0x2#3 := e ▸ ((cutHi _ _ (by decide)).trans ((cutHi _ _ (by decide)).trans ((cutLo _ _ (by decide)).trans (cutAll _))))
  have f15 : bits w 15 5 = a := e ▸ ((cutHi _ _ (by decide)).trans ((cutHi _ _ (by decide)).trans ((cutHi _ _ (by decide)).trans ((cutLo _ _ (by decide)).trans (cutAll _)))))
  have f20 : bits w 20 5 = b := e ▸ ((cutHi _ _ (by decide)).trans ((cutHi _ _ (by decide)).trans ((cutHi _ _ (by decide)).trans ((cutHi _ _ (by decide)).trans ((cutLo _ _ (by decide)).trans (cutAll _))))))
  have f25 : bits w 25 7 = 0x5#7 := e ▸ ((cutHi _ _ (by decide)).trans ((cutHi _ _ (by decide)).trans ((cutHi _ _ (by decide)).trans ((cutHi _ _ (by decide)).trans ((cutHi _ _ (by decide)).trans (cutAll _))))))
  refine decode_of w _ 0x33#7 f0 (by decide) (by decide) ?_ (unpk_no f0 (by decide)) hw
  rw [raw_Op f0]
  simp [decodeOp, f7, f12, f15, f20, f25]

theorem maxz (d : BitVec 5) (a : BitVec 5) (b : BitVec 5) : Statement (.maxz d a b) := by
  intro w hw e
  replace e := Option.some.inj e
  have f0 : bits w 0 7 = 0x33#7 := e ▸ ((cutLo _ _ (by decide)).trans (cutAll _))
  have f7 : bits w 7 5 = d := e ▸ ((cutHi _ _ (by decide)).trans ((cutLo _ _ (by decide)).trans (cutAll _)))
  have f12 : bits w 12 3 = 0x3#3 := e ▸ ((cutHi _ _ (by decide)).trans ((cutHi _ _ (by decide)).trans ((cutLo _ _ (by decide)).trans (cutAll _))))
  have f15 : bits w 15 5 = a := e ▸ ((cutHi _ _ (by decide)).trans ((cutHi _ _ (by decide)).trans ((cutHi _ _ (by decide)).trans ((cutLo _ _ (by decide)).trans (cutAll _)))))
  have f20 : bits w 20 5 = b := e ▸ ((cutHi _ _ (by decide)).trans ((cutHi _ _ (by decide)).trans ((cutHi _ _ (by decide)).trans ((cutHi _ _ (by decide)).trans ((cutLo _ _ (by decide)).trans (cutAll _))))))
  have f25 : bits w 25 7 = 0x5#7 := e ▸ ((cutHi _ _ (by decide)).trans ((cutHi _ _ (by decide)).trans ((cutHi _ _ (by decide)).trans ((cutHi _ _ (by decide)).trans ((cutHi _ _ (by decide)).trans (cutAll _))))))
  refine decode_of w _ 0x33#7 f0 (by decide) (by decide) ?_ (unpk_no f0 (by decide)) hw
  rw [raw_Op f0]
  simp [decodeOp, f7, f12, f15, f20, f25]

theorem clz (d : BitVec 5) (a : BitVec 5) : Statement (.clz d a) := by
  intro w hw e
  replace e := Option.some.inj e
  have f0 : bits w 0 7 = 0x33#7 := e ▸ ((cutLo _ _ (by decide)).trans (cutAll _))
  have f7 : bits w 7 5 = d := e ▸ ((cutHi _ _ (by decide)).trans ((cutLo _ _ (by decide)).trans (cutAll _)))
  have f12 : bits w 12 3 = 0x4#3 := e ▸ ((cutHi _ _ (by decide)).trans ((cutHi _ _ (by decide)).trans ((cutLo _ _ (by decide)).trans (cutAll _))))
  have f15 : bits w 15 5 = a := e ▸ ((cutHi _ _ (by decide)).trans ((cutHi _ _ (by decide)).trans ((cutHi _ _ (by decide)).trans ((cutLo _ _ (by decide)).trans (cutAll _)))))
  have f20 : bits w 20 5 = 0x0#5 := e ▸ ((cutHi _ _ (by decide)).trans ((cutHi _ _ (by decide)).trans ((cutHi _ _ (by decide)).trans ((cutHi _ _ (by decide)).trans ((cutLo _ _ (by decide)).trans (cutAll _))))))
  have f25 : bits w 25 7 = 0x5#7 := e ▸ ((cutHi _ _ (by decide)).trans ((cutHi _ _ (by decide)).trans ((cutHi _ _ (by decide)).trans ((cutHi _ _ (by decide)).trans ((cutHi _ _ (by decide)).trans (cutAll _))))))
  refine decode_of w _ 0x33#7 f0 (by decide) (by decide) ?_ (unpk_no f0 (by decide)) hw
  rw [raw_Op f0]
  simp [decodeOp, f7, f12, f15, f20, f25]

theorem ctz (d : BitVec 5) (a : BitVec 5) : Statement (.ctz d a) := by
  intro w hw e
  replace e := Option.some.inj e
  have f0 : bits w 0 7 = 0x33#7 := e ▸ ((cutLo _ _ (by decide)).trans (cutAll _))
  have f7 : bits w 7 5 = d := e ▸ ((cutHi _ _ (by decide)).trans ((cutLo _ _ (by decide)).trans (cutAll _)))
  have f12 : bits w 12 3 = 0x5#3 := e ▸ ((cutHi _ _ (by decide)).trans ((cutHi _ _ (by decide)).trans ((cutLo _ _ (by decide)).trans (cutAll _))))
  have f15 : bits w 15 5 = a := e ▸ ((cutHi _ _ (by decide)).trans ((cutHi _ _ (by decide)).trans ((cutHi _ _ (by decide)).trans ((cutLo _ _ (by decide)).trans (cutAll _)))))
  have f20 : bits w 20 5 = 0x0#5 := e ▸ ((cutHi _ _ (by decide)).trans ((cutHi _ _ (by decide)).trans ((cutHi _ _ (by decide)).trans ((cutHi _ _ (by decide)).trans ((cutLo _ _ (by decide)).trans (cutAll _))))))
  have f25 : bits w 25 7 = 0x5#7 := e ▸ ((cutHi _ _ (by decide)).trans ((cutHi _ _ (by decide)).trans ((cutHi _ _ (by decide)).trans ((cutHi _ _ (by decide)).trans ((cutHi _ _ (by decide)).trans (cutAll _))))))
  refine decode_of w _ 0x33#7 f0 (by decide) (by decide) ?_ (unpk_no f0 (by decide)) hw
  rw [raw_Op f0]
  simp [decodeOp, f7, f12, f15, f20, f25]

theorem popc (d : BitVec 5) (a : BitVec 5) : Statement (.popc d a) := by
  intro w hw e
  replace e := Option.some.inj e
  have f0 : bits w 0 7 = 0x33#7 := e ▸ ((cutLo _ _ (by decide)).trans (cutAll _))
  have f7 : bits w 7 5 = d := e ▸ ((cutHi _ _ (by decide)).trans ((cutLo _ _ (by decide)).trans (cutAll _)))
  have f12 : bits w 12 3 = 0x6#3 := e ▸ ((cutHi _ _ (by decide)).trans ((cutHi _ _ (by decide)).trans ((cutLo _ _ (by decide)).trans (cutAll _))))
  have f15 : bits w 15 5 = a := e ▸ ((cutHi _ _ (by decide)).trans ((cutHi _ _ (by decide)).trans ((cutHi _ _ (by decide)).trans ((cutLo _ _ (by decide)).trans (cutAll _)))))
  have f20 : bits w 20 5 = 0x0#5 := e ▸ ((cutHi _ _ (by decide)).trans ((cutHi _ _ (by decide)).trans ((cutHi _ _ (by decide)).trans ((cutHi _ _ (by decide)).trans ((cutLo _ _ (by decide)).trans (cutAll _))))))
  have f25 : bits w 25 7 = 0x5#7 := e ▸ ((cutHi _ _ (by decide)).trans ((cutHi _ _ (by decide)).trans ((cutHi _ _ (by decide)).trans ((cutHi _ _ (by decide)).trans ((cutHi _ _ (by decide)).trans (cutAll _))))))
  refine decode_of w _ 0x33#7 f0 (by decide) (by decide) ?_ (unpk_no f0 (by decide)) hw
  rw [raw_Op f0]
  simp [decodeOp, f7, f12, f15, f20, f25]

theorem bswap (d : BitVec 5) (a : BitVec 5) : Statement (.bswap d a) := by
  intro w hw e
  replace e := Option.some.inj e
  have f0 : bits w 0 7 = 0x33#7 := e ▸ ((cutLo _ _ (by decide)).trans (cutAll _))
  have f7 : bits w 7 5 = d := e ▸ ((cutHi _ _ (by decide)).trans ((cutLo _ _ (by decide)).trans (cutAll _)))
  have f12 : bits w 12 3 = 0x7#3 := e ▸ ((cutHi _ _ (by decide)).trans ((cutHi _ _ (by decide)).trans ((cutLo _ _ (by decide)).trans (cutAll _))))
  have f15 : bits w 15 5 = a := e ▸ ((cutHi _ _ (by decide)).trans ((cutHi _ _ (by decide)).trans ((cutHi _ _ (by decide)).trans ((cutLo _ _ (by decide)).trans (cutAll _)))))
  have f20 : bits w 20 5 = 0x0#5 := e ▸ ((cutHi _ _ (by decide)).trans ((cutHi _ _ (by decide)).trans ((cutHi _ _ (by decide)).trans ((cutHi _ _ (by decide)).trans ((cutLo _ _ (by decide)).trans (cutAll _))))))
  have f25 : bits w 25 7 = 0x5#7 := e ▸ ((cutHi _ _ (by decide)).trans ((cutHi _ _ (by decide)).trans ((cutHi _ _ (by decide)).trans ((cutHi _ _ (by decide)).trans ((cutHi _ _ (by decide)).trans (cutAll _))))))
  refine decode_of w _ 0x33#7 f0 (by decide) (by decide) ?_ (unpk_no f0 (by decide)) hw
  rw [raw_Op f0]
  simp [decodeOp, f7, f12, f15, f20, f25]

theorem addi (d : BitVec 5) (a : BitVec 5) (i : BitVec 12) : Statement (.addi d a i) := by
  intro w hw e
  replace e := Option.some.inj e
  have f0 : bits w 0 7 = 0x13#7 := e ▸ ((cutLo _ _ (by decide)).trans (cutAll _))
  have f7 : bits w 7 5 = d := e ▸ ((cutHi _ _ (by decide)).trans ((cutLo _ _ (by decide)).trans (cutAll _)))
  have f12 : bits w 12 3 = 0x0#3 := e ▸ ((cutHi _ _ (by decide)).trans ((cutHi _ _ (by decide)).trans ((cutLo _ _ (by decide)).trans (cutAll _))))
  have f15 : bits w 15 5 = a := e ▸ ((cutHi _ _ (by decide)).trans ((cutHi _ _ (by decide)).trans ((cutHi _ _ (by decide)).trans ((cutLo _ _ (by decide)).trans (cutAll _)))))
  have f20 : bits w 20 12 = i := e ▸ ((cutHi _ _ (by decide)).trans ((cutHi _ _ (by decide)).trans ((cutHi _ _ (by decide)).trans ((cutHi _ _ (by decide)).trans (cutAll _)))))
  refine decode_of w _ 0x13#7 f0 (by decide) (by decide) ?_ (unpk_no f0 (by decide)) hw
  rw [raw_Opi f0]
  simp [decodeOpi, f7, f12, f15, f20]

theorem slli (d : BitVec 5) (a : BitVec 5) (h : BitVec 6) : Statement (.slli d a h) := by
  intro w hw e
  replace e := Option.some.inj e
  have f0 : bits w 0 7 = 0x13#7 := e ▸ ((cutLo _ _ (by decide)).trans (cutAll _))
  have f7 : bits w 7 5 = d := e ▸ ((cutHi _ _ (by decide)).trans ((cutLo _ _ (by decide)).trans (cutAll _)))
  have f12 : bits w 12 3 = 0x1#3 := e ▸ ((cutHi _ _ (by decide)).trans ((cutHi _ _ (by decide)).trans ((cutLo _ _ (by decide)).trans (cutAll _))))
  have f15 : bits w 15 5 = a := e ▸ ((cutHi _ _ (by decide)).trans ((cutHi _ _ (by decide)).trans ((cutHi _ _ (by decide)).trans ((cutLo _ _ (by decide)).trans (cutAll _)))))
  have f20 : bits w 20 6 = h := e ▸ ((cutHi _ _ (by decide)).trans ((cutHi _ _ (by decide)).trans ((cutHi _ _ (by decide)).trans ((cutHi _ _ (by decide)).trans ((cutLo _ _ (by decide)).trans (cutAll _))))))
  have f26 : bits w 26 6 = 0x0#6 := e ▸ ((cutHi _ _ (by decide)).trans ((cutHi _ _ (by decide)).trans ((cutHi _ _ (by decide)).trans ((cutHi _ _ (by decide)).trans ((cutHi _ _ (by decide)).trans (cutAll _))))))
  refine decode_of w _ 0x13#7 f0 (by decide) (by decide) ?_ (unpk_no f0 (by decide)) hw
  rw [raw_Opi f0]
  simp [decodeOpi, f7, f12, f15, f20, f26]

theorem slti (d : BitVec 5) (a : BitVec 5) (i : BitVec 12) : Statement (.slti d a i) := by
  intro w hw e
  replace e := Option.some.inj e
  have f0 : bits w 0 7 = 0x13#7 := e ▸ ((cutLo _ _ (by decide)).trans (cutAll _))
  have f7 : bits w 7 5 = d := e ▸ ((cutHi _ _ (by decide)).trans ((cutLo _ _ (by decide)).trans (cutAll _)))
  have f12 : bits w 12 3 = 0x2#3 := e ▸ ((cutHi _ _ (by decide)).trans ((cutHi _ _ (by decide)).trans ((cutLo _ _ (by decide)).trans (cutAll _))))
  have f15 : bits w 15 5 = a := e ▸ ((cutHi _ _ (by decide)).trans ((cutHi _ _ (by decide)).trans ((cutHi _ _ (by decide)).trans ((cutLo _ _ (by decide)).trans (cutAll _)))))
  have f20 : bits w 20 12 = i := e ▸ ((cutHi _ _ (by decide)).trans ((cutHi _ _ (by decide)).trans ((cutHi _ _ (by decide)).trans ((cutHi _ _ (by decide)).trans (cutAll _)))))
  refine decode_of w _ 0x13#7 f0 (by decide) (by decide) ?_ (unpk_no f0 (by decide)) hw
  rw [raw_Opi f0]
  simp [decodeOpi, f7, f12, f15, f20]

theorem sltiz (d : BitVec 5) (a : BitVec 5) (i : BitVec 12) : Statement (.sltiz d a i) := by
  intro w hw e
  replace e := Option.some.inj e
  have f0 : bits w 0 7 = 0x13#7 := e ▸ ((cutLo _ _ (by decide)).trans (cutAll _))
  have f7 : bits w 7 5 = d := e ▸ ((cutHi _ _ (by decide)).trans ((cutLo _ _ (by decide)).trans (cutAll _)))
  have f12 : bits w 12 3 = 0x3#3 := e ▸ ((cutHi _ _ (by decide)).trans ((cutHi _ _ (by decide)).trans ((cutLo _ _ (by decide)).trans (cutAll _))))
  have f15 : bits w 15 5 = a := e ▸ ((cutHi _ _ (by decide)).trans ((cutHi _ _ (by decide)).trans ((cutHi _ _ (by decide)).trans ((cutLo _ _ (by decide)).trans (cutAll _)))))
  have f20 : bits w 20 12 = i := e ▸ ((cutHi _ _ (by decide)).trans ((cutHi _ _ (by decide)).trans ((cutHi _ _ (by decide)).trans ((cutHi _ _ (by decide)).trans (cutAll _)))))
  refine decode_of w _ 0x13#7 f0 (by decide) (by decide) ?_ (unpk_no f0 (by decide)) hw
  rw [raw_Opi f0]
  simp [decodeOpi, f7, f12, f15, f20]

theorem xori (d : BitVec 5) (a : BitVec 5) (i : BitVec 12) : Statement (.xori d a i) := by
  intro w hw e
  replace e := Option.some.inj e
  have f0 : bits w 0 7 = 0x13#7 := e ▸ ((cutLo _ _ (by decide)).trans (cutAll _))
  have f7 : bits w 7 5 = d := e ▸ ((cutHi _ _ (by decide)).trans ((cutLo _ _ (by decide)).trans (cutAll _)))
  have f12 : bits w 12 3 = 0x4#3 := e ▸ ((cutHi _ _ (by decide)).trans ((cutHi _ _ (by decide)).trans ((cutLo _ _ (by decide)).trans (cutAll _))))
  have f15 : bits w 15 5 = a := e ▸ ((cutHi _ _ (by decide)).trans ((cutHi _ _ (by decide)).trans ((cutHi _ _ (by decide)).trans ((cutLo _ _ (by decide)).trans (cutAll _)))))
  have f20 : bits w 20 12 = i := e ▸ ((cutHi _ _ (by decide)).trans ((cutHi _ _ (by decide)).trans ((cutHi _ _ (by decide)).trans ((cutHi _ _ (by decide)).trans (cutAll _)))))
  refine decode_of w _ 0x13#7 f0 (by decide) (by decide) ?_ (unpk_no f0 (by decide)) hw
  rw [raw_Opi f0]
  simp [decodeOpi, f7, f12, f15, f20]

theorem srli (d : BitVec 5) (a : BitVec 5) (h : BitVec 6) : Statement (.srli d a h) := by
  intro w hw e
  replace e := Option.some.inj e
  have f0 : bits w 0 7 = 0x13#7 := e ▸ ((cutLo _ _ (by decide)).trans (cutAll _))
  have f7 : bits w 7 5 = d := e ▸ ((cutHi _ _ (by decide)).trans ((cutLo _ _ (by decide)).trans (cutAll _)))
  have f12 : bits w 12 3 = 0x5#3 := e ▸ ((cutHi _ _ (by decide)).trans ((cutHi _ _ (by decide)).trans ((cutLo _ _ (by decide)).trans (cutAll _))))
  have f15 : bits w 15 5 = a := e ▸ ((cutHi _ _ (by decide)).trans ((cutHi _ _ (by decide)).trans ((cutHi _ _ (by decide)).trans ((cutLo _ _ (by decide)).trans (cutAll _)))))
  have f20 : bits w 20 6 = h := e ▸ ((cutHi _ _ (by decide)).trans ((cutHi _ _ (by decide)).trans ((cutHi _ _ (by decide)).trans ((cutHi _ _ (by decide)).trans ((cutLo _ _ (by decide)).trans (cutAll _))))))
  have f26 : bits w 26 6 = 0x0#6 := e ▸ ((cutHi _ _ (by decide)).trans ((cutHi _ _ (by decide)).trans ((cutHi _ _ (by decide)).trans ((cutHi _ _ (by decide)).trans ((cutHi _ _ (by decide)).trans (cutAll _))))))
  refine decode_of w _ 0x13#7 f0 (by decide) (by decide) ?_ (unpk_no f0 (by decide)) hw
  rw [raw_Opi f0]
  simp [decodeOpi, f7, f12, f15, f20, f26]

theorem srai (d : BitVec 5) (a : BitVec 5) (h : BitVec 6) : Statement (.srai d a h) := by
  intro w hw e
  replace e := Option.some.inj e
  have f0 : bits w 0 7 = 0x13#7 := e ▸ ((cutLo _ _ (by decide)).trans (cutAll _))
  have f7 : bits w 7 5 = d := e ▸ ((cutHi _ _ (by decide)).trans ((cutLo _ _ (by decide)).trans (cutAll _)))
  have f12 : bits w 12 3 = 0x5#3 := e ▸ ((cutHi _ _ (by decide)).trans ((cutHi _ _ (by decide)).trans ((cutLo _ _ (by decide)).trans (cutAll _))))
  have f15 : bits w 15 5 = a := e ▸ ((cutHi _ _ (by decide)).trans ((cutHi _ _ (by decide)).trans ((cutHi _ _ (by decide)).trans ((cutLo _ _ (by decide)).trans (cutAll _)))))
  have f20 : bits w 20 6 = h := e ▸ ((cutHi _ _ (by decide)).trans ((cutHi _ _ (by decide)).trans ((cutHi _ _ (by decide)).trans ((cutHi _ _ (by decide)).trans ((cutLo _ _ (by decide)).trans (cutAll _))))))
  have f26 : bits w 26 6 = 0x10#6 := e ▸ ((cutHi _ _ (by decide)).trans ((cutHi _ _ (by decide)).trans ((cutHi _ _ (by decide)).trans ((cutHi _ _ (by decide)).trans ((cutHi _ _ (by decide)).trans (cutAll _))))))
  refine decode_of w _ 0x13#7 f0 (by decide) (by decide) ?_ (unpk_no f0 (by decide)) hw
  rw [raw_Opi f0]
  simp [decodeOpi, f7, f12, f15, f20, f26]

theorem ori (d : BitVec 5) (a : BitVec 5) (i : BitVec 12) : Statement (.ori d a i) := by
  intro w hw e
  replace e := Option.some.inj e
  have f0 : bits w 0 7 = 0x13#7 := e ▸ ((cutLo _ _ (by decide)).trans (cutAll _))
  have f7 : bits w 7 5 = d := e ▸ ((cutHi _ _ (by decide)).trans ((cutLo _ _ (by decide)).trans (cutAll _)))
  have f12 : bits w 12 3 = 0x6#3 := e ▸ ((cutHi _ _ (by decide)).trans ((cutHi _ _ (by decide)).trans ((cutLo _ _ (by decide)).trans (cutAll _))))
  have f15 : bits w 15 5 = a := e ▸ ((cutHi _ _ (by decide)).trans ((cutHi _ _ (by decide)).trans ((cutHi _ _ (by decide)).trans ((cutLo _ _ (by decide)).trans (cutAll _)))))
  have f20 : bits w 20 12 = i := e ▸ ((cutHi _ _ (by decide)).trans ((cutHi _ _ (by decide)).trans ((cutHi _ _ (by decide)).trans ((cutHi _ _ (by decide)).trans (cutAll _)))))
  refine decode_of w _ 0x13#7 f0 (by decide) (by decide) ?_ (unpk_no f0 (by decide)) hw
  rw [raw_Opi f0]
  simp [decodeOpi, f7, f12, f15, f20]

theorem andi (d : BitVec 5) (a : BitVec 5) (i : BitVec 12) : Statement (.andi d a i) := by
  intro w hw e
  replace e := Option.some.inj e
  have f0 : bits w 0 7 = 0x13#7 := e ▸ ((cutLo _ _ (by decide)).trans (cutAll _))
  have f7 : bits w 7 5 = d := e ▸ ((cutHi _ _ (by decide)).trans ((cutLo _ _ (by decide)).trans (cutAll _)))
  have f12 : bits w 12 3 = 0x7#3 := e ▸ ((cutHi _ _ (by decide)).trans ((cutHi _ _ (by decide)).trans ((cutLo _ _ (by decide)).trans (cutAll _))))
  have f15 : bits w 15 5 = a := e ▸ ((cutHi _ _ (by decide)).trans ((cutHi _ _ (by decide)).trans ((cutHi _ _ (by decide)).trans ((cutLo _ _ (by decide)).trans (cutAll _)))))
  have f20 : bits w 20 12 = i := e ▸ ((cutHi _ _ (by decide)).trans ((cutHi _ _ (by decide)).trans ((cutHi _ _ (by decide)).trans ((cutHi _ _ (by decide)).trans (cutAll _)))))
  refine decode_of w _ 0x13#7 f0 (by decide) (by decide) ?_ (unpk_no f0 (by decide)) hw
  rw [raw_Opi f0]
  simp [decodeOpi, f7, f12, f15, f20]

theorem ldB (d : BitVec 5) (a : BitVec 5) (i : BitVec 12) : Statement (.ldB d a i) := by
  intro w hw e
  replace e := Option.some.inj e
  have f0 : bits w 0 7 = 0x3#7 := e ▸ ((cutLo _ _ (by decide)).trans (cutAll _))
  have f7 : bits w 7 5 = d := e ▸ ((cutHi _ _ (by decide)).trans ((cutLo _ _ (by decide)).trans (cutAll _)))
  have f12 : bits w 12 3 = 0x0#3 := e ▸ ((cutHi _ _ (by decide)).trans ((cutHi _ _ (by decide)).trans ((cutLo _ _ (by decide)).trans (cutAll _))))
  have f15 : bits w 15 5 = a := e ▸ ((cutHi _ _ (by decide)).trans ((cutHi _ _ (by decide)).trans ((cutHi _ _ (by decide)).trans ((cutLo _ _ (by decide)).trans (cutAll _)))))
  have f20 : bits w 20 12 = i := e ▸ ((cutHi _ _ (by decide)).trans ((cutHi _ _ (by decide)).trans ((cutHi _ _ (by decide)).trans ((cutHi _ _ (by decide)).trans (cutAll _)))))
  refine decode_of w _ 0x3#7 f0 (by decide) (by decide) ?_ (unpk_no f0 (by decide)) hw
  rw [raw_Ld f0]
  simp [decodeLd, f7, f12, f15, f20]

theorem ldH (d : BitVec 5) (a : BitVec 5) (i : BitVec 12) : Statement (.ldH d a i) := by
  intro w hw e
  replace e := Option.some.inj e
  have f0 : bits w 0 7 = 0x3#7 := e ▸ ((cutLo _ _ (by decide)).trans (cutAll _))
  have f7 : bits w 7 5 = d := e ▸ ((cutHi _ _ (by decide)).trans ((cutLo _ _ (by decide)).trans (cutAll _)))
  have f12 : bits w 12 3 = 0x1#3 := e ▸ ((cutHi _ _ (by decide)).trans ((cutHi _ _ (by decide)).trans ((cutLo _ _ (by decide)).trans (cutAll _))))
  have f15 : bits w 15 5 = a := e ▸ ((cutHi _ _ (by decide)).trans ((cutHi _ _ (by decide)).trans ((cutHi _ _ (by decide)).trans ((cutLo _ _ (by decide)).trans (cutAll _)))))
  have f20 : bits w 20 12 = i := e ▸ ((cutHi _ _ (by decide)).trans ((cutHi _ _ (by decide)).trans ((cutHi _ _ (by decide)).trans ((cutHi _ _ (by decide)).trans (cutAll _)))))
  refine decode_of w _ 0x3#7 f0 (by decide) (by decide) ?_ (unpk_no f0 (by decide)) hw
  rw [raw_Ld f0]
  simp [decodeLd, f7, f12, f15, f20]

theorem ldW (d : BitVec 5) (a : BitVec 5) (i : BitVec 12) : Statement (.ldW d a i) := by
  intro w hw e
  replace e := Option.some.inj e
  have f0 : bits w 0 7 = 0x3#7 := e ▸ ((cutLo _ _ (by decide)).trans (cutAll _))
  have f7 : bits w 7 5 = d := e ▸ ((cutHi _ _ (by decide)).trans ((cutLo _ _ (by decide)).trans (cutAll _)))
  have f12 : bits w 12 3 = 0x2#3 := e ▸ ((cutHi _ _ (by decide)).trans ((cutHi _ _ (by decide)).trans ((cutLo _ _ (by decide)).trans (cutAll _))))
  have f15 : bits w 15 5 = a := e ▸ ((cutHi _ _ (by decide)).trans ((cutHi _ _ (by decide)).trans ((cutHi _ _ (by decide)).trans ((cutLo _ _ (by decide)).trans (cutAll _)))))
  have f20 : bits w 20 12 = i := e ▸ ((cutHi _ _ (by decide)).trans ((cutHi _ _ (by decide)).trans ((cutHi _ _ (by decide)).trans ((cutHi _ _ (by decide)).trans (cutAll _)))))
  refine decode_of w _ 0x3#7 f0 (by decide) (by decide) ?_ (unpk_no f0 (by decide)) hw
  rw [raw_Ld f0]
  simp [decodeLd, f7, f12, f15, f20]

theorem ldD (d : BitVec 5) (a : BitVec 5) (i : BitVec 12) : Statement (.ldD d a i) := by
  intro w hw e
  replace e := Option.some.inj e
  have f0 : bits w 0 7 = 0x3#7 := e ▸ ((cutLo _ _ (by decide)).trans (cutAll _))
  have f7 : bits w 7 5 = d := e ▸ ((cutHi _ _ (by decide)).trans ((cutLo _ _ (by decide)).trans (cutAll _)))
  have f12 : bits w 12 3 = 0x3#3 := e ▸ ((cutHi _ _ (by decide)).trans ((cutHi _ _ (by decide)).trans ((cutLo _ _ (by decide)).trans (cutAll _))))
  have f15 : bits w 15 5 = a := e ▸ ((cutHi _ _ (by decide)).trans ((cutHi _ _ (by decide)).trans ((cutHi _ _ (by decide)).trans ((cutLo _ _ (by decide)).trans (cutAll _)))))
  have f20 : bits w 20 12 = i := e ▸ ((cutHi _ _ (by decide)).trans ((cutHi _ _ (by decide)).trans ((cutHi _ _ (by decide)).trans ((cutHi _ _ (by decide)).trans (cutAll _)))))
  refine decode_of w _ 0x3#7 f0 (by decide) (by decide) ?_ (unpk_no f0 (by decide)) hw
  rw [raw_Ld f0]
  simp [decodeLd, f7, f12, f15, f20]

theorem ldBz (d : BitVec 5) (a : BitVec 5) (i : BitVec 12) : Statement (.ldBz d a i) := by
  intro w hw e
  replace e := Option.some.inj e
  have f0 : bits w 0 7 = 0x3#7 := e ▸ ((cutLo _ _ (by decide)).trans (cutAll _))
  have f7 : bits w 7 5 = d := e ▸ ((cutHi _ _ (by decide)).trans ((cutLo _ _ (by decide)).trans (cutAll _)))
  have f12 : bits w 12 3 = 0x4#3 := e ▸ ((cutHi _ _ (by decide)).trans ((cutHi _ _ (by decide)).trans ((cutLo _ _ (by decide)).trans (cutAll _))))
  have f15 : bits w 15 5 = a := e ▸ ((cutHi _ _ (by decide)).trans ((cutHi _ _ (by decide)).trans ((cutHi _ _ (by decide)).trans ((cutLo _ _ (by decide)).trans (cutAll _)))))
  have f20 : bits w 20 12 = i := e ▸ ((cutHi _ _ (by decide)).trans ((cutHi _ _ (by decide)).trans ((cutHi _ _ (by decide)).trans ((cutHi _ _ (by decide)).trans (cutAll _)))))
  refine decode_of w _ 0x3#7 f0 (by decide) (by decide) ?_ (unpk_no f0 (by decide)) hw
  rw [raw_Ld f0]
  simp [decodeLd, f7, f12, f15, f20]

theorem ldHz (d : BitVec 5) (a : BitVec 5) (i : BitVec 12) : Statement (.ldHz d a i) := by
  intro w hw e
  replace e := Option.some.inj e
  have f0 : bits w 0 7 = 0x3#7 := e ▸ ((cutLo _ _ (by decide)).trans (cutAll _))
  have f7 : bits w 7 5 = d := e ▸ ((cutHi _ _ (by decide)).trans ((cutLo _ _ (by decide)).trans (cutAll _)))
  have f12 : bits w 12 3 = 0x5#3 := e ▸ ((cutHi _ _ (by decide)).trans ((cutHi _ _ (by decide)).trans ((cutLo _ _ (by decide)).trans (cutAll _))))
  have f15 : bits w 15 5 = a := e ▸ ((cutHi _ _ (by decide)).trans ((cutHi _ _ (by decide)).trans ((cutHi _ _ (by decide)).trans ((cutLo _ _ (by decide)).trans (cutAll _)))))
  have f20 : bits w 20 12 = i := e ▸ ((cutHi _ _ (by decide)).trans ((cutHi _ _ (by decide)).trans ((cutHi _ _ (by decide)).trans ((cutHi _ _ (by decide)).trans (cutAll _)))))
  refine decode_of w _ 0x3#7 f0 (by decide) (by decide) ?_ (unpk_no f0 (by decide)) hw
  rw [raw_Ld f0]
  simp [decodeLd, f7, f12, f15, f20]

theorem ldWz (d : BitVec 5) (a : BitVec 5) (i : BitVec 12) : Statement (.ldWz d a i) := by
  intro w hw e
  replace e := Option.some.inj e
  have f0 : bits w 0 7 = 0x3#7 := e ▸ ((cutLo _ _ (by decide)).trans (cutAll _))
  have f7 : bits w 7 5 = d := e ▸ ((cutHi _ _ (by decide)).trans ((cutLo _ _ (by decide)).trans (cutAll _)))
  have f12 : bits w 12 3 = 0x6#3 := e ▸ ((cutHi _ _ (by decide)).trans ((cutHi _ _ (by decide)).trans ((cutLo _ _ (by decide)).trans (cutAll _))))
  have f15 : bits w 15 5 = a := e ▸ ((cutHi _ _ (by decide)).trans ((cutHi _ _ (by decide)).trans ((cutHi _ _ (by decide)).trans ((cutLo _ _ (by decide)).trans (cutAll _)))))
  have f20 : bits w 20 12 = i := e ▸ ((cutHi _ _ (by decide)).trans ((cutHi _ _ (by decide)).trans ((cutHi _ _ (by decide)).trans ((cutHi _ _ (by decide)).trans (cutAll _)))))
  refine decode_of w _ 0x3#7 f0 (by decide) (by decide) ?_ (unpk_no f0 (by decide)) hw
  rw [raw_Ld f0]
  simp [decodeLd, f7, f12, f15, f20]

theorem stB (a : BitVec 5) (b : BitVec 5) (i : BitVec 12) : Statement (.stB a b i) := by
  intro w hw e
  replace e := Option.some.inj e
  have f0 : bits w 0 7 = 0x23#7 := e ▸ ((cutLo _ _ (by decide)).trans (cutAll _))
  have f7 : bits w 7 5 = (i.extractLsb' 0 5) := e ▸ ((cutHi _ _ (by decide)).trans ((cutLo _ _ (by decide)).trans (cutAll _)))
  have f12 : bits w 12 3 = 0x0#3 := e ▸ ((cutHi _ _ (by decide)).trans ((cutHi _ _ (by decide)).trans ((cutLo _ _ (by decide)).trans (cutAll _))))
  have f15 : bits w 15 5 = a := e ▸ ((cutHi _ _ (by decide)).trans ((cutHi _ _ (by decide)).trans ((cutHi _ _ (by decide)).trans ((cutLo _ _ (by decide)).trans (cutAll _)))))
  have f20 : bits w 20 5 = b := e ▸ ((cutHi _ _ (by decide)).trans ((cutHi _ _ (by decide)).trans ((cutHi _ _ (by decide)).trans ((cutHi _ _ (by decide)).trans ((cutLo _ _ (by decide)).trans (cutAll _))))))
  have f25 : bits w 25 7 = (i.extractLsb' 5 7) := e ▸ ((cutHi _ _ (by decide)).trans ((cutHi _ _ (by decide)).trans ((cutHi _ _ (by decide)).trans ((cutHi _ _ (by decide)).trans ((cutHi _ _ (by decide)).trans (cutAll _))))))
  refine decode_of w _ 0x23#7 f0 (by decide) (by decide) ?_ (unpk_no f0 (by decide)) hw
  rw [raw_St f0]
  simp [decodeSt, f7, f12, f15, f20, f25]
  exact joinHiLo _

theorem stH (a : BitVec 5) (b : BitVec 5) (i : BitVec 12) : Statement (.stH a b i) := by
  intro w hw e
  replace e := Option.some.inj e
  have f0 : bits w 0 7 = 0x23#7 := e ▸ ((cutLo _ _ (by decide)).trans (cutAll _))
  have f7 : bits w 7 5 = (i.extractLsb' 0 5) := e ▸ ((cutHi _ _ (by decide)).trans ((cutLo _ _ (by decide)).trans (cutAll _)))
  have f12 : bits w 12 3 = 0x1#3 := e ▸ ((cutHi _ _ (by decide)).trans ((cutHi _ _ (by decide)).trans ((cutLo _ _ (by decide)).trans (cutAll _))))
  have f15 : bits w 15 5 = a := e ▸ ((cutHi _ _ (by decide)).trans ((cutHi _ _ (by decide)).trans ((cutHi _ _ (by decide)).trans ((cutLo _ _ (by decide)).trans (cutAll _)))))
  have f20 : bits w 20 5 = b := e ▸ ((cutHi _ _ (by decide)).trans ((cutHi _ _ (by decide)).trans ((cutHi _ _ (by decide)).trans ((cutHi _ _ (by decide)).trans ((cutLo _ _ (by decide)).trans (cutAll _))))))
  have f25 : bits w 25 7 = (i.extractLsb' 5 7) := e ▸ ((cutHi _ _ (by decide)).trans ((cutHi _ _ (by decide)).trans ((cutHi _ _ (by decide)).trans ((cutHi _ _ (by decide)).trans ((cutHi _ _ (by decide)).trans (cutAll _))))))
  refine decode_of w _ 0x23#7 f0 (by decide) (by decide) ?_ (unpk_no f0 (by decide)) hw
  rw [raw_St f0]
  simp [decodeSt, f7, f12, f15, f20, f25]
  exact joinHiLo _

theorem stW (a : BitVec 5) (b : BitVec 5) (i : BitVec 12) : Statement (.stW a b i) := by
  intro w hw e
  replace e := Option.some.inj e
  have f0 : bits w 0 7 = 0x23#7 := e ▸ ((cutLo _ _ (by decide)).trans (cutAll _))
  have f7 : bits w 7 5 = (i.extractLsb' 0 5) := e ▸ ((cutHi _ _ (by decide)).trans ((cutLo _ _ (by decide)).trans (cutAll _)))
  have f12 : bits w 12 3 = 0x2#3 := e ▸ ((cutHi _ _ (by decide)).trans ((cutHi _ _ (by decide)).trans ((cutLo _ _ (by decide)).trans (cutAll _))))
  have f15 : bits w 15 5 = a := e ▸ ((cutHi _ _ (by decide)).trans ((cutHi _ _ (by decide)).trans ((cutHi _ _ (by decide)).trans ((cutLo _ _ (by decide)).trans (cutAll _)))))
  have f20 : bits w 20 5 = b := e ▸ ((cutHi _ _ (by decide)).trans ((cutHi _ _ (by decide)).trans ((cutHi _ _ (by decide)).trans ((cutHi _ _ (by decide)).trans ((cutLo _ _ (by decide)).trans (cutAll _))))))
  have f25 : bits w 25 7 = (i.extractLsb' 5 7) := e ▸ ((cutHi _ _ (by decide)).trans ((cutHi _ _ (by decide)).trans ((cutHi _ _ (by decide)).trans ((cutHi _ _ (by decide)).trans ((cutHi _ _ (by decide)).trans (cutAll _))))))
  refine decode_of w _ 0x23#7 f0 (by decide) (by decide) ?_ (unpk_no f0 (by decide)) hw
  rw [raw_St f0]
  simp [decodeSt, f7, f12, f15, f20, f25]
  exact joinHiLo _

theorem stD (a : BitVec 5) (b : BitVec 5) (i : BitVec 12) : Statement (.stD a b i) := by
  intro w hw e
  replace e := Option.some.inj e
  have f0 : bits w 0 7 = 0x23#7 := e ▸ ((cutLo _ _ (by decide)).trans (cutAll _))
  have f7 : bits w 7 5 = (i.extractLsb' 0 5) := e ▸ ((cutHi _ _ (by decide)).trans ((cutLo _ _ (by decide)).trans (cutAll _)))
  have f12 : bits w 12 3 = 0x3#3 := e ▸ ((cutHi _ _ (by decide)).trans ((cutHi _ _ (by decide)).trans ((cutLo _ _ (by decide)).trans (cutAll _))))
  have f15 : bits w 15 5 = a := e ▸ ((cutHi _ _ (by decide)).trans ((cutHi _ _ (by decide)).trans ((cutHi _ _ (by decide)).trans ((cutLo _ _ (by decide)).trans (cutAll _)))))
  have f20 : bits w 20 5 = b := e ▸ ((cutHi _ _ (by decide)).trans ((cutHi _ _ (by decide)).trans ((cutHi _ _ (by decide)).trans ((cutHi _ _ (by decide)).trans ((cutLo _ _ (by decide)).trans (cutAll _))))))
  have f25 : bits w 25 7 = (i.extractLsb' 5 7) := e ▸ ((cutHi _ _ (by decide)).trans ((cutHi _ _ (by decide)).trans ((cutHi _ _ (by decide)).trans ((cutHi _ _ (by decide)).trans ((cutHi _ _ (by decide)).trans (cutAll _))))))
  refine decode_of w _ 0x23#7 f0 (by decide) (by decide) ?_ (unpk_no f0 (by decide)) hw
  rw [raw_St f0]
  simp [decodeSt, f7, f12, f15, f20, f25]
  exact joinHiLo _

theorem beq (a : BitVec 5) (b : BitVec 5) (i : BitVec 12) : Statement (.beq a b i) := by
  intro w hw e
  replace e := Option.some.inj e
  have f0 : bits w 0 7 = 0x63#7 := e ▸ ((cutLo _ _ (by decide)).trans (cutAll _))
  have f7 : bits w 7 5 = (i.extractLsb' 0 5) := e ▸ ((cutHi _ _ (by decide)).trans ((cutLo _ _ (by decide)).trans (cutAll _)))
  have f12 : bits w 12 3 = 0x0#3 := e ▸ ((cutHi _ _ (by decide)).trans ((cutHi _ _ (by decide)).trans ((cutLo _ _ (by decide)).trans (cutAll _))))
  have f15 : bits w 15 5 = a := e ▸ ((cutHi _ _ (by decide)).trans ((cutHi _ _ (by decide)).trans ((cutHi _ _ (by decide)).trans ((cutLo _ _ (by decide)).trans (cutAll _)))))
  have f20 : bits w 20 5 = b := e ▸ ((cutHi _ _ (by decide)).trans ((cutHi _ _ (by decide)).trans ((cutHi _ _ (by decide)).trans ((cutHi _ _ (by decide)).trans ((cutLo _ _ (by decide)).trans (cutAll _))))))
  have f25 : bits w 25 7 = (i.extractLsb' 5 7) := e ▸ ((cutHi _ _ (by decide)).trans ((cutHi _ _ (by decide)).trans ((cutHi _ _ (by decide)).trans ((cutHi _ _ (by decide)).trans ((cutHi _ _ (by decide)).trans (cutAll _))))))
  refine decode_of w _ 0x63#7 f0 (by decide) (by decide) ?_ (unpk_no f0 (by decide)) hw
  rw [raw_Br f0]
  simp [decodeBr, f7, f12, f15, f20, f25]
  exact joinHiLo _

theorem bne (a : BitVec 5) (b : BitVec 5) (i : BitVec 12) : Statement (.bne a b i) := by
  intro w hw e
  replace e := Option.some.inj e
  have f0 : bits w 0 7 = 0x63#7 := e ▸ ((cutLo _ _ (by decide)).trans (cutAll _))
  have f7 : bits w 7 5 = (i.extractLsb' 0 5) := e ▸ ((cutHi _ _ (by decide)).trans ((cutLo _ _ (by decide)).trans (cutAll _)))
  have f12 : bits w 12 3 = 0x1#3 := e ▸ ((cutHi _ _ (by decide)).trans ((cutHi _ _ (by decide)).trans ((cutLo _ _ (by decide)).trans (cutAll _))))
  have f15 : bits w 15 5 = a := e ▸ ((cutHi _ _ (by decide)).trans ((cutHi _ _ (by decide)).trans ((cutHi _ _ (by decide)).trans ((cutLo _ _ (by decide)).trans (cutAll _)))))
  have f20 : bits w 20 5 = b := e ▸ ((cutHi _ _ (by decide)).trans ((cutHi _ _ (by decide)).trans ((cutHi _ _ (by decide)).trans ((cutHi _ _ (by decide)).trans ((cutLo _ _ (by decide)).trans (cutAll _))))))
  have f25 : bits w 25 7 = (i.extractLsb' 5 7) := e ▸ ((cutHi _ _ (by decide)).trans ((cutHi _ _ (by decide)).trans ((cutHi _ _ (by decide)).trans ((cutHi _ _ (by decide)).trans ((cutHi _ _ (by decide)).trans (cutAll _))))))
  refine decode_of w _ 0x63#7 f0 (by decide) (by decide) ?_ (unpk_no f0 (by decide)) hw
  rw [raw_Br f0]
  simp [decodeBr, f7, f12, f15, f20, f25]
  exact joinHiLo _

theorem blt (a : BitVec 5) (b : BitVec 5) (i : BitVec 12) : Statement (.blt a b i) := by
  intro w hw e
  replace e := Option.some.inj e
  have f0 : bits w 0 7 = 0x63#7 := e ▸ ((cutLo _ _ (by decide)).trans (cutAll _))
  have f7 : bits w 7 5 = (i.extractLsb' 0 5) := e ▸ ((cutHi _ _ (by decide)).trans ((cutLo _ _ (by decide)).trans (cutAll _)))
  have f12 : bits w 12 3 = 0x4#3 := e ▸ ((cutHi _ _ (by decide)).trans ((cutHi _ _ (by decide)).trans ((cutLo _ _ (by decide)).trans (cutAll _))))
  have f15 : bits w 15 5 = a := e ▸ ((cutHi _ _ (by decide)).trans ((cutHi _ _ (by decide)).trans ((cutHi _ _ (by decide)).trans ((cutLo _ _ (by decide)).trans (cutAll _)))))
  have f20 : bits w 20 5 = b := e ▸ ((cutHi _ _ (by decide)).trans ((cutHi _ _ (by decide)).trans ((cutHi _ _ (by decide)).trans ((cutHi _ _ (by decide)).trans ((cutLo _ _ (by decide)).trans (cutAll _))))))
  have f25 : bits w 25 7 = (i.extractLsb' 5 7) := e ▸ ((cutHi _ _ (by decide)).trans ((cutHi _ _ (by decide)).trans ((cutHi _ _ (by decide)).trans ((cutHi _ _ (by decide)).trans ((cutHi _ _ (by decide)).trans (cutAll _))))))
  refine decode_of w _ 0x63#7 f0 (by decide) (by decide) ?_ (unpk_no f0 (by decide)) hw
  rw [raw_Br f0]
  simp [decodeBr, f7, f12, f15, f20, f25]
  exact joinHiLo _

theorem bge (a : BitVec 5) (b : BitVec 5) (i : BitVec 12) : Statement (.bge a b i) := by
  intro w hw e
  replace e := Option.some.inj e
  have f0 : bits w 0 7 = 0x63#7 := e ▸ ((cutLo _ _ (by decide)).trans (cutAll _))
  have f7 : bits w 7 5 = (i.extractLsb' 0 5) := e ▸ ((cutHi _ _ (by decide)).trans ((cutLo _ _ (by decide)).trans (cutAll _)))
  have f12 : bits w 12 3 = 0x5#3 := e ▸ ((cutHi _ _ (by decide)).trans ((cutHi _ _ (by decide)).trans ((cutLo _ _ (by decide)).trans (cutAll _))))
  have f15 : bits w 15 5 = a := e ▸ ((cutHi _ _ (by decide)).trans ((cutHi _ _ (by decide)).trans ((cutHi _ _ (by decide)).trans ((cutLo _ _ (by decide)).trans (cutAll _)))))
  have f20 : bits w 20 5 = b := e ▸ ((cutHi _ _ (by decide)).trans ((cutHi _ _ (by decide)).trans ((cutHi _ _ (by decide)).trans ((cutHi _ _ (by decide)).trans ((cutLo _ _ (by decide)).trans (cutAll _))))))
  have f25 : bits w 25 7 = (i.extractLsb' 5 7) := e ▸ ((cutHi _ _ (by decide)).trans ((cutHi _ _ (by decide)).trans ((cutHi _ _ (by decide)).trans ((cutHi _ _ (by decide)).trans ((cutHi _ _ (by decide)).trans (cutAll _))))))
  refine decode_of w _ 0x63#7 f0 (by decide) (by decide) ?_ (unpk_no f0 (by decide)) hw
  rw [raw_Br f0]
  simp [decodeBr, f7, f12, f15, f20, f25]
  exact joinHiLo _

theorem bltz (a : BitVec 5) (b : BitVec 5) (i : BitVec 12) : Statement (.bltz a b i) := by
  intro w hw e
  replace e := Option.some.inj e
  have f0 : bits w 0 7 = 0x63#7 := e ▸ ((cutLo _ _ (by decide)).trans (cutAll _))
  have f7 : bits w 7 5 = (i.extractLsb' 0 5) := e ▸ ((cutHi _ _ (by decide)).trans ((cutLo _ _ (by decide)).trans (cutAll _)))
  have f12 : bits w 12 3 = 0x6#3 := e ▸ ((cutHi _ _ (by decide)).trans ((cutHi _ _ (by decide)).trans ((cutLo _ _ (by decide)).trans (cutAll _))))
  have f15 : bits w 15 5 = a := e ▸ ((cutHi _ _ (by decide)).trans ((cutHi _ _ (by decide)).trans ((cutHi _ _ (by decide)).trans ((cutLo _ _ (by decide)).trans (cutAll _)))))
  have f20 : bits w 20 5 = b := e ▸ ((cutHi _ _ (by decide)).trans ((cutHi _ _ (by decide)).trans ((cutHi _ _ (by decide)).trans ((cutHi _ _ (by decide)).trans ((cutLo _ _ (by decide)).trans (cutAll _))))))
  have f25 : bits w 25 7 = (i.extractLsb' 5 7) := e ▸ ((cutHi _ _ (by decide)).trans ((cutHi _ _ (by decide)).trans ((cutHi _ _ (by decide)).trans ((cutHi _ _ (by decide)).trans ((cutHi _ _ (by decide)).trans (cutAll _))))))
  refine decode_of w _ 0x63#7 f0 (by decide) (by decide) ?_ (unpk_no f0 (by decide)) hw
  rw [raw_Br f0]
  simp [decodeBr, f7, f12, f15, f20, f25]
  exact joinHiLo _

theorem bgez (a : BitVec 5) (b : BitVec 5) (i : BitVec 12) : Statement (.bgez a b i) := by
  intro w hw e
  replace e := Option.some.inj e
  have f0 : bits w 0 7 = 0x63#7 := e ▸ ((cutLo _ _ (by decide)).trans (cutAll _))
  have f7 : bits w 7 5 = (i.extractLsb' 0 5) := e ▸ ((cutHi _ _ (by decide)).trans ((cutLo _ _ (by decide)).trans (cutAll _)))
  have f12 : bits w 12 3 = 0x7#3 := e ▸ ((cutHi _ _ (by decide)).trans ((cutHi _ _ (by decide)).trans ((cutLo _ _ (by decide)).trans (cutAll _))))
  have f15 : bits w 15 5 = a := e ▸ ((cutHi _ _ (by decide)).trans ((cutHi _ _ (by decide)).trans ((cutHi _ _ (by decide)).trans ((cutLo _ _ (by decide)).trans (cutAll _)))))
  have f20 : bits w 20 5 = b := e ▸ ((cutHi _ _ (by decide)).trans ((cutHi _ _ (by decide)).trans ((cutHi _ _ (by decide)).trans ((cutHi _ _ (by decide)).trans ((cutLo _ _ (by decide)).trans (cutAll _))))))
  have f25 : bits w 25 7 = (i.extractLsb' 5 7) := e ▸ ((cutHi _ _ (by decide)).trans ((cutHi _ _ (by decide)).trans ((cutHi _ _ (by decide)).trans ((cutHi _ _ (by decide)).trans ((cutHi _ _ (by decide)).trans (cutAll _))))))
  refine decode_of w _ 0x63#7 f0 (by decide) (by decide) ?_ (unpk_no f0 (by decide)) hw
  rw [raw_Br f0]
  simp [decodeBr, f7, f12, f15, f20, f25]
  exact joinHiLo _

theorem jal (d : BitVec 5) (i : BitVec 20) : Statement (.jal d i) := by
  intro w hw e
  replace e := Option.some.inj e
  have f0 : bits w 0 7 = 0x6F#7 := e ▸ ((cutLo _ _ (by decide)).trans (cutAll _))
  have f7 : bits w 7 5 = d := e ▸ ((cutHi _ _ (by decide)).trans ((cutLo _ _ (by decide)).trans (cutAll _)))
  have f12 : bits w 12 20 = i := e ▸ ((cutHi _ _ (by decide)).trans ((cutHi _ _ (by decide)).trans (cutAll _)))
  refine decode_of w _ 0x6F#7 f0 (by decide) (by decide) ?_ (unpk_no f0 (by decide)) hw
  rw [raw_Jal f0]
  simp [decodeJal, f7, f12]

theorem jalr (d : BitVec 5) (a : BitVec 5) (i : BitVec 12) : Statement (.jalr d a i) := by
  intro w hw e
  replace e := Option.some.inj e
  have f0 : bits w 0 7 = 0x67#7 := e ▸ ((cutLo _ _ (by decide)).trans (cutAll _))
  have f7 : bits w 7 5 = d := e ▸ ((cutHi _ _ (by decide)).trans ((cutLo _ _ (by decide)).trans (cutAll _)))
  have f12 : bits w 12 3 = 0x0#3 := e ▸ ((cutHi _ _ (by decide)).trans ((cutHi _ _ (by decide)).trans ((cutLo _ _ (by decide)).trans (cutAll _))))
  have f15 : bits w 15 5 = a := e ▸ ((cutHi _ _ (by decide)).trans ((cutHi _ _ (by decide)).trans ((cutHi _ _ (by decide)).trans ((cutLo _ _ (by decide)).trans (cutAll _)))))
  have f20 : bits w 20 12 = i := e ▸ ((cutHi _ _ (by decide)).trans ((cutHi _ _ (by decide)).trans ((cutHi _ _ (by decide)).trans ((cutHi _ _ (by decide)).trans (cutAll _)))))
  refine decode_of w _ 0x67#7 f0 (by decide) (by decide) ?_ (unpk_no f0 (by decide)) hw
  rw [raw_Jalr f0]
  simp [decodeJalr, f7, f12, f15, f20]

theorem lui (d : BitVec 5) (i : BitVec 20) : Statement (.lui d i) := by
  intro w hw e
  replace e := Option.some.inj e
  have f0 : bits w 0 7 = 0x37#7 := e ▸ ((cutLo _ _ (by decide)).trans (cutAll _))
  have f7 : bits w 7 5 = d := e ▸ ((cutHi _ _ (by decide)).trans ((cutLo _ _ (by decide)).trans (cutAll _)))
  have f12 : bits w 12 20 = i := e ▸ ((cutHi _ _ (by decide)).trans ((cutHi _ _ (by decide)).trans (cutAll _)))
  refine decode_of w _ 0x37#7 f0 (by decide) (by decide) ?_ (unpk_no f0 (by decide)) hw
  rw [raw_Lui f0]
  simp [decodeLui, f7, f12]

theorem aupc (d : BitVec 5) (i : BitVec 20) : Statement (.aupc d i) := by
  intro w hw e
  replace e := Option.some.inj e
  have f0 : bits w 0 7 = 0x17#7 := e ▸ ((cutLo _ _ (by decide)).trans (cutAll _))
  have f7 : bits w 7 5 = d := e ▸ ((cutHi _ _ (by decide)).trans ((cutLo _ _ (by decide)).trans (cutAll _)))
  have f12 : bits w 12 20 = i := e ▸ ((cutHi _ _ (by decide)).trans ((cutHi _ _ (by decide)).trans (cutAll _)))
  refine decode_of w _ 0x17#7 f0 (by decide) (by decide) ?_ (unpk_no f0 (by decide)) hw
  rw [raw_Aupc f0]
  simp [decodeAupc, f7, f12]

theorem loop (a : BitVec 5) (i : BitVec 12) : Statement (.loop a i) := by
  intro w hw e
  replace e := Option.some.inj e
  have f0 : bits w 0 7 = 0x5B#7 := e ▸ ((cutLo _ _ (by decide)).trans (cutAll _))
  have f7 : bits w 7 5 = 0x0#5 := e ▸ ((cutHi _ _ (by decide)).trans ((cutLo _ _ (by decide)).trans (cutAll _)))
  have f12 : bits w 12 3 = 0x0#3 := e ▸ ((cutHi _ _ (by decide)).trans ((cutHi _ _ (by decide)).trans ((cutLo _ _ (by decide)).trans (cutAll _))))
  have f15 : bits w 15 5 = a := e ▸ ((cutHi _ _ (by decide)).trans ((cutHi _ _ (by decide)).trans ((cutHi _ _ (by decide)).trans ((cutLo _ _ (by decide)).trans (cutAll _)))))
  have f20 : bits w 20 12 = i := e ▸ ((cutHi _ _ (by decide)).trans ((cutHi _ _ (by decide)).trans ((cutHi _ _ (by decide)).trans ((cutHi _ _ (by decide)).trans (cutAll _)))))
  refine decode_of w _ 0x5B#7 f0 (by decide) (by decide) ?_ (unpk_no f0 (by decide)) hw
  rw [raw_Loop f0]
  simp [decodeLoop, f7, f12, f15, f20]

theorem loopi (n : BitVec 10) (i : BitVec 12) : Statement (.loopi n i) := by
  intro w hw e
  replace e := Option.some.inj e
  have f0 : bits w 0 7 = 0x5B#7 := e ▸ ((cutLo _ _ (by decide)).trans (cutAll _))
  have f7 : bits w 7 5 = (n.extractLsb' 5 5) := e ▸ ((cutHi _ _ (by decide)).trans ((cutLo _ _ (by decide)).trans (cutAll _)))
  have f12 : bits w 12 3 = 0x1#3 := e ▸ ((cutHi _ _ (by decide)).trans ((cutHi _ _ (by decide)).trans ((cutLo _ _ (by decide)).trans (cutAll _))))
  have f15 : bits w 15 5 = (n.extractLsb' 0 5) := e ▸ ((cutHi _ _ (by decide)).trans ((cutHi _ _ (by decide)).trans ((cutHi _ _ (by decide)).trans ((cutLo _ _ (by decide)).trans (cutAll _)))))
  have f20 : bits w 20 12 = i := e ▸ ((cutHi _ _ (by decide)).trans ((cutHi _ _ (by decide)).trans ((cutHi _ _ (by decide)).trans ((cutHi _ _ (by decide)).trans (cutAll _)))))
  refine decode_of w _ 0x5B#7 f0 (by decide) (by decide) ?_ (unpk_no f0 (by decide)) hw
  rw [raw_Loop f0]
  simp [decodeLoop, f7, f12, f15, f20]
  exact joinHiLo _

theorem lidx (d : BitVec 5) (e : BitVec 3) : Statement (.lidx d e) := by
  intro w hw e1
  replace e1 := Option.some.inj e1
  have f0 : bits w 0 7 = 0x5B#7 := e1 ▸ ((cutLo _ _ (by decide)).trans (cutAll _))
  have f7 : bits w 7 5 = d := e1 ▸ ((cutHi _ _ (by decide)).trans ((cutLo _ _ (by decide)).trans (cutAll _)))
  have f12 : bits w 12 3 = 0x2#3 := e1 ▸ ((cutHi _ _ (by decide)).trans ((cutHi _ _ (by decide)).trans ((cutLo _ _ (by decide)).trans (cutAll _))))
  have f15 : bits w 15 5 = 0x0#5 := e1 ▸ ((cutHi _ _ (by decide)).trans ((cutHi _ _ (by decide)).trans ((cutHi _ _ (by decide)).trans ((cutLo _ _ (by decide)).trans (cutAll _)))))
  have f20 : bits w 20 3 = e := e1 ▸ ((cutHi _ _ (by decide)).trans ((cutHi _ _ (by decide)).trans ((cutHi _ _ (by decide)).trans ((cutHi _ _ (by decide)).trans ((cutLo _ _ (by decide)).trans (cutAll _))))))
  have f23 : bits w 23 9 = 0x0#9 := e1 ▸ ((cutHi _ _ (by decide)).trans ((cutHi _ _ (by decide)).trans ((cutHi _ _ (by decide)).trans ((cutHi _ _ (by decide)).trans ((cutHi _ _ (by decide)).trans (cutAll _))))))
  refine decode_of w _ 0x5B#7 f0 (by decide) (by decide) ?_ (unpk_no f0 (by decide)) hw
  rw [raw_Loop f0]
  simp [decodeLoop, f7, f12, f15, f20, f23]

theorem lbrk : Statement .lbrk := by
  intro w hw e
  replace e := Option.some.inj e
  have f0 : bits w 0 7 = 0x5B#7 := e ▸ ((cutLo _ _ (by decide)).trans (cutAll _))
  have f7 : bits w 7 5 = 0x0#5 := e ▸ ((cutHi _ _ (by decide)).trans ((cutLo _ _ (by decide)).trans (cutAll _)))
  have f12 : bits w 12 3 = 0x3#3 := e ▸ ((cutHi _ _ (by decide)).trans ((cutHi _ _ (by decide)).trans ((cutLo _ _ (by decide)).trans (cutAll _))))
  have f15 : bits w 15 5 = 0x0#5 := e ▸ ((cutHi _ _ (by decide)).trans ((cutHi _ _ (by decide)).trans ((cutHi _ _ (by decide)).trans ((cutLo _ _ (by decide)).trans (cutAll _)))))
  have f20 : bits w 20 12 = 0x0#12 := e ▸ ((cutHi _ _ (by decide)).trans ((cutHi _ _ (by decide)).trans ((cutHi _ _ (by decide)).trans ((cutHi _ _ (by decide)).trans (cutAll _)))))
  refine decode_of w _ 0x5B#7 f0 (by decide) (by decide) ?_ (unpk_no f0 (by decide)) hw
  rw [raw_Loop f0]
  simp [decodeLoop, f7, f12, f15, f20]

theorem lnext : Statement .lnext := by
  intro w hw e
  replace e := Option.some.inj e
  have f0 : bits w 0 7 = 0x5B#7 := e ▸ ((cutLo _ _ (by decide)).trans (cutAll _))
  have f7 : bits w 7 5 = 0x0#5 := e ▸ ((cutHi _ _ (by decide)).trans ((cutLo _ _ (by decide)).trans (cutAll _)))
  have f12 : bits w 12 3 = 0x4#3 := e ▸ ((cutHi _ _ (by decide)).trans ((cutHi _ _ (by decide)).trans ((cutLo _ _ (by decide)).trans (cutAll _))))
  have f15 : bits w 15 5 = 0x0#5 := e ▸ ((cutHi _ _ (by decide)).trans ((cutHi _ _ (by decide)).trans ((cutHi _ _ (by decide)).trans ((cutLo _ _ (by decide)).trans (cutAll _)))))
  have f20 : bits w 20 12 = 0x0#12 := e ▸ ((cutHi _ _ (by decide)).trans ((cutHi _ _ (by decide)).trans ((cutHi _ _ (by decide)).trans ((cutHi _ _ (by decide)).trans (cutAll _)))))
  refine decode_of w _ 0x5B#7 f0 (by decide) (by decide) ?_ (unpk_no f0 (by decide)) hw
  rw [raw_Loop f0]
  simp [decodeLoop, f7, f12, f15, f20]

theorem svc : Statement .svc := by
  intro w hw e
  replace e := Option.some.inj e
  have f0 : bits w 0 7 = 0x73#7 := e ▸ ((cutLo _ _ (by decide)).trans (cutAll _))
  have f7 : bits w 7 5 = 0x0#5 := e ▸ ((cutHi _ _ (by decide)).trans ((cutLo _ _ (by decide)).trans (cutAll _)))
  have f12 : bits w 12 3 = 0x0#3 := e ▸ ((cutHi _ _ (by decide)).trans ((cutHi _ _ (by decide)).trans ((cutLo _ _ (by decide)).trans (cutAll _))))
  have f15 : bits w 15 5 = 0x0#5 := e ▸ ((cutHi _ _ (by decide)).trans ((cutHi _ _ (by decide)).trans ((cutHi _ _ (by decide)).trans ((cutLo _ _ (by decide)).trans (cutAll _)))))
  have f20 : bits w 20 12 = 0x0#12 := e ▸ ((cutHi _ _ (by decide)).trans ((cutHi _ _ (by decide)).trans ((cutHi _ _ (by decide)).trans ((cutHi _ _ (by decide)).trans (cutAll _)))))
  refine decode_of w _ 0x73#7 f0 (by decide) (by decide) ?_ (unpk_no f0 (by decide)) hw
  rw [raw_Sys f0]
  simp [decodeSys, f7, f12, f15, f20]

theorem brk : Statement .brk := by
  intro w hw e
  replace e := Option.some.inj e
  have f0 : bits w 0 7 = 0x73#7 := e ▸ ((cutLo _ _ (by decide)).trans (cutAll _))
  have f7 : bits w 7 5 = 0x0#5 := e ▸ ((cutHi _ _ (by decide)).trans ((cutLo _ _ (by decide)).trans (cutAll _)))
  have f12 : bits w 12 3 = 0x0#3 := e ▸ ((cutHi _ _ (by decide)).trans ((cutHi _ _ (by decide)).trans ((cutLo _ _ (by decide)).trans (cutAll _))))
  have f15 : bits w 15 5 = 0x0#5 := e ▸ ((cutHi _ _ (by decide)).trans ((cutHi _ _ (by decide)).trans ((cutHi _ _ (by decide)).trans ((cutLo _ _ (by decide)).trans (cutAll _)))))
  have f20 : bits w 20 12 = 0x1#12 := e ▸ ((cutHi _ _ (by decide)).trans ((cutHi _ _ (by decide)).trans ((cutHi _ _ (by decide)).trans ((cutHi _ _ (by decide)).trans (cutAll _)))))
  refine decode_of w _ 0x73#7 f0 (by decide) (by decide) ?_ (unpk_no f0 (by decide)) hw
  rw [raw_Sys f0]
  simp [decodeSys, f7, f12, f15, f20]

theorem yield : Statement .yield := by
  intro w hw e
  replace e := Option.some.inj e
  have f0 : bits w 0 7 = 0x73#7 := e ▸ ((cutLo _ _ (by decide)).trans (cutAll _))
  have f7 : bits w 7 5 = 0x0#5 := e ▸ ((cutHi _ _ (by decide)).trans ((cutLo _ _ (by decide)).trans (cutAll _)))
  have f12 : bits w 12 3 = 0x0#3 := e ▸ ((cutHi _ _ (by decide)).trans ((cutHi _ _ (by decide)).trans ((cutLo _ _ (by decide)).trans (cutAll _))))
  have f15 : bits w 15 5 = 0x0#5 := e ▸ ((cutHi _ _ (by decide)).trans ((cutHi _ _ (by decide)).trans ((cutHi _ _ (by decide)).trans ((cutLo _ _ (by decide)).trans (cutAll _)))))
  have f20 : bits w 20 12 = 0x2#12 := e ▸ ((cutHi _ _ (by decide)).trans ((cutHi _ _ (by decide)).trans ((cutHi _ _ (by decide)).trans ((cutHi _ _ (by decide)).trans (cutAll _)))))
  refine decode_of w _ 0x73#7 f0 (by decide) (by decide) ?_ (unpk_no f0 (by decide)) hw
  rw [raw_Sys f0]
  simp [decodeSys, f7, f12, f15, f20]

theorem ifence : Statement .ifence := by
  intro w hw e
  replace e := Option.some.inj e
  have f0 : bits w 0 7 = 0x73#7 := e ▸ ((cutLo _ _ (by decide)).trans (cutAll _))
  have f7 : bits w 7 5 = 0x0#5 := e ▸ ((cutHi _ _ (by decide)).trans ((cutLo _ _ (by decide)).trans (cutAll _)))
  have f12 : bits w 12 3 = 0x0#3 := e ▸ ((cutHi _ _ (by decide)).trans ((cutHi _ _ (by decide)).trans ((cutLo _ _ (by decide)).trans (cutAll _))))
  have f15 : bits w 15 5 = 0x0#5 := e ▸ ((cutHi _ _ (by decide)).trans ((cutHi _ _ (by decide)).trans ((cutHi _ _ (by decide)).trans ((cutLo _ _ (by decide)).trans (cutAll _)))))
  have f20 : bits w 20 12 = 0x3#12 := e ▸ ((cutHi _ _ (by decide)).trans ((cutHi _ _ (by decide)).trans ((cutHi _ _ (by decide)).trans ((cutHi _ _ (by decide)).trans (cutAll _)))))
  refine decode_of w _ 0x73#7 f0 (by decide) (by decide) ?_ (unpk_no f0 (by decide)) hw
  rw [raw_Sys f0]
  simp [decodeSys, f7, f12, f15, f20]

theorem getc (d : BitVec 5) (c : BitVec 12) : Statement (.getc d c) := by
  intro w hw e
  replace e := Option.some.inj e
  have f0 : bits w 0 7 = 0x73#7 := e ▸ ((cutLo _ _ (by decide)).trans (cutAll _))
  have f7 : bits w 7 5 = d := e ▸ ((cutHi _ _ (by decide)).trans ((cutLo _ _ (by decide)).trans (cutAll _)))
  have f12 : bits w 12 3 = 0x1#3 := e ▸ ((cutHi _ _ (by decide)).trans ((cutHi _ _ (by decide)).trans ((cutLo _ _ (by decide)).trans (cutAll _))))
  have f15 : bits w 15 5 = 0x0#5 := e ▸ ((cutHi _ _ (by decide)).trans ((cutHi _ _ (by decide)).trans ((cutHi _ _ (by decide)).trans ((cutLo _ _ (by decide)).trans (cutAll _)))))
  have f20 : bits w 20 12 = c := e ▸ ((cutHi _ _ (by decide)).trans ((cutHi _ _ (by decide)).trans ((cutHi _ _ (by decide)).trans ((cutHi _ _ (by decide)).trans (cutAll _)))))
  refine decode_of w _ 0x73#7 f0 (by decide) (by decide) ?_ (unpk_no f0 (by decide)) hw
  rw [raw_Sys f0]
  simp [decodeSys, f7, f12, f15, f20]

theorem setc (a : BitVec 5) (c : BitVec 12) : Statement (.setc a c) := by
  intro w hw e
  replace e := Option.some.inj e
  have f0 : bits w 0 7 = 0x73#7 := e ▸ ((cutLo _ _ (by decide)).trans (cutAll _))
  have f7 : bits w 7 5 = 0x0#5 := e ▸ ((cutHi _ _ (by decide)).trans ((cutLo _ _ (by decide)).trans (cutAll _)))
  have f12 : bits w 12 3 = 0x2#3 := e ▸ ((cutHi _ _ (by decide)).trans ((cutHi _ _ (by decide)).trans ((cutLo _ _ (by decide)).trans (cutAll _))))
  have f15 : bits w 15 5 = a := e ▸ ((cutHi _ _ (by decide)).trans ((cutHi _ _ (by decide)).trans ((cutHi _ _ (by decide)).trans ((cutLo _ _ (by decide)).trans (cutAll _)))))
  have f20 : bits w 20 12 = c := e ▸ ((cutHi _ _ (by decide)).trans ((cutHi _ _ (by decide)).trans ((cutHi _ _ (by decide)).trans ((cutHi _ _ (by decide)).trans (cutAll _)))))
  refine decode_of w _ 0x73#7 f0 (by decide) (by decide) ?_ (unpk_no f0 (by decide)) hw
  rw [raw_Sys f0]
  simp [decodeSys, f7, f12, f15, f20]

theorem swapc (d : BitVec 5) (a : BitVec 5) (c : BitVec 12) : Statement (.swapc d a c) := by
  intro w hw e
  replace e := Option.some.inj e
  have f0 : bits w 0 7 = 0x73#7 := e ▸ ((cutLo _ _ (by decide)).trans (cutAll _))
  have f7 : bits w 7 5 = d := e ▸ ((cutHi _ _ (by decide)).trans ((cutLo _ _ (by decide)).trans (cutAll _)))
  have f12 : bits w 12 3 = 0x3#3 := e ▸ ((cutHi _ _ (by decide)).trans ((cutHi _ _ (by decide)).trans ((cutLo _ _ (by decide)).trans (cutAll _))))
  have f15 : bits w 15 5 = a := e ▸ ((cutHi _ _ (by decide)).trans ((cutHi _ _ (by decide)).trans ((cutHi _ _ (by decide)).trans ((cutLo _ _ (by decide)).trans (cutAll _)))))
  have f20 : bits w 20 12 = c := e ▸ ((cutHi _ _ (by decide)).trans ((cutHi _ _ (by decide)).trans ((cutHi _ _ (by decide)).trans ((cutHi _ _ (by decide)).trans (cutAll _)))))
  refine decode_of w _ 0x73#7 f0 (by decide) (by decide) ?_ (unpk_no f0 (by decide)) hw
  rw [raw_Sys f0]
  simp [decodeSys, f7, f12, f15, f20]

theorem sleep (a : BitVec 5) : Statement (.sleep a) := by
  intro w hw e
  replace e := Option.some.inj e
  have f0 : bits w 0 7 = 0x73#7 := e ▸ ((cutLo _ _ (by decide)).trans (cutAll _))
  have f7 : bits w 7 5 = 0x0#5 := e ▸ ((cutHi _ _ (by decide)).trans ((cutLo _ _ (by decide)).trans (cutAll _)))
  have f12 : bits w 12 3 = 0x4#3 := e ▸ ((cutHi _ _ (by decide)).trans ((cutHi _ _ (by decide)).trans ((cutLo _ _ (by decide)).trans (cutAll _))))
  have f15 : bits w 15 5 = a := e ▸ ((cutHi _ _ (by decide)).trans ((cutHi _ _ (by decide)).trans ((cutHi _ _ (by decide)).trans ((cutLo _ _ (by decide)).trans (cutAll _)))))
  have f20 : bits w 20 12 = 0x0#12 := e ▸ ((cutHi _ _ (by decide)).trans ((cutHi _ _ (by decide)).trans ((cutHi _ _ (by decide)).trans ((cutHi _ _ (by decide)).trans (cutAll _)))))
  refine decode_of w _ 0x73#7 f0 (by decide) (by decide) ?_ (unpk_no f0 (by decide)) hw
  rw [raw_Sys f0]
  simp [decodeSys, f7, f12, f15, f20]

theorem amoaddW (d : BitVec 5) (a : BitVec 5) (b : BitVec 5) (s : BitVec 3) (r : BitVec 1) (q : BitVec 1) : Statement (.amoaddW d a b s r q) := by
  intro w hw e
  replace e := Option.some.inj e
  have f0 : bits w 0 7 = 0x2F#7 := e ▸ ((cutLo _ _ (by decide)).trans (cutAll _))
  have f7 : bits w 7 5 = d := e ▸ ((cutHi _ _ (by decide)).trans ((cutLo _ _ (by decide)).trans (cutAll _)))
  have f12 : bits w 12 3 = s := e ▸ ((cutHi _ _ (by decide)).trans ((cutHi _ _ (by decide)).trans ((cutLo _ _ (by decide)).trans (cutAll _))))
  have f15 : bits w 15 5 = a := e ▸ ((cutHi _ _ (by decide)).trans ((cutHi _ _ (by decide)).trans ((cutHi _ _ (by decide)).trans ((cutLo _ _ (by decide)).trans (cutAll _)))))
  have f20 : bits w 20 5 = b := e ▸ ((cutHi _ _ (by decide)).trans ((cutHi _ _ (by decide)).trans ((cutHi _ _ (by decide)).trans ((cutHi _ _ (by decide)).trans ((cutLo _ _ (by decide)).trans (cutAll _))))))
  have f25 : bits w 25 1 = r := e ▸ ((cutHi _ _ (by decide)).trans ((cutHi _ _ (by decide)).trans ((cutHi _ _ (by decide)).trans ((cutHi _ _ (by decide)).trans ((cutHi _ _ (by decide)).trans ((cutLo _ _ (by decide)).trans (cutAll _)))))))
  have f26 : bits w 26 1 = q := e ▸ ((cutHi _ _ (by decide)).trans ((cutHi _ _ (by decide)).trans ((cutHi _ _ (by decide)).trans ((cutHi _ _ (by decide)).trans ((cutHi _ _ (by decide)).trans ((cutHi _ _ (by decide)).trans ((cutLo _ _ (by decide)).trans (cutAll _))))))))
  have f27 : bits w 27 5 = 0x0#5 := e ▸ ((cutHi _ _ (by decide)).trans ((cutHi _ _ (by decide)).trans ((cutHi _ _ (by decide)).trans ((cutHi _ _ (by decide)).trans ((cutHi _ _ (by decide)).trans ((cutHi _ _ (by decide)).trans ((cutHi _ _ (by decide)).trans (cutAll _))))))))
  refine decode_of w _ 0x2F#7 f0 (by decide) (by decide) ?_ (unpk_no f0 (by decide)) hw
  rw [raw_Atom f0]
  simp [decodeAtom, f7, f12, f15, f20, f25, f26, f27]

theorem amoaddD (d : BitVec 5) (a : BitVec 5) (b : BitVec 5) (s : BitVec 3) (r : BitVec 1) (q : BitVec 1) : Statement (.amoaddD d a b s r q) := by
  intro w hw e
  replace e := Option.some.inj e
  have f0 : bits w 0 7 = 0x2F#7 := e ▸ ((cutLo _ _ (by decide)).trans (cutAll _))
  have f7 : bits w 7 5 = d := e ▸ ((cutHi _ _ (by decide)).trans ((cutLo _ _ (by decide)).trans (cutAll _)))
  have f12 : bits w 12 3 = s := e ▸ ((cutHi _ _ (by decide)).trans ((cutHi _ _ (by decide)).trans ((cutLo _ _ (by decide)).trans (cutAll _))))
  have f15 : bits w 15 5 = a := e ▸ ((cutHi _ _ (by decide)).trans ((cutHi _ _ (by decide)).trans ((cutHi _ _ (by decide)).trans ((cutLo _ _ (by decide)).trans (cutAll _)))))
  have f20 : bits w 20 5 = b := e ▸ ((cutHi _ _ (by decide)).trans ((cutHi _ _ (by decide)).trans ((cutHi _ _ (by decide)).trans ((cutHi _ _ (by decide)).trans ((cutLo _ _ (by decide)).trans (cutAll _))))))
  have f25 : bits w 25 1 = r := e ▸ ((cutHi _ _ (by decide)).trans ((cutHi _ _ (by decide)).trans ((cutHi _ _ (by decide)).trans ((cutHi _ _ (by decide)).trans ((cutHi _ _ (by decide)).trans ((cutLo _ _ (by decide)).trans (cutAll _)))))))
  have f26 : bits w 26 1 = q := e ▸ ((cutHi _ _ (by decide)).trans ((cutHi _ _ (by decide)).trans ((cutHi _ _ (by decide)).trans ((cutHi _ _ (by decide)).trans ((cutHi _ _ (by decide)).trans ((cutHi _ _ (by decide)).trans ((cutLo _ _ (by decide)).trans (cutAll _))))))))
  have f27 : bits w 27 5 = 0x1#5 := e ▸ ((cutHi _ _ (by decide)).trans ((cutHi _ _ (by decide)).trans ((cutHi _ _ (by decide)).trans ((cutHi _ _ (by decide)).trans ((cutHi _ _ (by decide)).trans ((cutHi _ _ (by decide)).trans ((cutHi _ _ (by decide)).trans (cutAll _))))))))
  refine decode_of w _ 0x2F#7 f0 (by decide) (by decide) ?_ (unpk_no f0 (by decide)) hw
  rw [raw_Atom f0]
  simp [decodeAtom, f7, f12, f15, f20, f25, f26, f27]

theorem amoswapW (d : BitVec 5) (a : BitVec 5) (b : BitVec 5) (s : BitVec 3) (r : BitVec 1) (q : BitVec 1) : Statement (.amoswapW d a b s r q) := by
  intro w hw e
  replace e := Option.some.inj e
  have f0 : bits w 0 7 = 0x2F#7 := e ▸ ((cutLo _ _ (by decide)).trans (cutAll _))
  have f7 : bits w 7 5 = d := e ▸ ((cutHi _ _ (by decide)).trans ((cutLo _ _ (by decide)).trans (cutAll _)))
  have f12 : bits w 12 3 = s := e ▸ ((cutHi _ _ (by decide)).trans ((cutHi _ _ (by decide)).trans ((cutLo _ _ (by decide)).trans (cutAll _))))
  have f15 : bits w 15 5 = a := e ▸ ((cutHi _ _ (by decide)).trans ((cutHi _ _ (by decide)).trans ((cutHi _ _ (by decide)).trans ((cutLo _ _ (by decide)).trans (cutAll _)))))
  have f20 : bits w 20 5 = b := e ▸ ((cutHi _ _ (by decide)).trans ((cutHi _ _ (by decide)).trans ((cutHi _ _ (by decide)).trans ((cutHi _ _ (by decide)).trans ((cutLo _ _ (by decide)).trans (cutAll _))))))
  have f25 : bits w 25 1 = r := e ▸ ((cutHi _ _ (by decide)).trans ((cutHi _ _ (by decide)).trans ((cutHi _ _ (by decide)).trans ((cutHi _ _ (by decide)).trans ((cutHi _ _ (by decide)).trans ((cutLo _ _ (by decide)).trans (cutAll _)))))))
  have f26 : bits w 26 1 = q := e ▸ ((cutHi _ _ (by decide)).trans ((cutHi _ _ (by decide)).trans ((cutHi _ _ (by decide)).trans ((cutHi _ _ (by decide)).trans ((cutHi _ _ (by decide)).trans ((cutHi _ _ (by decide)).trans ((cutLo _ _ (by decide)).trans (cutAll _))))))))
  have f27 : bits w 27 5 = 0x2#5 := e ▸ ((cutHi _ _ (by decide)).trans ((cutHi _ _ (by decide)).trans ((cutHi _ _ (by decide)).trans ((cutHi _ _ (by decide)).trans ((cutHi _ _ (by decide)).trans ((cutHi _ _ (by decide)).trans ((cutHi _ _ (by decide)).trans (cutAll _))))))))
  refine decode_of w _ 0x2F#7 f0 (by decide) (by decide) ?_ (unpk_no f0 (by decide)) hw
  rw [raw_Atom f0]
  simp [decodeAtom, f7, f12, f15, f20, f25, f26, f27]

theorem amoswapD (d : BitVec 5) (a : BitVec 5) (b : BitVec 5) (s : BitVec 3) (r : BitVec 1) (q : BitVec 1) : Statement (.amoswapD d a b s r q) := by
  intro w hw e
  replace e := Option.some.inj e
  have f0 : bits w 0 7 = 0x2F#7 := e ▸ ((cutLo _ _ (by decide)).trans (cutAll _))
  have f7 : bits w 7 5 = d := e ▸ ((cutHi _ _ (by decide)).trans ((cutLo _ _ (by decide)).trans (cutAll _)))
  have f12 : bits w 12 3 = s := e ▸ ((cutHi _ _ (by decide)).trans ((cutHi _ _ (by decide)).trans ((cutLo _ _ (by decide)).trans (cutAll _))))
  have f15 : bits w 15 5 = a := e ▸ ((cutHi _ _ (by decide)).trans ((cutHi _ _ (by decide)).trans ((cutHi _ _ (by decide)).trans ((cutLo _ _ (by decide)).trans (cutAll _)))))
  have f20 : bits w 20 5 = b := e ▸ ((cutHi _ _ (by decide)).trans ((cutHi _ _ (by decide)).trans ((cutHi _ _ (by decide)).trans ((cutHi _ _ (by decide)).trans ((cutLo _ _ (by decide)).trans (cutAll _))))))
  have f25 : bits w 25 1 = r := e ▸ ((cutHi _ _ (by decide)).trans ((cutHi _ _ (by decide)).trans ((cutHi _ _ (by decide)).trans ((cutHi _ _ (by decide)).trans ((cutHi _ _ (by decide)).trans ((cutLo _ _ (by decide)).trans (cutAll _)))))))
  have f26 : bits w 26 1 = q := e ▸ ((cutHi _ _ (by decide)).trans ((cutHi _ _ (by decide)).trans ((cutHi _ _ (by decide)).trans ((cutHi _ _ (by decide)).trans ((cutHi _ _ (by decide)).trans ((cutHi _ _ (by decide)).trans ((cutLo _ _ (by decide)).trans (cutAll _))))))))
  have f27 : bits w 27 5 = 0x3#5 := e ▸ ((cutHi _ _ (by decide)).trans ((cutHi _ _ (by decide)).trans ((cutHi _ _ (by decide)).trans ((cutHi _ _ (by decide)).trans ((cutHi _ _ (by decide)).trans ((cutHi _ _ (by decide)).trans ((cutHi _ _ (by decide)).trans (cutAll _))))))))
  refine decode_of w _ 0x2F#7 f0 (by decide) (by decide) ?_ (unpk_no f0 (by decide)) hw
  rw [raw_Atom f0]
  simp [decodeAtom, f7, f12, f15, f20, f25, f26, f27]

theorem amoandD (d : BitVec 5) (a : BitVec 5) (b : BitVec 5) (s : BitVec 3) (r : BitVec 1) (q : BitVec 1) : Statement (.amoandD d a b s r q) := by
  intro w hw e
  replace e := Option.some.inj e
  have f0 : bits w 0 7 = 0x2F#7 := e ▸ ((cutLo _ _ (by decide)).trans (cutAll _))
  have f7 : bits w 7 5 = d := e ▸ ((cutHi _ _ (by decide)).trans ((cutLo _ _ (by decide)).trans (cutAll _)))
  have f12 : bits w 12 3 = s := e ▸ ((cutHi _ _ (by decide)).trans ((cutHi _ _ (by decide)).trans ((cutLo _ _ (by decide)).trans (cutAll _))))
  have f15 : bits w 15 5 = a := e ▸ ((cutHi _ _ (by decide)).trans ((cutHi _ _ (by decide)).trans ((cutHi _ _ (by decide)).trans ((cutLo _ _ (by decide)).trans (cutAll _)))))
  have f20 : bits w 20 5 = b := e ▸ ((cutHi _ _ (by decide)).trans ((cutHi _ _ (by decide)).trans ((cutHi _ _ (by decide)).trans ((cutHi _ _ (by decide)).trans ((cutLo _ _ (by decide)).trans (cutAll _))))))
  have f25 : bits w 25 1 = r := e ▸ ((cutHi _ _ (by decide)).trans ((cutHi _ _ (by decide)).trans ((cutHi _ _ (by decide)).trans ((cutHi _ _ (by decide)).trans ((cutHi _ _ (by decide)).trans ((cutLo _ _ (by decide)).trans (cutAll _)))))))
  have f26 : bits w 26 1 = q := e ▸ ((cutHi _ _ (by decide)).trans ((cutHi _ _ (by decide)).trans ((cutHi _ _ (by decide)).trans ((cutHi _ _ (by decide)).trans ((cutHi _ _ (by decide)).trans ((cutHi _ _ (by decide)).trans ((cutLo _ _ (by decide)).trans (cutAll _))))))))
  have f27 : bits w 27 5 = 0x4#5 := e ▸ ((cutHi _ _ (by decide)).trans ((cutHi _ _ (by decide)).trans ((cutHi _ _ (by decide)).trans ((cutHi _ _ (by decide)).trans ((cutHi _ _ (by decide)).trans ((cutHi _ _ (by decide)).trans ((cutHi _ _ (by decide)).trans (cutAll _))))))))
  refine decode_of w _ 0x2F#7 f0 (by decide) (by decide) ?_ (unpk_no f0 (by decide)) hw
  rw [raw_Atom f0]
  simp [decodeAtom, f7, f12, f15, f20, f25, f26, f27]

theorem amoorD (d : BitVec 5) (a : BitVec 5) (b : BitVec 5) (s : BitVec 3) (r : BitVec 1) (q : BitVec 1) : Statement (.amoorD d a b s r q) := by
  intro w hw e
  replace e := Option.some.inj e
  have f0 : bits w 0 7 = 0x2F#7 := e ▸ ((cutLo _ _ (by decide)).trans (cutAll _))
  have f7 : bits w 7 5 = d := e ▸ ((cutHi _ _ (by decide)).trans ((cutLo _ _ (by decide)).trans (cutAll _)))
  have f12 : bits w 12 3 = s := e ▸ ((cutHi _ _ (by decide)).trans ((cutHi _ _ (by decide)).trans ((cutLo _ _ (by decide)).trans (cutAll _))))
  have f15 : bits w 15 5 = a := e ▸ ((cutHi _ _ (by decide)).trans ((cutHi _ _ (by decide)).trans ((cutHi _ _ (by decide)).trans ((cutLo _ _ (by decide)).trans (cutAll _)))))
  have f20 : bits w 20 5 = b := e ▸ ((cutHi _ _ (by decide)).trans ((cutHi _ _ (by decide)).trans ((cutHi _ _ (by decide)).trans ((cutHi _ _ (by decide)).trans ((cutLo _ _ (by decide)).trans (cutAll _))))))
  have f25 : bits w 25 1 = r := e ▸ ((cutHi _ _ (by decide)).trans ((cutHi _ _ (by decide)).trans ((cutHi _ _ (by decide)).trans ((cutHi _ _ (by decide)).trans ((cutHi _ _ (by decide)).trans ((cutLo _ _ (by decide)).trans (cutAll _)))))))
  have f26 : bits w 26 1 = q := e ▸ ((cutHi _ _ (by decide)).trans ((cutHi _ _ (by decide)).trans ((cutHi _ _ (by decide)).trans ((cutHi _ _ (by decide)).trans ((cutHi _ _ (by decide)).trans ((cutHi _ _ (by decide)).trans ((cutLo _ _ (by decide)).trans (cutAll _))))))))
  have f27 : bits w 27 5 = 0x5#5 := e ▸ ((cutHi _ _ (by decide)).trans ((cutHi _ _ (by decide)).trans ((cutHi _ _ (by decide)).trans ((cutHi _ _ (by decide)).trans ((cutHi _ _ (by decide)).trans ((cutHi _ _ (by decide)).trans ((cutHi _ _ (by decide)).trans (cutAll _))))))))
  refine decode_of w _ 0x2F#7 f0 (by decide) (by decide) ?_ (unpk_no f0 (by decide)) hw
  rw [raw_Atom f0]
  simp [decodeAtom, f7, f12, f15, f20, f25, f26, f27]

theorem amoxorD (d : BitVec 5) (a : BitVec 5) (b : BitVec 5) (s : BitVec 3) (r : BitVec 1) (q : BitVec 1) : Statement (.amoxorD d a b s r q) := by
  intro w hw e
  replace e := Option.some.inj e
  have f0 : bits w 0 7 = 0x2F#7 := e ▸ ((cutLo _ _ (by decide)).trans (cutAll _))
  have f7 : bits w 7 5 = d := e ▸ ((cutHi _ _ (by decide)).trans ((cutLo _ _ (by decide)).trans (cutAll _)))
  have f12 : bits w 12 3 = s := e ▸ ((cutHi _ _ (by decide)).trans ((cutHi _ _ (by decide)).trans ((cutLo _ _ (by decide)).trans (cutAll _))))
  have f15 : bits w 15 5 = a := e ▸ ((cutHi _ _ (by decide)).trans ((cutHi _ _ (by decide)).trans ((cutHi _ _ (by decide)).trans ((cutLo _ _ (by decide)).trans (cutAll _)))))
  have f20 : bits w 20 5 = b := e ▸ ((cutHi _ _ (by decide)).trans ((cutHi _ _ (by decide)).trans ((cutHi _ _ (by decide)).trans ((cutHi _ _ (by decide)).trans ((cutLo _ _ (by decide)).trans (cutAll _))))))
  have f25 : bits w 25 1 = r := e ▸ ((cutHi _ _ (by decide)).trans ((cutHi _ _ (by decide)).trans ((cutHi _ _ (by decide)).trans ((cutHi _ _ (by decide)).trans ((cutHi _ _ (by decide)).trans ((cutLo _ _ (by decide)).trans (cutAll _)))))))
  have f26 : bits w 26 1 = q := e ▸ ((cutHi _ _ (by decide)).trans ((cutHi _ _ (by decide)).trans ((cutHi _ _ (by decide)).trans ((cutHi _ _ (by decide)).trans ((cutHi _ _ (by decide)).trans ((cutHi _ _ (by decide)).trans ((cutLo _ _ (by decide)).trans (cutAll _))))))))
  have f27 : bits w 27 5 = 0x6#5 := e ▸ ((cutHi _ _ (by decide)).trans ((cutHi _ _ (by decide)).trans ((cutHi _ _ (by decide)).trans ((cutHi _ _ (by decide)).trans ((cutHi _ _ (by decide)).trans ((cutHi _ _ (by decide)).trans ((cutHi _ _ (by decide)).trans (cutAll _))))))))
  refine decode_of w _ 0x2F#7 f0 (by decide) (by decide) ?_ (unpk_no f0 (by decide)) hw
  rw [raw_Atom f0]
  simp [decodeAtom, f7, f12, f15, f20, f25, f26, f27]

theorem amominD (d : BitVec 5) (a : BitVec 5) (b : BitVec 5) (s : BitVec 3) (r : BitVec 1) (q : BitVec 1) : Statement (.amominD d a b s r q) := by
  intro w hw e
  replace e := Option.some.inj e
  have f0 : bits w 0 7 = 0x2F#7 := e ▸ ((cutLo _ _ (by decide)).trans (cutAll _))
  have f7 : bits w 7 5 = d := e ▸ ((cutHi _ _ (by decide)).trans ((cutLo _ _ (by decide)).trans (cutAll _)))
  have f12 : bits w 12 3 = s := e ▸ ((cutHi _ _ (by decide)).trans ((cutHi _ _ (by decide)).trans ((cutLo _ _ (by decide)).trans (cutAll _))))
  have f15 : bits w 15 5 = a := e ▸ ((cutHi _ _ (by decide)).trans ((cutHi _ _ (by decide)).trans ((cutHi _ _ (by decide)).trans ((cutLo _ _ (by decide)).trans (cutAll _)))))
  have f20 : bits w 20 5 = b := e ▸ ((cutHi _ _ (by decide)).trans ((cutHi _ _ (by decide)).trans ((cutHi _ _ (by decide)).trans ((cutHi _ _ (by decide)).trans ((cutLo _ _ (by decide)).trans (cutAll _))))))
  have f25 : bits w 25 1 = r := e ▸ ((cutHi _ _ (by decide)).trans ((cutHi _ _ (by decide)).trans ((cutHi _ _ (by decide)).trans ((cutHi _ _ (by decide)).trans ((cutHi _ _ (by decide)).trans ((cutLo _ _ (by decide)).trans (cutAll _)))))))
  have f26 : bits w 26 1 = q := e ▸ ((cutHi _ _ (by decide)).trans ((cutHi _ _ (by decide)).trans ((cutHi _ _ (by decide)).trans ((cutHi _ _ (by decide)).trans ((cutHi _ _ (by decide)).trans ((cutHi _ _ (by decide)).trans ((cutLo _ _ (by decide)).trans (cutAll _))))))))
  have f27 : bits w 27 5 = 0x7#5 := e ▸ ((cutHi _ _ (by decide)).trans ((cutHi _ _ (by decide)).trans ((cutHi _ _ (by decide)).trans ((cutHi _ _ (by decide)).trans ((cutHi _ _ (by decide)).trans ((cutHi _ _ (by decide)).trans ((cutHi _ _ (by decide)).trans (cutAll _))))))))
  refine decode_of w _ 0x2F#7 f0 (by decide) (by decide) ?_ (unpk_no f0 (by decide)) hw
  rw [raw_Atom f0]
  simp [decodeAtom, f7, f12, f15, f20, f25, f26, f27]

theorem amomaxD (d : BitVec 5) (a : BitVec 5) (b : BitVec 5) (s : BitVec 3) (r : BitVec 1) (q : BitVec 1) : Statement (.amomaxD d a b s r q) := by
  intro w hw e
  replace e := Option.some.inj e
  have f0 : bits w 0 7 = 0x2F#7 := e ▸ ((cutLo _ _ (by decide)).trans (cutAll _))
  have f7 : bits w 7 5 = d := e ▸ ((cutHi _ _ (by decide)).trans ((cutLo _ _ (by decide)).trans (cutAll _)))
  have f12 : bits w 12 3 = s := e ▸ ((cutHi _ _ (by decide)).trans ((cutHi _ _ (by decide)).trans ((cutLo _ _ (by decide)).trans (cutAll _))))
  have f15 : bits w 15 5 = a := e ▸ ((cutHi _ _ (by decide)).trans ((cutHi _ _ (by decide)).trans ((cutHi _ _ (by decide)).trans ((cutLo _ _ (by decide)).trans (cutAll _)))))
  have f20 : bits w 20 5 = b := e ▸ ((cutHi _ _ (by decide)).trans ((cutHi _ _ (by decide)).trans ((cutHi _ _ (by decide)).trans ((cutHi _ _ (by decide)).trans ((cutLo _ _ (by decide)).trans (cutAll _))))))
  have f25 : bits w 25 1 = r := e ▸ ((cutHi _ _ (by decide)).trans ((cutHi _ _ (by decide)).trans ((cutHi _ _ (by decide)).trans ((cutHi _ _ (by decide)).trans ((cutHi _ _ (by decide)).trans ((cutLo _ _ (by decide)).trans (cutAll _)))))))
  have f26 : bits w 26 1 = q := e ▸ ((cutHi _ _ (by decide)).trans ((cutHi _ _ (by decide)).trans ((cutHi _ _ (by decide)).trans ((cutHi _ _ (by decide)).trans ((cutHi _ _ (by decide)).trans ((cutHi _ _ (by decide)).trans ((cutLo _ _ (by decide)).trans (cutAll _))))))))
  have f27 : bits w 27 5 = 0x8#5 := e ▸ ((cutHi _ _ (by decide)).trans ((cutHi _ _ (by decide)).trans ((cutHi _ _ (by decide)).trans ((cutHi _ _ (by decide)).trans ((cutHi _ _ (by decide)).trans ((cutHi _ _ (by decide)).trans ((cutHi _ _ (by decide)).trans (cutAll _))))))))
  refine decode_of w _ 0x2F#7 f0 (by decide) (by decide) ?_ (unpk_no f0 (by decide)) hw
  rw [raw_Atom f0]
  simp [decodeAtom, f7, f12, f15, f20, f25, f26, f27]

theorem amominzD (d : BitVec 5) (a : BitVec 5) (b : BitVec 5) (s : BitVec 3) (r : BitVec 1) (q : BitVec 1) : Statement (.amominzD d a b s r q) := by
  intro w hw e
  replace e := Option.some.inj e
  have f0 : bits w 0 7 = 0x2F#7 := e ▸ ((cutLo _ _ (by decide)).trans (cutAll _))
  have f7 : bits w 7 5 = d := e ▸ ((cutHi _ _ (by decide)).trans ((cutLo _ _ (by decide)).trans (cutAll _)))
  have f12 : bits w 12 3 = s := e ▸ ((cutHi _ _ (by decide)).trans ((cutHi _ _ (by decide)).trans ((cutLo _ _ (by decide)).trans (cutAll _))))
  have f15 : bits w 15 5 = a := e ▸ ((cutHi _ _ (by decide)).trans ((cutHi _ _ (by decide)).trans ((cutHi _ _ (by decide)).trans ((cutLo _ _ (by decide)).trans (cutAll _)))))
  have f20 : bits w 20 5 = b := e ▸ ((cutHi _ _ (by decide)).trans ((cutHi _ _ (by decide)).trans ((cutHi _ _ (by decide)).trans ((cutHi _ _ (by decide)).trans ((cutLo _ _ (by decide)).trans (cutAll _))))))
  have f25 : bits w 25 1 = r := e ▸ ((cutHi _ _ (by decide)).trans ((cutHi _ _ (by decide)).trans ((cutHi _ _ (by decide)).trans ((cutHi _ _ (by decide)).trans ((cutHi _ _ (by decide)).trans ((cutLo _ _ (by decide)).trans (cutAll _)))))))
  have f26 : bits w 26 1 = q := e ▸ ((cutHi _ _ (by decide)).trans ((cutHi _ _ (by decide)).trans ((cutHi _ _ (by decide)).trans ((cutHi _ _ (by decide)).trans ((cutHi _ _ (by decide)).trans ((cutHi _ _ (by decide)).trans ((cutLo _ _ (by decide)).trans (cutAll _))))))))
  have f27 : bits w 27 5 = 0x9#5 := e ▸ ((cutHi _ _ (by decide)).trans ((cutHi _ _ (by decide)).trans ((cutHi _ _ (by decide)).trans ((cutHi _ _ (by decide)).trans ((cutHi _ _ (by decide)).trans ((cutHi _ _ (by decide)).trans ((cutHi _ _ (by decide)).trans (cutAll _))))))))
  refine decode_of w _ 0x2F#7 f0 (by decide) (by decide) ?_ (unpk_no f0 (by decide)) hw
  rw [raw_Atom f0]
  simp [decodeAtom, f7, f12, f15, f20, f25, f26, f27]

theorem amomaxzD (d : BitVec 5) (a : BitVec 5) (b : BitVec 5) (s : BitVec 3) (r : BitVec 1) (q : BitVec 1) : Statement (.amomaxzD d a b s r q) := by
  intro w hw e
  replace e := Option.some.inj e
  have f0 : bits w 0 7 = 0x2F#7 := e ▸ ((cutLo _ _ (by decide)).trans (cutAll _))
  have f7 : bits w 7 5 = d := e ▸ ((cutHi _ _ (by decide)).trans ((cutLo _ _ (by decide)).trans (cutAll _)))
  have f12 : bits w 12 3 = s := e ▸ ((cutHi _ _ (by decide)).trans ((cutHi _ _ (by decide)).trans ((cutLo _ _ (by decide)).trans (cutAll _))))
  have f15 : bits w 15 5 = a := e ▸ ((cutHi _ _ (by decide)).trans ((cutHi _ _ (by decide)).trans ((cutHi _ _ (by decide)).trans ((cutLo _ _ (by decide)).trans (cutAll _)))))
  have f20 : bits w 20 5 = b := e ▸ ((cutHi _ _ (by decide)).trans ((cutHi _ _ (by decide)).trans ((cutHi _ _ (by decide)).trans ((cutHi _ _ (by decide)).trans ((cutLo _ _ (by decide)).trans (cutAll _))))))
  have f25 : bits w 25 1 = r := e ▸ ((cutHi _ _ (by decide)).trans ((cutHi _ _ (by decide)).trans ((cutHi _ _ (by decide)).trans ((cutHi _ _ (by decide)).trans ((cutHi _ _ (by decide)).trans ((cutLo _ _ (by decide)).trans (cutAll _)))))))
  have f26 : bits w 26 1 = q := e ▸ ((cutHi _ _ (by decide)).trans ((cutHi _ _ (by decide)).trans ((cutHi _ _ (by decide)).trans ((cutHi _ _ (by decide)).trans ((cutHi _ _ (by decide)).trans ((cutHi _ _ (by decide)).trans ((cutLo _ _ (by decide)).trans (cutAll _))))))))
  have f27 : bits w 27 5 = 0xA#5 := e ▸ ((cutHi _ _ (by decide)).trans ((cutHi _ _ (by decide)).trans ((cutHi _ _ (by decide)).trans ((cutHi _ _ (by decide)).trans ((cutHi _ _ (by decide)).trans ((cutHi _ _ (by decide)).trans ((cutHi _ _ (by decide)).trans (cutAll _))))))))
  refine decode_of w _ 0x2F#7 f0 (by decide) (by decide) ?_ (unpk_no f0 (by decide)) hw
  rw [raw_Atom f0]
  simp [decodeAtom, f7, f12, f15, f20, f25, f26, f27]

theorem amocasD (d : BitVec 5) (a : BitVec 5) (b : BitVec 5) (s : BitVec 3) (r : BitVec 1) (q : BitVec 1) : Statement (.amocasD d a b s r q) := by
  intro w hw e
  replace e := Option.some.inj e
  have f0 : bits w 0 7 = 0x2F#7 := e ▸ ((cutLo _ _ (by decide)).trans (cutAll _))
  have f7 : bits w 7 5 = d := e ▸ ((cutHi _ _ (by decide)).trans ((cutLo _ _ (by decide)).trans (cutAll _)))
  have f12 : bits w 12 3 = s := e ▸ ((cutHi _ _ (by decide)).trans ((cutHi _ _ (by decide)).trans ((cutLo _ _ (by decide)).trans (cutAll _))))
  have f15 : bits w 15 5 = a := e ▸ ((cutHi _ _ (by decide)).trans ((cutHi _ _ (by decide)).trans ((cutHi _ _ (by decide)).trans ((cutLo _ _ (by decide)).trans (cutAll _)))))
  have f20 : bits w 20 5 = b := e ▸ ((cutHi _ _ (by decide)).trans ((cutHi _ _ (by decide)).trans ((cutHi _ _ (by decide)).trans ((cutHi _ _ (by decide)).trans ((cutLo _ _ (by decide)).trans (cutAll _))))))
  have f25 : bits w 25 1 = r := e ▸ ((cutHi _ _ (by decide)).trans ((cutHi _ _ (by decide)).trans ((cutHi _ _ (by decide)).trans ((cutHi _ _ (by decide)).trans ((cutHi _ _ (by decide)).trans ((cutLo _ _ (by decide)).trans (cutAll _)))))))
  have f26 : bits w 26 1 = q := e ▸ ((cutHi _ _ (by decide)).trans ((cutHi _ _ (by decide)).trans ((cutHi _ _ (by decide)).trans ((cutHi _ _ (by decide)).trans ((cutHi _ _ (by decide)).trans ((cutHi _ _ (by decide)).trans ((cutLo _ _ (by decide)).trans (cutAll _))))))))
  have f27 : bits w 27 5 = 0xB#5 := e ▸ ((cutHi _ _ (by decide)).trans ((cutHi _ _ (by decide)).trans ((cutHi _ _ (by decide)).trans ((cutHi _ _ (by decide)).trans ((cutHi _ _ (by decide)).trans ((cutHi _ _ (by decide)).trans ((cutHi _ _ (by decide)).trans (cutAll _))))))))
  refine decode_of w _ 0x2F#7 f0 (by decide) (by decide) ?_ (unpk_no f0 (by decide)) hw
  rw [raw_Atom f0]
  simp [decodeAtom, f7, f12, f15, f20, f25, f26, f27]

theorem amofaddS (d : BitVec 5) (a : BitVec 5) (b : BitVec 5) (s : BitVec 3) (r : BitVec 1) (q : BitVec 1) : Statement (.amofaddS d a b s r q) := by
  intro w hw e
  replace e := Option.some.inj e
  have f0 : bits w 0 7 = 0x2F#7 := e ▸ ((cutLo _ _ (by decide)).trans (cutAll _))
  have f7 : bits w 7 5 = d := e ▸ ((cutHi _ _ (by decide)).trans ((cutLo _ _ (by decide)).trans (cutAll _)))
  have f12 : bits w 12 3 = s := e ▸ ((cutHi _ _ (by decide)).trans ((cutHi _ _ (by decide)).trans ((cutLo _ _ (by decide)).trans (cutAll _))))
  have f15 : bits w 15 5 = a := e ▸ ((cutHi _ _ (by decide)).trans ((cutHi _ _ (by decide)).trans ((cutHi _ _ (by decide)).trans ((cutLo _ _ (by decide)).trans (cutAll _)))))
  have f20 : bits w 20 5 = b := e ▸ ((cutHi _ _ (by decide)).trans ((cutHi _ _ (by decide)).trans ((cutHi _ _ (by decide)).trans ((cutHi _ _ (by decide)).trans ((cutLo _ _ (by decide)).trans (cutAll _))))))
  have f25 : bits w 25 1 = r := e ▸ ((cutHi _ _ (by decide)).trans ((cutHi _ _ (by decide)).trans ((cutHi _ _ (by decide)).trans ((cutHi _ _ (by decide)).trans ((cutHi _ _ (by decide)).trans ((cutLo _ _ (by decide)).trans (cutAll _)))))))
  have f26 : bits w 26 1 = q := e ▸ ((cutHi _ _ (by decide)).trans ((cutHi _ _ (by decide)).trans ((cutHi _ _ (by decide)).trans ((cutHi _ _ (by decide)).trans ((cutHi _ _ (by decide)).trans ((cutHi _ _ (by decide)).trans ((cutLo _ _ (by decide)).trans (cutAll _))))))))
  have f27 : bits w 27 5 = 0xC#5 := e ▸ ((cutHi _ _ (by decide)).trans ((cutHi _ _ (by decide)).trans ((cutHi _ _ (by decide)).trans ((cutHi _ _ (by decide)).trans ((cutHi _ _ (by decide)).trans ((cutHi _ _ (by decide)).trans ((cutHi _ _ (by decide)).trans (cutAll _))))))))
  refine decode_of w _ 0x2F#7 f0 (by decide) (by decide) ?_ (unpk_no f0 (by decide)) hw
  rw [raw_Atom f0]
  simp [decodeAtom, f7, f12, f15, f20, f25, f26, f27]

theorem amofmaxS (d : BitVec 5) (a : BitVec 5) (b : BitVec 5) (s : BitVec 3) (r : BitVec 1) (q : BitVec 1) : Statement (.amofmaxS d a b s r q) := by
  intro w hw e
  replace e := Option.some.inj e
  have f0 : bits w 0 7 = 0x2F#7 := e ▸ ((cutLo _ _ (by decide)).trans (cutAll _))
  have f7 : bits w 7 5 = d := e ▸ ((cutHi _ _ (by decide)).trans ((cutLo _ _ (by decide)).trans (cutAll _)))
  have f12 : bits w 12 3 = s := e ▸ ((cutHi _ _ (by decide)).trans ((cutHi _ _ (by decide)).trans ((cutLo _ _ (by decide)).trans (cutAll _))))
  have f15 : bits w 15 5 = a := e ▸ ((cutHi _ _ (by decide)).trans ((cutHi _ _ (by decide)).trans ((cutHi _ _ (by decide)).trans ((cutLo _ _ (by decide)).trans (cutAll _)))))
  have f20 : bits w 20 5 = b := e ▸ ((cutHi _ _ (by decide)).trans ((cutHi _ _ (by decide)).trans ((cutHi _ _ (by decide)).trans ((cutHi _ _ (by decide)).trans ((cutLo _ _ (by decide)).trans (cutAll _))))))
  have f25 : bits w 25 1 = r := e ▸ ((cutHi _ _ (by decide)).trans ((cutHi _ _ (by decide)).trans ((cutHi _ _ (by decide)).trans ((cutHi _ _ (by decide)).trans ((cutHi _ _ (by decide)).trans ((cutLo _ _ (by decide)).trans (cutAll _)))))))
  have f26 : bits w 26 1 = q := e ▸ ((cutHi _ _ (by decide)).trans ((cutHi _ _ (by decide)).trans ((cutHi _ _ (by decide)).trans ((cutHi _ _ (by decide)).trans ((cutHi _ _ (by decide)).trans ((cutHi _ _ (by decide)).trans ((cutLo _ _ (by decide)).trans (cutAll _))))))))
  have f27 : bits w 27 5 = 0xD#5 := e ▸ ((cutHi _ _ (by decide)).trans ((cutHi _ _ (by decide)).trans ((cutHi _ _ (by decide)).trans ((cutHi _ _ (by decide)).trans ((cutHi _ _ (by decide)).trans ((cutHi _ _ (by decide)).trans ((cutHi _ _ (by decide)).trans (cutAll _))))))))
  refine decode_of w _ 0x2F#7 f0 (by decide) (by decide) ?_ (unpk_no f0 (by decide)) hw
  rw [raw_Atom f0]
  simp [decodeAtom, f7, f12, f15, f20, f25, f26, f27]

theorem vtype (d : BitVec 5) (t : BitVec 5) : Statement (.vtype d t) := by
  intro w hw e
  replace e := Option.some.inj e
  have f0 : bits w 0 7 = 0x5F#7 := e ▸ ((cutLo _ _ (by decide)).trans (cutAll _))
  have f7 : bits w 7 5 = d := e ▸ ((cutHi _ _ (by decide)).trans ((cutLo _ _ (by decide)).trans (cutAll _)))
  have f12 : bits w 12 3 = 0x0#3 := e ▸ ((cutHi _ _ (by decide)).trans ((cutHi _ _ (by decide)).trans ((cutLo _ _ (by decide)).trans (cutAll _))))
  have f15 : bits w 15 5 = 0x0#5 := e ▸ ((cutHi _ _ (by decide)).trans ((cutHi _ _ (by decide)).trans ((cutHi _ _ (by decide)).trans ((cutLo _ _ (by decide)).trans (cutAll _)))))
  have f20 : bits w 20 5 = t := e ▸ ((cutHi _ _ (by decide)).trans ((cutHi _ _ (by decide)).trans ((cutHi _ _ (by decide)).trans ((cutHi _ _ (by decide)).trans ((cutLo _ _ (by decide)).trans (cutAll _))))))
  have f25 : bits w 25 7 = 0x0#7 := e ▸ ((cutHi _ _ (by decide)).trans ((cutHi _ _ (by decide)).trans ((cutHi _ _ (by decide)).trans ((cutHi _ _ (by decide)).trans ((cutHi _ _ (by decide)).trans (cutAll _))))))
  refine decode_of w _ 0x5F#7 f0 (by decide) (by decide) ?_ (unpk_no f0 (by decide)) hw
  rw [raw_Vcfg f0]
  simp [decodeVcfg, f7, f12, f15, f20, f25]

theorem strip (d : BitVec 5) (a : BitVec 5) (k : BitVec 5) : Statement (.strip d a k) := by
  intro w hw e
  replace e := Option.some.inj e
  have f0 : bits w 0 7 = 0x5F#7 := e ▸ ((cutLo _ _ (by decide)).trans (cutAll _))
  have f7 : bits w 7 5 = d := e ▸ ((cutHi _ _ (by decide)).trans ((cutLo _ _ (by decide)).trans (cutAll _)))
  have f12 : bits w 12 3 = 0x1#3 := e ▸ ((cutHi _ _ (by decide)).trans ((cutHi _ _ (by decide)).trans ((cutLo _ _ (by decide)).trans (cutAll _))))
  have f15 : bits w 15 5 = a := e ▸ ((cutHi _ _ (by decide)).trans ((cutHi _ _ (by decide)).trans ((cutHi _ _ (by decide)).trans ((cutLo _ _ (by decide)).trans (cutAll _)))))
  have f20 : bits w 20 5 = k := e ▸ ((cutHi _ _ (by decide)).trans ((cutHi _ _ (by decide)).trans ((cutHi _ _ (by decide)).trans ((cutHi _ _ (by decide)).trans ((cutLo _ _ (by decide)).trans (cutAll _))))))
  have f25 : bits w 25 7 = 0x0#7 := e ▸ ((cutHi _ _ (by decide)).trans ((cutHi _ _ (by decide)).trans ((cutHi _ _ (by decide)).trans ((cutHi _ _ (by decide)).trans ((cutHi _ _ (by decide)).trans (cutAll _))))))
  refine decode_of w _ 0x5F#7 f0 (by decide) (by decide) ?_ (unpk_no f0 (by decide)) hw
  rw [raw_Vcfg f0]
  simp [decodeVcfg, f7, f12, f15, f20, f25]

theorem vlmax (d : BitVec 5) : Statement (.vlmax d) := by
  intro w hw e
  replace e := Option.some.inj e
  have f0 : bits w 0 7 = 0x5F#7 := e ▸ ((cutLo _ _ (by decide)).trans (cutAll _))
  have f7 : bits w 7 5 = d := e ▸ ((cutHi _ _ (by decide)).trans ((cutLo _ _ (by decide)).trans (cutAll _)))
  have f12 : bits w 12 3 = 0x2#3 := e ▸ ((cutHi _ _ (by decide)).trans ((cutHi _ _ (by decide)).trans ((cutLo _ _ (by decide)).trans (cutAll _))))
  have f15 : bits w 15 5 = 0x0#5 := e ▸ ((cutHi _ _ (by decide)).trans ((cutHi _ _ (by decide)).trans ((cutHi _ _ (by decide)).trans ((cutLo _ _ (by decide)).trans (cutAll _)))))
  have f20 : bits w 20 5 = 0x0#5 := e ▸ ((cutHi _ _ (by decide)).trans ((cutHi _ _ (by decide)).trans ((cutHi _ _ (by decide)).trans ((cutHi _ _ (by decide)).trans ((cutLo _ _ (by decide)).trans (cutAll _))))))
  have f25 : bits w 25 7 = 0x0#7 := e ▸ ((cutHi _ _ (by decide)).trans ((cutHi _ _ (by decide)).trans ((cutHi _ _ (by decide)).trans ((cutHi _ _ (by decide)).trans ((cutHi _ _ (by decide)).trans (cutAll _))))))
  refine decode_of w _ 0x5F#7 f0 (by decide) (by decide) ?_ (unpk_no f0 (by decide)) hw
  rw [raw_Vcfg f0]
  simp [decodeVcfg, f7, f12, f15, f20, f25]

theorem wopen (a : BitVec 5) (b : BitVec 5) : Statement (.wopen a b) := by
  intro w hw e
  replace e := Option.some.inj e
  have f0 : bits w 0 7 = 0x5F#7 := e ▸ ((cutLo _ _ (by decide)).trans (cutAll _))
  have f7 : bits w 7 5 = 0x0#5 := e ▸ ((cutHi _ _ (by decide)).trans ((cutLo _ _ (by decide)).trans (cutAll _)))
  have f12 : bits w 12 3 = 0x3#3 := e ▸ ((cutHi _ _ (by decide)).trans ((cutHi _ _ (by decide)).trans ((cutLo _ _ (by decide)).trans (cutAll _))))
  have f15 : bits w 15 5 = a := e ▸ ((cutHi _ _ (by decide)).trans ((cutHi _ _ (by decide)).trans ((cutHi _ _ (by decide)).trans ((cutLo _ _ (by decide)).trans (cutAll _)))))
  have f20 : bits w 20 5 = b := e ▸ ((cutHi _ _ (by decide)).trans ((cutHi _ _ (by decide)).trans ((cutHi _ _ (by decide)).trans ((cutHi _ _ (by decide)).trans ((cutLo _ _ (by decide)).trans (cutAll _))))))
  have f25 : bits w 25 7 = 0x0#7 := e ▸ ((cutHi _ _ (by decide)).trans ((cutHi _ _ (by decide)).trans ((cutHi _ _ (by decide)).trans ((cutHi _ _ (by decide)).trans ((cutHi _ _ (by decide)).trans (cutAll _))))))
  refine decode_of w _ 0x5F#7 f0 (by decide) (by decide) ?_ (unpk_no f0 (by decide)) hw
  rw [raw_Vcfg f0]
  simp [decodeVcfg, f7, f12, f15, f20, f25]

theorem wmerge (a : BitVec 5) : Statement (.wmerge a) := by
  intro w hw e
  replace e := Option.some.inj e
  have f0 : bits w 0 7 = 0x5F#7 := e ▸ ((cutLo _ _ (by decide)).trans (cutAll _))
  have f7 : bits w 7 5 = 0x0#5 := e ▸ ((cutHi _ _ (by decide)).trans ((cutLo _ _ (by decide)).trans (cutAll _)))
  have f12 : bits w 12 3 = 0x4#3 := e ▸ ((cutHi _ _ (by decide)).trans ((cutHi _ _ (by decide)).trans ((cutLo _ _ (by decide)).trans (cutAll _))))
  have f15 : bits w 15 5 = a := e ▸ ((cutHi _ _ (by decide)).trans ((cutHi _ _ (by decide)).trans ((cutHi _ _ (by decide)).trans ((cutLo _ _ (by decide)).trans (cutAll _)))))
  have f20 : bits w 20 5 = 0x0#5 := e ▸ ((cutHi _ _ (by decide)).trans ((cutHi _ _ (by decide)).trans ((cutHi _ _ (by decide)).trans ((cutHi _ _ (by decide)).trans ((cutLo _ _ (by decide)).trans (cutAll _))))))
  have f25 : bits w 25 7 = 0x0#7 := e ▸ ((cutHi _ _ (by decide)).trans ((cutHi _ _ (by decide)).trans ((cutHi _ _ (by decide)).trans ((cutHi _ _ (by decide)).trans ((cutHi _ _ (by decide)).trans (cutAll _))))))
  refine decode_of w _ 0x5F#7 f0 (by decide) (by decide) ?_ (unpk_no f0 (by decide)) hw
  rw [raw_Vcfg f0]
  simp [decodeVcfg, f7, f12, f15, f20, f25]

theorem vadd (d : BitVec 5) (a : BitVec 5) (b : BitVec 5) (k : BitVec 5) : Statement (.vadd d a b k) := by
  intro w hw e
  replace e := Option.some.inj e
  have f0 : bits w 0 7 = 0x57#7 := e ▸ ((cutLo _ _ (by decide)).trans (cutAll _))
  have f7 : bits w 7 5 = d := e ▸ ((cutHi _ _ (by decide)).trans ((cutLo _ _ (by decide)).trans (cutAll _)))
  have f12 : bits w 12 5 = k := e ▸ ((cutHi _ _ (by decide)).trans ((cutHi _ _ (by decide)).trans ((cutLo _ _ (by decide)).trans (cutAll _))))
  have f17 : bits w 17 5 = a := e ▸ ((cutHi _ _ (by decide)).trans ((cutHi _ _ (by decide)).trans ((cutHi _ _ (by decide)).trans ((cutLo _ _ (by decide)).trans (cutAll _)))))
  have f22 : bits w 22 5 = b := e ▸ ((cutHi _ _ (by decide)).trans ((cutHi _ _ (by decide)).trans ((cutHi _ _ (by decide)).trans ((cutHi _ _ (by decide)).trans ((cutLo _ _ (by decide)).trans (cutAll _))))))
  have f27 : bits w 27 5 = 0x0#5 := e ▸ ((cutHi _ _ (by decide)).trans ((cutHi _ _ (by decide)).trans ((cutHi _ _ (by decide)).trans ((cutHi _ _ (by decide)).trans ((cutHi _ _ (by decide)).trans (cutAll _))))))
  refine decode_of w _ 0x57#7 f0 (by decide) (by decide) ?_ (unpk_no f0 (by decide)) hw
  rw [raw_Vari f0]
  simp [decodeVari, f7, f12, f17, f22, f27]

theorem vsub (d : BitVec 5) (a : BitVec 5) (b : BitVec 5) (k : BitVec 5) : Statement (.vsub d a b k) := by
  intro w hw e
  replace e := Option.some.inj e
  have f0 : bits w 0 7 = 0x57#7 := e ▸ ((cutLo _ _ (by decide)).trans (cutAll _))
  have f7 : bits w 7 5 = d := e ▸ ((cutHi _ _ (by decide)).trans ((cutLo _ _ (by decide)).trans (cutAll _)))
  have f12 : bits w 12 5 = k := e ▸ ((cutHi _ _ (by decide)).trans ((cutHi _ _ (by decide)).trans ((cutLo _ _ (by decide)).trans (cutAll _))))
  have f17 : bits w 17 5 = a := e ▸ ((cutHi _ _ (by decide)).trans ((cutHi _ _ (by decide)).trans ((cutHi _ _ (by decide)).trans ((cutLo _ _ (by decide)).trans (cutAll _)))))
  have f22 : bits w 22 5 = b := e ▸ ((cutHi _ _ (by decide)).trans ((cutHi _ _ (by decide)).trans ((cutHi _ _ (by decide)).trans ((cutHi _ _ (by decide)).trans ((cutLo _ _ (by decide)).trans (cutAll _))))))
  have f27 : bits w 27 5 = 0x1#5 := e ▸ ((cutHi _ _ (by decide)).trans ((cutHi _ _ (by decide)).trans ((cutHi _ _ (by decide)).trans ((cutHi _ _ (by decide)).trans ((cutHi _ _ (by decide)).trans (cutAll _))))))
  refine decode_of w _ 0x57#7 f0 (by decide) (by decide) ?_ (unpk_no f0 (by decide)) hw
  rw [raw_Vari f0]
  simp [decodeVari, f7, f12, f17, f22, f27]

theorem vmul (d : BitVec 5) (a : BitVec 5) (b : BitVec 5) (k : BitVec 5) : Statement (.vmul d a b k) := by
  intro w hw e
  replace e := Option.some.inj e
  have f0 : bits w 0 7 = 0x57#7 := e ▸ ((cutLo _ _ (by decide)).trans (cutAll _))
  have f7 : bits w 7 5 = d := e ▸ ((cutHi _ _ (by decide)).trans ((cutLo _ _ (by decide)).trans (cutAll _)))
  have f12 : bits w 12 5 = k := e ▸ ((cutHi _ _ (by decide)).trans ((cutHi _ _ (by decide)).trans ((cutLo _ _ (by decide)).trans (cutAll _))))
  have f17 : bits w 17 5 = a := e ▸ ((cutHi _ _ (by decide)).trans ((cutHi _ _ (by decide)).trans ((cutHi _ _ (by decide)).trans ((cutLo _ _ (by decide)).trans (cutAll _)))))
  have f22 : bits w 22 5 = b := e ▸ ((cutHi _ _ (by decide)).trans ((cutHi _ _ (by decide)).trans ((cutHi _ _ (by decide)).trans ((cutHi _ _ (by decide)).trans ((cutLo _ _ (by decide)).trans (cutAll _))))))
  have f27 : bits w 27 5 = 0x2#5 := e ▸ ((cutHi _ _ (by decide)).trans ((cutHi _ _ (by decide)).trans ((cutHi _ _ (by decide)).trans ((cutHi _ _ (by decide)).trans ((cutHi _ _ (by decide)).trans (cutAll _))))))
  refine decode_of w _ 0x57#7 f0 (by decide) (by decide) ?_ (unpk_no f0 (by decide)) hw
  rw [raw_Vari f0]
  simp [decodeVari, f7, f12, f17, f22, f27]

theorem vmac (d : BitVec 5) (a : BitVec 5) (b : BitVec 5) (k : BitVec 5) : Statement (.vmac d a b k) := by
  intro w hw e
  replace e := Option.some.inj e
  have f0 : bits w 0 7 = 0x57#7 := e ▸ ((cutLo _ _ (by decide)).trans (cutAll _))
  have f7 : bits w 7 5 = d := e ▸ ((cutHi _ _ (by decide)).trans ((cutLo _ _ (by decide)).trans (cutAll _)))
  have f12 : bits w 12 5 = k := e ▸ ((cutHi _ _ (by decide)).trans ((cutHi _ _ (by decide)).trans ((cutLo _ _ (by decide)).trans (cutAll _))))
  have f17 : bits w 17 5 = a := e ▸ ((cutHi _ _ (by decide)).trans ((cutHi _ _ (by decide)).trans ((cutHi _ _ (by decide)).trans ((cutLo _ _ (by decide)).trans (cutAll _)))))
  have f22 : bits w 22 5 = b := e ▸ ((cutHi _ _ (by decide)).trans ((cutHi _ _ (by decide)).trans ((cutHi _ _ (by decide)).trans ((cutHi _ _ (by decide)).trans ((cutLo _ _ (by decide)).trans (cutAll _))))))
  have f27 : bits w 27 5 = 0x3#5 := e ▸ ((cutHi _ _ (by decide)).trans ((cutHi _ _ (by decide)).trans ((cutHi _ _ (by decide)).trans ((cutHi _ _ (by decide)).trans ((cutHi _ _ (by decide)).trans (cutAll _))))))
  refine decode_of w _ 0x57#7 f0 (by decide) (by decide) ?_ (unpk_no f0 (by decide)) hw
  rw [raw_Vari f0]
  simp [decodeVari, f7, f12, f17, f22, f27]

theorem vnmac (d : BitVec 5) (a : BitVec 5) (b : BitVec 5) (k : BitVec 5) : Statement (.vnmac d a b k) := by
  intro w hw e
  replace e := Option.some.inj e
  have f0 : bits w 0 7 = 0x57#7 := e ▸ ((cutLo _ _ (by decide)).trans (cutAll _))
  have f7 : bits w 7 5 = d := e ▸ ((cutHi _ _ (by decide)).trans ((cutLo _ _ (by decide)).trans (cutAll _)))
  have f12 : bits w 12 5 = k := e ▸ ((cutHi _ _ (by decide)).trans ((cutHi _ _ (by decide)).trans ((cutLo _ _ (by decide)).trans (cutAll _))))
  have f17 : bits w 17 5 = a := e ▸ ((cutHi _ _ (by decide)).trans ((cutHi _ _ (by decide)).trans ((cutHi _ _ (by decide)).trans ((cutLo _ _ (by decide)).trans (cutAll _)))))
  have f22 : bits w 22 5 = b := e ▸ ((cutHi _ _ (by decide)).trans ((cutHi _ _ (by decide)).trans ((cutHi _ _ (by decide)).trans ((cutHi _ _ (by decide)).trans ((cutLo _ _ (by decide)).trans (cutAll _))))))
  have f27 : bits w 27 5 = 0x4#5 := e ▸ ((cutHi _ _ (by decide)).trans ((cutHi _ _ (by decide)).trans ((cutHi _ _ (by decide)).trans ((cutHi _ _ (by decide)).trans ((cutHi _ _ (by decide)).trans (cutAll _))))))
  refine decode_of w _ 0x57#7 f0 (by decide) (by decide) ?_ (unpk_no f0 (by decide)) hw
  rw [raw_Vari f0]
  simp [decodeVari, f7, f12, f17, f22, f27]

theorem vmin (d : BitVec 5) (a : BitVec 5) (b : BitVec 5) (k : BitVec 5) : Statement (.vmin d a b k) := by
  intro w hw e
  replace e := Option.some.inj e
  have f0 : bits w 0 7 = 0x57#7 := e ▸ ((cutLo _ _ (by decide)).trans (cutAll _))
  have f7 : bits w 7 5 = d := e ▸ ((cutHi _ _ (by decide)).trans ((cutLo _ _ (by decide)).trans (cutAll _)))
  have f12 : bits w 12 5 = k := e ▸ ((cutHi _ _ (by decide)).trans ((cutHi _ _ (by decide)).trans ((cutLo _ _ (by decide)).trans (cutAll _))))
  have f17 : bits w 17 5 = a := e ▸ ((cutHi _ _ (by decide)).trans ((cutHi _ _ (by decide)).trans ((cutHi _ _ (by decide)).trans ((cutLo _ _ (by decide)).trans (cutAll _)))))
  have f22 : bits w 22 5 = b := e ▸ ((cutHi _ _ (by decide)).trans ((cutHi _ _ (by decide)).trans ((cutHi _ _ (by decide)).trans ((cutHi _ _ (by decide)).trans ((cutLo _ _ (by decide)).trans (cutAll _))))))
  have f27 : bits w 27 5 = 0x5#5 := e ▸ ((cutHi _ _ (by decide)).trans ((cutHi _ _ (by decide)).trans ((cutHi _ _ (by decide)).trans ((cutHi _ _ (by decide)).trans ((cutHi _ _ (by decide)).trans (cutAll _))))))
  refine decode_of w _ 0x57#7 f0 (by decide) (by decide) ?_ (unpk_no f0 (by decide)) hw
  rw [raw_Vari f0]
  simp [decodeVari, f7, f12, f17, f22, f27]

theorem vmax (d : BitVec 5) (a : BitVec 5) (b : BitVec 5) (k : BitVec 5) : Statement (.vmax d a b k) := by
  intro w hw e
  replace e := Option.some.inj e
  have f0 : bits w 0 7 = 0x57#7 := e ▸ ((cutLo _ _ (by decide)).trans (cutAll _))
  have f7 : bits w 7 5 = d := e ▸ ((cutHi _ _ (by decide)).trans ((cutLo _ _ (by decide)).trans (cutAll _)))
  have f12 : bits w 12 5 = k := e ▸ ((cutHi _ _ (by decide)).trans ((cutHi _ _ (by decide)).trans ((cutLo _ _ (by decide)).trans (cutAll _))))
  have f17 : bits w 17 5 = a := e ▸ ((cutHi _ _ (by decide)).trans ((cutHi _ _ (by decide)).trans ((cutHi _ _ (by decide)).trans ((cutLo _ _ (by decide)).trans (cutAll _)))))
  have f22 : bits w 22 5 = b := e ▸ ((cutHi _ _ (by decide)).trans ((cutHi _ _ (by decide)).trans ((cutHi _ _ (by decide)).trans ((cutHi _ _ (by decide)).trans ((cutLo _ _ (by decide)).trans (cutAll _))))))
  have f27 : bits w 27 5 = 0x6#5 := e ▸ ((cutHi _ _ (by decide)).trans ((cutHi _ _ (by decide)).trans ((cutHi _ _ (by decide)).trans ((cutHi _ _ (by decide)).trans ((cutHi _ _ (by decide)).trans (cutAll _))))))
  refine decode_of w _ 0x57#7 f0 (by decide) (by decide) ?_ (unpk_no f0 (by decide)) hw
  rw [raw_Vari f0]
  simp [decodeVari, f7, f12, f17, f22, f27]

theorem vdiv (d : BitVec 5) (a : BitVec 5) (b : BitVec 5) (k : BitVec 5) : Statement (.vdiv d a b k) := by
  intro w hw e
  replace e := Option.some.inj e
  have f0 : bits w 0 7 = 0x57#7 := e ▸ ((cutLo _ _ (by decide)).trans (cutAll _))
  have f7 : bits w 7 5 = d := e ▸ ((cutHi _ _ (by decide)).trans ((cutLo _ _ (by decide)).trans (cutAll _)))
  have f12 : bits w 12 5 = k := e ▸ ((cutHi _ _ (by decide)).trans ((cutHi _ _ (by decide)).trans ((cutLo _ _ (by decide)).trans (cutAll _))))
  have f17 : bits w 17 5 = a := e ▸ ((cutHi _ _ (by decide)).trans ((cutHi _ _ (by decide)).trans ((cutHi _ _ (by decide)).trans ((cutLo _ _ (by decide)).trans (cutAll _)))))
  have f22 : bits w 22 5 = b := e ▸ ((cutHi _ _ (by decide)).trans ((cutHi _ _ (by decide)).trans ((cutHi _ _ (by decide)).trans ((cutHi _ _ (by decide)).trans ((cutLo _ _ (by decide)).trans (cutAll _))))))
  have f27 : bits w 27 5 = 0x7#5 := e ▸ ((cutHi _ _ (by decide)).trans ((cutHi _ _ (by decide)).trans ((cutHi _ _ (by decide)).trans ((cutHi _ _ (by decide)).trans ((cutHi _ _ (by decide)).trans (cutAll _))))))
  refine decode_of w _ 0x57#7 f0 (by decide) (by decide) ?_ (unpk_no f0 (by decide)) hw
  rw [raw_Vari f0]
  simp [decodeVari, f7, f12, f17, f22, f27]

theorem vand (d : BitVec 5) (a : BitVec 5) (b : BitVec 5) (k : BitVec 5) : Statement (.vand d a b k) := by
  intro w hw e
  replace e := Option.some.inj e
  have f0 : bits w 0 7 = 0x57#7 := e ▸ ((cutLo _ _ (by decide)).trans (cutAll _))
  have f7 : bits w 7 5 = d := e ▸ ((cutHi _ _ (by decide)).trans ((cutLo _ _ (by decide)).trans (cutAll _)))
  have f12 : bits w 12 5 = k := e ▸ ((cutHi _ _ (by decide)).trans ((cutHi _ _ (by decide)).trans ((cutLo _ _ (by decide)).trans (cutAll _))))
  have f17 : bits w 17 5 = a := e ▸ ((cutHi _ _ (by decide)).trans ((cutHi _ _ (by decide)).trans ((cutHi _ _ (by decide)).trans ((cutLo _ _ (by decide)).trans (cutAll _)))))
  have f22 : bits w 22 5 = b := e ▸ ((cutHi _ _ (by decide)).trans ((cutHi _ _ (by decide)).trans ((cutHi _ _ (by decide)).trans ((cutHi _ _ (by decide)).trans ((cutLo _ _ (by decide)).trans (cutAll _))))))
  have f27 : bits w 27 5 = 0x8#5 := e ▸ ((cutHi _ _ (by decide)).trans ((cutHi _ _ (by decide)).trans ((cutHi _ _ (by decide)).trans ((cutHi _ _ (by decide)).trans ((cutHi _ _ (by decide)).trans (cutAll _))))))
  refine decode_of w _ 0x57#7 f0 (by decide) (by decide) ?_ (unpk_no f0 (by decide)) hw
  rw [raw_Vari f0]
  simp [decodeVari, f7, f12, f17, f22, f27]

theorem vor (d : BitVec 5) (a : BitVec 5) (b : BitVec 5) (k : BitVec 5) : Statement (.vor d a b k) := by
  intro w hw e
  replace e := Option.some.inj e
  have f0 : bits w 0 7 = 0x57#7 := e ▸ ((cutLo _ _ (by decide)).trans (cutAll _))
  have f7 : bits w 7 5 = d := e ▸ ((cutHi _ _ (by decide)).trans ((cutLo _ _ (by decide)).trans (cutAll _)))
  have f12 : bits w 12 5 = k := e ▸ ((cutHi _ _ (by decide)).trans ((cutHi _ _ (by decide)).trans ((cutLo _ _ (by decide)).trans (cutAll _))))
  have f17 : bits w 17 5 = a := e ▸ ((cutHi _ _ (by decide)).trans ((cutHi _ _ (by decide)).trans ((cutHi _ _ (by decide)).trans ((cutLo _ _ (by decide)).trans (cutAll _)))))
  have f22 : bits w 22 5 = b := e ▸ ((cutHi _ _ (by decide)).trans ((cutHi _ _ (by decide)).trans ((cutHi _ _ (by decide)).trans ((cutHi _ _ (by decide)).trans ((cutLo _ _ (by decide)).trans (cutAll _))))))
  have f27 : bits w 27 5 = 0x9#5 := e ▸ ((cutHi _ _ (by decide)).trans ((cutHi _ _ (by decide)).trans ((cutHi _ _ (by decide)).trans ((cutHi _ _ (by decide)).trans ((cutHi _ _ (by decide)).trans (cutAll _))))))
  refine decode_of w _ 0x57#7 f0 (by decide) (by decide) ?_ (unpk_no f0 (by decide)) hw
  rw [raw_Vari f0]
  simp [decodeVari, f7, f12, f17, f22, f27]

theorem vxor (d : BitVec 5) (a : BitVec 5) (b : BitVec 5) (k : BitVec 5) : Statement (.vxor d a b k) := by
  intro w hw e
  replace e := Option.some.inj e
  have f0 : bits w 0 7 = 0x57#7 := e ▸ ((cutLo _ _ (by decide)).trans (cutAll _))
  have f7 : bits w 7 5 = d := e ▸ ((cutHi _ _ (by decide)).trans ((cutLo _ _ (by decide)).trans (cutAll _)))
  have f12 : bits w 12 5 = k := e ▸ ((cutHi _ _ (by decide)).trans ((cutHi _ _ (by decide)).trans ((cutLo _ _ (by decide)).trans (cutAll _))))
  have f17 : bits w 17 5 = a := e ▸ ((cutHi _ _ (by decide)).trans ((cutHi _ _ (by decide)).trans ((cutHi _ _ (by decide)).trans ((cutLo _ _ (by decide)).trans (cutAll _)))))
  have f22 : bits w 22 5 = b := e ▸ ((cutHi _ _ (by decide)).trans ((cutHi _ _ (by decide)).trans ((cutHi _ _ (by decide)).trans ((cutHi _ _ (by decide)).trans ((cutLo _ _ (by decide)).trans (cutAll _))))))
  have f27 : bits w 27 5 = 0xA#5 := e ▸ ((cutHi _ _ (by decide)).trans ((cutHi _ _ (by decide)).trans ((cutHi _ _ (by decide)).trans ((cutHi _ _ (by decide)).trans ((cutHi _ _ (by decide)).trans (cutAll _))))))
  refine decode_of w _ 0x57#7 f0 (by decide) (by decide) ?_ (unpk_no f0 (by decide)) hw
  rw [raw_Vari f0]
  simp [decodeVari, f7, f12, f17, f22, f27]

theorem vsll (d : BitVec 5) (a : BitVec 5) (b : BitVec 5) (k : BitVec 5) : Statement (.vsll d a b k) := by
  intro w hw e
  replace e := Option.some.inj e
  have f0 : bits w 0 7 = 0x57#7 := e ▸ ((cutLo _ _ (by decide)).trans (cutAll _))
  have f7 : bits w 7 5 = d := e ▸ ((cutHi _ _ (by decide)).trans ((cutLo _ _ (by decide)).trans (cutAll _)))
  have f12 : bits w 12 5 = k := e ▸ ((cutHi _ _ (by decide)).trans ((cutHi _ _ (by decide)).trans ((cutLo _ _ (by decide)).trans (cutAll _))))
  have f17 : bits w 17 5 = a := e ▸ ((cutHi _ _ (by decide)).trans ((cutHi _ _ (by decide)).trans ((cutHi _ _ (by decide)).trans ((cutLo _ _ (by decide)).trans (cutAll _)))))
  have f22 : bits w 22 5 = b := e ▸ ((cutHi _ _ (by decide)).trans ((cutHi _ _ (by decide)).trans ((cutHi _ _ (by decide)).trans ((cutHi _ _ (by decide)).trans ((cutLo _ _ (by decide)).trans (cutAll _))))))
  have f27 : bits w 27 5 = 0xB#5 := e ▸ ((cutHi _ _ (by decide)).trans ((cutHi _ _ (by decide)).trans ((cutHi _ _ (by decide)).trans ((cutHi _ _ (by decide)).trans ((cutHi _ _ (by decide)).trans (cutAll _))))))
  refine decode_of w _ 0x57#7 f0 (by decide) (by decide) ?_ (unpk_no f0 (by decide)) hw
  rw [raw_Vari f0]
  simp [decodeVari, f7, f12, f17, f22, f27]

theorem vsrl (d : BitVec 5) (a : BitVec 5) (b : BitVec 5) (k : BitVec 5) : Statement (.vsrl d a b k) := by
  intro w hw e
  replace e := Option.some.inj e
  have f0 : bits w 0 7 = 0x57#7 := e ▸ ((cutLo _ _ (by decide)).trans (cutAll _))
  have f7 : bits w 7 5 = d := e ▸ ((cutHi _ _ (by decide)).trans ((cutLo _ _ (by decide)).trans (cutAll _)))
  have f12 : bits w 12 5 = k := e ▸ ((cutHi _ _ (by decide)).trans ((cutHi _ _ (by decide)).trans ((cutLo _ _ (by decide)).trans (cutAll _))))
  have f17 : bits w 17 5 = a := e ▸ ((cutHi _ _ (by decide)).trans ((cutHi _ _ (by decide)).trans ((cutHi _ _ (by decide)).trans ((cutLo _ _ (by decide)).trans (cutAll _)))))
  have f22 : bits w 22 5 = b := e ▸ ((cutHi _ _ (by decide)).trans ((cutHi _ _ (by decide)).trans ((cutHi _ _ (by decide)).trans ((cutHi _ _ (by decide)).trans ((cutLo _ _ (by decide)).trans (cutAll _))))))
  have f27 : bits w 27 5 = 0xC#5 := e ▸ ((cutHi _ _ (by decide)).trans ((cutHi _ _ (by decide)).trans ((cutHi _ _ (by decide)).trans ((cutHi _ _ (by decide)).trans ((cutHi _ _ (by decide)).trans (cutAll _))))))
  refine decode_of w _ 0x57#7 f0 (by decide) (by decide) ?_ (unpk_no f0 (by decide)) hw
  rw [raw_Vari f0]
  simp [decodeVari, f7, f12, f17, f22, f27]

theorem vsra (d : BitVec 5) (a : BitVec 5) (b : BitVec 5) (k : BitVec 5) : Statement (.vsra d a b k) := by
  intro w hw e
  replace e := Option.some.inj e
  have f0 : bits w 0 7 = 0x57#7 := e ▸ ((cutLo _ _ (by decide)).trans (cutAll _))
  have f7 : bits w 7 5 = d := e ▸ ((cutHi _ _ (by decide)).trans ((cutLo _ _ (by decide)).trans (cutAll _)))
  have f12 : bits w 12 5 = k := e ▸ ((cutHi _ _ (by decide)).trans ((cutHi _ _ (by decide)).trans ((cutLo _ _ (by decide)).trans (cutAll _))))
  have f17 : bits w 17 5 = a := e ▸ ((cutHi _ _ (by decide)).trans ((cutHi _ _ (by decide)).trans ((cutHi _ _ (by decide)).trans ((cutLo _ _ (by decide)).trans (cutAll _)))))
  have f22 : bits w 22 5 = b := e ▸ ((cutHi _ _ (by decide)).trans ((cutHi _ _ (by decide)).trans ((cutHi _ _ (by decide)).trans ((cutHi _ _ (by decide)).trans ((cutLo _ _ (by decide)).trans (cutAll _))))))
  have f27 : bits w 27 5 = 0xD#5 := e ▸ ((cutHi _ _ (by decide)).trans ((cutHi _ _ (by decide)).trans ((cutHi _ _ (by decide)).trans ((cutHi _ _ (by decide)).trans ((cutHi _ _ (by decide)).trans (cutAll _))))))
  refine decode_of w _ 0x57#7 f0 (by decide) (by decide) ?_ (unpk_no f0 (by decide)) hw
  rw [raw_Vari f0]
  simp [decodeVari, f7, f12, f17, f22, f27]

theorem vmulh (d : BitVec 5) (a : BitVec 5) (b : BitVec 5) (k : BitVec 5) : Statement (.vmulh d a b k) := by
  intro w hw e
  replace e := Option.some.inj e
  have f0 : bits w 0 7 = 0x57#7 := e ▸ ((cutLo _ _ (by decide)).trans (cutAll _))
  have f7 : bits w 7 5 = d := e ▸ ((cutHi _ _ (by decide)).trans ((cutLo _ _ (by decide)).trans (cutAll _)))
  have f12 : bits w 12 5 = k := e ▸ ((cutHi _ _ (by decide)).trans ((cutHi _ _ (by decide)).trans ((cutLo _ _ (by decide)).trans (cutAll _))))
  have f17 : bits w 17 5 = a := e ▸ ((cutHi _ _ (by decide)).trans ((cutHi _ _ (by decide)).trans ((cutHi _ _ (by decide)).trans ((cutLo _ _ (by decide)).trans (cutAll _)))))
  have f22 : bits w 22 5 = b := e ▸ ((cutHi _ _ (by decide)).trans ((cutHi _ _ (by decide)).trans ((cutHi _ _ (by decide)).trans ((cutHi _ _ (by decide)).trans ((cutLo _ _ (by decide)).trans (cutAll _))))))
  have f27 : bits w 27 5 = 0xE#5 := e ▸ ((cutHi _ _ (by decide)).trans ((cutHi _ _ (by decide)).trans ((cutHi _ _ (by decide)).trans ((cutHi _ _ (by decide)).trans ((cutHi _ _ (by decide)).trans (cutAll _))))))
  refine decode_of w _ 0x57#7 f0 (by decide) (by decide) ?_ (unpk_no f0 (by decide)) hw
  rw [raw_Vari f0]
  simp [decodeVari, f7, f12, f17, f22, f27]

theorem vmulhz (d : BitVec 5) (a : BitVec 5) (b : BitVec 5) (k : BitVec 5) : Statement (.vmulhz d a b k) := by
  intro w hw e
  replace e := Option.some.inj e
  have f0 : bits w 0 7 = 0x57#7 := e ▸ ((cutLo _ _ (by decide)).trans (cutAll _))
  have f7 : bits w 7 5 = d := e ▸ ((cutHi _ _ (by decide)).trans ((cutLo _ _ (by decide)).trans (cutAll _)))
  have f12 : bits w 12 5 = k := e ▸ ((cutHi _ _ (by decide)).trans ((cutHi _ _ (by decide)).trans ((cutLo _ _ (by decide)).trans (cutAll _))))
  have f17 : bits w 17 5 = a := e ▸ ((cutHi _ _ (by decide)).trans ((cutHi _ _ (by decide)).trans ((cutHi _ _ (by decide)).trans ((cutLo _ _ (by decide)).trans (cutAll _)))))
  have f22 : bits w 22 5 = b := e ▸ ((cutHi _ _ (by decide)).trans ((cutHi _ _ (by decide)).trans ((cutHi _ _ (by decide)).trans ((cutHi _ _ (by decide)).trans ((cutLo _ _ (by decide)).trans (cutAll _))))))
  have f27 : bits w 27 5 = 0xF#5 := e ▸ ((cutHi _ _ (by decide)).trans ((cutHi _ _ (by decide)).trans ((cutHi _ _ (by decide)).trans ((cutHi _ _ (by decide)).trans ((cutHi _ _ (by decide)).trans (cutAll _))))))
  refine decode_of w _ 0x57#7 f0 (by decide) (by decide) ?_ (unpk_no f0 (by decide)) hw
  rw [raw_Vari f0]
  simp [decodeVari, f7, f12, f17, f22, f27]

theorem vabs (d : BitVec 5) (a : BitVec 5) (k : BitVec 5) : Statement (.vabs d a k) := by
  intro w hw e
  replace e := Option.some.inj e
  have f0 : bits w 0 7 = 0x57#7 := e ▸ ((cutLo _ _ (by decide)).trans (cutAll _))
  have f7 : bits w 7 5 = d := e ▸ ((cutHi _ _ (by decide)).trans ((cutLo _ _ (by decide)).trans (cutAll _)))
  have f12 : bits w 12 5 = k := e ▸ ((cutHi _ _ (by decide)).trans ((cutHi _ _ (by decide)).trans ((cutLo _ _ (by decide)).trans (cutAll _))))
  have f17 : bits w 17 5 = a := e ▸ ((cutHi _ _ (by decide)).trans ((cutHi _ _ (by decide)).trans ((cutHi _ _ (by decide)).trans ((cutLo _ _ (by decide)).trans (cutAll _)))))
  have f22 : bits w 22 5 = 0x0#5 := e ▸ ((cutHi _ _ (by decide)).trans ((cutHi _ _ (by decide)).trans ((cutHi _ _ (by decide)).trans ((cutHi _ _ (by decide)).trans ((cutLo _ _ (by decide)).trans (cutAll _))))))
  have f27 : bits w 27 5 = 0x10#5 := e ▸ ((cutHi _ _ (by decide)).trans ((cutHi _ _ (by decide)).trans ((cutHi _ _ (by decide)).trans ((cutHi _ _ (by decide)).trans ((cutHi _ _ (by decide)).trans (cutAll _))))))
  refine decode_of w _ 0x57#7 f0 (by decide) (by decide) ?_ (unpk_no f0 (by decide)) hw
  rw [raw_Vari f0]
  simp [decodeVari, f7, f12, f17, f22, f27]

theorem vneg (d : BitVec 5) (a : BitVec 5) (k : BitVec 5) : Statement (.vneg d a k) := by
  intro w hw e
  replace e := Option.some.inj e
  have f0 : bits w 0 7 = 0x57#7 := e ▸ ((cutLo _ _ (by decide)).trans (cutAll _))
  have f7 : bits w 7 5 = d := e ▸ ((cutHi _ _ (by decide)).trans ((cutLo _ _ (by decide)).trans (cutAll _)))
  have f12 : bits w 12 5 = k := e ▸ ((cutHi _ _ (by decide)).trans ((cutHi _ _ (by decide)).trans ((cutLo _ _ (by decide)).trans (cutAll _))))
  have f17 : bits w 17 5 = a := e ▸ ((cutHi _ _ (by decide)).trans ((cutHi _ _ (by decide)).trans ((cutHi _ _ (by decide)).trans ((cutLo _ _ (by decide)).trans (cutAll _)))))
  have f22 : bits w 22 5 = 0x0#5 := e ▸ ((cutHi _ _ (by decide)).trans ((cutHi _ _ (by decide)).trans ((cutHi _ _ (by decide)).trans ((cutHi _ _ (by decide)).trans ((cutLo _ _ (by decide)).trans (cutAll _))))))
  have f27 : bits w 27 5 = 0x11#5 := e ▸ ((cutHi _ _ (by decide)).trans ((cutHi _ _ (by decide)).trans ((cutHi _ _ (by decide)).trans ((cutHi _ _ (by decide)).trans ((cutHi _ _ (by decide)).trans (cutAll _))))))
  refine decode_of w _ 0x57#7 f0 (by decide) (by decide) ?_ (unpk_no f0 (by decide)) hw
  rw [raw_Vari f0]
  simp [decodeVari, f7, f12, f17, f22, f27]

theorem vsqrt (d : BitVec 5) (a : BitVec 5) (k : BitVec 5) : Statement (.vsqrt d a k) := by
  intro w hw e
  replace e := Option.some.inj e
  have f0 : bits w 0 7 = 0x57#7 := e ▸ ((cutLo _ _ (by decide)).trans (cutAll _))
  have f7 : bits w 7 5 = d := e ▸ ((cutHi _ _ (by decide)).trans ((cutLo _ _ (by decide)).trans (cutAll _)))
  have f12 : bits w 12 5 = k := e ▸ ((cutHi _ _ (by decide)).trans ((cutHi _ _ (by decide)).trans ((cutLo _ _ (by decide)).trans (cutAll _))))
  have f17 : bits w 17 5 = a := e ▸ ((cutHi _ _ (by decide)).trans ((cutHi _ _ (by decide)).trans ((cutHi _ _ (by decide)).trans ((cutLo _ _ (by decide)).trans (cutAll _)))))
  have f22 : bits w 22 5 = 0x0#5 := e ▸ ((cutHi _ _ (by decide)).trans ((cutHi _ _ (by decide)).trans ((cutHi _ _ (by decide)).trans ((cutHi _ _ (by decide)).trans ((cutLo _ _ (by decide)).trans (cutAll _))))))
  have f27 : bits w 27 5 = 0x12#5 := e ▸ ((cutHi _ _ (by decide)).trans ((cutHi _ _ (by decide)).trans ((cutHi _ _ (by decide)).trans ((cutHi _ _ (by decide)).trans ((cutHi _ _ (by decide)).trans (cutAll _))))))
  refine decode_of w _ 0x57#7 f0 (by decide) (by decide) ?_ (unpk_no f0 (by decide)) hw
  rw [raw_Vari f0]
  simp [decodeVari, f7, f12, f17, f22, f27]

theorem vrcp (d : BitVec 5) (a : BitVec 5) (k : BitVec 5) : Statement (.vrcp d a k) := by
  intro w hw e
  replace e := Option.some.inj e
  have f0 : bits w 0 7 = 0x57#7 := e ▸ ((cutLo _ _ (by decide)).trans (cutAll _))
  have f7 : bits w 7 5 = d := e ▸ ((cutHi _ _ (by decide)).trans ((cutLo _ _ (by decide)).trans (cutAll _)))
  have f12 : bits w 12 5 = k := e ▸ ((cutHi _ _ (by decide)).trans ((cutHi _ _ (by decide)).trans ((cutLo _ _ (by decide)).trans (cutAll _))))
  have f17 : bits w 17 5 = a := e ▸ ((cutHi _ _ (by decide)).trans ((cutHi _ _ (by decide)).trans ((cutHi _ _ (by decide)).trans ((cutLo _ _ (by decide)).trans (cutAll _)))))
  have f22 : bits w 22 5 = 0x0#5 := e ▸ ((cutHi _ _ (by decide)).trans ((cutHi _ _ (by decide)).trans ((cutHi _ _ (by decide)).trans ((cutHi _ _ (by decide)).trans ((cutLo _ _ (by decide)).trans (cutAll _))))))
  have f27 : bits w 27 5 = 0x13#5 := e ▸ ((cutHi _ _ (by decide)).trans ((cutHi _ _ (by decide)).trans ((cutHi _ _ (by decide)).trans ((cutHi _ _ (by decide)).trans ((cutHi _ _ (by decide)).trans (cutAll _))))))
  refine decode_of w _ 0x57#7 f0 (by decide) (by decide) ?_ (unpk_no f0 (by decide)) hw
  rw [raw_Vari f0]
  simp [decodeVari, f7, f12, f17, f22, f27]

theorem vrsqrt (d : BitVec 5) (a : BitVec 5) (k : BitVec 5) : Statement (.vrsqrt d a k) := by
  intro w hw e
  replace e := Option.some.inj e
  have f0 : bits w 0 7 = 0x57#7 := e ▸ ((cutLo _ _ (by decide)).trans (cutAll _))
  have f7 : bits w 7 5 = d := e ▸ ((cutHi _ _ (by decide)).trans ((cutLo _ _ (by decide)).trans (cutAll _)))
  have f12 : bits w 12 5 = k := e ▸ ((cutHi _ _ (by decide)).trans ((cutHi _ _ (by decide)).trans ((cutLo _ _ (by decide)).trans (cutAll _))))
  have f17 : bits w 17 5 = a := e ▸ ((cutHi _ _ (by decide)).trans ((cutHi _ _ (by decide)).trans ((cutHi _ _ (by decide)).trans ((cutLo _ _ (by decide)).trans (cutAll _)))))
  have f22 : bits w 22 5 = 0x0#5 := e ▸ ((cutHi _ _ (by decide)).trans ((cutHi _ _ (by decide)).trans ((cutHi _ _ (by decide)).trans ((cutHi _ _ (by decide)).trans ((cutLo _ _ (by decide)).trans (cutAll _))))))
  have f27 : bits w 27 5 = 0x14#5 := e ▸ ((cutHi _ _ (by decide)).trans ((cutHi _ _ (by decide)).trans ((cutHi _ _ (by decide)).trans ((cutHi _ _ (by decide)).trans ((cutHi _ _ (by decide)).trans (cutAll _))))))
  refine decode_of w _ 0x57#7 f0 (by decide) (by decide) ?_ (unpk_no f0 (by decide)) hw
  rw [raw_Vari f0]
  simp [decodeVari, f7, f12, f17, f22, f27]

theorem vexp2 (d : BitVec 5) (a : BitVec 5) (k : BitVec 5) : Statement (.vexp2 d a k) := by
  intro w hw e
  replace e := Option.some.inj e
  have f0 : bits w 0 7 = 0x57#7 := e ▸ ((cutLo _ _ (by decide)).trans (cutAll _))
  have f7 : bits w 7 5 = d := e ▸ ((cutHi _ _ (by decide)).trans ((cutLo _ _ (by decide)).trans (cutAll _)))
  have f12 : bits w 12 5 = k := e ▸ ((cutHi _ _ (by decide)).trans ((cutHi _ _ (by decide)).trans ((cutLo _ _ (by decide)).trans (cutAll _))))
  have f17 : bits w 17 5 = a := e ▸ ((cutHi _ _ (by decide)).trans ((cutHi _ _ (by decide)).trans ((cutHi _ _ (by decide)).trans ((cutLo _ _ (by decide)).trans (cutAll _)))))
  have f22 : bits w 22 5 = 0x0#5 := e ▸ ((cutHi _ _ (by decide)).trans ((cutHi _ _ (by decide)).trans ((cutHi _ _ (by decide)).trans ((cutHi _ _ (by decide)).trans ((cutLo _ _ (by decide)).trans (cutAll _))))))
  have f27 : bits w 27 5 = 0x15#5 := e ▸ ((cutHi _ _ (by decide)).trans ((cutHi _ _ (by decide)).trans ((cutHi _ _ (by decide)).trans ((cutHi _ _ (by decide)).trans ((cutHi _ _ (by decide)).trans (cutAll _))))))
  refine decode_of w _ 0x57#7 f0 (by decide) (by decide) ?_ (unpk_no f0 (by decide)) hw
  rw [raw_Vari f0]
  simp [decodeVari, f7, f12, f17, f22, f27]

theorem vmov (d : BitVec 5) (a : BitVec 5) (k : BitVec 5) : Statement (.vmov d a k) := by
  intro w hw e
  replace e := Option.some.inj e
  have f0 : bits w 0 7 = 0x57#7 := e ▸ ((cutLo _ _ (by decide)).trans (cutAll _))
  have f7 : bits w 7 5 = d := e ▸ ((cutHi _ _ (by decide)).trans ((cutLo _ _ (by decide)).trans (cutAll _)))
  have f12 : bits w 12 5 = k := e ▸ ((cutHi _ _ (by decide)).trans ((cutHi _ _ (by decide)).trans ((cutLo _ _ (by decide)).trans (cutAll _))))
  have f17 : bits w 17 5 = a := e ▸ ((cutHi _ _ (by decide)).trans ((cutHi _ _ (by decide)).trans ((cutHi _ _ (by decide)).trans ((cutLo _ _ (by decide)).trans (cutAll _)))))
  have f22 : bits w 22 5 = 0x0#5 := e ▸ ((cutHi _ _ (by decide)).trans ((cutHi _ _ (by decide)).trans ((cutHi _ _ (by decide)).trans ((cutHi _ _ (by decide)).trans ((cutLo _ _ (by decide)).trans (cutAll _))))))
  have f27 : bits w 27 5 = 0x16#5 := e ▸ ((cutHi _ _ (by decide)).trans ((cutHi _ _ (by decide)).trans ((cutHi _ _ (by decide)).trans ((cutHi _ _ (by decide)).trans ((cutHi _ _ (by decide)).trans (cutAll _))))))
  refine decode_of w _ 0x57#7 f0 (by decide) (by decide) ?_ (unpk_no f0 (by decide)) hw
  rw [raw_Vari f0]
  simp [decodeVari, f7, f12, f17, f22, f27]

theorem vaddS (d : BitVec 5) (a : BitVec 5) (b : BitVec 5) (k : BitVec 5) : Statement (.vaddS d a b k) := by
  intro w hw e
  replace e := Option.some.inj e
  have f0 : bits w 0 7 = 0x77#7 := e ▸ ((cutLo _ _ (by decide)).trans (cutAll _))
  have f7 : bits w 7 5 = d := e ▸ ((cutHi _ _ (by decide)).trans ((cutLo _ _ (by decide)).trans (cutAll _)))
  have f12 : bits w 12 5 = k := e ▸ ((cutHi _ _ (by decide)).trans ((cutHi _ _ (by decide)).trans ((cutLo _ _ (by decide)).trans (cutAll _))))
  have f17 : bits w 17 5 = a := e ▸ ((cutHi _ _ (by decide)).trans ((cutHi _ _ (by decide)).trans ((cutHi _ _ (by decide)).trans ((cutLo _ _ (by decide)).trans (cutAll _)))))
  have f22 : bits w 22 5 = b := e ▸ ((cutHi _ _ (by decide)).trans ((cutHi _ _ (by decide)).trans ((cutHi _ _ (by decide)).trans ((cutHi _ _ (by decide)).trans ((cutLo _ _ (by decide)).trans (cutAll _))))))
  have f27 : bits w 27 5 = 0x0#5 := e ▸ ((cutHi _ _ (by decide)).trans ((cutHi _ _ (by decide)).trans ((cutHi _ _ (by decide)).trans ((cutHi _ _ (by decide)).trans ((cutHi _ _ (by decide)).trans (cutAll _))))))
  refine decode_of w _ 0x77#7 f0 (by decide) (by decide) ?_ (unpk_no f0 (by decide)) hw
  rw [raw_Vars f0]
  simp [decodeVars, f7, f12, f17, f22, f27]

theorem vsubS (d : BitVec 5) (a : BitVec 5) (b : BitVec 5) (k : BitVec 5) : Statement (.vsubS d a b k) := by
  intro w hw e
  replace e := Option.some.inj e
  have f0 : bits w 0 7 = 0x77#7 := e ▸ ((cutLo _ _ (by decide)).trans (cutAll _))
  have f7 : bits w 7 5 = d := e ▸ ((cutHi _ _ (by decide)).trans ((cutLo _ _ (by decide)).trans (cutAll _)))
  have f12 : bits w 12 5 = k := e ▸ ((cutHi _ _ (by decide)).trans ((cutHi _ _ (by decide)).trans ((cutLo _ _ (by decide)).trans (cutAll _))))
  have f17 : bits w 17 5 = a := e ▸ ((cutHi _ _ (by decide)).trans ((cutHi _ _ (by decide)).trans ((cutHi _ _ (by decide)).trans ((cutLo _ _ (by decide)).trans (cutAll _)))))
  have f22 : bits w 22 5 = b := e ▸ ((cutHi _ _ (by decide)).trans ((cutHi _ _ (by decide)).trans ((cutHi _ _ (by decide)).trans ((cutHi _ _ (by decide)).trans ((cutLo _ _ (by decide)).trans (cutAll _))))))
  have f27 : bits w 27 5 = 0x1#5 := e ▸ ((cutHi _ _ (by decide)).trans ((cutHi _ _ (by decide)).trans ((cutHi _ _ (by decide)).trans ((cutHi _ _ (by decide)).trans ((cutHi _ _ (by decide)).trans (cutAll _))))))
  refine decode_of w _ 0x77#7 f0 (by decide) (by decide) ?_ (unpk_no f0 (by decide)) hw
  rw [raw_Vars f0]
  simp [decodeVars, f7, f12, f17, f22, f27]

theorem vmulS (d : BitVec 5) (a : BitVec 5) (b : BitVec 5) (k : BitVec 5) : Statement (.vmulS d a b k) := by
  intro w hw e
  replace e := Option.some.inj e
  have f0 : bits w 0 7 = 0x77#7 := e ▸ ((cutLo _ _ (by decide)).trans (cutAll _))
  have f7 : bits w 7 5 = d := e ▸ ((cutHi _ _ (by decide)).trans ((cutLo _ _ (by decide)).trans (cutAll _)))
  have f12 : bits w 12 5 = k := e ▸ ((cutHi _ _ (by decide)).trans ((cutHi _ _ (by decide)).trans ((cutLo _ _ (by decide)).trans (cutAll _))))
  have f17 : bits w 17 5 = a := e ▸ ((cutHi _ _ (by decide)).trans ((cutHi _ _ (by decide)).trans ((cutHi _ _ (by decide)).trans ((cutLo _ _ (by decide)).trans (cutAll _)))))
  have f22 : bits w 22 5 = b := e ▸ ((cutHi _ _ (by decide)).trans ((cutHi _ _ (by decide)).trans ((cutHi _ _ (by decide)).trans ((cutHi _ _ (by decide)).trans ((cutLo _ _ (by decide)).trans (cutAll _))))))
  have f27 : bits w 27 5 = 0x2#5 := e ▸ ((cutHi _ _ (by decide)).trans ((cutHi _ _ (by decide)).trans ((cutHi _ _ (by decide)).trans ((cutHi _ _ (by decide)).trans ((cutHi _ _ (by decide)).trans (cutAll _))))))
  refine decode_of w _ 0x77#7 f0 (by decide) (by decide) ?_ (unpk_no f0 (by decide)) hw
  rw [raw_Vars f0]
  simp [decodeVars, f7, f12, f17, f22, f27]

theorem vmacS (d : BitVec 5) (a : BitVec 5) (b : BitVec 5) (k : BitVec 5) : Statement (.vmacS d a b k) := by
  intro w hw e
  replace e := Option.some.inj e
  have f0 : bits w 0 7 = 0x77#7 := e ▸ ((cutLo _ _ (by decide)).trans (cutAll _))
  have f7 : bits w 7 5 = d := e ▸ ((cutHi _ _ (by decide)).trans ((cutLo _ _ (by decide)).trans (cutAll _)))
  have f12 : bits w 12 5 = k := e ▸ ((cutHi _ _ (by decide)).trans ((cutHi _ _ (by decide)).trans ((cutLo _ _ (by decide)).trans (cutAll _))))
  have f17 : bits w 17 5 = a := e ▸ ((cutHi _ _ (by decide)).trans ((cutHi _ _ (by decide)).trans ((cutHi _ _ (by decide)).trans ((cutLo _ _ (by decide)).trans (cutAll _)))))
  have f22 : bits w 22 5 = b := e ▸ ((cutHi _ _ (by decide)).trans ((cutHi _ _ (by decide)).trans ((cutHi _ _ (by decide)).trans ((cutHi _ _ (by decide)).trans ((cutLo _ _ (by decide)).trans (cutAll _))))))
  have f27 : bits w 27 5 = 0x3#5 := e ▸ ((cutHi _ _ (by decide)).trans ((cutHi _ _ (by decide)).trans ((cutHi _ _ (by decide)).trans ((cutHi _ _ (by decide)).trans ((cutHi _ _ (by decide)).trans (cutAll _))))))
  refine decode_of w _ 0x77#7 f0 (by decide) (by decide) ?_ (unpk_no f0 (by decide)) hw
  rw [raw_Vars f0]
  simp [decodeVars, f7, f12, f17, f22, f27]

theorem vnmacS (d : BitVec 5) (a : BitVec 5) (b : BitVec 5) (k : BitVec 5) : Statement (.vnmacS d a b k) := by
  intro w hw e
  replace e := Option.some.inj e
  have f0 : bits w 0 7 = 0x77#7 := e ▸ ((cutLo _ _ (by decide)).trans (cutAll _))
  have f7 : bits w 7 5 = d := e ▸ ((cutHi _ _ (by decide)).trans ((cutLo _ _ (by decide)).trans (cutAll _)))
  have f12 : bits w 12 5 = k := e ▸ ((cutHi _ _ (by decide)).trans ((cutHi _ _ (by decide)).trans ((cutLo _ _ (by decide)).trans (cutAll _))))
  have f17 : bits w 17 5 = a := e ▸ ((cutHi _ _ (by decide)).trans ((cutHi _ _ (by decide)).trans ((cutHi _ _ (by decide)).trans ((cutLo _ _ (by decide)).trans (cutAll _)))))
  have f22 : bits w 22 5 = b := e ▸ ((cutHi _ _ (by decide)).trans ((cutHi _ _ (by decide)).trans ((cutHi _ _ (by decide)).trans ((cutHi _ _ (by decide)).trans ((cutLo _ _ (by decide)).trans (cutAll _))))))
  have f27 : bits w 27 5 = 0x4#5 := e ▸ ((cutHi _ _ (by decide)).trans ((cutHi _ _ (by decide)).trans ((cutHi _ _ (by decide)).trans ((cutHi _ _ (by decide)).trans ((cutHi _ _ (by decide)).trans (cutAll _))))))
  refine decode_of w _ 0x77#7 f0 (by decide) (by decide) ?_ (unpk_no f0 (by decide)) hw
  rw [raw_Vars f0]
  simp [decodeVars, f7, f12, f17, f22, f27]

theorem vminS (d : BitVec 5) (a : BitVec 5) (b : BitVec 5) (k : BitVec 5) : Statement (.vminS d a b k) := by
  intro w hw e
  replace e := Option.some.inj e
  have f0 : bits w 0 7 = 0x77#7 := e ▸ ((cutLo _ _ (by decide)).trans (cutAll _))
  have f7 : bits w 7 5 = d := e ▸ ((cutHi _ _ (by decide)).trans ((cutLo _ _ (by decide)).trans (cutAll _)))
  have f12 : bits w 12 5 = k := e ▸ ((cutHi _ _ (by decide)).trans ((cutHi _ _ (by decide)).trans ((cutLo _ _ (by decide)).trans (cutAll _))))
  have f17 : bits w 17 5 = a := e ▸ ((cutHi _ _ (by decide)).trans ((cutHi _ _ (by decide)).trans ((cutHi _ _ (by decide)).trans ((cutLo _ _ (by decide)).trans (cutAll _)))))
  have f22 : bits w 22 5 = b := e ▸ ((cutHi _ _ (by decide)).trans ((cutHi _ _ (by decide)).trans ((cutHi _ _ (by decide)).trans ((cutHi _ _ (by decide)).trans ((cutLo _ _ (by decide)).trans (cutAll _))))))
  have f27 : bits w 27 5 = 0x5#5 := e ▸ ((cutHi _ _ (by decide)).trans ((cutHi _ _ (by decide)).trans ((cutHi _ _ (by decide)).trans ((cutHi _ _ (by decide)).trans ((cutHi _ _ (by decide)).trans (cutAll _))))))
  refine decode_of w _ 0x77#7 f0 (by decide) (by decide) ?_ (unpk_no f0 (by decide)) hw
  rw [raw_Vars f0]
  simp [decodeVars, f7, f12, f17, f22, f27]

theorem vmaxS (d : BitVec 5) (a : BitVec 5) (b : BitVec 5) (k : BitVec 5) : Statement (.vmaxS d a b k) := by
  intro w hw e
  replace e := Option.some.inj e
  have f0 : bits w 0 7 = 0x77#7 := e ▸ ((cutLo _ _ (by decide)).trans (cutAll _))
  have f7 : bits w 7 5 = d := e ▸ ((cutHi _ _ (by decide)).trans ((cutLo _ _ (by decide)).trans (cutAll _)))
  have f12 : bits w 12 5 = k := e ▸ ((cutHi _ _ (by decide)).trans ((cutHi _ _ (by decide)).trans ((cutLo _ _ (by decide)).trans (cutAll _))))
  have f17 : bits w 17 5 = a := e ▸ ((cutHi _ _ (by decide)).trans ((cutHi _ _ (by decide)).trans ((cutHi _ _ (by decide)).trans ((cutLo _ _ (by decide)).trans (cutAll _)))))
  have f22 : bits w 22 5 = b := e ▸ ((cutHi _ _ (by decide)).trans ((cutHi _ _ (by decide)).trans ((cutHi _ _ (by decide)).trans ((cutHi _ _ (by decide)).trans ((cutLo _ _ (by decide)).trans (cutAll _))))))
  have f27 : bits w 27 5 = 0x6#5 := e ▸ ((cutHi _ _ (by decide)).trans ((cutHi _ _ (by decide)).trans ((cutHi _ _ (by decide)).trans ((cutHi _ _ (by decide)).trans ((cutHi _ _ (by decide)).trans (cutAll _))))))
  refine decode_of w _ 0x77#7 f0 (by decide) (by decide) ?_ (unpk_no f0 (by decide)) hw
  rw [raw_Vars f0]
  simp [decodeVars, f7, f12, f17, f22, f27]

theorem vdivS (d : BitVec 5) (a : BitVec 5) (b : BitVec 5) (k : BitVec 5) : Statement (.vdivS d a b k) := by
  intro w hw e
  replace e := Option.some.inj e
  have f0 : bits w 0 7 = 0x77#7 := e ▸ ((cutLo _ _ (by decide)).trans (cutAll _))
  have f7 : bits w 7 5 = d := e ▸ ((cutHi _ _ (by decide)).trans ((cutLo _ _ (by decide)).trans (cutAll _)))
  have f12 : bits w 12 5 = k := e ▸ ((cutHi _ _ (by decide)).trans ((cutHi _ _ (by decide)).trans ((cutLo _ _ (by decide)).trans (cutAll _))))
  have f17 : bits w 17 5 = a := e ▸ ((cutHi _ _ (by decide)).trans ((cutHi _ _ (by decide)).trans ((cutHi _ _ (by decide)).trans ((cutLo _ _ (by decide)).trans (cutAll _)))))
  have f22 : bits w 22 5 = b := e ▸ ((cutHi _ _ (by decide)).trans ((cutHi _ _ (by decide)).trans ((cutHi _ _ (by decide)).trans ((cutHi _ _ (by decide)).trans ((cutLo _ _ (by decide)).trans (cutAll _))))))
  have f27 : bits w 27 5 = 0x7#5 := e ▸ ((cutHi _ _ (by decide)).trans ((cutHi _ _ (by decide)).trans ((cutHi _ _ (by decide)).trans ((cutHi _ _ (by decide)).trans ((cutHi _ _ (by decide)).trans (cutAll _))))))
  refine decode_of w _ 0x77#7 f0 (by decide) (by decide) ?_ (unpk_no f0 (by decide)) hw
  rw [raw_Vars f0]
  simp [decodeVars, f7, f12, f17, f22, f27]

theorem vandS (d : BitVec 5) (a : BitVec 5) (b : BitVec 5) (k : BitVec 5) : Statement (.vandS d a b k) := by
  intro w hw e
  replace e := Option.some.inj e
  have f0 : bits w 0 7 = 0x77#7 := e ▸ ((cutLo _ _ (by decide)).trans (cutAll _))
  have f7 : bits w 7 5 = d := e ▸ ((cutHi _ _ (by decide)).trans ((cutLo _ _ (by decide)).trans (cutAll _)))
  have f12 : bits w 12 5 = k := e ▸ ((cutHi _ _ (by decide)).trans ((cutHi _ _ (by decide)).trans ((cutLo _ _ (by decide)).trans (cutAll _))))
  have f17 : bits w 17 5 = a := e ▸ ((cutHi _ _ (by decide)).trans ((cutHi _ _ (by decide)).trans ((cutHi _ _ (by decide)).trans ((cutLo _ _ (by decide)).trans (cutAll _)))))
  have f22 : bits w 22 5 = b := e ▸ ((cutHi _ _ (by decide)).trans ((cutHi _ _ (by decide)).trans ((cutHi _ _ (by decide)).trans ((cutHi _ _ (by decide)).trans ((cutLo _ _ (by decide)).trans (cutAll _))))))
  have f27 : bits w 27 5 = 0x8#5 := e ▸ ((cutHi _ _ (by decide)).trans ((cutHi _ _ (by decide)).trans ((cutHi _ _ (by decide)).trans ((cutHi _ _ (by decide)).trans ((cutHi _ _ (by decide)).trans (cutAll _))))))
  refine decode_of w _ 0x77#7 f0 (by decide) (by decide) ?_ (unpk_no f0 (by decide)) hw
  rw [raw_Vars f0]
  simp [decodeVars, f7, f12, f17, f22, f27]

theorem vorS (d : BitVec 5) (a : BitVec 5) (b : BitVec 5) (k : BitVec 5) : Statement (.vorS d a b k) := by
  intro w hw e
  replace e := Option.some.inj e
  have f0 : bits w 0 7 = 0x77#7 := e ▸ ((cutLo _ _ (by decide)).trans (cutAll _))
  have f7 : bits w 7 5 = d := e ▸ ((cutHi _ _ (by decide)).trans ((cutLo _ _ (by decide)).trans (cutAll _)))
  have f12 : bits w 12 5 = k := e ▸ ((cutHi _ _ (by decide)).trans ((cutHi _ _ (by decide)).trans ((cutLo _ _ (by decide)).trans (cutAll _))))
  have f17 : bits w 17 5 = a := e ▸ ((cutHi _ _ (by decide)).trans ((cutHi _ _ (by decide)).trans ((cutHi _ _ (by decide)).trans ((cutLo _ _ (by decide)).trans (cutAll _)))))
  have f22 : bits w 22 5 = b := e ▸ ((cutHi _ _ (by decide)).trans ((cutHi _ _ (by decide)).trans ((cutHi _ _ (by decide)).trans ((cutHi _ _ (by decide)).trans ((cutLo _ _ (by decide)).trans (cutAll _))))))
  have f27 : bits w 27 5 = 0x9#5 := e ▸ ((cutHi _ _ (by decide)).trans ((cutHi _ _ (by decide)).trans ((cutHi _ _ (by decide)).trans ((cutHi _ _ (by decide)).trans ((cutHi _ _ (by decide)).trans (cutAll _))))))
  refine decode_of w _ 0x77#7 f0 (by decide) (by decide) ?_ (unpk_no f0 (by decide)) hw
  rw [raw_Vars f0]
  simp [decodeVars, f7, f12, f17, f22, f27]

theorem vxorS (d : BitVec 5) (a : BitVec 5) (b : BitVec 5) (k : BitVec 5) : Statement (.vxorS d a b k) := by
  intro w hw e
  replace e := Option.some.inj e
  have f0 : bits w 0 7 = 0x77#7 := e ▸ ((cutLo _ _ (by decide)).trans (cutAll _))
  have f7 : bits w 7 5 = d := e ▸ ((cutHi _ _ (by decide)).trans ((cutLo _ _ (by decide)).trans (cutAll _)))
  have f12 : bits w 12 5 = k := e ▸ ((cutHi _ _ (by decide)).trans ((cutHi _ _ (by decide)).trans ((cutLo _ _ (by decide)).trans (cutAll _))))
  have f17 : bits w 17 5 = a := e ▸ ((cutHi _ _ (by decide)).trans ((cutHi _ _ (by decide)).trans ((cutHi _ _ (by decide)).trans ((cutLo _ _ (by decide)).trans (cutAll _)))))
  have f22 : bits w 22 5 = b := e ▸ ((cutHi _ _ (by decide)).trans ((cutHi _ _ (by decide)).trans ((cutHi _ _ (by decide)).trans ((cutHi _ _ (by decide)).trans ((cutLo _ _ (by decide)).trans (cutAll _))))))
  have f27 : bits w 27 5 = 0xA#5 := e ▸ ((cutHi _ _ (by decide)).trans ((cutHi _ _ (by decide)).trans ((cutHi _ _ (by decide)).trans ((cutHi _ _ (by decide)).trans ((cutHi _ _ (by decide)).trans (cutAll _))))))
  refine decode_of w _ 0x77#7 f0 (by decide) (by decide) ?_ (unpk_no f0 (by decide)) hw
  rw [raw_Vars f0]
  simp [decodeVars, f7, f12, f17, f22, f27]

theorem vsllS (d : BitVec 5) (a : BitVec 5) (b : BitVec 5) (k : BitVec 5) : Statement (.vsllS d a b k) := by
  intro w hw e
  replace e := Option.some.inj e
  have f0 : bits w 0 7 = 0x77#7 := e ▸ ((cutLo _ _ (by decide)).trans (cutAll _))
  have f7 : bits w 7 5 = d := e ▸ ((cutHi _ _ (by decide)).trans ((cutLo _ _ (by decide)).trans (cutAll _)))
  have f12 : bits w 12 5 = k := e ▸ ((cutHi _ _ (by decide)).trans ((cutHi _ _ (by decide)).trans ((cutLo _ _ (by decide)).trans (cutAll _))))
  have f17 : bits w 17 5 = a := e ▸ ((cutHi _ _ (by decide)).trans ((cutHi _ _ (by decide)).trans ((cutHi _ _ (by decide)).trans ((cutLo _ _ (by decide)).trans (cutAll _)))))
  have f22 : bits w 22 5 = b := e ▸ ((cutHi _ _ (by decide)).trans ((cutHi _ _ (by decide)).trans ((cutHi _ _ (by decide)).trans ((cutHi _ _ (by decide)).trans ((cutLo _ _ (by decide)).trans (cutAll _))))))
  have f27 : bits w 27 5 = 0xB#5 := e ▸ ((cutHi _ _ (by decide)).trans ((cutHi _ _ (by decide)).trans ((cutHi _ _ (by decide)).trans ((cutHi _ _ (by decide)).trans ((cutHi _ _ (by decide)).trans (cutAll _))))))
  refine decode_of w _ 0x77#7 f0 (by decide) (by decide) ?_ (unpk_no f0 (by decide)) hw
  rw [raw_Vars f0]
  simp [decodeVars, f7, f12, f17, f22, f27]

theorem vsrlS (d : BitVec 5) (a : BitVec 5) (b : BitVec 5) (k : BitVec 5) : Statement (.vsrlS d a b k) := by
  intro w hw e
  replace e := Option.some.inj e
  have f0 : bits w 0 7 = 0x77#7 := e ▸ ((cutLo _ _ (by decide)).trans (cutAll _))
  have f7 : bits w 7 5 = d := e ▸ ((cutHi _ _ (by decide)).trans ((cutLo _ _ (by decide)).trans (cutAll _)))
  have f12 : bits w 12 5 = k := e ▸ ((cutHi _ _ (by decide)).trans ((cutHi _ _ (by decide)).trans ((cutLo _ _ (by decide)).trans (cutAll _))))
  have f17 : bits w 17 5 = a := e ▸ ((cutHi _ _ (by decide)).trans ((cutHi _ _ (by decide)).trans ((cutHi _ _ (by decide)).trans ((cutLo _ _ (by decide)).trans (cutAll _)))))
  have f22 : bits w 22 5 = b := e ▸ ((cutHi _ _ (by decide)).trans ((cutHi _ _ (by decide)).trans ((cutHi _ _ (by decide)).trans ((cutHi _ _ (by decide)).trans ((cutLo _ _ (by decide)).trans (cutAll _))))))
  have f27 : bits w 27 5 = 0xC#5 := e ▸ ((cutHi _ _ (by decide)).trans ((cutHi _ _ (by decide)).trans ((cutHi _ _ (by decide)).trans ((cutHi _ _ (by decide)).trans ((cutHi _ _ (by decide)).trans (cutAll _))))))
  refine decode_of w _ 0x77#7 f0 (by decide) (by decide) ?_ (unpk_no f0 (by decide)) hw
  rw [raw_Vars f0]
  simp [decodeVars, f7, f12, f17, f22, f27]

theorem vsraS (d : BitVec 5) (a : BitVec 5) (b : BitVec 5) (k : BitVec 5) : Statement (.vsraS d a b k) := by
  intro w hw e
  replace e := Option.some.inj e
  have f0 : bits w 0 7 = 0x77#7 := e ▸ ((cutLo _ _ (by decide)).trans (cutAll _))
  have f7 : bits w 7 5 = d := e ▸ ((cutHi _ _ (by decide)).trans ((cutLo _ _ (by decide)).trans (cutAll _)))
  have f12 : bits w 12 5 = k := e ▸ ((cutHi _ _ (by decide)).trans ((cutHi _ _ (by decide)).trans ((cutLo _ _ (by decide)).trans (cutAll _))))
  have f17 : bits w 17 5 = a := e ▸ ((cutHi _ _ (by decide)).trans ((cutHi _ _ (by decide)).trans ((cutHi _ _ (by decide)).trans ((cutLo _ _ (by decide)).trans (cutAll _)))))
  have f22 : bits w 22 5 = b := e ▸ ((cutHi _ _ (by decide)).trans ((cutHi _ _ (by decide)).trans ((cutHi _ _ (by decide)).trans ((cutHi _ _ (by decide)).trans ((cutLo _ _ (by decide)).trans (cutAll _))))))
  have f27 : bits w 27 5 = 0xD#5 := e ▸ ((cutHi _ _ (by decide)).trans ((cutHi _ _ (by decide)).trans ((cutHi _ _ (by decide)).trans ((cutHi _ _ (by decide)).trans ((cutHi _ _ (by decide)).trans (cutAll _))))))
  refine decode_of w _ 0x77#7 f0 (by decide) (by decide) ?_ (unpk_no f0 (by decide)) hw
  rw [raw_Vars f0]
  simp [decodeVars, f7, f12, f17, f22, f27]

theorem vmulhS (d : BitVec 5) (a : BitVec 5) (b : BitVec 5) (k : BitVec 5) : Statement (.vmulhS d a b k) := by
  intro w hw e
  replace e := Option.some.inj e
  have f0 : bits w 0 7 = 0x77#7 := e ▸ ((cutLo _ _ (by decide)).trans (cutAll _))
  have f7 : bits w 7 5 = d := e ▸ ((cutHi _ _ (by decide)).trans ((cutLo _ _ (by decide)).trans (cutAll _)))
  have f12 : bits w 12 5 = k := e ▸ ((cutHi _ _ (by decide)).trans ((cutHi _ _ (by decide)).trans ((cutLo _ _ (by decide)).trans (cutAll _))))
  have f17 : bits w 17 5 = a := e ▸ ((cutHi _ _ (by decide)).trans ((cutHi _ _ (by decide)).trans ((cutHi _ _ (by decide)).trans ((cutLo _ _ (by decide)).trans (cutAll _)))))
  have f22 : bits w 22 5 = b := e ▸ ((cutHi _ _ (by decide)).trans ((cutHi _ _ (by decide)).trans ((cutHi _ _ (by decide)).trans ((cutHi _ _ (by decide)).trans ((cutLo _ _ (by decide)).trans (cutAll _))))))
  have f27 : bits w 27 5 = 0xE#5 := e ▸ ((cutHi _ _ (by decide)).trans ((cutHi _ _ (by decide)).trans ((cutHi _ _ (by decide)).trans ((cutHi _ _ (by decide)).trans ((cutHi _ _ (by decide)).trans (cutAll _))))))
  refine decode_of w _ 0x77#7 f0 (by decide) (by decide) ?_ (unpk_no f0 (by decide)) hw
  rw [raw_Vars f0]
  simp [decodeVars, f7, f12, f17, f22, f27]

theorem vmulhzS (d : BitVec 5) (a : BitVec 5) (b : BitVec 5) (k : BitVec 5) : Statement (.vmulhzS d a b k) := by
  intro w hw e
  replace e := Option.some.inj e
  have f0 : bits w 0 7 = 0x77#7 := e ▸ ((cutLo _ _ (by decide)).trans (cutAll _))
  have f7 : bits w 7 5 = d := e ▸ ((cutHi _ _ (by decide)).trans ((cutLo _ _ (by decide)).trans (cutAll _)))
  have f12 : bits w 12 5 = k := e ▸ ((cutHi _ _ (by decide)).trans ((cutHi _ _ (by decide)).trans ((cutLo _ _ (by decide)).trans (cutAll _))))
  have f17 : bits w 17 5 = a := e ▸ ((cutHi _ _ (by decide)).trans ((cutHi _ _ (by decide)).trans ((cutHi _ _ (by decide)).trans ((cutLo _ _ (by decide)).trans (cutAll _)))))
  have f22 : bits w 22 5 = b := e ▸ ((cutHi _ _ (by decide)).trans ((cutHi _ _ (by decide)).trans ((cutHi _ _ (by decide)).trans ((cutHi _ _ (by decide)).trans ((cutLo _ _ (by decide)).trans (cutAll _))))))
  have f27 : bits w 27 5 = 0xF#5 := e ▸ ((cutHi _ _ (by decide)).trans ((cutHi _ _ (by decide)).trans ((cutHi _ _ (by decide)).trans ((cutHi _ _ (by decide)).trans ((cutHi _ _ (by decide)).trans (cutAll _))))))
  refine decode_of w _ 0x77#7 f0 (by decide) (by decide) ?_ (unpk_no f0 (by decide)) hw
  rw [raw_Vars f0]
  simp [decodeVars, f7, f12, f17, f22, f27]

theorem vceq (d : BitVec 5) (a : BitVec 5) (b : BitVec 5) (k : BitVec 5) : Statement (.vceq d a b k) := by
  intro w hw e
  replace e := Option.some.inj e
  have f0 : bits w 0 7 = 0x47#7 := e ▸ ((cutLo _ _ (by decide)).trans (cutAll _))
  have f7 : bits w 7 5 = d := e ▸ ((cutHi _ _ (by decide)).trans ((cutLo _ _ (by decide)).trans (cutAll _)))
  have f12 : bits w 12 5 = k := e ▸ ((cutHi _ _ (by decide)).trans ((cutHi _ _ (by decide)).trans ((cutLo _ _ (by decide)).trans (cutAll _))))
  have f17 : bits w 17 5 = a := e ▸ ((cutHi _ _ (by decide)).trans ((cutHi _ _ (by decide)).trans ((cutHi _ _ (by decide)).trans ((cutLo _ _ (by decide)).trans (cutAll _)))))
  have f22 : bits w 22 5 = b := e ▸ ((cutHi _ _ (by decide)).trans ((cutHi _ _ (by decide)).trans ((cutHi _ _ (by decide)).trans ((cutHi _ _ (by decide)).trans ((cutLo _ _ (by decide)).trans (cutAll _))))))
  have f27 : bits w 27 5 = 0x0#5 := e ▸ ((cutHi _ _ (by decide)).trans ((cutHi _ _ (by decide)).trans ((cutHi _ _ (by decide)).trans ((cutHi _ _ (by decide)).trans ((cutHi _ _ (by decide)).trans (cutAll _))))))
  refine decode_of w _ 0x47#7 f0 (by decide) (by decide) ?_ (unpk_no f0 (by decide)) hw
  rw [raw_Vmask f0]
  simp [decodeVmask, f7, f12, f17, f22, f27]

theorem vcne (d : BitVec 5) (a : BitVec 5) (b : BitVec 5) (k : BitVec 5) : Statement (.vcne d a b k) := by
  intro w hw e
  replace e := Option.some.inj e
  have f0 : bits w 0 7 = 0x47#7 := e ▸ ((cutLo _ _ (by decide)).trans (cutAll _))
  have f7 : bits w 7 5 = d := e ▸ ((cutHi _ _ (by decide)).trans ((cutLo _ _ (by decide)).trans (cutAll _)))
  have f12 : bits w 12 5 = k := e ▸ ((cutHi _ _ (by decide)).trans ((cutHi _ _ (by decide)).trans ((cutLo _ _ (by decide)).trans (cutAll _))))
  have f17 : bits w 17 5 = a := e ▸ ((cutHi _ _ (by decide)).trans ((cutHi _ _ (by decide)).trans ((cutHi _ _ (by decide)).trans ((cutLo _ _ (by decide)).trans (cutAll _)))))
  have f22 : bits w 22 5 = b := e ▸ ((cutHi _ _ (by decide)).trans ((cutHi _ _ (by decide)).trans ((cutHi _ _ (by decide)).trans ((cutHi _ _ (by decide)).trans ((cutLo _ _ (by decide)).trans (cutAll _))))))
  have f27 : bits w 27 5 = 0x1#5 := e ▸ ((cutHi _ _ (by decide)).trans ((cutHi _ _ (by decide)).trans ((cutHi _ _ (by decide)).trans ((cutHi _ _ (by decide)).trans ((cutHi _ _ (by decide)).trans (cutAll _))))))
  refine decode_of w _ 0x47#7 f0 (by decide) (by decide) ?_ (unpk_no f0 (by decide)) hw
  rw [raw_Vmask f0]
  simp [decodeVmask, f7, f12, f17, f22, f27]

theorem vclt (d : BitVec 5) (a : BitVec 5) (b : BitVec 5) (k : BitVec 5) : Statement (.vclt d a b k) := by
  intro w hw e
  replace e := Option.some.inj e
  have f0 : bits w 0 7 = 0x47#7 := e ▸ ((cutLo _ _ (by decide)).trans (cutAll _))
  have f7 : bits w 7 5 = d := e ▸ ((cutHi _ _ (by decide)).trans ((cutLo _ _ (by decide)).trans (cutAll _)))
  have f12 : bits w 12 5 = k := e ▸ ((cutHi _ _ (by decide)).trans ((cutHi _ _ (by decide)).trans ((cutLo _ _ (by decide)).trans (cutAll _))))
  have f17 : bits w 17 5 = a := e ▸ ((cutHi _ _ (by decide)).trans ((cutHi _ _ (by decide)).trans ((cutHi _ _ (by decide)).trans ((cutLo _ _ (by decide)).trans (cutAll _)))))
  have f22 : bits w 22 5 = b := e ▸ ((cutHi _ _ (by decide)).trans ((cutHi _ _ (by decide)).trans ((cutHi _ _ (by decide)).trans ((cutHi _ _ (by decide)).trans ((cutLo _ _ (by decide)).trans (cutAll _))))))
  have f27 : bits w 27 5 = 0x2#5 := e ▸ ((cutHi _ _ (by decide)).trans ((cutHi _ _ (by decide)).trans ((cutHi _ _ (by decide)).trans ((cutHi _ _ (by decide)).trans ((cutHi _ _ (by decide)).trans (cutAll _))))))
  refine decode_of w _ 0x47#7 f0 (by decide) (by decide) ?_ (unpk_no f0 (by decide)) hw
  rw [raw_Vmask f0]
  simp [decodeVmask, f7, f12, f17, f22, f27]

theorem vcle (d : BitVec 5) (a : BitVec 5) (b : BitVec 5) (k : BitVec 5) : Statement (.vcle d a b k) := by
  intro w hw e
  replace e := Option.some.inj e
  have f0 : bits w 0 7 = 0x47#7 := e ▸ ((cutLo _ _ (by decide)).trans (cutAll _))
  have f7 : bits w 7 5 = d := e ▸ ((cutHi _ _ (by decide)).trans ((cutLo _ _ (by decide)).trans (cutAll _)))
  have f12 : bits w 12 5 = k := e ▸ ((cutHi _ _ (by decide)).trans ((cutHi _ _ (by decide)).trans ((cutLo _ _ (by decide)).trans (cutAll _))))
  have f17 : bits w 17 5 = a := e ▸ ((cutHi _ _ (by decide)).trans ((cutHi _ _ (by decide)).trans ((cutHi _ _ (by decide)).trans ((cutLo _ _ (by decide)).trans (cutAll _)))))
  have f22 : bits w 22 5 = b := e ▸ ((cutHi _ _ (by decide)).trans ((cutHi _ _ (by decide)).trans ((cutHi _ _ (by decide)).trans ((cutHi _ _ (by decide)).trans ((cutLo _ _ (by decide)).trans (cutAll _))))))
  have f27 : bits w 27 5 = 0x3#5 := e ▸ ((cutHi _ _ (by decide)).trans ((cutHi _ _ (by decide)).trans ((cutHi _ _ (by decide)).trans ((cutHi _ _ (by decide)).trans ((cutHi _ _ (by decide)).trans (cutAll _))))))
  refine decode_of w _ 0x47#7 f0 (by decide) (by decide) ?_ (unpk_no f0 (by decide)) hw
  rw [raw_Vmask f0]
  simp [decodeVmask, f7, f12, f17, f22, f27]

theorem vcltz (d : BitVec 5) (a : BitVec 5) (b : BitVec 5) (k : BitVec 5) : Statement (.vcltz d a b k) := by
  intro w hw e
  replace e := Option.some.inj e
  have f0 : bits w 0 7 = 0x47#7 := e ▸ ((cutLo _ _ (by decide)).trans (cutAll _))
  have f7 : bits w 7 5 = d := e ▸ ((cutHi _ _ (by decide)).trans ((cutLo _ _ (by decide)).trans (cutAll _)))
  have f12 : bits w 12 5 = k := e ▸ ((cutHi _ _ (by decide)).trans ((cutHi _ _ (by decide)).trans ((cutLo _ _ (by decide)).trans (cutAll _))))
  have f17 : bits w 17 5 = a := e ▸ ((cutHi _ _ (by decide)).trans ((cutHi _ _ (by decide)).trans ((cutHi _ _ (by decide)).trans ((cutLo _ _ (by decide)).trans (cutAll _)))))
  have f22 : bits w 22 5 = b := e ▸ ((cutHi _ _ (by decide)).trans ((cutHi _ _ (by decide)).trans ((cutHi _ _ (by decide)).trans ((cutHi _ _ (by decide)).trans ((cutLo _ _ (by decide)).trans (cutAll _))))))
  have f27 : bits w 27 5 = 0x4#5 := e ▸ ((cutHi _ _ (by decide)).trans ((cutHi _ _ (by decide)).trans ((cutHi _ _ (by decide)).trans ((cutHi _ _ (by decide)).trans ((cutHi _ _ (by decide)).trans (cutAll _))))))
  refine decode_of w _ 0x47#7 f0 (by decide) (by decide) ?_ (unpk_no f0 (by decide)) hw
  rw [raw_Vmask f0]
  simp [decodeVmask, f7, f12, f17, f22, f27]

theorem vclez (d : BitVec 5) (a : BitVec 5) (b : BitVec 5) (k : BitVec 5) : Statement (.vclez d a b k) := by
  intro w hw e
  replace e := Option.some.inj e
  have f0 : bits w 0 7 = 0x47#7 := e ▸ ((cutLo _ _ (by decide)).trans (cutAll _))
  have f7 : bits w 7 5 = d := e ▸ ((cutHi _ _ (by decide)).trans ((cutLo _ _ (by decide)).trans (cutAll _)))
  have f12 : bits w 12 5 = k := e ▸ ((cutHi _ _ (by decide)).trans ((cutHi _ _ (by decide)).trans ((cutLo _ _ (by decide)).trans (cutAll _))))
  have f17 : bits w 17 5 = a := e ▸ ((cutHi _ _ (by decide)).trans ((cutHi _ _ (by decide)).trans ((cutHi _ _ (by decide)).trans ((cutLo _ _ (by decide)).trans (cutAll _)))))
  have f22 : bits w 22 5 = b := e ▸ ((cutHi _ _ (by decide)).trans ((cutHi _ _ (by decide)).trans ((cutHi _ _ (by decide)).trans ((cutHi _ _ (by decide)).trans ((cutLo _ _ (by decide)).trans (cutAll _))))))
  have f27 : bits w 27 5 = 0x5#5 := e ▸ ((cutHi _ _ (by decide)).trans ((cutHi _ _ (by decide)).trans ((cutHi _ _ (by decide)).trans ((cutHi _ _ (by decide)).trans ((cutHi _ _ (by decide)).trans (cutAll _))))))
  refine decode_of w _ 0x47#7 f0 (by decide) (by decide) ?_ (unpk_no f0 (by decide)) hw
  rw [raw_Vmask f0]
  simp [decodeVmask, f7, f12, f17, f22, f27]

theorem vcun (d : BitVec 5) (a : BitVec 5) (b : BitVec 5) (k : BitVec 5) : Statement (.vcun d a b k) := by
  intro w hw e
  replace e := Option.some.inj e
  have f0 : bits w 0 7 = 0x47#7 := e ▸ ((cutLo _ _ (by decide)).trans (cutAll _))
  have f7 : bits w 7 5 = d := e ▸ ((cutHi _ _ (by decide)).trans ((cutLo _ _ (by decide)).trans (cutAll _)))
  have f12 : bits w 12 5 = k := e ▸ ((cutHi _ _ (by decide)).trans ((cutHi _ _ (by decide)).trans ((cutLo _ _ (by decide)).trans (cutAll _))))
  have f17 : bits w 17 5 = a := e ▸ ((cutHi _ _ (by decide)).trans ((cutHi _ _ (by decide)).trans ((cutHi _ _ (by decide)).trans ((cutLo _ _ (by decide)).trans (cutAll _)))))
  have f22 : bits w 22 5 = b := e ▸ ((cutHi _ _ (by decide)).trans ((cutHi _ _ (by decide)).trans ((cutHi _ _ (by decide)).trans ((cutHi _ _ (by decide)).trans ((cutLo _ _ (by decide)).trans (cutAll _))))))
  have f27 : bits w 27 5 = 0x6#5 := e ▸ ((cutHi _ _ (by decide)).trans ((cutHi _ _ (by decide)).trans ((cutHi _ _ (by decide)).trans ((cutHi _ _ (by decide)).trans ((cutHi _ _ (by decide)).trans (cutAll _))))))
  refine decode_of w _ 0x47#7 f0 (by decide) (by decide) ?_ (unpk_no f0 (by decide)) hw
  rw [raw_Vmask f0]
  simp [decodeVmask, f7, f12, f17, f22, f27]

theorem vceqS (d : BitVec 5) (a : BitVec 5) (b : BitVec 5) (k : BitVec 5) : Statement (.vceqS d a b k) := by
  intro w hw e
  replace e := Option.some.inj e
  have f0 : bits w 0 7 = 0x47#7 := e ▸ ((cutLo _ _ (by decide)).trans (cutAll _))
  have f7 : bits w 7 5 = d := e ▸ ((cutHi _ _ (by decide)).trans ((cutLo _ _ (by decide)).trans (cutAll _)))
  have f12 : bits w 12 5 = k := e ▸ ((cutHi _ _ (by decide)).trans ((cutHi _ _ (by decide)).trans ((cutLo _ _ (by decide)).trans (cutAll _))))
  have f17 : bits w 17 5 = a := e ▸ ((cutHi _ _ (by decide)).trans ((cutHi _ _ (by decide)).trans ((cutHi _ _ (by decide)).trans ((cutLo _ _ (by decide)).trans (cutAll _)))))
  have f22 : bits w 22 5 = b := e ▸ ((cutHi _ _ (by decide)).trans ((cutHi _ _ (by decide)).trans ((cutHi _ _ (by decide)).trans ((cutHi _ _ (by decide)).trans ((cutLo _ _ (by decide)).trans (cutAll _))))))
  have f27 : bits w 27 5 = 0x8#5 := e ▸ ((cutHi _ _ (by decide)).trans ((cutHi _ _ (by decide)).trans ((cutHi _ _ (by decide)).trans ((cutHi _ _ (by decide)).trans ((cutHi _ _ (by decide)).trans (cutAll _))))))
  refine decode_of w _ 0x47#7 f0 (by decide) (by decide) ?_ (unpk_no f0 (by decide)) hw
  rw [raw_Vmask f0]
  simp [decodeVmask, f7, f12, f17, f22, f27]

theorem vcneS (d : BitVec 5) (a : BitVec 5) (b : BitVec 5) (k : BitVec 5) : Statement (.vcneS d a b k) := by
  intro w hw e
  replace e := Option.some.inj e
  have f0 : bits w 0 7 = 0x47#7 := e ▸ ((cutLo _ _ (by decide)).trans (cutAll _))
  have f7 : bits w 7 5 = d := e ▸ ((cutHi _ _ (by decide)).trans ((cutLo _ _ (by decide)).trans (cutAll _)))
  have f12 : bits w 12 5 = k := e ▸ ((cutHi _ _ (by decide)).trans ((cutHi _ _ (by decide)).trans ((cutLo _ _ (by decide)).trans (cutAll _))))
  have f17 : bits w 17 5 = a := e ▸ ((cutHi _ _ (by decide)).trans ((cutHi _ _ (by decide)).trans ((cutHi _ _ (by decide)).trans ((cutLo _ _ (by decide)).trans (cutAll _)))))
  have f22 : bits w 22 5 = b := e ▸ ((cutHi _ _ (by decide)).trans ((cutHi _ _ (by decide)).trans ((cutHi _ _ (by decide)).trans ((cutHi _ _ (by decide)).trans ((cutLo _ _ (by decide)).trans (cutAll _))))))
  have f27 : bits w 27 5 = 0x9#5 := e ▸ ((cutHi _ _ (by decide)).trans ((cutHi _ _ (by decide)).trans ((cutHi _ _ (by decide)).trans ((cutHi _ _ (by decide)).trans ((cutHi _ _ (by decide)).trans (cutAll _))))))
  refine decode_of w _ 0x47#7 f0 (by decide) (by decide) ?_ (unpk_no f0 (by decide)) hw
  rw [raw_Vmask f0]
  simp [decodeVmask, f7, f12, f17, f22, f27]

theorem vcltS (d : BitVec 5) (a : BitVec 5) (b : BitVec 5) (k : BitVec 5) : Statement (.vcltS d a b k) := by
  intro w hw e
  replace e := Option.some.inj e
  have f0 : bits w 0 7 = 0x47#7 := e ▸ ((cutLo _ _ (by decide)).trans (cutAll _))
  have f7 : bits w 7 5 = d := e ▸ ((cutHi _ _ (by decide)).trans ((cutLo _ _ (by decide)).trans (cutAll _)))
  have f12 : bits w 12 5 = k := e ▸ ((cutHi _ _ (by decide)).trans ((cutHi _ _ (by decide)).trans ((cutLo _ _ (by decide)).trans (cutAll _))))
  have f17 : bits w 17 5 = a := e ▸ ((cutHi _ _ (by decide)).trans ((cutHi _ _ (by decide)).trans ((cutHi _ _ (by decide)).trans ((cutLo _ _ (by decide)).trans (cutAll _)))))
  have f22 : bits w 22 5 = b := e ▸ ((cutHi _ _ (by decide)).trans ((cutHi _ _ (by decide)).trans ((cutHi _ _ (by decide)).trans ((cutHi _ _ (by decide)).trans ((cutLo _ _ (by decide)).trans (cutAll _))))))
  have f27 : bits w 27 5 = 0xA#5 := e ▸ ((cutHi _ _ (by decide)).trans ((cutHi _ _ (by decide)).trans ((cutHi _ _ (by decide)).trans ((cutHi _ _ (by decide)).trans ((cutHi _ _ (by decide)).trans (cutAll _))))))
  refine decode_of w _ 0x47#7 f0 (by decide) (by decide) ?_ (unpk_no f0 (by decide)) hw
  rw [raw_Vmask f0]
  simp [decodeVmask, f7, f12, f17, f22, f27]

theorem vcleS (d : BitVec 5) (a : BitVec 5) (b : BitVec 5) (k : BitVec 5) : Statement (.vcleS d a b k) := by
  intro w hw e
  replace e := Option.some.inj e
  have f0 : bits w 0 7 = 0x47#7 := e ▸ ((cutLo _ _ (by decide)).trans (cutAll _))
  have f7 : bits w 7 5 = d := e ▸ ((cutHi _ _ (by decide)).trans ((cutLo _ _ (by decide)).trans (cutAll _)))
  have f12 : bits w 12 5 = k := e ▸ ((cutHi _ _ (by decide)).trans ((cutHi _ _ (by decide)).trans ((cutLo _ _ (by decide)).trans (cutAll _))))
  have f17 : bits w 17 5 = a := e ▸ ((cutHi _ _ (by decide)).trans ((cutHi _ _ (by decide)).trans ((cutHi _ _ (by decide)).trans ((cutLo _ _ (by decide)).trans (cutAll _)))))
  have f22 : bits w 22 5 = b := e ▸ ((cutHi _ _ (by decide)).trans ((cutHi _ _ (by decide)).trans ((cutHi _ _ (by decide)).trans ((cutHi _ _ (by decide)).trans ((cutLo _ _ (by decide)).trans (cutAll _))))))
  have f27 : bits w 27 5 = 0xB#5 := e ▸ ((cutHi _ _ (by decide)).trans ((cutHi _ _ (by decide)).trans ((cutHi _ _ (by decide)).trans ((cutHi _ _ (by decide)).trans ((cutHi _ _ (by decide)).trans (cutAll _))))))
  refine decode_of w _ 0x47#7 f0 (by decide) (by decide) ?_ (unpk_no f0 (by decide)) hw
  rw [raw_Vmask f0]
  simp [decodeVmask, f7, f12, f17, f22, f27]

theorem vcgtS (d : BitVec 5) (a : BitVec 5) (b : BitVec 5) (k : BitVec 5) : Statement (.vcgtS d a b k) := by
  intro w hw e
  replace e := Option.some.inj e
  have f0 : bits w 0 7 = 0x47#7 := e ▸ ((cutLo _ _ (by decide)).trans (cutAll _))
  have f7 : bits w 7 5 = d := e ▸ ((cutHi _ _ (by decide)).trans ((cutLo _ _ (by decide)).trans (cutAll _)))
  have f12 : bits w 12 5 = k := e ▸ ((cutHi _ _ (by decide)).trans ((cutHi _ _ (by decide)).trans ((cutLo _ _ (by decide)).trans (cutAll _))))
  have f17 : bits w 17 5 = a := e ▸ ((cutHi _ _ (by decide)).trans ((cutHi _ _ (by decide)).trans ((cutHi _ _ (by decide)).trans ((cutLo _ _ (by decide)).trans (cutAll _)))))
  have f22 : bits w 22 5 = b := e ▸ ((cutHi _ _ (by decide)).trans ((cutHi _ _ (by decide)).trans ((cutHi _ _ (by decide)).trans ((cutHi _ _ (by decide)).trans ((cutLo _ _ (by decide)).trans (cutAll _))))))
  have f27 : bits w 27 5 = 0xC#5 := e ▸ ((cutHi _ _ (by decide)).trans ((cutHi _ _ (by decide)).trans ((cutHi _ _ (by decide)).trans ((cutHi _ _ (by decide)).trans ((cutHi _ _ (by decide)).trans (cutAll _))))))
  refine decode_of w _ 0x47#7 f0 (by decide) (by decide) ?_ (unpk_no f0 (by decide)) hw
  rw [raw_Vmask f0]
  simp [decodeVmask, f7, f12, f17, f22, f27]

theorem vcgeS (d : BitVec 5) (a : BitVec 5) (b : BitVec 5) (k : BitVec 5) : Statement (.vcgeS d a b k) := by
  intro w hw e
  replace e := Option.some.inj e
  have f0 : bits w 0 7 = 0x47#7 := e ▸ ((cutLo _ _ (by decide)).trans (cutAll _))
  have f7 : bits w 7 5 = d := e ▸ ((cutHi _ _ (by decide)).trans ((cutLo _ _ (by decide)).trans (cutAll _)))
  have f12 : bits w 12 5 = k := e ▸ ((cutHi _ _ (by decide)).trans ((cutHi _ _ (by decide)).trans ((cutLo _ _ (by decide)).trans (cutAll _))))
  have f17 : bits w 17 5 = a := e ▸ ((cutHi _ _ (by decide)).trans ((cutHi _ _ (by decide)).trans ((cutHi _ _ (by decide)).trans ((cutLo _ _ (by decide)).trans (cutAll _)))))
  have f22 : bits w 22 5 = b := e ▸ ((cutHi _ _ (by decide)).trans ((cutHi _ _ (by decide)).trans ((cutHi _ _ (by decide)).trans ((cutHi _ _ (by decide)).trans ((cutLo _ _ (by decide)).trans (cutAll _))))))
  have f27 : bits w 27 5 = 0xD#5 := e ▸ ((cutHi _ _ (by decide)).trans ((cutHi _ _ (by decide)).trans ((cutHi _ _ (by decide)).trans ((cutHi _ _ (by decide)).trans ((cutHi _ _ (by decide)).trans (cutAll _))))))
  refine decode_of w _ 0x47#7 f0 (by decide) (by decide) ?_ (unpk_no f0 (by decide)) hw
  rw [raw_Vmask f0]
  simp [decodeVmask, f7, f12, f17, f22, f27]

theorem kand (d : BitVec 5) (a : BitVec 5) (b : BitVec 5) (k : BitVec 5) : Statement (.kand d a b k) := by
  intro w hw e
  replace e := Option.some.inj e
  have f0 : bits w 0 7 = 0x47#7 := e ▸ ((cutLo _ _ (by decide)).trans (cutAll _))
  have f7 : bits w 7 5 = d := e ▸ ((cutHi _ _ (by decide)).trans ((cutLo _ _ (by decide)).trans (cutAll _)))
  have f12 : bits w 12 5 = k := e ▸ ((cutHi _ _ (by decide)).trans ((cutHi _ _ (by decide)).trans ((cutLo _ _ (by decide)).trans (cutAll _))))
  have f17 : bits w 17 5 = a := e ▸ ((cutHi _ _ (by decide)).trans ((cutHi _ _ (by decide)).trans ((cutHi _ _ (by decide)).trans ((cutLo _ _ (by decide)).trans (cutAll _)))))
  have f22 : bits w 22 5 = b := e ▸ ((cutHi _ _ (by decide)).trans ((cutHi _ _ (by decide)).trans ((cutHi _ _ (by decide)).trans ((cutHi _ _ (by decide)).trans ((cutLo _ _ (by decide)).trans (cutAll _))))))
  have f27 : bits w 27 5 = 0x10#5 := e ▸ ((cutHi _ _ (by decide)).trans ((cutHi _ _ (by decide)).trans ((cutHi _ _ (by decide)).trans ((cutHi _ _ (by decide)).trans ((cutHi _ _ (by decide)).trans (cutAll _))))))
  refine decode_of w _ 0x47#7 f0 (by decide) (by decide) ?_ (unpk_no f0 (by decide)) hw
  rw [raw_Vmask f0]
  simp [decodeVmask, f7, f12, f17, f22, f27]

theorem kor (d : BitVec 5) (a : BitVec 5) (b : BitVec 5) (k : BitVec 5) : Statement (.kor d a b k) := by
  intro w hw e
  replace e := Option.some.inj e
  have f0 : bits w 0 7 = 0x47#7 := e ▸ ((cutLo _ _ (by decide)).trans (cutAll _))
  have f7 : bits w 7 5 = d := e ▸ ((cutHi _ _ (by decide)).trans ((cutLo _ _ (by decide)).trans (cutAll _)))
  have f12 : bits w 12 5 = k := e ▸ ((cutHi _ _ (by decide)).trans ((cutHi _ _ (by decide)).trans ((cutLo _ _ (by decide)).trans (cutAll _))))
  have f17 : bits w 17 5 = a := e ▸ ((cutHi _ _ (by decide)).trans ((cutHi _ _ (by decide)).trans ((cutHi _ _ (by decide)).trans ((cutLo _ _ (by decide)).trans (cutAll _)))))
  have f22 : bits w 22 5 = b := e ▸ ((cutHi _ _ (by decide)).trans ((cutHi _ _ (by decide)).trans ((cutHi _ _ (by decide)).trans ((cutHi _ _ (by decide)).trans ((cutLo _ _ (by decide)).trans (cutAll _))))))
  have f27 : bits w 27 5 = 0x11#5 := e ▸ ((cutHi _ _ (by decide)).trans ((cutHi _ _ (by decide)).trans ((cutHi _ _ (by decide)).trans ((cutHi _ _ (by decide)).trans ((cutHi _ _ (by decide)).trans (cutAll _))))))
  refine decode_of w _ 0x47#7 f0 (by decide) (by decide) ?_ (unpk_no f0 (by decide)) hw
  rw [raw_Vmask f0]
  simp [decodeVmask, f7, f12, f17, f22, f27]

theorem kxor (d : BitVec 5) (a : BitVec 5) (b : BitVec 5) (k : BitVec 5) : Statement (.kxor d a b k) := by
  intro w hw e
  replace e := Option.some.inj e
  have f0 : bits w 0 7 = 0x47#7 := e ▸ ((cutLo _ _ (by decide)).trans (cutAll _))
  have f7 : bits w 7 5 = d := e ▸ ((cutHi _ _ (by decide)).trans ((cutLo _ _ (by decide)).trans (cutAll _)))
  have f12 : bits w 12 5 = k := e ▸ ((cutHi _ _ (by decide)).trans ((cutHi _ _ (by decide)).trans ((cutLo _ _ (by decide)).trans (cutAll _))))
  have f17 : bits w 17 5 = a := e ▸ ((cutHi _ _ (by decide)).trans ((cutHi _ _ (by decide)).trans ((cutHi _ _ (by decide)).trans ((cutLo _ _ (by decide)).trans (cutAll _)))))
  have f22 : bits w 22 5 = b := e ▸ ((cutHi _ _ (by decide)).trans ((cutHi _ _ (by decide)).trans ((cutHi _ _ (by decide)).trans ((cutHi _ _ (by decide)).trans ((cutLo _ _ (by decide)).trans (cutAll _))))))
  have f27 : bits w 27 5 = 0x12#5 := e ▸ ((cutHi _ _ (by decide)).trans ((cutHi _ _ (by decide)).trans ((cutHi _ _ (by decide)).trans ((cutHi _ _ (by decide)).trans ((cutHi _ _ (by decide)).trans (cutAll _))))))
  refine decode_of w _ 0x47#7 f0 (by decide) (by decide) ?_ (unpk_no f0 (by decide)) hw
  rw [raw_Vmask f0]
  simp [decodeVmask, f7, f12, f17, f22, f27]

theorem kandn (d : BitVec 5) (a : BitVec 5) (b : BitVec 5) (k : BitVec 5) : Statement (.kandn d a b k) := by
  intro w hw e
  replace e := Option.some.inj e
  have f0 : bits w 0 7 = 0x47#7 := e ▸ ((cutLo _ _ (by decide)).trans (cutAll _))
  have f7 : bits w 7 5 = d := e ▸ ((cutHi _ _ (by decide)).trans ((cutLo _ _ (by decide)).trans (cutAll _)))
  have f12 : bits w 12 5 = k := e ▸ ((cutHi _ _ (by decide)).trans ((cutHi _ _ (by decide)).trans ((cutLo _ _ (by decide)).trans (cutAll _))))
  have f17 : bits w 17 5 = a := e ▸ ((cutHi _ _ (by decide)).trans ((cutHi _ _ (by decide)).trans ((cutHi _ _ (by decide)).trans ((cutLo _ _ (by decide)).trans (cutAll _)))))
  have f22 : bits w 22 5 = b := e ▸ ((cutHi _ _ (by decide)).trans ((cutHi _ _ (by decide)).trans ((cutHi _ _ (by decide)).trans ((cutHi _ _ (by decide)).trans ((cutLo _ _ (by decide)).trans (cutAll _))))))
  have f27 : bits w 27 5 = 0x13#5 := e ▸ ((cutHi _ _ (by decide)).trans ((cutHi _ _ (by decide)).trans ((cutHi _ _ (by decide)).trans ((cutHi _ _ (by decide)).trans ((cutHi _ _ (by decide)).trans (cutAll _))))))
  refine decode_of w _ 0x47#7 f0 (by decide) (by decide) ?_ (unpk_no f0 (by decide)) hw
  rw [raw_Vmask f0]
  simp [decodeVmask, f7, f12, f17, f22, f27]

theorem knot (d : BitVec 5) (a : BitVec 5) (k : BitVec 5) : Statement (.knot d a k) := by
  intro w hw e
  replace e := Option.some.inj e
  have f0 : bits w 0 7 = 0x47#7 := e ▸ ((cutLo _ _ (by decide)).trans (cutAll _))
  have f7 : bits w 7 5 = d := e ▸ ((cutHi _ _ (by decide)).trans ((cutLo _ _ (by decide)).trans (cutAll _)))
  have f12 : bits w 12 5 = k := e ▸ ((cutHi _ _ (by decide)).trans ((cutHi _ _ (by decide)).trans ((cutLo _ _ (by decide)).trans (cutAll _))))
  have f17 : bits w 17 5 = a := e ▸ ((cutHi _ _ (by decide)).trans ((cutHi _ _ (by decide)).trans ((cutHi _ _ (by decide)).trans ((cutLo _ _ (by decide)).trans (cutAll _)))))
  have f22 : bits w 22 5 = 0x0#5 := e ▸ ((cutHi _ _ (by decide)).trans ((cutHi _ _ (by decide)).trans ((cutHi _ _ (by decide)).trans ((cutHi _ _ (by decide)).trans ((cutLo _ _ (by decide)).trans (cutAll _))))))
  have f27 : bits w 27 5 = 0x14#5 := e ▸ ((cutHi _ _ (by decide)).trans ((cutHi _ _ (by decide)).trans ((cutHi _ _ (by decide)).trans ((cutHi _ _ (by decide)).trans ((cutHi _ _ (by decide)).trans (cutAll _))))))
  refine decode_of w _ 0x47#7 f0 (by decide) (by decide) ?_ (unpk_no f0 (by decide)) hw
  rw [raw_Vmask f0]
  simp [decodeVmask, f7, f12, f17, f22, f27]

theorem kwhile (d : BitVec 5) (a : BitVec 5) (b : BitVec 5) : Statement (.kwhile d a b) := by
  intro w hw e
  replace e := Option.some.inj e
  have f0 : bits w 0 7 = 0x47#7 := e ▸ ((cutLo _ _ (by decide)).trans (cutAll _))
  have f7 : bits w 7 5 = d := e ▸ ((cutHi _ _ (by decide)).trans ((cutLo _ _ (by decide)).trans (cutAll _)))
  have f12 : bits w 12 5 = 0x1F#5 := e ▸ ((cutHi _ _ (by decide)).trans ((cutHi _ _ (by decide)).trans ((cutLo _ _ (by decide)).trans (cutAll _))))
  have f17 : bits w 17 5 = a := e ▸ ((cutHi _ _ (by decide)).trans ((cutHi _ _ (by decide)).trans ((cutHi _ _ (by decide)).trans ((cutLo _ _ (by decide)).trans (cutAll _)))))
  have f22 : bits w 22 5 = b := e ▸ ((cutHi _ _ (by decide)).trans ((cutHi _ _ (by decide)).trans ((cutHi _ _ (by decide)).trans ((cutHi _ _ (by decide)).trans ((cutLo _ _ (by decide)).trans (cutAll _))))))
  have f27 : bits w 27 5 = 0x15#5 := e ▸ ((cutHi _ _ (by decide)).trans ((cutHi _ _ (by decide)).trans ((cutHi _ _ (by decide)).trans ((cutHi _ _ (by decide)).trans ((cutHi _ _ (by decide)).trans (cutAll _))))))
  refine decode_of w _ 0x47#7 f0 (by decide) (by decide) ?_ (unpk_no f0 (by decide)) hw
  rw [raw_Vmask f0]
  simp [decodeVmask, f7, f12, f17, f22, f27]

theorem kset (d : BitVec 5) (k : BitVec 5) : Statement (.kset d k) := by
  intro w hw e
  replace e := Option.some.inj e
  have f0 : bits w 0 7 = 0x47#7 := e ▸ ((cutLo _ _ (by decide)).trans (cutAll _))
  have f7 : bits w 7 5 = d := e ▸ ((cutHi _ _ (by decide)).trans ((cutLo _ _ (by decide)).trans (cutAll _)))
  have f12 : bits w 12 5 = k := e ▸ ((cutHi _ _ (by decide)).trans ((cutHi _ _ (by decide)).trans ((cutLo _ _ (by decide)).trans (cutAll _))))
  have f17 : bits w 17 5 = 0x0#5 := e ▸ ((cutHi _ _ (by decide)).trans ((cutHi _ _ (by decide)).trans ((cutHi _ _ (by decide)).trans ((cutLo _ _ (by decide)).trans (cutAll _)))))
  have f22 : bits w 22 5 = 0x0#5 := e ▸ ((cutHi _ _ (by decide)).trans ((cutHi _ _ (by decide)).trans ((cutHi _ _ (by decide)).trans ((cutHi _ _ (by decide)).trans ((cutLo _ _ (by decide)).trans (cutAll _))))))
  have f27 : bits w 27 5 = 0x16#5 := e ▸ ((cutHi _ _ (by decide)).trans ((cutHi _ _ (by decide)).trans ((cutHi _ _ (by decide)).trans ((cutHi _ _ (by decide)).trans ((cutHi _ _ (by decide)).trans (cutAll _))))))
  refine decode_of w _ 0x47#7 f0 (by decide) (by decide) ?_ (unpk_no f0 (by decide)) hw
  rw [raw_Vmask f0]
  simp [decodeVmask, f7, f12, f17, f22, f27]

theorem kclr (d : BitVec 5) (k : BitVec 5) : Statement (.kclr d k) := by
  intro w hw e
  replace e := Option.some.inj e
  have f0 : bits w 0 7 = 0x47#7 := e ▸ ((cutLo _ _ (by decide)).trans (cutAll _))
  have f7 : bits w 7 5 = d := e ▸ ((cutHi _ _ (by decide)).trans ((cutLo _ _ (by decide)).trans (cutAll _)))
  have f12 : bits w 12 5 = k := e ▸ ((cutHi _ _ (by decide)).trans ((cutHi _ _ (by decide)).trans ((cutLo _ _ (by decide)).trans (cutAll _))))
  have f17 : bits w 17 5 = 0x0#5 := e ▸ ((cutHi _ _ (by decide)).trans ((cutHi _ _ (by decide)).trans ((cutHi _ _ (by decide)).trans ((cutLo _ _ (by decide)).trans (cutAll _)))))
  have f22 : bits w 22 5 = 0x0#5 := e ▸ ((cutHi _ _ (by decide)).trans ((cutHi _ _ (by decide)).trans ((cutHi _ _ (by decide)).trans ((cutHi _ _ (by decide)).trans ((cutLo _ _ (by decide)).trans (cutAll _))))))
  have f27 : bits w 27 5 = 0x17#5 := e ▸ ((cutHi _ _ (by decide)).trans ((cutHi _ _ (by decide)).trans ((cutHi _ _ (by decide)).trans ((cutHi _ _ (by decide)).trans ((cutHi _ _ (by decide)).trans (cutAll _))))))
  refine decode_of w _ 0x47#7 f0 (by decide) (by decide) ?_ (unpk_no f0 (by decide)) hw
  rw [raw_Vmask f0]
  simp [decodeVmask, f7, f12, f17, f22, f27]

theorem kcnt (d : BitVec 5) (a : BitVec 5) (k : BitVec 5) : Statement (.kcnt d a k) := by
  intro w hw e
  replace e := Option.some.inj e
  have f0 : bits w 0 7 = 0x47#7 := e ▸ ((cutLo _ _ (by decide)).trans (cutAll _))
  have f7 : bits w 7 5 = d := e ▸ ((cutHi _ _ (by decide)).trans ((cutLo _ _ (by decide)).trans (cutAll _)))
  have f12 : bits w 12 5 = k := e ▸ ((cutHi _ _ (by decide)).trans ((cutHi _ _ (by decide)).trans ((cutLo _ _ (by decide)).trans (cutAll _))))
  have f17 : bits w 17 5 = a := e ▸ ((cutHi _ _ (by decide)).trans ((cutHi _ _ (by decide)).trans ((cutHi _ _ (by decide)).trans ((cutLo _ _ (by decide)).trans (cutAll _)))))
  have f22 : bits w 22 5 = 0x0#5 := e ▸ ((cutHi _ _ (by decide)).trans ((cutHi _ _ (by decide)).trans ((cutHi _ _ (by decide)).trans ((cutHi _ _ (by decide)).trans ((cutLo _ _ (by decide)).trans (cutAll _))))))
  have f27 : bits w 27 5 = 0x18#5 := e ▸ ((cutHi _ _ (by decide)).trans ((cutHi _ _ (by decide)).trans ((cutHi _ _ (by decide)).trans ((cutHi _ _ (by decide)).trans ((cutHi _ _ (by decide)).trans (cutAll _))))))
  refine decode_of w _ 0x47#7 f0 (by decide) (by decide) ?_ (unpk_no f0 (by decide)) hw
  rw [raw_Vmask f0]
  simp [decodeVmask, f7, f12, f17, f22, f27]

theorem kfirst (d : BitVec 5) (a : BitVec 5) (k : BitVec 5) : Statement (.kfirst d a k) := by
  intro w hw e
  replace e := Option.some.inj e
  have f0 : bits w 0 7 = 0x47#7 := e ▸ ((cutLo _ _ (by decide)).trans (cutAll _))
  have f7 : bits w 7 5 = d := e ▸ ((cutHi _ _ (by decide)).trans ((cutLo _ _ (by decide)).trans (cutAll _)))
  have f12 : bits w 12 5 = k := e ▸ ((cutHi _ _ (by decide)).trans ((cutHi _ _ (by decide)).trans ((cutLo _ _ (by decide)).trans (cutAll _))))
  have f17 : bits w 17 5 = a := e ▸ ((cutHi _ _ (by decide)).trans ((cutHi _ _ (by decide)).trans ((cutHi _ _ (by decide)).trans ((cutLo _ _ (by decide)).trans (cutAll _)))))
  have f22 : bits w 22 5 = 0x0#5 := e ▸ ((cutHi _ _ (by decide)).trans ((cutHi _ _ (by decide)).trans ((cutHi _ _ (by decide)).trans ((cutHi _ _ (by decide)).trans ((cutLo _ _ (by decide)).trans (cutAll _))))))
  have f27 : bits w 27 5 = 0x19#5 := e ▸ ((cutHi _ _ (by decide)).trans ((cutHi _ _ (by decide)).trans ((cutHi _ _ (by decide)).trans ((cutHi _ _ (by decide)).trans ((cutHi _ _ (by decide)).trans (cutAll _))))))
  refine decode_of w _ 0x47#7 f0 (by decide) (by decide) ?_ (unpk_no f0 (by decide)) hw
  rw [raw_Vmask f0]
  simp [decodeVmask, f7, f12, f17, f22, f27]

theorem vbcast (d : BitVec 5) (a : BitVec 5) (k : BitVec 5) : Statement (.vbcast d a k) := by
  intro w hw e
  replace e := Option.some.inj e
  have f0 : bits w 0 7 = 0x4B#7 := e ▸ ((cutLo _ _ (by decide)).trans (cutAll _))
  have f7 : bits w 7 5 = d := e ▸ ((cutHi _ _ (by decide)).trans ((cutLo _ _ (by decide)).trans (cutAll _)))
  have f12 : bits w 12 5 = k := e ▸ ((cutHi _ _ (by decide)).trans ((cutHi _ _ (by decide)).trans ((cutLo _ _ (by decide)).trans (cutAll _))))
  have f17 : bits w 17 5 = a := e ▸ ((cutHi _ _ (by decide)).trans ((cutHi _ _ (by decide)).trans ((cutHi _ _ (by decide)).trans ((cutLo _ _ (by decide)).trans (cutAll _)))))
  have f22 : bits w 22 5 = 0x0#5 := e ▸ ((cutHi _ _ (by decide)).trans ((cutHi _ _ (by decide)).trans ((cutHi _ _ (by decide)).trans ((cutHi _ _ (by decide)).trans ((cutLo _ _ (by decide)).trans (cutAll _))))))
  have f27 : bits w 27 5 = 0x0#5 := e ▸ ((cutHi _ _ (by decide)).trans ((cutHi _ _ (by decide)).trans ((cutHi _ _ (by decide)).trans ((cutHi _ _ (by decide)).trans ((cutHi _ _ (by decide)).trans (cutAll _))))))
  refine decode_of w _ 0x4B#7 f0 (by decide) (by decide) ?_ (unpk_no f0 (by decide)) hw
  rw [raw_Vperm f0]
  simp [decodeVperm, f7, f12, f17, f22, f27]

theorem vslup (d : BitVec 5) (a : BitVec 5) (b : BitVec 5) (k : BitVec 5) : Statement (.vslup d a b k) := by
  intro w hw e
  replace e := Option.some.inj e
  have f0 : bits w 0 7 = 0x4B#7 := e ▸ ((cutLo _ _ (by decide)).trans (cutAll _))
  have f7 : bits w 7 5 = d := e ▸ ((cutHi _ _ (by decide)).trans ((cutLo _ _ (by decide)).trans (cutAll _)))
  have f12 : bits w 12 5 = k := e ▸ ((cutHi _ _ (by decide)).trans ((cutHi _ _ (by decide)).trans ((cutLo _ _ (by decide)).trans (cutAll _))))
  have f17 : bits w 17 5 = a := e ▸ ((cutHi _ _ (by decide)).trans ((cutHi _ _ (by decide)).trans ((cutHi _ _ (by decide)).trans ((cutLo _ _ (by decide)).trans (cutAll _)))))
  have f22 : bits w 22 5 = b := e ▸ ((cutHi _ _ (by decide)).trans ((cutHi _ _ (by decide)).trans ((cutHi _ _ (by decide)).trans ((cutHi _ _ (by decide)).trans ((cutLo _ _ (by decide)).trans (cutAll _))))))
  have f27 : bits w 27 5 = 0x1#5 := e ▸ ((cutHi _ _ (by decide)).trans ((cutHi _ _ (by decide)).trans ((cutHi _ _ (by decide)).trans ((cutHi _ _ (by decide)).trans ((cutHi _ _ (by decide)).trans (cutAll _))))))
  refine decode_of w _ 0x4B#7 f0 (by decide) (by decide) ?_ (unpk_no f0 (by decide)) hw
  rw [raw_Vperm f0]
  simp [decodeVperm, f7, f12, f17, f22, f27]

theorem vsldn (d : BitVec 5) (a : BitVec 5) (b : BitVec 5) (k : BitVec 5) : Statement (.vsldn d a b k) := by
  intro w hw e
  replace e := Option.some.inj e
  have f0 : bits w 0 7 = 0x4B#7 := e ▸ ((cutLo _ _ (by decide)).trans (cutAll _))
  have f7 : bits w 7 5 = d := e ▸ ((cutHi _ _ (by decide)).trans ((cutLo _ _ (by decide)).trans (cutAll _)))
  have f12 : bits w 12 5 = k := e ▸ ((cutHi _ _ (by decide)).trans ((cutHi _ _ (by decide)).trans ((cutLo _ _ (by decide)).trans (cutAll _))))
  have f17 : bits w 17 5 = a := e ▸ ((cutHi _ _ (by decide)).trans ((cutHi _ _ (by decide)).trans ((cutHi _ _ (by decide)).trans ((cutLo _ _ (by decide)).trans (cutAll _)))))
  have f22 : bits w 22 5 = b := e ▸ ((cutHi _ _ (by decide)).trans ((cutHi _ _ (by decide)).trans ((cutHi _ _ (by decide)).trans ((cutHi _ _ (by decide)).trans ((cutLo _ _ (by decide)).trans (cutAll _))))))
  have f27 : bits w 27 5 = 0x2#5 := e ▸ ((cutHi _ _ (by decide)).trans ((cutHi _ _ (by decide)).trans ((cutHi _ _ (by decide)).trans ((cutHi _ _ (by decide)).trans ((cutHi _ _ (by decide)).trans (cutAll _))))))
  refine decode_of w _ 0x4B#7 f0 (by decide) (by decide) ?_ (unpk_no f0 (by decide)) hw
  rw [raw_Vperm f0]
  simp [decodeVperm, f7, f12, f17, f22, f27]

theorem vperm (d : BitVec 5) (a : BitVec 5) (b : BitVec 5) (k : BitVec 5) : Statement (.vperm d a b k) := by
  intro w hw e
  replace e := Option.some.inj e
  have f0 : bits w 0 7 = 0x4B#7 := e ▸ ((cutLo _ _ (by decide)).trans (cutAll _))
  have f7 : bits w 7 5 = d := e ▸ ((cutHi _ _ (by decide)).trans ((cutLo _ _ (by decide)).trans (cutAll _)))
  have f12 : bits w 12 5 = k := e ▸ ((cutHi _ _ (by decide)).trans ((cutHi _ _ (by decide)).trans ((cutLo _ _ (by decide)).trans (cutAll _))))
  have f17 : bits w 17 5 = a := e ▸ ((cutHi _ _ (by decide)).trans ((cutHi _ _ (by decide)).trans ((cutHi _ _ (by decide)).trans ((cutLo _ _ (by decide)).trans (cutAll _)))))
  have f22 : bits w 22 5 = b := e ▸ ((cutHi _ _ (by decide)).trans ((cutHi _ _ (by decide)).trans ((cutHi _ _ (by decide)).trans ((cutHi _ _ (by decide)).trans ((cutLo _ _ (by decide)).trans (cutAll _))))))
  have f27 : bits w 27 5 = 0x3#5 := e ▸ ((cutHi _ _ (by decide)).trans ((cutHi _ _ (by decide)).trans ((cutHi _ _ (by decide)).trans ((cutHi _ _ (by decide)).trans ((cutHi _ _ (by decide)).trans (cutAll _))))))
  refine decode_of w _ 0x4B#7 f0 (by decide) (by decide) ?_ (unpk_no f0 (by decide)) hw
  rw [raw_Vperm f0]
  simp [decodeVperm, f7, f12, f17, f22, f27]

theorem vzipl (d : BitVec 5) (a : BitVec 5) (b : BitVec 5) (k : BitVec 5) : Statement (.vzipl d a b k) := by
  intro w hw e
  replace e := Option.some.inj e
  have f0 : bits w 0 7 = 0x4B#7 := e ▸ ((cutLo _ _ (by decide)).trans (cutAll _))
  have f7 : bits w 7 5 = d := e ▸ ((cutHi _ _ (by decide)).trans ((cutLo _ _ (by decide)).trans (cutAll _)))
  have f12 : bits w 12 5 = k := e ▸ ((cutHi _ _ (by decide)).trans ((cutHi _ _ (by decide)).trans ((cutLo _ _ (by decide)).trans (cutAll _))))
  have f17 : bits w 17 5 = a := e ▸ ((cutHi _ _ (by decide)).trans ((cutHi _ _ (by decide)).trans ((cutHi _ _ (by decide)).trans ((cutLo _ _ (by decide)).trans (cutAll _)))))
  have f22 : bits w 22 5 = b := e ▸ ((cutHi _ _ (by decide)).trans ((cutHi _ _ (by decide)).trans ((cutHi _ _ (by decide)).trans ((cutHi _ _ (by decide)).trans ((cutLo _ _ (by decide)).trans (cutAll _))))))
  have f27 : bits w 27 5 = 0x4#5 := e ▸ ((cutHi _ _ (by decide)).trans ((cutHi _ _ (by decide)).trans ((cutHi _ _ (by decide)).trans ((cutHi _ _ (by decide)).trans ((cutHi _ _ (by decide)).trans (cutAll _))))))
  refine decode_of w _ 0x4B#7 f0 (by decide) (by decide) ?_ (unpk_no f0 (by decide)) hw
  rw [raw_Vperm f0]
  simp [decodeVperm, f7, f12, f17, f22, f27]

theorem vziph (d : BitVec 5) (a : BitVec 5) (b : BitVec 5) (k : BitVec 5) : Statement (.vziph d a b k) := by
  intro w hw e
  replace e := Option.some.inj e
  have f0 : bits w 0 7 = 0x4B#7 := e ▸ ((cutLo _ _ (by decide)).trans (cutAll _))
  have f7 : bits w 7 5 = d := e ▸ ((cutHi _ _ (by decide)).trans ((cutLo _ _ (by decide)).trans (cutAll _)))
  have f12 : bits w 12 5 = k := e ▸ ((cutHi _ _ (by decide)).trans ((cutHi _ _ (by decide)).trans ((cutLo _ _ (by decide)).trans (cutAll _))))
  have f17 : bits w 17 5 = a := e ▸ ((cutHi _ _ (by decide)).trans ((cutHi _ _ (by decide)).trans ((cutHi _ _ (by decide)).trans ((cutLo _ _ (by decide)).trans (cutAll _)))))
  have f22 : bits w 22 5 = b := e ▸ ((cutHi _ _ (by decide)).trans ((cutHi _ _ (by decide)).trans ((cutHi _ _ (by decide)).trans ((cutHi _ _ (by decide)).trans ((cutLo _ _ (by decide)).trans (cutAll _))))))
  have f27 : bits w 27 5 = 0x5#5 := e ▸ ((cutHi _ _ (by decide)).trans ((cutHi _ _ (by decide)).trans ((cutHi _ _ (by decide)).trans ((cutHi _ _ (by decide)).trans ((cutHi _ _ (by decide)).trans (cutAll _))))))
  refine decode_of w _ 0x4B#7 f0 (by decide) (by decide) ?_ (unpk_no f0 (by decide)) hw
  rw [raw_Vperm f0]
  simp [decodeVperm, f7, f12, f17, f22, f27]

theorem vunzpe (d : BitVec 5) (a : BitVec 5) (b : BitVec 5) (k : BitVec 5) : Statement (.vunzpe d a b k) := by
  intro w hw e
  replace e := Option.some.inj e
  have f0 : bits w 0 7 = 0x4B#7 := e ▸ ((cutLo _ _ (by decide)).trans (cutAll _))
  have f7 : bits w 7 5 = d := e ▸ ((cutHi _ _ (by decide)).trans ((cutLo _ _ (by decide)).trans (cutAll _)))
  have f12 : bits w 12 5 = k := e ▸ ((cutHi _ _ (by decide)).trans ((cutHi _ _ (by decide)).trans ((cutLo _ _ (by decide)).trans (cutAll _))))
  have f17 : bits w 17 5 = a := e ▸ ((cutHi _ _ (by decide)).trans ((cutHi _ _ (by decide)).trans ((cutHi _ _ (by decide)).trans ((cutLo _ _ (by decide)).trans (cutAll _)))))
  have f22 : bits w 22 5 = b := e ▸ ((cutHi _ _ (by decide)).trans ((cutHi _ _ (by decide)).trans ((cutHi _ _ (by decide)).trans ((cutHi _ _ (by decide)).trans ((cutLo _ _ (by decide)).trans (cutAll _))))))
  have f27 : bits w 27 5 = 0x6#5 := e ▸ ((cutHi _ _ (by decide)).trans ((cutHi _ _ (by decide)).trans ((cutHi _ _ (by decide)).trans ((cutHi _ _ (by decide)).trans ((cutHi _ _ (by decide)).trans (cutAll _))))))
  refine decode_of w _ 0x4B#7 f0 (by decide) (by decide) ?_ (unpk_no f0 (by decide)) hw
  rw [raw_Vperm f0]
  simp [decodeVperm, f7, f12, f17, f22, f27]

theorem vunzpo (d : BitVec 5) (a : BitVec 5) (b : BitVec 5) (k : BitVec 5) : Statement (.vunzpo d a b k) := by
  intro w hw e
  replace e := Option.some.inj e
  have f0 : bits w 0 7 = 0x4B#7 := e ▸ ((cutLo _ _ (by decide)).trans (cutAll _))
  have f7 : bits w 7 5 = d := e ▸ ((cutHi _ _ (by decide)).trans ((cutLo _ _ (by decide)).trans (cutAll _)))
  have f12 : bits w 12 5 = k := e ▸ ((cutHi _ _ (by decide)).trans ((cutHi _ _ (by decide)).trans ((cutLo _ _ (by decide)).trans (cutAll _))))
  have f17 : bits w 17 5 = a := e ▸ ((cutHi _ _ (by decide)).trans ((cutHi _ _ (by decide)).trans ((cutHi _ _ (by decide)).trans ((cutLo _ _ (by decide)).trans (cutAll _)))))
  have f22 : bits w 22 5 = b := e ▸ ((cutHi _ _ (by decide)).trans ((cutHi _ _ (by decide)).trans ((cutHi _ _ (by decide)).trans ((cutHi _ _ (by decide)).trans ((cutLo _ _ (by decide)).trans (cutAll _))))))
  have f27 : bits w 27 5 = 0x7#5 := e ▸ ((cutHi _ _ (by decide)).trans ((cutHi _ _ (by decide)).trans ((cutHi _ _ (by decide)).trans ((cutHi _ _ (by decide)).trans ((cutHi _ _ (by decide)).trans (cutAll _))))))
  refine decode_of w _ 0x4B#7 f0 (by decide) (by decide) ?_ (unpk_no f0 (by decide)) hw
  rw [raw_Vperm f0]
  simp [decodeVperm, f7, f12, f17, f22, f27]

theorem vcmprs (d : BitVec 5) (a : BitVec 5) (k : BitVec 5) : Statement (.vcmprs d a k) := by
  intro w hw e
  replace e := Option.some.inj e
  have f0 : bits w 0 7 = 0x4B#7 := e ▸ ((cutLo _ _ (by decide)).trans (cutAll _))
  have f7 : bits w 7 5 = d := e ▸ ((cutHi _ _ (by decide)).trans ((cutLo _ _ (by decide)).trans (cutAll _)))
  have f12 : bits w 12 5 = k := e ▸ ((cutHi _ _ (by decide)).trans ((cutHi _ _ (by decide)).trans ((cutLo _ _ (by decide)).trans (cutAll _))))
  have f17 : bits w 17 5 = a := e ▸ ((cutHi _ _ (by decide)).trans ((cutHi _ _ (by decide)).trans ((cutHi _ _ (by decide)).trans ((cutLo _ _ (by decide)).trans (cutAll _)))))
  have f22 : bits w 22 5 = 0x0#5 := e ▸ ((cutHi _ _ (by decide)).trans ((cutHi _ _ (by decide)).trans ((cutHi _ _ (by decide)).trans ((cutHi _ _ (by decide)).trans ((cutLo _ _ (by decide)).trans (cutAll _))))))
  have f27 : bits w 27 5 = 0x8#5 := e ▸ ((cutHi _ _ (by decide)).trans ((cutHi _ _ (by decide)).trans ((cutHi _ _ (by decide)).trans ((cutHi _ _ (by decide)).trans ((cutHi _ _ (by decide)).trans (cutAll _))))))
  refine decode_of w _ 0x4B#7 f0 (by decide) (by decide) ?_ (unpk_no f0 (by decide)) hw
  rw [raw_Vperm f0]
  simp [decodeVperm, f7, f12, f17, f22, f27]

theorem vexpnd (d : BitVec 5) (a : BitVec 5) (k : BitVec 5) : Statement (.vexpnd d a k) := by
  intro w hw e
  replace e := Option.some.inj e
  have f0 : bits w 0 7 = 0x4B#7 := e ▸ ((cutLo _ _ (by decide)).trans (cutAll _))
  have f7 : bits w 7 5 = d := e ▸ ((cutHi _ _ (by decide)).trans ((cutLo _ _ (by decide)).trans (cutAll _)))
  have f12 : bits w 12 5 = k := e ▸ ((cutHi _ _ (by decide)).trans ((cutHi _ _ (by decide)).trans ((cutLo _ _ (by decide)).trans (cutAll _))))
  have f17 : bits w 17 5 = a := e ▸ ((cutHi _ _ (by decide)).trans ((cutHi _ _ (by decide)).trans ((cutHi _ _ (by decide)).trans ((cutLo _ _ (by decide)).trans (cutAll _)))))
  have f22 : bits w 22 5 = 0x0#5 := e ▸ ((cutHi _ _ (by decide)).trans ((cutHi _ _ (by decide)).trans ((cutHi _ _ (by decide)).trans ((cutHi _ _ (by decide)).trans ((cutLo _ _ (by decide)).trans (cutAll _))))))
  have f27 : bits w 27 5 = 0x9#5 := e ▸ ((cutHi _ _ (by decide)).trans ((cutHi _ _ (by decide)).trans ((cutHi _ _ (by decide)).trans ((cutHi _ _ (by decide)).trans ((cutHi _ _ (by decide)).trans (cutAll _))))))
  refine decode_of w _ 0x4B#7 f0 (by decide) (by decide) ?_ (unpk_no f0 (by decide)) hw
  rw [raw_Vperm f0]
  simp [decodeVperm, f7, f12, f17, f22, f27]

theorem vext (d : BitVec 5) (a : BitVec 5) (b : BitVec 5) : Statement (.vext d a b) := by
  intro w hw e
  replace e := Option.some.inj e
  have f0 : bits w 0 7 = 0x4B#7 := e ▸ ((cutLo _ _ (by decide)).trans (cutAll _))
  have f7 : bits w 7 5 = d := e ▸ ((cutHi _ _ (by decide)).trans ((cutLo _ _ (by decide)).trans (cutAll _)))
  have f12 : bits w 12 5 = 0x1F#5 := e ▸ ((cutHi _ _ (by decide)).trans ((cutHi _ _ (by decide)).trans ((cutLo _ _ (by decide)).trans (cutAll _))))
  have f17 : bits w 17 5 = a := e ▸ ((cutHi _ _ (by decide)).trans ((cutHi _ _ (by decide)).trans ((cutHi _ _ (by decide)).trans ((cutLo _ _ (by decide)).trans (cutAll _)))))
  have f22 : bits w 22 5 = b := e ▸ ((cutHi _ _ (by decide)).trans ((cutHi _ _ (by decide)).trans ((cutHi _ _ (by decide)).trans ((cutHi _ _ (by decide)).trans ((cutLo _ _ (by decide)).trans (cutAll _))))))
  have f27 : bits w 27 5 = 0xA#5 := e ▸ ((cutHi _ _ (by decide)).trans ((cutHi _ _ (by decide)).trans ((cutHi _ _ (by decide)).trans ((cutHi _ _ (by decide)).trans ((cutHi _ _ (by decide)).trans (cutAll _))))))
  refine decode_of w _ 0x4B#7 f0 (by decide) (by decide) ?_ (unpk_no f0 (by decide)) hw
  rw [raw_Vperm f0]
  simp [decodeVperm, f7, f12, f17, f22, f27]

theorem vins (d : BitVec 5) (a : BitVec 5) (b : BitVec 5) : Statement (.vins d a b) := by
  intro w hw e
  replace e := Option.some.inj e
  have f0 : bits w 0 7 = 0x4B#7 := e ▸ ((cutLo _ _ (by decide)).trans (cutAll _))
  have f7 : bits w 7 5 = d := e ▸ ((cutHi _ _ (by decide)).trans ((cutLo _ _ (by decide)).trans (cutAll _)))
  have f12 : bits w 12 5 = 0x1F#5 := e ▸ ((cutHi _ _ (by decide)).trans ((cutHi _ _ (by decide)).trans ((cutLo _ _ (by decide)).trans (cutAll _))))
  have f17 : bits w 17 5 = a := e ▸ ((cutHi _ _ (by decide)).trans ((cutHi _ _ (by decide)).trans ((cutHi _ _ (by decide)).trans ((cutLo _ _ (by decide)).trans (cutAll _)))))
  have f22 : bits w 22 5 = b := e ▸ ((cutHi _ _ (by decide)).trans ((cutHi _ _ (by decide)).trans ((cutHi _ _ (by decide)).trans ((cutHi _ _ (by decide)).trans ((cutLo _ _ (by decide)).trans (cutAll _))))))
  have f27 : bits w 27 5 = 0xB#5 := e ▸ ((cutHi _ _ (by decide)).trans ((cutHi _ _ (by decide)).trans ((cutHi _ _ (by decide)).trans ((cutHi _ _ (by decide)).trans ((cutHi _ _ (by decide)).trans (cutAll _))))))
  refine decode_of w _ 0x4B#7 f0 (by decide) (by decide) ?_ (unpk_no f0 (by decide)) hw
  rw [raw_Vperm f0]
  simp [decodeVperm, f7, f12, f17, f22, f27]

theorem viota (d : BitVec 5) (k : BitVec 5) : Statement (.viota d k) := by
  intro w hw e
  replace e := Option.some.inj e
  have f0 : bits w 0 7 = 0x4B#7 := e ▸ ((cutLo _ _ (by decide)).trans (cutAll _))
  have f7 : bits w 7 5 = d := e ▸ ((cutHi _ _ (by decide)).trans ((cutLo _ _ (by decide)).trans (cutAll _)))
  have f12 : bits w 12 5 = k := e ▸ ((cutHi _ _ (by decide)).trans ((cutHi _ _ (by decide)).trans ((cutLo _ _ (by decide)).trans (cutAll _))))
  have f17 : bits w 17 5 = 0x0#5 := e ▸ ((cutHi _ _ (by decide)).trans ((cutHi _ _ (by decide)).trans ((cutHi _ _ (by decide)).trans ((cutLo _ _ (by decide)).trans (cutAll _)))))
  have f22 : bits w 22 5 = 0x0#5 := e ▸ ((cutHi _ _ (by decide)).trans ((cutHi _ _ (by decide)).trans ((cutHi _ _ (by decide)).trans ((cutHi _ _ (by decide)).trans ((cutLo _ _ (by decide)).trans (cutAll _))))))
  have f27 : bits w 27 5 = 0xC#5 := e ▸ ((cutHi _ _ (by decide)).trans ((cutHi _ _ (by decide)).trans ((cutHi _ _ (by decide)).trans ((cutHi _ _ (by decide)).trans ((cutHi _ _ (by decide)).trans (cutAll _))))))
  refine decode_of w _ 0x4B#7 f0 (by decide) (by decide) ?_ (unpk_no f0 (by decide)) hw
  rw [raw_Vperm f0]
  simp [decodeVperm, f7, f12, f17, f22, f27]

theorem vrev (d : BitVec 5) (a : BitVec 5) (k : BitVec 5) : Statement (.vrev d a k) := by
  intro w hw e
  replace e := Option.some.inj e
  have f0 : bits w 0 7 = 0x4B#7 := e ▸ ((cutLo _ _ (by decide)).trans (cutAll _))
  have f7 : bits w 7 5 = d := e ▸ ((cutHi _ _ (by decide)).trans ((cutLo _ _ (by decide)).trans (cutAll _)))
  have f12 : bits w 12 5 = k := e ▸ ((cutHi _ _ (by decide)).trans ((cutHi _ _ (by decide)).trans ((cutLo _ _ (by decide)).trans (cutAll _))))
  have f17 : bits w 17 5 = a := e ▸ ((cutHi _ _ (by decide)).trans ((cutHi _ _ (by decide)).trans ((cutHi _ _ (by decide)).trans ((cutLo _ _ (by decide)).trans (cutAll _)))))
  have f22 : bits w 22 5 = 0x0#5 := e ▸ ((cutHi _ _ (by decide)).trans ((cutHi _ _ (by decide)).trans ((cutHi _ _ (by decide)).trans ((cutHi _ _ (by decide)).trans ((cutLo _ _ (by decide)).trans (cutAll _))))))
  have f27 : bits w 27 5 = 0xD#5 := e ▸ ((cutHi _ _ (by decide)).trans ((cutHi _ _ (by decide)).trans ((cutHi _ _ (by decide)).trans ((cutHi _ _ (by decide)).trans ((cutHi _ _ (by decide)).trans (cutAll _))))))
  refine decode_of w _ 0x4B#7 f0 (by decide) (by decide) ?_ (unpk_no f0 (by decide)) hw
  rw [raw_Vperm f0]
  simp [decodeVperm, f7, f12, f17, f22, f27]

theorem vrsum (d : BitVec 5) (a : BitVec 5) (k : BitVec 5) : Statement (.vrsum d a k) := by
  intro w hw e
  replace e := Option.some.inj e
  have f0 : bits w 0 7 = 0x4F#7 := e ▸ ((cutLo _ _ (by decide)).trans (cutAll _))
  have f7 : bits w 7 5 = d := e ▸ ((cutHi _ _ (by decide)).trans ((cutLo _ _ (by decide)).trans (cutAll _)))
  have f12 : bits w 12 5 = k := e ▸ ((cutHi _ _ (by decide)).trans ((cutHi _ _ (by decide)).trans ((cutLo _ _ (by decide)).trans (cutAll _))))
  have f17 : bits w 17 5 = a := e ▸ ((cutHi _ _ (by decide)).trans ((cutHi _ _ (by decide)).trans ((cutHi _ _ (by decide)).trans ((cutLo _ _ (by decide)).trans (cutAll _)))))
  have f22 : bits w 22 5 = 0x0#5 := e ▸ ((cutHi _ _ (by decide)).trans ((cutHi _ _ (by decide)).trans ((cutHi _ _ (by decide)).trans ((cutHi _ _ (by decide)).trans ((cutLo _ _ (by decide)).trans (cutAll _))))))
  have f27 : bits w 27 5 = 0x0#5 := e ▸ ((cutHi _ _ (by decide)).trans ((cutHi _ _ (by decide)).trans ((cutHi _ _ (by decide)).trans ((cutHi _ _ (by decide)).trans ((cutHi _ _ (by decide)).trans (cutAll _))))))
  refine decode_of w _ 0x4F#7 f0 (by decide) (by decide) ?_ (unpk_no f0 (by decide)) hw
  rw [raw_Vred f0]
  simp [decodeVred, f7, f12, f17, f22, f27]

theorem vrmax (d : BitVec 5) (a : BitVec 5) (k : BitVec 5) : Statement (.vrmax d a k) := by
  intro w hw e
  replace e := Option.some.inj e
  have f0 : bits w 0 7 = 0x4F#7 := e ▸ ((cutLo _ _ (by decide)).trans (cutAll _))
  have f7 : bits w 7 5 = d := e ▸ ((cutHi _ _ (by decide)).trans ((cutLo _ _ (by decide)).trans (cutAll _)))
  have f12 : bits w 12 5 = k := e ▸ ((cutHi _ _ (by decide)).trans ((cutHi _ _ (by decide)).trans ((cutLo _ _ (by decide)).trans (cutAll _))))
  have f17 : bits w 17 5 = a := e ▸ ((cutHi _ _ (by decide)).trans ((cutHi _ _ (by decide)).trans ((cutHi _ _ (by decide)).trans ((cutLo _ _ (by decide)).trans (cutAll _)))))
  have f22 : bits w 22 5 = 0x0#5 := e ▸ ((cutHi _ _ (by decide)).trans ((cutHi _ _ (by decide)).trans ((cutHi _ _ (by decide)).trans ((cutHi _ _ (by decide)).trans ((cutLo _ _ (by decide)).trans (cutAll _))))))
  have f27 : bits w 27 5 = 0x1#5 := e ▸ ((cutHi _ _ (by decide)).trans ((cutHi _ _ (by decide)).trans ((cutHi _ _ (by decide)).trans ((cutHi _ _ (by decide)).trans ((cutHi _ _ (by decide)).trans (cutAll _))))))
  refine decode_of w _ 0x4F#7 f0 (by decide) (by decide) ?_ (unpk_no f0 (by decide)) hw
  rw [raw_Vred f0]
  simp [decodeVred, f7, f12, f17, f22, f27]

theorem vrmin (d : BitVec 5) (a : BitVec 5) (k : BitVec 5) : Statement (.vrmin d a k) := by
  intro w hw e
  replace e := Option.some.inj e
  have f0 : bits w 0 7 = 0x4F#7 := e ▸ ((cutLo _ _ (by decide)).trans (cutAll _))
  have f7 : bits w 7 5 = d := e ▸ ((cutHi _ _ (by decide)).trans ((cutLo _ _ (by decide)).trans (cutAll _)))
  have f12 : bits w 12 5 = k := e ▸ ((cutHi _ _ (by decide)).trans ((cutHi _ _ (by decide)).trans ((cutLo _ _ (by decide)).trans (cutAll _))))
  have f17 : bits w 17 5 = a := e ▸ ((cutHi _ _ (by decide)).trans ((cutHi _ _ (by decide)).trans ((cutHi _ _ (by decide)).trans ((cutLo _ _ (by decide)).trans (cutAll _)))))
  have f22 : bits w 22 5 = 0x0#5 := e ▸ ((cutHi _ _ (by decide)).trans ((cutHi _ _ (by decide)).trans ((cutHi _ _ (by decide)).trans ((cutHi _ _ (by decide)).trans ((cutLo _ _ (by decide)).trans (cutAll _))))))
  have f27 : bits w 27 5 = 0x2#5 := e ▸ ((cutHi _ _ (by decide)).trans ((cutHi _ _ (by decide)).trans ((cutHi _ _ (by decide)).trans ((cutHi _ _ (by decide)).trans ((cutHi _ _ (by decide)).trans (cutAll _))))))
  refine decode_of w _ 0x4F#7 f0 (by decide) (by decide) ?_ (unpk_no f0 (by decide)) hw
  rw [raw_Vred f0]
  simp [decodeVred, f7, f12, f17, f22, f27]

theorem vrand (d : BitVec 5) (a : BitVec 5) (k : BitVec 5) : Statement (.vrand d a k) := by
  intro w hw e
  replace e := Option.some.inj e
  have f0 : bits w 0 7 = 0x4F#7 := e ▸ ((cutLo _ _ (by decide)).trans (cutAll _))
  have f7 : bits w 7 5 = d := e ▸ ((cutHi _ _ (by decide)).trans ((cutLo _ _ (by decide)).trans (cutAll _)))
  have f12 : bits w 12 5 = k := e ▸ ((cutHi _ _ (by decide)).trans ((cutHi _ _ (by decide)).trans ((cutLo _ _ (by decide)).trans (cutAll _))))
  have f17 : bits w 17 5 = a := e ▸ ((cutHi _ _ (by decide)).trans ((cutHi _ _ (by decide)).trans ((cutHi _ _ (by decide)).trans ((cutLo _ _ (by decide)).trans (cutAll _)))))
  have f22 : bits w 22 5 = 0x0#5 := e ▸ ((cutHi _ _ (by decide)).trans ((cutHi _ _ (by decide)).trans ((cutHi _ _ (by decide)).trans ((cutHi _ _ (by decide)).trans ((cutLo _ _ (by decide)).trans (cutAll _))))))
  have f27 : bits w 27 5 = 0x3#5 := e ▸ ((cutHi _ _ (by decide)).trans ((cutHi _ _ (by decide)).trans ((cutHi _ _ (by decide)).trans ((cutHi _ _ (by decide)).trans ((cutHi _ _ (by decide)).trans (cutAll _))))))
  refine decode_of w _ 0x4F#7 f0 (by decide) (by decide) ?_ (unpk_no f0 (by decide)) hw
  rw [raw_Vred f0]
  simp [decodeVred, f7, f12, f17, f22, f27]

theorem vror (d : BitVec 5) (a : BitVec 5) (k : BitVec 5) : Statement (.vror d a k) := by
  intro w hw e
  replace e := Option.some.inj e
  have f0 : bits w 0 7 = 0x4F#7 := e ▸ ((cutLo _ _ (by decide)).trans (cutAll _))
  have f7 : bits w 7 5 = d := e ▸ ((cutHi _ _ (by decide)).trans ((cutLo _ _ (by decide)).trans (cutAll _)))
  have f12 : bits w 12 5 = k := e ▸ ((cutHi _ _ (by decide)).trans ((cutHi _ _ (by decide)).trans ((cutLo _ _ (by decide)).trans (cutAll _))))
  have f17 : bits w 17 5 = a := e ▸ ((cutHi _ _ (by decide)).trans ((cutHi _ _ (by decide)).trans ((cutHi _ _ (by decide)).trans ((cutLo _ _ (by decide)).trans (cutAll _)))))
  have f22 : bits w 22 5 = 0x0#5 := e ▸ ((cutHi _ _ (by decide)).trans ((cutHi _ _ (by decide)).trans ((cutHi _ _ (by decide)).trans ((cutHi _ _ (by decide)).trans ((cutLo _ _ (by decide)).trans (cutAll _))))))
  have f27 : bits w 27 5 = 0x4#5 := e ▸ ((cutHi _ _ (by decide)).trans ((cutHi _ _ (by decide)).trans ((cutHi _ _ (by decide)).trans ((cutHi _ _ (by decide)).trans ((cutHi _ _ (by decide)).trans (cutAll _))))))
  refine decode_of w _ 0x4F#7 f0 (by decide) (by decide) ?_ (unpk_no f0 (by decide)) hw
  rw [raw_Vred f0]
  simp [decodeVred, f7, f12, f17, f22, f27]

theorem vscan (d : BitVec 5) (a : BitVec 5) (k : BitVec 5) : Statement (.vscan d a k) := by
  intro w hw e
  replace e := Option.some.inj e
  have f0 : bits w 0 7 = 0x4F#7 := e ▸ ((cutLo _ _ (by decide)).trans (cutAll _))
  have f7 : bits w 7 5 = d := e ▸ ((cutHi _ _ (by decide)).trans ((cutLo _ _ (by decide)).trans (cutAll _)))
  have f12 : bits w 12 5 = k := e ▸ ((cutHi _ _ (by decide)).trans ((cutHi _ _ (by decide)).trans ((cutLo _ _ (by decide)).trans (cutAll _))))
  have f17 : bits w 17 5 = a := e ▸ ((cutHi _ _ (by decide)).trans ((cutHi _ _ (by decide)).trans ((cutHi _ _ (by decide)).trans ((cutLo _ _ (by decide)).trans (cutAll _)))))
  have f22 : bits w 22 5 = 0x0#5 := e ▸ ((cutHi _ _ (by decide)).trans ((cutHi _ _ (by decide)).trans ((cutHi _ _ (by decide)).trans ((cutHi _ _ (by decide)).trans ((cutLo _ _ (by decide)).trans (cutAll _))))))
  have f27 : bits w 27 5 = 0x5#5 := e ▸ ((cutHi _ _ (by decide)).trans ((cutHi _ _ (by decide)).trans ((cutHi _ _ (by decide)).trans ((cutHi _ _ (by decide)).trans ((cutHi _ _ (by decide)).trans (cutAll _))))))
  refine decode_of w _ 0x4F#7 f0 (by decide) (by decide) ?_ (unpk_no f0 (by decide)) hw
  rw [raw_Vred f0]
  simp [decodeVred, f7, f12, f17, f22, f27]

theorem vscanx (d : BitVec 5) (a : BitVec 5) (k : BitVec 5) : Statement (.vscanx d a k) := by
  intro w hw e
  replace e := Option.some.inj e
  have f0 : bits w 0 7 = 0x4F#7 := e ▸ ((cutLo _ _ (by decide)).trans (cutAll _))
  have f7 : bits w 7 5 = d := e ▸ ((cutHi _ _ (by decide)).trans ((cutLo _ _ (by decide)).trans (cutAll _)))
  have f12 : bits w 12 5 = k := e ▸ ((cutHi _ _ (by decide)).trans ((cutHi _ _ (by decide)).trans ((cutLo _ _ (by decide)).trans (cutAll _))))
  have f17 : bits w 17 5 = a := e ▸ ((cutHi _ _ (by decide)).trans ((cutHi _ _ (by decide)).trans ((cutHi _ _ (by decide)).trans ((cutLo _ _ (by decide)).trans (cutAll _)))))
  have f22 : bits w 22 5 = 0x0#5 := e ▸ ((cutHi _ _ (by decide)).trans ((cutHi _ _ (by decide)).trans ((cutHi _ _ (by decide)).trans ((cutHi _ _ (by decide)).trans ((cutLo _ _ (by decide)).trans (cutAll _))))))
  have f27 : bits w 27 5 = 0x6#5 := e ▸ ((cutHi _ _ (by decide)).trans ((cutHi _ _ (by decide)).trans ((cutHi _ _ (by decide)).trans ((cutHi _ _ (by decide)).trans ((cutHi _ _ (by decide)).trans (cutAll _))))))
  refine decode_of w _ 0x4F#7 f0 (by decide) (by decide) ?_ (unpk_no f0 (by decide)) hw
  rw [raw_Vred f0]
  simp [decodeVred, f7, f12, f17, f22, f27]

theorem vrsumw (d : BitVec 5) (a : BitVec 5) (k : BitVec 5) : Statement (.vrsumw d a k) := by
  intro w hw e
  replace e := Option.some.inj e
  have f0 : bits w 0 7 = 0x4F#7 := e ▸ ((cutLo _ _ (by decide)).trans (cutAll _))
  have f7 : bits w 7 5 = d := e ▸ ((cutHi _ _ (by decide)).trans ((cutLo _ _ (by decide)).trans (cutAll _)))
  have f12 : bits w 12 5 = k := e ▸ ((cutHi _ _ (by decide)).trans ((cutHi _ _ (by decide)).trans ((cutLo _ _ (by decide)).trans (cutAll _))))
  have f17 : bits w 17 5 = a := e ▸ ((cutHi _ _ (by decide)).trans ((cutHi _ _ (by decide)).trans ((cutHi _ _ (by decide)).trans ((cutLo _ _ (by decide)).trans (cutAll _)))))
  have f22 : bits w 22 5 = 0x0#5 := e ▸ ((cutHi _ _ (by decide)).trans ((cutHi _ _ (by decide)).trans ((cutHi _ _ (by decide)).trans ((cutHi _ _ (by decide)).trans ((cutLo _ _ (by decide)).trans (cutAll _))))))
  have f27 : bits w 27 5 = 0x7#5 := e ▸ ((cutHi _ _ (by decide)).trans ((cutHi _ _ (by decide)).trans ((cutHi _ _ (by decide)).trans ((cutHi _ _ (by decide)).trans ((cutHi _ _ (by decide)).trans (cutAll _))))))
  refine decode_of w _ 0x4F#7 f0 (by decide) (by decide) ?_ (unpk_no f0 (by decide)) hw
  rw [raw_Vred f0]
  simp [decodeVred, f7, f12, f17, f22, f27]

theorem vcvt (d : BitVec 5) (a : BitVec 5) (k : BitVec 5) (s : BitVec 5) (r : BitVec 3) : Statement (.vcvt d a k s r) := by
  intro w hw h
  replace h := Option.some.inj h
  have f7 : bits w 7 5 = d := h ▸ ((cutHi _ _ (by decide)).trans ((cutLo _ _ (by decide)).trans (cutAll _)))
  have f12 : bits w 12 5 = k := h ▸ ((cutHi _ _ (by decide)).trans ((cutHi _ _ (by decide)).trans ((cutLo _ _ (by decide)).trans (cutAll _))))
  have f17 : bits w 17 5 = a := h ▸ ((cutHi _ _ (by decide)).trans ((cutHi _ _ (by decide)).trans ((cutHi _ _ (by decide)).trans ((cutLo _ _ (by decide)).trans (cutAll _)))))
  have f22 : bits w 22 5 = s := h ▸ ((cutHi _ _ (by decide)).trans ((cutHi _ _ (by decide)).trans ((cutHi _ _ (by decide)).trans ((cutHi _ _ (by decide)).trans ((cutLo _ _ (by decide)).trans (cutAll _))))))
  have f27 : bits w 27 3 = r := h ▸ ((cutHi _ _ (by decide)).trans ((cutHi _ _ (by decide)).trans ((cutHi _ _ (by decide)).trans ((cutHi _ _ (by decide)).trans ((cutHi _ _ (by decide)).trans ((cutLo _ _ (by decide)).trans (cutAll _)))))))
  have f30 : bits w 30 2 = 0x0#2 := h ▸ ((cutHi _ _ (by decide)).trans ((cutHi _ _ (by decide)).trans ((cutHi _ _ (by decide)).trans ((cutHi _ _ (by decide)).trans ((cutHi _ _ (by decide)).trans ((cutHi _ _ (by decide)).trans (cutAll _)))))))
  have f0 : bits w 0 7 = 0x53#7 := h ▸ ((cutLo _ _ (by decide)).trans (cutAll _))
  have hr : r ≠ 7#3 := by rintro rfl; simp [Instr.wf, rndOk] at hw
  refine decode_of w _ 0x53#7 f0 (by decide) (by decide) ?_ (by simp [badUnpkRnd, f30]) hw
  rw [raw_Vcvt f0]
  simp [decodeVcvt, f7, f12, f17, f22, f27, f30, hr]

theorem vcvtSat (d : BitVec 5) (a : BitVec 5) (k : BitVec 5) (s : BitVec 5) (r : BitVec 3) : Statement (.vcvtSat d a k s r) := by
  intro w hw h
  replace h := Option.some.inj h
  have f7 : bits w 7 5 = d := h ▸ ((cutHi _ _ (by decide)).trans ((cutLo _ _ (by decide)).trans (cutAll _)))
  have f12 : bits w 12 5 = k := h ▸ ((cutHi _ _ (by decide)).trans ((cutHi _ _ (by decide)).trans ((cutLo _ _ (by decide)).trans (cutAll _))))
  have f17 : bits w 17 5 = a := h ▸ ((cutHi _ _ (by decide)).trans ((cutHi _ _ (by decide)).trans ((cutHi _ _ (by decide)).trans ((cutLo _ _ (by decide)).trans (cutAll _)))))
  have f22 : bits w 22 5 = s := h ▸ ((cutHi _ _ (by decide)).trans ((cutHi _ _ (by decide)).trans ((cutHi _ _ (by decide)).trans ((cutHi _ _ (by decide)).trans ((cutLo _ _ (by decide)).trans (cutAll _))))))
  have f27 : bits w 27 3 = r := h ▸ ((cutHi _ _ (by decide)).trans ((cutHi _ _ (by decide)).trans ((cutHi _ _ (by decide)).trans ((cutHi _ _ (by decide)).trans ((cutHi _ _ (by decide)).trans ((cutLo _ _ (by decide)).trans (cutAll _)))))))
  have f30 : bits w 30 2 = 0x1#2 := h ▸ ((cutHi _ _ (by decide)).trans ((cutHi _ _ (by decide)).trans ((cutHi _ _ (by decide)).trans ((cutHi _ _ (by decide)).trans ((cutHi _ _ (by decide)).trans ((cutHi _ _ (by decide)).trans (cutAll _)))))))
  have f0 : bits w 0 7 = 0x53#7 := h ▸ ((cutLo _ _ (by decide)).trans (cutAll _))
  have hr : r ≠ 7#3 := by rintro rfl; simp [Instr.wf, rndOk] at hw
  refine decode_of w _ 0x53#7 f0 (by decide) (by decide) ?_ (by simp [badUnpkRnd, f30]) hw
  rw [raw_Vcvt f0]
  simp [decodeVcvt, f7, f12, f17, f22, f27, f30, hr]

theorem vpack (d : BitVec 5) (a : BitVec 5) (k : BitVec 5) (s : BitVec 5) (r : BitVec 3) : Statement (.vpack d a k s r) := by
  intro w hw h
  replace h := Option.some.inj h
  have f7 : bits w 7 5 = d := h ▸ ((cutHi _ _ (by decide)).trans ((cutLo _ _ (by decide)).trans (cutAll _)))
  have f12 : bits w 12 5 = k := h ▸ ((cutHi _ _ (by decide)).trans ((cutHi _ _ (by decide)).trans ((cutLo _ _ (by decide)).trans (cutAll _))))
  have f17 : bits w 17 5 = a := h ▸ ((cutHi _ _ (by decide)).trans ((cutHi _ _ (by decide)).trans ((cutHi _ _ (by decide)).trans ((cutLo _ _ (by decide)).trans (cutAll _)))))
  have f22 : bits w 22 5 = s := h ▸ ((cutHi _ _ (by decide)).trans ((cutHi _ _ (by decide)).trans ((cutHi _ _ (by decide)).trans ((cutHi _ _ (by decide)).trans ((cutLo _ _ (by decide)).trans (cutAll _))))))
  have f27 : bits w 27 3 = r := h ▸ ((cutHi _ _ (by decide)).trans ((cutHi _ _ (by decide)).trans ((cutHi _ _ (by decide)).trans ((cutHi _ _ (by decide)).trans ((cutHi _ _ (by decide)).trans ((cutLo _ _ (by decide)).trans (cutAll _)))))))
  have f30 : bits w 30 2 = 0x2#2 := h ▸ ((cutHi _ _ (by decide)).trans ((cutHi _ _ (by decide)).trans ((cutHi _ _ (by decide)).trans ((cutHi _ _ (by decide)).trans ((cutHi _ _ (by decide)).trans ((cutHi _ _ (by decide)).trans (cutAll _)))))))
  have f0 : bits w 0 7 = 0x53#7 := h ▸ ((cutLo _ _ (by decide)).trans (cutAll _))
  have hr : r ≠ 7#3 := by rintro rfl; simp [Instr.wf, rndOk] at hw
  refine decode_of w _ 0x53#7 f0 (by decide) (by decide) ?_ (by simp [badUnpkRnd, f30]) hw
  rw [raw_Vcvt f0]
  simp [decodeVcvt, f7, f12, f17, f22, f27, f30, hr]

theorem vunpk (d : BitVec 5) (a : BitVec 5) (k : BitVec 5) (s : BitVec 5) : Statement (.vunpk d a k s) := by
  intro w hw h
  replace h := Option.some.inj h
  have f7 : bits w 7 5 = d := h ▸ ((cutHi _ _ (by decide)).trans ((cutLo _ _ (by decide)).trans (cutAll _)))
  have f12 : bits w 12 5 = k := h ▸ ((cutHi _ _ (by decide)).trans ((cutHi _ _ (by decide)).trans ((cutLo _ _ (by decide)).trans (cutAll _))))
  have f17 : bits w 17 5 = a := h ▸ ((cutHi _ _ (by decide)).trans ((cutHi _ _ (by decide)).trans ((cutHi _ _ (by decide)).trans ((cutLo _ _ (by decide)).trans (cutAll _)))))
  have f22 : bits w 22 5 = s := h ▸ ((cutHi _ _ (by decide)).trans ((cutHi _ _ (by decide)).trans ((cutHi _ _ (by decide)).trans ((cutHi _ _ (by decide)).trans ((cutLo _ _ (by decide)).trans (cutAll _))))))
  have f27 : bits w 27 3 = 0x0#3 := h ▸ ((cutHi _ _ (by decide)).trans ((cutHi _ _ (by decide)).trans ((cutHi _ _ (by decide)).trans ((cutHi _ _ (by decide)).trans ((cutHi _ _ (by decide)).trans ((cutLo _ _ (by decide)).trans (cutAll _)))))))
  have f30 : bits w 30 2 = 0x3#2 := h ▸ ((cutHi _ _ (by decide)).trans ((cutHi _ _ (by decide)).trans ((cutHi _ _ (by decide)).trans ((cutHi _ _ (by decide)).trans ((cutHi _ _ (by decide)).trans ((cutHi _ _ (by decide)).trans (cutAll _)))))))
  have f0 : bits w 0 7 = 0x53#7 := h ▸ ((cutLo _ _ (by decide)).trans (cutAll _))
  refine decode_of w _ 0x53#7 f0 (by decide) (by decide) ?_ (by simp [badUnpkRnd, f27]) hw
  rw [raw_Vcvt f0]
  simp [decodeVcvt, f7, f12, f17, f22, f27, f30]

theorem vld (d : BitVec 5) (a : BitVec 5) (k : BitVec 5) (o : BitVec 5) : Statement (.vld d a k o) := by
  intro w hw e
  replace e := Option.some.inj e
  have f0 : bits w 0 7 = 0x7#7 := e ▸ ((cutLo _ _ (by decide)).trans (cutAll _))
  have f7 : bits w 7 5 = d := e ▸ ((cutHi _ _ (by decide)).trans ((cutLo _ _ (by decide)).trans (cutAll _)))
  have f12 : bits w 12 5 = k := e ▸ ((cutHi _ _ (by decide)).trans ((cutHi _ _ (by decide)).trans ((cutLo _ _ (by decide)).trans (cutAll _))))
  have f17 : bits w 17 5 = a := e ▸ ((cutHi _ _ (by decide)).trans ((cutHi _ _ (by decide)).trans ((cutHi _ _ (by decide)).trans ((cutLo _ _ (by decide)).trans (cutAll _)))))
  have f22 : bits w 22 5 = o := e ▸ ((cutHi _ _ (by decide)).trans ((cutHi _ _ (by decide)).trans ((cutHi _ _ (by decide)).trans ((cutHi _ _ (by decide)).trans ((cutLo _ _ (by decide)).trans (cutAll _))))))
  have f27 : bits w 27 5 = 0x0#5 := e ▸ ((cutHi _ _ (by decide)).trans ((cutHi _ _ (by decide)).trans ((cutHi _ _ (by decide)).trans ((cutHi _ _ (by decide)).trans ((cutHi _ _ (by decide)).trans (cutAll _))))))
  refine decode_of w _ 0x7#7 f0 (by decide) (by decide) ?_ (unpk_no f0 (by decide)) hw
  rw [raw_Vld f0]
  simp [decodeVld, f7, f12, f17, f22, f27]

theorem vlds (d : BitVec 5) (a : BitVec 5) (b : BitVec 5) (k : BitVec 5) : Statement (.vlds d a b k) := by
  intro w hw e
  replace e := Option.some.inj e
  have f0 : bits w 0 7 = 0x7#7 := e ▸ ((cutLo _ _ (by decide)).trans (cutAll _))
  have f7 : bits w 7 5 = d := e ▸ ((cutHi _ _ (by decide)).trans ((cutLo _ _ (by decide)).trans (cutAll _)))
  have f12 : bits w 12 5 = k := e ▸ ((cutHi _ _ (by decide)).trans ((cutHi _ _ (by decide)).trans ((cutLo _ _ (by decide)).trans (cutAll _))))
  have f17 : bits w 17 5 = a := e ▸ ((cutHi _ _ (by decide)).trans ((cutHi _ _ (by decide)).trans ((cutHi _ _ (by decide)).trans ((cutLo _ _ (by decide)).trans (cutAll _)))))
  have f22 : bits w 22 5 = b := e ▸ ((cutHi _ _ (by decide)).trans ((cutHi _ _ (by decide)).trans ((cutHi _ _ (by decide)).trans ((cutHi _ _ (by decide)).trans ((cutLo _ _ (by decide)).trans (cutAll _))))))
  have f27 : bits w 27 5 = 0x1#5 := e ▸ ((cutHi _ _ (by decide)).trans ((cutHi _ _ (by decide)).trans ((cutHi _ _ (by decide)).trans ((cutHi _ _ (by decide)).trans ((cutHi _ _ (by decide)).trans (cutAll _))))))
  refine decode_of w _ 0x7#7 f0 (by decide) (by decide) ?_ (unpk_no f0 (by decide)) hw
  rw [raw_Vld f0]
  simp [decodeVld, f7, f12, f17, f22, f27]

theorem vldx (d : BitVec 5) (a : BitVec 5) (b : BitVec 5) (k : BitVec 5) : Statement (.vldx d a b k) := by
  intro w hw e
  replace e := Option.some.inj e
  have f0 : bits w 0 7 = 0x7#7 := e ▸ ((cutLo _ _ (by decide)).trans (cutAll _))
  have f7 : bits w 7 5 = d := e ▸ ((cutHi _ _ (by decide)).trans ((cutLo _ _ (by decide)).trans (cutAll _)))
  have f12 : bits w 12 5 = k := e ▸ ((cutHi _ _ (by decide)).trans ((cutHi _ _ (by decide)).trans ((cutLo _ _ (by decide)).trans (cutAll _))))
  have f17 : bits w 17 5 = a := e ▸ ((cutHi _ _ (by decide)).trans ((cutHi _ _ (by decide)).trans ((cutHi _ _ (by decide)).trans ((cutLo _ _ (by decide)).trans (cutAll _)))))
  have f22 : bits w 22 5 = b := e ▸ ((cutHi _ _ (by decide)).trans ((cutHi _ _ (by decide)).trans ((cutHi _ _ (by decide)).trans ((cutHi _ _ (by decide)).trans ((cutLo _ _ (by decide)).trans (cutAll _))))))
  have f27 : bits w 27 5 = 0x2#5 := e ▸ ((cutHi _ _ (by decide)).trans ((cutHi _ _ (by decide)).trans ((cutHi _ _ (by decide)).trans ((cutHi _ _ (by decide)).trans ((cutHi _ _ (by decide)).trans (cutAll _))))))
  refine decode_of w _ 0x7#7 f0 (by decide) (by decide) ?_ (unpk_no f0 (by decide)) hw
  rw [raw_Vld f0]
  simp [decodeVld, f7, f12, f17, f22, f27]

theorem vldff (d : BitVec 5) (a : BitVec 5) (k : BitVec 5) (o : BitVec 5) : Statement (.vldff d a k o) := by
  intro w hw e
  replace e := Option.some.inj e
  have f0 : bits w 0 7 = 0x7#7 := e ▸ ((cutLo _ _ (by decide)).trans (cutAll _))
  have f7 : bits w 7 5 = d := e ▸ ((cutHi _ _ (by decide)).trans ((cutLo _ _ (by decide)).trans (cutAll _)))
  have f12 : bits w 12 5 = k := e ▸ ((cutHi _ _ (by decide)).trans ((cutHi _ _ (by decide)).trans ((cutLo _ _ (by decide)).trans (cutAll _))))
  have f17 : bits w 17 5 = a := e ▸ ((cutHi _ _ (by decide)).trans ((cutHi _ _ (by decide)).trans ((cutHi _ _ (by decide)).trans ((cutLo _ _ (by decide)).trans (cutAll _)))))
  have f22 : bits w 22 5 = o := e ▸ ((cutHi _ _ (by decide)).trans ((cutHi _ _ (by decide)).trans ((cutHi _ _ (by decide)).trans ((cutHi _ _ (by decide)).trans ((cutLo _ _ (by decide)).trans (cutAll _))))))
  have f27 : bits w 27 5 = 0x3#5 := e ▸ ((cutHi _ _ (by decide)).trans ((cutHi _ _ (by decide)).trans ((cutHi _ _ (by decide)).trans ((cutHi _ _ (by decide)).trans ((cutHi _ _ (by decide)).trans (cutAll _))))))
  refine decode_of w _ 0x7#7 f0 (by decide) (by decide) ?_ (unpk_no f0 (by decide)) hw
  rw [raw_Vld f0]
  simp [decodeVld, f7, f12, f17, f22, f27]

theorem vldseg (d : BitVec 5) (a : BitVec 5) (n : BitVec 5) (k : BitVec 5) (t : BitVec 5) : Statement (.vldseg d a n k t) := by
  intro w hw h
  replace h := Option.some.inj h
  have f7 : bits w 7 5 = d := h ▸ ((cutHi _ _ (by decide)).trans ((cutLo _ _ (by decide)).trans (cutAll _)))
  have f12 : bits w 12 5 = k := h ▸ ((cutHi _ _ (by decide)).trans ((cutHi _ _ (by decide)).trans ((cutLo _ _ (by decide)).trans (cutAll _))))
  have f17 : bits w 17 5 = a := h ▸ ((cutHi _ _ (by decide)).trans ((cutHi _ _ (by decide)).trans ((cutHi _ _ (by decide)).trans ((cutLo _ _ (by decide)).trans (cutAll _)))))
  have f22 : bits w 22 5 = t := h ▸ ((cutHi _ _ (by decide)).trans ((cutHi _ _ (by decide)).trans ((cutHi _ _ (by decide)).trans ((cutHi _ _ (by decide)).trans ((cutLo _ _ (by decide)).trans (cutAll _))))))
  have f27 : bits w 27 5 = n := h ▸ ((cutHi _ _ (by decide)).trans ((cutHi _ _ (by decide)).trans ((cutHi _ _ (by decide)).trans ((cutHi _ _ (by decide)).trans ((cutHi _ _ (by decide)).trans (cutAll _))))))
  have f0 : bits w 0 7 = 0x7#7 := h ▸ ((cutLo _ _ (by decide)).trans (cutAll _))
  have hn : 4 ≤ n.toNat ∧ n.toNat ≤ 10 := by
    have := hw
    simp [Instr.wf, segOk] at this
    omega
  have n0 : 0x4#5 ≤ n ∧ n ≤ 0xA#5 := ⟨BitVec.le_def.mpr hn.1, BitVec.le_def.mpr hn.2⟩
  have e0 : n ≠ 0x0#5 := by rintro rfl; exact absurd hn (by decide)
  have e1 : n ≠ 0x1#5 := by rintro rfl; exact absurd hn (by decide)
  have e2 : n ≠ 0x2#5 := by rintro rfl; exact absurd hn (by decide)
  have e3 : n ≠ 0x3#5 := by rintro rfl; exact absurd hn (by decide)
  refine decode_of w _ 0x7#7 f0 (by decide) (by decide) ?_ (unpk_no f0 (by decide)) hw
  rw [raw_Vld f0]
  simp [decodeVld, f7, f12, f17, f22, f27, e0, e1, e2, e3, n0.1, n0.2]

theorem vldf (d : BitVec 5) (a : BitVec 5) (k : BitVec 5) (o : BitVec 5) : Statement (.vldf d a k o) := by
  intro w hw e
  replace e := Option.some.inj e
  have f0 : bits w 0 7 = 0x7#7 := e ▸ ((cutLo _ _ (by decide)).trans (cutAll _))
  have f7 : bits w 7 5 = d := e ▸ ((cutHi _ _ (by decide)).trans ((cutLo _ _ (by decide)).trans (cutAll _)))
  have f12 : bits w 12 5 = k := e ▸ ((cutHi _ _ (by decide)).trans ((cutHi _ _ (by decide)).trans ((cutLo _ _ (by decide)).trans (cutAll _))))
  have f17 : bits w 17 5 = a := e ▸ ((cutHi _ _ (by decide)).trans ((cutHi _ _ (by decide)).trans ((cutHi _ _ (by decide)).trans ((cutLo _ _ (by decide)).trans (cutAll _)))))
  have f22 : bits w 22 5 = o := e ▸ ((cutHi _ _ (by decide)).trans ((cutHi _ _ (by decide)).trans ((cutHi _ _ (by decide)).trans ((cutHi _ _ (by decide)).trans ((cutLo _ _ (by decide)).trans (cutAll _))))))
  have f27 : bits w 27 5 = 0xB#5 := e ▸ ((cutHi _ _ (by decide)).trans ((cutHi _ _ (by decide)).trans ((cutHi _ _ (by decide)).trans ((cutHi _ _ (by decide)).trans ((cutHi _ _ (by decide)).trans (cutAll _))))))
  refine decode_of w _ 0x7#7 f0 (by decide) (by decide) ?_ (unpk_no f0 (by decide)) hw
  rw [raw_Vld f0]
  simp [decodeVld, f7, f12, f17, f22, f27]

theorem vldb (d : BitVec 5) (a : BitVec 5) (k : BitVec 5) (o : BitVec 5) : Statement (.vldb d a k o) := by
  intro w hw e
  replace e := Option.some.inj e
  have f0 : bits w 0 7 = 0x7#7 := e ▸ ((cutLo _ _ (by decide)).trans (cutAll _))
  have f7 : bits w 7 5 = d := e ▸ ((cutHi _ _ (by decide)).trans ((cutLo _ _ (by decide)).trans (cutAll _)))
  have f12 : bits w 12 5 = k := e ▸ ((cutHi _ _ (by decide)).trans ((cutHi _ _ (by decide)).trans ((cutLo _ _ (by decide)).trans (cutAll _))))
  have f17 : bits w 17 5 = a := e ▸ ((cutHi _ _ (by decide)).trans ((cutHi _ _ (by decide)).trans ((cutHi _ _ (by decide)).trans ((cutLo _ _ (by decide)).trans (cutAll _)))))
  have f22 : bits w 22 5 = o := e ▸ ((cutHi _ _ (by decide)).trans ((cutHi _ _ (by decide)).trans ((cutHi _ _ (by decide)).trans ((cutHi _ _ (by decide)).trans ((cutLo _ _ (by decide)).trans (cutAll _))))))
  have f27 : bits w 27 5 = 0xC#5 := e ▸ ((cutHi _ _ (by decide)).trans ((cutHi _ _ (by decide)).trans ((cutHi _ _ (by decide)).trans ((cutHi _ _ (by decide)).trans ((cutHi _ _ (by decide)).trans (cutAll _))))))
  refine decode_of w _ 0x7#7 f0 (by decide) (by decide) ?_ (unpk_no f0 (by decide)) hw
  rw [raw_Vld f0]
  simp [decodeVld, f7, f12, f17, f22, f27]

theorem vst (d : BitVec 5) (a : BitVec 5) (k : BitVec 5) (o : BitVec 5) : Statement (.vst d a k o) := by
  intro w hw e
  replace e := Option.some.inj e
  have f0 : bits w 0 7 = 0x27#7 := e ▸ ((cutLo _ _ (by decide)).trans (cutAll _))
  have f7 : bits w 7 5 = d := e ▸ ((cutHi _ _ (by decide)).trans ((cutLo _ _ (by decide)).trans (cutAll _)))
  have f12 : bits w 12 5 = k := e ▸ ((cutHi _ _ (by decide)).trans ((cutHi _ _ (by decide)).trans ((cutLo _ _ (by decide)).trans (cutAll _))))
  have f17 : bits w 17 5 = a := e ▸ ((cutHi _ _ (by decide)).trans ((cutHi _ _ (by decide)).trans ((cutHi _ _ (by decide)).trans ((cutLo _ _ (by decide)).trans (cutAll _)))))
  have f22 : bits w 22 5 = o := e ▸ ((cutHi _ _ (by decide)).trans ((cutHi _ _ (by decide)).trans ((cutHi _ _ (by decide)).trans ((cutHi _ _ (by decide)).trans ((cutLo _ _ (by decide)).trans (cutAll _))))))
  have f27 : bits w 27 5 = 0x0#5 := e ▸ ((cutHi _ _ (by decide)).trans ((cutHi _ _ (by decide)).trans ((cutHi _ _ (by decide)).trans ((cutHi _ _ (by decide)).trans ((cutHi _ _ (by decide)).trans (cutAll _))))))
  refine decode_of w _ 0x27#7 f0 (by decide) (by decide) ?_ (unpk_no f0 (by decide)) hw
  rw [raw_Vst f0]
  simp [decodeVst, f7, f12, f17, f22, f27]

theorem vsts (d : BitVec 5) (a : BitVec 5) (b : BitVec 5) (k : BitVec 5) : Statement (.vsts d a b k) := by
  intro w hw e
  replace e := Option.some.inj e
  have f0 : bits w 0 7 = 0x27#7 := e ▸ ((cutLo _ _ (by decide)).trans (cutAll _))
  have f7 : bits w 7 5 = d := e ▸ ((cutHi _ _ (by decide)).trans ((cutLo _ _ (by decide)).trans (cutAll _)))
  have f12 : bits w 12 5 = k := e ▸ ((cutHi _ _ (by decide)).trans ((cutHi _ _ (by decide)).trans ((cutLo _ _ (by decide)).trans (cutAll _))))
  have f17 : bits w 17 5 = a := e ▸ ((cutHi _ _ (by decide)).trans ((cutHi _ _ (by decide)).trans ((cutHi _ _ (by decide)).trans ((cutLo _ _ (by decide)).trans (cutAll _)))))
  have f22 : bits w 22 5 = b := e ▸ ((cutHi _ _ (by decide)).trans ((cutHi _ _ (by decide)).trans ((cutHi _ _ (by decide)).trans ((cutHi _ _ (by decide)).trans ((cutLo _ _ (by decide)).trans (cutAll _))))))
  have f27 : bits w 27 5 = 0x1#5 := e ▸ ((cutHi _ _ (by decide)).trans ((cutHi _ _ (by decide)).trans ((cutHi _ _ (by decide)).trans ((cutHi _ _ (by decide)).trans ((cutHi _ _ (by decide)).trans (cutAll _))))))
  refine decode_of w _ 0x27#7 f0 (by decide) (by decide) ?_ (unpk_no f0 (by decide)) hw
  rw [raw_Vst f0]
  simp [decodeVst, f7, f12, f17, f22, f27]

theorem vstx (d : BitVec 5) (a : BitVec 5) (b : BitVec 5) (k : BitVec 5) : Statement (.vstx d a b k) := by
  intro w hw e
  replace e := Option.some.inj e
  have f0 : bits w 0 7 = 0x27#7 := e ▸ ((cutLo _ _ (by decide)).trans (cutAll _))
  have f7 : bits w 7 5 = d := e ▸ ((cutHi _ _ (by decide)).trans ((cutLo _ _ (by decide)).trans (cutAll _)))
  have f12 : bits w 12 5 = k := e ▸ ((cutHi _ _ (by decide)).trans ((cutHi _ _ (by decide)).trans ((cutLo _ _ (by decide)).trans (cutAll _))))
  have f17 : bits w 17 5 = a := e ▸ ((cutHi _ _ (by decide)).trans ((cutHi _ _ (by decide)).trans ((cutHi _ _ (by decide)).trans ((cutLo _ _ (by decide)).trans (cutAll _)))))
  have f22 : bits w 22 5 = b := e ▸ ((cutHi _ _ (by decide)).trans ((cutHi _ _ (by decide)).trans ((cutHi _ _ (by decide)).trans ((cutHi _ _ (by decide)).trans ((cutLo _ _ (by decide)).trans (cutAll _))))))
  have f27 : bits w 27 5 = 0x2#5 := e ▸ ((cutHi _ _ (by decide)).trans ((cutHi _ _ (by decide)).trans ((cutHi _ _ (by decide)).trans ((cutHi _ _ (by decide)).trans ((cutHi _ _ (by decide)).trans (cutAll _))))))
  refine decode_of w _ 0x27#7 f0 (by decide) (by decide) ?_ (unpk_no f0 (by decide)) hw
  rw [raw_Vst f0]
  simp [decodeVst, f7, f12, f17, f22, f27]

theorem vstseg (d : BitVec 5) (a : BitVec 5) (n : BitVec 5) (k : BitVec 5) (t : BitVec 5) : Statement (.vstseg d a n k t) := by
  intro w hw h
  replace h := Option.some.inj h
  have f7 : bits w 7 5 = d := h ▸ ((cutHi _ _ (by decide)).trans ((cutLo _ _ (by decide)).trans (cutAll _)))
  have f12 : bits w 12 5 = k := h ▸ ((cutHi _ _ (by decide)).trans ((cutHi _ _ (by decide)).trans ((cutLo _ _ (by decide)).trans (cutAll _))))
  have f17 : bits w 17 5 = a := h ▸ ((cutHi _ _ (by decide)).trans ((cutHi _ _ (by decide)).trans ((cutHi _ _ (by decide)).trans ((cutLo _ _ (by decide)).trans (cutAll _)))))
  have f22 : bits w 22 5 = t := h ▸ ((cutHi _ _ (by decide)).trans ((cutHi _ _ (by decide)).trans ((cutHi _ _ (by decide)).trans ((cutHi _ _ (by decide)).trans ((cutLo _ _ (by decide)).trans (cutAll _))))))
  have f27 : bits w 27 5 = n := h ▸ ((cutHi _ _ (by decide)).trans ((cutHi _ _ (by decide)).trans ((cutHi _ _ (by decide)).trans ((cutHi _ _ (by decide)).trans ((cutHi _ _ (by decide)).trans (cutAll _))))))
  have f0 : bits w 0 7 = 0x27#7 := h ▸ ((cutLo _ _ (by decide)).trans (cutAll _))
  have hn : 4 ≤ n.toNat ∧ n.toNat ≤ 10 := by
    have := hw
    simp [Instr.wf, segOk] at this
    omega
  have n0 : 0x4#5 ≤ n ∧ n ≤ 0xA#5 := ⟨BitVec.le_def.mpr hn.1, BitVec.le_def.mpr hn.2⟩
  have e0 : n ≠ 0x0#5 := by rintro rfl; exact absurd hn (by decide)
  have e1 : n ≠ 0x1#5 := by rintro rfl; exact absurd hn (by decide)
  have e2 : n ≠ 0x2#5 := by rintro rfl; exact absurd hn (by decide)
  refine decode_of w _ 0x27#7 f0 (by decide) (by decide) ?_ (unpk_no f0 (by decide)) hw
  rw [raw_Vst f0]
  simp [decodeVst, f7, f12, f17, f22, f27, e0, e1, e2, n0.1, n0.2]

theorem vstf (d : BitVec 5) (a : BitVec 5) (k : BitVec 5) (o : BitVec 5) : Statement (.vstf d a k o) := by
  intro w hw e
  replace e := Option.some.inj e
  have f0 : bits w 0 7 = 0x27#7 := e ▸ ((cutLo _ _ (by decide)).trans (cutAll _))
  have f7 : bits w 7 5 = d := e ▸ ((cutHi _ _ (by decide)).trans ((cutLo _ _ (by decide)).trans (cutAll _)))
  have f12 : bits w 12 5 = k := e ▸ ((cutHi _ _ (by decide)).trans ((cutHi _ _ (by decide)).trans ((cutLo _ _ (by decide)).trans (cutAll _))))
  have f17 : bits w 17 5 = a := e ▸ ((cutHi _ _ (by decide)).trans ((cutHi _ _ (by decide)).trans ((cutHi _ _ (by decide)).trans ((cutLo _ _ (by decide)).trans (cutAll _)))))
  have f22 : bits w 22 5 = o := e ▸ ((cutHi _ _ (by decide)).trans ((cutHi _ _ (by decide)).trans ((cutHi _ _ (by decide)).trans ((cutHi _ _ (by decide)).trans ((cutLo _ _ (by decide)).trans (cutAll _))))))
  have f27 : bits w 27 5 = 0xB#5 := e ▸ ((cutHi _ _ (by decide)).trans ((cutHi _ _ (by decide)).trans ((cutHi _ _ (by decide)).trans ((cutHi _ _ (by decide)).trans ((cutHi _ _ (by decide)).trans (cutAll _))))))
  refine decode_of w _ 0x27#7 f0 (by decide) (by decide) ?_ (unpk_no f0 (by decide)) hw
  rw [raw_Vst f0]
  simp [decodeVst, f7, f12, f17, f22, f27]

theorem vstxa (d : BitVec 5) (a : BitVec 5) (b : BitVec 5) (k : BitVec 5) : Statement (.vstxa d a b k) := by
  intro w hw e
  replace e := Option.some.inj e
  have f0 : bits w 0 7 = 0x27#7 := e ▸ ((cutLo _ _ (by decide)).trans (cutAll _))
  have f7 : bits w 7 5 = d := e ▸ ((cutHi _ _ (by decide)).trans ((cutLo _ _ (by decide)).trans (cutAll _)))
  have f12 : bits w 12 5 = k := e ▸ ((cutHi _ _ (by decide)).trans ((cutHi _ _ (by decide)).trans ((cutLo _ _ (by decide)).trans (cutAll _))))
  have f17 : bits w 17 5 = a := e ▸ ((cutHi _ _ (by decide)).trans ((cutHi _ _ (by decide)).trans ((cutHi _ _ (by decide)).trans ((cutLo _ _ (by decide)).trans (cutAll _)))))
  have f22 : bits w 22 5 = b := e ▸ ((cutHi _ _ (by decide)).trans ((cutHi _ _ (by decide)).trans ((cutHi _ _ (by decide)).trans ((cutHi _ _ (by decide)).trans ((cutLo _ _ (by decide)).trans (cutAll _))))))
  have f27 : bits w 27 5 = 0xC#5 := e ▸ ((cutHi _ _ (by decide)).trans ((cutHi _ _ (by decide)).trans ((cutHi _ _ (by decide)).trans ((cutHi _ _ (by decide)).trans ((cutHi _ _ (by decide)).trans (cutAll _))))))
  refine decode_of w _ 0x27#7 f0 (by decide) (by decide) ?_ (unpk_no f0 (by decide)) hw
  rw [raw_Vst f0]
  simp [decodeVst, f7, f12, f17, f22, f27]

theorem vamo (d : BitVec 5) (a : BitVec 5) (b : BitVec 5) (k : BitVec 5) : Statement (.vamo d a b k) := by
  intro w hw e
  replace e := Option.some.inj e
  have f0 : bits w 0 7 = 0x27#7 := e ▸ ((cutLo _ _ (by decide)).trans (cutAll _))
  have f7 : bits w 7 5 = d := e ▸ ((cutHi _ _ (by decide)).trans ((cutLo _ _ (by decide)).trans (cutAll _)))
  have f12 : bits w 12 5 = k := e ▸ ((cutHi _ _ (by decide)).trans ((cutHi _ _ (by decide)).trans ((cutLo _ _ (by decide)).trans (cutAll _))))
  have f17 : bits w 17 5 = a := e ▸ ((cutHi _ _ (by decide)).trans ((cutHi _ _ (by decide)).trans ((cutHi _ _ (by decide)).trans ((cutLo _ _ (by decide)).trans (cutAll _)))))
  have f22 : bits w 22 5 = b := e ▸ ((cutHi _ _ (by decide)).trans ((cutHi _ _ (by decide)).trans ((cutHi _ _ (by decide)).trans ((cutHi _ _ (by decide)).trans ((cutLo _ _ (by decide)).trans (cutAll _))))))
  have f27 : bits w 27 5 = 0xD#5 := e ▸ ((cutHi _ _ (by decide)).trans ((cutHi _ _ (by decide)).trans ((cutHi _ _ (by decide)).trans ((cutHi _ _ (by decide)).trans ((cutHi _ _ (by decide)).trans (cutAll _))))))
  refine decode_of w _ 0x27#7 f0 (by decide) (by decide) ?_ (unpk_no f0 (by decide)) hw
  rw [raw_Vst f0]
  simp [decodeVst, f7, f12, f17, f22, f27]

theorem mld (a : BitVec 5) (b : BitVec 5) (y : BitVec 5) : Statement (.mld a b y) := by
  intro w hw e
  replace e := Option.some.inj e
  have f0 : bits w 0 7 = 0xB#7 := e ▸ ((cutLo _ _ (by decide)).trans (cutAll _))
  have f7 : bits w 7 5 = 0x0#5 := e ▸ ((cutHi _ _ (by decide)).trans ((cutLo _ _ (by decide)).trans (cutAll _)))
  have f12 : bits w 12 3 = 0x0#3 := e ▸ ((cutHi _ _ (by decide)).trans ((cutHi _ _ (by decide)).trans ((cutLo _ _ (by decide)).trans (cutAll _))))
  have f15 : bits w 15 5 = a := e ▸ ((cutHi _ _ (by decide)).trans ((cutHi _ _ (by decide)).trans ((cutHi _ _ (by decide)).trans ((cutLo _ _ (by decide)).trans (cutAll _)))))
  have f20 : bits w 20 5 = b := e ▸ ((cutHi _ _ (by decide)).trans ((cutHi _ _ (by decide)).trans ((cutHi _ _ (by decide)).trans ((cutHi _ _ (by decide)).trans ((cutLo _ _ (by decide)).trans (cutAll _))))))
  have f25 : bits w 25 5 = y := e ▸ ((cutHi _ _ (by decide)).trans ((cutHi _ _ (by decide)).trans ((cutHi _ _ (by decide)).trans ((cutHi _ _ (by decide)).trans ((cutHi _ _ (by decide)).trans ((cutLo _ _ (by decide)).trans (cutAll _)))))))
  have f30 : bits w 30 2 = 0x0#2 := e ▸ ((cutHi _ _ (by decide)).trans ((cutHi _ _ (by decide)).trans ((cutHi _ _ (by decide)).trans ((cutHi _ _ (by decide)).trans ((cutHi _ _ (by decide)).trans ((cutHi _ _ (by decide)).trans (cutAll _)))))))
  refine decode_of w _ 0xB#7 f0 (by decide) (by decide) ?_ (unpk_no f0 (by decide)) hw
  rw [raw_Mat f0]
  simp [decodeMat, f7, f12, f15, f20, f25, f30]

theorem mswap : Statement .mswap := by
  intro w hw e
  replace e := Option.some.inj e
  have f0 : bits w 0 7 = 0xB#7 := e ▸ ((cutLo _ _ (by decide)).trans (cutAll _))
  have f7 : bits w 7 5 = 0x0#5 := e ▸ ((cutHi _ _ (by decide)).trans ((cutLo _ _ (by decide)).trans (cutAll _)))
  have f12 : bits w 12 3 = 0x1#3 := e ▸ ((cutHi _ _ (by decide)).trans ((cutHi _ _ (by decide)).trans ((cutLo _ _ (by decide)).trans (cutAll _))))
  have f15 : bits w 15 5 = 0x0#5 := e ▸ ((cutHi _ _ (by decide)).trans ((cutHi _ _ (by decide)).trans ((cutHi _ _ (by decide)).trans ((cutLo _ _ (by decide)).trans (cutAll _)))))
  have f20 : bits w 20 5 = 0x0#5 := e ▸ ((cutHi _ _ (by decide)).trans ((cutHi _ _ (by decide)).trans ((cutHi _ _ (by decide)).trans ((cutHi _ _ (by decide)).trans ((cutLo _ _ (by decide)).trans (cutAll _))))))
  have f25 : bits w 25 7 = 0x0#7 := e ▸ ((cutHi _ _ (by decide)).trans ((cutHi _ _ (by decide)).trans ((cutHi _ _ (by decide)).trans ((cutHi _ _ (by decide)).trans ((cutHi _ _ (by decide)).trans (cutAll _))))))
  refine decode_of w _ 0xB#7 f0 (by decide) (by decide) ?_ (unpk_no f0 (by decide)) hw
  rw [raw_Mat f0]
  simp [decodeMat, f7, f12, f15, f20, f25]

theorem mstr (x : BitVec 2) (a : BitVec 5) (b : BitVec 5) (c : BitVec 1) (y : BitVec 5) : Statement (.mstr x a b c y) := by
  intro w hw e
  replace e := Option.some.inj e
  have f0 : bits w 0 7 = 0xB#7 := e ▸ ((cutLo _ _ (by decide)).trans (cutAll _))
  have f7 : bits w 7 2 = x := e ▸ ((cutHi _ _ (by decide)).trans ((cutLo _ _ (by decide)).trans (cutAll _)))
  have f9 : bits w 9 3 = 0x0#3 := e ▸ ((cutHi _ _ (by decide)).trans ((cutHi _ _ (by decide)).trans ((cutLo _ _ (by decide)).trans (cutAll _))))
  have f12 : bits w 12 3 = 0x2#3 := e ▸ ((cutHi _ _ (by decide)).trans ((cutHi _ _ (by decide)).trans ((cutHi _ _ (by decide)).trans ((cutLo _ _ (by decide)).trans (cutAll _)))))
  have f15 : bits w 15 5 = a := e ▸ ((cutHi _ _ (by decide)).trans ((cutHi _ _ (by decide)).trans ((cutHi _ _ (by decide)).trans ((cutHi _ _ (by decide)).trans ((cutLo _ _ (by decide)).trans (cutAll _))))))
  have f20 : bits w 20 5 = b := e ▸ ((cutHi _ _ (by decide)).trans ((cutHi _ _ (by decide)).trans ((cutHi _ _ (by decide)).trans ((cutHi _ _ (by decide)).trans ((cutHi _ _ (by decide)).trans ((cutLo _ _ (by decide)).trans (cutAll _)))))))
  have f25 : bits w 25 5 = y := e ▸ ((cutHi _ _ (by decide)).trans ((cutHi _ _ (by decide)).trans ((cutHi _ _ (by decide)).trans ((cutHi _ _ (by decide)).trans ((cutHi _ _ (by decide)).trans ((cutHi _ _ (by decide)).trans ((cutLo _ _ (by decide)).trans (cutAll _))))))))
  have f30 : bits w 30 1 = c := e ▸ ((cutHi _ _ (by decide)).trans ((cutHi _ _ (by decide)).trans ((cutHi _ _ (by decide)).trans ((cutHi _ _ (by decide)).trans ((cutHi _ _ (by decide)).trans ((cutHi _ _ (by decide)).trans ((cutHi _ _ (by decide)).trans ((cutLo _ _ (by decide)).trans (cutAll _)))))))))
  have f31 : bits w 31 1 = 0x0#1 := e ▸ ((cutHi _ _ (by decide)).trans ((cutHi _ _ (by decide)).trans ((cutHi _ _ (by decide)).trans ((cutHi _ _ (by decide)).trans ((cutHi _ _ (by decide)).trans ((cutHi _ _ (by decide)).trans ((cutHi _ _ (by decide)).trans ((cutHi _ _ (by decide)).trans (cutAll _)))))))))
  refine decode_of w _ 0xB#7 f0 (by decide) (by decide) ?_ (unpk_no f0 (by decide)) hw
  rw [raw_Mat f0]
  simp [decodeMat, f7, f9, f12, f15, f20, f25, f30, f31]

theorem mrd (d : BitVec 5) (x : BitVec 2) (a : BitVec 5) : Statement (.mrd d x a) := by
  intro w hw e
  replace e := Option.some.inj e
  have f0 : bits w 0 7 = 0xB#7 := e ▸ ((cutLo _ _ (by decide)).trans (cutAll _))
  have f7 : bits w 7 5 = d := e ▸ ((cutHi _ _ (by decide)).trans ((cutLo _ _ (by decide)).trans (cutAll _)))
  have f12 : bits w 12 3 = 0x3#3 := e ▸ ((cutHi _ _ (by decide)).trans ((cutHi _ _ (by decide)).trans ((cutLo _ _ (by decide)).trans (cutAll _))))
  have f15 : bits w 15 5 = a := e ▸ ((cutHi _ _ (by decide)).trans ((cutHi _ _ (by decide)).trans ((cutHi _ _ (by decide)).trans ((cutLo _ _ (by decide)).trans (cutAll _)))))
  have f20 : bits w 20 2 = x := e ▸ ((cutHi _ _ (by decide)).trans ((cutHi _ _ (by decide)).trans ((cutHi _ _ (by decide)).trans ((cutHi _ _ (by decide)).trans ((cutLo _ _ (by decide)).trans (cutAll _))))))
  have f22 : bits w 22 3 = 0x0#3 := e ▸ ((cutHi _ _ (by decide)).trans ((cutHi _ _ (by decide)).trans ((cutHi _ _ (by decide)).trans ((cutHi _ _ (by decide)).trans ((cutHi _ _ (by decide)).trans ((cutLo _ _ (by decide)).trans (cutAll _)))))))
  have f25 : bits w 25 7 = 0x0#7 := e ▸ ((cutHi _ _ (by decide)).trans ((cutHi _ _ (by decide)).trans ((cutHi _ _ (by decide)).trans ((cutHi _ _ (by decide)).trans ((cutHi _ _ (by decide)).trans ((cutHi _ _ (by decide)).trans (cutAll _)))))))
  refine decode_of w _ 0xB#7 f0 (by decide) (by decide) ?_ (unpk_no f0 (by decide)) hw
  rw [raw_Mat f0]
  simp [decodeMat, f7, f12, f15, f20, f22, f25]

theorem mzero (x : BitVec 2) : Statement (.mzero x) := by
  intro w hw e
  replace e := Option.some.inj e
  have f0 : bits w 0 7 = 0xB#7 := e ▸ ((cutLo _ _ (by decide)).trans (cutAll _))
  have f7 : bits w 7 2 = x := e ▸ ((cutHi _ _ (by decide)).trans ((cutLo _ _ (by decide)).trans (cutAll _)))
  have f9 : bits w 9 3 = 0x0#3 := e ▸ ((cutHi _ _ (by decide)).trans ((cutHi _ _ (by decide)).trans ((cutLo _ _ (by decide)).trans (cutAll _))))
  have f12 : bits w 12 3 = 0x4#3 := e ▸ ((cutHi _ _ (by decide)).trans ((cutHi _ _ (by decide)).trans ((cutHi _ _ (by decide)).trans ((cutLo _ _ (by decide)).trans (cutAll _)))))
  have f15 : bits w 15 5 = 0x0#5 := e ▸ ((cutHi _ _ (by decide)).trans ((cutHi _ _ (by decide)).trans ((cutHi _ _ (by decide)).trans ((cutHi _ _ (by decide)).trans ((cutLo _ _ (by decide)).trans (cutAll _))))))
  have f20 : bits w 20 5 = 0x0#5 := e ▸ ((cutHi _ _ (by decide)).trans ((cutHi _ _ (by decide)).trans ((cutHi _ _ (by decide)).trans ((cutHi _ _ (by decide)).trans ((cutHi _ _ (by decide)).trans ((cutLo _ _ (by decide)).trans (cutAll _)))))))
  have f25 : bits w 25 7 = 0x0#7 := e ▸ ((cutHi _ _ (by decide)).trans ((cutHi _ _ (by decide)).trans ((cutHi _ _ (by decide)).trans ((cutHi _ _ (by decide)).trans ((cutHi _ _ (by decide)).trans ((cutHi _ _ (by decide)).trans (cutAll _)))))))
  refine decode_of w _ 0xB#7 f0 (by decide) (by decide) ?_ (unpk_no f0 (by decide)) hw
  rw [raw_Mat f0]
  simp [decodeMat, f7, f9, f12, f15, f20, f25]

theorem mst (x : BitVec 2) (a : BitVec 5) (b : BitVec 5) (y : BitVec 5) : Statement (.mst x a b y) := by
  intro w hw e
  replace e := Option.some.inj e
  have f0 : bits w 0 7 = 0xB#7 := e ▸ ((cutLo _ _ (by decide)).trans (cutAll _))
  have f7 : bits w 7 2 = x := e ▸ ((cutHi _ _ (by decide)).trans ((cutLo _ _ (by decide)).trans (cutAll _)))
  have f9 : bits w 9 3 = 0x0#3 := e ▸ ((cutHi _ _ (by decide)).trans ((cutHi _ _ (by decide)).trans ((cutLo _ _ (by decide)).trans (cutAll _))))
  have f12 : bits w 12 3 = 0x5#3 := e ▸ ((cutHi _ _ (by decide)).trans ((cutHi _ _ (by decide)).trans ((cutHi _ _ (by decide)).trans ((cutLo _ _ (by decide)).trans (cutAll _)))))
  have f15 : bits w 15 5 = a := e ▸ ((cutHi _ _ (by decide)).trans ((cutHi _ _ (by decide)).trans ((cutHi _ _ (by decide)).trans ((cutHi _ _ (by decide)).trans ((cutLo _ _ (by decide)).trans (cutAll _))))))
  have f20 : bits w 20 5 = b := e ▸ ((cutHi _ _ (by decide)).trans ((cutHi _ _ (by decide)).trans ((cutHi _ _ (by decide)).trans ((cutHi _ _ (by decide)).trans ((cutHi _ _ (by decide)).trans ((cutLo _ _ (by decide)).trans (cutAll _)))))))
  have f25 : bits w 25 5 = y := e ▸ ((cutHi _ _ (by decide)).trans ((cutHi _ _ (by decide)).trans ((cutHi _ _ (by decide)).trans ((cutHi _ _ (by decide)).trans ((cutHi _ _ (by decide)).trans ((cutHi _ _ (by decide)).trans ((cutLo _ _ (by decide)).trans (cutAll _))))))))
  have f30 : bits w 30 2 = 0x0#2 := e ▸ ((cutHi _ _ (by decide)).trans ((cutHi _ _ (by decide)).trans ((cutHi _ _ (by decide)).trans ((cutHi _ _ (by decide)).trans ((cutHi _ _ (by decide)).trans ((cutHi _ _ (by decide)).trans ((cutHi _ _ (by decide)).trans (cutAll _))))))))
  refine decode_of w _ 0xB#7 f0 (by decide) (by decide) ?_ (unpk_no f0 (by decide)) hw
  rw [raw_Mat f0]
  simp [decodeMat, f7, f9, f12, f15, f20, f25, f30]

theorem cpy (d : BitVec 5) (a : BitVec 5) (b : BitVec 5) (p : BitVec 4) : Statement (.cpy d a b p) := by
  intro w hw e
  replace e := Option.some.inj e
  have f0 : bits w 0 7 = 0x1B#7 := e ▸ ((cutLo _ _ (by decide)).trans (cutAll _))
  have f7 : bits w 7 5 = d := e ▸ ((cutHi _ _ (by decide)).trans ((cutLo _ _ (by decide)).trans (cutAll _)))
  have f12 : bits w 12 3 = 0x0#3 := e ▸ ((cutHi _ _ (by decide)).trans ((cutHi _ _ (by decide)).trans ((cutLo _ _ (by decide)).trans (cutAll _))))
  have f15 : bits w 15 5 = a := e ▸ ((cutHi _ _ (by decide)).trans ((cutHi _ _ (by decide)).trans ((cutHi _ _ (by decide)).trans ((cutLo _ _ (by decide)).trans (cutAll _)))))
  have f20 : bits w 20 5 = b := e ▸ ((cutHi _ _ (by decide)).trans ((cutHi _ _ (by decide)).trans ((cutHi _ _ (by decide)).trans ((cutHi _ _ (by decide)).trans ((cutLo _ _ (by decide)).trans (cutAll _))))))
  have f25 : bits w 25 4 = p := e ▸ ((cutHi _ _ (by decide)).trans ((cutHi _ _ (by decide)).trans ((cutHi _ _ (by decide)).trans ((cutHi _ _ (by decide)).trans ((cutHi _ _ (by decide)).trans ((cutLo _ _ (by decide)).trans (cutAll _)))))))
  have f29 : bits w 29 3 = 0x0#3 := e ▸ ((cutHi _ _ (by decide)).trans ((cutHi _ _ (by decide)).trans ((cutHi _ _ (by decide)).trans ((cutHi _ _ (by decide)).trans ((cutHi _ _ (by decide)).trans ((cutHi _ _ (by decide)).trans (cutAll _)))))))
  refine decode_of w _ 0x1B#7 f0 (by decide) (by decide) ?_ (unpk_no f0 (by decide)) hw
  rw [raw_Copy f0]
  simp [decodeCopy, f7, f12, f15, f20, f25, f29]

theorem cpyr (d : BitVec 5) (a : BitVec 5) (b : BitVec 5) (p : BitVec 4) : Statement (.cpyr d a b p) := by
  intro w hw e
  replace e := Option.some.inj e
  have f0 : bits w 0 7 = 0x1B#7 := e ▸ ((cutLo _ _ (by decide)).trans (cutAll _))
  have f7 : bits w 7 5 = d := e ▸ ((cutHi _ _ (by decide)).trans ((cutLo _ _ (by decide)).trans (cutAll _)))
  have f12 : bits w 12 3 = 0x1#3 := e ▸ ((cutHi _ _ (by decide)).trans ((cutHi _ _ (by decide)).trans ((cutLo _ _ (by decide)).trans (cutAll _))))
  have f15 : bits w 15 5 = a := e ▸ ((cutHi _ _ (by decide)).trans ((cutHi _ _ (by decide)).trans ((cutHi _ _ (by decide)).trans ((cutLo _ _ (by decide)).trans (cutAll _)))))
  have f20 : bits w 20 5 = b := e ▸ ((cutHi _ _ (by decide)).trans ((cutHi _ _ (by decide)).trans ((cutHi _ _ (by decide)).trans ((cutHi _ _ (by decide)).trans ((cutLo _ _ (by decide)).trans (cutAll _))))))
  have f25 : bits w 25 4 = p := e ▸ ((cutHi _ _ (by decide)).trans ((cutHi _ _ (by decide)).trans ((cutHi _ _ (by decide)).trans ((cutHi _ _ (by decide)).trans ((cutHi _ _ (by decide)).trans ((cutLo _ _ (by decide)).trans (cutAll _)))))))
  have f29 : bits w 29 3 = 0x0#3 := e ▸ ((cutHi _ _ (by decide)).trans ((cutHi _ _ (by decide)).trans ((cutHi _ _ (by decide)).trans ((cutHi _ _ (by decide)).trans ((cutHi _ _ (by decide)).trans ((cutHi _ _ (by decide)).trans (cutAll _)))))))
  refine decode_of w _ 0x1B#7 f0 (by decide) (by decide) ?_ (unpk_no f0 (by decide)) hw
  rw [raw_Copy f0]
  simp [decodeCopy, f7, f12, f15, f20, f25, f29]

theorem cwait (d : BitVec 5) (a : BitVec 5) (b : BitVec 5) (w : BitVec 7) : Statement (.cwait d a b w) := by
  intro u hw e
  replace e := Option.some.inj e
  have f0 : bits u 0 7 = 0x1B#7 := e ▸ ((cutLo _ _ (by decide)).trans (cutAll _))
  have f7 : bits u 7 5 = d := e ▸ ((cutHi _ _ (by decide)).trans ((cutLo _ _ (by decide)).trans (cutAll _)))
  have f12 : bits u 12 3 = 0x2#3 := e ▸ ((cutHi _ _ (by decide)).trans ((cutHi _ _ (by decide)).trans ((cutLo _ _ (by decide)).trans (cutAll _))))
  have f15 : bits u 15 5 = a := e ▸ ((cutHi _ _ (by decide)).trans ((cutHi _ _ (by decide)).trans ((cutHi _ _ (by decide)).trans ((cutLo _ _ (by decide)).trans (cutAll _)))))
  have f20 : bits u 20 5 = b := e ▸ ((cutHi _ _ (by decide)).trans ((cutHi _ _ (by decide)).trans ((cutHi _ _ (by decide)).trans ((cutHi _ _ (by decide)).trans ((cutLo _ _ (by decide)).trans (cutAll _))))))
  have f25 : bits u 25 7 = w := e ▸ ((cutHi _ _ (by decide)).trans ((cutHi _ _ (by decide)).trans ((cutHi _ _ (by decide)).trans ((cutHi _ _ (by decide)).trans ((cutHi _ _ (by decide)).trans (cutAll _))))))
  refine decode_of u _ 0x1B#7 f0 (by decide) (by decide) ?_ (unpk_no f0 (by decide)) hw
  rw [raw_Copy f0]
  simp [decodeCopy, f7, f12, f15, f20, f25]

theorem sbind (d : BitVec 5) (a : BitVec 5) (e : BitVec 3) (p : BitVec 4) : Statement (.sbind d a e p) := by
  intro w hw e1
  replace e1 := Option.some.inj e1
  have f0 : bits w 0 7 = 0x1B#7 := e1 ▸ ((cutLo _ _ (by decide)).trans (cutAll _))
  have f7 : bits w 7 5 = d := e1 ▸ ((cutHi _ _ (by decide)).trans ((cutLo _ _ (by decide)).trans (cutAll _)))
  have f12 : bits w 12 3 = 0x3#3 := e1 ▸ ((cutHi _ _ (by decide)).trans ((cutHi _ _ (by decide)).trans ((cutLo _ _ (by decide)).trans (cutAll _))))
  have f15 : bits w 15 5 = a := e1 ▸ ((cutHi _ _ (by decide)).trans ((cutHi _ _ (by decide)).trans ((cutHi _ _ (by decide)).trans ((cutLo _ _ (by decide)).trans (cutAll _)))))
  have f20 : bits w 20 5 = 0x0#5 := e1 ▸ ((cutHi _ _ (by decide)).trans ((cutHi _ _ (by decide)).trans ((cutHi _ _ (by decide)).trans ((cutHi _ _ (by decide)).trans ((cutLo _ _ (by decide)).trans (cutAll _))))))
  have f25 : bits w 25 4 = p := e1 ▸ ((cutHi _ _ (by decide)).trans ((cutHi _ _ (by decide)).trans ((cutHi _ _ (by decide)).trans ((cutHi _ _ (by decide)).trans ((cutHi _ _ (by decide)).trans ((cutLo _ _ (by decide)).trans (cutAll _)))))))
  have f29 : bits w 29 3 = e := e1 ▸ ((cutHi _ _ (by decide)).trans ((cutHi _ _ (by decide)).trans ((cutHi _ _ (by decide)).trans ((cutHi _ _ (by decide)).trans ((cutHi _ _ (by decide)).trans ((cutHi _ _ (by decide)).trans (cutAll _)))))))
  refine decode_of w _ 0x1B#7 f0 (by decide) (by decide) ?_ (unpk_no f0 (by decide)) hw
  rw [raw_Copy f0]
  simp [decodeCopy, f7, f12, f15, f20, f25, f29]

theorem sunbind (d : BitVec 5) : Statement (.sunbind d) := by
  intro w hw e
  replace e := Option.some.inj e
  have f0 : bits w 0 7 = 0x1B#7 := e ▸ ((cutLo _ _ (by decide)).trans (cutAll _))
  have f7 : bits w 7 5 = d := e ▸ ((cutHi _ _ (by decide)).trans ((cutLo _ _ (by decide)).trans (cutAll _)))
  have f12 : bits w 12 3 = 0x4#3 := e ▸ ((cutHi _ _ (by decide)).trans ((cutHi _ _ (by decide)).trans ((cutLo _ _ (by decide)).trans (cutAll _))))
  have f15 : bits w 15 5 = 0x0#5 := e ▸ ((cutHi _ _ (by decide)).trans ((cutHi _ _ (by decide)).trans ((cutHi _ _ (by decide)).trans ((cutLo _ _ (by decide)).trans (cutAll _)))))
  have f20 : bits w 20 5 = 0x0#5 := e ▸ ((cutHi _ _ (by decide)).trans ((cutHi _ _ (by decide)).trans ((cutHi _ _ (by decide)).trans ((cutHi _ _ (by decide)).trans ((cutLo _ _ (by decide)).trans (cutAll _))))))
  have f25 : bits w 25 7 = 0x0#7 := e ▸ ((cutHi _ _ (by decide)).trans ((cutHi _ _ (by decide)).trans ((cutHi _ _ (by decide)).trans ((cutHi _ _ (by decide)).trans ((cutHi _ _ (by decide)).trans (cutAll _))))))
  refine decode_of w _ 0x1B#7 f0 (by decide) (by decide) ?_ (unpk_no f0 (by decide)) hw
  rw [raw_Copy f0]
  simp [decodeCopy, f7, f12, f15, f20, f25]

theorem tlwait (d : BitVec 5) (a : BitVec 5) (b : BitVec 5) : Statement (.tlwait d a b) := by
  intro w hw e
  replace e := Option.some.inj e
  have f0 : bits w 0 7 = 0x1B#7 := e ▸ ((cutLo _ _ (by decide)).trans (cutAll _))
  have f7 : bits w 7 5 = d := e ▸ ((cutHi _ _ (by decide)).trans ((cutLo _ _ (by decide)).trans (cutAll _)))
  have f12 : bits w 12 3 = 0x5#3 := e ▸ ((cutHi _ _ (by decide)).trans ((cutHi _ _ (by decide)).trans ((cutLo _ _ (by decide)).trans (cutAll _))))
  have f15 : bits w 15 5 = a := e ▸ ((cutHi _ _ (by decide)).trans ((cutHi _ _ (by decide)).trans ((cutHi _ _ (by decide)).trans ((cutLo _ _ (by decide)).trans (cutAll _)))))
  have f20 : bits w 20 5 = b := e ▸ ((cutHi _ _ (by decide)).trans ((cutHi _ _ (by decide)).trans ((cutHi _ _ (by decide)).trans ((cutHi _ _ (by decide)).trans ((cutLo _ _ (by decide)).trans (cutAll _))))))
  have f25 : bits w 25 7 = 0x0#7 := e ▸ ((cutHi _ _ (by decide)).trans ((cutHi _ _ (by decide)).trans ((cutHi _ _ (by decide)).trans ((cutHi _ _ (by decide)).trans ((cutHi _ _ (by decide)).trans (cutAll _))))))
  refine decode_of w _ 0x1B#7 f0 (by decide) (by decide) ?_ (unpk_no f0 (by decide)) hw
  rw [raw_Copy f0]
  simp [decodeCopy, f7, f12, f15, f20, f25]

theorem capp (d : BitVec 5) (a : BitVec 5) (b : BitVec 5) : Statement (.capp d a b) := by
  intro w hw e
  replace e := Option.some.inj e
  have f0 : bits w 0 7 = 0x1B#7 := e ▸ ((cutLo _ _ (by decide)).trans (cutAll _))
  have f7 : bits w 7 5 = d := e ▸ ((cutHi _ _ (by decide)).trans ((cutLo _ _ (by decide)).trans (cutAll _)))
  have f12 : bits w 12 3 = 0x6#3 := e ▸ ((cutHi _ _ (by decide)).trans ((cutHi _ _ (by decide)).trans ((cutLo _ _ (by decide)).trans (cutAll _))))
  have f15 : bits w 15 5 = a := e ▸ ((cutHi _ _ (by decide)).trans ((cutHi _ _ (by decide)).trans ((cutHi _ _ (by decide)).trans ((cutLo _ _ (by decide)).trans (cutAll _)))))
  have f20 : bits w 20 5 = b := e ▸ ((cutHi _ _ (by decide)).trans ((cutHi _ _ (by decide)).trans ((cutHi _ _ (by decide)).trans ((cutHi _ _ (by decide)).trans ((cutLo _ _ (by decide)).trans (cutAll _))))))
  have f25 : bits w 25 7 = 0x0#7 := e ▸ ((cutHi _ _ (by decide)).trans ((cutHi _ _ (by decide)).trans ((cutHi _ _ (by decide)).trans ((cutHi _ _ (by decide)).trans ((cutHi _ _ (by decide)).trans (cutAll _))))))
  refine decode_of w _ 0x1B#7 f0 (by decide) (by decide) ?_ (unpk_no f0 (by decide)) hw
  rw [raw_Copy f0]
  simp [decodeCopy, f7, f12, f15, f20, f25]

theorem cstat (d : BitVec 5) (a : BitVec 5) : Statement (.cstat d a) := by
  intro w hw e
  replace e := Option.some.inj e
  have f0 : bits w 0 7 = 0x1B#7 := e ▸ ((cutLo _ _ (by decide)).trans (cutAll _))
  have f7 : bits w 7 5 = d := e ▸ ((cutHi _ _ (by decide)).trans ((cutLo _ _ (by decide)).trans (cutAll _)))
  have f12 : bits w 12 3 = 0x7#3 := e ▸ ((cutHi _ _ (by decide)).trans ((cutHi _ _ (by decide)).trans ((cutLo _ _ (by decide)).trans (cutAll _))))
  have f15 : bits w 15 5 = a := e ▸ ((cutHi _ _ (by decide)).trans ((cutHi _ _ (by decide)).trans ((cutHi _ _ (by decide)).trans ((cutLo _ _ (by decide)).trans (cutAll _)))))
  have f20 : bits w 20 5 = 0x0#5 := e ▸ ((cutHi _ _ (by decide)).trans ((cutHi _ _ (by decide)).trans ((cutHi _ _ (by decide)).trans ((cutHi _ _ (by decide)).trans ((cutLo _ _ (by decide)).trans (cutAll _))))))
  have f25 : bits w 25 7 = 0x0#7 := e ▸ ((cutHi _ _ (by decide)).trans ((cutHi _ _ (by decide)).trans ((cutHi _ _ (by decide)).trans ((cutHi _ _ (by decide)).trans ((cutHi _ _ (by decide)).trans (cutAll _))))))
  refine decode_of w _ 0x1B#7 f0 (by decide) (by decide) ?_ (unpk_no f0 (by decide)) hw
  rw [raw_Copy f0]
  simp [decodeCopy, f7, f12, f15, f20, f25]

theorem barr (d : BitVec 5) (a : BitVec 5) : Statement (.barr d a) := by
  intro w hw e
  replace e := Option.some.inj e
  have f0 : bits w 0 7 = 0x2B#7 := e ▸ ((cutLo _ _ (by decide)).trans (cutAll _))
  have f7 : bits w 7 5 = d := e ▸ ((cutHi _ _ (by decide)).trans ((cutLo _ _ (by decide)).trans (cutAll _)))
  have f12 : bits w 12 3 = 0x0#3 := e ▸ ((cutHi _ _ (by decide)).trans ((cutHi _ _ (by decide)).trans ((cutLo _ _ (by decide)).trans (cutAll _))))
  have f15 : bits w 15 5 = a := e ▸ ((cutHi _ _ (by decide)).trans ((cutHi _ _ (by decide)).trans ((cutHi _ _ (by decide)).trans ((cutLo _ _ (by decide)).trans (cutAll _)))))
  have f20 : bits w 20 5 = 0x0#5 := e ▸ ((cutHi _ _ (by decide)).trans ((cutHi _ _ (by decide)).trans ((cutHi _ _ (by decide)).trans ((cutHi _ _ (by decide)).trans ((cutLo _ _ (by decide)).trans (cutAll _))))))
  have f25 : bits w 25 7 = 0x0#7 := e ▸ ((cutHi _ _ (by decide)).trans ((cutHi _ _ (by decide)).trans ((cutHi _ _ (by decide)).trans ((cutHi _ _ (by decide)).trans ((cutHi _ _ (by decide)).trans (cutAll _))))))
  refine decode_of w _ 0x2B#7 f0 (by decide) (by decide) ?_ (unpk_no f0 (by decide)) hw
  rw [raw_Sync f0]
  simp [decodeSync, f7, f12, f15, f20, f25]

theorem bwait (d : BitVec 5) (a : BitVec 5) (b : BitVec 5) : Statement (.bwait d a b) := by
  intro w hw e
  replace e := Option.some.inj e
  have f0 : bits w 0 7 = 0x2B#7 := e ▸ ((cutLo _ _ (by decide)).trans (cutAll _))
  have f7 : bits w 7 5 = d := e ▸ ((cutHi _ _ (by decide)).trans ((cutLo _ _ (by decide)).trans (cutAll _)))
  have f12 : bits w 12 3 = 0x1#3 := e ▸ ((cutHi _ _ (by decide)).trans ((cutHi _ _ (by decide)).trans ((cutLo _ _ (by decide)).trans (cutAll _))))
  have f15 : bits w 15 5 = a := e ▸ ((cutHi _ _ (by decide)).trans ((cutHi _ _ (by decide)).trans ((cutHi _ _ (by decide)).trans ((cutLo _ _ (by decide)).trans (cutAll _)))))
  have f20 : bits w 20 5 = b := e ▸ ((cutHi _ _ (by decide)).trans ((cutHi _ _ (by decide)).trans ((cutHi _ _ (by decide)).trans ((cutHi _ _ (by decide)).trans ((cutLo _ _ (by decide)).trans (cutAll _))))))
  have f25 : bits w 25 7 = 0x0#7 := e ▸ ((cutHi _ _ (by decide)).trans ((cutHi _ _ (by decide)).trans ((cutHi _ _ (by decide)).trans ((cutHi _ _ (by decide)).trans ((cutHi _ _ (by decide)).trans (cutAll _))))))
  refine decode_of w _ 0x2B#7 f0 (by decide) (by decide) ?_ (unpk_no f0 (by decide)) hw
  rw [raw_Sync f0]
  simp [decodeSync, f7, f12, f15, f20, f25]

theorem bsync (d : BitVec 5) (a : BitVec 5) (b : BitVec 5) : Statement (.bsync d a b) := by
  intro w hw e
  replace e := Option.some.inj e
  have f0 : bits w 0 7 = 0x2B#7 := e ▸ ((cutLo _ _ (by decide)).trans (cutAll _))
  have f7 : bits w 7 5 = d := e ▸ ((cutHi _ _ (by decide)).trans ((cutLo _ _ (by decide)).trans (cutAll _)))
  have f12 : bits w 12 3 = 0x2#3 := e ▸ ((cutHi _ _ (by decide)).trans ((cutHi _ _ (by decide)).trans ((cutLo _ _ (by decide)).trans (cutAll _))))
  have f15 : bits w 15 5 = a := e ▸ ((cutHi _ _ (by decide)).trans ((cutHi _ _ (by decide)).trans ((cutHi _ _ (by decide)).trans ((cutLo _ _ (by decide)).trans (cutAll _)))))
  have f20 : bits w 20 5 = b := e ▸ ((cutHi _ _ (by decide)).trans ((cutHi _ _ (by decide)).trans ((cutHi _ _ (by decide)).trans ((cutHi _ _ (by decide)).trans ((cutLo _ _ (by decide)).trans (cutAll _))))))
  have f25 : bits w 25 7 = 0x0#7 := e ▸ ((cutHi _ _ (by decide)).trans ((cutHi _ _ (by decide)).trans ((cutHi _ _ (by decide)).trans ((cutHi _ _ (by decide)).trans ((cutHi _ _ (by decide)).trans (cutAll _))))))
  refine decode_of w _ 0x2B#7 f0 (by decide) (by decide) ?_ (unpk_no f0 (by decide)) hw
  rw [raw_Sync f0]
  simp [decodeSync, f7, f12, f15, f20, f25]

theorem acq (d : BitVec 5) (a : BitVec 5) (b : BitVec 5) : Statement (.acq d a b) := by
  intro w hw e
  replace e := Option.some.inj e
  have f0 : bits w 0 7 = 0x2B#7 := e ▸ ((cutLo _ _ (by decide)).trans (cutAll _))
  have f7 : bits w 7 5 = d := e ▸ ((cutHi _ _ (by decide)).trans ((cutLo _ _ (by decide)).trans (cutAll _)))
  have f12 : bits w 12 3 = 0x3#3 := e ▸ ((cutHi _ _ (by decide)).trans ((cutHi _ _ (by decide)).trans ((cutLo _ _ (by decide)).trans (cutAll _))))
  have f15 : bits w 15 5 = a := e ▸ ((cutHi _ _ (by decide)).trans ((cutHi _ _ (by decide)).trans ((cutHi _ _ (by decide)).trans ((cutLo _ _ (by decide)).trans (cutAll _)))))
  have f20 : bits w 20 5 = b := e ▸ ((cutHi _ _ (by decide)).trans ((cutHi _ _ (by decide)).trans ((cutHi _ _ (by decide)).trans ((cutHi _ _ (by decide)).trans ((cutLo _ _ (by decide)).trans (cutAll _))))))
  have f25 : bits w 25 7 = 0x0#7 := e ▸ ((cutHi _ _ (by decide)).trans ((cutHi _ _ (by decide)).trans ((cutHi _ _ (by decide)).trans ((cutHi _ _ (by decide)).trans ((cutHi _ _ (by decide)).trans (cutAll _))))))
  refine decode_of w _ 0x2B#7 f0 (by decide) (by decide) ?_ (unpk_no f0 (by decide)) hw
  rw [raw_Sync f0]
  simp [decodeSync, f7, f12, f15, f20, f25]

theorem rel (d : BitVec 5) (a : BitVec 5) : Statement (.rel d a) := by
  intro w hw e
  replace e := Option.some.inj e
  have f0 : bits w 0 7 = 0x2B#7 := e ▸ ((cutLo _ _ (by decide)).trans (cutAll _))
  have f7 : bits w 7 5 = d := e ▸ ((cutHi _ _ (by decide)).trans ((cutLo _ _ (by decide)).trans (cutAll _)))
  have f12 : bits w 12 3 = 0x4#3 := e ▸ ((cutHi _ _ (by decide)).trans ((cutHi _ _ (by decide)).trans ((cutLo _ _ (by decide)).trans (cutAll _))))
  have f15 : bits w 15 5 = a := e ▸ ((cutHi _ _ (by decide)).trans ((cutHi _ _ (by decide)).trans ((cutHi _ _ (by decide)).trans ((cutLo _ _ (by decide)).trans (cutAll _)))))
  have f20 : bits w 20 5 = 0x0#5 := e ▸ ((cutHi _ _ (by decide)).trans ((cutHi _ _ (by decide)).trans ((cutHi _ _ (by decide)).trans ((cutHi _ _ (by decide)).trans ((cutLo _ _ (by decide)).trans (cutAll _))))))
  have f25 : bits w 25 7 = 0x0#7 := e ▸ ((cutHi _ _ (by decide)).trans ((cutHi _ _ (by decide)).trans ((cutHi _ _ (by decide)).trans ((cutHi _ _ (by decide)).trans ((cutHi _ _ (by decide)).trans (cutAll _))))))
  refine decode_of w _ 0x2B#7 f0 (by decide) (by decide) ?_ (unpk_no f0 (by decide)) hw
  rw [raw_Sync f0]
  simp [decodeSync, f7, f12, f15, f20, f25]

theorem mend (d : BitVec 5) (a : BitVec 5) (b : BitVec 5) : Statement (.mend d a b) := by
  intro w hw e
  replace e := Option.some.inj e
  have f0 : bits w 0 7 = 0x2B#7 := e ▸ ((cutLo _ _ (by decide)).trans (cutAll _))
  have f7 : bits w 7 5 = d := e ▸ ((cutHi _ _ (by decide)).trans ((cutLo _ _ (by decide)).trans (cutAll _)))
  have f12 : bits w 12 3 = 0x5#3 := e ▸ ((cutHi _ _ (by decide)).trans ((cutHi _ _ (by decide)).trans ((cutLo _ _ (by decide)).trans (cutAll _))))
  have f15 : bits w 15 5 = a := e ▸ ((cutHi _ _ (by decide)).trans ((cutHi _ _ (by decide)).trans ((cutHi _ _ (by decide)).trans ((cutLo _ _ (by decide)).trans (cutAll _)))))
  have f20 : bits w 20 5 = b := e ▸ ((cutHi _ _ (by decide)).trans ((cutHi _ _ (by decide)).trans ((cutHi _ _ (by decide)).trans ((cutHi _ _ (by decide)).trans ((cutLo _ _ (by decide)).trans (cutAll _))))))
  have f25 : bits w 25 7 = 0x0#7 := e ▸ ((cutHi _ _ (by decide)).trans ((cutHi _ _ (by decide)).trans ((cutHi _ _ (by decide)).trans ((cutHi _ _ (by decide)).trans ((cutHi _ _ (by decide)).trans (cutAll _))))))
  refine decode_of w _ 0x2B#7 f0 (by decide) (by decide) ?_ (unpk_no f0 (by decide)) hw
  rw [raw_Sync f0]
  simp [decodeSync, f7, f12, f15, f20, f25]

theorem pacq (s : BitVec 3) : Statement (.pacq s) := by
  intro w hw e
  replace e := Option.some.inj e
  have f0 : bits w 0 7 = 0x2B#7 := e ▸ ((cutLo _ _ (by decide)).trans (cutAll _))
  have f7 : bits w 7 5 = 0x0#5 := e ▸ ((cutHi _ _ (by decide)).trans ((cutLo _ _ (by decide)).trans (cutAll _)))
  have f12 : bits w 12 3 = 0x6#3 := e ▸ ((cutHi _ _ (by decide)).trans ((cutHi _ _ (by decide)).trans ((cutLo _ _ (by decide)).trans (cutAll _))))
  have f15 : bits w 15 5 = 0x0#5 := e ▸ ((cutHi _ _ (by decide)).trans ((cutHi _ _ (by decide)).trans ((cutHi _ _ (by decide)).trans ((cutLo _ _ (by decide)).trans (cutAll _)))))
  have f20 : bits w 20 5 = 0x0#5 := e ▸ ((cutHi _ _ (by decide)).trans ((cutHi _ _ (by decide)).trans ((cutHi _ _ (by decide)).trans ((cutHi _ _ (by decide)).trans ((cutLo _ _ (by decide)).trans (cutAll _))))))
  have f25 : bits w 25 3 = s := e ▸ ((cutHi _ _ (by decide)).trans ((cutHi _ _ (by decide)).trans ((cutHi _ _ (by decide)).trans ((cutHi _ _ (by decide)).trans ((cutHi _ _ (by decide)).trans ((cutLo _ _ (by decide)).trans (cutAll _)))))))
  have f28 : bits w 28 4 = 0x0#4 := e ▸ ((cutHi _ _ (by decide)).trans ((cutHi _ _ (by decide)).trans ((cutHi _ _ (by decide)).trans ((cutHi _ _ (by decide)).trans ((cutHi _ _ (by decide)).trans ((cutHi _ _ (by decide)).trans (cutAll _)))))))
  refine decode_of w _ 0x2B#7 f0 (by decide) (by decide) ?_ (unpk_no f0 (by decide)) hw
  rw [raw_Sync f0]
  simp [decodeSync, f7, f12, f15, f20, f25, f28]

theorem prel (s : BitVec 3) : Statement (.prel s) := by
  intro w hw e
  replace e := Option.some.inj e
  have f0 : bits w 0 7 = 0x2B#7 := e ▸ ((cutLo _ _ (by decide)).trans (cutAll _))
  have f7 : bits w 7 5 = 0x0#5 := e ▸ ((cutHi _ _ (by decide)).trans ((cutLo _ _ (by decide)).trans (cutAll _)))
  have f12 : bits w 12 3 = 0x6#3 := e ▸ ((cutHi _ _ (by decide)).trans ((cutHi _ _ (by decide)).trans ((cutLo _ _ (by decide)).trans (cutAll _))))
  have f15 : bits w 15 5 = 0x0#5 := e ▸ ((cutHi _ _ (by decide)).trans ((cutHi _ _ (by decide)).trans ((cutHi _ _ (by decide)).trans ((cutLo _ _ (by decide)).trans (cutAll _)))))
  have f20 : bits w 20 5 = 0x0#5 := e ▸ ((cutHi _ _ (by decide)).trans ((cutHi _ _ (by decide)).trans ((cutHi _ _ (by decide)).trans ((cutHi _ _ (by decide)).trans ((cutLo _ _ (by decide)).trans (cutAll _))))))
  have f25 : bits w 25 3 = s := e ▸ ((cutHi _ _ (by decide)).trans ((cutHi _ _ (by decide)).trans ((cutHi _ _ (by decide)).trans ((cutHi _ _ (by decide)).trans ((cutHi _ _ (by decide)).trans ((cutLo _ _ (by decide)).trans (cutAll _)))))))
  have f28 : bits w 28 4 = 0x1#4 := e ▸ ((cutHi _ _ (by decide)).trans ((cutHi _ _ (by decide)).trans ((cutHi _ _ (by decide)).trans ((cutHi _ _ (by decide)).trans ((cutHi _ _ (by decide)).trans ((cutHi _ _ (by decide)).trans (cutAll _)))))))
  refine decode_of w _ 0x2B#7 f0 (by decide) (by decide) ?_ (unpk_no f0 (by decide)) hw
  rw [raw_Sync f0]
  simp [decodeSync, f7, f12, f15, f20, f25, f28]

theorem pfull (s : BitVec 3) : Statement (.pfull s) := by
  intro w hw e
  replace e := Option.some.inj e
  have f0 : bits w 0 7 = 0x2B#7 := e ▸ ((cutLo _ _ (by decide)).trans (cutAll _))
  have f7 : bits w 7 5 = 0x0#5 := e ▸ ((cutHi _ _ (by decide)).trans ((cutLo _ _ (by decide)).trans (cutAll _)))
  have f12 : bits w 12 3 = 0x6#3 := e ▸ ((cutHi _ _ (by decide)).trans ((cutHi _ _ (by decide)).trans ((cutLo _ _ (by decide)).trans (cutAll _))))
  have f15 : bits w 15 5 = 0x0#5 := e ▸ ((cutHi _ _ (by decide)).trans ((cutHi _ _ (by decide)).trans ((cutHi _ _ (by decide)).trans ((cutLo _ _ (by decide)).trans (cutAll _)))))
  have f20 : bits w 20 5 = 0x0#5 := e ▸ ((cutHi _ _ (by decide)).trans ((cutHi _ _ (by decide)).trans ((cutHi _ _ (by decide)).trans ((cutHi _ _ (by decide)).trans ((cutLo _ _ (by decide)).trans (cutAll _))))))
  have f25 : bits w 25 3 = s := e ▸ ((cutHi _ _ (by decide)).trans ((cutHi _ _ (by decide)).trans ((cutHi _ _ (by decide)).trans ((cutHi _ _ (by decide)).trans ((cutHi _ _ (by decide)).trans ((cutLo _ _ (by decide)).trans (cutAll _)))))))
  have f28 : bits w 28 4 = 0x2#4 := e ▸ ((cutHi _ _ (by decide)).trans ((cutHi _ _ (by decide)).trans ((cutHi _ _ (by decide)).trans ((cutHi _ _ (by decide)).trans ((cutHi _ _ (by decide)).trans ((cutHi _ _ (by decide)).trans (cutAll _)))))))
  refine decode_of w _ 0x2B#7 f0 (by decide) (by decide) ?_ (unpk_no f0 (by decide)) hw
  rw [raw_Sync f0]
  simp [decodeSync, f7, f12, f15, f20, f25, f28]

theorem bbind (d : BitVec 5) (a : BitVec 5) : Statement (.bbind d a) := by
  intro w hw e
  replace e := Option.some.inj e
  have f0 : bits w 0 7 = 0x2B#7 := e ▸ ((cutLo _ _ (by decide)).trans (cutAll _))
  have f7 : bits w 7 5 = d := e ▸ ((cutHi _ _ (by decide)).trans ((cutLo _ _ (by decide)).trans (cutAll _)))
  have f12 : bits w 12 3 = 0x7#3 := e ▸ ((cutHi _ _ (by decide)).trans ((cutHi _ _ (by decide)).trans ((cutLo _ _ (by decide)).trans (cutAll _))))
  have f15 : bits w 15 5 = a := e ▸ ((cutHi _ _ (by decide)).trans ((cutHi _ _ (by decide)).trans ((cutHi _ _ (by decide)).trans ((cutLo _ _ (by decide)).trans (cutAll _)))))
  have f20 : bits w 20 5 = 0x0#5 := e ▸ ((cutHi _ _ (by decide)).trans ((cutHi _ _ (by decide)).trans ((cutHi _ _ (by decide)).trans ((cutHi _ _ (by decide)).trans ((cutLo _ _ (by decide)).trans (cutAll _))))))
  have f25 : bits w 25 7 = 0x0#7 := e ▸ ((cutHi _ _ (by decide)).trans ((cutHi _ _ (by decide)).trans ((cutHi _ _ (by decide)).trans ((cutHi _ _ (by decide)).trans ((cutHi _ _ (by decide)).trans (cutAll _))))))
  have f28 : bits w 28 4 = 0x0#4 := e ▸ ((cutHi _ _ (by decide)).trans ((cutHi _ _ (by decide)).trans ((cutHi _ _ (by decide)).trans ((cutHi _ _ (by decide)).trans ((cutHi _ _ (by decide)).trans (by decide))))))
  refine decode_of w _ 0x2B#7 f0 (by decide) (by decide) ?_ (unpk_no f0 (by decide)) hw
  rw [raw_Sync f0]
  simp [decodeSync, f7, f12, f15, f20, f25, f28]

theorem bdrop (d : BitVec 5) (a : BitVec 5) : Statement (.bdrop d a) := by
  intro w hw e
  replace e := Option.some.inj e
  have f0 : bits w 0 7 = 0x2B#7 := e ▸ ((cutLo _ _ (by decide)).trans (cutAll _))
  have f7 : bits w 7 5 = d := e ▸ ((cutHi _ _ (by decide)).trans ((cutLo _ _ (by decide)).trans (cutAll _)))
  have f12 : bits w 12 3 = 0x7#3 := e ▸ ((cutHi _ _ (by decide)).trans ((cutHi _ _ (by decide)).trans ((cutLo _ _ (by decide)).trans (cutAll _))))
  have f15 : bits w 15 5 = a := e ▸ ((cutHi _ _ (by decide)).trans ((cutHi _ _ (by decide)).trans ((cutHi _ _ (by decide)).trans ((cutLo _ _ (by decide)).trans (cutAll _)))))
  have f20 : bits w 20 5 = 0x0#5 := e ▸ ((cutHi _ _ (by decide)).trans ((cutHi _ _ (by decide)).trans ((cutHi _ _ (by decide)).trans ((cutHi _ _ (by decide)).trans ((cutLo _ _ (by decide)).trans (cutAll _))))))
  have f25 : bits w 25 7 = 0x1#7 := e ▸ ((cutHi _ _ (by decide)).trans ((cutHi _ _ (by decide)).trans ((cutHi _ _ (by decide)).trans ((cutHi _ _ (by decide)).trans ((cutHi _ _ (by decide)).trans (cutAll _))))))
  have f28 : bits w 28 4 = 0x0#4 := e ▸ ((cutHi _ _ (by decide)).trans ((cutHi _ _ (by decide)).trans ((cutHi _ _ (by decide)).trans ((cutHi _ _ (by decide)).trans ((cutHi _ _ (by decide)).trans (by decide))))))
  refine decode_of w _ 0x2B#7 f0 (by decide) (by decide) ?_ (unpk_no f0 (by decide)) hw
  rw [raw_Sync f0]
  simp [decodeSync, f7, f12, f15, f20, f25, f28]

theorem bstat (d : BitVec 5) (a : BitVec 5) : Statement (.bstat d a) := by
  intro w hw e
  replace e := Option.some.inj e
  have f0 : bits w 0 7 = 0x2B#7 := e ▸ ((cutLo _ _ (by decide)).trans (cutAll _))
  have f7 : bits w 7 5 = d := e ▸ ((cutHi _ _ (by decide)).trans ((cutLo _ _ (by decide)).trans (cutAll _)))
  have f12 : bits w 12 3 = 0x7#3 := e ▸ ((cutHi _ _ (by decide)).trans ((cutHi _ _ (by decide)).trans ((cutLo _ _ (by decide)).trans (cutAll _))))
  have f15 : bits w 15 5 = a := e ▸ ((cutHi _ _ (by decide)).trans ((cutHi _ _ (by decide)).trans ((cutHi _ _ (by decide)).trans ((cutLo _ _ (by decide)).trans (cutAll _)))))
  have f20 : bits w 20 5 = 0x0#5 := e ▸ ((cutHi _ _ (by decide)).trans ((cutHi _ _ (by decide)).trans ((cutHi _ _ (by decide)).trans ((cutHi _ _ (by decide)).trans ((cutLo _ _ (by decide)).trans (cutAll _))))))
  have f25 : bits w 25 7 = 0x2#7 := e ▸ ((cutHi _ _ (by decide)).trans ((cutHi _ _ (by decide)).trans ((cutHi _ _ (by decide)).trans ((cutHi _ _ (by decide)).trans ((cutHi _ _ (by decide)).trans (cutAll _))))))
  have f28 : bits w 28 4 = 0x0#4 := e ▸ ((cutHi _ _ (by decide)).trans ((cutHi _ _ (by decide)).trans ((cutHi _ _ (by decide)).trans ((cutHi _ _ (by decide)).trans ((cutHi _ _ (by decide)).trans (by decide))))))
  refine decode_of w _ 0x2B#7 f0 (by decide) (by decide) ?_ (unpk_no f0 (by decide)) hw
  rw [raw_Sync f0]
  simp [decodeSync, f7, f12, f15, f20, f25, f28]

theorem wmbind (d : BitVec 5) (a : BitVec 5) (b : BitVec 5) : Statement (.wmbind d a b) := by
  intro w hw e
  replace e := Option.some.inj e
  have f0 : bits w 0 7 = 0x2B#7 := e ▸ ((cutLo _ _ (by decide)).trans (cutAll _))
  have f7 : bits w 7 5 = d := e ▸ ((cutHi _ _ (by decide)).trans ((cutLo _ _ (by decide)).trans (cutAll _)))
  have f12 : bits w 12 3 = 0x7#3 := e ▸ ((cutHi _ _ (by decide)).trans ((cutHi _ _ (by decide)).trans ((cutLo _ _ (by decide)).trans (cutAll _))))
  have f15 : bits w 15 5 = a := e ▸ ((cutHi _ _ (by decide)).trans ((cutHi _ _ (by decide)).trans ((cutHi _ _ (by decide)).trans ((cutLo _ _ (by decide)).trans (cutAll _)))))
  have f20 : bits w 20 5 = b := e ▸ ((cutHi _ _ (by decide)).trans ((cutHi _ _ (by decide)).trans ((cutHi _ _ (by decide)).trans ((cutHi _ _ (by decide)).trans ((cutLo _ _ (by decide)).trans (cutAll _))))))
  have f25 : bits w 25 7 = 0x3#7 := e ▸ ((cutHi _ _ (by decide)).trans ((cutHi _ _ (by decide)).trans ((cutHi _ _ (by decide)).trans ((cutHi _ _ (by decide)).trans ((cutHi _ _ (by decide)).trans (cutAll _))))))
  have f28 : bits w 28 4 = 0x0#4 := e ▸ ((cutHi _ _ (by decide)).trans ((cutHi _ _ (by decide)).trans ((cutHi _ _ (by decide)).trans ((cutHi _ _ (by decide)).trans ((cutHi _ _ (by decide)).trans (by decide))))))
  refine decode_of w _ 0x2B#7 f0 (by decide) (by decide) ?_ (unpk_no f0 (by decide)) hw
  rw [raw_Sync f0]
  simp [decodeSync, f7, f12, f15, f20, f25, f28]

theorem wmpub (a : BitVec 5) (b : BitVec 5) : Statement (.wmpub a b) := by
  intro w hw e
  replace e := Option.some.inj e
  have f0 : bits w 0 7 = 0x2B#7 := e ▸ ((cutLo _ _ (by decide)).trans (cutAll _))
  have f7 : bits w 7 5 = 0x0#5 := e ▸ ((cutHi _ _ (by decide)).trans ((cutLo _ _ (by decide)).trans (cutAll _)))
  have f12 : bits w 12 3 = 0x7#3 := e ▸ ((cutHi _ _ (by decide)).trans ((cutHi _ _ (by decide)).trans ((cutLo _ _ (by decide)).trans (cutAll _))))
  have f15 : bits w 15 5 = a := e ▸ ((cutHi _ _ (by decide)).trans ((cutHi _ _ (by decide)).trans ((cutHi _ _ (by decide)).trans ((cutLo _ _ (by decide)).trans (cutAll _)))))
  have f20 : bits w 20 5 = b := e ▸ ((cutHi _ _ (by decide)).trans ((cutHi _ _ (by decide)).trans ((cutHi _ _ (by decide)).trans ((cutHi _ _ (by decide)).trans ((cutLo _ _ (by decide)).trans (cutAll _))))))
  have f25 : bits w 25 7 = 0x4#7 := e ▸ ((cutHi _ _ (by decide)).trans ((cutHi _ _ (by decide)).trans ((cutHi _ _ (by decide)).trans ((cutHi _ _ (by decide)).trans ((cutHi _ _ (by decide)).trans (cutAll _))))))
  have f28 : bits w 28 4 = 0x0#4 := e ▸ ((cutHi _ _ (by decide)).trans ((cutHi _ _ (by decide)).trans ((cutHi _ _ (by decide)).trans ((cutHi _ _ (by decide)).trans ((cutHi _ _ (by decide)).trans (by decide))))))
  refine decode_of w _ 0x2B#7 f0 (by decide) (by decide) ?_ (unpk_no f0 (by decide)) hw
  rw [raw_Sync f0]
  simp [decodeSync, f7, f12, f15, f20, f25, f28]

theorem wmrd (d : BitVec 5) (a : BitVec 5) : Statement (.wmrd d a) := by
  intro w hw e
  replace e := Option.some.inj e
  have f0 : bits w 0 7 = 0x2B#7 := e ▸ ((cutLo _ _ (by decide)).trans (cutAll _))
  have f7 : bits w 7 5 = d := e ▸ ((cutHi _ _ (by decide)).trans ((cutLo _ _ (by decide)).trans (cutAll _)))
  have f12 : bits w 12 3 = 0x7#3 := e ▸ ((cutHi _ _ (by decide)).trans ((cutHi _ _ (by decide)).trans ((cutLo _ _ (by decide)).trans (cutAll _))))
  have f15 : bits w 15 5 = a := e ▸ ((cutHi _ _ (by decide)).trans ((cutHi _ _ (by decide)).trans ((cutHi _ _ (by decide)).trans ((cutLo _ _ (by decide)).trans (cutAll _)))))
  have f20 : bits w 20 5 = 0x0#5 := e ▸ ((cutHi _ _ (by decide)).trans ((cutHi _ _ (by decide)).trans ((cutHi _ _ (by decide)).trans ((cutHi _ _ (by decide)).trans ((cutLo _ _ (by decide)).trans (cutAll _))))))
  have f25 : bits w 25 7 = 0x5#7 := e ▸ ((cutHi _ _ (by decide)).trans ((cutHi _ _ (by decide)).trans ((cutHi _ _ (by decide)).trans ((cutHi _ _ (by decide)).trans ((cutHi _ _ (by decide)).trans (cutAll _))))))
  have f28 : bits w 28 4 = 0x0#4 := e ▸ ((cutHi _ _ (by decide)).trans ((cutHi _ _ (by decide)).trans ((cutHi _ _ (by decide)).trans ((cutHi _ _ (by decide)).trans ((cutHi _ _ (by decide)).trans (by decide))))))
  refine decode_of w _ 0x2B#7 f0 (by decide) (by decide) ?_ (unpk_no f0 (by decide)) hw
  rw [raw_Sync f0]
  simp [decodeSync, f7, f12, f15, f20, f25, f28]

theorem rbind (d : BitVec 5) (a : BitVec 5) : Statement (.rbind d a) := by
  intro w hw e
  replace e := Option.some.inj e
  have f0 : bits w 0 7 = 0x3B#7 := e ▸ ((cutLo _ _ (by decide)).trans (cutAll _))
  have f7 : bits w 7 5 = d := e ▸ ((cutHi _ _ (by decide)).trans ((cutLo _ _ (by decide)).trans (cutAll _)))
  have f12 : bits w 12 3 = 0x0#3 := e ▸ ((cutHi _ _ (by decide)).trans ((cutHi _ _ (by decide)).trans ((cutLo _ _ (by decide)).trans (cutAll _))))
  have f15 : bits w 15 5 = a := e ▸ ((cutHi _ _ (by decide)).trans ((cutHi _ _ (by decide)).trans ((cutHi _ _ (by decide)).trans ((cutLo _ _ (by decide)).trans (cutAll _)))))
  have f20 : bits w 20 5 = 0x0#5 := e ▸ ((cutHi _ _ (by decide)).trans ((cutHi _ _ (by decide)).trans ((cutHi _ _ (by decide)).trans ((cutHi _ _ (by decide)).trans ((cutLo _ _ (by decide)).trans (cutAll _))))))
  have f25 : bits w 25 7 = 0x0#7 := e ▸ ((cutHi _ _ (by decide)).trans ((cutHi _ _ (by decide)).trans ((cutHi _ _ (by decide)).trans ((cutHi _ _ (by decide)).trans ((cutHi _ _ (by decide)).trans (cutAll _))))))
  refine decode_of w _ 0x3B#7 f0 (by decide) (by decide) ?_ (unpk_no f0 (by decide)) hw
  rw [raw_Ring f0]
  simp [decodeRing, f7, f12, f15, f20, f25]

theorem rget (d : BitVec 5) (a : BitVec 5) (b : BitVec 5) : Statement (.rget d a b) := by
  intro w hw e
  replace e := Option.some.inj e
  have f0 : bits w 0 7 = 0x3B#7 := e ▸ ((cutLo _ _ (by decide)).trans (cutAll _))
  have f7 : bits w 7 5 = d := e ▸ ((cutHi _ _ (by decide)).trans ((cutLo _ _ (by decide)).trans (cutAll _)))
  have f12 : bits w 12 3 = 0x1#3 := e ▸ ((cutHi _ _ (by decide)).trans ((cutHi _ _ (by decide)).trans ((cutLo _ _ (by decide)).trans (cutAll _))))
  have f15 : bits w 15 5 = a := e ▸ ((cutHi _ _ (by decide)).trans ((cutHi _ _ (by decide)).trans ((cutHi _ _ (by decide)).trans ((cutLo _ _ (by decide)).trans (cutAll _)))))
  have f20 : bits w 20 5 = b := e ▸ ((cutHi _ _ (by decide)).trans ((cutHi _ _ (by decide)).trans ((cutHi _ _ (by decide)).trans ((cutHi _ _ (by decide)).trans ((cutLo _ _ (by decide)).trans (cutAll _))))))
  have f25 : bits w 25 7 = 0x0#7 := e ▸ ((cutHi _ _ (by decide)).trans ((cutHi _ _ (by decide)).trans ((cutHi _ _ (by decide)).trans ((cutHi _ _ (by decide)).trans ((cutHi _ _ (by decide)).trans (cutAll _))))))
  refine decode_of w _ 0x3B#7 f0 (by decide) (by decide) ?_ (unpk_no f0 (by decide)) hw
  rw [raw_Ring f0]
  simp [decodeRing, f7, f12, f15, f20, f25]

theorem rput (a : BitVec 5) : Statement (.rput a) := by
  intro w hw e
  replace e := Option.some.inj e
  have f0 : bits w 0 7 = 0x3B#7 := e ▸ ((cutLo _ _ (by decide)).trans (cutAll _))
  have f7 : bits w 7 5 = 0x0#5 := e ▸ ((cutHi _ _ (by decide)).trans ((cutLo _ _ (by decide)).trans (cutAll _)))
  have f12 : bits w 12 3 = 0x2#3 := e ▸ ((cutHi _ _ (by decide)).trans ((cutHi _ _ (by decide)).trans ((cutLo _ _ (by decide)).trans (cutAll _))))
  have f15 : bits w 15 5 = a := e ▸ ((cutHi _ _ (by decide)).trans ((cutHi _ _ (by decide)).trans ((cutHi _ _ (by decide)).trans ((cutLo _ _ (by decide)).trans (cutAll _)))))
  have f20 : bits w 20 5 = 0x0#5 := e ▸ ((cutHi _ _ (by decide)).trans ((cutHi _ _ (by decide)).trans ((cutHi _ _ (by decide)).trans ((cutHi _ _ (by decide)).trans ((cutLo _ _ (by decide)).trans (cutAll _))))))
  have f25 : bits w 25 7 = 0x0#7 := e ▸ ((cutHi _ _ (by decide)).trans ((cutHi _ _ (by decide)).trans ((cutHi _ _ (by decide)).trans ((cutHi _ _ (by decide)).trans ((cutHi _ _ (by decide)).trans (cutAll _))))))
  refine decode_of w _ 0x3B#7 f0 (by decide) (by decide) ?_ (unpk_no f0 (by decide)) hw
  rw [raw_Ring f0]
  simp [decodeRing, f7, f12, f15, f20, f25]

theorem rtake (d : BitVec 5) (a : BitVec 5) (b : BitVec 5) : Statement (.rtake d a b) := by
  intro w hw e
  replace e := Option.some.inj e
  have f0 : bits w 0 7 = 0x3B#7 := e ▸ ((cutLo _ _ (by decide)).trans (cutAll _))
  have f7 : bits w 7 5 = d := e ▸ ((cutHi _ _ (by decide)).trans ((cutLo _ _ (by decide)).trans (cutAll _)))
  have f12 : bits w 12 3 = 0x3#3 := e ▸ ((cutHi _ _ (by decide)).trans ((cutHi _ _ (by decide)).trans ((cutLo _ _ (by decide)).trans (cutAll _))))
  have f15 : bits w 15 5 = a := e ▸ ((cutHi _ _ (by decide)).trans ((cutHi _ _ (by decide)).trans ((cutHi _ _ (by decide)).trans ((cutLo _ _ (by decide)).trans (cutAll _)))))
  have f20 : bits w 20 5 = b := e ▸ ((cutHi _ _ (by decide)).trans ((cutHi _ _ (by decide)).trans ((cutHi _ _ (by decide)).trans ((cutHi _ _ (by decide)).trans ((cutLo _ _ (by decide)).trans (cutAll _))))))
  have f25 : bits w 25 7 = 0x0#7 := e ▸ ((cutHi _ _ (by decide)).trans ((cutHi _ _ (by decide)).trans ((cutHi _ _ (by decide)).trans ((cutHi _ _ (by decide)).trans ((cutHi _ _ (by decide)).trans (cutAll _))))))
  refine decode_of w _ 0x3B#7 f0 (by decide) (by decide) ?_ (unpk_no f0 (by decide)) hw
  rw [raw_Ring f0]
  simp [decodeRing, f7, f12, f15, f20, f25]

theorem rdone (a : BitVec 5) : Statement (.rdone a) := by
  intro w hw e
  replace e := Option.some.inj e
  have f0 : bits w 0 7 = 0x3B#7 := e ▸ ((cutLo _ _ (by decide)).trans (cutAll _))
  have f7 : bits w 7 5 = 0x0#5 := e ▸ ((cutHi _ _ (by decide)).trans ((cutLo _ _ (by decide)).trans (cutAll _)))
  have f12 : bits w 12 3 = 0x4#3 := e ▸ ((cutHi _ _ (by decide)).trans ((cutHi _ _ (by decide)).trans ((cutLo _ _ (by decide)).trans (cutAll _))))
  have f15 : bits w 15 5 = a := e ▸ ((cutHi _ _ (by decide)).trans ((cutHi _ _ (by decide)).trans ((cutHi _ _ (by decide)).trans ((cutLo _ _ (by decide)).trans (cutAll _)))))
  have f20 : bits w 20 5 = 0x0#5 := e ▸ ((cutHi _ _ (by decide)).trans ((cutHi _ _ (by decide)).trans ((cutHi _ _ (by decide)).trans ((cutHi _ _ (by decide)).trans ((cutLo _ _ (by decide)).trans (cutAll _))))))
  have f25 : bits w 25 7 = 0x0#7 := e ▸ ((cutHi _ _ (by decide)).trans ((cutHi _ _ (by decide)).trans ((cutHi _ _ (by decide)).trans ((cutHi _ _ (by decide)).trans ((cutHi _ _ (by decide)).trans (cutAll _))))))
  refine decode_of w _ 0x3B#7 f0 (by decide) (by decide) ?_ (unpk_no f0 (by decide)) hw
  rw [raw_Ring f0]
  simp [decodeRing, f7, f12, f15, f20, f25]

theorem rstat (d : BitVec 5) (a : BitVec 5) : Statement (.rstat d a) := by
  intro w hw e
  replace e := Option.some.inj e
  have f0 : bits w 0 7 = 0x3B#7 := e ▸ ((cutLo _ _ (by decide)).trans (cutAll _))
  have f7 : bits w 7 5 = d := e ▸ ((cutHi _ _ (by decide)).trans ((cutLo _ _ (by decide)).trans (cutAll _)))
  have f12 : bits w 12 3 = 0x5#3 := e ▸ ((cutHi _ _ (by decide)).trans ((cutHi _ _ (by decide)).trans ((cutLo _ _ (by decide)).trans (cutAll _))))
  have f15 : bits w 15 5 = a := e ▸ ((cutHi _ _ (by decide)).trans ((cutHi _ _ (by decide)).trans ((cutHi _ _ (by decide)).trans ((cutLo _ _ (by decide)).trans (cutAll _)))))
  have f20 : bits w 20 5 = 0x0#5 := e ▸ ((cutHi _ _ (by decide)).trans ((cutHi _ _ (by decide)).trans ((cutHi _ _ (by decide)).trans ((cutHi _ _ (by decide)).trans ((cutLo _ _ (by decide)).trans (cutAll _))))))
  have f25 : bits w 25 7 = 0x0#7 := e ▸ ((cutHi _ _ (by decide)).trans ((cutHi _ _ (by decide)).trans ((cutHi _ _ (by decide)).trans ((cutHi _ _ (by decide)).trans ((cutHi _ _ (by decide)).trans (cutAll _))))))
  refine decode_of w _ 0x3B#7 f0 (by decide) (by decide) ?_ (unpk_no f0 (by decide)) hw
  rw [raw_Ring f0]
  simp [decodeRing, f7, f12, f15, f20, f25]

theorem runbind (a : BitVec 5) : Statement (.runbind a) := by
  intro w hw e
  replace e := Option.some.inj e
  have f0 : bits w 0 7 = 0x3B#7 := e ▸ ((cutLo _ _ (by decide)).trans (cutAll _))
  have f7 : bits w 7 5 = 0x0#5 := e ▸ ((cutHi _ _ (by decide)).trans ((cutLo _ _ (by decide)).trans (cutAll _)))
  have f12 : bits w 12 3 = 0x6#3 := e ▸ ((cutHi _ _ (by decide)).trans ((cutHi _ _ (by decide)).trans ((cutLo _ _ (by decide)).trans (cutAll _))))
  have f15 : bits w 15 5 = a := e ▸ ((cutHi _ _ (by decide)).trans ((cutHi _ _ (by decide)).trans ((cutHi _ _ (by decide)).trans ((cutLo _ _ (by decide)).trans (cutAll _)))))
  have f20 : bits w 20 5 = 0x0#5 := e ▸ ((cutHi _ _ (by decide)).trans ((cutHi _ _ (by decide)).trans ((cutHi _ _ (by decide)).trans ((cutHi _ _ (by decide)).trans ((cutLo _ _ (by decide)).trans (cutAll _))))))
  have f25 : bits w 25 7 = 0x0#7 := e ▸ ((cutHi _ _ (by decide)).trans ((cutHi _ _ (by decide)).trans ((cutHi _ _ (by decide)).trans ((cutHi _ _ (by decide)).trans ((cutHi _ _ (by decide)).trans (cutAll _))))))
  refine decode_of w _ 0x3B#7 f0 (by decide) (by decide) ?_ (unpk_no f0 (by decide)) hw
  rw [raw_Ring f0]
  simp [decodeRing, f7, f12, f15, f20, f25]

theorem hnew (d : BitVec 5) (a : BitVec 5) : Statement (.hnew d a) := by
  intro w hw e
  replace e := Option.some.inj e
  have f0 : bits w 0 7 = 0x3F#7 := e ▸ ((cutLo _ _ (by decide)).trans (cutAll _))
  have f7 : bits w 7 5 = d := e ▸ ((cutHi _ _ (by decide)).trans ((cutLo _ _ (by decide)).trans (cutAll _)))
  have f12 : bits w 12 3 = 0x0#3 := e ▸ ((cutHi _ _ (by decide)).trans ((cutHi _ _ (by decide)).trans ((cutLo _ _ (by decide)).trans (cutAll _))))
  have f15 : bits w 15 5 = a := e ▸ ((cutHi _ _ (by decide)).trans ((cutHi _ _ (by decide)).trans ((cutHi _ _ (by decide)).trans ((cutLo _ _ (by decide)).trans (cutAll _)))))
  have f20 : bits w 20 5 = 0x0#5 := e ▸ ((cutHi _ _ (by decide)).trans ((cutHi _ _ (by decide)).trans ((cutHi _ _ (by decide)).trans ((cutHi _ _ (by decide)).trans ((cutLo _ _ (by decide)).trans (cutAll _))))))
  have f25 : bits w 25 7 = 0x0#7 := e ▸ ((cutHi _ _ (by decide)).trans ((cutHi _ _ (by decide)).trans ((cutHi _ _ (by decide)).trans ((cutHi _ _ (by decide)).trans ((cutHi _ _ (by decide)).trans (cutAll _))))))
  refine decode_of w _ 0x3F#7 f0 (by decide) (by decide) ?_ (unpk_no f0 (by decide)) hw
  rw [raw_Hndl f0]
  simp [decodeHndl, f7, f12, f15, f20, f25]

theorem hsplit (d : BitVec 5) (a : BitVec 5) (b : BitVec 5) (c : BitVec 5) : Statement (.hsplit d a b c) := by
  intro w hw e
  replace e := Option.some.inj e
  have f0 : bits w 0 7 = 0x3F#7 := e ▸ ((cutLo _ _ (by decide)).trans (cutAll _))
  have f7 : bits w 7 5 = d := e ▸ ((cutHi _ _ (by decide)).trans ((cutLo _ _ (by decide)).trans (cutAll _)))
  have f12 : bits w 12 3 = 0x1#3 := e ▸ ((cutHi _ _ (by decide)).trans ((cutHi _ _ (by decide)).trans ((cutLo _ _ (by decide)).trans (cutAll _))))
  have f15 : bits w 15 5 = a := e ▸ ((cutHi _ _ (by decide)).trans ((cutHi _ _ (by decide)).trans ((cutHi _ _ (by decide)).trans ((cutLo _ _ (by decide)).trans (cutAll _)))))
  have f20 : bits w 20 5 = b := e ▸ ((cutHi _ _ (by decide)).trans ((cutHi _ _ (by decide)).trans ((cutHi _ _ (by decide)).trans ((cutHi _ _ (by decide)).trans ((cutLo _ _ (by decide)).trans (cutAll _))))))
  have f25 : bits w 25 2 = 0x0#2 := e ▸ ((cutHi _ _ (by decide)).trans ((cutHi _ _ (by decide)).trans ((cutHi _ _ (by decide)).trans ((cutHi _ _ (by decide)).trans ((cutHi _ _ (by decide)).trans ((cutLo _ _ (by decide)).trans (cutAll _)))))))
  have f27 : bits w 27 5 = c := e ▸ ((cutHi _ _ (by decide)).trans ((cutHi _ _ (by decide)).trans ((cutHi _ _ (by decide)).trans ((cutHi _ _ (by decide)).trans ((cutHi _ _ (by decide)).trans ((cutHi _ _ (by decide)).trans (cutAll _)))))))
  refine decode_of w _ 0x3F#7 f0 (by decide) (by decide) ?_ (unpk_no f0 (by decide)) hw
  rw [raw_Hndl f0]
  simp [decodeHndl, f7, f12, f15, f20, f25, f27]

theorem hjoin (d : BitVec 5) (a : BitVec 5) (b : BitVec 5) : Statement (.hjoin d a b) := by
  intro w hw e
  replace e := Option.some.inj e
  have f0 : bits w 0 7 = 0x3F#7 := e ▸ ((cutLo _ _ (by decide)).trans (cutAll _))
  have f7 : bits w 7 5 = d := e ▸ ((cutHi _ _ (by decide)).trans ((cutLo _ _ (by decide)).trans (cutAll _)))
  have f12 : bits w 12 3 = 0x2#3 := e ▸ ((cutHi _ _ (by decide)).trans ((cutHi _ _ (by decide)).trans ((cutLo _ _ (by decide)).trans (cutAll _))))
  have f15 : bits w 15 5 = a := e ▸ ((cutHi _ _ (by decide)).trans ((cutHi _ _ (by decide)).trans ((cutHi _ _ (by decide)).trans ((cutLo _ _ (by decide)).trans (cutAll _)))))
  have f20 : bits w 20 5 = b := e ▸ ((cutHi _ _ (by decide)).trans ((cutHi _ _ (by decide)).trans ((cutHi _ _ (by decide)).trans ((cutHi _ _ (by decide)).trans ((cutLo _ _ (by decide)).trans (cutAll _))))))
  have f25 : bits w 25 7 = 0x0#7 := e ▸ ((cutHi _ _ (by decide)).trans ((cutHi _ _ (by decide)).trans ((cutHi _ _ (by decide)).trans ((cutHi _ _ (by decide)).trans ((cutHi _ _ (by decide)).trans (cutAll _))))))
  refine decode_of w _ 0x3F#7 f0 (by decide) (by decide) ?_ (unpk_no f0 (by decide)) hw
  rw [raw_Hndl f0]
  simp [decodeHndl, f7, f12, f15, f20, f25]

theorem hsend (a : BitVec 5) (b : BitVec 5) : Statement (.hsend a b) := by
  intro w hw e
  replace e := Option.some.inj e
  have f0 : bits w 0 7 = 0x3F#7 := e ▸ ((cutLo _ _ (by decide)).trans (cutAll _))
  have f7 : bits w 7 5 = 0x0#5 := e ▸ ((cutHi _ _ (by decide)).trans ((cutLo _ _ (by decide)).trans (cutAll _)))
  have f12 : bits w 12 3 = 0x3#3 := e ▸ ((cutHi _ _ (by decide)).trans ((cutHi _ _ (by decide)).trans ((cutLo _ _ (by decide)).trans (cutAll _))))
  have f15 : bits w 15 5 = a := e ▸ ((cutHi _ _ (by decide)).trans ((cutHi _ _ (by decide)).trans ((cutHi _ _ (by decide)).trans ((cutLo _ _ (by decide)).trans (cutAll _)))))
  have f20 : bits w 20 5 = b := e ▸ ((cutHi _ _ (by decide)).trans ((cutHi _ _ (by decide)).trans ((cutHi _ _ (by decide)).trans ((cutHi _ _ (by decide)).trans ((cutLo _ _ (by decide)).trans (cutAll _))))))
  have f25 : bits w 25 7 = 0x0#7 := e ▸ ((cutHi _ _ (by decide)).trans ((cutHi _ _ (by decide)).trans ((cutHi _ _ (by decide)).trans ((cutHi _ _ (by decide)).trans ((cutHi _ _ (by decide)).trans (cutAll _))))))
  refine decode_of w _ 0x3F#7 f0 (by decide) (by decide) ?_ (unpk_no f0 (by decide)) hw
  rw [raw_Hndl f0]
  simp [decodeHndl, f7, f12, f15, f20, f25]

theorem hrecv (d : BitVec 5) (a : BitVec 5) (b : BitVec 5) : Statement (.hrecv d a b) := by
  intro w hw e
  replace e := Option.some.inj e
  have f0 : bits w 0 7 = 0x3F#7 := e ▸ ((cutLo _ _ (by decide)).trans (cutAll _))
  have f7 : bits w 7 5 = d := e ▸ ((cutHi _ _ (by decide)).trans ((cutLo _ _ (by decide)).trans (cutAll _)))
  have f12 : bits w 12 3 = 0x4#3 := e ▸ ((cutHi _ _ (by decide)).trans ((cutHi _ _ (by decide)).trans ((cutLo _ _ (by decide)).trans (cutAll _))))
  have f15 : bits w 15 5 = a := e ▸ ((cutHi _ _ (by decide)).trans ((cutHi _ _ (by decide)).trans ((cutHi _ _ (by decide)).trans ((cutLo _ _ (by decide)).trans (cutAll _)))))
  have f20 : bits w 20 5 = b := e ▸ ((cutHi _ _ (by decide)).trans ((cutHi _ _ (by decide)).trans ((cutHi _ _ (by decide)).trans ((cutHi _ _ (by decide)).trans ((cutLo _ _ (by decide)).trans (cutAll _))))))
  have f25 : bits w 25 7 = 0x0#7 := e ▸ ((cutHi _ _ (by decide)).trans ((cutHi _ _ (by decide)).trans ((cutHi _ _ (by decide)).trans ((cutHi _ _ (by decide)).trans ((cutHi _ _ (by decide)).trans (cutAll _))))))
  refine decode_of w _ 0x3F#7 f0 (by decide) (by decide) ?_ (unpk_no f0 (by decide)) hw
  rw [raw_Hndl f0]
  simp [decodeHndl, f7, f12, f15, f20, f25]

theorem haddr (d : BitVec 5) (a : BitVec 5) : Statement (.haddr d a) := by
  intro w hw e
  replace e := Option.some.inj e
  have f0 : bits w 0 7 = 0x3F#7 := e ▸ ((cutLo _ _ (by decide)).trans (cutAll _))
  have f7 : bits w 7 5 = d := e ▸ ((cutHi _ _ (by decide)).trans ((cutLo _ _ (by decide)).trans (cutAll _)))
  have f12 : bits w 12 3 = 0x5#3 := e ▸ ((cutHi _ _ (by decide)).trans ((cutHi _ _ (by decide)).trans ((cutLo _ _ (by decide)).trans (cutAll _))))
  have f15 : bits w 15 5 = a := e ▸ ((cutHi _ _ (by decide)).trans ((cutHi _ _ (by decide)).trans ((cutHi _ _ (by decide)).trans ((cutLo _ _ (by decide)).trans (cutAll _)))))
  have f20 : bits w 20 5 = 0x0#5 := e ▸ ((cutHi _ _ (by decide)).trans ((cutHi _ _ (by decide)).trans ((cutHi _ _ (by decide)).trans ((cutHi _ _ (by decide)).trans ((cutLo _ _ (by decide)).trans (cutAll _))))))
  have f25 : bits w 25 7 = 0x0#7 := e ▸ ((cutHi _ _ (by decide)).trans ((cutHi _ _ (by decide)).trans ((cutHi _ _ (by decide)).trans ((cutHi _ _ (by decide)).trans ((cutHi _ _ (by decide)).trans (cutAll _))))))
  refine decode_of w _ 0x3F#7 f0 (by decide) (by decide) ?_ (unpk_no f0 (by decide)) hw
  rw [raw_Hndl f0]
  simp [decodeHndl, f7, f12, f15, f20, f25]

theorem hfree (a : BitVec 5) : Statement (.hfree a) := by
  intro w hw e
  replace e := Option.some.inj e
  have f0 : bits w 0 7 = 0x3F#7 := e ▸ ((cutLo _ _ (by decide)).trans (cutAll _))
  have f7 : bits w 7 5 = 0x0#5 := e ▸ ((cutHi _ _ (by decide)).trans ((cutLo _ _ (by decide)).trans (cutAll _)))
  have f12 : bits w 12 3 = 0x6#3 := e ▸ ((cutHi _ _ (by decide)).trans ((cutHi _ _ (by decide)).trans ((cutLo _ _ (by decide)).trans (cutAll _))))
  have f15 : bits w 15 5 = a := e ▸ ((cutHi _ _ (by decide)).trans ((cutHi _ _ (by decide)).trans ((cutHi _ _ (by decide)).trans ((cutLo _ _ (by decide)).trans (cutAll _)))))
  have f20 : bits w 20 5 = 0x0#5 := e ▸ ((cutHi _ _ (by decide)).trans ((cutHi _ _ (by decide)).trans ((cutHi _ _ (by decide)).trans ((cutHi _ _ (by decide)).trans ((cutLo _ _ (by decide)).trans (cutAll _))))))
  have f25 : bits w 25 7 = 0x0#7 := e ▸ ((cutHi _ _ (by decide)).trans ((cutHi _ _ (by decide)).trans ((cutHi _ _ (by decide)).trans ((cutHi _ _ (by decide)).trans ((cutHi _ _ (by decide)).trans (cutAll _))))))
  refine decode_of w _ 0x3F#7 f0 (by decide) (by decide) ?_ (unpk_no f0 (by decide)) hw
  rw [raw_Hndl f0]
  simp [decodeHndl, f7, f12, f15, f20, f25]

theorem hinfo (d : BitVec 5) (a : BitVec 5) : Statement (.hinfo d a) := by
  intro w hw e
  replace e := Option.some.inj e
  have f0 : bits w 0 7 = 0x3F#7 := e ▸ ((cutLo _ _ (by decide)).trans (cutAll _))
  have f7 : bits w 7 5 = d := e ▸ ((cutHi _ _ (by decide)).trans ((cutLo _ _ (by decide)).trans (cutAll _)))
  have f12 : bits w 12 3 = 0x6#3 := e ▸ ((cutHi _ _ (by decide)).trans ((cutHi _ _ (by decide)).trans ((cutLo _ _ (by decide)).trans (cutAll _))))
  have f15 : bits w 15 5 = a := e ▸ ((cutHi _ _ (by decide)).trans ((cutHi _ _ (by decide)).trans ((cutHi _ _ (by decide)).trans ((cutLo _ _ (by decide)).trans (cutAll _)))))
  have f20 : bits w 20 5 = 0x0#5 := e ▸ ((cutHi _ _ (by decide)).trans ((cutHi _ _ (by decide)).trans ((cutHi _ _ (by decide)).trans ((cutHi _ _ (by decide)).trans ((cutLo _ _ (by decide)).trans (cutAll _))))))
  have f25_2 : bits w 25 2 = 0x1#2 := e ▸ ((cutHi _ _ (by decide)).trans ((cutHi _ _ (by decide)).trans ((cutHi _ _ (by decide)).trans ((cutHi _ _ (by decide)).trans ((cutHi _ _ (by decide)).trans (by decide))))))
  have f25_7 : bits w 25 7 = 0x1#7 := e ▸ ((cutHi _ _ (by decide)).trans ((cutHi _ _ (by decide)).trans ((cutHi _ _ (by decide)).trans ((cutHi _ _ (by decide)).trans ((cutHi _ _ (by decide)).trans (cutAll _))))))
  refine decode_of w _ 0x3F#7 f0 (by decide) (by decide) ?_ (unpk_no f0 (by decide)) hw
  rw [raw_Hndl f0]
  simp [decodeHndl, f7, f12, f15, f20, f25_2, f25_7]

theorem hreclaim (d : BitVec 5) (a : BitVec 5) : Statement (.hreclaim d a) := by
  intro w hw e
  replace e := Option.some.inj e
  have f0 : bits w 0 7 = 0x3F#7 := e ▸ ((cutLo _ _ (by decide)).trans (cutAll _))
  have f7 : bits w 7 5 = d := e ▸ ((cutHi _ _ (by decide)).trans ((cutLo _ _ (by decide)).trans (cutAll _)))
  have f12 : bits w 12 3 = 0x7#3 := e ▸ ((cutHi _ _ (by decide)).trans ((cutHi _ _ (by decide)).trans ((cutLo _ _ (by decide)).trans (cutAll _))))
  have f15 : bits w 15 5 = a := e ▸ ((cutHi _ _ (by decide)).trans ((cutHi _ _ (by decide)).trans ((cutHi _ _ (by decide)).trans ((cutLo _ _ (by decide)).trans (cutAll _)))))
  have f20 : bits w 20 5 = 0x0#5 := e ▸ ((cutHi _ _ (by decide)).trans ((cutHi _ _ (by decide)).trans ((cutHi _ _ (by decide)).trans ((cutHi _ _ (by decide)).trans ((cutLo _ _ (by decide)).trans (cutAll _))))))
  have f25 : bits w 25 7 = 0x0#7 := e ▸ ((cutHi _ _ (by decide)).trans ((cutHi _ _ (by decide)).trans ((cutHi _ _ (by decide)).trans ((cutHi _ _ (by decide)).trans ((cutHi _ _ (by decide)).trans (cutAll _))))))
  refine decode_of w _ 0x3F#7 f0 (by decide) (by decide) ?_ (unpk_no f0 (by decide)) hw
  rw [raw_Hndl f0]
  simp [decodeHndl, f7, f12, f15, f20, f25]

theorem spawn (a : BitVec 5) : Statement (.spawn a) := by
  intro w hw e
  replace e := Option.some.inj e
  have f0 : bits w 0 7 = 0x7B#7 := e ▸ ((cutLo _ _ (by decide)).trans (cutAll _))
  have f7 : bits w 7 5 = 0x0#5 := e ▸ ((cutHi _ _ (by decide)).trans ((cutLo _ _ (by decide)).trans (cutAll _)))
  have f12 : bits w 12 3 = 0x0#3 := e ▸ ((cutHi _ _ (by decide)).trans ((cutHi _ _ (by decide)).trans ((cutLo _ _ (by decide)).trans (cutAll _))))
  have f15 : bits w 15 5 = a := e ▸ ((cutHi _ _ (by decide)).trans ((cutHi _ _ (by decide)).trans ((cutHi _ _ (by decide)).trans ((cutLo _ _ (by decide)).trans (cutAll _)))))
  have f20 : bits w 20 5 = 0x0#5 := e ▸ ((cutHi _ _ (by decide)).trans ((cutHi _ _ (by decide)).trans ((cutHi _ _ (by decide)).trans ((cutHi _ _ (by decide)).trans ((cutLo _ _ (by decide)).trans (cutAll _))))))
  have f25 : bits w 25 7 = 0x0#7 := e ▸ ((cutHi _ _ (by decide)).trans ((cutHi _ _ (by decide)).trans ((cutHi _ _ (by decide)).trans ((cutHi _ _ (by decide)).trans ((cutHi _ _ (by decide)).trans (cutAll _))))))
  refine decode_of w _ 0x7B#7 f0 (by decide) (by decide) ?_ (unpk_no f0 (by decide)) hw
  rw [raw_Task f0]
  simp [decodeTask, f7, f12, f15, f20, f25]

theorem tend : Statement .tend := by
  intro w hw e
  replace e := Option.some.inj e
  have f0 : bits w 0 7 = 0x7B#7 := e ▸ ((cutLo _ _ (by decide)).trans (cutAll _))
  have f7 : bits w 7 5 = 0x0#5 := e ▸ ((cutHi _ _ (by decide)).trans ((cutLo _ _ (by decide)).trans (cutAll _)))
  have f12 : bits w 12 3 = 0x1#3 := e ▸ ((cutHi _ _ (by decide)).trans ((cutHi _ _ (by decide)).trans ((cutLo _ _ (by decide)).trans (cutAll _))))
  have f15 : bits w 15 5 = 0x0#5 := e ▸ ((cutHi _ _ (by decide)).trans ((cutHi _ _ (by decide)).trans ((cutHi _ _ (by decide)).trans ((cutLo _ _ (by decide)).trans (cutAll _)))))
  have f20 : bits w 20 5 = 0x0#5 := e ▸ ((cutHi _ _ (by decide)).trans ((cutHi _ _ (by decide)).trans ((cutHi _ _ (by decide)).trans ((cutHi _ _ (by decide)).trans ((cutLo _ _ (by decide)).trans (cutAll _))))))
  have f25 : bits w 25 7 = 0x0#7 := e ▸ ((cutHi _ _ (by decide)).trans ((cutHi _ _ (by decide)).trans ((cutHi _ _ (by decide)).trans ((cutHi _ _ (by decide)).trans ((cutHi _ _ (by decide)).trans (cutAll _))))))
  refine decode_of w _ 0x7B#7 f0 (by decide) (by decide) ?_ (unpk_no f0 (by decide)) hw
  rw [raw_Task f0]
  simp [decodeTask, f7, f12, f15, f20, f25]

theorem jdec (a : BitVec 5) : Statement (.jdec a) := by
  intro w hw e
  replace e := Option.some.inj e
  have f0 : bits w 0 7 = 0x7B#7 := e ▸ ((cutLo _ _ (by decide)).trans (cutAll _))
  have f7 : bits w 7 5 = 0x0#5 := e ▸ ((cutHi _ _ (by decide)).trans ((cutLo _ _ (by decide)).trans (cutAll _)))
  have f12 : bits w 12 3 = 0x2#3 := e ▸ ((cutHi _ _ (by decide)).trans ((cutHi _ _ (by decide)).trans ((cutLo _ _ (by decide)).trans (cutAll _))))
  have f15 : bits w 15 5 = a := e ▸ ((cutHi _ _ (by decide)).trans ((cutHi _ _ (by decide)).trans ((cutHi _ _ (by decide)).trans ((cutLo _ _ (by decide)).trans (cutAll _)))))
  have f20 : bits w 20 5 = 0x0#5 := e ▸ ((cutHi _ _ (by decide)).trans ((cutHi _ _ (by decide)).trans ((cutHi _ _ (by decide)).trans ((cutHi _ _ (by decide)).trans ((cutLo _ _ (by decide)).trans (cutAll _))))))
  have f25 : bits w 25 7 = 0x0#7 := e ▸ ((cutHi _ _ (by decide)).trans ((cutHi _ _ (by decide)).trans ((cutHi _ _ (by decide)).trans ((cutHi _ _ (by decide)).trans ((cutHi _ _ (by decide)).trans (cutAll _))))))
  refine decode_of w _ 0x7B#7 f0 (by decide) (by decide) ?_ (unpk_no f0 (by decide)) hw
  rw [raw_Task f0]
  simp [decodeTask, f7, f12, f15, f20, f25]

theorem qpush (a : BitVec 5) (b : BitVec 5) : Statement (.qpush a b) := by
  intro w hw e
  replace e := Option.some.inj e
  have f0 : bits w 0 7 = 0x7B#7 := e ▸ ((cutLo _ _ (by decide)).trans (cutAll _))
  have f7 : bits w 7 5 = 0x0#5 := e ▸ ((cutHi _ _ (by decide)).trans ((cutLo _ _ (by decide)).trans (cutAll _)))
  have f12 : bits w 12 3 = 0x3#3 := e ▸ ((cutHi _ _ (by decide)).trans ((cutHi _ _ (by decide)).trans ((cutLo _ _ (by decide)).trans (cutAll _))))
  have f15 : bits w 15 5 = a := e ▸ ((cutHi _ _ (by decide)).trans ((cutHi _ _ (by decide)).trans ((cutHi _ _ (by decide)).trans ((cutLo _ _ (by decide)).trans (cutAll _)))))
  have f20 : bits w 20 5 = b := e ▸ ((cutHi _ _ (by decide)).trans ((cutHi _ _ (by decide)).trans ((cutHi _ _ (by decide)).trans ((cutHi _ _ (by decide)).trans ((cutLo _ _ (by decide)).trans (cutAll _))))))
  have f25 : bits w 25 7 = 0x0#7 := e ▸ ((cutHi _ _ (by decide)).trans ((cutHi _ _ (by decide)).trans ((cutHi _ _ (by decide)).trans ((cutHi _ _ (by decide)).trans ((cutHi _ _ (by decide)).trans (cutAll _))))))
  refine decode_of w _ 0x7B#7 f0 (by decide) (by decide) ?_ (unpk_no f0 (by decide)) hw
  rw [raw_Task f0]
  simp [decodeTask, f7, f12, f15, f20, f25]

theorem qpop (d : BitVec 5) (a : BitVec 5) (b : BitVec 5) : Statement (.qpop d a b) := by
  intro w hw e
  replace e := Option.some.inj e
  have f0 : bits w 0 7 = 0x7B#7 := e ▸ ((cutLo _ _ (by decide)).trans (cutAll _))
  have f7 : bits w 7 5 = d := e ▸ ((cutHi _ _ (by decide)).trans ((cutLo _ _ (by decide)).trans (cutAll _)))
  have f12 : bits w 12 3 = 0x4#3 := e ▸ ((cutHi _ _ (by decide)).trans ((cutHi _ _ (by decide)).trans ((cutLo _ _ (by decide)).trans (cutAll _))))
  have f15 : bits w 15 5 = a := e ▸ ((cutHi _ _ (by decide)).trans ((cutHi _ _ (by decide)).trans ((cutHi _ _ (by decide)).trans ((cutLo _ _ (by decide)).trans (cutAll _)))))
  have f20 : bits w 20 5 = b := e ▸ ((cutHi _ _ (by decide)).trans ((cutHi _ _ (by decide)).trans ((cutHi _ _ (by decide)).trans ((cutHi _ _ (by decide)).trans ((cutLo _ _ (by decide)).trans (cutAll _))))))
  have f25 : bits w 25 7 = 0x0#7 := e ▸ ((cutHi _ _ (by decide)).trans ((cutHi _ _ (by decide)).trans ((cutHi _ _ (by decide)).trans ((cutHi _ _ (by decide)).trans ((cutHi _ _ (by decide)).trans (cutAll _))))))
  refine decode_of w _ 0x7B#7 f0 (by decide) (by decide) ?_ (unpk_no f0 (by decide)) hw
  rw [raw_Task f0]
  simp [decodeTask, f7, f12, f15, f20, f25]

theorem tself (d : BitVec 5) : Statement (.tself d) := by
  intro w hw e
  replace e := Option.some.inj e
  have f0 : bits w 0 7 = 0x7B#7 := e ▸ ((cutLo _ _ (by decide)).trans (cutAll _))
  have f7 : bits w 7 5 = d := e ▸ ((cutHi _ _ (by decide)).trans ((cutLo _ _ (by decide)).trans (cutAll _)))
  have f12 : bits w 12 3 = 0x5#3 := e ▸ ((cutHi _ _ (by decide)).trans ((cutHi _ _ (by decide)).trans ((cutLo _ _ (by decide)).trans (cutAll _))))
  have f15 : bits w 15 5 = 0x0#5 := e ▸ ((cutHi _ _ (by decide)).trans ((cutHi _ _ (by decide)).trans ((cutHi _ _ (by decide)).trans ((cutLo _ _ (by decide)).trans (cutAll _)))))
  have f20 : bits w 20 5 = 0x0#5 := e ▸ ((cutHi _ _ (by decide)).trans ((cutHi _ _ (by decide)).trans ((cutHi _ _ (by decide)).trans ((cutHi _ _ (by decide)).trans ((cutLo _ _ (by decide)).trans (cutAll _))))))
  have f25 : bits w 25 7 = 0x0#7 := e ▸ ((cutHi _ _ (by decide)).trans ((cutHi _ _ (by decide)).trans ((cutHi _ _ (by decide)).trans ((cutHi _ _ (by decide)).trans ((cutHi _ _ (by decide)).trans (cutAll _))))))
  refine decode_of w _ 0x7B#7 f0 (by decide) (by decide) ?_ (unpk_no f0 (by decide)) hw
  rw [raw_Task f0]
  simp [decodeTask, f7, f12, f15, f20, f25]

theorem fsend (d : BitVec 5) (a : BitVec 5) (b : BitVec 5) : Statement (.fsend d a b) := by
  intro w hw e
  replace e := Option.some.inj e
  have f0 : bits w 0 7 = 0x6B#7 := e ▸ ((cutLo _ _ (by decide)).trans (cutAll _))
  have f7 : bits w 7 5 = d := e ▸ ((cutHi _ _ (by decide)).trans ((cutLo _ _ (by decide)).trans (cutAll _)))
  have f12 : bits w 12 3 = 0x0#3 := e ▸ ((cutHi _ _ (by decide)).trans ((cutHi _ _ (by decide)).trans ((cutLo _ _ (by decide)).trans (cutAll _))))
  have f15 : bits w 15 5 = a := e ▸ ((cutHi _ _ (by decide)).trans ((cutHi _ _ (by decide)).trans ((cutHi _ _ (by decide)).trans ((cutLo _ _ (by decide)).trans (cutAll _)))))
  have f20 : bits w 20 5 = b := e ▸ ((cutHi _ _ (by decide)).trans ((cutHi _ _ (by decide)).trans ((cutHi _ _ (by decide)).trans ((cutHi _ _ (by decide)).trans ((cutLo _ _ (by decide)).trans (cutAll _))))))
  have f25 : bits w 25 7 = 0x0#7 := e ▸ ((cutHi _ _ (by decide)).trans ((cutHi _ _ (by decide)).trans ((cutHi _ _ (by decide)).trans ((cutHi _ _ (by decide)).trans ((cutHi _ _ (by decide)).trans (cutAll _))))))
  refine decode_of w _ 0x6B#7 f0 (by decide) (by decide) ?_ (unpk_no f0 (by decide)) hw
  rw [raw_Fab f0]
  simp [decodeFab, f7, f12, f15, f20, f25]

theorem frecv (d : BitVec 5) (a : BitVec 5) (b : BitVec 5) : Statement (.frecv d a b) := by
  intro w hw e
  replace e := Option.some.inj e
  have f0 : bits w 0 7 = 0x6B#7 := e ▸ ((cutLo _ _ (by decide)).trans (cutAll _))
  have f7 : bits w 7 5 = d := e ▸ ((cutHi _ _ (by decide)).trans ((cutLo _ _ (by decide)).trans (cutAll _)))
  have f12 : bits w 12 3 = 0x1#3 := e ▸ ((cutHi _ _ (by decide)).trans ((cutHi _ _ (by decide)).trans ((cutLo _ _ (by decide)).trans (cutAll _))))
  have f15 : bits w 15 5 = a := e ▸ ((cutHi _ _ (by decide)).trans ((cutHi _ _ (by decide)).trans ((cutHi _ _ (by decide)).trans ((cutLo _ _ (by decide)).trans (cutAll _)))))
  have f20 : bits w 20 5 = b := e ▸ ((cutHi _ _ (by decide)).trans ((cutHi _ _ (by decide)).trans ((cutHi _ _ (by decide)).trans ((cutHi _ _ (by decide)).trans ((cutLo _ _ (by decide)).trans (cutAll _))))))
  have f25 : bits w 25 7 = 0x0#7 := e ▸ ((cutHi _ _ (by decide)).trans ((cutHi _ _ (by decide)).trans ((cutHi _ _ (by decide)).trans ((cutHi _ _ (by decide)).trans ((cutHi _ _ (by decide)).trans (cutAll _))))))
  refine decode_of w _ 0x6B#7 f0 (by decide) (by decide) ?_ (unpk_no f0 (by decide)) hw
  rw [raw_Fab f0]
  simp [decodeFab, f7, f12, f15, f20, f25]

theorem fpath (d : BitVec 5) (a : BitVec 5) (b : BitVec 5) : Statement (.fpath d a b) := by
  intro w hw e
  replace e := Option.some.inj e
  have f0 : bits w 0 7 = 0x6B#7 := e ▸ ((cutLo _ _ (by decide)).trans (cutAll _))
  have f7 : bits w 7 5 = d := e ▸ ((cutHi _ _ (by decide)).trans ((cutLo _ _ (by decide)).trans (cutAll _)))
  have f12 : bits w 12 3 = 0x2#3 := e ▸ ((cutHi _ _ (by decide)).trans ((cutHi _ _ (by decide)).trans ((cutLo _ _ (by decide)).trans (cutAll _))))
  have f15 : bits w 15 5 = a := e ▸ ((cutHi _ _ (by decide)).trans ((cutHi _ _ (by decide)).trans ((cutHi _ _ (by decide)).trans ((cutLo _ _ (by decide)).trans (cutAll _)))))
  have f20 : bits w 20 5 = b := e ▸ ((cutHi _ _ (by decide)).trans ((cutHi _ _ (by decide)).trans ((cutHi _ _ (by decide)).trans ((cutHi _ _ (by decide)).trans ((cutLo _ _ (by decide)).trans (cutAll _))))))
  have f25 : bits w 25 7 = 0x0#7 := e ▸ ((cutHi _ _ (by decide)).trans ((cutHi _ _ (by decide)).trans ((cutHi _ _ (by decide)).trans ((cutHi _ _ (by decide)).trans ((cutHi _ _ (by decide)).trans (cutAll _))))))
  refine decode_of w _ 0x6B#7 f0 (by decide) (by decide) ?_ (unpk_no f0 (by decide)) hw
  rw [raw_Fab f0]
  simp [decodeFab, f7, f12, f15, f20, f25]

theorem fprobe (d : BitVec 5) (a : BitVec 5) : Statement (.fprobe d a) := by
  intro w hw e
  replace e := Option.some.inj e
  have f0 : bits w 0 7 = 0x6B#7 := e ▸ ((cutLo _ _ (by decide)).trans (cutAll _))
  have f7 : bits w 7 5 = d := e ▸ ((cutHi _ _ (by decide)).trans ((cutLo _ _ (by decide)).trans (cutAll _)))
  have f12 : bits w 12 3 = 0x3#3 := e ▸ ((cutHi _ _ (by decide)).trans ((cutHi _ _ (by decide)).trans ((cutLo _ _ (by decide)).trans (cutAll _))))
  have f15 : bits w 15 5 = a := e ▸ ((cutHi _ _ (by decide)).trans ((cutHi _ _ (by decide)).trans ((cutHi _ _ (by decide)).trans ((cutLo _ _ (by decide)).trans (cutAll _)))))
  have f20 : bits w 20 5 = 0x0#5 := e ▸ ((cutHi _ _ (by decide)).trans ((cutHi _ _ (by decide)).trans ((cutHi _ _ (by decide)).trans ((cutHi _ _ (by decide)).trans ((cutLo _ _ (by decide)).trans (cutAll _))))))
  have f25 : bits w 25 7 = 0x0#7 := e ▸ ((cutHi _ _ (by decide)).trans ((cutHi _ _ (by decide)).trans ((cutHi _ _ (by decide)).trans ((cutHi _ _ (by decide)).trans ((cutHi _ _ (by decide)).trans (cutAll _))))))
  refine decode_of w _ 0x6B#7 f0 (by decide) (by decide) ?_ (unpk_no f0 (by decide)) hw
  rw [raw_Fab f0]
  simp [decodeFab, f7, f12, f15, f20, f25]

theorem illegalWordIssue (w : IWord) : Statement (.illegalWordIssue w) := of_event rfl
theorem fetchProblem : Statement .fetchProblem := of_event rfl
theorem vamoReport (sid : BitVec 32) (elem : Nat) (code : Option FaultCode) : Statement (.vamoReport sid elem code) := of_event rfl
theorem mldComplete (core : Nat) : Statement (.mldComplete core) := of_event rfl
theorem mswapPerformed (core : Nat) : Statement (.mswapPerformed core) := of_event rfl
theorem mstrRowFinal (core : Nat) (err : Option MatErr) : Statement (.mstrRowFinal core err) := of_event rfl
theorem mzeroPerformed (core : Nat) : Statement (.mzeroPerformed core) := of_event rfl
theorem mstRowWrite (core : Nat) : Statement (.mstRowWrite core) := of_event rfl
theorem mrdWrite (sid : BitVec 32) : Statement (.mrdWrite sid) := of_event rfl
theorem matrixWaitExpired (sid : BitVec 32) : Statement (.matrixWaitExpired sid) := of_event rfl
theorem portDispatch (core : Nat) (port : Nat) : Statement (.portDispatch core port) := of_event rfl
theorem portQueueWaitExpired (sid : BitVec 32) : Statement (.portQueueWaitExpired sid) := of_event rfl
theorem copyChunk (id : Nat) (chunk : Nat) : Statement (.copyChunk id chunk) := of_event rfl
theorem releaseTokenWrite (id : Nat) : Statement (.releaseTokenWrite id) := of_event rfl
theorem deliveryTokenWrite (id : Nat) : Statement (.deliveryTokenWrite id) := of_event rfl
theorem copyFaultPost (id : Nat) : Statement (.copyFaultPost id) := of_event rfl
theorem copyReplay (id : Nat) : Statement (.copyReplay id) := of_event rfl
theorem streamStripDeliver (core : Nat) (port : Nat) : Statement (.streamStripDeliver core port) := of_event rfl
theorem chainCopy (hdr : Nat) : Statement (.chainCopy hdr) := of_event rfl
theorem chainCopyr (hdr : Nat) : Statement (.chainCopyr hdr) := of_event rfl
theorem chainMark (hdr : Nat) : Statement (.chainMark hdr) := of_event rfl
theorem chainCommandComplete (hdr : Nat) : Statement (.chainCommandComplete hdr) := of_event rfl
theorem ochreCopy (hdr : Nat) : Statement (.ochreCopy hdr) := of_event rfl
theorem ochreCopyr (hdr : Nat) : Statement (.ochreCopyr hdr) := of_event rfl
theorem ochreMark (hdr : Nat) : Statement (.ochreMark hdr) := of_event rfl
theorem ochreFill (hdr : Nat) : Statement (.ochreFill hdr) := of_event rfl
theorem indigoCopy (hdr : Nat) : Statement (.indigoCopy hdr) := of_event rfl
theorem indigoCopyr (hdr : Nat) : Statement (.indigoCopyr hdr) := of_event rfl
theorem indigoMark (hdr : Nat) : Statement (.indigoMark hdr) := of_event rfl
theorem indigoWait (hdr : Nat) : Statement (.indigoWait hdr) := of_event rfl
theorem indigoWaitMet (hdr : Nat) : Statement (.indigoWaitMet hdr) := of_event rfl
theorem indigoWaitExpired (hdr : Nat) : Statement (.indigoWaitExpired hdr) := of_event rfl
theorem indigoSignal (hdr : Nat) : Statement (.indigoSignal hdr) := of_event rfl
theorem indigoPathSet (hdr : Nat) : Statement (.indigoPathSet hdr) := of_event rfl
theorem ueWrite (hdr : Nat) : Statement (.ueWrite hdr) := of_event rfl
theorem ueRead (hdr : Nat) : Statement (.ueRead hdr) := of_event rfl
theorem ueRegisterRegion (hdr : Nat) : Statement (.ueRegisterRegion hdr) := of_event rfl
theorem ueMark (hdr : Nat) : Statement (.ueMark hdr) := of_event rfl
theorem uePacket (pkt : UePacket) : Statement (.uePacket pkt) := of_event rfl
theorem watermarkExpired (sid : BitVec 32) : Statement (.watermarkExpired sid) := of_event rfl
theorem barrierDeadlineClose (cluster : Nat) (obj : Nat) : Statement (.barrierDeadlineClose cluster obj) := of_event rfl
theorem regWaitExpired (sid : BitVec 32) : Statement (.regWaitExpired sid) := of_event rfl
theorem waitExpired (sid : BitVec 32) : Statement (.waitExpired sid) := of_event rfl
theorem sleepMet (sid : BitVec 32) : Statement (.sleepMet sid) := of_event rfl
theorem svcExpired (sid : BitVec 32) : Statement (.svcExpired sid) := of_event rfl
theorem preempt (sid : BitVec 32) : Statement (.preempt sid) := of_event rfl
theorem budgetOverrun (sid : BitVec 32) : Statement (.budgetOverrun sid) := of_event rfl
theorem tbudExhausted (sid : BitVec 32) : Statement (.tbudExhausted sid) := of_event rfl
theorem taskStart (core : Nat) (slot : Nat) : Statement (.taskStart core slot) := of_event rfl
theorem taskResume (core : Nat) (slot : Nat) : Statement (.taskResume core slot) := of_event rfl
theorem priorityAging (job : BitVec 32) : Statement (.priorityAging job) := of_event rfl
theorem coreBind (core : Nat) (job : BitVec 32) : Statement (.coreBind core job) := of_event rfl
theorem gangPreempt (job : BitVec 32) : Statement (.gangPreempt job) := of_event rfl
theorem gangResume (job : BitVec 32) : Statement (.gangResume job) := of_event rfl
theorem coreScrub (core : Nat) : Statement (.coreScrub core) := of_event rfl
theorem jobComplete (job : BitVec 32) : Statement (.jobComplete job) := of_event rfl
theorem jobStopForce (sid : BitVec 32) : Statement (.jobStopForce sid) := of_event rfl
theorem commandTake : Statement .commandTake := of_event rfl
theorem launch (seq : Nat) : Statement (.launch seq) := of_event rfl
theorem shootdownPageRange (seq : Nat) : Statement (.shootdownPageRange seq) := of_event rfl
theorem shootdownRoot (seq : Nat) : Statement (.shootdownRoot seq) := of_event rfl
theorem shootdownAck (seq : Nat) : Statement (.shootdownAck seq) := of_event rfl
theorem cancel (seq : Nat) : Statement (.cancel seq) := of_event rfl
theorem debugFreeze (seq : Nat) : Statement (.debugFreeze seq) := of_event rfl
theorem debugStep (seq : Nat) : Statement (.debugStep seq) := of_event rfl
theorem debugResume (seq : Nat) : Statement (.debugResume seq) := of_event rfl
theorem debugDump (seq : Nat) : Statement (.debugDump seq) := of_event rfl
theorem keyInvalidate (seq : Nat) : Statement (.keyInvalidate seq) := of_event rfl
theorem pageWalk (cluster : Nat) (job : BitVec 32) (va : Word) (kind : AccKind) : Statement (.pageWalk cluster job va kind) := of_event rfl
theorem poolRefill (die : Nat) (frames : List Nat) : Statement (.poolRefill die frames) := of_event rfl
theorem faultQueueSpace (job : BitVec 32) : Statement (.faultQueueSpace job) := of_event rfl
theorem tailAdvance (job : BitVec 32) (tail : Word) : Statement (.tailAdvance job tail) := of_event rfl
theorem holdExpired (sid : BitVec 32) : Statement (.holdExpired sid) := of_event rfl
theorem pagingService (job : BitVec 32) (rec : Nat) (entry : Nat) (val : Word) (supply : PageSupply) (decline : Bool) : Statement (.pagingService job rec entry val supply decline) := of_event rfl
theorem patrolScrub (at_ : ErrPlace) (bad : Bool) : Statement (.patrolScrub at_ bad) := of_event rfl
theorem queueLost (cluster : Nat) (job : BitVec 32) (queue : Option Nat) : Statement (.queueLost cluster job queue) := of_event rfl
theorem cyanReload (n : Nat) : Statement (.cyanReload n) := of_event rfl
theorem cobaltReset : Statement .cobaltReset := of_event rfl
theorem packageReset (slices : List Nat) (lanes : List Nat) (cores : List Nat) (clusters : List Nat) (ports : List Nat) (cyans : List Nat) : Statement (.packageReset slices lanes cores clusters ports cyans) := of_event rfl
theorem imgdbWrite (len : Word) : Statement (.imgdbWrite len) := of_event rfl
theorem bootReady (frames : List Nat) : Statement (.bootReady frames) := of_event rfl
theorem dmalockWrite (val : Word) : Statement (.dmalockWrite val) := of_event rfl
theorem fabidLock (val : Word) : Statement (.fabidLock val) := of_event rfl
theorem registerWrite (off : Nat) (val : Word) : Statement (.registerWrite off val) := of_event rfl
theorem hostWrite (off : Nat) (data : FromHost (List Byte)) (tdi : Option Nat) : Statement (.hostWrite off data tdi) := of_event rfl
theorem hostRead (off : Nat) (n : Nat) (tdi : Option Nat) : Statement (.hostRead off n tdi) := of_event rfl
theorem hostAtomicCompletion (req : Nat) (reply : FromHost HostAtomicReply) : Statement (.hostAtomicCompletion req reply) := of_event rfl
theorem proxyReply (index : FromHost Nat) : Statement (.proxyReply index) := of_event rfl
theorem proxyQueueExpired (sid : BitVec 32) : Statement (.proxyQueueExpired sid) := of_event rfl
theorem proxyReplyExpired (sid : BitVec 32) : Statement (.proxyReplyExpired sid) := of_event rfl
theorem spdmRequest (req : SpdmRequest) : Statement (.spdmRequest req) := of_event rfl
theorem spdmKeyInstall (session : Nat) (tdi : Nat) (key : Nat) : Statement (.spdmKeyInstall session tdi key) := of_event rfl
theorem tdiLeaveRun (tdi : Nat) : Statement (.tdiLeaveRun tdi) := of_event rfl
theorem thermalStep (die : Nat) (temp : Nat) : Statement (.thermalStep die temp) := of_event rfl
theorem powerClamp (watts : Nat) : Statement (.powerClamp watts) := of_event rfl
theorem frameReceive (port : Nat) (frame : Frame) : Statement (.frameReceive port frame) := of_event rfl
theorem timeFlit (port : Nat) (time : Word) : Statement (.timeFlit port time) := of_event rfl
theorem ptpMessage (port : Nat) (time : Word) (locked : Bool) : Statement (.ptpMessage port time locked) := of_event rfl
theorem ptpLockLoss : Statement .ptpLockLoss := of_event rfl
theorem retryRequest (port : Nat) (lseq : BitVec 12) : Statement (.retryRequest port lseq) := of_event rfl
theorem linkDown (port : Nat) : Statement (.linkDown port) := of_event rfl
theorem stomp (port : Nat) (spkg : Nat) (eseq : BitVec 32) : Statement (.stomp port spkg eseq) := of_event rfl
theorem readRequest (pkt : Packet) : Statement (.readRequest pkt) := of_event rfl
theorem readReply (pkt : Packet) : Statement (.readReply pkt) := of_event rfl
theorem writeRequest (pkt : Packet) : Statement (.writeRequest pkt) := of_event rfl
theorem atomicRequest (pkt : Packet) : Statement (.atomicRequest pkt) := of_event rfl
theorem atomicReply (pkt : Packet) : Statement (.atomicReply pkt) := of_event rfl
theorem chunkWrite (pkt : Packet) : Statement (.chunkWrite pkt) := of_event rfl
theorem multicastChunkWrite (pkt : Packet) : Statement (.multicastChunkWrite pkt) := of_event rfl
theorem message (pkt : Packet) : Statement (.message pkt) := of_event rfl
theorem messageReply (pkt : Packet) : Statement (.messageReply pkt) := of_event rfl
theorem ack (pkt : Packet) : Statement (.ack pkt) := of_event rfl
theorem nack (pkt : Packet) : Statement (.nack pkt) := of_event rfl
theorem combinedAtomic (pkt : Packet) : Statement (.combinedAtomic pkt) := of_event rfl
theorem combinedReply (pkt : Packet) : Statement (.combinedReply pkt) := of_event rfl
theorem e2eRetransmit (pkg : Nat) (eseq : BitVec 32) : Statement (.e2eRetransmit pkg eseq) := of_event rfl
theorem multicastBranchTimeout (copy : Nat) (chunk : Nat) (pkg : Nat) : Statement (.multicastBranchTimeout copy chunk pkg) := of_event rfl
theorem pathProbe (peer : Nat) (path : Nat) (rtt : Nat) (ecn : Nat) : Statement (.pathProbe peer path rtt ecn) := of_event rfl
theorem launchAcceptAnnounce (pkg : Nat) (job : BitVec 32) (digest : Nat) (time : Word) : Statement (.launchAcceptAnnounce pkg job digest time) := of_event rfl
theorem launchAgreeTimeout (job : BitVec 32) : Statement (.launchAgreeTimeout job) := of_event rfl
theorem multiJobStart (job : BitVec 32) : Statement (.multiJobStart job) := of_event rfl
theorem gangPreemptRequest (job : BitVec 32) : Statement (.gangPreemptRequest job) := of_event rfl
theorem slateWaveArrive (job : BitVec 32) (cause : Cause) : Statement (.slateWaveArrive job cause) := of_event rfl
theorem frozenReport (pkg : Nat) (job : BitVec 32) (stop : Word) (cause : Cause) : Statement (.frozenReport pkg job stop cause) := of_event rfl
theorem firstCauseFinal (job : BitVec 32) : Statement (.firstCauseFinal job) := of_event rfl
theorem resumeAnnounce (job : BitVec 32) (tr : Word) (stop : Word) : Statement (.resumeAnnounce job tr stop) := of_event rfl
theorem slateRestart (job : BitVec 32) : Statement (.slateRestart job) := of_event rfl
theorem slateFreezeTimeout (job : BitVec 32) : Statement (.slateFreezeTimeout job) := of_event rfl
theorem vectorQueueCompletion (sid : BitVec 32) : Statement (.vectorQueueCompletion sid) := of_event rfl
theorem dmaReadCompletion (req : Nat) (data : FromHost (List Byte)) : Statement (.dmaReadCompletion req data) := of_event rfl
theorem tdiEnterRun (tdi : Nat) (key : Nat) : Statement (.tdiEnterRun tdi key) := of_event rfl

end RoundTrip

end Sys2Proof.Laws
end

