-- ==== Sys2Proof/Laws/Strand.lean ====
section
/-! SUPPORT. What reading and writing scalar registers gives, and what issue, token reads and completion do. -/

namespace Sys2Proof.Machine

@[simp] theorem Strand.getS_zero (t : Strand) : t.getS 0 = 0 := rfl

theorem Strand.getS_setS_self (t : Strand) (r : BitVec 5) (v : Word) : (t.setS r v).getS r = if r = 0 then 0 else v := by
  unfold Strand.getS Strand.setS
  split
  · rfl
  · exact Vector.getElem_set_self r.isLt

theorem Strand.getS_setS_ne (t : Strand) {r r' : BitVec 5} (v : Word) (h : r' ≠ r) : (t.setS r v).getS r' = t.getS r' := by
  unfold Strand.getS Strand.setS
  by_cases h0 : r = 0
  · simp [h0]
  · simp only [h0, if_false]
    split
    · rfl
    · exact Vector.getElem_set_ne r.isLt r'.isLt (fun e => h (BitVec.eq_of_toNat_eq e.symm))

theorem full_bit (f : BitVec 32) (r : BitVec 5) : (f ||| (1#32 <<< r.toNat)).getLsbD r.toNat = true := by
  have := r.isLt
  simp [BitVec.getLsbD_shiftLeft]
  right; omega

theorem full_bit_ne (f : BitVec 32) {r r' : BitVec 5} (h : r' ≠ r) :
    (f ||| (1#32 <<< r.toNat)).getLsbD r'.toNat = f.getLsbD r'.toNat := by
  have h1 := r.isLt
  have h2 := r'.isLt
  have : r'.toNat ≠ r.toNat := fun e => h (BitVec.eq_of_toNat_eq e)
  simp [BitVec.getLsbD_shiftLeft]
  omega

theorem Strand.isFull_setS_self (t : Strand) (r : BitVec 5) (v : Word) : (t.setS r v).isFull r = true := by
  unfold Strand.isFull Strand.setS
  by_cases h : r = 0
  · simp [h]
  · simp only [h, if_false, decide_false, Bool.false_or]; exact full_bit t.full r

theorem Strand.isFull_setS_ne (t : Strand) {r r' : BitVec 5} (v : Word) (h : r' ≠ r) : (t.setS r v).isFull r' = t.isFull r' := by
  unfold Strand.isFull Strand.setS
  by_cases h0 : r = 0
  · simp [h0]
  · simp only [h0, if_false]; rw [full_bit_ne t.full h]

/-- Reading a register for its token changes nothing but what the strand has acquired. -/
theorem State.readTok_eq (s : State) (r : BitVec 5) :
    ∃ h q o, s.readTok r = { s with cur := { s.cur with hb := h, soon := q, obs := o } } := by
  unfold State.readTok
  split
  · exact ⟨s.cur.hb, s.cur.soon, s.cur.obs, rfl⟩
  · exact ⟨_, _, _, rfl⟩

/-- Reading several registers for their tokens changes nothing but what the strand has acquired. -/
theorem State.readToks_eq (rs : List (BitVec 5)) (s : State) :
    ∃ h q o, rs.foldl State.readTok s = { s with cur := { s.cur with hb := h, soon := q, obs := o } } := by
  induction rs generalizing s with
  | nil => exact ⟨s.cur.hb, s.cur.soon, s.cur.obs, rfl⟩
  | cons r rs ih =>
    obtain ⟨h, q, o, e⟩ := s.readTok_eq r
    obtain ⟨h', q', o', e'⟩ := ih (s.readTok r)
    rw [e] at e'
    exact ⟨h', q', o', by simp only [List.foldl_cons, e]; exact e'⟩

/-- Where every register named is full, issue goes on (R71). -/
theorem State.issue_full (s : State) (srcs dsts : List (BitVec 5)) (k : State → State)
    (h : ∀ r ∈ srcs ++ dsts, s.cur.isFull r = true) : s.issue srcs dsts k = k (srcs.foldl State.readTok s) := by
  unfold State.issue
  rw [List.find?_eq_none.mpr (by simpa using h)]

/-- Issue with every register full: `k` runs in the state with the tokens read. -/
theorem State.issue_ready (s : State) (srcs dsts : List (BitVec 5)) (k : State → State)
    (h : ∀ r ∈ srcs ++ dsts, s.cur.isFull r = true) :
    ∃ hb q o, s.issue srcs dsts k = k { s with cur := { s.cur with hb := hb, soon := q, obs := o } } := by
  obtain ⟨hb, q, o, e⟩ := State.readToks_eq srcs s
  exact ⟨hb, q, o, by rw [s.issue_full srcs dsts k h, e]⟩

@[simp] theorem State.preemptPoint_none (s : State) (h : s.cur.pre = none) : s.preemptPoint = s := by
  simp [State.preemptPoint, h]

/-- Completion with no pre-emption pending: pc and loop stack by R83, nothing else. -/
theorem State.retire_calm (s : State) (h : s.cur.pre = none) :
    s.retire = s.onCur fun t => { t.clear with pc := (endOfBody s.cur.pc s.cur.loops).1, loops := (endOfBody s.cur.pc s.cur.loops).2.1 } := by
  simp only [State.retire]
  split
  · exact State.preemptPoint_none _ h
  · rfl

end Sys2Proof.Machine
end

