-- ==== Sys2Proof/Tests/Slice0.lean ====
section
/-! SUPPORT. Tests of the model: operand limits, words written out bit by bit from the encoding tables, single steps, and for every statement a concrete state and operands that meet its hypotheses. -/

set_option Elab.async false

namespace Sys2Proof.Tests

open Sys2Proof Sys2Proof.Machine Sys2Proof.Claims

/-! Operand limits (R45, R46, R53 to R57, R61): for each check, a term it refuses beside the last one it takes. -/

theorem test_wf_governing_mask : Instr.wf (.vadd 1 2 3 24) = false ∧ Instr.wf (.vadd 1 2 3 23) = true ∧ Instr.wf (.vadd 1 2 3 31) = true := by decide
theorem test_wf_mask_register : Instr.wf (.kand 24 0 0 31) = false ∧ Instr.wf (.kand 23 0 0 31) = true ∧ Instr.wf (.strip 1 2 31) = false := by decide
theorem test_wf_type : Instr.wf (.vtype 1 20) = false ∧ Instr.wf (.vtype 1 19) = true := by decide
theorem test_wf_rounding : Instr.wf (.vcvt 1 2 31 8 7) = false ∧ Instr.wf (.vcvt 1 2 31 8 6) = true := by decide
theorem test_wf_pack_pair : Instr.wf (.vpack 31 2 31 8 0) = false ∧ Instr.wf (.vpack 30 2 31 8 0) = true := by decide
theorem test_wf_unpack_pair : Instr.wf (.vunpk 1 31 31 14) = false ∧ Instr.wf (.vunpk 1 30 31 14) = true := by decide
theorem test_wf_block_load_pair : Instr.wf (.vldb 31 2 31 0) = false ∧ Instr.wf (.vldb 30 2 31 0) = true := by decide
theorem test_wf_segment_count : Instr.wf (.vldseg 0 1 3 31 0) = false ∧ Instr.wf (.vldseg 0 1 4 31 0) = true ∧ Instr.wf (.vstseg 0 1 11 31 0) = false := by decide
theorem test_wf_segment_end : Instr.wf (.vldseg 25 1 10 31 0) = false ∧ Instr.wf (.vldseg 24 1 10 31 0) = true := by decide
theorem test_wf_loop : Instr.wf (.loop 1 0) = false ∧ Instr.wf (.loopi 0 1) = false ∧ Instr.wf (.loopi 1 0) = false ∧ Instr.wf (.loopi 1 1) = true := by decide
theorem test_wf_loop_depth : Instr.wf (.lidx 1 6) = false ∧ Instr.wf (.lidx 1 5) = true := by decide
theorem test_wf_csr_listed : Instr.wf (.getc 1 0x007) = false ∧ Instr.wf (.getc 1 0x042) = false ∧ Instr.wf (.getc 1 0x041) = true := by decide
theorem test_wf_csr_read_only : Instr.wf (.setc 1 0x000) = false ∧ Instr.wf (.swapc 1 2 0x021) = false ∧ Instr.wf (.swapc 1 2 0x030) = true := by decide
theorem test_wf_matrix_type : Instr.wf (.mld 1 2 8) = false ∧ Instr.wf (.mstr 0 1 2 0 13) = false ∧ Instr.wf (.mld 1 2 18) = true := by decide
theorem test_wf_copy_port : Instr.wf (.cpy 1 2 0 3) = false ∧ Instr.wf (.cpy 1 2 0 4) = true := by decide
theorem test_wf_copy_tokens : Instr.wf (.cpyr 5 2 5 4) = false ∧ Instr.wf (.cpyr 0 2 0 4) = true := by decide
theorem test_wf_stream : Instr.wf (.sbind 23 1 0 0) = false ∧ Instr.wf (.sbind 24 1 0 4) = false ∧ Instr.wf (.sbind 24 1 0 12) = true ∧ Instr.wf (.sunbind 23) = false := by decide
theorem test_wf_barrier_register : Instr.wf (.barr 1 8) = false ∧ Instr.wf (.barr 1 7) = true := by decide
theorem test_wf_ring_register : Instr.wf (.rput 4) = false ∧ Instr.wf (.rput 3) = true := by decide
theorem test_wf_watermark_register : Instr.wf (.wmrd 1 4) = false ∧ Instr.wf (.wmrd 1 3) = true := by decide
theorem test_wf_handle_register : Instr.wf (.hfree 16) = false ∧ Instr.wf (.hfree 15) = true := by decide

/-! Words of every group of R40, field by field from the tables R41 to R60, highest field first. -/

theorem test_word_op : decode (0b0100000#7 ++ 0b00011#5 ++ 0b00010#5 ++ 0b101#3 ++ 0b00001#5 ++ 0b0110011#7) = .ok (.sra 1 2 3) := by decide +kernel
theorem test_word_opi : decode (0b010000#6 ++ 0b111111#6 ++ 0b00010#5 ++ 0b101#3 ++ 0b00001#5 ++ 0b0010011#7) = .ok (.srai 1 2 63) := by decide +kernel
theorem test_word_ld : decode (0b111111111000#12 ++ 0b00010#5 ++ 0b110#3 ++ 0b00001#5 ++ 0b0000011#7) = .ok (.ldWz 1 2 (-8)) := by decide +kernel
theorem test_word_st : decode (0b1111111#7 ++ 0b00011#5 ++ 0b00010#5 ++ 0b011#3 ++ 0b11000#5 ++ 0b0100011#7) = .ok (.stD 2 3 (-8)) := by decide +kernel
theorem test_word_lui : decode (0b10000000000000000001#20 ++ 0b00001#5 ++ 0b0110111#7) = .ok (.lui 1 0x80001) := by decide +kernel
theorem test_word_aupc : decode (0b00000000000000000010#20 ++ 0b00001#5 ++ 0b0010111#7) = .ok (.aupc 1 2) := by decide +kernel
theorem test_word_br : decode (0b1111111#7 ++ 0b00011#5 ++ 0b00010#5 ++ 0b110#3 ++ 0b11110#5 ++ 0b1100011#7) = .ok (.bltz 2 3 (-2)) := by decide +kernel
theorem test_word_jal : decode (0b11111111111111111111#20 ++ 0b00001#5 ++ 0b1101111#7) = .ok (.jal 1 (-1)) := by decide +kernel
theorem test_word_jalr : decode (0b000000000100#12 ++ 0b00001#5 ++ 0b000#3 ++ 0b00000#5 ++ 0b1100111#7) = .ok (.jalr 0 1 4) := by decide +kernel
theorem test_word_loopi : decode (0b000000000111#12 ++ 0b00010#5 ++ 0b001#3 ++ 0b10000#5 ++ 0b1011011#7) = .ok (.loopi 0b1000000010 7) := by decide +kernel
theorem test_word_sys : decode (0b000000110000#12 ++ 0b00010#5 ++ 0b011#3 ++ 0b00001#5 ++ 0b1110011#7) = .ok (.swapc 1 2 0x030) := by decide +kernel
theorem test_word_atom : decode (0b01011#5 ++ 0b1#1 ++ 0b0#1 ++ 0b00011#5 ++ 0b00010#5 ++ 0b101#3 ++ 0b00001#5 ++ 0b0101111#7) = .ok (.amocasD 1 2 3 5 0 1) := by decide +kernel
theorem test_word_vcfg : decode (0b0000000#7 ++ 0b10111#5 ++ 0b00010#5 ++ 0b001#3 ++ 0b00001#5 ++ 0b1011111#7) = .ok (.strip 1 2 23) := by decide +kernel
theorem test_word_vari : decode (0b00011#5 ++ 0b00011#5 ++ 0b00010#5 ++ 0b11111#5 ++ 0b00001#5 ++ 0b1010111#7) = .ok (.vmac 1 2 3 31) := by decide +kernel
theorem test_word_vars : decode (0b00011#5 ++ 0b00011#5 ++ 0b00010#5 ++ 0b11111#5 ++ 0b00001#5 ++ 0b1110111#7) = .ok (.vmacS 1 2 3 31) := by decide +kernel
theorem test_word_vmask : decode (0b01100#5 ++ 0b00011#5 ++ 0b00010#5 ++ 0b00100#5 ++ 0b00001#5 ++ 0b1000111#7) = .ok (.vcgtS 1 2 3 4) := by decide +kernel
theorem test_word_kwhile : decode (0b10101#5 ++ 0b00011#5 ++ 0b00010#5 ++ 0b11111#5 ++ 0b00001#5 ++ 0b1000111#7) = .ok (.kwhile 1 2 3) := by decide +kernel
theorem test_word_vperm : decode (0b00010#5 ++ 0b00011#5 ++ 0b00010#5 ++ 0b00000#5 ++ 0b00001#5 ++ 0b1001011#7) = .ok (.vsldn 1 2 3 0) := by decide +kernel
theorem test_word_vred : decode (0b00111#5 ++ 0b00000#5 ++ 0b00010#5 ++ 0b11111#5 ++ 0b00001#5 ++ 0b1001111#7) = .ok (.vrsumw 1 2 31) := by decide +kernel
theorem test_word_vcvt : decode (0b01#2 ++ 0b101#3 ++ 0b01000#5 ++ 0b00010#5 ++ 0b11111#5 ++ 0b00001#5 ++ 0b1010011#7) = .ok (.vcvtSat 1 2 31 8 5) := by decide +kernel
theorem test_word_vld : decode (0b00100#5 ++ 0b01011#5 ++ 0b00010#5 ++ 0b11111#5 ++ 0b00001#5 ++ 0b0000111#7) = .ok (.vldseg 1 2 4 31 11) := by decide +kernel
theorem test_word_vst : decode (0b01101#5 ++ 0b00011#5 ++ 0b00010#5 ++ 0b11111#5 ++ 0b00001#5 ++ 0b0100111#7) = .ok (.vamo 1 2 3 31) := by decide +kernel
theorem test_word_mstr_type : decode (0b0#1 ++ 0b1#1 ++ 0b01000#5 ++ 0b00011#5 ++ 0b00010#5 ++ 0b010#3 ++ 0b000#3 ++ 0b10#2 ++ 0b0001011#7) = .illegalOperand := by decide +kernel
theorem test_word_mstr : decode (0b0#1 ++ 0b1#1 ++ 0b01001#5 ++ 0b00011#5 ++ 0b00010#5 ++ 0b010#3 ++ 0b000#3 ++ 0b10#2 ++ 0b0001011#7) = .ok (.mstr 2 2 3 1 9) := by decide +kernel
theorem test_word_copy : decode (0b111#3 ++ 0b1100#4 ++ 0b00000#5 ++ 0b00010#5 ++ 0b011#3 ++ 0b11000#5 ++ 0b0011011#7) = .ok (.sbind 24 2 7 12) := by decide +kernel
theorem test_word_sync : decode (0b00#2 ++ 0b01#2 ++ 0b101#3 ++ 0b00000#5 ++ 0b00000#5 ++ 0b110#3 ++ 0b00000#5 ++ 0b0101011#7) = .ok (.prel 5) := by decide +kernel
theorem test_word_wmbind : decode (0b0000011#7 ++ 0b00011#5 ++ 0b00010#5 ++ 0b111#3 ++ 0b00001#5 ++ 0b0101011#7) = .ok (.wmbind 1 2 3) := by decide +kernel
theorem test_word_ring : decode (0b0000000#7 ++ 0b00011#5 ++ 0b00010#5 ++ 0b011#3 ++ 0b00001#5 ++ 0b0111011#7) = .ok (.rtake 1 2 3) := by decide +kernel
theorem test_word_hndl : decode (0b00100#5 ++ 0b00#2 ++ 0b00011#5 ++ 0b00010#5 ++ 0b001#3 ++ 0b00001#5 ++ 0b0111111#7) = .ok (.hsplit 1 2 3 4) := by decide +kernel
theorem test_word_task : decode (0b0000000#7 ++ 0b00011#5 ++ 0b00010#5 ++ 0b100#3 ++ 0b00001#5 ++ 0b1111011#7) = .ok (.qpop 1 2 3) := by decide +kernel
theorem test_word_fab : decode (0b0000000#7 ++ 0b00000#5 ++ 0b00010#5 ++ 0b011#3 ++ 0b00001#5 ++ 0b1101011#7) = .ok (.fprobe 1 2) := by decide +kernel

/-! Words that are no instruction (R37 to R63). -/

theorem test_word_nop : decode 0x00000013 = .ok (.addi 0 0 0) := by decide +kernel
theorem test_word_reserved_field : decode (0b0000101#7 ++ 0b00001#5 ++ 0b00010#5 ++ 0b100#3 ++ 0b00001#5 ++ 0b0110011#7) = .illegalInstruction := by decide +kernel
theorem test_word_unassigned_function : decode (0b0000010#7 ++ 0b00011#5 ++ 0b00010#5 ++ 0b000#3 ++ 0b00001#5 ++ 0b0110011#7) = .illegalInstruction := by decide +kernel
theorem test_word_unassigned_major : decode (0b0000000#7 ++ 0b00011#5 ++ 0b00010#5 ++ 0b000#3 ++ 0b00001#5 ++ 0b0001111#7) = .illegalInstruction := by decide +kernel
theorem test_word_outside_limit : decode (0b000000000000#12 ++ 0b00010#5 ++ 0b000#3 ++ 0b00000#5 ++ 0b1011011#7) = .illegalOperand := by decide +kernel

/-! A package with one running job, and its strand changed as a test needs. -/

/-- The package with one job running on core 0. -/
def w0 : State := State.reset.running
/-- The same, its strand changed. -/
def w (f : Strand → Strand) : State := { w0 with cur := f w0.cur }
/-- The state after an instruction or event. -/
def after (i : Instr) (s : State) : State :=
  match exec i s with
  | .next t => t
  | _ => s
/-- The state after one step. -/
def stepped (s : State) : State :=
  match step s with
  | .next t => t
  | _ => s
/-- The strand with scalar registers 4, 5, 6, 7 at these values. -/
def regs (a b c d : Word) (t : Strand) : Strand := (((t.setS 4 a).setS 5 b).setS 6 c).setS 7 d
/-- The start of the strand's own scratchpad window. -/
def pad : Word := 0xF000000000000000#64

theorem ready {s : State} (l : List (BitVec 5)) (hf : s.cur.full = BitVec.allOnes 32) (hp : s.cur.pre = none) : Ready s l where
  full r _ := by
    have key : ∀ r : BitVec 5, (decide (r = 0) || (BitVec.allOnes 32).getLsbD r.toNat) = true := by decide +kernel
    simpa only [Strand.isFull, hf] using key r
  calm := hp
theorem ready_w0 (l : List (BitVec 5)) : Ready w0 l := ready l (by decide +kernel) (by decide +kernel)
/-- An `OwnAccess` of the demo strand from facts that are decided. -/
theorem own {s : State} {va : Word} {n : Nat} (h : ((n = 1 ∨ n = 2 ∨ n = 4 ∨ n = 8) ∧ va.toNat / 2 ^ 56 = 0xF0 ∧ va.toNat % 2 ^ 56 < 2 ^ 21 ∧ va.toNat % n = 0) ∧
    (s.core (coreOf s.cur.sid)).lease.job = some s.cur.job ∧ s.roots = [] ∧ s.poisoned (ownLoc s va) n = false)
    (hs : s.sable = [] ∧ (s.core s.curCore).matrix.queue = [] := by decide +kernel) : OwnAccess s va n :=
  ⟨h.1.1, h.1.2.1, h.1.2.2.1, h.1.2.2.2, h.2.1, h.2.2.1, by simp [hs.1], h.2.2.2, by simp [State.mstMeets, hs.2]⟩

theorem sndIs {α β : Type} {x : α × β} {b : β} (h : x.2 = b) : ∃ u, x = (u, b) := ⟨x.1, by rw [← h]⟩
theorem thdIs {α β γ : Type} {x : α × β × γ} {c : γ} (h : x.2.2 = c) : ∃ u v, x = (u, v, c) := ⟨x.1, x.2.1, by rw [← h]⟩
/-- What a computation answers where it does not fail; `d` where it does. -/
def okOf {α β ε : Type} (d : β) (x : α × Except ε β) : β :=
  match x.2 with
  | .ok b => b
  | .error _ => d
theorem okIs {α β ε : Type} {x : α × Except ε β} (d : β) (h : x.2.toBool = true) : x = (x.1, .ok (okOf d x)) := by
  obtain ⟨a, b⟩ := x
  cases b with
  | ok b => rfl
  | error e => simp [Except.toBool] at h
theorem pairIs {α β : Type} (x : α × β) {p : α → β → Prop} (h : p x.1 x.2) : ∃ u v, x = (u, v) ∧ p u v := ⟨x.1, x.2, rfl, h⟩
/-- The words a record's read gives. -/
def recNum (x : State × ElRes) : Nat :=
  match x.2 with
  | .ok v _ => v
  | _ => 0
theorem recIs {s : State} {va : Word} {align n : Nat} (ha : va.toNat % align = 0) (h : (s.recWords va n).2 = .ok (recNum (s.recWords va n)) false)
    (hm : s.mstQueued = false := by decide +kernel) : ReadsRec s va align n (recNum (s.recWords va n)) (s.recWords va n).1 := ⟨hm, ha, Prod.ext rfl h⟩
def noHit : Hit := ⟨0, none, false, false, false⟩

/-! Hypotheses met, statement by statement. -/

theorem wit_ScalarArithmetic : scalarResult (.add 6 4 5) w0.cur = some (6, [4, 5], w0.cur.getS 4 + w0.cur.getS 5) ∧ Ready w0 [6, 4, 5] := ⟨rfl, ready_w0 _⟩
theorem wit_ScalarArithmetic_zero : scalarResult (.lui 0 1) w0.cur = some (0, [], BitVec.ofInt 64 ((1#20).toInt * 4096)) ∧ Ready w0 [0] := ⟨rfl, ready_w0 _⟩
theorem wit_ScalarCounts : (∃ v, countResult (.clz 6 4) w0.cur = some (6, 4, v)) ∧ Ready w0 [6, 4] := ⟨⟨_, rfl⟩, ready_w0 _⟩
theorem wit_Branches : branchTest (.beq 4 5 2) w0.cur = some (4, 5, 2, true) ∧ branchTest (.bne 4 5 2) w0.cur = some (4, 5, 2, false) ∧ Ready w0 [4, 5] :=
  ⟨by decide +kernel, by decide +kernel, ready_w0 _⟩
theorem wit_Jumps : Ready w0 [1] ∧ Ready w0 [0, 1] := ⟨ready_w0 _, ready_w0 _⟩

/-- The strand with `n` loop levels, the innermost one ending 64 bytes on. -/
def looped (n : Nat) : State := w fun t => { t with loops := List.replicate n ⟨3, 0, t.pc, t.pc + 64⟩ }
theorem wit_LoopPush_none : loopCount (.loop 4 2) w0.cur = some ([4], w0.cur.getS 4, 2) ∧ Ready w0 [4] ∧ w0.cur.getS 4 = 0 := ⟨rfl, ready_w0 _, by decide +kernel⟩
theorem wit_LoopPush_push : loopCount (.loopi 1 16) (looped 5).cur = some ([], 1, 16) ∧ Ready (looped 5) [] ∧ (looped 5).cur.loops.length = 5 ∧
    (∀ l ∈ (looped 5).cur.loops.head?, ((looped 5).cur.pc + BitVec.ofNat 64 (4 * (16#12).toNat)).toNat ≤ l.stop.toNat) :=
  ⟨by decide +kernel, ready _ (by decide +kernel) (by decide +kernel), by decide +kernel, by decide +kernel⟩
theorem wit_LoopPush_overflow : loopCount (.loopi 1 16) (looped 6).cur = some ([], 1, 16) ∧ Ready (looped 6) [] ∧ (looped 6).cur.loops.length = 6 :=
  ⟨by decide +kernel, ready _ (by decide +kernel) (by decide +kernel), by decide +kernel⟩
theorem wit_LoopPush_nested : loopCount (.loopi 1 17) (looped 5).cur = some ([], 1, 17) ∧ Ready (looped 5) [] ∧ (looped 5).cur.loops.length = 5 ∧
    ¬ (∀ l ∈ (looped 5).cur.loops.head?, ((looped 5).cur.pc + BitVec.ofNat 64 (4 * (17#12).toNat)).toNat ≤ l.stop.toNat) :=
  ⟨by decide +kernel, ready _ (by decide +kernel) (by decide +kernel), by decide +kernel, by decide +kernel⟩
theorem wit_LoopLevels : Ready (looped 1) [4] ∧ (∃ l, (looped 1).cur.loops[(0#3).toNat]? = some l) ∧ (∃ l ls, (looped 1).cur.loops = l :: ls) ∧ (looped 1).cur.loops.length ≤ (1#3).toNat ∧ w0.cur.loops = [] :=
  ⟨ready _ (by decide +kernel) (by decide +kernel), ⟨_, rfl⟩, ⟨_, _, rfl⟩, by decide +kernel, by decide +kernel⟩
theorem wit_EndOfBody : (0#64 ≠ 4#64) ∧ (0#64 + 1 : Word).toNat + 1 < (3 : Word).toNat ∧ (3 : Word).toNat ≤ (2 : Word).toNat + 1 := by decide
theorem wit_CsrReads : ((0x020#12).toNat, BitVec.ofNat 64 w0.cur.vty.code) ∈ csrMap w0 ∧ Ready w0 [4] ∧ w0.cur.vq = [] := ⟨by decide +kernel, ready_w0 _, by decide +kernel⟩
theorem wit_CsrWrites : Ready w0 [4, 5] ∧ w0.cur.vq = [] ∧ (csrWrite w0.cur (0x026#12).toNat (w0.cur.getS 5)).isSome = true ∧ csrWrite w0.cur (0x000#12).toNat (w0.cur.getS 5) = none :=
  ⟨ready_w0 _, by decide +kernel, by decide +kernel, by decide +kernel⟩
theorem wit_CsrWrites_edge : csrWrite w0.cur 0x026 63 ≠ none ∧ csrWrite w0.cur 0x026 64 = none ∧ csrWrite w0.cur 0x020 19 ≠ none ∧ csrWrite w0.cur 0x020 20 = none ∧ csrWrite w0.cur 0x022 16 = none ∧
    csrWrite w0.cur 0x025 5 ≠ none ∧ csrWrite w0.cur 0x025 6 = none := by decide +kernel

/-- The strand with a pre-emption request on it. -/
def asked (p : PreReq) : State := w fun t => { t with pre := some p, preAge := 65536 }
theorem wit_YieldPoint : Ready w0 [] ∧ (asked .priority).cur.pre = some .priority ∧ (asked .priority).cur.loops = [] ∧ (asked .priority).curFrozen = false :=
  ⟨ready_w0 _, by decide +kernel, by decide +kernel, by decide +kernel⟩
/-- The strand with a scalar result of the vector unit outstanding. -/
def queuedResult : State := w fun t => { t with vq := [⟨9, 7⟩] }
theorem wit_InstructionFence : Ready w0 [] ∧ w0.cur.vq = [] ∧ Ready queuedResult [] ∧ queuedResult.cur.vq ≠ [] ∧ queuedResult.cur.wait = none :=
  ⟨ready_w0 _, by decide +kernel, ready _ (by decide +kernel) (by decide +kernel), by decide +kernel, by decide +kernel⟩
theorem wit_Sleep : Ready w0 [4] ∧ w0.cur.wait = none ∧ w0.jtime.toNat + w0.cur.dlMax.toNat < 2 ^ 64 ∧ (w0.cur.getS 4).toNat ≤ w0.jtime.toNat ∧
    Ready (w (regs 1 0 0 0)) [4] ∧ (w (regs 1 0 0 0)).jtime.toNat < ((w (regs 1 0 0 0)).cur.getS 4).toNat :=
  ⟨ready_w0 _, by decide +kernel, by decide +kernel, by decide +kernel, ready _ (by decide +kernel) (by decide +kernel), by decide +kernel⟩

/-- The demo job, as the package holds it. -/
def job0 : Job := demoJob State.reset
theorem job0_here : w0.job? 1 = some job0 := by decide +kernel
/-- The package with a service area behind the fault queue. -/
def served : State := w0.poke 0 0x200028 (bytesOfNat 8 0x202000)
theorem wit_ServiceCall : w0.job? w0.cur.job = some job0 ∧ Ready w0 [4, 5, 6, 7, 8, 9, 10, 11] ∧ w0.fqSvc job0 = 0 := ⟨by decide +kernel, ready_w0 _, by decide +kernel⟩
theorem wit_ServiceCall_area : served.job? served.cur.job = some job0 ∧ Ready served [4, 5, 6, 7, 8, 9, 10, 11] ∧ served.fqSvc job0 ≠ 0 ∧ served.cur.wait = none ∧
    served.fqHead job0 - served.fqTail job0 < served.fqCap job0 ∧ job0.held = [] :=
  ⟨by decide +kernel, ready _ (by decide +kernel) (by decide +kernel), by decide +kernel, by decide +kernel, by decide +kernel, by decide +kernel⟩
theorem wit_Breakpoint : w0.job? w0.cur.job = some job0 ∧ Ready w0 [] ∧ job0.slate.st = .running ∧ job0.slate.wave = none ∧ w0.fqHead job0 - w0.fqTail job0 < w0.fqCap job0 ∧ job0.held = [] :=
  ⟨by decide +kernel, ready_w0 _, by decide +kernel, by decide +kernel, by decide +kernel, by decide +kernel⟩

/-- The strand with `s4` at the start of its scratchpad and a small offset in `s5`. -/
def padded : State := w (regs pad 8 0 0)
theorem ready_padded (l : List (BitVec 5)) : Ready padded l := ready l (by decide +kernel) (by decide +kernel)
theorem own_padded (va : Word) (n : Nat) (h : (n = 1 ∨ n = 2 ∨ n = 4 ∨ n = 8) ∧ va.toNat / 2 ^ 56 = 0xF0 ∧ va.toNat % 2 ^ 56 < 2 ^ 21 ∧ va.toNat % n = 0) : OwnAccess padded va n :=
  own ⟨h, by decide +kernel, by decide +kernel, by
    have hp : padded.poison = [] := by decide +kernel
    simp [State.poisoned, hp, SMap.get]⟩
theorem known_padded (loc n : Nat) : AllKnown padded loc n := by
  have h : padded.hist = [] := by decide +kernel
  intro x hx; simp [h] at hx
theorem wit_Loads : loadForm (.ldH 6 4 (-2)) = some (6, 4, -2, 2, true) ∧ loadForm (.ldD 6 4 8) = some (6, 4, 8, 8, false) ∧ Ready padded [4, 6] ∧
    OwnAccess padded (padded.cur.getS 4 + BitVec.ofInt 64 (8#12).toInt) 8 ∧ padded.cur.wregs = Vector.replicate 4 none ∧ AllKnown padded (ownLoc padded (pad + 8)) 8 :=
  ⟨rfl, rfl, ready_padded _, own_padded _ _ (by decide +kernel), by decide +kernel, known_padded _ _⟩
theorem wit_Stores : storeForm (.stW 4 5 4) = some (4, 5, 4, 4) ∧ Ready padded [4, 5] ∧ OwnAccess padded (padded.cur.getS 4 + BitVec.ofInt 64 (4#12).toInt) 4 ∧
    OwnAccess padded (padded.cur.getS 4 + 0x1FFFFC) 4 :=
  ⟨rfl, ready_padded _, own_padded _ _ (by decide +kernel), own_padded _ _ (by decide +kernel)⟩
theorem wit_Misaligned : (padded.cur.getS 4 + BitVec.ofInt 64 (1#12).toInt).toNat % 2 ≠ 0 ∧ loadForm (.ldH 6 4 1) = some (6, 4, 1, 2, true) ∧ storeForm (.stH 4 5 1) = some (4, 5, 1, 2) ∧ Ready padded [4, 6] ∧ Ready padded [4, 5] :=
  ⟨by decide +kernel, rfl, rfl, ready_padded _, ready_padded _⟩
theorem wit_Atomics : (∃ new, amoForm (.amoaddW 6 4 5 1 1 0) = some (⟨6, 4, 5, 1, 1, 0⟩, 4, true, new)) ∧ Ready padded [4, 5, 6] ∧ OwnAccess padded (padded.cur.getS 4) 4 ∧ AmoCalm padded (ownLoc padded pad) 4 1 :=
  ⟨⟨_, rfl⟩, ready_padded _, own_padded _ _ (by decide +kernel), ⟨by decide +kernel, by decide +kernel, by decide +kernel, fun _ => ⟨by decide +kernel, by decide +kernel⟩⟩⟩
theorem wit_RingPut : (List.replicate 64 (0 : Byte)).length = 64 ∧ w0.recPa job0 (w0.fqHead job0) + 64 ≤ 2 ^ 40 ∧ job0.rec_.fq + 16 + 8 ≤ 2 ^ 40 ∧
    (w0.recPa job0 (w0.fqHead job0) + 64 ≤ job0.rec_.fq + 16 ∨ job0.rec_.fq + 16 + 8 ≤ w0.recPa job0 (w0.fqHead job0)) := by decide +kernel

/-- The demo job under another fault policy. -/
def jobUnder (p : Policy) : Job := { job0 with rec_ := { job0.rec_ with policy := p } }
def under (p : Policy) : State := { w0 with jobs := [jobUnder p], rest := [{ w0.cur with uid := 77, sid := mkSid 0 0 1 }] }
/-- An alignment fault of the demo strand. -/
def badRec : FaultRec := plainRec w0 .misaligned 1 2 0
theorem wit_TakingFault : (under .freeze).job? (under .freeze).cur.job = some (jobUnder .freeze) ∧ RingRoom (under .freeze) (jobUnder .freeze) badRec ∧ badRec.big = false ∧ (jobUnder .freeze).slate.st = .running ∧
    badRec.code ≠ .keyRevoked ∧ (under .freeze).paged (jobUnder .freeze) badRec.code = false ∧ (jobUnder .freeze).rec_.policy ≠ .stop ∧ (jobUnder .freeze).slate.wave = none :=
  ⟨by decide +kernel, ⟨by decide +kernel, by decide +kernel, by decide +kernel⟩, rfl, by decide +kernel, by decide +kernel, by decide +kernel, by decide +kernel, by decide +kernel⟩
theorem wit_FaultStops : (under .stop).job? (under .stop).cur.job = some (jobUnder .stop) ∧ RingRoom (under .stop) (jobUnder .stop) badRec ∧ badRec.big = false ∧ (jobUnder .stop).slate.st = .running ∧
    (under .stop).paged (jobUnder .stop) badRec.code = false ∧ (jobUnder .stop).rec_.policy = .stop ∧ (jobUnder .stop).stopReq = none ∧
    (∃ t ∈ (under .stop).rest, t.job = (under .stop).cur.job ∧ t.away = false ∧ t.uid ≠ (under .stop).cur.uid) ∧ (under .stop).cur.job ≠ 0 ∧ (under .stop).cur.away = false :=
  ⟨by decide +kernel, ⟨by decide +kernel, by decide +kernel, by decide +kernel⟩, rfl, by decide +kernel, by decide +kernel, by decide +kernel, by decide +kernel, by decide +kernel, by decide +kernel, by decide +kernel⟩
theorem wit_IllegalWords : decode 0 = .illegalInstruction ∧ decode 0x0000005B = .illegalOperand := by decide +kernel
/-- The strand at an address that no page table maps. -/
def astray : State := w fun t => { t with pc := 0x200000000 }
theorem wit_IllegalWords_fetch : ∃ u f, astray.fetch = (u, .error f) := ⟨_, _, rfl⟩

theorem vready {s : State} (l vs : List (BitVec 5)) (hf : s.cur.full = BitVec.allOnes 32) (hp : s.cur.pre = none) (hn : s.cur.laneCount ≠ 0 ∧ s.cur.laneCount ≤ 16) (hs : s.cur.streams = [])
    (hm : s.mrdQueued = false := by decide +kernel) : VReady s l vs :=
  ⟨ready l hf hp, hn.1, hn.2, hm, fun v _ => by simp [Strand.stream, hs, SMap.get]⟩
/-- The strand at a type, with a mask of one element in `k0`, offsets in `v2` and its scratchpad in `s4`. -/
def vecs (ty : ElTy) : State := w fun t => { (((regs pad 8 0 0 t).setK 0 1).setV 2 64) with vty := ty }
theorem vready_vecs (ty : ElTy) (l vs : List (BitVec 5)) : VReady (vecs ty) l vs := vready l vs rfl rfl (by cases ty <;> decide +kernel) rfl (by cases ty <;> decide +kernel)
theorem wit_VectorConfig : ElTy.ofCode (19#5).toNat = some .e8m0 ∧ Ready w0 [4] ∧ VReady w0 [4, 5] [] ∧ (23#5).toNat < 24 ∧ Ready (w fun t => { t with grant := 0 }) [4, 5] ∧ (w fun t => { t with grant := 0 }).cur.laneCount = 0 :=
  ⟨rfl, ready_w0 _, vready _ _ (by decide +kernel) (by decide +kernel) (by decide +kernel) (by decide +kernel), by decide, ready _ (by decide +kernel) (by decide +kernel), by decide +kernel⟩
/-- Base and length of a window in the last 64 bytes of the scratchpad. -/
def windowAt (len : Word) : State := w fun t => { regs (pad + 0x1FFFC0) len 0 0 t with vty := .f32 }
theorem wit_WindowOpen : VReady (windowAt 64) [4, 5] [] ∧ tyWide (windowAt 64).cur.vty = true ∧
    (((windowAt 64).cur.getS 4).toNat / 2 ^ 56 = 0xF0 ∧ ((windowAt 64).cur.getS 4).toNat % 2 ^ 56 + ((windowAt 64).cur.getS 5).toNat ≤ 2 ^ 21 ∧ (windowAt 64).cur.acw.getLsbD 63 = false) ∧
    VReady (windowAt 128) [4, 5] [] ∧ ¬ ((windowAt 128).cur.getS 4).toNat % 2 ^ 56 + ((windowAt 128).cur.getS 5).toNat ≤ 2 ^ 21 :=
  ⟨vready _ _ (by decide +kernel) (by decide +kernel) (by decide +kernel) (by decide +kernel), by decide +kernel, by decide +kernel, vready _ _ (by decide +kernel) (by decide +kernel) (by decide +kernel) (by decide +kernel), by decide +kernel⟩
/-- The strand with a window of 64 bytes open at the start of its scratchpad. -/
def windowed : State := (vecs .i32).onCur fun t => { t with acw := BitVec.ofNat 64 (0 + 64 * 2 ^ 22 + 2 * 2 ^ 44 + 2 ^ 63), vregs := t.vregs.set 2 4 }
theorem wit_WindowUse : VReady windowed [4] [1, 2] ∧ tyWide windowed.cur.vty = true ∧ windowed.cur.acw.getLsbD 63 = true ∧ ElTy.ofCode (windowed.cur.acw.toNat / 2 ^ 44 % 32) = some windowed.cur.vty ∧
    (∀ i ∈ (List.range windowed.cur.n).filter (on windowed.cur 0),
      let va := windowed.cur.getS 4 + BitVec.ofNat 64 (elemAt (widthOf windowed.cur.vty) (windowed.cur.getV 2) i)
      va.toNat / 2 ^ 56 = 0xF0 ∧ va.toNat % 2 ^ 56 % (widthOf windowed.cur.vty / 8) = 0 ∧ windowed.cur.acw.toNat % 2 ^ 22 ≤ va.toNat % 2 ^ 56 ∧
        va.toNat % 2 ^ 56 + widthOf windowed.cur.vty / 8 ≤ windowed.cur.acw.toNat % 2 ^ 22 + windowed.cur.acw.toNat / 2 ^ 22 % 2 ^ 22) ∧
    ((List.range windowed.cur.n).filter (on windowed.cur 0)) = [0] ∧ InOrder windowed.cur.window ∧
    VReady (vecs .i32) [4] [1, 2] ∧ (vecs .i32).cur.acw.getLsbD 63 = false := by
  refine ⟨vready _ _ (by decide +kernel) (by decide +kernel) (by decide +kernel) (by decide +kernel), by decide +kernel, by decide +kernel, by decide +kernel, ?_, by decide +kernel, List.Pairwise.nil,
    vready_vecs _ _ _, by decide +kernel⟩
  have h : ((List.range windowed.cur.n).filter (on windowed.cur 0)) = [0] := by decide +kernel
  intro i hi
  rw [h] at hi
  cases List.mem_singleton.mp hi
  decide +kernel
/-- The same with an element of each of two lane groups touched. -/
def touchedWindow : State := windowed.onCur fun t => { t with window := [⟨0, 4, 5⟩, ⟨1, 0, 6⟩] }
theorem own_touched (off : Nat) (h : (ownVa off).toNat / 2 ^ 56 = 0xF0 ∧ (ownVa off).toNat % 2 ^ 56 < 2 ^ 21 ∧ (ownVa off).toNat % 4 = 0) : OwnAccess touchedWindow (ownVa off) 4 ∧ AllKnown touchedWindow (ownLoc touchedWindow (ownVa off)) 4 := by
  have hp : touchedWindow.poison = [] := by decide +kernel
  have hh : touchedWindow.hist = [] := by decide +kernel
  exact ⟨own ⟨⟨by decide, h⟩, by decide +kernel, by decide +kernel, by simp [State.poisoned, hp, SMap.get]⟩, fun x hx => by simp [hh] at hx⟩
theorem wit_WindowUse_merge : VReady touchedWindow [4] [] ∧ touchedWindow.mstQueued = false ∧ ElTy.ofCode (touchedWindow.cur.acw.toNat / 2 ^ 44 % 32) = some .i32 ∧ tyWide .i32 = true ∧ InOrder touchedWindow.cur.window ∧
    touchedWindow.cur.acw.getLsbD 63 = true ∧ touchedWindow.cur.getS 4 = ownVa (touchedWindow.cur.acw.toNat % 2 ^ 22) ∧
    (∀ x ∈ touchedWindow.cur.window, OwnAccess touchedWindow (ownVa x.off) (widthOf .i32 / 8) ∧ AllKnown touchedWindow (ownLoc touchedWindow (ownVa x.off)) (widthOf .i32 / 8)) ∧
    VReady (touchedWindow.onCur fun t => t.setS 4 (pad + 64)) [4] [] ∧ ¬ (touchedWindow.onCur fun t => t.setS 4 (pad + 64)).cur.getS 4 = ownVa (touchedWindow.cur.acw.toNat % 2 ^ 22) := by
  refine ⟨vready _ _ (by decide +kernel) (by decide +kernel) (by decide +kernel) (by decide +kernel), by decide +kernel, by decide +kernel, rfl, ?_, by decide +kernel, by decide +kernel, ?_,
    vready _ _ (by decide +kernel) (by decide +kernel) (by decide +kernel) (by decide +kernel), by decide +kernel⟩
  · unfold InOrder; exact List.pairwise_pair.mpr (by decide)
  · have h : touchedWindow.cur.window = [⟨0, 4, 5⟩, ⟨1, 0, 6⟩] := rfl
    intro x hx
    rw [h] at hx
    rcases List.mem_cons.mp hx with rfl | hx
    · exact own_touched 4 (by decide +kernel)
    · cases List.mem_singleton.mp hx
      exact own_touched 0 (by decide +kernel)
theorem wit_VectorArithmetic : ∃ f, vForm (.vmac 1 2 3 0) = some f ∧ VReady (vecs .f32) (if f.scal then [f.b] else []) (f.d :: f.a :: if f.scal then [] else [f.b]) ∧ f.types (vecs .f32).cur.vty = true ∧
    ¬ (f.rounds = true ∧ isF (vecs .f32).cur.vty = true ∧ (vecs .f32).cur.frm = .efb) :=
  ⟨_, rfl, vready_vecs _ _ _, rfl, by decide +kernel⟩
theorem wit_VectorArithmetic_scalar : ∃ f, vForm (.vsraS 1 2 4 31) = some f ∧ VReady (vecs .i8) (if f.scal then [f.b] else []) (f.d :: f.a :: if f.scal then [] else [f.b]) ∧ f.types (vecs .i8).cur.vty = true ∧
    ¬ (f.rounds = true ∧ isF (vecs .i8).cur.vty = true ∧ (vecs .i8).cur.frm = .efb) :=
  ⟨_, rfl, vready_vecs _ _ _, rfl, by decide +kernel⟩
theorem wit_IntegerElements : isInt .i8 = true ∧ isInt .z64 = true ∧ (0xFF : Nat) < 2 ^ widthOf .i8 ∧ (2 ^ 64 - 1 : Nat) < 2 ^ widthOf .z64 := by decide +kernel
theorem wit_VectorCompares : (∃ rel, cmpForm (.vclt 23 1 2 0) = some (23, 1, 2, 0, false, intOrFloat, rel)) ∧ (23#5).toNat < 24 ∧ VReady (vecs .i16) [] [1, 2] ∧ intOrFloat (vecs .i16).cur.vty = true ∧
    (∃ rel, cmpForm (.vcgeS 0 1 4 31) = some (0, 1, 4, 31, true, intOrFloat, rel)) ∧ VReady (vecs .i16) [4] [1] :=
  ⟨⟨_, rfl⟩, by decide, vready_vecs _ _ _, rfl, ⟨_, rfl⟩, vready_vecs _ _ _⟩
theorem wit_MaskLogic : (∃ bit, maskForm (.kandn 23 0 1 31) (vecs .i8).cur = some (23, 31, [], bit)) ∧ (∃ bit, maskForm (.kwhile 1 4 5) (vecs .i8).cur = some (1, 31, [4, 5], bit)) ∧ VReady (vecs .i8) [4, 5] [] ∧ VReady (vecs .i8) [] [] :=
  ⟨⟨_, rfl⟩, ⟨_, rfl⟩, vready_vecs _ _ _, vready_vecs _ _ _⟩
theorem wit_MaskCounts : VReady (vecs .i8) [9] [] ∧ (vecs .i8).cur.pre = none ∧ queuedResult.cur.vq = [⟨9, 7⟩] ∧ queuedResult.cur.away = false := ⟨vready_vecs _ _ _, rfl, rfl, by decide +kernel⟩
theorem wit_Permutes : (∃ f, permForm (.vslup 1 2 5 31) (vecs .e4m3).cur = some (1, 31, [5], [2], f)) ∧ (∃ f, permForm (.vcmprs 1 2 0) (vecs .e4m3).cur = some (1, 31, [], [2], f)) ∧
    VReady (vecs .e4m3) [5] [1, 2] ∧ VReady (vecs .e4m3) [] [1, 2] ∧ notBlock (vecs .e4m3).cur.vty = true :=
  ⟨⟨_, rfl⟩, ⟨_, rfl⟩, vready_vecs _ _ _, vready_vecs _ _ _, rfl⟩
/-- The strand with an element number in `s5`. -/
def picked (n : Word) : State := (vecs .i32).onCur fun t => t.setS 5 n
theorem wit_ElementMoves : notBlock (picked 255).cur.vty = true ∧ VReady (picked 255) [5, 9] [2] ∧ VReady (picked 255) [4, 5] [1] ∧ ((picked 255).cur.getS 5).toNat < (picked 255).cur.n ∧
    VReady (picked 256) [5, 9] [2] ∧ (picked 256).cur.n ≤ ((picked 256).cur.getS 5).toNat :=
  ⟨rfl, vready _ _ (by decide +kernel) (by decide +kernel) (by decide +kernel) (by decide +kernel), vready _ _ (by decide +kernel) (by decide +kernel) (by decide +kernel) (by decide +kernel), by decide +kernel,
    vready _ _ (by decide +kernel) (by decide +kernel) (by decide +kernel) (by decide +kernel), by decide +kernel⟩
theorem wit_Reductions : ∃ f, redForm (.vrsum 9 2 31) (vecs .f32).cur = some f ∧ VReady (vecs .f32) [f.d] [f.a] ∧ f.types (vecs .f32).cur.vty = true ∧ ¬ (f.rounds = true ∧ isF (vecs .f32).cur.vty = true ∧ (vecs .f32).cur.frm = .efb) :=
  ⟨_, rfl, vready_vecs _ _ _, rfl, by decide +kernel⟩
theorem wit_Reductions_wide : ∃ f, redForm (.vrsumw 9 2 0) (vecs .i8).cur = some f ∧ VReady (vecs .i8) [f.d] [f.a] ∧ f.types (vecs .i8).cur.vty = true ∧ ¬ (f.rounds = true ∧ isF (vecs .i8).cur.vty = true ∧ (vecs .i8).cur.frm = .efb) :=
  ⟨_, rfl, vready_vecs _ _ _, rfl, by decide +kernel⟩
theorem wit_Scans : VReady (vecs .i32) [] [1, 2] ∧ isInt (vecs .i32).cur.vty = true := ⟨vready_vecs _ _ _, rfl⟩
theorem wit_Conversions : ElTy.ofCode (2#5).toNat = some .i32 ∧ VReady (vecs .f32) [] [1, 2] ∧ cvtOk false .i32 (vecs .f32).cur.vty ((vecs .f32).cur.rnd 6) = true ∧ (vecs .f32).cur.rnd 6 ≠ .efb ∧
    ElTy.ofCode (8#5).toNat = some .f32 ∧ VReady (vecs .e4m3) [] [1, 2] ∧ cvtOk true .f32 (vecs .e4m3).cur.vty ((vecs .e4m3).cur.rnd 5) = true ∧ (vecs .e4m3).cur.rnd 5 = .efb :=
  ⟨rfl, vready_vecs _ _ _, by decide +kernel, by decide +kernel, rfl, vready_vecs _ _ _, by decide +kernel, by decide +kernel⟩
theorem wit_Packing : ElTy.ofCode (17#5).toNat = some .tb8 ∧ isBlock .tb8 = true ∧ isF (vecs .bf16).cur.vty = true ∧ VReady (vecs .bf16) [] [1, 2, 2 + 1] ∧
    ElTy.ofCode (8#5).toNat = some .f32 ∧ isF .f32 = true ∧ isBlock (vecs .mx4).cur.vty = true ∧ (vecs .mx4).cur.rnd 0 ≠ .efb ∧ VReady (vecs .mx4) [] [1, 1 + 1, 2] ∧
    ¬ (isF .f32 = true ∧ isBlock (vecs .i8).cur.vty = true ∧ (vecs .i8).cur.rnd 0 ≠ .efb) :=
  ⟨rfl, rfl, rfl, vready_vecs _ _ _, rfl, rfl, rfl, by decide +kernel, vready_vecs _ _ _, by decide +kernel⟩
theorem own_vecs (ty : ElTy) (va : Word) (n : Nat) (h : (n = 1 ∨ n = 2 ∨ n = 4 ∨ n = 8) ∧ va.toNat / 2 ^ 56 = 0xF0 ∧ va.toNat % 2 ^ 56 < 2 ^ 21 ∧ va.toNat % n = 0) : OwnAccess (vecs ty) va n :=
  own ⟨h, by cases ty <;> decide +kernel, by cases ty <;> decide +kernel, by
    have hp : (vecs ty).poison = [] := by cases ty <;> decide +kernel
    simp [State.poisoned, hp, SMap.get]⟩ (by cases ty <;> decide +kernel)
theorem known_vecs (ty : ElTy) (loc n : Nat) : AllKnown (vecs ty) loc n := by
  have h : (vecs ty).hist = [] := by cases ty <;> decide +kernel
  intro x hx; simp [h] at hx
theorem wit_VectorLoads : ∃ addr, vloadForm (.vlds 1 4 5 31) (vecs .i32).cur = some (1, 31, [4, 5], [], notBlock, addr) ∧ VReady (vecs .i32) [4, 5] [1] ∧ (vecs .i32).mstQueued = false ∧ notBlock (vecs .i32).cur.vty = true ∧ NoMarks (vecs .i32) ∧
    ∀ j, on (vecs .i32).cur 31 j = true → OwnAccess (vecs .i32) (addr j) (32 / 8) ∧ AllKnown (vecs .i32) (ownLoc (vecs .i32) (addr j)) (32 / 8) := by
  refine ⟨_, rfl, vready_vecs _ _ _, by decide +kernel, rfl, rfl, fun j hj => ⟨own_vecs _ _ _ ?_, known_vecs _ _ _⟩⟩
  have hn : (vecs .i32).cur.n = 256 := by decide +kernel
  simp only [on, hn, Bool.and_eq_true, decide_eq_true_eq] at hj
  replace hj := hj.1
  revert j; decide +kernel
theorem wit_VectorLoads_gather : ∃ addr, vloadForm (.vldx 1 4 2 0) (vecs .z32).cur = some (1, 0, [4], [2], tyWide, addr) ∧ VReady (vecs .z32) [4] [1, 2] ∧ tyWide (vecs .z32).cur.vty = true ∧ NoMarks (vecs .z32) ∧
    ((List.range (vecs .z32).cur.n).filter (on (vecs .z32).cur 0)) = [0] ∧ OwnAccess (vecs .z32) (addr 0) (32 / 8) ∧ AllKnown (vecs .z32) (ownLoc (vecs .z32) (addr 0)) (32 / 8) :=
  ⟨_, rfl, vready_vecs _ _ _, rfl, rfl, by decide +kernel, own_vecs _ _ _ (by decide +kernel), known_vecs _ _ _⟩
theorem on_vecs (ty : ElTy) (i : Nat) (h : on (vecs ty).cur 0 i = true) : i = 0 := by
  simp only [on, Bool.and_eq_true, Bool.or_eq_true, decide_eq_true_eq] at h
  have hk : (vecs ty).cur.getK 0 = (1 : KReg) := rfl
  rw [hk] at h
  rcases h.2 with h2 | h2
  · exact absurd h2 (by decide)
  · simpa using h2
theorem wit_SegmentLoads : ElTy.ofCode (2#5).toNat = some .i32 ∧ (vecs .i32).cur.segOk .i32 = true ∧ NoMarks (vecs .i32) ∧ (24#5).toNat + ((10#5).toNat - 2) ≤ 32 ∧ VReady (vecs .i32) [4] ((List.range 8).map fun j => 24 + BitVec.ofNat 5 j) ∧
    ∀ i j, on (vecs .i32).cur 0 i = true → j < 8 → OwnAccess (vecs .i32) ((vecs .i32).cur.getS 4 + BitVec.ofNat 64 ((i * 8 + j) * 4)) 4 ∧ AllKnown (vecs .i32) (ownLoc (vecs .i32) ((vecs .i32).cur.getS 4 + BitVec.ofNat 64 ((i * 8 + j) * 4))) 4 := by
  refine ⟨rfl, by decide +kernel, rfl, by decide, vready_vecs _ _ _, fun i j hi hj => ⟨own_vecs _ _ _ ?_, known_vecs _ _ _⟩⟩
  cases on_vecs _ _ hi
  revert j; decide +kernel
theorem wit_VectorStores : ∃ addr, vstoreForm (.vsts 1 4 5 0) (vecs .i32).cur = some (1, 0, [4, 5], [], notBlock, addr) ∧ VReady (vecs .i32) [4, 5] [1] ∧ notBlock (vecs .i32).cur.vty = true ∧
    (∀ j ∈ (List.range (vecs .i32).cur.n).filter (on (vecs .i32).cur 0), OwnAccess (vecs .i32) (addr j) (32 / 8)) ∧ (List.range (vecs .i32).cur.n).filter (on (vecs .i32).cur 0) = [0] := by
  refine ⟨_, rfl, vready_vecs _ _ _, rfl, fun j hj => own_vecs _ _ _ ?_, by decide +kernel⟩
  cases on_vecs _ _ (List.mem_filter.mp hj).2
  decide +kernel
theorem wit_VectorStores_segment : ElTy.ofCode (11#5).toNat = some .e4m3 ∧ (vecs .f32).cur.segOk .e4m3 = true ∧ VReady (vecs .f32) [4] ((List.range 2).map fun j => 1 + BitVec.ofNat 5 j) ∧
    ∀ p ∈ ((List.range (vecs .f32).cur.n).filter (on (vecs .f32).cur 0)).flatMap fun i => (List.range 2).map fun j => (i, j), OwnAccess (vecs .f32) ((vecs .f32).cur.getS 4 + BitVec.ofNat 64 ((p.1 * 2 + p.2) * 1)) 1 := by
  refine ⟨rfl, by decide +kernel, vready_vecs _ _ _, fun p hp => own_vecs _ _ _ ?_⟩
  have h : ((List.range (vecs .f32).cur.n).filter (on (vecs .f32).cur 0)) = [0] := by decide +kernel
  rw [h] at hp
  revert p; decide +kernel
/-- The package with a page of `.mx8a` blocks after the code page, its start in `s4`. -/
def blocks (ty : ElTy) : State := ((vecs ty).poke 0 0x10C008 (bytesOfNat 8 0x005000000044043F)).onCur fun t => t.setS 4 (codeVa + 0x40000)
theorem vready_blocks (ty : ElTy) (l vs : List (BitVec 5)) : VReady (blocks ty) l vs := vready l vs (by cases ty <;> decide +kernel) (by cases ty <;> decide +kernel) (by cases ty <;> decide +kernel) (by cases ty <;> decide +kernel) (by cases ty <;> decide +kernel)

theorem wit_VectorAtomics : VReady (vecs .i32) [4] [1, 2] ∧ tyWide (vecs .i32).cur.vty = true ∧ isInt (vecs .i32).cur.vty = true ∧
    (∀ i ∈ (List.range (vecs .i32).cur.n).filter (on (vecs .i32).cur 0), OwnAccess (vecs .i32) ((vecs .i32).cur.getS 4 + BitVec.ofNat 64 (elemAt 32 ((vecs .i32).cur.getV 2) i)) (32 / 8)) ∧ (vecs .i32).cur.pend = [] ∧
    (vecs .i32).cur.out = [] ∧ (vecs .i32).cur.vamoTodo = none ∧ (vecs .i32).outstanding (vecs .i32).cur.uid = false := by
  refine ⟨vready_vecs _ _ _, rfl, rfl, fun i hi => own_vecs _ _ _ ?_, rfl, rfl, rfl, by decide +kernel⟩
  cases on_vecs _ _ (List.mem_filter.mp hi).2
  decide +kernel

theorem keeps_foldl {α β : Type} (p : β → Prop) (f : β → α → β) (h : ∀ b a, p b → p (f b a)) : ∀ (l : List α) (b : β), p b → p (l.foldl f b)
  | [], _, hb => hb
  | a :: l, b, hb => keeps_foldl p f h l (f b a) (h b a hb)
/-- Reading leaves cores and the strand's name alone. -/
def Same (s t : State) : Prop := t.cores = s.cores ∧ t.cur.sid = s.cur.sid
theorem readPiece_same (s : State) h w o : Same s (s.readPiece h w o).1 := by
  fun_induction State.readPiece s h w o with
  | case1 => exact ⟨rfl, rfl⟩
  | case2 s w off v s1 he s2 bs he2 ih =>
    rw [he2] at ih
    have h1 : Same s s1 := by
      have : s1 = (if h.void then (0, s) else if h.sable then (s.peekKey h.key (h.loc + off) 4, s) else s.loadHere h.key (h.loc + off) 4).2 := by rw [he]
      rw [this]; split
      · exact ⟨rfl, rfl⟩
      · split
        · exact ⟨rfl, rfl⟩
        · exact ⟨rfl, rfl⟩
    exact ⟨ih.1.trans h1.1, ih.2.trans h1.2⟩
theorem readRows_same (s : State) n l : Same s (s.readRows n l).1 := by
  unfold State.readRows
  refine keeps_foldl (fun a : State × List MRow => Same s a.1) _ (fun a i ha => ?_) _ _ ⟨rfl, rfl⟩
  refine keeps_foldl (fun b : State × List Byte × Bool => Same s b.1) _ (fun b x hb => ?_) _ _ ha
  have h := readPiece_same b.1 x.2.2.2 (x.2.2.1 / 4) 0
  dsimp only
  split
  · exact ⟨h.1.trans hb.1, h.2.trans hb.2⟩
  · exact ⟨h.1.trans hb.1, h.2.trans hb.2⟩
theorem readRows_room {s : State} {n l} (h : (s.core s.curCore).matrix.used < 16) : ((s.readRows n l).1.core (s.readRows n l).1.curCore).matrix.used < 16 := by
  have hs := readRows_same s n l
  unfold State.core State.curCore at *
  rw [hs.1, hs.2]; exact h

theorem mready_w0 (f : Strand → Strand) (l : List (BitVec 5)) (hf : (w f).cur.full = BitVec.allOnes 32) (hp : (w f).cur.pre = none) (hm : (w f).cur.mlease = true)
    (hq : ((w f).core (w f).curCore).matrix.used < 16) : MReady (w f) l := ⟨ready l hf hp, hm, hq⟩
/-- Base of matrix rows in `s4`, pitch or the packed form of `mstr` in `s5`. -/
def rowed (p : Word) : State := w (regs pad p 0 0)
theorem wit_MatrixIssue : MReady (rowed 256) [] := mready_w0 _ _ (by decide +kernel) (by decide +kernel) (by decide +kernel) (by decide +kernel)
theorem wit_MatrixIssue_load : let s := rowed 256
    ElTy.ofCode (9#5).toNat = some .bf16 ∧ MReady s [4, 5] ∧ mclass .bf16 ≠ 0 ∧ rowBytes .bf16 128 ≤ (s.cur.getS 5).toNat ∧ (s.cur.getS 5).toNat < 2 ^ 32 ∧ (s.cur.getS 4).toNat % 4 = 0 ∧ (s.cur.getS 5).toNat % 4 = 0 ∧
    ∃ u l v rows, (readAll s [4, 5]).reachAll (needOf .matrixLoad) (rowsAt (s.cur.getS 4) (s.cur.getS 5).toNat (mclassK (mclass .bf16)) (rowBytes .bf16 128)) = (u, .ok l) ∧
      u.mstQueued = false ∧ u.readRows (mclassK (mclass .bf16)) l = (v, rows) ∧ (v.core v.curCore).matrix.used < 16 :=
  ⟨rfl, mready_w0 _ _ (by decide +kernel) (by decide +kernel) (by decide +kernel) (by decide +kernel), by decide +kernel, by decide +kernel, by decide +kernel, by decide +kernel, by decide +kernel,
    _, _, _, _, okIs [] (by decide +kernel), by decide +kernel, (Prod.eta _).symm, readRows_room (by decide +kernel)⟩
/-- The same with `.i8` weights in the active plane: `mstr.i8` of one row of pitch 256. -/
def planed : State := (rowed (1 + 256 * 2 ^ 16)).onCore 0 fun c => { c with matrix := { c.matrix with act := ⟨some .i8, [], false, false⟩ } }
theorem wit_MatrixIssue_stream : let s := planed
    ElTy.ofCode (0#5).toNat = some .i8 ∧ MReady s [4, 5] ∧ (readAll s [4, 5]).mstrOk .i8 (0#2).toNat (decide (1#1 = 1#1)) (s.cur.getS 5) = true ∧
    (s.cur.getS 5).toNat % 2 ^ 16 = 1 ∧ (s.cur.getS 5).toNat / 2 ^ 16 % 2 ^ 32 = 256 ∧ (s.cur.getS 4).toNat % 4 = 0 ∧ (s.cur.getS 4).toNat / 2 ^ 56 = 0xF0 ∧
    (s.cur.getS 4).toNat % 2 ^ 56 + rowBytes .i8 (mclassK (mclass .i8)) ≤ 2 ^ 21 ∧
    ∃ u l v rows, (readAll s [4, 5]).reachAll (needOf .matrixLoad) (rowsAt (s.cur.getS 4) 256 1 (rowBytes .i8 (mclassK (mclass .i8)))) = (u, .ok l) ∧ u.mstQueued = false ∧ u.readRows 1 l = (v, rows) ∧
      (v.core v.curCore).matrix.used < 16 :=
  ⟨rfl, ⟨ready _ (by decide +kernel) (by decide +kernel), by decide +kernel, by decide +kernel⟩, by decide +kernel, by decide +kernel, by decide +kernel, by decide +kernel, by decide +kernel, by decide +kernel,
    _, _, _, _, okIs [] (by decide +kernel), by decide +kernel, (Prod.eta _).symm, readRows_room (by decide +kernel)⟩
theorem wit_MatrixIssue_store : let s := rowed 512
    ElTy.ofCode (2#5).toNat = some .i32 ∧ MReady s [4, 5] ∧ mstTakes ((s.core s.curCore).matrix.tagOf (3#2).toNat) .i32 = true ∧ 16 * widthOf .i32 ≤ (s.cur.getS 5).toNat ∧
    (s.cur.getS 5).toNat < 2 ^ 32 ∧ (s.cur.getS 4).toNat % (widthOf .i32 / 8) = 0 ∧ (s.cur.getS 5).toNat % (widthOf .i32 / 8) = 0 ∧
    ∃ u l, (readAll s [4, 5]).reachAll (needOf .matrixStore) (rowsAt (s.cur.getS 4) (s.cur.getS 5).toNat 128 (128 * (widthOf .i32 / 8))) = (u, .ok l) ∧ (u.core u.curCore).matrix.used < 16 :=
  ⟨rfl, mready_w0 _ _ (by decide +kernel) (by decide +kernel) (by decide +kernel) (by decide +kernel), by decide +kernel, by decide +kernel, by decide +kernel, by decide +kernel, by decide +kernel,
    _, _, okIs [] (by decide +kernel), by decide +kernel⟩
/-- Row 126 from column 255 on in `s4`. -/
def lastRow : State := w (regs (126 + 255 * 2 ^ 16) 0 0 0)
theorem wit_MatrixRead : let s := lastRow
    let v := (s.cur.getS 4).toNat;
    Ready s [4] ∧ s.cur.mlease = true ∧ s.cur.stream 1 = none ∧ s.cur.laneCount ≠ 0 ∧ s.cur.laneCount ≤ 16 ∧ v < 2 ^ 24 ∧ v % 2 ^ 16 % 2 = 0 ∧ v % 2 ^ 16 ≤ 126 ∧
    rowsMissing (s.core s.curCore).matrix.queue (0#2).toNat [v % 2 ^ 16, v % 2 ^ 16 + 1] = none ∧ s.mrdQueued = false ∧ ((s.core s.curCore).matrix.tile 0).poison = 0 ∧ ((s.core s.curCore).matrix.tile 0).ecc = 0 :=
  ⟨ready _ (by decide +kernel) (by decide +kernel), by decide +kernel⟩
/-- The strand in a wait for an object, due at `jtime` 5 of a clock that stands at 9. -/
def waiting (o : WaitObj) (kind : Nat) (bound : Option Word) (e : Option FaultRec) : State :=
  { w fun t => { t with wait := some ⟨o, kind, 6, bound, false, 0, e⟩ } with gtime := 9 }
/-- Core 0's matrix queue holding one entry of the current strand. -/
def matq (op : MOp) (done : Nat) : State := w0.onCore 0 fun c => { c with matrix := { c.matrix with queue := [⟨w0.cur.uid, codeVa, op, done⟩] } }
theorem wit_MatrixRead_queued : let s := (matq (.mzero 0) 0).onCur fun t => t.setS 4 (126 + 255 * 2 ^ 16)
    Ready s [4] ∧ s.cur.mlease = true ∧ s.cur.stream 1 = none ∧ s.cur.laneCount ≠ 0 ∧ s.cur.laneCount ≤ 16 ∧ (s.cur.getS 4).toNat = 126 + 255 * 2 ^ 16 ∧ rowsMissing (s.core s.curCore).matrix.queue (0#2).toNat [126, 126 + 1] ≠ none :=
  ⟨ready _ (by decide +kernel) (by decide +kernel), by decide +kernel⟩
/-- Core 0's matrix queue holding an `mrd` of the current strand behind a pass over another tile. -/
def rowRead : State := (matq (.mzero 3) 0).onCore 0 fun c => { c with matrix := { c.matrix with queue := c.matrix.queue ++ [⟨w0.cur.uid, codeVa, .mrd 0 126 255 1 ⟨100, w0.cur⟩, 0⟩] } }
theorem wit_MatrixRead_write : let s := rowRead
    s.cur.away = false ∧ s.cur.laneCount ≤ 16 ∧ (s.core (coreOf s.cur.sid)).matrix.queue = [⟨w0.cur.uid, codeVa, .mzero 3, 0⟩] ++ ⟨s.cur.uid, codeVa, .mrd 0 126 255 1 ⟨100, w0.cur⟩, 0⟩ :: [] ∧
    (∀ e ∈ [(⟨w0.cur.uid, codeVa, .mzero 3, 0⟩ : MEntry)], e.uid = s.cur.uid → ∀ t r c d w, e.op ≠ .mrd t r c d w) ∧ rowReady [⟨w0.cur.uid, codeVa, .mzero 3, 0⟩] 0 126 = true ∧ rowReady [⟨w0.cur.uid, codeVa, .mzero 3, 0⟩] 0 (126 + 1) = true ∧
    ((s.core (coreOf s.cur.sid)).matrix.tile 0).poison = 0 ∧ ((s.core (coreOf s.cur.sid)).matrix.tile 0).ecc = 0 := by
  refine ⟨by decide +kernel, by decide +kernel, by decide +kernel, ?_, by decide +kernel, by decide +kernel, by decide +kernel, by decide +kernel⟩
  intro e he _
  cases List.mem_singleton.mp he
  simp
theorem wit_MatrixUnit : ((matq (.mld .i8 [⟨1, true⟩]) 0).core 0).matrix.queue = [⟨w0.cur.uid, codeVa, .mld .i8 [⟨1, true⟩], 0⟩] ∧ ((matq .mswap 0).core 0).matrix.queue = [⟨w0.cur.uid, codeVa, .mswap, 0⟩] ∧
    ((matq (.mzero 3) 0).core 0).matrix.queue = [⟨w0.cur.uid, codeVa, .mzero 3, 0⟩] := by decide +kernel
theorem wit_MatrixPass : let s := matq (.mstr .i8 3 true (List.replicate 128 ⟨1, false⟩)) 127
    (s.core 0).matrix.queue = ⟨w0.cur.uid, codeVa, .mstr .i8 3 true (List.replicate 128 ⟨1, false⟩), 127⟩ :: [] ∧ (List.replicate 128 (⟨1, false⟩ : MRow))[127]? = some ⟨1, false⟩ := by decide +kernel
theorem wit_MatrixStore : let s := matq (.mst .i32 1 [⟨127, pad, scratchLoc 0 0, 0, 4, false⟩] ⟨100, w0.cur⟩) 127
    (s.core 0).matrix.queue = ⟨s.cur.uid, codeVa, .mst .i32 1 [⟨127, pad, scratchLoc 0 0, 0, 4, false⟩] ⟨100, w0.cur⟩, 127⟩ :: [] ∧ ((s.core 0).matrix.tile 1).poison.getLsbD 127 = false ∧ ((s.core 0).matrix.tile 1).ecc.getLsbD 127 = false ∧
    (∀ d ∈ [(⟨127, pad, scratchLoc 0 0, 0, 4, false⟩ : MDest)].filter fun d => decide (d.row = 127), d.sable = false) ∧ 126 + 1 < 128 := by decide +kernel

/-- Words put at the start of the demo strand's scratchpad, whose address is in `s4`; `s5` as given. -/
def record (ws : List Nat) (b : Word) : State := { padded.poke 0 (scratchLoc 0 0) (ws.flatMap (bytesOfNat 8)) with cur := regs pad b 0 0 w0.cur }
theorem ready_record (ws : List Nat) (b : Word) (l : List (BitVec 5)) (hf : (record ws b).cur.full = BitVec.allOnes 32) (hp : (record ws b).cur.pre = none) : Ready (record ws b) l := ready l hf hp
/-- A descriptor of 64 dwords from offset 4096 to offset 8192, without a map. -/
def plainDesc : List Nat := [0xF000000000001000, 0xF000000000002000, 64, 0, 0, 8 * 2 ^ 32, 0, 0]
/-- The same with an element size of 3. -/
def badDesc : List Nat := [0xF000000000001000, 0xF000000000002000, 64, 0, 0, 3 * 2 ^ 32, 0, 0]
theorem wit_CopyIssue : let s := record plainDesc 0
    let x := (readAll s [4]).recWords (s.cur.getS 4) 8;
    Ready s [4, 6, 7] ∧ ReadsRec (readAll s [4]) (s.cur.getS 4) 64 8 (recNum x) x.1 ∧ (descOf (recNum x)).bad (decide (12 ≤ (4#4).toNat)) = false ∧ (descOf (recNum x)).multicast = false ∧
    (x.1.portOf x.1.curCore 4).queue.length < 8 ∧ (x.1.portOf x.1.curCore 4).bound = none ∧ (x.1.portOf x.1.curCore 4).queue = [] ∧ ReleaseCalm x.1 :=
  ⟨ready_record _ _ _ (by decide +kernel) (by decide +kernel), recIs (by decide +kernel) (by decide +kernel), by decide +kernel, by decide +kernel, by decide +kernel, by decide +kernel, by decide +kernel, ⟨by decide +kernel, by decide +kernel, by decide +kernel⟩⟩
theorem wit_CopyIssue_bad : let s := record badDesc 0
    let x := (readAll s [4]).recWords (s.cur.getS 4) 8;
    Ready s [4, 6, 7] ∧ ReadsRec (readAll s [4]) (s.cur.getS 4) 64 8 (recNum x) x.1 ∧ (descOf (recNum x)).bad (decide (12 ≤ (15#4).toNat)) = true :=
  ⟨ready_record _ _ _ (by decide +kernel) (by decide +kernel), recIs (by decide +kernel) (by decide +kernel), by decide +kernel⟩
theorem wordCalm_record (v : Nat) (b : Word) (h : OwnAccess (record [v] b) pad 8) (h2 : (record [v] b).cur.wait = none ∧ (record [v] b).jtime.toNat + (record [v] b).cur.dlMax.toNat < 2 ^ 64) : WordCalm (record [v] b) pad := ⟨h, h2.1, h2.2⟩
/-- The word 5 at the start of the scratchpad, a deadline in `s5`, a mask or count in `s6`. -/
def counted (b c : Word) : State := (record [5] b).onCur fun t => t.setS 6 c
theorem own_counted (b c : Word) (h : (counted b c).roots = [] ∧ (counted b c).poisoned (ownLoc (counted b c) pad) 8 = false ∧ ((counted b c).core (counted b c).curCore).matrix.queue = []) (h2 : ((counted b c).core (coreOf (counted b c).cur.sid)).lease.job = some (counted b c).cur.job) : OwnAccess (counted b c) pad 8 :=
  own ⟨by decide, h2, h.1, h.2.1⟩ ⟨rfl, h.2.2⟩
theorem calm_counted (b c : Word) (h : (counted b c).roots = [] ∧ (counted b c).poisoned (ownLoc (counted b c) pad) 8 = false ∧ ((counted b c).core (counted b c).curCore).matrix.queue = [])
    (h2 : ((counted b c).core (coreOf (counted b c).cur.sid)).lease.job = some (counted b c).cur.job) (h3 : (counted b c).cur.wait = none ∧ (counted b c).jtime.toNat + (counted b c).cur.dlMax.toNat < 2 ^ 64) : WordCalm (counted b c) pad :=
  ⟨own_counted b c h h2, h3.1, h3.2⟩
theorem wit_ChunkWait : (let s := counted 0 5;
      Ready s [4, 5, 6] ∧ s.cur.getS 4 + BitVec.ofNat 64 (8 * (0#7).toNat) = pad ∧ WordCalm s pad ∧ s.cur.getS 6 &&& ~~~BitVec.ofNat 64 (s.peek (ownLoc s pad) 8) = 0) ∧
    (let s := counted 0 7;
      Ready s [4, 5, 6] ∧ WordCalm s pad ∧ s.cur.getS 6 &&& ~~~BitVec.ofNat 64 (s.peek (ownLoc s pad) 8) ≠ 0 ∧ (s.cur.getS 5).toNat ≤ s.jtime.toNat) ∧
    (let s := counted 1 7;
      Ready s [4, 5, 6] ∧ WordCalm s pad ∧ s.cur.getS 6 &&& ~~~BitVec.ofNat 64 (s.peek (ownLoc s pad) 8) ≠ 0 ∧ s.jtime.toNat < (s.cur.getS 5).toNat) :=
  ⟨⟨ready _ (by decide +kernel) (by decide +kernel), by decide +kernel, calm_counted _ _ (by decide +kernel) (by decide +kernel) (by decide +kernel), by decide +kernel⟩,
   ⟨ready _ (by decide +kernel) (by decide +kernel), calm_counted _ _ (by decide +kernel) (by decide +kernel) (by decide +kernel), by decide +kernel⟩,
   ⟨ready _ (by decide +kernel) (by decide +kernel), calm_counted _ _ (by decide +kernel) (by decide +kernel) (by decide +kernel), by decide +kernel⟩⟩
theorem wit_TimelineWait : (let s := counted 0 5;
      Ready s [4, 5, 6] ∧ WordCalm s pad ∧ (s.cur.getS 6).toNat ≤ (BitVec.ofNat 64 (s.peek (ownLoc s pad) 8)).toNat) ∧
    (let s := counted 0 6;
      WordCalm s pad ∧ (BitVec.ofNat 64 (s.peek (ownLoc s pad) 8)).toNat < (s.cur.getS 6).toNat ∧ (s.cur.getS 5).toNat ≤ s.jtime.toNat) ∧
    (let s := counted 1 6;
      WordCalm s pad ∧ (BitVec.ofNat 64 (s.peek (ownLoc s pad) 8)).toNat < (s.cur.getS 6).toNat ∧ s.jtime.toNat < (s.cur.getS 5).toNat) :=
  ⟨⟨ready _ (by decide +kernel) (by decide +kernel), calm_counted _ _ (by decide +kernel) (by decide +kernel) (by decide +kernel), by decide +kernel⟩,
   ⟨calm_counted _ _ (by decide +kernel) (by decide +kernel) (by decide +kernel), by decide +kernel⟩, ⟨calm_counted _ _ (by decide +kernel) (by decide +kernel) (by decide +kernel), by decide +kernel⟩⟩
theorem wit_PortStatus : let s := w (regs 15 16 0 0)
    Ready s [4, 6] ∧ Ready s [5, 6] ∧ (s.cur.getS 4).toNat < 16 ∧ (s.portOf s.curCore 15).queue.length < 16 ∧ 16 ≤ (s.cur.getS 5).toNat :=
  ⟨ready _ (by decide +kernel) (by decide +kernel), ready _ (by decide +kernel) (by decide +kernel), by decide +kernel⟩
/-- A pattern of 64 dwords from offset 4096. -/
def patternOf : List Nat := [0xF000000000001000, 0, 64, 0, 0, 8 * 2 ^ 32, 0, 0]
def pattern : Desc := ⟨0xF000000000001000, 0, [64, 1, 1, 1], [0, 0, 0], 8, 0, 0, 0, 0⟩
/-- Register `v24` bound to port 3. -/
def bound : State := (w fun t => { t with streams := [(24, some ⟨3, pattern, 1024, 1, 0, 0⟩)] }).onPort 0 3 fun q => { q with bound := some (w0.cur.uid, 24), active := true }
theorem wit_Streams : (let s := record patternOf 0;
      let x := (readAll s [4]).recWords (s.cur.getS 4) 8;
      Ready s [4] ∧ s.cur.stream 24 = none ∧ (3#4).toNat < 4 ∧ (s.portOf s.curCore 3).bound = none ∧ ReadsRec (readAll s [4]) (s.cur.getS 4) 64 8 (recNum x) x.1 ∧ x.1.cores = s.cores ∧ x.1.cur.stream 24 = none ∧
      x.1.curCore = s.curCore ∧ (descOf (recNum x)).bad false = false ∧ (descOf (recNum x)).patternOnly = true) ∧
    (Ready bound [] ∧ bound.cur.stream 24 = some ⟨3, pattern, 1024, 1, 0, 0⟩ ∧ (bound.portOf bound.curCore 3).bound = some (bound.cur.uid, 24)) ∧ (Ready w0 [] ∧ w0.cur.stream 24 = none) :=
  ⟨⟨ready _ (by decide +kernel) (by decide +kernel), by decide +kernel, by decide, by decide +kernel, recIs (by decide +kernel) (by decide +kernel), by decide +kernel, by decide +kernel, by decide +kernel, by decide +kernel, by decide +kernel⟩,
   ⟨ready _ (by decide +kernel) (by decide +kernel), by decide +kernel, by decide +kernel⟩, ready_w0 _, by decide +kernel⟩
/-- A copy of 64 dwords within the scratchpad, by a port of core 0, as `cpy` leaves it. -/
def copy0 (st : CopySt) : Copy where
  id := 3
  eng := .port 0 4
  uid := w0.cur.uid
  sid := w0.cur.sid
  job := w0.cur.job
  pc := codeVa
  hb := 0
  desc := ⟨0xF000000000001000, 0xF000000000002000, [64, 1, 1, 1], [0, 0, 0], 8, 0, 0, 0, 0⟩
  rev := false
  dests := []
  fill := none
  policy := 0
  ue := none
  sd := 6
  sb := 7
  st := st
  done := []
  read := []
  buf := []
  bad := []
  writes := 0
  out := []
  fault := none
  final := false
  recNo := 0
  served := []
  relDone := false
  delDone := false
  replaying := false
  chain := none
  hold := []
  bits := []
  lost := []
  counting := false
  mapLost := false
  paths := []
/-- The package with one copy, and what its port holds. -/
def copying (c : Copy) (q : Port) : State := { w0 with pkg := { w0.pkg with copies := [c] } }.onPort 0 4 fun _ => q
/-- The port's copy with a chunk done: running, awaiting its replay, or at the head of the queue. -/
theorem wit_PortStatus_head (st : CopySt) (h : st = .running ∨ st = .replayQueued ∨ st = .queued) : let c := { copy0 st with done := [0] };
    let q := if st = .queued then { Port.free with queue := [.copy 3] } else if st = .running then { Port.free with running := some 3 } else Port.free;
    let s := { copying c q with cur := regs 4 0 0 0 w0.cur };
    Ready s [4, 6] ∧ (s.cur.getS 4).toNat = 4 ∧ (s.portOf s.curCore 4).queue.length < 16 ∧ (s.portOf s.curCore 4).running = (if st = .running then some 3 else none) ∧ s.copy? 3 = some c ∧ (c.done.map c.desc.chunkLen).sum = 512 ∧
    ((∃ c ∈ s.pkg.copies, c.eng = .port s.curCore 4 ∧ (c.st = .faulted ∨ c.st = .replayQueued)) ↔ st = .replayQueued) := by
  rcases h with rfl | rfl | rfl <;> exact ⟨ready _ (by decide +kernel) (by decide +kernel), by decide +kernel⟩
theorem wit_PortEvents : (let s := copying (copy0 .queued) { Port.free with queue := [.copy 3] };
      (s.portOf 0 4).running = none ∧ (s.portOf 0 4).bound = none ∧ s.replayWaits (.port 0 4) = false ∧ (s.portOf 0 4).queue = .copy 3 :: [] ∧ s.copy? 3 = some (copy0 .queued) ∧ s.engineRuns (copy0 .queued).job = true) ∧
    (let s := copying (copy0 .queued) { Port.free with queue := [.bind w0.cur.uid 24] };
      (s.portOf 0 4).running = none ∧ (s.portOf 0 4).bound = none ∧ s.replayWaits (.port 0 4) = false ∧ (s.portOf 0 4).queue = .bind w0.cur.uid 24 :: []) ∧
    (let s := copying (copy0 .replayQueued) Port.free;
      s.copy? 3 = some (copy0 .replayQueued) ∧ (copy0 .replayQueued).eng = .port 0 4 ∧ s.engineRuns (copy0 .replayQueued).job = true ∧ (s.portOf 0 4).running = none ∧ (s.portOf 0 4).bound = none) := by decide +kernel
theorem wit_PortEvents_strip : let b : StreamBind := ⟨3, pattern, 1024, 1, 0, 0⟩
    (bound.portOf 0 3).bound = some (bound.cur.uid, 24) ∧ bound.cur.stream 24 = some b ∧ (bound.portOf 0 3).active = true ∧ (bound.portOf 0 3).fault = none ∧ (bound.portOf 0 3).strips.length < b.depth ∧ bound.engineRuns bound.cur.job = true ∧
    b.desc.esize = 8 ∧ b.desc.len = 512 ∧ (∀ e ∈ List.range (b.strip / 8), e * 8 < b.desc.len → OwnAccess bound (b.desc.pat b.desc.src e) 8) ∧ bound.hist = [] := by
  refine ⟨by decide +kernel, by decide +kernel, by decide +kernel, by decide +kernel, by decide +kernel, by decide +kernel, by decide +kernel, by decide +kernel, fun e he _ => ?_, by decide +kernel⟩
  have hp : bound.poison = [] := by decide +kernel
  exact own ⟨by revert e; decide +kernel, by decide +kernel, by decide +kernel, by simp [State.poisoned, hp, SMap.get]⟩
/-- The same copy while its port runs it. -/
def moving : State := copying (copy0 .running) { Port.free with running := some 3 }
theorem wit_CopyMoves : let s := moving
    let c := copy0 .running;
    s.copy? 3 = some c ∧ s.copyRuns c = true ∧ c.uid = s.cur.uid ∧ c.job = s.cur.job ∧ c.sid = s.cur.sid ∧ c.desc.esize = 8 ∧ c.desc.ext = [64, 1, 1, 1] ∧ c.desc.str = [0, 0, 0] ∧ c.desc.reduce = 0 ∧ c.desc.flags = 0 ∧ c.rev = false ∧
    c.fill = none ∧ c.ue = none ∧ c.done = [] ∧ c.read = [] ∧ c.out = [] ∧ c.hold = [] ∧ c.bits = [] ∧ c.lost = [] ∧ (∀ x ∈ s.claims, x.copy ≠ 3) ∧ (ownLoc s c.desc.src + 8 * 64 ≤ ownLoc s c.desc.dst ∨ ownLoc s c.desc.dst + 8 * 64 ≤ ownLoc s c.desc.src) ∧ s.hist = [] := by
  decide +kernel
theorem wit_CopyMoves_places : ∀ i, i < 64 → OwnAccess moving ((copy0 .running).desc.src + BitVec.ofNat 64 (8 * i)) 8 ∧ OwnAccess moving ((copy0 .running).desc.dst + BitVec.ofNat 64 (8 * i)) 8 := by
  have hp : moving.poison = [] := by decide +kernel
  have clean : ∀ l n, moving.poisoned l n = false := fun l n => by simp [State.poisoned, hp, SMap.get]
  intro i hi
  exact ⟨own ⟨by revert i; decide +kernel, by decide +kernel, by decide +kernel, clean _ _⟩, own ⟨by revert i; decide +kernel, by decide +kernel, by decide +kernel, clean _ _⟩⟩
/-- The copy with its one chunk read and in place, its release token out or not. -/
def readOut (rel : Bool) : Copy := { copy0 .running with read := [0], done := [0], relDone := rel }
theorem wit_CopyTokens : (let s := copying (readOut false) { Port.free with running := some 3 };
      s.copy? 3 = some (readOut false) ∧ s.copyRuns (readOut false) = true ∧ (readOut false).relDone = false ∧ (∀ j, j < (readOut false).desc.chunks → (readOut false).read.contains j = true) ∧ (readOut false).uid = s.cur.uid ∧ (readOut false).replaying = false) ∧
    (let s := copying (readOut true) { Port.free with running := some 3 };
      s.copy? 3 = some (readOut true) ∧ s.copyRuns (readOut true) = true ∧ (readOut true).complete = true ∧ (readOut true).relDone = true ∧ (readOut true).delDone = false ∧ (readOut true).uid = s.cur.uid) ∧
    (let c := { copy0 .running with fault := some badRec };
      let s := copying c { Port.free with running := some 3 };
      s.copy? 3 = some c ∧ c.fault = some badRec ∧ c.st = .running ∧ c.out = []) := by decide +kernel

/-- A chain header for the copy ports of core 0 (or, with engine 5, for none), its timeline behind it, and an empty record after that. -/
def chained (eng : Nat) : State := record [0, 0, 0xF000000000000100, eng, 0, 0, 0, 0, 0, 3, 0, 0, 0, 0, 0, 0] (pad + 64)
theorem wit_ChainAppend : let s := chained 0;
    let x := (readAll s [4, 5]).chainPlaces (s.cur.getS 4) (s.cur.getS 5);
    let h := (okOf (noHit, noHit) x).1;
    let rh := (okOf (noHit, noHit) x).2;
    Ready s [4, 5, 6] ∧ s.cur.replies = [] ∧ x = (x.1, .ok (okOf (noHit, noHit) x)) ∧ isHere h.loc = true ∧ isHere rh.loc = true ∧ (∃ v, x.1.objView h 32 = some v ∧ x.1.engineOk x.1.cur.job (BitVec.ofNat 32 (recField v 24 4)) = true ∧ recField v 0 8 = 0) ∧ ReleaseCalm x.1 ∧
    (h.loc + 32 ≤ rh.loc ∨ rh.loc + 64 ≤ h.loc) :=
  ⟨ready _ (by decide +kernel) (by decide +kernel), by decide +kernel, okIs _ (by decide +kernel), by decide +kernel, by decide +kernel, ⟨0xF000000000000100 * 2 ^ 128, by decide +kernel⟩, ⟨by decide +kernel, by decide +kernel, by decide +kernel⟩, by decide +kernel⟩
theorem wit_ChainAppend_engine : let s := chained 5;
    let x := (readAll s [4, 5]).chainPlaces (s.cur.getS 4) (s.cur.getS 5);
    Ready s [4, 5, 6] ∧ x.2.toBool = true ∧ ∃ v, x.1.objView (okOf (noHit, noHit) x).1 32 = some v ∧ x.1.engineOk x.1.cur.job (BitVec.ofNat 32 (recField v 24 4)) = false :=
  ⟨ready _ (by decide +kernel) (by decide +kernel), by decide +kernel, 5 * 2 ^ 192 + 0xF000000000000100 * 2 ^ 128, by decide +kernel⟩

/-- A command with an opcode and operands, appended by the demo strand. -/
def cmdOf (op : Nat) (args : List Nat) : ChainCmd := ⟨0xF000000000008000, scratchLoc 0 0x8000, 0, some (natOfBytes ((0 :: op :: args).flatMap (bytesOfNat 8))), 1, w0.cur.uid, w0.cur.sid, codeVa, 0⟩
/-- A chain of an engine class with one command, waiting or running. -/
def chainOf (cls : Nat) (c : ChainCmd) (run : Bool) : Chain := ⟨scratchLoc 0 0x9000, 1, cls, BitVec.ofNat 32 cls, 0xF000000000000100, if run then [] else [c], if run then some c else none, false, none, 0, [], none, none⟩
def hdr : Nat := scratchLoc 0 0x9000
/-- The package with that chain. -/
def withChain (s : State) (c : Chain) : State := { s with pkg := { s.pkg with chains := [c] } }
/-- A chain whose next command is this one. -/
def next (cls op : Nat) (args : List Nat) : State := withChain (record plainDesc 0) (chainOf cls (cmdOf op args) false)
theorem nextCmd {s : State} {hdr cls op : Nat} {c : Chain} {cmd : ChainCmd} (h : s.chain? hdr = some c ∧ c.cur = none ∧ c.todo.head? = some cmd ∧ c.cls = cls ∧ recOp (s.recOf c.job cmd) = op ∧ s.engineRuns c.job = true) : NextCmd s hdr cls op c cmd :=
  ⟨h.1, h.2.1, h.2.2.1, h.2.2.2.1, h.2.2.2.2.1, h.2.2.2.2.2⟩
theorem wit_ChainMarks : NextCmd (next 0 3 []) hdr 0 3 (chainOf 0 (cmdOf 3 []) false) (cmdOf 3 []) ∧ NextCmd (next 1 3 []) hdr 1 3 (chainOf 1 (cmdOf 3 []) false) (cmdOf 3 []) ∧
    NextCmd (next 2 3 []) hdr 2 3 (chainOf 2 (cmdOf 3 []) false) (cmdOf 3 []) ∧ NextCmd (next 3 4 []) hdr 3 4 (chainOf 3 (cmdOf 4 []) false) (cmdOf 4 []) :=
  ⟨nextCmd (by decide +kernel), nextCmd (by decide +kernel), nextCmd (by decide +kernel), nextCmd (by decide +kernel)⟩
theorem wit_ChainMarks_path : NextCmd (next 2 6 [5, 1, 2]) hdr 2 6 (chainOf 2 (cmdOf 6 [5, 1, 2]) false) (cmdOf 6 [5, 1, 2]) ∧ peerKey (recArg ((next 2 6 [5, 1, 2]).recOf 1 (cmdOf 6 [5, 1, 2])) 0) = some 5 := ⟨nextCmd (by decide +kernel), by decide +kernel⟩
theorem wit_ChainMarks_region : let a := [1023, 0x100040000, 512, 0xF000000000000100, 3];
    NextCmd (next 3 3 a) hdr 3 3 (chainOf 3 (cmdOf 3 a) false) (cmdOf 3 a) ∧ (next 3 3 a).job? 1 = some job0 ∧ (recArg ((next 3 3 a).recOf 1 (cmdOf 3 a)) 0).toNat < 1024 ∧ (recArg ((next 3 3 a).recOf 1 (cmdOf 3 a)) 1).toNat % 512 = 0 ∧
    (recArg ((next 3 3 a).recOf 1 (cmdOf 3 a)) 2).toNat % 512 = 0 ∧ (recArg ((next 3 3 a).recOf 1 (cmdOf 3 a)) 3).toNat % 8 = 0 :=
  ⟨nextCmd (by decide +kernel), by decide +kernel⟩
/-- The descriptor a command names, as its engine reads it. -/
def descRead (s : State) (c : Chain) (cmd : ChainCmd) (va : Word) : State × Except Fail (Option Nat) := s.cmdRead c cmd va 64
theorem plain {s : State} {c : Chain} {cmd : ChainCmd} {va : Word} {m : Bool} {v : Nat} (h : (s.cmdRead c cmd va 64).2.toBool = true ∧ okOf none (s.cmdRead c cmd va 64) = some v ∧ (descOf v).bad m = false ∧ (descOf v).multicast = false) :
    PlainDesc s c cmd va m (s.cmdRead c cmd va 64).1 (descOf v) := ⟨⟨v, by rw [← h.2.1]; exact okIs none h.1, rfl⟩, h.2.2.1, h.2.2.2⟩
def plainNum : Nat := natOfBytes (plainDesc.flatMap (bytesOfNat 8))
theorem wit_ChainCopies_port : let a := [0xF000000000000000, 4];
    let s := next 0 2 a;
    let c := chainOf 0 (cmdOf 2 a) false;
    NextCmd s hdr 0 2 c (cmdOf 2 a) ∧ 4 ≤ (recArg (s.recOf 1 (cmdOf 2 a)) 1).toNat % 16 ∧ s.coreHas (coreOf c.field) c.job = true ∧
    PlainDesc s c (cmdOf 2 a) (recArg (s.recOf 1 (cmdOf 2 a)) 0) (decide (12 ≤ (recArg (s.recOf 1 (cmdOf 2 a)) 1).toNat % 16)) (s.cmdRead c (cmdOf 2 a) (recArg (s.recOf 1 (cmdOf 2 a)) 0) 64).1 (descOf plainNum) ∧
    (s.cmdRead c (cmdOf 2 a) (recArg (s.recOf 1 (cmdOf 2 a)) 0) 64).1.chain? hdr = some c ∧ ((s.cmdRead c (cmdOf 2 a) (recArg (s.recOf 1 (cmdOf 2 a)) 0) 64).1.portOf (coreOf c.field) 4).queue.length < 8 :=
  ⟨nextCmd (by decide +kernel), by decide +kernel, by decide +kernel, plain (by decide +kernel), by decide +kernel, by decide +kernel⟩
theorem wit_ChainCopies_indigo : let a := [0xF000000000000000, 12];
    let s := next 2 1 a;
    let c := chainOf 2 (cmdOf 1 a) false;
    NextCmd s hdr 2 1 c (cmdOf 1 a) ∧ 12 ≤ (recArg (s.recOf 1 (cmdOf 1 a)) 1).toNat % 16 ∧ s.coreHas (coreOf c.field) c.job = true ∧
    PlainDesc s c (cmdOf 1 a) (recArg (s.recOf 1 (cmdOf 1 a)) 0) true (s.cmdRead c (cmdOf 1 a) (recArg (s.recOf 1 (cmdOf 1 a)) 0) 64).1 (descOf plainNum) ∧
    (s.cmdRead c (cmdOf 1 a) (recArg (s.recOf 1 (cmdOf 1 a)) 0) 64).1.chain? hdr = some c ∧ ((s.cmdRead c (cmdOf 1 a) (recArg (s.recOf 1 (cmdOf 1 a)) 0) 64).1.portOf (coreOf c.field) 12).queue.length < 8 :=
  ⟨nextCmd (by decide +kernel), by decide +kernel, by decide +kernel, plain (by decide +kernel), by decide +kernel, by decide +kernel⟩
theorem wit_ChainCopies_ochre : let a := [0xF000000000000000, 0];
    let s := next 1 1 a;
    let c := chainOf 1 (cmdOf 1 a) false;
    NextCmd s hdr 1 1 c (cmdOf 1 a) ∧ recArg (s.recOf 1 (cmdOf 1 a)) 1 = 0 ∧ PlainDesc s c (cmdOf 1 a) (recArg (s.recOf 1 (cmdOf 1 a)) 0) false (s.cmdRead c (cmdOf 1 a) (recArg (s.recOf 1 (cmdOf 1 a)) 0) 64).1 (descOf plainNum) ∧
    (s.cmdRead c (cmdOf 1 a) (recArg (s.recOf 1 (cmdOf 1 a)) 0) 64).1.chain? hdr = some c :=
  ⟨nextCmd (by decide +kernel), by decide +kernel, plain (by decide +kernel), by decide +kernel⟩
theorem wit_ChainCopies_fill : let a := [0xF000000000002000, 512, 7];
    NextCmd (next 1 4 a) hdr 1 4 (chainOf 1 (cmdOf 4 a) false) (cmdOf 4 a) ∧ (recArg ((next 1 4 a).recOf 1 (cmdOf 4 a)) 0).toNat % 8 = 0 ∧ (recArg ((next 1 4 a).recOf 1 (cmdOf 4 a)) 1).toNat % 8 = 0 :=
  ⟨nextCmd (by decide +kernel), by decide +kernel⟩
theorem wit_ChainCopies_ue : let a := [0xF000000000000000, 0x10005, 0, 1];
    let s := next 3 1 a;
    let c := chainOf 3 (cmdOf 1 a) false;
    NextCmd s hdr 3 1 c (cmdOf 1 a) ∧ ueFar (recArg (s.recOf 1 (cmdOf 1 a)) 1) = some (5, 1) ∧ ueModeOf ((recArg (s.recOf 1 (cmdOf 1 a)) 3).toNat % 4) = some .rod ∧
    PlainDesc s c (cmdOf 1 a) (recArg (s.recOf 1 (cmdOf 1 a)) 0) false (s.cmdRead c (cmdOf 1 a) (recArg (s.recOf 1 (cmdOf 1 a)) 0) 64).1 (descOf plainNum) ∧ ueWriteBad (descOf plainNum) .rod = false ∧
    (s.cmdRead c (cmdOf 1 a) (recArg (s.recOf 1 (cmdOf 1 a)) 0) 64).1.chain? hdr = some c :=
  ⟨nextCmd (by decide +kernel), by decide +kernel, by decide +kernel, plain (by decide +kernel), by decide +kernel, by decide +kernel⟩
theorem wit_ChainCopies_ueRead : let a := [0xF000000000000000, 0x10005, 0];
    let s := next 3 2 a;
    let c := chainOf 3 (cmdOf 2 a) false;
    NextCmd s hdr 3 2 c (cmdOf 2 a) ∧ ueFar (recArg (s.recOf 1 (cmdOf 2 a)) 1) = some (5, 1) ∧
    PlainDesc s c (cmdOf 2 a) (recArg (s.recOf 1 (cmdOf 2 a)) 0) false (s.cmdRead c (cmdOf 2 a) (recArg (s.recOf 1 (cmdOf 2 a)) 0) 64).1 (descOf plainNum) ∧
    (s.cmdRead c (cmdOf 2 a) (recArg (s.recOf 1 (cmdOf 2 a)) 0) 64).1.chain? hdr = some c :=
  ⟨nextCmd (by decide +kernel), by decide +kernel, plain (by decide +kernel), by decide +kernel⟩
/-- A chain that waits for the counter at the start of the scratchpad, which holds 5, with a deadline on a clock at 9. -/
def signalled (op n dl : Nat) (run : Bool) : State := { withChain (counted 0 0) (chainOf 2 (cmdOf op [0xF000000000000000, n, dl]) run) with gtime := 9 }
theorem runsCmd {s : State} {hdr cls op : Nat} {c : Chain} {cmd : ChainCmd} (h : s.chain? hdr = some c ∧ c.cur = some cmd ∧ c.cls = cls ∧ recOp (s.recOf c.job cmd) = op ∧ c.done = false ∧ s.engineRuns c.job = true) : RunsCmd s hdr cls op c cmd :=
  ⟨h.1, h.2.1, h.2.2.1, h.2.2.2.1, h.2.2.2.2.1, h.2.2.2.2.2⟩
theorem wit_IndigoWaits : (let s := signalled 4 5 9 false;
      NextCmd s hdr 2 4 (chainOf 2 (cmdOf 4 [0xF000000000000000, 5, 9]) false) (cmdOf 4 [0xF000000000000000, 5, 9])) ∧
    (let s := signalled 4 5 9 true;
      let c := chainOf 2 (cmdOf 4 [0xF000000000000000, 5, 9]) true;
      let cmd := cmdOf 4 [0xF000000000000000, 5, 9];
      let x := s.indigoPlace c cmd (recArg (s.recOf 1 cmd) 0) .load;
      RunsCmd s hdr 2 4 c cmd ∧ x = (x.1, .ok (okOf noHit x)) ∧ isHere (okOf noHit x).loc = true ∧ x.1.chain? hdr = some c ∧ (recArg (s.recOf 1 cmd) 1).toNat ≤ x.1.peekKey (okOf noHit x).key (okOf noHit x).loc 8 ∧
      (s.jtimeOf c.job).toNat ≤ (recArg (s.recOf 1 cmd) 2).toNat) ∧
    (let s := signalled 4 6 9 true;
      let c := chainOf 2 (cmdOf 4 [0xF000000000000000, 6, 9]) true;
      let cmd := cmdOf 4 [0xF000000000000000, 6, 9];
      let x := s.indigoPlace c cmd (recArg (s.recOf 1 cmd) 0) .load;
      RunsCmd s hdr 2 4 c cmd ∧ x = (x.1, .ok (okOf noHit x)) ∧ isHere (okOf noHit x).loc = true ∧ x.1.chain? hdr = some c ∧ x.1.peekKey (okOf noHit x).key (okOf noHit x).loc 8 < (recArg (s.recOf 1 cmd) 1).toNat ∧ (s.jtimeOf c.job).toNat ≤ (recArg (s.recOf 1 cmd) 2).toNat) ∧
    (let s := signalled 5 6 9 false;
      let c := chainOf 2 (cmdOf 5 [0xF000000000000000, 6, 9]) false;
      let cmd := cmdOf 5 [0xF000000000000000, 6, 9];
      let x := s.indigoPlace c cmd (recArg (s.recOf 1 cmd) 0) .atomic;
      NextCmd s hdr 2 5 c cmd ∧ x = (x.1, .ok (okOf noHit x)) ∧ isHere (okOf noHit x).loc = true ∧ x.1.chain? hdr = some c) :=
  ⟨nextCmd (by decide +kernel), ⟨runsCmd (by decide +kernel), okIs _ (by decide +kernel), by decide +kernel⟩, ⟨runsCmd (by decide +kernel), okIs _ (by decide +kernel), by decide +kernel⟩,
    nextCmd (by decide +kernel), okIs _ (by decide +kernel), by decide +kernel⟩
theorem wit_ChainComplete : let c := { chainOf 0 (cmdOf 3 []) true with done := true };
    let s := withChain w0 c;
    let x := s.engReach (s.cmdStrand c (cmdOf 3 [])) c.timeline 8 (needOf .copyDst);
    let a := (x.1.recPlace c.job (cmdOf 3 [])).1;
    s.chain? hdr = some c ∧ s.engineRuns c.job = true ∧ c.cur = some (cmdOf 3 []) ∧ c.done = true ∧ x = (x.1, .ok (okOf noHit x)) ∧ x.1.pkg.chains = s.pkg.chains ∧ isHere (okOf noHit x).loc = true ∧
    isHere (a + 10) = true ∧ isPeerLoc a = false ∧ (a + 12 ≤ (okOf noHit x).loc ∨ (okOf noHit x).loc + 8 ≤ a + 10) :=
  ⟨by decide +kernel, by decide +kernel, by decide +kernel, by decide +kernel, okIs _ (by decide +kernel), by decide +kernel⟩
/-- The job with one registered region in its code page. -/
def regioned : State := { w0 with jobs := [{ job0 with regions := [⟨7, codeVa, 512, 0, true, true⟩] }] }
/-- The same with the page writable. -/
def regionedW : State := { vecs .i8 with jobs := [{ job0 with regions := [⟨7, pad, 512, 0, true, true⟩] }] }
/-- The current strand bound as party 1 to object 0 of its cluster, in these states. -/
def barred (o : Barrier) (r : BReg) : State := ((w fun t => { t with bregs := t.bregs.set 2 (some r) }).setBar 0 0 o)
/-- An object of two parties in phase 4. -/
def two : Barrier := { Barrier.zero with config := true, count := 2, members := 3, phase := 4, job := 1 }
def party1 (phase : BitVec 32) (since : Bool) : BReg := ⟨0, 0, 1, phase, since⟩
/-- A configuration record for object 0, two parties, party 1. -/
def barRec : Nat := 0x201 * 2 ^ 32
theorem wit_BarrierObjects : (let s := record [barRec, 0] 0;
      let x := (readAll s [4]).recWords (s.cur.getS 4) 2;
      Ready s [4] ∧ ReadsRec (readAll s [4]) (s.cur.getS 4) 16 2 (recNum x) x.1 ∧ x.1.barRecOk (recNum x) = true ∧ (x.1.bar 0 0).config = false) ∧
    (let s := (record [barRec, 0] 0).setBar 0 0 two;
      let x := (readAll s [4]).recWords (s.cur.getS 4) 2;
      Ready s [4] ∧ ReadsRec (readAll s [4]) (s.cur.getS 4) 16 2 (recNum x) x.1 ∧ x.1.barRecOk (recNum x) = true ∧ (x.1.bar 0 0).config = true ∧ (x.1.bar 0 0).agrees (recNum x) = true ∧ recNum x / 2 ^ 32 % 2 ^ 8 = 1 ∧ (x.1.bar 0 0).members.getLsbD 1 = true) ∧
    (let s := record [0x4101 * 2 ^ 32, 0] 0;
      let x := (readAll s [4]).recWords (s.cur.getS 4) 2;
      Ready s [4] ∧ ReadsRec (readAll s [4]) (s.cur.getS 4) 16 2 (recNum x) x.1 ∧ x.1.barRecOk (recNum x) = false) ∧
    (Ready (barred two (party1 4 false)) [4] ∧ (barred two (party1 4 false)).cur.getB 2 = some (party1 4 false) ∧ w0.cur.getB 2 = none) :=
  ⟨⟨ready _ (by decide +kernel) (by decide +kernel), recIs (by decide +kernel) (by decide +kernel), by decide +kernel⟩,
   ⟨ready _ (by decide +kernel) (by decide +kernel), recIs (by decide +kernel) (by decide +kernel), by decide +kernel⟩,
   ⟨ready _ (by decide +kernel) (by decide +kernel), recIs (by decide +kernel) (by decide +kernel), by decide +kernel⟩,
   ready _ (by decide +kernel) (by decide +kernel), by decide +kernel⟩
theorem wit_BarrierArrivals : (let s := barred { two with members := 1 } (party1 4 false);
      Ready s [5, 6] ∧ readAll s [5] = s ∧ s.cur.getB 2 = some (party1 4 false) ∧ (s.bar 0 0).members.getLsbD 1 = false) ∧
    (let s := barred two (party1 3 false);
      Ready s [5, 6] ∧ readAll s [5] = s ∧ s.cur.getB 2 = some (party1 3 false) ∧ (s.bar 0 0).members.getLsbD 1 = true ∧ (3#32 - (s.bar 0 0).phase).toInt < 0) ∧
    (let s := barred two (party1 5 false);
      Ready s [5, 6] ∧ readAll s [5] = s ∧ s.cur.getB 2 = some (party1 5 false) ∧ (5#32 - (s.bar 0 0).phase).toInt = 1 ∧ ReleaseCalm s ∧ s.cur.getB 3 = none) ∧
    (let s := barred two (party1 6 false);
      Ready s [5, 6] ∧ readAll s [5] = s ∧ s.cur.getB 2 = some (party1 6 false) ∧ 1 < (6#32 - (s.bar 0 0).phase).toInt) :=
  ⟨⟨ready _ (by decide +kernel) (by decide +kernel), by decide +kernel⟩, ⟨ready _ (by decide +kernel) (by decide +kernel), by decide +kernel⟩,
   ⟨ready _ (by decide +kernel) (by decide +kernel), by decide +kernel, by decide +kernel, by decide +kernel, ⟨by decide +kernel, by decide +kernel, by decide +kernel⟩, by decide +kernel⟩,
   ⟨ready _ (by decide +kernel) (by decide +kernel), by decide +kernel⟩⟩
theorem wit_BarrierWait : (let s := barred { two with closed := [⟨3, 1, false, []⟩] } (party1 4 true);
      Ready s [5, 6] ∧ s.cur.getB 2 = some (party1 4 true) ∧ ((4#32 - 1) - (s.bar 0 0).phase).toInt < 0 ∧ (s.bar 0 0).closed.find? (fun x => decide (x.phase = 4#32 - 1)) = some ⟨3, 1, false, []⟩) ∧
    (let s := barred two (party1 4 false);
      Ready s [5, 6] ∧ s.cur.getB 2 = some (party1 4 false)) ∧
    (let s := barred two (party1 5 true);
      Ready s [5, 6] ∧ s.cur.getB 2 = some (party1 5 true) ∧ 0 ≤ ((5#32 - 1) - (s.bar 0 0).phase).toInt) :=
  ⟨⟨ready _ (by decide +kernel) (by decide +kernel), by decide +kernel⟩, ⟨ready _ (by decide +kernel) (by decide +kernel), by decide +kernel⟩, ready _ (by decide +kernel) (by decide +kernel), by decide +kernel⟩

/-- A lock at the start of the scratchpad with this holder, generation 9 and a guard of 64 bytes; a deadline or a generation in `s5`, a holder in `s6`. -/
def locked (holder : Nat) (b c : Word) : State := (record [holder + 9 * 2 ^ 32, 0xF000000000004000, 64, 0] b).onCur fun t => t.setS 6 c
def lockNum (holder : Nat) : Nat := holder + 9 * 2 ^ 32 + 0xF000000000004000 * 2 ^ 64 + 64 * 2 ^ 128
theorem lockAt {s : State} {va : Word} {v : Nat} (h : (s.lockCheck va).2.toBool = true ∧ isHere (okOf noHit (s.lockCheck va)).loc = true ∧ isHbm (okOf noHit (s.lockCheck va)).loc = false ∧ (okOf noHit (s.lockCheck va)).leaf = none ∧
    (s.lockCheck va).1.peek (okOf noHit (s.lockCheck va)).loc 32 = v ∧ lockOk v = true) : LockAt s va (s.lockCheck va).1 (okOf noHit (s.lockCheck va)) v :=
  ⟨okIs _ h.1, h.2.1, h.2.2.1, h.2.2.2.1, h.2.2.2.2.1, h.2.2.2.2.2⟩
theorem wit_LockAcquire : (let s := locked 0 0 0;
      let x := ((readAll s [4, 5]).enterPoll 2 6 (s.cur.getS 5)).lockCheck (s.cur.getS 4);
      Ready s [4, 5, 6] ∧ s.cur.wait = none ∧ s.cur.replies = [] ∧ s.jtime.toNat + s.cur.dlMax.toNat < 2 ^ 64 ∧ LockAt ((readAll s [4, 5]).enterPoll 2 6 (s.cur.getS 5)) (s.cur.getS 4) x.1 (okOf noHit x) (lockNum 0) ∧ (lockFields (lockNum 0)).1 ≠ x.1.cur.sid ||| 1#32 ∧ (lockFields (lockNum 0)).2.2.2 ≠ 0 ∧ x.1.cur.guards.length < 4 ∧ (lockFields (lockNum 0)).1 = 0) ∧
    (let s := locked 0x801 0 0;
      let x := ((readAll s [4, 5]).enterPoll 2 6 (s.cur.getS 5)).lockCheck (s.cur.getS 4);
      Ready s [4, 5, 6] ∧ s.cur.wait = none ∧ s.cur.replies = [] ∧ s.jtime.toNat + s.cur.dlMax.toNat < 2 ^ 64 ∧ LockAt ((readAll s [4, 5]).enterPoll 2 6 (s.cur.getS 5)) (s.cur.getS 4) x.1 (okOf noHit x) (lockNum 0x801) ∧ (lockFields (lockNum 0x801)).1 ≠ x.1.cur.sid ||| 1#32 ∧ (lockFields (lockNum 0x801)).1 ≠ 0 ∧ (x.1.cur.getS 5).toNat ≤ s.jtime.toNat) ∧
    (let s := locked 0x801 1 0;
      let x := ((readAll s [4, 5]).enterPoll 2 6 (s.cur.getS 5)).lockCheck (s.cur.getS 4);
      Ready s [4, 5, 6] ∧ s.cur.wait = none ∧ s.cur.replies = [] ∧ s.jtime.toNat + s.cur.dlMax.toNat < 2 ^ 64 ∧ LockAt ((readAll s [4, 5]).enterPoll 2 6 (s.cur.getS 5)) (s.cur.getS 4) x.1 (okOf noHit x) (lockNum 0x801) ∧ (lockFields (lockNum 0x801)).1 ≠ 0 ∧ s.jtime.toNat < (x.1.cur.getS 5).toNat) :=
  ⟨⟨ready _ (by decide +kernel) (by decide +kernel), by decide +kernel, by decide +kernel, by decide +kernel, lockAt (by decide +kernel), by decide +kernel⟩, ⟨ready _ (by decide +kernel) (by decide +kernel), by decide +kernel, by decide +kernel, by decide +kernel, lockAt (by decide +kernel), by decide +kernel⟩,
   ready _ (by decide +kernel) (by decide +kernel), by decide +kernel, by decide +kernel, by decide +kernel, lockAt (by decide +kernel), by decide +kernel⟩
theorem pendsNone {s : State} (h : s.cur.pend = [] ∧ s.cur.out = [] ∧ s.mstQueued = false) : PendsAt s [] := by
  constructor <;> simp [h.1, h.2.1, h.2.2]
/-- Two pending stores of 4 bytes, the second tagged with the lock at the start of the scratchpad at a generation. -/
def guarded (g : BitVec 32) : List Pend := [⟨pad + 64, scratchLoc 0 64, 4, 77, none, none⟩, ⟨pad + 68, scratchLoc 0 68, 4, 78, some (scratchLoc 0 0, g), none⟩]
theorem pendsAt {s : State} {g : BitVec 32} {l : List (Pend × Nat × Nat)} (hp : s.cur.pend = guarded g) (ho : s.cur.out = [] ∧ s.mstQueued = false)
    (hl : l.map (·.1) = (guarded g).filter (stillGuarded s)) (hn : ∀ x ∈ l, isNear x.1.va = true ∧ isHere x.2.1 = true ∧ x.2.1 = x.1.loc ∧ x.2.2 = 0) : PendsAt s l where
  all := by rw [hp]; exact hl
  here x hx := (hn x hx).2.1
  near x hx _ := (hn x hx).2.2
  mapped x hx h := by rw [(hn x hx).1] at h; cases h
  locks p hm k g' ht := by
    rw [hp] at hm
    rcases List.mem_cons.mp hm with rfl | hm
    · cases ht
    · cases List.mem_singleton.mp hm
      cases ht
      decide +kernel
  acks := ho.1
  rows := ho.2
/-- A strand that holds a lock of generation 9, with such stores. -/
def lockStores (g : BitVec 32) : State := (locked 1 0 0).onCur fun t => { t with pend := guarded g }
theorem wit_Locks_publish (live : Bool) : let s := lockStores (if live then 9 else 8);
    let x := (readAll s [4]).lockCheck (s.cur.getS 4);
    Ready s [4, 6] ∧ s.cur.replies = [] ∧ LockAt (readAll s [4]) (s.cur.getS 4) x.1 (okOf noHit x) (lockNum 1) ∧ (lockFields (lockNum 1)).1 = x.1.cur.sid ||| 1#32 ∧
    PendsAt x.1 ((if live then guarded 9 else [⟨pad + 64, scratchLoc 0 64, 4, 77, none, none⟩]).map fun p => (p, p.loc, 0)) := by
  cases live
  · exact ⟨ready _ (by decide +kernel) (by decide +kernel), by decide +kernel, lockAt (by decide +kernel), by decide +kernel,
      pendsAt (g := 8) (by decide +kernel) (by decide +kernel) (by decide +kernel) (by decide +kernel)⟩
  · exact ⟨ready _ (by decide +kernel) (by decide +kernel), by decide +kernel, lockAt (by decide +kernel), by decide +kernel,
      pendsAt (g := 9) (by decide +kernel) (by decide +kernel) (by decide +kernel) (by decide +kernel)⟩
theorem wit_LockRelease : (let s := locked 1 0 0;
      let x := (readAll s [4]).lockCheck (s.cur.getS 4);
      Ready s [4, 6] ∧ s.cur.replies = [] ∧ LockAt (readAll s [4]) (s.cur.getS 4) x.1 (okOf noHit x) (lockNum 1) ∧ (lockFields (lockNum 1)).1 = x.1.cur.sid ||| 1#32 ∧ PendsAt x.1 []) ∧
    (let s := locked 0x801 0 0;
      let x := (readAll s [4]).lockCheck (s.cur.getS 4);
      Ready s [4, 6] ∧ s.cur.replies = [] ∧ LockAt (readAll s [4]) (s.cur.getS 4) x.1 (okOf noHit x) (lockNum 0x801) ∧ (lockFields (lockNum 0x801)).1 ≠ x.1.cur.sid ||| 1#32) ∧
    (let s := locked 0x801 9 0x800;
      let x := (readAll s [4, 5, 6]).lockCheck (s.cur.getS 4);
      Ready s [4, 5, 6] ∧ s.cur.replies = [] ∧ LockAt (readAll s [4, 5, 6]) (s.cur.getS 4) x.1 (okOf noHit x) (lockNum 0x801) ∧ (s.cur.getS 5).toNat < 2 ^ 32 ∧ (s.cur.getS 6 ||| 1#64) = (lockFields (lockNum 0x801)).1.setWidth 64 ∧ s.cur.getS 5 = (lockFields (lockNum 0x801)).2.1.setWidth 64) ∧
    (let s := locked 0x801 8 0x800;
      let x := (readAll s [4, 5, 6]).lockCheck (s.cur.getS 4);
      Ready s [4, 5, 6] ∧ s.cur.replies = [] ∧ LockAt (readAll s [4, 5, 6]) (s.cur.getS 4) x.1 (okOf noHit x) (lockNum 0x801) ∧ s.cur.getS 5 ≠ (lockFields (lockNum 0x801)).2.1.setWidth 64) :=
  ⟨⟨ready _ (by decide +kernel) (by decide +kernel), by decide +kernel, lockAt (by decide +kernel), by decide +kernel, pendsNone (by decide +kernel)⟩,
   ⟨ready _ (by decide +kernel) (by decide +kernel), by decide +kernel, lockAt (by decide +kernel), by decide +kernel⟩, ⟨ready _ (by decide +kernel) (by decide +kernel), by decide +kernel, lockAt (by decide +kernel), by decide +kernel⟩,
   ready _ (by decide +kernel) (by decide +kernel), by decide +kernel, lockAt (by decide +kernel), by decide +kernel⟩
/-- A store of 4 bytes pending at the start of the scratchpad. -/
def stored : State := w fun t => { t with pend := [⟨pad, scratchLoc 0 0, 4, 77, none, none⟩] }
/-- What the strand has observed: the release of another strand, and an earlier `pfull` of its scope. -/
def observed : State := { stored with rels := [⟨7, mkSid 0 0 1, false, .cluster, 5⟩, ⟨6, mkSid 0 0 2, false, .cluster, 8⟩], nextRel := 8, nextW := 4, pfulls := [(.cluster, 6)], cur := { stored.cur with obs := [7] } }
theorem pendsStored {s : State} (h : s.cur.pend = [⟨pad, scratchLoc 0 0, 4, 77, none, none⟩] ∧ s.cur.out = [] ∧ s.mstQueued = false) : PendsAt s [(⟨pad, scratchLoc 0 0, 4, 77, none, none⟩, scratchLoc 0 0, 0)] where
  all := by rw [h.1]; rfl
  here := by decide +kernel
  near := by decide +kernel
  mapped x hx hn := by
    cases List.mem_singleton.mp hx
    exact absurd hn (by decide +kernel)
  locks p hp k g ht := by
    rw [h.1] at hp
    cases List.mem_singleton.mp hp
    cases ht
  acks := h.2.1
  rows := h.2.2
theorem wit_Fences : Ready stored [] ∧ PendsAt stored [(⟨pad, scratchLoc 0 0, 4, 77, none, none⟩, scratchLoc 0 0, 0)] ∧ Ready w0 [] ∧ PendsAt w0 [] ∧ ReleaseCalm w0 ∧
    Ready observed [] ∧ PendsAt observed [(⟨pad, scratchLoc 0 0, 4, 77, none, none⟩, scratchLoc 0 0, 0)] ∧ (∃ r ∈ observed.rels, r.id ∈ observed.cur.obs ∧ pairs r (Scope.ofCode (3#3).toNat) observed.cur.sid = true) ∧
    (∃ r ∈ observed.rels, (Scope.ofCode (3#3).toNat, r.id) ∈ observed.pfulls ∧ pairs r (Scope.ofCode (3#3).toNat) observed.cur.sid = true) :=
  ⟨ready _ (by decide +kernel) (by decide +kernel), pendsStored (by decide +kernel), ready_w0 _, pendsNone (by decide +kernel), ⟨by decide +kernel, by decide +kernel, by decide +kernel⟩,
    ready _ (by decide +kernel) (by decide +kernel), pendsStored (by decide +kernel), by decide +kernel, by decide +kernel⟩
/-- A region record and a bound watermark register. -/
def marked0 (len : Nat) : State := (record [0xF000000000005000, len] pad).onCur fun t => (t.setS 4 (pad + 8)).setW 1 (some ⟨pad + 8, pad, 64⟩)
theorem own_marked : OwnAccess (marked0 64) (pad + 8) 8 := own ⟨by decide, by decide +kernel, by decide +kernel, by decide +kernel⟩
theorem wit_Watermarks : (let s := marked0 64;
      let x := (readAll s [4, 5]).recWords (s.cur.getS 5) 2;
      Ready s [4, 5] ∧ (s.cur.getS 4).toNat % 8 = 0 ∧ ReadsRec (readAll s [4, 5]) (s.cur.getS 5) 16 2 (recNum x) x.1 ∧ recNum x % 2 ^ 64 + recNum x / 2 ^ 64 % 2 ^ 64 ≤ 2 ^ 64 ∧ recNum x / 2 ^ 64 % 2 ^ 64 ≠ 0) ∧
    (let s := marked0 0;
      let x := (readAll s [4, 5]).recWords (s.cur.getS 5) 2;
      Ready s [4, 5] ∧ ReadsRec (readAll s [4, 5]) (s.cur.getS 5) 16 2 (recNum x) x.1 ∧ recNum x / 2 ^ 64 % 2 ^ 64 = 0) ∧
    (let s := marked0 64;
      OwnAccess s (s.cur.getS 4) 8 ∧ ReleaseCalm s ∧ s.cur.replies = [] ∧ Ready s [6] ∧ s.cur.getW 1 = some ⟨pad + 8, pad, 64⟩ ∧ OwnAccess s (pad + 8) 8 ∧ s.cur.getW 2 = none) :=
  ⟨⟨ready _ (by decide +kernel) (by decide +kernel), by decide +kernel, recIs (by decide +kernel) (by decide +kernel), by decide +kernel⟩,
   ⟨ready _ (by decide +kernel) (by decide +kernel), recIs (by decide +kernel) (by decide +kernel), by decide +kernel⟩,
   own_marked, ⟨by decide +kernel, by decide +kernel, by decide +kernel⟩, by decide +kernel, ready _ (by decide +kernel) (by decide +kernel), by decide +kernel, own_marked, by decide +kernel⟩
theorem due {s : State} {x : Wait} (h : s.cur.wait = some x ∧ s.cur.away = false ∧ s.jobRuns s.cur = true ∧ s.boundCome x = true ∧ s.closesByPhase x.obj = false ∧ s.nowMet x = false ∧ s.metHeld x = false) : Due s x := ⟨h.1, h.2.1, h.2.2.1, h.2.2.2.1, h.2.2.2.2.1, h.2.2.2.2.2.1, h.2.2.2.2.2.2⟩
/-- The wait of `waiting`. -/
def waitOf (o : WaitObj) (kind : Nat) (e : Option FaultRec) : Wait := ⟨o, kind, 6, some 5, false, 0, e⟩
/-- A fault record with a code, of access kind 2. -/
def coded (c : FaultCode) : FaultRec := plainRec w0 c 0 2 0
/-- A state in which what such a wait asks for does not hold: scratchpad 0 has a watermark at 0 over its first bytes, port 4 and the matrix queue are full, `s9` is empty. -/
def unmet (s : State) : State := (({ s with cur := { s.cur with full := ~~~(1#32 <<< 9), wregs := s.cur.wregs.set 0 (some ⟨pad + 0x100, pad, 64⟩) } } : State).onPort 0 4 fun q => { q with queue := List.replicate 8 (.copy 3) }).onCore 0
  fun c => { c with matrix := { c.matrix with queue := List.replicate 16 ⟨0, 0, .mswap, 0⟩ } }
/-- A wait of the demo strand past its bound, in such a state. -/
def dueState (o : WaitObj) (kind : Nat) (e : Option FaultRec) : State := unmet (waiting o kind (some 5) e)
theorem wit_WaitsExpire : Due (dueState (.port 4) 0 (some (coded .copyFault))) (waitOf (.port 4) 0 (some (coded .copyFault))) ∧
    Due (dueState (.watermark 0 [(pad, 8)]) 0 (some (coded .watermarkExpired))) (waitOf (.watermark 0 [(pad, 8)]) 0 (some (coded .watermarkExpired))) ∧
    Due (dueState (.reg 9) 0 (some (coded .regWaitExpired))) (waitOf (.reg 9) 0 (some (coded .regWaitExpired))) ∧
    Due (dueState .matQueue 0 (some (coded .matrixWaitExpired))) (waitOf .matQueue 0 (some (coded .matrixWaitExpired))) ∧
    Due (dueState (.proxyReply 3) 0 (some (coded .hostProxyExpired))) (waitOf (.proxyReply 3) 0 (some (coded .hostProxyExpired))) ∧
    Due (dueState (.chunks (scratchLoc 0 0) pad 3) 7 none) (waitOf (.chunks (scratchLoc 0 0) pad 3) 7 none) ∧
    Due (dueState (.svc 0) 10 none) (waitOf (.svc 0) 10 none) ∧
    InSlot (waiting (.sleep 5) 9 (some 5) none) ∧ (waiting (.sleep 5) 9 (some 5) none).cur.wait = some (waitOf (.sleep 5) 9 none) ∧ (5#64).toNat ≤ (waiting (.sleep 5) 9 (some 5) none).jtime.toNat :=
  ⟨due (by decide +kernel), due (by decide +kernel), due (by decide +kernel), due (by decide +kernel), due (by decide +kernel), due (by decide +kernel), due (by decide +kernel),
    ⟨by decide +kernel, by decide +kernel⟩, by decide +kernel, by decide +kernel⟩
/-- A ring of 3 slots of 64 bytes at the start of the scratchpad, its lead 1. -/
def ring0 (slots : List SlotSt) : Ring := ⟨0, scratchLoc 0 0, 64, 3, 1, 0, false, 0, slots, [], 1⟩
/-- The ring bound as `g1`. -/
def ringed (slots : List SlotSt) (role : Nat) (claim take : Option Nat) : State := { w fun t => { t with gregs := t.gregs.set 1 (some ⟨scratchLoc 0 0, role, claim, none, take⟩) } with rings := [ring0 slots] }
/-- The wait of `rtake` at a ring whose window slot 0 is free. -/
def ringDue : State := { waiting (.ringTake 1) 3 (some 5) none with rings := [ring0 [.free, .free, .free]], cur := { (waiting (.ringTake 1) 3 (some 5) none).cur with gregs := (ringed [] 3 none none).cur.gregs } }
theorem wit_WaitsExpire_deadlines : Due ((dueState (.lock (scratchLoc 0 0) pad) 2 none).poke 0 (scratchLoc 0 0) [1, 8]) (waitOf (.lock (scratchLoc 0 0) pad) 2 none) ∧
    Due (dueState (.mailbox (scratchLoc 0 0) 1) 4 none) (waitOf (.mailbox (scratchLoc 0 0) 1) 4 none) ∧
    Due (dueState (.queue 0 (workKey 1 63)) 5 none) (waitOf (.queue 0 (workKey 1 63)) 5 none) ∧
    Due (dueState (.timeline (scratchLoc 0 0) pad 6) 6 none) (waitOf (.timeline (scratchLoc 0 0) pad 6) 6 none) ∧
    Due (dueState (.frecv (scratchLoc 0 0) pad) 8 none) (waitOf (.frecv (scratchLoc 0 0) pad) 8 none) ∧
    Due ringDue (waitOf (.ringTake 1) 3 none) ∧ ringDue.cur.getG (BitVec.setWidth 5 (1#2)) = some ⟨scratchLoc 0 0, 3, none, none, none⟩ ∧ ringDue.ring? (scratchLoc 0 0) = some (ring0 [.free, .free, .free]) ∧
    (dueState .matQueue 0 (some (coded .matrixWaitExpired))).rowExpired (dueState .matQueue 0 (some (coded .matrixWaitExpired))).cur false = none :=
  ⟨due (by decide +kernel), due (by decide +kernel), due (by decide +kernel), due (by decide +kernel), due (by decide +kernel), due (by decide +kernel), by decide +kernel, by decide +kernel, by decide +kernel⟩
/-- The same for a proxy queue, which is full. -/
theorem wit_WaitsExpire_queue : let s := { dueState .proxyQueue 0 (some (coded .hostProxyExpired)) with pkg := { w0.pkg with retiredCyan := 0x30 } };
    Due s (waitOf .proxyQueue 0 (some (coded .hostProxyExpired))) := due (by decide +kernel)

theorem inSlot {s : State} (h : s.cur.away = false ∧ s.jobRuns s.cur = true) : InSlot s := ⟨h.1, h.2⟩
/-- The strand in a state of its slot. -/
def run (r : RunSt) (f : Strand → Strand) : State := { w fun t => f { t with run := r } with gtime := 2000000 }
/-- The demo job at a place of the slate wave, and otherwise changed. -/
def slated (st : SlateSt) (f : Job → Job) : State := { w0 with jobs := [f { job0 with slate := { job0.slate with st := st } }], gtime := 2000000 }
/-- One record waiting in the job's task queue. -/
def tasked (s : State) : State := s.setTaskQ 0 1 ⟨[⟨codeVa, [], false, none⟩], false⟩
theorem wit_Preemption : (let s := (run (.parked 0) fun t => { t with pre := some .priority });
      s.cur.away = false ∧ s.cur.pre = some .priority ∧ s.cur.atPoint = true ∧ s.curFrozen = false) ∧
    (let s := slated .frozen id;
      s.cur.away = false ∧ s.curFrozen = true) ∧
    (let s := asked .priority;
      InSlot s ∧ s.cur.pre = some .priority ∧ 65536 ≤ s.cur.preAge ∧ s.cur.wait = none ∧ s.cur.run = .ready) ∧
    (let s := asked .stop;
      s.cur.away = false ∧ s.cur.pre = some .stop ∧ 65536 ≤ s.cur.preAge) ∧
    (let s := tasked (run .ready fun t => { t with tbud := 0, task := true });
      InSlot s ∧ s.cur.tbud = 0 ∧ s.cur.pre = none ∧ s.cur.task = true ∧ 0 < s.myTaskQ.records) ∧
    (let s := run .ready fun t => { t with tbud := 0 };
      InSlot s ∧ s.cur.tbud = 0 ∧ s.cur.pre = none ∧ s.cur.task = false) ∧
    (let s := run (.held 3 0) id;
      InSlot s ∧ s.cur.run = .held 3 0 ∧ s.cur.dlMax.toNat < (s.jtime - 0).toNat) :=
  ⟨by decide +kernel, by decide +kernel, ⟨inSlot (by decide +kernel), by decide +kernel⟩, by decide +kernel, ⟨inSlot (by decide +kernel), by decide +kernel⟩, ⟨inSlot (by decide +kernel), by decide +kernel⟩, inSlot (by decide +kernel), by decide +kernel⟩

theorem boundRing {s : State} {a : BitVec 5} {g : GReg} {r : Ring} (h : s.cur.getG a = some g ∧ s.ring? g.ring = some r ∧ r.base = g.ring) : BoundRing s a g r := ⟨h.1, h.2.1, h.2.2⟩
theorem wit_StageRings : (let s := ringed [.filled, .free, .free] 3 none none;
      let g : GReg := ⟨scratchLoc 0 0, 3, none, none, none⟩;
      let r := ring0 [.filled, .free, .free];
      Ready s [5, 6] ∧ BoundRing s 1 g r ∧ (1#5).toNat < 4 ∧ g.role ≠ 2 ∧ g.role ≠ 1 ∧ g.claim = none ∧ g.take = none ∧ g.voided = none ∧ s.cur.wait = none ∧ r.slotState (r.slotAt r.lead) = .free ∧ r.slotAt r.lead < r.slots.length ∧ r.slotState (r.slotAt 0) = .filled ∧ s.cur.getG 0 = none) ∧
    (let s := ringed [.taken, .claimed, .free] 3 (some 1) (some 0);
      let g : GReg := ⟨scratchLoc 0 0, 3, some 1, none, some 0⟩;
      Ready s [] ∧ BoundRing s 1 g (ring0 [.taken, .claimed, .free]) ∧ g.claim = some 1 ∧ g.take = some 0 ∧ 1 < (ring0 [.taken, .claimed, .free]).slots.length ∧ ReleaseCalm s) :=
  ⟨⟨ready _ (by decide +kernel) (by decide +kernel), boundRing (by decide +kernel), by decide +kernel⟩,
   ready _ (by decide +kernel) (by decide +kernel), boundRing (by decide +kernel), by decide +kernel, by decide +kernel, by decide +kernel, by decide +kernel, by decide +kernel, by decide +kernel⟩
/-- A ring descriptor for 2 slots of 64 bytes, role 3, lead 1, barrier object 0, which is configured. -/
def ringRec : State := (record [0xF000000000004000, 64 + 2 * 2 ^ 32 + 3 * 2 ^ 48 + 2 ^ 56, 0, 0] 0).setBar 0 0 two
theorem wit_StageRings_bind : let x := (readAll ringRec [4]).recWords (ringRec.cur.getS 4) 4;
    Ready ringRec [4] ∧ ReadsRec (readAll ringRec [4]) (ringRec.cur.getS 4) 32 4 (recNum x) x.1 ∧ (match x.1.ringOf (recNum x) with
      | some (r, role) => ((x.1.unbindRing 2).bindRing 2 r role).isSome
      | none => false) = true :=
  ⟨ready _ (by decide +kernel) (by decide +kernel), recIs (by decide +kernel) (by decide +kernel), by decide +kernel⟩
theorem wit_WaitsExpire_ring : let s := { waiting (.ringGet 1) 3 (some 5) none with rings := [ring0 [.filled, .free, .free]], cur := { (waiting (.ringGet 1) 3 (some 5) none).cur with gregs := (ringed [] 3 none none).cur.gregs } };
    Due s (waitOf (.ringGet 1) 3 none) ∧ s.cur.getG (BitVec.setWidth 5 (1#2)) = some ⟨scratchLoc 0 0, 3, none, none, none⟩ ∧ s.ring? (scratchLoc 0 0) = some (ring0 [.filled, .free, .free]) :=
  ⟨due (by decide +kernel), by decide +kernel⟩

/-- The ring with one binding or two, slot 1 claimed and slot 0 taken through `g1`, or a voided claim of slot 1. -/
def bindings (n : Nat) : State := { ringed [.taken, .claimed, .free] 3 (some 1) (some 0) with rings := [{ ring0 [.taken, .claimed, .free] with bindings := n }] }
def voided : State := { w fun t => { t with gregs := t.gregs.set 1 (some ⟨scratchLoc 0 0, 3, none, some 1, none⟩) } with rings := [ring0 [.free, .free, .free]] }
theorem wit_StageRings_unbind (n : Nat) (h : n = 1 ∨ n = 2) : Ready (bindings n) [] ∧ BoundRing (bindings n) 1 ⟨scratchLoc 0 0, 3, some 1, none, some 0⟩ { ring0 [.taken, .claimed, .free] with bindings := n } ∧
    (∀ x ∈ (bindings n).rings, x.base = scratchLoc 0 0 → x = { ring0 [.taken, .claimed, .free] with bindings := n }) ∧ 0 < n ∧ (w0.cur.getG 1 = none ∧ Ready w0 []) := by
  rcases h with rfl | rfl <;> exact ⟨ready _ (by decide +kernel) (by decide +kernel), boundRing (by decide +kernel), by decide +kernel, by decide, by decide +kernel, ready_w0 _⟩
theorem wit_StageRings_calm : (let s := ringed [.filled, .free, .free] 3 none none;
      s.jtime.toNat + s.cur.dlMax.toNat < 2 ^ 64 ∧ s.phaseShut 0 0 = false) ∧
    (ringed [.taken, .claimed, .free] 3 (some 1) (some 0)).phaseShut 0 0 = false ∧
    Ready voided [] ∧ BoundRing voided 1 ⟨scratchLoc 0 0, 3, none, some 1, none⟩ (ring0 [.free, .free, .free]) ∧ voided.phaseShut 0 0 = false ∧
    (let s := ringed [.filled, .free, .free] 1 none none;
      Ready s [5, 6] ∧ s.cur.getG 1 = some ⟨scratchLoc 0 0, 1, none, none, none⟩) ∧
    (let s := ringed [.filled, .free, .free] 2 none none;
      Ready s [5, 6] ∧ s.cur.getG 1 = some ⟨scratchLoc 0 0, 2, none, none, none⟩) ∧
    (let s := ringed [.taken, .claimed, .free] 3 (some 1) (some 0);
      Ready s [5, 6] ∧ s.cur.getG 1 = some ⟨scratchLoc 0 0, 3, some 1, none, some 0⟩) ∧
    (let s := ringed [.free, .free, .free] 3 none none;
      Ready s [] ∧ s.cur.getG 1 = some ⟨scratchLoc 0 0, 3, none, none, none⟩ ∧ (∀ r, s.ring? (scratchLoc 0 0) = some r → s.phaseShut r.cluster r.barrier = false)) :=
  ⟨by decide +kernel, by decide +kernel, ready _ (by decide +kernel) (by decide +kernel), boundRing (by decide +kernel), by decide +kernel, ⟨ready _ (by decide +kernel) (by decide +kernel), by decide +kernel⟩,
   ⟨ready _ (by decide +kernel) (by decide +kernel), by decide +kernel⟩, ⟨ready _ (by decide +kernel) (by decide +kernel), by decide +kernel⟩, ready _ (by decide +kernel) (by decide +kernel), by decide +kernel, by
    intro r hr
    rw [show (ringed [.free, .free, .free] 3 none none).ring? (scratchLoc 0 0) = some (ring0 [.free, .free, .free]) from by decide +kernel] at hr
    cases hr; decide +kernel⟩

/-- A tile descriptor: 16 rows of 32 `i8`, 64 bytes apart, at offset 0x4000 of the scratchpad, for scope core. -/
def tileRec : List Nat := [0xF000000000004000, 0 + 256 * 1, 16 + 32 * 2 ^ 32, 0, 64, 0]
/-- The tile. -/
def tile0 : TileDesc := ⟨0xF000000000004000, .i8, .core, [16, 32], [64]⟩
theorem wit_TileHandles_new : let s := record tileRec 0;
    let x := (readAll s [4]).recWords (s.cur.getS 4) 6;
    Ready s [4] ∧ s.cur.getH 1 = none ∧ ReadsRec (readAll s [4]) (s.cur.getS 4) 16 6 (recNum x) x.1 ∧ tileOf (recNum x) = some tile0 ∧
    (let y := x.1.placeRuns tile0.runs;
      y = (y.1, .ok (okOf [] y)) ∧ (okOf [] y).any y.1.runTaken = false ∧ y.1.freeEntry y.1.curCluster = some 0 ∧ y.1.cur.pend = [] ∧ y.1.cur.out = [] ∧ y.1.cur.pre = none) :=
  ⟨ready _ (by decide +kernel) (by decide +kernel), by decide +kernel, recIs (by decide +kernel) (by decide +kernel), by decide +kernel, okIs _ (by decide +kernel), by decide +kernel⟩
def root0 : LinEntry := ⟨true, .root, some tile0, [], 0, w0.cur.sid, 1, 1, 1⟩
def split0 : LinEntry := ⟨true, .split 0 0 0 4, none, [], 1, w0.cur.sid, 1, 2, 2⟩
/-- The strand with handles in `h1` and `h2`, a number in `s6`, and the lineage of a root and, where asked, one split of it. -/
def handled (h1 h2 : Option (BitVec 32)) (c : Word) (more : Bool) : State :=
  let s := (w fun t => { t with hregs := (t.hregs.set 1 h1).set 2 h2 }).onCur fun t => t.setS 6 c
  if more then (s.setLin 0 0 root0).setLin 0 1 split0 else s.setLin 0 0 root0
theorem wit_TileHandles_split : let s := handled (some (mkHandle 0 0 1 0)) none 4 false;
    let h := mkHandle 0 0 1 0;
    Ready s [6] ∧ LiveIn s 1 h ∧ MayTake s [1] 1 ∧ MayTake s [1] 3 ∧ (1#5).setWidth 4 ≠ (3#5).setWidth 4 ∧ (∃ x, s.handleRange (sidDie s.cur.sid) h = some x ∧ 0 < x.ranges.length ∧ 4 < (x.ranges.getD 0 (0, 0)).2 - (x.ranges.getD 0 (0, 0)).1) ∧
    (s.cur.getS 6).toNat = 0 * 2 ^ 62 + 4 ∧ (s.lin (s.hTable h) (hEntry h)).depth < 6 ∧ s.freeEntry (s.hTable h) = some 1 :=
  ⟨ready _ (by decide +kernel) (by decide +kernel), ⟨by decide +kernel, by decide +kernel⟩, Or.inr ⟨1, by simp, rfl⟩, Or.inl (by decide +kernel), by decide, ⟨_, rfl, by decide +kernel, by decide +kernel⟩, by decide +kernel⟩
theorem wit_TileHandles_join : let s := handled (some (mkHandle 0 1 2 0)) (some (mkHandle 0 1 2 1)) 0 true;
    let h := mkHandle 0 1 2 0;
    let k := mkHandle 0 1 2 1;
    Ready s [] ∧ LiveIn s 1 h ∧ LiveIn s 2 k ∧ MayTake s [1, 2] 3 ∧ (1#5).setWidth 4 ≠ (2#5).setWidth 4 ∧ hCluster h = hCluster k ∧ hEntry h = hEntry k ∧ hHalf h ≠ hHalf k ∧ (s.lin (s.hTable h) (hEntry h)).origin = .split 0 0 0 4 ∧ s.halfBusy (s.hTable h) 0 0 = false ∧
    (s.lin (s.hTable h) (hEntry h)).depth ≠ 0 :=
  ⟨ready _ (by decide +kernel) (by decide +kernel), ⟨by decide +kernel, by decide +kernel⟩, ⟨by decide +kernel, by decide +kernel⟩, Or.inl (by decide +kernel), by decide, by decide +kernel⟩
theorem wit_TileHandles_reclaim : let h := mkHandle 0 1 2 1;
    let s := handled (some (mkHandle 0 1 2 0)) none (h.setWidth 64) true;
    Ready s [6] ∧ s.cur.getH 3 = none ∧ (s.cur.getS 6).setWidth 32 = h ∧ s.holdsHalf (hCluster h) (hEntry h) (1 - hHalf h) = true ∧ s.holdsHalf (hCluster h) (hEntry h) (hHalf h) = false ∧ (s.lin (s.hTable h) (hEntry h)).origin ≠ .root ∧
    hGen h = (s.lin (s.hTable h) (hEntry h)).gen (hHalf h) ∧ s.halfBusy (s.hTable h) (hEntry h) (hHalf h) = false :=
  ⟨ready _ (by decide +kernel) (by decide +kernel), by decide +kernel⟩
theorem wit_TileHandles_root : let s := handled (some (mkHandle 0 0 1 0)) none 0 false;
    let h := mkHandle 0 0 1 0;
    Ready s [] ∧ Ready s [6] ∧ LiveIn s 1 h ∧ (s.lin (s.hTable h) (hEntry h)).depth = 0 ∧ s.halfBusy (s.hTable h) (hEntry h) 0 = false ∧ (∃ x, s.handleRange (sidDie s.cur.sid) h = some x) ∧ s.cur.getH 2 = none :=
  ⟨ready _ (by decide +kernel) (by decide +kernel), ready _ (by decide +kernel) (by decide +kernel), ⟨by decide +kernel, by decide +kernel⟩, by decide +kernel, by decide +kernel, ⟨_, rfl⟩, by decide +kernel⟩
/-- A mailbox of words at the start of the scratchpad, its address in `s4` and `s6`, a deadline in `s5`, beside a live root handle. -/
def mailed (ws : List Nat) (b : Word) : State := { handled (some (mkHandle 0 0 1 0)) none pad false with
  cur := regs pad b pad 0 (handled (some (mkHandle 0 0 1 0)) none pad false).cur }.poke 0 (scratchLoc 0 0) (ws.flatMap (bytesOfNat 8))
theorem mailAt {s : State} {va : Word} (h : va.toNat % 64 = 0 ∧ isNear va = true ∧ (s.place s.cur va 64 (needOf .load) false).2.toBool = true ∧
    (s.place s.cur va 64 (needOf .load) false).1.sableAny (okOf noHit (s.place s.cur va 64 (needOf .load) false)).loc 64 = false ∧
    isHbm (okOf noHit (s.place s.cur va 64 (needOf .load) false)).loc = false ∧ (s.place s.cur va 64 (needOf .load) false).1.cur.pre = none) :
    MailAt s va (s.place s.cur va 64 (needOf .load) false).1 (okOf noHit (s.place s.cur va 64 (needOf .load) false)) :=
  ⟨h.1, h.2.1, okIs _ h.2.2.1, h.2.2.2.1, h.2.2.2.2.1, h.2.2.2.2.2⟩
theorem wit_HandleMail_send : let s := mailed [2 ^ 32, 0] 0;
    let x := (readAll s [6]).place (readAll s [6]).cur pad 64 (needOf .load) false;
    Ready s [6] ∧ LiveIn s 1 (mkHandle 0 0 1 0) ∧ s.cur.getS 6 = pad ∧ MailAt (readAll s [6]) pad x.1 (okOf noHit x) ∧
    lowest 8 (fun k => !slotFull (x.1.hslot (okOf noHit x).loc k) && (!slotExpect (x.1.hslot (okOf noHit x).loc k) || decide (slotSid (x.1.hslot (okOf noHit x).loc k) = s.cur.sid))) = some 1 ∧
    (∃ y, x.1.handleRange (sidDie s.cur.sid) (mkHandle 0 0 1 0) = some y ∧ y.tile.scope ≠ .strand) ∧ isHere (okOf noHit x).loc = true :=
  ⟨ready _ (by decide +kernel) (by decide +kernel), ⟨by decide +kernel, by decide +kernel⟩, by decide +kernel, mailAt (by decide +kernel), by decide +kernel, ⟨_, rfl, by decide +kernel⟩, by decide +kernel⟩
theorem wit_HandleMail_receive : (let s := mailed [0, (mkHandle 0 0 1 0).toNat + 2 ^ 32] 0;
      let x := (readAll s [4, 5]).place (readAll s [4, 5]).cur pad 64 (needOf .load) false;
      Ready s [4, 5] ∧ s.cur.getH 2 = none ∧ s.cur.getS 4 = pad ∧ MailAt (readAll s [4, 5]) pad x.1 (okOf noHit x) ∧ isHere (okOf noHit x).loc = true ∧ lowest 8 (fun k => x.1.slotEligible (x.1.hslot (okOf noHit x).loc k)) = some 1 ∧
      x.1.handleLive (sidDie x.1.cur.sid) (slotHandle (x.1.hslot (okOf noHit x).loc 1)) = true ∧ x.1.halfBusy 0 0 0 = false) ∧
    (let s := mailed [0, 0] 1;
      let x := (readAll s [4, 5]).place (readAll s [4, 5]).cur pad 64 (needOf .load) false;
      Ready s [4, 5] ∧ s.cur.getH 2 = none ∧ MailAt (readAll s [4, 5]) pad x.1 (okOf noHit x) ∧ x.1.cur.wait = none ∧ lowest 8 (fun k => x.1.slotEligible (x.1.hslot (okOf noHit x).loc k)) = none ∧ x.1.jtime.toNat < (s.cur.getS 5).toNat) :=
  ⟨⟨ready _ (by decide +kernel) (by decide +kernel), by decide +kernel, by decide +kernel, mailAt (by decide +kernel), by decide +kernel⟩,
   ready _ (by decide +kernel) (by decide +kernel), by decide +kernel, mailAt (by decide +kernel), by decide +kernel⟩
theorem wit_TileHandles_info : (let s := handled (some (mkHandle 0 0 1 0)) none 0 false;
      Ready s [6] ∧ s.cur.getH 1 = some (mkHandle 0 0 1 0) ∧ (s.lin 0 0).used = true ∧ (s.lin 0 0).depth ≤ 6 ∧ (s.lin 0 0).origin = .root) ∧
    (let s := handled (some (mkHandle 0 1 2 0)) none 0 true;
      Ready s [6] ∧ s.cur.getH 1 = some (mkHandle 0 1 2 0) ∧ (s.lin 0 1).used = true ∧ (s.lin 0 1).depth ≤ 6 ∧ (s.lin 0 1).origin = .split 0 0 0 4) :=
  ⟨⟨ready _ (by decide +kernel) (by decide +kernel), by decide +kernel⟩, ready _ (by decide +kernel) (by decide +kernel), by decide +kernel⟩
theorem wit_HandleMail_wrap : (let s := mailed [0, (mkHandle 0 0 1 0).toNat + 2 ^ 32] 0;
      let x := (readAll s [4, 5]).place (readAll s [4, 5]).cur pad 64 (needOf .load) false;
      x.1.cur.wait = none ∧ x.1.jtime.toNat + x.1.cur.dlMax.toNat < 2 ^ 64) ∧
    (let s := mailed [0, 0] 1;
      let x := (readAll s [4, 5]).place (readAll s [4, 5]).cur pad 64 (needOf .load) false;
      isHere (okOf noHit x).loc = true ∧ x.1.jtime.toNat + x.1.cur.dlMax.toNat < 2 ^ 64) := by decide +kernel
/-- A task record whose join counter holds a number. -/
def joined (n : Nat) : State := record [0, 0, n] 0
theorem wit_Tasks : (let s := w (regs codeVa 0 0 0);
      Ready s [4] ∧ (s.cur.getS 4).toNat % 64 = 0 ∧ s.myTaskQ.lost = false ∧ s.myTaskQ.records < 65536 ∧ ReleaseCalm s ∧ s.job? s.cur.job = some job0) ∧
    (let s := (w (regs codeVa 0 0 0)).setTaskQ 0 1 ⟨[], true⟩;
      Ready s [4] ∧ (s.cur.getS 4).toNat % 64 = 0 ∧ s.myTaskQ.lost = true) ∧
    (Ready (handled (some (mkHandle 0 0 1 0)) none 0 false) [] ∧ (∀ r, (handled (some (mkHandle 0 0 1 0)) none 0 false).cur.isFull r = true) ∧ (handled (some (mkHandle 0 0 1 0)) none 0 false).endBlocked = true) ∧
    (Ready w0 [] ∧ (∀ r, w0.cur.isFull r = true) ∧ w0.endBlocked = false ∧ ReleaseCalm w0 ∧ job0.stopReq = none) :=
  ⟨⟨ready _ (by decide +kernel) (by decide +kernel), by decide +kernel, by decide +kernel, by decide +kernel, ⟨by decide +kernel, by decide +kernel, by decide +kernel⟩, by decide +kernel⟩,
   ⟨ready _ (by decide +kernel) (by decide +kernel), by decide +kernel⟩, ⟨ready _ (by decide +kernel) (by decide +kernel), by decide +kernel, by decide +kernel⟩,
   ready_w0 _, by decide +kernel, by decide +kernel, ⟨by decide +kernel, by decide +kernel, by decide +kernel⟩, by decide +kernel⟩
theorem nearHit {u : State} {h : Hit} (e : isHere h.loc = true ∧ isHbm h.loc = false ∧ h.key = 0 ∧ u.cur.pre = none) : NearHit u h := ⟨e.1, e.2.1, e.2.2.1, e.2.2.2⟩
theorem wit_Tasks_join (n : Nat) (hn : n = 0 ∨ n = 1 ∨ n = 2) : let s := joined n;
    let x := (readAll s [4]).atomCheck (s.cur.getS 4 + 16) 8 .atomic;
    Ready s [4] ∧ (s.cur.getS 4).toNat % 64 = 0 ∧ x = (x.1, .ok (okOf noHit x)) ∧ NearHit x.1 (okOf noHit x) ∧ ReleaseCalm x.1 ∧ x.1.peek (okOf noHit x).loc 8 = n ∧ x.1.spawnOk = none := by
  rcases hn with rfl | rfl | rfl <;>
    exact ⟨ready _ (by decide +kernel) (by decide +kernel), by decide +kernel, okIs _ (by decide +kernel), nearHit (by decide +kernel), ⟨by decide +kernel, by decide +kernel, by decide +kernel⟩, by decide +kernel, by decide +kernel⟩
theorem wit_Tasks_calm : (∀ n, (joined n).cur.replies = []) ∧ w0.mrdQueued = false ∧ (w (regs codeVa 0 0 0)).job? (w (regs codeVa 0 0 0)).cur.job = some job0 :=
  ⟨fun _ => rfl, by decide +kernel, by decide +kernel⟩
/-- Queue 63 of cluster 0, with items. -/
def queue63 (l : List QItem) (b : Word) : State := (w (regs 63 b 0 0)).setWorkQ 0 (workKey 1 63) ⟨l, false⟩
theorem wit_Tasks_queues : (let s := queue63 [] 7;
      Ready s [4, 5] ∧ s.workQOf (s.cur.getS 4) = some (0, workKey 1 63) ∧ (s.workQ 0 (workKey 1 63)).lost = false ∧ (s.workQ 0 (workKey 1 63)).items.length < 65536 ∧ ReleaseCalm s) ∧
    (let s := queue63 [⟨7, 0⟩] 0;
      Ready s [4, 5, 6] ∧ s.workQOf (s.cur.getS 4) = some (0, workKey 1 63) ∧ (s.workQ 0 (workKey 1 63)).lost = false ∧ (s.workQ 0 (workKey 1 63)).items = ⟨7, 0⟩ :: []) ∧
    (let s := queue63 [] 7;
      Ready s [4, 5, 6] ∧ s.cur.wait = none ∧ (s.workQ 0 (workKey 1 63)).items = [] ∧ s.jtime.toNat < (s.cur.getS 5).toNat) :=
  ⟨⟨ready _ (by decide +kernel) (by decide +kernel), by decide +kernel, by decide +kernel, by decide +kernel, ⟨by decide +kernel, by decide +kernel, by decide +kernel⟩⟩,
   ⟨ready _ (by decide +kernel) (by decide +kernel), by decide +kernel⟩, ready _ (by decide +kernel) (by decide +kernel), by decide +kernel⟩
theorem wit_Tasks_queues_wait (l : List QItem) (h : l = [⟨7, 0⟩] ∨ l = []) : let s := queue63 l 7;
    s.cur.wait = none ∧ s.jtime.toNat + s.cur.dlMax.toNat < 2 ^ 64 ∧ s.workQOf (s.cur.getS 4) = some (0, workKey 1 63) ∧ (s.workQ 0 (workKey 1 63)).lost = false := by
  rcases h with rfl | rfl <;> decide +kernel
theorem wit_FabricMail_wrap : let s := record [0, 0, 0, 0, 0, 0, 0, 0] 1;
    let x := (readAll s [4, 5]).boxCheck (s.cur.getS 4) { needOf .atomic with localOnly := true };
    x.1.jtime.toNat + x.1.cur.dlMax.toNat < 2 ^ 64 ∧ x.1.cur.replies = [] := by decide +kernel
theorem wit_FabricMail_send : (let s := record [0, 2 ^ 32, 0, 0, 0, 0, 0, 0] 77;
      let x := (readAll s [4, 5]).boxCheck (s.cur.getS 4) { needOf .atomic with noHost := true };
      Ready s [4, 5, 6] ∧ s.cur.replies = [] ∧ x = (x.1, .ok (okOf noHit x)) ∧ NearHit x.1 (okOf noHit x) ∧ ReleaseCalm x.1 ∧
      lowest 4 (fun k => slotTakes (BitVec.ofNat 64 (x.1.peek ((okOf noHit x).loc + 16 * k + 8) 8)) (sidPkg x.1.cur.sid)) = some 1) ∧
    (let s := record [0, 2 ^ 32, 0, 2 ^ 32, 0, 2 ^ 32, 0, 2 ^ 32] 77;
      let x := (readAll s [4, 5]).boxCheck (s.cur.getS 4) { needOf .atomic with noHost := true };
      Ready s [4, 5, 6] ∧ x = (x.1, .ok (okOf noHit x)) ∧ NearHit x.1 (okOf noHit x) ∧ ReleaseCalm x.1 ∧
      lowest 4 (fun k => slotTakes (BitVec.ofNat 64 (x.1.peek ((okOf noHit x).loc + 16 * k + 8) 8)) (sidPkg x.1.cur.sid)) = none) :=
  ⟨⟨ready _ (by decide +kernel) (by decide +kernel), by decide +kernel, okIs _ (by decide +kernel), nearHit (by decide +kernel), ⟨by decide +kernel, by decide +kernel, by decide +kernel⟩, by decide +kernel⟩,
   ready _ (by decide +kernel) (by decide +kernel), okIs _ (by decide +kernel), nearHit (by decide +kernel), ⟨by decide +kernel, by decide +kernel, by decide +kernel⟩, by decide +kernel⟩
theorem wit_FabricMail_receive : (let s := record [9, 0, 8, 2 ^ 32, 0, 0, 0, 0] 0;
      let x := (readAll s [4, 5]).boxCheck (s.cur.getS 4) { needOf .atomic with localOnly := true };
      Ready s [4, 5, 6] ∧ x = (x.1, .ok (okOf noHit x)) ∧ NearHit x.1 (okOf noHit x) ∧ x.1.cur.wait = none ∧ lowest 4 (fun k => slotFull (x.1.fctl (okOf noHit x).loc k)) = some 1) ∧
    (let s := record [0, 0, 0, 0, 0, 0, 0, 0] 1;
      let x := (readAll s [4, 5]).boxCheck (s.cur.getS 4) { needOf .atomic with localOnly := true };
      Ready s [4, 5, 6] ∧ x = (x.1, .ok (okOf noHit x)) ∧ NearHit x.1 (okOf noHit x) ∧ x.1.cur.wait = none ∧ lowest 4 (fun k => slotFull (x.1.fctl (okOf noHit x).loc k)) = none ∧ x.1.jtime.toNat < (x.1.cur.getS 5).toNat) :=
  ⟨⟨ready _ (by decide +kernel) (by decide +kernel), okIs _ (by decide +kernel), nearHit (by decide +kernel), by decide +kernel⟩,
   ready _ (by decide +kernel) (by decide +kernel), okIs _ (by decide +kernel), nearHit (by decide +kernel), by decide +kernel⟩
/-- Peer 5 with one path of a round trip of 300. -/
def pathed (b : Word) : State := (w (regs 5 b 0 0)).setPeer 5 { Peer.zero with hasTable := true, paths := [⟨1, 300, 2, [], 0, false, false, true⟩] }
theorem wit_FabricMail_paths : (let s := pathed 0;
      Ready s [4, 5, 6] ∧ peerKey (s.cur.getS 4) = some 5 ∧ (s.cur.getS 5).toNat < 16 ∧ (s.peer 5).hasTable = true ∧ (s.peer 5).paths[(s.cur.getS 5).toNat]? = some ⟨1, 300, 2, [], 0, false, false, true⟩ ∧ 5 < 2 ^ 20 ∧
      (((s.peer 5).paths.filter fun e => e.valid && !e.down s.gtime).map fun e => e.rtt.toNat).min? = some 300) ∧
    (let s := w (regs 5 15 0 0);
      Ready s [4, 5, 6] ∧ peerKey (s.cur.getS 4) = some 5 ∧ (s.cur.getS 5).toNat < 16 ∧ (s.peer 5).hasTable = false) ∧
    (let s := w (regs 5 16 0 0);
      Ready s [4, 5, 6] ∧ 16 ≤ (s.cur.getS 5).toNat) ∧
    (let s := w (regs 0x1000 0 0 0);
      Ready s [4, 6] ∧ peerKey (s.cur.getS 4) = none) :=
  ⟨⟨ready _ (by decide +kernel) (by decide +kernel), by decide +kernel⟩, ⟨ready _ (by decide +kernel) (by decide +kernel), by decide +kernel⟩, ⟨ready _ (by decide +kernel) (by decide +kernel), by decide +kernel⟩,
   ready _ (by decide +kernel) (by decide +kernel), by decide +kernel⟩

/-- A second job of higher priority that waits, for core 1. -/
def job2 : Job := { demoJob State.reset with id := 2, seq := 2, eff := 9, waitSince := some 0, cores := [], places := [⟨1, [0], [0]⟩], bindable := [1], state := .accepted, jrun := false, rec_ := { demoLaunch with job := 2, base := 9, cap := 31 } }
/-- The package with it, core 1 as given. -/
def queuedJob (k : Lease) : State := { w0.onCore 1 fun c => { c with lease := k } with jobs := [job0, job2], gtime := 3000000 }
theorem binds {s : State} {core : Nat} {job : BitVec 32} {j : Job} (h : s.job? job = some j ∧ s.cobaltUp = true ∧ j.mayBind = true ∧ s.coreActive core = true ∧ (s.wants j).contains core = true ∧
    (∀ x ∈ s.jobs, x.id ≠ job → x.servedBefore j s.gtime = true → s.awaits x core = false) ∧ (s.core core).lease.job ≠ some job) : Binds s core job j :=
  ⟨h.1, h.2.1, h.2.2.1, h.2.2.2.1, h.2.2.2.2.1, h.2.2.2.2.2.1, h.2.2.2.2.2.2⟩
theorem idleSlot {s : State} {core slot : Nat} {j : Job} (h : (s.core core).lease.job = some j.id ∧ s.job? j.id = some j ∧ s.serves core j = true ∧ s.strand? (mkSid s.pkgNo core slot) = none ∧ slot < 4) : IdleSlot s core slot j :=
  ⟨h.1, h.2.1, h.2.2.1, h.2.2.2.1, h.2.2.2.2⟩
/-- Slot 3 of core 0 idle, with a saved task of it in the queue. -/
def savedTask : State := ({ w0 with rest := [{ w0.cur with uid := 50, sid := mkSid 0 0 3, away := true, task := true }] } : State).setTaskQ 0 1 ⟨[⟨codeVa, [], false, some 50⟩], false⟩
theorem wit_Scheduling : State.reset.cur.job = 0 ∧ Binds (queuedJob ⟨none, none, 5, false⟩) 1 2 job2 ∧ ((queuedJob ⟨none, none, 5, false⟩).core 1).lease.job = none ∧ ((queuedJob ⟨none, none, 5, false⟩).core 1).lease.key = job2.rec_.key ∧ (queuedJob ⟨none, none, 5, false⟩).fqOk job2 = true ∧
    Binds (queuedJob ⟨some 7, none, 5, false⟩) 1 2 { job2 with places := [⟨1, [0], [0]⟩] } ∧ ((queuedJob ⟨some 7, none, 5, false⟩).core 1).lease.job = some 7 ∧ Binds { queuedJob ⟨some 1, none, 5, false⟩ with cur := { w0.cur with sid := mkSid 0 1 0 } } 1 2 job2 ∧
    ({ queuedJob ⟨some 1, none, 5, false⟩ with cur := { w0.cur with sid := mkSid 0 1 0 } } : State).coreEnded 1 1 = false ∧
    IdleSlot (tasked w0) 0 3 job0 ∧ (tasked w0).nextItem ((tasked w0).taskQ 0 1) (mkSid 0 0 3) = some ⟨codeVa, [], false, none⟩ ∧
    IdleSlot savedTask 0 3 job0 ∧ savedTask.nextItem (savedTask.taskQ 0 1) (mkSid 0 0 3) = some ⟨codeVa, [], false, some 50⟩ ∧ (savedTask.byUid? 50).isSome = true ∧ savedTask.cur.uid ≠ 50 ∧
    (queuedJob ⟨none, none, 5, false⟩).job? 2 = some job2 ∧ job2.waiting = true ∧ job2.waitSince = some 0 ∧ w0.coreFree 1 = true ∧ w0.cobaltUp = true ∧ w0.coreFree 0 = false :=
  ⟨by decide +kernel, binds (by decide +kernel), by decide +kernel, by decide +kernel, by decide +kernel, binds (by decide +kernel), by decide +kernel, binds (by decide +kernel), by decide +kernel,
    idleSlot (by decide +kernel), by decide +kernel, idleSlot (by decide +kernel), by decide +kernel⟩
/-- The demo job changed, alone in the package, with its strand or without. -/
def lone (f : Job → Job) : State := { w0 with jobs := [f job0], cur := Strand.idle, gtime := 9 }
theorem wit_GangsAndEnds : (let s := lone fun j => { j with gang := .requested };
      s.job? 1 = some { job0 with gang := .requested } ∧ s.gangQuiet { job0 with gang := .requested } = true) ∧
    (let s := { w0 with jobs := [job0, { job2 with places := [⟨0, [0], [0]⟩], bindable := [0] }] };
      s.job? 1 = some job0 ∧ job0.gang = .none ∧ s.cobaltUp = true ∧ s.isVictim job0 = true ∧ (∃ x ∈ s.jobs, x.waiting = true ∧ job0.eff < x.eff ∧ s.fitsFree x = false)) ∧
    (let s := { lone fun j => { j with multi := true } with pkg := { w0.pkg with ctlIn := [.gang 1] } };
      s.pkg.ctlIn.contains (.gang 1) = true ∧ s.job? 1 = some { job0 with multi := true }) ∧
    (w0.job? 1 = some job0 ∧ job0.slate.st = .running ∧ job0.cores ≠ []) ∧
    (let k := { job0 with gang := .saved [⟨0, Matrix.scrubbed, [], [], [], []⟩] ⟨[], [], []⟩ };
      let s := ({ w0 with jobs := [k] } : State).onCore 0 fun c => { c with lease := ⟨none, none, 5, false⟩ };
      s.job? 1 = some k ∧ s.cobaltUp = true ∧ k.stopReq = none ∧ k.slate.st = .running ∧ (∀ x ∈ s.jobs, x.id ≠ 1 → x.servedBefore k s.gtime = false) ∧ s.coreFree 0 = true ∧ (s.core 0).lease.key = k.rec_.key) ∧
    (let s := lone fun j => { j with gang := .resuming 9 };
      s.job? 1 = some { job0 with gang := .resuming 9 } ∧ (9#64).toNat ≤ s.gtime.toNat) ∧
    (let s := lone id;
      s.job? 1 = some job0 ∧ job0.state = .started ∧ s.allEnded job0 = true) :=
  ⟨by decide +kernel, ⟨by decide +kernel, by decide +kernel, by decide +kernel, by decide +kernel, { job2 with places := [⟨0, [0], [0]⟩], bindable := [0] }, by simp, by decide +kernel⟩, by decide +kernel, by decide +kernel, by decide +kernel, by decide +kernel, by decide +kernel⟩
/-- A ready device with this command in its first slot. -/
def commanded (ws : List Nat) : State := ({ State.reset with pkg := { Pkg.reset with bar := { Bar0.reset with state := 4 } } } : State).poke 0 (State.reset.winPa 0) (ws.flatMap (bytesOfNat 8))
/-- A command taken and accepted, in the package with the demo job. -/
def commandOf (kind : Nat) (ws : List Nat) (busy : Bool) : Cmd := ⟨1, kind, 0, natOfBytes (ws.flatMap (bytesOfNat 8)), 0, busy⟩
def withCmd (s : State) (c : Cmd) : State := { s with pkg := { s.pkg with cmds := [c] } }
theorem wit_Commands : (let s := commanded [9 + 2 ^ 32];
      s.pkg.bar.state = 4 ∧ s.cyanUp 0 = true ∧ recField (nextSlot s) 0 8 ≠ 0 ∧ recField (nextSlot s) 4 4 = (s.pkg.lastCmd + 1) % 2 ^ 32 ∧ s.entryFree (s.pkg.lastCmd + 1) = true ∧ reasonOf s (nextSlot s) ≠ 0) ∧
    (let s := commanded [5 + 2 ^ 32, 0, 0, 0, 0, 0, 0, 0, 5];
      s.pkg.bar.state = 4 ∧ s.cyanUp 0 = true ∧ recField (nextSlot s) 0 8 ≠ 0 ∧ recField (nextSlot s) 4 4 = (s.pkg.lastCmd + 1) % 2 ^ 32 ∧ s.entryFree (s.pkg.lastCmd + 1) = true) ∧
    State.reset.pkg.bar.state ≠ 4 ∧ (withCmd w0 (commandOf 1 [2] false)).cmd? 1 1 = some (commandOf 1 [2] false) ∧ (withCmd w0 (commandOf 1 [2] false)).cobaltUp = true ∧ (withCmd w0 (commandOf 3 [1] false)).cmd? 1 3 = some (commandOf 3 [1] false) := by
  decide +kernel
theorem wit_Shootdowns : (withCmd w0 (commandOf 2 [1, 0x100000, 0, 0] false)).cmd? 1 2 = some (commandOf 2 [1, 0x100000, 0, 0] false) ∧ recField (commandOf 2 [1, 0x100000, 0, 0] false).payload 0 1 = 1 ∧
    recField (commandOf 2 [2, 0x100000] false).payload 0 1 = 2 ∧ (withCmd w0 (commandOf 2 [2, 0x100000] false)).cmd? 1 2 = some (commandOf 2 [2, 0x100000] false) ∧
    (withCmd w0 (commandOf 2 [2, 0x100000] true)).cmd? 1 2 = some (commandOf 2 [2, 0x100000] true) ∧ (commandOf 2 [2, 0x100000] true).busy = true ∧
    (withCmd w0 (commandOf 2 [2, 0x100000] true)).underWay ((withCmd w0 (commandOf 2 [2, 0x100000] true)).rootJobs (recField (commandOf 2 [2, 0x100000] true).payload 8 8)) = false ∧
    (let s := withCmd (copying { copy0 .running with out := [(0, 1)] } Port.free) (commandOf 2 [2, 0x100000] true);
      s.cmd? 1 2 = some (commandOf 2 [2, 0x100000] true) ∧ s.underWay (s.rootJobs (recField (commandOf 2 [2, 0x100000] true).payload 8 8)) = true) ∧
    (withCmd w0 (commandOf 5 [5] false)).cmd? 1 5 = some (commandOf 5 [5] false) := by decide +kernel
def cause0 : Cause := ⟨0, 0, codeVa, 3, 0⟩
theorem debugs {s : State} {seq op : Nat} {c : Cmd} {j : Job} (h : s.debugCmd? seq op = some c ∧ s.job? (cmdJob 4 c.payload) = some j) : Debugs s seq op c j := ⟨h.1, h.2⟩
/-- A debugger command for the demo job: op, strand and address. -/
def debugOf (op : Nat) : Cmd := commandOf 4 [1 + op * 2 ^ 32, 0, 0x3000] false
/-- The job frozen since the start, with its own report in. -/
def frozen0 (final : Bool) : State := slated .frozen fun j => { j with slate := { j.slate with final := final, reports := [(0, 5)], first := some cause0, frozenAt := 0 } }
def frozenJob (final : Bool) : Job := { job0 with slate := { job0.slate with st := .frozen, final := final, reports := [(0, 5)], first := some cause0, frozenAt := 0 } }
/-- Every address of the host may be reached by the device. -/
def dmaOpen (s : State) : State := { s with pkg := { s.pkg with bar := { s.pkg.bar with dmawin := [(0, 1), (1, 0xFFFFFFFF)] } } }
theorem wit_SlateWave : (let s := slated .running fun j => { j with slate := { j.slate with wave := some cause0 } };
      s.job? 1 = some { job0 with slate := { job0.slate with wave := some cause0 } } ∧ w0.job? 1 = some job0 ∧ job0.slate.st = .running) ∧
    (({ w0 with pkg := { w0.pkg with ctlIn := [.frozen 0 1 5 cause0] } } : State).pkg.ctlIn.contains (.frozen 0 1 5 cause0) = true) ∧
    ((frozen0 false).job? 1 = some (frozenJob false) ∧ (frozenJob false).slate.final = false ∧ (frozenJob false).slate.frozenAt.toNat + 8000 ≤ (frozen0 false).gtime.toNat ∧ (frozen0 false).allFrozen (frozenJob false) = true) := by decide +kernel
theorem wit_SlateWave_debug : Debugs (withCmd (frozen0 true) (debugOf 1)) 1 1 (debugOf 1) (frozenJob true) ∧ Debugs (withCmd w0 (debugOf 1)) 1 1 (debugOf 1) job0 ∧ (debugOf 1).busy = false ∧ (withCmd w0 (debugOf 1)).stands job0 = false ∧
    Debugs (withCmd (frozen0 true) (debugOf 2)) 1 2 (debugOf 2) (frozenJob true) ∧ sidPkg (BitVec.ofNat 32 (recField (debugOf 2).payload 8 4)) = (withCmd (frozen0 true) (debugOf 2)).pkgNo ∧ (frozenJob true).slate.st = .frozen ∧
    Debugs (withCmd (frozen0 true) (debugOf 3)) 1 3 (debugOf 3) (frozenJob true) ∧ (frozenJob true).slate.final = true ∧
    Debugs (withCmd (dmaOpen (frozen0 true)) (debugOf 4)) 1 4 (debugOf 4) (frozenJob true) ∧ ((withCmd (dmaOpen (frozen0 true)) (debugOf 4)).strand? (BitVec.ofNat 32 (recField (debugOf 4).payload 8 4))).isSome = true ∧
    (withCmd (dmaOpen (frozen0 true)) (debugOf 4)).dmaOk (recField (debugOf 4).payload 16 8) 512 = true :=
  ⟨debugs (by decide +kernel), debugs (by decide +kernel), by decide +kernel, by decide +kernel, debugs (by decide +kernel), by decide +kernel, by decide +kernel, debugs (by decide +kernel), by decide +kernel, debugs (by decide +kernel), by decide +kernel, by decide +kernel⟩
theorem wit_SlateWave_resume : (({ w0 with pkg := { w0.pkg with ctlIn := [.resume 1 5 6] } } : State).pkg.ctlIn.contains (.resume 1 5 6) = true) ∧ (frozen0 true).pkg.branches = [] ∧
    (let j := { job0 with slate := { job0.slate with st := .resuming, resumeAt := some 9 } };
      let s := lone fun _ => j;
      s.job? 1 = some j ∧ j.slate.st = .resuming ∧ j.slate.resumeAt = some 9 ∧ (9#64).toNat ≤ s.gtime.toNat) := by decide +kernel
/-- Which packages the slice holds is a constant of the pod: where package 5 is one and has not reported, a slice that does not freeze in time fails. -/
theorem wit_SlateWave_timeout (h : Config.podSlice 0 = [0, 5]) : let j := { frozenJob false with multi := true };
    let s := slated .frozen fun _ => j;
    s.job? 1 = some j ∧ s.takeCtl (.fail 1 FaultCode.fabricUnreachable.num) = none ∧ j.slate.first = some cause0 ∧ j.multi = true ∧ s.allFrozen j = false ∧ j.slate.final = false ∧ cause0.gtime.toNat + 100000 ≤ s.gtime.toNat := by
  refine ⟨by decide +kernel, by decide +kernel, by decide +kernel, by decide +kernel, ?_, by decide +kernel, by decide +kernel⟩
  have hs : (slated .frozen fun _ => { frozenJob false with multi := true }).slice = [0, 5] := by
    rw [← h]; unfold State.slice; congr 1
  have hp : (slated .frozen fun _ => { frozenJob false with multi := true }).jobPkgs { frozenJob false with multi := true } = [0, 5] := by unfold State.jobPkgs; exact hs
  unfold State.allFrozen; rw [hp]; decide +kernel
/-- The fault queue of the demo job with one record posted. -/
def posted (code flags tail : Nat) : State := ((w0.poke 0 0x201000 (bytesOfNat 8 (code + flags * 256))).poke 0 0x200010 (bytesOfNat 8 1)).poke 0 0x200018 (bytesOfNat 8 tail)
def heldRec : HeldRec := ⟨List.replicate 64 1, []⟩
/-- Two records posted and open, the first of code 0x10, the second as given, in a ring that the paging service serves. -/
def twoPosted (code : Nat) : State := ((w0.poke 0 0x201000 (bytesOfNat 8 0x10)).poke 0 0x201040 (bytesOfNat 8 code ++ bytesOfNat 8 0 ++ bytesOfNat 8 0 ++ bytesOfNat 8 0x100040000)).poke 0 0x200010 (bytesOfNat 8 2 ++ bytesOfNat 8 0 ++ bytesOfNat 8 1)
theorem toService {s : State} {job : BitVec 32} {j : Job} {k : Nat} (h : s.job? job = some j ∧ s.cobaltUp = true ∧ s.recMarked j k = false ∧ (s.fqTail j < k ∧ k < s.fqHead j ∧ s.fqHead j ≤ s.fqTail j + s.fqCap j) ∧ s.recMarked j (s.fqTail j) = false ∧
    (s.fqBase j + s.fqCap j * 64 ≤ j.rec_.fq ∨ j.rec_.fq + 48 ≤ s.fqBase j) ∧ s.fqBase j + s.fqCap j * 64 ≤ 2 ^ 40) : ToService s job j k := ⟨h.1, h.2.1, h.2.2.1, h.2.2.2.1, h.2.2.2.2.1, h.2.2.2.2.2.1, h.2.2.2.2.2.2⟩
theorem wit_PagingEvents : (commanded []).pkg.bar.state = 4 ∧ (commanded []).cobaltUp = true ∧
    (let s := lone fun j => { j with held := [heldRec] };
      s.job? 1 = some { job0 with held := [heldRec] } ∧ s.fqHead { job0 with held := [heldRec] } - s.fqTail { job0 with held := [heldRec] } < s.fqCap { job0 with held := [heldRec] }) ∧
    ((posted 0x12 0 1).fqHead job0 < 2 ∧ 1 ≤ (posted 0x12 0 1).fqTail job0) ∧
    ({ w0 with pkg := { w0.pkg with fatal := true } } : State).cobaltUp = false := by decide +kernel
theorem wit_PagingEvents_service (hr : Config.fwReserve = 0) : (ToService (twoPosted 0x12) 1 job0 1 ∧ (twoPosted 0x12).devGet ((twoPosted 0x12).recPa job0 1) 1 = 0x12) ∧
    (ToService (twoPosted 0x10) 1 job0 1 ∧ (twoPosted 0x10).devGet ((twoPosted 0x10).recPa job0 1) 1 = 0x10 ∧ (twoPosted 0x10).fqPaging job0 = true ∧
      ((twoPosted 0x10).leafEntries job0.rec_.root ((twoPosted 0x10).devGet ((twoPosted 0x10).recPa job0 1 + 24) 8)).find? (fun x => decide (x.1 = 0x10C008)) = some (0x10C008, 2 ^ 18) ∧
      (twoPosted 0x10).peekKey 0 0x10C008 8 % 2 = 0 ∧ (twoPosted 0x10).frameFree 0x005000000084003F (2 ^ 18) = true ∧ (∀ x ∈ (twoPosted 0x10).pkg.moving, x.1 ≠ 0x10C008) ∧
      isHbm 0x10C008 = true ∧ 0x10C008 + 8 ≤ (twoPosted 0x10).fqBase job0 ∧ 0x10C008 + 8 ≤ job0.rec_.fq) :=
  ⟨⟨toService (by decide +kernel), by decide +kernel⟩, toService (by decide +kernel), by decide +kernel, by decide +kernel, by decide +kernel, by decide +kernel,
    by unfold State.frameFree; rw [hr]; decide +kernel, by decide +kernel⟩
theorem wit_PagingEvents_tail : let s := { posted 0x10 0x80 0 with cur := { w0.cur with run := .held 0 0 } };
    s.job? 1 = some job0 ∧ s.cur.job = 1 ∧ s.cur.wait = none ∧ s.cur.run = .held 0 0 ∧ s.rest = [] ∧ s.pkg.copies = [] ∧ s.pkg.mcast = [] ∧ s.fqTail job0 = 0 ∧ 0 < s.fqHead job0 ∧
    (s.devPut (job0.rec_.fq + 24) 8 1).recMarked job0 0 = true ∧ (s.devPut (job0.rec_.fq + 24) 8 1).recDeclined job0 0 = false := by decide +kernel
theorem wit_MemoryErrors : (w0.errUnit 0x400000).isSome = true ∧ w0.errUnit (scratchLoc 1 8) = none ∧ coreOfLoc (scratchLoc 1 8) = some 1 ∧ w0.job? 1 = some job0 ∧ 0 < 20 ∧ (w0.boundClusters 1).contains 0 = true := by decide +kernel
/-- The reset device in a boot state. -/
def booting (st : Nat) : State := { State.reset with pkg := { Pkg.reset with bar := { Bar0.reset with state := st } } }
theorem wit_ResetAndBoot : (booting 5).pkg.bar.state = 5 ∧ State.reset.pkg.bar.state = 0 ∧ (booting 1).pkg.bar.state = 1 ∧ (booting 2).pkg.bar.state = 2 ∧ (booting 2).imageReject ≠ 0 ∧ (booting 3).pkg.bar.state = 3 ∧ (booting 3).pairGone = false ∧ (booting 4).pkg.bar.state ≠ 1 ∧ (booting 4).pkg.bar.state ≠ 5 ∧
    State.reset.pkg.cobaltErrAt = none ∧ (let s := { State.reset with gtime := 9, pkg := { Pkg.reset with cobaltErrAt := some 0 } };
      s.pkg.cobaltErrAt = some 0 ∧ (s.gtime - 0).toNat < 1000000000) := by decide +kernel
/-- A staged image of 256 bytes: whether its signature and digest are good is an opaque check, and where they are it is not rejected. -/
def imaged : State := ({ State.reset with pkg := { Pkg.reset with bar := { Bar0.reset with state := 2, imgdb := 256 } } } : State).poke 0 (State.reset.winPa 0x2100000) (bytesOfNat 4 0x4E485846 ++ bytesOfNat 4 0 ++ bytesOfNat 8 256)

theorem imageGood (s : State) (h0 : recField (natOfBytes (s.imageBytes 0 256)) 0 4 = 0x4E485846) (h1 : recField (natOfBytes (s.imageBytes 0 256)) 112 144 = 0) (h2 : recField (natOfBytes (s.imageBytes 0 256)) 8 8 = 256)
    (h3 : s.pkg.bar.imgdb.toNat = 256) (h4 : Config.sm2Good (Config.sm3 (s.imageBytes 0 48)) (s.imageBytes 48 64) = true) (h5 : Config.sm3 (s.imageBytes 256 0) = recField (natOfBytes (s.imageBytes 0 256)) 16 32)
    (h6 : Config.fusedMinVersion ≤ recField (natOfBytes (s.imageBytes 0 256)) 4 4) : s.imageReject = 0 := by
  unfold State.imageReject
  simp [h0, h1, h2, h3, h4, h5, Nat.not_lt.mpr h6]
theorem wit_ResetAndBoot_good (h : Config.sm2Good (Config.sm3 (imaged.imageBytes 0 48)) (imaged.imageBytes 48 64) = true) (h2 : Config.sm3 (imaged.imageBytes 256 0) = recField (natOfBytes (imaged.imageBytes 0 256)) 16 32)
    (h3 : Config.fusedMinVersion ≤ recField (natOfBytes (imaged.imageBytes 0 256)) 4 4) : imaged.pkg.bar.state = 2 ∧ imaged.imageReject = 0 :=
  ⟨by decide +kernel, imageGood _ (by decide +kernel) (by decide +kernel) (by decide +kernel) (by decide +kernel) h h2 h3⟩
theorem wit_Registers : BitVec.getLsbD (1#64) 0 = true ∧ BitVec.getLsbD (2#64) 0 = false ∧ ({ State.reset with pkg := { Pkg.reset with bar := { Bar0.reset with dmalock := 1 } } } : State).pkg.bar.dmalock ≠ 0 ∧
    State.reset.pkg.bar.dmalock = 0 ∧ (63 : Nat) < 64 ∧ BitVec.getLsbD (0x8000000000000007#64) 63 = true ∧ State.reset.pkg.bar.fabLocked = false ∧
    ({ State.reset with pkg := { Pkg.reset with bar := { Bar0.reset with fabid := 0x8000000000000007#64 } } } : State).pkg.bar.fabLocked = true ∧ (105 : Nat) ≤ 105 ∧ (95 : Nat) ≤ 95 ∧ (94 : Nat) < 95 := by decide +kernel
theorem wit_HostMemory : State.reset.hdmPa 56 = some (State.reset.winPa 56) ∧ State.reset.hdmShut 56 = false ∧ 56 % 64 + [1#8, 2, 3, 4, 5, 6, 7, 8].length ≤ 64 ∧ State.reset.hdmShut 0x2011000 = true ∧ State.reset.hdmShut 0x20FFFF8 = true := by decide +kernel
/-- The demo strand with these requests to the host, and element 2 of its atomic to report. -/
def hosted (rs : List HostReq) (todo : Option (List Nat)) : State := { w0 with pkg := { w0.pkg with hostReqs := rs }, cur := { w0.cur with vamoTodo := todo } }
def hreq (fn : Option Nat) (dropped : Bool) : HostReq := ⟨4, .strand w0.cur.uid, 0x3000, 2, fn, 1, 0, 2, dropped⟩
theorem wit_HostAnswers : (let s := hosted [hreq none false] none;
      s.pkg.hostReqs.find? (fun r => decide (r.id = 4) && r.fn.isNone) = some (hreq none false) ∧ (hreq none false).dropped = false ∧ [1#8, 2].length = (hreq none false).n ∧ (hreq none false).who = .strand s.cur.uid) ∧
    (let s := hosted [hreq none true] none;
      s.pkg.hostReqs.find? (fun r => decide (r.id = 4) && r.fn.isNone) = some (hreq none true) ∧ (hreq none true).dropped = true) ∧
    (let s := hosted [hreq (some 0) false] none;
      s.pkg.hostReqs.find? (fun r => decide (r.id = 4) && r.fn.isSome) = some (hreq (some 0) false) ∧ (hreq (some 0) false).dropped = false ∧ (hreq (some 0) false).who = .strand s.cur.uid ∧ s.cur.vamoTodo = none) ∧
    (let s := { w0 with pkg := { w0.pkg with proxies := [⟨0, w0.cur.uid, 0, 4095⟩] } };
      s.pkg.proxies.find? (fun p => decide (p.index = 4095 ∧ 4095 < 4096 ∧ p.seq = s.devGet (s.winPa (0x2001000 + 16 * 4095)) 8)) = some ⟨0, w0.cur.uid, 0, 4095⟩ ∧ s.cur.vamoTodo = none ∧
      ∀ p ∈ w0.pkg.proxies, p.index = 0 → p.seq ≠ s.devGet (s.winPa 0x2001000) 8) ∧
    (let s := hosted [hreq (some 0) false] (some [2, 3]);
      s.cur.away = false ∧ s.cur.vamoTodo = some [2, 3] ∧ s.outstandingEl s.cur.uid 2 = true ∧ s.outstandingEl s.cur.uid 3 = false) := by decide +kernel
/-- The package with key 5 installed for TDI 63 and session 1 in a state. -/
def keyed (n : Nat) : State := { w0 with pkg := { w0.pkg with keys := [(5, ⟨true, false, 63⟩)], sessions := [(1, n)], tdiRun := 0x8000000000000000 } }
theorem wit_Security : (keyed 0).pkg.session 1 = some 0 ∧ (keyed 1).pkg.session 1 = some 1 ∧ (keyed 65).pkg.session 1 = some (2 + 63) ∧ ((keyed 1).pkg.keys.get ⟨false, false, 0⟩ 4095).installed = false ∧
    ((keyed 65).pkg.keys.get ⟨false, false, 0⟩ 5).tdi = 63 ∧ ((keyed 1).pkg.keys.get ⟨false, false, 0⟩ 5).installed = true ∧ ((keyed 1).pkg.keys.get ⟨false, false, 0⟩ 5).tdi ≠ 62 ∧
    (keyed 0).pkg.session 1 ≠ some 1 ∧ (keyed 0).pkg.session 1 ≠ some (2 + 63) ∧ (keyed 1).pkg.tdiRun.getLsbD 63 = true ∧ (keyed 1).pkg.tdiRun.getLsbD 62 = false ∧ (keyed 1).pkg.leaving.contains 63 = false ∧
    (∀ x ∈ (keyed 1).jobs, ∀ y ∈ (keyed 1).jobs, x.id = y.id → x.state.final = false → y.state.final = false → x = y) ∧ (keyed 1).keyOfTdi 63 job0.rec_.key = true ∧
    (∀ j ∈ (after (.tdiLeaveRun 63) ({ keyed 1 with jobs := [] } : State)).jobs, j.state.final = false → (keyed 1).keyOfTdi 63 j.rec_.key = false) := by decide +kernel
/-- Port 17 after flit 4095 was taken; port 3 retired. -/
def linked : State := { w0 with pkg := { w0.pkg with bar := { w0.pkg.bar with fabetype := 0x88B5 }, retiredPorts := [3], links := [(16, ⟨false, 3, 0, [], 16, false, [], 0, 0, 0⟩), (17, ⟨false, 3, 4095, [], 0, false, [], 0, 0, 0⟩)] } }
def packet (kind op : Nat) (data : List Byte) : Packet := ⟨kind, 0, data.length, w0.pkgNo, 7, 9, 5, op, .fab, 0x400000#64, 1, 0, 0, data, false, 1, 0⟩
def flit (n : BitVec 12) : Flit := ⟨4, n, 0, 0, 0, true, some (packet 10 0 []), none, 0⟩
theorem linkUp {s : State} {p : Nat} (h : p < 18 ∧ s.pkg.retiredPorts.contains p = false ∧ (s.link p).down = false) : LinkUp s p := ⟨h.1, h.2.1, h.2.2⟩
theorem wit_Links : LinkUp linked 17 ∧ linked.pkg.retiredPorts.contains 25 = false ∧ linked.pkg.retiredPorts.contains 3 = true ∧ linked.pkg.bar.fabetype ≠ 0 ∧ (0x88B5#16) = linked.pkg.bar.fabetype.setWidth 16 ∧ (flit 0).packet = some (packet 10 0 []) ∧
    (flit 0).crcGood = true ∧ (flit 0).ty = 4 ∧ (packet 10 0 []).dpkg = linked.pkgNo ∧ (flit 0).lseq = (linked.link 17).lack + 1 ∧
    lseqLe (flit 4095).lseq (linked.link 17).lack = true ∧ (flit 4095).lseq ≠ (linked.link 17).lack + 1 ∧ lseqLe (flit 1).lseq (linked.link 17).lack = false ∧ (flit 1).lseq ≠ (linked.link 17).lack + 1 ∧
    16 ≤ (linked.link 16).replays ∧ (linked.link 17).replays < 16 ∧ (0x0800#16) ≠ linked.pkg.bar.fabetype.setWidth 16 ∧ linked.pkg.arrived.any (fun x => decide (x.spkg = 7 ∧ x.eseq = 9)) = false :=
  ⟨linkUp (by decide +kernel), by decide +kernel⟩
/-- The demo job as a job of packages 0 and 7, its key installed. -/
def multi0 : Job := { job0 with multi := true, accepts := [(w0.pkgNo, 0, 0), (7, 0, 0)] }
def sliced : State := { w0 with jobs := [multi0], pkg := { w0.pkg with keys := [(5, ⟨true, false, 0⟩)] } }
/-- With a page of zeros under its key, and a packet arrived. -/
def arrived (p : Packet) : State := { sliced.poke 5 0x400000 (List.replicate 64 0) with pkg := { sliced.pkg with arrived := [p] } }
theorem firstSeen {s : State} {p : Packet} {k : Nat} (h : p.kind = k ∧ s.pkg.arrived.contains p = true ∧ (s.peer p.spkg).replies.find? (fun r => decide (r.1 = p.eseq)) = none ∧ (s.peer p.spkg).placed.contains p.eseq = false) : FirstSeen s p k :=
  ⟨h.1, h.2.1, h.2.2.1, h.2.2.2⟩
def readP : Packet := { packet 1 0 [] with len := 64 }
def farP (kind : Nat) : Packet := { packet kind 0 [1] with spkg := 6, len := 1 }
def writeP : Packet := packet 3 0 [1, 2, 3]
def atomicP (op : Nat) (l : List Byte) : Packet := packet 4 op l
def chunkP (map : Word) : Packet := { packet 6 0 (List.replicate 64 1) with map := map, chunk := 5 }
def mcP : Packet := { packet 7 0 (List.replicate 64 1) with addr := pad, map := pad + 0x1000, chunk := 63 }
def msgP : Packet := packet 8 0 (bytesOfNat 16 99)
def combP : Packet := packet 12 1 (Member.bytes ⟨7, 9, 4⟩)
/-- The map's bit 5 stands. -/
def mapped : State := { (arrived (chunkP 0x400040)).poke 5 0x400040 [32, 0, 0, 0, 0, 0, 0, 0] with pkg := (arrived (chunkP 0x400040)).pkg }
theorem wit_HomeRequests : FirstSeen (arrived readP) readP 1 ∧ (withoutPkt (arrived readP) readP).peerCheck 7 readP 0x400000 64 = none ∧ (withoutPkt (arrived (farP 1)) (farP 1)).peerCheck 6 (farP 1) 0x400000 1 = some .fabricUnreachable ∧ FirstSeen (arrived (farP 1)) (farP 1) 1 ∧
    FirstSeen (arrived writeP) writeP 3 ∧ (withoutPkt (arrived writeP) writeP).peerCheck 7 writeP 0x400000 3 = none ∧ FirstSeen (arrived (farP 3)) (farP 3) 3 ∧ (withoutPkt (arrived (farP 3)) (farP 3)).peerCheck 6 (farP 3) 0x400000 1 = some .fabricUnreachable ∧
    FirstSeen (arrived (atomicP 0 (bytesOfNat 8 1))) (atomicP 0 (bytesOfNat 8 1)) 4 ∧ (withoutPkt (arrived (atomicP 0 (bytesOfNat 8 1))) (atomicP 0 (bytesOfNat 8 1))).peerCheck 7 (atomicP 0 (bytesOfNat 8 1)) 0x400000 8 = none ∧ (arrived (atomicP 0 (bytesOfNat 8 1))).poisoned 0x400000 8 = false ∧
    FirstSeen (arrived (atomicP 11 (bytesOfNat 16 1))) (atomicP 11 (bytesOfNat 16 1)) 4 ∧ (withoutPkt (arrived (atomicP 11 (bytesOfNat 16 1))) (atomicP 11 (bytesOfNat 16 1))).peerCheck 7 (atomicP 11 (bytesOfNat 16 1)) 0x400000 8 = none :=
  ⟨firstSeen (by decide +kernel), by decide +kernel, by decide +kernel, firstSeen (by decide +kernel), firstSeen (by decide +kernel), by decide +kernel, firstSeen (by decide +kernel), by decide +kernel, firstSeen (by decide +kernel), by decide +kernel, by decide +kernel,
    firstSeen (by decide +kernel), by decide +kernel⟩
theorem wit_HomeRequests_chunks : FirstSeen (arrived (chunkP 0)) (chunkP 0) 6 ∧ (withoutPkt (arrived (chunkP 0)) (chunkP 0)).peerCheck 7 (chunkP 0) 0x400000 64 = none ∧ (chunkP 0).map = 0 ∧
    FirstSeen mapped (chunkP 0x400040) 6 ∧ (withoutPkt mapped (chunkP 0x400040)).peerCheck 7 (chunkP 0x400040) 0x400000 64 = none ∧ (withoutPkt mapped (chunkP 0x400040)).peerCheck 7 (chunkP 0x400040) 0x400040 8 = none ∧
    mapped.poisoned 0x400040 8 = false ∧ mapped.bitSet 5 0x400040 5 = true :=
  ⟨firstSeen (by decide +kernel), by decide +kernel, by decide +kernel, firstSeen (by decide +kernel), by decide +kernel⟩
theorem wit_HomeRequests_multicast : FirstSeen (arrived mcP) mcP 7 ∧ (withoutPkt (arrived mcP) mcP).reaches 1 7 = some multi0 ∧ (withoutPkt (arrived mcP) mcP).keyLive 5 = true ∧ mcP.keyid = multi0.rec_.key ∧ mcP.flags.getLsbD 0 = false ∧
    (let a := withoutPkt (arrived mcP) mcP;
     let x := a.engReach (a.jobStrand 1) mcP.map 8 { needOf .copyDst with localOnly := true };
     let m := okOf noHit x;
     let y := (x.1.forget (sameChunk mcP)).uePlaces (a.jobStrand 1) mcP.addr mcP.data.length .copyDst;
      (arrived mcP).mcClaimed mcP = false ∧ x = (x.1, .ok m) ∧ x.1.poisoned m.loc 8 = false ∧ x.1.bitSet m.key m.loc 63 = false ∧ y = (y.1, .ok (okOf [] y))) ∧
    (let a := { arrived mcP with jobs := [] };
      FirstSeen a mcP 7 ∧ a.mcClaimed mcP = false ∧ (withoutPkt a mcP).reaches 1 7 = none) :=
  ⟨firstSeen (by decide +kernel), by decide +kernel, by decide +kernel, by decide +kernel, by decide +kernel, ⟨by decide +kernel, okIs _ (by decide +kernel), by decide +kernel, by decide +kernel, okIs _ (by decide +kernel)⟩, firstSeen (by decide +kernel), by decide +kernel⟩
theorem wit_HomeRequests_messages : FirstSeen (arrived msgP) msgP 8 ∧ (withoutPkt (arrived msgP) msgP).peerCheck 7 msgP 0x400000 64 = none ∧ (arrived msgP).poisoned 0x400000 64 = false ∧
    lowest 4 (fun k => slotTakes (BitVec.ofNat 64 ((arrived msgP).peekKey 5 (0x400000 + 16 * k + 8) 8)) (sidPkg (BitVec.ofNat 32 (natOfBytes (msgP.data.drop 8))))) = some 0 ∧
    combP.kind = 12 ∧ (arrived combP).pkg.arrived.contains combP = true ∧ members 64 combP.data = [⟨7, 9, 4⟩] ∧ (withoutPkt (arrived combP) combP).peerCheck 7 combP 0x400000 8 = none ∧ (arrived combP).poisoned 0x400000 8 = false ∧
    ((arrived combP).peer 7).replies.find? (fun r => decide (r.1 = 9)) = none ∧
    (let s := (arrived readP).setPeer 7 { Peer.zero with replies := [(9, packet 2 0 [1])] };
      s.pkg.arrived.contains readP = true ∧ (s.peer 7).replies.find? (fun r => decide (r.1 = readP.eseq)) = some (9, packet 2 0 [1])) :=
  ⟨firstSeen (by decide +kernel), by decide +kernel⟩
/-- A request of the current strand that package 7 has not answered, with a packet arrived. -/
def askedP (kind sends : Nat) : Unacked := ⟨{ packet kind 0 [] with dpkg := 7, spkg := 0 }, some (.strand w0.cur.uid), 0, sends, 0, 0, none⟩
def answered (kind : Nat) (p : Packet) : State := { arrived p with gtime := 200000 }.setPeer 7 { Peer.zero with hasTable := true, unacked := [askedP kind 1] }
theorem answers {s : State} {p : Packet} {k : Nat} {l : List Nat} {u : Unacked} (h : p.kind = k ∧ s.pkg.arrived.contains p = true ∧ s.unackedOf p.spkg p.eseq = some u ∧ l.contains u.pkt.kind = true) : Answers s p k l u :=
  ⟨h.1, h.2.1, h.2.2.1, List.contains_iff_mem.mp h.2.2.2⟩
theorem wit_PeerAnswers : Answers (answered 1 (packet 2 0 [1])) (packet 2 0 [1]) 2 [1] (askedP 1 1) ∧ (askedP 1 1).who = some (.strand (answered 1 (packet 2 0 [1])).cur.uid) ∧ (packet 2 0 [1]).flags.getLsbD 0 = false ∧
    Answers (answered 1 { packet 2 0 [1] with flags := 1 }) { packet 2 0 [1] with flags := 1 } 2 [1] (askedP 1 1) ∧ Answers (answered 4 (packet 5 0 [1])) (packet 5 0 [1]) 5 [4] (askedP 4 1) ∧ w0.cur.vamoTodo = none ∧
    Answers (answered 8 (packet 9 0 [1])) (packet 9 0 [1]) 9 [8] (askedP 8 1) ∧ Answers (answered 3 (packet 10 0 [])) (packet 10 0 []) 10 [3, 6, 7] (askedP 3 1) ∧
    Answers (answered 3 (packet 11 0x50 [])) (packet 11 0x50 []) 11 [1, 3, 4, 6, 7, 8] (askedP 3 1) ∧ (codeOfNum FaultCode.fabricUnreachable.num).isSome = true :=
  ⟨answers (by decide +kernel), by decide +kernel, by decide +kernel, answers (by decide +kernel), answers (by decide +kernel), by decide +kernel, answers (by decide +kernel), answers (by decide +kernel), answers (by decide +kernel), by decide +kernel⟩
def combR : Packet := packet 13 1 (Member.bytes ⟨w0.pkgNo, 9, 4⟩)
theorem wit_PeerAnswers_rest : combR.kind = 13 ∧ (answered 4 combR).pkg.arrived.contains combR = true ∧ (members 64 combR.data).filter (fun m => decide (m.pkg = (answered 4 combR).pkgNo)) = [⟨w0.pkgNo, 9, 4⟩] ∧ (answered 4 combR).unackedOf 7 9 = some (askedP 4 1) ∧
    (let s := w0.setPeer 7 { Peer.zero with hasTable := true, unacked := [{ askedP 3 7 with pkt := { (askedP 3 7).pkt with job := 9 } }] };
      let u := { askedP 3 7 with pkt := { (askedP 3 7).pkt with job := 9 } };
      s.unackedOf 7 9 = some u ∧ s.job? u.pkt.job = none ∧ u.sends < 8 ∧ u.at_.toNat + 20000 ≤ (({ s with gtime := 20000 } : State).gtime.toNat) ∧ s.gtime.toNat < u.at_.toNat + 20000 ∧ (s.peer 7).hasTable = true ∧ (15 : Nat) < 16) ∧
    (let b : Branch := ⟨7, 3, 5, 0, false⟩;
      let s := { w0 with gtime := 100000, pkg := { w0.pkg with branches := [b] } };
      s.pkg.branches.contains b = true ∧ b.nacked = false ∧ b.since.toNat + 100000 ≤ s.gtime.toNat) := by decide +kernel
/-- A launch of the slice that package 0 has accepted, the reference time as given. -/
def launched (f : Job → Job) (t : Word) : State := { w0 with gtime := t, jobs := [f { job0 with multi := true, jrun := false, timed := false, accepts := [(w0.pkgNo, job0.rec_.digest, 0)] }] }
def launchJob : Job := { job0 with multi := true, jrun := false, timed := false, accepts := [(w0.pkgNo, job0.rec_.digest, 0)] }
def told (s : State) (c : Ctl) : State := { s with pkg := { s.pkg with ctlIn := [c] } }
theorem pendingIs {s : State} {job : BitVec 32} {j : Job} (h : s.job? job = some j ∧ j.pending = true ∧ (∀ a ∈ j.accepts, a.2.1 = j.rec_.digest) ∧ j.slate.st = .running ∧ j.slate.wave = none) : Pending s job j := ⟨h.1, h.2.1, h.2.2.1, h.2.2.2⟩
theorem aloneJob {s : State} {j : Job} {id : BitVec 32} (h : s.jobs = [j]) (hi : j.id = id) (hf : j.state.final = false) : s.job? id = some j := by simp [State.job?, h, hi, hf]
theorem launched_ready : w0.pkg.bar.fabid = 0 := by decide +kernel
theorem wit_SliceLaunches : (told (launched id 0) (.accept 7 1 job0.rec_.digest 5)).job? 1 = some launchJob ∧ launchJob.multi = true ∧ launchJob.pending = true ∧
    (told (launched id 0) (.accept 7 1 job0.rec_.digest 5)).pkg.ctlIn.contains (.accept 7 1 job0.rec_.digest 5) = true ∧ (∀ a ∈ launchJob.accepts, a.1 ≠ 7 ∧ a.2.1 = launchJob.rec_.digest) ∧
    (told (launched id 0) (.accept 7 1 (job0.rec_.digest + 1) 5)).pkg.ctlIn.contains (.accept 7 1 (job0.rec_.digest + 1) 5) = true ∧ job0.rec_.digest + 1 ≠ launchJob.rec_.digest ∧
    Pending (launched (fun j => { j with startAt := some 20000 }) 20000) 1 { launchJob with startAt := some 20000 } ∧ (20000#64).toNat ≤ (launched id 20000).gtime.toNat ∧ (launched id 19999).gtime.toNat < (20000#64).toNat := by
  have mem (n : Nat) : (told (launched id 0) (.accept 7 1 n 5)).pkg.ctlIn.contains (.accept 7 1 n 5) = true := by simp [told]
  have acc : ∀ a ∈ launchJob.accepts, a.1 ≠ 7 ∧ a.2.1 = launchJob.rec_.digest := by
    intro a h; rw [List.mem_singleton.mp h]; exact ⟨by decide +kernel, rfl⟩
  exact ⟨aloneJob rfl (by decide +kernel) (by decide +kernel), by decide +kernel, by decide +kernel, mem _, acc, mem _, Nat.succ_ne_self _, ⟨aloneJob rfl (by decide +kernel) (by decide +kernel), by decide +kernel, fun a h => (acc a h).2, by decide +kernel, by decide +kernel⟩, by decide +kernel, by decide +kernel⟩
theorem wit_SliceLaunches_lock : ({ w0 with gtime := 10000000, pkg := { w0.pkg with lockLost := some 0 } } : State).lockLong = true ∧ ({ w0 with gtime := 9999999, pkg := { w0.pkg with lockLost := some 0 } } : State).lockLong = false ∧ w0.lockLong = false := by
  decide +kernel
/-- Which packages the slice holds is a constant of the pod: a slice of package 0 alone has agreed, one of packages 0 and 7 has not. -/
theorem wit_SliceLaunches_slice : (Config.podSlice 0 = [0] → Pending (launched id 0) 1 launchJob ∧ launchJob.startAt = none ∧ (launched id 0).agreed launchJob = true) ∧
    (Config.podSlice 0 = [0, 7] → launchJob.pending = true ∧ (launched id 1000001).job? 1 = some launchJob ∧ (launched id 1000001).agreed launchJob = false ∧ ((launchJob.accepts.map fun a => a.2.2.toNat).min?).getD 0 + 1000000 < (launched id 1000001).gtime.toNat) := by
  have key (t : Word) : (launched id t).slice = Config.podSlice 0 := by
    have e : (launched id t).slice = Config.podSlice (w0.pkg.bar.fabid.toNat / 2 ^ 16 % 16) := rfl
    rw [e, launched_ready]; rfl
  refine ⟨fun h => ⟨⟨aloneJob rfl (by decide +kernel) (by decide +kernel), by decide +kernel, fun a h => by rw [List.mem_singleton.mp h]; rfl, by decide +kernel, by decide +kernel⟩, by decide +kernel, ?_⟩, fun h => ⟨by decide +kernel, aloneJob rfl (by decide +kernel) (by decide +kernel), ?_, by decide +kernel⟩⟩
  · unfold State.agreed; rw [key, h]; decide +kernel
  · unfold State.agreed; rw [key, h]; decide +kernel
theorem pointsTo {s : State} {a n : Nat} (h : s.peekKey 0 a 8 = n + 1 ∧ n % 2 ^ 14 = 0 ∧ s.paFits n (2 ^ 14) = true ∧ s.poisoned a 8 = false) : PointsTo s a n := ⟨h.1, h.2.1, h.2.2.1, h.2.2.2⟩
theorem localLeaf {e : Word} (h : e.extractLsb' 16 2 = 0 ∧ (e.extractLsb' 14 2).toNat ≤ 1 ∧ (e.extractLsb' 10 4).toNat ≤ 5 ∧ e.extractLsb' 8 2 = 0) : LocalLeaf e := ⟨h.1, h.2.1, h.2.2.1, h.2.2.2⟩
theorem validLeaf {s : State} {e : Word} {size : Nat} (h : LocalLeaf e) (h2 : e.getLsbD 0 = true ∧ e.extractLsb' 1 3 ≠ 0 ∧ s.paFits ((e.extractLsb' 18 34).toNat * 2 ^ 18) size = true) : ValidLeaf s e size := ⟨h, h2.1, h2.2.1, h2.2.2⟩
/-- The demo package's table with a second leaf, for the page after `codeVa`, and with a pool of its die. -/
def leafed (e : Word) (pool : List Nat) : State := { w0.poke 0 0x10C008 (bytesOfNat 8 e.toNat) with dies := w0.dies.set (w0.die 0) 0 { w0.die 0 with pool := pool } }
def secondVa : Nat := codeVa.toNat + 2 ^ 18
/-- Leaves of frame 0x440000 under key 5: all permissions; R alone; none; and a first-touch entry. -/
def fullLeaf : Word := 0x005000000044003F
def readLeaf : Word := 0x0050000000440033
def noLeaf : Word := 0x0050000000440031
def touchLeaf : Word := 0x005000000000004E
def bigLeaf : Word := 0x005000002000003F
theorem leads2 {s : State} {root va a1 n1 a2 n2 at_ : Nat} (e : root + 8 * (va / 2 ^ 51 % 32) = a1 ∧ n1 + 8 * (va / 2 ^ 40 % 2048) = a2 ∧ at_ = n2 + 8 * (va / 2 ^ 29 % 2048)) (h1 : PointsTo s a1 n1) (h2 : PointsTo s a2 n2) (h3 : s.poisoned at_ 8 = false) : LeadsL2 s root va at_ :=
  ⟨n1, n2, e.1.symm ▸ h1, e.2.1.symm ▸ h2, e.2.2, h3⟩
theorem leads3 {s : State} {root va at2 n3 at_ : Nat} (h2 : LeadsL2 s root va at2) (h3 : PointsTo s at2 n3) (e : at_ = n3 + 8 * (va / 2 ^ 18 % 2048)) (h4 : s.poisoned at_ 8 = false) : LeadsL3 s root va at_ := ⟨at2, n3, h2, h3, e, h4⟩
/-- The demo tables lead to the second leaf, from facts that are decided. -/
theorem leads {s : State} (h : (s.peekKey 0 0x100000 8 = 0x104000 + 1 ∧ 0x104000 % 2 ^ 14 = 0 ∧ s.paFits 0x104000 (2 ^ 14) = true ∧ s.poisoned 0x100000 8 = false) ∧
      (s.peekKey 0 0x104000 8 = 0x108000 + 1 ∧ 0x108000 % 2 ^ 14 = 0 ∧ s.paFits 0x108000 (2 ^ 14) = true ∧ s.poisoned 0x104000 8 = false) ∧
      (s.peekKey 0 0x108040 8 = 0x10C000 + 1 ∧ 0x10C000 % 2 ^ 14 = 0 ∧ s.paFits 0x10C000 (2 ^ 14) = true ∧ s.poisoned 0x108040 8 = false) ∧ s.poisoned 0x10C008 8 = false) : LeadsL3 s 0x100000 secondVa 0x10C008 := by
  obtain ⟨h1, h2, h3, h4⟩ := h
  exact leads3 (leads2 (by decide +kernel) (pointsTo h1) (pointsTo h2) h3.2.2.2) (pointsTo h3) (by decide +kernel) h4
theorem unknown {s : State} {cl : Nat} {core : Option Nat} {root va : Nat} {w : Bool} (h : s.tlbFind cl core root va w = none ∧ s.walkFind (cl / 5) root va = none) : Unknown s cl core root va w := ⟨h.1, h.2⟩
theorem wit_Translation : Unknown (leafed fullLeaf []) 0 (some 0) 0x100000 secondVa true ∧ LeadsL3 (leafed fullLeaf []) 0x100000 secondVa 0x10C008 ∧ (leafed fullLeaf []).peekKey 0 0x10C008 8 = fullLeaf.toNat ∧
    ValidLeaf (leafed fullLeaf []) fullLeaf (2 ^ 18) ∧ Permits (needOf .store) fullLeaf ∧ KeyFits (leafed fullLeaf []) 5 fullLeaf :=
  ⟨unknown (by decide +kernel), leads (by decide +kernel), by decide +kernel, validLeaf (localLeaf (by decide +kernel)) (by decide +kernel), by unfold Permits; decide +kernel, by decide +kernel, by decide +kernel⟩
theorem wit_Translation_refused : LeadsL3 (leafed 0 []) 0x100000 secondVa 0x10C008 ∧ (leafed 0 []).peekKey 0 0x10C008 8 = (0#64).toNat ∧ BitVec.getLsbD (0#64) 0 = false ∧ BitVec.getLsbD (0#64) 6 = false ∧
    LeadsL3 (leafed noLeaf []) 0x100000 secondVa 0x10C008 ∧ (leafed noLeaf []).peekKey 0 0x10C008 8 = noLeaf.toNat ∧ noLeaf.getLsbD 0 = true ∧ noLeaf.extractLsb' 1 3 = 0 ∧
    LeadsL3 (leafed readLeaf []) 0x100000 secondVa 0x10C008 ∧ (leafed readLeaf []).peekKey 0 0x10C008 8 = readLeaf.toNat ∧ ValidLeaf (leafed readLeaf []) readLeaf (2 ^ 18) ∧ ¬ Permits (needOf .store) readLeaf ∧ Permits (needOf .load) readLeaf ∧
    (readLeaf.extractLsb' 52 12).toNat ≠ 6 ∧ (readLeaf.extractLsb' 52 12).toNat = 5 ∧ (({ leafed readLeaf [] with pkg := { w0.pkg with keys := [(5, ⟨true, true, 0⟩)] } } : State).pkg.keys.get ⟨false, false, 0⟩ 5).revoked = true := by
  refine ⟨leads (by decide +kernel), by decide +kernel, by decide, by decide, leads (by decide +kernel), by decide +kernel, by decide, by decide, leads (by decide +kernel), by decide +kernel,
    validLeaf (localLeaf (by decide +kernel)) (by decide +kernel), ?_, ?_, by decide +kernel, by decide +kernel, by decide +kernel⟩ <;> (unfold Permits; decide +kernel)
theorem wit_Translation_touch : LeadsL3 (leafed touchLeaf [0x800000, 0x840000]) 0x100000 secondVa 0x10C008 ∧ (leafed touchLeaf [0x800000, 0x840000]).peekKey 0 0x10C008 8 = touchLeaf.toNat ∧ touchLeaf.getLsbD 0 = false ∧ touchLeaf.getLsbD 6 = true ∧
    LocalLeaf touchLeaf ∧ Permits (needOf .store) touchLeaf ∧ KeyFits (leafed touchLeaf [0x800000, 0x840000]) 5 touchLeaf ∧ ((leafed touchLeaf [0x800000, 0x840000]).die 0).pool = [0x800000, 0x840000] ∧ 0x800000 % 2 ^ 18 = 0 ∧
    LeadsL3 (leafed touchLeaf []) 0x100000 secondVa 0x10C008 ∧ ((leafed touchLeaf []).die 0).pool = [] :=
  ⟨leads (by decide +kernel), by decide +kernel, by decide, by decide, localLeaf (by decide +kernel), by unfold Permits; decide +kernel, ⟨by decide +kernel, by decide +kernel⟩, by decide +kernel, by decide, leads (by decide +kernel), by decide +kernel⟩
/-- The table with a leaf at level 2. -/
def bigTable : State := w0.poke 0 0x108048 (bytesOfNat 8 bigLeaf.toNat)
theorem wit_Translation_big : LeadsL2 bigTable 0x100000 (codeVa.toNat + 2 ^ 29) 0x108048 ∧ bigTable.peekKey 0 0x108048 8 = bigLeaf.toNat ∧ ValidLeaf bigTable bigLeaf (2 ^ 29) ∧ bigLeaf.extractLsb' 18 11 = 0 ∧ Permits (needOf .load) bigLeaf ∧ KeyFits bigTable 5 bigLeaf ∧ Unknown bigTable 0 none 0x100000 (codeVa.toNat + 2 ^ 29) false :=
  ⟨leads2 (a1 := 0x100000) (n1 := 0x104000) (a2 := 0x104000) (n2 := 0x108000) (by decide +kernel) (pointsTo (by decide +kernel)) (pointsTo (by decide +kernel)) (by decide +kernel), by decide +kernel, validLeaf (localLeaf (by decide +kernel)) (by decide +kernel), by decide, by unfold Permits; decide +kernel, ⟨by decide +kernel, by decide +kernel⟩, unknown (by decide +kernel)⟩
theorem wit_Translation_cached : let u : TlbEntry := ⟨0, some 0, 0x100000, secondVa / 2 ^ 18, false, fullLeaf, true⟩;
    let s := { w0 with tlb := [u] };
    s.tlbFind 0 (some 0) 0x100000 secondVa true = some u ∧ u.leaf.extractLsb' 8 2 = 0 ∧ Permits (needOf .store) u.leaf ∧ KeyFits s 5 u.leaf :=
  ⟨by decide +kernel, by decide +kernel, by unfold Permits; decide +kernel, ⟨by decide +kernel, by decide +kernel⟩⟩
/-- A store of 4 bytes pending to a page whose translation the core has. -/
def farStored : State := { w0 with tlb := [⟨0, some 0, 0x100000, secondVa / 2 ^ 18, false, fullLeaf, true⟩], cur := { w0.cur with pend := [⟨BitVec.ofNat 64 secondVa, 0x440000, 4, 77, none, none⟩] } }
theorem wit_Fences_far : let h := okOf noHit (farStored.place farStored.cur (BitVec.ofNat 64 secondVa) 4 (needOf .store) false);
    Ready farStored [] ∧ farStored.place farStored.cur (BitVec.ofNat 64 secondVa) 4 (needOf .store) false = (farStored, .ok h) ∧ isHere h.loc = true ∧ isNear (BitVec.ofNat 64 secondVa) = false ∧
    ([(⟨BitVec.ofNat 64 secondVa, 0x440000, 4, 77, none, none⟩, h.loc, h.key)] : List (Pend × Nat × Nat)).map (·.1) = farStored.cur.pend.filter (stillGuarded farStored) ∧ farStored.cur.out = [] ∧ farStored.mstQueued = false :=
  ⟨ready _ (by decide +kernel) (by decide +kernel), by decide +kernel, by decide +kernel, by decide +kernel, by decide +kernel, by decide +kernel, by decide +kernel⟩
theorem wit_MemoryWrites : 0x400008 % 8 = 0 ∧ 7 < 8 ∧ (0x440000 : Nat) ≤ 0x47FFFF ∧ 0x47FFFF < 0x440000 + 2 ^ 18 := by decide
theorem issues {s : State} (h : s.agenda = [] ∧ s.settled.pkg.halted = false ∧ s.settled.canIssue s.settled.cur = true ∧ s.settled.overrunDue = false) : Issues s := ⟨h.1, h.2.1, h.2.2.1, h.2.2.2⟩
/-- The demo strand at its instruction `add s4, s5, s6`, and at a word that is none. -/
def atWord (w : Nat) : State := w0.withFetchWord 32 w
theorem fetchedOk {x : State × Except Fail (BitVec 32)} {w : BitVec 32} (h : (match x.2 with | .ok v => decide (v = w) | .error _ => false) = true) : x = (x.1, .ok w) := by
  obtain ⟨a, b⟩ := x
  cases b with
  | ok v => simp at h; simp [h]
  | error e => simp at h
theorem wit_StepRunsDecoded : (Issues (atWord 0x00628233) ∧ (∃ u, (atWord 0x00628233).settled.stepTaken.fetch = (u, .ok 0x00628233)) ∧ decode 0x00628233 = .ok (.add 4 5 6)) ∧
    (Issues (atWord 0) ∧ (∃ u, (atWord 0).settled.stepTaken.fetch = (u, .ok 0)) ∧ decode 0 = .illegalInstruction) ∧
    (Issues astray ∧ astray.settled.stepTaken.fetch.2.toBool = false) ∧
    (let s := { w0 with pkg := { w0.pkg with halted := true } };
      s.agenda = [] ∧ s.settled.pkg.halted = true) ∧
    (State.reset.agenda = [] ∧ State.reset.settled.pkg.halted = false ∧ State.reset.settled.canIssue State.reset.settled.cur = false) ∧
    (let s := { w0 with agenda := [.event (.dmalockWrite 1)] };
      s.agenda = .event (.dmalockWrite 1) :: [] ∧ Instr.isEvent (.dmalockWrite 1) = true) :=
  ⟨⟨issues (by decide +kernel), ⟨_, fetchedOk (by decide +kernel)⟩, by decide +kernel⟩, ⟨issues (by decide +kernel), ⟨_, fetchedOk (by decide +kernel)⟩, by decide +kernel⟩, ⟨issues (by decide +kernel), by decide +kernel⟩, by decide +kernel, by decide +kernel, by decide +kernel⟩
theorem wit_StepRunsDecoded_place : let x := w0.place w0.cur w0.cur.pc 4 (needOf .fetch) false;
    x = (x.1, .ok (okOf noHit x)) ∧ x.1.hist = [] := ⟨okIs _ (by decide +kernel), by decide +kernel⟩
theorem wit_DecodeEncode : Instr.wf (.bne 31 0 (-2048)) = true ∧ encode (.bne 31 0 (-2048)) = some 0x800F9063 ∧ decode 0x800F9063 = .ok (.bne 31 0 (-2048)) := by decide +kernel
theorem wit_MemoryForm : State.MemOk State.reset ∧ step State.reset = .next State.reset := ⟨by unfold State.MemOk; decide +kernel, by rfl⟩
theorem wit_EncodeDecode : decode 0x00121C5F = .ok (.strip 24 4 1) ∧ decode 0xFE021B63 = .ok (.bne 4 0 (-10)) := by decide +kernel
theorem wit_OnlyStop : ({ w0 with pkg := { w0.pkg with halted := true } } : State).pkg.halted = true ∧ step ({ w0 with pkg := { w0.pkg with halted := true } } : State) = .fault .packageHalted := ⟨rfl, by rfl⟩
theorem wit_ResetAndBoot_seconds : (let s := { State.reset with gtime := 1000000000, pkg := { Pkg.reset with cobaltErrAt := some 0 } };
      1000000000 ≤ (s.gtime - 0).toNat) ∧ (let s := { State.reset with gtime := 999999999, pkg := { Pkg.reset with cobaltErrAt := some 0 } };
      (s.gtime - 0).toNat < 1000000000) := by decide +kernel

/-! Hypotheses that need a state of their own, clause by clause. -/

/-- The translation of the page of blocks, and a package whose core holds it. -/
def blockEntry : TlbEntry := ⟨0, some 0, 0x100000, (codeVa.toNat + 0x40000) / 2 ^ 18, false, 0x005000000044043F, true⟩
def blockState (ty : ElTy) (maint : Bool) : State := { (blocks ty).onCur (fun t => { t with maint := maint }) with tlb := [blockEntry] }
theorem vready_blockState (ty : ElTy) (m : Bool) (l vs : List (BitVec 5)) : VReady (blockState ty m) l vs :=
  vready l vs (by cases ty <;> cases m <;> decide +kernel) (by cases ty <;> cases m <;> decide +kernel) (by cases ty <;> cases m <;> decide +kernel) (by cases ty <;> cases m <;> decide +kernel)
    (by cases ty <;> cases m <;> decide +kernel)
theorem blockPage (ty : ElTy) (m w : Bool) : BlockPage (blockState ty m) ((blockState ty m).cur.getS 4 + BitVec.ofInt 64 ((0#5).toInt * 64)) w blockEntry .mx8a := by
  have h1 : ((blockState ty m).cur.getS 4 + BitVec.ofInt 64 ((0#5).toInt * 64)) = codeVa + 0x40000 := by cases ty <;> cases m <;> decide +kernel
  have h2 : clusterOf (blockState ty m).cur.sid = 0 ∧ coreOf (blockState ty m).cur.sid = 0 ∧ (blockState ty m).jobRoot (blockState ty m).cur.job = (0x100000, 5) := by cases ty <;> cases m <;> decide +kernel
  rw [h1]
  exact {
    global := by decide
    cached := fun x hx => by
      rw [h2.1, h2.2.1, h2.2.2]
      have hp := hx.trans (show _ = 16385 by decide)
      simp [State.tlbFind, blockState, blockEntry, pageOf, codeVa]; omega
    own := by rw [h2.2.1]; rfl
    kind := by decide
    may := by cases w <;> decide
    key := by rw [h2.2.2]; decide
    live := by cases ty <;> cases m <;> decide +kernel
    tag := by decide
    geom := by decide }
theorem blocksOk (ty : ElTy) (m : Bool) : BlocksOk (blockState ty m) ((blockState ty m).cur.getS 4 + BitVec.ofInt 64 ((0#5).toInt * 64)) blockEntry .mx8a
    ((List.range (blockState ty m).cur.n).filter (on (blockState ty m).cur 0)) := by
  have h : (List.range (blockState ty m).cur.n).filter (on (blockState ty m).cur 0) = [0] := by cases ty <;> cases m <;> decide +kernel
  rw [h]
  constructor <;> cases ty <;> cases m <;> decide +kernel
theorem wit_FormattedAndAtomics (ty : ElTy) (m w : Bool) : VReady (blockState ty m) [4] [1, 2] ∧ (blockState ty m).mstQueued = false ∧ NoMarks (blockState ty m) ∧
    (let s := blockState ty m;
     let start := s.cur.getS 4 + BitVec.ofInt 64 ((0#5).toInt * 64);
     let lit := (List.range s.cur.n).filter (on s.cur 0);
     s.cur.vty = ty ∧ s.cur.maint = m ∧ s.cur.frm ≠ .efb ∧ BlockPage s start w blockEntry .mx8a ∧ BlocksOk s start blockEntry .mx8a lit ∧ BlocksKnown s start blockEntry .mx8a lit) :=
  ⟨vready_blockState _ _ _ _, by cases ty <;> cases m <;> decide +kernel, rfl, rfl, rfl, by cases ty <;> cases m <;> decide +kernel, blockPage _ _ _, blocksOk _ _, fun i _ => by
    have h : (blockState ty m).hist = [] := by cases ty <;> cases m <;> decide +kernel
    exact ⟨fun x hx => by simp [h] at hx, fun x hx => by simp [h] at hx⟩⟩
theorem wit_CopyEngine_fault : let c := { copy0 .running with fault := some badRec };
    let s := copying c { Port.free with running := some 3 };
    let clear := (List.range c.desc.chunks).filter fun k => !c.done.contains k;
    let r : FaultRec := { badRec with chunkLow := clear.headD 0, chunkCount := clear.length, replay := false };
    s.copy? 3 = some c ∧ c.hold = [] ∧ c.bits = [] ∧ c.lost = [] ∧ c.desc.mapped = false ∧ c.replaying = false ∧ c.relDone = false ∧ c.delDone = false ∧ c.uid = s.cur.uid ∧ s.job? c.job = some job0 ∧ RingRoom s job0 r ∧ r.big = false :=
  ⟨by decide +kernel, rfl, rfl, rfl, by decide +kernel, rfl, rfl, rfl, by decide +kernel, by decide +kernel, ⟨by decide +kernel, by decide +kernel, by decide +kernel⟩, rfl⟩
theorem wit_ChainCommands_expired : let s := signalled 4 6 8 true;
    let c := chainOf 2 (cmdOf 4 [0xF000000000000000, 6, 8]) true;
    let cmd := cmdOf 4 [0xF000000000000000, 6, 8];
    RunsCmd s hdr 2 4 c cmd ∧ (recArg (s.recOf 1 cmd) 2).toNat < (s.jtimeOf c.job).toNat ∧ s.job? 1 = some job0 ∧
    RingRoom s job0 ⟨.copyFault, false, false, false, cmd.sid, cmd.pc, recArg (s.recOf 1 cmd) 0, 8, 0, 0, 0, 0, false, none, none⟩ :=
  ⟨runsCmd (by decide +kernel), by decide +kernel, by decide +kernel, by decide +kernel, by decide +kernel, by decide +kernel⟩
/-- The same with the job's key standing. -/
def regionedK : State := { regionedW with pkg := { regionedW.pkg with keys := [(5, ⟨true, false, 0⟩)] } }.setPeer (2 ^ 20 + 5) { Peer.zero with hasTable := true }
theorem wit_UePackets_placed : (let p := UePacket.write 5 1 7 504 .rud 0 false 33 0 1 false [1, 2, 3, 4, 5, 6, 7, 8];
      let h := (regionedK.ueHeard p).onCtx p fun c => { c with next := c.next + 1 };
      let x := h.uePlace (h.jobStrand 1) (pad + BitVec.ofNat 64 504) 0 1 false [1, 2, 3, 4, 5, 6, 7, 8];
      regionedK.ueDrops p = false ∧ regionedK.ueHolds p = false ∧ regionedK.regionFor 1 7 504 8 true = some ⟨7, pad, 512, 0, true, true⟩ ∧ x.2.toBool = true ∧ x.1.pkg = h.pkg) ∧
    (let p := UePacket.read 5 1 7 504 8 33;
      let h := (regionedK.ueHeard p).onCtx p fun c => { c with next := c.next + 1 };
      let x := h.ueFetch (h.jobStrand 1) (pad + BitVec.ofNat 64 504) 8;
      regionedK.ueDrops p = false ∧ regionedK.regionFor 1 7 504 8 false = some ⟨7, pad, 512, 0, true, true⟩ ∧ x.2.toBool = true ∧ x.1.pkg = h.pkg) ∧
    (let p := UePacket.write 5 1 7 505 .rud 0 false 33 0 1 false [1, 2, 3, 4, 5, 6, 7, 8];
      regionedK.ueDrops p = false ∧ regionedK.ueHolds p = false ∧ regionedK.regionFor 1 7 505 8 true = none) := by decide +kernel
theorem wit_UePackets_acked : let c := { copy0 .running with eng := .ue, out := [(0, 33)] };
    let s : State := { w0 with pkg := { w0.pkg with copies := [c] } };
    s.ueDrops (.ack 5 33) = false ∧ s.ueOwner 33 = some (c, 0) ∧ s.copy? c.id = some c ∧ c.out = [(0, 33)] ∧ c.bits = [] ∧ c.lost = [] := by decide +kernel
theorem wit_UePackets_order : let p := UePacket.write 5 1 7 504 .rod 0 false 33 1 1 false [1, 2, 3, 4, 5, 6, 7, 8];
    regionedK.ueDrops p = false ∧ 1 ≠ ((regionedK.ueCtx p).map (·.next)).getD 0 ∧ 4096 < 4097 := by decide +kernel
theorem wit_BarrierObjects_bind : let s := record [barRec, 0] 0;
    let x := (readAll s [4]).recWords (s.cur.getS 4) 2;
    recNum x / 2 ^ 96 % 2 = 0 ∧ x.1.childBars (barCluster (BitVec.ofNat 32 (recNum x))) (barObj (BitVec.ofNat 32 (recNum x))) = [] := by decide +kernel
/-- The same strand with a mask or a deadline in `s4`. -/
def barredAt (o : Barrier) (r : BReg) (v : Word) : State := { barred o r with cur := regs v 0 0 0 (barred o r).cur }
theorem staysOpen {s : State} {b : Barrier} (h : ¬ (b.members ≠ 0 ∧ b.arrived &&& b.members = b.members) ∧ b.dl = none) : StaysOpen s b := ⟨h.1, fun d hd => by rw [h.2] at hd; cases hd⟩
theorem isLone {s : State} {c o : Nat} (h : (s.bar c o).config = true ∧ (s.bar c o).parent = none ∧ s.childBars c o = [] ∧ (∀ r ∈ s.rings, ¬ (r.barrier = o ∧ r.cluster = c)) ∧ ∀ x ∈ s.strands, Resv.bar c o ∉ x.resv) : Lone s c o :=
  ⟨h.1, h.2.1, h.2.2.1, h.2.2.2.1, h.2.2.2.2⟩
theorem wit_BarrierObjects_drop : (let s := barredAt two (party1 4 false) 0;
      Ready s [4] ∧ Lone s 0 0 ∧ ~~~s.cur.getS 4 = BitVec.allOnes 64 ∧ StaysOpen s two) ∧
    (let s := barredAt { two with arrived := 1 } (party1 4 false) 2;
      let b := { two with arrived := 1, members := 1 };
      Ready s [4] ∧ Lone s 0 0 ∧ two.members &&& ~~~s.cur.getS 4 = 1 ∧ phaseFull b ∧ StaysOpen s (closedAs b true 0)) :=
  ⟨⟨ready _ (by decide +kernel) (by decide +kernel), isLone (by decide +kernel), by decide +kernel, staysOpen (by decide +kernel)⟩,
   ready _ (by decide +kernel) (by decide +kernel), isLone (by decide +kernel), by decide +kernel, by unfold phaseFull; decide +kernel, staysOpen (by decide +kernel)⟩
/-- Object 0 after party 1 has arrived. -/
def arrivedOne (o : Barrier) : Barrier := { o with arrived := o.arrived ||| 2, rels := w0.nextRel :: o.rels }
def full1 : Barrier := arrivedOne { two with arrived := 1 }
theorem wit_BarrierObjects_arrive : (let s := barredAt two (party1 4 false) 1;
      Ready s [4, 6] ∧ readAll s [4] = s ∧ s.cur.getB 2 = some (party1 4 false) ∧ (4#32 - (s.bar 0 0).phase).toInt = 0 ∧ ReleaseCalm s ∧ Lone s 0 0 ∧ (s.bar 0 0).job = s.cur.job ∧ s.cur.wait = none ∧
        s.jtime.toNat + s.cur.dlMax.toNat < 2 ^ 64 ∧ s.nextRel = w0.nextRel ∧ StaysOpen s (arrivedOne two) ∧ s.jtime.toNat < (s.cur.getS 4).toNat) ∧
    (let s := barredAt { two with arrived := 1 } (party1 4 false) 0;
      Ready s [4, 6] ∧ readAll s [4] = s ∧ ReleaseCalm s ∧ Lone s 0 0 ∧ phaseFull full1 ∧ StaysOpen s (closedAs full1 true 0)) ∧
    (let s := barredAt two (party1 5 false) 1;
      Ready s [4, 6] ∧ (5#32 - (s.bar 0 0).phase).toInt = 1 ∧ Lone s 0 0 ∧ StaysOpen s { two with early := 2, earlyRels := [s.nextRel] }) :=
  ⟨⟨ready _ (by decide +kernel) (by decide +kernel), rfl, by decide +kernel, by decide +kernel, ⟨by decide +kernel, by decide +kernel, by decide +kernel⟩, isLone (by decide +kernel), by decide +kernel, by decide +kernel, by decide +kernel, by decide +kernel,
      staysOpen (by decide +kernel), by decide +kernel⟩,
   ⟨ready _ (by decide +kernel) (by decide +kernel), rfl, ⟨by decide +kernel, by decide +kernel, by decide +kernel⟩, isLone (by decide +kernel), by unfold phaseFull; decide +kernel, staysOpen (by decide +kernel)⟩,
   ready _ (by decide +kernel) (by decide +kernel), by decide +kernel, isLone (by decide +kernel), staysOpen (by decide +kernel)⟩
theorem wit_BarrierPhases_closure : (let s := w0.setBar 0 0 { two with arrived := 3 };
      Lone s 0 0 ∧ phaseFull (s.bar 0 0) ∧ StaysOpen s (closedAs (s.bar 0 0) true 0)) ∧
    (let s := { w0.setBar 0 0 { two with arrived := 1, dl := some 5 } with gtime := 9 };
      let b := s.bar 0 0;
      Lone s 0 0 ∧ b.dl = some 5 ∧ (5#64).toNat < (s.jtimeOf b.job).toNat ∧ ¬ phaseFull b ∧ StaysOpen s (closedAs b false (b.members &&& ~~~b.arrived))) :=
  ⟨⟨isLone (by decide +kernel), by unfold phaseFull; decide +kernel, staysOpen (by decide +kernel)⟩, isLone (by decide +kernel), by decide +kernel, by decide +kernel, by unfold phaseFull; decide +kernel, staysOpen (by decide +kernel)⟩
theorem wit_Locks_mend : let s := locked 0x801 9 0x800;
    ∀ x ∈ ((readAll s [4, 5, 6]).lockCheck (s.cur.getS 4)).1.strands, Resv.lock (okOf noHit ((readAll s [4, 5, 6]).lockCheck (s.cur.getS 4))).loc ∉ x.resv := by decide +kernel
/-- The same beside another strand of the job. -/
def besides (s : State) : State := { s with rest := [{ w0.cur with uid := 77, sid := mkSid 0 0 1 }] }
theorem wit_Preemption_points : (let s := run (.parked 0) fun t => { t with pre := some .priority };
      ∀ w, s.cur.wait = some w → s.boundCome w = false) ∧
    (let s := besides (run (.parked 0) fun t => { t with pre := some .stop });
      s.cur.away = false ∧ s.cur.atPoint = true ∧ s.curFrozen = false ∧ s.cur.wait = none ∧ (∃ x ∈ s.rest, x.job = s.cur.job ∧ x.away = false) ∧ s.cur.job ≠ 0) ∧
    (let d := dueState .matQueue 0 (some (coded .matrixWaitExpired));
      let s := { d with cur := { d.cur with pre := some .priority } };
      Due s (waitOf .matQueue 0 (some (coded .matrixWaitExpired))) ∧ s.cur.run = .ready ∧ s.curFrozen = false) ∧
    (asked .priority).cur.fresh = true ∧
    (let s := besides (asked .stop);
      InSlot s ∧ s.cur.fresh = true ∧ s.cur.run = .ready ∧ (∃ x ∈ s.rest, x.job = s.cur.job ∧ x.away = false) ∧ s.cur.job ≠ 0) :=
  ⟨(fun x hx => by rw [show (run (.parked 0) fun t => { t with pre := some .priority }).cur.wait = none from rfl] at hx; cases hx), by decide +kernel, ⟨due (by decide +kernel), by decide +kernel, by decide +kernel⟩, by decide +kernel, inSlot (by decide +kernel), by decide +kernel⟩
theorem wit_Preemption_time (b : Bool) : ({ w0 with pkg := { w0.pkg with halted := b } } : State).pkg.halted = b := rfl
theorem wit_Preemption_wait : (let d := dueState .matQueue 0 (some (coded .matrixWaitExpired));
      ({ d with cur := { d.cur with pre := some .priority } } : State).cur.preAge < 65536) ∧
    (let s := run (.parked 0) fun t => { t with pre := some .gang, task := true };
      s.cur.away = false ∧ s.cur.pre = some .gang ∧ s.cur.preAge < 65536 ∧ s.cur.atPoint = true ∧ s.curFrozen = false ∧ s.cur.task = true ∧ s.cur.wait = none) := by decide +kernel
theorem wit_Preemption_hold (p : Policy) : let s := besides { run (.held 3 0) id with jobs := [jobUnder p] };
    InSlot s ∧ s.cur.run = .held 3 0 ∧ s.cur.dlMax.toNat < (s.jtime - 0).toNat ∧ s.job? s.cur.job = some (jobUnder p) ∧ (jobUnder p).slate.st = .running ∧ s.devGet (s.recPa (jobUnder p) 3) 1 ≠ FaultCode.keyRevoked.num ∧
    (jobUnder p).rec_.policy = p ∧ (jobUnder p).stopReq = none ∧ (∃ x ∈ s.rest, x.job = s.cur.job ∧ x.away = false) ∧ s.cur.job ≠ 0 := by
  cases p <;> exact ⟨inSlot (by decide +kernel), by decide +kernel⟩
theorem wit_Tasks_room : (w (regs codeVa 0 0 0)).myTaskQ.records + (w (regs codeVa 0 0 0)).roomKept < 65536 ∧ (∀ j, w0.job? w0.cur.job = some j → j.stopReq = none) := by
  refine ⟨by decide +kernel, fun j hj => ?_⟩
  rw [show w0.job? w0.cur.job = some job0 from by decide +kernel] at hj
  cases hj; decide +kernel
/-- The same queue with a record in the scratchpad of its core. -/
def padTasked : State := w0.setTaskQ 0 1 ⟨[⟨pad, [], false, none⟩], false⟩
theorem wit_Scheduling_task : IdleSlot padTasked 0 3 job0 ∧ padTasked.nextItem (padTasked.taskQ 0 1) (mkSid 0 0 3) = some ⟨pad, [], false, none⟩ ∧ (∀ x ∈ padTasked.strands, x.uid ≠ padTasked.ticket) ∧ padTasked.roots = [] ∧
    pad.toNat / 2 ^ 56 = 0xF0 ∧ pad.toNat % 2 ^ 56 + 16 ≤ 2 ^ 21 ∧ pad.toNat % 8 = 0 ∧ padTasked.poisoned (scratchLoc 0 0) 16 = false ∧ padTasked.hist = [] :=
  ⟨idleSlot (by decide +kernel), by decide +kernel⟩
theorem wit_GangsAndEnds_more : (let s := lone fun j => { j with gang := .resuming 9, gangReady := [(0, 9)], gangStops := [(0, 5)] };
      ∀ j, s.job? 1 = some j → (∀ p ∈ s.jobPkgs j, ∃ r ∈ j.gangReady, r.1 = p) ∧ (j.gangReady.map fun r => r.2.toNat).foldl Nat.max 0 ≤ s.gtime.toNat) ∧
    (let x := { job2 with places := [⟨0, [0], [0]⟩], bindable := [0] };
      let s := { w0 with jobs := [job0, x] };
      s.job? 1 = some job0 ∧ job0.cores ≠ [] ∧ s.isVictim job0 = true ∧ x.waiting = true ∧ job0.eff < x.effNow s.gtime ∧ s.fitsFree x = false) ∧
    (let k := { job0 with multi := true };
      let s := { w0 with jobs := [k], pkg := { w0.pkg with ctlIn := [.gang 1] } };
      s.job? 1 = some k ∧ k.gang = .none ∧ k.slate.st = .running ∧ s.pkg.ctlIn.find? (Ctl.ofGang 1) = some (.gang 1) ∧ s.cyanUp 2 = true) :=
  ⟨by
    have h : (lone fun j => { j with gang := .resuming 9, gangReady := [(0, 9)], gangStops := [(0, 5)] }).job? 1 = some { job0 with gang := .resuming 9, gangReady := [(0, 9)], gangStops := [(0, 5)] } := by decide +kernel
    intro s j hj
    rw [h] at hj; cases hj; decide +kernel, by decide +kernel, by decide +kernel⟩
theorem wit_Commands_cancel : (withCmd w0 (commandOf 3 [1] false)).job? 1 = some job0 ∧ cmdJob 3 (commandOf 3 [1] false).payload = 1 ∧ job0.stopReq = none ∧ job0.gang = .none ∧ (∃ x ∈ w0.strands, x.job = 1 ∧ x.away = false) ∧
    (∀ x ∈ (withCmd (lone id) (commandOf 3 [1] false)).strands, x.job = 1 → x.away = true) ∧ (withCmd (lone id) (commandOf 3 [1] false)).job? 1 = some job0 := by decide +kernel
theorem wit_Commands_ack : let c := commandOf 2 [2, 0x100000, 0, 0, 7, 0x400000] true;
    let s := withCmd w0 c;
    s.cmd? 1 2 = some c ∧ c.busy = true ∧ s.underWay (s.rootJobs (recField c.payload 8 8)) = false ∧ recField c.payload 40 8 = 0x400000 ∧ isHbm 0x400000 = true ∧
    (0x400008 ≤ s.journalPa c.seq ∨ s.journalPa c.seq + 64 ≤ 0x400000) ∧ (0x400008 ≤ s.winPa 0x2000008 ∨ s.winPa 0x2000008 + 8 ≤ 0x400000) := by decide +kernel
theorem wit_SlateWave_control : (let k := { job0 with multi := true };
      let s := { w0 with jobs := [k], pkg := { w0.pkg with ctlIn := [.wave 1 cause0] } };
      s.job? 1 = some k ∧ k.slate.st = .running ∧ s.cyanUp 2 = true ∧ s.pkg.ctlIn.contains (.wave 1 cause0) = true) ∧
    (let s := told (frozen0 true) (.resume 1 5 6);
      s.job? 1 = some (frozenJob true) ∧ (frozenJob true).slate.st = .frozen ∧ s.cyanUp 2 = true ∧ s.pkg.ctlIn.contains (.resume 1 5 6) = true) ∧
    (let j := { job0 with slate := { job0.slate with st := .resuming, resumeAt := some 9 } };
      let s := lone fun _ => j;
      j.gang = .none ∧ (∀ x ∈ s.strands, x.brkDone = true → x.pre = none) ∧ (∀ x ∈ s.strands, x.job ≠ 1)) ∧
    (frozenJob false).stopReq = none ∧ (frozenJob false).gang = .none := by decide +kernel
theorem wit_SlateWave_step : let s := withCmd (frozen0 true) (debugOf 2);
    cmdJob 4 (debugOf 2).payload = 1 ∧ s.strand? (BitVec.ofNat 32 (recField (debugOf 2).payload 8 4)) = some s.cur ∧ s.cur.job = 1 ∧ s.cur.starting = false ∧ s.cur.wait = none ∧ (∀ y ∈ s.strands, y.uid = s.cur.uid → y = s.cur) ∧ (debugOf 2).busy = false := by decide +kernel
theorem wit_PagingAndErrors_walk : (let va : Word := BitVec.ofNat 64 secondVa;
      va.toNat = secondVa ∧ isUnused va = false ∧ isNear va = false ∧ (leafed fullLeaf []).job? 1 = some job0 ∧ ((leafed fullLeaf []).boundClusters 1).contains 0 = true ∧ job0.rec_.root = 0x100000 ∧ job0.rec_.key = 5) ∧
    Unknown (leafed fullLeaf []) 0 none 0x100000 secondVa true ∧ (w0.translate 0 none 0x100000 5 (needOf .load) 0x200000000).2.toBool = false ∧ w0.job? 1 = some job0 :=
  ⟨by decide +kernel, unknown (by decide +kernel), by decide +kernel, by decide +kernel⟩
theorem wit_HomeRequests_clear : let p := chunkP 0x400040;
    let s := (arrived p).poke 5 0x400040 [0, 0, 0, 0, 0, 0, 0, 0];
    FirstSeen s p 6 ∧ (withoutPkt s p).peerCheck 7 p 0x400000 64 = none ∧ (withoutPkt s p).peerCheck 7 p 0x400040 8 = none ∧ p.map ≠ 0 ∧ s.poisoned 0x400040 8 = false ∧ s.bitSet 5 0x400040 5 = false ∧ s.heldOf p = [] ∧ p.op = 0 ∧ p.data ≠ [] ∧ (chunkP 0).data ≠ [] :=
  ⟨firstSeen (by decide +kernel), by decide +kernel⟩
theorem wit_HomeRequests_branch : let a := withoutPkt (arrived mcP) mcP;
    let x := a.engReach (a.jobStrand 1) mcP.map 8 { needOf .copyDst with localOnly := true };
    mcP.map ≠ 0 ∧ mcP.data ≠ [] ∧ x.1.heldOf mcP = [] := by decide +kernel
/-- No copy, lock or claim of this package stands in the way of the requests above. -/
theorem wit_HomeRequests_calm : (arrived readP).partOut 0x400000 64 = false ∧ (arrived (farP 1)).partOut 0x400000 1 = false ∧ (arrived (atomicP 0 (bytesOfNat 8 1))).atomWaits 0x400000 8 = false ∧ (arrived combP).atomWaits 0x400000 8 = false ∧
    mapped.claimed 0x400040 5 none = false ∧ mapped.heldBroken (chunkP 0x400040) = false ∧ ((arrived readP).setPeer 7 { Peer.zero with replies := [(9, packet 2 0 [1])] }).partOut 0x400000 64 = false := by decide +kernel
/-- The current strand's request of a kind to package 7, waited for, its wait's record of an access kind, and a refusal. -/
def refused (kind acc : Nat) : State := (answered kind (packet 11 0x50 [])).onCur fun t => { t with wait := some ⟨.remote 0, 0, 6, none, false, 0, some (plainRec w0 .fabricUnreachable 0 acc 0)⟩ }
/-- A multicast copy of the demo strand, halted with its job or not, chunk 0 of it on its way to package 7. -/
def mcast0 : Copy := { copy0 .running with id := 3 }
def branched (froze : Bool) (p : Packet) : State :=
  let s : State := { w0 with gtime := 100000, jobs := [if froze then frozenJob false else job0], pkg := { w0.pkg with copies := [mcast0], branches := [⟨7, 3, 0, 0, false⟩], arrived := [p] } }
  s.setPeer 7 { Peer.zero with hasTable := true, unacked := [{ askedP 7 1 with who := some (.copy 3), elem := 0 }] }
theorem wit_PeerAnswers_refused (kind acc : Nat) (h : kind = 1 ∧ acc = 2 ∨ kind = 1 ∧ acc = 6 ∨ kind = 4 ∧ acc = 4) : Answers (refused kind acc) (packet 11 0x50 []) 11 [kind] (askedP kind 1) ∧ (packet 11 0x50 []).op ≠ 0 ∧ (codeOfNum 0x50).isSome = true ∧
    (askedP kind 1).who = some (.strand (refused kind acc).cur.uid) ∧ (∃ x f, (refused kind acc).cur.wait = some x ∧ x.expiry = some f ∧ f.kind = acc) ∧ (refused kind acc).cur.vamoTodo = none := by
  obtain ⟨rfl, rfl⟩ | ⟨rfl, rfl⟩ | ⟨rfl, rfl⟩ := h <;> exact ⟨answers (by decide +kernel), by decide, by decide +kernel, by decide +kernel, ⟨_, _, rfl, rfl, rfl⟩, by decide +kernel⟩
theorem wit_PeerAnswers_branch (froze : Bool) : let p := packet 11 0 [];
    let s := branched froze p;
    let u : Unacked := { askedP 7 1 with who := some (.copy 3), elem := 0 };
    p.kind = 11 ∧ p.op = 0 ∧ s.pkg.arrived.contains p = true ∧ s.unackedOf 7 9 = some u ∧ u.pkt.kind = 7 ∧ mcast0.desc.elems 0 ≠ [] ∧ s.copy? 3 = some mcast0 ∧ s.engineRuns mcast0.job = !froze ∧
    (⟨7, 3, 0, 0, false⟩ : Branch) ∈ s.pkg.branches ∧ (0#64).toNat + 100000 ≤ s.gtime.toNat := by cases froze <;> decide +kernel
theorem wit_PeerAnswers_sends (n : Nat) (h : n = 0 ∨ n = 8) : let u : Unacked := { askedP 3 n with pkt := { (askedP 3 n).pkt with job := 9 } };
    let s := { w0 with gtime := 20000 }.setPeer 7 { Peer.zero with hasTable := true, unacked := [u] };
    s.unackedOf 7 9 = some u ∧ s.job? u.pkt.job = none ∧ u.at_.toNat + 20000 ≤ s.gtime.toNat ∧ u.sends = n := by
  obtain rfl | rfl := h <;> decide +kernel
theorem wit_SliceLaunches_calm : (told (launched id 0) (.accept 7 1 job0.rec_.digest 5)).cyanUp 2 = true ∧ (launched id 20000).lockLong = false ∧
    (let s := { launched id 10000000 with pkg := { w0.pkg with lockLost := some 0 } };
      s.lockLong = true ∧ s.job? 1 = some launchJob ∧ launchJob.pending = true) :=
  ⟨by decide +kernel, by decide +kernel, by decide +kernel, aloneJob rfl (by decide +kernel) (by decide +kernel), by decide +kernel⟩
theorem wit_MemoryWrites_logged : let s := { w0 with poison := [(0x400000 / 8, true)] };
    s.poisoned 0x400000 4 = true ∧ (s.errUnit 0x400000).isSome = true ∧ 0x400000 % 8 + 4 ≤ 8 := by decide +kernel
theorem wit_StepRunsDecoded_due : (asked .priority).agenda = [] ∧ (asked .priority).settled.pkg.halted = false ∧ (asked .priority).settled.canIssue (asked .priority).settled.cur = true ∧ (asked .priority).settled.overrunDue = true ∧
    (let s := { w0 with agenda := [.event (.packageReset [] [] [] [] [] [])], pkg := { w0.pkg with halted := true } };
      s.agenda = .event (.packageReset [] [] [] [] [] []) :: [] ∧ s.pkg.halted = true) := by decide +kernel

/-- The job's placement, and a slot the placement names. -/
theorem wit_Scheduling_places : let s := queuedJob ⟨none, none, 5, false⟩;
    (2 : BitVec 32) ≠ 0 ∧ (job2.places = [] ∨ 1 ∈ job2.bindable) ∧ (s.placementOf job2).find? (fun p => decide (p.core = 1)) = some ⟨1, [0], [0]⟩ ∧ (0 : Nat) ∈ (⟨1, [0], [0]⟩ : Placement).slots := by decide +kernel
/-- A job saved from core 0 with a byte of its scratchpad, a barrier and a lineage table, a strand of it away. -/
def savedJob : Job := { job0 with gang := .saved [⟨0, Matrix.scrubbed, [(scratchLoc 0 0, 9)], [], [], []⟩] ⟨[(0, 1, two)], [], [(0, [])]⟩ }
def savedState : State := ({ w0 with jobs := [savedJob], cur := { w0.cur with away := true } } : State).onCore 0 fun c => { c with lease := ⟨none, none, 5, false⟩ }
theorem wit_GangsAndEnds_saved : savedState.job? 1 = some savedJob ∧ savedState.cobaltUp = true ∧ savedJob.stopReq = none ∧ savedJob.slate.st = .running ∧ (∀ x ∈ savedState.jobs, x.id ≠ 1 → x.servedBefore savedJob savedState.gtime = false) ∧
    savedState.coreFree 0 = true ∧ (savedState.core 0).lease.key = savedJob.rec_.key ∧ ownPlace 0 (scratchLoc 0 0) = true ∧ ownPlace 0 0x400000 = false ∧ (∃ x ∈ savedState.strands, x.job = 1 ∧ x.away = true) ∧
    ([(scratchLoc 0 0, (9 : Byte))].map Prod.fst).Nodup := by decide +kernel
theorem wit_Commands_launch : let c := commandOf 1 [2] false;
    let s := withCmd w0 c;
    s.cmd? 1 1 = some c ∧ s.cobaltUp = true ∧ (launchOf c.payload).job = 2 ∧ s.job? 2 = none ∧ s.earlyAccepts 2 = [] := by decide +kernel
theorem wit_SlateWave_reports : let s := { w0 with pkg := { w0.pkg with ctlIn := [.frozen 0 1 5 cause0] } };
    s.cyanUp 2 = true ∧ s.pkg.ctlIn.contains (.frozen 0 1 5 cause0) = true ∧ s.job? 1 = some job0 := by decide +kernel
theorem wit_SlateWave_at_home : let s := withCmd (frozen0 true) (debugOf 2);
    ∀ x, s.strand? (BitVec.ofNat 32 (recField (debugOf 2).payload 8 4)) = some x → ∀ v, x.wait = some v → v.obj.atHome = false := by
  intro s x hx v hv
  rw [show s.strand? (BitVec.ofNat 32 (recField (debugOf 2).payload 8 4)) = some w0.cur from by decide +kernel] at hx
  cases hx
  rw [show w0.cur.wait = none from by decide +kernel] at hv
  cases hv
/-- Two records open, the second for the page after `codeVa`, whose entry is valid. -/
theorem wit_PagingEvents_valid : let s := (twoPosted 0x10).poke 0 0x10C008 (bytesOfNat 8 fullLeaf.toNat);
    let old := s.entryAt 0x10C008 0;
    ToService s 1 job0 1 ∧ s.devGet (s.recPa job0 1) 1 = 0x10 ∧ s.fqPaging job0 = true ∧
    (s.leafEntries job0.rec_.root (s.devGet (s.recPa job0 1 + 24) 8)).find? (fun x => decide (x.1 = 0x10C008)) = some (0x10C008, 2 ^ 18) ∧ isHbm 0x10C008 = true ∧
    eV old = true ∧ ¬ (eV 0#64 = true ∧ eKind 0#64 = eKind old ∧ eFrame 0#64 = eFrame old) := ⟨toService (by decide +kernel), by decide +kernel⟩
/-- Data for a frame that is apart from the ring and its header. -/
theorem wit_PagingEvents_data : let f := eFrame 0x005000000084003F * 2 ^ 18;
    (twoPosted 0x10).fqBase job0 + (twoPosted 0x10).fqCap job0 * 64 ≤ f ∧ job0.rec_.fq + 48 ≤ f := by decide +kernel
theorem wit_ResetAndBoot_units : (let s := { State.reset with dies := State.reset.dies.set Die.reset 0 { State.reset.die 0 with errlog := [⟨6, 0x1000, true⟩] } };
      (s.die 0).sliceLogged 3 = true ∧ (s.die 0).sliceLogged 4 = false) ∧ State.reset.cobaltUp = true ∧ (5 : Nat) < 6 := by decide +kernel
theorem wit_HostMemory_reads : State.reset.hostWaits 56 8 = false ∧ State.reset.hostWaits 0x2011000 8 = false ∧ State.reset.sable = [] := by decide +kernel
theorem wit_HostAnswers_calm : (hosted [hreq none false] none).bitOut (2 ^ 64 + 0x3000) 2 = false ∧ w0.cyanUp 4 = true := by decide +kernel
theorem wit_Security_up : (keyed 1).cobaltUp = true ∧ ({ keyed 1 with pkg := { (keyed 1).pkg with fatal := true } } : State).cobaltUp = false ∧ (keyed 1).pkg.leaving = [] := by decide +kernel
theorem wit_PeerAnswers_calm : (answered 1 (packet 2 0 [1])).bitOut (peerLoc 7 0x400000) (askedP 1 1).pkt.len = false ∧ (answered 1 { packet 2 0 [1] with flags := 1 }).bitOut (peerLoc 7 0x400000) (askedP 1 1).pkt.len = false ∧
    (askedP 1 1).pkt.addr.toNat = 0x400000 := by decide +kernel
/-- A cached leaf of the access's own core and one of another core of the cluster. -/
theorem wit_Translation_served : let u : TlbEntry := ⟨0, some 0, 0x100000, secondVa / 2 ^ 18, false, fullLeaf, true⟩;
    ({ w0 with tlb := [u] } : State).tlbFind 0 u.core 0x100000 secondVa true = some u := by decide +kernel
theorem wit_Links_retry : 16 ≤ ((linked.link 16).acked 3).replays ∧ ((linked.link 17).acked 4095).replays < 16 := by decide +kernel

/-! Single steps. The expected values are worked out by hand from the rules named, or are the manual's own worked cases. -/

/-- What an instruction writes to `s8`, with `s4` and `s5` given. -/
def scal (i : Instr) (a b : Word) : Word := (after i (w (regs a b 0 0))).cur.getS 8
theorem test_add_wraps : scal (.add 8 4 5) 0xFFFFFFFFFFFFFFFF 2 = 1 := by decide +kernel
theorem test_mulh_signs : scal (.mulh 8 4 5) 0xFFFFFFFFFFFFFFFF 1 = 0xFFFFFFFFFFFFFFFF ∧ scal (.mulhz 8 4 5) 0xFFFFFFFFFFFFFFFF 0xFFFFFFFFFFFFFFFF = 0xFFFFFFFFFFFFFFFE := by decide +kernel
theorem test_div_corners : scal (.div 8 4 5) 7 0 = 0xFFFFFFFFFFFFFFFF ∧ scal (.div 8 4 5) 0x8000000000000000 0xFFFFFFFFFFFFFFFF = 0x8000000000000000 ∧ scal (.div 8 4 5) 0xFFFFFFFFFFFFFFF9 2 = 0xFFFFFFFFFFFFFFFD := by decide +kernel
theorem test_rem_corners : scal (.rem 8 4 5) 7 0 = 7 ∧ scal (.rem 8 4 5) 0x8000000000000000 0xFFFFFFFFFFFFFFFF = 0 ∧ scal (.rem 8 4 5) 0xFFFFFFFFFFFFFFF9 2 = 0xFFFFFFFFFFFFFFFF := by decide +kernel
theorem test_shift_amount : scal (.sra 8 4 5) 0x8000000000000000 0x7F = 0xFFFFFFFFFFFFFFFF ∧ scal (.srl 8 4 5) 0x8000000000000000 0x7F = 1 := by decide +kernel
theorem test_compare_signs : scal (.slt 8 4 5) 0xFFFFFFFFFFFFFFFF 1 = 1 ∧ scal (.sltz 8 4 5) 0xFFFFFFFFFFFFFFFF 1 = 0 ∧ scal (.sltiz 8 4 0xFFF) 5 0 = 1 := by decide +kernel
theorem test_counts : scal (.clz 8 4) 0 0 = 64 ∧ scal (.ctz 8 4) 0x10 0 = 4 ∧ scal (.bswap 8 4) 0x0102030405060708 0 = 0x0807060504030201 := by decide +kernel
theorem test_zero_register : (after (.addi 0 4 1) (w (regs 5 0 0 0))).cur.getS 0 = 0 := by decide +kernel
theorem test_branch_unsigned : (after (.bltz 4 5 (-2)) (w (regs 1 0xFFFFFFFFFFFFFFFF 0 0))).cur.pc = codeVa - 8 ∧ (after (.blt 4 5 (-2)) (w (regs 1 0xFFFFFFFFFFFFFFFF 0 0))).cur.pc = codeVa + 4 := by decide +kernel
theorem test_jalr_same_register : (after (.jalr 4 4 7) (w (regs (codeVa + 0x100) 0 0 0))).cur.pc = codeVa + 0x104 ∧ (after (.jalr 4 4 7) (w (regs (codeVa + 0x100) 0 0 0))).cur.getS 4 = codeVa + 4 := by decide +kernel
/-- The scratchpad's first bytes, `s4` at them. -/
def bytes (l : List Byte) : State := { w0.poke 0 (scratchLoc 0 0) l with cur := regs pad 0 0 0 w0.cur }
theorem test_load_signs : (after (.ldB 8 4 1) (bytes [0, 0x80])).cur.getS 8 = 0xFFFFFFFFFFFFFF80 ∧ (after (.ldBz 8 4 1) (bytes [0, 0x80])).cur.getS 8 = 0x80 ∧ (after (.ldW 8 4 0) (bytes [1, 2, 3, 4])).cur.getS 8 = 0x04030201 := by decide +kernel
theorem test_store_bytes : (after (.ldD 8 4 0) (after (.stH 4 5 6) { bytes [1, 2, 3, 4, 5, 6, 7, 8, 9] with cur := regs pad 0xABCD 0 0 w0.cur })).cur.getS 8 = 0xABCD060504030201 := by decide +kernel
/-- The record in the fault queue (R105): the code, the PC, the address, the access kind. -/
theorem test_load_misaligned : let s := after (.ldW 8 4 2) (bytes [1]);
    s.devGet 0x201000 1 = 3 ∧ s.devGet 0x201010 8 = 0x100000000 ∧ s.devGet 0x201018 8 = 0xF000000000000002 ∧ s.devGet 0x201020 1 = 2 := by decide +kernel
/-- R164, R168: the old value of a word is sign-extended; `amocas` compares with the destination's old value. -/
theorem test_atomic_old : (after (.amoaddW 8 4 5 0 0 0) (bytes [0xFF, 0xFF, 0xFF, 0xFF])).cur.getS 8 = 0xFFFFFFFFFFFFFFFF := by decide +kernel
theorem test_amocas : (after (.amocasD 6 4 5 0 0 0) { bytes [7] with cur := regs pad 9 7 0 w0.cur }).mem.get memDefault (scratchLoc 0 0) = 9 ∧ (after (.amocasD 6 4 5 0 0 0) { bytes [7] with cur := regs pad 9 8 0 w0.cur }).mem.get memDefault (scratchLoc 0 0) = 7 := by decide +kernel
/-- `v1`, `v2` and `v3` at a type; every position active. -/
def vec (ty : ElTy) (a b c : Nat) : State := w fun t => { (((t.setV 1 (BitVec.ofNat _ a)).setV 2 (BitVec.ofNat _ b)).setV 3 (BitVec.ofNat _ c)).setK 0 7 with vty := ty }
/-- The low bits of `v3` after an instruction, mask `k0` leaving elements 0 to 2 active. -/
def vres (i : Instr) (n : Nat) (s : State) : Nat := ((after i s).cur.getV 3).toNat % 2 ^ n
theorem test_vadd_wraps : vres (.vadd 3 1 2 0) 16 (vec .i8 0x00FF 0x0001 0) = 0 := by decide +kernel
theorem test_vadd_mask : vres (.vadd 3 1 2 0) 32 (vec .i8 0x01010101 0 0x55000000) = 0x55010101 := by decide +kernel
theorem test_vmulh : vres (.vmulh 3 1 2 0) 16 (vec .i8 0xFF80 0x0180 0) = 0xFF40 := by decide +kernel
theorem test_vsra_z : vres (.vsra 3 1 2 0) 8 (vec .z8 0x80 0x09 0) = 0xC0 := by decide +kernel
theorem test_vdiv_corner : vres (.vdiv 3 1 2 0) 16 (vec .i8 0x0580 0x00FF 0) = 0xFF80 := by decide +kernel
theorem test_vadd_f32 : vres (.vadd 3 1 2 0) 32 (vec .f32 0x3F800000 0x40200000 0) = 0x40600000 := by decide +kernel
/-- The scalar form's worked case (R141): `s5` is 1.0; 2.0 + 1.0 is 3.0. -/
theorem test_vaddS_worked : vres (.vaddS 3 1 5 0) 32 ((vec .f32 0x40000000 0 0).onCur fun t => t.setS 5 0x3F800000) = 0x40400000 := by decide +kernel
/-- One rounding: 1 + 2^-12 squared is 1 + 2^-11 + 2^-24; less 1 + 2^-11 it leaves 2^-24. -/
theorem test_vmac_rounds_once : vres (.vmac 3 1 2 0) 32 (vec .f32 0x3F800800 0x3F800800 0xBF801000) = 0x33800000 := by decide +kernel
/-- The worked case of the chained rounding: elements 0 and 1 of 1.00390625 give 1.0 and 1.0078125. -/
theorem test_vcvt_efb_worked : vres (.vcvt 3 1 0 8 5) 32 (vec .bf16 (0x3F808000 + 0x3F808000 * 2 ^ 32 + 0x3F808000 * 2 ^ 64) 0 0) = 0x3F813F80 := by decide +kernel
/-- R107: a widening conversion sign-extends its signed source, saturating or not. -/
theorem test_vcvtSat_widens : vres (.vcvtSat 3 1 0 0 0) 16 (vec .z16 0xFF 0 0) = 0xFFFF ∧ (after (.vcvtSat 3 1 0 0 0) (vec .z16 0xFF 0 0)).cur.fflags = 0 := by decide +kernel
theorem test_vcvt_efb_residual : (after (.vcvt 3 1 0 8 5) (vec .bf16 (0x3F808000 + 0x3F808000 * 2 ^ 32 + 0x3F808000 * 2 ^ 64) 0 0)).cur.efr = 0x3B800000 := by decide +kernel
/-- The worked case of `strip` (R140), its word as the manual gives it, run as the next step: 4 lane groups, 100 left. -/
def stripped : State := stepped (({ w (fun t => { t.setS 4 100 with vty := .f32, grant := 0xF }) with cores := w0.cores } : State).withFetchWord 32 0x00121C5F)
theorem test_strip_worked : stripped.cur.getS 24 = 64 ∧ stripped.cur.getK 1 = BitVec.ofNat _ (2 ^ 64 - 1) := by decide +kernel
theorem test_vmac_words : decode 0x19482357 = .ok (.vmac 6 4 5 2) ∧ decode 0x19482377 = .ok (.vmacS 6 4 5 2) ∧ decode 0x2915F207 = .ok (.vldseg 4 10 5 31 4) := by decide +kernel
theorem test_vclt_signs : (after (.vclt 1 1 2 31) (vec .i8 0x00FF 0x0101 0)).cur.getK 1 &&& 3 = 3 ∧ (after (.vcltz 1 1 2 31) (vec .i8 0x00FF 0x0101 0)).cur.getK 1 &&& 3 = 2 := by decide +kernel
theorem test_kwhile_exact : (after (.kwhile 1 4 5) ((vec .i8 0 0 0).onCur fun t => regs 0x7FFFFFFFFFFFFFFE 0x7FFFFFFFFFFFFFFF 0 0 t)).cur.getK 1 = 1 := by decide +kernel
theorem test_vslup : vres (.vslup 3 1 5 0) 24 ((vec .i8 0x030201 0 0xFFFFFF).onCur fun t => t.setS 5 1) = 0x020100 := by decide +kernel
theorem test_vcmprs : vres (.vcmprs 3 1 1) 32 ((vec .i8 0x04030201 0 0xFFFFFFFF).onCur fun t => t.setK 1 0b1010) = 0x0402 := by decide +kernel
theorem test_vunzpe : vres (.vunzpe 3 1 2 0) 24 (vec .i8 0x0504030201 0 0) = 0x050301 := by decide +kernel
/-- The sum of three elements of -1 is -3, as a queued result that the next read of `s8` waits for. -/
theorem test_vrsum : (after (.vrsum 8 1 0) (vec .i8 0xFFFFFF 0 0)).cur.vq = [⟨8, 0xFFFFFFFFFFFFFFFD⟩] := by decide +kernel
theorem test_vext_signs : (after (.vext 8 1 5) ((vec .i16 0x80000001 0 0).onCur fun t => t.setS 5 1)).cur.vq = [⟨8, 0xFFFFFFFFFFFF8000⟩] := by decide +kernel
/-- The worked case of `vldseg3.z8` (R157): field bytes 10, FF, 80 give 16, 255, 128 at `.i32`. -/
theorem test_vldseg_worked : let t := (after (.vldseg 4 4 5 0 4) ((bytes [0x10, 0xFF, 0x80]).onCur fun t => { t.setK 0 1 with vty := .i32 })).cur;
    (t.getV 4).toNat % 2 ^ 32 = 16 ∧ (t.getV 5).toNat % 2 ^ 32 = 255 ∧ (t.getV 6).toNat % 2 ^ 32 = 128 := by decide +kernel
theorem test_vst_bytes : (after (.ldHz 8 4 0) (after (.vst 3 4 0 0) ((vec .i16 0 0 0xBBAA).onCur fun t => (t.setS 4 pad).setK 0 1))).cur.getS 8 = 0xBBAA := by decide +kernel
theorem test_loop_back : (stepped (({ w (fun t => { t with loops := [⟨2, 0, codeVa, codeVa⟩] }) with cores := w0.cores } : State).withFetchWord 32 0x13)).cur.loops = [⟨2, 1, codeVa, codeVa⟩] := by decide +kernel
theorem test_tbud_clamped : (after (.setc 4 0x030) (w (regs 0xFFFFFFFFFFFFFFFF 0 0 0))).cur.tbud = 1048576 := by decide +kernel
theorem test_illegal_word : let s := stepped (w0.withFetchWord 32 0x1000);
    s.devGet 0x201000 1 = 1 ∧ s.devGet 0x201010 8 = 0x100000000 ∧ s.devGet 0x201018 8 = 0x1000 := by decide +kernel
theorem test_step_runs_word : (stepped (w0.withFetchWord 32 0x00628233)).cur.pc = codeVa + 4 := by decide +kernel
theorem test_first_step_after_reset : (stepped (State.reset.withFetchWord 32 0x00500213)).cur.getS 4 = 5 := by decide +kernel

end Sys2Proof.Tests
end

section
/-! Memory keeps its canonical form under every instruction, every event and every step (R8, R268). -/

namespace Sys2Proof.Machine

/-! Every step keeps memory in its canonical form (R8, R268). -/

/-- Where an outcome is a next state, that state has memory in its canonical form. -/
def KeepsForm (r : Result) : Prop := ∀ t, r = .next t → t.MemOk

theorem keepsForm_next {s : State} (h : s.MemOk) : KeepsForm (.next s) := by
  rintro t ⟨⟩; exact h

theorem keepsForm_fault (f : Fault) : KeepsForm (.fault f) := by
  rintro t ⟨⟩

theorem keepsForm_ite {c : Prop} [Decidable c] {a b : Result} (ha : KeepsForm a) (hb : KeepsForm b) : KeepsForm (if c then a else b) := by
  split
  · exact ha
  · exact hb

/-- What leaves memory alone keeps its form. -/
theorem keepsForm_of_mem {s : State} {r : Result} (hs : s.MemOk) (h : ∀ t, r = .next t → t.mem = s.mem) : KeepsForm r :=
  fun t ht => State.memOk_of_mem (h t ht) hs

theorem State.indigoDue_wf (s : State) (h : s.MemOk) : s.indigoDue.MemOk :=
  foldl_wf _ (fun a c ha => a.indigoEnd_wf c.hdr ha) _ _ h

/-- Every row of the opcode table, by the law of its own operation: most change memory through operations that keep the form, the others leave memory alone. -/
theorem exec_keepsForm (i : Instr) (s : State) (hs : s.MemOk) : KeepsForm (exec i s) := by
  cases i with
  | add => exact execAdd_wf _ _ _ s hs
  | sll => exact execSll_wf _ _ _ s hs
  | slt => exact execSlt_wf _ _ _ s hs
  | sltz => exact execSltz_wf _ _ _ s hs
  | xor => exact execXor_wf _ _ _ s hs
  | srl => exact execSrl_wf _ _ _ s hs
  | or => exact execOr_wf _ _ _ s hs
  | and => exact execAnd_wf _ _ _ s hs
  | sub => exact execSub_wf _ _ _ s hs
  | sra => exact execSra_wf _ _ _ s hs
  | mul => exact execMul_wf _ _ _ s hs
  | mulh => exact execMulh_wf _ _ _ s hs
  | mulhz => exact execMulhz_wf _ _ _ s hs
  | div => exact execDiv_wf _ _ _ s hs
  | divz => exact execDivz_wf _ _ _ s hs
  | rem => exact execRem_wf _ _ _ s hs
  | remz => exact execRemz_wf _ _ _ s hs
  | min => exact execMin_wf _ _ _ s hs
  | max => exact execMax_wf _ _ _ s hs
  | minz => exact execMinz_wf _ _ _ s hs
  | maxz => exact execMaxz_wf _ _ _ s hs
  | clz => exact execClz_wf _ _ s hs
  | ctz => exact execCtz_wf _ _ s hs
  | popc => exact execPopc_wf _ _ s hs
  | bswap => exact execBswap_wf _ _ s hs
  | addi => exact execAddi_wf _ _ _ s hs
  | slli => exact execSlli_wf _ _ _ s hs
  | slti => exact execSlti_wf _ _ _ s hs
  | sltiz => exact execSltiz_wf _ _ _ s hs
  | xori => exact execXori_wf _ _ _ s hs
  | srli => exact execSrli_wf _ _ _ s hs
  | srai => exact execSrai_wf _ _ _ s hs
  | ori => exact execOri_wf _ _ _ s hs
  | andi => exact execAndi_wf _ _ _ s hs
  | ldB => exact execLdB_wf _ _ _ s hs
  | ldH => exact execLdH_wf _ _ _ s hs
  | ldW => exact execLdW_wf _ _ _ s hs
  | ldD => exact execLdD_wf _ _ _ s hs
  | ldBz => exact execLdBz_wf _ _ _ s hs
  | ldHz => exact execLdHz_wf _ _ _ s hs
  | ldWz => exact execLdWz_wf _ _ _ s hs
  | stB => exact execStB_wf _ _ _ s hs
  | stH => exact execStH_wf _ _ _ s hs
  | stW => exact execStW_wf _ _ _ s hs
  | stD => exact execStD_wf _ _ _ s hs
  | beq => exact execBeq_wf _ _ _ s hs
  | bne => exact execBne_wf _ _ _ s hs
  | blt => exact execBlt_wf _ _ _ s hs
  | bge => exact execBge_wf _ _ _ s hs
  | bltz => exact execBltz_wf _ _ _ s hs
  | bgez => exact execBgez_wf _ _ _ s hs
  | jal => exact execJal_wf _ _ s hs
  | jalr => exact execJalr_wf _ _ _ s hs
  | lui => exact execLui_wf _ _ s hs
  | aupc => exact execAupc_wf _ _ s hs
  | loop => exact execLoop_wf _ _ s hs
  | loopi => exact execLoopi_wf _ _ s hs
  | lidx => exact execLidx_wf _ _ s hs
  | lbrk => exact execLbrk_wf s hs
  | lnext => exact execLnext_wf s hs
  | svc => exact execSvc_wf s hs
  | brk => exact execBrk_wf s hs
  | yield => exact execYield_wf s hs
  | ifence => exact execIfence_wf s hs
  | getc => exact execGetc_wf _ _ s hs
  | setc => exact execSetc_wf _ _ s hs
  | swapc => exact execSwapc_wf _ _ _ s hs
  | sleep => exact execSleep_wf _ s hs
  | amoaddW => exact execAmoaddW_wf _ _ _ _ _ _ s hs
  | amoaddD => exact execAmoaddD_wf _ _ _ _ _ _ s hs
  | amoswapW => exact execAmoswapW_wf _ _ _ _ _ _ s hs
  | amoswapD => exact execAmoswapD_wf _ _ _ _ _ _ s hs
  | amoandD => exact execAmoandD_wf _ _ _ _ _ _ s hs
  | amoorD => exact execAmoorD_wf _ _ _ _ _ _ s hs
  | amoxorD => exact execAmoxorD_wf _ _ _ _ _ _ s hs
  | amominD => exact execAmominD_wf _ _ _ _ _ _ s hs
  | amomaxD => exact execAmomaxD_wf _ _ _ _ _ _ s hs
  | amominzD => exact execAmominzD_wf _ _ _ _ _ _ s hs
  | amomaxzD => exact execAmomaxzD_wf _ _ _ _ _ _ s hs
  | amocasD => exact execAmocasD_wf _ _ _ _ _ _ s hs
  | amofaddS => exact execAmofaddS_wf _ _ _ _ _ _ s hs
  | amofmaxS => exact execAmofmaxS_wf _ _ _ _ _ _ s hs
  | vtype => exact execVtype_wf _ _ s hs
  | strip => exact execStrip_wf _ _ _ s hs
  | vlmax => exact execVlmax_wf _ s hs
  | wopen => exact execWopen_wf _ _ s hs
  | wmerge => exact execWmerge_wf _ s hs
  | vadd => exact execVadd_wf _ _ _ _ s hs
  | vsub => exact execVsub_wf _ _ _ _ s hs
  | vmul => exact execVmul_wf _ _ _ _ s hs
  | vmac => exact execVmac_wf _ _ _ _ s hs
  | vnmac => exact execVnmac_wf _ _ _ _ s hs
  | vmin => exact execVmin_wf _ _ _ _ s hs
  | vmax => exact execVmax_wf _ _ _ _ s hs
  | vdiv => exact execVdiv_wf _ _ _ _ s hs
  | vand => exact execVand_wf _ _ _ _ s hs
  | vor => exact execVor_wf _ _ _ _ s hs
  | vxor => exact execVxor_wf _ _ _ _ s hs
  | vsll => exact execVsll_wf _ _ _ _ s hs
  | vsrl => exact execVsrl_wf _ _ _ _ s hs
  | vsra => exact execVsra_wf _ _ _ _ s hs
  | vmulh => exact execVmulh_wf _ _ _ _ s hs
  | vmulhz => exact execVmulhz_wf _ _ _ _ s hs
  | vabs => exact execVabs_wf _ _ _ s hs
  | vneg => exact execVneg_wf _ _ _ s hs
  | vsqrt => exact execVsqrt_wf _ _ _ s hs
  | vrcp => exact execVrcp_wf _ _ _ s hs
  | vrsqrt => exact execVrsqrt_wf _ _ _ s hs
  | vexp2 => exact execVexp2_wf _ _ _ s hs
  | vmov => exact execVmov_wf _ _ _ s hs
  | vaddS => exact execVaddS_wf _ _ _ _ s hs
  | vsubS => exact execVsubS_wf _ _ _ _ s hs
  | vmulS => exact execVmulS_wf _ _ _ _ s hs
  | vmacS => exact execVmacS_wf _ _ _ _ s hs
  | vnmacS => exact execVnmacS_wf _ _ _ _ s hs
  | vminS => exact execVminS_wf _ _ _ _ s hs
  | vmaxS => exact execVmaxS_wf _ _ _ _ s hs
  | vdivS => exact execVdivS_wf _ _ _ _ s hs
  | vandS => exact execVandS_wf _ _ _ _ s hs
  | vorS => exact execVorS_wf _ _ _ _ s hs
  | vxorS => exact execVxorS_wf _ _ _ _ s hs
  | vsllS => exact execVsllS_wf _ _ _ _ s hs
  | vsrlS => exact execVsrlS_wf _ _ _ _ s hs
  | vsraS => exact execVsraS_wf _ _ _ _ s hs
  | vmulhS => exact execVmulhS_wf _ _ _ _ s hs
  | vmulhzS => exact execVmulhzS_wf _ _ _ _ s hs
  | vceq => exact execVceq_wf _ _ _ _ s hs
  | vcne => exact execVcne_wf _ _ _ _ s hs
  | vclt => exact execVclt_wf _ _ _ _ s hs
  | vcle => exact execVcle_wf _ _ _ _ s hs
  | vcltz => exact execVcltz_wf _ _ _ _ s hs
  | vclez => exact execVclez_wf _ _ _ _ s hs
  | vcun => exact execVcun_wf _ _ _ _ s hs
  | vceqS => exact execVceqS_wf _ _ _ _ s hs
  | vcneS => exact execVcneS_wf _ _ _ _ s hs
  | vcltS => exact execVcltS_wf _ _ _ _ s hs
  | vcleS => exact execVcleS_wf _ _ _ _ s hs
  | vcgtS => exact execVcgtS_wf _ _ _ _ s hs
  | vcgeS => exact execVcgeS_wf _ _ _ _ s hs
  | kand => exact execKand_wf _ _ _ _ s hs
  | kor => exact execKor_wf _ _ _ _ s hs
  | kxor => exact execKxor_wf _ _ _ _ s hs
  | kandn => exact execKandn_wf _ _ _ _ s hs
  | knot => exact execKnot_wf _ _ _ s hs
  | kwhile => exact execKwhile_wf _ _ _ s hs
  | kset => exact execKset_wf _ _ s hs
  | kclr => exact execKclr_wf _ _ s hs
  | kcnt => exact execKcnt_wf _ _ _ s hs
  | kfirst => exact execKfirst_wf _ _ _ s hs
  | vbcast => exact execVbcast_wf _ _ _ s hs
  | vslup => exact execVslup_wf _ _ _ _ s hs
  | vsldn => exact execVsldn_wf _ _ _ _ s hs
  | vperm => exact execVperm_wf _ _ _ _ s hs
  | vzipl => exact execVzipl_wf _ _ _ _ s hs
  | vziph => exact execVziph_wf _ _ _ _ s hs
  | vunzpe => exact execVunzpe_wf _ _ _ _ s hs
  | vunzpo => exact execVunzpo_wf _ _ _ _ s hs
  | vcmprs => exact execVcmprs_wf _ _ _ s hs
  | vexpnd => exact execVexpnd_wf _ _ _ s hs
  | vext => exact execVext_wf _ _ _ s hs
  | vins => exact execVins_wf _ _ _ s hs
  | viota => exact execViota_wf _ _ s hs
  | vrev => exact execVrev_wf _ _ _ s hs
  | vrsum => exact execVrsum_wf _ _ _ s hs
  | vrmax => exact execVrmax_wf _ _ _ s hs
  | vrmin => exact execVrmin_wf _ _ _ s hs
  | vrand => exact execVrand_wf _ _ _ s hs
  | vror => exact execVror_wf _ _ _ s hs
  | vscan => exact execVscan_wf _ _ _ s hs
  | vscanx => exact execVscanx_wf _ _ _ s hs
  | vrsumw => exact execVrsumw_wf _ _ _ s hs
  | vcvt => exact execVcvt_wf _ _ _ _ _ s hs
  | vcvtSat => exact execVcvtSat_wf _ _ _ _ _ s hs
  | vpack => exact execVpack_wf _ _ _ _ _ s hs
  | vunpk => exact execVunpk_wf _ _ _ _ s hs
  | vld => exact execVld_wf _ _ _ _ s hs
  | vlds => exact execVlds_wf _ _ _ _ s hs
  | vldx => exact execVldx_wf _ _ _ _ s hs
  | vldff => exact execVldff_wf _ _ _ _ s hs
  | vldseg => exact execVldseg_wf _ _ _ _ _ s hs
  | vldf => exact execVldf_wf _ _ _ _ s hs
  | vldb => exact execVldb_wf _ _ _ _ s hs
  | vst => exact execVst_wf _ _ _ _ s hs
  | vsts => exact execVsts_wf _ _ _ _ s hs
  | vstx => exact execVstx_wf _ _ _ _ s hs
  | vstseg => exact execVstseg_wf _ _ _ _ _ s hs
  | vstf => exact execVstf_wf _ _ _ _ s hs
  | vstxa => exact execVstxa_wf _ _ _ _ s hs
  | vamo => exact execVamo_wf _ _ _ _ s hs
  | mld => exact execMld_wf _ _ _ s hs
  | mswap => exact execMswap_wf s hs
  | mstr => exact execMstr_wf _ _ _ _ _ s hs
  | mrd => exact execMrd_wf _ _ _ s hs
  | mzero => exact execMzero_wf _ s hs
  | mst => exact execMst_wf _ _ _ _ s hs
  | cpy => exact execCpy_wf _ _ _ _ s hs
  | cpyr => exact execCpyr_wf _ _ _ _ s hs
  | cwait => exact execCwait_wf _ _ _ _ s hs
  | sbind => exact execSbind_wf _ _ _ _ s hs
  | sunbind => exact execSunbind_wf _ s hs
  | tlwait => exact execTlwait_wf _ _ _ s hs
  | capp => exact execCapp_wf _ _ _ s hs
  | cstat => exact execCstat_wf _ _ s hs
  | barr => exact execBarr_wf _ _ s hs
  | bwait => exact execBwait_wf _ _ _ s hs
  | bsync => exact execBsync_wf _ _ _ s hs
  | acq => exact execAcq_wf _ _ _ s hs
  | rel => exact execRel_wf _ _ s hs
  | mend => exact execMend_wf _ _ _ s hs
  | pacq => exact execPacq_wf _ s hs
  | prel => exact execPrel_wf _ s hs
  | pfull => exact execPfull_wf _ s hs
  | bbind => exact execBbind_wf _ _ s hs
  | bdrop => exact execBdrop_wf _ _ s hs
  | bstat => exact execBstat_wf _ _ s hs
  | wmbind => exact execWmbind_wf _ _ _ s hs
  | wmpub => exact execWmpub_wf _ _ s hs
  | wmrd => exact execWmrd_wf _ _ s hs
  | rbind => exact execRbind_wf _ _ s hs
  | rget => exact execRget_wf _ _ _ s hs
  | rput => exact execRput_wf _ s hs
  | rtake => exact execRtake_wf _ _ _ s hs
  | rdone => exact execRdone_wf _ s hs
  | rstat => exact execRstat_wf _ _ s hs
  | runbind => exact execRunbind_wf _ s hs
  | hnew => exact execHnew_wf _ _ s hs
  | hsplit => exact execHsplit_wf _ _ _ _ s hs
  | hjoin => exact execHjoin_wf _ _ _ s hs
  | hsend => exact execHsend_wf _ _ s hs
  | hrecv => exact execHrecv_wf _ _ _ s hs
  | haddr => exact execHaddr_wf _ _ s hs
  | hfree => exact execHfree_wf _ s hs
  | hinfo => exact execHinfo_wf _ _ s hs
  | hreclaim => exact execHreclaim_wf _ _ s hs
  | spawn => exact execSpawn_wf _ s hs
  | tend => exact execTend_wf s hs
  | jdec => exact execJdec_wf _ s hs
  | qpush => exact execQpush_wf _ _ s hs
  | qpop => exact execQpop_wf _ _ _ s hs
  | tself => exact execTself_wf _ s hs
  | fsend => exact execFsend_wf _ _ _ s hs
  | frecv => exact execFrecv_wf _ _ _ s hs
  | fpath => exact execFpath_wf _ _ _ s hs
  | fprobe => exact execFprobe_wf _ _ s hs
  | illegalWordIssue => exact execIllegalWordIssue_wf _ s hs
  | fetchProblem => exact execFetchProblem_wf s hs
  | vamoReport => exact execVamoReport_wf _ _ _ s hs
  | mldComplete => exact keepsForm_of_mem hs (execMldComplete_mem _ s)
  | mswapPerformed => exact keepsForm_of_mem hs (execMswapPerformed_mem _ s)
  | mstrRowFinal => exact keepsForm_of_mem hs (execMstrRowFinal_mem _ _ s)
  | mzeroPerformed => exact keepsForm_of_mem hs (execMzeroPerformed_mem _ s)
  | mstRowWrite => exact execMstRowWrite_wf _ s hs
  | mrdWrite => exact execMrdWrite_wf _ s hs
  | matrixWaitExpired => exact execMatrixWaitExpired_wf _ s hs
  | portDispatch => exact keepsForm_of_mem hs (execPortDispatch_mem _ _ s)
  | portQueueWaitExpired => exact execPortQueueWaitExpired_wf _ s hs
  | copyChunk => exact execCopyChunk_wf _ _ s hs
  | releaseTokenWrite => exact keepsForm_of_mem hs (execReleaseTokenWrite_mem _ s)
  | deliveryTokenWrite => exact keepsForm_of_mem hs (execDeliveryTokenWrite_mem _ s)
  | copyFaultPost => exact execCopyFaultPost_wf _ s hs
  | copyReplay => exact keepsForm_of_mem hs (execCopyReplay_mem _ s)
  | streamStripDeliver => exact execStreamStripDeliver_wf _ _ s hs
  | chainCopy => exact execChainCopy_wf _ s hs
  | chainCopyr => exact execChainCopyr_wf _ s hs
  | chainMark => exact keepsForm_of_mem hs (execChainMark_mem _ s)
  | chainCommandComplete => exact execChainCommandComplete_wf _ s hs
  | ochreCopy => exact execOchreCopy_wf _ s hs
  | ochreCopyr => exact execOchreCopyr_wf _ s hs
  | ochreMark => exact keepsForm_of_mem hs (execOchreMark_mem _ s)
  | ochreFill => exact execOchreFill_wf _ s hs
  | indigoCopy => exact execIndigoCopy_wf _ s hs
  | indigoCopyr => exact execIndigoCopyr_wf _ s hs
  | indigoMark => exact keepsForm_of_mem hs (execIndigoMark_mem _ s)
  | indigoWait => exact keepsForm_of_mem hs (execIndigoWait_mem _ s)
  | indigoWaitMet => exact execIndigoWaitMet_wf _ s hs
  | indigoWaitExpired => exact execIndigoWaitExpired_wf _ s hs
  | indigoSignal => exact execIndigoSignal_wf _ s hs
  | indigoPathSet => exact execIndigoPathSet_wf _ s hs
  | ueWrite => exact execUeWrite_wf _ s hs
  | ueRead => exact execUeRead_wf _ s hs
  | ueRegisterRegion => exact execUeRegisterRegion_wf _ s hs
  | ueMark => exact keepsForm_of_mem hs (execUeMark_mem _ s)
  | uePacket => exact execUePacket_wf _ s hs
  | watermarkExpired => exact execWatermarkExpired_wf _ s hs
  | barrierDeadlineClose => exact execBarrierDeadlineClose_wf _ _ s hs
  | regWaitExpired => exact execRegWaitExpired_wf _ s hs
  | waitExpired => exact execWaitExpired_wf _ s hs
  | sleepMet => exact execSleepMet_wf _ s hs
  | svcExpired => exact execSvcExpired_wf _ s hs
  | preempt => exact execPreempt_wf _ s hs
  | budgetOverrun => exact execBudgetOverrun_wf _ s hs
  | tbudExhausted => exact keepsForm_of_mem hs (execTbudExhausted_mem _ s)
  | taskStart => exact execTaskStart_wf _ _ s hs
  | taskResume => exact execTaskResume_wf _ _ s hs
  | priorityAging => exact keepsForm_of_mem hs (execPriorityAging_mem _ s)
  | coreBind => exact execCoreBind_wf _ _ s hs
  | gangPreempt => exact execGangPreempt_wf _ s hs
  | gangResume => exact execGangResume_wf _ s hs
  | coreScrub => exact execCoreScrub_wf _ s hs
  | jobComplete => exact execJobComplete_wf _ s hs
  | jobStopForce => exact execJobStopForce_wf _ s hs
  | commandTake => exact execCommandTake_wf s hs
  | launch => exact execLaunch_wf _ s hs
  | shootdownPageRange => exact keepsForm_of_mem hs (execShootdownPageRange_mem _ s)
  | shootdownRoot => exact keepsForm_of_mem hs (execShootdownRoot_mem _ s)
  | shootdownAck => exact execShootdownAck_wf _ s hs
  | cancel => exact execCancel_wf _ s hs
  | debugFreeze => exact execDebugFreeze_wf _ s hs
  | debugStep => exact execDebugStep_wf _ s hs
  | debugResume => exact execDebugResume_wf _ s hs
  | debugDump => exact execDebugDump_wf _ s hs
  | keyInvalidate => exact execKeyInvalidate_wf _ s hs
  | pageWalk => exact execPageWalk_wf _ _ _ _ s hs
  | poolRefill => exact keepsForm_of_mem hs (execPoolRefill_mem _ _ s)
  | faultQueueSpace => exact execFaultQueueSpace_wf _ s hs
  | tailAdvance => exact execTailAdvance_wf _ _ s hs
  | holdExpired => exact execHoldExpired_wf _ s hs
  | pagingService => exact execPagingService_wf _ _ _ _ _ _ s hs
  | patrolScrub => exact execPatrolScrub_wf _ _ s hs
  | queueLost => exact execQueueLost_wf _ _ _ s hs
  | cyanReload => exact keepsForm_of_mem hs (execCyanReload_mem _ s)
  | cobaltReset => exact execCobaltReset_wf s hs
  | packageReset => exact execPackageReset_wf _ _ _ _ _ _ s hs
  | imgdbWrite => exact keepsForm_of_mem hs (execImgdbWrite_mem _ s)
  | bootReady => exact execBootReady_wf _ s hs
  | dmalockWrite => exact keepsForm_of_mem hs (execDmalockWrite_mem _ s)
  | fabidLock => exact keepsForm_of_mem hs (execFabidLock_mem _ s)
  | registerWrite => exact execRegisterWrite_wf _ _ s hs
  | hostWrite => exact execHostWrite_wf _ _ _ s hs
  | hostRead => exact keepsForm_of_mem hs (execHostRead_mem _ _ _ s)
  | hostAtomicCompletion => exact execHostAtomicCompletion_wf _ _ s hs
  | proxyReply => exact execProxyReply_wf _ s hs
  | proxyQueueExpired => exact execProxyQueueExpired_wf _ s hs
  | proxyReplyExpired => exact execProxyReplyExpired_wf _ s hs
  | spdmRequest => exact execSpdmRequest_wf _ s hs
  | spdmKeyInstall => exact keepsForm_of_mem hs (execSpdmKeyInstall_mem _ _ _ s)
  | tdiLeaveRun => exact execTdiLeaveRun_wf _ s hs
  | thermalStep die temp => exact execThermalStep_wf die temp s hs
  | powerClamp => exact keepsForm_of_mem hs (execPowerClamp_mem _ s)
  | frameReceive => exact execFrameReceive_wf _ _ s hs
  | timeFlit => exact keepsForm_of_mem hs (execTimeFlit_mem _ _ s)
  | ptpMessage => exact keepsForm_of_mem hs (execPtpMessage_mem _ _ _ s)
  | ptpLockLoss => exact execPtpLockLoss_wf s hs
  | retryRequest => exact keepsForm_of_mem hs (execRetryRequest_mem _ _ s)
  | linkDown => exact keepsForm_of_mem hs (execLinkDown_mem _ s)
  | stomp => exact keepsForm_of_mem hs (execStomp_mem _ _ _ s)
  | readRequest => exact keepsForm_of_mem hs (execReadRequest_mem _ s)
  | readReply => exact execReadReply_wf _ s hs
  | writeRequest => exact execWriteRequest_wf _ s hs
  | atomicRequest => exact execAtomicRequest_wf _ s hs
  | atomicReply => exact execAtomicReply_wf _ s hs
  | chunkWrite => exact execChunkWrite_wf _ s hs
  | multicastChunkWrite => exact execMulticastChunkWrite_wf _ s hs
  | message => exact execMessage_wf _ s hs
  | messageReply => exact execMessageReply_wf _ s hs
  | ack => exact execAck_wf _ s hs
  | nack => exact execNack_wf _ s hs
  | combinedAtomic => exact execCombinedAtomic_wf _ s hs
  | combinedReply => exact execCombinedReply_wf _ s hs
  | e2eRetransmit => exact execE2eRetransmit_wf _ _ s hs
  | multicastBranchTimeout => exact keepsForm_of_mem hs (execMulticastBranchTimeout_mem _ _ _ s)
  | pathProbe => exact keepsForm_of_mem hs (execPathProbe_mem _ _ _ _ s)
  | launchAcceptAnnounce => exact execLaunchAcceptAnnounce_wf _ _ _ _ s hs
  | launchAgreeTimeout => exact execLaunchAgreeTimeout_wf _ s hs
  | multiJobStart => exact execMultiJobStart_wf _ s hs
  | gangPreemptRequest => exact keepsForm_of_mem hs (execGangPreemptRequest_mem _ s)
  | slateWaveArrive => exact execSlateWaveArrive_wf _ _ s hs
  | frozenReport => exact keepsForm_of_mem hs (execFrozenReport_mem _ _ _ _ s)
  | firstCauseFinal => exact keepsForm_of_mem hs (execFirstCauseFinal_mem _ s)
  | resumeAnnounce => exact execResumeAnnounce_wf _ _ _ s hs
  | slateRestart => exact execSlateRestart_wf _ s hs
  | slateFreezeTimeout => exact execSlateFreezeTimeout_wf _ s hs
  | vectorQueueCompletion => exact keepsForm_of_mem hs (execVectorQueueCompletion_mem _ s)
  | dmaReadCompletion => exact keepsForm_of_mem hs (execDmaReadCompletion_mem _ _ s)
  | tdiEnterRun => exact keepsForm_of_mem hs (execTdiEnterRun_mem _ _ s)

/-- What follows a move keeps the form: the decisions of homes, Indigo waits that end, what is handed to the links (R211, R358, R382). -/
theorem afterMove_keepsForm {r : Result} (h : KeepsForm r) : KeepsForm (afterMove r) := by
  cases r with
  | next s =>
    have hs : s.MemOk := h s rfl
    have hpoll : s.poll.leaveOn.MemOk := State.memOk_of_mem (State.leaveOn_mem _) (s.poll_wf hs)
    exact keepsForm_next (ite_wf hs (State.handOver_wf _ (State.indigoDue_wf _ hpoll)))
  | fault f => exact keepsForm_fault f
  | refused x => rintro t ⟨⟩

/-- An issue keeps the form: the fetch does, and what it brings is executed. -/
theorem State.issueCur_keepsForm (s : State) (hs : s.MemOk) : KeepsForm s.issueCur := by
  have hfetch : s.stepTaken.fetch.1.MemOk := State.fetch_wf _ (State.memOk_of_mem s.stepTaken_mem hs)
  unfold State.issueCur
  refine keepsForm_ite (keepsForm_fault _) (keepsForm_ite (keepsForm_next hs) (keepsForm_ite (keepsForm_next (s.overrun_wf hs)) ?_))
  split
  next s1 f e =>
    rw [e] at hfetch
    exact execFetchProblem_wf s1 hfetch
  next s1 w e =>
    rw [e] at hfetch
    split
    · exact exec_keepsForm _ s1 hfetch
    · exact execIllegalWordIssue_wf w s1 hfetch

theorem State.liveMove_keepsForm (s : State) (m : Move) (hs : s.MemOk) : KeepsForm (s.liveMove m) := by
  have hset : s.settled.MemOk := s.settled_wf hs
  cases m with
  | strand sid => exact State.issueCur_keepsForm _ (State.memOk_of_mem (State.switchTo_mem _ _) hset)
  | event i => exact keepsForm_ite (exec_keepsForm i _ (ite_wf hs hset)) (keepsForm_next hs)
  | elapse ns cycles => exact keepsForm_next (State.memOk_of_mem (State.elapse_mem _ _ _) hset)

theorem State.haltedMove_keepsForm (s : State) (m : Move) (hs : s.MemOk) : KeepsForm (s.haltedMove m) := by
  cases m with
  | strand sid => exact keepsForm_fault _
  | event i =>
    unfold State.haltedMove
    dsimp only
    split
    · exact exec_keepsForm _ s hs
    · exact keepsForm_next hs
  | elapse ns cycles => exact keepsForm_next hs

theorem step_keepsForm (s : State) (hs : s.MemOk) : KeepsForm (step s) := by
  unfold step
  split
  next => exact afterMove_keepsForm (State.issueCur_keepsForm _ (s.settled_wf hs))
  next m ms _ =>
    have hm : ({ s with agenda := ms } : State).MemOk := hs
    exact afterMove_keepsForm (keepsForm_ite (State.haltedMove_keepsForm _ m hm) (State.liveMove_keepsForm _ m hm))

/-- Settles O59: what a step executes keeps the form, row by row of the opcode table, and so does what a step adds around it. -/
theorem memoryForm : Obligations.MemoryForm := by
  unfold Obligations.MemoryForm
  exact fun s t hs ht => step_keepsForm s hs t ht

end Sys2Proof.Machine
end

section
/-! The links of the fabric: what a flit, a frame, a retry, a stomp and a time message do (R355 to R362). -/

namespace Sys2Proof.Machine
open Sys2Proof.Claims

/-! Links: one link of a package changes (R360). -/

@[simp] theorem State.onLink_link_self (s : State) (p : Nat) (f : Link → Link) : (s.onLink p f).link p = f (s.link p) :=
  SMap.get_set_self ..

theorem State.onLink_link_ne (s : State) {p k : Nat} (f : Link → Link) (h : k ≠ p) : (s.onLink p f).link k = s.link k :=
  SMap.get_set_ne _ _ _ h

@[simp] theorem State.onLink_arrived (s : State) (p : Nat) (f : Link → Link) : (s.onLink p f).pkg.arrived = s.pkg.arrived := rfl

theorem State.arrive_link (s : State) (ps : List Packet) (p : Nat) : (s.onPkg fun g => { g with arrived := g.arrived ++ ps }).link p = s.link p := rfl

theorem State.onLink_onlyLink (s : State) (p : Nat) (f : Link → Link) : OnlyLink s (s.onLink p f) p :=
  ⟨rfl, fun _ h => s.onLink_link_ne f h⟩

theorem onlyLink_trans {s t u : State} {p : Nat} (h : OnlyLink s t p) (g : OnlyLink t u p) : OnlyLink s u p where
  rest := by rw [g.rest, h.rest]
  others k hk := (g.others k hk).trans (h.others k hk)

theorem portUp_of_linkUp {s : State} {p : Nat} (h : LinkUp s p) : s.portUp p = true := by
  simp only [State.portUp, suPorts, h.kept, h.up, h.port, decide_true, Bool.not_false, Bool.and_self]

theorem portUp_of_retired {s : State} {p : Nat} (h : s.pkg.retiredPorts.contains p = true) : s.portUp p = false := by
  simp only [State.portUp, h, Bool.not_true, Bool.and_false, Bool.false_and]

@[simp] theorem Link.acked_lack (l : Link) (k : BitVec 12) : (l.acked k).lack = l.lack := rfl
@[simp] theorem Link.acked_wire (l : Link) (k : BitVec 12) : (l.acked k).wire = l.wire := rfl
@[simp] theorem Link.acked_replay (l : Link) (k : BitVec 12) : (l.acked k).replay = l.replay.filter fun f => !lseqLe f.lseq k := rfl
@[simp] theorem Link.took_lack (l : Link) : l.took.lack = l.lack + 1 := rfl
@[simp] theorem Link.fell_down (l : Link) : l.fell.down = true := rfl
@[simp] theorem Link.fell_replay (l : Link) : l.fell.replay = [] := rfl
@[simp] theorem Link.fell_wire (l : Link) : l.fell.wire = l.wire := rfl

@[simp] theorem Link.ask_discarding (l : Link) (mk : List Flit → Frame) : (l.ask mk).discarding = true := by
  unfold Link.ask
  split
  · assumption
  · rfl

theorem Link.replayFrom_of_stuck {l : Link} (mk : List Flit → Frame) {k : BitVec 12} (h : 16 ≤ (l.acked k).replays) :
    l.replayFrom mk k = (l.acked k).fell := if_pos h

theorem Link.replayFrom_of_progress {l : Link} (mk : List Flit → Frame) {k : BitVec 12} (h : (l.acked k).replays < 16) :
    l.replayFrom mk k = { (l.acked k).put mk (l.acked k).replay with replays := (l.acked k).replays + 1 } :=
  if_neg (Nat.not_le.mpr h)

/-! Flits in frames (R358). -/

/-- Every frame is made around at most 8 flits. -/
theorem exists_of_mem_framesOf {mk : List Flit → Frame} {n : Nat} {fs : List Flit} {fr : Frame} (h : fr ∈ framesOf mk n fs) :
    ∃ gs, fr = mk gs ∧ gs.length ≤ 8 := by
  induction n generalizing fs with
  | zero => cases h
  | succ n ih =>
    cases fs with
    | nil => cases h
    | cons f fs =>
      cases h with
      | head => exact ⟨_, rfl, List.length_take_le 8 _⟩
      | tail _ h => exact ih h

/-- The frames carry the flits, none lost and none twice, where the fuel is enough. -/
theorem flatMap_framesOf {mk : List Flit → Frame} (hmk : ∀ gs, (mk gs).flits = gs) {n : Nat} {fs : List Flit} (h : fs.length ≤ n) :
    (framesOf mk n fs).flatMap (·.flits) = fs := by
  induction n generalizing fs with
  | zero => rw [List.length_eq_zero_iff.mp (Nat.le_zero.mp h)]; rfl
  | succ n ih =>
    cases fs with
    | nil => rfl
    | cons f fs =>
      have hd : ((f :: fs).drop 8).length ≤ n := by
        simp only [List.length_drop, List.length_cons] at h ⊢
        omega
      have hc : framesOf mk (n + 1) (f :: fs) = mk ((f :: fs).take 8) :: framesOf mk n ((f :: fs).drop 8) := rfl
      rw [hc, List.flatMap_cons, hmk, ih hd, List.take_append_drop]

/-! What a flit in a good frame does, by its number (R357, R360). -/

/-- A flit that is neither idle nor a retry request is taken by its number. -/
theorem State.takeFlit_of_numbered (s : State) (p : Nat) {f : Flit} (hc : f.crcGood = true) (h0 : f.ty ≠ 0) (h8 : f.ty < 8) :
    s.takeFlit p f =
      let s1 := s.onLink p fun l => l.acked f.lack
      if f.lseq = (s.link p).lack + 1 then (s1.onLink p Link.took).flitIn f
      else if lseqLe f.lseq (s.link p).lack then s1
      else s1.onLink p fun l => l.ask (s.frameOf p) := by
  have h9 : ¬ 9 ≤ f.ty := by omega
  have h8' : f.ty ≠ 8 := by omega
  simp [State.takeFlit, hc, h9, h8', h0]

/-- A packet for this package that a last flit carries arrives. -/
theorem State.flitIn_packet (s : State) {f : Flit} {pk : Packet} (ht : f.ty = 4) (hp : f.packet = some pk) (hd : pk.dpkg = s.pkgNo)
    (h1 : 1 ≤ pk.kind) (h13 : pk.kind ≤ 13) : s.flitIn f = s.onPkg fun g => { g with arrived := g.arrived ++ [pk] } := by
  simp [State.flitIn, ht, hp, hd, h1, h13]

/-! The frames and messages of a link, by outcome. -/

/-- A frame of the Tsueratis EtherType on a link that is up, of whole flits, 1 to 8 (R358). -/
structure WholeFrame (s : State) (p : Nat) (fr : Frame) : Prop where
  link : LinkUp s p
  enabled : s.pkg.bar.fabetype ≠ 0
  etype : fr.etype = s.pkg.bar.fabetype.setWidth 16
  bytes : fr.bytes = 256 * fr.flits.length
  nonempty : fr.flits.length ≠ 0
  most : fr.flits.length ≤ 8

theorem execFrameReceive_whole {s : State} {p : Nat} {fr : Frame} (h : WholeFrame s p fr) :
    execFrameReceive p fr s = .next (if !fr.fcsGood then s.onLink p fun l => l.ask (s.frameOf p)
      else fr.flits.foldl (fun (a : State) f => a.takeFlit p f) s) := by
  refine congrArg Host.Outcome.next (if_neg ?_)
  rintro (hp | he | ht | hb | h0 | hm)
  · rw [portUp_of_linkUp h.link] at hp; cases hp
  · exact h.enabled he
  · exact ht h.etype
  · exact hb h.bytes
  · exact h.nonempty h0
  · exact Nat.not_lt.mpr h.most hm

theorem State.steer_gtime (s : State) (time : Word) :
    s.steer time = { s with gtime := if s.gtime.toNat < time.toNat then time else s.gtime } := by
  unfold State.steer
  split <;> rfl

theorem execFrameReceive_single {s : State} {p : Nat} {fr : Frame} {f : Flit} (h : WholeFrame s p fr) (hg : fr.fcsGood = true) (hf : fr.flits = [f]) :
    execFrameReceive p fr s = .next (s.takeFlit p f) := by
  rw [execFrameReceive_whole h, hg, hf]; rfl

theorem execFrameReceive_lost {s : State} {p : Nat} {fr : Frame} (h : WholeFrame s p fr) (hg : fr.fcsGood = false) :
    execFrameReceive p fr s = .next (s.onLink p fun l => l.ask (s.frameOf p)) := by
  rw [execFrameReceive_whole h, hg]; rfl

theorem execFrameReceive_down {s : State} {p : Nat} (fr : Frame) (h : s.portUp p = false) : execFrameReceive p fr s = .next s :=
  congrArg Host.Outcome.next (if_pos (.inl h))

theorem execFrameReceive_foreign {s : State} (p : Nat) {fr : Frame} (h : fr.etype ≠ s.pkg.bar.fabetype.setWidth 16 ∨ s.pkg.bar.fabetype = 0) :
    execFrameReceive p fr s = .next s :=
  congrArg Host.Outcome.next (if_pos (.inr (h.elim (fun he => .inr (.inl he)) .inl)))

theorem execTimeFlit_up {s : State} {p : Nat} (time : Word) (h : s.portUp p = true) : execTimeFlit p time s = .next (s.steer time) :=
  congrArg Host.Outcome.next (if_pos h)

theorem execTimeFlit_down {s : State} {p : Nat} (time : Word) (h : s.portUp p = false) : execTimeFlit p time s = .next s :=
  congrArg Host.Outcome.next (if_neg (by simp [h]))

theorem execRetryRequest_up {s : State} {p : Nat} (k : BitVec 12) (h : s.portUp p = true) :
    execRetryRequest p k s = .next (s.onLink p fun l => l.replayFrom (s.frameOf p) k) :=
  congrArg Host.Outcome.next (if_pos h)

theorem execRetryRequest_down {s : State} {p : Nat} (k : BitVec 12) (h : s.portUp p = false) : execRetryRequest p k s = .next s :=
  congrArg Host.Outcome.next (if_neg (by simp [h]))

theorem execStomp_down {s : State} {p : Nat} (spkg : Nat) (eseq : BitVec 32) (h : s.portUp p = false) : execStomp p spkg eseq s = .next s :=
  congrArg Host.Outcome.next (if_pos (.inl h))

theorem execStomp_up {s : State} {p spkg : Nat} {eseq : BitVec 32} (h : s.portUp p = true)
    (hn : s.pkg.arrived.any (fun x => decide (x.spkg = spkg ∧ x.eseq = eseq)) = false) :
    execStomp p spkg eseq s = .next (s.onLink p Link.took) :=
  congrArg Host.Outcome.next (if_neg (by rw [h, hn]; simp))

theorem execPtpMessage_retired {s : State} {p : Nat} (time : Word) (locked : Bool) (h : s.pkg.retiredPorts.contains p = true) :
    execPtpMessage p time locked s = .next s :=
  congrArg Host.Outcome.next (if_pos (.inr h))

theorem execPtpMessage_kept {s : State} {p : Nat} (time : Word) (locked : Bool) (h26 : p < 26) (h : s.pkg.retiredPorts.contains p = false) :
    execPtpMessage p time locked s = .next ((s.steer time).onPkg fun g => { g with lockLost := if locked then none else some (g.lockLost.getD s.gtime) }) :=
  congrArg Host.Outcome.next (if_neg (by rw [h]; simpa using h26))

/-- A retry request that finds progress puts the flits kept back on the wire, in frames of at most 8 (R358, R360). -/
theorem retry_replays {s : State} {p : Nat} {k : BitVec 12} (h : LinkUp s p) (hr : ((s.link p).acked k).replays < 16) :
    let kept := (s.link p).replay.filter fun f => !lseqLe f.lseq k
    ∃ t fs, execRetryRequest p k s = .next t ∧ (t.link p).replay = kept ∧ (t.link p).wire = (s.link p).wire ++ fs ∧ fs.flatMap (·.flits) = kept ∧
      (∀ fr ∈ fs, fr.flits.length ≤ 8 ∧ fr.bytes = 256 * fr.flits.length ∧ fr.etype = s.pkg.bar.fabetype.setWidth 16 ∧ fr.fcsGood = true) ∧ OnlyLink s t p := by
  intro kept
  refine ⟨_, framesOf (s.frameOf p) kept.length kept, execRetryRequest_up k (portUp_of_linkUp h), ?_, ?_,
    flatMap_framesOf (fun _ => rfl) le_rfl, ?_, State.onLink_onlyLink ..⟩
  · rw [State.onLink_link_self, Link.replayFrom_of_progress _ hr]; rfl
  · rw [State.onLink_link_self, Link.replayFrom_of_progress _ hr]; rfl
  · intro fr hfr
    obtain ⟨gs, rfl, hgs⟩ := exists_of_mem_framesOf hfr
    exact ⟨hgs, rfl, rfl, rfl⟩

/-- One more replay request than 16 without progress takes the link down (R360). -/
theorem retry_falls {s : State} {p : Nat} {k : BitVec 12} (h : LinkUp s p) (hr : 16 ≤ ((s.link p).acked k).replays) :
    ∃ t, execRetryRequest p k s = .next t ∧ (t.link p).down = true ∧ (t.link p).replay = [] ∧ (t.link p).wire = (s.link p).wire ∧ OnlyLink s t p := by
  refine ⟨_, execRetryRequest_up k (portUp_of_linkUp h), ?_, ?_, ?_, State.onLink_onlyLink ..⟩ <;>
    rw [State.onLink_link_self, Link.replayFrom_of_stuck _ hr] <;> rfl

section TakeFlit
/-! A flit with a good check, neither idle nor a retry request, by its number (R357, R360). -/

variable {s : State} {p : Nat} {f : Flit} (hc : f.crcGood = true) (h0 : f.ty ≠ 0) (h8 : f.ty < 8)
include hc h0 h8

theorem takeFlit_in_order (hl : f.lseq = (s.link p).lack + 1) :
    s.takeFlit p f = ((s.onLink p fun l => l.acked f.lack).onLink p Link.took).flitIn f := by
  rw [State.takeFlit_of_numbered s p hc h0 h8]; exact if_pos hl

theorem takeFlit_seen (hl : f.lseq ≠ (s.link p).lack + 1) (hs : lseqLe f.lseq (s.link p).lack = true) :
    s.takeFlit p f = s.onLink p fun l => l.acked f.lack := by
  rw [State.takeFlit_of_numbered s p hc h0 h8]; exact (if_neg hl).trans (if_pos hs)

theorem takeFlit_gap (hl : f.lseq ≠ (s.link p).lack + 1) (hs : lseqLe f.lseq (s.link p).lack = false) :
    s.takeFlit p f = (s.onLink p fun l => l.acked f.lack).onLink p fun l => l.ask (s.frameOf p) := by
  rw [State.takeFlit_of_numbered s p hc h0 h8]; exact (if_neg hl).trans (if_neg (by simp [hs]))

end TakeFlit

/-- Settles O48: each message of a link by its outcome; what a frame of one flit does goes by the flit's number, what a retry does by the replays since the last progress. -/
theorem links : Obligations.Links := by
  unfold Obligations.Links
  refine ⟨?_, ?_, ?_, ?_, ?_, ?_, ?_, ?_, ?_, ?_, ?_⟩
  · intro s p fr f pk hl he ht hb hf hg hc hty hpk hd h1 h13
    have hw : WholeFrame s p fr := ⟨hl, he, ht, by rw [hb, hf]; rfl, by rw [hf]; simp, by rw [hf]; simp⟩
    have h0 : f.ty ≠ 0 := by omega
    have h8 : f.ty < 8 := by omega
    have hx : exec (.frameReceive p fr) s = .next (s.takeFlit p f) := execFrameReceive_single hw hg hf
    refine ⟨fun hn => ⟨_, hx, ?_⟩, fun hs hn => ⟨_, hx, ?_⟩, fun hs hn => ⟨_, hx, ?_⟩⟩
    · have hin : s.takeFlit p f = ((s.onLink p fun l => l.acked f.lack).onLink p Link.took).onPkg fun g => { g with arrived := g.arrived ++ [pk] } :=
        (takeFlit_in_order hc h0 h8 hn).trans (State.flitIn_packet _ hty hpk hd h1 h13)
      rw [hin, State.arrive_link]
      exact ⟨rfl, by simp [hn]⟩
    · rw [takeFlit_seen hc h0 h8 hn hs]
      exact ⟨rfl, State.onLink_onlyLink ..⟩
    · rw [takeFlit_gap hc h0 h8 hn hs]
      exact ⟨rfl, by simp, onlyLink_trans (State.onLink_onlyLink ..) (State.onLink_onlyLink ..)⟩
  · intro s p fr hl he ht hb h0 h8 hg
    exact ⟨_, execFrameReceive_lost ⟨hl, he, ht, hb, h0, h8⟩ hg, by simp, rfl, State.onLink_onlyLink ..⟩
  · intro s p fr h
    exact execFrameReceive_foreign p h
  · intro s p time hl
    exact (execTimeFlit_up time (portUp_of_linkUp hl)).trans (congrArg _ (s.steer_gtime time))
  · intro s p time locked h26 hr
    refine ⟨_, execPtpMessage_kept time locked h26 hr, ?_⟩
    rw [State.steer_gtime]
    exact ⟨rfl, fun h => if_pos h, fun h => if_neg (by simp [h]), rfl⟩
  · exact fun s p k hl hr => retry_falls hl hr
  · exact fun s p k hl hr => retry_replays hl hr
  · intro s p k fr time seq locked hr
    have hp := portUp_of_retired hr
    exact ⟨execRetryRequest_down k hp, execFrameReceive_down fr hp, execTimeFlit_down time hp, execStomp_down _ seq hp,
      execPtpMessage_retired time locked hr⟩
  · intro s p h
    exact ⟨_, congrArg Host.Outcome.next (if_pos h), by simp, by simp, State.onLink_onlyLink ..⟩
  · intro s p h
    exact congrArg Host.Outcome.next (if_neg (Nat.not_le.mpr h))
  · intro s p spkg eseq hl hn
    exact ⟨_, execStomp_up (portUp_of_linkUp hl) hn, by simp, rfl, State.onLink_onlyLink ..⟩

end Sys2Proof.Machine
end

section
/-! Writes at their home: the bytes, their key, their place in the home order, poison and the errors logged (R8, R173, R174, R268, R397). -/

namespace Sys2Proof.Machine
open Sys2Proof.Claims

/-! Runs of bytes in memory (R8). -/

/-- A run written reads back. -/
theorem SMap.getList_setList {α : Type} [DecidableEq α] (d : α) (m : SMap α) (k : Nat) (vs : List α) :
    (SMap.setList d m k vs).getList d k vs.length = vs := by
  induction vs generalizing m k with
  | nil => rfl
  | cons v vs ih =>
    have hv : (SMap.setList d (m.set d k v) (k + 1) vs).get d k = v := by
      rw [SMap.get_setList_of_out d _ _ _ _ (.inl (Nat.lt_succ_self k)), SMap.get_set_self]
    exact congrArg₂ List.cons hv (ih ..)

/-- What an unlisted key reads as, a key that is filtered out reads as; every other key keeps its value. -/
theorem SMap.get_filter {α : Type} (d : α) (q : Nat → Bool) (m : SMap α) (k : Nat) :
    SMap.get d (m.filter fun p => q p.1) k = if q k then m.get d k else d := by
  induction m with
  | nil => simp [SMap.get]
  | cons p m ih =>
    obtain ⟨j, v⟩ := p
    by_cases hj : j = k
    · subst hj
      cases hq : q j <;> simp [SMap.get, hq, ih]
    · cases hq : q j <;> simp [SMap.get, hq, hj, ih]

/-- Bytes of a number, put together, are the number as far as they reach. -/
theorem natOfBytes_bytesOfNat (n v : Nat) : natOfBytes (bytesOfNat n v) = v % 256 ^ n := by
  induction n generalizing v with
  | zero => simp [bytesOfNat, natOfBytes, Nat.mod_one]
  | succ n ih => calc
      natOfBytes (bytesOfNat (n + 1) v) = v % 256 + 256 * (v / 256 % 256 ^ n) := by rw [bytesOfNat, natOfBytes, ih]; rfl
      _ = v % (256 * 256 ^ n) := Nat.mod_mul.symm
      _ = v % 256 ^ (n + 1) := by rw [Nat.pow_succ']

theorem State.bytesAt_poke (s : State) (key loc n v : Nat) : (s.poke key loc (bytesOfNat n v)).bytesAt loc n = bytesOfNat n v := by
  have h := SMap.getList_setList memDefault s.mem loc (bytesOfNat n v)
  rwa [bytesOfNat_length] at h

/-! The keys of bytes (R397). -/

theorem State.keyAt_congr {s t : State} (h : t.keyRuns = s.keyRuns) (x : Nat) : t.keyAt x = s.keyAt x := by
  unfold State.keyAt; rw [h]

/-- The latest run that holds a byte gives its key. -/
theorem State.keyAt_cons {s t : State} {a n k : Nat} (h : t.keyRuns = (a, n, k) :: s.keyRuns) (x : Nat) :
    t.keyAt x = if a ≤ x ∧ x < a + n then k else s.keyAt x := by
  unfold State.keyAt
  rw [h, List.find?_cons]
  by_cases hx : a ≤ x ∧ x < a + n <;> simp [hx]

theorem isHbm_of_le {a b : Nat} (h : a ≤ b) (hb : isHbm b = true) : isHbm a = true := by
  simp only [isHbm, decide_eq_true_eq] at hb ⊢; omega

/-- Bytes put under a key add one run to those of memory, or have that key already. -/
theorem State.poke_keyRuns (s : State) (key loc : Nat) (bs : List Byte) :
    (s.poke key loc bs).keyRuns = (loc, bs.length, key) :: s.keyRuns ∨
    (s.poke key loc bs).keyRuns = s.keyRuns ∧ ∀ i < bs.length, isHbm (loc + i) = true → s.keyAt (loc + i) = key := by
  by_cases hc : (isHbm loc && (List.range bs.length).any (fun i => decide (s.keyAt (loc + i) ≠ key))) = true
  · exact .inl (if_pos hc)
  · refine .inr ⟨if_neg hc, fun i hi hh => ?_⟩
    by_contra hk
    refine hc ((Bool.and_eq_true _ _).mpr ⟨isHbm_of_le (Nat.le_add_right loc i) hh, List.any_eq_true.mpr ⟨i, List.mem_range.mpr hi, ?_⟩⟩)
    exact decide_eq_true hk

theorem State.keyAt_poke_in (s : State) (key loc : Nat) {bs : List Byte} {i : Nat} (hi : i < bs.length) (hh : isHbm (loc + i) = true) :
    (s.poke key loc bs).keyAt (loc + i) = key := by
  obtain h | ⟨h, hk⟩ := s.poke_keyRuns key loc bs
  · rw [State.keyAt_cons h, if_pos (by omega)]
  · rw [State.keyAt_congr h, hk i hi hh]

theorem State.keyAt_poke_out (s : State) (key loc : Nat) (bs : List Byte) {x : Nat} (hx : x < loc ∨ loc + bs.length ≤ x) :
    (s.poke key loc bs).keyAt x = s.keyAt x := by
  obtain h | ⟨h, -⟩ := s.poke_keyRuns key loc bs
  · rw [State.keyAt_cons h, if_neg (by omega)]
  · exact State.keyAt_congr h x

/-- Bytes read under the key they were written with are as they stand. -/
theorem State.decrypt_same (s : State) (key loc : Nat) (bs : List Byte) (h : ∀ i < bs.length, isHbm (loc + i) = true → s.keyAt (loc + i) = key) :
    s.decrypt key loc bs = bs := by
  induction bs generalizing loc with
  | nil => rfl
  | cons b bs ih =>
    have htail : s.decrypt key (loc + 1) bs = bs := ih (loc + 1) fun i hi hh => by
      rw [Nat.add_right_comm, Nat.add_assoc] at hh ⊢
      exact h (i + 1) (Nat.succ_lt_succ hi) hh
    have hhead : (isHbm loc && decide (s.keyAt loc ≠ key)) = false := by
      cases hh : isHbm loc
      · rfl
      · simpa using h 0 (Nat.succ_pos _) hh
    rw [State.decrypt, htail, hhead]
    rfl

/-! What a write logs (R173, R174, R306). -/

/-- Logging an error changes the records of errors alone. -/
theorem State.logError_rest_eq (s : State) (loc : Nat) (bad : Bool) :
    s.logError loc bad = { s with cores := (s.logError loc bad).cores, dies := (s.logError loc bad).dies } := by
  unfold State.logError
  split
  · rfl
  · split <;> rfl

theorem State.notePartial_rest_eq (s : State) (loc n : Nat) :
    s.notePartial loc n = { s with cores := (s.notePartial loc n).cores, dies := (s.notePartial loc n).dies } := by
  refine List.foldlRecOn (motive := fun t : State => t = { s with cores := t.cores, dies := t.dies }) _ _ rfl fun t ht i _ => ?_
  dsimp only
  split
  · rw [State.logError_rest_eq, ht]
  · exact ht

/-- A write of whole words replaces no word in part, and logs nothing. -/
theorem State.notePartial_whole (s : State) {loc n : Nat} (h0 : 0 < n) (hl : loc % 8 = 0) (hn : n % 8 = 0) : s.notePartial loc n = s := by
  refine (List.foldl_ext _ (fun a _ => a) s fun a i hi => if_neg ?_).trans (List.foldl_fixed _)
  have hi := List.mem_range.mp hi
  have hw : loc ≤ 8 * (loc / 8 + i) ∧ 8 * (loc / 8 + i) + 8 ≤ loc + n := by omega
  simp [hw]

/-- A write within one word that is poisoned logs that word. -/
theorem State.notePartial_part (s : State) {loc n : Nat} (h0 : 0 < n) (h8 : n < 8) (hl : loc % 8 + n ≤ 8) (hp : s.poison.get false (loc / 8) = true) :
    s.notePartial loc n = s.logError (8 * (loc / 8)) true := by
  have hr : (loc + n - 1) / 8 - loc / 8 + 1 = 1 := by omega
  have hw : ¬ (loc ≤ 8 * (loc / 8) ∧ 8 * (loc / 8) + 8 ≤ loc + n) := by omega
  simp [State.notePartial, hr, hp, hw]

/-- A range within one word meets poison where that word is poisoned. -/
theorem State.poisoned_within (s : State) {loc n : Nat} (h0 : 0 < n) (hl : loc % 8 + n ≤ 8) : s.poisoned loc n = s.poison.get false (loc / 8) := by
  have hr : (loc + n - 1) / 8 - loc / 8 + 1 = 1 := by omega
  simp [State.poisoned, hr]

/-- A word and each of its bytes have one unit that logs their errors. -/
theorem State.errUnit_word {s : State} {loc : Nat} {u : Nat × Nat} (h : s.errUnit loc = some u) : s.errUnit (8 * (loc / 8)) = some u := by
  unfold State.errUnit at h ⊢
  by_cases hh : loc < 2 ^ 40
  · have e1 : 8 * (loc / 8) / 2 ^ 38 = loc / 2 ^ 38 := by omega
    have e2 : 8 * (loc / 8) % 2 ^ 38 / 1024 = loc % 2 ^ 38 / 1024 := by omega
    have e3 : 8 * (loc / 8) / 512 = loc / 512 := by omega
    have hh' : 8 * (loc / 8) < 2 ^ 40 := by omega
    have hpa : s.paOk loc = true → s.paOk (8 * (loc / 8)) = true := by
      simp only [State.paOk, e1, Bool.and_eq_true, decide_eq_true_eq]
      omega
    simp only [isHbm, hh, hh', decide_true, if_true, e1, e2, e3] at h ⊢
    by_cases hk : s.paOk loc = true
    · rw [if_pos hk] at h
      rw [if_pos (hpa hk), h]
    · rw [if_neg hk] at h; cases h
  · have hh' : ¬ 8 * (loc / 8) < 2 ^ 40 := by omega
    simp only [isHbm, hh, hh', decide_false, Bool.false_eq_true, if_false] at h ⊢
    by_cases hv : 2 ^ 45 ≤ loc ∧ loc < vaultLoc 20 0 0
    · have hv' : 2 ^ 45 ≤ 8 * (loc / 8) ∧ 8 * (loc / 8) < vaultLoc 20 0 0 := by omega
      have e : (8 * (loc / 8) - 2 ^ 45) / 2 ^ 24 = (loc - 2 ^ 45) / 2 ^ 24 := by omega
      rw [if_pos hv] at h
      rw [if_pos hv', e, h]
    · rw [if_neg hv] at h; cases h

theorem State.logError_die {s : State} {loc d unit : Nat} (bad : Bool) (h : s.errUnit loc = some (d, unit)) :
    ((s.logError loc bad).die d).errlog = (s.die d).errlog ++ [⟨unit, loc / 8 * 8, bad⟩] := by
  have e : s.logError loc bad = s.onDie d fun x => { x with errlog := x.errlog ++ [⟨unit, loc / 8 * 8, bad⟩] } := by
    unfold State.logError; rw [h]
  rw [e]
  exact congrArg Die.errlog (SMap.get_set_self ..)

/-! A write at its home (R174, R268). -/

section HomeWrite
variable (s : State) (key loc n v : Nat) (rel : Option Nat)

theorem State.homeWrite_mem : (s.homeWrite key loc n v rel).mem = (s.poke key loc (bytesOfNat n v)).mem :=
  State.notePartial_mem ..

theorem State.homeWrite_keyRuns : (s.homeWrite key loc n v rel).keyRuns = (s.poke key loc (bytesOfNat n v)).keyRuns :=
  State.notePartial_keyRuns ..

theorem State.homeWrite_poison : (s.homeWrite key loc n v rel).poison = (s.cleanWhole loc n).poison :=
  State.notePartial_poison ..

theorem State.homeWrite_die (d : Nat) :
    (s.homeWrite key loc n v rel).die d = (((s.poke key loc (bytesOfNat n v)).cleanWhole loc n).notePartial loc n).die d := rfl

theorem State.homeWrite_bytesAt : (s.homeWrite key loc n v rel).bytesAt loc n = bytesOfNat n v := by
  unfold State.bytesAt
  rw [State.homeWrite_mem]
  exact s.bytesAt_poke key loc n v

theorem State.homeWrite_written : Written s (s.homeWrite key loc n v rel) key loc n v where
  value := by
    rw [State.peek, State.homeWrite_bytesAt, natOfBytes_bytesOfNat]
  under := by
    rw [State.peekKey, State.homeWrite_bytesAt, State.decrypt_same, natOfBytes_bytesOfNat]
    intro i hi hh
    rw [State.keyAt_congr (s.homeWrite_keyRuns key loc n v rel), State.keyAt_poke_in _ _ _ hi hh]
  order := ⟨_, rfl, rfl, rfl, rfl, rfl, rfl⟩
  others x hx := by
    refine ⟨s.homeWrite_other key loc n v rel x hx, ?_⟩
    rw [State.keyAt_congr (s.homeWrite_keyRuns key loc n v rel), State.keyAt_poke_out]
    rwa [bytesOfNat_length]
  rest := by
    unfold State.homeWrite State.writeHome
    rw [State.notePartial_rest_eq]
    rfl

end HomeWrite

/-- A word written whole is clean (R173). -/
theorem State.homeWrite_word_clean (s : State) (key v : Nat) {loc : Nat} (rel : Option Nat) (h : loc % 8 = 0) :
    (s.homeWrite key loc 8 v rel).poisoned loc 8 = false := by
  rw [State.poisoned_within _ (by omega) (by omega), State.homeWrite_poison]
  simp [State.cleanWhole, h]

/-- A write of less than a word cleans none (R174). -/
theorem State.cleanWhole_part (s : State) (loc : Nat) {n : Nat} (h : n < 8) : s.cleanWhole loc n = s := by
  unfold State.cleanWhole
  rw [Nat.div_eq_of_lt h]
  rfl

theorem State.homeWrite_part_poison (s : State) (key loc v : Nat) {n : Nat} (rel : Option Nat) (h : n < 8) :
    (s.homeWrite key loc n v rel).poison = s.poison := by
  rw [State.homeWrite_poison, s.cleanWhole_part loc h]

theorem State.homeWrite_part_logged (s : State) (key v : Nat) {loc n d unit : Nat} (rel : Option Nat) (h0 : 0 < n) (h8 : n < 8) (hl : loc % 8 + n ≤ 8)
    (hp : s.poisoned loc n = true) (hu : s.errUnit loc = some (d, unit)) :
    ((s.homeWrite key loc n v rel).die d).errlog = (s.die d).errlog ++ [⟨unit, loc / 8 * 8, true⟩] := by
  rw [State.poisoned_within s h0 hl] at hp
  have hdie : (s.homeWrite key loc n v rel).die d = ((s.poke key loc (bytesOfNat n v)).logError (8 * (loc / 8)) true).die d := by
    rw [← State.notePartial_part (s.poke key loc (bytesOfNat n v)) h0 h8 hl hp, State.homeWrite_die, State.cleanWhole_part _ loc h8]
  have hlog : ((s.homeWrite key loc n v rel).die d).errlog = (s.die d).errlog ++ [⟨unit, 8 * (loc / 8) / 8 * 8, true⟩] := by
    rw [hdie]
    exact State.logError_die true (State.errUnit_word hu)
  rwa [Nat.mul_div_cancel_left _ (by decide)] at hlog

theorem State.homeWrite_whole_logs_nothing (s : State) (key v : Nat) {loc n : Nat} (rel : Option Nat) (h0 : 0 < n) (hl : loc % 8 = 0) (hn : n % 8 = 0) :
    (s.homeWrite key loc n v rel).cores = s.cores ∧ (s.homeWrite key loc n v rel).dies = s.dies := by
  unfold State.homeWrite State.writeHome
  rw [State.notePartial_whole _ h0 hl hn]
  exact ⟨rfl, rfl⟩

theorem State.zeroFrame_get (s : State) (key f x : Nat) :
    (s.zeroFrame key f).mem.get memDefault x = if f ≤ x ∧ x < f + 2 ^ 18 then 0 else s.mem.get memDefault x := by
  refine (SMap.get_filter memDefault (fun k => !decide (f ≤ k ∧ k < f + 2 ^ 18)) s.mem x).trans ?_
  by_cases h : f ≤ x ∧ x < f + 2 ^ 18
  · rw [if_pos h, decide_eq_true h]; rfl
  · rw [if_neg h, decide_eq_false h]; rfl

/-- Settles O53: a write at its home by its parts, in memory, in the keys, in the poison marks and in the records of errors. -/
theorem memoryWrites : Obligations.MemoryWrites := by
  unfold Obligations.MemoryWrites
  refine ⟨fun s key loc n v rel => s.homeWrite_written key loc n v rel,
    fun s key loc v rel h => s.homeWrite_word_clean key v rel h,
    fun s key loc n v rel h => s.homeWrite_part_poison key loc v rel h,
    fun s key loc n v rel h0 hl hn => s.homeWrite_whole_logs_nothing key v rel h0 hl hn,
    fun s key loc n v rel d unit h0 h8 hl hp hu => s.homeWrite_part_logged key v rel h0 h8 hl hp hu,
    fun s key f x => ⟨s.zeroFrame_get key f x, fun h1 h2 => ?_⟩⟩
  rw [State.keyAt_cons (s := s) (t := s.zeroFrame key f) rfl, if_pos ⟨h1, h2⟩]

end Sys2Proof.Machine
end

section
/-! Elements of vector registers: what a register written by elements holds (R126, R129). -/

namespace Sys2Proof.Machine
open Sys2Proof.Claims

theorem packEls_lt (w : Nat) (xs : List Nat) : packEls w xs < 2 ^ (xs.length * w) := by
  induction xs with
  | nil => simp [packEls]
  | cons x xs ih =>
    have hx : x % 2 ^ w < 2 ^ w := Nat.mod_lt _ (Nat.two_pow_pos w)
    calc packEls w (x :: xs) < 2 ^ w + packEls w xs * 2 ^ w := Nat.add_lt_add_right hx _
      _ = (packEls w xs + 1) * 2 ^ w := by ring
      _ ≤ 2 ^ (xs.length * w) * 2 ^ w := Nat.mul_le_mul_right _ ih
      _ = 2 ^ ((x :: xs).length * w) := by rw [← Nat.pow_add, List.length_cons, Nat.succ_mul]

/-- Element i of packed elements is the i-th of the list. -/
theorem packEls_elem (w : Nat) (xs : List Nat) (i : Nat) (h : i < xs.length) : packEls w xs / 2 ^ (i * w) % 2 ^ w = xs[i] % 2 ^ w := by
  induction xs generalizing i with
  | nil => cases h
  | cons x xs ih =>
    cases i with
    | zero => simp [packEls]
    | succ i =>
      have hx : x % 2 ^ w < 2 ^ w := Nat.mod_lt _ (Nat.two_pow_pos w)
      have hrest : packEls w (x :: xs) / 2 ^ w = packEls w xs := by
        rw [packEls, Nat.add_mul_div_right _ _ (Nat.two_pow_pos w), Nat.div_eq_of_lt hx, Nat.zero_add]
      rw [Nat.succ_mul, Nat.add_comm (i * w), Nat.pow_add, ← Nat.div_div_eq_div_mul, hrest]
      exact ih i (Nat.lt_of_succ_lt_succ h)

/-- m bits with the low k of them replaced. -/
theorem toNat_lowReplaced {k m low : Nat} (old : BitVec m) (hk : k ≤ m) (hlow : low < 2 ^ k) :
    (BitVec.ofNat m (low + old.toNat / 2 ^ k * 2 ^ k)).toNat = low + old.toNat / 2 ^ k * 2 ^ k := by
  have hpow : 2 ^ m = 2 ^ k * 2 ^ (m - k) := by rw [← Nat.pow_add, Nat.add_sub_cancel' hk]
  have hhigh : old.toNat / 2 ^ k < 2 ^ (m - k) := Nat.div_lt_of_lt_mul (hpow ▸ old.isLt)
  rw [BitVec.toNat_ofNat]
  refine Nat.mod_eq_of_lt ?_
  calc low + old.toNat / 2 ^ k * 2 ^ k < (old.toNat / 2 ^ k + 1) * 2 ^ k := by rw [Nat.succ_mul, Nat.add_comm]; exact Nat.add_lt_add_left hlow _
    _ ≤ 2 ^ (m - k) * 2 ^ k := Nat.mul_le_mul_right _ hhigh
    _ = 2 ^ m := by rw [hpow, Nat.mul_comm]

/-- Elements put into a register that has room for them: the low bits are theirs, the bits above stay. -/
theorem putEls_toNat {w : Nat} (old : VReg) {els : List Nat} (h : els.length * w ≤ 8192) :
    (putEls w old els).toNat = packEls w els + old.toNat / 2 ^ (els.length * w) * 2 ^ (els.length * w) :=
  toNat_lowReplaced old h (packEls_lt w els)

theorem elemAt_putEls {w : Nat} (old : VReg) {els : List Nat} (h : els.length * w ≤ 8192) {i : Nat} (hi : i < els.length) :
    elemAt w (putEls w old els) i = els[i] % 2 ^ w := by
  rw [← packEls_elem w els i hi, elemAt, putEls_toNat old h]
  obtain ⟨k, hk⟩ : ∃ k, els.length * w = i * w + (w + k) := ⟨(els.length - (i + 1)) * w, by
    rw [← Nat.add_assoc, ← Nat.succ_mul, ← Nat.add_mul, Nat.add_sub_cancel' hi]⟩
  rw [hk, Nat.pow_add 2 (i * w), ← Nat.mul_assoc, Nat.mul_right_comm, Nat.add_mul_div_right _ _ (Nat.two_pow_pos _),
    Nat.pow_add 2 w, Nat.mul_comm (2 ^ w), ← Nat.mul_assoc, Nat.add_mul_mod_self_right]

theorem putEls_above {w : Nat} (old : VReg) {els : List Nat} (h : els.length * w ≤ 8192) :
    (putEls w old els).toNat / 2 ^ (els.length * w) = old.toNat / 2 ^ (els.length * w) := by
  rw [putEls_toNat old h, Nat.add_mul_div_right _ _ (Nat.two_pow_pos _), Nat.div_eq_of_lt (packEls_lt w els), Nat.zero_add]

theorem elemAt_mod (w : Nat) (v : VReg) (i : Nat) : elemAt w v i % 2 ^ w = elemAt w v i := Nat.mod_mod _ _

/-- Elements written where a test picks them, the others put back as they were, are a destination as R129 and R130 have it. -/
theorem putEls_elementwise {w n : Nat} (old : VReg) (on : Nat → Bool) (f : Nat → Nat) (h : n * w ≤ 8192) :
    Elementwise w n on old (putEls w old ((List.range n).map fun i => if on i then f i else elemAt w old i)) f := by
  have hlen : ((List.range n).map fun i => if on i then f i else elemAt w old i).length = n := by simp
  refine ⟨fun i hi => ?_, ?_⟩
  · rw [elemAt_putEls old (by rwa [hlen]) (by rwa [hlen]), List.getElem_map, List.getElem_range]
    split
    · rfl
    · exact elemAt_mod ..
  · have := putEls_above old (w := w) (els := (List.range n).map fun i => if on i then f i else elemAt w old i) (by rwa [hlen])
    rwa [hlen] at this

theorem Strand.getV_setV_self (t : Strand) (r : BitVec 5) (v : VReg) : (t.setV r v).getV r = v := Vector.getElem_set_self r.isLt

theorem Strand.getV_setV_ne (t : Strand) {r r' : BitVec 5} (v : VReg) (h : r' ≠ r) : (t.setV r v).getV r' = t.getV r' :=
  Vector.getElem_set_ne r.isLt r'.isLt fun e => h (BitVec.eq_of_toNat_eq e.symm)

end Sys2Proof.Machine
end

section
/-! Translation leaves the current strand as it is, but for the places of what it has pending and holds (R289 to R297, R304); so a pre-emption that is not pending before an access is not pending after it. -/

namespace Sys2Proof.Machine

@[simp] theorem State.tlbPut_cur (s : State) (t : TlbEntry) : (s.tlbPut t).cur = s.cur := rfl

@[simp] theorem State.tlbAdd_cur (s : State) (t : TlbEntry) : (s.tlbAdd t).cur = s.cur := by
  unfold State.tlbAdd; split <;> rfl

@[simp] theorem State.walkAdd_cur (s : State) (die root va : Nat) : (s.walkAdd die root va).cur = s.cur := by
  exact (apply_ite State.cur _ _ _).trans (ite_self _)

@[simp] theorem State.setAD_cur (s : State) (at_ : Nat) (e : Word) (write : Bool) : (s.setAD at_ e write).2.cur = s.cur := by
  unfold State.setAD
  rw [apply_ite State.cur, State.homeWrite_cur, ite_self]

theorem State.firstTouch_cur {s : State} {die at_ : Nat} {e : Word} {write : Bool} {r : Word × State} (h : s.firstTouch die at_ e write = some r) : r.2.cur = s.cur := by
  unfold State.firstTouch at h
  split at h
  · cases h
  · cases h
    exact State.homeWrite_cur ..

theorem State.translate_cur (s : State) (cl : Nat) (core : Option Nat) (root key : Nat) (n : Need) (va : Nat) : (s.translate cl core root key n va).1.cur = s.cur := by
  unfold State.translate
  split
  · split
    · rfl
    · dsimp only
      split <;> rfl
  · split
    case h_5 => split <;> simp
    case h_6 =>
      split
      · rfl
      · split
        · rfl
        · split
          · rfl
          · next h => simpa using State.firstTouch_cur h
    all_goals rfl

theorem State.place_pre (s : State) (t : Strand) (va : Word) (n : Nat) (nd : Need) (ringOk : Bool) : (s.place t va n nd ringOk).1.cur.pre = s.cur.pre := by
  unfold State.place
  split
  · rfl
  · split
    · repeat' split
      all_goals rfl
    · have hcur := s.translate_cur (clusterOf t.sid) (some (coreOf t.sid)) (s.jobRoot t.job).1 (s.jobRoot t.job).2 nd va.toNat
      dsimp only
      split
      · next h => rw [h] at hcur; rw [hcur]
      · next h =>
        rw [h] at hcur
        split
        · rw [hcur]
        · dsimp only
          split
          · exact (congrArg Strand.pre hcur :)
          · rw [hcur]

theorem State.reach_pre (s : State) (t : Strand) (va : Word) (n : Nat) (nd : Need) : (s.reach t va n nd).1.cur.pre = s.cur.pre := by
  have h := s.place_pre t va n nd true
  unfold State.reach
  split
  · next hp => rwa [hp] at h
  · next hp =>
    rw [hp] at h
    split <;> exact h

end Sys2Proof.Machine
end

section
/-! The MAT instructions at their issue (R182 to R187) and `mrd` as the matrix unit performs it (R175, R179, R185). -/

namespace Sys2Proof.Machine
open Sys2Proof.Claims

/-! Issue and completion. -/

/-- Reading tokens changes nothing but what the strand has acquired. -/
theorem readAll_eq (s : State) (srcs : List (BitVec 5)) : ∃ h q o, readAll s srcs = { s with cur := { s.cur with hb := h, soon := q, obs := o } } :=
  State.readToks_eq srcs s

section ReadAll
variable (s : State) (srcs : List (BitVec 5))

@[simp] theorem readAll_getS (r : BitVec 5) : (readAll s srcs).cur.getS r = s.cur.getS r := by
  obtain ⟨h, q, o, e⟩ := readAll_eq s srcs; rw [e]; rfl
@[simp] theorem readAll_stream (v : BitVec 5) : (readAll s srcs).cur.stream v = s.cur.stream v := by
  obtain ⟨h, q, o, e⟩ := readAll_eq s srcs; rw [e]; rfl
@[simp] theorem readAll_laneCount : (readAll s srcs).cur.laneCount = s.cur.laneCount := by
  obtain ⟨h, q, o, e⟩ := readAll_eq s srcs; rw [e]; rfl
@[simp] theorem readAll_mlease : (readAll s srcs).cur.mlease = s.cur.mlease := by
  obtain ⟨h, q, o, e⟩ := readAll_eq s srcs; rw [e]
@[simp] theorem readAll_pre : (readAll s srcs).cur.pre = s.cur.pre := by
  obtain ⟨h, q, o, e⟩ := readAll_eq s srcs; rw [e]
@[simp] theorem readAll_curCore : (readAll s srcs).curCore = s.curCore := by
  obtain ⟨h, q, o, e⟩ := readAll_eq s srcs; rw [e]; rfl
@[simp] theorem readAll_core (k : Nat) : (readAll s srcs).core k = s.core k := by
  obtain ⟨h, q, o, e⟩ := readAll_eq s srcs; rw [e]; rfl
@[simp] theorem readAll_matrix (k : Nat) : (readAll s srcs).matrix k = (s.core k).matrix :=
  congrArg Core.matrix (readAll_core s srcs k)
@[simp] theorem readAll_mrdQueued : (readAll s srcs).mrdQueued = s.mrdQueued := by
  obtain ⟨h, q, o, e⟩ := readAll_eq s srcs; rw [e]; rfl
theorem readAll_rowWait : (readAll s srcs).rowWait = ⟨s.jtime + s.cur.dlDef, (readAll s srcs).cur⟩ := by
  obtain ⟨h, q, o, e⟩ := readAll_eq s srcs; rw [e]; rfl

end ReadAll

/-- A MAT instruction whose registers are full, whose checks pass and whose job holds the lease goes on once its tokens are read. -/
theorem State.matIssue_go {s : State} {srcs : List (BitVec 5)} {ok : State → Bool} {lanes : Bool} (k : State → State) (h : Ready s srcs) (hl : s.cur.mlease = true)
    (hok : ok (readAll s srcs) = true) (hn : lanes = false ∨ s.cur.laneCount ≠ 0) : s.matIssue srcs ok lanes k = k (readAll s srcs) := by
  have hlanes : (lanes && decide ((readAll s srcs).cur.laneCount = 0)) = false := by
    obtain rfl | hn := hn
    · rfl
    · simp [hn]
  have hlease : (!(readAll s srcs).cur.mlease) = false := by simpa using hl
  calc s.matIssue srcs ok lanes k = _ := s.issue_full srcs [] _ (by simpa using h.full)
    _ = k (readAll s srcs) := by
      show (if !ok (readAll s srcs) then _ else if lanes && decide ((readAll s srcs).cur.laneCount = 0) then _ else if !(readAll s srcs).cur.mlease then _ else _) = _
      rw [hok, hlanes, hlease]; rfl

theorem State.matPut_room {s : State} (op : MOp) (k : State → State) (h : (s.core s.curCore).matrix.used < 16) : s.matPut op k = k (queued s op) := if_pos h

theorem State.clearOfRows_go {s : State} (l : List (Nat × Word × Nat × Hit)) (k : State → State) (h : s.mstQueued = false) : s.clearOfRows l k = k s := by
  simp [State.clearOfRows, h]

theorem State.core_onCore_self (s : State) (k : Nat) (f : Core → Core) : (s.onCore k f).core k = f (s.core k) := SMap.get_set_self ..

theorem State.core_onCore_ne (s : State) {k j : Nat} (f : Core → Core) (h : j ≠ k) : (s.onCore k f).core j = s.core j := SMap.get_set_ne _ _ _ h

theorem queued_matrix (s : State) (op : MOp) :
    ((queued s op).core s.curCore).matrix = { (s.core s.curCore).matrix with queue := (s.core s.curCore).matrix.queue ++ [entryOf s op] } :=
  congrArg Core.matrix (s.core_onCore_self s.curCore _)

theorem queued_others (s : State) (op : MOp) {k : Nat} (h : k ≠ s.curCore) : (queued s op).core k = s.core k := s.core_onCore_ne _ h

/-- An instruction that queues an entry once its tokens are read, and completes, has only queued it. -/
theorem queued_retire_enqueued {s : State} (srcs : List (BitVec 5)) (op : MOp) (h : s.cur.pre = none) : Enqueued s (queued (readAll s srcs) op).retire op := by
  obtain ⟨hb, q, o, e⟩ := readAll_eq s srcs
  have hpre : (queued (readAll s srcs) op).cur.pre = none := (readAll_pre s srcs).trans h
  rw [State.retire_calm _ hpre, e]
  exact {
    matrix := queued_matrix { s with cur := { s.cur with hb := hb, soon := q, obs := o } } op
    others := fun k hk => queued_others { s with cur := { s.cur with hb := hb, soon := q, obs := o } } op hk
    rest := ⟨fun r _ => ⟨rfl, rfl⟩, rfl⟩
    order := ⟨rfl, rfl⟩ }

/-! Work for the unit: `mswap`, `mzero`, `mld`, `mst` (R182, R183, R186, R187). -/

theorem exec_mswap {s : State} (h : MReady s []) : exec .mswap s = .next (queued s .mswap).retire := by
  show Host.Outcome.next (s.matIssue _ _ _ _) = _
  rw [State.matIssue_go _ h.ready h.lease rfl (.inl rfl)]
  exact congrArg _ (State.matPut_room _ _ h.room)

theorem exec_mzero {s : State} (x : BitVec 2) (h : MReady s []) : exec (.mzero x) s = .next (queued s (.mzero x.toNat)).retire := by
  show Host.Outcome.next (s.matIssue _ _ _ _) = _
  rw [State.matIssue_go _ h.ready h.lease rfl (.inl rfl)]
  exact congrArg _ (State.matPut_room _ _ h.room)

/-- `mld` with its rows reached and read (R182). -/
theorem exec_mld {s u v : State} {a b y : BitVec 5} {ty : ElTy} {l : List (Nat × Word × Nat × Hit)} {rows : List MRow} (hty : ElTy.ofCode y.toNat = some ty) (h : MReady s [a, b])
    (hc : mclass ty ≠ 0) (hp : rowBytes ty 128 ≤ (s.cur.getS b).toNat) (hp' : (s.cur.getS b).toNat < 2 ^ 32) (ha4 : (s.cur.getS a).toNat % 4 = 0) (hb4 : (s.cur.getS b).toNat % 4 = 0)
    (hreach : (readAll s [a, b]).reachAll (needOf .matrixLoad) (rowsAt (s.cur.getS a) (s.cur.getS b).toNat (mclassK (mclass ty)) (rowBytes ty 128)) = (u, .ok l))
    (hq : u.mstQueued = false) (hread : u.readRows (mclassK (mclass ty)) l = (v, rows)) (hroom : (v.core v.curCore).matrix.used < 16) :
    exec (.mld a b y) s = .next (queued v (.mld ty rows)).retire := by
  show execMld a b y s = _
  unfold execMld
  rw [hty]
  dsimp only
  rw [State.matIssue_go _ h.ready h.lease (decide_eq_true (by rw [readAll_getS]; exact ⟨hc, hp, hp'⟩)) (.inl rfl)]
  simp only [readAll_getS, ha4, hb4, ne_eq, not_true, or_self, if_false, hreach, State.clearOfRows_go l _ hq, hread]
  rw [State.matPut_room _ _ hroom]

/-- `mst` with the places of its rows (R187). -/
theorem exec_mst {s u : State} {x : BitVec 2} {a b y : BitVec 5} {ty : ElTy} {l : List (Nat × Word × Nat × Hit)} (hty : ElTy.ofCode y.toNat = some ty) (h : MReady s [a, b])
    (htag : mstTakes ((s.core s.curCore).matrix.tagOf x.toNat) ty = true) (hp : 16 * widthOf ty ≤ (s.cur.getS b).toNat) (hp' : (s.cur.getS b).toNat < 2 ^ 32)
    (ha : (s.cur.getS a).toNat % (widthOf ty / 8) = 0) (hb : (s.cur.getS b).toNat % (widthOf ty / 8) = 0)
    (hreach : (readAll s [a, b]).reachAll (needOf .matrixStore) (rowsAt (s.cur.getS a) (s.cur.getS b).toNat 128 (128 * (widthOf ty / 8))) = (u, .ok l))
    (hroom : (u.core u.curCore).matrix.used < 16) :
    exec (.mst x a b y) s = .next (queued u (.mst ty x.toNat (l.map fun q => ⟨q.1, q.2.1, q.2.2.2.loc, q.2.2.2.key, q.2.2.1, q.2.2.2.sable⟩) ⟨u.jtime + u.cur.dlDef, u.cur⟩)).retire := by
  show execMst x a b y s = _
  unfold execMst
  rw [hty]
  dsimp only
  have hok : (mstTakes (((readAll s [a, b]).matrix (readAll s [a, b]).curCore).tagOf x.toNat) ty &&
      decide (16 * widthOf ty ≤ ((readAll s [a, b]).cur.getS b).toNat ∧ ((readAll s [a, b]).cur.getS b).toNat < 2 ^ 32)) = true := by
    rw [readAll_matrix, readAll_curCore, readAll_getS, htag, decide_eq_true ⟨hp, hp'⟩]; rfl
  rw [State.matIssue_go _ h.ready h.lease hok (.inl rfl)]
  simp only [readAll_getS, ha, hb, ne_eq, not_true, or_self, if_false, hreach]
  rw [State.matPut_room _ _ hroom]
  rfl

/-! `mstr` (R184). -/

theorem Matrix.tile_setTile_self (m : Matrix) {t : Nat} (v : Tile) (h : t < 4) : (m.setTile t v).tile t = v := by
  simp [Matrix.tile, Matrix.setTile, h]

theorem Matrix.tile_setTile_ne (m : Matrix) {t k : Nat} (v : Tile) (h : k ≠ t) : (m.setTile t v).tile k = m.tile k := by
  simp [Matrix.tile, Matrix.setTile, List.getElem?_set_ne h.symm]

/-- Checking rows asks for no pre-emption. -/
theorem State.reachAll_pre (s : State) (nd : Need) (rows : List (Nat × Word × Nat)) : (s.reachAll nd rows).1.cur.pre = s.cur.pre := by
  induction rows generalizing s with
  | nil => rfl
  | cons r rows ih =>
    obtain ⟨i, va, n⟩ := r
    have h1 := s.reach_pre s.cur va n nd
    unfold State.reachAll
    split
    · next h => rwa [h] at h1
    · next s1 _ h =>
      rw [h] at h1
      have h2 := (ih s1).trans h1
      split
      · next h' => rwa [h'] at h2
      · exact h2

theorem State.readPiece_pre (s : State) (h : Hit) (words off : Nat) : (s.readPiece h words off).1.cur.pre = s.cur.pre := by
  induction words generalizing s off with
  | zero => rfl
  | succ w ih =>
    unfold State.readPiece
    refine (ih _ _).trans ?_
    split
    · rfl
    · split <;> rfl

/-- Reading rows asks for no pre-emption. -/
theorem State.readRows_pre (s : State) (count : Nat) (l : List (Nat × Word × Nat × Hit)) : (s.readRows count l).1.cur.pre = s.cur.pre := by
  unfold State.readRows
  refine List.foldlRecOn (motive := fun a : State × List MRow => a.1.cur.pre = s.cur.pre) _ _ rfl fun a ha i _ => ?_
  refine List.foldlRecOn (motive := fun b : State × List Byte × Bool => b.1.cur.pre = s.cur.pre) _ _ ha fun b hb x _ => ?_
  have h := (b.1.readPiece_pre x.2.2.2 (x.2.2.1 / 4) 0).trans hb
  dsimp only
  split <;> exact h

/-- Rows that all lie in the own scratchpad window pass the check of R184. -/
theorem mstrRow_inside {base : Word} {n pitch bytes : Nat}
    (h : ∀ i, i < n → (base + word (i * pitch)).toNat / 2 ^ 56 = 0xF0 ∧ (base + word (i * pitch)).toNat % 2 ^ 56 + bytes ≤ 2 ^ 21) :
    mstrRow ((List.range n).map fun i => (i, base + word (i * pitch), bytes)) = none := by
  have hnone : ((List.range n).map fun i => (i, base + word (i * pitch), bytes)).find?
      (fun r => decide (r.2.1.toNat / 2 ^ 56 ≠ 0xF0 ∨ 2 ^ 21 < r.2.1.toNat % 2 ^ 56 + r.2.2)) = none := by
    rw [List.find?_eq_none]
    intro r hr
    obtain ⟨i, hi, rfl⟩ := List.mem_map.mp hr
    obtain ⟨hwin, hend⟩ := h i (List.mem_range.mp hi)
    simp only [decide_eq_true_eq]
    omega
  unfold mstrRow
  rw [hnone]

/-- The matrix unit with the final bits of the first n rows of a tile cleared. -/
def clearFinal (t n : Nat) (m : Matrix) : Matrix :=
  m.setTile t { m.tile t with final := (m.tile t).final &&& ~~~(BitVec.ofNat 128 (2 ^ n - 1)) }

/-- `mstr` with its rows reached and read (R184). -/
theorem exec_mstr {s u v : State} {x : BitVec 2} {a b : BitVec 5} {c : BitVec 1} {y : BitVec 5} {ty : ElTy} {n pitch : Nat} {l : List (Nat × Word × Nat × Hit)} {rows : List MRow}
    (hty : ElTy.ofCode y.toNat = some ty) (h : MReady s [a, b]) (hok : (readAll s [a, b]).mstrOk ty x.toNat (decide (c = 1#1)) (s.cur.getS b) = true)
    (hn : (s.cur.getS b).toNat % 2 ^ 16 = n) (hpitch : (s.cur.getS b).toNat / 2 ^ 16 % 2 ^ 32 = pitch) (ha4 : (s.cur.getS a).toNat % 4 = 0) (hp4 : pitch % 4 = 0)
    (hin : mstrRow ((List.range n).map fun i => (i, s.cur.getS a + word (i * pitch), rowBytes ty (mclassK (mclass ty)))) = none)
    (hreach : (readAll s [a, b]).reachAll (needOf .matrixLoad) (rowsAt (s.cur.getS a) pitch n (rowBytes ty (mclassK (mclass ty)))) = (u, .ok l))
    (hq : u.mstQueued = false) (hread : u.readRows n l = (v, rows)) (hroom : (v.core v.curCore).matrix.used < 16) :
    exec (.mstr x a b c y) s = .next ((queued v (.mstr ty x.toNat (decide (c = 1#1)) rows)).onMatrix v.curCore (clearFinal x.toNat n)).retire := by
  show execMstr x a b c y s = _
  unfold execMstr
  rw [hty]
  dsimp only
  rw [State.matIssue_go _ h.ready h.lease (by rw [readAll_getS]; exact hok) (.inl rfl)]
  simp only [readAll_getS, hn, hpitch, ha4, hp4, ne_eq, not_true, or_self, if_false, hin, hreach, State.clearOfRows_go l _ hq, hread]
  rw [State.matPut_room _ _ hroom]
  rfl

/-- What `mstr` leaves: its entry at the end of the queue, the final bits of its rows cleared (R184). -/
theorem mstr_done {v t : State} (op : MOp) (x n : Nat) (ht : ((queued v op).onMatrix v.curCore (clearFinal x n)).retire = t) (h : v.cur.pre = none) :
    t.mem = v.mem ∧ Stepped v t ∧
    (t.core v.curCore).matrix = clearFinal x n { (v.core v.curCore).matrix with queue := (v.core v.curCore).matrix.queue ++ [entryOf v op] } := by
  have hpre : ((queued v op).onMatrix v.curCore (clearFinal x n)).cur.pre = none := h
  have hmat : (((queued v op).onMatrix v.curCore (clearFinal x n)).core v.curCore).matrix =
      clearFinal x n { (v.core v.curCore).matrix with queue := (v.core v.curCore).matrix.queue ++ [entryOf v op] } := by
    rw [State.onMatrix, State.core_onCore_self, queued_matrix]
  rw [State.retire_calm _ hpre] at ht
  subst ht
  exact ⟨rfl, ⟨rfl, rfl⟩, hmat⟩

/-- A strand with no pre-emption pending has none after an instruction has reached and read its rows. -/
theorem pre_of_rows {s u v : State} {srcs : List (BitVec 5)} {nd : Need} {pieces : List (Nat × Word × Nat)} {n : Nat} {l : List (Nat × Word × Nat × Hit)} {rows : List MRow}
    (h : s.cur.pre = none) (hreach : (readAll s srcs).reachAll nd pieces = (u, .ok l)) (hread : u.readRows n l = (v, rows)) : v.cur.pre = none := by
  have hv := u.readRows_pre n l
  have hu := (readAll s srcs).reachAll_pre nd pieces
  rw [hread] at hv
  rw [hreach, readAll_pre, h] at hu
  exact hv.trans hu

/-! `mrd` (R185). -/

theorem Tile.rowFault_clean {t : Tile} (hp : t.poison = 0) (he : t.ecc = 0) (i : Nat) : t.rowFault i = none := by
  simp [Tile.rowFault, hp, he]

theorem Matrix.rowsFault_clean {m : Matrix} {t : Nat} (hp : (m.tile t).poison = 0) (he : (m.tile t).ecc = 0) (r : Nat) : m.rowsFault t r = none := by
  simp [Matrix.rowsFault, Tile.rowFault_clean hp he]

theorem Strand.vbits_els (t : Strand) : t.vbits / 32 = 16 * t.laneCount := by
  unfold Strand.vbits; omega

/-- `mrd` writes columns c + i of the two rows, taken as one row of 256 columns, to its register. -/
theorem Strand.mrdPut_elementwise (t : Strand) (m : Matrix) (d : BitVec 5) (x r c : Nat) (h : t.laneCount ≤ 16) :
    Elementwise 32 (16 * t.laneCount) (fun i => decide (c + i < 256)) (t.getV d) ((t.mrdPut m d x r c).getV d)
      (fun i => column (tileRow m x (r + (c + i) / 128)) ((c + i) % 128)) := by
  rw [Strand.mrdPut, Strand.getV_setV_self, Strand.vbits_els]
  have := putEls_elementwise (w := 32) (t.getV d) (fun i => decide (c + i < 256)) (fun i => column (tileRow m x (r + (c + i) / 128)) ((c + i) % 128)) (n := 16 * t.laneCount) (by omega)
  simp only [decide_eq_true_eq] at this
  exact this

/-- What an `mrd` with final, clean rows leaves (R185). -/
theorem mrd_done {s : State} (srcs : List (BitVec 5)) (m : Matrix) (d : BitVec 5) (x r c : Nat) {t : State} (ht : ((readAll s srcs).onCur fun y => y.mrdPut m d x r c).retire = t)
    (h : s.cur.pre = none) (hl : s.cur.laneCount ≤ 16) :
    Elementwise 32 (16 * s.cur.laneCount) (fun i => decide (c + i < 256)) (s.cur.getV d) (t.cur.getV d)
      (fun i => column (tileRow m x (r + (c + i) / 128)) ((c + i) % 128)) ∧ t.cur.fflags = s.cur.fflags ∧ OnlyVectors s t [d] ∧ Stepped s t := by
  obtain ⟨hb, q, o, e⟩ := readAll_eq s srcs
  have hpre : ((readAll s srcs).onCur fun y => y.mrdPut m d x r c).cur.pre = none := (readAll_pre s srcs).trans h
  rw [State.retire_calm _ hpre, e] at ht
  subst ht
  exact ⟨s.cur.mrdPut_elementwise m d x r c hl, rfl,
    { scalars := fun _ _ => ⟨rfl, rfl⟩
      vecs := fun v hv => s.cur.getV_setV_ne _ (List.ne_of_not_mem_cons hv)
      rest := rfl }, ⟨rfl, rfl⟩⟩

/-- `mrd` whose checks pass, before it looks at its rows. -/
theorem exec_mrd {s : State} {d : BitVec 5} {x : BitVec 2} {a : BitVec 5} (h : Ready s [a]) (hl : s.cur.mlease = true) (hd : s.cur.stream d = none) (hn : s.cur.laneCount ≠ 0)
    (hv : (s.cur.getS a).toNat < 2 ^ 24) (hr : (s.cur.getS a).toNat % 2 ^ 16 % 2 = 0) (hr' : (s.cur.getS a).toNat % 2 ^ 16 ≤ 126) :
    exec (.mrd d x a) s = .next (
      let v := (s.cur.getS a).toNat
      let r := v % 2 ^ 16
      let m := (s.core s.curCore).matrix
      if (rowsMissing m.queue x.toNat [r, r + 1]).isSome || s.mrdQueued then (queued (readAll s [a]) (.mrd x.toNat r (v / 2 ^ 16) d ⟨s.jtime + s.cur.dlDef, (readAll s [a]).cur⟩)).retire
      else match m.rowsFault x.toNat r with
        | some f => (readAll s [a]).faultCode f 0 10 0
        | none => ((readAll s [a]).onCur fun t => t.mrdPut m d x.toNat r (v / 2 ^ 16)).retire) := by
  have hmrd : mrdOk (s.cur.getS a) = true := by
    simp only [mrdOk, decide_eq_true_eq]
    omega
  show execMrd d x a s = _
  unfold execMrd
  rw [State.matIssue_go _ h hl (by simp [Strand.anyStream, hd, hmrd]) (.inr hn)]
  simp only [readAll_getS, readAll_matrix, readAll_curCore, readAll_mrdQueued, readAll_rowWait]
  rfl

/-- The first entry a test picks, where it picks none before it. -/
theorem pickWith_first {f : List MEntry → MEntry → Bool} {e : MEntry} {post : List MEntry} : ∀ {pre : List MEntry} (acc : List MEntry),
    (∀ q, ∀ x ∈ pre, f q x = false) → f (acc ++ pre) e = true → pickWith f acc (pre ++ e :: post) = some (acc ++ pre, e, post)
  | [], acc, _, he => by
    rw [List.append_nil] at he ⊢
    exact if_pos he
  | x :: pre, acc, hpre, he => by
    have hx : pickWith f acc (x :: pre ++ e :: post) = pickWith f (acc ++ [x]) (pre ++ e :: post) :=
      if_neg (by simp [hpre acc x List.mem_cons_self])
    rw [hx, pickWith_first (acc ++ [x]) (fun q y hy => hpre q y (List.mem_cons_of_mem _ hy)) (by simpa using he)]
    simp

theorem State.strand?_cur {s : State} (h : s.cur.away = false) : s.strand? s.cur.sid = some s.cur := if_pos ⟨rfl, h⟩

theorem State.onUid_cur (s : State) (f : Strand → Strand) : s.onUid s.cur.uid f = s.onCur f := if_pos rfl

/-- MRD_WRITE of the current strand's first `mrd`, with clean rows that are final (R179 rule 5, R185). -/
theorem exec_mrdWrite {s : State} {x r c : Nat} {d : BitVec 5} {w : RowWait} {pc : Word} {n : Nat} {pre post : List MEntry} (haway : s.cur.away = false)
    (hqueue : (s.core (coreOf s.cur.sid)).matrix.queue = pre ++ ⟨s.cur.uid, pc, .mrd x r c d w, n⟩ :: post)
    (hfirst : ∀ e ∈ pre, e.uid = s.cur.uid → ∀ t r c d w, e.op ≠ .mrd t r c d w) (hr : rowReady pre x r = true) (hr' : rowReady pre x (r + 1) = true)
    (hp : ((s.core (coreOf s.cur.sid)).matrix.tile x).poison = 0) (he : ((s.core (coreOf s.cur.sid)).matrix.tile x).ecc = 0) :
    exec (.mrdWrite s.cur.sid) s =
      .next ((s.onCur fun t => t.mrdPut (s.core (coreOf s.cur.sid)).matrix d x r c).onMatrix (coreOf s.cur.sid) fun m => { m with queue := pre ++ post }) := by
  show execMrdWrite s.cur.sid s = _
  unfold execMrdWrite
  rw [State.strand?_cur haway]
  dsimp only
  rw [State.matrix, hqueue, pickWith_first []]
  · simp only [List.nil_append, hr, hr', Bool.and_self, Bool.not_true, Bool.false_eq_true, if_false, Matrix.rowsFault_clean hp he, State.onUid_cur]
  · intro q e hmem
    rw [Bool.and_eq_false_imp]
    intro hu
    split
    · next hop => exact absurd hop (hfirst e hmem (of_decide_eq_true hu) _ _ _ _ _)
    · rfl
  · simp

/-! The obligation. -/

/-- Settles O21: the entry of each MAT instruction by its own equation; `mstr` and the two forms of `mrd` by what their state after it holds. -/
theorem matrixIssue : Obligations.MatrixIssue := by
  unfold Obligations.MatrixIssue
  refine ⟨⟨?_, ?_, ?_, ?_, ?_⟩, ?_, ?_⟩
  · exact fun s h => ⟨_, exec_mswap h, queued_retire_enqueued [] .mswap h.ready.calm⟩
  · exact fun s x h => ⟨_, exec_mzero x h, queued_retire_enqueued [] (.mzero x.toNat) h.ready.calm⟩
  · intro s a b y ty u l v rows hty h hc hp hp' ha hb hreach hq hread hroom
    exact exec_mld hty h hc hp hp' ha hb hreach hq hread hroom
  · intro s x a b c y ty u l v rows hty h hok n pitch bytes ha hp hin hreach hq hread hroom
    obtain ⟨hmem, hstep, hmat⟩ := mstr_done (.mstr ty x.toNat (decide (c = 1#1)) rows) x.toNat n rfl (pre_of_rows h.ready.calm hreach hread)
    refine ⟨_, exec_mstr hty h hok rfl rfl ha hp (mstrRow_inside hin) hreach hq hread hroom, hmem, hstep, ?_, ?_, ?_⟩
    · rw [hmat]; rfl
    · rw [hmat, clearFinal, Matrix.tile_setTile_self _ _ x.isLt]; rfl
    · intro k hk
      rw [hmat, clearFinal, Matrix.tile_setTile_ne _ _ hk]; rfl
  · intro s x a b y ty u l hty h htag hp hp' ha hb hreach hroom
    exact exec_mst hty h htag hp hp' ha hb hreach hroom
  · intro s d x a h hl hd hn hgrant v r c m hv hr hr'
    have hexec := exec_mrd (x := x) h hl hd hn hv hr hr'
    refine ⟨fun hrows hq hp he => ?_, fun hwait => ?_⟩
    · refine ⟨_, ?_, mrd_done [a] m d x.toNat r c rfl h.calm hgrant⟩
      rw [hexec]
      simp only [v, r, c, m, hrows, hq, Matrix.rowsFault_clean hp he, Option.isSome_none, Bool.or_self, Bool.false_eq_true, if_false]
    · refine ⟨_, ?_, queued_retire_enqueued [a] _ h.calm⟩
      have hcond : ((rowsMissing m.queue x.toNat [r, r + 1]).isSome || s.mrdQueued) = true := by
        rw [Bool.or_eq_true, Option.isSome_iff_ne_none]; exact hwait
      rw [hexec]
      exact congrArg _ (if_pos hcond)
  · intro s x r c d w pc n pre post haway hgrant k m hqueue hfirst hr hr' hp he
    exact ⟨_, exec_mrdWrite haway hqueue hfirst hr hr' hp he, s.cur.mrdPut_elementwise m d x r c hgrant, fun v hv => s.cur.getV_setV_ne _ hv,
      State.core_onCore_self .., ⟨rfl, fun j hj => State.core_onCore_ne _ _ hj⟩⟩

end Sys2Proof.Machine
end

section
/-! Words and instructions (R38 to R63): the round trip of every instruction, and of every word that decodes. -/

namespace Sys2Proof.Laws

/-! From an instruction to its word and back. -/

/-- Every instruction of the opcode table reads back from its word; an event has no word. -/
theorem decode_encode (i : Instr) : RoundTrip.Statement i := by
  cases i with
  | add => exact RoundTrip.add _ _ _ | sll => exact RoundTrip.sll _ _ _ | slt => exact RoundTrip.slt _ _ _ | sltz => exact RoundTrip.sltz _ _ _
  | xor => exact RoundTrip.xor _ _ _ | srl => exact RoundTrip.srl _ _ _ | or => exact RoundTrip.or _ _ _ | and => exact RoundTrip.and _ _ _
  | sub => exact RoundTrip.sub _ _ _ | sra => exact RoundTrip.sra _ _ _ | mul => exact RoundTrip.mul _ _ _ | mulh => exact RoundTrip.mulh _ _ _
  | mulhz => exact RoundTrip.mulhz _ _ _ | div => exact RoundTrip.div _ _ _ | divz => exact RoundTrip.divz _ _ _ | rem => exact RoundTrip.rem _ _ _
  | remz => exact RoundTrip.remz _ _ _ | min => exact RoundTrip.min _ _ _ | max => exact RoundTrip.max _ _ _ | minz => exact RoundTrip.minz _ _ _
  | maxz => exact RoundTrip.maxz _ _ _ | clz => exact RoundTrip.clz _ _ | ctz => exact RoundTrip.ctz _ _ | popc => exact RoundTrip.popc _ _
  | bswap => exact RoundTrip.bswap _ _
  | addi => exact RoundTrip.addi _ _ _ | slli => exact RoundTrip.slli _ _ _ | slti => exact RoundTrip.slti _ _ _
  | sltiz => exact RoundTrip.sltiz _ _ _ | xori => exact RoundTrip.xori _ _ _ | srli => exact RoundTrip.srli _ _ _
  | srai => exact RoundTrip.srai _ _ _ | ori => exact RoundTrip.ori _ _ _ | andi => exact RoundTrip.andi _ _ _
  | ldB => exact RoundTrip.ldB _ _ _ | ldH => exact RoundTrip.ldH _ _ _ | ldW => exact RoundTrip.ldW _ _ _ | ldD => exact RoundTrip.ldD _ _ _
  | ldBz => exact RoundTrip.ldBz _ _ _ | ldHz => exact RoundTrip.ldHz _ _ _ | ldWz => exact RoundTrip.ldWz _ _ _
  | stB => exact RoundTrip.stB _ _ _ | stH => exact RoundTrip.stH _ _ _ | stW => exact RoundTrip.stW _ _ _ | stD => exact RoundTrip.stD _ _ _
  | beq => exact RoundTrip.beq _ _ _ | bne => exact RoundTrip.bne _ _ _ | blt => exact RoundTrip.blt _ _ _ | bge => exact RoundTrip.bge _ _ _
  | bltz => exact RoundTrip.bltz _ _ _ | bgez => exact RoundTrip.bgez _ _ _
  | jal => exact RoundTrip.jal _ _
  | jalr => exact RoundTrip.jalr _ _ _
  | lui => exact RoundTrip.lui _ _
  | aupc => exact RoundTrip.aupc _ _
  | loop => exact RoundTrip.loop _ _ | loopi => exact RoundTrip.loopi _ _ | lidx => exact RoundTrip.lidx _ _ | lbrk => exact RoundTrip.lbrk
  | lnext => exact RoundTrip.lnext
  | svc => exact RoundTrip.svc | brk => exact RoundTrip.brk | yield => exact RoundTrip.yield | ifence => exact RoundTrip.ifence
  | getc => exact RoundTrip.getc _ _ | setc => exact RoundTrip.setc _ _ | swapc => exact RoundTrip.swapc _ _ _ | sleep => exact RoundTrip.sleep _
  | amoaddW => exact RoundTrip.amoaddW _ _ _ _ _ _ | amoaddD => exact RoundTrip.amoaddD _ _ _ _ _ _ | amoswapW => exact RoundTrip.amoswapW _ _ _ _ _ _
  | amoswapD => exact RoundTrip.amoswapD _ _ _ _ _ _ | amoandD => exact RoundTrip.amoandD _ _ _ _ _ _ | amoorD => exact RoundTrip.amoorD _ _ _ _ _ _
  | amoxorD => exact RoundTrip.amoxorD _ _ _ _ _ _ | amominD => exact RoundTrip.amominD _ _ _ _ _ _ | amomaxD => exact RoundTrip.amomaxD _ _ _ _ _ _
  | amominzD => exact RoundTrip.amominzD _ _ _ _ _ _ | amomaxzD => exact RoundTrip.amomaxzD _ _ _ _ _ _
  | amocasD => exact RoundTrip.amocasD _ _ _ _ _ _ | amofaddS => exact RoundTrip.amofaddS _ _ _ _ _ _
  | amofmaxS => exact RoundTrip.amofmaxS _ _ _ _ _ _
  | vtype => exact RoundTrip.vtype _ _ | strip => exact RoundTrip.strip _ _ _ | vlmax => exact RoundTrip.vlmax _ | wopen => exact RoundTrip.wopen _ _
  | wmerge => exact RoundTrip.wmerge _
  | vadd => exact RoundTrip.vadd _ _ _ _ | vsub => exact RoundTrip.vsub _ _ _ _ | vmul => exact RoundTrip.vmul _ _ _ _
  | vmac => exact RoundTrip.vmac _ _ _ _ | vnmac => exact RoundTrip.vnmac _ _ _ _ | vmin => exact RoundTrip.vmin _ _ _ _
  | vmax => exact RoundTrip.vmax _ _ _ _ | vdiv => exact RoundTrip.vdiv _ _ _ _ | vand => exact RoundTrip.vand _ _ _ _
  | vor => exact RoundTrip.vor _ _ _ _ | vxor => exact RoundTrip.vxor _ _ _ _ | vsll => exact RoundTrip.vsll _ _ _ _
  | vsrl => exact RoundTrip.vsrl _ _ _ _ | vsra => exact RoundTrip.vsra _ _ _ _ | vmulh => exact RoundTrip.vmulh _ _ _ _
  | vmulhz => exact RoundTrip.vmulhz _ _ _ _ | vabs => exact RoundTrip.vabs _ _ _ | vneg => exact RoundTrip.vneg _ _ _
  | vsqrt => exact RoundTrip.vsqrt _ _ _ | vrcp => exact RoundTrip.vrcp _ _ _ | vrsqrt => exact RoundTrip.vrsqrt _ _ _
  | vexp2 => exact RoundTrip.vexp2 _ _ _ | vmov => exact RoundTrip.vmov _ _ _
  | vaddS => exact RoundTrip.vaddS _ _ _ _ | vsubS => exact RoundTrip.vsubS _ _ _ _ | vmulS => exact RoundTrip.vmulS _ _ _ _
  | vmacS => exact RoundTrip.vmacS _ _ _ _ | vnmacS => exact RoundTrip.vnmacS _ _ _ _ | vminS => exact RoundTrip.vminS _ _ _ _
  | vmaxS => exact RoundTrip.vmaxS _ _ _ _ | vdivS => exact RoundTrip.vdivS _ _ _ _ | vandS => exact RoundTrip.vandS _ _ _ _
  | vorS => exact RoundTrip.vorS _ _ _ _ | vxorS => exact RoundTrip.vxorS _ _ _ _ | vsllS => exact RoundTrip.vsllS _ _ _ _
  | vsrlS => exact RoundTrip.vsrlS _ _ _ _ | vsraS => exact RoundTrip.vsraS _ _ _ _ | vmulhS => exact RoundTrip.vmulhS _ _ _ _
  | vmulhzS => exact RoundTrip.vmulhzS _ _ _ _
  | vceq => exact RoundTrip.vceq _ _ _ _ | vcne => exact RoundTrip.vcne _ _ _ _ | vclt => exact RoundTrip.vclt _ _ _ _
  | vcle => exact RoundTrip.vcle _ _ _ _ | vcltz => exact RoundTrip.vcltz _ _ _ _ | vclez => exact RoundTrip.vclez _ _ _ _
  | vcun => exact RoundTrip.vcun _ _ _ _ | vceqS => exact RoundTrip.vceqS _ _ _ _ | vcneS => exact RoundTrip.vcneS _ _ _ _
  | vcltS => exact RoundTrip.vcltS _ _ _ _ | vcleS => exact RoundTrip.vcleS _ _ _ _ | vcgtS => exact RoundTrip.vcgtS _ _ _ _
  | vcgeS => exact RoundTrip.vcgeS _ _ _ _ | kand => exact RoundTrip.kand _ _ _ _ | kor => exact RoundTrip.kor _ _ _ _
  | kxor => exact RoundTrip.kxor _ _ _ _ | kandn => exact RoundTrip.kandn _ _ _ _ | knot => exact RoundTrip.knot _ _ _
  | kwhile => exact RoundTrip.kwhile _ _ _ | kset => exact RoundTrip.kset _ _ | kclr => exact RoundTrip.kclr _ _ | kcnt => exact RoundTrip.kcnt _ _ _
  | kfirst => exact RoundTrip.kfirst _ _ _
  | vbcast => exact RoundTrip.vbcast _ _ _ | vslup => exact RoundTrip.vslup _ _ _ _ | vsldn => exact RoundTrip.vsldn _ _ _ _
  | vperm => exact RoundTrip.vperm _ _ _ _ | vzipl => exact RoundTrip.vzipl _ _ _ _ | vziph => exact RoundTrip.vziph _ _ _ _
  | vunzpe => exact RoundTrip.vunzpe _ _ _ _ | vunzpo => exact RoundTrip.vunzpo _ _ _ _ | vcmprs => exact RoundTrip.vcmprs _ _ _
  | vexpnd => exact RoundTrip.vexpnd _ _ _ | vext => exact RoundTrip.vext _ _ _ | vins => exact RoundTrip.vins _ _ _
  | viota => exact RoundTrip.viota _ _ | vrev => exact RoundTrip.vrev _ _ _
  | vrsum => exact RoundTrip.vrsum _ _ _ | vrmax => exact RoundTrip.vrmax _ _ _ | vrmin => exact RoundTrip.vrmin _ _ _
  | vrand => exact RoundTrip.vrand _ _ _ | vror => exact RoundTrip.vror _ _ _ | vscan => exact RoundTrip.vscan _ _ _
  | vscanx => exact RoundTrip.vscanx _ _ _ | vrsumw => exact RoundTrip.vrsumw _ _ _
  | vcvt => exact RoundTrip.vcvt _ _ _ _ _ | vcvtSat => exact RoundTrip.vcvtSat _ _ _ _ _ | vpack => exact RoundTrip.vpack _ _ _ _ _
  | vunpk => exact RoundTrip.vunpk _ _ _ _
  | vld => exact RoundTrip.vld _ _ _ _ | vlds => exact RoundTrip.vlds _ _ _ _ | vldx => exact RoundTrip.vldx _ _ _ _
  | vldff => exact RoundTrip.vldff _ _ _ _ | vldseg => exact RoundTrip.vldseg _ _ _ _ _ | vldf => exact RoundTrip.vldf _ _ _ _
  | vldb => exact RoundTrip.vldb _ _ _ _
  | vst => exact RoundTrip.vst _ _ _ _ | vsts => exact RoundTrip.vsts _ _ _ _ | vstx => exact RoundTrip.vstx _ _ _ _
  | vstseg => exact RoundTrip.vstseg _ _ _ _ _ | vstf => exact RoundTrip.vstf _ _ _ _ | vstxa => exact RoundTrip.vstxa _ _ _ _
  | vamo => exact RoundTrip.vamo _ _ _ _
  | mld => exact RoundTrip.mld _ _ _ | mswap => exact RoundTrip.mswap | mstr => exact RoundTrip.mstr _ _ _ _ _ | mrd => exact RoundTrip.mrd _ _ _
  | mzero => exact RoundTrip.mzero _ | mst => exact RoundTrip.mst _ _ _ _
  | cpy => exact RoundTrip.cpy _ _ _ _ | cpyr => exact RoundTrip.cpyr _ _ _ _ | cwait => exact RoundTrip.cwait _ _ _ _
  | sbind => exact RoundTrip.sbind _ _ _ _ | sunbind => exact RoundTrip.sunbind _ | tlwait => exact RoundTrip.tlwait _ _ _
  | capp => exact RoundTrip.capp _ _ _ | cstat => exact RoundTrip.cstat _ _
  | barr => exact RoundTrip.barr _ _ | bwait => exact RoundTrip.bwait _ _ _ | bsync => exact RoundTrip.bsync _ _ _ | acq => exact RoundTrip.acq _ _ _
  | rel => exact RoundTrip.rel _ _ | mend => exact RoundTrip.mend _ _ _ | pacq => exact RoundTrip.pacq _ | prel => exact RoundTrip.prel _
  | pfull => exact RoundTrip.pfull _ | bbind => exact RoundTrip.bbind _ _ | bdrop => exact RoundTrip.bdrop _ _ | bstat => exact RoundTrip.bstat _ _
  | wmbind => exact RoundTrip.wmbind _ _ _ | wmpub => exact RoundTrip.wmpub _ _ | wmrd => exact RoundTrip.wmrd _ _
  | rbind => exact RoundTrip.rbind _ _ | rget => exact RoundTrip.rget _ _ _ | rput => exact RoundTrip.rput _ | rtake => exact RoundTrip.rtake _ _ _
  | rdone => exact RoundTrip.rdone _ | rstat => exact RoundTrip.rstat _ _ | runbind => exact RoundTrip.runbind _
  | hnew => exact RoundTrip.hnew _ _ | hsplit => exact RoundTrip.hsplit _ _ _ _ | hjoin => exact RoundTrip.hjoin _ _ _
  | hsend => exact RoundTrip.hsend _ _ | hrecv => exact RoundTrip.hrecv _ _ _ | haddr => exact RoundTrip.haddr _ _ | hfree => exact RoundTrip.hfree _
  | hinfo => exact RoundTrip.hinfo _ _ | hreclaim => exact RoundTrip.hreclaim _ _
  | spawn => exact RoundTrip.spawn _ | tend => exact RoundTrip.tend | jdec => exact RoundTrip.jdec _ | qpush => exact RoundTrip.qpush _ _
  | qpop => exact RoundTrip.qpop _ _ _ | tself => exact RoundTrip.tself _
  | fsend => exact RoundTrip.fsend _ _ _ | frecv => exact RoundTrip.frecv _ _ _ | fpath => exact RoundTrip.fpath _ _ _
  | fprobe => exact RoundTrip.fprobe _ _
  | _ => exact RoundTrip.of_event rfl

/-- Settles O55: each instruction by its own round trip. -/
theorem decodeEncode : Obligations.DecodeEncode := by
  unfold Obligations.DecodeEncode
  exact decode_encode

/-! From a word to its instruction and back: fields of a word put together again. -/

/-- Two fields of a word that lie next to each other are one field. -/
theorem bits_cat {w : IWord} {lo : Nat} (n m : Nat) {x : BitVec n} {y : BitVec m} (hy : bits w lo m = y) (hx : bits w (lo + m) n = x) :
    bits w lo (n + m) = x ++ y := by
  subst hx hy
  refine ((joinHiLo _).symm.trans (congrArg₂ _ ?_ ?_))
  · ext i hi
    simp [bits, show m + i < n + m by omega, Nat.add_assoc]
  · ext i hi
    simp [bits, show i < n + m by omega]

/-- The upper part of a concatenation. -/
theorem hiPart {n m : Nat} (x : BitVec n) (y : BitVec m) : (x ++ y).extractLsb' m n = x := by
  rw [cutHi x y le_rfl, Nat.sub_self, cutAll]

/-- The lower part of a concatenation. -/
theorem loPart {n m : Nat} (x : BitVec n) (y : BitVec m) : (x ++ y).extractLsb' 0 m = y := by
  rw [cutLo x y (by omega), cutAll]

/-- What a part of the decoder answers for a word, if it answers, encodes to that word. -/
def Encodes (w : IWord) (o : Option Instr) : Prop := ∀ i, o = some i → encode i = some w

theorem encodes_none (w : IWord) : Encodes w none := by
  rintro i ⟨⟩

theorem encodes_some {w x : IWord} {i : Instr} (he : encode i = some x) (hx : bits w 0 32 = x) : Encodes w (some i) := by
  rintro _ ⟨⟩
  exact he.trans (congrArg some (hx.symm.trans (cutAll w)))

theorem encodes_ite {w : IWord} {c : Prop} [Decidable c] {a b : Option Instr} (ha : c → Encodes w a) (hb : Encodes w b) : Encodes w (if c then a else b) := by
  split
  next h => exact ha h
  next => exact hb

/-- A row of the opcode map: where its fixed bits stand, the word is that of its instruction. -/
theorem encodes_row {w x : IWord} {c : Prop} [Decidable c] {i : Instr} {b : Option Instr} (he : encode i = some x) (hx : c → bits w 0 32 = x) (hb : Encodes w b) :
    Encodes w (if c then some i else b) :=
  encodes_ite (fun hc => encodes_some he (hx hc)) hb


section Forms
/-! The forms of a word by its fields, highest first, the major opcode last (R38). A form's top field may itself be cut into fields. -/

variable {w : IWord} {op : BitVec 7} (h0 : bits w 0 7 = op)
include h0

/-- A 20-bit immediate and a destination (R44). -/
theorem word_upper {x : BitVec 20} {d : BitVec 5} (h12 : bits w 12 20 = x) (h7 : bits w 7 5 = d) : bits w 0 32 = x ++ d ++ op :=
  bits_cat 25 7 h0 <| bits_cat 20 5 h7 h12

/-- A 12-bit immediate, one source and a destination (R42, R43). -/
theorem word_imm {x : BitVec 12} {a d : BitVec 5} {f : BitVec 3} (h20 : bits w 20 12 = x) (h15 : bits w 15 5 = a) (h12 : bits w 12 3 = f)
    (h7 : bits w 7 5 = d) : bits w 0 32 = x ++ a ++ f ++ d ++ op :=
  bits_cat 25 7 h0 <| bits_cat 20 5 h7 <| bits_cat 17 3 h12 <| bits_cat 12 5 h15 h20

/-- Two sources and a destination (R41). -/
theorem word_regs {x : BitVec 7} {b a d : BitVec 5} {f : BitVec 3} (h25 : bits w 25 7 = x) (h20 : bits w 20 5 = b) (h15 : bits w 15 5 = a)
    (h12 : bits w 12 3 = f) (h7 : bits w 7 5 = d) : bits w 0 32 = x ++ b ++ a ++ f ++ d ++ op :=
  bits_cat 25 7 h0 <| bits_cat 20 5 h7 <| bits_cat 17 3 h12 <| bits_cat 12 5 h15 <| bits_cat 7 5 h20 h25

/-- Two sources and a tile number in the low bits of the destination (R55). -/
theorem word_tile {x : BitVec 7} {b a : BitVec 5} {f z : BitVec 3} {t : BitVec 2} (h25 : bits w 25 7 = x) (h20 : bits w 20 5 = b)
    (h15 : bits w 15 5 = a) (h12 : bits w 12 3 = f) (h9 : bits w 9 3 = z) (h7 : bits w 7 2 = t) : bits w 0 32 = x ++ b ++ a ++ f ++ z ++ t ++ op :=
  bits_cat 25 7 h0 <| bits_cat 23 2 h7 <| bits_cat 20 3 h9 <| bits_cat 17 3 h12 <| bits_cat 12 5 h15 <| bits_cat 7 5 h20 h25

/-- Two sources, a mask and a destination of a vector group (R49). -/
theorem word_vec {x b a k d : BitVec 5} (h27 : bits w 27 5 = x) (h22 : bits w 22 5 = b) (h17 : bits w 17 5 = a) (h12 : bits w 12 5 = k)
    (h7 : bits w 7 5 = d) : bits w 0 32 = x ++ b ++ a ++ k ++ d ++ op :=
  bits_cat 25 7 h0 <| bits_cat 20 5 h7 <| bits_cat 15 5 h12 <| bits_cat 10 5 h17 <| bits_cat 5 5 h22 h27

end Forms

section Groups
/-! Group by group: the word of a row is that of its instruction. -/

variable {w : IWord}

theorem encodes_Ld (hop : bits w 0 7 = 0x3#7) : Encodes w (decodeLd w) := by
  unfold decodeLd
  repeat refine encodes_row rfl (fun h12 => word_imm hop rfl rfl h12 rfl) ?_
  exact encodes_none w

theorem encodes_Vld (hop : bits w 0 7 = 0x7#7) : Encodes w (decodeVld w) := by
  unfold decodeVld
  repeat refine encodes_row rfl (fun h27 => word_vec hop h27 rfl rfl rfl rfl) ?_
  refine encodes_row rfl (fun _ => word_vec hop rfl rfl rfl rfl rfl) ?_
  repeat refine encodes_row rfl (fun h27 => word_vec hop h27 rfl rfl rfl rfl) ?_
  exact encodes_none w

theorem encodes_Mat (hop : bits w 0 7 = 0xB#7) : Encodes w (decodeMat w) := by
  unfold decodeMat
  refine encodes_row rfl (fun ⟨h30, h12, h7⟩ => word_regs hop (bits_cat 2 5 rfl h30) rfl rfl h12 h7) ?_
  refine encodes_row rfl (fun ⟨h25, h20, h15, h12, h7⟩ => word_regs hop h25 h20 h15 h12 h7) ?_
  refine encodes_row rfl (fun ⟨h31, h12, h9⟩ => word_tile hop (bits_cat 2 5 rfl (bits_cat 1 1 rfl h31)) rfl rfl h12 h9 rfl) ?_
  refine encodes_row rfl (fun ⟨h25, h22, h12⟩ => word_imm hop (bits_cat 10 2 rfl (bits_cat 7 3 h22 h25)) rfl h12 rfl) ?_
  refine encodes_row rfl (fun ⟨h25, h20, h15, h12, h9⟩ => word_tile hop h25 h20 h15 h12 h9 rfl) ?_
  refine encodes_row rfl (fun ⟨h30, h12, h9⟩ => word_tile hop (bits_cat 2 5 rfl h30) rfl rfl h12 h9 rfl) ?_
  exact encodes_none w

theorem encodes_Opi (hop : bits w 0 7 = 0x13#7) : Encodes w (decodeOpi w) := by
  unfold decodeOpi
  refine encodes_row rfl (fun h12 => word_imm hop rfl rfl h12 rfl) ?_
  refine encodes_row rfl (fun ⟨h26, h12⟩ => word_imm hop (bits_cat 6 6 rfl h26) rfl h12 rfl) ?_
  repeat refine encodes_row rfl (fun h12 => word_imm hop rfl rfl h12 rfl) ?_
  repeat refine encodes_row rfl (fun ⟨h26, h12⟩ => word_imm hop (bits_cat 6 6 rfl h26) rfl h12 rfl) ?_
  repeat refine encodes_row rfl (fun h12 => word_imm hop rfl rfl h12 rfl) ?_
  exact encodes_none w

theorem encodes_Aupc (hop : bits w 0 7 = 0x17#7) : Encodes w (decodeAupc w) :=
  encodes_some rfl (word_upper hop rfl rfl)

theorem encodes_Copy (hop : bits w 0 7 = 0x1B#7) : Encodes w (decodeCopy w) := by
  unfold decodeCopy
  repeat refine encodes_row rfl (fun ⟨h29, h12⟩ => word_regs hop (bits_cat 3 4 rfl h29) rfl rfl h12 rfl) ?_
  refine encodes_row rfl (fun h12 => word_regs hop rfl rfl rfl h12 rfl) ?_
  refine encodes_row rfl (fun ⟨h20, h12⟩ => word_regs hop (bits_cat 3 4 rfl rfl) h20 rfl h12 rfl) ?_
  refine encodes_row rfl (fun ⟨h25, h20, h15, h12⟩ => word_regs hop h25 h20 h15 h12 rfl) ?_
  repeat refine encodes_row rfl (fun ⟨h25, h12⟩ => word_regs hop h25 rfl rfl h12 rfl) ?_
  refine encodes_row rfl (fun ⟨h25, h20, h12⟩ => word_regs hop h25 h20 rfl h12 rfl) ?_
  exact encodes_none w

theorem encodes_St (hop : bits w 0 7 = 0x23#7) : Encodes w (decodeSt w) := by
  unfold decodeSt
  repeat refine encodes_row rfl (fun h12 => word_regs hop (hiPart _ _).symm rfl rfl h12 (loPart _ _).symm) ?_
  exact encodes_none w

theorem encodes_Vst (hop : bits w 0 7 = 0x27#7) : Encodes w (decodeVst w) := by
  unfold decodeVst
  repeat refine encodes_row rfl (fun h27 => word_vec hop h27 rfl rfl rfl rfl) ?_
  refine encodes_row rfl (fun _ => word_vec hop rfl rfl rfl rfl rfl) ?_
  repeat refine encodes_row rfl (fun h27 => word_vec hop h27 rfl rfl rfl rfl) ?_
  exact encodes_none w

theorem encodes_Sync (hop : bits w 0 7 = 0x2B#7) : Encodes w (decodeSync w) := by
  unfold decodeSync
  refine encodes_row rfl (fun ⟨h25, h20, h12⟩ => word_regs hop h25 h20 rfl h12 rfl) ?_
  repeat refine encodes_row rfl (fun ⟨h25, h12⟩ => word_regs hop h25 rfl rfl h12 rfl) ?_
  refine encodes_row rfl (fun ⟨h25, h20, h12⟩ => word_regs hop h25 h20 rfl h12 rfl) ?_
  refine encodes_row rfl (fun ⟨h25, h12⟩ => word_regs hop h25 rfl rfl h12 rfl) ?_
  repeat refine encodes_row rfl (fun ⟨h28, h20, h15, h12, h7⟩ => word_regs hop (bits_cat 4 3 rfl h28) h20 h15 h12 h7) ?_
  repeat refine encodes_row rfl (fun ⟨h25, h20, h12⟩ => word_regs hop h25 h20 rfl h12 rfl) ?_
  refine encodes_row rfl (fun ⟨h25, h12⟩ => word_regs hop h25 rfl rfl h12 rfl) ?_
  refine encodes_row rfl (fun ⟨h25, h12, h7⟩ => word_regs hop h25 rfl rfl h12 h7) ?_
  refine encodes_row rfl (fun ⟨h25, h20, h12⟩ => word_regs hop h25 h20 rfl h12 rfl) ?_
  exact encodes_none w

theorem encodes_Atom (hop : bits w 0 7 = 0x2F#7) : Encodes w (decodeAtom w) := by
  unfold decodeAtom
  repeat refine encodes_row rfl (fun h27 => word_regs hop (bits_cat 6 1 rfl (bits_cat 5 1 rfl h27)) rfl rfl rfl rfl) ?_
  exact encodes_none w

theorem encodes_Op (hop : bits w 0 7 = 0x33#7) : Encodes w (decodeOp w) := by
  unfold decodeOp
  repeat refine encodes_row rfl (fun ⟨h25, h12⟩ => word_regs hop h25 rfl rfl h12 rfl) ?_
  repeat refine encodes_row rfl (fun ⟨h25, h20, h12⟩ => word_regs hop h25 h20 rfl h12 rfl) ?_
  exact encodes_none w

theorem encodes_Lui (hop : bits w 0 7 = 0x37#7) : Encodes w (decodeLui w) :=
  encodes_some rfl (word_upper hop rfl rfl)

theorem encodes_Ring (hop : bits w 0 7 = 0x3B#7) : Encodes w (decodeRing w) := by
  unfold decodeRing
  refine encodes_row rfl (fun ⟨h25, h20, h12⟩ => word_regs hop h25 h20 rfl h12 rfl) ?_
  refine encodes_row rfl (fun ⟨h25, h12⟩ => word_regs hop h25 rfl rfl h12 rfl) ?_
  refine encodes_row rfl (fun ⟨h25, h20, h12, h7⟩ => word_regs hop h25 h20 rfl h12 h7) ?_
  refine encodes_row rfl (fun ⟨h25, h12⟩ => word_regs hop h25 rfl rfl h12 rfl) ?_
  refine encodes_row rfl (fun ⟨h25, h20, h12, h7⟩ => word_regs hop h25 h20 rfl h12 h7) ?_
  refine encodes_row rfl (fun ⟨h25, h20, h12⟩ => word_regs hop h25 h20 rfl h12 rfl) ?_
  refine encodes_row rfl (fun ⟨h25, h20, h12, h7⟩ => word_regs hop h25 h20 rfl h12 h7) ?_
  exact encodes_none w

theorem encodes_Hndl (hop : bits w 0 7 = 0x3F#7) : Encodes w (decodeHndl w) := by
  unfold decodeHndl
  refine encodes_row rfl (fun ⟨h25, h20, h12⟩ => word_regs hop h25 h20 rfl h12 rfl) ?_
  refine encodes_row rfl (fun ⟨h25, h12⟩ => word_regs hop (bits_cat 5 2 h25 rfl) rfl rfl h12 rfl) ?_
  refine encodes_row rfl (fun ⟨h25, h12⟩ => word_regs hop h25 rfl rfl h12 rfl) ?_
  refine encodes_row rfl (fun ⟨h25, h12, h7⟩ => word_regs hop h25 rfl rfl h12 h7) ?_
  refine encodes_row rfl (fun ⟨h25, h12⟩ => word_regs hop h25 rfl rfl h12 rfl) ?_
  refine encodes_row rfl (fun ⟨h25, h20, h12⟩ => word_regs hop h25 h20 rfl h12 rfl) ?_
  refine encodes_row rfl (fun ⟨h25, h20, h12, h7⟩ => word_regs hop h25 h20 rfl h12 h7) ?_
  repeat refine encodes_row rfl (fun ⟨h25, h20, h12⟩ => word_regs hop h25 h20 rfl h12 rfl) ?_
  exact encodes_none w

theorem encodes_Vmask (hop : bits w 0 7 = 0x47#7) : Encodes w (decodeVmask w) := by
  unfold decodeVmask
  repeat refine encodes_row rfl (fun h27 => word_vec hop h27 rfl rfl rfl rfl) ?_
  refine encodes_row rfl (fun ⟨h27, h22⟩ => word_vec hop h27 h22 rfl rfl rfl) ?_
  refine encodes_row rfl (fun ⟨h27, h12⟩ => word_vec hop h27 rfl rfl h12 rfl) ?_
  repeat refine encodes_row rfl (fun ⟨h27, h22, h17⟩ => word_vec hop h27 h22 h17 rfl rfl) ?_
  repeat refine encodes_row rfl (fun ⟨h27, h22⟩ => word_vec hop h27 h22 rfl rfl rfl) ?_
  exact encodes_none w

theorem encodes_Vperm (hop : bits w 0 7 = 0x4B#7) : Encodes w (decodeVperm w) := by
  unfold decodeVperm
  refine encodes_row rfl (fun ⟨h27, h22⟩ => word_vec hop h27 h22 rfl rfl rfl) ?_
  repeat refine encodes_row rfl (fun h27 => word_vec hop h27 rfl rfl rfl rfl) ?_
  repeat refine encodes_row rfl (fun ⟨h27, h22⟩ => word_vec hop h27 h22 rfl rfl rfl) ?_
  repeat refine encodes_row rfl (fun ⟨h27, h12⟩ => word_vec hop h27 rfl rfl h12 rfl) ?_
  refine encodes_row rfl (fun ⟨h27, h22, h17⟩ => word_vec hop h27 h22 h17 rfl rfl) ?_
  refine encodes_row rfl (fun ⟨h27, h22⟩ => word_vec hop h27 h22 rfl rfl rfl) ?_
  exact encodes_none w

theorem encodes_Vred (hop : bits w 0 7 = 0x4F#7) : Encodes w (decodeVred w) := by
  unfold decodeVred
  repeat refine encodes_row rfl (fun ⟨h27, h22⟩ => word_vec hop h27 h22 rfl rfl rfl) ?_
  exact encodes_none w

/-- A `vunpk` word has rounding field 0, or it breaks an operand limit (R53). -/
theorem encodes_Vcvt (hop : bits w 0 7 = 0x53#7) (hu : badUnpkRnd w = false) : Encodes w (decodeVcvt w) := by
  have hrnd (h30 : bits w 30 2 = 0x3#2) : bits w 27 3 = 0x0#3 := by simpa [badUnpkRnd, hop, h30] using hu
  unfold decodeVcvt
  repeat refine encodes_row rfl (fun ⟨h30, _⟩ => word_vec hop (bits_cat 2 3 rfl h30) rfl rfl rfl rfl) ?_
  refine encodes_row rfl (fun ⟨h30, _⟩ => word_vec hop (bits_cat 2 3 (hrnd h30) h30) rfl rfl rfl rfl) ?_
  exact encodes_none w

theorem encodes_Vari (hop : bits w 0 7 = 0x57#7) : Encodes w (decodeVari w) := by
  unfold decodeVari
  repeat refine encodes_row rfl (fun h27 => word_vec hop h27 rfl rfl rfl rfl) ?_
  repeat refine encodes_row rfl (fun ⟨h27, h22⟩ => word_vec hop h27 h22 rfl rfl rfl) ?_
  exact encodes_none w

theorem encodes_Loop (hop : bits w 0 7 = 0x5B#7) : Encodes w (decodeLoop w) := by
  unfold decodeLoop
  refine encodes_row rfl (fun ⟨h12, h7⟩ => word_imm hop rfl rfl h12 h7) ?_
  refine encodes_row rfl (fun h12 => word_imm hop rfl (loPart _ _).symm h12 (hiPart _ _).symm) ?_
  refine encodes_row rfl (fun ⟨h23, h15, h12⟩ => word_imm hop (bits_cat 9 3 rfl h23) h15 h12 rfl) ?_
  repeat refine encodes_row rfl (fun ⟨h20, h15, h12, h7⟩ => word_imm hop h20 h15 h12 h7) ?_
  exact encodes_none w

theorem encodes_Vcfg (hop : bits w 0 7 = 0x5F#7) : Encodes w (decodeVcfg w) := by
  unfold decodeVcfg
  refine encodes_row rfl (fun ⟨h25, h15, h12⟩ => word_regs hop h25 rfl h15 h12 rfl) ?_
  refine encodes_row rfl (fun ⟨h25, h12⟩ => word_regs hop h25 rfl rfl h12 rfl) ?_
  refine encodes_row rfl (fun ⟨h25, h20, h15, h12⟩ => word_regs hop h25 h20 h15 h12 rfl) ?_
  refine encodes_row rfl (fun ⟨h25, h12, h7⟩ => word_regs hop h25 rfl rfl h12 h7) ?_
  refine encodes_row rfl (fun ⟨h25, h20, h12, h7⟩ => word_regs hop h25 h20 rfl h12 h7) ?_
  exact encodes_none w

theorem encodes_Br (hop : bits w 0 7 = 0x63#7) : Encodes w (decodeBr w) := by
  unfold decodeBr
  repeat refine encodes_row rfl (fun h12 => word_regs hop (hiPart _ _).symm rfl rfl h12 (loPart _ _).symm) ?_
  exact encodes_none w

theorem encodes_Jalr (hop : bits w 0 7 = 0x67#7) : Encodes w (decodeJalr w) :=
  encodes_row rfl (fun h12 => word_imm hop rfl rfl h12 rfl) (encodes_none w)

theorem encodes_Fab (hop : bits w 0 7 = 0x6B#7) : Encodes w (decodeFab w) := by
  unfold decodeFab
  repeat refine encodes_row rfl (fun ⟨h25, h12⟩ => word_regs hop h25 rfl rfl h12 rfl) ?_
  refine encodes_row rfl (fun ⟨h25, h20, h12⟩ => word_regs hop h25 h20 rfl h12 rfl) ?_
  exact encodes_none w

theorem encodes_Jal (hop : bits w 0 7 = 0x6F#7) : Encodes w (decodeJal w) :=
  encodes_some rfl (word_upper hop rfl rfl)

theorem encodes_Sys (hop : bits w 0 7 = 0x73#7) : Encodes w (decodeSys w) := by
  unfold decodeSys
  repeat refine encodes_row rfl (fun ⟨h20, h15, h12, h7⟩ => word_imm hop h20 h15 h12 h7) ?_
  refine encodes_row rfl (fun ⟨h15, h12⟩ => word_imm hop rfl h15 h12 rfl) ?_
  refine encodes_row rfl (fun ⟨h12, h7⟩ => word_imm hop rfl rfl h12 h7) ?_
  refine encodes_row rfl (fun h12 => word_imm hop rfl rfl h12 rfl) ?_
  refine encodes_row rfl (fun ⟨h20, h12, h7⟩ => word_imm hop h20 rfl h12 h7) ?_
  exact encodes_none w

theorem encodes_Vars (hop : bits w 0 7 = 0x77#7) : Encodes w (decodeVars w) := by
  unfold decodeVars
  repeat refine encodes_row rfl (fun h27 => word_vec hop h27 rfl rfl rfl rfl) ?_
  exact encodes_none w

theorem encodes_Task (hop : bits w 0 7 = 0x7B#7) : Encodes w (decodeTask w) := by
  unfold decodeTask
  refine encodes_row rfl (fun ⟨h25, h20, h12, h7⟩ => word_regs hop h25 h20 rfl h12 h7) ?_
  refine encodes_row rfl (fun ⟨h25, h20, h15, h12, h7⟩ => word_regs hop h25 h20 h15 h12 h7) ?_
  refine encodes_row rfl (fun ⟨h25, h20, h12, h7⟩ => word_regs hop h25 h20 rfl h12 h7) ?_
  refine encodes_row rfl (fun ⟨h25, h12, h7⟩ => word_regs hop h25 rfl rfl h12 h7) ?_
  refine encodes_row rfl (fun ⟨h25, h12⟩ => word_regs hop h25 rfl rfl h12 rfl) ?_
  refine encodes_row rfl (fun ⟨h25, h20, h15, h12⟩ => word_regs hop h25 h20 h15 h12 rfl) ?_
  exact encodes_none w

/-- The opcode map: the major opcode picks the group (R40). -/
theorem encodes_decodeRaw (hu : badUnpkRnd w = false) : Encodes w (decodeRaw w) :=
  encodes_ite encodes_Ld <| encodes_ite encodes_Vld <| encodes_ite encodes_Mat <| encodes_ite encodes_Opi <|
  encodes_ite encodes_Aupc <| encodes_ite encodes_Copy <| encodes_ite encodes_St <| encodes_ite encodes_Vst <|
  encodes_ite encodes_Sync <| encodes_ite encodes_Atom <| encodes_ite encodes_Op <| encodes_ite encodes_Lui <|
  encodes_ite encodes_Ring <| encodes_ite encodes_Hndl <| encodes_ite encodes_Vmask <| encodes_ite encodes_Vperm <|
  encodes_ite encodes_Vred <| encodes_ite (encodes_Vcvt · hu) <| encodes_ite encodes_Vari <| encodes_ite encodes_Loop <|
  encodes_ite encodes_Vcfg <| encodes_ite encodes_Br <| encodes_ite encodes_Jalr <| encodes_ite encodes_Fab <|
  encodes_ite encodes_Jal <| encodes_ite encodes_Sys <| encodes_ite encodes_Vars <| encodes_ite encodes_Task <| encodes_none w

end Groups

/-- A word decodes to an instruction where the opcode map has a row for it and no operand limit is broken (R63). -/
theorem decode_ok {w : IWord} {i : Instr} (h : decode w = .ok i) : decodeRaw w = some i ∧ badUnpkRnd w = false ∧ i.wf = true := by
  unfold decode at h
  split at h
  · cases h
  · split at h
    next => cases h
    next j hraw =>
      split at h
      next => cases h
      next hu =>
        split at h
        next hwf =>
          obtain rfl := Decoded.ok.inj h
          exact ⟨hraw, by simpa using hu, hwf⟩
        next => cases h

/-- Settles O56: row by row of the opcode map, the fixed bits of a row and the operands read from the word make up the word again. -/
theorem encodeDecode : Obligations.EncodeDecode := by
  unfold Obligations.EncodeDecode
  intro w i h
  obtain ⟨hraw, hu, hwf⟩ := decode_ok h
  exact ⟨hwf, encodes_decodeRaw hu i hraw⟩

/-- Settles O57: each word of the manual by running the decoder on it. -/
theorem decodeWords : Obligations.DecodeWords := by
  unfold Obligations.DecodeWords
  decide +kernel

end Sys2Proof.Laws
end

section
/-! Where a run can stop (R63, R90, R348). -/

namespace Sys2Proof.Machine

/-- Every row of the opcode table answers a next state, a fetch problem and a word that is no instruction among them (R63, R90). -/
theorem exec_next (i : Instr) (s : State) : ∃ t, exec i s = .next t := by
  cases i with
  | fetchProblem =>
    change ∃ t, execFetchProblem s = .next t
    unfold execFetchProblem
    split
    · exact ⟨_, rfl⟩
    · exact ⟨_, rfl⟩
  | illegalWordIssue w =>
    change ∃ t, execIllegalWordIssue w s = .next t
    unfold execIllegalWordIssue
    split
    · exact ⟨_, rfl⟩
    · exact ⟨_, rfl⟩
    · exact ⟨_, rfl⟩
  | _ => exact ⟨_, rfl⟩

/-- Where an outcome is no next state, the machine stops because its package has halted, which a condition says. -/
def GoesOnUnless (halted : Prop) (r : Result) : Prop := (∃ t, r = .next t) ∨ (r = .fault .packageHalted ∧ halted)

theorem goesOn_of_next {p : Prop} {r : Result} (h : ∃ t, r = .next t) : GoesOnUnless p r := .inl h

theorem GoesOnUnless.imp {p q : Prop} {r : Result} (hr : GoesOnUnless p r) (h : p → q) : GoesOnUnless q r :=
  hr.imp_right (And.imp_right h)

theorem afterMove_goesOn {p : Prop} {r : Result} (h : GoesOnUnless p r) : GoesOnUnless p (afterMove r) := by
  obtain ⟨t, rfl⟩ | ⟨rfl, hp⟩ := h
  · exact .inl ⟨_, rfl⟩
  · exact .inr ⟨rfl, hp⟩

theorem State.switchTo_pkg (s : State) (sid : BitVec 32) : (s.switchTo sid).pkg = s.pkg := by
  unfold State.switchTo
  split
  · rfl
  · split <;> rfl

/-- An issue stops only on a package that has halted (R348); a word that is no instruction and a pc that cannot be fetched go on as faults of the strand (R63, R90). -/
theorem State.issueCur_goesOn (s : State) : GoesOnUnless (s.pkg.halted = true) s.issueCur := by
  unfold State.issueCur
  split
  next h => exact .inr ⟨rfl, h⟩
  next =>
    refine goesOn_of_next ?_
    split
    · exact ⟨_, rfl⟩
    · split
      · exact ⟨_, rfl⟩
      · split
        next s1 f _ => exact exec_next .fetchProblem s1
        next s1 w _ =>
          split
          next i _ => exact exec_next i s1
          next => exact exec_next (.illegalWordIssue w) s1

theorem State.haltedMove_goesOn (s : State) (m : Move) (h : s.pkg.halted = true) : GoesOnUnless (s.pkg.halted = true) (s.haltedMove m) := by
  cases m with
  | strand sid => exact .inr ⟨rfl, h⟩
  | event i =>
    refine goesOn_of_next ?_
    unfold State.haltedMove
    dsimp only
    split
    · exact exec_next _ s
    · exact ⟨_, rfl⟩
  | elapse ns cycles => exact .inl ⟨_, rfl⟩

theorem State.liveMove_goesOn (s : State) (m : Move) : GoesOnUnless (s.settled.pkg.halted = true) (s.liveMove m) := by
  cases m with
  | strand sid => exact (State.issueCur_goesOn _).imp fun h => by rwa [State.switchTo_pkg] at h
  | event i =>
    refine goesOn_of_next ?_
    unfold State.liveMove
    dsimp only
    split
    · exact exec_next i _
    · exact ⟨_, rfl⟩
  | elapse ns cycles => exact .inl ⟨_, rfl⟩

theorem State.move_goesOn (s : State) (m : Move) : GoesOnUnless (s.pkg.halted = true ∨ s.settled.pkg.halted = true) (s.move m) := by
  unfold State.move
  split
  next h => exact (s.haltedMove_goesOn m h).imp .inl
  next => exact (s.liveMove_goesOn m).imp .inr

/-- Settles O60: an issue, an event and the passing of time each make a next state, row by row of the opcode table; the one stop is an issue on a package that has halted. -/
theorem onlyStop : Obligations.OnlyStop := by
  unfold Obligations.OnlyStop
  intro s
  cases hag : s.agenda with
  | nil =>
    have hu : { s with agenda := [] } = s := by rw [← hag]
    have hstep : step s = afterMove s.settled.issueCur := by simp only [step, hag]
    rw [hstep, List.tail_nil, hu]
    exact afterMove_goesOn (s.settled.issueCur_goesOn.imp .inr)
  | cons m ms =>
    have hstep : step s = afterMove ({ s with agenda := ms }.move m) := by simp only [step, hag]
    rw [hstep, List.tail_cons]
    exact afterMove_goesOn (State.move_goesOn _ m)

end Sys2Proof.Machine
end

section
/-! Statements about faults, pre-emption and fetch that a state refutes. -/

namespace Sys2Proof.Machine
open Sys2Proof.Claims

/-! A record that carries its own time of detection (R202). -/

/-- A job under policy continue on core 0. -/
def lateJob : Job := { demoJob State.reset with rec_ := { demoLaunch with policy := .continue_ } }

/-- The record of a matrix wait that was detected at gtime 7. -/
def lateRec : FaultRec := { plainRec State.reset.running .matrixWaitExpired 0 0 0 with at_ := some 7 }

/-- A wait for room in the matrix queue, to `jtime` 5, that ends with that record. -/
def lateWait : Wait := ⟨.matQueue, 0, 0, some 5, false, 0, some lateRec⟩

/-- The job's strand past the bound of that wait at gtime 9, the matrix queue of its core still full, and a request pending. -/
def lateState : State :=
  let s := State.reset.running
  ({ s with jobs := [lateJob], gtime := 9, cur := { s.cur with wait := some lateWait, pre := some .priority } } : State).onCore 0
    fun c => { c with matrix := { c.matrix with queue := List.replicate 16 ⟨0, 0, .mswap, 0⟩ } }

theorem lateState_postable : Postable lateState lateJob lateRec where
  job := by decide +kernel
  ring := ⟨by decide +kernel, by decide +kernel, rfl⟩
  plain := rfl
  runs := rfl
  key := by decide
  stays _ := by decide

theorem lateState_due : Due lateState lateWait where
  wait := rfl
  here := rfl
  runs := by decide +kernel
  come := by decide +kernel
  own := rfl
  unmet := by decide +kernel
  free := by decide +kernel

/-- The record stands in the ring with the time it carries, 7, and not with the gtime at which it is taken, 9. -/
theorem lateState_not_faultTaken : ¬ FaultTaken lateState (lateState.takeFault lateRec) lateJob lateRec := by
  intro h
  have hbyte := congrArg (SMap.get memDefault · (0x201000 + 56)) h.mem
  revert hbyte
  decide +kernel

/-- Refutes O9: the first part gives the record in the ring the time of the fault for every record, but one that carries its own time of detection, as R202 lets a record do, is put there with that time. -/
theorem not_takingFaults : ¬ Obligations.TakingFaults := by
  unfold Obligations.TakingFaults
  rintro ⟨htaken, -, -⟩
  exact lateState_not_faultTaken (htaken lateState lateJob lateRec lateState_postable).1

/-- Refutes O34: a wait that has come to its bound before a pre-emption takes its fault, but a record that carries its own time of detection stands in the ring with that time, not with the time of the fault. -/
theorem not_preemption : ¬ Obligations.Preemption := by
  unfold Obligations.Preemption
  rintro ⟨⟨-, -, hwait⟩, -⟩
  obtain ⟨t, -, rfl, htaken⟩ := hwait lateState lateWait lateRec .priority lateState_due rfl rfl rfl (.inr (by decide)) rfl (by decide +kernel)
  exact lateState_not_faultTaken (htaken lateJob lateState_postable)

/-! A word that a live Sable region is writing (R240, R272). -/

/-- The place of the demo strand's code. -/
def codeHit : Hit := ⟨0x400000, some 0x005000000040003F, false, false, false⟩

/-- The demo strand at a word of memory that is 1, after a write in a live Sable region which has replaced 0 there. -/
def sableState : State := { State.reset.running.putWord 5 0x400000 1 with sable := [⟨1, 0x400000, 4, 1, 0, 4, [], none⟩] }

/-- The demo strand's word is fetched from that place, which no write of home order and no store of its own meets. -/
theorem sableState_place : ∃ u, sableState.place sableState.cur sableState.cur.pc 4 (needOf .fetch) false = (u, .ok codeHit) ∧
    u.hist = [] ∧ u.cur.pend = [] ∧ u.peekKey codeHit.key codeHit.loc 4 = 1 :=
  ⟨_, Prod.ext rfl (by decide +kernel), by decide +kernel, by decide +kernel, by decide +kernel⟩

/-- The fetch reads the word as it stood before that write. -/
theorem sableState_fetch : sableState.fetch.2 = .ok 0 := by
  decide +kernel

/-- Refutes O54: the part on the word at a pc leaves out a write in a live Sable region, which memory holds already but the home order does not; a fetch passes it over and reads the bytes before it. -/
theorem not_stepRunsDecoded : ¬ Obligations.StepRunsDecoded := by
  unfold Obligations.StepRunsDecoded
  rintro ⟨-, -, -, hword, -⟩
  obtain ⟨u, hplace, hhist, hpend, hpeek⟩ := sableState_place
  have hfetch := hword sableState u codeHit hplace (by simp [hhist]) (by simp [hpend])
  rw [hpeek] at hfetch
  have hzero : Except.ok 0 = Except.ok (BitVec.ofNat 32 1) := sableState_fetch.symm.trans (congrArg Prod.snd hfetch)
  exact absurd (Except.ok.inj hzero) (by decide)

end Sys2Proof.Machine
end

section
/-! Scalar arithmetic (R92, R93, R39): what an instruction that writes one register leaves, and the value each operation of the model gives. -/

namespace Sys2Proof.Machine
open Sys2Proof.Claims

/-- An instruction whose registers are full goes on once its tokens are read (R71). -/
theorem issue_of_ready {s : State} {named : List (BitVec 5)} (h : Ready s named) (srcs dsts : List (BitVec 5)) (k : State → State)
    (hsub : ∀ r ∈ srcs ++ dsts, r ∈ named) : s.issue srcs dsts k = k (readAll s srcs) :=
  s.issue_full srcs dsts k fun r hr => h.full r (hsub r hr)

/-! An instruction that writes at most one scalar register and goes on elsewhere. -/

/-- The current strand is over with its instruction and stands at a pc with these loop levels. -/
def State.goOn (s : State) (pc : Word) (ls : List LoopLvl) : State := s.onCur fun t => { t.clear with pc := pc, loops := ls }

theorem State.retire_goOn {s : State} (h : s.cur.pre = none) : s.retire = s.goOn (endOfBody s.cur.pc s.cur.loops).1 (endOfBody s.cur.pc s.cur.loops).2.1 :=
  s.retire_calm h

@[simp] theorem readAll_pc (s : State) (srcs : List (BitVec 5)) : (readAll s srcs).cur.pc = s.cur.pc := by
  obtain ⟨h, q, o, e⟩ := readAll_eq s srcs; rw [e]
@[simp] theorem readAll_loops (s : State) (srcs : List (BitVec 5)) : (readAll s srcs).cur.loops = s.cur.loops := by
  obtain ⟨h, q, o, e⟩ := readAll_eq s srcs; rw [e]

/-- A write of a scalar register changes scalar registers, their full bits and their tokens alone. -/
theorem Strand.setS_eq (t : Strand) (d : BitVec 5) (v : Word) :
    t.setS d v = { t with sregs := (t.setS d v).sregs, full := (t.setS d v).full, marks := (t.setS d v).marks } := by
  unfold Strand.setS
  split <;> rfl


/-- Tokens read and nothing written: no register has changed. -/
theorem readAll_goOn (s : State) (srcs : List (BitVec 5)) (pc : Word) (ls : List LoopLvl) : OnlyScalars s ((readAll s srcs).goOn pc ls) [] := by
  obtain ⟨h, q, o, e⟩ := readAll_eq s srcs
  rw [e]
  exact ⟨fun _ _ => ⟨rfl, rfl⟩, rfl⟩

/-- Tokens read and one register written: it holds its value, and nothing else has changed. -/
theorem readAll_setS_goOn (s : State) (srcs : List (BitVec 5)) (d : BitVec 5) (v : Word) (pc : Word) (ls : List LoopLvl) :
    Holds (((readAll s srcs).onCur fun t => t.setS d v).goOn pc ls) d v ∧ OnlyScalars s (((readAll s srcs).onCur fun t => t.setS d v).goOn pc ls) [d] := by
  obtain ⟨h, q, o, e⟩ := readAll_eq s srcs
  rw [e]
  have hset := Strand.setS_eq { s.cur with hb := h, soon := q, obs := o } d v
  refine ⟨⟨Strand.getS_setS_self _ d v, Strand.isFull_setS_self _ d v⟩, fun r hr => ?_, ?_⟩
  · have hne := List.ne_of_not_mem_cons hr
    exact ⟨Strand.getS_setS_ne { s.cur with hb := h, soon := q, obs := o } v hne, Strand.isFull_setS_ne { s.cur with hb := h, soon := q, obs := o } v hne⟩
  · simp only [State.goOn, State.onCur]
    rw [hset]
    rfl

/-- What an instruction does that writes one scalar register and completes. -/
def Writes (s : State) (r : Result) (d : BitVec 5) (v : Word) : Prop :=
  ∃ t, r = .next t ∧ Holds t d v ∧ OnlyScalars s t [d] ∧ Stepped s t

/-- An instruction that has read its tokens and completes with nothing written. -/
theorem readAll_retire {s : State} (srcs : List (BitVec 5)) (h : s.cur.pre = none) :
    OnlyScalars s (readAll s srcs).retire [] ∧ Stepped s (readAll s srcs).retire := by
  rw [State.retire_goOn ((readAll_pre s srcs).trans h), readAll_pc, readAll_loops]
  exact ⟨readAll_goOn .., ⟨rfl, rfl⟩⟩

/-- An instruction that has read its tokens, writes one register and completes. -/
theorem readAll_setS_retire {s : State} (srcs : List (BitVec 5)) (d : BitVec 5) (v : Word) (h : s.cur.pre = none) :
    Writes s (.next ((readAll s srcs).onCur fun t => t.setS d v).retire) d v := by
  have hpre : ((readAll s srcs).onCur fun t => t.setS d v).cur.pre = none := (Strand.setS_pre ..).trans ((readAll_pre s srcs).trans h)
  rw [State.retire_goOn hpre]
  obtain ⟨hd, hrest⟩ := readAll_setS_goOn s srcs d v _ _
  exact ⟨_, rfl, hd, hrest, by simp [State.goOn, State.onCur], by simp [State.goOn, State.onCur]⟩

/-! Issue of the scalar forms. -/

theorem alu_writes {s : State} {d a b : BitVec 5} (f : Word → Word → Word) (h : Ready s [d, a, b]) :
    Writes s (.next (s.alu d a b f)) d (f (s.cur.getS a) (s.cur.getS b)) := by
  have hgo : s.alu d a b f = ((readAll s [a, b]).onCur fun t => t.setS d (f (t.getS a) (t.getS b))).retire :=
    issue_of_ready h [a, b] [d] _ (by simp)
  rw [hgo, State.onCur, readAll_getS, readAll_getS]
  exact readAll_setS_retire [a, b] d _ h.calm

theorem alu1_writes {s : State} {d a : BitVec 5} (f : Word → Word) (h : Ready s [d, a]) :
    Writes s (.next (s.alu1 d a f)) d (f (s.cur.getS a)) := by
  have hgo : s.alu1 d a f = ((readAll s [a]).onCur fun t => t.setS d (f (t.getS a))).retire :=
    issue_of_ready h [a] [d] _ (by simp)
  rw [hgo, State.onCur, readAll_getS]
  exact readAll_setS_retire [a] d _ h.calm

theorem alu0_writes {s : State} {d : BitVec 5} (f : Word → Word) (h : Ready s [d]) :
    Writes s (.next (s.alu0 d f)) d (f s.cur.pc) := by
  have hgo : s.alu0 d f = ((readAll s []).onCur fun t => t.setS d (f t.pc)).retire :=
    issue_of_ready h [] [d] _ (by simp)
  rw [hgo]
  exact readAll_setS_retire [] d _ h.calm

/-! The values (R92, R93, R39). -/

theorem sh6_eq (b : Word) : sh6 b = (b.extractLsb' 0 6).toNat := by simp [sh6]

theorem opSlt_eq (a b : Word) : opSlt a b = if decide (a.toInt < b.toInt) then 1#64 else 0#64 := rfl

theorem opSltz_eq (a b : Word) : opSltz a b = if decide (a.toNat < b.toNat) then 1#64 else 0#64 := rfl

theorem opMin_eq (a b : Word) : opMin a b = if a.toInt ≤ b.toInt then a else b := by
  unfold opMin
  rw [BitVec.slt]
  by_cases h : a.toInt ≤ b.toInt
  · rw [if_pos h]
    by_cases hlt : a.toInt < b.toInt
    · rw [if_pos (decide_eq_true hlt)]
    · rw [if_neg (by simpa using hlt)]; exact (BitVec.eq_of_toInt_eq (by omega)).symm
  · rw [if_neg h, if_neg (by simp; omega)]

theorem opMax_eq (a b : Word) : opMax a b = if a.toInt ≤ b.toInt then b else a := by
  unfold opMax
  rw [BitVec.slt]
  by_cases h : a.toInt ≤ b.toInt
  · rw [if_pos h]
    by_cases hlt : a.toInt < b.toInt
    · rw [if_pos (decide_eq_true hlt)]
    · rw [if_neg (by simpa using hlt)]; exact BitVec.eq_of_toInt_eq (by omega)
  · rw [if_neg h, if_neg (by simp; omega)]

theorem opMinz_eq (a b : Word) : opMinz a b = if a.toNat ≤ b.toNat then a else b := by
  unfold opMinz
  rw [BitVec.ult]
  by_cases h : a.toNat ≤ b.toNat
  · rw [if_pos h]
    by_cases hlt : a.toNat < b.toNat
    · rw [if_pos (decide_eq_true hlt)]
    · rw [if_neg (by simpa using hlt)]; exact (BitVec.eq_of_toNat_eq (by omega)).symm
  · rw [if_neg h, if_neg (by simp; omega)]

theorem opMaxz_eq (a b : Word) : opMaxz a b = if a.toNat ≤ b.toNat then b else a := by
  unfold opMaxz
  rw [BitVec.ult]
  by_cases h : a.toNat ≤ b.toNat
  · rw [if_pos h]
    by_cases hlt : a.toNat < b.toNat
    · rw [if_pos (decide_eq_true hlt)]
    · rw [if_neg (by simpa using hlt)]; exact BitVec.eq_of_toNat_eq (by omega)
  · rw [if_neg h, if_neg (by simp; omega)]

/-- A shift of a sign-extended immediate multiplies it. -/
theorem signExtend_shift (n k : Nat) (i : BitVec n) : i.signExtend 64 <<< k = BitVec.ofInt 64 (i.toInt * 2 ^ k) := by
  rw [BitVec.shiftLeft_eq_mul_twoPow, BitVec.signExtend, BitVec.ofInt_mul]
  congr 1
  apply BitVec.eq_of_toNat_eq
  simp only [BitVec.toNat_twoPow, BitVec.toNat_ofInt]
  exact_mod_cast (Int.toNat_natCast _).symm

theorem immU_eq (i : BitVec 20) : immU i = BitVec.ofInt 64 (i.toInt * 4096) := signExtend_shift 20 12 i

/-! Counts and bytes (R92). -/

/-- Leading zeros of the low n bits are the zeros at the head of those bits, highest first. -/
theorem leadZeros_eq (a : Word) (n : Nat) : leadZeros a n = (((List.range n).map a.getLsbD).reverse.takeWhile (· = false)).length := by
  induction n with
  | zero => rfl
  | succ n ih =>
    rw [List.range_succ, List.map_append, List.reverse_append, leadZeros]
    cases h : a.getLsbD n <;> simp [h, ih]

/-- Trailing zeros from bit i are the zeros at the head of the bits from there. -/
theorem trailZeros_eq (a : Word) (n i : Nat) : trailZeros a n i = (((List.range' i n).map a.getLsbD).takeWhile (· = false)).length := by
  induction n generalizing i with
  | zero => rfl
  | succ n ih =>
    rw [List.range'_succ, List.map_cons, trailZeros]
    cases a.getLsbD i <;> simp [ih]

theorem opClz_eq (a : Word) : opClz a = BitVec.ofNat 64 ((bitsOf a).reverse.takeWhile (· = false)).length := by
  rw [opClz, leadZeros_eq]; rfl

theorem opCtz_eq (a : Word) : opCtz a = BitVec.ofNat 64 ((bitsOf a).takeWhile (· = false)).length := by
  rw [opCtz, trailZeros_eq, ← List.range_eq_range']; rfl

theorem opPopc_eq (a : Word) : opPopc a = BitVec.ofNat 64 ((bitsOf a).count true) := by
  have h : (bitsOf a).count true = ((List.range 64).filter fun i => a.getLsbD i).length := by
    rw [bitsOf, List.count, List.countP_map, List.countP_eq_length_filter]
    congr 2
    funext i
    simp
  rw [h]; rfl

/-- Bits put before others count for their value above them. -/
theorem BitVec.toNat_append_add {n m : Nat} (x : BitVec n) (y : BitVec m) : (x ++ y).toNat = x.toNat * 2 ^ m + y.toNat := by
  rw [BitVec.toNat_append, ← Nat.shiftLeft_add_eq_or_of_lt y.isLt, Nat.shiftLeft_eq]

/-- The bytes of a word, lowest first. -/
theorem bytesOfNat_word (v : Word) : bytesOfNat 8 v.toNat = [v.extractLsb' 0 8, v.extractLsb' 8 8, v.extractLsb' 16 8, v.extractLsb' 24 8,
    v.extractLsb' 32 8, v.extractLsb' 40 8, v.extractLsb' 48 8, v.extractLsb' 56 8] := by
  simp [bytesOfNat, BitVec.extractLsb', Nat.shiftRight_eq_div_pow, Nat.div_div_eq_div_mul]

/-- A number's bytes, put together, are its bytes one after the other. -/
theorem word_natOfBytes (a b c d e f g h : Byte) : word (natOfBytes [h, g, f, e, d, c, b, a]) = a ++ b ++ c ++ d ++ e ++ f ++ g ++ h := by
  apply BitVec.eq_of_toNat_eq
  simp only [BitVec.toNat_append_add, word, natOfBytes, BitVec.toNat_ofNat]
  omega

theorem opBswap_eq (v : Word) : opBswap v = v.extractLsb' 0 8 ++ v.extractLsb' 8 8 ++ v.extractLsb' 16 8 ++ v.extractLsb' 24 8 ++
      v.extractLsb' 32 8 ++ v.extractLsb' 40 8 ++ v.extractLsb' 48 8 ++ v.extractLsb' 56 8 := by
  rw [opBswap, bytesOfNat_word]
  exact word_natOfBytes ..

/-! The obligation. -/

theorem scalar_arithmetic {s : State} {i : Instr} {d : BitVec 5} {srcs : List (BitVec 5)} {v : Word} (hi : scalarResult i s.cur = some (d, srcs, v)) (h : Ready s (d :: srcs)) :
    Writes s (exec i s) d v := by
  unfold scalarResult at hi
  dsimp only at hi
  split at hi
  case h_33 => cases hi
  all_goals
    simp only [Option.some.injEq, Prod.mk.injEq] at hi
    obtain ⟨rfl, rfl, rfl⟩ := hi
  · exact alu_writes (· + ·) h
  · exact alu_writes (· - ·) h
  · rw [← sh6_eq]; exact alu_writes opSll h
  · rw [← sh6_eq]; exact alu_writes opSrl h
  · rw [← sh6_eq]; exact alu_writes opSra h
  · exact alu_writes opSlt h
  · exact alu_writes opSltz h
  · exact alu_writes (· ^^^ ·) h
  · exact alu_writes (· ||| ·) h
  · exact alu_writes (· &&& ·) h
  · rw [BitVec.ofNat_mul, BitVec.ofNat_toNat, BitVec.ofNat_toNat, BitVec.setWidth_eq, BitVec.setWidth_eq]; exact alu_writes (· * ·) h
  · exact alu_writes opMulh h
  · exact alu_writes opMulhz h
  · exact alu_writes opDiv h
  · exact alu_writes opDivz h
  · exact alu_writes opRem h
  · exact alu_writes opRemz h
  · rw [← opMin_eq]; exact alu_writes opMin h
  · rw [← opMax_eq]; exact alu_writes opMax h
  · rw [← opMinz_eq]; exact alu_writes opMinz h
  · rw [← opMaxz_eq]; exact alu_writes opMaxz h
  · exact alu1_writes (· + imm12 _) h
  · exact alu1_writes (opSlt · (imm12 _)) h
  · exact alu1_writes (opSltz · (imm12 _)) h
  · exact alu1_writes (· ^^^ imm12 _) h
  · exact alu1_writes (· ||| imm12 _) h
  · exact alu1_writes (· &&& imm12 _) h
  · exact alu1_writes (· <<< BitVec.toNat _) h
  · exact alu1_writes (· >>> BitVec.toNat _) h
  · exact alu1_writes (BitVec.sshiftRight · (BitVec.toNat _)) h
  · rw [← immU_eq]; exact alu0_writes (fun _ => immU _) h
  · rw [← immU_eq]; exact alu0_writes (fun pc => pc + immU _) h

theorem scalar_counts {s : State} {i : Instr} {d a : BitVec 5} {v : Word} (hi : countResult i s.cur = some (d, a, v)) (h : Ready s [d, a]) :
    Writes s (exec i s) d v := by
  unfold countResult at hi
  split at hi
  case h_5 => cases hi
  all_goals
    simp only [Option.some.injEq, Prod.mk.injEq] at hi
    obtain ⟨rfl, rfl, rfl⟩ := hi
  · rw [← opClz_eq]; exact alu1_writes opClz h
  · rw [← opCtz_eq]; exact alu1_writes opCtz h
  · rw [← opPopc_eq]; exact alu1_writes opPopc h
  · rw [← opBswap_eq]; exact alu1_writes opBswap h

/-- Settles O1: the form of each instruction (two registers, one, or the pc), with the value its operation gives. -/
theorem scalar : Obligations.Scalar := by
  unfold Obligations.Scalar
  exact ⟨fun _ _ _ _ _ hi h => scalar_arithmetic hi h, fun _ _ _ _ _ hi h => scalar_counts hi h⟩

end Sys2Proof.Machine
end

section
/-! Branches and jumps (R84, R96, R97). -/

namespace Sys2Proof.Machine
open Sys2Proof.Claims

/-- The levels the model leaves are those from the outermost in, up to the first whose body does not hold the target (R84). -/
theorem popOutside_eq (target : Word) (ls : List LoopLvl) : popOutside target ls = keptLevels target ls := by
  induction ls with
  | nil => rfl
  | cons l ls ih =>
    rw [popOutside, ih]
    simp only [keptLevels, List.reverse_cons, List.takeWhile_append, List.length_reverse]
    generalize hk : ls.reverse.takeWhile (fun l => decide (l.start.toNat ≤ target.toNat ∧ target.toNat ≤ l.stop.toNat)) = k
    have hle : k.length ≤ ls.length := by rw [← hk, ← List.length_reverse (as := ls)]; exact (List.takeWhile_sublist _).length_le
    by_cases hlen : k.length = ls.length
    · rw [if_pos hlen, if_neg (by omega)]
      by_cases hin : l.start.toNat ≤ target.toNat ∧ target.toNat ≤ l.stop.toNat <;> simp [hin]
    · rw [if_neg hlen, if_pos (by omega)]

theorem State.jump_goOn (s : State) (target : Word) : s.jump target = s.goOn target (keptLevels target s.cur.loops) := by
  rw [State.jump, ← popOutside_eq]; rfl

theorem branchTarget_eq (pc : Word) (i : BitVec 12) : branchTarget pc i = pc + BitVec.ofInt 64 (i.toInt * 4) := by
  rw [branchTarget, signExtend_shift]; rfl

theorem jalTarget_eq (pc : Word) (i : BitVec 20) : jalTarget pc i = pc + BitVec.ofInt 64 (i.toInt * 4) := by
  rw [jalTarget, signExtend_shift]; rfl

/-- What a conditional branch does (R96). -/
def Branches (s : State) (r : Result) (o : BitVec 12) (taken : Bool) : Prop :=
  ∃ t, r = .next t ∧ OnlyScalars s t [] ∧ (if taken then Jumped s t (s.cur.pc + BitVec.ofInt 64 (o.toInt * 4)) else Stepped s t)

theorem branch_branches {s : State} {a b : BitVec 5} (o : BitVec 12) {test : Word → Word → Bool} {taken : Bool} (h : Ready s [a, b])
    (ht : test (s.cur.getS a) (s.cur.getS b) = taken) : Branches s (.next (s.branch a b o test)) o taken := by
  have hgo : s.branch a b o test = if taken then (readAll s [a, b]).goOn (s.cur.pc + BitVec.ofInt 64 (o.toInt * 4)) (keptLevels (s.cur.pc + BitVec.ofInt 64 (o.toInt * 4)) s.cur.loops)
      else (readAll s [a, b]).retire := by
    refine (issue_of_ready h [a, b] [] _ (by simp)).trans ?_
    show (if test ((readAll s [a, b]).cur.getS a) ((readAll s [a, b]).cur.getS b) then _ else _) = _
    simp only [readAll_getS, ht, State.jump_goOn, branchTarget_eq, readAll_pc, readAll_loops]
  rw [hgo]
  cases taken
  · obtain ⟨hrest, hstep⟩ := readAll_retire [a, b] h.calm
    exact ⟨_, rfl, hrest, hstep⟩
  · exact ⟨_, rfl, readAll_goOn .., rfl, rfl⟩

theorem branches_of_test {s : State} {i : Instr} {a b : BitVec 5} {o : BitVec 12} {taken : Bool} (hi : branchTest i s.cur = some (a, b, o, taken)) (h : Ready s [a, b]) :
    Branches s (exec i s) o taken := by
  unfold branchTest at hi
  dsimp only at hi
  split at hi
  case h_7 => cases hi
  all_goals
    simp only [Option.some.injEq, Prod.mk.injEq] at hi
    obtain ⟨rfl, rfl, rfl, rfl⟩ := hi
    refine branch_branches _ h ?_
  · rfl
  · rfl
  · rfl
  · rw [BitVec.slt, ← decide_not, decide_eq_decide, Int.not_lt]
  · rfl
  · rw [BitVec.ult, ← decide_not, decide_eq_decide, Nat.not_lt]

/-- What a jump does: it writes pc + 4 and goes to its target (R97). -/
def Jumps (s : State) (r : Result) (d : BitVec 5) (target : Word) : Prop :=
  ∃ t, r = .next t ∧ Holds t d (s.cur.pc + 4) ∧ OnlyScalars s t [d] ∧ Jumped s t target

theorem link_jump_jumps (s : State) (srcs : List (BitVec 5)) (d : BitVec 5) (target : Word) :
    Jumps s (.next (((readAll s srcs).onCur fun t => t.setS d (t.pc + 4)).jump target)) d target := by
  rw [State.jump_goOn, State.onCur, readAll_pc]
  obtain ⟨hd, hrest⟩ := readAll_setS_goOn s srcs d (s.cur.pc + 4) target (keptLevels target s.cur.loops)
  simp only [Strand.setS_loops, readAll_loops]
  exact ⟨_, rfl, hd, hrest, rfl, rfl⟩

theorem jal_jumps {s : State} {d : BitVec 5} (o : BitVec 20) (h : Ready s [d]) : Jumps s (exec (.jal d o) s) d (s.cur.pc + BitVec.ofInt 64 (o.toInt * 4)) := by
  have hgo : exec (.jal d o) s = .next (((readAll s []).onCur fun t => t.setS d (t.pc + 4)).jump (jalTarget s.cur.pc o)) :=
    congrArg _ (issue_of_ready h [] [d] _ (by simp))
  rw [hgo, jalTarget_eq]
  exact link_jump_jumps ..

theorem jalr_jumps {s : State} {d a : BitVec 5} (o : BitVec 12) (h : Ready s [d, a]) :
    Jumps s (exec (.jalr d a o) s) d ((s.cur.getS a + BitVec.ofInt 64 o.toInt) &&& ~~~3#64) := by
  have hgo : exec (.jalr d a o) s = .next (((readAll s [a]).onCur fun t => t.setS d (t.pc + 4)).jump (jalrTarget ((readAll s [a]).cur.getS a) o)) :=
    congrArg _ (issue_of_ready h [a] [d] _ (by simp))
  rw [hgo, readAll_getS]
  exact link_jump_jumps ..

/-- Settles O2: the tests of R96 and the targets of R39, with the levels R84 leaves. -/
theorem transfers : Obligations.Transfers := by
  unfold Obligations.Transfers
  exact ⟨fun _ _ _ _ _ _ hi h => branches_of_test hi h, fun _ _ o h => jal_jumps o h, fun _ _ _ o h => jalr_jumps o h⟩

end Sys2Proof.Machine
end

section
/-! Hardware loops (R82 to R86). -/

namespace Sys2Proof.Machine
open Sys2Proof.Claims

/-- Whether a body that ends at `last` reaches past the innermost level (R86). -/
def outside (ls : List LoopLvl) (last : Word) : Bool :=
  match ls with
  | l :: _ => decide (l.stop.toNat < last.toNat)
  | [] => false

theorem outside_iff (ls : List LoopLvl) (last : Word) : outside ls last = false ↔ ∀ l ∈ ls.head?, last.toNat ≤ l.stop.toNat := by
  cases ls with
  | nil => simp [outside]
  | cons l ls => simp [outside]

/-- The four outcomes of a push, in the order in which they are tested (R82, R86). -/
theorem State.loopPush_eq (s : State) (c : Word) (n : BitVec 12) :
    s.loopPush c n =
      if c = 0 then s.goOn (s.cur.pc + word (4 * n.toNat) + 4) s.cur.loops
      else if s.cur.loops.length = 6 then s.faultCode .loopOverflow (word s.cur.loops.length) 0 0
      else if outside s.cur.loops (s.cur.pc + word (4 * n.toNat)) then s.faultCode .illegalOperand 0 0 0
      else s.goOn (s.cur.pc + 4) (⟨c, 0, s.cur.pc + 4, s.cur.pc + word (4 * n.toNat)⟩ :: s.cur.loops) := rfl

/-- `loop` and `loopi` push their count once the tokens are read. -/
theorem exec_of_loopCount {s : State} {i : Instr} {srcs : List (BitVec 5)} {c : Word} {n : BitVec 12} (hi : loopCount i s.cur = some (srcs, c, n)) (h : Ready s srcs) :
    exec i s = .next ((readAll s srcs).loopPush c n) := by
  unfold loopCount at hi
  split at hi
  case h_3 => cases hi
  all_goals
    simp only [Option.some.injEq, Prod.mk.injEq] at hi
    obtain ⟨rfl, rfl, rfl⟩ := hi
  · next a n =>
    have hgo : exec (.loop a n) s = .next ((readAll s [a]).loopPush ((readAll s [a]).cur.getS a) n) := congrArg _ (issue_of_ready h [a] [] _ (by simp))
    rwa [readAll_getS] at hgo
  · exact congrArg Host.Outcome.next (issue_of_ready h [] [] _ (by simp))

theorem loop_push {s : State} {i : Instr} {srcs : List (BitVec 5)} {c : Word} {n : BitVec 12} (hi : loopCount i s.cur = some (srcs, c, n)) (h : Ready s srcs) :
    let last := s.cur.pc + BitVec.ofNat 64 (4 * n.toNat)
    let nested := ∀ l ∈ s.cur.loops.head?, last.toNat ≤ l.stop.toNat
    (c = 0 → ∃ t, exec i s = .next t ∧ OnlyScalars s t [] ∧ t.cur.pc = last + 4 ∧ t.cur.loops = s.cur.loops) ∧
    (c ≠ 0 → s.cur.loops.length < 6 → nested → ∃ t, exec i s = .next t ∧ OnlyScalars s t [] ∧ t.cur.pc = s.cur.pc + 4 ∧
      t.cur.loops = ⟨c, 0, s.cur.pc + 4, last⟩ :: s.cur.loops) ∧
    (c ≠ 0 → s.cur.loops.length = 6 → exec i s = .next ((readAll s srcs).faultCode .loopOverflow 6 0 0)) ∧
    (c ≠ 0 → s.cur.loops.length < 6 → ¬ nested → exec i s = .next ((readAll s srcs).faultCode .illegalOperand 0 0 0)) := by
  intro last nested
  have hexec := exec_of_loopCount hi h
  rw [State.loopPush_eq, readAll_loops, readAll_pc] at hexec
  refine ⟨fun hc => ?_, fun hc hlen hnest => ?_, fun hc hlen => ?_, fun hc hlen hnest => ?_⟩
  · rw [if_pos hc] at hexec
    exact ⟨_, hexec, readAll_goOn .., rfl, rfl⟩
  · have hin : outside s.cur.loops (s.cur.pc + word (4 * n.toNat)) = false := (outside_iff ..).mpr hnest
    rw [if_neg hc, if_neg hlen.ne, hin, if_neg Bool.false_ne_true] at hexec
    exact ⟨_, hexec, readAll_goOn .., rfl, rfl⟩
  · rw [if_neg hc, if_pos hlen, hlen] at hexec
    exact hexec
  · have hout : outside s.cur.loops (s.cur.pc + word (4 * n.toNat)) = true := by
      rw [← Bool.not_eq_false, outside_iff]; exact hnest
    rw [if_neg hc, if_neg hlen.ne, if_pos hout] at hexec
    exact hexec

theorem lidx_writes {s : State} {d : BitVec 5} {e : BitVec 3} {l : LoopLvl} (h : Ready s [d]) (hl : s.cur.loops[e.toNat]? = some l) :
    Writes s (exec (.lidx d e) s) d l.index := by
  have hgo : exec (.lidx d e) s = .next ((readAll s []).onCur fun t => t.setS d l.index).retire := by
    refine congrArg _ ((issue_of_ready h [] [d] _ (by simp)).trans ?_)
    simp only [readAll_loops, hl]
  rw [hgo]
  exact readAll_setS_retire [] d _ h.calm

theorem lidx_underflow {s : State} {d : BitVec 5} {e : BitVec 3} (h : Ready s [d]) (hl : s.cur.loops.length ≤ e.toNat) :
    exec (.lidx d e) s = .next (s.faultCode .loopUnderflow (BitVec.ofNat 64 s.cur.loops.length) 0 0) := by
  refine congrArg _ ((issue_of_ready h [] [d] _ (by simp)).trans ?_)
  simp only [readAll_loops, List.getElem?_eq_none hl]
  rfl

theorem lbrk_leaves {s : State} {l : LoopLvl} {ls : List LoopLvl} (hl : s.cur.loops = l :: ls) : exec .lbrk s = .next (s.goOn (l.stop + 4) ls) := by
  show Host.Outcome.next (match s.cur.loops with | [] => _ | l :: ls => _) = _
  rw [hl]
  rfl

theorem lnext_ends {s : State} {l : LoopLvl} {ls : List LoopLvl} (h : s.cur.pre = none) (hl : s.cur.loops = l :: ls) :
    exec .lnext s = .next (s.goOn (endOfBody l.stop (l :: ls)).1 (endOfBody l.stop (l :: ls)).2.1) := by
  show Host.Outcome.next (match s.cur.loops with | [] => _ | l :: ls => _) = _
  rw [hl]
  have hpoint : (s.goOn (endOfBody l.stop (l :: ls)).1 (endOfBody l.stop (l :: ls)).2.1).preemptPoint = s.goOn (endOfBody l.stop (l :: ls)).1 (endOfBody l.stop (l :: ls)).2.1 :=
    State.preemptPoint_none _ h
  exact congrArg Host.Outcome.next ((congrArg (fun u => if (endOfBody l.stop (l :: ls)).2.2 = true then u else s.goOn _ _) hpoint).trans (ite_self _))

theorem lbrk_lnext_underflow {s : State} (hl : s.cur.loops = []) :
    exec .lbrk s = .next (s.faultCode .loopUnderflow 0 0 0) ∧ exec .lnext s = .next (s.faultCode .loopUnderflow 0 0 0) := by
  have hfault : s.loopFault .loopUnderflow = s.faultCode .loopUnderflow 0 0 0 := by
    rw [State.loopFault, hl]; rfl
  constructor
  · show Host.Outcome.next (match s.cur.loops with | [] => _ | l :: ls => _) = _
    rw [hl]
    exact congrArg _ hfault
  · show Host.Outcome.next (match s.cur.loops with | [] => _ | l :: ls => _) = _
    rw [hl]
    exact congrArg _ hfault

/-- End-of-body processing, case by case (R83). -/
theorem endOfBody_cases (pc : Word) (l : LoopLvl) (ls : List LoopLvl) :
    (endOfBody pc []).1 = pc + 4 ∧
    (pc ≠ l.stop → endOfBody pc (l :: ls) = (pc + 4, l :: ls, false)) ∧
    (pc = l.stop → l.index.toNat + 1 < l.count.toNat → endOfBody pc (l :: ls) = (l.start, ⟨l.count, l.index + 1, l.start, l.stop⟩ :: ls, true)) ∧
    (pc = l.stop → l.count.toNat ≤ l.index.toNat + 1 → endOfBody pc (l :: ls) = endOfBody pc ls) := by
  refine ⟨rfl, fun h => ?_, fun h hi => ?_, fun h hi => ?_⟩ <;> rw [endOfBody]
  · rw [if_neg h]
  · rw [if_pos h, if_pos hi]
  · rw [if_pos h, if_neg (by omega)]

/-- Settles O3: the outcomes of a push, the instructions that look at or leave a level, and the end of a body. -/
theorem loops : Obligations.Loops := by
  unfold Obligations.Loops
  refine ⟨fun s i srcs c n hi h => loop_push hi h, ⟨fun s d e l h hl => lidx_writes h hl, fun s l ls h hl => ?_, fun s l ls h hl => ?_,
    fun s d e h hl => lidx_underflow h hl, fun s hl => lbrk_lnext_underflow hl⟩, endOfBody_cases⟩
  · exact ⟨_, lbrk_leaves hl, readAll_goOn s [] _ _, rfl, rfl⟩
  · exact ⟨_, lnext_ends h.calm hl, readAll_goOn s [] _ _, rfl⟩

end Sys2Proof.Machine
end

section
/-! CSRs (R78, R79, R81, R98). -/

namespace Sys2Proof.Machine
open Sys2Proof.Claims

/-- The strand with its read/write CSRs at given values, in the order of `csrsOf`. -/
def Strand.setCsrs (t : Strand) (r : Word × BitVec 32 × ElTy × BitVec 4 × BitVec 16 × BitVec 32 × Rnd × Flags × Word) : Strand :=
  { t with dlDef := r.1, fetrap := r.2.1, vty := r.2.2.1, vslip := r.2.2.2.1, ffx := r.2.2.2.2.1, efr := r.2.2.2.2.2.1, frm := r.2.2.2.2.2.2.1, fflags := r.2.2.2.2.2.2.2.1, tbud := r.2.2.2.2.2.2.2.2 }

/-- A `fetrap` value is taken without its bit 0 (R79). -/
theorem evenBits (v : Word) : v.setWidth 32 &&& ~~~1#32 = BitVec.ofNat 32 (v.toNat / 2 * 2) := by
  have hshift : BitVec.ofNat 32 (v.toNat / 2 * 2) = (v.setWidth 32 >>> 1) <<< 1 := by
    apply BitVec.eq_of_toNat_eq
    simp only [BitVec.toNat_ofNat, BitVec.toNat_shiftLeft, BitVec.toNat_ushiftRight, BitVec.toNat_setWidth, Nat.shiftLeft_eq, Nat.shiftRight_eq_div_pow]
    omega
  rw [hshift]
  ext i hi
  cases i with
  | zero => simp
  | succ i => simp [-BitVec.reduceNot, hi, Nat.add_comm 1 i, BitVec.getElem_one]

/-- A write of a CSR is what R79 accepts, or nothing. -/
theorem Strand.csrSet_eq (t : Strand) (c : BitVec 12) (v : Word) : t.csrSet c v = (csrWrite t c.toNat v).map t.setCsrs := by
  unfold Strand.csrSet
  split
  case h_10 h2 h6 h20 h22 h23 h24 h25 h26 h30 =>
    unfold csrWrite
    rw [if_neg h2, if_neg h6, if_neg h20, if_neg h22, if_neg h23, if_neg h24, if_neg h25, if_neg h26, if_neg h30]
    rfl
  all_goals
    next hc =>
    rw [hc]
    simp only [csrWrite, Nat.reduceEqDiff, reduceIte, apply_ite (Option.map t.setCsrs), Option.map_some, Option.map_none, Option.map_map, BitVec.ofNat_toNat, evenBits]
    rfl

/-- The lane groups held fill the grant's 16 bits at most. -/
theorem Strand.laneCount_le (t : Strand) : t.laneCount ≤ 16 :=
  (List.length_filter_le _ _).trans_eq List.length_range

/-- `lanes`: the grant, and above it the number of groups (R79). -/
theorem lanes_eq (t : Strand) : t.grant.setWidth 64 ||| word (t.laneCount * 2 ^ 16) = t.grant.setWidth 64 + BitVec.ofNat 64 (t.laneCount * 65536) := by
  have hdisjoint : t.grant.setWidth 64 &&& word (t.laneCount * 2 ^ 16) = 0#64 := by
    have hword : word (t.laneCount * 2 ^ 16) = BitVec.ofNat 64 t.laneCount <<< 16 := by
      rw [BitVec.shiftLeft_eq_mul_twoPow, word, BitVec.ofNat_mul]; rfl
    rw [hword]
    ext i hi
    by_cases h : i < 16
    · simp [h]
    · simp [BitVec.getLsbD_of_ge t.grant i (by omega)]
  exact (BitVec.add_eq_or_of_and_eq_zero _ _ hdisjoint).symm

/-- `lease`: maintenance mode and the matrix lease (R79). -/
theorem leases_eq (maint mlease : Bool) : word ((if maint then 1 else 0) + (if mlease then 256 else 0)) = (if maint then 1#64 else 0#64) + (if mlease then 256#64 else 0#64) := by
  cases maint <;> cases mlease <;> rfl

theorem State.csrGet_ofNat (s : State) {c : BitVec 12} {n : Nat} (hc : c.toNat = n) : s.csrGet c = s.csrGet (BitVec.ofNat 12 n) := by
  rw [← hc, BitVec.ofNat_toNat, BitVec.setWidth_eq]

theorem lvc_getD (l : Vector Word 8) (i : Fin 8) : l.toList.getD i 0 = l.get i := by
  simp [Vector.get]

/-- `getc` reads the CSR map of R78. -/
theorem csrGet_of_csrMap {s : State} {c : BitVec 12} {v : Word} (h : (c.toNat, v) ∈ csrMap s) : s.csrGet c = v := by
  simp only [csrMap, List.mem_append, List.mem_cons, List.not_mem_nil, or_false, List.mem_map, List.mem_range, Prod.mk.injEq] at h
  obtain (h | ⟨i, hi, hc, rfl⟩) | h := h
  · rcases h with h | h | h | h | h | h | h | h
    all_goals
      obtain ⟨hc, rfl⟩ := h
      exact s.csrGet_ofNat hc
  · rw [s.csrGet_ofNat hc.symm]
    have hreg := lvc_getD s.cur.lvc ⟨i, hi⟩
    interval_cases i <;> exact hreg.symm
  · rcases h with h | h | h | h | h | h | h | h | h | h | h | h | h | h
    all_goals
      obtain ⟨hc, rfl⟩ := h
      rw [s.csrGet_ofNat hc]
    case inr.inr.inr.inl => exact lanes_eq s.cur
    case inr.inr.inr.inr.inr.inr.inr.inr.inr.inr.inr.inr.inr.inl => exact leases_eq ..
    all_goals rfl

/-! Issue: the vector work a CSR waits for is done (R81). -/

theorem State.drained_go {s : State} (k : State → State) (hq : s.cur.vq = []) (hm : s.mrdQueued = false) : s.drained k = k s := by
  simp [State.drained, hq, hm]

@[simp] theorem readAll_vq (s : State) (srcs : List (BitVec 5)) : (readAll s srcs).cur.vq = s.cur.vq := by
  obtain ⟨h, q, o, e⟩ := readAll_eq s srcs; rw [e]

@[simp] theorem readAll_csrGet (s : State) (srcs : List (BitVec 5)) (c : BitVec 12) : (readAll s srcs).csrGet c = s.csrGet c := by
  obtain ⟨h, q, o, e⟩ := readAll_eq s srcs; rw [e]; rfl

@[simp] theorem readAll_csrWrite (s : State) (srcs : List (BitVec 5)) (c : Nat) (v : Word) : csrWrite (readAll s srcs).cur c v = csrWrite s.cur c v := by
  obtain ⟨h, q, o, e⟩ := readAll_eq s srcs; rw [e]; rfl

/-- A CSR access goes on where nothing of the vector unit is outstanding. -/
theorem csrAccess_go (s : State) (srcs : List (BitVec 5)) (c : BitVec 12) (k : State → State) (hq : s.cur.vq = []) (hm : s.mrdQueued = false) :
    (if csrDrains c then (readAll s srcs).drained k else k (readAll s srcs)) = k (readAll s srcs) := by
  rw [State.drained_go k ((readAll_vq ..).trans hq) ((readAll_mrdQueued ..).trans hm), ite_self]

theorem getc_writes {s : State} {d : BitVec 5} {c : BitVec 12} {v : Word} (h : Ready s [d]) (hv : (c.toNat, v) ∈ csrMap s) (hq : s.cur.vq = []) (hm : s.mrdQueued = false) :
    Writes s (exec (.getc d c) s) d v := by
  have hgo : exec (.getc d c) s = .next ((readAll s []).onCur fun t => t.setS d ((readAll s []).csrGet c)).retire :=
    congrArg Host.Outcome.next ((issue_of_ready h [] [d] _ (by simp)).trans (csrAccess_go s [] c _ hq hm))
  rw [hgo, readAll_csrGet, csrGet_of_csrMap hv]
  exact readAll_setS_retire [] d v h.calm

/-- What `setc` and `swapc` leave of a write that is accepted: the CSRs, and, with `swapc`, the register. -/
theorem setCsrs_retire {s : State} (srcs : List (BitVec 5)) (r : Word × BitVec 32 × ElTy × BitVec 4 × BitVec 16 × BitVec 32 × Rnd × Flags × Word) (h : s.cur.pre = none) :
    csrsOf ((readAll s srcs).onCur fun t => t.setCsrs r).retire.cur = r ∧ OnlyCsrs s ((readAll s srcs).onCur fun t => t.setCsrs r).retire [] ∧
    Stepped s ((readAll s srcs).onCur fun t => t.setCsrs r).retire := by
  have hpre : ((readAll s srcs).onCur fun t => t.setCsrs r).cur.pre = none := (readAll_pre s srcs).trans h
  rw [State.retire_goOn hpre]
  obtain ⟨hb, q, o, e⟩ := readAll_eq s srcs
  rw [e]
  exact ⟨rfl, ⟨fun _ _ => ⟨rfl, rfl⟩, rfl⟩, ⟨rfl, rfl⟩⟩

/-- The same with a register written besides. -/
theorem setCsrs_setS_retire {s : State} (srcs : List (BitVec 5)) (r : Word × BitVec 32 × ElTy × BitVec 4 × BitVec 16 × BitVec 32 × Rnd × Flags × Word) (d : BitVec 5) (v : Word) (h : s.cur.pre = none) :
    let t := ((readAll s srcs).onCur fun t => (t.setCsrs r).setS d v).retire
    csrsOf t.cur = r ∧ OnlyCsrs s t [d] ∧ Stepped s t ∧ Holds t d v := by
  intro t
  have hpre : ((readAll s srcs).onCur fun t => (t.setCsrs r).setS d v).cur.pre = none := (Strand.setS_pre ..).trans ((readAll_pre s srcs).trans h)
  have ht : t = ((readAll s srcs).onCur fun t => (t.setCsrs r).setS d v).goOn (endOfBody s.cur.pc s.cur.loops).1 (endOfBody s.cur.pc s.cur.loops).2.1 := by
    refine (State.retire_goOn hpre).trans ?_
    simp [State.onCur, Strand.setCsrs]
  obtain ⟨hb, q, o, e⟩ := readAll_eq s srcs
  rw [e] at ht
  have hset := Strand.setS_eq ({ s.cur with hb := hb, soon := q, obs := o }.setCsrs r) d v
  have hother (x : BitVec 5) (hx : x ∉ [d]) : t.cur.getS x = s.cur.getS x ∧ t.cur.isFull x = s.cur.isFull x := by
    rw [ht]
    exact ⟨Strand.getS_setS_ne _ v (List.ne_of_not_mem_cons hx), Strand.isFull_setS_ne _ v (List.ne_of_not_mem_cons hx)⟩
  have hd : Holds t d v := by
    rw [ht]
    exact ⟨Strand.getS_setS_self _ d v, Strand.isFull_setS_self _ d v⟩
  simp only [State.goOn, State.onCur] at ht
  rw [hset] at ht
  refine ⟨by rw [ht]; rfl, ⟨hother, by rw [ht]; rfl⟩, ⟨by rw [ht], by rw [ht]⟩, hd⟩

/-- What `setc` does, by what R79 makes of the value. -/
theorem exec_setc {s : State} {a : BitVec 5} {c : BitVec 12} (h : Ready s [a]) (hq : s.cur.vq = []) (hm : s.mrdQueued = false) :
    exec (.setc a c) s = .next (match csrWrite s.cur c.toNat (s.cur.getS a) with
      | none => (readAll s [a]).faultCode .illegalOperand 0 0 0
      | some r => ((readAll s [a]).onCur fun t => t.setCsrs r).retire) := by
  refine congrArg Host.Outcome.next ((issue_of_ready h [a] [] _ (by simp)).trans ((csrAccess_go s [a] c _ hq hm).trans ?_))
  simp only [Strand.csrSet_eq, readAll_csrWrite, readAll_getS]
  cases csrWrite s.cur c.toNat (s.cur.getS a) <;> rfl

/-- What `swapc` does, by what R79 makes of the value. -/
theorem exec_swapc {s : State} {d a : BitVec 5} {c : BitVec 12} (h : Ready s [d, a]) (hq : s.cur.vq = []) (hm : s.mrdQueued = false) :
    exec (.swapc d a c) s = .next (match csrWrite s.cur c.toNat (s.cur.getS a) with
      | none => (readAll s [a]).faultCode .illegalOperand 0 0 0
      | some r => ((readAll s [a]).onCur fun t => (t.setCsrs r).setS d (s.csrGet c)).retire) := by
  refine congrArg Host.Outcome.next ((issue_of_ready h [a] [d] _ (by simp)).trans ((csrAccess_go s [a] c _ hq hm).trans ?_))
  simp only [Strand.csrSet_eq, readAll_csrWrite, readAll_getS, readAll_csrGet]
  cases csrWrite s.cur c.toNat (s.cur.getS a) <;> rfl

/-- Settles O4: reads by the CSR map, writes by what R79 accepts of the value. -/
theorem csrs : Obligations.Csrs := by
  unfold Obligations.Csrs
  refine ⟨fun s d c v hv h hq hm => getc_writes h hv hq hm, fun s a d c h hq hm => ?_⟩
  have hset := exec_setc (c := c) (⟨fun r hr => h.full r (List.mem_cons_of_mem _ hr), h.calm⟩ : Ready s [a]) hq hm
  have hswap := exec_swapc (c := c) h hq hm
  refine ⟨fun r hr => ?_, fun hr => ?_⟩
  · rw [hr] at hset hswap
    obtain ⟨hcsrs, hrest, hstep, hd⟩ := setCsrs_setS_retire [a] r d (s.csrGet c) h.calm
    exact ⟨⟨_, hset, setCsrs_retire [a] r h.calm⟩, ⟨_, hswap, hcsrs, hrest, hstep, fun v hv => csrGet_of_csrMap hv ▸ hd⟩⟩
  · rw [hr] at hset hswap
    exact ⟨hset, hswap⟩

end Sys2Proof.Machine
end

section
/-! Deadline waits as they begin and as they end at once (R74, R76). -/

namespace Sys2Proof.Machine
open Sys2Proof.Claims

/-- A `wst` that a wait has written, field by field (R76). -/
theorem wstFields_mkWst {kind : Nat} (phase : BitVec 32) (o : WaitOutcome) (h : kind < 256) : wstFields (mkWst kind phase o) = (o.code, false, phase, kind) := by
  have hcode : o.code < 8 := by cases o <;> decide
  have hphase := phase.isLt
  have hval : (mkWst kind phase o).toNat = kind * 2 ^ 48 + phase.toNat * 2 ^ 16 + o.code := by
    rw [mkWst, BitVec.toNat_ofNat]; omega
  have hbit : (mkWst kind phase o).getLsbD 8 = false := by
    rw [BitVec.getLsbD, hval, Nat.testBit_eq_decide_div_mod_eq, decide_eq_false_iff_not]; omega
  have hph : (mkWst kind phase o).extractLsb' 16 32 = phase := by
    apply BitVec.eq_of_toNat_eq
    rw [BitVec.extractLsb'_toNat, hval, Nat.shiftRight_eq_div_pow]; omega
  rw [wstFields, hval, hbit, hph]
  refine congrArg₂ Prod.mk ?_ (congrArg _ (congrArg _ ?_)) <;> omega

/-- The clamp of R74 where the sum does not wrap. -/
theorem clampDl_eq {s : State} (d : Word) (h : s.jtime.toNat + s.cur.dlMax.toNat < 2 ^ 64) : s.clampDl d = clamped s d := by
  have hsum : (s.jtime + s.cur.dlMax).toNat = s.jtime.toNat + s.cur.dlMax.toNat := by rw [BitVec.toNat_add, Nat.mod_eq_of_lt h]
  simp only [State.clampDl, clamped, hsum]

theorem clamped_toNat {s : State} (d : Word) (h : s.jtime.toNat + s.cur.dlMax.toNat < 2 ^ 64) : (clamped s d).toNat = min d.toNat (s.jtime.toNat + s.cur.dlMax.toNat) := by
  have hsum : (s.jtime + s.cur.dlMax).toNat = s.jtime.toNat + s.cur.dlMax.toNat := by rw [BitVec.toNat_add, Nat.mod_eq_of_lt h]
  unfold clamped
  split
  · omega
  · rw [hsum]; omega

/-- The wait a strand enters at a deadline (R74). -/
def State.freshWait (s : State) (o : WaitObj) (kind : Nat) (sd : BitVec 5) (d : Word) : Wait :=
  ⟨o, kind, sd, some (clamped s d), decide (d.toNat ≤ s.jtime.toNat), s.ticket, none⟩

/-- The state with a wait entered. -/
def State.entered (s : State) (w : Wait) : State := { s with cur := { s.cur with wait := some w }, ticket := s.ticket + 1 }

@[simp] theorem State.entered_mem (s : State) (w : Wait) : (s.entered w).mem = s.mem := rfl
@[simp] theorem State.entered_pkg (s : State) (w : Wait) : (s.entered w).pkg = s.pkg := rfl
@[simp] theorem State.entered_cores (s : State) (w : Wait) : (s.entered w).cores = s.cores := rfl
@[simp] theorem State.entered_cur (s : State) (w : Wait) : (s.entered w).cur = { s.cur with wait := some w } := rfl

/-- A wait that begins with none pending. -/
theorem State.waitOn_entered {s : State} (o : WaitObj) (kind : Nat) (sd : BitVec 5) (bound : Option Word) (past : Bool) (expiry : Option FaultRec) (hw : s.cur.wait = none) :
    s.waitOn o kind sd bound past expiry = s.entered ⟨o, kind, sd, bound, past, s.ticket, expiry⟩ := by
  rw [State.waitOn, hw]; rfl

/-- Entering a deadline wait with none pending: its home decides it, or its deadline has passed, or it stays (R74). -/
theorem deadlineWait_fresh {s : State} (o : WaitObj) (kind : Nat) (sd : BitVec 5) (d : Word) (hw : s.cur.wait = none) (ht : s.jtime.toNat + s.cur.dlMax.toNat < 2 ^ 64) :
    s.deadlineWait o kind sd d =
      match (s.entered (s.freshWait o kind sd d)).homeDecide (s.freshWait o kind sd d) with
      | some t => t
      | none => if decide (d.toNat ≤ s.jtime.toNat) && !(s.entered (s.freshWait o kind sd d)).metHeld (s.freshWait o kind sd d)
        then (s.entered (s.freshWait o kind sd d)).lapse (s.freshWait o kind sd d) else s.entered (s.freshWait o kind sd d) := by
  have hpoll : s.pollDl d = (clamped s d, decide (d.toNat ≤ s.jtime.toNat)) := by
    rw [State.pollDl, hw]; exact congrArg (·, _) (clampDl_eq d ht)
  have hwait : s.waitOn o kind sd (some (clamped s d)) (decide (d.toNat ≤ s.jtime.toNat)) none = s.entered (s.freshWait o kind sd d) :=
    State.waitOn_entered _ _ _ _ _ _ hw
  have hlate : (!decide (d.toNat ≤ s.jtime.toNat) && decide ((clamped s d).toNat < s.jtime.toNat)) = false := by
    have := clamped_toNat d ht
    by_cases hd : d.toNat ≤ s.jtime.toNat
    · simp [hd]
    · simp; omega
  unfold State.deadlineWait
  rw [hpoll]
  dsimp only
  rw [hwait]
  show (if (!decide (d.toNat ≤ s.jtime.toNat) && decide ((clamped s d).toNat < s.jtime.toNat)) = true then _ else _) = _
  rw [hlate, if_neg Bool.false_ne_true] <;> rfl

/-- The state with what an instruction that waits may have changed before its wait ends: what tokens and releases have made known to the strand, its wait and the leftovers of one. -/
def waitingPart (s v : State) : State :=
  { s with ticket := v.ticket, cur := { s.cur with
      hb := v.cur.hb, soon := v.cur.soon, obs := v.cur.obs, wait := v.cur.wait, buf := v.cur.buf, refused := v.cur.refused, replies := v.cur.replies
      vamoTodo := v.cur.vamoTodo, resv := v.cur.resv, seek := v.cur.seek } }

/-- A state differs from another in no more than that. -/
def Waiting (s u : State) : Prop := ∃ v, u = waitingPart s v

theorem waiting_readAll (s : State) (srcs : List (BitVec 5)) : Waiting s (readAll s srcs) := by
  refine ⟨readAll s srcs, ?_⟩
  obtain ⟨h, q, o, e⟩ := readAll_eq s srcs
  rw [e]; rfl

theorem Waiting.entered {s u : State} (h : Waiting s u) (w : Wait) : Waiting s (u.entered w) := by
  obtain ⟨v, rfl⟩ := h
  exact ⟨(waitingPart s v).entered w, rfl⟩

theorem Waiting.acquire {s u : State} (h : Waiting s u) (sc : Scope) (rs : List Nat) : Waiting s (u.acquire sc rs) := by
  obtain ⟨v, rfl⟩ := h
  exact ⟨(waitingPart s v).acquire sc rs, rfl⟩

theorem Waiting.onCur_hb {s u : State} (h : Waiting s u) (m : Nat) : Waiting s (u.onCur fun t => { t with hb := m }) := by
  obtain ⟨v, rfl⟩ := h
  exact ⟨(waitingPart s v).onCur fun t => { t with hb := m }, rfl⟩

/-- A strand's wait results and a register written, and the instruction left. -/
theorem waitingPart_setS_goOn (s x : State) (m a : Word) (d : BitVec 5) (v : Word) (pc : Word) (ls : List LoopLvl) :
    let t := ((waitingPart s x).onCur fun t => { t with wst := m, wabs := a }.setS d v).goOn pc ls
    t.cur.wst = m ∧ t.cur.wabs = a ∧ Holds t d v ∧ OnlyWaited s t [d] := by
  intro t
  have ht : t = { waitingPart s x with cur := { ({ (waitingPart s x).cur with wst := m, wabs := a }.setS d v).clear with pc := pc, loops := ls } } := rfl
  have hother (r : BitVec 5) (hr : r ∉ [d]) : t.cur.getS r = s.cur.getS r ∧ t.cur.isFull r = s.cur.isFull r :=
    ⟨Strand.getS_setS_ne _ v (List.ne_of_not_mem_cons hr), Strand.isFull_setS_ne _ v (List.ne_of_not_mem_cons hr)⟩
  have hd : Holds t d v := ⟨Strand.getS_setS_self _ d v, Strand.isFull_setS_self _ d v⟩
  rw [Strand.setS_eq] at ht
  refine ⟨by rw [ht]; rfl, by rw [ht]; rfl, hd, hother, ?_⟩
  rw [ht]; rfl

/-- A wait that ends leaves its results and its destination, and the instruction completes (R74, R76). -/
theorem finish_ended {s u : State} {kind : Nat} (phase : BitVec 32) (o : WaitOutcome) (a : Word) (d : BitVec 5) (v : Word) (h : Waiting s u) (hp : s.cur.pre = none) (hk : kind < 256) :
    Ended s (u.finish kind phase o a d v) kind phase o.code a d v := by
  obtain ⟨x, rfl⟩ := h
  have hpre : ((waitingPart s x).onCur fun t => { t with wst := mkWst kind phase o, wabs := a }.setS d v).cur.pre = none := (Strand.setS_pre ..).trans hp
  have hpc : ((waitingPart s x).onCur fun t => { t with wst := mkWst kind phase o, wabs := a }.setS d v).cur.pc = s.cur.pc := Strand.setS_pc ..
  have hls : ((waitingPart s x).onCur fun t => { t with wst := mkWst kind phase o, wabs := a }.setS d v).cur.loops = s.cur.loops := Strand.setS_loops ..
  rw [State.finish, State.retire_goOn hpre, hpc, hls]
  obtain ⟨hwst, hwabs, hd, hrest⟩ := waitingPart_setS_goOn s x (mkWst kind phase o) a d v (endOfBody s.cur.pc s.cur.loops).1 (endOfBody s.cur.pc s.cur.loops).2.1
  exact { wst := by rw [hwst, wstFields_mkWst phase o hk], wabs := hwabs, dest := hd, rest := hrest, order := ⟨rfl, rfl⟩ }

/-- `s0` is never written (R67). -/
theorem onlyWaited_zero {s t : State} (h : OnlyWaited s t [0]) : OnlyWaited s t [] := by
  refine ⟨fun r _ => ?_, h.rest⟩
  by_cases hr : r = 0
  · subst hr; exact ⟨rfl, rfl⟩
  · exact h.regs r (by simpa using hr)

end Sys2Proof.Machine
end

section
/-! `yield`, `ifence` and `sleep` (R99, R102, R103). -/

namespace Sys2Proof.Machine
open Sys2Proof.Claims

/-- `yield` completes and is a pre-emption point (R102). -/
theorem exec_yield (s : State) : exec .yield s = .next s.retire.preemptPoint := rfl

theorem yield_calm {s : State} (h : s.cur.pre = none) : exec .yield s = .next s.retire := by
  have hpre : s.retire.cur.pre = none := by rw [State.retire_goOn h]; exact h
  rw [exec_yield, State.preemptPoint_none _ hpre]

/-- A request pending in time takes effect at a `yield` outside loops (R87, R88). -/
theorem yield_preempts {s : State} {p : PreReq} (hp : s.cur.pre = some p) (hl : s.cur.loops = []) (hf : s.curFrozen = false) (ht : s.cur.preInTime = true) :
    exec .yield s = .next s.retire.preemptNow := by
  have hret : s.retire = s.goOn (s.cur.pc + 4) [] := by rw [State.retire, hl]; rfl
  have hpre : (s.goOn (s.cur.pc + 4) []).cur.pre = some p := hp
  have htime : (s.goOn (s.cur.pc + 4) []).cur.preInTime = true := ht
  have hfroz : (s.goOn (s.cur.pc + 4) []).curFrozen = false := hf
  rw [exec_yield, hret, State.preemptPoint, hpre, htime, hfroz]
  rfl

/-- `ifence` with nothing of the vector unit outstanding (R103). -/
theorem exec_ifence {s : State} (hq : s.cur.vq = []) (hm : s.mrdQueued = false) : exec .ifence s = .next (s.onCur fun t => { t with ifHb := t.hb }).retire :=
  congrArg Host.Outcome.next ((s.issue_full [] [] _ (by simp)).trans (State.drained_go _ hq hm))

theorem ifence_waits {s : State} (hq : s.cur.vq ≠ []) (hw : s.cur.wait = none) :
    exec .ifence s = .next (s.entered ⟨.vecDrain, 0, 0, none, false, s.ticket, none⟩) := by
  have hhold : s.holdOn .vecDrain = s.entered ⟨.vecDrain, 0, 0, none, false, s.ticket, none⟩ := State.waitOn_entered _ _ _ _ _ _ hw
  rw [← hhold]
  exact congrArg Host.Outcome.next (if_pos hq)

/-- `sleep` enters its wait once its token is read (R99). -/
theorem exec_sleep {s : State} {a : BitVec 5} (h : Ready s [a]) : exec (.sleep a) s = .next ((readAll s [a]).deadlineWait (.sleep (s.cur.getS a)) 9 0 (s.cur.getS a)) := by
  have hgo : exec (.sleep a) s = .next ((readAll s [a]).deadlineWait (.sleep ((readAll s [a]).cur.getS a)) 9 0 ((readAll s [a]).cur.getS a)) :=
    congrArg Host.Outcome.next (issue_of_ready h [a] [] _ (by simp))
  rwa [readAll_getS] at hgo

@[simp] theorem readAll_jtime (s : State) (srcs : List (BitVec 5)) : (readAll s srcs).jtime = s.jtime := by
  obtain ⟨h, q, o, e⟩ := readAll_eq s srcs; rw [e]; rfl
@[simp] theorem readAll_dlMax (s : State) (srcs : List (BitVec 5)) : (readAll s srcs).cur.dlMax = s.cur.dlMax := by
  obtain ⟨h, q, o, e⟩ := readAll_eq s srcs; rw [e]
@[simp] theorem readAll_wait (s : State) (srcs : List (BitVec 5)) : (readAll s srcs).cur.wait = s.cur.wait := by
  obtain ⟨h, q, o, e⟩ := readAll_eq s srcs; rw [e]
@[simp] theorem readAll_clamped (s : State) (srcs : List (BitVec 5)) (d : Word) : clamped (readAll s srcs) d = clamped s d := by
  simp only [clamped, readAll_jtime, readAll_dlMax]

/-- A `sleep` to a time that has come ends at once (R99). -/
theorem sleep_ends {s : State} {x : Word} (hw : s.cur.wait = none) (ht : s.jtime.toNat + s.cur.dlMax.toNat < 2 ^ 64) (hx : x.toNat ≤ s.jtime.toNat) :
    s.deadlineWait (.sleep x) 9 0 x = (s.entered (s.freshWait (.sleep x) 9 0 x)).finish 9 0 .met 0 0 0 := by
  have hj : (s.entered (s.freshWait (.sleep x) 9 0 x)).jtime = s.jtime := rfl
  have hb : ((s.freshWait (.sleep x) 9 0 x).bound.getD x).toNat = x.toNat := by
    refine (clamped_toNat x ht).trans ?_; omega
  have hmet : (s.entered (s.freshWait (.sleep x) 9 0 x)).homeDecide (s.freshWait (.sleep x) 9 0 x) = some ((s.entered (s.freshWait (.sleep x) 9 0 x)).finish 9 0 .met 0 0 0) :=
    if_pos ⟨hj ▸ hx, hb.ge⟩
  rw [deadlineWait_fresh _ _ _ _ hw ht, hmet]

/-- A `sleep` to a later time waits. -/
theorem sleep_waits {s : State} {x : Word} (hw : s.cur.wait = none) (ht : s.jtime.toNat + s.cur.dlMax.toNat < 2 ^ 64) (hx : s.jtime.toNat < x.toNat) :
    s.deadlineWait (.sleep x) 9 0 x = s.entered (s.freshWait (.sleep x) 9 0 x) := by
  have hj : (s.entered (s.freshWait (.sleep x) 9 0 x)).jtime = s.jtime := rfl
  have hmet : (s.entered (s.freshWait (.sleep x) 9 0 x)).homeDecide (s.freshWait (.sleep x) 9 0 x) = none :=
    if_neg fun h => by have := hj ▸ h.1; omega
  rw [deadlineWait_fresh _ _ _ _ hw ht, hmet, decide_eq_false (by omega)]
  rfl

/-- Settles O5: `yield`, `ifence` and `sleep`, each as it goes on and as it waits. -/
theorem frontEndPauses : Obligations.FrontEndPauses := by
  unfold Obligations.FrontEndPauses
  refine ⟨⟨fun s h => ⟨_, yield_calm h.calm, readAll_retire [] h.calm⟩, fun s p hp hl hf ht => yield_preempts hp hl hf ht⟩,
    ⟨fun s h hq hm => ?_, fun s _ hq hw => ?_⟩, fun s a h hw ht => ⟨fun hx => ?_, fun hx => ?_⟩⟩
  · refine ⟨_, exec_ifence hq hm, ?_⟩
    have hpre : (s.onCur fun t => { t with ifHb := t.hb }).cur.pre = none := h.calm
    rw [State.retire_goOn hpre]
    exact ⟨rfl, ⟨rfl, rfl⟩, ⟨fun _ _ => ⟨rfl, rfl⟩, rfl⟩⟩
  · exact ⟨_, _, ifence_waits hq hw, rfl, rfl, rfl, rfl, rfl, rfl⟩
  · have hend := finish_ended 0 .met 0 0 0 ((waiting_readAll s [a]).entered ((readAll s [a]).freshWait (.sleep (s.cur.getS a)) 9 0 (s.cur.getS a))) h.calm (by decide : 9 < 256)
    have hgo := (exec_sleep h).trans (congrArg _ (sleep_ends ((readAll_wait ..).trans hw) (by simpa using ht) (by simpa using hx)))
    exact ⟨_, hgo, hend.wst, hend.wabs, onlyWaited_zero hend.rest, hend.order⟩
  · have hgo := (exec_sleep h).trans (congrArg _ (sleep_waits ((readAll_wait ..).trans hw) (by simpa using ht) (by simpa using hx)))
    obtain ⟨hb, q, o, e⟩ := readAll_eq s [a]
    refine ⟨_, _, hgo, rfl, rfl, congrArg some (readAll_clamped s [a] _), readAll_pc .., ?_, ?_⟩ <;> rw [e] <;> rfl

end Sys2Proof.Machine
end

section
/-! The fault record and its ring (R105, R298, R299). -/

namespace Sys2Proof.Machine
open Sys2Proof.Claims

/-! Fields of bytes put one after the other (R8). -/

theorem natOfBytes_lt (l : List Byte) : natOfBytes l < 256 ^ l.length := by
  induction l with
  | nil => exact Nat.one_pos
  | cons b l ih =>
    have hb := b.isLt
    rw [natOfBytes, List.length_cons, Nat.pow_succ']
    omega

/-- Bytes come back from their number. -/
theorem bytesOfNat_natOfBytes (l : List Byte) : bytesOfNat l.length (natOfBytes l) = l := by
  induction l with
  | nil => rfl
  | cons b l ih =>
    have hlow : BitVec.ofNat 8 (natOfBytes (b :: l)) = b := by
      apply BitVec.eq_of_toNat_eq
      have hb := b.isLt
      rw [natOfBytes, BitVec.toNat_ofNat]
      omega
    have hhigh : natOfBytes (b :: l) / 256 = natOfBytes l := by
      have hb := b.isLt
      rw [natOfBytes]
      omega
    rw [List.length_cons, bytesOfNat, hlow, hhigh, ih]

/-- Fields of given lengths and values, one after the other. -/
def packed (l : List (Nat × Nat)) : List Byte := l.flatMap fun x => bytesOfNat x.1 x.2

theorem packed_length (l : List (Nat × Nat)) : (packed l).length = (l.map Prod.fst).sum := by
  simp [packed, List.length_flatMap]

/-- A field stands behind those before it. -/
theorem packed_field (l : List (Nat × Nat)) {k n v o : Nat} (hk : l[k]? = some (n, v)) (ho : ((l.map Prod.fst).take k).sum = o) :
    natOfBytes (((packed l).drop o).take n) = v % 256 ^ n := by
  obtain ⟨hlt, hget⟩ := List.getElem?_eq_some_iff.mp hk
  have hsplit : l = l.take k ++ (n, v) :: l.drop (k + 1) := by
    rw [← hget, ← List.drop_eq_getElem_cons hlt, List.take_append_drop]
  have happend : packed l = packed (l.take k) ++ (bytesOfNat n v ++ packed (l.drop (k + 1))) :=
    (congrArg packed hsplit).trans List.flatMap_append
  rw [happend, List.drop_left' ((packed_length _).trans (by rw [List.map_take, ho])), List.take_left' (bytesOfNat_length n v), natOfBytes_bytesOfNat]

theorem toNat_mod_four (x : BitVec 32) : x.toNat % 256 ^ 4 = x.toNat := Nat.mod_eq_of_lt (by have := x.isLt; omega)

theorem toNat_mod_eight (x : Word) : x.toNat % 256 ^ 8 = x.toNat := Nat.mod_eq_of_lt (by have := x.isLt; omega)

/-- The fields of a record (R299). -/
def FaultRec.fields (r : FaultRec) (job : BitVec 32) (g : Word) : List (Nat × Nat) :=
  [(1, r.code.num), (1, (if r.info then 1 else 0) + (if r.replay then 2 else 0) + (if r.malformed then 4 else 0)), (2, 0), (4, job.toNat), (4, r.sid.toNat), (4, 0), (8, r.pc.toNat),
    (8, r.va.toNat), (8, r.kind + r.scope * 256), (8, r.tag.toNat), (4, r.chunkLow), (4, r.chunkCount), (8, g.toNat)]

theorem FaultRec.fields_lengths (r : FaultRec) (job : BitVec 32) (g : Word) : (r.fields job g).map Prod.fst = [1, 1, 2, 4, 4, 4, 8, 8, 8, 8, 4, 4, 8] := rfl

theorem FaultRec.bytes_eq (r : FaultRec) (job : BitVec 32) (g : Word) : r.bytes job g = packed (r.fields job g) := by
  simp [FaultRec.bytes, packed, FaultRec.fields, List.append_assoc]

/-- The 64 bytes of a record, field by field (R299). -/
theorem faultRec_layout (r : FaultRec) (job : BitVec 32) (g : Word) :
    let b := r.bytes job g
    let field (o n : Nat) : Nat := natOfBytes ((b.drop o).take n)
    b.length = 64 ∧ field 0 1 = r.code.num % 256 ∧ field 2 2 = 0 ∧ field 4 4 = job.toNat ∧ field 8 4 = r.sid.toNat ∧ field 16 8 = r.pc.toNat ∧
      field 24 8 = r.va.toNat ∧ field 32 8 = (r.kind + r.scope * 256) % 2 ^ 64 ∧ field 40 8 = r.tag.toNat ∧ field 56 8 = g.toNat ∧
      field 1 1 = (if r.info then 1 else 0) + (if r.replay then 2 else 0) + (if r.malformed then 4 else 0) := by
  rw [FaultRec.bytes_eq]
  have hflags : (if r.info then 1 else 0) + (if r.replay then 2 else 0) + (if r.malformed then 4 else 0) < 256 := by
    split <;> split <;> split <;> decide
  have hfield {k n v o : Nat} (hk : (r.fields job g)[k]? = some (n, v)) (ho : ([1, 1, 2, 4, 4, 4, 8, 8, 8, 8, 4, 4, 8].take k).sum = o) :=
    packed_field _ hk (r.fields_lengths job g ▸ ho)
  refine ⟨by rw [packed_length, FaultRec.fields_lengths]; rfl, hfield (k := 0) rfl rfl, hfield (k := 2) rfl rfl, (hfield (k := 3) rfl rfl).trans (toNat_mod_four job),
    (hfield (k := 4) rfl rfl).trans (toNat_mod_four r.sid), (hfield (k := 6) rfl rfl).trans (toNat_mod_eight r.pc), (hfield (k := 7) rfl rfl).trans (toNat_mod_eight r.va),
    hfield (k := 8) rfl rfl, (hfield (k := 9) rfl rfl).trans (toNat_mod_eight r.tag), (hfield (k := 12) rfl rfl).trans (toNat_mod_eight g),
    (hfield (k := 1) rfl rfl).trans (Nat.mod_eq_of_lt hflags)⟩

/-! The ring (R298). -/

theorem State.devPut_hbm (s : State) {loc : Nat} (n v : Nat) (h : loc < 2 ^ 40) : s.devPut loc n v = s.homeWrite 0 loc n v none := if_pos (decide_eq_true h)

theorem State.devGet_hbm (s : State) {loc : Nat} (n : Nat) (h : loc < 2 ^ 40) : s.devGet loc n = s.peekKey 0 loc n := if_pos (decide_eq_true h)

/-- A record put into a ring that lies in HBM: the record, then the header's head. -/
theorem State.ringPut_hbm (s : State) (j : Job) (bytes : List Byte) (ha : s.recPa j (s.fqHead j) < 2 ^ 40) (hh : j.rec_.fq + 16 < 2 ^ 40) :
    s.ringPut j bytes [] = (((s.homeWrite 0 (s.recPa j (s.fqHead j)) 64 (natOfBytes bytes) none).homeWrite 0 (j.rec_.fq + 16) 8 (s.fqHead j + 1) none).signal 1) := by
  rw [← State.devPut_hbm _ _ _ ha, ← State.devPut_hbm _ _ _ hh]
  rfl

theorem State.bytesAt_congr {s t : State} {loc n : Nat} (h : ∀ i < n, t.mem.get memDefault (loc + i) = s.mem.get memDefault (loc + i)) : t.bytesAt loc n = s.bytesAt loc n := by
  unfold State.bytesAt
  induction n generalizing loc with
  | zero => rfl
  | succ n ih =>
    have hhead : t.mem.get memDefault loc = s.mem.get memDefault loc := h 0 (Nat.succ_pos n)
    have htail := ih (loc := loc + 1) fun i hi => by
      have := h (i + 1) (Nat.succ_lt_succ hi)
      rwa [Nat.add_comm i 1, ← Nat.add_assoc] at this
    exact congrArg₂ List.cons hhead htail

theorem ringPut_record {s : State} {j : Job} {bytes : List Byte} (hlen : bytes.length = 64) (ha : s.recPa j (s.fqHead j) + 64 ≤ 2 ^ 40) (hh : j.rec_.fq + 16 + 8 ≤ 2 ^ 40)
    (hapart : s.recPa j (s.fqHead j) + 64 ≤ j.rec_.fq + 16 ∨ j.rec_.fq + 16 + 8 ≤ s.recPa j (s.fqHead j)) :
    (s.ringPut j bytes []).bytesAt (s.recPa j (s.fqHead j)) 64 = bytes := by
  rw [s.ringPut_hbm j bytes (by omega) (by omega)]
  have hrec := s.homeWrite_bytesAt 0 (s.recPa j (s.fqHead j)) 64 (natOfBytes bytes) none
  rw [← hlen, bytesOfNat_natOfBytes, hlen] at hrec
  refine (State.bytesAt_congr fun i hi => ?_).trans hrec
  exact ((State.homeWrite_written _ 0 (j.rec_.fq + 16) 8 (s.fqHead j + 1) none).others _ (by omega)).1

theorem ringPut_frame {s : State} {j : Job} {bytes : List Byte} (ha : s.recPa j (s.fqHead j) + 64 ≤ 2 ^ 40) (hh : j.rec_.fq + 16 + 8 ≤ 2 ^ 40) {a : Nat}
    (hrec : a < s.recPa j (s.fqHead j) ∨ s.recPa j (s.fqHead j) + 64 ≤ a) (hhead : a < j.rec_.fq + 16 ∨ j.rec_.fq + 16 + 8 ≤ a) :
    (s.ringPut j bytes []).mem.get memDefault a = s.mem.get memDefault a := by
  rw [s.ringPut_hbm j bytes (by omega) (by omega)]
  exact ((State.homeWrite_written _ 0 (j.rec_.fq + 16) 8 (s.fqHead j + 1) none).others a hhead).1.trans
    ((s.homeWrite_written 0 (s.recPa j (s.fqHead j)) 64 (natOfBytes bytes) none).others a hrec).1

theorem ringPut_head {s : State} {j : Job} {bytes : List Byte} (ha : s.recPa j (s.fqHead j) + 64 ≤ 2 ^ 40) (hh : j.rec_.fq + 16 + 8 ≤ 2 ^ 40) :
    (s.ringPut j bytes []).fqHead j = (s.fqHead j + 1) % 2 ^ 64 := by
  rw [s.ringPut_hbm j bytes (by omega) (by omega), State.fqHead, State.devGet_hbm _ _ (by omega)]
  exact (State.homeWrite_written _ 0 (j.rec_.fq + 16) 8 (s.fqHead j + 1) none).under

theorem ringPut_signal {s : State} {j : Job} {bytes : List Byte} (ha : s.recPa j (s.fqHead j) + 64 ≤ 2 ^ 40) (hh : j.rec_.fq + 16 + 8 ≤ 2 ^ 40) :
    (s.ringPut j bytes []).pkg.msix = s.pkg.msix ++ [1] := by
  rw [s.ringPut_hbm j bytes (by omega) (by omega)]
  simp [State.signal, State.onPkg]

/-- Settles O10: the record's fields by where they stand, the ring by the two writes of a put. -/
theorem faultRecords : Obligations.FaultRecords := by
  unfold Obligations.FaultRecords
  refine ⟨faultRec_layout, ?_⟩
  intro s j bytes hlen at_ head ha hh hapart
  exact ⟨ringPut_record hlen ha hh hapart, ringPut_head ha hh, ringPut_signal ha hh, fun a hrec hhead => ringPut_frame ha hh hrec hhead⟩

end Sys2Proof.Machine
end

section
/-! Updates of the current strand and writes of the device's own structures do not meet. -/

namespace Sys2Proof.Machine
open Sys2Proof.Claims

theorem foldl_commutes {α β : Type} (g : β → β) (f : β → α → β) (h : ∀ b a, f (g b) a = g (f b a)) (l : List α) (b : β) : l.foldl f (g b) = g (l.foldl f b) := by
  induction l generalizing b with
  | nil => rfl
  | cons a l ih => rw [List.foldl_cons, h, ih, List.foldl_cons]

section OnCur
variable (s : State) (f : Strand → Strand)

theorem State.logError_onCur (loc : Nat) (bad : Bool) : (s.onCur f).logError loc bad = (s.logError loc bad).onCur f := by
  have hunit : (s.onCur f).errUnit loc = s.errUnit loc := rfl
  unfold State.logError
  rw [hunit]
  split
  · rfl
  · split <;> rfl

theorem State.notePartial_onCur (loc n : Nat) : (s.onCur f).notePartial loc n = (s.notePartial loc n).onCur f := by
  refine foldl_commutes (State.onCur · f) _ (fun t i => ?_) _ s
  dsimp only
  rw [State.logError_onCur]
  exact (apply_ite (State.onCur · f) _ _ _).symm

theorem State.homeWrite_onCur (key loc n v : Nat) (rel : Option Nat) : (s.onCur f).homeWrite key loc n v rel = (s.homeWrite key loc n v rel).onCur f := by
  have hpart := State.notePartial_onCur ((s.poke key loc (bytesOfNat n v)).cleanWhole loc n) f loc n
  unfold State.homeWrite State.writeHome
  dsimp only
  have hpoke : ((s.onCur f).poke key loc (bytesOfNat n v)).cleanWhole loc n = ((s.poke key loc (bytesOfNat n v)).cleanWhole loc n).onCur f := rfl
  rw [hpoke, hpart]
  rfl

theorem State.devPut_onCur (loc n v : Nat) : (s.onCur f).devPut loc n v = (s.devPut loc n v).onCur f := by
  unfold State.devPut
  rw [State.homeWrite_onCur]
  exact (apply_ite (State.onCur · f) _ _ _).symm

theorem State.ringPut_onCur (j : Job) (bytes svc : List Byte) : (s.onCur f).ringPut j bytes svc = (s.ringPut j bytes svc).onCur f := by
  have hsvc : (if svc = [] then s.onCur f else (s.onCur f).devPut (s.fqSvc j + s.fqHead j % s.fqCap j * 64) 64 (natOfBytes svc)) =
      (if svc = [] then s else s.devPut (s.fqSvc j + s.fqHead j % s.fqCap j * 64) 64 (natOfBytes svc)).onCur f := by
    rw [State.devPut_onCur]
    exact (apply_ite (State.onCur · f) _ _ _).symm
  show (((if svc = [] then s.onCur f else (s.onCur f).devPut (s.fqSvc j + s.fqHead j % s.fqCap j * 64) 64 (natOfBytes svc)).devPut (s.recPa j (s.fqHead j)) 64 (natOfBytes bytes)).devPut
    (j.rec_.fq + 16) 8 (s.fqHead j + 1)).signal 1 = _
  rw [hsvc, State.devPut_onCur, State.devPut_onCur]
  rfl

end OnCur

theorem State.devPut_cur (s : State) (loc n v : Nat) : (s.devPut loc n v).cur = s.cur := by
  unfold State.devPut
  rw [apply_ite State.cur, State.homeWrite_cur, ite_self]

theorem State.devPut_jobs (s : State) (loc n v : Nat) : (s.devPut loc n v).jobs = s.jobs := by
  unfold State.devPut
  rw [apply_ite State.jobs, State.homeWrite_jobs, ite_self]

theorem State.devPut_pkg (s : State) (loc n v : Nat) : (s.devPut loc n v).pkg = s.pkg := by
  unfold State.devPut
  rw [apply_ite State.pkg, State.homeWrite_pkg, ite_self]

theorem State.devPut_ticket (s : State) (loc n v : Nat) : (s.devPut loc n v).ticket = s.ticket := by
  unfold State.devPut
  rw [apply_ite State.ticket, State.homeWrite_ticket, ite_self]

theorem State.devPut_gtime (s : State) (loc n v : Nat) : (s.devPut loc n v).gtime = s.gtime := by
  unfold State.devPut
  rw [apply_ite State.gtime, State.homeWrite_gtime, ite_self]

section RingPut
variable (s : State) (j : Job) (bytes svc : List Byte)

/-- A record put into the ring is written and the host signalled, and nothing else is touched. -/
theorem State.ringPut_cases {p : State → Prop} (hput : ∀ t loc n v, p t → p (t.devPut loc n v)) (hsig : ∀ t, p t → p (t.signal 1)) (h : p s) : p (s.ringPut j bytes svc) := by
  refine hsig _ (hput _ _ _ _ (hput _ _ _ _ ?_))
  split
  · exact h
  · exact hput _ _ _ _ h

@[simp] theorem State.ringPut_cur : (s.ringPut j bytes svc).cur = s.cur :=
  s.ringPut_cases j bytes svc (p := fun t => t.cur = s.cur) (fun t _ _ _ h => (t.devPut_cur ..).trans h) (fun _ h => h) rfl
@[simp] theorem State.ringPut_jobs : (s.ringPut j bytes svc).jobs = s.jobs :=
  s.ringPut_cases j bytes svc (p := fun t => t.jobs = s.jobs) (fun t _ _ _ h => (t.devPut_jobs ..).trans h) (fun _ h => h) rfl
@[simp] theorem State.ringPut_ticket : (s.ringPut j bytes svc).ticket = s.ticket :=
  s.ringPut_cases j bytes svc (p := fun t => t.ticket = s.ticket) (fun t _ _ _ h => (t.devPut_ticket ..).trans h) (fun _ h => h) rfl
@[simp] theorem State.ringPut_gtime : (s.ringPut j bytes svc).gtime = s.gtime :=
  s.ringPut_cases j bytes svc (p := fun t => t.gtime = s.gtime) (fun t _ _ _ h => (t.devPut_gtime ..).trans h) (fun _ h => h) rfl

end RingPut

/-- An informational record finds room in the ring (R298, R300). -/
theorem postRecord_info {s : State} {j : Job} {r : FaultRec} (svc : List Byte) (hinfo : r.info = true) (hbig : r.big = false) (hat : r.at_ = none)
    (hroom : s.fqHead j - s.fqTail j < s.fqCap j) (hheld : j.held = []) : s.postRecord j r svc = (s.fqHead j, s.ringPut j (r.bytes j.id s.gtime) svc) := by
  have hmerge : s.mergeTarget j r = none := if_pos (by simp [FaultRec.single, hinfo])
  simp [State.postRecord, hmerge, hheld, hbig, hat, hroom]

/-! Jobs found by their number. -/

theorem State.job?_spec {s : State} {id : BitVec 32} {j : Job} (h : s.job? id = some j) : j.id = id ∧ j.state.final = false := by
  simpa using List.find?_some h

theorem State.job?_id {s : State} {id : BitVec 32} {j : Job} (h : s.job? id = some j) : j.id = id := (State.job?_spec h).1

theorem State.job?_congr {s t : State} (h : t.jobs = s.jobs) (id : BitVec 32) : t.job? id = s.job? id := by
  unfold State.job?; rw [h]

/-- A live job changed is found changed, where the change keeps its number and leaves it live. -/
theorem State.job?_onJob {s : State} {id : BitVec 32} {j : Job} (f : Job → Job) (h : s.job? id = some j) (hid : ∀ x, (f x).id = x.id) (hfin : ∀ x, (f x).state.final = x.state.final) :
    (s.onJob id f).job? id = some (f j) := by
  have hpred : ((fun x : Job => decide (x.id = id ∧ x.state.final = false)) ∘ fun x : Job => if x.id = id ∧ x.state.final = false then f x else x) =
      fun x => decide (x.id = id ∧ x.state.final = false) := by
    funext x
    by_cases hx : x.id = id ∧ x.state.final = false
    · simp only [Function.comp, if_pos hx, hid, hfin]
    · simp only [Function.comp, if_neg hx]
  unfold State.job? State.onJob
  rw [List.find?_map, hpred]
  obtain ⟨hj, hl⟩ := State.job?_spec h
  unfold State.job? at h
  rw [h]
  simp [hj, hl]

end Sys2Proof.Machine
end

section
/-! `svc` and `brk` (R100, R101). -/

namespace Sys2Proof.Machine
open Sys2Proof.Claims

@[simp] theorem readAll_job? (s : State) (srcs : List (BitVec 5)) : (readAll s srcs).job? (readAll s srcs).cur.job = s.job? s.cur.job := by
  obtain ⟨h, q, o, e⟩ := readAll_eq s srcs; rw [e]; rfl

/-- A result in s4 with the wait's outcome is that wait's destination (R100). -/
theorem setS4_finish (s : State) (v : Word) (kind : Nat) (phase : BitVec 32) (o : WaitOutcome) (a : Word) :
    (s.onCur fun t => t.setS 4 v).finish kind phase o a 0 0 = s.finish kind phase o a 4 v := rfl

/-- `svc` with no service area goes on at once (R100). -/
theorem exec_svc_none {s : State} {j : Job} (h : Ready s [4, 5, 6, 7, 8, 9, 10, 11]) (hj : s.job? s.cur.job = some j) (hsvc : s.fqSvc j = 0) :
    exec .svc s = .next ((readAll s svcRegs).finish 10 0 .pastOnEntry 0 4 (BitVec.allOnes 64)) := by
  have hsvc' : (readAll s svcRegs).fqSvc j = 0 := by
    obtain ⟨hb, q, o, e⟩ := readAll_eq s svcRegs
    rw [e]; exact hsvc
  refine congrArg Host.Outcome.next ((issue_of_ready h svcRegs [] _ (by simp [svcRegs])).trans ?_)
  rw [readAll_job?, hj]
  exact (if_pos hsvc').trans (setS4_finish ..)

/-- The record of a service call (R100). -/
def svcRec (s : State) : FaultRec := { plainRec s .svc (s.cur.getS 4) 0 0 with info := true }

/-- The service block: s4 to s11 (R100). -/
def svcBlock (s : State) : List Byte := svcRegs.flatMap fun r => bytesOfNat 8 (s.cur.getS r).toNat

/-- `svc` with a service area and room in the ring waits for the runtime (R100). -/
theorem exec_svc_area {s : State} {j : Job} (h : Ready s [4, 5, 6, 7, 8, 9, 10, 11]) (hj : s.job? s.cur.job = some j) (hsvc : s.fqSvc j ≠ 0) (hw : s.cur.wait = none)
    (hroom : s.fqHead j - s.fqTail j < s.fqCap j) (hheld : j.held = []) :
    exec .svc s = .next (((s.ringPut j ((svcRec s).bytes j.id s.gtime) (svcBlock s)).onCur fun _ => (readAll s svcRegs).cur).entered
      ⟨.svc (s.fqHead j), 10, 0, some (s.jtime + s.cur.dlDef), false, s.ticket, none⟩) := by
  obtain ⟨hb, q, o, e⟩ := readAll_eq s svcRegs
  have hon : readAll s svcRegs = s.onCur fun _ => (readAll s svcRegs).cur := by rw [e]; rfl
  refine congrArg Host.Outcome.next ((issue_of_ready h svcRegs [] _ (by simp [svcRegs])).trans ?_)
  rw [readAll_job?, hj]
  dsimp only
  have hrec : svcRec (readAll s svcRegs) = svcRec s := by rw [e]; rfl
  have hblock : svcBlock (readAll s svcRegs) = svcBlock s := by rw [e]; rfl
  have hpost : (readAll s svcRegs).postRecord j (svcRec (readAll s svcRegs)) (svcBlock (readAll s svcRegs)) =
      (s.fqHead j, (s.ringPut j ((svcRec s).bytes j.id s.gtime) (svcBlock s)).onCur fun _ => (readAll s svcRegs).cur) := by
    rw [hrec, hblock, postRecord_info _ rfl rfl rfl (by rw [e]; exact hroom) hheld, ← State.ringPut_onCur, ← hon, e]
    rfl
  have hwait : ((s.ringPut j ((svcRec s).bytes j.id s.gtime) (svcBlock s)).onCur fun _ => (readAll s svcRegs).cur).cur.wait = none := by
    rw [State.onCur, readAll_wait, hw]
  have hdef : (readAll s svcRegs).cur.dlDef = s.cur.dlDef := by rw [e]
  refine (if_neg (by rw [e]; exact hsvc)).trans ?_
  refine (congrArg (fun p : Nat × State => p.2.waitOn (.svc p.1) 10 0 (some ((readAll s svcRegs).jtime + (readAll s svcRegs).cur.dlDef)) false none) hpost).trans ?_
  rw [readAll_jtime, hdef, State.waitOn_entered _ _ _ _ _ _ hwait, State.onCur_ticket, State.ringPut_ticket]

/-- The record of a breakpoint (R101). -/
def brkRec (s : State) : FaultRec := { plainRec s .breakpoint 0 0 0 with info := true }

/-- The cause of a breakpoint's wave (R101, R389). -/
def brkCause (s : State) : Cause := ⟨s.pkgNo, s.cur.sid, s.cur.pc, 0x50, s.gtime⟩

/-- `brk` of a running job with room in the ring (R101). -/
theorem exec_brk {s : State} {j : Job} (hj : s.job? s.cur.job = some j) (hrun : j.slate.st = .running) (hroom : s.fqHead j - s.fqTail j < s.fqCap j) (hheld : j.held = []) :
    exec .brk s = .next (((s.ringPut j ((brkRec s).bytes j.id s.gtime) []).trigger s.cur.job (brkCause s)).onCur fun t => { t with brkDone := true }) := by
  have hpost : s.postRecord j (brkRec s) [] = (s.fqHead j, s.ringPut j ((brkRec s).bytes j.id s.gtime) []) := postRecord_info [] rfl rfl rfl hroom hheld
  show Host.Outcome.next (match s.job? s.cur.job with | none => s | some j => _) = _
  rw [hj]
  dsimp only
  rw [if_pos hrun]
  refine (congrArg (fun p : Nat × State => Host.Outcome.next ((p.2.trigger j.id (brkCause s)).onCur fun t => { t with brkDone := true })) hpost).trans ?_
  exact congrArg (fun id => Host.Outcome.next (((s.ringPut j ((brkRec s).bytes j.id s.gtime) []).trigger id (brkCause s)).onCur fun t => { t with brkDone := true })) (State.job?_id hj)

theorem State.tell_cur (s : State) (j : Job) (c : Ctl) : (s.tell j c).cur = s.cur := by unfold State.tell; split <;> rfl
theorem State.tell_jobs (s : State) (j : Job) (c : Ctl) : (s.tell j c).jobs = s.jobs := by unfold State.tell; split <;> rfl

/-- A trigger on a package whose job runs with no wave under way: the wave sets out (R384). -/
theorem trigger_sets_out {s : State} {id : BitVec 32} {j : Job} (c : Cause) (hj : s.job? id = some j) (hrun : j.slate.st = .running) (hwave : j.slate.wave = none) :
    (s.trigger id c).mem = s.mem ∧ (s.trigger id c).cur = s.cur ∧ ∃ k, (s.trigger id c).job? id = some k ∧ k.slate.wave = some c := by
  have htrigger : s.trigger id c = ((s.onJob id fun j => { j with slate := j.slate.compete s.pkgNo c }).onJob id fun j => { j with slate := { j.slate with wave := some c } }).tell j (.wave id c) := by
    unfold State.trigger
    rw [hj]
    exact if_pos ⟨hrun, hwave⟩
  rw [htrigger]
  refine ⟨State.tell_mem .., State.tell_cur .., ?_⟩
  have hfound := State.job?_onJob (fun j => { j with slate := { j.slate with wave := some c } })
    (State.job?_onJob (fun j => { j with slate := j.slate.compete s.pkgNo c }) hj (fun _ => rfl) (fun _ => rfl)) (fun _ => rfl) (fun _ => rfl)
  rw [State.job?_congr (State.tell_jobs ..)]
  exact ⟨_, hfound, rfl⟩

/-- Settles O6: `svc` without and with a service area, `brk` by its record and its wave. -/
theorem serviceAndBreakpoint : Obligations.ServiceAndBreakpoint := by
  unfold Obligations.ServiceAndBreakpoint
  refine ⟨fun s j hj h => ⟨fun hsvc => ?_, fun hsvc hw hroom hheld => ?_⟩, fun s j hj _ hrun hwave hroom hheld => ?_⟩
  · have hend := finish_ended 0 .pastOnEntry 0 4 (BitVec.allOnes 64) (waiting_readAll s svcRegs) h.calm (by decide : 10 < 256)
    exact ⟨_, exec_svc_none h hj hsvc, hend.dest, hend.wst, hend.rest, hend.order⟩
  · have hregs : (readAll s svcRegs).cur.sregs = s.cur.sregs := by
      obtain ⟨hb, q, o, e⟩ := readAll_eq s svcRegs; rw [e]
    show ∃ t w, exec .svc s = .next t ∧ t.mem = (s.ringPut j ((svcRec s).bytes j.id s.gtime) (svcBlock s)).mem ∧
      t.pkg.msix = (s.ringPut j ((svcRec s).bytes j.id s.gtime) (svcBlock s)).pkg.msix ∧ t.cur.wait = some w ∧ _
    refine ⟨_, _, exec_svc_area h hj hsvc hw hroom hheld, ?_, ?_, rfl, rfl, rfl, ?_, ?_⟩
    · exact (State.entered_mem _ _).trans (State.onCur_mem _ _)
    · exact congrArg Pkg.msix ((State.entered_pkg _ _).trans (State.onCur_pkg _ _))
    · rw [State.entered_cur, State.onCur, readAll_pc]
    · rw [State.entered_cur, State.onCur, hregs]
  · have hput : (s.ringPut j ((brkRec s).bytes j.id s.gtime) []).job? s.cur.job = some j := (State.job?_congr (State.ringPut_jobs ..) _).trans hj
    obtain ⟨hmem, hcur, k, hk, hset⟩ := trigger_sets_out (brkCause s) hput hrun hwave
    refine ⟨_, k, exec_brk hj hrun hroom hheld, ?_, ?_, hset, ?_⟩
    · exact (State.onCur_mem _ _).trans hmem
    · exact (State.job?_congr (State.onCur_jobs _ _) _).trans hk
    · exact congrArg (fun t : Strand => { t with brkDone := true }) (hcur.trans (State.ringPut_cur ..))

end Sys2Proof.Machine
end


section
/-! Launches of several packages (R354, R355): what a rejected launch leaves, and what the digests decide. -/

namespace Sys2Proof.Machine
open Sys2Proof.Claims

theorem State.ctlPut_jobs (s : State) (off v : Nat) : (s.ctlPut off v).jobs = s.jobs := State.devPut_jobs ..

theorem State.journalPut_jobs (s : State) (l : JournalLine) : (s.journalPut l).jobs = s.jobs := by
  unfold State.journalPut
  dsimp only
  rw [State.signal, State.onPkg_jobs, apply_ite State.jobs, State.ctlPut_jobs, ite_self, State.devPut_jobs]

theorem State.journalReject_jobs (s : State) (n reason : Nat) : (s.journalReject n reason).jobs = s.jobs := State.journalPut_jobs ..

theorem State.onJob_jobs (s : State) (id : BitVec 32) (f : Job → Job) :
    (s.onJob id f).jobs = s.jobs.map fun j => if j.id = id ∧ j.state.final = false then f j else j := rfl

/-- A change that makes every job of a number final leaves none live under it. -/
theorem State.job?_onJob_final (s : State) (id : BitVec 32) (f : Job → Job) (hfin : ∀ x, (f x).state.final = true) : (s.onJob id f).job? id = none := by
  simp only [State.job?, State.onJob_jobs, List.find?_eq_none, List.mem_map, decide_eq_true_eq]
  rintro x ⟨y, -, rfl⟩ ⟨hid, hlive⟩
  by_cases hy : y.id = id ∧ y.state.final = false
  · rw [if_pos hy, hfin] at hlive; exact absurd hlive (by decide)
  · rw [if_neg hy] at hid hlive; exact hy ⟨hid, hlive⟩

/-- A rejected launch is live no more (R314). -/
theorem State.job?_rejectLaunch (s : State) (id : BitVec 32) (reason : Nat) : (s.rejectLaunch id reason).job? id = none := by
  unfold State.rejectLaunch
  split
  next h => exact h
  next => exact (State.job?_congr (State.journalReject_jobs ..) id).trans (State.job?_onJob_final s id _ fun _ => rfl)

/-- Digests that all agree leave the launch as it is (R354). -/
theorem State.checkDigests_agree {s : State} {id : BitVec 32} {j : Job} (hj : s.job? id = some j) (h : ∀ a ∈ j.accepts, a.2.1 = j.rec_.digest) : s.checkDigests id = s := by
  have hsame : j.accepts.any (fun a => decide (a.2.1 ≠ j.rec_.digest)) = false := by
    rw [List.any_eq_false]
    intro a ha
    simpa using h a ha
  unfold State.checkDigests
  rw [hj]
  dsimp only
  rw [hsame, Bool.and_false]
  exact if_neg (by decide)

/-- A digest that differs rejects a launch that has not started (R354). -/
theorem State.checkDigests_differ {s : State} {id : BitVec 32} {j : Job} (hj : s.job? id = some j) (hp : j.pending = true) {a : Nat × Nat × Word} (ha : a ∈ j.accepts) (hd : a.2.1 ≠ j.rec_.digest) :
    s.checkDigests id = s.rejectLaunch id 9 := by
  have hany : j.accepts.any (fun a => decide (a.2.1 ≠ j.rec_.digest)) = true := List.any_eq_true.mpr ⟨a, ha, decide_eq_true hd⟩
  unfold State.checkDigests
  rw [hj]
  dsimp only
  rw [hany, hp]
  exact if_pos (by decide)

/-- The check of the digests rejects a launch or changes nothing (R354). -/
theorem State.checkDigests_cases (s : State) (id : BitVec 32) : s.checkDigests id = s ∨ s.checkDigests id = s.rejectLaunch id 9 := by
  unfold State.checkDigests
  split
  · exact .inl rfl
  · split
    · exact .inr rfl
    · exact .inl rfl

/-- The acceptance of a package that had not accepted joins the others (R354). -/
def Job.accept (a : Nat × Nat × Word) (j : Job) : Job :=
  { j with accepts := if j.accepts.any (fun b => decide (b.1 = a.1)) then j.accepts else j.accepts ++ [a] }

theorem Job.accept_new {j : Job} {a : Nat × Nat × Word} (h : ∀ b ∈ j.accepts, b.1 ≠ a.1) : j.accept a = { j with accepts := j.accepts ++ [a] } := by
  have hnone : j.accepts.any (fun b => decide (b.1 = a.1)) = false := by
    rw [List.any_eq_false]
    intro b hb
    simpa using h b hb
  unfold Job.accept
  rw [hnone]
  rfl

theorem State.takeCtl_arrived {s : State} {c : Ctl} (hup : s.cyanUp 2 = true) (hin : s.pkg.ctlIn.contains c = true) :
    s.takeCtl c = some (s.onPkg fun g => { g with ctlIn := g.ctlIn.erase c }) := by
  unfold State.takeCtl
  rw [hup, hin]
  exact if_pos (by decide)

/-- An acceptance that has arrived is noted, and the digests are checked (R354). -/
theorem exec_launchAcceptAnnounce {s : State} {pkg : Nat} {job : BitVec 32} {j : Job} {digest : Nat} {time : Word} (hj : s.job? job = some j) (hm : j.multi = true) (hup : s.cyanUp 2 = true)
    (hin : s.pkg.ctlIn.contains (.accept pkg job digest time) = true) :
    exec (.launchAcceptAnnounce pkg job digest time) s =
      .next (((s.onPkg fun g => { g with ctlIn := g.ctlIn.erase (.accept pkg job digest time) }).onJob job (Job.accept (pkg, digest, time))).checkDigests job) := by
  show Host.Outcome.next (match s.job? job with | none => s | some j => _) = _
  rw [hj]
  dsimp only
  rw [hm, State.takeCtl_arrived hup hin]
  rfl

/-- The acceptance stands in the job before the digests are checked. -/
theorem State.job?_accept {s : State} {job : BitVec 32} {j : Job} {a : Nat × Nat × Word} (f : Pkg → Pkg) (hj : s.job? job = some j) (hnew : ∀ b ∈ j.accepts, b.1 ≠ a.1) :
    ((s.onPkg f).onJob job (Job.accept a)).job? job = some { j with accepts := j.accepts ++ [a] } := by
  rw [State.job?_onJob (s := s.onPkg f) (Job.accept a) hj (fun _ => rfl) (fun _ => rfl), Job.accept_new hnew]

theorem exec_launchAgreeTimeout {s : State} {job : BitVec 32} {j : Job} (hj : s.job? job = some j) (hp : j.pending = true) (hstart : j.startAt = none) (ha : s.agreed j = false)
    (ht : ((j.accepts.map fun a => a.2.2.toNat).min?).getD 0 + 1000000 < s.gtime.toNat) :
    ∃ reason, exec (.launchAgreeTimeout job) s = .next (s.rejectLaunch job reason) := by
  have he : exec (.launchAgreeTimeout job) s = .next (match (s.checkDigests job).job? job with
      | none => s.checkDigests job
      | some j =>
        if j.pending && j.startAt.isNone && !s.agreed j && decide (((j.accepts.map fun a => a.2.2.toNat).min?).getD 0 + 1000000 < s.gtime.toNat) then
          (s.checkDigests job).rejectLaunch job 6
        else s.checkDigests job) := rfl
  rw [he]
  rcases State.checkDigests_cases s job with h | h
  · refine ⟨6, ?_⟩
    rw [h, hj]
    dsimp only
    rw [hp, hstart, ha, decide_eq_true ht]
    rfl
  · refine ⟨9, ?_⟩
    rw [h, State.job?_rejectLaunch]

/-- `MULTI_JOB_START` of a launch whose digests agree, with lock to the reference (R354). -/
theorem exec_multiJobStart {s : State} {job : BitVec 32} {j : Job} (h : Pending s job j) (hl : s.lockLong = false) :
    exec (.multiJobStart job) s = .next (match j.startAt with
      | none => if s.agreed j then s.onJob job fun j' => { j' with startAt := some (word ((j.accepts.map fun a => a.2.2.toNat).foldl Nat.max j.notBefore.toNat + 20000)) } else s
      | some t => if t.toNat ≤ s.gtime.toNat then s.onJob job fun j => { j with timed := true, jrun := true, jval := 0, jfrom := t } else s) := by
  obtain ⟨hj, hp, hsame, hrun, hwave⟩ := h
  show Host.Outcome.next (match s.job? job with | none => s | some j => _) = _
  rw [hj]
  dsimp only
  rw [State.checkDigests_agree hj hsame, hp, hl, hj, decide_eq_false (not_not_intro hrun), decide_eq_false (not_not_intro hwave)]
  rfl

theorem exec_multiJobStart_lockLong {s : State} {job : BitVec 32} {j : Job} (hj : s.job? job = some j) (hp : j.pending = true) (hl : s.lockLong = true) :
    exec (.multiJobStart job) s = .next (s.rejectLaunch job 6) := by
  show Host.Outcome.next (match s.job? job with | none => s | some j => _) = _
  rw [hj]
  dsimp only
  rw [hp, hl]
  rfl

/-- The jobs a rejection leaves waiting are those that waited before under other numbers. -/
theorem State.rejectLaunch_pending {s : State} {id : BitVec 32} {reason : Nat} {j : Job} (hmem : j ∈ (s.rejectLaunch id reason).jobs) (hp : j.pending = true) : j ∈ s.jobs ∧ j.id ≠ id := by
  have hlive : j.state.final = false := by
    simp only [Job.pending, Bool.and_eq_true, Bool.not_eq_true'] at hp
    exact hp.2
  have hne : j.id ≠ id := by
    intro hid
    have hnone := State.job?_rejectLaunch s id reason
    simp only [State.job?, List.find?_eq_none, decide_eq_true_eq] at hnone
    exact hnone j hmem ⟨hid, hlive⟩
  refine ⟨?_, hne⟩
  unfold State.rejectLaunch at hmem
  split at hmem
  next => exact hmem
  next =>
    rw [State.journalReject_jobs, State.onJob_jobs, List.mem_map] at hmem
    obtain ⟨x, hx, rfl⟩ := hmem
    by_cases hc : x.id = id ∧ x.state.final = false
    · rw [if_pos hc] at hlive; exact absurd hlive Bool.noConfusion
    · rwa [if_neg hc]

/-- Rejecting launches in turn leaves waiting only those of other numbers. -/
theorem rejectAll_pending (l : List Job) (reason : Nat) : ∀ (s : State) (j : Job), j ∈ (l.foldl (fun (a : State) j => a.rejectLaunch j.id reason) s).jobs → j.pending = true →
    j ∈ s.jobs ∧ ∀ x ∈ l, x.id ≠ j.id := by
  induction l with
  | nil => exact fun s j hj _ => ⟨hj, by simp⟩
  | cons x l ih =>
    intro s j hj hp
    obtain ⟨hin, hrest⟩ := ih _ j hj hp
    obtain ⟨hs, hne⟩ := State.rejectLaunch_pending hin hp
    exact ⟨hs, List.forall_mem_cons.mpr ⟨hne.symm, hrest⟩⟩

theorem exec_ptpLockLoss_long {s : State} (hl : s.lockLong = true) : exec .ptpLockLoss s = .next ((s.jobs.filter Job.pending).foldl (fun (a : State) j => a.rejectLaunch j.id 6) s) :=
  congrArg Host.Outcome.next (if_pos hl)

theorem exec_ptpLockLoss_short {s : State} (hl : s.lockLong = false) : exec .ptpLockLoss s = .next (s.onPkg fun g => { g with lockLost := some (g.lockLost.getD s.gtime) }) :=
  congrArg Host.Outcome.next (if_neg (by rw [hl]; decide))

/-- Settles O51: acceptances, the failures of a launch before its start, its common start and the loss of lock. -/
theorem sliceLaunches : Obligations.SliceLaunches := by
  unfold Obligations.SliceLaunches
  refine ⟨?accepted, ?differs, ?late, ?agreed, ?starts, ?early, ?unlocked, ?lost, ?losing⟩
  case accepted =>
    intro s pkg job j digest time hj hm hup hin hacc hd
    have hjob := State.job?_accept (a := (pkg, digest, time)) (fun g => { g with ctlIn := g.ctlIn.erase (.accept pkg job digest time) }) hj fun b hb => (hacc b hb).1
    refine ⟨_, exec_launchAcceptAnnounce hj hm hup hin, ?_, ?_⟩ <;> rw [State.checkDigests_agree hjob (by simpa [or_imp, forall_and, hd] using fun a b c h => (hacc (a, b, c) h).2)]
    · exact hjob
    · rfl
  case differs =>
    intro s pkg job j digest time hj hp hup hin hacc hd
    have hm : j.multi = true := by
      simp only [Job.pending, Bool.and_eq_true] at hp
      exact hp.1.1
    have hjob := State.job?_accept (a := (pkg, digest, time)) (fun g => { g with ctlIn := g.ctlIn.erase (.accept pkg job digest time) }) hj hacc
    refine ⟨_, exec_launchAcceptAnnounce hj hm hup hin, ?_⟩
    rw [State.checkDigests_differ hjob hp (List.mem_append_right _ (List.mem_singleton.mpr rfl)) hd]
    exact State.job?_rejectLaunch ..
  case late =>
    intro s job j hj hp hstart ha ht
    obtain ⟨reason, he⟩ := exec_launchAgreeTimeout hj hp hstart ha ht
    exact ⟨_, he, State.job?_rejectLaunch ..⟩
  case agreed =>
    intro s job j h hl hstart ha
    have he := exec_multiJobStart h hl
    simp only [hstart, ha, if_true] at he
    exact ⟨_, he, rfl, State.job?_onJob _ h.live (fun _ => rfl) (fun _ => rfl)⟩
  case starts =>
    intro s job j at_ h hl hstart ht
    have he := exec_multiJobStart h hl
    simp only [hstart, ht, if_true] at he
    exact ⟨_, he, rfl, State.job?_onJob _ h.live (fun _ => rfl) (fun _ => rfl)⟩
  case early =>
    intro s job j at_ h hl hstart ht
    rw [exec_multiJobStart h hl, hstart]
    exact congrArg Host.Outcome.next (if_neg (by omega))
  case unlocked =>
    intro s job j hj hp hl
    exact ⟨_, exec_multiJobStart_lockLong hj hp hl, State.job?_rejectLaunch ..⟩
  case lost =>
    intro s hl
    refine ⟨_, exec_ptpLockLoss_long hl, fun j hj => Bool.eq_false_iff.mpr fun hp => ?_⟩
    obtain ⟨hs, hne⟩ := rejectAll_pending _ 6 s j hj hp
    exact hne j (List.mem_filter.mpr ⟨hs, hp⟩) rfl
  case losing => exact fun s hl => ⟨_, exec_ptpLockLoss_short hl, rfl⟩

end Sys2Proof.Machine
end


section
/-! The strand's own scratchpad: places, checks of R94 that pass, and values read there (R94, R279, R280). -/

namespace Sys2Proof.Claims
open Sys2Proof.Machine

theorem coreOf_lt (sid : BitVec 32) : coreOf sid < 2 ^ 11 := by
  simp only [coreOf, clusterOf, sidDie, sidCluster, sidCore]; omega

/-- An access to the own scratchpad stays in it. -/
theorem OwnAccess.fits {s : State} {va : Word} {n : Nat} (h : OwnAccess s va n) : va.toNat % 2 ^ 56 + n ≤ 2 ^ 21 := by
  have hrange := h.range
  have haligned := h.aligned
  obtain rfl | rfl | rfl | rfl := h.size <;> omega

theorem OwnAccess.le_loc {s : State} {va : Word} : 2 ^ 44 ≤ ownLoc s va := by
  rw [ownLoc, scratchLoc]; omega

theorem OwnAccess.loc_lt {s : State} {va : Word} {n : Nat} (h : OwnAccess s va n) : ownLoc s va + n < 2 ^ 45 := by
  have hcore := coreOf_lt s.cur.sid
  have hfits := h.fits
  rw [ownLoc, scratchLoc]; omega

theorem OwnAccess.here {s : State} {va : Word} {n : Nat} (h : OwnAccess s va n) : isHere (ownLoc s va) = true := by
  have := h.loc_lt
  exact decide_eq_true (by omega)

theorem ownLoc_notHbm (s : State) (va : Word) : isHbm (ownLoc s va) = false := by
  have : 2 ^ 44 ≤ ownLoc s va := OwnAccess.le_loc
  exact decide_eq_false (by omega)

theorem OwnAccess.near {s : State} {va : Word} {n : Nat} (h : OwnAccess s va n) : isNear va = true := by
  have := h.window
  exact decide_eq_true (by omega)

theorem OwnAccess.window_loc {s : State} {va : Word} {n : Nat} (h : OwnAccess s va n) : windowLoc s.cur.sid va = some (ownLoc s va) := by
  unfold windowLoc
  dsimp only
  rw [h.window]
  exact if_pos h.range

theorem OwnAccess.in_partition {s : State} {va : Word} {n : Nat} (h : OwnAccess s va n) : s.inPartition s.cur.job (ownLoc s va) = true := by
  have hlt := h.loc_lt
  have hcore : (ownLoc s va - 2 ^ 44) / 2 ^ 21 = coreOf s.cur.sid := by
    have hfits := h.range
    rw [ownLoc, scratchLoc]; omega
  unfold State.inPartition
  rw [if_pos (by omega), hcore]
  exact decide_eq_true h.lease

/-- What `readAll` changes is nothing an access to the own scratchpad looks at. -/
theorem OwnAccess.of_readAll {s : State} {va : Word} {n : Nat} (h : OwnAccess s va n) (srcs : List (BitVec 5)) : OwnAccess (readAll s srcs) va n := by
  obtain ⟨hb, q, o, e⟩ := readAll_eq s srcs
  rw [e]
  exact ⟨h.size, h.window, h.range, h.aligned, h.lease, h.plain, h.written, h.clean, h.apart⟩

@[simp] theorem readAll_ownLoc (s : State) (srcs : List (BitVec 5)) (va : Word) : ownLoc (readAll s srcs) va = ownLoc s va := by
  obtain ⟨hb, q, o, e⟩ := readAll_eq s srcs
  rw [e]; rfl

theorem WordCalm.of_readAll {s : State} {va : Word} (h : WordCalm s va) (srcs : List (BitVec 5)) : WordCalm (readAll s srcs) va :=
  ⟨h.word.of_readAll srcs, (readAll_wait ..).trans h.fresh, by simpa using h.time⟩

end Sys2Proof.Claims
end

section
/-! Checks of R94 that pass in the own scratchpad, and values read there. -/

namespace Sys2Proof.Machine
open Sys2Proof.Claims

/-- The place of an access to the own scratchpad. -/
def ownHit (s : State) (va : Word) : Hit := ⟨ownLoc s va, none, false, false, false⟩

theorem place_own {s : State} {va : Word} {n : Nat} (h : OwnAccess s va n) {nd : Need} (hx : nd.x = false) (k : Nat) (ringOk : Bool) :
    s.place s.cur va k nd ringOk = (s, .ok (ownHit s va)) := by
  have hunused : isUnused va = false := by
    have := h.window
    exact decide_eq_false (by omega)
  have hring : isRingWin va = false := by
    have := h.window
    exact decide_eq_false (by omega)
  unfold State.place
  rw [hunused, h.near, hx, hring, h.window_loc]
  dsimp only
  rw [h.in_partition]
  rfl

theorem reach_own {s : State} {va : Word} {n : Nat} (h : OwnAccess s va n) {nd : Need} (hx : nd.x = false) (k : Nat) : s.reach s.cur va k nd = (s, .ok (ownHit s va)) := by
  unfold State.reach
  rw [place_own h hx]
  dsimp only
  rw [State.sableCheck, if_pos h.plain]
  rfl

/-- The checks of R94 pass. -/
theorem check_own {s : State} {va : Word} {n : Nat} (h : OwnAccess s va n) {nd : Need} (hx : nd.x = false) : s.check s.cur va n nd = (s, .ok (ownHit s va)) := by
  unfold State.check
  rw [if_neg (not_not_intro h.aligned), reach_own h hx]
  dsimp only
  rw [show s.poisoned (ownHit s va).loc n = false from h.clean, Bool.and_false]
  exact if_neg Bool.false_ne_true

/-- Near memory carries no key (R397). -/
theorem State.decrypt_near (s : State) (key loc : Nat) (bs : List Byte) (h : isHbm loc = false) : s.decrypt key loc bs = bs :=
  s.decrypt_same key loc bs fun i _ hi => by rw [isHbm_of_le (Nat.le_add_right loc i) hi] at h; exact absurd h (by decide)

theorem State.peekKey_near (s : State) (key n : Nat) {loc : Nat} (h : isHbm loc = false) : s.peekKey key loc n = s.peek loc n := by
  rw [State.peekKey, State.decrypt_near _ _ _ _ h, State.peek]

theorem State.objGet_near (s : State) (n : Nat) {loc : Nat} (h : isHbm loc = false) : s.objGet loc n = s.peek loc n := State.peekKey_near _ _ _ h

end Sys2Proof.Machine
end

section
/-! Waits on words of the own scratchpad: `cwait` and `tlwait` (R203, R207). -/

namespace Sys2Proof.Machine
open Sys2Proof.Claims

/-- A wait on a word of the own scratchpad is a deadline wait on its place. -/
theorem wordWait_own {s : State} {va : Word} (h : OwnAccess s va 8) (kind : Nat) (d : BitVec 5) (dl : Word) (obj : Nat → Word → WaitObj) (met : Nat → Word → Option (State → State)) (out : Word → Word) :
    s.wordWait va kind d dl obj met out = s.deadlineWait (obj (ownLoc s va) va) kind d dl := by
  unfold State.wordWait
  rw [check_own h rfl]
  exact if_pos h.here

/-- A deadline wait whose home decides it at once. -/
theorem deadlineWait_met {s t : State} {o : WaitObj} {kind : Nat} {sd : BitVec 5} {d : Word} (hw : s.cur.wait = none) (ht : s.jtime.toNat + s.cur.dlMax.toNat < 2 ^ 64)
    (h : (s.entered (s.freshWait o kind sd d)).homeDecide (s.freshWait o kind sd d) = some t) : s.deadlineWait o kind sd d = t := by
  rw [deadlineWait_fresh _ _ _ _ hw ht, h]

/-- A deadline wait whose condition is false and whose deadline has passed. -/
theorem deadlineWait_late {s : State} {o : WaitObj} {kind : Nat} {sd : BitVec 5} {d : Word} (hw : s.cur.wait = none) (ht : s.jtime.toNat + s.cur.dlMax.toNat < 2 ^ 64)
    (h : (s.entered (s.freshWait o kind sd d)).homeDecide (s.freshWait o kind sd d) = none) (hm : (s.entered (s.freshWait o kind sd d)).metHeld (s.freshWait o kind sd d) = false)
    (hd : d.toNat ≤ s.jtime.toNat) : s.deadlineWait o kind sd d = (s.entered (s.freshWait o kind sd d)).lapse (s.freshWait o kind sd d) := by
  rw [deadlineWait_fresh _ _ _ _ hw ht, h, hm, decide_eq_true hd]
  rfl

/-- A deadline wait whose condition is false before its deadline. -/
theorem deadlineWait_stays {s : State} {o : WaitObj} {kind : Nat} {sd : BitVec 5} {d : Word} (hw : s.cur.wait = none) (ht : s.jtime.toNat + s.cur.dlMax.toNat < 2 ^ 64)
    (h : (s.entered (s.freshWait o kind sd d)).homeDecide (s.freshWait o kind sd d) = none) (hd : s.jtime.toNat < d.toNat) :
    s.deadlineWait o kind sd d = s.entered (s.freshWait o kind sd d) := by
  rw [deadlineWait_fresh _ _ _ _ hw ht, h, decide_eq_false (by omega)]
  rfl

/-- A wait that has begun and stays. -/
theorem waitsFor_entered (s : State) (srcs : List (BitVec 5)) (o : WaitObj) (kind : Nat) (sd : BitVec 5) (d : Word) :
    WaitsFor s ((readAll s srcs).entered ((readAll s srcs).freshWait o kind sd d)) o (some (clamped s d)) := by
  have hbound : clamped (readAll s srcs) d = clamped s d := readAll_clamped ..
  refine ⟨⟨_, rfl, rfl, congrArg some hbound⟩, readAll_pc .., readAll_loops .., ?_, ?_, ?_⟩ <;>
  · obtain ⟨hb, q, oq, e⟩ := readAll_eq s srcs
    rw [State.entered, e]

@[simp] theorem readAll_peek (s : State) (srcs : List (BitVec 5)) (loc n : Nat) : (readAll s srcs).peek loc n = s.peek loc n := by
  obtain ⟨hb, q, o, e⟩ := readAll_eq s srcs
  rw [e]; rfl

/-- The chunks still missing of a map at a place (R203). -/
def State.missing (s : State) (loc : Nat) (mask : Word) : Word := mask &&& ~~~BitVec.ofNat 64 (s.peek loc 8)

theorem homeDecide_chunks {s : State} {w : Wait} {loc : Nat} {va mask : Word} (hw : w.obj = .chunks loc va mask) (h : isHbm loc = false) :
    s.homeDecide w = if s.missing loc mask = 0 then some ((s.chunkAcquire loc mask).finish 7 0 .met 0 w.sd 0) else none := by
  unfold State.homeDecide
  rw [hw]
  dsimp only
  rw [State.objGet_near _ _ h]
  rfl

theorem lapse_chunks {s : State} {w : Wait} {loc : Nat} {va mask : Word} (hw : w.obj = .chunks loc va mask) (h : isHbm loc = false) :
    s.lapse w = s.finish 7 0 (if w.past then .pastOnEntry else .expired) (s.missing loc mask) w.sd (s.missing loc mask) := by
  unfold State.lapse
  rw [hw]
  dsimp only
  rw [State.objGet_near _ _ h]
  rfl

theorem metHeld_chunks {s : State} {w : Wait} {loc : Nat} {va mask : Word} (hw : w.obj = .chunks loc va mask) : s.metHeld w = false := by
  unfold State.metHeld; rw [hw]

theorem homeDecide_timeline {s : State} {w : Wait} {loc : Nat} {va n : Word} (hw : w.obj = .timeline loc va n) (h : isHbm loc = false) :
    s.homeDecide w = if n.toNat ≤ (word (s.peek loc 8)).toNat then some ((s.tlAcquire loc n).finish 6 0 .met (word (s.peek loc 8)) w.sd (word (s.peek loc 8))) else none := by
  unfold State.homeDecide
  rw [hw]
  dsimp only
  rw [State.objGet_near _ _ h]

theorem lapse_timeline {s : State} {w : Wait} {loc : Nat} {va n : Word} (hw : w.obj = .timeline loc va n) (h : isHbm loc = false) :
    s.lapse w = s.finish 6 0 (if w.past then .pastOnEntry else .expired) (word (s.peek loc 8)) w.sd (word (s.peek loc 8)) := by
  unfold State.lapse
  rw [hw]
  dsimp only
  rw [State.objGet_near _ _ h]

theorem metHeld_timeline {s : State} {w : Wait} {loc : Nat} {va n : Word} (hw : w.obj = .timeline loc va n) : s.metHeld w = false := by
  unfold State.metHeld; rw [hw]

theorem Waiting.tlAcquire {s u : State} (h : Waiting s u) (loc : Nat) (n : Word) : Waiting s (u.tlAcquire loc n) :=
  (h.acquire _ _).onCur_hb _

theorem Waiting.chunkAcquire {s u : State} (h : Waiting s u) (loc : Nat) (mask : Word) : Waiting s (u.chunkAcquire loc mask) := by
  unfold State.chunkAcquire
  generalize u.chunkMasks.filter _ = cs
  induction cs generalizing u with
  | nil => exact h
  | cons c cs ih =>
    refine ih ?_
    dsimp only
    split
    · exact (h.acquire _ _).onCur_hb _
    · exact h.acquire _ _

/-- `cwait` enters a deadline wait on its word (R203). -/
theorem exec_cwait {s : State} {d a b : BitVec 5} {w : BitVec 7} (h : Ready s [a, b, d]) (hw : OwnAccess s (s.cur.getS a + word (8 * w.toNat)) 8) :
    exec (.cwait d a b w) s = .next ((readAll s [a, b, d]).deadlineWait
      (.chunks (ownLoc s (s.cur.getS a + word (8 * w.toNat))) (s.cur.getS a + word (8 * w.toNat)) (s.cur.getS d)) 7 d (s.cur.getS b)) := by
  refine congrArg Host.Outcome.next ((issue_of_ready h [a, b, d] [d] _ (by simp)).trans ?_)
  simp only [readAll_getS]
  rw [wordWait_own (hw.of_readAll _), readAll_ownLoc]

theorem exec_tlwait {s : State} {d a b : BitVec 5} (h : Ready s [a, b, d]) (hw : OwnAccess s (s.cur.getS a) 8) :
    exec (.tlwait d a b) s = .next ((readAll s [a, b, d]).deadlineWait (.timeline (ownLoc s (s.cur.getS a)) (s.cur.getS a) (s.cur.getS d)) 6 d (s.cur.getS b)) := by
  refine congrArg Host.Outcome.next ((issue_of_ready h [a, b, d] [d] _ (by simp)).trans ?_)
  simp only [readAll_getS]
  rw [wordWait_own (hw.of_readAll _), readAll_ownLoc]

theorem entered_peek (s : State) (w : Wait) (loc n : Nat) : (s.entered w).peek loc n = s.peek loc n := rfl
theorem entered_missing (s : State) (w : Wait) (loc : Nat) (mask : Word) : (s.entered w).missing loc mask = s.missing loc mask := rfl

/-- `cwait` on a map of the own scratchpad: met, late, or waiting (R203). -/
theorem cwait_own {s : State} {d a b : BitVec 5} {w : BitVec 7} (h : Ready s [a, b, d]) (hc : WordCalm s (s.cur.getS a + word (8 * w.toNat))) :
    let va := s.cur.getS a + word (8 * w.toNat)
    let miss := s.missing (ownLoc s va) (s.cur.getS d)
    let dl := s.cur.getS b
    (miss = 0 → ∃ t, exec (.cwait d a b w) s = .next t ∧ Ended s t 7 0 0 0 d 0) ∧
    (miss ≠ 0 → dl.toNat ≤ s.jtime.toNat → ∃ t, exec (.cwait d a b w) s = .next t ∧ Ended s t 7 0 5 miss d miss) ∧
    (miss ≠ 0 → s.jtime.toNat < dl.toNat → ∃ t, exec (.cwait d a b w) s = .next t ∧ WaitsFor s t (.chunks (ownLoc s va) va (s.cur.getS d)) (some (clamped s dl))) := by
  intro va miss dl
  obtain ⟨hown, hwait, htime⟩ := hc.of_readAll [a, b, d]
  have hexec := exec_cwait h hc.word
  have hdecide := homeDecide_chunks (s := (readAll s [a, b, d]).entered ((readAll s [a, b, d]).freshWait (.chunks (ownLoc s va) va (s.cur.getS d)) 7 d dl))
    (w := (readAll s [a, b, d]).freshWait (.chunks (ownLoc s va) va (s.cur.getS d)) 7 d dl) rfl (ownLoc_notHbm s va)
  have hlapse := lapse_chunks (s := (readAll s [a, b, d]).entered ((readAll s [a, b, d]).freshWait (.chunks (ownLoc s va) va (s.cur.getS d)) 7 d dl))
    (w := (readAll s [a, b, d]).freshWait (.chunks (ownLoc s va) va (s.cur.getS d)) 7 d dl) rfl (ownLoc_notHbm s va)
  have hmiss : (readAll s [a, b, d]).missing (ownLoc s va) (s.cur.getS d) = miss := by rw [State.missing, readAll_peek]; rfl
  rw [entered_missing, hmiss] at hdecide hlapse
  have hin := (waiting_readAll s [a, b, d]).entered ((readAll s [a, b, d]).freshWait (.chunks (ownLoc s va) va (s.cur.getS d)) 7 d dl)
  refine ⟨fun h0 => ?_, fun h0 hd => ?_, fun h0 hd => ?_⟩
  · rw [if_pos h0] at hdecide
    exact ⟨_, hexec.trans (congrArg _ (deadlineWait_met hwait htime hdecide)), finish_ended 0 .met 0 d 0 (hin.chunkAcquire _ _) h.calm (by decide)⟩
  · rw [if_neg h0] at hdecide
    have hd' : dl.toNat ≤ (readAll s [a, b, d]).jtime.toNat := by simpa using hd
    have hpast : ((readAll s [a, b, d]).freshWait (.chunks (ownLoc s va) va (s.cur.getS d)) 7 d dl).past = true := decide_eq_true hd'
    rw [hpast] at hlapse
    exact ⟨_, hexec.trans (congrArg _ ((deadlineWait_late hwait htime hdecide (metHeld_chunks rfl) hd').trans hlapse)), finish_ended 0 .pastOnEntry miss d miss hin h.calm (by decide)⟩
  · rw [if_neg h0] at hdecide
    exact ⟨_, hexec.trans (congrArg _ (deadlineWait_stays hwait htime hdecide (by simpa using hd))), waitsFor_entered ..⟩

/-- `tlwait` on a counter of the own scratchpad: met, late, or waiting (R207). -/
theorem tlwait_own {s : State} {d a b : BitVec 5} (h : Ready s [a, b, d]) (hc : WordCalm s (s.cur.getS a)) :
    let va := s.cur.getS a
    let v := word (s.peek (ownLoc s va) 8)
    let n := s.cur.getS d
    let dl := s.cur.getS b
    (n.toNat ≤ v.toNat → ∃ t, exec (.tlwait d a b) s = .next t ∧ Ended s t 6 0 0 v d v) ∧
    (v.toNat < n.toNat → dl.toNat ≤ s.jtime.toNat → ∃ t, exec (.tlwait d a b) s = .next t ∧ Ended s t 6 0 5 v d v) ∧
    (v.toNat < n.toNat → s.jtime.toNat < dl.toNat → ∃ t, exec (.tlwait d a b) s = .next t ∧ WaitsFor s t (.timeline (ownLoc s va) va n) (some (clamped s dl))) := by
  intro va v n dl
  obtain ⟨hown, hwait, htime⟩ := hc.of_readAll [a, b, d]
  have hexec := exec_tlwait h hc.word
  have hdecide := homeDecide_timeline (s := (readAll s [a, b, d]).entered ((readAll s [a, b, d]).freshWait (.timeline (ownLoc s va) va n) 6 d dl))
    (w := (readAll s [a, b, d]).freshWait (.timeline (ownLoc s va) va n) 6 d dl) rfl (ownLoc_notHbm s va)
  have hlapse := lapse_timeline (s := (readAll s [a, b, d]).entered ((readAll s [a, b, d]).freshWait (.timeline (ownLoc s va) va n) 6 d dl))
    (w := (readAll s [a, b, d]).freshWait (.timeline (ownLoc s va) va n) 6 d dl) rfl (ownLoc_notHbm s va)
  rw [entered_peek, readAll_peek] at hdecide hlapse
  have hin := (waiting_readAll s [a, b, d]).entered ((readAll s [a, b, d]).freshWait (.timeline (ownLoc s va) va n) 6 d dl)
  refine ⟨fun h0 => ?_, fun h0 hd => ?_, fun h0 hd => ?_⟩
  · rw [if_pos h0] at hdecide
    exact ⟨_, hexec.trans (congrArg _ (deadlineWait_met hwait htime hdecide)), finish_ended 0 .met v d v (hin.tlAcquire _ _) h.calm (by decide)⟩
  · rw [if_neg (Nat.not_le.mpr h0)] at hdecide
    have hd' : dl.toNat ≤ (readAll s [a, b, d]).jtime.toNat := by simpa using hd
    have hpast : ((readAll s [a, b, d]).freshWait (.timeline (ownLoc s va) va n) 6 d dl).past = true := decide_eq_true hd'
    rw [hpast] at hlapse
    exact ⟨_, hexec.trans (congrArg _ ((deadlineWait_late hwait htime hdecide (metHeld_timeline rfl) hd').trans hlapse)), finish_ended 0 .pastOnEntry v d v hin h.calm (by decide)⟩
  · rw [if_neg (Nat.not_le.mpr h0)] at hdecide
    exact ⟨_, hexec.trans (congrArg _ (deadlineWait_stays hwait htime hdecide (by simpa using hd))), waitsFor_entered ..⟩

end Sys2Proof.Machine
end


section
/-! A release event with nothing to publish (R264, R265), and records read whole (R216). -/

namespace Sys2Proof.Machine
open Sys2Proof.Claims

theorem State.widen_eq (s : State) (rel : Nat) (sc : Scope) :
    s.widen s.cur.uid rel sc = { s with hist := republished s rel sc s.hist, far := republished s rel sc s.far } := by
  have hsame (l : List WriteRec) : l.map (fun w : WriteRec => if w.by_ = some s.cur.uid ∧ w.rels.all (fun r => ((s.relScope r).map Scope.code).getD 7 < sc.code) = true then { w with rels := rel :: w.rels } else w) = republished s rel sc l := by
    unfold republished
    refine List.map_congr_left fun w _ => ?_
    simp only [List.all_eq_true, decide_eq_true_eq]
  exact congrArg₂ (fun a b => { s with hist := a, far := b }) (hsame s.hist) (hsame s.far)

/-- With nothing pending no lock's generation is asked for. -/
theorem State.withGens_nil {s : State} (h : s.cur.pend = []) (pick : Pend → Bool) (k : State → State) : s.withGens pick k = k s := by
  unfold State.withGens
  rw [h]
  dsimp only [List.filter_nil, State.findLocks]
  rw [h]
  rfl

/-- A release of a strand that has nothing pending and nothing on its way is recorded at once. -/
theorem State.withRelease_calm {s : State} (h : ReleaseCalm s) (sc : Scope) (resv : List Resv) (k : Nat → State → State) :
    s.withRelease sc resv k = k s.nextRel (releasedAt s sc) := by
  have hcur : s.cur = { s.cur with pend := [] } := by rw [← h.pend]
  unfold State.withRelease
  rw [h.mst, if_neg Bool.false_ne_true, State.withGens_nil h.pend]
  rw [show s.placeAll s.cur.pend = (s, .ok []) by rw [h.pend]; rfl]
  refine (if_neg Bool.false_ne_true).trans ((if_neg (not_not_intro h.out)).trans ?_)
  have hstate : (((s.publishAll (some s.nextRel) true none []).onCur fun t => { t with pend := [], resv := [] }).recordRelease s.cur.sid sc s.cur.past).2.widen s.cur.uid s.nextRel sc = releasedAt s sc := by
    refine (State.widen_eq (((s.publishAll (some s.nextRel) true none []).onCur fun t => { t with pend := [], resv := [] }).recordRelease s.cur.sid sc s.cur.past).2 s.nextRel sc).trans ?_
    unfold releasedAt
    rw [hcur]
    rfl
  exact congrArg (k s.nextRel) hstate

theorem State.check_pre (s : State) (t : Strand) (va : Word) (n : Nat) (nd : Need) : (s.check t va n nd).1.cur.pre = s.cur.pre := by
  have h := s.reach_pre t va n nd
  unfold State.check
  split
  · rfl
  · split
    · next hr => rwa [hr] at h
    · next hr =>
      rw [hr] at h
      split <;> exact h

/-- Reading a record leaves a pending request as it is. -/
theorem State.recWords_pre (s : State) (va : Word) (n : Nat) : (s.recWords va n).1.cur.pre = s.cur.pre := by
  induction n with
  | zero => rfl
  | succ n ih =>
    unfold State.recWords
    split
    · next s1 v void hprev =>
      rw [hprev] at ih
      have hcheck := s1.check_pre s1.cur (va + word (8 * n)) 8 (needOf .load)
      dsimp only
      split
      · next hc => rw [hc] at hcheck; exact hcheck.trans ih
      · next hc =>
        rw [hc] at hcheck
        repeat' split
        all_goals exact hcheck.trans ih
    · next => exact ih

theorem readsRec_pre {s : State} {va : Word} {align n v : Nat} {u : State} (h : ReadsRec s va align n v u) : u.cur.pre = s.cur.pre := by
  have hpre := s.recWords_pre va n
  rwa [h.got] at hpre

/-- A record that is read whole is what the instruction goes on with (R216). -/
theorem readRec_got {s : State} {va : Word} {align n v : Nat} {u : State} (h : ReadsRec s va align n v u) (k : Nat → State → State) : s.readRec va align n k = k v u := by
  obtain ⟨hmst, hal, hgot⟩ := h
  unfold State.readRec
  rw [if_neg (not_not_intro hal), State.afterMst, hmst, if_neg Bool.false_ne_true, hgot]
  exact congrArg (k v) (if_neg Bool.false_ne_true)

end Sys2Proof.Machine
end

section
/-! Issuing a copy (R196, R265). -/

namespace Sys2Proof.Machine
open Sys2Proof.Claims

/-- A port changed is found changed. -/
theorem State.portOf_onPort (s : State) (core : Nat) {p : Nat} (hp : p < 16) (f : Port → Port) : (s.onPort core p f).portOf core p = f (s.portOf core p) := by
  have hget (v : Vector Port 16) (x : Port) : (v.setIfInBounds p x).toList.getD p Port.free = x := by
    rw [List.getD_eq_getElem _ _ (by simpa using hp)]
    simp
  unfold State.portOf State.onPort
  rw [State.core_onCore_self]
  exact hget _ _

theorem Strand.isFull_markEmpty (t : Strand) (d r : BitVec 5) : (t.markEmpty d).isFull r = (t.isFull r && !(decide (r ≠ 0) && decide (r = d))) := by
  unfold Strand.markEmpty
  by_cases hd : d = 0
  · rw [if_pos hd]
    subst hd
    by_cases hr : r = 0 <;> simp [hr]
  · rw [if_neg hd]
    by_cases hr : r = 0
    · simp [Strand.isFull, hr]
    · by_cases hrd : r = d
      · subst hrd
        have hbit : ((t.full &&& ~~~(1#32 <<< r.toNat)).getLsbD r.toNat) = false := by simp
        simp only [Strand.isFull, hbit, hr, decide_true, decide_false, ne_eq, not_false_eq_true, Bool.and_true, Bool.or_self, Bool.not_true, Bool.and_false]
      · have hne : r.toNat - d.toNat ≠ 0 ∨ r.toNat < d.toNat := by
          by_contra hcon
          exact hrd (BitVec.eq_of_toNat_eq (by omega))
        rcases hne with hne | hne <;> simp [Strand.isFull, hrd, r.isLt, hne]

theorem Strand.getS_markEmpty (t : Strand) (d r : BitVec 5) : (t.markEmpty d).getS r = t.getS r := by
  unfold Strand.getS; rw [Strand.markEmpty_sregs]

/-- The copy that an issue queues (R196). -/
def issuedCopy (u : State) (rev : Bool) (d b : BitVec 5) (p : Nat) (desc : Desc) : Copy :=
  Copy.fresh u.pkg.nextCopy (.port u.curCore p) u.cur.uid u.cur.sid u.cur.job u.cur.pc (releasedAt u desc.scope).cur.past desc rev [] d b

/-- The state with a copy queued on a port, before its token registers are marked. -/
def withCopy (u : State) (rev : Bool) (d b : BitVec 5) (p : Nat) (desc : Desc) : State :=
  ((releasedAt u desc.scope).addCopy (issuedCopy u rev d b p desc)).onPort u.curCore p fun q => { q with queue := q.queue ++ [.copy (issuedCopy u rev d b p desc).id] }

theorem State.queueCopy_calm {u : State} {p : Nat} {desc : Desc} (rev : Bool) (d b : BitVec 5) (hroom : (u.portOf u.curCore p).queue.length < 8) (h : ReleaseCalm u) :
    u.queueCopy rev d b p desc [] = ((withCopy u rev d b p desc).onCur fun t => (t.markEmpty d).markEmpty b).retire := by
  unfold State.queueCopy
  rw [if_neg (by simpa [portQueueCap] using hroom), State.withRelease_calm h]
  rfl

theorem withCopy_port (u : State) (rev : Bool) (d b : BitVec 5) {p : Nat} (hp : p < 16) (desc : Desc) :
    ((withCopy u rev d b p desc).portOf u.curCore p).queue = (u.portOf u.curCore p).queue ++ [.copy u.pkg.nextCopy] := by
  unfold withCopy
  rw [State.portOf_onPort _ _ hp]
  rfl

theorem withCopy_copies (u : State) (rev : Bool) (d b : BitVec 5) (p : Nat) (desc : Desc) : (withCopy u rev d b p desc).pkg.copies = u.pkg.copies ++ [issuedCopy u rev d b p desc] := rfl
theorem withCopy_rels (u : State) (rev : Bool) (d b : BitVec 5) (p : Nat) (desc : Desc) : (withCopy u rev d b p desc).rels = ⟨u.nextRel, u.cur.sid, false, desc.scope, u.cur.past⟩ :: u.rels := rfl
theorem withCopy_mem (u : State) (rev : Bool) (d b : BitVec 5) (p : Nat) (desc : Desc) : (withCopy u rev d b p desc).mem = u.mem := rfl
theorem withCopy_cur (u : State) (rev : Bool) (d b : BitVec 5) (p : Nat) (desc : Desc) : (withCopy u rev d b p desc).cur = { u.cur with resv := [] } := rfl

/-- `cpy` and `cpyr` read their descriptor; a defective one faults, a plain one is queued (R196). -/
theorem exec_copy {s u : State} {rev : Bool} {d a b : BitVec 5} {p : BitVec 4} {v : Nat} (h : Ready s [a, d, b]) (hr : ReadsRec (readAll s [a]) (s.cur.getS a) 64 8 v u) (hm : (descOf v).multicast = false) :
    exec (if rev = true then .cpyr d a b p else .cpy d a b p) s =
      .next (if (descOf v).bad (decide (12 ≤ p.toNat)) = true then u.faultCode .copyDescriptor 0 0 0 else u.queueCopy rev d b p.toNat (descOf v) []) := by
  have hexec : exec (if rev = true then .cpyr d a b p else .cpy d a b p) s = .next (s.issueCopy rev d a b p.toNat) := by cases rev <;> rfl
  rw [hexec]
  refine congrArg Host.Outcome.next ((issue_of_ready h [a] [d, b] _ (by simp)).trans ?_)
  simp only [readAll_getS]
  rw [readRec_got hr, hm]
  rfl

theorem exec_copy_bad {s u : State} {rev : Bool} {d a b : BitVec 5} {p : BitVec 4} {v : Nat} (h : Ready s [a, d, b]) (hr : ReadsRec (readAll s [a]) (s.cur.getS a) 64 8 v u)
    (hb : (descOf v).bad (decide (12 ≤ p.toNat)) = true) : exec (if rev = true then .cpyr d a b p else .cpy d a b p) s = .next (u.faultCode .copyDescriptor 0 0 0) := by
  have hexec : exec (if rev = true then .cpyr d a b p else .cpy d a b p) s = .next (s.issueCopy rev d a b p.toNat) := by cases rev <;> rfl
  rw [hexec]
  refine congrArg Host.Outcome.next ((issue_of_ready h [a] [d, b] _ (by simp)).trans ?_)
  simp only [readAll_getS]
  rw [readRec_got hr]
  exact if_pos hb

/-- Marking the token registers of a copy, register by register (R196). -/
theorem isFull_tokens (t : Strand) (d b r : BitVec 5) :
    ((t.markEmpty d).markEmpty b).isFull r = (t.isFull r && !(decide (r ≠ 0) && (decide (r = d) || decide (r = b)))) := by
  rw [Strand.isFull_markEmpty, Strand.isFull_markEmpty]
  cases t.isFull r <;> cases decide (r ≠ 0) <;> cases decide (r = d) <;> cases decide (r = b) <;> rfl

/-- Settles O23: copies as they are issued, and the waits of `cwait` and `tlwait` on the own scratchpad. -/
theorem copyAndWait : Obligations.CopyAndWait := by
  unfold Obligations.CopyAndWait
  refine ⟨?copies, fun s d a b w h => ?_, fun s d a b h => ?_⟩
  case copies =>
    intro s rev d a b p v u h hr
    refine ⟨fun hgood hm hroom _ _ hcalm => ?_, fun hb => exec_copy_bad h hr hb⟩
    have hexec := (exec_copy (rev := rev) (p := p) h hr hm).trans (congrArg Host.Outcome.next ((if_neg (by rw [hgood]; decide)).trans (State.queueCopy_calm rev d b hroom hcalm)))
    have hcur := withCopy_cur u rev d b p.toNat (descOf v)
    have hpre : ((withCopy u rev d b p.toNat (descOf v)).onCur fun t => (t.markEmpty d).markEmpty b).cur.pre = none := by
      rw [State.onCur, Strand.markEmpty_pre, Strand.markEmpty_pre, hcur]
      exact (readsRec_pre hr).trans ((readAll_pre _ _).trans h.calm)
    rw [State.retire_goOn hpre] at hexec
    refine ⟨_, issuedCopy u rev d b p.toNat (descOf v), hexec, withCopy_copies .., rfl, rfl, rfl, rfl, rfl, rfl, rfl, rfl, rfl, withCopy_port u rev d b p.isLt _, ⟨_, withCopy_rels u rev d b p.toNat _⟩,
      fun r => ?_, fun r => ?_, withCopy_mem u rev d b p.toNat (descOf v), ?_⟩
    · exact isFull_tokens (withCopy u rev d b p.toNat (descOf v)).cur d b r
    · exact (Strand.getS_markEmpty ((withCopy u rev d b p.toNat (descOf v)).cur.markEmpty d) b r).trans (Strand.getS_markEmpty (withCopy u rev d b p.toNat (descOf v)).cur d r)
    · constructor <;> simp only [State.onCur, Strand.markEmpty_pc, Strand.markEmpty_loops, hcur] <;> rfl
  · exact cwait_own h
  · exact tlwait_own h

end Sys2Proof.Machine
end


section
/-! A barrier object that stands alone: its tree, and how its phases close (R220). -/

namespace Sys2Proof.Machine
open Sys2Proof.Claims

/-- What stands in a map after one key is written stood there before, or is the new entry. -/
theorem SMap.mem_set {α : Type} [DecidableEq α] {d : α} {m : SMap α} {k : Nat} {v : α} {x : Nat × α} (h : x ∈ m.set d k v) : x = (k, v) ∨ x ∈ m := by
  have herase (l : SMap α) : ∀ y ∈ l.erase k, y ∈ l := by
    induction l with
    | nil => exact fun y hy => hy
    | cons p l ih =>
      intro y hy
      unfold SMap.erase at hy
      split at hy
      · exact List.mem_cons_of_mem _ (ih y hy)
      · rcases List.mem_cons.mp hy with rfl | hy
        · exact List.mem_cons_self
        · exact List.mem_cons_of_mem _ (ih y hy)
  have hput (l : SMap α) : ∀ y ∈ l.put k v, y = (k, v) ∨ y ∈ l := by
    induction l with
    | nil => exact fun y hy => .inl (List.mem_singleton.mp hy)
    | cons p l ih =>
      intro y hy
      unfold SMap.put at hy
      split at hy
      · exact (List.mem_cons.mp hy).imp_right id
      · rcases List.mem_cons.mp hy with rfl | hy
        · exact .inr List.mem_cons_self
        · exact (ih y hy).imp_right (List.mem_cons_of_mem _)
  unfold SMap.set at h
  split at h
  · exact .inr (herase m x h)
  · exact (hput _ x h).imp_right (herase m x)

/-- A value that a map gives is the default or stands in it. -/
theorem SMap.get_mem {α : Type} (d : α) (m : SMap α) (k : Nat) : m.get d k = d ∨ (k, m.get d k) ∈ m := by
  induction m with
  | nil => exact .inl rfl
  | cons p m ih =>
    obtain ⟨j, v⟩ := p
    unfold SMap.get
    split
    · next h => subst h; exact .inr List.mem_cons_self
    · exact ih.imp_right (List.mem_cons_of_mem _)

theorem State.bar_setBar_self (s : State) (c o : Nat) (b : Barrier) : (s.setBar c o b).bar c o = b := by
  unfold State.bar State.setBar State.onCluster State.setCluster State.cluster
  rw [SMap.get_set_self]
  exact SMap.get_set_self ..

/-- The objects after one is written: those before, and that one. -/
theorem State.allBars_setBar {s : State} {c o : Nat} {b : Barrier} {x : Nat × Nat × Barrier} (h : x ∈ (s.setBar c o b).allBars) : x = (c, o, b) ∨ x ∈ s.allBars := by
  obtain ⟨p, hp, hx⟩ := List.mem_flatMap.mp h
  obtain ⟨q, hq, rfl⟩ := List.mem_map.mp hx
  obtain ⟨hin, hconf⟩ := List.mem_filter.mp hq
  have hold {p : Nat × Cluster} (hp : p ∈ s.clusters) (hin : q ∈ p.2.barriers) : (p.1, q.1, q.2) ∈ s.allBars :=
    List.mem_flatMap.mpr ⟨p, hp, List.mem_map.mpr ⟨q, List.mem_filter.mpr ⟨hin, hconf⟩, rfl⟩⟩
  rcases SMap.mem_set hp with rfl | hp
  · rcases SMap.mem_set hin with rfl | hin
    · exact .inl rfl
    · rcases SMap.get_mem Cluster.reset s.clusters c with hdef | hmem
      · exact absurd (show q ∈ Cluster.reset.barriers from hdef ▸ hin) (by simp [Cluster.reset])
      · exact .inr (hold (p := (c, s.cluster c)) hmem hin)
  · exact .inr (hold hp hin)

/-- Whether every member of an object has arrived in its open phase (R217). -/
def Barrier.full (b : Barrier) : Bool := decide (b.members ≠ 0) && decide (b.arrived &&& b.members = b.members)

theorem Barrier.full_iff (b : Barrier) : b.full = true ↔ phaseFull b := by
  simp [Barrier.full, phaseFull]

/-- An object written without a parent still stands alone. -/
theorem lone_of_setBar {s : State} {c o : Nat} {b : Barrier} (h : Lone s c o) (hc : b.config = true) (hp : b.parent = none) : Lone (s.setBar c o b) c o where
  config := by rw [State.bar_setBar_self]; exact hc
  root := by rw [State.bar_setBar_self]; exact hp
  leaf := by
    refine List.filter_eq_nil_iff.mpr fun x hx hpar => ?_
    have hpar' : x.2.2.parent = some (s.barId c o) := of_decide_eq_true hpar
    rcases State.allBars_setBar hx with rfl | hx
    · rw [hp] at hpar'; exact absurd hpar' (by simp)
    · have hmem : x ∈ s.childBars c o := List.mem_filter.mpr ⟨hx, decide_eq_true hpar'⟩
      rw [h.leaf] at hmem
      exact absurd hmem List.not_mem_nil
  rings := h.rings
  free := h.free

section
variable {s : State} {c o : Nat} (h : Lone s c o)
include h

theorem lone_barTree : s.barTree treeFuel c o = [(c, o)] := by
  show (c, o) :: (s.childBars c o).flatMap _ = _
  rw [h.leaf]
  rfl

theorem lone_barRoot : s.barRoot treeFuel c o = (c, o, true) := by
  show (if !(s.bar c o).config then (c, o, false) else match (s.bar c o).parent with | none => (c, o, true) | some p => _) = _
  rw [h.config, h.root]
  rfl

theorem lone_barArrived : s.barArrived treeFuel c o = (s.bar c o).arrived := by
  show (s.childBars c o).foldl _ (s.bar c o).arrived = _
  rw [h.leaf]
  rfl

theorem lone_barComplete : s.barComplete c o = (s.bar c o).full := by
  unfold State.barComplete Barrier.full
  rw [lone_barArrived h]

theorem lone_treeHeld : s.treeHeld [(c, o)] = false := by
  refine List.any_eq_false.mpr fun x hx => ?_
  rw [Bool.not_eq_true, List.any_eq_false]
  intro r hr
  cases r with
  | bar c' o' =>
    have hne : (c', o') ≠ (c, o) := by rintro ⟨⟩; exact h.free x hx hr
    simpa using fun h1 h2 => hne (by rw [h1, h2])
  | _ => simp

/-- The closing of a phase of an object that stands alone (R220). -/
theorem lone_closePhase : s.closePhase c o = s.setBar c o (closedAs (s.bar c o) ((s.bar c o).full) ((s.bar c o).members &&& ~~~(s.bar c o).arrived)) := by
  have hnone : s.rings.filter (fun r => decide (r.barrier = o ∧ r.cluster = c)) = [] :=
    List.filter_eq_nil_iff.mpr fun r hr hd => h.rings r hr (of_decide_eq_true hd)
  have hsame : s.rings.map (fun r => if r.barrier = o ∧ r.cluster = c then r.rotate else r) = s.rings :=
    (List.map_congr_left fun r hr => if_neg (h.rings r hr)).trans (List.map_id _)
  have hrot : s.rotateRings c o = s := by
    unfold State.rotateRings
    dsimp only
    rw [hnone, List.foldl_nil, hsame]
  unfold State.closePhase
  rw [lone_barTree h]
  show s.closeObj ([(c, o)].all fun x => s.barComplete x.1 x.2) _ (s.barArrived treeFuel c o) c o = _
  rw [lone_barArrived h]
  unfold State.closeObj
  rw [hrot]
  simp only [List.all_cons, List.all_nil, Bool.and_true, lone_barComplete h, List.flatMap_cons, List.flatMap_nil, List.append_nil]
  rfl

/-- The phase of an object that stands alone is over when every member has arrived or its deadline has passed (R220). -/
theorem lone_closeDue : s.closeDue c o = ((s.bar c o).full || match (s.bar c o).dl with
    | some d => decide (d.toNat < (s.jtimeOf (s.bar c o).job).toNat)
    | none => false) := by
  unfold State.closeDue State.phaseOver
  rw [lone_barTree h, lone_treeHeld h]
  dsimp only
  simp only [List.all_cons, List.all_nil, Bool.and_true, lone_barComplete h] <;> rfl

theorem lone_closeDue_open (hopen : StaysOpen s (s.bar c o)) : s.closeDue c o = false := by
  obtain ⟨hmiss, htime⟩ := hopen
  rw [lone_closeDue h, Bool.eq_false_iff.mpr (mt (Barrier.full_iff _).mp hmiss), Bool.false_or]
  split
  · next d hd => exact decide_eq_false (Nat.not_lt.mpr (htime d hd))
  · rfl

/-- An object whose phase is over closes that phase, and the next stays open (R220). -/
theorem lone_settleBar {b : Barrier} (hdue : s.closeDue c o = true) (hb : closedAs (s.bar c o) ((s.bar c o).full) ((s.bar c o).members &&& ~~~(s.bar c o).arrived) = b)
    (hopen : StaysOpen s b) : s.settleBar c o = s.setBar c o b := by
  have hnext : Lone (s.setBar c o b) c o := (lone_of_setBar h) (by rw [← hb]; exact h.config) (by rw [← hb]; exact h.root)
  have hstay : (s.setBar c o b).closeDue c o = false := (lone_closeDue_open hnext) (by rw [State.bar_setBar_self]; exact ⟨hopen.missing, hopen.time⟩)
  unfold State.settleBar
  rw [lone_barRoot h]
  show (if s.closeDue c o then (s.closePhase c o).closeWhile c o 2 else s) = _
  rw [hdue, if_pos rfl, lone_closePhase h, hb]
  show (if (s.setBar c o b).closeDue c o then _ else s.setBar c o b) = _
  rw [hstay]
  rfl

end

theorem closedAs_full {b : Barrier} (h : phaseFull b) : closedAs b (b.full) (b.members &&& ~~~b.arrived) = closedAs b true 0 := by
  have hnone : b.members &&& ~~~b.arrived = 0 := by
    obtain ⟨-, hall⟩ := h
    rw [← hall]
    ext i hi
    simp
    cases b.arrived[i] <;> simp
  rw [(Barrier.full_iff b).mpr h, hnone]

end Sys2Proof.Machine
end

section
/-! `bwait` and the closing of phases (R219, R220). -/

namespace Sys2Proof.Machine
open Sys2Proof.Claims

@[simp] theorem readAll_bar (s : State) (srcs : List (BitVec 5)) (c o : Nat) : (readAll s srcs).bar c o = s.bar c o := by
  obtain ⟨hb, q, oq, e⟩ := readAll_eq s srcs
  rw [e]; rfl

@[simp] theorem readAll_getB (s : State) (srcs : List (BitVec 5)) (r : BitVec 5) : (readAll s srcs).cur.getB r = s.cur.getB r := by
  obtain ⟨hb, q, oq, e⟩ := readAll_eq s srcs
  rw [e]; rfl

/-- `bwait` through a register that names an object (R219). -/
theorem exec_bwait {s : State} {d a b : BitVec 5} {r : BReg} (h : Ready s [b, d]) (hr : s.cur.getB a = some r) :
    exec (.bwait d a b) s = .next (if r.since then (readAll s [b]).waitBar d r.cluster r.obj (r.phase - 1) (s.cur.getS b) else (readAll s [b]).faultCode .illegalOperand 0 0 0) := by
  refine congrArg Host.Outcome.next ((issue_of_ready h [b] [d] _ (by simp)).trans ?_)
  rw [readAll_getB, hr, readAll_getS]
  show (if (!r.since) = true then _ else _) = _
  cases r.since <;> rfl

/-- A wait for a phase that is recorded as closed ends at once (R219). -/
theorem waitBar_closed {s : State} {c o : Nat} {q : BitVec 32} {x : Closed} (d : BitVec 5) (dl : Word) (hq : (q - (s.bar c o).phase).toInt < 0)
    (hx : (s.bar c o).closed.find? (fun x => decide (x.phase = q)) = some x) :
    s.waitBar d c o q dl = (s.acquire (s.barScope c o) x.rels).finish 1 q (if x.met then .met else .expired) x.absent d x.absent := by
  unfold State.waitBar
  rw [if_pos (show phaseDiff q (s.bar c o).phase < 0 from hq)]
  unfold State.finishBarrier
  rw [hx]
  rfl

/-- Settles O30: `bwait` on closed and open phases, and how the phase of a lone object closes. -/
theorem barrierPhases : Obligations.BarrierPhases := by
  unfold Obligations.BarrierPhases
  refine ⟨fun s d a b r h hr => ⟨fun x hs hq hx => ?_, fun hs => ?_, fun hs hq => ?_⟩, fun s c o h hfull hopen => ?_, fun s c o j d h hj hrun hjr hdl hd hmiss hopen => ?_⟩
  · have hend := finish_ended (r.phase - 1) (if x.met then .met else .expired) x.absent d x.absent ((waiting_readAll s [b]).acquire ((readAll s [b]).barScope r.cluster r.obj) x.rels) h.calm (by decide : 1 < 256)
    have hcode : (if x.met then WaitOutcome.met else .expired).code = if x.met then 0 else 1 := by cases x.met <;> rfl
    rw [hcode] at hend
    refine ⟨_, ?_, hend⟩
    rw [exec_bwait h hr, hs, if_pos rfl]
    exact congrArg Host.Outcome.next (waitBar_closed d _ (by simpa using hq) (by simpa using hx))
  · rw [exec_bwait h hr, hs]; rfl
  · rw [exec_bwait h hr, hs]; rfl
  · rw [(lone_settleBar h) (by rw [lone_closeDue h, (Barrier.full_iff _).mpr hfull]; rfl) (closedAs_full hfull) hopen, State.bar_setBar_self]
  · have hdue : s.closeDue c o = true := by
      rw [lone_closeDue h, hdl]
      exact Bool.or_eq_true_iff.mpr (.inr (decide_eq_true hd))
    have hset : s.settleBar c o = s.setBar c o (closedAs (s.bar c o) false ((s.bar c o).members &&& ~~~(s.bar c o).arrived)) :=
      lone_settleBar h hdue (by rw [Bool.eq_false_iff.mpr (mt (Barrier.full_iff _).mp hmiss)]) hopen
    have hexec : exec (.barrierDeadlineClose c o) s = .next (s.settleBar c o) := by
      have hruns : (match s.job? (s.bar c o).job with | some j => !j.halted && j.jrun | none => false) = true := by
        rw [hj]
        dsimp only
        rw [hrun, hjr]
        rfl
      refine congrArg Host.Outcome.next (if_pos ?_)
      rw [h.config, h.root, hdue]
      exact (Bool.and_true _).trans hruns
    rw [hset] at hexec
    exact ⟨_, hexec, State.bar_setBar_self .., rfl, rfl⟩

end Sys2Proof.Machine
end


section
/-! What a load returns where every write to its bytes is known to the strand (R268). -/

namespace Sys2Proof.Machine
open Sys2Proof.Claims

/-- Where the strand knows every write that covers one of the bytes, the walk through home order settles each byte by what stands there last, and makes no free choice. -/
theorem phaseWalk_known (known : WriteRec → Bool) : ∀ (ws : List WriteRec) (last : Option (Nat × Bool)) (free : Nat) (xs : List LoadByte),
    (∀ w ∈ ws, ∀ x ∈ xs, w.covers x.addr = true → known w = true) → ∃ r, phaseWalk known ws last free xs = (xs.map (·.cur), r, free) := by
  intro ws
  induction ws with
  | nil => exact fun _ _ _ _ => ⟨_, rfl⟩
  | cons w ws ih =>
    intro last free xs h
    have hrest : ∀ w ∈ ws, ∀ x ∈ xs, w.covers x.addr = true → known w = true := fun w' hw => h w' (List.mem_cons_of_mem _ hw)
    unfold phaseWalk
    by_cases hmeet : xs.any (LoadByte.meets w) = true
    · have hknown : known w = true := by
        obtain ⟨x, hx, hm⟩ := List.any_eq_true.mp hmeet
        simp only [LoadByte.meets, Bool.and_eq_true] at hm
        exact h w List.mem_cons_self x hx hm.2
      have haddr : ∀ y ∈ xs.map (fun x => if x.meets w then x.take else x), ∃ x ∈ xs, y.addr = x.addr := by
        intro y hy
        obtain ⟨x, hx, rfl⟩ := List.mem_map.mp hy
        exact ⟨x, hx, by split <;> rfl⟩
      have hcur : (xs.map fun x => if x.meets w then x.take else x).map (·.cur) = xs.map (·.cur) := by
        rw [List.map_map]
        refine List.map_congr_left fun x _ => ?_
        rw [Function.comp]
        split <;> rfl
      obtain ⟨r, hr⟩ := ih last free (xs.map fun x => if x.meets w then x.take else x) fun w' hw y hy hc => by
        obtain ⟨x, hx, he⟩ := haddr y hy
        exact hrest w' hw x hx (he ▸ hc)
      rw [hmeet, hknown, if_neg (by decide), if_pos rfl, hr, hcur]
      exact ⟨_, rfl⟩
    · rw [Bool.not_eq_true] at hmeet
      rw [hmeet, if_pos (by decide)]
      exact ih last free xs hrest

/-- A byte no Sable write covers is what stands in memory (R240, R272). -/
theorem State.publicByte_plain {s : State} {a : Nat} (h : ∀ w ∈ s.sable, w.covers a = false) : s.publicByte a = s.mem.get memDefault a := by
  unfold State.publicByte
  revert h
  generalize s.sable = l
  generalize s.mem.get memDefault a = b
  intro h
  induction l with
  | nil => rfl
  | cons w l ih =>
    rw [List.foldl_cons, h w List.mem_cons_self, if_neg Bool.false_ne_true]
    exact ih fun w' hw => h w' (List.mem_cons_of_mem _ hw)

theorem SMap.getList_eq_map {α : Type} (d : α) (m : SMap α) (k n : Nat) : m.getList d k n = (List.range n).map fun i => m.get d (k + i) := by
  induction n generalizing k with
  | zero => rfl
  | succ n ih =>
    rw [SMap.getList, ih, List.range_succ_eq_map, List.map_cons, List.map_map]
    refine congrArg _ (List.map_congr_left fun i _ => ?_)
    rw [Function.comp, Nat.succ_eq_add_one, Nat.add_assoc, Nat.add_comm 1]

theorem overlaps_of_covers {w : WriteRec} {loc n i : Nat} (hi : i < n) (h : w.covers (loc + i) = true) : overlaps w.loc w.n loc n = true := by
  simp only [WriteRec.covers, decide_eq_true_eq] at h
  exact decide_eq_true (by omega)

/-- Places all of whose writes are known read as memory stands (R268). -/
theorem State.loadPlaces_known {s : State} {loc n : Nat} (hk : AllKnown s loc n) (hs : ∀ w ∈ s.sable, overlaps w.loc w.n loc n = false) :
    ∃ r, s.loadPlaces (placesOf loc n) = (s.bytesAt loc n, s.onCur fun t => { t with obs := r ++ t.obs }) := by
  have hbytes : ((placesOf loc n).map fun a => (⟨a, s.publicByte a, none⟩ : LoadByte)).map (·.cur) = s.bytesAt loc n := by
    rw [State.bytesAt, SMap.getList_eq_map, placesOf, List.map_map, List.map_map]
    refine List.map_congr_left fun i hi => State.publicByte_plain fun w hw => ?_
    have hout := hs w hw
    by_contra hc
    rw [Bool.not_eq_false] at hc
    rw [overlaps_of_covers (List.mem_range.mp hi) hc] at hout
    exact absurd hout (by decide)
  obtain ⟨r, hr⟩ := phaseWalk_known (knownTo (s.jobStart s.cur.job) s.cur.hb) s.hist none s.free ((placesOf loc n).map fun a => ⟨a, s.publicByte a, none⟩) (by
    intro w hw x hx hc
    obtain ⟨a, ha, rfl⟩ := List.mem_map.mp hx
    obtain ⟨i, hi, rfl⟩ := List.mem_map.mp ha
    exact hk w hw (overlaps_of_covers (List.mem_range.mp hi) hc))
  refine ⟨r, ?_⟩
  unfold State.loadPlaces State.phaseLoad
  rw [hr, hbytes]
  rfl

/-- A load of near memory whose writes are all known: memory with the strand's own pending stores laid over it (R268). -/
theorem State.loadHere_known {s : State} {loc n : Nat} (key : Nat) (hn : isHbm loc = false) (hk : AllKnown s loc n) (hs : ∀ w ∈ s.sable, overlaps w.loc w.n loc n = false) :
    ∃ r, s.loadHere key loc n = (natOfBytes (overlayPend loc (s.bytesAt loc n) s.cur.pend), s.onCur fun t => { t with obs := r ++ t.obs }) := by
  obtain ⟨r, hr⟩ := State.loadPlaces_known hk hs
  refine ⟨r, ?_⟩
  unfold State.loadHere
  rw [hr]
  dsimp only
  rw [State.ownView, State.decrypt_near _ _ _ _ hn]

end Sys2Proof.Machine
end

section
/-! What a strand knows: it grows as tokens are read (R197, R266), and nothing else of the state is touched. -/

namespace Sys2Proof.Machine
open Sys2Proof.Claims

/-- The state with the current strand's knowledge replaced. -/
def State.knowing (s : State) (h q : Nat) (o : List Nat) : State := { s with cur := { s.cur with hb := h, soon := q, obs := o } }

theorem testBit_foldl_or (l : List RelRec) (m i : Nat) (h : m.testBit i = true) : (l.foldl (fun m r => m ||| r.writes) m).testBit i = true := by
  induction l generalizing m with
  | nil => exact h
  | cons r l ih => exact ih _ (by rw [Nat.testBit_or, h, Bool.true_or])

theorem readTok_knows (s : State) (r : BitVec 5) (i : Nat) (h : s.cur.hb.testBit i = true) : (s.readTok r).cur.hb.testBit i = true := by
  unfold State.readTok
  split
  · exact h
  · next m _ =>
    show (s.acquired s.cur.sid m.scope ([] ++ s.cur.obs) s.cur.past ||| m.writes).testBit i = true
    rw [Nat.testBit_or, State.acquired, testBit_foldl_or _ _ _ (by rw [Strand.past, Nat.testBit_or, h, Bool.true_or]), Bool.true_or]

/-- What a strand knows it still knows after reading tokens. -/
theorem readAll_knows (s : State) (srcs : List (BitVec 5)) (i : Nat) (h : s.cur.hb.testBit i = true) : (readAll s srcs).cur.hb.testBit i = true := by
  unfold readAll
  induction srcs generalizing s with
  | nil => exact h
  | cons r srcs ih => exact ih (s.readTok r) (readTok_knows s r i h)

theorem allKnown_readAll {s : State} {loc n : Nat} (srcs : List (BitVec 5)) (h : AllKnown s loc n) : AllKnown (readAll s srcs) loc n := by
  intro w hw ho
  have hb := readAll_knows s srcs w.idx
  obtain ⟨b, q, o, e⟩ := readAll_eq s srcs
  rw [e] at hw hb ⊢
  have hknown := h w hw ho
  simp only [knownTo, Bool.or_eq_true] at hknown ⊢
  exact hknown.imp_right hb

/-- One register written and the instruction completed, with whatever the strand has come to know. -/
theorem knowing_setS_retire (s : State) (h q : Nat) (o : List Nat) (d : BitVec 5) (v : Word) (hp : s.cur.pre = none) :
    Writes s (.next ((s.knowing h q o).onCur fun t => t.setS d v).retire) d v := by
  have hset := Strand.setS_eq { s.cur with hb := h, soon := q, obs := o } d v
  have hpre : ((s.knowing h q o).onCur fun t => t.setS d v).cur.pre = none := (Strand.setS_pre ..).trans hp
  have hpc : ((s.knowing h q o).onCur fun t => t.setS d v).cur.pc = s.cur.pc := Strand.setS_pc ..
  have hloops : ((s.knowing h q o).onCur fun t => t.setS d v).cur.loops = s.cur.loops := Strand.setS_loops ..
  rw [State.retire_goOn hpre, hpc, hloops]
  refine ⟨_, rfl, ⟨Strand.getS_setS_self _ d v, Strand.isFull_setS_self _ d v⟩, ⟨fun r hr => ?_, ?_⟩, ⟨rfl, rfl⟩⟩
  · have hne := List.ne_of_not_mem_cons hr
    exact ⟨Strand.getS_setS_ne { s.cur with hb := h, soon := q, obs := o } v hne, Strand.isFull_setS_ne { s.cur with hb := h, soon := q, obs := o } v hne⟩
  · simp only [State.goOn, State.onCur, State.knowing]
    rw [hset]
    rfl

end Sys2Proof.Machine
end

section
/-! Scalar loads and stores on the own scratchpad (R94, R95). -/

namespace Sys2Proof.Machine
open Sys2Proof.Claims

/-- With no watermark register bound no watermark covers an element (R261). -/
theorem marksOver_none {t : Strand} (h : t.wregs = Vector.replicate 4 none) (va : Word) (n : Nat) : t.marksOver va n = [] := by
  unfold Strand.marksOver
  rw [h]
  rfl

/-- An element of the own scratchpad whose writes are all known (R94, R268). -/
theorem loadEl_own {s : State} {va : Word} {n : Nat} (h : OwnAccess s va n) (hw : s.cur.wregs = Vector.replicate 4 none) (hk : AllKnown s (ownLoc s va) n) :
    ∃ q r, s.loadEl va n .load = (s.knowing s.cur.hb q r, .ok (natOfBytes (overlayPend (ownLoc s va) (s.bytesAt (ownLoc s va) n) s.cur.pend)) false) := by
  have hover := marksOver_none hw va n
  obtain ⟨r, hr⟩ := State.loadHere_known (ownHit s va).key (ownLoc_notHbm s va) hk h.written
  refine ⟨s.cur.soon ||| 0, r ++ s.cur.obs, ?_⟩
  have hneed : s.markNeeded va n = none := by unfold State.markNeeded; rw [hover]; rfl
  have hpass : s.passes va n = true := by unfold State.passes; rw [hover]; rfl
  have hacq : s.markAcquired va n = 0 := by unfold State.markAcquired; rw [hover]; rfl
  have hmarked : s.markedLoad va n (fun s' => s'.loadHere (ownHit s va).key (ownLoc s va) n) =
      (natOfBytes (overlayPend (ownLoc s va) (s.bytesAt (ownLoc s va) n) s.cur.pend), s.knowing s.cur.hb (s.cur.soon ||| 0) (r ++ s.cur.obs)) := by
    have hsame : (s.onCur fun t => { t with hb := t.hb ||| 0 }) = s := by rw [State.onCur, Nat.or_zero]
    unfold State.markedLoad
    rw [hacq]
    dsimp only
    rw [hsame, hr]
    rfl
  unfold State.loadEl
  rw [show s.check s.cur va n (needOf .load) = (s, .ok (ownHit s va)) from check_own h rfl]
  dsimp only
  rw [hneed, hpass]
  dsimp only
  rw [show (ownHit s va).loc = ownLoc s va from rfl, h.here, hmarked]
  rfl

/-- No `mst` of the strand is to write where an access of the own scratchpad goes (R180). -/
theorem clearOfMst_own {s : State} {va : Word} {n : Nat} (h : OwnAccess s va n) {kind : AccKind} (hx : (needOf kind).x = false) (k : State → State) : s.clearOfMst va n kind k = k s := by
  refine if_neg ?_
  rw [check_own h hx]
  show ¬ (s.mstQueued && s.mstMeets (ownLoc s va) n) = true
  rw [h.apart, Bool.and_false]
  exact Bool.false_ne_true

/-- An access that is not aligned has no place for an `mst` to meet (R94). -/
theorem clearOfMst_misaligned {s : State} {va : Word} {n : Nat} (h : va.toNat % n ≠ 0) (kind : AccKind) (k : State → State) : s.clearOfMst va n kind k = k s := by
  refine if_neg ?_
  rw [show s.check s.cur va n (needOf kind) = (s, .error (fail .misaligned)) from if_pos h]
  show ¬ (s.mstQueued && false) = true
  rw [Bool.and_false]
  exact Bool.false_ne_true

@[simp] theorem readAll_wregs (s : State) (srcs : List (BitVec 5)) : (readAll s srcs).cur.wregs = s.cur.wregs := by
  obtain ⟨hb, q, o, e⟩ := readAll_eq s srcs
  rw [e]
@[simp] theorem readAll_pend (s : State) (srcs : List (BitVec 5)) : (readAll s srcs).cur.pend = s.cur.pend := by
  obtain ⟨hb, q, o, e⟩ := readAll_eq s srcs
  rw [e]
@[simp] theorem readAll_bytesAt (s : State) (srcs : List (BitVec 5)) (loc n : Nat) : (readAll s srcs).bytesAt loc n = s.bytesAt loc n := by
  obtain ⟨hb, q, o, e⟩ := readAll_eq s srcs
  rw [e]; rfl

/-- Knowledge gained after the tokens were read leaves the same state otherwise. -/
theorem readAll_knowing (s : State) (srcs : List (BitVec 5)) (h q : Nat) (o : List Nat) : (readAll s srcs).knowing h q o = s.knowing h q o := by
  obtain ⟨hb, q', o', e⟩ := readAll_eq s srcs
  rw [e]; rfl

/-- A scalar load from the own scratchpad (R94, R268). -/
theorem loadScalar_own {s : State} {d a : BitVec 5} {off : Word} {n : Nat} (ext : Nat → Word) (hr : Ready s [a, d]) (h : OwnAccess s (s.cur.getS a + off) n)
    (hw : s.cur.wregs = Vector.replicate 4 none) (hk : AllKnown s (ownLoc s (s.cur.getS a + off)) n) :
    Writes s (.next (s.loadScalar d a off n ext)) d (ext (natOfBytes (overlayPend (ownLoc s (s.cur.getS a + off)) (s.bytesAt (ownLoc s (s.cur.getS a + off)) n) s.cur.pend))) := by
  obtain ⟨q, r, hl⟩ := loadEl_own (h.of_readAll [a]) ((readAll_wregs s [a]).trans hw) (by rw [readAll_ownLoc]; exact allKnown_readAll [a] hk)
  have hload : s.loadScalar d a off n ext = ((s.knowing (readAll s [a]).cur.hb q r).onCur fun t =>
      t.setS d (ext (natOfBytes (overlayPend (ownLoc s (s.cur.getS a + off)) (s.bytesAt (ownLoc s (s.cur.getS a + off)) n) s.cur.pend)))).retire := by
    refine (issue_of_ready hr [a] [d] _ (by simp)).trans ?_
    dsimp only
    rw [readAll_getS, clearOfMst_own (h.of_readAll [a]) rfl, hl]
    simp only [readAll_knowing, readAll_ownLoc, readAll_bytesAt, readAll_pend, Bool.false_eq_true, if_false]
  rw [hload]
  exact knowing_setS_retire s _ _ _ d _ hr.calm

/-- A misaligned scalar load faults and performs nothing (R94, R106). -/
theorem loadScalar_misaligned {s : State} {d a : BitVec 5} {off : Word} {n : Nat} (ext : Nat → Word) (hr : Ready s [a, d]) (h : (s.cur.getS a + off).toNat % n ≠ 0) :
    s.loadScalar d a off n ext = (readAll s [a]).takeFault (plainRec s .misaligned (s.cur.getS a + off) 2 0) := by
  refine (issue_of_ready hr [a] [d] _ (by simp)).trans ?_
  dsimp only
  rw [readAll_getS, clearOfMst_misaligned h]
  have hl : (readAll s [a]).loadEl (s.cur.getS a + off) n .load = (readAll s [a], .bad (fail .misaligned)) := by
    unfold State.loadEl
    rw [show (readAll s [a]).check (readAll s [a]).cur (s.cur.getS a + off) n (needOf .load) = (readAll s [a], .error (fail .misaligned)) from if_pos h]
  rw [hl]
  refine congrArg (readAll s [a]).takeFault ?_
  obtain ⟨hb, q, o, e⟩ := readAll_eq s [a]
  rw [e]; rfl

/-- A misaligned scalar store faults and performs nothing (R94, R106). -/
theorem storeScalar_misaligned {s : State} {a b : BitVec 5} {off : Word} {n : Nat} (hr : Ready s [a, b]) (h : (s.cur.getS a + off).toNat % n ≠ 0) :
    s.storeScalar a b off n = (readAll s [a, b]).takeFault (plainRec s .misaligned (s.cur.getS a + off) 3 0) := by
  refine (issue_of_ready hr [a, b] [] _ (by simp)).trans ?_
  dsimp only
  rw [readAll_getS, clearOfMst_misaligned h, readAll_getS]
  have hst : (readAll s [a, b]).storeEl (s.cur.getS a + off) n (s.cur.getS b).toNat .store = (readAll s [a, b], some (fail .misaligned)) := by
    unfold State.storeEl
    rw [show (readAll s [a, b]).check (readAll s [a, b]).cur (s.cur.getS a + off) n (needOf .store) = (readAll s [a, b], .error (fail .misaligned)) from if_pos h]
  rw [hst]
  refine congrArg (readAll s [a, b]).takeFault ?_
  obtain ⟨hb, q, o, e⟩ := readAll_eq s [a, b]
  rw [e]; rfl

/-- The pending store a scalar store makes (R264, R225). -/
def ownStore (s : State) (va : Word) (n : Nat) (v : Word) : Pend := ⟨va, ownLoc s va, n, v.toNat % 2 ^ (8 * n), s.tagFor va (ownLoc s va), none⟩

/-- A scalar store to the own scratchpad joins the pending stores (R94, R264). -/
theorem storeScalar_own {s : State} {a b : BitVec 5} {off : Word} {n : Nat} (hr : Ready s [a, b]) (h : OwnAccess s (s.cur.getS a + off) n) :
    let t := s.storeScalar a b off n
    t.cur.pend = s.cur.pend ++ [ownStore s (s.cur.getS a + off) n (s.cur.getS b)] ∧ OnlyScalars { s with cur := { s.cur with pend := t.cur.pend } } t [] ∧ Stepped s t := by
  have hkeep : s.storeScalar a b off n = ((readAll s [a, b]).onCur fun t => { t with pend := t.pend ++ [ownStore s (s.cur.getS a + off) n (s.cur.getS b)] }).retire := by
    refine (issue_of_ready hr [a, b] [] _ (by simp)).trans ?_
    dsimp only
    rw [readAll_getS, clearOfMst_own (h.of_readAll _) rfl, readAll_getS]
    unfold State.storeEl
    rw [check_own (h.of_readAll _) rfl]
    show State.retire ((readAll s [a, b]).onCur fun t => { t with pend := t.pend ++ [⟨_, ownLoc (readAll s [a, b]) _, n, _ % 256 ^ n, (readAll s [a, b]).tagFor _ (ownLoc (readAll s [a, b]) _), none⟩] }) = _
    have htag : (readAll s [a, b]).tagFor (s.cur.getS a + off) (ownLoc s (s.cur.getS a + off)) = s.tagFor (s.cur.getS a + off) (ownLoc s (s.cur.getS a + off)) := by
      obtain ⟨hb, q, o, e⟩ := readAll_eq s [a, b]
      rw [e]; rfl
    rw [readAll_ownLoc, htag, show 256 ^ n = 2 ^ (8 * n) by rw [Nat.pow_mul]]
    rfl
  intro t
  have ht : t = _ := hkeep.trans (State.retire_goOn ((readAll_pre s [a, b]).trans hr.calm))
  obtain ⟨hb, q, o, e⟩ := readAll_eq s [a, b]
  rw [e] at ht
  rw [ht]
  exact ⟨rfl, ⟨fun _ _ => ⟨rfl, rfl⟩, rfl⟩, ⟨rfl, rfl⟩⟩

/-! Sign and zero extension (R95). -/

theorem natOfBytes_overlayPend_lt (loc : Nat) (bs : List Byte) (ps : List Pend) : natOfBytes (overlayPend loc bs ps) < 256 ^ bs.length := by
  have hlen : (overlayPend loc bs ps).length = bs.length := by
    induction ps generalizing bs with
    | nil => rfl
    | cons p ps ih => rw [overlayPend, ih]; simp
  rw [← hlen]
  exact natOfBytes_lt _

/-- A number of fewer than 64 bits, sign-extended (R95). -/
theorem signExtend_extended {n v : Nat} (hn : 0 < n) (hn8 : 8 * n ≤ 64) (hv : v < 2 ^ (8 * n)) : (BitVec.ofNat (8 * n) v).signExtend 64 = extended n true v := by
  have hhalf : 2 * 2 ^ (8 * n - 1) = 2 ^ (8 * n) := by rw [← Nat.pow_succ', Nat.succ_eq_add_one]; congr 1; omega
  have hle : 2 ^ (8 * n) ≤ 2 ^ 64 := Nat.pow_le_pow_right (by decide) hn8
  apply BitVec.eq_of_toInt_eq
  rw [BitVec.toInt_signExtend_of_le hn8, BitVec.toInt_eq_toNat_cond, BitVec.toNat_ofNat, Nat.mod_eq_of_lt hv]
  have hcast : (2 : Int) ^ (8 * n) = ((2 ^ (8 * n) : Nat) : Int) := by push_cast; rfl
  unfold extended
  by_cases hs : 2 ^ (8 * n - 1) ≤ v
  · rw [if_neg (by omega), if_pos ⟨rfl, hs⟩, hcast, BitVec.toInt_ofInt]
    generalize 2 ^ (8 * n) = m at *
    simp only [Int.ofNat_eq_natCast]
    rw [Int.bmod_eq_of_le] <;> omega
  · rw [if_pos (by omega), if_neg (fun h => hs h.2), BitVec.toInt_eq_toNat_cond, BitVec.toNat_ofNat, Nat.mod_eq_of_lt (by omega), if_pos (by omega)]

/-- A scalar load's form is what it runs: its size, and an extension that is the one its name says (R94, R95). -/
theorem loadForm_exec {i : Instr} {d a : BitVec 5} {o : BitVec 12} {n : Nat} {sgn : Bool} (h : loadForm i = some (d, a, o, n, sgn)) :
    ∃ ext : Nat → Word, (∀ s, exec i s = .next (s.loadScalar d a (imm12 o) n ext)) ∧ ∀ v, v < 2 ^ (8 * n) → ext v = extended n sgn v := by
  cases i
  case ldB => cases h; exact ⟨sext8, fun _ => rfl, fun v hv => signExtend_extended (n := 1) (by decide) (by decide) hv⟩
  case ldH => cases h; exact ⟨sext16, fun _ => rfl, fun v hv => signExtend_extended (n := 2) (by decide) (by decide) hv⟩
  case ldW => cases h; exact ⟨sext32, fun _ => rfl, fun v hv => signExtend_extended (n := 4) (by decide) (by decide) hv⟩
  case ldD => cases h; exact ⟨word, fun _ => rfl, fun v _ => rfl⟩
  case ldBz => cases h; exact ⟨word, fun _ => rfl, fun v _ => rfl⟩
  case ldHz => cases h; exact ⟨word, fun _ => rfl, fun v _ => rfl⟩
  case ldWz => cases h; exact ⟨word, fun _ => rfl, fun v _ => rfl⟩
  all_goals cases h

theorem storeForm_exec {i : Instr} {a b : BitVec 5} {o : BitVec 12} {n : Nat} (h : storeForm i = some (a, b, o, n)) (s : State) :
    exec i s = .next (s.storeScalar a b (imm12 o) n) := by
  cases i
  case stB => cases h; rfl
  case stH => cases h; rfl
  case stW => cases h; rfl
  case stD => cases h; rfl
  all_goals cases h

theorem imm12_eq (o : BitVec 12) : imm12 o = BitVec.ofInt 64 o.toInt := rfl

/-- Settles O7: scalar loads and stores on the own scratchpad, and their misaligned forms. -/
theorem loadsAndStores : Obligations.LoadsAndStores := by
  unfold Obligations.LoadsAndStores
  refine ⟨fun s i d a o n sgn hi hr => ?_, fun s i a b o n hi hr => ?_, fun s i d a o n sgn hi hr => ?_, fun s i a b o n hi hr => ?_⟩
  · obtain ⟨ext, hexec, hext⟩ := loadForm_exec hi
    rw [hexec, ← imm12_eq]
    intro va h hw hk
    have hlt : natOfBytes (overlayPend (ownLoc s va) (s.bytesAt (ownLoc s va) n) s.cur.pend) < 2 ^ (8 * n) := by
      refine (natOfBytes_overlayPend_lt _ _ _).trans_eq ?_
      rw [State.bytesAt, SMap.getList_eq_map, List.length_map, List.length_range, Nat.pow_mul]
    rw [← hext _ hlt]
    exact loadScalar_own ext hr h hw hk
  · rw [storeForm_exec hi, ← imm12_eq]
    intro va h
    exact ⟨_, rfl, storeScalar_own hr h⟩
  · obtain ⟨ext, hexec, -⟩ := loadForm_exec hi
    rw [hexec, ← imm12_eq]
    exact fun h => congrArg Host.Outcome.next (loadScalar_misaligned ext hr h)
  · rw [storeForm_exec hi, ← imm12_eq]
    exact fun h => congrArg Host.Outcome.next (storeScalar_misaligned hr h)

end Sys2Proof.Machine
end


section
/-! Vector instructions at their issue and at their end, with no stream register bound (R128, R129, R137, R171). -/

namespace Sys2Proof.Machine
open Sys2Proof.Claims

theorem stripMissing_unbound {s : State} {v : BitVec 5} (h : s.cur.stream v = none) : s.stripMissing v = false := by
  unfold State.stripMissing; rw [h]

theorem takeStrip_unbound {s : State} {v : BitVec 5} (h : s.cur.stream v = none) : s.takeStrip v = s := by
  unfold State.takeStrip; rw [h]

theorem eatStrip_unbound {s : State} {v : BitVec 5} (h : s.cur.stream v = none) : s.eatStrip v = s := by
  unfold State.eatStrip; rw [h]

theorem foldl_id {α β : Type} {f : β → α → β} {b : β} (l : List α) (h : ∀ a ∈ l, f b a = b) : l.foldl f b = b := by
  induction l with
  | nil => rfl
  | cons a l ih => rw [List.foldl_cons, h a List.mem_cons_self]; exact ih fun x hx => h x (List.mem_cons_of_mem _ hx)

/-- Sources that are no stream registers are there as they stand (R171). -/
theorem strips_unbound {s : State} {vs : List (BitVec 5)} (k : State → State) (h : ∀ v ∈ vs, s.cur.stream v = none) : s.strips vs k = k s := by
  unfold State.strips
  rw [List.find?_eq_none.mpr fun v hv => by rw [stripMissing_unbound (h v hv)]; decide]
  exact congrArg k (foldl_id vs fun v hv => takeStrip_unbound (h v hv))

theorem vdone_unbound {s : State} {vs : List (BitVec 5)} (h : ∀ v ∈ vs, s.cur.stream v = none) : s.vdone vs = s.retire :=
  congrArg State.retire (foldl_id _ fun v hv => eatStrip_unbound (h v (List.mem_eraseDups.mp hv)))

@[simp] theorem readAll_vty (s : State) (srcs : List (BitVec 5)) : (readAll s srcs).cur.vty = s.cur.vty := by
  obtain ⟨hb, q, o, e⟩ := readAll_eq s srcs; rw [e]
@[simp] theorem readAll_frm (s : State) (srcs : List (BitVec 5)) : (readAll s srcs).cur.frm = s.cur.frm := by
  obtain ⟨hb, q, o, e⟩ := readAll_eq s srcs; rw [e]
@[simp] theorem readAll_acw (s : State) (srcs : List (BitVec 5)) : (readAll s srcs).cur.acw = s.cur.acw := by
  obtain ⟨hb, q, o, e⟩ := readAll_eq s srcs; rw [e]

/-- A vector instruction of a strand that is ready for it, named by its registers, once its issue check is known (R128, R137). -/
theorem vissue_check {s : State} {srcs vsrcs vdsts vecs : List (BitVec 5)} {ok : Strand → Bool} (k : State → State) (h : VReady s srcs vecs) (hv : ∀ v ∈ vsrcs ++ vdsts, v ∈ vecs) :
    s.vissue srcs [] vsrcs vdsts ok k = if ok (readAll s srcs).cur then k (readAll s srcs) else (readAll s srcs).faultCode .illegalOperand 0 0 0 := by
  have hany : (readAll s srcs).cur.anyStream vdsts = false := by
    refine List.any_eq_false.mpr fun v hm => ?_
    rw [readAll_stream, h.unbound v (hv v (List.mem_append_right _ hm))]
    decide
  refine (issue_of_ready h.ready srcs [] _ (by simp)).trans ?_
  rw [strips_unbound _ fun v hm => by rw [readAll_stream]; exact h.unbound v (hv v (List.mem_append_left _ hm))]
  rw [hany, readAll_laneCount, readAll_mrdQueued, h.rows, if_neg h.lanes, if_neg Bool.false_ne_true]
  cases ok (readAll s srcs).cur <;> rfl

end Sys2Proof.Machine
end

section
/-! A vector destination written at its active positions (R122, R129, R130). -/

namespace Sys2Proof.Machine
open Sys2Proof.Claims

theorem active_mask (t : Strand) (k : BitVec 5) (i : Nat) : active (t.mask k) t.n i = on t k i := by
  unfold active on Strand.mask
  by_cases hk : k = 31
  · subst hk; rfl
  · rw [if_neg hk, decide_eq_false hk]; rfl

theorem Strand.n_mul_width (t : Strand) : t.n * widthOf t.vty ≤ 8192 := by
  have hlanes := t.laneCount_le
  have hmul : t.n * widthOf t.vty ≤ 512 * t.laneCount := Nat.div_mul_le_self ..
  omega

/-- Flags raised position by position, none where a position is not active, are those of the active positions together (R122). -/
theorem foldl_flags (l : List Nat) (on : Nat → Bool) (g : Nat → Nat × Flags) (f : Nat → Flags) (a : Flags) (hon : ∀ i, on i = true → (g i).2 = f i) (hoff : ∀ i, on i = false → (g i).2 = 0) :
    (l.map g).foldl (fun acc r => acc ||| r.2) a = (l.filter on).foldl (fun a i => a ||| f i) a := by
  induction l generalizing a with
  | nil => rfl
  | cons i l ih =>
    rw [List.map_cons, List.foldl_cons, ih]
    by_cases h : on i = true
    · rw [List.filter_cons_of_pos h, List.foldl_cons, hon i h]
    · rw [List.filter_cons_of_neg h, hoff i (Bool.not_eq_true _ ▸ h), show a ||| (0 : Flags) = a from BitVec.or_zero]

/-- What writing the active positions leaves in the register and in the flags. -/
theorem Strand.putActive_spec (t : Strand) (d k : BitVec 5) (f : VReg → Nat → Nat × Flags) :
    Elementwise (widthOf t.vty) t.n (on t k) (t.getV d) ((t.putActive d k f).getV d) (fun i => (f (t.getV d) i).1) ∧
    (t.putActive d k f).fflags = t.fflags ||| flagsOver t.n (on t k) (fun i => (f (t.getV d) i).2) := by
  have hels : ((List.range t.n).map fun i => if active (t.mask k) t.n i then f (t.getV d) i else (elemAt (widthOf t.vty) (t.getV d) i, (0 : Flags))).map Prod.fst =
      (List.range t.n).map fun i => if on t k i then (f (t.getV d) i).1 else elemAt (widthOf t.vty) (t.getV d) i := by
    rw [List.map_map]
    refine List.map_congr_left fun i _ => ?_
    rw [Function.comp, active_mask]
    exact apply_ite Prod.fst _ _ _
  constructor
  · have hput : (t.putActive d k f).getV d = putEls (widthOf t.vty) (t.getV d) ((List.range t.n).map fun i => if on t k i then (f (t.getV d) i).1 else elemAt (widthOf t.vty) (t.getV d) i) := by
      rw [← hels]
      exact Strand.getV_setV_self t d _
    rw [hput]
    exact putEls_elementwise (t.getV d) (on t k) _ t.n_mul_width
  · refine congrArg (t.fflags ||| ·) (foldl_flags (List.range t.n) (on t k) _ _ 0 (fun i hi => ?_) fun i hi => ?_)
    · rw [active_mask, hi]; rfl
    · rw [active_mask, hi]; rfl

theorem Strand.putActive_eq (t : Strand) (d k : BitVec 5) (f : VReg → Nat → Nat × Flags) :
    t.putActive d k f = { t with vregs := (t.putActive d k f).vregs, fflags := (t.putActive d k f).fflags } := rfl

theorem elementwise_congr {w n : Nat} {on : Nat → Bool} {old new : VReg} {f g : Nat → Nat} (h : Elementwise w n on old new f) (hfg : ∀ i, f i % 2 ^ w = g i % 2 ^ w) : Elementwise w n on old new g :=
  ⟨fun i hi => by rw [h.1 i hi, hfg i], h.2⟩

/-- A vector instruction that reads its tokens, writes the active positions of one register and completes. -/
theorem putActive_retire {s : State} (srcs : List (BitVec 5)) (d k : BitVec 5) (f : Strand → VReg → Nat → Nat × Flags) (hp : s.cur.pre = none)
    (hf : ∀ h q o, f { s.cur with hb := h, soon := q, obs := o } = f s.cur) :
    let t := ((readAll s srcs).onCur fun t => t.putActive d k (f t)).retire
    Elementwise (widthOf s.cur.vty) s.cur.n (on s.cur k) (s.cur.getV d) (t.cur.getV d) (fun i => (f s.cur (s.cur.getV d) i).1) ∧
      t.cur.fflags = s.cur.fflags ||| flagsOver s.cur.n (on s.cur k) (fun i => (f s.cur (s.cur.getV d) i).2) ∧ OnlyVectors s t [d] ∧ Stepped s t := by
  intro t
  obtain ⟨h, q, o, e⟩ := readAll_eq s srcs
  have hpre : ((readAll s srcs).onCur fun t => t.putActive d k (f t)).cur.pre = none := (readAll_pre s srcs).trans hp
  have ht : t = _ := State.retire_goOn hpre
  obtain ⟨hels, hflags⟩ := Strand.putActive_spec { s.cur with hb := h, soon := q, obs := o } d k (f s.cur)
  rw [e, State.onCur, hf] at ht
  rw [ht]
  exact ⟨hels, hflags, ⟨fun _ _ => ⟨rfl, rfl⟩, fun v hv => Strand.getV_setV_ne _ _ (List.ne_of_not_mem_cons hv), rfl⟩, ⟨rfl, rfl⟩⟩

end Sys2Proof.Machine
end


section
/-! The integer results of the element operations (R92, R107, R141). -/

namespace Sys2Proof.Machine
open Sys2Proof.Claims

theorem isF_of_isInt {ty : ElTy} (h : isInt ty = true) : isF ty = false := by
  simp only [isInt, decide_eq_true_eq] at h
  simp only [isF, decide_eq_false_iff_not]
  omega

theorem widthOf_pos (ty : ElTy) : 0 < widthOf ty := by cases ty <;> decide

/-- Integers that differ by a multiple of 2^w wrap alike. -/
theorem wrapInt_congr {w : Nat} {x y : Int} (h : x ≡ y [ZMOD (2 ^ w : Nat)]) : wrapInt w x = wrapped w y := congrArg Int.toNat h

theorem wrapped_natCast {w n : Nat} (h : n < 2 ^ w) : wrapped w (n : Int) = n := by
  unfold wrapped
  rw [← Int.natCast_mod, Int.toNat_natCast, Nat.mod_eq_of_lt h]

theorem toSigned_eq {w c : Nat} (hw : 0 < w) (h : c < 2 ^ w) : toSigned w c = signedAt w c := by
  have hhalf : 2 * 2 ^ (w - 1) = 2 ^ w := by rw [← Nat.pow_succ', Nat.succ_eq_add_one]; congr 1; omega
  unfold toSigned signedAt
  rw [Nat.mod_eq_of_lt h]
  dsimp only
  by_cases hs : 2 ^ (w - 1) ≤ c
  · rw [if_pos (by omega), if_pos hs]
  · rw [if_neg (by omega), if_neg hs]

theorem intVal_eq {ty : ElTy} {c : Nat} (h : c < 2 ^ widthOf ty) : intVal ty c = elInt ty c := by
  unfold intVal elInt
  rw [toSigned_eq (widthOf_pos ty) h, Nat.mod_eq_of_lt h]

theorem signedAt_modEq (w c : Nat) : (c : Int) ≡ signedAt w c [ZMOD (2 ^ w : Nat)] := by
  unfold signedAt
  split
  · have h := (Int.modEq_sub_modulus_iff (n := ((2 ^ w : Nat) : Int)) (a := (c : Int)) (b := (c : Int))).mpr rfl
    exact_mod_cast h
  · rfl

/-- A code stands for its value modulo 2^w (R107). -/
theorem elInt_modEq (ty : ElTy) (c : Nat) : (c : Int) ≡ elInt ty c [ZMOD (2 ^ widthOf ty : Nat)] := by
  unfold elInt
  split
  · exact signedAt_modEq ..
  · rfl

/-- The quotient of R92 at width w. -/
theorem divEl_int {ty : ElTy} (m : Rnd) {a b : Nat} (hi : isInt ty = true) (ha : a < 2 ^ widthOf ty) (hb : b < 2 ^ widthOf ty) :
    divEl ty m a b = (if b = 0 then 2 ^ widthOf ty - 1 else wrapped (widthOf ty) ((elInt ty a).tdiv (elInt ty b)), 0) := by
  unfold divEl divInt elInt
  rw [isF_of_isInt hi, if_neg Bool.false_ne_true, Nat.mod_eq_of_lt hb, Nat.mod_eq_of_lt ha, toSigned_eq (widthOf_pos ty) ha, toSigned_eq (widthOf_pos ty) hb]
  refine congrArg (·, (0 : Flags)) ?_
  by_cases h0 : b = 0
  · rw [if_pos h0, if_pos h0]
  · rw [if_neg h0, if_neg h0]
    by_cases hs : isSigned ty = true
    · simp only [hs, if_true]
      rfl
    · simp only [hs]
      have hq : ((a : Int).tdiv (b : Int)) = ((a / b : Nat) : Int) := rfl
      exact (hq ▸ wrapped_natCast ((Nat.div_le_self a b).trans_lt ha)).symm

theorem absEl_int {ty : ElTy} {a : Nat} (hi : isInt ty = true) (ha : a < 2 ^ widthOf ty) : absEl ty a = (wrapped (widthOf ty) (elInt ty a).natAbs, 0) := by
  unfold absEl elInt
  dsimp only
  rw [isF_of_isInt hi, toSigned_eq (widthOf_pos ty) ha]
  by_cases hs : isSigned ty = true
  · simp only [hs, if_true]
    rfl
  · simp only [hs]
    exact congrArg (·, (0 : Flags)) (wrapped_natCast ha).symm

theorem minEl_int {ty : ElTy} {a b : Nat} (hi : isInt ty = true) (ha : a < 2 ^ widthOf ty) (hb : b < 2 ^ widthOf ty) : minEl ty a b = (if elInt ty b < elInt ty a then b else a, 0) := by
  unfold minEl
  rw [isF_of_isInt hi, intVal_eq ha, intVal_eq hb, if_neg Bool.false_ne_true]
  by_cases h : elInt ty b < elInt ty a
  · rw [if_neg (by omega), if_pos h]
  · rw [if_pos (by omega), if_neg h]

theorem maxEl_int {ty : ElTy} {a b : Nat} (hi : isInt ty = true) (ha : a < 2 ^ widthOf ty) (hb : b < 2 ^ widthOf ty) : maxEl ty a b = (if elInt ty a < elInt ty b then b else a, 0) := by
  unfold maxEl
  rw [isF_of_isInt hi, intVal_eq ha, intVal_eq hb, if_neg Bool.false_ne_true]
  by_cases h : elInt ty a < elInt ty b
  · rw [if_neg (by omega), if_pos h]
  · rw [if_pos (by omega), if_neg h]

/-- The integer element operations (R107, R141). -/
theorem intElements {ty : ElTy} (m : Rnd) {d a b : Nat} (hi : isInt ty = true) (_hd : d < 2 ^ widthOf ty) (ha : a < 2 ^ widthOf ty) (hb : b < 2 ^ widthOf ty) :
    let w := widthOf ty
    let v := elInt ty
    addEl ty m a b = (wrapped w (v a + v b), 0) ∧ subEl ty m a b = (wrapped w (v a - v b), 0) ∧ mulEl ty m a b = (wrapped w (v a * v b), 0) ∧
    macEl ty m d a b = (wrapped w (v d + v a * v b), 0) ∧ nmacEl ty m d a b = (wrapped w (v d - v a * v b), 0) ∧
    minEl ty a b = (if v b < v a then b else a, 0) ∧ maxEl ty a b = (if v a < v b then b else a, 0) ∧
    divEl ty m a b = (if b = 0 then 2 ^ w - 1 else wrapped w ((v a).tdiv (v b)), 0) ∧
    sraEl ty a b = (wrapped w (signedAt w a / (2 ^ (b % w) : Nat)), 0) ∧
    mulhEl ty true a b = (wrapped w (signedAt w a * signedAt w b / (2 ^ w : Nat)), 0) ∧
    absEl ty a = (wrapped w (v a).natAbs, 0) ∧ negEl ty a = (wrapped w (- v a), 0) := by
  intro w v
  have hF := isF_of_isInt hi
  have hw := widthOf_pos ty
  have va := elInt_modEq ty a
  have vb := elInt_modEq ty b
  have vd := elInt_modEq ty d
  refine ⟨?_, ?_, ?_, ?_, ?_, minEl_int hi ha hb, maxEl_int hi ha hb, divEl_int m hi ha hb, ?_, ?_, absEl_int hi ha, ?_⟩
  · unfold addEl; rw [hF]; exact congrArg (·, (0 : Flags)) (wrapInt_congr (va.add vb))
  · unfold subEl; rw [hF]; exact congrArg (·, (0 : Flags)) (wrapInt_congr (va.sub vb))
  · unfold mulEl; rw [hF]; exact congrArg (·, (0 : Flags)) (wrapInt_congr (va.mul vb))
  · unfold macEl; rw [hF]; exact congrArg (·, (0 : Flags)) (wrapInt_congr (vd.add (va.mul vb)))
  · unfold nmacEl; rw [hF]; exact congrArg (·, (0 : Flags)) (wrapInt_congr (vd.sub (va.mul vb)))
  · unfold sraEl; rw [toSigned_eq hw ha]; rfl
  · unfold mulhEl; dsimp only; rw [toSigned_eq hw ha, toSigned_eq hw hb]; rfl
  · unfold negEl; rw [hF]; exact congrArg (·, (0 : Flags)) (wrapInt_congr va.neg)

end Sys2Proof.Machine
end

section
/-! The VARI and VARS instructions (R141). -/

namespace Sys2Proof.Machine
open Sys2Proof.Claims

/-- What a vector arithmetic form does (R122, R129, R130, R141). -/
def ArithDone (s : State) (i : Instr) (f : VForm) : Prop :=
  let w := widthOf s.cur.vty
  let n := s.cur.n
  let y (j : Nat) : Nat := if f.scal then (s.cur.getS f.b).toNat % 2 ^ w else elemAt w (s.cur.getV f.b) j
  let r (j : Nat) : Nat × Flags := f.el s.cur.vty s.cur.frm (elemAt w (s.cur.getV f.d) j) (elemAt w (s.cur.getV f.a) j) (y j)
  ∃ t, exec i s = .next t ∧ Elementwise w n (on s.cur f.k) (s.cur.getV f.d) (t.cur.getV f.d) (fun j => (r j).1) ∧
    t.cur.fflags = s.cur.fflags ||| flagsOver n (on s.cur f.k) (fun j => (r j).2) ∧ OnlyVectors s t [f.d] ∧ Stepped s t

/-- An element operation agrees with a form's: the same element modulo 2^w, the same flags. -/
def Agrees (op el : ElTy → Rnd → Nat → Nat → Nat → Nat × Flags) : Prop :=
  ∀ t m o x y, x < 2 ^ widthOf t → y < 2 ^ widthOf t → (op t m o x y).1 % 2 ^ widthOf t = (el t m o x y).1 % 2 ^ widthOf t ∧ (op t m o x y).2 = (el t m o x y).2

theorem Agrees.refl (el : ElTy → Rnd → Nat → Nat → Nat → Nat × Flags) : Agrees el el := fun _ _ _ _ _ _ _ => ⟨rfl, rfl⟩

theorem agrees_sll : Agrees sllOp fun t _ _ x y => (x * 2 ^ (y % widthOf t), 0) := fun _ _ _ _ _ _ _ => ⟨Nat.mod_mod _ _, rfl⟩

theorem agrees_mulhz : Agrees mulhzOp fun t _ _ x y => (x * y / 2 ^ widthOf t, 0) := by
  intro t m o x y hx hy
  refine ⟨?_, rfl⟩
  have hlt : x * y / 2 ^ widthOf t < 2 ^ widthOf t := by
    rw [Nat.div_lt_iff_lt_mul (Nat.two_pow_pos _)]
    exact Nat.mul_lt_mul'' hx hy
  show wrapInt (widthOf t) (((x % 2 ^ widthOf t : Nat) : Int) * (y % 2 ^ widthOf t : Nat) / (2 ^ widthOf t : Nat)) % 2 ^ widthOf t = x * y / 2 ^ widthOf t % 2 ^ widthOf t
  rw [Nat.mod_eq_of_lt hx, Nat.mod_eq_of_lt hy]
  exact congrArg (· % 2 ^ widthOf t) (wrapped_natCast hlt)

theorem elemAt_lt (w : Nat) (v : VReg) (i : Nat) : elemAt w v i < 2 ^ w := Nat.mod_lt _ (Nat.two_pow_pos _)

/-- A form runs as its instruction does when its element operation agrees with the instruction's. -/
theorem arithDone_of {s : State} {i : Instr} {f : VForm} {srcs : List (BitVec 5)} {op : ElOp} (hp : s.cur.pre = none) (ha : Agrees op f.el)
    (hexec : exec i s = .next ((readAll s srcs).onCur fun t => t.putActive f.d f.k fun old j => op t.vty t.frm (elemAt (widthOf t.vty) old j) (elemAt (widthOf t.vty) (t.getV f.a) j)
      (if f.scal then (t.getS f.b).toNat % 2 ^ widthOf t.vty else elemAt (widthOf t.vty) (t.getV f.b) j)).retire) : ArithDone s i f := by
  obtain ⟨hels, hflags, honly, hstep⟩ := putActive_retire srcs f.d f.k (fun t old j => op t.vty t.frm (elemAt (widthOf t.vty) old j) (elemAt (widthOf t.vty) (t.getV f.a) j)
    (if f.scal then (t.getS f.b).toNat % 2 ^ widthOf t.vty else elemAt (widthOf t.vty) (t.getV f.b) j)) hp (fun _ _ _ => rfl)
  have hy (j : Nat) : (if f.scal then (s.cur.getS f.b).toNat % 2 ^ widthOf s.cur.vty else elemAt (widthOf s.cur.vty) (s.cur.getV f.b) j) < 2 ^ widthOf s.cur.vty := by
    split
    · exact Nat.mod_lt _ (Nat.two_pow_pos _)
    · exact elemAt_lt ..
  have hagree (j : Nat) := ha s.cur.vty s.cur.frm (elemAt (widthOf s.cur.vty) (s.cur.getV f.d) j) _ _ (elemAt_lt (widthOf s.cur.vty) (s.cur.getV f.a) j) (hy j)
  refine ⟨_, hexec, elementwise_congr hels fun j => (hagree j).1, hflags.trans ?_, honly, hstep⟩
  exact congrArg (fun g => s.cur.fflags ||| flagsOver s.cur.n (on s.cur f.k) g) (funext fun j => (hagree j).2)

/-- The types a form takes, and the rounding modes (R79, R137, R141). -/
theorem takes_of {s : State} {types : ElTy → Bool} {rounds : Bool} (srcs : List (BitVec 5)) (ht : types s.cur.vty = true) (hr : ¬ (rounds = true ∧ isF s.cur.vty = true ∧ s.cur.frm = .efb)) :
    (readAll s srcs).cur.takes types rounds = true := by
  unfold Strand.takes
  rw [readAll_vty, readAll_frm, ht, Bool.true_and, Bool.not_eq_true', Bool.eq_false_iff]
  simpa [and_assoc] using hr

/-- What the statement supposes of a form (R128, R137, R141). -/
structure FormReady (s : State) (f : VForm) : Prop where
  ready : VReady s (if f.scal then [f.b] else []) (f.d :: f.a :: if f.scal then [] else [f.b])
  types : f.types s.cur.vty = true
  rounding : ¬ (f.rounds = true ∧ isF s.cur.vty = true ∧ s.cur.frm = .efb)

/-- A VARI instruction of two sources. -/
theorem vbin_done {s : State} {i : Instr} {d a b k : BitVec 5} {types : ElTy → Bool} {rounds : Bool} {op : ElOp} {el : ElTy → Rnd → Nat → Nat → Nat → Nat × Flags}
    (hexec : exec i s = .next (s.vbin d a b k types rounds op)) (ha : Agrees op el) (h : FormReady s ⟨d, a, b, k, false, types, rounds, el⟩) : ArithDone s i ⟨d, a, b, k, false, types, rounds, el⟩ := by
  obtain ⟨hready, ht, hr⟩ := h
  have hv : VReady s [] [d, a, b] := hready
  refine arithDone_of (srcs := []) hv.ready.calm ha (hexec.trans (congrArg Host.Outcome.next ?_))
  refine (vissue_check _ hv (by simp)).trans ((if_pos (takes_of [] ht hr)).trans ?_)
  exact vdone_unbound fun v hm => hv.unbound v (List.mem_cons_of_mem d hm)

/-- A VARS instruction. -/
theorem vbinS_done {s : State} {i : Instr} {d a b k : BitVec 5} {types : ElTy → Bool} {rounds : Bool} {op : ElOp} {el : ElTy → Rnd → Nat → Nat → Nat → Nat × Flags}
    (hexec : exec i s = .next (s.vbinS d a b k types rounds op)) (ha : Agrees op el) (h : FormReady s ⟨d, a, b, k, true, types, rounds, el⟩) : ArithDone s i ⟨d, a, b, k, true, types, rounds, el⟩ := by
  obtain ⟨hready, ht, hr⟩ := h
  have hv : VReady s [b] [d, a] := hready
  refine arithDone_of (srcs := [b]) hv.ready.calm ha (hexec.trans (congrArg Host.Outcome.next ?_))
  refine (vissue_check _ hv (by simp)).trans ((if_pos (takes_of [b] ht hr)).trans ?_)
  exact vdone_unbound fun v hm => (readAll_stream s [b] v).trans (hv.unbound v (List.mem_cons_of_mem d hm))

/-- A VARI instruction of one source. -/
theorem vun_done {s : State} {i : Instr} {d a k : BitVec 5} {types : ElTy → Bool} {rounds : Bool} {op : ElTy → Rnd → Nat → Nat × Flags} {el : ElTy → Rnd → Nat → Nat → Nat → Nat × Flags}
    (hexec : exec i s = .next (s.vun d a k types rounds op)) (ha : Agrees (fun t m _ x _ => op t m x) el) (h : FormReady s ⟨d, a, a, k, false, types, rounds, el⟩) :
    ArithDone s i ⟨d, a, a, k, false, types, rounds, el⟩ := by
  obtain ⟨hready, ht, hr⟩ := h
  have hv : VReady s [] [d, a, a] := hready
  refine arithDone_of (srcs := []) hv.ready.calm ha (hexec.trans (congrArg Host.Outcome.next ?_))
  refine (vissue_check _ hv (by simp)).trans ((if_pos (takes_of [] ht hr)).trans ?_)
  exact vdone_unbound fun v hm => hv.unbound v (by simpa using .inr (List.mem_singleton.mp hm))

/-- Every vector arithmetic form does what R141 says. -/
theorem vForm_done {s : State} {i : Instr} {f : VForm} (hi : vForm i = some f) (h : FormReady s f) : ArithDone s i f := by
  cases i <;> cases hi
  case vsll => exact vbin_done rfl agrees_sll h
  case vsllS => exact vbinS_done rfl agrees_sll h
  case vmulhz => exact vbin_done rfl agrees_mulhz h
  case vmulhzS => exact vbinS_done rfl agrees_mulhz h
  case vabs | vneg | vsqrt | vrcp | vrsqrt | vexp2 | vmov => exact vun_done rfl (Agrees.refl _) h
  case vadd | vsub | vmul | vmac | vnmac | vmin | vmax | vdiv | vand | vor | vxor | vsrl | vsra | vmulh => exact vbin_done rfl (Agrees.refl _) h
  all_goals exact vbinS_done rfl (Agrees.refl _) h

/-- Settles O13: each form by its own instruction, and the integer results by arithmetic modulo 2^w. -/
theorem vectorArithmetic : Obligations.VectorArithmetic := by
  unfold Obligations.VectorArithmetic
  exact ⟨fun s i f hi hv ht hr => vForm_done hi ⟨hv, ht, hr⟩, fun ty m d a b hi hd ha hb => intElements m hi hd ha hb⟩

end Sys2Proof.Machine
end


section
/-! Accumulation windows (R166 to R168): the copies of the lane groups. -/

namespace Sys2Proof.Machine
open Sys2Proof.Claims

/-- Whether a copy element is that of a lane group and an offset. -/
def WinEl.isAt (g o : Nat) (x : WinEl) : Bool := decide (x.group = g ∧ x.off = o)

theorem WinEl.isAt_eq {g o : Nat} {x : WinEl} (h : x.isAt g o = true) : x.group = g ∧ x.off = o := of_decide_eq_true h

theorem winCell_nil (g o : Nat) : winCell [] g o = none := rfl

theorem winCell_cons (x : WinEl) (l : List WinEl) (g o : Nat) : winCell (x :: l) g o = if x.isAt g o then some x.val else winCell l g o := by
  unfold winCell WinEl.isAt
  rw [List.find?_cons]
  cases decide (x.group = g ∧ x.off = o) <;> rfl

/-- The first addend of an untouched element goes into the copy under its place alone. -/
theorem winCell_winInsert (e : WinEl) (l : List WinEl) (g o : Nat) (h : winCell l e.group e.off = none) :
    winCell (winInsert e l) g o = if e.isAt g o then some e.val else winCell l g o := by
  induction l with
  | nil => exact winCell_cons ..
  | cons x l ih =>
    have hx : x.isAt e.group e.off = false := by
      by_contra hc
      rw [Bool.not_eq_false] at hc
      rw [winCell_cons, if_pos hc] at h
      exact absurd h (by simp)
    rw [winCell_cons, if_neg (by rw [hx]; decide)] at h
    unfold winInsert
    split
    · rw [winCell_cons, ih h, winCell_cons]
      by_cases he : e.isAt g o = true
      · have hne : x.isAt g o = false := by
          obtain ⟨rfl, rfl⟩ := WinEl.isAt_eq he
          exact hx
        rw [if_pos he, hne, if_pos he]
        exact if_neg Bool.false_ne_true
      · rw [if_neg he, if_neg he]
    · rw [winCell_cons]

/-- A sum into elements already touched changes the value of the element at that place alone. -/
theorem winCell_update (g o v : Nat) (l : List WinEl) (g' o' : Nat) :
    winCell (l.map fun x => if x.isAt g o then { x with val := v } else x) g' o' = if g' = g ∧ o' = o then (winCell l g o).map fun _ => v else winCell l g' o' := by
  induction l with
  | nil => exact (ite_self _).symm
  | cons x l ih =>
    rw [List.map_cons, winCell_cons, ih, winCell_cons, winCell_cons]
    by_cases hx : x.isAt g o = true
    · obtain ⟨hg, ho⟩ := WinEl.isAt_eq hx
      rw [if_pos hx, if_pos hx]
      by_cases he : g' = g ∧ o' = o
      · obtain ⟨rfl, rfl⟩ := he
        rw [if_pos (show ({ x with val := v } : WinEl).isAt g' o' = true from hx), if_pos ⟨rfl, rfl⟩]
        rfl
      · have hx' : ¬ x.isAt g' o' = true := fun hc => he ⟨(WinEl.isAt_eq hc).1 ▸ hg, (WinEl.isAt_eq hc).2 ▸ ho⟩
        rw [if_neg (show ¬ ({ x with val := v } : WinEl).isAt g' o' = true from hx'), if_neg he, if_neg he, if_neg hx']
    · rw [if_neg hx, if_neg hx]
      by_cases he : g' = g ∧ o' = o
      · obtain ⟨rfl, rfl⟩ := he
        rw [if_neg hx, if_pos ⟨rfl, rfl⟩, if_pos ⟨rfl, rfl⟩]
      · rw [if_neg he, if_neg he]

/-- An addend to a copy, element by element (R167). -/
theorem winAdd_cell (ty : ElTy) (g o v : Nat) (l : List WinEl) (g' o' : Nat) :
    winCell (winAdd ty g o v l).1 g' o' = if g' = g ∧ o' = o then added ty (winCell l g o) v else winCell l g' o' := by
  unfold winAdd
  dsimp only
  split
  · next x hx =>
    have hcell : winCell l g o = some x.val := congrArg (Option.map WinEl.val) hx
    refine (winCell_update g o (addEl ty .rne x.val v).1 l g' o').trans ?_
    rw [hcell]
    rfl
  · next hx =>
    have hcell : winCell l g o = none := congrArg (Option.map WinEl.val) hx
    rw [winCell_winInsert _ _ _ _ hcell, hcell]
    by_cases he : g' = g ∧ o' = o
    · obtain ⟨rfl, rfl⟩ := he
      rw [if_pos (show (⟨g', o', v⟩ : WinEl).isAt g' o' = true from decide_eq_true ⟨rfl, rfl⟩), if_pos ⟨rfl, rfl⟩]
      rfl
    · rw [if_neg he, if_neg fun hc => he ⟨(WinEl.isAt_eq hc).1.symm, (WinEl.isAt_eq hc).2.symm⟩]

theorem winAdd_flags (ty : ElTy) (g o v : Nat) (l : List WinEl) : (winAdd ty g o v l).2 = addedFlags ty (winCell l g o) v := by
  unfold winAdd
  dsimp only
  split
  · next x hx => rw [show winCell l g o = some x.val from congrArg (Option.map WinEl.val) hx]; rfl
  · next hx => rw [show winCell l g o = none from congrArg (Option.map WinEl.val) hx]; rfl

theorem mem_winInsert {e y : WinEl} {l : List WinEl} (h : y ∈ winInsert e l) : y = e ∨ y ∈ l := by
  induction l with
  | nil => exact .inl (List.mem_singleton.mp h)
  | cons x l ih =>
    unfold winInsert at h
    split at h
    · rcases List.mem_cons.mp h with rfl | h
      · exact .inr List.mem_cons_self
      · exact (ih h).imp_right (List.mem_cons_of_mem _)
    · exact (List.mem_cons.mp h).imp_right id

/-- An element put into its place keeps the order, where none stands there yet (R168). -/
theorem inOrder_winInsert {e : WinEl} {l : List WinEl} (h : InOrder l) (hnew : winCell l e.group e.off = none) : InOrder (winInsert e l) := by
  induction l with
  | nil => exact List.pairwise_singleton ..
  | cons x l ih =>
    obtain ⟨hx, hl⟩ := List.pairwise_cons.mp h
    rw [winCell_cons] at hnew
    have hne : x.isAt e.group e.off = false := by
      by_contra hc
      rw [Bool.not_eq_false] at hc
      rw [if_pos hc] at hnew
      exact absurd hnew (by simp)
    rw [if_neg (by rw [hne]; decide)] at hnew
    have hplace : ¬ (x.group = e.group ∧ x.off = e.off) := of_decide_eq_false hne
    unfold winInsert
    split
    next hbefore =>
      refine List.pairwise_cons.mpr ⟨fun y hy => ?_, ih hl hnew⟩
      rcases mem_winInsert hy with rfl | hy
      · exact hbefore
      · exact hx y hy
    next hafter =>
      have hex : e.group < x.group ∨ (e.group = x.group ∧ e.off < x.off) := by omega
      refine List.pairwise_cons.mpr ⟨fun y hy => ?_, h⟩
      rcases List.mem_cons.mp hy with rfl | hy
      · exact hex
      · have hxy := hx y hy
        omega

theorem inOrder_winAdd {ty : ElTy} {g o v : Nat} {l : List WinEl} (h : InOrder l) : InOrder (winAdd ty g o v l).1 := by
  unfold winAdd
  dsimp only
  split
  · refine List.pairwise_map.mpr (h.imp fun {x y} hxy => ?_)
    have hplace (x : WinEl) (c : Nat) : (if decide (x.group = g ∧ x.off = o) = true then { x with val := c } else x).group = x.group ∧ (if decide (x.group = g ∧ x.off = o) = true then { x with val := c } else x).off = x.off := by
      split <;> exact ⟨rfl, rfl⟩
    rw [(hplace x _).1, (hplace y _).1, (hplace x _).2, (hplace y _).2]
    exact hxy
  · next hx => exact inOrder_winInsert h (congrArg (Option.map WinEl.val) hx)

/-! The additions of a `vstxa`, one after the other (R167). -/

/-- An addition that a `vstxa` makes: lane group, offset and value. -/
structure Addend where
  group : Nat
  off : Nat
  val : Nat

/-- The copies after some additions. -/
def addAll (ty : ElTy) (l : List Addend) (win : List WinEl) : List WinEl := l.foldl (fun win x => (winAdd ty x.group x.off x.val win).1) win

/-- The flags some additions raise. -/
def addAllFlags (ty : ElTy) : List Addend → List WinEl → Flags → Flags
  | [], _, f => f
  | x :: l, win, f => addAllFlags ty l (winAdd ty x.group x.off x.val win).1 (f ||| (winAdd ty x.group x.off x.val win).2)

theorem addAllFlags_or (ty : ElTy) (l : List Addend) (win : List WinEl) (f g : Flags) : f ||| addAllFlags ty l win g = addAllFlags ty l win (f ||| g) := by
  induction l generalizing win g with
  | nil => rfl
  | cons x l ih => rw [addAllFlags, addAllFlags, ih, BitVec.or_assoc]

theorem or_addAllFlags_zero (ty : ElTy) (l : List Addend) (win : List WinEl) (f : Flags) : f ||| addAllFlags ty l win 0 = addAllFlags ty l win f :=
  (addAllFlags_or ..).trans (congrArg _ BitVec.or_zero)

/-- A copy element after some additions: those of its place added to it, one after the other (R167). -/
theorem addAll_cell (ty : ElTy) (l : List Addend) (win : List WinEl) (g o : Nat) :
    winCell (addAll ty l win) g o = (l.filter fun x => decide (x.group = g ∧ x.off = o)).foldl (fun c x => added ty c x.val) (winCell win g o) := by
  induction l generalizing win with
  | nil => rfl
  | cons x l ih =>
    refine (ih _).trans ?_
    rw [winAdd_cell]
    by_cases h : g = x.group ∧ o = x.off
    · obtain ⟨rfl, rfl⟩ := h
      rw [if_pos ⟨rfl, rfl⟩, List.filter_cons_of_pos (by simp), List.foldl_cons]
    · rw [if_neg h, List.filter_cons_of_neg fun hd => h ((of_decide_eq_true hd).imp Eq.symm Eq.symm)]

theorem addAll_map_cell (ty : ElTy) (a : Nat → Addend) (l : List Nat) (win : List WinEl) (g o : Nat) :
    winCell (addAll ty (l.map a) win) g o = (l.filter fun i => decide ((a i).group = g ∧ (a i).off = o)).foldl (fun c i => added ty c (a i).val) (winCell win g o) := by
  rw [addAll_cell, List.filter_map, List.foldl_map]
  rfl

theorem addAll_inOrder {ty : ElTy} (l : List Addend) {win : List WinEl} (h : InOrder win) : InOrder (addAll ty l win) := by
  induction l generalizing win with
  | nil => exact h
  | cons x l ih => exact ih (inOrder_winAdd h)

/-- The flags of the additions of a rising list of elements: each raises those of its sum with what the elements below it have left (R122, R167). -/
theorem addAllFlags_eq (ty : ElTy) (a : Nat → Addend) (post : List Nat) : ∀ (pre : List Nat) (win : List WinEl) (f : Flags), (pre ++ post).Pairwise (· < ·) →
    addAllFlags ty (post.map a) (addAll ty (pre.map a) win) f =
      post.foldl (fun f i => f ||| addedFlags ty (winCell (addAll ty (((pre ++ post).filter fun j => decide (j < i)).map a) win) (a i).group (a i).off) (a i).val) f := by
  induction post with
  | nil => exact fun _ _ _ _ => rfl
  | cons i post ih =>
    intro pre win f h
    have hsplit : ((pre ++ i :: post).filter fun j => decide (j < i)) = pre := by
      obtain ⟨-, hpost, hpre⟩ := List.pairwise_append.mp h
      have hlow : pre.filter (fun j => decide (j < i)) = pre := List.filter_eq_self.mpr fun j hj => decide_eq_true (hpre j hj i List.mem_cons_self)
      have hhigh : post.filter (fun j => decide (j < i)) = [] :=
        List.filter_eq_nil_iff.mpr fun j hj => by simpa using Nat.le_of_lt ((List.pairwise_cons.mp hpost).1 j hj)
      rw [List.filter_append, List.filter_cons_of_neg (by simp), hlow, hhigh, List.append_nil]
    have hnext := ih (pre ++ [i]) win (f ||| addedFlags ty (winCell (addAll ty (pre.map a) win) (a i).group (a i).off) (a i).val) (by simpa using h)
    have hadd : addAll ty ((pre ++ [i]).map a) win = (winAdd ty (a i).group (a i).off (a i).val (addAll ty (pre.map a) win)).1 := by
      rw [List.map_append, addAll, List.foldl_append]; rfl
    rw [hadd, List.append_assoc, List.singleton_append] at hnext
    rw [List.map_cons, addAllFlags, winAdd_flags, List.foldl_cons, hsplit, hnext]

end Sys2Proof.Machine
end

section
/-! `wopen`, `vstxa` and `wmerge` (R166 to R168). -/

namespace Sys2Proof.Machine
open Sys2Proof.Claims

theorem takes_false (t : Strand) (ty : ElTy → Bool) : t.takes ty false = ty t.vty := Bool.and_true _

/-! `wopen` (R166). -/

/-- A window that R166 lets a strand open. -/
def windowFits (s : State) (va : Word) (len : Nat) : Prop :=
  va.toNat / 2 ^ 56 = 0xF0 ∧ va.toNat % 2 ^ 56 % 64 = 0 ∧ len % 64 = 0 ∧ 64 ≤ len ∧ len ≤ 16384 ∧ va.toNat % 2 ^ 56 + len ≤ 2 ^ 21 ∧ s.cur.acw.getLsbD 63 = false

theorem exec_wopen {s : State} {a b : BitVec 5} (h : VReady s [a, b] []) (ht : tyWide s.cur.vty = true) (hw : windowFits s (s.cur.getS a) (s.cur.getS b).toNat) :
    exec (.wopen a b) s = .next ((readAll s [a, b]).onCur fun t => { t with acw := mkAcw ((s.cur.getS a).toNat % 2 ^ 56) (s.cur.getS b).toNat s.cur.vty, window := [] }).retire := by
  refine congrArg Host.Outcome.next ((vissue_check _ h (by simp)).trans ((if_pos ?_).trans ?_))
  · rw [takes_false, readAll_vty, ht]
  · rw [readAll_getS, readAll_getS]
    refine (if_pos (by rw [readAll_acw]; exact hw)).trans ?_
    dsimp only [State.onCur]
    rw [readAll_vty]

theorem exec_wopen_refused {s : State} {a b : BitVec 5} (h : VReady s [a, b] []) (hw : ¬ (tyWide s.cur.vty = true ∧ windowFits s (s.cur.getS a) (s.cur.getS b).toNat)) :
    exec (.wopen a b) s = .next ((readAll s [a, b]).faultCode .illegalOperand 0 0 0) := by
  refine congrArg Host.Outcome.next ((vissue_check _ h (by simp)).trans ?_)
  rw [takes_false, readAll_vty]
  by_cases ht : tyWide s.cur.vty = true
  · rw [if_pos ht, readAll_getS, readAll_getS]
    exact if_neg fun hc => hw ⟨ht, by rw [readAll_acw] at hc; exact hc⟩
  · exact if_neg ht

/-! `vstxa` (R167). -/

/-- The addition that element i of a `vstxa` makes (R167). -/
def addendAt (t : Strand) (d : BitVec 5) (addr : Nat → Word) (i : Nat) : Addend :=
  ⟨i * widthOf t.vty / 512, (addr i).toNat - ownBase.toNat, elemAt (widthOf t.vty) (t.getV d) i⟩

/-- Elements that all pass their check are added one after the other (R167). -/
theorem winSeq_all (d : BitVec 5) (addr : Nat → Word) (l : List Nat) : ∀ (t : Strand) (fl : Flags), (∀ i ∈ l, t.winCheck (addr i) (widthOf t.vty / 8) = none) →
    t.winSeq d fl (l.map fun i => ⟨i, 0, addr i⟩) =
      ({ t with window := addAll t.vty (l.map (addendAt t d addr)) t.window }, addAllFlags t.vty (l.map (addendAt t d addr)) t.window fl, none) := by
  induction l with
  | nil => exact fun _ _ _ => rfl
  | cons i l ih =>
    intro t fl h
    rw [List.map_cons, Strand.winSeq]
    dsimp only
    rw [h i List.mem_cons_self]
    dsimp only
    rw [ih { t with window := (winAdd t.vty (i * widthOf t.vty / 512) ((addr i).toNat - ownBase.toNat) (elemAt (widthOf t.vty) (t.getV d) i) t.window).1 } _
      fun j hj => h j (List.mem_cons_of_mem _ hj)]
    rfl

/-- The window `vstxa` finds open is one of `vty` (R167). -/
def windowOurs (s : State) : Prop := tyWide s.cur.vty = true ∧ s.cur.acw.getLsbD 63 = true ∧ ElTy.ofCode (s.cur.acw.toNat / 2 ^ 44 % 32) = some s.cur.vty

theorem exec_vstxa_refused {s : State} {d a b k : BitVec 5} (h : VReady s [a] [d, b]) (hw : ¬ windowOurs s) :
    exec (.vstxa d a b k) s = .next ((readAll s [a]).faultCode .illegalOperand 0 0 0) := by
  refine congrArg Host.Outcome.next ((vissue_check _ h (by simp)).trans ?_)
  rw [takes_false, readAll_vty]
  by_cases ht : tyWide s.cur.vty = true
  · rw [if_pos ht, readAll_acw]
    refine if_neg fun hc => hw ⟨ht, ?_⟩
    rw [Bool.and_eq_true, decide_eq_true_eq] at hc
    exact hc
  · exact if_neg ht

/-- The active elements' addresses of a `vstxa`. -/
theorem accs_on (t : Strand) (k : BitVec 5) (f : Nat → Word) : t.accs k f = ((List.range t.n).filter (on t k)).map fun i => ⟨i, 0, f i⟩ := by
  unfold Strand.accs activeList
  exact congrArg _ (List.filter_congr fun i _ => active_mask t k i)

theorem exec_vstxa {s : State} {d a b k : BitVec 5} (h : VReady s [a] [d, b]) (hw : windowOurs s)
    (hin : ∀ i ∈ (List.range s.cur.n).filter (on s.cur k), s.cur.winCheck (s.cur.indexAddr a b i) (widthOf s.cur.vty / 8) = none) :
    let l := ((List.range s.cur.n).filter (on s.cur k)).map (addendAt s.cur d (s.cur.indexAddr a b))
    exec (.vstxa d a b k) s = .next ((readAll s [a]).onCur fun t => { t with window := addAll s.cur.vty l s.cur.window, fflags := s.cur.fflags ||| addAllFlags s.cur.vty l s.cur.window 0 }).retire := by
  intro l
  obtain ⟨ht, hopen, hty⟩ := hw
  obtain ⟨hb, q, o, e⟩ := readAll_eq s [a]
  have hseq : (readAll s [a]).cur.winSeq d 0 ((readAll s [a]).cur.accs k ((readAll s [a]).cur.indexAddr a b)) =
      ({ (readAll s [a]).cur with window := addAll s.cur.vty l s.cur.window }, addAllFlags s.cur.vty l s.cur.window 0, none) := by
    rw [accs_on, e]
    exact winSeq_all d (s.cur.indexAddr a b) _ { s.cur with hb := hb, soon := q, obs := o } 0 hin
  refine congrArg Host.Outcome.next ((vissue_check _ h (by simp)).trans ((if_pos ?_).trans ((if_pos ?_).trans ?_)))
  · rw [takes_false, readAll_vty, ht]
  · rw [readAll_acw, readAll_vty, Bool.and_eq_true, decide_eq_true_eq]
    exact ⟨hopen, hty⟩
  · rw [hseq]
    refine (vdone_unbound fun v hv => ?_).trans ?_
    · rw [e]; exact h.unbound v hv
    · rw [e]; rfl

/-! `wmerge` (R168). -/

/-- The state as a merge goes on: stores pending and releases observed. -/
def State.merging (s : State) (ps : List Pend) (o : List Nat) : State := { s with cur := { s.cur with pend := ps, obs := o } }

theorem merging_own {s : State} {va : Word} {n : Nat} (h : OwnAccess s va n) (ps : List Pend) (o : List Nat) : OwnAccess (s.merging ps o) va n :=
  ⟨h.size, h.window, h.range, h.aligned, h.lease, h.plain, h.written, h.clean, h.apart⟩

/-- A store of one element to the own scratchpad (R264). -/
theorem storeEl_own {s : State} {va : Word} {n : Nat} (h : OwnAccess s va n) (v : Nat) {kind : AccKind} (hx : (needOf kind).x = false) :
    s.storeEl va n v kind = (s.onCur fun t => { t with pend := t.pend ++ [pendOf s va n v] }, none) := by
  unfold State.storeEl
  rw [check_own h hx]
  refine congrArg (·, none) ?_
  show (s.onCur fun t => { t with pend := t.pend ++ [⟨va, ownLoc s va, n, v % 256 ^ n, s.tagFor va (ownLoc s va), none⟩] }) = _
  rw [show 256 ^ n = 2 ^ (8 * n) by rw [Nat.pow_mul]]
  rfl

/-- A merge of elements that may all be read and written makes a store for each, in order (R168). -/
theorem mergeAll_own {s : State} (ty : ElTy) (l : List WinEl) : ∀ (ps : List Pend) (o : List Nat),
    (∀ x ∈ l, OwnAccess s (ownVa x.off) (widthOf ty / 8) ∧ AllKnown s (ownLoc s (ownVa x.off)) (widthOf ty / 8)) →
    ∃ o', (s.merging ps o).mergeAll ty l = (s.merging (mergedStores s ty l ps) o', none) := by
  induction l with
  | nil => exact fun ps o _ => ⟨o, rfl⟩
  | cons x l ih =>
    intro ps o h
    obtain ⟨hown, hknown⟩ := h x List.mem_cons_self
    obtain ⟨r, hr⟩ := State.loadHere_known (s := s.merging ps o) (ownHit (s.merging ps o) (ownVa x.off)).key (ownLoc_notHbm s (ownVa x.off)) hknown hown.written
    obtain ⟨o', ho'⟩ := ih (ps ++ [pendOf s (ownVa x.off) (widthOf ty / 8) (addEl ty .rne (ownWith s ps (ownVa x.off) (widthOf ty / 8)) x.val).1]) (r ++ o)
      fun y hy => h y (List.mem_cons_of_mem _ hy)
    refine ⟨o', ?_⟩
    have hload : (s.merging ps o).loadHere (ownHit (s.merging ps o) (ownVa x.off)).key (ownHit (s.merging ps o) (ownVa x.off)).loc (widthOf ty / 8) =
        (ownWith s ps (ownVa x.off) (widthOf ty / 8), s.merging ps (r ++ o)) := hr
    have hstore := storeEl_own (merging_own hown ps (r ++ o)) (addEl ty .rne (ownWith s ps (ownVa x.off) (widthOf ty / 8)) x.val).1 (kind := .vecStore) rfl
    have hva : ownBase + word x.off = ownVa x.off := (BitVec.ofNat_add ..).symm
    rw [State.mergeAll]
    dsimp only
    rw [hva, check_own (merging_own hown ps o) rfl]
    dsimp only
    rw [if_neg (show ¬ (ownHit (s.merging ps o) (ownVa x.off)).sable = true from Bool.false_ne_true), hload]
    dsimp only
    rw [hstore]
    exact ho'

theorem ownWith_readAll (s : State) (srcs : List (BitVec 5)) (ps : List Pend) (va : Word) (n : Nat) : ownWith (readAll s srcs) ps va n = ownWith s ps va n := by
  obtain ⟨hb, q, o, e⟩ := readAll_eq s srcs
  rw [e]; rfl

theorem pendOf_readAll (s : State) (srcs : List (BitVec 5)) (va : Word) (n v : Nat) : pendOf (readAll s srcs) va n v = pendOf s va n v := by
  obtain ⟨hb, q, o, e⟩ := readAll_eq s srcs
  rw [e]; rfl

theorem mergedStores_readAll (s : State) (srcs : List (BitVec 5)) (ty : ElTy) (l : List WinEl) (ps : List Pend) : mergedStores (readAll s srcs) ty l ps = mergedStores s ty l ps := by
  induction l generalizing ps with
  | nil => rfl
  | cons x l ih => rw [mergedStores, mergedStores, ih, ownWith_readAll, pendOf_readAll]

@[simp] theorem readAll_mstQueued (s : State) (srcs : List (BitVec 5)) : (readAll s srcs).mstQueued = s.mstQueued := by
  obtain ⟨hb, q, o, e⟩ := readAll_eq s srcs
  rw [e]; rfl

/-- `wmerge` before it knows whose window is open (R168). -/
theorem exec_wmerge {s : State} {a : BitVec 5} (h : VReady s [a] []) (hm : s.mstQueued = false) : exec (.wmerge a) s = .next (
    if acwOpen s.cur.acw && decide (s.cur.getS a = ownBase + word (acwBase s.cur.acw)) then
      (match acwType s.cur.acw with
        | none => (readAll s [a]).faultCode .illegalOperand 0 0 0
        | some ty => match (readAll s [a]).mergeAll ty (readAll s [a]).cur.window with
          | (s1, none) => (s1.onCur fun t => { t with acw := 0, window := [] }).retire
          | (_, some (f, va)) => (readAll s [a]).takeFault ((readAll s [a]).faultRec f va 7 0))
    else (readAll s [a]).faultCode .illegalOperand 0 0 0) := by
  refine congrArg Host.Outcome.next ((vissue_check _ h (by simp)).trans ((if_pos rfl).trans ((if_neg (by rw [readAll_mstQueued, hm]; decide)).trans ?_)))
  dsimp only
  rw [readAll_acw, readAll_getS] <;> rfl

/-- The address `wmerge` is to name (R168). -/
theorem wmerge_ours {s : State} {a : BitVec 5} : (acwOpen s.cur.acw && decide (s.cur.getS a = ownBase + word (acwBase s.cur.acw))) = true ↔
    s.cur.acw.getLsbD 63 = true ∧ s.cur.getS a = ownVa (s.cur.acw.toNat % 2 ^ 22) := by
  have hva : ownBase + word (acwBase s.cur.acw) = ownVa (s.cur.acw.toNat % 2 ^ 22) := (BitVec.ofNat_add ..).symm
  rw [hva, Bool.and_eq_true, decide_eq_true_eq]
  rfl

/-- `wmerge` of the strand's own window, every touched element of which may be read and written (R168). -/
theorem exec_wmerge_done {s : State} {a : BitVec 5} {ty : ElTy} (h : VReady s [a] []) (hm : s.mstQueued = false) (hty : acwType s.cur.acw = some ty)
    (hours : s.cur.acw.getLsbD 63 = true ∧ s.cur.getS a = ownVa (s.cur.acw.toNat % 2 ^ 22))
    (hx : ∀ x ∈ s.cur.window, OwnAccess s (ownVa x.off) (widthOf ty / 8) ∧ AllKnown s (ownLoc s (ownVa x.off)) (widthOf ty / 8)) :
    ∃ o', exec (.wmerge a) s = .next (((readAll s [a]).merging (mergedStores s ty s.cur.window s.cur.pend) o').onCur fun t => { t with acw := 0, window := [] }).retire := by
  have hread : ∀ x ∈ s.cur.window, OwnAccess (readAll s [a]) (ownVa x.off) (widthOf ty / 8) ∧ AllKnown (readAll s [a]) (ownLoc (readAll s [a]) (ownVa x.off)) (widthOf ty / 8) :=
    fun x hmem => ⟨(hx x hmem).1.of_readAll _, by rw [readAll_ownLoc]; exact allKnown_readAll _ (hx x hmem).2⟩
  obtain ⟨o', hmerge⟩ := mergeAll_own ty s.cur.window s.cur.pend (readAll s [a]).cur.obs hread
  have hsame : (readAll s [a]).merging s.cur.pend (readAll s [a]).cur.obs = readAll s [a] := by
    obtain ⟨hb, q, o, e⟩ := readAll_eq s [a]
    rw [e]; rfl
  have hwin : (readAll s [a]).cur.window = s.cur.window := by
    obtain ⟨hb, q, o, e⟩ := readAll_eq s [a]
    rw [e]
  rw [mergedStores_readAll, hsame] at hmerge
  refine ⟨o', (exec_wmerge h hm).trans (congrArg Host.Outcome.next ?_)⟩
  rw [if_pos (wmerge_ours.mpr hours), hty, hwin]
  dsimp only
  rw [hmerge]

theorem Strand.getS_congr {t u : Strand} {r : BitVec 5} (h : t.sregs = u.sregs) : t.getS r = u.getS r := by
  unfold Strand.getS
  rw [h]

theorem Strand.isFull_congr {t u : Strand} {r : BitVec 5} (h : t.full = u.full) : t.isFull r = u.isFull r := by
  unfold Strand.isFull
  rw [h]

/-- What a merge leaves once its copies are discarded (R168). -/
theorem merged_onlyScalars (s : State) (srcs : List (BitVec 5)) (ps : List Pend) (o : List Nat) (pc : Word) (ls : List LoopLvl) :
    OnlyScalars { s with cur := { s.cur with acw := 0, window := [], pend := ps } } ((((readAll s srcs).merging ps o).onCur fun t => { t with acw := 0, window := [] }).goOn pc ls) [] := by
  obtain ⟨hb, q, o', e⟩ := readAll_eq s srcs
  rw [e]
  dsimp only [State.merging, State.onCur, State.goOn, Strand.clear]
  exact ⟨fun _ _ => ⟨Strand.getS_congr rfl, Strand.isFull_congr rfl⟩, rfl⟩

theorem wmerge_done {s : State} {a : BitVec 5} {ty : ElTy} (h : VReady s [a] []) (hm : s.mstQueued = false) (hty : acwType s.cur.acw = some ty)
    (hours : s.cur.acw.getLsbD 63 = true ∧ s.cur.getS a = ownVa (s.cur.acw.toNat % 2 ^ 22))
    (hx : ∀ x ∈ s.cur.window, OwnAccess s (ownVa x.off) (widthOf ty / 8) ∧ AllKnown s (ownLoc s (ownVa x.off)) (widthOf ty / 8)) :
    ∃ t, exec (.wmerge a) s = .next t ∧ t.cur.pend = mergedStores s ty s.cur.window s.cur.pend ∧ t.cur.acw = 0 ∧ t.cur.window = [] ∧
      OnlyScalars { s with cur := { s.cur with acw := 0, window := [], pend := t.cur.pend } } t [] ∧ Stepped s t := by
  obtain ⟨o', hexec⟩ := exec_wmerge_done h hm hty hours hx
  replace hexec := hexec.trans (congrArg Host.Outcome.next (State.retire_goOn (by exact (readAll_pre s [a]).trans h.ready.calm)))
  refine ⟨_, hexec, rfl, rfl, rfl, merged_onlyScalars s [a] _ o' _ _, ?_, ?_⟩
  · exact congrArg (fun p : Word × List LoopLvl × Bool => p.1) (congrArg₂ endOfBody (readAll_pc s [a]) (readAll_loops s [a]))
  · exact congrArg (fun p : Word × List LoopLvl × Bool => p.2.1) (congrArg₂ endOfBody (readAll_pc s [a]) (readAll_loops s [a]))

theorem wmerge_refused {s : State} {a : BitVec 5} (h : VReady s [a] []) (hm : s.mstQueued = false) (hours : ¬ (s.cur.acw.getLsbD 63 = true ∧ s.cur.getS a = ownVa (s.cur.acw.toNat % 2 ^ 22))) :
    exec (.wmerge a) s = .next ((readAll s [a]).faultCode .illegalOperand 0 0 0) := by
  rw [exec_wmerge h hm, if_neg (mt wmerge_ours.mp hours)]

/-! The obligation. -/

/-- An address of the own scratchpad, by its offset (R166). -/
theorem ownOffset {va : Word} (h : va.toNat / 2 ^ 56 = 0xF0) : va.toNat - ownBase.toNat = va.toNat % 2 ^ 56 ∧ ownBase.toNat ≤ va.toNat := by
  have hbase : ownBase.toNat = 0xF0 * 2 ^ 56 := by decide
  rw [hbase]; omega

theorem winCheck_inside {t : Strand} {va : Word} (ht : tyWide t.vty = true) (h : va.toNat / 2 ^ 56 = 0xF0) (hal : va.toNat % 2 ^ 56 % (widthOf t.vty / 8) = 0)
    (hlo : t.acw.toNat % 2 ^ 22 ≤ va.toNat % 2 ^ 56) (hhi : va.toNat % 2 ^ 56 + widthOf t.vty / 8 ≤ t.acw.toNat % 2 ^ 22 + t.acw.toNat / 2 ^ 22 % 2 ^ 22) :
    t.winCheck va (widthOf t.vty / 8) = none := by
  have hsize : widthOf t.vty / 8 = 4 ∨ widthOf t.vty / 8 = 8 := by
    revert ht
    cases t.vty <;> decide
  obtain ⟨hoff, hbase⟩ := ownOffset h
  have haligned : va.toNat % (widthOf t.vty / 8) = 0 := by
    rcases hsize with h8 | h8 <;> rw [h8] at hal ⊢ <;> omega
  unfold Strand.winCheck
  dsimp only
  rw [if_neg (not_not_intro haligned), hoff]
  exact if_pos ⟨hbase, hlo, hhi⟩

/-- What a `vstxa` leaves: its copies and the flags, besides what every instruction may write (R167). -/
theorem added_onlyScalars (s : State) (srcs : List (BitVec 5)) (win : List WinEl) (f : Flags) (pc : Word) (ls : List LoopLvl) :
    OnlyScalars { s with cur := { s.cur with window := win, fflags := f } } (((readAll s srcs).onCur fun t => { t with window := win, fflags := f }).goOn pc ls) [] := by
  obtain ⟨hb, q, o, e⟩ := readAll_eq s srcs
  rw [e]
  dsimp only [State.onCur, State.goOn, Strand.clear]
  exact ⟨fun _ _ => ⟨Strand.getS_congr rfl, Strand.isFull_congr rfl⟩, rfl⟩

/-- What `wopen` leaves (R166). -/
theorem opened_onlyScalars (s : State) (srcs : List (BitVec 5)) (acw : Word) (pc : Word) (ls : List LoopLvl) :
    OnlyScalars { s with cur := { s.cur with acw := acw, window := [] } } (((readAll s srcs).onCur fun t => { t with acw := acw, window := [] }).goOn pc ls) [] := by
  obtain ⟨hb, q, o, e⟩ := readAll_eq s srcs
  rw [e]
  dsimp only [State.onCur, State.goOn, Strand.clear]
  exact ⟨fun _ _ => ⟨Strand.getS_congr rfl, Strand.isFull_congr rfl⟩, rfl⟩

theorem wopen_done {s : State} {a b : BitVec 5} {acw : Word} (h : VReady s [a, b] []) (hexec : exec (.wopen a b) s = .next ((readAll s [a, b]).onCur fun t => { t with acw := acw, window := [] }).retire) :
    ∃ t, exec (.wopen a b) s = .next t ∧ t.cur.acw = acw ∧ t.cur.window = [] ∧
      OnlyScalars { s with cur := { s.cur with acw := t.cur.acw, window := [] } } t [] ∧ Stepped s t := by
  replace hexec := hexec.trans (congrArg Host.Outcome.next (State.retire_goOn (by exact (readAll_pre s [a, b]).trans h.ready.calm)))
  refine ⟨_, hexec, rfl, rfl, opened_onlyScalars s [a, b] _ _ _, ?_, ?_⟩
  · exact congrArg (fun p : Word × List LoopLvl × Bool => p.1) (congrArg₂ endOfBody (readAll_pc s [a, b]) (readAll_loops s [a, b]))
  · exact congrArg (fun p : Word × List LoopLvl × Bool => p.2.1) (congrArg₂ endOfBody (readAll_pc s [a, b]) (readAll_loops s [a, b]))

/-- The lanes of a `vstxa`, where each of its addresses is an offset of the own scratchpad (R167). -/
theorem vstxa_done {s : State} {d a b k : BitVec 5} {off : Nat → Nat} (h : VReady s [a] [d, b]) (hw : windowOurs s)
    (hin : ∀ i ∈ (List.range s.cur.n).filter (on s.cur k), s.cur.winCheck (s.cur.indexAddr a b i) (widthOf s.cur.vty / 8) = none ∧ (s.cur.indexAddr a b i).toNat - ownBase.toNat = off i) :
    let lit := (List.range s.cur.n).filter (on s.cur k)
    let w := widthOf s.cur.vty
    let sum (l : List Nat) (g x : Nat) : Option Nat := (l.filter fun i => decide (i * w / 512 = g ∧ off i = x)).foldl
      (fun c i => added s.cur.vty c (elemAt w (s.cur.getV d) i)) (winCell s.cur.window g x)
    ∃ t, exec (.vstxa d a b k) s = .next t ∧
      (∀ g x, winCell t.cur.window g x = sum lit g x) ∧ (InOrder s.cur.window → InOrder t.cur.window) ∧
      t.cur.fflags = lit.foldl (fun f i => f ||| addedFlags s.cur.vty (sum (lit.filter fun j => decide (j < i)) (i * w / 512) (off i)) (elemAt w (s.cur.getV d) i)) s.cur.fflags ∧
      OnlyScalars { s with cur := { s.cur with window := t.cur.window, fflags := t.cur.fflags } } t [] ∧ Stepped s t := by
  intro lit w sum
  have hexec := (exec_vstxa h hw fun i hi => (hin i hi).1).trans (congrArg Host.Outcome.next (State.retire_goOn (by exact (readAll_pre s [a]).trans h.ready.calm)))
  have hadd : lit.map (addendAt s.cur d (s.cur.indexAddr a b)) = lit.map fun i => ⟨i * w / 512, off i, elemAt w (s.cur.getV d) i⟩ :=
    List.map_congr_left fun i hi => by rw [addendAt, (hin i hi).2]
  have hrising : lit.Pairwise (· < ·) := List.pairwise_lt_range.filter _
  refine ⟨_, hexec, ?_, fun ho => addAll_inOrder (ty := s.cur.vty) (lit.map (addendAt s.cur d (s.cur.indexAddr a b))) ho, ?_, added_onlyScalars s [a] _ _ _ _, ?_, ?_⟩
  · intro g x
    refine (congrArg (fun l => winCell (addAll s.cur.vty l s.cur.window) g x) hadd).trans ?_
    exact addAll_map_cell ..
  · show s.cur.fflags ||| addAllFlags s.cur.vty (lit.map (addendAt s.cur d (s.cur.indexAddr a b))) s.cur.window 0 = _
    rw [hadd, or_addAllFlags_zero]
    refine (addAllFlags_eq s.cur.vty _ lit [] s.cur.window s.cur.fflags hrising).trans ?_
    simp only [addAll_map_cell, List.nil_append]
    rfl
  · exact congrArg (fun p : Word × List LoopLvl × Bool => p.1) (congrArg₂ endOfBody (readAll_pc s [a]) (readAll_loops s [a]))
  · exact congrArg (fun p : Word × List LoopLvl × Bool => p.2.1) (congrArg₂ endOfBody (readAll_pc s [a]) (readAll_loops s [a]))

/-- Settles O12: the additions of a `vstxa` and the stores of a `wmerge` are taken one after the other. -/
theorem accumulationWindow : Obligations.AccumulationWindow := by
  unfold Obligations.AccumulationWindow
  refine ⟨fun s a b h => ?_, fun s d a b k h => ?_, fun s a ty h hm hty _ _ => ?_⟩
  · exact ⟨fun hw => wopen_done h (exec_wopen h hw.1 hw.2), exec_wopen_refused h⟩
  · refine ⟨fun hw hin => vstxa_done h hw fun i hi => ?_, exec_vstxa_refused h⟩
    obtain ⟨hwin, hal, hlo, hhi⟩ := hin i hi
    exact ⟨winCheck_inside hw.1 hwin hal hlo hhi, (ownOffset hwin).1⟩
  · exact ⟨fun hours hx => wmerge_done h hm hty hours hx, wmerge_refused h hm⟩

end Sys2Proof.Machine
end


section
/-! Fields of a record that stands in near memory, and places that no translation is behind (R8, R223, R279). -/

namespace Sys2Proof.Machine
open Sys2Proof.Claims

/-- A number in memory, cut in two (R8). -/
theorem State.peek_add (s : State) (loc k m : Nat) : s.peek loc (k + m) = s.peek loc k + 256 ^ k * s.peek (loc + k) m := by
  induction k generalizing loc with
  | zero => simp [State.peek, State.bytesAt, SMap.getList, natOfBytes]
  | succ k ih =>
    have hcons (j : Nat) : s.peek loc (j + 1) = (s.mem.get memDefault loc).toNat + 256 * s.peek (loc + 1) j := rfl
    rw [Nat.add_right_comm k 1 m, hcons, hcons, ih (loc + 1), Nat.pow_succ, show loc + 1 + k = loc + (k + 1) by omega]
    ring

theorem State.peek_lt (s : State) (loc n : Nat) : s.peek loc n < 256 ^ n := by
  have h := natOfBytes_lt (s.bytesAt loc n)
  rwa [State.bytesAt, SMap.getList_eq_map, List.length_map, List.length_range, ← SMap.getList_eq_map] at h

/-- A field of a record (R8). -/
theorem State.peek_field (s : State) (loc o n r : Nat) : s.peek (loc + o) n = recField (s.peek loc (o + (n + r))) o n := by
  have hpos : 0 < 256 ^ o := Nat.pow_pos (by decide)
  rw [recField, s.peek_add loc o, Nat.add_mul_div_left _ _ hpos, Nat.div_eq_of_lt (s.peek_lt loc o), Nat.zero_add, s.peek_add (loc + o) n r,
    Nat.add_mul_mod_self_left, Nat.mod_eq_of_lt (s.peek_lt ..)]

/-- A translation that succeeds has a leaf (R289). -/
theorem State.translate_leaf {s : State} {cl root key va : Nat} {core : Option Nat} {n : Need} {h : Hit} (ht : (s.translate cl core root key n va).2 = .ok h) : h.leaf.isSome = true := by
  unfold State.translate at ht
  repeat' split at ht
  all_goals cases ht
  all_goals rfl

/-- An address that leads to no leaf is near, and its check changes nothing (R209, R279). -/
theorem State.place_plain {s u : State} {t : Strand} {va : Word} {n : Nat} {nd : Need} {h : Hit} (hp : s.place t va n nd false = (u, .ok h)) (hl : h.leaf = none) : u = s := by
  unfold State.place at hp
  split at hp
  · cases hp
  · split at hp
    · repeat' split at hp
      all_goals cases hp
      all_goals rfl
    · dsimp only at hp
      split at hp
      · cases hp
      · next s1 hit ht =>
        have hleaf := State.translate_leaf (congrArg Prod.snd ht)
        split at hp
        · cases hp
        · cases hp
          rw [hl] at hleaf
          exact absurd hleaf (by decide)

/-- The checks of a lock in near memory change nothing (R223). -/
theorem State.lockCheck_plain {s u : State} {va : Word} {h : Hit} (hc : s.lockCheck va = (u, .ok h)) (hl : h.leaf = none) : u = s := by
  unfold State.lockCheck at hc
  split at hc
  · cases hc
  · split at hc
    · cases hc
    · next s1 hit hp =>
      repeat' split at hc
      all_goals cases hc
      exact State.place_plain hp hl

theorem lockAt_same {s u : State} {va : Word} {h : Hit} {v : Nat} (hl : LockAt s va u h v) : u = s := State.lockCheck_plain hl.got hl.plain

/-- A lock instruction goes on with the lock it reaches in near memory (R223). -/
theorem withLock_at {s u : State} {va : Word} {h : Hit} {v : Nat} (hl : LockAt s va u h v) (k : Hit → Nat → State → State) : s.withLock va k = k h v u := by
  unfold State.withLock
  rw [hl.got]
  dsimp only
  rw [if_pos hl.here, State.peekKey_near _ _ _ hl.near, hl.bytes]
  exact if_pos hl.fields

/-! The fields of a lock (R223). -/

theorem lkHolder_eq (v : Nat) : lkHolder v = (lockFields v).1 := rfl

theorem lkGen_eq (v : Nat) : lkGen v = (lockFields v).2.1 := by
  refine BitVec.eq_of_toNat_eq ?_
  show (v / 256 ^ 4 % 256 ^ 4) % 2 ^ 32 = v / 2 ^ 32 % 2 ^ 32
  omega

theorem lkLen_eq (v : Nat) : lkLen v = (lockFields v).2.2.2 := rfl

section
variable {s u : State} {va : Word} {h : Hit} {v : Nat} (hl : LockAt s va u h v)
include hl

theorem lockAt_notHbm (k : Nat) : isHbm (h.loc + k) = false := by
  have hnear := of_decide_eq_false hl.near
  exact decide_eq_false (by omega)

theorem lockAt_holder : u.lockHolder h.loc = (lockFields v).1 := by
  rw [State.lockHolder, State.objGet_near _ _ hl.near, ← lkHolder_eq, lkHolder, ← hl.bytes]
  refine BitVec.eq_of_toNat_eq ?_
  have hfield := u.peek_field h.loc 0 4 28
  rw [Nat.add_zero] at hfield
  rw [hfield, recField, BitVec.toNat_ofNat, BitVec.toNat_ofNat]
  show u.peek h.loc 32 / 1 % 256 ^ 4 % 2 ^ 32 = u.peek h.loc 32 % 2 ^ 32
  omega

theorem lockAt_gen : u.lockGen h.loc = (lockFields v).2.1 := by
  rw [State.lockGen, State.objGet_near _ _ (lockAt_notHbm hl 4), u.peek_field h.loc 4 4 24, hl.bytes, ← lkGen_eq]
  rfl

theorem lockAt_len : (u.lockLen h.loc = 0) = ((lockFields v).2.2.2 = 0) := by
  rw [State.lockLen, State.objGet_near _ _ (lockAt_notHbm hl 16), u.peek_field h.loc 16 8 8, hl.bytes, ← lkLen_eq]
  have hlt : lkLen v < 2 ^ 64 := Nat.mod_lt _ (by decide)
  refine propext ⟨fun h0 => ?_, fun h0 => ?_⟩
  · have hnat := congrArg BitVec.toNat h0
    rw [word, BitVec.toNat_ofNat, show recField v 16 8 = lkLen v from rfl, Nat.mod_eq_of_lt hlt] at hnat
    exact hnat
  · rw [show recField v 16 8 = lkLen v from rfl, h0]
    rfl

end

end Sys2Proof.Machine
end

section
/-! What a wait that ends leaves alone (R74, R76). -/

namespace Sys2Proof.Claims
open Sys2Proof.Machine

section
variable {s t : State} {kind code : Nat} {phase : BitVec 32} {wabs v : Word} {d : BitVec 5} (h : Ended s t kind phase code wabs d v)
include h

theorem Ended.mem : t.mem = s.mem := congrArg (fun x => x.mem) h.rest.rest
theorem Ended.rels : t.rels = s.rels := congrArg (fun x => x.rels) h.rest.rest
theorem Ended.lockRels : t.lockRels = s.lockRels := congrArg (fun x => x.lockRels) h.rest.rest
theorem Ended.locks : t.cur.locks = s.cur.locks := congrArg (fun x => x.cur.locks) h.rest.rest
theorem Ended.guards : t.cur.guards = s.cur.guards := congrArg (fun x => x.cur.guards) h.rest.rest
theorem Ended.pend : t.cur.pend = s.cur.pend := congrArg (fun x => x.cur.pend) h.rest.rest

/-- The instruction completes in order from every state of the same pc and loop stack. -/
theorem Ended.stepped {u : State} (hpc : s.cur.pc = u.cur.pc) (hloops : s.cur.loops = u.cur.loops) : Stepped u t :=
  ⟨by rw [← hpc, ← hloops]; exact h.order.pc, by rw [← hpc, ← hloops]; exact h.order.loops⟩

end

end Sys2Proof.Claims

namespace Sys2Proof.Machine
open Sys2Proof.Claims

theorem waiting_self (s : State) : Waiting s s := ⟨s, rfl⟩

/-- An instruction that ends its wait in a state. -/
theorem finish_ended_here {s : State} {kind : Nat} (phase : BitVec 32) (o : WaitOutcome) (a : Word) (d : BitVec 5) (v : Word) (hp : s.cur.pre = none) (hk : kind < 256) :
    Ended s (s.finish kind phase o a d v) kind phase o.code a d v := finish_ended phase o a d v (waiting_self s) hp hk

/-! `acq` in near memory (R224). -/

/-- The state in which `acq` has taken its lock and acquired what was released through it. -/
def lockTaken (s : State) (loc : Nat) (va : Word) : State :=
  (s.lockTake loc va).2.acquire (scopeOfLoc s.cur.sid loc) ((s.lockRels.get [] loc).take 1 ++ s.lastRel loc 4)

theorem homeDecide_lock {s : State} {w : Wait} {loc : Nat} {va : Word} (hw : w.obj = .lock loc va) :
    s.homeDecide w = if s.lockHolder loc = 0 then some ((lockTaken s loc va).finish 2 (s.lockGen loc + 1) .met 0 w.sd 0) else none := by
  unfold State.homeDecide
  rw [hw]
  rfl

theorem lapse_lock {s : State} {w : Wait} {loc : Nat} {va : Word} (hw : w.obj = .lock loc va) :
    s.lapse w = s.finish 2 (s.lockGen loc) (if w.past then .pastOnEntry else .expired) (holderId (s.lockHolder loc)) w.sd (holderId (s.lockHolder loc)) := by
  unfold State.lapse
  rw [hw]

theorem metHeld_lock {s : State} {w : Wait} {loc : Nat} {va : Word} (hw : w.obj = .lock loc va) : s.metHeld w = false := by
  unfold State.metHeld
  rw [hw]

/-- The wait `acq` has its lock's bytes polled under before it waits for the lock (R74). -/
def polledWait (s : State) (kind : Nat) (sd : BitVec 5) (d : Word) : Wait := ⟨.polled, kind, sd, some (s.clampDl d), decide (d.toNat ≤ s.jtime.toNat), s.ticket, none⟩

theorem enterPoll_fresh {s : State} (kind : Nat) (sd : BitVec 5) (d : Word) (hw : s.cur.wait = none) :
    s.enterPoll kind sd d = (s.onCur fun t => { t with polledAt := s.jtime }).entered (polledWait s kind sd d) := by
  unfold State.enterPoll
  rw [hw]
  exact State.waitOn_entered _ _ _ _ _ _ hw

/-- A deadline wait entered by a strand that polls for it: its home decides it, or its deadline has passed, or it stays (R74). -/
theorem deadlineWait_polled {s : State} {p : Wait} {o : WaitObj} {b : Word} (kind : Nat) (sd : BitVec 5) (d : Word) (hw : s.cur.wait = some p) (hp : p.obj = .polled) (hb : p.bound = some b) (ho : o ≠ .polled)
    (ht : p.past = true ∨ s.jtime.toNat ≤ b.toNat) :
    let w : Wait := ⟨o, kind, sd, some b, p.past, s.ticket, none⟩
    s.deadlineWait o kind sd d = match (s.entered w).homeDecide w with
      | some t => t
      | none => if p.past && !(s.entered w).metHeld w then (s.entered w).lapse w else s.entered w := by
  intro w
  obtain ⟨obj, k, sd', bound, past, arr, expiry⟩ := p
  obtain rfl : obj = .polled := hp
  obtain rfl : bound = some b := hb
  have hpoll : s.pollDl d = (b, past) := by unfold State.pollDl; rw [hw]
  have hwait : s.waitOn o kind sd (some b) past none = s.entered w := by
    unfold State.waitOn
    rw [hw]
    exact if_neg fun h => ho h.symm
  have hlate : (!past && decide (b.toNat < s.jtime.toNat)) = false := by
    rcases ht with ht | ht
    · rw [show past = true from ht]; rfl
    · rw [decide_eq_false (Nat.not_lt.mpr ht), Bool.and_false]
  unfold State.deadlineWait
  rw [hpoll]
  dsimp only
  rw [hwait]
  show (if (!past && decide (b.toNat < s.jtime.toNat)) = true then _ else _) = _
  rw [hlate, if_neg Bool.false_ne_true] <;> rfl

@[simp] theorem readAll_replies (s : State) (srcs : List (BitVec 5)) : (readAll s srcs).cur.replies = s.cur.replies := by
  obtain ⟨hb, q, o, e⟩ := readAll_eq s srcs
  rw [e]

theorem swapped_none {t : Strand} (h : t.replies = []) : t.swapped = none := by
  unfold Strand.swapped
  rw [h]
  split
  · next hv => cases hv
  · rfl

theorem State.entered_jtime (s : State) (w : Wait) : (s.entered w).jtime = s.jtime := rfl
theorem polledAt_jtime (s : State) (x : Word) : (s.onCur fun t => { t with polledAt := x }).jtime = s.jtime := rfl

/-- The state in which `acq` looks at its lock. -/
def acqState (s : State) (d a b : BitVec 5) : State := (readAll s [a, b]).enterPoll 2 d (s.cur.getS b)

/-- The wait `acq` enters for a lock in near memory. -/
def acqWait (s : State) (d a b : BitVec 5) (loc : Nat) : Wait :=
  ⟨.lock loc (s.cur.getS a), 2, d, some (clamped s (s.cur.getS b)), decide ((s.cur.getS b).toNat ≤ s.jtime.toNat), (acqState s d a b).ticket, none⟩

/-- `acq` of a lock another strand holds, or of a free one, waits for it (R224). -/
theorem exec_acq {s u : State} {d a b : BitVec 5} {h : Hit} {v : Nat} (hr : Ready s [a, b, d]) (hw : s.cur.wait = none) (hrep : s.cur.replies = []) (ht : s.jtime.toNat + s.cur.dlMax.toNat < 2 ^ 64)
    (hl : LockAt (acqState s d a b) (s.cur.getS a) u h v) (hme : (lockFields v).1 ≠ u.cur.sid ||| 1#32) (hg : (lockFields v).2.2.2 ≠ 0 → u.cur.guards.length < 4) :
    let w := acqWait s d a b h.loc
    exec (.acq d a b) s = .next (match (u.entered w).homeDecide w with
      | some t => t
      | none => if w.past && !(u.entered w).metHeld w then (u.entered w).lapse w else u.entered w) := by
  intro w
  obtain rfl := lockAt_same hl
  have hwait : (readAll s [a, b]).cur.wait = none := (readAll_wait ..).trans hw
  have hstate : acqState s d a b = ((readAll s [a, b]).onCur fun t => { t with polledAt := (readAll s [a, b]).jtime }).entered (polledWait (readAll s [a, b]) 2 d (s.cur.getS b)) := enterPoll_fresh _ _ _ hwait
  have hpend : (acqState s d a b).cur.wait = some (polledWait (readAll s [a, b]) 2 d (s.cur.getS b)) := by rw [hstate]; rfl
  have hjt : (acqState s d a b).jtime = s.jtime := by rw [hstate, State.entered_jtime, polledAt_jtime, readAll_jtime]
  have hbound : (readAll s [a, b]).clampDl (s.cur.getS b) = clamped s (s.cur.getS b) := (clampDl_eq _ (by simpa using ht)).trans (readAll_clamped ..)
  have hpast : (polledWait (readAll s [a, b]) 2 d (s.cur.getS b)).past = decide ((s.cur.getS b).toNat ≤ s.jtime.toNat) := by rw [polledWait, readAll_jtime]
  refine congrArg Host.Outcome.next ((issue_of_ready hr [a, b] [d] _ (by simp)).trans ?_)
  rw [swapped_none ((readAll_replies ..).trans hrep)]
  dsimp only
  rw [readAll_getS, readAll_getS]
  refine (withLock_at hl _).trans ?_
  rw [if_neg (show ¬ lkHolder v = (acqState s d a b).me from hme), if_neg (show ¬ (lkLen v ≠ 0 ∧ (acqState s d a b).cur.guards.length ≥ 4) from fun hc => by have := hg hc.1; omega), if_pos hl.here]
  refine (deadlineWait_polled (b := clamped s (s.cur.getS b)) 2 d _ hpend rfl (congrArg some hbound) (by simp) ?_).trans ?_
  · rw [hpast, decide_eq_true_eq, hjt]
    have := clamped_toNat (s.cur.getS b) ht
    omega
  · rw [hpast]
    rfl

end Sys2Proof.Machine
end


section
/-! A lock taken, released and taken over (R224 to R227). -/

namespace Sys2Proof.Machine
open Sys2Proof.Claims

/-- The bytes of two numbers, one above the other (R8). -/
theorem bytesOfNat_add (k m : Nat) {a : Nat} (b : Nat) (ha : a < 256 ^ k) : bytesOfNat (k + m) (a + 256 ^ k * b) = bytesOfNat k a ++ bytesOfNat m b := by
  induction k generalizing a with
  | zero =>
    obtain rfl : a = 0 := by simpa using ha
    simp [bytesOfNat]
  | succ k ih =>
    have hshift : 256 ^ (k + 1) * b = 256 * (256 ^ k * b) := by rw [Nat.pow_succ]; ring
    have hdiv : (a + 256 ^ (k + 1) * b) / 256 = a / 256 + 256 ^ k * b := by rw [hshift]; omega
    have hlow : BitVec.ofNat 8 (a + 256 ^ (k + 1) * b) = BitVec.ofNat 8 a := by
      refine BitVec.eq_of_toNat_eq ?_
      rw [BitVec.toNat_ofNat, BitVec.toNat_ofNat, hshift]
      omega
    rw [Nat.add_right_comm k 1 m, bytesOfNat, bytesOfNat, hdiv, hlow, ih (by rw [Nat.pow_succ] at ha; omega)]
    rfl

/-- Holder and generation as the bytes a lock begins with (R223). -/
theorem lockHead_bytes (h g : BitVec 32) : bytesOfNat 8 (h.toNat + g.toNat * 2 ^ 32) = bytesOfNat 4 h.toNat ++ bytesOfNat 4 g.toNat := by
  rw [← bytesOfNat_add 4 4 g.toNat (by have := h.isLt; omega), Nat.mul_comm]
  rfl

/-! Writes of objects by the current strand. -/

theorem State.atomicPut_cur (s : State) (key loc n v : Nat) (rel : Option Nat) : (s.atomicPut key loc n v rel).cur = { s.cur with hb := s.cur.hb ||| 2 ^ s.nextW } := by
  show { (s.homeWrite key loc n v rel).cur with hb := (s.homeWrite key loc n v rel).cur.hb ||| 2 ^ s.nextW } = _
  rw [State.homeWrite_cur]

theorem State.atomicPut_bytesAt (s : State) (key loc n v : Nat) (rel : Option Nat) : (s.atomicPut key loc n v rel).bytesAt loc n = bytesOfNat n v := s.homeWrite_bytesAt key loc n v rel

theorem State.atomicPut_other (s : State) (key loc n v : Nat) (rel : Option Nat) (x : Nat) (h : x < loc ∨ loc + n ≤ x) :
    (s.atomicPut key loc n v rel).mem.get memDefault x = s.mem.get memDefault x := s.homeWrite_other key loc n v rel x h

/-! `acq` (R224). -/

theorem lockTake_gen (s : State) (loc : Nat) (va : Word) : (s.lockTake loc va).1 = s.lockGen loc + 1 := rfl

theorem lockTake_mem (s : State) (loc : Nat) (va : Word) :
    (s.lockTake loc va).2.mem = (s.objPut loc 8 ((s.cur.sid ||| 1#32).toNat + (s.lockGen loc + 1).toNat * 2 ^ 32) none).mem := rfl

theorem lockTake_cur (s : State) (loc : Nat) (va : Word) : ∃ hb, (s.lockTake loc va).2.cur = { s.cur with
    hb := hb, guards := if s.lockLen loc = 0 then s.cur.guards else ⟨loc, va, s.lockBase loc, s.lockLen loc, s.lockGen loc + 1⟩ :: s.cur.guards.filter (fun x => decide (x.lock ≠ loc))
    locks := loc :: s.cur.locks.filter (fun x => decide (x ≠ loc)) } := by
  refine ⟨s.cur.hb ||| 2 ^ s.nextW, ?_⟩
  have hcur := s.atomicPut_cur (if isHbm loc then s.curKey else 0) loc 8 ((s.cur.sid ||| 1#32).toNat + (s.lockGen loc + 1).toNat * 2 ^ 32) none
  show (State.onCur (s.objPut loc 8 ((s.cur.sid ||| 1#32).toNat + (s.lockGen loc + 1).toNat * 2 ^ 32) none) fun t => { t with
    guards := if s.lockLen loc = 0 then t.guards else ⟨loc, va, s.lockBase loc, s.lockLen loc, s.lockGen loc + 1⟩ :: t.guards.filter (fun x => decide (x.lock ≠ loc))
    locks := loc :: t.locks.filter (fun x => decide (x ≠ loc)) }).cur = _
  unfold State.objPut
  rw [State.onCur, hcur]

theorem entered_lockHolder (s : State) (w : Wait) (loc : Nat) : (s.entered w).lockHolder loc = s.lockHolder loc := rfl
theorem entered_lockLen (s : State) (w : Wait) (loc : Nat) : (s.entered w).lockLen loc = s.lockLen loc := rfl
theorem entered_lockGen (s : State) (w : Wait) (loc : Nat) : (s.entered w).lockGen loc = s.lockGen loc := rfl

theorem enteredPolled_pre (s : State) (w : Wait) (x : Word) : ((s.onCur fun t => { t with polledAt := x }).entered w).cur.pre = s.cur.pre := rfl
theorem enteredPolled_getS (s : State) (w : Wait) (x : Word) (r : BitVec 5) : ((s.onCur fun t => { t with polledAt := x }).entered w).cur.getS r = s.cur.getS r := rfl

/-- A free lock is taken in one step (R224). -/
theorem acq_takes {u : State} {w : Wait} {loc : Nat} {va : Word} (d : BitVec 5) (hpre : u.cur.pre = none) :
    let t := (lockTaken (u.entered w) loc va).finish 2 (u.lockGen loc + 1) .met 0 d 0
    t.bytesAt loc 8 = bytesOfNat 4 (u.cur.sid ||| 1#32).toNat ++ bytesOfNat 4 (u.lockGen loc + 1).toNat ∧
    (∀ x, x < loc ∨ loc + 8 ≤ x → t.mem.get memDefault x = u.mem.get memDefault x) ∧ loc ∈ t.cur.locks ∧
    (u.lockLen loc ≠ 0 → ∃ g ∈ t.cur.guards, g.lock = loc ∧ g.gen = u.lockGen loc + 1) ∧
    wstFields t.cur.wst = (0, false, u.lockGen loc + 1, 2) ∧ t.cur.wabs = 0 ∧ Holds t d 0 ∧ Stepped u t := by
  intro t
  obtain ⟨hb, hcur⟩ := lockTake_cur (u.entered w) loc va
  have htaken : (lockTaken (u.entered w) loc va).cur = { (((u.entered w).lockTake loc va).2).cur with
      hb := (lockTaken (u.entered w) loc va).cur.hb, obs := [], soon := 0 } := rfl
  rw [hcur] at htaken
  have hend : Ended (lockTaken (u.entered w) loc va) t 2 (u.lockGen loc + 1) 0 0 d 0 := finish_ended_here _ .met 0 d 0 (by rw [htaken]; exact hpre) (by decide)
  have hmem : t.mem = ((u.entered w).objPut loc 8 ((u.cur.sid ||| 1#32).toNat + (u.lockGen loc + 1).toNat * 2 ^ 32) none).mem := hend.mem
  refine ⟨?_, fun x hx => ?_, ?_, fun hlen => ?_, hend.wst, hend.wabs, hend.dest, hend.stepped (by rw [htaken]; rfl) (by rw [htaken]; rfl)⟩
  · rw [State.bytesAt, hmem]
    exact (State.atomicPut_bytesAt ..).trans (lockHead_bytes ..)
  · rw [hmem]
    exact State.atomicPut_other _ _ _ _ _ _ _ hx
  · rw [hend.locks, htaken]
    exact List.mem_cons_self
  · rw [hend.guards, htaken]
    dsimp only
    rw [entered_lockLen, if_neg hlen]
    exact ⟨_, List.mem_cons_self, rfl, congrArg (· + 1) (entered_lockGen u w loc)⟩

theorem waitsFor_entered_here (u : State) (w : Wait) : WaitsFor u (u.entered w) w.obj w.bound := ⟨⟨w, rfl, rfl, rfl⟩, rfl, rfl, rfl, rfl, rfl⟩

/-- What `acq` does with a lock in near memory that the strand does not hold (R224). -/
theorem acq_near {s u : State} {d a b : BitVec 5} {h : Hit} {v : Nat} (hr : Ready s [a, b, d]) (hw : s.cur.wait = none) (hrep : s.cur.replies = []) (ht : s.jtime.toNat + s.cur.dlMax.toNat < 2 ^ 64)
    (hl : LockAt (acqState s d a b) (s.cur.getS a) u h v) (hme : (lockFields v).1 ≠ u.cur.sid ||| 1#32) (hg : (lockFields v).2.2.2 ≠ 0 → u.cur.guards.length < 4) :
    let holder := (lockFields v).1
    let gen := (lockFields v).2.1
    let len := (lockFields v).2.2.2
    let dl := u.cur.getS b
    (holder = 0 → ∃ t, exec (.acq d a b) s = .next t ∧ t.bytesAt h.loc 8 = bytesOfNat 4 (u.cur.sid ||| 1#32).toNat ++ bytesOfNat 4 (gen + 1).toNat ∧
      (∀ x, x < h.loc ∨ h.loc + 8 ≤ x → t.mem.get memDefault x = u.mem.get memDefault x) ∧ h.loc ∈ t.cur.locks ∧ (len ≠ 0 → ∃ g ∈ t.cur.guards, g.lock = h.loc ∧ g.gen = gen + 1) ∧
      wstFields t.cur.wst = (0, false, gen + 1, 2) ∧ t.cur.wabs = 0 ∧ Holds t d 0 ∧ Stepped u t) ∧
    (holder ≠ 0 → dl.toNat ≤ s.jtime.toNat → ∃ t, exec (.acq d a b) s = .next t ∧ Ended u t 2 gen 5 ((holder &&& ~~~1#32).setWidth 64) d ((holder &&& ~~~1#32).setWidth 64)) ∧
    (holder ≠ 0 → s.jtime.toNat < dl.toNat → ∃ t, exec (.acq d a b) s = .next t ∧ WaitsFor u t (.lock h.loc (s.cur.getS a)) (some (clamped s dl))) := by
  intro holder gen len dl
  have hexec := exec_acq hr hw hrep ht hl hme hg
  dsimp only at hexec
  obtain rfl := lockAt_same hl
  have hholder : ((acqState s d a b).entered (acqWait s d a b h.loc)).lockHolder h.loc = holder := (entered_lockHolder ..).trans (lockAt_holder hl)
  have hgen : (acqState s d a b).lockGen h.loc = gen := lockAt_gen hl
  have hpre : (acqState s d a b).cur.pre = none := by
    rw [acqState, enterPoll_fresh _ _ _ ((readAll_wait ..).trans hw)]
    exact (enteredPolled_pre ..).trans ((readAll_pre s [a, b]).trans hr.calm)
  have hdl : dl = s.cur.getS b := by
    rw [show dl = (acqState s d a b).cur.getS b from rfl, acqState, enterPoll_fresh _ _ _ ((readAll_wait ..).trans hw)]
    exact (enteredPolled_getS ..).trans (readAll_getS s [a, b] b)
  have hdecide := homeDecide_lock (s := (acqState s d a b).entered (acqWait s d a b h.loc)) (w := acqWait s d a b h.loc) rfl
  rw [hholder] at hdecide
  refine ⟨fun h0 => ?_, fun h0 hd => ?_, fun h0 hd => ?_⟩
  · rw [if_pos h0, entered_lockGen, hgen, show (acqWait s d a b h.loc).sd = d from rfl] at hdecide
    rw [hdecide] at hexec
    dsimp only at hexec
    have htake := acq_takes (w := acqWait s d a b h.loc) (loc := h.loc) (va := s.cur.getS a) d hpre
    rw [hgen] at htake
    obtain ⟨hbytes, hmem, hlocks, hguards, hrest⟩ := htake
    exact ⟨_, hexec, hbytes, hmem, hlocks, fun hlen => hguards (by rw [ne_eq, lockAt_len hl]; exact hlen), hrest⟩
  · rw [if_neg h0] at hdecide
    rw [hdl] at hd
    rw [hdecide, metHeld_lock rfl, show (acqWait s d a b h.loc).past = true from decide_eq_true hd] at hexec
    have hlapse := lapse_lock (s := (acqState s d a b).entered (acqWait s d a b h.loc)) (w := acqWait s d a b h.loc) rfl
    rw [hholder, entered_lockGen, hgen, show (acqWait s d a b h.loc).past = true from decide_eq_true hd] at hlapse
    dsimp only at hexec
    rw [if_pos (by decide), hlapse, if_pos rfl] at hexec
    exact ⟨_, hexec, finish_ended gen .pastOnEntry (holderId holder) d (holderId holder) ((waiting_self _).entered _) hpre (by decide)⟩
  · rw [if_neg h0] at hdecide
    rw [hdl] at hd ⊢
    rw [hdecide, metHeld_lock rfl, show (acqWait s d a b h.loc).past = false from decide_eq_false (Nat.not_le.mpr hd)] at hexec
    dsimp only at hexec
    rw [if_neg (by decide)] at hexec
    exact ⟨_, hexec, waitsFor_entered_here _ _⟩

end Sys2Proof.Machine
end


section
/-! A release that publishes the strand's pending stores in memory of this package (R225, R264). -/

namespace Sys2Proof.Machine
open Sys2Proof.Claims

/-- A byte of a number written to memory (R8). -/
theorem SMap.get_setList_bytesOfNat (m : SMap Byte) (loc n v x : Nat) :
    (SMap.setList memDefault m loc (bytesOfNat n v)).get memDefault x = if loc ≤ x ∧ x < loc + n then BitVec.ofNat 8 (v / 256 ^ (x - loc)) else m.get memDefault x := by
  induction n generalizing m loc v with
  | zero => rw [if_neg (by omega)]; rfl
  | succ n ih =>
    rw [bytesOfNat, SMap.setList, ih]
    by_cases hx : x = loc
    · subst hx
      rw [if_neg (by omega), SMap.get_set_self, if_pos (by omega), Nat.sub_self, Nat.pow_zero, Nat.div_one]
    · rw [SMap.get_set_ne _ _ _ hx]
      by_cases hin : loc + 1 ≤ x ∧ x < loc + 1 + n
      · rw [if_pos hin, if_pos (by omega), Nat.div_div_eq_div_mul, ← Nat.pow_succ', show (x - (loc + 1)).succ = x - loc by omega]
      · rw [if_neg hin, if_neg (by omega)]

/-- What performing stores in memory of this package changes, and what it leaves alone. -/
structure Performed (s t : State) (l : List (Pend × Nat × Nat)) : Prop where
  mem : ∀ x, t.mem.get memDefault x = laidOver l x (s.mem.get memDefault x)
  cur : ∃ hb, t.cur = { s.cur with hb := hb }
  rels : t.rels = s.rels
  nextRel : t.nextRel = s.nextRel
  lockRels : t.lockRels = s.lockRels

theorem State.writeHome_byte (s : State) (key loc n v unit : Nat) (rels : List Nat) (by_ : Option Nat) (join : Bool) (x : Nat) :
    (s.writeHome key loc n v unit rels by_ join).mem.get memDefault x = if loc ≤ x ∧ x < loc + n then BitVec.ofNat 8 (v / 256 ^ (x - loc)) else s.mem.get memDefault x := by
  have hmem : (s.writeHome key loc n v unit rels by_ join).mem = SMap.setList memDefault s.mem loc (bytesOfNat n v) := State.notePartial_mem ..
  rw [hmem, SMap.get_setList_bytesOfNat]

theorem publishOne_performed (s : State) (rel : Option Nat) (rl join : Bool) {x : Pend × Nat × Nat} (hx : isHere x.2.1 = true) : Performed s (s.publishOne rel rl join x) [x] := by
  obtain ⟨p, loc, key⟩ := x
  unfold State.publishOne
  dsimp only
  rw [if_pos hx]
  refine ⟨s.writeHome_byte key loc p.n p.val p.n rel.toList (some s.cur.uid) join, ⟨s.cur.hb ||| 2 ^ (if join then s.nextW - 1 else s.nextW), ?_⟩,
    s.writeHome_rels key loc p.n p.val p.n rel.toList (some s.cur.uid) join, s.writeHome_nextRel key loc p.n p.val p.n rel.toList (some s.cur.uid) join,
    s.writeHome_lockRels key loc p.n p.val p.n rel.toList (some s.cur.uid) join⟩
  rw [State.onCur, State.writeHome_cur]

theorem Performed.append {s t u : State} {l m : List (Pend × Nat × Nat)} (h : Performed s t l) (g : Performed t u m) : Performed s u (l ++ m) := by
  obtain ⟨hb, hcur⟩ := h.cur
  obtain ⟨gb, gcur⟩ := g.cur
  refine ⟨fun x => ?_, ⟨gb, by rw [gcur, hcur]⟩, g.rels.trans h.rels, g.nextRel.trans h.nextRel, g.lockRels.trans h.lockRels⟩
  rw [g.mem, h.mem, laidOver, laidOver, laidOver, List.foldl_append]

/-- Stores are performed in their order (R264). -/
theorem publishAll_performed (s : State) (rel : Option Nat) (rl : Bool) (last : Option Nat) {l : List (Pend × Nat × Nat)} (hl : ∀ x ∈ l, isHere x.2.1 = true) : Performed s (s.publishAll rel rl last l) l := by
  induction l generalizing s last with
  | nil => exact ⟨fun _ => rfl, ⟨s.cur.hb, rfl⟩, rfl, rfl, rfl⟩
  | cons x l ih => exact (publishOne_performed s rel rl _ (hl x List.mem_cons_self)).append (ih _ _ fun y hy => hl y (List.mem_cons_of_mem _ hy))

/-! Which stores are published, and where they go (R225). -/

theorem findLocks_none (s : State) {ps : List Pend} (h : ∀ p ∈ ps, ∀ k g, p.tag = some (k, g) → staleVa k = none) : s.findLocks ps = (s, none) := by
  induction ps with
  | nil => rfl
  | cons p ps ih =>
    have htail := ih fun q hq => h q (List.mem_cons_of_mem _ hq)
    unfold State.findLocks
    split
    · exact htail
    · next k g ht =>
      rw [h p List.mem_cons_self k g ht]
      exact htail

theorem genNeeded_none (s : State) {ps : List Pend} (h : ∀ p ∈ ps, ∀ k g, p.tag = some (k, g) → isHere k = true) : s.genNeeded ps = none := by
  unfold State.genNeeded
  refine List.findSome?_eq_none_iff.mpr fun p hp => ?_
  split
  · next k g ht => exact if_pos (by rw [h p hp k g ht]; rfl)
  · rfl

theorem tagLive_near {s : State} {p : Pend} (h : ∀ k g, p.tag = some (k, g) → isHere k = true ∧ isHbm k = false) : s.tagLive p = stillGuarded s p := by
  unfold State.tagLive stillGuarded
  cases ht : p.tag with
  | none => rfl
  | some kg =>
    obtain ⟨k, g⟩ := kg
    obtain ⟨hhere, hnear⟩ := h k g ht
    have hword : isHbm (k + 4) = false := by
      have := of_decide_eq_false hnear
      exact decide_eq_false (by omega)
    dsimp only
    rw [if_pos hhere, State.peekKey_near _ _ _ hword]

/-- Every store that is still guarded has its place (R225, R304). -/
theorem placeAll_placed {s : State} {ps : List Pend} : ∀ {l : List (Pend × Nat × Nat)}, (∀ p ∈ ps, s.tagLive p = stillGuarded s p) → l.map (·.1) = ps.filter (stillGuarded s) →
    (∀ x ∈ l, isNear x.1.va = true → x.2.1 = x.1.loc ∧ x.2.2 = 0) →
    (∀ x ∈ l, isNear x.1.va = false → ∃ h, s.place s.cur x.1.va x.1.n (needOf .store) false = (s, .ok h) ∧ h.loc = x.2.1 ∧ h.key = x.2.2) → s.placeAll ps = (s, .ok l) := by
  induction ps with
  | nil =>
    intro l _ hl _ _
    rw [List.map_eq_nil_iff.mp hl]
    rfl
  | cons p ps ih =>
    intro l hlive hl hnear hfar
    have htail := fun q hq => hlive q (List.mem_cons_of_mem _ hq)
    unfold State.placeAll
    rw [hlive p List.mem_cons_self]
    cases hg : stillGuarded s p with
    | false =>
      rw [List.filter_cons_of_neg (by rw [hg]; decide)] at hl
      exact ih htail hl hnear hfar
    | true =>
      rw [List.filter_cons_of_pos hg] at hl
      obtain ⟨x, l, rfl, hx, hl⟩ := List.map_eq_cons_iff.mp hl
      have hrest := ih htail hl (fun y hy => hnear y (List.mem_cons_of_mem _ hy)) (fun y hy => hfar y (List.mem_cons_of_mem _ hy))
      obtain ⟨q, loc, key⟩ := x
      obtain rfl : q = p := hx
      rw [if_neg (by decide)]
      cases hn : isNear q.va with
      | true =>
        obtain ⟨rfl, rfl⟩ : loc = q.loc ∧ key = 0 := hnear _ List.mem_cons_self hn
        rw [if_pos rfl, hrest]
      | false =>
        obtain ⟨h, hp, rfl, rfl⟩ := hfar _ List.mem_cons_self hn
        rw [if_neg Bool.false_ne_true, hp]
        dsimp only
        rw [hrest]

/-- What a release that publishes leaves: the stores in memory, none pending, and the release recorded (R264, R265). -/
structure Published (s t : State) (l : List (Pend × Nat × Nat)) (sc : Scope) : Prop where
  mem : ∀ x, t.mem.get memDefault x = laidOver l x (s.mem.get memDefault x)
  cur : ∃ hb, t.cur = { s.cur with hb := hb, pend := [], resv := [] }
  rels : ∃ w, t.rels = ⟨s.nextRel, s.cur.sid, false, sc, w⟩ :: s.rels
  lockRels : t.lockRels = s.lockRels

/-- The strand's stores are in memory and no longer pending; the release is not recorded yet. -/
def unrecorded (s : State) (l : List (Pend × Nat × Nat)) : State := (s.publishAll (some s.nextRel) true none l).onCur fun t => { t with pend := [], resv := [] }

/-- The state in which a release has published stores and been recorded. -/
def publishedAt (s : State) (l : List (Pend × Nat × Nat)) (sc : Scope) : State :=
  ((unrecorded s l).recordRelease (unrecorded s l).cur.sid sc (unrecorded s l).cur.past).2.widen (unrecorded s l).cur.uid (unrecorded s l).nextRel sc

theorem publishedAt_published {s : State} {l : List (Pend × Nat × Nat)} (h : PendsAt s l) (sc : Scope) : Published s (publishedAt s l sc) l sc := by
  obtain ⟨hmem, ⟨hb, hcur⟩, hrels, hnext, hlock⟩ := publishAll_performed s (some s.nextRel) true none h.here
  have hcur' : (unrecorded s l).cur = { s.cur with hb := hb, pend := [], resv := [] } := by rw [unrecorded, State.onCur, hcur]
  refine ⟨hmem, ⟨hb, hcur'⟩, ⟨(unrecorded s l).cur.past, ?_⟩, hlock⟩
  show ⟨(s.publishAll (some s.nextRel) true none l).nextRel, (unrecorded s l).cur.sid, false, sc, (unrecorded s l).cur.past⟩ :: (s.publishAll (some s.nextRel) true none l).rels = _
  rw [hnext, hrels, hcur']

/-- A release publishes the strand's stores and goes on (R225, R264). -/
theorem withRelease_published {s : State} {l : List (Pend × Nat × Nat)} (h : PendsAt s l) (sc : Scope) (resv : List Resv) (k : Nat → State → State) :
    s.withRelease sc resv k = k s.nextRel (publishedAt s l sc) := by
  have hpick : s.cur.pend.filter (fun _ => true) = s.cur.pend := List.filter_eq_self.mpr fun _ _ => rfl
  have hgens (k : State → State) : s.withGens (fun _ => true) k = k s := by
    unfold State.withGens
    rw [hpick, findLocks_none s fun p hp j g ht => (h.locks p hp j g ht).2.2]
    dsimp only
    rw [hpick, genNeeded_none s fun p hp j g ht => (h.locks p hp j g ht).1]
  have hplace : s.placeAll s.cur.pend = (s, .ok l) := placeAll_placed (fun p hp => tagLive_near fun j g ht => ⟨(h.locks p hp j g ht).1, (h.locks p hp j g ht).2.1⟩) h.all h.near h.mapped
  have hpeer : (l.any fun x => isPeerLoc x.2.1) = false := by
    refine List.any_eq_false.mpr fun x hx => ?_
    have hhere := of_decide_eq_true (h.here x hx)
    rw [isPeerLoc, decide_eq_true_eq]
    omega
  unfold State.withRelease
  rw [h.rows, if_neg Bool.false_ne_true, hgens, hplace]
  refine (if_neg (by rw [hpeer]; decide)).trans ((if_neg (not_not_intro h.acks)).trans ?_)
  exact congrArg (k · (publishedAt s l sc)) (publishAll_performed s (some s.nextRel) true none h.here).nextRel

end Sys2Proof.Machine
end

section
/-! `rel` and `mend` in near memory (R225 to R227). -/

namespace Sys2Proof.Machine
open Sys2Proof.Claims

theorem State.atomicPut_rels (s : State) (key loc n v : Nat) (rel : Option Nat) : (s.atomicPut key loc n v rel).rels = s.rels := s.homeWrite_rels key loc n v rel
theorem State.atomicPut_lockRels (s : State) (key loc n v : Nat) (rel : Option Nat) : (s.atomicPut key loc n v rel).lockRels = s.lockRels := s.homeWrite_lockRels key loc n v rel

/-- `rel` of a lock in near memory: the holder releases it, another finds it stale (R226). -/
theorem exec_rel {s u : State} {d a : BitVec 5} {h : Hit} {v : Nat} (hr : Ready s [a, d]) (hrep : s.cur.replies = []) (hl : LockAt (readAll s [a]) (s.cur.getS a) u h v) :
    exec (.rel d a) s = .next (if (lockFields v).1 ≠ u.cur.sid ||| 1#32 then u.relStale d h.loc (lockFields v).1 (lockFields v).2.1
      else u.withRelease (scopeOfLoc u.cur.sid h.loc) [.lock h.loc] fun id s => (s.atomicPut h.key h.loc 4 0 (some id)).relMet d h.loc (lockFields v).2.1 id) := by
  refine congrArg Host.Outcome.next ((issue_of_ready hr [a] [d] _ (by simp)).trans ?_)
  rw [swapped_none ((readAll_replies ..).trans hrep)]
  dsimp only
  rw [readAll_getS, withLock_at hl]
  simp only [hl.here, lkGen_eq, if_true]
  rfl

theorem lockAt_pre {s u : State} {srcs : List (BitVec 5)} {va : Word} {h : Hit} {v : Nat} (hl : LockAt (readAll s srcs) va u h v) (hp : s.cur.pre = none) : u.cur.pre = none := by
  rw [lockAt_same hl]
  exact (readAll_pre s srcs).trans hp

/-- The state in which a released lock has been written free, its release recorded at it, and the guard left. -/
def lockFreed (s : State) (key loc id : Nat) : State :=
  { (s.atomicPut key loc 4 0 (some id)).leaveGuard loc with lockRels := (s.atomicPut key loc 4 0 (some id)).lockRels.set [] loc (id :: (s.atomicPut key loc 4 0 (some id)).lockRels.get [] loc) }

theorem lockFreed_cur (s : State) (key loc id : Nat) : (lockFreed s key loc id).cur = { s.cur with
    hb := s.cur.hb ||| 2 ^ s.nextW, guards := s.cur.guards.filter (fun x => decide (x.lock ≠ loc)), locks := s.cur.locks.filter (fun x => decide (x ≠ loc)) } := by
  show { (s.atomicPut key loc 4 0 (some id)).cur with
    guards := (s.atomicPut key loc 4 0 (some id)).cur.guards.filter (fun x => decide (x.lock ≠ loc)), locks := (s.atomicPut key loc 4 0 (some id)).cur.locks.filter (fun x => decide (x ≠ loc)) } = _
  rw [State.atomicPut_cur]

theorem lockFreed_lockRels (s : State) (key loc id : Nat) : (lockFreed s key loc id).lockRels = s.lockRels.set [] loc (id :: s.lockRels.get [] loc) := by
  show (s.atomicPut key loc 4 0 (some id)).lockRels.set [] loc (id :: (s.atomicPut key loc 4 0 (some id)).lockRels.get [] loc) = _
  rw [State.atomicPut_lockRels]

/-- What a `rel` by the holder leaves (R225, R226). -/
theorem rel_frees {u : State} {l : List (Pend × Nat × Nat)} {key loc : Nat} {d : BitVec 5} (gen : BitVec 32) (sc : Scope) (hpre : u.cur.pre = none) (hl : PendsAt u l) :
    let t := (lockFreed (publishedAt u l sc) key loc u.nextRel).finish 2 gen .met 0 d 0
    t.bytesAt loc 4 = [0, 0, 0, 0] ∧ (∀ x, x < loc ∨ loc + 4 ≤ x → t.mem.get memDefault x = laidOver l x (u.mem.get memDefault x)) ∧ t.cur.pend = [] ∧ loc ∉ t.cur.locks ∧
    (∀ g ∈ t.cur.guards, g.lock ≠ loc) ∧ (∃ w, t.rels = ⟨u.nextRel, u.cur.sid, false, sc, w⟩ :: u.rels) ∧ t.lockRels.get [] loc = u.nextRel :: u.lockRels.get [] loc ∧
    wstFields t.cur.wst = (0, false, gen, 2) ∧ Holds t d 0 ∧ Stepped u t := by
  intro t
  obtain ⟨hmem, ⟨hb, hpub⟩, ⟨w, hrels⟩, hlock⟩ := publishedAt_published hl sc
  have hcur := lockFreed_cur (publishedAt u l sc) key loc u.nextRel
  rw [hpub] at hcur
  have hend : Ended (lockFreed (publishedAt u l sc) key loc u.nextRel) t 2 gen 0 0 d 0 := finish_ended_here gen .met 0 d 0 (by rw [hcur]; exact hpre) (by decide)
  refine ⟨?_, fun x hx => ?_, ?_, ?_, fun g hg => ?_, ⟨w, ?_⟩, ?_, hend.wst, hend.dest, hend.stepped (by rw [hcur]) (by rw [hcur])⟩
  · rw [State.bytesAt, hend.mem]
    exact (publishedAt u l sc).atomicPut_bytesAt key loc 4 0 (some u.nextRel)
  · rw [hend.mem, ← hmem]
    exact (publishedAt u l sc).atomicPut_other key loc 4 0 (some u.nextRel) x hx
  · rw [hend.pend, hcur]
  · rw [hend.locks, hcur]
    exact fun hm => of_decide_eq_true (List.mem_filter.mp hm).2 rfl
  · rw [hend.guards, hcur] at hg
    exact of_decide_eq_true (List.mem_filter.mp hg).2
  · rw [hend.rels, ← hrels]
    exact (publishedAt u l sc).atomicPut_rels key loc 4 0 (some u.nextRel)
  · rw [hend.lockRels]
    rw [lockFreed_lockRels, SMap.get_set_self, hlock]

/-- What a `rel` by another strand leaves (R226). -/
theorem rel_stale {u : State} {loc : Nat} {d : BitVec 5} (holder gen : BitVec 32) (hpre : u.cur.pre = none) :
    let t := u.relStale d loc holder gen
    t.mem = u.mem ∧ t.rels = u.rels ∧ loc ∉ t.cur.locks ∧ t.cur.pend = u.cur.pend.filter (fun p => decide (p.tag.map Prod.fst ≠ some loc)) ∧
    wstFields t.cur.wst = (7, false, gen, 2) ∧ t.cur.wabs = (holder &&& ~~~1#32).setWidth 64 ∧ Holds t d 7 ∧ Stepped u t := by
  intro t
  have hend : Ended ((u.leaveGuard loc).onCur fun t => { t with pend := t.pend.filter fun p => match p.tag with
    | some (l, _) => decide (l ≠ loc)
    | none => true }) t 2 gen 7 (holderId holder) d 7 := finish_ended_here gen .stale (holderId holder) d 7 hpre (by decide)
  refine ⟨hend.mem, hend.rels, ?_, ?_, hend.wst, hend.wabs, hend.dest, hend.stepped rfl rfl⟩
  · rw [hend.locks]
    exact fun hm => of_decide_eq_true (List.mem_filter.mp hm).2 rfl
  · rw [hend.pend]
    refine List.filter_congr fun p _ => ?_
    cases p.tag <;> simp

/-! `mend` (R227). -/

/-- The state in which `mend` has written itself the holder. -/
def lockWritten (s : State) (key loc : Nat) (g : BitVec 32) : State :=
  (s.onCur fun t => { t with obs := s.lastRel loc 4 ++ t.obs }).atomicPut key loc 8 (lkHead s.me g).toNat none

/-- The state in which `mend` has taken its lock over and acquired what was released through it. -/
def lockMended (s : State) (key loc v : Nat) (va : Word) (g : BitVec 32) : State :=
  ((lockWritten s key loc g).enterGuard loc v va g).acquire (scopeOfLoc (lockWritten s key loc g).cur.sid loc) ((lockWritten s key loc g).lockRels.get [] loc)

theorem exec_mend {s u : State} {d a b : BitVec 5} {h : Hit} {v : Nat} (hr : Ready s [a, b, d]) (hrep : s.cur.replies = []) (hl : LockAt (readAll s [a, b, d]) (s.cur.getS a) u h v)
    (hgen : (s.cur.getS b).toNat < 2 ^ 32) : exec (.mend d a b) s = .next (
      if (s.cur.getS d ||| 1#64) = (lockFields v).1.setWidth 64 ∧ s.cur.getS b = (lockFields v).2.1.setWidth 64 then
        (if u.reserved (.lock h.loc) then (u.onCur fun t => { t with buf := [] }).holdOn .fabricAck
        else (lockMended u h.key h.loc v (s.cur.getS a) ((lockFields v).2.1 + 1)).finish 2 ((lockFields v).2.1 + 1) .mended (holderId (lockFields v).1) d (holderId (lockFields v).1))
      else u.finish 2 (lockFields v).2.1 .stale (holderId (lockFields v).1) d (holderId (lockFields v).1)) := by
  refine congrArg Host.Outcome.next ((issue_of_ready hr [a, b, d] [d] _ (by simp)).trans ?_)
  rw [swapped_none ((readAll_replies ..).trans hrep)]
  dsimp only
  rw [readAll_getS, withLock_at hl]
  obtain rfl := lockAt_same hl
  simp only [readAll_getS, hl.here, lkGen_eq, if_true]
  exact if_neg (Nat.not_le.mpr hgen)

theorem lkHead_toNat (h g : BitVec 32) : (lkHead h g).toNat = h.toNat + g.toNat * 2 ^ 32 := by
  have hh := h.isLt
  have hg := g.isLt
  rw [lkHead, word, BitVec.toNat_ofNat]
  omega

theorem not_reserved {s : State} {r : Resv} (h : ∀ x ∈ s.strands, r ∉ x.resv) : s.reserved r = false :=
  List.any_eq_false.mpr fun x hx hc => h x hx (List.contains_iff_mem.mp hc)

theorem lockWritten_cur (s : State) (key loc : Nat) (g : BitVec 32) : (lockWritten s key loc g).cur = { s.cur with
    hb := s.cur.hb ||| 2 ^ s.nextW, obs := s.lastRel loc 4 ++ s.cur.obs } := by
  rw [lockWritten, State.atomicPut_cur]
  rfl

theorem enterGuard_acquire_cur (s : State) (loc v : Nat) (va : Word) (g : BitVec 32) (sc : Scope) (rs : List Nat) :
    ((s.enterGuard loc v va g).acquire sc rs).cur.pre = s.cur.pre ∧ ((s.enterGuard loc v va g).acquire sc rs).cur.pc = s.cur.pc ∧
      ((s.enterGuard loc v va g).acquire sc rs).cur.loops = s.cur.loops := ⟨rfl, rfl, rfl⟩

theorem lockMended_cur (s : State) (key loc v : Nat) (va : Word) (g : BitVec 32) :
    (lockMended s key loc v va g).cur.pre = (lockWritten s key loc g).cur.pre ∧ (lockMended s key loc v va g).cur.pc = (lockWritten s key loc g).cur.pc ∧
      (lockMended s key loc v va g).cur.loops = (lockWritten s key loc g).cur.loops := enterGuard_acquire_cur ..

/-- What a `mend` that finds its lock as it expects leaves (R227). -/
theorem mend_takes {u : State} {key loc v : Nat} {va : Word} {d : BitVec 5} (holder g : BitVec 32) (hpre : u.cur.pre = none) :
    let t := (lockMended u key loc v va g).finish 2 g .mended (holderId holder) d (holderId holder)
    t.bytesAt loc 8 = bytesOfNat 4 (u.cur.sid ||| 1#32).toNat ++ bytesOfNat 4 g.toNat ∧ (∀ x, x < loc ∨ loc + 8 ≤ x → t.mem.get memDefault x = u.mem.get memDefault x) ∧ loc ∈ t.cur.locks ∧
    wstFields t.cur.wst = (3, false, g, 2) ∧ Holds t d ((holder &&& ~~~1#32).setWidth 64) ∧ Stepped u t := by
  intro t
  obtain ⟨hp, hpc, hloops⟩ := lockMended_cur u key loc v va g
  rw [lockWritten_cur] at hp hpc hloops
  have hend : Ended (lockMended u key loc v va g) t 2 g 3 (holderId holder) d (holderId holder) := finish_ended_here g .mended (holderId holder) d (holderId holder) (hp.trans hpre) (by decide)
  have hmem : t.mem = (lockWritten u key loc g).mem := hend.mem
  refine ⟨?_, fun x hx => ?_, ?_, hend.wst, hend.dest, hend.stepped hpc hloops⟩
  · rw [State.bytesAt, hmem]
    refine (State.atomicPut_bytesAt ..).trans ?_
    rw [lkHead_toNat]
    exact lockHead_bytes ..
  · rw [hmem]
    exact State.atomicPut_other _ _ _ _ _ _ _ hx
  · rw [hend.locks]
    exact List.mem_cons_self

/-- Settles O31: `acq`, `rel` and `mend` of a lock in near memory. -/
theorem locks : Obligations.Locks := by
  unfold Obligations.Locks
  refine ⟨fun s d a b u h v hr hw hrep ht hl => acq_near hr hw hrep ht hl, fun s d a u h v hr hrep hl => ⟨fun hme l hp => ?_, fun hme => ?_⟩, fun s d a b u h v hr hl hrep hgen => ⟨fun hsame hfree => ?_, fun hsame => ?_⟩⟩
  · have hexec := exec_rel hr hrep hl
    rw [if_neg (not_not_intro hme), withRelease_published hp] at hexec
    exact ⟨_, hexec, rel_frees _ _ (lockAt_pre hl hr.calm) hp⟩
  · have hexec := exec_rel hr hrep hl
    rw [if_pos hme] at hexec
    exact ⟨_, hexec, rel_stale _ _ (lockAt_pre hl hr.calm)⟩
  · have hexec := exec_mend hr hrep hl hgen
    rw [if_pos hsame, not_reserved hfree, if_neg Bool.false_ne_true] at hexec
    exact ⟨_, hexec, mend_takes _ _ (lockAt_pre hl hr.calm)⟩
  · have hexec := exec_mend hr hrep hl hgen
    rw [if_neg hsame] at hexec
    exact ⟨_, hexec, finish_ended_here _ .stale _ d _ (lockAt_pre hl hr.calm) (by decide)⟩

end Sys2Proof.Machine
end


section
/-! Bytes of the device's own structures that a change leaves as they are (R298, R397). -/

namespace Sys2Proof.Machine
open Sys2Proof.Claims

/-- A byte of memory stands as it did, under the key it had. -/
def SameAt (s t : State) (x : Nat) : Prop := t.mem.get memDefault x = s.mem.get memDefault x ∧ t.keyAt x = s.keyAt x

theorem SameAt.trans {s t u : State} {x : Nat} (h : SameAt s t x) (g : SameAt t u x) : SameAt s u x := ⟨g.1.trans h.1, g.2.trans h.2⟩

theorem sameAt_of_eq {s t : State} (hm : t.mem = s.mem) (hk : t.keyRuns = s.keyRuns) (x : Nat) : SameAt s t x := ⟨by rw [hm], State.keyAt_congr hk x⟩

theorem sameAt_devPut (s : State) (loc n v : Nat) {x : Nat} (hx : x < loc ∨ loc + n ≤ x) : SameAt s (s.devPut loc n v) x := by
  unfold State.devPut
  split
  · exact (s.homeWrite_written 0 loc n v none).others x hx
  · exact ⟨rfl, rfl⟩

theorem sameAt_poke (s : State) (key loc : Nat) (bs : List Byte) {x : Nat} (hx : x < loc ∨ loc + bs.length ≤ x) : SameAt s (s.poke key loc bs) x :=
  ⟨SMap.get_setList_of_out memDefault s.mem loc bs x hx, State.keyAt_poke_out s key loc bs hx⟩

theorem State.decrypt_sameAt {s t : State} (key loc : Nat) (bs : List Byte) (h : ∀ x, loc ≤ x → x < loc + bs.length → SameAt s t x) : t.decrypt key loc bs = s.decrypt key loc bs := by
  induction bs generalizing loc with
  | nil => rfl
  | cons b bs ih =>
    have hhead : t.keyAt loc = s.keyAt loc := (h loc (Nat.le_refl _) (by simp)).2
    have htail := ih (loc + 1) fun x h1 h2 => h x (by omega) (by simp; omega)
    unfold State.decrypt
    rw [hhead, htail]

theorem State.devGet_sameAt {s t : State} {loc n : Nat} (h : ∀ x, loc ≤ x → x < loc + n → SameAt s t x) : t.devGet loc n = s.devGet loc n := by
  have hbytes : t.bytesAt loc n = s.bytesAt loc n := State.bytesAt_congr fun i hi => (h (loc + i) (by omega) (by omega)).1
  have hlen : (s.bytesAt loc n).length = n := by rw [State.bytesAt, SMap.getList_eq_map, List.length_map, List.length_range]
  unfold State.devGet State.peekKey
  rw [hbytes, State.decrypt_sameAt 0 loc (s.bytesAt loc n) fun x h1 h2 => h x h1 (by rwa [hlen] at h2)]

theorem State.devGet_devPut (s : State) {loc : Nat} (n v : Nat) (h : loc < 2 ^ 40) : (s.devPut loc n v).devGet loc n = v % 256 ^ n := by
  rw [State.devPut_hbm s n v h, State.devGet_hbm _ n h]
  exact (s.homeWrite_written 0 loc n v none).under

/-- The header of a job's fault queue stands as it did. -/
def HeaderKept (s t : State) (j : Job) : Prop := ∀ x, j.rec_.fq ≤ x → x < j.rec_.fq + 48 → SameAt s t x

section
variable {s t : State} {j : Job} (h : HeaderKept s t j)
include h

theorem headerKept_field {o : Nat} (ho : o + 8 ≤ 48) : t.devGet (j.rec_.fq + o) 8 = s.devGet (j.rec_.fq + o) 8 :=
  State.devGet_sameAt fun x h1 h2 => h x (by omega) (by omega)

theorem headerKept_base : t.fqBase j = s.fqBase j := headerKept_field h (o := 0) (by decide)
theorem headerKept_cap : t.fqCap j = s.fqCap j := headerKept_field h (o := 8) (by decide)
theorem headerKept_head : t.fqHead j = s.fqHead j := headerKept_field h (o := 16) (by decide)
theorem headerKept_tail : t.fqTail j = s.fqTail j := headerKept_field h (o := 24) (by decide)
theorem headerKept_recPa (k : Nat) : t.recPa j k = s.recPa j k := by rw [State.recPa, State.recPa, headerKept_base h, headerKept_cap h]

theorem headerKept_flags {k : Nat} (hb : SameAt s t (s.recPa j k + 1)) : t.recFlags j k = s.recFlags j k := by
  rw [State.recFlags, State.recFlags, headerKept_recPa h]
  refine State.devGet_sameAt fun x h1 h2 => ?_
  obtain rfl : x = s.recPa j k + 1 := by omega
  exact hb

end

/-! Marking a record (R301 step 4). -/

theorem recPa_in {s : State} {j : Job} (k : Nat) (hc : 0 < s.fqCap j) : s.fqBase j ≤ s.recPa j k ∧ s.recPa j k + 64 ≤ s.fqBase j + s.fqCap j * 64 := by
  have hlt := Nat.mod_lt k hc
  unfold State.recPa
  omega

/-- Two records that are in the ring at once stand apart (R298). -/
theorem recPa_ne {s : State} {j : Job} {a b : Nat} (h : a < b) (hb : b < a + s.fqCap j) : s.recPa j a ≠ s.recPa j b := by
  intro he
  have hmod : a % s.fqCap j = b % s.fqCap j := by unfold State.recPa at he; omega
  have hdvd : s.fqCap j ∣ b - a := (Nat.modEq_iff_dvd' (Nat.le_of_lt h)).mp hmod
  have := Nat.le_of_dvd (by omega) hdvd
  omega

/-- What a service mark leaves behind, where an older record is still open (R301). -/
structure Marked (t m : State) (j : Job) (k : Nat) : Prop where
  marked : m.recMarked j k = true
  taken : m.recDeclined j k = false
  tail : m.fqTail j = t.fqTail j
  jobs : m.jobs = t.jobs
  put : ∃ v, m = t.devPut (t.recPa j k + 1) 1 v

theorem toService_cap {s : State} {job : BitVec 32} {j : Job} {k : Nat} (h : ToService s job j k) : 0 < s.fqCap j := by
  have := h.inside
  omega

theorem ofNat_flags (f : Nat) : (BitVec.ofNat 8 ((f % 64 + 0x80) % 256 ^ 1)).getLsbD 7 = true ∧ (BitVec.ofNat 8 ((f % 64 + 0x80) % 256 ^ 1)).getLsbD 6 = false := by
  have h (n : Nat) (hn : n < 64) : (BitVec.ofNat 8 ((n + 0x80) % 256 ^ 1)).getLsbD 7 = true ∧ (BitVec.ofNat 8 ((n + 0x80) % 256 ^ 1)).getLsbD 6 = false := by
    revert n
    decide
  exact h _ (Nat.mod_lt _ (by decide))

theorem find?_first {p : Nat → Bool} {n a : Nat} (hn : 0 < n) (hp : p a = true) : ((List.range n).map (· + a)).find? p = some a := by
  obtain ⟨m, rfl⟩ := Nat.exists_eq_succ_of_ne_zero (Nat.ne_of_gt hn)
  rw [List.range_succ_eq_map, List.map_cons, Nat.zero_add, List.find?_cons_of_pos hp]

/-- A mark is put, and the tail goes on to the first record still open (R301). -/
theorem markRecord_advances {t : State} {job : BitVec 32} {j : Job} {k : Nat} (ht : t.job? job = some j) :
    t.markRecord job k false = (fun m : State => m.advance job ((((List.range (m.fqHead j - m.fqTail j)).map (· + m.fqTail j)).find? fun i => !m.recMarked j i).getD (m.fqHead j)))
      (t.devPut (t.recPa j k + 1) 1 (t.recFlags j k % 64 + 0x80)) := by
  unfold State.markRecord
  rw [ht]
  rfl

theorem markRecord_marked {s t : State} {job : BitVec 32} {j : Job} {k : Nat} (h : ToService s job j k) (ht : t.job? job = some j) (hh : HeaderKept s t j)
    (hk : SameAt s t (s.recPa j (s.fqTail j) + 1)) : Marked t (t.markRecord job k false) j k := by
  obtain ⟨htail, hhead, hfull⟩ := h.inside
  obtain ⟨hlow, hhigh⟩ := recPa_in k (toService_cap h)
  obtain ⟨hlow', hhigh'⟩ := recPa_in (s.fqTail j) (toService_cap h)
  have hne := recPa_ne (s := s) (j := j) (a := s.fqTail j) (b := k) htail (by omega)
  have hapart := h.apart
  have hring := h.ring
  have hkept (v : Nat) : HeaderKept t (t.devPut (t.recPa j k + 1) 1 v) j := fun x h1 h2 => sameAt_devPut _ _ _ _ (by rw [headerKept_recPa hh]; omega)
  have hopen (v : Nat) : (t.devPut (t.recPa j k + 1) 1 v).recMarked j (s.fqTail j) = false := by
    have hold := h.older
    have hflags := headerKept_flags (fun x h1 h2 => (hh x h1 h2).trans (hkept v x h1 h2)) (k := s.fqTail j)
      (hk.trans (sameAt_devPut t (t.recPa j k + 1) 1 v (by rw [headerKept_recPa hh]; omega)))
    rw [State.recMarked, hflags]
    exact hold
  have hmark : t.markRecord job k false = t.devPut (t.recPa j k + 1) 1 (t.recFlags j k % 64 + 0x80) := by
    generalize hm : t.devPut (t.recPa j k + 1) 1 (t.recFlags j k % 64 + 0x80) = m
    have hkm : HeaderKept t m j := by rw [← hm]; exact hkept _
    have hmopen : m.recMarked j (s.fqTail j) = false := by rw [← hm]; exact hopen _
    have hmjob : m.job? job = some j := by rw [← hm, State.job?_congr (State.devPut_jobs ..), ht]
    have htl : m.fqTail j = s.fqTail j := (headerKept_tail hkm).trans (headerKept_tail hh)
    have hhd : m.fqHead j = s.fqHead j := (headerKept_head hkm).trans (headerKept_head hh)
    have hfirst : (((List.range (m.fqHead j - m.fqTail j)).map (· + m.fqTail j)).find? fun i => !m.recMarked j i) = some (m.fqTail j) :=
      find?_first (by omega) (by rw [htl, hmopen]; rfl)
    rw [markRecord_advances ht, hm]
    dsimp only
    rw [hfirst, State.advance, hmjob]
    exact if_pos (.inl (Nat.le_refl _))
  have hread : (t.devPut (t.recPa j k + 1) 1 (t.recFlags j k % 64 + 0x80)).recFlags j k = (t.recFlags j k % 64 + 0x80) % 256 ^ 1 := by
    rw [State.recFlags, headerKept_recPa (hkept _)]
    exact State.devGet_devPut _ _ _ (by rw [headerKept_recPa hh]; omega)
  rw [hmark]
  refine ⟨?_, ?_, headerKept_tail (hkept _), State.devPut_jobs .., ⟨_, rfl⟩⟩
  · rw [State.recMarked, hread]; exact (ofNat_flags _).1
  · rw [State.recDeclined, hread]; exact (ofNat_flags _).2

end Sys2Proof.Machine
end


section
/-! The paging service and pools (R296, R302). -/

namespace Sys2Proof.Machine
open Sys2Proof.Claims

theorem State.die_onDie (s : State) (k d : Nat) (f : Die → Die) : (s.onDie k f).die d = if d = k then f (s.die k) else s.die d := by
  by_cases h : d = k
  · subst h
    rw [if_pos rfl]
    exact SMap.get_set_self ..
  · rw [if_neg h]
    exact SMap.get_set_ne _ _ _ h

theorem State.logError_pool (s : State) (loc : Nat) (bad : Bool) (d : Nat) : ((s.logError loc bad).die d).pool = (s.die d).pool := by
  unfold State.logError
  split
  · rw [State.die_onDie]
    split
    · next h => rw [h]
    · rfl
  · split <;> rfl

/-- A write of the device's own structures leaves the pools. -/
theorem State.devPut_pool (s : State) (loc n v d : Nat) : ((s.devPut loc n v).die d).pool = (s.die d).pool := by
  unfold State.devPut
  split
  · rw [State.homeWrite_die]
    refine (foldl_keep (fun t : State => (t.die d).pool) _ (fun t i => ?_) _ _).trans rfl
    dsimp only
    split
    · exact State.logError_pool ..
    · rfl
  · rfl

/-! Pools (R296). -/

theorem length_eraseDups_le {α : Type} [DecidableEq α] (l : List α) : l.eraseDups.length ≤ l.length := by
  induction h : l.length using Nat.strong_induction_on generalizing l with
  | _ n ih =>
    cases l with
    | nil => simp
    | cons a l =>
      have hf : (l.filter fun b => !b == a).length ≤ l.length := List.length_filter_le ..
      rw [List.length_cons] at h
      rw [List.eraseDups_cons, List.length_cons]
      have := ih _ (by omega) (l.filter fun b => !b == a) rfl
      omega

/-- A pool after a refill (R296). -/
theorem State.refill_pool (s : State) (d : Nat) (frames : List Nat) : ((s.refill d frames).die d).pool =
    ((s.die d).pool ++ frames.eraseDups.filter fun f => s.frameOk d f && !(s.die d).pool.contains f && !s.mapped f (2 ^ 18)).take 65536 := by
  unfold State.refill
  dsimp only
  rw [State.die_onDie, if_pos rfl]

/-- A frame that may stand in a pool is taken while there is room (R296). -/
theorem State.refill_takes {s : State} {d f : Nat} {frames : List Nat} (hroom : (s.die d).pool.length + frames.length ≤ 65536) (hf : f ∈ frames) (hok : s.frameOk d f = true)
    (hm : s.mapped f (2 ^ 18) = false) : f ∈ ((s.refill d frames).die d).pool := by
  have hnew : (frames.eraseDups.filter fun f => s.frameOk d f && !(s.die d).pool.contains f && !s.mapped f (2 ^ 18)).length ≤ frames.length :=
    (List.length_filter_le ..).trans (length_eraseDups_le _)
  rw [State.refill_pool, List.take_of_length_le (by rw [List.length_append]; omega)]
  by_cases hin : f ∈ (s.die d).pool
  · exact List.mem_append_left _ hin
  · refine List.mem_append_right _ (List.mem_filter.mpr ⟨List.mem_eraseDups.mpr hf, ?_⟩)
    rw [hok, hm, Bool.not_eq_true' .. |>.mpr (by simpa using hin)]
    rfl

/-! What a page's new entry and its bytes change (R302). -/

theorem foldl_sameAt {α : Type} {f : State → α → State} {x : Nat} (l : List α) (s : State) (h : ∀ t, ∀ a ∈ l, SameAt t (f t a) x) : SameAt s (l.foldl f s) x := by
  induction l generalizing s with
  | nil => exact ⟨rfl, rfl⟩
  | cons a l ih => exact (h s a List.mem_cons_self).trans (ih _ fun t b hb => h t b (List.mem_cons_of_mem _ hb))

theorem sameAt_zeroRange (s : State) (key f n : Nat) {x : Nat} (hx : x < f ∨ f + n ≤ x) : SameAt s (s.zeroRange key f n) x := by
  refine ⟨?_, ?_⟩
  · refine (SMap.get_filter memDefault (fun y => !decide (f ≤ y ∧ y < f + n)) s.mem x).trans (if_pos ?_)
    rw [Bool.not_eq_true', decide_eq_false_iff_not]
    omega
  · rw [State.keyAt_cons rfl, if_neg (by omega)]

theorem sameAt_fillFrame (s : State) (key dst n : Nat) (data : List Byte) {x : Nat} (hx : x < dst ∨ dst + n ≤ x) : SameAt s (s.fillFrame key dst n data) x := by
  refine (sameAt_zeroRange s key dst n hx).trans (foldl_sameAt _ _ fun t y hy => sameAt_poke t key _ _ ?_)
  have hlt := List.snd_lt_of_mem_zipIdx hy
  rw [List.length_take] at hlt
  rw [List.length_singleton]
  omega

theorem State.fillFrame_jobs (s : State) (key dst n : Nat) (data : List Byte) : (s.fillFrame key dst n data).jobs = s.jobs :=
  foldl_keep State.jobs (fun (a : State) (x : Byte × Nat) => a.poke key (dst + x.2) [x.1]) (fun _ _ => rfl) _ _

/-- The state with a page's cached translations dropped, and what obtained its place through them (R303, R304). -/
def pageDropped (s : State) (root va size : Nat) : State :=
  (s.dropCached (fun t => t.named root (va / size * size) (size / 2 ^ 18)) fun p => p.named root (va / size * size) (size / 2 ^ 18)).abandon root fun w => decide (w.toNat / size = va / size)

theorem dropCached_keep {α : Type} (g : State → α) (hd : ∀ t d f, g (State.onDie t d f) = g t) (htlb : ∀ t l, g { t with tlb := l } = g t) (s : State) (entry : TlbEntry → Bool) (ptr : WalkPtr → Bool) :
    g (s.dropCached entry ptr) = g s := by
  unfold State.dropCached
  rw [foldl_keep g _ (fun _ _ => hd _ _ _), htlb]

theorem abandon_kept (s : State) (root : Nat) (named : Word → Bool) : (s.abandon root named).mem = s.mem ∧ (s.abandon root named).keyRuns = s.keyRuns ∧
    (s.abandon root named).jobs = s.jobs ∧ (s.abandon root named).pkg = s.pkg := ⟨rfl, rfl, rfl, rfl⟩

theorem pageDropped_kept (s : State) (root va size : Nat) : (pageDropped s root va size).mem = s.mem ∧ (pageDropped s root va size).keyRuns = s.keyRuns ∧
    (pageDropped s root va size).jobs = s.jobs ∧ (pageDropped s root va size).pkg = s.pkg := by
  unfold pageDropped
  obtain ⟨hmem, hkeys, hjobs, hpkg⟩ := abandon_kept (s.dropCached (fun t => t.named root (va / size * size) (size / 2 ^ 18)) fun p => p.named root (va / size * size) (size / 2 ^ 18)) root
    fun w => decide (w.toNat / size = va / size)
  rw [hmem, hkeys, hjobs, hpkg]
  exact ⟨dropCached_keep State.mem (fun _ _ _ => rfl) (fun _ _ => rfl) .., dropCached_keep State.keyRuns (fun _ _ _ => rfl) (fun _ _ => rfl) ..,
    dropCached_keep State.jobs (fun _ _ _ => rfl) (fun _ _ => rfl) .., dropCached_keep State.pkg (fun _ _ _ => rfl) (fun _ _ => rfl) ..⟩

/-- The state with the bytes of a page that was mapped nowhere in its frame (R302). -/
def pageFilled (s : State) (root va size : Nat) (v : Word) (data : List Byte) : State :=
  if eV v && decide (eKind v = 0) && !data.isEmpty then (pageDropped s root va size).fillFrame (eKey v) (eFrame v * 2 ^ 18) size data else pageDropped s root va size

theorem pageFilled_jobs (s : State) (root va size : Nat) (v : Word) (data : List Byte) : (pageFilled s root va size v data).jobs = s.jobs := by
  unfold pageFilled
  split
  · exact (State.fillFrame_jobs ..).trans (pageDropped_kept s root va size).2.2.1
  · exact (pageDropped_kept s root va size).2.2.1

theorem sameAt_pageFilled (s : State) (root va size : Nat) (v : Word) (data : List Byte) {x : Nat} (hx : data = [] ∨ x < eFrame v * 2 ^ 18 ∨ eFrame v * 2 ^ 18 + size ≤ x) :
    SameAt s (pageFilled s root va size v data) x := by
  obtain ⟨hmem, hkeys, -, -⟩ := pageDropped_kept s root va size
  have hdrop := sameAt_of_eq hmem hkeys x
  unfold pageFilled
  split
  · next hd =>
    refine hdrop.trans (sameAt_fillFrame _ _ _ _ _ (hx.resolve_left fun he => ?_))
    rw [he] at hd
    simp at hd
  · exact hdrop

section
variable {s : State} {job : BitVec 32} {root va e size : Nat} {v : Word} {data : List Byte} (hfind : (s.leafEntries root va).find? (fun x => decide (x.1 = e)) = some (e, size))
include hfind

/-- The entry of a page that is mapped nowhere is written (R302). -/
theorem serviceEntry_installs (hold : eV (s.entryAt e 0) = false) (hfree : s.frameFree v size = true) (hmv : ∀ x ∈ s.pkg.moving, x.1 ≠ e) :
    s.serviceEntry job root va e v data = (true, (pageFilled s root va size v data).devPut e 8 v.toNat) := by
  have hnone : s.pkg.moving.find? (fun x => decide (x.1 = e)) = none := List.find?_eq_none.mpr fun x hx => by simpa using hmv x hx
  unfold State.serviceEntry
  rw [hfind]
  dsimp only
  rw [hold, hfree, hnone]
  rfl

/-- A valid entry whose page is to go elsewhere is cleared first (R302, R304). -/
theorem serviceEntry_clears (hold : eV (s.entryAt e 0) = true) (hgo : ¬ (eV v = true ∧ eKind v = eKind (s.entryAt e 0) ∧ eFrame v = eFrame (s.entryAt e 0))) :
    s.serviceEntry job root va e v data = (false, ((pageDropped s root va size).devPut e 8 (s.entryAt e 0 &&& ~~~1#64).toNat).onPkg fun g => { g with moving := (e, s.entryAt e 0) :: g.moving }) := by
  unfold State.serviceEntry
  rw [hfind]
  dsimp only
  rw [hold, decide_eq_true hgo]
  rfl

end

/-! The service's events (R302). -/

theorem pagingService_down {s : State} (h : s.cobaltUp = false) (job : BitVec 32) (k e : Nat) (v : Word) (supply : PageSupply) (d : Bool) : exec (.pagingService job k e v supply d) s = .next s := by
  refine congrArg Host.Outcome.next ?_
  split
  · rfl
  · rw [h]
    rfl

section
variable {s : State} {job : BitVec 32} {j : Job} {k : Nat} (h : ToService s job j k)
include h

theorem exec_pagingService_pool (e : Nat) (v : Word) (supply : PageSupply) (hcode : s.devGet (s.recPa j k) 1 = 0x12) :
    exec (.pagingService job k e v supply false) s = .next ((s.refill (sidDie (BitVec.ofNat 32 (s.devGet (s.recPa j k + 8) 4))) supply.frames).markRecord job k false) := by
  have hin : decide (k < s.fqTail j ∨ s.fqHead j ≤ k) = false := decide_eq_false (by have := h.inside; omega)
  refine congrArg Host.Outcome.next ?_
  show (match s.job? job with | none => s | some j => _) = _
  rw [h.live]
  dsimp only
  rw [h.up, h.unmarked, hin, hcode] <;> rfl

theorem exec_pagingService_page (e : Nat) (v : Word) (supply : PageSupply) (hcode : s.devGet (s.recPa j k) 1 = 0x10) (hp : s.fqPaging j = true) {b : Bool} {t : State}
    (hs : s.serviceEntry job j.rec_.root (s.devGet (s.recPa j k + 24) 8) e v supply.data = (b, t)) :
    exec (.pagingService job k e v supply false) s = .next (if b then t.markRecord job k false else t) := by
  have hin : decide (k < s.fqTail j ∨ s.fqHead j ≤ k) = false := decide_eq_false (by have := h.inside; omega)
  refine congrArg Host.Outcome.next ?_
  show (match s.job? job with | none => s | some j => _) = _
  rw [h.live]
  dsimp only
  rw [h.up, h.unmarked, hin, hcode, hp, hs]
  cases b <;> rfl

end

end Sys2Proof.Machine
end


section
/-! A walk that ends in a leaf of local HBM (R289 to R295). -/

namespace Sys2Proof.Machine
open Sys2Proof.Claims

theorem pointsTo_lt {s : State} {a next : Nat} (h : PointsTo s a next) : next < 2 ^ 40 := by
  have hin := h.inside
  rw [State.paFits, Bool.and_eq_true, State.paOk, Bool.and_eq_true] at hin
  exact of_decide_eq_true hin.1.1

theorem toNat_extract (e : Word) (o n : Nat) : (e.extractLsb' o n).toNat = e.toNat / 2 ^ o % 2 ^ n := by
  rw [BitVec.extractLsb'_toNat, Nat.shiftRight_eq_div_pow]

theorem getLsbD_zero_iff (e : Word) : e.getLsbD 0 = decide (e.toNat % 2 = 1) := by
  rw [BitVec.getLsbD, Nat.testBit_zero]

/-- A walk at a node with levels below it (R289, R292). -/
theorem walkFrom_succ (s : State) (va l node : Nat) : s.walkFrom va (l + 1) node =
    if s.poisoned (node + 8 * walkIdx va (l + 1)) 8 then .ecc
    else if !eV (s.entryAt node (walkIdx va (l + 1))) then .absent
    else if eRWX (s.entryAt node (walkIdx va (l + 1))) = 0 then
      (match s.nextNode (s.entryAt node (walkIdx va (l + 1))) with
        | some next => s.walkFrom va l next
        | none => .malformed)
    else if l = 0 then s.leafWalk (node + 8 * walkIdx va (l + 1)) (s.entryAt node (walkIdx va (l + 1))) true else .malformed := rfl

/-- A walk at a node of the lowest level whose entry is valid (R291, R292). -/
theorem walkFrom_zero {s : State} {va node : Nat} (h : eV (s.entryAt node (walkIdx va 0)) = true) : s.walkFrom va 0 node =
    if s.poisoned (node + 8 * walkIdx va 0) 8 then .ecc
    else if eRWX (s.entryAt node (walkIdx va 0)) = 0 then .malformed else s.leafWalk (node + 8 * walkIdx va 0) (s.entryAt node (walkIdx va 0)) false := by
  have hgo (b : Bool) (x y : Walk) (hb : b = true) : (if !b then x else y) = y := by rw [hb]; rfl
  exact congrArg (fun x => if s.poisoned (node + 8 * walkIdx va 0) 8 then Walk.ecc else x) (hgo _ _ _ h)

/-- A walk follows a pointer (R290). -/
theorem walkFrom_pointer {s : State} {va l node next : Nat} (h : PointsTo s (node + 8 * walkIdx va (l + 1)) next) : s.walkFrom va (l + 1) node = s.walkFrom va l next := by
  have hlt := pointsTo_lt h
  have haligned := h.aligned
  have hval : (s.entryAt node (walkIdx va (l + 1))).toNat = next + 1 := by
    rw [State.entryAt, h.value, BitVec.toNat_ofNat]
    omega
  have hv : eV (s.entryAt node (walkIdx va (l + 1))) = true := by
    rw [eV, getLsbD_zero_iff, hval]
    exact decide_eq_true (by omega)
  have hrwx : eRWX (s.entryAt node (walkIdx va (l + 1))) = 0 := by
    rw [eRWX, hval]
    omega
  have hnext : s.nextNode (s.entryAt node (walkIdx va (l + 1))) = some next := by
    have hback : (next + 1) / 2 ^ 14 % 2 ^ 38 * 2 ^ 14 = next := by omega
    unfold State.nextNode
    rw [hval]
    dsimp only
    rw [hback]
    exact if_pos ⟨by omega, by omega, h.inside⟩
  rw [walkFrom_succ, h.clean, hv, hrwx, hnext] <;> rfl

section
variable {s : State} {e : Word} {size : Nat} (h : ValidLeaf s e size)
include h

theorem validLeaf_v : eV e = true := h.v

theorem validLeaf_kind : eKind e = 0 := by
  have hk := congrArg BitVec.toNat h.kind
  rw [toNat_extract] at hk
  exact hk

theorem validLeaf_rwx : eRWX e ≠ 0 := by
  intro h0
  refine h.rwx (BitVec.eq_of_toNat_eq ?_)
  rw [toNat_extract]
  exact h0

theorem validLeaf_fields : leafFields e = true := by
  have hres := congrArg BitVec.toNat h.reserved
  have hfmt := h.fmt
  rw [toNat_extract] at hres hfmt
  unfold leafFields
  rw [Bool.and_eq_true, decide_eq_true_eq, decide_eq_true_eq]
  exact ⟨hres, hfmt⟩

theorem validLeaf_geom : eGeom e ≤ 1 := by
  have hgeom := h.geom
  rwa [toNat_extract] at hgeom

end

/-- A walk ends in a leaf (R291). -/
theorem walkFrom_leaf {s : State} {va node : Nat} {e : Word} (hc : s.poisoned (node + 8 * walkIdx va 0) 8 = false) (hv : s.peekKey 0 (node + 8 * walkIdx va 0) 8 = e.toNat) (hl : ValidLeaf s e (2 ^ 18)) :
    s.walkFrom va 0 node = .leaf (node + 8 * walkIdx va 0) e false := by
  have he : s.entryAt node (walkIdx va 0) = e := by rw [State.entryAt, hv, BitVec.ofNat_toNat, BitVec.setWidth_eq]
  have hshape : s.leafShape e false = true := by
    unfold State.leafShape
    rw [validLeaf_fields hl, show eFrame e = (e.extractLsb' 18 34).toNat from (toNat_extract e 18 34).symm, if_neg Bool.false_ne_true, hl.frame, Bool.or_true]
    rfl
  rw [walkFrom_zero (by rw [he]; exact validLeaf_v hl), hc, he, if_neg Bool.false_ne_true, if_neg (validLeaf_rwx hl), State.leafWalk, hshape]
  exact if_pos (validLeaf_geom hl)

theorem walk_leaf {s : State} {die root va at_ : Nat} {e : Word} (hw : s.walkFind die root va = none) (hp : LeadsL3 s root va at_) (hv : s.peekKey 0 at_ 8 = e.toNat) (hl : ValidLeaf s e (2 ^ 18)) :
    s.walk die root va = .leaf at_ e false := by
  obtain ⟨at2, n3, ⟨n1, n2, h1, h2, rfl, -⟩, h3, rfl, hc⟩ := hp
  unfold State.walk
  rw [hw]
  dsimp only
  rw [walkFrom_pointer (l := 2) h1, walkFrom_pointer (l := 1) h2, walkFrom_pointer (l := 0) h3]
  exact walkFrom_leaf hc hv hl

/-- The checks of R293 pass. -/
theorem leafCheck_none {s : State} {n : Need} {key : Nat} {e : Word} {size : Nat} (hl : ValidLeaf s e size) (hp : Permits n e) (hk : KeyFits s key e) : s.leafCheck n key e false = none := by
  obtain ⟨hr, hw, hx⟩ := hp
  have hkey : eKey e = (e.extractLsb' 52 12).toNat := by
    have := e.isLt
    rw [toNat_extract, eKey]
    omega
  have hperm : ((n.r && !eR e) || (n.w && !eW e) || (n.x && !eX e)) = false := by
    have hone (b c : Bool) (h : b = true → c = true) : (b && !c) = false := by cases b <;> cases c <;> simp_all
    rw [hone n.r (eR e) hr, hone n.w (eW e) hw, hone n.x (eX e) hx]
    rfl
  unfold State.leafCheck
  dsimp only
  rw [hperm, validLeaf_kind hl, hkey, hk.same, hk.live]
  simp

/-- A page walk to a leaf that may be used: A, and D for a write, are set, and the translation is cached (R294, R295). -/
theorem translate_leaf {s : State} {cl root key va at_ : Nat} {n : Need} {e : Word} (hu : Unknown s cl none root va n.w) (hp : LeadsL3 s root va at_) (hv : s.peekKey 0 at_ 8 = e.toNat)
    (hl : ValidLeaf s e (2 ^ 18)) (hper : Permits n e) (hk : KeyFits s key e) :
    ∃ h, s.translate cl none root key n va = (((s.setAD at_ e n.w).2.walkAdd (cl / 5) root va).tlbAdd ⟨cl, none, root, va / 2 ^ 18, false, touched n e, n.w⟩, .ok h) := by
  unfold State.translate
  rw [hu.tlb, walk_leaf hu.walks hp hv hl]
  dsimp only
  rw [leafCheck_none hl hper hk]
  exact ⟨_, rfl⟩

theorem setAD_entry {s : State} {at_ : Nat} {e : Word} {n : Need} (hv : s.peekKey 0 at_ 8 = e.toNat) : (s.setAD at_ e n.w).2.peekKey 0 at_ 8 = (touched n e).toNat := by
  show (if touched n e = e then s else s.homeWrite 0 at_ 8 (touched n e).toNat none).peekKey 0 at_ 8 = _
  split
  · next h => rw [hv, h]
  · rw [(s.homeWrite_written 0 at_ 8 (touched n e).toNat none).under]
    exact toNat_mod_eight _

/-- The walker writes the entry only where a bit changes (R294). -/
theorem setAD_cases (s : State) (at_ : Nat) (e : Word) (w : Bool) : (s.setAD at_ e w).2 = s ∨ ∃ v, (s.setAD at_ e w).2 = s.homeWrite 0 at_ 8 v none := by
  show (if (s.setAD at_ e w).1 = e then s else s.homeWrite 0 at_ 8 (s.setAD at_ e w).1.toNat none) = s ∨ _
  by_cases h : (s.setAD at_ e w).1 = e
  · exact .inl (if_pos h)
  · exact .inr ⟨_, if_neg h⟩

theorem setAD_others {s : State} {at_ : Nat} {e : Word} {w : Bool} {x : Nat} (hx : x < at_ ∨ at_ + 8 ≤ x) : (s.setAD at_ e w).2.mem.get memDefault x = s.mem.get memDefault x := by
  obtain h | ⟨v, h⟩ := setAD_cases s at_ e w
  · rw [h]
  · rw [h, s.homeWrite_other _ _ _ _ _ _ hx]

theorem setAD_rest (s : State) (at_ : Nat) (e : Word) (w : Bool) : (s.setAD at_ e w).2.cur = s.cur ∧ (s.setAD at_ e w).2.rest = s.rest ∧ (s.setAD at_ e w).2.jobs = s.jobs ∧ (s.setAD at_ e w).2.pkg = s.pkg := by
  obtain h | ⟨v, h⟩ := setAD_cases s at_ e w
  · rw [h]
    exact ⟨rfl, rfl, rfl, rfl⟩
  · rw [h]
    simp

/-- What a walk caches beside the entry is nothing memory or the strands hold. -/
theorem cached_rest (s : State) (die root va : Nat) (u : TlbEntry) : let t := (s.walkAdd die root va).tlbAdd u
    t.mem = s.mem ∧ t.keyRuns = s.keyRuns ∧ t.cur = s.cur ∧ t.rest = s.rest ∧ t.jobs = s.jobs ∧ t.pkg = s.pkg := by
  intro t
  have htlb (a : State) : (a.tlbAdd u).mem = a.mem ∧ (a.tlbAdd u).keyRuns = a.keyRuns ∧ (a.tlbAdd u).cur = a.cur ∧ (a.tlbAdd u).rest = a.rest ∧ (a.tlbAdd u).jobs = a.jobs ∧ (a.tlbAdd u).pkg = a.pkg := by
    unfold State.tlbAdd
    dsimp only
    split <;> exact ⟨rfl, rfl, rfl, rfl, rfl, rfl⟩
  have hwalk : (s.walkAdd die root va).mem = s.mem ∧ (s.walkAdd die root va).keyRuns = s.keyRuns ∧ (s.walkAdd die root va).cur = s.cur ∧ (s.walkAdd die root va).rest = s.rest ∧
      (s.walkAdd die root va).jobs = s.jobs ∧ (s.walkAdd die root va).pkg = s.pkg := by
    have hcases : s.walkAdd die root va = s ∨ ∃ f, s.walkAdd die root va = s.onDie die f := by
      unfold State.walkAdd
      exact (em _).imp (fun h => if_pos h) fun h => ⟨_, if_neg h⟩
    obtain h | ⟨f, h⟩ := hcases <;> rw [h] <;> exact ⟨rfl, rfl, rfl, rfl, rfl, rfl⟩
  obtain ⟨h1, h2, h3, h4, h5, h6⟩ := htlb (s.walkAdd die root va)
  obtain ⟨g1, g2, g3, g4, g5, g6⟩ := hwalk
  exact ⟨h1.trans g1, h2.trans g2, h3.trans g3, h4.trans g4, h5.trans g5, h6.trans g6⟩

theorem State.peekKey_congr {s t : State} (hm : t.mem = s.mem) (hk : t.keyRuns = s.keyRuns) (key loc n : Nat) : t.peekKey key loc n = s.peekKey key loc n := by
  unfold State.peekKey State.bytesAt
  rw [hm, State.decrypt_sameAt key loc _ fun x _ _ => sameAt_of_eq hm hk x]

/-- The TLB of a cluster answers with what was put there last (R295). -/
theorem tlbFind_tlbAdd (s : State) (cl root va : Nat) (e : Word) (w : Bool) :
    (s.tlbAdd ⟨cl, none, root, va / 2 ^ 18, false, e, w⟩).tlbFind cl none root va w = some ⟨cl, none, root, va / 2 ^ 18, false, e, w⟩ := by
  unfold State.tlbFind State.tlbAdd State.tlbPut
  refine (if_neg (by decide)).trans (List.find?_cons_of_pos ?_)
  show (decide (cl = cl ∧ (none : Option Nat) = none ∧ root = root ∧ va / 2 ^ 18 = va / 2 ^ 18) && (!w || w)) = true
  cases w <;> simp

theorem translate_cached {s : State} {cl root key va at_ : Nat} {n : Need} {e : Word} (hu : Unknown s cl none root va n.w) (hp : LeadsL3 s root va at_) (hv : s.peekKey 0 at_ 8 = e.toNat)
    (hl : ValidLeaf s e (2 ^ 18)) (hper : Permits n e) (hk : KeyFits s key e) :
    ∃ t h, s.translate cl none root key n va = (t, .ok h) ∧ Cached s t cl none root va at_ false (touched n e) n.w := by
  obtain ⟨h, ht⟩ := translate_leaf hu hp hv hl hper hk
  obtain ⟨hmem, hkeys, hcur, hrest, hjobs, hpkg⟩ := cached_rest (s.setAD at_ e n.w).2 (cl / 5) root va ⟨cl, none, root, va / 2 ^ 18, false, touched n e, n.w⟩
  obtain ⟨gcur, grest, gjobs, gpkg⟩ := setAD_rest s at_ e n.w
  refine ⟨_, h, ht, ?_, fun x hx => ?_, tlbFind_tlbAdd .., hcur.trans gcur, hrest.trans grest, hjobs.trans gjobs, hpkg.trans gpkg⟩
  · rw [State.peekKey_congr hmem hkeys]
    exact setAD_entry hv
  · rw [hmem]
    exact setAD_others hx

end Sys2Proof.Machine
end


section
/-! Walks, pools, held records and the tail (R294 to R301). -/

namespace Sys2Proof.Machine
open Sys2Proof.Claims

theorem pageWalk_leaf {s : State} {c : Nat} {job : BitVec 32} {j : Job} {va : Word} {kind : AccKind} {at_ : Nat} {e : Word} (hj : s.job? job = some j) (hun : isUnused va = false) (hnear : isNear va = false)
    (hc : (s.boundClusters job).contains c = true) (hu : Unknown s c none j.rec_.root va.toNat (needOf kind).w) (hp : LeadsL3 s j.rec_.root va.toNat at_) (hv : s.peekKey 0 at_ 8 = e.toNat) (hl : ValidLeaf s e (2 ^ 18))
    (hper : Permits (needOf kind) e) (hk : KeyFits s j.rec_.key e) :
    ∃ t, exec (.pageWalk c job va kind) s = .next t ∧ Cached s t c none j.rec_.root va.toNat at_ false (touched (needOf kind) e) (needOf kind).w := by
  obtain ⟨t, h, ht, hcached⟩ := translate_cached hu hp hv hl hper hk
  refine ⟨t, congrArg Host.Outcome.next ?_, hcached⟩
  show (match s.job? job with | none => s | some j => _) = _
  rw [hj]
  dsimp only
  rw [hun, hnear, hc, ht] <;> rfl

theorem pageWalk_failed {s : State} {c : Nat} {job : BitVec 32} {j : Job} {va : Word} {kind : AccKind} {f : Fail} (hj : s.job? job = some j)
    (hf : (s.translate c none j.rec_.root j.rec_.key (needOf kind) va.toNat).2 = .error f) : exec (.pageWalk c job va kind) s = .next s := by
  refine congrArg Host.Outcome.next ?_
  show (match s.job? job with | none => s | some j => _) = _
  rw [hj]
  dsimp only
  split
  · rfl
  · split
    · next h => rw [h] at hf; cases hf
    · rfl

/-- A refill of a pool keeps it within its limit, takes nothing but frames that fit, and changes nothing else (R296). -/
theorem poolRefill_fills {s : State} {d : Nat} (frames : List Nat) (hd : d < 4) (hup : s.cobaltUp = true) (hst : s.pkg.bar.state = 4) :
    ∃ t, exec (.poolRefill d frames) s = .next t ∧ (t.die d).pool.length ≤ 65536 ∧ (∀ f ∈ (t.die d).pool, f ∈ (s.die d).pool ∨ (f ∈ frames ∧ s.frameOk d f = true)) ∧
      ((s.die d).pool.length ≤ 65536 → ∀ f ∈ (s.die d).pool, f ∈ (t.die d).pool) ∧ (∀ k, k ≠ d → t.die k = s.die k) ∧ t = { s with dies := t.dies } ∧
      ((s.die d).pool.length + frames.length ≤ 65536 → ∀ f ∈ frames, s.frameOk d f = true → s.mapped f (2 ^ 18) = false → f ∈ (t.die d).pool) := by
  refine ⟨s.refill d frames, congrArg Host.Outcome.next (if_pos ⟨hd, hup, hst⟩), ?_, fun f hf => ?_, fun hlen f hf => ?_, fun k hk => ?_, rfl, fun hroom f hf hok hm => State.refill_takes hroom hf hok hm⟩
  · rw [State.refill_pool, List.length_take]
    exact Nat.min_le_left ..
  · rw [State.refill_pool] at hf
    rcases List.mem_append.mp (List.mem_of_mem_take hf) with hold | hnew
    · exact .inl hold
    · obtain ⟨hin, hok⟩ := List.mem_filter.mp hnew
      rw [Bool.and_eq_true, Bool.and_eq_true] at hok
      exact .inr ⟨List.mem_eraseDups.mp hin, hok.1.1⟩
  · rw [State.refill_pool, List.take_append, List.take_of_length_le hlen]
    exact List.mem_append_left _ hf
  · unfold State.refill
    dsimp only
    rw [State.die_onDie, if_neg hk]

/-- A held record is posted once the ring has room (R298). -/
theorem faultQueueSpace_posts {s : State} {job : BitVec 32} {j : Job} {h : HeldRec} {hs : List HeldRec} (hj : s.job? job = some j) (hheld : j.held = h :: hs) (hroom : s.fqHead j - s.fqTail j < s.fqCap j) :
    ∃ t, exec (.faultQueueSpace job) s = .next t ∧ t.job? job = some { j with held := hs } ∧ t.mem = (s.ringPut j h.bytes h.svc).mem := by
  refine ⟨(s.ringPut j h.bytes h.svc).onJob job fun x => { x with held := hs }, congrArg Host.Outcome.next ?_, ?_, rfl⟩
  · show (match s.job? job with | none => s | some j => _) = _
    rw [hj]
    dsimp only
    rw [hheld]
    exact if_pos hroom
  · exact State.job?_onJob _ ((State.job?_congr (State.ringPut_jobs ..) job).trans hj) (fun _ => rfl) (fun _ => rfl)

/-! The tail (R301). -/

theorem tailAdvance_outside {s : State} {job : BitVec 32} {j : Job} {tail : Word} (hj : s.job? job = some j) (h : tail.toNat ≤ s.fqTail j ∨ s.fqHead j < tail.toNat) : exec (.tailAdvance job tail) s = .next s := by
  refine congrArg Host.Outcome.next ?_
  show s.advance job tail.toNat = s
  unfold State.advance
  rw [hj]
  exact if_pos h

/-- A tail that goes up by one passes one record (R301). -/
theorem advance_one {s : State} {job : BitVec 32} {j : Job} {k : Nat} (hj : s.job? job = some j) (ht : s.fqTail j = k) (hk : k < s.fqHead j) :
    s.advance job (k + 1) = (s.devPut (j.rec_.fq + 24) 8 (k + 1)).passRecord job k := by
  unfold State.advance
  rw [hj]
  dsimp only
  rw [if_neg (by omega), ht, Nat.add_sub_cancel_left]
  show ((s.devPut (j.rec_.fq + 24) 8 (k + 1)).passRecord job (0 + k)) = _
  rw [Nat.zero_add]

/-- A serviced record lets the strand that stands in it go on (R301). -/
theorem passStrand_resumes {s : State} {j : Job} {k : Nat} {since : Word} (hw : s.cur.wait = none) (hr : s.cur.run = .held k since) : s.passStrand j k false = s.resumeFault := by
  unfold State.passStrand
  rw [hw, hr]
  exact if_neg (not_not_intro rfl)

theorem copiesPassed_none {s : State} (hc : s.pkg.copies = []) (hm : s.pkg.mcast = []) (job : BitVec 32) (k : Nat) (declined : Bool) : s.copiesPassed job k declined = s := by
  unfold State.copiesPassed
  rw [hc]
  dsimp only [List.filter_nil, List.foldl_nil]
  rw [hm]
  rfl

/-- A serviced record of a job with one strand, which stands in it, and no copy (R301). -/
theorem passRecord_resumes {s : State} {job : BitVec 32} {j : Job} {k : Nat} {since : Word} (hj : s.job? job = some j) (hcur : s.cur.job = job) (h0 : job ≠ 0) (hw : s.cur.wait = none) (hr : s.cur.run = .held k since)
    (hrest : s.rest = []) (hc : s.pkg.copies = []) (hm : s.pkg.mcast = []) (hmark : s.recMarked j k = true) (hdec : s.recDeclined j k = false) : s.passRecord job k = s.resumeFault := by
  have huids : s.jobUids job = [s.cur.uid] := by
    unfold State.jobUids State.strands
    rw [hrest, List.filter_cons_of_pos (by simp only [hcur, decide_true, Bool.true_and, decide_eq_true_eq]; exact h0)]
    rfl
  have hself (f : State → State) : s.asUid s.cur.uid f = f s := if_pos rfl
  unfold State.passRecord
  rw [hj]
  dsimp only
  rw [huids, hmark, hdec]
  show (s.asUid s.cur.uid fun s => s.passStrand j k false).copiesPassed job k false = _
  rw [hself, passStrand_resumes hw hr]
  exact copiesPassed_none (s := s.resumeFault) hc hm job k false

theorem State.devPut_rest (s : State) (loc n v : Nat) : (s.devPut loc n v).rest = s.rest := by
  unfold State.devPut
  split
  · exact s.homeWrite_rest 0 loc n v none
  · rfl

theorem tailAdvance_resumes {s u : State} {job : BitVec 32} {j : Job} {k : Nat} {since tail : Word} (hj : s.job? job = some j) (hcur : s.cur.job = job) (h0 : job ≠ 0) (hw : s.cur.wait = none)
    (hr : s.cur.run = .held k since) (hrest : s.rest = []) (hc : s.pkg.copies = []) (hm : s.pkg.mcast = []) (ht : s.fqTail j = k) (hk : k < s.fqHead j) (htail : tail.toNat = k + 1)
    (hu : u = s.devPut (j.rec_.fq + 24) 8 (k + 1)) (hmark : u.recMarked j k = true) (hdec : u.recDeclined j k = false) :
    ∃ t, exec (.tailAdvance job tail) s = .next t ∧ t.cur = { s.cur with run := .ready } ∧ t.mem = u.mem ∧ t.pkg = s.pkg := by
  have hucur : u.cur = s.cur := by rw [hu]; exact State.devPut_cur ..
  have hupkg : u.pkg = s.pkg := by rw [hu]; exact State.devPut_pkg ..
  have hujob : u.job? job = some j := by rw [hu, State.job?_congr (State.devPut_jobs ..), hj]
  have hurest : u.rest = [] := by rw [hu, State.devPut_rest, hrest]
  have hpass : u.passRecord job k = u.resumeFault :=
    passRecord_resumes (since := since) hujob (by rw [hucur, hcur]) h0 (by rw [hucur, hw]) (by rw [hucur, hr]) hurest (by rw [hupkg, hc]) (by rw [hupkg, hm]) hmark hdec
  refine ⟨u.resumeFault, congrArg Host.Outcome.next ?_, congrArg (fun c : Strand => { c with run := .ready }) hucur, rfl, hupkg⟩
  show s.advance job tail.toNat = _
  rw [htail, advance_one hj ht hk, ← hu, hpass]

/-! What the paging service does (R302). -/

section
variable {s : State} {job : BitVec 32} {j : Job} {k : Nat} (h : ToService s job j k)
include h

/-- A record that asks for a pool's refill (R296, R302). -/
theorem pagingService_refills (e : Nat) (v : Word) (supply : PageSupply) (hcode : s.devGet (s.recPa j k) 1 = 0x12) : let d := sidDie (BitVec.ofNat 32 (s.devGet (s.recPa j k + 8) 4))
    ∃ t, exec (.pagingService job k e v supply false) s = .next t ∧ t.recMarked j k = true ∧ t.recDeclined j k = false ∧ t.fqTail j = s.fqTail j ∧ t.jobs = s.jobs ∧
      (d < 4 → (s.die d).pool.length + supply.frames.length ≤ 65536 → ∀ f ∈ supply.frames, s.frameOk d f = true → s.mapped f (2 ^ 18) = false → f ∈ (t.die d).pool) := by
  intro d
  have hsame (x : Nat) : SameAt s (s.refill d supply.frames) x := sameAt_of_eq rfl rfl x
  obtain ⟨hmark, hdec, htail, hjobs, ⟨m, hput⟩⟩ := markRecord_marked h (t := s.refill d supply.frames) ((State.job?_congr rfl job).trans h.live) (fun x _ _ => hsame x) (hsame _)
  refine ⟨_, exec_pagingService_pool h e v supply hcode, hmark, hdec, htail, hjobs, fun _ hroom f hf hok hm => ?_⟩
  rw [hput, State.devPut_pool]
  exact State.refill_takes hroom hf hok hm

/-- A record of a page that is mapped nowhere: its entry is written, and the record marked (R302). -/
theorem pagingService_installs {e size : Nat} {v : Word} (supply : PageSupply) (hcode : s.devGet (s.recPa j k) 1 = 0x10) (hp : s.fqPaging j = true)
    (hfind : (s.leafEntries j.rec_.root (s.devGet (s.recPa j k + 24) 8)).find? (fun x => decide (x.1 = e)) = some (e, size)) (hold : s.peekKey 0 e 8 % 2 = 0) (hfree : s.frameFree v size = true)
    (hmv : ∀ x ∈ s.pkg.moving, x.1 ≠ e) (he : isHbm e = true) (hring : e + 8 ≤ s.fqBase j ∨ s.fqBase j + s.fqCap j * 64 ≤ e) (hhead : e + 8 ≤ j.rec_.fq ∨ j.rec_.fq + 48 ≤ e)
    (hdata : supply.data = [] ∨ ((eFrame v * 2 ^ 18 + size ≤ s.fqBase j ∨ s.fqBase j + s.fqCap j * 64 ≤ eFrame v * 2 ^ 18) ∧ (eFrame v * 2 ^ 18 + size ≤ j.rec_.fq ∨ j.rec_.fq + 48 ≤ eFrame v * 2 ^ 18))) :
    ∃ t, exec (.pagingService job k e v supply false) s = .next t ∧ t.recMarked j k = true ∧ t.recDeclined j k = false ∧ t.peekKey 0 e 8 = v.toNat ∧ t.jobs = s.jobs := by
  have hlt : e < 2 ^ 40 := of_decide_eq_true he
  have hv : eV (s.entryAt e 0) = false := by
    rw [eV, getLsbD_zero_iff, State.entryAt, Nat.mul_zero, Nat.add_zero, BitVec.toNat_ofNat]
    exact decide_eq_false (by omega)
  have hservice := serviceEntry_installs (job := job) (data := supply.data) hfind hv hfree hmv
  obtain ⟨hlow, hhigh⟩ := recPa_in (s.fqTail j) (toService_cap h)
  obtain ⟨klow, khigh⟩ := recPa_in k (toService_cap h)
  have hkept (x : Nat) (hx : x < e ∨ e + 8 ≤ x) (hd : supply.data = [] ∨ x < eFrame v * 2 ^ 18 ∨ eFrame v * 2 ^ 18 + size ≤ x) :
      SameAt s ((pageFilled s j.rec_.root (s.devGet (s.recPa j k + 24) 8) size v supply.data).devPut e 8 v.toNat) x :=
    (sameAt_pageFilled s _ _ size v supply.data hd).trans (sameAt_devPut _ e 8 _ hx)
  have hheader : HeaderKept s ((pageFilled s j.rec_.root (s.devGet (s.recPa j k + 24) 8) size v supply.data).devPut e 8 v.toNat) j :=
    fun x h1 h2 => hkept x (by omega) (hdata.imp_right fun hd => by omega)
  have hjobs : ((pageFilled s j.rec_.root (s.devGet (s.recPa j k + 24) 8) size v supply.data).devPut e 8 v.toNat).jobs = s.jobs := (State.devPut_jobs ..).trans (pageFilled_jobs ..)
  obtain ⟨hmark, hdec, -, gjobs, ⟨m, hput⟩⟩ := markRecord_marked h ((State.job?_congr hjobs job).trans h.live) hheader (hkept _ (by omega) (hdata.imp_right fun hd => by omega))
  refine ⟨_, exec_pagingService_page h e v supply hcode hp hservice, hmark, hdec, ?_, gjobs.trans hjobs⟩
  rw [if_pos rfl, hput, headerKept_recPa hheader, ← State.devGet_hbm _ 8 hlt, State.devGet_sameAt fun x h1 h2 => sameAt_devPut _ _ 1 m (by omega), State.devGet_devPut _ 8 _ hlt]
  exact toNat_mod_eight v

/-- A record of a page whose entry is valid and is to lead elsewhere: V is cleared first (R302, R304). -/
theorem pagingService_clears {e size : Nat} {v : Word} (supply : PageSupply) (hcode : s.devGet (s.recPa j k) 1 = 0x10) (hp : s.fqPaging j = true)
    (hfind : (s.leafEntries j.rec_.root (s.devGet (s.recPa j k + 24) 8)).find? (fun x => decide (x.1 = e)) = some (e, size)) (he : isHbm e = true) (hold : eV (s.entryAt e 0) = true)
    (hgo : ¬ (eV v = true ∧ eKind v = eKind (s.entryAt e 0) ∧ eFrame v = eFrame (s.entryAt e 0))) :
    ∃ t, exec (.pagingService job k e v supply false) s = .next t ∧ t.peekKey 0 e 8 = (s.entryAt e 0 &&& ~~~1#64).toNat ∧ (e, s.entryAt e 0) ∈ t.pkg.moving ∧
      (∀ x, x < e ∨ e + 8 ≤ x → t.mem.get memDefault x = s.mem.get memDefault x) ∧ t.jobs = s.jobs := by
  have hlt : e < 2 ^ 40 := of_decide_eq_true he
  obtain ⟨hmem, hkeys, hjobs, -⟩ := pageDropped_kept s j.rec_.root (s.devGet (s.recPa j k + 24) 8) size
  refine ⟨_, exec_pagingService_page h e v supply hcode hp (serviceEntry_clears (job := job) (data := supply.data) hfind hold hgo), ?_, ?_, fun x hx => ?_, ?_⟩
  · have hget := (pageDropped s j.rec_.root (s.devGet (s.recPa j k + 24) 8) size).devGet_devPut 8 (s.entryAt e 0 &&& ~~~1#64).toNat hlt
    rw [State.devGet_hbm _ 8 hlt, toNat_mod_eight] at hget
    exact hget
  · exact List.mem_cons_self
  · exact ((sameAt_of_eq hmem hkeys x).trans (sameAt_devPut _ e 8 (s.entryAt e 0 &&& ~~~1#64).toNat hx)).1
  · exact (State.devPut_jobs ..).trans hjobs

end

end Sys2Proof.Machine
end


section
/-! Errors that the scrubber finds, and lost queues (R173, R259, R306). -/

namespace Sys2Proof.Machine
open Sys2Proof.Claims

theorem State.poisoned_word (s : State) (w : Nat) : s.poisoned (w * 8) 8 = s.poison.get false w := by
  unfold State.poisoned
  rw [show (w * 8 + 8 - 1) / 8 - w * 8 / 8 + 1 = 1 by omega, show w * 8 / 8 = w by omega]
  simp

/-- A word that is poisoned reads as poisoned (R173). -/
theorem State.setPoison_word (s : State) (w : Nat) : (s.setPoison (w * 8) 8 true).poisoned (w * 8) 8 = true := by
  rw [State.poisoned_word, State.setPoison, show (w * 8 + 8 - 1) / 8 - w * 8 / 8 + 1 = 1 by omega, show w * 8 / 8 = w by omega]
  exact SMap.get_set_self false s.poison w true

/-- The scrubber logs the error of a word that has a place for it, and poisons the word where it cannot correct it (R306). -/
theorem exec_patrolScrub {s : State} {loc : Nat} {bad : Bool} (h : ((s.errUnit loc).isNone && (coreOfLoc loc).isNone) = false) :
    exec (.patrolScrub (.word loc) bad) s = .next (if bad then (s.logError loc bad).setPoison (loc / 8 * 8) 8 true else s.logError loc bad) :=
  congrArg Host.Outcome.next (if_neg (by rw [h]; decide))

/-- The errors of HBM and of the vaults are logged by their die (R306). -/
theorem patrolScrub_unit {s : State} {loc d unit : Nat} {bad : Bool} (h : s.errUnit loc = some (d, unit)) :
    ∃ t, exec (.patrolScrub (.word loc) bad) s = .next t ∧ (t.die d).errlog = (s.die d).errlog ++ [⟨unit, loc / 8 * 8, bad⟩] ∧ t.mem = s.mem ∧
      (bad = true → t.poisoned (loc / 8 * 8) 8 = true) ∧ (bad = false → t.poison = s.poison) := by
  have hexec := exec_patrolScrub (loc := loc) (bad := bad) (by rw [h]; rfl)
  have hlog := State.logError_die bad h
  cases bad with
  | true => exact ⟨_, hexec, hlog, State.logError_mem .., fun _ => State.setPoison_word .., fun h => absurd h (by decide)⟩
  | false => exact ⟨_, hexec, hlog, State.logError_mem .., fun h => absurd h (by decide), fun _ => State.logError_poison ..⟩

/-- Those of a scratchpad are counted at its core (R173). -/
theorem patrolScrub_core {s : State} {loc c : Nat} {bad : Bool} (h : s.errUnit loc = none) (hc : coreOfLoc loc = some c) :
    ∃ t, exec (.patrolScrub (.word loc) bad) s = .next t ∧ (t.core c).errors = (s.core c).errors + 1 ∧ t.mem = s.mem ∧ (bad = true → t.poisoned (loc / 8 * 8) 8 = true) := by
  have hexec := exec_patrolScrub (s := s) (loc := loc) (bad := bad) (by rw [hc]; exact Bool.and_false _)
  have hlog : s.logError loc bad = s.onCore c fun k => { k with errors := k.errors + 1 } := by
    unfold State.logError
    rw [h, hc]
  have hcount : ((s.logError loc bad).core c).errors = (s.core c).errors + 1 := by rw [hlog, State.core_onCore_self]
  cases bad with
  | true => exact ⟨_, hexec, hcount, State.logError_mem .., fun _ => State.setPoison_word ..⟩
  | false => exact ⟨_, hexec, hcount, State.logError_mem .., fun h => absurd h (by decide)⟩

/-! Lost queues (R259). -/

theorem State.devPut_clusters (s : State) (loc n v : Nat) : (s.devPut loc n v).clusters = s.clusters := by
  unfold State.devPut
  split
  · exact s.homeWrite_clusters 0 loc n v none
  · rfl

/-- Posting a record changes no cluster. -/
theorem State.postRecord_clusters (s : State) (j : Job) (r : FaultRec) (svc : List Byte) : (s.postRecord j r svc).2.clusters = s.clusters := by
  have hring (t : State) (bytes : List Byte) : (t.ringPut j bytes svc).clusters = t.clusters :=
    t.ringPut_cases j bytes svc (p := fun a => a.clusters = t.clusters) (fun a _ _ _ h => (a.devPut_clusters ..).trans h) (fun _ h => h) rfl
  have hbig : (if r.big then s.onJob j.id fun x => { x with bigRecs := (s.fqHead j + j.held.length) :: x.bigRecs } else s).clusters = s.clusters := by split <;> rfl
  unfold State.postRecord
  split
  · exact State.devPut_clusters ..
  · dsimp only
    split
    · exact (hring _ _).trans hbig
    · exact hbig

theorem State.workQ_congr {s t : State} (h : t.clusters = s.clusters) (c k : Nat) : t.workQ c k = s.workQ c k := by
  unfold State.workQ State.cluster
  rw [h]

theorem State.taskQ_congr {s t : State} (h : t.clusters = s.clusters) (c : Nat) (job : BitVec 32) : t.taskQ c job = s.taskQ c job := by
  unfold State.taskQ State.cluster
  rw [h]

theorem State.cluster_onCluster_self (s : State) (c : Nat) (f : Cluster → Cluster) : (s.onCluster c f).cluster c = f (s.cluster c) := SMap.get_set_self ..

/-- The queue of a cluster that a lost queue's event names, lost (R259). -/
def State.loseQueue (s : State) (c : Nat) (job : BitVec 32) : Option Nat → State
  | some q => s.setWorkQ c (workKey job (q % 64)) ⟨[], true⟩
  | none => s.setTaskQ c job ⟨(s.taskQ c job).items.filter fun i => i.resume.isSome, true⟩

/-- What a lost queue's event leaves: the queue lost, and a record posted (R259). -/
theorem exec_queueLost {s : State} {c : Nat} {job : BitVec 32} {j : Job} (hj : s.job? job = some j) (hc : c < 20) (hb : (s.boundClusters job).contains c = true) (q : Option Nat) :
    ∃ t r, exec (.queueLost c job q) s = .next t ∧ t = ((s.loseQueue c job q).postRecord j r []).2 := by
  have hexec : exec (.queueLost c job q) s = .next (match s.job? job with
    | none => s
    | some j => if 20 ≤ c ∨ (s.boundClusters job).contains c = false then s else ((s.loseQueue c job q).postRecord j ⟨.queueLost, false, false, false, 0, 0, word (c % 5 * 64 + q.getD 0), 0, 0, 0, 0, 0, false, none, none⟩ []).2) := by
    cases q <;> rfl
  rw [hj] at hexec
  refine ⟨_, _, hexec.trans (congrArg Host.Outcome.next (if_neg ?_)), rfl⟩
  simp only [hb, Bool.true_eq_false, or_false]
  omega

theorem queueLost_work {s : State} {c : Nat} {job : BitVec 32} {j : Job} (q : Nat) (hj : s.job? job = some j) (hc : c < 20) (hb : (s.boundClusters job).contains c = true) :
    ∃ t, exec (.queueLost c job (some q)) s = .next t ∧ t.workQ c (workKey job (q % 64)) = ⟨[], true⟩ ∧ (∀ k, k ≠ workKey job (q % 64) → t.workQ c k = s.workQ c k) := by
  obtain ⟨t, r, hexec, ht⟩ := exec_queueLost hj hc hb (some q)
  have hq (k : Nat) : t.workQ c k = SMap.get ⟨[], false⟩ (SMap.set ⟨[], false⟩ (s.cluster c).workq (workKey job (q % 64)) ⟨[], true⟩) k := by
    rw [ht, State.workQ_congr (State.postRecord_clusters ..), State.loseQueue, State.workQ, State.setWorkQ, State.cluster_onCluster_self]
  exact ⟨t, hexec, (hq _).trans (SMap.get_set_self ..), fun k hk => (hq k).trans (SMap.get_set_ne _ _ _ hk)⟩

theorem queueLost_task {s : State} {c : Nat} {job : BitVec 32} {j : Job} (hj : s.job? job = some j) (hc : c < 20) (hb : (s.boundClusters job).contains c = true) :
    ∃ t, exec (.queueLost c job none) s = .next t ∧ t.taskQ c job = ⟨(s.taskQ c job).items.filter (fun i => i.resume.isSome), true⟩ := by
  obtain ⟨t, r, hexec, ht⟩ := exec_queueLost hj hc hb none
  refine ⟨t, hexec, ?_⟩
  rw [ht, State.taskQ_congr (State.postRecord_clusters ..), State.loseQueue, State.taskQ, State.setTaskQ, State.cluster_onCluster_self]
  exact SMap.get_set_self ..

/-- Settles O43: each event of paging, of the fault queue, of the scrubber and of a lost queue by its own lemma. -/
theorem pagingAndErrors : Obligations.PagingAndErrors := by
  unfold Obligations.PagingAndErrors
  refine ⟨⟨?walk, ?failed, ?refill, ?held, ?outside, ?resumes, ?pool, ?installs, ?clears, ?down⟩, ?unit, ?core, ?work, ?task⟩
  case walk => exact fun s c job j va kind at_ e hj hun hnear hc hu hp hv hl hper hk => pageWalk_leaf hj hun hnear hc hu hp hv hl hper hk
  case failed => exact fun s c job j va kind f hj hf => pageWalk_failed hj hf
  case refill => exact fun s d frames hd hup hst => poolRefill_fills frames hd hup hst
  case held => exact fun s job j h hs hj hheld hroom => faultQueueSpace_posts hj hheld hroom
  case outside => exact fun s job j tail hj h => tailAdvance_outside hj h
  case resumes => exact fun s u job j k since tail hj hcur h0 hw hr hrest hc hm ht hk htail hu hmark hdec => tailAdvance_resumes hj hcur h0 hw hr hrest hc hm ht hk htail hu hmark hdec
  case pool => exact fun s job j k e v supply h hcode => pagingService_refills h e v supply hcode
  case installs => exact fun s job j k e size v supply h hcode hp hfind hold hfree hmv he hring hhead hdata => pagingService_installs h supply hcode hp hfind hold hfree hmv he hring hhead hdata
  case clears => exact fun s job j k e size v supply h hcode hp hfind he hold hgo => pagingService_clears h supply hcode hp hfind he hold hgo
  case down => exact fun s job k e v frames d h => pagingService_down h job k e v frames d
  case unit => exact fun s loc bad d unit h => patrolScrub_unit h
  case core => exact fun s loc bad c h hc => patrolScrub_core h hc
  case work => exact fun s c job j q hj hc hb => queueLost_work q hj hc hb
  case task => exact fun s c job j hj hc hb => queueLost_task hj hc hb

end Sys2Proof.Machine
end

section
/-! Gang pre-emption (R328, R329): a state that refutes the statement about the return of a saved job. -/

namespace Sys2Proof.Machine
open Sys2Proof.Claims

/-- What a save kept of core 0: its matrix unit at rest, and no byte. -/
def twinCores : List SavedCore := [⟨0, Matrix.scrubbed, [], [], [], []⟩]

/-- A running job that a gang pre-emption saved from core 0. -/
def twinJob : Job := { demoJob State.reset with gang := .saved twinCores ⟨[], [], []⟩, cores := [] }

/-- A strand that the save took from its slot. -/
def twinFirst : Strand := { State.reset.running.cur with away := true }

/-- A second saved strand, at another instruction, under the uid of the first. -/
def twinSecond : Strand := { twinFirst with pc := twinFirst.pc + 4 }

/-- The package with the saved job, its two strands and its core free. -/
def twinState : State :=
  ({ State.reset.running with jobs := [twinJob], cur := twinFirst, rest := [twinSecond] } : State).onCore 0 fun c => { c with lease := ⟨none, none, 5, false⟩ }

/-- The second strand belongs to the saved job, is away and waits in no task queue for a slot. -/
theorem twinSecond_saved : twinSecond.job = 1 ∧ twinSecond.away = true ∧
    ∀ c ∈ twinState.clusters, ∀ i ∈ (c.2.taskq.get ⟨[], false⟩ (1 : BitVec 32).toNat).items, i.resume ≠ some twinSecond.uid := by
  decide +kernel

theorem twinState_job : twinState.job? 1 = some twinJob := by decide +kernel

theorem twinState_first : ∀ x ∈ twinState.jobs, x.id ≠ 1 → x.servedBefore twinJob twinState.gtime = true → ∀ c ∈ twinCores, twinState.awaits x c.core = false := by
  decide +kernel

theorem twinState_ready : ∀ c ∈ twinCores,
    c.core < 240 ∧ twinState.coreFree c.core = true ∧ ((twinState.core c.core).lease.key = twinJob.rec_.key ∨ (twinState.core c.core).lease.scrubbed = true) := by
  decide +kernel

theorem twinState_up : twinState.cobaltUp = true := by decide +kernel

/-- A saved job whose cores are free and that no job precedes goes back to its cores (R329). -/
theorem gangResume_restores {s : State} {job : BitVec 32} {j : Job} {cores : List SavedCore} {objs : SavedObjs} (hj : s.job? job = some j) (hg : j.gang = .saved cores objs) (hup : s.cobaltUp = true)
    (hstop : j.stopReq = none) (hrun : j.slate.st = .running) (hfirst : ∀ x ∈ s.jobs, x.id ≠ job → x.servedBefore j s.gtime = true → ∀ c ∈ cores, s.awaits x c.core = false)
    (hready : ∀ c ∈ cores, c.core < 240 ∧ s.coreFree c.core = true ∧ ((s.core c.core).lease.key = j.rec_.key ∨ (s.core c.core).lease.scrubbed = true)) :
    exec (.gangResume job) s = .next (s.gangRestore j cores objs) := by
  have hall : (cores.all fun c => s.coreFree c.core && (decide ((s.core c.core).lease.key = j.rec_.key) || (s.core c.core).lease.scrubbed)) = true := by
    refine List.all_eq_true.mpr fun c hc => ?_
    obtain ⟨-, hfree, hkey⟩ := hready c hc
    simpa [hfree] using hkey
  have hnone : (s.jobs.any fun x => decide (x.id ≠ job) && x.servedBefore j s.gtime && cores.any fun d => s.awaits x d.core) = false := by
    refine List.any_eq_false.mpr fun x hx => ?_
    simp only [Bool.and_eq_true, decide_eq_true_eq, List.any_eq_true, not_and, not_exists, and_imp]
    exact fun hid hserved d hd => by simp [hfirst x hx hid hserved d hd]
  show execGangResume job s = _
  unfold execGangResume
  rw [hj]
  dsimp only
  rw [hg]
  dsimp only
  rw [hall, hnone, hup, hstop, hrun]
  rfl

/-- The return of the job reaches the strand of the uid that is current: the other stays away (R329). -/
theorem gangRestore_twin : ∀ y ∈ (twinState.gangRestore twinJob twinCores ⟨[], [], []⟩).strands, y.pc = twinSecond.pc → y.away = true := by
  decide +kernel

/-- Refutes O40: the statement does not ask that the uids of a saved job's strands differ, and of two strands under one uid only the current one is brought back. -/
theorem not_gangsAndEnds : ¬ Obligations.GangsAndEnds := by
  unfold Obligations.GangsAndEnds
  rintro ⟨-, -, hsaved, -, -⟩
  obtain ⟨hjob, haway, hqueued⟩ := twinSecond_saved
  obtain ⟨t, k, hexec, -, -, -, -, -, hback, -⟩ :=
    hsaved twinState 1 twinJob twinCores ⟨[], [], []⟩ twinState_job rfl twinState_up rfl rfl twinState_first twinState_ready (by decide) (by decide) (by decide)
  obtain rfl : _ = t := Host.Outcome.next.inj ((gangResume_restores twinState_job rfl twinState_up rfl rfl twinState_first twinState_ready).symm.trans hexec)
  have hthere := hback twinSecond (List.mem_cons_of_mem _ (List.mem_singleton_self _)) hjob haway hqueued
  exact absurd (gangRestore_twin _ hthere rfl) (by decide)

end Sys2Proof.Machine
end

section
/-! Waits that come to their bound (R71, R74): a state that refutes the statement about them. -/

namespace Sys2Proof.Machine
open Sys2Proof.Claims

/-- Refutes O33: a wait for room in the matrix queue ends with the record it was given, but a record that carries its own time of detection, as R202 lets a record do, stands in the ring with that time, not with the time of the fault. -/
theorem not_waitsExpire : ¬ Obligations.WaitsExpire := by
  unfold Obligations.WaitsExpire
  rintro ⟨-, -, -, hmatrix, -⟩
  obtain ⟨t, -, rfl, htaken⟩ := hmatrix lateState lateWait lateRec lateState_due rfl rfl (by decide +kernel)
  exact lateState_not_faultTaken (htaken lateJob lateState_postable)

end Sys2Proof.Machine
end

section
/-! Reductions by the pairwise tree, and scans (R123, R124, R146, R147). -/

namespace Sys2Proof.Machine
open Sys2Proof.Claims

/-! The pairwise tree (R123). -/

/-- The result of a subtree of a reduction, with the flags its additions raised. -/
abbrev RedVal := Option Nat × Flags

/-- Two neighbours of a reduction: they combine where both have a value, else the one that has passes (R123). -/
def redPair (f : Nat → Nat → Nat × Flags) (a b : RedVal) : RedVal :=
  match a.1, b.1 with
  | some x, some z => (some (f x z).1, a.2 ||| b.2 ||| (f x z).2)
  | some x, none => (some x, a.2 ||| b.2)
  | none, z => (z, a.2 ||| b.2)

/-- The tree of R123 over leaves that carry flags of their own. -/
def redTree (f : Nat → Nat → Nat × Flags) (leaf : Nat → RedVal) : (levels from_ : Nat) → RedVal
  | 0, i => leaf i
  | l + 1, i => redPair f (redTree f leaf l i) (redTree f leaf l (i + 2 ^ l))

theorem treeOf_eq_redTree (f : Nat → Nat → Nat × Flags) (leaf : Nat → Option Nat) (l i : Nat) : treeOf f leaf l i = redTree f (fun j => (leaf j, 0)) l i := by
  induction l generalizing i with
  | zero => rfl
  | succ l ih => rw [treeOf, redTree, ih, ih]; rfl

/-- The tree may be read from its leaves up: neighbours first. -/
theorem redTree_pairs (f : Nat → Nat → Nat × Flags) (leaf : Nat → RedVal) (l i : Nat) :
    redTree f leaf (l + 1) (2 * i) = redTree f (fun j => redPair f (leaf (2 * j)) (leaf (2 * j + 1))) l i := by
  induction l generalizing i with
  | zero => rfl
  | succ l ih =>
    rw [redTree, ih, show 2 * i + 2 ^ (l + 1) = 2 * (i + 2 ^ l) by rw [Nat.pow_succ]; omega, ih]
    rfl

/-- One level of a reduction over values with flags. -/
def redLevel (f : Nat → Nat → Nat × Flags) : List RedVal → List RedVal
  | a :: b :: l => redPair f a b :: redLevel f l
  | [a] => [a]
  | [] => []

/-- The flags of a level's values together. -/
def redFlags (l : List RedVal) : Flags := l.foldr (fun a fl => a.2 ||| fl) 0

/-- A value beyond the end of a level is none. -/
def redAt (l : List RedVal) (j : Nat) : RedVal := l.getD j (none, 0)

theorem redPair_none (f : Nat → Nat → Nat × Flags) (a : RedVal) : redPair f a (none, 0) = a := by
  obtain ⟨_ | x, fl⟩ := a <;> exact congrArg _ (BitVec.or_zero)

/-- What stands at a place of the next level. -/
theorem redAt_redLevel (f : Nat → Nat → Nat × Flags) : ∀ (l : List RedVal) (j : Nat), redAt (redLevel f l) j = redPair f (redAt l (2 * j)) (redAt l (2 * j + 1))
  | [], j => by
    simp only [redLevel, redAt, List.getD_nil]
    rw [redPair_none]
  | [a], 0 => (redPair_none f a).symm
  | [a], j + 1 => by
    simp only [redLevel, redAt, Nat.mul_add, List.getD_cons_succ, List.getD_nil]
    rw [redPair_none]
  | a :: b :: l, 0 => rfl
  | a :: b :: l, j + 1 => by
    refine (redAt_redLevel f l j).trans ?_
    rw [show 2 * (j + 1) = 2 * j + 1 + 1 by omega]
    rfl

theorem redLevel_length (f : Nat → Nat → Nat × Flags) : ∀ l : List RedVal, (redLevel f l).length = (l.length + 1) / 2
  | [] => by simp [redLevel]
  | [_] => by simp [redLevel]
  | a :: b :: l => by
    simp only [redLevel, List.length_cons, redLevel_length f l]
    omega

/-- A level of the model's reduction is one over values with flags: the same values, and the flags its pairs raise. -/
theorem treeLevel_redLevel (f : Nat → Nat → Nat × Flags) : ∀ l : List RedVal,
    (redLevel f l).map Prod.fst = (treeLevel f (l.map Prod.fst)).1 ∧ redFlags (redLevel f l) = redFlags l ||| (treeLevel f (l.map Prod.fst)).2
  | [] => by simp [redLevel, treeLevel, redFlags]
  | [(a, fl)] => by cases a <;> exact ⟨rfl, BitVec.or_zero.symm⟩
  | (a, fa) :: (b, fb) :: l => by
    obtain ⟨hvals, hflags⟩ := treeLevel_redLevel f l
    rcases a with _ | x <;> rcases b with _ | z <;>
    · refine ⟨congrArg (_ :: ·) hvals, ?_⟩
      show _ ||| redFlags (redLevel f l) = _
      rw [hflags]
      simp only [redPair, redFlags, List.map_cons, List.foldr_cons, treeLevel]
      ac_rfl

/-- The model's reduction of a level that a tree of so many levels holds is the tree (R123). -/
theorem treeReduce_redTree (f : Nat → Nat → Nat × Flags) (n : Nat) (l : List RedVal) (h : l.length ≤ 2 ^ n) :
    redTree f (redAt l) n 0 = ((treeReduce f n (l.map Prod.fst)).1, redFlags l ||| (treeReduce f n (l.map Prod.fst)).2) := by
  induction n generalizing l with
  | zero =>
    match l, h with
    | [], _ => exact congrArg (none, ·) (BitVec.or_zero).symm
    | [(a, fl)], _ => exact congrArg (a, ·) (by simp [redFlags, treeReduce])
  | succ n ih =>
    obtain ⟨hvals, hflags⟩ := treeLevel_redLevel f l
    have hlen : (redLevel f l).length ≤ 2 ^ n := by
      rw [redLevel_length]
      rw [Nat.pow_succ] at h
      omega
    have hleaves : (fun j => redPair f (redAt l (2 * j)) (redAt l (2 * j + 1))) = redAt (redLevel f l) := funext fun j => (redAt_redLevel f l j).symm
    rw [show (0 : Nat) = 2 * 0 from rfl, redTree_pairs, hleaves, ih _ hlen, hvals, hflags, treeReduce, BitVec.or_assoc]

theorem redFlags_fresh (l : List (Option Nat)) : redFlags (l.map fun x => (x, 0)) = 0 := by
  induction l with
  | nil => rfl
  | cons x l ih => exact (congrArg (0 ||| ·) ih)

/-- A reduction of positions below n is the tree of R123 over all positions. -/
theorem treeReduce_treeOf (f : Nat → Nat → Nat × Flags) {n levels : Nat} (h : n ≤ 2 ^ levels) {leaf : Nat → Option Nat} (hout : ∀ j, n ≤ j → leaf j = none) :
    treeReduce f levels ((List.range n).map leaf) = treeOf f leaf levels 0 := by
  have hat : (fun j => (leaf j, (0 : Flags))) = redAt (((List.range n).map leaf).map fun x => (x, 0)) := by
    funext j
    by_cases hj : j < n
    · simp [redAt, hj]
    · simp [redAt, hj, hout j (Nat.le_of_not_lt hj)]
  rw [treeOf_eq_redTree, hat, treeReduce_redTree f levels _ (by simpa using h), redFlags_fresh, List.map_map]
  simp [Function.comp_def]

theorem Strand.n_le (t : Strand) : t.n ≤ 2 ^ treeLevels := by
  have hw : 4 ≤ widthOf t.vty := by cases t.vty <;> decide
  have hbits := t.n_mul_width
  have : t.n * 4 ≤ 8192 := (Nat.mul_le_mul_left _ hw).trans hbits
  rw [treeLevels]; omega

theorem extendScalar_eq (ty : ElTy) (c : Nat) : extendScalar ty c = toScalar ty c := by
  have hsigned : toSigned (widthOf ty) c = signedAt (widthOf ty) (c % 2 ^ widthOf ty) := by
    rw [← toSigned_eq (widthOf_pos ty) (Nat.mod_lt _ (Nat.two_pow_pos _))]
    unfold toSigned
    rw [Nat.mod_mod]
  unfold extendScalar toScalar
  rw [hsigned]

/-- The strand's reduction by the tree over element positions (R123, R126). -/
theorem Strand.reduce_eq (t : Strand) (a k : BitVec 5) (ty : ElTy) (g : Nat → Nat) (f : Nat → Nat → Nat × Flags) (e : Nat) :
    t.reduce a k ty g f e =
      let r := treeOf f (fun j => if on t k j then some (g (elemAt (widthOf t.vty) (t.getV a) j)) else none) treeLevels 0
      (toScalar ty (r.1.getD e), r.2) := by
  have hleaves : leaves (widthOf t.vty) t.n (t.mask k) (t.getV a) g =
      (List.range t.n).map fun j => if on t k j then some (g (elemAt (widthOf t.vty) (t.getV a) j)) else none :=
    List.map_congr_left fun j _ => by rw [active_mask]
  have hout : ∀ j, t.n ≤ j → (if on t k j then some (g (elemAt (widthOf t.vty) (t.getV a) j)) else none) = none := fun j hj =>
    if_neg (by rw [on, decide_eq_false (Nat.not_lt.mpr hj), Bool.false_and]; decide)
  unfold Strand.reduce
  rw [hleaves, treeReduce_treeOf f t.n_le hout]
  exact congrArg (·, _) (extendScalar_eq ..)

/-! The scalar result of a vector instruction (R134). -/

/-- A vector instruction with a scalar destination, once its issue check is known (R71, R128, R137). -/
theorem vissue_scalar {s : State} {d : BitVec 5} {vsrcs vecs : List (BitVec 5)} {ok : Strand → Bool} (k : State → State) (h : VReady s [d] vecs) (hv : ∀ v ∈ vsrcs, v ∈ vecs) :
    s.vissue [] [d] vsrcs [] ok k = if ok s.cur then k s else s.faultCode .illegalOperand 0 0 0 := by
  refine (issue_of_ready h.ready [] [d] _ (by simp)).trans ?_
  show s.strips vsrcs _ = _
  rw [strips_unbound _ fun v hm => h.unbound v (hv v hm), show s.cur.anyStream [] = false from rfl, h.rows, if_neg h.lanes, if_neg Bool.false_ne_true]
  cases ok s.cur <;> rfl

theorem Strand.markEmpty_eq (t : Strand) (d : BitVec 5) : t.markEmpty d = { t with full := (t.markEmpty d).full, marks := (t.markEmpty d).marks } := by
  unfold Strand.markEmpty
  split <;> rfl

/-- What a scalar result of the vector unit leaves, with the flags it raises (R122, R134). -/
theorem vscalar_queued {s : State} (d : BitVec 5) (v : Word) (f : Flags) (hp : s.cur.pre = none) :
    let t := ((s.onCur fun t => t.raise f).vscalar d v).retire
    Queued s t d v ∧ t.cur.fflags = s.cur.fflags ||| f ∧ Stepped s t := by
  intro t
  have hcur : ((s.onCur fun t => t.raise f).vscalar d v) = { s with cur := { s.cur with
      full := ((s.cur.raise f).markEmpty d).full, marks := ((s.cur.raise f).markEmpty d).marks, fflags := s.cur.fflags ||| f, vq := s.cur.vq ++ [⟨d, v⟩] } } := by
    unfold State.vscalar
    simp only [State.onCur]
    rw [Strand.markEmpty_eq (s.cur.raise f)]
    rfl
  have ht : t = _ := State.retire_goOn (by rw [hcur]; exact hp)
  rw [hcur] at ht
  rw [ht]
  refine ⟨⟨fun hd => ?_, rfl, fun r hr => ⟨?_, ?_⟩, rfl⟩, rfl, ⟨rfl, rfl⟩⟩
  · exact (Strand.isFull_congr rfl).trans ((Strand.isFull_markEmpty (s.cur.raise f) d d).trans (by rw [decide_eq_true hd, decide_eq_true rfl]; exact Bool.and_false _))
  · rfl
  · have hne : r ≠ d := fun h => hr (List.mem_singleton.mpr h)
    exact (Strand.isFull_congr rfl).trans ((Strand.isFull_markEmpty (s.cur.raise f) d r).trans (by rw [decide_eq_false hne, Bool.and_false, Bool.not_false, Bool.and_true]; rfl))

/-- What the statement says of a reduction (R123, R146). -/
def RedDone (s : State) (i : Instr) (f : RedForm) : Prop :=
  let r := treeOf f.join (fun j => if on s.cur f.k j then some (f.leaf (elemAt (widthOf s.cur.vty) (s.cur.getV f.a) j)) else none) 11 0
  ∃ t, exec i s = .next t ∧ Queued s t f.d (toScalar f.ty (r.1.getD f.none_)) ∧ t.cur.fflags = s.cur.fflags ||| r.2 ∧ Stepped s t

/-- An instruction that reduces as its form says does what R146 says of it. -/
theorem redDone_of {s : State} {i : Instr} {f : RedForm} {g : Strand → Word × Flags} (hexec : exec i s = .next (s.vred f.d f.a f.types f.rounds g))
    (hg : g s.cur = s.cur.reduce f.a f.k f.ty f.leaf f.join f.none_)
    (h : VReady s [f.d] [f.a]) (ht : f.types s.cur.vty = true) (hr : ¬ (f.rounds = true ∧ isF s.cur.vty = true ∧ s.cur.frm = .efb)) : RedDone s i f := by
  have hvred : s.vred f.d f.a f.types f.rounds g = ((s.onCur fun t => t.raise (g s.cur).2).vscalar f.d (g s.cur).1).retire := by
    refine (vissue_scalar _ h fun v hv => hv).trans ((if_pos (takes_of [] ht hr)).trans (vdone_unbound fun v hv => ?_))
    refine Eq.trans ?_ (h.unbound v hv)
    show Strand.stream ((s.cur.raise _).markEmpty f.d) v = _
    rw [Strand.markEmpty_eq]
    rfl
  rw [hvred, hg, Strand.reduce_eq] at hexec
  exact ⟨_, hexec, vscalar_queued f.d _ _ h.ready.calm⟩

/-- Every reduction does what R146 says. -/
theorem redForm_done {s : State} {i : Instr} {f : RedForm} (hi : redForm i s.cur = some f) (h : VReady s [f.d] [f.a]) (ht : f.types s.cur.vty = true)
    (hr : ¬ (f.rounds = true ∧ isF s.cur.vty = true ∧ s.cur.frm = .efb)) : RedDone s i f := by
  cases i <;> cases hi
  case vrsum | vrmax | vrmin | vrand | vror | vrsumw => exact redDone_of rfl rfl h ht hr

/-! Scans (R124, R147). -/

theorem addEl_int {ty : ElTy} (m : Rnd) (a b : Nat) (h : isInt ty = true) : addEl ty m a b = ((a + b) % 2 ^ widthOf ty, 0) := by
  unfold addEl wrapInt
  rw [isF_of_isInt h, if_neg Bool.false_ne_true, ← Nat.cast_add, ← Int.natCast_mod, Int.toNat_natCast]

/-- The sum of the elements a scan has at a position: those before it, and its own where it counts (R124). -/
def scanSum (incl : Bool) (l : List (Option Nat)) (i : Nat) : Nat := ((l.take (i + if incl then 1 else 0)).filterMap id).sum

theorem scanSum_succ (incl : Bool) (x : Option Nat) (l : List (Option Nat)) (i : Nat) : scanSum incl (x :: l) (i + 1) = x.getD 0 + scanSum incl l i := by
  unfold scanSum
  rw [Nat.add_right_comm, List.take_succ_cons]
  cases x <;> simp

/-- At an integer type a scan raises no flag (R107). -/
theorem scanEls_flags {ty : ElTy} (m : Rnd) (incl : Bool) (l : List (Option Nat)) (run : Option Nat) (h : isInt ty = true) : (scanEls ty m incl l run).2 = 0 := by
  induction l generalizing run with
  | nil => rfl
  | cons x l ih =>
    cases x with
    | none => exact ih run
    | some x =>
      cases incl
      · show (if l.any Option.isSome then addEl ty m (run.getD 0) x else (0, 0)).2 ||| (scanEls ty m false l _).2 = 0
        rw [ih, addEl_int m _ _ h, apply_ite Prod.snd, ite_self]
        exact BitVec.or_zero
      · show (addEl ty m (run.getD 0) x).2 ||| (scanEls ty m true l _).2 = 0
        rw [ih, addEl_int m _ _ h]
        exact BitVec.or_zero

theorem any_isSome_of_getD {l : List (Option Nat)} {i : Nat} (h : (l.getD i none).isSome = true) : l.any Option.isSome = true := by
  rw [List.getD_eq_getElem?_getD] at h
  cases hl : l[i]? with
  | none => rw [hl] at h; exact absurd h (by decide)
  | some y => exact List.any_eq_true.mpr ⟨y, List.mem_of_getElem? hl, by simpa [hl] using h⟩

/-- At an integer type a scan gives each active element the running sum modulo 2^w (R107, R124). -/
theorem scanEls_int {ty : ElTy} (m : Rnd) (incl : Bool) (l : List (Option Nat)) (run : Option Nat) (i : Nat) (h : isInt ty = true) (hi : (l.getD i none).isSome = true) :
    ((scanEls ty m incl l run).1.getD i none).map (· % 2 ^ widthOf ty) = some ((run.getD 0 + scanSum incl l i) % 2 ^ widthOf ty) := by
  induction l generalizing run i with
  | nil => exact absurd hi (by simp)
  | cons x l ih =>
    cases i with
    | zero =>
      obtain ⟨x, rfl⟩ := Option.isSome_iff_exists.mp (show x.isSome = true from hi)
      cases incl
      · simp [scanEls, scanSum]
      · simp [scanEls, scanSum, addEl_int m _ _ h]
    | succ i =>
      rw [scanSum_succ]
      cases x with
      | none => exact (ih run i hi).trans (by simp)
      | some x =>
        cases incl
        · show ((scanEls ty m false l (some (if l.any Option.isSome then addEl ty m (run.getD 0) x else (0, 0)).1)).1.getD i none).map _ = _
          rw [any_isSome_of_getD (l := l) (i := i) hi, if_pos rfl, addEl_int m _ _ h, ih _ i hi]
          simp [Nat.add_assoc]
        · show ((scanEls ty m true l (some (addEl ty m (run.getD 0) x).1)).1.getD i none).map _ = _
          rw [addEl_int m _ _ h, ih _ i hi]
          simp [Nat.add_assoc]

/-- The active elements before a position, in order. -/
theorem leaves_take (t : Strand) (a k : BitVec 5) {j : Nat} (h : j ≤ t.n) :
    ((leaves (widthOf t.vty) t.n (t.mask k) (t.getV a) id).take j).filterMap id = ((List.range j).filter (on t k)).map (elemAt (widthOf t.vty) (t.getV a)) := by
  unfold leaves
  rw [← List.map_take, List.take_range, Nat.min_eq_left h, List.filterMap_map, ← List.filterMap_eq_map, List.filterMap_filter]
  refine List.filterMap_congr fun i _ => ?_
  rw [Function.comp, active_mask]
  rfl

/-- A destination depends on the results of the active positions alone. -/
theorem elementwise_congr_on {w n : Nat} {on : Nat → Bool} {old new : VReg} {f g : Nat → Nat} (h : Elementwise w n on old new f)
    (hfg : ∀ i, i < n → on i = true → f i % 2 ^ w = g i % 2 ^ w) : Elementwise w n on old new g := by
  refine ⟨fun i hi => ?_, h.2⟩
  rw [h.1 i hi]
  by_cases hon : on i = true
  · rw [if_pos hon, if_pos hon, hfg i hi hon]
  · rw [if_neg hon, if_neg hon]

theorem flagsOver_zero (n : Nat) (on : Nat → Bool) : flagsOver n on (fun _ => 0) = 0 := by
  unfold flagsOver
  induction (List.range n).filter on with
  | nil => rfl
  | cons i l ih => exact (congrArg (l.foldl _) BitVec.or_zero).trans ih

theorem Strand.raise_zero (t : Strand) : t.raise 0 = t := by
  unfold Strand.raise
  exact congrArg (fun f => { t with fflags := f }) BitVec.or_zero

/-- The value a scan writes at a position (R124). -/
def scanEl (t : Strand) (a k : BitVec 5) (incl : Bool) (old : VReg) (i : Nat) : Nat × Flags :=
  (((scanEls t.vty t.frm incl (leaves (widthOf t.vty) t.n (t.mask k) (t.getV a) id) none).1.getD i none).getD (elemAt (widthOf t.vty) old i), 0)

/-- At an integer type the value at an active position is the running sum, wrapped (R124, R147). -/
theorem scanEl_int {t : Strand} (a k : BitVec 5) (incl : Bool) (old : VReg) {i : Nat} (h : isInt t.vty = true) (hi : i < t.n) (hon : on t k i = true) :
    (scanEl t a k incl old i).1 % 2 ^ widthOf t.vty =
      (((List.range (i + if incl then 1 else 0)).filter (on t k)).map (elemAt (widthOf t.vty) (t.getV a))).sum % 2 ^ widthOf t.vty := by
  have hat : (leaves (widthOf t.vty) t.n (t.mask k) (t.getV a) id).getD i none = some (elemAt (widthOf t.vty) (t.getV a) i) := by
    unfold leaves
    rw [List.getD_eq_getElem _ _ (by simpa using hi), List.getElem_map, List.getElem_range, active_mask, if_pos hon]
    rfl
  have hsum := scanEls_int t.frm incl (leaves (widthOf t.vty) t.n (t.mask k) (t.getV a) id) none i h (by rw [hat]; rfl)
  rw [scanSum, leaves_take t a k (by cases incl <;> simp <;> omega), Option.getD_none, Nat.zero_add] at hsum
  obtain ⟨v, hv, hmod⟩ := Option.map_eq_some_iff.mp hsum
  rw [scanEl, hv, Option.getD_some]
  exact hmod

/-- What the statement says of a scan at an integer type (R124, R147). -/
theorem vscanBy_done {s : State} {i : Instr} {d a k : BitVec 5} {incl : Bool} (hexec : exec i s = .next (s.vscanBy d a k incl)) (h : VReady s [] [d, a]) (hint : isInt s.cur.vty = true) :
    ∃ t, exec i s = .next t ∧
      Elementwise (widthOf s.cur.vty) s.cur.n (on s.cur k) (s.cur.getV d) (t.cur.getV d)
        (fun j => (((List.range (j + if incl then 1 else 0)).filter (on s.cur k)).map (elemAt (widthOf s.cur.vty) (s.cur.getV a))).sum) ∧
      t.cur.fflags = s.cur.fflags ∧ OnlyVectors s t [d] ∧ Stepped s t := by
  have htakes : (readAll s []).cur.takes tyIF true = true :=
    takes_of (types := tyIF) [] (by rw [tyIF, hint, Bool.true_or]) (by rw [isF_of_isInt hint]; simp)
  have hraise (t : Strand) (hty : t.vty = s.cur.vty) : ((t.putActive d k (scanEl t a k incl)).raise
      (scanEls t.vty t.frm incl (leaves (widthOf t.vty) t.n (t.mask k) (t.getV a) id) none).2) = t.putActive d k (scanEl t a k incl) := by
    rw [scanEls_flags t.frm incl _ _ (hty ▸ hint), Strand.raise_zero]
  have hscan : s.vscanBy d a k incl = ((readAll s []).onCur fun t => t.putActive d k (scanEl t a k incl)).retire := by
    refine (vissue_check _ h (by simp)).trans ((if_pos htakes).trans ?_)
    refine (congrArg (fun t => State.vdone { s with cur := t } [a]) (hraise s.cur rfl)).trans ?_
    exact vdone_unbound fun v hv => h.unbound v (List.mem_cons_of_mem d hv)
  obtain ⟨hels, hflags, honly, hstep⟩ := putActive_retire [] d k (fun t => scanEl t a k incl) h.ready.calm fun _ _ _ => rfl
  refine ⟨_, hexec.trans (congrArg _ hscan), elementwise_congr_on hels fun j hj hon => scanEl_int a k incl _ hint hj hon, hflags.trans ?_, honly, hstep⟩
  rw [show (fun i => (scanEl s.cur a k incl (s.cur.getV d) i).2) = fun _ => 0 from rfl, flagsOver_zero]
  exact BitVec.or_zero

/-- Settles O16: each reduction by the pairwise tree, each scan by its running sums. -/
theorem reductionsAndScans : Obligations.ReductionsAndScans := by
  unfold Obligations.ReductionsAndScans
  refine ⟨fun s i f hi h ht hr => redForm_done hi h ht hr, fun s d a k h hint => ⟨vscanBy_done (incl := true) rfl h hint, vscanBy_done (incl := false) rfl h hint⟩⟩

end Sys2Proof.Machine
end

section
/-! The matrix unit's own events, for work at the head of its queue (R125, R175, R179 to R187). -/

namespace Sys2Proof.Machine
open Sys2Proof.Claims

/-! Loads, swaps and zeroed tiles (R182, R183, R186). -/

theorem onlyCore_onMatrix (s : State) (c : Nat) (f : Matrix → Matrix) : OnlyCore s (s.onMatrix c f) c :=
  ⟨rfl, fun _ hk => State.core_onCore_ne _ _ hk⟩

theorem State.core_onMatrix (s : State) (c : Nat) (f : Matrix → Matrix) : (s.onMatrix c f).core c = { s.core c with matrix := f (s.core c).matrix } := State.core_onCore_self ..

section
variable {s : State} {c u n : Nat} {pc : Word} {post : List MEntry}

theorem exec_mldComplete {ty : ElTy} {rows : List MRow} (hq : (s.core c).matrix.queue = ⟨u, pc, .mld ty rows, n⟩ :: post) :
    exec (.mldComplete c) s = .next (s.onMatrix c fun m => { m with shadow := ⟨some ty, rows.map (·.bytes), rows.any (·.poison), false⟩, queue := post }) := by
  show execMldComplete c s = _
  unfold execMldComplete
  rw [State.matrix, hq]
  rfl

theorem exec_mswapPerformed (hq : (s.core c).matrix.queue = ⟨u, pc, .mswap, n⟩ :: post) :
    exec (.mswapPerformed c) s = .next (s.onMatrix c fun m => { m with act := m.shadow, shadow := m.act, queue := post }) := by
  show execMswapPerformed c s = _
  unfold execMswapPerformed
  rw [State.matrix, hq]
  rfl

theorem exec_mzeroPerformed {x : Nat} (hq : (s.core c).matrix.queue = ⟨u, pc, .mzero x, n⟩ :: post) :
    exec (.mzeroPerformed c) s = .next (s.onMatrix c fun m => { m.setTile x Tile.zero with queue := post }) := by
  show execMzeroPerformed c s = _
  unfold execMzeroPerformed
  rw [State.matrix, hq]
  rfl

end

/-! A pass writes a row (R125, R175, R184). -/

/-- A tile with row i of a pass written: its values, and the bits that say whether it is final, poisoned or in error. -/
def Tile.pass (t : Tile) (act : Plane) (ty : ElTy) (acc ready : Bool) (row : MRow) (i : Nat) : Tile :=
  let bit := 1#128 <<< i
  { tag := passTag ty acc t.tag
    rows := t.rows.set 0 i (sumRow act ty acc row.bytes (t.rows.get 0 i))
    final := if ready then t.final ||| bit else t.final
    poison := if row.poison || act.poison then t.poison ||| bit else if acc then t.poison else t.poison &&& ~~~bit
    ecc := if act.ecc then t.ecc ||| bit else if acc then t.ecc else t.ecc &&& ~~~bit }

theorem exec_mstrRowFinal {s : State} {c u n x : Nat} {pc : Word} {post : List MEntry} {ty : ElTy} {acc : Bool} {rows : List MRow} {row : MRow}
    (hq : (s.core c).matrix.queue = ⟨u, pc, .mstr ty x acc rows, n⟩ :: post) (hrow : rows[n]? = some row) :
    exec (.mstrRowFinal c none) s = .next (s.onMatrix c fun m =>
      { m.setTile x ((m.tile x).pass m.act ty acc (rowReady post x n) row n) with
        queue := if n + 1 < rows.length then ⟨u, pc, .mstr ty x acc rows, n + 1⟩ :: post else post }) := by
  have hget : rows.getD n ⟨0, false⟩ = row := by rw [List.getD_eq_getElem?_getD, hrow]; rfl
  rw [← hget]
  show execMstrRowFinal c none s = _
  unfold execMstrRowFinal
  dsimp only
  rw [State.matrix, hq]
  rfl

/-- A bit set, kept or cleared: it stands where it was set, or was kept and stood before. -/
theorem getLsbD_marked (b : BitVec 128) (set keep : Bool) {i : Nat} (h : i < 128) :
    (if set then b ||| 1#128 <<< i else if keep then b else b &&& ~~~(1#128 <<< i)).getLsbD i = (set || (keep && b.getLsbD i)) := by
  cases set <;> cases keep <;> simp [h]

theorem Tile.pass_row_self (t : Tile) (act : Plane) (ty : ElTy) (acc ready : Bool) (row : MRow) (i : Nat) :
    (t.pass act ty acc ready row i).rows.get 0 i = sumRow act ty acc row.bytes (t.rows.get 0 i) := by
  rw [Tile.pass, SMap.get_set_self]

theorem Tile.pass_row_ne (t : Tile) (act : Plane) (ty : ElTy) (acc ready : Bool) (row : MRow) {i k : Nat} (h : k ≠ i) :
    (t.pass act ty acc ready row i).rows.get 0 k = t.rows.get 0 k := by
  rw [Tile.pass, SMap.get_set_ne _ _ _ h]

theorem Tile.pass_poison (t : Tile) (act : Plane) (ty : ElTy) (acc ready : Bool) (row : MRow) {i : Nat} (h : i < 128) :
    (t.pass act ty acc ready row i).poison.getLsbD i = (row.poison || act.poison || (acc && t.poison.getLsbD i)) := by
  rw [← getLsbD_marked t.poison _ acc h, Tile.pass]

theorem Tile.pass_ecc (t : Tile) (act : Plane) (ty : ElTy) (acc ready : Bool) (row : MRow) {i : Nat} (h : i < 128) :
    (t.pass act ty acc ready row i).ecc.getLsbD i = (act.ecc || (acc && t.ecc.getLsbD i)) := by
  rw [← getLsbD_marked t.ecc _ acc h, Tile.pass]

/-- A row that every entry behind the pass leaves as it is, is final. -/
theorem Tile.pass_final (t : Tile) (act : Plane) (ty : ElTy) (acc : Bool) (row : MRow) {i : Nat} (h : i < 128) : (t.pass act ty acc true row i).final.getLsbD i = true := by
  simp [Tile.pass, h]

theorem toSigned_byte (v : Nat) : toSigned 8 (v % 256) = signedAt 8 (v % 256) := toSigned_eq (by decide) (Nat.mod_lt _ (by decide))

theorem wrapInt_eq_wrapped (w : Nat) (z : Int) : wrapInt w z = wrapped w z := rfl

theorem toNat_ofNat_of_lt {w v : Nat} (h : v < 2 ^ w) : (BitVec.ofNat w v).toNat = v := by
  rw [BitVec.toNat_ofNat, Nat.mod_eq_of_lt h]

/-- A column of a row made of 128 values. -/
theorem column_packEls (f : Nat → Nat) {j : Nat} (h : j < 128) : column (BitVec.ofNat 4096 (packEls 32 ((List.range 128).map f))) j = f j % 2 ^ 32 := by
  have hlt := packEls_lt 32 ((List.range 128).map f)
  rw [List.length_map, List.length_range] at hlt
  have hel := packEls_elem 32 ((List.range 128).map f) j (by simpa using h)
  have hrow : (BitVec.ofNat (128 * 32) (packEls 32 ((List.range 128).map f))).toNat = packEls 32 ((List.range 128).map f) := toNat_ofNat_of_lt hlt
  rw [column, hrow, Nat.mul_comm 32 j, hel]
  simp

theorem wrapped_lt (w : Nat) (z : Int) : wrapped w z < 2 ^ w := by
  unfold wrapped
  have := Int.emod_lt_of_pos z (b := ((2 ^ w : Nat) : Int)) (by exact_mod_cast Nat.two_pow_pos w)
  have := Int.emod_nonneg z (b := ((2 ^ w : Nat) : Int)) (by exact_mod_cast (Nat.two_pow_pos w).ne')
  omega

/-- At i8 a column of a row is the sum of the products of signed bytes, with the old column where the pass accumulates, modulo 2^32 (R125). -/
theorem column_sumRow_i8 (p : Plane) (acc : Bool) (row : Nat) (old : BitVec 4096) {j : Nat} (h : j < 128) :
    column (sumRow p .i8 acc row old) j = wrapped 32 ((if acc then (column old j : Int) else 0) +
      (List.range (mclassK (mclass .i8))).foldl (fun (z : Int) i => z + signedAt 8 (row / 2 ^ (8 * i) % 256) * signedAt 8 (p.rows.getD i 0 / 2 ^ (8 * j) % 256)) 0) := by
  unfold sumRow
  dsimp only
  rw [column_packEls _ h, if_pos rfl, wrapInt_eq_wrapped, Nat.mod_eq_of_lt (wrapped_lt 32 _)]
  simp only [toSigned_byte]
  cases acc
  · rw [if_neg Bool.false_ne_true, if_neg Bool.false_ne_true, Int.zero_add]
  · rfl

/-- An error of the active plane met with a pass marks the row it writes (R175, log 37). -/
theorem exec_mstrRowFinal_active (s : State) (c : Nat) : exec (.mstrRowFinal c (some .active)) s = exec (.mstrRowFinal c none) (s.onMatrix c fun m => m.meetErr .active) := rfl

theorem onlyCore_trans {s t u : State} {c : Nat} (h : OnlyCore s t c) (h' : OnlyCore t u c) : OnlyCore s u c := by
  refine ⟨h'.rest.trans ?_, fun k hk => (h'.others k hk).trans (h.others k hk)⟩
  rw [h.rest]

/-- What a row written by the pass at the head of the queue leaves (R179, R184). -/
theorem mstrRow_done {s : State} {c u n x : Nat} {pc : Word} {post : List MEntry} {ty : ElTy} {acc : Bool} {rows : List MRow} {row : MRow}
    (hq : (s.core c).matrix.queue = ⟨u, pc, .mstr ty x acc rows, n⟩ :: post) (hx : x < 4) (hrow : rows[n]? = some row) :
    let m := (s.core c).matrix
    ∃ t, exec (.mstrRowFinal c none) s = .next t ∧ OnlyCore s t c ∧
      let m' := (t.core c).matrix
      m'.act = m.act ∧ m'.shadow = m.shadow ∧ (∀ k, k ≠ x → m'.tile k = m.tile k) ∧ m'.tile x = (m.tile x).pass m.act ty acc (rowReady post x n) row n ∧
      m'.queue = (if n + 1 < rows.length then ⟨u, pc, .mstr ty x acc rows, n + 1⟩ :: post else post) := by
  refine ⟨_, exec_mstrRowFinal hq hrow, onlyCore_onMatrix .., ?_⟩
  rw [State.core_onMatrix]
  exact ⟨rfl, rfl, fun k hk => Matrix.tile_setTile_ne _ _ hk, Matrix.tile_setTile_self _ _ hx, rfl⟩

/-! A row of an `mst` becomes pending stores (R180, R187). -/

/-- A strand with more pending stores. -/
def Strand.pended (t : Strand) (new : List Pend) : Strand := { t with pend := t.pend ++ new }

theorem Strand.pended_pended (t : Strand) (a b : List Pend) : (t.pended a).pended b = t.pended (a ++ b) := by
  simp [Strand.pended, List.append_assoc]

/-- A state whose current strand has more pending stores. -/
def State.pended (s : State) (new : List Pend) : State := { s with cur := s.cur.pended new }

theorem State.pended_pended (s : State) (a b : List Pend) : (s.pended a).pended b = s.pended (a ++ b) := by
  simp only [State.pended, Strand.pended_pended]

theorem State.keepStore_pended (s : State) (new : List Pend) (va : Word) (loc n v : Nat) :
    (s.pended new).keepStore va ⟨loc, none, false, false, false⟩ n v = s.pended (new ++ [⟨va, loc, n, v % 256 ^ n, s.tagFor va loc, none⟩]) :=
  s.pended_pended new _

/-- Stores of values one after the other, through places already checked. -/
theorem foldl_keepStore (s : State) (va : Nat → Word) (loc val : Nat → Nat) (n : Nat) (l : List Nat) (new : List Pend) :
    l.foldl (fun s q => s.keepStore (va q) ⟨loc q, none, false, false, false⟩ n (val q)) (s.pended new) =
      s.pended (new ++ l.map fun q => ⟨va q, loc q, n, val q % 256 ^ n, s.tagFor (va q) (loc q), none⟩) := by
  induction l generalizing new with
  | nil => rw [List.map_nil, List.append_nil]; rfl
  | cons q l ih => rw [List.foldl_cons, State.keepStore_pended, ih, List.append_assoc]; rfl

theorem mstVals_eq (ty : ElTy) (row : BitVec 4096) : mstVals ty row = storedRow ty row := rfl

/-- The values of a row go to its pieces in order, one pending store a value (R187). -/
theorem State.mstRow_eq (s : State) (ty : ElTy) (dests : List MDest) (row : BitVec 4096) (h : ∀ d ∈ dests, d.sable = false) :
    s.mstRow ty dests row = s.pended (pieceStores s (widthOf ty / 8) dests (storedRow ty row)) := by
  unfold State.mstRow
  dsimp only
  rw [mstVals_eq]
  suffices hrest : ∀ (new : List Pend) (off : Nat), (dests.foldl _ (s.pended new, off)).1 = s.pended (new ++ pieceStores s (widthOf ty / 8) dests ((storedRow ty row).drop off)) by
    have h0 : s.pended [] = s := by simp [State.pended, Strand.pended]
    refine Eq.trans ?_ (hrest [] 0)
    rw [h0]
  induction dests with
  | nil => exact fun new off => congrArg s.pended (List.append_nil new).symm
  | cons d ds ih =>
    intro new off
    rw [List.foldl_cons]
    simp only [h d List.mem_cons_self, Bool.false_eq_true, if_false]
    rw [foldl_keepStore]
    refine (ih (fun d hd => h d (List.mem_cons_of_mem _ hd)) _ _).trans (congrArg s.pended ?_)
    simp [pieceStores, List.append_assoc, word]

/-- The stores a strand has more than it had, where it is the current one. -/
theorem State.newPend_pended (s : State) (new : List Pend) : (s.pended new).newPend s s.cur.uid = new := by
  have hold : s.byUid? s.cur.uid = some s.cur := if_pos rfl
  have hnew : (s.pended new).byUid? s.cur.uid = some (s.cur.pended new) := if_pos rfl
  unfold State.newPend
  rw [hold, hnew]
  exact List.drop_left

/-- MST_ROW_WRITE of the current strand's `mst` at the head of the queue, with a clean row (R179 rule 5, R187). -/
theorem exec_mstRowWrite {s : State} {c n x : Nat} {pc : Word} {post : List MEntry} {ty : ElTy} {dests : List MDest} {w : RowWait}
    (hq : (s.core c).matrix.queue = ⟨s.cur.uid, pc, .mst ty x dests w, n⟩ :: post)
    (hp : ((s.core c).matrix.tile x).poison.getLsbD n = false) (he : ((s.core c).matrix.tile x).ecc.getLsbD n = false) (hs : ∀ d ∈ dests.filter fun d => decide (d.row = n), d.sable = false) :
    let stores := pieceStores s (widthOf ty / 8) (dests.filter fun d => decide (d.row = n)) (storedRow ty (tileRow (s.core c).matrix x n))
    exec (.mstRowWrite c) s = .next ((s.pended stores).onMatrix c fun m =>
      { m with queue := (if n + 1 < 128 then ⟨s.cur.uid, pc, .mst ty x dests w, n + 1⟩ :: post else post).map fun e => e.noted s.cur.uid stores }) := by
  intro stores
  have hpick : pickWith mstReady [] (s.matrix c).queue = some ([], ⟨s.cur.uid, pc, .mst ty x dests w, n⟩, post) := by
    rw [State.matrix, hq]
    rfl
  have hclean : ((s.matrix c).tile x).rowFault n = none := by simp [Tile.rowFault, State.matrix, hp, he]
  have has (f : State → State) : s.asUid s.cur.uid f = f s := if_pos rfl
  show execMstRowWrite c s = _
  unfold execMstRowWrite
  rw [hpick]
  dsimp only
  rw [hclean]
  dsimp only
  rw [has, State.mstRow_eq s ty _ _ hs, State.newPend_pended]
  rfl

/-! The obligation. -/

/-- Settles O22: each event by its own equation, for its entry at the head of the queue. -/
theorem matrixUnit : Obligations.MatrixUnit := by
  unfold Obligations.MatrixUnit
  refine ⟨?_, ?_, ?_⟩
  · intro s c u pc n post m
    refine ⟨fun ty rows hq => ?_, fun hq => ?_, fun x hq hx => ?_⟩
    · exact ⟨_, exec_mldComplete hq, onlyCore_onMatrix .., State.core_onMatrix ..⟩
    · exact ⟨_, exec_mswapPerformed hq, onlyCore_onMatrix .., State.core_onMatrix ..⟩
    · refine ⟨_, exec_mzeroPerformed hq, onlyCore_onMatrix .., ?_⟩
      rw [State.core_onMatrix]
      exact ⟨rfl, Matrix.tile_setTile_self _ _ hx, rfl, rfl, fun k hk => Matrix.tile_setTile_ne _ _ hk⟩
  · intro s c u pc ty x acc rows n post row m hq hx hn hrow
    obtain ⟨t, hexec, honly, hact, hshadow, hothers, htile, hqueue⟩ := mstrRow_done hq hx hrow
    have hown : tileRow (t.core c).matrix x n = sumRow m.act ty acc row.bytes (tileRow m x n) := by
      rw [tileRow, htile, Tile.pass_row_self]; rfl
    refine ⟨t, hexec, honly, hact, hshadow, hothers, fun i hi => ?_, ?_, hqueue, fun hty j hj => ?_, fun _ => hown, ?_, ?_, fun hready => ?_, ?_⟩
    · rw [tileRow, htile, Tile.pass_row_ne _ _ _ _ _ _ hi]; rfl
    · rw [htile]; rfl
    · rw [hown, hty, column_sumRow_i8 _ _ _ _ hj]
    · rw [htile, Tile.pass_poison _ _ _ _ _ _ hn]
    · rw [htile, Tile.pass_ecc _ _ _ _ _ _ hn]
    · rw [htile, hready, Tile.pass_final _ _ _ _ _ hn]
    · let s' := s.onMatrix c fun m => m.meetErr .active
      have hmatrix : (s'.core c).matrix = (s.core c).matrix.meetErr .active := congrArg Core.matrix (State.core_onMatrix ..)
      obtain ⟨v, hexec', honly', -, -, -, htile', -⟩ := mstrRow_done (s := s') (by rw [hmatrix]; exact hq) hx hrow
      refine ⟨v, (exec_mstrRowFinal_active s c).trans hexec', onlyCore_trans (onlyCore_onMatrix ..) honly', ?_⟩
      rw [htile', hmatrix, Tile.pass_ecc _ _ _ _ _ _ hn]
      rfl
  · intro s c pc ty x dests w n post m row stores hq hp he hs
    exact ⟨_, exec_mstRowWrite hq hp he hs, rfl, onlyCore_onMatrix .., State.core_onMatrix ..⟩

end Sys2Proof.Machine
end

section
/-! Conversions, packing and unpacking (R113, R115, R119 to R121, R148, R149). -/

namespace Sys2Proof.Machine
open Sys2Proof.Claims

/-! Registers written position by position. -/

/-- The active positions below n of a mask, as the statements give them (R129). -/
theorem active_eq (t : Strand) (k : BitVec 5) (n i : Nat) : active (t.mask k) n i = (decide (i < n) && (decide (k = 31) || (t.getK k).getLsbD i)) := by
  unfold active Strand.mask
  by_cases hk : k = 31
  · subst hk; rfl
  · rw [if_neg hk, decide_eq_false hk]; rfl

/-- What writing the active positions below n leaves in a register, and the flags of it (R122, R129, R130). -/
theorem writeActive_spec {w n : Nat} (km : Option KReg) (old : VReg) (f : Nat → Nat × Flags) (h : n * w ≤ 8192) :
    Elementwise w n (active km n) old (writeActive w n km old f).1 (fun i => (f i).1) ∧
    (writeActive w n km old f).2 = flagsOver n (active km n) (fun i => (f i).2) := by
  have hels : ((List.range n).map fun i => if active km n i then f i else (elemAt w old i, (0 : Flags))).map Prod.fst =
      (List.range n).map fun i => if active km n i then (f i).1 else elemAt w old i := by
    rw [List.map_map]
    exact List.map_congr_left fun i _ => apply_ite Prod.fst _ _ _
  constructor
  · rw [writeActive, hels]
    exact putEls_elementwise old (active km n) _ h
  · exact foldl_flags _ (active km n) _ _ 0 (fun i hi => by rw [if_pos hi]) fun i hi => by rw [if_neg (by rw [hi]; decide)]

/-- A vector instruction has left the strand y, changed in vector registers and sticky flags alone, and completed. -/
theorem onlyVectors_retire {s : State} {y : Strand} (vs : List (BitVec 5)) (hp : s.cur.pre = none) (hy : y = { s.cur with vregs := y.vregs, fflags := y.fflags })
    (hv : ∀ v, v ∉ vs → y.getV v = s.cur.getV v) :
    let t := ({ s with cur := y } : State).retire
    (∀ v, t.cur.getV v = y.getV v) ∧ t.cur.fflags = y.fflags ∧ OnlyVectors s t vs ∧ Stepped s t := by
  intro t
  have ht : t = _ := State.retire_goOn (by rw [hy]; exact hp)
  rw [ht, hy]
  exact ⟨fun _ => rfl, rfl, ⟨fun _ _ => ⟨rfl, rfl⟩, fun v hm => hy ▸ hv v hm, rfl⟩, ⟨rfl, rfl⟩⟩

/-! Conversions (R120, R121, R148). -/

/-- The chain at an active element (R120). -/
theorem efbChain_active (src dst : ElTy) (sat : Bool) (c : Nat) (l : List (Bool × Nat)) (e : FVal) :
    efbChain src dst sat ((true, c) :: l) e =
      let x := efbStep src dst sat e c
      let r := efbChain src dst sat l x.2.2
      (some x.1 :: r.1, r.2.1, x.2.1 ||| r.2.2) := by
  unfold efbStep
  rw [efbChain, if_pos rfl]
  cases elemVal src c with
  | nan => rfl
  | inf neg => rfl
  | fin neg man k =>
    dsimp only [notFinite]
    cases elemVal dst (convertVal dst .rne sat (addF .rne (.fin neg man k) e).1).1 with
    | nan => rfl
    | inf neg => rfl
    | fin neg man k => rfl

theorem efbChain_inactive (src dst : ElTy) (sat : Bool) (c : Nat) (l : List (Bool × Nat)) (e : FVal) :
    efbChain src dst sat ((false, c) :: l) e = let r := efbChain src dst sat l e; (none :: r.1, r.2.1, r.2.2) := rfl

section
variable (src dst : ElTy) (sat : Bool) (lit : Nat → Bool) (code : Nat → Nat) (efr : BitVec 32)

/-- The step of a chain at a position (R120). -/
def efbAt (j : Nat) : Nat × Flags × FVal := efbStep src dst sat (residualAt src dst sat lit code efr j) (code j)

/-- The chain from position i on: a result at each active position, the residual after the last, the flags of the active positions. -/
theorem efbChain_range' (n i : Nat) :
    efbChain src dst sat ((List.range' i n).map fun j => (lit j, code j)) (residualAt src dst sat lit code efr i) =
      ((List.range' i n).map (fun j => if lit j then some (efbAt src dst sat lit code efr j).1 else none),
       residualAt src dst sat lit code efr (i + n),
       ((List.range' i n).filter lit).foldr (fun j f => (efbAt src dst sat lit code efr j).2.1 ||| f) 0) := by
  induction n generalizing i with
  | zero => rfl
  | succ n ih =>
    have hnext : residualAt src dst sat lit code efr (i + 1) = if lit i then (efbAt src dst sat lit code efr i).2.2 else residualAt src dst sat lit code efr i := rfl
    rw [List.range'_succ, List.map_cons]
    have ih' := ih (i + 1)
    by_cases h : lit i = true
    · rw [if_pos h] at hnext
      rw [hnext] at ih'
      rw [h, efbChain_active]
      dsimp only
      rw [← efbAt, ih', List.map_cons, if_pos h, List.filter_cons_of_pos h, List.foldr_cons, Nat.add_right_comm, Nat.add_assoc]
    · rw [if_neg h] at hnext
      rw [hnext] at ih'
      rw [Bool.eq_false_iff.mpr h, efbChain_inactive, ih', List.map_cons, if_neg h, List.filter_cons_of_neg h, Nat.add_right_comm, Nat.add_assoc]

/-- Flags raised together do not depend on the order they are taken in. -/
theorem flagsOver_foldr (n : Nat) (on : Nat → Bool) (f : Nat → Flags) : ((List.range n).filter on).foldr (fun j fl => f j ||| fl) 0 = flagsOver n on f := by
  unfold flagsOver
  have : Std.Commutative (α := Flags) (· ||| ·) := ⟨BitVec.or_comm⟩
  have : Std.Associative (α := Flags) (· ||| ·) := ⟨BitVec.or_assoc⟩
  have := List.foldl_eq_foldr (f := ((· ||| ·) : Flags → Flags → Flags)) (a := 0) (l := ((List.range n).filter on).map f)
  rw [List.foldl_map, List.foldr_map] at this
  exact this.symm

end

/-- The positions of a conversion fit a register. -/
theorem Strand.cvt_fits (t : Strand) (src : ElTy) : t.vbits / Nat.max (widthOf src) (widthOf t.vty) * widthOf t.vty ≤ 8192 := by
  have hlanes := t.laneCount_le
  calc t.vbits / Nat.max (widthOf src) (widthOf t.vty) * widthOf t.vty
      ≤ t.vbits / Nat.max (widthOf src) (widthOf t.vty) * Nat.max (widthOf src) (widthOf t.vty) := Nat.mul_le_mul_left _ (Nat.le_max_right ..)
    _ ≤ t.vbits := Nat.div_mul_le_self ..
    _ ≤ 8192 := by unfold Strand.vbits; omega

/-- What the statement says of a conversion of an accepted pair with a mode that is not efb (R121, R148). -/
theorem Strand.convert_plain (t : Strand) (sat : Bool) (d a k : BitVec 5) (src : ElTy) (m : Rnd) (hm : m ≠ .efb) :
    let p := t.vbits / Nat.max (widthOf src) (widthOf t.vty)
    let c (j : Nat) : Nat × Flags := convertEl src t.vty m sat (elemAt (widthOf src) (t.getV a) j)
    Elementwise (widthOf t.vty) p (active (t.mask k) p) (t.getV d) ((t.convert sat d a k src m).getV d) (fun j => (c j).1) ∧
    (t.convert sat d a k src m).fflags = t.fflags ||| flagsOver p (active (t.mask k) p) (fun j => (c j).2) := by
  intro p c
  obtain ⟨hels, hflags⟩ := writeActive_spec (t.mask k) (t.getV d) c (t.cvt_fits src)
  unfold Strand.convert
  rw [if_neg hm]
  exact ⟨(Strand.getV_setV_self t d _).symm ▸ hels, congrArg (t.fflags ||| ·) hflags⟩

/-- The chain over positions below p writes each active position's result, leaves the residual after the last, and raises the flags of each (R120, R148). -/
theorem Strand.convert_efb (t : Strand) (sat : Bool) (d a k : BitVec 5) (src : ElTy) :
    let p := t.vbits / Nat.max (widthOf src) (widthOf t.vty)
    let lit := active (t.mask k) p
    let code (j : Nat) : Nat := elemAt (widthOf src) (t.getV a) j
    let x := efbAt src t.vty sat lit code t.efr
    let y := t.convert sat d a k src .efb
    Elementwise (widthOf t.vty) p lit (t.getV d) (y.getV d) (fun j => (x j).1) ∧
    y.efr = BitVec.ofNat 32 (roundF .f32 fmtF32 .rne (residualAt src t.vty sat lit code t.efr p)).1 ∧
    y.fflags = t.fflags ||| flagsOver p lit (fun j => (x j).2.1) := by
  intro p lit code x y
  have hchain := efbChain_range' src t.vty sat lit code t.efr p 0
  rw [← List.range_eq_range', Nat.zero_add, flagsOver_foldr p lit fun j => (x j).2.1] at hchain
  have hels : (List.range p).map (fun i => (((List.range p).map fun j => if lit j then some (x j).1 else none).getD i none).getD (elemAt (widthOf t.vty) (t.getV d) i)) =
      (List.range p).map fun i => if lit i then (x i).1 else elemAt (widthOf t.vty) (t.getV d) i := by
    refine List.map_congr_left fun i hi => ?_
    rw [List.getD_eq_getElem _ _ (by simpa using hi), List.getElem_map, List.getElem_range]
    split <;> rfl
  have hy : y = { ((t.setV d (putEls (widthOf t.vty) (t.getV d) ((List.range p).map fun i => if lit i then (x i).1 else elemAt (widthOf t.vty) (t.getV d) i))).raise (flagsOver p lit fun j => (x j).2.1))
      with efr := residualBits (residualAt src t.vty sat lit code t.efr p) } := by
    rw [← hels]
    show t.convert sat d a k src .efb = _
    unfold Strand.convert
    rw [if_pos rfl]
    exact congrArg (fun r : List (Option Nat) × FVal × Flags =>
      { ((t.setV d (putEls (widthOf t.vty) (t.getV d) ((List.range p).map fun i => (r.1.getD i none).getD (elemAt (widthOf t.vty) (t.getV d) i)))).raise r.2.2) with efr := residualBits r.2.1 }) hchain
  rw [hy]
  exact ⟨(Strand.getV_setV_self t d _).symm ▸ putEls_elementwise _ lit _ (t.cvt_fits src), rfl, rfl⟩

/-- A conversion changes vd, the sticky flags and the residual alone. -/
theorem Strand.convert_frame (t : Strand) (sat : Bool) (d a k : BitVec 5) (src : ElTy) (m : Rnd) :
    let y := t.convert sat d a k src m
    y = { t with vregs := y.vregs, fflags := y.fflags, efr := y.efr } ∧ ∀ v, v ∉ [d] → y.getV v = t.getV v := by
  unfold Strand.convert
  by_cases hm : m = .efb
  · rw [if_pos hm]
    exact ⟨rfl, fun v hv => Strand.getV_setV_ne _ _ (List.ne_of_not_mem_cons hv)⟩
  · rw [if_neg hm]
    exact ⟨rfl, fun v hv => Strand.getV_setV_ne _ _ (List.ne_of_not_mem_cons hv)⟩

theorem Strand.convert_efr (t : Strand) (sat : Bool) (d a k : BitVec 5) (src : ElTy) {m : Rnd} (hm : m ≠ .efb) : (t.convert sat d a k src m).efr = t.efr := by
  unfold Strand.convert
  rw [if_neg hm]
  rfl

theorem exec_vconv (s : State) (sat : Bool) (d a k sc : BitVec 5) (r : BitVec 3) : exec (if sat then .vcvtSat d a k sc r else .vcvt d a k sc r) s = .next (s.vconv sat d a k sc r) := by
  cases sat <;> rfl

/-- A conversion of a strand that is ready for it (R119, R148, R151). -/
theorem vconv_eq {s : State} {sat : Bool} {d a k sc : BitVec 5} {r : BitVec 3} {src : ElTy} (hsrc : ElTy.ofCode sc.toNat = some src) (h : VReady s [] [d, a]) :
    s.vconv sat d a k sc r = if cvtOk sat src s.cur.vty (s.cur.rnd r) then ({ s with cur := s.cur.convert sat d a k src (s.cur.rnd r) } : State).retire else s.faultCode .illegalOperand 0 0 0 := by
  have hdone : (s.onCur fun t => t.convert sat d a k src (t.rnd r)).vdone [a] = ({ s with cur := s.cur.convert sat d a k src (s.cur.rnd r) } : State).retire :=
    vdone_unbound fun v hv => by
      show Strand.stream (s.cur.convert sat d a k src (s.cur.rnd r)) v = none
      rw [(s.cur.convert_frame sat d a k src (s.cur.rnd r)).1]
      exact h.unbound v (List.mem_cons_of_mem d hv)
  rw [← hdone]
  unfold State.vconv
  rw [hsrc]
  exact vissue_check _ h (by simp)

/-- What an accepted conversion leaves under a mode that is not efb (R121, R148). -/
theorem vcvt_plain {s : State} {sat : Bool} {d a k : BitVec 5} {src : ElTy} {m : Rnd} (hp : s.cur.pre = none) (hm : m ≠ .efb) :
    let t := ({ s with cur := s.cur.convert sat d a k src m } : State).retire
    let p := 512 * s.cur.laneCount / Nat.max (widthOf src) (widthOf s.cur.vty)
    let lit (j : Nat) : Bool := decide (j < p) && (decide (k = 31) || (s.cur.getK k).getLsbD j)
    let c (j : Nat) : Nat × Flags := convertEl src s.cur.vty m sat (elemAt (widthOf src) (s.cur.getV a) j)
    Elementwise (widthOf s.cur.vty) p lit (s.cur.getV d) (t.cur.getV d) (fun j => (c j).1) ∧
      t.cur.fflags = s.cur.fflags ||| flagsOver p lit (fun j => (c j).2) ∧ OnlyVectors s t [d] ∧ Stepped s t := by
  intro t p lit c
  have hlit : active (s.cur.mask k) p = lit := funext (active_eq s.cur k p)
  obtain ⟨hframe, hothers⟩ := s.cur.convert_frame sat d a k src m
  rw [s.cur.convert_efr sat d a k src hm] at hframe
  obtain ⟨hvec, hflags, honly, hstep⟩ := onlyVectors_retire [d] hp hframe hothers
  obtain ⟨hels, hfl⟩ := s.cur.convert_plain sat d a k src m hm
  rw [← hlit]
  exact ⟨(hvec d).symm ▸ hels, hflags.trans hfl, honly, hstep⟩

/-- What an accepted conversion leaves under efb (R120, R148). -/
theorem vcvt_efb {s : State} {sat : Bool} {d a k : BitVec 5} {src : ElTy} (hp : s.cur.pre = none) :
    let t := ({ s with cur := s.cur.convert sat d a k src .efb } : State).retire
    let p := 512 * s.cur.laneCount / Nat.max (widthOf src) (widthOf s.cur.vty)
    let lit (j : Nat) : Bool := decide (j < p) && (decide (k = 31) || (s.cur.getK k).getLsbD j)
    let code (j : Nat) : Nat := elemAt (widthOf src) (s.cur.getV a) j
    let x := efbAt src s.cur.vty sat lit code s.cur.efr
    Elementwise (widthOf s.cur.vty) p lit (s.cur.getV d) (t.cur.getV d) (fun j => (x j).1) ∧
      t.cur.efr = BitVec.ofNat 32 (roundF .f32 fmtF32 .rne (residualAt src s.cur.vty sat lit code s.cur.efr p)).1 ∧
      t.cur.fflags = s.cur.fflags ||| flagsOver p lit (fun j => (x j).2.1) ∧
      OnlyVectors { s with cur := { s.cur with efr := t.cur.efr } } t [d] ∧ Stepped s t := by
  intro t p lit code x
  have hlit : active (s.cur.mask k) p = lit := funext (active_eq s.cur k p)
  obtain ⟨hframe, hothers⟩ := s.cur.convert_frame sat d a k src .efb
  obtain ⟨hels, hefr, hfl⟩ := s.cur.convert_efb sat d a k src
  have hpre : (s.cur.convert sat d a k src .efb).pre = none := by rw [hframe]; exact hp
  have ht : t.cur.efr = (s.cur.convert sat d a k src .efb).efr := by
    rw [show t = _ from State.retire_goOn hpre]; rfl
  obtain ⟨hvec, hflags, honly, hpc, hloops⟩ := onlyVectors_retire (s := { s with cur := { s.cur with efr := (s.cur.convert sat d a k src .efb).efr } }) [d] hp hframe hothers
  rw [ht]
  simp only [x, ← hlit]
  exact ⟨(hvec d).symm ▸ hels, hefr, hflags.trans hfl, honly, hpc, hloops⟩

/-! Unpacking (R115, R149). -/

/-- The value of an element of a block, rounded once (R115, R149). -/
def unpacked (src ty : ElTy) (sv av : VReg) (i : Nat) : Nat × Flags :=
  let x := scaleAt src sv (i / 32)
  roundTo ty .rne (blockVal src x.1 x.2 (elemAt (widthOf src) av i))

/-- `vunpk` of a strand that is ready for it (R149, R151). -/
theorem exec_vunpk {s : State} {d a k sc : BitVec 5} {src : ElTy} (hsrc : ElTy.ofCode sc.toNat = some src) (h : VReady s [] [d, a, a + 1]) :
    exec (.vunpk d a k sc) s = .next (if isBlock src && isF s.cur.vty then
      ((readAll s []).onCur fun t => t.putActive d k fun _ => unpacked src t.vty (t.getV (a + 1)) (t.getV a)).retire
      else s.faultCode .illegalOperand 0 0 0) := by
  have hdone : ((readAll s []).onCur fun t => t.putActive d k fun _ => unpacked src t.vty (t.getV (a + 1)) (t.getV a)).vdone [a] = _ :=
    vdone_unbound fun v hv => h.unbound v (by simp only [List.mem_singleton] at hv; simp [hv])
  show execVunpk d a k sc s = _
  unfold execVunpk
  rw [hsrc, ← hdone]
  exact congrArg _ (vissue_check _ h (by simp))

/-! Packing (R113, R115, R149, R160). -/

/-- A packed block gives each element that it was given a code, and no other. -/
theorem packBlock_codes (ty : ElTy) (m : Rnd) (els : List (Option FVal)) : ∃ g : FVal → Nat, (packBlock ty m els).codes = els.map (Option.map g) := by
  unfold packBlock
  dsimp only
  split
  · exact ⟨_, rfl⟩
  · split
    · exact ⟨_, rfl⟩
    · exact ⟨_, rfl⟩

/-- A block with a NaN or an infinity (R113). -/
theorem packBlock_notFinite {ty : ElTy} {m : Rnd} {els : List (Option FVal)} (h : ∃ v, some v ∈ els ∧ notFinite v = true) :
    packBlock ty m els = ⟨0xFF, 0xFF, els.map fun o => o.map fun _ => 0, 0⟩ := by
  obtain ⟨v, hmem, hv⟩ := h
  unfold packBlock
  exact if_pos (List.any_eq_true.mpr ⟨v, List.mem_filterMap.mpr ⟨some v, hmem, rfl⟩, hv⟩)

/-- Positions taken block by block. -/
theorem flatMap_range (n m : Nat) (f : Nat → Nat) : ((List.range m).flatMap fun j => (List.range n).map fun i => f (n * j + i)) = (List.range (n * m)).map f := by
  induction m with
  | zero => rfl
  | succ m ih => rw [List.range_succ, List.flatMap_append, ih, Nat.mul_succ, List.range_add, List.map_append, List.map_map]; simp [Function.comp_def]

theorem zipIdx_map_range {α : Type} (n : Nat) (f : Nat → α) : ((List.range n).map f).zipIdx = (List.range n).map fun j => (f j, j) := by
  refine List.ext_getElem (by simp) fun i h _ => ?_
  simp

/-- The scale bytes of blocks, byte by byte, where some blocks have new ones: two a block for a twin-scale type, one for another (R111, R115). -/
theorem putScales_lit (ty : ElTy) (old : VReg) (n : Nat) (lit : Nat → Bool) (x : Nat → Nat × Nat) :
    putScales ty old ((List.range n).map fun j => if lit j then some (x j) else none) =
      let per := if isTwin ty then 2 else 1
      putEls 8 old ((List.range (per * n)).map fun b => if lit (b / per) then (if b % per = 0 then (x (b / per)).1 else (x (b / per)).2) else elemAt 8 old b) := by
  unfold putScales
  dsimp only
  rw [zipIdx_map_range, List.flatMap_map, ← flatMap_range]
  refine congrArg (fun f => putEls 8 old (List.flatMap f _)) (funext fun j => ?_)
  unfold scaleAt
  cases isTwin ty <;> cases hj : lit j <;> simp [List.range_succ, hj, Nat.mul_add_div, Nat.mod_one]

section
variable (src ty : ElTy) (m : Rnd) (lit : Nat → Bool) (code : Nat → Nat)

/-- Block j of the elements, packed (R113, R149). -/
def packedAt (j : Nat) : Packed := packBlock ty m (blockEls src lit code j)

/-- A block that is packed only where it has an active element (R160). -/
def litBlock (j : Nat) : Option Packed := if blockLit lit j then some (packedAt src ty m lit code j) else none

theorem blockEls_any (j : Nat) : (blockEls src lit code j).any Option.isSome = blockLit lit j := by
  unfold blockEls blockLit
  rw [List.any_map]
  refine congrArg ((List.range 32).any ·) (funext fun i => ?_)
  rw [Function.comp]
  cases lit (32 * j + i) <;> rfl

/-- The code a position takes: that of its block at an active position, the old one elsewhere. -/
theorem litBlock_code (old : Nat) {i j : Nat} (hi : i < 32) :
    (match litBlock src ty m lit code j with
      | some q => (q.codes.getD i none).getD old
      | none => old) = if lit (32 * j + i) then ((packedAt src ty m lit code j).codes.getD i none).getD 0 else old := by
  obtain ⟨g, hg⟩ := packBlock_codes ty m (blockEls src lit code j)
  have hcode : (packedAt src ty m lit code j).codes.getD i none = if lit (32 * j + i) then some (g (elemVal src (code (32 * j + i)))) else none := by
    rw [packedAt, hg, blockEls, List.map_map, List.getD_eq_getElem _ _ (by simpa using hi), List.getElem_map, List.getElem_range, Function.comp]
    split <;> rfl
  rw [litBlock, hcode]
  by_cases h : lit (32 * j + i) = true
  · have hblock : blockLit lit j = true := List.any_eq_true.mpr ⟨i, List.mem_range.mpr hi, h⟩
    rw [if_pos hblock, if_pos h, if_pos h]
    dsimp only
    rw [hcode, if_pos h]
    rfl
  · rw [if_neg h]
    split
    · next q hq =>
      obtain ⟨-, rfl⟩ : _ ∧ packedAt src ty m lit code j = q := by simpa using hq
      rw [hcode, if_neg h]
      rfl
    · rfl

/-- The blocks of a register that `vpack` packs. -/
def packBlocks (n : Nat) : List (Option Packed) := (List.range n).map (litBlock src ty m lit code)

/-- The codes of the blocks, position by position (R160). -/
theorem packBlocks_codes (n : Nat) (old : VReg) :
    ((packBlocks src ty m lit code n).zipIdx.flatMap fun b => (List.range 32).map fun i =>
      match b.1 with
      | some q => (q.codes.getD i none).getD (elemAt (widthOf ty) old (32 * b.2 + i))
      | none => elemAt (widthOf ty) old (32 * b.2 + i)) =
    (List.range (32 * n)).map fun i => if lit i then ((packedAt src ty m lit code (i / 32)).codes.getD (i % 32) none).getD 0 else elemAt (widthOf ty) old i := by
  rw [packBlocks, zipIdx_map_range, List.flatMap_map, ← flatMap_range]
  refine congrArg (List.flatMap · _) (funext fun j => List.map_congr_left fun i hi => ?_)
  have hi := List.mem_range.mp hi
  rw [Nat.mul_add_div (by decide), Nat.div_eq_of_lt hi, Nat.add_zero, Nat.mul_add_mod, Nat.mod_eq_of_lt hi]
  exact litBlock_code src ty m lit code _ hi

theorem packBlocks_scales (n : Nat) (old : VReg) :
    putScales ty old ((packBlocks src ty m lit code n).map fun b => b.map fun q => (q.x0, q.x1)) =
      let per := if isTwin ty then 2 else 1
      putEls 8 old ((List.range (per * n)).map fun x => if blockLit lit (x / per) then
        (if x % per = 0 then (packedAt src ty m lit code (x / per)).x0 else (packedAt src ty m lit code (x / per)).x1) else elemAt 8 old x) := by
  rw [packBlocks, List.map_map]
  refine Eq.trans (congrArg (putScales ty old) (List.map_congr_left fun j _ => ?_))
    (putScales_lit ty old n (blockLit lit) fun j => ((packedAt src ty m lit code j).x0, (packedAt src ty m lit code j).x1))
  rw [Function.comp, litBlock]
  split <;> rfl

theorem packBlocks_flags (n : Nat) :
    ((packBlocks src ty m lit code n).foldl (fun f b => match b with
      | some q => f ||| q.flags
      | none => f) 0) = flagsOver n (blockLit lit) fun j => (packedAt src ty m lit code j).flags := by
  unfold packBlocks flagsOver
  generalize (0 : Flags) = fl
  induction List.range n generalizing fl with
  | nil => rfl
  | cons j l ih =>
    rw [List.map_cons, List.foldl_cons, litBlock]
    by_cases h : blockLit lit j = true
    · rw [if_pos h, List.filter_cons_of_pos h, List.foldl_cons]; exact ih _
    · rw [if_neg h, List.filter_cons_of_neg h]; exact ih _

end

theorem widthOf_isF {ty : ElTy} (h : isF ty = true) : 16 ≤ widthOf ty := by revert h; cases ty <;> decide

theorem widthOf_isBlock {ty : ElTy} (h : isBlock ty = true) : widthOf ty ≤ 8 := by revert h; cases ty <;> decide

/-- The strand with n packed blocks written: codes to vd, scales to vd + 1 (R115). -/
def Strand.putBlocks (t : Strand) (d : BitVec 5) (src : ElTy) (m : Rnd) (lit : Nat → Bool) (code : Nat → Nat) (n : Nat) : Strand :=
  let per := if isTwin t.vty then 2 else 1
  let q := packedAt src t.vty m lit code
  let codes := (List.range (32 * n)).map fun i => if lit i then ((q (i / 32)).codes.getD (i % 32) none).getD 0 else elemAt (widthOf t.vty) (t.getV d) i
  let scales := (List.range (per * n)).map fun x => if blockLit lit (x / per) then (if x % per = 0 then (q (x / per)).x0 else (q (x / per)).x1) else elemAt 8 (t.getV (d + 1)) x
  ((t.setV d (putEls (widthOf t.vty) (t.getV d) codes)).setV (d + 1) (putEls 8 (t.getV (d + 1)) scales)).raise (flagsOver n (blockLit lit) fun j => (q j).flags)

theorem succ_ne_self (d : BitVec 5) : d + 1 ≠ d := by bv_omega

theorem Strand.pack_eq (t : Strand) (d a k : BitVec 5) (src : ElTy) (m : Rnd) :
    t.pack d a k src m = t.putBlocks d src m (active (t.mask k) (t.vbits / widthOf src)) (elemAt (widthOf src) (t.getV a)) ((t.vbits / widthOf src + 31) / 32) := by
  have hblock (lit : Nat → Bool) (code : Nat → Nat) (j : Nat) : (if (blockEls src lit code j).any Option.isSome then some (packedAt src t.vty m lit code j) else none) = litBlock src t.vty m lit code j := by
    rw [blockEls_any, litBlock]
  have hold (v : VReg) : (t.setV d v).getV (d + 1) = t.getV (d + 1) := Strand.getV_setV_ne t v (succ_ne_self d)
  unfold Strand.putBlocks
  dsimp only
  rw [← packBlocks_codes, ← packBlocks_flags, ← packBlocks_scales, packBlocks, ← funext (hblock _ _)]
  unfold Strand.pack
  dsimp only
  rw [hold]
  rfl

/-- What `vpack` leaves in vd, in vd + 1 and in the sticky flags (R115, R149). -/
theorem Strand.pack_spec (t : Strand) (d a k : BitVec 5) (src : ElTy) (m : Rnd) (hsrc : isF src = true) (hty : isBlock t.vty = true) :
    let p := t.vbits / widthOf src
    let n := (p + 31) / 32
    let per := if isTwin t.vty then 2 else 1
    let lit := active (t.mask k) p
    let q := packedAt src t.vty m lit (elemAt (widthOf src) (t.getV a))
    let y := t.pack d a k src m
    Elementwise (widthOf t.vty) (32 * n) lit (t.getV d) (y.getV d) (fun i => ((q (i / 32)).codes.getD (i % 32) none).getD 0) ∧
      Elementwise 8 (per * n) (fun x => blockLit lit (x / per)) (t.getV (d + 1)) (y.getV (d + 1)) (fun x => if x % per = 0 then (q (x / per)).x0 else (q (x / per)).x1) ∧
      y.fflags = t.fflags ||| flagsOver n (blockLit lit) (fun j => (q j).flags) := by
  intro p n per lit q y
  have hp : p ≤ 512 := by
    have hlanes := t.laneCount_le
    have hw := widthOf_isF hsrc
    calc p ≤ t.vbits / 16 := Nat.div_le_div_left hw (by decide)
      _ ≤ 512 := by unfold Strand.vbits; omega
  have hn : n ≤ 16 := by omega
  have hcodes : 32 * n * widthOf t.vty ≤ 8192 := (Nat.mul_le_mul (Nat.mul_le_mul_left 32 hn) (widthOf_isBlock hty)).trans (by decide)
  have hscales : per * n * 8 ≤ 8192 := by
    have : per ≤ 2 := by simp only [per]; split <;> omega
    exact (Nat.mul_le_mul_right 8 (Nat.mul_le_mul this hn)).trans (by decide)
  have hd (v v' : VReg) : ((t.setV d v).setV (d + 1) v').getV d = v :=
    (Strand.getV_setV_ne _ _ (succ_ne_self d).symm).trans (Strand.getV_setV_self t d v)
  simp only [y, Strand.pack_eq]
  exact ⟨(hd _ _).symm ▸ putEls_elementwise _ lit _ hcodes, (Strand.getV_setV_self _ (d + 1) _).symm ▸ putEls_elementwise _ (fun x => blockLit lit (x / per)) _ hscales, rfl⟩

/-- `vpack` changes vd, vd + 1 and the sticky flags alone. -/
theorem Strand.pack_frame (t : Strand) (d a k : BitVec 5) (src : ElTy) (m : Rnd) :
    let y := t.pack d a k src m
    y = { t with vregs := y.vregs, fflags := y.fflags } ∧ ∀ v, v ∉ [d, d + 1] → y.getV v = t.getV v := by
  refine ⟨rfl, fun v hv => ?_⟩
  exact (Strand.getV_setV_ne _ _ (List.ne_of_not_mem_cons (List.not_mem_of_not_mem_cons hv))).trans (Strand.getV_setV_ne _ _ (List.ne_of_not_mem_cons hv))

/-- `vpack` of a strand that is ready for it (R149, R151). -/
theorem exec_vpack {s : State} {d a k sc : BitVec 5} {r : BitVec 3} {src : ElTy} (hsrc : ElTy.ofCode sc.toNat = some src) (h : VReady s [] [d, d + 1, a]) :
    exec (.vpack d a k sc r) s = .next (if isF src && isBlock s.cur.vty && decide (s.cur.rnd r ≠ .efb) then ({ s with cur := s.cur.pack d a k src (s.cur.rnd r) } : State).retire
      else s.faultCode .illegalOperand 0 0 0) := by
  have hdone : (s.onCur fun t => t.pack d a k src (t.rnd r)).vdone [a] = ({ s with cur := s.cur.pack d a k src (s.cur.rnd r) } : State).retire :=
    vdone_unbound fun v hv => by
      show Strand.stream (s.cur.pack d a k src (s.cur.rnd r)) v = none
      rw [(s.cur.pack_frame d a k src (s.cur.rnd r)).1]
      exact h.unbound v (by simp only [List.mem_singleton] at hv; simp [hv])
  show execVpack d a k sc r s = _
  unfold execVpack
  rw [hsrc, ← hdone]
  exact congrArg _ (vissue_check _ h (by simp))

/-- What an accepted `vpack` leaves (R115, R149). -/
theorem vpack_done {s : State} {d a k : BitVec 5} {src : ElTy} {m : Rnd} (hp : s.cur.pre = none) (hsrc : isF src = true) (hty : isBlock s.cur.vty = true) :
    let t := ({ s with cur := s.cur.pack d a k src m } : State).retire
    let p := 512 * s.cur.laneCount / widthOf src
    let blocks := (p + 31) / 32
    let per := if isTwin s.cur.vty then 2 else 1
    let lit (j : Nat) : Bool := decide (j < p) && (decide (k = 31) || (s.cur.getK k).getLsbD j)
    let q := packedAt src s.cur.vty m lit (elemAt (widthOf src) (s.cur.getV a))
    Elementwise (widthOf s.cur.vty) (32 * blocks) lit (s.cur.getV d) (t.cur.getV d) (fun i => ((q (i / 32)).codes.getD (i % 32) none).getD 0) ∧
      Elementwise 8 (per * blocks) (fun x => blockLit lit (x / per)) (s.cur.getV (d + 1)) (t.cur.getV (d + 1)) (fun x => if x % per = 0 then (q (x / per)).x0 else (q (x / per)).x1) ∧
      t.cur.fflags = s.cur.fflags ||| flagsOver blocks (blockLit lit) (fun j => (q j).flags) ∧ OnlyVectors s t [d, d + 1] ∧ Stepped s t := by
  intro t p blocks per lit q
  have hlit : active (s.cur.mask k) p = lit := funext (active_eq s.cur k p)
  obtain ⟨hframe, hothers⟩ := s.cur.pack_frame d a k src m
  obtain ⟨hvec, hflags, honly, hstep⟩ := onlyVectors_retire [d, d + 1] hp hframe hothers
  obtain ⟨hcodes, hscales, hfl⟩ := s.cur.pack_spec d a k src m hsrc hty
  simp only [q, ← hlit]
  exact ⟨(hvec d).symm ▸ hcodes, (hvec (d + 1)).symm ▸ hscales, hflags.trans hfl, honly, hstep⟩

/-! The obligation. -/

/-- Settles O17: conversions by what they leave with and without the chain, unpacking position by position, packing block by block; a pair that is not accepted faults at the issue check. -/
theorem conversions : Obligations.Conversions := by
  unfold Obligations.Conversions
  refine ⟨?_, ?_, ?_, ?_, fun ty m els h => packBlock_notFinite h⟩
  · intro s sat d a k sc r src hsrc h hok i ws wt p lit code c e x
    have hexec : exec i s = .next ({ s with cur := s.cur.convert sat d a k src (s.cur.rnd r) } : State).retire := by
      exact (exec_vconv s sat d a k sc r).trans (congrArg _ ((vconv_eq hsrc h).trans (if_pos hok)))
    refine ⟨fun hm => ⟨_, hexec, vcvt_plain h.ready.calm hm⟩, fun hm => ?_⟩
    rw [hm] at hexec
    exact ⟨_, hexec, vcvt_efb h.ready.calm⟩
  · intro s sat d a k sc r src hsrc h hok
    rw [exec_vconv, vconv_eq hsrc h, hok]
    rfl
  · intro s d a k sc src hsrc h scale c
    refine ⟨fun hb hf => ⟨_, ?_, putActive_retire [] d k (fun t _ => unpacked src t.vty (t.getV (a + 1)) (t.getV a)) h.ready.calm fun _ _ _ => rfl⟩, fun hno => ?_⟩
    · rw [exec_vunpk hsrc h, hb, hf]
      rfl
    · rw [exec_vunpk hsrc h, if_neg (by simpa using hno)]
  · intro s d a k sc r src hsrc h wt p blocks per lit q
    refine ⟨fun hf hb hm => ⟨_, ?_, vpack_done h.ready.calm hf hb⟩, fun hno => ?_⟩
    · rw [exec_vpack hsrc h, hf, hb, decide_eq_true hm]
      rfl
    · rw [exec_vpack hsrc h, if_neg (by simpa using hno)]

end Sys2Proof.Machine
end

section
/-! Pages of blocks (R114, R158, R293): the place of a block through a translation that the core holds. -/

namespace Sys2Proof.Machine
open Sys2Proof.Claims

/-! The leaf of a page of blocks. -/

section
variable {s : State} {start : Word} {w : Bool} {u : TlbEntry} {ty : ElTy}

theorem blockPage_fields (hp : BlockPage s start w u ty) : eKind u.leaf = 0 ∧ eKey u.leaf = (s.jobRoot s.cur.job).2 ∧ fmtTy u.leaf = some ty ∧ eGeom u.leaf = (u.leaf.extractLsb' 14 2).toNat := by
  have hlt := u.leaf.isLt
  have hkind : eKind u.leaf = (u.leaf.extractLsb' 8 2).toNat := (toNat_extract u.leaf 8 2).symm
  have hfmt : eFmt u.leaf = (u.leaf.extractLsb' 10 4).toNat := (toNat_extract u.leaf 10 4).symm
  obtain ⟨hpos, hle, hty⟩ := hp.tag
  refine ⟨by rw [hkind, hp.kind]; rfl, ?_, ?_, (toNat_extract u.leaf 14 2).symm⟩
  · rw [← hp.key, toNat_extract, eKey]
    omega
  · rw [fmtTy, hfmt, if_neg (by omega), if_pos hle, hty]

/-- The checks of R293 pass on the leaf of a page of blocks. -/
theorem blockPage_leafCheck (hp : BlockPage s start w u ty) : s.leafCheck (needFmt w) (s.jobRoot s.cur.job).2 u.leaf u.big = none := by
  obtain ⟨hkind, hkey, -, -⟩ := blockPage_fields hp
  have hlive : (s.pkg.keys.get ⟨false, false, 0⟩ (eKey u.leaf)).revoked = false := by rw [hkey, ← hp.key]; exact hp.live
  have hmay : (((needFmt w).r && !eR u.leaf) || ((needFmt w).w && !eW u.leaf) || ((needFmt w).x && !eX u.leaf)) = false := by
    have hmay := hp.may
    cases w
    · simp [needFmt, eR, show u.leaf.getLsbD 1 = true from hmay]
    · simp [needFmt, eW, show u.leaf.getLsbD 2 = true from hmay]
  unfold State.leafCheck
  rw [hmay, hkind, hkey, ← hkey, hlive]
  simp

/-- The place of an address of the page (R291). -/
theorem blockPage_leafLoc (hp : BlockPage s start w u ty) {x : Nat} (hx : x / 2 ^ 18 = start.toNat / 2 ^ 18) : leafLoc u.leaf u.big x = unitLoc u start + x % 2 ^ 18 := by
  have hframe : eFrame u.leaf = (u.leaf.extractLsb' 18 34).toNat := (toNat_extract u.leaf 18 34).symm
  unfold leafLoc unitLoc
  rw [(blockPage_fields hp).1, hframe]
  dsimp only
  cases u.big
  · simp
  · simp only [if_true]
    omega

theorem unitLoc_lt (u : TlbEntry) (va : Word) : unitLoc u va < 2 ^ 53 := by
  have hlt := (u.leaf.extractLsb' 18 34).isLt
  unfold unitLoc
  split <;> omega

/-- A place that is not stale keeps its name (R304). -/
theorem freshPlace_of_fresh {x : Nat} (h : staleVa x = none) (va : Word) (loc : Nat) : freshPlace va loc x = x := by
  refine if_neg fun hc => ?_
  unfold staleVa at h
  rw [if_neg (Nat.not_lt.mpr hc.1)] at h
  exact absurd h (Option.some_ne_none _)

/-- A strand with no pending store and no stale lock has nothing to rename. -/
theorem Strand.replaced_same {t : Strand} (hp : t.pend = []) (hg : ∀ g ∈ t.guards, staleVa g.lock = none) (hl : ∀ l ∈ t.locks, staleVa l = none) (va : Word) (loc : Nat) :
    t.replaced va loc = t := by
  have hguards : (t.guards.map fun g => { g with lock := freshPlace va loc g.lock }) = t.guards :=
    (List.map_congr_left fun g hm => by rw [freshPlace_of_fresh (hg g hm)]; rfl).trans (List.map_id _)
  have hlocks : t.locks.map (freshPlace va loc) = t.locks :=
    (List.map_congr_left fun l hm => freshPlace_of_fresh (hl l hm) va loc).trans (List.map_id _)
  unfold Strand.replaced Strand.renamed
  rw [hguards, hlocks, hp]
  exact congrArg (fun p => { t with pend := p }) hp.symm

/-- An access to an address of the page finds its place, and changes nothing (R94, R293, R295). -/
theorem place_page {lit : List Nat} (hp : BlockPage s start w u ty) (hb : BlocksOk s start u ty lit) {va : Word} (hva : va.toNat / 2 ^ 18 = start.toNat / 2 ^ 18) (n : Nat) :
    s.place s.cur va n (needFmt w) false = (s, .ok ⟨unitLoc u start + va.toNat % 2 ^ 18, some u.leaf, false, false, u.big⟩) := by
  have hglobal : va.toNat < 2 ^ 56 := by have := hp.global; omega
  have hloc := unitLoc_lt u start
  have htranslate : s.translate (clusterOf s.cur.sid) (some (coreOf s.cur.sid)) (s.jobRoot s.cur.job).1 (s.jobRoot s.cur.job).2 (needFmt w) va.toNat =
      (s, .ok ⟨unitLoc u start + va.toNat % 2 ^ 18, some u.leaf, false, false, u.big⟩) := by
    unfold State.translate
    rw [show (needFmt w).w = w from rfl, hp.cached _ hva]
    dsimp only
    rw [blockPage_leafCheck hp, blockPage_leafLoc hp hva, if_pos hp.own]
  have hexit : s.exitOk (unitLoc u start + va.toNat % 2 ^ 18) n = none := by
    unfold State.exitOk isHostLoc isPeerLoc
    rw [decide_eq_false (by omega), decide_eq_false (by omega)]
    rfl
  unfold State.place
  rw [isUnused, decide_eq_false (by omega), isNear, decide_eq_false (by omega), if_neg Bool.false_ne_true, if_neg Bool.false_ne_true]
  generalize s.jobRoot s.cur.job = p at htranslate ⊢
  obtain ⟨root, key⟩ := p
  dsimp only at htranslate ⊢
  rw [htranslate]
  dsimp only
  rw [hexit]
  dsimp only
  rw [if_pos rfl, State.onCur, Strand.replaced_same hb.pend hb.guards hb.locks]

theorem blockAt_eq_blockSpot (ty : ElTy) (geom b : Nat) : blockAt ty geom b = blockSpot ty geom b := by
  unfold blockAt blockSpot blockElemBytes scaleBytes
  dsimp only
  by_cases hw : widthOf ty = 4
  · simp only [hw, if_true]; rfl
  · simp only [hw, if_false]; rfl

theorem perByte_pos (ty : ElTy) : 0 < perByte ty := by unfold perByte; split <;> decide

/-- The block of element i, with the places of its bytes through the leaf (R158). -/
def blkAt (u : TlbEntry) (ty : ElTy) (start : Word) (i : Nat) : Blk :=
  let b := blockOf u ty start i
  ⟨ty, b.eva, b.sva, ⟨b.el, some u.leaf, false, false, u.big⟩, ⟨b.sl, some u.leaf, false, false, u.big⟩⟩

/-- The logical byte of element i in its unit (R158). -/
def fmtByte (start : Word) (per i : Nat) : Nat := (start.toNat % 2 ^ 18 * per + i) / per

theorem fmtByte_lt {lit : List Nat} (hb : BlocksOk s start u ty lit) {i : Nat} (hi : i ∈ lit) : fmtByte start (perByte ty) i < 0x20000 :=
  (Nat.div_lt_iff_lt_mul (perByte_pos ty)).mpr (hb.view i hi)

/-- An element in the logical view lies on the page the access starts on, at its logical byte (R158). -/
theorem fmtAddr_toNat {per i : Nat} (hglobal : start.toNat < 2 ^ 56) (hbyte : fmtByte start per i < 0x20000) :
    (fmtAddr start per i).toNat = start.toNat / 2 ^ 18 * 2 ^ 18 + fmtByte start per i := by
  have haddr : fmtAddr start per i = start - BitVec.ofNat 64 (start.toNat % 2 ^ 18) + BitVec.ofNat 64 (fmtByte start per i) := rfl
  rw [haddr]
  generalize fmtByte start per i = j at hbyte
  bv_omega

/-- The checks of an element in the logical view whose block may be accessed find its block, and change nothing (R158). -/
theorem fmtCheck_ok {lit : List Nat} (hp : BlockPage s start w u ty) (hb : BlocksOk s start u ty lit) {i : Nat} (hi : i ∈ lit) {want : Option ElTy} (hw : want.isSome → want = some ty) :
    s.fmtCheck start i w want (perByte ty) = (s, .ok (blkAt u ty start i)) := by
  have hbyte := fmtByte_lt hb hi
  have haddr := fmtAddr_toNat hp.global hbyte
  obtain ⟨-, -, hty, hgeom⟩ := blockPage_fields hp
  have hg := hp.geom
  have hplace := place_page hp hb (va := fmtAddr start (perByte ty) i) (by omega) 1
  rw [haddr, show (start.toNat / 2 ^ 18 * 2 ^ 18 + fmtByte start (perByte ty) i) % 2 ^ 18 = fmtByte start (perByte ty) i by omega] at hplace
  have hsable (loc n : Nat) : s.sableCheck s.cur loc n = .ok false := if_pos hb.plain
  have hels : s.poisoned (unitLoc u start + (blockSpot ty (u.leaf.extractLsb' 14 2).toNat ((start.toNat % 2 ^ 18 * perByte ty + i) / 32)).1) (blockElemBytes ty) = false := (hb.clean i hi).1
  have hscs : s.poisoned (unitLoc u start + (blockSpot ty (u.leaf.extractLsb' 14 2).toNat ((start.toNat % 2 ^ 18 * perByte ty + i) / 32)).2) (scaleBytes ty) = false := (hb.clean i hi).2
  have hfold : (start.toNat % 2 ^ 18 * perByte ty + i) / perByte ty = fmtByte start (perByte ty) i := rfl
  unfold State.fmtCheck
  dsimp only
  rw [hplace]
  dsimp only [Option.getD_some]
  rw [hty]
  dsimp only
  rw [hfold, if_neg (by rw [hgeom, not_or, not_and]; exact ⟨by omega, fun h hn => hn (hw h)⟩), if_neg (Nat.not_le.mpr hbyte)]
  simp only [blockAt_eq_blockSpot, hgeom, Nat.add_sub_cancel, hsable, hels, hscs, Bool.or_self, Bool.false_eq_true, if_false]
  rfl

end

/-! A block's bytes as the strand loads them (R268, R274). -/

/-- The strand knows every write that covers a byte, and no Sable write does (R240, R268). -/
def ByteKnown (s : State) (a : Nat) : Prop :=
  (∀ w ∈ s.hist, w.covers a = true → knownTo (s.jobStart s.cur.job) s.cur.hb w = true) ∧ ∀ w ∈ s.sable, w.covers a = false

theorem byteKnown_of {s : State} {loc n : Nat} (hk : AllKnown s loc n) (hs : ∀ w ∈ s.sable, overlaps w.loc w.n loc n = false) {i : Nat} (hi : i < n) : ByteKnown s (loc + i) := by
  refine ⟨fun w hw hc => hk w hw (overlaps_of_covers hi hc), fun w hw => ?_⟩
  by_contra hc
  rw [Bool.not_eq_false] at hc
  exact absurd ((hs w hw).symm.trans (overlaps_of_covers hi hc)) (by decide)

/-- Bytes all of whose writes are known read as memory stands (R268). -/
theorem State.loadPlaces_byteKnown {s : State} {ps : List Nat} (h : ∀ a ∈ ps, ByteKnown s a) :
    ∃ o, s.loadPlaces ps = (ps.map (s.mem.get memDefault), s.knowing s.cur.hb s.cur.soon o) := by
  have hbytes : (ps.map fun a => (⟨a, s.publicByte a, none⟩ : LoadByte)).map (·.cur) = ps.map (s.mem.get memDefault) := by
    rw [List.map_map]
    exact List.map_congr_left fun a ha => State.publicByte_plain (h a ha).2
  obtain ⟨r, hr⟩ := phaseWalk_known (knownTo (s.jobStart s.cur.job) s.cur.hb) s.hist none s.free (ps.map fun a => ⟨a, s.publicByte a, none⟩) (by
    intro w hw x hx hc
    obtain ⟨a, ha, rfl⟩ := List.mem_map.mp hx
    exact (h a ha).1 w hw hc)
  refine ⟨r ++ s.cur.obs, ?_⟩
  unfold State.loadPlaces State.phaseLoad
  rw [hr, hbytes]
  rfl

theorem map_placesOf (s : State) (loc n : Nat) : (placesOf loc n).map (s.mem.get memDefault) = s.bytesAt loc n := by
  rw [State.bytesAt, SMap.getList_eq_map, placesOf, List.map_map]
  rfl

theorem byteKnown_placesOf {s : State} {loc n : Nat} (h : ∀ i, i < n → ByteKnown s (loc + i)) {a : Nat} (ha : a ∈ placesOf loc n) : ByteKnown s a := by
  obtain ⟨i, hi, rfl⟩ := List.mem_map.mp ha
  exact h i (List.mem_range.mp hi)

/-- With no store pending the strand's view is memory under the key (R268, R397). -/
theorem State.ownView_bytesAt {s : State} (hp : s.cur.pend = []) (key loc n : Nat) : s.ownView key loc (s.bytesAt loc n) = s.peekKey key loc n := by
  unfold State.ownView
  rw [hp]
  rfl

theorem State.peekKey_succ (s : State) (key loc n : Nat) : s.peekKey key loc (n + 1) = s.peekKey key loc 1 + 256 * s.peekKey key (loc + 1) n := rfl

/-- Byte by byte a range reads as memory stands (R274). -/
theorem State.loadBytes_byteKnown {s : State} (hp : s.cur.pend = []) (key n loc : Nat) (h : ∀ i, i < n → ByteKnown s (loc + i)) :
    ∃ o, s.loadBytes key n loc = (s.peekKey key loc n, s.knowing s.cur.hb s.cur.soon o) := by
  induction n generalizing s loc with
  | zero => exact ⟨s.cur.obs, rfl⟩
  | succ n ih =>
    obtain ⟨o, ho⟩ := State.loadPlaces_byteKnown (s := s) (ps := placesOf loc 1) fun a ha => byteKnown_placesOf (fun i hi => h i (by omega)) ha
    obtain ⟨o', ho'⟩ := ih (s := s.knowing s.cur.hb s.cur.soon o) hp (loc + 1) fun i hi => by
      rw [Nat.add_assoc, Nat.add_comm 1]
      exact h (i + 1) (by omega)
    refine ⟨o', ?_⟩
    unfold State.loadBytes State.loadHere
    rw [ho, map_placesOf]
    dsimp only
    rw [State.ownView_bytesAt hp, ho', State.peekKey_succ s key loc n]
    dsimp only
    rw [State.peekKey_congr (s := s) (t := s.knowing s.cur.hb s.cur.soon o) rfl rfl]
    rfl

/-- A block segment loaded as one location reads as memory stands (R274). -/
theorem State.loadSeg_byteKnown {s : State} (hp : s.cur.pend = []) (key el en sl sn : Nat) (he : ∀ i, i < en → ByteKnown s (el + i)) (hs : ∀ i, i < sn → ByteKnown s (sl + i)) :
    ∃ o, s.loadSeg key el en sl sn = (s.peekKey key el en, s.peekKey key sl sn, s.knowing s.cur.hb s.cur.soon o) := by
  obtain ⟨o, ho⟩ := State.loadPlaces_byteKnown (s := s) (ps := placesOf el en ++ placesOf sl sn) fun a ha =>
    (List.mem_append.mp ha).elim (byteKnown_placesOf he) (byteKnown_placesOf hs)
  have hlen : (s.bytesAt el en).length = en := by rw [← map_placesOf, List.length_map, placesOf, List.length_map, List.length_range]
  refine ⟨o, ?_⟩
  unfold State.loadSeg
  rw [ho, List.map_append, map_placesOf, map_placesOf]
  dsimp only
  rw [List.take_left' hlen, List.drop_left' hlen, State.ownView_bytesAt hp, State.ownView_bytesAt hp]

/-! Watermarks do not stand in the way of a strand that has bound none (R261). -/

section
variable {s : State} (hw : NoMarks s)
include hw

theorem markNeeded_none (va : Word) (n : Nat) : s.markNeeded va n = none := by
  unfold State.markNeeded
  rw [marksOver_none hw]
  rfl

theorem passes_noMarks (va : Word) (n : Nat) : s.passes va n = true := by
  unfold State.passes
  rw [marksOver_none hw]
  rfl

theorem markedLoad_noMarks {α : Type} (va : Word) (n : Nat) {f : State → α × State} {a : α} {o : List Nat} (hf : f s = (a, s.knowing s.cur.hb s.cur.soon o)) :
    s.markedLoad va n f = (a, s.knowing s.cur.hb s.cur.soon o) := by
  have hacq : s.markAcquired va n = 0 := by unfold State.markAcquired; rw [marksOver_none hw]; rfl
  have hsame : (s.onCur fun t => { t with hb := t.hb ||| 0 }) = s := by rw [State.onCur, Nat.or_zero]
  unfold State.markedLoad
  rw [hacq]
  dsimp only
  rw [hsame, hf]
  simp only [State.onCur, State.knowing, Nat.or_zero]

end

/-! The blocks of a formatted load (R158, R159). -/

section
variable {s : State} {start : Word} {w : Bool} {u : TlbEntry} {ty : ElTy} {lit : List Nat}

/-- Element bytes of the block of element i, as memory has them under the job's key. -/
def blkEls (s : State) (u : TlbEntry) (ty : ElTy) (start : Word) (i : Nat) : Nat := s.peekKey (s.jobRoot s.cur.job).2 (blockOf u ty start i).el (blockElemBytes ty)
/-- Scale bytes of the block of element i. -/
def blkScs (s : State) (u : TlbEntry) (ty : ElTy) (start : Word) (i : Nat) : Nat := s.peekKey (s.jobRoot s.cur.job).2 (blockOf u ty start i).sl (scaleBytes ty)

/-- The block of an element whose writes are all known reads as memory stands, in either mode (R162, R268, R274). -/
theorem readBlk_known (hp : BlockPage s start w u ty) (hb : BlocksOk s start u ty lit) (hk : BlocksKnown s start u ty lit) {i : Nat} (hi : i ∈ lit) :
    ∃ o, s.readBlk (blkAt u ty start i) = ((blkEls s u ty start i, blkScs s u ty start i), s.knowing s.cur.hb s.cur.soon o) := by
  have hkey : eKey u.leaf = (s.jobRoot s.cur.job).2 := (blockPage_fields hp).2.1
  obtain ⟨hke, hks⟩ := hk i hi
  have he (j : Nat) (hj : j < blockElemBytes ty) : ByteKnown s ((blockOf u ty start i).el + j) := byteKnown_of hke (fun w hw => (hb.written w hw i hi).1) hj
  have hs (j : Nat) (hj : j < scaleBytes ty) : ByteKnown s ((blockOf u ty start i).sl + j) := byteKnown_of hks (fun w hw => (hb.written w hw i hi).2) hj
  unfold State.readBlk
  dsimp only [blkAt, Hit.key]
  rw [hkey]
  cases s.cur.maint
  · obtain ⟨o, ho⟩ := State.loadSeg_byteKnown hb.pend (s.jobRoot s.cur.job).2 _ _ _ _ he hs
    refine ⟨o, ?_⟩
    simp only [Bool.or_self, Bool.false_eq_true, if_false, ho]
    rfl
  · obtain ⟨o, ho⟩ := State.loadBytes_byteKnown hb.pend (s.jobRoot s.cur.job).2 _ _ he
    obtain ⟨o', ho'⟩ := State.loadBytes_byteKnown (s := s.knowing s.cur.hb s.cur.soon o) hb.pend (s.jobRoot s.cur.job).2 _ _ hs
    refine ⟨o', ?_⟩
    simp only [Bool.true_or, if_true, Bool.false_eq_true, if_false, ho, ho']
    rw [State.peekKey_congr (s := s) (t := s.knowing s.cur.hb s.cur.soon o) rfl rfl]
    rfl

/-- Elements of one block of 32 meet the same block of the page. -/
theorem blockOf_congr (hb : BlocksOk s start u ty lit) {i j : Nat} (h : i / 32 = j / 32) : blockOf u ty start i = blockOf u ty start j := by
  have heven : start.toNat % 2 ^ 18 * perByte ty % 32 = 0 := hb.even
  have hnum : (start.toNat % 2 ^ 18 * perByte ty + i) / 32 = (start.toNat % 2 ^ 18 * perByte ty + j) / 32 := by omega
  unfold blockOf
  dsimp only
  rw [show (start.toNat % 2 ^ 18 * (if widthOf ty = 4 then 2 else 1) + i) / 32 = _ from hnum]
  rfl

theorem blkAt_congr (hb : BlocksOk s start u ty lit) {i j : Nat} (h : i / 32 = j / 32) : blkAt u ty start i = blkAt u ty start j := by
  unfold blkAt
  rw [blockOf_congr hb h]

theorem blockPage_knowing (hp : BlockPage s start w u ty) (h q : Nat) (o : List Nat) : BlockPage (s.knowing h q o) start w u ty :=
  ⟨hp.global, hp.cached, hp.own, hp.kind, hp.may, hp.key, hp.live, hp.tag, hp.geom⟩

theorem blocksOk_knowing (hb : BlocksOk s start u ty lit) (h q : Nat) (o : List Nat) : BlocksOk (s.knowing h q o) start u ty lit :=
  ⟨hb.even, hb.view, hb.plain, hb.written, hb.pend, hb.guards, hb.locks, hb.clean⟩

theorem blkEls_knowing (s : State) (h q : Nat) (o : List Nat) (i : Nat) : blkEls (s.knowing h q o) u ty start i = blkEls s u ty start i := State.peekKey_congr (s := s) (t := s.knowing h q o) rfl rfl ..

theorem blkScs_knowing (s : State) (h q : Nat) (o : List Nat) (i : Nat) : blkScs (s.knowing h q o) u ty start i = blkScs s u ty start i := State.peekKey_congr (s := s) (t := s.knowing h q o) rfl rfl ..

/-- What a formatted load gathers of an element. -/
def felAt (s : State) (u : TlbEntry) (ty : ElTy) (start : Word) (i : Nat) : FEl := ⟨i, blkAt u ty start i, blkEls s u ty start i, blkScs s u ty start i⟩

/-- An element of a block already met is gathered from it. -/
theorem felAt_congr (hb : BlocksOk s start u ty lit) {i j : Nat} (h : i / 32 = j / 32) : (⟨j, (felAt s u ty start i).blk, (felAt s u ty start i).els, (felAt s u ty start i).scs⟩ : FEl) = felAt s u ty start j := by
  unfold felAt blkEls blkScs
  rw [blkAt_congr hb h, blockOf_congr hb h]

/-- A formatted load of elements whose blocks may be accessed gathers each of them, and adds to nothing but what the strand has seen (R158, R159). -/
theorem fmtLoad_known (hp : BlockPage s start false u ty) (hb : BlocksOk s start u ty lit) (hk : BlocksKnown s start u ty lit) (hm : NoMarks s) {want : Option ElTy} (hwant : want.isSome → want = some ty)
    (is seen : List Nat) (his : ∀ i ∈ is, i ∈ lit) (o : List Nat) :
    ∃ o', (s.knowing s.cur.hb s.cur.soon o).fmtLoad start want (perByte ty) (seen.map (felAt s u ty start)) is =
      (s.knowing s.cur.hb s.cur.soon o', (seen ++ is).map (felAt s u ty start), .done) := by
  induction is generalizing seen o with
  | nil => exact ⟨o, by rw [List.append_nil]; rfl⟩
  | cons i is ih =>
    have hi := his i List.mem_cons_self
    have hp' := blockPage_knowing hp s.cur.hb s.cur.soon o
    have hb' := blocksOk_knowing hb s.cur.hb s.cur.soon o
    have ih' (o' : List Nat) := ih (seen ++ [i]) (fun j hj => his j (List.mem_cons_of_mem i hj)) o'
    simp only [List.map_append, List.append_assoc, List.map_cons, List.map_nil, List.singleton_append] at ih'
    have hm' : NoMarks (s.knowing s.cur.hb s.cur.soon o) := hm
    have hneed : (s.knowing s.cur.hb s.cur.soon o).blkMarkNeeded (blkAt u ty start i) = none := by
      unfold State.blkMarkNeeded
      rw [markNeeded_none hm', markNeeded_none hm']
      rfl
    unfold State.fmtLoad
    rw [fmtCheck_ok hp' hb' hi hwant]
    dsimp only
    rw [hneed, passes_noMarks hm', passes_noMarks hm']
    simp only [Bool.and_self, Bool.not_true, Bool.false_eq_true, if_false]
    split
    · next x hx =>
      obtain ⟨j, -, rfl⟩ := List.mem_map.mp (List.mem_of_find?_eq_some hx)
      have hfound := List.find?_some hx
      have hblock : j / 32 = i / 32 := of_decide_eq_true hfound
      rw [felAt_congr hb hblock, List.map_append]
      exact ih' o
    · obtain ⟨o', ho'⟩ := readBlk_known hp' hb' (s := s.knowing s.cur.hb s.cur.soon o) hk hi
      rw [markedLoad_noMarks hm' _ _ (markedLoad_noMarks hm' _ _ ho'), blkEls_knowing, blkScs_knowing, List.map_append]
      exact ih' o'

end

end Sys2Proof.Machine
end

section
/-! Formatted loads (R158, R159, R161). -/

namespace Sys2Proof.Machine
open Sys2Proof.Claims

theorem off5_eq (o : BitVec 5) : off5 o = BitVec.ofInt 64 (o.toInt * 64) := signExtend_shift 5 6 o

theorem on_lt {t : Strand} {k : BitVec 5} {i : Nat} (h : on t k i = true) : i < t.n := by
  rw [on, Bool.and_eq_true] at h
  exact of_decide_eq_true h.1

theorem activeList_on (t : Strand) (k : BitVec 5) : activeList (t.mask k) t.n = (List.range t.n).filter (on t k) :=
  List.filter_congr fun i _ => active_mask t k i

theorem readAll_eq_knowing (s : State) (srcs : List (BitVec 5)) : ∃ h q o, readAll s srcs = s.knowing h q o := readAll_eq s srcs

theorem blockPage_readAll {s : State} {start : Word} {w : Bool} {u : TlbEntry} {ty : ElTy} (srcs : List (BitVec 5)) (hp : BlockPage s start w u ty) : BlockPage (readAll s srcs) start w u ty := by
  obtain ⟨h, q, o, e⟩ := readAll_eq_knowing s srcs
  rw [e]
  exact blockPage_knowing hp h q o

theorem blocksOk_readAll {s : State} {start : Word} {u : TlbEntry} {ty : ElTy} {lit : List Nat} (srcs : List (BitVec 5)) (hb : BlocksOk s start u ty lit) : BlocksOk (readAll s srcs) start u ty lit := by
  obtain ⟨h, q, o, e⟩ := readAll_eq_knowing s srcs
  rw [e]
  exact blocksOk_knowing hb h q o

theorem blocksKnown_readAll {s : State} {start : Word} {u : TlbEntry} {ty : ElTy} {lit : List Nat} (srcs : List (BitVec 5)) (hk : BlocksKnown s start u ty lit) : BlocksKnown (readAll s srcs) start u ty lit :=
  fun i hi => ⟨allKnown_readAll srcs (hk i hi).1, allKnown_readAll srcs (hk i hi).2⟩

/-- Writing the active positions by two functions that agree there is the same. -/
theorem Strand.putActive_congr (t : Strand) (d k : BitVec 5) {f g : VReg → Nat → Nat × Flags} (h : ∀ i, on t k i = true → f (t.getV d) i = g (t.getV d) i) :
    t.putActive d k f = t.putActive d k g := by
  have hlist : ((List.range t.n).map fun i => if active (t.mask k) t.n i then f (t.getV d) i else (elemAt (widthOf t.vty) (t.getV d) i, (0 : Flags))) =
      (List.range t.n).map fun i => if active (t.mask k) t.n i then g (t.getV d) i else (elemAt (widthOf t.vty) (t.getV d) i, (0 : Flags)) := by
    refine List.map_congr_left fun i _ => ?_
    rw [active_mask]
    split
    · next hon => exact h i hon
    · rfl
  unfold Strand.putActive writeActive
  dsimp only
  rw [hlist]

/-- A vector instruction has left the strand y, changed in vector registers, sticky flags and what the strand knows, and completed. -/
theorem onlyVectors_knowing {s : State} {y : Strand} (vs : List (BitVec 5)) (hp : s.cur.pre = none)
    (hy : y = { s.cur with hb := y.hb, soon := y.soon, obs := y.obs, vregs := y.vregs, fflags := y.fflags }) (hv : ∀ v, v ∉ vs → y.getV v = s.cur.getV v) :
    let t := ({ s with cur := y } : State).retire
    (∀ v, t.cur.getV v = y.getV v) ∧ t.cur.fflags = y.fflags ∧ OnlyVectors s t vs ∧ Stepped s t := by
  intro t
  have ht : t = _ := State.retire_goOn (by rw [hy]; exact hp)
  rw [ht, hy]
  exact ⟨fun _ => rfl, rfl, ⟨fun _ _ => ⟨rfl, rfl⟩, fun v hm => hy ▸ hv v hm, rfl⟩, ⟨rfl, rfl⟩⟩

section
variable {s : State} {start : Word} {w : Bool} {u : TlbEntry} {ty : ElTy} {lit : List Nat}

/-- The elements for each byte of the page are those of its type (R158). -/
theorem fmtPer_page (hp : BlockPage s start w u ty) (hb : BlocksOk s start u ty lit) : s.fmtPer start w = perByte ty := by
  unfold State.fmtPer
  rw [place_page hp hb rfl 1]
  dsimp only [Option.getD_some]
  rw [(blockPage_fields hp).2.2.1]
  rfl

/-- A start address on the page, at a multiple of 32 elements, is good (R158). -/
theorem fmtStart_page (hp : BlockPage s start w u ty) (hb : BlocksOk s start u ty lit) : fmtStart start (perByte ty) = none := by
  have hglobal := hp.global
  have heven : start.toNat % 2 ^ 18 * perByte ty % 32 = 0 := hb.even
  unfold fmtStart
  rw [isNear, decide_eq_false (by omega), if_neg Bool.false_ne_true, if_neg (by omega)]

theorem peekKey_lt (s : State) (key loc n : Nat) : s.peekKey key loc n < 256 ^ n := by
  have hlen (loc : Nat) (bs : List Byte) : (s.decrypt key loc bs).length = bs.length := by
    induction bs generalizing loc with
    | nil => rfl
    | cons b bs ih => exact congrArg Nat.succ (ih (loc + 1))
  have h := natOfBytes_lt (s.decrypt key loc (s.bytesAt loc n))
  rwa [hlen, State.bytesAt, SMap.getList_eq_map, List.length_map, List.length_range, ← SMap.getList_eq_map] at h

/-- What a formatted load gathers of an element is the element as its block stands in memory (R111, R112). -/
theorem felAt_blockElem (s : State) (u : TlbEntry) (ty : ElTy) (start : Word) (i : Nat) :
    let x := felAt s u ty start i
    blockElem s start u ty i = (x.els / 2 ^ (i % 32 * widthOf ty) % 2 ^ widthOf ty, scalePair ty x.scs) := by
  have hlt := peekKey_lt s (s.jobRoot s.cur.job).2 (blockOf u ty start i).sl (scaleBytes ty)
  unfold blockElem felAt scalePair blkEls blkScs
  refine Prod.ext rfl ?_
  unfold scaleBytes at hlt ⊢
  cases ht : isTwin ty
  · rfl
  · rw [ht] at hlt
    simp only [if_true] at hlt ⊢
    rw [Nat.mod_eq_of_lt (a := _ / 256) (by omega)]

/-- The elements gathered, looked up by their number. -/
theorem find_felAt (is : List Nat) {i : Nat} (hi : i ∈ is) : (is.map (felAt s u ty start)).find? (fun x => decide (x.i = i)) = some (felAt s u ty start i) := by
  induction is with
  | nil => cases hi
  | cons j is ih =>
    by_cases hj : j = i
    · subst hj
      exact List.find?_cons_of_pos (by simp [felAt])
    · rw [List.map_cons, List.find?_cons_of_neg (by simp [felAt, hj])]
      exact ih ((List.mem_cons.mp hi).resolve_left (Ne.symm hj))

end

theorem felAt_readAll (s : State) (srcs : List (BitVec 5)) (u : TlbEntry) (ty : ElTy) (start : Word) : felAt (readAll s srcs) u ty start = felAt s u ty start := by
  obtain ⟨h, q, o, e⟩ := readAll_eq_knowing s srcs
  funext i
  rw [e]
  unfold felAt
  rw [blkEls_knowing, blkScs_knowing]

theorem readAll_activeList (s : State) (srcs : List (BitVec 5)) (k : BitVec 5) :
    activeList ((readAll s srcs).cur.mask k) (readAll s srcs).cur.n = (List.range s.cur.n).filter (on s.cur k) := by
  obtain ⟨h, q, o, e⟩ := readAll_eq_knowing s srcs
  rw [e]
  exact activeList_on s.cur k

theorem afterMst_readAll {s : State} (srcs : List (BitVec 5)) (h : s.mstQueued = false) (k : State → State) : (readAll s srcs).afterMst k = k (readAll s srcs) :=
  if_neg (by rw [readAll_mstQueued, h]; decide)

section
variable {s : State} {d a k o : BitVec 5} {start : Word} {u : TlbEntry} {ty : ElTy}

/-- What a formatted load gathers once the strand's tokens are read (R158). -/
theorem fmtLoad_readAll (a k : BitVec 5) (hm : NoMarks s) (hp : BlockPage s start false u ty) (hb : BlocksOk s start u ty ((List.range s.cur.n).filter (on s.cur k)))
    (hk : BlocksKnown s start u ty ((List.range s.cur.n).filter (on s.cur k))) {want : Option ElTy} (hwant : want.isSome → want = some ty) :
    ∃ b q l, (readAll s [a]).fmtLoad start want (perByte ty) [] ((List.range s.cur.n).filter (on s.cur k)) =
      (s.knowing b q l, ((List.range s.cur.n).filter (on s.cur k)).map (felAt s u ty start), .done) := by
  have hm' : NoMarks (readAll s [a]) := (readAll_wregs s [a]).trans hm
  obtain ⟨l, hl⟩ := fmtLoad_known (blockPage_readAll [a] hp) (blocksOk_readAll [a] hb) (blocksKnown_readAll [a] hk) hm' hwant _ [] (fun _ hi => hi) (readAll s [a]).cur.obs
  refine ⟨(readAll s [a]).cur.hb, (readAll s [a]).cur.soon, l, ?_⟩
  rw [← readAll_knowing s [a], ← felAt_readAll s [a]]
  exact hl

/-- `vldf` of elements whose blocks may be accessed writes each active position, rounded (R159). -/
theorem exec_vldf (h : VReady s [a] [d]) (hmst : s.mstQueued = false) (hm : NoMarks s) (hf : isF s.cur.vty = true) (hstart : s.cur.getS a + off5 o = start) (hp : BlockPage s start false u ty)
    (hb : BlocksOk s start u ty ((List.range s.cur.n).filter (on s.cur k))) (hk : BlocksKnown s start u ty ((List.range s.cur.n).filter (on s.cur k))) :
    ∃ b q l, exec (.vldf d a k o) s = .next ((s.knowing b q l).onCur fun t => t.putActive d k fun _ i =>
      let x := blockElem s start u ty i
      roundTo s.cur.vty .rne (blockVal ty x.2.1 x.2.2 x.1)).retire := by
  obtain ⟨b, q, l, hl⟩ := fmtLoad_readAll a k hm hp hb hk (want := none) (by simp)
  refine ⟨b, q, l, ?_⟩
  show execVldf d a k o s = _
  unfold execVldf
  rw [vissue_check _ h (by simp), takes_false, readAll_vty, if_pos hf, afterMst_readAll [a] hmst]
  dsimp only
  rw [readAll_getS, hstart, fmtPer_page (blockPage_readAll [a] hp) (blocksOk_readAll [a] hb), fmtStart_page hp hb]
  dsimp only
  rw [readAll_activeList, hl]
  dsimp only [State.vecStop]
  refine congrArg (fun y => Host.Outcome.next (State.retire { s.knowing b q l with cur := y })) (Strand.putActive_congr _ d k fun i hon => ?_)
  have hi : i ∈ (List.range s.cur.n).filter (on s.cur k) := List.mem_filter.mpr ⟨List.mem_range.mpr (on_lt hon), hon⟩
  rw [find_felAt _ hi]
  dsimp only
  rw [felAt_blockElem]
  rfl

/-- A register written position by position, with whatever the strand has come to know (R122, R129, R130). -/
theorem putActive_knowing_retire {s : State} (b q : Nat) (l : List Nat) (d k : BitVec 5) (f : Nat → Nat × Flags) (hp : s.cur.pre = none) :
    let t := ((s.knowing b q l).onCur fun t => t.putActive d k fun _ => f).retire
    Elementwise (widthOf s.cur.vty) s.cur.n (on s.cur k) (s.cur.getV d) (t.cur.getV d) (fun i => (f i).1) ∧
      t.cur.fflags = s.cur.fflags ||| flagsOver s.cur.n (on s.cur k) (fun i => (f i).2) ∧ OnlyVectors s t [d] ∧ Stepped s t := by
  intro t
  obtain ⟨hels, hfl⟩ := (s.knowing b q l).cur.putActive_spec d k fun _ => f
  obtain ⟨hvec, hflags, honly, hstep⟩ := onlyVectors_knowing (s := s) (y := (s.knowing b q l).cur.putActive d k fun _ => f) [d] hp rfl
    fun v hv => Strand.getV_setV_ne _ _ (List.ne_of_not_mem_cons hv)
  exact ⟨(hvec d).symm ▸ hels, hflags.trans hfl, honly, hstep⟩

/-! `vldb` (R161). -/

/-- Whether a block has an active element, by the list of them. -/
theorem blockLit_iff (t : Strand) (k : BitVec 5) (j : Nat) : blockLit (on t k) j = true ↔ ∃ i ∈ (List.range t.n).filter (on t k), i / 32 = j := by
  constructor
  · intro h
    obtain ⟨i, hi, hon⟩ := List.any_eq_true.mp h
    exact ⟨32 * j + i, List.mem_filter.mpr ⟨List.mem_range.mpr (on_lt hon), hon⟩, by have := List.mem_range.mp hi; omega⟩
  · rintro ⟨i, hi, rfl⟩
    refine List.any_eq_true.mpr ⟨i % 32, List.mem_range.mpr (Nat.mod_lt _ (by decide)), ?_⟩
    rw [Nat.div_add_mod]
    exact (List.mem_filter.mp hi).2

/-- The scales gathered of a block: those of the block in memory, where it has an active element (R161). -/
theorem find_felAt_block (hb : BlocksOk s start u ty ((List.range s.cur.n).filter (on s.cur k))) (j : Nat) :
    ((((List.range s.cur.n).filter (on s.cur k)).map (felAt s u ty start)).find? fun x => decide (x.i / 32 = j)).map (fun x => scalePair ty x.scs) =
      if blockLit (on s.cur k) j then some (blockElem s start u ty (32 * j)).2 else none := by
  cases hfind : ((((List.range s.cur.n).filter (on s.cur k)).map (felAt s u ty start)).find? fun x => decide (x.i / 32 = j)) with
  | none =>
    rw [if_neg]
    · rfl
    · intro hlit
      obtain ⟨i, hi, hij⟩ := (blockLit_iff s.cur k j).mp hlit
      exact List.find?_eq_none.mp hfind _ (List.mem_map_of_mem hi) (decide_eq_true hij)
  | some x =>
    obtain ⟨i, hi, rfl⟩ := List.mem_map.mp (List.mem_of_find?_eq_some hfind)
    have hfound := List.find?_some hfind
    have hij : i / 32 = j := of_decide_eq_true hfound
    rw [if_pos ((blockLit_iff s.cur k j).mpr ⟨i, hi, hij⟩), felAt_blockElem]
    have hscs : blkScs s u ty start i = blkScs s u ty start (32 * j) := by
      unfold blkScs
      rw [blockOf_congr hb (i := i) (j := 32 * j) (by omega)]
    exact congrArg (fun x => some (scalePair ty x)) hscs

/-- The strand with the elements and the scales of blocks copied raw (R161). -/
def Strand.putRaw (t : Strand) (d k : BitVec 5) (code : Nat → Nat) (scales : Nat → Nat × Nat) : Strand :=
  let t1 := t.putActive d k fun _ i => (code i, 0)
  t1.setV (d + 1) (putScales t.vty (t1.getV (d + 1)) ((List.range (t.n / 32)).map fun j => if blockLit (on t k) j then some (scales j) else none))

/-- What a raw copy of blocks leaves in vd, in vd + 1 and in the sticky flags. -/
theorem Strand.putRaw_spec (t : Strand) (d k : BitVec 5) (code : Nat → Nat) (scales : Nat → Nat × Nat) :
    let per := if isTwin t.vty then 2 else 1
    let y := t.putRaw d k code scales
    Elementwise (widthOf t.vty) t.n (on t k) (t.getV d) (y.getV d) code ∧
      Elementwise 8 (per * (t.n / 32)) (fun x => blockLit (on t k) (x / per)) (t.getV (d + 1)) (y.getV (d + 1)) (fun x => if x % per = 0 then (scales (x / per)).1 else (scales (x / per)).2) ∧
      y.fflags = t.fflags ∧ ∀ v, v ∉ [d, d + 1] → y.getV v = t.getV v := by
  intro per y
  obtain ⟨hels, hflags⟩ := t.putActive_spec d k fun _ i => (code i, 0)
  have hscale : (t.putActive d k fun _ i => (code i, 0)).getV (d + 1) = t.getV (d + 1) := Strand.getV_setV_ne t _ (succ_ne_self d)
  have hfits : per * (t.n / 32) * 8 ≤ 8192 := by
    have hn := t.n_le
    have hper : per ≤ 2 := by simp only [per]; split <;> omega
    have : per * (t.n / 32) ≤ 2 * 64 := Nat.mul_le_mul hper (by rw [treeLevels] at hn; omega)
    omega
  refine ⟨?_, ?_, ?_, fun v hv => ?_⟩
  · rw [show y.getV d = (t.putActive d k fun _ i => (code i, 0)).getV d from Strand.getV_setV_ne _ _ (succ_ne_self d).symm]
    exact hels
  · rw [show y.getV (d + 1) = _ from Strand.getV_setV_self _ (d + 1) _, hscale, putScales_lit]
    exact putEls_elementwise _ (fun x => blockLit (on t k) (x / per)) _ hfits
  · exact hflags.trans (by rw [flagsOver_zero]; exact BitVec.or_zero)
  · exact (Strand.getV_setV_ne _ _ (List.ne_of_not_mem_cons (List.not_mem_of_not_mem_cons hv))).trans (Strand.getV_setV_ne _ _ (List.ne_of_not_mem_cons hv))

theorem blockType_n {t : Strand} (h : isBlock t.vty = true) : (t.n + 31) / 32 = t.n / 32 := by
  have hdvd : t.n % 32 = 0 := by
    have hw : widthOf t.vty = 4 ∨ widthOf t.vty = 8 := by revert h; cases t.vty <;> decide
    unfold Strand.n countAt
    rcases hw with hw | hw <;> rw [hw] <;> omega
  omega

/-- `vldb` of elements whose blocks may be accessed copies their codes and their blocks' scales raw (R161). -/
theorem exec_vldb (h : VReady s [a] [d, d + 1]) (hmst : s.mstQueued = false) (hm : NoMarks s) (hblock : isBlock s.cur.vty = true) (hstart : s.cur.getS a + off5 o = start)
    (hp : BlockPage s start false u s.cur.vty)
    (hb : BlocksOk s start u s.cur.vty ((List.range s.cur.n).filter (on s.cur k))) (hk : BlocksKnown s start u s.cur.vty ((List.range s.cur.n).filter (on s.cur k))) :
    ∃ b q l, exec (.vldb d a k o) s = .next ((s.knowing b q l).onCur fun t =>
      t.putRaw d k (fun i => (blockElem s start u s.cur.vty i).1) fun j => (blockElem s start u s.cur.vty (32 * j)).2).retire := by
  obtain ⟨b, q, l, hl⟩ := fmtLoad_readAll a k hm hp hb hk (want := some s.cur.vty) fun _ => rfl
  refine ⟨b, q, l, ?_⟩
  show execVldb d a k o s = _
  unfold execVldb
  rw [vissue_check _ h (by simp), takes_false, readAll_vty, if_pos hblock, afterMst_readAll [a] hmst]
  dsimp only
  rw [readAll_getS, hstart, readAll_vty, fmtStart_page hp hb]
  dsimp only
  rw [readAll_activeList, hl]
  dsimp only [State.vecStop]
  have hcodes : ((s.knowing b q l).cur.putActive d k fun old i =>
      match (((List.range s.cur.n).filter (on s.cur k)).map (felAt s u s.cur.vty start)).find? (fun x => decide (x.i = i)) with
      | some x => (x.els / 2 ^ (i % 32 * widthOf s.cur.vty) % 2 ^ widthOf s.cur.vty, 0)
      | none => (elemAt (widthOf s.cur.vty) old i, 0)) = (s.knowing b q l).cur.putActive d k fun _ i => ((blockElem s start u s.cur.vty i).1, 0) :=
    Strand.putActive_congr _ d k fun i hon => by
      have hi : i ∈ (List.range s.cur.n).filter (on s.cur k) := List.mem_filter.mpr ⟨List.mem_range.mpr (on_lt hon), hon⟩
      rw [find_felAt _ hi, felAt_blockElem]
  have hscales : ((List.range (((s.knowing b q l).cur.n + 31) / 32)).map fun j =>
      ((((List.range s.cur.n).filter (on s.cur k)).map (felAt s u s.cur.vty start)).find? fun x => decide (x.i / 32 = j)).map fun x => scalePair s.cur.vty x.scs) =
      (List.range ((s.knowing b q l).cur.n / 32)).map fun j => if blockLit (on s.cur k) j then some (blockElem s start u s.cur.vty (32 * j)).2 else none := by
    rw [blockType_n (show isBlock (s.knowing b q l).cur.vty = true from hblock)]
    exact List.map_congr_left fun j _ => find_felAt_block hb j
  refine congrArg (fun y => Host.Outcome.next (State.retire { s.knowing b q l with cur := y })) ?_
  dsimp only
  rw [hscales]
  exact congrArg (fun y : Strand => y.setV (d + 1) (putScales s.cur.vty (y.getV (d + 1)) _)) hcodes

end

end Sys2Proof.Machine
end

section
/-! Formatted stores (R113, R158, R160, R162, R274). -/

namespace Sys2Proof.Machine
open Sys2Proof.Claims

/-! Scales of packed values are bytes (R113). -/

/-- A value that a floating register can hold: its magnitude is below 2^128. -/
def belowTop (v : FVal) : Prop := ∀ neg m e, v = .fin neg m e → flog2 m e ≤ 127

theorem flog2_decodeMag (f : FFmt) (code : Nat) : flog2 (decodeMag f code).1 (decodeMag f code).2 ≤ max 1 (code / 2 ^ f.F : Nat) - (f.bias : Int) := by
  have hfrac : code % 2 ^ f.F < 2 ^ f.F := Nat.mod_lt _ (Nat.two_pow_pos _)
  have hlog {m : Nat} (h : m < 2 ^ (f.F + 1)) : ilog2 m ≤ f.F := by
    unfold ilog2
    by_cases hm : m = 0
    · subst hm; simp
    · exact Nat.lt_succ_iff.mp ((Nat.log2_lt hm).mpr h)
  unfold flog2 decodeMag
  rw [Nat.pow_succ] at hlog
  dsimp only
  by_cases he : code / 2 ^ f.F = 0
  · rw [if_pos he, he]
    have := hlog (m := code % 2 ^ f.F) (by omega)
    dsimp only
    omega
  · rw [if_neg he]
    have := hlog (m := 2 ^ f.F + code % 2 ^ f.F) (by omega)
    dsimp only
    omega

/-- A code of a floating format whose largest exponent is 127 or less. -/
theorem belowTop_decodeF {f : FFmt} (h : max 1 (f.maxCode / 2 ^ f.F : Nat) - (f.bias : Int) ≤ 127) (c : Nat) : belowTop (decodeF f c) := by
  intro neg m e hfin
  unfold decodeF at hfin
  dsimp only at hfin
  split at hfin
  · next hmag =>
    have hlog := flog2_decodeMag f (c % 2 ^ f.signBit)
    have hdiv : c % 2 ^ f.signBit / 2 ^ f.F ≤ f.maxCode / 2 ^ f.F := Nat.div_le_div_right hmag
    cases hfin
    omega
  · split at hfin <;> cases hfin

theorem belowTop_elemVal {ty : ElTy} (h : isF ty = true) (c : Nat) : belowTop (elemVal ty c) := by
  cases ty
  case f32 => exact belowTop_decodeF (by decide) c
  case bf16 => exact belowTop_decodeF (by decide) c
  case f16 => exact belowTop_decodeF (by decide) c
  all_goals exact absurd h (by decide)

/-- The largest of some magnitudes is below 2^128 where each is. -/
theorem amax_le {l : List FVal} (h : ∀ v ∈ l, belowTop v) : flog2 (amax l).1 (amax l).2 ≤ 127 := by
  unfold amax
  refine List.foldlRecOn (motive := fun a : Nat × Int => flog2 a.1 a.2 ≤ 127) _ _ (by decide) fun a ha v hv => ?_
  cases v with
  | fin neg m e =>
    dsimp only
    split
    · exact h _ hv neg m e rfl
    · exact ha
  | inf neg => exact ha
  | nan => exact ha

theorem scaleOf_lt (ty : ElTy) {m : Nat} {e : Int} (h : flog2 m e ≤ 127) : scaleOf ty m e < 256 := by
  have hel : 0 ≤ blockEel ty := by cases ty <;> decide
  unfold scaleOf
  split
  · decide
  · omega

theorem ite_lt {p : Prop} [Decidable p] {a b n : Nat} (ha : a < n) (hb : b < n) : (if p then a else b) < n := by
  split
  · exact ha
  · exact hb

/-- The scales of a packed block are bytes (R111, R113). -/
theorem packBlock_scales_lt (ty : ElTy) (m : Rnd) {els : List (Option FVal)} (h : ∀ v, some v ∈ els → belowTop v) : (packBlock ty m els).x0 < 256 ∧ (packBlock ty m els).x1 < 256 := by
  have hact : ∀ v ∈ els.filterMap id, belowTop v := fun v hv => by
    obtain ⟨o, ho, rfl⟩ := List.mem_filterMap.mp hv
    exact h v ho
  have hx1 := scaleOf_lt ty (amax_le hact)
  unfold packBlock
  dsimp only
  split
  · exact ⟨show 0xFF < 256 by decide, show 0xFF < 256 by decide⟩
  · split
    · exact ⟨ite_lt hx1 (scaleOf_lt ty (amax_le fun v hv => hact v (List.mem_of_mem_filter hv))), hx1⟩
    · exact ⟨hx1, hx1⟩

/-! The blocks a formatted store meets, in order (R158, R160). -/

/-- The blocks met up to an element: each once, where its first element is met. -/
def meetBlock (seen : List Nat) (i : Nat) : List Nat := if i / 32 ∈ seen then seen else seen ++ [i / 32]

/-- Elements in ascending order meet their blocks in ascending order. -/
theorem meetBlock_foldl (is : List Nat) : ∀ seen : List Nat, is.Pairwise (· < ·) → seen.Pairwise (· < ·) → (∀ x ∈ seen, ∀ i ∈ is, x ≤ i / 32) →
    (is.foldl meetBlock seen).Pairwise (· < ·) ∧ ∀ j, j ∈ is.foldl meetBlock seen ↔ j ∈ seen ∨ ∃ i ∈ is, i / 32 = j := by
  induction is with
  | nil => exact fun seen _ hs _ => ⟨hs, fun j => by simp⟩
  | cons i is ih =>
    intro seen his hs hle
    obtain ⟨hi, his⟩ := List.pairwise_cons.mp his
    have hmono : ∀ k ∈ is, i / 32 ≤ k / 32 := fun k hk => Nat.div_le_div_right (hi k hk).le
    have hmem : ∀ j, j ∈ meetBlock seen i ↔ j ∈ seen ∨ i / 32 = j := fun j => by
      unfold meetBlock
      split
      · next h => exact ⟨Or.inl, fun hj => hj.elim id fun e => e ▸ h⟩
      · rw [List.mem_append, List.mem_singleton, eq_comm (a := j)]
    have hsorted : (meetBlock seen i).Pairwise (· < ·) := by
      unfold meetBlock
      split
      · exact hs
      · next h =>
        refine List.pairwise_append.mpr ⟨hs, List.pairwise_singleton .., fun x hx y hy => ?_⟩
        obtain rfl := List.mem_singleton.mp hy
        exact lt_of_le_of_ne (hle x hx i List.mem_cons_self) fun e => h (e ▸ hx)
    have hbelow : ∀ x ∈ meetBlock seen i, ∀ k ∈ is, x ≤ k / 32 := fun x hx k hk =>
      ((hmem x).mp hx).elim (fun h => hle x h k (List.mem_cons_of_mem i hk)) fun e => e ▸ hmono k hk
    obtain ⟨hres, hall⟩ := ih (meetBlock seen i) his hsorted hbelow
    refine ⟨hres, fun j => (hall j).trans ?_⟩
    rw [hmem, or_assoc, List.exists_mem_cons_iff]

/-- The blocks that the active positions meet are those with an active element, in order. -/
theorem meetBlock_active (t : Strand) (k : BitVec 5) :
    ((List.range t.n).filter (on t k)).foldl meetBlock [] = (List.range ((t.n + 31) / 32)).filter (blockLit (on t k)) := by
  have hrange (n : Nat) (p : Nat → Bool) : ((List.range n).filter p).Pairwise (· < ·) := List.Pairwise.filter p List.pairwise_lt_range
  obtain ⟨hsorted, hmem⟩ := meetBlock_foldl ((List.range t.n).filter (on t k)) [] (hrange t.n (on t k)) List.Pairwise.nil (fun x hx => absurd hx List.not_mem_nil)
  refine hsorted.eq_of_mem_iff (hrange _ _) fun j => ?_
  rw [hmem, or_iff_right List.not_mem_nil, ← blockLit_iff, List.mem_filter, List.mem_range, iff_and_self]
  intro hlit
  obtain ⟨i, hi, rfl⟩ := (blockLit_iff t k j).mp hlit
  have := on_lt (List.mem_filter.mp hi).2
  omega

section
variable {s : State} {start : Word} {u : TlbEntry} {ty : ElTy} {lit : List Nat}

/-- A block with its number, as a formatted store keeps it. -/
def metAt (u : TlbEntry) (ty : ElTy) (start : Word) (j : Nat) : Nat × Blk := (j, blkAt u ty start (32 * j))

/-- The checks of a formatted store whose elements may be accessed find the blocks they meet, and change nothing (R158). -/
theorem fmtStoreCheck_ok (hp : BlockPage s start true u ty) (hb : BlocksOk s start u ty lit) (is : List Nat) : ∀ seen : List Nat, (∀ i ∈ is, i ∈ lit) →
    s.fmtStoreCheck start (perByte ty) (seen.map (metAt u ty start)) is = (s, (is.foldl meetBlock seen).map (metAt u ty start), none) := by
  induction is with
  | nil => exact fun _ _ => rfl
  | cons i is ih =>
    intro seen his
    have hany : (seen.map (metAt u ty start)).any (fun x => decide (x.1 = i / 32)) = decide (i / 32 ∈ seen) := by
      rw [List.any_map, Bool.eq_iff_iff, List.any_eq_true, decide_eq_true_eq]
      exact ⟨fun ⟨j, hj, e⟩ => of_decide_eq_true e ▸ hj, fun h => ⟨_, h, decide_eq_true rfl⟩⟩
    have hseen : (if (seen.map (metAt u ty start)).any (fun x => decide (x.1 = i / 32)) then seen.map (metAt u ty start) else seen.map (metAt u ty start) ++ [(i / 32, blkAt u ty start i)]) =
        (meetBlock seen i).map (metAt u ty start) := by
      rw [hany, meetBlock, blkAt_congr hb (i := i) (j := 32 * (i / 32)) (by omega)]
      by_cases h : i / 32 ∈ seen
      · rw [if_pos h, if_pos (decide_eq_true h)]
      · rw [if_neg h, if_neg (by simpa using h), List.map_append]
        rfl
    unfold State.fmtStoreCheck
    rw [fmtCheck_ok hp hb (his i List.mem_cons_self) (want := none) (by simp)]
    dsimp only
    rw [hseen]
    exact ih (meetBlock seen i) fun k hk => his k (List.mem_cons_of_mem i hk)

end

/-! A packed block becomes pending stores (R160, R162, R274). -/

theorem State.keepStore_plain (s : State) (new : List Pend) (va : Word) {h : Hit} (hs : h.sable = false) (n v : Nat) :
    (s.pended new).keepStore va h n v = s.pended (new ++ [⟨va, h.loc, n, v % 256 ^ n, s.tagFor va h.loc, none⟩]) :=
  (if_neg (by rw [hs]; decide)).trans (s.pended_pended new _)

/-- The stores of n bytes one by one (R274). -/
def byteStores (s : State) (va : Word) (loc n v : Nat) : List Pend := (List.range n).map fun i =>
  ⟨va + BitVec.ofNat 64 i, loc + i, 1, v / 256 ^ i % 256, s.tagFor (va + BitVec.ofNat 64 i) (loc + i), none⟩

theorem byteStores_succ (s : State) (va : Word) (loc n v : Nat) :
    byteStores s va loc (n + 1) v = ⟨va, loc, 1, v % 256, s.tagFor va loc, none⟩ :: byteStores s (va + 1) (loc + 1) n (v / 256) := by
  have hva (i : Nat) : va + BitVec.ofNat 64 (i + 1) = va + 1 + BitVec.ofNat 64 i := by rw [BitVec.ofNat_add, BitVec.add_comm (BitVec.ofNat 64 i), BitVec.add_assoc]; rfl
  unfold byteStores
  rw [List.range_succ_eq_map, List.map_cons, List.map_map]
  refine congrArg₂ List.cons (by simp) (List.map_congr_left fun i _ => ?_)
  rw [Function.comp, Nat.succ_eq_add_one, hva, Nat.pow_succ', ← Nat.div_div_eq_div_mul, Nat.add_assoc loc, Nat.add_comm 1]

theorem State.keepBytes_plain (s : State) (n : Nat) (new : List Pend) (va : Word) {h : Hit} (hs : h.sable = false) (v : Nat) :
    (s.pended new).keepBytes va h n v = s.pended (new ++ byteStores s va h.loc n v) := by
  induction n generalizing new va h v with
  | zero => exact congrArg s.pended (List.append_nil new).symm
  | succ n ih =>
    unfold State.keepBytes
    rw [State.keepStore_plain s new va hs]
    refine (ih _ (va + 1) (h := { h with loc := h.loc + 1 }) hs (v / 256)).trans (congrArg s.pended ?_)
    rw [byteStores_succ, List.append_assoc, Nat.pow_one, Nat.mod_mod]
    rfl

/-- A state with more pending stores and as many more store numbers given out. -/
def State.pendedSegs (s : State) (new : List Pend) (n : Nat) : State := { s.pended new with ticket := s.ticket + n }

theorem State.keepSeg_plain (s : State) (new : List Pend) (c : Nat) (va va2 : Word) {h h2 : Hit} (hs : h.sable = false) (hs2 : h2.sable = false) (n v n2 v2 : Nat) :
    (s.pendedSegs new c).keepSeg va h n v va2 h2 n2 v2 =
      s.pendedSegs (new ++ [⟨va, h.loc, n, v % 256 ^ n, s.tagFor va h.loc, some (s.ticket + c)⟩, ⟨va2, h2.loc, n2, v2 % 256 ^ n2, s.tagFor va2 h2.loc, some (s.ticket + c)⟩]) (c + 1) := by
  unfold State.keepSeg
  rw [hs, hs2]
  simp only [Bool.and_self, Bool.or_self, Bool.false_eq_true, if_false, State.pendedSegs, State.pended, Strand.pended, List.append_assoc]
  rfl

theorem blockPage_isBlock {s : State} {start : Word} {w : Bool} {u : TlbEntry} {ty : ElTy} (hp : BlockPage s start w u ty) : isBlock ty = true := by
  obtain ⟨hpos, hle, hty⟩ := hp.tag
  generalize (u.leaf.extractLsb' 10 4).toNat = n at hpos hle hty
  have hcode (n : Nat) (hn : n < 6) : 0 < n → ((ElTy.ofCode (13 + n)).all isBlock) = true := by
    revert n
    decide
  simpa [hty] using hcode n (by omega) hpos

section
variable (s : State) (d k : BitVec 5) (u : TlbEntry) (ty : ElTy) (start : Word)

/-- Block j of the active elements of vd, packed (R113, R160). -/
def packedBlk (j : Nat) : Packed := packBlock ty s.cur.frm (blockEls s.cur.vty (on s.cur k) (elemAt (widthOf s.cur.vty) (s.cur.getV d)) j)

/-- The element bytes of a packed block, zero codes for its inactive elements (R160). -/
def packedCodes (j : Nat) : Nat := packEls (widthOf ty) ((packedBlk s d k ty j).codes.map fun c => c.getD (zeroCode ty))

/-- The scale bytes of a packed block (R111). -/
def packedScales (j : Nat) : Nat := if isTwin ty then (packedBlk s d k ty j).x0 + (packedBlk s d k ty j).x1 * 256 else (packedBlk s d k ty j).x0

theorem packedCodes_lt (hty : isBlock ty = true) (j : Nat) : packedCodes s d k ty j < 256 ^ blockElemBytes ty := by
  obtain ⟨g, hg⟩ := packBlock_codes ty s.cur.frm (blockEls s.cur.vty (on s.cur k) (elemAt (widthOf s.cur.vty) (s.cur.getV d)) j)
  have hlen : ((packedBlk s d k ty j).codes.map fun c => c.getD (zeroCode ty)).length = 32 := by rw [packedBlk, hg]; simp [blockEls]
  have hlt := packEls_lt (widthOf ty) ((packedBlk s d k ty j).codes.map fun c => c.getD (zeroCode ty))
  have hbytes : 2 ^ (32 * widthOf ty) = 256 ^ blockElemBytes ty := by revert hty; cases ty <;> decide
  rwa [hlen, hbytes] at hlt

theorem packedScales_lt (hf : isF s.cur.vty = true) (j : Nat) : packedScales s d k ty j < 256 ^ scaleBytes ty := by
  obtain ⟨h0, h1⟩ : (packedBlk s d k ty j).x0 < 256 ∧ (packedBlk s d k ty j).x1 < 256 := packBlock_scales_lt ty s.cur.frm fun v hv => by
    obtain ⟨i, -, hi⟩ := List.mem_map.mp hv
    split at hi
    · cases hi
      exact belowTop_elemVal hf _
    · cases hi
  unfold packedScales scaleBytes
  split <;> omega

/-- The stores of a packed block byte by byte (R162, R278). -/
def blockBytes (j : Nat) : List Pend :=
  let b := blockOf u ty start (32 * j)
  byteStores s b.eva b.el (blockElemBytes ty) (packedCodes s d k ty j) ++ byteStores s b.sva b.sl (scaleBytes ty) (packedScales s d k ty j)

/-- The stores of a packed block as one segment, under a store number (R162, R274). -/
def blockSeg (j n : Nat) : List Pend :=
  let b := blockOf u ty start (32 * j)
  [⟨b.eva, b.el, blockElemBytes ty, packedCodes s d k ty j, s.tagFor b.eva b.el, some n⟩, ⟨b.sva, b.sl, scaleBytes ty, packedScales s d k ty j, s.tagFor b.sva b.sl, some n⟩]

theorem blockEls_active (t : Strand) (j : Nat) :
    ((List.range 32).map fun i => if active (t.mask k) t.n (32 * j + i) then some (elemVal t.vty (elemAt (widthOf t.vty) (t.getV d) (32 * j + i))) else none) =
      blockEls t.vty (on t k) (elemAt (widthOf t.vty) (t.getV d)) j :=
  List.map_congr_left fun i _ => by rw [active_mask]

/-- In maintenance mode a packed block joins the pending stores byte by byte (R162, R278). -/
theorem storeBlk_maint (hm : s.cur.maint = true) (new : List Pend) (j : Nat) :
    (s.pended new).storeBlk d k j (blkAt u ty start (32 * j)) = (s.pended (new ++ blockBytes s d k u ty start j), (packedBlk s d k ty j).flags) := by
  have hels := State.keepBytes_plain s (blockElemBytes ty) new (blockOf u ty start (32 * j)).eva (h := (blkAt u ty start (32 * j)).eh) rfl (packedCodes s d k ty j)
  have hscs := State.keepBytes_plain s (scaleBytes ty) (new ++ byteStores s (blockOf u ty start (32 * j)).eva (blockOf u ty start (32 * j)).el (blockElemBytes ty) (packedCodes s d k ty j))
    (blockOf u ty start (32 * j)).sva (h := (blkAt u ty start (32 * j)).sh) rfl (packedScales s d k ty j)
  unfold State.storeBlk
  dsimp only
  rw [blockEls_active, if_pos (show (s.pended new).cur.maint = true from hm)]
  refine Prod.ext ?_ rfl
  refine (congrArg (fun x => x.keepBytes (blockOf u ty start (32 * j)).sva (blkAt u ty start (32 * j)).sh (scaleBytes ty) (packedScales s d k ty j)) hels).trans (hscs.trans ?_)
  rw [List.append_assoc]
  rfl

/-- In service mode a packed block joins the pending stores as one segment (R162, R274). -/
theorem storeBlk_service (hm : s.cur.maint = false) (hf : isF s.cur.vty = true) (hty : isBlock ty = true) (new : List Pend) (c j : Nat) :
    (s.pendedSegs new c).storeBlk d k j (blkAt u ty start (32 * j)) = (s.pendedSegs (new ++ blockSeg s d k u ty start j (s.ticket + c)) (c + 1), (packedBlk s d k ty j).flags) := by
  have hseg := State.keepSeg_plain s new c (blockOf u ty start (32 * j)).eva (blockOf u ty start (32 * j)).sva (h := (blkAt u ty start (32 * j)).eh) (h2 := (blkAt u ty start (32 * j)).sh) rfl rfl
    (blockElemBytes ty) (packedCodes s d k ty j) (scaleBytes ty) (packedScales s d k ty j)
  rw [Nat.mod_eq_of_lt (packedCodes_lt s d k ty hty j), Nat.mod_eq_of_lt (packedScales_lt s d k ty hf j)] at hseg
  unfold State.storeBlk
  dsimp only
  rw [blockEls_active, if_neg (show ¬ (s.pendedSegs new c).cur.maint = true from by rw [show (s.pendedSegs new c).cur.maint = s.cur.maint from rfl, hm]; decide)]
  exact Prod.ext hseg rfl

/-- Blocks stored one after the other in maintenance mode. -/
theorem storeBlks_maint (hm : s.cur.maint = true) (js : List Nat) (new : List Pend) (fl : Flags) :
    (js.map (metAt u ty start)).foldl (fun x b => let r := x.1.storeBlk d k b.1 b.2; (r.1, x.2 ||| r.2)) (s.pended new, fl) =
      (s.pended (new ++ js.flatMap (blockBytes s d k u ty start)), js.foldl (fun a j => a ||| (packedBlk s d k ty j).flags) fl) := by
  induction js generalizing new fl with
  | nil => exact congrArg (fun l => (s.pended l, fl)) (List.append_nil new).symm
  | cons j js ih =>
    rw [List.map_cons, List.foldl_cons, metAt]
    dsimp only
    rw [storeBlk_maint s d k u ty start hm, ih, List.flatMap_cons, List.append_assoc]
    rfl

/-- Blocks stored one after the other in service mode, each under the next store number. -/
theorem storeBlks_service (hm : s.cur.maint = false) (hf : isF s.cur.vty = true) (hty : isBlock ty = true) (js : List Nat) (new : List Pend) (c : Nat) (fl : Flags) :
    (js.map (metAt u ty start)).foldl (fun x b => let r := x.1.storeBlk d k b.1 b.2; (r.1, x.2 ||| r.2)) (s.pendedSegs new c, fl) =
      (s.pendedSegs (new ++ (js.zipIdx c).flatMap fun m => blockSeg s d k u ty start m.1 (s.ticket + m.2)) (c + js.length), js.foldl (fun a j => a ||| (packedBlk s d k ty j).flags) fl) := by
  induction js generalizing new c fl with
  | nil => exact congrArg (fun l => (s.pendedSegs l c, fl)) (List.append_nil new).symm
  | cons j js ih =>
    rw [List.map_cons, List.foldl_cons, metAt]
    dsimp only
    rw [storeBlk_service s d k u ty start hm hf hty, ih, List.zipIdx_cons, List.flatMap_cons, List.append_assoc, List.length_cons, Nat.add_right_comm c, Nat.add_assoc c]
    rfl

end

end Sys2Proof.Machine
end

section
/-! `vstf` as a whole (R160). -/

namespace Sys2Proof.Machine
open Sys2Proof.Claims

theorem State.pended_nil (s : State) : s.pended [] = s := by simp [State.pended, Strand.pended]

theorem State.pendedSegs_nil (s : State) : s.pendedSegs [] 0 = s := by
  unfold State.pendedSegs
  rw [State.pended_nil]
  rfl

/-- A store has left pending stores and flags, and completed. -/
theorem pendedSegs_retire {s : State} (b q : Nat) (l : List Nat) (new : List Pend) (n : Nat) (fl : Flags) (hp : s.cur.pre = none) (hpend : s.cur.pend = []) :
    let t := (((s.knowing b q l).pendedSegs new n).onCur fun t => t.raise fl).retire
    (t.ticket = s.ticket + n ∧ t.cur.pend = new) ∧ t.cur.fflags = s.cur.fflags ||| fl ∧
      OnlyScalars { s with ticket := t.ticket, cur := { s.cur with pend := t.cur.pend, fflags := t.cur.fflags } } t [] ∧ Stepped s t := by
  intro t
  have hx : (((s.knowing b q l).pendedSegs new n).onCur fun t => t.raise fl) =
      { s with ticket := s.ticket + n, cur := { s.cur with hb := b, soon := q, obs := l, pend := s.cur.pend ++ new, fflags := s.cur.fflags ||| fl } } := rfl
  rw [hpend, List.nil_append] at hx
  have ht : t = _ := State.retire_goOn (by rw [hx]; exact hp)
  rw [hx] at ht
  rw [ht]
  exact ⟨⟨rfl, rfl⟩, rfl, ⟨fun _ _ => ⟨rfl, rfl⟩, rfl⟩, ⟨rfl, rfl⟩⟩

theorem State.pendedSegs_zero (s : State) (new : List Pend) : s.pendedSegs new 0 = s.pended new := rfl

section
variable (s : State) (b q : Nat) (l : List Nat) (d k : BitVec 5) (u : TlbEntry) (ty : ElTy) (start : Word)

theorem packedBlk_knowing : packedBlk (s.knowing b q l) d k ty = packedBlk s d k ty := rfl

theorem blockBytes_knowing : blockBytes (s.knowing b q l) d k u ty start = blockBytes s d k u ty start := rfl

theorem blockSeg_knowing : blockSeg (s.knowing b q l) d k u ty start = blockSeg s d k u ty start := rfl

end

section
variable {s : State} {d a k o : BitVec 5} {start : Word} {u : TlbEntry} {ty : ElTy}

/-- `vstf` of elements whose blocks may be accessed stores the blocks with an active element one after the other (R158, R160). -/
theorem exec_vstf (h : VReady s [a] [d]) (hmst : s.mstQueued = false) (hf : isF s.cur.vty = true) (hr : s.cur.frm ≠ .efb) (hstart : s.cur.getS a + off5 o = start) (hp : BlockPage s start true u ty)
    (hb : BlocksOk s start u ty ((List.range s.cur.n).filter (on s.cur k))) {x : State} {fl : Flags}
    (hgo : (((List.range ((s.cur.n + 31) / 32)).filter (blockLit (on s.cur k))).map (metAt u ty start)).foldl
      (fun x b => let r := x.1.storeBlk d k b.1 b.2; (r.1, x.2 ||| r.2)) (readAll s [a], 0) = (x, fl)) (hx : x.cur.streams = s.cur.streams) :
    exec (.vstf d a k o) s = .next (x.onCur fun t => t.raise fl).retire := by
  have hcheck := fmtStoreCheck_ok (blockPage_readAll [a] hp) (blocksOk_readAll [a] hb) ((List.range s.cur.n).filter (on s.cur k)) [] fun _ hi => hi
  rw [meetBlock_active] at hcheck
  have hdone : (x.onCur fun t => t.raise fl).vdone [d] = (x.onCur fun t => t.raise fl).retire := vdone_unbound fun v hv => by
    refine Eq.trans ?_ (h.unbound v hv)
    show x.cur.streams.get none v.toNat = s.cur.streams.get none v.toNat
    rw [hx]
  rw [← hdone]
  show execVstf d a k o s = _
  unfold execVstf
  rw [vissue_check _ h (by simp), takes_of [a] hf (by simp [hr]), if_pos rfl, afterMst_readAll [a] hmst]
  dsimp only
  rw [readAll_getS, hstart, fmtPer_page (blockPage_readAll [a] hp) (blocksOk_readAll [a] hb), fmtStart_page hp hb]
  dsimp only
  rw [readAll_activeList, show (readAll s [a]).fmtStoreCheck start (perByte ty) [] _ = _ from hcheck]
  dsimp only
  rw [hgo]

/-- What `vstf` leaves in maintenance mode (R160, R162, R278). -/
theorem vstf_maint (h : VReady s [a] [d]) (hmst : s.mstQueued = false) (hf : isF s.cur.vty = true) (hr : s.cur.frm ≠ .efb) (hstart : s.cur.getS a + off5 o = start) (hp : BlockPage s start true u ty)
    (hb : BlocksOk s start u ty ((List.range s.cur.n).filter (on s.cur k))) (hm : s.cur.maint = true) :
    ∃ t, exec (.vstf d a k o) s = .next t ∧ (t.ticket = s.ticket ∧ t.cur.pend = ((List.range ((s.cur.n + 31) / 32)).filter (blockLit (on s.cur k))).flatMap (blockBytes s d k u ty start)) ∧
      t.cur.fflags = s.cur.fflags ||| flagsOver ((s.cur.n + 31) / 32) (blockLit (on s.cur k)) (fun j => (packedBlk s d k ty j).flags) ∧
      OnlyScalars { s with ticket := t.ticket, cur := { s.cur with pend := t.cur.pend, fflags := t.cur.fflags } } t [] ∧ Stepped s t := by
  obtain ⟨b, q, l, e⟩ := readAll_eq_knowing s [a]
  have hgo := storeBlks_maint (s.knowing b q l) d k u ty start hm ((List.range ((s.cur.n + 31) / 32)).filter (blockLit (on s.cur k))) [] 0
  rw [State.pended_nil, blockBytes_knowing, packedBlk_knowing, List.nil_append, ← State.pendedSegs_zero] at hgo
  rw [← e] at hgo
  have hexec := exec_vstf h hmst hf hr hstart hp hb hgo (by rw [e]; rfl)
  rw [e] at hexec
  exact ⟨_, hexec, pendedSegs_retire b q l _ 0 _ h.ready.calm hb.pend⟩

/-- What `vstf` leaves in service mode (R160, R162, R274). -/
theorem vstf_service (h : VReady s [a] [d]) (hmst : s.mstQueued = false) (hf : isF s.cur.vty = true) (hr : s.cur.frm ≠ .efb) (hstart : s.cur.getS a + off5 o = start) (hp : BlockPage s start true u ty)
    (hb : BlocksOk s start u ty ((List.range s.cur.n).filter (on s.cur k))) (hm : s.cur.maint = false) :
    let met := (List.range ((s.cur.n + 31) / 32)).filter (blockLit (on s.cur k))
    ∃ t, exec (.vstf d a k o) s = .next t ∧ (t.ticket = s.ticket + met.length ∧ t.cur.pend = met.zipIdx.flatMap fun m => blockSeg s d k u ty start m.1 (s.ticket + m.2)) ∧
      t.cur.fflags = s.cur.fflags ||| flagsOver ((s.cur.n + 31) / 32) (blockLit (on s.cur k)) (fun j => (packedBlk s d k ty j).flags) ∧
      OnlyScalars { s with ticket := t.ticket, cur := { s.cur with pend := t.cur.pend, fflags := t.cur.fflags } } t [] ∧ Stepped s t := by
  intro met
  obtain ⟨b, q, l, e⟩ := readAll_eq_knowing s [a]
  have hgo := storeBlks_service (s.knowing b q l) d k u ty start hm hf (blockPage_isBlock hp) met [] 0 0
  rw [State.pendedSegs_nil, blockSeg_knowing, packedBlk_knowing, List.nil_append, Nat.zero_add] at hgo
  rw [← e] at hgo
  have hexec := exec_vstf h hmst hf hr hstart hp hb hgo (by rw [e]; rfl)
  rw [e] at hexec
  exact ⟨_, hexec, pendedSegs_retire b q l _ met.length _ h.ready.calm hb.pend⟩

end

end Sys2Proof.Machine
end

section
/-! Adding at a place of the own scratchpad (R165, R286): the values, and the write. -/

namespace Sys2Proof.Machine
open Sys2Proof.Claims

theorem roundF_lt {t : ElTy} {f : FFmt} {w : Nat} (hnan : f.nanCode < 2 ^ w) (hmag : ∀ neg c, c ≤ f.maxCode + 1 → withSign f neg c < 2 ^ w) (m : Rnd) (x : FVal) : (roundF t f m x).1 < 2 ^ w := by
  have hover (neg : Bool) : overflowCode t f m neg < 2 ^ w := by
    unfold overflowCode
    split
    · exact hnan
    · exact hmag neg _ (Nat.le_refl _)
    · exact hmag neg _ (Nat.le_of_lt_succ (ite_lt (Nat.lt_succ_self _) (Nat.lt_succ_of_lt (Nat.lt_succ_self _))))
  cases x with
  | nan => exact hnan
  | inf neg =>
    show (if f.hasInf then (withSign f neg (f.maxCode + 1), (0 : Flags)) else (f.nanCode, 0)).1 < 2 ^ w
    split
    · exact hmag neg _ (Nat.le_refl _)
    · exact hnan
  | fin neg man e =>
    unfold roundF
    dsimp only
    split
    · exact hover neg
    · exact hmag neg _ (by omega)

theorem addEl_f32_lt (m : Rnd) (a b : Nat) : (addEl .f32 m a b).1 < 2 ^ 32 := by
  refine roundF_lt (w := 32) (by decide) (fun neg c hc => ?_) m _
  have hc' : c ≤ 0x7F800000 := hc
  have hsign : FFmt.signBit ⟨32, 23, 127, 0x7F7FFFFF, true, true, 0x7FC00000⟩ = 31 := rfl
  unfold withSign
  rw [hsign]
  split <;> omega

/-- The ATOM function by which `vamo` adds an element (R165). -/
def vamoFn (ty : ElTy) : Nat := if ty = .f32 then 12 else if widthOf ty / 8 = 4 then 0 else 1

/-- What a place holds once an element of `vamo` was added is the sum of the type (R165, R286). -/
theorem amoNew_vamo {ty : ElTy} (h : tyWide ty = true) (old v : Nat) :
    amoNew (vamoFn ty) (widthOf ty / 8) old v 0 % 256 ^ (widthOf ty / 8) = (addEl ty .rne old v).1 := by
  have hint (hi : isInt ty = true) (hf : ty ≠ .f32) (hw : widthOf ty = 8 * (widthOf ty / 8)) :
      amoNew (vamoFn ty) (widthOf ty / 8) old v 0 % 256 ^ (widthOf ty / 8) = (addEl ty .rne old v).1 := by
    have hfn : amoNew (vamoFn ty) (widthOf ty / 8) old v 0 = (old + v) % 256 ^ (widthOf ty / 8) := by
      unfold vamoFn
      rw [if_neg hf]
      split <;> rfl
    rw [hfn, addEl_int _ _ _ hi, Nat.mod_mod, show (256 : Nat) = 2 ^ 8 from rfl, ← Nat.pow_mul, ← hw]
  cases ty with
  | f32 => exact Nat.mod_eq_of_lt (addEl_f32_lt .rne old v)
  | i32 => exact hint rfl (by decide) rfl
  | i64 => exact hint rfl (by decide) rfl
  | z32 => exact hint rfl (by decide) rfl
  | z64 => exact hint rfl (by decide) rfl
  | _ => exact absurd h (by decide)

/-- A write to words that are not poisoned logs nothing (R174). -/
theorem State.notePartial_unpoisoned (s : State) {loc n : Nat} (h : s.poisoned loc n = false) : s.notePartial loc n = s := by
  refine List.foldlRecOn (motive := fun t : State => t = s) _ _ rfl fun t ht i hi => ?_
  rw [ht]
  refine if_neg ?_
  have hword : s.poison.get false (loc / 8 + i) = false := by
    simpa using List.any_eq_false.mp h i hi
  rw [hword]
  exact Bool.false_ne_true

/-- No write poisons a word (R174). -/
theorem State.cleanWhole_poison_le (s : State) (loc n w : Nat) (h : (s.cleanWhole loc n).poison.get false w = true) : s.poison.get false w = true := by
  revert h
  refine List.foldlRecOn (motive := fun m : SMap Bool => m.get false w = true → s.poison.get false w = true) _ _ id fun m hm i _ => ?_
  split
  · intro h
    by_cases hw : w = loc / 8 + i
    · rw [hw, SMap.get_set_self] at h; cases h
    · exact hm (by rwa [SMap.get_set_ne _ _ _ hw] at h)
  · exact hm

theorem State.poisoned_of_le {s t : State} (h : ∀ w, t.poison.get false w = true → s.poison.get false w = true) {loc n : Nat} (hs : s.poisoned loc n = false) : t.poisoned loc n = false := by
  refine List.any_eq_false.mpr fun i hi ht => ?_
  exact List.any_eq_false.mp hs i hi (h _ ht)

/-- A write by an atomic in near memory, to words that are not poisoned: what it changes, the value it leaves, and the bytes it keeps (R174, R268, R286). -/
theorem State.atomicPut_near (s : State) (key : Nat) {loc n : Nat} (v : Nat) (rel : Option Nat) (hloc : isHbm loc = false) (h : s.poisoned loc n = false) :
    ∃ m p l w, s.atomicPut key loc n v rel = { s with mem := m, poison := p, hist := l, nextW := w, cur := { s.cur with hb := s.cur.hb ||| 2 ^ s.nextW } } ∧
      (∀ i, p.get false i = true → s.poison.get false i = true) ∧ natOfBytes (m.getList memDefault loc n) = v % 256 ^ n ∧
      ∀ y, y < loc ∨ loc + n ≤ y → m.get memDefault y = s.mem.get memDefault y := by
  have hle := State.cleanWhole_poison_le s loc n
  have hput : (s.poke key loc (bytesOfNat n v)).keyRuns = s.keyRuns := by
    unfold State.poke
    rw [hloc]
    rfl
  have hclean : ((s.poke key loc (bytesOfNat n v)).cleanWhole loc n).poisoned loc n = false := State.poisoned_of_le (s := s) hle h
  refine ⟨(s.poke key loc (bytesOfNat n v)).mem, (s.cleanWhole loc n).poison, (s.homeWrite key loc n v rel).hist, s.nextW + 1, ?_, hle, ?_, fun y hy => ?_⟩
  · unfold State.atomicPut State.homeWrite State.writeHome
    rw [State.notePartial_unpoisoned _ hclean, show s.keyRuns = _ from hput.symm]
    rfl
  · exact (congrArg natOfBytes (s.bytesAt_poke key loc n v)).trans (natOfBytes_bytesOfNat n v)
  · rw [← s.atomicPut_other key loc n v rel y hy]
    exact congrArg (SMap.get memDefault · y) (s.homeWrite_mem key loc n v rel).symm

end Sys2Proof.Machine
end

section
/-! What the elements of a `vamo` in the own scratchpad change, one after the other (R165). -/

namespace Sys2Proof.Machine
open Sys2Proof.Claims

/-- Only memory, the order of writes, and what the strand knows of them and of its `vamo` have changed, and no word has become poisoned. -/
structure MemoryOnly (s t : State) : Prop where
  rest : t = { s with
    mem := t.mem, poison := t.poison, hist := t.hist, nextW := t.nextW
    cur := { s.cur with hb := t.cur.hb, soon := t.cur.soon, obs := t.cur.obs, vamoTodo := t.cur.vamoTodo, resv := t.cur.resv } }
  poison : ∀ w, t.poison.get false w = true → s.poison.get false w = true

theorem MemoryOnly.refl (s : State) : MemoryOnly s s := ⟨rfl, fun _ h => h⟩

theorem MemoryOnly.trans {s t u : State} (h : MemoryOnly s t) (h' : MemoryOnly t u) : MemoryOnly s u :=
  ⟨by rw [h'.rest, h.rest], fun w hw => h.poison w (h'.poison w hw)⟩

/-- An access to the own scratchpad stays one. -/
theorem MemoryOnly.own {s t : State} (h : MemoryOnly s t) {va : Word} {n : Nat} (ha : OwnAccess s va n) : OwnAccess t va n where
  size := ha.size
  window := ha.window
  range := ha.range
  aligned := ha.aligned
  lease := by rw [h.rest]; exact ha.lease
  plain := by rw [h.rest]; exact ha.plain
  written := by rw [h.rest]; exact ha.written
  clean := by
    have hloc : ownLoc t va = ownLoc s va := by rw [h.rest]; rfl
    rw [hloc]
    exact State.poisoned_of_le h.poison ha.clean
  apart := by rw [h.rest]; exact ha.apart

theorem MemoryOnly.ownLoc {s t : State} (h : MemoryOnly s t) (va : Word) : ownLoc t va = ownLoc s va := by rw [h.rest]; rfl
theorem MemoryOnly.vty {s t : State} (h : MemoryOnly s t) : t.cur.vty = s.cur.vty := by rw [h.rest]
theorem MemoryOnly.getV {s t : State} (h : MemoryOnly s t) (v : BitVec 5) : t.cur.getV v = s.cur.getV v := by rw [h.rest]; rfl

/-- An element of a `vamo` has been added at its place, and is done. -/
def State.vamoPut (s : State) (d : BitVec 5) (x : VAcc) : State :=
  (s.atomHere (ownHit s x.va) (vamoFn s.cur.vty) (widthOf s.cur.vty / 8) (elemAt (widthOf s.cur.vty) (s.cur.getV d) x.i) 0 none).2.onCur
    fun t => { t with vamoTodo := t.vamoTodo.map fun l => l.filter (fun i => decide (i ≠ x.i)) }

/-- An atomic at home is a write of its new value, and what it read is observed (R267, R286). -/
theorem State.atomHere_put (s : State) (h : Hit) (fn n v c : Nat) (rel : Option Nat) : (s.atomHere h fn n v c rel).2 =
    (s.atomicPut h.key h.loc n (amoNew fn n (s.peekKey h.key h.loc n) v c) rel).onCur fun t => { t with obs := s.lastRel h.loc n ++ t.obs } := rfl

section
variable {s : State} {x : VAcc} (h : OwnAccess s x.va (widthOf s.cur.vty / 8))
include h

theorem atomPoison_own : s.atomPoison (ownHit s x.va) (widthOf s.cur.vty / 8) = false := by
  rw [State.atomPoison, show s.poisoned (ownHit s x.va).loc _ = false from h.clean, Bool.and_false]

/-- The checks of an atomic in the own scratchpad pass (R287). -/
theorem atomCheck_own : s.atomCheck x.va (widthOf s.cur.vty / 8) .vamo = (s, .ok (ownHit s x.va)) := by
  have hsable : s.sableAny (ownHit s x.va).loc (widthOf s.cur.vty / 8) = false := by
    unfold State.sableAny
    rw [h.plain]
    exact List.any_eq_false.mpr fun _ _ => Bool.false_ne_true
  unfold State.atomCheck
  rw [if_neg (not_not_intro h.aligned), place_own h rfl]
  dsimp only
  rw [hsable, atomPoison_own h]
  rfl

theorem vamoSeq_cons (d : BitVec 5) (xs : List VAcc) : s.vamoSeq d (x :: xs) = (s.vamoPut d x).vamoSeq d xs := by
  rw [State.vamoSeq]
  dsimp only
  rw [atomCheck_own h]
  dsimp only
  rw [atomPoison_own h, if_neg Bool.false_ne_true, if_pos (show isHere (ownHit s x.va).loc = true from h.here)]
  unfold State.vamoPut vamoFn
  rfl

/-- What one element of a `vamo` leaves: its place holds the sum, and every byte outside stays. -/
theorem vamoPut_spec (d : BitVec 5) (hty : tyWide s.cur.vty = true) : MemoryOnly s (s.vamoPut d x) ∧
    (s.vamoPut d x).peek (ownLoc s x.va) (widthOf s.cur.vty / 8) =
      (addEl s.cur.vty .rne (s.peek (ownLoc s x.va) (widthOf s.cur.vty / 8)) (elemAt (widthOf s.cur.vty) (s.cur.getV d) x.i)).1 ∧
    (∀ y, y < ownLoc s x.va ∨ ownLoc s x.va + widthOf s.cur.vty / 8 ≤ y → (s.vamoPut d x).mem.get memDefault y = s.mem.get memDefault y) ∧
    (s.vamoPut d x).cur.vamoTodo = s.cur.vamoTodo.map fun l => l.filter fun i => decide (i ≠ x.i) := by
  have hsum := amoNew_vamo hty (s.peekKey (ownHit s x.va).key (ownLoc s x.va) (widthOf s.cur.vty / 8)) (elemAt (widthOf s.cur.vty) (s.cur.getV d) x.i)
  obtain ⟨m, p, l, w, hput, hpoison, hvalue, hother⟩ := s.atomicPut_near (ownHit s x.va).key (amoNew (vamoFn s.cur.vty) (widthOf s.cur.vty / 8)
    (s.peekKey (ownHit s x.va).key (ownLoc s x.va) (widthOf s.cur.vty / 8)) (elemAt (widthOf s.cur.vty) (s.cur.getV d) x.i) 0) none (ownLoc_notHbm s x.va) h.clean
  rw [hsum, State.peekKey_near s _ _ (ownLoc_notHbm s x.va)] at hvalue
  unfold State.vamoPut
  rw [State.atomHere_put, show (ownHit s x.va).loc = ownLoc s x.va from rfl, hput]
  exact ⟨⟨rfl, hpoison⟩, hvalue, hother, rfl⟩

end

/-- The places of aligned accesses are aligned. -/
theorem ownLoc_aligned {s : State} {va : Word} {n : Nat} (h : OwnAccess s va n) : ownLoc s va % n = 0 := by
  have haligned := h.aligned
  rw [Sys2Proof.Claims.ownLoc, scratchLoc]
  obtain rfl | rfl | rfl | rfl := h.size <;> omega

/-- Aligned places are the same or apart. -/
theorem aligned_apart {a b n : Nat} (ha : a % n = 0) (hb : b % n = 0) (h : a ≠ b) : a + n ≤ b ∨ b + n ≤ a := by
  obtain ⟨c, rfl⟩ := Nat.dvd_of_mod_eq_zero ha
  obtain ⟨e, rfl⟩ := Nat.dvd_of_mod_eq_zero hb
  have hce : c ≠ e := fun hc => h (congrArg _ hc)
  rcases Nat.lt_or_gt_of_ne hce with hlt | hlt
  · exact .inl (by have := Nat.mul_le_mul_left n hlt; rwa [Nat.mul_succ] at this)
  · exact .inr (by have := Nat.mul_le_mul_left n hlt; rwa [Nat.mul_succ] at this)

section
variable {s : State} (d : BitVec 5)

/-- The elements of a `vamo` added one after the other. -/
def State.vamoPuts (s : State) (d : BitVec 5) (xs : List VAcc) : State := xs.foldl (fun u x => u.vamoPut d x) s

/-- The elements of a `vamo` lie in the own scratchpad, at a type that it takes. -/
structure OwnElements (s : State) (xs : List VAcc) : Prop where
  type : tyWide s.cur.vty = true
  own : ∀ x ∈ xs, OwnAccess s x.va (widthOf s.cur.vty / 8)

theorem OwnElements.tail {x : VAcc} {xs : List VAcc} (h : OwnElements s (x :: xs)) : OwnElements (s.vamoPut d x) xs := by
  obtain ⟨hm, -⟩ := vamoPut_spec (h.own x List.mem_cons_self) d h.type
  refine ⟨by rw [hm.vty]; exact h.type, fun y hy => ?_⟩
  rw [hm.vty]
  exact hm.own (h.own y (List.mem_cons_of_mem _ hy))

/-- Elements in the own scratchpad are all performed at once (R165). -/
theorem vamoSeq_own (xs : List VAcc) : ∀ {s : State}, OwnElements s xs → s.vamoSeq d xs = (s.vamoPuts d xs, none) := by
  induction xs with
  | nil => intro s _; rfl
  | cons x xs ih =>
    intro s h
    rw [vamoSeq_cons (h.own x List.mem_cons_self), ih (h.tail d)]
    rfl

theorem vamoPuts_memoryOnly (xs : List VAcc) : ∀ {s : State}, OwnElements s xs → MemoryOnly s (s.vamoPuts d xs) := by
  induction xs with
  | nil => intro s _; exact MemoryOnly.refl s
  | cons x xs ih =>
    intro s h
    obtain ⟨hm, -⟩ := vamoPut_spec (h.own x List.mem_cons_self) d h.type
    exact hm.trans (ih (h.tail d))

/-- Every byte outside the elements' places stays. -/
theorem vamoPuts_other (xs : List VAcc) (y : Nat) : ∀ {s : State}, OwnElements s xs →
    (∀ x ∈ xs, y < ownLoc s x.va ∨ ownLoc s x.va + widthOf s.cur.vty / 8 ≤ y) → (s.vamoPuts d xs).mem.get memDefault y = s.mem.get memDefault y := by
  induction xs with
  | nil => intro s _ _; rfl
  | cons x xs ih =>
    intro s h hy
    obtain ⟨hm, -, hother, -⟩ := vamoPut_spec (h.own x List.mem_cons_self) d h.type
    refine (ih (h.tail d) fun z hz => ?_).trans (hother y (hy x List.mem_cons_self))
    rw [hm.vty, hm.ownLoc]
    exact hy z (List.mem_cons_of_mem _ hz)

/-- Every aligned place has taken the elements that name it, in their order (R165). -/
theorem vamoPuts_peek (xs : List VAcc) {loc : Nat} : ∀ {s : State}, OwnElements s xs → loc % (widthOf s.cur.vty / 8) = 0 →
    (s.vamoPuts d xs).peek loc (widthOf s.cur.vty / 8) = (xs.filter fun x => decide (ownLoc s x.va = loc)).foldl
      (fun v x => (addEl s.cur.vty .rne v (elemAt (widthOf s.cur.vty) (s.cur.getV d) x.i)).1) (s.peek loc (widthOf s.cur.vty / 8)) := by
  induction xs with
  | nil => intro s _ _; rfl
  | cons x xs ih =>
    intro s h hl
    have hx := h.own x List.mem_cons_self
    obtain ⟨hm, hpeek, hother, -⟩ := vamoPut_spec hx d h.type
    have hrest := ih (h.tail d) (by rw [hm.vty]; exact hl)
    rw [hm.vty, hm.getV] at hrest
    simp only [hm.ownLoc] at hrest
    refine hrest.trans ?_
    by_cases heq : ownLoc s x.va = loc
    · rw [List.filter_cons, if_pos (decide_eq_true heq), List.foldl_cons]
      subst heq
      rw [hpeek]
    · have hapart := aligned_apart (ownLoc_aligned hx) hl heq
      have hstay : (s.vamoPut d x).peek loc (widthOf s.cur.vty / 8) = s.peek loc (widthOf s.cur.vty / 8) :=
        congrArg natOfBytes (State.bytesAt_congr fun i hi => hother _ (by omega))
      rw [List.filter_cons, if_neg (by simp [heq]), hstay]

/-- No element is left to do. -/
theorem vamoPuts_todo (xs : List VAcc) : ∀ {s : State} {l : List Nat}, OwnElements s xs → s.cur.vamoTodo = some l → (∀ i ∈ l, i ∈ xs.map (·.i)) → (s.vamoPuts d xs).cur.vamoTodo = some [] := by
  induction xs with
  | nil =>
    intro s l _ hl hin
    have hnil : l = [] := List.eq_nil_iff_forall_not_mem.mpr fun i hi => by simpa using hin i hi
    exact hnil ▸ hl
  | cons x xs ih =>
    intro s l h hl hin
    obtain ⟨-, -, -, htodo⟩ := vamoPut_spec (h.own x List.mem_cons_self) d h.type
    rw [hl] at htodo
    refine ih (h.tail d) htodo fun i hi => ?_
    obtain ⟨hi, hne⟩ := List.mem_filter.mp hi
    exact List.mem_of_ne_of_mem (of_decide_eq_true hne) (hin i hi)

end

end Sys2Proof.Machine
end

section
/-! `vamo` in the own scratchpad (R165, R286). -/

namespace Sys2Proof.Machine
open Sys2Proof.Claims

/-- Where the pending stores lie apart from what is asked for, nothing is published. -/
theorem publishIf_apart {s : State} {pick : Pend → Bool} (k : State → State) (hpick : ∀ p ∈ s.cur.pend, pick p = false) (hout : s.cur.out = []) :
    s.publishIf pick k = k (s.onCur fun t => { t with resv := t.resv.filter fun r => !r.isLock }) := by
  have hmine : (s.cur.pend.filter fun p => pick p || (p.seg.isSome && s.cur.pend.any fun q => decide (q.seg = p.seg) && pick q)) = [] := by
    refine List.filter_eq_nil_iff.mpr fun p hp => ?_
    have hany : (s.cur.pend.any fun q => decide (q.seg = p.seg) && pick q) = false :=
      List.any_eq_false.mpr fun q hq => by rw [hpick q hq, Bool.and_false]; exact Bool.false_ne_true
    rw [hpick p hp, hany, Bool.and_false]
    exact Bool.false_ne_true
  unfold State.publishIf
  exact (if_pos hmine).trans (if_pos hout)

theorem vamoPlaces_own {s : State} (xs : List VAcc) (h : ∀ x ∈ xs, OwnAccess s x.va (widthOf s.cur.vty / 8)) : s.vamoPlaces (widthOf s.cur.vty / 8) xs = xs.map fun x => ownLoc s x.va := by
  induction xs with
  | nil => rfl
  | cons x xs ih =>
    rw [State.vamoPlaces, atomCheck_own (h x List.mem_cons_self)]
    exact congrArg (ownLoc s x.va :: ·) (ih fun y hy => h y (List.mem_cons_of_mem _ hy))

/-- Every element of a `vamo` is performed: it completes (R165). -/
theorem vamoAfter_done {s : State} {d a b : BitVec 5} (hout : s.outstanding s.cur.uid = false) (htodo : s.cur.vamoTodo = some []) (hs : ∀ v ∈ [d, b], s.cur.stream v = none) :
    s.vamoAfter d a b = (s.onCur fun t => { t with vamoTodo := none }).retire := by
  rw [← vdone_unbound (s := s.onCur fun t => { t with vamoTodo := none }) hs]
  unfold State.vamoAfter
  dsimp only
  rw [hout, htodo]
  rfl

/-- The elements of a `vamo` with their addresses (R165). -/
def vamoEls (t : Strand) (a b k : BitVec 5) : List VAcc := ((List.range t.n).filter (on t k)).map fun i => ⟨i, 0, t.indexAddr a b i⟩

/-- The elements of a `vamo` are to be done. -/
def State.vamoPlan (s : State) (a b k : BitVec 5) : State := s.onCur fun t => { t with vamoTodo := some ((vamoEls t a b k).map (·.i)) }

/-- The state in which a `vamo` that has no stores to publish begins with its elements. -/
def State.vamoStart (s : State) (a b k : BitVec 5) : State := (s.vamoPlan a b k).onCur fun t => { t with resv := t.resv.filter fun r => !r.isLock }

section
variable {s : State} {d a b k : BitVec 5}

theorem vamoPlan_memoryOnly (s : State) (a b k : BitVec 5) : MemoryOnly s (s.vamoPlan a b k) := ⟨rfl, fun _ h => h⟩

theorem vamoStart_memoryOnly (s : State) (a b k : BitVec 5) : MemoryOnly s (s.vamoStart a b k) := ⟨rfl, fun _ h => h⟩

theorem knowing_memoryOnly (s : State) (h q : Nat) (l : List Nat) : MemoryOnly s (s.knowing h q l) := ⟨rfl, fun _ h => h⟩

theorem OwnElements.mono {t : State} {xs : List VAcc} (h : OwnElements s xs) (hm : MemoryOnly s t) : OwnElements t xs where
  type := by rw [hm.vty]; exact h.type
  own x hx := by rw [hm.vty]; exact hm.own (h.own x hx)

/-- A `vamo` whose elements lie in the own scratchpad, apart from the pending stores, performs them one after the other and completes (R165, R286). -/
theorem exec_vamo (h : VReady s [a] [d, b]) (hmst : s.mstQueued = false) (hels : OwnElements s (vamoEls s.cur a b k))
    (hpend : ∀ x ∈ vamoEls s.cur a b k, ∀ p ∈ s.cur.pend, overlaps p.loc p.n (ownLoc s x.va) (widthOf s.cur.vty / 8) = false)
    (hout : s.cur.out = []) (htodo : s.cur.vamoTodo = none) (hdone : s.outstanding s.cur.uid = false) :
    ∃ q o l, exec (.vamo d a b k) s = .next ((((s.knowing q o l).vamoStart a b k).vamoPuts d (vamoEls s.cur a b k)).onCur fun t => { t with vamoTodo := none }).retire := by
  obtain ⟨q, o, l, e⟩ := readAll_eq_knowing s [a]
  refine ⟨q, o, l, ?_⟩
  have hm := (knowing_memoryOnly s q o l).trans (vamoStart_memoryOnly (s.knowing q o l) a b k)
  have hels' := hels.mono hm
  have hend := hm.trans (vamoPuts_memoryOnly d _ hels')
  have hafter := vamoAfter_done (d := d) (a := a) (b := b) (by rw [hend.rest]; exact hdone) (vamoPuts_todo d (vamoEls s.cur a b k) hels' rfl fun _ hi => hi)
    (by rw [hend.rest]; exact h.unbound)
  rw [← hafter]
  show execVamo d a b k s = _
  unfold execVamo
  rw [vissue_check _ h (by simp), takes_false, readAll_vty, if_pos hels.type, afterMst_readAll [a] hmst, e]
  dsimp only
  rw [show (s.knowing q o l).cur.vamoTodo = none from htodo, Option.isSome_none, Bool.false_and, if_neg Bool.false_ne_true]
  dsimp only
  have hplan := (knowing_memoryOnly s q o l).trans (vamoPlan_memoryOnly (s.knowing q o l) a b k)
  have hplaces := vamoPlaces_own (vamoEls s.cur a b k) (hels.mono hplan).own
  rw [hplan.vty] at hplaces
  rw [show (s.knowing q o l).cur.accs k ((s.knowing q o l).cur.indexAddr a b) = vamoEls s.cur a b k from accs_on ..,
    show ((s.knowing q o l).onCur fun t => { t with vamoTodo := some ((vamoEls s.cur a b k).map (·.i)) }) = (s.knowing q o l).vamoPlan a b k from rfl,
    show (s.knowing q o l).cur.vty = s.cur.vty from rfl, hplaces, publishIf_apart (s := (s.knowing q o l).vamoPlan a b k) _ (fun p hp => ?_) hout]
  · rw [show ((s.knowing q o l).vamoPlan a b k).onCur (fun t => { t with resv := t.resv.filter fun r => !r.isLock }) = (s.knowing q o l).vamoStart a b k from rfl, vamoSeq_own d _ hels']
  · refine List.any_eq_false.mpr fun y hy => ?_
    obtain ⟨x, hx, rfl⟩ := List.mem_map.mp hy
    exact Bool.eq_false_iff.mp (hpend x hx p hp)

/-- What completing leaves of a state in which only memory has changed. -/
theorem memoryOnly_retire {u : State} (hm : MemoryOnly s u) (hp : s.cur.pre = none) :
    let t := (u.onCur fun t => { t with vamoTodo := none }).retire
    t.mem = u.mem ∧ SameScalars s t [] ∧ t.cur.vregs = s.cur.vregs ∧ t.cur.fflags = s.cur.fflags ∧ t.rels = s.rels ∧ Stepped s t := by
  intro t
  have ht : t = _ := State.retire_goOn (s := u.onCur fun t => { t with vamoTodo := none }) (by rw [hm.rest]; exact hp)
  rw [ht, hm.rest]
  exact ⟨rfl, fun _ _ => ⟨rfl, rfl⟩, rfl, rfl, rfl, ⟨rfl, rfl⟩⟩

/-- `vamo` with its elements' places, in the own scratchpad (R165, R286). -/
theorem vamo_done (h : VReady s [a] [d, b]) (hmst : s.mstQueued = false) (hels : OwnElements s (vamoEls s.cur a b k))
    (hpend : ∀ x ∈ vamoEls s.cur a b k, ∀ p ∈ s.cur.pend, overlaps p.loc p.n (ownLoc s x.va) (widthOf s.cur.vty / 8) = false)
    (hout : s.cur.out = []) (htodo : s.cur.vamoTodo = none) (hdone : s.outstanding s.cur.uid = false) :
    ∃ t, exec (.vamo d a b k) s = .next t ∧
      (∀ loc, loc % (widthOf s.cur.vty / 8) = 0 → t.peek loc (widthOf s.cur.vty / 8) = ((vamoEls s.cur a b k).filter fun x => decide (ownLoc s x.va = loc)).foldl
        (fun v x => (addEl s.cur.vty .rne v (elemAt (widthOf s.cur.vty) (s.cur.getV d) x.i)).1) (s.peek loc (widthOf s.cur.vty / 8))) ∧
      (∀ y, (∀ x ∈ vamoEls s.cur a b k, y < ownLoc s x.va ∨ ownLoc s x.va + widthOf s.cur.vty / 8 ≤ y) → t.mem.get memDefault y = s.mem.get memDefault y) ∧
      SameScalars s t [] ∧ t.cur.vregs = s.cur.vregs ∧ t.cur.fflags = s.cur.fflags ∧ t.rels = s.rels ∧ Stepped s t := by
  obtain ⟨q, o, l, hexec⟩ := exec_vamo h hmst hels hpend hout htodo hdone
  have hm := (knowing_memoryOnly s q o l).trans (vamoStart_memoryOnly (s.knowing q o l) a b k)
  have hels' := hels.mono hm
  obtain ⟨hmem, hrest⟩ := memoryOnly_retire (hm.trans (vamoPuts_memoryOnly d _ hels')) h.ready.calm
  refine ⟨_, hexec, fun loc hl => ?_, fun y hy => ?_, hrest⟩
  · have hpeek := vamoPuts_peek d (vamoEls s.cur a b k) hels' (by rw [hm.vty]; exact hl)
    rw [hm.vty, hm.getV] at hpeek
    simp only [hm.ownLoc] at hpeek
    rw [State.peek, State.bytesAt, hmem]
    exact hpeek
  · rw [hmem]
    refine vamoPuts_other d _ y hels' fun x hx => ?_
    rw [hm.vty, hm.ownLoc]
    exact hy x hx

end

/-- Settles O20: `vldf` and `vldb` by the elements that the formatted load gathers, `vstf` by the pending stores of its blocks, `vamo` by its elements one after the other. -/
theorem formattedAndAtomics : Obligations.FormattedAndAtomics := by
  unfold Obligations.FormattedAndAtomics
  refine ⟨?_, ?_, ?_, ?_⟩
  · intro s d a k o u ty h hmst hm hf start lit c hp hb hk
    obtain ⟨b, q, l, hexec⟩ := exec_vldf h hmst hm hf (congrArg (s.cur.getS a + ·) (off5_eq o)) hp hb hk
    exact ⟨_, hexec, putActive_knowing_retire b q l d k _ h.ready.calm⟩
  · intro s d a k o u h hmst hm hblock ty start lit per scales hp hb hk
    obtain ⟨b, q, l, hexec⟩ := exec_vldb h hmst hm hblock (congrArg (s.cur.getS a + ·) (off5_eq o)) hp hb hk
    obtain ⟨hcodes, hscales, hflags, hframe⟩ := (s.knowing b q l).cur.putRaw_spec d k (fun i => (blockElem s start u ty i).1) scales
    obtain ⟨hvec, hfl, honly, hstep⟩ := onlyVectors_knowing (s := s) (y := (s.knowing b q l).cur.putRaw d k (fun i => (blockElem s start u ty i).1) scales) [d, d + 1] h.ready.calm rfl hframe
    exact ⟨_, hexec, (hvec d).symm ▸ hcodes, (hvec (d + 1)).symm ▸ hscales, hfl.trans hflags, honly, hstep⟩
  · intro s d a k o u ty h hmst hf hr start lit met q none0 els scs en sn whole bytes hp hb
    cases hmaint : s.cur.maint with
    | false =>
      obtain ⟨t, hexec, hpend, hrest⟩ := vstf_service h hmst hf hr (congrArg (s.cur.getS a + ·) (off5_eq o)) hp hb hmaint
      exact ⟨t, hexec, fun _ => hpend, fun hno => absurd hno (by decide), hrest⟩
    | true =>
      obtain ⟨t, hexec, hpend, hrest⟩ := vstf_maint h hmst hf hr (congrArg (s.cur.getS a + ·) (off5_eq o)) hp hb hmaint
      exact ⟨t, hexec, fun hno => absurd hno (by decide), fun _ => hpend, hrest⟩
  · intro s d a b k h hmst hty w n addr lit hits hown hout htodo hdone
    have hels : OwnElements s (vamoEls s.cur a b k) := ⟨hty, List.forall_mem_map.mpr fun i hi => (hown i hi).1⟩
    obtain ⟨t, hexec, hpeek, hother, hrest⟩ := vamo_done h hmst hels (List.forall_mem_map.mpr fun i hi => (hown i hi).2) hout htodo hdone
    refine ⟨t, hexec, fun loc hhit => ?_, fun x hx => hother x (List.forall_mem_map.mpr hx), hrest⟩
    obtain ⟨i, hi⟩ := List.exists_mem_of_ne_nil _ hhit
    obtain ⟨hlit, hloc⟩ := List.mem_filter.mp hi
    have haligned : loc % n = 0 := of_decide_eq_true hloc ▸ ownLoc_aligned (hown i hlit).1
    refine (hpeek loc haligned).trans ?_
    rw [vamoEls, List.filter_map, List.foldl_map]
    rfl

end Sys2Proof.Machine
end

section
/-! Mask registers: what is written by positions, and what an instruction leaves that writes one (R128, R129). -/

namespace Sys2Proof.Machine
open Sys2Proof.Claims

/-- A vector instruction of a strand that is ready for it, whose scalar registers are among those named, once its issue check is known (R71, R128, R137). -/
theorem vissue_named {s : State} {srcs dsts named vsrcs vdsts vecs : List (BitVec 5)} {ok : Strand → Bool} (k : State → State) (h : VReady s named vecs)
    (hr : ∀ r ∈ srcs ++ dsts, r ∈ named) (hv : ∀ v ∈ vsrcs ++ vdsts, v ∈ vecs) :
    s.vissue srcs dsts vsrcs vdsts ok k = if ok (readAll s srcs).cur then k (readAll s srcs) else (readAll s srcs).faultCode .illegalOperand 0 0 0 := by
  have hsrcs : VReady s srcs vecs := ⟨⟨fun r hm => h.ready.full r (hr r (List.mem_append_left _ hm)), h.ready.calm⟩, h.lanes, h.grant, h.rows, h.unbound⟩
  rw [← vissue_check k hsrcs hv]
  unfold State.vissue
  rw [issue_of_ready h.ready srcs dsts _ hr, issue_of_ready hsrcs.ready srcs [] _ (by simp)]

theorem Strand.getK_setK_self (t : Strand) {r : BitVec 5} (v : KReg) (h : r.toNat < 24) : (t.setK r v).getK r = v := by
  simp [Strand.getK, Strand.setK, h]

theorem Strand.getK_setK_ne (t : Strand) {r r' : BitVec 5} (v : KReg) (h : r' ≠ r) : (t.setK r v).getK r' = t.getK r' := by
  have hne : r.toNat ≠ r'.toNat := fun e => h (BitVec.eq_of_toNat_eq e.symm)
  simp [Strand.getK, Strand.setK, List.getD_eq_getElem?_getD, List.getElem?_set_ne hne]

theorem packBits_lt (bs : List Bool) : packBits bs < 2 ^ bs.length := by
  simpa [packBits] using packEls_lt 1 (bs.map fun b => if b then 1 else 0)

/-- Bit i of packed bits is the i-th of the list, and 0 past its end. -/
theorem testBit_packBits (bs : List Bool) (i : Nat) : (packBits bs).testBit i = bs.getD i false := by
  by_cases hi : i < bs.length
  · have helem := packEls_elem 1 (bs.map fun b => if b then 1 else 0) i (by simpa using hi)
    rw [List.getElem_map, Nat.mul_one, Nat.pow_one] at helem
    rw [Nat.testBit_eq_decide_div_mod_eq, packBits, helem, List.getD_eq_getElem _ _ hi]
    cases bs[i] <;> rfl
  · have hlt : packBits bs < 2 ^ i := (packBits_lt bs).trans_le (Nat.pow_le_pow_right (by decide) (Nat.le_of_not_lt hi))
    rw [Nat.testBit_lt_two_pow hlt, List.getD_eq_default _ _ (Nat.le_of_not_lt hi)]

/-- A mask destination, bit by bit (R129). -/
theorem writeMask_bit {n : Nat} (km : Option KReg) (old : KReg) (f : Nat → Bool) {j : Nat} (hj : j < 2048) :
    (writeMask n km old f).getLsbD j = if active km n j then f j else decide (j < n) && old.getLsbD j := by
  rw [writeMask, BitVec.getLsbD_ofNat, decide_eq_true hj, Bool.true_and, testBit_packBits]
  by_cases hn : j < n
  · rw [List.getD_eq_getElem _ _ (by simpa using hn), List.getElem_map, List.getElem_range, decide_eq_true hn, Bool.true_and]
  · have hoff : active km n j = false := by unfold active; rw [decide_eq_false hn, Bool.false_and]
    rw [List.getD_eq_default _ _ (by simpa using Nat.le_of_not_lt hn), hoff, decide_eq_false hn, Bool.false_and]
    rfl

/-- The mask of the first c bits (R140). -/
theorem firstBits_bit (c : Nat) {i : Nat} (hi : i < 2048) : (firstBits c).getLsbD i = decide (i < c) := by
  rw [firstBits, BitVec.getLsbD_ofNat, decide_eq_true hi, Bool.true_and, Nat.testBit_two_pow_sub_one]

/-- A vector instruction that reads its tokens, writes one mask register and completes. -/
theorem setK_retire {s : State} (srcs : List (BitVec 5)) {d : BitVec 5} (f : Strand → KReg) (hp : s.cur.pre = none) (hd : d.toNat < 24)
    (hf : ∀ h q o, f { s.cur with hb := h, soon := q, obs := o } = f s.cur) :
    let t := ((readAll s srcs).onCur fun t => t.setK d (f t)).retire
    t.cur.getK d = f s.cur ∧ OnlyMasks s t [d] [] ∧ Stepped s t := by
  intro t
  obtain ⟨h, q, o, e⟩ := readAll_eq s srcs
  have hpre : ((readAll s srcs).onCur fun t => t.setK d (f t)).cur.pre = none := (readAll_pre s srcs).trans hp
  have ht : t = _ := State.retire_goOn hpre
  rw [e, State.onCur, hf] at ht
  rw [ht]
  exact ⟨Strand.getK_setK_self _ _ hd, ⟨fun _ _ => ⟨rfl, rfl⟩, fun k hk => Strand.getK_setK_ne s.cur (f s.cur) (List.ne_of_not_mem_cons hk), rfl⟩, ⟨rfl, rfl⟩⟩

end Sys2Proof.Machine
end

section
/-! `vtype`, `vlmax` and `strip` (R138 to R140). -/

namespace Sys2Proof.Machine
open Sys2Proof.Claims

/-- `vtype` writes the old code and takes the new type (R138). -/
theorem vtype_done {s : State} {d : BitVec 5} {c : BitVec 5} {e : ElTy} (hc : ElTy.ofCode c.toNat = some e) (h : Ready s [d]) :
    ∃ t, exec (.vtype d c) s = .next t ∧ Holds t d (BitVec.ofNat 64 s.cur.vty.code) ∧ t.cur.vty = e ∧
      OnlyScalars { s with cur := { s.cur with vty := e } } t [d] ∧ Stepped s t := by
  have hgo : exec (.vtype d c) s = .next (({ s with cur := { s.cur with vty := e } } : State).onCur fun t => t.setS d (word s.cur.vty.code)).retire := by
    show execVtype d c s = _
    unfold execVtype
    rw [issue_of_ready h [] [d] _ (by simp), hc]
    refine congrArg (fun t => Host.Outcome.next (State.retire { s with cur := t })) ?_
    show { s.cur.setS d (word s.cur.vty.code) with vty := e } = Strand.setS { s.cur with vty := e } d (word s.cur.vty.code)
    unfold Strand.setS
    split <;> rfl
  obtain ⟨t, ht, hd, honly, hstep⟩ := readAll_setS_retire (s := { s with cur := { s.cur with vty := e } }) [] d (word s.cur.vty.code) h.calm
  have hvty : t.cur.vty = e := by rw [honly.rest]; rfl
  exact ⟨t, hgo.trans ht, hd, hvty, honly, ⟨hstep.pc, hstep.loops⟩⟩

/-- `vlmax` writes N (R139). -/
theorem vlmax_writes {s : State} {d : BitVec 5} (h : Ready s [d]) : Writes s (exec (.vlmax d) s) d (word s.cur.n) := by
  have hgo : exec (.vlmax d) s = .next ((readAll s []).onCur fun t => t.setS d (word s.cur.n)).retire :=
    congrArg Host.Outcome.next (issue_of_ready h [] [d] _ (by simp))
  rw [hgo]
  exact readAll_setS_retire [] d _ h.calm

/-- A mask register written besides the scalar registers (R140). -/
theorem setK_onlyMasks {s u : State} {ds : List (BitVec 5)} (k : BitVec 5) (m : KReg) (h : OnlyScalars s u ds) : OnlyMasks s (u.onCur fun t => t.setK k m) [k] ds := by
  have hkregs : u.cur.kregs = s.cur.kregs := by rw [h.rest]; rfl
  refine ⟨h.regs, fun j hj => (Strand.getK_setK_ne u.cur m (List.ne_of_not_mem_cons hj)).trans ?_, ?_⟩
  · unfold Strand.getK
    rw [hkregs]
  · rw [h.rest]
    rfl

/-- `strip` writes min(sa, N) and the mask of that many ones (R140). -/
theorem strip_done {s : State} {d a k : BitVec 5} (hk : k.toNat < 24) (h : VReady s [a, d] []) :
    let c := Nat.min (s.cur.getS a).toNat s.cur.n
    ∃ t, exec (.strip d a k) s = .next t ∧ Holds t d (word c) ∧ t.cur.getK k = firstBits c ∧ OnlyMasks s t [k] [d] ∧ Stepped s t := by
  intro c
  have hn : (readAll s [a]).cur.n = s.cur.n := by rw [Strand.n, readAll_laneCount, readAll_vty]; rfl
  have hgo : exec (.strip d a k) s = .next ((readAll s [a]).onCur fun t => (t.setS d (word c)).setK k (firstBits c)).retire := by
    refine congrArg Host.Outcome.next ((vissue_named _ h (by simp) (by simp)).trans ((if_pos rfl).trans ?_))
    dsimp only
    rw [readAll_getS, hn]
  have hpre : ((readAll s [a]).onCur fun t => (t.setS d (word c)).setK k (firstBits c)).cur.pre = none :=
    (Strand.setS_pre ..).trans ((readAll_pre s [a]).trans h.ready.calm)
  have hpc : ((readAll s [a]).onCur fun t => (t.setS d (word c)).setK k (firstBits c)).cur.pc = s.cur.pc := (Strand.setS_pc ..).trans (readAll_pc ..)
  have hloops : ((readAll s [a]).onCur fun t => (t.setS d (word c)).setK k (firstBits c)).cur.loops = s.cur.loops := (Strand.setS_loops ..).trans (readAll_loops ..)
  rw [State.retire_goOn hpre, hpc, hloops] at hgo
  obtain ⟨hd, honly⟩ := readAll_setS_goOn s [a] d (word c) (endOfBody s.cur.pc s.cur.loops).1 (endOfBody s.cur.pc s.cur.loops).2.1
  exact ⟨_, hgo, hd, Strand.getK_setK_self _ _ hk, setK_onlyMasks k (firstBits c) honly, ⟨rfl, rfl⟩⟩

/-- A control strand has no lanes for a `strip` (R128). -/
theorem strip_noLanes {s : State} {d a k : BitVec 5} (h : Ready s [a, d]) (hl : s.cur.laneCount = 0) :
    exec (.strip d a k) s = .next ((readAll s [a]).faultCode .noLanes 0 0 0) := by
  refine congrArg Host.Outcome.next ((issue_of_ready h [a] [d] _ (by simp)).trans ?_)
  exact if_pos ((readAll_laneCount s [a]).trans hl)

/-- Settles O11: each of the three by what it writes once it has issued. -/
theorem vectorConfig : Obligations.VectorConfig := by
  unfold Obligations.VectorConfig
  refine ⟨fun s d c e hc h => vtype_done hc h, fun s d h => vlmax_writes h, ?_, fun s d a k h hl => strip_noLanes h hl⟩
  intro s d a k hk h c
  obtain ⟨t, hexec, hd, hmask, honly, hstep⟩ := strip_done hk h
  exact ⟨t, hexec, hd, fun i hi => by rw [hmask]; exact firstBits_bit c hi, honly, hstep⟩

end Sys2Proof.Machine
end

section
/-! Compares, mask logic and mask counts (R142 to R144). -/

namespace Sys2Proof.Machine
open Sys2Proof.Claims

/-- What the statement says of a mask destination: its bits at active positions, the others below N kept, those above N cleared (R129). -/
def MaskDone (s : State) (i : Instr) (d k : BitVec 5) (bit : Nat → Bool) : Prop :=
  ∃ t, exec i s = .next t ∧ OnlyMasks s t [d] [] ∧ Stepped s t ∧ ∀ j, j < 2048 → (t.cur.getK d).getLsbD j =
    (if on s.cur k j then bit j else decide (j < s.cur.n) && (s.cur.getK d).getLsbD j)

/-- An instruction that reads its tokens and writes the active bits of a mask register. -/
theorem maskDone_of {s : State} {i : Instr} {srcs : List (BitVec 5)} {d k : BitVec 5} {f : Strand → Nat → Bool} {bit : Nat → Bool} (hp : s.cur.pre = none) (hd : d.toNat < 24)
    (hf : ∀ h q o, f { s.cur with hb := h, soon := q, obs := o } = f s.cur) (hbit : ∀ j, f s.cur j = bit j)
    (hexec : exec i s = .next ((readAll s srcs).onCur fun t => t.setK d (writeMask t.n (t.mask k) (t.getK d) (f t))).retire) : MaskDone s i d k bit := by
  obtain ⟨hmask, honly, hstep⟩ := setK_retire srcs (fun t => writeMask t.n (t.mask k) (t.getK d) (f t)) hp hd fun h q o => by
    dsimp only
    rw [hf]
    rfl
  refine ⟨_, hexec, honly, hstep, fun j hj => ?_⟩
  rw [hmask, writeMask_bit _ _ _ hj, active_mask, hbit]

/-- A relation of the model agrees with a relation of the statement on elements of every type. -/
def RelAgrees (op rel : ElTy → Nat → Nat → Bool) : Prop := ∀ t x y, x < 2 ^ widthOf t → y < 2 ^ widthOf t → op t x y = rel t x y

theorem RelAgrees.refl (rel : ElTy → Nat → Nat → Bool) : RelAgrees rel rel := fun _ _ _ _ _ => rfl

/-- Less-than by the values that elements stand for (R142). -/
theorem relAgrees_lt : RelAgrees ltEl fun t x y => if isF t then ltF (elemVal t x) (elemVal t y) else decide (elInt t x < elInt t y) := by
  intro t x y hx hy
  rw [ltEl, intVal_eq hx, intVal_eq hy]

theorem RelAgrees.swap {op rel : ElTy → Nat → Nat → Bool} (h : RelAgrees op rel) : RelAgrees (fun t x y => op t y x) fun t x y => rel t y x :=
  fun t x y hx hy => h t y x hy hx

theorem RelAgrees.or {op rel op' rel' : ElTy → Nat → Nat → Bool} (h : RelAgrees op rel) (h' : RelAgrees op' rel') :
    RelAgrees (fun t x y => op t x y || op' t x y) fun t x y => rel t x y || rel' t x y :=
  fun t x y hx hy => congrArg₂ (· || ·) (h t x y hx hy) (h' t x y hx hy)

theorem relAgrees_le : RelAgrees leEl fun t x y => (if isF t then ltF (elemVal t x) (elemVal t y) else decide (elInt t x < elInt t y)) || eqEl t x y :=
  relAgrees_lt.or (RelAgrees.refl eqEl)

theorem relAgrees_un : RelAgrees (fun t x y => isNanEl t x || isNanEl t y) fun t x y => decide (elemVal t x = .nan ∨ elemVal t y = .nan) :=
  fun _ _ _ _ _ => (Bool.decide_or ..).symm

/-- What the statement supposes of a compare (R128, R137, R142). -/
structure CmpReady (s : State) (d a b : BitVec 5) (scal : Bool) (types : ElTy → Bool) : Prop where
  mask : d.toNat < 24
  ready : VReady s (if scal then [b] else []) (a :: if scal then [] else [b])
  types : types s.cur.vty = true

/-- What the statement says of a compare (R142). -/
def CmpDone (s : State) (i : Instr) (d a b k : BitVec 5) (scal : Bool) (rel : ElTy → Nat → Nat → Bool) : Prop :=
  MaskDone s i d k fun j => rel s.cur.vty (elemAt (widthOf s.cur.vty) (s.cur.getV a) j)
    (if scal then (s.cur.getS b).toNat % 2 ^ widthOf s.cur.vty else elemAt (widthOf s.cur.vty) (s.cur.getV b) j)

/-- A compare of two vector registers. -/
theorem vcmp_done {s : State} {i : Instr} {d a b k : BitVec 5} {types : ElTy → Bool} {op rel : ElTy → Nat → Nat → Bool}
    (hexec : exec i s = .next (s.vcmp d a b k types op)) (ha : RelAgrees op rel) (h : CmpReady s d a b false types) : CmpDone s i d a b k false rel := by
  obtain ⟨hd, hready, ht⟩ := h
  have hv : VReady s [] [a, b] := hready
  refine maskDone_of (srcs := []) (f := fun t j => op t.vty (elemAt (widthOf t.vty) (t.getV a) j) (elemAt (widthOf t.vty) (t.getV b) j))
    hv.ready.calm hd (fun _ _ _ => rfl) (fun j => ha _ _ _ (elemAt_lt ..) (elemAt_lt ..)) (hexec.trans (congrArg Host.Outcome.next ?_))
  refine (vissue_check _ hv (by simp)).trans ((if_pos ?_).trans (vdone_unbound hv.unbound))
  rw [takes_false, readAll_vty, ht]

/-- A compare with a scalar register. -/
theorem vcmpS_done {s : State} {i : Instr} {d a b k : BitVec 5} {op rel : ElTy → Nat → Nat → Bool}
    (hexec : exec i s = .next (s.vcmpS d a b k op)) (ha : RelAgrees op rel) (h : CmpReady s d a b true intOrFloat) : CmpDone s i d a b k true rel := by
  obtain ⟨hd, hready, ht⟩ := h
  have hv : VReady s [b] [a] := hready
  refine maskDone_of (srcs := [b]) (f := fun t j => op t.vty (elemAt (widthOf t.vty) (t.getV a) j) (t.scalarEl b))
    hv.ready.calm hd (fun _ _ _ => rfl) (fun j => ha _ _ _ (elemAt_lt ..) (Nat.mod_lt _ (Nat.two_pow_pos _))) (hexec.trans (congrArg Host.Outcome.next ?_))
  refine (vissue_check _ hv (by simp)).trans ((if_pos ?_).trans (vdone_unbound fun v hm => (readAll_stream s [b] v).trans (hv.unbound v hm)))
  rw [takes_false, readAll_vty]
  exact ht

/-- Every compare does what R142 says. -/
theorem cmpForm_done {s : State} {i : Instr} {d a b k : BitVec 5} {scal : Bool} {types : ElTy → Bool} {rel : ElTy → Nat → Nat → Bool}
    (hi : cmpForm i = some (d, a, b, k, scal, types, rel)) (h : CmpReady s d a b scal types) : CmpDone s i d a b k scal rel := by
  cases i <;> cases hi
  case vclt => exact vcmp_done rfl relAgrees_lt h
  case vcle => exact vcmp_done rfl relAgrees_le h
  case vcun => exact vcmp_done rfl relAgrees_un h
  case vceq | vcne | vcltz | vclez => exact vcmp_done rfl (RelAgrees.refl _) h
  case vcltS => exact vcmpS_done rfl relAgrees_lt h
  case vcleS => exact vcmpS_done rfl relAgrees_le h
  case vcgtS => exact vcmpS_done rfl relAgrees_lt.swap h
  case vcgeS => exact vcmpS_done rfl relAgrees_le.swap h
  case vceqS | vcneS => exact vcmpS_done rfl (RelAgrees.refl _) h

/-- A mask-logic instruction of masks alone. -/
theorem klog_done {s : State} {i : Instr} {d k : BitVec 5} {f : Strand → Nat → Bool} {bit : Nat → Bool} (hexec : exec i s = .next (s.klog d k f)) (hbit : ∀ j, f s.cur j = bit j)
    (hf : ∀ h q o, f { s.cur with hb := h, soon := q, obs := o } = f s.cur) (hd : d.toNat < 24) (h : VReady s [] []) : MaskDone s i d k bit :=
  maskDone_of (srcs := []) h.ready.calm hd hf hbit (hexec.trans (congrArg Host.Outcome.next ((vissue_check _ h (by simp)).trans (if_pos rfl))))

/-- `kwhile` (R143). -/
theorem kwhile_done {s : State} {d a b : BitVec 5} (hd : d.toNat < 24) (h : VReady s [a, b] []) :
    MaskDone s (.kwhile d a b) d 31 fun i => decide ((s.cur.getS a).toInt + i < (s.cur.getS b).toInt) :=
  maskDone_of (srcs := [a, b]) (f := fun t i => decide ((t.getS a).toInt + i < (t.getS b).toInt)) h.ready.calm hd (fun _ _ _ => rfl) (fun _ => rfl)
    (congrArg Host.Outcome.next ((vissue_check _ h (by simp)).trans (if_pos rfl)))

/-- Every mask-logic instruction does what R143 says. -/
theorem maskForm_done {s : State} {i : Instr} {d k : BitVec 5} {srcs : List (BitVec 5)} {bit : Nat → Bool} (hi : maskForm i s.cur = some (d, k, srcs, bit)) (hd : d.toNat < 24)
    (h : VReady s srcs []) : MaskDone s i d k bit := by
  cases i <;> cases hi
  case kwhile => exact kwhile_done hd h
  case kand | kor | kxor | kandn | knot | kset | kclr => exact klog_done rfl (fun _ => rfl) (fun _ _ _ => rfl) hd h

/-- The positions a mask count looks at (R144). -/
theorem hits_eq (t : Strand) (a k : BitVec 5) : t.hits a k = (List.range t.n).filter fun i => on t k i && (t.getK a).getLsbD i := by
  rw [Strand.hits, activeList_on, List.filter_filter]
  exact List.filter_congr fun i _ => Bool.and_comm ..

/-- A vector instruction that queues a scalar result and raises no flag (R134). -/
theorem vscalar_retire {s : State} (d : BitVec 5) (v : Word) (hp : s.cur.pre = none) :
    let t := (s.vscalar d v).retire
    Queued s t d v ∧ t.cur.fflags = s.cur.fflags ∧ Stepped s t := by
  have hsame : (s.onCur fun t => t.raise 0) = s := congrArg (fun t => { s with cur := t }) s.cur.raise_zero
  have hqueued := vscalar_queued d v 0 hp
  rw [hsame, show s.cur.fflags ||| (0 : Flags) = s.cur.fflags from BitVec.or_zero] at hqueued
  exact hqueued

/-- A mask count that has issued queues its result (R144). -/
theorem maskCount_queued {s : State} {i : Instr} {d : BitVec 5} {g : Strand → Word}
    (hexec : exec i s = .next (s.vissue [] [d] [] [] (fun t => t.takes tyAll false) fun s => (s.vscalar d (g s.cur)).retire)) (h : VReady s [d] []) :
    ∃ t, exec i s = .next t ∧ Queued s t d (g s.cur) ∧ t.cur.fflags = s.cur.fflags ∧ Stepped s t :=
  ⟨_, hexec.trans (congrArg Host.Outcome.next ((vissue_scalar _ h (by simp)).trans (if_pos rfl))), vscalar_retire d _ h.ready.calm⟩

/-- The vector unit delivers the oldest result of the current strand (R134). -/
theorem vectorQueueCompletion_delivers {s : State} {d : BitVec 5} {v : Word} {q : List VecDone} (hq : s.cur.vq = ⟨d, v⟩ :: q) :
    exec (.vectorQueueCompletion s.cur.sid) s = .next { s with cur := Strand.setS { s.cur with vq := q } d v } := by
  have hfind : s.strands.find? (fun t => decide (t.sid = s.cur.sid) && !t.vq.isEmpty) = some s.cur :=
    List.find?_cons_of_pos (by rw [hq, decide_eq_true rfl]; rfl)
  show execVectorQueueCompletion s.cur.sid s = _
  unfold execVectorQueueCompletion
  rw [hfind]
  dsimp only
  rw [State.onUid, if_pos rfl, hq]

/-- Settles O14: compares and mask logic bit by bit, counts by the result they queue, and the delivery of the oldest one. -/
theorem masks : Obligations.Masks := by
  unfold Obligations.Masks
  refine ⟨fun s i d a b k scal types rel hi hd h ht => cmpForm_done hi ⟨hd, h, ht⟩, fun s i d k srcs bit hi hd h => maskForm_done hi hd h, ?_, fun s d v q hq _ => ?_⟩
  · intro s d a k h _ hits
    rw [show hits = s.cur.hits a k from (hits_eq s.cur a k).symm]
    exact ⟨maskCount_queued (g := fun t => word (t.hits a k).length) rfl h, maskCount_queued (g := fun t => match t.hits a k with
      | i :: _ => word i
      | [] => BitVec.allOnes 64) rfl h⟩
  · exact ⟨_, vectorQueueCompletion_delivers hq, ⟨Strand.getS_setS_self .., Strand.isFull_setS_self ..⟩, Strand.setS_vq .., fun r hr => Strand.getS_setS_ne _ _ hr, Strand.setS_pc .., rfl⟩

end Sys2Proof.Machine
end

section
/-! Moving elements (R145). -/

namespace Sys2Proof.Machine
open Sys2Proof.Claims

theorem on_unmasked {t : Strand} {i : Nat} (h : i < t.n) : on t 31 i = true := by
  rw [on, decide_eq_true h]; rfl

/-- What the statement says of a permute (R129, R145). -/
def PermDone (s : State) (i : Instr) (d k : BitVec 5) (f : Nat → Nat) : Prop :=
  ∃ t, exec i s = .next t ∧ Elementwise (widthOf s.cur.vty) s.cur.n (on s.cur k) (s.cur.getV d) (t.cur.getV d) f ∧
    t.cur.fflags = s.cur.fflags ∧ OnlyVectors s t [d] ∧ Stepped s t

/-- A vector instruction that reads its tokens, writes the active positions of one register, raises no flag and completes. -/
theorem putActive_quiet {s : State} (srcs : List (BitVec 5)) (d k : BitVec 5) (f : Strand → VReg → Nat → Nat) (hp : s.cur.pre = none)
    (hf : ∀ h q o, f { s.cur with hb := h, soon := q, obs := o } = f s.cur) :
    let t := ((readAll s srcs).onCur fun t => t.putActive d k fun old i => (f t old i, 0)).retire
    Elementwise (widthOf s.cur.vty) s.cur.n (on s.cur k) (s.cur.getV d) (t.cur.getV d) (fun i => f s.cur (s.cur.getV d) i) ∧
      t.cur.fflags = s.cur.fflags ∧ OnlyVectors s t [d] ∧ Stepped s t := by
  obtain ⟨hels, hflags, honly, hstep⟩ := putActive_retire srcs d k (fun t old i => (f t old i, 0)) hp fun h q o => by rw [hf]
  refine ⟨hels, hflags.trans ?_, honly, hstep⟩
  rw [flagsOver_zero]
  exact BitVec.or_zero

/-- A permute by `vmove` does what its form says where its results are the form's modulo 2^w. -/
theorem vmove_done {s : State} {i : Instr} {d k : BitVec 5} {ss vs : List (BitVec 5)} {g : Strand → Nat → Nat} {f : Nat → Nat} (hexec : exec i s = .next (s.vmove d k ss vs g))
    (hg : ∀ h q o, g { s.cur with hb := h, soon := q, obs := o } = g s.cur) (hgf : ∀ j, g s.cur j % 2 ^ widthOf s.cur.vty = f j % 2 ^ widthOf s.cur.vty)
    (h : VReady s ss (d :: vs)) (ht : notBlock s.cur.vty = true) : PermDone s i d k f := by
  have hmove : s.vmove d k ss vs g = ((readAll s ss).onCur fun t => t.putActive d k fun _ i => (g t i, 0)).retire := by
    refine (vissue_check _ h fun v hv => ?_).trans ((if_pos ?_).trans (vdone_unbound fun v hv => ?_))
    · simpa [or_comm] using hv
    · rw [takes_false, readAll_vty]
      exact ht
    · exact (readAll_stream s ss v).trans (h.unbound v (List.mem_cons_of_mem d hv))
  obtain ⟨hels, hrest⟩ := putActive_quiet ss d k (fun t _ => g t) h.ready.calm fun b q o => funext fun _ => hg b q o
  exact ⟨_, hexec.trans (congrArg _ hmove), elementwise_congr hels hgf, hrest⟩

/-- The number of active positions below a position (R145). -/
theorem activeBelow_eq (t : Strand) (k : BitVec 5) (i : Nat) : activeBelow (t.mask k) t.n i = ((List.range i).filter (on t k)).length := by
  unfold activeBelow
  exact congrArg List.length (List.filter_congr fun j _ => active_mask t k j)

/-- A list filled up with zeros to n elements is its elements by position, 0 past its end. -/
theorem append_zeros (l : List Nat) {n : Nat} (h : l.length ≤ n) : l ++ List.replicate (n - l.length) 0 = (List.range n).map fun i => l.getD i 0 := by
  refine List.ext_getElem (by simp; omega) fun i hi _ => ?_
  rw [List.getElem_map, List.getElem_range]
  by_cases hl : i < l.length
  · rw [List.getElem_append_left hl, List.getD_eq_getElem _ _ hl]
  · rw [List.getElem_append_right (Nat.le_of_not_lt hl), List.getElem_replicate, List.getD_eq_default _ _ (Nat.le_of_not_lt hl)]

/-- The active elements of a register, in ascending order (R145). -/
def Strand.activeEls (t : Strand) (a k : BitVec 5) : List Nat := (activeList (t.mask k) t.n).map (elemAt (widthOf t.vty) (t.getV a))

theorem Strand.activeEls_length_le (t : Strand) (a k : BitVec 5) : (t.activeEls a k).length ≤ t.n := by
  rw [Strand.activeEls, List.length_map]
  exact (List.length_filter_le _ _).trans_eq List.length_range

theorem Strand.activeEls_eq (t : Strand) (a k : BitVec 5) : t.activeEls a k = ((List.range t.n).filter (on t k)).map (t.elOr0 a) := by
  rw [Strand.activeEls, activeList_on]
  exact List.map_congr_left fun i hi => (if_pos (List.mem_range.mp (List.mem_of_mem_filter hi))).symm

/-- `vcmprs` packs the active elements and fills up with zeros (R145). -/
theorem vcmprs_done {s : State} {d a k : BitVec 5} (h : VReady s [] [d, a]) (ht : notBlock s.cur.vty = true) :
    PermDone s (.vcmprs d a k) d 31 fun i => (s.cur.activeEls a k).getD i 0 := by
  let els := s.cur.activeEls a k
  let y := s.cur.setV d (putEls (widthOf s.cur.vty) (s.cur.getV d) (els ++ List.replicate (s.cur.n - els.length) 0))
  have hexec : exec (.vcmprs d a k) s = .next ({ s with cur := y } : State).retire := by
    refine congrArg Host.Outcome.next ((vissue_check _ h fun v hv => by simpa [or_comm] using hv).trans ((if_pos ?_).trans (vdone_unbound fun v hv => ?_)))
    · rw [takes_false, readAll_vty]
      exact ht
    · exact h.unbound v (List.mem_cons_of_mem d hv)
  have hels : els ++ List.replicate (s.cur.n - els.length) 0 = (List.range s.cur.n).map fun i => if on s.cur 31 i then els.getD i 0 else elemAt (widthOf s.cur.vty) (s.cur.getV d) i := by
    rw [append_zeros els (s.cur.activeEls_length_le a k)]
    exact List.map_congr_left fun i hi => (if_pos (on_unmasked (List.mem_range.mp hi))).symm
  obtain ⟨hvec, hflags, honly, hstep⟩ := onlyVectors_retire (s := s) (y := y) [d] h.ready.calm rfl fun v hv => Strand.getV_setV_ne _ _ (List.ne_of_not_mem_cons hv)
  refine ⟨_, hexec, ?_, hflags, honly, hstep⟩
  rw [hvec d, Strand.getV_setV_self, hels]
  exact putEls_elementwise _ (on s.cur 31) _ s.cur.n_mul_width

/-- Every permute does what R145 says. -/
theorem permForm_done {s : State} {i : Instr} {d k : BitVec 5} {srcs vecs : List (BitVec 5)} {f : Nat → Nat} (hi : permForm i s.cur = some (d, k, srcs, vecs, f))
    (h : VReady s srcs (d :: vecs)) (ht : notBlock s.cur.vty = true) : PermDone s i d k f := by
  cases i <;> cases hi
  case vcmprs a k => exact s.cur.activeEls_eq a k ▸ vcmprs_done h ht
  case vzipl a b => exact vmove_done rfl (fun _ _ _ => rfl) (fun j => by simp only [Strand.zipAt, Nat.zero_add]; rfl) h ht
  case vziph a b => exact vmove_done rfl (fun _ _ _ => rfl) (fun j => by simp only [Strand.zipAt, Nat.add_comm (s.cur.n / 2)]; rfl) h ht
  case vexpnd a => exact vmove_done rfl (fun _ _ _ => rfl) (fun j => by rw [activeBelow_eq]; rfl) h ht
  case viota => exact vmove_done rfl (fun _ _ _ => rfl) (fun j => by rw [activeBelow_eq, Nat.mod_mod]) h ht
  case vbcast | vslup | vsldn | vperm | vunzpe | vunzpo | vrev => exact vmove_done rfl (fun _ _ _ => rfl) (fun _ => rfl) h ht

/-- The issue check of `vext` and `vins` (R137, R145). -/
theorem numOk_readAll {s : State} (srcs : List (BitVec 5)) (b : BitVec 5) (ht : notBlock s.cur.vty = true) :
    (readAll s srcs).cur.numOk b = decide ((s.cur.getS b).toNat < s.cur.n) := by
  obtain ⟨h, q, o, e⟩ := readAll_eq s srcs
  rw [e, Strand.numOk, takes_false, show tyIFE _ = true from ht, Bool.true_and]
  rfl

/-- A result queued once tokens were read (R134). -/
theorem queued_of_readAll {s t : State} {srcs : List (BitVec 5)} {d : BitVec 5} {v : Word} (h : Queued (readAll s srcs) t d v) : Queued s t d v := by
  obtain ⟨hb, q, o, e⟩ := readAll_eq s srcs
  rw [e] at h
  exact ⟨h.empty, h.queue, h.scalars, h.rest⟩

theorem stepped_of_readAll {s t : State} {srcs : List (BitVec 5)} (h : Stepped (readAll s srcs) t) : Stepped s t := by
  obtain ⟨hb, q, o, e⟩ := readAll_eq s srcs
  rw [e] at h
  exact ⟨h.pc, h.loops⟩

/-- `vext` queues an element for its scalar register (R134, R145). -/
theorem vext_queued {s : State} {d a b : BitVec 5} (h : VReady s [b, d] [a]) (ht : notBlock s.cur.vty = true) (hn : (s.cur.getS b).toNat < s.cur.n) :
    ∃ t, exec (.vext d a b) s = .next t ∧ Queued s t d (toScalar s.cur.vty (elemAt (widthOf s.cur.vty) (s.cur.getV a) (s.cur.getS b).toNat)) ∧ t.cur.fflags = s.cur.fflags ∧ Stepped s t := by
  let v := toScalar s.cur.vty (elemAt (widthOf s.cur.vty) (s.cur.getV a) (s.cur.getS b).toNat)
  have hval : extendScalar s.cur.vty (s.cur.elOr0 a (s.cur.getS b).toNat) = v := by
    rw [extendScalar_eq, show s.cur.elOr0 a (s.cur.getS b).toNat = _ from if_pos hn]
  obtain ⟨hb, q, o, e⟩ := readAll_eq s [b]
  have hexec : exec (.vext d a b) s = .next ((readAll s [b]).vscalar d v).retire := by
    refine congrArg Host.Outcome.next ((vissue_named _ h (by simp) (by simp)).trans ((if_pos ?_).trans ((vdone_unbound fun x hx => ?_).trans ?_)))
    · rw [numOk_readAll [b] b ht, decide_eq_true hn]
    · refine Eq.trans ?_ (h.unbound x hx)
      rw [e]
      show Strand.stream (Strand.markEmpty _ d) x = _
      rw [Strand.markEmpty_eq]
      rfl
    · rw [← hval, e]
      rfl
  obtain ⟨hqueued, hflags, hstep⟩ := vscalar_retire (s := readAll s [b]) d v ((readAll_pre s [b]).trans h.ready.calm)
  exact ⟨_, hexec, queued_of_readAll hqueued, hflags.trans (by rw [e]), stepped_of_readAll hstep⟩

/-- A destination written everywhere, with the old element put back where a test fails, is one written where the test holds. -/
theorem elementwise_narrow {w n : Nat} {on p : Nat → Bool} {old new : VReg} {f : Nat → Nat} (h : Elementwise w n on old new fun i => if p i then f i else elemAt w old i)
    (hon : ∀ i, i < n → on i = true) : Elementwise w n p old new f := by
  refine ⟨fun i hi => ?_, h.2⟩
  rw [h.1 i hi, if_pos (hon i hi)]
  dsimp only
  split
  · rfl
  · exact elemAt_mod ..

/-- `vins` writes one element (R145). -/
theorem vins_done {s : State} {d a b : BitVec 5} (h : VReady s [a, b] [d]) (ht : notBlock s.cur.vty = true) (hn : (s.cur.getS b).toNat < s.cur.n) :
    ∃ t, exec (.vins d a b) s = .next t ∧
      Elementwise (widthOf s.cur.vty) s.cur.n (fun i => decide (i = (s.cur.getS b).toNat)) (s.cur.getV d) (t.cur.getV d) (fun _ => (s.cur.getS a).toNat) ∧
      t.cur.fflags = s.cur.fflags ∧ OnlyVectors s t [d] ∧ Stepped s t := by
  let put (t : Strand) (old : VReg) (i : Nat) : Nat := if i = (t.getS b).toNat then t.scalarEl a else elemAt (widthOf t.vty) old i
  have hexec : exec (.vins d a b) s = .next ((readAll s [a, b]).onCur fun t => t.putActive d 31 fun old i => (put t old i, 0)).retire :=
    congrArg Host.Outcome.next ((vissue_check _ h (by simp)).trans (if_pos (by rw [numOk_readAll [a, b] b ht, decide_eq_true hn])))
  obtain ⟨hels, hrest⟩ := putActive_quiet [a, b] d 31 put h.ready.calm fun _ _ _ => rfl
  refine ⟨_, hexec, elementwise_congr (f := fun _ => s.cur.scalarEl a) (elementwise_narrow ?_ fun i hi => on_unmasked hi) fun _ => Nat.mod_mod _ _, hrest⟩
  simpa [put] using hels

/-- Settles O15: each permute by its form; `vext` and `vins` on both sides of N. -/
theorem permutes : Obligations.Permutes := by
  unfold Obligations.Permutes
  refine ⟨fun s i d k srcs vecs f hi h ht => permForm_done hi h ht, ?_⟩
  intro s d a b ht w n
  refine ⟨fun h hn => vext_queued h ht hn, fun h hn => vins_done h ht hn, fun h hn => ?_, fun h hn => ?_⟩
  · exact congrArg Host.Outcome.next ((vissue_named _ h (by simp) (by simp)).trans (if_neg (by rw [numOk_readAll [b] b ht]; simpa using hn)))
  · exact congrArg Host.Outcome.next ((vissue_check _ h (by simp)).trans (if_neg (by rw [numOk_readAll [a, b] b ht]; simpa using hn)))

end Sys2Proof.Machine
end

section
/-! Elements loaded and stored one after the other in the own scratchpad (R152, R153, R163, R268). -/

namespace Sys2Proof.Machine
open Sys2Proof.Claims

theorem ownAccess_knowing {s : State} {va : Word} {n : Nat} (h : OwnAccess s va n) (b q : Nat) (o : List Nat) : OwnAccess (s.knowing b q o) va n :=
  ⟨h.size, h.window, h.range, h.aligned, h.lease, h.plain, h.written, h.clean, h.apart⟩

/-- An element of a vector load from the own scratchpad (R153, R268). -/
theorem loadEl_vecLoad_own {s : State} {va : Word} {n : Nat} (h : OwnAccess s va n) (hm : NoMarks s) (hk : AllKnown s (ownLoc s va) n) :
    ∃ q o, s.loadEl va n .vecLoad = (s.knowing s.cur.hb q o, .ok (ownValue s va n) false) := by
  have hkind : s.loadEl va n .vecLoad = s.loadEl va n .load := by
    unfold State.loadEl
    rw [check_own h (nd := needOf .vecLoad) rfl, check_own h (nd := needOf .load) rfl]
  rw [hkind]
  exact loadEl_own h hm hk

/-- What a sequence of loads gives that all pass (R153). -/
def gotAll (s : State) (n : Nat) (l : List VAcc) : VGot := ⟨l.map fun x => (x.i, x.j, ownValue s x.va n), false, .done⟩

/-- Loads from the own scratchpad whose writes are all known all pass (R153). -/
theorem loadSeq_own {s : State} {n : Nat} (rest : Bool) (hm : NoMarks s) (l : List VAcc) : ∀ (q : Nat) (o : List Nat), (∀ x ∈ l, OwnAccess s x.va n ∧ AllKnown s (ownLoc s x.va) n) →
    ∃ q' o', (s.knowing s.cur.hb q o).loadSeq n rest l = (s.knowing s.cur.hb q' o', gotAll s n l) := by
  induction l with
  | nil => exact fun q o _ => ⟨q, o, rfl⟩
  | cons x l ih =>
    intro q o h
    obtain ⟨hown, hknown⟩ := h x List.mem_cons_self
    obtain ⟨q1, o1, hel⟩ := loadEl_vecLoad_own (ownAccess_knowing hown s.cur.hb q o) hm hknown
    obtain ⟨q', o', hl⟩ := ih q1 o1 fun y hy => h y (List.mem_cons_of_mem _ hy)
    refine ⟨q', o', ?_⟩
    rw [State.loadSeq, hel]
    dsimp only
    rw [show ((s.knowing s.cur.hb q o).knowing (s.knowing s.cur.hb q o).cur.hb q1 o1).loadSeq n rest l = (s.knowing s.cur.hb q' o', gotAll s n l) from hl]
    rfl

/-- The same once the strand's tokens are read. -/
theorem loadSeq_readAll {s : State} {n : Nat} (srcs : List (BitVec 5)) (rest : Bool) (hm : NoMarks s) {l : List VAcc} (h : ∀ x ∈ l, OwnAccess s x.va n ∧ AllKnown s (ownLoc s x.va) n) :
    ∃ b q o, (readAll s srcs).loadSeq n rest l = (s.knowing b q o, gotAll s n l) := by
  obtain ⟨b, q, o, e⟩ := readAll_eq_knowing s srcs
  have hread : ∀ x ∈ l, OwnAccess (s.knowing b q o) x.va n ∧ AllKnown (s.knowing b q o) (ownLoc (s.knowing b q o) x.va) n := fun x hx => by
    have hknown := allKnown_readAll srcs (h x hx).2
    rw [e] at hknown
    exact ⟨ownAccess_knowing (h x hx).1 b q o, hknown⟩
  obtain ⟨q', o', hl⟩ := loadSeq_own (s := s.knowing b q o) rest hm l q o hread
  rw [e]
  exact ⟨b, q', o', hl⟩

/-- Where the accesses of elements and fields are at addresses given by their numbers, each finds what was loaded for it. -/
theorem gotAll_get {s : State} {n : Nat} {l : List VAcc} {addr : Nat → Nat → Word} (hl : ∀ x ∈ l, x.va = addr x.i x.j) {i j : Nat} (h : ⟨i, j, addr i j⟩ ∈ l) :
    (gotAll s n l).get? i j = some (ownValue s (addr i j) n) := by
  have hsome : (l.find? fun x => decide (x.i = i ∧ x.j = j)).isSome = true := List.find?_isSome.mpr ⟨_, h, decide_eq_true ⟨rfl, rfl⟩⟩
  obtain ⟨y, hy⟩ := Option.isSome_iff_exists.mp hsome
  obtain ⟨hi, hj⟩ : y.i = i ∧ y.j = j := by simpa using List.find?_some hy
  have hva := hl y (List.mem_of_find?_eq_some hy)
  unfold VGot.get? gotAll
  rw [List.find?_map]
  show Option.map _ (Option.map _ (l.find? fun x => decide (x.i = i ∧ x.j = j))) = _
  rw [hy, Option.map_some, Option.map_some, hva, hi, hj]

/-- The state with stores of the current strand added to those pending (R264). -/
def State.withPend (s : State) (ps : List Pend) : State := s.onCur fun t => { t with pend := t.pend ++ ps }

theorem withPend_own {s : State} {va : Word} {n : Nat} (h : OwnAccess s va n) (ps : List Pend) : OwnAccess (s.withPend ps) va n :=
  ⟨h.size, h.window, h.range, h.aligned, h.lease, h.plain, h.written, h.clean, h.apart⟩

theorem withPend_nil (s : State) : s.withPend [] = s := by simp [State.withPend, State.onCur]

theorem withPend_withPend (s : State) (ps qs : List Pend) : (s.withPend ps).withPend qs = s.withPend (ps ++ qs) := by
  simp [State.withPend, State.onCur]

/-- Stores to the own scratchpad join the pending stores in order (R163, R264). -/
theorem storeSeq_own {s : State} {n : Nat} (f : Nat → Nat → Nat) (l : List VAcc) : ∀ (ps : List Pend), (∀ x ∈ l, OwnAccess s x.va n) →
    (s.withPend ps).storeSeq n f l = (s.withPend (ps ++ l.map fun x => pendOf s x.va n (f x.i x.j)), none) := by
  induction l with
  | nil => exact fun ps _ => by rw [List.map_nil, List.append_nil]; rfl
  | cons x l ih =>
    intro ps h
    rw [State.storeSeq, storeEl_own (withPend_own (h x List.mem_cons_self) ps) (f x.i x.j) (kind := .vecStore) rfl]
    dsimp only
    have hnext := ih (ps ++ [pendOf s x.va n (f x.i x.j)]) fun y hy => h y (List.mem_cons_of_mem _ hy)
    rw [← withPend_withPend, List.append_assoc] at hnext
    exact hnext

/-- The same once the strand's tokens are read. -/
theorem storeSeq_readAll {s : State} {n : Nat} (srcs : List (BitVec 5)) (f : Nat → Nat → Nat) {l : List VAcc} (h : ∀ x ∈ l, OwnAccess s x.va n) :
    (readAll s srcs).storeSeq n f l = ((readAll s srcs).withPend (l.map fun x => pendOf s x.va n (f x.i x.j)), none) := by
  have hseq := storeSeq_own f l [] fun x hx => (h x hx).of_readAll srcs
  rw [withPend_nil, List.nil_append] at hseq
  simp only [pendOf_readAll] at hseq
  exact hseq

/-- A vector store has left pending stores and flags, and completed. -/
theorem withPend_retire {s : State} (b q : Nat) (o : List Nat) (ps : List Pend) (fl : Flags) (hp : s.cur.pre = none) :
    let t := (((s.knowing b q o).withPend ps).onCur fun t => t.raise fl).retire
    t.cur.pend = s.cur.pend ++ ps ∧ t.cur.fflags = s.cur.fflags ||| fl ∧
      OnlyScalars { s with cur := { s.cur with pend := t.cur.pend, fflags := t.cur.fflags } } t [] ∧ Stepped s t := by
  intro t
  have hx : (((s.knowing b q o).withPend ps).onCur fun t => t.raise fl) =
      { s with cur := { s.cur with hb := b, soon := q, obs := o, pend := s.cur.pend ++ ps, fflags := s.cur.fflags ||| fl } } := rfl
  have ht : t = _ := State.retire_goOn (by rw [hx]; exact hp)
  rw [hx] at ht
  rw [ht]
  exact ⟨rfl, rfl, ⟨fun _ _ => ⟨rfl, rfl⟩, rfl⟩, ⟨rfl, rfl⟩⟩

end Sys2Proof.Machine
end

section
/-! Vector loads (R152, R153, R155, R156). -/

namespace Sys2Proof.Machine
open Sys2Proof.Claims

/-- What a vector load leaves: the active positions loaded, `ffx` as it is to be, nothing else changed. -/
def LoadDone (s : State) (i : Instr) (d k : BitVec 5) (addr : Nat → Word) (ffx : BitVec 16) : Prop :=
  ∃ t, exec i s = .next t ∧ Elementwise (widthOf s.cur.vty) s.cur.n (on s.cur k) (s.cur.getV d) (t.cur.getV d) (fun j => ownValue s (addr j) (widthOf s.cur.vty / 8)) ∧
    t.cur.ffx = ffx ∧ t.cur.fflags = s.cur.fflags ∧ OnlyVectors { s with cur := { s.cur with ffx := t.cur.ffx } } t [d] ∧ Stepped s t

/-- `ffx` written beside vector registers. -/
theorem onlyVectors_ffx {s t : State} {x : BitVec 16} {vs : List (BitVec 5)} (h : OnlyVectors { s with cur := { s.cur with ffx := x } } t vs) :
    t.cur.ffx = x ∧ OnlyVectors { s with cur := { s.cur with ffx := t.cur.ffx } } t vs := by
  have hx : t.cur.ffx = x := by rw [h.rest]; rfl
  exact ⟨hx, by rw [hx]; exact h⟩

/-- The active positions written with what was loaded for them, `ffx` written beside. -/
theorem loadDone_of {s : State} {i : Instr} {d k : BitVec 5} {addr : Nat → Word} {ffx : BitVec 16} {b q : Nat} {o : List Nat} (hp : s.cur.pre = none)
    (hexec : exec i s = .next ((s.knowing b q o).onCur fun t => { t.putActive d k fun _ j => (ownValue s (addr j) (widthOf s.cur.vty / 8), 0) with ffx := ffx }).retire) :
    LoadDone s i d k addr ffx := by
  let u : State := { s with cur := { s.cur with ffx := ffx } }
  obtain ⟨hels, hflags, honly, hstep⟩ := putActive_knowing_retire (s := u) b q o d k (fun j => (ownValue s (addr j) (widthOf s.cur.vty / 8), 0)) hp
  rw [flagsOver_zero] at hflags
  obtain ⟨hffx, honly⟩ := onlyVectors_ffx honly
  exact ⟨_, hexec, hels, hffx, hflags.trans BitVec.or_zero, honly, ⟨hstep.pc, hstep.loops⟩⟩

/-- The addresses of a vector load are those of its active positions, all in the own scratchpad and known (R94, R268). -/
def OwnLoads (s : State) (k : BitVec 5) (addr : Nat → Word) : Prop :=
  ∀ j, on s.cur k j = true → OwnAccess s (addr j) (widthOf s.cur.vty / 8) ∧ AllKnown s (ownLoc s (addr j)) (widthOf s.cur.vty / 8)

/-- The loads of a vector instruction, and what its active positions find among them. -/
theorem vecLoads_own {s : State} {k : BitVec 5} {addr : Nat → Word} (srcs : List (BitVec 5)) (rest : Bool) (hm : NoMarks s) (h : OwnLoads s k addr) :
    ∃ b q o, (readAll s srcs).loadSeq (widthOf s.cur.vty / 8) rest (s.cur.accs k addr) = (s.knowing b q o, gotAll s (widthOf s.cur.vty / 8) (s.cur.accs k addr)) ∧
      ∀ j, on s.cur k j = true → (gotAll s (widthOf s.cur.vty / 8) (s.cur.accs k addr)).get? j 0 = some (ownValue s (addr j) (widthOf s.cur.vty / 8)) := by
  rw [accs_on]
  obtain ⟨b, q, o, hl⟩ := loadSeq_readAll srcs rest hm (l := ((List.range s.cur.n).filter (on s.cur k)).map fun i => ⟨i, 0, addr i⟩)
    (List.forall_mem_map.mpr fun j hj => h j (List.mem_filter.mp hj).2)
  refine ⟨b, q, o, hl, fun j hj => gotAll_get (addr := fun i _ => addr i) (List.forall_mem_map.mpr fun _ _ => rfl) ?_⟩
  exact List.mem_map.mpr ⟨j, List.mem_filter.mpr ⟨List.mem_range.mpr (on_lt hj), hj⟩, rfl⟩

/-- The addresses that a load's form gives are the same once tokens are read. -/
theorem accs_readAll {s : State} (srcs : List (BitVec 5)) (k : BitVec 5) {f : Strand → Nat → Word} (hf : ∀ h q o, f { s.cur with hb := h, soon := q, obs := o } = f s.cur) :
    (readAll s srcs).cur.accs k (f (readAll s srcs).cur) = s.cur.accs k (f s.cur) := by
  obtain ⟨h, q, o, e⟩ := readAll_eq s srcs
  rw [e]
  dsimp only
  rw [hf]
  rfl

/-- The elements of a vector load, put at their positions. -/
theorem putLoaded (s : State) (b q : Nat) (o : List Nat) (d k : BitVec 5) {g : VGot} {addr : Nat → Word} {n : Nat} (hget : ∀ j, on s.cur k j = true → g.get? j 0 = some (ownValue s (addr j) n)) :
    ((s.knowing b q o).cur.putActive d k fun old j => ((g.get? j 0).getD (elemAt (widthOf s.cur.vty) old j), 0)) =
      (s.knowing b q o).cur.putActive d k fun _ j => (ownValue s (addr j) n, 0) :=
  Strand.putActive_congr _ d k fun j hj => by rw [hget j hj]; rfl

/-- A vector load by `vload` (R152, R153). -/
theorem vload_done {s : State} {i : Instr} {d k : BitVec 5} {ss vs : List (BitVec 5)} {types : ElTy → Bool} {f : Strand → Nat → Word} {addr : Nat → Word}
    (hexec : exec i s = .next (s.vload d k ss vs types f)) (hf : ∀ h q o, f { s.cur with hb := h, soon := q, obs := o } = f s.cur) (hfa : f s.cur = addr)
    (h : VReady s ss (d :: vs)) (hmst : s.mstQueued = false) (ht : types s.cur.vty = true) (hm : NoMarks s) (hown : OwnLoads s k addr) : LoadDone s i d k addr s.cur.ffx := by
  subst hfa
  obtain ⟨b, q, o, hl, hget⟩ := vecLoads_own ss true hm hown
  refine loadDone_of (b := b) (q := q) (o := o) h.ready.calm (hexec.trans (congrArg Host.Outcome.next ?_))
  unfold State.vload
  rw [vissue_check _ h (fun v hv => by simpa [or_comm] using hv), takes_false, readAll_vty, if_pos ht, afterMst_readAll ss hmst]
  dsimp only
  rw [readAll_vty, accs_readAll ss k hf, hl]
  let y := (s.knowing b q o).cur.putActive d k fun old j => (((gotAll s (widthOf s.cur.vty / 8) (s.cur.accs k (f s.cur))).get? j 0).getD (elemAt (widthOf s.cur.vty) old j), 0)
  refine (vdone_unbound (s := { s.knowing b q o with cur := y }) fun v hv => h.unbound v (List.mem_cons_of_mem d hv)).trans ?_
  exact congrArg (fun y => State.retire { s.knowing b q o with cur := y }) (putLoaded s b q o d k hget)

/-- `vldff` no element of which fails (R156). -/
theorem vldff_done {s : State} {d a k o : BitVec 5} {addr : Nat → Word} (haddr : s.cur.unitAddr a o = addr)
    (h : VReady s [a] [d]) (hmst : s.mstQueued = false) (ht : tyIFE s.cur.vty = true) (hm : NoMarks s) (hown : OwnLoads s k addr) :
    LoadDone s (.vldff d a k o) d k addr (BitVec.ofNat 16 s.cur.n) := by
  subst haddr
  obtain ⟨b, q, l, hl, hget⟩ := vecLoads_own [a] false hm hown
  refine loadDone_of (b := b) (q := q) (o := l) h.ready.calm ?_
  show execVldff d a k o s = _
  unfold execVldff
  rw [vissue_check _ h (by simp), takes_false, readAll_vty, if_pos ht, afterMst_readAll [a] hmst]
  dsimp only
  rw [readAll_vty, accs_readAll (f := fun t => t.unitAddr a o) [a] k fun _ _ _ => rfl, hl]
  have hn : (readAll s [a]).cur.n = s.cur.n := by obtain ⟨hb, q', o', e⟩ := readAll_eq s [a]; rw [e]; rfl
  rw [hn]
  exact congrArg (fun y : Strand => Host.Outcome.next (State.retire { s.knowing b q l with cur := { y with ffx := BitVec.ofNat 16 s.cur.n } })) (putLoaded s b q l d k hget)

/-- `vld` and `vldff` give the addresses of R152. -/
theorem unitAddr_eq (t : Strand) (a o : BitVec 5) :
    t.unitAddr a o = fun i => t.getS a + BitVec.ofInt 64 (o.toInt * 64) + BitVec.ofNat 64 (i * (widthOf t.vty / 8)) := by
  funext i
  rw [Strand.unitAddr, off5_eq]
  rfl

end Sys2Proof.Machine
end

section
/-! Segment loads (R157). -/

namespace Sys2Proof.Machine
open Sys2Proof.Claims

/-- The registers of a segment form are different registers. -/
theorem segReg_ne {d : BitVec 5} {j m : Nat} (hm : d.toNat + m < 32) (hj : j < m) : d + BitVec.ofNat 5 m ≠ d + BitVec.ofNat 5 j := by
  intro h
  have := congrArg BitVec.toNat h
  simp only [BitVec.toNat_add, BitVec.toNat_ofNat] at this
  omega

/-- What the first m registers of a segment load have become: field j of each active element in register d + j, the flags of all of them raised (R122, R157). -/
structure FieldsPut (t u : Strand) (d k : BitVec 5) (x : Nat → Nat → Nat × Flags) (m : Nat) : Prop where
  rest : u = { t with vregs := u.vregs, fflags := u.fflags }
  fields : ∀ j, j < m → Elementwise (widthOf t.vty) t.n (on t k) (t.getV (d + BitVec.ofNat 5 j)) (u.getV (d + BitVec.ofNat 5 j)) fun i => (x j i).1
  others : ∀ v, v ∉ (List.range m).map (fun j => d + BitVec.ofNat 5 j) → u.getV v = t.getV v
  flags : u.fflags = (List.range m).foldl (fun a j => a ||| flagsOver t.n (on t k) fun i => (x j i).2) t.fflags

theorem FieldsPut.zero (t : Strand) (d k : BitVec 5) (x : Nat → Nat → Nat × Flags) : FieldsPut t t d k x 0 := ⟨rfl, fun _ h => absurd h (Nat.not_lt_zero _), fun _ _ => rfl, rfl⟩

/-- One register more. -/
theorem FieldsPut.succ {t u : Strand} {d k : BitVec 5} {x : Nat → Nat → Nat × Flags} {m : Nat} (h : FieldsPut t u d k x m) (hm : d.toNat + m < 32) :
    FieldsPut t (u.putActive (d + BitVec.ofNat 5 m) k fun _ => x m) d k x (m + 1) := by
  have hnew := h.others (d + BitVec.ofNat 5 m) fun hmem => by
    obtain ⟨j, hj, he⟩ := List.mem_map.mp hmem
    exact segReg_ne hm (List.mem_range.mp hj) he.symm
  obtain ⟨hels, hflags⟩ := u.putActive_spec (d + BitVec.ofNat 5 m) k fun _ => x m
  have hsame : widthOf u.vty = widthOf t.vty ∧ u.n = t.n ∧ on u k = on t k := by rw [h.rest]; exact ⟨rfl, rfl, rfl⟩
  obtain ⟨hw, hn, hon⟩ := hsame
  rw [hw, hn, hon, hnew] at hels
  rw [hn, hon, h.flags] at hflags
  have hframe {v : BitVec 5} (hv : v ≠ d + BitVec.ofNat 5 m) : (u.putActive (d + BitVec.ofNat 5 m) k fun _ => x m).getV v = u.getV v := Strand.getV_setV_ne u _ hv
  refine ⟨?_, fun j hj => ?_, fun v hv => ?_, ?_⟩
  · rw [Strand.putActive_eq, h.rest]
  · rcases Nat.lt_succ_iff_lt_or_eq.mp hj with hlt | rfl
    · rw [hframe (segReg_ne hm hlt).symm]
      exact h.fields j hlt
    · exact hels
  · rw [List.range_succ, List.map_append, List.mem_append, not_or] at hv
    rw [hframe (List.ne_of_not_mem_cons hv.2), h.others v hv.1]
  · rw [hflags, List.range_succ, List.foldl_append]
    rfl

/-- The registers of a segment load written one after the other with what was loaded (R157). -/
theorem putFields {t : Strand} {d k : BitVec 5} {f : ElTy} {g : VGot} {val : Nat → Nat → Nat} {cnt : Nat} (hget : ∀ i j, on t k i = true → j < cnt → g.get? i j = some (val i j)) :
    ∀ m, m ≤ cnt → d.toNat + m ≤ 32 →
      FieldsPut t ((List.range m).foldl (fun t j => t.putField d k f g j) t) d k (fun j i => segConv f t.vty t.frm (val i j)) m := by
  intro m
  induction m with
  | zero => exact fun _ _ => FieldsPut.zero t d k _
  | succ m ih =>
    intro hm hd
    have h := ih (Nat.le_of_succ_le hm) (by omega)
    rw [List.range_succ, List.foldl_append]
    generalize (List.range m).foldl (fun t j => t.putField d k f g j) t = u at h ⊢
    have hput : u.putField d k f g m = u.putActive (d + BitVec.ofNat 5 m) k fun _ i => segConv f t.vty t.frm (val i m) := by
      refine Strand.putActive_congr u _ k fun i hi => ?_
      rw [h.rest] at hi ⊢
      rw [hget i m hi (Nat.lt_of_succ_le hm)]
    rw [List.foldl_cons, List.foldl_nil, hput]
    exact h.succ (by omega)

/-- The accesses of a segment form, by element and field (R152). -/
theorem segAccs_eq (t : Strand) (a k : BitVec 5) (cnt fb : Nat) : t.segAccs a k cnt fb =
    (((List.range t.n).filter (on t k)).flatMap fun i => (List.range cnt).map fun j => (i, j)).map fun p => ⟨p.1, p.2, t.getS a + BitVec.ofNat 64 ((p.1 * cnt + p.2) * fb)⟩ := by
  rw [Strand.segAccs, activeList_on, List.map_flatMap]
  simp only [List.map_map]
  rfl

theorem mem_places {t : Strand} {k : BitVec 5} {cnt : Nat} {p : Nat × Nat} :
    p ∈ (((List.range t.n).filter (on t k)).flatMap fun i => (List.range cnt).map fun j => (i, j)) ↔ on t k p.1 = true ∧ p.2 < cnt := by
  obtain ⟨i, j⟩ := p
  simp only [List.mem_flatMap, List.mem_filter, List.mem_range, List.mem_map, Prod.mk.injEq]
  constructor
  · rintro ⟨_, ⟨_, hon⟩, _, hj, rfl, rfl⟩
    exact ⟨hon, hj⟩
  · exact fun ⟨hon, hj⟩ => ⟨i, ⟨on_lt hon, hon⟩, j, hj, rfl, rfl⟩

theorem segAccs_readAll (s : State) (srcs : List (BitVec 5)) (a k : BitVec 5) (cnt fb : Nat) : (readAll s srcs).cur.segAccs a k cnt fb = s.cur.segAccs a k cnt fb := by
  obtain ⟨h, q, o, e⟩ := readAll_eq s srcs
  rw [e]
  rfl

theorem segOk_readAll (s : State) (srcs : List (BitVec 5)) (f : ElTy) : (readAll s srcs).cur.segOk f = s.cur.segOk f := by
  obtain ⟨h, q, o, e⟩ := readAll_eq s srcs
  rw [e]
  rfl

/-- `vldseg` of fields in the own scratchpad (R157). -/
theorem vldseg_done {s : State} {d a n k c : BitVec 5} {f : ElTy} (hc : ElTy.ofCode c.toNat = some f) (hok : s.cur.segOk f = true) (hm : NoMarks s) (hmst : s.mstQueued = false)
    {cnt : Nat} (hcnt : n.toNat - 2 = cnt) (hd : d.toNat + cnt ≤ 32) (h : VReady s [a] ((List.range cnt).map fun j => d + BitVec.ofNat 5 j)) {addr : Nat → Nat → Word}
    (haddr : ∀ i j, s.cur.getS a + BitVec.ofNat 64 ((i * cnt + j) * (widthOf f / 8)) = addr i j)
    (hown : ∀ i j, on s.cur k i = true → j < cnt → OwnAccess s (addr i j) (widthOf f / 8) ∧ AllKnown s (ownLoc s (addr i j)) (widthOf f / 8)) :
    ∃ y, exec (.vldseg d a n k c) s = .next (State.retire { s with cur := y }) ∧ ∃ b q o,
      FieldsPut (s.knowing b q o).cur y d k (fun j i => segConv f s.cur.vty s.cur.frm (ownValue s (addr i j) (widthOf f / 8))) cnt := by
  have haccs : s.cur.segAccs a k cnt (widthOf f / 8) =
      (((List.range s.cur.n).filter (on s.cur k)).flatMap fun i => (List.range cnt).map fun j => (i, j)).map fun (p : Nat × Nat) => ⟨p.1, p.2, addr p.1 p.2⟩ := by
    rw [segAccs_eq]
    exact List.map_congr_left fun p _ => by rw [haddr]
  obtain ⟨b, q, o, hl⟩ := loadSeq_readAll [a] true hm (l := s.cur.segAccs a k cnt (widthOf f / 8)) (haccs ▸ List.forall_mem_map.mpr fun (p : Nat × Nat) hp => hown p.1 p.2 (mem_places.mp hp).1 (mem_places.mp hp).2)
  have hget (i j : Nat) (hi : on s.cur k i = true) (hj : j < cnt) : (gotAll s (widthOf f / 8) (s.cur.segAccs a k cnt (widthOf f / 8))).get? i j = some (ownValue s (addr i j) (widthOf f / 8)) := by
    rw [haccs]
    exact gotAll_get (List.forall_mem_map.mpr fun _ _ => rfl) (List.mem_map.mpr ⟨(i, j), mem_places.mpr ⟨hi, hj⟩, rfl⟩)
  refine ⟨_, ?_, b, q, o, putFields (t := (s.knowing b q o).cur) (f := f) hget cnt le_rfl hd⟩
  show execVldseg d a n k c s = _
  unfold execVldseg
  rw [hc]
  dsimp only
  rw [hcnt, vissue_check _ h (fun v hv => hv), segOk_readAll, hok, if_pos rfl, afterMst_readAll [a] hmst]
  rw [segAccs_readAll, hl]
  rfl

/-- Every vector load does what R152 to R156 say. -/
theorem vloadForm_done {s : State} {i : Instr} {d k : BitVec 5} {srcs vecs : List (BitVec 5)} {types : ElTy → Bool} {addr : Nat → Word}
    (hi : vloadForm i s.cur = some (d, k, srcs, vecs, types, addr)) (h : VReady s srcs (d :: vecs)) (hmst : s.mstQueued = false) (ht : types s.cur.vty = true) (hm : NoMarks s)
    (hown : OwnLoads s k addr) :
    LoadDone s i d k addr (if (match i with
      | .vldff _ _ _ _ => true
      | _ => false) then BitVec.ofNat 16 s.cur.n else s.cur.ffx) := by
  cases i <;> cases hi
  case vldff => exact vldff_done (unitAddr_eq ..) h hmst ht hm hown
  case vld => exact vload_done rfl (fun _ _ _ => rfl) (unitAddr_eq ..) h hmst ht hm hown
  case vlds | vldx => exact vload_done rfl (fun _ _ _ => rfl) rfl h hmst ht hm hown

/-- Settles O18: each load by the values its active positions find among those loaded. -/
theorem vectorLoads : Obligations.VectorLoads := by
  unfold Obligations.VectorLoads
  refine ⟨fun s i d k srcs vecs types addr hi h hmst ht hm => vloadForm_done hi h hmst ht hm, ?_⟩
  intro s d a n k c f hc hok hm hmst cnt fb reg addr hd h hown x
  obtain ⟨y, hexec, b, q, o, hput⟩ := vldseg_done hc hok hm hmst rfl hd h (fun _ _ => rfl) hown
  obtain ⟨hvec, hflags, honly, hstep⟩ := onlyVectors_knowing (s := s) (y := y) ((List.range cnt).map reg) h.ready.calm (by rw [hput.rest]; rfl) hput.others
  exact ⟨_, hexec, fun j hj => (hvec (reg j)).symm ▸ hput.fields j hj, hflags.trans hput.flags, honly, hstep⟩

end Sys2Proof.Machine
end

section
/-! Vector and segment stores (R152, R157, R163). -/

namespace Sys2Proof.Machine
open Sys2Proof.Claims

/-- What a vector store leaves: its stores pending, and nothing else (R163). -/
def StoreDone (s : State) (i : Instr) (ps : List Pend) : Prop :=
  ∃ t, exec i s = .next t ∧ t.cur.pend = s.cur.pend ++ ps ∧ OnlyScalars { s with cur := { s.cur with pend := t.cur.pend } } t [] ∧ Stepped s t

/-- A vector store by `vstore` (R152, R163). -/
theorem vstore_done {s : State} {i : Instr} {d k : BitVec 5} {ss vs : List (BitVec 5)} {types : ElTy → Bool} {f : Strand → Nat → Word} {addr : Nat → Word}
    (hexec : exec i s = .next (s.vstore d k ss vs types f)) (hf : ∀ h q o, f { s.cur with hb := h, soon := q, obs := o } = f s.cur) (hfa : f s.cur = addr)
    (h : VReady s ss (d :: vs)) (hmst : s.mstQueued = false) (ht : types s.cur.vty = true)
    (hown : ∀ j ∈ (List.range s.cur.n).filter (on s.cur k), OwnAccess s (addr j) (widthOf s.cur.vty / 8)) :
    StoreDone s i (((List.range s.cur.n).filter (on s.cur k)).map fun j => pendOf s (addr j) (widthOf s.cur.vty / 8) (elemAt (widthOf s.cur.vty) (s.cur.getV d) j)) := by
  subst hfa
  let ps := ((List.range s.cur.n).filter (on s.cur k)).map fun j => pendOf s (f s.cur j) (widthOf s.cur.vty / 8) (elemAt (widthOf s.cur.vty) (s.cur.getV d) j)
  have hget : (readAll s ss).cur.getV d = s.cur.getV d := by obtain ⟨b, q, o, e⟩ := readAll_eq s ss; rw [e]; rfl
  have hseq : (readAll s ss).storeSeq (widthOf s.cur.vty / 8) (fun i _ => elemAt (widthOf s.cur.vty) (s.cur.getV d) i) (s.cur.accs k (f s.cur)) = ((readAll s ss).withPend ps, none) := by
    rw [accs_on, storeSeq_readAll ss _ (List.forall_mem_map.mpr hown), List.map_map]
    rfl
  obtain ⟨b, q, o, e⟩ := readAll_eq_knowing s ss
  have hstore : s.vstore d k ss vs types f = (((s.knowing b q o).withPend ps).onCur fun t => t.raise 0).retire := by
    have hraise : (((s.knowing b q o).withPend ps).onCur fun t => t.raise 0) = (s.knowing b q o).withPend ps :=
      congrArg (fun y => { (s.knowing b q o).withPend ps with cur := y }) (Strand.raise_zero _)
    unfold State.vstore
    rw [vissue_check _ h (by simp), takes_false, readAll_vty, if_pos ht, afterMst_readAll ss hmst]
    dsimp only
    rw [readAll_vty, accs_readAll ss k hf, hget, hseq, hraise, e]
    exact vdone_unbound h.unbound
  obtain ⟨hpend, hflags, honly, hstep⟩ := withPend_retire b q o ps 0 h.ready.calm
  rw [hflags, show s.cur.fflags ||| (0 : Flags) = s.cur.fflags from BitVec.or_zero] at honly
  exact ⟨_, hexec.trans (congrArg _ hstore), hpend, honly, hstep⟩

/-- Every vector store does what R152 and R163 say. -/
theorem vstoreForm_done {s : State} {i : Instr} {d k : BitVec 5} {srcs vecs : List (BitVec 5)} {types : ElTy → Bool} {addr : Nat → Word}
    (hi : vstoreForm i s.cur = some (d, k, srcs, vecs, types, addr)) (h : VReady s srcs (d :: vecs)) (hmst : s.mstQueued = false) (ht : types s.cur.vty = true)
    (hown : ∀ j ∈ (List.range s.cur.n).filter (on s.cur k), OwnAccess s (addr j) (widthOf s.cur.vty / 8)) :
    StoreDone s i (((List.range s.cur.n).filter (on s.cur k)).map fun j => pendOf s (addr j) (widthOf s.cur.vty / 8) (elemAt (widthOf s.cur.vty) (s.cur.getV d) j)) := by
  cases i <;> cases hi
  case vst => exact vstore_done rfl (fun _ _ _ => rfl) (unitAddr_eq ..) h hmst ht hown
  case vsts | vstx => exact vstore_done rfl (fun _ _ _ => rfl) rfl h hmst ht hown

/-- Flags gathered beside those that stand are gathered onto them (R122). -/
theorem or_foldl_flags {α : Type} (l : List α) (g : α → Flags) (a b : Flags) : a ||| l.foldl (fun f x => f ||| g x) b = l.foldl (fun f x => f ||| g x) (a ||| b) := by
  induction l generalizing b with
  | nil => rfl
  | cons x l ih => rw [List.foldl_cons, List.foldl_cons, ih, BitVec.or_assoc]

/-- `vstseg` of fields in the own scratchpad (R157, R163). -/
theorem vstseg_done {s : State} {d a n k c : BitVec 5} {f : ElTy} (hc : ElTy.ofCode c.toNat = some f) (hok : s.cur.segOk f = true) (hmst : s.mstQueued = false)
    {cnt : Nat} (hcnt : n.toNat - 2 = cnt) (h : VReady s [a] ((List.range cnt).map fun j => d + BitVec.ofNat 5 j)) :
    let places := ((List.range s.cur.n).filter (on s.cur k)).flatMap fun i => (List.range cnt).map fun j => (i, j)
    let addr (p : Nat × Nat) : Word := s.cur.getS a + BitVec.ofNat 64 ((p.1 * cnt + p.2) * (widthOf f / 8))
    let x (p : Nat × Nat) : Nat × Flags := segConv s.cur.vty f s.cur.frm (elemAt (widthOf s.cur.vty) (s.cur.getV (d + BitVec.ofNat 5 p.2)) p.1)
    (∀ p ∈ places, OwnAccess s (addr p) (widthOf f / 8)) →
      ∃ b q o, exec (.vstseg d a n k c) s = .next (((s.knowing b q o).withPend (places.map fun p => pendOf s (addr p) (widthOf f / 8) (x p).1)).onCur fun t =>
        t.raise (places.foldl (fun fl p => fl ||| (x p).2) 0)).retire := by
  intro places addr x hown
  have hconv : (fun i j => segConv (readAll s [a]).cur.vty f (readAll s [a]).cur.frm (elemAt (widthOf (readAll s [a]).cur.vty) ((readAll s [a]).cur.getV (d + BitVec.ofNat 5 j)) i)) = fun i j => x (i, j) := by
    obtain ⟨b, q, o, e⟩ := readAll_eq s [a]
    rw [e]
    rfl
  have hseq : (readAll s [a]).storeSeq (widthOf f / 8) (fun i j => (x (i, j)).1) (s.cur.segAccs a k cnt (widthOf f / 8)) =
      ((readAll s [a]).withPend (places.map fun p => pendOf s (addr p) (widthOf f / 8) (x p).1), none) := by
    rw [segAccs_eq, storeSeq_readAll [a] _ (List.forall_mem_map.mpr hown), List.map_map]
    rfl
  obtain ⟨b, q, o, e⟩ := readAll_eq_knowing s [a]
  refine ⟨b, q, o, ?_⟩
  show execVstseg d a n k c s = _
  unfold execVstseg
  rw [hc]
  dsimp only
  rw [hcnt, vissue_check _ h (by simp [segRegs]), segOk_readAll, hok, if_pos rfl, afterMst_readAll [a] hmst]
  simp only [funext_iff] at hconv
  simp only [hconv]
  rw [segAccs_readAll, hseq, segAccs_eq, List.foldl_map, e]
  exact congrArg Host.Outcome.next (vdone_unbound h.unbound)

/-- Settles O19: the stores of a vector instruction join those pending one after the other. -/
theorem vectorStores : Obligations.VectorStores := by
  unfold Obligations.VectorStores
  refine ⟨fun s i d k srcs vecs types addr hi h hmst ht => vstoreForm_done hi h hmst ht, ?_⟩
  intro s d a n k c f hc hok hmst cnt fb reg addr places x h hown
  obtain ⟨b, q, o, hexec⟩ := vstseg_done hc hok hmst rfl h hown
  obtain ⟨hpend, hflags, honly, hstep⟩ := withPend_retire b q o (places.map fun p => pendOf s (addr p) fb (x p).1) (places.foldl (fun fl p => fl ||| (x p).2) 0) h.ready.calm
  refine ⟨_, hexec, hpend, hflags.trans ((or_foldl_flags ..).trans ?_), honly, hstep⟩
  rw [show s.cur.fflags ||| (0 : Flags) = s.cur.fflags from BitVec.or_zero]

end Sys2Proof.Machine
end

section
/-! The host's accesses to device memory (R275, R315, R316, R397). -/

namespace Sys2Proof.Machine
open Sys2Proof.Claims

theorem lines_nil (fuel off : Nat) : lines fuel off [] = [] := by cases fuel <;> rfl

/-- Bytes within one 64-byte line are one piece. -/
theorem lines_within {off : Nat} {bs : List Byte} (h0 : bs ≠ []) (h : off % 64 + bs.length ≤ 64) : lines (bs.length + 1) off bs = [(off, bs)] := by
  obtain ⟨b, l, rfl⟩ := List.exists_cons_of_ne_nil h0
  have hlen : (b :: l).length ≤ 64 - off % 64 := by omega
  rw [lines, List.take_of_length_le hlen, List.drop_of_length_le hlen, lines_nil]
  exact h0

/-- The state with the releases of the host and their numbers replaced (R275). -/
def State.hostNoted (s : State) (rels : List RelRec) (next : Nat) : State := { s with rels := rels, nextRel := next }

/-- What the host has heard is noted before it writes or reads on, and nothing else changes (R275). -/
theorem hostRel_noted (s : State) (b : Prop) [Decidable b] (m : Nat) : ∃ rels next, (if b then s else (s.hostRel m).2) = s.hostNoted rels next := by
  split
  · exact ⟨s.rels, s.nextRel, rfl⟩
  · exact ⟨_, _, rfl⟩

theorem hostPut_shut {s : State} {off : Nat} (key : Nat) (bs : List Byte) (h : s.hdmShut off = true) : s.hostPut key off bs = s := by
  unfold State.hostPut
  split
  · rfl
  · rw [h, Bool.true_or, if_pos rfl]

/-- A host write within a line is one write at its home (R275, R316). -/
theorem hostPut_home {s : State} {off pa : Nat} (key : Nat) {bs : List Byte} (hpa : s.hdmPa off = some pa) (hopen : s.hdmShut off = false) (h0 : bs ≠ []) :
    ∃ rels next id, s.hostPut key off bs = (s.hostNoted rels next).homeWrite key pa bs.length (natOfBytes bs) (some id) := by
  unfold State.hostPut
  rw [hpa]
  dsimp only
  rw [hopen, Bool.false_or, if_neg (by simpa using h0)]
  exact ⟨_, _, _, rfl⟩

/-- HOST_WRITE within a line where the map is open (R275). -/
theorem hostWrite_within {s : State} {off pa seen : Nat} {data : List Byte} (tdi : Option Nat) (h0 : data ≠ []) (hline : off % 64 + data.length ≤ 64) (hpa : s.hdmPa off = some pa)
    (hopen : s.hdmShut off = false) : ∃ rels next id, exec (.hostWrite off ⟨data, seen⟩ tdi) s = .next ((s.hostNoted rels next).homeWrite (s.hostKey tdi) pa data.length (natOfBytes data) (some id)) := by
  obtain ⟨rels, next, hnoted⟩ := hostRel_noted s (s.hostHeard seen = 0) (s.hostMask ||| s.hostHeard seen)
  obtain ⟨rels', next', id, hput⟩ := hostPut_home (s := s.hostNoted rels next) (s.hostKey tdi) hpa hopen h0
  refine ⟨rels', next', id, ?_⟩
  show execHostWrite off ⟨data, seen⟩ tdi s = _
  unfold execHostWrite
  dsimp only
  rw [hnoted, lines_within h0 hline]
  exact congrArg Host.Outcome.next hput

/-- HOST_WRITE within a line where the map is shut (R315, R316). -/
theorem hostWrite_shut {s : State} {off seen : Nat} {data : List Byte} (tdi : Option Nat) (hline : off % 64 + data.length ≤ 64) (hshut : s.hdmShut off = true) :
    ∃ rels next, exec (.hostWrite off ⟨data, seen⟩ tdi) s = .next (s.hostNoted rels next) := by
  obtain ⟨rels, next, hnoted⟩ := hostRel_noted s (s.hostHeard seen = 0) (s.hostMask ||| s.hostHeard seen)
  refine ⟨rels, next, ?_⟩
  show execHostWrite off ⟨data, seen⟩ tdi s = _
  unfold execHostWrite
  dsimp only
  rw [hnoted]
  by_cases h0 : data = []
  · rw [h0, lines_nil]
    rfl
  · rw [lines_within h0 hline]
    exact congrArg Host.Outcome.next (hostPut_shut (s := s.hostNoted rels next) _ data hshut)

/-- HOST_READ within a line (R275). -/
theorem hostRead_within {s : State} {off n : Nat} (tdi : Option Nat) (h0 : 0 < n) (hline : off % 64 + n ≤ 64) (hw : s.hostWaits off n = false) :
    ∃ rels next, exec (.hostRead off n tdi) s = .next ((s.onPkg fun g => { g with hostRead := s.hostGet (s.hostKey tdi) off n }).hostNoted rels next) := by
  have hlines := lines_within (off := off) (bs := List.replicate n 0) (by simp; omega) (by simpa using hline)
  rw [List.length_replicate] at hlines
  let s1 := s.onPkg fun g => { g with hostRead := s.hostGet (s.hostKey tdi) off n }
  obtain ⟨rels, next, hnoted⟩ := hostRel_noted s1 (0 ||| s.hostSees off n = 0) (s1.hostMask ||| (0 ||| s.hostSees off n))
  refine ⟨rels, next, ?_⟩
  show execHostRead off n tdi s = _
  unfold execHostRead
  dsimp only
  rw [hlines]
  simp only [List.any_cons, List.any_nil, List.length_replicate, hw, Bool.or_false, Bool.false_eq_true, if_false, List.foldl_cons, List.foldl_nil, List.flatMap_cons, List.flatMap_nil, List.append_nil]
  exact congrArg Host.Outcome.next hnoted

theorem hostGet_open {s : State} {off pa : Nat} (key n : Nat) (hpa : s.hdmPa off = some pa) (hopen : s.hdmShut off = false) :
    s.hostGet key off n = s.decrypt key pa ((placesOf pa n).map s.publicByte) := by
  unfold State.hostGet
  rw [hpa]
  exact if_neg (by rw [hopen]; decide)

theorem hostGet_shut {s : State} {off : Nat} (key n : Nat) (hshut : s.hdmShut off = true) : s.hostGet key off n = bytesOfNat n 0 := by
  unfold State.hostGet
  split
  · rfl
  · exact if_pos hshut

end Sys2Proof.Machine
end

section
/-! What the host answers to the current strand (R165, R288, R339 to R343). -/

namespace Sys2Proof.Machine
open Sys2Proof.Claims

/-- Bytes put one by one are a run of bytes. -/
theorem foldl_set_zipIdx (data : List Byte) (loc k : Nat) (m : SMap (Option Byte)) :
    (data.zipIdx k).foldl (fun m x => m.set none (loc + x.2) (some x.1)) m = SMap.setList none m (loc + k) (data.map some) := by
  induction data generalizing k m with
  | nil => rfl
  | cons b data ih =>
    rw [List.zipIdx_cons, List.foldl_cons, ih, List.map_cons, SMap.setList, Nat.add_assoc]

/-- Bytes put into a buffer are found there. -/
theorem get_putBytes (data : List Byte) (loc : Nat) (m : SMap (Option Byte)) {i : Nat} (hi : i < data.length) :
    SMap.get none (data.zipIdx.foldl (fun m x => m.set none (loc + x.2) (some x.1)) m) (loc + i) = data[i]? := by
  have hrun := SMap.getList_setList none m loc (data.map some)
  rw [SMap.getList_eq_map] at hrun
  have hat := congrArg (fun l : List (Option Byte) => l[i]?) hrun
  rw [foldl_set_zipIdx]
  simpa [hi] using hat

theorem State.hearHost_cur (s : State) (after : Nat) : s.hearHost (.strand s.cur.uid) after = s.onCur fun t => { t with obs := s.hostRels after ++ t.obs } := s.onUid_cur _

theorem mem_dropReq {s : State} {req : Nat} {x : HostReq} (h : x ∈ (s.dropReq req).pkg.hostReqs) : x.id ≠ req := of_decide_eq_true (List.mem_filter.mp h).2

/-- DMA_READ_COMPLETION for the current strand: its bytes stand where the instruction looks for them (R339). -/
theorem dmaReadCompletion_cur {s : State} {req after : Nat} {data : List Byte} {r : HostReq} (hr : s.pkg.hostReqs.find? (fun r => decide (r.id = req) && r.fn.isNone) = some r)
    (hd : r.dropped = false) (hn : data.length = r.n) (hw : r.who = .strand s.cur.uid) (hb : s.bitOut (2 ^ 64 + r.addr) r.n = false) :
    exec (.dmaReadCompletion req ⟨data, after⟩) s = .next ((((s.dropReq req).onCur fun t => { t with obs := (s.dropReq req).hostRels after ++ t.obs }).onCur fun t =>
      { t with buf := data.zipIdx.foldl (fun (m : SMap (Option Byte)) (x : Byte × Nat) => m.set none (2 ^ 64 + r.addr + x.2) (some x.1)) t.buf }.answered)) := by
  show execDmaReadCompletion req ⟨data, after⟩ s = _
  unfold execDmaReadCompletion
  rw [hr]
  dsimp only
  rw [hd, if_neg Bool.false_ne_true, if_neg (not_or.mpr ⟨not_not_intro hn, by rw [hb]; decide⟩), hw]
  exact congrArg Host.Outcome.next ((congrArg (fun u : State => u.deliver _ _ _) ((s.dropReq req).hearHost_cur after)).trans (State.onUid_cur _ _))

theorem dmaReadCompletion_dropped {s : State} {req after : Nat} {data : List Byte} {r : HostReq} (hr : s.pkg.hostReqs.find? (fun r => decide (r.id = req) && r.fn.isNone) = some r)
    (hd : r.dropped = true) : exec (.dmaReadCompletion req ⟨data, after⟩) s = .next (s.dropReq req) := by
  show execDmaReadCompletion req ⟨data, after⟩ s = _
  unfold execDmaReadCompletion
  rw [hr]
  exact congrArg Host.Outcome.next (if_pos hd)

/-- An old value for the current strand, which has no `vamo` under way, is the reply of its scalar atomic (R288, R343). -/
theorem opReply_scalar {s : State} (elem : Nat) (old : Word) (h : s.cur.vamoTodo = none) : s.opReply s.cur.uid elem (.inl old) = s.atomReply old := by
  unfold State.opReply State.asUid
  exact (if_pos rfl).trans (if_neg (by rw [h]; decide))

theorem atomReply_reply (s : State) (old : Word) : (s.atomReply old).cur.replies.get none 0 = some old := by
  show SMap.get none (SMap.set none s.cur.replies 0 (some old)) 0 = some old
  exact SMap.get_set_self ..

/-- HOST_ATOMIC_COMPLETION with the old value for the current strand (R340). -/
theorem hostAtomic_success {s : State} {req after : Nat} {old : Word} {r : HostReq} (hr : s.pkg.hostReqs.find? (fun r => decide (r.id = req) && r.fn.isSome) = some r)
    (hd : r.dropped = false) (hw : r.who = .strand s.cur.uid) (hv : s.cur.vamoTodo = none) :
    exec (.hostAtomicCompletion req ⟨.success old, after⟩) s = .next (((s.dropReq req).onCur fun t => { t with obs := (s.dropReq req).hostRels after ++ t.obs }).atomReply old) := by
  show execHostAtomicCompletion req ⟨.success old, after⟩ s = _
  unfold execHostAtomicCompletion
  rw [hr]
  dsimp only
  rw [hd, if_neg Bool.false_ne_true, hw]
  dsimp only
  rw [show (s.dropReq req).hearHost (.strand s.cur.uid) after = _ from (s.dropReq req).hearHost_cur after]
  exact congrArg Host.Outcome.next (opReply_scalar (s := (s.dropReq req).onCur fun t => { t with obs := (s.dropReq req).hostRels after ++ t.obs }) r.elem old hv)

/-- A page put into the table of pages that refuse AtomicOps is found there (R341). -/
theorem pageListed_listPage (s : State) (p : Pkg) (bus : Nat) : (p.listPage (s.busPage bus)).pageListed bus = true := by
  have hmem : s.busPage bus ∈ (p.listPage (s.busPage bus)).unsupported := List.mem_cons_self
  unfold Pkg.pageListed
  rw [Bool.or_eq_true, List.contains_iff_mem, List.contains_iff_mem]
  have hpage : s.busPage bus = 2 * (bus / 2 ^ 29) + 1 ∨ s.busPage bus = 2 * (bus / 2 ^ 18) := by
    unfold State.busPage
    exact ite_eq_or_eq ..
  rcases hpage with h | h
  · rw [h] at hmem ⊢
    exact .inr hmem
  · rw [h] at hmem ⊢
    exact .inl hmem

theorem atomAgain_pkg (s : State) : s.atomAgain.pkg = s.pkg ∧ s.atomAgain.mem = s.mem := by
  unfold State.atomAgain
  split <;> exact ⟨rfl, rfl⟩

/-- HOST_ATOMIC_COMPLETION with a refusal for the current strand lists the page (R341). -/
theorem hostAtomic_unsupported {s : State} {req after : Nat} {r : HostReq} (hr : s.pkg.hostReqs.find? (fun r => decide (r.id = req) && r.fn.isSome) = some r) (hw : r.who = .strand s.cur.uid) :
    ∃ t, exec (.hostAtomicCompletion req ⟨.unsupported, after⟩) s = .next t ∧ t.pkg.pageListed r.addr = true ∧ t.mem = s.mem := by
  let u := (s.dropReq req).onPkg fun g => g.listPage ((s.dropReq req).busPage r.addr)
  have hlisted : u.pkg.pageListed r.addr = true := pageListed_listPage (s.dropReq req) _ r.addr
  have hexec : exec (.hostAtomicCompletion req ⟨.unsupported, after⟩) s = .next (if r.dropped then u else u.atomAgain) := by
    show execHostAtomicCompletion req ⟨.unsupported, after⟩ s = _
    unfold execHostAtomicCompletion
    rw [hr]
    dsimp only
    rw [hw]
    exact congrArg (fun x => Host.Outcome.next (if r.dropped then u else x)) (if_pos rfl)
  refine ⟨_, hexec, ?_⟩
  split
  · exact ⟨hlisted, rfl⟩
  · obtain ⟨hpkg, hmem⟩ := atomAgain_pkg u
    exact ⟨hpkg ▸ hlisted, hmem⟩

/-- PROXY_REPLY for the current strand's request (R342, R343). -/
theorem proxyReply_cur {s : State} {index after : Nat} {p : ProxyReq} (hup : s.cyanUp 4 = true)
    (hp : s.pkg.proxies.find? (fun p => decide (p.index = index ∧ index < 4096 ∧ p.seq = s.devGet (s.winPa (0x2001000 + 16 * index)) 8)) = some p)
    (huid : p.uid = s.cur.uid) (hv : s.cur.vamoTodo = none) :
    let u := s.onPkg fun g => { g with proxies := g.proxies.filter fun q => decide (q.seq ≠ p.seq) }
    exec (.proxyReply ⟨index, after⟩) s = .next ((u.onCur fun t => { t with obs := u.hostRels after ++ t.obs }).atomReply (word (s.devGet (s.winPa (0x2001000 + 16 * index) + 8) 8))) := by
  intro u
  show execProxyReply ⟨index, after⟩ s = _
  unfold execProxyReply
  dsimp only
  rw [hup, hp]
  dsimp only
  rw [huid, show u.hearHost (.strand s.cur.uid) after = _ from u.hearHost_cur after]
  exact congrArg Host.Outcome.next (opReply_scalar (s := u.onCur fun t => { t with obs := u.hostRels after ++ t.obs }) p.elem _ hv)

/-- A reply that no request waits for is not taken (R342). -/
theorem proxyReply_stale {s : State} {index after : Nat} (h : ∀ p ∈ s.pkg.proxies, p.index = index → p.seq ≠ s.devGet (s.winPa (0x2001000 + 16 * index)) 8) :
    exec (.proxyReply ⟨index, after⟩) s = .next s := by
  have hnone : s.pkg.proxies.find? (fun p => decide (p.index = index ∧ index < 4096 ∧ p.seq = s.devGet (s.winPa (0x2001000 + 16 * index)) 8)) = none :=
    List.find?_eq_none.mpr fun p hp hc => by
      obtain ⟨hidx, -, hseq⟩ := of_decide_eq_true hc
      exact h p hp hidx hseq
  show execProxyReply ⟨index, after⟩ s = _
  unfold execProxyReply
  dsimp only
  rw [hnone, ite_self]

/-- An element taken off the books is not outstanding (R165). -/
theorem dropOutstanding_done (s : State) (uid elem : Nat) : (s.dropOutstanding uid elem).outstandingEl uid elem = false := by
  unfold State.outstandingEl State.dropOutstanding State.onPkg
  simp only [Bool.or_eq_false_iff, List.any_eq_false]
  refine ⟨⟨fun r hr => ?_, fun p hp => ?_⟩, fun q hq => ?_⟩
  · simpa only [Bool.not_eq_true', Bool.not_eq_true] using (List.mem_filter.mp hr).2
  · simpa only [Bool.not_eq_true', Bool.not_eq_true] using (List.mem_filter.mp hp).2
  · obtain ⟨q, -, rfl⟩ := List.mem_map.mp hq
    rw [List.any_map, Bool.not_eq_true, List.any_eq_false]
    intro u _
    rw [Function.comp]
    split
    · simp
    · next h => simpa using h

/-- VAMO_REPORT of an element of the current strand's `vamo` that is done (R165). -/
theorem vamoReport_done {s : State} {elem : Nat} {l : List Nat} (ha : s.cur.away = false) (hl : s.cur.vamoTodo = some l) (ho : s.outstandingEl s.cur.uid elem = true) :
    ∃ t, exec (.vamoReport s.cur.sid elem none) s = .next t ∧ t.cur.vamoTodo = some (l.filter fun x => decide (x ≠ elem)) ∧ t.outstandingEl s.cur.uid elem = false ∧ t.mem = s.mem := by
  let u := (s.dropOutstanding s.cur.uid elem).onCur fun t => { t with vamoTodo := t.vamoTodo.map fun l => l.filter fun x => decide (x ≠ elem) }
  have hexec : exec (.vamoReport s.cur.sid elem none) s = .next (if u.outstanding u.cur.uid then u else u.onCur fun t => { t with wait := none }) := by
    show execVamoReport s.cur.sid elem none s = _
    unfold execVamoReport
    rw [State.strand?_cur ha]
    dsimp only
    rw [hl, ho]
    unfold State.opReply State.asUid
    exact congrArg Host.Outcome.next ((if_pos rfl).trans ((if_pos rfl).trans (if_pos (by rw [hl]; rfl))))
  have htodo : u.cur.vamoTodo = some (l.filter fun x => decide (x ≠ elem)) := congrArg (Option.map _) hl
  have hdone : u.outstandingEl s.cur.uid elem = false := dropOutstanding_done s s.cur.uid elem
  refine ⟨_, hexec, ?_⟩
  split <;> exact ⟨htodo, hdone, rfl⟩

/-- VAMO_REPORT of an element that is not outstanding does nothing (R165). -/
theorem vamoReport_stale {s : State} {elem : Nat} (code : Option FaultCode) (ha : s.cur.away = false) (ho : s.outstandingEl s.cur.uid elem = false) :
    exec (.vamoReport s.cur.sid elem code) s = .next s := by
  show execVamoReport s.cur.sid elem code s = _
  unfold execVamoReport
  rw [State.strand?_cur ha]
  dsimp only
  rw [ho, Bool.and_false]
  rfl

/-- Settles O46: the host's accesses line by line, and each answer by what it leaves for the current strand. -/
theorem hostMemoryAndAnswers : Obligations.HostMemoryAndAnswers := by
  unfold Obligations.HostMemoryAndAnswers
  refine ⟨⟨?_, ?_, ?_, fun s x h => State.publicByte_plain h, ?_⟩, ?_, fun s req data after r hr hd => dmaReadCompletion_dropped hr hd, ?_,
    fun s req after r hr hw => hostAtomic_unsupported hr hw, ?_, fun s index after h => proxyReply_stale h, fun s elem l ha hl ho => vamoReport_done ha hl ho,
    fun s elem code ha ho => vamoReport_stale code ha ho⟩
  · intro s off data tdi seen pa h0 hline hpa hopen
    obtain ⟨rels, next, id, hexec⟩ := hostWrite_within (seen := seen) tdi h0 hline hpa hopen
    exact ⟨_, hexec, (State.homeWrite_bytesAt ..).trans (bytesOfNat_natOfBytes data), fun x hx => (s.hostNoted rels next).homeWrite_other _ _ _ _ _ x hx,
      State.homeWrite_cur .., State.homeWrite_jobs .., State.homeWrite_pkg ..⟩
  · intro s off data tdi seen hline hshut
    obtain ⟨rels, next, hexec⟩ := hostWrite_shut (seen := seen) tdi hline hshut
    exact ⟨_, hexec, rfl, rfl, rfl, rfl, rfl⟩
  · intro s off n tdi pa h0 hline hpa hopen hw
    obtain ⟨rels, next, hexec⟩ := hostRead_within tdi h0 hline hw
    exact ⟨_, hexec, hostGet_open _ n hpa hopen, rfl, rfl⟩
  · intro s off n tdi h0 hline hshut hw
    obtain ⟨rels, next, hexec⟩ := hostRead_within tdi h0 hline hw
    exact ⟨_, hexec, hostGet_shut _ n hshut, rfl⟩
  · intro s req data after r hr hd hn hw hb
    exact ⟨_, dmaReadCompletion_cur hr hd hn hw hb, fun i hi => get_putBytes data _ _ hi, fun x hx => mem_dropReq hx, rfl, rfl⟩
  · intro s req old after r hr hd hw hv
    exact ⟨_, hostAtomic_success hr hd hw hv, atomReply_reply .., rfl, rfl⟩
  · intro s index after p _ hup hp huid hv
    exact ⟨_, proxyReply_cur hup hp huid hv, atomReply_reply .., fun q hq => of_decide_eq_true (List.mem_filter.mp hq).2, rfl⟩

end Sys2Proof.Machine
end

section
/-! Copies and chains found by their numbers, before and after one of them is changed (R196, R206). -/

namespace Sys2Proof.Machine
open Sys2Proof.Claims

/-- What a search by a key finds once the entries with the key are changed, the key apart. -/
theorem find?_map_keyed {α : Type} {q : α → Prop} [DecidablePred q] {f : α → α} (hf : ∀ x, q x → q (f x)) (l : List α) :
    (l.map fun x => if q x then f x else x).find? (fun x => decide (q x)) = (l.find? fun x => decide (q x)).map f := by
  induction l with
  | nil => rfl
  | cons x l ih =>
    by_cases hx : q x
    · simp [hx, hf x hx]
    · simp [hx, ih]

theorem State.copy?_id {s : State} {id : Nat} {c : Copy} (h : s.copy? id = some c) : c.id = id := by
  have hfound := List.find?_some (p := fun x : Copy => decide (x.id = id)) h
  exact of_decide_eq_true hfound

theorem State.copy?_onCopy {s : State} {id : Nat} {c : Copy} {f : Copy → Copy} (h : s.copy? id = some c) (hf : ∀ x, (f x).id = x.id) :
    (s.onCopy id f).copy? id = some (f c) := by
  have hmap := find?_map_keyed (q := fun x : Copy => x.id = id) (f := f) (fun x hx => (hf x).trans hx) s.pkg.copies
  exact hmap.trans (congrArg (Option.map f) h)

/-- Taken out of the package, a copy is not found any more. -/
theorem State.copy?_copyOver (s : State) (c : Copy) (f : Option FaultRec) : (s.copyOver c f).copy? c.id = none := by
  refine List.find?_eq_none.mpr fun x hx => ?_
  simpa using (List.mem_filter.mp hx).2

theorem State.chain?_hdr {s : State} {hdr : Nat} {c : Chain} (h : s.chain? hdr = some c) : c.hdr = hdr := by
  have hfound := List.find?_some (p := fun x : Chain => decide (x.hdr = hdr)) h
  exact of_decide_eq_true hfound

theorem State.chain?_onChain {s : State} {hdr : Nat} {c : Chain} {f : Chain → Chain} (h : s.chain? hdr = some c) (hf : ∀ x, (f x).hdr = x.hdr) :
    (s.onChain hdr f).chain? hdr = some (f c) := by
  have hmap := find?_map_keyed (q := fun x : Chain => x.hdr = hdr) (f := f) (fun x hx => (hf x).trans hx) s.pkg.chains
  exact hmap.trans (congrArg (Option.map f) h)

theorem State.copy?_chunkDone {s : State} {id : Nat} {c : Copy} (j : Nat) (h : s.copy? id = some c) :
    (s.chunkDone id j).copy? id = some { c with done := if c.done.contains j then c.done else j :: c.done } := State.copy?_onCopy h fun _ => rfl

/-- The end of a copy leaves the strands as they are. -/
theorem State.leavePort_cur (s : State) (c : Copy) : (s.leavePort c).cur = s.cur := by
  unfold State.leavePort
  split <;> rfl

theorem State.copyOver_cur (s : State) (c : Copy) (f : Option FaultRec) : (s.copyOver c f).cur = s.cur := s.leavePort_cur c

theorem State.copySettle_cur (s : State) (id : Nat) : (s.copySettle id).cur = s.cur := by
  unfold State.copySettle
  split
  · rfl
  · split
    · split
      · exact s.leavePort_cur _
      · exact s.copyOver_cur _ _
    · rfl

theorem State.leavePort_pkg (s : State) (c : Copy) : (s.leavePort c).pkg = s.pkg := by
  unfold State.leavePort
  split <;> rfl

/-- What becomes of a copy that is settled: it is over, or it stands as it did but for waiting for service (R202, R369). -/
theorem State.copySettle_copy {s : State} {id : Nat} {c : Copy} (h : s.copy? id = some c) :
    (s.copySettle id).copy? id = none ∨ ∃ st, (s.copySettle id).copy? id = some { c with st := st } := by
  unfold State.copySettle
  rw [h]
  dsimp only
  split
  · split
    · have hleft : (s.leavePort c).copy? id = some c := by rw [State.copy?, State.leavePort_pkg]; exact h
      exact .inr ⟨.faulted, State.copy?_onCopy hleft fun _ => rfl⟩
    · rw [← State.copy?_id h]
      exact .inl (s.copy?_copyOver c none)
  · exact .inr ⟨c.st, h⟩

end Sys2Proof.Machine
end

section
/-! The Ultra Ethernet endpoint: packets by their kind (R378 to R383). -/

namespace Sys2Proof.Machine
open Sys2Proof.Claims

/-- The state once the endpoint has heard a packet that it takes, and its context counts it (R373, R379). -/
def ueHeardNow (s : State) (p : UePacket) : State := (s.ueHeard p).onCtx p fun c => { c with next := c.next + 1 }

/-- Nothing but the contexts of the endpoint and what is kept about peers has changed. -/
def OnlyHeard (s t : State) : Prop := t = s.onPkg fun g => { g with contexts := t.pkg.contexts, peers := t.pkg.peers }

theorem OnlyHeard.trans {s t u : State} (h : OnlyHeard s t) (g : OnlyHeard t u) : OnlyHeard s u := by
  unfold OnlyHeard at h
  have hboth := congrArg (fun x : State => x.onPkg fun g => { g with contexts := u.pkg.contexts, peers := u.pkg.peers }) h
  exact Eq.trans g hboth

theorem onlyHeard_setPeer (s : State) (k : Nat) (v : Peer) : OnlyHeard s (s.setPeer k v) := rfl

theorem onlyHeard_onCtx (s : State) (p : UePacket) (f : UeContext → UeContext) : OnlyHeard s (s.onCtx p f) := rfl

theorem onlyHeard_ueOpen (s : State) (p : UePacket) : OnlyHeard s (s.ueOpen p) := by
  unfold State.ueOpen
  split
  · split <;> rfl
  · rfl

/-- Hearing a packet touches the contexts and the tables of peers alone. -/
theorem onlyHeard_now (s : State) (p : UePacket) : OnlyHeard s (ueHeardNow s p) := by
  refine OnlyHeard.trans ?_ (onlyHeard_onCtx (s.ueHeard p) p _)
  have hopened := (onlyHeard_ueOpen s p).trans (onlyHeard_setPeer (s.ueOpen p) (2 ^ 20 + uePeer p) ((s.peer (2 ^ 20 + uePeer p)).begin (2 ^ 20 + uePeer p) s.gtime))
  unfold State.ueHeard
  dsimp only
  split
  case h_4 => exact hopened
  all_goals
    split
    · exact hopened.trans (onlyHeard_setPeer _ _ _)
    · exact hopened

section
variable (s : State) (p : UePacket)

theorem ueHeardNow_mem : (ueHeardNow s p).mem = s.mem := by rw [onlyHeard_now s p]; rfl
theorem ueHeardNow_cur : (ueHeardNow s p).cur = s.cur := by rw [onlyHeard_now s p]; rfl
theorem ueHeardNow_ueOut : (ueHeardNow s p).pkg.ueOut = s.pkg.ueOut := by rw [onlyHeard_now s p]; rfl
theorem ueHeardNow_uePort : (ueHeardNow s p).uePort = s.uePort := by rw [onlyHeard_now s p]; rfl
theorem ueHeardNow_copies : (ueHeardNow s p).pkg.copies = s.pkg.copies := by rw [onlyHeard_now s p]; rfl
theorem ueHeardNow_jobs : (ueHeardNow s p).jobs = s.jobs := by rw [onlyHeard_now s p]; rfl

theorem ueHeardNow_regionFor (job : BitVec 32) (id off n : Nat) (write : Bool) : (ueHeardNow s p).regionFor job id off n write = s.regionFor job id off n write := by
  unfold State.regionFor
  rw [State.job?_congr (ueHeardNow_jobs s p)]

end

/-- The delivery mode of a write (R378). -/
def ueMode : UePacket → Option UeMode
  | .write _ _ _ _ m _ _ _ _ _ _ _ => some m
  | _ => none

/-- A packet that the endpoint discards; an unordered write is counted (R378). -/
theorem exec_uePacket_dropped {s : State} {p : UePacket} (h : s.ueDrops p = true) :
    exec (.uePacket p) s = .next (if ueMode p = some .uud then s.onPkg fun g => { g with uudCount := g.uudCount + 1 } else s) := by
  refine congrArg Host.Outcome.next ((if_pos h).trans ?_)
  cases p with
  | write peer job region off m op mapped tag psn unit bad data => cases m <;> rfl
  | _ => rfl

theorem exec_uePacket_held {s : State} {p : UePacket} (h : s.ueDrops p = false) (hh : s.ueHolds p = true) : exec (.uePacket p) s = .next s :=
  congrArg Host.Outcome.next ((if_neg (by rw [h]; decide)).trans (if_pos hh))

theorem exec_uePacket_taken {s : State} {p : UePacket} (h : s.ueDrops p = false) (hh : s.ueHolds p = false) :
    exec (.uePacket p) s = .next ((ueHeardNow s p).ueTake p) :=
  congrArg Host.Outcome.next ((if_neg (by rw [h]; decide)).trans (if_neg (by rw [hh]; decide)))

/-- A packet that is not discarded has a port to be answered on (R379). -/
theorem uePort_of_kept {s : State} {p : UePacket} (h : s.ueDrops p = false) : s.uePort.isSome = true := by
  simp only [State.ueDrops, Bool.or_eq_false_iff] at h
  obtain ⟨⟨hport, _⟩, _⟩ := h
  cases hp : s.uePort with
  | none => rw [hp] at hport; exact absurd hport (by decide)
  | some _ => rfl

/-- An answer is one more packet on its way out; memory stays (R378). -/
theorem ueReply_sends {s : State} (h : s.uePort.isSome = true) (p : UePacket) : ∃ x, (s.ueReply p).pkg.ueOut = s.pkg.ueOut ++ [x] ∧ x.pkt = p ∧ (s.ueReply p).mem = s.mem := by
  obtain ⟨port, hport⟩ := Option.isSome_iff_exists.mp h
  have hput : s.ueReply p = ((s.ueOpen p).takePath (2 ^ 20 + uePeer p) none).2.onPkg fun g => { g with ueOut := g.ueOut ++ [⟨port, ((s.ueOpen p).takePath (2 ^ 20 + uePeer p) none).1, s.gtime, p⟩] } := by
    unfold State.ueReply State.uePut
    rw [hport]
  have hopen : (s.ueOpen p).pkg.ueOut = s.pkg.ueOut := by rw [onlyHeard_ueOpen s p]; rfl
  rw [hput]
  exact ⟨⟨port, _, s.gtime, p⟩, congrArg (· ++ _) hopen, rfl, s.ueOpen_mem p⟩

/-! What a packet that is taken does, kind by kind. -/

section
variable {s : State} {peer : Nat} {job : BitVec 32} {region off tag : Nat}

/-- A write of a region that is not registered so is answered with a failure (R380). -/
theorem ueTake_write_unregistered {m : UeMode} {op psn unit : Nat} {mapped bad : Bool} {data : List Byte} (h : s.regionFor job region off data.length true = none) :
    s.ueTake (.write peer job region off m op mapped tag psn unit bad data) = s.ueReply (.failed peer tag .pageProtection) := by
  unfold State.ueTake
  dsimp only
  rw [h]

/-- A plain write is placed in its region and acknowledged (R380). -/
theorem ueTake_write_placed {m : UeMode} {psn unit w : Nat} {bad : Bool} {data : List Byte} {r : Region} {u : State} (h : s.regionFor job region off data.length true = some r)
    (hu : s.uePlace (s.jobStrand job) (r.base + BitVec.ofNat 64 off) 0 unit bad data = (u, .ok w)) :
    s.ueTake (.write peer job region off m 0 false tag psn unit bad data) = u.ueReply (.ack peer tag) := by
  unfold State.ueTake
  dsimp only
  rw [h]
  refine (if_neg (by simp)).trans ((if_neg Bool.false_ne_true).trans ?_)
  have hword : r.base + word off = r.base + BitVec.ofNat 64 off := rfl
  rw [hword, hu]

/-- A read is answered with the bytes of its region, and whether they carry poison (R175, R383). -/
theorem ueTake_read {len : Nat} {r : Region} {u : State} {bs : List Byte} {bad : Bool} (h : s.regionFor job region off len false = some r)
    (hu : s.ueFetch (s.jobStrand job) (r.base + BitVec.ofNat 64 off) len = (u, .ok (bs, bad))) :
    s.ueTake (.read peer job region off len tag) = u.ueReply (.readReply peer tag bad bs) := by
  unfold State.ueTake
  dsimp only
  have hword : r.base + word off = r.base + BitVec.ofNat 64 off := rfl
  rw [h]
  dsimp only
  rw [hword, hu]

end

/-- The acknowledgement of a chunk that nothing else of its copy waits for: the chunk is in place (R383). -/
theorem ueTake_ack {s : State} {peer tag j : Nat} {c : Copy} (ho : s.ueOwner tag = some (c, j)) (hc : s.copy? c.id = some c) (hout : c.out = [(j, tag)]) (hbits : c.bits = []) (hlost : c.lost = []) :
    s.ueTake (.ack peer tag) = ((s.onCopy c.id fun c => c.settleReq tag).chunkDone c.id j).copySettle c.id := by
  have hnow : (s.onCopy c.id fun c => c.settleReq tag).copy? c.id = some (c.settleReq tag) := State.copy?_onCopy hc fun _ => rfl
  have hrest : (c.settleReq tag).out = [] := by simp [Copy.settleReq, hout]
  unfold State.ueTake
  dsimp only
  rw [ho]
  dsimp only
  unfold State.commitChunk
  rw [hnow]
  dsimp only
  rw [Copy.busy, hrest, show (c.settleReq tag).lost = [] from hlost, show (c.settleReq tag).bits = [] from hbits]
  rfl

/-- An acknowledged chunk is in place and nothing of its copy is under way, memory and strands as before (R383). -/
theorem ackedChunk {s : State} {id tag j : Nat} {c : Copy} (hc : s.copy? id = some c) (hout : c.out = [(j, tag)]) :
    let t := ((s.onCopy id fun c => c.settleReq tag).chunkDone id j).copySettle id
    t.mem = s.mem ∧ t.cur = s.cur ∧ ∀ k, t.copy? id = some k → k.out = [] ∧ k.done.contains j = true := by
  have hnow := State.copy?_chunkDone j (State.copy?_onCopy (f := fun c => c.settleReq tag) hc fun _ => rfl)
  have hrest : (c.settleReq tag).out = [] := by simp [Copy.settleReq, hout]
  refine ⟨?_, State.copySettle_cur _ _, fun k hk => ?_⟩
  · rw [State.copySettle_mem, State.chunkDone_mem, State.onCopy_mem]
  · rcases State.copySettle_copy hnow with hgone | ⟨st, hst⟩
    · exact absurd (hgone.symm.trans hk) (by simp)
    · obtain rfl := Option.some.inj (hst.symm.trans hk)
      refine ⟨hrest, ?_⟩
      dsimp only
      split
      · assumption
      · simp

/-- Settles O28: each packet by its kind, refused, taken or held. -/
theorem uePackets : Obligations.UePackets := by
  unfold Obligations.UePackets
  refine ⟨?unregistered, ?placed, ?read, ?acked, ?order, ?unordered, ?long⟩
  case unregistered =>
    intro s peer job region off m op mapped tag psn unit bad data p hd hh hr
    obtain ⟨x, hout, hpkt, hmem⟩ := ueReply_sends (s := ueHeardNow s p) (by rw [ueHeardNow_uePort]; exact uePort_of_kept hd) (.failed peer tag .pageProtection)
    have htake := ueTake_write_unregistered (peer := peer) (tag := tag) (m := m) (op := op) (psn := psn) (unit := unit) (mapped := mapped) (bad := bad) ((ueHeardNow_regionFor s p job region off data.length true).trans hr)
    exact ⟨_, x, (exec_uePacket_taken hd hh).trans (congrArg _ htake), by rw [hout, ueHeardNow_ueOut], hpkt, by rw [hmem, ueHeardNow_mem]⟩
  case placed =>
    intro s peer job region off m tag psn unit bad data r u w p h hd hh hr hu hpkg
    have hport : u.uePort.isSome = true := by
      rw [State.uePort, hpkg]
      exact (congrArg Option.isSome (ueHeardNow_uePort s p)).trans (uePort_of_kept hd)
    obtain ⟨x, hout, hpkt, hmem⟩ := ueReply_sends hport (.ack peer tag)
    have htake := ueTake_write_placed (peer := peer) (tag := tag) (m := m) (psn := psn) ((ueHeardNow_regionFor s p job region off data.length true).trans hr) hu
    exact ⟨_, x, (exec_uePacket_taken hd hh).trans (congrArg _ htake), by rw [hout, hpkg]; exact congrArg (· ++ [x]) (ueHeardNow_ueOut s p), hpkt, hmem⟩
  case read =>
    intro s peer job region off len tag r u bs bad p h hd hr hu hpkg
    have hport : u.uePort.isSome = true := by
      rw [State.uePort, hpkg]
      exact (congrArg Option.isSome (ueHeardNow_uePort s p)).trans (uePort_of_kept hd)
    obtain ⟨x, hout, hpkt, hmem⟩ := ueReply_sends hport (.readReply peer tag bad bs)
    have htake := ueTake_read (peer := peer) (tag := tag) ((ueHeardNow_regionFor s p job region off len false).trans hr) hu
    exact ⟨_, x, (exec_uePacket_taken hd rfl).trans (congrArg _ htake), by rw [hout, hpkg]; exact congrArg (· ++ [x]) (ueHeardNow_ueOut s p), hpkt, hmem⟩
  case acked =>
    intro s peer tag c j hd ho hc hout hbits hlost
    have ho' : (ueHeardNow s (.ack peer tag)).ueOwner tag = some (c, j) := by rw [State.ueOwner, ueHeardNow_copies]; exact ho
    have hc' : (ueHeardNow s (.ack peer tag)).copy? c.id = some c := by rw [State.copy?, ueHeardNow_copies]; exact hc
    obtain ⟨hmem, hcur, hdone⟩ := ackedChunk hc' hout
    exact ⟨_, (exec_uePacket_taken hd rfl).trans (congrArg _ (ueTake_ack ho' hc' hout hbits hlost)), hmem.trans (ueHeardNow_mem s _), hcur.trans (ueHeardNow_cur s _), hdone⟩
  case order =>
    intro s peer job region off op mapped tag psn unit bad data p hd hpsn
    exact exec_uePacket_held hd (by simp [p, State.ueHolds, hpsn])
  case unordered =>
    intro s peer job region off op mapped tag psn unit bad data
    exact ⟨_, exec_uePacket_dropped (by simp [State.ueDrops]), rfl⟩
  case long =>
    intro s peer job region off len tag hlen
    exact exec_uePacket_dropped (by simp [State.ueDrops, hlen])

end Sys2Proof.Machine
end

section
/-! Appending to a chain whose header does not lie whole in this package (R205): what refutes the statement on chains. -/

namespace Sys2Proof.Machine
open Sys2Proof.Claims

/-- A ring of one slot, the last 8 bytes of which a place of this package holds. -/
def edgeRing : Ring := ⟨0, 2 ^ 46 - 8, 64, 1, 0, 0, false, 0, [.claimed], [], 1⟩

/-- The demo strand with that slot claimed through `g0`, its window's address in `s4` and a record's in `s5`. -/
def edgeState : State :=
  { State.reset.running with
    rings := [edgeRing]
    cur := ((State.reset.running.cur.setS 4 0xF400000000000000).setS 5 0xF000000000000000).setG 0 (some ⟨2 ^ 46 - 8, 0, some 0, none, none⟩) }

/-- The header's place, at the end of the places here, and the record's. -/
def edgeHeader : Hit := ⟨2 ^ 46 - 8, none, false, false, false⟩
def edgeRecord : Hit := ⟨2 ^ 44, none, false, false, false⟩

theorem edgeState_ready : Ready edgeState [4, 5, 6] := ⟨by decide +kernel, by decide +kernel⟩

theorem edgeState_calm : ReleaseCalm edgeState := ⟨by decide +kernel, by decide +kernel, by decide +kernel⟩

theorem edgeState_places : (readAll edgeState [4, 5]).chainPlaces (edgeState.cur.getS 4) (edgeState.cur.getS 5) = (edgeState, .ok (edgeHeader, edgeRecord)) := by
  decide +kernel

/-- The header's counter lies with another package: it is sent there, `capp` waits for the ack, and its destination is as before. -/
theorem edgeState_capp {t : State} (h : exec (.capp 6 4 5) edgeState = .next t) : t.cur.getS 6 = 0 := by
  have hdest : (match exec (.capp 6 4 5) edgeState with
    | .next t => t.cur.getS 6
    | _ => 1) = 0 := by decide +kernel
  rwa [h] at hdest

/-- Refutes O26: of the header the statement asks only that its first byte is here; through the window of a ring whose slot reaches over the last place of the package its counter is not, and `capp` has still to wait for it. -/
theorem not_chains : ¬ Obligations.Chains := by
  unfold Obligations.Chains
  rintro ⟨happend, -⟩
  obtain ⟨hdone, -⟩ := happend edgeState 6 4 5 edgeState edgeHeader edgeRecord 0 edgeState_ready edgeState_places (by decide +kernel) (by decide) (by decide) (by decide +kernel)
  obtain ⟨t, _, hexec, ⟨hdest, -⟩, -⟩ := hdone (by decide +kernel) (by decide) edgeState_calm (.inr (by decide))
  exact absurd ((edgeState_capp hexec).symm.trans hdest) (by decide)

end Sys2Proof.Machine
end

section
/-! Records put into a fault queue: what they leave of memory depends on memory and the keys alone (R298, R300). -/

namespace Sys2Proof.Machine
open Sys2Proof.Claims

/-- Two states with the same bytes of memory under the same keys. -/
structure SameStore (s t : State) : Prop where
  mem : t.mem = s.mem
  keys : t.keyRuns = s.keyRuns

/-- Two views of a job with one fault queue: its place, the records held and the records of large pages are the same. -/
structure SameQueue (i j : Job) : Prop where
  id : j.id = i.id
  rec_ : j.rec_ = i.rec_
  bigRecs : j.bigRecs = i.bigRecs
  held : j.held = i.held

section
variable {s t : State} {i j : Job} (h : SameStore s t) (q : SameQueue i j)
include h

theorem sameStore_devGet (loc n : Nat) : t.devGet loc n = s.devGet loc n := by
  unfold State.devGet
  rw [State.peekKey_congr h.mem h.keys]

theorem sameStore_poke (key loc : Nat) (bs : List Byte) : SameStore (s.poke key loc bs) (t.poke key loc bs) where
  mem := congrArg (fun m => SMap.setList memDefault m loc bs) h.mem
  keys := by
    have hany : ((List.range bs.length).any fun i => decide (t.keyAt (loc + i) ≠ key)) = (List.range bs.length).any fun i => decide (s.keyAt (loc + i) ≠ key) :=
      congrArg (List.any (List.range bs.length)) (funext fun i => by rw [State.keyAt_congr h.keys])
    unfold State.poke
    dsimp only
    rw [hany, h.keys]

theorem sameStore_devPut (loc n v : Nat) : SameStore (s.devPut loc n v) (t.devPut loc n v) := by
  have hput := sameStore_poke h 0 loc (bytesOfNat n v)
  unfold State.devPut
  split
  · exact ⟨by rw [State.homeWrite_mem, State.homeWrite_mem, hput.mem], by rw [State.homeWrite_keyRuns, State.homeWrite_keyRuns, hput.keys]⟩
  · exact h

include q

theorem sameStore_field (o : Nat) : t.devGet (j.rec_.fq + o) 8 = s.devGet (i.rec_.fq + o) 8 := by rw [q.rec_, sameStore_devGet h]

theorem sameStore_recPa (k : Nat) : t.recPa j k = s.recPa i k := by
  have hbase : t.fqBase j = s.fqBase i := sameStore_field h q 0
  have hcap : t.fqCap j = s.fqCap i := sameStore_field h q 8
  rw [State.recPa, State.recPa, hbase, hcap]

theorem sameStore_head : t.fqHead j = s.fqHead i := sameStore_field h q 16
theorem sameStore_tail : t.fqTail j = s.fqTail i := sameStore_field h q 24
theorem sameStore_cap : t.fqCap j = s.fqCap i := sameStore_field h q 8

theorem sameStore_mergesInto (r : FaultRec) (k : Nat) : t.mergesInto j r k = s.mergesInto i r k := by
  unfold State.mergesInto State.recMarked State.recFlags
  simp only [sameStore_recPa h q, sameStore_devGet h, q.bigRecs]

theorem sameStore_mergeTarget (r : FaultRec) : t.mergeTarget j r = s.mergeTarget i r := by
  unfold State.mergeTarget
  rw [sameStore_head h q, sameStore_tail h q, funext (sameStore_mergesInto h q r)]

theorem ringRoom_congr {r : FaultRec} (hr : RingRoom s i r) : RingRoom t j r where
  apart := (sameStore_mergeTarget h q r).trans hr.apart
  room := by rw [sameStore_head h q, sameStore_tail h q, sameStore_cap h q]; exact hr.room
  none_held := q.held.trans hr.none_held

/-- A record put into the ring gives the same memory. -/
theorem sameStore_ringPut (bytes : List Byte) : (t.ringPut j bytes []).mem = (s.ringPut i bytes []).mem := by
  have hput := sameStore_devPut (sameStore_devPut h (s.recPa i (s.fqHead i)) 64 (natOfBytes bytes)) (i.rec_.fq + 16) 8 (s.fqHead i + 1)
  have hring (u : State) (x : Job) : (u.ringPut x bytes []).mem = ((u.devPut (u.recPa x (u.fqHead x)) 64 (natOfBytes bytes)).devPut (x.rec_.fq + 16) 8 (u.fqHead x + 1)).mem := rfl
  rw [hring, hring, sameStore_recPa h q, sameStore_head h q, q.rec_]
  exact hput.mem

end

/-- What is put into a ring leaves the engines' copies and chains and the lineage of multicast branches alone. -/
theorem State.ringPut_engines (s : State) (j : Job) (bytes svc : List Byte) :
    (s.ringPut j bytes svc).pkg.copies = s.pkg.copies ∧ (s.ringPut j bytes svc).pkg.chains = s.pkg.chains ∧ (s.ringPut j bytes svc).pkg.mcast = s.pkg.mcast :=
  s.ringPut_cases j bytes svc (p := fun t => t.pkg.copies = s.pkg.copies ∧ t.pkg.chains = s.pkg.chains ∧ t.pkg.mcast = s.pkg.mcast)
    (fun t _ _ _ h => by rw [t.devPut_pkg]; exact h) (fun _ h => h) ⟨rfl, rfl, rfl⟩

/-- A record of an engine that finds room in the ring and merges with none is put there, with the time it carries or that of the fault (R202, R298). -/
theorem State.postFor_ring {s : State} {job : BitVec 32} {j : Job} {r : FaultRec} (hj : s.job? job = some j) (hr : RingRoom s j r) (hb : r.big = false) :
    (s.postFor job r).2 = s.ringPut j (r.bytes j.id (r.at_.getD s.gtime)) [] := by
  unfold State.postFor
  rw [hj]
  dsimp only
  unfold State.postRecord
  rw [hr.apart, hb]
  dsimp only
  rw [if_neg Bool.false_ne_true, if_pos ⟨hr.room, hr.none_held⟩]

end Sys2Proof.Machine
end

section
/-! The next command of a chain, and the one it runs (R204, R206). -/

namespace Sys2Proof.Machine
open Sys2Proof.Claims

/-- The next command of a chain that its engine accepts is the one a move of the engine takes up. -/
theorem State.onNext_next {s : State} {hdr cls op : Nat} {c : Chain} {cmd : ChainCmd} (h : NextCmd s hdr cls op c cmd) (k : Chain → ChainCmd → Nat → State → State) :
    s.onNext hdr cls op k = k c cmd (s.recOf c.job cmd) s := by
  obtain ⟨rest, hrest⟩ : ∃ rest, c.todo = cmd :: rest := List.head?_eq_some_iff.mp h.first
  unfold State.onNext
  rw [h.chain]
  dsimp only
  rw [h.free, hrest]
  exact if_pos ⟨h.cls, h.op, h.runs⟩

theorem State.onRunning_runs {s : State} {hdr cls op : Nat} {c : Chain} {cmd : ChainCmd} (h : RunsCmd s hdr cls op c cmd) (k : Chain → ChainCmd → Nat → State → State) :
    s.onRunning hdr cls op k = k c cmd (s.recOf c.job cmd) s := by
  unfold State.onRunning
  rw [h.chain]
  dsimp only
  rw [h.now]
  exact if_pos ⟨h.cls, h.op, h.busy, h.runs⟩

section
variable {s : State} {hdr : Nat} {c : Chain} (h : s.chain? hdr = some c) (cmd : ChainCmd)
include h

theorem State.takeCmd_chain : (s.takeCmd c cmd).chain? hdr = some (taken c cmd) := by
  unfold State.takeCmd
  rw [State.chain?_hdr h]
  exact State.chain?_onChain h fun _ => rfl

theorem State.cmdDone_chain (f : Option FaultRec) : (s.cmdDone hdr f).chain? hdr = some { c with done := true, fault := f } := State.chain?_onChain h fun _ => rfl

omit h in
/-- A chain is found by its number wherever the chains of the package are the same. -/
theorem State.chain?_congr {s t : State} (h : t.pkg.chains = s.pkg.chains) (hdr : Nat) : t.chain? hdr = s.chain? hdr := by rw [State.chain?, State.chain?, h]

/-- A command whose effects are there as soon as it is taken. -/
theorem State.marked_chain {t : State} (ht : t.pkg.chains = (s.takeCmd c cmd).pkg.chains) : (t.cmdDone hdr none).chain? hdr = some (marked c cmd) :=
  State.cmdDone_chain ((State.chain?_congr ht hdr).trans (State.takeCmd_chain h cmd)) none

end

/-- A command whose effects are all there as soon as it is taken, none of them in memory or in the strand. -/
theorem State.marked_done {s t : State} {hdr : Nat} {c : Chain} {cmd : ChainCmd} (h : s.chain? hdr = some c) (ht : t.pkg.chains = (s.takeCmd c cmd).pkg.chains) (hmem : t.mem = s.mem) (hcur : t.cur = s.cur) :
    (t.cmdDone hdr none).chain? hdr = some (marked c cmd) ∧ (t.cmdDone hdr none).mem = s.mem ∧ (t.cmdDone hdr none).cur = s.cur :=
  ⟨State.marked_chain h cmd ht, (State.cmdDone_mem ..).trans hmem, hcur⟩

/-- A descriptor read whole, without a defect and not multicast, is what a command goes on with (R204). -/
theorem State.withDesc_plain {s u : State} {c : Chain} {cmd : ChainCmd} {va : Word} {mcast : Bool} {d : Desc} (h : PlainDesc s c cmd va mcast u d) (k : Desc → List Nat → State → State) :
    s.withDesc c cmd va mcast k = k d [] u := by
  obtain ⟨⟨v, hread, rfl⟩, hgood, hsingle⟩ := h
  unfold State.withDesc
  rw [hread]
  dsimp only
  rw [hgood, hsingle]
  rfl

end Sys2Proof.Machine
end

section
/-! What the commands of chains do (R204, R305, R382, R383). -/

namespace Sys2Proof.Machine
open Sys2Proof.Claims

/-- A mark has no effect but that it is over (R204). -/
theorem markCmd_done {s : State} {hdr cls op : Nat} {c : Chain} {cmd : ChainCmd} (h : NextCmd s hdr cls op c cmd) : MarkDone s (s.markCmd hdr cls op) hdr c cmd := by
  have hmark : s.markCmd hdr cls op = (s.takeCmd c cmd).cmdDone hdr none := by
    unfold State.markCmd
    rw [State.onNext_next h, State.chain?_hdr h.chain]
  rw [hmark]
  exact ⟨State.marked_chain h.chain cmd rfl, rfl⟩

/-- The state in which a command has taken its chain and started a copy (R204). -/
def startedBy (u : State) (c : Chain) (cmd : ChainCmd) (x : Copy) : State := (u.takeCmd c cmd).addCopy x

/-- A copy made from a command's descriptor is started by its chain: by what is given of the copy, whatever stands in its other fields. -/
theorem startedCopy_of {u t : State} {hdr : Nat} {c : Chain} {cmd : ChainCmd} {eng : Engine} {d : Desc} {rev : Bool} {policy : Word} {x : Copy} (hc : u.chain? hdr = some c)
    (ht : t.pkg = (startedBy u c cmd x).pkg ∧ t.mem = u.mem ∧ t.cur = u.cur) (hid : x.id = u.pkg.nextCopy) (heng : x.eng = eng) (hdesc : x.desc = d) (hrev : x.rev = rev) (hpol : x.policy = policy)
    (hchain : x.chain = some c.hdr) (howner : x.uid = cmd.uid ∧ x.sid = cmd.sid ∧ x.job = c.job) : StartedCopy u t hdr c cmd eng d rev policy x where
  added := by rw [ht.1]; rfl
  id := hid
  eng := heng
  desc := hdesc
  rev := hrev
  policy := hpol
  chain := by rw [hchain, State.chain?_hdr hc]
  owner := howner
  taken := (State.chain?_congr (by rw [ht.1]; rfl) hdr).trans (State.takeCmd_chain hc cmd)
  mem := ht.2.1
  cur := ht.2.2

/-- The copy by a port of the engine's core that a command makes of its descriptor (R190, R204). -/
def portCopyOf (u : State) (c : Chain) (cmd : ChainCmd) (p : Nat) (d : Desc) (rev : Bool) (policy : Word) : Copy :=
  { u.cmdCopy c cmd (.port (coreOf c.field) p) d rev [] with policy := policy }

/-- A copy command of a chain whose engine has ports: the copy waits in the queue of the port its record names (R190, R204, R382). -/
theorem portCopy_started {s u : State} {hdr cls op low : Nat} {c : Chain} {cmd : ChainCmd} {d : Desc} (rev : Bool) (policy : Nat → Word) (h : NextCmd s hdr cls op c cmd) {p : Nat}
    (hp : (recArg (s.recOf c.job cmd) 1).toNat % 16 = p) (hlow : low ≤ p) (hcore : s.coreHas (coreOf c.field) c.job = true) (hd : PlainDesc s c cmd (recArg (s.recOf c.job cmd) 0) (decide (12 ≤ p)) u d)
    (hc : u.chain? hdr = some c) (hroom : (u.portOf (coreOf c.field) p).queue.length < 8) :
    ∃ x, StartedCopy u (s.portCopy hdr cls op low rev policy) hdr c cmd (.port (coreOf c.field) p) d rev (policy (s.recOf c.job cmd)) x ∧
      ((s.portCopy hdr cls op low rev policy).portOf (coreOf c.field) p).queue = (u.portOf (coreOf c.field) p).queue ++ [.copy x.id] ∧ x.st = .queued := by
  have hp16 : p < 16 := hp ▸ Nat.mod_lt _ (by decide)
  obtain ⟨x, hx⟩ : ∃ x, x = portCopyOf u c cmd p d rev (policy (s.recOf c.job cmd)) := ⟨_, rfl⟩
  have hcmd : s.portCopy hdr cls op low rev policy = (startedBy u c cmd x).onPort (coreOf c.field) p fun r => { r with queue := r.queue ++ [.copy u.pkg.nextCopy] } := by
    unfold State.portCopy
    rw [State.onNext_next h, hx]
    dsimp only
    rw [hp, hcore, if_neg (by simpa using hlow), State.withDesc_plain hd]
    exact if_neg (by simpa [portQueueCap] using hroom)
  have hqueue := congrArg Port.queue (State.portOf_onPort (startedBy u c cmd x) (coreOf c.field) hp16 fun r => { r with queue := r.queue ++ [.copy u.pkg.nextCopy] })
  rw [hcmd]
  subst hx
  have hstore : (startedBy u c cmd (portCopyOf u c cmd p d rev (policy (s.recOf c.job cmd)))).mem = u.mem := (State.addCopy_mem ..).trans (State.takeCmd_mem ..)
  exact ⟨portCopyOf u c cmd p d rev _, startedCopy_of hc ⟨State.onCore_pkg .., (State.onPort_mem ..).trans hstore, State.onCore_cur ..⟩ rfl rfl rfl rfl rfl rfl ⟨rfl, rfl, rfl⟩, hqueue, rfl⟩

section
variable {s u : State} {hdr : Nat} {c : Chain} {cmd : ChainCmd}

/-- A copy that an engine without ports starts at once (R305, R383). -/
theorem engineCmd_started {eng : Engine} {d : Desc} {rev : Bool} {policy : Word} {x : Copy} (hc : u.chain? hdr = some c) (hid : x.id = u.pkg.nextCopy) (heng : x.eng = eng) (hdesc : x.desc = d)
    (hrev : x.rev = rev) (hpol : x.policy = policy) (hchain : x.chain = some c.hdr) (howner : x.uid = cmd.uid ∧ x.sid = cmd.sid ∧ x.job = c.job) :
    StartedCopy u (u.engineCmd c cmd x) hdr c cmd eng d rev policy { x with st := .running } :=
  startedCopy_of hc ⟨rfl, rfl, rfl⟩ hid heng hdesc hrev hpol hchain howner

/-- INDIGO_PATH_SET (R382): every path of the peer's table takes its PIN and AVOID bits from the record. -/
theorem exec_indigoPathSet {k : Nat} (h : NextCmd s hdr 2 6 c cmd) (hk : peerKey (recArg (s.recOf c.job cmd) 0) = some k) :
    ∃ t, exec (.indigoPathSet hdr) s = .next t ∧ t.chain? hdr = some (marked c cmd) ∧
      (∀ (i : Nat) (p : PathEntry), (s.peer k).paths[i]? = some p → (t.peer k).paths[i]? = some { p with pin := (recArg (s.recOf c.job cmd) 1).getLsbD i, avoid := (recArg (s.recOf c.job cmd) 2).getLsbD i }) ∧
      t.mem = s.mem ∧ t.cur = s.cur := by
  have hexec : exec (.indigoPathSet hdr) s = .next _ := congrArg Host.Outcome.next (State.onNext_next h _)
  rw [hk] at hexec
  dsimp only at hexec
  have hkeeps (q : Peer) := State.marked_done (t := (s.takeCmd c cmd).setPeer k q) h.chain rfl ((State.setPeer_mem ..).trans (State.takeCmd_mem ..)) (State.onPkg_cur ..)
  obtain ⟨hchain, hmem, hcur⟩ := hkeeps _
  refine ⟨_, hexec, hchain, fun i p hp => ?_, hmem, hcur⟩
  have hset := SMap.get_set_self Peer.zero s.pkg.peers k
  refine (congrArg (fun q : Peer => q.paths[i]?) (hset _)).trans ?_
  simp [hp]

/-- UE_REGISTER_REGION (R379, R383): a well-formed region heads the regions of the job. -/
theorem exec_ueRegisterRegion {j : Job} (h : NextCmd s hdr 3 3 c cmd) (hj : s.job? c.job = some j) (hid : (recArg (s.recOf c.job cmd) 0).toNat < 1024)
    (hbase : (recArg (s.recOf c.job cmd) 1).toNat % 512 = 0) (hlen : (recArg (s.recOf c.job cmd) 2).toNat % 512 = 0) (hmap : (recArg (s.recOf c.job cmd) 3).toNat % 8 = 0) :
    ∃ t j', exec (.ueRegisterRegion hdr) s = .next t ∧ t.job? c.job = some j' ∧
      j'.regions.head? = some ⟨(recArg (s.recOf c.job cmd) 0).toNat, recArg (s.recOf c.job cmd) 1, (recArg (s.recOf c.job cmd) 2).toNat, recArg (s.recOf c.job cmd) 3,
        (recArg (s.recOf c.job cmd) 4).getLsbD 0, (recArg (s.recOf c.job cmd) 4).getLsbD 1⟩ ∧
      t.chain? hdr = some (marked c cmd) ∧ t.mem = s.mem ∧ t.cur = s.cur := by
  have hexec : exec (.ueRegisterRegion hdr) s = .next _ := congrArg Host.Outcome.next (State.onNext_next h _)
  dsimp only at hexec
  rw [if_neg (by omega)] at hexec
  have hkeeps (f : Job → Job) := State.marked_done (t := (s.takeCmd c cmd).onJob c.job f) h.chain rfl ((State.onJob_mem ..).trans (State.takeCmd_mem ..)) (State.onJob_cur ..)
  obtain ⟨hchain, hmem, hcur⟩ := hkeeps _
  exact ⟨_, _, hexec, State.job?_onJob (s := s.takeCmd c cmd) _ hj (fun _ => rfl) (fun _ => rfl), rfl, hchain, hmem, hcur⟩

/-- OCHRE_COPY and OCHRE_COPYR (R305): the copy of a plain descriptor runs on the die's engine. -/
theorem ochreCmd_started {op : Nat} {d : Desc} (rev : Bool) (h : NextCmd s hdr 1 op c cmd) (harg : recArg (s.recOf c.job cmd) 1 = 0) (hd : PlainDesc s c cmd (recArg (s.recOf c.job cmd) 0) false u d)
    (hc : u.chain? hdr = some c) : ∃ x, StartedCopy u (s.ochreCmd hdr op rev) hdr c cmd (ochreOf c.field) d rev 0x100000000 x ∧ x.st = .running := by
  have hcmd : s.ochreCmd hdr op rev = u.engineCmd c cmd (u.cmdCopy c cmd (ochreOf c.field) d rev []) := by
    unfold State.ochreCmd
    rw [State.onNext_next h, if_neg (not_not_intro harg), State.withDesc_plain hd]
  rw [hcmd]
  exact ⟨_, engineCmd_started hc rfl rfl rfl rfl rfl rfl ⟨rfl, rfl, rfl⟩, rfl⟩

theorem fillDesc_mapped (dst len : Word) : (fillDesc dst len).mapped = false := by simp [fillDesc, Desc.mapped]

theorem fillDesc_len (dst : Word) {len : Word} (h : len.toNat % 8 = 0) : (fillDesc dst len).len = len.toNat := by
  simp [fillDesc, Desc.len, Nat.div_mul_cancel (Nat.dvd_of_mod_eq_zero h)]

/-- OCHRE_FILL (R305): the copy of a pattern runs on the die's engine. -/
theorem exec_ochreFill (h : NextCmd s hdr 1 4 c cmd) (hdst : (recArg (s.recOf c.job cmd) 0).toNat % 8 = 0) (hlen : (recArg (s.recOf c.job cmd) 1).toNat % 8 = 0) :
    ∃ t x d, exec (.ochreFill hdr) s = .next t ∧ StartedCopy s t hdr c cmd (.ochre (sidDie c.field) (c.field.toNat / 256 % 2)) d false 0x100000000 x ∧
      d.dst = recArg (s.recOf c.job cmd) 0 ∧ d.len = (recArg (s.recOf c.job cmd) 1).toNat ∧ d.mapped = false ∧ x.fill = some (recArg (s.recOf c.job cmd) 2) ∧ x.st = .running := by
  have hexec : exec (.ochreFill hdr) s = .next _ := congrArg Host.Outcome.next (State.onNext_next h _)
  dsimp only at hexec
  rw [if_neg (by omega)] at hexec
  refine ⟨_, _, _, hexec, engineCmd_started h.chain rfl rfl rfl rfl rfl rfl ⟨rfl, rfl, rfl⟩, rfl, ?_, fillDesc_mapped .., rfl, rfl⟩
  exact fillDesc_len _ hlen

/-- UE_WRITE (R383): the copy of a descriptor fit for the mode runs on the endpoint. -/
theorem exec_ueWrite {d : Desc} {peer region : Nat} {m : UeMode} (h : NextCmd s hdr 3 1 c cmd) (hfar : ueFar (recArg (s.recOf c.job cmd) 1) = some (peer, region))
    (hm : ueModeOf ((recArg (s.recOf c.job cmd) 3).toNat % 4) = some m) (hd : PlainDesc s c cmd (recArg (s.recOf c.job cmd) 0) false u d) (hgood : ueWriteBad d m = false) (hc : u.chain? hdr = some c) :
    ∃ t x, exec (.ueWrite hdr) s = .next t ∧ StartedCopy u t hdr c cmd .ue d false (recArg (s.recOf c.job cmd) 2) x ∧ x.ue = some ⟨peer, region, m, false, d.mapped⟩ ∧ x.st = .running := by
  have hexec : exec (.ueWrite hdr) s = .next _ := congrArg Host.Outcome.next (State.onNext_next h _)
  rw [hfar, hm] at hexec
  dsimp only at hexec
  rw [State.withDesc_plain hd, hgood, if_neg Bool.false_ne_true] at hexec
  exact ⟨_, _, hexec, engineCmd_started hc rfl rfl rfl rfl rfl rfl ⟨rfl, rfl, rfl⟩, rfl, rfl⟩

/-- UE_READ (R383): the copy of a descriptor runs on the endpoint, towards this package. -/
theorem exec_ueRead {d : Desc} {peer region : Nat} (h : NextCmd s hdr 3 2 c cmd) (hfar : ueFar (recArg (s.recOf c.job cmd) 1) = some (peer, region))
    (hd : PlainDesc s c cmd (recArg (s.recOf c.job cmd) 0) false u d) (hc : u.chain? hdr = some c) :
    ∃ t x, exec (.ueRead hdr) s = .next t ∧ StartedCopy u t hdr c cmd .ue d true (recArg (s.recOf c.job cmd) 2) x ∧ x.ue = some ⟨peer, region, .rud, true, d.mapped⟩ ∧ x.st = .running := by
  have hexec : exec (.ueRead hdr) s = .next _ := congrArg Host.Outcome.next (State.onNext_next h _)
  rw [hfar] at hexec
  dsimp only at hexec
  rw [State.withDesc_plain hd] at hexec
  exact ⟨_, _, hexec, engineCmd_started hc rfl rfl rfl rfl rfl rfl ⟨rfl, rfl, rfl⟩, rfl, rfl⟩

/-- INDIGO_WAIT_MET by the deadline, of a counter of this package (R382): the command is over where the counter has reached its value, and else nothing has happened. -/
theorem exec_indigoWaitMet {h : Hit} (hrun : RunsCmd s hdr 2 4 c cmd) (hplace : s.indigoPlace c cmd (recArg (s.recOf c.job cmd) 0) .load = (u, .ok h)) (hhere : isHere h.loc = true)
    (htime : (s.jtimeOf c.job).toNat ≤ (recArg (s.recOf c.job cmd) 2).toNat) :
    exec (.indigoWaitMet hdr) s = .next (if (recArg (s.recOf c.job cmd) 1).toNat ≤ u.peekKey h.key h.loc 8 then u.cmdDone hdr none else u) := by
  have hexec : exec (.indigoWaitMet hdr) s = .next _ := congrArg Host.Outcome.next (State.onRunning_runs hrun _)
  have hlate : s.indigoLate c.job (s.recOf c.job cmd) = false := decide_eq_false (Nat.not_lt.mpr htime)
  dsimp only at hexec
  rw [hlate, if_neg Bool.false_ne_true, hplace] at hexec
  dsimp only at hexec
  rwa [if_pos hhere] at hexec

/-- A job with a cause in its local list where it is frozen (R389): its fault queue is the same. -/
def heldCause (j : Job) (cause : Cause) : Job := if j.slate.st = .running then j else { j with slate := j.slate.addLocal cause }

theorem sameQueue_heldCause (j : Job) (cause : Cause) : SameQueue j (heldCause j cause) := by
  unfold heldCause
  split <;> exact ⟨rfl, rfl, rfl, rfl⟩

theorem State.job?_noteLocal {job : BitVec 32} {j : Job} (hj : s.job? job = some j) (cause : Cause) : (s.noteLocal job cause).job? job = some (heldCause j cause) := by
  have hid (x : Job) : (heldCause x cause).id = x.id := (sameQueue_heldCause x cause).id
  have hstate (x : Job) : (heldCause x cause).state.final = x.state.final := by
    unfold heldCause
    split <;> rfl
  exact State.job?_onJob (fun x => heldCause x cause) hj hid hstate

/-- A command that fails with a record for which the ring has room (R206): the record is posted, and the command is over with it. -/
theorem cmdFail_posts {job : BitVec 32} {j : Job} {r : FaultRec} (hc : s.chain? hdr = some c) (hjob : c.job = job) (hj : s.job? job = some j) (hr : RingRoom s j r) (hb : r.big = false) (hat : r.at_ = none) :
    (s.cmdFail c r).mem = (s.ringPut j (r.bytes j.id s.gtime) []).mem ∧ (s.cmdFail c r).chain? hdr = some { c with done := true, fault := some r } ∧ (s.cmdFail c r).cur = s.cur := by
  subst hjob
  obtain ⟨u, hu⟩ : ∃ u, u = s.noteLocal c.job { r with at_ := some s.gtime }.cause := ⟨_, rfl⟩
  obtain ⟨i, hi⟩ : ∃ i, i = heldCause j { r with at_ := some s.gtime }.cause := ⟨_, rfl⟩
  have hq : SameQueue j i := hi ▸ sameQueue_heldCause ..
  have hstore : SameStore s u := hu ▸ ⟨rfl, rfl⟩
  have hui : u.job? c.job = some i := by rw [hu, hi]; exact State.job?_noteLocal hj _
  have hpost : (u.postFor c.job r).2 = u.ringPut i (r.bytes j.id s.gtime) [] := by
    rw [State.postFor_ring hui (ringRoom_congr hstore hq hr) hb, hq.id, hat, hu]
    rfl
  have hfail : s.cmdFail c r = (u.ringPut i (r.bytes j.id s.gtime) []).cmdDone hdr (some r) := by
    unfold State.cmdFail
    rw [State.chain?_hdr hc, ← hu, hpost]
  have hchain : (u.ringPut i (r.bytes j.id s.gtime) []).chain? hdr = some c := by
    rw [State.chain?_congr (u.ringPut_engines i _ []).2.1, hu]
    exact hc
  rw [hfail]
  have hcur : (u.ringPut i (r.bytes j.id s.gtime) []).cur = s.cur := by
    rw [State.ringPut_cur, hu]
    rfl
  exact ⟨(State.cmdDone_mem ..).trans (sameStore_ringPut hstore hq _), State.cmdDone_chain hchain _, (State.onPkg_cur ..).trans hcur⟩

/-- INDIGO_SIGNAL to a word of this package (R382): the word takes the sum, a release at scope fab stands for it, and the chain's writes have the write. -/
theorem exec_indigoSignal {h : Hit} (hnext : NextCmd s hdr 2 5 c cmd) (hplace : s.indigoPlace c cmd (recArg (s.recOf c.job cmd) 0) .atomic = (u, .ok h)) (hhere : isHere h.loc = true) (hc : u.chain? hdr = some c) :
    ∃ t, exec (.indigoSignal hdr) s = .next t ∧
      t.bytesAt h.loc 8 = bytesOfNat 8 ((u.peekKey h.key h.loc 8 + (recArg (s.recOf c.job cmd) 1).toNat) % 2 ^ 64) ∧
      (∀ x, x < h.loc ∨ h.loc + 8 ≤ x → t.mem.get memDefault x = u.mem.get memDefault x) ∧
      t.rels = ⟨u.nextRel, cmd.sid, false, .fab, cmd.hb ||| c.writes⟩ :: u.rels ∧ t.chain? hdr = some { marked c cmd with writes := c.writes ||| 2 ^ u.nextW } ∧ t.cur = u.cur := by
  obtain ⟨v, hv⟩ : ∃ v, v = ((u.takeCmd c cmd).recordRelease cmd.sid .fab (cmd.hb ||| c.writes)).2 := ⟨_, rfl⟩
  obtain ⟨x, hx⟩ : ∃ x, x = (u.peekKey h.key h.loc 8 + (recArg (s.recOf c.job cmd) 1).toNat) % 2 ^ 64 := ⟨_, rfl⟩
  have hexec : exec (.indigoSignal hdr) s = .next (((v.homeWrite h.key h.loc 8 x (some u.nextRel)).chainWrote hdr (2 ^ u.nextW)).cmdDone hdr none) := by
    have hexec : exec (.indigoSignal hdr) s = .next _ := congrArg Host.Outcome.next (State.onNext_next hnext _)
    dsimp only at hexec
    rw [hplace] at hexec
    dsimp only at hexec
    rw [if_pos hhere] at hexec
    rw [hexec, hv, hx]
    rfl
  have hchain : (v.homeWrite h.key h.loc 8 x (some u.nextRel)).chain? hdr = some (taken c cmd) := by
    rw [State.chain?_congr (congrArg Pkg.chains (State.homeWrite_pkg ..)), hv]
    exact State.takeCmd_chain hc cmd
  refine ⟨_, hexec, ?_, fun y hy => ?_, ?_, ?_, ?_⟩
  · rw [← hx]
    exact v.homeWrite_bytesAt h.key h.loc 8 x (some u.nextRel)
  · refine (State.homeWrite_other v h.key h.loc 8 x (some u.nextRel) y hy).trans ?_
    rw [hv]
    rfl
  · refine (v.homeWrite_rels h.key h.loc 8 x (some u.nextRel)).trans ?_
    rw [hv]
    rfl
  · exact State.cmdDone_chain (State.chain?_onChain (f := fun k => { k with writes := k.writes ||| 2 ^ u.nextW }) hchain fun _ => rfl) none
  · refine (v.homeWrite_cur h.key h.loc 8 x (some u.nextRel)).trans ?_
    rw [hv]
    rfl

end

/-- Settles O27: each command is the one its engine takes up next, and what it does follows from its record; what a failed wait posts is what its job's ring holds. -/
theorem chainCommands : Obligations.ChainCommands := by
  refine ⟨⟨fun _ _ _ _ h => ⟨_, rfl, markCmd_done h⟩, fun _ _ _ _ h => ⟨_, rfl, markCmd_done h⟩, fun _ _ _ _ h => ⟨_, rfl, markCmd_done h⟩, fun _ _ _ _ h => ⟨_, rfl, markCmd_done h⟩,
    fun _ _ _ _ _ h hk => exec_indigoPathSet h hk, fun _ _ _ _ _ h hj hid hbase hlen hmap => exec_ueRegisterRegion h hj hid hbase hlen hmap⟩,
    ⟨?_, ?_, ?_, fun _ _ _ _ h hdst hlen => exec_ochreFill h hdst hlen, fun _ _ _ _ _ _ _ _ _ h hfar hm hd hgood hc => exec_ueWrite h hfar hm hd hgood hc,
      fun _ _ _ _ _ _ _ _ h hfar hd hc => exec_ueRead h hfar hd hc⟩, ⟨?_, ?_, ?_, fun _ _ _ _ _ _ hnext hplace hhere hc => exec_indigoSignal hnext hplace hhere hc⟩⟩
  case refine_1 =>
    intro s hdr c cmd u d rev h p hlow hcore hd hc hroom
    cases rev
    · exact ⟨_, (portCopy_started false freePolicy h rfl hlow hcore hd hc hroom).imp fun _ hx => ⟨rfl, hx⟩⟩
    · exact ⟨_, (portCopy_started true freePolicy h rfl hlow hcore hd hc hroom).imp fun _ hx => ⟨rfl, hx⟩⟩
  case refine_2 =>
    intro s hdr c cmd u d rev h p hlow hcore hd hc hroom
    have hd12 : PlainDesc s c cmd (recArg (s.recOf c.job cmd) 0) (decide (12 ≤ p)) u d := (decide_eq_true hlow).symm ▸ hd
    cases rev
    · exact ⟨_, (portCopy_started false (fun v => recArg v 2) h rfl hlow hcore hd12 hc hroom).imp fun _ hx => ⟨rfl, hx⟩⟩
    · exact ⟨_, (portCopy_started true (fun v => recArg v 2) h rfl hlow hcore hd12 hc hroom).imp fun _ hx => ⟨rfl, hx⟩⟩
  case refine_3 =>
    intro s hdr c cmd u d rev h harg hd hc
    cases rev
    · exact ⟨_, (ochreCmd_started false h harg hd hc).imp fun _ hx => ⟨rfl, hx⟩⟩
    · exact ⟨_, (ochreCmd_started true h harg hd hc).imp fun _ hx => ⟨rfl, hx⟩⟩
  case refine_4 =>
    intro s hdr c cmd h
    exact ⟨_, congrArg Host.Outcome.next (State.onNext_next h _), State.takeCmd_chain h.chain cmd, rfl, rfl⟩
  case refine_5 =>
    intro s hdr c cmd u h hrun hplace hhere hc htime
    have hexec := exec_indigoWaitMet hrun hplace hhere htime
    refine ⟨fun hmet => ⟨_, ?_, State.cmdDone_chain hc none, rfl⟩, fun hshort => ?_⟩
    · rwa [if_pos hmet] at hexec
    · rwa [if_neg (Nat.not_le.mpr hshort)] at hexec
  case refine_6 =>
    intro s hdr c cmd j hrun hlate hj r hroom
    have hexec : exec (.indigoWaitExpired hdr) s = .next _ := congrArg Host.Outcome.next (State.onRunning_runs hrun _)
    have hpassed : s.indigoLate c.job (s.recOf c.job cmd) = true := decide_eq_true hlate
    rw [if_pos hpassed] at hexec
    obtain ⟨hmem, hchain, hcur⟩ := cmdFail_posts hrun.chain rfl hj hroom rfl rfl
    exact ⟨_, hexec, hmem, hchain, hcur⟩

end Sys2Proof.Machine
end

section
/-! What the streamers and the copy engines reach in the issuing strand's own scratchpad, and what they read there (R191, R198, R268, R279). -/

namespace Sys2Proof.Machine
open Sys2Proof.Claims

/-- An engine reaches a place of the strand's own scratchpad as the strand does (R279). -/
theorem engReach_own {s : State} {va : Word} {n : Nat} (h : OwnAccess s va n) {nd : Need} (hx : nd.x = false) (k : Nat) : s.engReach s.cur va k nd = (s, .ok (ownHit s va)) := by
  have hring : isRingWin va = false := decide_eq_false (by rw [h.window]; decide)
  unfold State.engReach
  rw [hring, if_neg Bool.false_ne_true, reach_own h hx]

/-- Places all of whose writes an engine is sure of read as memory stands, and nothing is left to choose (R198, R268). -/
theorem State.engineLoad_known {s : State} {w0 hb loc n : Nat} (key : Nat) (hn : isHbm loc = false) (hk : ∀ w ∈ s.hist, overlaps w.loc w.n loc n = true → knownTo w0 hb w = true)
    (hs : ∀ w ∈ s.sable, overlaps w.loc w.n loc n = false) : s.engineLoad w0 hb key loc n = (s.bytesAt loc n, s) := by
  have hbytes : ((placesOf loc n).map fun a => (⟨a, s.publicByte a, none⟩ : LoadByte)).map (·.cur) = s.bytesAt loc n := by
    rw [State.bytesAt, SMap.getList_eq_map, placesOf, List.map_map, List.map_map]
    refine List.map_congr_left fun i hi => State.publicByte_plain fun w hw => ?_
    by_contra hc
    have hover := overlaps_of_covers (List.mem_range.mp hi) (eq_true_of_ne_false hc)
    exact absurd (hover.symm.trans (hs w hw)) (by decide)
  obtain ⟨r, hr⟩ := phaseWalk_known (knownTo w0 hb) s.hist none s.free ((placesOf loc n).map fun a => ⟨a, s.publicByte a, none⟩) (by
    intro w hw x hx hc
    obtain ⟨a, ha, rfl⟩ := List.mem_map.mp hx
    obtain ⟨i, hi, rfl⟩ := List.mem_map.mp ha
    exact hk w hw (overlaps_of_covers (List.mem_range.mp hi) hc))
  unfold State.engineLoad State.phaseLoad
  rw [hr, hbytes]
  dsimp only
  rw [State.decrypt_near _ _ _ _ hn]

theorem State.byUid?_cur (s : State) : s.byUid? s.cur.uid = some s.cur := if_pos rfl

end Sys2Proof.Machine
end

section
/-! The status of a port (R208). -/

namespace Sys2Proof.Machine
open Sys2Proof.Claims

/-- The copy at the head of a port: the one it runs, and else the one its queue begins with (R208). -/
def portHead (s : State) (core p : Nat) : Option Copy :=
  match (s.portOf core p).running, (s.portOf core p).queue.head? with
  | some id, _ | none, some (.copy id) => s.copy? id
  | _, _ => none

/-- Whether a copy of a port has faulted and is not yet taken up again (R202, R208). -/
def awaitsReplay (s : State) (core p : Nat) : Bool := s.pkg.copies.any fun c => decide (c.eng = .port core p ∧ (c.st = .faulted ∨ c.st = .replayQueued))

theorem awaitsReplay_iff (s : State) (core p : Nat) : awaitsReplay s core p = true ↔ ∃ c ∈ s.pkg.copies, c.eng = .port core p ∧ (c.st = .faulted ∨ c.st = .replayQueued) := by
  simp [awaitsReplay]

/-- The fields of R208 put together: tag, bytes in place, and the four bits and the length below them. -/
def statWord (tag bytes : Nat) (bound replay running : Bool) (len : Nat) : Word :=
  word (tag * 2 ^ 48 + bytes * 2 ^ 8 + bound.toNat * 2 ^ 6 + replay.toNat * 2 ^ 5 + running.toNat * 2 ^ 4 + len)

theorem portStat_eq (s : State) (p : Nat) : s.portStat p =
    statWord (((portHead s s.curCore p).map fun c => c.desc.tag.toNat % 2 ^ 16).getD 0) (((portHead s s.curCore p).map Copy.bytesDone).getD 0)
      (s.portOf s.curCore p).bound.isSome (awaitsReplay s s.curCore p) (s.portOf s.curCore p).running.isSome (s.portOf s.curCore p).queue.length := by
  have hbit (b : Bool) (k : Nat) : (if b then 2 ^ k else 0) = b.toNat * 2 ^ k := by cases b <;> simp
  unfold State.portStat statWord portHead awaitsReplay
  dsimp only
  rw [hbit, hbit, hbit]
  cases (s.portOf s.curCore p).running with
  | some id => cases hk : s.copy? id <;> simp [hk]
  | none =>
    cases (s.portOf s.curCore p).queue with
    | nil => simp
    | cons x xs =>
      cases x with
      | copy id => cases hk : s.copy? id <;> simp [hk]
      | bind u v => simp

/-- Each field of a status reads what was put there (R208). -/
theorem statWord_fields {tag bytes len : Nat} {bound replay running : Bool} (ht : tag < 2 ^ 16) (hb : bytes < 2 ^ 40) (hl : len < 16) {v : Word} (hv : v = statWord tag bytes bound replay running len) :
    v.toNat % 16 = len ∧ v.getLsbD 4 = running ∧ v.getLsbD 6 = bound ∧ v.getLsbD 5 = replay ∧ v.toNat / 2 ^ 8 % 2 ^ 40 = bytes ∧ v.toNat / 2 ^ 48 = tag := by
  have hcases (b : Bool) : b = decide (b.toNat = 1) ∧ b.toNat ≤ 1 := by cases b <;> decide
  obtain ⟨hbound, hbound1⟩ := hcases bound
  obtain ⟨hreplay, hreplay1⟩ := hcases replay
  obtain ⟨hrunning, hrunning1⟩ := hcases running
  have hval : v.toNat = tag * 2 ^ 48 + bytes * 2 ^ 8 + bound.toNat * 2 ^ 6 + replay.toNat * 2 ^ 5 + running.toNat * 2 ^ 4 + len := by
    rw [hv]
    exact (BitVec.toNat_ofNat ..).trans (Nat.mod_eq_of_lt (by omega))
  have hbit (i : Nat) : v.getLsbD i = decide (v.toNat / 2 ^ i % 2 = 1) := Nat.testBit_eq_decide_div_mod_eq
  refine ⟨by omega, (hbit 4).trans ?_, (hbit 6).trans ?_, (hbit 5).trans ?_, by omega, by omega⟩
  · rw [hrunning]
    exact decide_eq_decide.mpr (by omega)
  · rw [hbound]
    exact decide_eq_decide.mpr (by omega)
  · rw [hreplay]
    exact decide_eq_decide.mpr (by omega)

theorem readAll_portStat (s : State) (srcs : List (BitVec 5)) (p : Nat) : (readAll s srcs).portStat p = s.portStat p := by
  obtain ⟨h, q, o, e⟩ := readAll_eq s srcs
  rw [e]
  rfl

/-- `cstat` writes the status of a port (R208). -/
theorem exec_cstat {s : State} {d a : BitVec 5} (h : Ready s [a, d]) (hp : (s.cur.getS a).toNat < 16) : Writes s (exec (.cstat d a) s) d (s.portStat (s.cur.getS a).toNat) := by
  have hexec : exec (.cstat d a) s = .next ((readAll s [a]).onCur fun t => t.setS d (s.portStat (s.cur.getS a).toNat)).retire := by
    refine congrArg Host.Outcome.next ((issue_of_ready h [a] [d] _ (by simp)).trans ?_)
    dsimp only
    rw [readAll_getS, if_neg (Nat.not_le.mpr hp), readAll_portStat]
  rw [hexec]
  exact readAll_setS_retire [a] d _ h.calm

/-- A number above 15 names no port (R208). -/
theorem exec_cstat_beyond {s : State} {d a : BitVec 5} (h : Ready s [a, d]) (hp : 16 ≤ (s.cur.getS a).toNat) :
    exec (.cstat d a) s = .next ((readAll s [a]).faultCode .illegalOperand 0 0 0) := by
  refine congrArg Host.Outcome.next ((issue_of_ready h [a] [d] _ (by simp)).trans ?_)
  dsimp only
  rw [readAll_getS, if_pos hp]

end Sys2Proof.Machine
end

section
/-! Stream registers and the ports bound to them (R191, R192). -/

namespace Sys2Proof.Machine
open Sys2Proof.Claims

/-- Unbinding a register that is not bound does nothing (R192). -/
theorem State.unbindStream_none {s : State} {d : BitVec 5} (h : s.cur.stream d = none) : s.unbindStream d = s := by
  unfold State.unbindStream
  rw [h]

@[simp] theorem readAll_portOf (s : State) (srcs : List (BitVec 5)) (core p : Nat) : (readAll s srcs).portOf core p = s.portOf core p := by
  obtain ⟨h, q, o, e⟩ := readAll_eq s srcs
  rw [e]
  rfl

/-- `sbind` of an unbound register to a free vector port with a good pattern (R191). -/
theorem exec_sbind {s u : State} {d a : BitVec 5} {e : BitVec 3} {p : BitVec 4} {v : Nat} (h : Ready s [a]) (hd : s.cur.stream d = none) (hp : p.toNat < 4)
    (hfree : (s.portOf s.curCore p.toNat).bound = none) (hrec : ReadsRec (readAll s [a]) (s.cur.getS a) 64 8 v u) (hu : u.cur.stream d = none) (hgood : (descOf v).bad false = false)
    (hpat : (descOf v).patternOnly = true) :
    exec (.sbind d a e p) s = .next (u.bindStream d ⟨p.toNat, descOf v, u.cur.vbits / 8, e.toNat + 1, 0, u.nextW⟩).retire := by
  have hvec : decide (4 ≤ p.toNat ∧ p.toNat < 12) = false := decide_eq_false (by omega)
  have hkeep : (readAll s [a]).unbindStream d = readAll s [a] := State.unbindStream_none (by rw [readAll_stream, hd])
  refine congrArg Host.Outcome.next ((issue_of_ready h [a] [] _ (by simp)).trans ?_)
  dsimp only
  rw [hkeep, readAll_portOf, readAll_curCore, hfree, hvec, readAll_getS, if_neg (by decide), readRec_got hrec, hgood, hpat, if_neg (by decide), State.unbindStream_none hu, if_neg (by omega)]

theorem State.portOf_congr {s t : State} (h : t.cores = s.cores) (core p : Nat) : t.portOf core p = s.portOf core p := by
  unfold State.portOf State.core
  rw [h]

/-- A port as `sbind` of a register leaves it (R191). -/
def boundPort (u : State) (d : BitVec 5) (b : StreamBind) (p : Port) : Port :=
  if b.port < 4 then { p with bound := some (u.cur.uid, d), active := true } else { p with queue := p.queue ++ [.bind u.cur.uid d] }

theorem bindStream_cores (u : State) (d : BitVec 5) (b : StreamBind) : (u.bindStream d b).cores = (u.onPort u.curCore b.port (boundPort u d b)).cores := rfl

/-- A vector port is bound at once (R191). -/
theorem bindStream_port {u : State} (d : BitVec 5) {b : StreamBind} (hb : b.port < 4) : ((u.bindStream d b).portOf u.curCore b.port).bound = some (u.cur.uid, d) := by
  rw [State.portOf_congr (bindStream_cores u d b), State.portOf_onPort u u.curCore (by omega), boundPort, if_pos hb]

theorem bindStream_stream (u : State) (d : BitVec 5) (b : StreamBind) : (u.bindStream d b).cur.stream d = some b := SMap.get_set_self none u.cur.streams d.toNat (some b)

/-- What completing in order leaves as it is: the registers and their bindings, the cores and memory (R83). -/
theorem retire_keeps {s : State} (h : s.cur.pre = none) : s.retire.cores = s.cores ∧ s.retire.mem = s.mem ∧ s.retire.cur.streams = s.cur.streams ∧ s.retire.cur.sregs = s.cur.sregs ∧
    s.retire.cur.vregs = s.cur.vregs ∧ Stepped s s.retire := by
  rw [State.retire_goOn h]
  exact ⟨rfl, rfl, rfl, rfl, rfl, ⟨rfl, rfl⟩⟩

/-- A port as `sunbind` of a register bound to it leaves it (R192). -/
def unboundPort (s : State) (d : BitVec 5) (p : Port) : Port :=
  let p1 := { p with queue := p.queue.filter fun x => decide (x ≠ .bind s.cur.uid d) }
  if p.bound = some (s.cur.uid, d) then p1.unbind else p1

section
variable {s : State} {d : BitVec 5} {b : StreamBind} (hb : s.cur.stream d = some b) (hbound : (s.portOf s.curCore b.port).bound = some (s.cur.uid, d))
include hb hbound

/-- What unbinding a register makes of the state: its port is let go, and it holds 0 (R192). -/
theorem unbindStream_eq : s.unbindStream d =
    ((s.dropPortAsks s.curCore b.port).onPort s.curCore b.port (unboundPort s d)).onCur fun t => { t.setV d 0 with streams := t.streams.set none d.toNat none } := by
  unfold State.unbindStream
  rw [hb]
  dsimp only
  rw [if_pos hbound]
  rfl

theorem unbindStream_port (hp : b.port < 16) : (s.unbindStream d).portOf s.curCore b.port = unboundPort s d (s.portOf s.curCore b.port) := by
  rw [unbindStream_eq hb hbound]
  exact State.portOf_onPort (s.dropPortAsks s.curCore b.port) s.curCore hp (unboundPort s d)

/-- `sunbind` of a bound register (R192). -/
theorem exec_sunbind (h : Ready s []) (hp : b.port < 16) :
    ∃ t, exec (.sunbind d) s = .next t ∧ t.cur.stream d = none ∧ t.cur.getV d = 0 ∧ (t.portOf s.curCore b.port).bound = none ∧
      (t.portOf s.curCore b.port).strips = [] ∧ t.mem = s.mem ∧ (∀ r, r ≠ d → t.cur.getV r = s.cur.getV r) ∧ Stepped s t := by
  have hexec : exec (.sunbind d) s = .next (s.unbindStream d).retire := congrArg Host.Outcome.next (issue_of_ready h [] [] _ (by simp))
  have heq := unbindStream_eq hb hbound
  have hport := unbindStream_port hb hbound hp
  have hlet : (unboundPort s d (s.portOf s.curCore b.port)).bound = none ∧ (unboundPort s d (s.portOf s.curCore b.port)).strips = [] := by
    unfold unboundPort
    rw [if_pos hbound]
    exact ⟨rfl, rfl⟩
  obtain ⟨hcores, hmem, hstreams, _, hvregs, hpc, hloops⟩ := retire_keeps (s := s.unbindStream d) (by rw [heq]; exact h.calm)
  have hgetV (r : BitVec 5) : (s.unbindStream d).retire.cur.getV r = (s.cur.setV d 0).getV r := by
    rw [Strand.getV, hvregs, heq]
    rfl
  refine ⟨_, hexec, ?_, ?_, ?_, ?_, ?_, fun r hr => ?_, ?_⟩
  · rw [Strand.stream, hstreams, heq]
    exact SMap.get_set_self none s.cur.streams d.toNat none
  · rw [hgetV, Strand.getV_setV_self]
  · rw [State.portOf_congr hcores, hport, hlet.1]
  · rw [State.portOf_congr hcores, hport, hlet.2]
  · rw [hmem, heq]
    rfl
  · rw [hgetV, Strand.getV_setV_ne _ _ hr]
  · rw [heq] at hpc hloops ⊢
    exact ⟨hpc, hloops⟩

end

end Sys2Proof.Machine
end

section
/-! What a port does (R190, R191, R193, R202). -/

namespace Sys2Proof.Machine
open Sys2Proof.Claims

theorem onlyCore_onPort (s : State) (c p : Nat) (f : Port → Port) : OnlyCore s (s.onPort c p f) c := ⟨rfl, fun _ hk => State.core_onCore_ne s _ hk⟩

section
variable {s : State} {c p : Nat} (hrun : (s.portOf c p).running = none) (hbound : (s.portOf c p).bound = none)
include hrun hbound

/-- PORT_DISPATCH of a copy: it runs (R190). -/
theorem exec_portDispatch_copy (hwait : s.replayWaits (.port c p) = false) {id : Nat} {k : Copy} {rest : List PortCmd} (hq : (s.portOf c p).queue = .copy id :: rest) (hk : s.copy? id = some k)
    (hruns : s.engineRuns k.job = true) (hp : p < 16) :
    ∃ t, exec (.portDispatch c p) s = .next t ∧ (t.portOf c p).queue = rest ∧ (t.portOf c p).running = some id ∧ t.copy? id = some { k with st := .running } ∧ t.mem = s.mem ∧ t.cur = s.cur := by
  have hexec : exec (.portDispatch c p) s = .next ((s.onPort c p fun q => { q with queue := rest, running := some id }).onCopy id fun k => { k with st := .running }) := by
    refine congrArg Host.Outcome.next ?_
    dsimp only
    rw [hrun, hbound, hwait, if_neg (by decide), hq]
    dsimp only
    rw [hk]
    dsimp only
    rw [hruns, if_neg (by decide)]
  have hport := State.portOf_onPort s c hp fun q => { q with queue := rest, running := some id }
  have hsame : ((s.onPort c p fun q => { q with queue := rest, running := some id }).onCopy id fun k => { k with st := .running }).portOf c p = _ := hport
  refine ⟨_, hexec, by rw [hsame], by rw [hsame], State.copy?_onCopy hk fun _ => rfl, rfl, rfl⟩

/-- PORT_DISPATCH of a binding: the port is bound (R191). -/
theorem exec_portDispatch_bind (hwait : s.replayWaits (.port c p) = false) {u : Nat} {v : BitVec 5} {rest : List PortCmd} (hq : (s.portOf c p).queue = .bind u v :: rest) (hp : p < 16) :
    ∃ t, exec (.portDispatch c p) s = .next t ∧ OnlyCore s t c ∧ (t.portOf c p).queue = rest ∧ (t.portOf c p).bound = some (u, v) ∧ (t.portOf c p).active = true := by
  have hexec : exec (.portDispatch c p) s = .next (s.onPort c p fun q => { q with queue := rest, bound := some (u, v), active := true }) := by
    refine congrArg Host.Outcome.next ?_
    dsimp only
    rw [hrun, hbound, hwait, if_neg (by decide), hq]
  refine ⟨_, hexec, onlyCore_onPort .., ?_⟩
  rw [State.portOf_onPort s c hp]
  exact ⟨rfl, rfl, rfl⟩

/-- COPY_REPLAY of a serviced copy (R202). -/
theorem exec_copyReplay {id : Nat} {k : Copy} (hk : s.copy? id = some k) (hst : k.st = .replayQueued) (heng : k.eng = .port c p) (hruns : s.engineRuns k.job = true) (hp : p < 16) :
    ∃ t, exec (.copyReplay id) s = .next t ∧ t.copy? id = some k.again ∧ (t.portOf c p).running = some id ∧ t.mem = s.mem ∧ t.cur = s.cur := by
  have hfree : s.engineFree k.eng = true := by
    rw [heng]
    show ((s.portOf c p).running.isNone && (s.portOf c p).bound.isNone) = true
    rw [hrun, hbound]
    rfl
  have hexec : exec (.copyReplay id) s = .next ((s.onPort c p fun q => { q with running := some id }).onCopy id Copy.again) := by
    refine congrArg Host.Outcome.next ?_
    rw [hk]
    dsimp only
    rw [if_pos ⟨hst, hruns, hfree⟩, heng]
  have hport := congrArg Port.running (State.portOf_onPort s c hp fun q => { q with running := some id })
  exact ⟨_, hexec, State.copy?_onCopy hk fun _ => rfl, hport, rfl, rfl⟩

end

/-- The bytes of a stream element as the strand's own loads find them, and zeros past the end of the stream (R191). -/
def elemBytes (s : State) (d : Desc) (e : Nat) : List Byte :=
  if d.len ≤ e * d.esize then List.replicate d.esize 0
  else overlayPend (ownLoc s (d.pat d.src e)) (s.bytesAt (ownLoc s (d.pat d.src e)) d.esize) s.cur.pend

/-- A stream element that the strand's port reads as memory stands: it lies in the strand's own scratchpad, and every write to it since the binding is known (R191). -/
def ElemKnown (s : State) (d : Desc) (since e : Nat) : Prop :=
  OwnAccess s (d.pat d.src e) d.esize ∧ ∀ w ∈ s.hist, overlaps w.loc w.n (ownLoc s (d.pat d.src e)) d.esize = true → knownTo since s.cur.hb w = true

/-- Past the end of the stream every byte is zero (R191). -/
theorem elemBytes_beyond (s : State) (d : Desc) : ∀ es : List Nat, (∀ e ∈ es, d.len ≤ e * d.esize) → es.flatMap (elemBytes s d) = List.replicate (es.length * d.esize) 0 := by
  intro es
  induction es with
  | nil => intro _; simp
  | cons e es ih =>
    intro h
    rw [List.flatMap_cons, ih fun x hx => h x (List.mem_cons_of_mem _ hx), elemBytes, if_pos (h e List.mem_cons_self), List.replicate_append_replicate, List.length_cons, Nat.succ_mul, Nat.add_comm]

/-- The elements of a strip, in order, all known: they are read, and nothing of the state changes (R191, R268). -/
theorem stripBytes_known {s : State} {d : Desc} {since : Nat} (core port : Nat) : ∀ es : List Nat, es.Pairwise (· < ·) → (∀ e ∈ es, e * d.esize < d.len → ElemKnown s d since e) →
    s.stripBytes core port s.cur d since es = (s, .ok (es.flatMap (elemBytes s d))) := by
  intro es
  induction es with
  | nil => intro _ _; rfl
  | cons e es ih =>
    intro hsort hknown
    obtain ⟨hfirst, hsort⟩ := List.pairwise_cons.mp hsort
    by_cases hend : d.len ≤ e * d.esize
    · have hall : ∀ x ∈ e :: es, d.len ≤ x * d.esize := by
        intro x hx
        rcases List.mem_cons.mp hx with rfl | hx
        · exact hend
        · exact hend.trans (Nat.mul_le_mul_right _ (hfirst x hx).le)
      rw [elemBytes_beyond s d _ hall]
      unfold State.stripBytes
      rw [if_pos hend]
      rfl
    · obtain ⟨hown, hw⟩ := hknown e List.mem_cons_self (Nat.not_le.mp hend)
      have hrest := ih hsort fun x hx => hknown x (List.mem_cons_of_mem _ hx)
      have hclean : s.poisoned (ownHit s (d.pat d.src e)).loc d.esize = false := hown.clean
      have hload := State.engineLoad_known (ownHit s (d.pat d.src e)).key (ownLoc_notHbm s (d.pat d.src e)) hw hown.written
      unfold State.stripBytes
      rw [if_neg hend, engReach_own hown rfl]
      dsimp only
      rw [show isHere (ownHit s (d.pat d.src e)).loc = true from hown.here, if_pos rfl, hclean, if_neg Bool.false_ne_true, show (ownHit s (d.pat d.src e)).loc = ownLoc s (d.pat d.src e) from rfl, hload]
      dsimp only
      rw [if_neg (by exact Bool.false_ne_true), hrest, List.flatMap_cons, elemBytes, if_neg hend]

/-- STREAM_STRIP_DELIVER of a strip whose elements are known (R191, R193). -/
theorem exec_streamStripDeliver {s : State} {c p : Nat} {v : BitVec 5} {b : StreamBind} (hbound : (s.portOf c p).bound = some (s.cur.uid, v)) (hb : s.cur.stream v = some b)
    (hact : (s.portOf c p).active = true) (hfault : (s.portOf c p).fault = none) (hroom : (s.portOf c p).strips.length < b.depth) (hruns : s.engineRuns s.cur.job = true) (hp : p < 16)
    (hknown : ∀ e ∈ b.elems (s.portOf c p).strips.length, e * b.desc.esize < b.desc.len → ElemKnown s b.desc b.since e) :
    ∃ t, exec (.streamStripDeliver c p) s = .next t ∧ OnlyCore s t c ∧
      t.portOf c p = { s.portOf c p with strips := (s.portOf c p).strips ++ [natOfBytes ((b.elems (s.portOf c p).strips.length).flatMap (elemBytes s b.desc))], buf := [] } := by
  have hsorted : (b.elems (s.portOf c p).strips.length).Pairwise (· < ·) := by
    refine List.pairwise_map.mpr (List.pairwise_lt_range.imp fun h => ?_)
    exact Nat.add_lt_add_left h _
  have hexec : exec (.streamStripDeliver c p) s = .next (s.onPort c p fun q => { q with strips := q.strips ++ [natOfBytes ((b.elems (s.portOf c p).strips.length).flatMap (elemBytes s b.desc))], buf := [] }) := by
    refine congrArg Host.Outcome.next ?_
    dsimp only
    rw [hbound]
    dsimp only
    rw [State.byUid?_cur]
    dsimp only
    rw [hb]
    dsimp only
    rw [hact, hfault, hruns, decide_eq_false (Nat.not_le.mpr hroom), if_neg (by decide), stripBytes_known c p _ hsorted hknown]
  exact ⟨_, hexec, onlyCore_onPort .., State.portOf_onPort s c hp _⟩

/-- Settles O24: the status word is its fields put together, a binding changes its register and its port alone, and a port's event is decided by what its queue, its copy or its binding says. -/
theorem portsAndStreams : Obligations.PortsAndStreams := by
  refine ⟨?_, ⟨?_, fun _ _ _ h hb hp hbound => exec_sunbind hb hbound h hp, ?_⟩, fun _ _ _ _ _ _ hrun hbound hwait hq hk hruns hp => exec_portDispatch_copy hrun hbound hwait hq hk hruns hp,
    fun _ _ _ _ _ _ hrun hbound hwait hq hp => exec_portDispatch_bind hrun hbound hwait hq hp, ?_, fun _ _ _ _ _ hk hst heng hruns hrun hbound hp => exec_copyReplay hrun hbound hk hst heng hruns hp⟩
  case refine_1 =>
    intro s d a h p q head
    refine ⟨fun hp hlen hbytes => ?_, exec_cstat_beyond h⟩
    obtain ⟨t, hexec, hd, hrest, hstep⟩ := exec_cstat h hp
    have hhead : head = portHead s s.curCore p := rfl
    rw [hhead] at hbytes ⊢
    have htag : ((portHead s s.curCore p).map fun c => c.desc.tag.toNat % 2 ^ 16).getD 0 < 2 ^ 16 := by
      cases portHead s s.curCore p with
      | none => exact Nat.two_pow_pos 16
      | some c => exact Nat.mod_lt _ (Nat.two_pow_pos 16)
    have hdone : ((portHead s s.curCore p).map Copy.bytesDone).getD 0 < 2 ^ 40 := by
      cases hk : portHead s s.curCore p with
      | none => exact Nat.two_pow_pos 40
      | some c => exact hbytes c hk
    obtain ⟨hlength, hrunning, hbound, hreplay, hplace, htagged⟩ := statWord_fields htag hdone hlen (portStat_eq s p)
    refine ⟨t, _, hexec, hd, hrest, hstep, hlength, hrunning, hbound, ?_, hplace.trans ?_, htagged.trans ?_⟩
    · rw [hreplay]
      exact awaitsReplay_iff s s.curCore p
    · cases portHead s s.curCore p <;> rfl
    · cases portHead s s.curCore p <;> rfl
  case refine_2 =>
    intro s d a e p v u h hd hp hfree hrec hcores hu hcore hgood hpat
    have hpre : u.cur.pre = none := (readsRec_pre hrec).trans ((readAll_pre s [a]).trans h.calm)
    obtain ⟨hkeep, hmem, hstreams, hsregs, hvregs, hstep⟩ := retire_keeps (s := u.bindStream d ⟨p.toNat, descOf v, u.cur.vbits / 8, e.toNat + 1, 0, u.nextW⟩) hpre
    refine ⟨_, exec_sbind h hd hp hfree hrec hu hgood hpat, ?_, ?_, hmem, hsregs, hvregs, hstep.pc, hstep.loops⟩
    · rw [Strand.stream, hstreams]
      exact bindStream_stream ..
    · rw [State.portOf_congr hkeep, ← hcore]
      exact bindStream_port (b := ⟨p.toNat, descOf v, u.cur.vbits / 8, e.toNat + 1, 0, u.nextW⟩) d hp
  case refine_3 =>
    intro s d h hd
    have hexec : exec (.sunbind d) s = .next ((readAll s []).unbindStream d).retire := congrArg Host.Outcome.next (issue_of_ready h [] [] _ (by simp))
    rw [State.unbindStream_none (s := readAll s []) hd] at hexec
    exact ⟨_, hexec, readAll_retire [] h.calm⟩
  case refine_4 =>
    intro s c p v b hbound hb hact hfault hroom hruns hp size strip addr bytes hknown
    exact exec_streamStripDeliver hbound hb hact hfault hroom hruns hp hknown

end Sys2Proof.Machine
end

section
/-! Tokens of a copy written into the strand that issued it, and the end of the copy (R197, R202). -/

namespace Sys2Proof.Machine
open Sys2Proof.Claims

/-- A token in its register: what the register holds and which are full; beside registers and tokens nothing of the strand changes (R197). -/
structure TokenIn (s t : State) (r : BitVec 5) (v : Word) : Prop where
  value : t.cur.getS r = if r = 0 then 0 else v
  full : t.cur.isFull r = true
  others : ∀ x, x ≠ r → t.cur.getS x = s.cur.getS x ∧ t.cur.isFull x = s.cur.isFull x
  pc : t.cur.pc = s.cur.pc
  uid : t.cur.uid = s.cur.uid

theorem fillToken_cur (s : State) (r : BitVec 5) (v : Word) (m : Option TokMark) : TokenIn s (s.fillToken s.cur.uid r v m) r v := by
  unfold State.fillToken
  by_cases hr : r = 0
  · subst hr
    exact ⟨rfl, rfl, fun _ _ => ⟨rfl, rfl⟩, rfl, rfl⟩
  · rw [if_neg hr, State.onUid_cur]
    exact ⟨Strand.getS_setS_self s.cur r v, Strand.isFull_setS_self s.cur r v, fun x hx => ⟨Strand.getS_setS_ne s.cur v hx, Strand.isFull_setS_ne s.cur v hx⟩, Strand.setS_pc .., Strand.setS_uid ..⟩

/-- Only the strand changes: a copy stands as it did, and so do its branches. -/
theorem fillToken_pkg (s : State) (uid : Nat) (r : BitVec 5) (v : Word) (m : Option TokMark) : (s.fillToken uid r v m).pkg = s.pkg := by
  unfold State.fillToken State.onUid
  split
  · rfl
  · split <;> rfl

theorem TokenIn.of_cur {s t u : State} {r : BitVec 5} {v : Word} (h : TokenIn s t r v) (hu : u.cur = t.cur) : TokenIn s u r v := by
  obtain ⟨hvalue, hfull, hothers, hpc, huid⟩ := h
  exact ⟨by rwa [hu], by rwa [hu], fun x hx => by rw [hu]; exact hothers x hx, by rwa [hu], by rwa [hu]⟩

/-- A copy that settles with every chunk in place and both tokens done is over, unless a branch of it has failed (R202, R369). -/
theorem copySettle_over {s : State} {id : Nat} {c : Copy} (h : s.copy? id = some c) (hdone : c.complete = true) (hrel : c.relDone = true) (hdel : c.delDone = true) (hfault : c.fault = none) :
    (s.copySettle id).copy? id = none ∨ ∃ x ∈ s.branchesOf id, x.failed ≠ none := by
  have hbranches : s.copySettle id = if (s.branchesOf id).any (fun x => x.failed.isSome) then (s.leavePort c).onCopy id fun c => { c with st := .faulted } else s.copyOver c none := by
    unfold State.copySettle
    rw [h]
    dsimp only
    rw [hdone, hrel, hdel, hfault]
    exact if_pos rfl
  by_cases hany : (s.branchesOf id).any (fun x => x.failed.isSome) = true
  · obtain ⟨x, hx, hf⟩ := List.any_eq_true.mp hany
    exact .inr ⟨x, hx, fun hn => by rw [hn] at hf; exact absurd hf (by decide)⟩
  · rw [hbranches, if_neg hany, ← State.copy?_id h]
    exact .inl (s.copy?_copyOver c none)

/-- RELEASE_TOKEN_WRITE once every source byte is read (R197). -/
theorem exec_releaseTokenWrite {s : State} {id : Nat} {c : Copy} (h : s.copy? id = some c) (hruns : s.copyRuns c = true) (hrel : c.relDone = false) (hread : ∀ j, j < c.desc.chunks → c.read.contains j = true)
    (huid : c.uid = s.cur.uid) (hfresh : c.replaying = false) :
    ∃ t, exec (.releaseTokenWrite id) s = .next t ∧ TokenIn s t c.sb (tokenOf 0 c.bytesRead) ∧ t.mem = s.mem := by
  have hall : (List.range c.desc.chunks).all c.read.contains = true := List.all_eq_true.mpr fun j hj => hread j (List.mem_range.mp hj)
  have hexec : exec (.releaseTokenWrite id) s = .next (((s.fillToken s.cur.uid c.sb (tokenOf 0 c.bytesRead) none).onCopy id fun c => { c with relDone := true }).copySettle id) := by
    refine congrArg Host.Outcome.next ?_
    rw [h]
    dsimp only
    rw [hruns, hrel, hall, hfresh, huid]
    rfl
  exact ⟨_, hexec, (fillToken_cur ..).of_cur (State.copySettle_cur ..), (State.copySettle_mem ..).trans (State.fillToken_mem ..)⟩

/-- DELIVERY_TOKEN_WRITE once every chunk is in place and the release token is out (R197). -/
theorem exec_deliveryTokenWrite {s : State} {id : Nat} {c : Copy} (h : s.copy? id = some c) (hruns : s.copyRuns c = true) (hdone : c.complete = true) (hrel : c.relDone = true) (hdel : c.delDone = false)
    (huid : c.uid = s.cur.uid) :
    ∃ t, exec (.deliveryTokenWrite id) s = .next t ∧ TokenIn s t c.sd (tokenOf 0 c.bytesDone) ∧ t.mem = s.mem ∧ (t.copy? id = none ∨ ∃ x ∈ s.branchesOf id, x.failed ≠ none) := by
  have hfault : c.fault = none := by
    simp only [State.copyRuns, Bool.and_eq_true, Option.isNone_iff_eq_none] at hruns
    exact hruns.1.2
  obtain ⟨u, hu⟩ : ∃ u, u = s.fillToken s.cur.uid c.sd (tokenOf 0 c.bytesDone) (some ⟨c.desc.scope, c.writes⟩) := ⟨_, rfl⟩
  have hpkg : u.pkg = s.pkg := by rw [hu]; exact fillToken_pkg ..
  have hexec : exec (.deliveryTokenWrite id) s = .next ((u.onCopy id fun c => { c with delDone := true }).copySettle id) := by
    refine congrArg Host.Outcome.next ?_
    rw [h]
    dsimp only
    rw [hruns, hdone, hrel, hdel, huid, hu]
    rfl
  have hcopy : (u.onCopy id fun c => { c with delDone := true }).copy? id = some { c with delDone := true } := by
    refine State.copy?_onCopy ?_ fun _ => rfl
    rw [State.copy?, hpkg]
    exact h
  have hsame : u.branchesOf id = s.branchesOf id := by rw [State.branchesOf, State.branchesOf, hpkg]
  have hbranches : (u.onCopy id fun c => { c with delDone := true }).branchesOf id = s.branchesOf id := hsame
  have hend := copySettle_over hcopy hdone hrel rfl hfault
  rw [hbranches] at hend
  have htoken : TokenIn s u c.sd (tokenOf 0 c.bytesDone) := hu ▸ fillToken_cur ..
  have hmem : u.mem = s.mem := hu ▸ State.fillToken_mem ..
  exact ⟨_, hexec, htoken.of_cur (State.copySettle_cur ..), (State.copySettle_mem ..).trans hmem, hend⟩

end Sys2Proof.Machine
end

section
/-! The fault of a copy without a map: its record, its tokens and its end (R202, R309). -/

namespace Sys2Proof.Machine
open Sys2Proof.Claims

/-- What was fetched of a map is none of the source bytes a copy has read (R197). -/
theorem Copy.bytesRead_count (c : Copy) : c.count.bytesRead = c.bytesRead := by
  unfold Copy.bytesRead Copy.count
  dsimp only
  rw [List.filter_filter]
  refine congrArg List.length (List.filter_congr fun x _ => ?_)
  simpa using fun hkey _ _ => hkey

/-- A faulted copy whose chunks have settled, counting (R309). -/
def counted (c : Copy) : Copy := if c.counting then c else c.count

theorem counted_eq (c : Copy) : ∃ b, counted c = { c with counting := true, buf := b } ∧ (counted c).bytesRead = c.bytesRead := by
  unfold counted
  by_cases hc : c.counting = true
  · rw [if_pos hc]
    exact ⟨c.buf, by rw [← hc], rfl⟩
  · rw [if_neg hc]
    exact ⟨_, rfl, c.bytesRead_count⟩

/-- The state in which a faulted copy without held parts posts its record: it counts, and its claims are gone (R284, R309). -/
def settledFault (s : State) (id : Nat) (c : Copy) : State :=
  { ((s.onCopy id fun _ => counted c).onCopy id fun c => { c with bits := [], counting := false, mapLost := false }) with claims := s.claims.filter fun x => decide (x.copy ≠ id) }

/-- The record of a faulted copy without a map: the first chunk missing and how many are (R202, R309). -/
def missing (c : Copy) (f : FaultRec) : FaultRec :=
  let clear := (List.range c.desc.chunks).filter fun k => !c.done.contains k
  { f with chunkLow := clear.headD 0, chunkCount := clear.length, replay := false }

/-- What a faulted copy without a map leaves behind, its record posted: both tokens with its code, and the copy over (R202). -/
def faultedTo (s : State) (c : Copy) (f : FaultRec) : State :=
  (((s.fillToken s.cur.uid c.sd (tokenOf f.code.num c.bytesDone) (some ⟨c.desc.scope, c.writes⟩)).fillToken s.cur.uid c.sb (tokenOf f.code.num c.bytesRead) none).copyOver c (some (missing c f)))

/-- Posting the fault of a copy without a map that has written neither token and replays nothing (R202, R309). -/
theorem postCopyFault_plain {s : State} {c : Copy} {f : FaultRec} (hmap : c.desc.mapped = false) (hrep : c.replaying = false) (hrel : c.relDone = false) (hdel : c.delDone = false) {u : State}
    (hpost : (s.postFor c.job (missing c f)).2 = u) (huid : c.uid = u.cur.uid) : s.postCopyFault c f = faultedTo u c f := by
  have hplace : s.inPlace c = c.done := by
    unfold State.inPlace Copy.byMap
    rw [hmap]
    rfl
  subst hpost
  unfold State.postCopyFault faultedTo
  rw [hplace, hrep, hmap, hrel, hdel, ← huid]
  rfl

/-- Both tokens of a faulted copy carry its code; where one register is named twice the release token stands last (R202). -/
theorem faultedTo_tokens (s : State) (c : Copy) (f : FaultRec) :
    (c.sb ≠ 0 → (faultedTo s c f).cur.getS c.sb = tokenOf f.code.num c.bytesRead ∧ (faultedTo s c f).cur.isFull c.sb = true) ∧
    (c.sd ≠ 0 → c.sd ≠ c.sb → (faultedTo s c f).cur.getS c.sd = tokenOf f.code.num c.bytesDone ∧ (faultedTo s c f).cur.isFull c.sd = true) ∧
    (∀ x, x ≠ c.sd → x ≠ c.sb → (faultedTo s c f).cur.getS x = s.cur.getS x) ∧ (faultedTo s c f).cur.pc = s.cur.pc := by
  obtain ⟨u, hu⟩ : ∃ u, u = s.fillToken s.cur.uid c.sd (tokenOf f.code.num c.bytesDone) (some ⟨c.desc.scope, c.writes⟩) := ⟨_, rfl⟩
  have hfirst : TokenIn s u c.sd (tokenOf f.code.num c.bytesDone) := hu ▸ fillToken_cur ..
  have hlast : TokenIn u (faultedTo s c f) c.sb (tokenOf f.code.num c.bytesRead) := by
    have hover : faultedTo s c f = (u.fillToken u.cur.uid c.sb (tokenOf f.code.num c.bytesRead) none).copyOver c (some (missing c f)) := by
      rw [hfirst.uid, hu]
      rfl
    rw [hover]
    exact (fillToken_cur ..).of_cur (State.copyOver_cur ..)
  refine ⟨fun hsb => ⟨?_, hlast.full⟩, fun hsd hne => ⟨?_, ?_⟩, fun x hxd hxb => ?_, hlast.pc.trans hfirst.pc⟩
  · rw [hlast.value, if_neg hsb]
  · rw [(hlast.others _ hne).1, hfirst.value, if_neg hsd]
  · rw [(hlast.others _ hne).2, hfirst.full]
  · rw [(hlast.others x hxb).1, (hfirst.others x hxd).1]

/-- COPY_FAULT_POST of a copy without a map whose started chunks have settled (R202, R309). -/
theorem exec_copyFaultPost {s : State} {id : Nat} {c : Copy} {f : FaultRec} {j : Job} (h : s.copy? id = some c) (hf : c.fault = some f) (hst : c.st = .running) (hout : c.out = []) (hhold : c.hold = [])
    (hmap : c.desc.mapped = false) (hrep : c.replaying = false) (hrel : c.relDone = false) (hdel : c.delDone = false) (huid : c.uid = s.cur.uid) (hj : s.job? c.job = some j)
    (hruns : s.engineRuns c.job = true) (hroom : RingRoom s j (missing c f)) (hbig : f.big = false) :
    ∃ t, exec (.copyFaultPost id) s = .next t ∧ t.mem = (s.ringPut j ((missing c f).bytes j.id (f.at_.getD s.gtime)) []).mem ∧ t.copy? id = none ∧
      (c.sb ≠ 0 → t.cur.getS c.sb = tokenOf f.code.num c.bytesRead ∧ t.cur.isFull c.sb = true) ∧
      (c.sd ≠ 0 → c.sd ≠ c.sb → t.cur.getS c.sd = tokenOf f.code.num c.bytesDone ∧ t.cur.isFull c.sd = true) ∧
      (∀ x, x ≠ c.sd → x ≠ c.sb → t.cur.getS x = s.cur.getS x) ∧ t.cur.pc = s.cur.pc := by
  obtain ⟨b, hk, hread⟩ := counted_eq c
  have hby : (counted c).byMap = false := by
    rw [hk]
    unfold Copy.byMap
    rw [hmap]
    rfl
  have hhold' : (counted c).hold = [] := by rw [hk]; exact hhold
  have hexec : exec (.copyFaultPost id) s = .next ((settledFault s id c).postCopyFault (counted c) f) := by
    refine congrArg Host.Outcome.next ?_
    rw [h]
    dsimp only
    rw [hruns, if_neg (by decide), hf]
    dsimp only
    rw [if_pos ⟨hst, hout⟩, show (if c.counting = true then c else c.count) = counted c from rfl, hby, hhold', Bool.false_and, if_neg Bool.false_ne_true]
    rfl
  have hstore : SameStore s (settledFault s id c) := ⟨rfl, rfl⟩
  have hqueue : SameQueue j j := ⟨rfl, rfl, rfl, rfl⟩
  have hmissing : missing (counted c) f = missing c f := by rw [hk]; rfl
  obtain ⟨u, hu⟩ : ∃ u, u = (settledFault s id c).ringPut j ((missing c f).bytes j.id (f.at_.getD s.gtime)) [] := ⟨_, rfl⟩
  have hucur : u.cur = s.cur := by rw [hu, State.ringPut_cur]; rfl
  have hpost : ((settledFault s id c).postFor (counted c).job (missing (counted c) f)).2 = u := by
    rw [hmissing, hu, show (counted c).job = c.job by rw [hk]]
    exact State.postFor_ring (s := settledFault s id c) hj (ringRoom_congr hstore hqueue hroom) hbig
  have hfault : (settledFault s id c).postCopyFault (counted c) f = faultedTo u (counted c) f :=
    postCopyFault_plain (by rw [hk]; exact hmap) (by rw [hk]; exact hrep) (by rw [hk]; exact hrel) (by rw [hk]; exact hdel) hpost (by rw [hk, hucur]; exact huid)
  have htokens := faultedTo_tokens u (counted c) f
  have hcid : c.id = id := State.copy?_id h
  have hfields : (counted c).sb = c.sb ∧ (counted c).sd = c.sd ∧ (counted c).bytesDone = c.bytesDone ∧ (counted c).id = id := by
    rw [hk]
    exact ⟨rfl, rfl, rfl, hcid⟩
  obtain ⟨hsb, hsd, hdone, hid⟩ := hfields
  rw [hsb, hsd, hdone, hread, hucur] at htokens
  rw [hfault] at hexec
  refine ⟨_, hexec, ?_, ?_, htokens⟩
  · refine (State.copyOver_mem ..).trans ((State.fillToken_mem ..).trans ((State.fillToken_mem ..).trans ?_))
    rw [hu]
    exact sameStore_ringPut hstore hqueue _
  · conv_lhs => rw [← hid]
    exact State.copy?_copyOver ..

end Sys2Proof.Machine
end

section
/-! Runs of bytes laid into a map, in memory and in the buffer of a copy (R8, R199). -/

namespace Sys2Proof.Machine
open Sys2Proof.Claims

/-- A run laid into a map is found in it. -/
theorem SMap.get_setList_in {α : Type} [DecidableEq α] (d : α) (m : SMap α) (k : Nat) (vs : List α) {i : Nat} {v : α} (h : vs[i]? = some v) : (SMap.setList d m k vs).get d (k + i) = v := by
  have hlist := congrArg (fun l : List α => l[i]?) (SMap.getList_setList d m k vs)
  have hi : i < vs.length := (List.getElem?_eq_some_iff.mp h).1
  rw [SMap.getList_eq_map, h] at hlist
  simpa [hi] using hlist

/-- A byte of a run in memory. -/
theorem State.bytesAt_get (s : State) (loc : Nat) {n i : Nat} (h : i < n) : (s.bytesAt loc n)[i]? = some (s.mem.get memDefault (loc + i)) := by
  rw [State.bytesAt, SMap.getList_eq_map]
  simp [h]

/-- Bytes laid into a copy's buffer, from a key on. -/
def layBytes (m : SMap (Option Byte)) (k : Nat) (bs : List Byte) : SMap (Option Byte) := bs.zipIdx.foldl (fun m x => m.set none (k + x.2) (some x.1)) m

theorem layBytes_eq (m : SMap (Option Byte)) (k : Nat) (bs : List Byte) : layBytes m k bs = SMap.setList none m k (bs.map some) := by
  have hfrom (n : Nat) : (bs.zipIdx n).foldl (fun m x => m.set none (k + x.2) (some x.1)) m = SMap.setList none m (k + n) (bs.map some) := by
    induction bs generalizing m n with
    | nil => rfl
    | cons b bs ih => exact ih (m.set none (k + n) (some b)) (n + 1)
  exact hfrom 0

/-- Marks of poison touch neither memory, nor the strand, nor the package's engines (R175). -/
theorem State.markBad_keeps (s : State) (loc : Nat) (bad : List Bool) : (s.markBad loc bad).mem = s.mem ∧ (s.markBad loc bad).cur = s.cur ∧ (s.markBad loc bad).pkg = s.pkg := by
  unfold State.markBad
  generalize bad.zipIdx = l
  induction l generalizing s with
  | nil => exact ⟨rfl, rfl, rfl⟩
  | cons x l ih =>
    obtain ⟨hmem, hcur, hpkg⟩ := ih (if x.1 then s.setPoison (loc + x.2) 1 true else s)
    rw [List.foldl_cons, hmem, hcur, hpkg]
    split <;> exact ⟨rfl, rfl, rfl⟩

section
variable (s : State) (key loc unit : Nat) (bs : List Byte) (bad : List Bool)

/-- An engine's write outside Sable regions lays its bytes at their home (R263). -/
theorem engineWrite_mem : (s.engineWrite key loc unit false bs bad).2.mem = SMap.setList memDefault s.mem loc bs := by
  have hwrite : (s.writeHome key loc bs.length (natOfBytes bs) unit [] none false).mem = SMap.setList memDefault s.mem loc (bytesOfNat bs.length (natOfBytes bs)) := State.notePartial_mem ..
  rw [bytesOfNat_natOfBytes] at hwrite
  exact (State.markBad_keeps ..).1.trans hwrite

theorem engineWrite_cur : (s.engineWrite key loc unit false bs bad).2.cur = s.cur := (State.markBad_keeps ..).2.1.trans (State.writeHome_cur ..)

theorem engineWrite_pkg : (s.engineWrite key loc unit false bs bad).2.pkg = s.pkg := (State.markBad_keeps ..).2.2.trans (State.writeHome_pkg ..)

end

end Sys2Proof.Machine
end

section
/-! Accesses of a copy within the own scratchpad of the strand that issued it (R198, R202, R279). -/

namespace Sys2Proof.Machine
open Sys2Proof.Claims

/-- Nothing but what the package keeps of its copies has changed. -/
def SameButCopies (s t : State) : Prop := t = s.onPkg fun p => { p with copies := t.pkg.copies }

theorem sameButCopies_refl (s : State) : SameButCopies s s := rfl

theorem SameButCopies.onCopy {s t : State} (h : SameButCopies s t) (id : Nat) (f : Copy → Copy) : SameButCopies s (t.onCopy id f) := by
  unfold SameButCopies at h
  have hboth := congrArg (fun u : State => u.onPkg fun p => { p with copies := (t.onCopy id f).pkg.copies }) h
  exact hboth

theorem SameButCopies.cur {s t : State} (h : SameButCopies s t) : t.cur = s.cur := by
  rw [h]
  rfl

theorem SameButCopies.mem {s t : State} (h : SameButCopies s t) : t.mem = s.mem := by
  rw [h]
  rfl

theorem ownAccess_of_copies {s t : State} {va : Word} {n : Nat} (h : OwnAccess s va n) (ht : SameButCopies s t) : OwnAccess t va n := by
  rw [ht]
  exact ⟨h.size, h.window, h.range, h.aligned, h.lease, h.plain, h.written, h.clean, h.apart⟩

theorem SameButCopies.ownHit {s t : State} (h : SameButCopies s t) (va : Word) : ownHit t va = ownHit s va := by
  rw [h]
  rfl

/-- The reads and writes of a copy that lie in the strand's own scratchpad find their place (R279). -/
theorem copyReach_own {s : State} {va : Word} {n : Nat} (h : OwnAccess s va n) (c : Copy) {kind : AccKind} (hx : (needOf kind).x = false) : s.copyReach c s.cur va n kind = (s, .ok (ownHit s va)) := by
  have hpeer : isPeerLoc (ownHit s va).loc = false := by
    have hlt : ownLoc s va + n < 2 ^ 45 := h.loc_lt
    exact decide_eq_false (by show ¬ 2 ^ 80 ≤ ownLoc s va; omega)
  unfold State.copyReach
  rw [engReach_own h (nd := c.need kind) hx]
  dsimp only
  rw [hpeer]
  rfl

end Sys2Proof.Machine
end

section
/-! A copy of one row of dwords within the own scratchpad (R195, R199). -/

namespace Sys2Proof.Machine
open Sys2Proof.Claims

/-- One row of at most 64 dwords in the strand's own scratchpad, source and destination, no write to the source unknown to the copy (R195, R198). -/
structure RowCopy (s : State) (c : Copy) (k : Nat) : Prop where
  size : c.desc.esize = 8
  ext : c.desc.ext = [k, 1, 1, 1]
  str : c.desc.str = [0, 0, 0]
  rev : c.rev = false
  pos : 0 < k
  le : k ≤ 64
  own : ∀ i, i < k → OwnAccess s (c.desc.src + BitVec.ofNat 64 (8 * i)) 8 ∧ OwnAccess s (c.desc.dst + BitVec.ofNat 64 (8 * i)) 8
  known : ∀ w ∈ s.hist, overlaps w.loc w.n (ownLoc s c.desc.src) (8 * k) = true → knownTo (s.jobStart c.job) (c.hb ||| c.writes) w = true

/-- Elements of a row in the own scratchpad follow one another there (R195, R279). -/
theorem ownLoc_row {s : State} {va : Word} {i n : Nat} (h : OwnAccess s va n) (hi : i ≤ 64) : ownLoc s (va + BitVec.ofNat 64 (8 * i)) = ownLoc s va + 8 * i := by
  have hwin := h.window
  have hrange := h.range
  have hsum : (va + BitVec.ofNat 64 (8 * i)).toNat % 2 ^ 56 = va.toNat % 2 ^ 56 + 8 * i := by
    rw [BitVec.toNat_add, BitVec.toNat_ofNat]
    omega
  rw [ownLoc, ownLoc, hsum, scratchLoc, scratchLoc]
  omega

section
variable {s : State} {c : Copy} {k : Nat} (h : RowCopy s c k)
include h

theorem RowCopy.len : c.desc.len = 8 * k := by
  rw [Desc.len, h.ext, h.size]
  simp [Nat.mul_comm]

theorem RowCopy.chunks : c.desc.chunks = 1 := by
  have hpos := h.pos
  have hle := h.le
  rw [Desc.chunks, h.len]
  omega

theorem RowCopy.elems : c.desc.elems 0 = List.range k := by
  have hle := h.le
  have hlen : c.desc.chunkLen 0 = 8 * k := by
    rw [Desc.chunkLen, h.len, Nat.mul_zero, Nat.sub_zero]
    exact Nat.min_eq_right (by omega)
  rw [Desc.elems, hlen, h.size, Nat.mul_div_cancel_left k (by decide)]
  simp

theorem RowCopy.elem {e : Nat} (he : e < k) : c.desc.elem c.rev e = (c.desc.src + BitVec.ofNat 64 (8 * e), c.desc.dst + BitVec.ofNat 64 (8 * e)) := by
  have hpat : c.desc.pat c.desc.src e = c.desc.src + BitVec.ofNat 64 (8 * e) := by
    unfold Desc.pat
    rw [h.ext, h.str, h.size]
    have hq : e / k = 0 := Nat.div_eq_of_lt he
    have hr : e % k = e := Nat.mod_eq_of_lt he
    have hoff : BitVec.ofInt 64 ((e : Int) * 8) = BitVec.ofNat 64 (8 * e) := by
      rw [Nat.mul_comm, ← BitVec.ofInt_natCast, Nat.cast_mul]
      rfl
    simpa [hq, hr] using hoff
  rw [Desc.elem, h.rev, hpat, h.size, Nat.mul_comm e]
  rfl

theorem RowCopy.src_loc {e : Nat} (he : e < k) : ownLoc s (c.desc.src + BitVec.ofNat 64 (8 * e)) = ownLoc s c.desc.src + 8 * e := by
  have hfirst := (h.own 0 h.pos).1
  rw [Nat.mul_zero, BitVec.add_zero] at hfirst
  have hle := h.le
  exact ownLoc_row hfirst (by omega)

theorem RowCopy.dst_first : OwnAccess s c.desc.dst 8 := by
  have hfirst := (h.own 0 h.pos).2
  rwa [Nat.mul_zero, BitVec.add_zero] at hfirst

theorem RowCopy.dst_loc {e : Nat} (he : e < k) : ownLoc s (c.desc.dst + BitVec.ofNat 64 (8 * e)) = ownLoc s c.desc.dst + 8 * e := by
  have hle := h.le
  exact ownLoc_row h.dst_first (by omega)

/-- Every byte of the row's destination is a place of this package. -/
theorem RowCopy.dst_here : ownLoc s c.desc.dst + 8 * k < 2 ^ 46 := by
  have hlt := h.dst_first.loc_lt
  have hle := h.le
  omega

end

/-! Reading the chunk (R198, R199). -/

/-- The buffer once dwords of a row in memory have been read into it. -/
def readInto (s : State) (loc : Nat) (m : SMap (Option Byte)) (es : List Nat) : SMap (Option Byte) :=
  es.foldl (fun m e => layBytes m (streamKey (e * 8)) (s.bytesAt (loc + 8 * e) 8)) m

theorem readInto_cons (s : State) (loc : Nat) (m : SMap (Option Byte)) (e : Nat) (es : List Nat) :
    readInto s loc m (e :: es) = readInto s loc (layBytes m (streamKey (e * 8)) (s.bytesAt (loc + 8 * e) 8)) es := List.foldl_cons ..

/-- A byte read stands in the buffer as it stands in memory. -/
theorem readInto_get (s : State) (loc p : Nat) : ∀ (es : List Nat) (m : SMap (Option Byte)), (p / 8 ∈ es ∨ m.get none (streamKey p) = some (s.mem.get memDefault (loc + p))) →
    (readInto s loc m es).get none (streamKey p) = some (s.mem.get memDefault (loc + p)) := by
  intro es
  induction es with
  | nil => exact fun m h => h.resolve_left List.not_mem_nil
  | cons e es ih =>
    intro m h
    rw [readInto_cons]
    refine ih _ ?_
    rw [layBytes_eq]
    by_cases he : p / 8 = e
    · refine .inr ?_
      have hkey : streamKey p = streamKey (e * 8) + p % 8 := by
        unfold streamKey
        omega
      have hplace : loc + 8 * e + p % 8 = loc + p := by omega
      have hbyte := s.bytesAt_get (loc + 8 * e) (n := 8) (i := p % 8) (by omega)
      rw [hkey]
      exact SMap.get_setList_in none m _ _ (by rw [List.getElem?_map, hbyte, hplace]; rfl)
    · refine h.imp (fun hmem => (List.mem_cons.mp hmem).resolve_left he) fun hm => ?_
      have hlen : ((s.bytesAt (loc + 8 * e) 8).map some).length = 8 := by simp [State.bytesAt, SMap.getList_eq_map]
      refine (SMap.get_setList_of_out none m _ _ _ ?_).trans hm
      rw [hlen]
      unfold streamKey
      omega

/-- A copy that has read bytes, poisoned or not, into its buffer. -/
def tookBytes (key : Nat) (bs : List Byte) (bad : Bool) (x : Copy) : Copy :=
  { x with buf := layBytes x.buf key bs, bad := bs.zipIdx.foldl (fun m y => m.set false (key + y.2) bad) x.bad }

theorem tookBytes_id (key : Nat) (bs : List Byte) (bad : Bool) (x : Copy) : (tookBytes key bs bad x).id = x.id := rfl

section
variable {s u : State} {c : Copy} {k e : Nat} (h : RowCopy s c k) (he : e < k)
include h he

/-- What the engine loads of an element of the row's source: memory as it stands (R198, R268). -/
theorem RowCopy.load (hu : SameButCopies s u) :
    u.engineLoad (u.jobStart c.job) (c.hb ||| c.writes) 0 (ownLoc s c.desc.src + 8 * e) 8 = (s.bytesAt (ownLoc s c.desc.src + 8 * e) 8, u) := by
  have hplain : ∀ w ∈ s.sable, overlaps w.loc w.n (ownLoc s c.desc.src + 8 * e) 8 = false := h.src_loc he ▸ (h.own e he).1.written
  have hfar : isHbm (ownLoc s c.desc.src + 8 * e) = false := h.src_loc he ▸ ownLoc_notHbm s _
  have hknown : ∀ w ∈ s.hist, overlaps w.loc w.n (ownLoc s c.desc.src + 8 * e) 8 = true → knownTo (s.jobStart c.job) (c.hb ||| c.writes) w = true := by
    intro w hw hover
    refine h.known w hw ?_
    simp only [overlaps, decide_eq_true_eq] at hover ⊢
    omega
  rw [hu]
  exact State.engineLoad_known (s := s.onPkg fun p => { p with copies := u.pkg.copies }) 0 hfar hknown hplain

/-- The next element of a row is read into the buffer (R199). -/
theorem readElems_cons (hu : SameButCopies s u) {b : Copy} (hdesc : b.desc = c.desc) (hrev : b.rev = c.rev) (hjob : b.job = c.job) (hhb : b.hb = c.hb) (hwrites : b.writes = c.writes)
    (hc : u.copy? c.id = some b) (es : List Nat) :
    u.readElems c.id s.cur (e :: es) = (u.onCopy c.id (tookBytes (streamKey (e * 8)) (s.bytesAt (ownLoc s c.desc.src + 8 * e) 8) (u.poisoned (ownLoc s c.desc.src + 8 * e) 8))).readElems c.id s.cur es := by
  obtain ⟨hit, hhit⟩ : ∃ hit, hit = ownHit s (c.desc.src + BitVec.ofNat 64 (8 * e)) := ⟨_, rfl⟩
  have hloc : hit.loc = ownLoc s c.desc.src + 8 * e := by rw [hhit, ownHit, h.src_loc he]
  have hkey : hit.key = 0 := by rw [hhit]; rfl
  have hsable : hit.sable = false := by rw [hhit]; rfl
  have hhere : isHere hit.loc = true := by rw [hhit]; exact (h.own e he).1.here
  have hreach := copyReach_own (ownAccess_of_copies (h.own e he).1 hu) b (kind := .copySrc) rfl
  rw [hu.cur, hu.ownHit, ← hhit] at hreach
  have hload := h.load he hu
  conv_lhs => unfold State.readElems
  rw [hc]
  dsimp only
  rw [hdesc, hrev, h.elem he, h.size, hreach]
  dsimp only
  rw [hhere, if_pos rfl, hsable, if_neg Bool.false_ne_true, hkey, hjob, hhb, hwrites, hloc, hload]
  rfl

end

/-- A copy as it stands with bytes read and nothing else changed. -/
def Holding (c b : Copy) (m : SMap (Option Byte)) : Prop := ∃ p, b = { c with buf := m, bad := p }

theorem Holding.took {c b : Copy} {m : SMap (Option Byte)} (h : Holding c b m) (key : Nat) (bs : List Byte) (bad : Bool) : Holding c (tookBytes key bs bad b) (layBytes m key bs) := by
  obtain ⟨p, rfl⟩ := h
  exact ⟨_, rfl⟩

theorem Holding.same {c b : Copy} {m : SMap (Option Byte)} (h : Holding c b m) : b.desc = c.desc ∧ b.rev = c.rev ∧ b.job = c.job ∧ b.hb = c.hb ∧ b.writes = c.writes := by
  obtain ⟨p, rfl⟩ := h
  exact ⟨rfl, rfl, rfl, rfl, rfl⟩

/-- The elements of a row are read into the buffer, and nothing else of the state changes. -/
theorem readElems_row {s : State} {c : Copy} {k : Nat} (h : RowCopy s c k) : ∀ (es : List Nat) (u : State) (b : Copy) (m : SMap (Option Byte)), (∀ e ∈ es, e < k) → SameButCopies s u →
    u.copy? c.id = some b → Holding c b m →
    ∃ t q, u.readElems c.id s.cur es = (t, .ok true) ∧ SameButCopies s t ∧ t.copy? c.id = some q ∧ Holding c q (readInto s (ownLoc s c.desc.src) m es) := by
  intro es
  induction es with
  | nil => exact fun u b m _ hu hc hb => ⟨u, b, rfl, hu, hc, hb⟩
  | cons e es ih =>
    intro u b m hes hu hc hb
    obtain ⟨hdesc, hrev, hjob, hhb, hwrites⟩ := hb.same
    rw [readElems_cons h (hes e List.mem_cons_self) hu hdesc hrev hjob hhb hwrites hc, readInto_cons]
    generalize u.poisoned (ownLoc s c.desc.src + 8 * e) 8 = bad
    have hcopy := State.copy?_onCopy (f := tookBytes (streamKey (e * 8)) (s.bytesAt (ownLoc s c.desc.src + 8 * e) 8) bad) hc (tookBytes_id _ _ _)
    exact ih _ _ _ (fun x hx => hes x (List.mem_cons_of_mem _ hx)) (hu.onCopy c.id _) hcopy (hb.took ..)

end Sys2Proof.Machine
end

section
/-! Writing the chunk (R199, R263). -/

namespace Sys2Proof.Machine
open Sys2Proof.Claims

/-- Where an element of a row goes. -/
def rowDest (s : State) (c : Copy) (e : Nat) : Dest := ⟨e, c.desc.dst + BitVec.ofNat 64 (8 * e), ownHit s (c.desc.dst + BitVec.ofNat 64 (8 * e))⟩

section
variable {s u : State} {c : Copy} {k : Nat} (h : RowCopy s c k)
include h

theorem RowCopy.dest_loc {e : Nat} (he : e < k) : (rowDest s c e).hit.loc = ownLoc s c.desc.dst + 8 * e := h.dst_loc he

/-- The destinations of a row are all found, and finding them changes nothing (R202, R279). -/
theorem destElems_row (hu : SameButCopies s u) {b : Copy} (hdesc : b.desc = c.desc) (hrev : b.rev = c.rev) : ∀ es : List Nat, (∀ e ∈ es, e < k) →
    u.destElems b s.cur es = (u, .ok (es.map (rowDest s c))) := by
  intro es
  induction es with
  | nil => intro _; rfl
  | cons e es ih =>
    intro hes
    have he := hes e List.mem_cons_self
    have hreach := copyReach_own (ownAccess_of_copies (h.own e he).2 hu) b (kind := .copyDst) rfl
    rw [hu.cur, hu.ownHit] at hreach
    have hrest := ih fun x hx => hes x (List.mem_cons_of_mem _ hx)
    unfold State.destElems
    rw [hdesc, hrev, h.elem he, h.size]
    dsimp only
    rw [hreach]
    dsimp only
    rw [hrest]
    rfl

/-- Destinations here are all written (R199). -/
theorem lastOnly_row : ∀ es : List Nat, (∀ e ∈ es, e < k) → lastOnly (es.map (rowDest s c)) = es.map (rowDest s c) := by
  intro es
  induction es with
  | nil => intro _; rfl
  | cons e es ih =>
    intro hes
    have he := hes e List.mem_cons_self
    have hhere : isHere (rowDest s c e).hit.loc = true := (h.own e he).2.here
    rw [List.map_cons, lastOnly, hhere, Bool.not_true, Bool.false_and, if_neg Bool.false_ne_true, ih fun x hx => hes x (List.mem_cons_of_mem _ hx)]

end

/-- Parts that cover the dwords of a row from one element to another, each where the row has it. -/
def Tiles (loc : Nat) : List Part → Nat → Nat → Prop
  | [], a, b => a = b
  | x :: xs, a, b => x.elem = a ∧ x.loc = loc + 8 * a ∧ x.sable = false ∧ Tiles loc xs (a + x.n) b

theorem Tiles.le {loc : Nat} : ∀ {xs : List Part} {a b : Nat}, Tiles loc xs a b → a ≤ b := by
  intro xs
  induction xs with
  | nil => exact fun h => Nat.le_of_eq h
  | cons x xs ih => exact fun ⟨_, _, _, h⟩ => (Nat.le_add_right _ _).trans (ih h)

/-- A row's destinations are gathered in parts that cover it (R199). -/
theorem partsOf_tiles {s : State} {c : Copy} {k : Nat} (h : RowCopy s c k) (j : Nat) : ∀ n a, a + n ≤ k → Tiles (ownLoc s c.desc.dst) (partsOf 8 j ((List.range' a n).map (rowDest s c))) a (a + n) := by
  intro n
  induction n with
  | zero => exact fun a _ => rfl
  | succ n ih =>
    intro a ha
    have hrest := ih (a + 1) (by omega)
    have hloc := h.dest_loc (e := a) (by omega)
    rw [show a + (n + 1) = a + 1 + n by omega]
    rw [List.range'_succ, List.map_cons, partsOf]
    cases hparts : partsOf 8 j ((List.range' (a + 1) n).map (rowDest s c)) with
    | nil =>
      rw [hparts] at hrest
      exact ⟨rfl, hloc, rfl, hrest⟩
    | cons x xs =>
      rw [hparts] at hrest
      dsimp only
      split
      · obtain ⟨_, _, _, htail⟩ := hrest
        exact ⟨rfl, hloc, rfl, by rwa [show a + (x.n + 1) = a + 1 + x.n by omega]⟩
      · exact ⟨rfl, hloc, rfl, hrest⟩

/-- The stream byte a copy holds at a position. -/
def Copy.heldByte (c : Copy) (p : Nat) : Byte := (c.buf.get none (streamKey p)).getD 0

/-- What a write of parts of a row changes: the bytes of the elements from a to b, and no other byte, neither the strand nor the engines (R199, R263). -/
structure RowWritten (s t : State) (c : Copy) (loc a b : Nat) : Prop where
  inside : ∀ x, loc + 8 * a ≤ x → x < loc + 8 * b → t.mem.get memDefault x = c.heldByte (x - loc)
  outside : ∀ x, x < loc + 8 * a ∨ loc + 8 * b ≤ x → t.mem.get memDefault x = s.mem.get memDefault x
  cur : t.cur = s.cur
  pkg : t.pkg = s.pkg

theorem rowWritten_none (s : State) (c : Copy) (loc a : Nat) : RowWritten s s c loc a a := ⟨fun _ h h' => absurd (h.trans_lt h') (lt_irrefl _), fun _ _ => rfl, rfl, rfl⟩

theorem RowWritten.trans {s t u : State} {c : Copy} {loc a m b : Nat} (h : RowWritten s t c loc a m) (g : RowWritten t u c loc m b) (ham : a ≤ m) (hmb : m ≤ b) : RowWritten s u c loc a b where
  inside x hx hx' := by
    by_cases hm : loc + 8 * m ≤ x
    · exact g.inside x hm hx'
    · rw [g.outside x (by omega), h.inside x hx (by omega)]
  outside x hx := by rw [g.outside x (by omega), h.outside x (by omega)]
  cur := g.cur.trans h.cur
  pkg := g.pkg.trans h.pkg

/-- A part of a row is written at its home (R263). -/
theorem writePart_row (s : State) {c : Copy} {x : Part} {loc : Nat} (hsize : c.desc.esize = 8) (hred : c.desc.reduce = 0) (hloc : x.loc = loc + 8 * x.elem) (hsable : x.sable = false) :
    RowWritten s (s.writePart c x).2 c loc x.elem (x.elem + x.n) := by
  obtain ⟨bs, hbs⟩ : ∃ bs, bs = (List.range (x.n * 8)).map fun i => c.heldByte (x.elem * 8 + i) := ⟨_, rfl⟩
  obtain ⟨bad, hwrite⟩ : ∃ bad, s.writePart c x = s.engineWrite x.key x.loc 8 false bs bad := by
    refine ⟨(c.held (x.elem * 8) (x.n * 8)).2, ?_⟩
    unfold State.writePart
    rw [hsize, hred, hsable, hbs]
    rfl
  have hmem : (s.writePart c x).2.mem = SMap.setList memDefault s.mem x.loc bs := by rw [hwrite]; exact engineWrite_mem ..
  have hlen : bs.length = x.n * 8 := by rw [hbs]; simp
  refine ⟨fun y hy hy' => ?_, fun y hy => ?_, by rw [hwrite]; exact engineWrite_cur .., by rw [hwrite]; exact engineWrite_pkg ..⟩
  · obtain ⟨i, rfl⟩ : ∃ i, y = x.loc + i := ⟨y - x.loc, by omega⟩
    have hi : i < x.n * 8 := by omega
    rw [hmem, show x.loc + i - loc = x.elem * 8 + i by omega]
    exact SMap.get_setList_in memDefault s.mem x.loc bs (by rw [hbs]; simp [hi])
  · rw [hmem]
    exact SMap.get_setList_of_out memDefault s.mem x.loc bs y (by rw [hlen]; omega)

/-- One part of a chunk of a copy without a map: sent to its peer, or performed (R199). -/
def partStep (c : Copy) (a : Nat × State) (x : Part) : Nat × State :=
  if isPeerLoc x.loc then (a.1, a.2.sendPart c x none)
  else
    let (w, b) := a.2.performPart c x
    (a.1 ||| w, b)

theorem partStep_here (c : Copy) (a : Nat × State) {x : Part} (h : x.loc < 2 ^ 46) : (partStep c a x).2 = (a.2.writePart c x).2 := by
  have hpeer : isPeerLoc x.loc = false := decide_eq_false (by omega)
  have hhere : isHere x.loc = true := decide_eq_true h
  unfold partStep State.performPart
  rw [hpeer, if_neg Bool.false_ne_true, if_pos hhere]

/-- The parts that cover a row are written one after the other (R199). -/
theorem partSteps_row {c : Copy} {loc : Nat} (hsize : c.desc.esize = 8) (hred : c.desc.reduce = 0) : ∀ (xs : List Part) (a b : Nat) (acc : Nat × State), Tiles loc xs a b → loc + 8 * b < 2 ^ 46 →
    RowWritten acc.2 (xs.foldl (partStep c) acc).2 c loc a b := by
  intro xs
  induction xs with
  | nil =>
    intro a b acc h _
    obtain rfl : a = b := h
    exact rowWritten_none ..
  | cons x xs ih =>
    intro a b acc h hb
    obtain ⟨helem, hloc, hsable, hrest⟩ := h
    subst helem
    have hle := hrest.le
    have hfirst : RowWritten acc.2 (partStep c acc x).2 c loc x.elem (x.elem + x.n) := by
      rw [partStep_here c acc (by omega)]
      exact writePart_row acc.2 hsize hred hloc hsable
    exact hfirst.trans (ih _ _ _ hrest hb) (Nat.le_add_right _ _) hle

/-- A chunk of which nothing is under way, held or lost, and which no map commits, is in place (R199). -/
theorem commitChunk_plain {s : State} {id j : Nat} {c : Copy} (h : s.copy? id = some c) (hout : c.out = []) (hbits : c.bits = []) (hlost : c.lost = []) :
    s.commitChunk id j = (s.chunkDone id j).copySettle id := by
  unfold State.commitChunk Copy.busy
  rw [h]
  dsimp only
  rw [hout, hbits, hlost]
  rfl

/-- The chunk of a row copy, held whole, is written at its destination (R199). -/
theorem writeChunk_row {s u : State} {c b : Copy} {k : Nat} (h : RowCopy s c k) (hu : SameButCopies s u) (hc : u.copy? c.id = some b) (hdesc : b.desc = c.desc) (hrev : b.rev = c.rev)
    (hred : c.desc.reduce = 0) (hout : b.out = []) (hbits : b.bits = []) (hlost : b.lost = []) :
    (∀ x, x < 8 * k → (u.writeChunk b s.cur 0 none).mem.get memDefault (ownLoc s c.desc.dst + x) = b.heldByte x) ∧
    (∀ x, x < ownLoc s c.desc.dst ∨ ownLoc s c.desc.dst + 8 * k ≤ x → (u.writeChunk b s.cur 0 none).mem.get memDefault x = s.mem.get memDefault x) ∧ (u.writeChunk b s.cur 0 none).cur = s.cur := by
  have hid : b.id = c.id := State.copy?_id hc
  have hrange : ∀ e ∈ List.range k, e < k := fun e he => List.mem_range.mp he
  obtain ⟨xs, hxs⟩ : ∃ xs, xs = partsOf 8 0 ((List.range k).map (rowDest s c)) := ⟨_, rfl⟩
  obtain ⟨r, hr⟩ : ∃ r, r = xs.foldl (partStep b) (0, u) := ⟨_, rfl⟩
  have hchunk : u.writeChunk b s.cur 0 none = (r.2.onCopy b.id fun c => { c with writes := c.writes ||| r.1 }).commitChunk b.id 0 := by
    unfold State.writeChunk
    rw [hdesc, h.elems, destElems_row h hu hdesc hrev _ hrange]
    dsimp only
    rw [hred, if_pos rfl, lastOnly_row h _ hrange, h.size, ← hxs, List.find?_eq_none.mpr (by simp)]
    dsimp only
    rw [hr]
    rfl
  have htiles : Tiles (ownLoc s c.desc.dst) xs 0 k := by
    have hparts := partsOf_tiles h 0 k 0 (by omega)
    rwa [← List.range_eq_range', ← hxs, Nat.zero_add] at hparts
  have hwritten : RowWritten u r.2 b (ownLoc s c.desc.dst) 0 k := by
    rw [hr]
    exact partSteps_row (by rw [hdesc, h.size]) (by rw [hdesc, hred]) xs 0 k (0, u) htiles h.dst_here
  have hcopy : (r.2.onCopy b.id fun c => { c with writes := c.writes ||| r.1 }).copy? b.id = some { b with writes := b.writes ||| r.1 } := by
    refine State.copy?_onCopy ?_ fun _ => rfl
    rw [State.copy?, hwritten.pkg, hid]
    exact hc
  have hend := commitChunk_plain (j := 0) hcopy hout hbits hlost
  rw [hchunk, hend, State.copySettle_mem, State.copySettle_cur]
  refine ⟨fun x hx => ?_, fun x hx => ?_, hwritten.cur.trans hu.cur⟩
  · have hbyte := hwritten.inside (ownLoc s c.desc.dst + x) (by omega) (by omega)
    rw [Nat.add_sub_cancel_left] at hbyte
    exact hbyte
  · have hbyte := hwritten.outside x (by omega)
    rw [hu.mem] at hbyte
    exact hbyte

end Sys2Proof.Machine
end

section
/-! A chunk of a copy, its tokens and its fault together (R197, R199, R202). -/

namespace Sys2Proof.Machine
open Sys2Proof.Claims

/-- A chunk once read: marked so, and nothing else of the copy changed (R199). -/
def markRead (j : Nat) (x : Copy) : Copy := { x with read := if x.read.contains j then x.read else j :: x.read }

/-- The one chunk of a row copy, read, is written at once: it waits neither for a chunk before it nor for one to be read (R199, R201). -/
theorem chunkWrite_row {s : State} {c : Copy} (t : Strand) (h : s.copy? c.id = some c) (hchunks : c.desc.chunks = 1) (hread : c.read = [0]) (hrev : c.rev = false) (hue : c.ue = none) (hsingle : c.desc.multicast = false) :
    s.chunkWrite c.id 0 t none = s.writeChunk c t 0 none := by
  have hall : (List.range c.desc.chunks).all (fun i => c.read.contains i || c.done.contains i) = true := by
    rw [hchunks, hread]
    rfl
  have hturn : c.waitsTurn 0 = false := by
    unfold Copy.waitsTurn
    rw [hrev, hue]
    rfl
  unfold State.chunkWrite
  rw [h]
  dsimp only
  rw [hall, hturn, hue, hsingle, Bool.not_true, Bool.and_false, Bool.or_false, if_neg Bool.false_ne_true]
  exact if_neg Bool.false_ne_true

/-- What reading leaves of a copy beside its buffer, once its chunk is marked read (R199). -/
theorem Holding.marked {c b : Copy} {m : SMap (Option Byte)} (h : Holding c b m) (hread : c.read = []) : ∃ p, markRead 0 b = { c with buf := m, bad := p, read := [0] } := by
  obtain ⟨p, rfl⟩ := h
  refine ⟨p, ?_⟩
  unfold markRead
  rw [hread]
  rfl

/-- COPY_CHUNK of a copy of one row within the own scratchpad (R199). -/
theorem exec_copyChunk_row {s : State} {c : Copy} {k : Nat} (h : RowCopy s c k) (hc : s.copy? c.id = some c) (hruns : s.copyRuns c = true) (huid : c.uid = s.cur.uid) (hred : c.desc.reduce = 0) (hflags : c.desc.flags = 0)
    (hfill : c.fill = none) (hue : c.ue = none) (hread : c.read = []) (hdone : c.done = []) (hout : c.out = []) (hbits : c.bits = []) (hlost : c.lost = []) :
    ∃ t, exec (.copyChunk c.id 0) s = .next t ∧ (∀ x, x < 8 * k → t.mem.get memDefault (ownLoc s c.desc.dst + x) = s.mem.get memDefault (ownLoc s c.desc.src + x)) ∧
      (∀ x, x < ownLoc s c.desc.dst ∨ ownLoc s c.desc.dst + 8 * k ≤ x → t.mem.get memDefault x = s.mem.get memDefault x) ∧ t.cur = s.cur := by
  have hstrand : s.strandOf c = s.cur := by
    unfold State.strandOf State.copyStrand
    rw [huid, State.byUid?_cur]
  have hmapped : c.desc.mapped = false := by
    unfold Desc.mapped
    rw [hflags]
    rfl
  have hsingle : c.desc.multicast = false := by
    unfold Desc.multicast
    rw [hflags]
    rfl
  obtain ⟨u, q, hreads, hu, hq, hhold⟩ := readElems_row h (List.range k) s c c.buf (fun e he => List.mem_range.mp he) (sameButCopies_refl s) hc ⟨c.bad, rfl⟩
  have hmark : (u.onCopy c.id (markRead 0)).copy? c.id = some (markRead 0 q) := State.copy?_onCopy hq fun _ => rfl
  obtain ⟨p, hp⟩ := hhold.marked hread
  rw [hp] at hmark
  have hperform : s.performChunk c 0 = (u.onCopy c.id (markRead 0)).chunkWrite c.id 0 s.cur none := by
    have hsource : s.readChunk c s.cur 0 = (u, .ok true) := by
      unfold State.readChunk
      rw [hread, hfill, hue, h.elems, if_neg (by decide)]
      exact hreads
    unfold State.performChunk
    rw [hstrand, hmapped]
    dsimp only
    rw [hsource]
    rfl
  have hexec : exec (.copyChunk c.id 0) s = .next (s.performChunk c 0) := by
    refine congrArg Host.Outcome.next ?_
    rw [hc]
    dsimp only
    rw [hruns, h.chunks, hread, hdone, Copy.busy, hout]
    rfl
  rw [hexec, hperform, chunkWrite_row (c := { c with buf := readInto s (ownLoc s c.desc.src) c.buf (List.range k), bad := p, read := [0] }) s.cur hmark h.chunks rfl h.rev hue hsingle]
  obtain ⟨hin, hframe, hcur⟩ := writeChunk_row h (hu.onCopy c.id (markRead 0)) hmark rfl rfl hred hout hbits hlost
  refine ⟨_, rfl, fun x hx => ?_, hframe, hcur⟩
  have hheld := readInto_get s (ownLoc s c.desc.src) x (List.range k) c.buf (.inl (List.mem_range.mpr (by omega)))
  rw [hin x hx, Copy.heldByte, hheld]
  rfl

/-- The token of a copy without a fault is its number of bytes (R197). -/
theorem tokenOf_plain (bytes : Nat) : tokenOf 0 bytes = BitVec.ofNat 64 (bytes % 2 ^ 40) := by rw [tokenOf, Nat.zero_mul, Nat.zero_add, word]

/-- Settles O25: a row read into the buffer stands there as in memory and is written in parts that cover its destination; a token changes its register alone; and a fault without a map posts its record, fills both tokens and ends the copy. -/
theorem copyEngine : Obligations.CopyEngine := by
  refine ⟨?_, ?_, ?_, ?_⟩
  case refine_1 =>
    intro s id c k hc hruns huid _ _ hsize hext hstr hred hflags hrev hfill hue hdone hread hout _ hbits hlost hpos hle _ src dst hown _ hknown
    obtain rfl := State.copy?_id hc
    exact exec_copyChunk_row ⟨hsize, hext, hstr, hrev, hpos, hle, hown, hknown⟩ hc hruns huid hred hflags hfill hue hread hdone hout hbits hlost
  case refine_2 =>
    intro s id c hc hruns hrel hread huid hfresh
    obtain ⟨t, hexec, htoken, hmem⟩ := exec_releaseTokenWrite hc hruns hrel hread huid hfresh
    exact ⟨t, hexec, tokenOf_plain c.bytesRead ▸ htoken.value, htoken.full, fun r hr => (htoken.others r hr).1, hmem, htoken.pc⟩
  case refine_3 =>
    intro s id c hc hruns hdone hrel hdel huid
    obtain ⟨t, hexec, htoken, hmem, hover⟩ := exec_deliveryTokenWrite hc hruns hdone hrel hdel huid
    exact ⟨t, hexec, tokenOf_plain c.bytesDone ▸ htoken.value, htoken.full, fun r hr => (htoken.others r hr).1, hmem, htoken.pc, hover⟩
  case refine_4 =>
    intro s id c f j hc hf hst hout hhold hmap hrep hrel hdel huid hj hruns clear r token hroom hbig
    exact exec_copyFaultPost hc hf hst hout hhold hmap hrep hrel hdel huid hj hruns hroom hbig

end Sys2Proof.Machine
end
